-- ==== Sys2Proof/Machine/Types.lean ====
section
/-! DEFINITION. What the operands of the commands say: flits, markers, register targets, and what the hardware finds. -/

namespace Sys2Proof.Machine

/-- A beat marker (R38): the master's TS64 at transmission, the hop count and the interval; `at` is the TS64 on which it arrived on the
port. -/
structure Marker where
  ts : BitVec 64
  hop : BitVec 8
  interval : BitVec 16
  arrived : BitVec 64 := 0
  deriving DecidableEq, Repr

/-- An election claim (R51): the key and the claimant's 16-byte DEVICE_UID. -/
structure Claim where
  key : BitVec 59
  origin : BitVec 128
  deriving DecidableEq, Repr

/-- A value on its way up the tree (R341 to R343): an E-mode integer with its state, or an IEEE 754 code. -/
inductive Wire where
  | e (v : Int) (st : Nat)
  | f32 (code : Nat)
  | f64 (code : Nat)
  deriving DecidableEq, Repr

/-- The parameters a posting carries (R339). -/
structure CollParams where
  op : Nat
  red : Nat
  srcFmt : Nat
  dstFmt : Nat
  wire : Nat
  bytes : Nat
  anchor : Nat
  size : Nat
  deriving DecidableEq, Repr

/-- What a flit carries.  The spec gives no layout of the bytes of control messages and link-control flits, so the
model holds what they say (log entry 24). -/
inductive Body where
  | idle
  /-- Bulk data bytes. -/
  | data (bs : List Byte)
  /-- A beat marker (R38). -/
  | marker (m : Marker)
  /-- An election claim (R51). -/
  | claim (c : Claim)
  /-- Link control (R315 to R317): acknowledgement, NAK of a SEQ, lane notice, port notice of a port. -/
  | ack
  | nak (seq : BitVec 16)
  | laneNotice (lane : BitVec 4)
  | portNotice (port : Nat)
  /-- A SEND's request with its count, the grant of the matching RECV, and the acknowledgement of its last byte (R329). -/
  | sendReq (bytes : Nat)
  | sendRefused (bytes : Nat)
  | grant (bytes : Nat)
  | sendDone
  /-- A collective's contribution (R339, R341 to R344): the posting sequence, the level of the tree, the parameters, the flags,
  how many values or bytes there are in all, and some of them in order. -/
  | contribution (seq level : Nat) (params : CollParams) (flags : BitVec 4) (total : Nat) (vals : List Wire) (bs : List Byte)
  /-- A collective's result (R338, R340, R344): the posting sequence, the flags, the bytes in all, and some from an offset on;
  or its abort (R339). -/
  | result (seq : Nat) (flags : BitVec 4) (total off : Nat) (bs : List Byte)
  | abort (seq : Nat)
  /-- A heal request for a codeword of a shared region, by its number and BASE, and its answer: none where it is refused (R382,
R383). -/
  | healReq (word region base : Nat)
  | healAns (word : Nat) (bs : Option (List Byte))
  deriving DecidableEq, Repr

/-- A flit (R313) without its check bytes: TYPE, VC, FIRST, LAST, SEQ, the coordinates, CHANNEL, and what it carries. -/
structure Flit where
  type : Nat
  vc : Bool := false
  first : Bool := true
  last : Bool := true
  seq : BitVec 16 := 0
  ack : BitVec 16 := 0
  dest : BitVec 15 := 0
  src : BitVec 15 := 0
  channel : BitVec 16 := 0
  body : Body
  /-- The failed port from which failover moved the flit (R317): bookkeeping of OWNED, not on the wire. -/
  moved : Option Nat := none
  /-- In link control: the places of its receive buffer that the sender has freed, for bulk on VC 0 and 1 and control on VC 0 and 1
(R324, R332; log entry 24). -/
  credit : List Nat := []
  /-- What the spare lane carries while the flit passes: data lane 0 to 7, alone or in rotation (R315); and the mark of the first
flit whose failed lane the spare carries. -/
  spare : BitVec 4 := 0
  mark : Bool := false
  /-- The port whose receive buffer holds the flit, and its place there: bookkeeping of the credits, not on the wire. -/
  via : Option (Nat × Nat) := none
  deriving DecidableEq, Repr

/-- How the parity check of an entry came out (R137 check 1). -/
inductive Parity where
  | good | mirror | bothBad
  deriving DecidableEq, Repr

/-- The check fault of an MMA: a row mismatch, or a residue or parity mismatch (R163, R164, R362). -/
inductive MmaFault where
  | row | residue
  deriving DecidableEq, Repr

/-- What the checkers of the register file and of the residues find as an instruction issues (R273). -/
inductive CcrCheck where
  | none | regCe | regUe | residue
  deriving DecidableEq, Repr

/-- What the memory code finds in the codeword it reads. -/
inductive EccFind where
  | clean | corrected | uncorrectable
  deriving DecidableEq, Repr

/-- The ways to a register (R458). -/
inductive RegPath where
  /-- BAR4 of PF0, and the BARs of a function. -/
  | pf0
  | vf (n : Fin 4)
  /-- The SPI management port, and the IEEE 1687 network. -/
  | spi
  | jtag
  deriving DecidableEq, Repr

/-- What the training of one port found, its retry included: a signal, the bad lanes, codeword and flit lock, the partner's
coordinate, direction, rank, board serial and DEVICE_UID, and, in 1/4,096 beat, the round trip that the port measured and the
turnaround that the partner reported (R39). -/
structure TrainIn where
  signal : Bool
  badLanes : List (Fin 9)
  locked : Bool
  nbr : BitVec 15
  dir : Fin 8
  rank : Fin 3
  serial : BitVec 40 := 0
  uid : BitVec 128 := 0
  roundTrip : BitVec 20
  turnaround : BitVec 20 := 0
  /-- Lanes that the partner found bad in phase 2 of what this end sends. -/
  txLanes : List (Fin 9) := []
  deriving DecidableEq, Repr

/-- The one-way delay of a port: half of the round trip less the partner's turnaround (R39); 0 where the turnaround is the larger. -/
def TrainIn.delay (t : TrainIn) : BitVec 20 := BitVec.ofNat 20 ((t.roundTrip.toNat - t.turnaround.toNat) / 2)

/-- The SR-IOV capability, and the configuration space of a function as R456 gives it: identity and class, the PCI Express capability (lanes
and GT/s of an endpoint, FLIT mode, function-level reset), the MSI-X vectors, SR-IOV and advanced error reporting. -/
structure SrIov where
  totalVfs : Nat
  initialVfs : Nat
  firstOffset : Nat
  stride : Nat
  deriving DecidableEq, Repr
structure ConfigSpace where
  device : BitVec 16
  vendor : BitVec 16
  class_ : BitVec 24
  link : Option (Nat × Nat)
  flit : Bool
  flr : Bool
  vectors : Nat
  sriov : Option SrIov
  aer : Bool
  deriving DecidableEq, Repr

/-- What an output does to its line (R421, R422). -/
inductive Drive where
  | low | high | z
  deriving DecidableEq, Repr

/-- What a test finds: nothing, faulty lanes, or a failure that no remap mends. -/
inductive TestResult where
  | pass
  | lanes (ls : List (Fin 513))
  | fail
  deriving DecidableEq, Repr

/-- What is lost: a stack that poisons too much, a compute die that lost power or its bridges, or the scratch of a site whose
domain lost power. -/
inductive LostUnit where
  | stack (s : Fin 16)
  | die (s : Fin 16)
  | site (n : Fin 80)
  deriving DecidableEq, Repr

/-- Three samples of POS[2:0] and PRIORITY[3:0], in bits 6 to 4 and 3 to 0; each strap takes the value of two of them (R423). -/
structure StrapSamples where
  a : BitVec 7
  b : BitVec 7
  c : BitVec 7
  deriving DecidableEq, Repr

/-- A warm reset from outside: the strap samples of its release, and what the board writes into the two banks of the boot flash while the
device leaves its lines free (R403, R427, R439). -/
structure ResetIn where
  straps : StrapSamples
  flash : List (Bool × List Byte)
  deriving DecidableEq, Repr

/-- The end of a domain's ramp: the domain, and for a core site whether its bring-up found it good (R434, R435). -/
structure RampEnd where
  dom : Fin 171
  ok : Bool
  deriving DecidableEq, Repr

/-- A TAP scan with the bypass register selected: the instruction code, and the bits on TDI (R397). -/
structure BypassIn where
  code : BitVec 8
  tdi : List Bool
  deriving DecidableEq, Repr

/-- What brings a cold reset about (R439). -/
inductive ColdCause where
  | vaux (straps : StrapSamples)
  | control
  deriving DecidableEq, Repr

/-- What one sample reads: the temperature of each die in the order of R19, signed, 0.1 °C; TEMP and IIN_MA of each power die; and
VIN48 in mV and the package power in mW averaged over the last 1,000 beats. -/
structure Sample where
  dies : List (BitVec 16)
  pds : List (BitVec 16 × BitVec 32)
  vinMv : BitVec 32
  pkgMw : BitVec 32
  deriving DecidableEq, Repr

/-- What a log read meets (R385): banks that decode, or a bank (B where `bankB`) whose write-back fails twice in a row. -/
inductive LogEcc where
  | clean
  | lost (bankB : Bool)
  deriving DecidableEq, Repr

/-- Where a register write goes: the control space, by PF0 or JTAG; the registers of a mailbox page or of a queue window of a function,
at an offset of the page or window; a function's MSI-X table; or VF Enable of PF0's configuration space, set. -/
inductive RegTarget where
  | space (jtag : Bool) (off : BitVec 32)
  | page (func : Fin 5) (ch : Fin 8) (off : Fin 0x4000)
  | queue (func : Fin 5) (win : Fin 72) (off : Fin 0x20000)
  | msixTable (func : Fin 5) (off : Fin 4096)
  | vfEnable
  deriving DecidableEq, Repr

/-- An access of an instrument: a read or write of a register; a write or read of a stack's STK_REPAIR; a read of a site's scratch,
accumulator row, stationary set or control core; a read of an entry of the staging buffer. -/
inductive IjtagOp where
  | regWrite (off : BitVec 32) (v : BitVec 64)
  | regRead (off : BitVec 32)
  | repairWrite (s : Fin 16) (v : BitVec 64)
  | repairRead (s : Fin 16)
  | scratch (n : Fin 80) (off : Fin 8388608) (len : Fin 4097)
  | accRow (n : Fin 80) (row : Fin 4096)
  | set (n : Fin 80) (second : Bool)
  | threads (n : Fin 80)
  | streams (n : Fin 80)
  | staging (i : Fin 16384)
  deriving DecidableEq, Repr

end Sys2Proof.Machine
end

