-- ==== Sys2Proof/Syntax.lean ====
section
/-! DEFINITION. The commands of the part: one constructor per row of spec/opcode_table.json. -/

namespace Sys2Proof

open Sys2Proof.Machine


inductive Instr where
  /-- BEAT_IN_QUALIFY (R36). BEAT_IN qualifies after 256 consecutive periods each within 100 ns ± 2 ns. -/
  | beatInQualify
  /-- BEAT_IN_DISQUALIFY (R36). BEAT_IN is disqualified after 2 missing edges or 4 periods out of tolerance; BEAT_OUT and the frequency source change. -/
  | beatInDisqualify
  /-- PLL_LOCK (R41). The core PLL locks on its reference, and the beat counter starts at 0 after cold reset. -/
  | pllLock
  /-- BEAT_MARKER_SEND (R38). The timing master sends a beat marker on all ports every MARK_INTERVAL beats. -/
  | beatMarkerSend
  /-- BEAT_MARKER_RECEIVE (R39). A follower takes a marker, chooses its upstream port, sets count and phase, and forwards the marker. -/
  | beatMarkerReceive (port : Fin 24)
  /-- COUNTER_STEP (R49). After the pause, the counter is stepped to the master's count for an offset above 16 beats. -/
  | counterStep
  /-- SLEW_END (R49). The offset falls under 1 ns and SLEWING clears. -/
  | slewEnd
  /-- HOLDOVER_ENTRY (R45). No marker arrives for 3 intervals, so the follower enters holdover and records it. -/
  | holdoverEntry
  /-- HOLDOVER_PAUSE (R46). After 100,000 beats of holdover, the cores of armed plans stop at their next chunk boundaries and the plans pause. -/
  | holdoverPause
  /-- CLAIM_RECEIVE (R51). An election claim is received and is forwarded, ignored, or causes a withdrawal. -/
  | claimReceive
  /-- ELECTION_SETTLE (R51). No lower claim is seen for 1,024 beats, so the election settles as MASTER or FOLLOWER. -/
  | electionSettle
  /-- PROCESSOR_WATCHDOG_EXPIRY (R61). A firmware processor's watchdog expires, and the restart or halt outcome for that processor applies. -/
  | processorWatchdogExpiry (i : Fin 5)
  /-- PROCESSOR_RESTART_DONE (R61). A firmware processor finishes its restart from the authenticated image. -/
  | processorRestartDone (i : Fin 5)
  /-- REQUEST_WINDOW_WRITE (R65). The requester writes the mailbox request window; the write is ignored with WIN_BUSY while the copy runs. -/
  | requestWindowWrite (func : Fin 5) (ch : Fin 8) (off : Fin 4096) (data : List Byte)
  /-- DOORBELL_RING (R64). A write of MBX_DOORBELL.RING starts the copy, or is refused at FULL or ignored while busy. -/
  | doorbellRing (func : Fin 5) (ch : Fin 8)
  /-- REQUEST_COPY_DONE (R64). The request copy into the device queue completes and WIN_FREE returns to 1. -/
  | requestCopyDone (ch : Fin 8)
  /-- REQUEST_CHECK (R74). HP takes the copied request in rotating channel order and applies checks 1 to 9 and the duplicate rules. -/
  | requestCheck
  /-- REQUEST_DISPATCH (R69). An accepted request is passed to its owner once its ORDERED and admission waits end. -/
  | requestDispatch
  /-- RESPONSE_PLACE (R73). HP writes the response to a completed request into the channel queue and signals MSI-X. -/
  | responsePlace
  /-- RESPONSE_POP (R67). A write of MBX_RESP_POP.POP removes the oldest response. -/
  | responsePop (func : Fin 5) (ch : Fin 8)
  /-- CHANNEL_RESET (R77). A write of MBX_CTRL.CHAN_RESET discards queued requests and responses and resets SEQ. -/
  | channelReset (func : Fin 5) (ch : Fin 8)
  /-- CHANNEL_RESET_DONE (R77). The last discarded response has been dropped and RESET_BUSY clears. -/
  | channelResetDone (ch : Fin 8)
  /-- EVENT_LOSS_SUMMARY (R76). When space returns on channel 5, an event with CODE 0x170F reporting the lost events is queued. -/
  | eventLossSummary
  /-- DEVICE_INFO (R96). Returns the part, stepping, life cycle, class and map summary. -/
  | deviceInfo
  /-- SESSION_OPEN (R83). Opens a session on the channel and derives its key. -/
  | sessionOpen
  /-- SESSION_CLOSE (R84). Closes the channel's session. -/
  | sessionClose
  /-- PLAN_ADMIT (R110). Checks a plan image and admits it with a handle and cores, or returns NOT_ADMITTED. -/
  | planAdmit
  /-- PLAN_ARM (R86). Arms an admitted plan at START_BEAT, maps its cores and programs the sequencer. -/
  | planArm
  /-- PLAN_PAUSE (R87). Pauses an armed plan at its next step boundary. -/
  | planPause
  /-- PLAN_RESUME (R87). Resumes a paused plan at RESUME_BEAT. -/
  | planResume
  /-- PLAN_RETIRE (R87). Stops release, ends uncommitted chunks, and releases the plan's cores and queues. -/
  | planRetire
  /-- PLAN_STATUS (R88). Returns a plan's state and step status. -/
  | planStatus
  /-- RECIPE_SELECT (R89). Binds new recipe variants for groups from a step's start beat. -/
  | recipeSelect
  /-- DEBUG_RESUME (R90). Resumes a debug-held plan at RESUME_BEAT. -/
  | debugResume
  /-- FENCE (R91). Fences a unit and, for a site in service, replaces it as for a fault. -/
  | fence
  /-- UNFENCE (R92). Returns a fenced, tested unit to the held units. -/
  | unfence
  /-- FENCE_OVERRIDE (R92). Returns a fenced unit untested, or sets or clears its permanent mark. -/
  | fenceOverride
  /-- TEST_RUN (R93). Tests a held or fenced site out of service under stress. -/
  | testRun
  /-- TEST_CONFIG (R93). Sets the routine test interval in hours. -/
  | testConfig
  /-- CRATER_READ (R94). Returns entries of the crater table. -/
  | craterRead
  /-- LOG_READ (R95). Returns health-log records from an index. -/
  | logRead (ecc : LogEcc)
  /-- TELEMETRY (R96). Returns a power, current and temperature sample. -/
  | telemetry
  /-- CORE_MAP (R97). Returns the map from logical cores to core sites. -/
  | coreMap
  /-- TENANCY_CREATE (R98). Creates a tenancy with ranges and cores, and wipes its ranges. -/
  | tenancyCreate
  /-- TENANCY_DESTROY (R99). Retires the tenancy's plans, resets its channel, erases its key and wipes what it owned. -/
  | tenancyDestroy
  /-- SHARED_REGION (R100). Names or withdraws a read-only shared region. -/
  | sharedRegion
  /-- WIPE_POLICY (R101). Sets wipe verification and wipe on retire. -/
  | wipePolicy
  /-- LIFECYCLE_CHANGE (R405). Destroys tenancies, wipes memories, blows the state fuses and ends sessions. -/
  | lifecycleChange
  /-- FW_UPDATE (R103). Verifies an image and writes it to the inactive boot bank. -/
  | fwUpdate
  /-- KEY_PROVISION (R401). Unmasks and stores a new key in a slot. -/
  | keyProvision
  /-- LINK_STATUS (R96). Returns the port state masks and BT_STATUS. -/
  | linkStatus
  /-- PLAN_START (R116). START_BEAT is reached and the armed plan becomes running, or paused if a pause waits. -/
  | planStart (h : BitVec 16)
  /-- CHUNK_RELEASE (R254). The sequencer releases a chunk: the patch window is restored, streams are emptied, the signature is reset and threads start. -/
  | chunkRelease (c : Fin 72)
  /-- CHUNK_COMMIT (R255). Once commands, threads, stores and the signature are done, pending lines, atomic logs, sends, posts and completions are committed. -/
  | chunkCommit (c : Fin 72)
  /-- FLAG_DELIVERY (R141). A held EVSEND or SENDF reaches its target core's flag after the sending chunk commits. -/
  | flagDelivery
  /-- PROMISE_DEADLINE (R117). A step's promised beat passes without completion, so the step is PROMISE_MISSED and recorded. -/
  | promiseDeadline (h : BitVec 16)
  /-- RESUME_BEAT_REACHED (R120). RESUME_BEAT of a paused or held plan is reached; the plan is rebased and runs. -/
  | resumeBeatReached (h : BitVec 16)
  /-- RETIRE_CHUNK_DISCARD (R87). A retiring chunk that has not committed by its limit is discarded. -/
  | retireChunkDiscard (c : Fin 72)
  /-- SLOT_INPUT_DEADLINE (R356). At INPUT_OFF, unfilled slots get empty headers and late records are diverted. -/
  | slotInputDeadline (h : BitVec 16) (i : Fin 65536)
  /-- SWITCH_BEAT (R245). At SWITCH_BEAT the variant map changes, history records are reset and a switch record is written. -/
  | switchBeat (h : BitVec 16)
  /-- COMMAND_SLOT_WRITE (R128). Host software writes a queue slot; a write to a busy entry is ignored. -/
  | commandSlotWrite (func : Fin 5) (win : Fin 72) (off : Fin 65536) (data : List Byte)
  /-- CQ_TAIL_WRITE (R128). Host software publishes commands by writing CQ_TAIL, subject to the credit. -/
  | cqTailWrite (func : Fin 5) (win : Fin 72) (val : BitVec 64)
  /-- COMMAND_FETCH (R137). The device fetches a published entry and applies parity, TAG, opcode, field and variant checks. -/
  | commandFetch (c : Fin 72) (parity : Parity)
  /-- BREAK_FIRE (R148). A count or tag comparator fires, freezing the queue and holding the plan. -/
  | breakFire (c : Fin 72)
  /-- NOP (R134). Tensor command that does nothing. -/
  | nop (c : Fin 72)
  /-- DUMMY (R166). Draws current filler at DENSITY quarters for CYCLES cycles. -/
  | dummy (c : Fin 72)
  /-- WAITB (R139). Holds later commands until step start + WAIT_OFF. -/
  | waitb (c : Fin 72)
  /-- WAITB_EXPIRY (R139). The WAITB beat is reached and later commands may issue. -/
  | waitbExpiry (c : Fin 72)
  /-- QFENCE (R139). Holds later commands until every earlier command has completed. -/
  | qfence (c : Fin 72)
  /-- EVSEND (R141). Sets an event flag of its own core, or holds the send to another core until commit. -/
  | evsend (c : Fin 72)
  /-- EVWAIT (R141). Waits for an event flag and clears it. -/
  | evwait (c : Fin 72)
  /-- WLOAD (R154). Loads the inactive stationary set and its check sums. -/
  | wload (c : Fin 72) (flt : Bool)
  /-- WSWAP (R156). Exchanges the active and inactive sets in one cycle. -/
  | wswap (c : Fin 72)
  /-- MMA (R157). Streams operand rows against the active set into accumulator rows. -/
  | mma (c : Fin 72) (flt : Option MmaFault)
  /-- MMV (R228). Computes a matrix-vector product from the stack into FP32. -/
  | mmv (c : Fin 72) (flt : Bool)
  /-- ELEM (R236). Applies an element-wise operation in FP32 or BF16. -/
  | elem (c : Fin 72) (flt : Bool)
  /-- DRAIN (R218). Reads accumulator rows through the epilogue and writes outputs and statistics. -/
  | drain (c : Fin 72) (flt : Bool)
  /-- QUANT (R190). Converts wide inputs to block or integer formats with rotation, outliers and history. -/
  | quant (c : Fin 72) (flt : Bool)
  /-- DEQ (R208). Decodes blocks to a wide format with inverse rotation. -/
  | deq (c : Fin 72)
  /-- STATS (R209). Reduces elements to a sum, sum of squares, mean and variance, or amax. -/
  | stats (c : Fin 72)
  /-- COPY (R134). Moves BYTES from SRC to DST. -/
  | copy (c : Fin 72)
  /-- ATOM (R287). Logs atomic operations for application at commit. -/
  | atom (c : Fin 72)
  /-- COLL (R337). Checks a collective, which posts at the chunk's commit. -/
  | coll (c : Fin 72)
  /-- SEND (R329). Checks a send to a peer, which transmits at commit. -/
  | send (c : Fin 72)
  /-- RECV (R329). Posts a receive matched by peer and channel. -/
  | recv (c : Fin 72)
  /-- SOLVE (R293). Checks a solver job, which is submitted at the chunk's commit. -/
  | solve (c : Fin 72)
  /-- VENT (R378). Enters a vent window and runs the in-field test named by TEST_ID. -/
  | vent (c : Fin 72)
  /-- MARK (R388). Writes a trace record with the plan's CODE and PAYLOAD. -/
  | mark (c : Fin 72)
  /-- COMMAND_COMPLETE (R140). A command that took time completes and its effects become visible to later commands of the queue. -/
  | commandComplete (c : Fin 72) (idx : Nat)
  /-- GRANT_HOLD_EXPIRY (R167). The 300-cycle grant hold ends without demand, and the grant is released. -/
  | grantHoldExpiry (site : Fin 80)
  /-- RAMP_GOVERNOR_BEAT (R168). Each beat, the governor deals rise and fall quarters to the sites in rotating order. -/
  | rampGovernorBeat
  /-- ALU (R256). Control-core register operation selected by FN, floating-point forms included. -/
  | alu (c : Fin 72) (t : Fin 8) (chk : CcrCheck)
  /-- ADDI (R256). Adds an immediate. -/
  | addi (c : Fin 72) (t : Fin 8) (chk : CcrCheck)
  /-- ANDI (R256). ANDs a zero-extended immediate. -/
  | andi (c : Fin 72) (t : Fin 8) (chk : CcrCheck)
  /-- ORI (R256). ORs a zero-extended immediate. -/
  | ori (c : Fin 72) (t : Fin 8) (chk : CcrCheck)
  /-- XORI (R256). XORs a zero-extended immediate. -/
  | xori (c : Fin 72) (t : Fin 8) (chk : CcrCheck)
  /-- SLTI (R256). Signed compare with an immediate. -/
  | slti (c : Fin 72) (t : Fin 8) (chk : CcrCheck)
  /-- SHIFTI (R256). Shifts by an immediate amount. -/
  | shifti (c : Fin 72) (t : Fin 8) (chk : CcrCheck)
  /-- INSH (R256). Inserts 16 bits into rd. -/
  | insh (c : Fin 72) (t : Fin 8) (chk : CcrCheck)
  /-- LD (R262). Loads 8 bytes, with forwarding from the thread's own stores. -/
  | ld (c : Fin 72) (t : Fin 8) (chk : CcrCheck)
  /-- LW (R262). Loads 4 bytes, sign-extended. -/
  | lw (c : Fin 72) (t : Fin 8) (chk : CcrCheck)
  /-- LWU (R262). Loads 4 bytes, zero-extended. -/
  | lwu (c : Fin 72) (t : Fin 8) (chk : CcrCheck)
  /-- LH (R262). Loads 2 bytes, sign-extended. -/
  | lh (c : Fin 72) (t : Fin 8) (chk : CcrCheck)
  /-- LHU (R262). Loads 2 bytes, zero-extended. -/
  | lhu (c : Fin 72) (t : Fin 8) (chk : CcrCheck)
  /-- LB (R262). Loads 1 byte, sign-extended. -/
  | lb (c : Fin 72) (t : Fin 8) (chk : CcrCheck)
  /-- LBU (R262). Loads 1 byte, zero-extended. -/
  | lbu (c : Fin 72) (t : Fin 8) (chk : CcrCheck)
  /-- SD (R261). Stores 8 bytes through the store buffer. -/
  | sd (c : Fin 72) (t : Fin 8) (chk : CcrCheck)
  /-- SW (R261). Stores 4 bytes through the store buffer. -/
  | sw (c : Fin 72) (t : Fin 8) (chk : CcrCheck)
  /-- SH (R261). Stores 2 bytes through the store buffer. -/
  | sh (c : Fin 72) (t : Fin 8) (chk : CcrCheck)
  /-- SB (R261). Stores 1 byte through the store buffer. -/
  | sb (c : Fin 72) (t : Fin 8) (chk : CcrCheck)
  /-- BEQ (R256). Branches if equal. -/
  | beq (c : Fin 72) (t : Fin 8) (chk : CcrCheck)
  /-- BNE (R256). Branches if not equal. -/
  | bne (c : Fin 72) (t : Fin 8) (chk : CcrCheck)
  /-- BLT (R256). Branches if less than, signed. -/
  | blt (c : Fin 72) (t : Fin 8) (chk : CcrCheck)
  /-- BGE (R256). Branches if greater or equal, signed. -/
  | bge (c : Fin 72) (t : Fin 8) (chk : CcrCheck)
  /-- BLTU (R256). Branches if less than, unsigned. -/
  | bltu (c : Fin 72) (t : Fin 8) (chk : CcrCheck)
  /-- BGEU (R256). Branches if greater or equal, unsigned. -/
  | bgeu (c : Fin 72) (t : Fin 8) (chk : CcrCheck)
  /-- JAL (R256). Jumps and links into s31. -/
  | jal (c : Fin 72) (t : Fin 8) (chk : CcrCheck)
  /-- JR (R256). Jumps to a register target. -/
  | jr (c : Fin 72) (t : Fin 8) (chk : CcrCheck)
  /-- PUSHA (R266). Pushes a 128-byte descriptor onto the thread's address stream. -/
  | pusha (c : Fin 72) (t : Fin 8) (chk : CcrCheck)
  /-- SETF (R264). Sets a flag of the own core after the thread's stores drain. -/
  | setf (c : Fin 72) (t : Fin 8) (chk : CcrCheck)
  /-- CLRF (R264). Clears a flag of the own core. -/
  | clrf (c : Fin 72) (t : Fin 8) (chk : CcrCheck)
  /-- WAITF (R264). Blocks until a flag is set, then clears it. -/
  | waitf (c : Fin 72) (t : Fin 8) (chk : CcrCheck)
  /-- SENDF (R264). Sets a flag of a logical core, held until commit when the core is another. -/
  | sendf (c : Fin 72) (t : Fin 8) (chk : CcrCheck)
  /-- GETC (R258). Reads a context value. -/
  | getc (c : Fin 72) (t : Fin 8) (chk : CcrCheck)
  /-- SYNC (R256). Waits until the thread's stores have drained. -/
  | sync (c : Fin 72) (t : Fin 8) (chk : CcrCheck)
  /-- PSYNC (R263). Drains the thread's stores and takes a new patch-window view. -/
  | psync (c : Fin 72) (t : Fin 8) (chk : CcrCheck)
  /-- HALT (R256). Drains the thread's stores and ends the thread for the chunk. -/
  | halt (c : Fin 72) (t : Fin 8) (chk : CcrCheck)
  /-- CCR_NOP (R256). Control-core instruction that does nothing. -/
  | ccrNop (c : Fin 72) (t : Fin 8) (chk : CcrCheck)
  /-- STORE_BUFFER_DRAIN (R261). The oldest store-buffer entry drains to memory, waking waiting threads. -/
  | storeBufferDrain (c : Fin 72)
  /-- CCR_DEADLOCK (R268). All started threads and the queue have waited 64 beats without a flag set, which is a program fault. -/
  | ccrDeadlock (c : Fin 72)
  /-- PATROL_SCRUB (R281). Every INTERVAL beats, scrub reads, corrects and writes back the next codeword of each stack. -/
  | patrolScrub (s : Fin 16) (found : EccFind)
  /-- SOFT_REPAIR (R282). HLP copies a weak row to a spare row while no plan is armed. -/
  | softRepair (s : Fin 16)
  /-- MEMORY_WIPE (R291). A range is written with zeros, its DSC lines invalidated, and it is verified. -/
  | memoryWipe (s : Fin 16) (bad : List (BitVec 25))
  /-- FUSE_SPARE_ROW (R282). STK_REPAIR OP 1 with GO fuses a spare row. -/
  | fuseSpareRow (path : RegPath) (s : Fin 16) (die : Fin 2) (bank : Fin 128) (row : Fin 1024)
  /-- FUSE_SPARE_BANK (R282). STK_REPAIR OP 2 with GO fuses a spare bank. -/
  | fuseSpareBank (path : RegPath) (s : Fin 16) (die : Fin 2) (bank : Fin 128) (row : Fin 1024)
  /-- RAW_READ (R282). STK_REPAIR OP 3 with GO reads one raw codeword into DATA. -/
  | rawRead (path : RegPath) (s : Fin 16) (die : Fin 2) (bank : Fin 128) (row : Fin 1024)
  /-- MATRIX_FINISH (R295). A solver engine finishes a matrix and the sequencer deals the next one. -/
  | matrixFinish (e : Fin 4) (mismatch : Bool)
  /-- SOLVER_PUBLISH (R302). At the job deadline, results are published FRESH or the header is marked STALE or MISSING. -/
  | solverPublish
  /-- FLIT_RECEIVE (R314). A flit is received and taken if good; a bad flit is discarded with a NAK and OWNED. -/
  | flitReceive (port : Fin 24) (decoded delimOk crcOk : Bool) (ce : List Nat) (f : Flit)
  /-- LANE_FAIL (R315). A data lane loses lock or exceeds LANE_THR, and the receiver sends a lane notice. -/
  | laneFail (port : Fin 24) (lane : Fin 9) (lostLock : Bool)
  /-- LANE_NOTICE (R315). The transmitter switches the spare lane to the failed lane at the next flit boundary. -/
  | laneNotice (port : Fin 24)
  /-- NAK_RECEIVE (R316). The transmitter resends from the named SEQ ahead of new traffic. -/
  | nakReceive (port : Fin 24)
  /-- REPLAY_TIMEOUT (R316). No ACK or NAK arrives within 16 beats of a resend, so the attempt fails. -/
  | replayTimeout (port : Fin 24)
  /-- PORT_FAIL (R317). A port fails, sends port notices and moves its unacknowledged flits to the other ports. -/
  | portFail (port : Fin 24)
  /-- PORT_NOTICE (R317). A port notice from the partner makes the device fail the port and resend its flows. -/
  | portNotice (port : Fin 24)
  /-- DIRECTION_REROUTE (R326). LKP installs detour routes after every port of a direction has failed. -/
  | directionReroute (dir : Fin 8)
  /-- TRAINING_DONE (R327). Link training of the ports ends with each port UP or in a failed state. -/
  | trainingDone (found : List TrainIn)
  /-- PORT_RETRAIN (R328). Every 10,000,000 beats, LKP retrains a FAILED port. -/
  | portRetrain (port : Fin 24) (t : TrainIn)
  /-- SEND_REQUEST (R329). A peer's send request is matched with a posted RECV or waits in the request table. -/
  | sendRequest
  /-- SEND_REQUEST_RETRY (R332). A refused send request is retried every 16 beats. -/
  | sendRequestRetry
  /-- RECV_DATA (R330). Data for a RECV arrives as pending lines, and the RECV completes at BYTES. -/
  | recvData
  /-- RECV_TIMEOUT (R331). A RECV's timeout expires, a CLASS 4 record is written and the queue halts. -/
  | recvTimeout
  /-- COLL_CONTRIBUTION (R335). A leader receives a child's contribution, checks its parameters and adds in rank order. -/
  | collContribution (e : Fin 16) (mismatch : Bool)
  /-- COLL_RESULT (R338). Result data is committed to DST, and at completion event flag TAG[5:0] is set. -/
  | collResult
  /-- ENGINE_MOVE_DONE (R345). The segments of a fenced collective engine finish moving to another engine. -/
  | engineMoveDone (e : Fin 16)
  /-- COLL_TIMEOUT (R347). A collective's TIMEOUT expires, and the posting queue halts with a record. -/
  | collTimeout
  /-- STREAM_FRAME_RECEIVE (R353). An Ethernet frame is filtered, and its fragment is reassembled or diverted. -/
  | streamFrameReceive (port : Fin 4) (frame : List Byte)
  /-- SLOT_RECORD (R356). A complete KIND 0 record fills its slot or is diverted. -/
  | slotRecord (port : Fin 4)
  /-- LOAD_RECORD (R357). A KIND 1 record writes its payload to ADDR or is denied. -/
  | loadRecord (port : Fin 4)
  /-- READ_REQ (R358). A KIND 4 record asks for committed memory to be sent as READ_DATA. -/
  | readReq (port : Fin 4)
  /-- RECORD_SEND (R359). An outbound export, trace or read-data record is sent whole on a port. -/
  | recordSend (port : Fin 4)
  /-- DIVERT_POP (R360). A write of STM_DIV_POP removes the oldest divert entry. -/
  | divertPop (path : RegPath)
  /-- ETHERTYPE_WRITE (R351). A write of STM_ETHERTYPE enables or disables the stream ports. -/
  | ethertypeWrite (path : RegPath) (v : BitVec 16)
  /-- STREAM_PORT_UP (R351). A stream port completes training and is UP. -/
  | streamPortUp (port : Fin 4)
  /-- SITE_RECOVERY (R369). HLP fences the faulty site, chooses a spare and redirects the logical core's state. -/
  | siteRecovery (site : Fin 80)
  /-- SPARE_IN_SERVICE (R369). The warm spare is ungated and mapped, and state load begins. -/
  | spareInService (site : Fin 80) (ok : Bool)
  /-- STATE_LOAD_DONE (R369). Scratch, sets, text and flags are loaded, and the spare replays the chunk. -/
  | stateLoadDone (site : Fin 80)
  /-- IN_PLACE_RECOMPUTE (R372). An uncorrectable pending DSC line makes the chunk recompute on the same site. -/
  | inPlaceRecompute (c : Fin 72) (addr : Fin 34359738368)
  /-- PROGRESS_STOP (R373). A unit makes no progress for 32 beats, which raises a check fault. -/
  | progressStop (c : Fin 72) (unit : Fin 9)
  /-- WATCHDOG_OVERRUN (R373). A chunk reaches WC_BEATS, and a CODE 0x1704 record is written. -/
  | watchdogOverrun (c : Fin 72)
  /-- COMMAND_WATCHDOG_EXPIRY (R373). At WC_BEATS + WDOG_GRACE, the site is recovered, or on the spare the queue halts. -/
  | commandWatchdogExpiry (c : Fin 72)
  /-- SPARE_WARM (R370). HLP brings a held cold site up to warm through the bring-up phases. -/
  | spareWarm (site : Fin 80) (ok : Bool)
  /-- CRATER_TABLE_SAVE (R374). HLP rewrites the crater table area of the boot flash. -/
  | craterTableSave
  /-- FENCED_SITE_TEST (R375). HLP tests a fenced site out of service and returns or keeps it. -/
  | fencedSiteTest (site : Fin 80)
  /-- TEST_DONE (R379). An in-field test ends: pass, pass after remap, or fence. -/
  | testDone (site : Fin 80) (result : TestResult)
  /-- TEST_DUE (R380). A site's test interval passes, so it is tested or shown overdue. -/
  | testDue (site : Fin 80)
  /-- OVERDUE_SWAP (R381). A site more than 1 hour overdue is swapped for a spare at a chunk boundary. -/
  | overdueSwap (c : Fin 72)
  /-- HEAL_REQUEST (R382). HLP requests a heal of a poisoned shared codeword from the peer. -/
  | healRequest
  /-- HEAL_SERVE (R382). The peer's HLP returns the committed codewords for a heal request. -/
  | healServe
  /-- HEAL_DATA (R382). Returned codewords clear the poison and the heal completes. -/
  | healData
  /-- HEAL_TIMEOUT (R383). No heal answer arrives in time, so the readers of the region are halted. -/
  | healTimeout
  /-- STACK_LOST (R384). A stack is declared lost, and its units are fenced and their plans halted. -/
  | stackLost (u : LostUnit)
  /-- TRACE_FLUSH (R392). An open trace record reaches FLUSH_BEATS of age and is closed. -/
  | traceFlush
  /-- TRACE_LOST_RECORD (R393). When staging space returns, a LOST record is staged. -/
  | traceLostRecord
  /-- TRACE_CTRL_WRITE (R394). A write of TRC_CTRL enables tracing, or closes records and powers the trace domain down. -/
  | traceCtrlWrite (path : RegPath) (v : BitVec 64)
  /-- IDCODE (R397). JTAG instruction that selects the IDCODE register. -/
  | idcode
  /-- SAMPLE_PRELOAD (R397). JTAG SAMPLE/PRELOAD instruction. -/
  | samplePreload (bits : List Bool)
  /-- EXTEST (R397). JTAG boundary test, active only in reset. -/
  | extest
  /-- CLAMP (R397). JTAG CLAMP instruction, active only in reset. -/
  | clamp
  /-- HIGHZ (R397). JTAG HIGHZ instruction, active only in reset. -/
  | highz
  /-- IJTAG_SEL (R397). Selects the IEEE 1687 network when DEBUG is unlocked. -/
  | ijtagSel
  /-- BYPASS (R397). JTAG BYPASS instruction. -/
  | bypass (code : BypassIn)
  /-- IJTAG_ACCESS (R398). An IEEE 1687 instrument access to registers or stopped site state. -/
  | ijtagAccess (a : IjtagOp)
  /-- NEW_CHAL (R406). Draws a fresh debug challenge. -/
  | newChal (path : RegPath)
  /-- SUBMIT (R406). Checks the debug response and unlocks DEBUG or counts a failure. -/
  | submit (path : RegPath)
  /-- LOCK (R406). Locks DEBUG. -/
  | lock (path : RegPath)
  /-- VF_ENABLE_CLEAR (R409). Clearing VF Enable releases and wipes the tenancies. -/
  | vfEnableClear
  /-- COLD_RESET (R439). VAUX3P3 or control-part power-up resets the whole device and samples straps. -/
  | coldReset (cause : ColdCause)
  /-- WARM_RESET (R439). SYS_RST_L low resets the device except the standby part; the boot runs at its rise. -/
  | warmReset (level : Bool) (straps : ResetIn)
  /-- PCIE_RESET (R439). PCI_PERST_L low resets the endpoint and every function. -/
  | pcieReset
  /-- PCIE_ENDPOINT_UP (R444). With PCI_PERST_L high and the control part up, the endpoint comes up. -/
  | pcieEndpointUp
  /-- FUNCTION_LEVEL_RESET (R439). A function-level reset of PF0 or a VF resets that function and its state. -/
  | functionLevelReset (func : Fin 5)
  /-- FIRMWARE_AUTH (R403). The boot ROM authenticates a bank, or halts when none passes. -/
  | firmwareAuth (bad : List (Fin 8))
  /-- CFG_DONE (R443). A write of PWR_BOOT.CFG_DONE in WAIT_CFG starts link training. -/
  | cfgDone (path : RegPath)
  /-- VIN_RISE (R429). VIN48 crosses the rising threshold and the power dies start. -/
  | vinRise
  /-- VIN_OUT_OF_RANGE (R428). VIN48 enters a margin band and VIN_LOW or VIN_HIGH is set. -/
  | vinOutOfRange (high : Bool)
  /-- VIN_UNDERVOLTAGE (R430). VIN48 below the falling threshold for 100 beats halts the device. -/
  | vinUndervoltage
  /-- VIN_OVERVOLTAGE (R430). VIN48 above the overvoltage threshold for 10 beats halts the device. -/
  | vinOvervoltage
  /-- POWER_DIE_FAULT (R430). A power die leaves regulation, overcurrents or overheats, which halts the device. -/
  | powerDieFault (die : Fin 4)
  /-- VAUX_LOSS (R430). VAUX3P3 falls below 3.0 V and every output shuts off. -/
  | vauxLoss
  /-- THERMTRIP (R415). A die sensor at 115 °C halts the device and asserts THERMTRIP_L. -/
  | thermtrip
  /-- DOMAIN_POWER_UP (R434). PWR_DOMAIN_REQ with ON 1 queues a domain power-up. -/
  | domainPowerUp (path : RegPath) (k : BitVec 8)
  /-- DOMAIN_POWER_DOWN (R434). PWR_DOMAIN_REQ with ON 0 flushes, isolates and discharges a domain. -/
  | domainPowerDown (path : RegPath) (k : BitVec 8)
  /-- DOMAIN_RAMP_DONE (R434). A domain reaches regulation and enters GATED with DOMAIN_ENTER staged. -/
  | domainRampDone (k : RampEnd)
  /-- DOMAIN_RAMP_TIMEOUT (R434). A domain does not regulate within 800 beats and its units are fenced. -/
  | domainRampTimeout (k : Fin 171)
  /-- STATUS (R447). SPI frame that returns only the status byte. -/
  | status (cmd : BitVec 8) (edges : Nat)
  /-- REG_READ (R450). SPI frame that starts a 64-bit register read. -/
  | regRead (addr : BitVec 48) (edges : Nat)
  /-- REG_WRITE (R450). SPI frame that starts a 64-bit register write. -/
  | regWrite (addr : BitVec 48) (data : BitVec 64) (edges : Nat)
  /-- MGT_ACCESS_DONE (R450). A management register access completes, BUSY clears and data becomes valid. -/
  | mgtAccessDone
  /-- DATA_READ (R447). SPI frame that shifts out the held read data. -/
  | dataRead (edges : Nat)
  /-- CH7_WRITE (R452). SPI frame that writes the channel 7 request window. -/
  | ch7Write (off n : BitVec 16) (data : List Byte) (edges : Nat)
  /-- CH7_RING (R452). SPI frame that rings the channel 7 doorbell. -/
  | ch7Ring (edges : Nat)
  /-- CH7_READ (R452). SPI frame that reads the channel 7 response window. -/
  | ch7Read (off n : BitVec 16) (edges : Nat)
  /-- CH7_POP (R452). SPI frame that pops the channel 7 response. -/
  | ch7Pop (edges : Nat)
  /-- LATCH_READ (R453). SPI frame that returns the oldest fault-latch record. -/
  | latchRead (edges : Nat)
  /-- LATCH_POP (R453). SPI frame that removes the oldest fault-latch record. -/
  | latchPop (edges : Nat)
  /-- REGISTER_WRITE (R458). A write to a register with no row of its own, under its access codes and the width rules. -/
  | registerWrite (t : RegTarget) (data : List Byte)
  /-- PAUSE_BEAT_REACHED (R87). On a running plan with an accepted PLAN_PAUSE, the plan becomes paused on PAUSE_BEAT when the step in progress has completed by then, and no chunk of the next step is released. -/
  | pauseBeatReached (h : BitVec 16)
  /-- SEND_GRANT (R329). The peer's grant for a committed SEND arrives, and the sender then reads SRC from committed memory and transmits the data. -/
  | sendGrant
  /-- SEND_ACKNOWLEDGED (R329). The peer acknowledges the last byte of a SEND, which completes the SEND for the in-flight bound of R146 and lets SRC change. -/
  | sendAcknowledged
  /-- FLIT_BOUNDARY (R320). At each flit boundary, the transmitter of a port sends the first ready flit in the order marker, link control, replay, control message, bulk data, idle, and acknowledges at least once per beat. -/
  | flitBoundary (port : Fin 24)
  /-- STREAM_PORT_DOWN (R359). A stream port leaves UP, and outbound records and trace are then dealt only over the remaining ports that are up, or wait in staging while none is. -/
  | streamPortDown (port : Fin 4)
  /-- TAP_RESET (R397). TRST_L goes low, or TMS is held high, and the JTAG TAP enters Test-Logic-Reset with IDCODE selected. -/
  | tapReset
  /-- SENSOR_SAMPLE (R431). Each beat the die sensors and power dies are read, and PWR_TELEM is updated every 1,000 beats. PD_TEMP, POWER_LIMIT and the DIE_TEMP alert are set when their thresholds are crossed. -/
  | sensorSample (s : Sample)
  deriving DecidableEq, Repr

end Sys2Proof
end

