-- ==== Sys2Proof/Config.lean ====
section
/-! DEFINITION. What an implementation fixes and the spec leaves open: constants without a body, so that nothing can be
proved of their values.  A free value that is not a function of operands is one of these applied to the counter
`Dev.free` (log entry 5). -/

namespace Sys2Proof.Config

/-- Which of the results within the bound of R189 an FP32 ELEM operation gives, a function of its operands. -/
opaque elemPick : (op a b c : Nat) → Nat
/-- Which of the results within 2 FP32 ulp an activation of DRAIN gives (R220, R221), a function of the operand. -/
opaque actPick : (act a : Nat) → Nat
/-- Cycles that a stall, filler or wait counter adds by one command (R119, R161): cycle timing is outside the model. -/
opaque cycles : (counter draw : Nat) → Nat
/-- The hash of line-address bits [30:7] that names a line's set in its die-shared cache (R284 gives no function). -/
opaque dscSet : (bits : Nat) → Nat
/-- Which committed line of a full set a new line evicts, among the set's lines, the latest used first (R284 gives no order). -/
opaque dscVictim : (hits misses : Nat) → (lines : List Nat) → Nat
/-- What the code of the stacks and of the cache lines finds wrong at a read of one cycle: a kind and the codeword (R279 gives no
rate of errors). -/
opaque readError : (draw : Nat) → Option (Nat × Nat)
/-- An accumulator entry that holds no column, after an MMA's row (R211: the check lane and unassigned spares; no value given). -/
opaque idleEntry : (draw lane : Nat) → BitVec 104
/-- A new session number (R83). -/
opaque sessionNumber : Nat → BitVec 32
/-- A 16-byte nonce or debug challenge of SCP (R83, R406). -/
opaque nonce : Nat → BitVec 128
/-- The device key K_dev in its fuses (R399). -/
opaque kDev : BitVec 256

/-- The reciprocal of a zero pivot that an engine writes, as a 32-bit integer (R298 states none). -/
opaque recipOfZero : Nat → Int
/-- SHIFT of a zero matrix, for which R301 states no k. -/
opaque zeroShift : Nat → Int
/-- The fraction bits in which a sparse solve stores a vector or a scalar of its iteration other than x, by IN_FRAC and
OUT_FRAC (R307 names the method and R298 the arithmetic, but no format for them): `which` is 0 for r, 1 for z, 2 for the
direction, 3 for A times the direction, 4 for the step length, 5 for the direction's factor. -/
opaque cgFrac : (fin fout which : Nat) → Nat
/-- The bytes of the region table that BSP loads into a die's DSC control window (R277 gives no layout). -/
opaque regionTable : (draw die : Nat) → List Byte
/-- Which of `n` sites the firmware map takes for a logical core at arming (R115 gives no order). -/
opaque mapPick : (draw n : Nat) → Nat

/-- SEQ of an idle flit (R313 and R316 give none). -/
opaque idleSeq : Nat → BitVec 16
/-- REASON of a crater-table entry that HLP makes of its own (R94 gives the values of FENCE alone). -/
opaque fenceReason : Nat → BitVec 8
/-- The beats that a partner takes to resend over the other ports what a failed port had not acknowledged (R317 bounds them by 100). -/
opaque failoverBeats : (draw : Nat) → Nat
/-- The link that another device has lost when LKP installs detours here: the coordinate of one of its ends and its direction there. -/
opaque lostLink : (draw : Nat) → BitVec 15 × Fin 8
/-- Which of `n` directions the detours that LKP installed take for a destination (R326 gives the bound of the reroute, not its
result). -/
opaque detour : (draw n : Nat) → (dest : BitVec 15) → Nat
/-- The data bytes of a flit whose layout R313 does not give: link control, control messages and training, and the head of the bytes of
a collective. -/
opaque flitData : (draw : Nat) → List (BitVec 8)
/-- The residue byte of up to 16 elements in P-mode (R342 names it, R345 the significands it comes of, and neither its sum). -/
opaque groupResidue : (codes : List Nat) → BitVec 8
/-- Bytes 36 to 39 of the record of a recovery that recomputed no chunk (R365 gives none). -/
opaque noChunk : BitVec 32
/-- CODE of a record for which the spec gives none, by the model's own number of the record. -/
opaque recordCode : Nat → BitVec 16

/-- What a byte of a poisoned codeword reads as where the spec gives the read no other outcome (R280). -/
opaque poisonByte : (draw addr : Nat) → BitVec 8

/-- Bank and row (`1024 * bank + row`) of a codeword of a stack, by its offset: R276 gives the channel of an offset alone. -/
opaque rowOf : (off : Nat) → Nat
/-- The first 30 bits of the codeword that STK_REPAIR reads raw (R282 names a row of 128 codewords and no encoding). -/
opaque rawWord : (draw : Nat) → BitVec 30

/-- The fields of a firmware image's header (R403 lists them and gives no offsets): magic, VERSION, LENGTH and KEY_INDEX. -/
opaque fwField : (image : List (BitVec 8)) → (field : Nat) → Nat
/-- The signer's public key in an image, its signature, and the header and body under it. -/
opaque fwKey : (image : List (BitVec 8)) → List (BitVec 8)
opaque fwSig : (image : List (BitVec 8)) → List (BitVec 8)
opaque fwSigned : (image : List (BitVec 8)) → List (BitVec 8)
/-- The fused key hashes, by KEY_INDEX (R403). -/
opaque keyHash : Nat → List (BitVec 8)

/-- The Vendor ID that the PCI-SIG has assigned to the maker, the same in every function (R456 gives no value). -/
opaque vendorId : BitVec 16

/-- The boundary register as captured from the pins (R397 gives no order of its cells). -/
opaque boundary : (draw : Nat) → List Bool

end Sys2Proof.Config
end

