-- ==== Sys2Proof/Machine/Crypto.lean ====
section
/-! DEFINITION. The published functions the spec names: SHA-256 and SHA-384 (FIPS 180-4), HMAC-SHA-256 (FIPS 198-1),
HKDF, ECDSA P-384 verification (FIPS 186-5), the CRC-32 of IEEE 802.3 and the CRC-64 of ECMA-182 (R72, R108, R269, R313,
R399, R401 to R403), and the device's identity. -/

namespace Sys2Proof.Machine

/-! ### SHA-2 -/

/-- The 80 round constants of SHA-384; the upper halves of the first 64 are those of SHA-256. -/
def shaK : List (BitVec 64) :=
  [0x428a2f98d728ae22, 0x7137449123ef65cd, 0xb5c0fbcfec4d3b2f, 0xe9b5dba58189dbbc] ++
  [0x3956c25bf348b538, 0x59f111f1b605d019, 0x923f82a4af194f9b, 0xab1c5ed5da6d8118] ++
  [0xd807aa98a3030242, 0x12835b0145706fbe, 0x243185be4ee4b28c, 0x550c7dc3d5ffb4e2] ++
  [0x72be5d74f27b896f, 0x80deb1fe3b1696b1, 0x9bdc06a725c71235, 0xc19bf174cf692694] ++
  [0xe49b69c19ef14ad2, 0xefbe4786384f25e3, 0x0fc19dc68b8cd5b5, 0x240ca1cc77ac9c65] ++
  [0x2de92c6f592b0275, 0x4a7484aa6ea6e483, 0x5cb0a9dcbd41fbd4, 0x76f988da831153b5] ++
  [0x983e5152ee66dfab, 0xa831c66d2db43210, 0xb00327c898fb213f, 0xbf597fc7beef0ee4] ++
  [0xc6e00bf33da88fc2, 0xd5a79147930aa725, 0x06ca6351e003826f, 0x142929670a0e6e70] ++
  [0x27b70a8546d22ffc, 0x2e1b21385c26c926, 0x4d2c6dfc5ac42aed, 0x53380d139d95b3df] ++
  [0x650a73548baf63de, 0x766a0abb3c77b2a8, 0x81c2c92e47edaee6, 0x92722c851482353b] ++
  [0xa2bfe8a14cf10364, 0xa81a664bbc423001, 0xc24b8b70d0f89791, 0xc76c51a30654be30] ++
  [0xd192e819d6ef5218, 0xd69906245565a910, 0xf40e35855771202a, 0x106aa07032bbd1b8] ++
  [0x19a4c116b8d2d0c8, 0x1e376c085141ab53, 0x2748774cdf8eeb99, 0x34b0bcb5e19b48a8] ++
  [0x391c0cb3c5c95a63, 0x4ed8aa4ae3418acb, 0x5b9cca4f7763e373, 0x682e6ff3d6b2b8a3] ++
  [0x748f82ee5defb2fc, 0x78a5636f43172f60, 0x84c87814a1f0ab72, 0x8cc702081a6439ec] ++
  [0x90befffa23631e28, 0xa4506cebde82bde9, 0xbef9a3f7b2c67915, 0xc67178f2e372532b] ++
  [0xca273eceea26619c, 0xd186b8c721c0c207, 0xeada7dd6cde0eb1e, 0xf57d4f7fee6ed178] ++
  [0x06f067aa72176fba, 0x0a637dc5a2c898a6, 0x113f9804bef90dae, 0x1b710b35131c471b] ++
  [0x28db77f523047d84, 0x32caab7b40c72493, 0x3c9ebe0a15c9bebc, 0x431d67c49c100d4c] ++
  [0x4cc5d4becb3e42b6, 0x597f299cfc657e2a, 0x5fcb6fab3ad6faec, 0x6c44198c4a475817]

/-- The padding of a message of `n` bytes to blocks of `blk` bytes with a length field of `lf` bytes. -/
def shaPad (blk lf n : Nat) : List Byte :=
  0x80 :: List.replicate ((2 * blk - (n + 1 + lf) % blk) % blk) 0 ++ bytesBE lf (8 * n)

/-- A list cut into pieces of `n`. -/
def piecesOf (n : Nat) : Nat → List Byte → List (List Byte)
  | 0, _ => []
  | k + 1, l => l.take n :: piecesOf n k (l.drop n)

/-- The message schedule of a block: `k` words more, the newest first. -/
def shaSchedule {w : Nat} (s0 s1 : BitVec w → BitVec w) : Nat → List (BitVec w) → List (BitVec w)
  | 0, ws => ws
  | k + 1, ws =>
    shaSchedule s0 s1 k ((s1 (ws.getD 1 0) + ws.getD 6 0 + s0 (ws.getD 14 0) + ws.getD 15 0) :: ws)

/-- One round: the eight working words after a schedule word and a constant. -/
def shaRound {w : Nat} (e0 e1 : BitVec w → BitVec w) (h : List (BitVec w)) (k wt : BitVec w) : List (BitVec w) :=
  match h with
  | [a, b, c, d, e, f, g, hh] =>
    let t1 := hh + e1 e + ((e &&& f) ^^^ (~~~e &&& g)) + k + wt
    let t2 := e0 a + ((a &&& b) ^^^ (a &&& c) ^^^ (b &&& c))
    [t1 + t2, a, b, c, d + t1, e, f, g]
  | _ => h

/-- One block of the compression. -/
def shaBlock {w : Nat} (s0 s1 e0 e1 : BitVec w → BitVec w) (ks : List (BitVec w)) (h : List (BitVec w))
    (block : List Byte) : List (BitVec w) :=
  let ws := (piecesOf (w / 8) 16 block).map (fun p => BitVec.ofNat w (beNat p))
  let sched := (shaSchedule s0 s1 (ks.length - 16) ws.reverse).reverse
  let r := (List.zip ks sched).foldl (fun h p => shaRound e0 e1 h p.1 p.2) h
  List.zipWith (· + ·) h r

/-- SHA-256 (FIPS 180-4): 32 bytes. -/
def sha256 (m : List Byte) : List Byte :=
  let s0 := fun (x : BitVec 32) => x.rotateRight 7 ^^^ x.rotateRight 18 ^^^ (x >>> 3)
  let s1 := fun (x : BitVec 32) => x.rotateRight 17 ^^^ x.rotateRight 19 ^^^ (x >>> 10)
  let e0 := fun (x : BitVec 32) => x.rotateRight 2 ^^^ x.rotateRight 13 ^^^ x.rotateRight 22
  let e1 := fun (x : BitVec 32) => x.rotateRight 6 ^^^ x.rotateRight 11 ^^^ x.rotateRight 25
  let ks := (shaK.take 64).map (fun (k : BitVec 64) => (k >>> 32).setWidth 32)
  let bs := m ++ shaPad 64 8 m.length
  let h := (piecesOf 64 (bs.length / 64) bs).foldl (shaBlock s0 s1 e0 e1 ks)
    [0x6a09e667, 0xbb67ae85, 0x3c6ef372, 0xa54ff53a, 0x510e527f, 0x9b05688c, 0x1f83d9ab, 0x5be0cd19]
  h.flatMap (fun w => bytesBE 4 w.toNat)

/-- SHA-384 (FIPS 180-4): 48 bytes. -/
def sha384 (m : List Byte) : List Byte :=
  let s0 := fun (x : BitVec 64) => x.rotateRight 1 ^^^ x.rotateRight 8 ^^^ (x >>> 7)
  let s1 := fun (x : BitVec 64) => x.rotateRight 19 ^^^ x.rotateRight 61 ^^^ (x >>> 6)
  let e0 := fun (x : BitVec 64) => x.rotateRight 28 ^^^ x.rotateRight 34 ^^^ x.rotateRight 39
  let e1 := fun (x : BitVec 64) => x.rotateRight 14 ^^^ x.rotateRight 18 ^^^ x.rotateRight 41
  let bs := m ++ shaPad 128 16 m.length
  let h := (piecesOf 128 (bs.length / 128) bs).foldl (shaBlock s0 s1 e0 e1 shaK)
    ([0xcbbb9d5dc1059ed8, 0x629a292a367cd507, 0x9159015a3070dd17, 0x152fecd8f70e5939] ++
     [0x67332667ffc00b31, 0x8eb44a8768581511, 0xdb0c2e0d64f98fa7, 0x47b5481dbefa4fa4])
  (h.take 6).flatMap (fun w => bytesBE 8 w.toNat)

/-! ### HMAC and HKDF -/

/-- HMAC-SHA-256 (FIPS 198-1). -/
def hmac (key m : List Byte) : List Byte :=
  let k := if 64 < key.length then sha256 key else key
  let k := k ++ List.replicate (64 - k.length) 0
  sha256 (k.map (· ^^^ 0x5C) ++ sha256 (k.map (· ^^^ 0x36) ++ m))

/-- ASCII bytes of a string. -/
def ascii (s : String) : List Byte := s.toList.map (fun c => BitVec.ofNat 8 c.toNat)

/-- HKDF-Expand to 32 bytes, the first block of the expansion. -/
def hkdfExpand (prk info : List Byte) : List Byte := hmac prk (info ++ [1])

/-- HKDF-Extract. -/
def hkdfExtract (salt ikm : List Byte) : List Byte := hmac salt ikm

/-- K_dev as bytes, most significant first. -/
def kDevBytes : List Byte := bytesBE 32 Config.kDev.toNat

/-- The 16 bytes of DEVICE_UID (R399). -/
def uidBytes : List Byte := (hmac kDevBytes (ascii "TLH-4T64 UID")).take 16

/-- The session key of R401. -/
def sessionKey (slotKey hostNonce devNonce : List Byte) (chan : Nat) (number : BitVec 32) : List Byte :=
  hkdfExpand (hkdfExtract (hostNonce ++ devNonce) slotKey)
    (ascii "CHEKOR1" ++ uidBytes ++ [BitVec.ofNat 8 chan] ++ bytesLE 4 number.toNat)

/-- A slot's key as the key area holds it (R400): encrypted under its write count, and authenticated. DESIGN CHOICE: the HMAC is that of
the encrypted key, the count is little-endian (log entry 135). -/
def wrapKey (slot count : Nat) (key : List Byte) : List Byte :=
  key.zipWith (· ^^^ ·) (hkdfExpand kDevBytes (ascii "WRAP" ++ [BitVec.ofNat 8 slot] ++ bytesLE 8 count))
def wrapMac (cipher : List Byte) : List Byte := hmac kDevBytes cipher

/-- The keyed check of a critical message (R72): its first 16 bytes, STATUS taken as 0. -/
def keyedCheck (key msg : List Byte) : List Byte := (hmac key msg).take 16

/-! ### ECDSA over P-384 (FIPS 186-5) -/

def p384 : Nat := 2 ^ 384 - 2 ^ 128 - 2 ^ 96 + 2 ^ 32 - 1
def p384n : Nat :=
  0xffffffffffffffffffffffffffffffffffffffffffffffffc7634d81f4372ddf581a0db248b0a77aecec196accc52973
def p384b : Nat :=
  0xb3312fa7e23ee7e4988e056be3f82d19181d9c6efe8141120314088f5013875ac656398d8a2ed19d2a85c8edd3ec2aef
def p384g : Nat × Nat :=
  (0xaa87ca22be8b05378eb1c71ef320ad746e1d3b628ba79b9859f741e082542a385502f25dbf55296c3a545e3872760ab7,
   0x3617de4a96262c6f5d9e98bf9292dc29f8f41dbd289a147ce9da3113b5f0b8c00a60b1ce1d7e819d7a431d7c90ea0e5f)

/-- `a ^ e mod m`, the exponent's `k` low bits. -/
def powMod (m : Nat) : Nat → Nat → Nat → Nat
  | 0, _, _ => 1 % m
  | k + 1, a, e => (if e % 2 = 1 then a else 1) * powMod m k (a * a % m) (e / 2) % m

/-- The inverse modulo a prime below 2^384. -/
def invMod (m a : Nat) : Nat := powMod m 384 (a % m) (m - 2)

/-- The sum of two points of the curve; none is the point at infinity. -/
def ecAdd : Option (Nat × Nat) → Option (Nat × Nat) → Option (Nat × Nat)
  | none, q => q
  | p, none => p
  | some (x1, y1), some (x2, y2) =>
    if x1 = x2 ∧ (y1 + y2) % p384 = 0 then none
    else
      let l :=
        if x1 = x2 then (3 * x1 * x1 + (p384 - 3)) * invMod p384 (2 * y1) % p384
        else (y2 + (p384 - y1)) * invMod p384 (x2 + (p384 - x1)) % p384
      let x3 := (l * l + (p384 - x1) + (p384 - x2)) % p384
      some (x3, (l * (x1 + (p384 - x3)) + (p384 - y1)) % p384)

/-- `k` times a point, over the `n` low bits of `k`. -/
def ecMul : Nat → Nat → Option (Nat × Nat) → Option (Nat × Nat)
  | 0, _, _ => none
  | n + 1, k, p => ecAdd (if k % 2 = 1 then p else none) (ecMul n (k / 2) (ecAdd p p))

/-- The signature `r ‖ s` of a message under SHA-384 verifies under the public key `x ‖ y`, all 48-byte numbers. -/
def ecdsaOk (key sig msg : List Byte) : Bool :=
  let x := beNat (key.take 48)
  let y := beNat (key.drop 48)
  let r := beNat (sig.take 48)
  let s := beNat (sig.drop 48)
  let e := beNat (sha384 msg)
  let w := invMod p384n s
  key.length == 96 && sig.length == 96 && x < p384 && y < p384 &&
  y * y % p384 == (x * x * x + (p384 - 3) * x + p384b) % p384 &&
  0 < r && r < p384n && 0 < s && s < p384n &&
  (match ecAdd (ecMul 384 (e * w % p384n) (some p384g)) (ecMul 384 (r * w % p384n) (some (x, y))) with
   | none => false
   | some q => q.1 % p384n == r)

/-! ### CRCs -/

/-- One bit of the reflected CRC-32. -/
def crc32Bit (c : BitVec 32) : BitVec 32 := if c.getLsbD 0 then (c >>> 1) ^^^ 0xEDB88320 else c >>> 1

/-- CRC-32 of IEEE 802.3: polynomial 0x04C1_1DB7 in its reflected form, as the frame check sequence. -/
def crc32 (bs : List Byte) : BitVec 32 :=
  ~~~(bs.foldl (fun c b => (List.range 8).foldl (fun c _ => crc32Bit c) (c ^^^ b.setWidth 32)) 0xFFFFFFFF)

/-- One 64-bit word folded into a CRC-64, most significant bit first (R269). -/
def crc64Word (c w : BitVec 64) : BitVec 64 :=
  (List.range 64).foldl (fun c _ => if c.msb then (c <<< 1) ^^^ 0x42F0E1EBA9EA3693 else c <<< 1) (c ^^^ w)

/-! ### The code of the links (R312)

PRESUMED (log entry 132): R312 names RS(544,514) with 10-bit symbols and neither its field nor its generator; these are those of the
IEEE 802.3 code of that name. -/

/-- A product in the field of 1,024 elements over x¹⁰ + x³ + 1. -/
def gfMul (a b : BitVec 10) : BitVec 10 :=
  ((List.range 10).foldl (fun (s : BitVec 10 × BitVec 10) i =>
    (if b.getLsbD i then s.1 ^^^ s.2 else s.1, (s.2 <<< 1) ^^^ (if s.2.getLsbD 9 then 0x9 else 0))) (0, a)).1

/-- The generator polynomial but its leading coefficient, from the highest: the product of x + 2ⁱ for i below 30. -/
def rsGen : List (BitVec 10) :=
  (((List.range 30).foldl (fun (s : List (BitVec 10) × BitVec 10) _ =>
    (List.zipWith (· ^^^ ·) (s.1 ++ [0]) (0 :: s.1.map (gfMul s.2)), gfMul 2 s.2)) ([1], 1)).1).drop 1

/-- The 30 parity symbols of a message. -/
def rsParity (message : List (BitVec 10)) : List (BitVec 10) :=
  message.foldl (fun (r : List (BitVec 10)) m =>
    List.zipWith (· ^^^ ·) (r.drop 1 ++ [0]) (rsGen.map (gfMul (m ^^^ r.headD 0)))) (List.replicate 30 0)

/-- A codeword: 514 message symbols and the parity. -/
def rsWord (message : List (BitVec 10)) : List (BitVec 10) := message ++ rsParity message

/-- Bytes cut into 10-bit symbols, the least significant bit first. -/
def symbols (bs : List Byte) : List (BitVec 10) :=
  let n := leNat bs
  (List.range (8 * bs.length / 10)).map (fun i => BitVec.ofNat 10 (n / 2 ^ (10 * i)))

end Sys2Proof.Machine
end

