-- ==== Sys2Proof/Machine/Flags.lean ====
section
/-! DEFINITION. The four sticky flags (R188) and the flag computations of the conversions (R184, R187, R212). -/

namespace Sys2Proof.Machine

/-- The four sticky flags of R188. -/
structure Flags where
  ovf : Bool := false
  unf : Bool := false
  inx : Bool := false
  inv : Bool := false
  deriving DecidableEq, Repr

/-- A flag is never cleared by a later result (R188). -/
def Flags.or (a b : Flags) : Flags :=
  ⟨a.ovf || b.ovf, a.unf || b.unf, a.inx || b.inx, a.inv || b.inv⟩

/-- No flag. -/
def noFlags : Flags := {}

/-- INV alone. -/
def invFlag : Flags := { inv := true }

/-- CFLAGS [5:2] of a completion entry (R142): OVF, UNF, INX, INV. -/
def Flags.cflags (f : Flags) : BitVec 8 :=
  BitVec.ofNat 8 (4 * b2n f.ovf + 8 * b2n f.unf + 16 * b2n f.inx + 32 * b2n f.inv)

/-- The four bits of a unit's flag register, OVF lowest, INV highest (09 QNT_FLAGS, 10 ACC_FLAGS, 11 MVP_FLAGS). -/
def Flags.bits4 (f : Flags) : BitVec 4 :=
  BitVec.ofNat 4 (b2n f.ovf + 2 * b2n f.unf + 4 * b2n f.inx + 8 * b2n f.inv)

/-- Flags of a result written in a float format: `over` when it became infinite, `exact` when the written value is the
exact one, `tiny` when the written value is zero or below the smallest normal magnitude (R187, R188). -/
def floatFlags (nonzero tooBig exact tiny : Bool) : Flags :=
  { ovf := tooBig, unf := nonzero && !exact && tiny && !tooBig, inx := !exact }

/-- Flags of an element written in a block or integer format: `sat` when it saturated, `exact` when the element equals
the quotient, `zero` when the element is zero (R184). -/
def elementFlags (nonzero sat exact zero : Bool) : Flags :=
  { ovf := sat, unf := nonzero && zero, inx := !exact }

/-- Flags of a contribution rounded to the accumulator window (R212). -/
def windowFlags (nonzero clamped exact zero : Bool) : Flags :=
  { ovf := clamped, unf := nonzero && zero, inx := !exact }

end Sys2Proof.Machine
end

