-- ==== Sys2Proof/Machine/Num.lean ====
section
/-! DEFINITION. Exact dyadic numbers, IEEE 754 binary formats and their rounding to nearest with ties to even (R182,
R183, R187, R188).  Every value the device rounds is first formed exactly (R184, R189), so rounding is a function of an
exact number. -/

namespace Sys2Proof.Machine

/-- The dyadic number `m * 2 ^ e`. -/
structure Dy where
  m : Int
  e : Int
  deriving DecidableEq, Repr

def Dy.ofInt (n : Int) : Dy := ⟨n, 0⟩
def Dy.zero : Dy := ⟨0, 0⟩
def Dy.isZero (a : Dy) : Bool := a.m == 0
def Dy.neg (a : Dy) : Dy := ⟨-a.m, a.e⟩
def Dy.abs (a : Dy) : Dy := ⟨a.m.natAbs, a.e⟩
def Dy.mul (a b : Dy) : Dy := ⟨a.m * b.m, a.e + b.e⟩

/-- The mantissa of `a` at the exponent `e ≤ a.e`. -/
def Dy.at (a : Dy) (e : Int) : Int := a.m * 2 ^ (a.e - e).toNat

def Dy.add (a b : Dy) : Dy :=
  if a.m = 0 then b else if b.m = 0 then a else
  let e := min a.e b.e
  ⟨a.at e + b.at e, e⟩

def Dy.sub (a b : Dy) : Dy := a.add b.neg

def Dy.lt (a b : Dy) : Bool :=
  let e := min a.e b.e
  decide (a.at e < b.at e)

def Dy.le (a b : Dy) : Bool := !(b.lt a)
def Dy.eq (a b : Dy) : Bool := !(a.lt b) && !(b.lt a)
def Dy.max (a b : Dy) : Dy := if a.lt b then b else a

/-- `2 ^ k`. -/
def Dy.pow2 (k : Int) : Dy := ⟨1, k⟩

/-- The exponent of the leading bit of a non-zero number: `floor (log2 |a|)`. -/
def Dy.log2 (a : Dy) : Int := (Nat.log2 a.m.natAbs : Int) + a.e

/-- The quotient of a natural number by a power of two, rounded to nearest with ties to even. -/
def shiftRne (m s : Nat) : Nat :=
  let q := m >>> s
  let r := m % 2 ^ s
  if s = 0 then m
  else if 2 ^ (s - 1) < r || (r == 2 ^ (s - 1) && q % 2 == 1) then q + 1 else q

/-- `|a|` as a multiple of `2 ^ q`, rounded to nearest with ties to even. -/
def Dy.multRne (a : Dy) (q : Int) : Nat :=
  if q ≤ a.e then a.m.natAbs * 2 ^ (a.e - q).toNat else shiftRne a.m.natAbs (q - a.e).toNat

/-- `|a|` as a multiple of `2 ^ q`, rounded down. -/
def Dy.multFloor (a : Dy) (q : Int) : Nat :=
  if q ≤ a.e then a.m.natAbs * 2 ^ (a.e - q).toNat else a.m.natAbs >>> (q - a.e).toNat

/-- `a` as a signed multiple of `2 ^ q`, rounded to nearest with ties to even. -/
def Dy.multRneInt (a : Dy) (q : Int) : Int :=
  if a.m < 0 then -(a.multRne q : Int) else (a.multRne q : Int)

/-- A value of a wide format: finite, an infinity by its sign (true: negative), or NaN. -/
inductive Val where
  | fin (x : Dy)
  | inf (neg : Bool)
  | nan
  deriving DecidableEq, Repr

def Val.isNan : Val → Bool
  | .nan => true
  | _ => false

def Val.isFin : Val → Bool
  | .fin _ => true
  | _ => false

/-- A binary interchange format: its exponent and mantissa widths. -/
structure FFmt where
  eb : Nat
  mb : Nat
  deriving DecidableEq, Repr

def bf16 : FFmt := ⟨8, 7⟩
def fp32 : FFmt := ⟨8, 23⟩
def fp64 : FFmt := ⟨11, 52⟩

/-- The exponent bias. -/
def FFmt.bias (f : FFmt) : Int := 2 ^ (f.eb - 1) - 1
/-- The exponent of the smallest normal magnitude. -/
def FFmt.emin (f : FFmt) : Int := 1 - f.bias
/-- The exponent of the smallest subnormal step. -/
def FFmt.qmin (f : FFmt) : Int := f.emin - f.mb
/-- The code of +infinity. -/
def FFmt.infCode (f : FFmt) : Nat := (2 ^ f.eb - 1) * 2 ^ f.mb
/-- The canonical NaN (R182, R257). -/
def FFmt.nanCode (f : FFmt) : Nat := f.infCode + 2 ^ (f.mb - 1)
/-- The sign bit. -/
def FFmt.signBit (f : FFmt) : Nat := 2 ^ (f.eb + f.mb)

/-- The value of a code (R182); negative zero reads as zero (R183). -/
def FFmt.decode (f : FFmt) (code : Nat) : Val :=
  let neg := code.testBit (f.eb + f.mb)
  let ex := (code >>> f.mb) % 2 ^ f.eb
  let ma := code % 2 ^ f.mb
  if ex = 2 ^ f.eb - 1 then (if ma = 0 then .inf neg else .nan)
  else
    let mag : Nat := if ex = 0 then ma else 2 ^ f.mb + ma
    let e : Int := if ex = 0 then f.qmin else f.qmin + (ex - 1 : Nat)
    .fin ⟨if neg then -(mag : Int) else mag, e⟩

/-- The code of a magnitude that is `n` steps of `2 ^ q`, with `q` at or above the smallest step; a carry into the next
binade is taken up by the sum. -/
def FFmt.pack (f : FFmt) (q : Int) (n : Nat) : Nat := (q - f.qmin).toNat * 2 ^ f.mb + n

/-- The step exponent at which a non-zero exact value is rounded. -/
def FFmt.stepExp (f : FFmt) (x : Dy) : Int := max x.log2 f.emin - f.mb

/-- An exact value written in the format: rounded once, to nearest with ties to even, with its flags; a negative zero is
written as positive zero (R183, R187, R188). -/
def FFmt.round (f : FFmt) (x : Dy) : Nat × Flags :=
  if x.m = 0 then (0, noFlags) else
  let q := f.stepExp x
  let n := x.multRne q
  let code := f.pack q n
  let tooBig := f.infCode ≤ code
  let mag := if tooBig then f.infCode else code
  let exact := !tooBig && Dy.eq x.abs ⟨n, q⟩
  let signed := if x.m < 0 && mag ≠ 0 then f.signBit + mag else mag
  (signed, floatFlags true tooBig exact (mag < 2 ^ f.mb))

/-- A value of any kind written in the format: an infinity keeps its sign, a NaN becomes canonical (R182, R187). -/
def FFmt.write (f : FFmt) : Val → Nat × Flags
  | .fin x => f.round x
  | .inf neg => ((if neg then f.signBit else 0) + f.infCode, noFlags)
  | .nan => (f.nanCode, invFlag)

/-- A quotient `n / d * 2 ^ e` of integers as a dyadic number that rounds as it does: at least 70 significant bits with
the remainder folded into the last one (a sticky bit). -/
def stickyQuot (n : Int) (d : Nat) (e : Int) : Dy :=
  let k := 70 + Nat.log2 d
  let a := n.natAbs * 2 ^ k
  let q := 2 * (a / d) + (if a % d = 0 then 0 else 1)
  ⟨if n < 0 then -(q : Int) else q, e - k - 1⟩

/-- The integer square root of `a`, bit by bit from bit `i - 1` down. -/
def sqrtBits (a : Nat) : Nat → Nat → Nat
  | 0, r => r
  | i + 1, r => if (r + 2 ^ i) * (r + 2 ^ i) ≤ a then sqrtBits a i (r + 2 ^ i) else sqrtBits a i r

/-- A square root of a non-negative dyadic number as one that rounds as it does (a sticky bit in the last place). -/
def stickySqrt (x : Dy) : Dy :=
  let p : Nat := (x.e % 2).toNat
  let a := x.m.natAbs * 2 ^ (160 + p)
  let r := sqrtBits a (Nat.log2 a / 2 + 1) 0
  ⟨2 * r + (if r * r = a then 0 else 1), (x.e - p) / 2 - 81⟩

/-- Sum of two values with IEEE 754 infinities; infinity − infinity has no value. -/
def Val.add : Val → Val → Val
  | .nan, _ => .nan
  | _, .nan => .nan
  | .inf a, .inf b => if a == b then .inf a else .nan
  | .inf a, .fin _ => .inf a
  | .fin _, .inf b => .inf b
  | .fin a, .fin b => .fin (a.add b)

def Val.neg : Val → Val
  | .fin a => .fin a.neg
  | .inf a => .inf (!a)
  | .nan => .nan

def Val.sub (a b : Val) : Val := a.add b.neg

/-- Product of two values; 0 × infinity has no value. -/
def Val.mul : Val → Val → Val
  | .nan, _ => .nan
  | _, .nan => .nan
  | .inf a, .inf b => .inf (a != b)
  | .inf a, .fin x => if x.m = 0 then .nan else .inf (a != decide (x.m < 0))
  | .fin x, .inf b => if x.m = 0 then .nan else .inf (b != decide (x.m < 0))
  | .fin a, .fin b => .fin (a.mul b)

/-- Quotient of two values as a value that rounds as it does: 0 / 0 and infinity / infinity have none; a non-zero value
over zero is an infinity (R237). -/
def Val.div : Val → Val → Val
  | .nan, _ => .nan
  | _, .nan => .nan
  | .inf _, .inf _ => .nan
  | .inf a, .fin y => .inf (a != decide (y.m < 0))
  | .fin _, .inf _ => .fin Dy.zero
  | .fin x, .fin y =>
    if y.m = 0 then (if x.m = 0 then .nan else .inf (decide (x.m < 0)))
    else if x.m = 0 then .fin Dy.zero
    else .fin (stickyQuot (if y.m < 0 then -x.m else x.m) y.m.natAbs (x.e - y.e))

/-- `a < b` on values that are not NaN. -/
def Val.lt : Val → Val → Bool
  | .fin a, .fin b => a.lt b
  | .inf true, .inf true => false
  | .inf true, .inf false => true
  | .inf true, .fin _ => true
  | .fin _, .inf false => true
  | _, _ => false

/-- FP64 arithmetic on codes with its flags, each result rounded to nearest with ties to even (R209, R225, R257). -/
def f64AddF (a b : Nat) : Nat × Flags := fp64.write ((fp64.decode a).add (fp64.decode b))
def f64SubF (a b : Nat) : Nat × Flags := fp64.write ((fp64.decode a).sub (fp64.decode b))
def f64MulF (a b : Nat) : Nat × Flags := fp64.write ((fp64.decode a).mul (fp64.decode b))
def f64DivF (a b : Nat) : Nat × Flags := fp64.write ((fp64.decode a).div (fp64.decode b))

/-- An exact value rounded to FP64. -/
def f64Of (v : Val) : Nat := (fp64.write v).1

/-- A value rounded toward +infinity into FP32 (CUR_AMAX, R197); `x` is not negative. -/
def fp32Ceil (x : Dy) : Nat :=
  if x.m = 0 then 0 else
  let q := fp32.stepExp x
  let n := x.multFloor q
  let n' := if Dy.eq x.abs ⟨n, q⟩ then n else n + 1
  min (fp32.pack q n') fp32.infCode

/-- The BF16 value of a binary32 value is its upper half (R182): widening is exact. -/
def bf16ToFp32 (c : Nat) : Nat := if (bf16.decode c).isNan then fp32.nanCode else (c % 65536) * 65536

/-- The population mean and variance recurrence of R225, with the flags of its roundings. -/
structure MeanVar where
  n : Nat := 0
  mean : Nat := 0
  m2 : Nat := 0
  fl : Flags := {}
  deriving DecidableEq, Repr

/-- One more value of the recurrence. -/
def MeanVar.step (s : MeanVar) (x : Nat) : MeanVar :=
  let n := s.n + 1
  let d := f64SubF x s.mean
  let q := f64DivF d.1 (f64Of (.fin (Dy.ofInt n)))
  let mean := f64AddF s.mean q.1
  let e := f64SubF x mean.1
  let p := f64MulF d.1 e.1
  let m2 := f64AddF s.m2 p.1
  ⟨n, mean.1, m2.1, (((((s.fl.or d.2).or q.2).or mean.2).or e.2).or p.2).or m2.2⟩

/-- MEAN and VAR in FP32 and the flags (R225). -/
def MeanVar.result (s : MeanVar) : Nat × Nat × Flags :=
  let q := f64DivF s.m2 (f64Of (.fin (Dy.ofInt s.n)))
  let mean := fp32.write (fp64.decode s.mean)
  let var := fp32.write (fp64.decode q.1)
  (mean.1, var.1, ((s.fl.or q.2).or mean.2).or var.2)

end Sys2Proof.Machine
end

