-- ==== Sys2Proof/Machine/Formats.lean ====
section
/-! DEFINITION. Element and scale encodings, packing, the choice of a scale and the conversion of one element (file 08;
R194, R202 of file 09). -/

namespace Sys2Proof.Machine

/-- Element width in bits of a format code of R135 (R170, R171). -/
def fmtBits (fmt : Nat) : Nat :=
  match fmt with
  | 1 => 4 | 2 => 4 | 3 => 6 | 4 => 6 | 5 => 8 | 6 => 8 | 7 => 4 | 8 => 8 | 9 => 16 | 10 => 32 | _ => 0

/-- The scale group of a G_CODE (R135). -/
def groupOf (g : Nat) : Nat :=
  match g with
  | 1 => 32 | 2 => 64 | 3 => 128 | _ => 0

/-- Formats 2 to 6 follow the OCP MX specification (R170). -/
def isMx (fmt : Nat) : Bool := 2 ≤ fmt && fmt ≤ 6
/-- Formats 1 to 8 carry a scale record per group (R170). -/
def isBlock (fmt : Nat) : Bool := 1 ≤ fmt && fmt ≤ 8
/-- The integer formats. -/
def isInt (fmt : Nat) : Bool := fmt == 7 || fmt == 8

/-- Scale record bytes: one for TB4 and MX, four for integers (R170). -/
def recBytes (fmt : Nat) : Nat := if isInt fmt then 4 else if isBlock fmt then 1 else 0

/-- Exponent width, bias and mantissa width of the float elements (R172, R173, R174). -/
def elemShape (fmt : Nat) : Nat × Nat × Nat :=
  match fmt with
  | 3 => (3, 3, 2) | 4 => (2, 1, 3) | 5 => (4, 7, 3) | 6 => (5, 15, 2) | _ => (2, 1, 1)

/-- The exponent of u(F), the smallest non-zero magnitude step (R163). -/
def stepExpOf (fmt : Nat) : Int :=
  match fmt with
  | 1 => -1 | 2 => -1 | 3 => -4 | 4 => -3 | 5 => -9 | 6 => -16 | 9 => -133 | _ => 0

/-- The code of the largest finite magnitude of a float element (R172, R173, R174). -/
def maxCode (fmt : Nat) : Nat :=
  match fmt with
  | 3 => 0x1F | 4 => 0x1F | 5 => 0x7E | 6 => 0x7B | 7 => 7 | 8 => 127 | _ => 7

/-- EMAX of R194, as a multiple of 1/2: 6, 28, 7.5, 448, 57,344, 7 and 127. -/
def emax2 (fmt : Nat) : Nat :=
  match fmt with
  | 3 => 56 | 4 => 15 | 5 => 896 | 6 => 114688 | 7 => 14 | 8 => 254 | _ => 12

/-- e_max of the E8M0 rule (R194). -/
def e8m0Emax (fmt : Nat) : Int :=
  match fmt with
  | 3 => 4 | 5 => 8 | 6 => 15 | _ => 2

/-- The magnitude of a float element's code without its sign, in steps of u(F) (R172 to R174). -/
def magSteps (mb c : Nat) : Nat :=
  if c < 2 ^ mb then c else (2 ^ mb + c % 2 ^ mb) * 2 ^ (c / 2 ^ mb - 1)

/-- The largest code whose magnitude is at most `k` steps. -/
def codeFloor (mb k : Nat) : Nat :=
  let l := Nat.log2 k
  if k < 2 ^ mb then k else (l - mb) * 2 ^ mb + k / 2 ^ (l - mb)

/-- The decoded element of a code, none for a non-finite code (R172 to R175). -/
def elemValue (fmt c : Nat) : Option Dy :=
  if fmt = 7 then some (Dy.ofInt (BitVec.ofNat 4 c).toInt)
  else if fmt = 8 then some (Dy.ofInt (BitVec.ofNat 8 c).toInt)
  else
    let (eb, _, mb) := elemShape fmt
    let mag := c % 2 ^ (eb + mb)
    if maxCode fmt < mag then none
    else
      let n : Int := magSteps mb mag
      some ⟨if c.testBit (eb + mb) then -n else n, stepExpOf fmt⟩

/-- A decoded scale record. -/
inductive Scale where
  /-- An invalid block (R180). -/
  | invalid
  /-- A scale, zero included, with the zero point of an integer record (R176 to R178). -/
  | val (s : Dy) (zp : Int)
  deriving DecidableEq, Repr

/-- The value of a UE5M3 code other than 0x00 and 0xFF (R176). -/
def ue5m3Value (c : Nat) : Dy := ⟨8 + c % 8, (c / 8 : Nat) - 18⟩

/-- The value of a scale record (R176, R177, R178). -/
def scaleValue (fmt r : Nat) : Scale :=
  if fmt = 1 then
    (if r = 0 then .val Dy.zero 0 else if r = 0xFF then .invalid else .val (ue5m3Value r) 0)
  else if isMx fmt then (if r = 0xFF then .invalid else .val ⟨1, (r : Int) - 127⟩ 0)
  else if isInt fmt then
    (if r.testBit 23 then .invalid
     else .val ⟨r % 65536, -(bitsOf r 21 16 : Int)⟩ (BitVec.ofNat 8 (r >>> 24)).toInt)
  else .val (Dy.ofInt 1) 0

/-- The record that marks a block invalid, every other field 0 (R184). -/
def invalidRecord (fmt : Nat) : Nat := if isInt fmt then 0x00800000 else 0xFF

/-- The smallest UE5M3 code whose value is not below `m / EMAX` (R194). -/
def ue5m3Code (m : Dy) : Nat :=
  if m.m = 0 then 0
  else ((List.range 254).map (· + 1)).find? (fun c => m.le (Dy.mul (ue5m3Value c) (Dy.ofInt 6))) |>.getD 0xFE

/-- The E8M0 code of R194. -/
def e8m0Code (fmt : Nat) (m : Dy) : Nat :=
  if m.m = 0 then 0
  else
    let x := m.log2 - e8m0Emax fmt
    (max (-127) (min x 127) + 127).toNat

/-- `ceil (m * 2 ^ sh / EMAX)` for a non-negative `m`. -/
def intMult (fmt : Nat) (m : Dy) (sh : Nat) : Nat :=
  let d := emax2 fmt
  let e := m.e + sh + 1
  if 0 ≤ e then (m.m.natAbs * 2 ^ e.toNat + d - 1) / d
  else
    let dd := d * 2 ^ (-e).toNat
    (m.m.natAbs + dd - 1) / dd

/-- The integer scale record of R194: the most precise that covers `m / EMAX`; ZP 0, INVALID 0 (R179). -/
def intRecord (fmt : Nat) (m : Dy) : Nat :=
  if m.m = 0 then 0
  else
    match ((List.range 64).reverse).find? (fun sh => intMult fmt m sh ≤ 65535) with
    | some sh => intMult fmt m sh + sh * 65536
    | none => 65535

/-- The record chosen for magnitude `m`; none stands for +infinity (R194, R196). -/
def chooseScale (fmt : Nat) (m : Option Dy) : Nat :=
  match m with
  | none => if isInt fmt then 65535 else 0xFE
  | some x => if fmt = 1 then ue5m3Code x else if isInt fmt then intRecord fmt x else e8m0Code fmt x

/-- How an element is rounded: to nearest with ties to even, or by a 24-bit draw (R184, R185, R202). -/
inductive Rounding where
  | rne
  | draw (u : Nat)
  deriving DecidableEq, Repr

/-- Magnitude steps of a code of any element format. -/
def gridSteps (fmt c : Nat) : Nat := if isInt fmt then c else magSteps (elemShape fmt).2.2 c

/-- The floor of `|x| / (s * 2 ^ u)` for a non-zero scale. -/
def quotSteps (x s : Dy) (u : Int) : Nat :=
  let e := x.e - s.e - u
  if 0 ≤ e then x.m.natAbs * 2 ^ e.toNat / s.m.natAbs
  else x.m.natAbs / (s.m.natAbs * 2 ^ (-e).toNat)

/-- A signed magnitude code as the element's code; zero carries no sign (R183), integers are two's complement (R175). -/
def signCode (fmt c : Nat) (neg : Bool) : Nat :=
  if c = 0 || !neg then c
  else if isInt fmt then 2 ^ fmtBits fmt - c
  else c + 2 ^ (fmtBits fmt - 1)

/-- An input `x` of a group with scale `s`, written as an element: rounded once on the grid of `x / s`, saturating at
the largest magnitude (R184, R185, R202).  With scale zero the code is 0 and a non-zero input sets UNF and INX. -/
def encodeElem (fmt : Nat) (x s : Dy) (r : Rounding) : Nat × Flags :=
  if s.m = 0 then (0, if x.m = 0 then noFlags else elementFlags true false false true)
  else
    let u := stepExpOf fmt
    let k := quotSteps x s u
    let top := maxCode fmt
    let lo := if isInt fmt then min k top else min (codeFloor (elemShape fmt).2.2 k) top
    let su : Dy := ⟨s.m, s.e + u⟩
    let vlo := Dy.mul ⟨gridSteps fmt lo, 0⟩ su
    let onGrid := Dy.eq x.abs vlo
    if lo = top && !onGrid then (signCode fmt top (x.m < 0), elementFlags true true false false)
    else
      let vhi := Dy.mul ⟨gridSteps fmt (lo + 1), 0⟩ su
      let up :=
        if onGrid then false
        else
          match r with
          | .rne =>
            let twice := Dy.mul ⟨2, 0⟩ x.abs
            let mid := vlo.add vhi
            mid.lt twice || (Dy.eq mid twice && lo % 2 == 1)
          | .draw d => (Dy.mul ⟨d, 0⟩ (vhi.sub vlo)).lt (Dy.mul ⟨2 ^ 24, 0⟩ (x.abs.sub vlo))
      let c := if up then lo + 1 else lo
      (signCode fmt c (x.m < 0), elementFlags (x.m ≠ 0) false onGrid (c = 0))

/-- The element codes packed in `bs`, the first `n` of them (R171). -/
def unpackElems (fmt n : Nat) (bs : List Byte) : List Nat :=
  match fmtBits fmt with
  | 4 => ((bs.flatMap (fun b => [b.toNat % 16, b.toNat / 16])).take n)
  | 6 =>
    (List.range n).map (fun i => (fieldLE bs (3 * (i / 4)) 3 >>> (6 * (i % 4))) % 64)
  | 8 => (bs.take n).map (·.toNat)
  | 16 => (List.range n).map (fun i => fieldLE bs (2 * i) 2)
  | _ => (List.range n).map (fun i => fieldLE bs (4 * i) 4)

/-- Pairs of 4-bit codes as bytes. -/
def pack4 : List Nat → List Byte
  | [] => []
  | [a] => [BitVec.ofNat 8 a]
  | a :: b :: r => BitVec.ofNat 8 (a + 16 * b) :: pack4 r

/-- Fours of 6-bit codes as 3 bytes. -/
def pack6 : List Nat → List Byte
  | a :: b :: c :: d :: r => bytesLE 3 (a + 64 * b + 4096 * c + 262144 * d) ++ pack6 r
  | [] => []
  | l => bytesLE 3 ((l.getD 0 0) + 64 * (l.getD 1 0) + 4096 * (l.getD 2 0))

/-- Element codes packed as bytes (R171). -/
def packElems (fmt : Nat) (cs : List Nat) : List Byte :=
  match fmtBits fmt with
  | 4 => pack4 cs
  | 6 => pack6 cs
  | 8 => cs.map (BitVec.ofNat 8 ·)
  | 16 => cs.flatMap (bytesLE 2 ·)
  | _ => cs.flatMap (bytesLE 4 ·)

/-- Element bytes of `n` elements. -/
def elemBytes (fmt n : Nat) : Nat := n * fmtBits fmt / 8

/-- A scale record as bytes. -/
def recordBytes (fmt r : Nat) : List Byte := bytesLE (recBytes fmt) r

/-- Values of one group of elements: none for an invalid block (R180).  `zp` says whether a zero point is honoured
(R178: INT8 operands of MMA and INT8 inputs of DEQ). -/
def blockElems (fmt : Nat) (codes : List Nat) (rec : Nat) (zp : Bool) : Option (Dy × List Dy) :=
  match scaleValue fmt rec with
  | .invalid => none
  | .val s z =>
    match codes.mapM (elemValue fmt) with
    | none => none
    | some es =>
      some (s, if zp && fmt == 8 then es.map (fun e => e.sub (Dy.ofInt z)) else es)

/-- The values `s * e` of one group (R180, R186). -/
def blockValues (fmt : Nat) (codes : List Nat) (rec : Nat) (zp : Bool) : Option (List Dy) :=
  (blockElems fmt codes rec zp).map (fun p => p.2.map (fun e => p.1.mul e))

/-- A group of exact values written as a block, just-in-time, to nearest with ties to even (R222, R184): codes, record
and flags.  Values that are not finite make it invalid. -/
def writeBlock (fmt : Nat) (vs : List Val) : List Nat × Nat × Flags :=
  if vs.all Val.isFin then
    let xs := vs.map (fun v => match v with | .fin x => x | _ => Dy.zero)
    let m := (xs.map Dy.abs).foldl Dy.max Dy.zero
    let rec' := chooseScale fmt (some m)
    match scaleValue fmt rec' with
    | .val s _ =>
      let es := xs.map (fun x => encodeElem fmt x s .rne)
      (es.map (·.1), rec', es.foldl (fun f e => f.or e.2) noFlags)
    | .invalid => (vs.map (fun _ => 0), rec', noFlags)
  else (vs.map (fun _ => 0), invalidRecord fmt, invFlag)

/-- The mixing function of R202, modulo 2^64. -/
def mix64 (z : BitVec 64) : BitVec 64 :=
  let z := (z ^^^ (z >>> 30)) * 0xBF58476D1CE4E5B9#64
  let z := (z ^^^ (z >>> 27)) * 0x94D049BB133111EB#64
  z ^^^ (z >>> 31)

/-- The 24-bit draw of element `e` of a command (R202). -/
def srDraw (seed : BitVec 64) (step srTag e : Nat) : Nat :=
  let key := mix64 (seed ^^^ mix64 (BitVec.ofNat 64 (2 ^ 63 + (step * 65536 ||| srTag))))
  (mix64 (key + BitVec.ofNat 64 (e + 1) * 0x9E3779B97F4A7C15#64)).toNat >>> 40

/-- The sign of position `i` in a rotation block of size `n` is −1 (R204). -/
def rotSign (seed : BitVec 64) (n i : Nat) : Bool :=
  (mix64 (seed ^^^ mix64 (BitVec.ofNat 64 (2 ^ 62 + (n * 65536 ||| i))))).msb

/-- `popcount (j AND i)` is odd. -/
def hadNeg (j i : Nat) : Bool := (List.range 8).foldl (fun b k => b != ((j.testBit k) && (i.testBit k))) false

/-- The rotation size of a ROT code 1 to 5 (R203). -/
def rotSize (rot : Nat) : Nat := 16 * 2 ^ (rot - 1)
/-- `log2 n` and `h` of R203. -/
def rotLog (rot : Nat) : Nat := 3 + rot
def rotHalf (rot : Nat) : Nat := rotLog rot / 2

/-- The sum of `± x(i)` with the signs of row `j` of H. -/
def hadRow (xs : List Dy) (j : Nat) : Dy :=
  (xs.zipIdx).foldl (fun a p => a.add (if hadNeg j p.2 then p.1.neg else p.1)) Dy.zero

/-- The rotated block (R203). -/
def rotate (seed : BitVec 64) (rot : Nat) (xs : List Dy) : List Dy :=
  let n := rotSize rot
  let sx := xs.zipIdx.map (fun p => if rotSign seed n p.2 then p.1.neg else p.1)
  (List.range n).map (fun j => (hadRow sx j).mul (Dy.pow2 (-(rotHalf rot : Int))))

/-- The inverse rotation of a block (R205). -/
def unrotate (seed : BitVec 64) (rot : Nat) (ws : List Dy) : List Dy :=
  let n := rotSize rot
  (List.range n).map (fun i =>
    let y := (hadRow ws i).mul (Dy.pow2 ((rotHalf rot : Int) - rotLog rot))
    if rotSign seed n i then y.neg else y)

end Sys2Proof.Machine
end

