-- ==== Sys2Proof/Machine/State.lean ====
section
/-! DEFINITION. The state of the part: every register, queue, buffer, counter and mode that the spec names, as plain
data.  A structure's default values are the values after cold reset (00 R13); `State.reset` is built of them.  The
chapter and rule that give a field stand in its docstring or at the head of its structure. -/

namespace Sys2Proof.Machine

/-- Why the machine stops: never.  The spec gives every condition a stated outcome (00 R4), so no command ends the
machine with a fault; the type is closed and empty. -/
inductive Fault where
  deriving DecidableEq, Repr

/-- Why a command has no meaning. -/
inductive Refusal where
  /-- The command of this mnemonic has no meaning yet; raised by no arm of a finished model (safe). -/
  | notModelled (mnemonic : String)
  deriving DecidableEq, Repr

/-- What one command answers. -/
abbrev Out (σ : Type) := Host.Outcome σ Fault Refusal

/-- A fault, health or long trace record (R363); `detail` holds bytes 32 to 63. -/
structure Rec where
  ts : BitVec 64 := 0
  tag : BitVec 32 := 0xFFFFFFFF
  unit : BitVec 16 := 0
  cls : BitVec 8 := 0
  source : BitVec 8 := 0
  code : BitVec 16 := 0
  flags : BitVec 16 := 0
  count : BitVec 32 := 0
  addr : BitVec 64 := 0
  detail : List Byte := List.replicate 32 0
  /-- The function whose command the TAG names: what LOG_READ filters by (R95), not part of the record. -/
  func : Option Nat := none
  /-- In the fault latch: it waits there for HLP's return from a restart (R61, R386); not part of the record. -/
  held : Bool := false
  deriving DecidableEq, Repr

/-- Bits that an event sets and a write of 1 clears (R14): their values, and those that events have set in the present
cycle, which no write of that cycle clears (R16). -/
structure Sticky (w : Nat) where
  val : BitVec w := 0
  fresh : BitVec w := 0
  deriving DecidableEq, Repr

/-! ### The beat timebase (file 02) -/

/-- ELECT_STATE of BT_STATUS (02, BT registers); other values are not produced. -/
inductive Elect where
  | idle | claiming | follower | master | conflict
  deriving DecidableEq, Repr

/-- What drives BEAT_OUT (R37). -/
inductive BeatOut where
  | highZ | repeatIn | own
  deriving DecidableEq, Repr

/-- The BT block and the hidden state of the timebase (file 02). -/
structure Bt where
  markInterval : BitVec 12 := 0x040
  linkMarkEn : Bool := true
  beatInEn : Bool := true
  upstreamPort : BitVec 5 := 0x1F
  elect : Elect := .idle
  activeSrc : BitVec 3 := 0
  slewing : Bool := false
  holdover : Bool := false
  locked : Bool := false
  countValid : Bool := false
  events : Sticky 6 := {}
  holdoverBeats : BitVec 32 := 0
  offset : BitVec 32 := 0
  serial : BitVec 40 := 0xFFFFFFFFFF
  masterKey : BitVec 59 := BitVec.allOnes 59
  /-- The 52-bit beat counter (R42, R43). -/
  beat : BitVec 52 := 0
  /-- The core cycle within the beat, 0 to 149 (R43). -/
  cyc : Fin 150 := 0
  /-- The core clock has locked once since the last cold reset (R42). -/
  everLocked : Bool := false
  beatInQualified : Bool := false
  beatOut : BeatOut := .highZ
  /-- The lowest claim seen in the election that runs, the device's own included (R51). -/
  lowest : Option Claim := none
  /-- The device still claims in the running election (R51). -/
  claims : Bool := false
  /-- The beat on which the lowest claim was last lowered, or the election started (R51). -/
  claimBeat : BitVec 52 := 0
  /-- The election that runs has settled (R51, R54). -/
  settled : Bool := false
  /-- An equal key with another DEVICE_UID was detected; holds until cold or warm reset (R53). -/
  conflict : Bool := false
  /-- An earlier election has settled since reset (R42, R54). -/
  everSettled : Bool := false
  /-- The last marker received on any port: its TS64 and the beat on which it arrived (R45). -/
  lastMarkTs : BitVec 64 := 0
  lastMarkBeat : BitVec 52 := 0
  /-- The interval the last marker carried (R38). -/
  followInterval : BitVec 12 := 0x040
  /-- The hop count last seen on each port, none where no marker came since the port came up (R38). -/
  portHop : List (Option (BitVec 8)) := List.replicate 24 none
  /-- Markers waiting in the one-entry marker buffer of each port (R321). -/
  markerIn : List (Option Marker) := List.replicate 24 none
  /-- The phase error still to be slewed out, in 1/10,000 of the 1/4,096 beat: ahead of the master where positive (R39, R49). -/
  slewRest : Int := 0
  /-- A step of the counter to the master's count waits for the pause of R46: the offset it takes out, as last measured (R49). -/
  stepBy : Option (BitVec 64) := none
  /-- The beat of the last marker sent as master (R38). -/
  markSentBeat : BitVec 52 := 0
  deriving DecidableEq, Repr
/-! ### The control processors and the mailboxes (files 03, 04) -/

/-- STATE of FWP_STATUS (R61). -/
inductive FwpState where
  | held | running | restarting | halted
  deriving DecidableEq, Repr

/-- One SRAM of 256 KiB of a firmware processor: its bytes, 0 where none is listed, and the bits of its 64-bit words that have
flipped, as `64 * word + bit` (R55). -/
structure Sram where
  bytes : List Host.Cell := []
  flips : List Nat := []
  deriving DecidableEq, Repr

/-- FWP_STATUS of one processor (03, FWP registers), and its SRAMs for instructions and data (R55). -/
structure Fwp where
  restarts : BitVec 16 := 0
  version : BitVec 24 := 0
  state : FwpState := .held
  isram : Sram := {}
  dsram : Sram := {}
  deriving DecidableEq, Repr

/-- A message in the ring of an ordered pair of firmware processors that no request of HP stands for: SCP asks BSP to retire the plans
of a tenancy (R56, R57, R99). -/
structure RingMsg where
  src : Nat
  dst : Nat
  tenancy : Nat
  deriving DecidableEq, Repr

/-- An open session (R83): its number, its 32-byte key and the last accepted counter. -/
structure Session where
  number : BitVec 32
  key : List Byte
  lastCounter : BitVec 64 := 0
  deriving DecidableEq, Repr

/-- One mailbox channel (R62-R77).  `copied` holds the messages copied and not yet checked; `responses` the unpopped
responses, oldest first (on channel 5, the queued events). -/
structure Chan where
  window : List Byte := List.replicate 4096 0
  msixVec : BitVec 8 := 0
  msixEn : Bool := true
  winFree : Bool := true
  resetBusy : Bool := false
  evtOverflow : Bool := false
  err : Sticky 4 := {}
  lastSeq : BitVec 32 := 0xFFFFFFFF
  refused : BitVec 32 := 0
  evtLost : BitVec 32 := 0
  outstanding : Nat := 0
  copied : List (List Byte) := []
  responses : List (List Byte) := []
  /-- Digest of the last accepted request, and its response once it has one (R104). -/
  keptDigest : Option (List Byte) := none
  keptResp : Option (List Byte) := none
  /-- Next SEQ of the events of channel 5, the events lost since the last summary, and the TS64 of the first and last lost event (R76). -/
  evtSeq : BitVec 32 := 0
  lostNow : Nat := 0
  lostFirst : BitVec 64 := 0
  lostLast : BitVec 64 := 0
  session : Option Session := none
  /-- The session numbers given on the channel so far (R83). -/
  numbers : List (BitVec 32) := []
  /-- Doorbells refused at FULL in the present cycle: how many, and MBX_REFUSED and MBX_ERR before the first (R66). -/
  refusedNow : Option (Nat × BitVec 32 × Sticky 4) := none
  deriving DecidableEq, Repr

/-- Where an accepted request stands: at HP, passed to its owner, or in execution there (R56, R60, R69). -/
inductive ReqAt where
  | hp | owner | executing
  deriving DecidableEq, Repr

/-- An accepted request (R74).  `dups` counts the exact repeats that wait for its response (R105); `discard` is set
when its channel was reset meanwhile (R77); `prev` is what the channel kept before it, put back when check 10 rejects
it (R80). -/
structure Req where
  chan : Nat
  msg : List Byte
  place : ReqAt := .hp
  dups : List (List Byte) := []
  discard : Bool := false
  acceptBeat : BitVec 52 := 0
  prevSeq : BitVec 32 := 0
  prevCounter : BitVec 64 := 0
  prevDigest : Option (List Byte) := none
  prevResp : Option (List Byte) := none
  /-- The key of the session under which it was accepted, for the trailer of its response (R72, R73). -/
  key : Option (List Byte) := none
  /-- Of a RECIPE_SELECT, whether its plan stood paused or debug held at the acceptance, and the base then in force (R89, R120). -/
  plan0 : Option (Bool × BitVec 52) := none
  deriving DecidableEq, Repr

/-- A finished request whose response HP has still to place (R73): the request's bytes, the STATUS, the result payload
(none for a rejection) and whether its response is dropped (R77).  `dups` are its exact repeats, answered directly after it (R105);
`ends` says that every session ends once it is placed (R102, R405). -/
structure Done where
  chan : Nat
  msg : List Byte
  status : BitVec 16
  payload : Option (List Byte)
  discard : Bool := false
  /-- The key of the request's session, for the trailer (R72, R73). -/
  key : Option (List Byte) := none
  /-- The processor whose result it is: one other than HP has put it into its ring to HP (R56, R57). -/
  owner : Nat := 0
  dups : List (List Byte) := []
  ends : Bool := false
  deriving DecidableEq, Repr

/-- An MSI-X message sent: the function (0 for PF0, n for VFn) and the vector. -/
structure Msix where
  func : Nat
  vec : BitVec 8
  /-- Its vector is masked: its bit of the pending-bit array is set and it has still to be sent. -/
  held : Bool := false
  deriving DecidableEq, Repr

/-- The eight channels after reset: vectors 5 and 6 for channels 5 and 6; channel 7 sends no MSI-X (R62). -/
def chansReset : List Chan :=
  [{}, {}, {}, {}, {}, { msixVec := 5 }, { msixVec := 6 }, { msixEn := false }]

/-! ### Plans (file 05; sections of the image: files 06, 12, 13, 14, 20) -/

/-- A step-table entry (R109). -/
structure StepEnt where
  stepOff : Nat
  promiseOff : Nat
  deriving DecidableEq, Repr

/-- A chunk-table entry (R109); `cmds` is the number of commands R462 assigns to it. -/
structure ChunkEnt where
  step : Nat
  core : Nat
  wc : Nat
  releaseOff : Nat
  preds : List Nat
  firstCmd : Nat
  cmds : Nat
  deriving DecidableEq, Repr

/-- A slot-table entry (R109). -/
structure SlotEnt where
  step : Nat
  slotId : Nat
  streamId : Nat
  bytes : Nat
  inputOff : Nat
  dest : Nat
  deriving DecidableEq, Repr

/-- A vent-table entry (R109); `cmd` is the index of the VENT command R462 pairs with it. -/
structure VentEnt where
  step : Nat
  core : Nat
  ventOff : Nat
  len : Nat
  cmd : Nat
  deriving DecidableEq, Repr

/-- A node of a core's stream, in stream order (R111): a chunk-table or a vent-table index. -/
inductive Node where
  | chunk (i : Nat)
  | vent (i : Nat)
  deriving DecidableEq, Repr

/-- PLAN_STATUS STATE (R88, R116). -/
inductive PlanState where
  | admitted | armed | running | paused | debugHeld | completed | retired
  deriving DecidableEq, Repr

/-- Where a chunk stands: not released, running since its release beat, or ended. -/
inductive ChunkState where
  | waiting
  | running (release : BitVec 52)
  | committed (beat : BitVec 52)
  | discarded
  deriving DecidableEq, Repr

/-- Where a vent window stands (R378). -/
inductive VentState where
  | waiting
  | running (start : BitVec 52)
  | ended (beat : BitVec 52)
  deriving DecidableEq, Repr

/-- Where a slot stands (R122, R123, R356): free, claimed by a record of a port, given an over-length record, filled, or run
empty. -/
inductive SlotState where
  | waiting
  | claimed (port streamId seq : Nat)
  | overlong
  | filled
  | empty
  deriving DecidableEq, Repr

/-- One accepted variant selection (R89, R120): the step at whose start it takes effect. -/
structure Select where
  step : Nat
  group : Nat
  variant : Nat
  tag : BitVec 32
  deriving DecidableEq, Repr

/-- A stack range of the memory layout section (R283). -/
structure RangeEnt where
  base : Nat
  len : Nat
  deriving DecidableEq, Repr

/-- A region entry (R283): KIND 0 uncached, 1 atomic. -/
structure RegionEnt where
  base : Nat
  len : Nat
  kind : Nat
  dtype : Nat
  shadow : Nat
  deriving DecidableEq, Repr

/-- A history entry (R283, R197). -/
structure HistEnt where
  core : Nat
  n : Nat
  base : Nat
  deriving DecidableEq, Repr

/-- An export entry (R283, R248). -/
structure ExportEnt where
  base : Nat
  len : Nat
  streamId : Nat
  deriving DecidableEq, Repr

/-- The memory layout section (R283). -/
structure Layout where
  ranges : List RangeEnt := []
  regions : List RegionEnt := []
  hists : List HistEnt := []
  exports : List ExportEnt := []
  portsPerNbr : Nat := 2
  sharedRead : BitVec 8 := 0
  healPeer : BitVec 15 := 0x7FFF
  deriving DecidableEq, Repr

/-- A group entry of the recipe section (R241): the variants' HIST lists, as many as N_VARIANTS. -/
structure GroupEnt where
  default : Nat
  hists : List (List Nat)
  deriving DecidableEq, Repr

/-- A text entry of the program section (R252): where the text lies in memory, and where in scratch it goes. -/
structure TextEnt where
  core : Nat
  addr : Nat
  len : Nat
  scratchOff : Nat
  deriving DecidableEq, Repr

/-- A chunk program entry (R252). -/
structure ChunkProg where
  entries : List Nat
  sig : BitVec 64
  deriving DecidableEq, Repr

/-- What an admitted image says (R108): the tables the device runs the plan by. -/
structure PlanImg where
  steps : List StepEnt := []
  chunks : List ChunkEnt := []
  slots : List SlotEnt := []
  vents : List VentEnt := []
  /-- Per plan core, the nodes of its command stream in order (R111, R462). -/
  nodes : List (List Node) := []
  nCores : Nat := 0
  seed : BitVec 64 := 0
  layout : Layout := {}
  groups : List GroupEnt := []
  texts : List TextEnt := []
  progs : List ChunkProg := []
  /-- The plan's MAX for Ids 1 to 6 of R146 (R147). -/
  maxes : List Nat := [512, 64, 32, 256, 256, 64]
  /-- The trace stream map: CMD_SID, TRACE_SID, FLAGS (R389). -/
  traceMap : List (Nat × Nat × Nat) := []
  /-- For each chunk, the export ranges that its commands or the stores of its threads may write, with the command or none (R248,
  R359). -/
  writers : List (List (Nat × List Byte)) := []
  deriving DecidableEq, Repr

/-- An admitted plan (R110-R124).  `func` is its owner: 0 for PF0, n for tenancy n; `cores` the device logical cores
assigned to it, in ascending order (R113). -/
structure Plan where
  handle : BitVec 16
  func : Nat
  img : PlanImg
  cores : List Nat
  /-- Device address and length of the image; the mover reads the text and the patch window from there (R253, R254). -/
  imageAddr : Nat
  imageLen : Nat
  state : PlanState := .admitted
  /-- The base beat (R115), modulo 2^52 as every beat (R43). -/
  base : BitVec 52 := 0
  /-- The compute die of each plan core at arming: its own stack for R229 (R370). -/
  homes : List Nat := []
  /-- Per plan core, the sites that it ran on before its present one since arming (R29, R119). -/
  pastSites : List (List Nat) := []
  /-- The arm epoch of the plan (R288). -/
  epoch : BitVec 64 := 0
  holdCause : BitVec 16 := 0
  curStep : Nat := 0
  lastDone : Option Nat := none
  lastStatus : BitVec 16 := 0
  missed : BitVec 32 := 0
  chunkStates : List ChunkState := []
  ventStates : List VentState := []
  slotStates : List SlotState := []
  /-- STEP status already settled for the step in progress: OVERLENGTH of a slot (R122), and the steps that run without
  a promise after BEAT_LOST or INTERNAL (R120). -/
  overlength : List Nat := []
  noPromise : List (Nat × BitVec 16) := []
  missedSteps : List Nat := []
  /-- An accepted PLAN_PAUSE waits for its boundary: the step at whose start the plan pauses, and PAUSE_BEAT as answered (R87). -/
  pauseAt : Option (Nat × BitVec 52) := none
  /-- Steps that had begun when the plan last left the running state (R120). -/
  begun : Nat := 0
  /-- Cores stop at their next chunk boundary and the plan then pauses with this cause (R46, R61). -/
  stopping : Option (BitVec 16) := none
  /-- The step that the sequencer finishes before its cores stop, BSP having restarted in it (R61). -/
  stopAfter : Option Nat := none
  resumeBeat : Option (BitVec 52) := none
  /-- The accepted selections by the step whose start their SWITCH_BEAT named (R89, R120, R244). -/
  selects : List Select := []
  /-- Steps whose SWITCH_BEAT has been acted on, and those at which a variant changed (R201, R246). -/
  switched : List Nat := []
  switchSteps : List Nat := []
  /-- History resets that wait for a core's last chunk of earlier steps: plan core, step, records (R245). -/
  resets : List (Nat × Nat × List Nat) := []
  /-- Export ranges written in the step in progress that a chunk still to commit may write again: the export's index, its
  contents and TS64 at the commit of the last chunk that wrote it (R248, R359). -/
  exportsDue : List (Nat × List Byte × BitVec 64) := []
  /-- PLAN_RETIRE is in progress since this beat (R87). -/
  retiring : Option (BitVec 52) := none
  /-- The step whose one fault has been counted (R371). -/
  faultStep : Option Nat := none
  /-- The plan was halted because shared weights or a stack were lost (R383, R384). -/
  dead : Bool := false
  deriving DecidableEq, Repr

/-! ### Command queues (file 06) -/

/-- The fields of the WLOAD that loaded a set, its addresses as resolved (R165). -/
structure LoadSrc where
  src : Nat := 0
  scaleSrc : Nat := 0
  fmt : Nat := 0
  gCode : Nat := 0
  lanes : Nat := 0
  depth : Nat := 0
  stride : Nat := 0
  deriving DecidableEq, Repr

/-- A 16-byte completion entry (R142). -/
structure CplEnt where
  ts : BitVec 64 := 0
  tag : BitVec 32 := 0
  status : BitVec 16 := 0
  cflags : BitVec 8 := 0
  deriving DecidableEq, Repr

/-- A fetched command that has not issued (R137).  `early` is the STATUS and CFLAGS a fetch check, VMASK or a zero
field decided. -/
structure Fetched where
  idx : Nat
  bytes : List Byte
  early : Option (BitVec 16 × BitVec 8) := none
  deriving DecidableEq, Repr

/-- An issued command that has not completed.  `units` counts the units of work done (R190, R267), `first` the slots of
its first tuple, `sums` its running exact sums; `ended` says that no unit of work is left. -/
structure Flight where
  idx : Nat
  bytes : List Byte
  status : BitVec 16 := 0
  cflags : BitVec 8 := 0
  units : Nat := 0
  first : List Nat := []
  sums : List Int := []
  badAddr : Option Nat := none
  ended : Bool := false
  /-- Beats on which it has advanced none of its work while nothing held it back (R373). -/
  idle : Nat := 0
  deriving DecidableEq, Repr

/-- A logged atomic operation on one element (R287). -/
structure AtomEnt where
  op : Nat
  dtype : Nat
  addr : Nat
  operand : Nat
  compare : BitVec 64 := 0
  swap : BitVec 64 := 0
  ret : Nat := 0
  cmd : Nat
  deriving DecidableEq, Repr

/-- A held event: the device logical core and the flag (R141, R264), with the TAG, the target's plan core and the sender's
unit for the record of an EVSEND. -/
structure HeldFlag where
  core : Nat
  flag : Nat
  tag : BitVec 32
  target : Nat := 0
  unit : BitVec 16 := 0
  isEvsend : Bool := false
  deriving DecidableEq, Repr

/-- What a queue waits for before its next command issues (R139): the beat at an offset from a plan's base. -/
inductive QWait where
  | none
  | beat (base : BitVec 52) (off : Nat)
  | fence
  | flag (f : Nat)
  deriving DecidableEq, Repr

/-- The chunk a logical core runs.  `execAtStart` is CQ_EXEC_COUNT at its start (R145), `flagCopy` the uncore copy of
the flag word (R265), `attempt` how often it has been started again after a fault, `inPlace` how often on the same site
(R372), `sigMiss` how often its signature failed (R272). -/
structure RunChunk where
  handle : BitVec 16
  idx : Nat
  release : BitVec 52
  /-- What the queue waited for as the chunk was released: a WAITB that ended the chunk before (R139). -/
  waitAtStart : QWait := .none
  execAtStart : BitVec 48
  flagCopy : BitVec 64
  attempt : Nat := 0
  inPlace : Nat := 0
  sigMiss : Nat := 0
  wdog : Nat := 0
  wdogNoted : Bool := false
  wdogHits : Nat := 0
  progFault : Bool := false
  /-- HLP restarted during the chunk's recovery: it runs again after the plan's resume (R371). -/
  afterResume : Bool := false
  /-- Beats without a flag set while every thread waits (R268). -/
  deadlock : Nat := 0
  /-- The set snapshot of R165: which set was active, and how each READY set was loaded. -/
  snapActive : Bool := false
  snap0 : Option (LoadSrc × BitVec 32) := none
  snap1 : Option (LoadSrc × BitVec 32) := none
  deriving DecidableEq, Repr

/-- The registers of one queue window that software reads and writes (06, CQ registers). -/
structure CqRegs where
  tail : BitVec 32 := 0
  head : BitVec 32 := 0
  retire : BitVec 32 := 0
  exec : BitVec 48 := 0
  halted : Bool := false
  frozen : Bool := false
  underrunNow : Bool := false
  owned : Bool := false
  err : Sticky 5 := {}
  cplHead : BitVec 32 := 0
  cplTail : BitVec 32 := 0
  brkHit : Bool := false
  brkTagEn : Bool := false
  brkCountEn : Bool := false
  brkCount : BitVec 48 := 0
  brkMask : BitVec 32 := 0xFFFFFFFF
  brkValue : BitVec 32 := 0
  irqEn : Bool := false
  irqVec : BitVec 8 := 0
  irqThreshold : BitVec 11 := 0x200
  underruns : BitVec 32 := 0
  cplLost : BitVec 32 := 0
  deriving DecidableEq, Repr

/-- The queue of one device logical core.  `slots` holds the written bytes of the 1,024 slots; `entries` the published
entries not yet freed, oldest first, the first with index RETIRE; the rest is the running chunk's. -/
structure Cq where
  regs : CqRegs := {}
  slots : List Host.Cell := []
  ring : List CplEnt := List.replicate 256 {}
  entries : List (List Byte) := []
  fetched : List Fetched := []
  flights : List Flight := []
  wait : QWait := .none
  /-- The command at which a break froze the queue: no break fires there again, and a recompute of the chunk holds there (R121,
R148). -/
  frozenAt : Option Nat := none
  /-- CQ_EXEC_COUNT has reached CQ_BRK_COUNT and the count comparator is due to fire (R148). -/
  brkDue : Bool := false
  /-- TAIL writes refused in the present cycle, oldest first, and CQ_ERR before them: a freeing of the cycle applies first (R130). -/
  tailNow : Option (List (BitVec 32) × Sticky 5) := none
  run : Option RunChunk := none
  /-- Entries of the running chunk's completion list, written at its commit (R142). -/
  cpls : List CplEnt := []
  /-- Index of the next command to issue, counted since admission. -/
  next : Nat := 0
  /-- Pending stack and scratch bytes of the chunk, by address (R285, R368). -/
  pend : List Host.Cell := []
  log : List AtomEnt := []
  heldFlags : List HeldFlag := []
  /-- Trace records of the chunk, written at its commit: the plan's stream, none for the DEFAULT stream; whether it is a MARK's; the
  bytes (R390, R391). -/
  trace : List (Option (BitVec 16) × Bool × List Byte) := []
  lastTag : BitVec 32 := 0xFFFFFFFF
  /-- VENTs of the stream taken so far, and the running window: its vent-table index and whether its test runs (R378). -/
  vents : Nat := 0
  vent : Option (Nat × Bool) := none
  deriving DecidableEq, Repr

/-! ### Stacks and die-shared caches (file 14) -/

/-- One stack's block (14, STK registers). -/
structure Stk where
  spareBanksHi : BitVec 4 := 0
  spareBanksLo : BitVec 4 := 0
  lost : Bool := false
  wipeBusy : Bool := false
  scrubActive : Bool := true
  interval : BitVec 16 := 0x4000
  passes : BitVec 16 := 0
  offset : BitVec 31 := 0
  ceCnt : BitVec 32 := 0
  ueCnt : BitVec 32 := 0
  poisonRead : BitVec 32 := 0
  lastKind : BitVec 2 := 0
  lastDie : BitVec 1 := 0
  lastOffset : BitVec 31 := 0
  repOp : BitVec 3 := 0
  repDie : BitVec 1 := 0
  repBank : BitVec 7 := 0
  repRow : BitVec 10 := 0
  repData : BitVec 30 := 0
  rowRepairs : BitVec 16 := 0
  /-- The beat of the last scrub read (R281). -/
  scrubBeat : BitVec 52 := 0
  /-- Beats on which codewords of the stack were poisoned in the last 1,000 beats (R384). -/
  poisonBeats : List (BitVec 52) := []
  /-- Spare rows fused and soft-assigned, by die and bank (`128 * die + bank`), with their number (R279, R282). -/
  fusedRows : List (Nat × Nat) := []
  softRows : List (Nat × Nat) := []
  /-- Corrected codewords by row in the last 24 hours (R282): the row's key and the beat. -/
  weakRows : List (Nat × BitVec 52) := []
  deriving DecidableEq, Repr

/-- A committed line that a cache holds: its address / 128, and whether the stack has yet to take it (R284). -/
structure DscLine where
  line : Nat
  dirty : Bool
  deriving DecidableEq, Repr

/-- A die-shared cache (DSC registers): `lines` are its committed lines, the latest used first; pending ones stand with their chunk's
queue (R284, R285). -/
structure Dsc where
  lines : List DscLine := []
  wipeBusy : Bool := false
  commitBusy : Bool := false
  hits : BitVec 48 := 0
  misses : BitVec 48 := 0
  atomElems : BitVec 48 := 0
  wayWait : BitVec 32 := 0
  eccUe : BitVec 32 := 0
  eccCe : BitVec 32 := 0
  flags : Sticky 4 := {}
  deriving DecidableEq, Repr

/-- The addressed memory of the part: the stacks, core scratch and the DSC control windows (R276, R277).  `bytes` is the
committed content in canonical form; `poison` the poisoned codewords (address / 64), rising (R279). -/
structure Mem where
  bytes : List Host.Cell := []
  poison : List Nat := []
  deriving DecidableEq, Repr

/-- A named shared region (R100): READERS has bit 0 for PF0 and bits 1 to 4 for the tenancies. -/
structure SharedRegion where
  base : Nat
  len : Nat
  readers : BitVec 5
  deriving DecidableEq, Repr

/-! ### Control cores (file 13) -/

/-- Where a thread stands: idle or halted, started and not halted, or stopped by a program fault; whether a running thread waits
in the sense of R268 is seen from its next instruction. -/
inductive ThreadState where
  | idle | running | stopped
  deriving DecidableEq, Repr

/-- One thread (R254-R264).  `regs` are s0 to s31; `view` is its view of the patch window (R263). -/
structure Thread where
  regs : List (BitVec 64) := List.replicate 32 0
  pc : BitVec 64 := 0
  state : ThreadState := .idle
  started : Bool := false
  retired : BitVec 64 := 0
  crc : BitVec 64 := BitVec.allOnes 64
  view : List Byte := []
  deriving DecidableEq, Repr

/-- A store-buffer entry (R261). -/
structure StoreEnt where
  addr : Nat
  data : List Byte
  thread : Nat
  /-- The PC of the store, for a fault at its draining. -/
  pc : Nat := 0
  deriving DecidableEq, Repr

/-- An address-stream descriptor (R266). -/
structure Desc where
  base : List (BitVec 64)
  strideIn : List (BitVec 32)
  strideOut : List (BitVec 32)
  nIn : Nat
  nOut : Nat
  k : Nat
  deriving DecidableEq, Repr

/-- An address stream: its queued descriptors, the position in the first, and the TAG of the last command that took a
tuple from it in the chunk (R266, R268). -/
structure AStream where
  queue : List Desc := []
  o : Nat := 0
  i : Nat := 0
  lastTag : BitVec 32 := 0xFFFFFFFF
  deriving DecidableEq, Repr

/-- One control core (13, CCR registers). -/
structure Ccr where
  threads : List Thread := List.replicate 8 {}
  stores : List StoreEnt := []
  flags : BitVec 64 := 0
  flagsSet : BitVec 64 := 0
  streams : List AStream := List.replicate 8 {}
  textBase : BitVec 48 := 0
  sig : BitVec 64 := 0
  sigExp : BitVec 64 := 0
  err : Sticky 9 := {}
  faultThread : BitVec 3 := 0
  faultValid : Bool := false
  faultPc : BitVec 48 := 0
  retired : BitVec 48 := 0
  checkCnt : BitVec 32 := 0
  regCe : BitVec 32 := 0
  deriving DecidableEq, Repr

/-! ### Core sites: lane block, quantiser, accumulator, matrix-vector path (files 07, 09, 10, 11) -/

/-- The state of a stationary set (R155). -/
inductive SetState where
  | empty | loading | ready
  deriving DecidableEq, Repr

/-- A stationary set (R154, R155, R162): per loaded lane its element codes and its scale records; `colSums` are c(i) and
`laneSums` S(g, j), lane after lane, in units of u(FMT) (R163). -/
structure WSet where
  st : SetState := .empty
  tag : BitVec 32 := 0
  load : LoadSrc := {}
  codes : List (List Nat) := []
  scales : List (List Nat) := []
  colSums : List Int := []
  laneSums : List (List Int) := []
  deriving DecidableEq, Repr

/-- The lane block of a site (07, LBK registers).  `demand` is the array's demand in quarters; while `holding`, the grant is held
for `hold` more cycles (R166, R167). -/
structure Lbk where
  set0 : WSet := {}
  set1 : WSet := {}
  active : Bool := false
  grant : BitVec 3 := 0
  demand : Nat := 0
  holding : Bool := false
  hold : Nat := 0
  spareMap : List (BitVec 16) := List.replicate 7 0
  checkErr : Sticky 3 := {}
  checkCnt : BitVec 32 := 0
  stallOperand : BitVec 32 := 0
  stallRamp : BitVec 32 := 0
  stallWload : BitVec 32 := 0
  stallSwap : BitVec 32 := 0
  fill : BitVec 48 := 0
  deriving DecidableEq, Repr

/-- The state of an accumulator entry (R211). -/
inductive EntState where
  | normal | sat | inv
  deriving DecidableEq, Repr

/-- An accumulator entry: the 104-bit integer N and the state (R211). -/
structure AccEnt where
  n : BitVec 104 := 0
  st : EntState := .normal
  deriving DecidableEq, Repr

/-- An accumulator row: its anchor and the entries of the 520 physical lanes: data lanes 0 to 511, the check lane, and the seven
spares (R23, R211). -/
structure AccRow where
  anchor : BitVec 16
  ents : List AccEnt
  deriving DecidableEq, Repr

/-- The accumulator of a site (10, ACC registers).  `rows` lists the rows written in the chunk by rising number; the
others read as zero and have no anchor (R158, R217). -/
structure Acc where
  rows : List (Nat × AccRow) := []
  satSeen : Bool := false
  flags : Sticky 8 := {}
  satCnt : BitVec 32 := 0
  invCnt : BitVec 32 := 0
  drainRows : BitVec 48 := 0
  anchorErr : BitVec 32 := 0
  stall : BitVec 32 := 0
  deriving DecidableEq, Repr

/-- The quantiser of a site (09, QNT registers).  `work` holds the chunk's working copies of history records (R198). -/
structure Qnt where
  histo : Bool := false
  twoPass : Bool := false
  flags : Sticky 4 := {}
  histBase : BitVec 48 := 0
  histN : BitVec 9 := 0
  elems : BitVec 48 := 0
  twoPassElems : BitVec 48 := 0
  stall : BitVec 32 := 0
  work : List (Nat × List Byte) := []
  deriving DecidableEq, Repr

/-- The outlier counters of a site (09, OUT registers). -/
structure OutCnt where
  stall : BitVec 32 := 0
  extracted : BitVec 48 := 0
  consumed : BitVec 48 := 0
  deriving DecidableEq, Repr

/-- The matrix-vector path of a site (11, MVP registers); `vec` is the vector buffer (R231). -/
structure Mvp where
  flags : Sticky 8 := {}
  checkErr : Sticky 2 := {}
  macCnt : BitVec 48 := 0
  stall : BitVec 32 := 0
  elemStall : BitVec 32 := 0
  elemCnt : BitVec 48 := 0
  vec : List (BitVec 16) := []
  deriving DecidableEq, Repr

/-- One core site. -/
structure Site where
  lbk : Lbk := {}
  qnt : Qnt := {}
  outp : OutCnt := {}
  acc : Acc := {}
  mvp : Mvp := {}
  ccr : Ccr := {}
  deriving DecidableEq, Repr

/-! ### Health (file 19) -/

/-- A crater-table entry (R94): STATE 1 fenced, 2 fenced permanent, 3 tested and passed. -/
structure Crater where
  unit : BitVec 16
  state : BitVec 8
  reason : BitVec 8
  faults : BitVec 16 := 1
  ts : BitVec 64
  deriving DecidableEq, Repr

/-- HLT_SITE_STATE of a site (19, HLT registers). -/
inductive SiteState where
  | inService | warm | held | underTest | recovering | fenced | permanent | lost
  deriving DecidableEq, Repr

/-- What a recovery is for (R369, R372, R379, R381, R91). -/
inductive RecCause where
  | check | watchdog | inPlace | swap | test | fence
  deriving DecidableEq, Repr

/-- Where a recovery stands: the fault has reached HLP; the site is fenced and a spare chosen; the spare is in service
and loads its state (R369). -/
inductive RecPhase where
  | detected | fenced | inService
  deriving DecidableEq, Repr

/-- A recovery in progress (R369-R372): the failed site, the logical core it served (none for a site that runs no plan
core), the spare, the checker's error register and unit, the TAG, and the beats on which its phases ended. -/
structure Recovery where
  site : Nat
  core : Option Nat
  spare : Option Nat := none
  /-- The spare chosen was cold (R370). -/
  cold : Bool := false
  cause : RecCause
  phase : RecPhase := .detected
  err : BitVec 16 := 0
  source : BitVec 8 := 0
  tag : BitVec 32 := 0xFFFFFFFF
  first : Bool := true
  /-- The site to fence at the next decision: the failed one, or a spare that failed meanwhile (R371), and the checker's SOURCE. -/
  fail : Nat
  failSource : BitVec 8 := 0
  /-- Whether the fault for which that site is fenced was its step's first, none where it is no fault of a step (R371, R379). -/
  failFirst : Option Bool := none
  /-- A spare whose FENCE waits for this recovery's end (R91). -/
  asked : Option Nat := none
  /-- HLP has restarted during it: its chunk recomputes after the plan's resume (R371). -/
  late : Bool := false
  t0 : BitVec 52 := 0
  t1 : BitVec 52 := 0
  t2 : BitVec 52 := 0
  t3 : BitVec 52 := 0
  deriving DecidableEq, Repr

/-- A recovery whose chunk has still to commit its recompute; the record of CODE 0x1700 or 0x1703 is due then. -/
structure Recompute where
  core : Nat
  rcv : Recovery
  deriving DecidableEq, Repr

/-- A queued heal (R382): the codeword (address / 64), and the beat of its request once it was sent. -/
structure Heal where
  word : Nat
  asked : Option (BitVec 52) := none
  deriving DecidableEq, Repr

/-- A test that runs on a site (R376 to R380): its TEST_ID, the beat on which it began (none while the site's domain powers up),
and the site's state before it, none in a vent window. -/
structure TestRun where
  site : Nat
  id : Nat
  start : Option (BitVec 52) := none
  prior : Option SiteState := none
  deriving DecidableEq, Repr

/-- The HLT block and what HLP keeps (19). -/
structure Health where
  autoUnfence : Bool := true
  wdogGrace : BitVec 20 := 0x02710
  testIntervalH : BitVec 8 := 6
  logState : BitVec 2 := 0
  events : Sticky 11 := {}
  siteStates : List SiteState := List.replicate 80 .held
  overdue : List Bool := List.replicate 80 false
  sharedPeer : BitVec 15 := 0x7FFF
  logNext : BitVec 32 := 0
  recoverCnt : BitVec 32 := 0
  secondCnt : BitVec 32 := 0
  latchLost : BitVec 32 := 0
  /-- The two banks of the health log, the most recent 4,096 records, oldest first (R385). -/
  bankA : List Rec := []
  bankB : List Rec := []
  bankAOk : Bool := true
  bankBOk : Bool := true
  /-- The fault latch: at most 16 records, oldest first (R386). -/
  latch : List Rec := []
  /-- How many of its records entered in the present cycle, and the records that found it full in it, each with whether it was counted:
  a pop of the cycle comes before them (R453). -/
  latchNow : Nat := 0
  latchMissed : List (Rec × Bool) := []
  crater : List Crater := []
  /-- The crater table and lane remaps as they stand in the boot flash (R374). -/
  flashCrater : List Crater := []
  flashRemaps : List (List (BitVec 16)) := List.replicate 80 (List.replicate 7 0)
  /-- The soft row repairs there, stack by stack (R282, R374). -/
  flashRows : List (List (Nat × Nat)) := List.replicate 16 []
  craterDirty : Bool := false
  /-- Fences since reset: the unit and the beat (R375). -/
  fences : List (BitVec 16 × BitVec 52) := []
  recoveries : List Recovery := []
  recomputes : List Recompute := []
  heals : List Heal := []
  /-- Per site: the beat of its last pass of test 1, and how its test since its fence ended (R92, R375, R380). -/
  lastPass : List (Option (BitVec 52)) := List.replicate 80 none
  testedSince : List (Option Bool) := List.replicate 80 none
  /-- The beat of the last record of an overdue site without a spare (R381). -/
  overdueNoted : List (Option (BitVec 52)) := List.replicate 80 none
  /-- The tests that run (R376, R377). -/
  tests : List TestRun := []
  deriving DecidableEq, Repr

/-! ### The stream port and trace (files 18, 20) -/

/-- A record being reassembled on a port (R353): its header, the next expected offset, and the slot it claimed, by plan and entry
(R356).  `dead` says that it was diverted and its remaining fragments are discarded. -/
structure OpenRec where
  streamId : Nat
  seq : Nat
  header : List Byte
  next : Nat
  claim : Option (BitVec 16 × Nat) := none
  dead : Bool := false
  deriving DecidableEq, Repr

/-- A fragment's payload in a port's receive buffer: its record's header and slot, its offset in the payload, whether it is the
last, and whether its record was diverted meanwhile. -/
structure BufEnt where
  header : List Byte
  claim : Option (BitVec 16 × Nat) := none
  off : Nat
  data : List Byte
  last : Bool
  deriving DecidableEq, Repr

/-- One stream port (18, STM port registers); `link` is LINK_STATE, `buf` the receive buffer, oldest first, `pausing` whether the
device pauses its sender, `pauses` the beats for
which a received PFC frame still pauses each priority (R352), `loads` the payload of LOAD records that wait for their last (R357). -/
structure StmPort where
  en : Bool := true
  link : BitVec 2 := 0
  rxFrames : BitVec 48 := 0
  rxDrop : BitVec 48 := 0
  txFrames : BitVec 48 := 0
  opened : List OpenRec := []
  buf : List BufEnt := []
  pausing : Bool := false
  pauses : List Nat := List.replicate 8 0
  loads : List BufEnt := []
  deriving DecidableEq, Repr

/-- An outbound record in the 64 MiB buffer: its owner function and its bytes, header first (R354, R359). -/
structure OutRec where
  func : Nat
  kind : Nat
  streamId : Nat
  bytes : List Byte
  deriving DecidableEq, Repr

/-- The stream die (18, STM common registers). -/
structure Stm where
  etype : BitVec 16 := 0
  mac : BitVec 48 := 0
  dstMac : BitVec 48 := 0
  txPrio : BitVec 3 := 3
  rxMask : BitVec 8 := 0x08
  vlanEn : Bool := false
  vlanTci : BitVec 16 := 0
  owner : BitVec 12 := 0
  divert : List (List Byte) := []
  divLost : BitVec 32 := 0
  expLost : BitVec 32 := 0
  ports : List StmPort := List.replicate 4 {}
  outq : List OutRec := []
  /-- Next SEQ of each export stream: plan handle, stream, SEQ (R359). -/
  seqs : List (Nat × Nat × Nat) := []
  /-- Frames sent: the port and the bytes, in order of sending. -/
  sent : List (Nat × List Byte) := []
  /-- PFC frames sent: the port, the priority, and whether it pauses or releases (R352). -/
  pfcSent : List (Nat × BitVec 3 × Bool) := []
  /-- Slots claimed in the present cycle: the plan's handle and the slot (R356). -/
  claimsNow : List (BitVec 16 × Nat) := []
  deriving DecidableEq, Repr

/-- An entry of the staging buffer (R392): its stream, its plan (none for the DEFAULT and HEALTH streams), the function whose TAG it
carries (0 where it carries none), the record's 32 or 64 bytes and the beat on which it was staged. -/
structure StageEnt where
  sid : BitVec 16
  plan : Option (BitVec 16)
  func : Nat
  bytes : List Byte
  beat : BitVec 52
  deriving DecidableEq, Repr

/-- The trace unit (20, TRC registers). -/
structure Trc where
  flushBeats : BitVec 16 := 0x2710
  recKib : BitVec 4 := 8
  domainEn : Bool := true
  abandoned : Bool := false
  healthEn : Bool := false
  en : Bool := false
  sidDefault : BitVec 16 := 0xFFF1
  sidHealth : BitVec 16 := 0xFFF0
  lost : BitVec 32 := 0
  sent : BitVec 48 := 0
  /-- EN and HEALTH_EN were written 0: the trace domain goes off once every record is sent (R394). -/
  downDue : Bool := false
  staged : List StageEnt := []
  /-- Records lost since the last LOST record: how many, the TS64 of the first and of the last (R393). -/
  lostRun : Option (Nat × BitVec 64 × BitVec 64) := none
  /-- Next SEQ of each trace stream: plan handle or 0, stream, SEQ (R392). -/
  seqs : List (Nat × Nat × Nat) := []
  deriving DecidableEq, Repr

/-- The JTAG TAP (R397, R398): the instruction in force, the boundary register as preloaded, whether CLAMP or EXTEST drives
the pins from it or HIGHZ releases them, the NOT_STOPPED bit of the site-state instrument, what the last access of the IEEE 1687
network or the IDCODE register returned, and the boundary register as last captured. -/
structure Jtag where
  ir : BitVec 8 := 0x01
  preload : List Bool := []
  notStopped : Bool := false
  data : List Byte := []
  sampled : List Bool := []
  /-- The bypass register's one bit, and what TDO brought of a shift through it (R397, R427). -/
  bypassBit : Bool := false
  tdo : List Bool := []
  deriving DecidableEq, Repr

/-! ### Links, SEND and RECV (file 16) -/

/-- STATE of LNK_PORT_STATUS. -/
inductive PortState where
  | disabled | training | up | failed | miswired | fenced | delayLong
  deriving DecidableEq, Repr

/-- A link port (16, LNK port registers).  `linkTx`, `ctlTx` and `bulkTx` are the classes that wait for a flit boundary
(R320), `replay` the unacknowledged flits in SEQ order, `resend` those of them still to be sent again (R316). -/
structure Port where
  state : PortState := .disabled
  nbr : BitVec 15 := 0x7FFF
  delay : BitVec 8 := 0
  /-- The one-way delay as measured, in 1/4,096 beat (R39); DELAY shows it in beats, rounded up. -/
  delayTs : BitVec 20 := 0
  owned : Bool := false
  /-- The spare lane as the receiver of this end uses it, and as its transmitter does: a data lane, 0xE failed, 0xF rotating (R315). -/
  spareLane : BitVec 4 := 0xF
  spareTx : BitVec 4 := 0xF
  fecCe : BitVec 48 := 0
  fecUe : BitVec 48 := 0
  crcErr : BitVec 48 := 0
  flitsTx : BitVec 48 := 0
  flitsRx : BitVec 48 := 0
  replayFailed : BitVec 32 := 0
  replays : BitVec 32 := 0
  laneErr : BitVec 63 := 0
  /-- Corrected symbols of the beat in progress, lane by lane (R315). -/
  laneNow : List Nat := List.replicate 9 0
  txSeq : BitVec 16 := 0
  rxNext : BitVec 16 := 0
  /-- The receiver discards until the flit it named in a NAK arrives: the TS64 of the NAK (R316). -/
  nakAt : Option (BitVec 64) := none
  /-- Replay attempts in a row that arrived bad here (R316, R317). -/
  rxFails : Nat := 0
  markTx : Option Flit := none
  linkTx : List Flit := []
  ctlTx : List Flit := []
  bulkTx : List Flit := []
  replay : List Flit := []
  resend : List Flit := []
  /-- The beat of the resend that waits for an answer, and the failed attempts in a row (R316, R317). -/
  resentAt : Option (BitVec 52) := none
  failures : Nat := 0
  /-- The transmitter marks its next flit: the spare carries the failed lane from it on (R315). -/
  laneMark : Bool := false
  /-- The receiver has found this lane failed, and takes it from the spare from the marked flit on (R315). -/
  laneWait : Option (BitVec 4) := none
  /-- A port that failed is OWNED until this beat for what the partner resends over the other ports (R317, R318). -/
  failUntil : Option (BitVec 52) := none
  /-- The partner's board serial and DEVICE_UID, from phase 4 of the training (R327). -/
  nbrSerial : BitVec 40 := 0
  nbrUid : BitVec 128 := 0
  /-- Free places of the partner's receive buffer, as credits: bulk on VC 0 and 1, control on VC 0 and 1; training gives all of them
(R324, R327, R332). -/
  credits : List Nat := [512, 512, 64, 64]
  /-- Places of this port's receive buffer that have been freed and are still to be told to the partner (R332). -/
  freed : List Nat := [0, 0, 0, 0]
  /-- The beat of the last link-control flit, whose ACK field acknowledges (R316). -/
  ackAt : BitVec 52 := 0
  /-- The beat of the last retraining (R328). -/
  trainAt : BitVec 52 := 0
  /-- The flits that have gone out, and how many of them went before the last training: the codewords begin anew there (R312). -/
  sent : List Flit := []
  sentBefore : Nat := 0
  /-- The place of the next received flit among the five that two codewords hold, and whether each of the two decoded (R312, R314). -/
  rxPos : Fin 5 := 0
  rxFirst : Bool := true
  rxSecond : Bool := true
  deriving DecidableEq, Repr

/-- A posted RECV (R329 to R331).  `count` is its timer in beats; `match?` the BYTES of the matched request. -/
structure RecvJob where
  core : Nat
  handle : BitVec 16
  idx : Nat
  tag : BitVec 32
  peer : BitVec 15
  channel : BitVec 16
  dst : Nat
  bytes : Nat
  timeout : Nat
  count : Nat := 0
  match? : Option Nat := none
  got : Nat := 0
  poisoned : Bool := false
  /-- Delivered bytes, held as pending lines of the RECV's chunk and kept when it is abandoned (R330). -/
  lines : List Host.Cell := []
  /-- Its timeout has been reported (R331). -/
  expired : Bool := false
  deriving DecidableEq, Repr

/-- Where a SEND stands (R329): held to its chunk's commit, ready while an earlier one to the same PEER and CHANNEL is not yet
granted, requested, refused since a beat, granted and sent. -/
inductive SendState where
  | held | ready | requested | refused (beat : BitVec 52) | sent
  deriving DecidableEq, Repr

/-- An uncompleted SEND (R146, R329). -/
structure SendJob where
  core : Nat
  handle : BitVec 16
  idx : Nat
  tag : BitVec 32
  peer : BitVec 15
  channel : BitVec 16
  src : Nat
  bytes : Nat
  state : SendState := .held
  deriving DecidableEq, Repr

/-- A peer's request without a posted RECV (R332). -/
structure ReqEnt where
  peer : BitVec 15
  channel : BitVec 16
  bytes : Nat
  deriving DecidableEq, Repr

/-- The links (16, LNK common registers) and the transfers of the device. -/
structure Lnk where
  /-- W of LNK_COORD, from the straps. -/
  w : BitVec 3 := 0
  xyz : BitVec 12 := 0xFFF
  wSize : BitVec 4 := 1
  xSize : BitVec 5 := 1
  ySize : BitVec 5 := 1
  zSize : BitVec 5 := 1
  /-- The coordinate and sizes that the last training took (R322). -/
  coordUsed : BitVec 15 := 0xFFF
  retrainEn : Bool := true
  laneThr : BitVec 16 := 0x0040
  events : Sticky 6 := {}
  ports : List Port := List.replicate 24 {}
  recvs : List RecvJob := []
  sends : List SendJob := []
  requests : List ReqEnt := []
  /-- Good flits for this device, in arrival order, that no unit has taken yet: the port and the flit. -/
  inbox : List (Nat × Flit) := []
  /-- Packets routed into a direction that has no port up (R326). -/
  waiting : List Flit := []
  /-- Packets being forwarded: type, SRC, DEST, CHANNEL and the port they leave by (R325). -/
  passing : List (Nat × BitVec 15 × BitVec 15 × BitVec 16 × Nat) := []
  /-- Directions whose ports have all failed: the direction and, once LKP has installed its detours, the number of their free value
(R326). -/
  lostDirs : List (Nat × Option Nat) := []
  /-- The detours around a link that another device has lost, as LKP installed them last: the number of their free value (R326). -/
  detour : Option Nat := none
  /-- Bytes of SENDs still on their way that are more than their RECV takes: SRC, CHANNEL and how many are to be discarded (R330). -/
  excess : List (BitVec 15 × BitVec 16 × Nat) := []
  deriving DecidableEq, Repr

/-! ### Collectives (file 17) -/

/-- A child's contribution at a level of the tree, as far as it has arrived: its rank, its flags, and its values or bytes of
`total` (R335, R344). -/
structure Contribution where
  level : Nat
  rank : Nat
  total : Nat
  flags : BitVec 4 := 0
  vals : List Wire := []
  bytes : List Byte := []
  deriving DecidableEq, Repr

/-- A COLL that is not yet complete (R337, R338): held to its commit, or posted.  `count` is its timer in beats. -/
structure CollJob where
  core : Nat
  handle : BitVec 16
  idx : Nat
  tag : BitVec 32
  group : Nat
  seq : Nat := 0
  posted : Bool := false
  /-- Posted in the present cycle, at whose end it takes its sequence (R337). -/
  fresh : Bool := false
  params : CollParams
  rank : Nat
  src : Nat
  dst : Nat
  timeout : Nat
  count : Nat := 0
  contribs : List Contribution := []
  /-- The level up to which this device has summed its runs, with the partial, as values or bytes, and its flags. -/
  level : Nat := 0
  vals : List Wire := []
  bytes : List Byte := []
  flags : BitVec 4 := 0
  /-- The partial has been sent up, or, on the root, the result sent down. -/
  passed : Bool := false
  /-- Result bytes that have arrived, those for the members below included, and DST bytes committed (R338). -/
  got : Nat := 0
  done : Nat := 0
  completed : Bool := false
  /-- Its timeout has been reported (R347). -/
  expired : Bool := false
  deriving DecidableEq, Repr

/-- A collective engine (17, COL engine registers). -/
structure Engine where
  retries : BitVec 32 := 0
  inService : Bool := true
  bytes : BitVec 48 := 0
  /-- Its segments move to another engine until this beat (R345). -/
  moving : Option (BitVec 52) := none
  /-- The adder step that has mismatched once: its group, posting sequence and level (R345). -/
  retried : Option (Nat × Nat × Nat) := none
  deriving DecidableEq, Repr

/-- The collectives (17, COL common registers).  `seqs` is the posting sequence of each group (R337). -/
structure Col where
  flags : Sticky 4 := {}
  events : Sticky 4 := {}
  done : BitVec 48 := 0
  engines : List Engine := List.replicate 16 {}
  jobs : List CollJob := []
  seqs : List (Nat × Nat) := []
  deriving DecidableEq, Repr

/-! ### Solver engines (file 15) -/

/-- A finished matrix (R299, R303): its FP32 codes and its status entry. -/
structure MatRes where
  codes : List Nat
  flags : BitVec 16 := 0
  clamped : Nat := 0
  shift : Int := 0
  resid : Nat := 0
  deriving DecidableEq, Repr

/-- One matrix of a job: the engine it is dealt to (none while no engine is in service) and its result once finished. -/
structure MatSt where
  engine : Option Nat := none
  result : Option MatRes := none
  deriving DecidableEq, Repr

/-- A SOLVE that is not yet published or cancelled (R293): held to its commit, or submitted with its inputs and range
record as read then.  `mismatch` lists the engines with a first mismatch in the job, `worked` those that worked on it. -/
structure SolveJob where
  core : Nat
  handle : BitVec 16
  idx : Nat
  tag : BitVec 32
  step : Nat
  kind : Nat
  n : Nat
  batch : Nat
  src : Nat
  dst : Nat
  deadlineOff : Nat
  rangeAddr : Nat
  submitted : Bool := false
  /-- Submitted in the present cycle: dealt in the order of the logical cores (R290, R295). -/
  fresh : Bool := false
  range : List Byte := []
  /-- Per matrix, whether its input is good, and its input bytes as read at the commit (of a KIND 6 item that is INV, the
  descriptor alone). -/
  inputs : List (Bool × List Byte) := []
  /-- Result bytes that the checks at issue allowed (R294). -/
  room : Nat := 0
  mats : List MatSt := []
  mismatch : List Nat := []
  worked : List Nat := []
  /-- Submitted after its deadline: not run (R304). -/
  late : Bool := false
  deriving DecidableEq, Repr

/-- What tells a job from every other: its logical core, its plan's HANDLE and its command's index since admission. -/
structure SolveKey where
  core : Nat
  handle : BitVec 16
  idx : Nat
  deriving DecidableEq, Repr

/-- A solver engine (15, SLV registers).  `queue` holds the matrices dealt to it: the job and the matrix number. -/
structure Slv where
  inService : Bool := true
  flags : Sticky 8 := {}
  jobs : BitVec 32 := 0
  stale : BitVec 32 := 0
  checkCnt : BitVec 32 := 0
  busy : BitVec 48 := 0
  queue : List (SolveKey × Nat) := []
  deriving DecidableEq, Repr

/-! ### Security, life cycle, tenancies (file 21) -/

/-- A tenancy (R98, R407): its ranges and its logical cores, in ascending order. -/
structure Tenancy where
  ranges : List RangeEnt
  cores : List Nat
  /-- Sites that its retired plans have run on: their scratch and accumulators go with its release (R409). -/
  sites : List Nat := []
  deriving DecidableEq, Repr

/-- What a key slot holds (R400). -/
inductive SlotKey where
  | factory
  | empty
  | key (bs : List Byte)
  deriving DecidableEq, Repr

/-- A firmware bank of the boot flash (R402, R403): the VERSION and KEY_INDEX of its image, and the image's bytes, none being the image
that the device is delivered with, of which the spec gives no bytes: it is taken to be signed (log entry 6). -/
structure Bank where
  version : BitVec 24 := 0
  keyIndex : Nat := 0
  image : Option (List Byte) := none
  deriving DecidableEq, Repr

/-- What the key area of the boot flash holds for slot 0, 6 or 7 (R400, R402): nothing yet, so that the factory key stands; a key, its write
count, encrypted, and its authentication; or nothing any more. -/
inductive StoredKey where
  | factory
  | erased
  | held (count : Nat) (cipher mac : List Byte)
  deriving DecidableEq, Repr

/-- The SEC block and what SCP keeps (21), with the fuses and the boot flash (log entry 6). -/
structure Sec where
  /-- The pairs of life-cycle fuses, of PROVISIONED, FIELD and DECOMMISSIONED: which of them are blown (R405). -/
  lcFuses : List (Bool × Bool) := List.replicate 3 (false, false)
  minEpoch : BitVec 8 := 0
  failCount : BitVec 8 := 0
  debug : Bool := true
  chal : Option (List Byte) := none
  resp : BitVec 128 := 0
  activeBank : Bool := false
  /-- The boot record: the bank it names and that bank's VERSION (R402). -/
  bootBank : Bool := false
  bootVersion : BitVec 24 := 0
  bank0 : Bank := {}
  bank1 : Bank := {}
  key0Revoked : Bool := false
  /-- Slots 0 to 7; 5 holds no key (R400). -/
  slots : List SlotKey := [.factory, .empty, .empty, .empty, .empty, .empty, .factory, .factory]
  /-- The key area, and how often it has been written, for slots 0, 6 and 7 (R400). -/
  keyArea : List StoredKey := List.replicate 3 .factory
  keyWrites : List Nat := [0, 0, 0]
  tenancies : List (Option Tenancy) := List.replicate 4 none
  /-- Tenancies whose release waits for their plans to retire (R99, R409). -/
  releasing : List Nat := []
  /-- VF Enable of PF0's SR-IOV capability (R409). -/
  vfEnable : Bool := false
  wipeVerify : Bool := true
  wipeOnRetire : Bool := false
  deriving DecidableEq, Repr

/-- LC_STATE: the highest state of whose pair at least one fuse is blown (R405). -/
def Sec.lcState (s : Sec) : BitVec 2 :=
  let blown := fun (i : Nat) => let p := s.lcFuses.getD i (false, false); p.1 || p.2
  if blown 2 then 3 else if blown 1 then 2 else if blown 0 then 1 else 0

/-! ### Power, reset and boot, straps and pins (files 22, 23) -/

/-- The state of a switched domain (R434): RAMPING is a power-up or a power-down. -/
inductive DomState where
  | off | ramping | gated | on
  deriving DecidableEq, Repr

/-- BOOT_PHASE (R442). -/
inductive BootPhase where
  | reset | auth | wipe | waitCfg | links | elect | ready | halted
  deriving DecidableEq, Repr

/-- The PWR block, the supplies and the straps (22, 23).  `waitUp` holds the power-ups that wait for a ramp, `ramps` those
that ramp with the beat of their start, `waitDown` the power-downs that wait for a ramp's end, each with its cause, `downs` the domains
that power down with the beat of their start, and `deadDoms` those that did not come up and whose units HLP has still to fence (R434). -/
structure Pwr where
  phase : BootPhase := .reset
  pdOk : BitVec 4 := 0
  vinOk : Bool := false
  vauxOk : Bool := true
  /-- The control part of the always-on domain runs (R433). -/
  ctlUp : Bool := false
  /-- Level driven on READY. -/
  ready : Bool := false
  cfgDone : Bool := false
  /-- Memories wiped in the WIPE phase of this boot, stack by stack (R291, R442). -/
  wiped : List Bool := List.replicate 16 false
  warmCount : BitVec 16 := 0
  lastReset : BitVec 2 := 1
  events : Sticky 6 := {}
  alertMw : BitVec 32 := 0x0033E140
  vinMv : BitVec 32 := 0
  pkgMw : BitVec 32 := 0
  /-- The beat of the last PWR_TELEM update, and of the last sample its TS64 and the hottest die temperature, 0.1 °C (R96). -/
  telemAt : BitVec 52 := 0
  sampleTs : BitVec 64 := 0
  hotTemp : BitVec 16 := 0
  /-- TEMP and IIN_MA of each power die (R431). -/
  pds : List (BitVec 16 × BitVec 32) := List.replicate 4 (0, 0)
  doms : List DomState := List.replicate 171 .off
  waitUp : List (Nat × Nat) := []
  ramps : List (Nat × Nat × BitVec 52) := []
  waitDown : List (Nat × Nat) := []
  downs : List (Nat × BitVec 52) := []
  deadDoms : List Nat := []
  /-- Core sites that failed their self-test while HLP did not run (R435). -/
  badSites : List Nat := []
  reqOn : Bool := false
  reqDomain : BitVec 8 := 0
  /-- THERMTRIP_L is asserted (R415). -/
  thermtrip : Bool := false
  /-- VIN48 must fall below its falling threshold before it may start the device again (R430). -/
  mustFall : Bool := false
  /-- SYS_RST_L is low: the device is in warm reset (R439); `again` says that the boot sequence had come to AUTH and not to
its end when it fell (R441). -/
  sysRst : Bool := false
  again : Bool := false
  /-- The straps as last sampled (R423). -/
  pos : BitVec 3 := 0
  priority : BitVec 4 := 0
  /-- PCI_PERST_L is high, and the endpoint answers (R444). -/
  perstHigh : Bool := false
  pcieUp : Bool := false
  deriving DecidableEq, Repr

/-! ### The management port (file 24) -/

/-- A register access of the management port in progress (R450): a read, or a write of a value. -/
inductive MgtAccess where
  | read (addr : Nat)
  | write (addr : Nat) (value : BitVec 64)
  deriving DecidableEq, Repr

/-- The MGT block and the SPI target (24).  `miso` holds the bytes that the last frame shifted out after the status byte,
`status` the last status byte. -/
structure Mgt where
  frameErr : Bool := false
  accErr : Bool := false
  access : Option MgtAccess := none
  dataValid : Bool := false
  data : BitVec 64 := 0
  status : BitVec 8 := 0
  miso : List Byte := []
  /-- The sticky causes, bits 4 to 0 of MGT_ALERT_STATUS. -/
  alerts : Sticky 5 := {}
  alertMask : BitVec 6 := 0x3F
  hotDie : BitVec 8 := 0
  tempNow : BitVec 8 := 0
  tempC : BitVec 8 := 95
  spiErr : BitVec 32 := 0
  deriving DecidableEq, Repr

/-! ### The machine -/

/-- What a wipe of stack memory is made for: a tenancy that is created or released, or a life-cycle change (R98, R99, R291, R405). -/
inductive WipeFor where
  | create (n : Nat)
  | release (n : Nat)
  | lifecycle (target : BitVec 2)
  | retire
  deriving DecidableEq, Repr

/-- A wipe under way (R291): the ranges that it has still to end, each within one stack; MEMORY_WIPE ends those of a stack. -/
structure WipeJob where
  purpose : WipeFor
  parts : List RangeEnt
  deriving DecidableEq, Repr

/-- Everything but the queue of waiting commands. -/
structure Dev where
  bt : Bt := {}
  fwp : List Fwp := List.replicate 5 {}
  chans : List Chan := chansReset
  reqs : List Req := []
  dones : List Done := []
  /-- The messages that wait in the rings between the firmware processors, but for HP's requests and their results (R57). -/
  rings : List RingMsg := []
  msix : List Msix := []
  plans : List Plan := []
  /-- Handles given so far. -/
  lastHandle : BitVec 16 := 0
  /-- The site of each device logical core: 0 to 79, 0xFE none, 0xFF in no plan (R97, R113). -/
  siteOf : List Nat := List.replicate 72 0xFF
  mapTs : BitVec 64 := 0
  /-- The device arm epoch (R288). -/
  epoch : BitVec 64 := 0
  cqs : List Cq := List.replicate 72 {}
  mem : Mem := {}
  /-- The shared regions by number (R100). -/
  shared : List (Option SharedRegion) := List.replicate 8 none
  stks : List Stk := List.replicate 16 {}
  dscs : List Dsc := List.replicate 16 {}
  sites : List Site := List.replicate 80 {}
  /-- LBK_RAMP.STEP (R168). -/
  rampStep : BitVec 5 := 0x18
  /-- The beat on which the ramp governor last dealt, and the quarters that fences took on a beat (R168). -/
  rampBeat : Option (BitVec 52) := none
  fenceFall : BitVec 52 × Nat := (0, 0)
  /-- Events on their way to a flag after their chunk's commit (R141, R264). -/
  deliveries : List HeldFlag := []
  lnk : Lnk := {}
  col : Col := {}
  slv : List Slv := List.replicate 4 {}
  /-- Solver jobs, in the order of issue and then of submission (R295). -/
  solves : List SolveJob := []
  /-- The wipes of stack memory under way, but for that of the boot (R291). -/
  wipes : List WipeJob := []
  sec : Sec := {}
  health : Health := {}
  stm : Stm := {}
  trc : Trc := {}
  jtag : Jtag := {}
  pwr : Pwr := {}
  mgt : Mgt := {}
  /-- The MSI-X tables of PF0 and VF1 to VF4, as written (R455). -/
  msixTab : List (List Host.Cell) := List.replicate 5 []
  /-- DEV_ERR: DOMAIN_OFF, PARTIAL_WRITE, UNMAPPED. -/
  devErr : Sticky 3 := {}
  /-- How many free values have been drawn (the model's own field). -/
  free : Nat := 0
  deriving DecidableEq, Repr

/-- The state: the machine, and the commands that wait, first in, first out. -/
structure State where
  dev : Dev
  pending : List Instr
  deriving DecidableEq, Repr

/-- The machine right after cold reset, with no command waiting. -/
def State.reset : State := ⟨{}, []⟩

/-- A command that acts as `f` on the machine: it always has a next state. -/
def run (f : Dev → Dev) (s : State) : Out State := .next { s with dev := f s.dev }

end Sys2Proof.Machine
end

