-- ==== Sys2Proof/Machine/Ops.lean ====
section
/-! DEFINITION. The named operations over the machine's tables and its memory: reading and writing one element of a
table, bytes of memory in canonical form, the address map, poison, pending writes of a chunk, time, MSI-X. -/

namespace Sys2Proof.Machine

/-! ### Tables -/

def Dev.site (d : Dev) (n : Nat) : Site := d.sites.getD n {}
def Dev.modSite (d : Dev) (n : Nat) (f : Site → Site) : Dev := { d with sites := d.sites.modify n f }
def Dev.cq (d : Dev) (c : Nat) : Cq := d.cqs.getD c {}
def Dev.modCq (d : Dev) (c : Nat) (f : Cq → Cq) : Dev := { d with cqs := d.cqs.modify c f }
def Dev.modRegs (d : Dev) (c : Nat) (f : CqRegs → CqRegs) : Dev := d.modCq c (fun q => { q with regs := f q.regs })
def Dev.chan (d : Dev) (c : Nat) : Chan := d.chans.getD c {}
def Dev.modChan (d : Dev) (c : Nat) (f : Chan → Chan) : Dev := { d with chans := d.chans.modify c f }
def Dev.stk (d : Dev) (s : Nat) : Stk := d.stks.getD s {}
def Dev.modStk (d : Dev) (s : Nat) (f : Stk → Stk) : Dev := { d with stks := d.stks.modify s f }
def Dev.dsc (d : Dev) (s : Nat) : Dsc := d.dscs.getD s {}
def Dev.modDsc (d : Dev) (s : Nat) (f : Dsc → Dsc) : Dev := { d with dscs := d.dscs.modify s f }
def Dev.fw (d : Dev) (i : Nat) : Fwp := d.fwp.getD i {}

/-- A firmware processor runs; with SCP halted the device is halted, and none does (R61). -/
def Dev.runs (d : Dev) (i : Nat) : Bool := (d.fw i).state == .running && (d.fw 3).state != .halted

def Dev.modFw (d : Dev) (i : Nat) (f : Fwp → Fwp) : Dev := { d with fwp := d.fwp.modify i f }
def Dev.stmPort (d : Dev) (i : Nat) : StmPort := d.stm.ports.getD i {}
def Dev.modStmPort (d : Dev) (i : Nat) (f : StmPort → StmPort) : Dev :=
  { d with stm := { d.stm with ports := d.stm.ports.modify i f } }
def Dev.siteState (d : Dev) (n : Nat) : SiteState := d.health.siteStates.getD n .held
def Dev.setSiteState (d : Dev) (n : Nat) (x : SiteState) : Dev :=
  { d with health := { d.health with siteStates := d.health.siteStates.set n x } }

/-- The plan of a handle (a retired plan's handle names none). -/
def Dev.plan? (d : Dev) (h : BitVec 16) : Option Plan := d.plans.find? (fun p => p.handle == h)
def Dev.modPlan (d : Dev) (h : BitVec 16) (f : Plan → Plan) : Dev :=
  { d with plans := d.plans.map (fun p => if p.handle == h then f p else p) }

/-- A plan that is armed in the sense of "while any plan is armed": from PLAN_ARM until it is retired. -/
def Plan.isArmed (p : Plan) : Bool :=
  match p.state with
  | .armed => true | .running => true | .paused => true | .debugHeld => true | .completed => true
  | .admitted => false | .retired => false

/-- A plan that is admitted and not retired. -/
def Plan.live (p : Plan) : Bool := p.state != .retired

def Dev.anyArmed (d : Dev) : Bool := d.plans.any Plan.isArmed

/-- The plan that holds a device logical core (R113, R126). -/
def Dev.planOf (d : Dev) (c : Nat) : Option Plan := d.plans.find? (fun p => p.live && p.cores.contains c)

/-- The function that a logical core's plan belongs to. -/
def Dev.funcOf (d : Dev) (c : Nat) : Option Nat := (d.planOf c).map (·.func)
/-- The plan core number of a device logical core in its plan (R113). -/
def Plan.planCore (p : Plan) (c : Nat) : Nat := p.cores.idxOf c
/-- The device logical core of a plan core (R113). -/
def Plan.devCore (p : Plan) (i : Nat) : Nat := p.cores.getD i 0xFFFF

/-! ### Bits that a write of 1 clears (R14, R16) -/

/-- An event sets bits. -/
def Sticky.raise {w : Nat} (s : Sticky w) (bits : BitVec w) : Sticky w := ⟨s.val ||| bits, s.fresh ||| bits⟩
/-- A write of 1 to some bits: those that an event of the same cycle has set stay set. -/
def Sticky.clear {w : Nat} (s : Sticky w) (bits : BitVec w) : Sticky w := ⟨s.val &&& ~~~(bits &&& ~~~s.fresh), s.fresh⟩
/-- The cycle ends. -/
def Sticky.settle {w : Nat} (s : Sticky w) : Sticky w := ⟨s.val, 0⟩

/-! ### Time -/

/-- The fraction of the beat of core cycle `c` (R43). -/
def fracOf (c : Nat) : Nat := c * 4096 / 150

/-- A TS64 of beat `b` and cycle `c` (R43). -/
def tsOf (b : BitVec 52) (c : Nat) : BitVec 64 := BitVec.ofNat 64 (b.toNat * 4096 + fracOf c)

/-- BT_NOW (R43). -/
def Dev.now (d : Dev) : BitVec 64 := tsOf d.bt.beat d.bt.cyc.val

/-- The beat counter as a number. -/
def Dev.beatN (d : Dev) : Nat := d.bt.beat.toNat

/-- `a + n` beats. -/
def beatAdd (a : BitVec 52) (n : Nat) : BitVec 52 := a + BitVec.ofNat 52 n

/-- Beats from `a` to the present beat, the wrap being an ordinary increment (R43). -/
def Dev.since (d : Dev) (a : BitVec 52) : Nat := (d.bt.beat - a).toNat

/-- Beats by which `b` lies after `a`, negative where it lies before it: beats wrap, and of two beats the nearer way round decides
(R43; log entry 92). -/
def beatDiff (a b : BitVec 52) : Int := (b - a).toInt
/-- Beats since a beat, negative while it is still to come. -/
def Dev.age (d : Dev) (b : BitVec 52) : Int := beatDiff b d.bt.beat
/-- A beat is reached, or passed. -/
def Dev.reached (d : Dev) (b : BitVec 52) : Bool := decide (0 ≤ d.age b)
def Dev.passed (d : Dev) (b : BitVec 52) : Bool := decide (0 < d.age b)

/-- A draw of the next free value's number: the counter advances. -/
def Dev.draw (d : Dev) : Nat × Dev := (d.free, { d with free := d.free + 1 })

/-! ### Bytes of memory -/

/-- The byte of a list of cells at an address, none where the list names none. -/
def cellAt : List Host.Cell → Nat → Option Byte
  | [], _ => none
  | (k, b) :: r, a => if k = a then some b else if a < k then none else cellAt r a

/-- Committed memory: the byte at an address; an address that is not listed reads 0. -/
def memByte (m : List Host.Cell) (a : Nat) : Byte := (cellAt m a).getD 0

/-- The cells of bytes from an address on. -/
def cellsFrom : Nat → List Byte → List Host.Cell
  | _, [] => []
  | a, b :: bs => (a, b) :: cellsFrom (a + 1) bs

/-- A list of cells with those from `a` to `a + n - 1` replaced by others. -/
def splice (m : List Host.Cell) (a n : Nat) (new : List Host.Cell) : List Host.Cell :=
  m.filter (fun c => decide (c.1 < a)) ++ new ++ m.filter (fun c => decide (a + n ≤ c.1))

/-- Committed memory with bytes written from an address on; a 0 removes its entry, so that equal memories are equal lists. -/
def memPutAll (m : List Host.Cell) (a : Nat) (bs : List Byte) : List Host.Cell :=
  splice m a bs.length ((cellsFrom a bs).filter (fun c => c.2 != 0))

/-- An overlay with bytes written from an address on. -/
def cellSetAll (m : List Host.Cell) (a : Nat) (bs : List Byte) : List Host.Cell := splice m a bs.length (cellsFrom a bs)

/-- Cells gathered into runs of bytes at consecutive addresses, in their order. -/
def runsOf : List Host.Cell → List (Nat × List Byte)
  | [] => []
  | (k, b) :: r =>
    match runsOf r with
    | (a, bs) :: t => if a = k + 1 then (k, b :: bs) :: t else (k, [b]) :: (a, bs) :: t
    | [] => [(k, [b])]

/-- Committed memory with each of some cells written, in their order. -/
def memPutCells (m cells : List Host.Cell) : List Host.Cell := (runsOf cells).foldl (fun m r => memPutAll m r.1 r.2) m

/-- An overlay with each of some cells written, in their order. -/
def cellSetCells (m cells : List Host.Cell) : List Host.Cell := (runsOf cells).foldl (fun m r => cellSetAll m r.1 r.2) m

/-- The canonical form of a memory: addresses rising, no entry equal to what an unlisted address reads as. -/
def cellsWf : List Host.Cell → Bool
  | [] => true
  | [(_, b)] => b != 0
  | (k, b) :: (k', b') :: r => b != 0 && decide (k < k') && cellsWf ((k', b') :: r)

/-- The addressed memory is in canonical form. -/
def Mem.wf (m : Mem) : Bool := cellsWf m.bytes

/-- What a rising list of cells names from an address on, address by address. -/
def spanFrom : List Host.Cell → Nat → Nat → List (Option Byte)
  | _, _, 0 => []
  | [], a, n + 1 => none :: spanFrom [] (a + 1) n
  | (k, b) :: r, a, n + 1 => if k = a then some b :: spanFrom r (a + 1) n else none :: spanFrom ((k, b) :: r) (a + 1) n

/-- What a list of cells names at each address of `[a, a + n)`. -/
def cellSpan (m : List Host.Cell) (a n : Nat) : List (Option Byte) := spanFrom (m.dropWhile (fun c => decide (c.1 < a))) a n

/-- `n` committed bytes from an address on. -/
def memBytes (m : List Host.Cell) (a n : Nat) : List Byte := (cellSpan m a n).map (·.getD 0)

/-- A 64-bit word of a firmware processor's SRAM as its code delivers it: one flipped bit is corrected, two are detected and give no
word (R55). -/
def Sram.word (s : Sram) (w : Nat) : Option (BitVec 64) :=
  if 2 ≤ (s.flips.filter (fun b => b / 64 == w)).length then none else some (BitVec.ofNat 64 (leNat (memBytes s.bytes (8 * w) 8)))

/-- Every listed byte in `[a, a + n)` dropped: the range reads 0. -/
def memZero (m : List Host.Cell) (a n : Nat) : List Host.Cell :=
  m.filter (fun c => decide (c.1 < a) || decide (a + n ≤ c.1))

/-! ### The address map (R276, R277) -/

def stackEnd : Nat := 0x800000000
def stackSize : Nat := 0x80000000
def scratchBase (n : Nat) : Nat := 0x2000000000 + 0x1000000 * n
def scratchSize : Nat := 0x800000
def dscBase : Nat := 0x1000000000
def dscEnd : Nat := 0x1004000000

/-- `[a, a + n)` lies in `[b, b + len)`. -/
def inside (a n b len : Nat) : Bool := decide (b ≤ a) && decide (n + a ≤ len + b)
/-- `[a, a + n)` and `[b, b + m)` meet. -/
def meets (a n b m : Nat) : Bool := decide (a < m + b) && decide (b < n + a) && decide (0 < n) && decide (0 < m)

/-- The codewords (address / 64) that a range of bytes touches. -/
def wordsOf (a n : Nat) : List Nat := if n = 0 then [] else (List.range ((a + n - 1) / 64 + 1 - a / 64)).map (· + a / 64)

/-- The first poisoned codeword of a range (R279, R280). -/
def Mem.poisoned? (m : Mem) (a n : Nat) : Option Nat := m.poison.find? (fun w => decide (a < 64 * w + 64) && decide (64 * w < a + n) && decide (0 < n))

/-- A rising list with an element put in. -/
def insertNat : List Nat → Nat → List Nat
  | [], x => [x]
  | y :: r, x => if x = y then y :: r else if x < y then x :: y :: r else y :: insertNat r x

/-- The number of a codeword's stack; 16 and above name none. -/
def stackOfAddr (a : Nat) : Nat := if a < stackEnd then a / stackSize else 16

/-- STK_POISON_READ counts an access that met poison (R280). -/
def Dev.countPoison (d : Dev) (a : Nat) : Dev :=
  d.modStk (stackOfAddr a) (fun s => { s with poisonRead := satInc s.poisonRead })

/-- A delivery of bytes to committed memory (R280, R285): the bytes are written but for those of a poisoned codeword
that the delivery covers in part; a codeword covered whole loses its poison.  The second component lists the poisoned
codewords that kept their poison. -/
def Mem.deliver (m : Mem) (a : Nat) (bs : List Byte) : Mem × List Nat :=
  let n := bs.length
  let covered := fun w => decide (a ≤ 64 * w) && decide (64 * w + 64 ≤ a + n)
  let hit := m.poison.filter (fun w => decide (a < 64 * w + 64) && decide (64 * w < a + n))
  let kept := hit.filter (fun w => !covered w)
  let bytes := memPutCells m.bytes ((cellsFrom a bs).filter (fun c => !kept.contains (c.1 / 64)))
  ({ bytes := bytes, poison := m.poison.filter (fun w => !(covered w)) }, kept)

/-! ### Pending writes of a chunk (R285, R368) -/

/-- `n` bytes as a chunk's own reads see them: its pending byte, otherwise the committed one. -/
def viewBytes (pend m : List Host.Cell) (a n : Nat) : List Byte :=
  List.zipWith (fun (p : Option Byte) b => p.getD b) (cellSpan pend a n) (memBytes m a n)

/-- Distinct lines of `size` bytes that the listed addresses of `[lo, hi)` touch; the addresses rise. -/
def countLines (size lo hi : Nat) : List Host.Cell → Option Nat → Nat
  | [], _ => 0
  | (k, _) :: r, last =>
    if k < lo || hi ≤ k then countLines size lo hi r last
    else if last = some (k / size) then countLines size lo hi r last
    else countLines size lo hi r (some (k / size)) + 1

/-- Pending stack lines of 128 B (R285). -/
def stackLines (pend : List Host.Cell) : Nat := countLines 128 0 stackEnd pend none
/-- Pending scratch lines of 64 B (R368). -/
def scratchLines (pend : List Host.Cell) : Nat := countLines 64 (scratchBase 0) (scratchBase 80) pend none

/-- The pending overlay stays within 16,384 stack lines and 32,768 scratch lines (R285, R368). -/
def pendOk (pend : List Host.Cell) : Bool := decide (stackLines pend ≤ 16384) && decide (scratchLines pend ≤ 32768)

/-! ### The die-shared caches (R278, R284, R285) -/

/-- The 128-byte lines of the stacks that a range touches. -/
def stackLinesOf (a n : Nat) : List Nat :=
  if n = 0 || stackEnd ≤ a then []
  else ((List.range ((a + n - 1) / 128 + 1 - a / 128)).map (· + a / 128)).filter (fun l => decide (128 * l < stackEnd))

/-- The stack lines that pending bytes touch, each once. -/
def pendLines (pend : List Host.Cell) : List Nat :=
  pend.foldl (fun r e => if e.1 < stackEnd && r.head? != some (e.1 / 128) then e.1 / 128 :: r else r) []

/-- Two lines share a set of a cache: their home and the hash of their bits [30:7] agree (R284). -/
def sameSet (l k : Nat) : Bool :=
  l / 2 ^ 24 == k / 2 ^ 24 && Config.dscSet (l % 2 ^ 24) % 32768 == Config.dscSet (k % 2 ^ 24) % 32768

/-- The pending lines of every chunk, one for each chunk that holds it (R285). -/
def Dev.linesPending (d : Dev) : List Nat := d.cqs.flatMap (fun q => pendLines q.pend)

/-- A line in an uncached region, which no cache keeps (R284). -/
def Dev.uncached (d : Dev) (l : Nat) : Bool :=
  d.plans.any (fun p => p.live && p.img.layout.regions.any (fun r => r.kind == 0 && meets (128 * l) 128 r.base r.len))

/-- No set would hold more than 12 pending lines once a chunk has written a range (R285). -/
def Dev.waysFree (d : Dev) (c a n : Nat) : Bool :=
  let held := d.linesPending
  let new := (stackLinesOf a n).filter (fun l => !(pendLines (d.cq c).pend).contains l)
  decide (held.length + new.length ≤ 12) ||
  new.all (fun l => decide ((held.filter (sameSet l)).length + (new.filter (sameSet l)).length ≤ 12))

/-- Room for one more line: of a set that is full a committed line is evicted, a dirty one written back (R284). -/
def Dsc.makeRoom (s : Dsc) (pending : List Nat) (l : Nat) : Dsc :=
  let set := s.lines.filter (fun x => sameSet l x.line)
  if set.length + (pending.filter (sameSet l)).length < 16 then s
  else
    match set[Config.dscVictim s.hits.toNat s.misses.toNat (set.map (·.line)) % set.length]? with
    | none => s
    | some v => { s with lines := s.lines.filter (fun x => x.line != v.line) }

/-- A line is used and stands first; a write that commits makes it dirty. -/
def Dsc.keep (s : Dsc) (l : Nat) (dirty : Bool) : Dsc :=
  { s with lines := ⟨l, dirty || s.lines.any (fun x => x.line == l && x.dirty)⟩ :: s.lines.filter (fun x => x.line != l) }

/-- The room that a line needs which its cache does not hold; with fewer than 4 committed lines every set has some. -/
def Dev.roomFor (d : Dev) (l : Nat) : Dev :=
  if ((d.dsc (l / 2 ^ 24)).lines.length < 4) then d else d.modDsc (l / 2 ^ 24) (fun s => s.makeRoom d.linesPending l)

/-- A line access of DSC_HITS or DSC_MISSES. -/
def Dev.countLine (d : Dev) (hit : Bool) (l : Nat) : Dev :=
  d.modDsc (l / 2 ^ 24) (fun s => if hit then { s with hits := satInc s.hits } else { s with misses := satInc s.misses })
def Dev.holdsLine (d : Dev) (l : Nat) : Bool := (d.dsc (l / 2 ^ 24)).lines.any (fun x => x.line == l)

/-- A read of a line through its home cache: a pending line of the chunk or a committed one is a hit; a line that is missed is kept,
but for one of an uncached region (R278, R284). -/
def Dev.readLine (d : Dev) (own : List Nat) (l : Nat) : Dev :=
  if own.contains l then d.countLine true l
  else if d.holdsLine l then (d.countLine true l).modDsc (l / 2 ^ 24) (fun s => s.keep l false)
  else
    let d := d.countLine false l
    if d.uncached l then d else (d.roomFor l).modDsc (l / 2 ^ 24) (fun s => s.keep l false)

/-- A chunk's write of a line: one that it does not hold as pending takes a way (R285). -/
def Dev.writeLine (d : Dev) (own : List Nat) (l : Nat) : Dev :=
  if own.contains l then d.countLine true l else (d.countLine (d.holdsLine l) l).roomFor l

/-- A line written to committed memory: a dirty line of its cache, but for one of an uncached region, which is written through (R284,
R285). -/
def Dev.commitLine (d : Dev) (l : Nat) : Dev :=
  if d.uncached l then d else (if d.holdsLine l then d else d.roomFor l).modDsc (l / 2 ^ 24) (fun s => s.keep l true)

/-- The reads and writes of a chunk, and a delivery to committed memory, as the home caches see them. -/
def Dev.readLines (d : Dev) (c a n : Nat) : Dev :=
  let own := pendLines (d.cq c).pend
  (stackLinesOf a n).foldl (fun (d : Dev) l => d.readLine own l) d
def Dev.writeLines (d : Dev) (c a n : Nat) : Dev :=
  let own := pendLines (d.cq c).pend
  (stackLinesOf a n).foldl (fun (d : Dev) l => d.writeLine own l) d
def Dev.deliverLines (d : Dev) (a n : Nat) : Dev :=
  (stackLinesOf a n).foldl (fun (d : Dev) l => (d.countLine (d.holdsLine l) l).commitLine l) d

/-- The committed lines of a range are dropped (R291). -/
def Dev.dropLines (d : Dev) (a n : Nat) : Dev :=
  { d with dscs := d.dscs.map (fun (s : Dsc) => { s with lines := s.lines.filter (fun x => !meets a n (128 * x.line) 128) }) }

/-- A write waits for a pending way; how many cycles it has waited by the next command is a free value (R285). -/
def Dev.waitWay (d : Dev) (a : Nat) : Dev :=
  let (k, d) := d.draw
  d.modDsc (stackOfAddr a) (fun s => { s with wayWait := satAdd s.wayWait (Config.cycles 10 k) })

/-! ### Wipes under way (R290, R291) -/

/-- A wipe that has not completed holds every other access to these bytes; that of the boot goes over every stack (R290). -/
def Dev.wipeHolds (d : Dev) (a n : Nat) : Bool :=
  (d.pwr.phase == .wipe && (List.range 16).any (fun s => meets a n (stackSize * s) stackSize && !d.pwr.wiped.getD s false)) ||
  d.wipes.any (fun j => j.parts.any (fun r => meets a n r.base r.len))

/-! ### Messages to the outside -/

/-- A vector's entry of its function's MSI-X table masks it.  PRESUMED: R455 names the table and the pending-bit array, whose layout and use
are those of PCI Express: bit 0 of the entry's last word masks the vector (log entry 136). -/
def Dev.vecMasked (d : Dev) (func : Nat) (vec : BitVec 8) : Bool :=
  (memByte (d.msixTab.getD func []) (16 * vec.toNat + 12)).getLsbD 0

/-- An MSI-X message on a vector of a function; a masked vector holds one message back, as its pending bit. -/
def Dev.sendMsix (d : Dev) (func : Nat) (vec : BitVec 8) : Dev :=
  if !d.vecMasked func vec then { d with msix := d.msix ++ [{ func := func, vec := vec }] }
  else if d.msix.contains ⟨func, vec, true⟩ then d
  else { d with msix := d.msix ++ [⟨func, vec, true⟩] }

/-- The messages of a function that its vectors held back are sent, where the vectors are masked no more. -/
def Dev.releaseMsix (d : Dev) (func : Nat) : Dev :=
  let go := fun (m : Msix) => m.held && m.func == func && !d.vecMasked func m.vec
  { d with msix := d.msix.filter (fun m => !go m) ++ (d.msix.filter go).map (fun m => { m with held := false }) }

/-- The function that owns a channel (R62). -/
def chanFunc (c : Nat) : Nat := if 1 ≤ c && c ≤ 4 then c else 0

/-- The channel's MSI-X message when RESP_VALID goes from 0 to 1 (R68). -/
def Dev.chanMsix (d : Dev) (c : Nat) : Dev :=
  if (d.chan c).msixEn then d.sendMsix (chanFunc c) (d.chan c).msixVec else d

/-- A response or event put at the end of a channel's queue, with the message of R68 when the queue was empty. -/
def Dev.queueResp (d : Dev) (c : Nat) (bs : List Byte) : Dev :=
  let was := (d.chan c).responses.isEmpty
  let d := d.modChan c (fun x => { x with responses := x.responses ++ [bs] })
  if was then d.chanMsix c else d

/-! ### UNIT_IDs (R364) -/

def unitId (kind n : Nat) : BitVec 16 := BitVec.ofNat 16 (kind * 4096 + n)
def siteUnit (n : Nat) : BitVec 16 := unitId 1 n
/-- The compute-die uncore of the die that carries a site. -/
def uncoreUnit (site : Nat) : BitVec 16 := unitId 3 (site / 5)

/-! ### Detail bytes -/

/-- 32 detail bytes with fields put in at their record offsets (32 to 63); unnamed bytes are 0 (R363). -/
def detailOf (fields : List (Nat × List Byte)) : List Byte :=
  fields.foldl (fun acc f => (acc.take (f.1 - 32) ++ f.2 ++ acc.drop (f.1 - 32 + f.2.length)).take 32)
    (List.replicate 32 0)

/-- The 64 bytes of a record (R363). -/
def Rec.bytes (r : Rec) : List Byte :=
  bytesLE 8 r.ts.toNat ++ bytesLE 4 r.tag.toNat ++ bytesLE 2 r.unit.toNat ++ [r.cls, r.source] ++
  bytesLE 2 r.code.toNat ++ bytesLE 2 r.flags.toNat ++ bytesLE 4 r.count.toNat ++ bytesLE 8 r.addr.toNat ++
  (r.detail ++ List.replicate 32 0).take 32

/-- FLAGS bits of a record (R363). -/
def fStepFault : BitVec 16 := 1
def fSecond : BitVec 16 := 2
def fTag : BitVec 16 := 4
def fAddr : BitVec 16 := 8
def fCount : BitVec 16 := 16
def fLatched : BitVec 16 := 32
def fOneCopy : BitVec 16 := 64

end Sys2Proof.Machine
end

