-- ==== Sys2Proof/Machine/Records.lean ====
section
/-! DEFINITION. The outbound buffer of the stream die, the staging buffer of trace, and the writing of a health record
with everything that follows from it (R76, R359, R363, R385, R386, R390, R392, R393). -/

namespace Sys2Proof.Machine

/-! ### Outbound records -/

/-- The owner of a stream port: 3 bits of STM_PORT_OWNER (R355). -/
def Dev.portOwner (d : Dev) (i : Nat) : Nat := bitsOf d.stm.owner.toNat (3 * i + 2) (3 * i)

/-- The ports that are up and held by an owner, in port order (R359, R392). -/
def Dev.upPorts (d : Dev) (func : Nat) : List Nat :=
  (List.range 4).filter (fun i => (d.stmPort i).link == 2 && d.portOwner i == func)

/-- A record header (R354). -/
def recordHeader (streamId slot kind seq step len : Nat) (ts : BitVec 64) (addr : Nat) : List Byte :=
  bytesLE 2 streamId ++ bytesLE 2 slot ++ bytesLE 1 kind ++ bytesLE 3 0 ++ bytesLE 4 seq ++ bytesLE 4 step ++
  bytesLE 8 len ++ bytesLE 8 ts.toNat ++ bytesLE 8 addr ++ bytesLE 8 0

/-- Bytes held in the outbound buffer. -/
def Stm.outUsed (s : Stm) : Nat := (s.outq.map (fun r => r.bytes.length)).sum

/-- The outbound buffer has room for `n` bytes more: 64 MiB (R359). -/
def Stm.hasRoom (s : Stm) (n : Nat) : Bool := decide (s.outUsed + n ≤ 64 * 1024 * 1024)

/-- The next SEQ of a stream, and the table with it advanced. -/
def nextSeq (t : List (Nat × Nat × Nat)) (key sid : Nat) : Nat × List (Nat × Nat × Nat) :=
  match t.find? (fun e => e.1 == key && e.2.1 == sid) with
  | some e => (e.2.2, t.map (fun x => if x.1 == key && x.2.1 == sid then (key, sid, e.2.2 + 1) else x))
  | none => (0, t ++ [(key, sid, 1)])

/-- An outbound record put at the end of the buffer. -/
def Dev.pushOut (d : Dev) (r : OutRec) : Dev := { d with stm := { d.stm with outq := d.stm.outq ++ [r] } }

/-! ### Staging -/

/-- Slots of 32 B in use (R392). -/
def Trc.used (t : Trc) : Nat := (t.staged.map (fun e => e.bytes.length / 32)).sum

/-- The entries that fit the payload limit, in order, at least one. -/
def takePayload (limit : Nat) : List StageEnt → Nat → List StageEnt
  | [], _ => []
  | e :: r, n => if n = 0 || n + e.bytes.length ≤ limit then e :: takePayload limit r (n + e.bytes.length) else []

/-- Entries of one stream. -/
def StageEnt.isOf (e : StageEnt) (plan : Option (BitVec 16)) (sid : BitVec 16) : Bool := e.plan == plan && e.sid == sid

/-- Drops the first `n` entries of one stream. -/
def dropOf (plan : Option (BitVec 16)) (sid : BitVec 16) : Nat → List StageEnt → List StageEnt
  | _, [] => []
  | 0, l => l
  | n + 1, e :: r => if e.isOf plan sid then dropOf plan sid n r else e :: dropOf plan sid (n + 1) r

/-- The open record of a stream is closed: a KIND 3 record is placed in the outbound buffer, when the trace domain is
on, a port of the owner is up (of PF0 for the HEALTH and DEFAULT streams) and the buffer has room; otherwise the entries wait (R392,
R394). -/
def Dev.closeStream (d : Dev) (plan : Option (BitVec 16)) (sid : BitVec 16) : Dev :=
  let es := d.trc.staged.filter (fun e => e.isOf plan sid)
  let take := takePayload (d.trc.recKib.toNat * 1024) es 0
  let payload := take.flatMap (·.bytes)
  let func := if plan.isSome then (es.head?.map (·.func)).getD 0 else 0
  let sq := nextSeq d.trc.seqs ((plan.map (·.toNat)).getD 0) sid.toNat
  if take.isEmpty || (d.pwr.doms.getD 170 .off != .on) || (d.upPorts func).isEmpty || !d.stm.hasRoom (48 + payload.length) then d
  else
    { d with
      trc := { d.trc with
        staged := dropOf plan sid take.length d.trc.staged
        sent := d.trc.sent + 1
        seqs := sq.2 }
      stm := { d.stm with outq := d.stm.outq ++
        [{ func := func, kind := 3, streamId := sid.toNat
           bytes := recordHeader sid.toNat 0 3 sq.1 0 payload.length d.now 0 ++ payload }] } }

/-- Open records closed, stream by stream, for the entries that a test names, as far as they can be sent. -/
def Dev.closeWhere (which : StageEnt → Bool) : Nat → Dev → Dev
  | 0, d => d
  | fuel + 1, d =>
    match d.trc.staged.find? (fun e => which e && (d.closeStream e.plan e.sid).stm.outq.length != d.stm.outq.length) with
    | none => d
    | some e => Dev.closeWhere which fuel (d.closeStream e.plan e.sid)

/-- Payload bytes of a stream's open record. -/
def Trc.openBytes (t : Trc) (plan : Option (BitVec 16)) (sid : BitVec 16) : Nat :=
  ((t.staged.filter (fun e => e.isOf plan sid)).map (fun e => e.bytes.length)).sum

/-- A short record's 32 bytes (R387). -/
def shortRecord (ts : BitVec 64) (tag : BitVec 32) (unit : BitVec 16) (code : Nat) (payload : List Byte) : List Byte :=
  bytesLE 8 ts.toNat ++ bytesLE 4 tag.toNat ++ bytesLE 2 unit.toNat ++ bytesLE 2 code ++
  (payload ++ List.replicate 16 0).take 16

/-- The LOST record (R388): how many records were lost, the TS64 of the first, and the beats to the last. -/
def lostRecord (now : BitVec 64) (n : Nat) (a b : BitVec 64) : List Byte :=
  shortRecord now 0xFFFFFFFF 0 0x2002
    (bytesLE 4 (min n 0xFFFFFFFF) ++ bytesLE 8 a.toNat ++ bytesLE 4 (min ((b >>> 12) - (a >>> 12)).toNat 0xFFFFFFFF))

/-- The LOST record that is due is staged, where the buffer has a slot for it (R393). -/
def Dev.stageLost (d : Dev) : Dev :=
  match d.trc.lostRun with
  | none => d
  | some (n, a, b) =>
    if 16384 ≤ d.trc.used then d
    else
      let e : StageEnt := ⟨d.trc.sidDefault, none, 0, lostRecord d.now n a b, d.bt.beat⟩
      { d with trc := { d.trc with lostRun := none, staged := d.trc.staged ++ [e] } }

/-- A record staged, after the LOST record that is due; one that finds the buffer full is lost and counted (R393).  A stream whose
payload reaches REC_KIB is closed (R392). -/
def Dev.stage (d : Dev) (sid : BitVec 16) (plan : Option (BitVec 16)) (func : Nat) (bs : List Byte) : Dev :=
  let ts := BitVec.ofNat 64 (leNat (bs.take 8))
  let d := d.stageLost
  if 16384 < d.trc.used + bs.length / 32 then
    { d with trc := { d.trc with
      lost := satInc d.trc.lost
      lostRun := match d.trc.lostRun with
        | none => some (1, ts, ts)
        | some (n, a, _) => some (n + 1, a, ts) } }
  else
    let d := { d with trc := { d.trc with staged := d.trc.staged ++ [⟨sid, plan, func, bs, d.bt.beat⟩] } }
    if d.trc.recKib.toNat * 1024 ≤ d.trc.openBytes plan sid then d.closeStream plan sid else d

/-- A record of a plan's chunk or window staged: in the plan's stream, or in the DEFAULT stream (R390, R392). -/
def Dev.stagePlan (d : Dev) (h : BitVec 16) (func : Nat) (sid : Option (BitVec 16)) (bs : List Byte) : Dev :=
  match sid with
  | some s => d.stage s (some h) func bs
  | none => d.stage d.trc.sidDefault none func bs

/-- The records that a commit produces, while TRC_CTRL.EN is 1 (R390, R391). -/
def Dev.stageAll (d : Dev) (h : BitVec 16) (func : Nat) (l : List (Option (BitVec 16) × Bool × List Byte)) : Dev :=
  if d.trc.en then l.foldl (fun (d : Dev) t => d.stagePlan h func t.1 t.2.2) d else d

/-- A DOMAIN_EXIT (0x2010) or DOMAIN_ENTER (0x2011) record, while DOMAIN_EN is 1 (R388, R394). -/
def Dev.stageDomain (d : Dev) (code dom cause : Nat) : Dev :=
  if d.trc.domainEn then
    d.stage d.trc.sidDefault none 0 (shortRecord d.now 0xFFFFFFFF (unitId 9 dom) code [BitVec.ofNat 8 cause])
  else d

/-! ### Health records -/

/-- A record put at the end of a bank that holds the 4,096 most recent (R385). -/
def bankPush (b : List Rec) (r : Rec) : List Rec := (b ++ [r]).drop (b.length + 1 - 4096)

/-- A record put into the fault latch; a full latch keeps its 16 oldest and counts the rest (R386). -/
def Dev.latchPush (d : Dev) (r : Rec) : Dev :=
  if d.health.latch.length < 16 then
    { d with health := { d.health with latch := d.health.latch ++ [r], latchNow := d.health.latchNow + 1 } }
  else { d with health := { d.health with
    latchLost := satInc d.health.latchLost
    latchMissed := d.health.latchMissed ++ [(r, d.health.latchLost != BitVec.allOnes 32)] } }

/-- A channel 5 message of an event (R76): a header with EVENT set and the record as its payload.  The spec gives the
event no OPCODE and the record's TAG stands in the header (log entry 12). -/
def eventMessage (seq : BitVec 32) (r : Rec) : List Byte :=
  [1, 8] ++ bytesLE 2 0 ++ bytesLE 2 64 ++ bytesLE 2 0 ++ bytesLE 4 seq.toNat ++ bytesLE 4 0 ++
  bytesLE 4 r.tag.toNat ++ bytesLE 4 0 ++ bytesLE 8 0 ++ r.bytes

/-- An event queued on channel 5 (R76). -/
def Dev.queueEvent (d : Dev) (r : Rec) : Dev :=
  let c := d.chan 5
  (d.queueResp 5 (eventMessage c.evtSeq r)).modChan 5 (fun x => { x with evtSeq := x.evtSeq + 1 })

/-- HLP posts a record on channel 5, or counts it lost while the queue is full or a summary is still due (R76). -/
def Dev.postEvent (d : Dev) (r : Rec) : Dev :=
  let c := d.chan 5
  if c.evtOverflow || 256 ≤ c.responses.length then
    d.modChan 5 (fun x => { x with
      evtOverflow := true
      evtLost := satInc x.evtLost
      lostNow := x.lostNow + 1
      lostFirst := if x.evtOverflow then x.lostFirst else r.ts
      lostLast := r.ts })
  else d.queueEvent r

/-- Whether a record goes to channel 5: CLASS 1 or above, and CODE 0x0700 and 0x0701 whatever the class (R76). -/
def Rec.isEvent (r : Rec) : Bool := r.cls != 0 || r.code == 0x0700 || r.code == 0x0701

/-- A record as the log holds it: with ONE_COPY when one bank is out (R385). -/
def Dev.oneCopy (d : Dev) (r : Rec) : Rec := if d.health.logState = 1 then { r with flags := r.flags ||| fOneCopy } else r

/-- A record put into the banks in service (R385), and into the HEALTH trace stream (R390). -/
def Dev.logRecord (d : Dev) (r : Rec) : Dev :=
  let h := d.health
  let d := { d with health := { h with
    bankA := if h.bankAOk then bankPush h.bankA r else h.bankA
    bankB := if h.bankBOk then bankPush h.bankB r else h.bankB
    logNext := h.logNext + 1 } }
  if d.trc.healthEn then d.stage d.trc.sidHealth none (r.func.getD 0) r.bytes else d

/-- HLP restarts. -/
def Dev.hlpDown (d : Dev) : Bool := (d.fw 2).state == .restarting

/-- HLP takes a record: into the log, or, while no bank is in service, with CLASS 1 and above into the latch; to channel 5, the same record
as in the log; a CLASS 5 record also goes to the latch (R76, R385, R386). -/
def Dev.takeRecord (d : Dev) (r : Rec) : Dev :=
  let r := d.oneCopy r
  let r := if d.health.logState = 2 && r.cls != 0 then { r with flags := r.flags ||| fLatched } else r
  let d :=
    if d.health.logState = 2 then (if r.cls = 0 then d else d.latchPush r)
    else
      let d := d.logRecord r
      if r.cls = 5 then d.latchPush r else d
  if r.isEvent then d.postEvent r else d

/-- HLP is back: the records that the latch holds for it are taken, oldest first, and leave the latch (R61, R386). -/
def Dev.takeHeld (d : Dev) : Dev :=
  let held := d.health.latch.filter (fun r => r.held)
  let d := { d with health := { d.health with latch := d.health.latch.filter (fun r => !r.held) } }
  held.foldl (fun (d : Dev) r => d.takeRecord { r with held := false }) d

/-- HLP writes a record; while it restarts the latch holds it (R61, R76, R385, R386). -/
def Dev.writeRecord (d : Dev) (r : Rec) : Dev :=
  if d.hlpDown then d.latchPush { r with flags := r.flags ||| fLatched, held := true } else d.takeRecord r

/-- A record with its time, class, source, code and unit, and nothing more. -/
def Dev.mkRec (d : Dev) (cls source code : Nat) (unit : BitVec 16) : Rec :=
  { ts := d.now, unit := unit, cls := BitVec.ofNat 8 cls, source := BitVec.ofNat 8 source
    code := BitVec.ofNat 16 code }

/-- The record names a command by its TAG; `func` is the function that the command belongs to, if it is known. -/
def Rec.withTag (r : Rec) (t : BitVec 32) (func : Option Nat := none) : Rec := { r with tag := t, flags := r.flags ||| fTag, func := func }
def Rec.withAddr (r : Rec) (a : Nat) : Rec := { r with addr := BitVec.ofNat 64 a, flags := r.flags ||| fAddr }
def Rec.withCount (r : Rec) (c : BitVec 48) : Rec := { r with count := c.setWidth 32, flags := r.flags ||| fCount }
def Rec.withDetail (r : Rec) (fs : List (Nat × List Byte)) : Rec := { r with detail := detailOf fs }

/-- HLT_EVENTS with bits set. -/
def Dev.setHltEvent (d : Dev) (i : Nat) : Dev :=
  { d with health := { d.health with events := d.health.events.raise (BitVec.ofNat 11 (2 ^ i)) } }

/-- A queue halts: it issues nothing more (R138). -/
def Dev.haltQueue (d : Dev) (c : Nat) : Dev := d.modRegs c (fun r => { r with halted := true })

/-- The queues of a plan halt (R383, R384). -/
def Dev.haltPlan (d : Dev) (p : Plan) : Dev := p.cores.foldl Dev.haltQueue d

/-- The TAG of a 64-byte command. -/
def cmdTag (bs : List Byte) : BitVec 32 := BitVec.ofNat 32 (fieldLE bs 4 4)

/-- The TAG of a queue's next command, fetched or still to fetch, or of its last completed one when none is queued (R268, R275). -/
def Cq.nextTag (q : Cq) : BitVec 32 :=
  match q.fetched with
  | f :: _ => cmdTag f.bytes
  | [] => ((q.entries[(q.regs.head - q.regs.retire).toNat]?).map cmdTag).getD q.lastTag

end Sys2Proof.Machine
end

