-- ==== Sys2Proof/Machine/Operands.lean ====
section
/-! DEFINITION. The operand forms of the 64-byte tensor commands (R133 to R137), the addresses a plan may use (R136,
R260, R283), and the reads and writes of one unit of work (R280, R285, R368). -/

namespace Sys2Proof.Machine

/-! ### Fields of a command -/

/-- The field of `n` bytes at offset `o` of a command. -/
def fld (bs : List Byte) (o n : Nat) : Nat := fieldLE bs o n
def cmdOp (bs : List Byte) : Nat := fld bs 0 1
def cmdFlags (bs : List Byte) : Nat := fld bs 1 1
def cmdGroup (bs : List Byte) : Nat := fld bs 2 1
def cmdVmask (bs : List Byte) : Nat := fld bs 3 1
def addrFld (bs : List Byte) (o : Nat) : Nat := fld bs o 8
/-- A signed 16-bit field. -/
def anchorFld (bs : List Byte) (o : Nat) : Int := (BitVec.ofNat 16 (fld bs o 2)).toInt

def opNop : Nat := 0x00
def opDummy : Nat := 0x01
def opWaitb : Nat := 0x02
def opQfence : Nat := 0x03
def opEvsend : Nat := 0x04
def opEvwait : Nat := 0x05
def opWload : Nat := 0x10
def opWswap : Nat := 0x11
def opMma : Nat := 0x12
def opMmv : Nat := 0x13
def opElem : Nat := 0x14
def opDrain : Nat := 0x15
def opQuant : Nat := 0x16
def opDeq : Nat := 0x17
def opStats : Nat := 0x18
def opCopy : Nat := 0x20
def opAtom : Nat := 0x21
def opColl : Nat := 0x30
def opSend : Nat := 0x31
def opRecv : Nat := 0x32
def opSolve : Nat := 0x40
def opVent : Nat := 0x50
def opMark : Nat := 0x60

/-- The opcodes of R134. -/
def opDefined (op : Nat) : Bool :=
  [0x00, 0x01, 0x02, 0x03, 0x04, 0x05, 0x10, 0x11, 0x12, 0x13, 0x14, 0x15, 0x16, 0x17, 0x18, 0x20, 0x21, 0x30, 0x31,
    0x32, 0x40, 0x50, 0x60].contains op

/-- The unit that executes an opcode (R134): 0 sequencer, 1 lane array, 2 weight loader, 3 matrix-vector, 4 output path,
5 quantiser, 6 mover, 7 link, 8 solver. -/
def unitOf (op : Nat) : Nat :=
  if op = opDummy || op = opMma || op = opElem || op = opVent then 1
  else if op = opWload || op = opWswap then 2
  else if op = opMmv then 3
  else if op = opDrain then 4
  else if op = opQuant || op = opDeq || op = opStats then 5
  else if op = opCopy || op = opAtom then 6
  else if op = opColl || op = opSend || op = opRecv then 7
  else if op = opSolve then 8
  else 0

/-- The bytes that the field maps of R135 name, by opcode: offset and length. -/
def namedBytes (op : Nat) : List (Nat × Nat) :=
  if op = opDummy then [(8, 5)]
  else if op = opWaitb then [(8, 8)]
  else if op = opEvsend then [(8, 2)]
  else if op = opEvwait then [(8, 1)]
  else if op = opVent then [(8, 2), (12, 4)]
  else if op = opMark then [(8, 2), (16, 16)]
  else if op = opWload then [(8, 22), (32, 4)]
  else if op = opMma then [(8, 27), (36, 12)]
  else if op = opElem then [(8, 27), (36, 8)]
  else if op = opDrain then [(8, 48)]
  else if op = opQuant then [(8, 50)]
  else if op = opDeq then [(8, 29), (40, 4)]
  else if op = opStats then [(8, 24)]
  else if op = opMmv then [(8, 29), (38, 6)]
  else if op = opCopy then [(8, 20)]
  else if op = opAtom then [(8, 12), (24, 32)]
  else if op = opColl then [(8, 7), (16, 26), (44, 4)]
  else if op = opSend then [(8, 4), (16, 12)]
  else if op = opRecv then [(8, 4), (16, 16)]
  else if op = opSolve then [(8, 1), (10, 4), (16, 32)]
  else []

/-- Bytes that the opcode's map does not name are 0 (R133). -/
def reservedOk (bs : List Byte) : Bool :=
  let named := namedBytes (cmdOp bs)
  (List.range 56).all (fun i =>
    named.any (fun p => decide (p.1 ≤ i + 8) && decide (i + 8 < p.1 + p.2)) || bs.getD (i + 8) 0 == 0)

/-- The ASTREAM field of an opcode, by its offset (R135). -/
def astreamOff (op : Nat) : Option Nat :=
  if op = opMma then some 27 else if op = opElem then some 34 else if op = opDrain then some 43
  else if op = opQuant then some 37 else if op = opDeq then some 36 else if op = opStats then some 26
  else if op = opMmv then some 36 else none

/-- The address stream a command takes its addresses from, if any (R135). -/
def astream? (bs : List Byte) : Option Nat :=
  match astreamOff (cmdOp bs) with
  | some o => if fld bs o 1 ≤ 7 then some (fld bs o 1) else none
  | none => none

/-- ELEM operations that use SRC1, and those that use IMM (R236). -/
def elemUsesSrc1 (o : Nat) : Bool := [0, 1, 2, 3, 6, 7, 8, 14].contains o
def elemUsesImm (o : Nat) : Bool := [3, 4, 5].contains o

/-- The address fields a command uses, by offset (R135, R136): none of its own with ASTREAM 0 to 7; formats without scale
records use no scale address; a broadcast uses SRC on its root alone (R336). -/
def usedAddrs (root : Bool) (bs : List Byte) : List Nat :=
  let op := cmdOp bs
  let own := (astream? bs).isNone
  if op = opWload then [8] ++ (if isBlock (fld bs 24 1) then [16] else [])
  else if op = opMma then (if own then [8] ++ (if isBlock (fld bs 24 1) then [16] else []) ++ (if fld bs 34 1 = 1 then [36] else []) else [])
  else if op = opElem then
    (if own then [8, 24] ++ (if elemUsesSrc1 (fld bs 32 1) then [16] else []) else [])
  else if op = opDrain then
    (if own then
      [8] ++ (if bitOf (fld bs 35 1) 0 then [16] else []) ++ (if bitOf (fld bs 35 1) 1 then [24] else []) ++
      (if bitOf (fld bs 35 1) 2 || bitOf (fld bs 35 1) 3 then [44] else [])
     else [])
  else if op = opQuant then
    (if own then [8, 16, 24] ++ (if bitOf (fld bs 35 1) 2 then [44] else []) else [])
  else if op = opDeq then (if own then [8, 16, 24] else [])
  else if op = opStats then (if own then [8, 16] else [])
  else if op = opMmv then (if own then [8, 16, 24] else [])
  else if op = opCopy then [8, 16]
  else if op = opAtom then (if fld bs 16 1 = 5 then [8, 48] else [8, 24])
  else if op = opColl then (if fld bs 10 1 = 5 then [] else if fld bs 10 1 = 3 && !root then [24] else [16, 24])
  else if op = opSend then [16]
  else if op = opRecv then [16]
  else if op = opSolve then [16, 24, 40]
  else []

/-- Every address field of an opcode, by offset (R135). -/
def addrOffs (op : Nat) : List Nat :=
  if op = opWload then [8, 16] else if op = opMma then [8, 16, 36] else if op = opElem then [8, 16, 24]
  else if op = opDrain then [8, 16, 24, 44] else if op = opQuant then [8, 16, 24, 44]
  else if op = opDeq || op = opMmv then [8, 16, 24] else if op = opStats || op = opCopy then [8, 16]
  else if op = opAtom then [8, 24, 48] else []

/-- The format fields of a command, by offset (R144); those of a barrier hold valid codes too (R336). -/
def fmtFields (bs : List Byte) : List Nat :=
  let op := cmdOp bs
  if op = opWload then [24] else if op = opMma then [24] else if op = opDrain then [32]
  else if op = opQuant then [32, 33] else if op = opDeq then [32, 33] else if op = opStats then [24]
  else if op = opMmv then [32] else if op = opColl then [12, 13] else []

/-- The G_CODE field of a command, by offset (R135, R144). -/
def gCodeOff (op : Nat) : Option Nat :=
  if op = opWload then some 25 else if op = opMma then some 25 else if op = opDrain then some 33
  else if op = opQuant then some 34 else if op = opDeq then some 34 else if op = opStats then some 27
  else if op = opMmv then some 33 else none

/-- G_CODE within its encoding: ignored when every format is BF16 or FP32; MX formats accept 1 only (R135). -/
def gCodeOk (bs : List Byte) : Bool :=
  match gCodeOff (cmdOp bs) with
  | none => true
  | some o =>
    let fmts := (fmtFields bs).map (fun f => fld bs f 1)
    let g := fld bs o 1
    if fmts.all (fun f => f == 9 || f == 10) then true
    else 1 ≤ g && g ≤ 3 && (!fmts.any isMx || g == 1)

/-- The fields of each opcode within their encodings (R135, R136, R144), for a plan of `nCores` cores. -/
def opFieldsOk (nCores : Nat) (bs : List Byte) : Bool :=
  let op := cmdOp bs
  if op = opDummy then 1 ≤ fld bs 12 1 && fld bs 12 1 ≤ 4
  else if op = opEvsend then (fld bs 8 1 < nCores || fld bs 8 1 == 0xFF) && fld bs 9 1 ≤ 63
  else if op = opEvwait then fld bs 8 1 ≤ 63
  else if op = opVent then 1 ≤ fld bs 8 2 && fld bs 8 2 ≤ 4 && fld bs 12 4 != 0
  else if op = opMma then fld bs 26 1 ≤ 1 && fld bs 28 2 ≤ 255 && fld bs 34 1 ≤ 1
  else if op = opElem then fld bs 32 1 ≤ 14 && fld bs 33 1 ≤ 1
  else if op = opDrain then
    fld bs 34 1 ≤ 6 && fld bs 35 1 < 16 && fld bs 36 2 ≤ 255 && (!isInt (fld bs 32 1) || fld bs 42 1 ≤ 63)
  else if op = opQuant then
    9 ≤ fld bs 32 1 && fld bs 32 1 ≤ 10 && fld bs 33 1 ≤ 8 && fld bs 35 1 < 8 && fld bs 36 1 ≤ 5
  else if op = opDeq then fld bs 32 1 ≤ 8 && 9 ≤ fld bs 33 1 && fld bs 33 1 ≤ 10 && fld bs 35 1 ≤ 5
  else if op = opStats then fld bs 25 1 ≤ 3
  else if op = opAtom then fld bs 16 1 ≤ 5 && fld bs 17 1 ≤ 4
  else if op = opColl then
    fld bs 8 2 != 0 && fld bs 10 1 ≤ 5 && 400 ≤ fld bs 44 4 &&
    (2 ≤ fld bs 10 1 || fld bs 11 1 ≤ 3) &&
    (2 ≤ fld bs 10 1 || 2 ≤ fld bs 11 1 || fld bs 14 1 ≤ 1)
  else if op = opSend then fld bs 8 2 < 0x8000
  else if op = opRecv then fld bs 8 2 < 0x8000 && 400 ≤ fld bs 28 4
  else if op = opSolve then 1 ≤ fld bs 8 1 && fld bs 8 1 ≤ 6
  else true

/-- Check 4 of R137: reserved bits 0 and every used field within its encoding; `root` says that the device is the root of the
command's group. -/
def fieldsOk (nCores : Nat) (root : Bool) (bs : List Byte) : Bool :=
  let op := cmdOp bs
  cmdFlags bs % 64 == 0 && 1 ≤ cmdVmask bs && cmdVmask bs < 16 && reservedOk bs &&
  (match astreamOff op with
   | some o => fld bs o 1 ≤ 7 || fld bs o 1 == 0xFF
   | none => true) &&
  (fmtFields bs).all (fun o => 1 ≤ fld bs o 1 && fld bs o 1 ≤ 10) &&
  gCodeOk bs && opFieldsOk nCores bs && (usedAddrs root bs).all (fun o => addrFld bs o < 2 ^ 48)

/-- A length, count or size field of zero makes a no-op (R144); BYTES of a barrier is ignored. -/
def zeroNop (bs : List Byte) : Bool :=
  let op := cmdOp bs
  if op = opDummy then fld bs 8 4 == 0
  else if op = opWload then fld bs 26 2 == 0 || fld bs 28 2 == 0
  else if op = opMma then fld bs 30 2 == 0
  else if op = opElem then fld bs 36 4 == 0
  else if op = opDrain then fld bs 38 2 == 0
  else if op = opQuant then fld bs 40 4 == 0
  else if op = opDeq then fld bs 40 4 == 0
  else if op = opStats then fld bs 28 4 == 0
  else if op = opMmv then fld bs 38 2 == 0 || fld bs 40 4 == 0
  else if op = opCopy then fld bs 24 4 == 0
  else if op = opAtom then fld bs 18 2 == 0
  else if op = opColl then fld bs 10 1 != 5 && fld bs 32 8 == 0
  else if op = opSend then fld bs 24 4 == 0
  else if op = opRecv then fld bs 24 4 == 0
  else if op = opSolve then fld bs 10 2 == 0 || fld bs 12 2 == 0
  else false

/-! ### What a plan may read and write -/

/-- Every byte of `[a, a + n)` lies in some range of the list; `fuel` bounds the ranges walked over. -/
def covered (rs : List RangeEnt) : Nat → Nat → Nat → Bool
  | 0, _, n => n == 0
  | fuel + 1, a, n =>
    if n = 0 then true
    else
      match rs.find? (fun r => decide (r.base ≤ a) && decide (a < r.base + r.len)) with
      | none => false
      | some r => covered rs fuel (a + min n (r.base + r.len - a)) (n - min n (r.base + r.len - a))

/-- `[a, a + n)` lies within the stack ranges of a plan. -/
def Layout.inRanges (l : Layout) (a n : Nat) : Bool := covered l.ranges (l.ranges.length + 1) a n

/-- Element bytes of an atomic DTYPE (R286). -/
def atomBytes (dt : Nat) : Nat :=
  match dt with
  | 0 => 4 | 1 => 2 | 2 => 4 | 3 => 16 | _ => 8

/-- The length of a region's shadow area: 64 B per element of an FP32 or BF16 atomic region (R283, R288). -/
def RegionEnt.shadowLen (r : RegionEnt) : Nat :=
  if r.kind = 1 && (r.dtype = 0 || r.dtype = 1) then r.len / atomBytes r.dtype * 64 else 0

/-- `[a, a + n)` touches a shadow area (R283). -/
def Layout.inShadow (l : Layout) (a n : Nat) : Bool := l.regions.any (fun r => meets a n r.shadow r.shadowLen)
/-- `[a, a + n)` touches a history area (R197). -/
def Layout.inHist (l : Layout) (a n : Nat) : Bool := l.hists.any (fun h => meets a n h.base (512 * h.n))

/-- A shared region that holds `[a, a + n)` (R100). -/
def Dev.sharedAt (d : Dev) (a n : Nat) : Option Nat :=
  (List.range 8).find? (fun r =>
    match d.shared.getD r none with
    | some g => inside a n g.base g.len
    | none => false)

/-- `[a, a + n)` touches a shared region. -/
def Dev.meetsShared (d : Dev) (a n : Nat) : Bool :=
  d.shared.any (fun o => match o with | some g => meets a n g.base g.len | none => false)

/-- The main text of a plan's core: 0x0000 to 0xEFFF of its text region (R253). -/
def Plan.textBase (p : Plan) (core site : Nat) : Nat :=
  scratchBase site + ((p.img.texts.find? (fun t => t.core == core)).map (·.scratchOff)).getD 0
def Plan.inText (p : Plan) (core site a n : Nat) : Bool :=
  p.img.texts.any (fun t => t.core == core) && meets a n (p.textBase core site) 0xF000

/-- A read that a load of plan `p` on `site` may make (R136, R260, R277). -/
def Dev.canRead (d : Dev) (p : Plan) (site a n : Nat) : Bool :=
  n == 0 || inside a n (scratchBase site) 0x1000000 || inside a n dscBase (dscEnd - dscBase) ||
  (p.img.layout.inRanges a n && !p.img.layout.inShadow a n) ||
  (match d.sharedAt a n with | some r => p.img.layout.sharedRead.getLsbD r | none => false)

/-- A write that a command or a store of plan `p`, plan core `core` on `site` may make (R136, R253, R260, R283). -/
def Dev.canWrite (d : Dev) (p : Plan) (core site a n : Nat) : Bool :=
  n == 0 || (inside a n (scratchBase site) scratchSize && !p.inText core site a n) ||
  (p.img.layout.inRanges a n && !p.img.layout.inShadow a n && !p.img.layout.inHist a n && !d.meetsShared a n)

/-- An address that a plan core names on its site: one in the slot of a site that it ran on since its arming names the same place in
the slot of the site it runs on now, so that a chunk recomputed on a spare gives the same values (R29, R119, R165; log entry 56). -/
def Plan.ownAddr (p : Plan) (core site a : Nat) : Nat :=
  match (p.pastSites.getD core []).find? (fun o => inside a 1 (scratchBase o) 0x1000000) with
  | some o => a - scratchBase o + scratchBase site
  | none => a

/-- A range in the site's own core scratch (R192, R218, R238). -/
def inScratch (site a n : Nat) : Bool := inside a n (scratchBase site) scratchSize

/-- Any two of the ranges meet. -/
def anyOverlap : List (Nat × Nat) → Bool
  | [] => false
  | r :: rs => rs.any (fun x => meets r.1 r.2 x.1 x.2) || anyOverlap rs

/-- The address of a range that meets an earlier one of the list: what the record of a refused overlap names (R138; log entry 122). -/
def overlapAddr? : List (Nat × Nat) → Option Nat
  | [] => none
  | r :: rs =>
    match rs.find? (fun x => meets r.1 r.2 x.1 x.2) with
    | some x => some x.1
    | none => overlapAddr? rs

/-! ### The reads and writes of one unit of work -/

/-- How a unit of work ended: done, refused at an address (BAD_FIELD), stopped by a poisoned codeword at an address, or stopped
by a check fault, which has been reported (R164), or held by a wipe of the bytes, in which case nothing has been done (R290). -/
inductive UnitEnd where
  | done
  | bad (addr : Nat)
  | poisoned (addr : Nat)
  | fault
  | wait
  deriving DecidableEq, Repr

/-- The whole codeword is among the chunk's pending bytes. -/
def pendWhole (pend : List Host.Cell) (w : Nat) : Bool := (List.range 64).all (fun i => (cellAt pend (64 * w + i)).isSome)

/-- The first poisoned codeword that a chunk's read of `[a, a + n)` meets (R280): one the chunk has itself written
whole delivers the pending bytes. -/
def readPoison (m : Mem) (pend : List Host.Cell) (a n : Nat) : Option Nat :=
  m.poison.find? (fun w => decide (a < 64 * w + 64) && decide (64 * w < a + n) && decide (0 < n) && !pendWhole pend w)

/-- The first poisoned codeword that a write covers in part (R280). -/
def writePoison (m : Mem) (pend : List Host.Cell) (a n : Nat) : Option Nat :=
  m.poison.find? (fun w => decide (a < 64 * w + 64) && decide (64 * w < a + n) && decide (0 < n) && !pendWhole pend w &&
    !(decide (a ≤ 64 * w) && decide (64 * w + 64 ≤ a + n)))

/-- The reads and writes of a unit of work as the home caches see them (R278). -/
def Dev.unitLines (d : Dev) (c : Nat) (reads : List (Nat × Nat)) (writes : List (Nat × List Byte)) : Dev :=
  writes.foldl (fun (d : Dev) w => d.writeLines c w.1 w.2.length) (reads.foldl (fun (d : Dev) r => d.readLines c r.1 r.2) d)

/-- A wipe holds one of the ranges of a unit of work (R290). -/
def Dev.unitHeld (d : Dev) (reads : List (Nat × Nat)) (writes : List (Nat × List Byte)) : Bool :=
  reads.any (fun r => d.wipeHolds r.1 r.2) || writes.any (fun w => d.wipeHolds w.1 w.2.length)

/-- The chunk's writes of a unit of work as pending bytes: nothing is written when a read or a partial write meets
poison, or when the chunk would hold more lines than it may (R280, R285, R368). -/
def Dev.unitWrite (d : Dev) (c : Nat) (reads : List (Nat × Nat)) (writes : List (Nat × List Byte)) : Dev × UnitEnd :=
  if d.unitHeld reads writes then (d, .wait)
  else
    let pend := (d.cq c).pend
    match reads.findSome? (fun r => readPoison d.mem pend r.1 r.2) with
    | some w => (d.countPoison (64 * w), .poisoned (64 * w))
    | none =>
      match writes.findSome? (fun r => writePoison d.mem pend r.1 r.2.length) with
      | some w => (d.countPoison (64 * w), .poisoned (64 * w))
      | none =>
        let pend' := writes.foldl (fun p w => cellSetAll p w.1 w.2) pend
        if pendOk pend' then ((d.unitLines c reads writes).modCq c (fun q => { q with pend := pend' }), .done)
        else (d, .bad ((writes.head?.map (·.1)).getD 0))

/-- Bytes as the running chunk of a core sees them. -/
def Dev.view (d : Dev) (c a n : Nat) : List Byte := viewBytes (d.cq c).pend d.mem.bytes a n

end Sys2Proof.Machine
end

