-- ==== Sys2Proof/Machine/Issue.lean ====
section
/-! DEFINITION. Issuing and completing the commands of a queue (R134 to R148), the tuples of address streams (R266,
R267), the units of work of a command, and check faults as they reach HLP (R164, R371). -/

namespace Sys2Proof.Machine

def stOk : BitVec 16 := 0x0000
def stBadOpcode : BitVec 16 := 0x0100
def stBadField : BitVec 16 := 0x0101
def stPoisoned : BitVec 16 := 0x0600
def cfSkipped : BitVec 8 := 1
def cfZero : BitVec 8 := 2

/-- Where a queue's command runs: the queue, its chunk, the plan, the site and the plan core. -/
structure Ctx where
  c : Nat
  rc : RunChunk
  p : Plan
  site : Nat
  core : Nat
  deriving DecidableEq, Repr

/-- The device is READY: its sequencer and its sites run (R438, R442). -/
def Dev.sequencing (d : Dev) : Bool := d.pwr.phase == .ready

/-- A chunk of the site waits for its recompute in place (R372). -/
def Dev.inPlaceDue (d : Dev) (site : Nat) : Bool := d.health.recoveries.any (fun r => r.site == site && r.cause == .inPlace)

/-- The context of a logical core that runs a chunk on a site in service; a chunk that recomputes after its plan's resume waits for it
(R371). -/
def Dev.ctx? (d : Dev) (c : Nat) : Option Ctx :=
  match (d.cq c).run with
  | none => none
  | some rc =>
    match d.plan? rc.handle with
    | none => none
    | some p =>
      let site := d.siteOf.getD c 0xFF
      if d.sequencing && site < 80 && d.siteState site == .inService && !d.inPlaceDue site && !rc.afterResume then some ⟨c, rc, p, site, p.planCore c⟩ else none

/-- The chunk-table entry of the running chunk. -/
def Ctx.chunk (x : Ctx) : ChunkEnt := x.p.img.chunks.getD x.rc.idx ⟨0, 0, 0, 0, [], 0, 0⟩

/-- A read that a command may make: the main text is named by none (R136, R253). -/
def Ctx.mayRead (x : Ctx) (d : Dev) (a n : Nat) : Bool := d.canRead x.p x.site a n && !x.p.inText x.core x.site a n
/-- A range in the site's own scratch that a command may name (R192, R218, R238, R253). -/
def Ctx.inOwn (x : Ctx) (a n : Nat) : Bool := inScratch x.site a n && !x.p.inText x.core x.site a n

/-- A frozen queue recomputes a chunk up to the boundary at which a break froze it, and holds there (R121). -/
def Cq.replaying (q : Cq) (idx : Nat) : Bool := q.regs.frozen && (match q.frozenAt with | some k => decide (idx < k) | none => false)

/-- A break comparator matches the queue's next command (R148). -/
def Cq.brkMatch (q : Cq) (f : Fetched) : Bool :=
  !q.replaying f.idx &&
  ((q.regs.brkCountEn && q.brkDue) ||
    (q.regs.brkTagEn && q.frozenAt != some f.idx && (cmdTag f.bytes &&& q.regs.brkMask) == (q.regs.brkValue &&& q.regs.brkMask)))

/-- Whether the accumulator rows of two commands meet. -/
def rowsMeet (a na b nb : Nat) : Bool := decide (a < b + nb) && decide (b < a + na)

/-- The accumulator rows of an MMA or a DRAIN: first and count. -/
def accRows (bs : List Byte) : Nat × Nat :=
  if cmdOp bs = opMma then (fld bs 28 2, fld bs 30 2) else (fld bs 36 2, fld bs 38 2)

/-- The ordering rules within one queue hold for a command against those in flight (R139): of one unit's commands only MMA overlaps
MMA, the earlier having entered its last row (R159). -/
def orderOk (flights : List Flight) (bs : List Byte) : Bool :=
  let op := cmdOp bs
  let rows := accRows bs
  flights.all (fun f =>
    let fo := cmdOp f.bytes
    let fr := accRows f.bytes
    (unitOf fo != unitOf op || (f.ended && fo = opMma && op = opMma)) &&
    !(op = opWswap && (fo = opWload || fo = opMma)) &&
    !(op = opDrain && fo = opMma && rowsMeet rows.1 rows.2 fr.1 fr.2) &&
    !(op = opMma && fo = opDrain && rowsMeet rows.1 rows.2 fr.1 fr.2)) &&
  (flights.isEmpty || !(op = opQfence || op = opEvsend))

/-- The variant of a group that the chunks of a step run (R243, R244). -/
def Plan.variantOf (p : Plan) (step g : Nat) : Nat :=
  match p.img.groups[g]? with
  | none => 0
  | some e =>
    (p.selects.foldl (fun (acc : Nat × Nat) s =>
      if s.group = g && s.step ≤ step && acc.1 ≤ s.step then (s.step, s.variant) else acc) (0, e.default)).2

/-- A command that VMASK keeps from running in a step (R137 check 5). -/
def Plan.skips (p : Plan) (step : Nat) (bs : List Byte) : Bool :=
  cmdVmask bs != 0xF && !bitOf (cmdVmask bs) (p.variantOf step (cmdGroup bs))

/-- The STATUS and CFLAGS of a command that the fetch checks end (R137, R144), if they do. -/
def Plan.earlyOf (p : Plan) (step : Nat) (f : Fetched) : Option (BitVec 16 × BitVec 8) :=
  match f.early with
  | some e => some e
  | none => if p.skips step f.bytes then some (stOk, cfSkipped) else none

/-- A released chunk waits for commands (R132). -/
def Cq.underrun (q : Cq) : Cq :=
  if q.regs.underrunNow then q
  else { q with regs := { q.regs with
    underrunNow := true, err := q.regs.err.raise 4, underruns := satInc q.regs.underruns } }

/-- The queue's next command, when the queue may issue or complete it now (R132, R137, R139, R148). -/
def Dev.nextCmd? (d : Dev) (x : Ctx) : Option Fetched :=
  let q := d.cq x.c
  match q.fetched with
  | [] => none
  | f :: _ =>
    let inChunk := decide (x.chunk.firstCmd ≤ f.idx) && decide (f.idx < x.chunk.firstCmd + x.chunk.cmds)
    if inChunk && !q.regs.halted && (!q.regs.frozen || q.replaying f.idx) && q.wait == .none && !q.brkMatch f then some f else none

/-- The queue's next command taken; a chunk that has run out of published commands is an underrun (R132). -/
def Dev.takeHead (d : Dev) (x : Ctx) (f : Fetched) : Dev :=
  d.modCq x.c (fun q =>
    let q := { q with fetched := q.fetched.tail, next := f.idx + 1, frozenAt := if q.frozenAt == some f.idx then none else q.frozenAt }
    if q.fetched.isEmpty && q.regs.tail == q.regs.head && f.idx + 1 < x.chunk.firstCmd + x.chunk.cmds then q.underrun
    else q)

/-- A field of bytes put in at an offset. -/
def putBytes (bs : List Byte) (o : Nat) (v : List Byte) : List Byte := bs.take o ++ v ++ bs.drop (o + v.length)

/-- A command as its unit takes it: the addresses it names in the slot of a former site of its core are those of the present one
(R29, R119). -/
def Ctx.resolve (x : Ctx) (bs : List Byte) : List Byte :=
  if (x.p.pastSites.getD x.core []).isEmpty then bs
  else (addrOffs (cmdOp bs)).foldl (fun bs o => putBytes bs o (bytesLE 8 (x.p.ownAddr x.core x.site (addrFld bs o)))) bs

/-- The flight of a command of opcode `op` that still has work to do, or the next command issued as a new flight. -/
def Dev.issue? (d : Dev) (c op : Nat) : Option (Ctx × Flight × Dev) :=
  match d.ctx? c with
  | none => none
  | some x =>
    match (d.cq c).flights.find? (fun f => cmdOp f.bytes == op && !f.ended) with
    | some f => some (x, f, d)
    | none =>
      match d.nextCmd? x with
      | none => none
      | some f =>
        if (x.p.earlyOf x.chunk.step f).isNone && cmdOp f.bytes == op && orderOk (d.cq c).flights f.bytes then
          let fl : Flight := { idx := f.idx, bytes := x.resolve f.bytes }
          some (x, fl, (d.takeHead x f).modCq c (fun q => { q with flights := q.flights ++ [fl] }))
        else none

/-- The flight put back; work that has advanced starts its progress monitor anew (R373). -/
def Dev.putFlight (d : Dev) (c : Nat) (fl : Flight) : Dev :=
  d.modCq c (fun q => { q with flights := q.flights.map (fun f =>
    if f.idx == fl.idx then { fl with idle := if fl.units = f.units then f.idle else 0 } else f) })

/-- A flight that ends with BAD_FIELD (R136). -/
def Flight.bad (f : Flight) (a : Option Nat) : Flight := { f with status := stBadField, badAddr := a, ended := true }
/-- A flight that ends with POISONED (R280). -/
def Flight.poison (f : Flight) (a : Nat) : Flight := { f with status := stPoisoned, badAddr := some a, ended := true }
def Flight.flag (f : Flight) (g : Flags) : Flight := { f with cflags := f.cflags ||| g.cflags }
def Flight.done (f : Flight) : Flight := { f with ended := true }

/-! ### Records of completion -/

/-- The trace stream of a command's TAG, none for the DEFAULT stream, and the FLAGS of its entry (R389, R390). -/
def traceOf (p : Plan) (tag : BitVec 32) : Option (BitVec 16) × Nat :=
  match p.img.traceMap.find? (fun e => e.1 == (tag.toNat >>> 20)) with
  | some e => (some (BitVec.ofNat 16 e.2.1), e.2.2)
  | none => (none, 0)

/-- The COMMAND or MARK record of a completed command, when one is due; TRC_CTRL.EN is asked at the commit, where the record is produced
(R388, R390, R391). -/
def Dev.commandTrace (d : Dev) (x : Ctx) (bs : List Byte) (status : BitVec 16) (cflags : BitVec 8)
    (exec : BitVec 48) : List (Option (BitVec 16) × Bool × List Byte) :=
  let tag := cmdTag bs
  let (sid, fl) := traceOf x.p tag
  let ran := !(status == stOk && cflags.getLsbD 0)
  let due := ran && (bitOf (cmdFlags bs) 6 || bitOf fl 0 || (bitOf fl 1 && status != stOk))
  if cmdOp bs = opMark && status == stOk && ran then
    [(sid, true, shortRecord d.now tag (siteUnit x.site) (fld bs 8 2) ((bs.drop 16).take 16))]
  else if due then
    [(sid, false, shortRecord d.now tag (siteUnit x.site) 0x2000
      ([bs.getD 0 0, cflags] ++ bytesLE 2 status.toNat ++ bytesLE 4 x.rc.idx ++ bytesLE 4 exec.toNat ++
        [BitVec.ofNat 8 x.core]))]
  else []

/-- The record of a command that completes with BAD_OPCODE, BAD_FIELD or POISONED (R138, R280); a RECV's poisoned codewords had theirs as
the data came. -/
def Dev.badRecord (d : Dev) (x : Ctx) (bs : List Byte) (status : BitVec 16) (addr : Option Nat) : Dev :=
  if status = stOk || (status = stPoisoned && cmdOp bs = opRecv) then d
  else
    let r :=
      if status = stPoisoned then d.mkRec 4 2 0x0600 (siteUnit x.site)
      else (d.mkRec 1 0 0x1712 (siteUnit x.site)).withDetail [(32, bytesLE 2 status.toNat)]
    let r := (r.withTag (cmdTag bs) (some x.p.func)).withCount (d.cq x.c).regs.exec
    d.writeRecord (match addr with | some a => r.withAddr a | none => r)

/-- What breaks the conditions of R268 on a core restarts its count: a flag set, a command completed, a tuple taken. -/
def Dev.restartDeadlock (d : Dev) (c : Nat) : Dev :=
  d.modCq c (fun q => { q with run := q.run.map (fun r => { r with deadlock := 0 }) })

/-- A command completes (R140, R142, R145, R390): the count advances, the break comparator is checked, and the entries
due at the commit are kept with the chunk. -/
def Dev.complete (d : Dev) (x : Ctx) (bs : List Byte) (status : BitVec 16) (cflags : BitVec 8)
    (addr : Option Nat) : Dev :=
  let q := d.cq x.c
  let exec := q.regs.exec + 1
  let ent : CplEnt := ⟨d.now, cmdTag bs, status, cflags⟩
  let due := bitOf (cmdFlags bs) 7 || status != stOk || cflags.getLsbD 1
  let tr := d.commandTrace x bs status cflags exec
  let d := d.badRecord x bs status addr
  let d := d.modCq x.c (fun q => { q with
    regs := { q.regs with exec := exec }
    brkDue := q.brkDue || (q.regs.brkCountEn && exec == q.regs.brkCount)
    cpls := if due then q.cpls ++ [ent] else q.cpls
    trace := q.trace ++ tr
    lastTag := cmdTag bs })
  d.restartDeadlock x.c

/-- A command that completes as it issues: its flight leaves at once. -/
def Dev.completeNow (d : Dev) (x : Ctx) (fl : Flight) : Dev :=
  let d := d.modCq x.c (fun q => { q with flights := q.flights.filter (fun f => f.idx != fl.idx) })
  d.complete x fl.bytes fl.status fl.cflags fl.badAddr

/-! ### Address streams (R266, R267) -/

/-- Slot `k` of tuple (o, i), modulo 2^64 with the strides sign-extended. -/
def Desc.slot (s : Desc) (o i k : Nat) : Nat :=
  (s.base.getD k 0 + BitVec.ofNat 64 o * (s.strideOut.getD k 0).signExtend 64 +
    BitVec.ofNat 64 i * (s.strideIn.getD k 0).signExtend 64).toNat

/-- Descriptors that yield no tuple are dropped from the front. -/
def dropEmpty : List Desc → List Desc
  | [] => []
  | s :: r => if s.nIn = 0 || s.nOut = 0 then dropEmpty r else s :: r

/-- The next tuple of a stream: its slots and the stream after it. -/
def AStream.next? (a : AStream) : Option (List Nat × AStream) :=
  match dropEmpty a.queue with
  | [] => none
  | s :: r =>
    let slots := (List.range s.k).map (fun k => s.slot a.o a.i k)
    if a.i + 1 < s.nIn then some (slots, { a with queue := s :: r, i := a.i + 1 })
    else if a.o + 1 < s.nOut then some (slots, { a with queue := s :: r, i := 0, o := a.o + 1 })
    else some (slots, { a with queue := r, i := 0, o := 0 })

/-- Tuples a stream still holds. -/
def AStream.left (a : AStream) : Nat :=
  match a.queue with
  | [] => 0
  | s :: r => (s.nIn * s.nOut - (a.o * s.nIn + a.i)) + (r.map (fun t => t.nIn * t.nOut)).sum

/-- The control core of a site changed. -/
def Dev.modCcr (d : Dev) (n : Nat) (f : Ccr → Ccr) : Dev := d.modSite n (fun s => { s with ccr := f s.ccr })

/-- A tuple taken from stream `n` of a site by the command with this TAG. -/
def Dev.takeTuple (d : Dev) (site n : Nat) (tag : BitVec 32) : Option (List Nat × Dev) :=
  match ((d.site site).ccr.streams.getD n {}).next? with
  | none => none
  | some (slots, a) =>
    some (slots, d.modCcr site (fun cc => { cc with streams := cc.streams.set n { a with lastTag := tag } }))

/-- The units of work of a command in its own order: each takes a tuple of `k` slots when an address stream supplies
them, and waits for one when the stream is empty; a unit that fails ends the command and the earlier ones keep their
effects (R267, R280); a check fault stops it where it stands (R164), and a unit that a wipe
holds is not begun (R290). -/
def unitLoop (x : Ctx) (k : Nat) (f : Dev → Flight → Nat → List Nat → Dev × Flight × UnitEnd) :
    Nat → Dev → Flight → Dev × Flight
  | 0, d, fl => (d, fl.done)
  | fuel + 1, before, flight =>
    let d := before
    let fl := flight
    let go := fun (d : Dev) (fl : Flight) (slots : List Nat) =>
      let fl := if fl.units = 0 then { fl with first := slots } else fl
      match f d fl fl.units slots with
      | (d, fl, .done) => unitLoop x k f fuel d { fl with units := fl.units + 1 }
      | (d, fl, .bad a) => (d, fl.bad (some a))
      | (d, fl, .poisoned a) => (d, fl.poison a)
      | (d, fl, .fault) => (d, fl)
      | (_, _, .wait) => (before, flight)
    match astream? fl.bytes with
    | none => go d fl []
    | some n =>
      match d.takeTuple x.site n (cmdTag fl.bytes) with
      | none => (d, fl)
      | some (slots, d) =>
        let d := d.restartDeadlock x.c
        let slots := slots.map (x.p.ownAddr x.core x.site)
        if slots.length = k then go d fl slots else (d, fl.bad slots.head?)

/-! ### Check faults -/

/-- The step that a fault of a core counts against: that of the chunk it runs, and between its chunks the step in progress (R118).
DESIGN CHOICE: a fault while the plan is paused at a boundary counts as the one fault of the step that runs next (log entry 115). -/
def Dev.stepOf (d : Dev) (c : Nat) : Option (BitVec 16 × Nat) :=
  match (d.cq c).run with
  | none =>
    (d.planOf c).bind (fun p =>
      if (p.state == .running || p.state == .paused || p.state == .debugHeld) && p.curStep < p.img.steps.length then some (p.handle, p.curStep)
      else none)
  | some rc => (d.plan? rc.handle).map (fun p => (p.handle, (p.img.chunks.getD rc.idx ⟨0, 0, 0, 0, [], 0, 0⟩).step))

/-- HLP counts a fault of the step a core runs: the first is the step's one fault, every later one is counted in
HLT_SECOND_CNT (R371).  The answer says whether it was the first. -/
def Dev.countFault (d : Dev) (core : Option Nat) : Bool × Dev :=
  match core.bind (fun c => d.stepOf c) with
  | none => (true, d)
  | some (h, s) =>
    match d.plan? h with
    | none => (true, d)
    | some p =>
      if p.faultStep = some s then
        (false, ({ d with health := { d.health with secondCnt := satInc d.health.secondCnt } }).setHltEvent 2)
      else (true, d.modPlan h (fun p => { p with faultStep := some s }))

/-- The logical core that a site serves. -/
def Dev.coreOf (d : Dev) (site : Nat) : Option Nat := (List.range 72).find? (fun c => d.siteOf.getD c 0xFF == site)

/-- A fault of a core site reaches HLP: the site stops and a recovery is due (R164, R369).  A fault of a spare during its
recovery sends that recovery back to its decision; a failed site that is being recovered is not counted again (R371). -/
def Dev.siteFault (d : Dev) (site : Nat) (cause : RecCause) (source err : Nat) (tag : BitVec 32) : Dev :=
  match d.health.recoveries.find? (fun r => r.spare == some site && r.site != site) with
  | some r =>
    let (first, d) := d.countFault r.core
    { d with health := { d.health with recoveries := d.health.recoveries.map (fun (x : Recovery) =>
        if x.spare == some site && x.site != site then
          { x with spare := none, phase := .detected, fail := site, failSource := BitVec.ofNat 8 source, failFirst := some first }
        else x) } }
  | none =>
    if d.health.recoveries.any (fun r => r.site == site) then d
    else
      let core := d.coreOf site
      let (first, d) := d.countFault core
      { d.setSiteState site .recovering with
        health := { (d.setSiteState site .recovering).health with
          recoveries := d.health.recoveries ++
            [{ site := site, core := core, cause := cause, err := BitVec.ofNat 16 err
               source := BitVec.ofNat 8 source, tag := tag, first := first, t0 := d.bt.beat
               fail := site, failSource := BitVec.ofNat 8 source, failFirst := core.map (fun _ => first) }] } }

end Sys2Proof.Machine
end

