-- ==== Sys2Proof/Machine/Crater.lean ====
section
/-! DEFINITION. The crater table and the counting of a step's faults (R91, R94, R118, R371, R374, R375). -/

namespace Sys2Proof.Machine

/-- The kind and the number of a UNIT_ID (R364). -/
def unitKind (u : BitVec 16) : Nat := bitsOf u.toNat 15 12
def unitNum (u : BitVec 16) : Nat := bitsOf u.toNat 11 0

/-- The units that FENCE, UNFENCE and FENCE_OVERRIDE may name (R91). -/
def fenceable (u : BitVec 16) : Bool :=
  match unitKind u with
  | 1 => unitNum u < 80
  | 4 => unitNum u < 24
  | 5 => unitNum u < 16
  | 7 => unitNum u < 4
  | _ => false

/-- The crater-table entry of a unit. -/
def Dev.crater? (d : Dev) (u : BitVec 16) : Option Crater := d.health.crater.find? (fun e => e.unit == u)

/-- The unit stands fenced: it is out of service by a fence (R91). -/
def Dev.isFenced (d : Dev) (u : BitVec 16) : Bool :=
  let n := unitNum u
  match unitKind u with
  | 1 => d.siteState n == .fenced || d.siteState n == .permanent || d.siteState n == .lost
  | 4 => (d.lnk.ports.getD n {}).state == .fenced || ((d.lnk.ports.getD n {}).state == .failed && (d.crater? u).isSome)
  | 5 => !(d.col.engines.getD n {}).inService
  | 7 => !(d.slv.getD n {}).inService
  | _ => false

/-- The oldest entry with STATE 3, which a full table gives up (R374). -/
def oldestPassed (t : List Crater) : Option Crater :=
  t.foldl (fun acc e =>
    if e.state = 3 then
      (match acc with | some a => if e.ts < a.ts then some e else some a | none => some e)
    else acc) none

/-- An entry put into the table, which holds 256; an existing entry of the unit is renewed, and a full table without an
entry of STATE 3 does not keep the new one (R374). -/
def craterPut (t : List Crater) (e : Crater) : List Crater :=
  match t.find? (fun x => x.unit == e.unit) with
  | some x => t.map (fun y => if y.unit == e.unit then
      { e with faults := satInc x.faults, state := if x.state = 2 then 2 else e.state } else y)
  | none =>
    if t.length < 256 then t ++ [e]
    else match oldestPassed t with | some o => t.erase o ++ [e] | none => t

/-- 24 hours of beats. -/
def dayBeats : Nat := 864000000000

/-- HLP enters a fenced unit (R374, R375): a core site fenced twice within 24 hours is permanent.  The answer says whether
the unit is permanent; REASON is FENCE's, and free where HLP fences of its own. -/
def Dev.enterCrater (d : Dev) (u : BitVec 16) (host : Option (BitVec 8)) : Bool × Dev :=
  let (k, d') := d.draw
  let reason := host.getD (Config.fenceReason k)
  let d := if host.isSome then d else d'
  let again := unitKind u == 1 && d.health.fences.any (fun f => f.1 == u && d.since f.2 < dayBeats)
  let t := craterPut d.health.crater ⟨u, if again then 2 else 1, reason, 1, d.now⟩
  let perm := again || t.any (fun e => e.unit == u && e.state == 2)
  (perm, ({ d with health := { d.health with
    crater := t, craterDirty := true
    fences := d.health.fences ++ [(u, d.bt.beat)] } }).setHltEvent 0)

/-- A unit's entry changed. -/
def Dev.modCrater (d : Dev) (u : BitVec 16) (f : Crater → Crater) : Dev :=
  { d with health := { d.health with
    crater := d.health.crater.map (fun e => if e.unit == u then f e else e), craterDirty := true } }

/-- A unit's entry taken out: the unit is back among the held or serving units (log entry 33). -/
def Dev.leaveCrater (d : Dev) (u : BitVec 16) : Dev :=
  { d with health := { d.health with
    crater := d.health.crater.filter (fun e => e.unit != u), craterDirty := true } }

/-- The record flag of a step's first fault, or of a later one (R371). -/
def Rec.fault (r : Rec) (first : Bool) : Rec := { r with flags := r.flags ||| (if first then fStepFault else fSecond) }

/-- What FENCE hands to the fence that it asks for: its REASON, and the TAG of the request. -/
abbrev HostFence : Type := BitVec 16 × BitVec 32

/-- The record of a fence that FENCE asked for holds its REASON (R91) and the request's TAG (R70). -/
def Rec.withReason (r : Rec) (host : Option HostFence) : Rec :=
  match host with | some x => (r.withTag x.2).withDetail [(32, bytesLE 2 x.1.toNat)] | none => r

/-- A fault of a unit that no one core uses counts in the step in progress of every running plan (R118, R371): it is a
later fault when some such step has had its fault. -/
def Dev.countDeviceFault (d : Dev) : Bool × Dev :=
  let hit := fun (p : Plan) => p.state == .running && p.faultStep == some p.curStep
  let second := d.plans.any hit
  let d := { d with plans := d.plans.map (fun p =>
    if p.state == .running && p.faultStep != some p.curStep then { p with faultStep := some p.curStep } else p) }
  if second then
    (false, ({ d with health := { d.health with secondCnt := satInc d.health.secondCnt } }).setHltEvent 2)
  else (true, d)

end Sys2Proof.Machine
end

