-- ==== Sys2Proof/Machine/Domains.lean ====
section
/-! DEFINITION. The switched power domains (R432 to R436): ramping up, powering down, and their trace records (R394). -/

namespace Sys2Proof.Machine

/-- Causes of DOMAIN_EXIT and DOMAIN_ENTER (R388). -/
def causeIdle : Nat := 0
def causeFence : Nat := 1
def causeTest : Nat := 2
def causeHost : Nat := 3
def causeOther : Nat := 4

def Dev.dom (d : Dev) (k : Nat) : DomState := d.pwr.doms.getD k .off
def Dev.setDom (d : Dev) (k : Nat) (s : DomState) : Dev := { d with pwr := { d.pwr with doms := d.pwr.doms.set k s } }
/-- A block of this domain answers: GATED or ON (R459). -/
def Dev.domUp (d : Dev) (k : Nat) : Bool := d.dom k == .gated || d.dom k == .on

/-- The waiting power-up that the queue serves next: in ascending number from (beat mod 171) on (R434). -/
def nextRamp (beat : Nat) (waiting : List (Nat × Nat)) : Option (Nat × Nat) :=
  (List.range 171).findSome? (fun i => waiting.find? (fun e => e.1 == (beat % 171 + i) % 171))

/-- The queue of power-ups served while fewer than four domains ramp (R434). -/
def Dev.serveRamps : Nat → Dev → Dev
  | 0, d => d
  | fuel + 1, d =>
    if 4 ≤ d.pwr.ramps.length then d
    else
      match nextRamp d.beatN (d.pwr.waitUp.filter (fun e => d.dom e.1 == .off)) with
      | none => d
      | some e =>
        let d := d.setDom e.1 .ramping
        Dev.serveRamps fuel { d with pwr := { d.pwr with
          waitUp := d.pwr.waitUp.filter (fun (x : Nat × Nat) => x.1 != e.1), ramps := d.pwr.ramps ++ [(e.1, e.2, d.bt.beat)] } }

/-- The domain goes down, or is to go down. -/
def Dev.goesDown (d : Dev) (k : Nat) : Bool := d.pwr.waitDown.any (fun e => e.1 == k) || d.pwr.downs.any (fun e => e.1 == k)

/-- A power-up requested: it waits in the queue, which each beat serves; a domain that is up or ramps up, and is not to go down, needs
none (R434). -/
def Dev.powerUp (d : Dev) (k cause : Nat) : Dev :=
  if (d.dom k != .off && !d.goesDown k) || d.pwr.waitUp.any (fun e => e.1 == k) then d
  else { d with pwr := { d.pwr with waitUp := d.pwr.waitUp ++ [(k, cause)] } }

/-- The outputs of a domain are isolated and its rail is discharged (R434). -/
def Dev.discharge (d : Dev) (k : Nat) : Dev :=
  { d with pwr := { d.pwr with doms := d.pwr.doms.set k .ramping, downs := d.pwr.downs ++ [(k, d.bt.beat)] } }

/-- A powered domain goes off: its records are in staging, its DOMAIN_EXIT follows them, and its rail is discharged (R394, R434). -/
def Dev.powerOff (d : Dev) (k cause : Nat) : Dev := (d.stageDomain 0x2010 k cause).discharge k

/-- Power-downs are at their end 10 beats after their start.  DESIGN CHOICE: R434 gives that as the most (log entry 34). -/
def Dev.endDowns (d : Dev) : Dev :=
  { d with pwr := { d.pwr with
    doms := (d.pwr.downs.filter (fun e => decide (10 ≤ d.since e.2))).foldl (fun l e => l.set e.1 .off) d.pwr.doms
    downs := d.pwr.downs.filter (fun e => decide (d.since e.2 < 10)) } }

/-- A power-down requested: at once, or at the end of a ramp; a power-up that still waits is withdrawn (R434). -/
def Dev.powerDown (d : Dev) (k cause : Nat) : Dev :=
  let d := { d with pwr := { d.pwr with waitUp := d.pwr.waitUp.filter (fun (x : Nat × Nat) => x.1 != k) } }
  match d.dom k with
  | .off => d
  | .ramping =>
    if d.goesDown k then d
    else { d with pwr := { d.pwr with waitDown := d.pwr.waitDown ++ [(k, cause)] } }
  | _ => d.powerOff k cause

/-- The firmware processors run and the boot has come past AUTH. -/
def Dev.firmwareUp (d : Dev) : Bool :=
  d.pwr.ctlUp && !(d.pwr.phase == .reset || d.pwr.phase == .auth || d.pwr.phase == .halted)

/-- Owners release their GATED domains each beat: every domain but link ports, stream ports and the PCIe endpoint, which are released
by their own events, and of the core sites those in service (R434, R436). -/
def Dev.releaseDomains (d : Dev) : Dev :=
  if !d.firmwareUp then d
  else
    { d with pwr := { d.pwr with doms := (d.pwr.doms.zipIdx).map (fun (e : DomState × Nat) =>
        let own := (80 ≤ e.2 || d.siteState e.2 == .inService) && !(128 ≤ e.2 && e.2 < 152) && !(160 ≤ e.2 && e.2 < 164) && e.2 != 169
        if own && e.1 == DomState.gated then DomState.on else e.1) } }

/-- The domains that R436 calls for at boot: all but the link ports, the stream ports and the trace domain (R442). -/
def bootDomains : List Nat := (List.range 171).filter (fun k => !(128 ≤ k && k < 152) && !(160 ≤ k && k < 164) && k != 170)

end Sys2Proof.Machine
end

