-- ==== Sys2Proof/Machine/Lane.lean ====
section
/-! DEFINITION. The lane block: WLOAD, WSWAP, MMA and DUMMY (file 07; R211 to R217 of file 10), its current shaping
(R166 to R168). -/

namespace Sys2Proof.Machine

/-! ### Current shaping -/

def Dev.modLbk (d : Dev) (n : Nat) (f : Lbk → Lbk) : Dev := d.modSite n (fun s => { s with lbk := f s.lbk })
def Dev.modAcc (d : Dev) (n : Nat) (f : Acc → Acc) : Dev := d.modSite n (fun s => { s with acc := f s.acc })

/-- The array's demand set: one that falls below the grant starts the hold of 300 cycles, one that returns ends it; a hold that has
run out starts no other (R166, R167). -/
def Lbk.setDemand (l : Lbk) (q : Nat) : Lbk :=
  if l.grant.toNat ≤ q then { l with demand := q, holding := false, hold := 0 }
  else if l.grant.toNat ≤ l.demand then { l with demand := q, holding := true, hold := 300 }
  else { l with demand := q }

/-- The level a site asks of the governor (R167, R168). -/
def Lbk.request (l : Lbk) : Nat := if l.holding then max l.demand l.grant.toNat else l.demand

/-- The demand of the commands that hold the lane array (R166). -/
def demandOf (flights : List Flight) : Nat :=
  (flights.map (fun f =>
    let op := cmdOp f.bytes
    if op = opMma || op = opVent then 4 else if op = opElem then 2 else if op = opDummy then fld f.bytes 12 1 else 0)).foldl
    max 0

/-- The array's demand follows the commands in flight. -/
def Dev.updateDemand (d : Dev) (c site : Nat) : Dev :=
  d.modLbk site (fun l => l.setDemand (demandOf (d.cq c).flights))

/-! ### Stationary sets -/

def Lbk.activeSet (l : Lbk) : WSet := if l.active then l.set1 else l.set0
def Lbk.inactiveSet (l : Lbk) : WSet := if l.active then l.set0 else l.set1
def Lbk.setInactive (l : Lbk) (w : WSet) : Lbk := if l.active then { l with set0 := w } else { l with set1 := w }

/-- Cells per product (R150). -/
def cellsOf (fmt : Nat) : Nat :=
  if fmt = 3 || fmt = 4 then 2 else if fmt = 5 || fmt = 6 || fmt = 8 then 4 else if fmt = 9 then 16 else 1

/-- The scale group along the reduction axis: 32 products for BF16 (R151, R154). -/
def laneGroup (fmt g : Nat) : Nat := if fmt = 9 then 32 else groupOf g

/-- A value as a multiple of `2 ^ u`, which divides it. -/
def Dy.stepsOf (x : Dy) (u : Int) : Int := if u ≤ x.e then x.m * 2 ^ (x.e - u).toNat else x.m / 2 ^ (u - x.e).toNat

/-- An element of any lane format as a value; none where it is not finite. -/
def laneElem (fmt c : Nat) : Option Dy :=
  if fmt = 9 then (match bf16.decode c with | .fin x => some x | _ => none) else elemValue fmt c

/-- A list cut into pieces of `n`. -/
def chunksOf (n : Nat) : Nat → List α → List (List α)
  | 0, _ => []
  | k + 1, l => l.take n :: chunksOf n k (l.drop n)

/-- The exact sums of a set (R162): c(i) by position and S(g, j) by lane and group, in steps of u(FMT). -/
def setSums (fmt g depth : Nat) (codes : List (List Nat)) : List Int × List (List Int) :=
  let u := stepExpOf fmt
  let steps := codes.map (fun l => l.map (fun c => ((laneElem fmt c).map (fun x => x.stepsOf u)).getD 0))
  let cols := steps.foldl (fun acc l => List.zipWith (· + ·) acc l) (List.replicate depth 0)
  (cols, steps.map (fun l => (chunksOf g (depth / g) l).map List.sum))

/-- The load-sum check (R162): for every group, the sum of S(g, j) over the lanes is the sum of c(i) over the group's positions. -/
def WSet.sumsOk (w : WSet) : Bool :=
  let g := laneGroup w.load.fmt w.load.gCode
  let byCol := (chunksOf g (w.load.depth / g) w.colSums).map List.sum
  let byLane := w.laneSums.foldl (fun acc l => List.zipWith (· + ·) acc l) (List.replicate (w.load.depth / g) 0)
  byCol == byLane

/-- The inactive set as a WLOAD leaves it (R154, R155, R162). -/
def loadedSet (st : SetState) (tag : BitVec 32) (ls : LoadSrc) (data : Nat → Nat → List Byte) : WSet :=
  let g := laneGroup ls.fmt ls.gCode
  let rb := recBytes ls.fmt
  let groups := ls.depth / g
  let codes := (List.range ls.lanes).map (fun j =>
    unpackElems ls.fmt ls.depth (data (ls.src + j * ls.stride) (elemBytes ls.fmt ls.depth)))
  let scales := (List.range ls.lanes).map (fun j =>
    let bs := data (ls.scaleSrc + j * groups * rb) (groups * rb)
    (List.range groups).map (fun i => fieldLE bs (i * rb) rb))
  let sums := setSums ls.fmt g ls.depth codes
  { st := st, tag := tag, load := ls, codes := codes, scales := scales, colSums := sums.1, laneSums := sums.2 }

/-- The fields of a WLOAD. -/
def loadSrcOf (bs : List Byte) : LoadSrc :=
  { src := addrFld bs 8, scaleSrc := if isBlock (fld bs 24 1) then addrFld bs 16 else 0, fmt := fld bs 24 1
    gCode := fld bs 25 1, lanes := fld bs 26 2, depth := fld bs 28 2, stride := fld bs 32 4 }

/-- A WLOAD's own checks (R154). -/
def wloadOk (l : LoadSrc) : Bool :=
  l.lanes ≤ 512 && l.fmt ≤ 9 && l.depth ≤ 512 / cellsOf l.fmt && l.depth % laneGroup l.fmt l.gCode == 0

/-- The ranges a WLOAD reads. -/
def wloadRanges (l : LoadSrc) : List (Nat × Nat) :=
  (List.range l.lanes).map (fun j => (l.src + j * l.stride, elemBytes l.fmt l.depth)) ++
  (if isBlock l.fmt then [(l.scaleSrc, l.lanes * (l.depth / laneGroup l.fmt l.gCode) * recBytes l.fmt)] else [])

/-- The check fault of a lane block: its register bit, the count, and the report to HLP (R164). -/
def Dev.laneFault (d : Dev) (site bit : Nat) (tag : BitVec 32) : Dev :=
  let d := d.modLbk site (fun l =>
    { l with checkErr := l.checkErr.raise (BitVec.ofNat 3 (2 ^ bit)), checkCnt := satInc l.checkCnt })
  d.siteFault site .check 1 (d.site site).lbk.checkErr.val.toNat tag

/-- WLOAD on an issued flight (R154, R155, R162). -/
def wloadUnit (d : Dev) (x : Ctx) (fl : Flight) (flt : Bool) : Dev :=
  let ls := loadSrcOf fl.bytes
  let ranges := wloadRanges ls
  if flt then d.laneFault x.site 1 (cmdTag fl.bytes)
  else if !wloadOk ls then d.putFlight x.c (fl.bad none)
  else
    match ranges.find? (fun r => !x.mayRead d r.1 r.2) with
    | some r => d.putFlight x.c (fl.bad (some r.1))
    | none =>
      match d.unitWrite x.c ranges [] with
      | (d, .poisoned a) => (d.modLbk x.site (fun l => l.setInactive {})).putFlight x.c (fl.poison a)
      | (d, .bad a) => d.putFlight x.c (fl.bad (some a))
      | (d, .fault) => d.putFlight x.c fl
      | (d, .wait) => d.putFlight x.c fl
      | (d, .done) =>
        let w := loadedSet .loading (cmdTag fl.bytes) ls (d.view x.c)
        let (k, d) := d.draw
        if !w.sumsOk then d.laneFault x.site 1 (cmdTag fl.bytes)
        else (d.modLbk x.site (fun l => { l.setInactive w with stallWload := satAdd l.stallWload (Config.cycles 0 k) })).putFlight
          x.c fl.done

/-- WLOAD loads the inactive stationary set and its check sums; `flt` says that an error in the hardware makes the load-sum check
fail (R154, R162; log entry 4). -/
def wload (c : Fin 72) (flt : Bool) (d : Dev) : Dev :=
  match d.issue? c.val opWload with
  | none => d
  | some (x, fl, d) => wloadUnit d x fl flt

/-- WSWAP exchanges the roles of the two sets in one cycle (R156). -/
def wswap (c : Fin 72) (d : Dev) : Dev :=
  match d.issue? c.val opWswap with
  | none => d
  | some (x, fl, d) =>
    let (k, d) := d.draw
    (d.modLbk x.site (fun l =>
      { l with active := !l.active, stallSwap := satAdd l.stallSwap (Config.cycles 1 k) })).completeNow x fl

/-! ### Accumulation -/

/-- A rescaled partial rounded to the window of anchor `a` and clamped to it (R212). -/
def windowRound (a : Int) (p : Dy) : Int × Flags :=
  let n := p.multRneInt (a - 80)
  let lim : Int := 2 ^ 103
  let r := if n < -lim then -lim else if lim ≤ n then lim - 1 else n
  (r, if p.m = 0 then noFlags else
    windowFlags true (r != n) (Dy.eq p ⟨n, a - 80⟩) (n == 0))

/-- The addition of a row contribution to an entry (R214); the last components say whether it entered SAT or INV. -/
def accAdd (e : AccEnt) (invalid : Bool) (c : Int) : AccEnt × Flags × Bool × Bool :=
  if invalid then ({ n := 0, st := .inv }, invFlag, false, e.st != .inv)
  else
    match e.st with
    | .inv => (e, noFlags, false, false)
    | .sat => (e, { ovf := true }, false, false)
    | .normal =>
      let t := e.n.toInt + c
      let lim : Int := 2 ^ 103
      if t < -lim then ({ n := BitVec.ofInt 104 (-lim), st := .sat }, { ovf := true }, true, false)
      else if lim ≤ t then ({ n := BitVec.ofInt 104 (lim - 1), st := .sat }, { ovf := true }, true, false)
      else ({ n := BitVec.ofInt 104 t, st := .normal }, noFlags, false, false)

/-- A row that no MMA of the chunk has written: zeros, with an anchor given by the MMA that reaches it (R217). -/
def zeroRow (a : BitVec 16) : AccRow := ⟨a, List.replicate 520 {}⟩

/-- The physical lane that stands for a logical lane, by the lane map (R169, R211).  DESIGN CHOICE: a spare that is found faulty in its turn
keeps its entry, and the lane's highest spare stands in (log entry 131). -/
def physLane (map : List (BitVec 16)) (j : Nat) : Nat :=
  (map.zipIdx.foldl (fun (at' : Nat) e => if e.1 == BitVec.ofNat 16 (0x8000 + j) then 513 + e.2 else at') j)

/-- The column that a physical lane's entry holds: none for the check lane, an unassigned spare, and a lane that a spare replaces
(R211). -/
def columnOf (map : List (BitVec 16)) (p : Nat) : Option Nat :=
  let j := if p < 513 then p else
    let e := map.getD (p - 513) 0
    if e.getLsbD 15 then (e.extractLsb' 0 10).toNat else 512
  if j < 512 && physLane map j == p then some j else none

def Acc.row? (a : Acc) (i : Nat) : Option AccRow := (a.rows.find? (fun r => r.1 == i)).map (·.2)

/-- The table of rows with one row set; its numbers stay rising. -/
def rowSet : List (Nat × AccRow) → Nat → AccRow → List (Nat × AccRow)
  | [], i, r => [(i, r)]
  | (k, x) :: t, i, r => if k = i then (i, r) :: t else if i < k then (i, r) :: (k, x) :: t else (k, x) :: rowSet t i r

/-- One operand group as its scale, elements, and the values whose zero point is taken off (R157, R180). -/
def operandGroups (fmt g depth : Nat) (codes : List Nat) (recs : List Nat) : List (Option (Dy × List Dy)) :=
  if fmt = 9 then
    (chunksOf 32 (depth / 32) codes).map (fun cs => (cs.mapM (laneElem 9)).map (fun es => (Dy.ofInt 1, es)))
  else
    List.zipWith (fun cs r => blockElems fmt cs r true) (chunksOf g (depth / g) codes) recs

/-- One lane's groups: the weights never carry a zero point (R179). -/
def laneGroups (w : WSet) (j : Nat) : List (Option (Dy × List Dy)) :=
  let g := laneGroup w.load.fmt w.load.gCode
  if w.load.fmt = 9 then
    (chunksOf 32 (w.load.depth / 32) (w.codes.getD j [])).map (fun cs =>
      (cs.mapM (laneElem 9)).map (fun es => (Dy.ofInt 1, es)))
  else
    List.zipWith (fun cs r => blockElems w.load.fmt cs r false)
      (chunksOf g (w.load.depth / g) (w.codes.getD j [])) (w.scales.getD j [])

/-- The exact group partial (R157). -/
def dot (a b : List Dy) : Dy := (List.zipWith Dy.mul a b).foldl Dy.add Dy.zero

/-- An outlier of a row: its position in the row and its BF16 value (R160, R207). -/
abbrev Outlier := Nat × Val

/-- The outliers of a side-stream entry of block `b`: none where the entry is invalid (N 3); the second component is
the INV of equal indices (R207). -/
def sideEntry (b : Nat) (bs : List Byte) : Option (List Outlier) × Bool :=
  let w := fieldLE bs 4 2
  let n := bitsOf w 11 10
  let o0 : Outlier := (32 * b + bitsOf w 4 0, bf16.decode (fieldLE bs 0 2))
  let o1 : Outlier := (32 * b + bitsOf w 9 5, bf16.decode (fieldLE bs 2 2))
  if n = 0 then (some [], false)
  else if n = 1 then (some [o0], false)
  else if n = 2 then (if bitsOf w 4 0 = bitsOf w 9 5 then (some [o0], true) else (some [o0, o1], false))
  else (none, true)

/-- What a lane adds to its entry for one row: whether the contribution is invalid, the exact sum of the rounded
partials, and the flags (R157, R160, R212, R213, R215). -/
def laneContribution (a : Int) (ops lane : List (Option (Dy × List Dy))) (wg : Nat) (outs : List Outlier) :
    Bool × Int × Flags :=
  let parts := List.zipWith (fun o l =>
    match o, l with
    | some (so, eo), some (sl, el) => some (windowRound a (((dot eo el).mul so).mul sl))
    | _, _ => none) ops lane
  let sides := outs.map (fun o =>
    match o.2, lane.getD (o.1 / wg) none with
    | .fin v, some (sl, el) => some (windowRound a ((v.mul (el.getD (o.1 % wg) Dy.zero)).mul sl))
    | _, _ => none)
  let all := parts ++ sides
  let ok := all.filterMap id
  (all.any Option.isNone, (ok.map (·.1)).sum, ok.foldl (fun f p => f.or p.2) noFlags)

/-- The results of one operand row in all physical lanes (R211, R213, R214, R215): an entry without a column takes a value that the
spec does not give, and counts for nothing.  DESIGN CHOICE: an outlier whose BF16 value is NaN or an infinity makes the whole row invalid,
as an invalid operand group does (R207, R215; log entry 127). -/
def mmaRow (a : Int) (row : AccRow) (w : WSet) (ops : List (Option (Dy × List Dy))) (outs : List Outlier)
    (rowInvalid : Bool) (map : List (BitVec 16)) (draw : Nat) : AccRow × Flags × Nat × Nat :=
  let opBad := rowInvalid || ops.any Option.isNone || outs.any (fun o => !o.2.isFin)
  let wg := laneGroup w.load.fmt w.load.gCode
  let res := row.ents.zipIdx.map (fun p =>
    match columnOf map p.2 with
    | none => ((⟨Config.idleEntry draw p.2, .normal⟩ : AccEnt), noFlags, false, false)
    | some j =>
      if j < w.load.lanes then
        let (bad, c, f) := laneContribution a ops (laneGroups w j) wg outs
        let (e, f', s, i) := accAdd p.1 (bad || opBad) c
        (e, f.or f', s, i)
      else accAdd p.1 opBad 0)
  ({ row with ents := res.map (·.1) },
   res.foldl (fun f r => f.or r.2.1) noFlags,
   (res.filter (fun r => r.2.2.1)).length,
   (res.filter (fun r => r.2.2.2)).length)

/-! ### The check lane (R163, R164) -/

/-- An element in steps of u(F); what is not finite counts 0 on both sides. -/
def elemSteps (fmt c : Nat) : Int := ((laneElem fmt c).map (fun x => x.stepsOf (stepExpOf fmt))).getD 0

/-- Two sides of a check compared modulo 2^61 - 1. -/
def sidesAgree (lane check : Int) : Bool := (lane - check) % (2 ^ 61 - 1) == 0

/-- The row check (R163): for each group, the sum over the lanes of the element products against the products with c(i); and for
each outlier, which the side path forms of the weights at its position. -/
def rowCheck (w : WSet) (aF g : Nat) (codes : List Nat) (outs : List Outlier) : Bool :=
  let n := w.load.depth / g
  let a := codes.map (elemSteps aF)
  let lanes := w.codes.map (fun l => l.map (elemSteps w.load.fmt))
  let side := fun (ws : List Int) => (chunksOf g n (List.zipWith (· * ·) a ws)).map List.sum
  let lane := lanes.foldl (fun acc l => List.zipWith (· + ·) acc (side l)) (List.replicate n 0)
  (List.zipWith sidesAgree lane (side w.colSums)).all id &&
  outs.all (fun o => match o.2 with
    | .fin v =>
      let s := v.stepsOf (stepExpOf 9)
      sidesAgree ((lanes.map (fun l => s * l.getD o.1 0)).sum) (s * w.colSums.getD o.1 0)
    | _ => true)

/-- The residue check of a rescale (R164): the product of the factors' residues modulo 255 against that of the product. -/
def residueOk (x y product : Int) : Bool := (x % 255) * (y % 255) % 255 == product % 255

/-- The residues of a row's rescales in every lane: of a group partial by the product of its two scales. -/
def rowResidues (w : WSet) (ops : List (Option (Dy × List Dy))) : Bool :=
  (List.range w.load.lanes).all (fun j => (List.zipWith (fun o l =>
    match o, l with
    | some (so, eo), some (sl, el) => residueOk (dot eo el).m (so.mul sl).m ((dot eo el).mul (so.mul sl)).m
    | _, _ => true) ops (laneGroups w j)).all id)

/-- The residues of a row's rescales in the side path: of an outlier's product by its lane's scale (R160, R164). -/
def sideResidues (w : WSet) (outs : List Outlier) : Bool :=
  let wg := laneGroup w.load.fmt w.load.gCode
  (List.range w.load.lanes).all (fun j =>
    let lane := laneGroups w j
    outs.all (fun o =>
      match o.2, lane.getD (o.1 / wg) none with
      | .fin v, some (sl, el) =>
        let p := v.mul (el.getD (o.1 % wg) Dy.zero)
        residueOk p.m sl.m (p.mul sl).m
      | _, _ => true))

/-- The pairs of R151. -/
def pairOk (a w : Nat) : Bool :=
  (1 ≤ a && a ≤ 6 && 1 ≤ w && w ≤ 6) || (isInt a && isInt w) || (a == 9 && w == 9)

/-- The checks made when an MMA reaches the array: those of R151, with only the row bound against an EMPTY set. -/
def mmaOk (w : WSet) (bs : List Byte) : Bool :=
  let aF := fld bs 24 1
  let k := max (cellsOf aF) (cellsOf w.load.fmt)
  fld bs 28 2 + fld bs 30 2 ≤ 256 &&
  (w.st != .ready ||
    (pairOk aF w.load.fmt && (aF == 9 || fld bs 25 1 == w.load.gCode) &&
      (!(isMx aF || isMx w.load.fmt) || fld bs 25 1 == 1) && w.load.depth ≤ 512 / k &&
      (fld bs 34 1 == 0 || (aF ≤ 2 && w.load.fmt ≤ 2))))

/-- An ACCUMULATE meets a row with another anchor (R217). -/
def anchorClash (acc : Acc) (bs : List Byte) : Bool :=
  fld bs 26 1 == 1 &&
  (List.range (fld bs 30 2)).any (fun r =>
    match acc.row? (fld bs 28 2 + r) with
    | some row => row.anchor != BitVec.ofNat 16 (fld bs 32 2)
    | none => false)

/-- The ranges operand row `r` reads: elements, scale records, side-stream entries (R157, R207, R267). -/
def mmaRanges (w : WSet) (bs : List Byte) (r : Nat) (slots : List Nat) : List (Nat × Nat) :=
  let aF := fld bs 24 1
  let depth := w.load.depth
  let recs := if isBlock aF then depth / groupOf (fld bs 25 1) * recBytes aF else 0
  let own := slots.isEmpty
  let a := if own then addrFld bs 8 + r * fld bs 44 4 else slots.getD 0 0
  let s := if own then addrFld bs 16 + r * recs else slots.getD 1 0
  let o := if own then addrFld bs 36 + 6 * (r * (depth / 32)) else slots.getD 2 0
  (a, elemBytes aF depth) :: (if isBlock aF then [(s, recs)] else []) ++
  (if fld bs 34 1 = 1 then [(o, 6 * (depth / 32))] else [])

/-- One operand row (R157, R213): read, multiply, add. -/
def mmaUnit (x : Ctx) (d : Dev) (fl : Flight) (r : Nat) (slots : List Nat) : Dev × Flight × UnitEnd :=
  let bs := fl.bytes
  let w0 := (d.site x.site).lbk.activeSet
  let w : WSet := if w0.st == .ready then w0 else {}
  let ranges := mmaRanges w bs r slots
  match ranges.find? (fun g => !x.mayRead d g.1 g.2) with
  | some g => (d, fl, .bad g.1)
  | none =>
    match d.unitWrite x.c ranges [] with
    | (d, .done) =>
      let aF := fld bs 24 1
      let g := laneGroup aF (fld bs 25 1)
      let view := fun (i : Nat) => let q := ranges.getD i (0, 0); d.view x.c q.1 q.2
      let codes := unpackElems aF w.load.depth (view 0)
      let recs := if isBlock aF then
        (List.range (w.load.depth / g)).map (fun i => fieldLE (view 1) (i * recBytes aF) (recBytes aF)) else []
      let side := if fld bs 34 1 = 1 then view (if isBlock aF then 2 else 1) else []
      let ents := (List.range (if fld bs 34 1 = 1 then w.load.depth / 32 else 0)).map (fun b =>
        sideEntry b ((side.drop (6 * b)).take 6))
      let outs := ents.flatMap (fun e => e.1.getD [])
      let anchor := BitVec.ofNat 16 (fld bs 32 2)
      let old := ((d.site x.site).acc.row? (fld bs 28 2 + r)).getD (zeroRow anchor)
      let row0 := if fld bs 26 1 = 0 then zeroRow anchor else old
      let ops := operandGroups aF g w.load.depth codes recs
      if !rowCheck w aF g codes outs then (d.laneFault x.site 0 (cmdTag bs), fl, .fault)
      else if !(rowResidues w ops && sideResidues w outs) then (d.laneFault x.site 2 (cmdTag bs), fl, .fault)
      else
      let (k, d) := d.draw
      let (row, f, ns, ni) := mmaRow anchor.toInt row0 w ops outs (ents.any (fun e => e.1.isNone)) (d.site x.site).lbk.spareMap k
      let f := if ents.any (·.2) then f.or invFlag else f
      let fl := { fl with sums := fl.sums ++ [(outs.length : Int)] }
      let d := d.modSite x.site (fun s => { s with
        outp := { s.outp with consumed := satAdd s.outp.consumed outs.length }
        acc := { s.acc with
          rows := rowSet s.acc.rows (fld bs 28 2 + r) row
          satSeen := s.acc.satSeen || ns != 0
          flags := s.acc.flags.raise (f.bits4.setWidth 8)
          satCnt := satAdd s.acc.satCnt ns
          invCnt := satAdd s.acc.invCnt ni } })
      (d, fl.flag f, .done)
    | (d, e) => (d, fl, e)

/-- One row of the pseudocode of R160: the entries and the side path's ends so far, latest first, t_side, and the stall. -/
def sideStep (acc : List Nat × List Nat × Nat × Nat) (n : Nat) : List Nat × List Nat × Nat × Nat :=
  let e := match acc.1 with | [] => 0 | t :: _ => t + 1
  let back := acc.2.1.getD 7 0
  let wait := if 8 ≤ acc.2.1.length && e < back then back - e else 0
  let done := max (e + wait) acc.2.2.1 + (n + 1) / 2
  ((e + wait) :: acc.1, done :: acc.2.1, done, acc.2.2.2 + wait)

/-- `out_stall` of R160 for rows of `n[r]` outliers. -/
def sideStall (n : List Nat) : Nat := (n.foldl sideStep ([], [], 0, 0)).2.2.2

/-- The operand and ramp stalls of a command on the lane array, the latter while the grant is below demand; by how much is timing (R161). -/
def Dev.arrayStalls (d : Dev) (site : Nat) : Dev :=
  let (k, d) := d.draw
  d.modLbk site (fun l => { l with
    stallOperand := satAdd l.stallOperand (Config.cycles 2 k)
    stallRamp := if l.grant.toNat < l.demand then satAdd l.stallRamp (Config.cycles 3 k) else l.stallRamp })

/-- The stalls of an MMA: its side path's are those of its rows once the last has entered (R160, R161). -/
def Dev.mmaStalls (d : Dev) (site : Nat) (fl : Flight) : Dev :=
  let n := if fl.ended then sideStall (fl.sums.map Int.toNat) else 0
  (d.arrayStalls site).modSite site (fun s => { s with outp := { s.outp with stall := satAdd s.outp.stall n } })

/-- MMA on an issued flight.  No row enters while the site's grant is 0 (R166). -/
def mmaRun (d : Dev) (x : Ctx) (fl : Flight) (flt : Option MmaFault) : Dev :=
  let bs := fl.bytes
  let d := d.updateDemand x.c x.site
  let w := (d.site x.site).lbk.activeSet
  let acc := (d.site x.site).acc
  match flt with
  | some .row => d.laneFault x.site 0 (cmdTag bs)
  | some .residue => d.laneFault x.site 2 (cmdTag bs)
  | none =>
    if fl.units = 0 && !mmaOk w bs then d.putFlight x.c (fl.bad none)
    else if fl.units = 0 && anchorClash acc bs then
      (d.modAcc x.site (fun a => { a with anchorErr := satInc a.anchorErr })).putFlight x.c (fl.bad none)
    else
      let w' : WSet := if w.st == .ready then w else {}
      let own := (astream? bs).isNone
      match (if own then (List.range (fld bs 30 2)).flatMap (fun r => mmaRanges w' bs r []) else []).find?
          (fun g => !x.mayRead d g.1 g.2) with
      | some g => d.putFlight x.c (fl.bad (some g.1))
      | none =>
        if (d.site x.site).lbk.grant = 0 then d.putFlight x.c fl
        else
          let (d, fl) := unitLoop x 3 (mmaUnit x) (fld bs 30 2 - fl.units) d fl
          (d.mmaStalls x.site fl).putFlight x.c fl

/-- MMA streams operand rows against the active set into accumulator rows; `flt` says that an error in the hardware makes a check of
R163 or R164 fail (R157; log entry 4). -/
def mma (c : Fin 72) (flt : Option MmaFault) (d : Dev) : Dev :=
  match d.issue? c.val opMma with
  | none => d
  | some (x, fl, d) => mmaRun d x fl flt

/-- DUMMY draws current filler at DENSITY quarters (R166); it touches nothing else and ends after CYCLES. -/
def dummy (c : Fin 72) (d : Dev) : Dev :=
  match d.issue? c.val opDummy with
  | none => d
  | some (x, fl, d) => (d.putFlight x.c fl.done).updateDemand x.c x.site

/-! ### Commands -/

/-- DUMMY (R166). -/
def execDummy (c : Fin 72) (st : State) : Out State := run (dummy c) st
/-- WLOAD (R154). -/
def execWload (c : Fin 72) (flt : Bool) (st : State) : Out State := run (wload c flt) st
/-- WSWAP (R156). -/
def execWswap (c : Fin 72) (st : State) : Out State := run (wswap c) st
/-- MMA (R157). -/
def execMma (c : Fin 72) (flt : Option MmaFault) (st : State) : Out State := run (mma c flt) st

end Sys2Proof.Machine
end

