-- ==== Sys2Proof/Machine/Quant.lean ====
section
/-! DEFINITION. The quantiser: QUANT, DEQ and STATS (file 09). -/

namespace Sys2Proof.Machine

def Dev.modQnt (d : Dev) (n : Nat) (f : Qnt → Qnt) : Dev := d.modSite n (fun s => { s with qnt := f s.qnt })

/-- The step of the command's chunk. -/
def Ctx.step (x : Ctx) : Nat := x.chunk.step

/-- The wide format of a code. -/
def wideFmt (fmt : Nat) : FFmt := if fmt = 9 then bf16 else fp32
def wideBytes (fmt : Nat) : Nat := if fmt = 9 then 2 else 4

/-! ### History records (R197 to R201) -/

def recGet (r : List Byte) (o n : Nat) : Nat := fieldLE r o n
def recPut (r : List Byte) (o n v : Nat) : List Byte := putBytes r o (bytesLE n v)

/-- The roll of a record at its first use in a step (R198). -/
def rollRecord (r : List Byte) (step : Nat) : List Byte :=
  let fl := recGet r 74 1
  if recGet r 68 4 = step && bitOf fl 0 then r
  else
    let r :=
      if bitOf fl 0 then
        let wr := recGet r 72 1
        let r := recPut r (4 * (wr % 16)) 4 (recGet r 64 4)
        let r := recPut r 72 1 ((wr + 1) % 16)
        recPut r 73 1 (min 16 (recGet r 73 1 + 1))
      else r
    let r := recPut r 64 4 0
    let r := recPut r 68 4 step
    let r := recPut r 74 1 (bitsOf fl 7 6 * 64 + 1)
    let r := recPut r 80 24 0
    putBytes r 128 (List.replicate 256 0)

/-- H of R196: the largest of the 16 AMAX entries, none for +infinity. -/
def recordH (r : List Byte) : Option Dy :=
  (List.range 16).foldl (fun acc i =>
    match acc, fp32.decode (recGet r (4 * i) 4) with
    | some a, .fin x => some (a.max x.abs)
    | _, _ => none) (some Dy.zero)

/-- The histogram bin of an input (R201). -/
def histBin : Val → Nat
  | .fin x =>
    if x.m = 0 || x.log2 < -46 then 0 else if 15 ≤ x.log2 then 62 else (x.log2 + 47).toNat
  | _ => 63

/-- A 32-bit bin counts one more, saturating. -/
def binAdd (r : List Byte) (k : Nat) : List Byte := recPut r (128 + 4 * k) 4 (min 0xFFFFFFFF (recGet r (128 + 4 * k) 4 + 1))

/-- A working copy put into the chunk's table. -/
def workSet (w : List (Nat × List Byte)) (h : Nat) (r : List Byte) : List (Nat × List Byte) :=
  if w.any (fun e => e.1 == h) then w.map (fun e => if e.1 == h then (h, r) else e) else w ++ [(h, r)]

/-- The record as the chunk sees it: its working copy, otherwise the committed record (R198). -/
def Dev.histRecord (d : Dev) (site h : Nat) : List Byte :=
  let q := (d.site site).qnt
  match q.work.find? (fun e => e.1 == h) with
  | some e => e.2
  | none => memBytes d.mem.bytes (q.histBase.toNat + 512 * h) 512

/-! ### One unit of QUANT -/

/-- What a QUANT runs with: its formats, group, rotation, mode, and the scale of delayed mode. -/
structure QMode where
  inFmt : Nat
  outFmt : Nat
  g : Nat
  rot : Nat
  stoch : Bool
  outl : Bool
  thr : Dy
  /-- The record of delayed mode (R196): one scale for every group. -/
  delayed : Option Nat
  seed : BitVec 64
  step : Nat
  srTag : Nat
  deriving DecidableEq, Repr

def scaleDy (fmt r : Nat) : Dy := match scaleValue fmt r with | .val s _ => s | .invalid => Dy.zero

/-- The indices of a group by falling magnitude, ties by lower index: the first three. -/
def topThree (ms : List Dy) : List (Nat × Dy) :=
  let step := fun (acc : List (Nat × Dy)) (p : Dy × Nat) =>
    let rec ins : List (Nat × Dy) → List (Nat × Dy)
      | [] => [(p.2, p.1)]
      | e :: r => if e.2.lt p.1 then (p.2, p.1) :: e :: r else e :: ins r
    (ins acc).take 3
  ms.zipIdx.foldl step []

/-- The positions taken out of a group, largest first (R206). -/
def takenOut (q : QMode) (ms : List Dy) : List Nat :=
  let t := topThree ms
  let m := fun i => (t.getD i (0, Dy.zero)).2
  let idx := fun i => (t.getD i (0, Dy.zero)).1
  if !q.outl then []
  else
    match q.delayed with
    | some r =>
      let lim := q.thr.mul (scaleDy q.outFmt r)
      if lim.lt (m 1) then [idx 0, idx 1] else if lim.lt (m 0) then [idx 0] else []
    | none =>
      let s := fun k => scaleDy q.outFmt (chooseScale q.outFmt (some (m k)))
      if (q.thr.mul (s 2)).lt (m 1) then [idx 0, idx 1]
      else if (q.thr.mul (s 1)).lt (m 0) then [idx 0] else []

/-- A converted group: codes, record, side-stream entry, flags, the magnitude m of R195, and for each element the value
and what it decodes to (none for an invalid group). -/
structure QGroup where
  codes : List Nat
  record : Nat
  side : List Byte
  fl : Flags
  amax : Dy
  pairs : List (Dy × Val)
  taken : Nat
  deriving DecidableEq, Repr

/-- A side-stream entry (R207).  DESIGN CHOICE: the index of a value that the entry does not hold is 0 (log entry 126). -/
def sideBytes (vs : List (Nat × Nat)) : List Byte :=
  let v := fun i => (vs.getD i (0, 0)).2
  let i := fun k => (vs.getD k (0, 0)).1
  bytesLE 2 (v 0) ++ bytesLE 2 (v 1) ++ bytesLE 2 (vs.length * 1024 + i 1 * 32 + i 0)

/-- An invalid group (R184, R205). -/
def invalidGroup (q : QMode) : QGroup :=
  ⟨List.replicate q.g 0, invalidRecord q.outFmt, sideBytes [], invFlag, Dy.zero, [], 0⟩

/-- One group of exact values converted (R184, R185, R194 to R196, R202, R206); `e0` is the index of its first
element. -/
def quantGroup (q : QMode) (e0 : Nat) (xs : List Dy) : QGroup :=
  let ms := xs.map Dy.abs
  let out := takenOut q ms
  let left := ms.zipIdx.map (fun p => if out.contains p.2 then Dy.zero else p.1)
  let amax := left.foldl Dy.max Dy.zero
  let record := q.delayed.getD (chooseScale q.outFmt (some amax))
  let s := scaleDy q.outFmt record
  let es := xs.zipIdx.map (fun p =>
    if out.contains p.2 then
      let v := bf16.round p.1
      (0, v.2, (p.1, bf16.decode v.1))
    else
      let r := if q.stoch then Rounding.draw (srDraw q.seed q.step q.srTag (e0 + p.2)) else .rne
      let c := encodeElem q.outFmt p.1 s r
      (c.1, c.2, (p.1, Val.fin (s.mul ((elemValue q.outFmt c.1).getD Dy.zero)))))
  { codes := es.map (·.1), record := record
    side := sideBytes (out.map (fun i => (i, (bf16.round (xs.getD i Dy.zero)).1)))
    fl := es.foldl (fun f e => f.or e.2.1) noFlags, amax := amax
    pairs := es.map (·.2.2), taken := out.length }

/-- One unit of inputs converted (R190, R203, R205): an input that is not finite makes every group of the unit
invalid. -/
def quantUnitGroups (q : QMode) (e0 : Nat) (vs : List Val) : List QGroup :=
  let ng := vs.length / q.g
  if vs.all Val.isFin then
    let xs := vs.map (fun v => match v with | .fin x => x | _ => Dy.zero)
    let ys := if q.rot = 0 then xs
      else (chunksOf (rotSize q.rot) (xs.length / rotSize q.rot) xs).flatMap (rotate q.seed q.rot)
    (chunksOf q.g ng ys).zipIdx.map (fun p => quantGroup q (e0 + p.2 * q.g) p.1)
  else List.replicate ng (invalidGroup q)

/-- The statistics of a unit added to a record (R198, R200, R201). -/
def recordUnit (r : List Byte) (histo : Bool) (vs : List Val) (gs : List QGroup) : List Byte :=
  let amax := (gs.map (·.amax)).foldl Dy.max Dy.zero
  let r := recPut r 64 4 (max (recGet r 64 4) (fp32Ceil amax))
  let pairs := gs.flatMap (·.pairs)
  let err2 := pairs.foldl (fun a p =>
    let e := (Val.fin p.1).sub p.2
    (f64AddF a (f64Of (e.mul e))).1) (recGet r 80 8)
  let x2 := pairs.foldl (fun a p => (f64AddF a (f64Of (.fin (p.1.mul p.1)))).1) (recGet r 88 8)
  let r := recPut (recPut r 80 8 err2) 88 8 x2
  let r := recPut r 96 8 (recGet r 96 8 + pairs.length)
  let fl := gs.foldl (fun f g => f.or g.fl) noFlags
  let r := recPut r 74 1 (recGet r 74 1 ||| (2 * fl.bits4.toNat) ||| (if histo then 32 else 0))
  if histo then vs.foldl (fun r v => binAdd r (histBin v)) r else r

/-! ### The QUANT command -/

/-- Elements of a unit of work: the larger of one group and one rotation block (R190). -/
def unitElems (g rot : Nat) : Nat := max g (if rot = 0 then 1 else rotSize rot)

/-- COUNT is a whole number of groups and of rotation blocks (R191). -/
def countOk (count g rot : Nat) : Bool := count % g == 0 && (rot == 0 || count % rotSize rot == 0)

/-- A QUANT's own checks (R191). -/
def quantOk (histN : Nat) (bs : List Byte) : Bool :=
  let mode := fld bs 35 1
  let thr := fp32.decode (fld bs 52 4)
  let hist := fld bs 56 2
  (fld bs 32 1 == 9 || fld bs 32 1 == 10) && fld bs 33 1 ≤ 8 &&
  countOk (fld bs 40 4) (groupOf (fld bs 34 1)) (fld bs 36 1) &&
  (!bitOf mode 2 || (fld bs 33 1 ≤ 2 && fld bs 34 1 == 1 &&
    (match thr with | .fin x => (Dy.ofInt 6).le x && x.le (Dy.ofInt 65536) | _ => false))) &&
  (hist == 0xFFFF || hist < histN) && !(bitOf mode 0 && hist == 0xFFFF)

/-- The ranges of `n` elements of a QUANT from their first addresses: input, elements, scale records, side stream. -/
def quantRanges (bs : List Byte) (n : Nat) (as : List Nat) : List (Nat × Nat) :=
  let out := fld bs 33 1
  [(as.getD 0 0, n * wideBytes (fld bs 32 1)), (as.getD 1 0, elemBytes out n),
    (as.getD 2 0, n / groupOf (fld bs 34 1) * recBytes out)] ++
  (if bitOf (fld bs 35 1) 2 then [(as.getD 3 0, n / 32 * 6)] else [])

/-- Ranges that must lie in the site's own scratch; all but the first `k` are written. -/
def scratchOk (d : Dev) (x : Ctx) (k : Nat) (rs : List (Nat × Nat)) : Option Nat :=
  (rs.zipIdx.find? (fun r =>
    !(x.inOwn r.1.1 r.1.2) || (k ≤ r.2 && !d.canWrite x.p x.core x.site r.1.1 r.1.2))).map (·.1.1)

/-- The mode a QUANT runs in: delayed only with a full record (R196, R199). -/
def qmodeOf (x : Ctx) (bs : List Byte) (r : Option (List Byte)) : QMode :=
  let out := fld bs 33 1
  { inFmt := fld bs 32 1, outFmt := out, g := groupOf (fld bs 34 1), rot := fld bs 36 1
    stoch := bitOf (fld bs 35 1) 1, outl := bitOf (fld bs 35 1) 2
    thr := match fp32.decode (fld bs 52 4) with | .fin t => t | _ => Dy.zero
    delayed := match r with
      | some r => if bitOf (fld bs 35 1) 0 && 16 ≤ recGet r 73 1 then some (chooseScale out (recordH r)) else none
      | none => none
    seed := x.p.img.seed, step := x.step, srTag := fld bs 38 2 }

/-- The step lies in one of the 16 that begin at a switch of the plan (R201). -/
def inRecovery (p : Plan) (step : Nat) : Bool := p.switchSteps.any (fun s => decide (s ≤ step) && decide (step < s + 16))

/-- One unit of a QUANT (R190). -/
def quantUnit (x : Ctx) (d : Dev) (fl : Flight) (u : Nat) (slots : List Nat) : Dev × Flight × UnitEnd :=
  let bs := fl.bytes
  let hist := fld bs 56 2
  let r := if hist = 0xFFFF then none else some (d.histRecord x.site hist)
  let q := qmodeOf x bs r
  let n := unitElems q.g q.rot
  let as := if slots.isEmpty then
      [addrFld bs 8 + u * n * wideBytes q.inFmt, addrFld bs 16 + u * elemBytes q.outFmt n,
        addrFld bs 24 + u * (n / q.g) * recBytes q.outFmt, addrFld bs 44 + u * (n / 32) * 6]
    else slots
  let rs := quantRanges bs n as
  match scratchOk d x 1 rs with
  | some a => (d, fl, .bad a)
  | none =>
    let inp := rs.getD 0 (0, 0)
    let vs := (unpackElems q.inFmt n (d.view x.c inp.1 inp.2)).map (wideFmt q.inFmt).decode
    let gs := quantUnitGroups q (u * n) vs
    let writes := [((rs.getD 1 (0, 0)).1, packElems q.outFmt (gs.flatMap (·.codes))),
        ((rs.getD 2 (0, 0)).1, gs.flatMap (fun g => recordBytes q.outFmt g.record))] ++
      (if q.outl then [((rs.getD 3 (0, 0)).1, gs.flatMap (·.side))] else [])
    match d.unitWrite x.c [inp] writes with
    | (d, .done) =>
      let f := gs.foldl (fun f g => f.or g.fl) noFlags
      let histo := match r with
        | some r => decide (recGet r 73 1 < 16) || inRecovery x.p x.step
        | none => false
      let d := d.modSite x.site (fun s => { s with
        outp := { s.outp with extracted := satAdd s.outp.extracted (gs.map (·.taken)).sum }
        qnt := { s.qnt with
          flags := s.qnt.flags.raise f.bits4
          histo := histo
          twoPass := q.delayed.isNone
          elems := satAdd s.qnt.elems n
          twoPassElems := if q.delayed.isNone then satAdd s.qnt.twoPassElems n else s.qnt.twoPassElems
          work := match r with
            | some r => workSet s.qnt.work hist (recordUnit r histo vs gs)
            | none => s.qnt.work } })
      (d, fl.flag f, .done)
    | (d, e) => (d, fl, e)

/-- The wait counter of the quantiser; by how much it advances is timing (R193). -/
def Dev.quantStall (d : Dev) (site : Nat) : Dev :=
  let (k, d) := d.draw
  d.modQnt site (fun q => { q with stall := satAdd q.stall (Config.cycles 5 k) })

/-- A residue mismatch of the quantiser or the output path, which names no register of its own (R362, R164). -/
def Dev.pathFault (d : Dev) (site : Nat) (tag : BitVec 32) : Dev :=
  (d.modLbk site (fun l => { l with checkCnt := satInc l.checkCnt })).siteFault site .check 4 0 tag

/-- QUANT on an issued flight. -/
def quantRun (d : Dev) (x : Ctx) (fl : Flight) (flt : Bool) : Dev :=
  let bs := fl.bytes
  let st := (d.site x.site).qnt
  let hist := fld bs 56 2
  let n := unitElems (groupOf (fld bs 34 1)) (fld bs 36 1)
  let own := [addrFld bs 8, addrFld bs 16, addrFld bs 24, addrFld bs 44]
  let rs := if (astream? bs).isNone then quantRanges bs (fld bs 40 4) own else []
  if flt then d.pathFault x.site (cmdTag bs)
  else if fl.units = 0 && !quantOk st.histN.toNat bs then d.putFlight x.c (fl.bad none)
  else if fl.units = 0 && anyOverlap rs then d.putFlight x.c (fl.bad (overlapAddr? rs))
  else
    match (if fl.units = 0 then scratchOk d x 1 rs else none) with
    | some a => d.putFlight x.c (fl.bad (some a))
    | none =>
      let base := st.histBase.toNat + 512 * hist
      let fresh := hist != 0xFFFF && !st.work.any (fun e => e.1 == hist)
      if fresh && d.wipeHolds base 512 then d.putFlight x.c fl
      else
        match (if fresh then d.mem.poisoned? base 512 else none) with
        | some w => (d.countPoison (64 * w)).putFlight x.c (fl.poison (64 * w))
        | none =>
          let d := if fresh then d.readLines x.c base 512 else d
          let d := if hist = 0xFFFF then d
            else d.modQnt x.site (fun q =>
              { q with work := workSet q.work hist (rollRecord (d.histRecord x.site hist) x.step) })
          let (d, fl) := unitLoop x 4 (quantUnit x) (fld bs 40 4 / n - fl.units) d fl
          (d.quantStall x.site).putFlight x.c fl

/-- QUANT converts wide inputs to block or integer formats (R190); `flt` says that a residue check fails (R362). -/
def quant (c : Fin 72) (flt : Bool) (d : Dev) : Dev :=
  match d.issue? c.val opQuant with
  | none => d
  | some (x, fl, d) => quantRun d x fl flt

/-! ### DEQ -/

/-- The decoded values of a unit (R186, R205, R208). -/
def deqValues (seed : BitVec 64) (fmt g rot : Nat) (codes recs : List Nat) : List Val :=
  let groups := List.zipWith (fun cs r => blockValues fmt cs r true) (chunksOf g (codes.length / g) codes) recs
  if rot = 0 then
    groups.flatMap (fun o => match o with | some xs => xs.map Val.fin | none => List.replicate g Val.nan)
  else
    let n := rotSize rot
    let flat : List (Option Dy) :=
      groups.flatMap (fun o => match o with | some xs => xs.map some | none => List.replicate g none)
    (chunksOf n (flat.length / n) flat).flatMap (fun b =>
      match b.mapM id with
      | some ws => (unrotate seed rot ws).map Val.fin
      | none => List.replicate n Val.nan)

/-- The ranges of `n` elements of a DEQ: elements, scale records, output. -/
def deqRanges (bs : List Byte) (n : Nat) (as : List Nat) : List (Nat × Nat) :=
  let f := fld bs 32 1
  [(as.getD 0 0, elemBytes f n), (as.getD 1 0, n / groupOf (fld bs 34 1) * recBytes f),
    (as.getD 2 0, n * wideBytes (fld bs 33 1))]

/-- One unit of a DEQ (R208). DESIGN CHOICE: an INT4 value too wide for BF16 is rounded to nearest even with INX, as an INT8 one (R186,
R189; log entry 125). -/
def deqUnit (x : Ctx) (d : Dev) (fl : Flight) (u : Nat) (slots : List Nat) : Dev × Flight × UnitEnd :=
  let bs := fl.bytes
  let f := fld bs 32 1
  let w := fld bs 33 1
  let g := groupOf (fld bs 34 1)
  let n := unitElems g (fld bs 35 1)
  let as := if slots.isEmpty then
      [addrFld bs 8 + u * elemBytes f n, addrFld bs 16 + u * (n / g) * recBytes f, addrFld bs 24 + u * n * wideBytes w]
    else slots
  let rs := deqRanges bs n as
  match scratchOk d x 2 rs with
  | some a => (d, fl, .bad a)
  | none =>
    let view := fun i => let r := rs.getD i (0, 0); d.view x.c r.1 r.2
    let recs := (List.range (n / g)).map (fun i => fieldLE (view 1) (i * recBytes f) (recBytes f))
    let vs := (deqValues x.p.img.seed f g (fld bs 35 1) (unpackElems f n (view 0)) recs).map (wideFmt w).write
    match d.unitWrite x.c (rs.take 2) [((rs.getD 2 (0, 0)).1, packElems w (vs.map (·.1)))] with
    | (d, .done) =>
      let fg := vs.foldl (fun a v => a.or v.2) noFlags
      (d.modQnt x.site (fun q => { q with flags := q.flags.raise fg.bits4 }), fl.flag fg, .done)
    | (d, e) => (d, fl, e)

/-- DEQ decodes blocks to a wide format with inverse rotation (R208). -/
def deq (c : Fin 72) (d : Dev) : Dev :=
  match d.issue? c.val opDeq with
  | none => d
  | some (x, fl, d) =>
    let bs := fl.bytes
    let count := fld bs 40 4
    let n := unitElems (groupOf (fld bs 34 1)) (fld bs 35 1)
    let rs := if (astream? bs).isNone then deqRanges bs count [addrFld bs 8, addrFld bs 16, addrFld bs 24] else []
    let ok := fld bs 32 1 ≤ 8 && 9 ≤ fld bs 33 1 && countOk count (groupOf (fld bs 34 1)) (fld bs 35 1)
    if fl.units = 0 && (!ok || anyOverlap rs) then d.putFlight x.c (fl.bad (if ok then overlapAddr? rs else none))
    else
      match (if fl.units = 0 then scratchOk d x 2 rs else none) with
      | some a => d.putFlight x.c (fl.bad (some a))
      | none =>
        let (d, fl) := unitLoop x 3 (deqUnit x) (count / n - fl.units) d fl
        (d.quantStall x.site).putFlight x.c fl

/-! ### STATS -/

/-- The values of a tensor with its scale records directly behind its elements (R209). -/
def statsValues (fmt g count : Nat) (bs : List Byte) : List Val :=
  let e := elemBytes fmt count
  let codes := unpackElems fmt count (bs.take e)
  if isBlock fmt then
    let recs := (List.range (count / g)).map (fun i => fieldLE (bs.drop e) (i * recBytes fmt) (recBytes fmt))
    (List.zipWith (fun cs r => blockValues fmt cs r false) (chunksOf g (count / g) codes) recs).flatMap (fun o =>
      match o with | some xs => xs.map Val.fin | none => List.replicate g Val.nan)
  else codes.map (wideFmt fmt).decode

/-- The FP64 sum of values, or of their squares, in element order (R209, R225). -/
def f64Sum (sq : Bool) (vs : List Val) : Nat × Flags :=
  vs.foldl (fun a v =>
    let t := fp64.write (if sq then v.mul v else v)
    let s := f64AddF a.1 t.1
    (s.1, (a.2.or t.2).or s.2)) (0, noFlags)

/-- The largest magnitude and the index of its first occurrence (R209). -/
def amaxOf (vs : List Val) : Val × Nat :=
  let mag := fun v => match v with | Val.fin x => Val.fin x.abs | .inf _ => .inf false | .nan => .nan
  vs.zipIdx.foldl (fun a p => if a.1.lt (mag p.1) then (mag p.1, p.2) else a) (mag (vs.headD (.fin Dy.zero)), 0)

/-- The 16-byte result of a STATS (R209). -/
def statsResult (kind count : Nat) (vs : List Val) : List Byte × Flags :=
  if vs.any Val.isNan then
    (if kind ≤ 1 then (bytesLE 8 fp64.nanCode ++ bytesLE 8 count, invFlag)
     else if kind = 2 then (bytesLE 4 fp32.nanCode ++ bytesLE 4 fp32.nanCode ++ bytesLE 8 count, invFlag)
     else (bytesLE 4 fp32.nanCode ++ bytesLE 4 0xFFFFFFFF ++ bytesLE 8 count, invFlag))
  else if kind ≤ 1 then
    let s := f64Sum (kind == 1) vs
    (bytesLE 8 s.1 ++ bytesLE 8 count, s.2)
  else if kind = 2 then
    let r := (vs.foldl (fun m v => m.step (f64Of v)) ({} : MeanVar)).result
    (bytesLE 4 r.1 ++ bytesLE 4 r.2.1 ++ bytesLE 8 count, r.2.2)
  else
    let a := amaxOf vs
    let c := fp32.write a.1
    (bytesLE 4 c.1 ++ bytesLE 4 a.2 ++ bytesLE 8 count, c.2)

/-- The source bytes of a STATS: the elements and their scale records. -/
def statsBytes (bs : List Byte) : Nat :=
  let f := fld bs 24 1
  let n := fld bs 28 4
  elemBytes f n + (if isBlock f then n / groupOf (fld bs 27 1) * recBytes f else 0)

/-- The one unit of a STATS. -/
def statsUnit (x : Ctx) (d : Dev) (fl : Flight) (_ : Nat) (slots : List Nat) : Dev × Flight × UnitEnd :=
  let bs := fl.bytes
  let src := if slots.isEmpty then addrFld bs 8 else slots.getD 0 0
  let dst := if slots.isEmpty then addrFld bs 16 else slots.getD 1 0
  let n := statsBytes bs
  match scratchOk d x 1 [(src, n), (dst, 16)] with
  | some a => (d, fl, .bad a)
  | none =>
    let vs := statsValues (fld bs 24 1) (groupOf (fld bs 27 1)) (fld bs 28 4) (d.view x.c src n)
    let r := statsResult (fld bs 25 1) (fld bs 28 4) vs
    match d.unitWrite x.c [(src, n)] [(dst, r.1)] with
    | (d, .done) => (d.modQnt x.site (fun q => { q with flags := q.flags.raise r.2.bits4 }), fl.flag r.2, .done)
    | (d, e) => (d, fl, e)

/-- STATS reduces elements to a sum, a sum of squares, mean and variance, or amax (R209). -/
def stats (c : Fin 72) (d : Dev) : Dev :=
  match d.issue? c.val opStats with
  | none => d
  | some (x, fl, d) =>
    let bs := fl.bytes
    let rs := if (astream? bs).isNone then [(addrFld bs 8, statsBytes bs), (addrFld bs 16, 16)] else []
    let ok := !isBlock (fld bs 24 1) || fld bs 28 4 % groupOf (fld bs 27 1) == 0
    if fl.units = 0 && (!ok || anyOverlap rs) then d.putFlight x.c (fl.bad (if ok then overlapAddr? rs else none))
    else
      match (if fl.units = 0 then scratchOk d x 1 rs else none) with
      | some a => d.putFlight x.c (fl.bad (some a))
      | none =>
        let (d, fl) := unitLoop x 2 (statsUnit x) (1 - fl.units) d fl
        (d.quantStall x.site).putFlight x.c fl

/-! ### Commands -/

/-- QUANT (R190). -/
def execQuant (c : Fin 72) (flt : Bool) (st : State) : Out State := run (quant c flt) st
/-- DEQ (R208). -/
def execDeq (c : Fin 72) (st : State) : Out State := run (deq c) st
/-- STATS (R209). -/
def execStats (c : Fin 72) (st : State) : Out State := run (stats c) st

end Sys2Proof.Machine
end

