-- ==== Sys2Proof/Machine/Special.lean ====
section
/-! DEFINITION. The results that R189 gives by a bound in ulp and not by their bits: a result within the bound of the
exact one is picked by a constant without a body (log entry 7).  The exact values of the transcendental functions are
enclosed so closely, and on their own side of every FP32 value, that the bound is met without slack. -/

namespace Sys2Proof.Machine

/-- The largest integer not above a dyadic number. -/
def Dy.floor (a : Dy) : Int := if 0 ≤ a.e then a.m * 2 ^ a.e.toNat else a.m / 2 ^ (-a.e).toNat

/-- The value of an ordered FP32 code: a magnitude code with its sign; the code of infinity stands for 2^128. -/
def codeVal (o : Int) : Dy :=
  let c := o.natAbs
  let ex := c / 2 ^ 23
  let mag : Int := if ex = 0 then c else 2 ^ 23 + c % 2 ^ 23
  let e : Int := if ex = 0 then fp32.qmin else fp32.qmin + (ex - 1 : Nat)
  ⟨if o < 0 then -mag else mag, e⟩

/-- The FP32 codes, in order, whose values lie within `b / 2^20` ulp of `y`; ulp is that of the binade of `y`. The code of infinity is
among them only where `y` lies beyond the largest finite number (R188). -/
def nearCodes (y : Dy) (b : Nat) : List Int :=
  let c := (fp32.round y).1
  let o : Int := if y.m < 0 then -((c % 2 ^ 31 : Nat) : Int) else (c % 2 ^ 31 : Nat)
  let lim : Dy := ⟨b, fp32.stepExp y - 20⟩
  ((List.range 17).map (fun i : Nat => o - 8 + Int.ofNat i)).filter (fun k =>
    (decide (k.natAbs < fp32.infCode) || (k.natAbs == fp32.infCode && (codeVal (fp32.infCode - 1 : Nat)).lt y.abs)) &&
      ((codeVal k).sub y).abs.le lim)

/-- A result within `ulps` of `y`, chosen by `pick`: its FP32 code, and its flags; `trans` says that the exact result
is no FP32 value.  An exact result that is an FP32 value is the result, without INX (R188; log entry 7). -/
def pickNear (y : Dy) (ulps : Nat) (trans : Bool) (pick : Nat) : Nat × Flags :=
  if y.m = 0 then (0, noFlags)
  else
    let cs := nearCodes y (ulps * 2 ^ 20)
    let c := (fp32.round y).1
    let near : Int := if y.m < 0 then -((c % 2 ^ 31 : Nat) : Int) else (c % 2 ^ 31 : Nat)
    let o : Int := if !trans && near.natAbs < fp32.infCode && Dy.eq (codeVal near) y then near else cs.getD (pick % cs.length) near
    let mag := o.natAbs
    let tooBig := fp32.infCode ≤ mag
    let exact := !trans && !tooBig && Dy.eq (codeVal o) y
    (if o < 0 then fp32.signBit + mag else mag, floatFlags true tooBig exact (mag < 2 ^ 23))

/-! ### Enclosures of the transcendental functions -/

/-- `2 ^ 512`: the fixed point of the evaluations. -/
def fixOne : Int := 2 ^ 512
/-- A dyadic number in fixed point, rounded down. -/
def Dy.fix (a : Dy) : Int := Dy.floor ⟨a.m, a.e + 512⟩
def ofFix (n : Int) : Dy := ⟨n, -512⟩

/-- `sum over odd k of z^k / k`, alternating when `alt`: the inverse tangents. -/
def atanSeries (alt : Bool) (z : Int) (n : Nat) : Int :=
  let z2 := z * z / fixOne
  ((List.range n).foldl (fun (acc : Int × Int) k =>
    let t := acc.2 / (2 * k + 1 : Nat)
    (acc.1 + (if alt && k % 2 == 1 then -t else t), acc.2 * z2 / fixOne)) (0, z)).1

def ln2Fix : Int := 2 * atanSeries false (fixOne / 3) 180
def piFix : Int := 16 * atanSeries true (fixOne / 5) 130 - 4 * atanSeries true (fixOne / 239) 40

/-- e^x for |x| up to 2^12. -/
def expDy (x : Dy) : Dy :=
  let xi := x.fix
  let k := (2 * xi + ln2Fix) / (2 * ln2Fix)
  let r := xi - k * ln2Fix
  let s := ((List.range 100).foldl (fun (acc : Int × Int) n =>
    (acc.1 + acc.2, acc.2 * r / fixOne / (n + 1 : Nat))) (0, fixOne)).1
  ⟨s, k - 512⟩

/-- The natural logarithm of a positive number. -/
def lnDy (x : Dy) : Dy :=
  let l := Nat.log2 x.m.natAbs
  let m0 : Dy := ⟨x.m, -(l : Int)⟩
  let big := (⟨3, -1⟩ : Dy).lt m0
  let m := (if big then ⟨m0.m, m0.e - 1⟩ else m0 : Dy).fix
  let k : Int := x.e + l + (if big then 1 else 0)
  ofFix (k * ln2Fix + 2 * atanSeries false ((m - fixOne) * fixOne / (m + fixOne)) 180)

/-- `a / b` to 300 bits. -/
def divDy (a b : Dy) : Dy :=
  let q := a.m.natAbs * 2 ^ (300 + Nat.log2 b.m.natAbs) / b.m.natAbs
  ⟨if (a.m < 0) != (b.m < 0) then -(q : Int) else q, a.e - b.e - (300 + Nat.log2 b.m.natAbs : Nat)⟩

def dyOne : Dy := Dy.ofInt 1

/-- 1 / (1 + e^(−x)). -/
def sigmoidDy (x : Dy) : Dy :=
  if (Dy.ofInt 300).lt x then dyOne.sub (Dy.pow2 (-400)) else if x.lt (Dy.ofInt (-300)) then Dy.pow2 (-400)
  else divDy dyOne (dyOne.add (expDy x.neg))

/-- The hyperbolic tangent. -/
def tanhDy (x : Dy) : Dy :=
  let a := x.abs
  let t :=
    if a.lt (Dy.pow2 (-30)) then a.sub (divDy (a.mul (a.mul a)) (Dy.ofInt 3))
    else if (Dy.ofInt 100).lt a then dyOne.sub (Dy.pow2 (-280))
    else
      let e := expDy (Dy.mul (Dy.ofInt (-2)) a)
      divDy (dyOne.sub e) (dyOne.add e)
  if x.m < 0 then t.neg else t

/-- The integer square root of `2 pi` in fixed point. -/
def sqrt2PiFix : Int :=
  let a := (2 * piFix * fixOne).toNat
  sqrtBits a 520 0

/-- The standard normal distribution function for |x| up to 15. -/
def normalDy (x : Dy) : Dy :=
  let xi := x.fix
  let x2 := xi * xi / fixOne
  let s := ((List.range 500).foldl (fun (acc : Int × Int) n =>
    (acc.1 + acc.2 / (2 * n + 1 : Nat), -(acc.2 * x2 / fixOne / (2 * (n + 1) : Nat)))) (0, xi)).1
  ofFix (fixOne / 2 + s * fixOne / sqrt2PiFix)

/-- GELU. -/
def geluDy (x : Dy) : Dy :=
  if (Dy.ofInt 15).lt x then x.sub (x.mul (Dy.pow2 (-180))) else if x.lt (Dy.ofInt (-15)) then (Dy.pow2 (-300)).neg else x.mul (normalDy x)

/-- GELU in its tanh form: x · sigmoid(2z). -/
def geluTanhDy (x : Dy) : Dy :=
  if (Dy.ofInt 100).lt x then x.sub (x.mul (Dy.pow2 (-300))) else if x.lt (Dy.ofInt (-100)) then (Dy.pow2 (-300)).neg
  else
    let c := divDy (Dy.ofInt 797884560802865) (Dy.ofInt (10 ^ 15))
    let d := divDy (Dy.ofInt 44715) (Dy.ofInt (10 ^ 6))
    let z := c.mul (x.add (d.mul (x.mul (x.mul x))))
    x.mul (sigmoidDy (Dy.mul (Dy.ofInt 2) z))

/-- SiLU. -/
def siluDy (x : Dy) : Dy := x.mul (sigmoidDy x)

/-- The exact value, enclosed, of an activation of R221 at a finite FP32 input. -/
def actDy (act : Nat) (x : Dy) : Dy :=
  match act with
  | 2 => geluDy x
  | 3 => geluTanhDy x
  | 4 => siluDy x
  | 5 => sigmoidDy x
  | _ => tanhDy x

/-- An activation applied to an FP32 value (R220 step 5, R221); `code` is the value's FP32 code.  At zero the result is
exact: 0, or 0.5 for the sigmoid. -/
def activate (act code : Nat) : Val × Flags :=
  match fp32.decode code with
  | .nan => (.nan, noFlags)
  | .inf neg =>
    if act ≤ 4 then (if neg then (.fin Dy.zero, noFlags) else (.inf false, noFlags))
    else (.fin (if neg then (if act = 5 then Dy.zero else Dy.ofInt (-1)) else dyOne), noFlags)
  | .fin x =>
    if act = 1 then (.fin (if x.m < 0 then Dy.zero else x), noFlags)
    else if x.m = 0 then (.fin (if act = 5 then Dy.pow2 (-1) else Dy.zero), noFlags)
    else
      let r := pickNear (actDy act x) 2 true (Config.actPick act code)
      (fp32.decode r.1, r.2)

end Sys2Proof.Machine
end

