-- ==== Sys2Proof/Machine/Output.lean ====
section
/-! DEFINITION. The output path: DRAIN (R218 to R227). -/

namespace Sys2Proof.Machine

/-- The fields of a DRAIN. -/
structure DrainCmd where
  fmt : Nat
  g : Nat
  act : Nat
  bias : Bool
  res : Bool
  stat : Bool
  norm : Bool
  base : Nat
  rows : Nat
  mult : Nat
  shift : Nat
  scale : Val
  deriving DecidableEq, Repr

def drainCmd (bs : List Byte) : DrainCmd :=
  let epi := fld bs 35 1
  { fmt := fld bs 32 1, g := groupOf (fld bs 33 1), act := fld bs 34 1, bias := bitOf epi 0, res := bitOf epi 1
    stat := bitOf epi 2, norm := bitOf epi 3, base := fld bs 36 2, rows := fld bs 38 2, mult := fld bs 40 2
    shift := fld bs 42 1, scale := fp32.decode (fld bs 52 4) }

/-- A DRAIN's own checks that need no address (R218). -/
def DrainCmd.ok (c : DrainCmd) : Bool :=
  c.base + c.rows ≤ 256 && c.act ≤ 6 && !(isInt c.fmt && (1 < c.act || c.res)) && !(9 ≤ c.fmt && !c.scale.isFin)

/-- Element bytes and scale record bytes of an output row, and bytes of a residual row (R219). -/
def DrainCmd.elemBytes (c : DrainCmd) : Nat := Machine.elemBytes c.fmt 512
def DrainCmd.recsBytes (c : DrainCmd) : Nat := if isBlock c.fmt then 512 / c.g * recBytes c.fmt else 0
def DrainCmd.resFmt (c : DrainCmd) : Nat := if c.fmt = 10 then 10 else 9
def DrainCmd.resBytes (c : DrainCmd) : Nat := 512 * wideBytes c.resFmt

/-- The slots of row `i`, in the order of R267: elements, scale records, residual row, statistics record, bias, norm
record. -/
def DrainCmd.slots (c : DrainCmd) (bs : List Byte) (i : Nat) : List Nat :=
  let dst := addrFld bs 8
  let st := addrFld bs 44
  [dst + i * c.elemBytes, dst + c.rows * c.elemBytes + i * c.recsBytes, addrFld bs 24 + i * c.resBytes, st + 32 * i,
    addrFld bs 16, if c.stat then st + 32 * c.rows else st]

/-- The ranges a whole DRAIN uses with its own addresses: what it reads, and what it writes. -/
def DrainCmd.reads (c : DrainCmd) (bs : List Byte) : List (Nat × Nat) :=
  (if c.bias then [(addrFld bs 16, 2048)] else []) ++ (if c.res then [(addrFld bs 24, c.rows * c.resBytes)] else [])
def DrainCmd.writes (c : DrainCmd) (bs : List Byte) : List (Nat × Nat) :=
  (addrFld bs 8, c.rows * (c.elemBytes + c.recsBytes)) ::
  (if c.stat || c.norm then
    [(addrFld bs 44, (if c.stat then 32 * c.rows else 0) + (if c.norm then 16 else 0))] else [])

/-- The used ranges that may not overlap: all, but for DST equal to RES_ADDR with a residual of the output's own width (R218). -/
def DrainCmd.apart (c : DrainCmd) (bs : List Byte) : List (Nat × Nat) :=
  let inPlace := c.res && 9 ≤ c.fmt && addrFld bs 8 == addrFld bs 24
  let rs := if inPlace then (c.reads bs).take (b2n c.bias) else c.reads bs
  rs ++ c.writes bs
def DrainCmd.overlaps (c : DrainCmd) (bs : List Byte) : Bool := anyOverlap (c.apart bs)

/-! ### One row -/

/-- Steps 1 to 4 of R220: exact. -/
def epilogue (c : DrainCmd) (anchor : Int) (e : AccEnt) (bias : Option Val) (res : Option Val) : Val :=
  let v : Val := if e.st == .inv then .nan else .fin ⟨e.n.toInt, anchor - 80⟩
  let v := v.mul c.scale
  let v := match bias with | some b => v.add b | none => v
  match res with | some r => v.add r | none => v

/-- Step 5 of R220: one rounding to FP32, and the activation. -/
def activated (act : Nat) (v : Val) : Val × Flags :=
  if act = 0 then (v, noFlags)
  else
    let r := fp32.write v
    let a := activate act r.1
    (a.1, r.2.or a.2)

/-- A row as written: element bytes, scale record bytes, the values as written, and the flags. -/
structure DrainRow where
  elems : List Byte
  recs : List Byte
  vals : List Val
  fl : Flags
  deriving DecidableEq, Repr

/-- A row of OUT_FMT 1 to 6, 9 or 10 (R220, R222). -/
def floatRow (c : DrainCmd) (row : AccRow) (bias res : List Val) : DrainRow :=
  let vs := row.ents.zipIdx.map (fun p =>
    activated c.act (epilogue c row.anchor.toInt p.1 bias[p.2]? res[p.2]?))
  let fl := vs.foldl (fun f v => f.or v.2) noFlags
  let xs := vs.map (·.1)
  if 9 ≤ c.fmt then
    let w := wideFmt c.fmt
    let os := xs.map w.write
    { elems := packElems c.fmt (os.map (·.1)), recs := [], vals := os.map (fun o => w.decode o.1)
      fl := os.foldl (fun f o => f.or o.2) fl }
  else
    let gs := (chunksOf c.g (512 / c.g) xs).map (writeBlock c.fmt)
    { elems := packElems c.fmt (gs.flatMap (·.1)), recs := gs.flatMap (fun g => recordBytes c.fmt g.2.1)
      vals := gs.flatMap (fun g =>
        match blockValues c.fmt g.1 g.2.1 false with
        | some ys => ys.map Val.fin
        | none => List.replicate c.g Val.nan)
      fl := gs.foldl (fun f g => f.or g.2.2) fl }

/-- The requantisation of one column (R223): the integer written, none for an INV entry, and its flags. -/
def requantise (c : DrainCmd) (e : AccEnt) (bias : Int) : Option Int × Flags :=
  if e.st == .inv then (none, invFlag)
  else
    let p := (e.n.toInt + bias) * c.mult
    let y := (⟨p, 0⟩ : Dy).multRneInt c.shift
    let inx := y * 2 ^ c.shift != p
    let unf := p != 0 && y == 0
    let y := if c.act = 1 && y < 0 then 0 else y
    let lim : Int := if c.fmt = 8 then 127 else 7
    if lim < y then (some lim, { ovf := true, inx := inx, unf := unf })
    else if y < -lim then (some (-lim), { ovf := true, inx := inx, unf := unf })
    else (some y, { inx := inx, unf := unf })

/-- A row of OUT_FMT 7 or 8 (R223).  DESIGN CHOICE: the valid columns of a group that an INV entry makes invalid raise their flags all the
same (log entry 128). -/
def intRow (c : DrainCmd) (row : AccRow) (bias : List Int) : DrainRow :=
  let ys := row.ents.zipIdx.map (fun p => requantise c p.1 (bias.getD p.2 0))
  let gs := (chunksOf c.g (512 / c.g) ys).map (fun g => (g.map (·.1)).mapM id)
  let code := fun (y : Int) => (BitVec.ofInt (fmtBits c.fmt) y).toNat
  { elems := packElems c.fmt (gs.flatMap (fun g =>
      match g with | some zs => zs.map code | none => List.replicate c.g 0))
    recs := gs.flatMap (fun g => recordBytes c.fmt (if g.isSome then 1 else invalidRecord c.fmt))
    vals := gs.flatMap (fun g =>
      match g with | some zs => zs.map (fun z => Val.fin (Dy.ofInt z)) | none => List.replicate c.g Val.nan)
    fl := ys.foldl (fun f y => f.or y.2) noFlags }

/-- The statistics record of a row, its flags, and its FP64 sum of squares with the flags of that sum alone (R225, R226). -/
def rowStats (vs : List Val) : List Byte × Flags × Nat × Flags :=
  if vs.any Val.isNan then
    (bytesLE 8 fp64.nanCode ++ bytesLE 8 fp64.nanCode ++ bytesLE 4 fp32.nanCode ++ bytesLE 4 fp32.nanCode ++
      bytesLE 4 512 ++ bytesLE 4 0, invFlag, fp64.nanCode, invFlag)
  else
    let s := f64Sum false vs
    let q := f64Sum true vs
    let r := (vs.foldl (fun m v => m.step (f64Of v)) ({} : MeanVar)).result
    (bytesLE 8 s.1 ++ bytesLE 8 q.1 ++ bytesLE 4 r.1 ++ bytesLE 4 r.2.1 ++ bytesLE 4 512 ++ bytesLE 4 0,
      (s.2.or q.2).or r.2.2, q)

/-! ### The DRAIN command -/

/-- A row of the buffer as DRAIN reads it, its 512 columns through the lane map: one not written in the chunk reads as zero (R158,
R211, R218). -/
def Dev.drainRow (d : Dev) (site r : Nat) : AccRow :=
  let row := ((d.site site).acc.row? r).getD (zeroRow 0)
  let map := (d.site site).lbk.spareMap
  if map.any (fun e => e.getLsbD 15) then { row with ents := (List.range 512).map (fun j => row.ents.getD (physLane map j) {}) }
  else { row with ents := row.ents.take 512 }

/-- One accumulator row (R220 to R226).  The flight keeps, from its first row on, the norm sum, the norm count and the
bias vector. -/
def drainUnit (x : Ctx) (d : Dev) (fl : Flight) (i : Nat) (slots : List Nat) : Dev × Flight × UnitEnd :=
  let bs := fl.bytes
  let c := drainCmd bs
  let as := if slots.isEmpty then c.slots bs i else slots
  let a := fun k => as.getD k 0
  let first := i = 0
  let rRes := if c.res then [(a 2, c.resBytes)] else []
  let rBias := if first && c.bias then [(a 4, 2048)] else []
  let rNorm := if first && c.norm then [(a 5, 16)] else []
  let outs := (a 0, c.elemBytes) :: (if isBlock c.fmt then [(a 1, c.recsBytes)] else []) ++
    (if c.stat then [(a 3, 32)] else [])
  match scratchOk d x (rRes ++ rBias).length (rRes ++ rBias ++ rNorm ++ outs) with
  | some b => (d, fl, .bad b)
  | none =>
    let view := fun (r : Nat × Nat) => d.view x.c r.1 r.2
    let biasRaw := if first && c.bias then unpackElems 10 512 (view (a 4, 2048)) else []
    let normRaw := if first && c.norm then view (a 5, 16) else []
    let kept : List Int := if first then
        ([Int.ofNat (fieldLE normRaw 0 8), Int.ofNat (fieldLE normRaw 8 8)] ++
          (biasRaw.map (fun b => if isInt c.fmt then (BitVec.ofNat 32 b).toInt else Int.ofNat b)))
      else fl.sums
    let row := d.drainRow x.site (c.base + i)
    let bias := kept.drop 2
    let res := if c.res then (unpackElems c.resFmt 512 (view (a 2, c.resBytes))).map (wideFmt c.resFmt).decode else []
    let o := if isInt c.fmt then intRow c row bias
      else floatRow c row (bias.map (fun b => fp32.decode b.toNat)) res
    let st := if c.stat || c.norm then rowStats o.vals else ([], noFlags, 0, noFlags)
    let sum := if c.norm then f64AddF (kept.getD 0 0).toNat st.2.2.1 else (0, noFlags)
    let writes := (a 0, o.elems) :: (if isBlock c.fmt then [(a 1, o.recs)] else []) ++
      (if c.stat then [(a 3, st.1)] else [])
    match d.unitWrite x.c (rRes ++ rBias ++ rNorm) writes with
    | (d, .done) =>
      let f := (o.fl.or (if c.stat then st.2.1 else st.2.2.2)).or sum.2
      let kept := if c.norm then [Int.ofNat sum.1, (kept.getD 1 0 + 512) % 2 ^ 64] ++ bias else [0, 0] ++ bias
      let d := d.modAcc x.site (fun acc => { acc with
        drainRows := satAdd acc.drainRows 1
        flags := acc.flags.raise ((f.bits4.setWidth 8) <<< 4) })
      (d, { fl.flag f with sums := kept }, .done)
    | (d, e) => (d, fl, e)

/-- The norm record written back when a DRAIN ends or stops with at least one row completed (R226). -/
def normBack (x : Ctx) (d : Dev) (fl : Flight) : Dev × Flight :=
  let c := drainCmd fl.bytes
  let a := if (astream? fl.bytes).isNone then (c.slots fl.bytes 0).getD 5 0 else fl.first.getD 5 0
  if c.norm && fl.ended && 0 < fl.units then
    match d.unitWrite x.c [] [(a, bytesLE 8 (fl.sums.getD 0 0).toNat ++ bytesLE 8 (fl.sums.getD 1 0).toNat)] with
    | (d, .done) => (d, fl)
    | (d, .bad b) => (d, if fl.status = stOk then fl.bad (some b) else fl)
    | (d, .poisoned b) => (d, if fl.status = stOk then fl.poison b else fl)
    | (d, .fault) => (d, fl)
    | (d, .wait) => (d, fl)
  else (d, fl)

/-- DRAIN on an issued flight. -/
def drainRun (d : Dev) (x : Ctx) (fl : Flight) (flt : Bool) : Dev :=
  let bs := fl.bytes
  let c := drainCmd bs
  let own := (astream? bs).isNone
  if flt then d.pathFault x.site (cmdTag bs)
  else if fl.units = 0 && (!c.ok || (own && c.overlaps bs)) then d.putFlight x.c (fl.bad (if c.ok then overlapAddr? (c.apart bs) else none))
  else
    match (if fl.units = 0 && own then scratchOk d x (c.reads bs).length (c.reads bs ++ c.writes bs) else none) with
    | some a => d.putFlight x.c (fl.bad (some a))
    | none =>
      let r := unitLoop x 6 (drainUnit x) (c.rows - fl.units) d fl
      let r := normBack x r.1 r.2
      let (k, d) := r.1.draw
      (d.modAcc x.site (fun acc => { acc with stall := satAdd acc.stall (Config.cycles 6 k) })).putFlight x.c r.2

/-- DRAIN reads accumulator rows through the epilogue (R218); `flt` says that a residue check fails (R362). -/
def drain (c : Fin 72) (flt : Bool) (d : Dev) : Dev :=
  match d.issue? c.val opDrain with
  | none => d
  | some (x, fl, d) => drainRun d x fl flt

/-! ### Commands -/

/-- DRAIN (R218). -/
def execDrain (c : Fin 72) (flt : Bool) (st : State) : Out State := run (drain c flt) st

end Sys2Proof.Machine
end

