-- ==== Sys2Proof/Machine/Mvp.lean ====
section
/-! DEFINITION. The matrix-vector path and element-wise work: MMV and ELEM (file 11). -/

namespace Sys2Proof.Machine

def Dev.modMvp (d : Dev) (n : Nat) (f : Mvp → Mvp) : Dev := d.modSite n (fun s => { s with mvp := f s.mvp })

/-- The check fault of the MVP block: bit 0 MMV, bit 1 ELEM; LBK_CHECK_CNT counts it (R164, R235, R240). -/
def Dev.mvpFault (d : Dev) (site bit : Nat) (tag : BitVec 32) : Dev :=
  let d := d.modMvp site (fun m => { m with checkErr := m.checkErr.raise (BitVec.ofNat 2 (2 ^ bit)) })
  let d := d.modLbk site (fun l => { l with checkCnt := satInc l.checkCnt })
  d.siteFault site .check 4 (d.site site).mvp.checkErr.val.toNat tag

/-! ### MMV -/

structure MmvCmd where
  fmt : Nat
  g : Nat
  anchor : Int
  rows : Nat
  cols : Nat
  deriving DecidableEq, Repr

def mmvCmd (bs : List Byte) : MmvCmd :=
  { fmt := fld bs 32 1, g := groupOf (fld bs 33 1), anchor := anchorFld bs 34, rows := fld bs 38 2, cols := fld bs 40 4 }

def MmvCmd.elemBytes (c : MmvCmd) : Nat := Machine.elemBytes c.fmt c.cols
def MmvCmd.recsBytes (c : MmvCmd) : Nat := c.cols / c.g * recBytes c.fmt

/-- An MMV's own checks that need no address (R229). -/
def MmvCmd.ok (c : MmvCmd) : Bool := 1 ≤ c.fmt && c.fmt ≤ 8 && c.cols % c.g == 0 && c.cols ≤ 32768

/-- A range in the stack of the compute die that the core was armed on (R229, R370). -/
def inOwnStack (x : Ctx) (a n : Nat) : Bool := inside a n (stackSize * x.p.homes.getD x.core (x.site / 5)) stackSize

/-- The accumulator sum of one matrix row (R231): the contribution is added once, as R213 lays down. -/
def mmvSum (anchor : Int) (ops lane : List (Option (Dy × List Dy))) : AccEnt × Flags :=
  let (bad, c, f) := laneContribution anchor ops lane 1 []
  let r := accAdd {} bad c
  (r.1, f.or r.2.1)

/-- The residue checks of one matrix row (R164, R235): of each group partial by its weight scale. -/
def mmvResidues (ops lane : List (Option (Dy × List Dy))) : Bool :=
  (List.zipWith (fun o l =>
    match o, l with
    | some (_, eo), some (sl, el) => residueOk (dot eo el).m sl.m ((dot eo el).mul sl).m
    | _, _ => true) ops lane).all id

/-- A row's FP32 result (R232). -/
def mmvOut (anchor : Int) (e : AccEnt) : Nat × Flags :=
  if e.st == .inv then (fp32.nanCode, invFlag) else fp32.round ⟨e.n.toInt, anchor - 80⟩

/-- One matrix row (R230 to R232). DESIGN CHOICE: of several addresses of a row that fail, the record names that of its elements, else
of its scale records, else of x, else of y (R229; log entry 130). -/
def mmvUnit (x : Ctx) (d : Dev) (fl : Flight) (r : Nat) (slots : List Nat) : Dev × Flight × UnitEnd :=
  let bs := fl.bytes
  let c := mmvCmd bs
  let as := if slots.isEmpty then
      [addrFld bs 8 + r * c.elemBytes, addrFld bs 8 + c.rows * c.elemBytes + r * c.recsBytes, addrFld bs 24 + 4 * r,
        addrFld bs 16]
    else slots
  let a := fun k => as.getD k 0
  let rX := if r = 0 then [(a 3, 2 * c.cols)] else []
  if !inOwnStack x (a 0) c.elemBytes || !x.mayRead d (a 0) c.elemBytes then (d, fl, .bad (a 0))
  else if !inOwnStack x (a 1) c.recsBytes || !x.mayRead d (a 1) c.recsBytes then (d, fl, .bad (a 1))
  else
    match scratchOk d x rX.length (rX ++ [(a 2, 4)]) with
    | some b => (d, fl, .bad b)
    | none =>
      let view := fun (r : Nat × Nat) => d.view x.c r.1 r.2
      let vec := if r = 0 then unpackElems 9 c.cols (view (a 3, 2 * c.cols))
        else (d.site x.site).mvp.vec.map (·.toNat)
      let xs := (chunksOf c.g (c.cols / c.g) vec).map (fun g => (g.mapM (laneElem 9)).map (fun e => (dyOne, e)))
      let recs := view (a 1, c.recsBytes)
      let lane := ((chunksOf c.g (c.cols / c.g) (unpackElems c.fmt c.cols (view (a 0, c.elemBytes)))).zipIdx).map
        (fun p => blockElems c.fmt p.1 (fieldLE recs (p.2 * recBytes c.fmt) (recBytes c.fmt)) false)
      if !mmvResidues xs lane then (d.mvpFault x.site 0 (cmdTag bs), fl, .fault)
      else
      let (e, f) := mmvSum c.anchor xs lane
      let (y, f') := mmvOut c.anchor e
      match d.unitWrite x.c (rX ++ [(a 0, c.elemBytes), (a 1, c.recsBytes)]) [(a 2, bytesLE 4 y)] with
      | (d, .done) =>
        let g := f.or f'
        let d := d.modMvp x.site (fun m => { m with
          flags := m.flags.raise (g.bits4.setWidth 8)
          macCnt := satAdd m.macCnt c.cols
          vec := vec.map (BitVec.ofNat 16 ·) })
        (d, fl.flag g, .done)
      | (d, u) => (d, fl, u)

/-- MMV on an issued flight. -/
def mmvRun (d : Dev) (x : Ctx) (fl : Flight) (flt : Bool) : Dev :=
  let bs := fl.bytes
  let c := mmvCmd bs
  let own := (astream? bs).isNone
  let w := (addrFld bs 8, c.rows * (c.elemBytes + c.recsBytes))
  let xr := (addrFld bs 16, 2 * c.cols)
  let yr := (addrFld bs 24, 4 * c.rows)
  if flt then d.mvpFault x.site 0 (cmdTag bs)
  else if fl.units = 0 && (!c.ok || (own && anyOverlap [xr, yr])) then d.putFlight x.c (fl.bad (if c.ok then some yr.1 else none))
  else if fl.units = 0 && own && (!inOwnStack x w.1 w.2 || !x.mayRead d w.1 w.2) then
    d.putFlight x.c (fl.bad (some w.1))
  else
    match (if fl.units = 0 && own then scratchOk d x 1 [xr, yr] else none) with
    | some a => d.putFlight x.c (fl.bad (some a))
    | none =>
      let r := unitLoop x 4 (mmvUnit x) (c.rows - fl.units) d fl
      let (k, d) := r.1.draw
      (d.modMvp x.site (fun m => { m with stall := satAdd m.stall (Config.cycles 7 k) })).putFlight x.c r.2

/-- MMV computes a matrix-vector product from the stack into FP32 (R228); `flt` says that its residue check fails
(R235). -/
def mmv (c : Fin 72) (flt : Bool) (d : Dev) : Dev :=
  match d.issue? c.val opMmv with
  | none => d
  | some (x, fl, d) => mmvRun d x fl flt

/-! ### ELEM -/

/-- An exact result within 1 ulp, or 2 for the functions (R189). -/
def ulpResult (v : Val) (ulps : Nat) (trans : Bool) (pick : Nat) : Nat × Flags :=
  match v with
  | .fin y => pickNear y ulps trans pick
  | v => fp32.write v

/-- One of the two FP32 neighbours of an exact value, the value itself where it is one (FMA rounds once, R237). -/
def onceRounded (v : Val) (pick : Nat) : Nat × Flags :=
  match v with
  | .fin y =>
    let r := fp32.round y
    if !r.2.inx then r
    else
      let cs := nearCodes y (2 ^ 20)
      let lo := (cs.filter (fun k => (codeVal k).lt y)).getLast?
      let hi := cs.find? (fun k => y.lt (codeVal k))
      match lo, hi with
      | some a, some b =>
        let o := if pick % 2 = 0 then a else b
        (if o < 0 then fp32.signBit + o.natAbs else o.natAbs,
          floatFlags true (fp32.infCode ≤ o.natAbs) false (o.natAbs < 2 ^ 23))
      | _, _ => r
  | v => fp32.write v

/-- A finite value that is 1. -/
def isOne (x : Dy) : Bool := x.eq dyOne

/-- An even power of two: the numbers whose reciprocal square root is exact. -/
def isPow4 (x : Dy) : Bool := x.eq (Dy.pow2 x.log2) && x.log2 % 2 == 0

/-- e^x (R236, R237): beyond the range the enclosure is a number that rounds as e^x does. -/
def expVal (x : Dy) (pick : Nat) : Nat × Flags :=
  if x.m = 0 then ((fp32.write (.fin dyOne)).1, noFlags)
  else if (Dy.ofInt 1000).lt x then fp32.round (Dy.pow2 1000)
  else if x.lt (Dy.ofInt (-1000)) then pickNear (Dy.pow2 (-1000)) 2 true pick
  else pickNear (expDy x) 2 true pick

/-- The FP32 result of an ELEM operation on FP32 inputs, with its flags (R236, R237).  DESIGN CHOICE: LOG of zero is -infinity and RSQRT of
zero +infinity, and EXP, LOG and RSQRT of an infinity are their limits, none with a flag (log entry 129). -/
def elemOp (op : Nat) (ca cb ci : Nat) : Nat × Flags :=
  let a := fp32.decode ca
  let b := fp32.decode cb
  let i := fp32.decode ci
  let pick := Config.elemPick op ca (if elemUsesSrc1 op then cb else 0) (if elemUsesImm op then ci else 0)
  if a.isNan || (elemUsesSrc1 op && b.isNan) || (elemUsesImm op && i.isNan) then
    (if op = 8 then (0, invFlag) else (fp32.nanCode, invFlag))
  else if op = 0 then ulpResult (a.add b) 1 false pick
  else if op = 1 then ulpResult (a.sub b) 1 false pick
  else if op = 2 then ulpResult (a.mul b) 1 false pick
  else if op = 3 then onceRounded ((a.mul i).add b) pick
  else if op = 4 then ulpResult (a.add i) 1 false pick
  else if op = 5 then ulpResult (a.mul i) 1 false pick
  else if op = 6 then fp32.write (if b.lt a then b else a)
  else if op = 7 then fp32.write (if a.lt b then b else a)
  else if op = 8 then fp32.write (.fin (if b.lt a then dyOne else Dy.zero))
  else if op = 9 then
    (match a with
     | .fin x => fp32.write (.fin x.abs)
     | .inf _ => fp32.write (.inf false)
     | .nan => (fp32.nanCode, invFlag))
  else if op = 11 then
    (match a with
     | .fin x => expVal x pick
     | .inf neg => (if neg then (0, noFlags) else fp32.write (.inf false))
     | .nan => (fp32.nanCode, invFlag))
  else if op = 12 then
    (match a with
     | .fin x =>
       if x.m < 0 then (fp32.nanCode, invFlag)
       else if x.m = 0 then fp32.write (.inf true)
       else if isOne x then (0, noFlags)
       else pickNear (lnDy x) 2 true pick
     | .inf neg => (if neg then (fp32.nanCode, invFlag) else fp32.write (.inf false))
     | .nan => (fp32.nanCode, invFlag))
  else if op = 13 then
    (match a with
     | .fin x =>
       if x.m < 0 then (fp32.nanCode, invFlag)
       else if x.m = 0 then fp32.write (.inf false)
       else ulpResult (.fin (stickySqrt (stickyQuot 1 x.m.natAbs (-x.e)))) 2 (!isPow4 x) pick
     | .inf neg => (if neg then (fp32.nanCode, invFlag) else (0, noFlags))
     | .nan => (fp32.nanCode, invFlag))
  else ulpResult (a.div b) 2 false pick

/-- One element of ELEM as a code of its output format (R236, R237); the flags of a BF16 element are those of both its roundings, UNF
where the value written is tiny (R187, R188). -/
def elemOut (op dt : Nat) (ca cb ci : Nat) : Nat × Flags :=
  if op = 10 then (if dt = 0 then bf16.write (fp32.decode ca) else fp32.write (bf16.decode ca))
  else if dt = 0 then elemOp op ca cb ci
  else
    let r := elemOp op (bf16ToFp32 ca) (bf16ToFp32 cb) ci
    let o := bf16.write (fp32.decode r.1)
    ((o.1, { (r.2.or o.2) with unf := (r.2.unf && decide (o.1 % 2 ^ 15 < 0x80)) || o.2.unf }))

structure ElemCmd where
  op : Nat
  dt : Nat
  count : Nat
  imm : Nat
  deriving DecidableEq, Repr

def elemCmd (bs : List Byte) : ElemCmd := ⟨fld bs 32 1, fld bs 33 1, fld bs 36 4, fld bs 40 4⟩

/-- The format and width of the inputs, and of the output: CVT writes the other wide format (R236). -/
def ElemCmd.inFmt (c : ElemCmd) : Nat := if c.dt = 0 then 10 else 9
def ElemCmd.outFmt (c : ElemCmd) : Nat := if c.op = 10 then 19 - c.inFmt else c.inFmt
def ElemCmd.w (c : ElemCmd) : Nat := wideBytes c.inFmt
def ElemCmd.wo (c : ElemCmd) : Nat := wideBytes c.outFmt

/-- A used source and DST overlap otherwise than in place (R238). -/
def ElemCmd.overlap (c : ElemCmd) (src dst : Nat) : Bool :=
  meets src (c.count * c.w) dst (c.count * c.wo) && !(src == dst && c.wo ≤ c.w)

/-- One piece of 512 elements, the last possibly shorter (R267). -/
def elemUnit (x : Ctx) (d : Dev) (fl : Flight) (p : Nat) (slots : List Nat) : Dev × Flight × UnitEnd :=
  let bs := fl.bytes
  let c := elemCmd bs
  let n := min 512 (c.count - 512 * p)
  let as := if slots.isEmpty then
      [addrFld bs 8 + 512 * p * c.w, addrFld bs 16 + 512 * p * c.w, addrFld bs 24 + 512 * p * c.wo]
    else slots
  let a := fun k => as.getD k 0
  let two := elemUsesSrc1 c.op
  let rs := (a 0, n * c.w) :: (if two then [(a 1, n * c.w)] else [])
  match scratchOk d x rs.length (rs ++ [(a 2, n * c.wo)]) with
  | some b => (d, fl, .bad b)
  | none =>
    let s0 := unpackElems c.inFmt n (d.view x.c (a 0) (n * c.w))
    let s1 := if two then unpackElems c.inFmt n (d.view x.c (a 1) (n * c.w)) else []
    let os := s0.zipIdx.map (fun q => elemOut c.op c.dt q.1 (s1.getD q.2 0) c.imm)
    match d.unitWrite x.c rs [(a 2, packElems c.outFmt (os.map (·.1)))] with
    | (d, .done) =>
      let f := os.foldl (fun f o => f.or o.2) noFlags
      let d := d.modMvp x.site (fun m => { m with
        flags := m.flags.raise (f.bits4.setWidth 8 <<< 4)
        elemCnt := satAdd m.elemCnt n })
      (d, fl.flag f, .done)
    | (d, u) => (d, fl, u)

/-- ELEM on an issued flight.  No row enters while the site's grant is 0 (R166, R239). -/
def elemRun (d : Dev) (x : Ctx) (fl : Flight) (flt : Bool) : Dev :=
  let bs := fl.bytes
  let c := elemCmd bs
  let d := d.updateDemand x.c x.site
  let own := (astream? bs).isNone
  let two := elemUsesSrc1 c.op
  let srcs := addrFld bs 8 :: (if two then [addrFld bs 16] else [])
  let dst := addrFld bs 24
  if flt then d.mvpFault x.site 1 (cmdTag bs)
  else if fl.units = 0 && own && srcs.any (fun s => c.overlap s dst) then d.putFlight x.c (fl.bad (some dst))
  else
    match (if fl.units = 0 && own then
        scratchOk d x srcs.length (srcs.map (fun s => (s, c.count * c.w)) ++ [(dst, c.count * c.wo)]) else none) with
    | some a => d.putFlight x.c (fl.bad (some a))
    | none =>
      if (d.site x.site).lbk.grant = 0 then d.putFlight x.c fl
      else
        let r := unitLoop x 3 (elemUnit x) ((c.count + 511) / 512 - fl.units) d fl
        let (k, d) := r.1.draw
        ((d.arrayStalls x.site).modMvp x.site (fun m => { m with elemStall := satAdd m.elemStall (Config.cycles 8 k) })).putFlight x.c r.2

/-- ELEM applies an element-wise operation in FP32 or BF16 (R236); `flt` says that its residue check fails (R240). -/
def elem (c : Fin 72) (flt : Bool) (d : Dev) : Dev :=
  match d.issue? c.val opElem with
  | none => d
  | some (x, fl, d) => elemRun d x fl flt

/-! ### Commands -/

/-- MMV (R228). -/
def execMmv (c : Fin 72) (flt : Bool) (st : State) : Out State := run (mmv c flt) st
/-- ELEM (R236). -/
def execElem (c : Fin 72) (flt : Bool) (st : State) : Out State := run (elem c flt) st

end Sys2Proof.Machine
end

