-- ==== Sys2Proof/Machine/Group.lean ====
section
/-! DEFINITION. Torus coordinates, and the groups, ranks and trees of collectives (R322, R323, R333 to R335). -/

namespace Sys2Proof.Machine

/-- The coordinate of the device, as LNK_COORD holds it since the last training (R322): W [14:12], X, Y, Z. -/
def Dev.coord (d : Dev) : BitVec 15 := d.lnk.coordUsed

def coordW (c : BitVec 15) : Nat := bitsOf c.toNat 14 12
def coordX (c : BitVec 15) : Nat := bitsOf c.toNat 11 8
def coordY (c : BitVec 15) : Nat := bitsOf c.toNat 7 4
def coordZ (c : BitVec 15) : Nat := bitsOf c.toNat 3 0
def mkCoord (w x y z : Nat) : BitVec 15 := BitVec.ofNat 15 (w * 4096 + x * 256 + y * 16 + z)

/-- The axis sizes W, X, Y, Z (R322). -/
def Lnk.sizes (l : Lnk) : List Nat := [l.wSize.toNat, l.xSize.toNat, l.ySize.toNat, l.zSize.toNat]

/-- The four components of a coordinate. -/
def coordParts (c : BitVec 15) : List Nat := [coordW c, coordX c, coordY c, coordZ c]

/-- A coordinate within the axis sizes. -/
def Lnk.inDims (l : Lnk) (c : BitVec 15) : Bool := (List.zipWith (fun p n => decide (p < n)) (coordParts c) l.sizes).all id

/-- The number of devices of the system, and its class (R31, R322). -/
def Lnk.devices (l : Lnk) : Nat := l.sizes.foldl (· * ·) 1
def Lnk.cls (l : Lnk) : Nat :=
  if l.devices ≤ 1 then 0 else if l.devices ≤ 8 then 1 else if l.devices ≤ 1024 then 2 else if l.devices ≤ 4096 then 3 else 4

/-- Logical cores a device may schedule, and ports per neighbour a plan may assume, by class (R31). -/
def classCores (k : Nat) : Nat := [72, 68, 64, 62, 60].getD k 60
def classPorts (k : Nat) : Nat := if k ≤ 1 then 3 else 2

/-- The position and count on one axis (R333); none where the code does not fit the axis. -/
def axisShape (member : Bool) (code n c : Nat) : Option (Nat × Nat) :=
  if !member then (if code = 0 then some (0, 1) else none)
  else if code = 0 then some (c, n)
  else if code ≤ 3 then (if n % 2 ^ code = 0 then some (c % 2 ^ code, 2 ^ code) else none)
  else
    let s := [2, 4, 5, 8].getD (code - 4) 2
    if n % s = 0 then some (c / s, n / s) else none

/-- The shapes on W, X, Y, Z of a group named by a device (R333). -/
def Lnk.shapes (l : Lnk) (c : BitVec 15) (group : Nat) : Option (List (Nat × Nat)) :=
  ((List.range 4).map (fun i =>
    axisShape (bitOf group (12 + i)) (bitsOf group (3 * i + 2) (3 * i)) (l.sizes.getD i 1)
      ((coordParts c).getD i 0))).mapM id

/-- Rank and size of the group (R334). -/
def rankOf (sh : List (Nat × Nat)) : Nat := sh.foldr (fun p acc => p.1 + p.2 * acc) 0
def groupSize (sh : List (Nat × Nat)) : Nat := (sh.map (·.2)).foldl (· * ·) 1

/-- Levels of the tree: the least `d` with `8 ^ d` members or more (R335). -/
def treeDepth (p : Nat) : Nat := ((List.range 16).find? (fun d => decide (p ≤ 8 ^ d))).getD 16

/-- The leader of the level-`l` run that holds rank `r`, and its children there in ascending rank. -/
def leaderOf (l r : Nat) : Nat := r / 8 ^ (l + 1) * 8 ^ (l + 1)
def childrenOf (p l r : Nat) : List Nat :=
  ((List.range 7).map (fun k => r + (k + 1) * 8 ^ l)).filter (fun x => decide (x < p))

/-- The coordinate of a rank of the group that device `c` names. -/
def Lnk.rankCoord (l : Lnk) (c : BitVec 15) (group rank : Nat) : BitVec 15 :=
  let sh := (l.shapes c group).getD []
  let step := fun (acc : Nat × List Nat) (i : Nat) =>
    let cnt := (sh.getD i (0, 1)).2
    let pos := acc.1 % cnt
    let code := bitsOf group (3 * i + 2) (3 * i)
    let me := (coordParts c).getD i 0
    let v :=
      if !bitOf group (12 + i) then me
      else if code = 0 then pos
      else if code ≤ 3 then me - me % 2 ^ code + pos
      else me % ([2, 4, 5, 8].getD (code - 4) 2) + pos * ([2, 4, 5, 8].getD (code - 4) 2)
    (acc.1 / cnt, acc.2 ++ [v])
  let parts := ((List.range 4).foldl step (rank, [])).2
  mkCoord (parts.getD 0 0) (parts.getD 1 0) (parts.getD 2 0) (parts.getD 3 0)

end Sys2Proof.Machine
end

