-- ==== Sys2Proof/Machine/Route.lean ====
section
/-! DEFINITION. Ports, directions and dimension-order routing, and the putting of packets into the classes of a port
(R309, R313, R323 to R326). -/

namespace Sys2Proof.Machine

/-- One link port changed, and read. -/
def Dev.modPort (d : Dev) (i : Nat) (f : Port → Port) : Dev :=
  { d with lnk := { d.lnk with ports := d.lnk.ports.modify i f } }
def Dev.port (d : Dev) (i : Nat) : Port := d.lnk.ports.getD i {}

/-- The direction of a port (0 W+, 1 W−, … 7 Z−) and its rank (R309). -/
def dirOf (p : Nat) : Nat := 3 * p % 8
def rankOfPort (p : Nat) : Nat := p / 8
/-- The ports of a direction in rank order. -/
def portsOf (dir : Nat) : List Nat := [3 * dir % 8, 3 * dir % 8 + 8, 3 * dir % 8 + 16]
/-- The axis of a direction, and whether it is the + one. -/
def axisOf (dir : Nat) : Nat := dir / 2
def isPlus (dir : Nat) : Bool := dir % 2 = 0
/-- The port at the other end of a port's link: the opposite direction, the same rank (R310). -/
def partnerPort (p : Nat) : Nat := 3 * (if isPlus (dirOf p) then dirOf p + 1 else dirOf p - 1) % 8 + 8 * rankOfPort p

/-- The size of an axis, and the device's position on it. -/
def Dev.axisSize (d : Dev) (a : Nat) : Nat := d.lnk.sizes.getD a 1
def Dev.axisPos (d : Dev) (a : Nat) : Nat := (coordParts d.coord).getD a 0

/-- The neighbour of a device in a direction (R323). -/
def Dev.besides (d : Dev) (here : BitVec 15) (dir : Nat) : BitVec 15 :=
  let a := axisOf dir
  let n := d.axisSize a
  let p := (coordParts here).getD a 0
  let ps := (coordParts here).set a (if isPlus dir then (p + 1) % n else (p + n - 1) % n)
  mkCoord (ps.getD 0 0) (ps.getD 1 0) (ps.getD 2 0) (ps.getD 3 0)

/-- This device's neighbour in a direction. -/
def Dev.neighbour (d : Dev) (dir : Nat) : BitVec 15 := d.besides d.coord dir

/-- The up ports of a direction in rank order (R325). -/
def Dev.upOf (d : Dev) (dir : Nat) : List Nat := (portsOf dir).filter (fun p => (d.port p).state == .up)

/-- The direction in which a packet leaves a device other than its destination (R324): + for a distance of at most half the axis. -/
def Dev.dirFrom (d : Dev) (here dest : BitVec 15) : Option Nat :=
  ((List.range 4).filterMap (fun a =>
    let n := d.axisSize a
    let k := ((coordParts dest).getD a 0 + n - (coordParts here).getD a 0) % n
    if k = 0 then none else some (if 2 * k ≤ n then 2 * a else 2 * a + 1)))[0]?

/-- The direction in which a packet for another device leaves this one. -/
def Dev.routeDir (d : Dev) (dest : BitVec 15) : Option Nat := d.dirFrom d.coord dest

/-- The way in dimension order from a device to another goes over a link, named by one of its ends and its direction there (R324,
R326); `fuel` bounds the hops. -/
def Dev.crosses (d : Dev) (link : BitVec 15 × Nat) : (fuel : Nat) → (here dest : BitVec 15) → Bool
  | 0, _, _ => false
  | fuel + 1, here, dest =>
    match d.dirFrom here dest with
    | none => false
    | some dir =>
      let next := d.besides here dir
      link == (here, dir) || link == (next, if isPlus dir then dir + 1 else dir - 1) || d.crosses link fuel next dest

/-- The hop out of the device in a direction crosses the dateline (R324). -/
def Dev.datelineHop (d : Dev) (dir : Nat) : Bool :=
  let a := axisOf dir
  if isPlus dir then d.axisPos a + 1 == d.axisSize a else d.axisPos a == 0

/-- The traffic classes of which packets and flows are made: bulk data and control messages (R313, R325). -/
def Flit.isTraffic (f : Flit) : Bool := f.type == 1 || f.type == 4

/-- A flit belongs to the flow of another (R325). -/
def Flit.sameFlow (f g : Flit) : Bool := f.isTraffic && g.isTraffic && f.src == g.src && f.dest == g.dest && f.channel == g.channel

/-- A port still holds a flit of the flow that is not acknowledged. -/
def Port.holdsFlow (p : Port) (f : Flit) : Bool :=
  p.replay.any f.sameFlow || p.ctlTx.any f.sameFlow || p.bulkTx.any f.sameFlow

/-- The up port that a flow of a direction uses when none of its earlier flits waits for its acknowledgement (R325). -/
def Dev.flowPort (d : Dev) (dir : Nat) (f : Flit) : Option Nat :=
  let ups := d.upOf dir
  ups[((f.src.setWidth 16 ^^^ f.dest.setWidth 16) ^^^ f.channel).toNat % (if ups.length = 0 then 1 else ups.length)]?

/-- The up port that holds a flit of the flow which is not acknowledged: the flow stays on it (R325). -/
def Dev.heldPort (d : Dev) (f : Flit) : Option Nat :=
  (List.range 24).find? (fun p => (d.port p).state == .up && (d.port p).holdsFlow f)

/-- A flit put at the end of its class on a port (R320). -/
def Port.enqueue (p : Port) (f : Flit) : Port :=
  match f.type with
  | 1 => { p with bulkTx := p.bulkTx ++ [f] }
  | 2 => { p with linkTx := p.linkTx ++ [f] }
  | 3 => { p with markTx := some f }
  | _ => { p with ctlTx := p.ctlTx ++ [f] }

/-- The receive-buffer place that a flit takes: bulk on VC 0 and 1, control on VC 0 and 1; other types take none (R332). -/
def Flit.place (f : Flit) : Option Nat :=
  if f.type = 1 then some (b2n f.vc) else if f.type = 4 then some (2 + b2n f.vc) else none

/-- A place of the receive buffer of the port that a flit came in by is free again (R332). -/
def Dev.freePlace (d : Dev) (f : Flit) : Dev :=
  match f.via with
  | some (p, k) => d.modPort p (fun q => { q with freed := q.freed.modify k (· + 1) })
  | none => d

/-- The packet of a flit that is being forwarded, as `passing` keys it. -/
def Flit.packetKey (f : Flit) : Nat × BitVec 15 × BitVec 15 × BitVec 16 := (f.type, f.src, f.dest, f.channel)

/-- The directions that a detour may take: those with a port up, but the one back to where the flit came from (R326). -/
def Dev.detourDirs (d : Dev) (from? : Option Nat) : List Nat :=
  (List.range 8).filter (fun x => !(d.upOf x).isEmpty && (match from? with | some p => dirOf p != x | none => true))

/-- The port of rank 0 of the direction in which a waiting flit was to leave: it is still on that direction's axis (R324). -/
def Dev.axisPort (d : Dev) (f : Flit) : Option Nat := (d.routeDir f.dest).map (fun dir => 3 * dir % 8)

/-- The number of the detours that lead a packet off the direction of its dimension order: those installed for that direction, which
this device has lost, or those for another device's lost link, where its way goes over it (R326). -/
def Dev.detourFor (d : Dev) (dir : Nat) (dest : BitVec 15) : Option Nat :=
  match d.lnk.lostDirs.find? (fun x => x.1 == dir) with
  | some x => x.2
  | none => d.lnk.detour.filter (fun n => d.crosses ((Config.lostLink n).1, (Config.lostLink n).2.val) d.lnk.sizes.sum d.coord dest)

/-- The direction in which a packet leaves: in dimension order, or by a detour that is installed (R324, R326). -/
def Dev.outDir (d : Dev) (from? : Option Nat) (dir : Nat) (dest : BitVec 15) : Nat :=
  let dirs := d.detourDirs from?
  match d.detourFor dir dest with
  | some n => dirs.getD (Config.detour n dirs.length dest % dirs.length) dir
  | none => dir

/-- A flit for another device put on its way: a packet in progress goes on by the port it began on, a flow with earlier flits
unacknowledged by theirs, any other by its route; where that direction has no port up it waits (R324 to R326).  `from?` is a port of
the axis it is on: that it came in by, or was to leave by. -/
def Dev.routeFlit (d : Dev) (from? : Option Nat) (f : Flit) : Dev :=
  match d.routeDir f.dest with
  | none => d.freePlace f
  | some dir0 =>
    let mine := fun (e : Nat × BitVec 15 × BitVec 15 × BitVec 16 × Nat) => (e.1, e.2.1, e.2.2.1, e.2.2.2.1) == f.packetKey
    let kept := ((d.lnk.passing.find? mine).map (·.2.2.2.2)).filter (fun p => !f.first && (d.port p).state == .up)
    let held := (kept <|> d.heldPort f) <|> d.flowPort (d.outDir from? dir0 f.dest) f
    let dir := (held.map dirOf).getD dir0
    let same := match from? with
      | some p => axisOf (dirOf p) == axisOf dir
      | none => false
    let f := { f with vc := (same && f.vc) || d.datelineHop dir }
    match held with
    | none => { d with lnk := { d.lnk with waiting := d.lnk.waiting ++ [f] } }
    | some p =>
      let rest := d.lnk.passing.filter (fun e => !mine e)
      let d := { d with lnk := { d.lnk with
        passing := if f.last then rest else rest ++ [(f.type, f.src, f.dest, f.channel, p)] } }
      d.modPort p (fun q => q.enqueue f)

/-- A control message of one flit from this device to another (R320). -/
def Dev.sendControl (d : Dev) (dest : BitVec 15) (channel : BitVec 16) (b : Body) : Dev :=
  d.routeFlit none { type := 4, dest := dest, src := d.coord, channel := channel, body := b }

/-- Bytes cut into the data of flits, 240 bytes each (R312, R313). -/
def cutFlits : Nat → List Byte → List (List Byte)
  | 0, _ => []
  | fuel + 1, bs => if bs.isEmpty then [] else bs.take 240 :: cutFlits fuel (bs.drop 240)

/-- Bulk data from this device to another: packets of at most 32 flits (R313, R320). -/
def Dev.sendBulk (d : Dev) (dest : BitVec 15) (channel : BitVec 16) (bodies : List Body) : Dev :=
  let n := bodies.length
  (bodies.zipIdx).foldl (fun (d : Dev) b =>
    d.routeFlit none { type := 1, dest := dest, src := d.coord, channel := channel, body := b.1
                       first := b.2 % 32 = 0, last := b.2 % 32 = 31 || b.2 + 1 = n }) d

/-- Link control to the partner of a port. -/
def Dev.linkControl (d : Dev) (p : Nat) (b : Body) : Dev :=
  d.modPort p (fun q => q.enqueue { type := 2, dest := q.nbr, src := d.coord, body := b })

/-- Some port asserts OWNED (R318). -/
def Dev.anyOwned (d : Dev) : Bool := d.lnk.ports.any (·.owned)

end Sys2Proof.Machine
end

