-- ==== Sys2Proof/Machine/Queue.lean ====
section
/-! DEFINITION. The command queues (file 06): slot and TAIL writes, fetch, the sequencer commands, the mover's COPY and
ATOM, and the issue of COLL, SEND, RECV and SOLVE; VENT; completion; breaks; the ramp governor. -/

namespace Sys2Proof.Machine

/-! ### Queue windows (R125 to R131) -/

/-- The tenancy that holds a device logical core, if any (R113, R407). -/
def Dev.tenancyOf (d : Dev) (c : Nat) : Option Nat :=
  (List.range 4).find? (fun i => match d.sec.tenancies.getD i none with | some t => t.cores.contains c | none => false)

/-- The device logical core behind window `w` of a function (R125): PF0 sees the cores that no tenancy holds under their
own numbers, a tenancy its cores in ascending order. -/
def Dev.queueOf (d : Dev) (func w : Nat) : Option Nat :=
  if func = 0 then (if (d.tenancyOf w).isSome || 72 ≤ w then none else some w)
  else (match d.sec.tenancies.getD (func - 1) none with | some t => t.cores[w]? | none => none)

/-- A queue is held by an admitted plan (R126). -/
def Dev.owned (d : Dev) (c : Nat) : Bool := (d.planOf c).isSome

/-- Entries published and not freed, and the credit (R128). -/
def CqRegs.held (r : CqRegs) : Nat := (r.tail - r.retire).toNat
def CqRegs.credit (r : CqRegs) : Nat := 1024 - r.held

/-- Slot `s` holds a published entry that is not freed (R128). -/
def CqRegs.slotBusy (r : CqRegs) (s : Nat) : Bool := decide ((s + 1024 - r.retire.toNat % 1024) % 1024 < r.held)

/-- Bytes written into the slots from an offset on; bytes of a busy slot are ignored and set SLOT_BUSY. -/
def slotBytes (q : Cq) (o : Nat) (bs : List Byte) : Cq :=
  let cells := cellsFrom o bs
  let free := cells.filter (fun c => !q.regs.slotBusy (c.1 / 64))
  { q with
    slots := memPutCells q.slots free
    regs := { q.regs with err := if free.length = cells.length then q.regs.err else q.regs.err.raise 2 } }

/-- COMMAND_SLOT_WRITE (R125 to R128). -/
def commandSlotWrite (func : Fin 5) (win : Fin 72) (off : Fin 65536) (data : List Byte) (d : Dev) : Dev :=
  match d.queueOf func.val win.val with
  | none => d
  | some c => if d.owned c && off.val + data.length ≤ 65536 then d.modCq c (fun q => slotBytes q off.val data) else d

/-- The content of a slot as a published entry. -/
def Cq.slotEntry (q : Cq) (k : Nat) : List Byte :=
  memBytes q.slots (k % 1024 * 64) 64

/-- Entries published up to a new TAIL. -/
def Cq.publish (q : Cq) (v : BitVec 32) : Cq :=
  let n := (v - q.regs.tail).toNat
  { q with
    entries := q.entries ++ (List.range n).map (fun i => q.slotEntry (q.regs.tail.toNat + i))
    regs := { q.regs with tail := v } }

/-- A TAIL write (R127, R128): a value more than the credit above TAIL, which a value below TAIL also is on the free-running count, is
ignored and sets NO_CREDIT; the queue keeps it to the cycle's end. -/
def Cq.writeTail (q : Cq) (v : BitVec 32) : Cq :=
  if q.regs.credit < (v - q.regs.tail).toNat then
    { q with
      regs := { q.regs with err := q.regs.err.raise 1 }
      tailNow := some (match q.tailNow with | some t => (t.1 ++ [v], t.2) | none => ([v], q.regs.err)) }
  else q.publish v

/-- Entries have been freed: the TAIL writes that the cycle refused are checked against the larger credit (R130). -/
def Cq.retryTail (q : Cq) : Cq :=
  match q.tailNow with
  | none => q
  | some (vs, err) =>
    let bit : BitVec 5 := 1
    let e : Sticky 5 := ⟨(q.regs.err.val &&& ~~~bit) ||| (err.val &&& bit), (q.regs.err.fresh &&& ~~~bit) ||| (err.fresh &&& bit)⟩
    vs.foldl Cq.writeTail { q with regs := { q.regs with err := e }, tailNow := none }

/-- CQ_TAIL_WRITE (R127, R128). -/
def cqTailWrite (func : Fin 5) (win : Fin 72) (val : BitVec 64) (d : Dev) : Dev :=
  match d.queueOf func.val win.val with
  | none => d
  | some c =>
    if !d.pwr.pcieUp || !d.owned c then d
    else d.modCq c (fun q => q.writeTail (val.setWidth 32))

/-- The function that owns a queue: the owner of the plan that holds it. -/
def Dev.queueFunc (d : Dev) (c : Nat) : Nat := ((d.planOf c).map (·.func)).getD 0

/-- Entries up to index `k` freed, with the credit message of R131 (R129, R130). -/
def Dev.freeTo (d : Dev) (c k : Nat) : Dev :=
  let q := d.cq c
  let n := k - q.regs.retire.toNat
  let old := q.regs.credit
  let d := d.modCq c (fun q => { q with
    entries := q.entries.drop n, regs := { q.regs with retire := q.regs.retire + BitVec.ofNat 32 n } })
  let new := (d.cq c).regs.credit
  let d := d.modCq c Cq.retryTail
  let thr := q.regs.irqThreshold.toNat
  if q.regs.irqEn && decide (old < thr) && decide (thr ≤ new) then d.sendMsix (d.queueFunc c) q.regs.irqVec else d

/-- Completion entries written into the ring in order (R142, R143). -/
def Cq.writeCpl (q : Cq) (e : CplEnt) : Cq :=
  if (q.regs.cplTail - q.regs.cplHead).toNat = 256 then
    { q with regs := { q.regs with err := q.regs.err.raise 8, cplLost := satInc q.regs.cplLost } }
  else
    { q with ring := q.ring.set (q.regs.cplTail.toNat % 256) e, regs := { q.regs with cplTail := q.regs.cplTail + 1 } }

/-- A chunk's completion entries in queue order (R142): by the index that the TAG holds, counted from the chunk's first command. -/
def insertCpl (first : Nat) (e : CplEnt) : List CplEnt → List CplEnt
  | [] => [e]
  | x :: r =>
    let key := fun (c : CplEnt) => (c.tag.toNat % 2 ^ 20 + 2 ^ 20 - first % 2 ^ 20) % 2 ^ 20
    if key e < key x then e :: x :: r else x :: insertCpl first e r
def queueOrder (first : Nat) (l : List CplEnt) : List CplEnt := l.foldl (fun acc e => insertCpl first e acc) []

/-! ### Fetch (R137, R138) -/

/-- The device is the root of a COLL's group (R334, R336). -/
def Dev.isRoot (d : Dev) (bs : List Byte) : Bool :=
  match d.lnk.shapes d.coord (fld bs 8 2) with
  | some sh => rankOf sh == 0
  | none => false

/-- The outcome of checks 3 and 4 and of the zero-field rule on an entry: what ends it early, if anything. -/
def fetchEarly (nCores : Nat) (root : Bool) (bs : List Byte) : Option (BitVec 16 × BitVec 8) :=
  if !opDefined (cmdOp bs) then some (stBadOpcode, 0)
  else if !fieldsOk nCores root bs then some (stBadField, 0)
  else if zeroNop bs then some (stOk, cfZero)
  else none

/-- A queue halts at fetch: its record (R138). -/
def Dev.fetchHalt (d : Dev) (c die : Nat) (tag : BitVec 32) (detail : List (Nat × List Byte)) : Dev :=
  let r := (((d.mkRec 4 2 0x1711 (unitId 3 die)).withTag tag (d.funcOf c)).withCount (d.cq c).regs.exec).withDetail detail
  (d.haltQueue c).writeRecord r

/-- COMMAND_FETCH: the device fetches the next published entry of a queue whose core is mapped (R137, R138).  DESIGN CHOICE: bits [31:20]
of the expected TAG in a halt's detail are written 0, for the queue gives no stream id (log entry 104). -/
def commandFetch (c : Fin 72) (parity : Parity) (d : Dev) : Dev :=
  let q := d.cq c.val
  let site := d.siteOf.getD c.val 0xFF
  let k := q.regs.head.toNat
  match d.planOf c.val, q.entries[(q.regs.head - q.regs.retire).toNat]? with
  | some p, some bs =>
    if q.regs.halted || 80 ≤ site then d
    else
      let die := site / 5
      match parity with
      | .bothBad => d.fetchHalt c.val die 0xFFFFFFFF [(32, [1])]
      | _ =>
        let d :=
          if parity = .mirror then
            (d.modRegs c.val (fun r => { r with err := r.err.raise 16 })).writeRecord
              ((((d.mkRec 1 2 0x1710 (unitId 3 die)).withTag (cmdTag bs) (d.funcOf c)).withCount q.regs.exec).withDetail
                [(32, bytesLE 4 k)])
          else d
        if (cmdTag bs).toNat % 2 ^ 20 ≠ k % 2 ^ 20 then
          d.fetchHalt c.val die (cmdTag bs)
            [(32, [2]), (36, bytesLE 4 (k % 2 ^ 20)), (40, bytesLE 4 (cmdTag bs).toNat)]
        else
          d.modCq c.val (fun q => { q with
            fetched := q.fetched ++ [{ idx := k, bytes := bs, early := fetchEarly p.img.nCores (d.isRoot bs) bs }]
            regs := { q.regs with head := q.regs.head + 1, underrunNow := false } })
  | _, _ => d

/-- The fetched commands of a queue from index `k` up to HEAD, as a replay takes them (R129). -/
def Cq.refetch (q : Cq) (nCores : Nat) (root : List Byte → Bool) (k : Nat) : List Fetched :=
  (List.range (q.regs.head.toNat - k)).map (fun i =>
    let bs := q.entries.getD (k + i - q.regs.retire.toNat) []
    { idx := k + i, bytes := bs, early := fetchEarly nCores (root bs) bs })

/-! ### Sequencer commands -/

/-- Offsets of a step's start and of its promise from the base (R109). -/
def Plan.stepOff (p : Plan) (s : Nat) : Nat := (p.img.steps.getD s ⟨0, 0⟩).stepOff
def Plan.promiseOff (p : Plan) (s : Nat) : Nat := (p.img.steps.getD s ⟨0, 0⟩).promiseOff
/-- Steps of a plan that have begun by now (R120). -/
def Dev.begunSteps (d : Dev) (p : Plan) : Nat := if (p.stepOff p.curStep : Int) ≤ d.age p.base then p.curStep + 1 else p.curStep

/-- The start beat and the promised beat of a step under the plan's base (R115), modulo 2^52 (R43). -/
def Plan.stepStart (p : Plan) (s : Nat) : BitVec 52 := beatAdd p.base (p.stepOff s)
def Plan.promise (p : Plan) (s : Nat) : BitVec 52 := beatAdd p.base (p.promiseOff s)
/-- The beat at an offset from a base is reached, or passed. -/
def Dev.offReached (d : Dev) (base : BitVec 52) (off : Nat) : Bool := decide ((off : Int) ≤ d.age base)
def Dev.offPassed (d : Dev) (base : BitVec 52) (off : Nat) : Bool := decide ((off : Int) < d.age base)

/-- NOP does nothing (R134). -/
def nop (c : Fin 72) (d : Dev) : Dev :=
  match d.issue? c.val opNop with
  | none => d
  | some (x, fl, d) => d.completeNow x fl

/-- WAITB holds later commands until step start + WAIT_OFF; a passed beat is not waited for (R139). -/
def waitb (c : Fin 72) (d : Dev) : Dev :=
  match d.issue? c.val opWaitb with
  | none => d
  | some (x, fl, d) =>
    let off := x.p.stepOff x.step + fld fl.bytes 8 8
    let d := d.completeNow x fl
    if d.offReached x.p.base off then d else d.modCq c.val (fun q => { q with wait := .beat x.p.base off })

/-- WAITB_EXPIRY: the beat is reached (R139). -/
def waitbExpiry (c : Fin 72) (d : Dev) : Dev :=
  match (d.cq c.val).wait with
  | .beat base off => if d.offReached base off then d.modCq c.val (fun q => { q with wait := .none }) else d
  | _ => d

/-- QFENCE: it issues once every earlier command has completed (R139). -/
def qfence (c : Fin 72) (d : Dev) : Dev :=
  match d.issue? c.val opQfence with
  | none => d
  | some (x, fl, d) => d.completeNow x fl

/-- A flag of a site's control core set.  A clear of the same cycle applies first, so the set takes effect at the cycle's end (R141). -/
def Dev.setFlag (d : Dev) (site f : Nat) : Dev :=
  d.modCcr site (fun cc => { cc with flagsSet := cc.flagsSet ||| BitVec.ofNat 64 (2 ^ f) })
/-- The flags as they stand, those set in the present cycle among them. -/
def Ccr.flagsNow (cc : Ccr) : BitVec 64 := cc.flags ||| cc.flagsSet
/-- The cycle ends: the flags that it set are set (R141). -/
def Ccr.settleFlags (cc : Ccr) : Ccr := { cc with flags := cc.flagsNow, flagsSet := 0 }
def Dev.flagSet (d : Dev) (site f : Nat) : Bool := (d.site site).ccr.flagsNow.getLsbD f
/-- What a waiter sees: a flag set before the present cycle. -/
def Dev.flagUp (d : Dev) (site f : Nat) : Bool := (d.site site).ccr.flags.getLsbD f
def Dev.clearFlag (d : Dev) (site f : Nat) : Dev :=
  d.modCcr site (fun cc => { cc with flags := cc.flags &&& ~~~(BitVec.ofNat 64 (2 ^ f)) })

/-- The record of an event sent to a flag already set (R141). -/
def Dev.eventTwice (d : Dev) (tag : BitVec 32) (unit : BitVec 16) (flag target : Nat) : Dev :=
  d.writeRecord (((d.mkRec 0 0 0x1713 unit).withTag tag).withDetail
    [(32, [BitVec.ofNat 8 flag, BitVec.ofNat 8 target])])

/-- EVSEND sets a flag of its own core, or holds the send to another until the chunk's commit (R141). -/
def evsend (c : Fin 72) (d : Dev) : Dev :=
  match d.issue? c.val opEvsend with
  | none => d
  | some (x, fl, d) =>
    let t := fld fl.bytes 8 1
    let f := fld fl.bytes 9 1
    let tag := cmdTag fl.bytes
    if t = 0xFF || t = x.core then
      let d := if d.flagSet x.site f then d.eventTwice tag (siteUnit x.site) f x.core else d
      ((d.setFlag x.site f).restartDeadlock c.val).completeNow x fl
    else
      let h : HeldFlag := { core := x.p.devCore t, flag := f, tag := tag, target := t, unit := siteUnit x.site, isEvsend := true }
      (d.modCq c.val (fun q => { q with heldFlags := q.heldFlags ++ [h] })).completeNow x fl

/-- EVWAIT waits for its flag and clears it (R139, R141). -/
def evwait (c : Fin 72) (d : Dev) : Dev :=
  match d.issue? c.val opEvwait with
  | none => d
  | some (x, fl, d') =>
    let f := fld fl.bytes 8 1
    if d'.flagUp x.site f then (d'.clearFlag x.site f).completeNow x fl else d

/-- The queue's next command is an EVWAIT on this flag that only the flag holds back: it is served before a thread's
WAITF (R264). -/
def Dev.evwaitOn (d : Dev) (c f : Nat) : Bool :=
  match d.issue? c opEvwait with
  | some (_, fl, _) => fld fl.bytes 8 1 == f
  | none => false

/-- MARK: its trace record is written with the chunk's commit (R388). -/
def mark (c : Fin 72) (d : Dev) : Dev :=
  match d.issue? c.val opMark with
  | none => d
  | some (x, fl, d) => d.completeNow x fl

/-! ### The mover: COPY and ATOM -/

/-- Bytes a COPY moves per unit of work: the mover's width (R152). -/
def copyPiece : Nat := 512

/-- One piece of a COPY; the bytes are those the source held when the COPY issued. -/
def copyUnits (x : Ctx) (src dst n : Nat) (data : List Byte) : Nat → Nat → Dev → Flight → Dev × Flight
  | 0, _, d, fl => (d, fl.done)
  | fuel + 1, i, d, fl =>
    let o := i * copyPiece
    let len := min copyPiece (n - o)
    match d.unitWrite x.c [(src + o, len)] [(dst + o, (data.drop o).take len)] with
    | (d, .done) => copyUnits x src dst n data fuel (i + 1) d fl
    | (d, .bad a) => (d, fl.bad (some a))
    | (d, .poisoned a) => (d, fl.poison a)
    | (d, .fault) => (d, fl)
    | (d, .wait) => (d, fl)

/-- COPY moves BYTES from SRC to DST (R134).  Where a line of it would need a 13th pending way, or a wipe holds one, the whole COPY waits
(R285, R290; log entry 107). -/
def copy (c : Fin 72) (d : Dev) : Dev :=
  match d.issue? c.val opCopy with
  | none => d
  | some (x, fl, d) =>
    let src := addrFld fl.bytes 8
    let dst := addrFld fl.bytes 16
    let n := fld fl.bytes 24 4
    if !x.mayRead d src n then d.putFlight c.val (fl.bad (some src))
    else if !d.canWrite x.p x.core x.site dst n then d.putFlight c.val (fl.bad (some dst))
    else if !d.waysFree c.val dst (min n 0x200000) then (d.waitWay dst).putFlight c.val fl
    else
      let r := copyUnits x src dst n (d.view c.val src n) ((n + copyPiece - 1) / copyPiece) 0 d fl
      if r.2.ended then r.1.putFlight c.val r.2 else d.putFlight c.val fl

/-- The operations a DTYPE takes (R286). -/
def atomOk (op dt : Nat) : Bool :=
  match dt with
  | 0 => op ≤ 2
  | 1 => op ≤ 2
  | 2 => op ≤ 4
  | 3 => op = 0
  | _ => 3 ≤ op && op ≤ 5

/-- The atomic region that holds a range, by its DTYPE. -/
def Layout.atomicAt (l : Layout) (a n dt : Nat) : Option RegionEnt :=
  l.regions.find? (fun r => r.kind == 1 && r.dtype == dt && inside a n r.base r.len)

/-- The plan's MAX of a resource of R146 by its Id. -/
def Plan.maxOf (p : Plan) (id : Nat) : Nat := p.img.maxes.getD (id - 1) 0

/-- ATOM logs its elements for application at commit (R286, R287). At the core's bound of uncompleted ATOM commands, the plan's MAX
where that is less, it waits (R146, R147). -/
def atom (c : Fin 72) (d : Dev) : Dev :=
  match d.issue? c.val opAtom with
  | none => d
  | some (x, fl, d') =>
    if min 64 (x.p.maxOf 2) ≤ ((d.cq c.val).flights.filter (fun f => cmdOp f.bytes == opAtom && f.idx != fl.idx)).length then d
    else
    let d := d'
    let bs := fl.bytes
    let addr := addrFld bs 8
    let op := fld bs 16 1
    let dt := fld bs 17 1
    let n := fld bs 18 2
    let w := atomBytes dt
    let cas := op = 5
    let src := if cas then addrFld bs 48 else addrFld bs 24
    let srcLen := if cas then 8 else n * w
    let rets := if cas then d.canWrite x.p x.core x.site src 8 else true
    if !atomOk op dt || (cas && n != 1) || addr % w != 0 || (x.p.img.layout.atomicAt addr (n * w) dt).isNone then
      d.putFlight c.val (fl.bad (some addr))
    else if !x.inOwn src srcLen || !rets then d.putFlight c.val (fl.bad (some src))
    else if 16384 < (d.cq c.val).log.length + n then d.putFlight c.val (fl.bad none)
    else
      match d.unitWrite c.val (if cas then [] else [(src, srcLen)]) [] with
      | (d, .poisoned a) => d.putFlight c.val (fl.poison a)
      | (d, .bad a) => d.putFlight c.val (fl.bad (some a))
      | (d, .fault) => d.putFlight c.val fl
      | (d, .wait) => d.putFlight c.val fl
      | (d, .done) =>
        let data := d.view c.val src srcLen
        let ents : List AtomEnt := (List.range n).map (fun i =>
          { op := op, dtype := dt, addr := addr + i * w, operand := if cas then 0 else fieldLE data (i * w) w
            compare := BitVec.ofNat 64 (fld bs 32 8), swap := BitVec.ofNat 64 (fld bs 40 8), ret := src, cmd := fl.idx })
        (d.modCq c.val (fun q => { q with log := q.log ++ ents })).putFlight c.val fl.done

/-! ### COLL, SEND, RECV, SOLVE at issue -/

/-- A range that SEND, COLL and SOLVE may read in the plan's own stack ranges, and one they may deliver to (R283, R294,
R329, R336). -/
def Plan.stackRead (p : Plan) (a n : Nat) : Bool := p.img.layout.inRanges a n && !p.img.layout.inShadow a n
def Dev.stackWrite (d : Dev) (p : Plan) (a n : Nat) : Bool :=
  p.stackRead a n && !p.img.layout.inHist a n && !d.meetsShared a n
/-- A range that a SOLVE may read: no shared region (R294). -/
def Dev.privateRead (d : Dev) (p : Plan) (a n : Nat) : Bool := p.stackRead a n && !d.meetsShared a n
def Dev.sharedRead (d : Dev) (p : Plan) (a n : Nat) : Bool :=
  match d.sharedAt a n with | some r => p.img.layout.sharedRead.getLsbD r | none => false

/-- The parameters of a COLL, with the fields that its operation ignores at 0 (R336, R339). -/
def collParams (bs : List Byte) (size : Nat) : CollParams :=
  let op := fld bs 10 1
  let red := if op ≤ 1 then fld bs 11 1 else 0
  let sums := op ≤ 1 && red ≤ 1
  let wire := if sums then fld bs 14 1 else 0
  { op := op, red := red
    srcFmt := if op = 5 then 0 else fld bs 12 1
    dstFmt := if op = 5 then 0 else fld bs 13 1
    wire := wire
    bytes := if op = 5 then 0 else fld bs 32 8
    anchor := if sums && wire = 0 then fld bs 40 2 else 0
    size := size }

/-- Bytes of SRC and DST that a member of rank `r` uses (R340). -/
def CollParams.srcLen (q : CollParams) (r : Nat) : Nat :=
  if q.op = 5 then 0 else if q.op = 3 && r != 0 then 0 else q.bytes
def CollParams.dstLen (q : CollParams) : Nat :=
  if q.op = 5 then 0
  else if q.op = 0 then q.bytes / wideBytes q.srcFmt * wideBytes q.dstFmt
  else if q.op = 1 then q.bytes / wideBytes q.srcFmt / q.size * wideBytes q.dstFmt
  else if q.op = 2 then q.size * q.bytes
  else q.bytes

/-- A COLL's own checks (R336): the address that the rule names where one breaks them, none inside where another field does. -/
def collBad (d : Dev) (p : Plan) (bs : List Byte) (q : CollParams) (r : Nat) : Option (Option Nat) :=
  let wide := fun f => f == 9 || f == 10
  let w := if q.srcFmt = 9 then 2 else 4
  let src := addrFld bs 16
  let dst := addrFld bs 24
  let shareOk := src == dst && ((q.op == 0 && (q.dstFmt == 9 || q.srcFmt == 10)) || (q.op == 3 && r == 0))
  let fields := (2 ≤ q.op || (wide q.srcFmt && wide q.dstFmt)) &&
    (q.op < 2 || q.op == 5 || q.srcFmt == q.dstFmt) &&
    !(q.op ≤ 1 && q.red ≤ 1 && q.wire == 0 && 1024 < q.size) &&
    (2 ≤ q.op || q.bytes % w == 0) &&
    (q.op != 1 || q.bytes % (q.size * w) == 0) && (q.op != 4 || q.bytes % q.size == 0)
  if !fields then some none
  else if q.srcLen r != 0 && !p.stackRead src (q.srcLen r) && !d.sharedRead p src (q.srcLen r) then some (some src)
  else if q.dstLen != 0 && !d.stackWrite p dst q.dstLen then some (some dst)
  else if meets src (q.srcLen r) dst q.dstLen && !shareOk then some (some dst)
  else none

/-- COLL: checked at issue, held to the commit of its chunk (R336, R337). -/
def coll (c : Fin 72) (d : Dev) : Dev :=
  match d.issue? c.val opColl with
  | none => d
  | some (x, fl, d') =>
    let mine := (d.col.jobs.filter (fun j => j.handle == x.p.handle && !j.completed)).length
    if 32 ≤ (d.col.jobs.filter (fun j => !j.completed)).length || x.p.maxOf 3 ≤ mine then d
    else
      let bs := fl.bytes
      let g := fld bs 8 2
      match (if bitsOf g 15 12 = 0 then none else d.lnk.shapes d.coord g) with
      | none => d'.putFlight c.val (fl.bad none)
      | some sh =>
        let q := collParams bs (groupSize sh)
        match collBad d x.p bs q (rankOf sh) with
        | some a => d'.putFlight c.val (fl.bad a)
        | none =>
          let job : CollJob :=
            { core := c.val, handle := x.p.handle, idx := fl.idx, tag := cmdTag bs, group := g, params := q
              rank := rankOf sh, src := addrFld bs 16, dst := addrFld bs 24, timeout := fld bs 44 4 }
          ({ d' with col := { d'.col with jobs := d'.col.jobs ++ [job] } }).putFlight c.val fl.done

/-- PEER of a SEND or RECV names another device of the system (R329). -/
def Dev.peerOk (d : Dev) (peer : Nat) : Bool :=
  peer < 0x8000 && d.lnk.inDims (BitVec.ofNat 15 peer) && BitVec.ofNat 15 peer != d.coord

/-- SEND: checked at issue, held to the commit of its chunk (R329). -/
def send (c : Fin 72) (d : Dev) : Dev :=
  match d.issue? c.val opSend with
  | none => d
  | some (x, fl, d') =>
    let bs := fl.bytes
    let mine := (d.lnk.sends.filter (fun j => j.handle == x.p.handle)).length
    if 256 ≤ d.lnk.sends.length || x.p.maxOf 4 ≤ mine then d
    else if !d.peerOk (fld bs 8 2) then d'.putFlight c.val (fl.bad none)
    else if !x.p.stackRead (addrFld bs 16) (fld bs 24 4) then d'.putFlight c.val (fl.bad (some (addrFld bs 16)))
    else
      let job : SendJob :=
        { core := c.val, handle := x.p.handle, idx := fl.idx, tag := cmdTag bs, peer := BitVec.ofNat 15 (fld bs 8 2)
          channel := BitVec.ofNat 16 (fld bs 10 2), src := addrFld bs 16, bytes := fld bs 24 4 }
      ({ d' with lnk := { d'.lnk with sends := d'.lnk.sends ++ [job] } }).putFlight c.val fl.done

/-- The bytes that a matched RECV takes have arrived: its own count, or the sender's where that is less (R330). -/
def RecvJob.arrived (j : RecvJob) : Bool :=
  match j.match? with | some n => decide (min n j.bytes ≤ j.got) | none => false

/-- The flight of a RECV whose data has arrived ends; bytes delivered are pending lines of its chunk, and meeting poison ends it POISONED.
Beyond the chunk's lines it ends with BAD_FIELD, and it waits for a pending way or while a wipe holds its bytes (R280, R285, R290, R330). -/
def Dev.finishRecv (d : Dev) (j : RecvJob) : Dev :=
  let pend := cellSetCells (d.cq j.core).pend j.lines
  let n := min j.bytes j.got
  let close := fun (g : Flight → Flight) (fs : List Flight) => fs.map (fun (f : Flight) => if f.idx == j.idx && !f.ended then g f else f)
  if d.wipeHolds j.dst n then d
  else if !pendOk pend then d.modCq j.core (fun q => { q with flights := close (fun f => f.bad (some j.dst)) q.flights })
  else if !d.waysFree j.core j.dst n then d.waitWay j.dst
  else
    (d.writeLines j.core j.dst n).modCq j.core (fun q => { q with
      pend := pend
      flights := close (fun f => if j.poisoned then { f with status := stPoisoned, ended := true } else f.done) q.flights })

/-- A RECV that has not completed (R146). -/
def Dev.recvOpen (d : Dev) (j : RecvJob) : Bool := !j.arrived || (d.cq j.core).flights.any (fun f => f.idx == j.idx && !f.ended)

/-- RECV: posted at issue; a waiting request of the peer is matched in its order and granted; the recompute of a chunk
takes over the RECV it posted before (R329, R330, R332). -/
def recv (c : Fin 72) (d : Dev) : Dev :=
  match d.issue? c.val opRecv with
  | none => d
  | some (x, fl, d') =>
    let bs := fl.bytes
    let kept := d.lnk.recvs.find? (fun j => j.core == c.val && j.handle == x.p.handle && j.idx == fl.idx)
    let posted := d.lnk.recvs.filter d.recvOpen
    let mine := (posted.filter (fun j => j.handle == x.p.handle)).length
    match kept with
    | some j => let d := d'.putFlight c.val fl; if j.arrived then d.finishRecv j else d
    | none =>
      if 256 ≤ posted.length || x.p.maxOf 5 ≤ mine then d
      else if !d.peerOk (fld bs 8 2) then d'.putFlight c.val (fl.bad none)
      else if !d.stackWrite x.p (addrFld bs 16) (fld bs 24 4) then d'.putFlight c.val (fl.bad (some (addrFld bs 16)))
      else
        let peer := BitVec.ofNat 15 (fld bs 8 2)
        let ch := BitVec.ofNat 16 (fld bs 10 2)
        let hit := d.lnk.requests.find? (fun r => r.peer == peer && r.channel == ch)
        let job : RecvJob :=
          { core := c.val, handle := x.p.handle, idx := fl.idx, tag := cmdTag bs, peer := peer, channel := ch
            dst := addrFld bs 16, bytes := fld bs 24 4, timeout := fld bs 28 4, match? := hit.map (·.bytes) }
        let d := ({ d' with lnk := { d'.lnk with
            recvs := d'.lnk.recvs ++ [job]
            requests := (match hit with | some r => d'.lnk.requests.erase r | none => d'.lnk.requests) } }).putFlight
          c.val fl
        if hit.isSome then d.sendControl peer ch (.grant job.bytes) else d

/-- A SOLVE's own checks that need no address (R294); the result bytes of KIND 6 depend on the descriptors. -/
def solveOk (x : Ctx) (bs : List Byte) : Bool :=
  let kind := fld bs 8 1
  let n := fld bs 10 2
  let st := x.p.img.steps.getD x.step ⟨0, 0⟩
  (kind == 6 || n ≤ 512) && fld bs 12 2 ≤ 252 &&
  fld bs 32 8 ≤ st.promiseOff - st.stepOff

/-- Input bytes of one matrix (R296), and of a TLH-S2 descriptor (R307). -/
def solveItem (kind n : Nat) : Nat := if kind = 6 then 64 else if kind = 3 then 8 * n * n else 4 * n * n

/-- The ROWS of a KIND 6 job's descriptors, as committed memory holds them (R307). -/
def Dev.sparseRows (d : Dev) (src batch : Nat) : List Nat :=
  (List.range batch).map (fun i => fld (memBytes d.mem.bytes (src + 64 * i) 4) 0 4)

/-- Result bytes of a job: 4N² for each matrix, or 4 × ROWS for each descriptor of KIND 6 (R299, R307). -/
def Dev.resultBytes (d : Dev) (kind n batch src : Nat) : Nat :=
  if kind = 6 then 4 * (d.sparseRows src batch).sum else batch * 4 * n * n

/-- SOLVE: checked at issue, submitted at the commit of its chunk (R293, R294).  The result bytes of a KIND 6 job follow
from its descriptors, as committed memory holds them at issue. -/
def solve (c : Fin 72) (d : Dev) : Dev :=
  match d.issue? c.val opSolve with
  | none => d
  | some (x, fl, d') =>
    let bs := fl.bytes
    let kind := fld bs 8 1
    let n := fld bs 10 2
    let batch := fld bs 12 2
    let live := (d.slv.filter (·.inService)).length
    let bound := if live = 0 then 64 else min 64 (16 * live)
    let mine := (d.solves.filter (fun j => j.handle == x.p.handle)).length
    let src := addrFld bs 16
    let dst := addrFld bs 24
    let ra := addrFld bs 40
    let room := d.resultBytes kind n batch src
    if bound ≤ d.solves.length || x.p.maxOf 6 ≤ mine then d
    else if !solveOk x bs || 16 * 2 ^ 20 < room then d'.putFlight c.val (fl.bad none)
    else if dst % 4096 != 0 || !d.stackWrite x.p dst (4096 + room) then d'.putFlight c.val (fl.bad (some dst))
    else if src % 64 != 0 || !d.privateRead x.p src (batch * solveItem kind n) then d'.putFlight c.val (fl.bad (some src))
    else if ra % 64 != 0 || !d.privateRead x.p ra 32 then d'.putFlight c.val (fl.bad (some ra))
    else
      let job : SolveJob :=
        { core := c.val, handle := x.p.handle, idx := fl.idx, tag := cmdTag bs, step := x.step, kind := kind, n := n
          batch := batch, src := src, dst := dst, deadlineOff := fld bs 32 8, rangeAddr := ra, room := room }
      ({ d' with solves := d'.solves ++ [job] }).putFlight c.val fl.done

/-! ### VENT (R377, R378) -/

/-- The chunk and the vent window of a node stand ended. -/
def Plan.nodeDone (p : Plan) : Node → Bool
  | .chunk i => match p.chunkStates.getD i .waiting with | .committed _ => true | .discarded => true | _ => false
  | .vent i => match p.ventStates.getD i .waiting with | .ended _ => true | _ => false

/-- The next node of a plan core's stream (R111). -/
def Plan.nextNode (p : Plan) (core : Nat) : Option Node := ((p.img.nodes.getD core []).find? (fun n => !p.nodeDone n))

/-- Beats of a test (R377). -/
def testLen (t : Nat) : Nat := match t with | 1 => 22000 | 2 => 9000 | 3 => 7000 | 4 => 5000 | _ => 0

/-- A VENT outside the running chunk, next in its queue. -/
def Dev.ventCmd? (d : Dev) (c : Nat) : Option (Plan × Nat × Fetched) :=
  let q := d.cq c
  match d.planOf c, q.fetched with
  | some p, f :: _ =>
    let site := d.siteOf.getD c 0xFF
    if d.sequencing && cmdOp f.bytes = opVent && q.run.isNone && q.vent.isNone && site < 80 && d.siteState site == .inService &&
        p.state == .running && p.retiring.isNone && !q.regs.halted && !q.regs.frozen && !q.brkMatch f && q.wait == .none
      then some (p, site, f) else none
  | _, _ => none

/-- A VENT whose LEN is not that of its entry: the window is held all the same (R378). -/
def VentEnt.misfit (v : VentEnt) (bs : List Byte) (e : Option (BitVec 16 × BitVec 8)) : Bool :=
  fld bs 12 4 != v.len && (match e with | some (st, _) => st == stBadField | none => true)

/-- The context of a VENT: the chunk fields are those of no chunk. -/
def ventCtx (p : Plan) (c site idx : Nat) : Ctx :=
  ⟨c, { handle := p.handle, idx := idx, release := 0, execAtStart := 0, flagCopy := 0 }, p, site, p.planCore c⟩

/-- The vent-table entries of a plan core in table order: their indices. -/
def Plan.ventsOf (p : Plan) (core : Nat) : List Nat :=
  (List.range p.img.vents.length).filter (fun i => (p.img.vents.getD i ⟨0, 0, 0, 0, 0⟩).core == core)

def Plan.vent (p : Plan) (i : Nat) : VentEnt := p.img.vents.getD i ⟨0, 0, 0, 0, 0⟩

/-- VENT enters the window of its vent-table entry, with the site's full demand granted, and starts its test; with
another LEN than the entry's it only holds the window (R166, R378). -/
def vent (c : Fin 72) (d : Dev) : Dev :=
  match d.ventCmd? c.val with
  | none => d
  | some (p, site, f) =>
    let core := p.planCore c.val
    let k := (d.cq c.val).vents
    match (p.ventsOf core)[k]? with
    | none => d
    | some i =>
      let v := p.vent i
      if ((p.earlyOf v.step f).isSome && !v.misfit f.bytes (p.earlyOf v.step f)) || p.nextNode core != some (.vent i) || !d.offReached p.base (p.stepOff v.step + v.ventOff) then d
      else
        let d0 := d.modLbk site (fun l => l.setDemand 4)
        if (d.site site).lbk.grant.toNat < 4 then d0
        else
          let ok := fld f.bytes 12 4 = v.len
          let fl : Flight := { idx := f.idx, bytes := f.bytes, status := if ok then stOk else stBadField }
          let d := (d0.modCq c.val (fun q => { q with
            fetched := q.fetched.tail, next := f.idx + 1, flights := [fl], frozenAt := none
            vents := k + 1, vent := some (i, ok) })).modPlan p.handle (fun p => { p with
              ventStates := p.ventStates.set i (.running d.bt.beat) })
          if ok then
            { d with health := { d.health with tests := d.health.tests ++ [{ site := site, id := fld f.bytes 8 2, start := some d.bt.beat }] } }
          else d

/-! ### Completion (R139 to R145) -/

/-- The flight with an index, if it may complete now: commands of one unit complete in queue order (R139). -/
def Dev.endedFlight? (d : Dev) (c idx : Nat) : Option Flight :=
  let fls := (d.cq c).flights
  match fls.find? (fun f => f.idx == idx) with
  | none => none
  | some f =>
    if f.ended && fls.all (fun g => decide (idx ≤ g.idx) || unitOf (cmdOp g.bytes) != unitOf (cmdOp f.bytes)) then some f
    else none

/-- No command of a command's unit is in flight, so that it may complete in queue order without having entered the unit (R139). -/
def Dev.unitFree (d : Dev) (c : Nat) (bs : List Byte) : Bool := (d.cq c).flights.all (fun f => unitOf (cmdOp f.bytes) != unitOf (cmdOp bs))

/-- What the completion of a command leaves in its unit: a WLOAD's set is READY or EMPTY (R155), a RECV's job ends
(R330). -/
def Dev.afterUnit (d : Dev) (x : Ctx) (f : Flight) : Dev :=
  let op := cmdOp f.bytes
  if op = opWload then
    d.modLbk x.site (fun l =>
      let w := l.inactiveSet
      if w.st == .loading then l.setInactive { w with st := if f.status = stOk then .ready else .empty } else l)
  else d

/-- The window's VENT completes LEN beats of its entry after it issued; its queue entry is freed then (R378). -/
def Dev.completeVent (d : Dev) (p : Plan) (c i : Nat) (f : Flight) : Dev :=
  let site := d.siteOf.getD c 0xFF
  let x := ventCtx p c site 0
  let d := d.complete x f.bytes f.status f.cflags none
  let q := d.cq c
  let d := d.modCq c (fun q =>
    let q := q.cpls.foldl Cq.writeCpl q
    { q with flights := [], vent := none, cpls := [], trace := [] })
  let d := d.stageAll p.handle p.func q.trace
  let d := (d.modPlan p.handle (fun p => { p with ventStates := p.ventStates.set i (.ended d.bt.beat) })).freeTo c (f.idx + 1)
  d.modLbk site (fun l => l.setDemand 0)

/-- A VENT that the fetch checks or VMASK end, or that finds no vent-table entry left, completes at once; it takes its
entry with it and occupies no window (R137, R378). -/
def Dev.skipVent (d : Dev) (p : Plan) (c site : Nat) (f : Fetched) : Dev :=
  let core := p.planCore c
  let k := (d.cq c).vents
  let i := (p.ventsOf core)[k]?
  let e := match i with
    | none => some (stBadField, 0)
    | some i => if p.nextNode core = some (Node.vent i) && !(p.vent i).misfit f.bytes (p.earlyOf (p.vent i).step f) then p.earlyOf (p.vent i).step f else none
  match e with
  | none => d
  | some (st, cf) =>
    let d := d.modCq c (fun q => { q with fetched := q.fetched.tail, next := f.idx + 1, vents := k + 1, frozenAt := none })
    let d := d.complete (ventCtx p c site 0) f.bytes st cf none
    let q := d.cq c
    let d := d.modCq c (fun q => { (q.cpls.foldl Cq.writeCpl q) with cpls := [], trace := [] })
    let d := d.stageAll p.handle p.func q.trace
    (d.modPlan p.handle (fun p => { p with
      ventStates := match i with | some i => p.ventStates.set i (.ended d.bt.beat) | none => p.ventStates })).freeTo c
      (f.idx + 1)

/-- The address of a command that fetch check 4 refuses, where one of those it uses has a bit of [63:48] set (R136, R138). -/
def Dev.wideAddr (d : Dev) (bs : List Byte) (st : BitVec 16) : Option Nat :=
  if st = stBadField then ((usedAddrs (d.isRoot bs) bs).map (addrFld bs)).find? (fun a => decide (2 ^ 48 ≤ a)) else none

/-- COMMAND_COMPLETE: the command of an index completes (R140): one whose work has ended, a VENT at the end of its
window, or the queue's next command when the fetch checks, VMASK or a zero field end it, or when it is a VENT among a chunk's
commands with no vent-table entry left (R378).  A skipped one occupies no unit (R247). -/
def commandComplete (c : Fin 72) (idx : Nat) (d : Dev) : Dev :=
  match (d.cq c.val).vent with
  | some (i, _) =>
    (match d.planOf c.val, (d.cq c.val).flights with
     | some p, [f] =>
       (match p.ventStates.getD i .waiting with
        | .running b =>
          if f.idx = idx && (p.vent i).len ≤ d.since b && !d.health.tests.any (fun t => t.site == d.siteOf.getD c.val 0xFF) then
            d.completeVent p c.val i f
          else d
        | _ => d)
     | _, _ => d)
  | none =>
    match d.ctx? c.val with
    | none =>
      (match d.ventCmd? c.val with
       | some (p, site, f) => if f.idx = idx then d.skipVent p c.val site f else d
       | none => d)
    | some x =>
      match d.endedFlight? c.val idx with
      | some f =>
        let d := d.modCq c.val (fun q => { q with flights := q.flights.filter (fun g => g.idx != idx) })
        let d := (d.complete x f.bytes f.status f.cflags f.badAddr).afterUnit x f
        d.updateDemand c.val x.site
      | none =>
        match d.nextCmd? x with
        | none => d
        | some f =>
          match x.p.earlyOf x.chunk.step f with
          | some (st, cf) =>
            if f.idx = idx && (cf = cfSkipped || d.unitFree c.val f.bytes) then (d.takeHead x f).complete x f.bytes st cf (d.wideAddr f.bytes st) else d
          | none =>
            if f.idx = idx && d.unitFree c.val f.bytes && cmdOp f.bytes = opVent && (x.p.ventsOf (x.p.planCore x.c)).length ≤ (d.cq x.c).vents then
              (d.takeHead x f).complete x f.bytes stBadField 0 none
            else d

/-! ### Breaks (R148, R121) -/

/-- The plan of a core enters the debug-held state (R121); the open records of its streams and of the DEFAULT stream are
closed (R396). -/
def Dev.debugHold (d : Dev) (p : Plan) : Dev :=
  if p.state == .running then
    let d := (d.modPlan p.handle (fun p => { p with
        state := .debugHeld, holdCause := 0x0302, resumeBeat := none, begun := d.begunSteps p })).writeRecord
      (d.mkRec 0 0 0x0302 0)
    Dev.closeWhere (fun e => e.plan == some p.handle || (e.plan == none && e.sid == d.trc.sidDefault)) d.trc.staged.length d
  else d

/-- BREAK_FIRE: a comparator fires before the queue's next command; the queue freezes there and the running plan is held (R121, R148).  A
count that commands in flight reach in a frozen queue fires there too. -/
def breakFire (c : Fin 72) (d : Dev) : Dev :=
  let q := d.cq c.val
  match d.planOf c.val with
  | none => d
  | some p =>
    let count := q.regs.brkCountEn && q.brkDue
    let tag := match q.fetched with
      | f :: _ => q.brkMatch f && !count
      | [] => false
    if (q.regs.frozen && !count) || q.regs.halted || !(p.state == .running || p.state == .debugHeld) || !(count || tag) then d
    else
      let d := d.modCq c.val (fun q => { q with
        frozenAt := some q.next
        brkDue := false
        regs := { q.regs with frozen := true, brkHit := true, brkCountEn := q.regs.brkCountEn && !count } })
      d.debugHold p

/-! ### The ramp governor (R167, R168) -/

/-- GRANT_HOLD_EXPIRY: the hold has run its 300 cycles without demand (R167). -/
def grantHoldExpiry (site : Fin 80) (d : Dev) : Dev :=
  let l := (d.site site.val).lbk
  if l.holding && l.hold = 0 then d.modLbk site.val (fun l => { l with holding := false }) else d

/-- One pass of the governor over the sites in its order: what is left of the allowance, and the grants moved by one
quarter (`up` for rises, otherwise falls). -/
def rampPass (up : Bool) : List Nat → Nat → List Site → Nat × List Site
  | [], n, ss => (n, ss)
  | _, 0, ss => (0, ss)
  | i :: r, n + 1, ss =>
    let l := (ss.getD i {}).lbk
    if (if up then decide (l.grant.toNat < l.request) else decide (l.request < l.grant.toNat)) then
      rampPass up r n (ss.modify i (fun s => { s with lbk := { s.lbk with
        grant := if up then s.lbk.grant + 1 else s.lbk.grant - 1 } }))
    else rampPass up r (n + 1) ss

/-- Passes until the allowance is used up or every request is met; four passes meet every request. -/
def rampPasses (up : Bool) (order : List Nat) : Nat → Nat → List Site → List Site
  | 0, _, ss => ss
  | k + 1, n, ss =>
    let r := rampPass up order n ss
    rampPasses up order k r.1 r.2

/-- RAMP_GOVERNOR_BEAT: rises and falls dealt on this beat, once; what a fence took on it counts as a fall (R168). -/
def rampGovernorBeat (d : Dev) : Dev :=
  if d.rampBeat = some d.bt.beat then d
  else
    let b := d.beatN % 80
    let order := (List.range 80).map (fun i => (b + i) % 80)
    let n := d.rampStep.toNat
    let fell := if d.fenceFall.1 = d.bt.beat then d.fenceFall.2 else 0
    { d with rampBeat := some d.bt.beat, sites := rampPasses false order 4 (n - fell) (rampPasses true order 4 n d.sites) }

/-! ### Commands -/

/-- COMMAND_SLOT_WRITE (R128). -/
def execCommandSlotWrite (func : Fin 5) (win : Fin 72) (off : Fin 65536) (data : List Byte) (st : State) : Out State := run (commandSlotWrite func win off data) st
/-- CQ_TAIL_WRITE (R128). -/
def execCqTailWrite (func : Fin 5) (win : Fin 72) (val : BitVec 64) (st : State) : Out State := run (cqTailWrite func win val) st
/-- COMMAND_FETCH (R137). -/
def execCommandFetch (c : Fin 72) (parity : Parity) (st : State) : Out State := run (commandFetch c parity) st
/-- BREAK_FIRE (R148). -/
def execBreakFire (c : Fin 72) (st : State) : Out State := run (breakFire c) st
/-- NOP (R134). -/
def execNop (c : Fin 72) (st : State) : Out State := run (nop c) st
/-- WAITB (R139). -/
def execWaitb (c : Fin 72) (st : State) : Out State := run (waitb c) st
/-- WAITB_EXPIRY (R139). -/
def execWaitbExpiry (c : Fin 72) (st : State) : Out State := run (waitbExpiry c) st
/-- QFENCE (R139). -/
def execQfence (c : Fin 72) (st : State) : Out State := run (qfence c) st
/-- EVSEND (R141). -/
def execEvsend (c : Fin 72) (st : State) : Out State := run (evsend c) st
/-- EVWAIT (R141). -/
def execEvwait (c : Fin 72) (st : State) : Out State := run (evwait c) st
/-- COPY (R134). -/
def execCopy (c : Fin 72) (st : State) : Out State := run (copy c) st
/-- ATOM (R287). -/
def execAtom (c : Fin 72) (st : State) : Out State := run (atom c) st
/-- COLL (R337). -/
def execColl (c : Fin 72) (st : State) : Out State := run (coll c) st
/-- SEND (R329). -/
def execSend (c : Fin 72) (st : State) : Out State := run (send c) st
/-- RECV (R329). -/
def execRecv (c : Fin 72) (st : State) : Out State := run (recv c) st
/-- SOLVE (R293). -/
def execSolve (c : Fin 72) (st : State) : Out State := run (solve c) st
/-- VENT (R378). -/
def execVent (c : Fin 72) (st : State) : Out State := run (vent c) st
/-- MARK (R388). -/
def execMark (c : Fin 72) (st : State) : Out State := run (mark c) st
/-- COMMAND_COMPLETE (R140). -/
def execCommandComplete (c : Fin 72) (idx : Nat) (st : State) : Out State := run (commandComplete c idx) st
/-- GRANT_HOLD_EXPIRY (R167). -/
def execGrantHoldExpiry (site : Fin 80) (st : State) : Out State := run (grantHoldExpiry site) st
/-- RAMP_GOVERNOR_BEAT (R168). -/
def execRampGovernorBeat (s : State) : Out State := run rampGovernorBeat s

end Sys2Proof.Machine
end

