-- ==== Sys2Proof/Machine/Solver.lean ====
section
/-! DEFINITION. The batched solver engines (file 15): fixed-point factorisations and roots, dealing, finishing of a matrix
and publication.  Rounding details that R298 leaves to be inferred are in log entry 25. -/

namespace Sys2Proof.Machine

/-! ### Fixed point (R298) -/

/-- What an engine has met: OVF, INX, TINY_PIVOT, NEG_PIVOT, and the pivots replaced. -/
structure SlvSt where
  ovf : Bool := false
  inx : Bool := false
  tiny : Bool := false
  negp : Bool := false
  clamped : Nat := 0

/-- A matrix of integers, row by row. -/
abbrev IMat := List (List Int)

def IMat.get (m : IMat) (i j : Nat) : Int := (m.getD i []).getD j 0
def IMat.put (m : IMat) (i j : Nat) (v : Int) : IMat := m.modify i (fun r => r.set j v)
def IMat.zero (n : Nat) : IMat := List.replicate n (List.replicate n 0)

def maxInt : Int := 2 ^ 31 - 1

/-- A quotient `n / d`, `d > 0`, rounded to nearest with ties to even. -/
def rneDiv (n : Int) (d : Nat) : Int :=
  let q := n / d
  let r := (n % d).toNat
  if 2 * r < d then q else if d < 2 * r then q + 1 else if q % 2 = 0 then q else q + 1

/-- A stored element: the quotient rounded once, saturated at ±(2^31 - 1). -/
def SlvSt.store (s : SlvSt) (n : Int) (d : Nat) : Int × SlvSt :=
  let q := rneDiv n d
  let s := { s with inx := s.inx || q * d != n }
  if maxInt < q then (maxInt, { s with ovf := true })
  else if q < -maxInt then (-maxInt, { s with ovf := true })
  else (q, s)

/-- An exact value `m · 2^e` stored with `f` fraction bits. -/
def SlvSt.storeDy (s : SlvSt) (x : Dy) (f : Nat) : Int × SlvSt :=
  let k := x.e + f
  if 0 ≤ k then s.store (x.m * 2 ^ k.toNat) 1 else s.store x.m (2 ^ (-k).toNat)

/-- The reciprocal of `v / 2^f`, correctly rounded into `f` fraction bits; that of 0 is a free value. -/
def SlvSt.recip (s : SlvSt) (v : Int) (f : Nat) : Int × SlvSt :=
  if v = 0 then ((BitVec.ofInt 32 (Config.recipOfZero f)).toInt, s)
  else if v < 0 then s.store (-(2 ^ (2 * f))) v.natAbs
  else s.store (2 ^ (2 * f)) v.natAbs

/-- The square root of an exact value, correctly rounded into `f` fraction bits. -/
def SlvSt.sqrt (s : SlvSt) (x : Dy) (f : Nat) : Int × SlvSt :=
  if x.m ≤ 0 then (0, s) else s.storeDy (stickySqrt x) f

/-! ### The range record (R297) -/

structure SlvRange where
  fin : Nat
  fout : Nat
  iters : Nat
  reg : Int
  pivotMin : Int
  deriving DecidableEq, Repr

/-- An FP32 value as an integer with `f` fraction bits: none for a NaN or an infinity. -/
def SlvSt.convert (s : SlvSt) (code f : Nat) : Option (Int × SlvSt) :=
  match fp32.decode code with
  | .fin x => some (s.storeDy x f)
  | _ => none

/-- An FP32 code that is at least 0: a negative zero is read as zero (R183). -/
def atLeastZero (code : Nat) : Bool := !bitOf code 31 || code % 2 ^ 31 == 0

/-- The fields of a range record in force for a kind; none makes every matrix INV (R297). -/
def slvRange (kind : Nat) (r : List Byte) (s : SlvSt) : Option (SlvRange × SlvSt) := do
  let fin := fld r 0 1
  let fout := fld r 1 1
  let iters := fld r 2 1
  need' (fin ≤ 30 && fout ≤ 30 && (kind ≤ 3 || (1 ≤ iters && iters ≤ 64)) && fld r 3 1 == 0 &&
    (r.drop 12).all (· == 0) && atLeastZero (fld r 4 4) && atLeastZero (fld r 8 4) && fld r 8 4 % 2 ^ 31 != 0)
  let (reg, s) ← s.convert (fld r 4 4) fin
  let (piv, s) ← s.convert (fld r 8 4) fin
  return (⟨fin, fout, iters, reg, piv⟩, s)
where need' (b : Bool) : Option Unit := if b then some () else none

/-- The element (i, j) of a row-major FP32 matrix of order `n` at a byte offset. -/
def matCode (bs : List Byte) (off n i j : Nat) : Nat := fld bs (off + 4 * (i * n + j)) 4

/-- The elements of an input that are read, converted; none where one is a NaN or an infinity (R296, R298). -/
def readMat (bs : List Byte) (off n f : Nat) (reads : Nat → Nat → Bool) (s : SlvSt) : Option (IMat × SlvSt) :=
  (List.range n).foldl (fun acc i =>
    (List.range n).foldl (fun acc j =>
      match acc with
      | none => none
      | some (m, s) =>
        if reads i j then
          (match s.convert (matCode bs off n i j) f with
           | some (v, s) => some (IMat.put m i j v, s)
           | none => none)
        else some (m, s)) acc) (some (IMat.zero n, s))

/-- A symmetric matrix from its lower triangle. -/
def IMat.mirror (m : IMat) (n : Nat) : IMat :=
  (List.range n).map (fun i => (List.range n).map (fun j => if j ≤ i then m.get i j else m.get j i))

/-! ### Kinds 1 to 3 (R299, R300) -/

/-- `a / 2^fin - Σ_{k < n} p k / 2^e`, exactly. -/
def residual (a : Int) (fin : Nat) (ps : List Int) (e : Nat) : Dy :=
  (Dy.sub ⟨a, -(fin : Int)⟩ ⟨ps.foldl (· + ·) 0, -(e : Int)⟩)

/-- One column of CHOL. -/
def cholCol (r : SlvRange) (a : IMat) (n j : Nat) (l : IMat) (s : SlvSt) : IMat × SlvSt :=
  let part := fun (l : IMat) (i : Nat) => (List.range j).map (fun k => l.get i k * l.get j k)
  let d := residual (a.get j j + r.reg) r.fin (part l j) (2 * r.fout)
  let low := d.lt ⟨r.pivotMin, -(r.fin : Int)⟩
  let s := if low then { s with tiny := true, clamped := s.clamped + 1, negp := s.negp || decide (d.m < 0) } else s
  let (ljj, s) := s.sqrt (if low then ⟨r.pivotMin, -(r.fin : Int)⟩ else d) r.fout
  let (inv, s) := s.recip ljj r.fout
  (List.range n).foldl (fun acc i =>
    if j < i then
      let x := residual (a.get i j) r.fin (part acc.1 i) (2 * r.fout)
      let (v, s) := acc.2.storeDy (x.mul ⟨inv, -(r.fout : Int)⟩) r.fout
      (acc.1.put i j v, s)
    else acc) (l.put j j ljj, s)

/-- One column of LDL: D on the diagonal, the unit L below it. -/
def ldlCol (r : SlvRange) (a : IMat) (n j : Nat) (l : IMat) (s : SlvSt) : IMat × SlvSt :=
  let part := fun (l : IMat) (i : Nat) => (List.range j).map (fun k => l.get i k * l.get j k * l.get k k)
  let d := residual (a.get j j + r.reg) r.fin (part l j) (3 * r.fout)
  let low := d.abs.lt ⟨r.pivotMin, -(r.fin : Int)⟩
  let s := if low then { s with tiny := true, clamped := s.clamped + 1 } else s
  let (djj, s) := s.storeDy
    (if low then ⟨if d.m < 0 then -r.pivotMin else r.pivotMin, -(r.fin : Int)⟩ else d) r.fout
  let (inv, s) := s.recip djj r.fout
  (List.range n).foldl (fun acc i =>
    if j < i then
      let x := residual (a.get i j) r.fin (part acc.1 i) (3 * r.fout)
      let (v, s) := acc.2.storeDy (x.mul ⟨inv, -(r.fout : Int)⟩) r.fout
      (acc.1.put i j v, s)
    else acc) (l.put j j djj, s)

/-- TRSOLVE: X = L⁻¹ B, column by column, rows top to bottom. -/
def trsolve (r : SlvRange) (l b : IMat) (n : Nat) (s : SlvSt) : IMat × SlvSt :=
  let (invs, s) := (List.range n).foldl (fun (acc : List Int × SlvSt) i =>
    let v := l.get i i
    let (x, s) := if v = 0 then ((BitVec.ofInt 32 (Config.recipOfZero r.fout)).toInt, acc.2)
      else if v < 0 then acc.2.store (-(2 ^ (r.fin + r.fout))) v.natAbs else acc.2.store (2 ^ (r.fin + r.fout)) v.natAbs
    (acc.1 ++ [x], s)) ([], s)
  (List.range n).foldl (fun acc c =>
    (List.range n).foldl (fun (acc : IMat × SlvSt) i =>
      let x := residual (b.get i c) r.fin ((List.range i).map (fun k => l.get i k * acc.1.get k c)) (r.fin + r.fout)
      let (v, s) := acc.2.storeDy (x.mul ⟨invs.getD i 0, -(r.fout : Int)⟩) r.fout
      (acc.1.put i c v, s)) acc) (IMat.zero n, s)

/-! ### Kinds 4 and 5 (R301) -/

/-- A product of matrices with `fa` and `fb` fraction bits, stored with `f`. -/
def matMul (a b : IMat) (n fa fb f : Nat) (s : SlvSt) : IMat × SlvSt :=
  (List.range n).foldl (fun acc i =>
    let (row, s) := (List.range n).foldl (fun (r : List Int × SlvSt) j =>
      let sum := (List.range n).foldl (fun t k => t + a.get i k * b.get k j) 0
      let (v, s) := r.2.storeDy ⟨sum, -((fa + fb : Nat) : Int)⟩ f
      (r.1 ++ [v], s)) ([], acc.2)
    (acc.1 ++ [row], s)) ([], s)

/-- The largest absolute row sum of a matrix. -/
def rowAbsMax (a : List (List Int)) : Nat := (a.map (fun r => (r.map Int.natAbs).sum)).foldl max 0

/-- The smallest multiple of `p` with `v · 2^(-f) ≤ 2^k`, for `v > 0`. -/
def shiftOf (v f p : Nat) : Int :=
  let l : Int := (Nat.log2 (2 * v - 1) : Int) - f
  (0 - (0 - l) / (p : Int)) * p

/-- T = ((p + 1) I - M) / p, in OUT_FRAC, of an M with `fm` fraction bits. -/
def newtonT (r : SlvRange) (p n : Nat) (m : IMat) (fm : Nat) (s : SlvSt) : IMat × SlvSt :=
  (List.range n).foldl (fun acc i =>
    let (row, s) := (List.range n).foldl (fun (t : List Int × SlvSt) j =>
      let x := (if i = j then ((p + 1) * 2 ^ fm : Int) else 0) - m.get i j
      let (v, s) := t.2.store (x * 2 ^ r.fout) (p * 2 ^ fm)
      (t.1 ++ [v], s)) ([], acc.2)
    (acc.1 ++ [row], s)) ([], s)

/-- Coupled Newton iterations on X and M; M has `fm` fraction bits before the first of them, IN_FRAC after it. -/
def newton (r : SlvRange) (p n : Nat) : Nat → IMat → IMat → Nat → SlvSt → IMat × IMat × SlvSt
  | 0, x, m, _, s => (x, m, s)
  | k + 1, x, m, fm, s =>
    let (t, s) := newtonT r p n m fm s
    let (x, s) := matMul x t n r.fout r.fout r.fout s
    let (t2, s) := matMul t t n r.fout r.fout r.fin s
    let (tp, s) := if p = 4 then matMul t2 t2 n r.fin r.fin r.fin s else (t2, s)
    let (m, s) := matMul tp m n r.fin fm r.fin s
    newton r p n k x m r.fin s

/-! ### One matrix -/

def slvNan : Nat := fp32.nanCode

/-- The 16 status FLAGS of what an engine met. -/
def SlvSt.flags (s : SlvSt) : BitVec 16 :=
  BitVec.ofNat 16 (b2n s.ovf + 2 * b2n s.inx + 8 * b2n s.tiny + 16 * b2n s.negp)

/-- An INV matrix (R298). -/
def invRes (n : Nat) : MatRes := { codes := List.replicate n slvNan, flags := 4 }

/-- An FP32 code of `v · 2^e`, with INX for an inexact conversion. -/
def SlvSt.publish (s : SlvSt) (v e : Int) : Nat × SlvSt :=
  let (c, f) := fp32.write (.fin ⟨v, e⟩)
  (c, { s with inx := s.inx || f.inx, ovf := s.ovf || f.ovf })

def SlvSt.publishAll (s : SlvSt) (vs : List (Int × Int)) : List Nat × SlvSt :=
  vs.foldl (fun acc v => let (c, s) := acc.2.publish v.1 v.2; (acc.1 ++ [c], s)) ([], s)

/-! ### Kind 6 (R307) -/

/-- A symmetric matrix in CSR form: per row, the column and the integer of each stored element. -/
abbrev Csr := List (List (Nat × Int))

/-- Integers stored one after another with `f` fraction bits. -/
def SlvSt.storeAll (s : SlvSt) (xs : List Dy) (f : Nat) : List Int × SlvSt :=
  xs.foldl (fun acc x => let (v, s) := acc.2.storeDy x f; (acc.1 ++ [v], s)) ([], s)

/-- The exact quotient of two exact values rounded once into `f` fraction bits; that by zero is a free value (R298). -/
def SlvSt.quot (s : SlvSt) (n d : Dy) (f : Nat) : Int × SlvSt :=
  if d.m = 0 then ((BitVec.ofInt 32 (Config.recipOfZero f)).toInt, s)
  else
    let k := n.e - d.e + f
    let num := if d.m < 0 then -n.m else n.m
    s.store (num * 2 ^ k.toNat) (d.m.natAbs * 2 ^ (-k).toNat)

/-- The exact dot product of two vectors, each with its fraction bits. -/
def dotFx (a b : List Int) (fa fb : Nat) : Dy :=
  ⟨(List.zipWith (· * ·) a b).foldl (· + ·) 0, -((fa + fb : Nat) : Int)⟩

/-- A times a vector, exactly. -/
def Csr.mul (a : Csr) (fa : Nat) (v : List Int) (fv : Nat) : List Dy :=
  a.map (fun row => ⟨row.foldl (fun t e => t + e.2 * v.getD e.1 0) 0, -((fa + fv : Nat) : Int)⟩)

/-- b - A x, exactly. -/
def Csr.residual (a : Csr) (fin : Nat) (b : List Int) (x : List Int) (fout : Nat) : List Dy :=
  List.zipWith (fun bi ax => Dy.sub ⟨bi, -(fin : Int)⟩ ax) b (a.mul fin x fout)

/-- What one iteration of the solve hands on: x, the residual vector r, the direction p and the dot product r·z. -/
structure CgSt where
  x : List Int
  r : List Int
  p : List Int
  rz : Dy

/-- The formats of the vectors that R307 leaves open. -/
def SlvRange.cg (r : SlvRange) (which : Nat) : Nat := Config.cgFrac r.fin r.fout which

/-- The preconditioned residual: each element times the reciprocal of its diagonal element. -/
def cgPrec (r : SlvRange) (inv res : List Int) (s : SlvSt) : List Int × SlvSt :=
  s.storeAll (List.zipWith (fun a b => ⟨a * b, -((r.fout + r.cg 0 : Nat) : Int)⟩) inv res) (r.cg 1)

/-- One iteration of Jacobi-preconditioned conjugate gradient: q = A p, α = r·z / p·q, x + α p, r - α q, z, β, z + β p. -/
def cgStep (r : SlvRange) (a : Csr) (inv : List Int) (c : CgSt) (s : SlvSt) : CgSt × SlvSt :=
  let (q, s) := s.storeAll (a.mul r.fin c.p (r.cg 2)) (r.cg 3)
  let (alpha, s) := s.quot c.rz (dotFx c.p q (r.cg 2) (r.cg 3)) (r.cg 4)
  let (x, s) := s.storeAll (List.zipWith (fun xi pi =>
    Dy.add ⟨xi, -(r.fout : Int)⟩ ⟨alpha * pi, -((r.cg 4 + r.cg 2 : Nat) : Int)⟩) c.x c.p) r.fout
  let (res, s) := s.storeAll (List.zipWith (fun ri qi =>
    Dy.sub ⟨ri, -(r.cg 0 : Int)⟩ ⟨alpha * qi, -((r.cg 4 + r.cg 3 : Nat) : Int)⟩) c.r q) (r.cg 0)
  let (z, s) := cgPrec r inv res s
  let rz := dotFx res z (r.cg 0) (r.cg 1)
  let (beta, s) := s.quot rz c.rz (r.cg 5)
  let (p, s) := s.storeAll (List.zipWith (fun zi pi =>
    Dy.add ⟨zi, -(r.cg 1 : Int)⟩ ⟨beta * pi, -((r.cg 5 + r.cg 2 : Nat) : Int)⟩) z c.p) (r.cg 2)
  (⟨x, res, p, rz⟩, s)

/-- Exactly ITERS iterations. -/
def cgRun (r : SlvRange) (a : Csr) (inv : List Int) : Nat → CgSt → SlvSt → CgSt × SlvSt
  | 0, c, s => (c, s)
  | k + 1, c, s => let (c, s) := cgStep r a inv c s; cgRun r a inv k c s

/-- The integers of `n` FP32 values of a descriptor's arrays from byte `off` on, converted to IN_FRAC. -/
def cgConvert (bs : List Byte) (off n f : Nat) (s : SlvSt) : List Int × SlvSt :=
  (List.range n).foldl (fun acc i =>
    match acc.2.convert (fld bs (off + 4 * i) 4) f with
    | some (v, s) => (acc.1 ++ [v], s)
    | none => (acc.1 ++ [0], acc.2)) ([], s)

/-- KIND 6: the sparse solve of a good descriptor, whose arrays follow it in `bs` (R307).  RESID is the largest |b - A x|
after the last iteration. -/
def solveSparse (r : SlvRange) (bs : List Byte) (s : SlvSt) : MatRes :=
  let rows := fld bs 0 4
  let nnz := fld bs 4 4
  let ptrAt := 64
  let idxAt := ptrAt + 4 * (rows + 1)
  let valAt := idxAt + 4 * nnz
  let rhsAt := valAt + 4 * nnz
  let (vals, s) := cgConvert bs valAt nnz r.fin s
  let (b, s) := cgConvert bs rhsAt rows r.fin s
  let (x0, s) := if fld bs 40 8 = 0 then (List.replicate rows 0, s) else cgConvert bs (rhsAt + 4 * rows) rows r.fin s
  let a : Csr := (List.range rows).map (fun i =>
    let lo := fld bs (ptrAt + 4 * i) 4
    (List.range (fld bs (ptrAt + 4 * (i + 1)) 4 - lo)).map (fun k => (fld bs (idxAt + 4 * (lo + k)) 4, vals.getD (lo + k) 0)))
  let (inv, s) := a.zipIdx.foldl (fun (acc : List Int × SlvSt) row =>
    let diag := row.1.foldl (fun t e => if e.1 = row.2 then t + e.2 else t) 0
    let (v, s) := acc.2.quot ⟨1, 0⟩ ⟨diag, -(r.fin : Int)⟩ r.fout
    (acc.1 ++ [v], s)) ([], s)
  let (x, s) := s.storeAll (x0.map (fun v => ⟨v, -(r.fin : Int)⟩)) r.fout
  let (res, s) := s.storeAll (a.residual r.fin b x r.fout) (r.cg 0)
  let (z, s) := cgPrec r inv res s
  let (p, s) := s.storeAll (z.map (fun v => ⟨v, -(r.cg 1 : Int)⟩)) (r.cg 2)
  let (c, s) := cgRun r a inv r.iters ⟨x, res, p, dotFx res z (r.cg 0) (r.cg 1)⟩ s
  let worst := ((a.residual r.fin b c.x r.fout).map Dy.abs).foldl Dy.max Dy.zero
  let (resid, s) := s.publish worst.m worst.e
  let (codes, s) := s.publishAll (c.x.map (fun v => (v, -(r.fout : Int))))
  { codes := codes, flags := s.flags, resid := resid }

/-- The result of a matrix with its elements `v i j · 2^e`. -/
def resultOf (n : Nat) (m : IMat) (e : Int) (keep : Nat → Nat → Bool) (s : SlvSt) (shift : Int) (resid : Nat) : MatRes :=
  let vs := (List.range n).flatMap (fun i => (List.range n).map (fun j => (if keep i j then m.get i j else 0, e)))
  let (codes, s) := s.publishAll vs
  { codes := codes, flags := s.flags, clamped := s.clamped, shift := shift, resid := resid }

/-- INVROOT of order `p` of a symmetric matrix. -/
def invRoot (r : SlvRange) (p n : Nat) (a : IMat) (s : SlvSt) : MatRes :=
  let a := (a.mirror n).zipIdx.map (fun row => row.1.modify row.2 (· + r.reg))
  let v := rowAbsMax a
  let k := if v = 0 then (BitVec.ofInt 8 (Config.zeroShift p)).toInt else shiftOf v r.fin p
  let ident := (List.range n).map (fun i => (List.range n).map (fun j => if i = j then (2 ^ r.fout : Int) else 0))
  -- Â is the exact shift of A + REG·I: k more fraction bits where k is positive, a shift to the left where it is negative
  let hat := if 0 ≤ k then a else a.map (fun row => row.map (· * 2 ^ k.natAbs))
  let (x, m, s) := newton r p n r.iters ident hat (r.fin + k.toNat) s
  let diff := m.zipIdx.map (fun row => row.1.modify row.2 (· - 2 ^ r.fin))
  let (resid, s) := s.publish (rowAbsMax diff) (-(r.fin : Int))
  resultOf n x (-(r.fout : Int) - k / p) (fun _ _ => true) s k resid

/-- Elements of the result item of a matrix: N², or ROWS of its descriptor. -/
def itemElems (kind n : Nat) (bs : List Byte) : Nat := if kind = 6 then fld bs 0 4 else n * n

/-- What an engine computes for one matrix of a job (R296 to R301, R307): `input` says whether the input is good, and its
bytes. -/
def solveMatrix (kind n : Nat) (range : List Byte) (input : Bool × List Byte) : MatRes :=
  let bs := input.2
  let bad := itemElems kind n bs
  match input.1, slvRange kind range {} with
  | true, some (r, s) =>
    if kind = 6 then solveSparse r bs s
    else
      match readMat bs 0 n r.fin (fun i j => decide (j ≤ i)) s with
      | none => invRes bad
      | some (a, s) =>
        match kind with
        | 1 =>
          let (l, s) := (List.range n).foldl (fun acc j => cholCol r a n j acc.1 acc.2) (IMat.zero n, s)
          resultOf n l (-(r.fout : Int)) (fun i j => decide (j ≤ i)) s 0 0
        | 2 =>
          let (l, s) := (List.range n).foldl (fun acc j => ldlCol r a n j acc.1 acc.2) (IMat.zero n, s)
          resultOf n l (-(r.fout : Int)) (fun i j => decide (j ≤ i)) s 0 0
        | 3 =>
          (match readMat bs (4 * n * n) n r.fin (fun _ _ => true) s with
           | none => invRes bad
           | some (b, s) =>
             let (x, s) := trsolve r a b n s
             resultOf n x (-(r.fout : Int)) (fun _ _ => true) s 0 0)
        | 4 => invRoot r 2 n a s
        | _ => invRoot r 4 n a s
  | _, _ => invRes bad

/-- Engine cycles of one matrix (R299, R307). -/
def cdiv (a b : Nat) : Nat := (a + b - 1) / b

def matCycles (kind n iters : Nat) (item : List Byte) : Nat :=
  let p := cdiv (n * n) 512 + 64
  match kind with
  | 1 => p + cdiv (n ^ 3) 3072 + 4 * n
  | 2 => p + cdiv (n ^ 3) 3072 + 4 * n
  | 3 => 2 * p + cdiv (n ^ 3) 2048 + 4 * n
  | 4 => p + 64 + iters * (3 * cdiv (n ^ 3) 1024 + 64)
  | 5 => p + 64 + iters * (4 * cdiv (n ^ 3) 1024 + 64)
  | _ =>
    let rows := fld item 0 4
    let nnz := fld item 4 4
    cdiv (12 * nnz + 16 * rows) 2048 + 64 + iters * (cdiv nnz 256 + cdiv rows 128 + 64)

/-! ### Sparse descriptors (R307) -/

/-- A descriptor's own rules. -/
def sparseOk (e : List Byte) : Bool :=
  1 ≤ fld e 0 4 && fld e 0 4 ≤ 1048576 && 1 ≤ fld e 4 4 && fld e 4 4 ≤ 8388608 && (e.drop 56).all (· == 0)

/-- The ranges that a descriptor's arrays take. -/
def sparseRanges (e : List Byte) : List (Nat × Nat) :=
  let rows := fld e 0 4
  let nnz := fld e 4 4
  [(fld e 8 8, 4 * (rows + 1)), (fld e 16 8, 4 * nnz), (fld e 24 8, 4 * nnz), (fld e 32 8, 4 * rows)] ++
  (if fld e 40 8 = 0 then [] else [(fld e 40 8, 4 * rows)])

/-- The input of a descriptor as read at the commit: the descriptor and its arrays one after another; none where it
breaks the rules, a read meets poison or leaves the plan's ranges, a row start or an index lies outside, or a value is
not finite. -/
def sparseInput (m : Mem) (p : Plan) (e : List Byte) : Option (List Byte) :=
  let rs := sparseRanges e
  if !sparseOk e || rs.any (fun r => !p.stackRead r.1 r.2 || (m.poisoned? r.1 r.2).isSome) then none
  else
    let rows := fld e 0 4
    let nnz := fld e 4 4
    let arrs := rs.map (fun r => memBytes m.bytes r.1 r.2)
    let ptr := (List.range (rows + 1)).map (fun i => fld (arrs.getD 0 []) (4 * i) 4)
    let idx := (List.range nnz).map (fun i => fld (arrs.getD 1 []) (4 * i) 4)
    let vals := (arrs.drop 2).flatMap (fun a => (List.range (a.length / 4)).map (fun i => fld a (4 * i) 4))
    if ptr.all (· ≤ nnz) && idx.all (· < rows) && vals.all (fun c => (fp32.decode c).isFin) then
      some (e ++ arrs.flatten)
    else none

/-! ### Dealing (R295) -/

/-- The identity of a job: its core, its plan and its TAG. -/
def SolveJob.key (j : SolveJob) : SolveKey := ⟨j.core, j.handle, j.idx⟩

def SolveJob.iters (j : SolveJob) : Nat := fld j.range 2 1

/-- Engine cycles of matrix `i` of a job. -/
def SolveJob.cyclesOf (j : SolveJob) (i : Nat) : Nat := matCycles j.kind j.n j.iters (j.inputs.getD i (false, [])).2

/-- Engine cycles queued on an engine. -/
def Dev.slvQueued (d : Dev) (e : Nat) : Nat :=
  ((d.slv.getD e {}).queue.map (fun q =>
    match d.solves.find? (fun j => j.key == q.1) with | some j => j.cyclesOf q.2 | none => 0)).sum

/-- The engine may take a matrix of the job: it is in service, and holds matrices of at most 16 jobs. -/
def Slv.takes (s : Slv) (key : SolveKey) : Bool :=
  let keys := (s.queue.map (·.1)).eraseDups
  s.inService && (keys.contains key || keys.length < 16)

/-- The engine that the next matrix of a job goes to: the fewest cycles queued, ties to the lower number. -/
def Dev.slvEngine (d : Dev) (key : SolveKey) : Option Nat :=
  (List.range 4).foldl (fun acc e =>
    if (d.slv.getD e {}).takes key then
      (match acc with
       | none => some e
       | some b => if d.slvQueued e < d.slvQueued b then some e else some b)
    else acc) none

def Dev.modSlv (d : Dev) (e : Nat) (f : Slv → Slv) : Dev := { d with slv := d.slv.modify e f }
def Dev.modSolve (d : Dev) (key : SolveKey) (f : SolveJob → SolveJob) : Dev :=
  { d with solves := d.solves.map (fun j => if j.key == key then f j else j) }

/-- Every matrix not yet dealt is dealt, job by job and in batch order, where an engine takes it. -/
def Dev.dealAll (d : Dev) : Dev :=
  d.solves.foldl (fun d j =>
    if j.submitted && !j.late then
      (j.mats.zipIdx).foldl (fun (d : Dev) m =>
        if m.1.engine.isSome || m.1.result.isSome then d
        else
          match d.slvEngine j.key with
          | none => d
          | some e =>
            (d.modSlv e (fun s => { s with queue := s.queue ++ [(j.key, m.2)] })).modSolve j.key
              (fun j => { j with mats := j.mats.modify m.2 (fun x => { x with engine := some e }) })) d
    else d) d

/-! ### Submission (R293, R304) -/

/-- A job's deadline, in beats after its plan's base (R302). -/
def SolveJob.dueOff (j : SolveJob) (p : Plan) : Nat := p.stepOff j.step + j.deadlineOff

/-- The beat of a job's deadline under the base in force (R302). -/
def SolveJob.deadline (j : SolveJob) (p : Plan) : BitVec 52 := beatAdd p.base (j.dueOff p)

/-- The ranges of an input item that are read (R296): the lower triangle row by row, and the right-hand side of KIND 3. -/
def itemReads (kind n a : Nat) : List (Nat × Nat) :=
  if kind = 6 then [(a, 64)]
  else (List.range n).map (fun i => (a + 4 * n * i, 4 * (i + 1))) ++ (if kind = 3 then [(a + 4 * n * n, 4 * n * n)] else [])

/-- The inputs of a job as committed memory holds them: what is read of one meets no poison. -/
def Dev.solveInputs (d : Dev) (p : Plan) (j : SolveJob) : List (Bool × List Byte) :=
  let w := solveItem j.kind j.n
  (List.range j.batch).map (fun i =>
    let a := j.src + i * w
    let bs := memBytes d.mem.bytes a w
    if (itemReads j.kind j.n a).any (fun r => (d.mem.poisoned? r.1 r.2).isSome) then (false, bs)
    else if j.kind = 6 then (match sparseInput d.mem p bs with | some full => (true, full) | none => (false, bs))
    else (true, bs))

/-! ### The result slot (R302 to R304) -/

/-- A delivery to committed memory of a publication: what a poisoned codeword takes in part is not written (R280), and
shadow entries of elements it writes are unseeded (R288). -/
def Layout.unseed (l : Layout) (m : List Host.Cell) (a n : Nat) : List Host.Cell :=
  l.regions.foldl (fun m r =>
    if r.shadowLen = 0 || !meets a n r.base r.len then m
    else
      let w := atomBytes r.dtype
      let lo := (max a r.base - r.base) / w
      let hi := (min (a + n) (r.base + r.len) - r.base + w - 1) / w
      (List.range (hi - lo)).foldl (fun m i => memZero m (r.shadow + 64 * (lo + i) + 48) 8) m) m

/-- The shadow entries of every plan that holds the address. -/
def Dev.unseed (d : Dev) (a n : Nat) : Dev :=
  let bytes := d.plans.foldl (fun m p => if p.live then p.img.layout.unseed m a n else m) d.mem.bytes
  { d with mem := { d.mem with bytes := bytes } }

/-- Bytes delivered to committed memory by a unit of the device (R280, R285, R288): a record for a partly covered
poisoned codeword names the TAG. The answer says whether such a codeword was met. -/
def Dev.deliver (d : Dev) (a : Nat) (bs : List Byte) (tag : BitVec 32) (unit : BitVec 16) (source : Nat) : Bool × Dev :=
  let (m, kept) := d.mem.deliver a bs
  let d := (({ d with mem := m }).deliverLines a bs.length).unseed a bs.length
  let func := (d.plans.find? (fun p => p.live && p.img.layout.inRanges a 1)).map (·.func)
  (!kept.isEmpty, kept.foldl (fun d w =>
    let r := (d.mkRec 4 source 0x0600 unit).withAddr (64 * w)
    (d.countPoison (64 * w)).writeRecord (if tag = 0xFFFFFFFF then r else r.withTag tag func)) d)

/-- The header of a FRESH slot. -/
def freshHeader (d : Dev) (j : SolveJob) (deadline : BitVec 52) : List Byte :=
  let flags := (j.mats.map (fun m => match m.result with | some r => r.flags | none => 0)).foldl (· ||| ·) 0
  [1, BitVec.ofNat 8 j.kind] ++ bytesLE 2 j.n ++ bytesLE 2 j.batch ++ bytesLE 2 0 ++ bytesLE 4 j.step ++
  bytesLE 4 j.tag.toNat ++ bytesLE 8 (deadline.toNat * 4096) ++ bytesLE 8 d.epoch.toNat ++ bytesLE 2 flags.toNat ++
  List.replicate 30 0

/-- The status entry of a matrix. -/
def statusEntry (r : MatRes) : List Byte :=
  bytesLE 2 r.flags.toNat ++ bytesLE 2 (min 0xFFFF r.clamped) ++ [BitVec.ofInt 8 r.shift] ++ bytesLE 3 0 ++
  bytesLE 4 r.resid ++ bytesLE 4 0

/-- The matrices of a job that are finished. -/
def SolveJob.finished (j : SolveJob) : List MatRes := j.mats.filterMap (·.result)

/-- A job taken away: its matrices leave the engines. -/
def Dev.dropSolve (d : Dev) (j : SolveJob) : Dev :=
  { d with
    solves := d.solves.filter (fun k => k.key != j.key)
    slv := d.slv.map (fun s => { s with queue := s.queue.filter (fun q => q.1 != j.key) }) }

/-- The engines that have worked on a job: those with a matrix of it finished or mismatched, and those that compute one now. -/
def Dev.slvWorked (d : Dev) (j : SolveJob) : List Nat :=
  (List.range 4).filter (fun e =>
    j.worked.contains e || (match (d.slv.getD e {}).queue with | q :: _ => q.1 == j.key | [] => false))

/-- A missed deadline: the header's STALE or MISSING mark and its record (R304). -/
def Dev.markStale (d : Dev) (j : SolveJob) : Dev :=
  let h := memBytes d.mem.bytes j.dst 64
  let st := fld h 0 1
  let stale := (st = 1 || st = 2) && fld h 24 8 == d.epoch.toNat
  let bs :=
    if stale then
      [2] ++ (h.drop 1).take 5 ++ bytesLE 2 (min 0xFFFF (fld h 6 2 + 1)) ++ h.drop 8
    else
      [3, BitVec.ofNat 8 j.kind] ++ bytesLE 2 j.n ++ bytesLE 2 j.batch ++ bytesLE 2 1 ++ List.replicate 56 0
  let d := (d.deliver j.dst bs j.tag 0 7).2
  let bit : BitVec 8 := if stale then 0x20 else 0x40
  let d := (d.slvWorked j).foldl (fun d e => d.modSlv e (fun s => { s with
    flags := s.flags.raise bit, stale := satInc s.stale })) d
  d.writeRecord (((d.mkRec 4 7 (if stale then 0x1300 else 0x1303) 0).withTag j.tag (d.funcOf j.core)).withDetail
    [(32, bytesLE 4 j.step), (36, bytesLE 4 j.finished.length)])

/-- The plan's jobs are published and marked: it runs or has ended its steps, and is not being retired (R305). -/
def Plan.publishes (p : Plan) : Bool := (p.state == .running || p.state == .completed) && p.retiring.isNone

/-- The jobs submitted in the present cycle are to be dealt anew, in the order of R290: by logical core, from the beat modulo 72 on
(R295). -/
def Dev.orderFresh (d : Dev) : Dev :=
  let fresh := d.solves.filter (fun j => j.submitted && j.fresh)
  let keys := fresh.map SolveJob.key
  let undealt := fresh.map (fun (j : SolveJob) => { j with
    mats := j.mats.map (fun m => if m.result.isNone then { m with engine := none } else m) })
  { d with
    solves := d.solves.filter (fun j => !(j.submitted && j.fresh)) ++
      (List.range 72).flatMap (fun i => undealt.filter (fun j => j.core == (d.bt.beat.toNat + i) % 72))
    slv := d.slv.map (fun s => { s with queue := s.queue.filter (fun q => !keys.contains q.1) }) }

/-- The submission of the SOLVEs of a committed chunk (R293, R295): SRC and the range record are read then, and a job
whose deadline has passed is marked at once, but not while its plan publishes nothing (R305). -/
def Dev.submitSolves (d : Dev) (p : Plan) (c : Nat) : Dev :=
  let mine := d.solves.filter (fun j => j.core == c && j.handle == p.handle && !j.submitted)
  let d := mine.foldl (fun d j =>
    let j' : SolveJob := { j with
      submitted := true
      fresh := true
      late := d.offPassed p.base (j.dueOff p) && p.publishes
      range := if (d.mem.poisoned? j.rangeAddr 32).isSome then List.replicate 32 0xFF
        else memBytes d.mem.bytes j.rangeAddr 32
      inputs := d.solveInputs p j
      mats := List.replicate j.batch {} }
    -- a job goes to the end of the list: jobs are dealt in the order of their submission
    let d := { d with solves := d.solves.filter (fun k => k.key != j.key) ++ [j'] }
    if j'.late then (d.markStale j').dropSolve j' else d) d
  d.orderFresh.dealAll

/-! ### MATRIX_FINISH (R295, R306) -/

/-- An engine leaves service: its queued matrices are dealt again (R306). -/
def Dev.slvFenceQueue (d : Dev) (e : Nat) : Dev :=
  let undeal := fun (m : MatSt) => if m.engine = some e && m.result.isNone then { m with engine := none } else m
  let d := { d with solves := d.solves.map (fun (j : SolveJob) => { j with
    mats := j.mats.map undeal
    worked := if (d.slvWorked j).contains e then insertNat j.worked e else j.worked }) }
  (d.modSlv e (fun s => { s with queue := [], inService := false })).dealAll

/-- A fence of an engine, for a second mismatch or by FENCE (R306, R371, R374). -/
def Dev.fenceSolver (d : Dev) (e : Nat) (host : Option HostFence) (tag : BitVec 32) : Dev :=
  let (first, d) := d.countDeviceFault
  let (_, d) := d.enterCrater (unitId 7 e) (host.map (fun r => r.1.setWidth 8))
  let d := d.slvFenceQueue e
  let r := ((d.mkRec 3 (if host.isSome then 11 else 7) 0x1302 (unitId 7 e)).fault first).withReason host
  d.writeRecord (if tag = 0xFFFFFFFF then r else r.withTag tag)

/-- MATRIX_FINISH: an engine ends the matrix at the front of its queue, or a residue mismatch restarts it; a second
mismatch in one job fences the engine (R295, R306). -/
def matrixFinish (e : Fin 4) (mismatch : Bool) (d : Dev) : Dev :=
  let s := d.slv.getD e.val {}
  match s.queue with
  | [] => d
  | (key, i) :: rest =>
    match d.solves.find? (fun j => j.key == key) with
    | none => d
    | some j =>
      let d := d.modSolve j.key (fun j => { j with worked := insertNat j.worked e.val })
      if mismatch then
        let d := d.modSlv e.val (fun s => { s with flags := s.flags.raise 0x80, checkCnt := satInc s.checkCnt })
        if j.mismatch.contains e.val then d.fenceSolver e.val none j.tag
        else
          (d.modSolve j.key (fun j => { j with mismatch := e.val :: j.mismatch })).writeRecord
            ((d.mkRec 1 7 0x1301 (unitId 7 e.val)).withTag j.tag (d.funcOf j.core))
      else
        let r := solveMatrix j.kind j.n j.range (j.inputs.getD i (false, []))
        let d := d.modSlv e.val (fun s => { s with
          queue := rest
          jobs := satInc s.jobs
          busy := satAdd s.busy (j.cyclesOf i)
          flags := s.flags.raise (r.flags.setWidth 8 &&& 0x1F) })
        (d.modSolve j.key (fun j => { j with mats := j.mats.modify i (fun m => { m with result := some r }) })).dealAll

/-! ### SOLVER_PUBLISH (R302 to R305) -/

/-- A job is due: its deadline is reached under the plan's base, and its plan neither stands nor is being retired. -/
def Dev.solveDue (d : Dev) (j : SolveJob) : Bool :=
  j.submitted &&
  (match d.plan? j.handle with
   | some p => p.publishes && d.offReached p.base (j.dueOff p)
   | none => false)

/-- A publication whose results all reach their deadline: results, status entries, then the header (R302, R303). -/
def Dev.publishFresh (d : Dev) (j : SolveJob) (deadline : BitVec 52) : Dev :=
  let rs := j.finished
  let body := (rs.flatMap (fun r => r.codes.flatMap (bytesLE 4))).take j.room
  let d := (d.deliver (j.dst + 4096) body j.tag 0 7).2
  let d := (d.deliver (j.dst + 64) (rs.flatMap statusEntry) j.tag 0 7).2
  (d.deliver j.dst (freshHeader d j deadline) j.tag 0 7).2

/-- SOLVER_PUBLISH: the first job that is due, in submission order, is published or marked (R302, R304, R305). -/
def solverPublish (d : Dev) : Dev :=
  match d.solves.find? d.solveDue with
  | none => d
  | some j =>
    match d.plan? j.handle with
    | none => d
    | some p =>
      let d := if j.finished.length = j.batch then d.publishFresh j (j.deadline p) else d.markStale j
      (d.dropSolve j).dealAll

/-! ### Commands -/

/-- MATRIX_FINISH (R295). -/
def execMatrixFinish (e : Fin 4) (mismatch : Bool) (st : State) : Out State := run (matrixFinish e mismatch) st
/-- SOLVER_PUBLISH (R302). -/
def execSolverPublish (s : State) : Out State := run solverPublish s

end Sys2Proof.Machine
end

