-- ==== Sys2Proof/Machine/Links.lean ====
section
/-! DEFINITION. The links (file 16): flits received and sent, replay, the spare lane, port failover, rerouting, and SEND
and RECV between devices. -/

namespace Sys2Proof.Machine

/-- LNK_EVENTS with a bit set. -/
def Dev.setLnkEvent (d : Dev) (i : Nat) : Dev :=
  { d with lnk := { d.lnk with events := d.lnk.events.raise (BitVec.ofNat 6 (2 ^ i)) } }

/-! ### OWNED (R316 to R318) -/

/-- Some port holds a flit that failover moved from port `p` and that is not acknowledged (R317). -/
def Dev.movedFrom (d : Dev) (p : Nat) : Bool :=
  d.lnk.ports.any (fun q => (q.replay ++ q.ctlTx ++ q.bulkTx).any (fun f => f.moved == some p))

/-- OWNED of every port: its replay, its wait for a resent flit, or its failover is not at an end: flits moved here or resent by the
partner (R316 to R318). -/
def Dev.settleOwned (d : Dev) : Dev :=
  { d with lnk := { d.lnk with ports := (d.lnk.ports.zipIdx).map (fun (x : Port × Nat) =>
    { x.1 with owned := x.1.nakAt.isSome || x.1.resentAt.isSome || d.movedFrom x.2 ||
        (match x.1.failUntil with | some b => !d.reached b | none => false) }) } }

/-! ### Flits on the lanes (R312, R313) -/

/-- The bytes of a wire element: 16 of an E-mode one, V, STATE, RES and two of 0 (R341); 4 or 8 of a float (R342, R343). -/
def Wire.element : Wire → List Byte
  | .e v st => bytesLE 12 (BitVec.ofInt 96 v).toNat ++ [BitVec.ofNat 8 st, BitVec.ofInt 8 (v % 255), 0, 0]
  | .f32 code => bytesLE 4 code
  | .f64 code => bytesLE 8 code

/-- The residue byte that up to 16 floats bring with them (R342). -/
def groupResidues (vals : List Wire) : List Byte :=
  let codes := vals.filterMap (fun w => match w with | .e _ _ => none | .f32 c => some c | .f64 c => some c)
  if codes.isEmpty then [] else [Config.groupResidue codes]

/-- The head of the data of a collective's flit: the posting sequence and the parameters, whose layout is a free value (R337, R339). -/
def collHead (k : Nat) : List Byte :=
  let h := (Config.flitData k).take 48
  h ++ List.replicate (48 - h.length) 0

/-- The DATA of a flit: a marker's TS64, hop count and MARK_INTERVAL, the bytes of data, the elements of a contribution or the bytes
of a collective; for the others it is a free value. -/
def Flit.data (f : Flit) (k : Nat) : List Byte :=
  match f.body with
  | .contribution _ _ _ _ _ vals bs => collHead k ++ vals.flatMap Wire.element ++ groupResidues vals ++ bs
  | .result _ _ _ _ bs => collHead k ++ bs
  | .marker m => bytesLE 8 m.ts.toNat ++ [m.hop] ++ bytesLE 2 m.interval.toNat
  | .data bs => bs
  | .idle => []
  | _ => (Config.flitData k).take 240

/-- Bytes 0 to 251 of a flit (R313). -/
def Flit.head (f : Flit) (k : Nat) : List Byte :=
  let data := f.data k
  [BitVec.ofNat 8 (f.type * 16 + b2n f.vc * 8 + b2n f.first * 4 + b2n f.last * 2), BitVec.ofNat 8 data.length] ++
  bytesLE 2 f.seq.toNat ++ bytesLE 2 f.ack.toNat ++ bytesLE 2 f.dest.toNat ++ bytesLE 2 f.src.toNat ++ bytesLE 2 f.channel.toNat ++
  data ++ List.replicate (240 - data.length) 0

/-- A flit on the lanes: the delimiter, and 256 bytes of which the last four are the CRC (R312, R313). -/
def Flit.wire (f : Flit) (k : Nat) : List Byte := [0xA5] ++ f.head k ++ bytesLE 4 (crc32 (f.head k)).toNat

/-- Groups of five flits, of which the last may be short. -/
def inFives {α : Type} : Nat → List α → List (List α)
  | 0, _ => []
  | fuel + 1, l => if l.isEmpty then [] else l.take 5 :: inFives fuel (l.drop 5)

/-- The codewords that a port has sent since its training: five flits fill the data of two without gaps (R312). `k` numbers the free
bytes of the flits. -/
def Port.codewords (q : Port) (k : Nat) : List (List (BitVec 10)) :=
  let flits := (q.sent.drop q.sentBefore).zipIdx
  ((inFives flits.length flits).filter (fun g => g.length = 5)).flatMap (fun g =>
    let s := symbols (g.flatMap (fun (x : Flit × Nat) => x.1.wire (k + x.2)))
    [rsWord (s.take 514), rsWord (s.drop 514)])

/-- The symbols on a data lane: each codeword goes over the 8 lanes symbol by symbol (R312).  DEDUCED (log entry 132). -/
def Port.laneSymbols (q : Port) (k lane : Nat) : List (BitVec 10) :=
  (q.codewords k).flatMap (fun w => (w.zipIdx).filterMap (fun (x : BitVec 10 × Nat) => if x.2 % 8 = lane then some x.1 else none))

/-- SPARE_LANE: the state of the spare in the direction in which a lane has failed. -/
def Port.spareShown (q : Port) : BitVec 4 := if q.spareLane = 0xF then q.spareTx else q.spareLane

/-- The data lane that the spare repeats during the next flit, or carries alone (R315). -/
def Port.spareCarries (q : Port) : BitVec 4 :=
  if q.spareTx = 0xF then BitVec.ofNat 4 (q.flitsTx.toNat % 8) else q.spareTx

/-! ### Receiving (R314, R316) -/

/-- The flits that an ACK leaves unacknowledged. -/
def afterAck (ack : BitVec 16) (l : List Flit) : List Flit :=
  if l.any (fun f => f.seq == ack) then (l.dropWhile (fun f => f.seq != ack)).drop 1 else l

/-- An acknowledgement up to a SEQ; once the first resent flit is acknowledged the attempt has succeeded (R316). -/
def Port.acked (p : Port) (ack : BitVec 16) : Port :=
  let rest := afterAck ack p.replay
  let moved := decide (rest.length < p.replay.length)
  { p with
    replay := rest
    resend := p.resend.filter (fun f => rest.any (fun g => g.seq == f.seq))
    resentAt := if moved then none else p.resentAt
    failures := if moved then 0 else p.failures }

/-- Corrected symbols of a codeword, lane by lane, counted in LNK_FEC_CE and for LNK_LANE_ERR (R314). -/
def Port.countCorrected (p : Port) (ce : List Nat) : Port :=
  { p with
    fecCe := satAdd p.fecCe ce.sum
    laneNow := (p.laneNow.zipIdx).map (fun (x : Nat × Nat) => x.1 + ce.getD x.2 0) }

/-- The codewords under the next flit decode (R314): of the two that five flits fill, the first lies under flits 0 to 2 and the second
under flits 2 to 4; `decoded` is what the receiver found of the codeword that begins under this flit (R312). -/
def Port.codewordGood (q : Port) (decoded : Bool) : Bool :=
  match q.rxPos.val with
  | 0 => decoded
  | 1 => q.rxFirst
  | 2 => q.rxFirst && decoded
  | _ => q.rxSecond

/-- A flit has come in: the codeword that begins under it is counted once, with its corrected symbols (R312, R314). -/
def Port.takeCodeword (q : Port) (decoded : Bool) (ce : List Nat) : Port :=
  let next := { q with rxPos := q.rxPos + 1 }
  if q.rxPos.val = 0 || q.rxPos.val = 2 then
    { next.countCorrected ce with
      fecUe := if decoded then q.fecUe else satInc q.fecUe
      rxFirst := if q.rxPos.val = 0 then decoded else q.rxFirst
      rxSecond := if q.rxPos.val = 2 then decoded else q.rxSecond }
  else next

/-- The first SEQ out of order, or a bad flit: a NAK and OWNED; while a NAK waits, a bad flit that can be the resent one
fails the attempt and is answered by a new NAK, and others are discarded (R316). -/
def Dev.flitBad (d : Dev) (p : Nat) : Dev :=
  let q := d.port p
  match q.nakAt with
  | none => (d.linkControl p (.nak q.rxNext)).modPort p (fun q => { q with nakAt := some d.now, rxFails := 0 })
  | some b =>
    if 2 * q.delayTs.toNat ≤ (d.now - b).toNat then
      let d := d.modPort p (fun q => { q with rxFails := q.rxFails + 1, nakAt := some d.now })
      if (d.port p).rxFails < 4 then d.linkControl p (.nak q.rxNext) else d
    else d

/-- An uncompleted SEND changed. -/
def Dev.modSend (d : Dev) (i : Nat) (f : SendJob → SendJob) : Dev :=
  { d with lnk := { d.lnk with sends := d.lnk.sends.modify i f } }

/-- A good flit taken: a marker into the marker buffer, a claim and link control to this device, everything else by its
destination (R314, R320, R321, R324). -/
def Dev.takeFlit (d : Dev) (p : Nat) (f : Flit) : Dev :=
  let f := { f with via := f.place.map (fun k => (p, k)) }
  match f.body with
  | .idle => d
  | .ack => d
  | .marker m => { d with bt := { d.bt with markerIn := d.bt.markerIn.set p (some { m with arrived := d.now }) } }
  | .sendRefused _ =>
    if f.dest != d.coord then d.routeFlit (some p) f
    else
      let d := d.freePlace f
      match d.lnk.sends.findIdx? (fun (j : SendJob) => j.state == .requested && j.peer == f.src && j.channel == f.channel) with
      | some i => d.modSend i (fun j => { j with state := .refused d.bt.beat })
      | none => d
  | _ =>
    if f.type = 2 || f.dest == d.coord then { d with lnk := { d.lnk with inbox := d.lnk.inbox ++ [(p, f)] } }
    else match f.body with
      | .claim _ => { d with lnk := { d.lnk with inbox := d.lnk.inbox ++ [(p, f)] } }
      | _ => d.routeFlit (some p) f

/-- Credits that a link-control flit brings (R332). -/
def Port.refill (q : Port) (c : List Nat) : Port :=
  { q with credits := (q.credits.zipIdx).map (fun (x : Nat × Nat) => x.1 + c.getD x.2 0) }

/-- The receiver takes the failed lane from the spare from the marked flit on (R315). -/
def Port.takeMark (q : Port) (f : Flit) : Port :=
  match f.mark, q.laneWait with
  | true, some l => { q with spareLane := l, laneWait := none }
  | _, _ => q

/-- FLIT_RECEIVE: `decoded`, `delimOk` and `crcOk` are what the receiver found of the codeword that begins under the flit, the
delimiter and the CRC, `ce` the corrected symbols by lane (R314, R316). -/
def flitReceive (port : Fin 24) (decoded delimOk crcOk : Bool) (ce : List Nat) (f : Flit) (d : Dev) : Dev :=
  let p := port.val
  if (d.port p).state != .up then d
  else
    let good := (d.port p).codewordGood decoded
    let d := d.modPort p (fun q =>
      { q.takeCodeword decoded ce with crcErr := if good && !crcOk then satInc q.crcErr else q.crcErr })
    if !(good && delimOk && crcOk && f.type ≤ 5) then (d.flitBad p).settleOwned
    else
      let d := d.modPort p (fun q => (({ q with flitsRx := satInc q.flitsRx }).takeMark f).acked f.ack)
      let sequenced := f.type == 1 || f.type == 2 || f.type == 4
      if !sequenced then (d.takeFlit p f).settleOwned
      else if f.seq = (d.port p).rxNext then
        ((d.modPort p (fun q => ({ q with rxNext := q.rxNext + 1, nakAt := none, rxFails := 0 }).refill f.credit)).takeFlit p f).settleOwned
      else if (d.port p).nakAt.isNone then (d.flitBad p).settleOwned
      else d.settleOwned

/-- The first message of the inbox that `f` picks, and the inbox without it. -/
def takeFirst (pick : Nat × Flit → Bool) : List (Nat × Flit) → Option ((Nat × Flit) × List (Nat × Flit))
  | [] => none
  | x :: r => if pick x then some (x, r) else (takeFirst pick r).map (fun y => (y.1, x :: y.2))

/-- A message taken from the inbox, whose place in the receive buffer is free again. -/
def Dev.takeInbox (d : Dev) (pick : Nat × Flit → Bool) : Option ((Nat × Flit) × Dev) :=
  (takeFirst pick d.lnk.inbox).map (fun x => (x.1, { d with lnk := { d.lnk with inbox := x.2 } }.freePlace x.1.2))

/-! ### Replay (R316) -/

/-- A resend of every unacknowledged flit. -/
def Dev.resendAll (d : Dev) (p : Nat) : Dev :=
  d.modPort p (fun q => { q with resend := q.replay, resentAt := some d.bt.beat, replays := satInc q.replays })

/-- A replay attempt failed; below the fourth in a row another starts (R316, R317). -/
def Dev.attemptFailed (d : Dev) (p : Nat) : Dev :=
  let d := (d.modPort p (fun q => { q with failures := q.failures + 1, replayFailed := satInc q.replayFailed })).setLnkEvent 1
  if (d.port p).failures < 4 then d.resendAll p else d

/-- NAK_RECEIVE: the transmitter resends from the named SEQ; a NAK for a flit already resent fails that attempt (R316). -/
def nakReceive (port : Fin 24) (d : Dev) : Dev :=
  match d.takeInbox (fun x => x.1 == port.val && (match x.2.body with | .nak _ => true | _ => false)) with
  | none => d
  | some ((p, f), d) =>
    match f.body with
    | .nak seq =>
      let q := d.port p
      if q.state != .up || !q.replay.any (fun g => g.seq == seq) then d
      else
        let again := q.resentAt.isSome && (q.replay.head?.map (·.seq)) == some seq
        let d := d.modPort p (fun q => { q with replay := q.replay.dropWhile (fun g => g.seq != seq) })
        (if again then d.attemptFailed p else d.resendAll p).settleOwned
    | _ => d

/-- REPLAY_TIMEOUT: no answer came within 16 beats of a resend (R316). -/
def replayTimeout (port : Fin 24) (d : Dev) : Dev :=
  match (d.port port.val).resentAt with
  | some b =>
    if (d.port port.val).state == .up && 16 < d.since b && (d.port port.val).failures < 4 then
      (d.attemptFailed port.val).settleOwned
    else d
  | none => d

/-! ### Port failover (R317, R319, R326) -/

/-- Flits that failover moves: those of the traffic classes, in the order of the port; link control is between the two ends of the
port alone. -/
def Port.moving (q : Port) (p : Nat) : List Flit :=
  ((q.replay ++ q.ctlTx ++ q.bulkTx).filter (·.isTraffic)).map (fun f => { f with moved := some p, seq := 0 })

/-- A moved flit on one of the other ports of its direction: a claim on the first of them, any other by its route (R317, R325). -/
def Dev.moveFlit (d : Dev) (p : Nat) (f : Flit) : Dev :=
  match f.body, d.upOf (dirOf p) with
  | .claim _, o :: _ => d.modPort o (fun q => q.enqueue f)
  | .claim _, [] => d
  | _, _ => d.routeFlit (some p) f

/-- A direction that has lost its last port: its record, and its packets wait (R326). -/
def Dev.directionLost (d : Dev) (dir : Nat) (unit : BitVec 16) : Dev :=
  if (d.upOf dir).isEmpty && !d.lnk.lostDirs.any (fun x => x.1 == dir) then
    ({ d with lnk := { d.lnk with lostDirs := d.lnk.lostDirs ++ [(dir, none)] } }.setLnkEvent 3).writeRecord
      (d.mkRec 4 5 0x1403 unit)
  else d

/-- The receive buffer of a failed port holds nothing any more that its next training would count (R332). -/
def Dev.emptyBuffer (d : Dev) (p : Nat) : Dev :=
  let out := fun (f : Flit) => if f.via.map (·.1) == some p then { f with via := none } else f
  { d with lnk := { d.lnk with
    ports := d.lnk.ports.map (fun (q : Port) => { q with ctlTx := q.ctlTx.map out, bulkTx := q.bulkTx.map out })
    waiting := d.lnk.waiting.map out
    inbox := d.lnk.inbox.map (fun x => (x.1, out x.2)) } }

/-- Of a direction without a port up nothing asserts OWNED any more: its packets wait, and the timeouts run (R318). -/
def Dev.endOwned (d : Dev) (dir : Nat) : Dev :=
  if (d.upOf dir).isEmpty then (portsOf dir).foldl (fun (d : Dev) p => d.modPort p (fun q => { q with failUntil := none })) d else d

/-- A port fails (R317): its state, the record and the crater table, the notices over the other ports of the direction, and
its unacknowledged and waiting flits moved to them. `host` is FENCE's REASON. -/
def Dev.failPort (d : Dev) (p : Nat) (target : PortState) (host : Option HostFence) : Dev :=
  let d := d.emptyBuffer p
  let last := (d.upOf (dirOf p)).all (· == p)
  let flits := ((d.port p).moving p).map (fun f => if last then { f with moved := none } else f)
  let up := (d.port p).state == .up
  let (k, d) := d.draw
  let (first, d) := d.countDeviceFault
  let (_, d) := d.enterCrater (unitId 4 p) (host.map (fun r => r.1.setWidth 8))
  let d := ((d.writeRecord (((d.mkRec 3 (if host.isSome then 11 else 5) 0x1402 (unitId 4 p)).fault first).withReason host)).setLnkEvent 2).modPort p (fun q =>
    { q with state := target, nakAt := none, rxFails := 0, resentAt := none, failures := 0, markTx := none, linkTx := [], ctlTx := []
             bulkTx := [], replay := [], resend := [], laneMark := false, laneWait := none
             failUntil := if up then some (beatAdd d.bt.beat (min 100 (Config.failoverBeats k))) else none })
  let d := { d with bt := { d.bt with
    portHop := d.bt.portHop.set p none, markerIn := d.bt.markerIn.set p none } }
  let d := (d.upOf (dirOf p)).foldl (fun (d : Dev) o => d.linkControl o (.portNotice p)) d
  let d := flits.foldl (fun (d : Dev) f => d.moveFlit p f) d
  ((d.directionLost (dirOf p) (unitId 4 p)).endOwned (dirOf p)).settleOwned

/-- PORT_FAIL: four replay attempts in a row have failed (R317). -/
def portFail (port : Fin 24) (d : Dev) : Dev :=
  let q := d.port port.val
  if q.state == .up && (4 ≤ q.failures || 4 ≤ q.rxFails) then d.failPort port.val .failed none else d

/-- PORT_NOTICE: the partner's notice fails the port at this end (R317). -/
def portNotice (port : Fin 24) (d : Dev) : Dev :=
  match d.takeInbox (fun x => x.1 == port.val && (match x.2.body with | .portNotice _ => true | _ => false)) with
  | none => d
  | some ((_, f), d) =>
    match f.body with
    | .portNotice n =>
      let p := partnerPort n
      if (d.port p).state == .up then d.failPort p .failed none else d
    | _ => d

/-- DIRECTION_REROUTE: LKP's detours are installed, and the waiting packets go: for a direction that this device has lost, or else
for one that another device has lost; LKP must run (R61, R326). -/
def directionReroute (dir : Fin 8) (d : Dev) : Dev :=
  if !d.runs 4 then d
  else if !d.lnk.lostDirs.any (fun x => x.1 == dir.val) then
    let (k, d) := d.draw
    { d with lnk := { d.lnk with detour := some k } }
  else if d.lnk.lostDirs.contains (dir.val, none) then
    let wait := d.lnk.waiting
    let (k, d) := d.draw
    let d := { d with lnk := { d.lnk with
      lostDirs := d.lnk.lostDirs.map (fun x => if x.1 == dir.val then (x.1, some k) else x), waiting := [] } }
    wait.foldl (fun (d : Dev) f => d.routeFlit (d.axisPort f) f) d
  else d

/-! ### The spare lane (R315) -/

/-- The record of a lane. -/
def Dev.laneRecord (d : Dev) (p lane : Nat) : Dev :=
  d.writeRecord ((d.mkRec 1 5 0x1400 (unitId 4 p)).withDetail [(32, [BitVec.ofNat 8 lane])])

/-- A lane of the port has failed before: one of its receiver, one that waits for its switch, or one that the partner named (R315). -/
def Port.laneLost (q : Port) : Bool := q.spareLane != 0xF || q.laneWait.isSome || q.spareTx != 0xF

/-- LANE_FAIL: a lane that lost lock, or one with more corrected symbols in this beat than LANE_THR, fails; the receiver sends a
notice for the first data lane, which it takes from the spare from the marked flit on, and a second failure on the port, in either
direction, fails it (R315, R317). -/
def laneFail (port : Fin 24) (lane : Fin 9) (lostLock : Bool) (d : Dev) : Dev :=
  let p := port.val
  let q := d.port p
  if q.state != .up || !(lostLock || decide (d.lnk.laneThr.toNat < q.laneNow.getD lane.val 0)) ||
      (lane.val = 8 && q.spareLane = 0xE) || q.spareLane = BitVec.ofNat 4 lane.val || q.laneWait == some (BitVec.ofNat 4 lane.val) then d
  else if q.laneLost then d.failPort p .failed none
  else if lane.val = 8 then (d.modPort p (fun q => { q with spareLane := 0xE })).laneRecord p 8
  else
    ((((d.linkControl p (.laneNotice (BitVec.ofNat 4 lane.val))).modPort p (fun q =>
      { q with laneWait := some (BitVec.ofNat 4 lane.val) })).setLnkEvent 0).laneRecord p lane.val)

/-- LANE_NOTICE: the transmitter gives the spare the failed lane and marks its next flit; where a lane of the port has failed before,
this is the second (R315, R317). -/
def laneNotice (port : Fin 24) (d : Dev) : Dev :=
  match d.takeInbox (fun x => x.1 == port.val && (match x.2.body with | .laneNotice _ => true | _ => false)) with
  | none => d
  | some ((p, f), d) =>
    match f.body with
    | .laneNotice lane =>
      if (d.port p).state != .up then d
      else if !(d.port p).laneLost || (d.port p).spareTx = lane then d.modPort p (fun q => { q with spareTx := lane, laneMark := true })
      else d.failPort p .failed none
    | _ => d

/-! ### Sending (R316, R320, R321) -/

/-- A new sequenced flit goes out: it takes the next SEQ and is kept until acknowledged (R316). -/
def Port.sendNew (q : Port) (f : Flit) : Port :=
  let f := { f with seq := q.txSeq, ack := q.rxNext - 1, via := none, credit := if f.type = 2 then q.freed else [] }
  { q with txSeq := q.txSeq + 1, replay := q.replay ++ [f], sent := q.sent ++ [f]
           freed := if f.type = 2 then List.replicate 4 0 else q.freed }

/-- A new flit of a traffic class goes out on a credit of its class and VC (R324, R332). -/
def Port.sendData (q : Port) (f : Flit) : Port :=
  match f.place with
  | some k => ({ q with credits := q.credits.modify k (· - 1) }).sendNew f
  | none => q.sendNew f

/-- The first flit of a class that has a credit, and the class without it: a VC without credits holds up no other (R324). -/
def Port.firstReady (q : Port) : List Flit → Option (Flit × List Flit)
  | [] => none
  | f :: r =>
    let ready := match f.place with
      | some k => decide (0 < q.credits.getD k 0)
      | none => true
    if ready then some (f, r) else (q.firstReady r).map (fun x => (x.1, f :: x.2))

/-- A flit has left: it is counted, and stands on the lanes with what the spare carried and the mark of a switch (R315). -/
def Port.stampLast (q old : Port) : Port :=
  { q with
    flitsTx := satInc q.flitsTx, laneMark := false
    sent := q.sent.take old.sent.length ++ (q.sent.drop old.sent.length).map (fun f => { f with spare := old.spareCarries, mark := old.laneMark }) }

/-- FLIT_BOUNDARY: the first ready flit of the classes of R320 goes out.  Link control is ready when a notice waits, or when
a beat has passed since the last acknowledgement in one (R316); at 2,048 unacknowledged flits new sequenced ones wait, and so do
flits for which the partner has no place (R332). -/
def flitBoundary (port : Fin 24) (d : Dev) : Dev :=
  let p := port.val
  let q := d.port p
  if q.state != .up then d
  else
    let room := decide (q.replay.length < 2048)
    let (k, d') := d.draw
    let count := fun (d : Dev) (f : Port → Port) => d.modPort p (fun q => (f q).stampLast q)
    match q.markTx with
    | some f =>
      let f := match f.body with
        | .marker m => { f with body := .marker { m with ts := d.now } }
        | _ => f
      count d (fun q => { q with markTx := none, sent := q.sent ++ [{ f with ack := q.rxNext - 1 }] })
    | none =>
      match q.linkTx, q.resend, q.ctlTx, q.bulkTx with
      | f :: r, _, _, _ =>
        if room then count d (fun q => ({ q with linkTx := r, ackAt := d.bt.beat }).sendNew f) else
        (match q.resend with
         | g :: s => count d (fun q => { q with resend := s, sent := q.sent ++ [{ g with ack := q.rxNext - 1 }] })
         | [] => count d' (fun q => { q with sent := q.sent ++ [{ type := 0, seq := Config.idleSeq k, ack := q.rxNext - 1, body := .idle }] }))
      | [], rs, cs, bs =>
        if room && 1 ≤ d.since q.ackAt then
          count d (fun q => ({ q with ackAt := d.bt.beat }).sendNew { type := 2, dest := q.nbr, src := d.coord, body := .ack })
        else
          match rs with
          | g :: s => count d (fun q => { q with resend := s, sent := q.sent ++ [{ g with ack := q.rxNext - 1 }] })
          | [] =>
            match (if room then q.firstReady cs else none), (if room then q.firstReady bs else none) with
            | some (f, r), _ => (count d (fun q => ({ q with ctlTx := r }).sendData f)).freePlace f
            | none, some (f, r) => (count d (fun q => ({ q with bulkTx := r }).sendData f)).freePlace f
            | none, none =>
              count d' (fun q => { q with sent := q.sent ++ [{ type := 0, seq := Config.idleSeq k, ack := q.rxNext - 1, body := .idle }] })

/-! ### SEND and RECV (R329 to R332) -/

/-- The next SEND to a peer on a channel makes its request, once no earlier one there waits for its grant: requests match in issue
order (R329, R332). -/
def Dev.requestNext (d : Dev) (peer : BitVec 15) (channel : BitVec 16) : Dev :=
  let mine := fun (j : SendJob) => j.peer == peer && j.channel == channel
  let waits := fun (j : SendJob) => mine j && (match j.state with | .requested => true | .refused _ => true | _ => false)
  match d.lnk.sends.any waits, d.lnk.sends.findIdx? (fun (j : SendJob) => mine j && j.state == .ready) with
  | false, some i =>
    let n := (d.lnk.sends[i]?.map (·.bytes)).getD 0
    (d.modSend i (fun j => { j with state := .requested })).sendControl peer channel (.sendReq n)
  | _, _ => d

/-- At the commit of a chunk its SENDs make their requests, in issue order (R329). -/
def Dev.postSends (d : Dev) (p : Plan) (c : Nat) : Dev :=
  let mine := fun (j : SendJob) => j.handle == p.handle && j.core == c && j.state == .held
  let due := d.lnk.sends.filter mine
  let d := { d with lnk := { d.lnk with
    sends := d.lnk.sends.map (fun j => if mine j then { j with state := .ready } else j) } }
  due.foldl (fun (d : Dev) j => d.requestNext j.peer j.channel) d

/-- SEND_REQUEST: a peer's request is matched with the first posted RECV of its PEER and CHANNEL, or waits in the table, or is
refused at 256 (R329, R332). -/
def sendRequest (d : Dev) : Dev :=
  match d.takeInbox (fun x => match x.2.body with | .sendReq _ => true | _ => false) with
  | none => d
  | some ((_, f), d) =>
    match f.body with
    | .sendReq n =>
      match d.lnk.recvs.findIdx? (fun (j : RecvJob) => j.match?.isNone && j.peer == f.src && j.channel == f.channel) with
      | some i =>
        let d := { d with lnk := { d.lnk with recvs := d.lnk.recvs.modify i (fun (j : RecvJob) => { j with match? := some n }) } }
        d.sendControl f.src f.channel (.grant ((d.lnk.recvs[i]?.map (·.bytes)).getD 0))
      | none =>
        if d.lnk.requests.length < 256 then
          { d with lnk := { d.lnk with requests := d.lnk.requests ++ [⟨f.src, f.channel, n⟩] } }
        else d.sendControl f.src f.channel (.sendRefused n)
    | _ => d

/-- SEND_REQUEST_RETRY: the first request refused 16 beats ago is made again (R332). -/
def sendRequestRetry (d : Dev) : Dev :=
  match d.lnk.sends.findIdx? (fun (j : SendJob) => match j.state with | .refused b => decide (16 ≤ d.since b) | _ => false) with
  | none => d
  | some i =>
    match d.lnk.sends[i]? with
    | none => d
    | some j =>
      (d.modSend i (fun j => { j with state := .requested })).sendControl
        j.peer j.channel (.sendReq j.bytes)

/-- Committed bytes as the links read them; what a poisoned codeword reads as here the spec does not say. -/
def Dev.readOut (d : Dev) (a n : Nat) : List Byte × Dev :=
  let bs := memBytes d.mem.bytes a n
  match d.mem.poisoned? a n with
  | none => (bs, d)
  | some _ =>
    let (k, d) := d.draw
    ((bs.zipIdx).map (fun (x : Byte × Nat) =>
      if d.mem.poison.contains ((a + x.2) / 64) then Config.poisonByte k (a + x.2) else x.1), d.countPoison a)

/-- SEND_GRANT: the sender reads SRC from committed memory and transmits it (R329). -/
def sendGrant (d : Dev) : Dev :=
  match d.takeInbox (fun x => match x.2.body with | .grant _ => true | _ => false) with
  | none => d
  | some ((_, f), d) =>
    match d.lnk.sends.findIdx? (fun (j : SendJob) => j.state == .requested && j.peer == f.src && j.channel == f.channel) with
    | none => d
    | some i =>
      match d.lnk.sends[i]? with
      | none => d
      | some j =>
        let (data, d) := d.readOut j.src j.bytes
        ((d.modSend i (fun j => { j with state := .sent })).sendBulk
          j.peer j.channel ((cutFlits (j.bytes / 240 + 1) data).map .data)).requestNext j.peer j.channel

/-- SEND_ACKNOWLEDGED: the peer has its last byte; the SEND is complete (R146, R329). -/
def sendAcknowledged (d : Dev) : Dev :=
  match d.takeInbox (fun x => match x.2.body with | .sendDone => true | _ => false) with
  | none => d
  | some ((_, f), d) =>
    match d.lnk.sends.findIdx? (fun (j : SendJob) => j.state == .sent && j.peer == f.src && j.channel == f.channel) with
    | none => d
    | some i => { d with lnk := { d.lnk with sends := d.lnk.sends.eraseIdx i } }

/-- Bytes put down for a RECV, from `got` on: what lies beyond its BYTES is discarded; a codeword that is poisoned and not
covered whole by DST keeps its poison and loses its bytes (R280, R330). -/
def recvCells (m : Mem) (j : RecvJob) (bs : List Byte) : List Host.Cell :=
  let keep := fun a => decide (a < j.dst + j.bytes) &&
    !(m.poison.contains (a / 64) && !(decide (j.dst ≤ a / 64 * 64) && decide (a / 64 * 64 + 64 ≤ j.dst + min j.bytes (j.match?.getD 0))))
  ((bs.zipIdx).map (fun (x : Byte × Nat) => (j.dst + j.got + x.2, x.1))).filter (fun e => keep e.1)

/-- The codewords of DST that a RECV's delivery covers in part and that are poisoned. -/
def recvPoison (m : Mem) (j : RecvJob) : List Nat :=
  let n := min j.bytes (j.match?.getD 0)
  m.poison.filter (fun w => decide (j.dst < 64 * w + 64) && decide (64 * w < j.dst + n) &&
    !(decide (j.dst ≤ 64 * w) && decide (64 * w + 64 ≤ j.dst + n)))

/-- Bytes still on their way that no RECV takes are discarded; with the last of them the SEND is acknowledged (R329, R330). -/
def Dev.takeExcess (d : Dev) (src : BitVec 15) (channel : BitVec 16) (left n : Nat) : Dev :=
  let rest := d.lnk.excess.filter (fun (e : BitVec 15 × BitVec 16 × Nat) => !(e.1 == src && e.2.1 == channel))
  if left ≤ n then ({ d with lnk := { d.lnk with excess := rest } }).sendControl src channel .sendDone
  else { d with lnk := { d.lnk with excess := rest ++ [(src, channel, left - n)] } }

/-- A RECV whose bytes are there: the acknowledgement once the sender's last byte is, the record of differing counts, a record for
each poisoned codeword met, and its flight ends (R280, R329, R330). -/
def Dev.recvArrived (d : Dev) (i : Nat) : Dev :=
  match d.lnk.recvs[i]? with
  | none => d
  | some j =>
    let n := j.match?.getD 0
    let d := d.takeExcess j.peer j.channel n j.got
    let d := if n = j.bytes then d else
      d.writeRecord (((d.mkRec 1 5 (Config.recordCode 0).toNat 0).withTag j.tag (d.funcOf j.core)).withDetail
        [(32, bytesLE 4 n), (36, bytesLE 4 j.bytes)])
    let bad := recvPoison d.mem j
    let d := bad.foldl (fun (d : Dev) w =>
      (d.countPoison (64 * w)).writeRecord (((d.mkRec 4 5 0x0600 0).withTag j.tag (d.funcOf j.core)).withAddr (64 * w))) d
    let j := { j with poisoned := !bad.isEmpty }
    let d := { d with lnk := { d.lnk with recvs := d.lnk.recvs.set i j } }
    if (d.cq j.core).flights.any (fun f => f.idx == j.idx) then d.finishRecv j else d

/-- RECV_DATA: data of a granted SEND arrives for the first matched RECV that has not all of its bytes; what is more than a RECV
takes is discarded (R330). -/
def recvData (d : Dev) : Dev :=
  match d.takeInbox (fun x => match x.2.body with | .data _ => true | _ => false) with
  | none => d
  | some ((_, f), d) =>
    match f.body with
    | .data bs =>
      (match d.lnk.excess.find? (fun (e : BitVec 15 × BitVec 16 × Nat) => e.1 == f.src && e.2.1 == f.channel) with
       | some e => d.takeExcess f.src f.channel e.2.2 bs.length
       | none =>
       match d.lnk.recvs.findIdx? (fun (j : RecvJob) => j.match?.isSome && !j.arrived && j.peer == f.src && j.channel == f.channel) with
       | none => d
       | some i =>
         let d := { d with lnk := { d.lnk with recvs := d.lnk.recvs.modify i (fun (j : RecvJob) =>
           { j with got := j.got + bs.length, lines := cellSetCells j.lines (recvCells d.mem j bs) }) } }
         if ((d.lnk.recvs[i]?).map RecvJob.arrived).getD false then d.recvArrived i else d)
    | _ => d

/-- RECV_TIMEOUT: the first posted RECV whose timer has run out halts its queue, with a record (R331). -/
def recvTimeout (d : Dev) : Dev :=
  match d.lnk.recvs.find? (fun j => !j.arrived && decide (j.timeout ≤ j.count) && !j.expired) with
  | none => d
  | some j =>
    let d := { d with lnk := { d.lnk with recvs := d.lnk.recvs.map (fun (k : RecvJob) => if k.core == j.core && k.idx == j.idx then { k with expired := true } else k) } }
    ((d.haltQueue j.core).setLnkEvent 5).writeRecord
      (((d.mkRec 4 5 0x1404 0).withTag j.tag (d.funcOf j.core)).withCount (d.cq j.core).regs.exec)

/-! ### Training of a port (R327, R328) -/

/-- The state in which training leaves a port (R322, R327). -/
def Dev.trainResult (d : Dev) (p : Nat) (t : TrainIn) : PortState :=
  let dir := dirOf p
  if !d.lnk.inDims d.coord then .miswired
  else if !t.signal || 2 ≤ t.badLanes.length + t.txLanes.length || !t.locked then .failed
  else if t.nbr != d.neighbour dir || t.dir.val != dirOf (partnerPort p) || t.rank.val != rankOfPort p then .miswired
  else if 6 * 4096 < t.delay.toNat then .delayLong
  else .up

/-- A port trained: its counters cleared and its state set; a miswired one is recorded (R327).  DISABLED holds on an axis of
size 1 (R323). -/
def Dev.trainPort (d : Dev) (p : Nat) (t : TrainIn) : Dev :=
  if d.axisSize (axisOf (dirOf p)) = 1 then d.modPort p (fun _ => {})
  else
    let st := d.trainResult p t
    let spare := fun (ls : List (Fin 9)) => match ls with
      | [l] => if l.val = 8 then (0xE : BitVec 4) else BitVec.ofNat 4 l.val
      | _ => 0xF
    let found := t.signal && t.badLanes.length + t.txLanes.length ≤ 1 && t.locked
    let old := d.port p
    let d := d.modPort p (fun _ => { state := st, nbr := if found then t.nbr else 0x7FFF, delay := if found then BitVec.ofNat 8 (min 255 ((t.delay.toNat + 4095) / 4096)) else 0
                                     delayTs := if found then t.delay else 0
                                     nbrSerial := if found then t.serial else 0, nbrUid := if found then t.uid else 0
                                     spareLane := if st == .up then spare t.badLanes else 0xF
                                     spareTx := if st == .up then spare t.txLanes else 0xF
                                     trainAt := d.bt.beat, sent := old.sent, sentBefore := old.sent.length })
    if st == .miswired then
      let d := d.setLnkEvent 4
      if d.lnk.inDims d.coord then d.writeRecord (d.mkRec 3 5 0x1405 (unitId 4 p)) else d
    else d

/-- A direction with a port up is no longer lost: its packets go (R328). -/
def Dev.directionBack (d : Dev) (dir : Nat) : Dev :=
  if (d.upOf dir).isEmpty then d
  else
    let wait := d.lnk.waiting
    let d := { d with lnk := { d.lnk with lostDirs := d.lnk.lostDirs.filter (fun x => x.1 != dir), waiting := [] } }
    wait.foldl (fun (d : Dev) f => d.routeFlit (d.axisPort f) f) d

/-- PORT_RETRAIN: a FAILED port that is not in the crater table and has power is trained again by LKP every second (R328). -/
def portRetrain (port : Fin 24) (t : TrainIn) (d : Dev) : Dev :=
  let p := port.val
  if d.runs 4 && d.domUp (128 + p) && d.lnk.retrainEn && (d.port p).state == .failed && (d.crater? (unitId 4 p)).isNone &&
      10000000 ≤ d.since (d.port p).trainAt then
    (d.trainPort p t).directionBack (dirOf p)
  else d

/-! ### Commands -/

/-- FLIT_RECEIVE (R314). -/
def execFlitReceive (port : Fin 24) (decoded delimOk crcOk : Bool) (ce : List Nat) (f : Flit) (st : State) : Out State := run (flitReceive port decoded delimOk crcOk ce f) st
/-- LANE_FAIL (R315). -/
def execLaneFail (port : Fin 24) (lane : Fin 9) (lostLock : Bool) (st : State) : Out State := run (laneFail port lane lostLock) st
/-- LANE_NOTICE (R315). -/
def execLaneNotice (port : Fin 24) (st : State) : Out State := run (laneNotice port) st
/-- NAK_RECEIVE (R316). -/
def execNakReceive (port : Fin 24) (st : State) : Out State := run (nakReceive port) st
/-- REPLAY_TIMEOUT (R316). -/
def execReplayTimeout (port : Fin 24) (st : State) : Out State := run (replayTimeout port) st
/-- PORT_FAIL (R317). -/
def execPortFail (port : Fin 24) (st : State) : Out State := run (portFail port) st
/-- PORT_NOTICE (R317). -/
def execPortNotice (port : Fin 24) (st : State) : Out State := run (portNotice port) st
/-- DIRECTION_REROUTE (R326). -/
def execDirectionReroute (dir : Fin 8) (st : State) : Out State := run (directionReroute dir) st
/-- PORT_RETRAIN (R328). -/
def execPortRetrain (port : Fin 24) (t : TrainIn) (st : State) : Out State := run (portRetrain port t) st
/-- SEND_REQUEST (R329). -/
def execSendRequest (s : State) : Out State := run sendRequest s
/-- SEND_REQUEST_RETRY (R332). -/
def execSendRequestRetry (s : State) : Out State := run sendRequestRetry s
/-- RECV_DATA (R330). -/
def execRecvData (s : State) : Out State := run recvData s
/-- RECV_TIMEOUT (R331). -/
def execRecvTimeout (s : State) : Out State := run recvTimeout s
/-- SEND_GRANT (R329). -/
def execSendGrant (s : State) : Out State := run sendGrant s
/-- SEND_ACKNOWLEDGED (R329). -/
def execSendAcknowledged (s : State) : Out State := run sendAcknowledged s
/-- FLIT_BOUNDARY (R320). -/
def execFlitBoundary (port : Fin 24) (st : State) : Out State := run (flitBoundary port) st

end Sys2Proof.Machine
end

