-- ==== Sys2Proof/Machine/Collective.lean ====
section
/-! DEFINITION. The collectives (file 17): posting, the reduction tree, the arithmetic of the wire modes, results, engines
and timeouts. -/

namespace Sys2Proof.Machine

/-! ### Wire arithmetic (R341 to R343) -/

/-- An element of a wide format as a value. -/
def wideVal (fmt code : Nat) : Val := if fmt = 9 then bf16.decode code else fp32.decode code

/-- The signed value of ANCHOR. -/
def CollParams.window (q : CollParams) : Int := (BitVec.ofNat 16 q.anchor).toInt

/-- A sum or a sum of squares travels in E-mode (R341). -/
def CollParams.eMode (q : CollParams) : Bool := q.red ≤ 1 && q.wire = 0

/-- A value as the E-mode integer V with its state and flags (R341). -/
def toE (w : Int) : Val → Wire × Flags
  | .inf neg => (.e 0 (if neg then 2 else 1), noFlags)
  | .nan => (.e 0 3, noFlags)
  | .fin x =>
    let n := x.multRneInt (w - 70)
    let hi : Int := 2 ^ 85 - 1
    let lo : Int := -(2 ^ 85)
    let exact := Dy.eq x ⟨n, w - 70⟩
    let f : Flags := { inx := !exact, unf := !exact && n == 0, ovf := decide (hi < n) || decide (n < lo) }
    (.e (if hi < n then hi else if n < lo then lo else n) 0, f)

/-- A member's element as its wire value, with the flags of its conversion (R341 to R343). -/
def toWire (q : CollParams) (v : Val) : Wire × Flags :=
  if q.eMode then toE q.window (if q.red = 1 then v.mul v else v)
  else if q.red = 1 then
    (let r := fp32.write (v.mul v)
     (.f32 r.1, r.2))
  else if q.red = 0 then (.f32 (fp32.write v).1, noFlags)
  else
    (match v with
     | .nan => (.f32 fp32.nanCode, invFlag)
     | v => (.f32 (fp32.write v).1, noFlags))

/-- States of E-mode values combined (R341): 0 normal, 1 +infinity, 2 −infinity, 3 NaN. -/
def addSt (a b : Nat) : Nat :=
  if a = 3 || b = 3 then 3 else if a = 0 then b else if b = 0 || a = b then a else 3

/-- The smaller or the larger of two FP32 codes; two zeros give positive zero, a NaN gives the canonical NaN (R343). -/
def pick32 (wantMax : Bool) (a b : Nat) : Nat × Flags :=
  match fp32.decode a, fp32.decode b with
  | .nan, _ => (fp32.nanCode, invFlag)
  | _, .nan => (fp32.nanCode, invFlag)
  | x, y => if (if wantMax then x.lt y else y.lt x) then (b, noFlags) else (a, noFlags)

/-- Two wire values combined, the leader's first (R341 to R343). -/
def addWire (q : CollParams) : Wire → Wire → Wire × Flags
  | .e a s, .e b t => (.e (a + b) (addSt s t), noFlags)
  | .f32 a, .f32 b =>
    if 2 ≤ q.red then (let r := pick32 (q.red == 3) a b; (.f32 r.1, r.2))
    else (let r := fp32.write ((fp32.decode a).add (fp32.decode b)); (.f32 r.1, r.2))
  | .f64 a, .f64 b => (let r := f64AddF a b; (.f64 r.1, r.2))
  | a, _ => (a, noFlags)

/-- A run's P-mode sum widens to FP64 after level 0 (R342). -/
def widen (q : CollParams) : Wire → Wire
  | .f32 a => if 2 ≤ q.red then .f32 a else .f64 (f64Of (fp32.decode a))
  | w => w

/-- The root's one rounding into DST_FMT; a negative zero is written as positive zero (R341 to R343). -/
def rootRound (q : CollParams) (w : Wire) : Nat × Flags :=
  let fmt := if q.dstFmt = 9 then bf16 else fp32
  match w with
  | .e v 0 => fmt.write (.fin ⟨v, q.window - 70⟩)
  | .e _ 1 => fmt.write (.inf false)
  | .e _ 2 => fmt.write (.inf true)
  | .e _ _ => fmt.write .nan
  | .f32 a => fmt.write (fp32.decode a)
  | .f64 a => fmt.write (fp64.decode a)

/-- Two lists of wire values combined element by element. -/
def addWires (q : CollParams) (a b : List Wire) : List Wire × Flags :=
  let rs := List.zipWith (addWire q) a b
  (rs.map (·.1), rs.foldl (fun f r => f.or r.2) noFlags)

/-- Wire bytes of `n` values at a level (R341, R342): E-mode 16 each; otherwise 4 or 8 each, and a residue byte for 16. -/
def wireBytes (q : CollParams) (level n : Nat) : Nat :=
  if q.eMode then 16 * n else (if level = 0 || 2 ≤ q.red then 4 else 8) * n + (n + 15) / 16

/-! ### The tree (R335) -/

/-- The highest level at which a rank leads the runs below: the level at which it passes its partial on. -/
def topLevel (p r : Nat) : Nat :=
  ((List.range (treeDepth p + 1)).reverse.find? (fun l => r % 8 ^ l == 0)).getD 0

/-- The children of a rank with the level at which each passes its partial to it. -/
def allChildren (p r : Nat) : List (Nat × Nat) :=
  (List.range (topLevel p r)).flatMap (fun l => (childrenOf p l r).map (fun c => (l, c)))

/-- Ranks below and at a rank that passes its partial on at level `l`. -/
def subtree (p l r : Nat) : Nat := min (r + 8 ^ l) p - r

/-- Results are slices, one a rank, for reduce-scatter and all-to-all (R340). -/
def CollParams.sliced (q : CollParams) : Bool := q.op == 1 || q.op == 4
def CollParams.reduces (q : CollParams) : Bool := q.op ≤ 1

/-- Result bytes that come to rank `r` for itself and the ranks below. -/
def CollJob.resultLen (j : CollJob) : Nat :=
  if j.params.sliced then j.params.dstLen * subtree j.params.size (topLevel j.params.size j.rank) j.rank else j.params.dstLen

/-- The coordinate of a rank of a job's group, and the rank of a coordinate. -/
def Dev.memberCoord (d : Dev) (j : CollJob) (rank : Nat) : BitVec 15 := d.lnk.rankCoord d.coord j.group rank
def Dev.memberRank? (d : Dev) (j : CollJob) (c : BitVec 15) : Option Nat :=
  (List.range j.params.size).find? (fun r => d.memberCoord j r == c)

def Dev.modColl (d : Dev) (i : Nat) (f : CollJob → CollJob) : Dev :=
  { d with col := { d.col with jobs := d.col.jobs.modify i f } }
def Dev.setColEvent (d : Dev) (i : Nat) : Dev :=
  { d with col := { d.col with events := d.col.events.raise (BitVec.ofNat 4 (2 ^ i)) } }

/-- An engine changed. -/
def Dev.modEngine (d : Dev) (e : Nat) (f : Engine → Engine) : Dev := { d with col := { d.col with engines := d.col.engines.modify e f } }

/-- Flags from their four bits (R188). -/
def flagsOf (b : BitVec 4) : Flags := ⟨b.getLsbD 0, b.getLsbD 1, b.getLsbD 2, b.getLsbD 3⟩

/-- A list in pieces of at most `k`, with their places; at least one piece. -/
def pieces {α : Type} (k : Nat) (l : List α) : List (Nat × List α) :=
  (List.range (max 1 ((l.length + k - 1) / k))).map (fun i => (i * k, (l.drop (i * k)).take k))

/-- Packets of a collective: data as bulk, the rest as control messages (R320). -/
def Dev.sendColl (d : Dev) (j : CollJob) (rank : Nat) (bodies : List Body) : Dev :=
  let dest := d.memberCoord j rank
  let ch := BitVec.ofNat 16 j.group
  if j.params.op = 5 then bodies.foldl (fun (d : Dev) b => d.sendControl dest ch b) d else d.sendBulk dest ch bodies

/-- The partial goes up to the leader of the run. -/
def Dev.sendUp (d : Dev) (j : CollJob) (level : Nat) : Dev :=
  let target := leaderOf level j.rank
  if j.params.reduces then
    d.sendColl j target ((pieces 12 j.vals).map (fun x => Body.contribution j.seq level j.params j.flags j.vals.length x.2 []))
  else
    d.sendColl j target ((pieces 192 j.bytes).map (fun x => Body.contribution j.seq level j.params j.flags j.bytes.length [] x.2))

/-- Result bytes from `off` on passed to the members below, each its part (R335, R340). -/
def Dev.sendDown (d : Dev) (j : CollJob) (flags : BitVec 4) (off : Nat) (bs : List Byte) : Dev :=
  let q := j.params
  (allChildren q.size j.rank).foldl (fun (d : Dev) c =>
    let s := q.dstLen
    let lo := if q.sliced then (c.2 - j.rank) * s else 0
    let len := if q.sliced then subtree q.size c.1 c.2 * s else s
    let a := max lo off
    let b := min (lo + len) (off + bs.length)
    if a < b || len = 0 then
      d.sendColl j c.2 ((pieces 192 ((bs.drop (a - off)).take (b - a))).map (fun x => Body.result j.seq flags len (a - lo + x.1) x.2))
    else d) d

/-- A collective is complete on the device: the flag of its TAG, the count, and its flags (R338, R344). -/
def Dev.completeColl (d : Dev) (i : Nat) (flags : BitVec 4) : Dev :=
  match d.col.jobs[i]? with
  | none => d
  | some j =>
    let d := d.modColl i (fun j => { j with completed := true })
    let d := { d with
      col := { d.col with flags := d.col.flags.raise flags, done := satInc d.col.done }
      deliveries := d.deliveries ++ [{ core := j.core, flag := j.tag.toNat % 64, tag := j.tag }] }
    if flags.getLsbD 0 || flags.getLsbD 3 then d.writeRecord ((d.mkRec 1 6 0x1504 0).withTag j.tag (d.funcOf j.core)) else d

/-- Jobs that are complete and have passed everything on leave. -/
def Dev.sweepColl (d : Dev) : Dev :=
  { d with col := { d.col with jobs := d.col.jobs.filter (fun j => !(j.completed && j.passed && decide (j.resultLen ≤ j.got))) } }

/-- Result bytes from `off` on arrive: this rank's are committed to DST at once, the others passed on (R338, R340). -/
def Dev.takeResult (d : Dev) (i : Nat) (flags : BitVec 4) (off : Nat) (bs : List Byte) : Dev :=
  match d.col.jobs[i]? with
  | none => d
  | some j =>
    let mine := bs.take (j.params.dstLen - off)
    let d := (d.deliver (j.dst + off) mine j.tag 0 6).2
    let d := d.sendDown j flags off bs
    let d := d.modColl i (fun j => { j with got := j.got + bs.length, done := j.done + mine.length })
    if !j.completed && j.params.dstLen ≤ j.done + mine.length then d.completeColl i flags else d

/-- The root's result: every element rounded once, or the bytes moved; it goes down the tree (R340 to R344). -/
def Dev.finishRoot (d : Dev) (i : Nat) : Dev :=
  match d.col.jobs[i]? with
  | none => d
  | some j =>
    let q := j.params
    let rounded := j.vals.map (rootRound q)
    let flags := j.flags ||| (rounded.foldl (fun f r => f.or r.2) noFlags).bits4
    let blk := q.bytes / q.size
    let bs :=
      if q.reduces then rounded.flatMap (fun r => bytesLE (wideBytes q.dstFmt) r.1)
      else if q.op = 4 then (List.range q.size).flatMap (fun k => (List.range q.size).flatMap (fun m =>
        (j.bytes.drop (m * q.bytes + k * blk)).take blk))
      else j.bytes
    (d.modColl i (fun j => { j with passed := true, flags := flags })).takeResult i flags 0 bs

/-- The contributions of a level's children, in ascending rank, once every one has come whole (R335). -/
def CollJob.levelReady (j : CollJob) : Option (List Contribution) :=
  ((childrenOf j.params.size j.level j.rank).map (fun c =>
    j.contribs.find? (fun x => x.level == j.level && x.rank == c &&
      decide (x.total ≤ (if j.params.reduces then x.vals.length else x.bytes.length))))).mapM id

/-- A job can add its level, or pass its partial on. -/
def CollJob.canStep (j : CollJob) : Bool :=
  j.posted && !j.fresh && !j.passed && (j.level == topLevel j.params.size j.rank || j.levelReady.isSome)

/-- One level summed in ascending rank, this device's own partial first (R335, R341 to R344); the answer's number is the
wire bytes added. -/
def CollJob.sumLevel (j : CollJob) (cs : List Contribution) : CollJob × Nat :=
  let q := j.params
  let r := cs.foldl (fun (acc : List Wire × List Byte × BitVec 4) c =>
    let s := addWires q acc.1 c.vals
    (s.1, acc.2.1 ++ c.bytes, acc.2.2 ||| c.flags ||| s.2.bits4)) (j.vals, j.bytes, j.flags)
  let vals := if j.level = 0 then r.1.map (widen q) else r.1
  ({ j with vals := vals, bytes := r.2.1, flags := r.2.2, level := j.level + 1
            contribs := j.contribs.filter (fun c => c.level != j.level) },
   if q.reduces then (cs.map (fun c => wireBytes q j.level c.vals.length)).sum else 0)

/-- A job's partial passed on: up, or on the root rounded and sent down. -/
def Dev.passOn (d : Dev) (i : Nat) : Dev :=
  match d.col.jobs[i]? with
  | none => d
  | some j =>
    if j.rank = 0 then d.finishRoot i
    else (d.sendUp j j.level).modColl i (fun j => { j with passed := true })

/-- Levels added as far as their contributions have come, and the partial passed on; an engine counts what it adds. -/
def Dev.advance (e : Option Nat) (i : Nat) : Nat → Dev → Dev
  | 0, d => d
  | fuel + 1, d =>
    match d.col.jobs[i]? with
    | none => d
    | some j =>
      if j.passed then d
      else if j.level = topLevel j.params.size j.rank then d.passOn i
      else
        match j.levelReady with
        | none => d
        | some cs =>
          let r := j.sumLevel cs
          let d := d.modColl i (fun _ => r.1)
          let d := match e with
            | some e => d.modEngine e (fun (g : Engine) => { g with bytes := satAdd g.bytes r.2 })
            | none => d
          Dev.advance e i fuel d

/-! ### Posting (R337) -/

/-- The next posting sequence of a group, and the table after it. -/
def nextPost (t : List (Nat × Nat)) (g : Nat) : Nat × List (Nat × Nat) :=
  match t.find? (fun e => e.1 == g) with
  | some e => (e.2, t.map (fun x => if x.1 == g then (g, e.2 + 1) else x))
  | none => (0, t ++ [(g, 1)])

/-- Some collective engine is in service: with none, no collective completes (R346). -/
def Dev.engineUp (d : Dev) : Bool := d.col.engines.any (fun g => g.inService)

/-- A job posts: SRC, where it is used on this member, is read from committed memory (R336, R337). -/
def Dev.postColl (d : Dev) (i : Nat) : Dev :=
  match d.col.jobs[i]? with
  | none => d
  | some j =>
    let q := j.params
    let reads := if q.op = 5 || (q.op = 3 && j.rank != 0) then 0 else q.bytes
    let (src, d) := d.readOut j.src reads
    let w := wideBytes q.srcFmt
    let conv := (List.range (reads / w)).map (fun k => toWire q (wideVal q.srcFmt (fieldLE src (k * w) w)))
    d.modColl i (fun j => { j with
      posted := true, fresh := true
      vals := if q.reduces then conv.map (·.1) else []
      bytes := if q.reduces then [] else src
      flags := if q.reduces then (conv.foldl (fun f r => f.or r.2) noFlags).bits4 else 0 })

/-- At the commit of a chunk its COLLs post, in issue order (R337). -/
def Dev.postColls (d : Dev) (p : Plan) (c : Nat) : Dev :=
  let due := (List.range d.col.jobs.length).filter (fun i =>
    match d.col.jobs[i]? with | some j => !j.posted && j.handle == p.handle && j.core == c | none => false)
  due.foldl (fun (d : Dev) i => d.postColl i) d

/-- A posted job takes its sequence in its group; a member that waits for no child passes its partial on at once, where an engine is in
service (R337, R346). -/
def Dev.sequenceColl (d : Dev) (i : Nat) : Dev :=
  match d.col.jobs[i]? with
  | none => d
  | some j =>
    let sq := nextPost d.col.seqs j.group
    let d := { d with col := { d.col with seqs := sq.2 } }
    let d := d.modColl i (fun j => { j with seq := sq.1, fresh := false })
    if (allChildren j.params.size j.rank).isEmpty && d.engineUp then Dev.advance none i (treeDepth j.params.size + 2) d else d

/-- The posts of one cycle take their sequences in the order of their logical cores, and each core's in issue order (R337). -/
def Dev.settlePosts (d : Dev) : Dev :=
  let due := (List.range 72).flatMap (fun c => (List.range d.col.jobs.length).filter (fun i =>
    match d.col.jobs[i]? with | some j => j.fresh && j.core == c | none => false))
  if due.isEmpty then d else (due.foldl (fun (d : Dev) i => d.sequenceColl i) d).sweepColl

/-! ### Arrivals -/

/-- The posted job that a group's flit of a sequence belongs to, and whether the sequence is one of the past (cancelled or
ended, R348). -/
def Dev.collJob? (d : Dev) (f : Flit) (seq : Nat) : Option Nat :=
  d.col.jobs.findIdx? (fun j => j.posted && !j.fresh && j.group == f.channel.toNat && j.seq == seq)
def Dev.collPast (d : Dev) (f : Flit) (seq : Nat) : Bool :=
  decide (seq < (((d.col.seqs.find? (fun e => e.1 == f.channel.toNat)).map (·.2)).getD 0))

/-- A collective aborted here, and the abort passed on over the tree (R339). -/
def Dev.abortColl (d : Dev) (i : Nat) (source : Option Nat) : Dev :=
  match d.col.jobs[i]? with
  | none => d
  | some j =>
    let up := if j.rank = 0 then [] else [leaderOf (topLevel j.params.size j.rank) j.rank]
    let target := (up ++ (allChildren j.params.size j.rank).map (·.2)).filter (fun r => some r != source)
    let d := target.foldl (fun (d : Dev) r => d.sendControl (d.memberCoord j r) (BitVec.ofNat 16 j.group) (.abort j.seq)) d
    let d := ((d.haltQueue j.core).setColEvent 3).writeRecord
      (((d.mkRec 4 6 0x1502 0).withTag j.tag (d.funcOf j.core)).withCount (d.cq j.core).regs.exec)
    { d with col := { d.col with jobs := d.col.jobs.eraseIdx i } }

/-- A part of a child's contribution put with what has come of it. -/
def addContribution (cs : List Contribution) (level rank total : Nat) (flags : BitVec 4) (vals : List Wire) (bs : List Byte) :
    List Contribution :=
  if cs.any (fun c => c.level == level && c.rank == rank) then
    cs.map (fun c => if c.level == level && c.rank == rank then
      { c with vals := c.vals ++ vals, bytes := c.bytes ++ bs, flags := c.flags ||| flags } else c)
  else cs ++ [{ level := level, rank := rank, total := total, flags := flags, vals := vals, bytes := bs }]

/-- A contribution of the inbox whose collective is posted here, or past. -/
def Dev.isContribution (d : Dev) (x : Nat × Flit) : Bool :=
  match x.2.body with
  | .contribution seq _ _ _ _ _ _ => (d.collJob? x.2 seq).isSome || d.collPast x.2 seq
  | _ => false

/-- The next contribution taken from the inbox: kept with its job, dropped where the collective is past, and aborting the
collective where its parameters differ (R339, R348). -/
def Dev.takeContribution (d : Dev) : Dev :=
  match d.takeInbox d.isContribution with
  | none => d
  | some ((_, f), d) =>
    match f.body with
    | .contribution seq level q flags total vals bs =>
      (match d.collJob? f seq with
       | none => d
       | some i =>
         match d.col.jobs[i]? with
         | none => d
         | some j =>
           let rank := (d.memberRank? j f.src).getD 0
           if q != j.params then d.abortColl i none
           else d.modColl i (fun j => { j with contribs := addContribution j.contribs level rank total flags vals bs }))
    | _ => d

/-- Engine `e` is fenced: its record, the crater table, and the move of its segments (R91, R345). -/
def Dev.fenceEngine (d : Dev) (e : Nat) (host : Option HostFence) : Dev :=
  let (first, d) := d.countDeviceFault
  let (_, d) := d.enterCrater (unitId 5 e) (host.map (fun r => r.1.setWidth 8))
  let d := d.modEngine e (fun (g : Engine) => { g with inService := false, moving := some d.bt.beat, retried := none })
  (d.writeRecord (((d.mkRec 3 (if host.isSome then 11 else 6) 0x1503 (unitId 5 e)).fault first).withReason host)).setColEvent 1

/-- The step that an engine's adder has in hand for a job: a level whose children have brought something to combine (R345). -/
def CollJob.adds (j : CollJob) : Option (Nat × Nat × Nat) :=
  match j.levelReady with
  | some (_ :: _) => if j.params.reduces && j.level != topLevel j.params.size j.rank && !j.vals.isEmpty then some (j.group, j.seq, j.level) else none
  | _ => none

/-- The check of an adder step failed: the step is retried once, and at the second mismatch of the same step the engine is fenced
(R345). -/
def Dev.stepMismatch (d : Dev) (e : Nat) (step : Nat × Nat × Nat) : Dev :=
  if (d.col.engines.getD e {}).retried = some step then d.fenceEngine e none
  else ((d.modEngine e (fun (g : Engine) => { g with retried := some step, retries := satInc g.retries })).writeRecord
    (d.mkRec 1 6 0x1500 (unitId 5 e))).setColEvent 0

/-- COLL_CONTRIBUTION: a contribution is taken, and engine `e` adds the first level whose children have all come; `mismatch`
says that the check of the adder step failed, where an adder runs (R335, R339, R345). -/
def collContribution (e : Fin 16) (mismatch : Bool) (d : Dev) : Dev :=
  let d := d.takeContribution
  if !(d.col.engines.getD e.val {}).inService then d
  else
    match d.col.jobs.findIdx? (fun j => j.canStep) with
    | none => d
    | some i =>
      match mismatch, (d.col.jobs[i]?).bind CollJob.adds with
      | true, some step => d.stepMismatch e.val step
      | _, _ => (Dev.advance (some e.val) i 8 (d.modEngine e.val (fun (g : Engine) => { g with retried := none }))).sweepColl

/-- A result or abort of the inbox whose collective is posted here, or past. -/
def Dev.isResult (d : Dev) (x : Nat × Flit) : Bool :=
  match x.2.body with
  | .result seq _ _ _ _ => d.engineUp && (d.collJob? x.2 seq).isSome || d.collPast x.2 seq
  | .abort seq => (d.collJob? x.2 seq).isSome || d.collPast x.2 seq
  | _ => false

/-- COLL_RESULT: result data, or an abort, arrives (R338, R339). -/
def collResult (d : Dev) : Dev :=
  match d.takeInbox d.isResult with
  | none => d
  | some ((_, f), d) =>
    match f.body with
    | .result seq flags _ off bs =>
      (match d.collJob? f seq with
       | none => d
       | some i => (d.takeResult i flags off bs).sweepColl)
    | .abort seq =>
      (match d.collJob? f seq with
       | none => d
       | some i =>
         match d.col.jobs[i]? with
         | none => d
         | some j => d.abortColl i (d.memberRank? j f.src))
    | _ => d

/-- ENGINE_MOVE_DONE: the segments of a fenced engine have moved (R345). -/
def engineMoveDone (e : Fin 16) (d : Dev) : Dev :=
  if (d.col.engines.getD e.val {}).moving.isSome then
    d.modEngine e.val (fun (g : Engine) => { g with moving := none })
  else d

/-- COLL_TIMEOUT: the first posted collective whose timer has run out halts its queue, with a record (R347). -/
def collTimeout (d : Dev) : Dev :=
  match d.col.jobs.findIdx? (fun j => j.posted && !j.completed && decide (j.timeout ≤ j.count) && !j.expired) with
  | none => d
  | some i =>
    match d.col.jobs[i]? with
    | none => d
    | some j =>
      (((d.modColl i (fun j => { j with expired := true })).haltQueue j.core).setColEvent 2).writeRecord
        (((d.mkRec 4 6 0x1501 0).withTag j.tag (d.funcOf j.core)).withCount (d.cq j.core).regs.exec)

/-! ### Commands -/

/-- COLL_CONTRIBUTION (R335). -/
def execCollContribution (e : Fin 16) (mismatch : Bool) (st : State) : Out State := run (collContribution e mismatch) st
/-- COLL_RESULT (R338). -/
def execCollResult (s : State) : Out State := run collResult s
/-- ENGINE_MOVE_DONE (R345). -/
def execEngineMoveDone (e : Fin 16) (st : State) : Out State := run (engineMoveDone e) st
/-- COLL_TIMEOUT (R347). -/
def execCollTimeout (s : State) : Out State := run collTimeout s

end Sys2Proof.Machine
end

