-- ==== Sys2Proof/Machine/Admit.lean ====
section
/-! DEFINITION. The plan image and its admission: the header, the ten sections and every table entry (R108, R109, R147,
R241, R242, R252, R283, R389, R462), the worst case of a step (R111) and the six checks (R110 to R114).  Reserved bytes
of the image must be 0 (log entry 31). -/

namespace Sys2Proof.Machine

/-- A condition of a parse. -/
def need (b : Bool) : Option Unit := if b then some () else none

/-- Bytes `[o, o + n)` are 0. -/
def zeroes (bs : List Byte) (o n : Nat) : Bool := ((bs.drop o).take n).all (· == 0)

/-- No element of a list equals another. -/
def noRepeat {α : Type} [BEq α] : List α → Bool
  | [] => true
  | x :: r => !r.contains x && noRepeat r

/-- A range is disjoint from every range of a list. -/
def clearOf (rs : List (Nat × Nat)) (a n : Nat) : Bool := rs.all (fun r => !meets a n r.1 r.2)

/-- The section table: TYPE, OFFSET, LENGTH of the ten entries (R108). -/
def sectionTable (bs : List Byte) : List (Nat × Nat × Nat) :=
  (List.range 10).map (fun i => (fld bs (96 + 16 * i) 2, fld bs (100 + 16 * i) 4, fld bs (104 + 16 * i) 8))

/-- The rules of R108 for the header and the section table. -/
def headerOk (bs : List Byte) (len : Nat) : Bool :=
  let t := sectionTable bs
  bs.length == len && 256 ≤ len &&
  fld bs 0 4 == 0x4E414C50 && fld bs 4 2 == 1 && fld bs 6 1 ≤ 4 && zeroes bs 7 1 && fld bs 8 4 == len &&
  1 ≤ fld bs 12 4 && fld bs 12 4 ≤ 0xFFFFFFFE && 1 ≤ fld bs 16 2 && fld bs 16 2 ≤ 72 && fld bs 18 2 ≤ 256 &&
  zeroes bs 40 8 &&
  (bs.drop 48).take 48 == sha384 (bs.take 48 ++ List.replicate 48 0 ++ bs.drop 96) &&
  (List.range 10).all (fun k => (t.filter (fun e => e.1 == k + 1)).length == 1 && zeroes bs (98 + 16 * k) 2) &&
  t.all (fun e => decide (e.2.1 + e.2.2 ≤ len)) &&
  !anyOverlap ((0, 256) :: t.map (fun e => (e.2.1, e.2.2)))

/-- The bytes of a section. -/
def sectionOf (bs : List Byte) (type : Nat) : List Byte :=
  match (sectionTable bs).find? (fun e => e.1 == type) with
  | some e => (bs.drop e.2.1).take e.2.2
  | none => []

/-- A table of `n` entries of `size` bytes that fills its section. -/
def tableOf (s : List Byte) (size n : Nat) : Option (List (List Byte)) :=
  if s.length == size * n then some (piecesOf size n s) else none

/-- The step table (R109). -/
def parseSteps (s : List Byte) (n : Nat) : Option (List StepEnt) := do
  let es := (← tableOf s 16 n).map (fun e => (⟨fld e 0 8, fld e 8 8⟩ : StepEnt))
  need ((es.head?.map (·.stepOff)) == some 0)
  return es

/-- The command streams (R462), core by core. -/
def parseStreams (s : List Byte) (nCores : Nat) : Option (List (List (List Byte))) := do
  let tab := 16 + 16 * nCores
  need (decide (tab ≤ s.length) && fld s 0 4 == nCores && zeroes s 4 12)
  let es := piecesOf 16 nCores (s.drop 16)
  need ((es.zipIdx).all (fun p => fld p.1 0 1 == p.2 && zeroes p.1 1 3 && fld p.1 8 8 % 64 == 0 &&
    decide (tab ≤ fld p.1 8 8) && decide (fld p.1 8 8 + 64 * fld p.1 4 4 ≤ s.length)))
  need (!anyOverlap (es.map (fun e => (fld e 8 8, 64 * fld e 4 4))))
  let streams := es.map (fun e => piecesOf 64 (fld e 4 4) (s.drop (fld e 8 8)))
  need (streams.all (fun cs => (cs.zipIdx).all (fun p => (cmdTag p.1).toNat % 2 ^ 20 == p.2 % 2 ^ 20)))
  return streams

/-- The indices of the VENT commands of a stream. -/
def ventIdx (cs : List (List Byte)) : List Nat := ((cs.zipIdx).filter (fun p => cmdOp p.1 == opVent)).map (·.2)

/-- The vent table, each entry paired with its command (R109, R462). -/
def parseVents (s : List Byte) (n nSteps nCores : Nat) (streams : List (List (List Byte))) : Option (List VentEnt) := do
  let es ← tableOf s 16 n
  need (es.all (fun e => decide (fld e 0 4 < nSteps) && decide (fld e 4 1 < nCores) && zeroes e 5 3))
  need ((streams.zipIdx).all (fun p => (ventIdx p.1).length == (es.filter (fun e => fld e 4 1 == p.2)).length))
  return (es.zipIdx).map (fun p =>
    let core := fld p.1 4 1
    let k := ((es.take p.2).filter (fun e => fld e 4 1 == core)).length
    { step := fld p.1 0 4, core := core, ventOff := fld p.1 8 4, len := fld p.1 12 4
      cmd := (ventIdx (streams.getD core [])).getD k 0 })

/-- The predecessors a chunk entry names. -/
def chunkPreds (e : List Byte) : List Nat :=
  ((List.range 4).map (fun k => fld e (12 + 4 * k) 4)).filter (· != 0xFFFFFFFF)

/-- The chunk table with the commands that R462 assigns to each entry (R109, R462). -/
def parseChunks (s : List Byte) (n nSteps nCores : Nat) (streams : List (List (List Byte))) : Option (List ChunkEnt) := do
  let es ← tableOf s 32 n
  let stepAt := fun i => fld (es.getD i []) 0 4
  let firsts := fun core => (es.filter (fun e => fld e 4 1 == core)).map (fun e => fld e 28 4)
  need ((es.zipIdx).all (fun p =>
    let e := p.1
    decide (fld e 0 4 < nSteps) && decide (fld e 4 1 < nCores) && zeroes e 5 1 && 1 ≤ fld e 6 2 && fld e 6 2 ≤ 160 &&
    (chunkPreds e).all (fun q => decide (q < p.2) && stepAt q == fld e 0 4)))
  let chunks := es.map (fun e =>
    let core := fld e 4 1
    let cs := streams.getD core []
    let first := fld e 28 4
    let stops := (firsts core).filter (first < ·) ++ (ventIdx cs).filter (first ≤ ·) ++ [cs.length]
    (⟨fld e 0 4, core, fld e 6 2, fld e 8 4, chunkPreds e, first, stops.foldl min cs.length - first⟩ : ChunkEnt))
  need ((List.range nCores).all (fun core =>
    let fs := firsts core
    let cs := streams.getD core []
    (List.zip fs (fs.drop 1)).all (fun p => decide (p.1 < p.2)) && fs.all (fun f => decide (f < cs.length)) &&
    ((chunks.filter (fun c => c.core == core)).map (·.cmds)).sum + (ventIdx cs).length == cs.length))
  need (chunks.all (fun c => 1 ≤ c.cmds))
  return chunks

/-- The memory layout section (R283). -/
def parseLayout (s : List Byte) (nCores : Nat) : Option Layout := do
  let nr := fld s 0 2
  let ng := fld s 2 2
  let nh := fld s 4 2
  let ne := fld s 6 2
  need (1 ≤ nr && nr ≤ 64 && ng ≤ 256 && nh == nCores && ne ≤ 256 && (fld s 8 1 == 2 || fld s 8 1 == 3) &&
    fld s 10 2 < 0x8000 && zeroes s 12 20 && s.length == 32 + 16 * nr + 32 * ng + 16 * nh + 24 * ne)
  let re := piecesOf 16 nr (s.drop 32)
  let ge := piecesOf 32 ng (s.drop (32 + 16 * nr))
  let he := piecesOf 16 nh (s.drop (32 + 16 * nr + 32 * ng))
  let ee := piecesOf 24 ne (s.drop (32 + 16 * nr + 32 * ng + 16 * nh))
  let mib := 2 ^ 20
  let l : Layout :=
    { ranges := re.map (fun e => ⟨fld e 0 8, fld e 8 8⟩)
      regions := ge.map (fun e => ⟨fld e 0 8, fld e 8 8, fld e 16 1, fld e 17 1, fld e 24 8⟩)
      hists := he.map (fun e => ⟨fld e 0 1, fld e 2 2, fld e 8 8⟩)
      exports := ee.map (fun e => ⟨fld e 0 8, fld e 8 8, fld e 16 2⟩)
      portsPerNbr := fld s 8 1
      sharedRead := BitVec.ofNat 8 (fld s 9 1)
      healPeer := BitVec.ofNat 15 (fld s 10 2) }
  let areas := l.regions.map (fun r => (r.shadow, r.shadowLen)) ++ l.hists.map (fun h => (h.base, 512 * h.n))
  let regs := l.regions.map (fun r => (r.base, r.len))
  let exps := l.exports.map (fun e => (e.base, e.len))
  need (l.ranges.all (fun r => r.base % mib == 0 && r.len % mib == 0 && 0 < r.len && r.base + r.len ≤ stackEnd))
  need (!anyOverlap (l.ranges.map (fun r => (r.base, r.len))))
  need (ge.all (fun e => fld e 16 1 ≤ 1 && zeroes e 18 6) && he.all (fun e => zeroes e 1 1 && zeroes e 4 4) &&
    ee.all (fun e => zeroes e 18 6))
  need (l.regions.all (fun r =>
    if r.kind = 0 then r.dtype == 0 && r.shadow == 0 && r.base % 4096 == 0 && r.len % 4096 == 0
    else r.dtype ≤ 4 && r.base % 128 == 0 && r.len % atomBytes r.dtype == 0 && r.shadow % 64 == 0 &&
      (r.dtype ≤ 1 || r.shadow == 0)))
  need (l.hists.all (fun h => h.core < nCores && h.n ≤ 256 && h.base % 512 == 0) && noRepeat (l.hists.map (·.core)))
  need (l.exports.all (fun e => 1 ≤ e.len && e.len ≤ mib))
  need ((areas ++ regs ++ exps).all (fun r => l.inRanges r.1 r.2))
  need (!anyOverlap regs && !anyOverlap areas && areas.all (fun a => clearOf (regs ++ exps) a.1 a.2))
  return l

/-- The slot table (R109). -/
def parseSlots (s : List Byte) (n nSteps : Nat) (l : Layout) : Option (List SlotEnt) := do
  let es ← tableOf s 32 n
  let slots := es.map (fun e => (⟨fld e 0 4, fld e 4 2, fld e 6 2, fld e 8 4, fld e 12 4, fld e 16 8⟩ : SlotEnt))
  need (es.all (fun e => zeroes e 24 8))
  need (slots.all (fun x => x.step < nSteps && x.dest % 64 == 0 && l.inRanges x.dest (64 + x.bytes) &&
    !l.inHist x.dest (64 + x.bytes) && !l.inShadow x.dest (64 + x.bytes)))
  need (noRepeat (slots.map (fun x => (x.step, x.streamId, x.slotId))))
  return slots

/-- The program section (R252): the texts and the chunk programs, with addresses in the image at `base`. -/
def parsePrograms (s : List Byte) (base nCores nChunks : Nat) : Option (List TextEnt × List ChunkProg) := do
  if s.isEmpty then return ([], [])
  let tab := fld s 8 8
  need (decide (16 + 16 * nCores ≤ s.length) && fld s 0 4 == nCores && zeroes s 4 4 &&
    decide (tab + 32 * nChunks ≤ s.length))
  let te := piecesOf 16 nCores (s.drop 16)
  let ce := piecesOf 32 nChunks (s.drop tab)
  need (te.all (fun e => fld e 0 1 < nCores && zeroes e 1 3 && fld e 8 4 % 4 == 0 && 4 ≤ fld e 8 4 &&
    fld e 8 4 ≤ 65536 && decide (fld e 4 4 + fld e 8 4 ≤ s.length) && fld e 12 4 % 0x10000 == 0 &&
    fld e 12 4 < 0x800000))
  need (noRepeat (te.map (fun e => fld e 0 1)))
  let progs := ce.map (fun e =>
    (⟨(List.range 8).map (fun t => fld e (2 * t) 2), BitVec.ofNat 64 (fld e 16 8)⟩ : ChunkProg))
  need (progs.all (fun p => p.entries.all (fun x => x < 0x4000 || x == 0xFFFF)) && ce.all (fun e => zeroes e 24 8))
  return (te.map (fun e => ⟨fld e 0 1, base + fld e 4 4, fld e 8 4, fld e 12 4⟩), progs)

/-- OUT_THR of R191: a finite FP32 value from 6 to 65,536. -/
def outThrOk (code : Nat) : Bool :=
  match fp32.decode code with
  | .fin x => (Dy.ofInt 6).le x && x.le (Dy.ofInt 65536)
  | _ => false

/-- A variant descriptor (R241, R242): its HIST list. -/
def parseVariant (v : List Byte) (histMax : Nat) : Option (List Nat) := do
  let hist := (List.range 8).map (fun k => fld v (16 + 2 * k) 2)
  let n := fld v 12 1
  need ((List.range 3).all (fun k => 1 ≤ fld v k 1 && fld v k 1 ≤ 10) && 1 ≤ fld v 3 1 && fld v 3 1 ≤ 3 &&
    fld v 4 1 ≤ 5 && fld v 5 1 < 8 && zeroes v 6 2 && zeroes v 13 3 && n ≤ 8 &&
    (if bitOf (fld v 5 1) 2 then outThrOk (fld v 8 4) else fld v 8 4 == 0) &&
    (hist.take n).all (· < histMax) && (hist.drop n).all (· == 0xFFFF))
  return hist.take n

/-- The recipe section (R241, R242). -/
def parseGroups (s : List Byte) (n histMax : Nat) : Option (List GroupEnt) := do
  let es ← tableOf s 144 n
  (es.zipIdx).mapM (fun p => do
    let e := p.1
    let nv := fld e 2 1
    need (fld e 0 2 == p.2 && 1 ≤ nv && nv ≤ 4 && fld e 3 1 < nv && zeroes e 4 12 &&
      zeroes e (16 + 32 * nv) (32 * (4 - nv)))
    let hs ← (List.range nv).mapM (fun v => parseVariant ((e.drop (16 + 32 * v)).take 32) histMax)
    return (⟨fld e 3 1, hs⟩ : GroupEnt))

/-- The bounds of the in-flight Ids (R146). -/
def inflightBound : List Nat := [512, 64, 32, 256, 256, 64]

/-- The in-flight declaration (R147): the MAX of each Id, and whether a RESOURCE or a MAX fails check 4. -/
def parseInflight (s : List Byte) : Option (List Nat × Bool) := do
  need (s.length % 8 == 0)
  let es := piecesOf 8 (s.length / 8) s
  need (es.all (fun e => zeroes e 2 2))
  let ids := es.map (fun e => fld e 0 2)
  let good := es.all (fun e => 1 ≤ fld e 0 2 && fld e 0 2 ≤ 6 && fld e 4 4 ≤ inflightBound.getD (fld e 0 2 - 1) 0) &&
    noRepeat ids
  return ((List.range 6).map (fun i => ((es.find? (fun e => fld e 0 2 == i + 1)).map (fun e => fld e 4 4)).getD
    (inflightBound.getD i 0)), !good)

/-- The trace stream map (R389). -/
def parseTrace (s : List Byte) (l : Layout) : Option (List (Nat × Nat × Nat)) := do
  if s.isEmpty then return []
  let n := fld s 0 4
  need (n ≤ 4096 && zeroes s 4 4 && s.length == 8 + 8 * n)
  let es := piecesOf 8 n (s.drop 8)
  need (es.all (fun e => fld e 0 2 < 4096 && fld e 4 1 < 4 && zeroes e 5 3 &&
    l.exports.all (fun x => x.streamId != fld e 2 2)))
  need (noRepeat (es.map (fun e => fld e 0 2)))
  return es.map (fun e => (fld e 0 2, fld e 2 2, fld e 4 1))

/-- The nodes of a plan core's stream: its chunks and vent windows by the place of their commands (R111). -/
def nodesOf (chunks : List ChunkEnt) (vents : List VentEnt) (core len : Nat) : List Node :=
  (List.range len).filterMap (fun k =>
    match chunks.findIdx? (fun c => c.core == core && c.firstCmd == k) with
    | some i => some (.chunk i)
    | none => (vents.findIdx? (fun v => v.core == core && v.cmd == k)).map .vent)

/-- The areas that a command may write at its commit.  One that takes its addresses from a stream writes its own site's scratch, but for
a QUANT's history records (R135, R192, R198, R218, R229, R238). -/
def writeBounds (hists : List (Nat × Nat)) (bs : List Byte) : List (Nat × Nat) :=
  let op := cmdOp bs
  if (astream? bs).isSome then (if op = opQuant then hists else [])
  else if op = opCopy then [(addrFld bs 16, fld bs 24 4)]
  else if op = opElem then [(addrFld bs 24, 4 * fld bs 36 4)]
  else if op = opDeq then [(addrFld bs 24, 4 * fld bs 40 4)]
  else if op = opStats then [(addrFld bs 16, 16)]
  else if op = opMmv then [(addrFld bs 24, 4 * fld bs 38 2)]
  else if op = opDrain then [(addrFld bs 8, 2048 * fld bs 38 2), (addrFld bs 44, 32 * (fld bs 38 2 + 1))]
  else if op = opQuant then
    [(addrFld bs 16, 4 * fld bs 40 4), (addrFld bs 24, fld bs 40 4), (addrFld bs 44, fld bs 40 4)] ++ hists
  else if op = opAtom then [(addrFld bs 8, 16 * fld bs 18 2), (addrFld bs 48, 16)]
  else if op = opRecv then [(addrFld bs 16, fld bs 24 4)]
  else []

/-- A thread's text holds a store (R260). -/
def textStores (bs : List Byte) : Bool :=
  (piecesOf 4 (bs.length / 4) bs).any (fun i => 0x18 ≤ fieldLE i 3 1 / 4 && fieldLE i 3 1 / 4 ≤ 0x1B)

/-- The export ranges that a chunk may write, each with the command that may write it, or with none for its threads' stores (R248,
R359). -/
def chunkWriters (l : Layout) (cmds : List (List Byte)) (stores : Bool) (core : Nat) : List (Nat × List Byte) :=
  let hists := match l.hists[core]? with | some h => [(h.base, 512 * h.n)] | none => []
  (l.exports.zipIdx).flatMap (fun e =>
    (if stores then [(e.2, [])] else []) ++
    (cmds.filter (fun c => (writeBounds hists c).any (fun r => meets r.1 r.2 e.1.base e.1.len))).map (fun c => (e.2, c)))

/-- Check 1 of R110 over the bytes of an image at `base`: the tables, and whether the in-flight declaration fails
check 4. -/
def parseImage (bs : List Byte) (base len : Nat) : Option (PlanImg × Bool) := do
  need (headerOk bs len)
  let nSteps := fld bs 12 4
  let nCores := fld bs 16 2
  let nChunks := fld bs 20 4
  let steps ← parseSteps (sectionOf bs 1) nSteps
  let streams ← parseStreams (sectionOf bs 5) nCores
  let vents ← parseVents (sectionOf bs 4) (fld bs 28 4) nSteps nCores streams
  let chunks ← parseChunks (sectionOf bs 2) nChunks nSteps nCores streams
  let layout ← parseLayout (sectionOf bs 7) nCores
  let slots ← parseSlots (sectionOf bs 3) (fld bs 24 4) nSteps layout
  let secBase := base + (((sectionTable bs).find? (fun e => e.1 == 6)).map (·.2.1)).getD 0
  let (texts, progs) ← parsePrograms (sectionOf bs 6) secBase nCores nChunks
  let groups ← parseGroups (sectionOf bs 8) (fld bs 18 2) ((layout.hists.map (·.n)).foldl max 0)
  let (maxes, bad) ← parseInflight (sectionOf bs 9)
  let trace ← parseTrace (sectionOf bs 10) layout
  let writers := (chunks.zipIdx).map (fun (e : ChunkEnt × Nat) =>
    let runs := ((progs.getD e.2 ⟨[], 0⟩).entries).any (· != 0xFFFF)
    let stores := runs && (texts.filter (fun t => t.core == e.1.core)).any (fun t => textStores ((bs.drop (t.addr - base)).take t.len))
    chunkWriters layout (((streams.getD e.1.core []).drop e.1.firstCmd).take e.1.cmds) stores e.1.core)
  return ({ steps := steps, chunks := chunks, slots := slots, vents := vents
            nodes := (streams.zipIdx).map (fun p => nodesOf chunks vents p.2 p.1.length)
            nCores := nCores, seed := BitVec.ofNat 64 (fld bs 32 8), layout := layout, groups := groups
            texts := texts, progs := progs, maxes := maxes, traceMap := trace, writers := writers }, bad)

/-! ### Check 2: class limits (R31) -/

def classCoreMax (cls : Nat) : Nat := [72, 68, 64, 62, 60].getD cls 0
def classPortMax (cls : Nat) : Nat := [3, 3, 2, 2, 2].getD cls 0

def classOk (d : Dev) (cls : Nat) (img : PlanImg) : Bool :=
  cls == d.lnk.cls && img.nCores ≤ classCoreMax cls && img.layout.portsPerNbr ≤ classPortMax cls

/-! ### Check 3: cores and memory -/

/-- The logical cores of a function (R113): those of its tenancy, or those no tenancy holds. -/
def Dev.coresOf (d : Dev) (func : Nat) : List Nat :=
  if func = 0 then (List.range 72).filter (fun c => (d.tenancyOf c).isNone)
  else match d.sec.tenancies.getD (func - 1) none with | some t => t.cores | none => []

/-- The logical cores of a function that no admitted plan holds. -/
def Dev.freeCores (d : Dev) (func : Nat) : List Nat := (d.coresOf func).filter (fun c => !d.owned c)

/-- The stack ranges of a function hold `[a, a + n)`: a tenancy's own ranges, or, for PF0, what no tenancy owns and no
shared region names (R85). -/
def Dev.funcOwns (d : Dev) (func a n : Nat) : Bool :=
  if func = 0 then
    decide (a + n ≤ stackEnd) && !d.meetsShared a n &&
    d.sec.tenancies.all (fun o => match o with | some t => t.ranges.all (fun r => !meets a n r.base r.len) | none => true)
  else
    match d.sec.tenancies.getD (func - 1) none with
    | some t => covered t.ranges (t.ranges.length + 1) a n
    | none => false

/-- A shared region that the function may read (R100). -/
def Dev.sharedOk (d : Dev) (func : Nat) (mask : BitVec 8) : Bool :=
  (List.range 8).all (fun r => !mask.getLsbD r ||
    (match d.shared.getD r none with | some g => g.readers.getLsbD func | none => false))

def memoryFree (d : Dev) (func : Nat) (img : PlanImg) : Bool :=
  img.nCores ≤ (d.freeCores func).length &&
  img.layout.ranges.all (fun r => d.funcOwns func r.base r.len &&
    d.plans.all (fun p => !p.live || p.img.layout.ranges.all (fun q => !meets r.base r.len q.base q.len))) &&
  d.sharedOk func img.layout.sharedRead

/-! ### Check 4: in-flight declaration (R147) -/

def inflightOk (d : Dev) (img : PlanImg) : Bool :=
  img.chunks.all (fun c => c.cmds ≤ img.maxes.getD 0 0) &&
  [2, 3, 4, 5].all (fun i =>
    img.maxes.getD i 0 + ((d.plans.filter Plan.live).map (fun p => p.img.maxes.getD i 0)).sum ≤ inflightBound.getD i 0)

/-! ### Check 5: the promise bound (R111) -/

/-- The walk over a step's nodes: the finish of each chunk seen, the finish of the last node of each core, the vent
windows seen and the latest finish. -/
structure WcWalk where
  fin : List (Nat × Nat) := []
  prev : List (Nat × Nat) := []
  seen : List Nat := []
  wc : Nat := 0

def assoc (l : List (Nat × Nat)) (k : Nat) : Nat := ((l.find? (fun e => e.1 == k)).map (·.2)).getD 0

/-- A vent window as the next node of its core. -/
def WcWalk.vent (w : WcWalk) (v : VentEnt) (i : Nat) : WcWalk :=
  let f := max v.ventOff (assoc w.prev v.core) + v.len
  { w with prev := (v.core, f) :: w.prev, seen := i :: w.seen, wc := max w.wc f }

/-- The windows of step `s` that satisfy `keep` and stand before a command of their core, as nodes. -/
def WcWalk.vents (w : WcWalk) (img : PlanImg) (s : Nat) (keep : VentEnt → Bool) : WcWalk :=
  (img.vents.zipIdx).foldl (fun w p =>
    if p.1.step = s && keep p.1 && !w.seen.contains p.2 then w.vent p.1 p.2 else w) w

/-- A chunk as the next node of its core, after the windows before it. -/
def WcWalk.chunk (w : WcWalk) (img : PlanImg) (c : ChunkEnt) (i : Nat) : WcWalk :=
  let w := w.vents img c.step (fun v => v.core == c.core && v.cmd < c.firstCmd)
  let start := c.preds.foldl (fun m p => max m (assoc w.fin p)) (max c.releaseOff (assoc w.prev c.core))
  let f := start + c.wc
  { w with fin := (i, f) :: w.fin, prev := (c.core, f) :: w.prev, wc := max w.wc f }

/-- WC of a step: the latest finish over its nodes (R111). -/
def PlanImg.stepWc (img : PlanImg) (s : Nat) : Nat :=
  let w := (img.chunks.zipIdx).foldl (fun w p => if p.1.step = s then w.chunk img p.1 p.2 else w) ({} : WcWalk)
  (w.vents img s (fun _ => true)).wc

/-- The margin of each step, none where it fails: the promise bound, and the promise no later than the next step. -/
def PlanImg.margins (img : PlanImg) : List (Option Nat) :=
  (img.steps.zipIdx).map (fun p =>
    let need := p.1.stepOff + img.stepWc p.2 + 320
    let next := match img.steps[p.2 + 1]? with | some n => decide (p.1.promiseOff ≤ n.stepOff) | none => true
    if need ≤ p.1.promiseOff && next then some (p.1.promiseOff - need) else none)

/-! ### Check 6: vent windows (R114) -/

/-- A pair put into a list ordered by its first component. -/
def insertBy (x : Nat × Nat) : List (Nat × Nat) → List (Nat × Nat)
  | [] => [x]
  | y :: r => if x.1 < y.1 then x :: y :: r else y :: insertBy x r

/-- The breaches of a core: its offset, the core, the step. -/
def PlanImg.ventBreaches (img : PlanImg) (core : Nat) : List (Nat × Nat × Nat) :=
  let stepOff := fun s => (img.steps.getD s ⟨0, 0⟩).stepOff
  let ws := img.vents.filter (fun v => v.core == core)
  let starts := ws.foldl (fun l v => insertBy (stepOff v.step + v.ventOff, v.step) l) []
  let last := img.steps.length - 1
  let ends := starts ++ [((img.steps.getD last ⟨0, 0⟩).promiseOff, last)]
  let spans := List.zip (0 :: starts.map (·.1)) ends
  (spans.filter (fun p => p.1 + 18000000000 < p.2.1)).map (fun p => (p.2.1, core, p.2.2)) ++
  (ws.filter (fun v => v.len < 25000)).map (fun v => (stepOff v.step + v.ventOff, core, v.step))

/-- FAIL_STEP of check 6, if it fails. -/
def PlanImg.ventFail (img : PlanImg) : Option Nat :=
  let all := (List.range img.nCores).flatMap img.ventBreaches
  (all.foldl (fun (acc : Option (Nat × Nat × Nat)) b =>
    match acc with
    | none => some b
    | some a => if b.1 < a.1 || (b.1 == a.1 && b.2.1 < a.2.1) then some b else some a) none).map (·.2.2)

/-! ### Admission (R110) -/

/-- The outcome of admission: the image with the least margin, or FAIL_REASON, the number of steps and FAIL_STEP. -/
inductive Admission where
  | ok (img : PlanImg) (margin : Nat)
  | fail (reason steps step : Nat)
  deriving DecidableEq, Repr

def noStep : Nat := 0xFFFFFFFF

/-- The six checks in order over the committed bytes of the image. -/
def Dev.admission (d : Dev) (func addr len : Nat) : Admission :=
  let bs := memBytes d.mem.bytes addr len
  let n := fld bs 12 4
  match (if (d.mem.poisoned? addr len).isSome then none else parseImage bs addr len) with
  | none => .fail 5 0 noStep
  | some (img, bad) =>
    if !classOk d (fld bs 6 1) img then .fail 4 n noStep
    else if !memoryFree d func img then .fail 6 n noStep
    else if bad || !inflightOk d img then .fail 3 n noStep
    else
      match img.margins.findIdx? Option.isNone with
      | some s => .fail 1 n s
      | none =>
        match img.ventFail with
        | some s => .fail 2 n s
        | none => .ok img ((img.margins.map (·.getD 0)).foldl min 0xFFFFFFFF)

end Sys2Proof.Machine
end

