-- ==== Sys2Proof/Machine/Mailbox.lean ====
section
/-! DEFINITION. The mailbox channels (file 03): windows, doorbells, the checks of a request, dispatch, responses and resets;
and how an owner serves a request (R56 to R81). -/

namespace Sys2Proof.Machine

/-! ### Message fields (R70) -/

def mVersion (m : List Byte) : Nat := fieldLE m 0 1
def mFlags (m : List Byte) : Nat := fieldLE m 1 1
def mOpcode (m : List Byte) : Nat := fieldLE m 2 2
def mLength (m : List Byte) : Nat := fieldLE m 4 2
def mSeq (m : List Byte) : BitVec 32 := BitVec.ofNat 32 (fieldLE m 8 4)
def mSession (m : List Byte) : BitVec 32 := BitVec.ofNat 32 (fieldLE m 12 4)
def mTag (m : List Byte) : BitVec 32 := BitVec.ofNat 32 (fieldLE m 16 4)
def mCounter (m : List Byte) : BitVec 64 := BitVec.ofNat 64 (fieldLE m 24 8)
def mCritical (m : List Byte) : Bool := bitOf (mFlags m) 0
def mOrdered (m : List Byte) : Bool := bitOf (mFlags m) 1
/-- The payload. -/
def mPayload (m : List Byte) : List Byte := (m.drop 32).take (mLength m)
/-- The header with its STATUS set. -/
def withStatus (m : List Byte) (s : Nat) : List Byte := m.take 6 ++ bytesLE 2 s ++ m.drop 8
/-- The bytes that a header requires (R64, R72). -/
def mBytes (m : List Byte) : Nat := min 4096 (32 + mLength m + (if mCritical m then 16 else 0))

/-! ### Status codes (R79) -/

def sOk : Nat := 0x0000
def sOkDuplicate : Nat := 0x0001
def sBadOpcode : Nat := 0x0100
def sBadField : Nat := 0x0101
def sBadLength : Nat := 0x0102
def sBadState : Nat := 0x0103
def sAuthFail : Nat := 0x0200
def sReplay : Nat := 0x0201
def sLifecycleDenied : Nat := 0x0202
def sNotAdmitted : Nat := 0x0300
def sFenced : Nat := 0x0500
def sNoSpare : Nat := 0x0501
def sBeatLost : Nat := 0x0700
def sElectConflict : Nat := 0x0701
def sInternal : Nat := 0x0900

/-! ### The catalogue (R81) -/

/-- A row of the catalogue: the owner (0 HP, 1 BSP, 2 HLP, 3 SCP, 4 LKP), the class, the channel letters (bit 0 M, 1 T,
2 D, 3 B), and the length of the request; a length that depends on the payload is none. -/
structure MsgRow where
  owner : Nat
  critical : Bool
  chans : Nat
  len : Option Nat
  deriving DecidableEq, Repr

def msgRow (op : Nat) : Option MsgRow :=
  match op with
  | 0x0100 => some ⟨0, false, 15, some 0⟩
  | 0x0101 => some ⟨0, false, 15, some 16⟩
  | 0x0102 => some ⟨0, false, 15, some 0⟩
  | 0x0200 => some ⟨0, false, 3, some 16⟩
  | 0x0201 => some ⟨1, false, 3, some 16⟩
  | 0x0202 => some ⟨1, false, 3, some 8⟩
  | 0x0203 => some ⟨1, false, 3, some 16⟩
  | 0x0204 => some ⟨1, false, 3, some 8⟩
  | 0x0205 => some ⟨0, false, 7, some 8⟩
  | 0x0206 => some ⟨1, true, 3, none⟩
  | 0x0207 => some ⟨1, false, 7, some 16⟩
  | 0x0300 => some ⟨2, false, 1, some 4⟩
  | 0x0301 => some ⟨2, false, 1, some 4⟩
  | 0x0302 => some ⟨2, true, 1, some 4⟩
  | 0x0303 => some ⟨2, false, 5, some 4⟩
  | 0x0304 => some ⟨2, false, 1, some 4⟩
  | 0x0305 => some ⟨2, false, 13, some 4⟩
  | 0x0306 => some ⟨0, false, 15, some 8⟩
  | 0x0307 => some ⟨0, false, 15, some 0⟩
  | 0x0308 => some ⟨2, false, 15, some 0⟩
  | 0x0400 => some ⟨3, true, 1, none⟩
  | 0x0401 => some ⟨3, true, 1, some 4⟩
  | 0x0402 => some ⟨3, true, 1, some 24⟩
  | 0x0403 => some ⟨3, true, 1, some 4⟩
  | 0x0410 => some ⟨3, true, 9, some 4⟩
  | 0x0411 => some ⟨3, true, 9, some 16⟩
  | 0x0412 => some ⟨3, true, 9, some 40⟩
  | 0x0500 => some ⟨4, false, 13, some 0⟩
  | _ => none

/-- The letter of a channel: 0 M, 1 T, 2 D, 3 B; channel 5 has none. -/
def chanLetter (c : Nat) : Nat := if c = 0 then 0 else if c ≤ 4 then 1 else if c = 6 then 2 else if c = 7 then 3 else 4

/-- The LENGTH that an opcode requires of a payload (R81, R89, R98). -/
def lengthOk (op : Nat) (p : List Byte) : Bool :=
  match msgRow op with
  | none => false
  | some r =>
    match r.len with
    | some n => p.length == n
    | none =>
      if op = 0x0206 then decide (16 ≤ p.length) && p.length == 16 + 4 * fieldLE p 2 2
      else decide (8 ≤ p.length) && p.length == 8 + 16 * fieldLE p 1 1

/-! ### Windows and doorbells (R63 to R66) -/

/-- A function reaches a channel's windows and its writable registers: PF0 those of channels 0, 5 and 6, a VF its own, once
the endpoint is up (R62, R63, R409). -/
def Dev.canUse (d : Dev) (func ch : Nat) : Bool :=
  d.pwr.pcieUp && (if func = 0 then ch == 0 || ch == 5 || ch == 6 else ch == func && d.sec.vfEnable)

def Dev.chanErr (d : Dev) (c bit : Nat) : Dev := d.modChan c (fun x => { x with err := x.err.raise (BitVec.ofNat 4 (2 ^ bit)) })

/-- A write of the request window of a channel (R65). -/
def Dev.windowWrite (d : Dev) (c off : Nat) (data : List Byte) : Dev :=
  if (d.chan c).winFree then
    d.modChan c (fun x => { x with window := (x.window.take off ++ data ++ x.window.drop (off + data.length)).take 4096 })
  else d.chanErr c 0

/-- REQUEST_WINDOW_WRITE (R63 to R65). -/
def requestWindowWrite (func : Fin 5) (ch : Fin 8) (off : Fin 4096) (data : List Byte) (d : Dev) : Dev :=
  if d.canUse func.val ch.val then d.windowWrite ch.val off.val data else d

/-- A doorbell (R64 to R66, R76, R77); one refused at FULL is remembered for the rest of its cycle. -/
def Dev.ring (d : Dev) (c : Nat) : Dev :=
  let x := d.chan c
  if c = 5 || x.resetBusy || !x.winFree then d.chanErr c 1
  else if 64 ≤ x.outstanding then
    (d.chanErr c 2).modChan c (fun y => { y with
      refused := satInc y.refused
      refusedNow := some (match x.refusedNow with | some k => (k.1 + 1, k.2) | none => (1, x.refused, x.err)) })
  else d.modChan c (fun x => { x with winFree := false, outstanding := x.outstanding + 1 })

/-- DOORBELL_RING: a write of 1 to MBX_DOORBELL.RING. -/
def doorbellRing (func : Fin 5) (ch : Fin 8) (d : Dev) : Dev :=
  if d.canUse func.val ch.val then d.ring ch.val else d

/-- REQUEST_COPY_DONE: the message is in the request queue (R64). -/
def requestCopyDone (ch : Fin 8) (d : Dev) : Dev :=
  if (d.chan ch.val).winFree then d
  else d.modChan ch.val (fun x => { x with winFree := true, copied := x.copied ++ [x.window.take (mBytes x.window)] })

/-! ### Checks 1 to 9 (R74) -/

/-- How the checks end. -/
inductive Verdict where
  | reject (status : Nat)
  | accept
  | duplicate
  deriving DecidableEq, Repr

/-- Tenancy `n` exists (R82). -/
def Dev.tenancyExists (d : Dev) (n : Nat) : Bool := 1 ≤ n && (d.sec.tenancies.getD (n - 1) none).isSome

/-- It exists and its ranges are wiped. -/
def Dev.tenancyReady (d : Dev) (n : Nat) : Bool := d.tenancyExists n && !d.wipes.any (fun j => j.purpose == .create n)

/-- Messages that a channel 1 to 4 takes while its tenancy does not exist (R82). -/
def openToAll (op : Nat) : Bool :=
  op == 0x0100 || op == 0x0101 || op == 0x0102 || op == 0x0306 || op == 0x0307

/-- The keyed check of a request is right for the channel's session (R72). -/
def Dev.keyedOk (d : Dev) (c : Nat) (m : List Byte) : Bool :=
  match (d.chan c).session with
  | none => false
  | some s =>
    s.number == mSession m &&
    (m.drop (32 + mLength m)).take 16 == keyedCheck s.key (withStatus (m.take 32) 0 ++ mPayload m)

/-- Checks 1 to 9 in order, with the rules of repeated delivery (R74, R104, R106); a channel whose tenancy is being released takes
nothing (R409). -/
def Dev.verdict (d : Dev) (c : Nat) (m : List Byte) : Verdict :=
  let x := d.chan c
  if mVersion m ≠ 1 then .reject sBadField
  else if mFlags m / 4 ≠ 0 || fieldLE m 20 4 ≠ 0 then .reject sBadField
  else if (if mCritical m then 4048 else 4064) < mLength m then .reject sBadLength
  else
    match msgRow (mOpcode m) with
    | none => .reject sBadOpcode
    | some r =>
      if !bitOf r.chans (chanLetter c) || (1 ≤ c && c ≤ 4 && !d.tenancyReady c && !openToAll (mOpcode m)) ||
          d.sec.releasing.contains c then .reject sBadState
      else if r.critical != mCritical m || (!mCritical m && mCounter m ≠ 0) then .reject sBadField
      else
        let dup := mSeq m == x.lastSeq && x.keptDigest == some (sha256 (withStatus m 0))
        if !dup && mSeq m ≠ x.lastSeq + 1 then .reject sBadField
        else if mCritical m && !d.keyedOk c m then .reject sAuthFail
        else if dup then .duplicate
        else if mCritical m && (match x.session with | some s => mCounter m ≤ s.lastCounter | none => true) then .reject sReplay
        else .accept

/-! ### Responses (R73, R78, R104, R105) -/

/-- A response: the request's header with RESPONSE, STATUS and its own LENGTH; an executed critical one has CRITICAL, the
COUNTER and a trailer. -/
def responseBytes (m : List Byte) (status : Nat) (payload : Option (List Byte)) (key : Option (List Byte)) : List Byte :=
  let p := payload.getD []
  let crit := mCritical m && payload.isSome
  let head := m.take 1 ++ bytesLE 1 (4 + b2n crit) ++ bytesLE 2 (mOpcode m) ++ bytesLE 2 p.length ++ bytesLE 2 status ++
    (m.drop 8).take 12 ++ bytesLE 4 0 ++ bytesLE 8 (if crit then (mCounter m).toNat else 0)
  head ++ p ++ (if crit then keyedCheck (key.getD []) (head ++ p) else [])

/-- The result word and the result fields (R78). -/
def resultPayload (result : Nat) (fields : List Byte) : List Byte := bytesLE 2 result ++ bytesLE 2 0 ++ fields

/-- The key of a channel's session. -/
def Dev.chanKey (d : Dev) (c : Nat) : Option (List Byte) := (d.chan c).session.map (·.key)

/-- A request is at an end: its response is due. -/
def Dev.pushDone (d : Dev) (r : Done) : Dev := { d with dones := d.dones ++ [r] }

/-! ### The rings between the firmware processors (R57) -/

def Req.op (r : Req) : Nat := mOpcode r.msg
/-- The processor that owns a request, in the order HP, BSP, HLP, SCP, LKP. -/
def Req.owner (r : Req) : Nat := ((msgRow r.op).map (·.owner)).getD 0

/-- An internal message of 64 bytes (R57): DESIGN CHOICE: it begins with the bytes of the request concerned, and 0 fills it up (log
entry 97). -/
def ringMessage (bs : List Byte) : List Byte := (bs ++ List.replicate 64 0).take 64

/-- The messages in the ring from one processor to another: one for each request that HP has passed to an owner and that the owner has
not begun, one for each result that an owner has given and HP has not yet written out, and what an owner asks of a third processor
(R56, R57; log entry 97). -/
def Dev.msgRing (d : Dev) (src dst : Nat) : List (List Byte) :=
  if src = dst then []
  else if src = 0 then (d.reqs.filter (fun r => r.owner == dst && r.place == .owner)).map (fun r => ringMessage r.msg)
  else if dst = 0 then (d.dones.filter (fun r => r.owner == src)).map (fun r => ringMessage r.msg)
  else (d.rings.filter (fun r => r.src == src && r.dst == dst)).map (fun r => ringMessage [BitVec.ofNat 8 r.tenancy])

/-- A ring of 32 entries has space; HP's own work needs no ring (R57). -/
def Dev.ringRoom (d : Dev) (src dst : Nat) : Bool := decide ((d.msgRing src dst).length < 32)

/-- Whether a message is one that repeats another, byte for byte but for STATUS (R104). -/
def sameRequest (a b : List Byte) : Bool := sha256 (withStatus a 0) == sha256 (withStatus b 0)

/-- A duplicate: the kept response again, with STATUS OK_DUPLICATE and a trailer of its own; that of a request still on its way, or
executed and not yet answered, is answered directly after the original (R104, R105). -/
def Dev.takeDuplicate (d : Dev) (c : Nat) (m : List Byte) : Dev :=
  let again := fun (p : List Byte) => d.pushDone { chan := c, msg := m, status := BitVec.ofNat 16 sOkDuplicate, payload := some p, key := d.chanKey c }
  match (d.chan c).keptResp with
  | some k => again (mPayload k)
  | none =>
    { d with
      dones := d.dones.map (fun (r : Done) =>
        if r.chan == c && !r.discard && r.payload.isSome && sameRequest r.msg m then { r with dups := r.dups ++ [m] } else r)
      reqs := d.reqs.map (fun (r : Req) => if r.chan == c && !r.discard && sameRequest r.msg m then { r with dups := r.dups ++ [m] } else r) }

/-- The base of the plan that a RECIPE_SELECT names, and whether it stands paused or debug held, as the request is accepted; a plan that
is not armed yet has no base then (R89, R120). -/
def Dev.planAt (d : Dev) (m : List Byte) : Option (Bool × BitVec 52) :=
  if mOpcode m = 0x0206 then
    ((d.plan? (BitVec.ofNat 16 (fieldLE (mPayload m) 0 2))).filter (fun p => p.state != .admitted)).map (fun p => (p.state == .paused || p.state == .debugHeld, p.base))
  else none

/-- The request that HP takes next, in the order of R59. -/
def Dev.nextCopied (d : Dev) : Option Nat :=
  ((List.range 8).map (fun i => (d.beatN + i) % 8)).find? (fun c => !(d.chan c).copied.isEmpty)

/-- REQUEST_CHECK: HP takes the first copied request in its rotating order (R59, R74); one that says it is critical goes to SCP for its
checks of session, keyed check and counter, and waits while SCP does not run or its ring is full (R57, R58). -/
def requestCheck (d : Dev) : Dev :=
  if !d.runs 0 then d
  else
    match d.nextCopied with
    | none => d
    | some c =>
      match (d.chan c).copied with
      | [] => d
      | m :: rest =>
        if mCritical m && (!d.runs 3 || !d.ringRoom 0 3) then d else
        let x := d.chan c
        let d := d.modChan c (fun x => { x with copied := rest })
        match d.verdict c m with
        | .reject s => d.pushDone { chan := c, msg := m, status := BitVec.ofNat 16 s, payload := none }
        | .duplicate => d.takeDuplicate c m
        | .accept =>
          let r : Req :=
            { chan := c, msg := m, acceptBeat := d.bt.beat, prevSeq := x.lastSeq
              prevCounter := (x.session.map (·.lastCounter)).getD 0, prevDigest := x.keptDigest, prevResp := x.keptResp
              key := d.chanKey c, plan0 := d.planAt m }
          { d.modChan c (fun x => { x with
              lastSeq := mSeq m, keptDigest := some (sha256 (withStatus m 0)), keptResp := none
              session := if mCritical m then x.session.map (fun s => { s with lastCounter := mCounter m }) else x.session }) with
            reqs := d.reqs ++ [r] }

/-! ### Dispatch (R56, R60, R69) -/

/-- A request may go to its owner: ORDERED waits for every earlier one of its channel, an admission for the admission under
way, a critical one for SCP, and each for space in the ring (R57, R58, R60, R69). -/
def Dev.mayPass (d : Dev) (before : List Req) (r : Req) : Bool :=
  r.place == .hp && d.runs r.owner && (!mCritical r.msg || d.runs 3) && d.ringRoom 0 r.owner &&
  (!mOrdered r.msg || !before.any (fun q => q.chan == r.chan)) &&
  (r.op != 0x0200 || !d.reqs.any (fun q => q.op == 0x0200 && q.place != .hp))

/-- The first request that may pass, passed. -/
def passFirst (may : List Req → Req → Bool) : List Req → List Req → List Req
  | _, [] => []
  | before, r :: rest =>
    if may before r then { r with place := .owner } :: rest else r :: passFirst may (before ++ [r]) rest

/-- REQUEST_DISPATCH: the first accepted request whose waits are at an end goes to its owner. -/
def requestDispatch (d : Dev) : Dev :=
  if d.runs 0 then { d with reqs := passFirst d.mayPass [] d.reqs } else d

/-! ### Execution by the owner -/

/-- What an execution answers: a rejection at check 10, a result with its fields, that it goes on, or that it has yet to begin. -/
inductive Reply where
  | reject (status : Nat)
  | done (result : Nat) (fields : List Byte)
  | going
  | wait
  deriving DecidableEq, Repr

/-- Requests equal but for their order are told apart by their place in the list. -/
def eraseReq (l : List Req) (r : Req) : List Req := l.erase r

/-- A request is executed: its response and those of its duplicates are due (R78, R105), with trailers under its session's key;
`ends` says that every session ends with it (R102). -/
def Dev.finishReq (d : Dev) (r : Req) (result : Nat) (fields : List Byte) (ends : Bool := false) : Dev :=
  Dev.pushDone { d with reqs := eraseReq d.reqs r }
    { chan := r.chan, msg := r.msg, status := BitVec.ofNat 16 result, payload := some (resultPayload result fields), discard := r.discard
      key := r.key, owner := r.owner, dups := r.dups, ends := ends }

/-- A later request of the channel takes back what it would give back of a rejected one (R74, R80). -/
def Req.forget (q r : Req) : Req :=
  let q := if q.chan == r.chan && mCritical r.msg && mSession q.msg == mSession r.msg && q.prevCounter == mCounter r.msg then
    { q with prevCounter := r.prevCounter } else q
  if q.chan == r.chan && !r.discard && q.prevSeq == mSeq r.msg then
    { q with prevSeq := r.prevSeq, prevDigest := r.prevDigest, prevResp := r.prevResp } else q

/-- What a channel keeps once a request of it is rejected: the session's counter, if no later request has raised it; SEQ and the kept
request, if no later one was accepted and the channel was not reset (R74, R80; log entry 9). -/
def Chan.unaccept (x : Chan) (r : Req) : Chan :=
  let x := { x with session := x.session.map (fun s =>
    if mCritical r.msg && s.number == mSession r.msg && s.lastCounter == mCounter r.msg then { s with lastCounter := r.prevCounter } else s) }
  if x.lastSeq == mSeq r.msg && !r.discard then
    { x with lastSeq := r.prevSeq, keptDigest := r.prevDigest, keptResp := r.prevResp } else x

/-- A request is rejected at check 10: it has not advanced SEQ or the counter (R74, R80). -/
def Dev.rejectReq (d : Dev) (r : Req) (status : Nat) : Dev :=
  let d := { d with reqs := (eraseReq d.reqs r).map (fun (q : Req) => q.forget r) }
  let d := d.modChan r.chan (fun x => x.unaccept r)
  d.pushDone { chan := r.chan, msg := r.msg, status := BitVec.ofNat 16 status, payload := none, discard := r.discard, owner := r.owner, dups := r.dups }

/-- The request that an owner is on: the one it executes, and otherwise the oldest of those it has (R60). -/
def Dev.atOwner (d : Dev) (o : Nat) : Option Req :=
  match d.reqs.find? (fun r => r.owner == o && r.place == .executing) with
  | some r => some r
  | none => d.reqs.find? (fun r => r.owner == o && r.place != .hp)

/-- The request in execution at an owner. -/
def Dev.executing (d : Dev) (op : Nat) : Option Req := d.reqs.find? (fun r => r.op == op && r.place == .executing)

/-- Opcodes that READY is needed for (R444). -/
def needsReady (op : Nat) : Bool :=
  op == 0x0200 || op == 0x0201 || op == 0x0203 || op == 0x0400 || op == 0x0300 || op == 0x0301 || op == 0x0303

/-- An owner serves its oldest request when it carries this opcode: LENGTH first, then the message's own rules (R60, R74
check 10, R81). -/
def Dev.serve (d : Dev) (op : Nat) (f : Dev → Req → List Byte → Dev × Reply) : Dev :=
  match msgRow op with
  | none => d
  | some row =>
    match d.atOwner row.owner with
    | none => d
    | some r =>
      if r.op ≠ op || r.place != .owner || !d.runs row.owner || !d.ringRoom row.owner 0 then d
      else if !lengthOk op (mPayload r.msg) then d.rejectReq r sBadLength
      else if needsReady op && d.pwr.phase != .ready then d.rejectReq r sBadState
      else
        match f d r (mPayload r.msg) with
        | (_, .wait) => d
        | (_, .reject s) => d.rejectReq r s
        | (d, .done res fields) => d.finishReq r res fields
        | (d, .going) => { d with reqs := d.reqs.map (fun q => if q == r then { r with place := .executing } else q) }

/-! ### Placing and popping (R67, R68, R73) -/

/-- A response placed after a later request was accepted is what that request gives back if it is rejected (R104). -/
def Req.keepPrev (q : Req) (c : Nat) (dig bs : List Byte) : Req :=
  if q.chan == c && q.prevDigest == some dig then { q with prevResp := some bs } else q

/-- The logical cores of a function's tenancy that CORE_MAP shows it (R97). -/
def Dev.coreMapFields (d : Dev) (func : Nat) : List Byte :=
  let mine := fun (c : Nat) => func = 0 || (d.coresOf func).contains c
  (List.range 72).map (fun c => BitVec.ofNat 8 (if mine c then d.siteOf.getD c 0xFF else 0xFF)) ++ bytesLE 8 d.mapTs.toNat ++ bytesLE 4 0

/-- The result payload as it is placed: an executed CORE_MAP gives the map of that moment (R97). -/
def Dev.payloadNow (d : Dev) (r : Done) : Option (List Byte) :=
  if mOpcode r.msg = 0x0308 && r.status = 0 && r.payload.isSome then some (resultPayload sOk (d.coreMapFields (chanFunc r.chan))) else r.payload

/-- Every session ends (R102, R405). -/
def Dev.endSessions (d : Dev) : Dev := { d with chans := d.chans.map (fun (c : Chan) => { c with session := none }) }

/-- A response and, directly after it, those of its exact repeats, put into the channel's queue (R73, R105). -/
def Dev.placeAll (d : Dev) (r : Done) (p : Option (List Byte)) : Dev :=
  let again := if p.isSome then sOkDuplicate else r.status.toNat
  r.dups.foldl (fun (d : Dev) m => d.queueResp r.chan (responseBytes m again p r.key))
    (d.queueResp r.chan (responseBytes r.msg r.status.toNat p r.key))

/-- RESPONSE_PLACE: HP writes the oldest response that is due into its channel's queue (R73); a response of a reset channel is
dropped (R77).  A response with a trailer waits for SCP (R58).  With the response of a life-cycle change every session ends (R102). -/
def responsePlace (d : Dev) : Dev :=
  match d.dones with
  | [] => d
  | r :: rest =>
    if !d.runs 0 || (mCritical r.msg && r.payload.isSome && !d.runs 3) then d
    else
      let d := { d with dones := rest }
      let d := if r.discard then d
        else
          let p := d.payloadNow r
          let bs := responseBytes r.msg r.status.toNat p r.key
          let dig := sha256 (withStatus r.msg 0)
          let first := r.payload.isSome && r.status.toNat != sOkDuplicate
          let d := if first then { d with reqs := d.reqs.map (fun q => q.keepPrev r.chan dig bs) } else d
          let d := if first && (d.chan r.chan).keptDigest == some dig then d.modChan r.chan (fun x => { x with keptResp := some bs }) else d
          d.placeAll r p
      if r.ends then d.endSessions else d

/-- The first doorbell that was refused at FULL in this cycle is accepted after all, a pop of the cycle taking effect first; a later one of
the cycle then finds the window busy (R66). -/
def Chan.undoRefusal (x : Chan) : Chan :=
  match x.refusedNow with
  | none => x
  | some (n, refused, err) =>
    let bit : BitVec 4 := 4
    let e : Sticky 4 := ⟨(x.err.val &&& ~~~bit) ||| (err.val &&& bit), (x.err.fresh &&& ~~~bit) ||| (err.fresh &&& bit)⟩
    { x with
      refused := refused, err := if 1 < n then e.raise 2 else e, winFree := false, outstanding := x.outstanding + 1, refusedNow := none }

/-- The oldest response of a channel removed (R67, R68). -/
def Dev.pop (d : Dev) (c : Nat) : Dev :=
  match (d.chan c).responses with
  | [] => d.chanErr c 3
  | _ :: rest =>
    let d := d.modChan c (fun x => Chan.undoRefusal { x with responses := rest, outstanding := x.outstanding - 1 })
    if rest.isEmpty then d else d.chanMsix c

/-- RESPONSE_POP: a write of 1 to MBX_RESP_POP.POP. -/
def responsePop (func : Fin 5) (ch : Fin 8) (d : Dev) : Dev :=
  if d.canUse func.val ch.val then d.pop ch.val else d

/-! ### Channel reset (R75 to R77) -/

/-- A channel is reset; the end of the sessions that a dropped response would bring comes all the same (R102). -/
def Dev.resetChan (d : Dev) (c : Nat) : Dev :=
  let mine := fun (r : Req) => r.chan == c
  let d := if d.dones.any (fun r => r.chan == c && r.ends) then d.endSessions else d
  let d := { d with
    reqs := (d.reqs.filter (fun r => !(mine r && r.place == ReqAt.hp))).map (fun (r : Req) => if mine r then { r with discard := true, dups := [] } else r)
    dones := d.dones.filter (fun r => r.chan != c) }
  d.modChan c (fun x => { x with
    copied := [], responses := [], err := {}, outstanding := 0, winFree := true, lastSeq := 0xFFFFFFFF, keptDigest := none
    keptResp := none, refused := 0, evtLost := 0, evtOverflow := false, evtSeq := 0, lostNow := 0, resetBusy := true, refusedNow := none })

/-- CHANNEL_RESET: a write of 1 to MBX_CTRL.CHAN_RESET. -/
def channelReset (func : Fin 5) (ch : Fin 8) (d : Dev) : Dev :=
  if d.canUse func.val ch.val then d.resetChan ch.val else d

/-- CHANNEL_RESET_DONE: no response of the channel is left to drop. -/
def channelResetDone (ch : Fin 8) (d : Dev) : Dev :=
  if (d.chan ch.val).resetBusy && !d.reqs.any (fun r => r.chan == ch.val && r.discard) &&
      !d.dones.any (fun r => r.chan == ch.val && r.discard) then
    d.modChan ch.val (fun x => { x with resetBusy := false })
  else d

/-- EVENT_LOSS_SUMMARY: channel 5 has space again (R76). -/
def eventLossSummary (d : Dev) : Dev :=
  let c := d.chan 5
  if c.evtOverflow && c.responses.length < 256 && !d.hlpDown then
    let r := (d.mkRec 0 0 0x170F 0).withDetail
      [(32, bytesLE 4 c.lostNow), (36, bytesLE 8 c.lostFirst.toNat), (44, bytesLE 8 c.lostLast.toNat)]
    let r := d.oneCopy r
    ((d.logRecord r).queueEvent r).modChan 5 (fun x => { x with evtOverflow := false, lostNow := 0 })
  else d

/-! ### Commands -/

/-- REQUEST_WINDOW_WRITE (R65). -/
def execRequestWindowWrite (func : Fin 5) (ch : Fin 8) (off : Fin 4096) (data : List Byte) (st : State) : Out State := run (requestWindowWrite func ch off data) st
/-- DOORBELL_RING (R64). -/
def execDoorbellRing (func : Fin 5) (ch : Fin 8) (st : State) : Out State := run (doorbellRing func ch) st
/-- REQUEST_COPY_DONE (R64). -/
def execRequestCopyDone (ch : Fin 8) (st : State) : Out State := run (requestCopyDone ch) st
/-- REQUEST_CHECK (R74). -/
def execRequestCheck (s : State) : Out State := run requestCheck s
/-- REQUEST_DISPATCH (R69). -/
def execRequestDispatch (s : State) : Out State := run requestDispatch s
/-- RESPONSE_PLACE (R73). -/
def execResponsePlace (s : State) : Out State := run responsePlace s
/-- RESPONSE_POP (R67). -/
def execResponsePop (func : Fin 5) (ch : Fin 8) (st : State) : Out State := run (responsePop func ch) st
/-- CHANNEL_RESET (R77). -/
def execChannelReset (func : Fin 5) (ch : Fin 8) (st : State) : Out State := run (channelReset func ch) st
/-- CHANNEL_RESET_DONE (R77). -/
def execChannelResetDone (ch : Fin 8) (st : State) : Out State := run (channelResetDone ch) st
/-- EVENT_LOSS_SUMMARY (R76). -/
def execEventLossSummary (s : State) : Out State := run eventLossSummary s

end Sys2Proof.Machine
end

