-- ==== Sys2Proof/Machine/Memory.lean ====
section
/-! DEFINITION. The stacks: errors that their code finds, patrol scrub, repairs, heals falling due and wipes (R278 to R282, R284,
R291, R382, R383). -/

namespace Sys2Proof.Machine

/-! ### Errors of a codeword (R279) -/

/-- UNIT_ID of the SRAM die that holds a device address: offset bit 12 names the die (R276, R364). -/
def sramUnit (a : Nat) : BitVec 16 := unitId 2 (2 * (a / stackSize) + a / 4096 % 2)

/-- STK_LAST_ERR takes a codeword's error: 1 corrected, 2 uncorrectable. -/
def Stk.lastErr (s : Stk) (kind off : Nat) : Stk :=
  { s with lastKind := BitVec.ofNat 2 kind, lastDie := BitVec.ofNat 1 (off / 4096), lastOffset := BitVec.ofNat 31 off }

/-- The key of the row of a stack that holds an offset: die, bank and row. -/
def rowKey (off : Nat) : Nat := off / 4096 % 2 * 131072 + Config.rowOf off % 131072

/-- The shared region that holds a codeword. -/
def Dev.sharedWord (d : Dev) (w : Nat) : Option Nat :=
  (List.range 8).find? (fun r => match d.shared.getD r none with
    | some g => meets (64 * w) 64 g.base g.len
    | none => false)

/-- A heal is unavailable: every plan that reads the region is halted (R383). -/
def Dev.healUnavailable (d : Dev) (w : Nat) : Dev :=
  match d.sharedWord w with
  | none => d
  | some r =>
    let hit := d.plans.filter (fun p => p.live && p.img.layout.sharedRead.getLsbD r)
    let d := hit.foldl (fun (d : Dev) p => (d.haltPlan p).modPlan p.handle (fun p => { p with dead := true })) d
    (d.setHltEvent 7).writeRecord ((d.mkRec 4 2 0x0601 (sramUnit (64 * w))).withAddr (64 * w))

/-- A codeword of a shared region was poisoned: its heal is queued, or unavailable (R382, R383). -/
def Dev.queueHeal (d : Dev) (w : Nat) : Dev :=
  if (d.sharedWord w).isNone || d.health.heals.any (fun h => h.word == w) then d
  else if d.health.sharedPeer = 0x7FFF || 256 ≤ d.health.heals.length then d.healUnavailable w
  else { d with health := { d.health with heals := d.health.heals ++ [{ word := w }] } }

/-- A codeword of a stack found correctable: delivered corrected and written back (R279). -/
def Dev.correctWord (d : Dev) (w : Nat) : Dev :=
  let off := 64 * w % stackSize
  let d := d.modStk (stackOfAddr (64 * w)) (fun s => { s.lastErr 1 off with
    ceCnt := satInc s.ceCnt, weakRows := s.weakRows ++ [(rowKey off, d.bt.beat)] })
  d.writeRecord (d.mkRec 1 2 0x1200 (sramUnit (64 * w)))

/-- A codeword of a stack found uncorrectable: poisoned (R279); one of a shared region is queued for a heal (R382). -/
def Dev.poisonWord (d : Dev) (w : Nat) : Dev :=
  let off := 64 * w % stackSize
  let d := { d with mem := { d.mem with poison := insertNat d.mem.poison w } }
  let d := d.modStk (stackOfAddr (64 * w)) (fun s => { s.lastErr 2 off with
    ueCnt := satInc s.ueCnt
    poisonBeats := s.poisonBeats.filter (fun b => (d.bt.beat - b).toNat < 1000) ++ [d.bt.beat] })
  (d.writeRecord ((d.mkRec 4 2 0x1201 (sramUnit (64 * w))).withAddr (64 * w))).queueHeal w

/-! ### Errors that other reads find (R279) -/

/-- An uncorrectable error of a committed dirty line: both stack codewords of the line are poisoned. -/
def Dev.poisonLine (d : Dev) (w : Nat) : Dev :=
  [w / 2 * 2, w / 2 * 2 + 1].foldl (fun (d : Dev) k => if d.mem.poison.contains k then d else d.poisonWord k) d

/-- A committed line that a cache holds is found uncorrectable: a clean one is refetched with nothing lost, a dirty one is poisoned in the
stack (R279). -/
def Dev.lineLost (d : Dev) (x : DscLine) : Dev :=
  let d := d.modDsc (x.line / 2 ^ 24) (fun s => { s with eccUe := satInc s.eccUe })
  if x.dirty then (d.dropLines (128 * x.line) 128).poisonLine (2 * x.line) else d

/-- An uncorrectable error of a scratch codeword poisons it; what reads it meets R280 (R362). -/
def Dev.poisonScratch (d : Dev) (k : Nat) : Dev :=
  { d with mem := { d.mem with poison := insertNat d.mem.poison (scratchBase (k / (scratchSize / 64) % 80) / 64 + k % (scratchSize / 64)) } }

/-- An error that a code finds at a read: a stack codeword corrected or uncorrectable; a line that a cache holds corrected in place or
uncorrectable; scratch, an accumulator entry or a log corrected, which needs no recompute, or a scratch codeword uncorrectable.  That of a
pending line and of an accumulator entry or a log is IN_PLACE_RECOMPUTE's (R279, R362, R372). -/
def Dev.readFinding (d : Dev) (kind k : Nat) : Dev :=
  let w := k % (stackEnd / 64)
  let die := w / (stackSize / 64)
  let line? := (d.dsc die).lines.find? (fun x => x.line == w / 2)
  match kind % 6 with
  | 0 => if d.mem.poison.contains w then d else d.correctWord w
  | 1 => if d.mem.poison.contains w then d else d.poisonWord w
  | 2 => if line?.isSome then d.modDsc die (fun s => { s with eccCe := satInc s.eccCe }) else d
  | 3 => match line? with | some x => d.lineLost x | none => d
  | 4 => { d with health := { d.health with recoverCnt := satInc d.health.recoverCnt } }
  | _ => d.poisonScratch k

/-- The reads of one cycle: what the code finds wrong in them is a free value. -/
def Dev.readErrors (d : Dev) : Dev :=
  let (k, d) := d.draw
  match Config.readError k with
  | none => d
  | some e => if d.wipeHolds (64 * (e.2 % (stackEnd / 64))) 64 then d else d.readFinding e.1 e.2

/-- PATROL_SCRUB: the next codeword of a stack is read, corrected and written back; a poisoned one is skipped (R280, R281). -/
def patrolScrub (s : Fin 16) (found : EccFind) (d : Dev) : Dev :=
  let st := d.stk s.val
  let w := s.val * (stackSize / 64) + st.offset.toNat / 64
  if !st.scrubActive || st.lost || d.since st.scrubBeat < st.interval.toNat || d.wipeHolds (64 * w) 64 then d
  else
    let d :=
      if d.mem.poison.contains w then d
      else match found with
        | .clean => d
        | .corrected => d.correctWord w
        | .uncorrectable => d.poisonWord w
    d.modStk s.val (fun t => { t with
      scrubBeat := d.bt.beat
      offset := t.offset + 64
      passes := if t.offset + 64 = 0 then satInc t.passes else t.passes })

/-! ### Repairs (R282) -/

/-- Spare rows in use in a bank, fused or soft-assigned. -/
def Stk.rowsUsed (s : Stk) (bank : Nat) : Nat :=
  let n := fun (l : List (Nat × Nat)) => ((l.find? (fun e => e.1 == bank)).map (·.2)).getD 0
  n s.fusedRows + n s.softRows

/-- One more row of a bank in a table. -/
def addRow : List (Nat × Nat) → Nat → List (Nat × Nat)
  | [], b => [(b, 1)]
  | (k, n) :: r, b => if k = b then (k, n + 1) :: r else (k, n) :: addRow r b

/-- Corrected codewords of a row within the last 24 hours. -/
def Dev.rowHits (d : Dev) (s : Nat) (key : Nat) : Nat :=
  ((d.stk s).weakRows.filter (fun e => e.1 == key && d.since e.2 ≤ dayBeats)).length

/-- SOFT_REPAIR: HLP copies a row with 4 or more corrected codewords in 24 hours to a spare row, while no plan is armed; a bank
without a spare row is reported (R282). -/
def softRepair (s : Fin 16) (d : Dev) : Dev :=
  match (d.stk s.val).weakRows.find? (fun e => 4 ≤ d.rowHits s.val e.1) with
  | none => d
  | some e =>
    if d.anyArmed || !d.runs 2 then d
    else
      let bank := e.1 / 1024
      let forget := fun (t : Stk) => { t with weakRows := t.weakRows.filter (fun x => x.1 != e.1) }
      if 64 ≤ (d.stk s.val).rowsUsed bank then
        (d.modStk s.val forget).writeRecord (d.mkRec 3 2 0x1203 (unitId 2 (2 * s.val + bank / 128)))
      else
        { d.modStk s.val (fun t => { forget t with rowRepairs := satInc t.rowRepairs, softRows := addRow t.softRows bank }) with
          health := { d.health with craterDirty := true } }

/-- STK_REPAIR is reachable from PF0 in MANUFACTURE, and through the TAP while DEBUG is unlocked (R282). -/
def Dev.repairOpen (d : Dev) : RegPath → Bool
  | .pf0 => d.sec.lcState == 0
  | .jtag => d.sec.debug
  | _ => false

/-- A write of STK_REPAIR: its fields, and OP with GO (R282). -/
def Dev.writeRepair (d : Dev) (s : Nat) (v : BitVec 64) : Dev :=
  let op := bitsOf v.toNat 62 60
  let die := bitsOf v.toNat 48 48
  let bank := bitsOf v.toNat 46 40
  let key := 128 * die + bank
  let d := d.modStk s (fun t => { t with
    repOp := BitVec.ofNat 3 op, repDie := BitVec.ofNat 1 die, repBank := BitVec.ofNat 7 bank
    repRow := BitVec.ofNat 10 (bitsOf v.toNat 39 30) })
  if !v.getLsbD 63 then d
  else
    match op with
    | 1 =>
      d.modStk s (fun t =>
        if 64 ≤ t.rowsUsed key then { t with repData := 2 }
        else { t with repData := 1, fusedRows := addRow t.fusedRows key })
    | 2 =>
      d.modStk s (fun t =>
        if die = 0 then
          (if t.spareBanksLo.toNat < 8 then { t with repData := 1, spareBanksLo := t.spareBanksLo + 1 } else { t with repData := 2 })
        else if t.spareBanksHi.toNat < 8 then { t with repData := 1, spareBanksHi := t.spareBanksHi + 1 }
        else { t with repData := 2 })
    | 3 =>
      let (k, d) := d.draw
      d.modStk s (fun t => { t with repData := Config.rawWord k })
    | _ => d

/-! ### Wipes (R291) -/

/-- A range written with zeros: it reads 0 and holds no poison, and the caches' lines of it are dropped with their pending bytes and
atomic logs (R291). -/
def Dev.wipeRange (d : Dev) (a n : Nat) : Dev :=
  let d := d.dropLines a n
  { d with
    mem := { bytes := memZero d.mem.bytes a n
             poison := d.mem.poison.filter (fun w => !(decide (a ≤ 64 * w) && decide (64 * w + 64 ≤ a + n))) }
    cqs := d.cqs.map (fun (q : Cq) => { q with
      pend := q.pend.filter (fun e => !(decide (a ≤ e.1) && decide (e.1 < a + n))), log := q.log.filter (fun e => !(decide (a ≤ e.addr) && decide (e.addr < a + n))) }) }

/-- A codeword that fails its verification twice is poisoned (R291). -/
def Dev.wipeFailed (d : Dev) (w : Nat) : Dev :=
  let d := { d with mem := { d.mem with poison := insertNat d.mem.poison w } }
  d.writeRecord ((d.mkRec 4 2 0x1202 (sramUnit (64 * w))).withAddr (64 * w))

/-- The bytes of a range that lie in a stack. -/
def inStack (s : Nat) (r : RangeEnt) : RangeEnt :=
  let lo := max r.base (stackSize * s)
  ⟨lo, min (r.base + r.len) (stackSize * (s + 1)) - lo⟩

/-- Ranges cut at the stacks' bounds. -/
def stackParts (rs : List RangeEnt) : List RangeEnt :=
  rs.flatMap (fun r => ((List.range 16).map (fun s => inStack s r)).filter (fun q => q.len != 0))

/-- WIPE_BUSY of every stack and of its cache (R291). -/
def Dev.settleWipeBusy (d : Dev) : Dev :=
  let busy := fun (s : Nat) => d.wipeHolds (stackSize * s) stackSize
  { d with
    stks := d.stks.zipIdx.map (fun (e : Stk × Nat) => { e.1 with wipeBusy := busy e.2 })
    dscs := d.dscs.zipIdx.map (fun (e : Dsc × Nat) => { e.1 with wipeBusy := busy e.2 }) }

/-- A wipe begins (R291). -/
def Dev.beginWipe (d : Dev) (purpose : WipeFor) (rs : List RangeEnt) : Dev :=
  Dev.settleWipeBusy { d with wipes := d.wipes ++ [WipeJob.mk purpose (stackParts rs)] }

/-- The scratch and the accumulators of a site are wiped. -/
def Dev.wipeSite (d : Dev) (n : Nat) : Dev :=
  (d.modSite n (fun s => { s with acc := { s.acc with rows := [], satSeen := false } })).wipeRange (scratchBase n) 0x1000000

/-- The core-site reset (R439, R440): sets, accumulators, control core and flag word cleared, scratch wiped; other registers keep.  The
array's demand ends; its grant falls as the governor deals it, or with a fence at once (R168). -/
def Dev.siteReset (d : Dev) (n : Nat) : Dev :=
  let d := d.modSite n (fun s => { s with
    lbk := { s.lbk with set0 := {}, set1 := {}, active := false, demand := 0, holding := false, hold := 0 }
    acc := { s.acc with rows := [], satSeen := false }
    qnt := { s.qnt with work := [] }
    mvp := { s.mvp with vec := [] }
    ccr := { s.ccr with threads := List.replicate 8 {}, stores := [], flags := 0, streams := List.replicate 8 {}
                        flagsSet := 0, faultValid := false, textBase := 0 } })
  d.wipeRange (scratchBase n) 0x1000000

/-- A life-cycle change wipes every memory of the dies as well as the stacks (R291, R405). -/
def WipeJob.wipesSites (j : WipeJob) : Bool := match j.purpose with | .lifecycle _ => true | _ => false

/-- The wipe of one stack: its ranges read zero and hold no poison; `bad` are the codewords that fail verification twice. -/
def Dev.wipeStack (d : Dev) (s : Nat) (parts : List RangeEnt) (sites : Bool) (bad : List (BitVec 25)) : Dev :=
  let d := parts.foldl (fun (d : Dev) r => d.wipeRange r.base r.len) d
  let d := if sites then (List.range 5).foldl (fun (d : Dev) p => d.wipeSite (5 * s + p)) d else d
  if d.sec.wipeVerify then
    bad.foldl (fun (d : Dev) b =>
      let w := s * (stackSize / 64) + b.toNat
      if parts.any (fun r => meets (64 * w) 64 r.base r.len) then d.wipeFailed w else d) d
  else d

/-- A stack of the boot's WIPE phase: after the last of them the boot goes on to WAIT_CFG (R442). -/
def Dev.bootWipe (d : Dev) (s : Nat) (bad : List (BitVec 25)) : Dev :=
  let d := d.wipeStack s [RangeEnt.mk (stackSize * s) stackSize] true bad
  let wiped := d.pwr.wiped.set s true
  ({ d with pwr := { d.pwr with wiped := wiped, phase := if wiped.all id then .waitCfg else .wipe } }).settleWipeBusy

/-- A stack of the wipes under way; the jobs that have no range left are for their owner to end. -/
def Dev.jobWipe (d : Dev) (s : Nat) (bad : List (BitVec 25)) : Dev :=
  let mine := fun (r : RangeEnt) => stackOfAddr r.base == s
  let parts := d.wipes.flatMap (fun (j : WipeJob) => j.parts.filter mine)
  if parts.isEmpty then d
  else
    let sites := d.wipes.any (fun j => j.wipesSites && j.parts.any mine)
    let d := d.wipeStack s parts sites bad
    ({ d with wipes := d.wipes.map (fun (j : WipeJob) => { j with parts := j.parts.filter (fun r => !mine r) }) }).settleWipeBusy

/-! ### Commands -/

/-- PATROL_SCRUB (R281). -/
def execPatrolScrub (s : Fin 16) (found : EccFind) (st : State) : Out State := run (patrolScrub s found) st
/-- SOFT_REPAIR (R282). -/
def execSoftRepair (s : Fin 16) (st : State) : Out State := run (softRepair s) st

end Sys2Proof.Machine
end

