-- ==== Sys2Proof/Machine/Release.lean ====
section
/-! DEFINITION. The release of a tenancy (R99, R407, R409), and the held sites kept powered or warm (R32, R436). -/

namespace Sys2Proof.Machine

/-! ### Held sites (R32, R436) -/

/-- The held sites of a compute die, those of them that are powered, and whether one is warm. -/
def Dev.heldOf (d : Dev) (die : Nat) : List Nat :=
  (List.range 5).map (fun p => 5 * die + p) |>.filter (fun s => d.siteState s == .held)
def Dev.heldUp (d : Dev) (die : Nat) : List Nat := (d.heldOf die).filter d.domUp
def Dev.hasWarm (d : Dev) (die : Nat) : Bool := (List.range 5).any (fun p => d.siteState (5 * die + p) == .warm)

/-- While a plan is armed, one held site of each die is warm, in core-site reset, and the others are cold, with DOMAIN_EXIT cause 0
(R32, R436); which one becomes warm is free. One that still ramps up goes down at the end of its ramp, and one that waits for its ramp
waits no more. -/
def Dev.coolHeld (d : Dev) (die : Nat) : Dev :=
  let up := d.heldUp die
  let d :=
    if d.hasWarm die then d
    else
      match up with
      | [] => d
      | _ =>
        let (k, d) := d.draw
        let s := up.getD (Config.mapPick k up.length % up.length) 0
        ((d.siteReset s).setSiteState s .warm).setDom s .gated
  (d.heldOf die).foldl (fun (d : Dev) s => d.powerDown s causeIdle) d

/-- While no plan is armed, every held site is powered, its clocks gated, and none is warm (R436). -/
def Dev.powerHeld (d : Dev) (s : Nat) : Dev :=
  match d.siteState s with
  | .held => if d.domUp s then d.setDom s .gated else d.powerUp s causeOther
  | .warm => d.setSiteState s .held
  | _ => d

/-- The held sites after a plan has been armed or retired. -/
def Dev.settleHeld (d : Dev) : Dev :=
  if d.anyArmed then (List.range 16).foldl Dev.coolHeld d else (List.range 80).foldl Dev.powerHeld d

/-! ### Tenancies -/

/-- Requests of a channel that wait at HP are discarded; those with an owner run on and their responses are dropped (R77,
R107). -/
def Dev.discardReqs (d : Dev) (c : Nat) : Dev :=
  let keep := d.reqs.filter (fun (r : Req) => !(r.chan == c && r.place == ReqAt.hp))
  { d with reqs := keep.map (fun (r : Req) => if r.chan == c then { r with discard := true, dups := [] } else r) }

/-- The request that an owner executes for a tenancy or a life-cycle change, answered as it ends (R98, R99, R102). -/
def Dev.endRequest (d : Dev) (op : Nat) : Dev :=
  match d.reqs.find? (fun r => r.op == op && r.place == .executing) with
  | none => d
  | some r => d.finishReq r sOk []

/-- A tenancy's release is at its end: its ranges are wiped, its retired plans are forgotten with their handles (R82), and a
TENANCY_DESTROY that waits is answered (R99, R409). -/
def Dev.endRelease (d : Dev) (n : Nat) : Dev :=
  let d := { d with
    sec := { d.sec with
      tenancies := d.sec.tenancies.set (n - 1) none
      releasing := d.sec.releasing.filter (fun (k : Nat) => k != n) }
    plans := d.plans.filter (fun (p : Plan) => p.func != n) }
  match d.reqs.find? (fun r => r.op == 0x0401 && r.place == .executing && fieldLE (mPayload r.msg) 0 1 == n) with
  | none => d
  | some r => d.finishReq r sOk []

/-- Both fuses of a state blown, DEBUG locked, and in DECOMMISSIONED every key slot erased, in the flash as well (R405). -/
def Sec.enter (s : Sec) (target : BitVec 2) : Sec :=
  { s with
    lcFuses := s.lcFuses.set (target.toNat - 1) (true, true), debug := false
    slots := if target = 3 then List.replicate 8 .empty else s.slots
    keyArea := if target = 3 then List.replicate 3 .erased else s.keyArea }

/-- A life-cycle change whose memories are wiped, trace staging among them (R392): the fuses are blown and the response is due; with it
every session ends, or at once where no request waits for it (R102, R405). -/
def Dev.endLifecycle (d : Dev) (target : BitVec 2) : Dev :=
  let d := { d with sec := d.sec.enter target, trc := { d.trc with staged := [], lostRun := none } }
  match d.reqs.find? (fun r => r.op == 0x0410 && r.place == .executing) with
  | none => d.endSessions
  | some r => d.finishReq r sOk [] true

/-- A wipe has no range left (R98, R99, R405). -/
def Dev.endWipe (d : Dev) (j : WipeJob) : Dev :=
  match j.purpose with
  | .create _ => d.endRequest 0x0400
  | .release n => d.endRelease n
  | .lifecycle t => d.endLifecycle t
  | .retire => d

/-- The wipes that have no range left are at an end, the oldest first. -/
def Dev.settleWipes (d : Dev) : Dev :=
  let done := d.wipes.filter (fun j => j.parts.isEmpty)
  done.foldl Dev.endWipe { d with wipes := d.wipes.filter (fun j => !j.parts.isEmpty) }

/-- What the release of a tenancy takes besides its ranges: its queues, and the scratch and the accumulators of the sites that its plans
ran on.  DESIGN CHOICE: a site that serves another plan by then keeps what that plan has in it (R409; log entry 118). -/
def Dev.wipeOwned (d : Dev) (t : Tenancy) : Dev :=
  let d := t.cores.foldl (fun (d : Dev) c => d.modCq c (fun _ => {})) d
  (t.sites.filter (fun s => !(d.siteState s == .inService || d.siteState s == .recovering))).foldl (fun (d : Dev) s => d.wipeSite s) d

/-- A tenancy's plans are retired: its channel is reset, its session ended, its key, its queues, the scratch of its sites and its staged
trace entries go, and the wipe of its ranges begins (R99, R409). -/
def Dev.finishRelease (d : Dev) (n : Nat) : Dev :=
  let ranges := ((d.sec.tenancies.getD (n - 1) none).map (·.ranges)).getD []
  let d := match d.sec.tenancies.getD (n - 1) none with | some t => d.wipeOwned t | none => d
  let d := (d.resetChan n).modChan n (fun c => { c with session := none })
  let d := { d with
    sec := { d.sec with slots := d.sec.slots.set n .empty }
    trc := { d.trc with staged := d.trc.staged.filter (fun (e : StageEnt) => e.func != n) } }
  if (stackParts ranges).isEmpty then d.endRelease n else d.beginWipe (.release n) ranges

/-- A tenancy's release wipes its ranges. -/
def Dev.releaseWipes (d : Dev) (n : Nat) : Bool := d.wipes.any (fun j => j.purpose == .release n)

/-- Every release whose plans are all retired goes on to its wipe. -/
def Dev.settleReleases (d : Dev) : Dev :=
  (d.sec.releasing.filter (fun n => !d.releaseWipes n && !d.plans.any (fun p => p.live && p.func == n))).foldl Dev.finishRelease d

/-- MEMORY_WIPE of one stack: in the WIPE phase of the boot the stack, its cache and the scratch of its die's sites; otherwise what the
wipes under way have in it (R291, R442). -/
def memoryWipe (s : Fin 16) (bad : List (BitVec 25)) (d : Dev) : Dev :=
  if d.pwr.phase == .wipe then (if d.pwr.wiped.getD s.val false then d else d.bootWipe s.val bad)
  else (d.jobWipe s.val bad).settleWipes

/-! ### Commands -/

/-- MEMORY_WIPE (R291). -/
def execMemoryWipe (s : Fin 16) (bad : List (BitVec 25)) (st : State) : Out State := run (memoryWipe s bad) st

end Sys2Proof.Machine
end

