-- ==== Sys2Proof/Machine/Plans.lean ====
section
/-! DEFINITION. The life of an armed plan: its timeline and pauses (file 05), variant switches (R243 to R246), the release,
commit and discard of chunks (R254, R255, R285 to R289), and its retirement (R87). -/

namespace Sys2Proof.Machine

/-! ### Tables -/

def Plan.chunkEnt (p : Plan) (i : Nat) : ChunkEnt := p.img.chunks.getD i ⟨0, 0, 0, 0, [], 0, 0⟩
def Plan.nSteps (p : Plan) : Nat := p.img.steps.length
/-- Every chunk of a step has committed (R117). -/
def Plan.stepDone (p : Plan) (s : Nat) : Bool :=
  (p.img.chunks.zipIdx).all (fun c => c.1.step != s ||
    (match p.chunkStates.getD c.2 .waiting with | .committed _ => true | _ => false))
/-- The step has begun: its start is reached. -/
def Dev.stepBegun (d : Dev) (p : Plan) (s : Nat) : Bool := d.offReached p.base (p.stepOff s)
/-- The promised beat of a step has passed. -/
def Dev.promisePast (d : Dev) (p : Plan) (s : Nat) : Bool := d.offPassed p.base (p.promiseOff s)
/-- The plan takes no chunk of this step, or of a later one, until an accepted PLAN_PAUSE has had its effect (R87). -/
def Plan.behindPause (p : Plan) (s : Nat) : Bool := match p.pauseAt with | some k => decide (k.1 ≤ s) | none => false
/-- Some core of the plan runs a chunk. -/
def Dev.anyRun (d : Dev) (p : Plan) : Bool := p.cores.any (fun c => (d.cq c).run.isSome)

/-- A core that cannot reach its next chunk boundary: its queue is halted or frozen, or it has no site (R87, R124). -/
def Dev.stuck (d : Dev) (c : Nat) : Bool :=
  (d.cq c).regs.halted || (d.cq c).regs.frozen || 80 ≤ d.siteOf.getD c 0xFF

/-! ### Exports (R248, R359) -/

/-- An export record put into the outbound buffer, or lost for want of room (R359). -/
def Dev.sendExport (d : Dev) (p : Plan) (i : Nat) (bs : List Byte) (ts : BitVec 64) : Dev :=
  match p.img.layout.exports[i]? with
  | none => d
  | some e =>
    if d.stm.hasRoom (48 + bs.length) then
      let sq := nextSeq d.stm.seqs p.handle.toNat e.streamId
      { d with stm := { d.stm with
        seqs := sq.2
        outq := d.stm.outq ++ [{ func := p.func, kind := 2, streamId := e.streamId
                                 bytes := recordHeader e.streamId 0 2 sq.1 0 bs.length ts 0 ++ bs }] } }
    else
      ({ d with stm := { d.stm with expLost := satInc d.stm.expLost } }).writeRecord (d.mkRec 1 8 0x1600 0)

/-! ### Steps (R115 to R120) -/

/-- TAGs of the first uncommitted command of each unfinished chunk of a step, at most eight (R117).  Where that command is not yet
published the TAG has its index with stream id 0: DESIGN CHOICE, log entry 103. -/
def Dev.unfinishedTags (d : Dev) (p : Plan) (s : Nat) : List (BitVec 32) :=
  ((p.img.chunks.zipIdx).filterMap (fun c =>
    if c.1.step != s || (match p.chunkStates.getD c.2 .waiting with | .committed _ => true | _ => false) then none
    else
      let q := d.cq (p.devCore c.1.core)
      let idx := c.1.firstCmd
      some (match q.entries[idx - q.regs.retire.toNat]? with
        | some bs => if q.regs.retire.toNat ≤ idx then cmdTag bs else BitVec.ofNat 32 (idx % 2 ^ 20)
        | none => BitVec.ofNat 32 (idx % 2 ^ 20)))).take 8

/-- The first step, from the one in progress on, whose promise is still to be judged: a step behind a pause or a stop takes its
promise from the base of the resume (R87, R117, R120). -/
def Plan.promiseNext (p : Plan) : Option Nat :=
  ((List.range p.nSteps).drop p.curStep).find? (fun s =>
    !p.missedSteps.contains s && !p.noPromise.any (fun e => e.1 == s) &&
    (s == p.curStep || (!p.behindPause s && p.stopping.isNone &&
      (match p.stopAfter with | some l => decide (s ≤ l) | none => true))))

/-- A step that has missed its promise: counted, with its record (R88, R117). -/
def Dev.missStep (d : Dev) (p : Plan) (s : Nat) : Dev :=
  let tags := d.unfinishedTags p s
  let d := d.modPlan p.handle (fun p => { p with missedSteps := p.missedSteps ++ [s], missed := satInc p.missed })
  let r := d.mkRec 2 12 0x0301 0
  let r := match tags with | t :: _ => r.withTag t (some p.func) | [] => r
  d.writeRecord (r.withDetail [(32, tags.flatMap (fun t => bytesLE 4 t.toNat))])

/-- The step of a running plan whose promise has passed without its completion, the first of them (R117, R120, R121). -/
def Dev.missDue? (d : Dev) (p : Plan) : Option Nat :=
  if p.state != .running || p.retiring.isSome then none
  else p.promiseNext.filter (fun s => d.promisePast p s && !(s == p.curStep && d.stepBegun p s && p.stepDone s))

/-- Every step whose promise has passed by now is missed. -/
def Dev.missAll (h : BitVec 16) : Nat → Dev → Dev
  | 0, d => d
  | fuel + 1, d =>
    match d.plan? h with
    | none => d
    | some p =>
      match d.missDue? p with
      | none => d
      | some s => Dev.missAll h fuel (d.missStep p s)

/-- The status a step ends with: that of a pause it was caught in, PROMISE_MISSED, OVERLENGTH or OK (R117, R120, R122). -/
def Plan.stepStatus (p : Plan) (s : Nat) : BitVec 16 :=
  match p.noPromise.find? (fun e => e.1 == s) with
  | some e => e.2
  | none => if p.missedSteps.contains s then 0x0301 else if p.overlength.contains s then 0x0800 else 0

/-- The step in progress ends, and the next step or the plan's end follows (R116, R117); a plan that is debug held stays so. -/
def Dev.finishStep (d : Dev) (p : Plan) : Dev :=
  d.modPlan p.handle (fun p =>
    let s := p.curStep
    let last := s + 1 == p.nSteps
    { p with
      exportsDue := [], lastDone := some s, lastStatus := p.stepStatus s
      curStep := s + 1
      missedSteps := p.missedSteps.filter (· != s), overlength := p.overlength.filter (· != s)
      noPromise := p.noPromise.filter (fun e => e.1 != s)
      faultStep := if p.faultStep = some s then none else p.faultStep
      state := if last && p.state == .running then .completed else p.state
      pauseAt := if last then none else p.pauseAt
      stopping := if last then none else if p.stopAfter = some s then some 0x0900 else p.stopping
      stopAfter := if p.stopAfter = some s then none else p.stopAfter })

/-- A running plan is paused with a cause (R116). -/
def Dev.pausePlan (d : Dev) (p : Plan) (cause : BitVec 16) (begun : Nat) : Dev :=
  d.modPlan p.handle (fun p => { p with
    state := .paused, holdCause := cause, pauseAt := none, stopping := none, stopAfter := none, resumeBeat := none, begun := begun })

/-- The chunk of a core waits for the plan's resume: HLP restarted during its recovery (R371). -/
def Dev.recoversLate (d : Dev) (c : Nat) : Bool :=
  (match (d.cq c).run with | some r => r.afterResume | none => false) || d.health.recoveries.any (fun r => r.core == some c && r.late)

/-- The pauses that are due: PLAN_PAUSE at its boundary (R87), and the stop of R46 and R61 once no core runs a chunk; a step in
progress then ends with the cause. -/
def Dev.settlePause (d : Dev) (h : BitVec 16) : Dev :=
  match d.plan? h with
  | none => d
  | some p =>
    if p.state != .running then d
    else
      match p.stopping with
      | some cause =>
        if p.cores.any (fun c => (d.cq c).run.isSome && !d.stuck c && !d.recoversLate c) then d
        else
          let n := d.begunSteps p
          let d := if d.stepBegun p p.curStep then
              d.modPlan h (fun p => { p with noPromise := p.noPromise.filter (fun e => e.1 != p.curStep) ++ [(p.curStep, cause)] })
            else d
          d.pausePlan p cause n
      | none => if p.behindPause p.curStep && d.stepBegun p p.curStep then d.pausePlan p 0 p.curStep else d

/-- Steps that are complete end, one after the other (R117); in a debug hold none is judged by its promise (R121). -/
def Dev.settleSteps (h : BitVec 16) : Nat → Dev → Dev
  | 0, d => d
  | fuel + 1, d =>
    match d.plan? h with
    | none => d
    | some p =>
      if (p.state == .running || p.state == .debugHeld) && p.retiring.isNone && decide (p.curStep < p.nSteps) &&
          d.stepBegun p p.curStep && p.stepDone p.curStep && !(p.state == .running && p.behindPause p.curStep) then
        let late := p.state == .running && d.promisePast p p.curStep && p.promiseNext == some p.curStep
        let d := if late then d.missStep p p.curStep else d
        Dev.settleSteps h fuel ((d.finishStep p).settlePause h)
      else d

/-- A plan's timeline brought up to the present beat. -/
def Dev.settlePlan (d : Dev) (h : BitVec 16) : Dev :=
  match d.plan? h with
  | none => d
  | some p => (Dev.settleSteps h (p.nSteps - p.curStep) d).settlePause h

/-- A plan begins to run while a step of the counter waits for the plans' pause: it is to pause at once, so that it holds off no step
(R46, R49). -/
def Dev.pauseForStep (d : Dev) (h : BitVec 16) : Dev :=
  if d.bt.stepBy.isSome then d.modPlan h (fun p => if p.state == .running then { p with stopping := some 0x0700 } else p) else d

/-- PLAN_START: START_BEAT is reached (R116); a plan with a pause accepted before is paused on that beat (R87). -/
def planStart (h : BitVec 16) (d : Dev) : Dev :=
  match d.plan? h with
  | none => d
  | some p =>
    if d.sequencing && p.state == .armed && p.retiring.isNone && d.reached p.base then
      if p.pauseAt.isSome then d.pausePlan p 0 0
      else ((d.modPlan h (fun p => { p with state := .running })).pauseForStep h).settlePlan h
    else d

/-- PAUSE_BEAT_REACHED: PAUSE_BEAT of a running plan is reached (R87). -/
def pauseBeatReached (h : BitVec 16) (d : Dev) : Dev := if d.sequencing then d.settlePlan h else d

/-- PROMISE_DEADLINE: the promised beat of a step that is not complete has passed: it ends with PROMISE_MISSED then, be it the step in
progress or one that waits behind it, and MISSED counts it (R88, R117, R124); a step without a promise misses none (R120). -/
def promiseDeadline (h : BitVec 16) (d : Dev) : Dev :=
  match d.plan? h with
  | none => d
  | some p =>
    match d.missDue? p with
    | none => d
    | some s => if d.sequencing then d.missStep p s else d

/-- The RESUMED record of the end of a debug hold (R388, R396). -/
def Dev.stageResumed (d : Dev) (p : Plan) (b : BitVec 52) : Dev :=
  d.stage d.trc.sidDefault none 0 (shortRecord (b.setWidth 64 <<< 12) 0xFFFFFFFF 0 0x2020
    (bytesLE 2 p.handle.toNat ++ bytesLE 2 p.holdCause.toNat ++ bytesLE 8 b.toNat))

/-- The first step, from the one in progress on, with chunks still to run; with none left, the one in progress (R120). -/
def Plan.resumeStep (p : Plan) : Nat :=
  (((List.range p.nSteps).drop p.curStep).find? (fun s => !p.stepDone s)).getD p.curStep

/-- Steps before `k`, all of whose chunks are committed, end as the plan resumes. -/
def Dev.skipSteps (h : BitVec 16) (k : Nat) : Nat → Dev → Dev
  | 0, d => d
  | fuel + 1, d =>
    match d.plan? h with
    | none => d
    | some p => if p.curStep < k then Dev.skipSteps h k fuel (d.finishStep p) else d

/-- A debug break's queues go on (R148). -/
def Dev.unfreeze (d : Dev) (c : Nat) : Dev :=
  d.modCq c (fun q => { q with
    regs := { q.regs with frozen := false, brkHit := false }
    run := q.run.map (fun r => { r with deadlock := 0 }) })

/-- The recovery of a core that waited for the resume goes on (R371). -/
def Dev.resumeRecovery (d : Dev) (c : Nat) : Dev :=
  let d := d.modCq c (fun q => { q with run := q.run.map (fun (r : RunChunk) => if r.afterResume then { r with afterResume := false, release := d.bt.beat } else r) })
  { d with health := { d.health with recoveries := d.health.recoveries.map (fun (r : Recovery) => if r.core == some c then { r with late := false } else r) } }

/-- The plan runs on from RESUME_BEAT: its base is that beat less the offset of the first step with chunks still to run (R120); a plan
all of whose steps are over has completed. -/
def Dev.rebase (d : Dev) (p : Plan) (b : BitVec 52) : Dev :=
  let k := p.resumeStep
  let d := d.modPlan p.handle (fun p => { p with
    state := .running, holdCause := 0, resumeBeat := none, base := b - BitVec.ofNat 52 (p.stepOff k) })
  let d := Dev.skipSteps p.handle k (k - p.curStep) d
  d.modPlan p.handle (fun p => if p.nSteps ≤ p.curStep then { p with state := .completed, pauseAt := none } else p)

/-- RESUME_BEAT_REACHED: the plan is rebased and runs on (R120); a debug break's queues go on (R148). -/
def resumeBeatReached (h : BitVec 16) (d : Dev) : Dev :=
  match d.plan? h with
  | none => d
  | some p =>
    match p.resumeBeat with
    | none => d
    | some b =>
      if d.sequencing && (p.state == .paused || p.state == .debugHeld) && p.retiring.isNone && d.reached b then
        let d := if p.state == .debugHeld then
            let d := if d.trc.en then d.stageResumed p b else d
            p.cores.foldl Dev.unfreeze d
          else d
        let d := p.cores.foldl Dev.resumeRecovery d
        ((d.rebase p b).pauseForStep h).settlePlan h
      else d

/-! ### Variant switches (R243 to R246) -/

/-- The variant of a group that steps before `s` run. -/
def Plan.variantBefore (p : Plan) (s g : Nat) : Nat :=
  if s = 0 then ((p.img.groups[g]?).map (·.default)).getD 0 else p.variantOf (s - 1) g

/-- Groups that take a different variant at step `s`. -/
def Plan.changedGroups (p : Plan) (s : Nat) : List Nat :=
  (List.range p.img.groups.length).filter (fun g => p.variantOf s g != p.variantBefore s g)

/-- The history records that the new variants of step `s` name, each once, in rising order (R245). -/
def Plan.resetRecords (p : Plan) (s : Nat) : List Nat :=
  (p.changedGroups s).foldl (fun acc g =>
    match p.img.groups[g]? with
    | none => acc
    | some e => (e.hists.getD (p.variantOf s g) []).foldl insertNat acc) []

/-- A core's history records set to zero, their poison with them, where it has them (R245, R280). -/
def Dev.zeroRecords (d : Dev) (p : Plan) (core : Nat) (records : List Nat) : Dev :=
  match p.img.layout.hists.find? (fun h => h.core == core) with
  | none => d
  | some h =>
    let rs := records.filter (fun r => decide (r < h.n))
    { d with mem :=
      { bytes := rs.foldl (fun m r => memZero m (h.base + 512 * r) 512) d.mem.bytes
        poison := d.mem.poison.filter (fun w => !rs.any (fun r => meets (64 * w) 64 (h.base + 512 * r) 512)) } }

/-- A core has committed its last chunk of the steps before `s` (R245). -/
def Plan.earlierDone (p : Plan) (core s : Nat) : Bool :=
  (p.img.chunks.zipIdx).all (fun c => c.1.core != core || decide (s ≤ c.1.step) ||
    (match p.chunkStates.getD c.2 .waiting with | .committed _ => true | _ => false))

/-- The resets that wait for no chunk any more are made. -/
def Dev.settleResets (d : Dev) (h : BitVec 16) : Dev :=
  match d.plan? h with
  | none => d
  | some p =>
    let due := p.resets.filter (fun r => p.earlierDone r.1 r.2.1)
    let d := due.foldl (fun (d : Dev) r => d.zeroRecords p r.1 r.2.2) d
    d.modPlan h (fun p => { p with resets := p.resets.filter (fun r => !p.earlierDone r.1 r.2.1) })

/-- The 256-byte map of R246 at step `s`, and its digest. -/
def Plan.variantDigest (p : Plan) (s : Nat) : List Byte :=
  (sha256 ((List.range 256).map (fun g => BitVec.ofNat 8 (if g < p.img.groups.length then p.variantOf s g else 0)))).take 8

/-- The start of a step is one that the plan keeps: no pause or stop comes before it (R87, R120). -/
def Plan.keepsStart (p : Plan) (s : Nat) : Bool :=
  !p.behindPause s && (p.stopping.isNone || decide (s ≤ p.curStep)) && (match p.stopAfter with | some l => decide (s ≤ l) | none => true)

/-- SWITCH_BEAT: the first selected step whose start is reached and that has not been acted on (R245, R246). -/
def switchBeat (h : BitVec 16) (d : Dev) : Dev :=
  match d.plan? h with
  | none => d
  | some p =>
    let due := p.selects.find? (fun x => !p.switched.contains x.step && d.stepBegun p x.step && p.keepsStart x.step)
    match due with
    | none => d
    | some x =>
      if !d.sequencing || p.state != .running || p.retiring.isSome then d
      else
        let s := x.step
        let groups := p.changedGroups s
        let records := p.resetRecords s
        let tag := ((p.selects.filter (fun y => y.step == s)).getLast?.map (·.tag)).getD x.tag
        let d := d.modPlan h (fun p => { p with switched := p.switched ++ [s] })
        if groups.isEmpty then d
        else
          let d := (d.modPlan h (fun p => { p with
            switchSteps := p.switchSteps ++ [s]
            resets := p.resets ++ (List.range p.img.nCores).map (fun c => (c, s, records)) })).settleResets h
          d.writeRecord (((d.mkRec 0 0 0x1000 0).withTag tag).withDetail
            [(32, bytesLE 4 s), (36, bytesLE 2 groups.length), (38, bytesLE 2 records.length), (40, p.variantDigest s),
             (48, bytesLE 8 (p.stepStart s).toNat)])

/-! ### Release (R254) -/

/-- The patch window of a core's text as the image has it: 4,096 bytes from 0xF000 on, 0 past the text (R253, R254). -/
def Dev.patchWindow (d : Dev) (p : Plan) (core : Nat) : List Byte :=
  match p.img.texts.find? (fun t => t.core == core) with
  | none => List.replicate 4096 0
  | some t =>
    let n := t.len - 0xF000
    memBytes d.mem.bytes (t.addr + 0xF000) n ++ List.replicate (4096 - n) 0

/-- The core's whole text region of 64 KiB (R253). -/
def Dev.textBytes (d : Dev) (p : Plan) (core : Nat) : List Byte :=
  match p.img.texts.find? (fun t => t.core == core) with
  | none => []
  | some t => memBytes d.mem.bytes t.addr t.len ++ List.replicate (0x10000 - t.len) 0

/-- A site made ready for a chunk: rows, records' copies, patch window, streams, signature and threads (R158, R254). -/
def Dev.readySite (d : Dev) (p : Plan) (core site idx : Nat) : Dev :=
  let win := d.patchWindow p core
  let base := p.textBase core site
  let prog := p.img.progs.getD idx ⟨List.replicate 8 0xFFFF, 0⟩
  let hasText := p.img.texts.any (fun t => t.core == core)
  let bytes := if hasText then memPutAll d.mem.bytes (base + 0xF000) win else d.mem.bytes
  let d := { d with mem := { d.mem with bytes := bytes } }
  let threads : List Thread := (List.range 8).map (fun t =>
    let e := prog.entries.getD t 0xFFFF
    if e = 0xFFFF then { retired := 0, view := win }
    else { pc := BitVec.ofNat 64 (base + 4 * e), state := .running, started := true, view := win })
  d.modSite site (fun s => { s with
    acc := { s.acc with rows := [], satSeen := false }
    qnt := { s.qnt with work := [] }
    ccr := { s.ccr with threads := threads, stores := [], streams := List.replicate 8 {}, sigExp := prog.sig, faultValid := false } })

/-- How a set was loaded, where it is READY (R165). -/
def WSet.snap (w : WSet) : Option (LoadSrc × BitVec 32) := if w.st == .ready then some (w.load, w.tag) else none

/-- The chunk that a core runs next, if its release is due (R115, R117, R121, R245). -/
def Dev.dueChunk? (d : Dev) (c : Nat) : Option (Plan × Nat × Nat) :=
  match d.planOf c with
  | none => none
  | some p =>
    let site := d.siteOf.getD c 0xFF
    let q := d.cq c
    if !d.sequencing || p.state != .running || p.stopping.isSome || p.retiring.isSome || p.dead || 80 ≤ site || d.siteState site != .inService ||
        q.regs.halted || q.run.isSome || q.vent.isSome then none
    else
      match p.nextNode (p.planCore c) with
      | some (.chunk i) =>
        let e := p.chunkEnt i
        let preds := e.preds.all (fun k => match p.chunkStates.getD k .waiting with | .committed _ => true | _ => false)
        let switched := p.selects.all (fun x => p.curStep < x.step || p.switched.contains x.step)
        if e.step = p.curStep && d.offReached p.base (p.stepOff e.step + e.releaseOff) && preds && switched && !p.behindPause e.step then
          some (p, site, i)
        else none
      | _ => none

/-- CHUNK_RELEASE: the next chunk of a core is released (R254, R115); a first command that is not fetched is an underrun
(R132), and a WAITB that ended the chunk before still holds it (R139). -/
def chunkRelease (c : Fin 72) (d : Dev) : Dev :=
  match d.dueChunk? c.val with
  | none => d
  | some (p, site, i) =>
    let st := d.site site
    let d := d.readySite p (p.planCore c.val) site i
    let d := d.modPlan p.handle (fun p => { p with chunkStates := p.chunkStates.set i (.running d.bt.beat) })
    d.modCq c.val (fun q =>
      let q := { q with
        run := some { handle := p.handle, idx := i, release := d.bt.beat, waitAtStart := q.wait, execAtStart := q.regs.exec, flagCopy := st.ccr.flagsNow
                      snapActive := st.lbk.active, snap0 := st.lbk.set0.snap, snap1 := st.lbk.set1.snap }
        cpls := [], pend := [], log := [], heldFlags := [], trace := [], flights := [], next := (p.chunkEnt i).firstCmd }
      if q.fetched.isEmpty then q.underrun else q)

/-! ### Atomics at commit (R287 to R289) -/

/-- Bits of the exact shadow S, and the least significant bit's exponent (R288). -/
def shadowLsb : Int := -149

/-- An element's value as what S and the flag byte hold of it. -/
def shadowOf (v : Val) : Int × Nat :=
  match v with
  | .fin x => (x.multRneInt shadowLsb, 0)
  | .inf false => (0, 1)
  | .inf true => (0, 2)
  | .nan => (0, 4)

/-- A signed number of `n` bytes. -/
def intLE (bs : List Byte) (n : Nat) : Int := (BitVec.ofNat (8 * n) (leNat bs)).toInt
def bytesInt (n : Nat) (v : Int) : List Byte := bytesLE n (BitVec.ofInt (8 * n) v).toNat

/-- The rounding of S, with its flags (R288). -/
def shadowRound (fmt : FFmt) (s : Int) (fl : Nat) : Nat × Flags :=
  if bitOf fl 2 || (bitOf fl 0 && bitOf fl 1) then (fmt.nanCode, invFlag)
  else if bitOf fl 0 then (fmt.infCode, noFlags)
  else if bitOf fl 1 then (fmt.signBit + fmt.infCode, noFlags)
  else fmt.round ⟨s, shadowLsb⟩

/-- A number as an integer of `w` bytes, and the smaller or larger of two. -/
def pickInt (wantMax : Bool) (w a b : Nat) : Nat :=
  let x := (BitVec.ofNat (8 * w) a).toInt
  let y := (BitVec.ofNat (8 * w) b).toInt
  if (if wantMax then decide (x < y) else decide (y < x)) then b else a

/-- MIN and MAX of float codes (R288). -/
def pickFloat (fmt : FFmt) (wantMax : Bool) (a b : Nat) : Nat × Flags :=
  match fmt.decode a, fmt.decode b with
  | .nan, _ => (fmt.nanCode, invFlag)
  | _, .nan => (fmt.nanCode, invFlag)
  | x, y =>
    let r := if (if wantMax then x.lt y else y.lt x) then y else x
    ((fmt.write r).1, noFlags)

/-- A logged operation applied to its element: memory afterwards and the flags of its rounding (R286, R288, R289). -/
def applyAtom (p : Plan) (m : List Host.Cell) (e : AtomEnt) : List Host.Cell × Flags :=
  let w := atomBytes e.dtype
  let old := leNat (memBytes m e.addr w)
  let put := fun (v : Nat) => memPutAll m e.addr (bytesLE w v)
  if e.dtype ≤ 1 then
    let fmt := if e.dtype = 0 then fp32 else bf16
    match p.img.layout.atomicAt e.addr w e.dtype with
    | none => (m, noFlags)
    | some r =>
      let sh := r.shadow + 64 * ((e.addr - r.base) / w)
      if e.op = 0 then
        let ent := memBytes m sh 64
        let seeded := fieldLE ent 48 8 = p.epoch.toNat
        let cur := if seeded then (intLE (ent.take 40) 40, fieldLE ent 40 1 % 8) else shadowOf (fmt.decode old)
        let add := shadowOf (fmt.decode e.operand)
        let s := cur.1 + add.1
        let fl := cur.2 ||| add.2
        let out := shadowRound fmt s fl
        (memPutAll (memPutAll m sh (bytesInt 40 s ++ bytesLE 1 fl ++ (ent.drop 41).take 7 ++ bytesLE 8 p.epoch.toNat)) e.addr
          (bytesLE w out.1), out.2)
      else
        let out := pickFloat fmt (e.op == 2) old e.operand
        (memZero (put out.1) (sh + 48) 8, out.2)
  else if e.op = 5 then
    let m' := if old = e.compare.toNat then put e.swap.toNat else m
    (memPutAll m' e.ret (bytesLE 8 old), noFlags)
  else if e.op = 3 then (put (old &&& e.operand), noFlags)
  else if e.op = 4 then (put (old ||| e.operand), noFlags)
  else if e.op = 0 then
    (if e.dtype = 3 then
      let v := (BitVec.ofNat 104 old + BitVec.ofNat 104 e.operand).signExtend 128
      (put v.toNat, noFlags)
     else (put (old + e.operand), noFlags))
  else (put (pickInt (e.op == 2) w old e.operand), noFlags)

/-- The first poisoned codeword that the applying of an element meets: its own, or that of the shadow entry of an ADD (R280, R288). -/
def atomPoison (p : Plan) (m : Mem) (e : AtomEnt) : Option Nat :=
  let w := atomBytes e.dtype
  match m.poisoned? e.addr w with
  | some k => some k
  | none =>
    if e.dtype ≤ 1 && e.op = 0 then
      (p.img.layout.atomicAt e.addr w e.dtype).bind (fun r => m.poisoned? (r.shadow + 64 * ((e.addr - r.base) / w)) 64)
    else none

/-- The commands of the chunk that logged an operation on an element (R288). -/
def Cq.touched (q : Cq) (e : AtomEnt) : List Nat := (q.log.filter (fun x => x.addr == e.addr)).map (fun x => x.cmd % 2 ^ 20)

/-- A COMMAND record with flags added to its CFLAGS (R388). -/
def orCflags (bs : List Byte) (f : BitVec 8) : List Byte := bs.take 17 ++ [bs.getD 17 0 ||| f] ++ bs.drop 18

/-- One element of the log applied by its home cache, or left alone in a poisoned codeword with its record (R280, R287);
the completion entries and COMMAND records of the chunk's ATOMs that touched the element take the flags (R288, R388). -/
def Dev.commitAtom (d : Dev) (p : Plan) (c : Nat) (site : Nat) (e : AtomEnt) : Dev :=
  let die := stackOfAddr e.addr
  match atomPoison p d.mem e with
  | some k =>
    let a := if k = e.addr / 64 then e.addr else 64 * k
    let tag := ((d.cq c).entries[e.cmd - (d.cq c).regs.retire.toNat]?.map cmdTag).getD 0xFFFFFFFF
    (d.countPoison a).writeRecord (((d.mkRec 4 2 0x0600 (siteUnit site)).withTag tag (some p.func)).withAddr a)
  | none =>
    let r := applyAtom p d.mem.bytes e
    let d := ({ d with mem := { d.mem with bytes := r.1 } }).deliverLines e.addr (atomBytes e.dtype)
    let d := d.modDsc die (fun s => { s with atomElems := satInc s.atomElems, flags := s.flags.raise r.2.bits4 })
    d.modCq c (fun q => { q with
      cpls := q.cpls.map (fun (x : CplEnt) =>
        if (q.touched e).contains (x.tag.toNat % 2 ^ 20) then { x with cflags := x.cflags ||| r.2.cflags } else x)
      trace := q.trace.map (fun (t : Option (BitVec 16) × Bool × List Byte) =>
        if !t.2.1 && (q.touched e).contains (fieldLE t.2.2 8 4 % 2 ^ 20) then (t.1, t.2.1, orCflags t.2.2 r.2.cflags) else t) })

/-! ### Commit (R255) -/

/-- The signature of the started threads (R269). -/
def Ccr.signature (cc : Ccr) : BitVec 64 :=
  (cc.threads.zipIdx).foldl (fun s x => if x.1.started then s ^^^ x.1.crc.rotateLeft (8 * x.2) else s) 0

/-- A wipe holds bytes that a chunk's commit would write (R290). -/
def Dev.commitHeld (d : Dev) (q : Cq) : Bool :=
  q.pend.any (fun e => d.wipeHolds e.1 1) || q.log.any (fun e => d.wipeHolds e.addr (atomBytes e.dtype))

/-- Every command of the chunk has completed, every started thread has halted, and every store has drained (R255); no wipe holds what it
writes (R290). -/
def Dev.chunkReady (d : Dev) (x : Ctx) : Bool :=
  let q := d.cq x.c
  let cc := (d.site x.site).ccr
  q.flights.isEmpty && decide (x.chunk.firstCmd + x.chunk.cmds ≤ q.next) && !q.regs.halted && !x.rc.progFault &&
  cc.threads.all (fun t => !t.started || t.state == .idle) && cc.stores.isEmpty && !d.commitHeld q

/-- The pending bytes of the chunk become committed: a codeword it wrote whole loses its poison, one it wrote in part keeps its poison
and its bytes (R280, R285, R368); its lines are committed in their caches (R284); shadow entries of the elements it wrote are unseeded
(R288). -/
def Dev.commitPend (d : Dev) (c : Nat) : Dev :=
  let pend := (d.cq c).pend
  let whole := fun w => (List.range 64).all (fun i => (cellAt pend (64 * w + i)).isSome)
  let hit := d.mem.poison.filter (fun w => pend.any (fun e => e.1 / 64 == w))
  let kept := hit.filter (fun w => !whole w)
  let bytes := memPutCells d.mem.bytes (pend.filter (fun (e : Host.Cell) => !kept.contains (e.1 / 64)))
  let d := { d with mem := { bytes := bytes, poison := d.mem.poison.filter (fun w => !(hit.contains w && whole w)) } }
  let d := (pendLines pend).foldl Dev.commitLine d
  pend.foldl (fun (d : Dev) e => if e.1 < stackEnd then d.unseed e.1 1 else d) d

/-- The history records the chunk used, written from their working copies (R198): each is whole codewords, which lose their poison
(R280). -/
def Dev.commitRecords (d : Dev) (site : Nat) : Dev :=
  let q := (d.site site).qnt
  let at' := fun (e : Nat × List Byte) => q.histBase.toNat + 512 * e.1
  let m := q.work.foldl (fun m e => memPutAll m (at' e) e.2) d.mem.bytes
  let poison := d.mem.poison.filter (fun w => !q.work.any (fun e => inside (64 * w) 64 (at' e) 512))
  let d := q.work.foldl (fun (d : Dev) e => (stackLinesOf (at' e) 512).foldl Dev.commitLine d) d
  ({ d with mem := { bytes := m, poison := poison } }).modSite site (fun s => { s with qnt := { s.qnt with work := [] } })

/-- The export ranges that the chunk wrote, with their contents now (R248, R359). -/
def Dev.noteExports (d : Dev) (p : Plan) (c : Nat) (records : List (Nat × Nat)) : Dev :=
  let q := d.cq c
  let spans := q.pend.map (fun e => (e.1, 1)) ++ q.log.map (fun e => (e.addr, atomBytes e.dtype)) ++ records
  let hit := (List.range p.img.layout.exports.length).filter (fun i =>
    match p.img.layout.exports[i]? with
    | some e => spans.any (fun s => meets s.1 s.2 e.base e.len)
    | none => false)
  hit.foldl (fun (d : Dev) i =>
    match p.img.layout.exports[i]? with
    | none => d
    | some e =>
      let r := d.readOut e.base e.len
      r.2.modPlan p.handle (fun (p : Plan) => { p with
        exportsDue := p.exportsDue.filter (fun x => x.1 != i) ++ [(i, r.1, d.now)] })) d

/-- The exports that no chunk of the step still to commit may write any more are sent (R248, R359). -/
def Dev.sendDue (d : Dev) (h : BitVec 16) : Dev :=
  match d.plan? h with
  | none => d
  | some p =>
    let later := fun (i : Nat) => (p.img.chunks.zipIdx).any (fun (c : ChunkEnt × Nat) =>
      c.1.step == p.curStep && (p.img.writers.getD c.2 []).any (fun w => w.1 == i && (w.2.isEmpty || !p.skips c.1.step w.2)) &&
      (match p.chunkStates.getD c.2 .waiting with | .committed _ => false | _ => true))
    let go := p.exportsDue.filter (fun e => !later e.1)
    (go.foldl (fun (d : Dev) e => d.sendExport p e.1 e.2.1 e.2.2) d).modPlan h (fun (p : Plan) => { p with
      exportsDue := p.exportsDue.filter (fun e => later e.1) })

/-- Tuples left in the streams at commit: CCR_ERR.STREAM_LEFT and its record (R267). -/
def Dev.streamsLeft (d : Dev) (site : Nat) : Dev :=
  let left := (d.site site).ccr.streams.map AStream.left
  if left.all (· == 0) then d
  else
    let d := d.modCcr site (fun cc => { cc with streams := List.replicate 8 {}, err := cc.err.raise 0x20 })
    d.writeRecord ((d.mkRec 0 3 0x1714 (siteUnit site)).withDetail (left.zipIdx.map (fun x => (32 + x.2, [BitVec.ofNat 8 (min 255 x.1)]))))

/-- The record of a completed recovery, with the detail that R365 gives CODE 0x1700 alone (R365, R369, R372): `idx` is the chunk, none
where the site ran none. -/
def Dev.recoveryRecord (d : Dev) (v : Recovery) (idx : Option Nat) (now : BitVec 52) : Dev :=
  let ph := fun (a b : BitVec 52) => bytesLE 2 (min 0xFFFF (b - a).toNat)
  let chunk := bytesLE 4 ((idx.map (BitVec.ofNat 32)).getD Config.noChunk).toNat
  let detail := [(32, bytesLE 2 v.err.toNat), (34, bytesLE 2 (siteUnit (v.spare.getD v.site)).toNat), (36, chunk),
    (40, bytesLE 2 0 ++ ph v.t0 v.t1 ++ ph v.t1 v.t2 ++ ph v.t2 v.t3 ++ ph v.t3 now)]
  let d := { d with health := { d.health with recoverCnt := satInc d.health.recoverCnt } }
  let inPlace := v.cause == .inPlace
  let rec0 := d.mkRec (if inPlace then 1 else 2) v.source.toNat (if inPlace then 0x1703 else 0x1700) (siteUnit v.site)
  let rec0 := if v.cause == .test then rec0 else rec0.fault v.first
  let rec0 := if v.tag = 0xFFFFFFFF then rec0 else rec0.withTag v.tag (v.core.bind d.funcOf)
  d.writeRecord (if inPlace then rec0 else rec0.withDetail detail)

/-- The records of the recoveries whose recompute has committed. -/
def Dev.recomputeDone (d : Dev) (c : Nat) (idx : Nat) : Dev :=
  let mine := d.health.recomputes.filter (fun r => r.core == c)
  let d := { d with health := { d.health with recomputes := d.health.recomputes.filter (fun x => x.core != c) } }
  mine.foldl (fun (d : Dev) r => d.recoveryRecord r.rcv (some idx) d.bt.beat) d

/-- The trace records of an abandoned run: written as COMMAND_ABANDONED while TRC_CTRL.EN and ABANDONED are 1; a MARK gives none
(R390, R391). -/
def Dev.abandonTrace (d : Dev) (c : Nat) (h : BitVec 16) : Dev :=
  let func := ((d.plan? h).map (·.func)).getD 0
  if d.trc.abandoned then
    d.stageAll h func (((d.cq c).trace.filter (fun t => !t.2.1)).map (fun t => (t.1, t.2.1, t.2.2.take 14 ++ bytesLE 2 0x2001 ++ t.2.2.drop 16)))
  else d

/-- Nothing of the chunk commits: what it holds until then is discarded (R285, R287). -/
def Dev.dropHeld (d : Dev) (c : Nat) : Dev :=
  let h := ((d.cq c).run.map (·.handle)).getD 0
  let d := d.abandonTrace c h
  let d := { d with
    lnk := { d.lnk with sends := d.lnk.sends.filter (fun j => !(j.core == c && j.handle == h && j.state == SendState.held)) }
    col := { d.col with jobs := d.col.jobs.filter (fun j => !(j.core == c && j.handle == h && !j.posted)) }
    solves := d.solves.filter (fun j => !(j.core == c && j.handle == h && !j.submitted)) }
  let d := d.modCq c (fun q => { q with
    pend := [], log := [], heldFlags := [], cpls := [], trace := [], flights := [], wait := .none })
  d.updateDemand c (d.siteOf.getD c 0xFF)

/-- A program fault: the core's err bit, the first fault shown, its record, and the chunk never commits (R275). -/
def Dev.programFault (d : Dev) (c site bit code thread pc : Nat) (detail : List (Nat × List Byte)) : Dev :=
  let tag := (d.cq c).nextTag
  let d := d.modCcr site (fun cc => { cc with
    err := cc.err.raise (BitVec.ofNat 9 (2 ^ bit))
    faultValid := true
    faultThread := if cc.faultValid then cc.faultThread else BitVec.ofNat 3 thread
    faultPc := if cc.faultValid then cc.faultPc else BitVec.ofNat 48 pc })
  let d := d.modCq c (fun q => { q with run := q.run.map (fun r => { r with progFault := true }) })
  d.writeRecord ((((d.mkRec 4 3 code (siteUnit site)).withTag tag (d.funcOf c)).withAddr pc).withDetail detail)

/-- The signature compare of a chunk that is otherwise ready: a first mismatch is a check fault, one on the spare a program
fault of kind SIG_PLAN (R272); a match answers true. -/
def Dev.compareSig (d : Dev) (x : Ctx) : Bool × Dev :=
  let cc := (d.site x.site).ccr
  let sig := cc.signature
  let d := d.modCcr x.site (fun cc => { cc with sig := sig })
  if sig = cc.sigExp then (true, d)
  else if x.rc.sigMiss = 0 then
    let d := d.modCcr x.site (fun cc => { cc with err := cc.err.raise 0x80, checkCnt := satInc cc.checkCnt })
    let d := d.modCq x.c (fun q => { q with run := q.run.map (fun r => { r with sigMiss := 1 }) })
    (false, d.siteFault x.site .check 3 ((d.site x.site).ccr.err.val.toNat) (d.cq x.c).nextTag)
  else
    let d := d.modCcr x.site (fun cc => { cc with err := cc.err.raise 0x80, checkCnt := satInc cc.checkCnt })
    (false, d.programFault x.c x.site 8 0x1105 0 (((d.site x.site).ccr.threads.getD 0 {}).pc.toNat) [])

/-! ### Retirement (R87) -/

/-- The site of a core that a plan gives up is held again. -/
def Dev.releaseSite (d : Dev) (c : Nat) : Dev :=
  let s := d.siteOf.getD c 0xFF
  let d := if s < 80 && (d.siteState s == .inService) then (d.setSiteState s .held).modLbk s (fun l => l.setDemand 0) else d
  { d with siteOf := d.siteOf.set c 0xFF, mapTs := d.now }

/-- The RECVs of a plan are given up; what a peer still sends for one of them is discarded (R330, R348). -/
def Dev.dropRecvs (d : Dev) (h : BitVec 16) : Dev :=
  let left := d.lnk.recvs.filterMap (fun (j : RecvJob) =>
    if j.handle == h && !j.arrived && j.got < j.match?.getD 0 then some (j.peer, j.channel, j.match?.getD 0 - j.got) else none)
  { d with lnk := { d.lnk with recvs := d.lnk.recvs.filter (fun j => j.handle != h), excess := d.lnk.excess ++ left } }

/-- The SENDs of a plan are given up, and those of others that waited behind them make their requests. -/
def Dev.dropSends (d : Dev) (h : BitVec 16) : Dev :=
  let d := { d with lnk := { d.lnk with sends := d.lnk.sends.filter (fun j => j.handle != h) } }
  (d.lnk.sends.filter (fun j => j.state == .ready)).foldl (fun (d : Dev) j => d.requestNext j.peer j.channel) d

/-- The sites that a tenancy's plan has run on are remembered for the tenancy's release (R409). -/
def Dev.noteSites (d : Dev) (p : Plan) : Dev :=
  let ran := (p.cores.map (fun c => d.siteOf.getD c 0xFF) ++ p.pastSites.flatten).filter (fun s => decide (s < 80))
  if p.func = 0 then d
  else { d with sec := { d.sec with tenancies := d.sec.tenancies.modify (p.func - 1) (fun o =>
    o.map (fun (t : Tenancy) => { t with sites := (ran.filter (fun s => !t.sites.contains s)).foldl insertNat t.sites })) } }

/-- A plan's cores and queues are released: every entry is discarded and the queues are reset; its jobs and posts are
cancelled, and the wipe of its private memory begins where WIPE_ON_RETIRE says so (R87, R101, R126, R291, R348). -/
def Dev.releasePlan (d : Dev) (p : Plan) : Dev :=
  let d := d.noteSites p
  let d := p.cores.foldl (fun (d : Dev) c => (d.releaseSite c).modCq c (fun _ => {})) d
  let d := (d.solves.filter (fun j => j.handle == p.handle)).foldl (fun (d : Dev) j => d.dropSolve j) d
  let d := (d.dropRecvs p.handle).dropSends p.handle
  let d := if d.sec.wipeOnRetire && !(stackParts p.img.layout.ranges).isEmpty then d.beginWipe .retire p.img.layout.ranges else d
  { d with
    col := { d.col with
      seqs := (d.col.jobs.filter (fun j => j.fresh && j.handle == p.handle)).foldl (fun t j => (nextPost t j.group).2) d.col.seqs
      jobs := d.col.jobs.filter (fun j => j.handle != p.handle) }
    deliveries := d.deliveries.filter (fun e => !p.cores.contains e.core)
    health := { d.health with
      recomputes := d.health.recomputes.filter (fun r => !p.cores.contains r.core)
      recoveries := d.health.recoveries.filter (fun r => !(r.cause == RecCause.inPlace && (match r.core with | some c => p.cores.contains c | none => false))) }
    plans := d.plans.map (fun q => if q.handle == p.handle then
      { q with state := .retired, retiring := none, resumeBeat := none, pauseAt := none, stopping := none, stopAfter := none, holdCause := 0 } else q) }

/-- The running chunk of a core of a retiring plan is discarded (R87). -/
def Dev.discardChunk (d : Dev) (p : Plan) (c : Nat) : Dev :=
  match (d.cq c).run with
  | none => d
  | some rc =>
    let d := d.dropHeld c
    let site := d.siteOf.getD c 0xFF
    let d := if site < 80 then d.modSite site (fun s => { s with
        qnt := { s.qnt with work := [] }
        ccr := { s.ccr with stores := [], streams := List.replicate 8 {}, threads := List.replicate 8 {} } }) else d
    (d.modCq c (fun q => { q with run := none })).modPlan p.handle (fun p => { p with
      chunkStates := p.chunkStates.set rc.idx .discarded })

/-- A retiring plan without a running chunk or test window is released, and its request answered (R87). -/
def Dev.settleRetire (d : Dev) (h : BitVec 16) : Dev :=
  match d.plan? h with
  | none => d
  | some p =>
    if p.retiring.isNone || d.anyRun p then d
    else
      let d := d.releasePlan p
      let d := match d.reqs.find? (fun r => r.op == 0x0204 && r.place == .executing && BitVec.ofNat 16 (fieldLE (mPayload r.msg) 0 2) == h) with
        | none => d
        | some r => d.finishReq r sOk []
      d.settleHeld.settleReleases

/-- A plan begins to retire: the uncommitted chunks of cores that cannot go on, and of a paused or held plan, are discarded at once
(R87). -/
def Dev.beginRetire (d : Dev) (p : Plan) : Dev :=
  let held := p.state == .paused || p.state == .debugHeld
  let d := d.modPlan p.handle (fun p => { p with retiring := some d.bt.beat })
  let d := p.cores.foldl (fun (d : Dev) c => if held || d.stuck c then d.discardChunk p c else d) d
  d.settleRetire p.handle

/-- Every plan of a function begins to retire. -/
def Dev.retireAll (d : Dev) (func : Nat) : Dev :=
  (d.plans.filter (fun p => p.live && p.func == func && p.retiring.isNone)).foldl Dev.beginRetire d

/-- SCP asks BSP for the retirement of a function's plans: BSP begins it, or, while it restarts, finds the message in its ring
afterwards (R56, R57). -/
def Dev.askRetire (d : Dev) (func : Nat) : Dev :=
  if d.runs 1 then d.retireAll func
  else if d.plans.any (fun p => p.live && p.func == func && p.retiring.isNone) && !d.rings.any (fun r => r.dst == 1 && r.tenancy == func) then
    { d with rings := d.rings ++ [{ src := 3, dst := 1, tenancy := func }] }
  else d

/-- BSP takes the messages that wait in its rings (R56, R57). -/
def Dev.serveRings (d : Dev) : Dev :=
  let l := d.rings.filter (fun r => r.dst == 1)
  let d := { d with rings := d.rings.filter (fun (r : RingMsg) => r.dst != 1) }
  (l.foldl (fun (d : Dev) r => d.retireAll r.tenancy) d).settleReleases

/-- The release of a tenancy begins: its requests that wait are discarded and its plans retire (R99, R107, R409). -/
def Dev.beginRelease (d : Dev) (n : Nat) : Dev :=
  if !d.tenancyExists n then d
  else
    let d := if d.sec.releasing.contains n then d else { d with sec := { d.sec with releasing := d.sec.releasing ++ [n] } }
    ((d.discardReqs n).askRetire n).settleReleases

/-- The last beat on which a chunk of a retiring plan may commit has passed: the later of the retire and its release plus
WC_BEATS (R87). -/
def Dev.retireOver (d : Dev) (p : Plan) (rc : RunChunk) : Bool :=
  (match p.retiring with | some b => d.passed b | none => false) && d.passed (beatAdd rc.release (p.chunkEnt rc.idx).wc)

/-- RETIRE_CHUNK_DISCARD: a retiring plan's chunk that has not committed by its bound is discarded (R87). -/
def retireChunkDiscard (c : Fin 72) (d : Dev) : Dev :=
  match d.planOf c.val, (d.cq c.val).run with
  | some p, some rc =>
    if p.retiring.isSome && (d.retireOver p rc || d.stuck c.val) then
      (d.discardChunk p c.val).settleRetire p.handle
    else d
  | _, _ => d

/-- The commit of a chunk whose conditions hold, in the order of its effects (R140 to R142, R198, R264, R285 to R289, R293,
R329, R337, R390). -/
def Dev.commit (d : Dev) (x : Ctx) : Dev :=
  let h := x.p.handle
  let d := Dev.missAll h x.p.nSteps d
  let recs := (d.site x.site).qnt.work.map (fun e => ((d.site x.site).qnt.histBase.toNat + 512 * e.1, 512))
  let d := (d.commitPend x.c).commitRecords x.site
  let d := (d.cq x.c).log.foldl (fun (d : Dev) e => d.commitAtom x.p x.c x.site e) d
  let d := d.noteExports x.p x.c recs
  let d := { d with deliveries := d.deliveries ++ (d.cq x.c).heldFlags }
  let d := d.postSends x.p x.c
  let d := d.postColls x.p x.c
  let d := d.submitSolves x.p x.c
  let d := d.modCq x.c (fun q => (queueOrder x.chunk.firstCmd q.cpls).foldl Cq.writeCpl q)
  let d := d.stageAll h x.p.func (d.cq x.c).trace
  let d := d.streamsLeft x.site
  let d := d.recomputeDone x.c x.rc.idx
  let d := { d with lnk := { d.lnk with recvs := d.lnk.recvs.filter (fun j =>
    !(j.core == x.c && j.handle == h && decide (x.chunk.firstCmd ≤ j.idx) && decide (j.idx < x.chunk.firstCmd + x.chunk.cmds))) } }
  let d := d.modCq x.c (fun q => { q with
    run := none, cpls := [], pend := [], log := [], heldFlags := [], trace := [] })
  let d := d.freeTo x.c (x.chunk.firstCmd + x.chunk.cmds)
  let d := d.modCcr x.site (fun cc => { cc with threads := cc.threads.map (fun t => { t with started := false }) })
  let d := d.modPlan h (fun p => { p with chunkStates := p.chunkStates.set x.rc.idx (.committed d.bt.beat) })
  (((d.settleResets h).sendDue h).settlePlan h).settleRetire h

/-- CHUNK_COMMIT: the running chunk of a core commits once R255 holds and its signature matches; a retiring plan's chunk only
within its bound (R87). -/
def chunkCommit (c : Fin 72) (d : Dev) : Dev :=
  match d.ctx? c.val with
  | none => d
  | some x =>
    if !d.chunkReady x || (x.p.retiring.isSome && (d.retireOver x.p x.rc || d.stuck c.val)) then d
    else
      match d.compareSig x with
      | (false, d) => d
      | (true, d) => d.commit x

/-- FLAG_DELIVERY: the oldest event on its way reaches its flag; an EVSEND to a flag already set is recorded (R141, R264,
R265, R338). -/
def flagDelivery (d : Dev) : Dev :=
  match d.deliveries with
  | [] => d
  | e :: rest =>
    let d := { d with deliveries := rest }
    let site := d.siteOf.getD e.core 0xFF
    let d := d.modCq e.core (fun q => { q with run := q.run.map (fun r =>
      { r with flagCopy := r.flagCopy ||| BitVec.ofNat 64 (2 ^ e.flag), deadlock := 0 }) })
    if site < 80 then
      let d := if e.isEvsend && d.flagSet site e.flag then d.eventTwice e.tag e.unit e.flag e.target else d
      d.setFlag site e.flag
    else d

/-! ### Commands -/

/-- PLAN_START (R116). -/
def execPlanStart (h : BitVec 16) (st : State) : Out State := run (planStart h) st
/-- CHUNK_RELEASE (R254). -/
def execChunkRelease (c : Fin 72) (st : State) : Out State := run (chunkRelease c) st
/-- CHUNK_COMMIT (R255). -/
def execChunkCommit (c : Fin 72) (st : State) : Out State := run (chunkCommit c) st
/-- FLAG_DELIVERY (R141). -/
def execFlagDelivery (s : State) : Out State := run flagDelivery s
/-- PROMISE_DEADLINE (R117). -/
def execPromiseDeadline (h : BitVec 16) (st : State) : Out State := run (promiseDeadline h) st
/-- RESUME_BEAT_REACHED (R120). -/
def execResumeBeatReached (h : BitVec 16) (st : State) : Out State := run (resumeBeatReached h) st
/-- RETIRE_CHUNK_DISCARD (R87). -/
def execRetireChunkDiscard (c : Fin 72) (st : State) : Out State := run (retireChunkDiscard c) st
/-- SWITCH_BEAT (R245). -/
def execSwitchBeat (h : BitVec 16) (st : State) : Out State := run (switchBeat h) st
/-- PAUSE_BEAT_REACHED (R87). -/
def execPauseBeatReached (h : BitVec 16) (st : State) : Out State := run (pauseBeatReached h) st

end Sys2Proof.Machine
end

