-- ==== Sys2Proof/Machine/Ccr.lean ====
section
/-! DEFINITION. The control core (file 13): its instructions, its store buffer, flags, address streams, signature words and
program faults. -/

namespace Sys2Proof.Machine

/-! ### Encodings (R256) -/

/-- Bits `hi` down to `lo` of an instruction word. -/
def insBits (w : BitVec 32) (hi lo : Nat) : Nat := bitsOf w.toNat hi lo
def insOp (w : BitVec 32) : Nat := insBits w 31 26
/-- Field [25:21]: rd, or rs2 in format S. -/
def insRd (w : BitVec 32) : Nat := insBits w 25 21
/-- Field [20:16]: rs1. -/
def insRs1 (w : BitVec 32) : Nat := insBits w 20 16
/-- Fields [15:11], [10:6] and [5:0] of format A. -/
def insRs2 (w : BitVec 32) : Nat := insBits w 15 11
def insRs3 (w : BitVec 32) : Nat := insBits w 10 6
def insFn (w : BitVec 32) : Nat := insBits w 5 0
/-- imm16, and the same sign-extended and zero-extended. -/
def insImm (w : BitVec 32) : BitVec 16 := w.extractLsb' 0 16
def insSimm (w : BitVec 32) : BitVec 64 := (insImm w).signExtend 64
def insZimm (w : BitVec 32) : BitVec 64 := (insImm w).setWidth 64

/-- An encoding that R256 lists, its unused fields 0. -/
def insLegal (w : BitVec 32) : Bool :=
  let op := insOp w
  let imm := (insImm w).toNat
  if op = 0x01 then
    let fn := insFn w
    decide (fn < 20) && (fn = 14 || insRs3 w = 0) && (!(fn = 15 || fn = 16 || fn = 19) || insRs2 w = 0)
  else if 0x02 ≤ op && op ≤ 0x06 then true
  else if op = 0x07 then decide (imm < 0x100) && bitsOf imm 7 6 != 3
  else if op = 0x08 then insBits w 20 18 = 0
  else if (0x10 ≤ op && op ≤ 0x16) || (0x18 ≤ op && op ≤ 0x1B) || (0x20 ≤ op && op ≤ 0x25) || op = 0x28 || op = 0x29 then true
  else if op = 0x30 then insRd w = 0
  else if 0x31 ≤ op && op ≤ 0x33 then insRd w = 0 && insRs1 w = 0 && decide (imm < 64)
  else if op = 0x34 then insRd w = 0 && decide (imm < 64)
  else if op = 0x35 then insRs1 w = 0 && decide (imm < 8)
  else if 0x38 ≤ op && op ≤ 0x3B then insBits w 25 0 = 0
  else false

/-! ### The thread and its next instruction -/

/-- What an instruction sees: the machine, the chunk's context, the thread's number and state, its text base and the
instruction. -/
structure CcrCx where
  d : Dev
  x : Ctx
  t : Nat
  th : Thread
  base : Nat
  w : BitVec 32

/-- A register read; s0 reads 0. -/
def Thread.reg (th : Thread) (r : Nat) : BitVec 64 := if r = 0 then 0 else th.regs.getD r 0
/-- A register written; s0 ignores writes. -/
def Thread.setReg (th : Thread) (r : Nat) (v : BitVec 64) : Thread := if r = 0 then th else { th with regs := th.regs.set r v }

/-- The instruction at a thread's PC: main text from committed scratch, the patch window from the thread's own view (R253,
R263); none where the PC is no multiple of 4 or lies outside the text region (R275). -/
def Dev.insAt (d : Dev) (base : Nat) (th : Thread) : Option (BitVec 32) :=
  let off := th.pc.toNat - base
  if th.pc.toNat < base || 0x10000 ≤ off || off % 4 != 0 then none
  else if off < 0xF000 then some (BitVec.ofNat 32 (leNat (memBytes d.mem.bytes (base + off) 4)))
  else some (BitVec.ofNat 32 (fieldLE th.view (off - 0xF000) 4))

/-- A started thread of the chunk that a core runs, with its instruction, while it has neither halted nor stopped. -/
def Dev.ccrCx? (d : Dev) (c t : Nat) : Option (Ctx × Thread × Nat × Option (BitVec 32)) :=
  match d.ctx? c with
  | none => none
  | some x =>
    let th := (d.site x.site).ccr.threads.getD t {}
    let base := (d.site x.site).ccr.textBase.toNat
    if th.started && th.state == .running then some (x, th, base, d.insAt base th) else none

def CcrCx.rd (k : CcrCx) : BitVec 64 := k.th.reg (insRd k.w)
def CcrCx.rs1 (k : CcrCx) : BitVec 64 := k.th.reg (insRs1 k.w)
def CcrCx.rs2 (k : CcrCx) : BitVec 64 := k.th.reg (insRs2 k.w)
def CcrCx.rs3 (k : CcrCx) : BitVec 64 := k.th.reg (insRs3 k.w)
def CcrCx.simm (k : CcrCx) : BitVec 64 := insSimm k.w
def CcrCx.zimm (k : CcrCx) : BitVec 64 := insZimm k.w
/-- rs1 + imm16. -/
def CcrCx.ea (k : CcrCx) : BitVec 64 := k.rs1 + k.simm
/-- An address of the core: one in the slot of a former site of the core is that of the present one (R29, R119; log entry 56). -/
def CcrCx.own (k : CcrCx) (a : BitVec 64) : BitVec 64 := BitVec.ofNat 64 (k.x.p.ownAddr k.x.core k.x.site a.toNat)
/-- The address that a load, a store or a PUSHA names. -/
def CcrCx.mem (k : CcrCx) : BitVec 64 := k.own k.ea
def CcrCx.pc4 (k : CcrCx) : BitVec 64 := k.th.pc + 4
def CcrCx.ccr (k : CcrCx) : Ccr := (k.d.site k.x.site).ccr
/-- The flag that imm16[5:0] names. -/
def CcrCx.flag (k : CcrCx) : Nat := (insImm k.w).toNat % 64

/-- What an instruction does. -/
inductive CcrRes where
  /-- It cannot act yet: nothing changes (a full store buffer, a partial overlap, a drain, a clear flag, a full stream). -/
  | block
  /-- It retires: the machine after its own effect, the register it writes with the value, the next PC, the words it folds
  after its own (R269). -/
  | retire (d : Dev) (rd : Nat) (v npc : BitVec 64) (folded : List (BitVec 64))
  /-- It retires and ends the thread for the chunk. -/
  | halt
  /-- A program fault: its bit of CCR_ERR and its CODE (R275). -/
  | fault (bit code : Nat)
  /-- It met a poisoned codeword at this address (R280). -/
  | poison (addr : Nat)

def ccrIllegal : CcrRes := .fault 0 0x1100
def ccrAddr : CcrRes := .fault 1 0x1101
def ccrProtWrite : CcrRes := .fault 2 0x1102
def ccrDesc : CcrRes := .fault 3 0x1103

/-- A register result: the next instruction follows. -/
def CcrCx.write (k : CcrCx) (v : BitVec 64) : CcrRes := .retire k.d (insRd k.w) v k.pc4 []
/-- No register result. -/
def CcrCx.plain (k : CcrCx) (d : Dev) (folded : List (BitVec 64)) : CcrRes := .retire d 0 0 k.pc4 folded
/-- A jump or branch that writes no register. -/
def CcrCx.branch (k : CcrCx) (taken : Bool) : CcrRes :=
  .retire k.d 0 0 (if taken then k.th.pc + 4 * k.simm else k.pc4) []

/-- An address as it is folded: one in the site's own scratch slot by its offset (R269). -/
def normAddr (site : Nat) (a : BitVec 64) : BitVec 64 :=
  if scratchBase site ≤ a.toNat && a.toNat < 0x1000000 + scratchBase site then
    0x8000000000000000 + (a - BitVec.ofNat 64 (scratchBase site))
  else a

/-- Words folded into a thread's CRC (R269). -/
def Thread.fold (th : Thread) (ws : List (BitVec 64)) : Thread := { th with crc := ws.foldl crc64Word th.crc }

/-- A thread of a site changed. -/
def Dev.modThread (d : Dev) (site t : Nat) (f : Thread → Thread) : Dev :=
  d.modCcr site (fun cc => { cc with threads := cc.threads.modify t f })

/-- A thread retires an instruction. -/
def CcrCx.retired (k : CcrCx) (d : Dev) (f : Thread → Thread) : Dev :=
  let word := (k.th.pc - BitVec.ofNat 64 k.base) <<< 32 ||| k.w.setWidth 64
  let d := d.modCcr k.x.site (fun cc => { cc with retired := satInc cc.retired })
  d.modThread k.x.site k.t (fun th => f ({ th with retired := th.retired + 1 }.fold [word]))

/-- A thread stops (R275, R280). -/
def Dev.stopThread (d : Dev) (site t : Nat) : Dev := d.modThread site t (fun th => { th with state := .stopped })

/-- A control-core access that met poison: the thread stops, the chunk does not commit, and the record of R280 is written. -/
def Dev.ccrPoison (d : Dev) (c site t a : Nat) : Dev :=
  let d := (d.countPoison a).stopThread site t
  let d := d.modCq c (fun q => { q with run := q.run.map (fun r => { r with progFault := true }) })
  d.writeRecord (((d.mkRec 4 2 0x0600 (siteUnit site)).withTag (d.cq c).nextTag (d.funcOf c)).withAddr a)

/-- A program fault of a thread: it stops (R275). -/
def Dev.threadFault (d : Dev) (c site t bit code pc : Nat) : Dev :=
  (d.stopThread site t).programFault c site bit code t pc []

/-- An instruction's outcome applied. -/
def CcrCx.settle (k : CcrCx) : CcrRes → Dev
  | .block => k.d
  | .retire d rd v npc folded => k.retired d (fun th => { (th.fold folded).setReg rd v with pc := npc })
  | .halt => k.retired k.d (fun th => { th.fold [th.retired] with state := .idle })
  | .fault bit code => k.d.threadFault k.x.c k.x.site k.t bit code k.th.pc.toNat
  | .poison a => k.d.ccrPoison k.x.c k.x.site k.t a

/-- A check fault of the control core (R273, R274). -/
def Dev.ccrCheckFault (d : Dev) (c site : Nat) (bits : BitVec 9) : Dev :=
  let d := d.modCcr site (fun cc => { cc with err := cc.err.raise bits, checkCnt := satInc cc.checkCnt })
  d.siteFault site .check 3 (d.site site).ccr.err.val.toNat (d.cq c).nextTag

/-- One instruction of opcode `op` of thread `t`: a PC or an encoding that is illegal is a program fault whichever instruction is
commanded; a thread whose next instruction is another one is left alone (R256, R273, R275). -/
def ccrStep (op : Nat) (sem : CcrCx → CcrRes) (c : Fin 72) (t : Fin 8) (chk : CcrCheck) (d : Dev) : Dev :=
  match d.ccrCx? c.val t.val with
  | none => d
  | some (x, th, _, none) => d.threadFault x.c x.site t.val 0 0x1100 th.pc.toNat
  | some (x, th, base, some w) =>
    if !insLegal w then d.threadFault x.c x.site t.val 0 0x1100 th.pc.toNat
    else if insOp w != op then d
    else
      match chk with
      | .regUe => d.ccrCheckFault x.c x.site 0
      | .residue => d.ccrCheckFault x.c x.site 0x40
      | .regCe =>
        let d := d.modCcr x.site (fun cc => { cc with regCe := satInc cc.regCe })
        let k : CcrCx := { d := d, x := x, t := t.val, th := th, base := base, w := w }
        k.settle (sem k)
      | .none =>
        let k : CcrCx := { d := d, x := x, t := t.val, th := th, base := base, w := w }
        k.settle (sem k)

/-! ### Register operations -/

/-- ALU by FN (R256, R257). -/
def ccrAlu (fn : Nat) (a b c : BitVec 64) : BitVec 64 :=
  match fn with
  | 0 => a + b
  | 1 => a - b
  | 2 => a &&& b
  | 3 => a ||| b
  | 4 => a ^^^ b
  | 5 => a <<< (b.toNat % 64)
  | 6 => a >>> (b.toNat % 64)
  | 7 => a.sshiftRight (b.toNat % 64)
  | 8 => a * b
  | 9 => BitVec.ofNat 64 (a.toNat * b.toNat / 2 ^ 64)
  | 10 => if a.slt b then 1 else 0
  | 11 => if a.ult b then 1 else 0
  | 12 => if b.slt a then b else a
  | 13 => if a.slt b then b else a
  | 14 => if c != 0 then a else b
  | 15 => BitVec.ofNat 64 (fp32.write (fp64.decode a.toNat)).1
  | 16 => BitVec.ofNat 64 (fp64.write (fp32.decode (a.toNat % 2 ^ 32))).1
  | 17 => BitVec.ofNat 64 (f64AddF a.toNat b.toNat).1
  | 18 => BitVec.ofNat 64 (f64MulF a.toNat b.toNat).1
  | _ => BitVec.ofNat 64 (fp64.round (Dy.ofInt a.toInt)).1

/-- SHIFTI by imm16[7:6] (R256). -/
def ccrShift (kind : Nat) (a : BitVec 64) (n : Nat) : BitVec 64 :=
  match kind with
  | 0 => a <<< n
  | 1 => a >>> n
  | _ => a.sshiftRight n

/-- ALU (R256, R257). -/
def alu : Fin 72 → Fin 8 → CcrCheck → Dev → Dev := ccrStep 0x01 (fun k => k.write (ccrAlu (insFn k.w) k.rs1 k.rs2 k.rs3))
/-- ADDI. -/
def addi : Fin 72 → Fin 8 → CcrCheck → Dev → Dev := ccrStep 0x02 (fun k => k.write (k.rs1 + k.simm))
/-- ANDI, ORI, XORI: imm16 zero-extended. -/
def andi : Fin 72 → Fin 8 → CcrCheck → Dev → Dev := ccrStep 0x03 (fun k => k.write (k.rs1 &&& k.zimm))
def ori : Fin 72 → Fin 8 → CcrCheck → Dev → Dev := ccrStep 0x04 (fun k => k.write (k.rs1 ||| k.zimm))
def xori : Fin 72 → Fin 8 → CcrCheck → Dev → Dev := ccrStep 0x05 (fun k => k.write (k.rs1 ^^^ k.zimm))
/-- SLTI: signed compare. -/
def slti : Fin 72 → Fin 8 → CcrCheck → Dev → Dev := ccrStep 0x06 (fun k => k.write (if k.rs1.slt k.simm then 1 else 0))
/-- SHIFTI: imm16[7:6] names the shift, imm16[5:0] the amount. -/
def shifti : Fin 72 → Fin 8 → CcrCheck → Dev → Dev :=
  ccrStep 0x07 (fun k => k.write (ccrShift (bitsOf (insImm k.w).toNat 7 6) k.rs1 ((insImm k.w).toNat % 64)))

/-- rd with the 16 bits from 16 k on replaced (INSH). -/
def insertHalf (v : BitVec 64) (n : Nat) (h : BitVec 16) : BitVec 64 :=
  (v &&& ~~~((0xFFFF : BitVec 64) <<< (16 * n))) ||| (h.setWidth 64 <<< (16 * n))

/-- INSH. -/
def insh : Fin 72 → Fin 8 → CcrCheck → Dev → Dev :=
  ccrStep 0x08 (fun k => k.write (insertHalf k.rd (insBits k.w 17 16) (insImm k.w)))

/-! ### Loads and stores (R260 to R262) -/

/-- The youngest store of a thread that overlaps `[a, a + n)` (R262); `stores` is oldest first. -/
def youngestStore (stores : List StoreEnt) (t a n : Nat) : Option StoreEnt :=
  (stores.filter (fun e => e.thread == t && meets a n e.addr e.data.length)).getLast?

/-- The thread has a store in the buffer. -/
def CcrCx.undrained (k : CcrCx) : Bool := k.ccr.stores.any (fun e => e.thread == k.t)

/-- An address that a load of `n` bytes may use: aligned to `al`, within 48 bits and readable (R260, R266). -/
def CcrCx.loadOk (k : CcrCx) (n al : Nat) : Bool :=
  decide (k.mem.toNat < 2 ^ 48) && k.mem.toNat % al == 0 && k.d.canRead k.x.p k.x.site k.mem.toNat n

/-- A load of `n` bytes: forwarded from the thread's youngest overlapping store, blocked by a partial one, else from memory;
a poisoned codeword stops the thread, and a wipe of the bytes holds it (R262, R278, R280, R290). -/
def CcrCx.load (k : CcrCx) (n : Nat) (signed : Bool) : CcrRes :=
  let a := k.mem.toNat
  let put := fun (d : Dev) (bs : List Byte) =>
    let v := if signed then (BitVec.ofNat (8 * n) (leNat bs)).signExtend 64 else BitVec.ofNat 64 (leNat bs)
    CcrRes.retire d (insRd k.w) v k.pc4 [normAddr k.x.site k.mem]
  if !k.loadOk n n then ccrAddr
  else
    match youngestStore k.ccr.stores k.t a n with
    | some e => if inside a n e.addr e.data.length then put k.d ((e.data.drop (a - e.addr)).take n) else .block
    | none =>
      if k.d.wipeHolds a n then .block
      else
        match readPoison k.d.mem (k.d.cq k.x.c).pend a n with
        | some w => .poison (64 * w)
        | none => put (k.d.readLines k.x.c a n) (k.d.view k.x.c a n)

/-- LD, LW, LWU, LH, LHU, LB, LBU (R256, R262). -/
def ld : Fin 72 → Fin 8 → CcrCheck → Dev → Dev := ccrStep 0x10 (fun k => k.load 8 false)
def lw : Fin 72 → Fin 8 → CcrCheck → Dev → Dev := ccrStep 0x11 (fun k => k.load 4 true)
def lwu : Fin 72 → Fin 8 → CcrCheck → Dev → Dev := ccrStep 0x12 (fun k => k.load 4 false)
def lh : Fin 72 → Fin 8 → CcrCheck → Dev → Dev := ccrStep 0x13 (fun k => k.load 2 true)
def lhu : Fin 72 → Fin 8 → CcrCheck → Dev → Dev := ccrStep 0x14 (fun k => k.load 2 false)
def lb : Fin 72 → Fin 8 → CcrCheck → Dev → Dev := ccrStep 0x15 (fun k => k.load 1 true)
def lbu : Fin 72 → Fin 8 → CcrCheck → Dev → Dev := ccrStep 0x16 (fun k => k.load 1 false)

/-- An address that a load may read and no store may write: a shared region, a history region, the main text, a DSC control
window (R260). -/
def CcrCx.protected (k : CcrCx) (a n : Nat) : Bool :=
  k.d.canRead k.x.p k.x.site a n &&
  (!inside a n (scratchBase k.x.site) 0x1000000 || k.x.p.inText k.x.core k.x.site a n)

/-- The pending bytes as they stand once the buffered stores have drained. -/
def drained (pend : List Host.Cell) (stores : List StoreEnt) : List Host.Cell :=
  stores.foldl (fun p e => cellSetAll p e.addr e.data) pend

/-- A store of `n` bytes: through the store buffer of 8 entries (R260, R261). -/
def CcrCx.store (k : CcrCx) (n : Nat) : CcrRes :=
  let a := k.mem.toNat
  let bs := bytesLE n k.rd.toNat
  if 2 ^ 48 ≤ a || a % n != 0 then ccrAddr
  else if !k.d.canWrite k.x.p k.x.core k.x.site a n then (if k.protected a n then ccrProtWrite else ccrAddr)
  else if !pendOk (cellSetAll (drained (k.d.cq k.x.c).pend k.ccr.stores) a bs) then ccrAddr
  else if 8 ≤ k.ccr.stores.length then .block
  else
    let ent : StoreEnt := { addr := a, data := bs, thread := k.t, pc := k.th.pc.toNat }
    k.plain (k.d.modCcr k.x.site (fun cc => { cc with stores := cc.stores ++ [ent] })) [normAddr k.x.site k.mem]

/-- SD, SW, SH, SB (R256, R261). -/
def sd : Fin 72 → Fin 8 → CcrCheck → Dev → Dev := ccrStep 0x18 (fun k => k.store 8)
def sw : Fin 72 → Fin 8 → CcrCheck → Dev → Dev := ccrStep 0x19 (fun k => k.store 4)
def sh : Fin 72 → Fin 8 → CcrCheck → Dev → Dev := ccrStep 0x1A (fun k => k.store 2)
def sb : Fin 72 → Fin 8 → CcrCheck → Dev → Dev := ccrStep 0x1B (fun k => k.store 1)

/-- STORE_BUFFER_DRAIN: the oldest entry of a core's buffer becomes pending; a partial store to a poisoned codeword stops its
thread, one that would pass the line limits is a fault of kind ADDR, and one whose line needs a 13th pending way waits, as does one that a
wipe holds (R260, R261, R280, R285, R290). -/
def storeBufferDrain (c : Fin 72) (d : Dev) : Dev :=
  match d.ctx? c.val with
  | none => d
  | some x =>
    match (d.site x.site).ccr.stores with
    | [] => d
    | e :: rest =>
      if d.wipeHolds e.addr e.data.length then d
      else if !d.waysFree c.val e.addr e.data.length then d.waitWay e.addr
      else
      let d := d.modCcr x.site (fun cc => { cc with stores := rest })
      let pend := (d.cq c.val).pend
      match writePoison d.mem pend e.addr e.data.length with
      | some w => d.ccrPoison c.val x.site e.thread (64 * w)
      | none =>
        let pend' := cellSetAll pend e.addr e.data
        if pendOk pend' then (d.writeLines c.val e.addr e.data.length).modCq c.val (fun q => { q with pend := pend' })
        else d.threadFault c.val x.site e.thread 1 0x1101 e.pc

/-! ### Branches and jumps -/

/-- BEQ, BNE, BLT, BGE, BLTU, BGEU: rs1 against the second operand of format S (R256). -/
def beq : Fin 72 → Fin 8 → CcrCheck → Dev → Dev := ccrStep 0x20 (fun k => k.branch (k.rs1 == k.rd))
def bne : Fin 72 → Fin 8 → CcrCheck → Dev → Dev := ccrStep 0x21 (fun k => k.branch (k.rs1 != k.rd))
def blt : Fin 72 → Fin 8 → CcrCheck → Dev → Dev := ccrStep 0x22 (fun k => k.branch (k.rs1.slt k.rd))
def bge : Fin 72 → Fin 8 → CcrCheck → Dev → Dev := ccrStep 0x23 (fun k => k.branch (!k.rs1.slt k.rd))
def bltu : Fin 72 → Fin 8 → CcrCheck → Dev → Dev := ccrStep 0x24 (fun k => k.branch (k.rs1.ult k.rd))
def bgeu : Fin 72 → Fin 8 → CcrCheck → Dev → Dev := ccrStep 0x25 (fun k => k.branch (!k.rs1.ult k.rd))
/-- JAL: off26 counts in instructions; the return address goes to s31. -/
def jal : Fin 72 → Fin 8 → CcrCheck → Dev → Dev :=
  ccrStep 0x28 (fun k => .retire k.d 31 k.pc4 (k.th.pc + 4 * (k.w.extractLsb' 0 26).signExtend 64) [])
/-- JR: rs1 is read before rd is written. -/
def jr : Fin 72 → Fin 8 → CcrCheck → Dev → Dev :=
  ccrStep 0x29 (fun k => .retire k.d (insRd k.w) k.pc4 k.ea [])

/-! ### Address streams (R266) -/

/-- A descriptor read from its 128 bytes; none where it fails R266. -/
def parseDesc (bs : List Byte) : Option Desc :=
  let k := fieldLE bs 104 1
  let base := (List.range 6).map (fun i => BitVec.ofNat 64 (fieldLE bs (8 * i) 8))
  if zeroes bs 105 23 && 1 ≤ k && k ≤ 6 && (base.take k).all (fun b => decide (b.toNat < 2 ^ 48)) then
    some { base := base
           strideIn := (List.range 6).map (fun i => BitVec.ofNat 32 (fieldLE bs (48 + 4 * i) 4))
           strideOut := (List.range 6).map (fun i => BitVec.ofNat 32 (fieldLE bs (72 + 4 * i) 4))
           nIn := fieldLE bs 96 4, nOut := fieldLE bs 100 4, k := k }
  else none

/-- The 16 words of a descriptor as they are folded (R269). -/
def CcrCx.descWords (k : CcrCx) (bs : List Byte) : List (BitVec 64) :=
  (List.range 16).map (fun i =>
    let w := BitVec.ofNat 64 (fieldLE bs (8 * i) 8)
    if i < 6 then normAddr k.x.site (k.own w) else w)

/-- The descriptors a stream holds, those that yield nothing dropped from its front. -/
def AStream.held (a : AStream) : Nat := (dropEmpty a.queue).length

/-- PUSHA: never forwards; waits for an overlapping own store and while the stream holds 4 descriptors (R266). -/
def CcrCx.pusha (k : CcrCx) : CcrRes :=
  let a := k.mem.toNat
  let st := k.ccr.streams.getD k.t {}
  if !k.loadOk 128 8 then ccrAddr
  else if (youngestStore k.ccr.stores k.t a 128).isSome || 4 ≤ st.held || k.d.wipeHolds a 128 then .block
  else
    match readPoison k.d.mem (k.d.cq k.x.c).pend a 128 with
    | some w => .poison (64 * w)
    | none =>
      let bs := k.d.view k.x.c a 128
      match parseDesc bs with
      | none => ccrDesc
      | some s =>
        k.plain ((k.d.readLines k.x.c a 128).modCcr k.x.site (fun cc => { cc with
          streams := cc.streams.set k.t { st with queue := dropEmpty st.queue ++ [s] } })) (k.descWords bs)

/-- PUSHA. -/
def pusha : Fin 72 → Fin 8 → CcrCheck → Dev → Dev := ccrStep 0x30 CcrCx.pusha

/-! ### Flags (R264) -/

/-- SETF: after the thread's stores have drained; a flag set restarts the count of R268. -/
def CcrCx.setFlag (k : CcrCx) (folded : List (BitVec 64)) : CcrRes :=
  if k.undrained then .block else k.plain ((k.d.setFlag k.x.site k.flag).restartDeadlock k.x.c) folded

/-- SETF, CLRF. -/
def setf : Fin 72 → Fin 8 → CcrCheck → Dev → Dev := ccrStep 0x31 (fun k => k.setFlag [])
def clrf : Fin 72 → Fin 8 → CcrCheck → Dev → Dev := ccrStep 0x32 (fun k => k.plain (k.d.clearFlag k.x.site k.flag) [])

/-- A thread of a core is blocked on, or about to take, flag `f` by WAITF. -/
def Dev.waitsOn (d : Dev) (c t f : Nat) : Bool :=
  match d.ccrCx? c t with
  | some (_, _, _, some w) => insLegal w && insOp w == 0x33 && (insImm w).toNat == f
  | _ => false

/-- WAITF: blocks until the flag is set, then clears it; the queue's EVWAIT and lower threads on the same flag come first
(R264). -/
def waitf : Fin 72 → Fin 8 → CcrCheck → Dev → Dev :=
  ccrStep 0x33 (fun k =>
    if !k.d.flagUp k.x.site k.flag || k.d.evwaitOn k.x.c k.flag ||
        (List.range k.t).any (fun u => k.d.waitsOn k.x.c u k.flag) then .block
    else k.plain (k.d.clearFlag k.x.site k.flag) [])

/-- SENDF: to the own core as SETF, to another core of the plan held until the commit, to any other illegal (R264). -/
def sendf : Fin 72 → Fin 8 → CcrCheck → Dev → Dev :=
  ccrStep 0x34 (fun k =>
    let n := k.rs1.toNat
    if k.x.p.img.nCores ≤ n then ccrIllegal
    else if n = k.x.core then k.setFlag [k.rs1]
    else if k.undrained then .block
    else
      let h : HeldFlag := { core := k.x.p.devCore n, flag := k.flag, tag := (k.d.cq k.x.c).nextTag, target := n, unit := siteUnit k.x.site }
      k.plain (k.d.modCq k.x.c (fun q => { q with heldFlags := q.heldFlags ++ [h] })) [k.rs1])

/-! ### Context and draining -/

/-- BT_KEY.COORD: 0x7FFF while no coordinate is assigned (02, BT registers). -/
def Dev.keyCoord (d : Dev) : BitVec 15 := if d.coord.toNat % 4096 = 0xFFF then 0x7FFF else d.coord

/-- A context value (R258). -/
def CcrCx.context (k : CcrCx) (i : Nat) : BitVec 64 :=
  match i with
  | 0 => BitVec.ofNat 64 k.t
  | 1 => BitVec.ofNat 64 k.x.core
  | 2 => BitVec.ofNat 64 k.x.chunk.step
  | 3 => BitVec.ofNat 64 k.x.rc.idx
  | 4 => k.x.p.img.seed
  | 5 => k.d.keyCoord.setWidth 64
  | 6 => BitVec.ofNat 64 (scratchBase k.x.site)
  | _ => BitVec.ofNat 64 k.base

/-- GETC. -/
def getc : Fin 72 → Fin 8 → CcrCheck → Dev → Dev := ccrStep 0x35 (fun k => k.write (k.context (insImm k.w).toNat))
/-- SYNC. -/
def sync : Fin 72 → Fin 8 → CcrCheck → Dev → Dev := ccrStep 0x38 (fun k => if k.undrained then .block else k.plain k.d [])
/-- PSYNC: the thread's view of the patch window becomes its present content (R263). -/
def psync : Fin 72 → Fin 8 → CcrCheck → Dev → Dev :=
  ccrStep 0x39 (fun k =>
    if k.undrained then .block
    else
      let win := k.d.view k.x.c (k.base + 0xF000) 4096
      k.plain (k.d.modThread k.x.site k.t (fun th => { th with view := win })) [])
/-- HALT. -/
def halt : Fin 72 → Fin 8 → CcrCheck → Dev → Dev := ccrStep 0x3A (fun k => if k.undrained then .block else .halt)
/-- NOP of the control core. -/
def ccrNop : Fin 72 → Fin 8 → CcrCheck → Dev → Dev := ccrStep 0x3B (fun k => k.plain k.d [])

/-! ### Deadlock (R268) -/

/-- A running thread is waiting: blocked in WAITF on a clear flag, or in PUSHA on a full stream. -/
def Dev.threadWaits (d : Dev) (c t : Nat) : Bool :=
  match d.ccrCx? c t with
  | some (x, _, _, some w) =>
    insLegal w && ((insOp w == 0x33 && !d.flagSet x.site (insImm w).toNat) ||
      (insOp w == 0x30 && decide (4 ≤ ((d.site x.site).ccr.streams.getD t {}).held)))
  | _ => false

/-- THREAD_STATE of a thread of a site (CCR_STATUS). -/
def Dev.threadCode (d : Dev) (site t : Nat) : Nat :=
  match ((d.site site).ccr.threads.getD t {}).state with
  | .idle => 0
  | .stopped => 3
  | .running => match d.coreOf site with
    | some c => if d.threadWaits c t then 2 else 1
    | none => 1

/-- The conditions of R268 hold on a core: threads started and not halted, all of them waiting; no command in a unit; and the
queue's next command absent or an EVWAIT on a clear flag. -/
def Dev.deadlocked (d : Dev) (c : Nat) : Bool :=
  match d.ctx? c with
  | none => false
  | some x =>
    let ths := (d.site x.site).ccr.threads.zipIdx.filter (fun y => y.1.started && y.1.state != ThreadState.idle)
    let q := d.cq c
    let nextOk :=
      match q.fetched with
      | [] => q.regs.tail == q.regs.head
      | f :: _ => decide (x.chunk.firstCmd + x.chunk.cmds ≤ f.idx) ||
          (cmdOp f.bytes == opEvwait && !d.flagSet x.site (fld f.bytes 8 1))
    !ths.isEmpty && ths.all (fun y => d.threadWaits c y.2) && q.flights.isEmpty && q.wait == .none && nextOk &&
    !x.rc.progFault && x.p.state != PlanState.debugHeld

/-- CCR_DEADLOCK: the conditions have held for 64 beats (R268). -/
def ccrDeadlock (c : Fin 72) (d : Dev) : Dev :=
  match d.ctx? c.val with
  | none => d
  | some x =>
    if d.deadlocked c.val && 64 ≤ x.rc.deadlock then
      let cc := (d.site x.site).ccr
      let t0 := cc.threads.getD 0 {}
      d.programFault c.val x.site 4 0x1104 0 (if t0.started then t0.pc.toNat else 0)
        (cc.streams.zipIdx.map (fun a => (32 + 4 * a.2, bytesLE 4 a.1.lastTag.toNat)))
    else d

/-! ### Commands -/

/-- ALU (R256). -/
def execAlu (c : Fin 72) (t : Fin 8) (chk : CcrCheck) (st : State) : Out State := run (alu c t chk) st
/-- ADDI (R256). -/
def execAddi (c : Fin 72) (t : Fin 8) (chk : CcrCheck) (st : State) : Out State := run (addi c t chk) st
/-- ANDI (R256). -/
def execAndi (c : Fin 72) (t : Fin 8) (chk : CcrCheck) (st : State) : Out State := run (andi c t chk) st
/-- ORI (R256). -/
def execOri (c : Fin 72) (t : Fin 8) (chk : CcrCheck) (st : State) : Out State := run (ori c t chk) st
/-- XORI (R256). -/
def execXori (c : Fin 72) (t : Fin 8) (chk : CcrCheck) (st : State) : Out State := run (xori c t chk) st
/-- SLTI (R256). -/
def execSlti (c : Fin 72) (t : Fin 8) (chk : CcrCheck) (st : State) : Out State := run (slti c t chk) st
/-- SHIFTI (R256). -/
def execShifti (c : Fin 72) (t : Fin 8) (chk : CcrCheck) (st : State) : Out State := run (shifti c t chk) st
/-- INSH (R256). -/
def execInsh (c : Fin 72) (t : Fin 8) (chk : CcrCheck) (st : State) : Out State := run (insh c t chk) st
/-- LD (R262). -/
def execLd (c : Fin 72) (t : Fin 8) (chk : CcrCheck) (st : State) : Out State := run (ld c t chk) st
/-- LW (R262). -/
def execLw (c : Fin 72) (t : Fin 8) (chk : CcrCheck) (st : State) : Out State := run (lw c t chk) st
/-- LWU (R262). -/
def execLwu (c : Fin 72) (t : Fin 8) (chk : CcrCheck) (st : State) : Out State := run (lwu c t chk) st
/-- LH (R262). -/
def execLh (c : Fin 72) (t : Fin 8) (chk : CcrCheck) (st : State) : Out State := run (lh c t chk) st
/-- LHU (R262). -/
def execLhu (c : Fin 72) (t : Fin 8) (chk : CcrCheck) (st : State) : Out State := run (lhu c t chk) st
/-- LB (R262). -/
def execLb (c : Fin 72) (t : Fin 8) (chk : CcrCheck) (st : State) : Out State := run (lb c t chk) st
/-- LBU (R262). -/
def execLbu (c : Fin 72) (t : Fin 8) (chk : CcrCheck) (st : State) : Out State := run (lbu c t chk) st
/-- SD (R261). -/
def execSd (c : Fin 72) (t : Fin 8) (chk : CcrCheck) (st : State) : Out State := run (sd c t chk) st
/-- SW (R261). -/
def execSw (c : Fin 72) (t : Fin 8) (chk : CcrCheck) (st : State) : Out State := run (sw c t chk) st
/-- SH (R261). -/
def execSh (c : Fin 72) (t : Fin 8) (chk : CcrCheck) (st : State) : Out State := run (sh c t chk) st
/-- SB (R261). -/
def execSb (c : Fin 72) (t : Fin 8) (chk : CcrCheck) (st : State) : Out State := run (sb c t chk) st
/-- BEQ (R256). -/
def execBeq (c : Fin 72) (t : Fin 8) (chk : CcrCheck) (st : State) : Out State := run (beq c t chk) st
/-- BNE (R256). -/
def execBne (c : Fin 72) (t : Fin 8) (chk : CcrCheck) (st : State) : Out State := run (bne c t chk) st
/-- BLT (R256). -/
def execBlt (c : Fin 72) (t : Fin 8) (chk : CcrCheck) (st : State) : Out State := run (blt c t chk) st
/-- BGE (R256). -/
def execBge (c : Fin 72) (t : Fin 8) (chk : CcrCheck) (st : State) : Out State := run (bge c t chk) st
/-- BLTU (R256). -/
def execBltu (c : Fin 72) (t : Fin 8) (chk : CcrCheck) (st : State) : Out State := run (bltu c t chk) st
/-- BGEU (R256). -/
def execBgeu (c : Fin 72) (t : Fin 8) (chk : CcrCheck) (st : State) : Out State := run (bgeu c t chk) st
/-- JAL (R256). -/
def execJal (c : Fin 72) (t : Fin 8) (chk : CcrCheck) (st : State) : Out State := run (jal c t chk) st
/-- JR (R256). -/
def execJr (c : Fin 72) (t : Fin 8) (chk : CcrCheck) (st : State) : Out State := run (jr c t chk) st
/-- PUSHA (R266). -/
def execPusha (c : Fin 72) (t : Fin 8) (chk : CcrCheck) (st : State) : Out State := run (pusha c t chk) st
/-- SETF (R264). -/
def execSetf (c : Fin 72) (t : Fin 8) (chk : CcrCheck) (st : State) : Out State := run (setf c t chk) st
/-- CLRF (R264). -/
def execClrf (c : Fin 72) (t : Fin 8) (chk : CcrCheck) (st : State) : Out State := run (clrf c t chk) st
/-- WAITF (R264). -/
def execWaitf (c : Fin 72) (t : Fin 8) (chk : CcrCheck) (st : State) : Out State := run (waitf c t chk) st
/-- SENDF (R264). -/
def execSendf (c : Fin 72) (t : Fin 8) (chk : CcrCheck) (st : State) : Out State := run (sendf c t chk) st
/-- GETC (R258). -/
def execGetc (c : Fin 72) (t : Fin 8) (chk : CcrCheck) (st : State) : Out State := run (getc c t chk) st
/-- SYNC (R256). -/
def execSync (c : Fin 72) (t : Fin 8) (chk : CcrCheck) (st : State) : Out State := run (sync c t chk) st
/-- PSYNC (R263). -/
def execPsync (c : Fin 72) (t : Fin 8) (chk : CcrCheck) (st : State) : Out State := run (psync c t chk) st
/-- HALT (R256). -/
def execHalt (c : Fin 72) (t : Fin 8) (chk : CcrCheck) (st : State) : Out State := run (halt c t chk) st
/-- CCR_NOP (R256). -/
def execCcrNop (c : Fin 72) (t : Fin 8) (chk : CcrCheck) (st : State) : Out State := run (ccrNop c t chk) st
/-- STORE_BUFFER_DRAIN (R261). -/
def execStoreBufferDrain (c : Fin 72) (st : State) : Out State := run (storeBufferDrain c) st
/-- CCR_DEADLOCK (R268). -/
def execCcrDeadlock (c : Fin 72) (st : State) : Out State := run (ccrDeadlock c) st

end Sys2Proof.Machine
end

