-- ==== Sys2Proof/Machine/Stream.lean ====
section
/-! DEFINITION. The stream port (file 18): frames and their filters, records and their fragments, slots, loads and reads, the
divert queue, and outbound records. -/

namespace Sys2Proof.Machine

/-! ### Receive buffer and pauses (R352) -/

/-- Bytes in a port's receive buffer. -/
def StmPort.fill (p : StmPort) : Nat := (p.buf.map (fun e => e.data.length)).sum

def mib : Nat := 1024 * 1024

/-- PFC frames that the fill of a port calls for: a pause above 3 MiB, its release below 2 MiB (R352). -/
def Dev.settlePfc (d : Dev) (q : Nat) : Dev :=
  let p := d.stmPort q
  let put := fun (b : Bool) =>
    let d := d.modStmPort q (fun p => { p with pausing := b, txFrames := satInc p.txFrames })
    { d with stm := { d.stm with pfcSent := d.stm.pfcSent ++ [(q, d.stm.txPrio, b)] } }
  if !p.pausing && 3 * mib < p.fill then put true
  else if p.pausing && p.fill < 2 * mib then put false
  else d

/-- A frame dropped and counted (R349, R351, R352). -/
def Dev.dropFrame (d : Dev) (q : Nat) : Dev := d.modStmPort q (fun p => { p with rxDrop := satInc p.rxDrop })

/-! ### Frames (R349, R351) -/

/-- A frame read: destination, EtherType after any one tag, and what follows it. -/
structure EthFrame where
  dst : Nat
  etype : Nat
  body : List Byte
  deriving DecidableEq, Repr

/-- A frame of at most 2,000 bytes with a good FCS; none where it is bad (R349, R351). -/
def parseFrame (f : List Byte) : Option EthFrame :=
  let n := f.length
  let core := f.take (n - 4)
  if n < 18 || 2000 < n || leNat (f.drop (n - 4)) != (crc32 core).toNat then none
  else
    let tagged := beNat ((core.drop 12).take 2) == 0x8100
    let o := if tagged then 16 else 12
    some { dst := beNat (core.take 6), etype := beNat ((core.drop o).take 2), body := core.drop (o + 2) }

/-- A received PFC frame pauses or releases each priority that it enables and RX_MASK holds (R352); its layout is that of IEEE 802.1Qbb
(log entry 15), a quantum being 512 bit times.  A pause counts down as beats pass, whatever the beat count does (R350). -/
def Dev.takePfc (d : Dev) (q : Nat) (body : List Byte) : Dev :=
  let enabled := beNat ((body.drop 2).take 2)
  d.modStmPort q (fun p => { p with pauses := (List.range 8).map (fun i =>
    if bitOf enabled i && d.stm.rxMask.getLsbD i then (beNat ((body.drop (4 + 2 * i)).take 2) * 64 + 9999) / 10000 else p.pauses.getD i 0) })

/-- A received PFC frame holds the port (R352). -/
def StmPort.paused (p : StmPort) : Bool := p.pauses.any (· != 0)

/-! ### The divert queue (R360) -/

def divOverlength : Nat := 1
def divLate : Nat := 2
def divNoSlot : Nat := 3
def divDuplicate : Nat := 4
def divDenied : Nat := 5
def divHeader : Nat := 6
def divFrag : Nat := 7
def divBusy : Nat := 8

/-- A record diverted: one entry of 64 bytes, or one lost at a full queue. -/
def Dev.divertRec (d : Dev) (q : Nat) (header : List Byte) (cause : Nat) : Dev :=
  let ent := (header ++ List.replicate 48 0).take 48 ++ [BitVec.ofNat 8 cause, BitVec.ofNat 8 q] ++ List.replicate 6 0 ++
    bytesLE 8 d.now.toNat
  if 64 ≤ d.stm.divert.length then { d with stm := { d.stm with divLost := satInc d.stm.divLost } }
  else { d with stm := { d.stm with divert := d.stm.divert ++ [ent] } }

/-- The oldest entry removed; nothing when none is queued. -/
def Dev.popDivert (d : Dev) : Dev := { d with stm := { d.stm with divert := d.stm.divert.tail } }

/-! ### Record headers (R354) -/

def hdrStream (h : List Byte) : Nat := fieldLE h 0 2
def hdrSlot (h : List Byte) : Nat := fieldLE h 2 2
def hdrKind (h : List Byte) : Nat := fieldLE h 4 1
def hdrSeq (h : List Byte) : Nat := fieldLE h 8 4
def hdrStep (h : List Byte) : Nat := fieldLE h 12 4
def hdrLen (h : List Byte) : Nat := fieldLE h 16 8
def hdrAddr (h : List Byte) : Nat := fieldLE h 32 8

/-- An inbound header within R354: reserved bytes and the fields that its KIND does not use are 0. -/
def inboundOk (h : List Byte) : Bool :=
  let k := hdrKind h
  zeroes h 5 3 && zeroes h 40 8 && (k == 0 || k == 1 || k == 4) && hdrLen h ≤ 1024 * mib &&
  (k == 0 || (hdrSlot h == 0 && hdrStep h == 0)) && (k != 0 || hdrAddr h == 0)

/-- Bytes of a record that travel: a READ_REQ's LENGTH is the range it asks for and it carries none (log entry 35). -/
def recordLen (h : List Byte) : Nat := if hdrKind h = 4 then 48 else 48 + hdrLen h

/-! ### Slots (R356) -/

/-- The states in which a plan takes slot records. -/
def Plan.takesSlots (p : Plan) : Bool :=
  match p.state with
  | .admitted => true | .armed => true | .running => true | .paused => true | .debugHeld => true
  | .completed => false | .retired => false

/-- The slot entry that a record names: the plan with the lower handle takes it. -/
def Dev.matchSlot (d : Dev) (func : Nat) (h : List Byte) : Option (Plan × Nat) :=
  let found := d.plans.filterMap (fun p =>
    if p.func = func && p.takesSlots then
      ((p.img.slots.zipIdx).find? (fun e => e.1.streamId == hdrStream h && e.1.step == hdrStep h && e.1.slotId == hdrSlot h)).map
        (fun e => (p, e.2))
    else none)
  found.foldl (fun acc x => match acc with
    | some y => if x.1.handle.toNat < y.1.handle.toNat then some x else some y
    | none => some x) none

def Plan.slotEnt (p : Plan) (i : Nat) : SlotEnt := p.img.slots.getD i ⟨0, 0, 0, 0, 0, 0⟩
def Plan.slotState (p : Plan) (i : Nat) : SlotState := p.slotStates.getD i .waiting
def Dev.setSlot (d : Dev) (h : BitVec 16) (i : Nat) (s : SlotState) : Dev :=
  d.modPlan h (fun p => { p with slotStates := p.slotStates.set i s })

/-- The beat by which a slot's record must be complete, as its offset from the plan's base, while its step's beats stand: those of a
step behind a pause, or not begun before a hold, wait for the base of the resume (R115, R120, R356).  A completed plan's base stands. -/
def Plan.slotDeadline (p : Plan) (i : Nat) : Option Nat :=
  let e := p.slotEnt i
  let off := p.stepOff e.step + e.inputOff
  match p.state with
  | .armed => some off
  | .running => if p.behindPause e.step then none else some off
  | .debugHeld => if e.step < p.begun then some off else none
  | .paused => if e.step < p.curStep then some off else none
  | .completed => some off
  | _ => none

/-- The deadline is still ahead; a retired plan takes nothing more. -/
def Dev.slotOpen (d : Dev) (p : Plan) (i : Nat) : Bool :=
  p.state != .retired &&
  match p.slotDeadline i with
  | some off => !d.offReached p.base off
  | none => true

/-- Record detail that names a slot: the step, SLOT_ID and STREAM_ID (R123). -/
def slotDetail (e : SlotEnt) : List (Nat × List Byte) := [(32, bytesLE 4 e.step), (36, bytesLE 2 e.slotId), (38, bytesLE 2 e.streamId)]

def streamUnit (q : Nat) : BitVec 16 := unitId 6 q

/-- A claim that ends in FRAG is released (R356). -/
def Dev.releaseClaim (d : Dev) (q : Nat) (r : OpenRec) : Dev :=
  match r.claim with
  | none => d
  | some (h, i) =>
    match d.plan? h with
    | none => d
    | some p => if p.slotState i == .claimed q r.streamId r.seq then d.setSlot h i .waiting else d

/-! ### Fragments (R353) -/

def Dev.modOpened (d : Dev) (q : Nat) (f : List OpenRec → List OpenRec) : Dev := d.modStmPort q (fun p => { p with opened := f p.opened })

/-- A record of this key. -/
def OpenRec.isKey (r : OpenRec) (sid seq : Nat) : Bool := r.streamId == sid && r.seq == seq
/-- A payload of the record of this key. -/
def BufEnt.isKey (e : BufEnt) (sid seq : Nat) : Bool := hdrStream e.header == sid && hdrSeq e.header == seq
/-- A buffer without the payload of a record that is not whole; that of an earlier whole record of the same key stays. -/
def dropPart (sid seq : Nat) : List BufEnt → List BufEnt
  | [] => []
  | e :: r =>
    if e.isKey sid seq && !e.last && !r.any (fun x => x.isKey sid seq && x.last) then dropPart sid seq r else e :: dropPart sid seq r

/-- A record being reassembled goes from the list, or stays there to be discarded until its LAST fragment; what it had in the receive
buffer goes, and of a LOAD what had left it (R352, R353). -/
def Dev.killRec (d : Dev) (q sid seq : Nat) (last : Bool) : Dev :=
  let d := d.modOpened q (fun l => l.filter (fun (r : OpenRec) => !r.isKey sid seq) ++
    (if last then [] else [{ streamId := sid, seq := seq, header := [], next := 0, dead := true }]))
  let d := d.modStmPort q (fun p => { p with
    buf := dropPart sid seq p.buf
    loads := if p.buf.any (fun e => e.isKey sid seq && e.last) then p.loads else p.loads.filter (fun e => !e.isKey sid seq) })
  d.settlePfc q

/-- The header of a record that a port has taken in, whole or in part. -/
def StmPort.headerOf (p : StmPort) (sid seq : Nat) : List Byte :=
  match p.opened.find? (fun r => r.isKey sid seq && !r.dead) with
  | some r => r.header
  | none => ((p.buf.find? (fun e => e.isKey sid seq)).map (·.header)).getD []

/-- A record of a higher port that claimed a slot in the present cycle gives it up to one of a lower port (R356). -/
def Dev.yieldClaim (d : Dev) (q sid seq : Nat) : Dev :=
  let p := d.stmPort q
  let whole := !p.opened.any (fun r => r.isKey sid seq)
  let d := (d.divertRec q (p.headerOf sid seq) divDuplicate).killRec q sid seq whole
  d.modStmPort q (fun p => { p with buf := p.buf.filter (fun e => !e.isKey sid seq) })

/-- The FIRST fragment of a KIND 0 record: its diversion, the length being tested before the time, or the slot it claims (R122, R356).  Of
two in one cycle the lower port claims. -/
def Dev.claimSlot (d : Dev) (q : Nat) (h : List Byte) : Option (BitVec 16 × Nat) × Dev :=
  match d.matchSlot (d.portOwner q) h with
  | none => (none, d.divertRec q h divNoSlot)
  | some (p, i) =>
    let e := p.slotEnt i
    let take := fun (d : Dev) =>
      if e.bytes < hdrLen h then
        let d := (d.setSlot p.handle i .overlong).modPlan p.handle (fun p => { p with overlength := p.overlength ++ [e.step] })
        let d := d.writeRecord ((d.mkRec 1 8 0x0800 (streamUnit q)).withDetail (slotDetail e ++ [(40, bytesLE 4 (hdrSeq h))]))
        (none, d.divertRec q h divOverlength)
      else if d.slotOpen p i && p.slotState i != .empty then
        let d := d.setSlot p.handle i (.claimed q (hdrStream h) (hdrSeq h))
        (some (p.handle, i), { d with stm := { d.stm with claimsNow := (p.handle, i) :: d.stm.claimsNow } })
      else (some (p.handle, i), d)
    match p.slotState i with
    | .claimed o sid seq =>
      if q < o && d.stm.claimsNow.contains (p.handle, i) then take (d.yieldClaim o sid seq) else (none, d.divertRec q h divDuplicate)
    | .overlong => (none, d.divertRec q h divDuplicate)
    | .filled => (none, d.divertRec q h divDuplicate)
    | .empty => take d
    | .waiting => take d

/-- Records being reassembled on a port (STM_PORT_STATUS.OPEN). -/
def StmPort.open (p : StmPort) : Nat := (p.opened.filter (fun r => !r.dead)).length

/-- A fragment that breaks its record: FRAG (R353); the header of a record never opened is not known (log entry 14). -/
def Dev.fragFail (d : Dev) (q sid seq : Nat) (last : Bool) : Dev :=
  match (d.stmPort q).opened.find? (fun r => r.isKey sid seq) with
  | some r => ((d.releaseClaim q r).divertRec q r.header divFrag).killRec q sid seq last
  | none =>
    (d.divertRec q (bytesLE 2 sid ++ List.replicate 6 0 ++ bytesLE 4 seq) divFrag).killRec q sid seq last

/-- A fragment taken into a record: its payload waits in the receive buffer. -/
def Dev.takeFragment (d : Dev) (q : Nat) (r : OpenRec) (off : Nat) (data : List Byte) (last : Bool) : Dev :=
  let stop := off + data.length
  if recordLen r.header < stop || (last && stop != recordLen r.header) then
    ((d.releaseClaim q r).divertRec q r.header divFrag).killRec q r.streamId r.seq last
  else
    let skip := if off = 0 then 48 else 0
    let pay := data.drop skip
    let ent : BufEnt := { header := r.header, claim := r.claim, off := off + skip - 48, data := pay, last := last }
    let d := if pay.isEmpty && !last then d else d.modStmPort q (fun p => { p with buf := p.buf ++ [ent] })
    d.modOpened q (fun l => if last then l.filter (fun (x : OpenRec) => !x.isKey r.streamId r.seq)
      else l.map (fun (x : OpenRec) => if x.isKey r.streamId r.seq then { x with next := stop } else x))

/-- A fragment (R353). -/
def Dev.fragment (d : Dev) (q : Nat) (body : List Byte) : Dev :=
  let sid := fieldLE body 0 2
  let first := bitOf (fieldLE body 2 1) 0
  let last := bitOf (fieldLE body 2 1) 1
  let seq := fieldLE body 4 4
  let off := fieldLE body 8 4
  let n := fieldLE body 12 2
  let data := (body.drop 16).take n
  let cur := (d.stmPort q).opened.find? (fun r => r.isKey sid seq)
  if 1952 < n || data.length < n then d.fragFail q sid seq last
  else if first then
    if (match cur with | some r => !r.dead | none => false) || off != 0 || n < 48 then d.fragFail q sid seq last
    else
      let h := data.take 48
      let d := d.modOpened q (fun l => l.filter (fun (r : OpenRec) => !r.isKey sid seq))
      if 16 ≤ (d.stmPort q).open then (d.divertRec q h divBusy).killRec q sid seq last
      else if !inboundOk h then (d.divertRec q h divHeader).killRec q sid seq last
      else if hdrStream h != sid || hdrSeq h != seq then (d.divertRec q h divFrag).killRec q sid seq last
      else
        let go := fun (d : Dev) (claim : Option (BitVec 16 × Nat)) =>
          let r : OpenRec := { streamId := sid, seq := seq, header := h, next := 0, claim := claim }
          (d.modOpened q (fun l => l ++ [r])).takeFragment q r 0 data last
        if hdrKind h = 0 then
          match d.claimSlot q h with
          | (some c, d) => go d (some c)
          | (none, d) => if last then d else d.modOpened q (fun l => l ++ [{ streamId := sid, seq := seq, header := [], next := 0, dead := true }])
        else go d none
  else
    match cur with
    | none => d.fragFail q sid seq last
    | some r =>
      if r.dead then (if last then d.modOpened q (fun l => l.filter (fun (x : OpenRec) => !x.isKey sid seq)) else d)
      else if off != r.next then d.fragFail q sid seq last
      else d.takeFragment q r off data last

/-- STREAM_FRAME_RECEIVE: a frame arrives on a port that is up: it is dropped, obeyed as a PFC frame, or its fragment is taken
(R349, R351 to R353). -/
def streamFrameReceive (port : Fin 4) (frame : List Byte) (d : Dev) : Dev :=
  let q := port.val
  if (d.stmPort q).link != 2 then d
  else
    let d := d.modStmPort q (fun p => { p with rxFrames := satInc p.rxFrames })
    match parseFrame frame with
    | none => d.dropFrame q
    | some f =>
      if f.dst = 0x0180C2000001 && f.etype = 0x8808 && beNat (f.body.take 2) = 0x0101 then d.takePfc q f.body
      else if !(f.dst = d.stm.mac.toNat || f.dst = 0xFFFFFFFFFFFF) || f.etype != d.stm.etype.toNat || f.body.length < 16 then
        d.dropFrame q
      else if 4 * mib < (d.stmPort q).fill + fieldLE f.body 12 2 then d.dropFrame q
      else (d.fragment q f.body).settlePfc q

/-! ### What a record does (R356 to R358) -/

/-- The oldest payload in a port's receive buffer, of one KIND, taken out. -/
def Dev.takeBuf? (d : Dev) (q kind : Nat) : Option (BufEnt × Dev) :=
  match (d.stmPort q).buf with
  | e :: rest =>
    if hdrKind e.header = kind then some (e, (d.modStmPort q (fun p => { p with buf := rest })).settlePfc q) else none
  | [] => none

/-- The slot header (R356). -/
def slotHeader (len seq : Nat) : List Byte := bytesLE 8 len ++ bytesLE 4 seq ++ List.replicate 52 0

/-- SLOT_RECORD: the oldest buffered payload of a KIND 0 record goes to its slot; with its last one the slot is filled, or the
record is late (R356); it waits while a wipe holds the slot (R290). -/
def slotRecord (port : Fin 4) (d : Dev) : Dev :=
  let q := port.val
  let before := d
  match d.takeBuf? q 0 with
  | none => d
  | some (e, d) =>
    match e.claim with
    | none => d
    | some (h, i) =>
      match d.plan? h with
      | none => if e.last then d.divertRec q e.header divNoSlot else d
      | some p =>
        let ent := p.slotEnt i
        if p.slotState i == .claimed q (hdrStream e.header) (hdrSeq e.header) && d.slotOpen p i then
          if d.wipeHolds ent.dest (64 + e.off + e.data.length) then before
          else
          let d := (d.deliver (ent.dest + 64 + e.off) e.data 0xFFFFFFFF (streamUnit q) 8).2
          if e.last then
            let d := (d.deliver ent.dest (slotHeader (hdrLen e.header) (hdrSeq e.header)) 0xFFFFFFFF (streamUnit q) 8).2
            d.setSlot h i .filled
          else d
        else if e.last then d.divertRec q e.header divLate
        else d

/-- The range of a LOAD or a READ_REQ may not be used by the port's owner (R357, R358). -/
def Dev.denied (d : Dev) (func a n : Nat) (read : Bool) : Bool :=
  let shared := match d.sharedAt a n with
    | some r => (match d.shared.getD r none with | some g => g.readers.getLsbD func | none => false)
    | none => false
  if n = 0 then false
  else if read && shared then d.wipeHolds a n
  else
    stackEnd < a + n || !d.funcOwns func a n || d.meetsShared a n || d.wipeHolds a n ||
    d.plans.any (fun p => p.live && (p.img.layout.inHist a n || p.img.layout.inShadow a n)) ||
    (!read && d.plans.any (fun p => (p.state == .armed || p.state == .running || p.state == .paused || p.state == .debugHeld) &&
      p.img.layout.ranges.any (fun r => meets a n r.base r.len)))

/-- LOAD_RECORD: the oldest buffered payload of a KIND 1 record leaves the receive buffer; with its last one the record is denied, or
written whole at its address (R352, R357). DESIGN CHOICE: a record's payload waits outside the buffer for its last fragment, on whose
arrival its range is judged (log entry 123). -/
def loadRecord (port : Fin 4) (d : Dev) : Dev :=
  let q := port.val
  match d.takeBuf? q 1 with
  | none => d
  | some (e, d) =>
    let key := fun (x : BufEnt) => x.isKey (hdrStream e.header) (hdrSeq e.header)
    if !e.last then d.modStmPort q (fun p => { p with loads := p.loads ++ [e] })
    else
      let all := (d.stmPort q).loads.filter key ++ [e]
      let d := d.modStmPort q (fun p => { p with loads := p.loads.filter (fun x => !key x) })
      if d.denied (d.portOwner q) (hdrAddr e.header) (hdrLen e.header) false then d.divertRec q e.header divDenied
      else all.foldl (fun (d : Dev) x => (d.deliver (hdrAddr x.header + x.off) x.data 0xFFFFFFFF (streamUnit q) 8).2) d

/-- READ_REQ: the committed contents asked for go into the outbound buffer as one KIND 5 record; the request waits while the
buffer has no room, and one that meets poison is denied (R280, R358).  DESIGN CHOICE: one that is larger than the buffer goes when the
buffer is empty (log entry 123). -/
def readReq (port : Fin 4) (d : Dev) : Dev :=
  let q := port.val
  match d.takeBuf? q 4 with
  | none => d
  | some (e, d') =>
    let a := hdrAddr e.header
    let n := hdrLen e.header
    if d'.denied (d'.portOwner q) a n true then d'.divertRec q e.header divDenied
    else if (d'.mem.poisoned? a n).isSome && n != 0 then (d'.countPoison a).divertRec q e.header divDenied
    else if !d'.stm.hasRoom (48 + n) && !d'.stm.outq.isEmpty then d
    else
      d'.pushOut { func := d'.portOwner q, kind := 5, streamId := hdrStream e.header
                   bytes := recordHeader (hdrStream e.header) 0 5 (hdrSeq e.header) 0 n d'.now a ++ memBytes d'.mem.bytes a n }

/-- SLOT_INPUT_DEADLINE: at its deadline a slot that is not filled gets an empty header; one that no over-length record took is
recorded (R122, R123, R356). -/
def slotInputDeadline (h : BitVec 16) (i : Fin 65536) (d : Dev) : Dev :=
  match d.plan? h with
  | none => d
  | some p =>
    if p.img.slots.length ≤ i.val || p.retiring.isSome || p.state == .armed || (p.slotDeadline i.val).isNone ||
        d.slotOpen p i.val || p.slotState i.val == .filled || p.slotState i.val == .empty then d
    else
      let e := p.slotEnt i.val
      let tooBig := p.slotState i.val == .overlong
      let d := (d.setSlot h i.val .empty).deliver e.dest (slotHeader 0 0) 0xFFFFFFFF 0 8
      if tooBig then d.2 else d.2.writeRecord ((d.2.mkRec 0 8 0x1716 0).withDetail (slotDetail e))

/-! ### Outbound records (R359) -/

/-- The port a record is sent on: STREAM_ID mod u among the owner's ports that are up. -/
def Dev.outPort (d : Dev) (r : OutRec) : Option Nat :=
  let up := d.upPorts r.func
  if up.isEmpty then none else up[r.streamId % up.length]?

/-- The first record of a KIND for a port. -/
def Dev.outFor (d : Dev) (q kind : Nat) : Option (OutRec × Nat) :=
  (d.stm.outq.zipIdx).find? (fun e => e.1.kind == kind && d.outPort e.1 == some q)

/-- The frames that carry an outbound record (R351, R353): each holds at most 1,952 of its bytes behind the addresses, the tag when it
is enabled, the EtherType in network byte order and the fragment header; the FCS ends it, after the padding of a short frame (log entry
112). -/
def Dev.framesOf (d : Dev) (bytes : List Byte) : List (List Byte) :=
  let n := max 1 ((bytes.length + 1951) / 1952)
  (List.range n).map (fun i =>
    let data := (bytes.drop (1952 * i)).take 1952
    let flags := (if i = 0 then 1 else 0) + (if i + 1 = n then 2 else 0)
    let frag := bytesLE 2 (hdrStream bytes) ++ [BitVec.ofNat 8 flags, 0] ++ bytesLE 4 (hdrSeq bytes) ++ bytesLE 4 (1952 * i) ++
      bytesLE 2 data.length ++ [0, 0]
    let be := fun (k v : Nat) => (bytesLE k v).reverse
    let body := be 6 d.stm.dstMac.toNat ++ be 6 d.stm.mac.toNat ++
      (if d.stm.vlanEn then be 2 0x8100 ++ be 2 d.stm.vlanTci.toNat else []) ++ be 2 d.stm.etype.toNat ++ frag ++ data
    let body := body ++ List.replicate (60 - body.length) 0
    body ++ bytesLE 4 (crc32 body).toNat)

/-- RECORD_SEND: a port that is not paused sends its next record whole: exports before trace, trace before read data; a KIND 5
record is stamped as it is sent (R350, R352, R359). -/
def recordSend (port : Fin 4) (d : Dev) : Dev :=
  let q := port.val
  let p := d.stmPort q
  if p.link != 2 || p.paused then d
  else
    let next := match d.outFor q 2 with
      | some e => some e
      | none => (match d.outFor q 3 with
        | some e => some e
        | none => d.outFor q 5)
    match next with
    | none => d
    | some (r, i) =>
      let bytes := if r.kind = 5 then r.bytes.take 24 ++ bytesLE 8 d.now.toNat ++ r.bytes.drop 32 else r.bytes
      let frames := d.framesOf bytes
      let d := d.modStmPort q (fun p => { p with txFrames := satAdd p.txFrames frames.length })
      { d with stm := { d.stm with outq := d.stm.outq.eraseIdx i, sent := d.stm.sent ++ frames.map (fun f => (q, f)) } }

/-! ### The state of the ports (R351) -/

/-- A port held in electrical idle: its domain goes off, and what it was receiving is gone. -/
def Dev.portIdle (d : Dev) (q : Nat) : Dev :=
  (d.modStmPort q (fun p => { p with link := 0, opened := [], buf := [], loads := [], pausing := false, pauses := List.replicate 8 0 })).powerDown (160 + q) causeHost

/-- A port that is idle begins to train, its domain being powered. -/
def Dev.portTrain (d : Dev) (q : Nat) : Dev :=
  if (d.stmPort q).link = 0 then (d.modStmPort q (fun p => { p with link := 1 })).powerUp (160 + q) causeHost else d

/-- A write of STM_ETHERTYPE (R351). -/
def Dev.setEthertype (d : Dev) (v : BitVec 16) : Dev :=
  let n := v.toNat
  if (1 ≤ n && n ≤ 0x5FF) || n = 0x8100 || n = 0x8808 then d
  else
    let d := { d with stm := { d.stm with etype := v } }
    (List.range 4).foldl (fun (d : Dev) q =>
      if n = 0 then d.portIdle q else if (d.stmPort q).en then d.portTrain q else d) d

/-- A write of STM_PORT_CTRL.EN (R351, R436). -/
def Dev.setPortEn (d : Dev) (q : Nat) (en : Bool) : Dev :=
  let d := d.modStmPort q (fun p => { p with en := en })
  if !en then d.portIdle q else if d.stm.etype != 0 then d.portTrain q else d

/-- STREAM_PORT_UP: a training port with its domain up is UP (R351). -/
def streamPortUp (port : Fin 4) (d : Dev) : Dev :=
  let q := port.val
  let p := d.stmPort q
  if p.link = 1 && p.en && d.stm.etype != 0 && d.domUp (160 + q) then
    (d.modStmPort q (fun p => { p with link := 2 })).setDom (160 + q) .on
  else d

/-- STREAM_PORT_DOWN: a port loses its link and trains again (R359). -/
def streamPortDown (port : Fin 4) (d : Dev) : Dev :=
  if (d.stmPort port.val).link = 2 then d.modStmPort port.val (fun p => { p with link := 1 }) else d

/-! ### Commands -/

/-- SLOT_INPUT_DEADLINE (R356). -/
def execSlotInputDeadline (h : BitVec 16) (i : Fin 65536) (st : State) : Out State := run (slotInputDeadline h i) st
/-- STREAM_FRAME_RECEIVE (R353). -/
def execStreamFrameReceive (port : Fin 4) (frame : List Byte) (st : State) : Out State := run (streamFrameReceive port frame) st
/-- SLOT_RECORD (R356). -/
def execSlotRecord (port : Fin 4) (st : State) : Out State := run (slotRecord port) st
/-- LOAD_RECORD (R357). -/
def execLoadRecord (port : Fin 4) (st : State) : Out State := run (loadRecord port) st
/-- READ_REQ (R358). -/
def execReadReq (port : Fin 4) (st : State) : Out State := run (readReq port) st
/-- RECORD_SEND (R359). -/
def execRecordSend (port : Fin 4) (st : State) : Out State := run (recordSend port) st
/-- STREAM_PORT_UP (R351). -/
def execStreamPortUp (port : Fin 4) (st : State) : Out State := run (streamPortUp port) st
/-- STREAM_PORT_DOWN (R359). -/
def execStreamPortDown (port : Fin 4) (st : State) : Out State := run (streamPortDown port) st

end Sys2Proof.Machine
end

