-- ==== Sys2Proof/Machine/Trace.lean ====
section
/-! DEFINITION. The trace unit (file 20): flushing, LOST records, its control register and its power domain (R390 to R394). -/

namespace Sys2Proof.Machine

/-- The trace domain goes off once no record waits in staging (R394). -/
def Dev.settleTrace (d : Dev) : Dev :=
  if d.trc.downDue && d.trc.staged.isEmpty && d.trc.lostRun.isNone then
    ({ d with trc := { d.trc with downDue := false } }).powerDown 170 causeHost
  else d

/-- TRACE_FLUSH: the oldest open record that has reached FLUSH_BEATS, or that a closing trace unit has still to send, is closed
(R392, R394). -/
def traceFlush (d : Dev) : Dev :=
  (Dev.closeWhere (fun e => d.trc.downDue || d.trc.flushBeats.toNat ≤ d.since e.beat) 1 d).settleTrace

/-- TRACE_LOST_RECORD: with space in staging again, one LOST record is staged and staging goes on (R393). -/
def traceLostRecord (d : Dev) : Dev := if d.trc.lostRun.isSome then d.stageLost.settleTrace else d

/-- A write of TRC_CTRL: its fields under their own rules; EN or HEALTH_EN powers the trace domain, and both at 0 close every open
record before it goes off (R390, R394). -/
def Dev.writeTrcCtrl (d : Dev) (v : BitVec 64) : Dev :=
  let n := v.toNat
  let flush := bitsOf n 39 24
  let kib := bitsOf n 19 16
  let was := d.trc.en || d.trc.healthEn
  let now := bitOf n 0 || bitOf n 1
  let d := { d with trc := { d.trc with
    flushBeats := if 1000 ≤ flush then BitVec.ofNat 16 flush else d.trc.flushBeats
    recKib := if kib = 0 then d.trc.recKib else BitVec.ofNat 4 kib
    domainEn := bitOf n 3, abandoned := bitOf n 2, healthEn := bitOf n 1, en := bitOf n 0 } }
  if now then ({ d with trc := { d.trc with downDue := false } }).powerUp 170 causeHost
  else if was then
    (Dev.closeWhere (fun _ => true) d.trc.staged.length { d with trc := { d.trc with downDue := true } }).settleTrace
  else d

/-! ### Commands -/

/-- TRACE_FLUSH (R392). -/
def execTraceFlush (s : State) : Out State := run traceFlush s
/-- TRACE_LOST_RECORD (R393). -/
def execTraceLostRecord (s : State) : Out State := run traceLostRecord s

end Sys2Proof.Machine
end

