-- ==== Sys2Proof/Machine/Health.lean ====
section
/-! DEFINITION. Error control (file 19): recovery of a site and of a chunk, the monitors, spares, fences, tests, heals and lost
units (R366 to R384). -/

namespace Sys2Proof.Machine

def Dev.modHealth (d : Dev) (f : Health → Health) : Dev := { d with health := f d.health }

/-- One hour of beats. -/
def hourBeats : Nat := 36000000000
/-- Beats of the routine test interval (R93, R380). -/
def Dev.testInterval (d : Dev) : Nat := d.health.testIntervalH.toNat * hourBeats

/-! ### Sites -/

/-- A site fenced (R374, R375): its crater entry, its state, no grant, and the record 0x1701; `fault` says whether the fence
counts as a step's fault, the first or a later one; `host` is what FENCE gave.  The grant it held counts against the fall of its beat
(R168). -/
def Dev.fenceSite (d : Dev) (n source : Nat) (fault : Option Bool) (tag : BitVec 32) (host : Option HostFence) : Dev :=
  let u := siteUnit n
  let fell := if d.fenceFall.1 = d.bt.beat then d.fenceFall.2 else 0
  let d := { d with fenceFall := (d.bt.beat, fell + (d.site n).lbk.grant.toNat) }
  let (perm, d) := d.enterCrater u (host.map (fun r => r.1.setWidth 8))
  let d := (d.setSiteState n (if perm then .permanent else .fenced)).modHealth (fun h => { h with testedSince := h.testedSince.set n none })
  let d := d.modSite n (fun s => { s with lbk := { s.lbk with grant := 0, demand := 0, holding := false } })
  let r := d.mkRec 3 source 0x1701 u
  let r := match fault with | some b => r.fault b | none => r
  let r := if tag = 0xFFFFFFFF then r else r.withTag tag ((d.coreOf n).bind d.funcOf)
  d.writeRecord (r.withReason host)

/-- The distance of a site's die from a die, ties going to the lower die and then the lower site. -/
def nearer (die a b : Nat) : Bool :=
  let key := fun (s : Nat) => ((if s / 5 ≤ die then die - s / 5 else s / 5 - die), s)
  decide ((key a).1 < (key b).1) || ((key a).1 == (key b).1 && decide ((key a).2 < (key b).2))

/-- The nearest of a list of sites. -/
def nearest (die : Nat) (l : List Nat) : Option Nat :=
  l.foldl (fun acc s => match acc with
    | none => some s
    | some t => if nearer die s t then some s else some t) none

def Dev.sitesIn (d : Dev) (st : SiteState) : List Nat := (List.range 80).filter (fun s => d.siteState s == st)

/-- The replacement that HLP chooses for a site of a die, and whether it is cold (R370). -/
def Dev.chooseSpare (d : Dev) (die : Nat) : Option (Nat × Bool) :=
  match nearest die (d.sitesIn .warm) with
  | some s => some (s, false)
  | none => (nearest die (d.sitesIn .held)).map (fun s => (s, true))

/-- The registers of a site that a plan core's arming or recovery loads: the history region and the text base (R197, R253). -/
def Dev.configSite (d : Dev) (p : Plan) (core site : Nat) : Dev :=
  let h := p.img.layout.hists.find? (fun h => h.core == core)
  d.modSite site (fun s => { s with
    qnt := { s.qnt with histBase := BitVec.ofNat 48 ((h.map (·.base)).getD 0), histN := BitVec.ofNat 9 ((h.map (·.n)).getD 0) }
    ccr := { s.ccr with textBase := BitVec.ofNat 48 (p.textBase core site) } })

/-- The text of a plan core copied into its region on a site (R253). -/
def Dev.copyText (d : Dev) (p : Plan) (core site : Nat) : Dev :=
  let bs := d.textBytes p core
  { d with mem := { d.mem with bytes := memPutAll d.mem.bytes (p.textBase core site) bs } }

/-- Committed scratch moved from one site to another (R369). -/
def Dev.moveScratch (d : Dev) (old new : Nat) : Dev :=
  let cells := d.mem.bytes.filter (fun c => decide (scratchBase old ≤ c.1) && decide (c.1 < scratchSize + scratchBase old))
  let d := d.wipeRange (scratchBase new) scratchSize
  { d with mem := { d.mem with bytes := memPutCells d.mem.bytes (cells.map (fun (c : Host.Cell) => (c.1 - scratchBase old + scratchBase new, c.2))) } }

/-- A snapshot's addresses in the old site's scratch taken in the new one's (R165, R369). -/
def moveSnap (old new : Nat) (snap : Option (LoadSrc × BitVec 32)) : Option (LoadSrc × BitVec 32) :=
  let move := fun (a : Nat) => if inside a 1 (scratchBase old) 0x1000000 then a - scratchBase old + scratchBase new else a
  snap.map (fun s => ({ s.1 with src := move s.1.src, scaleSrc := move s.1.scaleSrc }, s.2))

/-- A set loaded anew from a snapshot (R165). -/
def Dev.restoreSet (d : Dev) (old new : Nat) (snap : Option (LoadSrc × BitVec 32)) : WSet :=
  match moveSnap old new snap with
  | none => {}
  | some (ls, tag) => loadedSet .ready tag ls (memBytes d.mem.bytes)

/-- The two sets of a site restored. -/
def Dev.restoreSets (d : Dev) (old new : Nat) (active : Bool) (s0 s1 : Option (LoadSrc × BitVec 32)) : Dev :=
  let w0 := d.restoreSet old new s0
  let w1 := d.restoreSet old new s1
  d.modSite new (fun s => { s with lbk := { s.lbk with set0 := w0, set1 := w1, active := active } })

/-- A chunk starts again on a site from its first entry, with the state it began with; its snapshots name the new site from then on, for a
further recovery (R29, R129, R145, R165, R254, R265, R369). -/
def Dev.restartChunk (d : Dev) (p : Plan) (c old new : Nat) (rc : RunChunk) : Dev :=
  let e := p.chunkEnt rc.idx
  let d := (d.dropHeld c).readySite p (p.planCore c) new rc.idx
  let d := d.restoreSets old new rc.snapActive rc.snap0 rc.snap1
  let d := d.modCcr new (fun cc => { cc with flags := rc.flagCopy, flagsSet := 0 })
  d.modCq c (fun q => { q with
    regs := { q.regs with exec := rc.execAtStart }
    fetched := q.refetch p.img.nCores d.isRoot e.firstCmd, next := e.firstCmd, wait := rc.waitAtStart
    brkDue := q.regs.brkCountEn && rc.execAtStart == q.regs.brkCount
    run := some { rc with
      attempt := rc.attempt + 1, progFault := false, deadlock := 0, wdog := 0
      snap0 := moveSnap old new rc.snap0, snap1 := moveSnap old new rc.snap1 } })

/-! ### Recovery (R369 to R371) -/

def Dev.dropRecovery (d : Dev) (site : Nat) : Dev := d.modHealth (fun h => { h with recoveries := h.recoveries.filter (fun (r : Recovery) => r.site != site) })
def Dev.modRecovery (d : Dev) (site : Nat) (f : Recovery → Recovery) : Dev :=
  d.modHealth (fun h => { h with recoveries := h.recoveries.map (fun (r : Recovery) => if r.site == site then f r else r) })

/-- The FENCE request in execution that names a site. -/
def Dev.fenceReq? (d : Dev) (site : Nat) : Option Req :=
  d.reqs.find? (fun r => r.op == 0x0300 && r.place == .executing && BitVec.ofNat 16 (fieldLE (mPayload r.msg) 0 2) == siteUnit site)

/-- What it hands to the fence. -/
def Req.hostFence (q : Req) : HostFence := (BitVec.ofNat 16 (fieldLE (mPayload q.msg) 2 2), mTag q.msg)

/-- The FENCE that waits for a recovery is answered: it named the failed site, or a spare that the recovery had chosen (R91). -/
def Dev.answerFence (d : Dev) (r : Recovery) (result : Nat) : Dev :=
  match (d.fenceReq? r.site).orElse (fun _ => r.asked.bind d.fenceReq?) with
  | some q => d.finishReq q result []
  | none => d

/-- A record's flag of a fault, where it is one of a step. -/
def Rec.faultOf (r : Rec) (first : Option Bool) : Rec := match first with | some b => r.fault b | none => r

/-- A held site is left without a use: with a plan armed its die's held sites are settled, one warm and the others cold; with none it
stays powered (R32, R436). -/
def Dev.freeSpare (d : Dev) (s : Nat) : Dev :=
  let d := d.setSiteState s .held
  if d.anyArmed then d.coolHeld (s / 5) else d.powerHeld s

/-- A swap finds no held site: none is made, the site runs on, and the record of R381 is written once per interval. -/
def Dev.noSwap (d : Dev) (n : Nat) : Dev :=
  let noted := match d.health.overdueNoted.getD n none with
    | some b => decide (d.since b < d.testInterval)
    | none => false
  if noted then d
  else
    let d := (d.setHltEvent 4).modHealth (fun h => { h with overdueNoted := h.overdueNoted.set n (some d.bt.beat) })
    d.writeRecord (d.mkRec 1 10 0x1709 (siteUnit n))

/-- A recovery without a held site: the core stays without one (R32, R124), with the request's TAG where FENCE asked for it (R70); a swap
is not made (R381). -/
def Dev.noSpare (d : Dev) (r : Recovery) (c : Nat) : Dev :=
  let n := r.site
  let d := d.dropRecovery n
  if r.cause == .swap then
    let d := d.setSiteState n .inService
    let d := match d.planOf c with
      | some p => d.modPlan p.handle (fun p => if p.faultStep = some p.curStep then { p with faultStep := none } else p)
      | none => d
    d.noSwap n
  else
    let d := ((d.siteReset n).powerDown n causeFence).setHltEvent 1
    let d := { d with siteOf := d.siteOf.set c 0xFE, mapTs := d.now }
    let x := (d.mkRec 4 r.failSource.toNat 0x1702 (siteUnit r.fail)).faultOf r.failFirst
    let x := if r.failSource = 11 && r.tag != 0xFFFFFFFF then x.withTag r.tag else x
    (d.writeRecord x).answerFence r sNoSpare

/-- SITE_RECOVERY: HLP's decision: the site is fenced and the spare chosen; without a held site the core stays without one (R32,
R124, R369, R370); a site swapped for an overdue test is not fenced (R381). -/
def siteRecovery (site : Fin 80) (d : Dev) : Dev :=
  let n := site.val
  match d.health.recoveries.find? (fun r => r.site == n && r.phase == .detected) with
  | none => d
  | some r =>
    if !d.runs 2 then d
    else
      let d := match r.core with
        | some c => if (d.cq c).run.isSome && r.fail == n then d.dropHeld c else d
        | none => d
      let host := (d.fenceReq? n).map Req.hostFence
      let d := if (r.cause == .swap && r.fail == n) || d.isFenced (siteUnit r.fail) then d
        else d.fenceSite r.fail r.failSource.toNat r.failFirst r.tag (if r.fail == n then host else none)
      let d := if r.fail == n then d else (d.siteReset r.fail).powerDown r.fail causeFence
      match r.core with
      | none => (((d.dropRecovery n).siteReset n).powerDown n causeFence).answerFence r sOk
      | some c =>
        if (d.planOf c).isNone then
          (if r.cause == .swap then (d.dropRecovery n).freeSpare n
           else ((d.dropRecovery n).siteReset n).powerDown n causeFence).answerFence r sOk
        else
          match d.chooseSpare (n / 5) with
          | none => d.noSpare r c
          | some (s, cold) =>
            let d := (d.setSiteState s .recovering).powerUp s causeFence
            d.modRecovery n (fun r => { r with spare := some s, cold := cold, phase := .fenced, t1 := d.bt.beat })

/-- SPARE_IN_SERVICE: the spare's clocks run and the firmware map points the core at it; a cold site that fails its self-test is
fenced and the next one is chosen (R369, R370, R435).  The core-site reset in which the spare stood is released (R439). -/
def spareInService (site : Fin 80) (ok : Bool) (d : Dev) : Dev :=
  let n := site.val
  match d.health.recoveries.find? (fun r => r.site == n && r.phase == .fenced) with
  | none => d
  | some r =>
    match r.spare, r.core with
    | some s, some c =>
      if !d.domUp s then d
      else if r.cold && !ok then
        d.modRecovery n (fun r => { r with spare := none, phase := .detected, fail := s, failSource := 10, failFirst := none })
      else
        let d := (d.siteReset s).setDom s .on
        let d := if (d.planOf c).isSome then { d with siteOf := d.siteOf.set c s, mapTs := d.now } else d
        (d.modRecovery n (fun r => { r with phase := .inService, t2 := d.bt.beat })).answerFence r sOk
    | _, _ => d

/-- A test begins on a site out of service, after a core-site reset: at once when its domain is up, else when it has powered up (R376,
R377, R439). -/
def Dev.beginTest (d : Dev) (n id : Nat) : Dev :=
  let prior := d.siteState n
  let up := d.domUp n
  let d := (d.siteReset n).setSiteState n .underTest
  let d := d.modHealth (fun h => { h with tests := h.tests ++ [{ site := n, id := id, start := if up then some d.bt.beat else none, prior := some prior }] })
  if up then d.setDom n .on else d.powerUp n causeTest

/-- A chunk whose state is loaded again on its own site recomputes there (R372). -/
def Dev.recomputeHere (d : Dev) (r : Recovery) (c n : Nat) : Dev :=
  match d.planOf c, (d.cq c).run with
  | some p, some rc =>
    let again : Recompute := { core := c, rcv := r }
    (d.restartChunk p c n n { rc with inPlace := rc.inPlace + 1, afterResume := r.late }).modHealth (fun (h : Health) => { h with recomputes := h.recomputes ++ [again] })
  | _, _ => d

/-- STATE_LOAD_DONE: scratch, sets, text and flags are on the spare, which replays the chunk; the failed site is reset and powered
down (R369).  Without a chunk the recovery is complete.  A chunk that recomputes in place starts again on its own site (R372). -/
def stateLoadDone (site : Fin 80) (d : Dev) : Dev :=
  let n := site.val
  match d.health.recoveries.find? (fun r => r.site == n && r.phase == .inService) with
  | none => d
  | some r =>
    match r.spare, r.core with
    | some s, some c =>
      let r := { r with t3 := d.bt.beat }
      let d := d.dropRecovery n
      if r.cause == RecCause.inPlace then d.recomputeHere r c n
      else
      let d := match d.planOf c with
        | none => d.freeSpare s
        | some p =>
          let old := d.site n
          let d := d.modPlan p.handle (fun p => { p with
            pastSites := p.pastSites.modify (p.planCore c) (fun (l : List Nat) => l ++ [n]) })
          let d := ((d.moveScratch n s).configSite p (p.planCore c) s).copyText p (p.planCore c) s
          let d := d.setSiteState s .inService
          match (d.cq c).run with
          | some rc =>
            let again : Recompute := { core := c, rcv := r }
            (d.restartChunk p c n s { rc with afterResume := r.late }).modHealth (fun (h : Health) => { h with recomputes := h.recomputes ++ [again] })
          | none =>
            let d := d.restoreSets n s old.lbk.active old.lbk.set0.snap old.lbk.set1.snap
            let d := d.modCcr s (fun cc => { cc with flags := cc.flags ||| old.ccr.flagsNow })
            if r.cause == RecCause.swap then
              let x := ((d.mkRec 2 10 0x1708 (siteUnit n)).fault r.first).withDetail [(34, bytesLE 2 (siteUnit s).toNat)]
              d.writeRecord x
            else d.recoveryRecord r none d.bt.beat
      let d := d.siteReset n
      if d.siteState n == .lost then d
      else if r.cause == RecCause.swap then (d.setSiteState n .held).beginTest n 1 else d.powerDown n causeFence
    | _, _ => d

/-- IN_PLACE_RECOMPUTE: the pending line at an address of the chunk is uncorrectable: what the chunk holds is discarded, and HLP, with
OWNED asserted, recomputes it on the same site once its state is loaded again (STATE_LOAD_DONE); a second such error in the recompute is
a check fault of the site (R30, R279, R367, R372). -/
def inPlaceRecompute (c : Fin 72) (addr : Fin 34359738368) (d : Dev) : Dev :=
  match d.ctx? c.val with
  | none => d
  | some x =>
    let line := addr.val / 128 * 128
    if !(d.cq c.val).pend.any (fun e => decide (line ≤ e.1) && decide (e.1 < line + 128)) then d
    else
      let d := d.modDsc (stackOfAddr line) (fun s => { s with eccUe := satInc s.eccUe })
      if x.rc.inPlace != 0 then d.siteFault x.site .check 2 0 (d.cq c.val).nextTag
      else
        let tag := (d.cq c.val).nextTag
        let (first, d) := d.countFault (some c.val)
        let d := d.dropHeld c.val
        let b := d.bt.beat
        let r : Recovery := { site := x.site, core := some c.val, spare := some x.site, cause := .inPlace, phase := .inService, source := 2, tag := tag
                              first := first, fail := x.site, failFirst := some first, t0 := b, t1 := b, t2 := b }
        d.modHealth (fun (h : Health) => { h with recoveries := h.recoveries ++ [r] })

/-! ### Monitors (R373) -/

/-- PROGRESS_STOP: a unit holds an issued command of the chunk and has advanced none of its work for 32 beats on which nothing held it
back: a check fault. -/
def progressStop (c : Fin 72) (unit : Fin 9) (d : Dev) : Dev :=
  match d.ctx? c.val with
  | none => d
  | some x =>
    match (d.cq c.val).flights.find? (fun f => !f.ended && 32 ≤ f.idle && unitOf (cmdOp f.bytes) == unit.val) with
    | none => d
    | some f => d.siteFault x.site .check 9 unit.val (cmdTag f.bytes)

/-- WATCHDOG_OVERRUN: a chunk has reached WC_BEATS; the record is written once per chunk. -/
def watchdogOverrun (c : Fin 72) (d : Dev) : Dev :=
  match d.ctx? c.val with
  | none => d
  | some x =>
    if x.rc.wdogNoted || x.rc.wdog < x.chunk.wc then d
    else
      let d := d.modCq c.val (fun q => { q with run := q.run.map (fun r => { r with wdogNoted := true }) })
      d.writeRecord ((d.mkRec 0 9 0x1704 (siteUnit x.site)).withTag (d.cq c.val).nextTag (some x.p.func))

/-- COMMAND_WATCHDOG_EXPIRY: at WC_BEATS + WDOG_GRACE the site is recovered; an expiry in that recompute halts the queue. -/
def commandWatchdogExpiry (c : Fin 72) (d : Dev) : Dev :=
  match d.ctx? c.val with
  | none => d
  | some x =>
    if x.rc.wdog < x.chunk.wc + d.health.wdogGrace.toNat || (d.cq c.val).regs.halted || x.rc.progFault then d
    else
      let tag := (d.cq c.val).nextTag
      let d := (d.setHltEvent 5).modCq c.val (fun q => { q with run := q.run.map (fun r => { r with wdogHits := r.wdogHits + 1 }) })
      if x.rc.wdogHits = 0 then d.siteFault x.site .watchdog 9 0 tag
      else (d.haltQueue c.val).writeRecord ((d.mkRec 4 9 0x1705 (siteUnit x.site)).withTag tag (some x.p.func))

/-! ### Spares (R32, R370, R435) -/

/-- SPARE_WARM: while a plan is armed, the lowest held cold site of a die without a warm spare is brought up: its domain, then its wipe
and core-site reset, and its self-test, whose failure fences it (R435, R439); with no plan armed every held site stands powered and none
is warm (R436; log entry 27). -/
def spareWarm (site : Fin 80) (ok : Bool) (d : Dev) : Dev :=
  let n := site.val
  let die := n / 5
  let mates := (List.range 5).map (fun p => 5 * die + p)
  if !d.anyArmed || !d.runs 2 || !d.firmwareUp || mates.any (fun s => d.siteState s == .warm) || mates.find? (fun s => d.siteState s == .held) != some n then d
  else if !d.domUp n then d.powerUp n causeOther
  else if ok then (d.siteReset n).setSiteState n .warm
  else (d.fenceSite n 10 none 0xFFFFFFFF none).powerDown n causeFence

/-! ### The crater table and tests (R374 to R381) -/

/-- CRATER_TABLE_SAVE: the crater table, the lane remaps and the soft row repairs go to the boot flash (R374). -/
def craterTableSave (d : Dev) : Dev :=
  if d.health.craterDirty && d.runs 2 then
    d.modHealth (fun h => { h with
      flashCrater := h.crater, flashRemaps := d.sites.map (fun s => s.lbk.spareMap), flashRows := d.stks.map (fun s => s.softRows)
      craterDirty := false })
  else d

/-- FENCED_SITE_TEST: HLP begins test 1 on a fenced site that has not been tested since its fence and is not permanent; its end
returns or keeps the site (R375). -/
def fencedSiteTest (site : Fin 80) (d : Dev) : Dev :=
  let n := site.val
  let tested := (d.health.testedSince.getD n none).isSome
  if d.siteState n == .fenced && !tested && d.runs 2 && !d.health.recoveries.any (fun r => r.site == n || r.fail == n) then
    d.beginTest n 1
  else d

/-- Lanes mapped to free spares in turn; none where the spares do not suffice (R169, R379). -/
def remapLanes : List (BitVec 16) → List (Fin 513) → Option (List (BitVec 16))
  | m, [] => some m
  | m, l :: r =>
    match m.findIdx? (fun e => !e.getLsbD 15) with
    | none => none
    | some i => remapLanes (m.set i (BitVec.ofNat 16 (0x8000 + l.val))) r

/-- A fenced site leaves the crater table, after a core-site reset: it is a held site again (R92, R375, R439). -/
def Dev.returnSite (d : Dev) (n : Nat) : Dev := ((d.siteReset n).leaveCrater (siteUnit n)).setSiteState n .held

/-- The domain of a site after its test: GATED for a warm spare, and for a held site while no plan is armed; otherwise off (R436). -/
def Dev.restSite (d : Dev) (n : Nat) : Dev :=
  if d.siteState n == .warm then d.setDom n .gated
  else if d.siteState n == .held && !d.anyArmed then (if d.dom n == .on then d.setDom n .gated else d) else d.powerDown n causeTest

/-- The TEST_RUN in execution that names a site (R93). -/
def Dev.testReq? (d : Dev) (n : Nat) : Option Req :=
  d.reqs.find? (fun r => r.op == 0x0303 && r.place == .executing && BitVec.ofNat 16 (fieldLE (mPayload r.msg) 0 2) == siteUnit n)

/-- A record of a site's test holds the TAG of the TEST_RUN that asked for it (R70). -/
def Dev.ofTest (d : Dev) (n : Nat) (r : Rec) : Rec := match d.testReq? n with | some q => r.withTag (mTag q.msg) | none => r

/-- The answer of the TEST_RUN that names a site (R93). -/
def Dev.answerTest (d : Dev) (n : Nat) (failed : Bool) (remapped : Nat) : Dev :=
  match d.testReq? n with
  | some r => d.finishReq r sOk ([BitVec.ofNat 8 (b2n failed), BitVec.ofNat 8 remapped] ++ bytesLE 2 0 ++ bytesLE 8 d.now.toNat)
  | none => d

/-- A warm spare that has been tested is warm again, and the held site that stood in for it is cold, while a plan is armed (R380). -/
def Dev.warmAgain (d : Dev) (n : Nat) : Dev :=
  if !d.anyArmed then d.setSiteState n .held
  else
    let mates := ((List.range 5).map (fun p => 5 * (n / 5) + p)).filter (fun s => d.siteState s == .warm)
    (mates.foldl (fun (d : Dev) s => (d.setSiteState s .held).powerDown s causeIdle) d).setSiteState n .warm

/-- What a passed test leaves (R375, R377, R379). -/
def Dev.testPassed (d : Dev) (t : TestRun) (remapped : Bool) : Dev :=
  let n := t.site
  let d := d.modHealth (fun h => { h with
    lastPass := if t.id = 1 then h.lastPass.set n (some d.bt.beat) else h.lastPass
    overdue := if t.id = 1 then h.overdue.set n false else h.overdue
    overdueNoted := if t.id = 1 then h.overdueNoted.set n none else h.overdueNoted })
  let d := d.writeRecord (d.ofTest n (d.mkRec (if remapped then 1 else 0) 10 (if remapped then 0x1707 else 0x1706) (siteUnit n)))
  match t.prior with
  | none => d
  | some st =>
    if st == .fenced || st == .permanent then
      let d := (d.setSiteState n st).modHealth (fun h => { h with testedSince := h.testedSince.set n (some true) })
      if st == .permanent then d
      else
        let d := d.modCrater (siteUnit n) (fun e => { e with state := 3 })
        if d.health.autoUnfence then (d.returnSite n).writeRecord (d.ofTest n (d.mkRec 0 10 0x170A (siteUnit n))) else d
    else if st == .warm then d.warmAgain n
    else d.setSiteState n .held

/-- What a failed test leaves: a site in service is recovered from without a recompute, a held one fenced, a fenced one kept
(R375, R379). -/
def Dev.testFailed (d : Dev) (t : TestRun) : Dev :=
  let n := t.site
  match t.prior with
  | none =>
    let r : Recovery := { site := n, core := d.coreOf n, cause := .test, source := 10, fail := n, failSource := 10, t0 := d.bt.beat }
    if d.siteState n != .inService then d.modHealth (fun h => { h with events := h.events.raise 8 }) else (d.setSiteState n .recovering).modHealth (fun h => { h with
      events := h.events.raise 8, recoveries := h.recoveries ++ [r] })
  | some st =>
    if st == .fenced || st == .permanent then
      (d.setSiteState n st).modHealth (fun h => { h with testedSince := h.testedSince.set n (some false) })
    else (d.fenceSite n 10 none (((d.testReq? n).map (fun (q : Req) => mTag q.msg)).getD 0xFFFFFFFF) none).setHltEvent 3

/-- TEST_DONE: a test that has run its length ends (R376 to R379): both sets are EMPTY and every row zero. -/
def testDone (site : Fin 80) (result : TestResult) (d : Dev) : Dev :=
  let n := site.val
  match d.health.tests.find? (fun t => t.site == n) with
  | none => d
  | some t =>
    match t.start with
    | none => d
    | some b =>
      if d.since b < testLen t.id then d
      else
        let d := d.modHealth (fun h => { h with tests := h.tests.filter (fun (x : TestRun) => x.site != n) })
        let d := d.modSite n (fun s => { s with
          lbk := { s.lbk with set0 := {}, set1 := {} }, acc := { s.acc with rows := [] } })
        let map := (d.site n).lbk.spareMap
        let out := match result with
          | .pass => some (map, 0)
          | .lanes ls => (remapLanes map ls).map (fun m => (m, ls.length))
          | .fail => none
        match out with
        | some (m, k) =>
          let d := if k = 0 then d else
            (d.modSite n (fun s => { s with lbk := { s.lbk with spareMap := m } })).modHealth (fun h => { h with craterDirty := true })
          let d := (d.testPassed t (k != 0)).answerTest n false k
          if t.prior.isSome then d.restSite n else d
        | none =>
          let d := (d.testFailed t).answerTest n true 0
          if t.prior.isSome then d.restSite n else d

/-- The test of a site is due by `extra` beats more than its interval (R380, R381); after a reset it is due from beat 0 (R445).
DEDUCED: a new INTERVAL_H measures the interval that already runs as well (R93; log entry 101). -/
def Dev.testIsDue (d : Dev) (n extra : Nat) : Bool :=
  match d.health.lastPass.getD n none with
  | none => decide (extra ≤ d.beatN)
  | some b => decide (d.testInterval + extra ≤ d.since b)

/-- TEST_DUE: a held site is tested out of service; one in service shows in HLT_OVERDUE (R380). -/
def testDue (site : Fin 80) (d : Dev) : Dev :=
  let n := site.val
  if !d.testIsDue n 0 || !d.runs 2 || !d.firmwareUp then d
  else
    match d.siteState n with
    | .held => d.beginTest n 1
    | .warm => d.beginTest n 1
    | .inService => d.modHealth (fun h => { h with overdue := h.overdue.set n true })
    | _ => d

/-- OVERDUE_SWAP: at a chunk boundary, a site more than an hour overdue is swapped for a spare, once per step and in place of its
fault; without a held site the site runs on and is recorded once per interval (R381). -/
def overdueSwap (c : Fin 72) (d : Dev) : Dev :=
  match d.planOf c.val with
  | none => d
  | some p =>
    let n := d.siteOf.getD c.val 0xFF
    let q := d.cq c.val
    if 80 ≤ n || d.siteState n != .inService || !d.testIsDue n (hourBeats + 1) || q.run.isSome || q.vent.isSome then d
    else
      match d.chooseSpare (n / 5) with
      | none => d.noSwap n
      | some _ =>
        if p.faultStep = some p.curStep then d
        else
          let d := d.modPlan p.handle (fun p => { p with faultStep := some p.curStep })
          let r : Recovery := { site := n, core := some c.val, cause := .swap, source := 10, fail := n, failSource := 10, t0 := d.bt.beat }
          (d.setSiteState n .recovering).modHealth (fun h => { h with recoveries := h.recoveries ++ [r] })

/-! ### Heals (R382, R383) -/

def Dev.modHeal (d : Dev) (f : List Heal → List Heal) : Dev := d.modHealth (fun h => { h with heals := f h.heals })

/-- HEAL_REQUEST: the first queued heal is asked of the peer, one at a time. -/
def healRequest (d : Dev) : Dev :=
  match d.health.heals with
  | [] => d
  | h :: _ =>
    if h.asked.isSome || !d.runs 2 then d
    else
      match d.sharedWord h.word with
      | none => d.modHeal List.tail
      | some r =>
        if d.health.sharedPeer = 0x7FFF then (d.modHeal List.tail).healUnavailable h.word
        else
          let base := match d.shared.getD r none with | some g => g.base | none => 0
          let d := d.modHeal (fun l => match l with | x :: t => { x with asked := some d.bt.beat } :: t | [] => [])
          d.sendControl d.health.sharedPeer 0 (.healReq h.word r base)

/-- HEAL_SERVE: a request is answered with the committed codeword, when it lies in a shared region of the same number and BASE
and is not poisoned here; otherwise refused.  It waits while a wipe holds the codeword (R290). -/
def healServe (d : Dev) : Dev :=
  let before := d
  match d.takeInbox (fun x => match x.2.body with | .healReq _ _ _ => true | _ => false) with
  | none => d
  | some ((_, f), d) =>
    match f.body with
    | .healReq w r base =>
      if before.wipeHolds (64 * w) 64 then before
      else
      let ok := match d.shared.getD r none with
        | some g => g.base == base && meets (64 * w) 64 g.base g.len && !d.mem.poison.contains w
        | none => false
      d.sendControl f.src 0 (.healAns w (if ok then some (memBytes d.mem.bytes (64 * w) 64) else none))
    | _ => d

/-- HEAL_DATA: the answer to the heal asked for: a codeword still poisoned is written and is clean again; a refusal makes the heal
unavailable. -/
def healData (d : Dev) : Dev :=
  let before := d
  match d.takeInbox (fun x => match x.2.body with | .healAns _ _ => true | _ => false) with
  | none => d
  | some ((_, f), d) =>
    match f.body, d.health.heals with
    | .healAns w bs, h :: rest =>
      if h.asked.isNone || h.word != w then d
      else if before.wipeHolds (64 * w) 64 then before
      else
        let d := d.modHeal (fun _ => rest)
        match bs with
        | none => d.healUnavailable w
        | some bs =>
          let d := if d.mem.poison.contains w then
              { d with mem := { bytes := memPutAll d.mem.bytes (64 * w) bs, poison := d.mem.poison.filter (fun (x : Nat) => x != w) } }
            else d
          (d.setHltEvent 6).writeRecord ((d.mkRec 1 2 0x170B (sramUnit (64 * w))).withAddr (64 * w))
    | _, _ => d

/-- HEAL_TIMEOUT: no answer within 30,000,000 beats. -/
def healTimeout (d : Dev) : Dev :=
  match d.health.heals with
  | h :: rest =>
    (match h.asked with
     | some b => if 30000000 < d.since b then (d.modHeal (fun _ => rest)).healUnavailable h.word else d
     | none => d)
  | [] => d

/-! ### Lost units (R384) -/

/-- A plan that uses a stack: a range of its own, or a shared region that it reads, lies in it. -/
def Dev.usesStack (d : Dev) (p : Plan) (s : Nat) : Bool :=
  p.img.layout.ranges.any (fun r => meets r.base r.len (stackSize * s) stackSize) ||
  (List.range 8).any (fun i => p.img.layout.sharedRead.getLsbD i &&
    (match d.shared.getD i none with | some g => meets g.base g.len (stackSize * s) stackSize | none => false))

/-- A plan with a core on one of the sites. -/
def Dev.usesSite (d : Dev) (p : Plan) (on : Nat → Bool) : Bool :=
  p.cores.any (fun c => on (d.siteOf.getD c 0xFF) || d.health.recoveries.any (fun r => r.core == some c && on r.site))

/-- The plans halted for a loss, its record and its event. -/
def Dev.haltFor (d : Dev) (hit : List Plan) (unit : BitVec 16) : Dev :=
  let d := hit.foldl (fun (d : Dev) p => (d.haltPlan p).modPlan p.handle (fun p => { p with dead := true })) d
  (d.setHltEvent 10).writeRecord (d.mkRec 4 2 0x170E unit)

/-- A unit that is not a site fenced by HLP. -/
def Dev.fenceUnit (d : Dev) (u : BitVec 16) (source code : Nat) : Dev :=
  let (_, d) := d.enterCrater u none
  d.writeRecord (d.mkRec 3 source code u)

/-- A stack lost: its dies fenced and powered down. -/
def Dev.loseStack (d : Dev) (s : Nat) : Dev :=
  let d := d.modStk s (fun t => { t with lost := true })
  let d := ((d.fenceUnit (unitId 2 (2 * s)) 2 0x1701).fenceUnit (unitId 2 (2 * s + 1)) 2 0x1701)
  (d.powerDown (96 + 2 * s) causeFence).powerDown (97 + 2 * s) causeFence

/-- The spare that a lost site's recovery had chosen is a held site again; a core that it already serves has no site any more. -/
def Dev.dropSpare (d : Dev) (r : Recovery) : Dev :=
  match r.spare with
  | some s =>
    let d := if r.phase == .inService then
        (match d.coreOf s with | some c => { d with siteOf := d.siteOf.set c 0xFE, mapTs := d.now } | none => d)
      else d
    if s != r.site && d.siteState s == .recovering then d.freeSpare s else d
  | none => d

/-- A site lost: fenced, where it did not stand fenced already; the recovery of it ends without its state, and one that had chosen it goes
back to its decision (R371, R384). -/
def Dev.loseSite (d : Dev) (n : Nat) : Dev :=
  let stands := d.isFenced (siteUnit n) || d.health.tests.any (fun (t : TestRun) => t.site == n && (t.prior == some .fenced || t.prior == some .permanent))
  let d := d.modHealth (fun (h : Health) => { h with tests := h.tests.filter (fun (t : TestRun) => t.site != n) })
  let d := if stands then d else d.fenceSite n 2 none 0xFFFFFFFF none
  let d := (d.setSiteState n .lost).powerDown n causeFence
  let d := d.modHealth (fun h => { h with recoveries := h.recoveries.map (fun (r : Recovery) =>
    if r.spare == some n && r.site != n then { r with spare := none, phase := .detected, fail := n, failSource := 2, failFirst := none } else r) })
  match d.health.recoveries.find? (fun r => r.site == n) with
  | some r => ((d.dropRecovery n).dropSpare r).answerFence r sOk
  | none => d

/-- STACK_LOST (R384). -/
def stackLost (u : LostUnit) (d : Dev) : Dev :=
  let live := d.plans.filter Plan.live
  match u with
  | .stack s =>
    let t := d.stk s.val
    if t.lost || (t.poisonBeats.filter (fun b => d.since b < 1000)).length ≤ 16 then d
    else (d.loseStack s.val).haltFor (live.filter (fun p => d.usesStack p s.val)) (unitId 2 (2 * s.val))
  | .die s =>
    if d.isFenced (unitId 3 s.val) || (d.crater? (unitId 3 s.val)).isSome then d
    else
      let hit := live.filter (fun p => d.usesStack p s.val || d.usesSite p (fun n => decide (n < 80) && n / 5 == s.val) || p.homes.contains s.val)
      let d := if (d.stk s.val).lost then d else d.loseStack s.val
      let d := (List.range 5).foldl (fun (d : Dev) i => d.loseSite (5 * s.val + i)) d
      let d := (d.fenceUnit (unitId 3 s.val) 2 0x1701).powerDown (80 + s.val) causeFence
      d.haltFor hit (unitId 3 s.val)
  | .site n =>
    match d.health.recoveries.find? (fun r => r.site == n.val && r.cause != .inPlace) with
    | none => d
    | some _ =>
      let hit := live.filter (fun p => d.usesSite p (fun m => m == n.val))
      (d.loseSite n.val).haltFor hit (siteUnit n.val)

/-! ### Commands -/

/-- SITE_RECOVERY (R369). -/
def execSiteRecovery (site : Fin 80) (st : State) : Out State := run (siteRecovery site) st
/-- SPARE_IN_SERVICE (R369). -/
def execSpareInService (site : Fin 80) (ok : Bool) (st : State) : Out State := run (spareInService site ok) st
/-- STATE_LOAD_DONE (R369). -/
def execStateLoadDone (site : Fin 80) (st : State) : Out State := run (stateLoadDone site) st
/-- IN_PLACE_RECOMPUTE (R372). -/
def execInPlaceRecompute (c : Fin 72) (addr : Fin 34359738368) (st : State) : Out State := run (inPlaceRecompute c addr) st
/-- PROGRESS_STOP (R373). -/
def execProgressStop (c : Fin 72) (unit : Fin 9) (st : State) : Out State := run (progressStop c unit) st
/-- WATCHDOG_OVERRUN (R373). -/
def execWatchdogOverrun (c : Fin 72) (st : State) : Out State := run (watchdogOverrun c) st
/-- COMMAND_WATCHDOG_EXPIRY (R373). -/
def execCommandWatchdogExpiry (c : Fin 72) (st : State) : Out State := run (commandWatchdogExpiry c) st
/-- SPARE_WARM (R370). -/
def execSpareWarm (site : Fin 80) (ok : Bool) (st : State) : Out State := run (spareWarm site ok) st
/-- CRATER_TABLE_SAVE (R374). -/
def execCraterTableSave (s : State) : Out State := run craterTableSave s
/-- FENCED_SITE_TEST (R375). -/
def execFencedSiteTest (site : Fin 80) (st : State) : Out State := run (fencedSiteTest site) st
/-- TEST_DONE (R379). -/
def execTestDone (site : Fin 80) (result : TestResult) (st : State) : Out State := run (testDone site result) st
/-- TEST_DUE (R380). -/
def execTestDue (site : Fin 80) (st : State) : Out State := run (testDue site) st
/-- OVERDUE_SWAP (R381). -/
def execOverdueSwap (c : Fin 72) (st : State) : Out State := run (overdueSwap c) st
/-- HEAL_REQUEST (R382). -/
def execHealRequest (s : State) : Out State := run healRequest s
/-- HEAL_SERVE (R382). -/
def execHealServe (s : State) : Out State := run healServe s
/-- HEAL_DATA (R382). -/
def execHealData (s : State) : Out State := run healData s
/-- HEAL_TIMEOUT (R383). -/
def execHealTimeout (s : State) : Out State := run healTimeout s
/-- STACK_LOST (R384). -/
def execStackLost (u : LostUnit) (st : State) : Out State := run (stackLost u) st

end Sys2Proof.Machine
end

