-- ==== Sys2Proof/Machine/Reset.lean ====
section
/-! DEFINITION. The resets (R439 to R441, R445) and what each clears or keeps; the release of tenancies by the PCIe functions
(R409, R444). -/

namespace Sys2Proof.Machine

/-- DEBUG as the life-cycle state gives it (R405). -/
def debugAtReset (lc : BitVec 2) : Bool := lc == 0 || lc == 3

/-- The state of a site by its entry of the crater table: held where it has none (R374). -/
def siteByCrater (t : List Crater) (n : Nat) : SiteState :=
  match t.find? (fun e => e.unit == siteUnit n) with
  | some e => if e.state = 2 then .permanent else .fenced
  | none => .held

/-- The slots of the key area, in its order. -/
def areaSlots : List Nat := [0, 6, 7]

/-- What a stored slot gives SCP: its factory key, its key decrypted, or, erased or failing its check, nothing (R400). -/
def StoredKey.read (k : StoredKey) (slot : Nat) : SlotKey :=
  match k with
  | .factory => .factory
  | .erased => .empty
  | .held count cipher mac => if wrapMac cipher == mac then .key (wrapKey slot count cipher) else .empty

/-- A stored slot fails its check. -/
def StoredKey.fails : StoredKey → Bool
  | .held _ cipher mac => wrapMac cipher != mac
  | _ => false

/-- What a warm or cold reset keeps of the security state: fuses, flash, and, on a warm reset, FAIL_COUNT; slots 1 to 4 are
erased, 0, 6 and 7 are read from the key area (R400, R405, R406, R440). -/
def Sec.afterReset (s : Sec) (warm : Bool) : Sec :=
  let slot := fun (i : Nat) => (s.keyArea.getD i .erased).read (areaSlots.getD i 0)
  { lcFuses := s.lcFuses, minEpoch := s.minEpoch, failCount := if warm then s.failCount else 0
    debug := debugAtReset s.lcState, activeBank := s.bootBank, bootBank := s.bootBank, bootVersion := s.bootVersion
    bank0 := s.bank0, bank1 := s.bank1, key0Revoked := s.key0Revoked, keyArea := s.keyArea, keyWrites := s.keyWrites
    slots := [slot 0, .empty, .empty, .empty, .empty, .empty, slot 1, slot 2] }

/-- The health state after a cold reset: the tables of the flash, and the latch where the standby part kept it (R374, R386). -/
def Health.afterCold (h : Health) (standbyLost : Bool) : Health :=
  { crater := h.flashCrater, flashCrater := h.flashCrater, flashRemaps := h.flashRemaps, flashRows := h.flashRows
    latch := if standbyLost then [] else h.latch
    siteStates := (List.range 80).map (siteByCrater h.flashCrater) }

/-- The health state after a warm reset: the log, the latch, the counters and the crater table are kept, and a fenced site that was under
test is fenced (R440). -/
def Health.afterWarm (h : Health) : Health :=
  { logState := h.logState, logNext := h.logNext, bankA := h.bankA, bankB := h.bankB, bankAOk := h.bankAOk, bankBOk := h.bankBOk
    recoverCnt := h.recoverCnt, secondCnt := h.secondCnt, latchLost := h.latchLost, latch := h.latch
    crater := h.crater, craterDirty := h.craterDirty, flashCrater := h.flashCrater, flashRemaps := h.flashRemaps, flashRows := h.flashRows
    testedSince := h.testedSince
    siteStates := h.siteStates.zipIdx.map (fun (e : SiteState × Nat) => match e.1 with
      | .fenced => .fenced
      | .permanent => .permanent
      | .lost => .lost
      | .underTest => (match (h.tests.find? (fun t => t.site == e.2)).bind (·.prior) with
        | some .fenced => .fenced
        | some .permanent => .permanent
        | _ => .held)
      | _ => .held) }

/-- A stack's block: fuses and soft repairs stay, and on a warm reset its counters; after a cold reset the soft repairs of the
flash are applied again (R282, R440). -/
def Stk.afterReset (k : Stk) (warm : Bool) (flash : List (Nat × Nat)) : Stk :=
  let base : Stk := { spareBanksHi := k.spareBanksHi, spareBanksLo := k.spareBanksLo, fusedRows := k.fusedRows }
  if warm then
    { base with passes := k.passes, ceCnt := k.ceCnt, ueCnt := k.ueCnt, poisonRead := k.poisonRead, rowRepairs := k.rowRepairs, softRows := k.softRows }
  else { base with softRows := flash, rowRepairs := BitVec.ofNat 16 (min 65535 (flash.map (·.2)).sum) }

/-- A site: lane remaps stay, and on a warm reset LBK_CHECK_CNT (R169, R440). -/
def Site.afterReset (s : Site) (warm : Bool) (remap : List (BitVec 16)) : Site :=
  { lbk := { spareMap := if warm then s.lbk.spareMap else remap, checkCnt := if warm then s.lbk.checkCnt else 0 } }

/-- The switched domains at a warm reset: those of the boot stay powered, the others go off; a ramp goes on to its end (R434,
R441). -/
def Pwr.domsAfterWarm (p : Pwr) : List DomState :=
  (p.doms.zipIdx).map (fun (e : DomState × Nat) => match e.1 with
    | .off => .off
    | .ramping => .ramping
    | _ => if bootDomains.contains e.2 then .gated else .off)

/-- The power block: the supplies, the straps and the pins stay, and ramps go on, the beats since their start counted on (R440, R441). -/
def Pwr.afterReset (p : Pwr) (warm : Bool) (beat : BitVec 52) : Pwr :=
  let base : Pwr := { pdOk := p.pdOk, vinOk := p.vinOk, vauxOk := p.vauxOk, thermtrip := p.thermtrip, mustFall := p.mustFall
                      sysRst := p.sysRst, pos := p.pos, priority := p.priority, perstHigh := p.perstHigh }
  if warm then
    { base with
      ctlUp := p.ctlUp, warmCount := satInc p.warmCount, lastReset := 2, doms := p.domsAfterWarm
      ramps := p.ramps.map (fun r => (r.1, r.2.1, r.2.2 - beat)), downs := p.downs.map (fun r => (r.1, r.2 - beat))
      waitDown := (p.ramps.filter (fun r => !bootDomains.contains r.1)).map (fun r => (r.1, causeOther)) }
  else base

/-- Every block after a warm or a cold reset (R440): register fields at their reset values but for what the reset keeps.  DESIGN CHOICE:
a warm reset keeps the counters of which a register map says that they count since, or are cleared only by, a cold reset, LBK_CHECK_CNT and
STK_SCRUB_POS.PASSES among them, and no other counter: CCR_CHECK_CNT goes to 0 (log entry 78). -/
def Dev.afterReset (d : Dev) (warm standbyLost : Bool) : Dev :=
  let fresh : Dev := {}
  { fresh with
    free := d.free
    fwp := if warm then d.fwp.map (fun f => { restarts := f.restarts }) else fresh.fwp
    mem := if warm then d.mem else {}
    stks := (d.stks.zipIdx).map (fun (e : Stk × Nat) => e.1.afterReset warm (d.health.flashRows.getD e.2 []))
    sites := (d.sites.zipIdx).map (fun (e : Site × Nat) => e.1.afterReset warm (d.health.flashRemaps.getD e.2 []))
    lnk := { fresh.lnk with w := d.pwr.pos }
    col := { fresh.col with engines := if warm then d.col.engines.map (fun e => { retries := e.retries }) else fresh.col.engines }
    slv := if warm then d.slv.map (fun e => { checkCnt := e.checkCnt }) else fresh.slv
    sec := d.sec.afterReset warm
    health := if warm then d.health.afterWarm else d.health.afterCold standbyLost
    trc := if warm then { fresh.trc with lost := d.trc.lost, sent := d.trc.sent, seqs := d.trc.seqs.filter (fun s => s.1 == 0) } else fresh.trc
    jtag := if standbyLost then {} else d.jtag
    pwr := d.pwr.afterReset warm d.bt.beat }

/-- Units in the crater table start fenced: ports, engines and solver engines (R374). -/
def Dev.fenceByCrater (d : Dev) : Dev :=
  let out := fun (kind n : Nat) => (d.crater? (unitId kind n)).isSome
  let ports := (d.lnk.ports.zipIdx).map (fun (e : Port × Nat) => if out 4 e.2 then { e.1 with state := PortState.fenced } else e.1)
  let engines := (d.col.engines.zipIdx).map (fun (e : Engine × Nat) => { e.1 with inService := !out 5 e.2 })
  let slv := (d.slv.zipIdx).map (fun (e : Slv × Nat) => { e.1 with inService := !out 7 e.2 })
  { d with lnk := { d.lnk with ports := ports }, col := { d.col with engines := engines }, slv := slv }

/-- BEAT_OUT drives the device's own beat once the control part is up and no reset holds the device (R37). -/
def Dev.driveBeat (d : Dev) : Dev :=
  if d.pwr.ctlUp && !d.pwr.sysRst then { d with bt := { d.bt with beatOut := .own } } else d

/-- The whole device after a warm or a cold reset. -/
def Dev.resetDevice (d : Dev) (warm standbyLost : Bool) : Dev := (d.afterReset warm standbyLost).fenceByCrater

def StrapSamples.value (s : StrapSamples) : BitVec 7 := (s.a &&& s.b) ||| (s.a &&& s.c) ||| (s.b &&& s.c)

/-- The straps are sampled; POS shows in LNK_COORD.W (R423). -/
def Dev.takeStraps (d : Dev) (s : StrapSamples) : Dev :=
  let v := s.value
  { d with
    pwr := { d.pwr with pos := v.extractLsb' 4 3, priority := v.extractLsb' 0 4 }
    lnk := { d.lnk with w := v.extractLsb' 4 3 } }

/-- COLD_RESET: VAUX3P3 crosses 3.135 V upward, which starts the standby part and, where VIN48 is in range, the power dies; or the
control part powers up (R429, R433, R439). -/
def coldReset (cause : ColdCause) (d : Dev) : Dev :=
  match cause with
  | .vaux s =>
    if d.pwr.vauxOk then d
    else
      let d := (d.resetDevice false true).takeStraps s
      { d with pwr := { d.pwr with vauxOk := true, pdOk := if d.pwr.vinOk then 0xF else 0 } }
  | .control =>
    if d.pwr.ctlUp || !d.pwr.vauxOk || !d.pwr.vinOk || d.pwr.pdOk != 0xF then d
    else
      let d := d.resetDevice false false
      Dev.driveBeat { d with pwr := { d.pwr with ctlUp := true } }

/-- Every domain that the boot needs, but link and stream ports, is powered (R442). -/
def Dev.powerBoot (d : Dev) : Dev := (bootDomains.filter (fun k =>
    !(k < 80 && d.isFenced (siteUnit k)) && !(165 ≤ k && k < 169 && d.isFenced (unitId 7 (k - 165))))).foldl
  (fun (d : Dev) k => d.powerUp k causeOther) d

/-- A firmware bank that the board management controller has rewritten while SYS_RST_L was low (R403, R427). -/
def Sec.writeBank (s : Sec) (w : Bool × List Byte) : Sec :=
  let b : Bank := { version := BitVec.ofNat 24 (Config.fwField w.2 1), keyIndex := Config.fwField w.2 3, image := some w.2 }
  if w.1 then { s with bank1 := b } else { s with bank0 := b }

/-- WARM_RESET: SYS_RST_L falls and the device is reset; when it rises, the straps are sampled and the boot runs, from AUTH where the
fall came in the boot sequence (R423, R439 to R442); `flash` are the firmware banks that the board wrote while it was low (R403). -/
def warmReset (level : Bool) (straps : StrapSamples) (flash : List (Bool × List Byte)) (d : Dev) : Dev :=
  if !d.pwr.vauxOk || level != d.pwr.sysRst then d
  else if !level then
    if d.pwr.ctlUp then
      let again := d.pwr.phase == .auth || d.pwr.phase == .wipe || d.pwr.phase == .waitCfg || d.pwr.phase == .links || d.pwr.phase == .elect
      let d := d.resetDevice true false
      { d with pwr := { d.pwr with sysRst := true, again := again } }
    else { d with pwr := { d.pwr with sysRst := true } }
  else
    let d := d.takeStraps straps
    let d := { d with sec := flash.foldl Sec.writeBank d.sec }
    let again := d.pwr.again && d.pwr.ctlUp
    let d := Dev.driveBeat { d with pwr := { d.pwr with sysRst := false, again := false } }
    if again then ({ d with pwr := { d.pwr with phase := .auth } }).powerBoot else d

/-! ### PCIe resets (R439, R440, R444) -/

/-- The registers of a channel at their reset values, its session ended (R75, R84, R440). -/
def Dev.chanFlr (d : Dev) (c : Nat) : Dev :=
  let r := chansReset.getD c {}
  (d.resetChan c).modChan c (fun x => { x with window := r.window, msixVec := r.msixVec, msixEn := r.msixEn, session := none })

/-- The registers of a function's queues that no plan holds take their reset values; those of a plan that retires take them as it
ends (R126, R440). -/
def Dev.queueFlr (d : Dev) (func : Nat) : Dev := (d.freeCores func).foldl (fun (d : Dev) c => d.modCq c (fun _ => {})) d

/-- A function-level reset (R87, R409, R440). -/
def Dev.flr (d : Dev) (func : Nat) : Dev :=
  let d := Dev.queueFlr { d with msixTab := d.msixTab.set func [], msix := d.msix.filter (fun m => !(m.held && m.func == func)) } func
  if func = 0 then (([0, 5, 6]).foldl Dev.chanFlr d).askRetire 0
  else (d.beginRelease func).chanFlr func

/-- FUNCTION_LEVEL_RESET: of PF0 (0) or of a VF. -/
def functionLevelReset (func : Fin 5) (d : Dev) : Dev := if d.pwr.pcieUp then d.flr func.val else d

/-- PCIE_RESET: PCI_PERST_L low: the endpoint and every function are reset (R439, R440); during a wider reset it has no further
effect (R441). -/
def pcieReset (d : Dev) : Dev :=
  let d := { d with pwr := { d.pwr with perstHigh := false, pcieUp := false } }
  if !d.pwr.ctlUp || d.pwr.sysRst then d
  else
    let d := { d with pwr := { d.pwr with lastReset := 3 }, sec := { d.sec with vfEnable := false } }
    (List.range 5).foldl Dev.flr d

/-- PCIE_ENDPOINT_UP: with PCI_PERST_L high and the control part up the endpoint answers (R444). -/
def pcieEndpointUp (d : Dev) : Dev :=
  if d.pwr.ctlUp && !d.pwr.sysRst then { d with pwr := { d.pwr with perstHigh := true, pcieUp := true } }
  else { d with pwr := { d.pwr with perstHigh := true } }

/-- VF_ENABLE_CLEAR: clearing VF Enable releases every tenancy (R409). -/
def vfEnableClear (d : Dev) : Dev :=
  if d.pwr.pcieUp && d.sec.vfEnable then
    [1, 2, 3, 4].foldl Dev.beginRelease { d with sec := { d.sec with vfEnable := false } }
  else d

/-! ### Commands -/

/-- VF_ENABLE_CLEAR (R409). -/
def execVfEnableClear (s : State) : Out State := run vfEnableClear s
/-- COLD_RESET (R439). -/
def execColdReset (cause : ColdCause) (st : State) : Out State := run (coldReset cause) st
/-- WARM_RESET (R439). -/
def execWarmReset (level : Bool) (straps : ResetIn) (st : State) : Out State := run (warmReset level straps.straps straps.flash) st
/-- PCIE_RESET (R439). -/
def execPcieReset (s : State) : Out State := run pcieReset s
/-- PCIE_ENDPOINT_UP (R444). -/
def execPcieEndpointUp (s : State) : Out State := run pcieEndpointUp s
/-- FUNCTION_LEVEL_RESET (R439). -/
def execFunctionLevelReset (func : Fin 5) (st : State) : Out State := run (functionLevelReset func) st

end Sys2Proof.Machine
end

