-- ==== Sys2Proof/Machine/Power.lean ====
section
/-! DEFINITION. Supplies, power dies and sensors (R415, R428 to R431, R454), requests of power domains (R434, R436), halts (R438),
and the boot up to the training of the links (R403, R404, R442, R443). -/

namespace Sys2Proof.Machine

/-! ### Events and alerts -/

/-- A bit of PWR_EVENTS set; a rise of bits 0 to 3 latches the alert of the same number (R454). -/
def Dev.setPwrEvent (d : Dev) (i : Nat) : Dev :=
  let rose := !d.pwr.events.val.getLsbD i && decide (i < 4)
  { d with
    pwr := { d.pwr with events := d.pwr.events.raise (BitVec.ofNat 6 (2 ^ i)) }
    mgt := { d.mgt with alerts := if rose then d.mgt.alerts.raise (BitVec.ofNat 5 (2 ^ i)) else d.mgt.alerts } }

/-! ### Halts -/

/-- Once a halted device's lane blocks have no grant left, its switched domains are GATED (R438). -/
def Dev.gateHalted (d : Dev) : Dev :=
  if d.pwr.phase == .halted && d.sites.all (fun s => s.lbk.grant.toNat == 0) then
    { d with pwr := { d.pwr with doms := d.pwr.doms.map (fun s => if s == DomState.on then DomState.gated else s) } }
  else d

/-- A halt that keeps the supplies: no grant is asked for any more, the ramp governor lowers those that stand, and the switched domains
then stay powered and GATED (R438). -/
def Dev.haltDevice (d : Dev) : Dev :=
  Dev.gateHalted { d with
    pwr := { d.pwr with phase := .halted, ready := false }
    sites := d.sites.map (fun s => { s with lbk := { s.lbk with demand := 0, holding := false } }) }

/-- A halt that takes every power-die output off: its CLASS 5 record goes to the fault latch, and all that has no standby power is lost.
The standby part holds the management port with channel 7, the latch, the trace staging buffer and the TAP (R415, R430, R433, R440). -/
def Dev.powerLoss (d : Dev) (code : Nat) : Dev :=
  let d := d.latchPush (d.mkRec 5 0 code 0)
  let e := d.resetDevice false false
  { e with
    mgt := d.mgt
    chans := e.chans.set 7 (d.chan 7)
    trc := { e.trc with staged := d.trc.staged, lostRun := d.trc.lostRun, lost := d.trc.lost }
    pwr := { e.pwr with phase := .halted, pdOk := 0, ctlUp := false } }

/-! ### Supplies (R428 to R430) -/

/-- VIN_RISE: VIN48 crosses its rising threshold: the power dies start once the standby part is up (R429). -/
def vinRise (d : Dev) : Dev :=
  if d.pwr.vinOk then d
  else { d with pwr := { d.pwr with vinOk := true, pdOk := if d.pwr.vauxOk && !d.pwr.mustFall then 0xF else d.pwr.pdOk } }

/-- VIN_OUT_OF_RANGE: VIN48 is in the margin band under 40 V or over 60 V: the device runs on (R428). -/
def vinOutOfRange (high : Bool) (d : Dev) : Dev :=
  if d.pwr.vinOk && d.pwr.ctlUp && !d.pwr.sysRst then d.setPwrEvent (if high then 1 else 0) else d

/-- VIN_UNDERVOLTAGE: below the falling threshold for 100 beats: a halt; a trip or a fault that waits for this fall is over
(R415, R430). -/
def vinUndervoltage (d : Dev) : Dev :=
  if !d.pwr.vinOk then d
  else
    let d := if d.pwr.pdOk = 0 then d else d.powerLoss 0x1A00
    { d with pwr := { d.pwr with vinOk := false, mustFall := false, thermtrip := false } }

/-- VIN_OVERVOLTAGE: above the overvoltage threshold for 10 beats: a halt until VIN48 has fallen and risen again (R430). -/
def vinOvervoltage (d : Dev) : Dev :=
  if !d.pwr.vinOk || d.pwr.pdOk = 0 then d
  else
    let d := d.powerLoss 0x1A01
    { d with pwr := { d.pwr with mustFall := true } }

/-- POWER_DIE_FAULT: a power die leaves regulation, draws over 30 A for 100 beats or reads 125 °C (R430, R431). -/
def powerDieFault (die : Fin 4) (d : Dev) : Dev :=
  if !d.pwr.pdOk.getLsbD die.val then d
  else
    let d := d.powerLoss 0x1A02
    { d with pwr := { d.pwr with mustFall := true } }

/-- VAUX_LOSS: VAUX3P3 below 3.0 V: every output is shut off, and the standby part with its fault latch is lost (R429, R430). -/
def vauxLoss (d : Dev) : Dev :=
  if !d.pwr.vauxOk then d
  else
    let d := d.resetDevice false true
    { d with pwr := { d.pwr with phase := .halted, vauxOk := false, pdOk := 0, ctlUp := false, thermtrip := false, mustFall := false } }

/-- THERMTRIP: a die sensor, which the standby part reads, shows 115 °C or more: a halt with THERMTRIP_L asserted until VIN48 is removed
(R415, R433). -/
def thermtrip (d : Dev) : Dev :=
  if !d.pwr.vauxOk || d.pwr.thermtrip then d
  else
    let d := d.powerLoss 0x1900
    { d with pwr := { d.pwr with thermtrip := true, mustFall := true } }

/-! ### Sensors (R415, R428, R431, R454) -/

/-- The hottest of the dies, the first among equals, and its temperature. -/
def hottest (l : List (BitVec 16)) : Nat × BitVec 16 :=
  (l.zipIdx).foldl (fun (acc : Nat × BitVec 16) (e : BitVec 16 × Nat) => if acc.2.slt e.1 then (e.2, e.1) else acc) (0, l.headD 0)

/-- TEMP_NOW: whole °C, no less than 0 and no more than 255. -/
def tempNow (t : BitVec 16) : BitVec 8 := BitVec.ofNat 8 (min 255 (t.toInt.toNat / 10))

/-- SENSOR_SAMPLE: the die sensors of every beat, with DIE_TEMP, and the trip at 115 °C; the power dies, with PD_TEMP; and PWR_TELEM
every 1,000 beats, with POWER_LIMIT.  While SYS_RST_L is low no alert is latched (R421). -/
def sensorSample (s : Sample) (d : Dev) : Dev :=
  if !d.pwr.vauxOk then d
  else if s.dies.any (fun t => decide ((1150 : Int) ≤ t.toInt)) && !d.pwr.thermtrip then thermtrip d
  else
    let hot := hottest s.dies
    let hotC := d.mgt.tempC.toNat * 10
    let tooBig := s.dies.any (fun t => decide ((hotC : Int) ≤ t.toInt))
    let d := { d with mgt := { d.mgt with
      hotDie := BitVec.ofNat 8 hot.1, tempNow := tempNow hot.2
      alerts := if tooBig && !d.pwr.sysRst then d.mgt.alerts.raise 0x10 else d.mgt.alerts } }
    if !d.pwr.ctlUp || d.pwr.sysRst then d
    else
      let d := { d with pwr := { d.pwr with pds := s.pds, sampleTs := d.now, hotTemp := hot.2 } }
      let d := if s.pds.any (fun p => decide ((1100 : Int) ≤ p.1.toInt)) then d.setPwrEvent 3 else d
      if d.since d.pwr.telemAt < 1000 then d
      else
        let d := { d with pwr := { d.pwr with telemAt := d.bt.beat, vinMv := s.vinMv, pkgMw := s.pkgMw } }
        if d.pwr.alertMw.toNat < s.pkgMw.toNat then d.setPwrEvent 2 else d

/-! ### Requests of domains (R434, R436) -/

/-- What R436 lets PWR_DOMAIN_REQ do: a link port off while DISABLED, a solver engine off while no plan is armed and on while it is in
service. -/
def Dev.domainReqOk (d : Dev) (k : Nat) (on : Bool) : Bool :=
  if 128 ≤ k && k < 152 then !on && (d.port (k - 128)).state == .disabled
  else if 165 ≤ k && k < 169 then
    (if on then (d.slv.getD (k - 165) {}).inService else !d.anyArmed)
  else false

/-- PWR_DOMAIN_REQ with GO: the domain is switched, or the request is ignored and shown in REQ_REFUSED. -/
def Dev.domainReq (d : Dev) (k : Nat) (on : Bool) : Dev :=
  if !d.domainReqOk k on then d.setPwrEvent 5
  else if on then d.powerUp k causeHost
  else d.powerDown k causeHost

/-! ### A domain that does not come up (R434) -/

/-- The units of a domain as UNIT_IDs; a domain that holds no unit of its own is named by its number. -/
def domainUnits (k : Nat) : List (BitVec 16) :=
  if k < 80 then [unitId 1 k]
  else if k < 96 then [unitId 3 (k - 80)]
  else if k < 128 then [unitId 2 (k - 96)]
  else if k < 152 then [unitId 4 (k - 128)]
  else if k < 160 then [unitId 5 (2 * (k - 152)), unitId 5 (2 * (k - 152) + 1)]
  else if k < 164 then [unitId 6 (k - 160)]
  else if 165 ≤ k && k < 169 then [unitId 7 (k - 165)]
  else [unitId 9 k]

/-- A unit whose domain did not come up leaves service, with the record 0x1A04. -/
def Dev.fenceDead (d : Dev) (u : BitVec 16) : Dev :=
  let n := unitNum u
  let d := match unitKind u with
    | 1 =>
      let d := d.modHealth (fun (h : Health) => { h with testedSince := h.testedSince.set n none })
      let d := { d with health := { d.health with recoveries := d.health.recoveries.map (fun (r : Recovery) =>
        if r.spare == some n && r.phase == RecPhase.fenced then { r with spare := none, phase := RecPhase.detected, fail := n } else r) } }
      d.setSiteState n .fenced
    | 4 => d.modPort n (fun p => { p with state := .fenced })
    | 5 => { d with col := { d.col with engines := d.col.engines.modify n (fun (g : Engine) => { g with inService := false }) } }
    | 6 => d.modStmPort n (fun p => { p with link := 0 })
    | 7 => d.slvFenceQueue n
    | _ => d
  if unitKind u = 6 || unitKind u = 9 then d.writeRecord (d.mkRec 3 0 0x1A04 u) else d.fenceUnit u 0 0x1A04

/-- A core site that fails the self-test of its bring-up (R435): fenced with SOURCE 10 and powered down; one that a plan has been mapped to
meanwhile is recovered from, and of a spare SPARE_IN_SERVICE brings the result. -/
def Dev.selfTestFailed (d : Dev) (n : Nat) : Dev :=
  match d.siteState n with
  | .held => (d.fenceSite n 10 none 0xFFFFFFFF none).powerDown n causeFence
  | .warm => (d.fenceSite n 10 none 0xFFFFFFFF none).powerDown n causeFence
  | .inService => d.testFailed { site := n, id := 1, start := none, prior := none }
  | _ => d

/-- The units of the domains that did not come up, and the sites that failed their self-test, are fenced by HLP (R434, R435). -/
def Dev.fenceDeads (d : Dev) : Dev :=
  let dead := d.pwr.deadDoms
  let bad := d.pwr.badSites
  let d := { d with pwr := { d.pwr with deadDoms := [], badSites := [] } }
  bad.foldl Dev.selfTestFailed (dead.foldl (fun (d : Dev) k => (domainUnits k).foldl Dev.fenceDead d) d)

/-- DOMAIN_RAMP_TIMEOUT: a domain has not reached regulation within 800 beats: it is powered down, DOMAIN_FAIL is set and its units are
fenced, once HLP runs (R434). -/
def domainRampTimeout (k : Fin 171) (d : Dev) : Dev :=
  match d.pwr.ramps.find? (fun e => e.1 == k.val) with
  | none => d
  | some e =>
    if d.since e.2.2 < 800 then d
    else
      let d := (d.discharge k.val).setPwrEvent 4
      let d := { d with pwr := { d.pwr with
        ramps := d.pwr.ramps.filter (fun (x : Nat × Nat × BitVec 52) => x.1 != k.val)
        waitDown := d.pwr.waitDown.filter (fun (x : Nat × Nat) => x.1 != k.val)
        deadDoms := d.pwr.deadDoms ++ [k.val] } }
      if d.runs 2 then d.fenceDeads else d

/-- DOMAIN_RAMP_DONE: a ramping domain is in regulation: GATED, with its DOMAIN_ENTER staged; a core site that no plan uses is wiped and
tests itself, `ok` being what it finds (R435); a power-down that waited follows (R434). -/
def domainRampDone (k : Fin 171) (ok : Bool) (d : Dev) : Dev :=
  match d.pwr.ramps.find? (fun e => e.1 == k.val) with
  | none => d
  | some e =>
    let d := { d with pwr := { d.pwr with ramps := d.pwr.ramps.filter (fun (x : Nat × Nat × BitVec 52) => x.1 != k.val) } }
    let d := (d.setDom k.val .gated).stageDomain 0x2011 k.val e.2.1
    let d := if k.val < 80 && d.siteState k.val != .inService then d.siteReset k.val else d
    let d := match d.pwr.waitDown.find? (fun w => w.1 == k.val) with
      | some w => ({ d with pwr := { d.pwr with waitDown := d.pwr.waitDown.filter (fun (x : Nat × Nat) => x.1 != k.val) } }).powerOff k.val w.2
      | none => d
    if ok || 80 ≤ k.val then d
    else
      let d := { d with pwr := { d.pwr with badSites := d.pwr.badSites ++ [k.val] } }
      if d.runs 2 then d.fenceDeads else d

/-- The domains that follow their units each beat (R306, R323, R436): link ports, link-die commons and fenced solver engines. -/
def Dev.settleDomains (d : Dev) : Dev :=
  if !d.firmwareUp then d
  else
    let d := (List.range 24).foldl (fun (d : Dev) p =>
      let st := (d.port p).state
      let want := st == .up || st == .training || st == .delayLong || (st == .failed && d.lnk.retrainEn)
      let k := 128 + p
      if want then (if d.dom k == .off then d.powerUp k causeOther else if d.dom k == .gated then d.setDom k .on else d)
      else if d.dom k == .off then d else d.powerDown k causeOther) d
    let d := (List.range 8).foldl (fun (d : Dev) k =>
      let idle := (List.range 3).all (fun i => d.dom (128 + 3 * k + i) == .off && ((d.port (3 * k + i)).state != .disabled || d.pwr.ready)) &&
        !(d.col.engines.getD (2 * k) {}).inService && !(d.col.engines.getD (2 * k + 1) {}).inService
      if idle then (if d.domUp (152 + k) then d.powerDown (152 + k) causeFence else d)
      else if d.dom (152 + k) == .off then d.powerUp (152 + k) causeOther else d) d
    (List.range 4).foldl (fun (d : Dev) e =>
      if !(d.slv.getD e {}).inService && d.domUp (165 + e) then d.powerDown (165 + e) causeFence else d) d

/-! ### Boot (R403, R404, R442, R443) -/

/-- The boot flash: where each of its areas begins and ends (R402).  No command of the device reaches beyond them. -/
def flashMap : List (String × Nat × Nat) :=
  [("firmware bank 0", 0x0000000, 0x1000000), ("firmware bank 1", 0x1000000, 0x2000000), ("health area", 0x2000000, 0x2010000),
   ("key area", 0x2010000, 0x2020000), ("boot record", 0x2020000, 0x2021000)]

/-- The magic of a firmware image (R403). -/
def fwMagic : Nat := 0x574D5246

/-- SCP's check of an image (R103, R403): its magic and length, its public key under a fused hash whose index is not revoked, and its
signature. -/
def Sec.verifies (s : Sec) (img : List Byte) : Bool :=
  let idx := Config.fwField img 3
  Config.fwField img 0 == fwMagic && decide (Config.fwField img 2 ≤ img.length) && decide (idx < 2) && !(idx == 0 && s.key0Revoked) &&
  sha384 (Config.fwKey img) == Config.keyHash idx && ecdsaOk (Config.fwKey img) (Config.fwSig img) (Config.fwSigned img)

/-- An image passes (R403): it verifies under a fused key that is not revoked, and its epoch is no less than MIN_EPOCH. -/
def Sec.passes (s : Sec) (b : Bank) : Bool :=
  (match b.image with | none => true | some img => s.verifies img) &&
  !(b.keyIndex = 0 && s.key0Revoked) && decide (s.minEpoch.toNat ≤ (b.version.extractLsb' 16 8).toNat)

/-- A stored key slot that fails its check reads as empty (R400). -/
def Dev.keyFails (d : Dev) (slot : Nat) : Dev :=
  if slot = 0 || slot = 6 || slot = 7 then
    ({ d with sec := { d.sec with slots := d.sec.slots.set slot .empty } }).writeRecord (d.mkRec 4 0 0x1800 (unitId 8 3))
  else d

/-- FIRMWARE_AUTH: the boot ROM tries the bank that the boot record names, then the other; with neither the device halts. The five
processors run, HLP takes the records that the latch holds for it, MIN_EPOCH rises to the image's epoch, and the wipe begins. `bad`
lists the key slots whose stored key the flash has lost, so that it fails its check (R291, R400, R403, R404, R442). -/
def firmwareAuth (bad : List (Fin 8)) (d : Dev) : Dev :=
  if d.pwr.phase != .auth || !d.pwr.ctlUp || d.pwr.sysRst then d
  else
    let s := d.sec
    let first := if s.bootBank then s.bank1 else s.bank0
    let other := if s.bootBank then s.bank0 else s.bank1
    if !s.passes first && !s.passes other then
      ({ d with fwp := d.fwp.modify 3 (fun (f : Fwp) => { f with state := .halted }) }.latchPush (d.mkRec 5 0 0x1801 (unitId 8 3))).haltDevice
    else
      let b := if s.passes first then first else other
      let epoch := b.version.extractLsb' 16 8
      let d := { d with
        sec := { s with activeBank := if s.passes first then s.bootBank else !s.bootBank, minEpoch := if s.minEpoch.toNat < epoch.toNat then epoch else s.minEpoch }
        fwp := d.fwp.map (fun (f : Fwp) => { f with state := .running, version := b.version })
        stks := d.stks.map (fun (t : Stk) => { t with wipeBusy := true })
        dscs := d.dscs.map (fun (t : Dsc) => { t with wipeBusy := true })
        pwr := { d.pwr with phase := .wipe, wiped := List.replicate 16 false } }
      let fails := areaSlots.zipIdx.filter (fun (e : Nat × Nat) => (d.sec.keyArea.getD e.2 .erased).fails && !bad.any (fun k => k.val == e.1))
      ((bad.map (·.val) ++ fails.map (·.1)).foldl Dev.keyFails d).takeHeld.fenceDeads

/-- CFG_DONE: the board configuration is written: the coordinate and the sizes stand, and every port that is not fenced and not on an
axis of size 1 trains; a write of CFG_DONE in another phase is ignored (R322, R323, R327, R443). -/
def Dev.startLinks (d : Dev) : Dev :=
  if d.pwr.phase != .waitCfg then d
  else
    let d := { d with
      pwr := { d.pwr with cfgDone := true, phase := .links }
      lnk := { d.lnk with coordUsed := BitVec.ofNat 15 (d.lnk.w.toNat * 4096 + d.lnk.xyz.toNat) } }
    (List.range 24).foldl (fun (d : Dev) p =>
      if (d.port p).state == .fenced || d.axisSize (axisOf (dirOf p)) = 1 then d
      else (d.modPort p (fun q => { q with state := .training })).powerUp (128 + p) causeOther) d

/-! ### Commands -/

/-- FIRMWARE_AUTH (R403). -/
def execFirmwareAuth (bad : List (Fin 8)) (st : State) : Out State := run (firmwareAuth bad) st
/-- DOMAIN_RAMP_DONE (R434). -/
def execDomainRampDone (k : RampEnd) (st : State) : Out State := run (domainRampDone k.dom k.ok) st
/-- VIN_RISE (R429). -/
def execVinRise (s : State) : Out State := run vinRise s
/-- VIN_OUT_OF_RANGE (R428). -/
def execVinOutOfRange (high : Bool) (st : State) : Out State := run (vinOutOfRange high) st
/-- VIN_UNDERVOLTAGE (R430). -/
def execVinUndervoltage (s : State) : Out State := run vinUndervoltage s
/-- VIN_OVERVOLTAGE (R430). -/
def execVinOvervoltage (s : State) : Out State := run vinOvervoltage s
/-- POWER_DIE_FAULT (R430). -/
def execPowerDieFault (die : Fin 4) (st : State) : Out State := run (powerDieFault die) st
/-- VAUX_LOSS (R430). -/
def execVauxLoss (s : State) : Out State := run vauxLoss s
/-- THERMTRIP (R415). -/
def execThermtrip (s : State) : Out State := run thermtrip s
/-- DOMAIN_RAMP_TIMEOUT (R434). -/
def execDomainRampTimeout (k : Fin 171) (st : State) : Out State := run (domainRampTimeout k) st
/-- SENSOR_SAMPLE (R431). -/
def execSensorSample (s : Sample) (st : State) : Out State := run (sensorSample s) st

end Sys2Proof.Machine
end

