-- ==== Sys2Proof/Machine/Beat.lean ====
section
/-! DEFINITION. The beat timebase and the election (file 02), the end of link training, and the watchdogs of the firmware
processors (R61, R327). -/

namespace Sys2Proof.Machine

def Dev.modBt (d : Dev) (f : Bt → Bt) : Dev := { d with bt := f d.bt }
/-- A bit of BT_EVENTS set. -/
def Dev.setBtEvent (d : Dev) (i : Nat) : Dev := d.modBt (fun b => { b with events := b.events.raise (BitVec.ofNat 6 (2 ^ i)) })

/-! ### Sources (R35 to R37, R41) -/

/-- The device follows a master: as FOLLOWER, or in CONFLICT once the election has settled (R53). -/
def Bt.follows (b : Bt) : Bool := b.elect == .follower || (b.elect == .conflict && b.settled)

/-- The frequency reference of the device's role (R35, R45).  DESIGN CHOICE: a follower that has neither a qualified BEAT_IN nor an
upstream port keeps the recovered clock it has, and otherwise runs from BT_REFCLK, shown as 0 (log entry 96). -/
def Bt.source (b : Bt) : BitVec 3 :=
  if b.holdover then (if b.elect == .master && b.beatInQualified then 1 else 3)
  else if b.elect == .master then (if b.beatInQualified then 1 else 3)
  else if b.follows then (if b.beatInQualified then 1 else if b.upstreamPort != 0x1F then 2 else if b.activeSrc = 1 then 0 else b.activeSrc)
  else if b.settled || b.everSettled then b.activeSrc else 0

/-- ACTIVE_SRC follows the role; a change sets SRC_CHANGE. -/
def Dev.chooseSrc (d : Dev) : Dev :=
  let s := d.bt.source
  if s = d.bt.activeSrc then d else (d.modBt (fun b => { b with activeSrc := s })).setBtEvent 2

/-- BEAT_IN_QUALIFY: 256 periods in a row within tolerance, with BEAT_IN_EN at 1 (R36, R37). -/
def beatInQualify (d : Dev) : Dev :=
  if d.pwr.ctlUp && !d.pwr.sysRst && d.bt.beatInEn && !d.bt.beatInQualified then
    (d.modBt (fun b => { b with beatInQualified := true, beatOut := .repeatIn })).chooseSrc
  else d

/-- BEAT_IN is no longer qualified. -/
def Dev.unqualify (d : Dev) : Dev :=
  if d.bt.beatInQualified then (d.modBt (fun b => { b with beatInQualified := false, beatOut := .own })).chooseSrc else d

/-- BEAT_IN_DISQUALIFY: two edges missing or four periods out of tolerance (R36). -/
def beatInDisqualify (d : Dev) : Dev := d.unqualify

/-- PLL_LOCK: the first lock after a reset: the counter starts at 0, and AUTH begins (R41, R42, R442). -/
def pllLock (d : Dev) : Dev :=
  if !d.pwr.ctlUp || d.pwr.sysRst || d.bt.locked || d.pwr.phase == .halted then d
  else
    let d := d.modBt (fun b => { b with
      locked := true, everLocked := true, beat := 0, cyc := 0
      beatOut := if b.beatInQualified then .repeatIn else .own })
    if d.pwr.phase == .reset then ({ d with pwr := { d.pwr with phase := .auth } }).powerBoot else d

/-! ### Markers (R38, R39, R42, R49) -/

/-- The core cycle whose fraction is the last not above `f` (R43). -/
def cycOf (f : Nat) : Fin 150 := Fin.ofNat 150 (((f + 1) * 150 - 1) / 4096)

/-- The counter takes a TS64. -/
def Dev.setTs (d : Dev) (v : BitVec 64) : Dev :=
  d.modBt (fun b => { b with beat := v.extractLsb' 12 52, cyc := cycOf (v.toNat % 4096) })

/-- Ports that are up, but for one. -/
def Dev.otherUp (d : Dev) (p? : Option Nat) : List Nat :=
  (List.range 24).filter (fun p => (d.port p).state == .up && p? != some p)

/-- A marker waits on each of some ports. -/
def Dev.sendMarkers (d : Dev) (ports : List Nat) (m : Marker) : Dev :=
  ports.foldl (fun (d : Dev) p => d.modPort p (fun q => q.enqueue { type := 3, dest := q.nbr, src := d.coord, body := .marker m })) d

/-- BEAT_MARKER_SEND: the master's marker on every port, every MARK_INTERVAL beats (R38). -/
def beatMarkerSend (d : Dev) : Dev :=
  if d.bt.elect == .master && d.bt.markInterval.toNat ≤ d.since d.bt.markSentBeat then
    (d.sendMarkers (d.otherUp none) { ts := d.now, hop := 0, interval := d.bt.markInterval.setWidth 16 }).modBt
      (fun b => { b with markSentBeat := d.bt.beat })
  else d

/-- The upstream port: the lowest hop count, and the lowest number among equals (R38). -/
def Dev.bestPort (d : Dev) : Option Nat :=
  ((List.range 24).foldl (fun (acc : Option (Nat × Nat)) p =>
    match d.bt.portHop.getD p none with
    | none => acc
    | some h =>
      if (d.port p).state != .up then acc
      else match acc with
        | none => some (p, h.toNat)
        | some a => if h.toNat < a.2 then some (p, h.toNat) else acc) none).map (·.1)

/-- A signed offset as BT_OFFSET holds it. -/
def offsetReg (v : Int) : BitVec 32 := BitVec.ofInt 32 (max (-2147483648) (min 2147483647 v))

/-- Running plans stop at their next chunk boundaries and pause with a cause (R46, R61).  DESIGN CHOICE: a plan that is armed and not
started yet has no chunk boundary to stop at and stays armed; it is not paused (log entry 94). -/
def Dev.stopPlans (d : Dev) (cause : BitVec 16) : Dev :=
  let run := (d.plans.filter (fun p => p.state == .running)).map (·.handle)
  let d := { d with plans := d.plans.map (fun (p : Plan) => if p.state == .running && p.stopping.isNone then { p with stopping := some cause } else p) }
  run.foldl Dev.settlePlan d

/-- The phase error still to be slewed out after a measured offset: at 100 ppm, 4,096 of these units go in a beat (R39, R49). -/
def slewOf (off : Int) : Int := 10000 * off

/-- The offset found on the return of markers: recorded, and slewed out up to 16 beats; above, the counter is stepped once every
plan has paused (R49). -/
def Dev.regained (d : Dev) (off : Int) : Dev :=
  let r := (d.mkRec 0 12 0x0700 0).withDetail [(32, bytesLE 4 (offsetReg off).toNat), (36, bytesLE 4 d.bt.holdoverBeats.toNat)]
  let far := 16 * 4096 < off.natAbs
  let d := (d.setBtEvent 1).writeRecord r
  let d := d.modBt (fun b => { b with
    holdover := false, slewing := !far, slewRest := if far then 0 else slewOf off
    stepBy := if far then some (BitVec.ofInt 64 off) else none })
  if far then d.stopPlans 0x0700 else d

/-- A marker of the upstream port taken: the first sets the counter, each later one the phase error that is slewed out, or the step
that waits (R39, R42, R49).  DESIGN CHOICE: where the local count is ahead, the counter and TS64 are set back (log entry 93). -/
def Dev.takeMarker (d : Dev) (p : Nat) (m : Marker) : Dev :=
  let off := (m.arrived - (m.ts + (d.port p).delayTs.setWidth 64)).toInt
  let d := d.modBt (fun b => { b with
    upstreamPort := BitVec.ofNat 5 p, offset := offsetReg off, followInterval := m.interval.setWidth 12 })
  let d :=
    if !d.bt.countValid then
      let d := if d.bt.holdover then d.regained off else d
      (d.setTs (d.now - BitVec.ofInt 64 off)).modBt (fun b => { b with
        countValid := true, slewing := false, slewRest := 0, stepBy := none, lastMarkBeat := b.beat })
    else if d.bt.holdover then d.regained off
    else if d.bt.stepBy.isSome then d.modBt (fun b => { b with stepBy := some (BitVec.ofInt 64 off) })
    else d.modBt (fun b => { b with slewRest := slewOf off })
  (d.sendMarkers (d.otherUp (some p)) { m with hop := m.hop + 1 }).chooseSrc

/-- A device whose election has not settled when a master's marker reaches it adopts that master (R54); a new one is the holder of the
lowest claim, to which it has withdrawn. -/
def Dev.adopt (d : Dev) : Dev :=
  if d.bt.settled || d.bt.elect == .idle then d
  else
    let key := match d.bt.lowest with | some c => if d.bt.claims then d.bt.masterKey else c.key | none => d.bt.masterKey
    let d := if d.bt.everSettled && !d.bt.claims && d.bt.lowest.isSome then d.setBtEvent 3 else d
    let d := d.modBt (fun b => { b with
      elect := if b.conflict then .conflict else .follower, settled := true, everSettled := true, claims := false, masterKey := key })
    if d.pwr.phase == .elect then { d with pwr := { d.pwr with phase := .ready, ready := true } } else d

/-- BEAT_MARKER_RECEIVE: the marker that waits in a port's buffer (R38, R39, R321). -/
def beatMarkerReceive (port : Fin 24) (d : Dev) : Dev :=
  let p := port.val
  match d.bt.markerIn.getD p none with
  | none => d
  | some m =>
    let d := d.modBt (fun b => { b with markerIn := b.markerIn.set p none })
    if !d.bt.linkMarkEn || d.bt.elect == .master || (d.port p).state != .up || !d.bt.locked then d
    else
      let d := d.adopt
      if !d.bt.follows then d
      else
        let d := d.modBt (fun b => { b with portHop := b.portHop.set p (some m.hop), lastMarkTs := m.ts, lastMarkBeat := b.beat })
        if d.bestPort = some p then d.takeMarker p m else d

/-- COUNTER_STEP: the beats since the last marker count on across the step (R45); with every running plan paused, the counter is stepped
to the master's count (R49). DESIGN CHOICE: a count ahead of the master's is stepped back, and TS64 with it, though R44 says that TS64
values never decrease (log entry 93). -/
def counterStep (d : Dev) : Dev :=
  match d.bt.stepBy with
  | none => d
  | some off =>
    if d.plans.any (fun p => p.state == .running) then d
    else
      let old := d.now
      let new := old - off
      let gone := d.bt.beat - d.bt.lastMarkBeat
      let d := (d.setTs new).modBt (fun b => { b with stepBy := none, slewRest := 0, lastMarkBeat := new.extractLsb' 12 52 - gone })
      (d.setBtEvent 5).writeRecord ((d.mkRec 0 12 (Config.recordCode 1).toNat 0).withDetail [(32, bytesLE 8 old.toNat), (40, bytesLE 8 new.toNat)])

/-- What a beat slews: the phase error falls by 100 ppm of the beat (R39, R49). -/
def Bt.slew (b : Bt) : Bt :=
  { b with slewRest := if 0 ≤ b.slewRest then max 0 (b.slewRest - 4096) else min 0 (b.slewRest + 4096) }

/-- SLEW_END: the offset still to be slewed out is under 1 ns, a hundredth of a beat (R49). -/
def slewEnd (d : Dev) : Dev :=
  if d.bt.slewing && d.bt.slewRest.natAbs < 409600 then d.modBt (fun b => { b with slewing := false }) else d

/-! ### Elections (R50 to R54) -/

/-- The device's ELECTION_KEY (R50). -/
def Dev.ownKey (d : Dev) : BitVec 59 := (d.pwr.priority ++ d.bt.serial) ++ d.keyCoord
/-- DEVICE_UID as a number. -/
def ownUid : BitVec 128 := BitVec.ofNat 128 (leNat uidBytes)
def Dev.ownClaim (d : Dev) : Claim := ⟨d.ownKey, ownUid⟩

/-- A claim sent on some ports (R51). -/
def Dev.sendClaim (d : Dev) (ports : List Nat) (c : Claim) : Dev :=
  ports.foldl (fun (d : Dev) p => d.modPort p (fun q => q.enqueue { type := 4, dest := q.nbr, src := d.coord, body := .claim c })) d

/-- An election starts; a device in CONFLICT takes no part (R51, R53). -/
def Dev.startElection (d : Dev) : Dev :=
  let mine := !d.bt.conflict
  let c := d.ownClaim
  let d := d.modBt (fun b => { b with
    elect := if mine then .claiming else .conflict, settled := false, claims := mine, lowest := if mine then some c else none, claimBeat := b.beat })
  if mine then d.sendClaim (d.otherUp none) c else d

/-- The device's key is held by another device too (R53). -/
def Dev.keyConflict (d : Dev) (other : BitVec 128) : Dev :=
  if d.bt.conflict then d
  else
    let d := d.modBt (fun b => { b with
      elect := .conflict, conflict := true, claims := false
      lowest := if b.claims then none else b.lowest
      claimBeat := if b.claims then b.beat else b.claimBeat })
    (d.setBtEvent 4).writeRecord ((d.mkRec 0 12 0x0701 0).withDetail [(32, bytesLE 16 ownUid.toNat), (48, bytesLE 16 other.toNat)])

/-- CLAIM_RECEIVE: the first claim that waits: the device's own comes back and is ignored, an equal key is a conflict, and in an
election a lower claim is forwarded and makes the device withdraw; after settlement none is taken (R51 to R54). -/
def claimReceive (d : Dev) : Dev :=
  match d.takeInbox (fun x => match x.2.body with | .claim _ => true | _ => false) with
  | none => d
  | some ((p, f), d) =>
    match f.body with
    | .claim c =>
      if c.origin = ownUid then d
      else if c.key = d.ownKey then d.keyConflict c.origin
      else if d.bt.settled || d.bt.elect == .idle then d
      else
        let lower := match d.bt.lowest with | none => true | some l => decide (c.key.toNat < l.key.toNat)
        if !lower then d
        else
          (d.modBt (fun b => { b with lowest := some c, claimBeat := b.beat, claims := b.claims && decide (d.ownKey.toNat < c.key.toNat) })).sendClaim
            (d.otherUp (some p)) c
    | _ => d

/-- ELECTION_SETTLE: no lower claim for 1,024 beats: the holder of the lowest key is the master and the others follow; the first
election after a reset ends the boot (R42, R51, R54, R442). -/
def electionSettle (d : Dev) : Dev :=
  if d.bt.settled || d.bt.elect == .idle || d.since d.bt.claimBeat < 1024 then d
  else
    let key := match d.bt.lowest with | some c => c.key | none => d.bt.masterKey
    let d := if d.bt.everSettled then d.setBtEvent 3 else d
    let d := d.modBt (fun b => { b with settled := true, everSettled := true, masterKey := key })
    let d :=
      if d.bt.claims then
        d.modBt (fun b => { b with
          elect := .master, claims := false, countValid := true, holdover := false, slewing := false, slewRest := 0, stepBy := none, upstreamPort := 0x1F
          markSentBeat := b.beat - b.markInterval.setWidth 52 })
      else d.modBt (fun b => { b with
          elect := if b.conflict then .conflict else .follower, lastMarkBeat := if b.holdover then b.lastMarkBeat else b.beat })
    let d := d.chooseSrc
    if d.pwr.phase == .elect then { d with pwr := { d.pwr with phase := .ready, ready := true } } else d

/-! ### Holdover (R45, R46) -/

/-- HOLDOVER_ENTRY: no marker on any port for three intervals; a new election starts (R45, R51, R54). -/
def holdoverEntry (d : Dev) : Dev :=
  if !d.bt.follows || d.bt.holdover || d.since d.bt.lastMarkBeat < 3 * d.bt.followInterval.toNat then d
  else
    let d := d.modBt (fun b => { b with
      holdover := true, holdoverBeats := 0, slewing := false, slewRest := 0, stepBy := none, upstreamPort := 0x1F, portHop := List.replicate 24 none })
    let d := d.chooseSrc.setBtEvent 0
    let d := d.writeRecord ((d.mkRec 0 12 0x0700 0).withDetail [(32, bytesLE 8 d.bt.lastMarkTs.toNat)])
    d.startElection

/-- HOLDOVER_PAUSE: 100,000 beats of holdover have passed: cores stop at their next chunk boundaries and the plans pause (R46). -/
def holdoverPause (d : Dev) : Dev :=
  if d.bt.holdover && 100000 ≤ d.bt.holdoverBeats.toNat then d.stopPlans 0x0700 else d

/-! ### The end of training (R327) -/

/-- Training of a port as a dead link finds it. -/
def deadTrain : TrainIn := ⟨false, [], false, 0x7FFF, 0, 0, 0, 0, 0, 0, []⟩

/-- TRAINING_DONE: every port that trains ends its training, and the election starts; a direction of which no port is up is
lost: a port that is not up counts as failed (R51, R326, R327, R442). -/
def trainingDone (found : List TrainIn) (d : Dev) : Dev :=
  let ports := (List.range 24).filter (fun p => (d.port p).state == .training)
  if d.pwr.phase != .links || !d.runs 4 || ports.any (fun p => !d.domUp (128 + p)) then d
  else
    let d := ports.foldl (fun (d : Dev) p => d.trainPort p (found.getD p deadTrain)) d
    let d := (List.range 8).foldl (fun (d : Dev) dir =>
      if d.axisSize (axisOf dir) = 1 then d else d.directionLost dir (unitId 4 ((portsOf dir).getD 0 0))) d
    ({ d with pwr := { d.pwr with phase := .elect } }).startElection

/-! ### Watchdogs of the firmware processors (R61) -/

/-- PROCESSOR_WATCHDOG_EXPIRY (R61): a chunk that HLP was recovering recomputes after the resume (R371); HP and LKP restart; with BSP
plans pause after the step that the sequencer holds, with HLP at their next chunk boundaries; with SCP the device halts. -/
def processorWatchdogExpiry (i : Fin 5) (d : Dev) : Dev :=
  if !d.runs i.val then d
  else
    let r := d.mkRec (if i.val = 3 then 5 else 2) 0 0x0900 (unitId 8 i.val)
    if i.val = 3 then ((d.modFw 3 (fun f => { f with state := .halted })).writeRecord r).haltDevice
    else
      let d := (d.modFw i.val (fun f => { f with state := .restarting, restarts := satInc f.restarts })).writeRecord r
      match i.val with
      | 1 =>
        let run := (d.plans.filter (fun p => p.state == .running)).map (·.handle)
        let d := { d with plans := d.plans.map (fun (p : Plan) =>
          if p.state == .running && p.stopping.isNone then
            (if d.stepBegun p p.curStep then { p with stopAfter := some p.curStep } else { p with stopping := some 0x0900 })
          else p) }
        run.foldl Dev.settlePlan d
      | 2 =>
        let d := { d with health := { d.health with recoveries := d.health.recoveries.map (fun (r : Recovery) => { r with late := true }) } }
        d.stopPlans 0x0900
      | _ => d

/-- A result that HP had not yet written out when it restarted is INTERNAL; the rejections and the repeats of a kept response stand
(R61). -/
def Dev.lostDone (d : Dev) (r : Done) : Done :=
  if r.payload.isNone || (r.status.toNat = sOkDuplicate && (d.chan r.chan).keptResp.isSome) then r
  else { r with
    status := if r.status.toNat = sOkDuplicate then r.status else BitVec.ofNat 16 sInternal
    payload := some (resultPayload sInternal []) }

/-- PROCESSOR_RESTART_DONE: the processor runs its authenticated image again. HP ends every request accepted and not yet
answered with INTERNAL; BSP takes what waits in its rings; HLP copies the latch's held records to the log, and fences the units of the
domains that did not come up meanwhile (R56, R61, R386, R434). -/
def processorRestartDone (i : Fin 5) (d : Dev) : Dev :=
  if (d.fw i.val).state != .restarting then d
  else
    let d := d.modFw i.val (fun f => { f with state := .running })
    if i.val = 1 then d.serveRings
    else if i.val = 0 then
      d.reqs.foldl (fun (d : Dev) r => d.finishReq r sInternal []) { d with dones := d.dones.map d.lostDone }
    else if i.val = 2 then d.takeHeld.fenceDeads
    else d

/-! ### Commands -/

/-- PROCESSOR_RESTART_DONE (R61). -/
def execProcessorRestartDone (i : Fin 5) (st : State) : Out State := run (processorRestartDone i) st
/-- BEAT_IN_QUALIFY (R36). -/
def execBeatInQualify (s : State) : Out State := run beatInQualify s
/-- BEAT_IN_DISQUALIFY (R36). -/
def execBeatInDisqualify (s : State) : Out State := run beatInDisqualify s
/-- PLL_LOCK (R41). -/
def execPllLock (s : State) : Out State := run pllLock s
/-- BEAT_MARKER_SEND (R38). -/
def execBeatMarkerSend (s : State) : Out State := run beatMarkerSend s
/-- BEAT_MARKER_RECEIVE (R39). -/
def execBeatMarkerReceive (port : Fin 24) (st : State) : Out State := run (beatMarkerReceive port) st
/-- COUNTER_STEP (R49). -/
def execCounterStep (s : State) : Out State := run counterStep s
/-- SLEW_END (R49). -/
def execSlewEnd (s : State) : Out State := run slewEnd s
/-- HOLDOVER_ENTRY (R45). -/
def execHoldoverEntry (s : State) : Out State := run holdoverEntry s
/-- HOLDOVER_PAUSE (R46). -/
def execHoldoverPause (s : State) : Out State := run holdoverPause s
/-- CLAIM_RECEIVE (R51). -/
def execClaimReceive (s : State) : Out State := run claimReceive s
/-- ELECTION_SETTLE (R51). -/
def execElectionSettle (s : State) : Out State := run electionSettle s
/-- PROCESSOR_WATCHDOG_EXPIRY (R61). -/
def execProcessorWatchdogExpiry (i : Fin 5) (st : State) : Out State := run (processorWatchdogExpiry i) st
/-- TRAINING_DONE (R327). -/
def execTrainingDone (found : List TrainIn) (st : State) : Out State := run (trainingDone found) st

end Sys2Proof.Machine
end

