-- ==== Sys2Proof/Machine/Chekor.lean ====
section
/-! DEFINITION. The Chekor messages about the device, its sessions and its plans (R83 to R90, R96, R107).  Each is executed by its
owner once it is that owner's oldest request (R60). -/

namespace Sys2Proof.Machine

/-! ### Payloads -/

/-- The function that sent a request (R82). -/
def Req.func (r : Req) : Nat := chanFunc r.chan
/-- Payload bytes that must be 0 (R81). -/
def zeroBytes (p : List Byte) (o n : Nat) : Bool := ((p.drop o).take n).all (· == 0)

/-- The beat is in holdover or slewing (R46, R85). -/
def Dev.beatLost (d : Dev) : Bool := d.bt.holdover || d.bt.slewing || d.bt.stepBy.isSome

/-- The live or retired plan that a request names, if its function holds it (R82). -/
def Dev.planFor (d : Dev) (r : Req) (p : List Byte) : Option Plan :=
  (d.plan? (BitVec.ofNat 16 (fieldLE p 0 2))).filter (fun q => q.func == r.func)

/-! ### Device information (R96, R97) -/

def countStates (d : Dev) (f : SiteState → Bool) : Nat := (d.health.siteStates.filter f).length
/-- Bit n for each n under 24 whose port satisfies `f`. -/
def portMask (d : Dev) (f : Port → Bool) : Nat := ((List.range 24).map (fun p => if f (d.port p) then 2 ^ p else 0)).sum
/-- Tenancies in existence, bit n for tenancy n, counting from `from?`. -/
def tenancyBits (d : Dev) : Nat := ((List.range 4).map (fun i => if d.tenancyExists (i + 1) then 2 ^ (i + 1) else 0)).sum

/-- DEVICE_INFO (R96). -/
def deviceInfo (d : Dev) : Dev := d.serve 0x0100 (fun d _ _ =>
  (d, .done sOk (bytesLE 4 0x00040064 ++ [0xA0, 1, d.sec.lcState.setWidth 8, BitVec.ofNat 8 d.lnk.cls] ++
    bytesLE 4 (d.fw 0).version.toNat ++ bytesLE 5 d.bt.serial.toNat ++ bytesLE 2 d.keyCoord.toNat ++
    [BitVec.ofNat 8 (d.siteOf.filter (fun s => decide (s < 80))).length, BitVec.ofNat 8 (countStates d (fun s => s == .held || s == .warm)),
     BitVec.ofNat 8 (tenancyBits d)] ++ List.replicate 6 0)))

/-- The power domain of a die by its number in the order of R19 (R432): compute, SRAM, link, control, stream, solver and power
dies.  DESIGN CHOICE: of a die that carries several domains, one stands for it: a compute die's uncore, a solver die's first engine (R96;
log entry 102). -/
def dieDomain (n : Nat) : Nat :=
  if n < 16 then 80 + n else if n < 48 then 96 + (n - 16) else if n < 56 then 152 + (n - 48) else if n = 57 then 164
  else if n = 58 then 165 else if n = 59 then 167 else 255

/-- Sites that stand fenced: those under test after a fence and those lost are among them (R96). -/
def Dev.fencedSites (d : Dev) : Nat :=
  countStates d (fun s => s == .fenced || s == .permanent || s == .lost) +
    (d.health.tests.filter (fun (t : TestRun) => t.prior == some .fenced || t.prior == some .permanent)).length

/-- TELEMETRY (R96). -/
def telemetry (d : Dev) : Dev := d.serve 0x0307 (fun d _ _ =>
  (d, .done sOk (bytesLE 4 d.pwr.pkgMw.toNat ++ d.pwr.pds.flatMap (fun p => bytesLE 4 p.2.toNat) ++ bytesLE 2 d.pwr.hotTemp.toNat ++
    bytesLE 2 (unitId 9 (dieDomain d.mgt.hotDie.toNat)).toNat ++
    [BitVec.ofNat 8 (countStates d (· == .inService)), BitVec.ofNat 8 d.fencedSites, 0, 0] ++
    bytesLE 8 d.pwr.sampleTs.toNat)))

/-- BT_STATUS as it reads (02, BT registers). -/
def Bt.status (b : Bt) : BitVec 64 :=
  let e : Nat := match b.elect with | .idle => 0 | .claiming => 1 | .follower => 2 | .master => 3 | .conflict => 4
  BitVec.ofNat 64 (b.upstreamPort.toNat * 65536 + e * 4096 + b.activeSrc.toNat * 16 + b2n b.slewing * 8 + b2n b.holdover * 4 +
    b2n b.locked * 2 + b2n b.countValid)

/-- A port runs on its hot-spare lane: the spare carries a lane that failed, and has not failed itself (R315). -/
def Port.onSpare (p : Port) : Bool := p.state == .up && (decide (p.spareLane.toNat < 8) || decide (p.spareTx.toNat < 8))

/-- LINK_STATUS (R96). -/
def linkStatus (d : Dev) : Dev := d.serve 0x0500 (fun d _ _ =>
  (d, .done sOk (bytesLE 4 (portMask d (·.state == .up)) ++ bytesLE 4 (portMask d (·.state == .failed)) ++
    bytesLE 4 (portMask d Port.onSpare) ++ bytesLE 8 d.bt.status.toNat)))

/-- CORE_MAP (R97): RESPONSE_PLACE puts in the map as it stands then. -/
def coreMap (d : Dev) : Dev := d.serve 0x0308 (fun d r _ => (d, .done sOk (d.coreMapFields r.func)))

/-! ### Sessions (R83, R84) -/

/-- The factory key of a slot (R399). -/
def factoryKey (slot : Nat) : List Byte := hkdfExpand kDevBytes (ascii "FACTORY" ++ [BitVec.ofNat 8 slot])

/-- The key that a slot holds (R400). -/
def Sec.slotKey (s : Sec) (slot : Nat) : Option (List Byte) :=
  match s.slots.getD slot .empty with
  | .factory => some (factoryKey slot)
  | .empty => none
  | .key bs => some bs

/-- A new session number: the free value, or the next after it that is neither 0 nor one given on the channel before (R83). -/
def Chan.newNumber (c : Chan) (n : BitVec 32) : BitVec 32 :=
  (((List.range (c.numbers.length + 2)).map (fun i => n + BitVec.ofNat 32 i)).find? (fun k => k != 0 && !c.numbers.contains k)).getD n

/-- SESSION_OPEN (R83, R401). -/
def sessionOpen (d : Dev) : Dev := d.serve 0x0101 (fun d r p =>
  match d.sec.slotKey r.chan with
  | none => (d, .reject sBadState)
  | some key =>
    let (k, d) := d.draw
    let n := (d.chan r.chan).newNumber (Config.sessionNumber k)
    let nonce := bytesLE 16 (Config.nonce k).toNat
    let s : Session := { number := n, key := sessionKey key p nonce r.chan n }
    (d.modChan r.chan (fun c => { c with session := some s, numbers := c.numbers ++ [n] }), .done sOk (bytesLE 4 n.toNat ++ nonce)))

/-- SESSION_CLOSE (R84). -/
def sessionClose (d : Dev) : Dev := d.serve 0x0102 (fun d r _ =>
  (d.modChan r.chan (fun c => { c with session := none }), .done sOk []))

/-! ### Admission (R85, R110, R113) -/

/-- The fields of a PLAN_ADMIT result. -/
def admitFields (handle reason steps step margin : Nat) (cores : List Nat) : List Byte :=
  bytesLE 2 handle ++ bytesLE 2 reason ++ bytesLE 4 steps ++ bytesLE 4 step ++ bytesLE 4 margin ++ bytesLE 9 ((cores.map (2 ^ ·)).sum)

/-- The next handle: in ascending order, passing 0 and the handles of live plans. -/
def Dev.nextHandle (d : Dev) : Nat → BitVec 16 → BitVec 16
  | 0, h => h
  | fuel + 1, h => if h = 0 || d.plans.any (fun p => p.live && p.handle == h) then d.nextHandle fuel (h + 1) else h

/-- A plan admitted: it holds its cores, whose queues are at their reset values and which have no site yet (R97, R113, R126). -/
def Dev.admitPlan (d : Dev) (func addr len : Nat) (img : PlanImg) : Dev × Plan :=
  let h := d.nextHandle 16 (d.lastHandle + 1)
  let cores := (d.freeCores func).take img.nCores
  let p : Plan :=
    { handle := h, func := func, img := img, cores := cores, imageAddr := addr, imageLen := len
      chunkStates := List.replicate img.chunks.length .waiting, ventStates := List.replicate img.vents.length .waiting
      slotStates := List.replicate img.slots.length .waiting }
  let d := cores.foldl (fun (d : Dev) c => { d.modCq c (fun _ => {}) with siteOf := d.siteOf.set c 0xFE }) d
  ({ d with plans := d.plans.filter (fun (q : Plan) => q.handle != h) ++ [p], lastHandle := h }, p)

/-- PLAN_ADMIT (R85, R110).  DESIGN CHOICE: with the beat lost and a conflict at once the result is BEAT_LOST (R53; log entry 95);
it waits while a wipe holds its image (R290);
STEPS is 0 where the image fails its own checks (R85; log entry 98); a MIN_MARGIN beyond its field saturates (R111; log entry 98). -/
def planAdmit (d : Dev) : Dev := d.serve 0x0200 (fun d r p =>
  let addr := fieldLE p 0 8
  let len := fieldLE p 8 4
  if len = 0 || !zeroBytes p 12 4 || !d.funcOwns r.func addr len then (d, .reject sBadField)
  else if d.sec.lcState = 3 then (d, .reject sLifecycleDenied)
  else if 2 ≤ (d.plans.filter (fun q => q.live && q.func == r.func)).length then (d, .reject sBadState)
  else if d.wipeHolds addr len then (d, .wait)
  else if d.beatLost then (d, .done sBeatLost (admitFields 0 0 0 noStep 0 []))
  else if d.bt.elect == .conflict then (d, .done sElectConflict (admitFields 0 0 0 noStep 0 []))
  else
    match d.admission r.func addr len with
    | .fail reason steps step =>
      let d := match d.mem.poisoned? addr len with | some w => d.countPoison (64 * w) | none => d
      (d, .done sNotAdmitted (admitFields 0 reason steps step 0 []))
    | .ok img margin =>
      let (d, q) := d.admitPlan r.func addr len img
      (d, .done sOk (admitFields q.handle.toNat 0 img.steps.length noStep margin q.cores)))

/-! ### Arming (R86, R115) -/

/-- A beat that a request names: 52 bits, and at least 2,000 beats after the request was accepted, the wrap being an ordinary increment
(R43, R86). -/
def beatOk (r : Req) (b : Nat) : Bool := decide (b < 2 ^ 52) && decide (2000 ≤ beatDiff r.acceptBeat (BitVec.ofNat 52 b))

/-- A core site at arming: its counters cleared, its sets EMPTY, its rows without an anchor (R155, R158, and the registers of files 07,
09 to 11, 13). -/
def Site.arm (s : Site) : Site :=
  { lbk := { grant := s.lbk.grant, demand := s.lbk.demand, holding := s.lbk.holding, hold := s.lbk.hold, spareMap := s.lbk.spareMap
             checkErr := s.lbk.checkErr, checkCnt := s.lbk.checkCnt }
    qnt := { histo := s.qnt.histo, twoPass := s.qnt.twoPass, flags := s.qnt.flags }
    acc := { flags := s.acc.flags }
    mvp := { flags := s.mvp.flags, checkErr := s.mvp.checkErr }
    ccr := { sig := s.ccr.sig, err := s.ccr.err, faultThread := s.ccr.faultThread, faultValid := s.ccr.faultValid, faultPc := s.ccr.faultPc
             checkCnt := s.ccr.checkCnt } }

/-- A site that may be mapped at arming: held or warm, and not in the crater table (R115, R374). -/
def Dev.mappable (d : Dev) : List Nat :=
  (List.range 80).filter (fun s => (d.siteState s == .held || d.siteState s == .warm) && (d.crater? (siteUnit s)).isNone)

/-- A core of a plan mapped to a site, which is set up for it, and wiped where it was cold (R435); without a site the core has none; its
history records are zero either way (R115, R197, R253). -/
def Dev.armCore (d : Dev) (p : Plan) (i : Nat) : Dev :=
  let c := p.devCore i
  let n := (((p.img.layout.hists.find? (fun h => h.core == i)).map (·.n)).getD 0)
  let d := d.zeroRecords p i (List.range n)
  let l := d.mappable
  if l.isEmpty then { d with siteOf := d.siteOf.set c 0xFE }
  else
    let (k, d) := d.draw
    let s := l.getD (Config.mapPick k l.length % l.length) 0
    let d := d.setSiteState s .inService
    let d := if d.domUp s then d.setDom s .on else (d.siteReset s).powerUp s causeOther
    let d := ({ d with siteOf := d.siteOf.set c s }).modSite s Site.arm
    (d.configSite p i s).copyText p i s

/-- The counters of the device that arming clears (files 14, 15, 17). -/
def Dev.armCounters (d : Dev) : Dev :=
  { d with
    dscs := d.dscs.map (fun (s : Dsc) => { s with hits := 0, misses := 0, atomElems := 0, wayWait := 0 })
    slv := d.slv.map (fun (s : Slv) => { s with jobs := 0, stale := 0, busy := 0 })
    col := { d.col with done := 0, engines := d.col.engines.map (fun (e : Engine) => { e with bytes := 0 }) } }

/-- The region table that BSP loads into the DSC control windows (R277). -/
def Dev.loadTables (d : Dev) : Dev :=
  let (k, d) := d.draw
  { d with mem := { d.mem with bytes := (List.range 16).foldl (fun m i =>
      memPutAll (memZero m (dscBase + i * 0x400000) 0x400000) (dscBase + i * 0x400000) ((Config.regionTable k i).take 0x400000)) d.mem.bytes } }

/-- PLAN_ARM's effect (R115, R248, R288, R370, R392, R436). -/
def Dev.armPlan (d : Dev) (p : Plan) (start : Nat) : Dev :=
  let d := { d with epoch := d.epoch + 1 }
  let d := (List.range p.cores.length).foldl (fun (d : Dev) i => d.armCore p i) d
  let homes := p.cores.map (fun c => d.siteOf.getD c 0xFF / 5)
  let d := d.armCounters.loadTables
  let mine := fun (t : Nat × Nat × Nat) => t.1 == p.handle.toNat
  let d := { d with
    mapTs := d.now
    stm := { d.stm with seqs := d.stm.seqs.filter (fun t => !mine t) }
    trc := { d.trc with seqs := d.trc.seqs.filter (fun t => !mine t) } }
  let d := (List.range 4).foldl (fun (d : Dev) e => if (d.slv.getD e {}).inService then d.powerUp (165 + e) causeOther else d) d
  (d.modPlan p.handle (fun p => { p with
    state := .armed, base := BitVec.ofNat 52 start, homes := homes, epoch := d.epoch
    pastSites := List.replicate p.cores.length [] })).settleHeld

/-- PLAN_ARM (R42, R86, R107); it waits while a wipe holds memory of the plan (R290; log entry 121). DESIGN CHOICE: with the beat lost
and a conflict at once the result is BEAT_LOST (R53; log entry 95). -/
def planArm (d : Dev) : Dev := d.serve 0x0201 (fun d r p =>
  match d.planFor r p with
  | none => (d, .reject sBadField)
  | some q =>
    let start := fieldLE p 8 8
    if !zeroBytes p 2 6 || !beatOk r start then (d, .reject sBadField)
    else if q.state != .admitted || q.retiring.isSome || !d.bt.countValid then (d, .reject sBadState)
    else if d.beatLost then (d, .done sBeatLost [])
    else if d.bt.elect == .conflict then (d, .done sElectConflict [])
    else if q.img.layout.ranges.any (fun r => d.wipeHolds r.base r.len) then (d, .wait)
    else (d.armPlan q start, .done sOk []))

/-! ### Pause, resume, retire, status (R87, R88, R90) -/

/-- The fields of a PLAN_PAUSE result: PAUSE_BEAT in bytes 8 to 15. -/
def pauseFields (b : Nat) : List Byte := bytesLE 4 0 ++ bytesLE 8 b

/-- PLAN_PAUSE (R87). -/
def planPause (d : Dev) : Dev := d.serve 0x0202 (fun d r p =>
  match d.planFor r p with
  | none => (d, .reject sBadField)
  | some q =>
    if !zeroBytes p 2 6 then (d, .reject sBadField)
    else if !(q.state == .armed || q.state == .running) || q.retiring.isSome then (d, .reject sBadState)
    else
      match q.pauseAt with
      | some k => (d, .done sOk (pauseFields k.2.toNat))
      | none =>
        let set := fun (s : Nat) (b : BitVec 52) => (d.modPlan q.handle (fun q => { q with pauseAt := some (s, b) }), Reply.done sOk (pauseFields b.toNat))
        if q.state == .armed then set 0 q.base
        else
          let s := d.begunSteps q
          if s < q.nSteps then set s (q.stepStart s) else (d, .done sOk (pauseFields (q.promise (q.nSteps - 1)).toNat)))

/-- PLAN_RESUME (R87, R107). -/
def planResume (d : Dev) : Dev := d.serve 0x0203 (fun d r p =>
  match d.planFor r p with
  | none => (d, .reject sBadField)
  | some q =>
    let b := fieldLE p 8 8
    if !zeroBytes p 2 6 || !beatOk r b then (d, .reject sBadField)
    else if q.state != .paused || q.resumeBeat.isSome || q.retiring.isSome then (d, .reject sBadState)
    else if d.beatLost then (d, .done sBeatLost [])
    else (d.modPlan q.handle (fun q => { q with resumeBeat := some (BitVec.ofNat 52 b) }), .done sOk []))

/-- DEBUG_RESUME (R90). -/
def debugResume (d : Dev) : Dev := d.serve 0x0207 (fun d r p =>
  match d.planFor r p with
  | none => (d, .reject sBadField)
  | some q =>
    let b := fieldLE p 8 8
    if !zeroBytes p 2 6 || !beatOk r b then (d, .reject sBadField)
    else if q.state != .debugHeld || q.resumeBeat.isSome || q.retiring.isSome then (d, .reject sBadState)
    else (d.modPlan q.handle (fun q => { q with resumeBeat := some (BitVec.ofNat 52 b) }), .done sOk []))

/-- PLAN_RETIRE (R87): its response is due when the plan's cores and queues are released. -/
def planRetire (d : Dev) : Dev := d.serve 0x0204 (fun d r p =>
  match d.planFor r p with
  | none => (d, .reject sBadField)
  | some q =>
    if !zeroBytes p 2 6 then (d, .reject sBadField)
    else if q.state == .retired then (d, .reject sBadState)
    else
      let d := if q.retiring.isSome then d else d.beginRetire q
      match d.plan? q.handle with
      | some q => if q.state == .retired then (d, .done sOk []) else (d, .going)
      | none => (d, .done sOk []))

/-- The STATE of PLAN_STATUS (R88). -/
def PlanState.code : PlanState → Nat
  | .admitted => 0 | .armed => 1 | .running => 2 | .paused => 3 | .debugHeld => 4 | .completed => 5 | .retired => 6

/-- PLAN_STATUS (R88).  DESIGN CHOICE: NEXT_PROMISE is 0 while the plan is admitted and after its last step, and CURRENT_STEP is the
number of steps then (log entry 99). -/
def planStatus (d : Dev) : Dev := d.serve 0x0205 (fun d r p =>
  match d.planFor r p with
  | none => (d, .reject sBadField)
  | some q =>
    if !zeroBytes p 2 6 then (d, .reject sBadField)
    else
      let held := q.state == .paused || q.state == .debugHeld
      let next := if q.curStep < q.nSteps && q.state != .admitted then (q.promise q.curStep).toNat else 0
      (d, .done sOk ([BitVec.ofNat 8 q.state.code, 0] ++ bytesLE 2 (if held then q.holdCause.toNat else 0) ++ bytesLE 4 q.curStep ++
        bytesLE 4 (q.lastDone.getD noStep) ++ bytesLE 2 q.lastStatus.toNat ++ bytesLE 2 0 ++ bytesLE 4 q.missed.toNat ++ bytesLE 8 next)))

/-! ### Recipe selection (R89, R107, R120) -/

/-- The step whose start a SWITCH_BEAT names under a base. -/
def Plan.stepAt (p : Plan) (base : BitVec 52) (b : Nat) : Option Nat :=
  (List.range p.nSteps).find? (fun s => decide (b < 2 ^ 52) && beatAdd base (p.stepOff s) == BitVec.ofNat 52 b)

/-- A step of a plan that stands has not begun: its start was not reached before the hold, its SWITCH_BEAT has not been acted on, and none
of its chunks has been released (R120). -/
def Plan.stepFresh (p : Plan) (s : Nat) : Bool :=
  decide (p.begun ≤ s) && !p.switched.contains s &&
  (p.img.chunks.zipIdx).all (fun c => c.1.step != s || p.chunkStates.getD c.2 .waiting == .waiting)

/-- The selection comes early enough: 1,000 beats before SWITCH_BEAT on a plan that was armed or running as the request was accepted, and
before the named step has begun in every case (R89, R120). -/
def Plan.selectInTime (p : Plan) (r : Req) (held : Bool) (s b : Nat) : Bool :=
  if held then
    (if p.state == .paused || p.state == .debugHeld then p.stepFresh s
     else !p.switched.contains s && (p.img.chunks.zipIdx).all (fun c => c.1.step != s || p.chunkStates.getD c.2 .waiting == .waiting))
  else decide (1000 ≤ beatDiff r.acceptBeat (BitVec.ofNat 52 b))

/-- One entry: the selection is bound to its step, and replaces an earlier one of the same group and step, with a record (R107).  DESIGN
CHOICE: the same where one request names a group twice: its last entry stands, and the record names the request's own TAG as the
earlier one (log entry 119). -/
def Dev.selectOne (d : Dev) (h : BitVec 16) (s : Nat) (tag : BitVec 32) (group variant : Nat) : Dev :=
  match d.plan? h with
  | none => d
  | some p =>
    let old := p.selects.find? (fun x => x.step == s && x.group == group)
    let new : Select := { step := s, group := group, variant := variant, tag := tag }
    let d := d.modPlan h (fun p => { p with selects := p.selects.filter (fun (x : Select) => !(x.step == s && x.group == group)) ++ [new] })
    match old with
    | none => d
    | some x => d.writeRecord (((d.mkRec 0 0 0x1715 0).withTag tag).withDetail [(32, bytesLE 4 x.tag.toNat), (36, bytesLE 2 group)])

/-- RECIPE_SELECT: SWITCH_BEAT is read under the base in force as the request was accepted (R89, R107, R120). -/
def recipeSelect (d : Dev) : Dev := d.serve 0x0206 (fun d r p =>
  match d.planFor r p with
  | none => (d, .reject sBadField)
  | some q =>
    let b := fieldLE p 8 8
    let count := fieldLE p 2 2
    if q.state == .admitted || q.state == .completed || q.state == .retired || q.retiring.isSome then (d, .reject sBadState)
    else
      let (held, base) := r.plan0.getD (q.state == .paused || q.state == .debugHeld, q.base)
      match q.stepAt base b with
      | none => (d, .reject sBadField)
      | some s =>
        let early := q.selectInTime r held s b
        let entries := (List.range count).map (fun i => (fieldLE p (16 + 4 * i) 2, fieldLE p (18 + 4 * i) 1, fieldLE p (19 + 4 * i) 1))
        let ok := fun (e : Nat × Nat × Nat) => e.2.2 == 0 && (match q.img.groups[e.1]? with | some g => decide (e.2.1 < g.hists.length) | none => false)
        if !early then (d, .reject sBadState)
        else if 256 < count || !zeroBytes p 4 4 || !entries.all ok then (d, .reject sBadField)
        else (entries.foldl (fun (d : Dev) e => d.selectOne q.handle s (mTag r.msg) e.1 e.2.1) d, .done sOk []))

/-! ### Commands -/

/-- DEVICE_INFO (R96). -/
def execDeviceInfo (s : State) : Out State := run deviceInfo s
/-- SESSION_OPEN (R83). -/
def execSessionOpen (s : State) : Out State := run sessionOpen s
/-- SESSION_CLOSE (R84). -/
def execSessionClose (s : State) : Out State := run sessionClose s
/-- PLAN_ADMIT (R110). -/
def execPlanAdmit (s : State) : Out State := run planAdmit s
/-- PLAN_ARM (R86). -/
def execPlanArm (s : State) : Out State := run planArm s
/-- PLAN_PAUSE (R87). -/
def execPlanPause (s : State) : Out State := run planPause s
/-- PLAN_RESUME (R87). -/
def execPlanResume (s : State) : Out State := run planResume s
/-- PLAN_RETIRE (R87). -/
def execPlanRetire (s : State) : Out State := run planRetire s
/-- PLAN_STATUS (R88). -/
def execPlanStatus (s : State) : Out State := run planStatus s
/-- RECIPE_SELECT (R89). -/
def execRecipeSelect (s : State) : Out State := run recipeSelect s
/-- DEBUG_RESUME (R90). -/
def execDebugResume (s : State) : Out State := run debugResume s
/-- TELEMETRY (R96). -/
def execTelemetry (s : State) : Out State := run telemetry s
/-- CORE_MAP (R97). -/
def execCoreMap (s : State) : Out State := run coreMap s
/-- LINK_STATUS (R96). -/
def execLinkStatus (s : State) : Out State := run linkStatus s

end Sys2Proof.Machine
end

