-- ==== Sys2Proof/Machine/Fences.lean ====
section
/-! DEFINITION. The Chekor messages about fences, tests, the crater table and the health log (R91 to R95, R107, R385). -/

namespace Sys2Proof.Machine

/-! ### FENCE, UNFENCE, FENCE_OVERRIDE (R91, R92, R107) -/

/-- The UNIT_ID that a payload names in its first bytes. -/
def payloadUnit (p : List Byte) : BitVec 16 := BitVec.ofNat 16 (fieldLE p 0 2)

/-- The test of a site that runs out of service. -/
def Dev.testOf (d : Dev) (n : Nat) : Option TestRun := d.health.tests.find? (fun t => t.site == n)

/-- A unit stands fenced, a fenced site under test included. -/
def Dev.standsFenced (d : Dev) (u : BitVec 16) : Bool :=
  d.isFenced u || (unitKind u == 1 && (match d.testOf (unitNum u) with
    | some t => t.prior == some .fenced || t.prior == some .permanent
    | none => false))

/-- A unit is marked permanent. -/
def Dev.isPermanent (d : Dev) (u : BitVec 16) : Bool :=
  (match d.crater? u with | some e => e.state == 2 | none => false) ||
  (unitKind u == 1 && d.siteState (unitNum u) == .permanent)

/-- A site that serves no core is fenced for the host: it is reset and powered down, and a test of it ends without a result
(R91, R375). -/
def Dev.fenceIdle (d : Dev) (n : Nat) (host : HostFence) : Dev :=
  let d := d.modHealth (fun (h : Health) => { h with tests := h.tests.filter (fun (t : TestRun) => t.site != n) })
  ((d.fenceSite n 11 none 0xFFFFFFFF (some host)).siteReset n).powerDown n causeFence

/-- A spare that is fenced during its recovery: the recovery goes back to its decision (R371); the response is due once another
replacement is in service, or none is left (R32, R91; log entry 58). -/
def Dev.fenceSpare (d : Dev) (n : Nat) (r : Recovery) (host : HostFence) : Dev :=
  let (first, d) := d.countFault r.core
  let d := ((d.fenceSite n 11 (some first) 0xFFFFFFFF (some host)).siteReset n).powerDown n causeFence
  d.modRecovery r.site (fun (r : Recovery) => { r with
    spare := none, phase := .detected, fail := n, failSource := 11, failFirst := some first, tag := host.2, asked := some n })

/-- A site that is being swapped for its test, or whose chunk recomputes in place, is not being fenced: FENCE fences it, and the recovery
goes on as that of a fence; the response is due once the replacement is in service (R91, R107; log entry 113). -/
def Dev.fenceMoving (d : Dev) (n : Nat) (r : Recovery) (host : HostFence) : Dev × Reply :=
  let (first, d) := d.countFault r.core
  let turn := fun (r : Recovery) => { r with cause := .fence, first := first, source := 11, tag := host.2 }
  if r.cause == .swap && (r.phase != .detected || r.fail != n) then
    let d := (d.fenceSite n 11 (some first) 0xFFFFFFFF (some host)).modRecovery n turn
    (d, if r.phase == .inService then .done sOk [] else .going)
  else (d.modRecovery n (fun r => { turn r with spare := none, phase := .detected, failSource := 11, failFirst := some first }), .going)

/-- FENCE (R91, R107): a site in service is replaced as for a fault, and its response is due once the replacement is in service. -/
def fence (d : Dev) : Dev := d.serve 0x0300 (fun d r p =>
  let u := payloadUnit p
  let host := r.hostFence
  let n := unitNum u
  let fencing := fun (r : Recovery) => r.site == n && !(r.cause == .inPlace || r.cause == .swap)
  if !fenceable u then (d, .reject sBadField)
  else if d.standsFenced u || (unitKind u == 1 && d.health.recoveries.any fencing) then (d, .done sFenced [])
  else
    match unitKind u with
    | 1 =>
      (match d.health.recoveries.find? (fun r => r.site == n || r.spare == some n) with
       | some r => if r.site == n then d.fenceMoving n r host else (d.fenceSpare n r host, .going)
       | none =>
         if d.siteState n == .inService then (d.siteFault n .fence 11 0 host.2, .going)
         else (d.fenceIdle n host, .done sOk []))
    | 4 => (d.failPort n .fenced (some host), .done sOk [])
    | 5 => (d.fenceEngine n (some host), .done sOk [])
    | _ => (d.fenceSolver n (some host) 0xFFFFFFFF, .done sOk []))

/-- A site back among the held ones has its domain as R436 gives it. -/
def Dev.powerReturned (d : Dev) (n : Nat) : Dev := if d.anyArmed then d else d.powerHeld n

/-- UNFENCE (R92): only a site can have been tested. -/
def unfence (d : Dev) : Dev := d.serve 0x0301 (fun d _ p =>
  let u := payloadUnit p
  let n := unitNum u
  if !fenceable u || !zeroBytes p 2 2 then (d, .reject sBadField)
  else if unitKind u != 1 || d.siteState n != .fenced || d.isPermanent u || d.health.testedSince.getD n none != some true then
    (d, .reject sBadState)
  else ((d.returnSite n).powerReturned n, .done sOk []))

/-- A fenced unit returned untested (R92): a port is trained again at once, engines are in service again. -/
def Dev.returnUnit (d : Dev) (u : BitVec 16) : Dev :=
  let n := unitNum u
  match unitKind u with
  | 1 => (d.returnSite n).powerReturned n
  | 4 => (d.leaveCrater u).modPort n (fun q => { q with state := .failed, trainAt := d.bt.beat - 10000000 })
  | 5 =>
    let d := d.leaveCrater u
    { d with col := { d.col with engines := d.col.engines.modify n (fun (g : Engine) => { g with inService := true }) } }
  | _ => (((d.leaveCrater u).modSlv n (fun s => { s with inService := true })).powerUp (165 + n) causeOther).dealAll

/-- The permanent mark of a unit set or cleared (R92).  DESIGN CHOICE: the entry of a unit whose mark is cleared has STATE 1, also where the
unit has passed a test before (log entry 116). -/
def Dev.markUnit (d : Dev) (u : BitVec 16) (perm : Bool) : Dev :=
  let n := unitNum u
  let st : SiteState := if perm then .permanent else .fenced
  let d := d.modCrater u (fun e => { e with state := if perm then 2 else 1 })
  if unitKind u != 1 || d.siteState n == .lost then d
  else if d.siteState n == .underTest then
    d.modHealth (fun (h : Health) => { h with tests := h.tests.map (fun (t : TestRun) => if t.site == n then { t with prior := some st } else t) })
  else d.setSiteState n st

/-- FENCE_OVERRIDE (R92).  DESIGN CHOICE: ACTION 1 of a fenced site that is under test or lost does not match its state (log entry 100). -/
def fenceOverride (d : Dev) : Dev := d.serve 0x0302 (fun d _ p =>
  let u := payloadUnit p
  let lost := unitKind u == 1 && (d.siteState (unitNum u) == .lost || d.siteState (unitNum u) == .underTest)
  if !fenceable u || !zeroBytes p 3 1 then (d, .reject sBadField)
  else
    match fieldLE p 2 1 with
    | 1 => if !d.standsFenced u || d.isPermanent u || lost then (d, .reject sBadState) else (d.returnUnit u, .done sOk [])
    | 2 => if !d.standsFenced u || d.isPermanent u then (d, .reject sBadState) else (d.markUnit u true, .done sOk [])
    | 3 => if !d.standsFenced u || !d.isPermanent u then (d, .reject sBadState) else (d.markUnit u false, .done sOk [])
    | _ => (d, .reject sBadField))

/-! ### Tests (R93) -/

/-- TEST_RUN: test 1 of a held, warm or fenced site; its response is due at the end of the test.  DESIGN CHOICE: a site that is already
under a test answers BAD_STATE (log entry 117). -/
def testRun (d : Dev) : Dev := d.serve 0x0303 (fun d _ p =>
  let u := payloadUnit p
  let n := unitNum u
  if unitKind u != 1 || 80 ≤ n || !zeroBytes p 2 2 then (d, .reject sBadField)
  else
    match d.siteState n with
    | .held => (d.beginTest n 1, .going)
    | .warm => (d.beginTest n 1, .going)
    | .fenced => (d.beginTest n 1, .going)
    | _ => (d, .reject sBadState))

/-- TEST_CONFIG. -/
def testConfig (d : Dev) : Dev := d.serve 0x0304 (fun d _ p =>
  let h := fieldLE p 0 1
  if h = 0 || 24 < h || !zeroBytes p 1 3 then (d, .reject sBadField)
  else (d.modHealth (fun x => { x with testIntervalH := BitVec.ofNat 8 h }), .done sOk []))

/-! ### The crater table and the log (R94, R95, R385) -/

/-- The 16 bytes of a crater-table entry (R94). -/
def Crater.bytes (e : Crater) : List Byte :=
  bytesLE 2 e.unit.toNat ++ [e.state, e.reason] ++ bytesLE 2 e.faults.toNat ++ bytesLE 2 0 ++ bytesLE 8 e.ts.toNat

/-- CRATER_READ. -/
def craterRead (d : Dev) : Dev := d.serve 0x0305 (fun d _ p =>
  let count := fieldLE p 1 1
  if 124 < count || !zeroBytes p 2 2 then (d, .reject sBadField)
  else
    let es := (d.health.crater.drop (fieldLE p 0 1)).take count
    (d, .done sOk (bytesLE 2 d.health.crater.length ++ bytesLE 2 es.length ++ es.flatMap Crater.bytes)))

/-- A bank of the log taken out of service: with one bank left LOG_STATE is 1, and with none 2, where the latch takes the record
(R385). -/
def Dev.loseBank (d : Dev) (bankB : Bool) : Dev :=
  let ok := if bankB then d.health.bankBOk else d.health.bankAOk
  if !ok then d
  else
    let d := d.modHealth (fun h => if bankB then { h with bankBOk := false } else { h with bankAOk := false })
    if d.health.logState = 0 then
      ((d.modHealth (fun h => { h with logState := 1 })).setHltEvent 8).writeRecord (d.mkRec 1 2 0x170C 0)
    else
      ((d.modHealth (fun h => { h with logState := 2 })).setHltEvent 9).writeRecord (d.mkRec 4 2 0x170D 0)

/-- A record that a function may read: PF0 all of them; a tenancy those of units it owns (the sites of its cores and its stream
ports) and those whose TAG names a command of its own (R95). -/
def Dev.mayRead (d : Dev) (func : Nat) (r : Rec) : Bool :=
  func == 0 || r.func == some func ||
  (unitKind r.unit == 1 && (match d.coreOf (unitNum r.unit) with | some c => (d.coresOf func).contains c | none => false)) ||
  (unitKind r.unit == 6 && unitNum r.unit < 4 && d.portOwner (unitNum r.unit) == func)

/-- Records from a log index on, at most `n` that the test names, and the index after the last one examined. -/
def readLog (may : Rec → Bool) : List Rec → Nat → Nat → List Rec × Nat
  | [], _, i => ([], i)
  | _, 0, i => ([], i)
  | r :: rest, n + 1, i =>
    if may r then
      let x := readLog may rest n (i + 1)
      (r :: x.1, x.2)
    else readLog may rest (n + 1) (i + 1)

/-- LOG_READ. -/
def logRead (ecc : LogEcc) (d : Dev) : Dev := d.serve 0x0306 (fun d r p =>
  let start := fieldLE p 0 4
  let count := fieldLE p 4 2
  if 63 < count || !zeroBytes p 6 2 then (d, .reject sBadField)
  else
    let d := match ecc with | .clean => d | .lost b => d.loseBank b
    if d.health.logState = 2 then (d, .done sOk (bytesLE 4 start ++ bytesLE 2 0 ++ bytesLE 6 0))
    else
      let bank := if d.health.bankAOk then d.health.bankA else d.health.bankB
      let oldest := d.health.logNext.toNat - bank.length
      let i := max start oldest
      let x := readLog (d.mayRead r.func) (bank.drop (i - oldest)) count i
      (d, .done sOk (bytesLE 4 x.2 ++ bytesLE 2 x.1.length ++ bytesLE 6 0 ++ x.1.flatMap Rec.bytes)))

/-! ### Commands -/

/-- FENCE (R91). -/
def execFence (s : State) : Out State := run fence s
/-- UNFENCE (R92). -/
def execUnfence (s : State) : Out State := run unfence s
/-- FENCE_OVERRIDE (R92). -/
def execFenceOverride (s : State) : Out State := run fenceOverride s
/-- TEST_RUN (R93). -/
def execTestRun (s : State) : Out State := run testRun s
/-- TEST_CONFIG (R93). -/
def execTestConfig (s : State) : Out State := run testConfig s
/-- CRATER_READ (R94). -/
def execCraterRead (s : State) : Out State := run craterRead s
/-- LOG_READ (R95). -/
def execLogRead (ecc : LogEcc) (st : State) : Out State := run (logRead ecc) st

end Sys2Proof.Machine
end

