-- ==== Sys2Proof/Machine/Tenancy.lean ====
section
/-! DEFINITION. Tenancies, shared regions, wipes, the life cycle, keys, firmware and the debug lock (R98 to R103, R399 to R410). -/

namespace Sys2Proof.Machine

/-! ### Tenancies and shared regions (R98 to R100, R407) -/

/-- 256 MiB: the alignment of tenancy ranges and shared regions. -/
def regionAlign : Nat := 0x10000000

/-- A range that R98 allows: in stack memory, aligned, and a non-zero multiple of 256 MiB. -/
def rangeOk (r : RangeEnt) : Bool := r.len != 0 && r.base % regionAlign == 0 && r.len % regionAlign == 0 && decide (r.base + r.len ≤ stackEnd)

/-- A range meets no other of a list. -/
def disjoint : List RangeEnt → Bool
  | [] => true
  | r :: rest => rest.all (fun q => !meets r.base r.len q.base q.len) && disjoint rest

/-- A range is in use by another tenancy or a plan of PF0. -/
def Dev.rangeUsed (d : Dev) (r : RangeEnt) : Bool :=
  d.sec.tenancies.any (fun o => match o with | some t => t.ranges.any (fun q => meets r.base r.len q.base q.len) | none => false) ||
  d.plans.any (fun p => p.live && p.func == 0 &&
    (meets r.base r.len p.imageAddr p.imageLen || p.img.layout.ranges.any (fun q => meets r.base r.len q.base q.len)))

/-- TENANCY_CREATE (R98, R405 to R407): its response is due when its ranges are wiped. -/
def tenancyCreate (d : Dev) : Dev := d.serve 0x0400 (fun d _ p =>
  let n := fieldLE p 0 1
  let cores := fieldLE p 2 1
  let ranges : List RangeEnt := (List.range (fieldLE p 1 1)).map (fun i => ⟨fieldLE p (8 + 16 * i) 8, fieldLE p (16 + 16 * i) 8⟩)
  let free := d.freeCores 0
  if n = 0 || 4 < n || ranges.isEmpty || 8 < ranges.length || cores = 0 || 72 < cores || !zeroBytes p 3 5 then (d, .reject sBadField)
  else if !ranges.all rangeOk || !disjoint ranges || ranges.any (fun r => d.meetsShared r.base r.len) then (d, .reject sBadField)
  else if d.sec.lcState = 3 then (d, .reject sLifecycleDenied)
  else if d.tenancyExists n || d.sec.debug || !d.sec.vfEnable || ranges.any d.rangeUsed || free.length < cores then (d, .reject sBadState)
  else
    let t : Tenancy := { ranges := ranges, cores := free.take cores }
    let d := { d with sec := { d.sec with tenancies := d.sec.tenancies.set (n - 1) (some t) } }
    (d.beginWipe (.create n) ranges, .going))

/-- TENANCY_DESTROY (R99, R409): its response is due when the release is at its end. -/
def tenancyDestroy (d : Dev) : Dev := d.serve 0x0401 (fun d _ p =>
  let n := fieldLE p 0 1
  if n = 0 || 4 < n || !zeroBytes p 1 3 then (d, .reject sBadField)
  else if !d.tenancyExists n then (d, .reject sBadState)
  else
    let d := d.beginRelease n
    if d.tenancyExists n then (d, .going) else (d, .done sOk []))

/-- A plan that is not retired reads a shared region. -/
def Dev.regionRead (d : Dev) (r : Nat) : Bool := d.plans.any (fun p => p.live && p.img.layout.sharedRead.getLsbD r)

/-- SHARED_REGION (R100, R405). -/
def sharedRegion (d : Dev) : Dev := d.serve 0x0402 (fun d _ p =>
  let k := fieldLE p 0 1
  let readers := fieldLE p 2 1
  let r : RangeEnt := ⟨fieldLE p 8 8, fieldLE p 16 8⟩
  if 7 < k || 31 < readers || !zeroBytes p 3 5 then (d, .reject sBadField)
  else
    match fieldLE p 1 1 with
    | 1 =>
      let taken := d.sec.tenancies.any (fun o => match o with | some t => t.ranges.any (fun q => meets r.base r.len q.base q.len) | none => false)
      if !rangeOk r then (d, .reject sBadField)
      else if d.sec.lcState = 3 then (d, .reject sLifecycleDenied)
      else if (d.shared.getD k none).isSome then (d, .reject sBadState)
      else if taken || d.meetsShared r.base r.len then (d, .reject sBadField)
      else
        let g : SharedRegion := { base := r.base, len := r.len, readers := BitVec.ofNat 5 readers }
        ({ d with shared := d.shared.set k (some g) }, .done sOk [])
    | 2 =>
      if d.sec.lcState = 3 then (d, .reject sLifecycleDenied)
      else if (d.shared.getD k none).isNone || d.regionRead k then (d, .reject sBadState)
      else ({ d with shared := d.shared.set k none }, .done sOk [])
    | _ => (d, .reject sBadField))

/-- WIPE_POLICY (R101). -/
def wipePolicy (d : Dev) : Dev := d.serve 0x0403 (fun d _ p =>
  if 1 < fieldLE p 0 1 || 1 < fieldLE p 1 1 || !zeroBytes p 2 2 then (d, .reject sBadField)
  else ({ d with sec := { d.sec with wipeVerify := fieldLE p 0 1 == 1, wipeOnRetire := fieldLE p 1 1 == 1 } }, .done sOk []))

/-! ### The life cycle (R102, R405) -/

/-- A plan that a life-cycle change must not meet (R102). -/
def Plan.holdsLifecycle (p : Plan) : Bool :=
  match p.state with
  | .armed => true | .running => true | .paused => true | .debugHeld => true
  | .admitted => false | .completed => false | .retired => false

/-- LIFECYCLE_CHANGE (R102, R405): the tenancies are released and every memory is wiped; the change is made and the response due when
the wipe ends. -/
def lifecycleChange (d : Dev) : Dev := d.serve 0x0410 (fun d _ p =>
  let t := fieldLE p 0 1
  if !zeroBytes p 1 3 then (d, .reject sBadField)
  else if t ≠ d.sec.lcState.toNat + 1 || 3 < t then (d, .reject sLifecycleDenied)
  else if d.plans.any Plan.holdsLifecycle then (d, .reject sBadState)
  else
    let d := [1, 2, 3, 4].foldl Dev.beginRelease d
    (d.beginWipe (.lifecycle (BitVec.ofNat 2 t)) [⟨0, stackEnd⟩], .going))

/-! ### Keys and firmware (R101, R103, R400 to R404) -/

/-- A slot that KEY_PROVISION may name. -/
def keySlot (k : Nat) : Bool := k ≤ 4 || k == 6 || k == 7

/-- A slot may be provisioned in the life-cycle state (R101, R405). -/
def Dev.mayProvision (d : Dev) (k : Nat) : Bool :=
  if 1 ≤ k && k ≤ 4 then d.sec.lcState != 3 && d.tenancyExists k else d.sec.lcState == 0 || d.sec.lcState == 1

/-- The place of a slot in the key area of the flash. -/
def areaIdx (k : Nat) : Option Nat := if k = 0 then some 0 else if k = 6 then some 1 else if k = 7 then some 2 else none

/-- A key in a slot; slots 0, 6 and 7 are stored in the key area of the flash as well, under a new write count (R400). -/
def Sec.putKey (s : Sec) (k : Nat) (key : List Byte) : Sec :=
  let s := { s with slots := s.slots.set k (.key key) }
  match areaIdx k with
  | none => s
  | some i =>
    let n := s.keyWrites.getD i 0 + 1
    let cipher := wrapKey k n key
    { s with keyWrites := s.keyWrites.set i n, keyArea := s.keyArea.set i (.held n cipher (wrapMac cipher)) }

/-- KEY_PROVISION, under the key of the session that the request was accepted in (R101, R401). -/
def keyProvision (d : Dev) : Dev := d.serve 0x0412 (fun d r p =>
  let k := fieldLE p 0 1
  if !keySlot k || !zeroBytes p 1 7 then (d, .reject sBadField)
  else if !d.mayProvision k then (d, .reject sLifecycleDenied)
  else
    match r.key with
    | none => (d, .reject sAuthFail)
    | some session =>
      let mask := hkdfExpand session (ascii "KEYMASK" ++ [BitVec.ofNat 8 k])
      let key := ((p.drop 8).take 32).zipWith (· ^^^ ·) mask
      if key.all (· == 0) then (d, .reject sBadField)
      else ({ d with sec := d.sec.putKey k key }, .done sOk []))

/-- FW_UPDATE (R103, R404): a verified image goes to the inactive bank, and the boot record then names that bank. -/
def fwUpdate (d : Dev) : Dev := d.serve 0x0411 (fun d _ p =>
  let a := fieldLE p 0 8
  let n := fieldLE p 8 4
  if n = 0 || 0x1000000 < n || stackEnd < a + n || !zeroBytes p 12 4 then (d, .reject sBadField)
  else
    match d.mem.poisoned? a n with
    | some _ => (d, .reject sAuthFail)
    | none =>
      let img := memBytes d.mem.bytes a n
      let v := BitVec.ofNat 24 (Config.fwField img 1)
      if !d.sec.verifies img then (d, .reject sAuthFail)
      else if (v.extractLsb' 16 8).toNat < d.sec.minEpoch.toNat then (d, .reject sBadState)
      else
        let b : Bank := { version := v, keyIndex := Config.fwField img 3, image := some img }
        let s := if d.sec.activeBank then { d.sec with bank0 := b } else { d.sec with bank1 := b }
        ({ d with sec := { s with bootBank := !d.sec.activeBank, bootVersion := v } }, .done sOk []))

/-! ### The debug lock (R406) -/

/-- NEW_CHAL: a fresh challenge. -/
def Dev.drawChallenge (d : Dev) : Dev :=
  let (k, d) := d.draw
  { d with sec := { d.sec with chal := some (bytesLE 16 (Config.nonce k).toNat) } }

/-- The response that unlocks DEBUG for a challenge. -/
def Sec.answers (s : Sec) (chal : List Byte) : Bool :=
  match s.slotKey 6 with
  | none => false
  | some key => bytesLE 16 s.resp.toNat == (hmac key (chal ++ uidBytes)).take 16

/-- A SUBMIT unlocks DEBUG: in PROVISIONED or FIELD, with a fresh challenge and its answer, no tenancy, no admitted plan, and fewer
than 8 failures. -/
def Dev.submitOk (d : Dev) : Bool :=
  (d.sec.lcState == 1 || d.sec.lcState == 2) && decide (d.sec.failCount.toNat < 8) &&
  (match d.sec.chal with | some c => d.sec.answers c | none => false) &&
  d.sec.tenancies.all (fun o => o.isNone) && !d.plans.any Plan.live

/-- SUBMIT: the challenge is used up; a refusal leaves DEBUG locked and counts, up to 8. -/
def Dev.submitResponse (d : Dev) : Dev :=
  if d.submitOk then { d with sec := { d.sec with debug := true, chal := none } }
  else { d with sec := { d.sec with
    debug := false, chal := none, failCount := if d.sec.failCount.toNat < 8 then d.sec.failCount + 1 else d.sec.failCount } }

/-- LOCK. -/
def Dev.lockDebug (d : Dev) : Dev := { d with sec := { d.sec with debug := false } }

/-! ### Commands -/

/-- TENANCY_CREATE (R98). -/
def execTenancyCreate (s : State) : Out State := run tenancyCreate s
/-- TENANCY_DESTROY (R99). -/
def execTenancyDestroy (s : State) : Out State := run tenancyDestroy s
/-- SHARED_REGION (R100). -/
def execSharedRegion (s : State) : Out State := run sharedRegion s
/-- WIPE_POLICY (R101). -/
def execWipePolicy (s : State) : Out State := run wipePolicy s
/-- LIFECYCLE_CHANGE (R405). -/
def execLifecycleChange (s : State) : Out State := run lifecycleChange s
/-- FW_UPDATE (R103). -/
def execFwUpdate (s : State) : Out State := run fwUpdate s
/-- KEY_PROVISION (R401). -/
def execKeyProvision (s : State) : Out State := run keyProvision s

end Sys2Proof.Machine
end

