-- ==== Sys2Proof/Machine/Regs.lean ====
section
/-! DEFINITION. The registers: the blocks of the device control space, what each register reads as and what a write does (file 25 and
the register maps of every chapter), and the registers of mailbox pages and queue windows. -/

namespace Sys2Proof.Machine

/-! ### Words and fields -/

/-- A register's word from its fields: the lowest bit of each and its value. -/
def regWord (fs : List (Nat × Nat)) : BitVec 64 := BitVec.ofNat 64 (fs.map (fun f => f.2 * 2 ^ f.1)).sum

/-- A W1C field after a write: the bits written 1 are cleared but for those set in the same cycle (R14, R16). -/
def w1c {w : Nat} (old : Sticky w) (v : BitVec 64) (lo : Nat) : Sticky w := old.clear (v.extractLsb' lo w)

/-- Bits `hi` to `lo` of a written word. -/
def wf (v : BitVec 64) (hi lo : Nat) : Nat := bitsOf v.toNat hi lo

/-! ### Blocks (R457) -/

/-- The register blocks; `pad` is the part of a core site's 64 KiB that no block of it fills. -/
inductive Block where
  | dev | bt | fwp | pwr | hlt | trc | sec | mgt | lbkCommon | colCommon | lnkCommon | stmCommon
  | stk (s : Nat) | dsc (d : Nat) | lnk (p : Nat) | col (e : Nat) | stm (q : Nat) | slv (e : Nat)
  | lbk (n : Nat) | qnt (n : Nat) | outp (n : Nat) | acc (n : Nat) | mvp (n : Nat) | ccr (n : Nat) | pad (n : Nat)
  deriving DecidableEq, Repr

/-- The block at an offset of the control space. -/
def blockOf (off : Nat) : Option Block :=
  let k := off / 0x1000
  let one : List Block := [.dev, .bt, .fwp, .pwr, .hlt, .trc, .sec, .mgt, .lbkCommon, .colCommon, .lnkCommon, .stmCommon]
  if k < 12 then one[k]?
  else if 0x10 ≤ k && k < 0x20 then some (.stk (k - 0x10))
  else if 0x20 ≤ k && k < 0x30 then some (.dsc (k - 0x20))
  else if 0x30 ≤ k && k < 0x48 then some (.lnk (k - 0x30))
  else if 0x50 ≤ k && k < 0x60 then some (.col (k - 0x50))
  else if 0x60 ≤ k && k < 0x64 then some (.stm (k - 0x60))
  else if 0x70 ≤ k && k < 0x74 then some (.slv (k - 0x70))
  else if 0x100 ≤ k && k < 0x600 then
    let n := (k - 0x100) / 16
    some (match k % 16 with | 0 => .lbk n | 1 => .qnt n | 2 => .outp n | 3 => .acc n | 4 => .mvp n | 5 => .ccr n | _ => .pad n)
  else none

/-- The switched domain that a block lies in; the others are in the always-on domain (R432, R433). -/
def Block.domain : Block → Option Nat
  | .stk s => some (80 + s)
  | .dsc d => some (80 + d)
  | .lnk p => some (128 + p)
  | .col e => some (152 + e / 2)
  | .stm q => some (160 + q)
  | .stmCommon => some 164
  | .slv e => some (165 + e)
  | .lbk n => some n
  | .qnt n => some n
  | .outp n => some n
  | .acc n => some n
  | .mvp n => some n
  | .ccr n => some n
  | .pad n => some n
  | _ => none

/-- A block answers: the control part runs, or it is the management port's, and its domain is GATED or ON (R450, R459). -/
def Dev.blockUp (d : Dev) (b : Block) : Bool :=
  if b = .mgt then d.pwr.vauxOk else d.pwr.ctlUp && (match b.domain with | some k => d.domUp k | none => true)

/-! ### What registers read as -/

def SetState.code : SetState → Nat
  | .empty => 0 | .loading => 1 | .ready => 2
def PortState.code : PortState → Nat
  | .disabled => 0 | .training => 1 | .up => 2 | .failed => 3 | .miswired => 4 | .fenced => 5 | .delayLong => 6
def SiteState.code : SiteState → Nat
  | .inService => 0 | .warm => 1 | .held => 2 | .underTest => 3 | .recovering => 4 | .fenced => 5 | .permanent => 6 | .lost => 7
def DomState.code : DomState → Nat
  | .off => 0 | .ramping => 1 | .gated => 2 | .on => 3
def BootPhase.code : BootPhase → Nat
  | .reset => 0 | .auth => 1 | .wipe => 2 | .waitCfg => 3 | .links => 4 | .elect => 5 | .ready => 6 | .halted => 7
def FwpState.code : FwpState → Nat
  | .held => 0 | .running => 1 | .restarting => 2 | .halted => 3

/-- Values packed `w` bits each, the first lowest. -/
def packed (w : Nat) (l : List Nat) : BitVec 64 := regWord ((l.zipIdx).map (fun e => (w * e.2, e.1)))

/-- A record of the latch that asserts FAULT_L: of CLASS 5, or taken while both log banks were out; not one that waits for HLP's return
(R386). -/
def Rec.asserts (r : Rec) : Bool := r.cls == 5 || (r.flags.getLsbD 5 && !r.held)
/-- Sites whose test is due or overdue while they are in service (R380). -/
def Health.overdueNow (h : Health) : List Bool := h.overdue.zipWith (fun o s => o && s == SiteState.inService) h.siteStates

/-- FAULT_L is asserted by the latch. -/
def Dev.latchFault (d : Dev) : Bool := d.health.latch.any Rec.asserts
/-- FAULT_L is asserted (R386); without VAUX3P3 nothing drives it (R421). -/
def Dev.faultL (d : Dev) : Bool := d.pwr.vauxOk && (d.pwr.phase == .halted || d.latchFault)

/-- RESP_VALID of a channel. -/
def Dev.respValid (d : Dev) (c : Nat) : Bool := !(d.chan c).responses.isEmpty
/-- FULL of a channel. -/
def Chan.full (c : Chan) : Bool := decide (64 ≤ c.outstanding)
/-- MGT_ALERT_STATUS: the sticky causes, and CH7_RESP live (R454). -/
def Dev.alertStatus (d : Dev) : BitVec 6 := BitVec.ofNat 6 (d.mgt.alerts.val.toNat + 32 * b2n (d.pwr.ctlUp && d.respValid 7))
/-- ALERT_L is asserted (R454); in reset and without VAUX3P3 it is released (R421). -/
def Dev.alertL (d : Dev) : Bool := d.pwr.vauxOk && !d.pwr.sysRst && d.alertStatus &&& d.mgt.alertMask != 0

/-- The control part runs and no reset holds the device: its tri-state outputs may drive (R421). -/
def Dev.drives (d : Dev) : Bool := d.pwr.ctlUp && !d.pwr.sysRst
/-- READY: at high impedance while the device cannot drive it (R421, R422). -/
def Dev.readyPin (d : Dev) : Drive := if !d.drives then .z else if d.pwr.ready then .high else .low
/-- The lines of the boot flash: released throughout reset, driven after it ends, QSPI_CS_L high while nothing is read or written
(R403, R427). -/
def Dev.qspiCs (d : Dev) : Drive := if d.drives then .high else .z
/-- SPI_MISO for a bit of a frame: at high impedance while SPI_CS_L is high, or without VAUX3P3 (R422, R433). -/
def Dev.misoPin (d : Dev) (csLow bit : Bool) : Drive := if !d.pwr.vauxOk || !csLow then .z else if bit then .high else .low
/-- TDO for a bit: at high impedance outside Shift-DR and Shift-IR (R422). -/
def Dev.tdoPin (d : Dev) (shifting bit : Bool) : Drive := if !d.pwr.vauxOk || !shifting then .z else if bit then .high else .low

def Dev.readDev (d : Dev) (o : Nat) : BitVec 64 :=
  match o with
  | 0x00 => regWord [(40, 0xA0), (0, 0x00040064)]
  | 0x08 => regWord [(0, d.devErr.val.toNat)]
  | _ => 0

def Bt.read (b : Bt) (now : BitVec 64) (key : BitVec 59) (o : Nat) : BitVec 64 :=
  match o with
  | 0x00 => regWord [(4, b.markInterval.toNat), (1, b2n b.linkMarkEn), (0, b2n b.beatInEn)]
  | 0x08 => b.status
  | 0x10 => regWord [(0, b.events.val.toNat)]
  | 0x18 => now
  | 0x20 => regWord [(0, b.holdoverBeats.toNat)]
  | 0x28 => regWord [(0, b.offset.toNat)]
  | 0x30 => key.setWidth 64
  | 0x38 => b.masterKey.setWidth 64
  | _ => 0

def Fwp.read (f : Fwp) : BitVec 64 := regWord [(32, f.restarts.toNat), (8, f.version.toNat), (0, f.state.code)]

def Pwr.read (p : Pwr) (o : Nat) : BitVec 64 :=
  match o with
  | 0x00 => regWord [(32, p.phase.code), (28, p.pdOk.toNat), (2, b2n p.vinOk), (1, b2n p.vauxOk), (0, b2n p.ready)]
  | 0x08 => regWord [(0, b2n p.cfgDone)]
  | 0x10 => regWord [(16, p.warmCount.toNat), (0, p.lastReset.toNat)]
  | 0x18 => regWord [(0, p.events.val.toNat)]
  | 0x20 => regWord [(0, p.alertMw.toNat)]
  | 0x28 => regWord [(32, p.vinMv.toNat), (0, p.pkgMw.toNat)]
  | 0x80 => regWord [(8, b2n p.reqOn), (0, p.reqDomain.toNat)]
  | _ =>
    if 0x30 ≤ o && o < 0x50 then
      let x := p.pds.getD ((o - 0x30) / 8) (0, 0)
      regWord [(32, x.1.toNat), (0, x.2.toNat)]
    else if 0x50 ≤ o && o < 0x80 then packed 2 (((p.doms.drop (32 * ((o - 0x50) / 8))).take 32).map DomState.code)
    else 0

/-- What HLT_SITE_STATE shows of a site: a site in service whose test runs in its vent window shows under test (R378; log entry 28). -/
def Health.shownState (h : Health) (n : Nat) : Nat :=
  let s := h.siteStates.getD n .held
  if s == .inService && h.tests.any (fun t => t.site == n) then 3 else s.code

/-- HLT registers; the held sites are counted once HLP runs (R13, R442). -/
def Dev.readHlt (d : Dev) (o : Nat) : BitVec 64 :=
  let h := d.health
  match o with
  | 0x00 => regWord [(32, b2n h.autoUnfence), (0, h.wdogGrace.toNat)]
  | 0x08 => regWord [(32, h.testIntervalH.toNat), (30, h.logState.toNat), (24, h.latch.length), (16, h.recoveries.length),
      (8, if d.pwr.phase == .reset || d.pwr.phase == .auth then 0 else countStates d (fun s => s == .held || s == .warm)), (0, countStates d (· == .warm))]
  | 0x10 => regWord [(0, h.events.val.toNat)]
  | 0x40 => packed 1 ((h.overdueNow.take 64).map b2n)
  | 0x48 => packed 1 ((h.overdueNow.drop 64).map b2n)
  | 0x50 => regWord [(0, h.sharedPeer.toNat)]
  | 0x58 => regWord [(0, h.logNext.toNat)]
  | 0x60 => regWord [(0, h.recoverCnt.toNat)]
  | 0x68 => regWord [(0, h.secondCnt.toNat)]
  | 0x70 => regWord [(0, h.latchLost.toNat)]
  | _ =>
    if 0x18 ≤ o && o < 0x40 then packed 4 ((List.range 16).map (fun i => h.shownState (16 * ((o - 0x18) / 8) + i))) else 0

def Dev.readTrc (d : Dev) (o : Nat) : BitVec 64 :=
  let t := d.trc
  match o with
  | 0x00 => regWord [(24, t.flushBeats.toNat), (16, t.recKib.toNat), (3, b2n t.domainEn), (2, b2n t.abandoned), (1, b2n t.healthEn),
      (0, b2n t.en)]
  | 0x08 => regWord [(16, b2n (d.domUp 170)), (0, t.used)]
  | 0x10 => regWord [(16, t.sidDefault.toNat), (0, t.sidHealth.toNat)]
  | 0x18 => regWord [(0, t.lost.toNat)]
  | 0x20 => regWord [(0, t.sent.toNat)]
  | _ => 0

/-- A key slot holds a key. -/
def Sec.holdsKey (s : Sec) (k : Nat) : Bool := s.slots.getD k .empty != .empty

def Sec.read (s : Sec) (o : Nat) : BitVec 64 :=
  let chal := s.chal.getD []
  let ver := fun (b : Bank) => if s.passes b then b.version.toNat else 0
  match o with
  | 0x00 => regWord [(32, s.minEpoch.toNat), (24, s.failCount.toNat), (16, b2n s.activeBank),
      (8, ((List.range 8).map (fun k => if s.holdsKey k then 2 ^ k else 0)).sum),
      (4, ((List.range 4).map (fun i => if (s.tenancies.getD i none).isSome then 2 ^ i else 0)).sum), (2, b2n s.debug), (0, s.lcState.toNat)]
  | 0x08 => BitVec.ofNat 64 (fieldLE uidBytes 0 8)
  | 0x10 => BitVec.ofNat 64 (fieldLE uidBytes 8 8)
  | 0x20 => BitVec.ofNat 64 (fieldLE chal 0 8)
  | 0x28 => BitVec.ofNat 64 (fieldLE chal 8 8)
  | 0x40 => regWord [(32, ver s.bank1), (0, ver s.bank0)]
  | _ => 0

def Dev.readMgt (d : Dev) (o : Nat) : BitVec 64 :=
  let m := d.mgt
  match o with
  | 0x00 => regWord [(8, d.health.latch.length), (4, b2n (d.chan 7).full), (3, b2n (d.pwr.ctlUp && (d.chan 7).winFree)), (2, b2n d.pwr.ctlUp),
      (1, b2n m.access.isSome), (0, b2n d.pwr.ready)]
  | 0x08 => regWord [(0, d.alertStatus.toNat)]
  | 0x10 => regWord [(0, m.alertMask.toNat)]
  | 0x18 => regWord [(16, m.hotDie.toNat), (8, m.tempNow.toNat), (0, m.tempC.toNat)]
  | 0x20 => regWord [(0, d.bt.serial.toNat)]
  | 0x28 => regWord [(0, m.spiErr.toNat)]
  | _ => 0

def Dev.readCol (d : Dev) (o : Nat) : BitVec 64 :=
  match o with
  | 0x00 => regWord [(32, min 32 (d.col.jobs.filter (fun j => !j.completed)).length), (0, (packed 1 (d.col.engines.map (fun e => b2n e.inService))).toNat)]
  | 0x08 => regWord [(0, d.col.flags.val.toNat)]
  | 0x10 => regWord [(0, d.col.events.val.toNat)]
  | 0x18 => regWord [(0, d.col.done.toNat)]
  | _ => 0

/-- COL engine registers; an engine adds within one command of the model, so that BUSY shows a held step or a move of its
segments. -/
def Engine.read (e : Engine) (o : Nat) : BitVec 64 :=
  match o with
  | 0x00 => regWord [(32, e.retries.toNat), (1, b2n (e.retried.isSome || e.moving.isSome)), (0, b2n e.inService)]
  | 0x08 => regWord [(0, e.bytes.toNat)]
  | _ => 0

def Lnk.read (l : Lnk) (o : Nat) : BitVec 64 :=
  match o with
  | 0x00 => regWord [(12, l.w.toNat), (0, l.xyz.toNat)]
  | 0x08 => regWord [(24, l.wSize.toNat), (16, l.xSize.toNat), (8, l.ySize.toNat), (0, l.zSize.toNat)]
  | 0x10 => regWord [(16, b2n l.retrainEn), (0, l.laneThr.toNat)]
  | 0x18 => regWord [(0, l.events.val.toNat)]
  | 0x20 => packed 1 (l.ports.map (fun p => b2n p.owned))
  | _ => 0

def Port.read (p : Port) (n o : Nat) : BitVec 64 :=
  match o with
  | 0x00 => regWord [(32, p.nbr.toNat), (24, p.delay.toNat), (20, b2n p.owned), (16, p.spareShown.toNat), (12, rankOfPort n), (8, dirOf n),
      (0, p.state.code)]
  | 0x08 => regWord [(0, p.fecCe.toNat)]
  | 0x10 => regWord [(0, p.fecUe.toNat)]
  | 0x18 => regWord [(0, p.crcErr.toNat)]
  | 0x20 => regWord [(0, p.flitsTx.toNat)]
  | 0x28 => regWord [(0, p.flitsRx.toNat)]
  | 0x30 => regWord [(32, p.replayFailed.toNat), (0, p.replays.toNat)]
  | 0x38 => regWord [(0, p.laneErr.toNat)]
  | _ => 0

def Stm.read (s : Stm) (o : Nat) : BitVec 64 :=
  match o with
  | 0x00 => regWord [(0, s.etype.toNat)]
  | 0x08 => regWord [(0, s.mac.toNat)]
  | 0x10 => regWord [(0, s.dstMac.toNat)]
  | 0x18 => regWord [(8, s.txPrio.toNat), (0, s.rxMask.toNat)]
  | 0x20 => regWord [(16, b2n s.vlanEn), (0, s.vlanTci.toNat)]
  | 0x28 => regWord [(0, s.owner.toNat)]
  | 0x30 => regWord [(32, s.divLost.toNat), (0, s.divert.length)]
  | 0x80 => regWord [(0, s.expLost.toNat)]
  | _ => if 0x40 ≤ o && o < 0x80 then BitVec.ofNat 64 (fieldLE (s.divert.headD []) (o - 0x40) 8) else 0

def StmPort.read (p : StmPort) (o : Nat) : BitVec 64 :=
  match o with
  | 0x00 => regWord [(0, b2n p.en)]
  | 0x08 => regWord [(0, p.open)]
  | 0x10 => regWord [(0, p.link.toNat)]
  | 0x18 => regWord [(0, p.rxFrames.toNat)]
  | 0x20 => regWord [(0, p.rxDrop.toNat)]
  | 0x28 => regWord [(0, p.txFrames.toNat)]
  | _ => 0

def Stk.read (s : Stk) (repair : Bool) (o : Nat) : BitVec 64 :=
  match o with
  | 0x00 => regWord [(12, s.spareBanksHi.toNat), (8, s.spareBanksLo.toNat), (2, b2n s.lost), (1, b2n s.wipeBusy), (0, b2n s.scrubActive)]
  | 0x08 => regWord [(0, s.interval.toNat)]
  | 0x10 => regWord [(48, s.passes.toNat), (0, s.offset.toNat)]
  | 0x18 => regWord [(0, s.ceCnt.toNat)]
  | 0x20 => regWord [(0, s.ueCnt.toNat)]
  | 0x28 => regWord [(0, s.poisonRead.toNat)]
  | 0x30 => regWord [(62, s.lastKind.toNat), (48, s.lastDie.toNat), (0, s.lastOffset.toNat)]
  | 0x38 => if repair then regWord [(60, s.repOp.toNat), (48, s.repDie.toNat), (40, s.repBank.toNat), (30, s.repRow.toNat), (0, s.repData.toNat)]
      else 0
  | 0x40 => regWord [(0, s.rowRepairs.toNat)]
  | _ => 0

/-- Pending lines of every chunk whose home is a stack (R284, R285). -/
def Dev.pendingLines (d : Dev) (s : Nat) : Nat := (d.cqs.map (fun q => countLines 128 (stackSize * s) (stackSize * (s + 1)) q.pend none)).sum

def Dev.readDsc (d : Dev) (n o : Nat) : BitVec 64 :=
  let s := d.dsc n
  match o with
  | 0x00 => regWord [(21, b2n s.wipeBusy), (20, b2n s.commitBusy), (0, d.pendingLines n)]
  | 0x08 => regWord [(0, s.hits.toNat)]
  | 0x10 => regWord [(0, s.misses.toNat)]
  | 0x18 => regWord [(0, s.atomElems.toNat)]
  | 0x20 => regWord [(0, s.wayWait.toNat)]
  | 0x28 => regWord [(32, s.eccUe.toNat), (0, s.eccCe.toNat)]
  | 0x30 => d.epoch
  | 0x38 => regWord [(0, s.flags.val.toNat)]
  | _ => 0

/-- An engine's registers; `jobs` are the device's SOLVEs, of which the first of the queue shows its TAG. -/
def Slv.read (s : Slv) (jobs : List SolveJob) (o : Nat) : BitVec 64 :=
  match o with
  | 0x00 => regWord [(32, (((s.queue.head?).bind (fun e => jobs.find? (fun j => j.key == e.1))).map (·.tag.toNat)).getD 0),
      (16, ((s.queue.map (·.1)).eraseDups).length), (1, b2n !s.queue.isEmpty), (0, b2n s.inService)]
  | 0x08 => regWord [(0, s.flags.val.toNat)]
  | 0x10 => regWord [(0, s.jobs.toNat)]
  | 0x18 => regWord [(0, s.stale.toNat)]
  | 0x20 => regWord [(0, s.checkCnt.toNat)]
  | 0x28 => regWord [(0, s.busy.toNat)]
  | _ => 0

def WSet.word (w : WSet) : BitVec 64 :=
  if w.st == .empty then 0
  else regWord [(32, w.tag.toNat), (22, w.load.depth), (12, w.load.lanes), (8, w.load.gCode), (0, w.load.fmt)]

def Lbk.read (l : Lbk) (o : Nat) : BitVec 64 :=
  match o with
  | 0x00 => regWord [(20, l.grant.toNat), (12, l.set1.st.code), (8, l.set0.st.code), (4, (l.spareMap.filter (fun m => m.getLsbD 15)).length),
      (0, b2n l.active)]
  | 0x08 => l.set0.word
  | 0x10 => l.set1.word
  | 0x18 => packed 16 ((l.spareMap.take 4).map (·.toNat))
  | 0x20 => packed 16 ((l.spareMap.drop 4).map (·.toNat))
  | 0x28 => regWord [(0, l.checkErr.val.toNat)]
  | 0x30 => regWord [(0, l.checkCnt.toNat)]
  | 0x38 => regWord [(32, l.stallOperand.toNat), (0, l.stallRamp.toNat)]
  | 0x40 => regWord [(32, l.stallWload.toNat), (0, l.stallSwap.toNat)]
  | 0x48 => regWord [(0, l.fill.toNat)]
  | _ => 0

/-- QNT_STATUS.RECOVERY of a site: the step that its core runs is one of the 16 from a switch on (R201). -/
def Dev.siteRecovery (d : Dev) (n : Nat) : Bool :=
  match (d.coreOf n).bind d.stepOf with
  | some (h, s) => (match d.plan? h with | some p => inRecovery p s | none => false)
  | none => false

def Dev.readQnt (d : Dev) (n o : Nat) : BitVec 64 :=
  let q := (d.site n).qnt
  match o with
  | 0x00 => regWord [(2, b2n q.histo), (1, b2n (d.siteRecovery n)), (0, b2n q.twoPass)]
  | 0x08 => regWord [(0, q.flags.val.toNat)]
  | 0x10 => regWord [(0, q.histBase.toNat)]
  | 0x18 => regWord [(0, q.histN.toNat)]
  | 0x20 => regWord [(0, q.elems.toNat)]
  | 0x28 => regWord [(0, q.twoPassElems.toNat)]
  | 0x30 => regWord [(0, q.stall.toNat)]
  | _ => 0

def OutCnt.read (q : OutCnt) (o : Nat) : BitVec 64 :=
  match o with
  | 0x00 => regWord [(0, q.stall.toNat)]
  | 0x08 => regWord [(0, q.extracted.toNat)]
  | 0x10 => regWord [(0, q.consumed.toNat)]
  | _ => 0

/-- A command of an opcode is in progress on a site. -/
def Dev.siteBusy (d : Dev) (n op : Nat) : Bool :=
  match d.coreOf n with
  | some c => (d.cq c).flights.any (fun f => !f.ended && cmdOp f.bytes == op)
  | none => false

def Dev.readAcc (d : Dev) (n o : Nat) : BitVec 64 :=
  let a := (d.site n).acc
  match o with
  | 0x00 => regWord [(1, b2n a.satSeen), (0, b2n (d.siteBusy n opDrain))]
  | 0x08 => regWord [(0, a.flags.val.toNat)]
  | 0x10 => regWord [(0, a.satCnt.toNat)]
  | 0x18 => regWord [(0, a.invCnt.toNat)]
  | 0x20 => regWord [(0, a.drainRows.toNat)]
  | 0x28 => regWord [(0, a.anchorErr.toNat)]
  | 0x30 => regWord [(0, a.stall.toNat)]
  | _ => 0

def Dev.readMvp (d : Dev) (n o : Nat) : BitVec 64 :=
  let m := (d.site n).mvp
  match o with
  | 0x00 => regWord [(1, b2n (d.siteBusy n opElem)), (0, b2n (d.siteBusy n opMmv))]
  | 0x08 => regWord [(0, m.flags.val.toNat)]
  | 0x10 => regWord [(0, m.checkErr.val.toNat)]
  | 0x18 => regWord [(0, m.macCnt.toNat)]
  | 0x20 => regWord [(0, m.stall.toNat)]
  | 0x28 => regWord [(0, m.elemStall.toNat)]
  | 0x30 => regWord [(0, m.elemCnt.toNat)]
  | _ => 0

def Dev.readCcr (d : Dev) (n o : Nat) : BitVec 64 :=
  let c := (d.site n).ccr
  match o with
  | 0x00 => packed 2 ((List.range 8).map (d.threadCode n))
  | 0x08 => c.flagsNow
  | 0x10 => packed 8 (c.streams.map (fun a => min 4 a.queue.length + 8 * b2n !a.queue.isEmpty))
  | 0x18 => regWord [(0, c.textBase.toNat)]
  | 0x20 => c.sig
  | 0x28 => c.sigExp
  | 0x30 => regWord [(0, c.err.val.toNat)]
  | 0x38 => regWord [(49, c.faultThread.toNat), (48, b2n c.faultValid), (0, c.faultPc.toNat)]
  | 0x40 => regWord [(0, c.retired.toNat)]
  | 0x48 => regWord [(0, c.checkCnt.toNat)]
  | 0x50 => regWord [(0, c.regCe.toNat)]
  | _ => 0

/-- What a register of a block that answers reads as; an offset that no chapter defines reads 0 (R457). -/
def Dev.readReg (d : Dev) (path : RegPath) (b : Block) (o : Nat) : BitVec 64 :=
  match b with
  | .dev => d.readDev o
  | .bt => d.bt.read d.now d.ownKey o
  | .fwp => if o < 0x28 then (d.fw (o / 8)).read else 0
  | .pwr => d.pwr.read o
  | .hlt => d.readHlt o
  | .trc => d.readTrc o
  | .sec => d.sec.read o
  | .mgt => d.readMgt o
  | .lbkCommon => if o = 0 then regWord [(0, d.rampStep.toNat)] else 0
  | .colCommon => d.readCol o
  | .lnkCommon => d.lnk.read o
  | .stmCommon => d.stm.read o
  | .stk s => (d.stk s).read (d.repairOpen path) o
  | .dsc n => d.readDsc n o
  | .lnk p => (d.port p).read p o
  | .col e => (d.col.engines.getD e {}).read o
  | .stm q => (d.stmPort q).read o
  | .slv e => (d.slv.getD e {}).read d.solves o
  | .lbk n => (d.site n).lbk.read o
  | .qnt n => d.readQnt n o
  | .outp n => (d.site n).outp.read o
  | .acc n => d.readAcc n o
  | .mvp n => d.readMvp n o
  | .ccr n => d.readCcr n o
  | .pad _ => 0

/-! ### What writes do -/

def Dev.writeBt (d : Dev) (o : Nat) (v : BitVec 64) : Dev :=
  match o with
  | 0x00 =>
    if d.anyArmed then d
    else
      let m := wf v 15 4
      let d := d.modBt (fun b => { b with
        markInterval := if 16 ≤ m && m ≤ 1024 then BitVec.ofNat 12 m else b.markInterval, linkMarkEn := v.getLsbD 1, beatInEn := v.getLsbD 0 })
      if v.getLsbD 0 then d else d.unqualify
  | 0x10 => d.modBt (fun b => { b with events := w1c b.events v 0 })
  | _ => d

def Dev.writePwr (d : Dev) (o : Nat) (v : BitVec 64) : Dev :=
  match o with
  | 0x08 => if v.getLsbD 0 then d.startLinks else d
  | 0x10 => { d with pwr := { d.pwr with warmCount := BitVec.ofNat 16 (wf v 31 16), lastReset := BitVec.ofNat 2 (wf v 1 0) } }
  | 0x18 => { d with pwr := { d.pwr with events := w1c d.pwr.events v 0 } }
  | 0x20 => if wf v 31 0 = 0 then d else { d with pwr := { d.pwr with alertMw := BitVec.ofNat 32 (wf v 31 0) } }
  | 0x80 =>
    let d := { d with pwr := { d.pwr with reqOn := v.getLsbD 8, reqDomain := BitVec.ofNat 8 (wf v 7 0) } }
    if v.getLsbD 63 then d.domainReq (wf v 7 0) (v.getLsbD 8) else d
  | _ => d

def Dev.writeHlt (d : Dev) (o : Nat) (v : BitVec 64) : Dev :=
  match o with
  | 0x00 =>
    let g := wf v 19 0
    d.modHealth (fun h => { h with
      autoUnfence := v.getLsbD 32, wdogGrace := if 1000 ≤ g && g ≤ 1000000 && !d.anyArmed then BitVec.ofNat 20 g else h.wdogGrace })
  | 0x10 => d.modHealth (fun h => { h with events := w1c h.events v 0 })
  | 0x50 => d.modHealth (fun h => { h with sharedPeer := BitVec.ofNat 15 (wf v 14 0) })
  | _ => d

/-- SEC_DBG_CTRL: of bits written together NEW_CHAL acts first and LOCK last. -/
def Dev.writeDbg (d : Dev) (v : BitVec 64) : Dev :=
  let d := if v.getLsbD 0 then d.drawChallenge else d
  let d := if v.getLsbD 1 then d.submitResponse else d
  if v.getLsbD 2 then d.lockDebug else d

def Dev.writeSec (d : Dev) (o : Nat) (v : BitVec 64) : Dev :=
  match o with
  | 0x18 => d.writeDbg v
  | 0x30 => { d with sec := { d.sec with resp := d.sec.resp.extractLsb' 64 64 ++ v } }
  | 0x38 => { d with sec := { d.sec with resp := v ++ d.sec.resp.extractLsb' 0 64 } }
  | _ => d

def Dev.writeMgt (d : Dev) (o : Nat) (v : BitVec 64) : Dev :=
  match o with
  | 0x08 => { d with mgt := { d.mgt with alerts := w1c d.mgt.alerts v 0 } }
  | 0x10 => { d with mgt := { d.mgt with alertMask := BitVec.ofNat 6 (wf v 5 0) } }
  | 0x18 =>
    let t := wf v 7 0
    if 50 ≤ t && t ≤ 110 then { d with mgt := { d.mgt with tempC := BitVec.ofNat 8 t } } else d
  | 0x20 => if d.pwr.phase == .waitCfg then d.modBt (fun b => { b with serial := BitVec.ofNat 40 (wf v 39 0) }) else d
  | _ => d

def Dev.writeLnk (d : Dev) (o : Nat) (v : BitVec 64) : Dev :=
  match o with
  | 0x00 => if d.anyArmed then d else { d with lnk := { d.lnk with xyz := BitVec.ofNat 12 (wf v 11 0) } }
  | 0x08 =>
    let w := wf v 27 24
    let x := wf v 20 16
    let y := wf v 12 8
    let z := wf v 4 0
    if d.anyArmed || !(1 ≤ w && w ≤ 8 && 1 ≤ x && x ≤ 16 && 1 ≤ y && y ≤ 16 && 1 ≤ z && z ≤ 10) then d
    else { d with lnk := { d.lnk with wSize := BitVec.ofNat 4 w, xSize := BitVec.ofNat 5 x, ySize := BitVec.ofNat 5 y, zSize := BitVec.ofNat 5 z } }
  | 0x10 =>
    let t := wf v 15 0
    { d with lnk := { d.lnk with retrainEn := v.getLsbD 16, laneThr := if t = 0 then d.lnk.laneThr else BitVec.ofNat 16 t } }
  | 0x18 => { d with lnk := { d.lnk with events := w1c d.lnk.events v 0 } }
  | _ => d

/-- The owners after a write of STM_PORT_OWNER: a port's value 5 to 7 leaves that port as it was. -/
def ownersOf (old : BitVec 12) (v : BitVec 64) : BitVec 12 :=
  BitVec.ofNat 12 ((List.range 4).map (fun i =>
    let n := wf v (3 * i + 2) (3 * i)
    (if n ≤ 4 then n else bitsOf old.toNat (3 * i + 2) (3 * i)) * 8 ^ i)).sum

def Dev.writeStm (d : Dev) (o : Nat) (v : BitVec 64) : Dev :=
  match o with
  | 0x00 => d.setEthertype (BitVec.ofNat 16 (wf v 15 0))
  | 0x08 => { d with stm := { d.stm with mac := BitVec.ofNat 48 (wf v 47 0) } }
  | 0x10 => { d with stm := { d.stm with dstMac := BitVec.ofNat 48 (wf v 47 0) } }
  | 0x18 => { d with stm := { d.stm with txPrio := BitVec.ofNat 3 (wf v 10 8), rxMask := BitVec.ofNat 8 (wf v 7 0) } }
  | 0x20 => { d with stm := { d.stm with vlanEn := v.getLsbD 16, vlanTci := BitVec.ofNat 16 (wf v 15 0) } }
  | 0x28 => if d.plans.any Plan.live then d else { d with stm := { d.stm with owner := ownersOf d.stm.owner v } }
  | 0x38 => if v.getLsbD 0 then d.popDivert else d
  | _ => d

def Dev.writeStk (d : Dev) (path : RegPath) (s o : Nat) (v : BitVec 64) : Dev :=
  match o with
  | 0x08 =>
    let i := wf v 15 0
    if 1024 ≤ i && i ≤ 25600 then d.modStk s (fun t => { t with interval := BitVec.ofNat 16 i }) else d
  | 0x38 => if d.repairOpen path then d.writeRepair s v else d
  | _ => d

/-- A write of 8 bytes to a register of a block that answers, under its access codes (R14, R458); an offset that no chapter defines
ignores it (R457). -/
def Dev.writeReg (d : Dev) (path : RegPath) (b : Block) (o : Nat) (v : BitVec 64) : Dev :=
  match b with
  | .dev => if o = 8 then { d with devErr := w1c d.devErr v 0 } else d
  | .bt => d.writeBt o v
  | .fwp => if o < 0x28 && o % 8 = 0 then d.modFw (o / 8) (fun f => { f with restarts := BitVec.ofNat 16 (wf v 47 32) }) else d
  | .pwr => d.writePwr o v
  | .hlt => d.writeHlt o v
  | .trc => match o with
    | 0x00 => d.writeTrcCtrl v
    | 0x10 => { d with trc := { d.trc with sidDefault := BitVec.ofNat 16 (wf v 31 16), sidHealth := BitVec.ofNat 16 (wf v 15 0) } }
    | _ => d
  | .sec => d.writeSec o v
  | .mgt => d.writeMgt o v
  | .lbkCommon =>
    let s := wf v 4 0
    if o = 0 && 1 ≤ s && s ≤ 24 && !d.anyArmed then { d with rampStep := BitVec.ofNat 5 s } else d
  | .colCommon => match o with
    | 0x08 => { d with col := { d.col with flags := w1c d.col.flags v 0 } }
    | 0x10 => { d with col := { d.col with events := w1c d.col.events v 0 } }
    | _ => d
  | .lnkCommon => d.writeLnk o v
  | .stmCommon => d.writeStm o v
  | .stk s => d.writeStk path s o v
  | .dsc n => if o = 0x38 then d.modDsc n (fun s => { s with flags := w1c s.flags v 0 }) else d
  | .lnk _ => d
  | .col _ => d
  | .stm q => if o = 0 then d.setPortEn q (v.getLsbD 0) else d
  | .slv e => if o = 8 then d.modSlv e (fun s => { s with flags := w1c s.flags v 0 }) else d
  | .lbk n => if o = 0x28 then d.modLbk n (fun l => { l with checkErr := w1c l.checkErr v 0 }) else d
  | .qnt n => if o = 8 then d.modSite n (fun s => { s with qnt := { s.qnt with flags := w1c s.qnt.flags v 0 } }) else d
  | .outp _ => d
  | .acc n => if o = 8 then d.modSite n (fun s => { s with acc := { s.acc with flags := w1c s.acc.flags v 0 } }) else d
  | .mvp n => match o with
    | 0x08 => d.modSite n (fun s => { s with mvp := { s.mvp with flags := w1c s.mvp.flags v 0 } })
    | 0x10 => d.modSite n (fun s => { s with mvp := { s.mvp with checkErr := w1c s.mvp.checkErr v 0 } })
    | _ => d
  | .ccr n => if o = 0x30 then d.modCcr n (fun c => { c with err := w1c c.err v 0 }) else d
  | .pad _ => d

/-! ### The control space (R457 to R461) -/

def Dev.setDevErr (d : Dev) (i : Nat) : Dev := { d with devErr := d.devErr.raise (BitVec.ofNat 3 (2 ^ i)) }

/-- A path reaches the control space at all (R433, R459, R460): PF0 through its BAR4 once the endpoint is up, the TAP while DEBUG is
unlocked, the management port while VAUX3P3 is valid. -/
def Dev.pathOpen (d : Dev) : RegPath → Bool
  | .pf0 => d.pwr.pcieUp
  | .jtag => d.sec.debug && d.pwr.vauxOk
  | .spi => d.pwr.vauxOk
  | .vf _ => false

/-- One aligned word of the control space written by PCIe or JTAG; `whole` says that all its 8 bytes are. -/
def Dev.spaceWrite (d : Dev) (path : RegPath) (off : Nat) (whole : Bool) (v : BitVec 64) : Dev :=
  if !d.pathOpen path then d
  else
    match blockOf off with
    | none => if d.pwr.ctlUp then d.setDevErr 0 else d
    | some b =>
      if !d.blockUp b then (if d.pwr.ctlUp then d.setDevErr 2 else d)
      else if !whole then (if d.pwr.ctlUp then d.setDevErr 1 else d)
      else d.writeReg path b (off % 0x1000) v

/-- One aligned word of the control space read by PCIe or JTAG. -/
def Dev.spaceRead (d : Dev) (path : RegPath) (off : Nat) : BitVec 64 × Dev :=
  if !d.pathOpen path then (0, d)
  else
    match blockOf off with
    | none => (0, if d.pwr.ctlUp then d.setDevErr 0 else d)
    | some b =>
      if !d.blockUp b then (0, if d.pwr.ctlUp then d.setDevErr 2 else d)
      else (d.readReg path b (off % 0x1000), d)

/-! ### Registers of mailbox pages and queue windows (R63, R125, R458) -/

/-- A mailbox register of a page reads as (03, MBX registers). -/
def Dev.readMbx (d : Dev) (c o : Nat) : BitVec 64 :=
  let x := d.chan c
  match o with
  | 0x2000 => regWord [(8, x.msixVec.toNat), (0, b2n x.msixEn)]
  | 0x2008 => regWord [(8, if c = 5 then min 255 x.responses.length else x.outstanding), (5, b2n x.resetBusy), (4, b2n x.evtOverflow),
      (2, b2n (d.respValid c)), (1, b2n x.full), (0, b2n x.winFree)]
  | 0x2020 => regWord [(0, x.err.val.toNat)]
  | 0x2028 => regWord [(0, x.lastSeq.toNat)]
  | 0x2030 => regWord [(0, x.refused.toNat)]
  | 0x2038 => regWord [(0, x.evtLost.toNat)]
  | _ => 0

/-- The response window of a channel: its oldest response, 0 past it. -/
def Dev.responseWindow (d : Dev) (c off n : Nat) : List Byte :=
  ((((d.chan c).responses.headD []).drop off) ++ List.replicate n 0).take n

/-- A function's BARs answer (R409, R444). -/
def Dev.funcUp (d : Dev) (func : Nat) : Bool := d.pwr.pcieUp && (func = 0 || d.sec.vfEnable)

/-- 8 bytes of a function's MSI-X table, and of its pending-bit array (R455). -/
def Dev.msixTable (d : Dev) (func off : Nat) : BitVec 64 := BitVec.ofNat 64 (leNat (memBytes (d.msixTab.getD func []) off 8))
def Dev.msixPending (d : Dev) (func off : Nat) : BitVec 64 :=
  packed 1 ((List.range 64).map (fun i => b2n (d.msix.contains ⟨func, BitVec.ofNat 8 (8 * off + i), true⟩)))

/-- What 8 bytes of a channel page read as: the response window but that of channel 7, and the registers (R63). -/
def Dev.pageRead (d : Dev) (c o : Nat) : BitVec 64 :=
  if 0x1000 ≤ o && o < 0x2000 then (if c = 7 then 0 else BitVec.ofNat 64 (leNat (d.responseWindow c (o - 0x1000) 8)))
  else if 0x2000 ≤ o && o < 0x2040 then d.readMbx c o
  else 0

/-- What 8 bytes of a function's BAR0 read as: the pages of its channels, in PF0 those of channels 0, 5, 6 and 7, its MSI-X table and
pending-bit array; all else reads 0 (R63, R455). -/
def Dev.bar0Read (d : Dev) (func off : Nat) : BitVec 64 :=
  let table := if func = 0 then 0x20000 else 0x8000
  let pba := if func = 0 then 0x30000 else 0xC000
  if !d.funcUp func then 0
  else if table ≤ off && off < table + 0x1000 then d.msixTable func (off - table)
  else if pba ≤ off && off < pba + 0x20 then d.msixPending func (off - pba)
  else if func = 0 then
    (let c := off / 0x4000
     if c == 0 || c == 5 || c == 6 || c == 7 then d.pageRead c (off % 0x4000) else 0)
  else if off < 0x4000 then d.pageRead func off
  else 0

/-- A read of PF0's BAR4, which is the device control space; a VF has none (R455). -/
def Dev.bar4Read (d : Dev) (func off : Nat) : BitVec 64 × Dev :=
  if func = 0 && d.funcUp 0 then d.spaceRead .pf0 (off / 8 * 8) else (0, d)

/-- The configuration space of a function (R456); VF Enable is `Sec.vfEnable`. -/
def configSpace (func : Nat) : ConfigSpace :=
  if func = 0 then
    { device := 0x4064, vendor := Config.vendorId, class_ := 0x120000, link := some (16, 64), flit := true, flr := true, vectors := 256
      sriov := some { totalVfs := 4, initialVfs := 4, firstOffset := 1, stride := 1 }, aer := true }
  else
    { device := 0x4065, vendor := Config.vendorId, class_ := 0x120000, link := none, flit := false, flr := true, vectors := 256
      sriov := none, aer := false }

/-- A write of a mailbox register. -/
def Dev.writeMbx (d : Dev) (c o : Nat) (v : BitVec 64) : Dev :=
  match o with
  | 0x2000 =>
    let d := d.modChan c (fun x => { x with msixVec := BitVec.ofNat 8 (wf v 15 8), msixEn := v.getLsbD 0 && c != 7 })
    if v.getLsbD 16 then d.resetChan c else d
  | 0x2010 => if v.getLsbD 0 then d.ring c else d
  | 0x2018 => if v.getLsbD 0 then d.pop c else d
  | 0x2020 => d.modChan c (fun x => { x with err := w1c x.err v 0 })
  | _ => d

/-- A register of a queue window reads as (06, CQ registers). -/
def Dev.readCq (d : Dev) (c o : Nat) : BitVec 64 :=
  let r := (d.cq c).regs
  match o with
  | 0x00 => regWord [(0, r.tail.toNat)]
  | 0x08 => regWord [(0, r.head.toNat)]
  | 0x10 => regWord [(0, r.retire.toNat)]
  | 0x18 => regWord [(0, r.credit)]
  | 0x20 => regWord [(0, r.exec.toNat)]
  | 0x28 => regWord [(4, b2n (r.cplTail - r.cplHead == 256)), (3, b2n r.halted), (2, b2n r.frozen), (1, b2n r.underrunNow), (0, b2n (d.owned c))]
  | 0x30 => regWord [(0, r.err.val.toNat)]
  | 0x38 => regWord [(0, r.cplHead.toNat)]
  | 0x40 => regWord [(0, r.cplTail.toNat)]
  | 0x48 => regWord [(2, b2n r.brkHit), (1, b2n r.brkTagEn), (0, b2n r.brkCountEn)]
  | 0x50 => regWord [(0, r.brkCount.toNat)]
  | 0x58 => regWord [(32, r.brkMask.toNat), (0, r.brkValue.toNat)]
  | 0x60 => regWord [(24, b2n r.irqEn), (16, r.irqVec.toNat), (0, r.irqThreshold.toNat)]
  | 0x68 => regWord [(0, r.underruns.toNat)]
  | 0x70 => regWord [(0, r.cplLost.toNat)]
  | _ => 0

/-- The 16 bytes of a completion entry (R142). -/
def CplEnt.bytes (e : CplEnt) : List Byte := bytesLE 8 e.ts.toNat ++ bytesLE 4 e.tag.toNat ++ bytesLE 2 e.status.toNat ++ [e.cflags, 0]

/-- What 8 bytes of a function's BAR2 read as: the completion ring and the registers of the queue windows it sees; the command slots, the
rest of a window and every other window read 0 (R125). -/
def Dev.bar2Read (d : Dev) (func off : Nat) : BitVec 64 :=
  let o := off % 0x20000
  match d.queueOf func (off / 0x20000) with
  | none => 0
  | some c =>
    if !d.funcUp func then 0
    else if 0x10000 ≤ o && o < 0x11000 then
      BitVec.ofNat 64 (fieldLE (((d.cq c).ring.getD ((o - 0x10000) / 16) {}).bytes) (o % 16) 8)
    else if 0x11000 ≤ o && o < 0x11080 then d.readCq c (o - 0x11000)
    else 0

/-- A write of a register of a queue window but CQ_TAIL. -/
def Cq.writeReg (q : Cq) (o : Nat) (v : BitVec 64) : Cq :=
  let r := q.regs
  match o with
  | 0x30 => { q with regs := { r with err := w1c r.err v 0 } }
  | 0x38 =>
    let h := BitVec.ofNat 32 (wf v 31 0)
    if (h - r.cplHead).toNat ≤ (r.cplTail - r.cplHead).toNat then { q with regs := { r with cplHead := h } } else q
  | 0x48 => { q with brkDue := q.brkDue && v.getLsbD 0, regs := { r with brkTagEn := v.getLsbD 1, brkCountEn := v.getLsbD 0 } }
  | 0x50 => { q with brkDue := false, regs := { r with brkCount := BitVec.ofNat 48 (wf v 47 0) } }
  | 0x58 => { q with regs := { r with brkMask := BitVec.ofNat 32 (wf v 63 32), brkValue := BitVec.ofNat 32 (wf v 31 0) } }
  | 0x60 =>
    let t := wf v 10 0
    { q with regs := { r with
      irqEn := v.getLsbD 24, irqVec := BitVec.ofNat 8 (wf v 23 16), irqThreshold := if t ≤ 0x400 then BitVec.ofNat 11 t else r.irqThreshold } }
  | _ => q

/-- A write of a register of window `w` of a function. -/
def Dev.writeCq (d : Dev) (func : Fin 5) (w : Fin 72) (o : Nat) (v : BitVec 64) : Dev :=
  if o = 0 then cqTailWrite func w v d
  else match d.queueOf func.val w.val with
    | some c => d.modCq c (fun q => q.writeReg o v)
    | none => d

end Sys2Proof.Machine
end

