-- ==== Sys2Proof/Machine/Access.lean ====
section
/-! DEFINITION. Writes of registers by PCIe, the management port and JTAG: the rows with a meaning of their own, and the write of any
other register (R14 to R16, R282, R351, R360, R394, R406, R434, R443, R458 to R461). -/

namespace Sys2Proof.Machine

/-- A write of one whole register of the control space by a path (R458, R460); a write of the management port that R450 refuses has
no effect. -/
def Dev.pathWrite (d : Dev) (path : RegPath) (off : Nat) (v : BitVec 64) : Dev :=
  if path = .spi then
    match blockOf off with
    | some b => if d.blockUp b then d.writeReg .spi b (off % 0x1000) v else d
    | none => d
  else d.spaceWrite path off true v

/-! ### Rows of their own -/

/-- DIVERT_POP: STM_DIV_POP.POP (R360). -/
def divertPop (path : RegPath) (d : Dev) : Dev := d.pathWrite path 0xB038 1
/-- ETHERTYPE_WRITE: STM_ETHERTYPE (R351). -/
def ethertypeWrite (path : RegPath) (v : BitVec 16) (d : Dev) : Dev := d.pathWrite path 0xB000 (v.setWidth 64)
/-- TRACE_CTRL_WRITE: TRC_CTRL (R394). -/
def traceCtrlWrite (path : RegPath) (v : BitVec 64) (d : Dev) : Dev := d.pathWrite path 0x5000 v
/-- CFG_DONE: PWR_BOOT.CFG_DONE (R443). -/
def cfgDone (path : RegPath) (d : Dev) : Dev := d.pathWrite path 0x3008 1
/-- DOMAIN_POWER_UP: PWR_DOMAIN_REQ with GO and ON (R434, R436). -/
def domainPowerUp (path : RegPath) (k : BitVec 8) (d : Dev) : Dev := d.pathWrite path 0x3080 (BitVec.ofNat 64 (2 ^ 63 + 256 + k.toNat))
/-- DOMAIN_POWER_DOWN: PWR_DOMAIN_REQ with GO and without ON (R434, R436). -/
def domainPowerDown (path : RegPath) (k : BitVec 8) (d : Dev) : Dev := d.pathWrite path 0x3080 (BitVec.ofNat 64 (2 ^ 63 + k.toNat))
/-- NEW_CHAL: SEC_DBG_CTRL.NEW_CHAL (R406). -/
def newChal (path : RegPath) (d : Dev) : Dev := d.pathWrite path 0x6018 1
/-- SUBMIT: SEC_DBG_CTRL.SUBMIT (R406). -/
def submit (path : RegPath) (d : Dev) : Dev := d.pathWrite path 0x6018 2
/-- LOCK: SEC_DBG_CTRL.LOCK (R406). -/
def lock (path : RegPath) (d : Dev) : Dev := d.pathWrite path 0x6018 4

/-- The value of STK_REPAIR with GO, OP, DIE, BANK and ROW. -/
def repairValue (op : Nat) (die : Fin 2) (bank : Fin 128) (row : Fin 1024) : BitVec 64 :=
  BitVec.ofNat 64 (2 ^ 63 + op * 2 ^ 60 + die.val * 2 ^ 48 + bank.val * 2 ^ 40 + row.val * 2 ^ 30)
/-- The offset of STK_REPAIR of a stack. -/
def repairOff (s : Fin 16) : Nat := 0x10038 + 0x1000 * s.val

/-- FUSE_SPARE_ROW: STK_REPAIR with OP 1 and GO (R282). -/
def fuseSpareRow (path : RegPath) (s : Fin 16) (die : Fin 2) (bank : Fin 128) (row : Fin 1024) (d : Dev) : Dev :=
  d.pathWrite path (repairOff s) (repairValue 1 die bank row)
/-- FUSE_SPARE_BANK: STK_REPAIR with OP 2 and GO (R282). -/
def fuseSpareBank (path : RegPath) (s : Fin 16) (die : Fin 2) (bank : Fin 128) (row : Fin 1024) (d : Dev) : Dev :=
  d.pathWrite path (repairOff s) (repairValue 2 die bank row)
/-- RAW_READ: STK_REPAIR with OP 3 and GO (R282). -/
def rawRead (path : RegPath) (s : Fin 16) (die : Fin 2) (bank : Fin 128) (row : Fin 1024) (d : Dev) : Dev :=
  d.pathWrite path (repairOff s) (repairValue 3 die bank row)

/-! ### REGISTER_WRITE (R458) -/

/-- The aligned words that a write of some bytes touches: the offset of each, whether all its 8 bytes are written, and the value. -/
def wordParts : Nat → Nat → List Byte → List (Nat × Bool × BitVec 64)
  | 0, _, _ => []
  | fuel + 1, off, data =>
    if data.isEmpty then []
    else
      let n := 8 - off % 8
      (off / 8 * 8, off % 8 == 0 && decide (8 ≤ data.length), BitVec.ofNat 64 (leNat (data.take 8))) :: wordParts fuel (off + n) (data.drop n)

/-- One word of a mailbox page: the windows take writes of any size, the registers whole ones (R63, R458). -/
def Dev.pageWrite (d : Dev) (func c off : Nat) (whole : Bool) (v : BitVec 64) : Dev :=
  if !d.canUse func c || off < 0x2000 then d
  else if !whole then d.setDevErr 1
  else d.writeMbx c off v

/-- One word of the registers of a queue window (R125, R458). -/
def Dev.queueWrite (d : Dev) (func : Fin 5) (w : Fin 72) (off : Nat) (whole : Bool) (v : BitVec 64) : Dev :=
  if !d.funcUp func.val || (d.queueOf func.val w.val).isNone || off < 0x11000 || 0x11080 ≤ off then d
  else if !whole then d.setDevErr 1
  else d.writeCq func w (off - 0x11000) v

/-- REGISTER_WRITE: bytes written to a register: aligned whole words under their access codes, narrower ones ignored with
PARTIAL_WRITE; an access across an 8-byte boundary is split (R458). -/
def registerWrite (t : RegTarget) (data : List Byte) (d : Dev) : Dev :=
  match t with
  | .space jtag off =>
    (wordParts data.length off.toNat data).foldl (fun (d : Dev) w => d.spaceWrite (if jtag then .jtag else .pf0) w.1 w.2.1 w.2.2) d
  | .page func ch off =>
    if off.val < 0x1000 then (if d.canUse func.val ch.val then d.windowWrite ch.val off.val (data.take (0x1000 - off.val)) else d)
    else (wordParts data.length off.val data).foldl (fun (d : Dev) w => d.pageWrite func.val ch.val w.1 w.2.1 w.2.2) d
  | .queue func win off => (wordParts data.length off.val data).foldl (fun (d : Dev) w => d.queueWrite func win w.1 w.2.1 w.2.2) d
  | .msixTable func off =>
    if d.funcUp func.val then
      Dev.releaseMsix { d with msixTab := d.msixTab.modify func.val (fun m => memPutAll m off.val (data.take (4096 - off.val))) } func.val
    else d
  | .vfEnable => if d.pwr.pcieUp then { d with sec := { d.sec with vfEnable := true } } else d

/-! ### Commands -/

/-- FUSE_SPARE_ROW (R282). -/
def execFuseSpareRow (path : RegPath) (s : Fin 16) (die : Fin 2) (bank : Fin 128) (row : Fin 1024) (st : State) : Out State := run (fuseSpareRow path s die bank row) st
/-- FUSE_SPARE_BANK (R282). -/
def execFuseSpareBank (path : RegPath) (s : Fin 16) (die : Fin 2) (bank : Fin 128) (row : Fin 1024) (st : State) : Out State := run (fuseSpareBank path s die bank row) st
/-- RAW_READ (R282). -/
def execRawRead (path : RegPath) (s : Fin 16) (die : Fin 2) (bank : Fin 128) (row : Fin 1024) (st : State) : Out State := run (rawRead path s die bank row) st
/-- DIVERT_POP (R360). -/
def execDivertPop (path : RegPath) (st : State) : Out State := run (divertPop path) st
/-- ETHERTYPE_WRITE (R351). -/
def execEthertypeWrite (path : RegPath) (v : BitVec 16) (st : State) : Out State := run (ethertypeWrite path v) st
/-- TRACE_CTRL_WRITE (R394). -/
def execTraceCtrlWrite (path : RegPath) (v : BitVec 64) (st : State) : Out State := run (traceCtrlWrite path v) st
/-- NEW_CHAL (R406). -/
def execNewChal (path : RegPath) (st : State) : Out State := run (newChal path) st
/-- SUBMIT (R406). -/
def execSubmit (path : RegPath) (st : State) : Out State := run (submit path) st
/-- LOCK (R406). -/
def execLock (path : RegPath) (st : State) : Out State := run (lock path) st
/-- CFG_DONE (R443). -/
def execCfgDone (path : RegPath) (st : State) : Out State := run (cfgDone path) st
/-- DOMAIN_POWER_UP (R434). -/
def execDomainPowerUp (path : RegPath) (k : BitVec 8) (st : State) : Out State := run (domainPowerUp path k) st
/-- DOMAIN_POWER_DOWN (R434). -/
def execDomainPowerDown (path : RegPath) (k : BitVec 8) (st : State) : Out State := run (domainPowerDown path k) st
/-- REGISTER_WRITE (R458). -/
def execRegisterWrite (t : RegTarget) (data : List Byte) (st : State) : Out State := run (registerWrite t data) st

end Sys2Proof.Machine
end

