-- ==== Sys2Proof/Machine/Mgt.lean ====
section
/-! DEFINITION. The management port (file 24): SPI frames, the register access they start, channel 7 and the fault latch
(R447 to R453). -/

namespace Sys2Proof.Machine

def Dev.modMgt (d : Dev) (f : Mgt → Mgt) : Dev := { d with mgt := f d.mgt }
/-- ACC_ERR: the last access or channel command was refused. -/
def Dev.accErr (d : Dev) : Dev := d.modMgt (fun m => { m with accErr := true })

/-- The status byte (R448). -/
def Dev.statusByte (d : Dev) : BitVec 8 :=
  BitVec.ofNat 8 (128 * b2n d.mgt.frameErr + 64 * b2n d.mgt.access.isSome + 32 * b2n d.mgt.dataValid + 16 * b2n d.alertL +
    8 * b2n d.latchFault + 4 * b2n (d.pwr.ctlUp && d.respValid 7) + 2 * b2n d.mgt.accErr + b2n d.pwr.ready)

/-- The length in bytes that a command byte gives its frame, `n` being the N of a channel 7 access; none for a byte that the table of R447
does not list. -/
def spiLength (cmd : BitVec 8) (n : Nat) : Option Nat :=
  match cmd.toNat with
  | 0x00 => some 1 | 0x10 => some 7 | 0x11 => some 15 | 0x12 => some 9 | 0x20 => some (5 + n)
  | 0x21 => some 1 | 0x22 => some (5 + n) | 0x23 => some 1 | 0x30 => some 65 | 0x31 => some 1
  | _ => none

/-- A frame of `edges` rising edges that begins with a command byte: the status byte is shifted out during it, and the frame acts when its
length is exact, and is discarded otherwise (R447 to R449). `miso` are the bytes that the device shifts out after it. -/
def Dev.frame (d : Dev) (edges : Nat) (cmd : BitVec 8) (n : Nat) (miso : List Byte) (act : Dev → Dev) : Dev :=
  if !d.pwr.vauxOk then d
  else
    let st := d.statusByte
    let d := d.modMgt (fun m => { m with
      status := st, miso := miso.take (edges / 8 - 1), frameErr := m.frameErr && decide (edges < 8), accErr := m.accErr && decide (edges < 8) })
    if (spiLength cmd n).any (fun n => edges == 8 * n) then act d
    else d.modMgt (fun m => { m with spiErr := satInc m.spiErr, frameErr := true })

/-- STATUS: a frame of the command byte alone, 0x00; a byte that the table does not list gives a frame that is discarded. -/
def status (cmd : BitVec 8) (edges : Nat) (d : Dev) : Dev := d.frame edges cmd 0 [] id

/-! ### Register access (R450) -/

/-- The control space. -/
def spaceBase : Nat := 0xF000000000

/-- An address that REG_READ and REG_WRITE take: aligned, in the control space, and in a block that answers; before the control part
is up only the management port's block does. -/
def Dev.mgtOk (d : Dev) (a : Nat) : Bool :=
  a % 8 == 0 && decide (spaceBase ≤ a) && decide (a < spaceBase + 0x100000000) &&
  (match blockOf (a - spaceBase) with | some b => d.blockUp b | none => d.pwr.ctlUp)

/-- REG_READ. -/
def regRead (addr : BitVec 48) (edges : Nat) (d : Dev) : Dev := d.frame edges 0x10 0 [] (fun d =>
  let a := addr.toNat
  if d.mgt.access.isSome || !d.mgtOk a then (d.modMgt (fun m => { m with dataValid := false })).accErr
  else d.modMgt (fun m => { m with access := some (.read a), dataValid := false }))

/-- REG_WRITE. -/
def regWrite (addr : BitVec 48) (data : BitVec 64) (edges : Nat) (d : Dev) : Dev := d.frame edges 0x11 0 [] (fun d =>
  let a := addr.toNat
  if d.mgt.access.isSome || !d.mgtOk a then d.accErr
  else d.modMgt (fun m => { m with access := some (.write a data) }))

/-- MGT_ACCESS_DONE: the access completes; a block that has gone off meanwhile refuses it. -/
def mgtAccessDone (d : Dev) : Dev :=
  match d.mgt.access with
  | none => d
  | some (.read a) =>
    let d := d.modMgt (fun m => { m with access := none })
    if !d.mgtOk a then d.accErr
    else
      let v := match blockOf (a - spaceBase) with
        | some b => d.readReg .spi b ((a - spaceBase) % 0x1000)
        | none => 0
      d.modMgt (fun m => { m with data := v, dataValid := true })
  | some (.write a v) =>
    let d := d.modMgt (fun m => { m with access := none })
    if d.mgtOk a then d.pathWrite .spi (a - spaceBase) v else d.accErr

/-- DATA_READ: the held read data, zeros while there is none. -/
def dataRead (edges : Nat) (d : Dev) : Dev := d.frame edges 0x12 0 (bytesLE 8 (if d.mgt.dataValid then d.mgt.data.toNat else 0)) id

/-! ### Channel 7 (R452) -/

/-- A channel command, which needs the control part. -/
def Dev.channel7 (d : Dev) (f : Dev → Dev) : Dev := if d.pwr.ctlUp then f d else d.accErr

/-- OFFSET and N of a window frame that may act. -/
def windowFrameOk (off n : BitVec 16) : Bool := decide (n.toNat ≤ 256) && decide (off.toNat + n.toNat ≤ 4096)

/-- CH7_WRITE. -/
def ch7Write (off n : BitVec 16) (data : List Byte) (edges : Nat) (d : Dev) : Dev := d.frame edges 0x20 n.toNat [] (fun d =>
  if !windowFrameOk off n then d.accErr
  else d.channel7 (fun d =>
    if n = 0 then d else d.windowWrite 7 off.toNat ((data ++ List.replicate n.toNat 0).take n.toNat)))

/-- CH7_RING; a doorbell that the channel does not take is a command refused (R66, R448). -/
def ch7Ring (edges : Nat) (d : Dev) : Dev := d.frame edges 0x21 0 [] (fun d => d.channel7 (fun d =>
  let x := d.chan 7
  if x.resetBusy || !x.winFree || 64 ≤ x.outstanding then (d.ring 7).accErr else d.ring 7))

/-- CH7_READ: the bytes of the response window follow OFFSET and N. -/
def ch7Read (off n : BitVec 16) (edges : Nat) (d : Dev) : Dev :=
  let ok := windowFrameOk off n && d.pwr.ctlUp
  d.frame edges 0x22 n.toNat (List.replicate 4 0 ++ (if ok then d.responseWindow 7 off.toNat n.toNat else List.replicate n.toNat 0))
    (fun d => if ok then d else d.accErr)

/-- CH7_POP. -/
def ch7Pop (edges : Nat) (d : Dev) : Dev := d.frame edges 0x23 0 [] (fun d => d.channel7 (fun d => d.pop 7))

/-! ### The fault latch (R453) -/

/-- LATCH_READ: the oldest record, zeros when there is none. -/
def latchRead (edges : Nat) (d : Dev) : Dev :=
  d.frame edges 0x30 0 (match d.health.latch with | r :: _ => r.bytes | [] => List.replicate 64 0) id

/-- The oldest record of the latch removed; a record that found it full in the same cycle is placed after the pop (R453). -/
def Health.popLatch (h : Health) : Health :=
  match h.latchMissed with
  | [] => { h with latch := h.latch.tail }
  | (r, counted) :: rest =>
    { h with latch := h.latch.tail ++ [r], latchNow := h.latchNow + 1, latchMissed := rest
             latchLost := if counted then h.latchLost - 1 else h.latchLost }

/-- LATCH_POP; the records of its own cycle come after it, so that with no other the latch is empty (R453). -/
def latchPop (edges : Nat) (d : Dev) : Dev := d.frame edges 0x31 0 [] (fun d =>
  if d.health.latch.length ≤ d.health.latchNow then d.accErr else d.modHealth Health.popLatch)

/-! ### Commands -/

/-- STATUS (R447). -/
def execStatus (cmd : BitVec 8) (edges : Nat) (st : State) : Out State := run (status cmd edges) st
/-- REG_READ (R450). -/
def execRegRead (addr : BitVec 48) (edges : Nat) (st : State) : Out State := run (regRead addr edges) st
/-- REG_WRITE (R450). -/
def execRegWrite (addr : BitVec 48) (data : BitVec 64) (edges : Nat) (st : State) : Out State := run (regWrite addr data edges) st
/-- MGT_ACCESS_DONE (R450). -/
def execMgtAccessDone (s : State) : Out State := run mgtAccessDone s
/-- DATA_READ (R447). -/
def execDataRead (edges : Nat) (st : State) : Out State := run (dataRead edges) st
/-- CH7_WRITE (R452). -/
def execCh7Write (off n : BitVec 16) (data : List Byte) (edges : Nat) (st : State) : Out State := run (ch7Write off n data edges) st
/-- CH7_RING (R452). -/
def execCh7Ring (edges : Nat) (st : State) : Out State := run (ch7Ring edges) st
/-- CH7_READ (R452). -/
def execCh7Read (off n : BitVec 16) (edges : Nat) (st : State) : Out State := run (ch7Read off n edges) st
/-- CH7_POP (R452). -/
def execCh7Pop (edges : Nat) (st : State) : Out State := run (ch7Pop edges) st
/-- LATCH_READ (R453). -/
def execLatchRead (edges : Nat) (st : State) : Out State := run (latchRead edges) st
/-- LATCH_POP (R453). -/
def execLatchPop (edges : Nat) (st : State) : Out State := run (latchPop edges) st

end Sys2Proof.Machine
end

