-- ==== Sys2Proof/Machine/Jtag.lean ====
section
/-! DEFINITION. The JTAG TAP and the IEEE 1687 network (R397, R398). -/

namespace Sys2Proof.Machine

/-! ### The TAP (R397) -/

/-- The TAP works whenever VAUX3P3 is valid, in every reset state. -/
def Dev.tap (d : Dev) (f : Jtag → Jtag) : Dev := if d.pwr.vauxOk then { d with jtag := f d.jtag } else d

/-- IDCODE: the register reads 0xA004_0393. -/
def idcode (d : Dev) : Dev := d.tap (fun j => { j with ir := 0x01, data := bytesLE 4 0xA0040393 })
/-- SAMPLE/PRELOAD: the pins are captured, and the boundary register takes what is shifted in. -/
def samplePreload (bits : List Bool) (d : Dev) : Dev :=
  let (k, d) := d.draw
  d.tap (fun j => { j with ir := 0x02, preload := bits, sampled := Config.boundary k })
/-- EXTEST: the boundary register drives the pins while SYS_RST_L is low. -/
def extest (d : Dev) : Dev := d.tap (fun j => { j with ir := 0x03 })
/-- CLAMP: as EXTEST, with the bypass register selected. -/
def clamp (d : Dev) : Dev := d.tap (fun j => { j with ir := 0x04 })
/-- HIGHZ: the pins are released while SYS_RST_L is low. -/
def highz (d : Dev) : Dev := d.tap (fun j => { j with ir := 0x05 })
/-- IJTAG_SEL: the IEEE 1687 network. -/
def ijtagSel (d : Dev) : Dev := d.tap (fun j => { j with ir := 0x10 })
/-- BYPASS, and every code that the table does not list: the bypass register's one bit, captured as 0, goes out and each TDI bit follows
it a bit later.  PRESUMED: IEEE 1149.1, which R397 names, gives the captured 0 (log entry 134). -/
def bypass (code : BitVec 8) (tdi : List Bool) (d : Dev) : Dev :=
  d.tap (fun j => { j with
    ir := if (1 ≤ code.toNat && code.toNat ≤ 5) || code = 0x10 then 0xFF else code
    tdo := (false :: tdi).take tdi.length, bypassBit := tdi.getLastD false })
/-- TAP_RESET: Test-Logic-Reset, with IDCODE selected. -/
def tapReset (d : Dev) : Dev := d.tap (fun j => { j with ir := 0x01 })

/-- What the instruction in force does: EXTEST, CLAMP and HIGHZ act only while SYS_RST_L is low, IJTAG_SEL only while DEBUG is
unlocked; otherwise they are BYPASS (R397). -/
def Dev.tapActs (d : Dev) : BitVec 8 :=
  let ir := d.jtag.ir
  if ir = 0x01 || ir = 0x02 then ir
  else if ir = 0x03 || ir = 0x04 || ir = 0x05 then (if d.pwr.sysRst then ir else 0xFF)
  else if ir = 0x10 then (if d.sec.debug then ir else 0xFF)
  else 0xFF

/-! ### The IEEE 1687 network (R398) -/

/-- A site whose state may be read: its core's queue frozen, or the site held or fenced. -/
def Dev.siteStopped (d : Dev) (n : Nat) : Bool :=
  (match d.coreOf n with | some c => (d.cq c).regs.frozen | none => false) ||
  (match d.siteState n with | .held => true | .warm => true | .fenced => true | .permanent => true | .lost => true | _ => false)

def EntState.code : EntState → Nat
  | .normal => 0 | .sat => 1 | .inv => 2

/-- An accumulator row as the network reads it: its anchor, then 13 bytes and the state of each of its 520 entries, by physical lane
(R211, R398). -/
def AccRow.dump (r : AccRow) : List Byte := bytesLE 2 r.anchor.toNat ++ r.ents.flatMap (fun e => bytesLE 13 e.n.toNat ++ [BitVec.ofNat 8 e.st.code])
/-- A stationary set as the network reads it: its state, its TAG, and each lane's element codes, 2 bytes each, and scale
records, 4 bytes each (R178). -/
def WSet.dump (w : WSet) : List Byte :=
  [BitVec.ofNat 8 w.st.code] ++ bytesLE 4 w.tag.toNat ++ (w.codes.zip w.scales).flatMap (fun l => l.1.flatMap (bytesLE 2) ++ l.2.flatMap (bytesLE 4))
/-- The registers of a control core as the network reads them, thread after thread: s0 to s31 and the PC. -/
def Ccr.dump (c : Ccr) : List Byte := c.threads.flatMap (fun t => t.regs.flatMap (fun r => bytesLE 8 r.toNat) ++ bytesLE 8 t.pc.toNat)
/-- The address streams as the network reads them: the number of descriptors, the position in the first, and of each descriptor
its counts and bases. -/
def AStream.dump (a : AStream) : List Byte :=
  [BitVec.ofNat 8 a.queue.length] ++ bytesLE 4 a.o ++ bytesLE 4 a.i ++
  a.queue.flatMap (fun e => bytesLE 4 e.nIn ++ bytesLE 4 e.nOut ++ [BitVec.ofNat 8 e.k] ++ e.base.flatMap (fun b => bytesLE 8 b.toNat) ++
    (e.strideIn.zip e.strideOut).flatMap (fun s => bytesLE 4 s.1.toNat ++ bytesLE 4 s.2.toNat))

/-- The network returns some bytes. -/
def Dev.ijtagData (d : Dev) (bs : List Byte) : Dev := { d with jtag := { d.jtag with data := bs } }

/-- A read of a site's state: 0 with NOT_STOPPED while the site runs, and 0 while its domain has no power. -/
def Dev.siteRead (d : Dev) (n : Nat) (bs : List Byte) : Dev :=
  if !d.siteStopped n then ({ d with jtag := { d.jtag with notStopped := true } }).ijtagData [0]
  else if d.domUp n then d.ijtagData bs
  else d.ijtagData [0]

/-- A site's pending overlay: that of the core mapped to it. -/
def Dev.sitePend (d : Dev) (n : Nat) : List Host.Cell := match d.coreOf n with | some c => (d.cq c).pend | none => []

/-- IJTAG_ACCESS: an access of an instrument, with the network selected and DEBUG unlocked. -/
def ijtagAccess (a : IjtagOp) (d : Dev) : Dev :=
  if !d.pwr.vauxOk || d.tapActs != 0x10 then d
  else
    match a with
    | .regWrite off v => d.spaceWrite .jtag (off.toNat / 8 * 8) true v
    | .regRead off =>
      let x := d.spaceRead .jtag (off.toNat / 8 * 8)
      x.2.ijtagData (bytesLE 8 x.1.toNat)
    | .repairWrite s v => d.spaceWrite .jtag (repairOff s) true v
    | .repairRead s =>
      let x := d.spaceRead .jtag (repairOff s)
      x.2.ijtagData (bytesLE 8 x.1.toNat)
    | .scratch n off len => d.siteRead n.val (viewBytes (d.sitePend n.val) d.mem.bytes (scratchBase n.val + off.val) len.val)
    | .accRow n row => d.siteRead n.val
        (match (d.site n.val).acc.rows.find? (fun r => r.1 == row.val) with | some r => r.2.dump | none => (zeroRow 0).dump)
    | .set n second => d.siteRead n.val (if second then (d.site n.val).lbk.set1.dump else (d.site n.val).lbk.set0.dump)
    | .threads n => d.siteRead n.val (d.site n.val).ccr.dump
    | .streams n => d.siteRead n.val ((d.site n.val).ccr.streams.flatMap AStream.dump)
    | .staging i => d.ijtagData (if d.domUp 170 then [0] else ((d.trc.staged[i.val]?).map (·.bytes)).getD [0])

/-! ### Commands -/

/-- IDCODE (R397). -/
def execIdcode (s : State) : Out State := run idcode s
/-- SAMPLE_PRELOAD (R397). -/
def execSamplePreload (bits : List Bool) (st : State) : Out State := run (samplePreload bits) st
/-- EXTEST (R397). -/
def execExtest (s : State) : Out State := run extest s
/-- CLAMP (R397). -/
def execClamp (s : State) : Out State := run clamp s
/-- HIGHZ (R397). -/
def execHighz (s : State) : Out State := run highz s
/-- IJTAG_SEL (R397). -/
def execIjtagSel (s : State) : Out State := run ijtagSel s
/-- BYPASS (R397). -/
def execBypass (code : BypassIn) (st : State) : Out State := run (bypass code.code code.tdi) st
/-- IJTAG_ACCESS (R398). -/
def execIjtagAccess (a : IjtagOp) (st : State) : Out State := run (ijtagAccess a) st
/-- TAP_RESET (R397). -/
def execTapReset (s : State) : Out State := run tapReset s

end Sys2Proof.Machine
end

