-- ==== Sys2Proof/Machine/Tick.lean ====
section
/-! DEFINITION. The clock: what happens on each cycle of the core clock and on each beat whatever is commanded (log entry 1): the
counter, the timers and watchdogs, the grants held with filler, and what follows its unit's state beat by beat. -/

namespace Sys2Proof.Machine

/-- The device asserts OWNED toward its timers: a port does, or HLP recovers a site (R318, R367). -/
def Dev.ownedNow (d : Dev) : Bool := d.lnk.ports.any (fun p => p.owned) || !d.health.recoveries.isEmpty

/-- The plan of a core stands: paused or debug held. -/
def Dev.planHeld (d : Dev) (h : BitVec 16) (paused : Bool) : Bool :=
  match d.plan? h with
  | some p => p.state == .debugHeld || (paused && p.state == .paused)
  | none => false

/-- Filler of the cycles of a grant's hold (R167).  DESIGN CHOICE: LBK_FILL_CNT saturates (log entry 124). -/
def Lbk.tick (l : Lbk) : Lbk := if l.holding && 0 < l.hold then { l with hold := l.hold - 1, fill := satInc l.fill } else l

/-- Something other than the unit holds a command's work back: its core's queue waits, its lane array's grant is below demand, its next
tuple has not come, or it is a RECV, whose data come from a peer, or a window (R139, R161, R267, R330, R378).  DEDUCED: which of these are
the causes of R373 (log entry 133). -/
def Dev.workHeld (d : Dev) (site : Nat) (q : Cq) (f : Flight) : Bool :=
  let s := d.site site
  let op := cmdOp f.bytes
  q.wait != .none || op == opRecv || op == opVent ||
  (unitOf op == 1 && decide (s.lbk.grant.toNat < s.lbk.demand)) ||
  (match astream? f.bytes with
   | some n => (s.ccr.streams.getD n {}).next?.isNone
   | none => false)

/-- The command watchdog of a running chunk, its count toward CCR_DEADLOCK, and the progress monitor of its commands (R268, R373).  A
chunk that a program fault has ended, and one that waits for its plan's resume, are watched no more: R275 fences no site for the former
(log entry 26), R371 lets the latter begin later. -/
def Dev.tickChunk (d : Dev) (c : Nat) (q : Cq) : Cq :=
  match q.run with
  | none => q
  | some r =>
    let owned := d.ownedNow
    let still := owned || d.planHeld r.handle true || d.hlpDown || !d.sequencing || r.progFault || r.afterResume
    { q with
      flights := q.flights.map (fun (f : Flight) =>
        if f.ended || owned || !d.sequencing || r.progFault || r.afterResume || d.workHeld (d.siteOf.getD c 0xFF) q f then f
        else { f with idle := f.idle + 1 })
      run := some { r with
        wdog := if still then r.wdog else r.wdog + 1
        deadlock := if d.deadlocked c then r.deadlock + 1 else 0 } }

/-- The timers of RECV and COLL (R331, R347). -/
def Dev.tickTimers (d : Dev) : Dev :=
  let still := d.ownedNow
  let moving := d.col.engines.any (fun e => e.moving.isSome)
  { d with
    lnk := { d.lnk with recvs := d.lnk.recvs.map (fun (j : RecvJob) =>
      if still || j.arrived || d.planHeld j.handle false then j else { j with count := j.count + 1 }) }
    col := { d.col with jobs := d.col.jobs.map (fun (j : CollJob) =>
      if still || moving || !j.posted || j.completed || d.planHeld j.handle false then j else { j with count := j.count + 1 }) } }

/-- LNK_LANE_ERR takes the corrected symbols of the beat that ends, lane by lane (R315). -/
def Port.tick (p : Port) : Port :=
  { p with
    laneErr := BitVec.ofNat 63 (packed 7 (p.laneNow.map (min 127))).toNat
    laneNow := List.replicate 9 0 }

/-- Tests that wait for their site's power begin once it has ramped up (R376). -/
def Dev.startTests (d : Dev) : Dev :=
  let due := d.health.tests.filter (fun t => t.start.isNone && d.domUp t.site)
  let d := due.foldl (fun (d : Dev) t => d.setDom t.site .on) d
  d.modHealth (fun h => { h with tests := h.tests.map (fun (t : TestRun) =>
    if t.start.isNone && d.domUp t.site then { t with start := some d.bt.beat } else t) })

/-- Cycles of a site's clock in core cycle `c` of a beat: a site under test runs at 162 cycles per beat (R11, R376). -/
def siteCycles (c : Nat) (test : Bool) : Nat := if test then (c + 1) * 162 / 150 - c * 162 / 150 else 1

/-- The lane blocks in one core cycle. -/
def Dev.tickSites (d : Dev) : Dev :=
  let hot := fun (n : Nat) => d.health.tests.any (fun (t : TestRun) => t.site == n && t.start.isSome)
  { d with sites := (d.sites.zipIdx).map (fun (e : Site × Nat) =>
      { e.1 with lbk := (List.range (siteCycles d.bt.cyc.val (hot e.2))).foldl (fun (l : Lbk) _ => l.tick) e.1.lbk }) }

/-- The cycle ends: what its events have set can be cleared from the next one on (R16). -/
def Site.settle (s : Site) : Site :=
  { s with
    lbk := { s.lbk with checkErr := s.lbk.checkErr.settle }
    qnt := { s.qnt with flags := s.qnt.flags.settle }
    acc := { s.acc with flags := s.acc.flags.settle }
    mvp := { s.mvp with flags := s.mvp.flags.settle, checkErr := s.mvp.checkErr.settle }
    ccr := { s.ccr.settleFlags with err := s.ccr.err.settle } }

/-- The same of every block. -/
def Dev.settleBits (d : Dev) : Dev :=
  { d with
    bt := { d.bt with events := d.bt.events.settle }
    chans := d.chans.map (fun (c : Chan) => { c with err := c.err.settle, refusedNow := none })
    cqs := d.cqs.map (fun (q : Cq) => { q with regs := { q.regs with err := q.regs.err.settle }, tailNow := none })
    sites := d.sites.map Site.settle
    dscs := d.dscs.map (fun (s : Dsc) => { s with flags := s.flags.settle })
    slv := d.slv.map (fun (s : Slv) => { s with flags := s.flags.settle })
    health := { d.health with events := d.health.events.settle, latchNow := 0, latchMissed := [] }
    lnk := { d.lnk with events := d.lnk.events.settle }
    stm := { d.stm with claimsNow := [] }
    solves := d.solves.map (fun (j : SolveJob) => { j with fresh := false })
    col := { d.col with flags := d.col.flags.settle, events := d.col.events.settle }
    pwr := { d.pwr with events := d.pwr.events.settle }
    mgt := { d.mgt with alerts := d.mgt.alerts.settle }
    devErr := d.devErr.settle }

/-- What a beat's end brings. -/
def Dev.tickBeat (d : Dev) : Dev :=
  let d := d.modBt (fun b => ({ b with holdoverBeats := if b.holdover then satInc b.holdoverBeats else b.holdoverBeats }).slew)
  let d := { d with
    cqs := (d.cqs.zipIdx).map (fun (e : Cq × Nat) => d.tickChunk e.2 e.1)
    lnk := { d.lnk with ports := d.lnk.ports.map Port.tick }
    stm := { d.stm with ports := d.stm.ports.map (fun (p : StmPort) => { p with pauses := p.pauses.map (· - 1) }) } }
  let d := d.tickTimers
  let d := if d.sequencing then (d.plans.map (·.handle)).foldl Dev.settlePlan d else d
  (Dev.serveRamps 4 d.endDowns.releaseDomains.settleDomains).startTests.gateHalted.settleOwned

/-- One cycle of the core clock; before the PLL locks there is none (R41, R43). -/
def Dev.cycle (d : Dev) : Dev :=
  if !d.pwr.ctlUp || !d.bt.locked then d
  else
    let d := d.tickSites.readErrors
    if d.bt.cyc.val = 149 then (d.modBt (fun b => { b with cyc := 0, beat := b.beat + 1 })).tickBeat
    else d.modBt (fun b => { b with cyc := b.cyc + 1 })

/-- What passes when no command waits: the cycle's posts take their sequences (R337), and a cycle passes, at whose end the bits that its
events have set settle (R16). -/
def Dev.tick (d : Dev) : Dev := d.settlePosts.cycle.settleBits

end Sys2Proof.Machine
end

