-- ==== Sys2Proof/Machine/Dispatch.lean ====
section
/-! DEFINITION. One arm per command: a direct call of its meaning. -/

namespace Sys2Proof.Machine

def exec (i : Instr) (s : State) : Host.Outcome State Fault Refusal :=
  match i with
  | .beatInQualify => Sys2Proof.Machine.execBeatInQualify s
  | .beatInDisqualify => Sys2Proof.Machine.execBeatInDisqualify s
  | .pllLock => Sys2Proof.Machine.execPllLock s
  | .beatMarkerSend => Sys2Proof.Machine.execBeatMarkerSend s
  | .beatMarkerReceive port => Sys2Proof.Machine.execBeatMarkerReceive port s
  | .counterStep => Sys2Proof.Machine.execCounterStep s
  | .slewEnd => Sys2Proof.Machine.execSlewEnd s
  | .holdoverEntry => Sys2Proof.Machine.execHoldoverEntry s
  | .holdoverPause => Sys2Proof.Machine.execHoldoverPause s
  | .claimReceive => Sys2Proof.Machine.execClaimReceive s
  | .electionSettle => Sys2Proof.Machine.execElectionSettle s
  | .processorWatchdogExpiry k => Sys2Proof.Machine.execProcessorWatchdogExpiry k s
  | .processorRestartDone k => Sys2Proof.Machine.execProcessorRestartDone k s
  | .requestWindowWrite func ch off data => Sys2Proof.Machine.execRequestWindowWrite func ch off data s
  | .doorbellRing func ch => Sys2Proof.Machine.execDoorbellRing func ch s
  | .requestCopyDone ch => Sys2Proof.Machine.execRequestCopyDone ch s
  | .requestCheck => Sys2Proof.Machine.execRequestCheck s
  | .requestDispatch => Sys2Proof.Machine.execRequestDispatch s
  | .responsePlace => Sys2Proof.Machine.execResponsePlace s
  | .responsePop func ch => Sys2Proof.Machine.execResponsePop func ch s
  | .channelReset func ch => Sys2Proof.Machine.execChannelReset func ch s
  | .channelResetDone ch => Sys2Proof.Machine.execChannelResetDone ch s
  | .eventLossSummary => Sys2Proof.Machine.execEventLossSummary s
  | .deviceInfo => Sys2Proof.Machine.execDeviceInfo s
  | .sessionOpen => Sys2Proof.Machine.execSessionOpen s
  | .sessionClose => Sys2Proof.Machine.execSessionClose s
  | .planAdmit => Sys2Proof.Machine.execPlanAdmit s
  | .planArm => Sys2Proof.Machine.execPlanArm s
  | .planPause => Sys2Proof.Machine.execPlanPause s
  | .planResume => Sys2Proof.Machine.execPlanResume s
  | .planRetire => Sys2Proof.Machine.execPlanRetire s
  | .planStatus => Sys2Proof.Machine.execPlanStatus s
  | .recipeSelect => Sys2Proof.Machine.execRecipeSelect s
  | .debugResume => Sys2Proof.Machine.execDebugResume s
  | .fence => Sys2Proof.Machine.execFence s
  | .unfence => Sys2Proof.Machine.execUnfence s
  | .fenceOverride => Sys2Proof.Machine.execFenceOverride s
  | .testRun => Sys2Proof.Machine.execTestRun s
  | .testConfig => Sys2Proof.Machine.execTestConfig s
  | .craterRead => Sys2Proof.Machine.execCraterRead s
  | .logRead ecc => Sys2Proof.Machine.execLogRead ecc s
  | .telemetry => Sys2Proof.Machine.execTelemetry s
  | .coreMap => Sys2Proof.Machine.execCoreMap s
  | .tenancyCreate => Sys2Proof.Machine.execTenancyCreate s
  | .tenancyDestroy => Sys2Proof.Machine.execTenancyDestroy s
  | .sharedRegion => Sys2Proof.Machine.execSharedRegion s
  | .wipePolicy => Sys2Proof.Machine.execWipePolicy s
  | .lifecycleChange => Sys2Proof.Machine.execLifecycleChange s
  | .fwUpdate => Sys2Proof.Machine.execFwUpdate s
  | .keyProvision => Sys2Proof.Machine.execKeyProvision s
  | .linkStatus => Sys2Proof.Machine.execLinkStatus s
  | .planStart h => Sys2Proof.Machine.execPlanStart h s
  | .chunkRelease c => Sys2Proof.Machine.execChunkRelease c s
  | .chunkCommit c => Sys2Proof.Machine.execChunkCommit c s
  | .flagDelivery => Sys2Proof.Machine.execFlagDelivery s
  | .promiseDeadline h => Sys2Proof.Machine.execPromiseDeadline h s
  | .resumeBeatReached h => Sys2Proof.Machine.execResumeBeatReached h s
  | .retireChunkDiscard c => Sys2Proof.Machine.execRetireChunkDiscard c s
  | .slotInputDeadline h k => Sys2Proof.Machine.execSlotInputDeadline h k s
  | .switchBeat h => Sys2Proof.Machine.execSwitchBeat h s
  | .commandSlotWrite func win off data => Sys2Proof.Machine.execCommandSlotWrite func win off data s
  | .cqTailWrite func win val => Sys2Proof.Machine.execCqTailWrite func win val s
  | .commandFetch c parity => Sys2Proof.Machine.execCommandFetch c parity s
  | .breakFire c => Sys2Proof.Machine.execBreakFire c s
  | .nop c => Sys2Proof.Machine.execNop c s
  | .dummy c => Sys2Proof.Machine.execDummy c s
  | .waitb c => Sys2Proof.Machine.execWaitb c s
  | .waitbExpiry c => Sys2Proof.Machine.execWaitbExpiry c s
  | .qfence c => Sys2Proof.Machine.execQfence c s
  | .evsend c => Sys2Proof.Machine.execEvsend c s
  | .evwait c => Sys2Proof.Machine.execEvwait c s
  | .wload c flt => Sys2Proof.Machine.execWload c flt s
  | .wswap c => Sys2Proof.Machine.execWswap c s
  | .mma c flt => Sys2Proof.Machine.execMma c flt s
  | .mmv c flt => Sys2Proof.Machine.execMmv c flt s
  | .elem c flt => Sys2Proof.Machine.execElem c flt s
  | .drain c flt => Sys2Proof.Machine.execDrain c flt s
  | .quant c flt => Sys2Proof.Machine.execQuant c flt s
  | .deq c => Sys2Proof.Machine.execDeq c s
  | .stats c => Sys2Proof.Machine.execStats c s
  | .copy c => Sys2Proof.Machine.execCopy c s
  | .atom c => Sys2Proof.Machine.execAtom c s
  | .coll c => Sys2Proof.Machine.execColl c s
  | .send c => Sys2Proof.Machine.execSend c s
  | .recv c => Sys2Proof.Machine.execRecv c s
  | .solve c => Sys2Proof.Machine.execSolve c s
  | .vent c => Sys2Proof.Machine.execVent c s
  | .mark c => Sys2Proof.Machine.execMark c s
  | .commandComplete c idx => Sys2Proof.Machine.execCommandComplete c idx s
  | .grantHoldExpiry site => Sys2Proof.Machine.execGrantHoldExpiry site s
  | .rampGovernorBeat => Sys2Proof.Machine.execRampGovernorBeat s
  | .alu c t chk => Sys2Proof.Machine.execAlu c t chk s
  | .addi c t chk => Sys2Proof.Machine.execAddi c t chk s
  | .andi c t chk => Sys2Proof.Machine.execAndi c t chk s
  | .ori c t chk => Sys2Proof.Machine.execOri c t chk s
  | .xori c t chk => Sys2Proof.Machine.execXori c t chk s
  | .slti c t chk => Sys2Proof.Machine.execSlti c t chk s
  | .shifti c t chk => Sys2Proof.Machine.execShifti c t chk s
  | .insh c t chk => Sys2Proof.Machine.execInsh c t chk s
  | .ld c t chk => Sys2Proof.Machine.execLd c t chk s
  | .lw c t chk => Sys2Proof.Machine.execLw c t chk s
  | .lwu c t chk => Sys2Proof.Machine.execLwu c t chk s
  | .lh c t chk => Sys2Proof.Machine.execLh c t chk s
  | .lhu c t chk => Sys2Proof.Machine.execLhu c t chk s
  | .lb c t chk => Sys2Proof.Machine.execLb c t chk s
  | .lbu c t chk => Sys2Proof.Machine.execLbu c t chk s
  | .sd c t chk => Sys2Proof.Machine.execSd c t chk s
  | .sw c t chk => Sys2Proof.Machine.execSw c t chk s
  | .sh c t chk => Sys2Proof.Machine.execSh c t chk s
  | .sb c t chk => Sys2Proof.Machine.execSb c t chk s
  | .beq c t chk => Sys2Proof.Machine.execBeq c t chk s
  | .bne c t chk => Sys2Proof.Machine.execBne c t chk s
  | .blt c t chk => Sys2Proof.Machine.execBlt c t chk s
  | .bge c t chk => Sys2Proof.Machine.execBge c t chk s
  | .bltu c t chk => Sys2Proof.Machine.execBltu c t chk s
  | .bgeu c t chk => Sys2Proof.Machine.execBgeu c t chk s
  | .jal c t chk => Sys2Proof.Machine.execJal c t chk s
  | .jr c t chk => Sys2Proof.Machine.execJr c t chk s
  | .pusha c t chk => Sys2Proof.Machine.execPusha c t chk s
  | .setf c t chk => Sys2Proof.Machine.execSetf c t chk s
  | .clrf c t chk => Sys2Proof.Machine.execClrf c t chk s
  | .waitf c t chk => Sys2Proof.Machine.execWaitf c t chk s
  | .sendf c t chk => Sys2Proof.Machine.execSendf c t chk s
  | .getc c t chk => Sys2Proof.Machine.execGetc c t chk s
  | .sync c t chk => Sys2Proof.Machine.execSync c t chk s
  | .psync c t chk => Sys2Proof.Machine.execPsync c t chk s
  | .halt c t chk => Sys2Proof.Machine.execHalt c t chk s
  | .ccrNop c t chk => Sys2Proof.Machine.execCcrNop c t chk s
  | .storeBufferDrain c => Sys2Proof.Machine.execStoreBufferDrain c s
  | .ccrDeadlock c => Sys2Proof.Machine.execCcrDeadlock c s
  | .patrolScrub k found => Sys2Proof.Machine.execPatrolScrub k found s
  | .softRepair k => Sys2Proof.Machine.execSoftRepair k s
  | .memoryWipe k bad => Sys2Proof.Machine.execMemoryWipe k bad s
  | .fuseSpareRow path k die bank row => Sys2Proof.Machine.execFuseSpareRow path k die bank row s
  | .fuseSpareBank path k die bank row => Sys2Proof.Machine.execFuseSpareBank path k die bank row s
  | .rawRead path k die bank row => Sys2Proof.Machine.execRawRead path k die bank row s
  | .matrixFinish e mismatch => Sys2Proof.Machine.execMatrixFinish e mismatch s
  | .solverPublish => Sys2Proof.Machine.execSolverPublish s
  | .flitReceive port decoded delimOk crcOk ce f => Sys2Proof.Machine.execFlitReceive port decoded delimOk crcOk ce f s
  | .laneFail port lane lostLock => Sys2Proof.Machine.execLaneFail port lane lostLock s
  | .laneNotice port => Sys2Proof.Machine.execLaneNotice port s
  | .nakReceive port => Sys2Proof.Machine.execNakReceive port s
  | .replayTimeout port => Sys2Proof.Machine.execReplayTimeout port s
  | .portFail port => Sys2Proof.Machine.execPortFail port s
  | .portNotice port => Sys2Proof.Machine.execPortNotice port s
  | .directionReroute dir => Sys2Proof.Machine.execDirectionReroute dir s
  | .trainingDone found => Sys2Proof.Machine.execTrainingDone found s
  | .portRetrain port t => Sys2Proof.Machine.execPortRetrain port t s
  | .sendRequest => Sys2Proof.Machine.execSendRequest s
  | .sendRequestRetry => Sys2Proof.Machine.execSendRequestRetry s
  | .recvData => Sys2Proof.Machine.execRecvData s
  | .recvTimeout => Sys2Proof.Machine.execRecvTimeout s
  | .collContribution e mismatch => Sys2Proof.Machine.execCollContribution e mismatch s
  | .collResult => Sys2Proof.Machine.execCollResult s
  | .engineMoveDone e => Sys2Proof.Machine.execEngineMoveDone e s
  | .collTimeout => Sys2Proof.Machine.execCollTimeout s
  | .streamFrameReceive port frame => Sys2Proof.Machine.execStreamFrameReceive port frame s
  | .slotRecord port => Sys2Proof.Machine.execSlotRecord port s
  | .loadRecord port => Sys2Proof.Machine.execLoadRecord port s
  | .readReq port => Sys2Proof.Machine.execReadReq port s
  | .recordSend port => Sys2Proof.Machine.execRecordSend port s
  | .divertPop path => Sys2Proof.Machine.execDivertPop path s
  | .ethertypeWrite path v => Sys2Proof.Machine.execEthertypeWrite path v s
  | .streamPortUp port => Sys2Proof.Machine.execStreamPortUp port s
  | .siteRecovery site => Sys2Proof.Machine.execSiteRecovery site s
  | .spareInService site ok => Sys2Proof.Machine.execSpareInService site ok s
  | .stateLoadDone site => Sys2Proof.Machine.execStateLoadDone site s
  | .inPlaceRecompute c addr => Sys2Proof.Machine.execInPlaceRecompute c addr s
  | .progressStop c unit => Sys2Proof.Machine.execProgressStop c unit s
  | .watchdogOverrun c => Sys2Proof.Machine.execWatchdogOverrun c s
  | .commandWatchdogExpiry c => Sys2Proof.Machine.execCommandWatchdogExpiry c s
  | .spareWarm site ok => Sys2Proof.Machine.execSpareWarm site ok s
  | .craterTableSave => Sys2Proof.Machine.execCraterTableSave s
  | .fencedSiteTest site => Sys2Proof.Machine.execFencedSiteTest site s
  | .testDone site result => Sys2Proof.Machine.execTestDone site result s
  | .testDue site => Sys2Proof.Machine.execTestDue site s
  | .overdueSwap c => Sys2Proof.Machine.execOverdueSwap c s
  | .healRequest => Sys2Proof.Machine.execHealRequest s
  | .healServe => Sys2Proof.Machine.execHealServe s
  | .healData => Sys2Proof.Machine.execHealData s
  | .healTimeout => Sys2Proof.Machine.execHealTimeout s
  | .stackLost u => Sys2Proof.Machine.execStackLost u s
  | .traceFlush => Sys2Proof.Machine.execTraceFlush s
  | .traceLostRecord => Sys2Proof.Machine.execTraceLostRecord s
  | .traceCtrlWrite path v => Sys2Proof.Machine.execTraceCtrlWrite path v s
  | .idcode => Sys2Proof.Machine.execIdcode s
  | .samplePreload bits => Sys2Proof.Machine.execSamplePreload bits s
  | .extest => Sys2Proof.Machine.execExtest s
  | .clamp => Sys2Proof.Machine.execClamp s
  | .highz => Sys2Proof.Machine.execHighz s
  | .ijtagSel => Sys2Proof.Machine.execIjtagSel s
  | .bypass code => Sys2Proof.Machine.execBypass code s
  | .ijtagAccess a => Sys2Proof.Machine.execIjtagAccess a s
  | .newChal path => Sys2Proof.Machine.execNewChal path s
  | .submit path => Sys2Proof.Machine.execSubmit path s
  | .lock path => Sys2Proof.Machine.execLock path s
  | .vfEnableClear => Sys2Proof.Machine.execVfEnableClear s
  | .coldReset cause => Sys2Proof.Machine.execColdReset cause s
  | .warmReset level straps => Sys2Proof.Machine.execWarmReset level straps s
  | .pcieReset => Sys2Proof.Machine.execPcieReset s
  | .pcieEndpointUp => Sys2Proof.Machine.execPcieEndpointUp s
  | .functionLevelReset func => Sys2Proof.Machine.execFunctionLevelReset func s
  | .firmwareAuth bad => Sys2Proof.Machine.execFirmwareAuth bad s
  | .cfgDone path => Sys2Proof.Machine.execCfgDone path s
  | .vinRise => Sys2Proof.Machine.execVinRise s
  | .vinOutOfRange high => Sys2Proof.Machine.execVinOutOfRange high s
  | .vinUndervoltage => Sys2Proof.Machine.execVinUndervoltage s
  | .vinOvervoltage => Sys2Proof.Machine.execVinOvervoltage s
  | .powerDieFault die => Sys2Proof.Machine.execPowerDieFault die s
  | .vauxLoss => Sys2Proof.Machine.execVauxLoss s
  | .thermtrip => Sys2Proof.Machine.execThermtrip s
  | .domainPowerUp path k => Sys2Proof.Machine.execDomainPowerUp path k s
  | .domainPowerDown path k => Sys2Proof.Machine.execDomainPowerDown path k s
  | .domainRampDone k => Sys2Proof.Machine.execDomainRampDone k s
  | .domainRampTimeout k => Sys2Proof.Machine.execDomainRampTimeout k s
  | .status cmd edges => Sys2Proof.Machine.execStatus cmd edges s
  | .regRead addr edges => Sys2Proof.Machine.execRegRead addr edges s
  | .regWrite addr data edges => Sys2Proof.Machine.execRegWrite addr data edges s
  | .mgtAccessDone => Sys2Proof.Machine.execMgtAccessDone s
  | .dataRead edges => Sys2Proof.Machine.execDataRead edges s
  | .ch7Write off n data edges => Sys2Proof.Machine.execCh7Write off n data edges s
  | .ch7Ring edges => Sys2Proof.Machine.execCh7Ring edges s
  | .ch7Read off n edges => Sys2Proof.Machine.execCh7Read off n edges s
  | .ch7Pop edges => Sys2Proof.Machine.execCh7Pop edges s
  | .latchRead edges => Sys2Proof.Machine.execLatchRead edges s
  | .latchPop edges => Sys2Proof.Machine.execLatchPop edges s
  | .registerWrite t data => Sys2Proof.Machine.execRegisterWrite t data s
  | .pauseBeatReached h => Sys2Proof.Machine.execPauseBeatReached h s
  | .sendGrant => Sys2Proof.Machine.execSendGrant s
  | .sendAcknowledged => Sys2Proof.Machine.execSendAcknowledged s
  | .flitBoundary port => Sys2Proof.Machine.execFlitBoundary port s
  | .streamPortDown port => Sys2Proof.Machine.execStreamPortDown port s
  | .tapReset => Sys2Proof.Machine.execTapReset s
  | .sensorSample k => Sys2Proof.Machine.execSensorSample k s

end Sys2Proof.Machine
end

