-- ==== Sys2Proof/Machine/Step.lean ====
section
/-! DEFINITION. One step of the machine: the command at the front of the queue, or, with none waiting, one cycle of
the core clock. -/

namespace Sys2Proof.Machine

/-- One step: the command at the front of the queue acts on the machine with the queue's rest; on an empty queue
one cycle of the core clock passes (log entry 1). -/
def step (s : State) : Host.Outcome State Fault Refusal :=
  match s.pending with
  | [] => .next { s with dev := s.dev.tick }
  | c :: rest => exec c { s with pending := rest }

/-- The machine with the command that a table word spells put at the front of its queue; the table gives no row any
bits, so no word spells one and the machine is unchanged. -/
def State.withFetchWord (s : State) (nbits w : Nat) : State :=
  match decodeTableWord nbits w with
  | some c => { s with pending := c :: s.pending }
  | none => s

end Sys2Proof.Machine
end

