-- ==== Sys2Proof/Safety.lean ====
section
/-! DEFINITION. The terms the statements speak in: a command that completes, a command that leaves a part of the machine alone, the
invariant of the addressed memory, and the fuses. -/

namespace Sys2Proof.Machine

/-- A command completes on a state: `exec` answers a next state, the commands that wait are as they were, and the machine after it
meets `P`. -/
def Completes (c : Instr) (s : State) (P : Dev → Prop) : Prop :=
  ∃ t : State, exec c s = .next t ∧ t.pending = s.pending ∧ P t.dev

/-- A command leaves alone what `view` shows of the machine, in every state in which it answers a next one. -/
def Keeps {α : Type} (c : Instr) (view : Dev → α) : Prop :=
  ∀ s t : State, exec c s = .next t → view t.dev = view s.dev

/-- Every bank of the machine has the size that the spec gives it (R17, R19, R62, R113, R432). -/
def Dev.sized (d : Dev) : Bool :=
  d.fwp.length == 5 && d.chans.length == 8 && d.siteOf.length == 72 && d.cqs.length == 72 && d.shared.length == 8 && d.stks.length == 16 &&
  d.dscs.length == 16 && d.sites.length == 80 && d.lnk.ports.length == 24 && d.col.engines.length == 16 && d.slv.length == 4 &&
  d.stm.ports.length == 4 && d.pwr.doms.length == 171 && d.msixTab.length == 5 && d.health.siteStates.length == 80 &&
  d.health.overdue.length == 80 && d.health.lastPass.length == 80 && d.health.testedSince.length == 80

/-- The machine's invariant: the addressed memory is in canonical form, so that equal memories are equal data, and every bank is
whole. -/
def State.Inv (s : State) : Prop := s.dev.mem.wf = true ∧ s.dev.sized = true

/-- The byte that committed memory holds at an address. -/
def Dev.byteAt (d : Dev) (a : Nat) : Byte := memByte d.mem.bytes a

/-- What the fuses hold, which no reset changes: the life-cycle state, the minimum epoch and the revocation of key 0 (R399, R403,
R405). -/
structure Fuses where
  lcState : BitVec 2
  minEpoch : BitVec 8
  key0Revoked : Bool
  deriving DecidableEq, Repr

def Dev.fuses (d : Dev) : Fuses := ⟨d.sec.lcState, d.sec.minEpoch, d.sec.key0Revoked⟩

/-- HLP runs and the first bank of the health log takes records (R385, R386). -/
abbrev Dev.logs (d : Dev) : Prop := d.hlpDown = false ∧ d.health.logState ≠ 2 ∧ d.health.bankAOk = true

/-- The newest record of that bank has this class, CODE and UNIT_ID (R365). -/
abbrev Dev.logged (d : Dev) (cls : BitVec 8) (code unit : BitVec 16) : Prop :=
  d.health.bankA.getLast?.map (fun r => (r.cls, r.code, r.unit)) = some (cls, code, unit)

/-! ### Threads of a control core (file 13) -/

/-- Thread `t` of a site's control core. -/
def Dev.threadAt (d : Dev) (site t : Nat) : Thread := (d.site site).ccr.threads.getD t {}

/-- A thread of the chunk that core `c` runs stands before a legal instruction `w` of opcode `op` (R256). -/
abbrev Dev.atIns (d : Dev) (c t op : Nat) (x : Ctx) (th : Thread) (base : Nat) (w : BitVec 32) : Prop :=
  d.ccrCx? c t = some (x, th, base, some w) ∧ insLegal w = true ∧ insOp w = op

/-- From `d` to `d'`, thread `t` has retired the instruction `w`: register `rd` holds `v` unless it is s0, the PC is `npc`, the
instruction's word and then `folded` are folded into its CRC (R269), and the machine is otherwise as it was. -/
abbrev Dev.retires (d d' : Dev) (x : Ctx) (t : Nat) (th : Thread) (base : Nat) (w : BitVec 32) (rd : Nat)
    (v npc : BitVec 64) (folded : List (BitVec 64)) : Prop :=
  (d'.threadAt x.site t).regs = (if rd = 0 then th.regs else th.regs.set rd v) ∧ (d'.threadAt x.site t).pc = npc ∧
  (d'.threadAt x.site t).state = .running ∧ (d'.threadAt x.site t).started = true ∧ (d'.threadAt x.site t).view = th.view ∧
  (d'.threadAt x.site t).retired = th.retired + 1 ∧
  (d'.threadAt x.site t).crc =
    ((((th.pc - BitVec.ofNat 64 base) <<< 32) ||| w.setWidth 64) :: folded).foldl crc64Word th.crc ∧
  d' = d.modCcr x.site (fun cc => { cc with
    retired := satInc cc.retired, threads := cc.threads.modify t (fun _ => d'.threadAt x.site t) })

/-- The address that a load or store of the thread names: rs1 + imm16, one in the slot of a former site of the core being that of the
present one (R29, R119). -/
abbrev Thread.ea (th : Thread) (x : Ctx) (w : BitVec 32) : BitVec 64 :=
  BitVec.ofNat 64 (x.p.ownAddr x.core x.site (th.reg (insRs1 w) + insSimm w).toNat)

/-- A load of `n` bytes at `a` is allowed and meets no poison and no wipe, and no store of its own thread that waits in the buffer
touches it (R260, R262, R280, R290). -/
abbrev Dev.loads (d : Dev) (x : Ctx) (t a n : Nat) : Prop :=
  a < 2 ^ 48 ∧ a % n = 0 ∧ d.canRead x.p x.site a n = true ∧ youngestStore (d.site x.site).ccr.stores t a n = none ∧
  d.wipeHolds a n = false ∧ readPoison d.mem (d.cq x.c).pend a n = none

/-- A store of the thread has not drained (R261). -/
def Dev.buffered (d : Dev) (site t : Nat) : Bool := (d.site site).ccr.stores.any (fun e => e.thread == t)

/-! ### Commands of a queue (file 06) -/

/-- The command `f` of opcode `op` is the next of the chunk that core `c` runs, no fetch check and no VMASK ends it, the ordering
rules let it issue, and no earlier command of its opcode has work left (R137, R139). -/
abbrev Dev.issues (d : Dev) (c op : Nat) (x : Ctx) (f : Fetched) : Prop :=
  d.ctx? c = some x ∧ d.nextCmd? x = some f ∧ x.p.earlyOf x.chunk.step f = none ∧ cmdOp f.bytes = op ∧
  orderOk (d.cq c).flights f.bytes = true ∧ (d.cq c).flights.all (fun g => cmdOp g.bytes != op || g.ended) = true

/-- From `d` to `d'`, core `c` has taken and completed its next command `f` with STATUS OK and no CFLAGS: the completion count and
the entry that FLAGS bit 7 asks for (R140, R142, R145). -/
abbrev Dev.completes (d d' : Dev) (c : Nat) (f : Fetched) : Prop :=
  (d'.cq c).regs.exec = (d.cq c).regs.exec + 1 ∧ (d'.cq c).fetched = (d.cq c).fetched.tail ∧ (d'.cq c).next = f.idx + 1 ∧
  (d'.cq c).lastTag = cmdTag f.bytes ∧
  (d'.cq c).cpls = (d.cq c).cpls ++ (if bitOf (cmdFlags f.bytes) 7 then [⟨d.now, cmdTag f.bytes, 0, 0⟩] else [])

/-- The command of an index has done its work with a STATUS and waits to complete. -/
def Dev.worked (d : Dev) (c idx : Nat) (status : BitVec 16) : Bool :=
  (d.cq c).flights.any (fun g => g.idx == idx && g.ended && g.status == status)

/-- Queues other than `c`'s are as they were. -/
abbrev Dev.sameOthers (d d' : Dev) (c : Nat) : Prop := ∀ k : Fin 72, k.val ≠ c → d'.cq k.val = d.cq k.val

/-! ### Commands that work on tensors (files 07, 09 to 11) -/

/-- A stationary set holds the sums that its WLOAD formed from its codes (R154, R162). -/
abbrev WSet.summed (w : WSet) : Prop :=
  (w.colSums, w.laneSums) = setSums w.load.fmt (laneGroup w.load.fmt w.load.gCode) w.load.depth w.codes ∧
  ∀ l ∈ w.codes, l.length = w.load.depth

/-- A range of the site's own scratch that a command may write: no main text in it (R192, R218, R253). -/
abbrev Ctx.outOk (x : Ctx) (a n : Nat) : Prop := inScratch x.site a n = true ∧ x.p.inText x.core x.site a n = false

/-- The chunk's pending bytes and `n` more stay within the limits of R285 and R368 whatever lines they lie in. -/
abbrev Dev.room (d : Dev) (c n : Nat) : Prop := (d.cq c).pend.length + n ≤ 16384

/-- No range of a list holds a poisoned codeword, and no wipe holds one (R280, R290). -/
abbrev Dev.clean (d : Dev) (rs : List (Nat × Nat)) : Prop :=
  ∀ r ∈ rs, d.mem.poisoned? r.1 r.2 = none ∧ d.wipeHolds r.1 r.2 = false

/-- The pending bytes of core `c` outside some ranges are as they were. -/
abbrev Dev.writesOnly (d d' : Dev) (c : Nat) (rs : List (Nat × Nat)) : Prop :=
  (∀ e ∈ (d'.cq c).pend, (∀ r ∈ rs, ¬ (r.1 ≤ e.1 ∧ e.1 < r.1 + r.2)) → e ∈ (d.cq c).pend) ∧
  (∀ e ∈ (d.cq c).pend, (∀ r ∈ rs, ¬ (r.1 ≤ e.1 ∧ e.1 < r.1 + r.2)) → e ∈ (d'.cq c).pend)

/-- No recovery concerns a site. -/
abbrev Dev.sound (d : Dev) (site : Nat) : Prop := ∀ r ∈ d.health.recoveries, r.site ≠ site ∧ r.spare ≠ some site

/-! ### Links (file 16) -/

/-- A packet to another device finds a port up in the direction it leaves by (R324, R325). -/
def Dev.reaches (d : Dev) (dest : BitVec 15) : Bool :=
  match d.routeDir dest with
  | some dir => !(d.upOf dir).isEmpty
  | none => false

/-- A control message to a device stands last in the control class of some port (R320). -/
def Dev.controlOut (d : Dev) (dest : BitVec 15) (channel : BitVec 16) (b : Body) : Bool :=
  d.lnk.ports.any (fun q => match q.ctlTx.getLast? with
    | some f => f.type == 4 && f.dest == dest && f.src == d.coord && f.channel == channel && f.body == b
    | none => false)

/-! ### The stream port (file 18) -/

/-- Port `q` takes a frame's body `b` as a fragment: the port is UP, the frame is good, for this device and of its EtherType, and the
receive buffer has room for its DLEN bytes (R351 to R353). -/
def Dev.takesFrame (d : Dev) (q : Nat) (frame b : List Byte) : Bool :=
  (d.stmPort q).link == 2 && d.stm.etype != 0x8808 && decide (16 ≤ b.length) && decide ((d.stmPort q).fill + fld b 12 2 ≤ 4 * mib) &&
  (match parseFrame frame with
   | some e => (e.dst == d.stm.mac.toNat || e.dst == 0xFFFFFFFFFFFF) && e.etype == d.stm.etype.toNat && e.body == b
   | none => false)

/-! ### Requests and their responses (files 03, 04) -/

/-- A request is the one that its owner is on, the owner runs and its ring to HP has space, and the payload has the LENGTH of its message
(R57, R60, R74, R81). -/
abbrev Dev.awaits (d : Dev) (op : Nat) (r : Req) : Prop :=
  d.atOwner r.owner = some r ∧ r.op = op ∧ r.place = .owner ∧ d.runs r.owner = true ∧ d.ringRoom r.owner 0 = true ∧
  lengthOk op (mPayload r.msg) = true

/-- The response of an executed request, behind which those of the exact repeats that wait for it stand, its trailer under the key of
the request's session (R73, R78, R105). -/
def executed (r : Req) (result : Nat) (fields : List Byte) : List Done :=
  [{ chan := r.chan, msg := r.msg, status := BitVec.ofNat 16 result, payload := some (resultPayload result fields), discard := r.discard
     key := r.key, owner := r.owner, dups := r.dups }]

/-- The response of a request that its owner rejects (R74, R80). -/
def rejected (r : Req) (status : Nat) : List Done :=
  [{ chan := r.chan, msg := r.msg, status := BitVec.ofNat 16 status, payload := none, discard := r.discard, owner := r.owner, dups := r.dups }]

/-- The result fields of the response that became due last: its payload behind the result word (R78). -/
def Dev.lastFields (d : Dev) : List Byte := ((d.dones.getLast?.bind (·.payload)).getD []).drop 4

/-- The messages of the catalogue, with their OPCODEs (R81). -/
def chekorMessages : List (Instr × Nat) :=
  [(.deviceInfo, 0x0100), (.sessionOpen, 0x0101), (.sessionClose, 0x0102), (.planAdmit, 0x0200), (.planArm, 0x0201), (.planPause, 0x0202),
   (.planResume, 0x0203), (.planRetire, 0x0204), (.planStatus, 0x0205), (.recipeSelect, 0x0206), (.debugResume, 0x0207), (.fence, 0x0300),
   (.unfence, 0x0301), (.fenceOverride, 0x0302), (.testRun, 0x0303), (.testConfig, 0x0304), (.craterRead, 0x0305),
   (.logRead .clean, 0x0306), (.telemetry, 0x0307), (.coreMap, 0x0308), (.tenancyCreate, 0x0400), (.tenancyDestroy, 0x0401),
   (.sharedRegion, 0x0402), (.wipePolicy, 0x0403), (.lifecycleChange, 0x0410), (.fwUpdate, 0x0411), (.keyProvision, 0x0412),
   (.linkStatus, 0x0500)]

end Sys2Proof.Machine
end

