-- ==== Sys2Proof/Certificates/Slice0/Obligations.lean ====
section
/-! DEFINITION. The statements for the provers. -/

open Sys2Proof Sys2Proof.Machine

/-- A step takes the command at the front of the queue and runs it with the queue's rest (each row of the table is one
indivisible step, file 95; the queue is the model's own). -/
def Obligations.StepRunsTheFrontCommand : Prop :=
  ∀ (c : Instr) (rest : List Instr) (s : State),
    step { s with pending := c :: rest } = exec c { s with pending := rest }

/-- An idle step is one cycle of the core clock, 150 to a beat (R41, R43; that a step on an empty queue is such a
cycle is the model's choice, log entry 1). -/
def Obligations.IdleStepsCountTheClockThatStampsShow : Prop :=
  (∀ s : State, s.pending = [] → ∃ t, step s = .next t ∧ t.pending = [] ∧ t.dev.bt.events.fresh = 0 ∧ t.dev.devErr.fresh = 0) ∧
  (∀ s : State, s.pending = [] → s.dev.pwr.ctlUp = true → s.dev.bt.locked = true → s.dev.bt.cyc.val ≠ 149 →
    ∃ t, step s = .next t ∧ t.dev.bt.cyc.val = s.dev.bt.cyc.val + 1 ∧ t.dev.bt.beat = s.dev.bt.beat) ∧
  (∀ s : State, s.pending = [] → s.dev.pwr.ctlUp = true → s.dev.bt.locked = true → s.dev.bt.cyc.val = 149 →
    ∃ t, step s = .next t ∧ t.dev.bt.cyc.val = 0 ∧ t.dev.bt.beat = s.dev.bt.beat + 1) ∧
  (∀ s : State, s.pending = [] → (s.dev.pwr.ctlUp = false ∨ s.dev.bt.locked = false) → step s = .next { s with dev := s.dev.settlePosts.settleBits }) ∧
  (∀ d : Dev, d.now.extractLsb' 12 52 = d.bt.beat ∧ (d.now.extractLsb' 0 12).toNat = d.bt.cyc.val * 4096 / 150) ∧
  (∀ c : Fin 150, fracOf c.val ≤ 4068) ∧
  (∀ c : Fin 149, fracOf (c.val + 1) - fracOf c.val = 27 ∨ fracOf (c.val + 1) - fracOf c.val = 28) ∧
  tsOf 1000000000 75 = 0x3B9ACA00800

/-- The beat input and the lock (R36, R37, R41, R42, R442). -/
def Obligations.BeatInputAndLockComplete : Prop :=
  (∀ (s : State),
    s.dev.pwr.ctlUp = true →
    s.dev.pwr.sysRst = false →
    s.dev.bt.beatInEn = true →
    s.dev.bt.beatInQualified = false →
    Completes .beatInQualify s fun d =>
      d.bt.beatInQualified = true ∧ d.bt.beatOut = .repeatIn) ∧
  (∀ (s : State),
    s.dev.bt.beatInQualified = true →
    Completes .beatInDisqualify s fun d =>
      d.bt.beatInQualified = false ∧ d.bt.beatOut = .own) ∧
  (∀ (s : State),
    s.dev.pwr.ctlUp = true →
    s.dev.pwr.sysRst = false →
    s.dev.bt.locked = false →
    s.dev.pwr.phase = .reset →
    Completes .pllLock s fun d =>
      d.bt.locked = true ∧ d.bt.everLocked = true ∧
      d.bt.beatOut = (if s.dev.bt.beatInQualified then .repeatIn else .own) ∧ d.bt.beat = 0 ∧ d.bt.cyc.val = 0 ∧ d.pwr.phase = .auth)

/-- Markers, the step of the counter and the end of a slew (R38, R39, R49). -/
def Obligations.MarkersSteerTheFollower : Prop :=
  (∀ (s : State),
    s.dev.bt.elect = .master →
    s.dev.bt.markInterval.toNat ≤ s.dev.since s.dev.bt.markSentBeat →
    Completes .beatMarkerSend s fun d =>
      d.bt.markSentBeat = s.dev.bt.beat ∧ ∀ p : Fin 24, (s.dev.port p.val).state = .up →
        ((d.port p.val).markTx.map (·.body)) =
          some (.marker { ts := s.dev.now, hop := 0, interval := s.dev.bt.markInterval.setWidth 16 })) ∧
  (∀ (s : State) (port : Fin 24) (m : Marker),
    s.dev.bt.markerIn.getD port.val none = some m →
    s.dev.bt.linkMarkEn = true →
    s.dev.bt.locked = true →
    s.dev.bt.elect = .follower →
    (s.dev.port port.val).state = .up →
    s.dev.bt.portHop = List.replicate 24 none →
    s.dev.bt.countValid = false →
    Completes (.beatMarkerReceive port) s fun d =>
      d.bt.markerIn = s.dev.bt.markerIn.set port.val none ∧ d.bt.portHop = s.dev.bt.portHop.set port.val (some m.hop) ∧
      d.bt.upstreamPort = BitVec.ofNat 5 port.val ∧ d.bt.countValid = true ∧ d.bt.lastMarkTs = m.ts ∧
      d.bt.beat = (s.dev.now - (m.arrived - (m.ts + (s.dev.port port.val).delayTs.setWidth 64))).extractLsb' 12 52 ∧
      ∀ p : Fin 24, p ≠ port → (s.dev.port p.val).state = .up →
        ((d.port p.val).markTx.map (·.body)) = some (.marker { m with hop := m.hop + 1 })) ∧
  (∀ (s : State) (port : Fin 24) (m : Marker),
    s.dev.bt.markerIn.getD port.val none = some m →
    s.dev.bt.linkMarkEn = true →
    s.dev.bt.locked = true →
    s.dev.bt.elect = .follower →
    s.dev.bt.settled = true →
    (s.dev.port port.val).state = .up →
    s.dev.bt.portHop = List.replicate 24 none →
    s.dev.bt.countValid = true →
    s.dev.bt.holdover = false →
    s.dev.bt.stepBy = none →
    Completes (.beatMarkerReceive port) s fun d =>
      d.bt.beat = s.dev.bt.beat ∧ d.bt.offset = offsetReg (m.arrived - (m.ts + (s.dev.port port.val).delayTs.setWidth 64)).toInt ∧
      d.bt.slewRest = 10000 * (m.arrived - (m.ts + (s.dev.port port.val).delayTs.setWidth 64)).toInt) ∧
  (∀ (s : State) (off : BitVec 64),
    s.dev.bt.stepBy = some off →
    (∀ p ∈ s.dev.plans, p.state ≠ .running) →
    Completes .counterStep s fun d =>
      d.bt.beat = (s.dev.now - off).extractLsb' 12 52 ∧ d.bt.stepBy = none ∧ d.bt.slewRest = 0 ∧
      d.bt.events.val.getLsbD 5 = true) ∧
  (∀ (s : State),
    s.dev.bt.slewing = true →
    s.dev.bt.slewRest.natAbs < 409600 →
    Completes .slewEnd s fun d =>
      d = { s.dev with bt := { s.dev.bt with slewing := false } })

/-- Holdover (R45, R46, R51). -/
def Obligations.HoldoverPausesPlans : Prop :=
  (∀ (s : State),
    s.dev.bt.elect = .follower →
    s.dev.bt.conflict = false →
    s.dev.bt.holdover = false →
    3 * s.dev.bt.followInterval.toNat ≤ s.dev.since s.dev.bt.lastMarkBeat →
    Completes .holdoverEntry s fun d =>
      d.bt.holdover = true ∧ d.bt.holdoverBeats = 0 ∧ d.bt.upstreamPort = 0x1F ∧ d.bt.events.val.getLsbD 0 = true ∧
      d.bt.elect = .claiming ∧ d.bt.lowest = some s.dev.ownClaim) ∧
  (∀ (s : State),
    s.dev.bt.holdover = true →
    100000 ≤ s.dev.bt.holdoverBeats.toNat →
    Completes .holdoverPause s fun d =>
      ∀ p ∈ d.plans, p.state = .running → p.stopping ≠ none)

/-- The election (R51 to R53, R442). -/
def Obligations.ElectionTakesTheLowestKey : Prop :=
  (∀ (s : State) (p : Nat) (f : Flit) (rest : List (Nat × Flit)) (c l : Claim),
    s.dev.lnk.inbox = (p, f) :: rest →
    f.body = .claim c →
    c.origin ≠ ownUid →
    c.key.toNat < s.dev.ownKey.toNat →
    s.dev.bt.elect = .claiming →
    s.dev.bt.settled = false →
    s.dev.bt.lowest = some l →
    c.key.toNat < l.key.toNat →
    Completes .claimReceive s fun d =>
      d.bt.lowest = some c ∧ d.bt.claimBeat = s.dev.bt.beat ∧ d.bt.claims = false ∧ d.lnk.inbox = rest) ∧
  (∀ (s : State) (p : Nat) (f : Flit) (rest : List (Nat × Flit)) (c : Claim),
    s.dev.lnk.inbox = (p, f) :: rest →
    f.body = .claim c →
    c.origin ≠ ownUid →
    c.key = s.dev.ownKey →
    s.dev.bt.conflict = false →
    Completes .claimReceive s fun d =>
      d.bt.elect = .conflict ∧ d.bt.conflict = true ∧ d.bt.claims = false ∧ d.bt.events.val.getLsbD 4 = true) ∧
  (∀ (s : State),
    s.dev.bt.settled = false →
    s.dev.bt.elect = .claiming →
    1024 ≤ s.dev.since s.dev.bt.claimBeat →
    s.dev.bt.claims = true →
    s.dev.pwr.phase = .elect →
    Completes .electionSettle s fun d =>
      d.bt.elect = .master ∧ d.bt.countValid = true ∧ d.bt.upstreamPort = 0x1F ∧ d.bt.settled = true ∧
      d.pwr.phase = .ready ∧ d.pwr.ready = true) ∧
  (∀ (s : State) (l : Claim),
    s.dev.bt.settled = false →
    s.dev.bt.elect = .claiming →
    1024 ≤ s.dev.since s.dev.bt.claimBeat →
    s.dev.bt.claims = false →
    s.dev.bt.conflict = false →
    s.dev.bt.lowest = some l →
    Completes .electionSettle s fun d =>
      d.bt.elect = .follower ∧ d.bt.masterKey = l.key ∧ d.bt.settled = true)

/-- Supplies (R415, R428 to R431, R454). -/
def Obligations.SuppliesStartAndStopTheDevice : Prop :=
  (∀ (s : State),
    s.dev.pwr.vinOk = false →
    s.dev.pwr.vauxOk = true →
    s.dev.pwr.mustFall = false →
    Completes .vinRise s fun d =>
      d.pwr.vinOk = true ∧ d.pwr.pdOk = 0xF) ∧
  (∀ (s : State) (high : Bool),
    s.dev.pwr.vinOk = true →
    s.dev.pwr.ctlUp = true →
    s.dev.pwr.sysRst = false →
    s.dev.pwr.events.val = 0 →
    Completes (.vinOutOfRange high) s fun d =>
      d.pwr.events.val = (if high then 2 else 1) ∧ d.mgt.alerts.val = s.dev.mgt.alerts.val ||| (if high then 2 else 1) ∧ d.pwr.phase = s.dev.pwr.phase) ∧
  (∀ (s : State),
    s.dev.pwr.vinOk = true →
    s.dev.pwr.pdOk ≠ 0 →
    s.dev.health.latch.length < 16 →
    Completes .vinUndervoltage s fun d =>
      d.pwr.phase = .halted ∧ d.pwr.pdOk = 0 ∧ d.pwr.ctlUp = false ∧ d.pwr.vinOk = false ∧ d.pwr.mustFall = false ∧
      (d.health.latch.getLast?.map (·.code)) = some 0x1A00 ∧ d.plans = [] ∧ d.mgt = s.dev.mgt ∧ d.jtag = s.dev.jtag) ∧
  (∀ (s : State),
    s.dev.pwr.vinOk = true →
    s.dev.pwr.pdOk ≠ 0 →
    s.dev.health.latch.length < 16 →
    Completes .vinOvervoltage s fun d =>
      d.pwr.phase = .halted ∧ d.pwr.pdOk = 0 ∧ d.pwr.ctlUp = false ∧ d.pwr.mustFall = true ∧
      (d.health.latch.getLast?.map (·.code)) = some 0x1A01 ∧ d.mgt = s.dev.mgt) ∧
  (∀ (s : State) (die : Fin 4),
    s.dev.pwr.pdOk.getLsbD die.val = true →
    s.dev.health.latch.length < 16 →
    Completes (.powerDieFault die) s fun d =>
      d.pwr.phase = .halted ∧ d.pwr.pdOk = 0 ∧ d.pwr.mustFall = true ∧ (d.health.latch.getLast?.map (·.code)) = some 0x1A02 ∧ d.mgt = s.dev.mgt) ∧
  (∀ (s : State),
    s.dev.pwr.vauxOk = true →
    Completes .vauxLoss s fun d =>
      d.pwr.phase = .halted ∧ d.pwr.vauxOk = false ∧ d.pwr.pdOk = 0 ∧ d.pwr.ctlUp = false ∧ d.health.latch = []) ∧
  (∀ (s : State),
    s.dev.pwr.vauxOk = true →
    s.dev.pwr.thermtrip = false →
    s.dev.health.latch.length < 16 →
    Completes .thermtrip s fun d =>
      d.pwr.phase = .halted ∧ d.pwr.pdOk = 0 ∧ d.pwr.thermtrip = true ∧ d.pwr.mustFall = true ∧
      (d.health.latch.getLast?.map (·.code)) = some 0x1900)

/-- Domains and sensors (R431, R434, R436, R454). -/
def Obligations.DomainsRampAndSensorsReport : Prop :=
  (∀ (s : State) (k : Fin 171) (cause : Nat) (b : BitVec 52),
    s.dev.pwr.ramps = [(k.val, cause, b)] →
    s.dev.pwr.waitDown = [] →
    s.dev.pwr.doms.length = 171 →
    Completes (.domainRampDone ⟨k, true⟩) s fun d =>
      d.dom k.val = .gated ∧ ∀ e ∈ d.pwr.ramps, e.1 ≠ k.val) ∧
  (∀ (s : State) (k : Fin 171),
    s.dev.pwr.ramps.any (fun e => e.1 == k.val) = true →
    k.val < 80 →
    s.dev.runs 2 = false →
    Completes (.domainRampDone ⟨k, false⟩) s fun d =>
      d.pwr.badSites = s.dev.pwr.badSites ++ [k.val]) ∧
  (∀ (s : State) (k : Fin 171) (cause : Nat) (b : BitVec 52),
    s.dev.pwr.ramps = [(k.val, cause, b)] →
    800 ≤ s.dev.since b →
    Completes (.domainRampTimeout k) s fun d =>
      d.pwr.events.val.getLsbD 4 = true) ∧
  (∀ (s : State) (path : RegPath) (k : BitVec 8),
    s.dev.pathOpen path = true →
    165 ≤ k.toNat →
    k.toNat < 169 →
    (s.dev.slv.getD (k.toNat - 165) {}).inService = true →
    s.dev.dom k.toNat = .off →
    s.dev.pwr.ctlUp = true →
    s.dev.pwr.waitUp = [] →
    Completes (.domainPowerUp path k) s fun d =>
      d.pwr.waitUp = [(k.toNat, 3)] ∧ d = { s.dev with pwr := d.pwr }) ∧
  (∀ (s : State) (path : RegPath) (k : BitVec 8),
    s.dev.pathOpen path = true →
    165 ≤ k.toNat →
    k.toNat < 169 →
    s.dev.anyArmed = false →
    s.dev.dom k.toNat = .on →
    s.dev.pwr.ctlUp = true →
    s.dev.pwr.doms.length = 171 →
    Completes (.domainPowerDown path k) s fun d =>
      d.dom k.toNat = .ramping ∧ d.pwr.downs = s.dev.pwr.downs ++ [(k.toNat, s.dev.bt.beat)]) ∧
  (∀ (s : State) (path : RegPath) (k : BitVec 8),
    s.dev.pathOpen path = true →
    s.dev.pwr.ctlUp = true →
    169 ≤ k.toNat →
    Completes (.domainPowerDown path k) s fun d =>
      d.pwr.events.val.getLsbD 5 = true ∧ d.pwr.doms = s.dev.pwr.doms) ∧
  (∀ (s : State) (x : Sample),
    s.dev.pwr.vauxOk = true →
    s.dev.pwr.thermtrip = false →
    x.dies.any (fun t => decide ((1150 : Int) ≤ t.toInt)) = true →
    s.dev.health.latch.length < 16 →
    Completes (.sensorSample x) s fun d =>
      d.pwr.phase = .halted ∧ d.pwr.thermtrip = true ∧ (d.health.latch.getLast?.map (·.code)) = some 0x1900) ∧
  (∀ (s : State) (x : Sample),
    s.dev.pwr.vauxOk = true →
    s.dev.pwr.ctlUp = true →
    s.dev.pwr.sysRst = false →
    x.dies.any (fun t => decide ((1150 : Int) ≤ t.toInt)) = false →
    Completes (.sensorSample x) s fun d =>
      d.mgt.hotDie = BitVec.ofNat 8 (hottest x.dies).1 ∧ d.mgt.tempNow = tempNow (hottest x.dies).2 ∧ d.pwr.pds = x.pds ∧
      d.pwr.sampleTs = s.dev.now ∧ d.pwr.hotTemp = (hottest x.dies).2)

/-- Resets (R400, R409, R423, R429, R439 to R441, R444). -/
def Obligations.ResetsClearAndKeep : Prop :=
  (∀ (s : State) (x : StrapSamples),
    s.dev.pwr.vauxOk = false →
    Completes (.coldReset (.vaux x)) s fun d =>
      d.pwr.vauxOk = true ∧ d.pwr.phase = .reset ∧ d.pwr.pos = x.value.extractLsb' 4 3 ∧ d.pwr.priority = x.value.extractLsb' 0 4 ∧
      d.lnk.w = d.pwr.pos ∧ d.health.latch = [] ∧ d.mem.bytes = []) ∧
  (∀ (s : State),
    s.dev.pwr.ctlUp = false →
    s.dev.pwr.vauxOk = true →
    s.dev.pwr.vinOk = true →
    s.dev.pwr.pdOk = 0xF →
    Completes (.coldReset .control) s fun d =>
      d.pwr.ctlUp = true ∧ d.pwr.phase = .reset ∧ d.pwr.lastReset = 1 ∧ (s.dev.pwr.sysRst = false → d.bt.beatOut = .own) ∧ d.mem.bytes = [] ∧ d.plans = [] ∧ d.health.latch = s.dev.health.latch ∧
      d.sec.lcState = s.dev.sec.lcState ∧ d.sec.failCount = 0) ∧
  (∀ (s : State) (x : StrapSamples) (fl : List (Bool × List Byte)),
    s.dev.pwr.vauxOk = true →
    s.dev.pwr.sysRst = false →
    s.dev.pwr.ctlUp = true →
    Completes (.warmReset false ⟨x, fl⟩) s fun d =>
      d.pwr.sysRst = true ∧ d.pwr.warmCount = satInc s.dev.pwr.warmCount ∧ d.pwr.lastReset = 2 ∧ d.mem = s.dev.mem ∧ d.plans = [] ∧
      d.health.bankA = s.dev.health.bankA ∧ d.health.bankB = s.dev.health.bankB ∧ d.health.latch = s.dev.health.latch ∧
      d.sec.failCount = s.dev.sec.failCount ∧ (∀ i : Fin 5, d.sec.slots.getD (i.val + 1) .factory = .empty)) ∧
  (∀ (s : State) (x : StrapSamples) (fl : List (Bool × List Byte)),
    s.dev.pwr.vauxOk = true →
    s.dev.pwr.sysRst = true →
    s.dev.pwr.again = false →
    Completes (.warmReset true ⟨x, fl⟩) s fun d =>
      d.pwr.sysRst = false ∧ d.pwr.pos = x.value.extractLsb' 4 3 ∧ d.pwr.priority = x.value.extractLsb' 0 4 ∧ d.pwr.phase = s.dev.pwr.phase ∧
      d.sec = fl.foldl Sec.writeBank s.dev.sec) ∧
  (∀ (s : State),
    s.dev.pwr.ctlUp = true →
    s.dev.pwr.sysRst = false →
    Completes .pcieReset s fun d =>
      d.pwr.perstHigh = false ∧ d.pwr.pcieUp = false ∧ d.pwr.lastReset = 3 ∧ d.sec.vfEnable = false) ∧
  (∀ (s : State),
    s.dev.pwr.ctlUp = true →
    s.dev.pwr.sysRst = false →
    Completes .pcieEndpointUp s fun d =>
      d.pwr.perstHigh = true ∧ d.pwr.pcieUp = true) ∧
  (∀ (s : State) (func : Fin 5),
    s.dev.pwr.pcieUp = true →
    s.dev.chans.length = 8 →
    Completes (.functionLevelReset func) s fun d =>
      d.msixTab = s.dev.msixTab.set func.val [] ∧ (d.chan func.val).session = none ∧ (d.chan func.val).lastSeq = 0xFFFFFFFF) ∧
  (∀ (s : State),
    s.dev.pwr.pcieUp = true →
    s.dev.sec.vfEnable = true →
    Completes .vfEnableClear s fun d =>
      d.sec.vfEnable = false)

/-- The boot and the firmware processors (R61, R327, R403, R442, R443). -/
def Obligations.BootComesFromTheFlash : Prop :=
  (∀ (s : State),
    s.dev.pwr.phase = .auth →
    s.dev.pwr.ctlUp = true →
    s.dev.pwr.sysRst = false →
    s.dev.sec.passes (if s.dev.sec.bootBank then s.dev.sec.bank1 else s.dev.sec.bank0) = true →
    Completes (.firmwareAuth []) s fun d =>
      d.pwr.phase = .wipe ∧ (∀ f ∈ d.fwp, f.state = .running) ∧ (∀ k ∈ d.stks, k.wipeBusy = true) ∧
      s.dev.sec.minEpoch.toNat ≤ d.sec.minEpoch.toNat ∧ d.sec.activeBank = s.dev.sec.bootBank) ∧
  (∀ (s : State) (bad : List (Fin 8)),
    s.dev.pwr.phase = .auth →
    s.dev.pwr.ctlUp = true →
    s.dev.pwr.sysRst = false →
    s.dev.sec.passes s.dev.sec.bank0 = false →
    s.dev.sec.passes s.dev.sec.bank1 = false →
    s.dev.health.latch.length < 16 →
    s.dev.fwp.length = 5 →
    Completes (.firmwareAuth bad) s fun d =>
      d.pwr.phase = .halted ∧ (d.health.latch.getLast?.map (·.code)) = some 0x1801 ∧ d.sec = s.dev.sec ∧ (d.fw 3).state = .halted) ∧
  (∀ (s : State) (path : RegPath),
    s.dev.pathOpen path = true →
    s.dev.pwr.phase = .waitCfg →
    s.dev.pwr.ctlUp = true →
    Completes (.cfgDone path) s fun d =>
      d.pwr.phase = .links ∧ d.pwr.cfgDone = true) ∧
  (∀ (s : State) (found : List TrainIn),
    s.dev.pwr.phase = .links →
    s.dev.runs 4 = true →
    s.dev.bt.conflict = false →
    (∀ p : Fin 24, (s.dev.port p.val).state = .training → s.dev.domUp (128 + p.val) = true) →
    Completes (.trainingDone found) s fun d =>
      d.pwr.phase = .elect ∧ d.bt.elect = .claiming ∧ ∀ p : Fin 24, (d.port p.val).state ≠ .training) ∧
  (∀ (s : State) (i : Fin 5),
    s.dev.runs i.val = true →
    i.val ≠ 3 →
    Completes (.processorWatchdogExpiry i) s fun d =>
      (d.fw i.val).state = .restarting ∧ (d.fw i.val).restarts = satInc (s.dev.fw i.val).restarts) ∧
  (∀ (s : State),
    s.dev.runs 3 = true →
    Completes (.processorWatchdogExpiry 3) s fun d =>
      (d.fw 3).state = .halted ∧ d.pwr.phase = .halted ∧ d.pwr.ready = false) ∧
  (∀ (s : State) (i : Fin 5),
    (s.dev.fw i.val).state = .restarting →
    Completes (.processorRestartDone i) s fun d =>
      (d.fw i.val).state = .running)

/-- Windows, doorbells, copies and channel resets (R63 to R66, R77). -/
def Obligations.MailboxTakesAndCopiesRequests : Prop :=
  (∀ (s : State) (func : Fin 5) (ch : Fin 8) (off : Fin 4096) (data : List Byte),
    s.dev.canUse func.val ch.val = true →
    (s.dev.chan ch.val).winFree = true →
    Completes (.requestWindowWrite func ch off data) s fun d =>
      d = s.dev.modChan ch.val (fun x => { x with
        window := (x.window.take off.val ++ data ++ x.window.drop (off.val + data.length)).take 4096 })) ∧
  (∀ (s : State) (func : Fin 5) (ch : Fin 8),
    s.dev.canUse func.val ch.val = true →
    ch.val ≠ 5 →
    (s.dev.chan ch.val).resetBusy = false →
    (s.dev.chan ch.val).winFree = true →
    (s.dev.chan ch.val).outstanding < 64 →
    Completes (.doorbellRing func ch) s fun d =>
      d = s.dev.modChan ch.val (fun x => { x with winFree := false, outstanding := x.outstanding + 1 })) ∧
  (∀ (s : State) (func : Fin 5) (ch : Fin 8),
    s.dev.canUse func.val ch.val = true →
    ch.val ≠ 5 →
    (s.dev.chan ch.val).resetBusy = false →
    (s.dev.chan ch.val).winFree = true →
    64 ≤ (s.dev.chan ch.val).outstanding →
    Completes (.doorbellRing func ch) s fun d =>
      (d.chan ch.val).refused = satInc (s.dev.chan ch.val).refused ∧ (d.chan ch.val).winFree = true ∧
      (d.chan ch.val).outstanding = (s.dev.chan ch.val).outstanding ∧ (d.chan ch.val).err.val.getLsbD 2 = true) ∧
  (∀ (s : State) (ch : Fin 8),
    (s.dev.chan ch.val).winFree = false →
    Completes (.requestCopyDone ch) s fun d =>
      (d.chan ch.val).winFree = true ∧ (d.chan ch.val).copied =
        (s.dev.chan ch.val).copied ++ [(s.dev.chan ch.val).window.take (mBytes (s.dev.chan ch.val).window)]) ∧
  (∀ (s : State) (func : Fin 5) (ch : Fin 8),
    s.dev.canUse func.val ch.val = true →
    ch.val < s.dev.chans.length →
    Completes (.channelReset func ch) s fun d =>
      (d.chan ch.val).copied = [] ∧ (d.chan ch.val).responses = [] ∧ (d.chan ch.val).lastSeq = 0xFFFFFFFF ∧ (d.chan ch.val).resetBusy = true ∧
      (d.chan ch.val).session = (if s.dev.dones.any (fun r => r.chan == ch.val && r.ends) then none else (s.dev.chan ch.val).session) ∧ ∀ r ∈ d.dones, r.chan ≠ ch.val) ∧
  (∀ (s : State) (ch : Fin 8),
    (s.dev.chan ch.val).resetBusy = true →
    (∀ r ∈ s.dev.reqs, r.chan = ch.val → r.discard = false) →
    (∀ r ∈ s.dev.dones, r.chan = ch.val → r.discard = false) →
    Completes (.channelResetDone ch) s fun d =>
      (d.chan ch.val).resetBusy = false)

/-- The life of a request and of its response (R59, R67, R69, R73, R74, R76, R104). -/
def Obligations.RequestsAreCheckedAndAnswered : Prop :=
  (∀ (s : State) (c : Fin 8) (m : List Byte) (rest : List (List Byte)),
    s.dev.runs 0 = true →
    (mCritical m && (!s.dev.runs 3 || !s.dev.ringRoom 0 3)) = false →
    (s.dev.chan c.val).copied = m :: rest →
    (∀ x : Fin 8, x ≠ c → (s.dev.chan x.val).copied = []) →
    s.dev.verdict c.val m = .accept →
    Completes .requestCheck s fun d =>
      (d.chan c.val).lastSeq = mSeq m ∧ (d.chan c.val).copied = rest ∧ d.dones = s.dev.dones ∧
      d.reqs.map (fun r => (r.chan, r.msg)) = s.dev.reqs.map (fun r => (r.chan, r.msg)) ++ [(c.val, m)]) ∧
  (∀ (s : State) (c : Fin 8) (m : List Byte) (rest : List (List Byte)) (st : Nat),
    s.dev.runs 0 = true →
    (mCritical m && (!s.dev.runs 3 || !s.dev.ringRoom 0 3)) = false →
    (s.dev.chan c.val).copied = m :: rest →
    (∀ x : Fin 8, x ≠ c → (s.dev.chan x.val).copied = []) →
    s.dev.verdict c.val m = .reject st →
    Completes .requestCheck s fun d =>
      (d.chan c.val).lastSeq = (s.dev.chan c.val).lastSeq ∧ (d.chan c.val).copied = rest ∧ d.reqs = s.dev.reqs ∧
      d.dones = s.dev.dones ++ [{ chan := c.val, msg := m, status := BitVec.ofNat 16 st, payload := none }]) ∧
  (∀ (s : State) (c : Fin 8) (m k : List Byte) (rest : List (List Byte)),
    s.dev.runs 0 = true →
    (mCritical m && (!s.dev.runs 3 || !s.dev.ringRoom 0 3)) = false →
    (s.dev.chan c.val).copied = m :: rest →
    (∀ x : Fin 8, x ≠ c → (s.dev.chan x.val).copied = []) →
    s.dev.verdict c.val m = .duplicate →
    (s.dev.chan c.val).keptResp = some k →
    Completes .requestCheck s fun d =>
      (d.chan c.val).lastSeq = (s.dev.chan c.val).lastSeq ∧ d.reqs = s.dev.reqs ∧
      d.dones = s.dev.dones ++ [{ chan := c.val, msg := m, status := BitVec.ofNat 16 sOkDuplicate, payload := some (mPayload k), key := s.dev.chanKey c.val }]) ∧
  (∀ (s : State) (c : Fin 8) (m : List Byte) (rest : List (List Byte)) (r : Done),
    s.dev.runs 0 = true →
    (mCritical m && (!s.dev.runs 3 || !s.dev.ringRoom 0 3)) = false →
    (s.dev.chan c.val).copied = m :: rest →
    (∀ x : Fin 8, x ≠ c → (s.dev.chan x.val).copied = []) →
    s.dev.verdict c.val m = .duplicate →
    (s.dev.chan c.val).keptResp = none →
    r ∈ s.dev.dones →
    r.chan = c.val →
    r.discard = false →
    r.payload.isSome = true →
    sameRequest r.msg m = true →
    Completes .requestCheck s fun d =>
      (d.chan c.val).lastSeq = (s.dev.chan c.val).lastSeq ∧ d.dones.length = s.dev.dones.length ∧ d.reqs.length = s.dev.reqs.length ∧
      { r with dups := r.dups ++ [m] } ∈ d.dones) ∧
  (∀ (s : State) (r : Req) (rest : List Req),
    s.dev.runs 0 = true →
    s.dev.reqs = r :: rest →
    s.dev.mayPass [] r = true →
    Completes .requestDispatch s fun d =>
      d.reqs = { r with place := .owner } :: rest) ∧
  (∀ (s : State) (r : Done) (rest : List Done),
    s.dev.runs 0 = true →
    (mCritical r.msg && r.payload.isSome && !s.dev.runs 3) = false →
    s.dev.dones = r :: rest →
    r.discard = false →
    r.chan < s.dev.chans.length →
    Completes .responsePlace s fun d =>
      d.dones = rest ∧ (d.chan r.chan).responses = (s.dev.chan r.chan).responses ++
        responseBytes r.msg r.status.toNat (s.dev.payloadNow r) r.key :: r.dups.map (fun m =>
          responseBytes m (if (s.dev.payloadNow r).isSome then sOkDuplicate else r.status.toNat) (s.dev.payloadNow r) r.key)) ∧
  (∀ (s : State) (func : Fin 5) (ch : Fin 8) (x : List Byte) (rest : List (List Byte)),
    s.dev.canUse func.val ch.val = true →
    (s.dev.chan ch.val).responses = x :: rest →
    (s.dev.chan ch.val).refusedNow = none →
    Completes (.responsePop func ch) s fun d =>
      (d.chan ch.val).responses = rest ∧ (d.chan ch.val).outstanding = (s.dev.chan ch.val).outstanding - 1) ∧
  (∀ (s : State) (func : Fin 5) (ch : Fin 8) (x : List Byte) (rest : List (List Byte)) (n : BitVec 32) (e : Sticky 4),
    s.dev.canUse func.val ch.val = true →
    (s.dev.chan ch.val).responses = x :: rest →
    (s.dev.chan ch.val).refusedNow = some (1, n, e) →
    Completes (.responsePop func ch) s fun d =>
      (d.chan ch.val).responses = rest ∧ (d.chan ch.val).outstanding = (s.dev.chan ch.val).outstanding - 1 + 1 ∧ (d.chan ch.val).refused = n ∧
      (d.chan ch.val).winFree = false) ∧
  (∀ (s : State),
    (s.dev.chan 5).evtOverflow = true →
    (s.dev.chan 5).responses.length < 256 →
    (s.dev.fw 2).state = .running →
    Completes .eventLossSummary s fun d =>
      (d.chan 5).evtOverflow = false ∧ (d.chan 5).lostNow = 0 ∧ (d.chan 5).responses.length = (s.dev.chan 5).responses.length + 1)

/-- R78: the payload of a response to an executed request begins with a 4-byte result word; the duplicates. -/
def Obligations.ExecutedRequestsCarryAResultWord : Prop :=
  (∀ (d : Dev) (r : Req) (result : Nat) (fields : List Byte),
    (d.finishReq r result fields).dones = d.dones ++ executed r result fields) ∧
  (∀ (r : Req) (result : Nat) (fields : List Byte) (x : Done), result < 65536 →
    x ∈ executed r result fields →
      x.status.toNat = result ∧ x.dups = r.dups ∧
      ∃ p, x.payload = some p ∧ fieldLE p 0 2 = result ∧ fieldLE p 2 2 = 0 ∧ p.drop 4 = fields ∧ p.length = 4 + fields.length) ∧
  (∀ (d : Dev) (x : Done) (p : List Byte), x.chan < d.chans.length →
    ((d.placeAll x (some p)).chan x.chan).responses = (d.chan x.chan).responses ++
      responseBytes x.msg x.status.toNat (some p) x.key :: x.dups.map (fun m => responseBytes m sOkDuplicate (some p) x.key)) ∧
  (∀ (m : List Byte) (st : Nat) (p : Option (List Byte)) (k : Option (List Byte)), 1 ≤ m.length → st < 65536 →
    fieldLE (responseBytes m st p k) 6 2 = st)

/-- A LENGTH other than the one of the catalogue is rejected with BAD_LENGTH at check 10 (R80, R81). -/
def Obligations.WrongLengthIsRejected : Prop :=
  ∀ m ∈ chekorMessages, ∀ (s : State) (r : Req),
    s.dev.atOwner r.owner = some r → r.op = m.2 → r.place = .owner → s.dev.runs r.owner = true → s.dev.ringRoom r.owner 0 = true → lengthOk m.2 (mPayload r.msg) = false →
    Completes m.1 s fun d =>
      d.dones = s.dev.dones ++ rejected r sBadLength ∧ d.plans = s.dev.plans ∧ d.sec = s.dev.sec ∧ d.mem = s.dev.mem ∧
      d.health = s.dev.health ∧ d.reqs = (s.dev.reqs.erase r).map (fun q => q.forget r)

/-- DEVICE_INFO, TELEMETRY, LINK_STATUS and CORE_MAP (R96, R97); the offsets here count from byte 4 of the payload. -/
def Obligations.DeviceMessagesReport : Prop :=
  (∀ (s : State) (r : Req),
    s.dev.awaits 0x0100 r →
    Completes .deviceInfo s fun d =>
      d.dones = s.dev.dones ++ executed r sOk d.lastFields ∧ d.lastFields.length = 28 ∧ fieldLE d.lastFields 0 4 = 0x00040064 ∧
      fieldLE d.lastFields 4 1 = 0xA0 ∧ fieldLE d.lastFields 5 1 = 1 ∧ fieldLE d.lastFields 6 1 = s.dev.sec.lcState.toNat ∧
      fieldLE d.lastFields 12 5 = s.dev.bt.serial.toNat ∧ fieldLE d.lastFields 17 2 = s.dev.keyCoord.toNat ∧
      d = { s.dev with reqs := d.reqs, dones := d.dones }) ∧
  (∀ (s : State) (r : Req),
    s.dev.awaits 0x0307 r →
    Completes .telemetry s fun d =>
      d.dones = s.dev.dones ++ executed r sOk d.lastFields ∧ fieldLE d.lastFields 0 4 = s.dev.pwr.pkgMw.toNat ∧
      (s.dev.pwr.pds.length = 4 → d.lastFields.length = 36 ∧ fieldLE d.lastFields 28 8 = s.dev.pwr.sampleTs.toNat) ∧
      d = { s.dev with reqs := d.reqs, dones := d.dones }) ∧
  (∀ (s : State) (r : Req),
    s.dev.awaits 0x0500 r →
    Completes .linkStatus s fun d =>
      d.dones = s.dev.dones ++ executed r sOk d.lastFields ∧ fieldLE d.lastFields 0 4 = portMask s.dev (·.state == .up) ∧
      fieldLE d.lastFields 12 8 = s.dev.bt.status.toNat ∧ d = { s.dev with reqs := d.reqs, dones := d.dones }) ∧
  (∀ (s : State) (r : Req),
    s.dev.awaits 0x0308 r →
    r.chan = 0 →
    Completes .coreMap s fun d =>
      d.dones = s.dev.dones ++ executed r sOk d.lastFields ∧ (∀ c : Fin 72, fieldLE d.lastFields c.val 1 = s.dev.siteOf.getD c.val 0xFF % 256) ∧
      fieldLE d.lastFields 72 8 = s.dev.mapTs.toNat ∧ d = { s.dev with reqs := d.reqs, dones := d.dones })

/-- Sessions (R83, R84); the number and the nonce are free values. -/
def Obligations.SessionsOpenAndClose : Prop :=
  (∀ (s : State) (r : Req),
    s.dev.awaits 0x0101 r →
    (s.dev.sec.slotKey r.chan).isSome = true →
    r.chan < s.dev.chans.length →
    (s.dev.chan r.chan).numbers.length < 2 ^ 31 →
    Completes .sessionOpen s fun d =>
      d.dones = s.dev.dones ++ executed r sOk d.lastFields ∧ d.lastFields.length = 20 ∧ fieldLE d.lastFields 0 4 ≠ 0 ∧
      BitVec.ofNat 32 (fieldLE d.lastFields 0 4) ∉ (s.dev.chan r.chan).numbers ∧
      (d.chan r.chan).numbers = (s.dev.chan r.chan).numbers ++ [BitVec.ofNat 32 (fieldLE d.lastFields 0 4)] ∧
      ((d.chan r.chan).session.map (fun x => (x.number.toNat, x.lastCounter))) = some (fieldLE d.lastFields 0 4, 0)) ∧
  (∀ (s : State) (r : Req),
    s.dev.awaits 0x0101 r →
    s.dev.sec.slotKey r.chan = none →
    Completes .sessionOpen s fun d =>
      d.dones = s.dev.dones ++ rejected r sBadState) ∧
  (∀ (s : State) (r : Req),
    s.dev.awaits 0x0102 r →
    Completes .sessionClose s fun d =>
      d.dones = s.dev.dones ++ executed r sOk [] ∧ (d.chan r.chan).session = none)

/-- Admission and arming (R85, R86, R110, R115, R288). -/
def Obligations.PlansAreAdmittedAndArmed : Prop :=
  (∀ (s : State) (r : Req) (img : PlanImg) (margin : Nat),
    s.dev.awaits 0x0200 r →
    s.dev.pwr.phase = .ready →
    fieldLE (mPayload r.msg) 8 4 ≠ 0 →
    zeroBytes (mPayload r.msg) 12 4 = true →
    s.dev.funcOwns r.func (fieldLE (mPayload r.msg) 0 8) (fieldLE (mPayload r.msg) 8 4) = true →
    s.dev.sec.lcState ≠ 3 →
    s.dev.wipeHolds (fieldLE (mPayload r.msg) 0 8) (fieldLE (mPayload r.msg) 8 4) = false →
    (s.dev.plans.filter (fun q => q.live && q.func == r.func)).length < 2 →
    s.dev.beatLost = false →
    s.dev.bt.elect ≠ .conflict →
    s.dev.admission r.func (fieldLE (mPayload r.msg) 0 8) (fieldLE (mPayload r.msg) 8 4) = .ok img margin →
    Completes .planAdmit s fun d =>
      d.dones = s.dev.dones ++ executed r sOk d.lastFields ∧ fieldLE d.lastFields 2 2 = 0 ∧
      ((d.plan? (BitVec.ofNat 16 (fieldLE d.lastFields 0 2))).map (fun p => (p.state, p.func, p.img))) = some (.admitted, r.func, img)) ∧
  (∀ (s : State) (r : Req) (reason n st : Nat),
    s.dev.awaits 0x0200 r →
    s.dev.pwr.phase = .ready →
    fieldLE (mPayload r.msg) 8 4 ≠ 0 →
    zeroBytes (mPayload r.msg) 12 4 = true →
    s.dev.funcOwns r.func (fieldLE (mPayload r.msg) 0 8) (fieldLE (mPayload r.msg) 8 4) = true →
    s.dev.sec.lcState ≠ 3 →
    s.dev.wipeHolds (fieldLE (mPayload r.msg) 0 8) (fieldLE (mPayload r.msg) 8 4) = false →
    (s.dev.plans.filter (fun q => q.live && q.func == r.func)).length < 2 →
    s.dev.beatLost = false →
    s.dev.bt.elect ≠ .conflict →
    s.dev.admission r.func (fieldLE (mPayload r.msg) 0 8) (fieldLE (mPayload r.msg) 8 4) = .fail reason n st →
    Completes .planAdmit s fun d =>
      d.dones = s.dev.dones ++ executed r sNotAdmitted d.lastFields ∧ d.plans = s.dev.plans ∧
      fieldLE d.lastFields 2 2 = reason % 65536) ∧
  (∀ (s : State) (r : Req) (q : Plan),
    s.dev.awaits 0x0201 r →
    s.dev.pwr.phase = .ready →
    s.dev.planFor r (mPayload r.msg) = some q →
    zeroBytes (mPayload r.msg) 2 6 = true →
    beatOk r (fieldLE (mPayload r.msg) 8 8) = true →
    q.state = .admitted →
    q.retiring = none →
    s.dev.bt.countValid = true →
    s.dev.beatLost = false →
    s.dev.bt.elect ≠ .conflict →
    q.img.layout.ranges.any (fun r => s.dev.wipeHolds r.base r.len) = false →
    Completes .planArm s fun d =>
      d.dones = s.dev.dones ++ executed r sOk [] ∧ d.epoch = s.dev.epoch + 1 ∧
      ((d.plan? q.handle).map (fun p => (p.state, p.base, p.epoch))) =
        some (.armed, BitVec.ofNat 52 (fieldLE (mPayload r.msg) 8 8), s.dev.epoch + 1))

/-- Messages about a plan (R82, R87 to R90). -/
def Obligations.PlansArePausedResumedRetiredAndShown : Prop :=
  (∀ (s : State) (r : Req) (q : Plan),
    s.dev.awaits 0x0202 r →
    s.dev.planFor r (mPayload r.msg) = some q →
    zeroBytes (mPayload r.msg) 2 6 = true →
    q.state = .armed →
    q.retiring = none →
    q.pauseAt = none →
    Completes .planPause s fun d =>
      d.dones = s.dev.dones ++ executed r sOk d.lastFields ∧ fieldLE d.lastFields 4 8 = q.base.toNat ∧ ((d.plan? q.handle).bind (·.pauseAt)) = some (0, q.base)) ∧
  (∀ (s : State) (r : Req) (q : Plan),
    s.dev.awaits 0x0202 r →
    s.dev.planFor r (mPayload r.msg) = some q →
    zeroBytes (mPayload r.msg) 2 6 = true →
    q.state = .running →
    q.retiring = none →
    q.pauseAt = none →
    s.dev.stepBegun q q.curStep = true →
    q.curStep + 1 < q.nSteps →
    Completes .planPause s fun d =>
      d.dones = s.dev.dones ++ executed r sOk d.lastFields ∧ fieldLE d.lastFields 4 8 = (q.stepStart (q.curStep + 1)).toNat ∧
      ((d.plan? q.handle).bind (·.pauseAt)) = some (q.curStep + 1, q.stepStart (q.curStep + 1))) ∧
  (∀ (s : State) (r : Req) (q : Plan),
    s.dev.awaits 0x0203 r →
    s.dev.pwr.phase = .ready →
    s.dev.planFor r (mPayload r.msg) = some q →
    zeroBytes (mPayload r.msg) 2 6 = true →
    beatOk r (fieldLE (mPayload r.msg) 8 8) = true →
    q.state = .paused →
    q.resumeBeat = none →
    q.retiring = none →
    s.dev.beatLost = false →
    Completes .planResume s fun d =>
      d.dones = s.dev.dones ++ executed r sOk [] ∧ ((d.plan? q.handle).bind (·.resumeBeat)) = some (BitVec.ofNat 52 (fieldLE (mPayload r.msg) 8 8))) ∧
  (∀ (s : State) (r : Req) (q : Plan),
    s.dev.awaits 0x0207 r →
    s.dev.planFor r (mPayload r.msg) = some q →
    zeroBytes (mPayload r.msg) 2 6 = true →
    beatOk r (fieldLE (mPayload r.msg) 8 8) = true →
    q.state = .debugHeld →
    q.resumeBeat = none →
    q.retiring = none →
    Completes .debugResume s fun d =>
      d.dones = s.dev.dones ++ executed r sOk [] ∧ ((d.plan? q.handle).bind (·.resumeBeat)) = some (BitVec.ofNat 52 (fieldLE (mPayload r.msg) 8 8))) ∧
  (∀ (s : State) (r : Req) (q : Plan),
    s.dev.awaits 0x0204 r →
    s.dev.planFor r (mPayload r.msg) = some q →
    zeroBytes (mPayload r.msg) 2 6 = true →
    q.state ≠ .retired →
    s.dev.sec.releasing = [] →
    Completes .planRetire s fun d =>
      ((d.plan? q.handle).map (fun p => p.state == .retired || p.retiring.isSome)) = some true) ∧
  (∀ (s : State) (r : Req) (q : Plan),
    s.dev.awaits 0x0205 r →
    s.dev.planFor r (mPayload r.msg) = some q →
    zeroBytes (mPayload r.msg) 2 6 = true →
    Completes .planStatus s fun d =>
      d.dones = s.dev.dones ++ executed r sOk d.lastFields ∧ fieldLE d.lastFields 0 1 = q.state.code ∧ fieldLE d.lastFields 4 4 = q.curStep % 2 ^ 32 ∧
      fieldLE d.lastFields 8 4 = (q.lastDone.getD 0xFFFFFFFF) % 2 ^ 32 ∧ fieldLE d.lastFields 12 2 = q.lastStatus.toNat ∧
      fieldLE d.lastFields 16 4 = q.missed.toNat ∧ d.plans = s.dev.plans) ∧
  (∀ (s : State) (r : Req) (q : Plan) (base : BitVec 52) (n : Nat) (g : GroupEnt),
    s.dev.awaits 0x0206 r →
    s.dev.planFor r (mPayload r.msg) = some q →
    q.state = .armed →
    q.retiring = none →
    r.plan0.getD (false, q.base) = (false, base) →
    q.stepAt base (fieldLE (mPayload r.msg) 8 8) = some n →
    fieldLE (mPayload r.msg) 2 2 = 1 →
    1000 ≤ beatDiff r.acceptBeat (BitVec.ofNat 52 (fieldLE (mPayload r.msg) 8 8)) →
    zeroBytes (mPayload r.msg) 4 4 = true →
    fieldLE (mPayload r.msg) 19 1 = 0 →
    q.img.groups[fieldLE (mPayload r.msg) 16 2]? = some g →
    fieldLE (mPayload r.msg) 18 1 < g.hists.length →
    Completes .recipeSelect s fun d =>
      d.dones = s.dev.dones ++ executed r sOk [] ∧ ((d.plan? q.handle).map (fun p => p.selects.contains
        ⟨n, fieldLE (mPayload r.msg) 16 2, fieldLE (mPayload r.msg) 18 1, mTag r.msg⟩)) = some true) ∧
  (∀ (s : State) (r : Req),
    s.dev.awaits 0x0205 r →
    s.dev.planFor r (mPayload r.msg) = none →
    Completes .planStatus s fun d =>
      d.dones = s.dev.dones ++ rejected r sBadField ∧ d.plans = s.dev.plans)

/-- Fencing (R91, R92, R375). -/
def Obligations.FencesTakeUnitsOutOfService : Prop :=
  (∀ (s : State) (r : Req) (u : BitVec 16),
    s.dev.awaits 0x0300 r →
    s.dev.pwr.phase = .ready →
    payloadUnit (mPayload r.msg) = u →
    unitKind u = 1 →
    unitNum u < 80 →
    unitNum u < s.dev.health.siteStates.length →
    s.dev.siteState (unitNum u) = .held ∨ s.dev.siteState (unitNum u) = .warm →
    s.dev.standsFenced u = false →
    s.dev.health.recoveries = [] →
    Completes .fence s fun d =>
      d.dones = s.dev.dones ++ executed r sOk [] ∧ (d.siteState (unitNum u) = .fenced ∨ d.siteState (unitNum u) = .permanent) ∧ (d.site (unitNum u)).lbk.grant = 0 ∧
      d.health.logNext = s.dev.health.logNext + (if s.dev.health.logState = 2 then 0 else 1) ∧
      (s.dev.logs → (d.health.bankA.getLast?.map (fun x => (x.code, x.unit, x.tag))) = some (0x1701, u, mTag r.msg))) ∧
  (∀ (s : State) (r : Req) (u : BitVec 16),
    s.dev.awaits 0x0300 r →
    s.dev.pwr.phase = .ready →
    payloadUnit (mPayload r.msg) = u →
    unitKind u = 1 →
    unitNum u < 80 →
    s.dev.siteState (unitNum u) = .inService →
    s.dev.standsFenced u = false →
    s.dev.health.recoveries = [] →
    Completes .fence s fun d =>
      d.siteState (unitNum u) = .recovering ∧ d.dones = s.dev.dones ∧
      d.health.recoveries.map (fun x => (x.site, x.cause)) = [(unitNum u, .fence)]) ∧
  (∀ (s : State) (r : Req) (u : BitVec 16) (x : Recovery),
    s.dev.awaits 0x0300 r →
    s.dev.pwr.phase = .ready →
    payloadUnit (mPayload r.msg) = u →
    unitKind u = 1 →
    unitNum u < 80 →
    s.dev.standsFenced u = false →
    s.dev.health.recoveries = [x] →
    x.site = unitNum u →
    (x.cause = .inPlace ∨ (x.cause = .swap ∧ x.phase = .detected)) →
    x.fail = unitNum u →
    Completes .fence s fun d =>
      d.dones = s.dev.dones ∧
      d.health.recoveries.map (fun y => (y.site, y.cause, y.phase, y.spare, y.tag)) = [(unitNum u, .fence, .detected, none, mTag r.msg)]) ∧
  (∀ (s : State) (r : Req) (u : BitVec 16) (x : Recovery),
    s.dev.awaits 0x0300 r →
    s.dev.pwr.phase = .ready →
    payloadUnit (mPayload r.msg) = u →
    unitKind u = 1 →
    unitNum u < 80 →
    unitNum u < s.dev.health.siteStates.length →
    s.dev.standsFenced u = false →
    s.dev.health.recoveries = [x] →
    x.site = unitNum u →
    x.cause = .swap →
    x.phase = .inService →
    Completes .fence s fun d =>
      d.dones = s.dev.dones ++ executed r sOk [] ∧ (d.siteState (unitNum u) = .fenced ∨ d.siteState (unitNum u) = .permanent) ∧
      d.health.recoveries.map (fun y => (y.site, y.cause, y.phase)) = [(unitNum u, .fence, .inService)]) ∧
  (∀ (s : State) (r : Req) (u : BitVec 16) (x : Recovery),
    s.dev.awaits 0x0300 r →
    s.dev.pwr.phase = .ready →
    payloadUnit (mPayload r.msg) = u →
    unitKind u = 1 →
    unitNum u < 80 →
    unitNum u < s.dev.health.siteStates.length →
    s.dev.standsFenced u = false →
    s.dev.health.recoveries = [x] →
    x.site ≠ unitNum u →
    x.spare = some (unitNum u) →
    Completes .fence s fun d =>
      d.dones = s.dev.dones ∧ (d.siteState (unitNum u) = .fenced ∨ d.siteState (unitNum u) = .permanent) ∧
      d.health.recoveries.map (fun y => (y.site, y.phase, y.spare, y.asked)) = [(x.site, .detected, none, some (unitNum u))]) ∧
  (∀ (s : State) (r : Req) (u : BitVec 16),
    s.dev.awaits 0x0300 r →
    s.dev.pwr.phase = .ready →
    payloadUnit (mPayload r.msg) = u →
    unitKind u = 4 →
    unitNum u < 24 →
    (s.dev.port (unitNum u)).state = .up →
    Completes .fence s fun d =>
      d.dones = s.dev.dones ++ executed r sOk [] ∧ (d.port (unitNum u)).state = .fenced) ∧
  (∀ (s : State) (r : Req) (u : BitVec 16),
    s.dev.awaits 0x0300 r →
    s.dev.pwr.phase = .ready →
    payloadUnit (mPayload r.msg) = u →
    unitKind u = 5 →
    unitNum u < 16 →
    unitNum u < s.dev.col.engines.length →
    (s.dev.col.engines.getD (unitNum u) {}).inService = true →
    Completes .fence s fun d =>
      d.dones = s.dev.dones ++ executed r sOk [] ∧ (d.col.engines.getD (unitNum u) {}).inService = false) ∧
  (∀ (s : State) (r : Req) (u : BitVec 16),
    s.dev.awaits 0x0300 r →
    s.dev.pwr.phase = .ready →
    payloadUnit (mPayload r.msg) = u →
    unitKind u = 7 →
    unitNum u < 4 →
    unitNum u < s.dev.slv.length →
    (s.dev.slv.getD (unitNum u) {}).inService = true →
    Completes .fence s fun d =>
      d.dones = s.dev.dones ++ executed r sOk [] ∧ (d.slv.getD (unitNum u) {}).inService = false) ∧
  (∀ (s : State) (r : Req) (u : BitVec 16),
    s.dev.awaits 0x0300 r →
    s.dev.pwr.phase = .ready →
    payloadUnit (mPayload r.msg) = u →
    fenceable u = true →
    s.dev.standsFenced u = true →
    Completes .fence s fun d =>
      d.dones = s.dev.dones ++ executed r sFenced [] ∧ d.health = s.dev.health) ∧
  (∀ (s : State) (r : Req) (u : BitVec 16),
    s.dev.awaits 0x0301 r →
    s.dev.pwr.phase = .ready →
    payloadUnit (mPayload r.msg) = u →
    unitKind u = 1 →
    unitNum u < 80 →
    zeroBytes (mPayload r.msg) 2 2 = true →
    s.dev.siteState (unitNum u) = .fenced →
    s.dev.isPermanent u = false →
    s.dev.health.testedSince.getD (unitNum u) none = some true →
    Completes .unfence s fun d =>
      d.dones = s.dev.dones ++ executed r sOk [] ∧ d.siteState (unitNum u) = .held ∧ d.crater? (siteUnit (unitNum u)) = none) ∧
  (∀ (s : State) (r : Req) (u : BitVec 16),
    s.dev.awaits 0x0302 r →
    payloadUnit (mPayload r.msg) = u →
    unitKind u = 1 →
    unitNum u < 80 →
    zeroBytes (mPayload r.msg) 3 1 = true →
    fieldLE (mPayload r.msg) 2 1 = 1 →
    s.dev.siteState (unitNum u) = .fenced →
    s.dev.isPermanent u = false →
    Completes .fenceOverride s fun d =>
      d.dones = s.dev.dones ++ executed r sOk [] ∧ d.siteState (unitNum u) = .held ∧ d.crater? (siteUnit (unitNum u)) = none) ∧
  (∀ (s : State) (r : Req) (u : BitVec 16),
    s.dev.awaits 0x0302 r →
    payloadUnit (mPayload r.msg) = u →
    unitKind u = 1 →
    unitNum u < 80 →
    zeroBytes (mPayload r.msg) 3 1 = true →
    fieldLE (mPayload r.msg) 2 1 = 2 →
    s.dev.siteState (unitNum u) = .fenced →
    s.dev.isPermanent u = false →
    Completes .fenceOverride s fun d =>
      d.dones = s.dev.dones ++ executed r sOk [] ∧ d.siteState (unitNum u) = .permanent) ∧
  (∀ (s : State) (r : Req) (u : BitVec 16),
    s.dev.awaits 0x0302 r →
    payloadUnit (mPayload r.msg) = u →
    unitKind u = 1 →
    unitNum u < 80 →
    zeroBytes (mPayload r.msg) 3 1 = true →
    fieldLE (mPayload r.msg) 2 1 = 3 →
    s.dev.siteState (unitNum u) = .permanent →
    Completes .fenceOverride s fun d =>
      d.dones = s.dev.dones ++ executed r sOk [] ∧ d.siteState (unitNum u) = .fenced)

/-- Tests, the crater table and the health log (R93 to R95). -/
def Obligations.TestsAndRecordsAreServed : Prop :=
  (∀ (s : State) (r : Req) (u : BitVec 16),
    s.dev.awaits 0x0303 r →
    s.dev.pwr.phase = .ready →
    payloadUnit (mPayload r.msg) = u →
    unitKind u = 1 →
    unitNum u < 80 →
    unitNum u < s.dev.health.siteStates.length →
    zeroBytes (mPayload r.msg) 2 2 = true →
    s.dev.siteState (unitNum u) = .held ∨ s.dev.siteState (unitNum u) = .warm ∨ s.dev.siteState (unitNum u) = .fenced →
    Completes .testRun s fun d =>
      d.siteState (unitNum u) = .underTest ∧ d.dones = s.dev.dones ∧
      d.health.tests.map (fun t => (t.site, t.id, t.prior)) =
        s.dev.health.tests.map (fun t => (t.site, t.id, t.prior)) ++ [(unitNum u, 1, some (s.dev.siteState (unitNum u)))]) ∧
  (∀ (s : State) (r : Req),
    s.dev.awaits 0x0304 r →
    1 ≤ fieldLE (mPayload r.msg) 0 1 →
    fieldLE (mPayload r.msg) 0 1 ≤ 24 →
    zeroBytes (mPayload r.msg) 1 3 = true →
    Completes .testConfig s fun d =>
      d.dones = s.dev.dones ++ executed r sOk [] ∧ d.health.testIntervalH.toNat = fieldLE (mPayload r.msg) 0 1) ∧
  (∀ (s : State) (r : Req),
    s.dev.awaits 0x0305 r →
    fieldLE (mPayload r.msg) 1 1 ≤ 124 →
    zeroBytes (mPayload r.msg) 2 2 = true →
    Completes .craterRead s fun d =>
      d.dones = s.dev.dones ++ executed r sOk d.lastFields ∧ d.lastFields.drop 4 =
        ((s.dev.health.crater.drop (fieldLE (mPayload r.msg) 0 1)).take (fieldLE (mPayload r.msg) 1 1)).flatMap Crater.bytes ∧
      fieldLE d.lastFields 0 2 = s.dev.health.crater.length % 65536 ∧ d.health = s.dev.health) ∧
  (∀ (s : State) (r : Req),
    s.dev.awaits 0x0306 r →
    r.chan = 0 →
    s.dev.health.logState ≠ 2 →
    s.dev.health.bankAOk = true →
    fieldLE (mPayload r.msg) 4 2 ≤ 63 →
    zeroBytes (mPayload r.msg) 6 2 = true →
    Completes (.logRead .clean) s fun d =>
      d.dones = s.dev.dones ++ executed r sOk d.lastFields ∧ d.lastFields.drop 12 =
        ((s.dev.health.bankA.drop (fieldLE (mPayload r.msg) 0 4 - (s.dev.health.logNext.toNat - s.dev.health.bankA.length))).take (fieldLE (mPayload r.msg) 4 2)).flatMap Rec.bytes ∧
      d.health = s.dev.health)

/-- Tenancies and shared regions (R98 to R101, R407, R409). -/
def Obligations.TenanciesAreMadeAndReleased : Prop :=
  (∀ (s : State) (r : Req) (gs : List RangeEnt),
    s.dev.awaits 0x0400 r →
    s.dev.pwr.phase = .ready →
    1 ≤ fieldLE (mPayload r.msg) 0 1 →
    fieldLE (mPayload r.msg) 0 1 ≤ 4 →
    1 ≤ fieldLE (mPayload r.msg) 1 1 →
    fieldLE (mPayload r.msg) 1 1 ≤ 8 →
    1 ≤ fieldLE (mPayload r.msg) 2 1 →
    fieldLE (mPayload r.msg) 2 1 ≤ 72 →
    zeroBytes (mPayload r.msg) 3 5 = true →
    gs = (List.range (fieldLE (mPayload r.msg) 1 1)).map (fun i => ⟨fieldLE (mPayload r.msg) (8 + 16 * i) 8, fieldLE (mPayload r.msg) (16 + 16 * i) 8⟩) →
    gs.all rangeOk = true →
    disjoint gs = true →
    gs.any (fun g => s.dev.meetsShared g.base g.len || s.dev.rangeUsed g) = false →
    s.dev.sec.lcState ≠ 3 →
    s.dev.tenancyExists (fieldLE (mPayload r.msg) 0 1) = false →
    s.dev.sec.debug = false →
    s.dev.sec.vfEnable = true →
    fieldLE (mPayload r.msg) 2 1 ≤ (s.dev.freeCores 0).length →
    Completes .tenancyCreate s fun d =>
      d.dones = s.dev.dones ∧ d.sec.tenancies = s.dev.sec.tenancies.set (fieldLE (mPayload r.msg) 0 1 - 1)
        (some { ranges := gs, cores := (s.dev.freeCores 0).take (fieldLE (mPayload r.msg) 2 1) }) ∧
      d.wipes = s.dev.wipes ++ [⟨.create (fieldLE (mPayload r.msg) 0 1), stackParts gs⟩] ∧
      d.tenancyReady (fieldLE (mPayload r.msg) 0 1) = false) ∧
  (∀ (s : State) (r : Req) (n : Nat) (g : Tenancy),
    s.dev.awaits 0x0401 r →
    fieldLE (mPayload r.msg) 0 1 = n →
    1 ≤ n →
    n ≤ 4 →
    zeroBytes (mPayload r.msg) 1 3 = true →
    s.dev.sec.tenancies.getD (n - 1) none = some g →
    stackParts g.ranges ≠ [] →
    s.dev.plans = [] →
    s.dev.sec.releasing = [] →
    s.dev.wipes = [] →
    s.dev.reqs = [r] →
    r.chan = 0 →
    Completes .tenancyDestroy s fun d =>
      d.dones = s.dev.dones.filter (fun x => x.chan != n) ∧ d.tenancyExists n = true ∧ d.sec.slots.getD n .empty = .empty ∧
      (d.chan n).session = none ∧ d.sec.releasing = [n] ∧ d.wipes = [⟨.release n, stackParts g.ranges⟩]) ∧
  (∀ (s : State) (r : Req),
    s.dev.awaits 0x0402 r →
    fieldLE (mPayload r.msg) 0 1 ≤ 7 →
    fieldLE (mPayload r.msg) 2 1 ≤ 31 →
    zeroBytes (mPayload r.msg) 3 5 = true →
    fieldLE (mPayload r.msg) 1 1 = 1 →
    rangeOk ⟨fieldLE (mPayload r.msg) 8 8, fieldLE (mPayload r.msg) 16 8⟩ = true →
    s.dev.sec.lcState ≠ 3 →
    s.dev.shared.getD (fieldLE (mPayload r.msg) 0 1) none = none →
    s.dev.sec.tenancies.any (fun o => match o with | some t => t.ranges.any (fun q => meets (fieldLE (mPayload r.msg) 8 8) (fieldLE (mPayload r.msg) 16 8) q.base q.len) | none => false) = false →
    s.dev.meetsShared (fieldLE (mPayload r.msg) 8 8) (fieldLE (mPayload r.msg) 16 8) = false →
    Completes .sharedRegion s fun d =>
      d.dones = s.dev.dones ++ executed r sOk [] ∧ d.shared = s.dev.shared.set (fieldLE (mPayload r.msg) 0 1)
        (some ⟨fieldLE (mPayload r.msg) 8 8, fieldLE (mPayload r.msg) 16 8, BitVec.ofNat 5 (fieldLE (mPayload r.msg) 2 1)⟩)) ∧
  (∀ (s : State) (r : Req),
    s.dev.awaits 0x0402 r →
    fieldLE (mPayload r.msg) 0 1 ≤ 7 →
    fieldLE (mPayload r.msg) 2 1 ≤ 31 →
    zeroBytes (mPayload r.msg) 3 5 = true →
    fieldLE (mPayload r.msg) 1 1 = 2 →
    s.dev.sec.lcState ≠ 3 →
    s.dev.shared.getD (fieldLE (mPayload r.msg) 0 1) none ≠ none →
    s.dev.regionRead (fieldLE (mPayload r.msg) 0 1) = false →
    Completes .sharedRegion s fun d =>
      d.dones = s.dev.dones ++ executed r sOk [] ∧ d.shared = s.dev.shared.set (fieldLE (mPayload r.msg) 0 1) none) ∧
  (∀ (s : State) (r : Req),
    s.dev.awaits 0x0403 r →
    fieldLE (mPayload r.msg) 0 1 ≤ 1 →
    fieldLE (mPayload r.msg) 1 1 ≤ 1 →
    zeroBytes (mPayload r.msg) 2 2 = true →
    Completes .wipePolicy s fun d =>
      d.dones = s.dev.dones ++ executed r sOk [] ∧ d.sec.wipeVerify = (fieldLE (mPayload r.msg) 0 1 == 1) ∧ d.sec.wipeOnRetire = (fieldLE (mPayload r.msg) 1 1 == 1))

/-- Life cycle, firmware, keys and the debug lock (R102, R103, R401, R405, R406). -/
def Obligations.LifeCycleKeysAndDebug : Prop :=
  (∀ (s : State) (r : Req),
    s.dev.awaits 0x0410 r →
    zeroBytes (mPayload r.msg) 1 3 = true →
    fieldLE (mPayload r.msg) 0 1 = s.dev.sec.lcState.toNat + 1 →
    fieldLE (mPayload r.msg) 0 1 ≤ 3 →
    (∀ p ∈ s.dev.plans, p.holdsLifecycle = false) →
    s.dev.sec.tenancies = List.replicate 4 none →
    Completes .lifecycleChange s fun d =>
      d.dones = s.dev.dones ∧ d.sec = s.dev.sec ∧
      d.wipes = s.dev.wipes ++ [⟨.lifecycle (BitVec.ofNat 2 (fieldLE (mPayload r.msg) 0 1)), stackParts [⟨0, stackEnd⟩]⟩]) ∧
  (∀ (s : State) (r : Req),
    s.dev.awaits 0x0410 r →
    zeroBytes (mPayload r.msg) 1 3 = true →
    fieldLE (mPayload r.msg) 0 1 ≠ s.dev.sec.lcState.toNat + 1 →
    Completes .lifecycleChange s fun d =>
      d.dones = s.dev.dones ++ rejected r sLifecycleDenied ∧ d.sec = s.dev.sec ∧ d.mem = s.dev.mem) ∧
  (∀ (s : State) (r : Req) (img : List Byte),
    s.dev.awaits 0x0411 r →
    fieldLE (mPayload r.msg) 8 4 ≠ 0 →
    fieldLE (mPayload r.msg) 8 4 ≤ 0x1000000 →
    fieldLE (mPayload r.msg) 0 8 + fieldLE (mPayload r.msg) 8 4 ≤ stackEnd →
    zeroBytes (mPayload r.msg) 12 4 = true →
    s.dev.mem.poisoned? (fieldLE (mPayload r.msg) 0 8) (fieldLE (mPayload r.msg) 8 4) = none →
    img = memBytes s.dev.mem.bytes (fieldLE (mPayload r.msg) 0 8) (fieldLE (mPayload r.msg) 8 4) →
    Completes .fwUpdate s fun d =>
      if s.dev.sec.verifies img = true ∧
          s.dev.sec.minEpoch.toNat ≤ ((BitVec.ofNat 24 (Config.fwField img 1)).extractLsb' 16 8).toNat then
        d.dones = s.dev.dones ++ executed r sOk [] ∧ d.sec.bootBank = !s.dev.sec.activeBank ∧
        (if s.dev.sec.activeBank then d.sec.bank0.version = BitVec.ofNat 24 (Config.fwField img 1) ∧ d.sec.bank1 = s.dev.sec.bank1
         else d.sec.bank1.version = BitVec.ofNat 24 (Config.fwField img 1) ∧ d.sec.bank0 = s.dev.sec.bank0)
      else d.sec = s.dev.sec) ∧
  (∀ (s : State) (r : Req) (k key : List Byte),
    s.dev.awaits 0x0412 r →
    keySlot (fieldLE (mPayload r.msg) 0 1) = true →
    zeroBytes (mPayload r.msg) 1 7 = true →
    s.dev.mayProvision (fieldLE (mPayload r.msg) 0 1) = true →
    r.key = some k →
    key = (((mPayload r.msg).drop 8).take 32).zipWith (· ^^^ ·) (hkdfExpand k (ascii "KEYMASK" ++ [BitVec.ofNat 8 (fieldLE (mPayload r.msg) 0 1)])) →
    Completes .keyProvision s fun d =>
      if key.all (· == 0) then d.dones = s.dev.dones ++ rejected r sBadField ∧ d.sec = s.dev.sec
      else d.dones = s.dev.dones ++ executed r sOk [] ∧
        d.sec.slots = s.dev.sec.slots.set (fieldLE (mPayload r.msg) 0 1) (.key key) ∧
        d.sec = s.dev.sec.putKey (fieldLE (mPayload r.msg) 0 1) key) ∧
  (∀ (s : State) (path : RegPath),
    s.dev.pathOpen path = true →
    s.dev.pwr.ctlUp = true →
    Completes (.newChal path) s fun d =>
      (d.sec.chal.map (·.length)) = some 16 ∧ d.sec.debug = s.dev.sec.debug) ∧
  (∀ (s : State) (path : RegPath),
    s.dev.pathOpen path = true →
    s.dev.pwr.ctlUp = true →
    Completes (.submit path) s fun d =>
      d.sec.chal = none ∧ d.sec.debug = s.dev.submitOk ∧
      (s.dev.submitOk = false → d.sec.failCount.toNat = (if s.dev.sec.failCount.toNat < 8 then s.dev.sec.failCount.toNat + 1 else s.dev.sec.failCount.toNat))) ∧
  (∀ (s : State) (path : RegPath),
    s.dev.pathOpen path = true →
    s.dev.pwr.ctlUp = true →
    Completes (.lock path) s fun d =>
      d.sec = { s.dev.sec with debug := false }) ∧
  (∀ (x : Sec) (k i : Nat) (key : List Byte), areaIdx k = some i → i < x.keyArea.length → key.length = 32 →
      ((x.putKey k key).keyArea.getD i .erased).read k = .key key ∧ ((x.putKey k key).keyArea.getD i .erased).fails = false)

/-- The register instructions of a control core and their frame (R256 to R258, R269). -/
def Obligations.RegisterInstructionsWriteRd : Prop :=
  (∀ (s : State) (c : Fin 72) (t : Fin 8) (x : Ctx) (th : Thread) (base : Nat) (w : BitVec 32),
    s.dev.atIns c.val t.val 0x01 x th base w →
    Completes (.alu c t .none) s fun d =>
      s.dev.retires d x t.val th base w (insRd w) (([th.reg (insRs1 w) + th.reg (insRs2 w), th.reg (insRs1 w) - th.reg (insRs2 w), th.reg (insRs1 w) &&& th.reg (insRs2 w), th.reg (insRs1 w) ||| th.reg (insRs2 w), th.reg (insRs1 w) ^^^ th.reg (insRs2 w),
          th.reg (insRs1 w) <<< ((th.reg (insRs2 w)).toNat % 64), th.reg (insRs1 w) >>> ((th.reg (insRs2 w)).toNat % 64), (th.reg (insRs1 w)).sshiftRight ((th.reg (insRs2 w)).toNat % 64),
          th.reg (insRs1 w) * th.reg (insRs2 w), (((th.reg (insRs1 w)).setWidth 128 * (th.reg (insRs2 w)).setWidth 128).extractLsb' 64 64),
          (if (th.reg (insRs1 w)).slt (th.reg (insRs2 w)) then 1 else 0), (if (th.reg (insRs1 w)).ult (th.reg (insRs2 w)) then 1 else 0),
          (if (th.reg (insRs1 w)).slt (th.reg (insRs2 w)) then th.reg (insRs1 w) else th.reg (insRs2 w)), (if (th.reg (insRs2 w)).slt (th.reg (insRs1 w)) then th.reg (insRs1 w) else th.reg (insRs2 w)),
          (if th.reg (insRs3 w) ≠ 0 then th.reg (insRs1 w) else th.reg (insRs2 w)),
          BitVec.ofNat 64 (fp32.write (fp64.decode (th.reg (insRs1 w)).toNat)).1, BitVec.ofNat 64 (fp64.write (fp32.decode ((th.reg (insRs1 w)).toNat % 2 ^ 32))).1,
          BitVec.ofNat 64 (f64AddF (th.reg (insRs1 w)).toNat (th.reg (insRs2 w)).toNat).1, BitVec.ofNat 64 (f64MulF (th.reg (insRs1 w)).toNat (th.reg (insRs2 w)).toNat).1,
          BitVec.ofNat 64 (fp64.round (Dy.ofInt (th.reg (insRs1 w)).toInt)).1] : List (BitVec 64)).getD (insFn w) 0) (th.pc + 4) ([])) ∧
  (∀ (s : State) (c : Fin 72) (t : Fin 8) (x : Ctx) (th : Thread) (base : Nat) (w : BitVec 32),
    s.dev.atIns c.val t.val 0x02 x th base w →
    Completes (.addi c t .none) s fun d =>
      s.dev.retires d x t.val th base w (insRd w) (th.reg (insRs1 w) + insSimm w) (th.pc + 4) ([])) ∧
  (∀ (s : State) (c : Fin 72) (t : Fin 8) (x : Ctx) (th : Thread) (base : Nat) (w : BitVec 32),
    s.dev.atIns c.val t.val 0x03 x th base w →
    Completes (.andi c t .none) s fun d =>
      s.dev.retires d x t.val th base w (insRd w) (th.reg (insRs1 w) &&& insZimm w) (th.pc + 4) ([])) ∧
  (∀ (s : State) (c : Fin 72) (t : Fin 8) (x : Ctx) (th : Thread) (base : Nat) (w : BitVec 32),
    s.dev.atIns c.val t.val 0x04 x th base w →
    Completes (.ori c t .none) s fun d =>
      s.dev.retires d x t.val th base w (insRd w) (th.reg (insRs1 w) ||| insZimm w) (th.pc + 4) ([])) ∧
  (∀ (s : State) (c : Fin 72) (t : Fin 8) (x : Ctx) (th : Thread) (base : Nat) (w : BitVec 32),
    s.dev.atIns c.val t.val 0x05 x th base w →
    Completes (.xori c t .none) s fun d =>
      s.dev.retires d x t.val th base w (insRd w) (th.reg (insRs1 w) ^^^ insZimm w) (th.pc + 4) ([])) ∧
  (∀ (s : State) (c : Fin 72) (t : Fin 8) (x : Ctx) (th : Thread) (base : Nat) (w : BitVec 32),
    s.dev.atIns c.val t.val 0x06 x th base w →
    Completes (.slti c t .none) s fun d =>
      s.dev.retires d x t.val th base w (insRd w) (if (th.reg (insRs1 w)).toInt < (insImm w).toInt then 1 else 0) (th.pc + 4) ([])) ∧
  (∀ (s : State) (c : Fin 72) (t : Fin 8) (x : Ctx) (th : Thread) (base : Nat) (w : BitVec 32),
    s.dev.atIns c.val t.val 0x07 x th base w →
    Completes (.shifti c t .none) s fun d =>
      s.dev.retires d x t.val th base w (insRd w) (([th.reg (insRs1 w) <<< ((insImm w).toNat % 64), th.reg (insRs1 w) >>> ((insImm w).toNat % 64), (th.reg (insRs1 w)).sshiftRight ((insImm w).toNat % 64)] :
          List (BitVec 64)).getD ((insImm w).extractLsb' 6 2).toNat 0) (th.pc + 4) ([])) ∧
  (∀ (s : State) (c : Fin 72) (t : Fin 8) (x : Ctx) (th : Thread) (base : Nat) (w : BitVec 32),
    s.dev.atIns c.val t.val 0x08 x th base w →
    Completes (.insh c t .none) s fun d =>
      s.dev.retires d x t.val th base w (insRd w) (insertHalf (th.reg (insRd w)) (insRs1 w) (insImm w)) (th.pc + 4) ([])) ∧
  (∀ (v : BitVec 64) (h : BitVec 16) (k j : Fin 4),
    (insertHalf v k.val h).extractLsb' (16 * j.val) 16 = if j = k then h else v.extractLsb' (16 * j.val) 16) ∧
  (∀ (s : State) (c : Fin 72) (t : Fin 8) (x : Ctx) (th : Thread) (base : Nat) (w : BitVec 32),
    s.dev.atIns c.val t.val 0x35 x th base w →
    Completes (.getc c t .none) s fun d =>
      s.dev.retires d x t.val th base w (insRd w) (([BitVec.ofNat 64 t.val, BitVec.ofNat 64 x.core, BitVec.ofNat 64 x.chunk.step, BitVec.ofNat 64 x.rc.idx,
          x.p.img.seed, s.dev.keyCoord.setWidth 64, BitVec.ofNat 64 (scratchBase x.site), BitVec.ofNat 64 base] :
          List (BitVec 64)).getD (insImm w).toNat 0) (th.pc + 4) ([]))

/-- Branches, jumps and NOP, with their frame (R256). -/
def Obligations.BranchesMoveThePc : Prop :=
  (∀ (s : State) (c : Fin 72) (t : Fin 8) (x : Ctx) (th : Thread) (base : Nat) (w : BitVec 32),
    s.dev.atIns c.val t.val 0x20 x th base w →
    Completes (.beq c t .none) s fun d =>
      s.dev.retires d x t.val th base w (0) (0) (if th.reg (insRs1 w) = th.reg (insRd w) then th.pc + 4 * insSimm w else th.pc + 4) ([])) ∧
  (∀ (s : State) (c : Fin 72) (t : Fin 8) (x : Ctx) (th : Thread) (base : Nat) (w : BitVec 32),
    s.dev.atIns c.val t.val 0x21 x th base w →
    Completes (.bne c t .none) s fun d =>
      s.dev.retires d x t.val th base w (0) (0) (if th.reg (insRs1 w) ≠ th.reg (insRd w) then th.pc + 4 * insSimm w else th.pc + 4) ([])) ∧
  (∀ (s : State) (c : Fin 72) (t : Fin 8) (x : Ctx) (th : Thread) (base : Nat) (w : BitVec 32),
    s.dev.atIns c.val t.val 0x22 x th base w →
    Completes (.blt c t .none) s fun d =>
      s.dev.retires d x t.val th base w (0) (0) (if (th.reg (insRs1 w)).toInt < (th.reg (insRd w)).toInt then th.pc + 4 * insSimm w else th.pc + 4) ([])) ∧
  (∀ (s : State) (c : Fin 72) (t : Fin 8) (x : Ctx) (th : Thread) (base : Nat) (w : BitVec 32),
    s.dev.atIns c.val t.val 0x23 x th base w →
    Completes (.bge c t .none) s fun d =>
      s.dev.retires d x t.val th base w (0) (0) (if (th.reg (insRd w)).toInt ≤ (th.reg (insRs1 w)).toInt then th.pc + 4 * insSimm w else th.pc + 4) ([])) ∧
  (∀ (s : State) (c : Fin 72) (t : Fin 8) (x : Ctx) (th : Thread) (base : Nat) (w : BitVec 32),
    s.dev.atIns c.val t.val 0x24 x th base w →
    Completes (.bltu c t .none) s fun d =>
      s.dev.retires d x t.val th base w (0) (0) (if (th.reg (insRs1 w)).toNat < (th.reg (insRd w)).toNat then th.pc + 4 * insSimm w else th.pc + 4) ([])) ∧
  (∀ (s : State) (c : Fin 72) (t : Fin 8) (x : Ctx) (th : Thread) (base : Nat) (w : BitVec 32),
    s.dev.atIns c.val t.val 0x25 x th base w →
    Completes (.bgeu c t .none) s fun d =>
      s.dev.retires d x t.val th base w (0) (0) (if (th.reg (insRd w)).toNat ≤ (th.reg (insRs1 w)).toNat then th.pc + 4 * insSimm w else th.pc + 4) ([])) ∧
  (∀ (s : State) (c : Fin 72) (t : Fin 8) (x : Ctx) (th : Thread) (base : Nat) (w : BitVec 32),
    s.dev.atIns c.val t.val 0x28 x th base w →
    Completes (.jal c t .none) s fun d =>
      s.dev.retires d x t.val th base w (31) (th.pc + 4) (th.pc + 4 * (w.extractLsb' 0 26).signExtend 64) ([])) ∧
  (∀ (s : State) (c : Fin 72) (t : Fin 8) (x : Ctx) (th : Thread) (base : Nat) (w : BitVec 32),
    s.dev.atIns c.val t.val 0x29 x th base w →
    Completes (.jr c t .none) s fun d =>
      s.dev.retires d x t.val th base w (insRd w) (th.pc + 4) (th.reg (insRs1 w) + insSimm w) ([])) ∧
  (∀ (s : State) (c : Fin 72) (t : Fin 8) (x : Ctx) (th : Thread) (base : Nat) (w : BitVec 32),
    s.dev.atIns c.val t.val 0x3B x th base w →
    Completes (.ccrNop c t .none) s fun d =>
      s.dev.retires d x t.val th base w (0) (0) (th.pc + 4) ([]))

/-- Loads: memory, forwarding and the address fault (R260, R262, R275). -/
def Obligations.LoadsReadOwnStoresOrMemory : Prop :=
  (∀ (s : State) (c : Fin 72) (t : Fin 8) (x : Ctx) (th : Thread) (base : Nat) (w : BitVec 32),
    s.dev.atIns c.val t.val 0x10 x th base w →
    s.dev.loads x t.val (th.ea x w).toNat 8 →
    Completes (.ld c t .none) s fun d =>
      (s.dev.readLines x.c (th.ea x w).toNat 8).retires d x t.val th base w (insRd w) ((BitVec.ofNat 64 (leNat (s.dev.view x.c (th.ea x w).toNat 8))).setWidth 64) (th.pc + 4) ([normAddr x.site (th.ea x w)])) ∧
  (∀ (s : State) (c : Fin 72) (t : Fin 8) (x : Ctx) (th : Thread) (base : Nat) (w : BitVec 32),
    s.dev.atIns c.val t.val 0x11 x th base w →
    s.dev.loads x t.val (th.ea x w).toNat 4 →
    Completes (.lw c t .none) s fun d =>
      (s.dev.readLines x.c (th.ea x w).toNat 4).retires d x t.val th base w (insRd w) ((BitVec.ofNat 32 (leNat (s.dev.view x.c (th.ea x w).toNat 4))).signExtend 64) (th.pc + 4) ([normAddr x.site (th.ea x w)])) ∧
  (∀ (s : State) (c : Fin 72) (t : Fin 8) (x : Ctx) (th : Thread) (base : Nat) (w : BitVec 32),
    s.dev.atIns c.val t.val 0x12 x th base w →
    s.dev.loads x t.val (th.ea x w).toNat 4 →
    Completes (.lwu c t .none) s fun d =>
      (s.dev.readLines x.c (th.ea x w).toNat 4).retires d x t.val th base w (insRd w) ((BitVec.ofNat 32 (leNat (s.dev.view x.c (th.ea x w).toNat 4))).setWidth 64) (th.pc + 4) ([normAddr x.site (th.ea x w)])) ∧
  (∀ (s : State) (c : Fin 72) (t : Fin 8) (x : Ctx) (th : Thread) (base : Nat) (w : BitVec 32),
    s.dev.atIns c.val t.val 0x13 x th base w →
    s.dev.loads x t.val (th.ea x w).toNat 2 →
    Completes (.lh c t .none) s fun d =>
      (s.dev.readLines x.c (th.ea x w).toNat 2).retires d x t.val th base w (insRd w) ((BitVec.ofNat 16 (leNat (s.dev.view x.c (th.ea x w).toNat 2))).signExtend 64) (th.pc + 4) ([normAddr x.site (th.ea x w)])) ∧
  (∀ (s : State) (c : Fin 72) (t : Fin 8) (x : Ctx) (th : Thread) (base : Nat) (w : BitVec 32),
    s.dev.atIns c.val t.val 0x14 x th base w →
    s.dev.loads x t.val (th.ea x w).toNat 2 →
    Completes (.lhu c t .none) s fun d =>
      (s.dev.readLines x.c (th.ea x w).toNat 2).retires d x t.val th base w (insRd w) ((BitVec.ofNat 16 (leNat (s.dev.view x.c (th.ea x w).toNat 2))).setWidth 64) (th.pc + 4) ([normAddr x.site (th.ea x w)])) ∧
  (∀ (s : State) (c : Fin 72) (t : Fin 8) (x : Ctx) (th : Thread) (base : Nat) (w : BitVec 32),
    s.dev.atIns c.val t.val 0x15 x th base w →
    s.dev.loads x t.val (th.ea x w).toNat 1 →
    Completes (.lb c t .none) s fun d =>
      (s.dev.readLines x.c (th.ea x w).toNat 1).retires d x t.val th base w (insRd w) ((BitVec.ofNat 8 (leNat (s.dev.view x.c (th.ea x w).toNat 1))).signExtend 64) (th.pc + 4) ([normAddr x.site (th.ea x w)])) ∧
  (∀ (s : State) (c : Fin 72) (t : Fin 8) (x : Ctx) (th : Thread) (base : Nat) (w : BitVec 32),
    s.dev.atIns c.val t.val 0x16 x th base w →
    s.dev.loads x t.val (th.ea x w).toNat 1 →
    Completes (.lbu c t .none) s fun d =>
      (s.dev.readLines x.c (th.ea x w).toNat 1).retires d x t.val th base w (insRd w) ((BitVec.ofNat 8 (leNat (s.dev.view x.c (th.ea x w).toNat 1))).setWidth 64) (th.pc + 4) ([normAddr x.site (th.ea x w)])) ∧
  (∀ (s : State) (c : Fin 72) (t : Fin 8) (x : Ctx) (th : Thread) (base : Nat) (w : BitVec 32) (e : StoreEnt),
    s.dev.atIns c.val t.val 0x10 x th base w →
    (th.ea x w).toNat < 2 ^ 48 →
    (th.ea x w).toNat % 8 = 0 →
    s.dev.canRead x.p x.site (th.ea x w).toNat 8 = true →
    youngestStore (s.dev.site x.site).ccr.stores t.val (th.ea x w).toNat 8 = some e →
    e.addr = (th.ea x w).toNat →
    e.data.length = 8 →
    Completes (.ld c t .none) s fun d =>
      s.dev.retires d x t.val th base w (insRd w) (BitVec.ofNat 64 (leNat e.data)) (th.pc + 4) ([normAddr x.site (th.ea x w)])) ∧
  (∀ (s : State) (c : Fin 72) (t : Fin 8) (x : Ctx) (th : Thread) (base : Nat) (w : BitVec 32),
    s.dev.atIns c.val t.val 0x10 x th base w →
    (th.ea x w).toNat % 8 ≠ 0 →
    Completes (.ld c t .none) s fun d =>
      (d.threadAt x.site t.val).state = .stopped ∧ (d.threadAt x.site t.val).regs = th.regs ∧ (d.site x.site).ccr.err.val.getLsbD 1 = true ∧ d.mem = s.dev.mem)

/-- Stores and the store buffer (R260, R261). -/
def Obligations.StoresGoThroughTheBuffer : Prop :=
  (∀ (s : State) (c : Fin 72) (t : Fin 8) (x : Ctx) (th : Thread) (base : Nat) (w : BitVec 32),
    s.dev.atIns c.val t.val 0x18 x th base w →
    (th.ea x w).toNat < 2 ^ 48 →
    (th.ea x w).toNat % 8 = 0 →
    s.dev.canWrite x.p x.core x.site (th.ea x w).toNat 8 = true →
    pendOk (cellSetAll (drained (s.dev.cq x.c).pend (s.dev.site x.site).ccr.stores) (th.ea x w).toNat (bytesLE 8 (th.reg (insRd w)).toNat)) = true →
    (s.dev.site x.site).ccr.stores.length < 8 →
    Completes (.sd c t .none) s fun d =>
      (s.dev.modCcr x.site (fun cc => { cc with stores :=
        cc.stores ++ [⟨(th.ea x w).toNat, bytesLE 8 (th.reg (insRd w)).toNat, t.val, th.pc.toNat⟩] })).retires d x t.val th base w (0) (0) (th.pc + 4) ([normAddr x.site (th.ea x w)])) ∧
  (∀ (s : State) (c : Fin 72) (t : Fin 8) (x : Ctx) (th : Thread) (base : Nat) (w : BitVec 32),
    s.dev.atIns c.val t.val 0x19 x th base w →
    (th.ea x w).toNat < 2 ^ 48 →
    (th.ea x w).toNat % 4 = 0 →
    s.dev.canWrite x.p x.core x.site (th.ea x w).toNat 4 = true →
    pendOk (cellSetAll (drained (s.dev.cq x.c).pend (s.dev.site x.site).ccr.stores) (th.ea x w).toNat (bytesLE 4 (th.reg (insRd w)).toNat)) = true →
    (s.dev.site x.site).ccr.stores.length < 8 →
    Completes (.sw c t .none) s fun d =>
      (s.dev.modCcr x.site (fun cc => { cc with stores :=
        cc.stores ++ [⟨(th.ea x w).toNat, bytesLE 4 (th.reg (insRd w)).toNat, t.val, th.pc.toNat⟩] })).retires d x t.val th base w (0) (0) (th.pc + 4) ([normAddr x.site (th.ea x w)])) ∧
  (∀ (s : State) (c : Fin 72) (t : Fin 8) (x : Ctx) (th : Thread) (base : Nat) (w : BitVec 32),
    s.dev.atIns c.val t.val 0x1A x th base w →
    (th.ea x w).toNat < 2 ^ 48 →
    (th.ea x w).toNat % 2 = 0 →
    s.dev.canWrite x.p x.core x.site (th.ea x w).toNat 2 = true →
    pendOk (cellSetAll (drained (s.dev.cq x.c).pend (s.dev.site x.site).ccr.stores) (th.ea x w).toNat (bytesLE 2 (th.reg (insRd w)).toNat)) = true →
    (s.dev.site x.site).ccr.stores.length < 8 →
    Completes (.sh c t .none) s fun d =>
      (s.dev.modCcr x.site (fun cc => { cc with stores :=
        cc.stores ++ [⟨(th.ea x w).toNat, bytesLE 2 (th.reg (insRd w)).toNat, t.val, th.pc.toNat⟩] })).retires d x t.val th base w (0) (0) (th.pc + 4) ([normAddr x.site (th.ea x w)])) ∧
  (∀ (s : State) (c : Fin 72) (t : Fin 8) (x : Ctx) (th : Thread) (base : Nat) (w : BitVec 32),
    s.dev.atIns c.val t.val 0x1B x th base w →
    (th.ea x w).toNat < 2 ^ 48 →
    (th.ea x w).toNat % 1 = 0 →
    s.dev.canWrite x.p x.core x.site (th.ea x w).toNat 1 = true →
    pendOk (cellSetAll (drained (s.dev.cq x.c).pend (s.dev.site x.site).ccr.stores) (th.ea x w).toNat (bytesLE 1 (th.reg (insRd w)).toNat)) = true →
    (s.dev.site x.site).ccr.stores.length < 8 →
    Completes (.sb c t .none) s fun d =>
      (s.dev.modCcr x.site (fun cc => { cc with stores :=
        cc.stores ++ [⟨(th.ea x w).toNat, bytesLE 1 (th.reg (insRd w)).toNat, t.val, th.pc.toNat⟩] })).retires d x t.val th base w (0) (0) (th.pc + 4) ([normAddr x.site (th.ea x w)])) ∧
  (∀ (s : State) (c : Fin 72) (t : Fin 8) (x : Ctx) (th : Thread) (base : Nat) (w : BitVec 32),
    s.dev.atIns c.val t.val 0x18 x th base w →
    (th.ea x w).toNat < 2 ^ 48 →
    (th.ea x w).toNat % 8 = 0 →
    s.dev.canWrite x.p x.core x.site (th.ea x w).toNat 8 = true →
    pendOk (cellSetAll (drained (s.dev.cq x.c).pend (s.dev.site x.site).ccr.stores) (th.ea x w).toNat (bytesLE 8 (th.reg (insRd w)).toNat)) = true →
    8 ≤ (s.dev.site x.site).ccr.stores.length →
    Completes (.sd c t .none) s fun d =>
      d = s.dev) ∧
  (∀ (s : State) (c : Fin 72) (t : Fin 8) (x : Ctx) (th : Thread) (base : Nat) (w : BitVec 32),
    s.dev.atIns c.val t.val 0x18 x th base w →
    (th.ea x w).toNat < 2 ^ 48 →
    (th.ea x w).toNat % 8 = 0 →
    s.dev.canWrite x.p x.core x.site (th.ea x w).toNat 8 = false →
    s.dev.canRead x.p x.site (th.ea x w).toNat 8 = true →
    inside (th.ea x w).toNat 8 (scratchBase x.site) 0x1000000 = false →
    Completes (.sd c t .none) s fun d =>
      (d.threadAt x.site t.val).state = .stopped ∧ (d.site x.site).ccr.err.val.getLsbD 2 = true ∧ d.mem = s.dev.mem) ∧
  (∀ (s : State) (c : Fin 72) (x : Ctx) (e : StoreEnt) (rest : List StoreEnt),
    s.dev.ctx? c.val = some x →
    (s.dev.site x.site).ccr.stores = e :: rest →
    s.dev.wipeHolds e.addr e.data.length = false →
    s.dev.waysFree c.val e.addr e.data.length = true →
    writePoison s.dev.mem (s.dev.cq c.val).pend e.addr e.data.length = none →
    pendOk (cellSetAll (s.dev.cq c.val).pend e.addr e.data) = true →
    Completes (.storeBufferDrain c) s fun d =>
      d = ((s.dev.modCcr x.site (fun cc => { cc with stores := rest })).writeLines c.val e.addr e.data.length).modCq c.val (fun q => { q with
        pend := cellSetAll (s.dev.cq c.val).pend e.addr e.data })) ∧
  (∀ (s : State) (c : Fin 72) (x : Ctx) (e : StoreEnt) (rest : List StoreEnt),
    s.dev.ctx? c.val = some x →
    (s.dev.site x.site).ccr.stores = e :: rest →
    s.dev.wipeHolds e.addr e.data.length = true →
    Completes (.storeBufferDrain c) s fun d =>
      d = s.dev)

/-- Flags, address streams, draining, the patch window and the deadlock (R256, R261, R263, R264, R266, R268). -/
def Obligations.FlagsStreamsAndSyncs : Prop :=
  (∀ (s : State) (c : Fin 72) (t : Fin 8) (x : Ctx) (th : Thread) (base : Nat) (w : BitVec 32),
    s.dev.atIns c.val t.val 0x31 x th base w →
    s.dev.buffered x.site t.val = false →
    Completes (.setf c t .none) s fun d =>
      d.flagSet x.site ((insImm w).toNat % 64) = true ∧ (d.threadAt x.site t.val).pc = th.pc + 4 ∧ (d.threadAt x.site t.val).regs = th.regs ∧
      (d.site x.site).ccr.flagsNow = (s.dev.site x.site).ccr.flagsNow ||| BitVec.twoPow 64 ((insImm w).toNat % 64) ∧ d.mem = s.dev.mem) ∧
  (∀ (s : State) (c : Fin 72) (t : Fin 8) (x : Ctx) (th : Thread) (base : Nat) (w : BitVec 32),
    s.dev.atIns c.val t.val 0x32 x th base w →
    Completes (.clrf c t .none) s fun d =>
      (s.dev.modCcr x.site (fun cc => { cc with flags := cc.flags &&& ~~~(BitVec.twoPow 64 ((insImm w).toNat % 64)) })).retires d x t.val th base w (0) (0) (th.pc + 4) ([])) ∧
  (∀ (s : State) (c : Fin 72) (t : Fin 8) (x : Ctx) (th : Thread) (base : Nat) (w : BitVec 32),
    s.dev.atIns c.val t.val 0x33 x th base w →
    s.dev.flagUp x.site ((insImm w).toNat % 64) = true →
    s.dev.evwaitOn x.c ((insImm w).toNat % 64) = false →
    ((∀ u, u < t.val → s.dev.waitsOn x.c u ((insImm w).toNat % 64) = false)) →
    Completes (.waitf c t .none) s fun d =>
      (s.dev.modCcr x.site (fun cc => { cc with flags := cc.flags &&& ~~~(BitVec.twoPow 64 ((insImm w).toNat % 64)) })).retires d x t.val th base w (0) (0) (th.pc + 4) ([])) ∧
  (∀ (s : State) (c : Fin 72) (t : Fin 8) (x : Ctx) (th : Thread) (base : Nat) (w : BitVec 32),
    s.dev.atIns c.val t.val 0x33 x th base w →
    s.dev.flagUp x.site ((insImm w).toNat % 64) = false →
    Completes (.waitf c t .none) s fun d =>
      d = s.dev) ∧
  (∀ (s : State) (c : Fin 72) (t : Fin 8) (x : Ctx) (th : Thread) (base : Nat) (w : BitVec 32),
    s.dev.atIns c.val t.val 0x34 x th base w →
    s.dev.buffered x.site t.val = false →
    th.reg (insRs1 w) ≠ BitVec.ofNat 64 x.core →
    (th.reg (insRs1 w)).toNat < x.p.img.nCores →
    x.core < 72 →
    Completes (.sendf c t .none) s fun d =>
      (s.dev.modCq x.c (fun q => { q with heldFlags := q.heldFlags ++
        [⟨x.p.devCore (th.reg (insRs1 w)).toNat, ((insImm w).toNat % 64), q.nextTag, (th.reg (insRs1 w)).toNat, siteUnit x.site, false⟩] })).retires d x t.val th base w (0) (0) (th.pc + 4) ([th.reg (insRs1 w)])) ∧
  (∀ (s : State) (c : Fin 72) (t : Fin 8) (x : Ctx) (th : Thread) (base : Nat) (w : BitVec 32) (q : Desc),
    s.dev.atIns c.val t.val 0x30 x th base w →
    (th.ea x w).toNat < 2 ^ 48 →
    (th.ea x w).toNat % 8 = 0 →
    s.dev.canRead x.p x.site (th.ea x w).toNat 128 = true →
    youngestStore (s.dev.site x.site).ccr.stores t.val (th.ea x w).toNat 128 = none →
    ((s.dev.site x.site).ccr.streams.getD t.val {}).held < 4 →
    s.dev.wipeHolds (th.ea x w).toNat 128 = false →
    readPoison s.dev.mem (s.dev.cq x.c).pend (th.ea x w).toNat 128 = none →
    parseDesc (s.dev.view x.c (th.ea x w).toNat 128) = some q →
    Completes (.pusha c t .none) s fun d =>
      (d.threadAt x.site t.val).pc = th.pc + 4 ∧ (d.threadAt x.site t.val).regs = th.regs ∧ d.mem = s.dev.mem ∧
      (d.site x.site).ccr.streams = (s.dev.site x.site).ccr.streams.set t.val
        { (s.dev.site x.site).ccr.streams.getD t.val {} with
          queue := dropEmpty ((s.dev.site x.site).ccr.streams.getD t.val {}).queue ++ [q] }) ∧
  (∀ (s : State) (c : Fin 72) (t : Fin 8) (x : Ctx) (th : Thread) (base : Nat) (w : BitVec 32),
    s.dev.atIns c.val t.val 0x38 x th base w →
    s.dev.buffered x.site t.val = false →
    Completes (.sync c t .none) s fun d =>
      s.dev.retires d x t.val th base w (0) (0) (th.pc + 4) ([])) ∧
  (∀ (s : State) (c : Fin 72) (t : Fin 8) (x : Ctx) (th : Thread) (base : Nat) (w : BitVec 32),
    s.dev.atIns c.val t.val 0x38 x th base w →
    s.dev.buffered x.site t.val = true →
    Completes (.sync c t .none) s fun d =>
      d = s.dev) ∧
  (∀ (s : State) (c : Fin 72) (t : Fin 8) (x : Ctx) (th : Thread) (base : Nat) (w : BitVec 32),
    s.dev.atIns c.val t.val 0x39 x th base w →
    s.dev.buffered x.site t.val = false →
    Completes (.psync c t .none) s fun d =>
      (d.threadAt x.site t.val).view = s.dev.view x.c (base + 0xF000) 4096 ∧ (d.threadAt x.site t.val).pc = th.pc + 4 ∧
      (d.threadAt x.site t.val).regs = th.regs ∧ d.mem = s.dev.mem) ∧
  (∀ (s : State) (c : Fin 72) (t : Fin 8) (x : Ctx) (th : Thread) (base : Nat) (w : BitVec 32),
    s.dev.atIns c.val t.val 0x3A x th base w →
    s.dev.buffered x.site t.val = false →
    Completes (.halt c t .none) s fun d =>
      (d.threadAt x.site t.val).state = .idle ∧ (d.threadAt x.site t.val).started = true ∧ (d.threadAt x.site t.val).regs = th.regs ∧
      d.mem = s.dev.mem) ∧
  (∀ (s : State) (c : Fin 72) (x : Ctx),
    s.dev.ctx? c.val = some x →
    s.dev.deadlocked c.val = true →
    64 ≤ x.rc.deadlock →
    Completes (.ccrDeadlock c) s fun d =>
      (d.site x.site).ccr.err.val.getLsbD 4 = true ∧ (d.site x.site).ccr.threads = (s.dev.site x.site).ccr.threads ∧
      d.mem = s.dev.mem)

/-- Slot writes, publication and fetch (R126 to R128, R137, R138). -/
def Obligations.CommandsArePublishedAndFetched : Prop :=
  (∀ (s : State) (func : Fin 5) (win : Fin 72) (off : Fin 65536) (data : List Byte) (k : Nat),
    s.dev.queueOf func.val win.val = some k →
    s.dev.owned k = true →
    off.val + data.length ≤ 65536 →
    (∀ i : Fin 1024, (s.dev.cq k).regs.slotBusy i.val = false) →
    Completes (.commandSlotWrite func win off data) s fun d =>
      d = s.dev.modCq k (fun q => { q with slots := if data = [] then q.slots else memPutAll q.slots off.val data })) ∧
  (∀ (s : State) (func : Fin 5) (win : Fin 72) (off : Fin 65536) (data : List Byte) (k : Nat),
    s.dev.queueOf func.val win.val = some k →
    s.dev.owned k = false →
    Completes (.commandSlotWrite func win off data) s fun d =>
      d = s.dev) ∧
  (∀ (s : State) (func : Fin 5) (win : Fin 72) (off : Fin 65536) (b : Byte) (k : Nat),
    s.dev.queueOf func.val win.val = some k →
    s.dev.owned k = true →
    (s.dev.cq k).regs.slotBusy (off.val / 64) = true →
    Completes (.commandSlotWrite func win off [b]) s fun d =>
      (d.cq k).regs.err.val.getLsbD 1 = true ∧ memByte (d.cq k).slots off.val = memByte (s.dev.cq k).slots off.val ∧
      d = { s.dev with cqs := d.cqs }) ∧
  (∀ (s : State) (func : Fin 5) (win : Fin 72) (val : BitVec 64) (k : Nat),
    s.dev.queueOf func.val win.val = some k →
    s.dev.owned k = true →
    s.dev.pwr.pcieUp = true →
    (val.setWidth 32 - (s.dev.cq k).regs.tail).toNat ≤ (s.dev.cq k).regs.credit →
    Completes (.cqTailWrite func win val) s fun d =>
      d = s.dev.modCq k (fun q => { q with
        regs := { q.regs with tail := val.setWidth 32 }
        entries := q.entries ++ (List.range (val.setWidth 32 - q.regs.tail).toNat).map (fun i =>
          memBytes q.slots ((q.regs.tail.toNat + i) % 1024 * 64) 64) })) ∧
  (∀ (s : State) (func : Fin 5) (win : Fin 72) (val : BitVec 64) (k : Nat),
    s.dev.queueOf func.val win.val = some k →
    s.dev.owned k = true →
    s.dev.pwr.pcieUp = true →
    (s.dev.cq k).regs.credit < (val.setWidth 32 - (s.dev.cq k).regs.tail).toNat →
    Completes (.cqTailWrite func win val) s fun d =>
      d = s.dev.modCq k (fun q => { q with
        regs := { q.regs with err := q.regs.err.raise 1 }
        tailNow := some (match q.tailNow with
          | some t => (t.1 ++ [val.setWidth 32], t.2)
          | none => ([val.setWidth 32], q.regs.err)) })) ∧
  (∀ (s : State) (c : Fin 72) (p : Plan) (bs : List Byte),
    s.dev.planOf c.val = some p →
    s.dev.siteOf.getD c.val 0xFF < 80 →
    (s.dev.cq c.val).regs.halted = false →
    (s.dev.cq c.val).entries[((s.dev.cq c.val).regs.head - (s.dev.cq c.val).regs.retire).toNat]? = some bs →
    (cmdTag bs).toNat % 2 ^ 20 = (s.dev.cq c.val).regs.head.toNat % 2 ^ 20 →
    Completes (.commandFetch c .good) s fun d =>
      d = s.dev.modCq c.val (fun q => { q with
        fetched := q.fetched ++ [⟨q.regs.head.toNat, bs,
          if !opDefined (cmdOp bs) then some (0x0100, 0) else if !fieldsOk p.img.nCores (s.dev.isRoot bs) bs then some (0x0101, 0)
          else if zeroNop bs then some (0, 2) else none⟩]
        regs := { q.regs with head := q.regs.head + 1, underrunNow := false } })) ∧
  (∀ (s : State) (c : Fin 72) (p : Plan) (bs : List Byte),
    s.dev.planOf c.val = some p →
    s.dev.siteOf.getD c.val 0xFF < 80 →
    (s.dev.cq c.val).regs.halted = false →
    (s.dev.cq c.val).entries[((s.dev.cq c.val).regs.head - (s.dev.cq c.val).regs.retire).toNat]? = some bs →
    Completes (.commandFetch c .bothBad) s fun d =>
      (d.cq c.val).regs.halted = true ∧ (d.cq c.val).fetched = (s.dev.cq c.val).fetched ∧ d.mem = s.dev.mem) ∧
  (∀ (s : State) (c : Fin 72) (p : Plan) (bs : List Byte),
    s.dev.planOf c.val = some p →
    s.dev.siteOf.getD c.val 0xFF < 80 →
    (s.dev.cq c.val).regs.halted = false →
    (s.dev.cq c.val).entries[((s.dev.cq c.val).regs.head - (s.dev.cq c.val).regs.retire).toNat]? = some bs →
    (cmdTag bs).toNat % 2 ^ 20 ≠ (s.dev.cq c.val).regs.head.toNat % 2 ^ 20 →
    Completes (.commandFetch c .good) s fun d =>
      (d.cq c.val).regs.halted = true ∧ (d.cq c.val).fetched = (s.dev.cq c.val).fetched ∧ d.mem = s.dev.mem)

/-- NOP, WAITB, QFENCE, EVSEND, EVWAIT and MARK, with their frame (R134, R139 to R142, R145, R388). -/
def Obligations.SequencerCommandsComplete : Prop :=
  (∀ (s : State) (c : Fin 72) (x : Ctx) (f : Fetched),
    s.dev.issues c.val 0x00 x f →
    Completes (.nop c) s fun d =>
      s.dev.completes d c.val f ∧ d = { s.dev with cqs := d.cqs } ∧ s.dev.sameOthers d c.val) ∧
  (∀ (s : State) (c : Fin 72) (x : Ctx) (f : Fetched),
    s.dev.issues c.val 0x03 x f →
    Completes (.qfence c) s fun d =>
      s.dev.completes d c.val f ∧ d = { s.dev with cqs := d.cqs } ∧ s.dev.sameOthers d c.val) ∧
  (∀ (s : State) (c : Fin 72) (x : Ctx) (f : Fetched),
    s.dev.issues c.val 0x60 x f →
    Completes (.mark c) s fun d =>
      s.dev.completes d c.val f ∧ d = { s.dev with cqs := d.cqs } ∧ s.dev.sameOthers d c.val) ∧
  (∀ (s : State) (c : Fin 72) (x : Ctx) (f : Fetched),
    s.dev.issues c.val 0x02 x f →
    Completes (.waitb c) s fun d =>
      s.dev.completes d c.val f ∧ d = { s.dev with cqs := d.cqs } ∧ s.dev.sameOthers d c.val ∧
      (d.cq c.val).wait = if s.dev.offReached x.p.base (x.p.stepOff x.chunk.step + fld f.bytes 8 8) then (s.dev.cq c.val).wait
        else .beat x.p.base (x.p.stepOff x.chunk.step + fld f.bytes 8 8)) ∧
  (∀ (s : State) (c : Fin 72) (b : BitVec 52) (off : Nat),
    (s.dev.cq c.val).wait = .beat b off →
    s.dev.offReached b off = true →
    Completes (.waitbExpiry c) s fun d =>
      d = s.dev.modCq c.val (fun q => { q with wait := .none })) ∧
  (∀ (s : State) (c : Fin 72) (x : Ctx) (f : Fetched),
    s.dev.issues c.val 0x04 x f →
    x.site < s.dev.sites.length →
    fld f.bytes 8 1 = 0xFF ∨ fld f.bytes 8 1 = x.core →
    Completes (.evsend c) s fun d =>
      s.dev.completes d c.val f ∧ d.flagSet x.site (fld f.bytes 9 1) = decide (fld f.bytes 9 1 < 64) ∧ d.mem = s.dev.mem ∧ s.dev.sameOthers d c.val ∧ (d.cq c.val).heldFlags = (s.dev.cq c.val).heldFlags) ∧
  (∀ (s : State) (c : Fin 72) (x : Ctx) (f : Fetched),
    s.dev.issues c.val 0x04 x f →
    fld f.bytes 8 1 ≠ 0xFF →
    fld f.bytes 8 1 ≠ x.core →
    Completes (.evsend c) s fun d =>
      s.dev.completes d c.val f ∧ d = { s.dev with cqs := d.cqs } ∧ s.dev.sameOthers d c.val ∧ (d.cq c.val).heldFlags = (s.dev.cq c.val).heldFlags ++
        [⟨x.p.devCore (fld f.bytes 8 1), fld f.bytes 9 1, cmdTag f.bytes, fld f.bytes 8 1, siteUnit x.site, true⟩]) ∧
  (∀ (s : State) (c : Fin 72) (x : Ctx) (f : Fetched),
    s.dev.issues c.val 0x05 x f →
    s.dev.flagUp x.site (fld f.bytes 8 1) = true →
    Completes (.evwait c) s fun d =>
      s.dev.completes d c.val f ∧ d.flagUp x.site (fld f.bytes 8 1) = false ∧
      (∀ k : Fin 64, k.val ≠ fld f.bytes 8 1 → d.flagUp x.site k.val = s.dev.flagUp x.site k.val) ∧
      (d.site x.site).ccr.flagsSet = (s.dev.site x.site).ccr.flagsSet ∧ d.mem = s.dev.mem ∧ s.dev.sameOthers d c.val) ∧
  (∀ (s : State) (c : Fin 72) (x : Ctx) (f : Fetched),
    s.dev.issues c.val 0x05 x f →
    s.dev.flagUp x.site (fld f.bytes 8 1) = false →
    Completes (.evwait c) s fun d =>
      d = s.dev)

/-- COPY and ATOM (R134, R136, R285 to R287). -/
def Obligations.MoverCommandsStayPending : Prop :=
  (∀ (s : State) (c : Fin 72) (x : Ctx) (f : Fetched),
    s.dev.issues c.val 0x20 x f →
    x.mayRead s.dev (fld (x.resolve f.bytes) 8 8) (fld (x.resolve f.bytes) 24 4) = true →
    s.dev.canWrite x.p x.core x.site (fld (x.resolve f.bytes) 16 8) (fld (x.resolve f.bytes) 24 4) = true →
    s.dev.mem.poisoned? (fld (x.resolve f.bytes) 8 8) (fld (x.resolve f.bytes) 24 4) = none →
    s.dev.mem.poisoned? (fld (x.resolve f.bytes) 16 8) (fld (x.resolve f.bytes) 24 4) = none →
    s.dev.wipeHolds (fld (x.resolve f.bytes) 8 8) (fld (x.resolve f.bytes) 24 4) = false →
    s.dev.wipeHolds (fld (x.resolve f.bytes) 16 8) (fld (x.resolve f.bytes) 24 4) = false →
    s.dev.waysFree c.val (fld (x.resolve f.bytes) 16 8) (min (fld (x.resolve f.bytes) 24 4) 0x200000) = true →
    (∀ k, k ≤ fld (x.resolve f.bytes) 24 4 → pendOk (cellSetAll (s.dev.cq c.val).pend (fld (x.resolve f.bytes) 16 8) ((s.dev.view c.val (fld (x.resolve f.bytes) 8 8) (fld (x.resolve f.bytes) 24 4)).take k)) = true) →
    Completes (.copy c) s fun d =>
      (d.cq c.val).pend = (if fld (x.resolve f.bytes) 24 4 = 0 then (s.dev.cq c.val).pend
        else cellSetAll (s.dev.cq c.val).pend (fld (x.resolve f.bytes) 16 8) (s.dev.view c.val (fld (x.resolve f.bytes) 8 8) (fld (x.resolve f.bytes) 24 4))) ∧ d.worked c.val f.idx 0 = true ∧ d.mem = s.dev.mem ∧ s.dev.sameOthers d c.val) ∧
  (∀ (s : State) (c : Fin 72) (x : Ctx) (f : Fetched),
    s.dev.issues c.val 0x20 x f →
    x.mayRead s.dev (fld (x.resolve f.bytes) 8 8) (fld (x.resolve f.bytes) 24 4) = true →
    s.dev.canWrite x.p x.core x.site (fld (x.resolve f.bytes) 16 8) (fld (x.resolve f.bytes) 24 4) = false →
    Completes (.copy c) s fun d =>
      (d.cq c.val).pend = (s.dev.cq c.val).pend ∧ d.worked c.val f.idx 0x0101 = true ∧ d.mem = s.dev.mem ∧ s.dev.sameOthers d c.val) ∧
  (∀ (s : State) (c : Fin 72) (x : Ctx) (f : Fetched),
    s.dev.issues c.val 0x21 x f →
    fld (x.resolve f.bytes) 16 1 ≠ 5 →
    atomOk (fld (x.resolve f.bytes) 16 1) (fld (x.resolve f.bytes) 17 1) = true →
    fld (x.resolve f.bytes) 8 8 % atomBytes (fld (x.resolve f.bytes) 17 1) = 0 →
    (x.p.img.layout.atomicAt (fld (x.resolve f.bytes) 8 8) (fld (x.resolve f.bytes) 18 2 * atomBytes (fld (x.resolve f.bytes) 17 1)) (fld (x.resolve f.bytes) 17 1)).isSome = true →
    x.inOwn (fld (x.resolve f.bytes) 24 8) (fld (x.resolve f.bytes) 18 2 * atomBytes (fld (x.resolve f.bytes) 17 1)) = true →
    1 ≤ x.p.maxOf 2 →
    (s.dev.cq c.val).log.length + fld (x.resolve f.bytes) 18 2 ≤ 16384 →
    s.dev.wipeHolds (fld (x.resolve f.bytes) 24 8) (fld (x.resolve f.bytes) 18 2 * atomBytes (fld (x.resolve f.bytes) 17 1)) = false →
    readPoison s.dev.mem (s.dev.cq c.val).pend (fld (x.resolve f.bytes) 24 8) (fld (x.resolve f.bytes) 18 2 * atomBytes (fld (x.resolve f.bytes) 17 1)) = none →
    pendOk (s.dev.cq c.val).pend = true →
    Completes (.atom c) s fun d =>
      (d.cq c.val).log.take (s.dev.cq c.val).log.length = (s.dev.cq c.val).log ∧
      ((d.cq c.val).log.drop (s.dev.cq c.val).log.length).map (fun e => (e.op, e.dtype, e.addr, e.cmd)) =
        (List.range (fld (x.resolve f.bytes) 18 2)).map (fun i => (fld (x.resolve f.bytes) 16 1, fld (x.resolve f.bytes) 17 1, fld (x.resolve f.bytes) 8 8 + i * atomBytes (fld (x.resolve f.bytes) 17 1), f.idx)) ∧ d.worked c.val f.idx 0 = true ∧ d.mem = s.dev.mem ∧ s.dev.sameOthers d c.val)

/-- SEND, RECV, COLL and SOLVE at issue (R293, R294, R329, R336, R337). -/
def Obligations.TransfersAreHeldToTheCommit : Prop :=
  (∀ (s : State) (c : Fin 72) (x : Ctx) (f : Fetched),
    s.dev.issues c.val 0x31 x f →
    s.dev.lnk.sends.length < 256 →
    (s.dev.lnk.sends.filter (fun j => j.handle == x.p.handle)).length < x.p.maxOf 4 →
    s.dev.peerOk (fld (x.resolve f.bytes) 8 2) = true →
    x.p.stackRead (fld (x.resolve f.bytes) 16 8) (fld (x.resolve f.bytes) 24 4) = true →
    Completes (.send c) s fun d =>
      d.lnk = { s.dev.lnk with sends := s.dev.lnk.sends ++ [⟨c.val, x.p.handle, f.idx, cmdTag (x.resolve f.bytes), BitVec.ofNat 15 (fld (x.resolve f.bytes) 8 2),
          BitVec.ofNat 16 (fld (x.resolve f.bytes) 10 2), fld (x.resolve f.bytes) 16 8, fld (x.resolve f.bytes) 24 4, .held⟩] } ∧ d.worked c.val f.idx 0 = true ∧ d.mem = s.dev.mem ∧ s.dev.sameOthers d c.val) ∧
  (∀ (s : State) (c : Fin 72) (x : Ctx) (f : Fetched),
    s.dev.issues c.val 0x31 x f →
    s.dev.lnk.sends.length < 256 →
    (s.dev.lnk.sends.filter (fun j => j.handle == x.p.handle)).length < x.p.maxOf 4 →
    s.dev.peerOk (fld (x.resolve f.bytes) 8 2) = false →
    Completes (.send c) s fun d =>
      d.worked c.val f.idx 0x0101 = true ∧ d.lnk = s.dev.lnk ∧ d.mem = s.dev.mem ∧ s.dev.sameOthers d c.val) ∧
  (∀ (s : State) (c : Fin 72) (x : Ctx) (f : Fetched),
    s.dev.issues c.val 0x32 x f →
    (s.dev.lnk.recvs.filter s.dev.recvOpen).length < 256 →
    ((s.dev.lnk.recvs.filter s.dev.recvOpen).filter (fun j => j.handle == x.p.handle)).length < x.p.maxOf 5 →
    s.dev.peerOk (fld (x.resolve f.bytes) 8 2) = true →
    s.dev.stackWrite x.p (fld (x.resolve f.bytes) 16 8) (fld (x.resolve f.bytes) 24 4) = true →
    (∀ j ∈ s.dev.lnk.recvs, ¬ (j.core = c.val ∧ j.handle = x.p.handle ∧ j.idx = f.idx)) →
    (∀ r ∈ s.dev.lnk.requests, ¬ (r.peer = BitVec.ofNat 15 (fld (x.resolve f.bytes) 8 2) ∧ r.channel = BitVec.ofNat 16 (fld (x.resolve f.bytes) 10 2))) →
    Completes (.recv c) s fun d =>
      d.lnk = { s.dev.lnk with recvs := s.dev.lnk.recvs ++ [
          { core := c.val, handle := x.p.handle, idx := f.idx, tag := cmdTag (x.resolve f.bytes)
            peer := BitVec.ofNat 15 (fld (x.resolve f.bytes) 8 2), channel := BitVec.ofNat 16 (fld (x.resolve f.bytes) 10 2), dst := fld (x.resolve f.bytes) 16 8, bytes := fld (x.resolve f.bytes) 24 4, timeout := fld (x.resolve f.bytes) 28 4 }] } ∧ d.mem = s.dev.mem ∧ s.dev.sameOthers d c.val) ∧
  (∀ (s : State) (c : Fin 72) (x : Ctx) (f : Fetched) (sh : List (Nat × Nat)),
    s.dev.issues c.val 0x30 x f →
    (s.dev.col.jobs.filter (fun j => !j.completed)).length < 32 →
    (s.dev.col.jobs.filter (fun j => j.handle == x.p.handle && !j.completed)).length < x.p.maxOf 3 →
    bitsOf (fld (x.resolve f.bytes) 8 2) 15 12 ≠ 0 →
    s.dev.lnk.shapes s.dev.coord (fld (x.resolve f.bytes) 8 2) = some sh →
    collBad s.dev x.p (x.resolve f.bytes) (collParams (x.resolve f.bytes) (groupSize sh)) (rankOf sh) = none →
    Completes (.coll c) s fun d =>
      d.col = { s.dev.col with jobs := s.dev.col.jobs ++ [
          { core := c.val, handle := x.p.handle, idx := f.idx, tag := cmdTag (x.resolve f.bytes)
            group := fld (x.resolve f.bytes) 8 2, params := collParams (x.resolve f.bytes) (groupSize sh), rank := rankOf sh, src := fld (x.resolve f.bytes) 16 8, dst := fld (x.resolve f.bytes) 24 8, timeout := fld (x.resolve f.bytes) 44 4 }] } ∧ d.worked c.val f.idx 0 = true ∧ d.mem = s.dev.mem ∧ s.dev.sameOthers d c.val) ∧
  (∀ (s : State) (c : Fin 72) (x : Ctx) (f : Fetched) (room : Nat),
    s.dev.issues c.val 0x40 x f →
    (s.dev.slv.filter (·.inService)).length = 4 →
    s.dev.solves.length < 64 →
    (s.dev.solves.filter (fun j => j.handle == x.p.handle)).length < x.p.maxOf 6 →
    solveOk x (x.resolve f.bytes) = true →
    s.dev.resultBytes (fld (x.resolve f.bytes) 8 1) (fld (x.resolve f.bytes) 10 2) (fld (x.resolve f.bytes) 12 2) (fld (x.resolve f.bytes) 16 8) = room →
    room ≤ 16 * 2 ^ 20 →
    fld (x.resolve f.bytes) 24 8 % 4096 = 0 →
    s.dev.stackWrite x.p (fld (x.resolve f.bytes) 24 8) (4096 + room) = true →
    fld f.bytes 16 8 % 64 = 0 →
    s.dev.privateRead x.p (fld (x.resolve f.bytes) 16 8) (fld (x.resolve f.bytes) 12 2 * solveItem (fld (x.resolve f.bytes) 8 1) (fld (x.resolve f.bytes) 10 2)) = true →
    fld (x.resolve f.bytes) 40 8 % 64 = 0 →
    s.dev.privateRead x.p (fld (x.resolve f.bytes) 40 8) 32 = true →
    Completes (.solve c) s fun d =>
      d.solves = s.dev.solves ++ [
          { core := c.val, handle := x.p.handle, idx := f.idx, tag := cmdTag (x.resolve f.bytes), step := x.chunk.step
            kind := fld (x.resolve f.bytes) 8 1, n := fld (x.resolve f.bytes) 10 2, batch := fld (x.resolve f.bytes) 12 2, src := fld (x.resolve f.bytes) 16 8, dst := fld (x.resolve f.bytes) 24 8, deadlineOff := fld (x.resolve f.bytes) 32 8, rangeAddr := fld (x.resolve f.bytes) 40 8, room := room }] ∧ d.worked c.val f.idx 0 = true ∧ d.mem = s.dev.mem ∧ s.dev.sameOthers d c.val)

/-- VENT, completion, breaks and the held grant (R140, R145, R148, R166, R167, R377, R378). -/
def Obligations.VentsBreaksAndCompletions : Prop :=
  (∀ (s : State) (c : Fin 72) (p : Plan) (site i : Nat) (f : Fetched),
    s.dev.ventCmd? c.val = some (p, site, f) →
    (p.ventsOf (p.planCore c.val))[(s.dev.cq c.val).vents]? = some i →
    p.earlyOf (p.vent i).step f = none →
    p.nextNode (p.planCore c.val) = some (.vent i) →
    s.dev.offReached p.base (p.stepOff (p.vent i).step + (p.vent i).ventOff) = true →
    4 ≤ (s.dev.site site).lbk.grant.toNat →
    fld f.bytes 12 4 = (p.vent i).len →
    Completes (.vent c) s fun d =>
      (d.cq c.val).vent = some (i, true) ∧ (d.cq c.val).fetched = (s.dev.cq c.val).fetched.tail ∧
      d.health.tests = s.dev.health.tests ++ [⟨site, fld f.bytes 8 2, some s.dev.bt.beat, none⟩] ∧ d.mem = s.dev.mem ∧ s.dev.sameOthers d c.val) ∧
  (∀ (s : State) (c : Fin 72) (p : Plan) (site i : Nat) (f : Fetched),
    s.dev.ventCmd? c.val = some (p, site, f) →
    (p.ventsOf (p.planCore c.val))[(s.dev.cq c.val).vents]? = some i →
    p.earlyOf (p.vent i).step f = none →
    p.nextNode (p.planCore c.val) = some (.vent i) →
    s.dev.offReached p.base (p.stepOff (p.vent i).step + (p.vent i).ventOff) = true →
    (s.dev.site site).lbk.grant.toNat < 4 →
    Completes (.vent c) s fun d =>
      d = s.dev.modLbk site (fun l => { l with demand := 4, holding := false, hold := 0 })) ∧
  (∀ (s : State) (c : Fin 72) (idx : Nat) (x : Ctx) (g : Flight),
    (s.dev.cq c.val).vent = none →
    s.dev.ctx? c.val = some x →
    s.dev.endedFlight? c.val idx = some g →
    Completes (.commandComplete c idx) s fun d =>
      (d.cq c.val).regs.exec = (s.dev.cq c.val).regs.exec + 1 ∧ (d.cq c.val).flights = (s.dev.cq c.val).flights.filter (fun k => k.idx != idx) ∧
      (d.cq c.val).lastTag = cmdTag g.bytes ∧ d.mem = s.dev.mem ∧ s.dev.sameOthers d c.val) ∧
  (∀ (s : State) (c : Fin 72) (idx : Nat) (x : Ctx) (f : Fetched) (st : BitVec 16) (cf : BitVec 8),
    (s.dev.cq c.val).vent = none →
    s.dev.ctx? c.val = some x →
    s.dev.endedFlight? c.val idx = none →
    s.dev.nextCmd? x = some f →
    f.idx = idx →
    s.dev.unitFree c.val f.bytes = true →
    f.early = some (st, cf) →
    Completes (.commandComplete c idx) s fun d =>
      (d.cq c.val).regs.exec = (s.dev.cq c.val).regs.exec + 1 ∧ (d.cq c.val).fetched = (s.dev.cq c.val).fetched.tail ∧
      (d.cq c.val).cpls = (s.dev.cq c.val).cpls ++ (if bitOf (cmdFlags f.bytes) 7 ∨ st ≠ 0 ∨ cf.getLsbD 1 then [⟨s.dev.now, cmdTag f.bytes, st, cf⟩] else []) ∧
      d.mem = s.dev.mem) ∧
  (∀ (s : State) (c : Fin 72) (idx : Nat) (x : Ctx) (f : Fetched),
    (s.dev.cq c.val).vent = none →
    s.dev.ctx? c.val = some x →
    s.dev.endedFlight? c.val idx = none →
    s.dev.nextCmd? x = some f →
    f.idx = idx →
    f.early = none →
    x.p.skips x.chunk.step f.bytes = true →
    Completes (.commandComplete c idx) s fun d =>
      (d.cq c.val).regs.exec = (s.dev.cq c.val).regs.exec + 1 ∧ (d.cq c.val).fetched = (s.dev.cq c.val).fetched.tail ∧
      (d.cq c.val).flights = (s.dev.cq c.val).flights ∧
      (d.cq c.val).cpls = (s.dev.cq c.val).cpls ++ (if bitOf (cmdFlags f.bytes) 7 then [⟨s.dev.now, cmdTag f.bytes, 0, 1⟩] else []) ∧
      d.mem = s.dev.mem) ∧
  (∀ (s : State) (c : Fin 72) (p : Plan),
    s.dev.planOf c.val = some p →
    (s.dev.cq c.val).regs.frozen = false →
    (s.dev.cq c.val).regs.halted = false →
    (s.dev.cq c.val).regs.brkCountEn = true →
    (s.dev.cq c.val).brkDue = true →
    p.state = .running →
    Completes (.breakFire c) s fun d =>
      (d.cq c.val).regs.frozen = true ∧ (d.cq c.val).regs.brkHit = true ∧ (d.cq c.val).regs.brkCountEn = false ∧
      ((d.plan? p.handle).map (fun q => (q.state, q.holdCause))) = some (.debugHeld, 0x0302) ∧ d.mem = s.dev.mem) ∧
  (∀ (s : State) (site : Fin 80),
    (s.dev.site site.val).lbk.holding = true →
    (s.dev.site site.val).lbk.hold = 0 →
    Completes (.grantHoldExpiry site) s fun d =>
      d = s.dev.modLbk site.val (fun l => { l with holding := false }))

/-- The allowance of the ramp governor on one beat, over all sites (R167, R168). -/
def Obligations.RampGovernorStaysInItsAllowance : Prop :=
  (∀ (s : State),
    (∀ i : Fin 80, (s.dev.site i.val).lbk.request ≤ 4) →
    Completes .rampGovernorBeat s fun d =>
      (∀ i : Fin 80,
        min (s.dev.site i.val).lbk.grant.toNat (s.dev.site i.val).lbk.request ≤ (d.site i.val).lbk.grant.toNat ∧
        (d.site i.val).lbk.grant.toNat ≤ max (s.dev.site i.val).lbk.grant.toNat (s.dev.site i.val).lbk.request) ∧
      ((List.range 80).map (fun i => (d.site i).lbk.grant.toNat - (s.dev.site i).lbk.grant.toNat)).sum ≤ s.dev.rampStep.toNat ∧
      ((List.range 80).map (fun i => (s.dev.site i).lbk.grant.toNat - (d.site i).lbk.grant.toNat)).sum ≤
        s.dev.rampStep.toNat - (if s.dev.fenceFall.1 = s.dev.bt.beat then s.dev.fenceFall.2 else 0) ∧
      (∀ i : Fin 80, d.site i.val =
        { s.dev.site i.val with lbk := { (s.dev.site i.val).lbk with grant := (d.site i.val).lbk.grant } }) ∧
      d = { s.dev with sites := d.sites, rampBeat := some s.dev.bt.beat } ∧ (s.dev.rampBeat = some s.dev.bt.beat → d = s.dev))

/-- WLOAD, WSWAP and DUMMY (R154 to R156, R162, R164, R166). -/
def Obligations.StationarySetsAndDummies : Prop :=
  (∀ (s : State) (c : Fin 72) (x : Ctx) (f : Fetched),
    s.dev.issues c.val 0x10 x f →
    x.site < s.dev.sites.length →
    wloadOk (loadSrcOf (x.resolve f.bytes)) = true →
    (∀ r ∈ wloadRanges (loadSrcOf (x.resolve f.bytes)), x.mayRead s.dev r.1 r.2 = true) →
    pendOk (s.dev.cq c.val).pend = true →
    s.dev.clean (wloadRanges (loadSrcOf (x.resolve f.bytes))) →
    Completes (.wload c false) s fun d =>
      (d.site x.site).lbk.inactiveSet.st = .loading ∧ (d.site x.site).lbk.inactiveSet.tag = cmdTag (x.resolve f.bytes) ∧ (d.site x.site).lbk.inactiveSet.load = (loadSrcOf (x.resolve f.bytes)) ∧
      ((d.site x.site).lbk.inactiveSet.colSums, (d.site x.site).lbk.inactiveSet.laneSums) =
        setSums (loadSrcOf (x.resolve f.bytes)).fmt (laneGroup (loadSrcOf (x.resolve f.bytes)).fmt (loadSrcOf (x.resolve f.bytes)).gCode) (loadSrcOf (x.resolve f.bytes)).depth (d.site x.site).lbk.inactiveSet.codes ∧
      (d.site x.site).lbk.activeSet = (s.dev.site x.site).lbk.activeSet ∧ d.worked c.val f.idx 0 = true ∧ d.mem = s.dev.mem ∧ s.dev.sameOthers d c.val) ∧
  (∀ (s : State) (c : Fin 72) (x : Ctx) (f : Fetched),
    s.dev.issues c.val 0x10 x f →
    x.site < s.dev.sites.length →
    s.dev.sound x.site →
    Completes (.wload c true) s fun d =>
      (d.site x.site).lbk.checkErr.val.getLsbD 1 = true ∧ d.siteState x.site = .recovering ∧ d.mem = s.dev.mem) ∧
  (∀ (s : State) (c : Fin 72) (x : Ctx) (f : Fetched),
    s.dev.issues c.val 0x11 x f →
    x.site < s.dev.sites.length →
    Completes (.wswap c) s fun d =>
      (d.site x.site).lbk.active = !(s.dev.site x.site).lbk.active ∧ (d.site x.site).lbk.set0 = (s.dev.site x.site).lbk.set0 ∧ (d.site x.site).lbk.set1 = (s.dev.site x.site).lbk.set1 ∧
      (d.site x.site).acc = (s.dev.site x.site).acc ∧ s.dev.completes d c.val f ∧ d.mem = s.dev.mem ∧ s.dev.sameOthers d c.val) ∧
  (∀ (s : State) (c : Fin 72) (x : Ctx) (f : Fetched),
    s.dev.issues c.val 0x01 x f →
    x.site < s.dev.sites.length →
    Completes (.dummy c) s fun d =>
      (d.site x.site).lbk.demand = demandOf (d.cq c.val).flights ∧ fld f.bytes 12 1 ≤ (d.site x.site).lbk.demand ∧ d.worked c.val f.idx 0 = true ∧ d.mem = s.dev.mem ∧ s.dev.sameOthers d c.val ∧ (d.site x.site).acc = (s.dev.site x.site).acc)

/-- MMA over its rows (R151, R157, R163, R164, R213, R217). -/
def Obligations.MmaAddsIntoItsRows : Prop :=
  (∀ (s : State) (c : Fin 72) (x : Ctx) (f : Fetched),
    s.dev.issues c.val 0x12 x f →
    astream? (x.resolve f.bytes) = none →
    (s.dev.site x.site).lbk.activeSet.summed →
    fld (x.resolve f.bytes) 26 1 ≤ 1 →
    (s.dev.site x.site).lbk.activeSet.st = .ready →
    mmaOk (s.dev.site x.site).lbk.activeSet (x.resolve f.bytes) = true →
    anchorClash (s.dev.site x.site).acc (x.resolve f.bytes) = false →
    (s.dev.site x.site).lbk.grant ≠ 0 →
    (∀ r < fld (x.resolve f.bytes) 30 2, ∀ g ∈ mmaRanges (s.dev.site x.site).lbk.activeSet (x.resolve f.bytes) r [], x.mayRead s.dev g.1 g.2 = true) →
    (∀ r < fld (x.resolve f.bytes) 30 2, s.dev.clean (mmaRanges (s.dev.site x.site).lbk.activeSet (x.resolve f.bytes) r [])) →
    pendOk (s.dev.cq c.val).pend = true →
    Completes (.mma c none) s fun d =>
      (∀ r, r < fld (x.resolve f.bytes) 30 2 → ((d.site x.site).acc.row? (fld (x.resolve f.bytes) 28 2 + r)).map (·.anchor) = some (BitVec.ofNat 16 (fld (x.resolve f.bytes) 32 2))) ∧
      (∀ k, k < 256 → (k < fld (x.resolve f.bytes) 28 2 ∨ fld (x.resolve f.bytes) 28 2 + fld (x.resolve f.bytes) 30 2 ≤ k) → (d.site x.site).acc.row? k = (s.dev.site x.site).acc.row? k) ∧ d.worked c.val f.idx 0 = true ∧ (d.cq c.val).pend = (s.dev.cq c.val).pend ∧ d.mem = s.dev.mem ∧ s.dev.sameOthers d c.val) ∧
  (∀ (s : State) (c : Fin 72) (x : Ctx) (f : Fetched),
    s.dev.issues c.val 0x12 x f →
    mmaOk (s.dev.site x.site).lbk.activeSet (x.resolve f.bytes) = true →
    anchorClash (s.dev.site x.site).acc (x.resolve f.bytes) = true →
    Completes (.mma c none) s fun d =>
      (d.site x.site).acc.anchorErr = satInc (s.dev.site x.site).acc.anchorErr ∧ (d.site x.site).acc.rows = (s.dev.site x.site).acc.rows ∧ d.worked c.val f.idx 0x0101 = true ∧ d.mem = s.dev.mem ∧ s.dev.sameOthers d c.val) ∧
  (∀ (s : State) (c : Fin 72) (x : Ctx) (f : Fetched),
    s.dev.issues c.val 0x12 x f →
    x.site < s.dev.sites.length →
    s.dev.sound x.site →
    Completes (.mma c (some .row)) s fun d =>
      (d.site x.site).lbk.checkErr.val.getLsbD 0 = true ∧ d.siteState x.site = .recovering ∧ d.mem = s.dev.mem) ∧
  (∀ (s : State) (c : Fin 72) (x : Ctx) (f : Fetched),
    s.dev.issues c.val 0x12 x f →
    x.site < s.dev.sites.length →
    s.dev.sound x.site →
    Completes (.mma c (some .residue)) s fun d =>
      (d.site x.site).lbk.checkErr.val.getLsbD 2 = true ∧ d.siteState x.site = .recovering ∧ d.mem = s.dev.mem)

/-- The accumulator's arithmetic (R211, R212, R214). -/
def Obligations.AccumulatorEntriesSaturateAndStay : Prop :=
  (∀ (e : AccEnt) (c : Int), e.st = .normal → -2 ^ 103 ≤ e.n.toInt + c → e.n.toInt + c < 2 ^ 103 →
    (accAdd e false c).1.n.toInt = e.n.toInt + c ∧ (accAdd e false c).1.st = .normal) ∧
  (∀ (e : AccEnt) (c : Int), e.st = .normal → 2 ^ 103 ≤ e.n.toInt + c →
    (accAdd e false c).1.n.toInt = 2 ^ 103 - 1 ∧ (accAdd e false c).1.st = .sat) ∧
  (∀ (e : AccEnt) (c : Int), e.st = .normal → e.n.toInt + c < -2 ^ 103 →
    (accAdd e false c).1.n.toInt = -2 ^ 103 ∧ (accAdd e false c).1.st = .sat) ∧
  (∀ (e : AccEnt) (c : Int), e.st ≠ .normal → (accAdd e false c).1 = e) ∧
  (∀ (e : AccEnt) (c : Int), (accAdd e true c).1 = { n := 0, st := .inv }) ∧
  (∀ (a : Int) (p : Dy), -2 ^ 103 ≤ (windowRound a p).1 ∧ (windowRound a p).1 < 2 ^ 103) ∧
  (∀ (m : Int) (k : Nat), 2 * ((⟨m, 0⟩ : Dy).multRneInt k * 2 ^ k - m).natAbs ≤ 2 ^ k ∧
    (2 * ((⟨m, 0⟩ : Dy).multRneInt k * 2 ^ k - m).natAbs = 2 ^ k → (⟨m, 0⟩ : Dy).multRneInt k % 2 = 0)) ∧
  (∀ (e : AccEnt) (c c' : Int), e.st = .normal →
    -2 ^ 103 ≤ e.n.toInt + c → e.n.toInt + c < 2 ^ 103 → -2 ^ 103 ≤ e.n.toInt + c' → e.n.toInt + c' < 2 ^ 103 →
    (accAdd (accAdd e false c).1 false c').1 = (accAdd (accAdd e false c').1 false c).1)

/-- DRAIN, MMV and ELEM (R218, R228, R229, R235, R236, R238, R240). -/
def Obligations.OutputAndMatrixVectorCommandsComplete : Prop :=
  (∀ (s : State) (c : Fin 72) (x : Ctx) (f : Fetched),
    s.dev.issues c.val 0x15 x f →
    x.site < s.dev.sites.length →
    astream? (x.resolve f.bytes) = none →
    1 ≤ (drainCmd (x.resolve f.bytes)).fmt →
    (drainCmd (x.resolve f.bytes)).fmt ≤ 10 →
    (drainCmd (x.resolve f.bytes)).ok = true →
    (drainCmd (x.resolve f.bytes)).overlaps (x.resolve f.bytes) = false →
    (∀ r ∈ (drainCmd (x.resolve f.bytes)).reads (x.resolve f.bytes), x.inOwn r.1 r.2 = true) →
    (∀ r ∈ (drainCmd (x.resolve f.bytes)).writes (x.resolve f.bytes), x.outOk r.1 r.2) →
    s.dev.clean ((drainCmd (x.resolve f.bytes)).reads (x.resolve f.bytes) ++ (drainCmd (x.resolve f.bytes)).writes (x.resolve f.bytes)) →
    s.dev.room c.val (((drainCmd (x.resolve f.bytes)).writes (x.resolve f.bytes)).map (·.2)).sum →
    Completes (.drain c false) s fun d =>
      (d.site x.site).acc.drainRows = satAdd (s.dev.site x.site).acc.drainRows (drainCmd (x.resolve f.bytes)).rows ∧ (d.site x.site).acc.rows = (s.dev.site x.site).acc.rows ∧
      s.dev.writesOnly d c.val ((drainCmd (x.resolve f.bytes)).writes (x.resolve f.bytes)) ∧ d.worked c.val f.idx 0 = true ∧ d.mem = s.dev.mem ∧ s.dev.sameOthers d c.val) ∧
  (∀ (s : State) (c : Fin 72) (x : Ctx) (f : Fetched),
    s.dev.issues c.val 0x13 x f →
    x.site < s.dev.sites.length →
    astream? (x.resolve f.bytes) = none →
    (mmvCmd (x.resolve f.bytes)).ok = true →
    inOwnStack x (fld (x.resolve f.bytes) 8 8) (fld (x.resolve f.bytes) 38 2 * ((mmvCmd (x.resolve f.bytes)).elemBytes + (mmvCmd (x.resolve f.bytes)).recsBytes)) = true →
    x.mayRead s.dev (fld (x.resolve f.bytes) 8 8) (fld (x.resolve f.bytes) 38 2 * ((mmvCmd (x.resolve f.bytes)).elemBytes + (mmvCmd (x.resolve f.bytes)).recsBytes)) = true →
    (∀ r < fld (x.resolve f.bytes) 38 2, x.mayRead s.dev (fld (x.resolve f.bytes) 8 8 + r * (mmvCmd (x.resolve f.bytes)).elemBytes) (mmvCmd (x.resolve f.bytes)).elemBytes = true ∧ x.mayRead s.dev (fld (x.resolve f.bytes) 8 8 + fld (x.resolve f.bytes) 38 2 * (mmvCmd (x.resolve f.bytes)).elemBytes + r * (mmvCmd (x.resolve f.bytes)).recsBytes) (mmvCmd (x.resolve f.bytes)).recsBytes = true) →
    x.inOwn (fld (x.resolve f.bytes) 16 8) (2 * fld (x.resolve f.bytes) 40 4) = true →
    x.outOk (fld (x.resolve f.bytes) 24 8) (4 * fld (x.resolve f.bytes) 38 2) →
    meets (fld (x.resolve f.bytes) 16 8) (2 * fld (x.resolve f.bytes) 40 4) (fld (x.resolve f.bytes) 24 8) (4 * fld (x.resolve f.bytes) 38 2) = false →
    s.dev.clean [(fld (x.resolve f.bytes) 8 8, fld (x.resolve f.bytes) 38 2 * ((mmvCmd (x.resolve f.bytes)).elemBytes + (mmvCmd (x.resolve f.bytes)).recsBytes)), (fld (x.resolve f.bytes) 16 8, 2 * fld (x.resolve f.bytes) 40 4), (fld (x.resolve f.bytes) 24 8, 4 * fld (x.resolve f.bytes) 38 2)] →
    s.dev.room c.val (4 * fld (x.resolve f.bytes) 38 2) →
    Completes (.mmv c false) s fun d =>
      (d.site x.site).mvp.macCnt = satAdd (s.dev.site x.site).mvp.macCnt (fld (x.resolve f.bytes) 38 2 * fld (x.resolve f.bytes) 40 4) ∧ s.dev.writesOnly d c.val [(fld (x.resolve f.bytes) 24 8, 4 * fld (x.resolve f.bytes) 38 2)] ∧
      d.worked c.val f.idx 0 = true ∧ d.mem = s.dev.mem ∧ s.dev.sameOthers d c.val) ∧
  (∀ (s : State) (c : Fin 72) (x : Ctx) (f : Fetched),
    s.dev.issues c.val 0x13 x f →
    x.site < s.dev.sites.length →
    s.dev.sound x.site →
    Completes (.mmv c true) s fun d =>
      (d.site x.site).mvp.checkErr.val.getLsbD 0 = true ∧ d.siteState x.site = .recovering ∧ d.mem = s.dev.mem) ∧
  (∀ (s : State) (c : Fin 72) (x : Ctx) (f : Fetched),
    s.dev.issues c.val 0x14 x f →
    astream? (x.resolve f.bytes) = none →
    (s.dev.site x.site).lbk.grant ≠ 0 →
    (∀ a ∈ fld (x.resolve f.bytes) 8 8 :: (if elemUsesSrc1 (fld (x.resolve f.bytes) 32 1) then [fld (x.resolve f.bytes) 16 8] else []), x.inOwn a (fld (x.resolve f.bytes) 36 4 * (elemCmd (x.resolve f.bytes)).w) = true ∧ (elemCmd (x.resolve f.bytes)).overlap a (fld (x.resolve f.bytes) 24 8) = false ∧ s.dev.clean [(a, fld (x.resolve f.bytes) 36 4 * (elemCmd (x.resolve f.bytes)).w)]) →
    x.outOk (fld (x.resolve f.bytes) 24 8) (fld (x.resolve f.bytes) 36 4 * (elemCmd (x.resolve f.bytes)).wo) →
    s.dev.clean [(fld (x.resolve f.bytes) 24 8, fld (x.resolve f.bytes) 36 4 * (elemCmd (x.resolve f.bytes)).wo)] →
    s.dev.room c.val (fld (x.resolve f.bytes) 36 4 * (elemCmd (x.resolve f.bytes)).wo) →
    Completes (.elem c false) s fun d =>
      (d.site x.site).mvp.elemCnt = satAdd (s.dev.site x.site).mvp.elemCnt (fld (x.resolve f.bytes) 36 4) ∧ s.dev.writesOnly d c.val [(fld (x.resolve f.bytes) 24 8, fld (x.resolve f.bytes) 36 4 * (elemCmd (x.resolve f.bytes)).wo)] ∧
      d.worked c.val f.idx 0 = true ∧ d.mem = s.dev.mem ∧ s.dev.sameOthers d c.val) ∧
  (∀ (s : State) (c : Fin 72) (x : Ctx) (f : Fetched),
    s.dev.issues c.val 0x14 x f →
    x.site < s.dev.sites.length →
    s.dev.sound x.site →
    Completes (.elem c true) s fun d =>
      (d.site x.site).mvp.checkErr.val.getLsbD 1 = true ∧ d.siteState x.site = .recovering ∧ d.mem = s.dev.mem)

/-- QUANT, DEQ and STATS (R190 to R192, R208, R209, R362). -/
def Obligations.QuantiserCommandsComplete : Prop :=
  (∀ (s : State) (c : Fin 72) (x : Ctx) (f : Fetched),
    s.dev.issues c.val 0x16 x f →
    x.site < s.dev.sites.length →
    astream? (x.resolve f.bytes) = none →
    quantOk (s.dev.site x.site).qnt.histN.toNat (x.resolve f.bytes) = true →
    anyOverlap (quantRanges (x.resolve f.bytes) (fld (x.resolve f.bytes) 40 4) [fld (x.resolve f.bytes) 8 8, fld (x.resolve f.bytes) 16 8, fld (x.resolve f.bytes) 24 8, fld (x.resolve f.bytes) 44 8]) = false →
    x.inOwn (fld (x.resolve f.bytes) 8 8) (fld (x.resolve f.bytes) 40 4 * wideBytes (fld (x.resolve f.bytes) 32 1)) = true →
    (∀ r ∈ (quantRanges (x.resolve f.bytes) (fld (x.resolve f.bytes) 40 4) [fld (x.resolve f.bytes) 8 8, fld (x.resolve f.bytes) 16 8, fld (x.resolve f.bytes) 24 8, fld (x.resolve f.bytes) 44 8]).tail, x.outOk r.1 r.2) →
    s.dev.clean (quantRanges (x.resolve f.bytes) (fld (x.resolve f.bytes) 40 4) [fld (x.resolve f.bytes) 8 8, fld (x.resolve f.bytes) 16 8, fld (x.resolve f.bytes) 24 8, fld (x.resolve f.bytes) 44 8]) →
    (fld (x.resolve f.bytes) 56 2 ≠ 0xFFFF → s.dev.clean [((s.dev.site x.site).qnt.histBase.toNat + 512 * fld (x.resolve f.bytes) 56 2, 512)]) →
    s.dev.room c.val (((quantRanges (x.resolve f.bytes) (fld (x.resolve f.bytes) 40 4) [fld (x.resolve f.bytes) 8 8, fld (x.resolve f.bytes) 16 8, fld (x.resolve f.bytes) 24 8, fld (x.resolve f.bytes) 44 8]).tail).map (·.2)).sum →
    Completes (.quant c false) s fun d =>
      (d.site x.site).qnt.elems = satAdd (s.dev.site x.site).qnt.elems (fld (x.resolve f.bytes) 40 4) ∧ s.dev.writesOnly d c.val (quantRanges (x.resolve f.bytes) (fld (x.resolve f.bytes) 40 4) [fld (x.resolve f.bytes) 8 8, fld (x.resolve f.bytes) 16 8, fld (x.resolve f.bytes) 24 8, fld (x.resolve f.bytes) 44 8]).tail ∧ d.worked c.val f.idx 0 = true ∧ d.mem = s.dev.mem ∧ s.dev.sameOthers d c.val ∧ (d.site x.site).acc = (s.dev.site x.site).acc) ∧
  (∀ (s : State) (c : Fin 72) (x : Ctx) (f : Fetched),
    s.dev.issues c.val 0x16 x f →
    s.dev.sound x.site →
    Completes (.quant c true) s fun d =>
      d.siteState x.site = .recovering ∧ d.mem = s.dev.mem) ∧
  (∀ (s : State) (c : Fin 72) (x : Ctx) (f : Fetched),
    s.dev.issues c.val 0x17 x f →
    astream? (x.resolve f.bytes) = none →
    fld (x.resolve f.bytes) 32 1 ≤ 8 →
    9 ≤ fld (x.resolve f.bytes) 33 1 →
    fld (x.resolve f.bytes) 33 1 ≤ 10 →
    countOk (fld (x.resolve f.bytes) 40 4) (groupOf (fld (x.resolve f.bytes) 34 1)) (fld (x.resolve f.bytes) 35 1) = true →
    anyOverlap (deqRanges (x.resolve f.bytes) (fld (x.resolve f.bytes) 40 4) [fld (x.resolve f.bytes) 8 8, fld (x.resolve f.bytes) 16 8, fld (x.resolve f.bytes) 24 8]) = false →
    (∀ r ∈ (deqRanges (x.resolve f.bytes) (fld (x.resolve f.bytes) 40 4) [fld (x.resolve f.bytes) 8 8, fld (x.resolve f.bytes) 16 8, fld (x.resolve f.bytes) 24 8]).take 2, x.inOwn r.1 r.2 = true) →
    x.outOk (fld (x.resolve f.bytes) 24 8) (fld (x.resolve f.bytes) 40 4 * wideBytes (fld (x.resolve f.bytes) 33 1)) →
    s.dev.clean (deqRanges (x.resolve f.bytes) (fld (x.resolve f.bytes) 40 4) [fld (x.resolve f.bytes) 8 8, fld (x.resolve f.bytes) 16 8, fld (x.resolve f.bytes) 24 8]) →
    s.dev.room c.val (fld (x.resolve f.bytes) 40 4 * wideBytes (fld (x.resolve f.bytes) 33 1)) →
    Completes (.deq c) s fun d =>
      s.dev.writesOnly d c.val [(fld (x.resolve f.bytes) 24 8, fld (x.resolve f.bytes) 40 4 * wideBytes (fld (x.resolve f.bytes) 33 1))] ∧ d.worked c.val f.idx 0 = true ∧ d.mem = s.dev.mem ∧ s.dev.sameOthers d c.val ∧ (d.site x.site).acc = (s.dev.site x.site).acc) ∧
  (∀ (s : State) (c : Fin 72) (x : Ctx) (f : Fetched),
    s.dev.issues c.val 0x18 x f →
    astream? (x.resolve f.bytes) = none →
    (!isBlock (fld (x.resolve f.bytes) 24 1) || fld (x.resolve f.bytes) 28 4 % groupOf (fld (x.resolve f.bytes) 27 1) == 0) = true →
    anyOverlap [(fld (x.resolve f.bytes) 8 8, statsBytes (x.resolve f.bytes)), (fld (x.resolve f.bytes) 16 8, 16)] = false →
    x.inOwn (fld (x.resolve f.bytes) 8 8) (statsBytes (x.resolve f.bytes)) = true →
    x.outOk (fld (x.resolve f.bytes) 16 8) 16 →
    s.dev.clean [(fld (x.resolve f.bytes) 8 8, statsBytes (x.resolve f.bytes)), (fld (x.resolve f.bytes) 16 8, 16)] →
    s.dev.room c.val 16 →
    Completes (.stats c) s fun d =>
      (d.cq c.val).pend = cellSetAll (s.dev.cq c.val).pend (fld (x.resolve f.bytes) 16 8) (statsResult (fld (x.resolve f.bytes) 25 1) (fld (x.resolve f.bytes) 28 4)
        (statsValues (fld (x.resolve f.bytes) 24 1) (groupOf (fld (x.resolve f.bytes) 27 1)) (fld (x.resolve f.bytes) 28 4) (s.dev.view c.val (fld (x.resolve f.bytes) 8 8) (statsBytes (x.resolve f.bytes))))).1 ∧ d.worked c.val f.idx 0 = true ∧ d.mem = s.dev.mem ∧ s.dev.sameOthers d c.val) ∧
  (∀ (s : State) (c : Fin 72) (x : Ctx) (f : Fetched),
    s.dev.issues c.val 0x18 x f →
    astream? (x.resolve f.bytes) = none →
    anyOverlap [(fld (x.resolve f.bytes) 8 8, statsBytes (x.resolve f.bytes)), (fld (x.resolve f.bytes) 16 8, 16)] = true →
    Completes (.stats c) s fun d =>
      (d.cq c.val).pend = (s.dev.cq c.val).pend ∧ d.worked c.val f.idx 0x0101 = true ∧ d.mem = s.dev.mem ∧ s.dev.sameOthers d c.val)

/-- Receiving and sending one flit (R313, R314, R316, R320, R321), with the credits of R324 and R332 (log entries 24
and 132). -/
def Obligations.FlitsAreTakenOrRefused : Prop :=
  (∀ (s : State) (port : Fin 24) (f : Flit) (bs : List Byte),
    (s.dev.port port.val).state = .up →
    (s.dev.port port.val).codewordGood true = true →
    f.type = 1 →
    f.seq = (s.dev.port port.val).rxNext →
    f.dest = s.dev.coord →
    f.body = .data bs →
    Completes (.flitReceive port true true true [] f) s fun d =>
      d.lnk.inbox = s.dev.lnk.inbox ++ [(port.val, { f with via := some (port.val, b2n f.vc) })] ∧ (d.port port.val).rxNext = (s.dev.port port.val).rxNext + 1 ∧ (d.port port.val).flitsRx = satInc (s.dev.port port.val).flitsRx ∧ (d.port port.val).nakAt = none ∧ d.mem = s.dev.mem) ∧
  (∀ (s : State) (port : Fin 24) (delimOk crcOk : Bool) (f : Flit),
    (s.dev.port port.val).state = .up →
    (s.dev.port port.val).codewordGood false = false →
    (s.dev.port port.val).nakAt = none →
    Completes (.flitReceive port false delimOk crcOk [] f) s fun d =>
      d.lnk.inbox = s.dev.lnk.inbox ∧ (d.port port.val).rxNext = (s.dev.port port.val).rxNext ∧ (d.port port.val).fecUe = (if (s.dev.port port.val).rxPos.val = 0 ∨ (s.dev.port port.val).rxPos.val = 2 then satInc (s.dev.port port.val).fecUe else (s.dev.port port.val).fecUe) ∧
      (d.port port.val).nakAt = some s.dev.now ∧
      ((d.port port.val).linkTx.getLast?.map (·.body)) = some (.nak (s.dev.port port.val).rxNext) ∧ (d.port port.val).owned = true ∧ d.mem = s.dev.mem) ∧
  (∀ (s : State) (port : Fin 24) (f : Flit) (m : Marker),
    (s.dev.port port.val).state = .up →
    (s.dev.port port.val).markTx = some f →
    f.body = .marker m →
    Completes (.flitBoundary port) s fun d =>
      (d.port port.val).markTx = none ∧ ((d.port port.val).sent.getLast?.map (·.body)) = some (.marker { m with ts := s.dev.now }) ∧ (d.port port.val).flitsTx = satInc (s.dev.port port.val).flitsTx ∧ (d.port port.val).txSeq = (s.dev.port port.val).txSeq) ∧
  (∀ (s : State) (port : Fin 24) (f : Flit) (rest : List Flit),
    (s.dev.port port.val).state = .up →
    (s.dev.port port.val).markTx = none →
    (s.dev.port port.val).linkTx = [] →
    (s.dev.port port.val).resend = [] →
    (s.dev.port port.val).ctlTx = [] →
    (s.dev.port port.val).bulkTx = f :: rest →
    f.type = 1 →
    0 < (s.dev.port port.val).credits.getD (b2n f.vc) 0 →
    (s.dev.port port.val).replay.length < 2048 →
    s.dev.since (s.dev.port port.val).ackAt = 0 →
    Completes (.flitBoundary port) s fun d =>
      (d.port port.val).credits = (s.dev.port port.val).credits.modify (b2n f.vc) (· - 1) ∧ (d.port port.val).bulkTx = rest ∧ (d.port port.val).txSeq = (s.dev.port port.val).txSeq + 1 ∧ ((d.port port.val).sent.getLast?.map (·.seq)) = some (s.dev.port port.val).txSeq ∧
      ((d.port port.val).replay.getLast?.map (·.seq)) = some (s.dev.port port.val).txSeq ∧ ((d.port port.val).sent.getLast?.map (·.body)) = some f.body) ∧
  (∀ (s : State) (port : Fin 24) (f : Flit),
    (s.dev.port port.val).state = .up →
    (s.dev.port port.val).markTx = none →
    (s.dev.port port.val).linkTx = [] →
    (s.dev.port port.val).resend = [] →
    (s.dev.port port.val).ctlTx = [] →
    (s.dev.port port.val).bulkTx = [f] →
    f.type = 1 →
    (s.dev.port port.val).credits.getD (b2n f.vc) 0 = 0 →
    s.dev.since (s.dev.port port.val).ackAt = 0 →
    Completes (.flitBoundary port) s fun d =>
      (d.port port.val).bulkTx = [f] ∧ (d.port port.val).txSeq = (s.dev.port port.val).txSeq ∧ (d.port port.val).replay = (s.dev.port port.val).replay ∧ ((d.port port.val).sent.getLast?.map (fun g => (g.type, g.body))) = some (0, .idle)) ∧
  (∀ (s : State) (port : Fin 24),
    (s.dev.port port.val).state = .up →
    (s.dev.port port.val).markTx = none →
    (s.dev.port port.val).linkTx = [] →
    (s.dev.port port.val).replay.length < 2048 →
    1 ≤ s.dev.since (s.dev.port port.val).ackAt →
    Completes (.flitBoundary port) s fun d =>
      ((d.port port.val).sent.getLast?.map (fun g => (g.type, g.body, g.credit))) = some (2, .ack, (s.dev.port port.val).freed) ∧ (d.port port.val).freed = [0, 0, 0, 0] ∧ (d.port port.val).ackAt = s.dev.bt.beat) ∧
  (∀ (s : State) (port : Fin 24) (f : Flit),
    (s.dev.port port.val).state = .up →
    (s.dev.port port.val).codewordGood true = true →
    f.type = 2 →
    f.seq = (s.dev.port port.val).rxNext →
    f.body = .ack →
    Completes (.flitReceive port true true true [] f) s fun d =>
      (d.port port.val).credits = ((s.dev.port port.val).credits.zipIdx).map (fun x => x.1 + f.credit.getD x.2 0) ∧ (d.port port.val).rxNext = (s.dev.port port.val).rxNext + 1 ∧ d.lnk.inbox = s.dev.lnk.inbox) ∧
  (∀ (s : State) (port : Fin 24),
    (s.dev.port port.val).state = .up →
    (s.dev.port port.val).markTx = none →
    (s.dev.port port.val).linkTx = [] →
    (s.dev.port port.val).resend = [] →
    (s.dev.port port.val).ctlTx = [] →
    (s.dev.port port.val).bulkTx = [] →
    s.dev.since (s.dev.port port.val).ackAt = 0 →
    Completes (.flitBoundary port) s fun d =>
      ((d.port port.val).sent.getLast?.map (fun g => (g.type, g.body))) = some (0, .idle) ∧ (d.port port.val).txSeq = (s.dev.port port.val).txSeq ∧ (d.port port.val).replay = (s.dev.port port.val).replay) ∧
  (∀ (f : Flit) (k : Nat), (f.data k).length ≤ 240 →
    (f.wire k).length = 257 ∧ (f.wire k).take 1 = [0xA5] ∧
    (f.wire k).drop 253 = bytesLE 4 (crc32 (((f.wire k).drop 1).take 252)).toNat ∧ ((f.wire k).drop 13).take (f.data k).length = f.data k)

/-- Replay, the spare lane, failover, rerouting and retraining (R315 to R317, R326 to R328). -/
def Obligations.ReplayLanesAndFailover : Prop :=
  (∀ (s : State) (port : Fin 24) (f : Flit) (q : BitVec 16) (rest : List (Nat × Flit)),
    s.dev.lnk.inbox = (port.val, f) :: rest →
    f.body = .nak q →
    (s.dev.port port.val).state = .up →
    (s.dev.port port.val).replay.any (fun g => g.seq == q) = true →
    (s.dev.port port.val).resentAt = none →
    Completes (.nakReceive port) s fun d =>
      (d.port port.val).resend = (s.dev.port port.val).replay.dropWhile (fun g => g.seq != q) ∧ (d.port port.val).replay = (s.dev.port port.val).replay.dropWhile (fun g => g.seq != q) ∧
      (d.port port.val).resentAt = some s.dev.bt.beat ∧ (d.port port.val).replays = satInc (s.dev.port port.val).replays ∧ d.lnk.inbox = rest ∧ (d.port port.val).owned = true) ∧
  (∀ (s : State) (port : Fin 24) (b : BitVec 52),
    (s.dev.port port.val).resentAt = some b →
    (s.dev.port port.val).state = .up →
    16 < s.dev.since b →
    (s.dev.port port.val).failures < 4 →
    Completes (.replayTimeout port) s fun d =>
      (d.port port.val).failures = (s.dev.port port.val).failures + 1 ∧ (d.port port.val).replayFailed = satInc (s.dev.port port.val).replayFailed ∧ d.lnk.events.val.getLsbD 1 = true ∧ (d.port port.val).state = .up) ∧
  (∀ (s : State) (port : Fin 24) (lane : Fin 9),
    (s.dev.port port.val).state = .up →
    (s.dev.port port.val).laneLost = false →
    lane.val < 8 →
    Completes (.laneFail port lane true) s fun d =>
      (d.port port.val).laneWait = some (BitVec.ofNat 4 lane.val) ∧ (d.port port.val).spareLane = 0xF ∧ (d.port port.val).state = .up ∧ d.lnk.events.val.getLsbD 0 = true ∧ ((d.port port.val).linkTx.getLast?.map (·.body)) = some (.laneNotice (BitVec.ofNat 4 lane.val))) ∧
  (∀ (s : State) (port : Fin 24) (ce : List Nat) (f : Flit) (l : BitVec 4),
    (s.dev.port port.val).state = .up →
    (s.dev.port port.val).codewordGood true = true →
    (s.dev.port port.val).laneWait = some l →
    f.mark = true →
    f.type = 0 →
    f.body = .idle →
    Completes (.flitReceive port true true true ce f) s fun d =>
      (d.port port.val).spareLane = l ∧ (d.port port.val).laneWait = none ∧ (d.port port.val).rxNext = (s.dev.port port.val).rxNext ∧ d.lnk.inbox = s.dev.lnk.inbox) ∧
  (∀ (s : State) (port : Fin 24) (f : Flit),
    (s.dev.port port.val).state = .up →
    (s.dev.port port.val).markTx = some f →
    (s.dev.port port.val).laneMark = true →
    Completes (.flitBoundary port) s fun d =>
      ((d.port port.val).sent.getLast?.map (fun g => (g.mark, g.spare))) = some (true, (s.dev.port port.val).spareCarries) ∧ (d.port port.val).laneMark = false) ∧
  (∀ (s : State) (port : Fin 24) (lane : Fin 9),
    (s.dev.port port.val).state = .up →
    (s.dev.port port.val).laneLost = true →
    (¬ (lane.val = 8 ∧ (s.dev.port port.val).spareLane = 0xE)) →
    (s.dev.port port.val).spareLane ≠ BitVec.ofNat 4 lane.val →
    (s.dev.port port.val).laneWait ≠ some (BitVec.ofNat 4 lane.val) →
    Completes (.laneFail port lane true) s fun d =>
      (d.port port.val).state = .failed) ∧
  (∀ (s : State) (port : Fin 24) (f : Flit) (l : BitVec 4) (rest : List (Nat × Flit)),
    s.dev.lnk.inbox = (port.val, f) :: rest →
    f.body = .laneNotice l →
    (s.dev.port port.val).state = .up →
    (s.dev.port port.val).laneLost = false ∨ (s.dev.port port.val).spareTx = l →
    Completes (.laneNotice port) s fun d =>
      (d.port port.val).laneMark = true ∧ (d.port port.val).spareTx = l ∧ (d.port port.val).spareLane = (s.dev.port port.val).spareLane ∧ (d.port port.val).state = .up) ∧
  (∀ (s : State) (port : Fin 24) (f : Flit) (l : BitVec 4) (rest : List (Nat × Flit)),
    s.dev.lnk.inbox = (port.val, f) :: rest →
    f.body = .laneNotice l →
    (s.dev.port port.val).state = .up →
    (s.dev.port port.val).laneLost = true →
    (s.dev.port port.val).spareTx ≠ l →
    Completes (.laneNotice port) s fun d =>
      (d.port port.val).state = .failed) ∧
  (∀ (s : State) (port : Fin 24),
    (s.dev.port port.val).state = .up →
    4 ≤ (s.dev.port port.val).failures ∨ 4 ≤ (s.dev.port port.val).rxFails →
    Completes (.portFail port) s fun d =>
      (d.port port.val).state = .failed ∧ (d.port port.val).replay = [] ∧ (d.port port.val).bulkTx = [] ∧ (d.port port.val).ctlTx = [] ∧ d.lnk.events.val.getLsbD 2 = true ∧ d.mem = s.dev.mem) ∧
  (∀ (s : State) (port : Fin 24) (f : Flit) (n : Nat) (rest : List (Nat × Flit)),
    s.dev.lnk.inbox = (port.val, f) :: rest →
    f.body = .portNotice n →
    (s.dev.port (partnerPort n)).state = .up →
    Completes (.portNotice port) s fun d =>
      (d.port (partnerPort n)).state = .failed ∧ d.lnk.events.val.getLsbD 2 = true) ∧
  (∀ (s : State) (dir : Fin 8),
    s.dev.runs 4 = true →
    s.dev.lnk.lostDirs.contains (dir.val, none) = true →
    Completes (.directionReroute dir) s fun d =>
      d.lnk.lostDirs.any (fun x => x.1 == dir.val && x.2.isSome) = true ∧ d.lnk.lostDirs.contains (dir.val, none) = false ∧
      d.lnk.lostDirs.map (·.1) = s.dev.lnk.lostDirs.map (·.1)) ∧
  (∀ (s : State) (dir : Fin 8),
    s.dev.runs 4 = true →
    s.dev.lnk.lostDirs.all (fun x => x.1 != dir.val) = true →
    Completes (.directionReroute dir) s fun d =>
      d.lnk.detour.isSome = true ∧ d.lnk.lostDirs = s.dev.lnk.lostDirs ∧ d.lnk.ports = s.dev.lnk.ports ∧ d.mem = s.dev.mem) ∧
  (∀ (s : State) (port : Fin 24) (t : TrainIn),
    s.dev.runs 4 = true →
    s.dev.domUp (128 + port.val) = true →
    s.dev.lnk.retrainEn = true →
    (s.dev.port port.val).state = .failed →
    s.dev.crater? (unitId 4 port.val) = none →
    10000000 ≤ s.dev.since (s.dev.port port.val).trainAt →
    s.dev.axisSize (axisOf (dirOf port.val)) ≠ 1 →
    Completes (.portRetrain port t) s fun d =>
      (d.port port.val).state = s.dev.trainResult port.val t ∧ (d.port port.val).crcErr = 0 ∧ (d.port port.val).failures = 0)

/-- The protocol of SEND and RECV (R329 to R332). -/
def Obligations.SendsMatchReceivesAndTransfer : Prop :=
  (∀ (s : State) (p : Nat) (f : Flit) (rest : List (Nat × Flit)) (n : Nat) (j : RecvJob) (js : List RecvJob),
    s.dev.lnk.inbox = (p, f) :: rest →
    f.body = .sendReq n →
    s.dev.lnk.recvs = j :: js →
    j.match? = none →
    j.peer = f.src →
    j.channel = f.channel →
    s.dev.reaches f.src = true →
    Completes .sendRequest s fun d =>
      ((d.lnk.recvs.head?).bind (·.match?)) = some n ∧ d.lnk.recvs.tail = js ∧ d.controlOut f.src f.channel (.grant j.bytes) = true ∧ d.lnk.inbox = rest ∧ d.mem = s.dev.mem) ∧
  (∀ (s : State) (p : Nat) (f : Flit) (rest : List (Nat × Flit)) (n : Nat),
    s.dev.lnk.inbox = (p, f) :: rest →
    f.body = .sendReq n →
    s.dev.lnk.recvs = [] →
    s.dev.lnk.requests.length < 256 →
    Completes .sendRequest s fun d =>
      d = { (s.dev.freePlace f) with lnk := { (s.dev.freePlace f).lnk with inbox := rest, requests := s.dev.lnk.requests ++ [⟨f.src, f.channel, n⟩] } }) ∧
  (∀ (s : State) (j : SendJob) (js : List SendJob) (b : BitVec 52),
    s.dev.lnk.sends = j :: js →
    j.state = .refused b →
    16 ≤ s.dev.since b →
    s.dev.reaches j.peer = true →
    Completes .sendRequestRetry s fun d =>
      d.lnk.sends = { j with state := .requested } :: js ∧ d.controlOut j.peer j.channel (.sendReq j.bytes) = true) ∧
  (∀ (s : State) (p : Nat) (f : Flit) (rest : List (Nat × Flit)) (n : Nat) (j : SendJob) (js : List SendJob),
    s.dev.lnk.inbox = (p, f) :: rest →
    f.body = .grant n →
    s.dev.lnk.sends = j :: js →
    j.state = .requested →
    j.peer = f.src →
    j.channel = f.channel →
    js.all (fun k => k.peer != j.peer || k.channel != j.channel) = true →
    Completes .sendGrant s fun d =>
      d.lnk.sends = { j with state := .sent } :: js ∧ d.lnk.inbox = rest ∧ d.mem = s.dev.mem) ∧
  (∀ (s : State) (p : Nat) (f : Flit) (rest : List (Nat × Flit)) (n : Nat) (j k : SendJob) (ks : List SendJob),
    s.dev.lnk.inbox = (p, f) :: rest →
    f.body = .grant n →
    s.dev.lnk.sends = j :: k :: ks →
    j.state = .requested →
    j.peer = f.src →
    j.channel = f.channel →
    k.peer = j.peer →
    k.channel = j.channel →
    (k :: ks).all (fun i => i.state == .ready) = true →
    Completes .sendGrant s fun d =>
      d.lnk.sends = { j with state := .sent } :: { k with state := .requested } :: ks ∧ d.mem = s.dev.mem) ∧
  (∀ (s : State) (p : Nat) (f : Flit) (rest : List (Nat × Flit)) (j : SendJob) (js : List SendJob),
    s.dev.lnk.inbox = (p, f) :: rest →
    f.body = .sendDone →
    s.dev.lnk.sends = j :: js →
    j.state = .sent →
    j.peer = f.src →
    j.channel = f.channel →
    Completes .sendAcknowledged s fun d =>
      d = { (s.dev.freePlace f) with lnk := { (s.dev.freePlace f).lnk with inbox := rest, sends := js } }) ∧
  (∀ (s : State) (p : Nat) (f : Flit) (rest : List (Nat × Flit)) (bs : List Byte) (j : RecvJob) (js : List RecvJob) (n : Nat),
    s.dev.lnk.inbox = (p, f) :: rest →
    f.body = .data bs →
    s.dev.lnk.recvs = j :: js →
    j.match? = some n →
    j.peer = f.src →
    j.channel = f.channel →
    s.dev.lnk.excess = [] →
    j.got + bs.length < min n j.bytes →
    Completes .recvData s fun d =>
      ((d.lnk.recvs.head?).map (·.got)) = some (j.got + bs.length) ∧ d.lnk.recvs.tail = js ∧ d.lnk.inbox = rest ∧ d.cqs = s.dev.cqs ∧ d.mem = s.dev.mem) ∧
  (∀ (s : State) (j : RecvJob) (js : List RecvJob),
    s.dev.lnk.recvs = j :: js →
    j.arrived = false →
    j.timeout ≤ j.count →
    j.expired = false →
    j.core < s.dev.cqs.length →
    Completes .recvTimeout s fun d =>
      (d.cq j.core).regs.halted = true ∧ d.lnk.events.val.getLsbD 5 = true ∧
      d.lnk.recvs = s.dev.lnk.recvs.map (fun k => if k.core == j.core && k.idx == j.idx then { k with expired := true } else k) ∧ d.mem = s.dev.mem)

/-- Contributions, results, engines and timeouts of collectives (R335, R338, R339, R345, R347). -/
def Obligations.CollectivesAddUpAndDown : Prop :=
  (∀ (s : State) (e : Fin 16) (p n lv tot : Nat) (f : Flit) (rest : List (Nat × Flit)) (fl : BitVec 4) (vals : List Wire) (bs : List Byte) (j : CollJob) (js : List CollJob),
    s.dev.lnk.inbox = (p, f) :: rest →
    f.body = .contribution n lv j.params fl tot vals bs →
    s.dev.col.jobs = j :: js →
    j.posted = true →
    j.fresh = false →
    j.group = f.channel.toNat →
    j.seq = n →
    (s.dev.col.engines.getD e.val {}).inService = false →
    Completes (.collContribution e false) s fun d =>
      d.lnk.inbox = rest ∧ d.col.jobs = 
        { j with contribs := addContribution j.contribs lv ((s.dev.memberRank? j f.src).getD 0) tot fl vals bs } :: js ∧ d.mem = s.dev.mem) ∧
  (∀ (s : State) (e : Fin 16) (j : CollJob) (step : Nat × Nat × Nat),
    s.dev.takeInbox s.dev.isContribution = none →
    (s.dev.col.engines.getD e.val {}).inService = true →
    s.dev.col.jobs.find? (fun j => j.canStep) = some j →
    j.adds = some step →
    (s.dev.col.engines.getD e.val {}).retried ≠ some step →
    e.val < s.dev.col.engines.length →
    Completes (.collContribution e true) s fun d =>
      (d.col.engines.getD e.val {}).retried = some step ∧ (d.col.engines.getD e.val {}).retries = satInc (s.dev.col.engines.getD e.val {}).retries ∧
      d.col.events.val.getLsbD 0 = true ∧ d.col.jobs = s.dev.col.jobs ∧ d.mem = s.dev.mem) ∧
  (∀ (s : State) (e : Fin 16) (j : CollJob) (step : Nat × Nat × Nat),
    s.dev.takeInbox s.dev.isContribution = none →
    (s.dev.col.engines.getD e.val {}).inService = true →
    s.dev.col.jobs.find? (fun j => j.canStep) = some j →
    j.adds = some step →
    (s.dev.col.engines.getD e.val {}).retried = some step →
    e.val < s.dev.col.engines.length →
    Completes (.collContribution e true) s fun d =>
      (d.col.engines.getD e.val {}).inService = false ∧ (d.col.engines.getD e.val {}).moving = some s.dev.bt.beat ∧ d.col.events.val.getLsbD 1 = true ∧ d.col.jobs = s.dev.col.jobs ∧ d.mem = s.dev.mem) ∧
  (∀ (s : State) (e : Fin 16) (m : Bool) (j : CollJob) (js : List CollJob),
    s.dev.takeInbox s.dev.isContribution = none →
    (s.dev.col.engines.getD e.val {}).inService = true →
    m = false ∨ j.adds = none →
    s.dev.col.jobs = j :: js →
    j.posted = true →
    j.fresh = false →
    j.passed = false →
    j.completed = false →
    j.level = topLevel j.params.size j.rank →
    j.rank ≠ 0 →
    Completes (.collContribution e m) s fun d =>
      d.col.jobs.head? = some { j with passed := true } ∧ d.mem = s.dev.mem) ∧
  (∀ (s : State) (p n tot off : Nat) (f : Flit) (rest : List (Nat × Flit)) (fl : BitVec 4) (bs : List Byte) (j : CollJob) (js : List CollJob),
    s.dev.lnk.inbox = (p, f) :: rest →
    f.body = .result n fl tot off bs →
    s.dev.col.jobs = j :: js →
    j.posted = true →
    j.fresh = false →
    j.group = f.channel.toNat →
    j.seq = n →
    s.dev.engineUp = true →
    s.dev.mem.wf = true →
    s.dev.mem.poison = [] →
    Completes .collResult s fun d =>
      memBytes d.mem.bytes (j.dst + off) (bs.take (j.params.dstLen - off)).length = bs.take (j.params.dstLen - off) ∧ d.lnk.inbox = rest) ∧
  (∀ (s : State) (e : Fin 16),
    (s.dev.col.engines.getD e.val {}).moving ≠ none →
    Completes (.engineMoveDone e) s fun d =>
      (d.col.engines.getD e.val {}).moving = none ∧ d.col.jobs = s.dev.col.jobs ∧ d = { s.dev with col := d.col }) ∧
  (∀ (s : State) (j : CollJob) (js : List CollJob),
    s.dev.col.jobs = j :: js →
    j.posted = true →
    j.completed = false →
    j.timeout ≤ j.count →
    j.expired = false →
    j.core < s.dev.cqs.length →
    Completes .collTimeout s fun d =>
      (d.cq j.core).regs.halted = true ∧ d.col.events.val.getLsbD 2 = true ∧ d.col.jobs = { j with expired := true } :: js ∧ d.mem = s.dev.mem)

/-- The stream port (R122, R123, R349, R351, R356 to R360; log entry 123). -/
def Obligations.StreamFramesAndRecords : Prop :=
  (∀ (s : State) (port : Fin 4) (frame : List Byte),
    (s.dev.stmPort port.val).link = 2 →
    (parseFrame frame).isNone = true →
    Completes (.streamFrameReceive port frame) s fun d =>
      (d.stmPort port.val).rxFrames = satInc (s.dev.stmPort port.val).rxFrames ∧ (d.stmPort port.val).rxDrop = satInc (s.dev.stmPort port.val).rxDrop ∧ d = { s.dev with stm := d.stm } ∧ d.stm.divert = s.dev.stm.divert) ∧
  (∀ (s : State) (port : Fin 4) (frame b data h : List Byte) (n sid seq : Nat) (last : Bool),
    s.dev.takesFrame port.val frame b = true →
    n = fld b 12 2 →
    n ≤ 1952 →
    data = (b.drop 16).take n →
    data.length = n →
    sid = fld b 0 2 →
    seq = fld b 4 4 →
    last = bitOf (fld b 2 1) 1 →
    fld b 2 1 % 2 = 1 →
    fld b 8 4 = 0 →
    48 ≤ n →
    ((s.dev.stmPort port.val).opened.all (fun r => !r.isKey sid seq)) = true →
    (s.dev.stmPort port.val).open < 16 →
    h = data.take 48 →
    inboundOk h = true →
    hdrStream h = sid →
    hdrSeq h = seq →
    hdrKind h ≠ 0 →
    n ≤ recordLen h →
    (last = true → n = recordLen h) →
    Completes (.streamFrameReceive port frame) s fun d =>
      (d.stmPort port.val).buf = (s.dev.stmPort port.val).buf ++ (if n = 48 ∧ last = false then [] else [⟨h, none, 0, data.drop 48, last⟩]) ∧
      (d.stmPort port.val).opened = (s.dev.stmPort port.val).opened ++ (if last then [] else [⟨sid, seq, h, n, none, false⟩]) ∧ (d.stmPort port.val).rxFrames = satInc (s.dev.stmPort port.val).rxFrames ∧
      d.stm.divert = s.dev.stm.divert ∧ d.plans = s.dev.plans ∧ d.mem = s.dev.mem) ∧
  (∀ (s : State) (port : Fin 4) (frame b data h : List Byte) (n sid seq : Nat) (last : Bool) (p : Plan) (i : Nat),
    s.dev.takesFrame port.val frame b = true →
    n = fld b 12 2 →
    n ≤ 1952 →
    data = (b.drop 16).take n →
    data.length = n →
    sid = fld b 0 2 →
    seq = fld b 4 4 →
    last = bitOf (fld b 2 1) 1 →
    fld b 2 1 % 2 = 1 →
    fld b 8 4 = 0 →
    48 ≤ n →
    ((s.dev.stmPort port.val).opened.all (fun r => !r.isKey sid seq)) = true →
    (s.dev.stmPort port.val).open < 16 →
    h = data.take 48 →
    inboundOk h = true →
    hdrStream h = sid →
    hdrSeq h = seq →
    hdrKind h = 0 →
    n ≤ recordLen h →
    (last = true → n = recordLen h) →
    s.dev.matchSlot (s.dev.portOwner port.val) h = some (p, i) →
    s.dev.plan? p.handle = some p →
    i < p.slotStates.length →
    p.slotState i = .waiting →
    s.dev.slotOpen p i = true →
    hdrLen h ≤ (p.slotEnt i).bytes →
    Completes (.streamFrameReceive port frame) s fun d =>
      ((d.plan? p.handle).map (fun q => q.slotState i)) = some (.claimed port.val sid seq) ∧
      (d.stmPort port.val).buf = (s.dev.stmPort port.val).buf ++ (if n = 48 ∧ last = false then [] else [⟨h, some (p.handle, i), 0, data.drop 48, last⟩]) ∧
      (d.stmPort port.val).opened = (s.dev.stmPort port.val).opened ++ (if last then [] else [⟨sid, seq, h, n, some (p.handle, i), false⟩]) ∧
      d.stm.divert = s.dev.stm.divert ∧ d.mem = s.dev.mem) ∧
  (∀ (s : State) (port : Fin 4) (frame b data : List Byte) (n sid seq : Nat) (last : Bool) (r : OpenRec),
    s.dev.takesFrame port.val frame b = true →
    n = fld b 12 2 →
    n ≤ 1952 →
    data = (b.drop 16).take n →
    data.length = n →
    sid = fld b 0 2 →
    seq = fld b 4 4 →
    last = bitOf (fld b 2 1) 1 →
    fld b 2 1 % 2 = 0 →
    (s.dev.stmPort port.val).opened.find? (fun r => r.isKey sid seq) = some r →
    r.dead = false →
    fld b 8 4 = r.next →
    48 ≤ r.next →
    r.next + n ≤ recordLen r.header →
    (last = true → r.next + n = recordLen r.header) →
    0 < n →
    Completes (.streamFrameReceive port frame) s fun d =>
      (d.stmPort port.val).buf = (s.dev.stmPort port.val).buf ++ [⟨r.header, r.claim, r.next - 48, data, last⟩] ∧
      (d.stmPort port.val).opened = (if last then (s.dev.stmPort port.val).opened.filter (fun r => !r.isKey sid seq)
        else (s.dev.stmPort port.val).opened.map (fun q => if q.isKey sid seq then { q with next := r.next + n } else q)) ∧
      d.stm.divert = s.dev.stm.divert ∧ d.plans = s.dev.plans ∧ d.mem = s.dev.mem) ∧
  (∀ (s : State) (port : Fin 4) (e : BufEnt) (rest : List BufEnt) (h : BitVec 16) (i : Nat) (q : Plan),
    (s.dev.stmPort port.val).buf = e :: rest →
    hdrKind e.header = 0 →
    e.last = true →
    e.claim = some (h, i) →
    s.dev.plan? h = some q →
    q.slotState i = .claimed port.val (hdrStream e.header) (hdrSeq e.header) →
    s.dev.slotOpen q i = true →
    s.dev.wipeHolds (q.slotEnt i).dest (64 + e.off + e.data.length) = false →
    s.dev.mem.wf = true →
    s.dev.mem.poison = [] →
    i < q.slotStates.length →
    Completes (.slotRecord port) s fun d =>
      memBytes d.mem.bytes ((q.slotEnt i).dest + 64 + e.off) e.data.length = e.data ∧
      ((d.plan? h).map (fun q => q.slotState i)) = some .filled ∧ (d.stmPort port.val).buf = rest) ∧
  (∀ (s : State) (h : BitVec 16) (i : Fin 65536) (q : Plan),
    s.dev.plan? h = some q →
    i.val < q.img.slots.length →
    i.val < q.slotStates.length →
    q.retiring = none →
    q.state = .running →
    q.slotState i.val = .waiting →
    s.dev.slotOpen q i.val = false →
    s.dev.mem.wf = true →
    s.dev.mem.poison = [] →
    Completes (.slotInputDeadline h i) s fun d =>
      ((d.plan? h).map (fun q => q.slotState i.val)) = some .empty ∧ memBytes d.mem.bytes (q.slotEnt i.val).dest 64 = List.replicate 64 0) ∧
  (∀ (s : State) (port : Fin 4) (e : BufEnt) (rest : List BufEnt),
    (s.dev.stmPort port.val).buf = e :: rest →
    hdrKind e.header = 1 →
    e.last = false →
    Completes (.loadRecord port) s fun d =>
      (d.stmPort port.val).buf = rest ∧ (d.stmPort port.val).loads = (s.dev.stmPort port.val).loads ++ [e] ∧ d.stm.divert = s.dev.stm.divert ∧ d = { s.dev with stm := d.stm }) ∧
  (∀ (s : State) (port : Fin 4) (e : BufEnt) (rest : List BufEnt),
    (s.dev.stmPort port.val).buf = e :: rest →
    hdrKind e.header = 1 →
    e.last = true →
    s.dev.denied (s.dev.portOwner port.val) (hdrAddr e.header) (hdrLen e.header) false = false →
    Completes (.loadRecord port) s fun d =>
      d.mem = (((s.dev.stmPort port.val).loads.filter (fun x => x.isKey (hdrStream e.header) (hdrSeq e.header))) ++ [e]).foldl
        (fun m x => (m.deliver (hdrAddr x.header + x.off) x.data).1) s.dev.mem ∧
      (d.stmPort port.val).loads = (s.dev.stmPort port.val).loads.filter (fun x => !x.isKey (hdrStream e.header) (hdrSeq e.header))) ∧
  (∀ (s : State) (port : Fin 4) (e : BufEnt) (rest : List BufEnt),
    (s.dev.stmPort port.val).buf = e :: rest →
    hdrKind e.header = 1 →
    e.last = true →
    s.dev.denied (s.dev.portOwner port.val) (hdrAddr e.header) (hdrLen e.header) false = false →
    s.dev.mem.wf = true →
    s.dev.mem.poison = [] →
    Completes (.loadRecord port) s fun d =>
      memBytes d.mem.bytes (hdrAddr e.header + e.off) e.data.length = e.data ∧ (d.stmPort port.val).buf = rest) ∧
  (∀ (s : State) (port : Fin 4) (e : BufEnt) (rest : List BufEnt),
    (s.dev.stmPort port.val).buf = e :: rest →
    hdrKind e.header = 1 →
    e.last = true →
    s.dev.denied (s.dev.portOwner port.val) (hdrAddr e.header) (hdrLen e.header) false = true →
    s.dev.stm.divert.length < 64 →
    Completes (.loadRecord port) s fun d =>
      d.stm.divert.length = s.dev.stm.divert.length + 1 ∧ ((d.stm.divert.getLast?).map (fun x => x.getD 48 0)) = some (BitVec.ofNat 8 divDenied) ∧ d.mem = s.dev.mem) ∧
  (∀ (s : State) (port : Fin 4) (e : BufEnt) (rest : List BufEnt),
    (s.dev.stmPort port.val).buf = e :: rest →
    hdrKind e.header = 4 →
    s.dev.denied (s.dev.portOwner port.val) (hdrAddr e.header) (hdrLen e.header) true = false →
    s.dev.mem.poison = [] →
    s.dev.stm.hasRoom (48 + hdrLen e.header) = true ∨ s.dev.stm.outq = [] →
    Completes (.readReq port) s fun d =>
      ((d.stm.outq.getLast?).map (fun r => (r.kind, r.streamId, r.bytes.drop 48))) =
        some (5, hdrStream e.header, memBytes s.dev.mem.bytes (hdrAddr e.header) (hdrLen e.header)) ∧ d.stm.outq.length = s.dev.stm.outq.length + 1 ∧ d.mem = s.dev.mem) ∧
  (∀ (s : State) (port : Fin 4) (r : OutRec) (i : Nat),
    (s.dev.stmPort port.val).link = 2 →
    (s.dev.stmPort port.val).paused = false →
    s.dev.outFor port.val 2 = some (r, i) →
    Completes (.recordSend port) s fun d =>
      d.stm.sent = s.dev.stm.sent ++ (s.dev.framesOf r.bytes).map (fun fr => (port.val, fr)) ∧ d.stm.outq = s.dev.stm.outq.eraseIdx i ∧ d = { s.dev with stm := d.stm }) ∧
  (∀ (s : State) (port : Fin 4),
    (s.dev.stmPort port.val).link = 1 →
    (s.dev.stmPort port.val).en = true →
    s.dev.stm.etype ≠ 0 →
    s.dev.domUp (160 + port.val) = true →
    Completes (.streamPortUp port) s fun d =>
      (d.stmPort port.val).link = 2 ∧ (d.stmPort port.val).rxFrames = (s.dev.stmPort port.val).rxFrames) ∧
  (∀ (s : State) (port : Fin 4),
    (s.dev.stmPort port.val).link = 2 →
    Completes (.streamPortDown port) s fun d =>
      d = s.dev.modStmPort port.val (fun p => { p with link := 1 })) ∧
  (∀ (s : State) (path : RegPath),
    s.dev.pathOpen path = true →
    s.dev.blockUp .stmCommon = true →
    Completes (.divertPop path) s fun d =>
      d.stm.divert = s.dev.stm.divert.tail ∧ d = { s.dev with stm := d.stm }) ∧
  (∀ (s : State) (path : RegPath) (v : BitVec 16),
    s.dev.pathOpen path = true →
    s.dev.blockUp .stmCommon = true →
    0x600 ≤ v.toNat →
    v ≠ 0x8100 →
    v ≠ 0x8808 →
    (∀ q : Fin 4, (s.dev.stmPort q.val).link ≠ 0) →
    Completes (.ethertypeWrite path v) s fun d =>
      d = { s.dev with stm := { s.dev.stm with etype := v } })

/-- Start, pause, promise, resume and switch (R49, R87, R116, R117, R120, R245, R246, R371). -/
def Obligations.TimelinesRunOnTheirBeats : Prop :=
  (∀ (s : State) (h : BitVec 16) (q : Plan),
    s.dev.plan? h = some q →
    s.dev.sequencing = true →
    q.state = .armed →
    q.retiring = none →
    s.dev.reached q.base = true →
    q.pauseAt = none →
    q.stopping = none →
    q.stepDone q.curStep = false →
    s.dev.bt.stepBy = none →
    Completes (.planStart h) s fun d =>
      d = s.dev.modPlan h (fun p => { p with state := .running })) ∧
  (∀ (s : State) (h : BitVec 16) (q : Plan),
    s.dev.plan? h = some q →
    s.dev.sequencing = true →
    q.state = .armed →
    q.retiring = none →
    s.dev.reached q.base = true →
    q.pauseAt = none →
    q.stepDone q.curStep = false →
    s.dev.bt.stepBy.isSome = true →
    q.cores.all (fun k => (s.dev.cq k).run.isNone) = true →
    Completes (.planStart h) s fun d =>
      ((d.plan? h).map (fun p => (p.state, p.holdCause))) = some (.paused, 0x0700) ∧ d.mem = s.dev.mem ∧ d.cqs = s.dev.cqs) ∧
  (∀ (s : State) (h : BitVec 16) (q : Plan),
    s.dev.plan? h = some q →
    s.dev.sequencing = true →
    q.state = .armed →
    q.retiring = none →
    s.dev.reached q.base = true →
    q.pauseAt ≠ none →
    Completes (.planStart h) s fun d =>
      ((d.plan? h).map (fun p => (p.state, p.pauseAt, p.holdCause))) = some (.paused, none, 0) ∧ d.mem = s.dev.mem ∧ d.cqs = s.dev.cqs) ∧
  (∀ (s : State) (h : BitVec 16) (q : Plan),
    s.dev.plan? h = some q →
    s.dev.sequencing = true →
    q.state = .armed →
    s.dev.reached q.base = false →
    Completes (.planStart h) s fun d =>
      d = s.dev) ∧
  (∀ (s : State) (h : BitVec 16) (q : Plan) (b : Nat × BitVec 52),
    s.dev.plan? h = some q →
    s.dev.sequencing = true →
    q.state = .running →
    q.stopping = none →
    q.pauseAt = some b →
    b.1 ≤ q.curStep →
    s.dev.stepBegun q q.curStep = true →
    Completes (.pauseBeatReached h) s fun d =>
      ((d.plan? h).map (fun p => (p.state, p.pauseAt, p.holdCause, p.curStep))) = some (.paused, none, 0, q.curStep) ∧ d.mem = s.dev.mem ∧ d.cqs = s.dev.cqs ∧ d.sites = s.dev.sites) ∧
  (∀ (s : State) (h : BitVec 16) (q : Plan) (n : Nat),
    s.dev.plan? h = some q →
    s.dev.sequencing = true →
    q.state = .running →
    q.retiring = none →
    q.promiseNext = some n →
    s.dev.promisePast q n = true →
    q.stepDone n = false →
    s.dev.logs →
    Completes (.promiseDeadline h) s fun d =>
      ((d.plan? h).map (fun p => (p.missedSteps, p.missed, p.state))) = some (q.missedSteps ++ [n], satInc q.missed, .running) ∧ d.logged 2 0x0301 0 ∧ d.mem = s.dev.mem ∧ d.cqs = s.dev.cqs) ∧
  (∀ (s : State) (h : BitVec 16) (q : Plan) (n : Nat),
    s.dev.plan? h = some q →
    q.promiseNext = some n →
    s.dev.promisePast q n = false →
    Completes (.promiseDeadline h) s fun d =>
      d = s.dev) ∧
  (∀ (s : State) (h : BitVec 16) (q : Plan) (b : BitVec 52),
    s.dev.plan? h = some q →
    s.dev.sequencing = true →
    q.state = .paused →
    q.retiring = none →
    q.resumeBeat = some b →
    s.dev.reached b = true →
    q.pauseAt = none →
    q.stopping = none →
    q.curStep < q.nSteps →
    q.stepDone q.curStep = false →
    s.dev.bt.stepBy = none →
    Completes (.resumeBeatReached h) s fun d =>
      d.plan? h = some { q with state := .running, holdCause := 0, resumeBeat := none, base := b - BitVec.ofNat 52 (q.stepOff q.curStep) } ∧ d = { (q.cores.foldl Dev.resumeRecovery s.dev) with plans := d.plans }) ∧
  (∀ (s : State) (h : BitVec 16) (q : Plan) (b : BitVec 52),
    s.dev.plan? h = some q →
    s.dev.sequencing = true →
    q.state = .paused →
    q.retiring = none →
    q.resumeBeat = some b →
    s.dev.reached b = true →
    q.pauseAt = none →
    q.stopping = none →
    q.stopAfter = none →
    q.curStep + 1 < q.nSteps →
    q.stepDone q.curStep = true →
    q.stepDone (q.curStep + 1) = false →
    s.dev.bt.stepBy = none →
    Completes (.resumeBeatReached h) s fun d =>
      ((d.plan? h).map (fun p => (p.state, p.base, p.curStep, p.lastDone))) = some (.running, b - BitVec.ofNat 52 (q.stepOff (q.curStep + 1)), q.curStep + 1, some q.curStep) ∧ d = { (q.cores.foldl Dev.resumeRecovery s.dev) with plans := d.plans }) ∧
  (∀ (s : State) (h : BitVec 16) (q : Plan) (b : BitVec 52),
    s.dev.plan? h = some q →
    s.dev.sequencing = true →
    q.state = .debugHeld →
    q.retiring = none →
    q.resumeBeat = some b →
    s.dev.reached b = true →
    q.pauseAt = none →
    q.stopping = none →
    q.curStep < q.nSteps →
    q.stepDone q.curStep = false →
    (∀ k ∈ q.cores, k < s.dev.cqs.length) →
    s.dev.bt.stepBy = none →
    Completes (.resumeBeatReached h) s fun d =>
      (∀ k ∈ q.cores, (d.cq k).regs.frozen = false) ∧ ((d.plan? h).map (fun p => (p.state, p.base))) = some (.running, b - BitVec.ofNat 52 (q.stepOff q.curStep)) ∧ d.mem = s.dev.mem) ∧
  (∀ (s : State) (h : BitVec 16) (q : Plan) (x : Select),
    s.dev.plan? h = some q →
    s.dev.sequencing = true →
    q.state = .running →
    q.retiring = none →
    q.selects.find? (fun x => !q.switched.contains x.step && s.dev.stepBegun q x.step && q.keepsStart x.step) = some x →
    q.changedGroups x.step = [] →
    Completes (.switchBeat h) s fun d =>
      d = s.dev.modPlan h (fun p => { p with switched := q.switched ++ [x.step] })) ∧
  (∀ (s : State) (h : BitVec 16) (q : Plan) (x : Select) (k r : Nat) (g : HistEnt),
    s.dev.plan? h = some q →
    s.dev.sequencing = true →
    q.state = .running →
    q.retiring = none →
    q.selects.find? (fun x => !q.switched.contains x.step && s.dev.stepBegun q x.step && q.keepsStart x.step) = some x →
    q.changedGroups x.step ≠ [] →
    s.dev.logs →
    q.img.layout.hists.find? (fun g => g.core == k) = some g →
    r ∈ q.resetRecords x.step →
    r < g.n →
    k < q.img.nCores →
    q.earlierDone k x.step = true →
    s.dev.mem.wf = true →
    Completes (.switchBeat h) s fun d =>
      memBytes d.mem.bytes (g.base + 512 * r) 512 = List.replicate 512 0 ∧ d.logged 0 0x1000 0 ∧ ((d.plan? h).map (fun p => (p.switched, p.switchSteps))) = some (q.switched ++ [x.step], q.switchSteps ++ [x.step]))

/-- Release, commit, discard and delivery (R87, R132, R141, R254, R255, R272, R285). -/
def Obligations.ChunksAreReleasedAndCommitted : Prop :=
  (∀ (s : State) (c : Fin 72) (p : Plan) (site i : Nat),
    s.dev.dueChunk? c.val = some (p, site, i) →
    (s.dev.cq c.val).fetched ≠ [] →
    site < s.dev.sites.length →
    c.val < s.dev.cqs.length →
    i < p.chunkStates.length →
    s.dev.plan? p.handle = some p →
    s.dev.mem.wf = true →
    Completes (.chunkRelease c) s fun d =>
      ((d.cq c.val).run.map (fun r => (r.handle, r.idx, r.release))) = some (p.handle, i, s.dev.bt.beat) ∧ (d.cq c.val).pend = [] ∧ (d.cq c.val).log = [] ∧
      (d.cq c.val).fetched = (s.dev.cq c.val).fetched ∧ (d.site site).acc.rows = [] ∧ (d.site site).ccr.flags = (s.dev.site site).ccr.flags ∧
      ((d.plan? p.handle).map (fun q => (q.chunkStates.getD i .waiting, q.state))) = some (.running s.dev.bt.beat, .running) ∧
      (p.img.texts.any (fun t => t.core == p.planCore c.val) = false → d.mem = s.dev.mem)) ∧
  (∀ (s : State) (c : Fin 72) (p : Plan) (site i : Nat),
    s.dev.dueChunk? c.val = some (p, site, i) →
    (s.dev.cq c.val).fetched = [] →
    (s.dev.cq c.val).regs.underrunNow = false →
    c.val < s.dev.cqs.length →
    Completes (.chunkRelease c) s fun d =>
      (d.cq c.val).regs.underrunNow = true ∧ (d.cq c.val).regs.underruns = satInc (s.dev.cq c.val).regs.underruns ∧ (d.cq c.val).regs.err.val.getLsbD 2 = true) ∧
  (∀ (s : State) (c : Fin 72) (x : Ctx),
    s.dev.ctx? c.val = some x →
    s.dev.chunkReady x = true →
    x.p.retiring = none →
    (s.dev.site x.site).ccr.signature = (s.dev.site x.site).ccr.sigExp →
    s.dev.mem.wf = true →
    s.dev.mem.poison = [] →
    (s.dev.cq c.val).log = [] →
    (s.dev.site x.site).qnt.work = [] →
    x.p.resets = [] →
    (∀ k ∈ s.dev.plans, k.img.layout.regions = [] ∧ k.retiring = none) →
    (s.dev.cq c.val).pend.Pairwise (fun a b => a.1 < b.1) →
    c.val < s.dev.cqs.length →
    Completes (.chunkCommit c) s fun d =>
      (∀ e ∈ (s.dev.cq c.val).pend, d.byteAt e.1 = e.2) ∧ (d.cq c.val).run = none ∧ (d.cq c.val).pend = [] ∧ d.mem.poison = []) ∧
  (∀ (s : State) (c : Fin 72) (x : Ctx) (a : Nat),
    s.dev.ctx? c.val = some x →
    s.dev.chunkReady x = true →
    x.p.retiring = none →
    (s.dev.site x.site).ccr.signature = (s.dev.site x.site).ccr.sigExp →
    s.dev.mem.wf = true →
    s.dev.mem.poison = [] →
    (s.dev.cq c.val).log = [] →
    (s.dev.site x.site).qnt.work = [] →
    x.p.resets = [] →
    (∀ k ∈ s.dev.plans, k.img.layout.regions = [] ∧ k.retiring = none) →
    (s.dev.cq c.val).pend.all (fun e => e.1 != a) = true →
    Completes (.chunkCommit c) s fun d =>
      d.byteAt a = s.dev.byteAt a) ∧
  (∀ (s : State) (c : Fin 72) (x : Ctx),
    s.dev.ctx? c.val = some x →
    s.dev.chunkReady x = true →
    x.p.retiring = none →
    (s.dev.site x.site).ccr.signature ≠ (s.dev.site x.site).ccr.sigExp →
    x.rc.sigMiss = 0 →
    s.dev.sound x.site →
    x.site < s.dev.sites.length →
    x.site < s.dev.health.siteStates.length →
    Completes (.chunkCommit c) s fun d =>
      d.mem = s.dev.mem ∧ d.siteState x.site = .recovering ∧ (d.site x.site).ccr.checkCnt = satInc (s.dev.site x.site).ccr.checkCnt ∧ (d.site x.site).ccr.err.val.getLsbD 7 = true ∧ (d.cq c.val).pend = (s.dev.cq c.val).pend) ∧
  (∀ (s : State) (c : Fin 72) (p : Plan) (rc : RunChunk),
    s.dev.planOf c.val = some p →
    s.dev.plan? p.handle = some p →
    (s.dev.cq c.val).run = some rc →
    p.retiring ≠ none →
    s.dev.retireOver p rc = true →
    rc.idx < p.chunkStates.length →
    Completes (.retireChunkDiscard c) s fun d =>
      (d.cq c.val).run = none ∧ (d.cq c.val).pend = [] ∧ ((d.plan? p.handle).map (fun q => q.chunkStates.getD rc.idx .waiting)) = some .discarded) ∧
  (∀ (s : State) (e : HeldFlag) (rest : List HeldFlag),
    s.dev.deliveries = e :: rest →
    e.isEvsend = false →
    e.flag < 64 →
    s.dev.siteOf.getD e.core 0xFF < 80 →
    s.dev.siteOf.getD e.core 0xFF < s.dev.sites.length →
    Completes .flagDelivery s fun d =>
      d.deliveries = rest ∧ d.flagSet (s.dev.siteOf.getD e.core 0xFF) e.flag = true ∧ d.mem = s.dev.mem ∧ d.plans = s.dev.plans ∧ d.health = s.dev.health) ∧
  (∀ (s : State) (e : HeldFlag) (rest : List HeldFlag),
    s.dev.deliveries = e :: rest →
    e.isEvsend = true →
    s.dev.siteOf.getD e.core 0xFF < 80 →
    s.dev.flagSet (s.dev.siteOf.getD e.core 0xFF) e.flag = true →
    s.dev.logs →
    Completes .flagDelivery s fun d =>
      d.deliveries = rest ∧ d.flagSet (s.dev.siteOf.getD e.core 0xFF) e.flag = true ∧ d.logged 0 0x1713 e.unit)

/-- Scrub, repair and wipe of the stacks (R279 to R282, R291). -/
def Obligations.StacksAreScrubbedRepairedAndWiped : Prop :=
  (∀ (s : State) (s16 : Fin 16) (found : EccFind),
    (s.dev.stk s16.val).scrubActive = true →
    (s.dev.stk s16.val).lost = false →
    (s.dev.stk s16.val).interval.toNat ≤ s.dev.since (s.dev.stk s16.val).scrubBeat →
    s16.val < s.dev.stks.length →
    s.dev.wipeHolds (64 * (s16.val * (stackSize / 64) + (s.dev.stk s16.val).offset.toNat / 64)) 64 = false →
    found = .clean ∨ s.dev.mem.poison.contains (s16.val * (stackSize / 64) + (s.dev.stk s16.val).offset.toNat / 64) = true →
    Completes (.patrolScrub s16 found) s fun d =>
      d = s.dev.modStk s16.val (fun t => { t with
        scrubBeat := s.dev.bt.beat, offset := t.offset + 64, passes := if t.offset + 64 = 0 then satInc t.passes else t.passes })) ∧
  (∀ (s : State) (s16 : Fin 16),
    (s.dev.stk s16.val).scrubActive = true →
    (s.dev.stk s16.val).lost = false →
    (s.dev.stk s16.val).interval.toNat ≤ s.dev.since (s.dev.stk s16.val).scrubBeat →
    s16.val < s.dev.stks.length →
    s.dev.wipeHolds (64 * (s16.val * (stackSize / 64) + (s.dev.stk s16.val).offset.toNat / 64)) 64 = false →
    s.dev.mem.poison.contains (s16.val * (stackSize / 64) + (s.dev.stk s16.val).offset.toNat / 64) = false →
    Completes (.patrolScrub s16 .corrected) s fun d =>
      (d.stk s16.val).ceCnt = satInc (s.dev.stk s16.val).ceCnt ∧ (d.stk s16.val).ueCnt = (s.dev.stk s16.val).ueCnt ∧ (d.stk s16.val).lastKind = 1 ∧ (d.stk s16.val).lastOffset = BitVec.ofNat 31 (64 * (s16.val * (stackSize / 64) + (s.dev.stk s16.val).offset.toNat / 64) % stackSize) ∧ (d.stk s16.val).offset = (s.dev.stk s16.val).offset + 64 ∧ d.mem = s.dev.mem) ∧
  (∀ (s : State) (s16 : Fin 16),
    (s.dev.stk s16.val).scrubActive = true →
    (s.dev.stk s16.val).lost = false →
    (s.dev.stk s16.val).interval.toNat ≤ s.dev.since (s.dev.stk s16.val).scrubBeat →
    s16.val < s.dev.stks.length →
    s.dev.wipeHolds (64 * (s16.val * (stackSize / 64) + (s.dev.stk s16.val).offset.toNat / 64)) 64 = false →
    s.dev.mem.poison.contains (s16.val * (stackSize / 64) + (s.dev.stk s16.val).offset.toNat / 64) = false →
    s.dev.sharedWord (s16.val * (stackSize / 64) + (s.dev.stk s16.val).offset.toNat / 64) = none →
    s.dev.logs →
    Completes (.patrolScrub s16 .uncorrectable) s fun d =>
      (d.stk s16.val).ueCnt = satInc (s.dev.stk s16.val).ueCnt ∧ d.mem.poison.contains (s16.val * (stackSize / 64) + (s.dev.stk s16.val).offset.toNat / 64) = true ∧ d.mem.bytes = s.dev.mem.bytes ∧ d.logged 4 0x1201 (sramUnit (64 * (s16.val * (stackSize / 64) + (s.dev.stk s16.val).offset.toNat / 64))) ∧ (d.stk s16.val).offset = (s.dev.stk s16.val).offset + 64) ∧
  (∀ (s : State) (s16 : Fin 16) (e : Nat × BitVec 52),
    (s.dev.stk s16.val).weakRows.find? (fun e => 4 ≤ s.dev.rowHits s16.val e.1) = some e →
    s.dev.anyArmed = false →
    s.dev.runs 2 = true →
    (s.dev.stk s16.val).rowsUsed (e.1 / 1024) < 64 →
    s16.val < s.dev.stks.length →
    Completes (.softRepair s16) s fun d =>
      (d.stk s16.val).rowRepairs = satInc (s.dev.stk s16.val).rowRepairs ∧ (d.stk s16.val).weakRows = (s.dev.stk s16.val).weakRows.filter (fun x => x.1 != e.1) ∧ d.health.craterDirty = true ∧ d.mem = s.dev.mem) ∧
  (∀ (s : State) (s16 : Fin 16),
    s.dev.anyArmed = true ∨ s.dev.runs 2 = false →
    Completes (.softRepair s16) s fun d =>
      d = s.dev) ∧
  (∀ (s : State) (s16 : Fin 16) (bad : List (BitVec 25)) (a : Nat),
    s.dev.pwr.phase = .wipe →
    s.dev.pwr.wiped.getD s16.val false = false →
    s.dev.mem.wf = true →
    s16.val * stackSize ≤ a →
    a < (s16.val + 1) * stackSize →
    s.dev.pwr.wiped.length = 16 →
    Completes (.memoryWipe s16 bad) s fun d =>
      d.byteAt a = 0 ∧ d.pwr.wiped.getD s16.val false = true ∧ (d.pwr.phase = .wipe ∨ d.pwr.phase = .waitCfg) ∧ (bad = [] → d.mem.poison.contains (a / 64) = false)) ∧
  (∀ (s : State) (s16 : Fin 16) (bad : List (BitVec 25)) (a : Nat),
    s.dev.pwr.phase = .wipe →
    s.dev.pwr.wiped.getD s16.val false = false →
    s.dev.mem.wf = true →
    a < stackEnd →
    a < s16.val * stackSize ∨ (s16.val + 1) * stackSize ≤ a →
    Completes (.memoryWipe s16 bad) s fun d =>
      d.byteAt a = s.dev.byteAt a) ∧
  (∀ (s : State) (s16 : Fin 16) (n a : Nat) (ps : List RangeEnt) (r : Req),
    s.dev.pwr.phase ≠ .wipe →
    s.dev.wipes = [⟨.create n, ps⟩] →
    ps.all (fun q => stackOfAddr q.base == s16.val) = true →
    ps.any (fun q => decide (q.base ≤ a) && decide (a < q.base + q.len)) = true →
    s.dev.mem.wf = true →
    s.dev.reqs.find? (fun r => r.op == 0x0400 && r.place == .executing) = some r →
    Completes (.memoryWipe s16 []) s fun d =>
      d.byteAt a = 0 ∧ d.wipes = [] ∧ d.dones = s.dev.dones ++ executed r sOk []) ∧
  (∀ (s : State) (s16 : Fin 16) (n a : Nat) (ps : List RangeEnt) (r : Req),
    s.dev.pwr.phase ≠ .wipe →
    s.dev.wipes = [⟨.release n, ps⟩] →
    ps.all (fun q => stackOfAddr q.base == s16.val) = true →
    ps.any (fun q => decide (q.base ≤ a) && decide (a < q.base + q.len)) = true →
    s.dev.mem.wf = true →
    s.dev.reqs.find? (fun r => r.op == 0x0401 && r.place == .executing && fieldLE (mPayload r.msg) 0 1 == n) = some r →
    Completes (.memoryWipe s16 []) s fun d =>
      d.byteAt a = 0 ∧ d.wipes = [] ∧ d.sec.tenancies.getD (n - 1) none = none ∧ d.sec.releasing.contains n = false ∧
      d.plans = s.dev.plans.filter (fun p => p.func != n) ∧ d.dones = s.dev.dones ++ executed r sOk []) ∧
  (∀ (s : State) (s16 : Fin 16) (t : BitVec 2) (a : Nat) (ps : List RangeEnt) (r : Req),
    s.dev.pwr.phase ≠ .wipe →
    s.dev.wipes = [⟨.lifecycle t, ps⟩] →
    ps.all (fun q => stackOfAddr q.base == s16.val) = true →
    ps.any (fun q => decide (q.base ≤ a) && decide (a < q.base + q.len)) = true →
    s.dev.mem.wf = true →
    s.dev.sec.lcFuses.length = 3 →
    s.dev.sec.lcState.toNat < t.toNat →
    s.dev.reqs.find? (fun r => r.op == 0x0410 && r.place == .executing) = some r →
    Completes (.memoryWipe s16 []) s fun d =>
      d.byteAt a = 0 ∧ d.wipes = [] ∧ d.sec.lcState = t ∧ d.sec.debug = false ∧ d.chans = s.dev.chans ∧ d.trc.staged = [] ∧
      (t = 3 → d.sec.slots = List.replicate 8 .empty) ∧ d.dones = s.dev.dones ++ (executed r sOk []).map (fun x => { x with ends := true })) ∧
  (∀ (s : State) (s16 : Fin 16) (bad : List (BitVec 25)),
    s.dev.pwr.phase ≠ .wipe →
    s.dev.wipes = [] →
    Completes (.memoryWipe s16 bad) s fun d =>
      d.mem = s.dev.mem ∧ d.sec = s.dev.sec ∧ d.dones = s.dev.dones) ∧
  (∀ (s : State) (path : RegPath) (s16 : Fin 16) (die : Fin 2) (bank : Fin 128) (row : Fin 1024),
    s.dev.pathOpen path = true →
    path ≠ .spi →
    s.dev.blockUp (.stk s16.val) = true →
    s.dev.repairOpen path = true →
    s16.val < s.dev.stks.length →
    (s.dev.stk s16.val).rowsUsed (128 * die.val + bank.val) < 64 →
    Completes (.fuseSpareRow path s16 die bank row) s fun d =>
      (d.stk s16.val).repData = 1 ∧ (d.stk s16.val).rowsUsed (128 * die.val + bank.val) = (s.dev.stk s16.val).rowsUsed (128 * die.val + bank.val) + 1 ∧ (d.stk s16.val).repRow = BitVec.ofNat 10 row.val ∧ d = s.dev.modStk s16.val (fun _ => (d.stk s16.val))) ∧
  (∀ (s : State) (path : RegPath) (s16 : Fin 16) (die : Fin 2) (bank : Fin 128) (row : Fin 1024),
    s.dev.pathOpen path = true →
    path ≠ .spi →
    s.dev.blockUp (.stk s16.val) = true →
    s.dev.repairOpen path = true →
    s16.val < s.dev.stks.length →
    64 ≤ (s.dev.stk s16.val).rowsUsed (128 * die.val + bank.val) →
    Completes (.fuseSpareRow path s16 die bank row) s fun d =>
      (d.stk s16.val).repData = 2 ∧ (d.stk s16.val).fusedRows = (s.dev.stk s16.val).fusedRows ∧ (d.stk s16.val).softRows = (s.dev.stk s16.val).softRows) ∧
  (∀ (s : State) (path : RegPath) (s16 : Fin 16) (die : Fin 2) (bank : Fin 128) (row : Fin 1024),
    s.dev.pathOpen path = true →
    path ≠ .spi →
    s.dev.blockUp (.stk s16.val) = true →
    s.dev.repairOpen path = true →
    s16.val < s.dev.stks.length →
    die = 0 →
    (s.dev.stk s16.val).spareBanksLo.toNat < 8 →
    Completes (.fuseSpareBank path s16 die bank row) s fun d =>
      (d.stk s16.val).repData = 1 ∧ (d.stk s16.val).spareBanksLo = (s.dev.stk s16.val).spareBanksLo + 1 ∧ (d.stk s16.val).spareBanksHi = (s.dev.stk s16.val).spareBanksHi) ∧
  (∀ (s : State) (path : RegPath) (s16 : Fin 16) (die : Fin 2) (bank : Fin 128) (row : Fin 1024),
    s.dev.pathOpen path = true →
    path ≠ .spi →
    s.dev.blockUp (.stk s16.val) = true →
    s.dev.repairOpen path = true →
    s16.val < s.dev.stks.length →
    die = 1 →
    8 ≤ (s.dev.stk s16.val).spareBanksHi.toNat →
    Completes (.fuseSpareBank path s16 die bank row) s fun d =>
      (d.stk s16.val).repData = 2 ∧ (d.stk s16.val).spareBanksLo = (s.dev.stk s16.val).spareBanksLo ∧ (d.stk s16.val).spareBanksHi = (s.dev.stk s16.val).spareBanksHi) ∧
  (∀ (s : State) (path : RegPath) (s16 : Fin 16) (die : Fin 2) (bank : Fin 128) (row : Fin 1024),
    s.dev.pathOpen path = true →
    path ≠ .spi →
    s.dev.blockUp (.stk s16.val) = true →
    s.dev.repairOpen path = true →
    s16.val < s.dev.stks.length →
    Completes (.rawRead path s16 die bank row) s fun d =>
      (d.stk s16.val).repOp = 3 ∧ (d.stk s16.val).repDie = BitVec.ofNat 1 die.val ∧ (d.stk s16.val).repBank = BitVec.ofNat 7 bank.val ∧
      d = { s.dev.modStk s16.val (fun _ => (d.stk s16.val)) with free := s.dev.free + 1 })

/-- The solver's engines and publications (R295, R302 to R304, R306). -/
def Obligations.SolverMatricesFinishAndPublish : Prop :=
  (∀ (s : State) (e : Fin 4) (key : SolveKey) (i : Nat) (rest : List (SolveKey × Nat)) (j : SolveJob),
    (s.dev.slv.getD e.val {}).queue = (key, i) :: rest →
    s.dev.solves.find? (fun k => k.key == key) = some j →
    e.val < s.dev.slv.length →
    i < j.mats.length →
    Completes (.matrixFinish e false) s fun d =>
      (d.slv.getD e.val {}).jobs = satInc (s.dev.slv.getD e.val {}).jobs ∧ (d.slv.getD e.val {}).busy = satAdd (s.dev.slv.getD e.val {}).busy (j.cyclesOf i) ∧ d.mem = s.dev.mem ∧
      (((d.solves.find? (fun k => k.key == key)).bind (fun k => k.mats[i]?)).bind (·.result)) =
        some (solveMatrix j.kind j.n j.range (j.inputs.getD i (false, [])))) ∧
  (∀ (s : State) (e : Fin 4) (key : SolveKey) (i : Nat) (rest : List (SolveKey × Nat)) (j : SolveJob),
    (s.dev.slv.getD e.val {}).queue = (key, i) :: rest →
    s.dev.solves.find? (fun k => k.key == key) = some j →
    j.mismatch.contains e.val = false →
    e.val < s.dev.slv.length →
    s.dev.logs →
    Completes (.matrixFinish e true) s fun d =>
      (d.slv.getD e.val {}).checkCnt = satInc (s.dev.slv.getD e.val {}).checkCnt ∧ (d.slv.getD e.val {}).queue = (s.dev.slv.getD e.val {}).queue ∧ (d.slv.getD e.val {}).jobs = (s.dev.slv.getD e.val {}).jobs ∧ d.logged 1 0x1301 (unitId 7 e.val) ∧ d.mem = s.dev.mem ∧
      ((d.solves.find? (fun k => k.key == key)).map (·.mismatch)) = some (e.val :: j.mismatch)) ∧
  (∀ (s : State) (e : Fin 4) (key : SolveKey) (i : Nat) (rest : List (SolveKey × Nat)) (j : SolveJob),
    (s.dev.slv.getD e.val {}).queue = (key, i) :: rest →
    s.dev.solves.find? (fun k => k.key == key) = some j →
    j.mismatch.contains e.val = true →
    e.val < s.dev.slv.length →
    s.dev.logs →
    Completes (.matrixFinish e true) s fun d =>
      (d.slv.getD e.val {}).inService = false ∧ (d.slv.getD e.val {}).queue = [] ∧ d.logged 3 0x1302 (unitId 7 e.val) ∧ d.mem = s.dev.mem) ∧
  (∀ (s : State) (j : SolveJob) (p : Plan),
    s.dev.solves.find? s.dev.solveDue = some j →
    s.dev.plan? j.handle = some p →
    s.dev.mem.wf = true →
    s.dev.mem.poison = [] →
    (∀ k ∈ s.dev.plans, k.img.layout.regions = []) →
    j.finished.length = j.batch →
    j.batch ≤ 252 →
    4 * (j.finished.map (·.codes.length)).sum ≤ j.room →
    Completes .solverPublish s fun d =>
      memBytes d.mem.bytes j.dst 64 = freshHeader s.dev j (j.deadline p) ∧
      memBytes d.mem.bytes (j.dst + 64) (16 * j.batch) = j.finished.flatMap statusEntry ∧
      memBytes d.mem.bytes (j.dst + 4096) (j.finished.flatMap (fun r => r.codes.flatMap (bytesLE 4))).length =
        j.finished.flatMap (fun r => r.codes.flatMap (bytesLE 4)) ∧ d.solves.all (fun k => k.key != j.key) = true) ∧
  (∀ (s : State) (j : SolveJob) (p : Plan),
    s.dev.solves.find? s.dev.solveDue = some j →
    s.dev.plan? j.handle = some p →
    s.dev.mem.wf = true →
    s.dev.mem.poison = [] →
    (∀ k ∈ s.dev.plans, k.img.layout.regions = []) →
    j.finished.length ≠ j.batch →
    s.dev.byteAt j.dst ≠ 1 →
    s.dev.byteAt j.dst ≠ 2 →
    s.dev.logs →
    Completes .solverPublish s fun d =>
      d.byteAt j.dst = 3 ∧ d.byteAt (j.dst + 1) = BitVec.ofNat 8 j.kind ∧ d.logged 4 0x1303 0 ∧ d.solves.all (fun k => k.key != j.key) = true) ∧
  (∀ (s : State),
    s.dev.solves.find? s.dev.solveDue = none →
    Completes .solverPublish s fun d =>
      d = s.dev)

/-- Recovery of sites and chunks (R369 to R372). -/
def Obligations.SitesAreRecoveredOntoSpares : Prop :=
  (∀ (s : State) (site : Fin 80) (r : Recovery) (c sp : Nat) (cold : Bool),
    s.dev.health.recoveries.find? (fun x => x.site == site.val && x.phase == .detected) = some r →
    s.dev.runs 2 = true →
    r.core = some c →
    r.fail = site.val →
    r.cause ≠ .swap →
    s.dev.siteState site.val = .recovering →
    (s.dev.planOf c).isSome = true →
    s.dev.chooseSpare (site.val / 5) = some (sp, cold) →
    s.dev.health.siteStates.length = 80 →
    site.val < s.dev.sites.length →
    Completes (.siteRecovery site) s fun d =>
      (d.siteState site.val = .fenced ∨ d.siteState site.val = .permanent) ∧ d.siteState sp = .recovering ∧ d.siteOf = s.dev.siteOf ∧ d.mem = s.dev.mem ∧
      ((d.health.recoveries.find? (fun x => x.site == site.val)).map (fun x => (x.spare, x.cold, x.phase))) = some (some sp, cold, .fenced)) ∧
  (∀ (s : State) (site : Fin 80) (r : Recovery) (c a : Nat),
    s.dev.health.recoveries.find? (fun x => x.site == site.val && x.phase == .detected) = some r →
    s.dev.runs 2 = true →
    r.core = some c →
    r.fail = site.val →
    r.cause ≠ .swap →
    s.dev.siteState site.val = .recovering →
    (s.dev.planOf c).isSome = true →
    s.dev.chooseSpare (site.val / 5) = none →
    c < s.dev.siteOf.length →
    s.dev.logs →
    s.dev.mem.wf = true →
    scratchBase site.val ≤ a →
    a < scratchBase site.val + scratchSize →
    s.dev.health.siteStates.length = 80 →
    site.val < s.dev.sites.length →
    Completes (.siteRecovery site) s fun d =>
      (d.siteState site.val = .fenced ∨ d.siteState site.val = .permanent) ∧ d.siteOf.getD c 0xFF = 0xFE ∧ d.logged 4 0x1702 (siteUnit site.val) ∧ d.byteAt a = 0 ∧
      d.health.recoveries.all (fun x => x.site != site.val) = true) ∧
  (∀ (s : State) (site : Fin 80) (r : Recovery) (c : Nat),
    s.dev.health.recoveries.find? (fun x => x.site == site.val && x.phase == .detected) = some r →
    s.dev.runs 2 = true →
    r.core = some c →
    r.fail = site.val →
    r.cause = .swap →
    (s.dev.planOf c).isSome = true →
    s.dev.chooseSpare (site.val / 5) = none →
    s.dev.health.siteStates.length = 80 →
    Completes (.siteRecovery site) s fun d =>
      d.siteState site.val = .inService ∧ d.siteOf = s.dev.siteOf ∧ d.mem = s.dev.mem ∧ d.health.recoveries.all (fun x => x.site != site.val) = true) ∧
  (∀ (s : State) (site : Fin 80),
    s.dev.health.recoveries.find? (fun x => x.site == site.val && x.phase == .detected) = none →
    Completes (.siteRecovery site) s fun d =>
      d = s.dev) ∧
  (∀ (s : State) (site : Fin 80) (ok : Bool) (r : Recovery) (c sp : Nat),
    s.dev.health.recoveries.find? (fun x => x.site == site.val && x.phase == .fenced) = some r →
    r.core = some c →
    r.spare = some sp →
    s.dev.domUp sp = true →
    (r.cold = false ∨ ok = true) →
    (s.dev.planOf c).isSome = true →
    c < s.dev.siteOf.length →
    Completes (.spareInService site ok) s fun d =>
      d.siteOf.getD c 0xFF = sp ∧ d.mem.bytes = memZero s.dev.mem.bytes (scratchBase sp) 0x1000000 ∧ ((d.health.recoveries.find? (fun x => x.site == site.val)).map (·.phase)) = some .inService) ∧
  (∀ (s : State) (site : Fin 80) (r : Recovery) (c sp : Nat),
    s.dev.health.recoveries.find? (fun x => x.site == site.val && x.phase == .fenced) = some r →
    r.core = some c →
    r.spare = some sp →
    s.dev.domUp sp = true →
    r.cold = true →
    Completes (.spareInService site false) s fun d =>
      d.siteOf = s.dev.siteOf ∧ d.mem = s.dev.mem ∧ ((d.health.recoveries.find? (fun x => x.site == site.val)).map (fun x => (x.phase, x.spare, x.fail))) = some (.detected, none, sp)) ∧
  (∀ (s : State) (site : Fin 80) (r : Recovery) (c sp a : Nat) (p : Plan) (rc : RunChunk),
    s.dev.health.recoveries.find? (fun x => x.site == site.val && x.phase == .inService) = some r →
    r.core = some c →
    r.spare = some sp →
    s.dev.planOf c = some p →
    (s.dev.cq c).run = some rc →
    p.img.texts = [] →
    sp ≠ site.val →
    r.cause ≠ .swap →
    r.cause ≠ .inPlace →
    s.dev.mem.wf = true →
    a < scratchSize →
    c < s.dev.cqs.length →
    sp < s.dev.health.siteStates.length →
    Completes (.stateLoadDone site) s fun d =>
      d.byteAt (scratchBase sp + a) = s.dev.byteAt (scratchBase site.val + a) ∧ d.byteAt (scratchBase site.val + a) = 0 ∧ d.siteState sp = .inService ∧
      ((d.cq c).run.map (fun x => (x.idx, x.attempt))) = some (rc.idx, rc.attempt + 1) ∧ (d.cq c).pend = [] ∧
      d.health.recoveries.all (fun x => x.site != site.val) = true) ∧
  (∀ (s : State) (site : Fin 80) (r : Recovery) (c sp : Nat) (p : Plan),
    s.dev.health.recoveries.find? (fun x => x.site == site.val && x.phase == .inService) = some r →
    r.core = some c →
    r.spare = some sp →
    s.dev.planOf c = some p →
    s.dev.plan? p.handle = some p →
    (s.dev.cq c).run = none →
    p.planCore c < p.pastSites.length →
    sp ≠ site.val →
    r.cause ≠ .swap →
    r.cause ≠ .inPlace →
    Completes (.stateLoadDone site) s fun d =>
      ((d.plan? p.handle).map (fun q => q.pastSites.getD (p.planCore c) [])) = some (p.pastSites.getD (p.planCore c) [] ++ [site.val])) ∧
  (∀ (s : State) (site : Fin 80) (r : Recovery) (c sp : Nat) (p : Plan) (rc : RunChunk),
    s.dev.health.recoveries.find? (fun x => x.site == site.val && x.phase == .inService) = some r →
    r.core = some c →
    r.spare = some sp →
    r.cause = .inPlace →
    s.dev.planOf c = some p →
    (s.dev.cq c).run = some rc →
    p.img.texts = [] →
    c < s.dev.cqs.length →
    Completes (.stateLoadDone site) s fun d =>
      ((d.cq c).run.map (fun x => (x.idx, x.attempt, x.inPlace))) = some (rc.idx, rc.attempt + 1, rc.inPlace + 1) ∧ (d.cq c).pend = [] ∧ d.mem = s.dev.mem ∧
      d.siteOf = s.dev.siteOf ∧ d.health.siteStates = s.dev.health.siteStates ∧ d.health.recoveries.all (fun x => x.site != site.val) = true) ∧
  (∀ (s : State) (c : Fin 72) (addr : Fin 34359738368) (x : Ctx),
    s.dev.ctx? c.val = some x →
    (s.dev.cq c.val).pend.any (fun e => decide (addr.val / 128 * 128 ≤ e.1) && decide (e.1 < addr.val / 128 * 128 + 128)) = true →
    x.rc.inPlace = 0 →
    c.val < s.dev.cqs.length →
    Completes (.inPlaceRecompute c addr) s fun d =>
      (d.cq c.val).pend = [] ∧ ((d.health.recoveries.getLast?).map (fun y => (y.site, y.core, y.cause, y.phase))) = some (x.site, some c.val, .inPlace, .inService) ∧
      d.ownedNow = true ∧ d.mem = s.dev.mem ∧ d.siteOf = s.dev.siteOf ∧ d.siteState x.site = .inService) ∧
  (∀ (s : State) (c : Fin 72) (addr : Fin 34359738368) (x : Ctx),
    s.dev.ctx? c.val = some x →
    (s.dev.cq c.val).pend.any (fun e => decide (addr.val / 128 * 128 ≤ e.1) && decide (e.1 < addr.val / 128 * 128 + 128)) = true →
    x.rc.inPlace ≠ 0 →
    s.dev.sound x.site →
    x.site < s.dev.health.siteStates.length →
    Completes (.inPlaceRecompute c addr) s fun d =>
      d.siteState x.site = .recovering ∧ d.mem = s.dev.mem) ∧
  (∀ (s : State) (c : Fin 72) (site : Fin 80) (p : Plan),
    s.dev.planOf c.val = some p →
    s.dev.siteOf.getD c.val 0xFF = site.val →
    s.dev.siteState site.val = .inService →
    s.dev.testIsDue site.val (hourBeats + 1) = true →
    (s.dev.cq c.val).run = none →
    (s.dev.cq c.val).vent = none →
    (s.dev.chooseSpare (site.val / 5)).isSome = true →
    p.faultStep ≠ some p.curStep →
    s.dev.health.siteStates.length = 80 →
    Completes (.overdueSwap c) s fun d =>
      d.siteState site.val = .recovering ∧ d.mem = s.dev.mem ∧ ((d.health.recoveries.getLast?).map (fun x => (x.site, x.core, x.cause))) = some (site.val, some c.val, .swap)) ∧
  (∀ (s : State) (c : Fin 72) (site : Fin 80) (p : Plan),
    s.dev.planOf c.val = some p →
    s.dev.siteOf.getD c.val 0xFF = site.val →
    s.dev.siteState site.val = .inService →
    s.dev.testIsDue site.val (hourBeats + 1) = true →
    (s.dev.cq c.val).run = none →
    (s.dev.cq c.val).vent = none →
    s.dev.chooseSpare (site.val / 5) = none →
    s.dev.health.overdueNoted.getD site.val none = none →
    s.dev.logs →
    Completes (.overdueSwap c) s fun d =>
      d.siteState site.val = .inService ∧ d.logged 1 0x1709 (siteUnit site.val) ∧ d.plans = s.dev.plans ∧ d.mem = s.dev.mem)

/-- Monitors, spares and tests (R370, R373 to R381). -/
def Obligations.MonitorsAndTestsOfSites : Prop :=
  (∀ (s : State) (c : Fin 72) (u : Fin 9) (x : Ctx) (f : Flight),
    s.dev.ctx? c.val = some x →
    (s.dev.cq c.val).flights.find? (fun f => !f.ended && 32 ≤ f.idle && unitOf (cmdOp f.bytes) == u.val) = some f →
    s.dev.sound x.site →
    x.site < s.dev.health.siteStates.length →
    Completes (.progressStop c u) s fun d =>
      d.siteState x.site = .recovering ∧ d.mem = s.dev.mem ∧ d.cqs = s.dev.cqs ∧ ((d.health.recoveries.getLast?).map (fun y => (y.site, y.err))) = some (x.site, BitVec.ofNat 16 u.val)) ∧
  (∀ (s : State) (c : Fin 72) (u : Fin 9) (x : Ctx),
    s.dev.ctx? c.val = some x →
    (s.dev.cq c.val).flights.find? (fun f => !f.ended && 32 ≤ f.idle && unitOf (cmdOp f.bytes) == u.val) = none →
    Completes (.progressStop c u) s fun d =>
      d = s.dev) ∧
  (∀ (s : State) (c : Fin 72) (x : Ctx),
    s.dev.ctx? c.val = some x →
    x.rc.wdogNoted = false →
    x.chunk.wc ≤ x.rc.wdog →
    s.dev.logs →
    Completes (.watchdogOverrun c) s fun d =>
      d.logged 0 0x1704 (siteUnit x.site) ∧ ((d.cq c.val).run.map (·.wdogNoted)) = some true ∧ d.mem = s.dev.mem) ∧
  (∀ (s : State) (c : Fin 72) (x : Ctx),
    s.dev.ctx? c.val = some x →
    x.rc.wdog < x.chunk.wc ∨ x.rc.wdogNoted = true →
    Completes (.watchdogOverrun c) s fun d =>
      d = s.dev) ∧
  (∀ (s : State) (c : Fin 72) (x : Ctx),
    s.dev.ctx? c.val = some x →
    x.chunk.wc + s.dev.health.wdogGrace.toNat ≤ x.rc.wdog →
    (s.dev.cq c.val).regs.halted = false →
    x.rc.progFault = false →
    x.rc.wdogHits = 0 →
    s.dev.sound x.site →
    x.site < s.dev.health.siteStates.length →
    Completes (.commandWatchdogExpiry c) s fun d =>
      d.siteState x.site = .recovering ∧ d.health.events.val.getLsbD 5 = true ∧ d.mem = s.dev.mem) ∧
  (∀ (s : State) (c : Fin 72) (x : Ctx),
    s.dev.ctx? c.val = some x →
    x.chunk.wc + s.dev.health.wdogGrace.toNat ≤ x.rc.wdog →
    (s.dev.cq c.val).regs.halted = false →
    x.rc.progFault = false →
    x.rc.wdogHits ≠ 0 →
    s.dev.logs →
    Completes (.commandWatchdogExpiry c) s fun d =>
      (d.cq c.val).regs.halted = true ∧ d.logged 4 0x1705 (siteUnit x.site) ∧ d.siteState x.site = .inService ∧ d.mem = s.dev.mem) ∧
  (∀ (s : State) (site : Fin 80) (a : Nat),
    s.dev.anyArmed = true →
    s.dev.runs 2 = true →
    s.dev.firmwareUp = true →
    (∀ k : Fin 5, s.dev.siteState (5 * (site.val / 5) + k.val) ≠ .warm) →
    (∀ k : Fin 5, s.dev.siteState (5 * (site.val / 5) + k.val) ≠ .held ∨ site.val ≤ 5 * (site.val / 5) + k.val) →
    s.dev.siteState site.val = .held →
    s.dev.domUp site.val = true →
    s.dev.mem.wf = true →
    scratchBase site.val ≤ a →
    a < scratchBase site.val + scratchSize →
    s.dev.health.siteStates.length = 80 →
    Completes (.spareWarm site true) s fun d =>
      d.siteState site.val = .warm ∧ d.byteAt a = 0 ∧ d.health.crater = s.dev.health.crater) ∧
  (∀ (s : State) (site : Fin 80),
    s.dev.anyArmed = true →
    s.dev.runs 2 = true →
    s.dev.firmwareUp = true →
    (∀ k : Fin 5, s.dev.siteState (5 * (site.val / 5) + k.val) ≠ .warm) →
    (∀ k : Fin 5, s.dev.siteState (5 * (site.val / 5) + k.val) ≠ .held ∨ site.val ≤ 5 * (site.val / 5) + k.val) →
    s.dev.siteState site.val = .held →
    s.dev.domUp site.val = true →
    s.dev.health.siteStates.length = 80 →
    Completes (.spareWarm site false) s fun d =>
      (d.siteState site.val = .fenced ∨ d.siteState site.val = .permanent) ∧ d.mem = s.dev.mem) ∧
  (∀ (s : State) (site : Fin 80) (ok : Bool),
    s.dev.anyArmed = false →
    Completes (.spareWarm site ok) s fun d =>
      d = s.dev) ∧
  (∀ (s : State),
    s.dev.health.craterDirty = true →
    s.dev.runs 2 = true →
    Completes .craterTableSave s fun d =>
      d.health.flashCrater = s.dev.health.crater ∧ d.health.craterDirty = false ∧ d.health.flashRows = s.dev.stks.map (fun k => k.softRows) ∧ d = { s.dev with health := d.health }) ∧
  (∀ (s : State) (site : Fin 80),
    s.dev.siteState site.val = .fenced →
    s.dev.health.testedSince.getD site.val none = none →
    s.dev.runs 2 = true →
    s.dev.health.recoveries.all (fun r => r.site != site.val && r.fail != site.val) = true →
    s.dev.health.siteStates.length = 80 →
    Completes (.fencedSiteTest site) s fun d =>
      d.siteState site.val = .underTest ∧ ((d.health.tests.getLast?).map (fun t => (t.site, t.id, t.prior))) = some (site.val, 1, some .fenced) ∧ d.mem.bytes = memZero s.dev.mem.bytes (scratchBase site.val) 0x1000000) ∧
  (∀ (s : State) (site : Fin 80),
    s.dev.testIsDue site.val 0 = true →
    s.dev.runs 2 = true →
    s.dev.firmwareUp = true →
    s.dev.siteState site.val = .held ∨ s.dev.siteState site.val = .warm →
    s.dev.health.siteStates.length = 80 →
    Completes (.testDue site) s fun d =>
      d.siteState site.val = .underTest ∧ ((d.health.tests.getLast?).map (fun t => (t.site, t.id, t.prior))) = some (site.val, 1, some (s.dev.siteState site.val)) ∧ d.mem.bytes = memZero s.dev.mem.bytes (scratchBase site.val) 0x1000000) ∧
  (∀ (s : State) (site : Fin 80),
    s.dev.testIsDue site.val 0 = true →
    s.dev.runs 2 = true →
    s.dev.firmwareUp = true →
    s.dev.siteState site.val = .inService →
    site.val < s.dev.health.overdue.length →
    Completes (.testDue site) s fun d =>
      d.health.overdue.getD site.val false = true ∧ d = { s.dev with health := { s.dev.health with overdue := d.health.overdue } }) ∧
  (∀ (s : State) (site : Fin 80) (t : TestRun) (b : BitVec 52),
    s.dev.health.tests.find? (fun t => t.site == site.val) = some t →
    t.start = some b →
    testLen t.id ≤ s.dev.since b →
    t.prior = some .held →
    s.dev.logs →
    s.dev.health.siteStates.length = 80 →
    site.val < s.dev.sites.length →
    Completes (.testDone site .pass) s fun d =>
      d.siteState site.val = .held ∧ d.logged 0 0x1706 (siteUnit site.val) ∧ (d.site site.val).acc.rows = [] ∧ (d.site site.val).lbk.set0 = {} ∧ (d.site site.val).lbk.set1 = {} ∧ d.mem = s.dev.mem ∧
      d.health.tests.all (fun y => y.site != site.val) = true) ∧
  (∀ (s : State) (site : Fin 80) (lane : Fin 513) (t : TestRun) (b : BitVec 52) (k : Nat),
    s.dev.health.tests.find? (fun t => t.site == site.val) = some t →
    t.start = some b →
    testLen t.id ≤ s.dev.since b →
    t.prior = some .held →
    s.dev.logs →
    (s.dev.site site.val).lbk.spareMap.findIdx? (fun e => !e.getLsbD 15) = some k →
    s.dev.health.siteStates.length = 80 →
    site.val < s.dev.sites.length →
    Completes (.testDone site (.lanes [lane])) s fun d =>
      (d.site site.val).lbk.spareMap = (s.dev.site site.val).lbk.spareMap.set k (BitVec.ofNat 16 (0x8000 + lane.val)) ∧ d.logged 1 0x1707 (siteUnit site.val) ∧ d.siteState site.val = .held) ∧
  (∀ (s : State) (site : Fin 80) (t : TestRun) (b : BitVec 52),
    s.dev.health.tests.find? (fun t => t.site == site.val) = some t →
    t.start = some b →
    testLen t.id ≤ s.dev.since b →
    t.prior = some .held →
    s.dev.health.siteStates.length = 80 →
    site.val < s.dev.sites.length →
    Completes (.testDone site .fail) s fun d =>
      (d.siteState site.val = .fenced ∨ d.siteState site.val = .permanent) ∧ d.health.events.val.getLsbD 3 = true ∧ d.mem = s.dev.mem) ∧
  (∀ (s : State) (site : Fin 80) (t : TestRun) (b : BitVec 52),
    s.dev.health.tests.find? (fun t => t.site == site.val) = some t →
    t.start = some b →
    testLen t.id ≤ s.dev.since b →
    t.prior = none →
    s.dev.siteState site.val = .inService →
    s.dev.health.siteStates.length = 80 →
    site.val < s.dev.sites.length →
    Completes (.testDone site .fail) s fun d =>
      d.siteState site.val = .recovering ∧ ((d.health.recoveries.getLast?).map (fun x => (x.site, x.cause))) = some (site.val, .test) ∧ d.mem = s.dev.mem)

/-- Heals and lost units (R382 to R384). -/
def Obligations.HealsAndLosses : Prop :=
  (∀ (s : State) (x : Heal) (rest : List Heal) (n : Nat) (g : SharedRegion),
    s.dev.health.heals = x :: rest →
    x.asked = none →
    s.dev.runs 2 = true →
    s.dev.sharedWord x.word = some n →
    s.dev.shared.getD n none = some g →
    s.dev.health.sharedPeer ≠ 0x7FFF →
    s.dev.reaches s.dev.health.sharedPeer = true →
    Completes .healRequest s fun d =>
      d.controlOut s.dev.health.sharedPeer 0 (.healReq x.word n g.base) = true ∧ d.health.heals = { x with asked := some s.dev.bt.beat } :: rest ∧ d.mem = s.dev.mem) ∧
  (∀ (s : State) (p w n base : Nat) (f : Flit) (rest : List (Nat × Flit)) (g : SharedRegion),
    s.dev.lnk.inbox = (p, f) :: rest →
    f.body = .healReq w n base →
    s.dev.shared.getD n none = some g →
    g.base = base →
    meets (64 * w) 64 g.base g.len = true →
    s.dev.mem.poison.contains w = false →
    s.dev.wipeHolds (64 * w) 64 = false →
    s.dev.reaches f.src = true →
    Completes .healServe s fun d =>
      d.controlOut f.src 0 (.healAns w (some (memBytes s.dev.mem.bytes (64 * w) 64))) = true ∧ d.lnk.inbox = rest ∧ d.mem = s.dev.mem) ∧
  (∀ (s : State) (p w n base : Nat) (f : Flit) (rest : List (Nat × Flit)),
    s.dev.lnk.inbox = (p, f) :: rest →
    f.body = .healReq w n base →
    s.dev.mem.poison.contains w = true ∨ s.dev.shared.getD n none = none →
    s.dev.wipeHolds (64 * w) 64 = false →
    s.dev.reaches f.src = true →
    Completes .healServe s fun d =>
      d.controlOut f.src 0 (.healAns w none) = true ∧ d.lnk.inbox = rest ∧ d.mem = s.dev.mem) ∧
  (∀ (s : State) (p : Nat) (f : Flit) (fs : List (Nat × Flit)) (x : Heal) (rest : List Heal) (bs : List Byte),
    s.dev.lnk.inbox = (p, f) :: fs →
    f.body = .healAns x.word (some bs) →
    s.dev.health.heals = x :: rest →
    x.asked ≠ none →
    bs.length = 64 →
    s.dev.mem.poison.contains x.word = true →
    s.dev.wipeHolds (64 * x.word) 64 = false →
    s.dev.mem.wf = true →
    s.dev.logs →
    Completes .healData s fun d =>
      memBytes d.mem.bytes (64 * x.word) 64 = bs ∧ d.mem.poison = s.dev.mem.poison.filter (fun y => y != x.word) ∧ d.health.heals = rest ∧ d.logged 1 0x170B (sramUnit (64 * x.word))) ∧
  (∀ (s : State) (x : Heal) (rest : List Heal) (b : BitVec 52) (n : Nat),
    s.dev.health.heals = x :: rest →
    x.asked = some b →
    30000000 < s.dev.since b →
    s.dev.sharedWord x.word = some n →
    s.dev.logs →
    Completes .healTimeout s fun d =>
      d.health.heals = rest ∧ d.logged 4 0x0601 (sramUnit (64 * x.word)) ∧ d.mem = s.dev.mem ∧ (∀ k ∈ s.dev.plans, k.live = true → k.img.layout.sharedRead.getLsbD n = true → ∀ c ∈ k.cores, c < s.dev.cqs.length → (d.cq c).regs.halted = true)) ∧
  (∀ (s : State) (x : Heal) (rest : List Heal) (b : BitVec 52),
    s.dev.health.heals = x :: rest →
    x.asked = some b →
    s.dev.since b ≤ 30000000 →
    Completes .healTimeout s fun d =>
      d = s.dev) ∧
  (∀ (s : State) (k : Fin 16),
    (s.dev.stk k.val).lost = false →
    16 < ((s.dev.stk k.val).poisonBeats.filter (fun b => s.dev.since b < 1000)).length →
    k.val < s.dev.stks.length →
    s.dev.logs →
    Completes (.stackLost (.stack k)) s fun d =>
      (d.stk k.val).lost = true ∧ d.dom (96 + 2 * k.val) ≠ .on ∧ d.dom (97 + 2 * k.val) ≠ .on ∧ d.logged 4 0x170E (unitId 2 (2 * k.val)) ∧ (∀ p ∈ s.dev.plans, p.live = true → s.dev.usesStack p k.val = true → ∀ c ∈ p.cores, c < s.dev.cqs.length → (d.cq c).regs.halted = true)) ∧
  (∀ (s : State) (k : Fin 16),
    ((s.dev.stk k.val).poisonBeats.filter (fun b => s.dev.since b < 1000)).length ≤ 16 →
    Completes (.stackLost (.stack k)) s fun d =>
      d = s.dev) ∧
  (∀ (s : State) (k : Fin 16),
    s.dev.isFenced (unitId 3 k.val) = false →
    s.dev.crater? (unitId 3 k.val) = none →
    s.dev.health.siteStates.length = 80 →
    k.val < s.dev.stks.length →
    s.dev.logs →
    Completes (.stackLost (.die k)) s fun d =>
      (∀ i : Fin 5, d.siteState (5 * k.val + i.val) = .lost) ∧ (d.stk k.val).lost = true ∧ d.logged 4 0x170E (unitId 3 k.val) ∧ d.dom (80 + k.val) ≠ .on ∧ (s.dev.health.recoveries = [] → d.mem = s.dev.mem)) ∧
  (∀ (s : State) (k : Fin 80),
    (s.dev.health.recoveries.find? (fun r => r.site == k.val && r.cause != .inPlace)).isSome = true →
    k.val < s.dev.health.siteStates.length →
    s.dev.logs →
    Completes (.stackLost (.site k)) s fun d =>
      d.siteState k.val = .lost ∧ d.health.recoveries.all (fun r => r.site != k.val) = true ∧ d.logged 4 0x170E (siteUnit k.val) ∧ (∀ p ∈ s.dev.plans, p.live = true → s.dev.usesSite p (fun m => m == k.val) = true → ∀ c ∈ p.cores, c < s.dev.cqs.length → (d.cq c).regs.halted = true))

/-- Flush, LOST records and TRC_CTRL (R390, R392 to R394). -/
def Obligations.TraceFlushesLosesAndSwitchesOff : Prop :=
  (∀ (s : State) (e : StageEnt) (rest : List StageEnt),
    s.dev.trc.staged = e :: rest →
    s.dev.trc.flushBeats.toNat ≤ s.dev.since e.beat →
    s.dev.trc.downDue = false →
    s.dev.dom 170 = .on →
    (s.dev.upPorts (if e.plan.isSome then e.func else 0)).isEmpty = false →
    s.dev.stm.hasRoom (48 + (s.dev.trc.staged.map (fun g => g.bytes.length)).sum) = true →
    Completes .traceFlush s fun d =>
      d.trc.sent = s.dev.trc.sent + 1 ∧ d.stm.outq.length = s.dev.stm.outq.length + 1 ∧
      ((d.stm.outq.getLast?).map (fun r => (r.kind, r.streamId, r.func, (r.bytes.drop 48).take e.bytes.length))) = some (3, e.sid.toNat, (if e.plan.isSome then e.func else 0), e.bytes) ∧
      d = { s.dev with trc := d.trc, stm := d.stm }) ∧
  (∀ (s : State),
    s.dev.trc.staged.all (fun e => decide (s.dev.since e.beat < s.dev.trc.flushBeats.toNat)) = true →
    s.dev.trc.downDue = false →
    Completes .traceFlush s fun d =>
      d = s.dev) ∧
  (∀ (s : State) (n : Nat) (a z : BitVec 64),
    s.dev.trc.lostRun = some (n, a, z) →
    s.dev.trc.used < 16384 →
    s.dev.trc.downDue = false →
    Completes .traceLostRecord s fun d =>
      d = { s.dev with trc := { s.dev.trc with
        lostRun := none
        staged := s.dev.trc.staged ++ [⟨s.dev.trc.sidDefault, none, 0, lostRecord s.dev.now n a z, s.dev.bt.beat⟩] } }) ∧
  (∀ (s : State) (path : RegPath) (v : BitVec 64),
    s.dev.pathOpen path = true →
    s.dev.pwr.ctlUp = true →
    v.getLsbD 0 = true →
    Completes (.traceCtrlWrite path v) s fun d =>
      d.trc.en = true ∧ d.trc.healthEn = v.getLsbD 1 ∧ d.trc.abandoned = v.getLsbD 2 ∧ d.trc.domainEn = v.getLsbD 3 ∧ d.trc.downDue = false ∧
      d.trc.recKib = (if bitsOf v.toNat 19 16 = 0 then s.dev.trc.recKib else BitVec.ofNat 4 (bitsOf v.toNat 19 16)) ∧
      d.trc.flushBeats = (if 1000 ≤ bitsOf v.toNat 39 24 then BitVec.ofNat 16 (bitsOf v.toNat 39 24) else s.dev.trc.flushBeats) ∧ d.mem = s.dev.mem) ∧
  (∀ (s : State) (path : RegPath) (v : BitVec 64),
    s.dev.pathOpen path = true →
    s.dev.pwr.ctlUp = true →
    v.getLsbD 0 = false →
    v.getLsbD 1 = false →
    v.getLsbD 3 = false →
    s.dev.trc.en = true →
    s.dev.trc.staged = [] →
    s.dev.trc.lostRun = none →
    s.dev.dom 170 = .on →
    Completes (.traceCtrlWrite path v) s fun d =>
      d.trc.en = false ∧ d.trc.healthEn = false ∧ d.dom 170 = .ramping ∧ d.goesDown 170 = true)

/-- JTAG (R397, R398); what SAMPLE captures is a free value. -/
def Obligations.TapInstructionsSelect : Prop :=
  (∀ (s : State),
    s.dev.pwr.vauxOk = true →
    Completes .idcode s fun d =>
      d = { s.dev with jtag := d.jtag } ∧ d.jtag.ir = 0x01 ∧ d.tapActs = 0x01 ∧ leNat d.jtag.data = 0xA0040393) ∧
  (∀ (s : State),
    s.dev.pwr.vauxOk = true →
    Completes .tapReset s fun d =>
      d = { s.dev with jtag := { s.dev.jtag with ir := 0x01 } }) ∧
  (∀ (s : State) (bits : List Bool),
    s.dev.pwr.vauxOk = true →
    Completes (.samplePreload bits) s fun d =>
      d.jtag.ir = 0x02 ∧ d.tapActs = 0x02 ∧ d.jtag.preload = bits ∧ d = { s.dev with jtag := d.jtag, free := s.dev.free + 1 }) ∧
  (∀ (s : State),
    s.dev.pwr.vauxOk = true →
    Completes .extest s fun d =>
      d = { s.dev with jtag := d.jtag } ∧ d.tapActs = (if s.dev.pwr.sysRst then 0x03 else 0xFF)) ∧
  (∀ (s : State),
    s.dev.pwr.vauxOk = true →
    Completes .clamp s fun d =>
      d = { s.dev with jtag := d.jtag } ∧ d.tapActs = (if s.dev.pwr.sysRst then 0x04 else 0xFF)) ∧
  (∀ (s : State),
    s.dev.pwr.vauxOk = true →
    Completes .highz s fun d =>
      d = { s.dev with jtag := d.jtag } ∧ d.tapActs = (if s.dev.pwr.sysRst then 0x05 else 0xFF)) ∧
  (∀ (s : State),
    s.dev.pwr.vauxOk = true →
    Completes .ijtagSel s fun d =>
      d = { s.dev with jtag := d.jtag } ∧ d.tapActs = (if s.dev.sec.debug then 0x10 else 0xFF)) ∧
  (∀ (s : State) (code : BitVec 8) (tdi : List Bool),
    s.dev.pwr.vauxOk = true →
    Completes (.bypass ⟨code, tdi⟩) s fun d =>
      d = { s.dev with jtag := d.jtag } ∧ d.tapActs = 0xFF ∧ d.jtag.bypassBit = tdi.getLastD false ∧ d.jtag.tdo = (false :: tdi).take tdi.length) ∧
  (∀ (s : State) (off : BitVec 32) (b : Block),
    s.dev.pwr.vauxOk = true →
    s.dev.tapActs = 0x10 →
    off.toNat % 8 = 0 →
    blockOf off.toNat = some b →
    s.dev.blockUp b = true →
    Completes (.ijtagAccess (.regRead off)) s fun d =>
      d = { s.dev with jtag := d.jtag } ∧ leNat d.jtag.data = (s.dev.readReg .jtag b (off.toNat % 0x1000)).toNat) ∧
  (∀ (s : State) (n : Fin 80) (off : Fin 8388608) (len : Fin 4097),
    s.dev.pwr.vauxOk = true →
    s.dev.tapActs = 0x10 →
    s.dev.siteStopped n.val = true →
    s.dev.domUp n.val = true →
    Completes (.ijtagAccess (.scratch n off len)) s fun d =>
      d = { s.dev with jtag := d.jtag } ∧ d.jtag.data = viewBytes (s.dev.sitePend n.val) s.dev.mem.bytes (scratchBase n.val + off.val) len.val ∧ d.jtag.notStopped = s.dev.jtag.notStopped) ∧
  (∀ (s : State) (n : Fin 80) (off : Fin 8388608) (len : Fin 4097),
    s.dev.pwr.vauxOk = true →
    s.dev.tapActs = 0x10 →
    s.dev.siteStopped n.val = false →
    Completes (.ijtagAccess (.scratch n off len)) s fun d =>
      d = { s.dev with jtag := d.jtag } ∧ d.jtag.data = [0] ∧ d.jtag.notStopped = true) ∧
  (∀ (s : State) (a : IjtagOp),
    s.dev.tapActs ≠ 0x10 →
    Completes (.ijtagAccess a) s fun d =>
      d = s.dev)

/-- R449, for every frame of R447: what a discarded frame leaves. -/
def Obligations.DiscardedFramesChangeNothing : Prop :=
  (∀ (s : State) (cmd : BitVec 8) (edges : Nat),
    s.dev.pwr.vauxOk = true →
    spiLength cmd 0 = none →
    Completes (.status cmd edges) s fun d =>
      d = { s.dev with mgt := { s.dev.mgt with
        status := s.dev.statusByte, miso := d.mgt.miso, spiErr := satInc s.dev.mgt.spiErr, frameErr := true, accErr := d.mgt.accErr } } ∧
      d.statusByte.getLsbD 7 = true) ∧
  (∀ (s : State) (edges : Nat),
    s.dev.pwr.vauxOk = true →
    edges ≠ 8 * (1) →
    Completes (.status 0x00 edges) s fun d =>
      d = { s.dev with mgt := { s.dev.mgt with
        status := s.dev.statusByte, miso := d.mgt.miso, spiErr := satInc s.dev.mgt.spiErr, frameErr := true, accErr := d.mgt.accErr } } ∧
      d.statusByte.getLsbD 7 = true) ∧
  (∀ (s : State) (addr : BitVec 48) (edges : Nat),
    s.dev.pwr.vauxOk = true →
    edges ≠ 8 * (7) →
    Completes (.regRead addr edges) s fun d =>
      d = { s.dev with mgt := { s.dev.mgt with
        status := s.dev.statusByte, miso := d.mgt.miso, spiErr := satInc s.dev.mgt.spiErr, frameErr := true, accErr := d.mgt.accErr } } ∧
      d.statusByte.getLsbD 7 = true) ∧
  (∀ (s : State) (addr : BitVec 48) (data : BitVec 64) (edges : Nat),
    s.dev.pwr.vauxOk = true →
    edges ≠ 8 * (15) →
    Completes (.regWrite addr data edges) s fun d =>
      d = { s.dev with mgt := { s.dev.mgt with
        status := s.dev.statusByte, miso := d.mgt.miso, spiErr := satInc s.dev.mgt.spiErr, frameErr := true, accErr := d.mgt.accErr } } ∧
      d.statusByte.getLsbD 7 = true) ∧
  (∀ (s : State) (edges : Nat),
    s.dev.pwr.vauxOk = true →
    edges ≠ 8 * (9) →
    Completes (.dataRead edges) s fun d =>
      d = { s.dev with mgt := { s.dev.mgt with
        status := s.dev.statusByte, miso := d.mgt.miso, spiErr := satInc s.dev.mgt.spiErr, frameErr := true, accErr := d.mgt.accErr } } ∧
      d.statusByte.getLsbD 7 = true) ∧
  (∀ (s : State) (off n : BitVec 16) (data : List Byte) (edges : Nat),
    s.dev.pwr.vauxOk = true →
    edges ≠ 8 * (5 + n.toNat) →
    Completes (.ch7Write off n data edges) s fun d =>
      d = { s.dev with mgt := { s.dev.mgt with
        status := s.dev.statusByte, miso := d.mgt.miso, spiErr := satInc s.dev.mgt.spiErr, frameErr := true, accErr := d.mgt.accErr } } ∧
      d.statusByte.getLsbD 7 = true) ∧
  (∀ (s : State) (edges : Nat),
    s.dev.pwr.vauxOk = true →
    edges ≠ 8 * (1) →
    Completes (.ch7Ring edges) s fun d =>
      d = { s.dev with mgt := { s.dev.mgt with
        status := s.dev.statusByte, miso := d.mgt.miso, spiErr := satInc s.dev.mgt.spiErr, frameErr := true, accErr := d.mgt.accErr } } ∧
      d.statusByte.getLsbD 7 = true) ∧
  (∀ (s : State) (off n : BitVec 16) (edges : Nat),
    s.dev.pwr.vauxOk = true →
    edges ≠ 8 * (5 + n.toNat) →
    Completes (.ch7Read off n edges) s fun d =>
      d = { s.dev with mgt := { s.dev.mgt with
        status := s.dev.statusByte, miso := d.mgt.miso, spiErr := satInc s.dev.mgt.spiErr, frameErr := true, accErr := d.mgt.accErr } } ∧
      d.statusByte.getLsbD 7 = true) ∧
  (∀ (s : State) (edges : Nat),
    s.dev.pwr.vauxOk = true →
    edges ≠ 8 * (1) →
    Completes (.ch7Pop edges) s fun d =>
      d = { s.dev with mgt := { s.dev.mgt with
        status := s.dev.statusByte, miso := d.mgt.miso, spiErr := satInc s.dev.mgt.spiErr, frameErr := true, accErr := d.mgt.accErr } } ∧
      d.statusByte.getLsbD 7 = true) ∧
  (∀ (s : State) (edges : Nat),
    s.dev.pwr.vauxOk = true →
    edges ≠ 8 * (65) →
    Completes (.latchRead edges) s fun d =>
      d = { s.dev with mgt := { s.dev.mgt with
        status := s.dev.statusByte, miso := d.mgt.miso, spiErr := satInc s.dev.mgt.spiErr, frameErr := true, accErr := d.mgt.accErr } } ∧
      d.statusByte.getLsbD 7 = true) ∧
  (∀ (s : State) (edges : Nat),
    s.dev.pwr.vauxOk = true →
    edges ≠ 8 * (1) →
    Completes (.latchPop edges) s fun d =>
      d = { s.dev with mgt := { s.dev.mgt with
        status := s.dev.statusByte, miso := d.mgt.miso, spiErr := satInc s.dev.mgt.spiErr, frameErr := true, accErr := d.mgt.accErr } } ∧
      d.statusByte.getLsbD 7 = true)

/-- The frames of the management port (R447, R448, R450, R452, R453). -/
def Obligations.FramesOfTheRightLengthAct : Prop :=
  (∀ (s : State) (edges : Nat),
    s.dev.pwr.vauxOk = true →
    edges = 8 →
    Completes (.status 0x00 edges) s fun d =>
      d = { s.dev with mgt := d.mgt } ∧ d.mgt.status = s.dev.statusByte ∧ d.mgt.frameErr = false ∧ d.mgt.accErr = false ∧ d.mgt.spiErr = s.dev.mgt.spiErr) ∧
  (∀ (s : State) (addr : BitVec 48) (edges : Nat),
    s.dev.pwr.vauxOk = true →
    edges = 56 →
    s.dev.mgt.access = none →
    s.dev.mgtOk addr.toNat = true →
    Completes (.regRead addr edges) s fun d =>
      d = { s.dev with mgt := d.mgt } ∧ d.mgt.status = s.dev.statusByte ∧ d.mgt.frameErr = false ∧ d.mgt.access = some (.read addr.toNat) ∧ d.mgt.dataValid = false ∧ d.mgt.accErr = false) ∧
  (∀ (s : State) (addr : BitVec 48) (edges : Nat),
    s.dev.pwr.vauxOk = true →
    edges = 56 →
    s.dev.mgt.access ≠ none ∨ s.dev.mgtOk addr.toNat = false →
    Completes (.regRead addr edges) s fun d =>
      d = { s.dev with mgt := d.mgt } ∧ d.mgt.status = s.dev.statusByte ∧ d.mgt.frameErr = false ∧ d.mgt.access = s.dev.mgt.access ∧ d.mgt.dataValid = false ∧ d.mgt.accErr = true) ∧
  (∀ (s : State) (addr : BitVec 48) (data : BitVec 64) (edges : Nat),
    s.dev.pwr.vauxOk = true →
    edges = 120 →
    s.dev.mgt.access = none →
    s.dev.mgtOk addr.toNat = true →
    Completes (.regWrite addr data edges) s fun d =>
      d = { s.dev with mgt := d.mgt } ∧ d.mgt.status = s.dev.statusByte ∧ d.mgt.frameErr = false ∧ d.mgt.access = some (.write addr.toNat data) ∧ d.mgt.accErr = false) ∧
  (∀ (s : State) (addr : BitVec 48) (data : BitVec 64) (edges : Nat),
    s.dev.pwr.vauxOk = true →
    edges = 120 →
    s.dev.mgt.access ≠ none ∨ s.dev.mgtOk addr.toNat = false →
    Completes (.regWrite addr data edges) s fun d =>
      d = { s.dev with mgt := d.mgt } ∧ d.mgt.status = s.dev.statusByte ∧ d.mgt.frameErr = false ∧ d.mgt.access = s.dev.mgt.access ∧ d.mgt.accErr = true) ∧
  (∀ (s : State) (a : Nat) (b : Block),
    s.dev.mgt.access = some (.read a) →
    s.dev.mgtOk a = true →
    blockOf (a - spaceBase) = some b →
    Completes .mgtAccessDone s fun d =>
      d = { s.dev with mgt := d.mgt } ∧ d.mgt.access = none ∧ d.mgt.dataValid = true ∧ d.mgt.data = ({ s.dev with mgt := { s.dev.mgt with access := none } }).readReg .spi b ((a - spaceBase) % 0x1000)) ∧
  (∀ (s : State) (a : Nat) (v : BitVec 64),
    s.dev.mgt.access = some (.write a v) →
    s.dev.mgtOk a = true →
    a = spaceBase + 8 →
    Completes .mgtAccessDone s fun d =>
      d = { s.dev with mgt := { s.dev.mgt with access := none }, devErr := w1c s.dev.devErr v 0 }) ∧
  (∀ (s : State),
    s.dev.mgt.access = none →
    Completes .mgtAccessDone s fun d =>
      d = s.dev) ∧
  (∀ (s : State) (edges : Nat),
    s.dev.pwr.vauxOk = true →
    edges = 72 →
    Completes (.dataRead edges) s fun d =>
      d = { s.dev with mgt := d.mgt } ∧ d.mgt.status = s.dev.statusByte ∧ d.mgt.frameErr = false ∧ leNat d.mgt.miso = (if s.dev.mgt.dataValid then s.dev.mgt.data.toNat else 0) ∧ d.mgt.dataValid = s.dev.mgt.dataValid) ∧
  (∀ (s : State) (off n : BitVec 16) (data : List Byte) (edges : Nat),
    s.dev.pwr.vauxOk = true →
    edges = 8 * (5 + n.toNat) →
    windowFrameOk off n = true →
    n ≠ 0 →
    data.length = n.toNat →
    s.dev.pwr.ctlUp = true →
    (s.dev.chan 7).winFree = true →
    7 < s.dev.chans.length →
    (s.dev.chan 7).window.length = 4096 →
    Completes (.ch7Write off n data edges) s fun d =>
      d.mgt.status = s.dev.statusByte ∧ d.mgt.frameErr = false ∧ ((d.chan 7).window.drop off.toNat).take n.toNat = data ∧ (d.chan 7).window.take off.toNat = (s.dev.chan 7).window.take off.toNat ∧ d.mem = s.dev.mem) ∧
  (∀ (s : State) (off n : BitVec 16) (data : List Byte) (edges : Nat),
    s.dev.pwr.vauxOk = true →
    edges = 8 * (5 + n.toNat) →
    windowFrameOk off n = false ∨ s.dev.pwr.ctlUp = false →
    Completes (.ch7Write off n data edges) s fun d =>
      d = { s.dev with mgt := d.mgt } ∧ d.mgt.status = s.dev.statusByte ∧ d.mgt.frameErr = false ∧ d.mgt.accErr = true) ∧
  (∀ (s : State) (edges : Nat),
    s.dev.pwr.vauxOk = true →
    edges = 8 →
    s.dev.pwr.ctlUp = true →
    (s.dev.chan 7).winFree = true →
    (s.dev.chan 7).resetBusy = false →
    (s.dev.chan 7).outstanding < 64 →
    7 < s.dev.chans.length →
    Completes (.ch7Ring edges) s fun d =>
      d.mgt.status = s.dev.statusByte ∧ d.mgt.frameErr = false ∧ (d.chan 7).winFree = false ∧ (d.chan 7).outstanding = (s.dev.chan 7).outstanding + 1 ∧ d.mgt.accErr = false) ∧
  (∀ (s : State) (edges : Nat),
    s.dev.pwr.vauxOk = true →
    edges = 8 →
    s.dev.pwr.ctlUp = true →
    (s.dev.chan 7).winFree = true →
    (s.dev.chan 7).resetBusy = false →
    64 ≤ (s.dev.chan 7).outstanding →
    7 < s.dev.chans.length →
    Completes (.ch7Ring edges) s fun d =>
      d.mgt.status = s.dev.statusByte ∧ d.mgt.frameErr = false ∧ (d.chan 7).winFree = true ∧ (d.chan 7).outstanding = (s.dev.chan 7).outstanding ∧ d.mgt.accErr = true) ∧
  (∀ (s : State) (off n : BitVec 16) (edges : Nat),
    s.dev.pwr.vauxOk = true →
    edges = 8 * (5 + n.toNat) →
    windowFrameOk off n = true →
    s.dev.pwr.ctlUp = true →
    Completes (.ch7Read off n edges) s fun d =>
      d = { s.dev with mgt := d.mgt } ∧ d.mgt.status = s.dev.statusByte ∧ d.mgt.frameErr = false ∧ d.mgt.miso.drop 4 = s.dev.responseWindow 7 off.toNat n.toNat) ∧
  (∀ (s : State) (edges : Nat) (m : List Byte) (rest : List (List Byte)),
    s.dev.pwr.vauxOk = true →
    edges = 8 →
    s.dev.pwr.ctlUp = true →
    (s.dev.chan 7).responses = m :: rest →
    Completes (.ch7Pop edges) s fun d =>
      d.mgt.status = s.dev.statusByte ∧ d.mgt.frameErr = false ∧ (d.chan 7).responses = rest ∧ (d.chan 7).outstanding = (s.dev.chan 7).outstanding - 1) ∧
  (∀ (s : State) (edges : Nat) (r : Rec) (rest : List Rec),
    s.dev.pwr.vauxOk = true →
    edges = 520 →
    s.dev.health.latch = r :: rest →
    Completes (.latchRead edges) s fun d =>
      d = { s.dev with mgt := d.mgt } ∧ d.mgt.status = s.dev.statusByte ∧ d.mgt.frameErr = false ∧ d.mgt.miso = r.bytes) ∧
  (∀ (s : State) (edges : Nat) (r : Rec) (rest : List Rec),
    s.dev.pwr.vauxOk = true →
    edges = 8 →
    s.dev.health.latch = r :: rest →
    s.dev.health.latchNow ≤ rest.length →
    Completes (.latchPop edges) s fun d =>
      d.mgt.status = s.dev.statusByte ∧ d.mgt.frameErr = false ∧ d.health.latch = rest ++ (s.dev.health.latchMissed.map Prod.fst).take 1 ∧ d.mgt.accErr = false) ∧
  (∀ (s : State) (edges : Nat),
    s.dev.pwr.vauxOk = true →
    edges = 8 →
    s.dev.health.latch.length ≤ s.dev.health.latchNow →
    Completes (.latchPop edges) s fun d =>
      d = { s.dev with mgt := d.mgt } ∧ d.mgt.status = s.dev.statusByte ∧ d.mgt.frameErr = false ∧ d.mgt.accErr = true)

/-- Register writes, and what BAR0 and BAR2 read as (R14, R16, R63, R125, R455, R457 to R461). -/
def Obligations.RegisterWritesFollowTheirCodes : Prop :=
  (∀ (s : State) (jtag : Bool) (off : BitVec 32) (data : List Byte),
    s.dev.pathOpen (if jtag then .jtag else .pf0) = true →
    off.toNat = 0x8 →
    data.length = 8 →
    s.dev.pwr.ctlUp = true →
    Completes (.registerWrite (.space jtag off) data) s fun d =>
      d = { s.dev with devErr := s.dev.devErr.clear ((BitVec.ofNat 64 (leNat data)).extractLsb' 0 3) }) ∧
  (∀ (s : State) (jtag : Bool) (off : BitVec 32) (data : List Byte),
    s.dev.pathOpen (if jtag then .jtag else .pf0) = true →
    off.toNat = 0x0 →
    data.length = 8 →
    s.dev.pwr.ctlUp = true →
    Completes (.registerWrite (.space jtag off) data) s fun d =>
      d = s.dev) ∧
  (∀ (s : State) (jtag : Bool) (off : BitVec 32) (data : List Byte),
    s.dev.pathOpen (if jtag then .jtag else .pf0) = true →
    off.toNat = 0x5010 →
    data.length = 8 →
    s.dev.pwr.ctlUp = true →
    Completes (.registerWrite (.space jtag off) data) s fun d =>
      d.trc.sidHealth = (BitVec.ofNat 64 (leNat data)).extractLsb' 0 16 ∧ d.trc.sidDefault = (BitVec.ofNat 64 (leNat data)).extractLsb' 16 16 ∧ d = { s.dev with trc := d.trc }) ∧
  (∀ (s : State) (jtag : Bool) (off : BitVec 32) (data : List Byte) (n : Fin 80),
    s.dev.pathOpen (if jtag then .jtag else .pf0) = true →
    off.toNat = 0x100028 + 0x10000 * n.val →
    data.length = 8 →
    s.dev.blockUp (.lbk n.val) = true →
    Completes (.registerWrite (.space jtag off) data) s fun d =>
      d = s.dev.modLbk n.val (fun l => { l with checkErr := w1c l.checkErr (BitVec.ofNat 64 (leNat data)) 0 })) ∧
  (∀ (s : State) (jtag : Bool) (off : BitVec 32) (data : List Byte) (b : Block),
    s.dev.pathOpen (if jtag then .jtag else .pf0) = true →
    1 ≤ data.length →
    off.toNat % 8 + data.length ≤ 8 →
    data.length < 8 →
    blockOf (off.toNat / 8 * 8) = some b →
    s.dev.blockUp b = true →
    s.dev.pwr.ctlUp = true →
    Completes (.registerWrite (.space jtag off) data) s fun d =>
      d = { s.dev with devErr := s.dev.devErr.raise 2 }) ∧
  (∀ (s : State) (jtag : Bool) (off : BitVec 32) (data : List Byte),
    s.dev.pathOpen (if jtag then .jtag else .pf0) = true →
    off.toNat % 8 = 0 →
    data.length = 8 →
    blockOf off.toNat = none →
    s.dev.pwr.ctlUp = true →
    Completes (.registerWrite (.space jtag off) data) s fun d =>
      d = { s.dev with devErr := s.dev.devErr.raise 1 }) ∧
  (∀ (s : State) (jtag : Bool) (off : BitVec 32) (data : List Byte) (b : Block),
    s.dev.pathOpen (if jtag then .jtag else .pf0) = true →
    off.toNat % 8 = 0 →
    data.length = 8 →
    blockOf off.toNat = some b →
    s.dev.blockUp b = false →
    s.dev.pwr.ctlUp = true →
    Completes (.registerWrite (.space jtag off) data) s fun d =>
      d = { s.dev with devErr := s.dev.devErr.raise 4 }) ∧
  (∀ (s : State) (jtag : Bool) (off : BitVec 32) (data : List Byte),
    s.dev.pathOpen (if jtag then .jtag else .pf0) = false →
    Completes (.registerWrite (.space jtag off) data) s fun d =>
      d = s.dev) ∧
  (∀ (s : State) (data : List Byte),
    s.dev.pwr.pcieUp = true →
    Completes (.registerWrite .vfEnable data) s fun d =>
      d = { s.dev with sec := { s.dev.sec with vfEnable := true } }) ∧
  (∀ (s : State) (f : Fin 5) (off : Fin 4096) (data : List Byte),
    s.dev.funcUp f.val = true →
    off.val + data.length ≤ 4096 →
    (s.dev.msixTab.getD f.val []) = [] →
    f.val < s.dev.msixTab.length →
    Completes (.registerWrite (.msixTable f off) data) s fun d =>
      memBytes (d.msixTab.getD f.val []) off.val data.length = data ∧ d = { s.dev with msixTab := d.msixTab, msix := d.msix } ∧ d.msix.length = s.dev.msix.length) ∧
  (∀ (s : State) (f : Fin 5) (ch : Fin 8) (off : Fin 0x4000) (data : List Byte),
    s.dev.canUse f.val ch.val = true →
    0x2000 ≤ off.val →
    off.val % 8 + data.length < 8 →
    1 ≤ data.length →
    Completes (.registerWrite (.page f ch off) data) s fun d =>
      d = { s.dev with devErr := s.dev.devErr.raise 2 }) ∧
  (∀ (s : State) (f : Fin 5) (q : Fin 72) (off : Fin 0x20000) (data : List Byte),
    s.dev.funcUp f.val = true →
    (s.dev.queueOf f.val q.val).isSome = true →
    0x11000 ≤ off.val →
    off.val < 0x11080 →
    off.val % 8 + data.length < 8 →
    1 ≤ data.length →
    Completes (.registerWrite (.queue f q off) data) s fun d =>
      d = { s.dev with devErr := s.dev.devErr.raise 2 }) ∧
  (∀ (w : Nat) (x : Sticky w) (m : BitVec w), (x.clear m).val = x.val &&& ~~~(m &&& ~~~ x.fresh) ∧ (x.raise m).val = x.val ||| m ∧
    ((x.raise m).clear m).val &&& m = m ∧ (x.settle.clear m).val = x.val &&& ~~~ m) ∧
  (∀ (d : Dev) (func off : Nat), d.funcUp func = false → d.bar0Read func off = 0) ∧
  (∀ (d : Dev) (off : Nat), off < 0x20000 → (off % 0x4000 < 0x1000 ∨ (0x4000 ≤ off ∧ off < 0x14000) ∨ (0x1C000 ≤ off ∧ off < 0x1E000)) →
    d.bar0Read 0 off = 0) ∧
  (∀ (d : Dev) (func off : Nat), 0 < func → (off < 0x1000 ∨ (0x4000 ≤ off ∧ off < 0x8000) ∨ (0x9000 ≤ off ∧ off < 0xC000)) → d.bar0Read func off = 0) ∧
  (∀ (d : Dev) (func off : Nat), d.funcUp func = true → off < 0x1000 →
    d.bar0Read func ((if func = 0 then 0x20000 else 0x8000) + off) = BitVec.ofNat 64 (leNat (memBytes (d.msixTab.getD func []) off 8))) ∧
  (∀ (d : Dev) (func off : Nat), (d.queueOf func (off / 0x20000) = none ∨ off % 0x20000 < 0x10000 ∨ 0x11080 ≤ off % 0x20000) →
    d.bar2Read func off = 0) ∧
  (∀ (d : Dev) (func off c : Nat), d.queueOf func (off / 0x20000) = some c → d.funcUp func = true →
    0x11000 ≤ off % 0x20000 → off % 0x20000 < 0x11080 → d.bar2Read func off = d.readCq c (off % 0x20000 - 0x11000))

/-- R65: a busy window and its doorbell, over PCIe and in the frames of channel 7. -/
def Obligations.BusyWindowsAndDoorbellsAreIgnored : Prop :=
  (∀ (s : State) (func : Fin 5) (ch : Fin 8) (off : Fin 4096) (data : List Byte),
    s.dev.canUse func.val ch.val = true →
    (s.dev.chan ch.val).winFree = false →
    Completes (.requestWindowWrite func ch off data) s fun d =>
      d = s.dev.modChan ch.val (fun x => { x with err := x.err.raise 1 })) ∧
  (∀ (s : State) (func : Fin 5) (ch : Fin 8),
    s.dev.canUse func.val ch.val = true →
    (s.dev.chan ch.val).winFree = false →
    Completes (.doorbellRing func ch) s fun d =>
      d = s.dev.modChan ch.val (fun x => { x with err := x.err.raise 2 })) ∧
  (∀ (s : State) (off n : BitVec 16) (data : List Byte) (edges : Nat),
    s.dev.pwr.vauxOk = true →
    edges = 8 * (5 + n.toNat) →
    windowFrameOk off n = true →
    n ≠ 0 →
    s.dev.pwr.ctlUp = true →
    (s.dev.chan 7).winFree = false →
    Completes (.ch7Write off n data edges) s fun d =>
      d = { (s.dev.modChan 7 (fun x => { x with err := x.err.raise 1 })) with mgt := d.mgt }) ∧
  (∀ (s : State) (edges : Nat),
    s.dev.pwr.vauxOk = true →
    edges = 8 →
    s.dev.pwr.ctlUp = true →
    (s.dev.chan 7).winFree = false →
    Completes (.ch7Ring edges) s fun d =>
      d = { (s.dev.modChan 7 (fun x => { x with err := x.err.raise 2 })) with mgt := d.mgt })

/-- The values after cold reset (R13 and the register tables); what memory reads as before its wipe is the model's
choice (log entry 3). -/
def Obligations.ResetLeavesTheStatedValues : Prop :=
  State.reset.pending = [] ∧ State.reset.Inv ∧ State.reset.dev.mem.bytes = [] ∧ State.reset.dev.mem.poison = [] ∧
  (let d := State.reset.dev
   (d.bt.markInterval = 0x040 ∧ d.bt.linkMarkEn = true ∧ d.bt.beatInEn = true ∧ d.bt.upstreamPort = 0x1F ∧ d.bt.beat = 0 ∧ d.bt.locked = false ∧
     d.bt.countValid = false ∧ d.bt.serial = 0xFFFFFFFFFF ∧ d.bt.masterKey = BitVec.allOnes 59 ∧ d.bt.events = {}) ∧
   (∀ c : Fin 8, (d.chan c.val).winFree = true ∧ (d.chan c.val).lastSeq = 0xFFFFFFFF ∧ (d.chan c.val).outstanding = 0 ∧ (d.chan c.val).err = {} ∧
     (d.chan c.val).session = none ∧ (d.chan c.val).msixVec = ([0, 0, 0, 0, 0, 5, 6, 0] : List (BitVec 8)).getD c.val 0 ∧ (d.chan c.val).msixEn = decide (c.val ≠ 7)) ∧
   (∀ c : Fin 72, (d.cq c.val).regs = {} ∧ (d.cq c.val).entries = [] ∧ (d.cq c.val).fetched = [] ∧ (d.cq c.val).run = none) ∧
   (∀ n : Fin 80, d.siteState n.val = .held ∧ (d.site n.val).lbk.grant = 0 ∧ (d.site n.val).lbk.set0.st = .empty ∧ (d.site n.val).acc.rows = [] ∧
     (d.site n.val).ccr.flags = 0 ∧ (d.site n.val).qnt.flags = {} ∧ (d.site n.val).mvp.flags = {}) ∧
   d.rampStep = 0x18 ∧ d.plans = [] ∧ d.devErr = {} ∧ d.wipes = [] ∧ d.fenceFall = (0, 0) ∧ d.rampBeat = none ∧
   (∀ k : Fin 16, (d.stk k.val).scrubActive = true ∧ (d.stk k.val).interval = 0x4000 ∧ (d.stk k.val).ueCnt = 0 ∧ (d.dsc k.val).hits = 0) ∧
   (∀ p : Fin 24, (d.port p.val).state = .disabled ∧ (d.port p.val).spareLane = 0xF) ∧ d.lnk.retrainEn = true ∧ d.lnk.laneThr = 0x40 ∧
   d.lnk.xyz = 0xFFF ∧ (∀ e : Fin 16, (d.col.engines.getD e.val {}).inService = true) ∧ (∀ e : Fin 4, (d.slv.getD e.val {}).inService = true) ∧
   d.stm.txPrio = 3 ∧ d.stm.rxMask = 8 ∧ d.stm.etype = 0 ∧ (∀ q : Fin 4, (d.stmPort q.val).en = true) ∧
   d.health.autoUnfence = true ∧ d.health.wdogGrace = 0x02710 ∧ d.health.testIntervalH = 6 ∧ d.health.sharedPeer = 0x7FFF ∧ d.health.logNext = 0 ∧
   d.trc.flushBeats = 0x2710 ∧ d.trc.recKib = 8 ∧ d.trc.domainEn = true ∧ d.trc.en = false ∧ d.trc.sidDefault = 0xFFF1 ∧ d.trc.sidHealth = 0xFFF0 ∧
   d.pwr.phase = .reset ∧ d.pwr.ready = false ∧ d.pwr.vauxOk = true ∧ d.pwr.alertMw = 0x33E140 ∧ d.pwr.lastReset = 1 ∧
   (∀ k : Fin 171, d.dom k.val = .off) ∧ d.mgt.alertMask = 0x3F ∧ d.mgt.tempC = 95 ∧ d.mgt.spiErr = 0 ∧ d.jtag.ir = 0x01)

/-- The invariant of the addressed memory, kept by every command and by an idle step, in every state that meets it
(the canonical form is the model's, log entry 3). -/
def Obligations.EveryStepKeepsMemoryCanonical : Prop :=
  ∀ s t : State, s.dev.mem.wf = true → step s = .next t → t.dev.mem.wf = true

/-- The sizes of the register banks, kept by every command and by an idle step. -/
def Obligations.EveryStepKeepsTheBanksWhole : Prop :=
  ∀ s t : State, s.dev.sized = true → step s = .next t → t.dev.sized = true

/-- What is blown into fuses (R399, R403, R405, R440): a rule over all commands. -/
def Obligations.FusesChangeOnlyByTheirCommands : Prop :=
  (∀ c : Instr, (∀ k bad, c ≠ .memoryWipe k bad) → Keeps c (fun d => d.sec.lcState)) ∧
  (∀ (k : Fin 16) (bad : List (BitVec 25)) (s t : State), s.dev.wipes.all (fun j => !j.wipesSites) = true →
    exec (.memoryWipe k bad) s = .next t → t.dev.sec.lcState = s.dev.sec.lcState) ∧
  (∀ c : Instr, (∀ bad, c ≠ .firmwareAuth bad) → Keeps c (fun d => d.sec.minEpoch)) ∧
  (∀ (c : Instr) (s t : State), exec c s = .next t → s.dev.sec.minEpoch.toNat ≤ t.dev.sec.minEpoch.toNat) ∧
  (∀ c : Instr, Keeps c (fun d => d.sec.key0Revoked)) ∧
  (∀ s t : State, s.pending = [] → step s = .next t → t.dev.fuses = s.dev.fuses)
end

