-- ==== Sys2Proof/Laws/Frames.lean ====
section
/-! SUPPORT. What each operation can change: the parts of the machine that an operation may touch, every other part being as it
was. -/

namespace Sys2Proof.Machine

/-- The parts of the machine, one for each field of `Dev`. -/
inductive Part
  | bt
  | fwp
  | chans
  | reqs
  | dones
  | rings
  | msix
  | plans
  | lastHandle
  | siteOf
  | mapTs
  | epoch
  | cqs
  | mem
  | shared
  | stks
  | dscs
  | sites
  | rampStep
  | rampBeat
  | fenceFall
  | deliveries
  | lnk
  | col
  | slv
  | solves
  | wipes
  | sec
  | health
  | stm
  | trc
  | jtag
  | pwr
  | mgt
  | msixTab
  | devErr
  | free
  deriving DecidableEq, Repr

/-- A part is the same in two machines. -/
def Same (d e : Dev) : Part → Prop
  | .bt => e.bt = d.bt
  | .fwp => e.fwp = d.fwp
  | .chans => e.chans = d.chans
  | .reqs => e.reqs = d.reqs
  | .dones => e.dones = d.dones
  | .rings => e.rings = d.rings
  | .msix => e.msix = d.msix
  | .plans => e.plans = d.plans
  | .lastHandle => e.lastHandle = d.lastHandle
  | .siteOf => e.siteOf = d.siteOf
  | .mapTs => e.mapTs = d.mapTs
  | .epoch => e.epoch = d.epoch
  | .cqs => e.cqs = d.cqs
  | .mem => e.mem = d.mem
  | .shared => e.shared = d.shared
  | .stks => e.stks = d.stks
  | .dscs => e.dscs = d.dscs
  | .sites => e.sites = d.sites
  | .rampStep => e.rampStep = d.rampStep
  | .rampBeat => e.rampBeat = d.rampBeat
  | .fenceFall => e.fenceFall = d.fenceFall
  | .deliveries => e.deliveries = d.deliveries
  | .lnk => e.lnk = d.lnk
  | .col => e.col = d.col
  | .slv => e.slv = d.slv
  | .solves => e.solves = d.solves
  | .wipes => e.wipes = d.wipes
  | .sec => e.sec = d.sec
  | .health => e.health = d.health
  | .stm => e.stm = d.stm
  | .trc => e.trc = d.trc
  | .jtag => e.jtag = d.jtag
  | .pwr => e.pwr = d.pwr
  | .mgt => e.mgt = d.mgt
  | .msixTab => e.msixTab = d.msixTab
  | .devErr => e.devErr = d.devErr
  | .free => e.free = d.free

/-- Two machines are the same in every part outside a list. -/
structure Only (m : List Part) (d e : Dev) : Prop where
  same : ∀ p, m.contains p = false → Same d e p

theorem Same.refl (d : Dev) (p : Part) : Same d d p := by cases p <;> rfl
theorem Same.trans {d e f : Dev} {p : Part} (h : Same d e p) (k : Same e f p) : Same d f p := by
  cases p <;> exact Eq.trans k h
theorem Only.refl (m : List Part) (d : Dev) : Only m d d := ⟨fun p _ => Same.refl d p⟩
/-- A further change within the list. -/
theorem Only.step {m k : List Part} {d e f : Dev} (h : Only k e f) (s : k.all m.contains = true) (g : Only m d e) : Only m d f := by
  refine ⟨fun p hp => ?_⟩
  refine Same.trans (g.same p hp) (h.same p ?_)
  cases hk : k.contains p with
  | false => rfl
  | true =>
    have hm := (List.all_eq_true.mp s) p (by simpa using hk)
    rw [hm] at hp
    cases hp
/-- A change for every element of a list. -/
theorem Only.foldl {α : Type} {m : List Part} {d e : Dev} {f : Dev → α → Dev} (h : ∀ x a, Only m x (f x a)) (l : List α)
    (g : Only m d e) : Only m d (l.foldl f e) := by
  induction l generalizing e with
  | nil => exact g
  | cons a l ih => exact ih (Only.step (h e a) (by simp) g)
theorem Only.ite {m : List Part} {d e f : Dev} {c : Prop} [Decidable c] (h : Only m d e) (k : Only m d f) :
    Only m d (if c then e else f) := by
  split <;> assumption
theorem Only.snd {α : Type} {m : List Part} {d e : Dev} {x : α × Dev} {a : α} (h : x = (a, e)) (g : Only m d x.2) : Only m d e := by
  subst h; exact g
theorem Only.fst {α : Type} {m : List Part} {d e : Dev} {x : Dev × α} {a : α} (h : x = (e, a)) (g : Only m d x.1) : Only m d e := by
  subst h; exact g

/-! ### Ops -/

theorem modSite_only (d : Dev) (n : Nat) (f : Site → Site) : Only [.sites] d (Dev.modSite d n f) := by
  have hset : ∀ (b x : Dev) v0, Only [.sites] b x → Only [.sites] b { x with sites := v0 } := by
    refine fun b x v0 h => ⟨fun p hp => ?_⟩
    cases p <;> first | exact h.same _ hp | cases hp
  unfold Dev.modSite
  repeat' first
    | fail_if_no_progress (with_reducible apply hset)
    | with_reducible exact Only.refl _ _

theorem modCq_only (d : Dev) (c : Nat) (f : Cq → Cq) : Only [.cqs] d (Dev.modCq d c f) := by
  have hset : ∀ (b x : Dev) v0, Only [.cqs] b x → Only [.cqs] b { x with cqs := v0 } := by
    refine fun b x v0 h => ⟨fun p hp => ?_⟩
    cases p <;> first | exact h.same _ hp | cases hp
  unfold Dev.modCq
  repeat' first
    | fail_if_no_progress (with_reducible apply hset)
    | with_reducible exact Only.refl _ _

theorem modRegs_only (d : Dev) (c : Nat) (f : CqRegs → CqRegs) : Only [.cqs] d (Dev.modRegs d c f) := by
  unfold Dev.modRegs
  repeat' first
    | with_reducible exact Only.refl _ _
    | with_reducible assumption
    | (with_reducible apply Only.step (modCq_only _ _ _))
    | (with_reducible apply Only.foldl)
    | intro _
    | split
    | (with_reducible refine Only.snd (by assumption) ?_)
    | (with_reducible refine Only.fst (by assumption) ?_)
    | decide

theorem modChan_only (d : Dev) (c : Nat) (f : Chan → Chan) : Only [.chans] d (Dev.modChan d c f) := by
  have hset : ∀ (b x : Dev) v0, Only [.chans] b x → Only [.chans] b { x with chans := v0 } := by
    refine fun b x v0 h => ⟨fun p hp => ?_⟩
    cases p <;> first | exact h.same _ hp | cases hp
  unfold Dev.modChan
  repeat' first
    | fail_if_no_progress (with_reducible apply hset)
    | with_reducible exact Only.refl _ _

theorem modStk_only (d : Dev) (s : Nat) (f : Stk → Stk) : Only [.stks] d (Dev.modStk d s f) := by
  have hset : ∀ (b x : Dev) v0, Only [.stks] b x → Only [.stks] b { x with stks := v0 } := by
    refine fun b x v0 h => ⟨fun p hp => ?_⟩
    cases p <;> first | exact h.same _ hp | cases hp
  unfold Dev.modStk
  repeat' first
    | fail_if_no_progress (with_reducible apply hset)
    | with_reducible exact Only.refl _ _

theorem modDsc_only (d : Dev) (s : Nat) (f : Dsc → Dsc) : Only [.dscs] d (Dev.modDsc d s f) := by
  have hset : ∀ (b x : Dev) v0, Only [.dscs] b x → Only [.dscs] b { x with dscs := v0 } := by
    refine fun b x v0 h => ⟨fun p hp => ?_⟩
    cases p <;> first | exact h.same _ hp | cases hp
  unfold Dev.modDsc
  repeat' first
    | fail_if_no_progress (with_reducible apply hset)
    | with_reducible exact Only.refl _ _

theorem modFw_only (d : Dev) (i : Nat) (f : Fwp → Fwp) : Only [.fwp] d (Dev.modFw d i f) := by
  have hset : ∀ (b x : Dev) v0, Only [.fwp] b x → Only [.fwp] b { x with fwp := v0 } := by
    refine fun b x v0 h => ⟨fun p hp => ?_⟩
    cases p <;> first | exact h.same _ hp | cases hp
  unfold Dev.modFw
  repeat' first
    | fail_if_no_progress (with_reducible apply hset)
    | with_reducible exact Only.refl _ _

theorem modStmPort_only (d : Dev) (i : Nat) (f : StmPort → StmPort) : Only [.stm] d (Dev.modStmPort d i f) := by
  have hset : ∀ (b x : Dev) v0, Only [.stm] b x → Only [.stm] b { x with stm := v0 } := by
    refine fun b x v0 h => ⟨fun p hp => ?_⟩
    cases p <;> first | exact h.same _ hp | cases hp
  unfold Dev.modStmPort
  repeat' first
    | fail_if_no_progress (with_reducible apply hset)
    | with_reducible exact Only.refl _ _

theorem setSiteState_only (d : Dev) (n : Nat) (x : SiteState) : Only [.health] d (Dev.setSiteState d n x) := by
  have hset : ∀ (b x : Dev) v0, Only [.health] b x → Only [.health] b { x with health := v0 } := by
    refine fun b x v0 h => ⟨fun p hp => ?_⟩
    cases p <;> first | exact h.same _ hp | cases hp
  unfold Dev.setSiteState
  repeat' first
    | fail_if_no_progress (with_reducible apply hset)
    | with_reducible exact Only.refl _ _

theorem modPlan_only (d : Dev) (h : BitVec 16) (f : Plan → Plan) : Only [.plans] d (Dev.modPlan d h f) := by
  have hset : ∀ (b x : Dev) v0, Only [.plans] b x → Only [.plans] b { x with plans := v0 } := by
    refine fun b x v0 h => ⟨fun p hp => ?_⟩
    cases p <;> first | exact h.same _ hp | cases hp
  unfold Dev.modPlan
  repeat' first
    | fail_if_no_progress (with_reducible apply hset)
    | with_reducible exact Only.refl _ _

theorem draw_only (d : Dev) : Only [.free] d (Dev.draw d).2 := by
  have hset : ∀ (b x : Dev) v0, Only [.free] b x → Only [.free] b { x with free := v0 } := by
    refine fun b x v0 h => ⟨fun p hp => ?_⟩
    cases p <;> first | exact h.same _ hp | cases hp
  unfold Dev.draw
  repeat' first
    | fail_if_no_progress (with_reducible apply hset)
    | with_reducible exact Only.refl _ _

theorem countPoison_only (d : Dev) (a : Nat) : Only [.stks] d (Dev.countPoison d a) := by
  unfold Dev.countPoison
  repeat' first
    | with_reducible exact Only.refl _ _
    | with_reducible assumption
    | (with_reducible apply Only.step (modStk_only _ _ _))
    | (with_reducible apply Only.foldl)
    | intro _
    | split
    | (with_reducible refine Only.snd (by assumption) ?_)
    | (with_reducible refine Only.fst (by assumption) ?_)
    | decide

theorem roomFor_only (d : Dev) (l : Nat) : Only [.dscs] d (Dev.roomFor d l) := by
  unfold Dev.roomFor
  repeat' first
    | with_reducible exact Only.refl _ _
    | with_reducible assumption
    | (with_reducible apply Only.step (modDsc_only _ _ _))
    | (with_reducible apply Only.foldl)
    | intro _
    | split
    | (with_reducible refine Only.snd (by assumption) ?_)
    | (with_reducible refine Only.fst (by assumption) ?_)
    | decide

theorem countLine_only (d : Dev) (hit : Bool) (l : Nat) : Only [.dscs] d (Dev.countLine d hit l) := by
  unfold Dev.countLine
  repeat' first
    | with_reducible exact Only.refl _ _
    | with_reducible assumption
    | (with_reducible apply Only.step (modDsc_only _ _ _))
    | (with_reducible apply Only.foldl)
    | intro _
    | split
    | (with_reducible refine Only.snd (by assumption) ?_)
    | (with_reducible refine Only.fst (by assumption) ?_)
    | decide

theorem readLine_only (d : Dev) (own : List Nat) (l : Nat) : Only [.dscs] d (Dev.readLine d own l) := by
  unfold Dev.readLine
  repeat' first
    | with_reducible exact Only.refl _ _
    | with_reducible assumption
    | (with_reducible apply Only.step (countLine_only _ _ _))
    | (with_reducible apply Only.step (roomFor_only _ _))
    | (with_reducible apply Only.step (modDsc_only _ _ _))
    | (with_reducible apply Only.foldl)
    | intro _
    | split
    | (with_reducible refine Only.snd (by assumption) ?_)
    | (with_reducible refine Only.fst (by assumption) ?_)
    | decide
    | (dsimp only; done)
    | dsimp only

theorem writeLine_only (d : Dev) (own : List Nat) (l : Nat) : Only [.dscs] d (Dev.writeLine d own l) := by
  unfold Dev.writeLine
  repeat' first
    | with_reducible exact Only.refl _ _
    | with_reducible assumption
    | (with_reducible apply Only.step (countLine_only _ _ _))
    | (with_reducible apply Only.step (roomFor_only _ _))
    | (with_reducible apply Only.foldl)
    | intro _
    | split
    | (with_reducible refine Only.snd (by assumption) ?_)
    | (with_reducible refine Only.fst (by assumption) ?_)
    | decide

theorem commitLine_only (d : Dev) (l : Nat) : Only [.dscs] d (Dev.commitLine d l) := by
  unfold Dev.commitLine
  repeat' first
    | with_reducible exact Only.refl _ _
    | with_reducible assumption
    | (with_reducible apply Only.step (roomFor_only _ _))
    | (with_reducible apply Only.step (modDsc_only _ _ _))
    | (with_reducible apply Only.foldl)
    | intro _
    | split
    | (with_reducible refine Only.snd (by assumption) ?_)
    | (with_reducible refine Only.fst (by assumption) ?_)
    | decide

theorem readLines_only (d : Dev) (c a n : Nat) : Only [.dscs] d (Dev.readLines d c a n) := by
  unfold Dev.readLines
  repeat' first
    | with_reducible exact Only.refl _ _
    | with_reducible assumption
    | (with_reducible apply Only.step (readLine_only _ _ _))
    | (with_reducible apply Only.foldl)
    | intro _
    | split
    | (with_reducible refine Only.snd (by assumption) ?_)
    | (with_reducible refine Only.fst (by assumption) ?_)
    | decide

theorem writeLines_only (d : Dev) (c a n : Nat) : Only [.dscs] d (Dev.writeLines d c a n) := by
  unfold Dev.writeLines
  repeat' first
    | with_reducible exact Only.refl _ _
    | with_reducible assumption
    | (with_reducible apply Only.step (writeLine_only _ _ _))
    | (with_reducible apply Only.foldl)
    | intro _
    | split
    | (with_reducible refine Only.snd (by assumption) ?_)
    | (with_reducible refine Only.fst (by assumption) ?_)
    | decide

theorem deliverLines_only (d : Dev) (a n : Nat) : Only [.dscs] d (Dev.deliverLines d a n) := by
  unfold Dev.deliverLines
  repeat' first
    | with_reducible exact Only.refl _ _
    | with_reducible assumption
    | (with_reducible apply Only.step (commitLine_only _ _))
    | (with_reducible apply Only.step (countLine_only _ _ _))
    | (with_reducible apply Only.foldl)
    | intro _
    | split
    | (with_reducible refine Only.snd (by assumption) ?_)
    | (with_reducible refine Only.fst (by assumption) ?_)
    | decide

theorem dropLines_only (d : Dev) (a n : Nat) : Only [.dscs] d (Dev.dropLines d a n) := by
  have hset : ∀ (b x : Dev) v0, Only [.dscs] b x → Only [.dscs] b { x with dscs := v0 } := by
    refine fun b x v0 h => ⟨fun p hp => ?_⟩
    cases p <;> first | exact h.same _ hp | cases hp
  unfold Dev.dropLines
  repeat' first
    | fail_if_no_progress (with_reducible apply hset)
    | with_reducible exact Only.refl _ _

theorem waitWay_only (d : Dev) (a : Nat) : Only [.dscs, .free] d (Dev.waitWay d a) := by
  unfold Dev.waitWay
  repeat' first
    | with_reducible exact Only.refl _ _
    | with_reducible assumption
    | (with_reducible apply Only.step (draw_only _))
    | (with_reducible apply Only.step (modDsc_only _ _ _))
    | (with_reducible apply Only.foldl)
    | intro _
    | split
    | (with_reducible refine Only.snd (by assumption) ?_)
    | (with_reducible refine Only.fst (by assumption) ?_)
    | decide

theorem sendMsix_only (d : Dev) (func : Nat) (vec : BitVec 8) : Only [.msix] d (Dev.sendMsix d func vec) := by
  have hset : ∀ (b x : Dev) v0, Only [.msix] b x → Only [.msix] b { x with msix := v0 } := by
    refine fun b x v0 h => ⟨fun p hp => ?_⟩
    cases p <;> first | exact h.same _ hp | cases hp
  unfold Dev.sendMsix
  repeat' first
    | fail_if_no_progress (with_reducible apply hset)
    | with_reducible exact Only.refl _ _
    | with_reducible assumption
    | (with_reducible apply Only.foldl)
    | intro _
    | split

theorem releaseMsix_only (d : Dev) (func : Nat) : Only [.msix] d (Dev.releaseMsix d func) := by
  have hset : ∀ (b x : Dev) v0, Only [.msix] b x → Only [.msix] b { x with msix := v0 } := by
    refine fun b x v0 h => ⟨fun p hp => ?_⟩
    cases p <;> first | exact h.same _ hp | cases hp
  unfold Dev.releaseMsix
  repeat' first
    | fail_if_no_progress (with_reducible apply hset)
    | with_reducible exact Only.refl _ _

theorem chanMsix_only (d : Dev) (c : Nat) : Only [.msix] d (Dev.chanMsix d c) := by
  unfold Dev.chanMsix
  repeat' first
    | with_reducible exact Only.refl _ _
    | with_reducible assumption
    | (with_reducible apply Only.step (sendMsix_only _ _ _))
    | (with_reducible apply Only.foldl)
    | intro _
    | split
    | (with_reducible refine Only.snd (by assumption) ?_)
    | (with_reducible refine Only.fst (by assumption) ?_)
    | decide

theorem queueResp_only (d : Dev) (c : Nat) (bs : List Byte) : Only [.chans, .msix] d (Dev.queueResp d c bs) := by
  unfold Dev.queueResp
  repeat' first
    | with_reducible exact Only.refl _ _
    | with_reducible assumption
    | (with_reducible apply Only.step (chanMsix_only _ _))
    | (with_reducible apply Only.step (modChan_only _ _ _))
    | (with_reducible apply Only.foldl)
    | intro _
    | split
    | (with_reducible refine Only.snd (by assumption) ?_)
    | (with_reducible refine Only.fst (by assumption) ?_)
    | decide
    | (dsimp only; done)
    | dsimp only

/-! ### Records -/

theorem pushOut_only (d : Dev) (r : OutRec) : Only [.stm] d (Dev.pushOut d r) := by
  have hset : ∀ (b x : Dev) v0, Only [.stm] b x → Only [.stm] b { x with stm := v0 } := by
    refine fun b x v0 h => ⟨fun p hp => ?_⟩
    cases p <;> first | exact h.same _ hp | cases hp
  unfold Dev.pushOut
  repeat' first
    | fail_if_no_progress (with_reducible apply hset)
    | with_reducible exact Only.refl _ _

theorem closeStream_only (d : Dev) (plan : Option (BitVec 16)) (sid : BitVec 16) : Only [.stm, .trc] d (Dev.closeStream d plan sid) := by
  have hset : ∀ (b x : Dev) v0 v1, Only [.stm, .trc] b x → Only [.stm, .trc] b { x with stm := v0, trc := v1 } := by
    refine fun b x v0 v1 h => ⟨fun p hp => ?_⟩
    cases p <;> first | exact h.same _ hp | cases hp
  unfold Dev.closeStream
  repeat' first
    | fail_if_no_progress (with_reducible apply hset)
    | with_reducible exact Only.refl _ _
    | with_reducible assumption
    | (with_reducible apply Only.foldl)
    | intro _
    | split
    | (with_reducible refine Only.snd (by assumption) ?_)
    | (with_reducible refine Only.fst (by assumption) ?_)
    | decide
    | (dsimp only; done)
    | dsimp only

theorem closeWhere_only (which : StageEnt → Bool) (n : Nat) (d : Dev) : Only [.stm, .trc] d (Dev.closeWhere which n d) := by
  induction n generalizing d with
  | zero => exact Only.refl _ _
  | succ n ih =>
    unfold Dev.closeWhere
    split
    · exact Only.refl _ _
    · exact Only.step (ih _) rfl (closeStream_only _ _ _)

theorem stageLost_only (d : Dev) : Only [.trc] d (Dev.stageLost d) := by
  have hset : ∀ (b x : Dev) v0, Only [.trc] b x → Only [.trc] b { x with trc := v0 } := by
    refine fun b x v0 h => ⟨fun p hp => ?_⟩
    cases p <;> first | exact h.same _ hp | cases hp
  unfold Dev.stageLost
  repeat' first
    | fail_if_no_progress (with_reducible apply hset)
    | with_reducible exact Only.refl _ _
    | with_reducible assumption
    | (with_reducible apply Only.foldl)
    | intro _
    | split

theorem stage_only (d : Dev) (sid : BitVec 16) (plan : Option (BitVec 16)) (func : Nat) (bs : List Byte) :
    Only [.stm, .trc] d (Dev.stage d sid plan func bs) := by
  have hset : ∀ (b x : Dev) v0 v1, Only [.stm, .trc] b x → Only [.stm, .trc] b { x with stm := v0, trc := v1 } := by
    refine fun b x v0 v1 h => ⟨fun p hp => ?_⟩
    cases p <;> first | exact h.same _ hp | cases hp
  unfold Dev.stage
  repeat' first
    | fail_if_no_progress (with_reducible apply hset)
    | with_reducible exact Only.refl _ _
    | with_reducible assumption
    | (with_reducible apply Only.step (stageLost_only _))
    | (with_reducible apply Only.step (closeStream_only _ _ _))
    | (with_reducible apply Only.foldl)
    | intro _
    | split
    | (with_reducible refine Only.snd (by assumption) ?_)
    | (with_reducible refine Only.fst (by assumption) ?_)
    | decide
    | (dsimp only; done)
    | dsimp only

theorem stagePlan_only (d : Dev) (h : BitVec 16) (func : Nat) (sid : Option (BitVec 16)) (bs : List Byte) :
    Only [.stm, .trc] d (Dev.stagePlan d h func sid bs) := by
  unfold Dev.stagePlan
  repeat' first
    | with_reducible exact Only.refl _ _
    | with_reducible assumption
    | (with_reducible apply Only.step (stage_only _ _ _ _ _))
    | (with_reducible apply Only.foldl)
    | intro _
    | split
    | (with_reducible refine Only.snd (by assumption) ?_)
    | (with_reducible refine Only.fst (by assumption) ?_)
    | decide

theorem stageAll_only (d : Dev) (h : BitVec 16) (func : Nat) (l : List (Option (BitVec 16) × Bool × List Byte)) :
    Only [.stm, .trc] d (Dev.stageAll d h func l) := by
  unfold Dev.stageAll
  repeat' first
    | with_reducible exact Only.refl _ _
    | with_reducible assumption
    | (with_reducible apply Only.step (stagePlan_only _ _ _ _ _))
    | (with_reducible apply Only.foldl)
    | intro _
    | split
    | (with_reducible refine Only.snd (by assumption) ?_)
    | (with_reducible refine Only.fst (by assumption) ?_)
    | decide

theorem stageDomain_only (d : Dev) (code dom cause : Nat) : Only [.stm, .trc] d (Dev.stageDomain d code dom cause) := by
  unfold Dev.stageDomain
  repeat' first
    | with_reducible exact Only.refl _ _
    | with_reducible assumption
    | (with_reducible apply Only.step (stage_only _ _ _ _ _))
    | (with_reducible apply Only.foldl)
    | intro _
    | split
    | (with_reducible refine Only.snd (by assumption) ?_)
    | (with_reducible refine Only.fst (by assumption) ?_)
    | decide

theorem latchPush_only (d : Dev) (r : Rec) : Only [.health] d (Dev.latchPush d r) := by
  have hset : ∀ (b x : Dev) v0, Only [.health] b x → Only [.health] b { x with health := v0 } := by
    refine fun b x v0 h => ⟨fun p hp => ?_⟩
    cases p <;> first | exact h.same _ hp | cases hp
  unfold Dev.latchPush
  repeat' first
    | fail_if_no_progress (with_reducible apply hset)
    | with_reducible exact Only.refl _ _
    | with_reducible assumption
    | (with_reducible apply Only.foldl)
    | intro _
    | split

theorem queueEvent_only (d : Dev) (r : Rec) : Only [.chans, .msix] d (Dev.queueEvent d r) := by
  unfold Dev.queueEvent
  repeat' first
    | with_reducible exact Only.refl _ _
    | with_reducible assumption
    | (with_reducible apply Only.step (queueResp_only _ _ _))
    | (with_reducible apply Only.step (modChan_only _ _ _))
    | (with_reducible apply Only.foldl)
    | intro _
    | split
    | (with_reducible refine Only.snd (by assumption) ?_)
    | (with_reducible refine Only.fst (by assumption) ?_)
    | decide

theorem postEvent_only (d : Dev) (r : Rec) : Only [.chans, .msix] d (Dev.postEvent d r) := by
  unfold Dev.postEvent
  repeat' first
    | with_reducible exact Only.refl _ _
    | with_reducible assumption
    | (with_reducible apply Only.step (queueEvent_only _ _))
    | (with_reducible apply Only.step (modChan_only _ _ _))
    | (with_reducible apply Only.foldl)
    | intro _
    | split
    | (with_reducible refine Only.snd (by assumption) ?_)
    | (with_reducible refine Only.fst (by assumption) ?_)
    | decide
    | (dsimp only; done)
    | dsimp only

theorem logRecord_only (d : Dev) (r : Rec) : Only [.health, .stm, .trc] d (Dev.logRecord d r) := by
  have hset : ∀ (b x : Dev) v0 v1 v2,
      Only [.health, .stm, .trc] b x →
      Only [.health, .stm, .trc] b { x with health := v0, stm := v1, trc := v2 } := by
    refine fun b x v0 v1 v2 h => ⟨fun p hp => ?_⟩
    cases p <;> first | exact h.same _ hp | cases hp
  unfold Dev.logRecord
  repeat' first
    | fail_if_no_progress (with_reducible apply hset)
    | with_reducible exact Only.refl _ _
    | with_reducible assumption
    | (with_reducible apply Only.step (stage_only _ _ _ _ _))
    | (with_reducible apply Only.foldl)
    | intro _
    | split
    | (with_reducible refine Only.snd (by assumption) ?_)
    | (with_reducible refine Only.fst (by assumption) ?_)
    | decide
    | (dsimp only; done)
    | dsimp only

theorem takeRecord_only (d : Dev) (r : Rec) : Only [.chans, .msix, .health, .stm, .trc] d (Dev.takeRecord d r) := by
  unfold Dev.takeRecord
  repeat' first
    | with_reducible exact Only.refl _ _
    | with_reducible assumption
    | (with_reducible apply Only.step (logRecord_only _ _))
    | (with_reducible apply Only.step (postEvent_only _ _))
    | (with_reducible apply Only.step (latchPush_only _ _))
    | (with_reducible apply Only.foldl)
    | intro _
    | split
    | (with_reducible refine Only.snd (by assumption) ?_)
    | (with_reducible refine Only.fst (by assumption) ?_)
    | decide
    | (dsimp only; done)
    | dsimp only

theorem takeHeld_only (d : Dev) : Only [.chans, .msix, .health, .stm, .trc] d (Dev.takeHeld d) := by
  have hset : ∀ (b x : Dev) v0 v1 v2 v3 v4,
      Only [.chans, .msix, .health, .stm, .trc] b x →
      Only [.chans, .msix, .health, .stm, .trc] b { x with chans := v0, msix := v1, health := v2, stm := v3, trc := v4 } := by
    refine fun b x v0 v1 v2 v3 v4 h => ⟨fun p hp => ?_⟩
    cases p <;> first | exact h.same _ hp | cases hp
  unfold Dev.takeHeld
  repeat' first
    | fail_if_no_progress (with_reducible apply hset)
    | with_reducible exact Only.refl _ _
    | with_reducible assumption
    | (with_reducible apply Only.step (takeRecord_only _ _))
    | (with_reducible apply Only.foldl)
    | intro _
    | split
    | (with_reducible refine Only.snd (by assumption) ?_)
    | (with_reducible refine Only.fst (by assumption) ?_)
    | decide

theorem writeRecord_only (d : Dev) (r : Rec) : Only [.chans, .msix, .health, .stm, .trc] d (Dev.writeRecord d r) := by
  unfold Dev.writeRecord
  repeat' first
    | with_reducible exact Only.refl _ _
    | with_reducible assumption
    | (with_reducible apply Only.step (takeRecord_only _ _))
    | (with_reducible apply Only.step (latchPush_only _ _))
    | (with_reducible apply Only.foldl)
    | intro _
    | split
    | (with_reducible refine Only.snd (by assumption) ?_)
    | (with_reducible refine Only.fst (by assumption) ?_)
    | decide

theorem setHltEvent_only (d : Dev) (i : Nat) : Only [.health] d (Dev.setHltEvent d i) := by
  have hset : ∀ (b x : Dev) v0, Only [.health] b x → Only [.health] b { x with health := v0 } := by
    refine fun b x v0 h => ⟨fun p hp => ?_⟩
    cases p <;> first | exact h.same _ hp | cases hp
  unfold Dev.setHltEvent
  repeat' first
    | fail_if_no_progress (with_reducible apply hset)
    | with_reducible exact Only.refl _ _

theorem haltQueue_only (d : Dev) (c : Nat) : Only [.cqs] d (Dev.haltQueue d c) := by
  unfold Dev.haltQueue
  repeat' first
    | with_reducible exact Only.refl _ _
    | with_reducible assumption
    | (with_reducible apply Only.step (modRegs_only _ _ _))
    | (with_reducible apply Only.foldl)
    | intro _
    | split
    | (with_reducible refine Only.snd (by assumption) ?_)
    | (with_reducible refine Only.fst (by assumption) ?_)
    | decide

theorem haltPlan_only (d : Dev) (p : Plan) : Only [.cqs] d (Dev.haltPlan d p) := by
  unfold Dev.haltPlan
  repeat' first
    | with_reducible exact Only.refl _ _
    | with_reducible assumption
    | (with_reducible apply Only.step (haltQueue_only _ _))
    | (with_reducible apply Only.foldl)
    | intro _
    | split
    | (with_reducible refine Only.snd (by assumption) ?_)
    | (with_reducible refine Only.fst (by assumption) ?_)
    | decide

/-! ### Operands -/

theorem unitLines_only (d : Dev) (c : Nat) (reads : List (Nat × Nat)) (writes : List (Nat × List Byte)) :
    Only [.dscs] d (Dev.unitLines d c reads writes) := by
  unfold Dev.unitLines
  repeat' first
    | with_reducible exact Only.refl _ _
    | with_reducible assumption
    | (with_reducible apply Only.step (writeLines_only _ _ _ _))
    | (with_reducible apply Only.step (readLines_only _ _ _ _))
    | (with_reducible apply Only.foldl)
    | intro _
    | split
    | (with_reducible refine Only.snd (by assumption) ?_)
    | (with_reducible refine Only.fst (by assumption) ?_)
    | decide

theorem unitWrite_only (d : Dev) (c : Nat) (reads : List (Nat × Nat)) (writes : List (Nat × List Byte)) :
    Only [.cqs, .stks, .dscs] d (Dev.unitWrite d c reads writes).1 := by
  unfold Dev.unitWrite
  repeat' first
    | with_reducible exact Only.refl _ _
    | with_reducible assumption
    | (with_reducible apply Only.step (unitLines_only _ _ _ _))
    | (with_reducible apply Only.step (countPoison_only _ _))
    | (with_reducible apply Only.step (modCq_only _ _ _))
    | (with_reducible apply Only.foldl)
    | intro _
    | split
    | (with_reducible refine Only.snd (by assumption) ?_)
    | (with_reducible refine Only.fst (by assumption) ?_)
    | decide
    | (dsimp only; done)
    | dsimp only

/-! ### Issue -/

theorem takeHead_only (d : Dev) (x : Ctx) (f : Fetched) : Only [.cqs] d (Dev.takeHead d x f) := by
  unfold Dev.takeHead
  repeat' first
    | with_reducible exact Only.refl _ _
    | with_reducible assumption
    | (with_reducible apply Only.step (modCq_only _ _ _))
    | (with_reducible apply Only.foldl)
    | intro _
    | split
    | (with_reducible refine Only.snd (by assumption) ?_)
    | (with_reducible refine Only.fst (by assumption) ?_)
    | decide

theorem issue_q_only {d e : Dev} {c op : Nat} {x : Ctx} {fl : Flight} (h : d.issue? c op = some (x, fl, e)) : Only [.cqs] d e := by
  unfold Dev.issue? at h
  split at h
  · cases h
  · split at h
    · cases h; exact Only.refl _ _
    · split at h
      · cases h
      · split at h
        · cases h
          refine Only.step (modCq_only _ _ _) rfl ?_
          exact Only.step (takeHead_only _ _ _) rfl (Only.refl _ _)
        · cases h

theorem putFlight_only (d : Dev) (c : Nat) (fl : Flight) : Only [.cqs] d (Dev.putFlight d c fl) := by
  unfold Dev.putFlight
  repeat' first
    | with_reducible exact Only.refl _ _
    | with_reducible assumption
    | (with_reducible apply Only.step (modCq_only _ _ _))
    | (with_reducible apply Only.foldl)
    | intro _
    | split
    | (with_reducible refine Only.snd (by assumption) ?_)
    | (with_reducible refine Only.fst (by assumption) ?_)
    | decide

theorem badRecord_only (d : Dev) (x : Ctx) (bs : List Byte) (status : BitVec 16) (addr : Option Nat) :
    Only [.chans, .msix, .health, .stm, .trc] d (Dev.badRecord d x bs status addr) := by
  unfold Dev.badRecord
  repeat' first
    | with_reducible exact Only.refl _ _
    | with_reducible assumption
    | (with_reducible apply Only.step (writeRecord_only _ _))
    | (with_reducible apply Only.foldl)
    | intro _
    | split
    | (with_reducible refine Only.snd (by assumption) ?_)
    | (with_reducible refine Only.fst (by assumption) ?_)
    | decide

theorem restartDeadlock_only (d : Dev) (c : Nat) : Only [.cqs] d (Dev.restartDeadlock d c) := by
  unfold Dev.restartDeadlock
  repeat' first
    | with_reducible exact Only.refl _ _
    | with_reducible assumption
    | (with_reducible apply Only.step (modCq_only _ _ _))
    | (with_reducible apply Only.foldl)
    | intro _
    | split
    | (with_reducible refine Only.snd (by assumption) ?_)
    | (with_reducible refine Only.fst (by assumption) ?_)
    | decide

theorem complete_only (d : Dev) (x : Ctx) (bs : List Byte) (status : BitVec 16) (cflags : BitVec 8) (addr : Option Nat) :
    Only [.chans, .msix, .cqs, .health, .stm, .trc] d (Dev.complete d x bs status cflags addr) := by
  unfold Dev.complete
  repeat' first
    | with_reducible exact Only.refl _ _
    | with_reducible assumption
    | (with_reducible apply Only.step (restartDeadlock_only _ _))
    | (with_reducible apply Only.step (badRecord_only _ _ _ _ _))
    | (with_reducible apply Only.step (modCq_only _ _ _))
    | (with_reducible apply Only.foldl)
    | intro _
    | split
    | (with_reducible refine Only.snd (by assumption) ?_)
    | (with_reducible refine Only.fst (by assumption) ?_)
    | decide

theorem completeNow_only (d : Dev) (x : Ctx) (fl : Flight) :
    Only [.chans, .msix, .cqs, .health, .stm, .trc] d (Dev.completeNow d x fl) := by
  unfold Dev.completeNow
  repeat' first
    | with_reducible exact Only.refl _ _
    | with_reducible assumption
    | (with_reducible apply Only.step (complete_only _ _ _ _ _ _))
    | (with_reducible apply Only.step (modCq_only _ _ _))
    | (with_reducible apply Only.foldl)
    | intro _
    | split
    | (with_reducible refine Only.snd (by assumption) ?_)
    | (with_reducible refine Only.fst (by assumption) ?_)
    | decide

theorem modCcr_only (d : Dev) (n : Nat) (f : Ccr → Ccr) : Only [.sites] d (Dev.modCcr d n f) := by
  unfold Dev.modCcr
  repeat' first
    | with_reducible exact Only.refl _ _
    | with_reducible assumption
    | (with_reducible apply Only.step (modSite_only _ _ _))
    | (with_reducible apply Only.foldl)
    | intro _
    | split
    | (with_reducible refine Only.snd (by assumption) ?_)
    | (with_reducible refine Only.fst (by assumption) ?_)
    | decide

theorem takeTuple_only {d e : Dev} {site n : Nat} {tag : BitVec 32} {s : List Nat} (h : d.takeTuple site n tag = some (s, e)) :
    Only [.sites] d e := by
  unfold Dev.takeTuple at h
  split at h
  · cases h
  · cases h; exact modCcr_only _ _ _

/-- The units of a command change what one unit changes, the address streams of the site and the deadlock count of its chunk. -/
theorem unitLoop_only {m : List Part} {f : Dev → Flight → Nat → List Nat → Dev × Flight × UnitEnd}
    (hs : [Part.cqs, .sites].all m.contains = true) (hf : ∀ d fl n s, Only m d (f d fl n s).1) (x : Ctx) (k n : Nat) (d : Dev)
    (fl : Flight) {b : Dev} (g : Only m b d) : Only m b (unitLoop x k f n d fl).1 := by
  induction n generalizing d fl with
  | zero => exact g
  | succ n ih =>
    have go : ∀ (e : Dev) (fl k0 : Flight) (slots : List Nat), Only m b e →
        Only m b (match f e fl fl.units slots with
          | (d, fl, .done) => unitLoop x k f n d { fl with units := fl.units + 1 }
          | (d, fl, .bad a) => (d, fl.bad (some a))
          | (d, fl, .poisoned a) => (d, fl.poison a)
          | (d, fl, .fault) => (d, fl)
          | (_, _, .wait) => (d, k0)).1 := by
      intro e fl k0 slots he
      have hm : m.all m.contains = true := by simp
      have h1 := Only.step (hf e fl fl.units slots) hm he
      split
      next h => rw [h] at h1; exact ih _ _ h1
      next h => rw [h] at h1; exact h1
      next h => rw [h] at h1; exact h1
      next h => rw [h] at h1; exact h1
      next h => exact g
    have hc : [Part.cqs].all m.contains = true := by simp at hs ⊢; exact hs.1
    have ht : [Part.sites].all m.contains = true := by simp at hs ⊢; exact hs.2
    unfold unitLoop
    dsimp only
    split
    · exact go _ _ _ _ g
    · split
      · exact g
      · next h =>
        have h2 := Only.step (restartDeadlock_only _ x.c) hc (Only.step (takeTuple_only h) ht g)
        split
        · exact go _ _ _ _ h2
        · exact h2

theorem countFault_only (d : Dev) (core : Option Nat) : Only [.plans, .health] d (Dev.countFault d core).2 := by
  have hset : ∀ (b x : Dev) v0 v1, Only [.plans, .health] b x → Only [.plans, .health] b { x with plans := v0, health := v1 } := by
    refine fun b x v0 v1 h => ⟨fun p hp => ?_⟩
    cases p <;> first | exact h.same _ hp | cases hp
  unfold Dev.countFault
  repeat' first
    | fail_if_no_progress (with_reducible apply hset)
    | with_reducible exact Only.refl _ _
    | with_reducible assumption
    | (with_reducible apply Only.step (setHltEvent_only _ _))
    | (with_reducible apply Only.step (modPlan_only _ _ _))
    | (with_reducible apply Only.foldl)
    | intro _
    | split
    | (with_reducible refine Only.snd (by assumption) ?_)
    | (with_reducible refine Only.fst (by assumption) ?_)
    | decide

theorem siteFault_only (d : Dev) (site : Nat) (cause : RecCause) (source err : Nat) (tag : BitVec 32) :
    Only [.plans, .health] d (Dev.siteFault d site cause source err tag) := by
  have hset : ∀ (b x : Dev) v0 v1, Only [.plans, .health] b x → Only [.plans, .health] b { x with plans := v0, health := v1 } := by
    refine fun b x v0 v1 h => ⟨fun p hp => ?_⟩
    cases p <;> first | exact h.same _ hp | cases hp
  unfold Dev.siteFault
  repeat' first
    | fail_if_no_progress (with_reducible apply hset)
    | with_reducible exact Only.refl _ _
    | with_reducible assumption
    | (with_reducible apply Only.step (countFault_only _ _))
    | (with_reducible apply Only.step (setSiteState_only _ _ _))
    | (with_reducible apply Only.foldl)
    | intro _
    | split
    | (with_reducible refine Only.snd (by assumption) ?_)
    | (with_reducible refine Only.fst (by assumption) ?_)
    | decide

/-! ### Crater -/

theorem enterCrater_only (d : Dev) (u : BitVec 16) (host : Option (BitVec 8)) : Only [.health, .free] d (Dev.enterCrater d u host).2 := by
  have hset : ∀ (b x : Dev) v0 v1, Only [.health, .free] b x → Only [.health, .free] b { x with health := v0, free := v1 } := by
    refine fun b x v0 v1 h => ⟨fun p hp => ?_⟩
    cases p <;> first | exact h.same _ hp | cases hp
  unfold Dev.enterCrater
  repeat' first
    | fail_if_no_progress (with_reducible apply hset)
    | with_reducible exact Only.refl _ _
    | with_reducible assumption
    | (with_reducible apply Only.step (setHltEvent_only _ _))
    | (with_reducible apply Only.step (draw_only _))
    | (with_reducible apply Only.foldl)
    | intro _
    | split
    | (with_reducible refine Only.snd (by assumption) ?_)
    | (with_reducible refine Only.fst (by assumption) ?_)
    | decide

theorem modCrater_only (d : Dev) (u : BitVec 16) (f : Crater → Crater) : Only [.health] d (Dev.modCrater d u f) := by
  have hset : ∀ (b x : Dev) v0, Only [.health] b x → Only [.health] b { x with health := v0 } := by
    refine fun b x v0 h => ⟨fun p hp => ?_⟩
    cases p <;> first | exact h.same _ hp | cases hp
  unfold Dev.modCrater
  repeat' first
    | fail_if_no_progress (with_reducible apply hset)
    | with_reducible exact Only.refl _ _

theorem leaveCrater_only (d : Dev) (u : BitVec 16) : Only [.health] d (Dev.leaveCrater d u) := by
  have hset : ∀ (b x : Dev) v0, Only [.health] b x → Only [.health] b { x with health := v0 } := by
    refine fun b x v0 h => ⟨fun p hp => ?_⟩
    cases p <;> first | exact h.same _ hp | cases hp
  unfold Dev.leaveCrater
  repeat' first
    | fail_if_no_progress (with_reducible apply hset)
    | with_reducible exact Only.refl _ _

theorem countDeviceFault_only (d : Dev) : Only [.plans, .health] d (Dev.countDeviceFault d).2 := by
  have hset : ∀ (b x : Dev) v0 v1, Only [.plans, .health] b x → Only [.plans, .health] b { x with plans := v0, health := v1 } := by
    refine fun b x v0 v1 h => ⟨fun p hp => ?_⟩
    cases p <;> first | exact h.same _ hp | cases hp
  unfold Dev.countDeviceFault
  repeat' first
    | fail_if_no_progress (with_reducible apply hset)
    | with_reducible exact Only.refl _ _
    | with_reducible assumption
    | (with_reducible apply Only.step (setHltEvent_only _ _))
    | (with_reducible apply Only.foldl)
    | intro _
    | split
    | (with_reducible refine Only.snd (by assumption) ?_)
    | (with_reducible refine Only.fst (by assumption) ?_)
    | decide
    | (dsimp only; done)
    | dsimp only

/-! ### Domains -/

theorem setDom_only (d : Dev) (k : Nat) (s : DomState) : Only [.pwr] d (Dev.setDom d k s) := by
  have hset : ∀ (b x : Dev) v0, Only [.pwr] b x → Only [.pwr] b { x with pwr := v0 } := by
    refine fun b x v0 h => ⟨fun p hp => ?_⟩
    cases p <;> first | exact h.same _ hp | cases hp
  unfold Dev.setDom
  repeat' first
    | fail_if_no_progress (with_reducible apply hset)
    | with_reducible exact Only.refl _ _

theorem serveRamps_only (n : Nat) (d : Dev) : Only [.pwr] d (Dev.serveRamps n d) := by
  induction n generalizing d with
  | zero => exact Only.refl _ _
  | succ n ih =>
    unfold Dev.serveRamps
    split
    · exact Only.refl _ _
    · split
      · exact Only.refl _ _
      · refine Only.step (ih _) rfl ⟨fun p hp => ?_⟩
        cases p <;> first | rfl | cases hp

theorem powerUp_only (d : Dev) (k cause : Nat) : Only [.pwr] d (Dev.powerUp d k cause) := by
  have hset : ∀ (b x : Dev) v0, Only [.pwr] b x → Only [.pwr] b { x with pwr := v0 } := by
    refine fun b x v0 h => ⟨fun p hp => ?_⟩
    cases p <;> first | exact h.same _ hp | cases hp
  unfold Dev.powerUp
  repeat' first
    | fail_if_no_progress (with_reducible apply hset)
    | with_reducible exact Only.refl _ _
    | with_reducible assumption
    | (with_reducible apply Only.foldl)
    | intro _
    | split

theorem discharge_only (d : Dev) (k : Nat) : Only [.pwr] d (Dev.discharge d k) := by
  have hset : ∀ (b x : Dev) v0, Only [.pwr] b x → Only [.pwr] b { x with pwr := v0 } := by
    refine fun b x v0 h => ⟨fun p hp => ?_⟩
    cases p <;> first | exact h.same _ hp | cases hp
  unfold Dev.discharge
  repeat' first
    | fail_if_no_progress (with_reducible apply hset)
    | with_reducible exact Only.refl _ _

theorem powerOff_only (d : Dev) (k cause : Nat) : Only [.stm, .trc, .pwr] d (Dev.powerOff d k cause) := by
  unfold Dev.powerOff
  repeat' first
    | with_reducible exact Only.refl _ _
    | with_reducible assumption
    | (with_reducible apply Only.step (discharge_only _ _))
    | (with_reducible apply Only.step (stageDomain_only _ _ _ _))
    | (with_reducible apply Only.foldl)
    | intro _
    | split
    | (with_reducible refine Only.snd (by assumption) ?_)
    | (with_reducible refine Only.fst (by assumption) ?_)
    | decide

theorem endDowns_only (d : Dev) : Only [.pwr] d (Dev.endDowns d) := by
  have hset : ∀ (b x : Dev) v0, Only [.pwr] b x → Only [.pwr] b { x with pwr := v0 } := by
    refine fun b x v0 h => ⟨fun p hp => ?_⟩
    cases p <;> first | exact h.same _ hp | cases hp
  unfold Dev.endDowns
  repeat' first
    | fail_if_no_progress (with_reducible apply hset)
    | with_reducible exact Only.refl _ _

theorem powerDown_only (d : Dev) (k cause : Nat) : Only [.stm, .trc, .pwr] d (Dev.powerDown d k cause) := by
  have hset : ∀ (b x : Dev) v0 v1 v2,
      Only [.stm, .trc, .pwr] b x →
      Only [.stm, .trc, .pwr] b { x with stm := v0, trc := v1, pwr := v2 } := by
    refine fun b x v0 v1 v2 h => ⟨fun p hp => ?_⟩
    cases p <;> first | exact h.same _ hp | cases hp
  unfold Dev.powerDown
  repeat' first
    | fail_if_no_progress (with_reducible apply hset)
    | with_reducible exact Only.refl _ _
    | with_reducible assumption
    | (with_reducible apply Only.step (powerOff_only _ _ _))
    | (with_reducible apply Only.foldl)
    | intro _
    | split
    | (with_reducible refine Only.snd (by assumption) ?_)
    | (with_reducible refine Only.fst (by assumption) ?_)
    | decide
    | (dsimp only; done)
    | dsimp only

theorem releaseDomains_only (d : Dev) : Only [.pwr] d (Dev.releaseDomains d) := by
  have hset : ∀ (b x : Dev) v0, Only [.pwr] b x → Only [.pwr] b { x with pwr := v0 } := by
    refine fun b x v0 h => ⟨fun p hp => ?_⟩
    cases p <;> first | exact h.same _ hp | cases hp
  unfold Dev.releaseDomains
  repeat' first
    | fail_if_no_progress (with_reducible apply hset)
    | with_reducible exact Only.refl _ _
    | with_reducible assumption
    | (with_reducible apply Only.foldl)
    | intro _
    | split

/-! ### Lane -/

theorem modLbk_only (d : Dev) (n : Nat) (f : Lbk → Lbk) : Only [.sites] d (Dev.modLbk d n f) := by
  unfold Dev.modLbk
  repeat' first
    | with_reducible exact Only.refl _ _
    | with_reducible assumption
    | (with_reducible apply Only.step (modSite_only _ _ _))
    | (with_reducible apply Only.foldl)
    | intro _
    | split
    | (with_reducible refine Only.snd (by assumption) ?_)
    | (with_reducible refine Only.fst (by assumption) ?_)
    | decide

theorem modAcc_only (d : Dev) (n : Nat) (f : Acc → Acc) : Only [.sites] d (Dev.modAcc d n f) := by
  unfold Dev.modAcc
  repeat' first
    | with_reducible exact Only.refl _ _
    | with_reducible assumption
    | (with_reducible apply Only.step (modSite_only _ _ _))
    | (with_reducible apply Only.foldl)
    | intro _
    | split
    | (with_reducible refine Only.snd (by assumption) ?_)
    | (with_reducible refine Only.fst (by assumption) ?_)
    | decide

theorem updateDemand_only (d : Dev) (c site : Nat) : Only [.sites] d (Dev.updateDemand d c site) := by
  unfold Dev.updateDemand
  repeat' first
    | with_reducible exact Only.refl _ _
    | with_reducible assumption
    | (with_reducible apply Only.step (modLbk_only _ _ _))
    | (with_reducible apply Only.foldl)
    | intro _
    | split
    | (with_reducible refine Only.snd (by assumption) ?_)
    | (with_reducible refine Only.fst (by assumption) ?_)
    | decide

theorem laneFault_only (d : Dev) (site bit : Nat) (tag : BitVec 32) : Only [.plans, .sites, .health] d (Dev.laneFault d site bit tag) := by
  unfold Dev.laneFault
  repeat' first
    | with_reducible exact Only.refl _ _
    | with_reducible assumption
    | (with_reducible apply Only.step (modLbk_only _ _ _))
    | (with_reducible apply Only.step (siteFault_only _ _ _ _ _ _))
    | (with_reducible apply Only.foldl)
    | intro _
    | split
    | (with_reducible refine Only.snd (by assumption) ?_)
    | (with_reducible refine Only.fst (by assumption) ?_)
    | decide

theorem wloadUnit_only (d : Dev) (x : Ctx) (fl : Flight) (flt : Bool) :
    Only [.plans, .cqs, .stks, .dscs, .sites, .health, .free] d (wloadUnit d x fl flt) := by
  unfold wloadUnit
  repeat' first
    | with_reducible exact Only.refl _ _
    | with_reducible assumption
    | (with_reducible apply Only.step (laneFault_only _ _ _ _))
    | (with_reducible apply Only.step (modLbk_only _ _ _))
    | (with_reducible apply Only.step (putFlight_only _ _ _))
    | (with_reducible apply Only.step (unitWrite_only _ _ _ _))
    | (with_reducible apply Only.step (draw_only _))
    | (with_reducible apply Only.foldl)
    | intro _
    | split
    | (with_reducible refine Only.snd (by assumption) ?_)
    | (with_reducible refine Only.fst (by assumption) ?_)
    | decide
    | (dsimp only; done)
    | dsimp only

theorem wload_only (c : Fin 72) (flt : Bool) (d : Dev) : Only [.plans, .cqs, .stks, .dscs, .sites, .health, .free] d (wload c flt d) := by
  unfold wload
  repeat' first
    | with_reducible exact Only.refl _ _
    | with_reducible assumption
    | (with_reducible refine Only.step (issue_q_only (by assumption)) ?_ ?_)
    | (with_reducible apply Only.step (wloadUnit_only _ _ _ _))
    | (with_reducible apply Only.foldl)
    | intro _
    | split
    | (with_reducible refine Only.snd (by assumption) ?_)
    | (with_reducible refine Only.fst (by assumption) ?_)
    | decide

theorem wswap_only (c : Fin 72) (d : Dev) : Only [.chans, .msix, .cqs, .sites, .health, .stm, .trc, .free] d (wswap c d) := by
  unfold wswap
  repeat' first
    | with_reducible exact Only.refl _ _
    | with_reducible assumption
    | (with_reducible refine Only.step (issue_q_only (by assumption)) ?_ ?_)
    | (with_reducible apply Only.step (modLbk_only _ _ _))
    | (with_reducible apply Only.step (completeNow_only _ _ _))
    | (with_reducible apply Only.step (draw_only _))
    | (with_reducible apply Only.foldl)
    | intro _
    | split
    | (with_reducible refine Only.snd (by assumption) ?_)
    | (with_reducible refine Only.fst (by assumption) ?_)
    | decide

theorem mmaUnit_only (x : Ctx) (d : Dev) (fl : Flight) (r : Nat) (slots : List Nat) :
    Only [.plans, .cqs, .stks, .dscs, .sites, .health, .free] d (mmaUnit x d fl r slots).1 := by
  unfold mmaUnit
  repeat' first
    | with_reducible exact Only.refl _ _
    | with_reducible assumption
    | (with_reducible apply Only.step (laneFault_only _ _ _ _))
    | (with_reducible apply Only.step (unitWrite_only _ _ _ _))
    | (with_reducible apply Only.step (draw_only _))
    | (with_reducible apply Only.step (modSite_only _ _ _))
    | (with_reducible apply Only.foldl)
    | intro _
    | split
    | (with_reducible refine Only.snd (by assumption) ?_)
    | (with_reducible refine Only.fst (by assumption) ?_)
    | decide
    | (dsimp only; done)
    | dsimp only

theorem arrayStalls_only (d : Dev) (site : Nat) : Only [.sites, .free] d (Dev.arrayStalls d site) := by
  unfold Dev.arrayStalls
  repeat' first
    | with_reducible exact Only.refl _ _
    | with_reducible assumption
    | (with_reducible apply Only.step (modLbk_only _ _ _))
    | (with_reducible apply Only.step (draw_only _))
    | (with_reducible apply Only.foldl)
    | intro _
    | split
    | (with_reducible refine Only.snd (by assumption) ?_)
    | (with_reducible refine Only.fst (by assumption) ?_)
    | decide

theorem mmaStalls_only (d : Dev) (site : Nat) (fl : Flight) : Only [.sites, .free] d (Dev.mmaStalls d site fl) := by
  unfold Dev.mmaStalls
  repeat' first
    | with_reducible exact Only.refl _ _
    | with_reducible assumption
    | (with_reducible apply Only.step (arrayStalls_only _ _))
    | (with_reducible apply Only.step (modSite_only _ _ _))
    | (with_reducible apply Only.foldl)
    | intro _
    | split
    | (with_reducible refine Only.snd (by assumption) ?_)
    | (with_reducible refine Only.fst (by assumption) ?_)
    | decide

theorem mmaRun_only (d : Dev) (x : Ctx) (fl : Flight) (flt : Option MmaFault) :
    Only [.plans, .cqs, .stks, .dscs, .sites, .health, .free] d (mmaRun d x fl flt) := by
  unfold mmaRun
  repeat' first
    | with_reducible exact Only.refl _ _
    | with_reducible assumption
    | (with_reducible apply unitLoop_only)
    | (with_reducible apply Only.step (mmaStalls_only _ _ _))
    | (with_reducible apply Only.step (mmaUnit_only _ _ _ _ _))
    | (with_reducible apply Only.step (laneFault_only _ _ _ _))
    | (with_reducible apply Only.step (updateDemand_only _ _ _))
    | (with_reducible apply Only.step (modAcc_only _ _ _))
    | (with_reducible apply Only.step (putFlight_only _ _ _))
    | (with_reducible apply Only.foldl)
    | intro _
    | split
    | (with_reducible refine Only.snd (by assumption) ?_)
    | (with_reducible refine Only.fst (by assumption) ?_)
    | decide
    | (dsimp only; done)
    | dsimp only

theorem mma_only (c : Fin 72) (flt : Option MmaFault) (d : Dev) :
    Only [.plans, .cqs, .stks, .dscs, .sites, .health, .free] d (mma c flt d) := by
  unfold mma
  repeat' first
    | with_reducible exact Only.refl _ _
    | with_reducible assumption
    | (with_reducible refine Only.step (issue_q_only (by assumption)) ?_ ?_)
    | (with_reducible apply Only.step (mmaRun_only _ _ _ _))
    | (with_reducible apply Only.foldl)
    | intro _
    | split
    | (with_reducible refine Only.snd (by assumption) ?_)
    | (with_reducible refine Only.fst (by assumption) ?_)
    | decide

theorem dummy_only (c : Fin 72) (d : Dev) : Only [.cqs, .sites] d (dummy c d) := by
  unfold dummy
  repeat' first
    | with_reducible exact Only.refl _ _
    | with_reducible assumption
    | (with_reducible refine Only.step (issue_q_only (by assumption)) ?_ ?_)
    | (with_reducible apply Only.step (updateDemand_only _ _ _))
    | (with_reducible apply Only.step (putFlight_only _ _ _))
    | (with_reducible apply Only.foldl)
    | intro _
    | split
    | (with_reducible refine Only.snd (by assumption) ?_)
    | (with_reducible refine Only.fst (by assumption) ?_)
    | decide

/-! ### Quant -/

theorem modQnt_only (d : Dev) (n : Nat) (f : Qnt → Qnt) : Only [.sites] d (Dev.modQnt d n f) := by
  unfold Dev.modQnt
  repeat' first
    | with_reducible exact Only.refl _ _
    | with_reducible assumption
    | (with_reducible apply Only.step (modSite_only _ _ _))
    | (with_reducible apply Only.foldl)
    | intro _
    | split
    | (with_reducible refine Only.snd (by assumption) ?_)
    | (with_reducible refine Only.fst (by assumption) ?_)
    | decide

theorem quantUnit_only (x : Ctx) (d : Dev) (fl : Flight) (u : Nat) (slots : List Nat) :
    Only [.cqs, .stks, .dscs, .sites] d (quantUnit x d fl u slots).1 := by
  suffices h : ∀ r, quantUnit x d fl u slots = r → Only [.cqs, .stks, .dscs, .sites] d r.1 from h _ rfl
  intro r hr
  unfold quantUnit at hr
  extract_lets bs hist r q n as rs at hr
  clear_value rs
  split at hr
  · subst hr; exact Only.refl _ _
  · split at hr
    · next h => subst hr; exact Only.step (modSite_only _ _ _) rfl (Only.step (Only.fst h (unitWrite_only _ _ _ _)) rfl (Only.refl _ _))
    · next h => subst hr; exact Only.step (Only.fst h (unitWrite_only _ _ _ _)) rfl (Only.refl _ _)

theorem quantStall_only (d : Dev) (site : Nat) : Only [.sites, .free] d (Dev.quantStall d site) := by
  unfold Dev.quantStall
  repeat' first
    | with_reducible exact Only.refl _ _
    | with_reducible assumption
    | (with_reducible apply Only.step (modQnt_only _ _ _))
    | (with_reducible apply Only.step (draw_only _))
    | (with_reducible apply Only.foldl)
    | intro _
    | split
    | (with_reducible refine Only.snd (by assumption) ?_)
    | (with_reducible refine Only.fst (by assumption) ?_)
    | decide

theorem pathFault_only (d : Dev) (site : Nat) (tag : BitVec 32) : Only [.plans, .sites, .health] d (Dev.pathFault d site tag) := by
  unfold Dev.pathFault
  repeat' first
    | with_reducible exact Only.refl _ _
    | with_reducible assumption
    | (with_reducible apply Only.step (modLbk_only _ _ _))
    | (with_reducible apply Only.step (siteFault_only _ _ _ _ _ _))
    | (with_reducible apply Only.foldl)
    | intro _
    | split
    | (with_reducible refine Only.snd (by assumption) ?_)
    | (with_reducible refine Only.fst (by assumption) ?_)
    | decide

theorem quantRun_only (d : Dev) (x : Ctx) (fl : Flight) (flt : Bool) :
    Only [.plans, .cqs, .stks, .dscs, .sites, .health, .free] d (quantRun d x fl flt) := by
  have put : ∀ (e : Dev) (f : Flight), Only [.plans, .cqs, .stks, .dscs, .sites, .health, .free] d e → Only [.plans, .cqs, .stks, .dscs,
      .sites, .health, .free] d (e.putFlight x.c f) :=
    fun e f h => Only.step (putFlight_only _ _ _) rfl h
  unfold quantRun
  extract_lets bs st hist n own rs base fresh d1 d2
  have h0 : Only [.plans, .cqs, .stks, .dscs, .sites, .health, .free] d d1 :=
      Only.ite (Only.step (readLines_only _ _ _ _) rfl (Only.refl _ _)) (Only.refl _ _)
  have h1 : Only [.plans, .cqs, .stks, .dscs, .sites, .health, .free] d d2 := Only.ite h0 (Only.step (modQnt_only _ _ _) rfl h0)
  split
  · exact Only.step (pathFault_only _ _ _) rfl (Only.refl _ _)
  · split
    · exact put _ _ (Only.refl _ _)
    · split
      · exact put _ _ (Only.refl _ _)
      · split
        · exact put _ _ (Only.refl _ _)
        · split
          · exact put _ _ (Only.refl _ _)
          · split
            · exact put _ _ (Only.step (countPoison_only _ _) rfl (Only.refl _ _))
            · split
              next h =>
              refine put _ _ (Only.step (quantStall_only _ _) rfl (Only.fst h ?_))
              exact unitLoop_only rfl (fun _ _ _ _ => Only.step (quantUnit_only _ _ _ _ _) rfl (Only.refl _ _)) _ _ _ _ _ h1

theorem quant_only (c : Fin 72) (flt : Bool) (d : Dev) : Only [.plans, .cqs, .stks, .dscs, .sites, .health, .free] d (quant c flt d) := by
  unfold quant
  repeat' first
    | with_reducible exact Only.refl _ _
    | with_reducible assumption
    | (with_reducible refine Only.step (issue_q_only (by assumption)) ?_ ?_)
    | (with_reducible apply Only.step (quantRun_only _ _ _ _))
    | (with_reducible apply Only.foldl)
    | intro _
    | split
    | (with_reducible refine Only.snd (by assumption) ?_)
    | (with_reducible refine Only.fst (by assumption) ?_)
    | decide

theorem deqUnit_only (x : Ctx) (d : Dev) (fl : Flight) (u : Nat) (slots : List Nat) :
    Only [.cqs, .stks, .dscs, .sites] d (deqUnit x d fl u slots).1 := by
  unfold deqUnit
  repeat' first
    | with_reducible exact Only.refl _ _
    | with_reducible assumption
    | (with_reducible apply Only.step (modQnt_only _ _ _))
    | (with_reducible apply Only.step (unitWrite_only _ _ _ _))
    | (with_reducible apply Only.foldl)
    | intro _
    | split
    | (with_reducible refine Only.snd (by assumption) ?_)
    | (with_reducible refine Only.fst (by assumption) ?_)
    | decide
    | (dsimp only; done)
    | dsimp only

theorem deq_only (c : Fin 72) (d : Dev) : Only [.cqs, .stks, .dscs, .sites, .free] d (deq c d) := by
  unfold deq
  repeat' first
    | with_reducible exact Only.refl _ _
    | with_reducible assumption
    | (with_reducible apply unitLoop_only)
    | (with_reducible refine Only.step (issue_q_only (by assumption)) ?_ ?_)
    | (with_reducible apply Only.step (deqUnit_only _ _ _ _ _))
    | (with_reducible apply Only.step (quantStall_only _ _))
    | (with_reducible apply Only.step (putFlight_only _ _ _))
    | (with_reducible apply Only.foldl)
    | intro _
    | split
    | (with_reducible refine Only.snd (by assumption) ?_)
    | (with_reducible refine Only.fst (by assumption) ?_)
    | decide
    | (dsimp only; done)
    | dsimp only

theorem statsUnit_only (x : Ctx) (d : Dev) (fl : Flight) (_u : Nat) (slots : List Nat) :
    Only [.cqs, .stks, .dscs, .sites] d (statsUnit x d fl _u slots).1 := by
  unfold statsUnit
  repeat' first
    | with_reducible exact Only.refl _ _
    | with_reducible assumption
    | (with_reducible apply Only.step (modQnt_only _ _ _))
    | (with_reducible apply Only.step (unitWrite_only _ _ _ _))
    | (with_reducible apply Only.foldl)
    | intro _
    | split
    | (with_reducible refine Only.snd (by assumption) ?_)
    | (with_reducible refine Only.fst (by assumption) ?_)
    | decide
    | (dsimp only; done)
    | dsimp only

theorem stats_only (c : Fin 72) (d : Dev) : Only [.cqs, .stks, .dscs, .sites, .free] d (stats c d) := by
  unfold stats
  repeat' first
    | with_reducible exact Only.refl _ _
    | with_reducible assumption
    | (with_reducible apply unitLoop_only)
    | (with_reducible refine Only.step (issue_q_only (by assumption)) ?_ ?_)
    | (with_reducible apply Only.step (statsUnit_only _ _ _ _ _))
    | (with_reducible apply Only.step (quantStall_only _ _))
    | (with_reducible apply Only.step (putFlight_only _ _ _))
    | (with_reducible apply Only.foldl)
    | intro _
    | split
    | (with_reducible refine Only.snd (by assumption) ?_)
    | (with_reducible refine Only.fst (by assumption) ?_)
    | decide
    | (dsimp only; done)
    | dsimp only

/-! ### Output -/

theorem drainUnit_only (x : Ctx) (d : Dev) (fl : Flight) (i : Nat) (slots : List Nat) :
    Only [.cqs, .stks, .dscs, .sites] d (drainUnit x d fl i slots).1 := by
  unfold drainUnit
  repeat' first
    | with_reducible exact Only.refl _ _
    | with_reducible assumption
    | (with_reducible apply Only.step (modAcc_only _ _ _))
    | (with_reducible apply Only.step (unitWrite_only _ _ _ _))
    | (with_reducible apply Only.foldl)
    | intro _
    | split
    | (with_reducible refine Only.snd (by assumption) ?_)
    | (with_reducible refine Only.fst (by assumption) ?_)
    | decide
    | (dsimp only; done)
    | dsimp only

theorem normBack_only (x : Ctx) (d : Dev) (fl : Flight) : Only [.cqs, .stks, .dscs] d (normBack x d fl).1 := by
  unfold normBack
  repeat' first
    | with_reducible exact Only.refl _ _
    | with_reducible assumption
    | (with_reducible apply Only.step (unitWrite_only _ _ _ _))
    | (with_reducible apply Only.foldl)
    | intro _
    | split
    | (with_reducible refine Only.snd (by assumption) ?_)
    | (with_reducible refine Only.fst (by assumption) ?_)
    | decide
    | (dsimp only; done)
    | dsimp only

theorem drainRun_only (d : Dev) (x : Ctx) (fl : Flight) (flt : Bool) :
    Only [.plans, .cqs, .stks, .dscs, .sites, .health, .free] d (drainRun d x fl flt) := by
  unfold drainRun
  repeat' first
    | with_reducible exact Only.refl _ _
    | with_reducible assumption
    | (with_reducible apply unitLoop_only)
    | (with_reducible apply Only.step (normBack_only _ _ _))
    | (with_reducible apply Only.step (drainUnit_only _ _ _ _ _))
    | (with_reducible apply Only.step (pathFault_only _ _ _))
    | (with_reducible apply Only.step (modAcc_only _ _ _))
    | (with_reducible apply Only.step (putFlight_only _ _ _))
    | (with_reducible apply Only.step (draw_only _))
    | (with_reducible apply Only.foldl)
    | intro _
    | split
    | (with_reducible refine Only.snd (by assumption) ?_)
    | (with_reducible refine Only.fst (by assumption) ?_)
    | decide
    | (dsimp only; done)
    | dsimp only

theorem drain_only (c : Fin 72) (flt : Bool) (d : Dev) : Only [.plans, .cqs, .stks, .dscs, .sites, .health, .free] d (drain c flt d) := by
  unfold drain
  repeat' first
    | with_reducible exact Only.refl _ _
    | with_reducible assumption
    | (with_reducible refine Only.step (issue_q_only (by assumption)) ?_ ?_)
    | (with_reducible apply Only.step (drainRun_only _ _ _ _))
    | (with_reducible apply Only.foldl)
    | intro _
    | split
    | (with_reducible refine Only.snd (by assumption) ?_)
    | (with_reducible refine Only.fst (by assumption) ?_)
    | decide

/-! ### Mvp -/

theorem modMvp_only (d : Dev) (n : Nat) (f : Mvp → Mvp) : Only [.sites] d (Dev.modMvp d n f) := by
  unfold Dev.modMvp
  repeat' first
    | with_reducible exact Only.refl _ _
    | with_reducible assumption
    | (with_reducible apply Only.step (modSite_only _ _ _))
    | (with_reducible apply Only.foldl)
    | intro _
    | split
    | (with_reducible refine Only.snd (by assumption) ?_)
    | (with_reducible refine Only.fst (by assumption) ?_)
    | decide

theorem mvpFault_only (d : Dev) (site bit : Nat) (tag : BitVec 32) : Only [.plans, .sites, .health] d (Dev.mvpFault d site bit tag) := by
  unfold Dev.mvpFault
  repeat' first
    | with_reducible exact Only.refl _ _
    | with_reducible assumption
    | (with_reducible apply Only.step (modMvp_only _ _ _))
    | (with_reducible apply Only.step (modLbk_only _ _ _))
    | (with_reducible apply Only.step (siteFault_only _ _ _ _ _ _))
    | (with_reducible apply Only.foldl)
    | intro _
    | split
    | (with_reducible refine Only.snd (by assumption) ?_)
    | (with_reducible refine Only.fst (by assumption) ?_)
    | decide

theorem mmvUnit_only (x : Ctx) (d : Dev) (fl : Flight) (r : Nat) (slots : List Nat) :
    Only [.plans, .cqs, .stks, .dscs, .sites, .health] d (mmvUnit x d fl r slots).1 := by
  unfold mmvUnit
  repeat' first
    | with_reducible exact Only.refl _ _
    | with_reducible assumption
    | (with_reducible apply Only.step (mvpFault_only _ _ _ _))
    | (with_reducible apply Only.step (modMvp_only _ _ _))
    | (with_reducible apply Only.step (unitWrite_only _ _ _ _))
    | (with_reducible apply Only.foldl)
    | intro _
    | split
    | (with_reducible refine Only.snd (by assumption) ?_)
    | (with_reducible refine Only.fst (by assumption) ?_)
    | decide
    | (dsimp only; done)
    | dsimp only

theorem mmvRun_only (d : Dev) (x : Ctx) (fl : Flight) (flt : Bool) :
    Only [.plans, .cqs, .stks, .dscs, .sites, .health, .free] d (mmvRun d x fl flt) := by
  unfold mmvRun
  repeat' first
    | with_reducible exact Only.refl _ _
    | with_reducible assumption
    | (with_reducible apply unitLoop_only)
    | (with_reducible apply Only.step (mmvUnit_only _ _ _ _ _))
    | (with_reducible apply Only.step (mvpFault_only _ _ _ _))
    | (with_reducible apply Only.step (modMvp_only _ _ _))
    | (with_reducible apply Only.step (putFlight_only _ _ _))
    | (with_reducible apply Only.step (draw_only _))
    | (with_reducible apply Only.foldl)
    | intro _
    | split
    | (with_reducible refine Only.snd (by assumption) ?_)
    | (with_reducible refine Only.fst (by assumption) ?_)
    | decide
    | (dsimp only; done)
    | dsimp only

theorem mmv_only (c : Fin 72) (flt : Bool) (d : Dev) : Only [.plans, .cqs, .stks, .dscs, .sites, .health, .free] d (mmv c flt d) := by
  unfold mmv
  repeat' first
    | with_reducible exact Only.refl _ _
    | with_reducible assumption
    | (with_reducible refine Only.step (issue_q_only (by assumption)) ?_ ?_)
    | (with_reducible apply Only.step (mmvRun_only _ _ _ _))
    | (with_reducible apply Only.foldl)
    | intro _
    | split
    | (with_reducible refine Only.snd (by assumption) ?_)
    | (with_reducible refine Only.fst (by assumption) ?_)
    | decide

theorem elemUnit_only (x : Ctx) (d : Dev) (fl : Flight) (p : Nat) (slots : List Nat) :
    Only [.cqs, .stks, .dscs, .sites] d (elemUnit x d fl p slots).1 := by
  unfold elemUnit
  repeat' first
    | with_reducible exact Only.refl _ _
    | with_reducible assumption
    | (with_reducible apply Only.step (modMvp_only _ _ _))
    | (with_reducible apply Only.step (unitWrite_only _ _ _ _))
    | (with_reducible apply Only.foldl)
    | intro _
    | split
    | (with_reducible refine Only.snd (by assumption) ?_)
    | (with_reducible refine Only.fst (by assumption) ?_)
    | decide
    | (dsimp only; done)
    | dsimp only

theorem elemRun_only (d : Dev) (x : Ctx) (fl : Flight) (flt : Bool) :
    Only [.plans, .cqs, .stks, .dscs, .sites, .health, .free] d (elemRun d x fl flt) := by
  unfold elemRun
  repeat' first
    | with_reducible exact Only.refl _ _
    | with_reducible assumption
    | (with_reducible apply unitLoop_only)
    | (with_reducible apply Only.step (elemUnit_only _ _ _ _ _))
    | (with_reducible apply Only.step (mvpFault_only _ _ _ _))
    | (with_reducible apply Only.step (modMvp_only _ _ _))
    | (with_reducible apply Only.step (arrayStalls_only _ _))
    | (with_reducible apply Only.step (updateDemand_only _ _ _))
    | (with_reducible apply Only.step (putFlight_only _ _ _))
    | (with_reducible apply Only.step (draw_only _))
    | (with_reducible apply Only.foldl)
    | intro _
    | split
    | (with_reducible refine Only.snd (by assumption) ?_)
    | (with_reducible refine Only.fst (by assumption) ?_)
    | decide
    | (dsimp only; done)
    | dsimp only

theorem elem_only (c : Fin 72) (flt : Bool) (d : Dev) : Only [.plans, .cqs, .stks, .dscs, .sites, .health, .free] d (elem c flt d) := by
  unfold elem
  repeat' first
    | with_reducible exact Only.refl _ _
    | with_reducible assumption
    | (with_reducible refine Only.step (issue_q_only (by assumption)) ?_ ?_)
    | (with_reducible apply Only.step (elemRun_only _ _ _ _))
    | (with_reducible apply Only.foldl)
    | intro _
    | split
    | (with_reducible refine Only.snd (by assumption) ?_)
    | (with_reducible refine Only.fst (by assumption) ?_)
    | decide

/-! ### Route -/

theorem modPort_only (d : Dev) (i : Nat) (f : Port → Port) : Only [.lnk] d (Dev.modPort d i f) := by
  have hset : ∀ (b x : Dev) v0, Only [.lnk] b x → Only [.lnk] b { x with lnk := v0 } := by
    refine fun b x v0 h => ⟨fun p hp => ?_⟩
    cases p <;> first | exact h.same _ hp | cases hp
  unfold Dev.modPort
  repeat' first
    | fail_if_no_progress (with_reducible apply hset)
    | with_reducible exact Only.refl _ _

theorem freePlace_only (d : Dev) (f : Flit) : Only [.lnk] d (Dev.freePlace d f) := by
  unfold Dev.freePlace
  repeat' first
    | with_reducible exact Only.refl _ _
    | with_reducible assumption
    | (with_reducible apply Only.step (modPort_only _ _ _))
    | (with_reducible apply Only.foldl)
    | intro _
    | split
    | (with_reducible refine Only.snd (by assumption) ?_)
    | (with_reducible refine Only.fst (by assumption) ?_)
    | decide

theorem routeFlit_only (d : Dev) (from? : Option Nat) (f : Flit) : Only [.lnk] d (d.routeFlit from? f) := by
  have hset : ∀ (b x : Dev) v0, Only [.lnk] b x → Only [.lnk] b { x with lnk := v0 } := by
    refine fun b x v0 h => ⟨fun p hp => ?_⟩
    cases p <;> first | exact h.same _ hp | cases hp
  unfold Dev.routeFlit
  split
  · exact Only.step (freePlace_only d f) rfl (Only.refl _ _)
  · extract_lets mine kept held dir same f2
    clear_value held f2
    split
    · exact hset _ _ _ (Only.refl _ _)
    · exact Only.step (modPort_only _ _ _) rfl (hset _ _ _ (Only.refl _ _))

theorem sendControl_only (d : Dev) (dest : BitVec 15) (channel : BitVec 16) (b : Body) :
    Only [.lnk] d (Dev.sendControl d dest channel b) := by
  unfold Dev.sendControl
  repeat' first
    | with_reducible exact Only.refl _ _
    | with_reducible assumption
    | (with_reducible apply Only.step (routeFlit_only _ _ _))
    | (with_reducible apply Only.foldl)
    | intro _
    | split
    | (with_reducible refine Only.snd (by assumption) ?_)
    | (with_reducible refine Only.fst (by assumption) ?_)
    | decide

theorem sendBulk_only (d : Dev) (dest : BitVec 15) (channel : BitVec 16) (bodies : List Body) :
    Only [.lnk] d (Dev.sendBulk d dest channel bodies) := by
  unfold Dev.sendBulk
  repeat' first
    | with_reducible exact Only.refl _ _
    | with_reducible assumption
    | (with_reducible apply Only.step (routeFlit_only _ _ _))
    | (with_reducible apply Only.foldl)
    | intro _
    | split
    | (with_reducible refine Only.snd (by assumption) ?_)
    | (with_reducible refine Only.fst (by assumption) ?_)
    | decide

theorem linkControl_only (d : Dev) (p : Nat) (b : Body) : Only [.lnk] d (Dev.linkControl d p b) := by
  unfold Dev.linkControl
  repeat' first
    | with_reducible exact Only.refl _ _
    | with_reducible assumption
    | (with_reducible apply Only.step (modPort_only _ _ _))
    | (with_reducible apply Only.foldl)
    | intro _
    | split
    | (with_reducible refine Only.snd (by assumption) ?_)
    | (with_reducible refine Only.fst (by assumption) ?_)
    | decide

/-! ### Queue -/

theorem commandSlotWrite_only (func : Fin 5) (win : Fin 72) (off : Fin 65536) (data : List Byte) (d : Dev) :
    Only [.cqs] d (commandSlotWrite func win off data d) := by
  unfold commandSlotWrite
  repeat' first
    | with_reducible exact Only.refl _ _
    | with_reducible assumption
    | (with_reducible apply Only.step (modCq_only _ _ _))
    | (with_reducible apply Only.foldl)
    | intro _
    | split
    | (with_reducible refine Only.snd (by assumption) ?_)
    | (with_reducible refine Only.fst (by assumption) ?_)
    | decide

theorem cqTailWrite_only (func : Fin 5) (win : Fin 72) (val : BitVec 64) (d : Dev) : Only [.cqs] d (cqTailWrite func win val d) := by
  unfold cqTailWrite
  repeat' first
    | with_reducible exact Only.refl _ _
    | with_reducible assumption
    | (with_reducible apply Only.step (modCq_only _ _ _))
    | (with_reducible apply Only.foldl)
    | intro _
    | split
    | (with_reducible refine Only.snd (by assumption) ?_)
    | (with_reducible refine Only.fst (by assumption) ?_)
    | decide

theorem freeTo_only (d : Dev) (c k : Nat) : Only [.msix, .cqs] d (Dev.freeTo d c k) := by
  unfold Dev.freeTo
  repeat' first
    | with_reducible exact Only.refl _ _
    | with_reducible assumption
    | (with_reducible apply Only.step (sendMsix_only _ _ _))
    | (with_reducible apply Only.step (modCq_only _ _ _))
    | (with_reducible apply Only.foldl)
    | intro _
    | split
    | (with_reducible refine Only.snd (by assumption) ?_)
    | (with_reducible refine Only.fst (by assumption) ?_)
    | decide
    | (dsimp only; done)
    | dsimp only

theorem fetchHalt_only (d : Dev) (c die : Nat) (tag : BitVec 32) (detail : List (Nat × List Byte)) :
    Only [.chans, .msix, .cqs, .health, .stm, .trc] d (Dev.fetchHalt d c die tag detail) := by
  unfold Dev.fetchHalt
  repeat' first
    | with_reducible exact Only.refl _ _
    | with_reducible assumption
    | (with_reducible apply Only.step (haltQueue_only _ _))
    | (with_reducible apply Only.step (writeRecord_only _ _))
    | (with_reducible apply Only.foldl)
    | intro _
    | split
    | (with_reducible refine Only.snd (by assumption) ?_)
    | (with_reducible refine Only.fst (by assumption) ?_)
    | decide

theorem commandFetch_only (c : Fin 72) (parity : Parity) (d : Dev) :
    Only [.chans, .msix, .cqs, .health, .stm, .trc] d (commandFetch c parity d) := by
  unfold commandFetch
  repeat' first
    | with_reducible exact Only.refl _ _
    | with_reducible assumption
    | (with_reducible apply Only.step (fetchHalt_only _ _ _ _ _))
    | (with_reducible apply Only.step (writeRecord_only _ _))
    | (with_reducible apply Only.step (modRegs_only _ _ _))
    | (with_reducible apply Only.step (modCq_only _ _ _))
    | (with_reducible apply Only.foldl)
    | intro _
    | split
    | (with_reducible refine Only.snd (by assumption) ?_)
    | (with_reducible refine Only.fst (by assumption) ?_)
    | decide
    | (dsimp only; done)
    | dsimp only

theorem nop_only (c : Fin 72) (d : Dev) : Only [.chans, .msix, .cqs, .health, .stm, .trc] d (nop c d) := by
  unfold nop
  repeat' first
    | with_reducible exact Only.refl _ _
    | with_reducible assumption
    | (with_reducible refine Only.step (issue_q_only (by assumption)) ?_ ?_)
    | (with_reducible apply Only.step (completeNow_only _ _ _))
    | (with_reducible apply Only.foldl)
    | intro _
    | split
    | (with_reducible refine Only.snd (by assumption) ?_)
    | (with_reducible refine Only.fst (by assumption) ?_)
    | decide

theorem waitb_only (c : Fin 72) (d : Dev) : Only [.chans, .msix, .cqs, .health, .stm, .trc] d (waitb c d) := by
  unfold waitb
  repeat' first
    | with_reducible exact Only.refl _ _
    | with_reducible assumption
    | (with_reducible refine Only.step (issue_q_only (by assumption)) ?_ ?_)
    | (with_reducible apply Only.step (completeNow_only _ _ _))
    | (with_reducible apply Only.step (modCq_only _ _ _))
    | (with_reducible apply Only.foldl)
    | intro _
    | split
    | (with_reducible refine Only.snd (by assumption) ?_)
    | (with_reducible refine Only.fst (by assumption) ?_)
    | decide
    | (dsimp only; done)
    | dsimp only

theorem waitbExpiry_only (c : Fin 72) (d : Dev) : Only [.cqs] d (waitbExpiry c d) := by
  unfold waitbExpiry
  repeat' first
    | with_reducible exact Only.refl _ _
    | with_reducible assumption
    | (with_reducible apply Only.step (modCq_only _ _ _))
    | (with_reducible apply Only.foldl)
    | intro _
    | split
    | (with_reducible refine Only.snd (by assumption) ?_)
    | (with_reducible refine Only.fst (by assumption) ?_)
    | decide

theorem qfence_only (c : Fin 72) (d : Dev) : Only [.chans, .msix, .cqs, .health, .stm, .trc] d (qfence c d) := by
  unfold qfence
  repeat' first
    | with_reducible exact Only.refl _ _
    | with_reducible assumption
    | (with_reducible refine Only.step (issue_q_only (by assumption)) ?_ ?_)
    | (with_reducible apply Only.step (completeNow_only _ _ _))
    | (with_reducible apply Only.foldl)
    | intro _
    | split
    | (with_reducible refine Only.snd (by assumption) ?_)
    | (with_reducible refine Only.fst (by assumption) ?_)
    | decide

theorem setFlag_only (d : Dev) (site f : Nat) : Only [.sites] d (Dev.setFlag d site f) := by
  unfold Dev.setFlag
  repeat' first
    | with_reducible exact Only.refl _ _
    | with_reducible assumption
    | (with_reducible apply Only.step (modCcr_only _ _ _))
    | (with_reducible apply Only.foldl)
    | intro _
    | split
    | (with_reducible refine Only.snd (by assumption) ?_)
    | (with_reducible refine Only.fst (by assumption) ?_)
    | decide

theorem clearFlag_only (d : Dev) (site f : Nat) : Only [.sites] d (Dev.clearFlag d site f) := by
  unfold Dev.clearFlag
  repeat' first
    | with_reducible exact Only.refl _ _
    | with_reducible assumption
    | (with_reducible apply Only.step (modCcr_only _ _ _))
    | (with_reducible apply Only.foldl)
    | intro _
    | split
    | (with_reducible refine Only.snd (by assumption) ?_)
    | (with_reducible refine Only.fst (by assumption) ?_)
    | decide

theorem eventTwice_only (d : Dev) (tag : BitVec 32) (unit : BitVec 16) (flag target : Nat) :
    Only [.chans, .msix, .health, .stm, .trc] d (Dev.eventTwice d tag unit flag target) := by
  unfold Dev.eventTwice
  repeat' first
    | with_reducible exact Only.refl _ _
    | with_reducible assumption
    | (with_reducible apply Only.step (writeRecord_only _ _))
    | (with_reducible apply Only.foldl)
    | intro _
    | split
    | (with_reducible refine Only.snd (by assumption) ?_)
    | (with_reducible refine Only.fst (by assumption) ?_)
    | decide

theorem evsend_only (c : Fin 72) (d : Dev) : Only [.chans, .msix, .cqs, .sites, .health, .stm, .trc] d (evsend c d) := by
  unfold evsend
  repeat' first
    | with_reducible exact Only.refl _ _
    | with_reducible assumption
    | (with_reducible refine Only.step (issue_q_only (by assumption)) ?_ ?_)
    | (with_reducible apply Only.step (eventTwice_only _ _ _ _ _))
    | (with_reducible apply Only.step (setFlag_only _ _ _))
    | (with_reducible apply Only.step (completeNow_only _ _ _))
    | (with_reducible apply Only.step (restartDeadlock_only _ _))
    | (with_reducible apply Only.step (modCq_only _ _ _))
    | (with_reducible apply Only.foldl)
    | intro _
    | split
    | (with_reducible refine Only.snd (by assumption) ?_)
    | (with_reducible refine Only.fst (by assumption) ?_)
    | decide
    | (dsimp only; done)
    | dsimp only

theorem evwait_only (c : Fin 72) (d : Dev) : Only [.chans, .msix, .cqs, .sites, .health, .stm, .trc] d (evwait c d) := by
  unfold evwait
  repeat' first
    | with_reducible exact Only.refl _ _
    | with_reducible assumption
    | (with_reducible refine Only.step (issue_q_only (by assumption)) ?_ ?_)
    | (with_reducible apply Only.step (clearFlag_only _ _ _))
    | (with_reducible apply Only.step (completeNow_only _ _ _))
    | (with_reducible apply Only.foldl)
    | intro _
    | split
    | (with_reducible refine Only.snd (by assumption) ?_)
    | (with_reducible refine Only.fst (by assumption) ?_)
    | decide
    | (dsimp only; done)
    | dsimp only

theorem mark_only (c : Fin 72) (d : Dev) : Only [.chans, .msix, .cqs, .health, .stm, .trc] d (mark c d) := by
  unfold mark
  repeat' first
    | with_reducible exact Only.refl _ _
    | with_reducible assumption
    | (with_reducible refine Only.step (issue_q_only (by assumption)) ?_ ?_)
    | (with_reducible apply Only.step (completeNow_only _ _ _))
    | (with_reducible apply Only.foldl)
    | intro _
    | split
    | (with_reducible refine Only.snd (by assumption) ?_)
    | (with_reducible refine Only.fst (by assumption) ?_)
    | decide

theorem copyUnits_only (x : Ctx) (src dst n : Nat) (data : List Byte) (fuel i : Nat) (d : Dev) (fl : Flight) :
    Only [.cqs, .stks, .dscs] d (copyUnits x src dst n data fuel i d fl).1 := by
  induction fuel generalizing i d fl with
  | zero => exact Only.refl _ _
  | succ fuel ih =>
    unfold copyUnits
    dsimp only
    split
    · next h => exact Only.step (ih _ _ _) rfl (Only.fst h (unitWrite_only _ _ _ _))
    all_goals next h => exact Only.fst h (unitWrite_only _ _ _ _)

theorem copy_only (c : Fin 72) (d : Dev) : Only [.cqs, .stks, .dscs, .free] d (copy c d) := by
  unfold copy
  repeat' first
    | with_reducible exact Only.refl _ _
    | with_reducible assumption
    | (with_reducible apply Only.step (copyUnits_only _ _ _ _ _ _ _ _ _))
    | (with_reducible refine Only.step (issue_q_only (by assumption)) ?_ ?_)
    | (with_reducible apply Only.step (putFlight_only _ _ _))
    | (with_reducible apply Only.step (waitWay_only _ _))
    | (with_reducible apply Only.foldl)
    | intro _
    | split
    | (with_reducible refine Only.snd (by assumption) ?_)
    | (with_reducible refine Only.fst (by assumption) ?_)
    | decide
    | (dsimp only; done)
    | dsimp only

theorem atom_only (c : Fin 72) (d : Dev) : Only [.cqs, .stks, .dscs] d (atom c d) := by
  unfold atom
  repeat' first
    | with_reducible exact Only.refl _ _
    | with_reducible assumption
    | (with_reducible refine Only.step (issue_q_only (by assumption)) ?_ ?_)
    | (with_reducible apply Only.step (putFlight_only _ _ _))
    | (with_reducible apply Only.step (unitWrite_only _ _ _ _))
    | (with_reducible apply Only.step (modCq_only _ _ _))
    | (with_reducible apply Only.foldl)
    | intro _
    | split
    | (with_reducible refine Only.snd (by assumption) ?_)
    | (with_reducible refine Only.fst (by assumption) ?_)
    | decide
    | (dsimp only; done)
    | dsimp only

theorem coll_only (c : Fin 72) (d : Dev) : Only [.cqs, .col] d (coll c d) := by
  have hset : ∀ (b x : Dev) v0 v1, Only [.cqs, .col] b x → Only [.cqs, .col] b { x with cqs := v0, col := v1 } := by
    refine fun b x v0 v1 h => ⟨fun p hp => ?_⟩
    cases p <;> first | exact h.same _ hp | cases hp
  unfold coll
  repeat' first
    | fail_if_no_progress (with_reducible apply hset)
    | with_reducible exact Only.refl _ _
    | with_reducible assumption
    | (with_reducible refine Only.step (issue_q_only (by assumption)) ?_ ?_)
    | (with_reducible apply Only.step (putFlight_only _ _ _))
    | (with_reducible apply Only.foldl)
    | intro _
    | split
    | (with_reducible refine Only.snd (by assumption) ?_)
    | (with_reducible refine Only.fst (by assumption) ?_)
    | decide
    | (dsimp only; done)
    | dsimp only

theorem send_only (c : Fin 72) (d : Dev) : Only [.cqs, .lnk] d (send c d) := by
  have hset : ∀ (b x : Dev) v0 v1, Only [.cqs, .lnk] b x → Only [.cqs, .lnk] b { x with cqs := v0, lnk := v1 } := by
    refine fun b x v0 v1 h => ⟨fun p hp => ?_⟩
    cases p <;> first | exact h.same _ hp | cases hp
  unfold send
  repeat' first
    | fail_if_no_progress (with_reducible apply hset)
    | with_reducible exact Only.refl _ _
    | with_reducible assumption
    | (with_reducible refine Only.step (issue_q_only (by assumption)) ?_ ?_)
    | (with_reducible apply Only.step (putFlight_only _ _ _))
    | (with_reducible apply Only.foldl)
    | intro _
    | split
    | (with_reducible refine Only.snd (by assumption) ?_)
    | (with_reducible refine Only.fst (by assumption) ?_)
    | decide
    | (dsimp only; done)
    | dsimp only

theorem finishRecv_only (d : Dev) (j : RecvJob) : Only [.cqs, .dscs, .free] d (Dev.finishRecv d j) := by
  unfold Dev.finishRecv
  repeat' first
    | with_reducible exact Only.refl _ _
    | with_reducible assumption
    | (with_reducible apply Only.step (waitWay_only _ _))
    | (with_reducible apply Only.step (writeLines_only _ _ _ _))
    | (with_reducible apply Only.step (modCq_only _ _ _))
    | (with_reducible apply Only.foldl)
    | intro _
    | split
    | (with_reducible refine Only.snd (by assumption) ?_)
    | (with_reducible refine Only.fst (by assumption) ?_)
    | decide
    | (dsimp only; done)
    | dsimp only

theorem recv_only (c : Fin 72) (d : Dev) : Only [.cqs, .dscs, .lnk, .free] d (recv c d) := by
  have hset : ∀ (b x : Dev) v0 v1 v2 v3,
      Only [.cqs, .dscs, .lnk, .free] b x →
      Only [.cqs, .dscs, .lnk, .free] b { x with cqs := v0, dscs := v1, lnk := v2, free := v3 } := by
    refine fun b x v0 v1 v2 v3 h => ⟨fun p hp => ?_⟩
    cases p <;> first | exact h.same _ hp | cases hp
  unfold recv
  repeat' first
    | fail_if_no_progress (with_reducible apply hset)
    | with_reducible exact Only.refl _ _
    | with_reducible assumption
    | (with_reducible refine Only.step (issue_q_only (by assumption)) ?_ ?_)
    | (with_reducible apply Only.step (finishRecv_only _ _))
    | (with_reducible apply Only.step (sendControl_only _ _ _ _))
    | (with_reducible apply Only.step (putFlight_only _ _ _))
    | (with_reducible apply Only.foldl)
    | intro _
    | split
    | (with_reducible refine Only.snd (by assumption) ?_)
    | (with_reducible refine Only.fst (by assumption) ?_)
    | decide
    | (dsimp only; done)
    | dsimp only

theorem solve_only (c : Fin 72) (d : Dev) : Only [.cqs, .solves] d (solve c d) := by
  have hset : ∀ (b x : Dev) v0 v1, Only [.cqs, .solves] b x → Only [.cqs, .solves] b { x with cqs := v0, solves := v1 } := by
    refine fun b x v0 v1 h => ⟨fun p hp => ?_⟩
    cases p <;> first | exact h.same _ hp | cases hp
  unfold solve
  repeat' first
    | fail_if_no_progress (with_reducible apply hset)
    | with_reducible exact Only.refl _ _
    | with_reducible assumption
    | (with_reducible refine Only.step (issue_q_only (by assumption)) ?_ ?_)
    | (with_reducible apply Only.step (putFlight_only _ _ _))
    | (with_reducible apply Only.foldl)
    | intro _
    | split
    | (with_reducible refine Only.snd (by assumption) ?_)
    | (with_reducible refine Only.fst (by assumption) ?_)
    | decide
    | (dsimp only; done)
    | dsimp only

theorem vent_only (c : Fin 72) (d : Dev) : Only [.plans, .cqs, .sites, .health] d (vent c d) := by
  have hset : ∀ (b x : Dev) v0 v1 v2 v3,
      Only [.plans, .cqs, .sites, .health] b x →
      Only [.plans, .cqs, .sites, .health] b { x with plans := v0, cqs := v1, sites := v2, health := v3 } := by
    refine fun b x v0 v1 v2 v3 h => ⟨fun p hp => ?_⟩
    cases p <;> first | exact h.same _ hp | cases hp
  unfold vent
  repeat' first
    | fail_if_no_progress (with_reducible apply hset)
    | with_reducible exact Only.refl _ _
    | with_reducible assumption
    | (with_reducible apply Only.step (modLbk_only _ _ _))
    | (with_reducible apply Only.step (modPlan_only _ _ _))
    | (with_reducible apply Only.step (modCq_only _ _ _))
    | (with_reducible apply Only.foldl)
    | intro _
    | split
    | (with_reducible refine Only.snd (by assumption) ?_)
    | (with_reducible refine Only.fst (by assumption) ?_)
    | decide
    | (dsimp only; done)
    | dsimp only

theorem afterUnit_only (d : Dev) (x : Ctx) (f : Flight) : Only [.sites] d (Dev.afterUnit d x f) := by
  unfold Dev.afterUnit
  repeat' first
    | with_reducible exact Only.refl _ _
    | with_reducible assumption
    | (with_reducible apply Only.step (modLbk_only _ _ _))
    | (with_reducible apply Only.foldl)
    | intro _
    | split
    | (with_reducible refine Only.snd (by assumption) ?_)
    | (with_reducible refine Only.fst (by assumption) ?_)
    | decide
    | (dsimp only; done)
    | dsimp only

theorem completeVent_only (d : Dev) (p : Plan) (c i : Nat) (f : Flight) :
    Only [.chans, .msix, .plans, .cqs, .sites, .health, .stm, .trc] d (Dev.completeVent d p c i f) := by
  unfold Dev.completeVent
  repeat' first
    | with_reducible exact Only.refl _ _
    | with_reducible assumption
    | (with_reducible apply Only.step (vent_only _ _))
    | (with_reducible apply Only.step (freeTo_only _ _ _))
    | (with_reducible apply Only.step (modLbk_only _ _ _))
    | (with_reducible apply Only.step (complete_only _ _ _ _ _ _))
    | (with_reducible apply Only.step (stageAll_only _ _ _ _))
    | (with_reducible apply Only.step (modPlan_only _ _ _))
    | (with_reducible apply Only.step (modCq_only _ _ _))
    | (with_reducible apply Only.foldl)
    | intro _
    | split
    | (with_reducible refine Only.snd (by assumption) ?_)
    | (with_reducible refine Only.fst (by assumption) ?_)
    | decide

theorem skipVent_only (d : Dev) (p : Plan) (c site : Nat) (f : Fetched) :
    Only [.chans, .msix, .plans, .cqs, .health, .stm, .trc] d (Dev.skipVent d p c site f) := by
  unfold Dev.skipVent
  repeat' first
    | with_reducible exact Only.refl _ _
    | with_reducible assumption
    | (with_reducible apply Only.step (freeTo_only _ _ _))
    | (with_reducible apply Only.step (complete_only _ _ _ _ _ _))
    | (with_reducible apply Only.step (stageAll_only _ _ _ _))
    | (with_reducible apply Only.step (modPlan_only _ _ _))
    | (with_reducible apply Only.step (modCq_only _ _ _))
    | (with_reducible apply Only.foldl)
    | intro _
    | split
    | (with_reducible refine Only.snd (by assumption) ?_)
    | (with_reducible refine Only.fst (by assumption) ?_)
    | decide
    | (dsimp only; done)
    | dsimp only

theorem commandComplete_only (c : Fin 72) (idx : Nat) (d : Dev) :
    Only [.chans, .msix, .plans, .cqs, .sites, .health, .stm, .trc] d (commandComplete c idx d) := by
  unfold commandComplete
  repeat' first
    | with_reducible exact Only.refl _ _
    | with_reducible assumption
    | (with_reducible apply Only.step (skipVent_only _ _ _ _ _))
    | (with_reducible apply Only.step (completeVent_only _ _ _ _ _))
    | (with_reducible apply Only.step (afterUnit_only _ _ _))
    | (with_reducible apply Only.step (updateDemand_only _ _ _))
    | (with_reducible apply Only.step (complete_only _ _ _ _ _ _))
    | (with_reducible apply Only.step (takeHead_only _ _ _))
    | (with_reducible apply Only.step (modCq_only _ _ _))
    | (with_reducible apply Only.foldl)
    | intro _
    | split
    | (with_reducible refine Only.snd (by assumption) ?_)
    | (with_reducible refine Only.fst (by assumption) ?_)
    | decide

theorem debugHold_only (d : Dev) (p : Plan) : Only [.chans, .msix, .plans, .health, .stm, .trc] d (Dev.debugHold d p) := by
  unfold Dev.debugHold
  repeat' first
    | with_reducible exact Only.refl _ _
    | with_reducible assumption
    | (with_reducible apply Only.step (closeWhere_only _ _ _))
    | (with_reducible apply Only.step (writeRecord_only _ _))
    | (with_reducible apply Only.step (modPlan_only _ _ _))
    | (with_reducible apply Only.foldl)
    | intro _
    | split
    | (with_reducible refine Only.snd (by assumption) ?_)
    | (with_reducible refine Only.fst (by assumption) ?_)
    | decide

theorem breakFire_only (c : Fin 72) (d : Dev) : Only [.chans, .msix, .plans, .cqs, .health, .stm, .trc] d (breakFire c d) := by
  unfold breakFire
  extract_lets q
  split
  · exact Only.refl _ _
  · refine Only.ite (Only.refl _ _) ?_
    exact Only.step (debugHold_only _ _) (by decide) (Only.step (modCq_only _ _ _) (by decide) (Only.refl _ _))

theorem grantHoldExpiry_only (site : Fin 80) (d : Dev) : Only [.sites] d (grantHoldExpiry site d) := by
  unfold grantHoldExpiry
  repeat' first
    | with_reducible exact Only.refl _ _
    | with_reducible assumption
    | (with_reducible apply Only.step (modLbk_only _ _ _))
    | (with_reducible apply Only.foldl)
    | intro _
    | split
    | (with_reducible refine Only.snd (by assumption) ?_)
    | (with_reducible refine Only.fst (by assumption) ?_)
    | decide
    | (dsimp only; done)
    | dsimp only

theorem rampGovernorBeat_only (d : Dev) : Only [.sites, .rampBeat] d (rampGovernorBeat d) := by
  have hset : ∀ (b x : Dev) v0 v1, Only [.sites, .rampBeat] b x → Only [.sites, .rampBeat] b { x with sites := v0, rampBeat := v1 } := by
    refine fun b x v0 v1 h => ⟨fun p hp => ?_⟩
    cases p <;> first | exact h.same _ hp | cases hp
  unfold rampGovernorBeat
  repeat' first
    | fail_if_no_progress (with_reducible apply hset)
    | with_reducible exact Only.refl _ _
    | with_reducible assumption
    | (with_reducible apply Only.foldl)
    | intro _
    | split

/-! ### Solver -/

theorem modSlv_only (d : Dev) (e : Nat) (f : Slv → Slv) : Only [.slv] d (Dev.modSlv d e f) := by
  have hset : ∀ (b x : Dev) v0, Only [.slv] b x → Only [.slv] b { x with slv := v0 } := by
    refine fun b x v0 h => ⟨fun p hp => ?_⟩
    cases p <;> first | exact h.same _ hp | cases hp
  unfold Dev.modSlv
  repeat' first
    | fail_if_no_progress (with_reducible apply hset)
    | with_reducible exact Only.refl _ _

theorem modSolve_only (d : Dev) (key : SolveKey) (f : SolveJob → SolveJob) : Only [.solves] d (Dev.modSolve d key f) := by
  have hset : ∀ (b x : Dev) v0, Only [.solves] b x → Only [.solves] b { x with solves := v0 } := by
    refine fun b x v0 h => ⟨fun p hp => ?_⟩
    cases p <;> first | exact h.same _ hp | cases hp
  unfold Dev.modSolve
  repeat' first
    | fail_if_no_progress (with_reducible apply hset)
    | with_reducible exact Only.refl _ _

theorem dealAll_only (d : Dev) : Only [.slv, .solves] d (Dev.dealAll d) := by
  unfold Dev.dealAll
  repeat' first
    | with_reducible exact Only.refl _ _
    | with_reducible assumption
    | (with_reducible apply Only.step (modSolve_only _ _ _))
    | (with_reducible apply Only.step (modSlv_only _ _ _))
    | (with_reducible apply Only.foldl)
    | intro _
    | split
    | (with_reducible refine Only.snd (by assumption) ?_)
    | (with_reducible refine Only.fst (by assumption) ?_)
    | decide

theorem unseed_only (d : Dev) (a n : Nat) : Only [.mem] d (Dev.unseed d a n) := by
  have hset : ∀ (b x : Dev) v0, Only [.mem] b x → Only [.mem] b { x with mem := v0 } := by
    refine fun b x v0 h => ⟨fun p hp => ?_⟩
    cases p <;> first | exact h.same _ hp | cases hp
  unfold Dev.unseed
  repeat' first
    | fail_if_no_progress (with_reducible apply hset)
    | with_reducible exact Only.refl _ _

theorem deliver_only (d : Dev) (a : Nat) (bs : List Byte) (tag : BitVec 32) (unit : BitVec 16) (source : Nat) :
    Only [.chans, .msix, .mem, .stks, .dscs, .health, .stm, .trc] d (Dev.deliver d a bs tag unit source).2 := by
  have hset : ∀ (b x : Dev) v0 v1 v2 v3 v4 v5 v6 v7,
      Only [.chans, .msix, .mem, .stks, .dscs, .health, .stm, .trc] b x →
      Only [.chans, .msix, .mem, .stks, .dscs, .health, .stm, .trc] b { x with
          chans := v0, msix := v1, mem := v2, stks := v3, dscs := v4, health := v5, stm := v6, trc := v7 } := by
    refine fun b x v0 v1 v2 v3 v4 v5 v6 v7 h => ⟨fun p hp => ?_⟩
    cases p <;> first | exact h.same _ hp | cases hp
  unfold Dev.deliver
  repeat' first
    | fail_if_no_progress (with_reducible apply hset)
    | with_reducible exact Only.refl _ _
    | with_reducible assumption
    | (with_reducible apply Only.step (unseed_only _ _ _))
    | (with_reducible apply Only.step (writeRecord_only _ _))
    | (with_reducible apply Only.step (deliverLines_only _ _ _))
    | (with_reducible apply Only.step (countPoison_only _ _))
    | (with_reducible apply Only.foldl)
    | intro _
    | split
    | (with_reducible refine Only.snd (by assumption) ?_)
    | (with_reducible refine Only.fst (by assumption) ?_)
    | decide

theorem dropSolve_only (d : Dev) (j : SolveJob) : Only [.slv, .solves] d (Dev.dropSolve d j) := by
  have hset : ∀ (b x : Dev) v0 v1, Only [.slv, .solves] b x → Only [.slv, .solves] b { x with slv := v0, solves := v1 } := by
    refine fun b x v0 v1 h => ⟨fun p hp => ?_⟩
    cases p <;> first | exact h.same _ hp | cases hp
  unfold Dev.dropSolve
  repeat' first
    | fail_if_no_progress (with_reducible apply hset)
    | with_reducible exact Only.refl _ _

theorem markStale_only (d : Dev) (j : SolveJob) :
    Only [.chans, .msix, .mem, .stks, .dscs, .slv, .health, .stm, .trc] d (Dev.markStale d j) := by
  unfold Dev.markStale
  repeat' first
    | with_reducible exact Only.refl _ _
    | with_reducible assumption
    | (with_reducible apply Only.step (deliver_only _ _ _ _ _ _))
    | (with_reducible apply Only.step (modSlv_only _ _ _))
    | (with_reducible apply Only.step (writeRecord_only _ _))
    | (with_reducible apply Only.foldl)
    | intro _
    | split
    | (with_reducible refine Only.snd (by assumption) ?_)
    | (with_reducible refine Only.fst (by assumption) ?_)
    | decide

theorem orderFresh_only (d : Dev) : Only [.slv, .solves] d (Dev.orderFresh d) := by
  have hset : ∀ (b x : Dev) v0 v1, Only [.slv, .solves] b x → Only [.slv, .solves] b { x with slv := v0, solves := v1 } := by
    refine fun b x v0 v1 h => ⟨fun p hp => ?_⟩
    cases p <;> first | exact h.same _ hp | cases hp
  unfold Dev.orderFresh
  repeat' first
    | fail_if_no_progress (with_reducible apply hset)
    | with_reducible exact Only.refl _ _

theorem submitSolves_only (d : Dev) (p : Plan) (c : Nat) :
    Only [.chans, .msix, .mem, .stks, .dscs, .slv, .solves, .health, .stm, .trc] d (Dev.submitSolves d p c) := by
  have hset : ∀ (b x : Dev) v0 v1 v2 v3 v4 v5 v6 v7 v8 v9,
      Only [.chans, .msix, .mem, .stks, .dscs, .slv, .solves, .health, .stm, .trc] b x →
      Only [.chans, .msix, .mem, .stks, .dscs, .slv, .solves, .health, .stm, .trc] b { x with
          chans := v0, msix := v1, mem := v2, stks := v3, dscs := v4, slv := v5, solves := v6, health := v7, stm := v8, trc := v9 } := by
    refine fun b x v0 v1 v2 v3 v4 v5 v6 v7 v8 v9 h => ⟨fun p hp => ?_⟩
    cases p <;> first | exact h.same _ hp | cases hp
  unfold Dev.submitSolves
  repeat' first
    | fail_if_no_progress (with_reducible apply hset)
    | with_reducible exact Only.refl _ _
    | with_reducible assumption
    | (with_reducible apply Only.step (orderFresh_only _))
    | (with_reducible apply Only.step (markStale_only _ _))
    | (with_reducible apply Only.step (dropSolve_only _ _))
    | (with_reducible apply Only.step (dealAll_only _))
    | (with_reducible apply Only.foldl)
    | intro _
    | split
    | (with_reducible refine Only.snd (by assumption) ?_)
    | (with_reducible refine Only.fst (by assumption) ?_)
    | decide
    | (dsimp only; done)
    | dsimp only

theorem slvFenceQueue_only (d : Dev) (e : Nat) : Only [.slv, .solves] d (Dev.slvFenceQueue d e) := by
  have hset : ∀ (b x : Dev) v0 v1, Only [.slv, .solves] b x → Only [.slv, .solves] b { x with slv := v0, solves := v1 } := by
    refine fun b x v0 v1 h => ⟨fun p hp => ?_⟩
    cases p <;> first | exact h.same _ hp | cases hp
  unfold Dev.slvFenceQueue
  repeat' first
    | fail_if_no_progress (with_reducible apply hset)
    | with_reducible exact Only.refl _ _
    | with_reducible assumption
    | (with_reducible apply Only.step (dealAll_only _))
    | (with_reducible apply Only.step (modSlv_only _ _ _))
    | (with_reducible apply Only.foldl)
    | intro _
    | split
    | (with_reducible refine Only.snd (by assumption) ?_)
    | (with_reducible refine Only.fst (by assumption) ?_)
    | decide

theorem fenceSolver_only (d : Dev) (e : Nat) (host : Option HostFence) (tag : BitVec 32) :
    Only [.chans, .msix, .plans, .slv, .solves, .health, .stm, .trc, .free] d (Dev.fenceSolver d e host tag) := by
  unfold Dev.fenceSolver
  repeat' first
    | with_reducible exact Only.refl _ _
    | with_reducible assumption
    | (with_reducible apply Only.step (slvFenceQueue_only _ _))
    | (with_reducible apply Only.step (countDeviceFault_only _))
    | (with_reducible apply Only.step (enterCrater_only _ _ _))
    | (with_reducible apply Only.step (writeRecord_only _ _))
    | (with_reducible apply Only.foldl)
    | intro _
    | split
    | (with_reducible refine Only.snd (by assumption) ?_)
    | (with_reducible refine Only.fst (by assumption) ?_)
    | decide

theorem matrixFinish_only (e : Fin 4) (mismatch : Bool) (d : Dev) :
    Only [.chans, .msix, .plans, .slv, .solves, .health, .stm, .trc, .free] d (matrixFinish e mismatch d) := by
  unfold matrixFinish
  repeat' first
    | with_reducible exact Only.refl _ _
    | with_reducible assumption
    | (with_reducible apply Only.step (fenceSolver_only _ _ _ _))
    | (with_reducible apply Only.step (dealAll_only _))
    | (with_reducible apply Only.step (modSolve_only _ _ _))
    | (with_reducible apply Only.step (modSlv_only _ _ _))
    | (with_reducible apply Only.step (writeRecord_only _ _))
    | (with_reducible apply Only.foldl)
    | intro _
    | split
    | (with_reducible refine Only.snd (by assumption) ?_)
    | (with_reducible refine Only.fst (by assumption) ?_)
    | decide
    | (dsimp only; done)
    | dsimp only

theorem publishFresh_only (d : Dev) (j : SolveJob) (deadline : BitVec 52) :
    Only [.chans, .msix, .mem, .stks, .dscs, .health, .stm, .trc] d (Dev.publishFresh d j deadline) := by
  unfold Dev.publishFresh
  repeat' first
    | with_reducible exact Only.refl _ _
    | with_reducible assumption
    | (with_reducible apply Only.step (deliver_only _ _ _ _ _ _))
    | (with_reducible apply Only.foldl)
    | intro _
    | split
    | (with_reducible refine Only.snd (by assumption) ?_)
    | (with_reducible refine Only.fst (by assumption) ?_)
    | decide

theorem solverPublish_only (d : Dev) :
    Only [.chans, .msix, .mem, .stks, .dscs, .slv, .solves, .health, .stm, .trc] d (solverPublish d) := by
  unfold solverPublish
  repeat' first
    | with_reducible exact Only.refl _ _
    | with_reducible assumption
    | (with_reducible apply Only.step (publishFresh_only _ _ _))
    | (with_reducible apply Only.step (markStale_only _ _))
    | (with_reducible apply Only.step (dropSolve_only _ _))
    | (with_reducible apply Only.step (dealAll_only _))
    | (with_reducible apply Only.foldl)
    | intro _
    | split
    | (with_reducible refine Only.snd (by assumption) ?_)
    | (with_reducible refine Only.fst (by assumption) ?_)
    | decide

/-! ### Links -/

theorem setLnkEvent_only (d : Dev) (i : Nat) : Only [.lnk] d (Dev.setLnkEvent d i) := by
  have hset : ∀ (b x : Dev) v0, Only [.lnk] b x → Only [.lnk] b { x with lnk := v0 } := by
    refine fun b x v0 h => ⟨fun p hp => ?_⟩
    cases p <;> first | exact h.same _ hp | cases hp
  unfold Dev.setLnkEvent
  repeat' first
    | fail_if_no_progress (with_reducible apply hset)
    | with_reducible exact Only.refl _ _

theorem settleOwned_only (d : Dev) : Only [.lnk] d (Dev.settleOwned d) := by
  have hset : ∀ (b x : Dev) v0, Only [.lnk] b x → Only [.lnk] b { x with lnk := v0 } := by
    refine fun b x v0 h => ⟨fun p hp => ?_⟩
    cases p <;> first | exact h.same _ hp | cases hp
  unfold Dev.settleOwned
  repeat' first
    | fail_if_no_progress (with_reducible apply hset)
    | with_reducible exact Only.refl _ _

theorem flitBad_only (d : Dev) (p : Nat) : Only [.lnk] d (Dev.flitBad d p) := by
  unfold Dev.flitBad
  repeat' first
    | with_reducible exact Only.refl _ _
    | with_reducible assumption
    | (with_reducible apply Only.step (linkControl_only _ _ _))
    | (with_reducible apply Only.step (modPort_only _ _ _))
    | (with_reducible apply Only.foldl)
    | intro _
    | split
    | (with_reducible refine Only.snd (by assumption) ?_)
    | (with_reducible refine Only.fst (by assumption) ?_)
    | decide
    | (dsimp only; done)
    | dsimp only

theorem modSend_only (d : Dev) (i : Nat) (f : SendJob → SendJob) : Only [.lnk] d (Dev.modSend d i f) := by
  have hset : ∀ (b x : Dev) v0, Only [.lnk] b x → Only [.lnk] b { x with lnk := v0 } := by
    refine fun b x v0 h => ⟨fun p hp => ?_⟩
    cases p <;> first | exact h.same _ hp | cases hp
  unfold Dev.modSend
  repeat' first
    | fail_if_no_progress (with_reducible apply hset)
    | with_reducible exact Only.refl _ _

theorem takeFlit_only (d : Dev) (p : Nat) (f : Flit) : Only [.bt, .lnk] d (Dev.takeFlit d p f) := by
  have hset : ∀ (b x : Dev) v0 v1, Only [.bt, .lnk] b x → Only [.bt, .lnk] b { x with bt := v0, lnk := v1 } := by
    refine fun b x v0 v1 h => ⟨fun p hp => ?_⟩
    cases p <;> first | exact h.same _ hp | cases hp
  unfold Dev.takeFlit
  repeat' first
    | fail_if_no_progress (with_reducible apply hset)
    | with_reducible exact Only.refl _ _
    | with_reducible assumption
    | (with_reducible apply Only.step (modSend_only _ _ _))
    | (with_reducible apply Only.step (routeFlit_only _ _ _))
    | (with_reducible apply Only.step (freePlace_only _ _))
    | (with_reducible apply Only.foldl)
    | intro _
    | split
    | (with_reducible refine Only.snd (by assumption) ?_)
    | (with_reducible refine Only.fst (by assumption) ?_)
    | decide
    | (dsimp only; done)
    | dsimp only

theorem flitReceive_only (port : Fin 24) (decoded delimOk crcOk : Bool) (ce : List Nat) (f : Flit) (d : Dev) :
    Only [.bt, .lnk] d (flitReceive port decoded delimOk crcOk ce f d) := by
  unfold flitReceive
  repeat' first
    | with_reducible exact Only.refl _ _
    | with_reducible assumption
    | (with_reducible apply Only.step (takeFlit_only _ _ _))
    | (with_reducible apply Only.step (flitBad_only _ _))
    | (with_reducible apply Only.step (settleOwned_only _))
    | (with_reducible apply Only.step (modPort_only _ _ _))
    | (with_reducible apply Only.foldl)
    | intro _
    | split
    | (with_reducible refine Only.snd (by assumption) ?_)
    | (with_reducible refine Only.fst (by assumption) ?_)
    | decide
    | (dsimp only; done)
    | dsimp only

theorem takeInbox_only {d e : Dev} {pick : Nat × Flit → Bool} {x : Nat × Flit} (h : d.takeInbox pick = some (x, e)) :
    Only [.lnk] d e := by
  unfold Dev.takeInbox at h
  cases ht : takeFirst pick d.lnk.inbox with
  | none => rw [ht] at h; cases h
  | some y =>
    rw [ht] at h
    cases h
    refine Only.step (freePlace_only _ _) rfl ⟨fun p hp => ?_⟩
    cases p <;> first | rfl | cases hp

theorem resendAll_only (d : Dev) (p : Nat) : Only [.lnk] d (Dev.resendAll d p) := by
  unfold Dev.resendAll
  repeat' first
    | with_reducible exact Only.refl _ _
    | with_reducible assumption
    | (with_reducible apply Only.step (modPort_only _ _ _))
    | (with_reducible apply Only.foldl)
    | intro _
    | split
    | (with_reducible refine Only.snd (by assumption) ?_)
    | (with_reducible refine Only.fst (by assumption) ?_)
    | decide

theorem attemptFailed_only (d : Dev) (p : Nat) : Only [.lnk] d (Dev.attemptFailed d p) := by
  unfold Dev.attemptFailed
  repeat' first
    | with_reducible exact Only.refl _ _
    | with_reducible assumption
    | (with_reducible apply Only.step (resendAll_only _ _))
    | (with_reducible apply Only.step (setLnkEvent_only _ _))
    | (with_reducible apply Only.step (modPort_only _ _ _))
    | (with_reducible apply Only.foldl)
    | intro _
    | split
    | (with_reducible refine Only.snd (by assumption) ?_)
    | (with_reducible refine Only.fst (by assumption) ?_)
    | decide
    | (dsimp only; done)
    | dsimp only

theorem nakReceive_only (port : Fin 24) (d : Dev) : Only [.lnk] d (nakReceive port d) := by
  unfold nakReceive
  repeat' first
    | with_reducible exact Only.refl _ _
    | with_reducible assumption
    | (with_reducible refine Only.step (takeInbox_only (by assumption)) ?_ ?_)
    | (with_reducible apply Only.step (attemptFailed_only _ _))
    | (with_reducible apply Only.step (resendAll_only _ _))
    | (with_reducible apply Only.step (settleOwned_only _))
    | (with_reducible apply Only.step (modPort_only _ _ _))
    | (with_reducible apply Only.foldl)
    | intro _
    | split
    | (with_reducible refine Only.snd (by assumption) ?_)
    | (with_reducible refine Only.fst (by assumption) ?_)
    | decide
    | (dsimp only; done)
    | dsimp only

theorem replayTimeout_only (port : Fin 24) (d : Dev) : Only [.lnk] d (replayTimeout port d) := by
  unfold replayTimeout
  repeat' first
    | with_reducible exact Only.refl _ _
    | with_reducible assumption
    | (with_reducible apply Only.step (attemptFailed_only _ _))
    | (with_reducible apply Only.step (settleOwned_only _))
    | (with_reducible apply Only.foldl)
    | intro _
    | split
    | (with_reducible refine Only.snd (by assumption) ?_)
    | (with_reducible refine Only.fst (by assumption) ?_)
    | decide

theorem moveFlit_only (d : Dev) (p : Nat) (f : Flit) : Only [.lnk] d (Dev.moveFlit d p f) := by
  unfold Dev.moveFlit
  repeat' first
    | with_reducible exact Only.refl _ _
    | with_reducible assumption
    | (with_reducible apply Only.step (routeFlit_only _ _ _))
    | (with_reducible apply Only.step (modPort_only _ _ _))
    | (with_reducible apply Only.foldl)
    | intro _
    | split
    | (with_reducible refine Only.snd (by assumption) ?_)
    | (with_reducible refine Only.fst (by assumption) ?_)
    | decide

theorem directionLost_only (d : Dev) (dir : Nat) (unit : BitVec 16) :
    Only [.chans, .msix, .lnk, .health, .stm, .trc] d (Dev.directionLost d dir unit) := by
  have hset : ∀ (b x : Dev) v0 v1 v2 v3 v4 v5,
      Only [.chans, .msix, .lnk, .health, .stm, .trc] b x →
      Only [.chans, .msix, .lnk, .health, .stm, .trc] b { x with
          chans := v0, msix := v1, lnk := v2, health := v3, stm := v4, trc := v5 } := by
    refine fun b x v0 v1 v2 v3 v4 v5 h => ⟨fun p hp => ?_⟩
    cases p <;> first | exact h.same _ hp | cases hp
  unfold Dev.directionLost
  repeat' first
    | fail_if_no_progress (with_reducible apply hset)
    | with_reducible exact Only.refl _ _
    | with_reducible assumption
    | (with_reducible apply Only.step (setLnkEvent_only _ _))
    | (with_reducible apply Only.step (writeRecord_only _ _))
    | (with_reducible apply Only.foldl)
    | intro _
    | split
    | (with_reducible refine Only.snd (by assumption) ?_)
    | (with_reducible refine Only.fst (by assumption) ?_)
    | decide

theorem emptyBuffer_only (d : Dev) (p : Nat) : Only [.lnk] d (Dev.emptyBuffer d p) := by
  have hset : ∀ (b x : Dev) v0, Only [.lnk] b x → Only [.lnk] b { x with lnk := v0 } := by
    refine fun b x v0 h => ⟨fun p hp => ?_⟩
    cases p <;> first | exact h.same _ hp | cases hp
  unfold Dev.emptyBuffer
  repeat' first
    | fail_if_no_progress (with_reducible apply hset)
    | with_reducible exact Only.refl _ _

theorem endOwned_only (d : Dev) (dir : Nat) : Only [.lnk] d (Dev.endOwned d dir) := by
  unfold Dev.endOwned
  repeat' first
    | with_reducible exact Only.refl _ _
    | with_reducible assumption
    | (with_reducible apply Only.step (modPort_only _ _ _))
    | (with_reducible apply Only.foldl)
    | intro _
    | split
    | (with_reducible refine Only.snd (by assumption) ?_)
    | (with_reducible refine Only.fst (by assumption) ?_)
    | decide

theorem failPort_only (d : Dev) (p : Nat) (target : PortState) (host : Option HostFence) :
    Only [.bt, .chans, .msix, .plans, .lnk, .health, .stm, .trc, .free] d (Dev.failPort d p target host) := by
  have hset : ∀ (b x : Dev) v0 v1 v2 v3 v4 v5 v6 v7 v8,
      Only [.bt, .chans, .msix, .plans, .lnk, .health, .stm, .trc, .free] b x →
      Only [.bt, .chans, .msix, .plans, .lnk, .health, .stm, .trc, .free] b { x with
          bt := v0, chans := v1, msix := v2, plans := v3, lnk := v4, health := v5, stm := v6, trc := v7, free := v8 } := by
    refine fun b x v0 v1 v2 v3 v4 v5 v6 v7 v8 h => ⟨fun p hp => ?_⟩
    cases p <;> first | exact h.same _ hp | cases hp
  unfold Dev.failPort
  repeat' first
    | fail_if_no_progress (with_reducible apply hset)
    | with_reducible exact Only.refl _ _
    | with_reducible assumption
    | (with_reducible apply Only.step (endOwned_only _ _))
    | (with_reducible apply Only.step (emptyBuffer_only _ _))
    | (with_reducible apply Only.step (directionLost_only _ _ _))
    | (with_reducible apply Only.step (moveFlit_only _ _ _))
    | (with_reducible apply Only.step (settleOwned_only _))
    | (with_reducible apply Only.step (setLnkEvent_only _ _))
    | (with_reducible apply Only.step (linkControl_only _ _ _))
    | (with_reducible apply Only.step (modPort_only _ _ _))
    | (with_reducible apply Only.step (countDeviceFault_only _))
    | (with_reducible apply Only.step (enterCrater_only _ _ _))
    | (with_reducible apply Only.step (writeRecord_only _ _))
    | (with_reducible apply Only.step (draw_only _))
    | (with_reducible apply Only.foldl)
    | intro _
    | split
    | (with_reducible refine Only.snd (by assumption) ?_)
    | (with_reducible refine Only.fst (by assumption) ?_)
    | decide

theorem portFail_only (port : Fin 24) (d : Dev) :
    Only [.bt, .chans, .msix, .plans, .lnk, .health, .stm, .trc, .free] d (portFail port d) := by
  unfold portFail
  repeat' first
    | with_reducible exact Only.refl _ _
    | with_reducible assumption
    | (with_reducible apply Only.step (failPort_only _ _ _ _))
    | (with_reducible apply Only.foldl)
    | intro _
    | split
    | (with_reducible refine Only.snd (by assumption) ?_)
    | (with_reducible refine Only.fst (by assumption) ?_)
    | decide
    | (dsimp only; done)
    | dsimp only

theorem portNotice_only (port : Fin 24) (d : Dev) :
    Only [.bt, .chans, .msix, .plans, .lnk, .health, .stm, .trc, .free] d (portNotice port d) := by
  unfold portNotice
  repeat' first
    | with_reducible exact Only.refl _ _
    | with_reducible assumption
    | (with_reducible refine Only.step (takeInbox_only (by assumption)) ?_ ?_)
    | (with_reducible apply Only.step (failPort_only _ _ _ _))
    | (with_reducible apply Only.foldl)
    | intro _
    | split
    | (with_reducible refine Only.snd (by assumption) ?_)
    | (with_reducible refine Only.fst (by assumption) ?_)
    | decide
    | (dsimp only; done)
    | dsimp only

theorem directionReroute_only (dir : Fin 8) (d : Dev) : Only [.lnk, .free] d (directionReroute dir d) := by
  have hset : ∀ (b x : Dev) v0 v1, Only [.lnk, .free] b x → Only [.lnk, .free] b { x with lnk := v0, free := v1 } := by
    refine fun b x v0 v1 h => ⟨fun p hp => ?_⟩
    cases p <;> first | exact h.same _ hp | cases hp
  unfold directionReroute
  repeat' first
    | fail_if_no_progress (with_reducible apply hset)
    | with_reducible exact Only.refl _ _
    | with_reducible assumption
    | (with_reducible apply Only.step (routeFlit_only _ _ _))
    | (with_reducible apply Only.step (draw_only _))
    | (with_reducible apply Only.foldl)
    | intro _
    | split
    | (with_reducible refine Only.snd (by assumption) ?_)
    | (with_reducible refine Only.fst (by assumption) ?_)
    | decide

theorem laneRecord_only (d : Dev) (p lane : Nat) : Only [.chans, .msix, .health, .stm, .trc] d (Dev.laneRecord d p lane) := by
  unfold Dev.laneRecord
  repeat' first
    | with_reducible exact Only.refl _ _
    | with_reducible assumption
    | (with_reducible apply Only.step (writeRecord_only _ _))
    | (with_reducible apply Only.foldl)
    | intro _
    | split
    | (with_reducible refine Only.snd (by assumption) ?_)
    | (with_reducible refine Only.fst (by assumption) ?_)
    | decide

theorem laneFail_only (port : Fin 24) (lane : Fin 9) (lostLock : Bool) (d : Dev) :
    Only [.bt, .chans, .msix, .plans, .lnk, .health, .stm, .trc, .free] d (laneFail port lane lostLock d) := by
  unfold laneFail
  repeat' first
    | with_reducible exact Only.refl _ _
    | with_reducible assumption
    | (with_reducible apply Only.step (laneRecord_only _ _ _))
    | (with_reducible apply Only.step (failPort_only _ _ _ _))
    | (with_reducible apply Only.step (setLnkEvent_only _ _))
    | (with_reducible apply Only.step (linkControl_only _ _ _))
    | (with_reducible apply Only.step (modPort_only _ _ _))
    | (with_reducible apply Only.foldl)
    | intro _
    | split
    | (with_reducible refine Only.snd (by assumption) ?_)
    | (with_reducible refine Only.fst (by assumption) ?_)
    | decide
    | (dsimp only; done)
    | dsimp only

theorem laneNotice_only (port : Fin 24) (d : Dev) :
    Only [.bt, .chans, .msix, .plans, .lnk, .health, .stm, .trc, .free] d (laneNotice port d) := by
  unfold laneNotice
  repeat' first
    | with_reducible exact Only.refl _ _
    | with_reducible assumption
    | (with_reducible refine Only.step (takeInbox_only (by assumption)) ?_ ?_)
    | (with_reducible apply Only.step (failPort_only _ _ _ _))
    | (with_reducible apply Only.step (modPort_only _ _ _))
    | (with_reducible apply Only.foldl)
    | intro _
    | split
    | (with_reducible refine Only.snd (by assumption) ?_)
    | (with_reducible refine Only.fst (by assumption) ?_)
    | decide

theorem flitBoundary_only (port : Fin 24) (d : Dev) : Only [.lnk, .free] d (flitBoundary port d) := by
  unfold flitBoundary
  repeat' first
    | with_reducible exact Only.refl _ _
    | with_reducible assumption
    | (with_reducible apply Only.step (freePlace_only _ _))
    | (with_reducible apply Only.step (modPort_only _ _ _))
    | (with_reducible apply Only.step (draw_only _))
    | (with_reducible apply Only.foldl)
    | intro _
    | split
    | (with_reducible refine Only.snd (by assumption) ?_)
    | (with_reducible refine Only.fst (by assumption) ?_)
    | decide
    | (dsimp only; done)
    | dsimp only

theorem requestNext_only (d : Dev) (peer : BitVec 15) (channel : BitVec 16) : Only [.lnk] d (Dev.requestNext d peer channel) := by
  unfold Dev.requestNext
  repeat' first
    | with_reducible exact Only.refl _ _
    | with_reducible assumption
    | (with_reducible apply Only.step (modSend_only _ _ _))
    | (with_reducible apply Only.step (sendControl_only _ _ _ _))
    | (with_reducible apply Only.foldl)
    | intro _
    | split
    | (with_reducible refine Only.snd (by assumption) ?_)
    | (with_reducible refine Only.fst (by assumption) ?_)
    | decide
    | (dsimp only; done)
    | dsimp only

theorem postSends_only (d : Dev) (p : Plan) (c : Nat) : Only [.lnk] d (Dev.postSends d p c) := by
  have hset : ∀ (b x : Dev) v0, Only [.lnk] b x → Only [.lnk] b { x with lnk := v0 } := by
    refine fun b x v0 h => ⟨fun p hp => ?_⟩
    cases p <;> first | exact h.same _ hp | cases hp
  unfold Dev.postSends
  repeat' first
    | fail_if_no_progress (with_reducible apply hset)
    | with_reducible exact Only.refl _ _
    | with_reducible assumption
    | (with_reducible apply Only.step (requestNext_only _ _ _))
    | (with_reducible apply Only.foldl)
    | intro _
    | split
    | (with_reducible refine Only.snd (by assumption) ?_)
    | (with_reducible refine Only.fst (by assumption) ?_)
    | decide

theorem sendRequest_only (d : Dev) : Only [.lnk] d (sendRequest d) := by
  have hset : ∀ (b x : Dev) v0, Only [.lnk] b x → Only [.lnk] b { x with lnk := v0 } := by
    refine fun b x v0 h => ⟨fun p hp => ?_⟩
    cases p <;> first | exact h.same _ hp | cases hp
  unfold sendRequest
  repeat' first
    | fail_if_no_progress (with_reducible apply hset)
    | with_reducible exact Only.refl _ _
    | with_reducible assumption
    | (with_reducible refine Only.step (takeInbox_only (by assumption)) ?_ ?_)
    | (with_reducible apply Only.step (sendControl_only _ _ _ _))
    | (with_reducible apply Only.foldl)
    | intro _
    | split
    | (with_reducible refine Only.snd (by assumption) ?_)
    | (with_reducible refine Only.fst (by assumption) ?_)
    | decide

theorem sendRequestRetry_only (d : Dev) : Only [.lnk] d (sendRequestRetry d) := by
  unfold sendRequestRetry
  repeat' first
    | with_reducible exact Only.refl _ _
    | with_reducible assumption
    | (with_reducible apply Only.step (modSend_only _ _ _))
    | (with_reducible apply Only.step (sendControl_only _ _ _ _))
    | (with_reducible apply Only.foldl)
    | intro _
    | split
    | (with_reducible refine Only.snd (by assumption) ?_)
    | (with_reducible refine Only.fst (by assumption) ?_)
    | decide

theorem readOut_only (d : Dev) (a n : Nat) : Only [.stks, .free] d (Dev.readOut d a n).2 := by
  unfold Dev.readOut
  repeat' first
    | with_reducible exact Only.refl _ _
    | with_reducible assumption
    | (with_reducible apply Only.step (countPoison_only _ _))
    | (with_reducible apply Only.step (draw_only _))
    | (with_reducible apply Only.foldl)
    | intro _
    | split
    | (with_reducible refine Only.snd (by assumption) ?_)
    | (with_reducible refine Only.fst (by assumption) ?_)
    | decide

theorem sendGrant_only (d : Dev) : Only [.stks, .lnk, .free] d (sendGrant d) := by
  unfold sendGrant
  repeat' first
    | with_reducible exact Only.refl _ _
    | with_reducible assumption
    | (with_reducible refine Only.step (takeInbox_only (by assumption)) ?_ ?_)
    | (with_reducible apply Only.step (readOut_only _ _ _))
    | (with_reducible apply Only.step (requestNext_only _ _ _))
    | (with_reducible apply Only.step (modSend_only _ _ _))
    | (with_reducible apply Only.step (sendBulk_only _ _ _ _))
    | (with_reducible apply Only.foldl)
    | intro _
    | split
    | (with_reducible refine Only.snd (by assumption) ?_)
    | (with_reducible refine Only.fst (by assumption) ?_)
    | decide

theorem sendAcknowledged_only (d : Dev) : Only [.lnk] d (sendAcknowledged d) := by
  have hset : ∀ (b x : Dev) v0, Only [.lnk] b x → Only [.lnk] b { x with lnk := v0 } := by
    refine fun b x v0 h => ⟨fun p hp => ?_⟩
    cases p <;> first | exact h.same _ hp | cases hp
  unfold sendAcknowledged
  repeat' first
    | fail_if_no_progress (with_reducible apply hset)
    | with_reducible exact Only.refl _ _
    | with_reducible assumption
    | (with_reducible refine Only.step (takeInbox_only (by assumption)) ?_ ?_)
    | (with_reducible apply Only.foldl)
    | intro _
    | split
    | (with_reducible refine Only.snd (by assumption) ?_)
    | (with_reducible refine Only.fst (by assumption) ?_)
    | decide

theorem takeExcess_only (d : Dev) (src : BitVec 15) (channel : BitVec 16) (left n : Nat) :
    Only [.lnk] d (Dev.takeExcess d src channel left n) := by
  have hset : ∀ (b x : Dev) v0, Only [.lnk] b x → Only [.lnk] b { x with lnk := v0 } := by
    refine fun b x v0 h => ⟨fun p hp => ?_⟩
    cases p <;> first | exact h.same _ hp | cases hp
  unfold Dev.takeExcess
  repeat' first
    | fail_if_no_progress (with_reducible apply hset)
    | with_reducible exact Only.refl _ _
    | with_reducible assumption
    | (with_reducible apply Only.step (sendControl_only _ _ _ _))
    | (with_reducible apply Only.foldl)
    | intro _
    | split
    | (with_reducible refine Only.snd (by assumption) ?_)
    | (with_reducible refine Only.fst (by assumption) ?_)
    | decide

theorem recvArrived_only (d : Dev) (i : Nat) :
    Only [.chans, .msix, .cqs, .stks, .dscs, .lnk, .health, .stm, .trc, .free] d (Dev.recvArrived d i) := by
  have hset : ∀ (b x : Dev) v0 v1 v2 v3 v4 v5 v6 v7 v8 v9,
      Only [.chans, .msix, .cqs, .stks, .dscs, .lnk, .health, .stm, .trc, .free] b x →
      Only [.chans, .msix, .cqs, .stks, .dscs, .lnk, .health, .stm, .trc, .free] b { x with
          chans := v0, msix := v1, cqs := v2, stks := v3, dscs := v4, lnk := v5, health := v6, stm := v7, trc := v8, free := v9 } := by
    refine fun b x v0 v1 v2 v3 v4 v5 v6 v7 v8 v9 h => ⟨fun p hp => ?_⟩
    cases p <;> first | exact h.same _ hp | cases hp
  unfold Dev.recvArrived
  repeat' first
    | fail_if_no_progress (with_reducible apply hset)
    | with_reducible exact Only.refl _ _
    | with_reducible assumption
    | (with_reducible apply Only.step (takeExcess_only _ _ _ _ _))
    | (with_reducible apply Only.step (finishRecv_only _ _))
    | (with_reducible apply Only.step (writeRecord_only _ _))
    | (with_reducible apply Only.step (countPoison_only _ _))
    | (with_reducible apply Only.foldl)
    | intro _
    | split
    | (with_reducible refine Only.snd (by assumption) ?_)
    | (with_reducible refine Only.fst (by assumption) ?_)
    | decide
    | (dsimp only; done)
    | dsimp only

theorem recvData_only (d : Dev) : Only [.chans, .msix, .cqs, .stks, .dscs, .lnk, .health, .stm, .trc, .free] d (recvData d) := by
  have hset : ∀ (b x : Dev) v0 v1 v2 v3 v4 v5 v6 v7 v8 v9,
      Only [.chans, .msix, .cqs, .stks, .dscs, .lnk, .health, .stm, .trc, .free] b x →
      Only [.chans, .msix, .cqs, .stks, .dscs, .lnk, .health, .stm, .trc, .free] b { x with
          chans := v0, msix := v1, cqs := v2, stks := v3, dscs := v4, lnk := v5, health := v6, stm := v7, trc := v8, free := v9 } := by
    refine fun b x v0 v1 v2 v3 v4 v5 v6 v7 v8 v9 h => ⟨fun p hp => ?_⟩
    cases p <;> first | exact h.same _ hp | cases hp
  unfold recvData
  repeat' first
    | fail_if_no_progress (with_reducible apply hset)
    | with_reducible exact Only.refl _ _
    | with_reducible assumption
    | (with_reducible refine Only.step (takeInbox_only (by assumption)) ?_ ?_)
    | (with_reducible apply Only.step (recvArrived_only _ _))
    | (with_reducible apply Only.step (takeExcess_only _ _ _ _ _))
    | (with_reducible apply Only.foldl)
    | intro _
    | split
    | (with_reducible refine Only.snd (by assumption) ?_)
    | (with_reducible refine Only.fst (by assumption) ?_)
    | decide
    | (dsimp only; done)
    | dsimp only

theorem recvTimeout_only (d : Dev) : Only [.chans, .msix, .cqs, .lnk, .health, .stm, .trc] d (recvTimeout d) := by
  have hset : ∀ (b x : Dev) v0 v1 v2 v3 v4 v5 v6,
      Only [.chans, .msix, .cqs, .lnk, .health, .stm, .trc] b x →
      Only [.chans, .msix, .cqs, .lnk, .health, .stm, .trc] b { x with
          chans := v0, msix := v1, cqs := v2, lnk := v3, health := v4, stm := v5, trc := v6 } := by
    refine fun b x v0 v1 v2 v3 v4 v5 v6 h => ⟨fun p hp => ?_⟩
    cases p <;> first | exact h.same _ hp | cases hp
  unfold recvTimeout
  repeat' first
    | fail_if_no_progress (with_reducible apply hset)
    | with_reducible exact Only.refl _ _
    | with_reducible assumption
    | (with_reducible apply Only.step (setLnkEvent_only _ _))
    | (with_reducible apply Only.step (haltQueue_only _ _))
    | (with_reducible apply Only.step (writeRecord_only _ _))
    | (with_reducible apply Only.foldl)
    | intro _
    | split
    | (with_reducible refine Only.snd (by assumption) ?_)
    | (with_reducible refine Only.fst (by assumption) ?_)
    | decide

theorem trainPort_only (d : Dev) (p : Nat) (t : TrainIn) : Only [.chans, .msix, .lnk, .health, .stm, .trc] d (Dev.trainPort d p t) := by
  unfold Dev.trainPort
  repeat' first
    | with_reducible exact Only.refl _ _
    | with_reducible assumption
    | (with_reducible apply Only.step (setLnkEvent_only _ _))
    | (with_reducible apply Only.step (modPort_only _ _ _))
    | (with_reducible apply Only.step (writeRecord_only _ _))
    | (with_reducible apply Only.foldl)
    | intro _
    | split
    | (with_reducible refine Only.snd (by assumption) ?_)
    | (with_reducible refine Only.fst (by assumption) ?_)
    | decide
    | (dsimp only; done)
    | dsimp only

theorem directionBack_only (d : Dev) (dir : Nat) : Only [.lnk] d (Dev.directionBack d dir) := by
  have hset : ∀ (b x : Dev) v0, Only [.lnk] b x → Only [.lnk] b { x with lnk := v0 } := by
    refine fun b x v0 h => ⟨fun p hp => ?_⟩
    cases p <;> first | exact h.same _ hp | cases hp
  unfold Dev.directionBack
  repeat' first
    | fail_if_no_progress (with_reducible apply hset)
    | with_reducible exact Only.refl _ _
    | with_reducible assumption
    | (with_reducible apply Only.step (routeFlit_only _ _ _))
    | (with_reducible apply Only.foldl)
    | intro _
    | split
    | (with_reducible refine Only.snd (by assumption) ?_)
    | (with_reducible refine Only.fst (by assumption) ?_)
    | decide

theorem portRetrain_only (port : Fin 24) (t : TrainIn) (d : Dev) :
    Only [.chans, .msix, .lnk, .health, .stm, .trc] d (portRetrain port t d) := by
  unfold portRetrain
  repeat' first
    | with_reducible exact Only.refl _ _
    | with_reducible assumption
    | (with_reducible apply Only.step (directionBack_only _ _))
    | (with_reducible apply Only.step (trainPort_only _ _ _))
    | (with_reducible apply Only.foldl)
    | intro _
    | split
    | (with_reducible refine Only.snd (by assumption) ?_)
    | (with_reducible refine Only.fst (by assumption) ?_)
    | decide
    | (dsimp only; done)
    | dsimp only

/-! ### Collective -/

theorem modColl_only (d : Dev) (i : Nat) (f : CollJob → CollJob) : Only [.col] d (Dev.modColl d i f) := by
  have hset : ∀ (b x : Dev) v0, Only [.col] b x → Only [.col] b { x with col := v0 } := by
    refine fun b x v0 h => ⟨fun p hp => ?_⟩
    cases p <;> first | exact h.same _ hp | cases hp
  unfold Dev.modColl
  repeat' first
    | fail_if_no_progress (with_reducible apply hset)
    | with_reducible exact Only.refl _ _

theorem setColEvent_only (d : Dev) (i : Nat) : Only [.col] d (Dev.setColEvent d i) := by
  have hset : ∀ (b x : Dev) v0, Only [.col] b x → Only [.col] b { x with col := v0 } := by
    refine fun b x v0 h => ⟨fun p hp => ?_⟩
    cases p <;> first | exact h.same _ hp | cases hp
  unfold Dev.setColEvent
  repeat' first
    | fail_if_no_progress (with_reducible apply hset)
    | with_reducible exact Only.refl _ _

theorem modEngine_only (d : Dev) (e : Nat) (f : Engine → Engine) : Only [.col] d (Dev.modEngine d e f) := by
  have hset : ∀ (b x : Dev) v0, Only [.col] b x → Only [.col] b { x with col := v0 } := by
    refine fun b x v0 h => ⟨fun p hp => ?_⟩
    cases p <;> first | exact h.same _ hp | cases hp
  unfold Dev.modEngine
  repeat' first
    | fail_if_no_progress (with_reducible apply hset)
    | with_reducible exact Only.refl _ _

theorem sendColl_only (d : Dev) (j : CollJob) (rank : Nat) (bodies : List Body) : Only [.lnk] d (Dev.sendColl d j rank bodies) := by
  unfold Dev.sendColl
  repeat' first
    | with_reducible exact Only.refl _ _
    | with_reducible assumption
    | (with_reducible apply Only.step (sendBulk_only _ _ _ _))
    | (with_reducible apply Only.step (sendControl_only _ _ _ _))
    | (with_reducible apply Only.foldl)
    | intro _
    | split
    | (with_reducible refine Only.snd (by assumption) ?_)
    | (with_reducible refine Only.fst (by assumption) ?_)
    | decide

theorem sendUp_only (d : Dev) (j : CollJob) (level : Nat) : Only [.lnk] d (Dev.sendUp d j level) := by
  unfold Dev.sendUp
  repeat' first
    | with_reducible exact Only.refl _ _
    | with_reducible assumption
    | (with_reducible apply Only.step (sendColl_only _ _ _ _))
    | (with_reducible apply Only.foldl)
    | intro _
    | split
    | (with_reducible refine Only.snd (by assumption) ?_)
    | (with_reducible refine Only.fst (by assumption) ?_)
    | decide

theorem sendDown_only (d : Dev) (j : CollJob) (flags : BitVec 4) (off : Nat) (bs : List Byte) :
    Only [.lnk] d (Dev.sendDown d j flags off bs) := by
  unfold Dev.sendDown
  repeat' first
    | with_reducible exact Only.refl _ _
    | with_reducible assumption
    | (with_reducible apply Only.step (sendColl_only _ _ _ _))
    | (with_reducible apply Only.foldl)
    | intro _
    | split
    | (with_reducible refine Only.snd (by assumption) ?_)
    | (with_reducible refine Only.fst (by assumption) ?_)
    | decide
    | (dsimp only; done)
    | dsimp only

theorem completeColl_only (d : Dev) (i : Nat) (flags : BitVec 4) :
    Only [.chans, .msix, .deliveries, .col, .health, .stm, .trc] d (Dev.completeColl d i flags) := by
  have hset : ∀ (b x : Dev) v0 v1 v2 v3 v4 v5 v6,
      Only [.chans, .msix, .deliveries, .col, .health, .stm, .trc] b x →
      Only [.chans, .msix, .deliveries, .col, .health, .stm, .trc] b { x with
          chans := v0, msix := v1, deliveries := v2, col := v3, health := v4, stm := v5, trc := v6 } := by
    refine fun b x v0 v1 v2 v3 v4 v5 v6 h => ⟨fun p hp => ?_⟩
    cases p <;> first | exact h.same _ hp | cases hp
  unfold Dev.completeColl
  repeat' first
    | fail_if_no_progress (with_reducible apply hset)
    | with_reducible exact Only.refl _ _
    | with_reducible assumption
    | (with_reducible apply Only.step (modColl_only _ _ _))
    | (with_reducible apply Only.step (writeRecord_only _ _))
    | (with_reducible apply Only.foldl)
    | intro _
    | split
    | (with_reducible refine Only.snd (by assumption) ?_)
    | (with_reducible refine Only.fst (by assumption) ?_)
    | decide

theorem sweepColl_only (d : Dev) : Only [.col] d (Dev.sweepColl d) := by
  have hset : ∀ (b x : Dev) v0, Only [.col] b x → Only [.col] b { x with col := v0 } := by
    refine fun b x v0 h => ⟨fun p hp => ?_⟩
    cases p <;> first | exact h.same _ hp | cases hp
  unfold Dev.sweepColl
  repeat' first
    | fail_if_no_progress (with_reducible apply hset)
    | with_reducible exact Only.refl _ _

theorem takeResult_only (d : Dev) (i : Nat) (flags : BitVec 4) (off : Nat) (bs : List Byte) :
    Only [.chans, .msix, .mem, .stks, .dscs, .deliveries, .lnk, .col, .health, .stm, .trc] d (Dev.takeResult d i flags off bs) := by
  unfold Dev.takeResult
  repeat' first
    | with_reducible exact Only.refl _ _
    | with_reducible assumption
    | (with_reducible apply Only.step (completeColl_only _ _ _))
    | (with_reducible apply Only.step (sendDown_only _ _ _ _ _))
    | (with_reducible apply Only.step (modColl_only _ _ _))
    | (with_reducible apply Only.step (deliver_only _ _ _ _ _ _))
    | (with_reducible apply Only.foldl)
    | intro _
    | split
    | (with_reducible refine Only.snd (by assumption) ?_)
    | (with_reducible refine Only.fst (by assumption) ?_)
    | decide
    | (dsimp only; done)
    | dsimp only

theorem finishRoot_only (d : Dev) (i : Nat) :
    Only [.chans, .msix, .mem, .stks, .dscs, .deliveries, .lnk, .col, .health, .stm, .trc] d (Dev.finishRoot d i) := by
  unfold Dev.finishRoot
  repeat' first
    | with_reducible exact Only.refl _ _
    | with_reducible assumption
    | (with_reducible apply Only.step (takeResult_only _ _ _ _ _))
    | (with_reducible apply Only.step (modColl_only _ _ _))
    | (with_reducible apply Only.foldl)
    | intro _
    | split
    | (with_reducible refine Only.snd (by assumption) ?_)
    | (with_reducible refine Only.fst (by assumption) ?_)
    | decide

theorem passOn_only (d : Dev) (i : Nat) :
    Only [.chans, .msix, .mem, .stks, .dscs, .deliveries, .lnk, .col, .health, .stm, .trc] d (Dev.passOn d i) := by
  unfold Dev.passOn
  repeat' first
    | with_reducible exact Only.refl _ _
    | with_reducible assumption
    | (with_reducible apply Only.step (finishRoot_only _ _))
    | (with_reducible apply Only.step (sendUp_only _ _ _))
    | (with_reducible apply Only.step (modColl_only _ _ _))
    | (with_reducible apply Only.foldl)
    | intro _
    | split
    | (with_reducible refine Only.snd (by assumption) ?_)
    | (with_reducible refine Only.fst (by assumption) ?_)
    | decide

theorem advance_only (e : Option Nat) (i n : Nat) (d : Dev) :
    Only [.chans, .msix, .mem, .stks, .dscs, .deliveries, .lnk, .col, .health, .stm, .trc] d (Dev.advance e i n d) := by
  induction n generalizing d with
  | zero => exact Only.refl _ _
  | succ n ih =>
    unfold Dev.advance
    split
    · exact Only.refl _ _
    · split
      · exact Only.refl _ _
      · split
        · exact passOn_only _ _
        · split
          · exact Only.refl _ _
          · refine Only.step (ih _) rfl ?_
            split
            · exact Only.step (modEngine_only _ _ _) rfl (Only.step (modColl_only _ _ _) rfl (Only.refl _ _))
            · exact Only.step (modColl_only _ _ _) rfl (Only.refl _ _)

theorem postColl_only (d : Dev) (i : Nat) : Only [.stks, .col, .free] d (Dev.postColl d i) := by
  unfold Dev.postColl
  repeat' first
    | with_reducible exact Only.refl _ _
    | with_reducible assumption
    | (with_reducible apply Only.step (modColl_only _ _ _))
    | (with_reducible apply Only.step (readOut_only _ _ _))
    | (with_reducible apply Only.foldl)
    | intro _
    | split
    | (with_reducible refine Only.snd (by assumption) ?_)
    | (with_reducible refine Only.fst (by assumption) ?_)
    | decide

theorem postColls_only (d : Dev) (p : Plan) (c : Nat) : Only [.stks, .col, .free] d (Dev.postColls d p c) := by
  unfold Dev.postColls
  repeat' first
    | with_reducible exact Only.refl _ _
    | with_reducible assumption
    | (with_reducible apply Only.step (postColl_only _ _))
    | (with_reducible apply Only.foldl)
    | intro _
    | split
    | (with_reducible refine Only.snd (by assumption) ?_)
    | (with_reducible refine Only.fst (by assumption) ?_)
    | decide

theorem sequenceColl_only (d : Dev) (i : Nat) :
    Only [.chans, .msix, .mem, .stks, .dscs, .deliveries, .lnk, .col, .health, .stm, .trc] d (Dev.sequenceColl d i) := by
  have hset : ∀ (b x : Dev) v0 v1 v2 v3 v4 v5 v6 v7 v8 v9 v10,
      Only [.chans, .msix, .mem, .stks, .dscs, .deliveries, .lnk, .col, .health, .stm, .trc] b x →
      Only [.chans, .msix, .mem, .stks, .dscs, .deliveries, .lnk, .col, .health, .stm, .trc] b { x with
          chans := v0, msix := v1, mem := v2, stks := v3, dscs := v4, deliveries := v5, lnk := v6, col := v7, health := v8, stm := v9,
          trc := v10 } := by
    refine fun b x v0 v1 v2 v3 v4 v5 v6 v7 v8 v9 v10 h => ⟨fun p hp => ?_⟩
    cases p <;> first | exact h.same _ hp | cases hp
  unfold Dev.sequenceColl
  repeat' first
    | fail_if_no_progress (with_reducible apply hset)
    | with_reducible exact Only.refl _ _
    | with_reducible assumption
    | (with_reducible apply Only.step (advance_only _ _ _ _))
    | (with_reducible apply Only.step (modColl_only _ _ _))
    | (with_reducible apply Only.foldl)
    | intro _
    | split
    | (with_reducible refine Only.snd (by assumption) ?_)
    | (with_reducible refine Only.fst (by assumption) ?_)
    | decide
    | (dsimp only; done)
    | dsimp only

theorem settlePosts_only (d : Dev) :
    Only [.chans, .msix, .mem, .stks, .dscs, .deliveries, .lnk, .col, .health, .stm, .trc] d (Dev.settlePosts d) := by
  unfold Dev.settlePosts
  repeat' first
    | with_reducible exact Only.refl _ _
    | with_reducible assumption
    | (with_reducible apply Only.step (sequenceColl_only _ _))
    | (with_reducible apply Only.step (sweepColl_only _))
    | (with_reducible apply Only.foldl)
    | intro _
    | split
    | (with_reducible refine Only.snd (by assumption) ?_)
    | (with_reducible refine Only.fst (by assumption) ?_)
    | decide
    | (dsimp only; done)
    | dsimp only

theorem abortColl_only (d : Dev) (i : Nat) (source : Option Nat) :
    Only [.chans, .msix, .cqs, .lnk, .col, .health, .stm, .trc] d (Dev.abortColl d i source) := by
  have hset : ∀ (b x : Dev) v0 v1 v2 v3 v4 v5 v6 v7,
      Only [.chans, .msix, .cqs, .lnk, .col, .health, .stm, .trc] b x →
      Only [.chans, .msix, .cqs, .lnk, .col, .health, .stm, .trc] b { x with
          chans := v0, msix := v1, cqs := v2, lnk := v3, col := v4, health := v5, stm := v6, trc := v7 } := by
    refine fun b x v0 v1 v2 v3 v4 v5 v6 v7 h => ⟨fun p hp => ?_⟩
    cases p <;> first | exact h.same _ hp | cases hp
  unfold Dev.abortColl
  repeat' first
    | fail_if_no_progress (with_reducible apply hset)
    | with_reducible exact Only.refl _ _
    | with_reducible assumption
    | (with_reducible apply Only.step (setColEvent_only _ _))
    | (with_reducible apply Only.step (sendControl_only _ _ _ _))
    | (with_reducible apply Only.step (haltQueue_only _ _))
    | (with_reducible apply Only.step (writeRecord_only _ _))
    | (with_reducible apply Only.foldl)
    | intro _
    | split
    | (with_reducible refine Only.snd (by assumption) ?_)
    | (with_reducible refine Only.fst (by assumption) ?_)
    | decide

theorem takeContribution_only (d : Dev) : Only [.chans, .msix, .cqs, .lnk, .col, .health, .stm, .trc] d (Dev.takeContribution d) := by
  unfold Dev.takeContribution
  repeat' first
    | with_reducible exact Only.refl _ _
    | with_reducible assumption
    | (with_reducible refine Only.step (takeInbox_only (by assumption)) ?_ ?_)
    | (with_reducible apply Only.step (abortColl_only _ _ _))
    | (with_reducible apply Only.step (modColl_only _ _ _))
    | (with_reducible apply Only.foldl)
    | intro _
    | split
    | (with_reducible refine Only.snd (by assumption) ?_)
    | (with_reducible refine Only.fst (by assumption) ?_)
    | decide

theorem fenceEngine_only (d : Dev) (e : Nat) (host : Option HostFence) :
    Only [.chans, .msix, .plans, .col, .health, .stm, .trc, .free] d (Dev.fenceEngine d e host) := by
  unfold Dev.fenceEngine
  repeat' first
    | with_reducible exact Only.refl _ _
    | with_reducible assumption
    | (with_reducible apply Only.step (modEngine_only _ _ _))
    | (with_reducible apply Only.step (setColEvent_only _ _))
    | (with_reducible apply Only.step (countDeviceFault_only _))
    | (with_reducible apply Only.step (enterCrater_only _ _ _))
    | (with_reducible apply Only.step (writeRecord_only _ _))
    | (with_reducible apply Only.foldl)
    | intro _
    | split
    | (with_reducible refine Only.snd (by assumption) ?_)
    | (with_reducible refine Only.fst (by assumption) ?_)
    | decide

theorem stepMismatch_only (d : Dev) (e : Nat) (step : Nat × Nat × Nat) :
    Only [.chans, .msix, .plans, .col, .health, .stm, .trc, .free] d (Dev.stepMismatch d e step) := by
  unfold Dev.stepMismatch
  repeat' first
    | with_reducible exact Only.refl _ _
    | with_reducible assumption
    | (with_reducible apply Only.step (fenceEngine_only _ _ _))
    | (with_reducible apply Only.step (modEngine_only _ _ _))
    | (with_reducible apply Only.step (setColEvent_only _ _))
    | (with_reducible apply Only.step (writeRecord_only _ _))
    | (with_reducible apply Only.foldl)
    | intro _
    | split
    | (with_reducible refine Only.snd (by assumption) ?_)
    | (with_reducible refine Only.fst (by assumption) ?_)
    | decide

theorem collContribution_only (e : Fin 16) (mismatch : Bool) (d : Dev) :
    Only [.chans, .msix, .plans, .cqs, .mem, .stks, .dscs, .deliveries, .lnk, .col, .health, .stm, .trc,
        .free] d (collContribution e mismatch d) := by
  unfold collContribution
  repeat' first
    | with_reducible exact Only.refl _ _
    | with_reducible assumption
    | (with_reducible apply Only.step (advance_only _ _ _ _))
    | (with_reducible apply Only.step (stepMismatch_only _ _ _))
    | (with_reducible apply Only.step (takeContribution_only _))
    | (with_reducible apply Only.step (sweepColl_only _))
    | (with_reducible apply Only.step (modEngine_only _ _ _))
    | (with_reducible apply Only.foldl)
    | intro _
    | split
    | (with_reducible refine Only.snd (by assumption) ?_)
    | (with_reducible refine Only.fst (by assumption) ?_)
    | decide
    | (dsimp only; done)
    | dsimp only

theorem collResult_only (d : Dev) :
    Only [.chans, .msix, .cqs, .mem, .stks, .dscs, .deliveries, .lnk, .col, .health, .stm, .trc] d (collResult d) := by
  unfold collResult
  repeat' first
    | with_reducible exact Only.refl _ _
    | with_reducible assumption
    | (with_reducible refine Only.step (takeInbox_only (by assumption)) ?_ ?_)
    | (with_reducible apply Only.step (abortColl_only _ _ _))
    | (with_reducible apply Only.step (takeResult_only _ _ _ _ _))
    | (with_reducible apply Only.step (sweepColl_only _))
    | (with_reducible apply Only.foldl)
    | intro _
    | split
    | (with_reducible refine Only.snd (by assumption) ?_)
    | (with_reducible refine Only.fst (by assumption) ?_)
    | decide

theorem engineMoveDone_only (e : Fin 16) (d : Dev) : Only [.col] d (engineMoveDone e d) := by
  unfold engineMoveDone
  repeat' first
    | with_reducible exact Only.refl _ _
    | with_reducible assumption
    | (with_reducible apply Only.step (modEngine_only _ _ _))
    | (with_reducible apply Only.foldl)
    | intro _
    | split
    | (with_reducible refine Only.snd (by assumption) ?_)
    | (with_reducible refine Only.fst (by assumption) ?_)
    | decide

theorem collTimeout_only (d : Dev) : Only [.chans, .msix, .cqs, .col, .health, .stm, .trc] d (collTimeout d) := by
  unfold collTimeout
  repeat' first
    | with_reducible exact Only.refl _ _
    | with_reducible assumption
    | (with_reducible apply Only.step (setColEvent_only _ _))
    | (with_reducible apply Only.step (modColl_only _ _ _))
    | (with_reducible apply Only.step (haltQueue_only _ _))
    | (with_reducible apply Only.step (writeRecord_only _ _))
    | (with_reducible apply Only.foldl)
    | intro _
    | split
    | (with_reducible refine Only.snd (by assumption) ?_)
    | (with_reducible refine Only.fst (by assumption) ?_)
    | decide

/-! ### Mailbox -/

theorem chanErr_only (d : Dev) (c bit : Nat) : Only [.chans] d (Dev.chanErr d c bit) := by
  unfold Dev.chanErr
  repeat' first
    | with_reducible exact Only.refl _ _
    | with_reducible assumption
    | (with_reducible apply Only.step (modChan_only _ _ _))
    | (with_reducible apply Only.foldl)
    | intro _
    | split
    | (with_reducible refine Only.snd (by assumption) ?_)
    | (with_reducible refine Only.fst (by assumption) ?_)
    | decide

theorem windowWrite_only (d : Dev) (c off : Nat) (data : List Byte) : Only [.chans] d (Dev.windowWrite d c off data) := by
  unfold Dev.windowWrite
  repeat' first
    | with_reducible exact Only.refl _ _
    | with_reducible assumption
    | (with_reducible apply Only.step (chanErr_only _ _ _))
    | (with_reducible apply Only.step (modChan_only _ _ _))
    | (with_reducible apply Only.foldl)
    | intro _
    | split
    | (with_reducible refine Only.snd (by assumption) ?_)
    | (with_reducible refine Only.fst (by assumption) ?_)
    | decide

theorem requestWindowWrite_only (func : Fin 5) (ch : Fin 8) (off : Fin 4096) (data : List Byte) (d : Dev) :
    Only [.chans] d (requestWindowWrite func ch off data d) := by
  unfold requestWindowWrite
  repeat' first
    | with_reducible exact Only.refl _ _
    | with_reducible assumption
    | (with_reducible apply Only.step (windowWrite_only _ _ _ _))
    | (with_reducible apply Only.foldl)
    | intro _
    | split
    | (with_reducible refine Only.snd (by assumption) ?_)
    | (with_reducible refine Only.fst (by assumption) ?_)
    | decide

theorem ring_only (d : Dev) (c : Nat) : Only [.chans] d (Dev.ring d c) := by
  unfold Dev.ring
  repeat' first
    | with_reducible exact Only.refl _ _
    | with_reducible assumption
    | (with_reducible apply Only.step (chanErr_only _ _ _))
    | (with_reducible apply Only.step (modChan_only _ _ _))
    | (with_reducible apply Only.foldl)
    | intro _
    | split
    | (with_reducible refine Only.snd (by assumption) ?_)
    | (with_reducible refine Only.fst (by assumption) ?_)
    | decide
    | (dsimp only; done)
    | dsimp only

theorem doorbellRing_only (func : Fin 5) (ch : Fin 8) (d : Dev) : Only [.chans] d (doorbellRing func ch d) := by
  unfold doorbellRing
  repeat' first
    | with_reducible exact Only.refl _ _
    | with_reducible assumption
    | (with_reducible apply Only.step (ring_only _ _))
    | (with_reducible apply Only.foldl)
    | intro _
    | split
    | (with_reducible refine Only.snd (by assumption) ?_)
    | (with_reducible refine Only.fst (by assumption) ?_)
    | decide

theorem requestCopyDone_only (ch : Fin 8) (d : Dev) : Only [.chans] d (requestCopyDone ch d) := by
  unfold requestCopyDone
  repeat' first
    | with_reducible exact Only.refl _ _
    | with_reducible assumption
    | (with_reducible apply Only.step (modChan_only _ _ _))
    | (with_reducible apply Only.foldl)
    | intro _
    | split
    | (with_reducible refine Only.snd (by assumption) ?_)
    | (with_reducible refine Only.fst (by assumption) ?_)
    | decide

theorem pushDone_only (d : Dev) (r : Done) : Only [.dones] d (Dev.pushDone d r) := by
  have hset : ∀ (b x : Dev) v0, Only [.dones] b x → Only [.dones] b { x with dones := v0 } := by
    refine fun b x v0 h => ⟨fun p hp => ?_⟩
    cases p <;> first | exact h.same _ hp | cases hp
  unfold Dev.pushDone
  repeat' first
    | fail_if_no_progress (with_reducible apply hset)
    | with_reducible exact Only.refl _ _

theorem takeDuplicate_only (d : Dev) (c : Nat) (m : List Byte) : Only [.reqs, .dones] d (Dev.takeDuplicate d c m) := by
  have hset : ∀ (b x : Dev) v0 v1, Only [.reqs, .dones] b x → Only [.reqs, .dones] b { x with reqs := v0, dones := v1 } := by
    refine fun b x v0 v1 h => ⟨fun p hp => ?_⟩
    cases p <;> first | exact h.same _ hp | cases hp
  unfold Dev.takeDuplicate
  repeat' first
    | fail_if_no_progress (with_reducible apply hset)
    | with_reducible exact Only.refl _ _
    | with_reducible assumption
    | (with_reducible apply Only.step (pushDone_only _ _))
    | (with_reducible apply Only.foldl)
    | intro _
    | split
    | (with_reducible refine Only.snd (by assumption) ?_)
    | (with_reducible refine Only.fst (by assumption) ?_)
    | decide

theorem requestCheck_only (d : Dev) : Only [.chans, .reqs, .dones] d (requestCheck d) := by
  have hset : ∀ (b x : Dev) v0 v1 v2,
      Only [.chans, .reqs, .dones] b x →
      Only [.chans, .reqs, .dones] b { x with chans := v0, reqs := v1, dones := v2 } := by
    refine fun b x v0 v1 v2 h => ⟨fun p hp => ?_⟩
    cases p <;> first | exact h.same _ hp | cases hp
  unfold requestCheck
  repeat' first
    | fail_if_no_progress (with_reducible apply hset)
    | with_reducible exact Only.refl _ _
    | with_reducible assumption
    | (with_reducible apply Only.step (takeDuplicate_only _ _ _))
    | (with_reducible apply Only.step (pushDone_only _ _))
    | (with_reducible apply Only.step (modChan_only _ _ _))
    | (with_reducible apply Only.foldl)
    | intro _
    | split
    | (with_reducible refine Only.snd (by assumption) ?_)
    | (with_reducible refine Only.fst (by assumption) ?_)
    | decide
    | (dsimp only; done)
    | dsimp only

theorem requestDispatch_only (d : Dev) : Only [.reqs] d (requestDispatch d) := by
  have hset : ∀ (b x : Dev) v0, Only [.reqs] b x → Only [.reqs] b { x with reqs := v0 } := by
    refine fun b x v0 h => ⟨fun p hp => ?_⟩
    cases p <;> first | exact h.same _ hp | cases hp
  unfold requestDispatch
  repeat' first
    | fail_if_no_progress (with_reducible apply hset)
    | with_reducible exact Only.refl _ _
    | with_reducible assumption
    | (with_reducible apply Only.foldl)
    | intro _
    | split

theorem finishReq_only (d : Dev) (r : Req) (result : Nat) (fields : List Byte) (ends : Bool := false) :
    Only [.reqs, .dones] d (Dev.finishReq d r result fields ends) := by
  have hset : ∀ (b x : Dev) v0 v1, Only [.reqs, .dones] b x → Only [.reqs, .dones] b { x with reqs := v0, dones := v1 } := by
    refine fun b x v0 v1 h => ⟨fun p hp => ?_⟩
    cases p <;> first | exact h.same _ hp | cases hp
  unfold Dev.finishReq
  repeat' first
    | fail_if_no_progress (with_reducible apply hset)
    | with_reducible exact Only.refl _ _
    | with_reducible assumption
    | (with_reducible apply Only.step (pushDone_only _ _))
    | (with_reducible apply Only.foldl)
    | intro _
    | split
    | (with_reducible refine Only.snd (by assumption) ?_)
    | (with_reducible refine Only.fst (by assumption) ?_)
    | decide

theorem rejectReq_only (d : Dev) (r : Req) (status : Nat) : Only [.chans, .reqs, .dones] d (Dev.rejectReq d r status) := by
  have hset : ∀ (b x : Dev) v0 v1 v2,
      Only [.chans, .reqs, .dones] b x →
      Only [.chans, .reqs, .dones] b { x with chans := v0, reqs := v1, dones := v2 } := by
    refine fun b x v0 v1 v2 h => ⟨fun p hp => ?_⟩
    cases p <;> first | exact h.same _ hp | cases hp
  unfold Dev.rejectReq
  repeat' first
    | fail_if_no_progress (with_reducible apply hset)
    | with_reducible exact Only.refl _ _
    | with_reducible assumption
    | (with_reducible apply Only.step (pushDone_only _ _))
    | (with_reducible apply Only.step (modChan_only _ _ _))
    | (with_reducible apply Only.foldl)
    | intro _
    | split
    | (with_reducible refine Only.snd (by assumption) ?_)
    | (with_reducible refine Only.fst (by assumption) ?_)
    | decide

/-- A message that is served changes what its own work changes, and the tables of requests and responses. -/
theorem serve_only {m : List Part} {f : Dev → Req → List Byte → Dev × Reply} (hs : [Part.chans, .reqs, .dones].all m.contains = true)
    (hf : ∀ d r p, Only m d (f d r p).1) (d : Dev) (op : Nat) : Only m d (d.serve op f) := by
  have hm : m.all m.contains = true := by simp
  have rj : ∀ (e : Dev) (r : Req) (s : Nat), Only m d e → Only m d (e.rejectReq r s) := fun e r s h => Only.step (rejectReq_only _ _ _) hs h
  have fin : ∀ (e : Dev) (r : Req) (n : Nat) (l : List Byte), Only m d e → Only m d (e.finishReq r n l) :=
    fun e r n l h => Only.step (finishReq_only _ _ _ _) (by simp at hs ⊢; exact ⟨hs.2.1, hs.2.2⟩) h
  unfold Dev.serve
  split
  · exact Only.refl _ _
  · split
    · exact Only.refl _ _
    · next r _ =>
      split
      · exact Only.refl _ _
      · split
        · exact rj _ _ _ (Only.refl _ _)
        · split
          · exact rj _ _ _ (Only.refl _ _)
          · have h1 := hf d r (mPayload r.msg)
            split
            · exact Only.refl _ _
            · exact rj _ _ _ (Only.refl _ _)
            · next h => rw [h] at h1; exact fin _ _ _ _ h1
            · next e h =>
              rw [h] at h1
              refine Only.step (k := [.reqs]) ⟨fun p hp => ?_⟩ (by simp at hs ⊢; exact hs.2.1) h1
              cases p <;> first | rfl | cases hp

theorem endSessions_only (d : Dev) : Only [.chans] d (Dev.endSessions d) := by
  have hset : ∀ (b x : Dev) v0, Only [.chans] b x → Only [.chans] b { x with chans := v0 } := by
    refine fun b x v0 h => ⟨fun p hp => ?_⟩
    cases p <;> first | exact h.same _ hp | cases hp
  unfold Dev.endSessions
  repeat' first
    | fail_if_no_progress (with_reducible apply hset)
    | with_reducible exact Only.refl _ _

theorem placeAll_only (d : Dev) (r : Done) (p : Option (List Byte)) : Only [.chans, .msix] d (Dev.placeAll d r p) := by
  unfold Dev.placeAll
  repeat' first
    | with_reducible exact Only.refl _ _
    | with_reducible assumption
    | (with_reducible apply Only.step (queueResp_only _ _ _))
    | (with_reducible apply Only.foldl)
    | intro _
    | split
    | (with_reducible refine Only.snd (by assumption) ?_)
    | (with_reducible refine Only.fst (by assumption) ?_)
    | decide

theorem responsePlace_only (d : Dev) : Only [.chans, .reqs, .dones, .msix] d (responsePlace d) := by
  have hset : ∀ (b x : Dev) v0 v1 v2 v3,
      Only [.chans, .reqs, .dones, .msix] b x →
      Only [.chans, .reqs, .dones, .msix] b { x with chans := v0, reqs := v1, dones := v2, msix := v3 } := by
    refine fun b x v0 v1 v2 v3 h => ⟨fun p hp => ?_⟩
    cases p <;> first | exact h.same _ hp | cases hp
  unfold responsePlace
  repeat' first
    | fail_if_no_progress (with_reducible apply hset)
    | with_reducible exact Only.refl _ _
    | with_reducible assumption
    | (with_reducible apply Only.step (placeAll_only _ _ _))
    | (with_reducible apply Only.step (endSessions_only _))
    | (with_reducible apply Only.step (modChan_only _ _ _))
    | (with_reducible apply Only.foldl)
    | intro _
    | split
    | (with_reducible refine Only.snd (by assumption) ?_)
    | (with_reducible refine Only.fst (by assumption) ?_)
    | decide

theorem pop_only (d : Dev) (c : Nat) : Only [.chans, .msix] d (Dev.pop d c) := by
  unfold Dev.pop
  repeat' first
    | with_reducible exact Only.refl _ _
    | with_reducible assumption
    | (with_reducible apply Only.step (chanErr_only _ _ _))
    | (with_reducible apply Only.step (chanMsix_only _ _))
    | (with_reducible apply Only.step (modChan_only _ _ _))
    | (with_reducible apply Only.foldl)
    | intro _
    | split
    | (with_reducible refine Only.snd (by assumption) ?_)
    | (with_reducible refine Only.fst (by assumption) ?_)
    | decide

theorem responsePop_only (func : Fin 5) (ch : Fin 8) (d : Dev) : Only [.chans, .msix] d (responsePop func ch d) := by
  unfold responsePop
  repeat' first
    | with_reducible exact Only.refl _ _
    | with_reducible assumption
    | (with_reducible apply Only.step (pop_only _ _))
    | (with_reducible apply Only.foldl)
    | intro _
    | split
    | (with_reducible refine Only.snd (by assumption) ?_)
    | (with_reducible refine Only.fst (by assumption) ?_)
    | decide

theorem resetChan_only (d : Dev) (c : Nat) : Only [.chans, .reqs, .dones] d (Dev.resetChan d c) := by
  have hset : ∀ (b x : Dev) v0 v1 v2,
      Only [.chans, .reqs, .dones] b x →
      Only [.chans, .reqs, .dones] b { x with chans := v0, reqs := v1, dones := v2 } := by
    refine fun b x v0 v1 v2 h => ⟨fun p hp => ?_⟩
    cases p <;> first | exact h.same _ hp | cases hp
  unfold Dev.resetChan
  repeat' first
    | fail_if_no_progress (with_reducible apply hset)
    | with_reducible exact Only.refl _ _
    | with_reducible assumption
    | (with_reducible apply Only.step (endSessions_only _))
    | (with_reducible apply Only.step (modChan_only _ _ _))
    | (with_reducible apply Only.foldl)
    | intro _
    | split
    | (with_reducible refine Only.snd (by assumption) ?_)
    | (with_reducible refine Only.fst (by assumption) ?_)
    | decide

theorem channelReset_only (func : Fin 5) (ch : Fin 8) (d : Dev) : Only [.chans, .reqs, .dones] d (channelReset func ch d) := by
  unfold channelReset
  repeat' first
    | with_reducible exact Only.refl _ _
    | with_reducible assumption
    | (with_reducible apply Only.step (resetChan_only _ _))
    | (with_reducible apply Only.foldl)
    | intro _
    | split
    | (with_reducible refine Only.snd (by assumption) ?_)
    | (with_reducible refine Only.fst (by assumption) ?_)
    | decide

theorem channelResetDone_only (ch : Fin 8) (d : Dev) : Only [.chans] d (channelResetDone ch d) := by
  unfold channelResetDone
  repeat' first
    | with_reducible exact Only.refl _ _
    | with_reducible assumption
    | (with_reducible apply Only.step (modChan_only _ _ _))
    | (with_reducible apply Only.foldl)
    | intro _
    | split
    | (with_reducible refine Only.snd (by assumption) ?_)
    | (with_reducible refine Only.fst (by assumption) ?_)
    | decide

theorem eventLossSummary_only (d : Dev) : Only [.chans, .msix, .health, .stm, .trc] d (eventLossSummary d) := by
  unfold eventLossSummary
  repeat' first
    | with_reducible exact Only.refl _ _
    | with_reducible assumption
    | (with_reducible apply Only.step (logRecord_only _ _))
    | (with_reducible apply Only.step (queueEvent_only _ _))
    | (with_reducible apply Only.step (modChan_only _ _ _))
    | (with_reducible apply Only.foldl)
    | intro _
    | split
    | (with_reducible refine Only.snd (by assumption) ?_)
    | (with_reducible refine Only.fst (by assumption) ?_)
    | decide
    | (dsimp only; done)
    | dsimp only

/-! ### Memory -/

theorem healUnavailable_only (d : Dev) (w : Nat) : Only [.chans, .msix, .plans, .cqs, .health, .stm, .trc] d (Dev.healUnavailable d w) := by
  unfold Dev.healUnavailable
  repeat' first
    | with_reducible exact Only.refl _ _
    | with_reducible assumption
    | (with_reducible apply Only.step (haltPlan_only _ _))
    | (with_reducible apply Only.step (setHltEvent_only _ _))
    | (with_reducible apply Only.step (writeRecord_only _ _))
    | (with_reducible apply Only.step (modPlan_only _ _ _))
    | (with_reducible apply Only.foldl)
    | intro _
    | split
    | (with_reducible refine Only.snd (by assumption) ?_)
    | (with_reducible refine Only.fst (by assumption) ?_)
    | decide

theorem queueHeal_only (d : Dev) (w : Nat) : Only [.chans, .msix, .plans, .cqs, .health, .stm, .trc] d (Dev.queueHeal d w) := by
  have hset : ∀ (b x : Dev) v0 v1 v2 v3 v4 v5 v6,
      Only [.chans, .msix, .plans, .cqs, .health, .stm, .trc] b x →
      Only [.chans, .msix, .plans, .cqs, .health, .stm, .trc] b { x with
          chans := v0, msix := v1, plans := v2, cqs := v3, health := v4, stm := v5, trc := v6 } := by
    refine fun b x v0 v1 v2 v3 v4 v5 v6 h => ⟨fun p hp => ?_⟩
    cases p <;> first | exact h.same _ hp | cases hp
  unfold Dev.queueHeal
  repeat' first
    | fail_if_no_progress (with_reducible apply hset)
    | with_reducible exact Only.refl _ _
    | with_reducible assumption
    | (with_reducible apply Only.step (healUnavailable_only _ _))
    | (with_reducible apply Only.foldl)
    | intro _
    | split
    | (with_reducible refine Only.snd (by assumption) ?_)
    | (with_reducible refine Only.fst (by assumption) ?_)
    | decide

theorem correctWord_only (d : Dev) (w : Nat) : Only [.chans, .msix, .stks, .health, .stm, .trc] d (Dev.correctWord d w) := by
  unfold Dev.correctWord
  repeat' first
    | with_reducible exact Only.refl _ _
    | with_reducible assumption
    | (with_reducible apply Only.step (writeRecord_only _ _))
    | (with_reducible apply Only.step (modStk_only _ _ _))
    | (with_reducible apply Only.foldl)
    | intro _
    | split
    | (with_reducible refine Only.snd (by assumption) ?_)
    | (with_reducible refine Only.fst (by assumption) ?_)
    | decide

theorem poisonWord_only (d : Dev) (w : Nat) :
    Only [.chans, .msix, .plans, .cqs, .mem, .stks, .health, .stm, .trc] d (Dev.poisonWord d w) := by
  have hset : ∀ (b x : Dev) v0 v1 v2 v3 v4 v5 v6 v7 v8,
      Only [.chans, .msix, .plans, .cqs, .mem, .stks, .health, .stm, .trc] b x →
      Only [.chans, .msix, .plans, .cqs, .mem, .stks, .health, .stm, .trc] b { x with
          chans := v0, msix := v1, plans := v2, cqs := v3, mem := v4, stks := v5, health := v6, stm := v7, trc := v8 } := by
    refine fun b x v0 v1 v2 v3 v4 v5 v6 v7 v8 h => ⟨fun p hp => ?_⟩
    cases p <;> first | exact h.same _ hp | cases hp
  unfold Dev.poisonWord
  repeat' first
    | fail_if_no_progress (with_reducible apply hset)
    | with_reducible exact Only.refl _ _
    | with_reducible assumption
    | (with_reducible apply Only.step (queueHeal_only _ _))
    | (with_reducible apply Only.step (writeRecord_only _ _))
    | (with_reducible apply Only.step (modStk_only _ _ _))
    | (with_reducible apply Only.foldl)
    | intro _
    | split
    | (with_reducible refine Only.snd (by assumption) ?_)
    | (with_reducible refine Only.fst (by assumption) ?_)
    | decide

theorem poisonLine_only (d : Dev) (w : Nat) :
    Only [.chans, .msix, .plans, .cqs, .mem, .stks, .health, .stm, .trc] d (Dev.poisonLine d w) := by
  unfold Dev.poisonLine
  repeat' first
    | with_reducible exact Only.refl _ _
    | with_reducible assumption
    | (with_reducible apply Only.step (poisonWord_only _ _))
    | (with_reducible apply Only.foldl)
    | intro _
    | split
    | (with_reducible refine Only.snd (by assumption) ?_)
    | (with_reducible refine Only.fst (by assumption) ?_)
    | decide

theorem lineLost_only (d : Dev) (x : DscLine) :
    Only [.chans, .msix, .plans, .cqs, .mem, .stks, .dscs, .health, .stm, .trc] d (Dev.lineLost d x) := by
  unfold Dev.lineLost
  repeat' first
    | with_reducible exact Only.refl _ _
    | with_reducible assumption
    | (with_reducible apply Only.step (poisonLine_only _ _))
    | (with_reducible apply Only.step (dropLines_only _ _ _))
    | (with_reducible apply Only.step (modDsc_only _ _ _))
    | (with_reducible apply Only.foldl)
    | intro _
    | split
    | (with_reducible refine Only.snd (by assumption) ?_)
    | (with_reducible refine Only.fst (by assumption) ?_)
    | decide

theorem poisonScratch_only (d : Dev) (k : Nat) : Only [.mem] d (Dev.poisonScratch d k) := by
  have hset : ∀ (b x : Dev) v0, Only [.mem] b x → Only [.mem] b { x with mem := v0 } := by
    refine fun b x v0 h => ⟨fun p hp => ?_⟩
    cases p <;> first | exact h.same _ hp | cases hp
  unfold Dev.poisonScratch
  repeat' first
    | fail_if_no_progress (with_reducible apply hset)
    | with_reducible exact Only.refl _ _

theorem readFinding_only (d : Dev) (kind k : Nat) :
    Only [.chans, .msix, .plans, .cqs, .mem, .stks, .dscs, .health, .stm, .trc] d (Dev.readFinding d kind k) := by
  have hset : ∀ (b x : Dev) v0 v1 v2 v3 v4 v5 v6 v7 v8 v9,
      Only [.chans, .msix, .plans, .cqs, .mem, .stks, .dscs, .health, .stm, .trc] b x →
      Only [.chans, .msix, .plans, .cqs, .mem, .stks, .dscs, .health, .stm, .trc] b { x with
          chans := v0, msix := v1, plans := v2, cqs := v3, mem := v4, stks := v5, dscs := v6, health := v7, stm := v8, trc := v9 } := by
    refine fun b x v0 v1 v2 v3 v4 v5 v6 v7 v8 v9 h => ⟨fun p hp => ?_⟩
    cases p <;> first | exact h.same _ hp | cases hp
  unfold Dev.readFinding
  repeat' first
    | fail_if_no_progress (with_reducible apply hset)
    | with_reducible exact Only.refl _ _
    | with_reducible assumption
    | (with_reducible apply Only.step (poisonScratch_only _ _))
    | (with_reducible apply Only.step (lineLost_only _ _))
    | (with_reducible apply Only.step (poisonWord_only _ _))
    | (with_reducible apply Only.step (correctWord_only _ _))
    | (with_reducible apply Only.step (modDsc_only _ _ _))
    | (with_reducible apply Only.foldl)
    | intro _
    | split
    | (with_reducible refine Only.snd (by assumption) ?_)
    | (with_reducible refine Only.fst (by assumption) ?_)
    | decide
    | (dsimp only; done)
    | dsimp only

theorem readErrors_only (d : Dev) :
    Only [.chans, .msix, .plans, .cqs, .mem, .stks, .dscs, .health, .stm, .trc, .free] d (Dev.readErrors d) := by
  unfold Dev.readErrors
  repeat' first
    | with_reducible exact Only.refl _ _
    | with_reducible assumption
    | (with_reducible apply Only.step (readFinding_only _ _ _))
    | (with_reducible apply Only.step (draw_only _))
    | (with_reducible apply Only.foldl)
    | intro _
    | split
    | (with_reducible refine Only.snd (by assumption) ?_)
    | (with_reducible refine Only.fst (by assumption) ?_)
    | decide

theorem patrolScrub_only (s : Fin 16) (found : EccFind) (d : Dev) :
    Only [.chans, .msix, .plans, .cqs, .mem, .stks, .health, .stm, .trc] d (patrolScrub s found d) := by
  unfold patrolScrub
  repeat' first
    | with_reducible exact Only.refl _ _
    | with_reducible assumption
    | (with_reducible apply Only.step (poisonWord_only _ _))
    | (with_reducible apply Only.step (correctWord_only _ _))
    | (with_reducible apply Only.step (modStk_only _ _ _))
    | (with_reducible apply Only.foldl)
    | intro _
    | split
    | (with_reducible refine Only.snd (by assumption) ?_)
    | (with_reducible refine Only.fst (by assumption) ?_)
    | decide
    | (dsimp only; done)
    | dsimp only

theorem softRepair_only (s : Fin 16) (d : Dev) : Only [.chans, .msix, .stks, .health, .stm, .trc] d (softRepair s d) := by
  have hset : ∀ (b x : Dev) v0 v1 v2 v3 v4 v5,
      Only [.chans, .msix, .stks, .health, .stm, .trc] b x →
      Only [.chans, .msix, .stks, .health, .stm, .trc] b { x with
          chans := v0, msix := v1, stks := v2, health := v3, stm := v4, trc := v5 } := by
    refine fun b x v0 v1 v2 v3 v4 v5 h => ⟨fun p hp => ?_⟩
    cases p <;> first | exact h.same _ hp | cases hp
  unfold softRepair
  repeat' first
    | fail_if_no_progress (with_reducible apply hset)
    | with_reducible exact Only.refl _ _
    | with_reducible assumption
    | (with_reducible apply Only.step (writeRecord_only _ _))
    | (with_reducible apply Only.step (modStk_only _ _ _))
    | (with_reducible apply Only.foldl)
    | intro _
    | split
    | (with_reducible refine Only.snd (by assumption) ?_)
    | (with_reducible refine Only.fst (by assumption) ?_)
    | decide
    | (dsimp only; done)
    | dsimp only

theorem writeRepair_only (d : Dev) (s : Nat) (v : BitVec 64) : Only [.stks, .free] d (Dev.writeRepair d s v) := by
  unfold Dev.writeRepair
  repeat' first
    | with_reducible exact Only.refl _ _
    | with_reducible assumption
    | (with_reducible apply Only.step (draw_only _))
    | (with_reducible apply Only.step (modStk_only _ _ _))
    | (with_reducible apply Only.foldl)
    | intro _
    | split
    | (with_reducible refine Only.snd (by assumption) ?_)
    | (with_reducible refine Only.fst (by assumption) ?_)
    | decide
    | (dsimp only; done)
    | dsimp only

theorem wipeRange_only (d : Dev) (a n : Nat) : Only [.cqs, .mem, .dscs] d (Dev.wipeRange d a n) := by
  have hset : ∀ (b x : Dev) v0 v1 v2,
      Only [.cqs, .mem, .dscs] b x →
      Only [.cqs, .mem, .dscs] b { x with cqs := v0, mem := v1, dscs := v2 } := by
    refine fun b x v0 v1 v2 h => ⟨fun p hp => ?_⟩
    cases p <;> first | exact h.same _ hp | cases hp
  unfold Dev.wipeRange
  repeat' first
    | fail_if_no_progress (with_reducible apply hset)
    | with_reducible exact Only.refl _ _
    | with_reducible assumption
    | (with_reducible apply Only.step (dropLines_only _ _ _))
    | (with_reducible apply Only.foldl)
    | intro _
    | split
    | (with_reducible refine Only.snd (by assumption) ?_)
    | (with_reducible refine Only.fst (by assumption) ?_)
    | decide

theorem wipeFailed_only (d : Dev) (w : Nat) : Only [.chans, .msix, .mem, .health, .stm, .trc] d (Dev.wipeFailed d w) := by
  have hset : ∀ (b x : Dev) v0 v1 v2 v3 v4 v5,
      Only [.chans, .msix, .mem, .health, .stm, .trc] b x →
      Only [.chans, .msix, .mem, .health, .stm, .trc] b { x with
          chans := v0, msix := v1, mem := v2, health := v3, stm := v4, trc := v5 } := by
    refine fun b x v0 v1 v2 v3 v4 v5 h => ⟨fun p hp => ?_⟩
    cases p <;> first | exact h.same _ hp | cases hp
  unfold Dev.wipeFailed
  repeat' first
    | fail_if_no_progress (with_reducible apply hset)
    | with_reducible exact Only.refl _ _
    | with_reducible assumption
    | (with_reducible apply Only.step (writeRecord_only _ _))
    | (with_reducible apply Only.foldl)
    | intro _
    | split
    | (with_reducible refine Only.snd (by assumption) ?_)
    | (with_reducible refine Only.fst (by assumption) ?_)
    | decide

theorem settleWipeBusy_only (d : Dev) : Only [.stks, .dscs] d (Dev.settleWipeBusy d) := by
  have hset : ∀ (b x : Dev) v0 v1, Only [.stks, .dscs] b x → Only [.stks, .dscs] b { x with stks := v0, dscs := v1 } := by
    refine fun b x v0 v1 h => ⟨fun p hp => ?_⟩
    cases p <;> first | exact h.same _ hp | cases hp
  unfold Dev.settleWipeBusy
  repeat' first
    | fail_if_no_progress (with_reducible apply hset)
    | with_reducible exact Only.refl _ _

theorem beginWipe_only (d : Dev) (purpose : WipeFor) (rs : List RangeEnt) : Only [.stks, .dscs, .wipes] d (Dev.beginWipe d purpose rs) := by
  have hset : ∀ (b x : Dev) v0 v1 v2,
      Only [.stks, .dscs, .wipes] b x →
      Only [.stks, .dscs, .wipes] b { x with stks := v0, dscs := v1, wipes := v2 } := by
    refine fun b x v0 v1 v2 h => ⟨fun p hp => ?_⟩
    cases p <;> first | exact h.same _ hp | cases hp
  unfold Dev.beginWipe
  repeat' first
    | fail_if_no_progress (with_reducible apply hset)
    | with_reducible exact Only.refl _ _
    | with_reducible assumption
    | (with_reducible apply Only.step (settleWipeBusy_only _))
    | (with_reducible apply Only.foldl)
    | intro _
    | split
    | (with_reducible refine Only.snd (by assumption) ?_)
    | (with_reducible refine Only.fst (by assumption) ?_)
    | decide

theorem wipeSite_only (d : Dev) (n : Nat) : Only [.cqs, .mem, .dscs, .sites] d (Dev.wipeSite d n) := by
  unfold Dev.wipeSite
  repeat' first
    | with_reducible exact Only.refl _ _
    | with_reducible assumption
    | (with_reducible apply Only.step (wipeRange_only _ _ _))
    | (with_reducible apply Only.step (modSite_only _ _ _))
    | (with_reducible apply Only.foldl)
    | intro _
    | split
    | (with_reducible refine Only.snd (by assumption) ?_)
    | (with_reducible refine Only.fst (by assumption) ?_)
    | decide

theorem siteReset_only (d : Dev) (n : Nat) : Only [.cqs, .mem, .dscs, .sites] d (Dev.siteReset d n) := by
  unfold Dev.siteReset
  repeat' first
    | with_reducible exact Only.refl _ _
    | with_reducible assumption
    | (with_reducible apply Only.step (wipeRange_only _ _ _))
    | (with_reducible apply Only.step (modSite_only _ _ _))
    | (with_reducible apply Only.foldl)
    | intro _
    | split
    | (with_reducible refine Only.snd (by assumption) ?_)
    | (with_reducible refine Only.fst (by assumption) ?_)
    | decide

theorem wipeStack_only (d : Dev) (s : Nat) (parts : List RangeEnt) (sites : Bool) (bad : List (BitVec 25)) :
    Only [.chans, .msix, .cqs, .mem, .dscs, .sites, .health, .stm, .trc] d (Dev.wipeStack d s parts sites bad) := by
  unfold Dev.wipeStack
  repeat' first
    | with_reducible exact Only.refl _ _
    | with_reducible assumption
    | (with_reducible apply Only.step (wipeSite_only _ _))
    | (with_reducible apply Only.step (wipeFailed_only _ _))
    | (with_reducible apply Only.step (wipeRange_only _ _ _))
    | (with_reducible apply Only.foldl)
    | intro _
    | split
    | (with_reducible refine Only.snd (by assumption) ?_)
    | (with_reducible refine Only.fst (by assumption) ?_)
    | decide
    | (dsimp only; done)
    | dsimp only

theorem bootWipe_only (d : Dev) (s : Nat) (bad : List (BitVec 25)) :
    Only [.chans, .msix, .cqs, .mem, .stks, .dscs, .sites, .health, .stm, .trc, .pwr] d (Dev.bootWipe d s bad) := by
  have hset : ∀ (b x : Dev) v0 v1 v2 v3 v4 v5 v6 v7 v8 v9 v10,
      Only [.chans, .msix, .cqs, .mem, .stks, .dscs, .sites, .health, .stm, .trc, .pwr] b x →
      Only [.chans, .msix, .cqs, .mem, .stks, .dscs, .sites, .health, .stm, .trc, .pwr] b { x with
          chans := v0, msix := v1, cqs := v2, mem := v3, stks := v4, dscs := v5, sites := v6, health := v7, stm := v8, trc := v9, pwr :=
          v10 } := by
    refine fun b x v0 v1 v2 v3 v4 v5 v6 v7 v8 v9 v10 h => ⟨fun p hp => ?_⟩
    cases p <;> first | exact h.same _ hp | cases hp
  unfold Dev.bootWipe
  repeat' first
    | fail_if_no_progress (with_reducible apply hset)
    | with_reducible exact Only.refl _ _
    | with_reducible assumption
    | (with_reducible apply Only.step (wipeStack_only _ _ _ _ _))
    | (with_reducible apply Only.step (settleWipeBusy_only _))
    | (with_reducible apply Only.foldl)
    | intro _
    | split
    | (with_reducible refine Only.snd (by assumption) ?_)
    | (with_reducible refine Only.fst (by assumption) ?_)
    | decide

theorem jobWipe_only (d : Dev) (s : Nat) (bad : List (BitVec 25)) :
    Only [.chans, .msix, .cqs, .mem, .stks, .dscs, .sites, .wipes, .health, .stm, .trc] d (Dev.jobWipe d s bad) := by
  have hset : ∀ (b x : Dev) v0 v1 v2 v3 v4 v5 v6 v7 v8 v9 v10,
      Only [.chans, .msix, .cqs, .mem, .stks, .dscs, .sites, .wipes, .health, .stm, .trc] b x →
      Only [.chans, .msix, .cqs, .mem, .stks, .dscs, .sites, .wipes, .health, .stm, .trc] b { x with
          chans := v0, msix := v1, cqs := v2, mem := v3, stks := v4, dscs := v5, sites := v6, wipes := v7, health := v8, stm := v9,
          trc := v10 } := by
    refine fun b x v0 v1 v2 v3 v4 v5 v6 v7 v8 v9 v10 h => ⟨fun p hp => ?_⟩
    cases p <;> first | exact h.same _ hp | cases hp
  unfold Dev.jobWipe
  repeat' first
    | fail_if_no_progress (with_reducible apply hset)
    | with_reducible exact Only.refl _ _
    | with_reducible assumption
    | (with_reducible apply Only.step (wipeStack_only _ _ _ _ _))
    | (with_reducible apply Only.step (settleWipeBusy_only _))
    | (with_reducible apply Only.foldl)
    | intro _
    | split
    | (with_reducible refine Only.snd (by assumption) ?_)
    | (with_reducible refine Only.fst (by assumption) ?_)
    | decide
    | (dsimp only; done)
    | dsimp only

/-! ### Release -/

theorem coolHeld_only (d : Dev) (die : Nat) :
    Only [.cqs, .mem, .dscs, .sites, .health, .stm, .trc, .pwr, .free] d (Dev.coolHeld d die) := by
  unfold Dev.coolHeld
  repeat' first
    | with_reducible exact Only.refl _ _
    | with_reducible assumption
    | (with_reducible apply Only.step (siteReset_only _ _))
    | (with_reducible apply Only.step (powerDown_only _ _ _))
    | (with_reducible apply Only.step (setDom_only _ _ _))
    | (with_reducible apply Only.step (draw_only _))
    | (with_reducible apply Only.step (setSiteState_only _ _ _))
    | (with_reducible apply Only.foldl)
    | intro _
    | split
    | (with_reducible refine Only.snd (by assumption) ?_)
    | (with_reducible refine Only.fst (by assumption) ?_)
    | decide

theorem powerHeld_only (d : Dev) (s : Nat) : Only [.health, .pwr] d (Dev.powerHeld d s) := by
  unfold Dev.powerHeld
  repeat' first
    | with_reducible exact Only.refl _ _
    | with_reducible assumption
    | (with_reducible apply Only.step (powerUp_only _ _ _))
    | (with_reducible apply Only.step (setDom_only _ _ _))
    | (with_reducible apply Only.step (setSiteState_only _ _ _))
    | (with_reducible apply Only.foldl)
    | intro _
    | split
    | (with_reducible refine Only.snd (by assumption) ?_)
    | (with_reducible refine Only.fst (by assumption) ?_)
    | decide

theorem settleHeld_only (d : Dev) : Only [.cqs, .mem, .dscs, .sites, .health, .stm, .trc, .pwr, .free] d (Dev.settleHeld d) := by
  unfold Dev.settleHeld
  repeat' first
    | with_reducible exact Only.refl _ _
    | with_reducible assumption
    | (with_reducible apply Only.step (powerHeld_only _ _))
    | (with_reducible apply Only.step (coolHeld_only _ _))
    | (with_reducible apply Only.foldl)
    | intro _
    | split
    | (with_reducible refine Only.snd (by assumption) ?_)
    | (with_reducible refine Only.fst (by assumption) ?_)
    | decide

theorem discardReqs_only (d : Dev) (c : Nat) : Only [.reqs] d (Dev.discardReqs d c) := by
  have hset : ∀ (b x : Dev) v0, Only [.reqs] b x → Only [.reqs] b { x with reqs := v0 } := by
    refine fun b x v0 h => ⟨fun p hp => ?_⟩
    cases p <;> first | exact h.same _ hp | cases hp
  unfold Dev.discardReqs
  repeat' first
    | fail_if_no_progress (with_reducible apply hset)
    | with_reducible exact Only.refl _ _

theorem endRequest_only (d : Dev) (op : Nat) : Only [.reqs, .dones] d (Dev.endRequest d op) := by
  unfold Dev.endRequest
  repeat' first
    | with_reducible exact Only.refl _ _
    | with_reducible assumption
    | (with_reducible apply Only.step (finishReq_only _ _ _ _ _))
    | (with_reducible apply Only.foldl)
    | intro _
    | split
    | (with_reducible refine Only.snd (by assumption) ?_)
    | (with_reducible refine Only.fst (by assumption) ?_)
    | decide

theorem endRelease_only (d : Dev) (n : Nat) : Only [.reqs, .dones, .plans, .sec] d (Dev.endRelease d n) := by
  have hset : ∀ (b x : Dev) v0 v1 v2 v3,
      Only [.reqs, .dones, .plans, .sec] b x →
      Only [.reqs, .dones, .plans, .sec] b { x with reqs := v0, dones := v1, plans := v2, sec := v3 } := by
    refine fun b x v0 v1 v2 v3 h => ⟨fun p hp => ?_⟩
    cases p <;> first | exact h.same _ hp | cases hp
  unfold Dev.endRelease
  repeat' first
    | fail_if_no_progress (with_reducible apply hset)
    | with_reducible exact Only.refl _ _
    | with_reducible assumption
    | (with_reducible apply Only.step (finishReq_only _ _ _ _ _))
    | (with_reducible apply Only.foldl)
    | intro _
    | split
    | (with_reducible refine Only.snd (by assumption) ?_)
    | (with_reducible refine Only.fst (by assumption) ?_)
    | decide
    | (dsimp only; done)
    | dsimp only

theorem endLifecycle_only (d : Dev) (target : BitVec 2) : Only [.chans, .reqs, .dones, .sec, .trc] d (Dev.endLifecycle d target) := by
  have hset : ∀ (b x : Dev) v0 v1 v2 v3 v4,
      Only [.chans, .reqs, .dones, .sec, .trc] b x →
      Only [.chans, .reqs, .dones, .sec, .trc] b { x with chans := v0, reqs := v1, dones := v2, sec := v3, trc := v4 } := by
    refine fun b x v0 v1 v2 v3 v4 h => ⟨fun p hp => ?_⟩
    cases p <;> first | exact h.same _ hp | cases hp
  unfold Dev.endLifecycle
  repeat' first
    | fail_if_no_progress (with_reducible apply hset)
    | with_reducible exact Only.refl _ _
    | with_reducible assumption
    | (with_reducible apply Only.step (endSessions_only _))
    | (with_reducible apply Only.step (finishReq_only _ _ _ _ _))
    | (with_reducible apply Only.foldl)
    | intro _
    | split
    | (with_reducible refine Only.snd (by assumption) ?_)
    | (with_reducible refine Only.fst (by assumption) ?_)
    | decide
    | (dsimp only; done)
    | dsimp only

theorem endWipe_only (d : Dev) (j : WipeJob) : Only [.chans, .reqs, .dones, .plans, .sec, .trc] d (Dev.endWipe d j) := by
  unfold Dev.endWipe
  repeat' first
    | with_reducible exact Only.refl _ _
    | with_reducible assumption
    | (with_reducible apply Only.step (endLifecycle_only _ _))
    | (with_reducible apply Only.step (endRelease_only _ _))
    | (with_reducible apply Only.step (endRequest_only _ _))
    | (with_reducible apply Only.foldl)
    | intro _
    | split
    | (with_reducible refine Only.snd (by assumption) ?_)
    | (with_reducible refine Only.fst (by assumption) ?_)
    | decide

theorem settleWipes_only (d : Dev) : Only [.chans, .reqs, .dones, .plans, .wipes, .sec, .trc] d (Dev.settleWipes d) := by
  have hset : ∀ (b x : Dev) v0 v1 v2 v3 v4 v5 v6,
      Only [.chans, .reqs, .dones, .plans, .wipes, .sec, .trc] b x →
      Only [.chans, .reqs, .dones, .plans, .wipes, .sec, .trc] b { x with
          chans := v0, reqs := v1, dones := v2, plans := v3, wipes := v4, sec := v5, trc := v6 } := by
    refine fun b x v0 v1 v2 v3 v4 v5 v6 h => ⟨fun p hp => ?_⟩
    cases p <;> first | exact h.same _ hp | cases hp
  unfold Dev.settleWipes
  repeat' first
    | fail_if_no_progress (with_reducible apply hset)
    | with_reducible exact Only.refl _ _
    | with_reducible assumption
    | (with_reducible apply Only.step (endWipe_only _ _))
    | (with_reducible apply Only.foldl)
    | intro _
    | split
    | (with_reducible refine Only.snd (by assumption) ?_)
    | (with_reducible refine Only.fst (by assumption) ?_)
    | decide

theorem wipeOwned_only (d : Dev) (t : Tenancy) : Only [.cqs, .mem, .dscs, .sites] d (Dev.wipeOwned d t) := by
  unfold Dev.wipeOwned
  repeat' first
    | with_reducible exact Only.refl _ _
    | with_reducible assumption
    | (with_reducible apply Only.step (wipeSite_only _ _))
    | (with_reducible apply Only.step (modCq_only _ _ _))
    | (with_reducible apply Only.foldl)
    | intro _
    | split
    | (with_reducible refine Only.snd (by assumption) ?_)
    | (with_reducible refine Only.fst (by assumption) ?_)
    | decide

theorem finishRelease_only (d : Dev) (n : Nat) :
    Only [.chans, .reqs, .dones, .plans, .cqs, .mem, .stks, .dscs, .sites, .wipes, .sec, .trc] d (Dev.finishRelease d n) := by
  have hset : ∀ (b x : Dev) v0 v1 v2 v3 v4 v5 v6 v7 v8 v9 v10 v11,
      Only [.chans, .reqs, .dones, .plans, .cqs, .mem, .stks, .dscs, .sites, .wipes, .sec, .trc] b x →
      Only [.chans, .reqs, .dones, .plans, .cqs, .mem, .stks, .dscs, .sites, .wipes, .sec, .trc] b { x with
          chans := v0, reqs := v1, dones := v2, plans := v3, cqs := v4, mem := v5, stks := v6, dscs := v7, sites := v8, wipes := v9,
          sec := v10, trc := v11 } := by
    refine fun b x v0 v1 v2 v3 v4 v5 v6 v7 v8 v9 v10 v11 h => ⟨fun p hp => ?_⟩
    cases p <;> first | exact h.same _ hp | cases hp
  unfold Dev.finishRelease
  repeat' first
    | fail_if_no_progress (with_reducible apply hset)
    | with_reducible exact Only.refl _ _
    | with_reducible assumption
    | (with_reducible apply Only.step (wipeOwned_only _ _))
    | (with_reducible apply Only.step (endRelease_only _ _))
    | (with_reducible apply Only.step (beginWipe_only _ _ _))
    | (with_reducible apply Only.step (resetChan_only _ _))
    | (with_reducible apply Only.step (modChan_only _ _ _))
    | (with_reducible apply Only.foldl)
    | intro _
    | split
    | (with_reducible refine Only.snd (by assumption) ?_)
    | (with_reducible refine Only.fst (by assumption) ?_)
    | decide
    | (dsimp only; done)
    | dsimp only

theorem settleReleases_only (d : Dev) :
    Only [.chans, .reqs, .dones, .plans, .cqs, .mem, .stks, .dscs, .sites, .wipes, .sec, .trc] d (Dev.settleReleases d) := by
  unfold Dev.settleReleases
  repeat' first
    | with_reducible exact Only.refl _ _
    | with_reducible assumption
    | (with_reducible apply Only.step (finishRelease_only _ _))
    | (with_reducible apply Only.foldl)
    | intro _
    | split
    | (with_reducible refine Only.snd (by assumption) ?_)
    | (with_reducible refine Only.fst (by assumption) ?_)
    | decide

theorem memoryWipe_only (s : Fin 16) (bad : List (BitVec 25)) (d : Dev) :
    Only [.chans, .reqs, .dones, .msix, .plans, .cqs, .mem, .stks, .dscs, .sites, .wipes, .sec, .health, .stm, .trc,
        .pwr] d (memoryWipe s bad d) := by
  unfold memoryWipe
  repeat' first
    | with_reducible exact Only.refl _ _
    | with_reducible assumption
    | (with_reducible apply Only.step (settleWipes_only _))
    | (with_reducible apply Only.step (jobWipe_only _ _ _))
    | (with_reducible apply Only.step (bootWipe_only _ _ _))
    | (with_reducible apply Only.foldl)
    | intro _
    | split
    | (with_reducible refine Only.snd (by assumption) ?_)
    | (with_reducible refine Only.fst (by assumption) ?_)
    | decide

/-! ### Plans -/

theorem sendExport_only (d : Dev) (p : Plan) (i : Nat) (bs : List Byte) (ts : BitVec 64) :
    Only [.chans, .msix, .health, .stm, .trc] d (Dev.sendExport d p i bs ts) := by
  have hset : ∀ (b x : Dev) v0 v1 v2 v3 v4,
      Only [.chans, .msix, .health, .stm, .trc] b x →
      Only [.chans, .msix, .health, .stm, .trc] b { x with chans := v0, msix := v1, health := v2, stm := v3, trc := v4 } := by
    refine fun b x v0 v1 v2 v3 v4 h => ⟨fun p hp => ?_⟩
    cases p <;> first | exact h.same _ hp | cases hp
  unfold Dev.sendExport
  repeat' first
    | fail_if_no_progress (with_reducible apply hset)
    | with_reducible exact Only.refl _ _
    | with_reducible assumption
    | (with_reducible apply Only.step (writeRecord_only _ _))
    | (with_reducible apply Only.foldl)
    | intro _
    | split
    | (with_reducible refine Only.snd (by assumption) ?_)
    | (with_reducible refine Only.fst (by assumption) ?_)
    | decide

theorem missStep_only (d : Dev) (p : Plan) (s : Nat) : Only [.chans, .msix, .plans, .health, .stm, .trc] d (Dev.missStep d p s) := by
  unfold Dev.missStep
  repeat' first
    | with_reducible exact Only.refl _ _
    | with_reducible assumption
    | (with_reducible apply Only.step (writeRecord_only _ _))
    | (with_reducible apply Only.step (modPlan_only _ _ _))
    | (with_reducible apply Only.foldl)
    | intro _
    | split
    | (with_reducible refine Only.snd (by assumption) ?_)
    | (with_reducible refine Only.fst (by assumption) ?_)
    | decide

theorem missAll_only (h : BitVec 16) (n : Nat) (d : Dev) :
    Only [.chans, .msix, .plans, .health, .stm, .trc] d (Dev.missAll h n d) := by
  induction n generalizing d with
  | zero => exact Only.refl _ _
  | succ n ih =>
    unfold Dev.missAll
    split
    · exact Only.refl _ _
    · split
      · exact Only.refl _ _
      · exact Only.step (ih _) rfl (Only.step (missStep_only _ _ _) rfl (Only.refl _ _))

theorem finishStep_only (d : Dev) (p : Plan) : Only [.plans] d (Dev.finishStep d p) := by
  unfold Dev.finishStep
  repeat' first
    | with_reducible exact Only.refl _ _
    | with_reducible assumption
    | (with_reducible apply Only.step (modPlan_only _ _ _))
    | (with_reducible apply Only.foldl)
    | intro _
    | split
    | (with_reducible refine Only.snd (by assumption) ?_)
    | (with_reducible refine Only.fst (by assumption) ?_)
    | decide

theorem pausePlan_only (d : Dev) (p : Plan) (cause : BitVec 16) (begun : Nat) : Only [.plans] d (Dev.pausePlan d p cause begun) := by
  unfold Dev.pausePlan
  repeat' first
    | with_reducible exact Only.refl _ _
    | with_reducible assumption
    | (with_reducible apply Only.step (modPlan_only _ _ _))
    | (with_reducible apply Only.foldl)
    | intro _
    | split
    | (with_reducible refine Only.snd (by assumption) ?_)
    | (with_reducible refine Only.fst (by assumption) ?_)
    | decide

theorem settlePause_only (d : Dev) (h : BitVec 16) : Only [.plans] d (Dev.settlePause d h) := by
  unfold Dev.settlePause
  repeat' first
    | with_reducible exact Only.refl _ _
    | with_reducible assumption
    | (with_reducible apply Only.step (pausePlan_only _ _ _ _))
    | (with_reducible apply Only.step (modPlan_only _ _ _))
    | (with_reducible apply Only.foldl)
    | intro _
    | split
    | (with_reducible refine Only.snd (by assumption) ?_)
    | (with_reducible refine Only.fst (by assumption) ?_)
    | decide

theorem settleSteps_only (h : BitVec 16) (n : Nat) (d : Dev) :
    Only [.chans, .msix, .plans, .health, .stm, .trc] d (Dev.settleSteps h n d) := by
  induction n generalizing d with
  | zero => exact Only.refl _ _
  | succ n ih =>
    unfold Dev.settleSteps
    split
    · exact Only.refl _ _
    · split
      · refine Only.step (ih _) rfl (Only.step (settlePause_only _ _) rfl ?_)
        refine Only.step (finishStep_only _ _) rfl ?_
        exact Only.ite (Only.step (missStep_only _ _ _) rfl (Only.refl _ _)) (Only.refl _ _)
      · exact Only.refl _ _

theorem settlePlan_only (d : Dev) (h : BitVec 16) : Only [.chans, .msix, .plans, .health, .stm, .trc] d (Dev.settlePlan d h) := by
  unfold Dev.settlePlan
  repeat' first
    | with_reducible exact Only.refl _ _
    | with_reducible assumption
    | (with_reducible apply Only.step (settleSteps_only _ _ _))
    | (with_reducible apply Only.step (settlePause_only _ _))
    | (with_reducible apply Only.foldl)
    | intro _
    | split
    | (with_reducible refine Only.snd (by assumption) ?_)
    | (with_reducible refine Only.fst (by assumption) ?_)
    | decide

theorem pauseForStep_only (d : Dev) (h : BitVec 16) : Only [.plans] d (Dev.pauseForStep d h) := by
  unfold Dev.pauseForStep
  repeat' first
    | with_reducible exact Only.refl _ _
    | with_reducible assumption
    | (with_reducible apply Only.step (modPlan_only _ _ _))
    | (with_reducible apply Only.foldl)
    | intro _
    | split
    | (with_reducible refine Only.snd (by assumption) ?_)
    | (with_reducible refine Only.fst (by assumption) ?_)
    | decide

theorem planStart_only (h : BitVec 16) (d : Dev) : Only [.chans, .msix, .plans, .health, .stm, .trc] d (planStart h d) := by
  unfold planStart
  repeat' first
    | with_reducible exact Only.refl _ _
    | with_reducible assumption
    | (with_reducible apply Only.step (pauseForStep_only _ _))
    | (with_reducible apply Only.step (settlePlan_only _ _))
    | (with_reducible apply Only.step (pausePlan_only _ _ _ _))
    | (with_reducible apply Only.step (modPlan_only _ _ _))
    | (with_reducible apply Only.foldl)
    | intro _
    | split
    | (with_reducible refine Only.snd (by assumption) ?_)
    | (with_reducible refine Only.fst (by assumption) ?_)
    | decide

theorem pauseBeatReached_only (h : BitVec 16) (d : Dev) : Only [.chans, .msix, .plans, .health, .stm, .trc] d (pauseBeatReached h d) := by
  unfold pauseBeatReached
  repeat' first
    | with_reducible exact Only.refl _ _
    | with_reducible assumption
    | (with_reducible apply Only.step (settlePlan_only _ _))
    | (with_reducible apply Only.foldl)
    | intro _
    | split
    | (with_reducible refine Only.snd (by assumption) ?_)
    | (with_reducible refine Only.fst (by assumption) ?_)
    | decide

theorem promiseDeadline_only (h : BitVec 16) (d : Dev) : Only [.chans, .msix, .plans, .health, .stm, .trc] d (promiseDeadline h d) := by
  unfold promiseDeadline
  repeat' first
    | with_reducible exact Only.refl _ _
    | with_reducible assumption
    | (with_reducible apply Only.step (missStep_only _ _ _))
    | (with_reducible apply Only.foldl)
    | intro _
    | split
    | (with_reducible refine Only.snd (by assumption) ?_)
    | (with_reducible refine Only.fst (by assumption) ?_)
    | decide

theorem stageResumed_only (d : Dev) (p : Plan) (b : BitVec 52) : Only [.stm, .trc] d (Dev.stageResumed d p b) := by
  unfold Dev.stageResumed
  repeat' first
    | with_reducible exact Only.refl _ _
    | with_reducible assumption
    | (with_reducible apply Only.step (stage_only _ _ _ _ _))
    | (with_reducible apply Only.foldl)
    | intro _
    | split
    | (with_reducible refine Only.snd (by assumption) ?_)
    | (with_reducible refine Only.fst (by assumption) ?_)
    | decide

theorem skipSteps_only (h : BitVec 16) (k n : Nat) (d : Dev) :
    Only [.plans] d (Dev.skipSteps h k n d) := by
  induction n generalizing d with
  | zero => exact Only.refl _ _
  | succ n ih =>
    unfold Dev.skipSteps
    split
    · exact Only.refl _ _
    · split
      · exact Only.step (ih _) rfl (Only.step (finishStep_only _ _) rfl (Only.refl _ _))
      · exact Only.refl _ _

theorem unfreeze_only (d : Dev) (c : Nat) : Only [.cqs] d (Dev.unfreeze d c) := by
  unfold Dev.unfreeze
  repeat' first
    | with_reducible exact Only.refl _ _
    | with_reducible assumption
    | (with_reducible apply Only.step (modCq_only _ _ _))
    | (with_reducible apply Only.foldl)
    | intro _
    | split
    | (with_reducible refine Only.snd (by assumption) ?_)
    | (with_reducible refine Only.fst (by assumption) ?_)
    | decide

theorem resumeRecovery_only (d : Dev) (c : Nat) : Only [.cqs, .health] d (Dev.resumeRecovery d c) := by
  have hset : ∀ (b x : Dev) v0 v1, Only [.cqs, .health] b x → Only [.cqs, .health] b { x with cqs := v0, health := v1 } := by
    refine fun b x v0 v1 h => ⟨fun p hp => ?_⟩
    cases p <;> first | exact h.same _ hp | cases hp
  unfold Dev.resumeRecovery
  repeat' first
    | fail_if_no_progress (with_reducible apply hset)
    | with_reducible exact Only.refl _ _
    | with_reducible assumption
    | (with_reducible apply Only.step (modCq_only _ _ _))
    | (with_reducible apply Only.foldl)
    | intro _
    | split
    | (with_reducible refine Only.snd (by assumption) ?_)
    | (with_reducible refine Only.fst (by assumption) ?_)
    | decide

theorem rebase_only (d : Dev) (p : Plan) (b : BitVec 52) : Only [.plans] d (Dev.rebase d p b) := by
  unfold Dev.rebase
  repeat' first
    | with_reducible exact Only.refl _ _
    | with_reducible assumption
    | (with_reducible apply Only.step (skipSteps_only _ _ _ _))
    | (with_reducible apply Only.step (modPlan_only _ _ _))
    | (with_reducible apply Only.foldl)
    | intro _
    | split
    | (with_reducible refine Only.snd (by assumption) ?_)
    | (with_reducible refine Only.fst (by assumption) ?_)
    | decide

theorem resumeBeatReached_only (h : BitVec 16) (d : Dev) :
    Only [.chans, .msix, .plans, .cqs, .health, .stm, .trc] d (resumeBeatReached h d) := by
  unfold resumeBeatReached
  repeat' first
    | with_reducible exact Only.refl _ _
    | with_reducible assumption
    | (with_reducible apply Only.step (rebase_only _ _ _))
    | (with_reducible apply Only.step (resumeRecovery_only _ _))
    | (with_reducible apply Only.step (unfreeze_only _ _))
    | (with_reducible apply Only.step (stageResumed_only _ _ _))
    | (with_reducible apply Only.step (pauseForStep_only _ _))
    | (with_reducible apply Only.step (settlePlan_only _ _))
    | (with_reducible apply Only.foldl)
    | intro _
    | split
    | (with_reducible refine Only.snd (by assumption) ?_)
    | (with_reducible refine Only.fst (by assumption) ?_)
    | decide

theorem zeroRecords_only (d : Dev) (p : Plan) (core : Nat) (records : List Nat) : Only [.mem] d (Dev.zeroRecords d p core records) := by
  have hset : ∀ (b x : Dev) v0, Only [.mem] b x → Only [.mem] b { x with mem := v0 } := by
    refine fun b x v0 h => ⟨fun p hp => ?_⟩
    cases p <;> first | exact h.same _ hp | cases hp
  unfold Dev.zeroRecords
  repeat' first
    | fail_if_no_progress (with_reducible apply hset)
    | with_reducible exact Only.refl _ _
    | with_reducible assumption
    | (with_reducible apply Only.foldl)
    | intro _
    | split

theorem settleResets_only (d : Dev) (h : BitVec 16) : Only [.plans, .mem] d (Dev.settleResets d h) := by
  unfold Dev.settleResets
  repeat' first
    | with_reducible exact Only.refl _ _
    | with_reducible assumption
    | (with_reducible apply Only.step (zeroRecords_only _ _ _ _))
    | (with_reducible apply Only.step (modPlan_only _ _ _))
    | (with_reducible apply Only.foldl)
    | intro _
    | split
    | (with_reducible refine Only.snd (by assumption) ?_)
    | (with_reducible refine Only.fst (by assumption) ?_)
    | decide

theorem switchBeat_only (h : BitVec 16) (d : Dev) : Only [.chans, .msix, .plans, .mem, .health, .stm, .trc] d (switchBeat h d) := by
  unfold switchBeat
  repeat' first
    | with_reducible exact Only.refl _ _
    | with_reducible assumption
    | (with_reducible apply Only.step (settleResets_only _ _))
    | (with_reducible apply Only.step (writeRecord_only _ _))
    | (with_reducible apply Only.step (modPlan_only _ _ _))
    | (with_reducible apply Only.foldl)
    | intro _
    | split
    | (with_reducible refine Only.snd (by assumption) ?_)
    | (with_reducible refine Only.fst (by assumption) ?_)
    | decide
    | (dsimp only; done)
    | dsimp only

theorem readySite_only (d : Dev) (p : Plan) (core site idx : Nat) : Only [.mem, .sites] d (Dev.readySite d p core site idx) := by
  have hset : ∀ (b x : Dev) v0 v1, Only [.mem, .sites] b x → Only [.mem, .sites] b { x with mem := v0, sites := v1 } := by
    refine fun b x v0 v1 h => ⟨fun p hp => ?_⟩
    cases p <;> first | exact h.same _ hp | cases hp
  unfold Dev.readySite
  repeat' first
    | fail_if_no_progress (with_reducible apply hset)
    | with_reducible exact Only.refl _ _
    | with_reducible assumption
    | (with_reducible apply Only.step (modSite_only _ _ _))
    | (with_reducible apply Only.foldl)
    | intro _
    | split
    | (with_reducible refine Only.snd (by assumption) ?_)
    | (with_reducible refine Only.fst (by assumption) ?_)
    | decide

theorem chunkRelease_only (c : Fin 72) (d : Dev) : Only [.plans, .cqs, .mem, .sites] d (chunkRelease c d) := by
  unfold chunkRelease
  repeat' first
    | with_reducible exact Only.refl _ _
    | with_reducible assumption
    | (with_reducible apply Only.step (readySite_only _ _ _ _ _))
    | (with_reducible apply Only.step (modPlan_only _ _ _))
    | (with_reducible apply Only.step (modCq_only _ _ _))
    | (with_reducible apply Only.foldl)
    | intro _
    | split
    | (with_reducible refine Only.snd (by assumption) ?_)
    | (with_reducible refine Only.fst (by assumption) ?_)
    | decide

theorem commitAtom_only (d : Dev) (p : Plan) (c : Nat) (site : Nat) (e : AtomEnt) :
    Only [.chans, .msix, .cqs, .mem, .stks, .dscs, .health, .stm, .trc] d (Dev.commitAtom d p c site e) := by
  have hset : ∀ (b x : Dev) v0 v1 v2 v3 v4 v5 v6 v7 v8,
      Only [.chans, .msix, .cqs, .mem, .stks, .dscs, .health, .stm, .trc] b x →
      Only [.chans, .msix, .cqs, .mem, .stks, .dscs, .health, .stm, .trc] b { x with
          chans := v0, msix := v1, cqs := v2, mem := v3, stks := v4, dscs := v5, health := v6, stm := v7, trc := v8 } := by
    refine fun b x v0 v1 v2 v3 v4 v5 v6 v7 v8 h => ⟨fun p hp => ?_⟩
    cases p <;> first | exact h.same _ hp | cases hp
  unfold Dev.commitAtom
  repeat' first
    | fail_if_no_progress (with_reducible apply hset)
    | with_reducible exact Only.refl _ _
    | with_reducible assumption
    | (with_reducible apply Only.step (writeRecord_only _ _))
    | (with_reducible apply Only.step (deliverLines_only _ _ _))
    | (with_reducible apply Only.step (countPoison_only _ _))
    | (with_reducible apply Only.step (modDsc_only _ _ _))
    | (with_reducible apply Only.step (modCq_only _ _ _))
    | (with_reducible apply Only.foldl)
    | intro _
    | split
    | (with_reducible refine Only.snd (by assumption) ?_)
    | (with_reducible refine Only.fst (by assumption) ?_)
    | decide

theorem commitPend_only (d : Dev) (c : Nat) : Only [.mem, .dscs] d (Dev.commitPend d c) := by
  have hset : ∀ (b x : Dev) v0 v1, Only [.mem, .dscs] b x → Only [.mem, .dscs] b { x with mem := v0, dscs := v1 } := by
    refine fun b x v0 v1 h => ⟨fun p hp => ?_⟩
    cases p <;> first | exact h.same _ hp | cases hp
  unfold Dev.commitPend
  repeat' first
    | fail_if_no_progress (with_reducible apply hset)
    | with_reducible exact Only.refl _ _
    | with_reducible assumption
    | (with_reducible apply Only.step (unseed_only _ _ _))
    | (with_reducible apply Only.step (commitLine_only _ _))
    | (with_reducible apply Only.foldl)
    | intro _
    | split
    | (with_reducible refine Only.snd (by assumption) ?_)
    | (with_reducible refine Only.fst (by assumption) ?_)
    | decide

theorem commitRecords_only (d : Dev) (site : Nat) : Only [.mem, .dscs, .sites] d (Dev.commitRecords d site) := by
  have hset : ∀ (b x : Dev) v0 v1 v2,
      Only [.mem, .dscs, .sites] b x →
      Only [.mem, .dscs, .sites] b { x with mem := v0, dscs := v1, sites := v2 } := by
    refine fun b x v0 v1 v2 h => ⟨fun p hp => ?_⟩
    cases p <;> first | exact h.same _ hp | cases hp
  unfold Dev.commitRecords
  repeat' first
    | fail_if_no_progress (with_reducible apply hset)
    | with_reducible exact Only.refl _ _
    | with_reducible assumption
    | (with_reducible apply Only.step (commitLine_only _ _))
    | (with_reducible apply Only.step (modSite_only _ _ _))
    | (with_reducible apply Only.foldl)
    | intro _
    | split
    | (with_reducible refine Only.snd (by assumption) ?_)
    | (with_reducible refine Only.fst (by assumption) ?_)
    | decide

theorem noteExports_only (d : Dev) (p : Plan) (c : Nat) (records : List (Nat × Nat)) :
    Only [.plans, .stks, .free] d (Dev.noteExports d p c records) := by
  unfold Dev.noteExports
  repeat' first
    | with_reducible exact Only.refl _ _
    | with_reducible assumption
    | (with_reducible apply Only.step (readOut_only _ _ _))
    | (with_reducible apply Only.step (modPlan_only _ _ _))
    | (with_reducible apply Only.foldl)
    | intro _
    | split
    | (with_reducible refine Only.snd (by assumption) ?_)
    | (with_reducible refine Only.fst (by assumption) ?_)
    | decide

theorem sendDue_only (d : Dev) (h : BitVec 16) : Only [.chans, .msix, .plans, .health, .stm, .trc] d (Dev.sendDue d h) := by
  unfold Dev.sendDue
  repeat' first
    | with_reducible exact Only.refl _ _
    | with_reducible assumption
    | (with_reducible apply Only.step (sendExport_only _ _ _ _ _))
    | (with_reducible apply Only.step (modPlan_only _ _ _))
    | (with_reducible apply Only.foldl)
    | intro _
    | split
    | (with_reducible refine Only.snd (by assumption) ?_)
    | (with_reducible refine Only.fst (by assumption) ?_)
    | decide

theorem streamsLeft_only (d : Dev) (site : Nat) : Only [.chans, .msix, .sites, .health, .stm, .trc] d (Dev.streamsLeft d site) := by
  unfold Dev.streamsLeft
  repeat' first
    | with_reducible exact Only.refl _ _
    | with_reducible assumption
    | (with_reducible apply Only.step (modCcr_only _ _ _))
    | (with_reducible apply Only.step (writeRecord_only _ _))
    | (with_reducible apply Only.foldl)
    | intro _
    | split
    | (with_reducible refine Only.snd (by assumption) ?_)
    | (with_reducible refine Only.fst (by assumption) ?_)
    | decide
    | (dsimp only; done)
    | dsimp only

theorem recoveryRecord_only (d : Dev) (v : Recovery) (idx : Option Nat) (now : BitVec 52) :
    Only [.chans, .msix, .health, .stm, .trc] d (Dev.recoveryRecord d v idx now) := by
  have hset : ∀ (b x : Dev) v0 v1 v2 v3 v4,
      Only [.chans, .msix, .health, .stm, .trc] b x →
      Only [.chans, .msix, .health, .stm, .trc] b { x with chans := v0, msix := v1, health := v2, stm := v3, trc := v4 } := by
    refine fun b x v0 v1 v2 v3 v4 h => ⟨fun p hp => ?_⟩
    cases p <;> first | exact h.same _ hp | cases hp
  unfold Dev.recoveryRecord
  repeat' first
    | fail_if_no_progress (with_reducible apply hset)
    | with_reducible exact Only.refl _ _
    | with_reducible assumption
    | (with_reducible apply Only.step (writeRecord_only _ _))
    | (with_reducible apply Only.foldl)
    | intro _
    | split
    | (with_reducible refine Only.snd (by assumption) ?_)
    | (with_reducible refine Only.fst (by assumption) ?_)
    | decide

theorem recomputeDone_only (d : Dev) (c : Nat) (idx : Nat) : Only [.chans, .msix, .health, .stm, .trc] d (Dev.recomputeDone d c idx) := by
  have hset : ∀ (b x : Dev) v0 v1 v2 v3 v4,
      Only [.chans, .msix, .health, .stm, .trc] b x →
      Only [.chans, .msix, .health, .stm, .trc] b { x with chans := v0, msix := v1, health := v2, stm := v3, trc := v4 } := by
    refine fun b x v0 v1 v2 v3 v4 h => ⟨fun p hp => ?_⟩
    cases p <;> first | exact h.same _ hp | cases hp
  unfold Dev.recomputeDone
  repeat' first
    | fail_if_no_progress (with_reducible apply hset)
    | with_reducible exact Only.refl _ _
    | with_reducible assumption
    | (with_reducible apply Only.step (recoveryRecord_only _ _ _ _))
    | (with_reducible apply Only.foldl)
    | intro _
    | split
    | (with_reducible refine Only.snd (by assumption) ?_)
    | (with_reducible refine Only.fst (by assumption) ?_)
    | decide

theorem abandonTrace_only (d : Dev) (c : Nat) (h : BitVec 16) : Only [.stm, .trc] d (Dev.abandonTrace d c h) := by
  unfold Dev.abandonTrace
  repeat' first
    | with_reducible exact Only.refl _ _
    | with_reducible assumption
    | (with_reducible apply Only.step (stageAll_only _ _ _ _))
    | (with_reducible apply Only.foldl)
    | intro _
    | split
    | (with_reducible refine Only.snd (by assumption) ?_)
    | (with_reducible refine Only.fst (by assumption) ?_)
    | decide

theorem dropHeld_only (d : Dev) (c : Nat) : Only [.cqs, .sites, .lnk, .col, .solves, .stm, .trc] d (Dev.dropHeld d c) := by
  have hset : ∀ (b x : Dev) v0 v1 v2 v3 v4 v5 v6,
      Only [.cqs, .sites, .lnk, .col, .solves, .stm, .trc] b x →
      Only [.cqs, .sites, .lnk, .col, .solves, .stm, .trc] b { x with
          cqs := v0, sites := v1, lnk := v2, col := v3, solves := v4, stm := v5, trc := v6 } := by
    refine fun b x v0 v1 v2 v3 v4 v5 v6 h => ⟨fun p hp => ?_⟩
    cases p <;> first | exact h.same _ hp | cases hp
  unfold Dev.dropHeld
  repeat' first
    | fail_if_no_progress (with_reducible apply hset)
    | with_reducible exact Only.refl _ _
    | with_reducible assumption
    | (with_reducible apply Only.step (abandonTrace_only _ _ _))
    | (with_reducible apply Only.step (updateDemand_only _ _ _))
    | (with_reducible apply Only.step (modCq_only _ _ _))
    | (with_reducible apply Only.foldl)
    | intro _
    | split
    | (with_reducible refine Only.snd (by assumption) ?_)
    | (with_reducible refine Only.fst (by assumption) ?_)
    | decide

theorem programFault_only (d : Dev) (c site bit code thread pc : Nat) (detail : List (Nat × List Byte)) :
    Only [.chans, .msix, .cqs, .sites, .health, .stm, .trc] d (Dev.programFault d c site bit code thread pc detail) := by
  unfold Dev.programFault
  repeat' first
    | with_reducible exact Only.refl _ _
    | with_reducible assumption
    | (with_reducible apply Only.step (modCcr_only _ _ _))
    | (with_reducible apply Only.step (writeRecord_only _ _))
    | (with_reducible apply Only.step (modCq_only _ _ _))
    | (with_reducible apply Only.foldl)
    | intro _
    | split
    | (with_reducible refine Only.snd (by assumption) ?_)
    | (with_reducible refine Only.fst (by assumption) ?_)
    | decide

theorem compareSig_only (d : Dev) (x : Ctx) : Only [.chans, .msix, .plans, .cqs, .sites, .health, .stm, .trc] d (Dev.compareSig d x).2 := by
  unfold Dev.compareSig
  repeat' first
    | with_reducible exact Only.refl _ _
    | with_reducible assumption
    | (with_reducible apply Only.step (programFault_only _ _ _ _ _ _ _ _))
    | (with_reducible apply Only.step (siteFault_only _ _ _ _ _ _))
    | (with_reducible apply Only.step (modCcr_only _ _ _))
    | (with_reducible apply Only.step (modCq_only _ _ _))
    | (with_reducible apply Only.foldl)
    | intro _
    | split
    | (with_reducible refine Only.snd (by assumption) ?_)
    | (with_reducible refine Only.fst (by assumption) ?_)
    | decide
    | (dsimp only; done)
    | dsimp only

theorem releaseSite_only (d : Dev) (c : Nat) : Only [.siteOf, .mapTs, .sites, .health] d (Dev.releaseSite d c) := by
  have hset : ∀ (b x : Dev) v0 v1 v2 v3,
      Only [.siteOf, .mapTs, .sites, .health] b x →
      Only [.siteOf, .mapTs, .sites, .health] b { x with siteOf := v0, mapTs := v1, sites := v2, health := v3 } := by
    refine fun b x v0 v1 v2 v3 h => ⟨fun p hp => ?_⟩
    cases p <;> first | exact h.same _ hp | cases hp
  unfold Dev.releaseSite
  repeat' first
    | fail_if_no_progress (with_reducible apply hset)
    | with_reducible exact Only.refl _ _
    | with_reducible assumption
    | (with_reducible apply Only.step (modLbk_only _ _ _))
    | (with_reducible apply Only.step (setSiteState_only _ _ _))
    | (with_reducible apply Only.foldl)
    | intro _
    | split
    | (with_reducible refine Only.snd (by assumption) ?_)
    | (with_reducible refine Only.fst (by assumption) ?_)
    | decide

theorem dropRecvs_only (d : Dev) (h : BitVec 16) : Only [.lnk] d (Dev.dropRecvs d h) := by
  have hset : ∀ (b x : Dev) v0, Only [.lnk] b x → Only [.lnk] b { x with lnk := v0 } := by
    refine fun b x v0 h => ⟨fun p hp => ?_⟩
    cases p <;> first | exact h.same _ hp | cases hp
  unfold Dev.dropRecvs
  repeat' first
    | fail_if_no_progress (with_reducible apply hset)
    | with_reducible exact Only.refl _ _

theorem dropSends_only (d : Dev) (h : BitVec 16) : Only [.lnk] d (Dev.dropSends d h) := by
  have hset : ∀ (b x : Dev) v0, Only [.lnk] b x → Only [.lnk] b { x with lnk := v0 } := by
    refine fun b x v0 h => ⟨fun p hp => ?_⟩
    cases p <;> first | exact h.same _ hp | cases hp
  unfold Dev.dropSends
  repeat' first
    | fail_if_no_progress (with_reducible apply hset)
    | with_reducible exact Only.refl _ _
    | with_reducible assumption
    | (with_reducible apply Only.step (requestNext_only _ _ _))
    | (with_reducible apply Only.foldl)
    | intro _
    | split
    | (with_reducible refine Only.snd (by assumption) ?_)
    | (with_reducible refine Only.fst (by assumption) ?_)
    | decide

theorem noteSites_only (d : Dev) (p : Plan) : Only [.sites, .sec] d (Dev.noteSites d p) := by
  have hset : ∀ (b x : Dev) v0 v1, Only [.sites, .sec] b x → Only [.sites, .sec] b { x with sites := v0, sec := v1 } := by
    refine fun b x v0 v1 h => ⟨fun p hp => ?_⟩
    cases p <;> first | exact h.same _ hp | cases hp
  unfold Dev.noteSites
  repeat' first
    | fail_if_no_progress (with_reducible apply hset)
    | with_reducible exact Only.refl _ _
    | with_reducible assumption
    | (with_reducible apply Only.foldl)
    | intro _
    | split

theorem releasePlan_only (d : Dev) (p : Plan) :
    Only [.plans, .siteOf, .mapTs, .cqs, .stks, .dscs, .sites, .deliveries, .lnk, .col, .slv, .solves, .wipes, .sec,
        .health] d (Dev.releasePlan d p) := by
  have hset : ∀ (b x : Dev) v0 v1 v2 v3 v4 v5 v6 v7 v8 v9 v10 v11 v12 v13 v14,
      Only [.plans, .siteOf, .mapTs, .cqs, .stks, .dscs, .sites, .deliveries, .lnk, .col, .slv, .solves, .wipes, .sec, .health] b x →
      Only [.plans, .siteOf, .mapTs, .cqs, .stks, .dscs, .sites, .deliveries, .lnk, .col, .slv, .solves, .wipes, .sec, .health] b { x with
          plans := v0, siteOf := v1, mapTs := v2, cqs := v3, stks := v4, dscs := v5, sites := v6, deliveries := v7, lnk := v8, col := v9,
          slv := v10, solves := v11, wipes := v12, sec := v13, health := v14 } := by
    refine fun b x v0 v1 v2 v3 v4 v5 v6 v7 v8 v9 v10 v11 v12 v13 v14 h => ⟨fun p hp => ?_⟩
    cases p <;> first | exact h.same _ hp | cases hp
  unfold Dev.releasePlan
  repeat' first
    | fail_if_no_progress (with_reducible apply hset)
    | with_reducible exact Only.refl _ _
    | with_reducible assumption
    | (with_reducible apply Only.step (noteSites_only _ _))
    | (with_reducible apply Only.step (dropSends_only _ _))
    | (with_reducible apply Only.step (dropRecvs_only _ _))
    | (with_reducible apply Only.step (releaseSite_only _ _))
    | (with_reducible apply Only.step (beginWipe_only _ _ _))
    | (with_reducible apply Only.step (dropSolve_only _ _))
    | (with_reducible apply Only.step (modCq_only _ _ _))
    | (with_reducible apply Only.foldl)
    | intro _
    | split
    | (with_reducible refine Only.snd (by assumption) ?_)
    | (with_reducible refine Only.fst (by assumption) ?_)
    | decide

theorem discardChunk_only (d : Dev) (p : Plan) (c : Nat) :
    Only [.plans, .cqs, .sites, .lnk, .col, .solves, .stm, .trc] d (Dev.discardChunk d p c) := by
  unfold Dev.discardChunk
  repeat' first
    | with_reducible exact Only.refl _ _
    | with_reducible assumption
    | (with_reducible apply Only.step (dropHeld_only _ _))
    | (with_reducible apply Only.step (modPlan_only _ _ _))
    | (with_reducible apply Only.step (modCq_only _ _ _))
    | (with_reducible apply Only.step (modSite_only _ _ _))
    | (with_reducible apply Only.foldl)
    | intro _
    | split
    | (with_reducible refine Only.snd (by assumption) ?_)
    | (with_reducible refine Only.fst (by assumption) ?_)
    | decide

theorem settleRetire_only (d : Dev) (h : BitVec 16) :
    Only [.chans, .reqs, .dones, .plans, .siteOf, .mapTs, .cqs, .mem, .stks, .dscs, .sites, .deliveries, .lnk, .col, .slv, .solves,
        .wipes, .sec, .health, .stm, .trc, .pwr, .free] d (Dev.settleRetire d h) := by
  unfold Dev.settleRetire
  repeat' first
    | with_reducible exact Only.refl _ _
    | with_reducible assumption
    | (with_reducible apply Only.step (releasePlan_only _ _))
    | (with_reducible apply Only.step (settleReleases_only _))
    | (with_reducible apply Only.step (settleHeld_only _))
    | (with_reducible apply Only.step (finishReq_only _ _ _ _ _))
    | (with_reducible apply Only.foldl)
    | intro _
    | split
    | (with_reducible refine Only.snd (by assumption) ?_)
    | (with_reducible refine Only.fst (by assumption) ?_)
    | decide

theorem beginRetire_only (d : Dev) (p : Plan) :
    Only [.chans, .reqs, .dones, .plans, .siteOf, .mapTs, .cqs, .mem, .stks, .dscs, .sites, .deliveries, .lnk, .col, .slv, .solves,
        .wipes, .sec, .health, .stm, .trc, .pwr, .free] d (Dev.beginRetire d p) := by
  unfold Dev.beginRetire
  repeat' first
    | with_reducible exact Only.refl _ _
    | with_reducible assumption
    | (with_reducible apply Only.step (settleRetire_only _ _))
    | (with_reducible apply Only.step (discardChunk_only _ _ _))
    | (with_reducible apply Only.step (modPlan_only _ _ _))
    | (with_reducible apply Only.foldl)
    | intro _
    | split
    | (with_reducible refine Only.snd (by assumption) ?_)
    | (with_reducible refine Only.fst (by assumption) ?_)
    | decide

theorem retireAll_only (d : Dev) (func : Nat) :
    Only [.chans, .reqs, .dones, .plans, .siteOf, .mapTs, .cqs, .mem, .stks, .dscs, .sites, .deliveries, .lnk, .col, .slv, .solves,
        .wipes, .sec, .health, .stm, .trc, .pwr, .free] d (Dev.retireAll d func) := by
  unfold Dev.retireAll
  repeat' first
    | with_reducible exact Only.refl _ _
    | with_reducible assumption
    | (with_reducible apply Only.step (beginRetire_only _ _))
    | (with_reducible apply Only.foldl)
    | intro _
    | split
    | (with_reducible refine Only.snd (by assumption) ?_)
    | (with_reducible refine Only.fst (by assumption) ?_)
    | decide

theorem askRetire_only (d : Dev) (func : Nat) :
    Only [.chans, .reqs, .dones, .rings, .plans, .siteOf, .mapTs, .cqs, .mem, .stks, .dscs, .sites, .deliveries, .lnk, .col, .slv,
        .solves, .wipes, .sec, .health, .stm, .trc, .pwr, .free] d (Dev.askRetire d func) := by
  have hset : ∀ (b x : Dev) v0 v1 v2 v3 v4 v5 v6 v7 v8 v9 v10 v11 v12 v13 v14 v15 v16 v17 v18 v19 v20 v21 v22 v23,
      Only [.chans, .reqs, .dones, .rings, .plans, .siteOf, .mapTs, .cqs, .mem, .stks, .dscs, .sites, .deliveries, .lnk, .col, .slv,
          .solves, .wipes, .sec, .health, .stm, .trc, .pwr, .free] b x →
      Only [.chans, .reqs, .dones, .rings, .plans, .siteOf, .mapTs, .cqs, .mem, .stks, .dscs, .sites, .deliveries, .lnk, .col, .slv,
          .solves, .wipes, .sec, .health, .stm, .trc, .pwr, .free] b { x with
          chans := v0, reqs := v1, dones := v2, rings := v3, plans := v4, siteOf := v5, mapTs := v6, cqs := v7, mem := v8, stks := v9,
          dscs := v10, sites := v11, deliveries := v12, lnk := v13, col := v14, slv := v15, solves := v16, wipes := v17, sec := v18,
          health := v19, stm := v20, trc := v21, pwr := v22, free := v23 } := by
    refine fun b x v0 v1 v2 v3 v4 v5 v6 v7 v8 v9 v10 v11 v12 v13 v14 v15 v16 v17 v18 v19 v20 v21 v22 v23 h => ⟨fun p hp => ?_⟩
    cases p <;> first | exact h.same _ hp | cases hp
  unfold Dev.askRetire
  repeat' first
    | fail_if_no_progress (with_reducible apply hset)
    | with_reducible exact Only.refl _ _
    | with_reducible assumption
    | (with_reducible apply Only.step (retireAll_only _ _))
    | (with_reducible apply Only.foldl)
    | intro _
    | split
    | (with_reducible refine Only.snd (by assumption) ?_)
    | (with_reducible refine Only.fst (by assumption) ?_)
    | decide

theorem serveRings_only (d : Dev) :
    Only [.chans, .reqs, .dones, .rings, .plans, .siteOf, .mapTs, .cqs, .mem, .stks, .dscs, .sites, .deliveries, .lnk, .col, .slv,
        .solves, .wipes, .sec, .health, .stm, .trc, .pwr, .free] d (Dev.serveRings d) := by
  have hset : ∀ (b x : Dev) v0 v1 v2 v3 v4 v5 v6 v7 v8 v9 v10 v11 v12 v13 v14 v15 v16 v17 v18 v19 v20 v21 v22 v23,
      Only [.chans, .reqs, .dones, .rings, .plans, .siteOf, .mapTs, .cqs, .mem, .stks, .dscs, .sites, .deliveries, .lnk, .col, .slv,
          .solves, .wipes, .sec, .health, .stm, .trc, .pwr, .free] b x →
      Only [.chans, .reqs, .dones, .rings, .plans, .siteOf, .mapTs, .cqs, .mem, .stks, .dscs, .sites, .deliveries, .lnk, .col, .slv,
          .solves, .wipes, .sec, .health, .stm, .trc, .pwr, .free] b { x with
          chans := v0, reqs := v1, dones := v2, rings := v3, plans := v4, siteOf := v5, mapTs := v6, cqs := v7, mem := v8, stks := v9,
          dscs := v10, sites := v11, deliveries := v12, lnk := v13, col := v14, slv := v15, solves := v16, wipes := v17, sec := v18,
          health := v19, stm := v20, trc := v21, pwr := v22, free := v23 } := by
    refine fun b x v0 v1 v2 v3 v4 v5 v6 v7 v8 v9 v10 v11 v12 v13 v14 v15 v16 v17 v18 v19 v20 v21 v22 v23 h => ⟨fun p hp => ?_⟩
    cases p <;> first | exact h.same _ hp | cases hp
  unfold Dev.serveRings
  repeat' first
    | fail_if_no_progress (with_reducible apply hset)
    | with_reducible exact Only.refl _ _
    | with_reducible assumption
    | (with_reducible apply Only.step (retireAll_only _ _))
    | (with_reducible apply Only.step (settleReleases_only _))
    | (with_reducible apply Only.foldl)
    | intro _
    | split
    | (with_reducible refine Only.snd (by assumption) ?_)
    | (with_reducible refine Only.fst (by assumption) ?_)
    | decide

theorem beginRelease_only (d : Dev) (n : Nat) :
    Only [.chans, .reqs, .dones, .rings, .plans, .siteOf, .mapTs, .cqs, .mem, .stks, .dscs, .sites, .deliveries, .lnk, .col, .slv,
        .solves, .wipes, .sec, .health, .stm, .trc, .pwr, .free] d (Dev.beginRelease d n) := by
  have hset : ∀ (b x : Dev) v0 v1 v2 v3 v4 v5 v6 v7 v8 v9 v10 v11 v12 v13 v14 v15 v16 v17 v18 v19 v20 v21 v22 v23,
      Only [.chans, .reqs, .dones, .rings, .plans, .siteOf, .mapTs, .cqs, .mem, .stks, .dscs, .sites, .deliveries, .lnk, .col, .slv,
          .solves, .wipes, .sec, .health, .stm, .trc, .pwr, .free] b x →
      Only [.chans, .reqs, .dones, .rings, .plans, .siteOf, .mapTs, .cqs, .mem, .stks, .dscs, .sites, .deliveries, .lnk, .col, .slv,
          .solves, .wipes, .sec, .health, .stm, .trc, .pwr, .free] b { x with
          chans := v0, reqs := v1, dones := v2, rings := v3, plans := v4, siteOf := v5, mapTs := v6, cqs := v7, mem := v8, stks := v9,
          dscs := v10, sites := v11, deliveries := v12, lnk := v13, col := v14, slv := v15, solves := v16, wipes := v17, sec := v18,
          health := v19, stm := v20, trc := v21, pwr := v22, free := v23 } := by
    refine fun b x v0 v1 v2 v3 v4 v5 v6 v7 v8 v9 v10 v11 v12 v13 v14 v15 v16 v17 v18 v19 v20 v21 v22 v23 h => ⟨fun p hp => ?_⟩
    cases p <;> first | exact h.same _ hp | cases hp
  unfold Dev.beginRelease
  repeat' first
    | fail_if_no_progress (with_reducible apply hset)
    | with_reducible exact Only.refl _ _
    | with_reducible assumption
    | (with_reducible apply Only.step (askRetire_only _ _))
    | (with_reducible apply Only.step (settleReleases_only _))
    | (with_reducible apply Only.step (discardReqs_only _ _))
    | (with_reducible apply Only.foldl)
    | intro _
    | split
    | (with_reducible refine Only.snd (by assumption) ?_)
    | (with_reducible refine Only.fst (by assumption) ?_)
    | decide

theorem retireChunkDiscard_only (c : Fin 72) (d : Dev) :
    Only [.chans, .reqs, .dones, .plans, .siteOf, .mapTs, .cqs, .mem, .stks, .dscs, .sites, .deliveries, .lnk, .col, .slv, .solves,
        .wipes, .sec, .health, .stm, .trc, .pwr, .free] d (retireChunkDiscard c d) := by
  unfold retireChunkDiscard
  repeat' first
    | with_reducible exact Only.refl _ _
    | with_reducible assumption
    | (with_reducible apply Only.step (settleRetire_only _ _))
    | (with_reducible apply Only.step (discardChunk_only _ _ _))
    | (with_reducible apply Only.foldl)
    | intro _
    | split
    | (with_reducible refine Only.snd (by assumption) ?_)
    | (with_reducible refine Only.fst (by assumption) ?_)
    | decide

theorem commit_only (d : Dev) (x : Ctx) :
    Only [.chans, .reqs, .dones, .msix, .plans, .siteOf, .mapTs, .cqs, .mem, .stks, .dscs, .sites, .deliveries, .lnk, .col, .slv,
        .solves, .wipes, .sec, .health, .stm, .trc, .pwr, .free] d (Dev.commit d x) := by
  have hset : ∀ (b x : Dev) v0 v1 v2 v3 v4 v5 v6 v7 v8 v9 v10 v11 v12 v13 v14 v15 v16 v17 v18 v19 v20 v21 v22 v23,
      Only [.chans, .reqs, .dones, .msix, .plans, .siteOf, .mapTs, .cqs, .mem, .stks, .dscs, .sites, .deliveries, .lnk, .col, .slv,
          .solves, .wipes, .sec, .health, .stm, .trc, .pwr, .free] b x →
      Only [.chans, .reqs, .dones, .msix, .plans, .siteOf, .mapTs, .cqs, .mem, .stks, .dscs, .sites, .deliveries, .lnk, .col, .slv,
          .solves, .wipes, .sec, .health, .stm, .trc, .pwr, .free] b { x with
          chans := v0, reqs := v1, dones := v2, msix := v3, plans := v4, siteOf := v5, mapTs := v6, cqs := v7, mem := v8, stks := v9,
          dscs := v10, sites := v11, deliveries := v12, lnk := v13, col := v14, slv := v15, solves := v16, wipes := v17, sec := v18,
          health := v19, stm := v20, trc := v21, pwr := v22, free := v23 } := by
    refine fun b x v0 v1 v2 v3 v4 v5 v6 v7 v8 v9 v10 v11 v12 v13 v14 v15 v16 v17 v18 v19 v20 v21 v22 v23 h => ⟨fun p hp => ?_⟩
    cases p <;> first | exact h.same _ hp | cases hp
  unfold Dev.commit
  repeat' first
    | fail_if_no_progress (with_reducible apply hset)
    | with_reducible exact Only.refl _ _
    | with_reducible assumption
    | (with_reducible apply Only.step (missAll_only _ _ _))
    | (with_reducible apply Only.step (settleRetire_only _ _))
    | (with_reducible apply Only.step (recomputeDone_only _ _ _))
    | (with_reducible apply Only.step (streamsLeft_only _ _))
    | (with_reducible apply Only.step (sendDue_only _ _))
    | (with_reducible apply Only.step (noteExports_only _ _ _ _))
    | (with_reducible apply Only.step (commitRecords_only _ _))
    | (with_reducible apply Only.step (commitPend_only _ _))
    | (with_reducible apply Only.step (commitAtom_only _ _ _ _ _))
    | (with_reducible apply Only.step (settleResets_only _ _))
    | (with_reducible apply Only.step (settlePlan_only _ _))
    | (with_reducible apply Only.step (postColls_only _ _ _))
    | (with_reducible apply Only.step (postSends_only _ _ _))
    | (with_reducible apply Only.step (submitSolves_only _ _ _))
    | (with_reducible apply Only.step (freeTo_only _ _ _))
    | (with_reducible apply Only.step (modCcr_only _ _ _))
    | (with_reducible apply Only.step (stageAll_only _ _ _ _))
    | (with_reducible apply Only.step (modPlan_only _ _ _))
    | (with_reducible apply Only.step (modCq_only _ _ _))
    | (with_reducible apply Only.foldl)
    | intro _
    | split
    | (with_reducible refine Only.snd (by assumption) ?_)
    | (with_reducible refine Only.fst (by assumption) ?_)
    | decide

theorem chunkCommit_only (c : Fin 72) (d : Dev) :
    Only [.chans, .reqs, .dones, .msix, .plans, .siteOf, .mapTs, .cqs, .mem, .stks, .dscs, .sites, .deliveries, .lnk, .col, .slv,
        .solves, .wipes, .sec, .health, .stm, .trc, .pwr, .free] d (chunkCommit c d) := by
  unfold chunkCommit
  repeat' first
    | with_reducible exact Only.refl _ _
    | with_reducible assumption
    | (with_reducible apply Only.step (commit_only _ _))
    | (with_reducible apply Only.step (compareSig_only _ _))
    | (with_reducible apply Only.foldl)
    | intro _
    | split
    | (with_reducible refine Only.snd (by assumption) ?_)
    | (with_reducible refine Only.fst (by assumption) ?_)
    | decide

theorem flagDelivery_only (d : Dev) : Only [.chans, .msix, .cqs, .sites, .deliveries, .health, .stm, .trc] d (flagDelivery d) := by
  have hset : ∀ (b x : Dev) v0 v1 v2 v3 v4 v5 v6 v7,
      Only [.chans, .msix, .cqs, .sites, .deliveries, .health, .stm, .trc] b x →
      Only [.chans, .msix, .cqs, .sites, .deliveries, .health, .stm, .trc] b { x with
          chans := v0, msix := v1, cqs := v2, sites := v3, deliveries := v4, health := v5, stm := v6, trc := v7 } := by
    refine fun b x v0 v1 v2 v3 v4 v5 v6 v7 h => ⟨fun p hp => ?_⟩
    cases p <;> first | exact h.same _ hp | cases hp
  unfold flagDelivery
  repeat' first
    | fail_if_no_progress (with_reducible apply hset)
    | with_reducible exact Only.refl _ _
    | with_reducible assumption
    | (with_reducible apply Only.step (eventTwice_only _ _ _ _ _))
    | (with_reducible apply Only.step (setFlag_only _ _ _))
    | (with_reducible apply Only.step (modCq_only _ _ _))
    | (with_reducible apply Only.foldl)
    | intro _
    | split
    | (with_reducible refine Only.snd (by assumption) ?_)
    | (with_reducible refine Only.fst (by assumption) ?_)
    | decide
    | (dsimp only; done)
    | dsimp only

/-! ### Ccr -/

theorem modThread_only (d : Dev) (site t : Nat) (f : Thread → Thread) : Only [.sites] d (Dev.modThread d site t f) := by
  unfold Dev.modThread
  repeat' first
    | with_reducible exact Only.refl _ _
    | with_reducible assumption
    | (with_reducible apply Only.step (modCcr_only _ _ _))
    | (with_reducible apply Only.foldl)
    | intro _
    | split
    | (with_reducible refine Only.snd (by assumption) ?_)
    | (with_reducible refine Only.fst (by assumption) ?_)
    | decide

theorem CcrCx_retired_only (k : CcrCx) (d : Dev) (f : Thread → Thread) : Only [.sites] d (CcrCx.retired k d f) := by
  unfold CcrCx.retired
  repeat' first
    | with_reducible exact Only.refl _ _
    | with_reducible assumption
    | (with_reducible apply Only.step (modThread_only _ _ _ _))
    | (with_reducible apply Only.step (modCcr_only _ _ _))
    | (with_reducible apply Only.foldl)
    | intro _
    | split
    | (with_reducible refine Only.snd (by assumption) ?_)
    | (with_reducible refine Only.fst (by assumption) ?_)
    | decide

theorem stopThread_only (d : Dev) (site t : Nat) : Only [.sites] d (Dev.stopThread d site t) := by
  unfold Dev.stopThread
  repeat' first
    | with_reducible exact Only.refl _ _
    | with_reducible assumption
    | (with_reducible apply Only.step (modThread_only _ _ _ _))
    | (with_reducible apply Only.foldl)
    | intro _
    | split
    | (with_reducible refine Only.snd (by assumption) ?_)
    | (with_reducible refine Only.fst (by assumption) ?_)
    | decide

theorem ccrPoison_only (d : Dev) (c site t a : Nat) :
    Only [.chans, .msix, .cqs, .stks, .sites, .health, .stm, .trc] d (Dev.ccrPoison d c site t a) := by
  unfold Dev.ccrPoison
  repeat' first
    | with_reducible exact Only.refl _ _
    | with_reducible assumption
    | (with_reducible apply Only.step (stopThread_only _ _ _))
    | (with_reducible apply Only.step (writeRecord_only _ _))
    | (with_reducible apply Only.step (countPoison_only _ _))
    | (with_reducible apply Only.step (modCq_only _ _ _))
    | (with_reducible apply Only.foldl)
    | intro _
    | split
    | (with_reducible refine Only.snd (by assumption) ?_)
    | (with_reducible refine Only.fst (by assumption) ?_)
    | decide

theorem threadFault_only (d : Dev) (c site t bit code pc : Nat) :
    Only [.chans, .msix, .cqs, .sites, .health, .stm, .trc] d (Dev.threadFault d c site t bit code pc) := by
  unfold Dev.threadFault
  repeat' first
    | with_reducible exact Only.refl _ _
    | with_reducible assumption
    | (with_reducible apply Only.step (stopThread_only _ _ _))
    | (with_reducible apply Only.step (programFault_only _ _ _ _ _ _ _ _))
    | (with_reducible apply Only.foldl)
    | intro _
    | split
    | (with_reducible refine Only.snd (by assumption) ?_)
    | (with_reducible refine Only.fst (by assumption) ?_)
    | decide

/-- The machine after an instruction's own effect. -/
def CcrRes.after (r : CcrRes) (d : Dev) : Dev :=
  match r with
  | .retire e _ _ _ _ => e
  | _ => d


theorem settle_only {m : List Part} (k : CcrCx) (r : CcrRes)
    (hs : [Part.chans, .msix, .cqs, .stks, .sites, .health, .stm, .trc].all m.contains = true) (h : Only m k.d (r.after k.d)) :
    Only m k.d (k.settle r) := by
  have hp : [Part.chans, .msix, .cqs, .sites, .health, .stm, .trc].all m.contains = true := by
    simp at hs ⊢; tauto
  have h1 : [Part.sites].all m.contains = true := by simp at hs ⊢; tauto
  cases r with
  | block => exact Only.refl _ _
  | retire d rd v npc fs =>
    simp only [CcrCx.settle]
    exact Only.step (CcrCx_retired_only k d _) h1 h
  | halt =>
    simp only [CcrCx.settle]
    exact Only.step (CcrCx_retired_only k k.d _) h1 (Only.refl _ _)
  | fault b c => exact Only.step (threadFault_only _ _ _ _ _ _ _) hp (Only.refl _ _)
  | poison a => exact Only.step (ccrPoison_only _ _ _ _ _) hs (Only.refl _ _)

theorem ccrCheckFault_only (d : Dev) (c site : Nat) (bits : BitVec 9) :
    Only [.plans, .sites, .health] d (Dev.ccrCheckFault d c site bits) := by
  unfold Dev.ccrCheckFault
  repeat' first
    | with_reducible exact Only.refl _ _
    | with_reducible assumption
    | (with_reducible apply Only.step (siteFault_only _ _ _ _ _ _))
    | (with_reducible apply Only.step (modCcr_only _ _ _))
    | (with_reducible apply Only.foldl)
    | intro _
    | split
    | (with_reducible refine Only.snd (by assumption) ?_)
    | (with_reducible refine Only.fst (by assumption) ?_)
    | decide

/-- An instruction of a control core changes no more than its own effect, a fault of its program and a check fault may. -/
theorem ccrStep_only {op : Nat} {sem : CcrCx → CcrRes} (h : ∀ k, Only [.chans, .msix, .plans, .cqs, .stks, .dscs, .sites, .health, .stm,
    .trc] k.d ((sem k).after k.d)) (c : Fin 72) (t : Fin 8)
    (chk : CcrCheck) (d : Dev) : Only [.chans, .msix, .plans, .cqs, .stks, .dscs, .sites, .health, .stm,
        .trc] d (ccrStep op sem c t chk d) := by
  have hk : ∀ k : CcrCx, Only [.chans, .msix, .plans, .cqs, .stks, .dscs, .sites, .health, .stm, .trc] k.d (k.settle (sem k)) :=
      fun k => settle_only k _ rfl (h k)
  unfold ccrStep
  split
  · exact Only.refl _ _
  · exact Only.step (threadFault_only _ _ _ _ _ _ _) rfl (Only.refl _ _)
  · split
    · exact Only.step (threadFault_only _ _ _ _ _ _ _) rfl (Only.refl _ _)
    · split
      · exact Only.refl _ _
      · cases chk with
        | regUe => exact Only.step (ccrCheckFault_only _ _ _ _) rfl (Only.refl _ _)
        | residue => exact Only.step (ccrCheckFault_only _ _ _ _) rfl (Only.refl _ _)
        | regCe =>
          refine Only.step (d := d) (e := d.modCcr _ _) (hk { d := d.modCcr _ _, x := _, t := _, th := _, base := _, w := _ }) ?_ ?_
          · decide
          · exact Only.step (modCcr_only _ _ _) (by decide) (Only.refl _ _)
        | none => exact hk { d := d, x := _, t := _, th := _, base := _, w := _ }

theorem after_ite {c : Prop} [Decidable c] (a b : CcrRes) (d : Dev) :
    (if c then a else b).after d = if c then a.after d else b.after d := by
  split <;> rfl

theorem alu_only (c : Fin 72) (t : Fin 8) (chk : CcrCheck) (d : Dev) :
    Only [.chans, .msix, .plans, .cqs, .stks, .dscs, .sites, .health, .stm, .trc] d (alu c t chk d) := by
  refine ccrStep_only (fun k => ?_) c t chk d
  exact Only.refl _ _

theorem addi_only (c : Fin 72) (t : Fin 8) (chk : CcrCheck) (d : Dev) :
    Only [.chans, .msix, .plans, .cqs, .stks, .dscs, .sites, .health, .stm, .trc] d (addi c t chk d) := by
  refine ccrStep_only (fun k => ?_) c t chk d
  exact Only.refl _ _

theorem andi_only (c : Fin 72) (t : Fin 8) (chk : CcrCheck) (d : Dev) :
    Only [.chans, .msix, .plans, .cqs, .stks, .dscs, .sites, .health, .stm, .trc] d (andi c t chk d) := by
  refine ccrStep_only (fun k => ?_) c t chk d
  exact Only.refl _ _

theorem ori_only (c : Fin 72) (t : Fin 8) (chk : CcrCheck) (d : Dev) :
    Only [.chans, .msix, .plans, .cqs, .stks, .dscs, .sites, .health, .stm, .trc] d (ori c t chk d) := by
  refine ccrStep_only (fun k => ?_) c t chk d
  exact Only.refl _ _

theorem xori_only (c : Fin 72) (t : Fin 8) (chk : CcrCheck) (d : Dev) :
    Only [.chans, .msix, .plans, .cqs, .stks, .dscs, .sites, .health, .stm, .trc] d (xori c t chk d) := by
  refine ccrStep_only (fun k => ?_) c t chk d
  exact Only.refl _ _

theorem slti_only (c : Fin 72) (t : Fin 8) (chk : CcrCheck) (d : Dev) :
    Only [.chans, .msix, .plans, .cqs, .stks, .dscs, .sites, .health, .stm, .trc] d (slti c t chk d) := by
  refine ccrStep_only (fun k => ?_) c t chk d
  exact Only.refl _ _

theorem shifti_only (c : Fin 72) (t : Fin 8) (chk : CcrCheck) (d : Dev) :
    Only [.chans, .msix, .plans, .cqs, .stks, .dscs, .sites, .health, .stm, .trc] d (shifti c t chk d) := by
  refine ccrStep_only (fun k => ?_) c t chk d
  exact Only.refl _ _

theorem insh_only (c : Fin 72) (t : Fin 8) (chk : CcrCheck) (d : Dev) :
    Only [.chans, .msix, .plans, .cqs, .stks, .dscs, .sites, .health, .stm, .trc] d (insh c t chk d) := by
  refine ccrStep_only (fun k => ?_) c t chk d
  exact Only.refl _ _

theorem ld_only (c : Fin 72) (t : Fin 8) (chk : CcrCheck) (d : Dev) :
    Only [.chans, .msix, .plans, .cqs, .stks, .dscs, .sites, .health, .stm, .trc] d (ld c t chk d) := by
  refine ccrStep_only (fun k => ?_) c t chk d
  unfold CcrCx.load
  dsimp only
  repeat' first
    | exact Only.refl _ _
    | exact Only.step (readLines_only _ _ _ _) (by decide) (Only.refl _ _)
    | split

theorem lw_only (c : Fin 72) (t : Fin 8) (chk : CcrCheck) (d : Dev) :
    Only [.chans, .msix, .plans, .cqs, .stks, .dscs, .sites, .health, .stm, .trc] d (lw c t chk d) := by
  refine ccrStep_only (fun k => ?_) c t chk d
  unfold CcrCx.load
  dsimp only
  repeat' first
    | exact Only.refl _ _
    | exact Only.step (readLines_only _ _ _ _) (by decide) (Only.refl _ _)
    | split

theorem lwu_only (c : Fin 72) (t : Fin 8) (chk : CcrCheck) (d : Dev) :
    Only [.chans, .msix, .plans, .cqs, .stks, .dscs, .sites, .health, .stm, .trc] d (lwu c t chk d) := by
  refine ccrStep_only (fun k => ?_) c t chk d
  unfold CcrCx.load
  dsimp only
  repeat' first
    | exact Only.refl _ _
    | exact Only.step (readLines_only _ _ _ _) (by decide) (Only.refl _ _)
    | split

theorem lh_only (c : Fin 72) (t : Fin 8) (chk : CcrCheck) (d : Dev) :
    Only [.chans, .msix, .plans, .cqs, .stks, .dscs, .sites, .health, .stm, .trc] d (lh c t chk d) := by
  refine ccrStep_only (fun k => ?_) c t chk d
  unfold CcrCx.load
  dsimp only
  repeat' first
    | exact Only.refl _ _
    | exact Only.step (readLines_only _ _ _ _) (by decide) (Only.refl _ _)
    | split

theorem lhu_only (c : Fin 72) (t : Fin 8) (chk : CcrCheck) (d : Dev) :
    Only [.chans, .msix, .plans, .cqs, .stks, .dscs, .sites, .health, .stm, .trc] d (lhu c t chk d) := by
  refine ccrStep_only (fun k => ?_) c t chk d
  unfold CcrCx.load
  dsimp only
  repeat' first
    | exact Only.refl _ _
    | exact Only.step (readLines_only _ _ _ _) (by decide) (Only.refl _ _)
    | split

theorem lb_only (c : Fin 72) (t : Fin 8) (chk : CcrCheck) (d : Dev) :
    Only [.chans, .msix, .plans, .cqs, .stks, .dscs, .sites, .health, .stm, .trc] d (lb c t chk d) := by
  refine ccrStep_only (fun k => ?_) c t chk d
  unfold CcrCx.load
  dsimp only
  repeat' first
    | exact Only.refl _ _
    | exact Only.step (readLines_only _ _ _ _) (by decide) (Only.refl _ _)
    | split

theorem lbu_only (c : Fin 72) (t : Fin 8) (chk : CcrCheck) (d : Dev) :
    Only [.chans, .msix, .plans, .cqs, .stks, .dscs, .sites, .health, .stm, .trc] d (lbu c t chk d) := by
  refine ccrStep_only (fun k => ?_) c t chk d
  unfold CcrCx.load
  dsimp only
  repeat' first
    | exact Only.refl _ _
    | exact Only.step (readLines_only _ _ _ _) (by decide) (Only.refl _ _)
    | split

theorem sd_only (c : Fin 72) (t : Fin 8) (chk : CcrCheck) (d : Dev) :
    Only [.chans, .msix, .plans, .cqs, .stks, .dscs, .sites, .health, .stm, .trc] d (sd c t chk d) := by
  refine ccrStep_only (fun k => ?_) c t chk d
  unfold CcrCx.store CcrCx.plain
  dsimp only
  repeat' first
    | (with_reducible exact Only.refl _ _)
    | (simp only [CcrRes.after]; exact Only.step (modCcr_only _ _ _) (by decide) (Only.refl _ _))
    | split
    | exact Only.refl _ _

theorem sw_only (c : Fin 72) (t : Fin 8) (chk : CcrCheck) (d : Dev) :
    Only [.chans, .msix, .plans, .cqs, .stks, .dscs, .sites, .health, .stm, .trc] d (sw c t chk d) := by
  refine ccrStep_only (fun k => ?_) c t chk d
  unfold CcrCx.store CcrCx.plain
  dsimp only
  repeat' first
    | (with_reducible exact Only.refl _ _)
    | (simp only [CcrRes.after]; exact Only.step (modCcr_only _ _ _) (by decide) (Only.refl _ _))
    | split
    | exact Only.refl _ _

theorem sh_only (c : Fin 72) (t : Fin 8) (chk : CcrCheck) (d : Dev) :
    Only [.chans, .msix, .plans, .cqs, .stks, .dscs, .sites, .health, .stm, .trc] d (sh c t chk d) := by
  refine ccrStep_only (fun k => ?_) c t chk d
  unfold CcrCx.store CcrCx.plain
  dsimp only
  repeat' first
    | (with_reducible exact Only.refl _ _)
    | (simp only [CcrRes.after]; exact Only.step (modCcr_only _ _ _) (by decide) (Only.refl _ _))
    | split
    | exact Only.refl _ _

theorem sb_only (c : Fin 72) (t : Fin 8) (chk : CcrCheck) (d : Dev) :
    Only [.chans, .msix, .plans, .cqs, .stks, .dscs, .sites, .health, .stm, .trc] d (sb c t chk d) := by
  refine ccrStep_only (fun k => ?_) c t chk d
  unfold CcrCx.store CcrCx.plain
  dsimp only
  repeat' first
    | (with_reducible exact Only.refl _ _)
    | (simp only [CcrRes.after]; exact Only.step (modCcr_only _ _ _) (by decide) (Only.refl _ _))
    | split
    | exact Only.refl _ _

theorem storeBufferDrain_only (c : Fin 72) (d : Dev) :
    Only [.chans, .msix, .cqs, .stks, .dscs, .sites, .health, .stm, .trc, .free] d (storeBufferDrain c d) := by
  unfold storeBufferDrain
  repeat' first
    | with_reducible exact Only.refl _ _
    | with_reducible assumption
    | (with_reducible apply Only.step (threadFault_only _ _ _ _ _ _ _))
    | (with_reducible apply Only.step (ccrPoison_only _ _ _ _ _))
    | (with_reducible apply Only.step (modCcr_only _ _ _))
    | (with_reducible apply Only.step (waitWay_only _ _))
    | (with_reducible apply Only.step (writeLines_only _ _ _ _))
    | (with_reducible apply Only.step (modCq_only _ _ _))
    | (with_reducible apply Only.foldl)
    | intro _
    | split
    | (with_reducible refine Only.snd (by assumption) ?_)
    | (with_reducible refine Only.fst (by assumption) ?_)
    | decide
    | (dsimp only; done)
    | dsimp only

theorem beq_only (c : Fin 72) (t : Fin 8) (chk : CcrCheck) (d : Dev) :
    Only [.chans, .msix, .plans, .cqs, .stks, .dscs, .sites, .health, .stm, .trc] d (beq c t chk d) := by
  refine ccrStep_only (fun k => ?_) c t chk d
  exact Only.refl _ _

theorem bne_only (c : Fin 72) (t : Fin 8) (chk : CcrCheck) (d : Dev) :
    Only [.chans, .msix, .plans, .cqs, .stks, .dscs, .sites, .health, .stm, .trc] d (bne c t chk d) := by
  refine ccrStep_only (fun k => ?_) c t chk d
  exact Only.refl _ _

theorem blt_only (c : Fin 72) (t : Fin 8) (chk : CcrCheck) (d : Dev) :
    Only [.chans, .msix, .plans, .cqs, .stks, .dscs, .sites, .health, .stm, .trc] d (blt c t chk d) := by
  refine ccrStep_only (fun k => ?_) c t chk d
  exact Only.refl _ _

theorem bge_only (c : Fin 72) (t : Fin 8) (chk : CcrCheck) (d : Dev) :
    Only [.chans, .msix, .plans, .cqs, .stks, .dscs, .sites, .health, .stm, .trc] d (bge c t chk d) := by
  refine ccrStep_only (fun k => ?_) c t chk d
  exact Only.refl _ _

theorem bltu_only (c : Fin 72) (t : Fin 8) (chk : CcrCheck) (d : Dev) :
    Only [.chans, .msix, .plans, .cqs, .stks, .dscs, .sites, .health, .stm, .trc] d (bltu c t chk d) := by
  refine ccrStep_only (fun k => ?_) c t chk d
  exact Only.refl _ _

theorem bgeu_only (c : Fin 72) (t : Fin 8) (chk : CcrCheck) (d : Dev) :
    Only [.chans, .msix, .plans, .cqs, .stks, .dscs, .sites, .health, .stm, .trc] d (bgeu c t chk d) := by
  refine ccrStep_only (fun k => ?_) c t chk d
  exact Only.refl _ _

theorem jal_only (c : Fin 72) (t : Fin 8) (chk : CcrCheck) (d : Dev) :
    Only [.chans, .msix, .plans, .cqs, .stks, .dscs, .sites, .health, .stm, .trc] d (jal c t chk d) := by
  refine ccrStep_only (fun k => ?_) c t chk d
  exact Only.refl _ _

theorem jr_only (c : Fin 72) (t : Fin 8) (chk : CcrCheck) (d : Dev) :
    Only [.chans, .msix, .plans, .cqs, .stks, .dscs, .sites, .health, .stm, .trc] d (jr c t chk d) := by
  refine ccrStep_only (fun k => ?_) c t chk d
  exact Only.refl _ _

theorem pusha_only (c : Fin 72) (t : Fin 8) (chk : CcrCheck) (d : Dev) :
    Only [.chans, .msix, .plans, .cqs, .stks, .dscs, .sites, .health, .stm, .trc] d (pusha c t chk d) := by
  refine ccrStep_only (fun k => ?_) c t chk d
  unfold CcrCx.pusha CcrCx.plain
  dsimp only
  repeat' first
    | (simp only [CcrRes.after]; exact Only.step (modCcr_only _ _ _) (by decide)
          (Only.step (readLines_only _ _ _ _) (by decide) (Only.refl _ _)))
    | split
    | exact Only.refl _ _

theorem setf_only (c : Fin 72) (t : Fin 8) (chk : CcrCheck) (d : Dev) :
    Only [.chans, .msix, .plans, .cqs, .stks, .dscs, .sites, .health, .stm, .trc] d (setf c t chk d) := by
  refine ccrStep_only (fun k => ?_) c t chk d
  unfold CcrCx.setFlag
  split
  · exact Only.refl _ _
  · exact Only.step (restartDeadlock_only _ _) rfl (Only.step (setFlag_only _ _ _) rfl (Only.refl _ _))

theorem clrf_only (c : Fin 72) (t : Fin 8) (chk : CcrCheck) (d : Dev) :
    Only [.chans, .msix, .plans, .cqs, .stks, .dscs, .sites, .health, .stm, .trc] d (clrf c t chk d) := by
  refine ccrStep_only (fun k => ?_) c t chk d
  exact Only.step (clearFlag_only _ _ _) rfl (Only.refl _ _)

theorem waitf_only (c : Fin 72) (t : Fin 8) (chk : CcrCheck) (d : Dev) :
    Only [.chans, .msix, .plans, .cqs, .stks, .dscs, .sites, .health, .stm, .trc] d (waitf c t chk d) := by
  refine ccrStep_only (fun k => ?_) c t chk d
  split
  · exact Only.refl _ _
  · exact Only.step (clearFlag_only _ _ _) rfl (Only.refl _ _)

theorem sendf_only (c : Fin 72) (t : Fin 8) (chk : CcrCheck) (d : Dev) :
    Only [.chans, .msix, .plans, .cqs, .stks, .dscs, .sites, .health, .stm, .trc] d (sendf c t chk d) := by
  refine ccrStep_only (fun k => ?_) c t chk d
  dsimp only
  split
  · exact Only.refl _ _
  · split
    · unfold CcrCx.setFlag
      split
      · exact Only.refl _ _
      · exact Only.step (restartDeadlock_only _ _) rfl (Only.step (setFlag_only _ _ _) rfl (Only.refl _ _))
    · split
      · exact Only.refl _ _
      · exact Only.step (modCq_only _ _ _) rfl (Only.refl _ _)

theorem getc_only (c : Fin 72) (t : Fin 8) (chk : CcrCheck) (d : Dev) :
    Only [.chans, .msix, .plans, .cqs, .stks, .dscs, .sites, .health, .stm, .trc] d (getc c t chk d) := by
  refine ccrStep_only (fun k => ?_) c t chk d
  exact Only.refl _ _

theorem sync_only (c : Fin 72) (t : Fin 8) (chk : CcrCheck) (d : Dev) :
    Only [.chans, .msix, .plans, .cqs, .stks, .dscs, .sites, .health, .stm, .trc] d (sync c t chk d) := by
  refine ccrStep_only (fun k => ?_) c t chk d
  split <;> exact Only.refl _ _

theorem psync_only (c : Fin 72) (t : Fin 8) (chk : CcrCheck) (d : Dev) :
    Only [.chans, .msix, .plans, .cqs, .stks, .dscs, .sites, .health, .stm, .trc] d (psync c t chk d) := by
  refine ccrStep_only (fun k => ?_) c t chk d
  split
  · exact Only.refl _ _
  · exact Only.step (modThread_only _ _ _ _) rfl (Only.refl _ _)

theorem halt_only (c : Fin 72) (t : Fin 8) (chk : CcrCheck) (d : Dev) :
    Only [.chans, .msix, .plans, .cqs, .stks, .dscs, .sites, .health, .stm, .trc] d (halt c t chk d) := by
  refine ccrStep_only (fun k => ?_) c t chk d
  split <;> exact Only.refl _ _

theorem ccrNop_only (c : Fin 72) (t : Fin 8) (chk : CcrCheck) (d : Dev) :
    Only [.chans, .msix, .plans, .cqs, .stks, .dscs, .sites, .health, .stm, .trc] d (ccrNop c t chk d) := by
  refine ccrStep_only (fun k => ?_) c t chk d
  exact Only.refl _ _

theorem ccrDeadlock_only (c : Fin 72) (d : Dev) : Only [.chans, .msix, .cqs, .sites, .health, .stm, .trc] d (ccrDeadlock c d) := by
  unfold ccrDeadlock
  repeat' first
    | with_reducible exact Only.refl _ _
    | with_reducible assumption
    | (with_reducible apply Only.step (programFault_only _ _ _ _ _ _ _ _))
    | (with_reducible apply Only.foldl)
    | intro _
    | split
    | (with_reducible refine Only.snd (by assumption) ?_)
    | (with_reducible refine Only.fst (by assumption) ?_)
    | decide

/-! ### Stream -/

theorem settlePfc_only (d : Dev) (q : Nat) : Only [.stm] d (Dev.settlePfc d q) := by
  have hset : ∀ (b x : Dev) v0, Only [.stm] b x → Only [.stm] b { x with stm := v0 } := by
    refine fun b x v0 h => ⟨fun p hp => ?_⟩
    cases p <;> first | exact h.same _ hp | cases hp
  unfold Dev.settlePfc
  repeat' first
    | fail_if_no_progress (with_reducible apply hset)
    | with_reducible exact Only.refl _ _
    | with_reducible assumption
    | (with_reducible apply Only.step (modStmPort_only _ _ _))
    | (with_reducible apply Only.foldl)
    | intro _
    | split
    | (with_reducible refine Only.snd (by assumption) ?_)
    | (with_reducible refine Only.fst (by assumption) ?_)
    | decide
    | (dsimp only; done)
    | dsimp only

theorem dropFrame_only (d : Dev) (q : Nat) : Only [.stm] d (Dev.dropFrame d q) := by
  unfold Dev.dropFrame
  repeat' first
    | with_reducible exact Only.refl _ _
    | with_reducible assumption
    | (with_reducible apply Only.step (modStmPort_only _ _ _))
    | (with_reducible apply Only.foldl)
    | intro _
    | split
    | (with_reducible refine Only.snd (by assumption) ?_)
    | (with_reducible refine Only.fst (by assumption) ?_)
    | decide

theorem takePfc_only (d : Dev) (q : Nat) (body : List Byte) : Only [.stm] d (Dev.takePfc d q body) := by
  unfold Dev.takePfc
  repeat' first
    | with_reducible exact Only.refl _ _
    | with_reducible assumption
    | (with_reducible apply Only.step (modStmPort_only _ _ _))
    | (with_reducible apply Only.foldl)
    | intro _
    | split
    | (with_reducible refine Only.snd (by assumption) ?_)
    | (with_reducible refine Only.fst (by assumption) ?_)
    | decide

theorem divertRec_only (d : Dev) (q : Nat) (header : List Byte) (cause : Nat) : Only [.stm] d (Dev.divertRec d q header cause) := by
  have hset : ∀ (b x : Dev) v0, Only [.stm] b x → Only [.stm] b { x with stm := v0 } := by
    refine fun b x v0 h => ⟨fun p hp => ?_⟩
    cases p <;> first | exact h.same _ hp | cases hp
  unfold Dev.divertRec
  repeat' first
    | fail_if_no_progress (with_reducible apply hset)
    | with_reducible exact Only.refl _ _
    | with_reducible assumption
    | (with_reducible apply Only.foldl)
    | intro _
    | split

theorem popDivert_only (d : Dev) : Only [.stm] d (Dev.popDivert d) := by
  have hset : ∀ (b x : Dev) v0, Only [.stm] b x → Only [.stm] b { x with stm := v0 } := by
    refine fun b x v0 h => ⟨fun p hp => ?_⟩
    cases p <;> first | exact h.same _ hp | cases hp
  unfold Dev.popDivert
  repeat' first
    | fail_if_no_progress (with_reducible apply hset)
    | with_reducible exact Only.refl _ _

theorem setSlot_only (d : Dev) (h : BitVec 16) (i : Nat) (s : SlotState) : Only [.plans] d (Dev.setSlot d h i s) := by
  unfold Dev.setSlot
  repeat' first
    | with_reducible exact Only.refl _ _
    | with_reducible assumption
    | (with_reducible apply Only.step (modPlan_only _ _ _))
    | (with_reducible apply Only.foldl)
    | intro _
    | split
    | (with_reducible refine Only.snd (by assumption) ?_)
    | (with_reducible refine Only.fst (by assumption) ?_)
    | decide

theorem releaseClaim_only (d : Dev) (q : Nat) (r : OpenRec) : Only [.plans] d (Dev.releaseClaim d q r) := by
  unfold Dev.releaseClaim
  repeat' first
    | with_reducible exact Only.refl _ _
    | with_reducible assumption
    | (with_reducible apply Only.step (setSlot_only _ _ _ _))
    | (with_reducible apply Only.foldl)
    | intro _
    | split
    | (with_reducible refine Only.snd (by assumption) ?_)
    | (with_reducible refine Only.fst (by assumption) ?_)
    | decide

theorem modOpened_only (d : Dev) (q : Nat) (f : List OpenRec → List OpenRec) : Only [.stm] d (Dev.modOpened d q f) := by
  unfold Dev.modOpened
  repeat' first
    | with_reducible exact Only.refl _ _
    | with_reducible assumption
    | (with_reducible apply Only.step (modStmPort_only _ _ _))
    | (with_reducible apply Only.foldl)
    | intro _
    | split
    | (with_reducible refine Only.snd (by assumption) ?_)
    | (with_reducible refine Only.fst (by assumption) ?_)
    | decide

theorem killRec_only (d : Dev) (q sid seq : Nat) (last : Bool) : Only [.stm] d (Dev.killRec d q sid seq last) := by
  unfold Dev.killRec
  repeat' first
    | with_reducible exact Only.refl _ _
    | with_reducible assumption
    | (with_reducible apply Only.step (modOpened_only _ _ _))
    | (with_reducible apply Only.step (settlePfc_only _ _))
    | (with_reducible apply Only.step (modStmPort_only _ _ _))
    | (with_reducible apply Only.foldl)
    | intro _
    | split
    | (with_reducible refine Only.snd (by assumption) ?_)
    | (with_reducible refine Only.fst (by assumption) ?_)
    | decide

theorem yieldClaim_only (d : Dev) (q sid seq : Nat) : Only [.stm] d (Dev.yieldClaim d q sid seq) := by
  unfold Dev.yieldClaim
  repeat' first
    | with_reducible exact Only.refl _ _
    | with_reducible assumption
    | (with_reducible apply Only.step (killRec_only _ _ _ _ _))
    | (with_reducible apply Only.step (divertRec_only _ _ _ _))
    | (with_reducible apply Only.step (modStmPort_only _ _ _))
    | (with_reducible apply Only.foldl)
    | intro _
    | split
    | (with_reducible refine Only.snd (by assumption) ?_)
    | (with_reducible refine Only.fst (by assumption) ?_)
    | decide

theorem claimSlot_only (d : Dev) (q : Nat) (h : List Byte) : Only [.chans, .msix, .plans, .health, .stm, .trc] d (d.claimSlot q h).2 := by
  have dv : ∀ (e : Dev) (c : Nat), Only [.chans, .msix, .plans, .health, .stm, .trc] d e → Only [.chans, .msix, .plans, .health, .stm,
      .trc] d (e.divertRec q h c) := fun e c g => Only.step (divertRec_only _ _ _ _) rfl g
  have hset : ∀ (e : Dev) v,
      Only [.chans, .msix, .plans, .health, .stm, .trc] d e →
      Only [.chans, .msix, .plans, .health, .stm, .trc] d { e with stm := v } := by
    refine fun e v g => ⟨fun p hp => ?_⟩
    cases p <;> first | exact g.same _ hp | cases hp
  unfold Dev.claimSlot
  split
  · exact dv _ _ (Only.refl _ _)
  · next pl i _ =>
    extract_lets e take
    have tk : ∀ x : Dev, Only [.chans, .msix, .plans, .health, .stm, .trc] d x → Only [.chans, .msix, .plans, .health, .stm,
        .trc] d (take x).2 := by
      intro x hx
      dsimp only [take]
      split
      · refine dv _ _ (Only.step (writeRecord_only _ _) rfl (Only.step (modPlan_only _ _ _) rfl ?_))
        exact Only.step (setSlot_only _ _ _ _) rfl hx
      · split
        · exact hset _ _ (Only.step (setSlot_only _ _ _ _) rfl hx)
        · exact hx
    clear_value take
    split
    · split
      · exact tk _ (Only.step (yieldClaim_only _ _ _ _) rfl (Only.refl _ _))
      · exact dv _ _ (Only.refl _ _)
    · exact dv _ _ (Only.refl _ _)
    · exact dv _ _ (Only.refl _ _)
    · exact tk _ (Only.refl _ _)
    · exact tk _ (Only.refl _ _)

theorem fragFail_only (d : Dev) (q sid seq : Nat) (last : Bool) : Only [.plans, .stm] d (Dev.fragFail d q sid seq last) := by
  unfold Dev.fragFail
  repeat' first
    | with_reducible exact Only.refl _ _
    | with_reducible assumption
    | (with_reducible apply Only.step (killRec_only _ _ _ _ _))
    | (with_reducible apply Only.step (releaseClaim_only _ _ _))
    | (with_reducible apply Only.step (divertRec_only _ _ _ _))
    | (with_reducible apply Only.foldl)
    | intro _
    | split
    | (with_reducible refine Only.snd (by assumption) ?_)
    | (with_reducible refine Only.fst (by assumption) ?_)
    | decide

theorem takeFragment_only (d : Dev) (q : Nat) (r : OpenRec) (off : Nat) (data : List Byte) (last : Bool) :
    Only [.plans, .stm] d (Dev.takeFragment d q r off data last) := by
  unfold Dev.takeFragment
  repeat' first
    | with_reducible exact Only.refl _ _
    | with_reducible assumption
    | (with_reducible apply Only.step (killRec_only _ _ _ _ _))
    | (with_reducible apply Only.step (modOpened_only _ _ _))
    | (with_reducible apply Only.step (releaseClaim_only _ _ _))
    | (with_reducible apply Only.step (divertRec_only _ _ _ _))
    | (with_reducible apply Only.step (modStmPort_only _ _ _))
    | (with_reducible apply Only.foldl)
    | intro _
    | split
    | (with_reducible refine Only.snd (by assumption) ?_)
    | (with_reducible refine Only.fst (by assumption) ?_)
    | decide
    | (dsimp only; done)
    | dsimp only

theorem fragment_only (d : Dev) (q : Nat) (body : List Byte) :
    Only [.chans, .msix, .plans, .health, .stm, .trc] d (Dev.fragment d q body) := by
  unfold Dev.fragment
  repeat' first
    | with_reducible exact Only.refl _ _
    | with_reducible assumption
    | (with_reducible apply Only.step (claimSlot_only _ _ _))
    | (with_reducible apply Only.step (takeFragment_only _ _ _ _ _ _))
    | (with_reducible apply Only.step (fragFail_only _ _ _ _ _))
    | (with_reducible apply Only.step (killRec_only _ _ _ _ _))
    | (with_reducible apply Only.step (modOpened_only _ _ _))
    | (with_reducible apply Only.step (divertRec_only _ _ _ _))
    | (with_reducible apply Only.foldl)
    | intro _
    | split
    | (with_reducible refine Only.snd (by assumption) ?_)
    | (with_reducible refine Only.fst (by assumption) ?_)
    | decide
    | (dsimp only; done)
    | dsimp only

theorem streamFrameReceive_only (port : Fin 4) (frame : List Byte) (d : Dev) :
    Only [.chans, .msix, .plans, .health, .stm, .trc] d (streamFrameReceive port frame d) := by
  unfold streamFrameReceive
  repeat' first
    | with_reducible exact Only.refl _ _
    | with_reducible assumption
    | (with_reducible apply Only.step (fragment_only _ _ _))
    | (with_reducible apply Only.step (takePfc_only _ _ _))
    | (with_reducible apply Only.step (dropFrame_only _ _))
    | (with_reducible apply Only.step (settlePfc_only _ _))
    | (with_reducible apply Only.step (modStmPort_only _ _ _))
    | (with_reducible apply Only.foldl)
    | intro _
    | split
    | (with_reducible refine Only.snd (by assumption) ?_)
    | (with_reducible refine Only.fst (by assumption) ?_)
    | decide
    | (dsimp only; done)
    | dsimp only

theorem takeBuf_q_only {d e : Dev} {q kind : Nat} {b : BufEnt} (h : d.takeBuf? q kind = some (b, e)) : Only [.stm] d e := by
  unfold Dev.takeBuf? at h
  split at h
  · split at h
    · cases h
      refine Only.step (settlePfc_only _ _) rfl ?_
      exact Only.step (modStmPort_only _ _ _) rfl (Only.refl _ _)
    · cases h
  · cases h

theorem slotRecord_only (port : Fin 4) (d : Dev) :
    Only [.chans, .msix, .plans, .mem, .stks, .dscs, .health, .stm, .trc] d (slotRecord port d) := by
  unfold slotRecord
  repeat' first
    | with_reducible exact Only.refl _ _
    | with_reducible assumption
    | (with_reducible refine Only.step (takeBuf_q_only (by assumption)) ?_ ?_)
    | (with_reducible apply Only.step (setSlot_only _ _ _ _))
    | (with_reducible apply Only.step (divertRec_only _ _ _ _))
    | (with_reducible apply Only.step (deliver_only _ _ _ _ _ _))
    | (with_reducible apply Only.foldl)
    | intro _
    | split
    | (with_reducible refine Only.snd (by assumption) ?_)
    | (with_reducible refine Only.fst (by assumption) ?_)
    | decide
    | (dsimp only; done)
    | dsimp only

theorem loadRecord_only (port : Fin 4) (d : Dev) : Only [.chans, .msix, .mem, .stks, .dscs, .health, .stm, .trc] d (loadRecord port d) := by
  unfold loadRecord
  repeat' first
    | with_reducible exact Only.refl _ _
    | with_reducible assumption
    | (with_reducible refine Only.step (takeBuf_q_only (by assumption)) ?_ ?_)
    | (with_reducible apply Only.step (divertRec_only _ _ _ _))
    | (with_reducible apply Only.step (deliver_only _ _ _ _ _ _))
    | (with_reducible apply Only.step (modStmPort_only _ _ _))
    | (with_reducible apply Only.foldl)
    | intro _
    | split
    | (with_reducible refine Only.snd (by assumption) ?_)
    | (with_reducible refine Only.fst (by assumption) ?_)
    | decide
    | (dsimp only; done)
    | dsimp only

theorem readReq_only (port : Fin 4) (d : Dev) : Only [.stks, .stm] d (readReq port d) := by
  unfold readReq
  repeat' first
    | with_reducible exact Only.refl _ _
    | with_reducible assumption
    | (with_reducible refine Only.step (takeBuf_q_only (by assumption)) ?_ ?_)
    | (with_reducible apply Only.step (divertRec_only _ _ _ _))
    | (with_reducible apply Only.step (pushOut_only _ _))
    | (with_reducible apply Only.step (countPoison_only _ _))
    | (with_reducible apply Only.foldl)
    | intro _
    | split
    | (with_reducible refine Only.snd (by assumption) ?_)
    | (with_reducible refine Only.fst (by assumption) ?_)
    | decide
    | (dsimp only; done)
    | dsimp only

theorem slotInputDeadline_only (h : BitVec 16) (i : Fin 65536) (d : Dev) :
    Only [.chans, .msix, .plans, .mem, .stks, .dscs, .health, .stm, .trc] d (slotInputDeadline h i d) := by
  unfold slotInputDeadline
  repeat' first
    | with_reducible exact Only.refl _ _
    | with_reducible assumption
    | (with_reducible apply Only.step (setSlot_only _ _ _ _))
    | (with_reducible apply Only.step (deliver_only _ _ _ _ _ _))
    | (with_reducible apply Only.step (writeRecord_only _ _))
    | (with_reducible apply Only.foldl)
    | intro _
    | split
    | (with_reducible refine Only.snd (by assumption) ?_)
    | (with_reducible refine Only.fst (by assumption) ?_)
    | decide
    | (dsimp only; done)
    | dsimp only

theorem recordSend_only (port : Fin 4) (d : Dev) : Only [.stm] d (recordSend port d) := by
  have hset : ∀ (b x : Dev) v0, Only [.stm] b x → Only [.stm] b { x with stm := v0 } := by
    refine fun b x v0 h => ⟨fun p hp => ?_⟩
    cases p <;> first | exact h.same _ hp | cases hp
  unfold recordSend
  repeat' first
    | fail_if_no_progress (with_reducible apply hset)
    | with_reducible exact Only.refl _ _
    | with_reducible assumption
    | (with_reducible apply Only.step (modStmPort_only _ _ _))
    | (with_reducible apply Only.foldl)
    | intro _
    | split
    | (with_reducible refine Only.snd (by assumption) ?_)
    | (with_reducible refine Only.fst (by assumption) ?_)
    | decide
    | (dsimp only; done)
    | dsimp only

theorem portIdle_only (d : Dev) (q : Nat) : Only [.stm, .trc, .pwr] d (Dev.portIdle d q) := by
  unfold Dev.portIdle
  repeat' first
    | with_reducible exact Only.refl _ _
    | with_reducible assumption
    | (with_reducible apply Only.step (powerDown_only _ _ _))
    | (with_reducible apply Only.step (modStmPort_only _ _ _))
    | (with_reducible apply Only.foldl)
    | intro _
    | split
    | (with_reducible refine Only.snd (by assumption) ?_)
    | (with_reducible refine Only.fst (by assumption) ?_)
    | decide

theorem portTrain_only (d : Dev) (q : Nat) : Only [.stm, .pwr] d (Dev.portTrain d q) := by
  unfold Dev.portTrain
  repeat' first
    | with_reducible exact Only.refl _ _
    | with_reducible assumption
    | (with_reducible apply Only.step (powerUp_only _ _ _))
    | (with_reducible apply Only.step (modStmPort_only _ _ _))
    | (with_reducible apply Only.foldl)
    | intro _
    | split
    | (with_reducible refine Only.snd (by assumption) ?_)
    | (with_reducible refine Only.fst (by assumption) ?_)
    | decide

theorem setEthertype_only (d : Dev) (v : BitVec 16) : Only [.stm, .trc, .pwr] d (Dev.setEthertype d v) := by
  have hset : ∀ (b x : Dev) v0 v1 v2,
      Only [.stm, .trc, .pwr] b x →
      Only [.stm, .trc, .pwr] b { x with stm := v0, trc := v1, pwr := v2 } := by
    refine fun b x v0 v1 v2 h => ⟨fun p hp => ?_⟩
    cases p <;> first | exact h.same _ hp | cases hp
  unfold Dev.setEthertype
  repeat' first
    | fail_if_no_progress (with_reducible apply hset)
    | with_reducible exact Only.refl _ _
    | with_reducible assumption
    | (with_reducible apply Only.step (portTrain_only _ _))
    | (with_reducible apply Only.step (portIdle_only _ _))
    | (with_reducible apply Only.foldl)
    | intro _
    | split
    | (with_reducible refine Only.snd (by assumption) ?_)
    | (with_reducible refine Only.fst (by assumption) ?_)
    | decide
    | (dsimp only; done)
    | dsimp only

theorem setPortEn_only (d : Dev) (q : Nat) (en : Bool) : Only [.stm, .trc, .pwr] d (Dev.setPortEn d q en) := by
  unfold Dev.setPortEn
  repeat' first
    | with_reducible exact Only.refl _ _
    | with_reducible assumption
    | (with_reducible apply Only.step (portTrain_only _ _))
    | (with_reducible apply Only.step (portIdle_only _ _))
    | (with_reducible apply Only.step (modStmPort_only _ _ _))
    | (with_reducible apply Only.foldl)
    | intro _
    | split
    | (with_reducible refine Only.snd (by assumption) ?_)
    | (with_reducible refine Only.fst (by assumption) ?_)
    | decide
    | (dsimp only; done)
    | dsimp only

theorem streamPortUp_only (port : Fin 4) (d : Dev) : Only [.stm, .pwr] d (streamPortUp port d) := by
  unfold streamPortUp
  repeat' first
    | with_reducible exact Only.refl _ _
    | with_reducible assumption
    | (with_reducible apply Only.step (setDom_only _ _ _))
    | (with_reducible apply Only.step (modStmPort_only _ _ _))
    | (with_reducible apply Only.foldl)
    | intro _
    | split
    | (with_reducible refine Only.snd (by assumption) ?_)
    | (with_reducible refine Only.fst (by assumption) ?_)
    | decide
    | (dsimp only; done)
    | dsimp only

theorem streamPortDown_only (port : Fin 4) (d : Dev) : Only [.stm] d (streamPortDown port d) := by
  unfold streamPortDown
  repeat' first
    | with_reducible exact Only.refl _ _
    | with_reducible assumption
    | (with_reducible apply Only.step (modStmPort_only _ _ _))
    | (with_reducible apply Only.foldl)
    | intro _
    | split
    | (with_reducible refine Only.snd (by assumption) ?_)
    | (with_reducible refine Only.fst (by assumption) ?_)
    | decide

/-! ### Trace -/

theorem settleTrace_only (d : Dev) : Only [.stm, .trc, .pwr] d (Dev.settleTrace d) := by
  have hset : ∀ (b x : Dev) v0 v1 v2,
      Only [.stm, .trc, .pwr] b x →
      Only [.stm, .trc, .pwr] b { x with stm := v0, trc := v1, pwr := v2 } := by
    refine fun b x v0 v1 v2 h => ⟨fun p hp => ?_⟩
    cases p <;> first | exact h.same _ hp | cases hp
  unfold Dev.settleTrace
  repeat' first
    | fail_if_no_progress (with_reducible apply hset)
    | with_reducible exact Only.refl _ _
    | with_reducible assumption
    | (with_reducible apply Only.step (powerDown_only _ _ _))
    | (with_reducible apply Only.foldl)
    | intro _
    | split
    | (with_reducible refine Only.snd (by assumption) ?_)
    | (with_reducible refine Only.fst (by assumption) ?_)
    | decide

theorem traceFlush_only (d : Dev) : Only [.stm, .trc, .pwr] d (traceFlush d) := by
  unfold traceFlush
  repeat' first
    | with_reducible exact Only.refl _ _
    | with_reducible assumption
    | (with_reducible apply Only.step (closeWhere_only _ _ _))
    | (with_reducible apply Only.step (settleTrace_only _))
    | (with_reducible apply Only.foldl)
    | intro _
    | split
    | (with_reducible refine Only.snd (by assumption) ?_)
    | (with_reducible refine Only.fst (by assumption) ?_)
    | decide

theorem traceLostRecord_only (d : Dev) : Only [.stm, .trc, .pwr] d (traceLostRecord d) := by
  unfold traceLostRecord
  repeat' first
    | with_reducible exact Only.refl _ _
    | with_reducible assumption
    | (with_reducible apply Only.step (settleTrace_only _))
    | (with_reducible apply Only.step (stageLost_only _))
    | (with_reducible apply Only.foldl)
    | intro _
    | split
    | (with_reducible refine Only.snd (by assumption) ?_)
    | (with_reducible refine Only.fst (by assumption) ?_)
    | decide

theorem writeTrcCtrl_only (d : Dev) (v : BitVec 64) : Only [.stm, .trc, .pwr] d (Dev.writeTrcCtrl d v) := by
  have hset : ∀ (b x : Dev) v0 v1 v2,
      Only [.stm, .trc, .pwr] b x →
      Only [.stm, .trc, .pwr] b { x with stm := v0, trc := v1, pwr := v2 } := by
    refine fun b x v0 v1 v2 h => ⟨fun p hp => ?_⟩
    cases p <;> first | exact h.same _ hp | cases hp
  unfold Dev.writeTrcCtrl
  repeat' first
    | fail_if_no_progress (with_reducible apply hset)
    | with_reducible exact Only.refl _ _
    | with_reducible assumption
    | (with_reducible apply Only.step (closeWhere_only _ _ _))
    | (with_reducible apply Only.step (settleTrace_only _))
    | (with_reducible apply Only.step (powerUp_only _ _ _))
    | (with_reducible apply Only.foldl)
    | intro _
    | split
    | (with_reducible refine Only.snd (by assumption) ?_)
    | (with_reducible refine Only.fst (by assumption) ?_)
    | decide
    | (dsimp only; done)
    | dsimp only

/-! ### Health -/

theorem modHealth_only (d : Dev) (f : Health → Health) : Only [.health] d (Dev.modHealth d f) := by
  have hset : ∀ (b x : Dev) v0, Only [.health] b x → Only [.health] b { x with health := v0 } := by
    refine fun b x v0 h => ⟨fun p hp => ?_⟩
    cases p <;> first | exact h.same _ hp | cases hp
  unfold Dev.modHealth
  repeat' first
    | fail_if_no_progress (with_reducible apply hset)
    | with_reducible exact Only.refl _ _

theorem fenceSite_only (d : Dev) (n source : Nat) (fault : Option Bool) (tag : BitVec 32) (host : Option HostFence) :
    Only [.chans, .msix, .sites, .fenceFall, .health, .stm, .trc, .free] d (Dev.fenceSite d n source fault tag host) := by
  have hset : ∀ (b x : Dev) v0 v1 v2 v3 v4 v5 v6 v7,
      Only [.chans, .msix, .sites, .fenceFall, .health, .stm, .trc, .free] b x →
      Only [.chans, .msix, .sites, .fenceFall, .health, .stm, .trc, .free] b { x with
          chans := v0, msix := v1, sites := v2, fenceFall := v3, health := v4, stm := v5, trc := v6, free := v7 } := by
    refine fun b x v0 v1 v2 v3 v4 v5 v6 v7 h => ⟨fun p hp => ?_⟩
    cases p <;> first | exact h.same _ hp | cases hp
  unfold Dev.fenceSite
  repeat' first
    | fail_if_no_progress (with_reducible apply hset)
    | with_reducible exact Only.refl _ _
    | with_reducible assumption
    | (with_reducible apply Only.step (modHealth_only _ _))
    | (with_reducible apply Only.step (enterCrater_only _ _ _))
    | (with_reducible apply Only.step (writeRecord_only _ _))
    | (with_reducible apply Only.step (setSiteState_only _ _ _))
    | (with_reducible apply Only.step (modSite_only _ _ _))
    | (with_reducible apply Only.foldl)
    | intro _
    | split
    | (with_reducible refine Only.snd (by assumption) ?_)
    | (with_reducible refine Only.fst (by assumption) ?_)
    | decide

theorem configSite_only (d : Dev) (p : Plan) (core site : Nat) : Only [.sites] d (Dev.configSite d p core site) := by
  unfold Dev.configSite
  repeat' first
    | with_reducible exact Only.refl _ _
    | with_reducible assumption
    | (with_reducible apply Only.step (modSite_only _ _ _))
    | (with_reducible apply Only.foldl)
    | intro _
    | split
    | (with_reducible refine Only.snd (by assumption) ?_)
    | (with_reducible refine Only.fst (by assumption) ?_)
    | decide

theorem copyText_only (d : Dev) (p : Plan) (core site : Nat) : Only [.mem] d (Dev.copyText d p core site) := by
  have hset : ∀ (b x : Dev) v0, Only [.mem] b x → Only [.mem] b { x with mem := v0 } := by
    refine fun b x v0 h => ⟨fun p hp => ?_⟩
    cases p <;> first | exact h.same _ hp | cases hp
  unfold Dev.copyText
  repeat' first
    | fail_if_no_progress (with_reducible apply hset)
    | with_reducible exact Only.refl _ _

theorem moveScratch_only (d : Dev) (old new : Nat) : Only [.cqs, .mem, .dscs] d (Dev.moveScratch d old new) := by
  have hset : ∀ (b x : Dev) v0 v1 v2,
      Only [.cqs, .mem, .dscs] b x →
      Only [.cqs, .mem, .dscs] b { x with cqs := v0, mem := v1, dscs := v2 } := by
    refine fun b x v0 v1 v2 h => ⟨fun p hp => ?_⟩
    cases p <;> first | exact h.same _ hp | cases hp
  unfold Dev.moveScratch
  repeat' first
    | fail_if_no_progress (with_reducible apply hset)
    | with_reducible exact Only.refl _ _
    | with_reducible assumption
    | (with_reducible apply Only.step (wipeRange_only _ _ _))
    | (with_reducible apply Only.foldl)
    | intro _
    | split
    | (with_reducible refine Only.snd (by assumption) ?_)
    | (with_reducible refine Only.fst (by assumption) ?_)
    | decide

theorem restoreSets_only (d : Dev) (old new : Nat) (active : Bool) (s0 s1 : Option (LoadSrc × BitVec 32)) :
    Only [.sites] d (Dev.restoreSets d old new active s0 s1) := by
  unfold Dev.restoreSets
  repeat' first
    | with_reducible exact Only.refl _ _
    | with_reducible assumption
    | (with_reducible apply Only.step (modSite_only _ _ _))
    | (with_reducible apply Only.foldl)
    | intro _
    | split
    | (with_reducible refine Only.snd (by assumption) ?_)
    | (with_reducible refine Only.fst (by assumption) ?_)
    | decide

theorem restartChunk_only (d : Dev) (p : Plan) (c old new : Nat) (rc : RunChunk) :
    Only [.cqs, .mem, .sites, .lnk, .col, .solves, .stm, .trc] d (Dev.restartChunk d p c old new rc) := by
  unfold Dev.restartChunk
  repeat' first
    | with_reducible exact Only.refl _ _
    | with_reducible assumption
    | (with_reducible apply Only.step (restoreSets_only _ _ _ _ _ _))
    | (with_reducible apply Only.step (dropHeld_only _ _))
    | (with_reducible apply Only.step (readySite_only _ _ _ _ _))
    | (with_reducible apply Only.step (modCcr_only _ _ _))
    | (with_reducible apply Only.step (modCq_only _ _ _))
    | (with_reducible apply Only.foldl)
    | intro _
    | split
    | (with_reducible refine Only.snd (by assumption) ?_)
    | (with_reducible refine Only.fst (by assumption) ?_)
    | decide

theorem dropRecovery_only (d : Dev) (site : Nat) : Only [.health] d (Dev.dropRecovery d site) := by
  unfold Dev.dropRecovery
  repeat' first
    | with_reducible exact Only.refl _ _
    | with_reducible assumption
    | (with_reducible apply Only.step (modHealth_only _ _))
    | (with_reducible apply Only.foldl)
    | intro _
    | split
    | (with_reducible refine Only.snd (by assumption) ?_)
    | (with_reducible refine Only.fst (by assumption) ?_)
    | decide

theorem modRecovery_only (d : Dev) (site : Nat) (f : Recovery → Recovery) : Only [.health] d (Dev.modRecovery d site f) := by
  unfold Dev.modRecovery
  repeat' first
    | with_reducible exact Only.refl _ _
    | with_reducible assumption
    | (with_reducible apply Only.step (modHealth_only _ _))
    | (with_reducible apply Only.foldl)
    | intro _
    | split
    | (with_reducible refine Only.snd (by assumption) ?_)
    | (with_reducible refine Only.fst (by assumption) ?_)
    | decide

theorem answerFence_only (d : Dev) (r : Recovery) (result : Nat) : Only [.reqs, .dones] d (Dev.answerFence d r result) := by
  unfold Dev.answerFence
  repeat' first
    | with_reducible exact Only.refl _ _
    | with_reducible assumption
    | (with_reducible apply Only.step (finishReq_only _ _ _ _ _))
    | (with_reducible apply Only.foldl)
    | intro _
    | split
    | (with_reducible refine Only.snd (by assumption) ?_)
    | (with_reducible refine Only.fst (by assumption) ?_)
    | decide

theorem freeSpare_only (d : Dev) (s : Nat) : Only [.cqs, .mem, .dscs, .sites, .health, .stm, .trc, .pwr, .free] d (Dev.freeSpare d s) := by
  unfold Dev.freeSpare
  repeat' first
    | with_reducible exact Only.refl _ _
    | with_reducible assumption
    | (with_reducible apply Only.step (powerHeld_only _ _))
    | (with_reducible apply Only.step (coolHeld_only _ _))
    | (with_reducible apply Only.step (setSiteState_only _ _ _))
    | (with_reducible apply Only.foldl)
    | intro _
    | split
    | (with_reducible refine Only.snd (by assumption) ?_)
    | (with_reducible refine Only.fst (by assumption) ?_)
    | decide
    | (dsimp only; done)
    | dsimp only

theorem noSwap_only (d : Dev) (n : Nat) : Only [.chans, .msix, .health, .stm, .trc] d (Dev.noSwap d n) := by
  unfold Dev.noSwap
  repeat' first
    | with_reducible exact Only.refl _ _
    | with_reducible assumption
    | (with_reducible apply Only.step (modHealth_only _ _))
    | (with_reducible apply Only.step (setHltEvent_only _ _))
    | (with_reducible apply Only.step (writeRecord_only _ _))
    | (with_reducible apply Only.foldl)
    | intro _
    | split
    | (with_reducible refine Only.snd (by assumption) ?_)
    | (with_reducible refine Only.fst (by assumption) ?_)
    | decide
    | (dsimp only; done)
    | dsimp only

theorem noSpare_only (d : Dev) (r : Recovery) (c : Nat) :
    Only [.chans, .reqs, .dones, .msix, .plans, .siteOf, .mapTs, .cqs, .mem, .dscs, .sites, .health, .stm, .trc,
        .pwr] d (Dev.noSpare d r c) := by
  have hset : ∀ (b x : Dev) v0 v1 v2 v3 v4 v5 v6 v7 v8 v9 v10 v11 v12 v13 v14,
      Only [.chans, .reqs, .dones, .msix, .plans, .siteOf, .mapTs, .cqs, .mem, .dscs, .sites, .health, .stm, .trc, .pwr] b x →
      Only [.chans, .reqs, .dones, .msix, .plans, .siteOf, .mapTs, .cqs, .mem, .dscs, .sites, .health, .stm, .trc, .pwr] b { x with
          chans := v0, reqs := v1, dones := v2, msix := v3, plans := v4, siteOf := v5, mapTs := v6, cqs := v7, mem := v8, dscs := v9,
          sites := v10, health := v11, stm := v12, trc := v13, pwr := v14 } := by
    refine fun b x v0 v1 v2 v3 v4 v5 v6 v7 v8 v9 v10 v11 v12 v13 v14 h => ⟨fun p hp => ?_⟩
    cases p <;> first | exact h.same _ hp | cases hp
  unfold Dev.noSpare
  repeat' first
    | fail_if_no_progress (with_reducible apply hset)
    | with_reducible exact Only.refl _ _
    | with_reducible assumption
    | (with_reducible apply Only.step (noSwap_only _ _))
    | (with_reducible apply Only.step (answerFence_only _ _ _))
    | (with_reducible apply Only.step (dropRecovery_only _ _))
    | (with_reducible apply Only.step (siteReset_only _ _))
    | (with_reducible apply Only.step (powerDown_only _ _ _))
    | (with_reducible apply Only.step (setHltEvent_only _ _))
    | (with_reducible apply Only.step (writeRecord_only _ _))
    | (with_reducible apply Only.step (modPlan_only _ _ _))
    | (with_reducible apply Only.step (setSiteState_only _ _ _))
    | (with_reducible apply Only.foldl)
    | intro _
    | split
    | (with_reducible refine Only.snd (by assumption) ?_)
    | (with_reducible refine Only.fst (by assumption) ?_)
    | decide

theorem siteRecovery_only (site : Fin 80) (d : Dev) :
    Only [.chans, .reqs, .dones, .msix, .plans, .siteOf, .mapTs, .cqs, .mem, .dscs, .sites, .fenceFall, .lnk, .col, .solves, .health,
        .stm, .trc, .pwr, .free] d (siteRecovery site d) := by
  unfold siteRecovery
  repeat' first
    | with_reducible exact Only.refl _ _
    | with_reducible assumption
    | (with_reducible apply Only.step (noSpare_only _ _ _))
    | (with_reducible apply Only.step (freeSpare_only _ _))
    | (with_reducible apply Only.step (answerFence_only _ _ _))
    | (with_reducible apply Only.step (modRecovery_only _ _ _))
    | (with_reducible apply Only.step (dropRecovery_only _ _))
    | (with_reducible apply Only.step (fenceSite_only _ _ _ _ _ _))
    | (with_reducible apply Only.step (dropHeld_only _ _))
    | (with_reducible apply Only.step (siteReset_only _ _))
    | (with_reducible apply Only.step (powerDown_only _ _ _))
    | (with_reducible apply Only.step (powerUp_only _ _ _))
    | (with_reducible apply Only.step (setSiteState_only _ _ _))
    | (with_reducible apply Only.foldl)
    | intro _
    | split
    | (with_reducible refine Only.snd (by assumption) ?_)
    | (with_reducible refine Only.fst (by assumption) ?_)
    | decide
    | (dsimp only; done)
    | dsimp only

theorem spareInService_only (site : Fin 80) (ok : Bool) (d : Dev) :
    Only [.reqs, .dones, .siteOf, .mapTs, .cqs, .mem, .dscs, .sites, .health, .pwr] d (spareInService site ok d) := by
  have hset : ∀ (b x : Dev) v0 v1 v2 v3 v4 v5 v6 v7 v8 v9,
      Only [.reqs, .dones, .siteOf, .mapTs, .cqs, .mem, .dscs, .sites, .health, .pwr] b x →
      Only [.reqs, .dones, .siteOf, .mapTs, .cqs, .mem, .dscs, .sites, .health, .pwr] b { x with
          reqs := v0, dones := v1, siteOf := v2, mapTs := v3, cqs := v4, mem := v5, dscs := v6, sites := v7, health := v8, pwr := v9 } := by
    refine fun b x v0 v1 v2 v3 v4 v5 v6 v7 v8 v9 h => ⟨fun p hp => ?_⟩
    cases p <;> first | exact h.same _ hp | cases hp
  unfold spareInService
  repeat' first
    | fail_if_no_progress (with_reducible apply hset)
    | with_reducible exact Only.refl _ _
    | with_reducible assumption
    | (with_reducible apply Only.step (answerFence_only _ _ _))
    | (with_reducible apply Only.step (modRecovery_only _ _ _))
    | (with_reducible apply Only.step (siteReset_only _ _))
    | (with_reducible apply Only.step (setDom_only _ _ _))
    | (with_reducible apply Only.foldl)
    | intro _
    | split
    | (with_reducible refine Only.snd (by assumption) ?_)
    | (with_reducible refine Only.fst (by assumption) ?_)
    | decide
    | (dsimp only; done)
    | dsimp only

theorem beginTest_only (d : Dev) (n id : Nat) : Only [.cqs, .mem, .dscs, .sites, .health, .pwr] d (Dev.beginTest d n id) := by
  unfold Dev.beginTest
  repeat' first
    | with_reducible exact Only.refl _ _
    | with_reducible assumption
    | (with_reducible apply Only.step (modHealth_only _ _))
    | (with_reducible apply Only.step (siteReset_only _ _))
    | (with_reducible apply Only.step (powerUp_only _ _ _))
    | (with_reducible apply Only.step (setDom_only _ _ _))
    | (with_reducible apply Only.step (setSiteState_only _ _ _))
    | (with_reducible apply Only.foldl)
    | intro _
    | split
    | (with_reducible refine Only.snd (by assumption) ?_)
    | (with_reducible refine Only.fst (by assumption) ?_)
    | decide
    | (dsimp only; done)
    | dsimp only

theorem recomputeHere_only (d : Dev) (r : Recovery) (c n : Nat) :
    Only [.cqs, .mem, .sites, .lnk, .col, .solves, .health, .stm, .trc] d (Dev.recomputeHere d r c n) := by
  unfold Dev.recomputeHere
  repeat' first
    | with_reducible exact Only.refl _ _
    | with_reducible assumption
    | (with_reducible apply Only.step (restartChunk_only _ _ _ _ _ _))
    | (with_reducible apply Only.step (modHealth_only _ _))
    | (with_reducible apply Only.foldl)
    | intro _
    | split
    | (with_reducible refine Only.snd (by assumption) ?_)
    | (with_reducible refine Only.fst (by assumption) ?_)
    | decide

theorem stateLoadDone_only (site : Fin 80) (d : Dev) :
    Only [.chans, .msix, .plans, .cqs, .mem, .dscs, .sites, .lnk, .col, .solves, .health, .stm, .trc, .pwr,
        .free] d (stateLoadDone site d) := by
  unfold stateLoadDone
  repeat' first
    | with_reducible exact Only.refl _ _
    | with_reducible assumption
    | (with_reducible apply Only.step (recomputeHere_only _ _ _ _))
    | (with_reducible apply Only.step (beginTest_only _ _ _))
    | (with_reducible apply Only.step (freeSpare_only _ _))
    | (with_reducible apply Only.step (dropRecovery_only _ _))
    | (with_reducible apply Only.step (restartChunk_only _ _ _ _ _ _))
    | (with_reducible apply Only.step (restoreSets_only _ _ _ _ _ _))
    | (with_reducible apply Only.step (moveScratch_only _ _ _))
    | (with_reducible apply Only.step (copyText_only _ _ _ _))
    | (with_reducible apply Only.step (configSite_only _ _ _ _))
    | (with_reducible apply Only.step (modHealth_only _ _))
    | (with_reducible apply Only.step (recoveryRecord_only _ _ _ _))
    | (with_reducible apply Only.step (siteReset_only _ _))
    | (with_reducible apply Only.step (powerDown_only _ _ _))
    | (with_reducible apply Only.step (modCcr_only _ _ _))
    | (with_reducible apply Only.step (writeRecord_only _ _))
    | (with_reducible apply Only.step (modPlan_only _ _ _))
    | (with_reducible apply Only.step (setSiteState_only _ _ _))
    | (with_reducible apply Only.foldl)
    | intro _
    | split
    | (with_reducible refine Only.snd (by assumption) ?_)
    | (with_reducible refine Only.fst (by assumption) ?_)
    | decide
    | (dsimp only; done)
    | dsimp only

theorem inPlaceRecompute_only (c : Fin 72) (addr : Fin 34359738368) (d : Dev) :
    Only [.plans, .cqs, .dscs, .sites, .lnk, .col, .solves, .health, .stm, .trc] d (inPlaceRecompute c addr d) := by
  unfold inPlaceRecompute
  repeat' first
    | with_reducible exact Only.refl _ _
    | with_reducible assumption
    | (with_reducible apply Only.step (modHealth_only _ _))
    | (with_reducible apply Only.step (dropHeld_only _ _))
    | (with_reducible apply Only.step (siteFault_only _ _ _ _ _ _))
    | (with_reducible apply Only.step (countFault_only _ _))
    | (with_reducible apply Only.step (modDsc_only _ _ _))
    | (with_reducible apply Only.foldl)
    | intro _
    | split
    | (with_reducible refine Only.snd (by assumption) ?_)
    | (with_reducible refine Only.fst (by assumption) ?_)
    | decide
    | (dsimp only; done)
    | dsimp only

theorem progressStop_only (c : Fin 72) (unit : Fin 9) (d : Dev) : Only [.plans, .health] d (progressStop c unit d) := by
  unfold progressStop
  repeat' first
    | with_reducible exact Only.refl _ _
    | with_reducible assumption
    | (with_reducible apply Only.step (siteFault_only _ _ _ _ _ _))
    | (with_reducible apply Only.foldl)
    | intro _
    | split
    | (with_reducible refine Only.snd (by assumption) ?_)
    | (with_reducible refine Only.fst (by assumption) ?_)
    | decide

theorem watchdogOverrun_only (c : Fin 72) (d : Dev) : Only [.chans, .msix, .cqs, .health, .stm, .trc] d (watchdogOverrun c d) := by
  unfold watchdogOverrun
  repeat' first
    | with_reducible exact Only.refl _ _
    | with_reducible assumption
    | (with_reducible apply Only.step (writeRecord_only _ _))
    | (with_reducible apply Only.step (modCq_only _ _ _))
    | (with_reducible apply Only.foldl)
    | intro _
    | split
    | (with_reducible refine Only.snd (by assumption) ?_)
    | (with_reducible refine Only.fst (by assumption) ?_)
    | decide

theorem commandWatchdogExpiry_only (c : Fin 72) (d : Dev) :
    Only [.chans, .msix, .plans, .cqs, .health, .stm, .trc] d (commandWatchdogExpiry c d) := by
  unfold commandWatchdogExpiry
  repeat' first
    | with_reducible exact Only.refl _ _
    | with_reducible assumption
    | (with_reducible apply Only.step (siteFault_only _ _ _ _ _ _))
    | (with_reducible apply Only.step (haltQueue_only _ _))
    | (with_reducible apply Only.step (setHltEvent_only _ _))
    | (with_reducible apply Only.step (writeRecord_only _ _))
    | (with_reducible apply Only.step (modCq_only _ _ _))
    | (with_reducible apply Only.foldl)
    | intro _
    | split
    | (with_reducible refine Only.snd (by assumption) ?_)
    | (with_reducible refine Only.fst (by assumption) ?_)
    | decide

theorem spareWarm_only (site : Fin 80) (ok : Bool) (d : Dev) :
    Only [.chans, .msix, .cqs, .mem, .dscs, .sites, .fenceFall, .health, .stm, .trc, .pwr, .free] d (spareWarm site ok d) := by
  unfold spareWarm
  repeat' first
    | with_reducible exact Only.refl _ _
    | with_reducible assumption
    | (with_reducible apply Only.step (fenceSite_only _ _ _ _ _ _))
    | (with_reducible apply Only.step (siteReset_only _ _))
    | (with_reducible apply Only.step (powerDown_only _ _ _))
    | (with_reducible apply Only.step (powerUp_only _ _ _))
    | (with_reducible apply Only.step (setSiteState_only _ _ _))
    | (with_reducible apply Only.foldl)
    | intro _
    | split
    | (with_reducible refine Only.snd (by assumption) ?_)
    | (with_reducible refine Only.fst (by assumption) ?_)
    | decide
    | (dsimp only; done)
    | dsimp only

theorem craterTableSave_only (d : Dev) : Only [.health] d (craterTableSave d) := by
  unfold craterTableSave
  repeat' first
    | with_reducible exact Only.refl _ _
    | with_reducible assumption
    | (with_reducible apply Only.step (modHealth_only _ _))
    | (with_reducible apply Only.foldl)
    | intro _
    | split
    | (with_reducible refine Only.snd (by assumption) ?_)
    | (with_reducible refine Only.fst (by assumption) ?_)
    | decide

theorem fencedSiteTest_only (site : Fin 80) (d : Dev) : Only [.cqs, .mem, .dscs, .sites, .health, .pwr] d (fencedSiteTest site d) := by
  unfold fencedSiteTest
  repeat' first
    | with_reducible exact Only.refl _ _
    | with_reducible assumption
    | (with_reducible apply Only.step (beginTest_only _ _ _))
    | (with_reducible apply Only.foldl)
    | intro _
    | split
    | (with_reducible refine Only.snd (by assumption) ?_)
    | (with_reducible refine Only.fst (by assumption) ?_)
    | decide
    | (dsimp only; done)
    | dsimp only

theorem returnSite_only (d : Dev) (n : Nat) : Only [.cqs, .mem, .dscs, .sites, .health] d (Dev.returnSite d n) := by
  unfold Dev.returnSite
  repeat' first
    | with_reducible exact Only.refl _ _
    | with_reducible assumption
    | (with_reducible apply Only.step (siteReset_only _ _))
    | (with_reducible apply Only.step (leaveCrater_only _ _))
    | (with_reducible apply Only.step (setSiteState_only _ _ _))
    | (with_reducible apply Only.foldl)
    | intro _
    | split
    | (with_reducible refine Only.snd (by assumption) ?_)
    | (with_reducible refine Only.fst (by assumption) ?_)
    | decide

theorem restSite_only (d : Dev) (n : Nat) : Only [.stm, .trc, .pwr] d (Dev.restSite d n) := by
  unfold Dev.restSite
  repeat' first
    | with_reducible exact Only.refl _ _
    | with_reducible assumption
    | (with_reducible apply Only.step (powerDown_only _ _ _))
    | (with_reducible apply Only.step (setDom_only _ _ _))
    | (with_reducible apply Only.foldl)
    | intro _
    | split
    | (with_reducible refine Only.snd (by assumption) ?_)
    | (with_reducible refine Only.fst (by assumption) ?_)
    | decide

theorem answerTest_only (d : Dev) (n : Nat) (failed : Bool) (remapped : Nat) :
    Only [.reqs, .dones] d (Dev.answerTest d n failed remapped) := by
  unfold Dev.answerTest
  repeat' first
    | with_reducible exact Only.refl _ _
    | with_reducible assumption
    | (with_reducible apply Only.step (finishReq_only _ _ _ _ _))
    | (with_reducible apply Only.foldl)
    | intro _
    | split
    | (with_reducible refine Only.snd (by assumption) ?_)
    | (with_reducible refine Only.fst (by assumption) ?_)
    | decide

theorem warmAgain_only (d : Dev) (n : Nat) : Only [.health, .stm, .trc, .pwr] d (Dev.warmAgain d n) := by
  unfold Dev.warmAgain
  repeat' first
    | with_reducible exact Only.refl _ _
    | with_reducible assumption
    | (with_reducible apply Only.step (powerDown_only _ _ _))
    | (with_reducible apply Only.step (setSiteState_only _ _ _))
    | (with_reducible apply Only.foldl)
    | intro _
    | split
    | (with_reducible refine Only.snd (by assumption) ?_)
    | (with_reducible refine Only.fst (by assumption) ?_)
    | decide

theorem testPassed_only (d : Dev) (t : TestRun) (remapped : Bool) :
    Only [.chans, .msix, .cqs, .mem, .dscs, .sites, .health, .stm, .trc, .pwr] d (Dev.testPassed d t remapped) := by
  unfold Dev.testPassed
  repeat' first
    | with_reducible exact Only.refl _ _
    | with_reducible assumption
    | (with_reducible apply Only.step (warmAgain_only _ _))
    | (with_reducible apply Only.step (returnSite_only _ _))
    | (with_reducible apply Only.step (modHealth_only _ _))
    | (with_reducible apply Only.step (modCrater_only _ _ _))
    | (with_reducible apply Only.step (writeRecord_only _ _))
    | (with_reducible apply Only.step (setSiteState_only _ _ _))
    | (with_reducible apply Only.foldl)
    | intro _
    | split
    | (with_reducible refine Only.snd (by assumption) ?_)
    | (with_reducible refine Only.fst (by assumption) ?_)
    | decide
    | (dsimp only; done)
    | dsimp only

theorem testFailed_only (d : Dev) (t : TestRun) :
    Only [.chans, .msix, .sites, .fenceFall, .health, .stm, .trc, .free] d (Dev.testFailed d t) := by
  unfold Dev.testFailed
  repeat' first
    | with_reducible exact Only.refl _ _
    | with_reducible assumption
    | (with_reducible apply Only.step (fenceSite_only _ _ _ _ _ _))
    | (with_reducible apply Only.step (modHealth_only _ _))
    | (with_reducible apply Only.step (setHltEvent_only _ _))
    | (with_reducible apply Only.step (setSiteState_only _ _ _))
    | (with_reducible apply Only.foldl)
    | intro _
    | split
    | (with_reducible refine Only.snd (by assumption) ?_)
    | (with_reducible refine Only.fst (by assumption) ?_)
    | decide
    | (dsimp only; done)
    | dsimp only

theorem testDone_only (site : Fin 80) (result : TestResult) (d : Dev) :
    Only [.chans, .reqs, .dones, .msix, .cqs, .mem, .dscs, .sites, .fenceFall, .health, .stm, .trc, .pwr,
        .free] d (testDone site result d) := by
  unfold testDone
  repeat' first
    | with_reducible exact Only.refl _ _
    | with_reducible assumption
    | (with_reducible apply Only.step (testFailed_only _ _))
    | (with_reducible apply Only.step (testPassed_only _ _ _))
    | (with_reducible apply Only.step (answerTest_only _ _ _ _))
    | (with_reducible apply Only.step (restSite_only _ _))
    | (with_reducible apply Only.step (modHealth_only _ _))
    | (with_reducible apply Only.step (modSite_only _ _ _))
    | (with_reducible apply Only.foldl)
    | intro _
    | split
    | (with_reducible refine Only.snd (by assumption) ?_)
    | (with_reducible refine Only.fst (by assumption) ?_)
    | decide
    | (dsimp only; done)
    | dsimp only

theorem testDue_only (site : Fin 80) (d : Dev) : Only [.cqs, .mem, .dscs, .sites, .health, .pwr] d (testDue site d) := by
  unfold testDue
  repeat' first
    | with_reducible exact Only.refl _ _
    | with_reducible assumption
    | (with_reducible apply Only.step (beginTest_only _ _ _))
    | (with_reducible apply Only.step (modHealth_only _ _))
    | (with_reducible apply Only.foldl)
    | intro _
    | split
    | (with_reducible refine Only.snd (by assumption) ?_)
    | (with_reducible refine Only.fst (by assumption) ?_)
    | decide
    | (dsimp only; done)
    | dsimp only

theorem overdueSwap_only (c : Fin 72) (d : Dev) : Only [.chans, .msix, .plans, .health, .stm, .trc] d (overdueSwap c d) := by
  unfold overdueSwap
  repeat' first
    | with_reducible exact Only.refl _ _
    | with_reducible assumption
    | (with_reducible apply Only.step (noSwap_only _ _))
    | (with_reducible apply Only.step (modHealth_only _ _))
    | (with_reducible apply Only.step (modPlan_only _ _ _))
    | (with_reducible apply Only.step (setSiteState_only _ _ _))
    | (with_reducible apply Only.foldl)
    | intro _
    | split
    | (with_reducible refine Only.snd (by assumption) ?_)
    | (with_reducible refine Only.fst (by assumption) ?_)
    | decide
    | (dsimp only; done)
    | dsimp only

theorem modHeal_only (d : Dev) (f : List Heal → List Heal) : Only [.health] d (Dev.modHeal d f) := by
  unfold Dev.modHeal
  repeat' first
    | with_reducible exact Only.refl _ _
    | with_reducible assumption
    | (with_reducible apply Only.step (modHealth_only _ _))
    | (with_reducible apply Only.foldl)
    | intro _
    | split
    | (with_reducible refine Only.snd (by assumption) ?_)
    | (with_reducible refine Only.fst (by assumption) ?_)
    | decide

theorem healRequest_only (d : Dev) : Only [.chans, .msix, .plans, .cqs, .lnk, .health, .stm, .trc] d (healRequest d) := by
  unfold healRequest
  repeat' first
    | with_reducible exact Only.refl _ _
    | with_reducible assumption
    | (with_reducible apply Only.step (modHeal_only _ _))
    | (with_reducible apply Only.step (healUnavailable_only _ _))
    | (with_reducible apply Only.step (sendControl_only _ _ _ _))
    | (with_reducible apply Only.foldl)
    | intro _
    | split
    | (with_reducible refine Only.snd (by assumption) ?_)
    | (with_reducible refine Only.fst (by assumption) ?_)
    | decide

theorem healServe_only (d : Dev) : Only [.lnk] d (healServe d) := by
  unfold healServe
  repeat' first
    | with_reducible exact Only.refl _ _
    | with_reducible assumption
    | (with_reducible refine Only.step (takeInbox_only (by assumption)) ?_ ?_)
    | (with_reducible apply Only.step (sendControl_only _ _ _ _))
    | (with_reducible apply Only.foldl)
    | intro _
    | split
    | (with_reducible refine Only.snd (by assumption) ?_)
    | (with_reducible refine Only.fst (by assumption) ?_)
    | decide
    | (dsimp only; done)
    | dsimp only

theorem healData_only (d : Dev) : Only [.chans, .msix, .plans, .cqs, .mem, .lnk, .health, .stm, .trc] d (healData d) := by
  have hset : ∀ (b x : Dev) v0 v1 v2 v3 v4 v5 v6 v7 v8,
      Only [.chans, .msix, .plans, .cqs, .mem, .lnk, .health, .stm, .trc] b x →
      Only [.chans, .msix, .plans, .cqs, .mem, .lnk, .health, .stm, .trc] b { x with
          chans := v0, msix := v1, plans := v2, cqs := v3, mem := v4, lnk := v5, health := v6, stm := v7, trc := v8 } := by
    refine fun b x v0 v1 v2 v3 v4 v5 v6 v7 v8 h => ⟨fun p hp => ?_⟩
    cases p <;> first | exact h.same _ hp | cases hp
  unfold healData
  repeat' first
    | fail_if_no_progress (with_reducible apply hset)
    | with_reducible exact Only.refl _ _
    | with_reducible assumption
    | (with_reducible refine Only.step (takeInbox_only (by assumption)) ?_ ?_)
    | (with_reducible apply Only.step (modHeal_only _ _))
    | (with_reducible apply Only.step (healUnavailable_only _ _))
    | (with_reducible apply Only.step (setHltEvent_only _ _))
    | (with_reducible apply Only.step (writeRecord_only _ _))
    | (with_reducible apply Only.foldl)
    | intro _
    | split
    | (with_reducible refine Only.snd (by assumption) ?_)
    | (with_reducible refine Only.fst (by assumption) ?_)
    | decide
    | (dsimp only; done)
    | dsimp only

theorem healTimeout_only (d : Dev) : Only [.chans, .msix, .plans, .cqs, .health, .stm, .trc] d (healTimeout d) := by
  unfold healTimeout
  repeat' first
    | with_reducible exact Only.refl _ _
    | with_reducible assumption
    | (with_reducible apply Only.step (modHeal_only _ _))
    | (with_reducible apply Only.step (healUnavailable_only _ _))
    | (with_reducible apply Only.foldl)
    | intro _
    | split
    | (with_reducible refine Only.snd (by assumption) ?_)
    | (with_reducible refine Only.fst (by assumption) ?_)
    | decide

theorem haltFor_only (d : Dev) (hit : List Plan) (unit : BitVec 16) :
    Only [.chans, .msix, .plans, .cqs, .health, .stm, .trc] d (Dev.haltFor d hit unit) := by
  unfold Dev.haltFor
  repeat' first
    | with_reducible exact Only.refl _ _
    | with_reducible assumption
    | (with_reducible apply Only.step (haltPlan_only _ _))
    | (with_reducible apply Only.step (setHltEvent_only _ _))
    | (with_reducible apply Only.step (writeRecord_only _ _))
    | (with_reducible apply Only.step (modPlan_only _ _ _))
    | (with_reducible apply Only.foldl)
    | intro _
    | split
    | (with_reducible refine Only.snd (by assumption) ?_)
    | (with_reducible refine Only.fst (by assumption) ?_)
    | decide

theorem fenceUnit_only (d : Dev) (u : BitVec 16) (source code : Nat) :
    Only [.chans, .msix, .health, .stm, .trc, .free] d (Dev.fenceUnit d u source code) := by
  unfold Dev.fenceUnit
  repeat' first
    | with_reducible exact Only.refl _ _
    | with_reducible assumption
    | (with_reducible apply Only.step (enterCrater_only _ _ _))
    | (with_reducible apply Only.step (writeRecord_only _ _))
    | (with_reducible apply Only.foldl)
    | intro _
    | split
    | (with_reducible refine Only.snd (by assumption) ?_)
    | (with_reducible refine Only.fst (by assumption) ?_)
    | decide

theorem loseStack_only (d : Dev) (s : Nat) : Only [.chans, .msix, .stks, .health, .stm, .trc, .pwr, .free] d (Dev.loseStack d s) := by
  unfold Dev.loseStack
  repeat' first
    | with_reducible exact Only.refl _ _
    | with_reducible assumption
    | (with_reducible apply Only.step (fenceUnit_only _ _ _ _))
    | (with_reducible apply Only.step (powerDown_only _ _ _))
    | (with_reducible apply Only.step (modStk_only _ _ _))
    | (with_reducible apply Only.foldl)
    | intro _
    | split
    | (with_reducible refine Only.snd (by assumption) ?_)
    | (with_reducible refine Only.fst (by assumption) ?_)
    | decide

theorem dropSpare_only (d : Dev) (r : Recovery) :
    Only [.siteOf, .mapTs, .cqs, .mem, .dscs, .sites, .health, .stm, .trc, .pwr, .free] d (Dev.dropSpare d r) := by
  have hset : ∀ (b x : Dev) v0 v1 v2 v3 v4 v5 v6 v7 v8 v9 v10,
      Only [.siteOf, .mapTs, .cqs, .mem, .dscs, .sites, .health, .stm, .trc, .pwr, .free] b x →
      Only [.siteOf, .mapTs, .cqs, .mem, .dscs, .sites, .health, .stm, .trc, .pwr, .free] b { x with
          siteOf := v0, mapTs := v1, cqs := v2, mem := v3, dscs := v4, sites := v5, health := v6, stm := v7, trc := v8, pwr := v9,
          free := v10 } := by
    refine fun b x v0 v1 v2 v3 v4 v5 v6 v7 v8 v9 v10 h => ⟨fun p hp => ?_⟩
    cases p <;> first | exact h.same _ hp | cases hp
  unfold Dev.dropSpare
  repeat' first
    | fail_if_no_progress (with_reducible apply hset)
    | with_reducible exact Only.refl _ _
    | with_reducible assumption
    | (with_reducible apply Only.step (freeSpare_only _ _))
    | (with_reducible apply Only.foldl)
    | intro _
    | split
    | (with_reducible refine Only.snd (by assumption) ?_)
    | (with_reducible refine Only.fst (by assumption) ?_)
    | decide
    | (dsimp only; done)
    | dsimp only

theorem loseSite_only (d : Dev) (n : Nat) :
    Only [.chans, .reqs, .dones, .msix, .siteOf, .mapTs, .cqs, .mem, .dscs, .sites, .fenceFall, .health, .stm, .trc, .pwr,
        .free] d (Dev.loseSite d n) := by
  unfold Dev.loseSite
  repeat' first
    | with_reducible exact Only.refl _ _
    | with_reducible assumption
    | (with_reducible apply Only.step (dropSpare_only _ _))
    | (with_reducible apply Only.step (answerFence_only _ _ _))
    | (with_reducible apply Only.step (dropRecovery_only _ _))
    | (with_reducible apply Only.step (fenceSite_only _ _ _ _ _ _))
    | (with_reducible apply Only.step (modHealth_only _ _))
    | (with_reducible apply Only.step (powerDown_only _ _ _))
    | (with_reducible apply Only.step (setSiteState_only _ _ _))
    | (with_reducible apply Only.foldl)
    | intro _
    | split
    | (with_reducible refine Only.snd (by assumption) ?_)
    | (with_reducible refine Only.fst (by assumption) ?_)
    | decide
    | (dsimp only; done)
    | dsimp only

theorem stackLost_only (u : LostUnit) (d : Dev) :
    Only [.chans, .reqs, .dones, .msix, .plans, .siteOf, .mapTs, .cqs, .mem, .stks, .dscs, .sites, .fenceFall, .health, .stm, .trc, .pwr,
        .free] d (stackLost u d) := by
  unfold stackLost
  repeat' first
    | with_reducible exact Only.refl _ _
    | with_reducible assumption
    | (with_reducible apply Only.step (loseSite_only _ _))
    | (with_reducible apply Only.step (loseStack_only _ _))
    | (with_reducible apply Only.step (fenceUnit_only _ _ _ _))
    | (with_reducible apply Only.step (haltFor_only _ _ _))
    | (with_reducible apply Only.step (powerDown_only _ _ _))
    | (with_reducible apply Only.foldl)
    | intro _
    | split
    | (with_reducible refine Only.snd (by assumption) ?_)
    | (with_reducible refine Only.fst (by assumption) ?_)
    | decide
    | (dsimp only; done)
    | dsimp only

/-! ### Reset -/

theorem fenceByCrater_only (d : Dev) : Only [.lnk, .col, .slv] d (Dev.fenceByCrater d) := by
  have hset : ∀ (b x : Dev) v0 v1 v2,
      Only [.lnk, .col, .slv] b x →
      Only [.lnk, .col, .slv] b { x with lnk := v0, col := v1, slv := v2 } := by
    refine fun b x v0 v1 v2 h => ⟨fun p hp => ?_⟩
    cases p <;> first | exact h.same _ hp | cases hp
  unfold Dev.fenceByCrater
  repeat' first
    | fail_if_no_progress (with_reducible apply hset)
    | with_reducible exact Only.refl _ _

theorem driveBeat_only (d : Dev) : Only [.bt] d (Dev.driveBeat d) := by
  have hset : ∀ (b x : Dev) v0, Only [.bt] b x → Only [.bt] b { x with bt := v0 } := by
    refine fun b x v0 h => ⟨fun p hp => ?_⟩
    cases p <;> first | exact h.same _ hp | cases hp
  unfold Dev.driveBeat
  repeat' first
    | fail_if_no_progress (with_reducible apply hset)
    | with_reducible exact Only.refl _ _
    | with_reducible assumption
    | (with_reducible apply Only.foldl)
    | intro _
    | split

theorem takeStraps_only (d : Dev) (s : StrapSamples) : Only [.lnk, .pwr] d (Dev.takeStraps d s) := by
  have hset : ∀ (b x : Dev) v0 v1, Only [.lnk, .pwr] b x → Only [.lnk, .pwr] b { x with lnk := v0, pwr := v1 } := by
    refine fun b x v0 v1 h => ⟨fun p hp => ?_⟩
    cases p <;> first | exact h.same _ hp | cases hp
  unfold Dev.takeStraps
  repeat' first
    | fail_if_no_progress (with_reducible apply hset)
    | with_reducible exact Only.refl _ _

theorem powerBoot_only (d : Dev) : Only [.pwr] d (Dev.powerBoot d) := by
  unfold Dev.powerBoot
  repeat' first
    | with_reducible exact Only.refl _ _
    | with_reducible assumption
    | (with_reducible apply Only.step (powerUp_only _ _ _))
    | (with_reducible apply Only.foldl)
    | intro _
    | split
    | (with_reducible refine Only.snd (by assumption) ?_)
    | (with_reducible refine Only.fst (by assumption) ?_)
    | decide

theorem chanFlr_only (d : Dev) (c : Nat) : Only [.chans, .reqs, .dones] d (Dev.chanFlr d c) := by
  unfold Dev.chanFlr
  repeat' first
    | with_reducible exact Only.refl _ _
    | with_reducible assumption
    | (with_reducible apply Only.step (resetChan_only _ _))
    | (with_reducible apply Only.step (modChan_only _ _ _))
    | (with_reducible apply Only.foldl)
    | intro _
    | split
    | (with_reducible refine Only.snd (by assumption) ?_)
    | (with_reducible refine Only.fst (by assumption) ?_)
    | decide

theorem queueFlr_only (d : Dev) (func : Nat) : Only [.cqs] d (Dev.queueFlr d func) := by
  unfold Dev.queueFlr
  repeat' first
    | with_reducible exact Only.refl _ _
    | with_reducible assumption
    | (with_reducible apply Only.step (modCq_only _ _ _))
    | (with_reducible apply Only.foldl)
    | intro _
    | split
    | (with_reducible refine Only.snd (by assumption) ?_)
    | (with_reducible refine Only.fst (by assumption) ?_)
    | decide

theorem flr_only (d : Dev) (func : Nat) :
    Only [.chans, .reqs, .dones, .rings, .msix, .plans, .siteOf, .mapTs, .cqs, .mem, .stks, .dscs, .sites, .deliveries, .lnk, .col, .slv,
        .solves, .wipes, .sec, .health, .stm, .trc, .pwr, .msixTab, .free] d (Dev.flr d func) := by
  have hset : ∀ (b x : Dev) v0 v1 v2 v3 v4 v5 v6 v7 v8 v9 v10 v11 v12 v13 v14 v15 v16 v17 v18 v19 v20 v21 v22 v23 v24 v25,
      Only [.chans, .reqs, .dones, .rings, .msix, .plans, .siteOf, .mapTs, .cqs, .mem, .stks, .dscs, .sites, .deliveries, .lnk, .col,
          .slv, .solves, .wipes, .sec, .health, .stm, .trc, .pwr, .msixTab, .free] b x →
      Only [.chans, .reqs, .dones, .rings, .msix, .plans, .siteOf, .mapTs, .cqs, .mem, .stks, .dscs, .sites, .deliveries, .lnk, .col,
          .slv, .solves, .wipes, .sec, .health, .stm, .trc, .pwr, .msixTab, .free] b { x with
          chans := v0, reqs := v1, dones := v2, rings := v3, msix := v4, plans := v5, siteOf := v6, mapTs := v7, cqs := v8, mem := v9,
          stks := v10, dscs := v11, sites := v12, deliveries := v13, lnk := v14, col := v15, slv := v16, solves := v17, wipes := v18,
          sec := v19, health := v20, stm := v21, trc := v22, pwr := v23, msixTab := v24, free := v25 } := by
    refine fun b x v0 v1 v2 v3 v4 v5 v6 v7 v8 v9 v10 v11 v12 v13 v14 v15 v16 v17 v18 v19 v20 v21 v22 v23 v24 v25 h => ⟨fun p hp => ?_⟩
    cases p <;> first | exact h.same _ hp | cases hp
  unfold Dev.flr
  repeat' first
    | fail_if_no_progress (with_reducible apply hset)
    | with_reducible exact Only.refl _ _
    | with_reducible assumption
    | (with_reducible apply Only.step (queueFlr_only _ _))
    | (with_reducible apply Only.step (chanFlr_only _ _))
    | (with_reducible apply Only.step (beginRelease_only _ _))
    | (with_reducible apply Only.step (askRetire_only _ _))
    | (with_reducible apply Only.foldl)
    | intro _
    | split
    | (with_reducible refine Only.snd (by assumption) ?_)
    | (with_reducible refine Only.fst (by assumption) ?_)
    | decide

theorem functionLevelReset_only (func : Fin 5) (d : Dev) :
    Only [.chans, .reqs, .dones, .rings, .msix, .plans, .siteOf, .mapTs, .cqs, .mem, .stks, .dscs, .sites, .deliveries, .lnk, .col, .slv,
        .solves, .wipes, .sec, .health, .stm, .trc, .pwr, .msixTab, .free] d (functionLevelReset func d) := by
  unfold functionLevelReset
  repeat' first
    | with_reducible exact Only.refl _ _
    | with_reducible assumption
    | (with_reducible apply Only.step (flr_only _ _))
    | (with_reducible apply Only.foldl)
    | intro _
    | split
    | (with_reducible refine Only.snd (by assumption) ?_)
    | (with_reducible refine Only.fst (by assumption) ?_)
    | decide

theorem pcieReset_only (d : Dev) :
    Only [.chans, .reqs, .dones, .rings, .msix, .plans, .siteOf, .mapTs, .cqs, .mem, .stks, .dscs, .sites, .deliveries, .lnk, .col, .slv,
        .solves, .wipes, .sec, .health, .stm, .trc, .pwr, .msixTab, .free] d (pcieReset d) := by
  have hset : ∀ (b x : Dev) v0 v1 v2 v3 v4 v5 v6 v7 v8 v9 v10 v11 v12 v13 v14 v15 v16 v17 v18 v19 v20 v21 v22 v23 v24 v25,
      Only [.chans, .reqs, .dones, .rings, .msix, .plans, .siteOf, .mapTs, .cqs, .mem, .stks, .dscs, .sites, .deliveries, .lnk, .col,
          .slv, .solves, .wipes, .sec, .health, .stm, .trc, .pwr, .msixTab, .free] b x →
      Only [.chans, .reqs, .dones, .rings, .msix, .plans, .siteOf, .mapTs, .cqs, .mem, .stks, .dscs, .sites, .deliveries, .lnk, .col,
          .slv, .solves, .wipes, .sec, .health, .stm, .trc, .pwr, .msixTab, .free] b { x with
          chans := v0, reqs := v1, dones := v2, rings := v3, msix := v4, plans := v5, siteOf := v6, mapTs := v7, cqs := v8, mem := v9,
          stks := v10, dscs := v11, sites := v12, deliveries := v13, lnk := v14, col := v15, slv := v16, solves := v17, wipes := v18,
          sec := v19, health := v20, stm := v21, trc := v22, pwr := v23, msixTab := v24, free := v25 } := by
    refine fun b x v0 v1 v2 v3 v4 v5 v6 v7 v8 v9 v10 v11 v12 v13 v14 v15 v16 v17 v18 v19 v20 v21 v22 v23 v24 v25 h => ⟨fun p hp => ?_⟩
    cases p <;> first | exact h.same _ hp | cases hp
  unfold pcieReset
  repeat' first
    | fail_if_no_progress (with_reducible apply hset)
    | with_reducible exact Only.refl _ _
    | with_reducible assumption
    | (with_reducible apply Only.step (flr_only _ _))
    | (with_reducible apply Only.foldl)
    | intro _
    | split
    | (with_reducible refine Only.snd (by assumption) ?_)
    | (with_reducible refine Only.fst (by assumption) ?_)
    | decide
    | (dsimp only; done)
    | dsimp only

theorem pcieEndpointUp_only (d : Dev) : Only [.pwr] d (pcieEndpointUp d) := by
  have hset : ∀ (b x : Dev) v0, Only [.pwr] b x → Only [.pwr] b { x with pwr := v0 } := by
    refine fun b x v0 h => ⟨fun p hp => ?_⟩
    cases p <;> first | exact h.same _ hp | cases hp
  unfold pcieEndpointUp
  repeat' first
    | fail_if_no_progress (with_reducible apply hset)
    | with_reducible exact Only.refl _ _
    | with_reducible assumption
    | (with_reducible apply Only.foldl)
    | intro _
    | split

theorem vfEnableClear_only (d : Dev) :
    Only [.chans, .reqs, .dones, .rings, .plans, .siteOf, .mapTs, .cqs, .mem, .stks, .dscs, .sites, .deliveries, .lnk, .col, .slv,
        .solves, .wipes, .sec, .health, .stm, .trc, .pwr, .free] d (vfEnableClear d) := by
  have hset : ∀ (b x : Dev) v0 v1 v2 v3 v4 v5 v6 v7 v8 v9 v10 v11 v12 v13 v14 v15 v16 v17 v18 v19 v20 v21 v22 v23,
      Only [.chans, .reqs, .dones, .rings, .plans, .siteOf, .mapTs, .cqs, .mem, .stks, .dscs, .sites, .deliveries, .lnk, .col, .slv,
          .solves, .wipes, .sec, .health, .stm, .trc, .pwr, .free] b x →
      Only [.chans, .reqs, .dones, .rings, .plans, .siteOf, .mapTs, .cqs, .mem, .stks, .dscs, .sites, .deliveries, .lnk, .col, .slv,
          .solves, .wipes, .sec, .health, .stm, .trc, .pwr, .free] b { x with
          chans := v0, reqs := v1, dones := v2, rings := v3, plans := v4, siteOf := v5, mapTs := v6, cqs := v7, mem := v8, stks := v9,
          dscs := v10, sites := v11, deliveries := v12, lnk := v13, col := v14, slv := v15, solves := v16, wipes := v17, sec := v18,
          health := v19, stm := v20, trc := v21, pwr := v22, free := v23 } := by
    refine fun b x v0 v1 v2 v3 v4 v5 v6 v7 v8 v9 v10 v11 v12 v13 v14 v15 v16 v17 v18 v19 v20 v21 v22 v23 h => ⟨fun p hp => ?_⟩
    cases p <;> first | exact h.same _ hp | cases hp
  unfold vfEnableClear
  repeat' first
    | fail_if_no_progress (with_reducible apply hset)
    | with_reducible exact Only.refl _ _
    | with_reducible assumption
    | (with_reducible apply Only.step (beginRelease_only _ _))
    | (with_reducible apply Only.foldl)
    | intro _
    | split
    | (with_reducible refine Only.snd (by assumption) ?_)
    | (with_reducible refine Only.fst (by assumption) ?_)
    | decide

/-! ### Power -/

theorem setPwrEvent_only (d : Dev) (i : Nat) : Only [.pwr, .mgt] d (Dev.setPwrEvent d i) := by
  have hset : ∀ (b x : Dev) v0 v1, Only [.pwr, .mgt] b x → Only [.pwr, .mgt] b { x with pwr := v0, mgt := v1 } := by
    refine fun b x v0 v1 h => ⟨fun p hp => ?_⟩
    cases p <;> first | exact h.same _ hp | cases hp
  unfold Dev.setPwrEvent
  repeat' first
    | fail_if_no_progress (with_reducible apply hset)
    | with_reducible exact Only.refl _ _

theorem gateHalted_only (d : Dev) : Only [.pwr] d (Dev.gateHalted d) := by
  have hset : ∀ (b x : Dev) v0, Only [.pwr] b x → Only [.pwr] b { x with pwr := v0 } := by
    refine fun b x v0 h => ⟨fun p hp => ?_⟩
    cases p <;> first | exact h.same _ hp | cases hp
  unfold Dev.gateHalted
  repeat' first
    | fail_if_no_progress (with_reducible apply hset)
    | with_reducible exact Only.refl _ _
    | with_reducible assumption
    | (with_reducible apply Only.foldl)
    | intro _
    | split

theorem haltDevice_only (d : Dev) : Only [.sites, .pwr] d (Dev.haltDevice d) := by
  have hset : ∀ (b x : Dev) v0 v1, Only [.sites, .pwr] b x → Only [.sites, .pwr] b { x with sites := v0, pwr := v1 } := by
    refine fun b x v0 v1 h => ⟨fun p hp => ?_⟩
    cases p <;> first | exact h.same _ hp | cases hp
  unfold Dev.haltDevice
  repeat' first
    | fail_if_no_progress (with_reducible apply hset)
    | with_reducible exact Only.refl _ _
    | with_reducible assumption
    | (with_reducible apply Only.step (gateHalted_only _))
    | (with_reducible apply Only.foldl)
    | intro _
    | split
    | (with_reducible refine Only.snd (by assumption) ?_)
    | (with_reducible refine Only.fst (by assumption) ?_)
    | decide

theorem vinRise_only (d : Dev) : Only [.pwr] d (vinRise d) := by
  have hset : ∀ (b x : Dev) v0, Only [.pwr] b x → Only [.pwr] b { x with pwr := v0 } := by
    refine fun b x v0 h => ⟨fun p hp => ?_⟩
    cases p <;> first | exact h.same _ hp | cases hp
  unfold vinRise
  repeat' first
    | fail_if_no_progress (with_reducible apply hset)
    | with_reducible exact Only.refl _ _
    | with_reducible assumption
    | (with_reducible apply Only.foldl)
    | intro _
    | split

theorem vinOutOfRange_only (high : Bool) (d : Dev) : Only [.pwr, .mgt] d (vinOutOfRange high d) := by
  unfold vinOutOfRange
  repeat' first
    | with_reducible exact Only.refl _ _
    | with_reducible assumption
    | (with_reducible apply Only.step (setPwrEvent_only _ _))
    | (with_reducible apply Only.foldl)
    | intro _
    | split
    | (with_reducible refine Only.snd (by assumption) ?_)
    | (with_reducible refine Only.fst (by assumption) ?_)
    | decide

theorem domainReq_only (d : Dev) (k : Nat) (on : Bool) : Only [.stm, .trc, .pwr, .mgt] d (Dev.domainReq d k on) := by
  unfold Dev.domainReq
  repeat' first
    | with_reducible exact Only.refl _ _
    | with_reducible assumption
    | (with_reducible apply Only.step (setPwrEvent_only _ _))
    | (with_reducible apply Only.step (powerDown_only _ _ _))
    | (with_reducible apply Only.step (powerUp_only _ _ _))
    | (with_reducible apply Only.foldl)
    | intro _
    | split
    | (with_reducible refine Only.snd (by assumption) ?_)
    | (with_reducible refine Only.fst (by assumption) ?_)
    | decide

theorem fenceDead_only (d : Dev) (u : BitVec 16) :
    Only [.chans, .msix, .lnk, .col, .slv, .solves, .health, .stm, .trc, .free] d (Dev.fenceDead d u) := by
  have hset : ∀ (b x : Dev) v0 v1 v2 v3 v4 v5 v6 v7 v8 v9,
      Only [.chans, .msix, .lnk, .col, .slv, .solves, .health, .stm, .trc, .free] b x →
      Only [.chans, .msix, .lnk, .col, .slv, .solves, .health, .stm, .trc, .free] b { x with
          chans := v0, msix := v1, lnk := v2, col := v3, slv := v4, solves := v5, health := v6, stm := v7, trc := v8, free := v9 } := by
    refine fun b x v0 v1 v2 v3 v4 v5 v6 v7 v8 v9 h => ⟨fun p hp => ?_⟩
    cases p <;> first | exact h.same _ hp | cases hp
  unfold Dev.fenceDead
  repeat' first
    | fail_if_no_progress (with_reducible apply hset)
    | with_reducible exact Only.refl _ _
    | with_reducible assumption
    | (with_reducible apply Only.step (fenceUnit_only _ _ _ _))
    | (with_reducible apply Only.step (modHealth_only _ _))
    | (with_reducible apply Only.step (slvFenceQueue_only _ _))
    | (with_reducible apply Only.step (modPort_only _ _ _))
    | (with_reducible apply Only.step (writeRecord_only _ _))
    | (with_reducible apply Only.step (setSiteState_only _ _ _))
    | (with_reducible apply Only.step (modStmPort_only _ _ _))
    | (with_reducible apply Only.foldl)
    | intro _
    | split
    | (with_reducible refine Only.snd (by assumption) ?_)
    | (with_reducible refine Only.fst (by assumption) ?_)
    | decide

theorem selfTestFailed_only (d : Dev) (n : Nat) :
    Only [.chans, .msix, .sites, .fenceFall, .health, .stm, .trc, .pwr, .free] d (Dev.selfTestFailed d n) := by
  unfold Dev.selfTestFailed
  repeat' first
    | with_reducible exact Only.refl _ _
    | with_reducible assumption
    | (with_reducible apply Only.step (testFailed_only _ _))
    | (with_reducible apply Only.step (fenceSite_only _ _ _ _ _ _))
    | (with_reducible apply Only.step (powerDown_only _ _ _))
    | (with_reducible apply Only.foldl)
    | intro _
    | split
    | (with_reducible refine Only.snd (by assumption) ?_)
    | (with_reducible refine Only.fst (by assumption) ?_)
    | decide

theorem fenceDeads_only (d : Dev) :
    Only [.chans, .msix, .sites, .fenceFall, .lnk, .col, .slv, .solves, .health, .stm, .trc, .pwr, .free] d (Dev.fenceDeads d) := by
  have hset : ∀ (b x : Dev) v0 v1 v2 v3 v4 v5 v6 v7 v8 v9 v10 v11 v12,
      Only [.chans, .msix, .sites, .fenceFall, .lnk, .col, .slv, .solves, .health, .stm, .trc, .pwr, .free] b x →
      Only [.chans, .msix, .sites, .fenceFall, .lnk, .col, .slv, .solves, .health, .stm, .trc, .pwr, .free] b { x with
          chans := v0, msix := v1, sites := v2, fenceFall := v3, lnk := v4, col := v5, slv := v6, solves := v7, health := v8, stm := v9,
          trc := v10, pwr := v11, free := v12 } := by
    refine fun b x v0 v1 v2 v3 v4 v5 v6 v7 v8 v9 v10 v11 v12 h => ⟨fun p hp => ?_⟩
    cases p <;> first | exact h.same _ hp | cases hp
  unfold Dev.fenceDeads
  repeat' first
    | fail_if_no_progress (with_reducible apply hset)
    | with_reducible exact Only.refl _ _
    | with_reducible assumption
    | (with_reducible apply Only.step (selfTestFailed_only _ _))
    | (with_reducible apply Only.step (fenceDead_only _ _))
    | (with_reducible apply Only.foldl)
    | intro _
    | split
    | (with_reducible refine Only.snd (by assumption) ?_)
    | (with_reducible refine Only.fst (by assumption) ?_)
    | decide

theorem domainRampTimeout_only (k : Fin 171) (d : Dev) :
    Only [.chans, .msix, .sites, .fenceFall, .lnk, .col, .slv, .solves, .health, .stm, .trc, .pwr, .mgt,
        .free] d (domainRampTimeout k d) := by
  have hset : ∀ (b x : Dev) v0 v1 v2 v3 v4 v5 v6 v7 v8 v9 v10 v11 v12 v13,
      Only [.chans, .msix, .sites, .fenceFall, .lnk, .col, .slv, .solves, .health, .stm, .trc, .pwr, .mgt, .free] b x →
      Only [.chans, .msix, .sites, .fenceFall, .lnk, .col, .slv, .solves, .health, .stm, .trc, .pwr, .mgt, .free] b { x with
          chans := v0, msix := v1, sites := v2, fenceFall := v3, lnk := v4, col := v5, slv := v6, solves := v7, health := v8, stm := v9,
          trc := v10, pwr := v11, mgt := v12, free := v13 } := by
    refine fun b x v0 v1 v2 v3 v4 v5 v6 v7 v8 v9 v10 v11 v12 v13 h => ⟨fun p hp => ?_⟩
    cases p <;> first | exact h.same _ hp | cases hp
  unfold domainRampTimeout
  repeat' first
    | fail_if_no_progress (with_reducible apply hset)
    | with_reducible exact Only.refl _ _
    | with_reducible assumption
    | (with_reducible apply Only.step (fenceDeads_only _))
    | (with_reducible apply Only.step (setPwrEvent_only _ _))
    | (with_reducible apply Only.step (discharge_only _ _))
    | (with_reducible apply Only.foldl)
    | intro _
    | split
    | (with_reducible refine Only.snd (by assumption) ?_)
    | (with_reducible refine Only.fst (by assumption) ?_)
    | decide
    | (dsimp only; done)
    | dsimp only

theorem domainRampDone_only (k : Fin 171) (ok : Bool) (d : Dev) :
    Only [.chans, .msix, .cqs, .mem, .dscs, .sites, .fenceFall, .lnk, .col, .slv, .solves, .health, .stm, .trc, .pwr,
        .free] d (domainRampDone k ok d) := by
  have hset : ∀ (b x : Dev) v0 v1 v2 v3 v4 v5 v6 v7 v8 v9 v10 v11 v12 v13 v14 v15,
      Only [.chans, .msix, .cqs, .mem, .dscs, .sites, .fenceFall, .lnk, .col, .slv, .solves, .health, .stm, .trc, .pwr, .free] b x →
      Only [.chans, .msix, .cqs, .mem, .dscs, .sites, .fenceFall, .lnk, .col, .slv, .solves, .health, .stm, .trc, .pwr, .free] b { x with
          chans := v0, msix := v1, cqs := v2, mem := v3, dscs := v4, sites := v5, fenceFall := v6, lnk := v7, col := v8, slv := v9,
          solves := v10, health := v11, stm := v12, trc := v13, pwr := v14, free := v15 } := by
    refine fun b x v0 v1 v2 v3 v4 v5 v6 v7 v8 v9 v10 v11 v12 v13 v14 v15 h => ⟨fun p hp => ?_⟩
    cases p <;> first | exact h.same _ hp | cases hp
  unfold domainRampDone
  repeat' first
    | fail_if_no_progress (with_reducible apply hset)
    | with_reducible exact Only.refl _ _
    | with_reducible assumption
    | (with_reducible apply Only.step (fenceDeads_only _))
    | (with_reducible apply Only.step (siteReset_only _ _))
    | (with_reducible apply Only.step (powerOff_only _ _ _))
    | (with_reducible apply Only.step (setDom_only _ _ _))
    | (with_reducible apply Only.step (stageDomain_only _ _ _ _))
    | (with_reducible apply Only.foldl)
    | intro _
    | split
    | (with_reducible refine Only.snd (by assumption) ?_)
    | (with_reducible refine Only.fst (by assumption) ?_)
    | decide
    | (dsimp only; done)
    | dsimp only

theorem settleDomains_only (d : Dev) : Only [.stm, .trc, .pwr] d (Dev.settleDomains d) := by
  unfold Dev.settleDomains
  repeat' first
    | with_reducible exact Only.refl _ _
    | with_reducible assumption
    | (with_reducible apply Only.step (powerDown_only _ _ _))
    | (with_reducible apply Only.step (powerUp_only _ _ _))
    | (with_reducible apply Only.step (setDom_only _ _ _))
    | (with_reducible apply Only.foldl)
    | intro _
    | split
    | (with_reducible refine Only.snd (by assumption) ?_)
    | (with_reducible refine Only.fst (by assumption) ?_)
    | decide
    | (dsimp only; done)
    | dsimp only

theorem keyFails_only (d : Dev) (slot : Nat) : Only [.chans, .msix, .sec, .health, .stm, .trc] d (Dev.keyFails d slot) := by
  have hset : ∀ (b x : Dev) v0 v1 v2 v3 v4 v5,
      Only [.chans, .msix, .sec, .health, .stm, .trc] b x →
      Only [.chans, .msix, .sec, .health, .stm, .trc] b { x with
          chans := v0, msix := v1, sec := v2, health := v3, stm := v4, trc := v5 } := by
    refine fun b x v0 v1 v2 v3 v4 v5 h => ⟨fun p hp => ?_⟩
    cases p <;> first | exact h.same _ hp | cases hp
  unfold Dev.keyFails
  repeat' first
    | fail_if_no_progress (with_reducible apply hset)
    | with_reducible exact Only.refl _ _
    | with_reducible assumption
    | (with_reducible apply Only.step (writeRecord_only _ _))
    | (with_reducible apply Only.foldl)
    | intro _
    | split
    | (with_reducible refine Only.snd (by assumption) ?_)
    | (with_reducible refine Only.fst (by assumption) ?_)
    | decide

theorem firmwareAuth_only (bad : List (Fin 8)) (d : Dev) :
    Only [.fwp, .chans, .msix, .stks, .dscs, .sites, .fenceFall, .lnk, .col, .slv, .solves, .sec, .health, .stm, .trc, .pwr,
        .free] d (firmwareAuth bad d) := by
  have hset : ∀ (b x : Dev) v0 v1 v2 v3 v4 v5 v6 v7 v8 v9 v10 v11 v12 v13 v14 v15 v16,
      Only [.fwp, .chans, .msix, .stks, .dscs, .sites, .fenceFall, .lnk, .col, .slv, .solves, .sec, .health, .stm, .trc, .pwr, .free] b x →
      Only [.fwp, .chans, .msix, .stks, .dscs, .sites, .fenceFall, .lnk, .col, .slv, .solves, .sec, .health, .stm, .trc, .pwr, .free] b { x with
          fwp := v0, chans := v1, msix := v2, stks := v3, dscs := v4, sites := v5, fenceFall := v6, lnk := v7, col := v8, slv := v9,
          solves := v10, sec := v11, health := v12, stm := v13, trc := v14, pwr := v15, free := v16 } := by
    refine fun b x v0 v1 v2 v3 v4 v5 v6 v7 v8 v9 v10 v11 v12 v13 v14 v15 v16 h => ⟨fun p hp => ?_⟩
    cases p <;> first | exact h.same _ hp | cases hp
  unfold firmwareAuth
  repeat' first
    | fail_if_no_progress (with_reducible apply hset)
    | with_reducible exact Only.refl _ _
    | with_reducible assumption
    | (with_reducible apply Only.step (keyFails_only _ _))
    | (with_reducible apply Only.step (fenceDeads_only _))
    | (with_reducible apply Only.step (haltDevice_only _))
    | (with_reducible apply Only.step (takeHeld_only _))
    | (with_reducible apply Only.step (latchPush_only _ _))
    | (with_reducible apply Only.foldl)
    | intro _
    | split
    | (with_reducible refine Only.snd (by assumption) ?_)
    | (with_reducible refine Only.fst (by assumption) ?_)
    | decide
    | (dsimp only; done)
    | dsimp only

theorem startLinks_only (d : Dev) : Only [.lnk, .pwr] d (Dev.startLinks d) := by
  have hset : ∀ (b x : Dev) v0 v1, Only [.lnk, .pwr] b x → Only [.lnk, .pwr] b { x with lnk := v0, pwr := v1 } := by
    refine fun b x v0 v1 h => ⟨fun p hp => ?_⟩
    cases p <;> first | exact h.same _ hp | cases hp
  unfold Dev.startLinks
  repeat' first
    | fail_if_no_progress (with_reducible apply hset)
    | with_reducible exact Only.refl _ _
    | with_reducible assumption
    | (with_reducible apply Only.step (modPort_only _ _ _))
    | (with_reducible apply Only.step (powerUp_only _ _ _))
    | (with_reducible apply Only.foldl)
    | intro _
    | split
    | (with_reducible refine Only.snd (by assumption) ?_)
    | (with_reducible refine Only.fst (by assumption) ?_)
    | decide

/-! ### Beat -/

theorem modBt_only (d : Dev) (f : Bt → Bt) : Only [.bt] d (Dev.modBt d f) := by
  have hset : ∀ (b x : Dev) v0, Only [.bt] b x → Only [.bt] b { x with bt := v0 } := by
    refine fun b x v0 h => ⟨fun p hp => ?_⟩
    cases p <;> first | exact h.same _ hp | cases hp
  unfold Dev.modBt
  repeat' first
    | fail_if_no_progress (with_reducible apply hset)
    | with_reducible exact Only.refl _ _

theorem setBtEvent_only (d : Dev) (i : Nat) : Only [.bt] d (Dev.setBtEvent d i) := by
  unfold Dev.setBtEvent
  repeat' first
    | with_reducible exact Only.refl _ _
    | with_reducible assumption
    | (with_reducible apply Only.step (modBt_only _ _))
    | (with_reducible apply Only.foldl)
    | intro _
    | split
    | (with_reducible refine Only.snd (by assumption) ?_)
    | (with_reducible refine Only.fst (by assumption) ?_)
    | decide

theorem chooseSrc_only (d : Dev) : Only [.bt] d (Dev.chooseSrc d) := by
  unfold Dev.chooseSrc
  repeat' first
    | with_reducible exact Only.refl _ _
    | with_reducible assumption
    | (with_reducible apply Only.step (setBtEvent_only _ _))
    | (with_reducible apply Only.step (modBt_only _ _))
    | (with_reducible apply Only.foldl)
    | intro _
    | split
    | (with_reducible refine Only.snd (by assumption) ?_)
    | (with_reducible refine Only.fst (by assumption) ?_)
    | decide
    | (dsimp only; done)
    | dsimp only

theorem beatInQualify_only (d : Dev) : Only [.bt] d (beatInQualify d) := by
  unfold beatInQualify
  repeat' first
    | with_reducible exact Only.refl _ _
    | with_reducible assumption
    | (with_reducible apply Only.step (chooseSrc_only _))
    | (with_reducible apply Only.step (modBt_only _ _))
    | (with_reducible apply Only.foldl)
    | intro _
    | split
    | (with_reducible refine Only.snd (by assumption) ?_)
    | (with_reducible refine Only.fst (by assumption) ?_)
    | decide

theorem unqualify_only (d : Dev) : Only [.bt] d (Dev.unqualify d) := by
  unfold Dev.unqualify
  repeat' first
    | with_reducible exact Only.refl _ _
    | with_reducible assumption
    | (with_reducible apply Only.step (chooseSrc_only _))
    | (with_reducible apply Only.step (modBt_only _ _))
    | (with_reducible apply Only.foldl)
    | intro _
    | split
    | (with_reducible refine Only.snd (by assumption) ?_)
    | (with_reducible refine Only.fst (by assumption) ?_)
    | decide

theorem beatInDisqualify_only (d : Dev) : Only [.bt] d (beatInDisqualify d) := by
  unfold beatInDisqualify
  repeat' first
    | with_reducible exact Only.refl _ _
    | with_reducible assumption
    | (with_reducible apply Only.step (unqualify_only _))
    | (with_reducible apply Only.foldl)
    | intro _
    | split
    | (with_reducible refine Only.snd (by assumption) ?_)
    | (with_reducible refine Only.fst (by assumption) ?_)
    | decide

theorem pllLock_only (d : Dev) : Only [.bt, .pwr] d (pllLock d) := by
  have hset : ∀ (b x : Dev) v0 v1, Only [.bt, .pwr] b x → Only [.bt, .pwr] b { x with bt := v0, pwr := v1 } := by
    refine fun b x v0 v1 h => ⟨fun p hp => ?_⟩
    cases p <;> first | exact h.same _ hp | cases hp
  unfold pllLock
  repeat' first
    | fail_if_no_progress (with_reducible apply hset)
    | with_reducible exact Only.refl _ _
    | with_reducible assumption
    | (with_reducible apply Only.step (modBt_only _ _))
    | (with_reducible apply Only.step (powerBoot_only _))
    | (with_reducible apply Only.foldl)
    | intro _
    | split
    | (with_reducible refine Only.snd (by assumption) ?_)
    | (with_reducible refine Only.fst (by assumption) ?_)
    | decide
    | (dsimp only; done)
    | dsimp only

theorem setTs_only (d : Dev) (v : BitVec 64) : Only [.bt] d (Dev.setTs d v) := by
  unfold Dev.setTs
  repeat' first
    | with_reducible exact Only.refl _ _
    | with_reducible assumption
    | (with_reducible apply Only.step (modBt_only _ _))
    | (with_reducible apply Only.foldl)
    | intro _
    | split
    | (with_reducible refine Only.snd (by assumption) ?_)
    | (with_reducible refine Only.fst (by assumption) ?_)
    | decide

theorem sendMarkers_only (d : Dev) (ports : List Nat) (m : Marker) : Only [.lnk] d (Dev.sendMarkers d ports m) := by
  unfold Dev.sendMarkers
  repeat' first
    | with_reducible exact Only.refl _ _
    | with_reducible assumption
    | (with_reducible apply Only.step (modPort_only _ _ _))
    | (with_reducible apply Only.foldl)
    | intro _
    | split
    | (with_reducible refine Only.snd (by assumption) ?_)
    | (with_reducible refine Only.fst (by assumption) ?_)
    | decide

theorem beatMarkerSend_only (d : Dev) : Only [.bt, .lnk] d (beatMarkerSend d) := by
  unfold beatMarkerSend
  repeat' first
    | with_reducible exact Only.refl _ _
    | with_reducible assumption
    | (with_reducible apply Only.step (sendMarkers_only _ _ _))
    | (with_reducible apply Only.step (modBt_only _ _))
    | (with_reducible apply Only.foldl)
    | intro _
    | split
    | (with_reducible refine Only.snd (by assumption) ?_)
    | (with_reducible refine Only.fst (by assumption) ?_)
    | decide

theorem stopPlans_only (d : Dev) (cause : BitVec 16) : Only [.chans, .msix, .plans, .health, .stm, .trc] d (Dev.stopPlans d cause) := by
  have hset : ∀ (b x : Dev) v0 v1 v2 v3 v4 v5,
      Only [.chans, .msix, .plans, .health, .stm, .trc] b x →
      Only [.chans, .msix, .plans, .health, .stm, .trc] b { x with
          chans := v0, msix := v1, plans := v2, health := v3, stm := v4, trc := v5 } := by
    refine fun b x v0 v1 v2 v3 v4 v5 h => ⟨fun p hp => ?_⟩
    cases p <;> first | exact h.same _ hp | cases hp
  unfold Dev.stopPlans
  repeat' first
    | fail_if_no_progress (with_reducible apply hset)
    | with_reducible exact Only.refl _ _
    | with_reducible assumption
    | (with_reducible apply Only.step (settlePlan_only _ _))
    | (with_reducible apply Only.foldl)
    | intro _
    | split
    | (with_reducible refine Only.snd (by assumption) ?_)
    | (with_reducible refine Only.fst (by assumption) ?_)
    | decide

theorem regained_only (d : Dev) (off : Int) : Only [.bt, .chans, .msix, .plans, .health, .stm, .trc] d (Dev.regained d off) := by
  unfold Dev.regained
  repeat' first
    | with_reducible exact Only.refl _ _
    | with_reducible assumption
    | (with_reducible apply Only.step (stopPlans_only _ _))
    | (with_reducible apply Only.step (setBtEvent_only _ _))
    | (with_reducible apply Only.step (modBt_only _ _))
    | (with_reducible apply Only.step (writeRecord_only _ _))
    | (with_reducible apply Only.foldl)
    | intro _
    | split
    | (with_reducible refine Only.snd (by assumption) ?_)
    | (with_reducible refine Only.fst (by assumption) ?_)
    | decide
    | (dsimp only; done)
    | dsimp only

theorem takeMarker_only (d : Dev) (p : Nat) (m : Marker) :
    Only [.bt, .chans, .msix, .plans, .lnk, .health, .stm, .trc] d (Dev.takeMarker d p m) := by
  unfold Dev.takeMarker
  repeat' first
    | with_reducible exact Only.refl _ _
    | with_reducible assumption
    | (with_reducible apply Only.step (regained_only _ _))
    | (with_reducible apply Only.step (sendMarkers_only _ _ _))
    | (with_reducible apply Only.step (setTs_only _ _))
    | (with_reducible apply Only.step (chooseSrc_only _))
    | (with_reducible apply Only.step (modBt_only _ _))
    | (with_reducible apply Only.foldl)
    | intro _
    | split
    | (with_reducible refine Only.snd (by assumption) ?_)
    | (with_reducible refine Only.fst (by assumption) ?_)
    | decide

theorem adopt_only (d : Dev) : Only [.bt, .pwr] d (Dev.adopt d) := by
  have hset : ∀ (b x : Dev) v0 v1, Only [.bt, .pwr] b x → Only [.bt, .pwr] b { x with bt := v0, pwr := v1 } := by
    refine fun b x v0 v1 h => ⟨fun p hp => ?_⟩
    cases p <;> first | exact h.same _ hp | cases hp
  unfold Dev.adopt
  repeat' first
    | fail_if_no_progress (with_reducible apply hset)
    | with_reducible exact Only.refl _ _
    | with_reducible assumption
    | (with_reducible apply Only.step (setBtEvent_only _ _))
    | (with_reducible apply Only.step (modBt_only _ _))
    | (with_reducible apply Only.foldl)
    | intro _
    | split
    | (with_reducible refine Only.snd (by assumption) ?_)
    | (with_reducible refine Only.fst (by assumption) ?_)
    | decide
    | (dsimp only; done)
    | dsimp only

theorem beatMarkerReceive_only (port : Fin 24) (d : Dev) :
    Only [.bt, .chans, .msix, .plans, .lnk, .health, .stm, .trc, .pwr] d (beatMarkerReceive port d) := by
  unfold beatMarkerReceive
  repeat' first
    | with_reducible exact Only.refl _ _
    | with_reducible assumption
    | (with_reducible apply Only.step (adopt_only _))
    | (with_reducible apply Only.step (takeMarker_only _ _ _))
    | (with_reducible apply Only.step (modBt_only _ _))
    | (with_reducible apply Only.foldl)
    | intro _
    | split
    | (with_reducible refine Only.snd (by assumption) ?_)
    | (with_reducible refine Only.fst (by assumption) ?_)
    | decide
    | (dsimp only; done)
    | dsimp only

theorem counterStep_only (d : Dev) : Only [.bt, .chans, .msix, .health, .stm, .trc] d (counterStep d) := by
  unfold counterStep
  repeat' first
    | with_reducible exact Only.refl _ _
    | with_reducible assumption
    | (with_reducible apply Only.step (setTs_only _ _))
    | (with_reducible apply Only.step (setBtEvent_only _ _))
    | (with_reducible apply Only.step (modBt_only _ _))
    | (with_reducible apply Only.step (writeRecord_only _ _))
    | (with_reducible apply Only.foldl)
    | intro _
    | split
    | (with_reducible refine Only.snd (by assumption) ?_)
    | (with_reducible refine Only.fst (by assumption) ?_)
    | decide

theorem slewEnd_only (d : Dev) : Only [.bt] d (slewEnd d) := by
  unfold slewEnd
  repeat' first
    | with_reducible exact Only.refl _ _
    | with_reducible assumption
    | (with_reducible apply Only.step (modBt_only _ _))
    | (with_reducible apply Only.foldl)
    | intro _
    | split
    | (with_reducible refine Only.snd (by assumption) ?_)
    | (with_reducible refine Only.fst (by assumption) ?_)
    | decide

theorem sendClaim_only (d : Dev) (ports : List Nat) (c : Claim) : Only [.lnk] d (Dev.sendClaim d ports c) := by
  unfold Dev.sendClaim
  repeat' first
    | with_reducible exact Only.refl _ _
    | with_reducible assumption
    | (with_reducible apply Only.step (modPort_only _ _ _))
    | (with_reducible apply Only.foldl)
    | intro _
    | split
    | (with_reducible refine Only.snd (by assumption) ?_)
    | (with_reducible refine Only.fst (by assumption) ?_)
    | decide

theorem startElection_only (d : Dev) : Only [.bt, .lnk] d (Dev.startElection d) := by
  unfold Dev.startElection
  repeat' first
    | with_reducible exact Only.refl _ _
    | with_reducible assumption
    | (with_reducible apply Only.step (sendClaim_only _ _ _))
    | (with_reducible apply Only.step (modBt_only _ _))
    | (with_reducible apply Only.foldl)
    | intro _
    | split
    | (with_reducible refine Only.snd (by assumption) ?_)
    | (with_reducible refine Only.fst (by assumption) ?_)
    | decide
    | (dsimp only; done)
    | dsimp only

theorem keyConflict_only (d : Dev) (other : BitVec 128) : Only [.bt, .chans, .msix, .health, .stm, .trc] d (Dev.keyConflict d other) := by
  unfold Dev.keyConflict
  repeat' first
    | with_reducible exact Only.refl _ _
    | with_reducible assumption
    | (with_reducible apply Only.step (setBtEvent_only _ _))
    | (with_reducible apply Only.step (modBt_only _ _))
    | (with_reducible apply Only.step (writeRecord_only _ _))
    | (with_reducible apply Only.foldl)
    | intro _
    | split
    | (with_reducible refine Only.snd (by assumption) ?_)
    | (with_reducible refine Only.fst (by assumption) ?_)
    | decide

theorem claimReceive_only (d : Dev) : Only [.bt, .chans, .msix, .lnk, .health, .stm, .trc] d (claimReceive d) := by
  unfold claimReceive
  repeat' first
    | with_reducible exact Only.refl _ _
    | with_reducible assumption
    | (with_reducible refine Only.step (takeInbox_only (by assumption)) ?_ ?_)
    | (with_reducible apply Only.step (keyConflict_only _ _))
    | (with_reducible apply Only.step (sendClaim_only _ _ _))
    | (with_reducible apply Only.step (modBt_only _ _))
    | (with_reducible apply Only.foldl)
    | intro _
    | split
    | (with_reducible refine Only.snd (by assumption) ?_)
    | (with_reducible refine Only.fst (by assumption) ?_)
    | decide
    | (dsimp only; done)
    | dsimp only

theorem electionSettle_only (d : Dev) : Only [.bt, .pwr] d (electionSettle d) := by
  have hset : ∀ (b x : Dev) v0 v1, Only [.bt, .pwr] b x → Only [.bt, .pwr] b { x with bt := v0, pwr := v1 } := by
    refine fun b x v0 v1 h => ⟨fun p hp => ?_⟩
    cases p <;> first | exact h.same _ hp | cases hp
  unfold electionSettle
  repeat' first
    | fail_if_no_progress (with_reducible apply hset)
    | with_reducible exact Only.refl _ _
    | with_reducible assumption
    | (with_reducible apply Only.step (chooseSrc_only _))
    | (with_reducible apply Only.step (setBtEvent_only _ _))
    | (with_reducible apply Only.step (modBt_only _ _))
    | (with_reducible apply Only.foldl)
    | intro _
    | split
    | (with_reducible refine Only.snd (by assumption) ?_)
    | (with_reducible refine Only.fst (by assumption) ?_)
    | decide
    | (dsimp only; done)
    | dsimp only

theorem holdoverEntry_only (d : Dev) : Only [.bt, .chans, .msix, .lnk, .health, .stm, .trc] d (holdoverEntry d) := by
  unfold holdoverEntry
  repeat' first
    | with_reducible exact Only.refl _ _
    | with_reducible assumption
    | (with_reducible apply Only.step (startElection_only _))
    | (with_reducible apply Only.step (chooseSrc_only _))
    | (with_reducible apply Only.step (setBtEvent_only _ _))
    | (with_reducible apply Only.step (modBt_only _ _))
    | (with_reducible apply Only.step (writeRecord_only _ _))
    | (with_reducible apply Only.foldl)
    | intro _
    | split
    | (with_reducible refine Only.snd (by assumption) ?_)
    | (with_reducible refine Only.fst (by assumption) ?_)
    | decide

theorem holdoverPause_only (d : Dev) : Only [.chans, .msix, .plans, .health, .stm, .trc] d (holdoverPause d) := by
  unfold holdoverPause
  repeat' first
    | with_reducible exact Only.refl _ _
    | with_reducible assumption
    | (with_reducible apply Only.step (stopPlans_only _ _))
    | (with_reducible apply Only.foldl)
    | intro _
    | split
    | (with_reducible refine Only.snd (by assumption) ?_)
    | (with_reducible refine Only.fst (by assumption) ?_)
    | decide

theorem trainingDone_only (found : List TrainIn) (d : Dev) :
    Only [.bt, .chans, .msix, .lnk, .health, .stm, .trc, .pwr] d (trainingDone found d) := by
  have hset : ∀ (b x : Dev) v0 v1 v2 v3 v4 v5 v6 v7,
      Only [.bt, .chans, .msix, .lnk, .health, .stm, .trc, .pwr] b x →
      Only [.bt, .chans, .msix, .lnk, .health, .stm, .trc, .pwr] b { x with
          bt := v0, chans := v1, msix := v2, lnk := v3, health := v4, stm := v5, trc := v6, pwr := v7 } := by
    refine fun b x v0 v1 v2 v3 v4 v5 v6 v7 h => ⟨fun p hp => ?_⟩
    cases p <;> first | exact h.same _ hp | cases hp
  unfold trainingDone
  repeat' first
    | fail_if_no_progress (with_reducible apply hset)
    | with_reducible exact Only.refl _ _
    | with_reducible assumption
    | (with_reducible apply Only.step (startElection_only _))
    | (with_reducible apply Only.step (trainPort_only _ _ _))
    | (with_reducible apply Only.step (directionLost_only _ _ _))
    | (with_reducible apply Only.foldl)
    | intro _
    | split
    | (with_reducible refine Only.snd (by assumption) ?_)
    | (with_reducible refine Only.fst (by assumption) ?_)
    | decide
    | (dsimp only; done)
    | dsimp only

theorem processorWatchdogExpiry_only (i : Fin 5) (d : Dev) :
    Only [.fwp, .chans, .msix, .plans, .sites, .health, .stm, .trc, .pwr] d (processorWatchdogExpiry i d) := by
  have hset : ∀ (b x : Dev) v0 v1 v2 v3 v4 v5 v6 v7 v8,
      Only [.fwp, .chans, .msix, .plans, .sites, .health, .stm, .trc, .pwr] b x →
      Only [.fwp, .chans, .msix, .plans, .sites, .health, .stm, .trc, .pwr] b { x with
          fwp := v0, chans := v1, msix := v2, plans := v3, sites := v4, health := v5, stm := v6, trc := v7, pwr := v8 } := by
    refine fun b x v0 v1 v2 v3 v4 v5 v6 v7 v8 h => ⟨fun p hp => ?_⟩
    cases p <;> first | exact h.same _ hp | cases hp
  unfold processorWatchdogExpiry
  repeat' first
    | fail_if_no_progress (with_reducible apply hset)
    | with_reducible exact Only.refl _ _
    | with_reducible assumption
    | (with_reducible apply Only.step (stopPlans_only _ _))
    | (with_reducible apply Only.step (haltDevice_only _))
    | (with_reducible apply Only.step (settlePlan_only _ _))
    | (with_reducible apply Only.step (writeRecord_only _ _))
    | (with_reducible apply Only.step (modFw_only _ _ _))
    | (with_reducible apply Only.foldl)
    | intro _
    | split
    | (with_reducible refine Only.snd (by assumption) ?_)
    | (with_reducible refine Only.fst (by assumption) ?_)
    | decide

theorem processorRestartDone_only (i : Fin 5) (d : Dev) :
    Only [.fwp, .chans, .reqs, .dones, .rings, .msix, .plans, .siteOf, .mapTs, .cqs, .mem, .stks, .dscs, .sites, .fenceFall, .deliveries,
        .lnk, .col, .slv, .solves, .wipes, .sec, .health, .stm, .trc, .pwr, .free] d (processorRestartDone i d) := by
  have hset : ∀ (b x : Dev) v0 v1 v2 v3 v4 v5 v6 v7 v8 v9 v10 v11 v12 v13 v14 v15 v16 v17 v18 v19 v20 v21 v22 v23 v24 v25 v26,
      Only [.fwp, .chans, .reqs, .dones, .rings, .msix, .plans, .siteOf, .mapTs, .cqs, .mem, .stks, .dscs, .sites, .fenceFall,
          .deliveries, .lnk, .col, .slv, .solves, .wipes, .sec, .health, .stm, .trc, .pwr, .free] b x →
      Only [.fwp, .chans, .reqs, .dones, .rings, .msix, .plans, .siteOf, .mapTs, .cqs, .mem, .stks, .dscs, .sites, .fenceFall,
          .deliveries, .lnk, .col, .slv, .solves, .wipes, .sec, .health, .stm, .trc, .pwr, .free] b { x with
          fwp := v0, chans := v1, reqs := v2, dones := v3, rings := v4, msix := v5, plans := v6, siteOf := v7, mapTs := v8, cqs := v9,
          mem := v10, stks := v11, dscs := v12, sites := v13, fenceFall := v14, deliveries := v15, lnk := v16, col := v17, slv := v18,
          solves := v19, wipes := v20, sec := v21, health := v22, stm := v23, trc := v24, pwr := v25, free := v26 } := by
    refine fun b x v0 v1 v2 v3 v4 v5 v6 v7 v8 v9 v10 v11 v12 v13 v14 v15 v16 v17 v18 v19 v20 v21 v22 v23 v24 v25 v26 h => ⟨fun p hp => ?_⟩
    cases p <;> first | exact h.same _ hp | cases hp
  unfold processorRestartDone
  repeat' first
    | fail_if_no_progress (with_reducible apply hset)
    | with_reducible exact Only.refl _ _
    | with_reducible assumption
    | (with_reducible apply Only.step (fenceDeads_only _))
    | (with_reducible apply Only.step (serveRings_only _))
    | (with_reducible apply Only.step (finishReq_only _ _ _ _ _))
    | (with_reducible apply Only.step (takeHeld_only _))
    | (with_reducible apply Only.step (modFw_only _ _ _))
    | (with_reducible apply Only.foldl)
    | intro _
    | split
    | (with_reducible refine Only.snd (by assumption) ?_)
    | (with_reducible refine Only.fst (by assumption) ?_)
    | decide

/-! ### Chekor -/

theorem deviceInfo_only (d : Dev) : Only [.chans, .reqs, .dones] d (deviceInfo d) := by
  unfold deviceInfo
  repeat' first
    | with_reducible exact Only.refl _ _
    | with_reducible assumption
    | (with_reducible apply serve_only)
    | (with_reducible apply Only.foldl)
    | intro _
    | split
    | (with_reducible refine Only.snd (by assumption) ?_)
    | (with_reducible refine Only.fst (by assumption) ?_)
    | decide

theorem telemetry_only (d : Dev) : Only [.chans, .reqs, .dones] d (telemetry d) := by
  unfold telemetry
  repeat' first
    | with_reducible exact Only.refl _ _
    | with_reducible assumption
    | (with_reducible apply serve_only)
    | (with_reducible apply Only.foldl)
    | intro _
    | split
    | (with_reducible refine Only.snd (by assumption) ?_)
    | (with_reducible refine Only.fst (by assumption) ?_)
    | decide

theorem linkStatus_only (d : Dev) : Only [.chans, .reqs, .dones] d (linkStatus d) := by
  unfold linkStatus
  repeat' first
    | with_reducible exact Only.refl _ _
    | with_reducible assumption
    | (with_reducible apply serve_only)
    | (with_reducible apply Only.foldl)
    | intro _
    | split
    | (with_reducible refine Only.snd (by assumption) ?_)
    | (with_reducible refine Only.fst (by assumption) ?_)
    | decide

theorem coreMap_only (d : Dev) : Only [.chans, .reqs, .dones] d (coreMap d) := by
  unfold coreMap
  repeat' first
    | with_reducible exact Only.refl _ _
    | with_reducible assumption
    | (with_reducible apply serve_only)
    | (with_reducible apply Only.foldl)
    | intro _
    | split
    | (with_reducible refine Only.snd (by assumption) ?_)
    | (with_reducible refine Only.fst (by assumption) ?_)
    | decide

theorem sessionOpen_only (d : Dev) : Only [.chans, .reqs, .dones, .free] d (sessionOpen d) := by
  unfold sessionOpen
  repeat' first
    | with_reducible exact Only.refl _ _
    | with_reducible assumption
    | (with_reducible apply serve_only)
    | (with_reducible apply Only.step (draw_only _))
    | (with_reducible apply Only.step (modChan_only _ _ _))
    | (with_reducible apply Only.foldl)
    | intro _
    | split
    | (with_reducible refine Only.snd (by assumption) ?_)
    | (with_reducible refine Only.fst (by assumption) ?_)
    | decide

theorem sessionClose_only (d : Dev) : Only [.chans, .reqs, .dones] d (sessionClose d) := by
  unfold sessionClose
  repeat' first
    | with_reducible exact Only.refl _ _
    | with_reducible assumption
    | (with_reducible apply serve_only)
    | (with_reducible apply Only.step (modChan_only _ _ _))
    | (with_reducible apply Only.foldl)
    | intro _
    | split
    | (with_reducible refine Only.snd (by assumption) ?_)
    | (with_reducible refine Only.fst (by assumption) ?_)
    | decide

theorem admitPlan_only (d : Dev) (func addr len : Nat) (img : PlanImg) :
    Only [.plans, .lastHandle, .siteOf, .cqs] d (Dev.admitPlan d func addr len img).1 := by
  have hset : ∀ (b x : Dev) v0 v1 v2 v3,
      Only [.plans, .lastHandle, .siteOf, .cqs] b x →
      Only [.plans, .lastHandle, .siteOf, .cqs] b { x with plans := v0, lastHandle := v1, siteOf := v2, cqs := v3 } := by
    refine fun b x v0 v1 v2 v3 h => ⟨fun p hp => ?_⟩
    cases p <;> first | exact h.same _ hp | cases hp
  unfold Dev.admitPlan
  repeat' first
    | fail_if_no_progress (with_reducible apply hset)
    | with_reducible exact Only.refl _ _
    | with_reducible assumption
    | (with_reducible apply Only.step (modCq_only _ _ _))
    | (with_reducible apply Only.foldl)
    | intro _
    | split
    | (with_reducible refine Only.snd (by assumption) ?_)
    | (with_reducible refine Only.fst (by assumption) ?_)
    | decide

theorem planAdmit_only (d : Dev) : Only [.chans, .reqs, .dones, .plans, .lastHandle, .siteOf, .cqs, .stks] d (planAdmit d) := by
  unfold planAdmit
  repeat' first
    | with_reducible exact Only.refl _ _
    | with_reducible assumption
    | (with_reducible apply Only.step (admitPlan_only _ _ _ _ _))
    | (with_reducible apply serve_only)
    | (with_reducible apply Only.step (countPoison_only _ _))
    | (with_reducible apply Only.foldl)
    | intro _
    | split
    | (with_reducible refine Only.snd (by assumption) ?_)
    | (with_reducible refine Only.fst (by assumption) ?_)
    | decide
    | (dsimp only; done)
    | dsimp only

theorem armCore_only (d : Dev) (p : Plan) (i : Nat) :
    Only [.siteOf, .cqs, .mem, .dscs, .sites, .health, .pwr, .free] d (Dev.armCore d p i) := by
  have hset : ∀ (b x : Dev) v0 v1 v2 v3 v4 v5 v6 v7,
      Only [.siteOf, .cqs, .mem, .dscs, .sites, .health, .pwr, .free] b x →
      Only [.siteOf, .cqs, .mem, .dscs, .sites, .health, .pwr, .free] b { x with
          siteOf := v0, cqs := v1, mem := v2, dscs := v3, sites := v4, health := v5, pwr := v6, free := v7 } := by
    refine fun b x v0 v1 v2 v3 v4 v5 v6 v7 h => ⟨fun p hp => ?_⟩
    cases p <;> first | exact h.same _ hp | cases hp
  unfold Dev.armCore
  repeat' first
    | fail_if_no_progress (with_reducible apply hset)
    | with_reducible exact Only.refl _ _
    | with_reducible assumption
    | (with_reducible apply Only.step (copyText_only _ _ _ _))
    | (with_reducible apply Only.step (configSite_only _ _ _ _))
    | (with_reducible apply Only.step (zeroRecords_only _ _ _ _))
    | (with_reducible apply Only.step (siteReset_only _ _))
    | (with_reducible apply Only.step (powerUp_only _ _ _))
    | (with_reducible apply Only.step (setDom_only _ _ _))
    | (with_reducible apply Only.step (draw_only _))
    | (with_reducible apply Only.step (setSiteState_only _ _ _))
    | (with_reducible apply Only.step (modSite_only _ _ _))
    | (with_reducible apply Only.foldl)
    | intro _
    | split
    | (with_reducible refine Only.snd (by assumption) ?_)
    | (with_reducible refine Only.fst (by assumption) ?_)
    | decide
    | (dsimp only; done)
    | dsimp only

theorem armCounters_only (d : Dev) : Only [.dscs, .col, .slv] d (Dev.armCounters d) := by
  have hset : ∀ (b x : Dev) v0 v1 v2,
      Only [.dscs, .col, .slv] b x →
      Only [.dscs, .col, .slv] b { x with dscs := v0, col := v1, slv := v2 } := by
    refine fun b x v0 v1 v2 h => ⟨fun p hp => ?_⟩
    cases p <;> first | exact h.same _ hp | cases hp
  unfold Dev.armCounters
  repeat' first
    | fail_if_no_progress (with_reducible apply hset)
    | with_reducible exact Only.refl _ _

theorem loadTables_only (d : Dev) : Only [.mem, .free] d (Dev.loadTables d) := by
  have hset : ∀ (b x : Dev) v0 v1, Only [.mem, .free] b x → Only [.mem, .free] b { x with mem := v0, free := v1 } := by
    refine fun b x v0 v1 h => ⟨fun p hp => ?_⟩
    cases p <;> first | exact h.same _ hp | cases hp
  unfold Dev.loadTables
  repeat' first
    | fail_if_no_progress (with_reducible apply hset)
    | with_reducible exact Only.refl _ _
    | with_reducible assumption
    | (with_reducible apply Only.step (draw_only _))
    | (with_reducible apply Only.foldl)
    | intro _
    | split
    | (with_reducible refine Only.snd (by assumption) ?_)
    | (with_reducible refine Only.fst (by assumption) ?_)
    | decide

theorem armPlan_only (d : Dev) (p : Plan) (start : Nat) :
    Only [.plans, .siteOf, .mapTs, .epoch, .cqs, .mem, .dscs, .sites, .col, .slv, .health, .stm, .trc, .pwr,
        .free] d (Dev.armPlan d p start) := by
  have hset : ∀ (b x : Dev) v0 v1 v2 v3 v4 v5 v6 v7 v8 v9 v10 v11 v12 v13 v14,
      Only [.plans, .siteOf, .mapTs, .epoch, .cqs, .mem, .dscs, .sites, .col, .slv, .health, .stm, .trc, .pwr, .free] b x →
      Only [.plans, .siteOf, .mapTs, .epoch, .cqs, .mem, .dscs, .sites, .col, .slv, .health, .stm, .trc, .pwr, .free] b { x with
          plans := v0, siteOf := v1, mapTs := v2, epoch := v3, cqs := v4, mem := v5, dscs := v6, sites := v7, col := v8, slv := v9,
          health := v10, stm := v11, trc := v12, pwr := v13, free := v14 } := by
    refine fun b x v0 v1 v2 v3 v4 v5 v6 v7 v8 v9 v10 v11 v12 v13 v14 h => ⟨fun p hp => ?_⟩
    cases p <;> first | exact h.same _ hp | cases hp
  unfold Dev.armPlan
  repeat' first
    | fail_if_no_progress (with_reducible apply hset)
    | with_reducible exact Only.refl _ _
    | with_reducible assumption
    | (with_reducible apply Only.step (loadTables_only _))
    | (with_reducible apply Only.step (armCounters_only _))
    | (with_reducible apply Only.step (armCore_only _ _ _))
    | (with_reducible apply Only.step (settleHeld_only _))
    | (with_reducible apply Only.step (powerUp_only _ _ _))
    | (with_reducible apply Only.step (modPlan_only _ _ _))
    | (with_reducible apply Only.foldl)
    | intro _
    | split
    | (with_reducible refine Only.snd (by assumption) ?_)
    | (with_reducible refine Only.fst (by assumption) ?_)
    | decide

theorem planArm_only (d : Dev) :
    Only [.chans, .reqs, .dones, .plans, .siteOf, .mapTs, .epoch, .cqs, .mem, .dscs, .sites, .col, .slv, .health, .stm, .trc, .pwr,
        .free] d (planArm d) := by
  unfold planArm
  repeat' first
    | with_reducible exact Only.refl _ _
    | with_reducible assumption
    | (with_reducible apply Only.step (armPlan_only _ _ _))
    | (with_reducible apply serve_only)
    | (with_reducible apply Only.foldl)
    | intro _
    | split
    | (with_reducible refine Only.snd (by assumption) ?_)
    | (with_reducible refine Only.fst (by assumption) ?_)
    | decide
    | (dsimp only; done)
    | dsimp only

theorem planPause_only (d : Dev) : Only [.chans, .reqs, .dones, .plans] d (planPause d) := by
  unfold planPause
  repeat' first
    | with_reducible exact Only.refl _ _
    | with_reducible assumption
    | (with_reducible apply serve_only)
    | (with_reducible apply Only.step (modPlan_only _ _ _))
    | (with_reducible apply Only.foldl)
    | intro _
    | split
    | (with_reducible refine Only.snd (by assumption) ?_)
    | (with_reducible refine Only.fst (by assumption) ?_)
    | decide
    | (dsimp only; done)
    | dsimp only

theorem planResume_only (d : Dev) : Only [.chans, .reqs, .dones, .plans] d (planResume d) := by
  unfold planResume
  repeat' first
    | with_reducible exact Only.refl _ _
    | with_reducible assumption
    | (with_reducible apply serve_only)
    | (with_reducible apply Only.step (modPlan_only _ _ _))
    | (with_reducible apply Only.foldl)
    | intro _
    | split
    | (with_reducible refine Only.snd (by assumption) ?_)
    | (with_reducible refine Only.fst (by assumption) ?_)
    | decide
    | (dsimp only; done)
    | dsimp only

theorem debugResume_only (d : Dev) : Only [.chans, .reqs, .dones, .plans] d (debugResume d) := by
  unfold debugResume
  repeat' first
    | with_reducible exact Only.refl _ _
    | with_reducible assumption
    | (with_reducible apply serve_only)
    | (with_reducible apply Only.step (modPlan_only _ _ _))
    | (with_reducible apply Only.foldl)
    | intro _
    | split
    | (with_reducible refine Only.snd (by assumption) ?_)
    | (with_reducible refine Only.fst (by assumption) ?_)
    | decide
    | (dsimp only; done)
    | dsimp only

theorem planRetire_only (d : Dev) :
    Only [.chans, .reqs, .dones, .plans, .siteOf, .mapTs, .cqs, .mem, .stks, .dscs, .sites, .deliveries, .lnk, .col, .slv, .solves,
        .wipes, .sec, .health, .stm, .trc, .pwr, .free] d (planRetire d) := by
  unfold planRetire
  repeat' first
    | with_reducible exact Only.refl _ _
    | with_reducible assumption
    | (with_reducible apply Only.step (beginRetire_only _ _))
    | (with_reducible apply serve_only)
    | (with_reducible apply Only.foldl)
    | intro _
    | split
    | (with_reducible refine Only.snd (by assumption) ?_)
    | (with_reducible refine Only.fst (by assumption) ?_)
    | decide
    | (dsimp only; done)
    | dsimp only

theorem planStatus_only (d : Dev) : Only [.chans, .reqs, .dones] d (planStatus d) := by
  unfold planStatus
  repeat' first
    | with_reducible exact Only.refl _ _
    | with_reducible assumption
    | (with_reducible apply serve_only)
    | (with_reducible apply Only.foldl)
    | intro _
    | split
    | (with_reducible refine Only.snd (by assumption) ?_)
    | (with_reducible refine Only.fst (by assumption) ?_)
    | decide

theorem selectOne_only (d : Dev) (h : BitVec 16) (s : Nat) (tag : BitVec 32) (group variant : Nat) :
    Only [.chans, .msix, .plans, .health, .stm, .trc] d (Dev.selectOne d h s tag group variant) := by
  unfold Dev.selectOne
  repeat' first
    | with_reducible exact Only.refl _ _
    | with_reducible assumption
    | (with_reducible apply Only.step (writeRecord_only _ _))
    | (with_reducible apply Only.step (modPlan_only _ _ _))
    | (with_reducible apply Only.foldl)
    | intro _
    | split
    | (with_reducible refine Only.snd (by assumption) ?_)
    | (with_reducible refine Only.fst (by assumption) ?_)
    | decide
    | (dsimp only; done)
    | dsimp only

theorem recipeSelect_only (d : Dev) : Only [.chans, .reqs, .dones, .msix, .plans, .health, .stm, .trc] d (recipeSelect d) := by
  unfold recipeSelect
  repeat' first
    | with_reducible exact Only.refl _ _
    | with_reducible assumption
    | (with_reducible apply Only.step (selectOne_only _ _ _ _ _ _))
    | (with_reducible apply serve_only)
    | (with_reducible apply Only.foldl)
    | intro _
    | split
    | (with_reducible refine Only.snd (by assumption) ?_)
    | (with_reducible refine Only.fst (by assumption) ?_)
    | decide
    | (dsimp only; done)
    | dsimp only

/-! ### Fences -/

theorem fenceIdle_only (d : Dev) (n : Nat) (host : HostFence) :
    Only [.chans, .msix, .cqs, .mem, .dscs, .sites, .fenceFall, .health, .stm, .trc, .pwr, .free] d (Dev.fenceIdle d n host) := by
  unfold Dev.fenceIdle
  repeat' first
    | with_reducible exact Only.refl _ _
    | with_reducible assumption
    | (with_reducible apply Only.step (fenceSite_only _ _ _ _ _ _))
    | (with_reducible apply Only.step (modHealth_only _ _))
    | (with_reducible apply Only.step (siteReset_only _ _))
    | (with_reducible apply Only.step (powerDown_only _ _ _))
    | (with_reducible apply Only.foldl)
    | intro _
    | split
    | (with_reducible refine Only.snd (by assumption) ?_)
    | (with_reducible refine Only.fst (by assumption) ?_)
    | decide

theorem fenceSpare_only (d : Dev) (n : Nat) (r : Recovery) (host : HostFence) :
    Only [.chans, .msix, .plans, .cqs, .mem, .dscs, .sites, .fenceFall, .health, .stm, .trc, .pwr,
        .free] d (Dev.fenceSpare d n r host) := by
  unfold Dev.fenceSpare
  repeat' first
    | with_reducible exact Only.refl _ _
    | with_reducible assumption
    | (with_reducible apply Only.step (modRecovery_only _ _ _))
    | (with_reducible apply Only.step (fenceSite_only _ _ _ _ _ _))
    | (with_reducible apply Only.step (siteReset_only _ _))
    | (with_reducible apply Only.step (powerDown_only _ _ _))
    | (with_reducible apply Only.step (countFault_only _ _))
    | (with_reducible apply Only.foldl)
    | intro _
    | split
    | (with_reducible refine Only.snd (by assumption) ?_)
    | (with_reducible refine Only.fst (by assumption) ?_)
    | decide

theorem fenceMoving_only (d : Dev) (n : Nat) (r : Recovery) (host : HostFence) :
    Only [.chans, .msix, .plans, .sites, .fenceFall, .health, .stm, .trc, .free] d (Dev.fenceMoving d n r host).1 := by
  unfold Dev.fenceMoving
  repeat' first
    | with_reducible exact Only.refl _ _
    | with_reducible assumption
    | (with_reducible apply Only.step (modRecovery_only _ _ _))
    | (with_reducible apply Only.step (fenceSite_only _ _ _ _ _ _))
    | (with_reducible apply Only.step (countFault_only _ _))
    | (with_reducible apply Only.foldl)
    | intro _
    | split
    | (with_reducible refine Only.snd (by assumption) ?_)
    | (with_reducible refine Only.fst (by assumption) ?_)
    | decide

theorem fence_only (d : Dev) :
    Only [.bt, .chans, .reqs, .dones, .msix, .plans, .cqs, .mem, .dscs, .sites, .fenceFall, .lnk, .col, .slv, .solves, .health, .stm,
        .trc, .pwr, .free] d (fence d) := by
  unfold fence
  repeat' first
    | with_reducible exact Only.refl _ _
    | with_reducible assumption
    | (with_reducible apply Only.step (fenceMoving_only _ _ _ _))
    | (with_reducible apply Only.step (fenceSpare_only _ _ _ _))
    | (with_reducible apply Only.step (fenceIdle_only _ _ _))
    | (with_reducible apply serve_only)
    | (with_reducible apply Only.step (fenceEngine_only _ _ _))
    | (with_reducible apply Only.step (failPort_only _ _ _ _))
    | (with_reducible apply Only.step (fenceSolver_only _ _ _ _))
    | (with_reducible apply Only.step (siteFault_only _ _ _ _ _ _))
    | (with_reducible apply Only.foldl)
    | intro _
    | split
    | (with_reducible refine Only.snd (by assumption) ?_)
    | (with_reducible refine Only.fst (by assumption) ?_)
    | decide
    | (dsimp only; done)
    | dsimp only

theorem powerReturned_only (d : Dev) (n : Nat) : Only [.health, .pwr] d (Dev.powerReturned d n) := by
  unfold Dev.powerReturned
  repeat' first
    | with_reducible exact Only.refl _ _
    | with_reducible assumption
    | (with_reducible apply Only.step (powerHeld_only _ _))
    | (with_reducible apply Only.foldl)
    | intro _
    | split
    | (with_reducible refine Only.snd (by assumption) ?_)
    | (with_reducible refine Only.fst (by assumption) ?_)
    | decide

theorem unfence_only (d : Dev) : Only [.chans, .reqs, .dones, .cqs, .mem, .dscs, .sites, .health, .pwr] d (unfence d) := by
  unfold unfence
  repeat' first
    | with_reducible exact Only.refl _ _
    | with_reducible assumption
    | (with_reducible apply Only.step (powerReturned_only _ _))
    | (with_reducible apply Only.step (returnSite_only _ _))
    | (with_reducible apply serve_only)
    | (with_reducible apply Only.foldl)
    | intro _
    | split
    | (with_reducible refine Only.snd (by assumption) ?_)
    | (with_reducible refine Only.fst (by assumption) ?_)
    | decide
    | (dsimp only; done)
    | dsimp only

theorem returnUnit_only (d : Dev) (u : BitVec 16) :
    Only [.cqs, .mem, .dscs, .sites, .lnk, .col, .slv, .solves, .health, .pwr] d (Dev.returnUnit d u) := by
  have hset : ∀ (b x : Dev) v0 v1 v2 v3 v4 v5 v6 v7 v8 v9,
      Only [.cqs, .mem, .dscs, .sites, .lnk, .col, .slv, .solves, .health, .pwr] b x →
      Only [.cqs, .mem, .dscs, .sites, .lnk, .col, .slv, .solves, .health, .pwr] b { x with
          cqs := v0, mem := v1, dscs := v2, sites := v3, lnk := v4, col := v5, slv := v6, solves := v7, health := v8, pwr := v9 } := by
    refine fun b x v0 v1 v2 v3 v4 v5 v6 v7 v8 v9 h => ⟨fun p hp => ?_⟩
    cases p <;> first | exact h.same _ hp | cases hp
  unfold Dev.returnUnit
  repeat' first
    | fail_if_no_progress (with_reducible apply hset)
    | with_reducible exact Only.refl _ _
    | with_reducible assumption
    | (with_reducible apply Only.step (powerReturned_only _ _))
    | (with_reducible apply Only.step (returnSite_only _ _))
    | (with_reducible apply Only.step (dealAll_only _))
    | (with_reducible apply Only.step (modSlv_only _ _ _))
    | (with_reducible apply Only.step (modPort_only _ _ _))
    | (with_reducible apply Only.step (powerUp_only _ _ _))
    | (with_reducible apply Only.step (leaveCrater_only _ _))
    | (with_reducible apply Only.foldl)
    | intro _
    | split
    | (with_reducible refine Only.snd (by assumption) ?_)
    | (with_reducible refine Only.fst (by assumption) ?_)
    | decide

theorem markUnit_only (d : Dev) (u : BitVec 16) (perm : Bool) : Only [.health] d (Dev.markUnit d u perm) := by
  unfold Dev.markUnit
  repeat' first
    | with_reducible exact Only.refl _ _
    | with_reducible assumption
    | (with_reducible apply Only.step (modHealth_only _ _))
    | (with_reducible apply Only.step (modCrater_only _ _ _))
    | (with_reducible apply Only.step (setSiteState_only _ _ _))
    | (with_reducible apply Only.foldl)
    | intro _
    | split
    | (with_reducible refine Only.snd (by assumption) ?_)
    | (with_reducible refine Only.fst (by assumption) ?_)
    | decide
    | (dsimp only; done)
    | dsimp only

theorem fenceOverride_only (d : Dev) :
    Only [.chans, .reqs, .dones, .cqs, .mem, .dscs, .sites, .lnk, .col, .slv, .solves, .health, .pwr] d (fenceOverride d) := by
  unfold fenceOverride
  repeat' first
    | with_reducible exact Only.refl _ _
    | with_reducible assumption
    | (with_reducible apply Only.step (markUnit_only _ _ _))
    | (with_reducible apply Only.step (returnUnit_only _ _))
    | (with_reducible apply serve_only)
    | (with_reducible apply Only.foldl)
    | intro _
    | split
    | (with_reducible refine Only.snd (by assumption) ?_)
    | (with_reducible refine Only.fst (by assumption) ?_)
    | decide
    | (dsimp only; done)
    | dsimp only

theorem testRun_only (d : Dev) : Only [.chans, .reqs, .dones, .cqs, .mem, .dscs, .sites, .health, .pwr] d (testRun d) := by
  unfold testRun
  repeat' first
    | with_reducible exact Only.refl _ _
    | with_reducible assumption
    | (with_reducible apply Only.step (beginTest_only _ _ _))
    | (with_reducible apply serve_only)
    | (with_reducible apply Only.foldl)
    | intro _
    | split
    | (with_reducible refine Only.snd (by assumption) ?_)
    | (with_reducible refine Only.fst (by assumption) ?_)
    | decide
    | (dsimp only; done)
    | dsimp only

theorem testConfig_only (d : Dev) : Only [.chans, .reqs, .dones, .health] d (testConfig d) := by
  unfold testConfig
  repeat' first
    | with_reducible exact Only.refl _ _
    | with_reducible assumption
    | (with_reducible apply Only.step (modHealth_only _ _))
    | (with_reducible apply serve_only)
    | (with_reducible apply Only.foldl)
    | intro _
    | split
    | (with_reducible refine Only.snd (by assumption) ?_)
    | (with_reducible refine Only.fst (by assumption) ?_)
    | decide
    | (dsimp only; done)
    | dsimp only

theorem craterRead_only (d : Dev) : Only [.chans, .reqs, .dones] d (craterRead d) := by
  unfold craterRead
  repeat' first
    | with_reducible exact Only.refl _ _
    | with_reducible assumption
    | (with_reducible apply serve_only)
    | (with_reducible apply Only.foldl)
    | intro _
    | split
    | (with_reducible refine Only.snd (by assumption) ?_)
    | (with_reducible refine Only.fst (by assumption) ?_)
    | decide
    | (dsimp only; done)
    | dsimp only

theorem loseBank_only (d : Dev) (bankB : Bool) : Only [.chans, .msix, .health, .stm, .trc] d (Dev.loseBank d bankB) := by
  unfold Dev.loseBank
  repeat' first
    | with_reducible exact Only.refl _ _
    | with_reducible assumption
    | (with_reducible apply Only.step (modHealth_only _ _))
    | (with_reducible apply Only.step (setHltEvent_only _ _))
    | (with_reducible apply Only.step (writeRecord_only _ _))
    | (with_reducible apply Only.foldl)
    | intro _
    | split
    | (with_reducible refine Only.snd (by assumption) ?_)
    | (with_reducible refine Only.fst (by assumption) ?_)
    | decide
    | (dsimp only; done)
    | dsimp only

theorem logRead_only (ecc : LogEcc) (d : Dev) : Only [.chans, .reqs, .dones, .msix, .health, .stm, .trc] d (logRead ecc d) := by
  unfold logRead
  repeat' first
    | with_reducible exact Only.refl _ _
    | with_reducible assumption
    | (with_reducible apply Only.step (loseBank_only _ _))
    | (with_reducible apply serve_only)
    | (with_reducible apply Only.foldl)
    | intro _
    | split
    | (with_reducible refine Only.snd (by assumption) ?_)
    | (with_reducible refine Only.fst (by assumption) ?_)
    | decide
    | (dsimp only; done)
    | dsimp only

/-! ### Tenancy -/

theorem tenancyCreate_only (d : Dev) : Only [.chans, .reqs, .dones, .stks, .dscs, .wipes, .sec] d (tenancyCreate d) := by
  have hset : ∀ (b x : Dev) v0 v1 v2 v3 v4 v5 v6,
      Only [.chans, .reqs, .dones, .stks, .dscs, .wipes, .sec] b x →
      Only [.chans, .reqs, .dones, .stks, .dscs, .wipes, .sec] b { x with
          chans := v0, reqs := v1, dones := v2, stks := v3, dscs := v4, wipes := v5, sec := v6 } := by
    refine fun b x v0 v1 v2 v3 v4 v5 v6 h => ⟨fun p hp => ?_⟩
    cases p <;> first | exact h.same _ hp | cases hp
  unfold tenancyCreate
  repeat' first
    | fail_if_no_progress (with_reducible apply hset)
    | with_reducible exact Only.refl _ _
    | with_reducible assumption
    | (with_reducible apply Only.step (beginWipe_only _ _ _))
    | (with_reducible apply serve_only)
    | (with_reducible apply Only.foldl)
    | intro _
    | split
    | (with_reducible refine Only.snd (by assumption) ?_)
    | (with_reducible refine Only.fst (by assumption) ?_)
    | decide
    | (dsimp only; done)
    | dsimp only

theorem tenancyDestroy_only (d : Dev) :
    Only [.chans, .reqs, .dones, .rings, .plans, .siteOf, .mapTs, .cqs, .mem, .stks, .dscs, .sites, .deliveries, .lnk, .col, .slv,
        .solves, .wipes, .sec, .health, .stm, .trc, .pwr, .free] d (tenancyDestroy d) := by
  unfold tenancyDestroy
  repeat' first
    | with_reducible exact Only.refl _ _
    | with_reducible assumption
    | (with_reducible apply Only.step (beginRelease_only _ _))
    | (with_reducible apply serve_only)
    | (with_reducible apply Only.foldl)
    | intro _
    | split
    | (with_reducible refine Only.snd (by assumption) ?_)
    | (with_reducible refine Only.fst (by assumption) ?_)
    | decide
    | (dsimp only; done)
    | dsimp only

theorem sharedRegion_only (d : Dev) : Only [.chans, .reqs, .dones, .shared] d (sharedRegion d) := by
  have hset : ∀ (b x : Dev) v0 v1 v2 v3,
      Only [.chans, .reqs, .dones, .shared] b x →
      Only [.chans, .reqs, .dones, .shared] b { x with chans := v0, reqs := v1, dones := v2, shared := v3 } := by
    refine fun b x v0 v1 v2 v3 h => ⟨fun p hp => ?_⟩
    cases p <;> first | exact h.same _ hp | cases hp
  unfold sharedRegion
  repeat' first
    | fail_if_no_progress (with_reducible apply hset)
    | with_reducible exact Only.refl _ _
    | with_reducible assumption
    | (with_reducible apply serve_only)
    | (with_reducible apply Only.foldl)
    | intro _
    | split
    | (with_reducible refine Only.snd (by assumption) ?_)
    | (with_reducible refine Only.fst (by assumption) ?_)
    | decide
    | (dsimp only; done)
    | dsimp only

theorem wipePolicy_only (d : Dev) : Only [.chans, .reqs, .dones, .sec] d (wipePolicy d) := by
  have hset : ∀ (b x : Dev) v0 v1 v2 v3,
      Only [.chans, .reqs, .dones, .sec] b x →
      Only [.chans, .reqs, .dones, .sec] b { x with chans := v0, reqs := v1, dones := v2, sec := v3 } := by
    refine fun b x v0 v1 v2 v3 h => ⟨fun p hp => ?_⟩
    cases p <;> first | exact h.same _ hp | cases hp
  unfold wipePolicy
  repeat' first
    | fail_if_no_progress (with_reducible apply hset)
    | with_reducible exact Only.refl _ _
    | with_reducible assumption
    | (with_reducible apply serve_only)
    | (with_reducible apply Only.foldl)
    | intro _
    | split
    | (with_reducible refine Only.snd (by assumption) ?_)
    | (with_reducible refine Only.fst (by assumption) ?_)
    | decide

theorem lifecycleChange_only (d : Dev) :
    Only [.chans, .reqs, .dones, .rings, .plans, .siteOf, .mapTs, .cqs, .mem, .stks, .dscs, .sites, .deliveries, .lnk, .col, .slv,
        .solves, .wipes, .sec, .health, .stm, .trc, .pwr, .free] d (lifecycleChange d) := by
  unfold lifecycleChange
  repeat' first
    | with_reducible exact Only.refl _ _
    | with_reducible assumption
    | (with_reducible apply Only.step (beginRelease_only _ _))
    | (with_reducible apply Only.step (beginWipe_only _ _ _))
    | (with_reducible apply serve_only)
    | (with_reducible apply Only.foldl)
    | intro _
    | split
    | (with_reducible refine Only.snd (by assumption) ?_)
    | (with_reducible refine Only.fst (by assumption) ?_)
    | decide
    | (dsimp only; done)
    | dsimp only

theorem keyProvision_only (d : Dev) : Only [.chans, .reqs, .dones, .sec] d (keyProvision d) := by
  have hset : ∀ (b x : Dev) v0 v1 v2 v3,
      Only [.chans, .reqs, .dones, .sec] b x →
      Only [.chans, .reqs, .dones, .sec] b { x with chans := v0, reqs := v1, dones := v2, sec := v3 } := by
    refine fun b x v0 v1 v2 v3 h => ⟨fun p hp => ?_⟩
    cases p <;> first | exact h.same _ hp | cases hp
  unfold keyProvision
  repeat' first
    | fail_if_no_progress (with_reducible apply hset)
    | with_reducible exact Only.refl _ _
    | with_reducible assumption
    | (with_reducible apply serve_only)
    | (with_reducible apply Only.foldl)
    | intro _
    | split
    | (with_reducible refine Only.snd (by assumption) ?_)
    | (with_reducible refine Only.fst (by assumption) ?_)
    | decide
    | (dsimp only; done)
    | dsimp only

theorem fwUpdate_only (d : Dev) : Only [.chans, .reqs, .dones, .sec] d (fwUpdate d) := by
  have hset : ∀ (b x : Dev) v0 v1 v2 v3,
      Only [.chans, .reqs, .dones, .sec] b x →
      Only [.chans, .reqs, .dones, .sec] b { x with chans := v0, reqs := v1, dones := v2, sec := v3 } := by
    refine fun b x v0 v1 v2 v3 h => ⟨fun p hp => ?_⟩
    cases p <;> first | exact h.same _ hp | cases hp
  unfold fwUpdate
  repeat' first
    | fail_if_no_progress (with_reducible apply hset)
    | with_reducible exact Only.refl _ _
    | with_reducible assumption
    | (with_reducible apply serve_only)
    | (with_reducible apply Only.foldl)
    | intro _
    | split
    | (with_reducible refine Only.snd (by assumption) ?_)
    | (with_reducible refine Only.fst (by assumption) ?_)
    | decide
    | (dsimp only; done)
    | dsimp only

theorem drawChallenge_only (d : Dev) : Only [.sec, .free] d (Dev.drawChallenge d) := by
  have hset : ∀ (b x : Dev) v0 v1, Only [.sec, .free] b x → Only [.sec, .free] b { x with sec := v0, free := v1 } := by
    refine fun b x v0 v1 h => ⟨fun p hp => ?_⟩
    cases p <;> first | exact h.same _ hp | cases hp
  unfold Dev.drawChallenge
  repeat' first
    | fail_if_no_progress (with_reducible apply hset)
    | with_reducible exact Only.refl _ _
    | with_reducible assumption
    | (with_reducible apply Only.step (draw_only _))
    | (with_reducible apply Only.foldl)
    | intro _
    | split
    | (with_reducible refine Only.snd (by assumption) ?_)
    | (with_reducible refine Only.fst (by assumption) ?_)
    | decide

theorem submitResponse_only (d : Dev) : Only [.sec] d (Dev.submitResponse d) := by
  have hset : ∀ (b x : Dev) v0, Only [.sec] b x → Only [.sec] b { x with sec := v0 } := by
    refine fun b x v0 h => ⟨fun p hp => ?_⟩
    cases p <;> first | exact h.same _ hp | cases hp
  unfold Dev.submitResponse
  repeat' first
    | fail_if_no_progress (with_reducible apply hset)
    | with_reducible exact Only.refl _ _
    | with_reducible assumption
    | (with_reducible apply Only.foldl)
    | intro _
    | split

theorem lockDebug_only (d : Dev) : Only [.sec] d (Dev.lockDebug d) := by
  have hset : ∀ (b x : Dev) v0, Only [.sec] b x → Only [.sec] b { x with sec := v0 } := by
    refine fun b x v0 h => ⟨fun p hp => ?_⟩
    cases p <;> first | exact h.same _ hp | cases hp
  unfold Dev.lockDebug
  repeat' first
    | fail_if_no_progress (with_reducible apply hset)
    | with_reducible exact Only.refl _ _

/-! ### Regs -/

theorem writeBt_only (d : Dev) (o : Nat) (v : BitVec 64) : Only [.bt] d (Dev.writeBt d o v) := by
  unfold Dev.writeBt
  repeat' first
    | with_reducible exact Only.refl _ _
    | with_reducible assumption
    | (with_reducible apply Only.step (unqualify_only _))
    | (with_reducible apply Only.step (modBt_only _ _))
    | (with_reducible apply Only.foldl)
    | intro _
    | split
    | (with_reducible refine Only.snd (by assumption) ?_)
    | (with_reducible refine Only.fst (by assumption) ?_)
    | decide

theorem writePwr_only (d : Dev) (o : Nat) (v : BitVec 64) : Only [.lnk, .stm, .trc, .pwr, .mgt] d (Dev.writePwr d o v) := by
  have hset : ∀ (b x : Dev) v0 v1 v2 v3 v4,
      Only [.lnk, .stm, .trc, .pwr, .mgt] b x →
      Only [.lnk, .stm, .trc, .pwr, .mgt] b { x with lnk := v0, stm := v1, trc := v2, pwr := v3, mgt := v4 } := by
    refine fun b x v0 v1 v2 v3 v4 h => ⟨fun p hp => ?_⟩
    cases p <;> first | exact h.same _ hp | cases hp
  unfold Dev.writePwr
  repeat' first
    | fail_if_no_progress (with_reducible apply hset)
    | with_reducible exact Only.refl _ _
    | with_reducible assumption
    | (with_reducible apply Only.step (startLinks_only _))
    | (with_reducible apply Only.step (domainReq_only _ _ _))
    | (with_reducible apply Only.foldl)
    | intro _
    | split
    | (with_reducible refine Only.snd (by assumption) ?_)
    | (with_reducible refine Only.fst (by assumption) ?_)
    | decide

theorem writeHlt_only (d : Dev) (o : Nat) (v : BitVec 64) : Only [.health] d (Dev.writeHlt d o v) := by
  unfold Dev.writeHlt
  repeat' first
    | with_reducible exact Only.refl _ _
    | with_reducible assumption
    | (with_reducible apply Only.step (modHealth_only _ _))
    | (with_reducible apply Only.foldl)
    | intro _
    | split
    | (with_reducible refine Only.snd (by assumption) ?_)
    | (with_reducible refine Only.fst (by assumption) ?_)
    | decide

theorem writeDbg_only (d : Dev) (v : BitVec 64) : Only [.sec, .free] d (Dev.writeDbg d v) := by
  unfold Dev.writeDbg
  repeat' first
    | with_reducible exact Only.refl _ _
    | with_reducible assumption
    | (with_reducible apply Only.step (lockDebug_only _))
    | (with_reducible apply Only.step (submitResponse_only _))
    | (with_reducible apply Only.step (drawChallenge_only _))
    | (with_reducible apply Only.foldl)
    | intro _
    | split
    | (with_reducible refine Only.snd (by assumption) ?_)
    | (with_reducible refine Only.fst (by assumption) ?_)
    | decide

theorem writeSec_only (d : Dev) (o : Nat) (v : BitVec 64) : Only [.sec, .free] d (Dev.writeSec d o v) := by
  have hset : ∀ (b x : Dev) v0 v1, Only [.sec, .free] b x → Only [.sec, .free] b { x with sec := v0, free := v1 } := by
    refine fun b x v0 v1 h => ⟨fun p hp => ?_⟩
    cases p <;> first | exact h.same _ hp | cases hp
  unfold Dev.writeSec
  repeat' first
    | fail_if_no_progress (with_reducible apply hset)
    | with_reducible exact Only.refl _ _
    | with_reducible assumption
    | (with_reducible apply Only.step (writeDbg_only _ _))
    | (with_reducible apply Only.foldl)
    | intro _
    | split
    | (with_reducible refine Only.snd (by assumption) ?_)
    | (with_reducible refine Only.fst (by assumption) ?_)
    | decide

theorem writeMgt_only (d : Dev) (o : Nat) (v : BitVec 64) : Only [.bt, .mgt] d (Dev.writeMgt d o v) := by
  have hset : ∀ (b x : Dev) v0 v1, Only [.bt, .mgt] b x → Only [.bt, .mgt] b { x with bt := v0, mgt := v1 } := by
    refine fun b x v0 v1 h => ⟨fun p hp => ?_⟩
    cases p <;> first | exact h.same _ hp | cases hp
  unfold Dev.writeMgt
  repeat' first
    | fail_if_no_progress (with_reducible apply hset)
    | with_reducible exact Only.refl _ _
    | with_reducible assumption
    | (with_reducible apply Only.step (modBt_only _ _))
    | (with_reducible apply Only.foldl)
    | intro _
    | split
    | (with_reducible refine Only.snd (by assumption) ?_)
    | (with_reducible refine Only.fst (by assumption) ?_)
    | decide
    | (dsimp only; done)
    | dsimp only

theorem writeLnk_only (d : Dev) (o : Nat) (v : BitVec 64) : Only [.lnk] d (Dev.writeLnk d o v) := by
  have hset : ∀ (b x : Dev) v0, Only [.lnk] b x → Only [.lnk] b { x with lnk := v0 } := by
    refine fun b x v0 h => ⟨fun p hp => ?_⟩
    cases p <;> first | exact h.same _ hp | cases hp
  unfold Dev.writeLnk
  repeat' first
    | fail_if_no_progress (with_reducible apply hset)
    | with_reducible exact Only.refl _ _
    | with_reducible assumption
    | (with_reducible apply Only.foldl)
    | intro _
    | split
    | (with_reducible refine Only.snd (by assumption) ?_)
    | (with_reducible refine Only.fst (by assumption) ?_)
    | decide
    | (dsimp only; done)
    | dsimp only

theorem writeStm_only (d : Dev) (o : Nat) (v : BitVec 64) : Only [.stm, .trc, .pwr] d (Dev.writeStm d o v) := by
  have hset : ∀ (b x : Dev) v0 v1 v2,
      Only [.stm, .trc, .pwr] b x →
      Only [.stm, .trc, .pwr] b { x with stm := v0, trc := v1, pwr := v2 } := by
    refine fun b x v0 v1 v2 h => ⟨fun p hp => ?_⟩
    cases p <;> first | exact h.same _ hp | cases hp
  unfold Dev.writeStm
  repeat' first
    | fail_if_no_progress (with_reducible apply hset)
    | with_reducible exact Only.refl _ _
    | with_reducible assumption
    | (with_reducible apply Only.step (setEthertype_only _ _))
    | (with_reducible apply Only.step (popDivert_only _))
    | (with_reducible apply Only.foldl)
    | intro _
    | split
    | (with_reducible refine Only.snd (by assumption) ?_)
    | (with_reducible refine Only.fst (by assumption) ?_)
    | decide

theorem writeStk_only (d : Dev) (path : RegPath) (s o : Nat) (v : BitVec 64) : Only [.stks, .free] d (Dev.writeStk d path s o v) := by
  unfold Dev.writeStk
  repeat' first
    | with_reducible exact Only.refl _ _
    | with_reducible assumption
    | (with_reducible apply Only.step (writeRepair_only _ _ _))
    | (with_reducible apply Only.step (modStk_only _ _ _))
    | (with_reducible apply Only.foldl)
    | intro _
    | split
    | (with_reducible refine Only.snd (by assumption) ?_)
    | (with_reducible refine Only.fst (by assumption) ?_)
    | decide
    | (dsimp only; done)
    | dsimp only

theorem writeReg_only (d : Dev) (path : RegPath) (b : Block) (o : Nat) (v : BitVec 64) :
    Only [.bt, .fwp, .stks, .dscs, .sites, .rampStep, .lnk, .col, .slv, .sec, .health, .stm, .trc, .pwr, .mgt, .devErr,
        .free] d (Dev.writeReg d path b o v) := by
  have hset : ∀ (b x : Dev) v0 v1 v2 v3 v4 v5 v6 v7 v8 v9 v10 v11 v12 v13 v14 v15 v16,
      Only [.bt, .fwp, .stks, .dscs, .sites, .rampStep, .lnk, .col, .slv, .sec, .health, .stm, .trc, .pwr, .mgt, .devErr, .free] b x →
      Only [.bt, .fwp, .stks, .dscs, .sites, .rampStep, .lnk, .col, .slv, .sec, .health, .stm, .trc, .pwr, .mgt, .devErr, .free] b { x with
          bt := v0, fwp := v1, stks := v2, dscs := v3, sites := v4, rampStep := v5, lnk := v6, col := v7, slv := v8, sec := v9, health :=
          v10, stm := v11, trc := v12, pwr := v13, mgt := v14, devErr := v15, free := v16 } := by
    refine fun b x v0 v1 v2 v3 v4 v5 v6 v7 v8 v9 v10 v11 v12 v13 v14 v15 v16 h => ⟨fun p hp => ?_⟩
    cases p <;> first | exact h.same _ hp | cases hp
  unfold Dev.writeReg
  repeat' first
    | fail_if_no_progress (with_reducible apply hset)
    | with_reducible exact Only.refl _ _
    | with_reducible assumption
    | (with_reducible apply Only.step (writeStk_only _ _ _ _ _))
    | (with_reducible apply Only.step (writeStm_only _ _ _))
    | (with_reducible apply Only.step (writeLnk_only _ _ _))
    | (with_reducible apply Only.step (writeMgt_only _ _ _))
    | (with_reducible apply Only.step (writeSec_only _ _ _))
    | (with_reducible apply Only.step (writeHlt_only _ _ _))
    | (with_reducible apply Only.step (writePwr_only _ _ _))
    | (with_reducible apply Only.step (writeBt_only _ _ _))
    | (with_reducible apply Only.step (writeTrcCtrl_only _ _))
    | (with_reducible apply Only.step (setPortEn_only _ _ _))
    | (with_reducible apply Only.step (modSlv_only _ _ _))
    | (with_reducible apply Only.step (modLbk_only _ _ _))
    | (with_reducible apply Only.step (modCcr_only _ _ _))
    | (with_reducible apply Only.step (modFw_only _ _ _))
    | (with_reducible apply Only.step (modDsc_only _ _ _))
    | (with_reducible apply Only.step (modSite_only _ _ _))
    | (with_reducible apply Only.foldl)
    | intro _
    | split
    | (with_reducible refine Only.snd (by assumption) ?_)
    | (with_reducible refine Only.fst (by assumption) ?_)
    | decide
    | (dsimp only; done)
    | dsimp only

theorem setDevErr_only (d : Dev) (i : Nat) : Only [.devErr] d (Dev.setDevErr d i) := by
  have hset : ∀ (b x : Dev) v0, Only [.devErr] b x → Only [.devErr] b { x with devErr := v0 } := by
    refine fun b x v0 h => ⟨fun p hp => ?_⟩
    cases p <;> first | exact h.same _ hp | cases hp
  unfold Dev.setDevErr
  repeat' first
    | fail_if_no_progress (with_reducible apply hset)
    | with_reducible exact Only.refl _ _

theorem spaceWrite_only (d : Dev) (path : RegPath) (off : Nat) (whole : Bool) (v : BitVec 64) :
    Only [.bt, .fwp, .stks, .dscs, .sites, .rampStep, .lnk, .col, .slv, .sec, .health, .stm, .trc, .pwr, .mgt, .devErr,
        .free] d (Dev.spaceWrite d path off whole v) := by
  unfold Dev.spaceWrite
  repeat' first
    | with_reducible exact Only.refl _ _
    | with_reducible assumption
    | (with_reducible apply Only.step (setDevErr_only _ _))
    | (with_reducible apply Only.step (writeReg_only _ _ _ _ _))
    | (with_reducible apply Only.foldl)
    | intro _
    | split
    | (with_reducible refine Only.snd (by assumption) ?_)
    | (with_reducible refine Only.fst (by assumption) ?_)
    | decide

theorem spaceRead_only (d : Dev) (path : RegPath) (off : Nat) : Only [.devErr] d (Dev.spaceRead d path off).2 := by
  unfold Dev.spaceRead
  repeat' first
    | with_reducible exact Only.refl _ _
    | with_reducible assumption
    | (with_reducible apply Only.step (setDevErr_only _ _))
    | (with_reducible apply Only.foldl)
    | intro _
    | split
    | (with_reducible refine Only.snd (by assumption) ?_)
    | (with_reducible refine Only.fst (by assumption) ?_)
    | decide

theorem bar4Read_only (d : Dev) (func off : Nat) : Only [.devErr] d (Dev.bar4Read d func off).2 := by
  unfold Dev.bar4Read
  repeat' first
    | with_reducible exact Only.refl _ _
    | with_reducible assumption
    | (with_reducible apply Only.step (spaceRead_only _ _ _))
    | (with_reducible apply Only.foldl)
    | intro _
    | split
    | (with_reducible refine Only.snd (by assumption) ?_)
    | (with_reducible refine Only.fst (by assumption) ?_)
    | decide

theorem writeMbx_only (d : Dev) (c o : Nat) (v : BitVec 64) : Only [.chans, .reqs, .dones, .msix] d (Dev.writeMbx d c o v) := by
  unfold Dev.writeMbx
  repeat' first
    | with_reducible exact Only.refl _ _
    | with_reducible assumption
    | (with_reducible apply Only.step (resetChan_only _ _))
    | (with_reducible apply Only.step (pop_only _ _))
    | (with_reducible apply Only.step (ring_only _ _))
    | (with_reducible apply Only.step (modChan_only _ _ _))
    | (with_reducible apply Only.foldl)
    | intro _
    | split
    | (with_reducible refine Only.snd (by assumption) ?_)
    | (with_reducible refine Only.fst (by assumption) ?_)
    | decide

theorem writeCq_only (d : Dev) (func : Fin 5) (w : Fin 72) (o : Nat) (v : BitVec 64) :
    Only [.bt, .fwp, .cqs, .stks, .dscs, .sites, .rampStep, .lnk, .col, .slv, .sec, .health, .stm, .trc, .pwr, .mgt, .devErr,
        .free] d (Dev.writeCq d func w o v) := by
  unfold Dev.writeCq
  repeat' first
    | with_reducible exact Only.refl _ _
    | with_reducible assumption
    | (with_reducible apply Only.step (writeReg_only _ _ _ _ _))
    | (with_reducible apply Only.step (cqTailWrite_only _ _ _ _))
    | (with_reducible apply Only.step (modCq_only _ _ _))
    | (with_reducible apply Only.foldl)
    | intro _
    | split
    | (with_reducible refine Only.snd (by assumption) ?_)
    | (with_reducible refine Only.fst (by assumption) ?_)
    | decide

/-! ### Access -/

theorem pathWrite_only (d : Dev) (path : RegPath) (off : Nat) (v : BitVec 64) :
    Only [.bt, .fwp, .stks, .dscs, .sites, .rampStep, .lnk, .col, .slv, .sec, .health, .stm, .trc, .pwr, .mgt, .devErr,
        .free] d (Dev.pathWrite d path off v) := by
  unfold Dev.pathWrite
  repeat' first
    | with_reducible exact Only.refl _ _
    | with_reducible assumption
    | (with_reducible apply Only.step (spaceWrite_only _ _ _ _ _))
    | (with_reducible apply Only.step (writeReg_only _ _ _ _ _))
    | (with_reducible apply Only.foldl)
    | intro _
    | split
    | (with_reducible refine Only.snd (by assumption) ?_)
    | (with_reducible refine Only.fst (by assumption) ?_)
    | decide

theorem divertPop_only (path : RegPath) (d : Dev) :
    Only [.bt, .fwp, .stks, .dscs, .sites, .rampStep, .lnk, .col, .slv, .sec, .health, .stm, .trc, .pwr, .mgt, .devErr,
        .free] d (divertPop path d) := by
  unfold divertPop
  repeat' first
    | with_reducible exact Only.refl _ _
    | with_reducible assumption
    | (with_reducible apply Only.step (pathWrite_only _ _ _ _))
    | (with_reducible apply Only.foldl)
    | intro _
    | split
    | (with_reducible refine Only.snd (by assumption) ?_)
    | (with_reducible refine Only.fst (by assumption) ?_)
    | decide

theorem ethertypeWrite_only (path : RegPath) (v : BitVec 16) (d : Dev) :
    Only [.bt, .fwp, .stks, .dscs, .sites, .rampStep, .lnk, .col, .slv, .sec, .health, .stm, .trc, .pwr, .mgt, .devErr,
        .free] d (ethertypeWrite path v d) := by
  unfold ethertypeWrite
  repeat' first
    | with_reducible exact Only.refl _ _
    | with_reducible assumption
    | (with_reducible apply Only.step (pathWrite_only _ _ _ _))
    | (with_reducible apply Only.foldl)
    | intro _
    | split
    | (with_reducible refine Only.snd (by assumption) ?_)
    | (with_reducible refine Only.fst (by assumption) ?_)
    | decide

theorem traceCtrlWrite_only (path : RegPath) (v : BitVec 64) (d : Dev) :
    Only [.bt, .fwp, .stks, .dscs, .sites, .rampStep, .lnk, .col, .slv, .sec, .health, .stm, .trc, .pwr, .mgt, .devErr,
        .free] d (traceCtrlWrite path v d) := by
  unfold traceCtrlWrite
  repeat' first
    | with_reducible exact Only.refl _ _
    | with_reducible assumption
    | (with_reducible apply Only.step (pathWrite_only _ _ _ _))
    | (with_reducible apply Only.foldl)
    | intro _
    | split
    | (with_reducible refine Only.snd (by assumption) ?_)
    | (with_reducible refine Only.fst (by assumption) ?_)
    | decide

theorem cfgDone_only (path : RegPath) (d : Dev) :
    Only [.bt, .fwp, .stks, .dscs, .sites, .rampStep, .lnk, .col, .slv, .sec, .health, .stm, .trc, .pwr, .mgt, .devErr,
        .free] d (cfgDone path d) := by
  unfold cfgDone
  repeat' first
    | with_reducible exact Only.refl _ _
    | with_reducible assumption
    | (with_reducible apply Only.step (pathWrite_only _ _ _ _))
    | (with_reducible apply Only.foldl)
    | intro _
    | split
    | (with_reducible refine Only.snd (by assumption) ?_)
    | (with_reducible refine Only.fst (by assumption) ?_)
    | decide

theorem domainPowerUp_only (path : RegPath) (k : BitVec 8) (d : Dev) :
    Only [.bt, .fwp, .stks, .dscs, .sites, .rampStep, .lnk, .col, .slv, .sec, .health, .stm, .trc, .pwr, .mgt, .devErr,
        .free] d (domainPowerUp path k d) := by
  unfold domainPowerUp
  repeat' first
    | with_reducible exact Only.refl _ _
    | with_reducible assumption
    | (with_reducible apply Only.step (pathWrite_only _ _ _ _))
    | (with_reducible apply Only.foldl)
    | intro _
    | split
    | (with_reducible refine Only.snd (by assumption) ?_)
    | (with_reducible refine Only.fst (by assumption) ?_)
    | decide

theorem domainPowerDown_only (path : RegPath) (k : BitVec 8) (d : Dev) :
    Only [.bt, .fwp, .stks, .dscs, .sites, .rampStep, .lnk, .col, .slv, .sec, .health, .stm, .trc, .pwr, .mgt, .devErr,
        .free] d (domainPowerDown path k d) := by
  unfold domainPowerDown
  repeat' first
    | with_reducible exact Only.refl _ _
    | with_reducible assumption
    | (with_reducible apply Only.step (pathWrite_only _ _ _ _))
    | (with_reducible apply Only.foldl)
    | intro _
    | split
    | (with_reducible refine Only.snd (by assumption) ?_)
    | (with_reducible refine Only.fst (by assumption) ?_)
    | decide

theorem newChal_only (path : RegPath) (d : Dev) :
    Only [.bt, .fwp, .stks, .dscs, .sites, .rampStep, .lnk, .col, .slv, .sec, .health, .stm, .trc, .pwr, .mgt, .devErr,
        .free] d (newChal path d) := by
  unfold newChal
  repeat' first
    | with_reducible exact Only.refl _ _
    | with_reducible assumption
    | (with_reducible apply Only.step (pathWrite_only _ _ _ _))
    | (with_reducible apply Only.foldl)
    | intro _
    | split
    | (with_reducible refine Only.snd (by assumption) ?_)
    | (with_reducible refine Only.fst (by assumption) ?_)
    | decide

theorem submit_only (path : RegPath) (d : Dev) :
    Only [.bt, .fwp, .stks, .dscs, .sites, .rampStep, .lnk, .col, .slv, .sec, .health, .stm, .trc, .pwr, .mgt, .devErr,
        .free] d (submit path d) := by
  unfold submit
  repeat' first
    | with_reducible exact Only.refl _ _
    | with_reducible assumption
    | (with_reducible apply Only.step (pathWrite_only _ _ _ _))
    | (with_reducible apply Only.foldl)
    | intro _
    | split
    | (with_reducible refine Only.snd (by assumption) ?_)
    | (with_reducible refine Only.fst (by assumption) ?_)
    | decide

theorem lock_only (path : RegPath) (d : Dev) :
    Only [.bt, .fwp, .stks, .dscs, .sites, .rampStep, .lnk, .col, .slv, .sec, .health, .stm, .trc, .pwr, .mgt, .devErr,
        .free] d (lock path d) := by
  unfold lock
  repeat' first
    | with_reducible exact Only.refl _ _
    | with_reducible assumption
    | (with_reducible apply Only.step (pathWrite_only _ _ _ _))
    | (with_reducible apply Only.foldl)
    | intro _
    | split
    | (with_reducible refine Only.snd (by assumption) ?_)
    | (with_reducible refine Only.fst (by assumption) ?_)
    | decide

theorem fuseSpareRow_only (path : RegPath) (s : Fin 16) (die : Fin 2) (bank : Fin 128) (row : Fin 1024) (d : Dev) :
    Only [.bt, .fwp, .stks, .dscs, .sites, .rampStep, .lnk, .col, .slv, .sec, .health, .stm, .trc, .pwr, .mgt, .devErr,
        .free] d (fuseSpareRow path s die bank row d) := by
  unfold fuseSpareRow
  repeat' first
    | with_reducible exact Only.refl _ _
    | with_reducible assumption
    | (with_reducible apply Only.step (pathWrite_only _ _ _ _))
    | (with_reducible apply Only.foldl)
    | intro _
    | split
    | (with_reducible refine Only.snd (by assumption) ?_)
    | (with_reducible refine Only.fst (by assumption) ?_)
    | decide

theorem fuseSpareBank_only (path : RegPath) (s : Fin 16) (die : Fin 2) (bank : Fin 128) (row : Fin 1024) (d : Dev) :
    Only [.bt, .fwp, .stks, .dscs, .sites, .rampStep, .lnk, .col, .slv, .sec, .health, .stm, .trc, .pwr, .mgt, .devErr,
        .free] d (fuseSpareBank path s die bank row d) := by
  unfold fuseSpareBank
  repeat' first
    | with_reducible exact Only.refl _ _
    | with_reducible assumption
    | (with_reducible apply Only.step (pathWrite_only _ _ _ _))
    | (with_reducible apply Only.foldl)
    | intro _
    | split
    | (with_reducible refine Only.snd (by assumption) ?_)
    | (with_reducible refine Only.fst (by assumption) ?_)
    | decide

theorem rawRead_only (path : RegPath) (s : Fin 16) (die : Fin 2) (bank : Fin 128) (row : Fin 1024) (d : Dev) :
    Only [.bt, .fwp, .stks, .dscs, .sites, .rampStep, .lnk, .col, .slv, .sec, .health, .stm, .trc, .pwr, .mgt, .devErr,
        .free] d (rawRead path s die bank row d) := by
  unfold rawRead
  repeat' first
    | with_reducible exact Only.refl _ _
    | with_reducible assumption
    | (with_reducible apply Only.step (pathWrite_only _ _ _ _))
    | (with_reducible apply Only.foldl)
    | intro _
    | split
    | (with_reducible refine Only.snd (by assumption) ?_)
    | (with_reducible refine Only.fst (by assumption) ?_)
    | decide

theorem pageWrite_only (d : Dev) (func c off : Nat) (whole : Bool) (v : BitVec 64) :
    Only [.chans, .reqs, .dones, .msix, .devErr] d (Dev.pageWrite d func c off whole v) := by
  unfold Dev.pageWrite
  repeat' first
    | with_reducible exact Only.refl _ _
    | with_reducible assumption
    | (with_reducible apply Only.step (writeMbx_only _ _ _ _))
    | (with_reducible apply Only.step (setDevErr_only _ _))
    | (with_reducible apply Only.foldl)
    | intro _
    | split
    | (with_reducible refine Only.snd (by assumption) ?_)
    | (with_reducible refine Only.fst (by assumption) ?_)
    | decide

theorem queueWrite_only (d : Dev) (func : Fin 5) (w : Fin 72) (off : Nat) (whole : Bool) (v : BitVec 64) :
    Only [.bt, .fwp, .cqs, .stks, .dscs, .sites, .rampStep, .lnk, .col, .slv, .sec, .health, .stm, .trc, .pwr, .mgt, .devErr,
        .free] d (Dev.queueWrite d func w off whole v) := by
  unfold Dev.queueWrite
  repeat' first
    | with_reducible exact Only.refl _ _
    | with_reducible assumption
    | (with_reducible apply Only.step (writeCq_only _ _ _ _ _))
    | (with_reducible apply Only.step (setDevErr_only _ _))
    | (with_reducible apply Only.foldl)
    | intro _
    | split
    | (with_reducible refine Only.snd (by assumption) ?_)
    | (with_reducible refine Only.fst (by assumption) ?_)
    | decide

theorem registerWrite_only (t : RegTarget) (data : List Byte) (d : Dev) :
    Only [.bt, .fwp, .chans, .reqs, .dones, .msix, .cqs, .stks, .dscs, .sites, .rampStep, .lnk, .col, .slv, .sec, .health, .stm, .trc,
        .pwr, .mgt, .msixTab, .devErr, .free] d (registerWrite t data d) := by
  have hset : ∀ (b x : Dev) v0 v1 v2 v3 v4 v5 v6 v7 v8 v9 v10 v11 v12 v13 v14 v15 v16 v17 v18 v19 v20 v21 v22,
      Only [.bt, .fwp, .chans, .reqs, .dones, .msix, .cqs, .stks, .dscs, .sites, .rampStep, .lnk, .col, .slv, .sec, .health, .stm, .trc,
          .pwr, .mgt, .msixTab, .devErr, .free] b x →
      Only [.bt, .fwp, .chans, .reqs, .dones, .msix, .cqs, .stks, .dscs, .sites, .rampStep, .lnk, .col, .slv, .sec, .health, .stm, .trc,
          .pwr, .mgt, .msixTab, .devErr, .free] b { x with
          bt := v0, fwp := v1, chans := v2, reqs := v3, dones := v4, msix := v5, cqs := v6, stks := v7, dscs := v8, sites := v9,
          rampStep := v10, lnk := v11, col := v12, slv := v13, sec := v14, health := v15, stm := v16, trc := v17, pwr := v18, mgt := v19,
          msixTab := v20, devErr := v21, free := v22 } := by
    refine fun b x v0 v1 v2 v3 v4 v5 v6 v7 v8 v9 v10 v11 v12 v13 v14 v15 v16 v17 v18 v19 v20 v21 v22 h => ⟨fun p hp => ?_⟩
    cases p <;> first | exact h.same _ hp | cases hp
  unfold registerWrite
  repeat' first
    | fail_if_no_progress (with_reducible apply hset)
    | with_reducible exact Only.refl _ _
    | with_reducible assumption
    | (with_reducible apply Only.step (queueWrite_only _ _ _ _ _ _))
    | (with_reducible apply Only.step (pageWrite_only _ _ _ _ _ _))
    | (with_reducible apply Only.step (spaceWrite_only _ _ _ _ _))
    | (with_reducible apply Only.step (windowWrite_only _ _ _ _))
    | (with_reducible apply Only.step (releaseMsix_only _ _))
    | (with_reducible apply Only.foldl)
    | intro _
    | split
    | (with_reducible refine Only.snd (by assumption) ?_)
    | (with_reducible refine Only.fst (by assumption) ?_)
    | decide

/-! ### Mgt -/

theorem modMgt_only (d : Dev) (f : Mgt → Mgt) : Only [.mgt] d (Dev.modMgt d f) := by
  have hset : ∀ (b x : Dev) v0, Only [.mgt] b x → Only [.mgt] b { x with mgt := v0 } := by
    refine fun b x v0 h => ⟨fun p hp => ?_⟩
    cases p <;> first | exact h.same _ hp | cases hp
  unfold Dev.modMgt
  repeat' first
    | fail_if_no_progress (with_reducible apply hset)
    | with_reducible exact Only.refl _ _

theorem accErr_only (d : Dev) : Only [.mgt] d (Dev.accErr d) := by
  unfold Dev.accErr
  repeat' first
    | with_reducible exact Only.refl _ _
    | with_reducible assumption
    | (with_reducible apply Only.step (modMgt_only _ _))
    | (with_reducible apply Only.foldl)
    | intro _
    | split
    | (with_reducible refine Only.snd (by assumption) ?_)
    | (with_reducible refine Only.fst (by assumption) ?_)
    | decide

/-- A frame changes the registers of the port, and what it does when it is of the right length. -/
theorem frame_only {m : List Part} {act : Dev → Dev} (hs : m.contains .mgt = true) (ha : ∀ d, Only m d (act d)) (d : Dev) (edges : Nat)
    (cmd : BitVec 8) (n : Nat) (miso : List Byte) : Only m d (d.frame edges cmd n miso act) := by
  have hm : m.all m.contains = true := by simp
  have md : ∀ (e : Dev) (f : Mgt → Mgt), Only m d e → Only m d (e.modMgt f) :=
      fun e f g => Only.step (modMgt_only _ _) (by simpa using hs) g
  unfold Dev.frame
  split
  · exact Only.refl _ _
  · dsimp only
    split
    · exact Only.step (ha _) hm (md _ _ (Only.refl _ _))
    · exact md _ _ (md _ _ (Only.refl _ _))

theorem status_only (cmd : BitVec 8) (edges : Nat) (d : Dev) : Only [.mgt] d (status cmd edges d) :=
  frame_only rfl (fun d => Only.refl _ d) d _ _ _ _

theorem regRead_only (addr : BitVec 48) (edges : Nat) (d : Dev) : Only [.mgt] d (regRead addr edges d) := by
  unfold regRead
  repeat' first
    | with_reducible exact Only.refl _ _
    | with_reducible assumption
    | (with_reducible apply frame_only)
    | (with_reducible apply Only.step (accErr_only _))
    | (with_reducible apply Only.step (modMgt_only _ _))
    | (with_reducible apply Only.foldl)
    | intro _
    | split
    | (with_reducible refine Only.snd (by assumption) ?_)
    | (with_reducible refine Only.fst (by assumption) ?_)
    | decide
    | (dsimp only; done)
    | dsimp only

theorem regWrite_only (addr : BitVec 48) (data : BitVec 64) (edges : Nat) (d : Dev) : Only [.mgt] d (regWrite addr data edges d) := by
  unfold regWrite
  repeat' first
    | with_reducible exact Only.refl _ _
    | with_reducible assumption
    | (with_reducible apply frame_only)
    | (with_reducible apply Only.step (accErr_only _))
    | (with_reducible apply Only.step (modMgt_only _ _))
    | (with_reducible apply Only.foldl)
    | intro _
    | split
    | (with_reducible refine Only.snd (by assumption) ?_)
    | (with_reducible refine Only.fst (by assumption) ?_)
    | decide
    | (dsimp only; done)
    | dsimp only

theorem mgtAccessDone_only (d : Dev) :
    Only [.bt, .fwp, .stks, .dscs, .sites, .rampStep, .lnk, .col, .slv, .sec, .health, .stm, .trc, .pwr, .mgt, .devErr,
        .free] d (mgtAccessDone d) := by
  unfold mgtAccessDone
  repeat' first
    | with_reducible exact Only.refl _ _
    | with_reducible assumption
    | (with_reducible apply Only.step (accErr_only _))
    | (with_reducible apply Only.step (modMgt_only _ _))
    | (with_reducible apply Only.step (pathWrite_only _ _ _ _))
    | (with_reducible apply Only.foldl)
    | intro _
    | split
    | (with_reducible refine Only.snd (by assumption) ?_)
    | (with_reducible refine Only.fst (by assumption) ?_)
    | decide
    | (dsimp only; done)
    | dsimp only

theorem dataRead_only (edges : Nat) (d : Dev) : Only [.mgt] d (dataRead edges d) :=
  frame_only rfl (fun d => Only.refl _ d) d _ _ _ _

theorem channel7_only {m : List Part} {f : Dev → Dev} (hs : m.contains .mgt = true) (hf : ∀ d, Only m d (f d)) (d : Dev) :
    Only m d (d.channel7 f) := by
  unfold Dev.channel7
  split
  · exact hf d
  · exact Only.step (accErr_only _) (by simpa using hs) (Only.refl _ _)

theorem ch7Write_only (off n : BitVec 16) (data : List Byte) (edges : Nat) (d : Dev) :
    Only [.chans, .mgt] d (ch7Write off n data edges d) := by
  unfold ch7Write
  repeat' first
    | with_reducible exact Only.refl _ _
    | with_reducible assumption
    | (with_reducible apply channel7_only)
    | (with_reducible apply frame_only)
    | (with_reducible apply Only.step (accErr_only _))
    | (with_reducible apply Only.step (windowWrite_only _ _ _ _))
    | (with_reducible apply Only.foldl)
    | intro _
    | split
    | (with_reducible refine Only.snd (by assumption) ?_)
    | (with_reducible refine Only.fst (by assumption) ?_)
    | decide

theorem ch7Ring_only (edges : Nat) (d : Dev) : Only [.chans, .mgt] d (ch7Ring edges d) := by
  unfold ch7Ring
  repeat' first
    | with_reducible exact Only.refl _ _
    | with_reducible assumption
    | (with_reducible apply channel7_only)
    | (with_reducible apply frame_only)
    | (with_reducible apply Only.step (accErr_only _))
    | (with_reducible apply Only.step (ring_only _ _))
    | (with_reducible apply Only.foldl)
    | intro _
    | split
    | (with_reducible refine Only.snd (by assumption) ?_)
    | (with_reducible refine Only.fst (by assumption) ?_)
    | decide
    | (dsimp only; done)
    | dsimp only

theorem ch7Read_only (off n : BitVec 16) (edges : Nat) (d : Dev) : Only [.mgt] d (ch7Read off n edges d) := by
  unfold ch7Read
  repeat' first
    | with_reducible exact Only.refl _ _
    | with_reducible assumption
    | (with_reducible apply frame_only)
    | (with_reducible apply Only.step (accErr_only _))
    | (with_reducible apply Only.foldl)
    | intro _
    | split
    | (with_reducible refine Only.snd (by assumption) ?_)
    | (with_reducible refine Only.fst (by assumption) ?_)
    | decide

theorem ch7Pop_only (edges : Nat) (d : Dev) : Only [.chans, .msix, .mgt] d (ch7Pop edges d) := by
  unfold ch7Pop
  repeat' first
    | with_reducible exact Only.refl _ _
    | with_reducible assumption
    | (with_reducible apply channel7_only)
    | (with_reducible apply frame_only)
    | (with_reducible apply Only.step (pop_only _ _))
    | (with_reducible apply Only.foldl)
    | intro _
    | split
    | (with_reducible refine Only.snd (by assumption) ?_)
    | (with_reducible refine Only.fst (by assumption) ?_)
    | decide

theorem latchRead_only (edges : Nat) (d : Dev) : Only [.mgt] d (latchRead edges d) :=
  frame_only rfl (fun d => Only.refl _ d) d _ _ _ _

theorem latchPop_only (edges : Nat) (d : Dev) : Only [.health, .mgt] d (latchPop edges d) := by
  unfold latchPop
  repeat' first
    | with_reducible exact Only.refl _ _
    | with_reducible assumption
    | (with_reducible apply frame_only)
    | (with_reducible apply Only.step (accErr_only _))
    | (with_reducible apply Only.step (modHealth_only _ _))
    | (with_reducible apply Only.foldl)
    | intro _
    | split
    | (with_reducible refine Only.snd (by assumption) ?_)
    | (with_reducible refine Only.fst (by assumption) ?_)
    | decide

/-! ### Jtag -/

theorem tap_only (d : Dev) (f : Jtag → Jtag) : Only [.jtag] d (Dev.tap d f) := by
  have hset : ∀ (b x : Dev) v0, Only [.jtag] b x → Only [.jtag] b { x with jtag := v0 } := by
    refine fun b x v0 h => ⟨fun p hp => ?_⟩
    cases p <;> first | exact h.same _ hp | cases hp
  unfold Dev.tap
  repeat' first
    | fail_if_no_progress (with_reducible apply hset)
    | with_reducible exact Only.refl _ _
    | with_reducible assumption
    | (with_reducible apply Only.foldl)
    | intro _
    | split

theorem idcode_only (d : Dev) : Only [.jtag] d (idcode d) := by
  unfold idcode
  repeat' first
    | with_reducible exact Only.refl _ _
    | with_reducible assumption
    | (with_reducible apply Only.step (tap_only _ _))
    | (with_reducible apply Only.foldl)
    | intro _
    | split
    | (with_reducible refine Only.snd (by assumption) ?_)
    | (with_reducible refine Only.fst (by assumption) ?_)
    | decide

theorem samplePreload_only (bits : List Bool) (d : Dev) : Only [.jtag, .free] d (samplePreload bits d) := by
  unfold samplePreload
  repeat' first
    | with_reducible exact Only.refl _ _
    | with_reducible assumption
    | (with_reducible apply Only.step (tap_only _ _))
    | (with_reducible apply Only.step (draw_only _))
    | (with_reducible apply Only.foldl)
    | intro _
    | split
    | (with_reducible refine Only.snd (by assumption) ?_)
    | (with_reducible refine Only.fst (by assumption) ?_)
    | decide

theorem extest_only (d : Dev) : Only [.jtag] d (extest d) := by
  unfold extest
  repeat' first
    | with_reducible exact Only.refl _ _
    | with_reducible assumption
    | (with_reducible apply Only.step (tap_only _ _))
    | (with_reducible apply Only.foldl)
    | intro _
    | split
    | (with_reducible refine Only.snd (by assumption) ?_)
    | (with_reducible refine Only.fst (by assumption) ?_)
    | decide

theorem clamp_only (d : Dev) : Only [.jtag] d (clamp d) := by
  unfold clamp
  repeat' first
    | with_reducible exact Only.refl _ _
    | with_reducible assumption
    | (with_reducible apply Only.step (tap_only _ _))
    | (with_reducible apply Only.foldl)
    | intro _
    | split
    | (with_reducible refine Only.snd (by assumption) ?_)
    | (with_reducible refine Only.fst (by assumption) ?_)
    | decide

theorem highz_only (d : Dev) : Only [.jtag] d (highz d) := by
  unfold highz
  repeat' first
    | with_reducible exact Only.refl _ _
    | with_reducible assumption
    | (with_reducible apply Only.step (tap_only _ _))
    | (with_reducible apply Only.foldl)
    | intro _
    | split
    | (with_reducible refine Only.snd (by assumption) ?_)
    | (with_reducible refine Only.fst (by assumption) ?_)
    | decide

theorem ijtagSel_only (d : Dev) : Only [.jtag] d (ijtagSel d) := by
  unfold ijtagSel
  repeat' first
    | with_reducible exact Only.refl _ _
    | with_reducible assumption
    | (with_reducible apply Only.step (tap_only _ _))
    | (with_reducible apply Only.foldl)
    | intro _
    | split
    | (with_reducible refine Only.snd (by assumption) ?_)
    | (with_reducible refine Only.fst (by assumption) ?_)
    | decide

theorem bypass_only (code : BitVec 8) (tdi : List Bool) (d : Dev) : Only [.jtag] d (bypass code tdi d) := by
  unfold bypass
  repeat' first
    | with_reducible exact Only.refl _ _
    | with_reducible assumption
    | (with_reducible apply Only.step (tap_only _ _))
    | (with_reducible apply Only.foldl)
    | intro _
    | split
    | (with_reducible refine Only.snd (by assumption) ?_)
    | (with_reducible refine Only.fst (by assumption) ?_)
    | decide

theorem tapReset_only (d : Dev) : Only [.jtag] d (tapReset d) := by
  unfold tapReset
  repeat' first
    | with_reducible exact Only.refl _ _
    | with_reducible assumption
    | (with_reducible apply Only.step (tap_only _ _))
    | (with_reducible apply Only.foldl)
    | intro _
    | split
    | (with_reducible refine Only.snd (by assumption) ?_)
    | (with_reducible refine Only.fst (by assumption) ?_)
    | decide

theorem ijtagData_only (d : Dev) (bs : List Byte) : Only [.jtag] d (Dev.ijtagData d bs) := by
  have hset : ∀ (b x : Dev) v0, Only [.jtag] b x → Only [.jtag] b { x with jtag := v0 } := by
    refine fun b x v0 h => ⟨fun p hp => ?_⟩
    cases p <;> first | exact h.same _ hp | cases hp
  unfold Dev.ijtagData
  repeat' first
    | fail_if_no_progress (with_reducible apply hset)
    | with_reducible exact Only.refl _ _

theorem siteRead_only (d : Dev) (n : Nat) (bs : List Byte) : Only [.jtag] d (Dev.siteRead d n bs) := by
  have hset : ∀ (b x : Dev) v0, Only [.jtag] b x → Only [.jtag] b { x with jtag := v0 } := by
    refine fun b x v0 h => ⟨fun p hp => ?_⟩
    cases p <;> first | exact h.same _ hp | cases hp
  unfold Dev.siteRead
  repeat' first
    | fail_if_no_progress (with_reducible apply hset)
    | with_reducible exact Only.refl _ _
    | with_reducible assumption
    | (with_reducible apply Only.step (ijtagData_only _ _))
    | (with_reducible apply Only.foldl)
    | intro _
    | split
    | (with_reducible refine Only.snd (by assumption) ?_)
    | (with_reducible refine Only.fst (by assumption) ?_)
    | decide

theorem ijtagAccess_only (a : IjtagOp) (d : Dev) :
    Only [.bt, .fwp, .stks, .dscs, .sites, .rampStep, .lnk, .col, .slv, .sec, .health, .stm, .trc, .jtag, .pwr, .mgt, .devErr,
        .free] d (ijtagAccess a d) := by
  unfold ijtagAccess
  repeat' first
    | with_reducible exact Only.refl _ _
    | with_reducible assumption
    | (with_reducible apply Only.step (siteRead_only _ _ _))
    | (with_reducible apply Only.step (ijtagData_only _ _))
    | (with_reducible apply Only.step (spaceRead_only _ _ _))
    | (with_reducible apply Only.step (spaceWrite_only _ _ _ _ _))
    | (with_reducible apply Only.foldl)
    | intro _
    | split
    | (with_reducible refine Only.snd (by assumption) ?_)
    | (with_reducible refine Only.fst (by assumption) ?_)
    | decide

/-! ### Tick -/

theorem tickTimers_only (d : Dev) : Only [.lnk, .col] d (Dev.tickTimers d) := by
  have hset : ∀ (b x : Dev) v0 v1, Only [.lnk, .col] b x → Only [.lnk, .col] b { x with lnk := v0, col := v1 } := by
    refine fun b x v0 v1 h => ⟨fun p hp => ?_⟩
    cases p <;> first | exact h.same _ hp | cases hp
  unfold Dev.tickTimers
  repeat' first
    | fail_if_no_progress (with_reducible apply hset)
    | with_reducible exact Only.refl _ _

theorem startTests_only (d : Dev) : Only [.health, .pwr] d (Dev.startTests d) := by
  unfold Dev.startTests
  repeat' first
    | with_reducible exact Only.refl _ _
    | with_reducible assumption
    | (with_reducible apply Only.step (modHealth_only _ _))
    | (with_reducible apply Only.step (setDom_only _ _ _))
    | (with_reducible apply Only.foldl)
    | intro _
    | split
    | (with_reducible refine Only.snd (by assumption) ?_)
    | (with_reducible refine Only.fst (by assumption) ?_)
    | decide

theorem tickSites_only (d : Dev) : Only [.sites] d (Dev.tickSites d) := by
  have hset : ∀ (b x : Dev) v0, Only [.sites] b x → Only [.sites] b { x with sites := v0 } := by
    refine fun b x v0 h => ⟨fun p hp => ?_⟩
    cases p <;> first | exact h.same _ hp | cases hp
  unfold Dev.tickSites
  repeat' first
    | fail_if_no_progress (with_reducible apply hset)
    | with_reducible exact Only.refl _ _

theorem settleBits_only (d : Dev) :
    Only [.bt, .chans, .cqs, .dscs, .sites, .lnk, .col, .slv, .solves, .health, .stm, .pwr, .mgt, .devErr] d (Dev.settleBits d) := by
  have hset : ∀ (b x : Dev) v0 v1 v2 v3 v4 v5 v6 v7 v8 v9 v10 v11 v12 v13,
      Only [.bt, .chans, .cqs, .dscs, .sites, .lnk, .col, .slv, .solves, .health, .stm, .pwr, .mgt, .devErr] b x →
      Only [.bt, .chans, .cqs, .dscs, .sites, .lnk, .col, .slv, .solves, .health, .stm, .pwr, .mgt, .devErr] b { x with
          bt := v0, chans := v1, cqs := v2, dscs := v3, sites := v4, lnk := v5, col := v6, slv := v7, solves := v8, health := v9, stm :=
          v10, pwr := v11, mgt := v12, devErr := v13 } := by
    refine fun b x v0 v1 v2 v3 v4 v5 v6 v7 v8 v9 v10 v11 v12 v13 h => ⟨fun p hp => ?_⟩
    cases p <;> first | exact h.same _ hp | cases hp
  unfold Dev.settleBits
  repeat' first
    | fail_if_no_progress (with_reducible apply hset)
    | with_reducible exact Only.refl _ _

theorem tickBeat_only (d : Dev) : Only [.bt, .chans, .msix, .plans, .cqs, .lnk, .col, .health, .stm, .trc, .pwr] d (Dev.tickBeat d) := by
  have hset : ∀ (b x : Dev) v0 v1 v2 v3 v4 v5 v6 v7 v8 v9 v10,
      Only [.bt, .chans, .msix, .plans, .cqs, .lnk, .col, .health, .stm, .trc, .pwr] b x →
      Only [.bt, .chans, .msix, .plans, .cqs, .lnk, .col, .health, .stm, .trc, .pwr] b { x with
          bt := v0, chans := v1, msix := v2, plans := v3, cqs := v4, lnk := v5, col := v6, health := v7, stm := v8, trc := v9, pwr :=
          v10 } := by
    refine fun b x v0 v1 v2 v3 v4 v5 v6 v7 v8 v9 v10 h => ⟨fun p hp => ?_⟩
    cases p <;> first | exact h.same _ hp | cases hp
  unfold Dev.tickBeat
  repeat' first
    | fail_if_no_progress (with_reducible apply hset)
    | with_reducible exact Only.refl _ _
    | with_reducible assumption
    | (with_reducible apply Only.step (serveRamps_only _ _))
    | (with_reducible apply Only.step (startTests_only _))
    | (with_reducible apply Only.step (tickTimers_only _))
    | (with_reducible apply Only.step (modBt_only _ _))
    | (with_reducible apply Only.step (settleDomains_only _))
    | (with_reducible apply Only.step (gateHalted_only _))
    | (with_reducible apply Only.step (settlePlan_only _ _))
    | (with_reducible apply Only.step (settleOwned_only _))
    | (with_reducible apply Only.step (releaseDomains_only _))
    | (with_reducible apply Only.step (endDowns_only _))
    | (with_reducible apply Only.foldl)
    | intro _
    | split
    | (with_reducible refine Only.snd (by assumption) ?_)
    | (with_reducible refine Only.fst (by assumption) ?_)
    | decide

theorem cycle_only (d : Dev) :
    Only [.bt, .chans, .msix, .plans, .cqs, .mem, .stks, .dscs, .sites, .lnk, .col, .health, .stm, .trc, .pwr, .free] d (Dev.cycle d) := by
  unfold Dev.cycle
  repeat' first
    | with_reducible exact Only.refl _ _
    | with_reducible assumption
    | (with_reducible apply Only.step (tickBeat_only _))
    | (with_reducible apply Only.step (tickSites_only _))
    | (with_reducible apply Only.step (modBt_only _ _))
    | (with_reducible apply Only.step (readErrors_only _))
    | (with_reducible apply Only.foldl)
    | intro _
    | split
    | (with_reducible refine Only.snd (by assumption) ?_)
    | (with_reducible refine Only.fst (by assumption) ?_)
    | decide
    | (dsimp only; done)
    | dsimp only

theorem tick_only (d : Dev) :
    Only [.bt, .chans, .msix, .plans, .cqs, .mem, .stks, .dscs, .sites, .deliveries, .lnk, .col, .slv, .solves, .health, .stm, .trc,
        .pwr, .mgt, .devErr, .free] d (Dev.tick d) := by
  unfold Dev.tick
  repeat' first
    | with_reducible exact Only.refl _ _
    | with_reducible assumption
    | (with_reducible apply Only.step (cycle_only _))
    | (with_reducible apply Only.step (settleBits_only _))
    | (with_reducible apply Only.step (settlePosts_only _))
    | (with_reducible apply Only.foldl)
    | intro _
    | split
    | (with_reducible refine Only.snd (by assumption) ?_)
    | (with_reducible refine Only.fst (by assumption) ?_)
    | decide

end Sys2Proof.Machine
end

