-- ==== Sys2Proof/Laws/Lane.lean ====
section
/-! SUPPORT. The checks of the lane block and of MMV pass where no error in the hardware makes them fail (R162 to R164, R235). -/

namespace Sys2Proof.Machine

/-! ### Residues -/

theorem residueOk_mul (x y : Int) : residueOk x y (x * y) = true := by
  simp [residueOk, Int.mul_emod]

/-- Every rescale of an MMA passes its residue check (R164). -/
theorem rowResidues_true (w : WSet) (ops : List (Option (Dy × List Dy))) : rowResidues w ops = true := by
  unfold rowResidues
  refine List.all_eq_true.mpr fun j _ => List.all_eq_true.mpr fun b hb => ?_
  obtain ⟨i, hi, rfl⟩ := List.mem_iff_getElem.mp hb
  simp only [List.getElem_zipWith]
  split
  · exact residueOk_mul _ _
  · rfl

/-- Every rescale of an MMV passes its residue check (R235). -/
theorem mmvResidues_true (ops lane : List (Option (Dy × List Dy))) : mmvResidues ops lane = true := by
  unfold mmvResidues
  refine List.all_eq_true.mpr fun b hb => ?_
  obtain ⟨i, hi, rfl⟩ := List.mem_iff_getElem.mp hb
  simp only [List.getElem_zipWith]
  split
  · exact residueOk_mul _ _
  · rfl

/-! ### Sums of a stationary set -/

/-- The sum of lists of one length, element by element. -/
def addAll (n : Nat) (ls : List (List Int)) : List Int := ls.foldl (fun acc l => List.zipWith (· + ·) acc l) (List.replicate n 0)

theorem zipWith_add_length (a b : List Int) (n : Nat) (ha : a.length = n) (hb : b.length = n) :
    (List.zipWith (· + ·) a b).length = n := by simp [ha, hb]

/-- A map that respects element-wise sums of lists of length `n`, and zero, respects the sum of any number of them. -/
theorem addAll_map {n m : Nat} (f : List Int → List Int)
    (hf : ∀ a b : List Int, a.length = n → b.length = n → f (List.zipWith (· + ·) a b) = List.zipWith (· + ·) (f a) (f b))
    (h0 : f (List.replicate n 0) = List.replicate m 0) (ls : List (List Int)) (hl : ∀ l ∈ ls, l.length = n) :
    f (addAll n ls) = addAll m (ls.map f) := by
  unfold addAll
  rw [← h0, List.foldl_map]
  generalize hz : List.replicate n (0 : Int) = acc
  have hacc : acc.length = n := by simp [← hz]
  clear hz h0
  induction ls generalizing acc with
  | nil => rfl
  | cons l r ih =>
    have hl' : l.length = n := hl l (List.mem_cons_self ..)
    simp only [List.foldl_cons]
    rw [← hf acc l hacc hl']
    exact ih (fun x hx => hl x (List.mem_cons_of_mem _ hx)) _ (zipWith_add_length _ _ _ hacc hl')

theorem sum_zipWith_add : ∀ a b : List Int, a.length = b.length → (List.zipWith (· + ·) a b).sum = a.sum + b.sum
  | [], [], _ => rfl
  | x :: a, y :: b, h => by
    have := sum_zipWith_add a b (by simpa using h)
    simp only [List.zipWith_cons_cons, List.sum_cons, this]
    omega

/-- The sums of groups respect element-wise sums. -/
theorem chunkSums_add (g : Nat) : ∀ (k : Nat) (a b : List Int), a.length = b.length →
    (chunksOf g k (List.zipWith (· + ·) a b)).map List.sum =
      List.zipWith (· + ·) ((chunksOf g k a).map List.sum) ((chunksOf g k b).map List.sum)
  | 0, _, _, _ => rfl
  | k + 1, a, b, h => by
    simp only [chunksOf, List.map_cons, List.zipWith_cons_cons, List.take_zipWith, List.drop_zipWith]
    rw [sum_zipWith_add _ _ (by simp [h]), chunkSums_add g k _ _ (by simp [h])]

theorem chunkSums_zero (g : Nat) : ∀ k n : Nat, (chunksOf g k (List.replicate n (0 : Int))).map List.sum = List.replicate k 0
  | 0, _ => rfl
  | k + 1, n => by
    simp only [chunksOf, List.map_cons, List.take_replicate, List.drop_replicate, chunkSums_zero g k, List.replicate_succ]
    simp

theorem zipWith_mul_add : ∀ (a x y : List Int), x.length = y.length →
    List.zipWith (· * ·) a (List.zipWith (· + ·) x y) =
      List.zipWith (· + ·) (List.zipWith (· * ·) a x) (List.zipWith (· * ·) a y)
  | [], _, _, _ => by simp
  | _ :: _, [], [], _ => rfl
  | p :: a, u :: x, v :: y, h => by
    simp only [List.zipWith_cons_cons, zipWith_mul_add a x y (by simpa using h), Int.mul_add]

theorem zipWith_mul_zero : ∀ (a : List Int) (n : Nat), List.zipWith (· * ·) a (List.replicate n 0) = List.replicate (min a.length n) 0
  | [], _ => by simp
  | _ :: _, 0 => by simp
  | p :: a, n + 1 => by
    simp [List.replicate_succ, zipWith_mul_zero a n, Nat.succ_min_succ]

/-- Every position of a sum of lists is the sum of that position. -/
theorem addAll_getD (n i : Nat) (ls : List (List Int)) (hl : ∀ l ∈ ls, l.length = n) :
    (addAll n ls).getD i 0 = (ls.map (fun l => l.getD i 0)).sum := by
  have key : ∀ (ls : List (List Int)) (acc : List Int), acc.length = n → (∀ l ∈ ls, l.length = n) →
      (ls.foldl (fun acc l => List.zipWith (· + ·) acc l) acc).getD i 0 = acc.getD i 0 + (ls.map (fun l => l.getD i 0)).sum := by
    intro ls
    induction ls with
    | nil => intro acc _ _; simp
    | cons l r ih =>
      intro acc hacc hl
      have hl' : l.length = n := hl l (List.mem_cons_self ..)
      simp only [List.foldl_cons, List.map_cons, List.sum_cons]
      rw [ih _ (zipWith_add_length _ _ _ hacc hl') (fun x hx => hl x (List.mem_cons_of_mem _ hx))]
      have : (List.zipWith (· + ·) acc l).getD i 0 = acc.getD i 0 + l.getD i 0 := by
        simp only [List.getD_eq_getElem?_getD, List.getElem?_zipWith]
        by_cases h : i < n
        · simp [hacc, hl', h]
        · simp [hacc, hl', Nat.le_of_not_lt h]
      rw [this]
      omega
  have := key ls (List.replicate n 0) (by simp) hl
  rw [addAll, this]
  by_cases h : i < n <;> simp [List.getD_eq_getElem?_getD, h]

theorem sidesAgree_self (x : Int) : sidesAgree x x = true := by simp [sidesAgree]

theorem zipWith_sidesAgree_self : ∀ l : List Int, (List.zipWith sidesAgree l l).all id = true
  | [] => rfl
  | x :: l => by simp [sidesAgree_self]

/-- The load-sum check passes on what a WLOAD forms (R162). -/
theorem WSet.sumsOk_of_summed {w : WSet} (h : w.summed) : w.sumsOk = true := by
  obtain ⟨hs, hl⟩ := h
  simp only [setSums, Prod.mk.injEq] at hs
  unfold WSet.sumsOk
  simp only [hs.1, hs.2, beq_iff_eq]
  exact addAll_map (fun l => (chunksOf (laneGroup w.load.fmt w.load.gCode) (w.load.depth / laneGroup w.load.fmt w.load.gCode) l).map List.sum)
    (fun a b ha hb => chunkSums_add _ _ _ _ (ha.trans hb.symm)) (chunkSums_zero _ _ _)
    _ (by simp only [List.mem_map]; rintro _ ⟨l, hl', rfl⟩; simp [hl l hl'])

/-- The row check passes against a set that holds its sums (R163). -/
theorem rowCheck_of_summed {w : WSet} (h : w.summed) (aF g : Nat) (codes : List Nat) (outs : List Outlier) :
    rowCheck w aF g codes outs = true := by
  obtain ⟨hs, hl⟩ := h
  simp only [setSums, Prod.mk.injEq] at hs
  have hc : w.colSums = addAll w.load.depth (w.codes.map (fun l => l.map (elemSteps w.load.fmt))) := hs.1
  have hlen : ∀ l ∈ w.codes.map (fun l => l.map (elemSteps w.load.fmt)), l.length = w.load.depth := by
    simp only [List.mem_map]; rintro _ ⟨l, hl', rfl⟩; simp [hl l hl']
  unfold rowCheck
  simp only [Bool.and_eq_true]
  constructor
  · have := addAll_map (n := w.load.depth) (m := w.load.depth / g)
      (fun ws => (chunksOf g (w.load.depth / g) (List.zipWith (· * ·) (codes.map (elemSteps aF)) ws)).map List.sum)
      (fun a b ha hb => by rw [zipWith_mul_add _ _ _ (ha.trans hb.symm), chunkSums_add _ _ _ _ (by simp [ha, hb])])
      (by rw [zipWith_mul_zero, chunkSums_zero]) _ hlen
    rw [hc, this]
    simp only [addAll, List.foldl_map]
    exact zipWith_sidesAgree_self _
  · refine List.all_eq_true.mpr fun o _ => ?_
    split
    · rw [hc, addAll_getD _ _ _ hlen]
      have : ∀ (s : Int) (ls : List (List Int)), (ls.map (fun l => s * l.getD o.1 0)).sum = s * (ls.map (fun l => l.getD o.1 0)).sum := by
        intro s ls
        induction ls with
        | nil => simp
        | cons l r ih => simp only [List.map_cons, List.sum_cons, ih, Int.mul_add]
      rw [this]
      exact sidesAgree_self _
    · rfl

end Sys2Proof.Machine
end

