-- ==== Sys2Proof/Laws/Memory.lean ====
section
/-! SUPPORT. The memory: every operation over committed memory keeps its canonical form, a read after a write gives what was
written, and a write leaves every other byte alone. -/

namespace Sys2Proof.Machine

/-- The canonical form said over all entries: addresses rise, and no entry holds 0. -/
def Canon (m : List Host.Cell) : Prop := m.Pairwise (fun a b => a.1 < b.1) ∧ ∀ c ∈ m, c.2 ≠ 0

theorem cellsWf_iff_canon (m : List Host.Cell) : cellsWf m = true ↔ Canon m := by
  induction m with
  | nil => simp [cellsWf, Canon]
  | cons c r ih =>
    cases r with
    | nil => simp [cellsWf, Canon]
    | cons e t =>
      simp only [cellsWf, Bool.and_eq_true, bne_iff_ne, ne_eq, decide_eq_true_eq, ih, Canon, List.pairwise_cons,
        List.mem_cons]
      constructor
      · rintro ⟨⟨hb, hlt⟩, ⟨hr, ht⟩, hz⟩
        refine ⟨⟨?_, hr, ht⟩, ?_⟩
        · rintro x (rfl | hx)
          · exact hlt
          · exact lt_trans hlt (hr x hx)
        · rintro x (rfl | hx)
          · exact hb
          · exact hz x hx
      · rintro ⟨⟨h1, h2, h3⟩, h4⟩
        exact ⟨⟨h4 c (Or.inl rfl), h1 e (Or.inl rfl)⟩, ⟨h2, h3⟩, fun x hx => h4 x (Or.inr hx)⟩

theorem canon_filter {m : List Host.Cell} (h : Canon m) (p : Host.Cell → Bool) : Canon (m.filter p) :=
  ⟨h.1.filter p, fun c hc => h.2 c (List.mem_of_mem_filter hc)⟩

/-- The addresses of a run of cells lie in its span. -/
theorem mem_cellsFrom {c : Host.Cell} {a : Nat} {bs : List Byte} (h : c ∈ cellsFrom a bs) : a ≤ c.1 ∧ c.1 < a + bs.length := by
  induction bs generalizing a with
  | nil => simp [cellsFrom] at h
  | cons b bs ih =>
    simp only [cellsFrom, List.mem_cons] at h
    rcases h with rfl | h
    · simp
    · have := ih h
      simp only [List.length_cons]; omega

theorem cellsFrom_pairwise (a : Nat) (bs : List Byte) : (cellsFrom a bs).Pairwise (fun x y => x.1 < y.1) := by
  induction bs generalizing a with
  | nil => simp [cellsFrom]
  | cons b bs ih =>
    simp only [cellsFrom, List.pairwise_cons]
    exact ⟨fun x hx => by have := (mem_cellsFrom hx).1; omega, ih _⟩

theorem canon_splice {m new : List Host.Cell} {a n : Nat} (hm : Canon m) (hn : Canon new)
    (hs : ∀ c ∈ new, a ≤ c.1 ∧ c.1 < a + n) : Canon (splice m a n new) := by
  have hl := canon_filter hm (fun c => decide (c.1 < a))
  have hr := canon_filter hm (fun c => decide (a + n ≤ c.1))
  refine ⟨?_, ?_⟩
  · unfold splice
    refine List.pairwise_append.2 ⟨List.pairwise_append.2 ⟨hl.1, hn.1, ?_⟩, hr.1, ?_⟩
    · intro x hx y hy
      have := (List.mem_filter.1 hx).2; have := hs y hy; simp only [decide_eq_true_eq] at *; omega
    · intro x hx y hy
      have hy' := (List.mem_filter.1 hy).2
      simp only [decide_eq_true_eq] at hy'
      rcases List.mem_append.1 hx with hx | hx
      · have := (List.mem_filter.1 hx).2; simp only [decide_eq_true_eq] at this; omega
      · have := hs x hx; omega
  · intro c hc
    unfold splice at hc
    rcases List.mem_append.1 hc with hc | hc
    · rcases List.mem_append.1 hc with hc | hc
      · exact hl.2 c hc
      · exact hn.2 c hc
    · exact hr.2 c hc

/-- A write keeps the canonical form. -/
theorem memPutAll_keeps_wf {m : List Host.Cell} (a : Nat) (bs : List Byte) (h : cellsWf m = true) :
    cellsWf (memPutAll m a bs) = true := by
  rw [cellsWf_iff_canon] at *
  refine canon_splice h ⟨(cellsFrom_pairwise a bs).filter _, ?_⟩ ?_
  · intro c hc; simpa using (List.mem_filter.1 hc).2
  · intro c hc; exact mem_cellsFrom (List.mem_of_mem_filter hc)

/-- A write of scattered cells keeps the canonical form. -/
theorem memPutCells_keeps_wf {m : List Host.Cell} (cells : List Host.Cell) (h : cellsWf m = true) :
    cellsWf (memPutCells m cells) = true := by
  unfold memPutCells
  generalize runsOf cells = rs
  induction rs generalizing m with
  | nil => exact h
  | cons r rs ih => exact ih (memPutAll_keeps_wf r.1 r.2 h)

/-- A wipe keeps the canonical form. -/
theorem memZero_keeps_wf {m : List Host.Cell} (a n : Nat) (h : cellsWf m = true) : cellsWf (memZero m a n) = true := by
  rw [cellsWf_iff_canon] at *
  exact canon_filter h _

/-- A delivery keeps the canonical form. -/
theorem deliver_keeps_wf {m : Mem} (a : Nat) (bs : List Byte) (h : m.wf = true) : (m.deliver a bs).1.wf = true :=
  memPutCells_keeps_wf _ h

theorem reset_mem_wf : State.reset.dev.mem.wf = true := rfl

/-! ### Reading one byte -/

theorem cellAt_of_lt {m : List Host.Cell} {a : Nat} (h : ∀ c ∈ m, a < c.1) : cellAt m a = none := by
  cases m with
  | nil => rfl
  | cons c r =>
    have := h c (by simp)
    simp only [cellAt]
    rw [if_neg (by omega), if_pos this]

theorem cellAt_eq_some {m : List Host.Cell} (hm : Canon m) {a : Nat} {b : Byte} : cellAt m a = some b ↔ (a, b) ∈ m := by
  induction m with
  | nil => simp [cellAt]
  | cons c r ih =>
    obtain ⟨k, v⟩ := c
    have hr : Canon r := ⟨(List.pairwise_cons.1 hm.1).2, fun c hc => hm.2 c (List.mem_cons_of_mem _ hc)⟩
    have hk := (List.pairwise_cons.1 hm.1).1
    simp only [cellAt, List.mem_cons, Prod.mk.injEq]
    by_cases h1 : k = a
    · subst h1
      simp only [if_true]
      constructor
      · intro h; exact Or.inl ⟨trivial, by simpa using h.symm⟩
      · rintro (⟨_, rfl⟩ | h)
        · rfl
        · have := hk _ h; simp at this
    · rw [if_neg h1]
      by_cases h2 : a < k
      · rw [if_pos h2]
        constructor
        · intro h; cases h
        · rintro (⟨h, _⟩ | h)
          · exact absurd h.symm h1
          · have := hk _ h; simp only at this; omega
      · rw [if_neg h2, ih hr]
        constructor
        · exact Or.inr
        · rintro (⟨h, _⟩ | h)
          · exact absurd h.symm h1
          · exact h

/-- A canonical memory reads `b` at an address exactly when it lists it, or lists nothing there and `b` is 0. -/
theorem memByte_eq {m : List Host.Cell} (hm : Canon m) {a : Nat} {b : Byte} :
    memByte m a = b ↔ (a, b) ∈ m ∨ (b = 0 ∧ ∀ v, (a, v) ∉ m) := by
  unfold memByte
  cases h : cellAt m a with
  | none =>
    have hn : ∀ v, (a, v) ∉ m := fun v hv => by rw [(cellAt_eq_some hm).2 hv] at h; cases h
    simp only [Option.getD_none]
    constructor
    · intro hb; exact Or.inr ⟨hb.symm, hn⟩
    · rintro (hb | ⟨hb, _⟩)
      · exact absurd hb (hn b)
      · exact hb.symm
  | some v =>
    have hv := (cellAt_eq_some hm).1 h
    simp only [Option.getD_some]
    constructor
    · intro hb; subst hb; exact Or.inl hv
    · rintro (hb | ⟨_, hn⟩)
      · have := (cellAt_eq_some hm).2 hb; rw [h] at this; exact Option.some.inj this
      · exact absurd hv (hn v)

theorem memByte_of_mem_iff {m m' : List Host.Cell} (hm : Canon m) (hm' : Canon m') {a : Nat}
    (h : ∀ v, (a, v) ∈ m' ↔ (a, v) ∈ m) : memByte m' a = memByte m a := by
  rw [memByte_eq hm']
  rcases (memByte_eq hm).1 (rfl : memByte m a = memByte m a) with h1 | ⟨h1, h2⟩
  · exact Or.inl ((h _).2 h1)
  · exact Or.inr ⟨h1, fun v hv => h2 v ((h v).1 hv)⟩

/-- A write leaves every byte outside its span alone. -/
theorem memByte_memPutAll_ne {m : List Host.Cell} {a x : Nat} {bs : List Byte} (h : cellsWf m = true)
    (hx : x < a ∨ a + bs.length ≤ x) : memByte (memPutAll m a bs) x = memByte m x := by
  have hp := (cellsWf_iff_canon _).1 (memPutAll_keeps_wf a bs h)
  rw [cellsWf_iff_canon] at h
  refine memByte_of_mem_iff h hp fun v => ?_
  simp only [memPutAll, splice, List.mem_append, List.mem_filter, decide_eq_true_eq, bne_iff_ne, ne_eq]
  constructor
  · rintro ((h1 | h1) | h1)
    · exact h1.1
    · have := mem_cellsFrom h1.1; simp only at this; omega
    · exact h1.1
  · intro h1
    rcases hx with hx | hx
    · exact Or.inl (Or.inl ⟨h1, hx⟩)
    · exact Or.inr ⟨h1, hx⟩

theorem mem_cellsFrom_get {a : Nat} {bs : List Byte} {i : Nat} (h : i < bs.length) : (a + i, bs[i]) ∈ cellsFrom a bs := by
  induction bs generalizing a i with
  | nil => simp at h
  | cons b bs ih =>
    simp only [cellsFrom, List.mem_cons]
    cases i with
    | zero => left; simp
    | succ i =>
      right
      have := ih (a := a + 1) (i := i) (by simpa using h)
      rwa [Nat.add_assoc, Nat.add_comm 1 i] at this

/-- A read after a write gives the byte written. -/
theorem memByte_memPutAll {m : List Host.Cell} {a i : Nat} {bs : List Byte} (h : cellsWf m = true) (hi : i < bs.length) :
    memByte (memPutAll m a bs) (a + i) = bs[i] := by
  have hp := (cellsWf_iff_canon _).1 (memPutAll_keeps_wf a bs h)
  have hc := cellsFrom_pairwise a bs
  have hm := mem_cellsFrom_get (a := a) hi
  rw [memByte_eq hp]
  by_cases hz : bs[i] = 0
  · refine Or.inr ⟨hz, fun v hv => ?_⟩
    simp only [memPutAll, splice, List.mem_append, List.mem_filter, decide_eq_true_eq, bne_iff_ne, ne_eq] at hv
    rcases hv with (hv | hv) | hv
    · omega
    · by_cases hvb : v = bs[i]
      · exact hv.2 (hvb.trans hz)
      · rcases List.Pairwise.forall_of_forall_of_flip (R := fun x y : Host.Cell => x.1 = y.1 → x = y)
          (fun x _ _ => rfl) (hc.imp fun {x y} hlt heq => absurd heq (by omega))
          (hc.imp fun {x y} hlt heq => absurd heq (by omega)) hv.1 hm rfl with ⟨⟩
        exact hvb rfl
    · omega
  · left
    simp only [memPutAll, splice, List.mem_append, List.mem_filter, decide_eq_true_eq, bne_iff_ne, ne_eq]
    exact Or.inl (Or.inr ⟨hm, hz⟩)

/-- A wipe makes its span read 0. -/
theorem memByte_memZero {m : List Host.Cell} {a n x : Nat} (h : cellsWf m = true) (h1 : a ≤ x) (h2 : x < a + n) :
    memByte (memZero m a n) x = 0 := by
  have hp := (cellsWf_iff_canon _).1 (memZero_keeps_wf a n h)
  rw [memByte_eq hp]
  refine Or.inr ⟨rfl, fun v hv => ?_⟩
  have := (List.mem_filter.1 hv).2
  simp only [Bool.or_eq_true, decide_eq_true_eq] at this
  omega

end Sys2Proof.Machine
end

