-- ==== Sys2Proof/Laws/State.lean ====
section
/-! SUPPORT. The updates of the machine's tables, field by field: what each leaves as it was, what the field it changes holds after it,
and what reading an element of a table gives after an update. -/

namespace Sys2Proof.Machine

/-! ### A command always has a next state -/

@[simp] theorem run_eq (f : Dev → Dev) (s : State) : run f s = .next { s with dev := f s.dev } := rfl

/-- A command completes with what holds of its effect on the machine. -/
theorem completes_of_run {c : Instr} {s : State} {f : Dev → Dev} {P : Dev → Prop} (h : exec c s = run f s) (hp : P (f s.dev)) :
    Completes c s P := ⟨{ s with dev := f s.dev }, h, rfl, hp⟩

/-- A command leaves a view alone if its effect on the machine does. -/
theorem keeps_of_run {α : Type} {c : Instr} {view : Dev → α} {f : Dev → Dev} (h : ∀ s, exec c s = run f s)
    (hf : ∀ d, view (f d) = view d) : Keeps c view := by
  intro s t ht
  rw [h s] at ht
  cases ht
  exact hf s.dev

/-! ### One element of a table after an update of one -/

theorem getD_modify_same {α : Type} (l : List α) (n : Nat) (f : α → α) (x : α) (h : n < l.length) :
    (l.modify n f).getD n x = f (l.getD n x) := by
  simp [List.getD, h]

theorem getD_modify_other {α : Type} (l : List α) {n m : Nat} (f : α → α) (x : α) (h : n ≠ m) :
    (l.modify n f).getD m x = l.getD m x := by
  simp [List.getD, h]

theorem site_modSite_same (d : Dev) {n : Nat} (f : Site → Site) (h : n < d.sites.length) : (d.modSite n f).site n = f (d.site n) :=
  getD_modify_same _ _ _ _ h
@[simp] theorem site_modSite_other (d : Dev) {n m : Nat} (f : Site → Site) (h : n ≠ m) : (d.modSite n f).site m = d.site m :=
  getD_modify_other _ _ _ h
theorem cq_modCq_same (d : Dev) {n : Nat} (f : Cq → Cq) (h : n < d.cqs.length) : (d.modCq n f).cq n = f (d.cq n) :=
  getD_modify_same _ _ _ _ h
@[simp] theorem cq_modCq_other (d : Dev) {n m : Nat} (f : Cq → Cq) (h : n ≠ m) : (d.modCq n f).cq m = d.cq m :=
  getD_modify_other _ _ _ h
theorem chan_modChan_same (d : Dev) {n : Nat} (f : Chan → Chan) (h : n < d.chans.length) : (d.modChan n f).chan n = f (d.chan n) :=
  getD_modify_same _ _ _ _ h
@[simp] theorem chan_modChan_other (d : Dev) {n m : Nat} (f : Chan → Chan) (h : n ≠ m) : (d.modChan n f).chan m = d.chan m :=
  getD_modify_other _ _ _ h
theorem stk_modStk_same (d : Dev) {n : Nat} (f : Stk → Stk) (h : n < d.stks.length) : (d.modStk n f).stk n = f (d.stk n) :=
  getD_modify_same _ _ _ _ h
@[simp] theorem stk_modStk_other (d : Dev) {n m : Nat} (f : Stk → Stk) (h : n ≠ m) : (d.modStk n f).stk m = d.stk m :=
  getD_modify_other _ _ _ h
theorem dsc_modDsc_same (d : Dev) {n : Nat} (f : Dsc → Dsc) (h : n < d.dscs.length) : (d.modDsc n f).dsc n = f (d.dsc n) :=
  getD_modify_same _ _ _ _ h
@[simp] theorem dsc_modDsc_other (d : Dev) {n m : Nat} (f : Dsc → Dsc) (h : n ≠ m) : (d.modDsc n f).dsc m = d.dsc m :=
  getD_modify_other _ _ _ h
theorem fw_modFw_same (d : Dev) {n : Nat} (f : Fwp → Fwp) (h : n < d.fwp.length) : (d.modFw n f).fw n = f (d.fw n) :=
  getD_modify_same _ _ _ _ h
@[simp] theorem fw_modFw_other (d : Dev) {n m : Nat} (f : Fwp → Fwp) (h : n ≠ m) : (d.modFw n f).fw m = d.fw m :=
  getD_modify_other _ _ _ h
theorem port_modPort_same (d : Dev) {n : Nat} (f : Port → Port) (h : n < d.lnk.ports.length) : (d.modPort n f).port n = f (d.port n) :=
  getD_modify_same _ _ _ _ h
@[simp] theorem port_modPort_other (d : Dev) {n m : Nat} (f : Port → Port) (h : n ≠ m) : (d.modPort n f).port m = d.port m :=
  getD_modify_other _ _ _ h
theorem dom_setDom_same (d : Dev) {k : Nat} (x : DomState) (h : k < d.pwr.doms.length) : (d.setDom k x).dom k = x := by
  simp [Dev.setDom, Dev.dom, List.getD, h]
@[simp] theorem dom_setDom_other (d : Dev) {k m : Nat} (x : DomState) (h : k ≠ m) : (d.setDom k x).dom m = d.dom m := by
  simp [Dev.setDom, Dev.dom, List.getD, h]
theorem siteState_setSiteState_same (d : Dev) {n : Nat} (x : SiteState) (h : n < d.health.siteStates.length) :
    (d.setSiteState n x).siteState n = x := by
  simp [Dev.setSiteState, Dev.siteState, List.getD, h]
@[simp] theorem siteState_setSiteState_other (d : Dev) {n m : Nat} (x : SiteState) (h : n ≠ m) :
    (d.setSiteState n x).siteState m = d.siteState m := by
  simp [Dev.setSiteState, Dev.siteState, List.getD, h]

/-! ### No update of a table changes its size -/

@[simp] theorem modSite_length (d : Dev) (n : Nat) (f : Site → Site) : (d.modSite n f).sites.length = d.sites.length := by
  simp [Dev.modSite]
@[simp] theorem modCq_length (d : Dev) (c : Nat) (f : Cq → Cq) : (d.modCq c f).cqs.length = d.cqs.length := by
  simp [Dev.modCq]
@[simp] theorem modRegs_length (d : Dev) (c : Nat) (f : CqRegs → CqRegs) : (d.modRegs c f).cqs.length = d.cqs.length := by
  simp [Dev.modRegs, Dev.modCq]
@[simp] theorem modChan_length (d : Dev) (c : Nat) (f : Chan → Chan) : (d.modChan c f).chans.length = d.chans.length := by
  simp [Dev.modChan]
@[simp] theorem modStk_length (d : Dev) (n : Nat) (f : Stk → Stk) : (d.modStk n f).stks.length = d.stks.length := by
  simp [Dev.modStk]
@[simp] theorem modDsc_length (d : Dev) (n : Nat) (f : Dsc → Dsc) : (d.modDsc n f).dscs.length = d.dscs.length := by
  simp [Dev.modDsc]
@[simp] theorem modFw_length (d : Dev) (i : Nat) (f : Fwp → Fwp) : (d.modFw i f).fwp.length = d.fwp.length := by
  simp [Dev.modFw]
@[simp] theorem modStmPort_length (d : Dev) (i : Nat) (f : StmPort → StmPort) : (d.modStmPort i f).stm.ports.length = d.stm.ports.length := by
  simp [Dev.modStmPort]
@[simp] theorem setSiteState_length (d : Dev) (n : Nat) (x : SiteState) : (d.setSiteState n x).health.siteStates.length = d.health.siteStates.length := by
  simp [Dev.setSiteState]
@[simp] theorem modPort_length (d : Dev) (i : Nat) (f : Port → Port) : (d.modPort i f).lnk.ports.length = d.lnk.ports.length := by
  simp [Dev.modPort]
@[simp] theorem setDom_length (d : Dev) (k : Nat) (x : DomState) : (d.setDom k x).pwr.doms.length = d.pwr.doms.length := by
  simp [Dev.setDom]
@[simp] theorem modSlv_length (d : Dev) (e : Nat) (f : Slv → Slv) : (d.modSlv e f).slv.length = d.slv.length := by
  simp [Dev.modSlv]
@[simp] theorem modQnt_length (d : Dev) (n : Nat) (f : Qnt → Qnt) : (d.modQnt n f).sites.length = d.sites.length := by
  simp [Dev.modQnt, Dev.modSite]
@[simp] theorem modLbk_length (d : Dev) (n : Nat) (f : Lbk → Lbk) : (d.modLbk n f).sites.length = d.sites.length := by
  simp [Dev.modLbk, Dev.modSite]
@[simp] theorem modAcc_length (d : Dev) (n : Nat) (f : Acc → Acc) : (d.modAcc n f).sites.length = d.sites.length := by
  simp [Dev.modAcc, Dev.modSite]
@[simp] theorem modMvp_length (d : Dev) (n : Nat) (f : Mvp → Mvp) : (d.modMvp n f).sites.length = d.sites.length := by
  simp [Dev.modMvp, Dev.modSite]
@[simp] theorem modCcr_length (d : Dev) (n : Nat) (f : Ccr → Ccr) : (d.modCcr n f).sites.length = d.sites.length := by
  simp [Dev.modCcr, Dev.modSite]
@[simp] theorem modThread_length (d : Dev) (n t : Nat) (f : Thread → Thread) : (d.modThread n t f).sites.length = d.sites.length := by
  simp [Dev.modThread, Dev.modCcr, Dev.modSite]
@[simp] theorem setFlag_length (d : Dev) (n f : Nat) : (d.setFlag n f).sites.length = d.sites.length := by
  simp [Dev.setFlag, Dev.modCcr, Dev.modSite]
@[simp] theorem clearFlag_length (d : Dev) (n f : Nat) : (d.clearFlag n f).sites.length = d.sites.length := by
  simp [Dev.clearFlag, Dev.modCcr, Dev.modSite]
@[simp] theorem haltQueue_length (d : Dev) (c : Nat) : (d.haltQueue c).cqs.length = d.cqs.length := by
  simp [Dev.haltQueue, Dev.modRegs, Dev.modCq]

/-! ### The field that an update changes -/

@[simp] theorem modSite_sites (d : Dev) (n : Nat) (f : Site → Site) : (d.modSite n f).sites = d.sites.modify n f := rfl
@[simp] theorem modCq_cqs (d : Dev) (c : Nat) (f : Cq → Cq) : (d.modCq c f).cqs = d.cqs.modify c f := rfl
@[simp] theorem modChan_chans (d : Dev) (c : Nat) (f : Chan → Chan) : (d.modChan c f).chans = d.chans.modify c f := rfl
@[simp] theorem modStk_stks (d : Dev) (n : Nat) (f : Stk → Stk) : (d.modStk n f).stks = d.stks.modify n f := rfl
@[simp] theorem modDsc_dscs (d : Dev) (n : Nat) (f : Dsc → Dsc) : (d.modDsc n f).dscs = d.dscs.modify n f := rfl
@[simp] theorem modFw_fwp (d : Dev) (i : Nat) (f : Fwp → Fwp) : (d.modFw i f).fwp = d.fwp.modify i f := rfl
@[simp] theorem modStmPort_stm (d : Dev) (i : Nat) (f : StmPort → StmPort) : (d.modStmPort i f).stm = { d.stm with ports := d.stm.ports.modify i f } := rfl
@[simp] theorem setSiteState_health (d : Dev) (n : Nat) (x : SiteState) : (d.setSiteState n x).health = { d.health with siteStates := d.health.siteStates.set n x } := rfl
@[simp] theorem modPort_lnk (d : Dev) (i : Nat) (f : Port → Port) : (d.modPort i f).lnk = { d.lnk with ports := d.lnk.ports.modify i f } := rfl
@[simp] theorem setDom_pwr (d : Dev) (k : Nat) (x : DomState) : (d.setDom k x).pwr = { d.pwr with doms := d.pwr.doms.set k x } := rfl
@[simp] theorem modHealth_health (d : Dev) (f : Health → Health) : (d.modHealth f).health = f d.health := rfl
@[simp] theorem modBt_bt (d : Dev) (f : Bt → Bt) : (d.modBt f).bt = f d.bt := rfl
@[simp] theorem modMgt_mgt (d : Dev) (f : Mgt → Mgt) : (d.modMgt f).mgt = f d.mgt := rfl
@[simp] theorem modSlv_slv (d : Dev) (e : Nat) (f : Slv → Slv) : (d.modSlv e f).slv = d.slv.modify e f := rfl
@[simp] theorem modSend_lnk (d : Dev) (i : Nat) (f : SendJob → SendJob) : (d.modSend i f).lnk = { d.lnk with sends := d.lnk.sends.modify i f } := rfl
@[simp] theorem modColl_col (d : Dev) (i : Nat) (f : CollJob → CollJob) : (d.modColl i f).col = { d.col with jobs := d.col.jobs.modify i f } := rfl

/-! ### The fields that an update leaves as they were -/

section
variable (d : Dev) (n : Nat) (f : Site → Site)
@[simp] theorem modSite_bt : (d.modSite n f).bt = d.bt := rfl
@[simp] theorem modSite_fwp : (d.modSite n f).fwp = d.fwp := rfl
@[simp] theorem modSite_chans : (d.modSite n f).chans = d.chans := rfl
@[simp] theorem modSite_reqs : (d.modSite n f).reqs = d.reqs := rfl
@[simp] theorem modSite_dones : (d.modSite n f).dones = d.dones := rfl
@[simp] theorem modSite_msix : (d.modSite n f).msix = d.msix := rfl
@[simp] theorem modSite_plans : (d.modSite n f).plans = d.plans := rfl
@[simp] theorem modSite_lastHandle : (d.modSite n f).lastHandle = d.lastHandle := rfl
@[simp] theorem modSite_siteOf : (d.modSite n f).siteOf = d.siteOf := rfl
@[simp] theorem modSite_mapTs : (d.modSite n f).mapTs = d.mapTs := rfl
@[simp] theorem modSite_epoch : (d.modSite n f).epoch = d.epoch := rfl
@[simp] theorem modSite_cqs : (d.modSite n f).cqs = d.cqs := rfl
@[simp] theorem modSite_mem : (d.modSite n f).mem = d.mem := rfl
@[simp] theorem modSite_shared : (d.modSite n f).shared = d.shared := rfl
@[simp] theorem modSite_stks : (d.modSite n f).stks = d.stks := rfl
@[simp] theorem modSite_dscs : (d.modSite n f).dscs = d.dscs := rfl
@[simp] theorem modSite_rampStep : (d.modSite n f).rampStep = d.rampStep := rfl
@[simp] theorem modSite_rampBeat : (d.modSite n f).rampBeat = d.rampBeat := rfl
@[simp] theorem modSite_fenceFall : (d.modSite n f).fenceFall = d.fenceFall := rfl
@[simp] theorem modSite_wipes : (d.modSite n f).wipes = d.wipes := rfl
@[simp] theorem modSite_deliveries : (d.modSite n f).deliveries = d.deliveries := rfl
@[simp] theorem modSite_lnk : (d.modSite n f).lnk = d.lnk := rfl
@[simp] theorem modSite_col : (d.modSite n f).col = d.col := rfl
@[simp] theorem modSite_slv : (d.modSite n f).slv = d.slv := rfl
@[simp] theorem modSite_solves : (d.modSite n f).solves = d.solves := rfl
@[simp] theorem modSite_sec : (d.modSite n f).sec = d.sec := rfl
@[simp] theorem modSite_health : (d.modSite n f).health = d.health := rfl
@[simp] theorem modSite_stm : (d.modSite n f).stm = d.stm := rfl
@[simp] theorem modSite_trc : (d.modSite n f).trc = d.trc := rfl
@[simp] theorem modSite_jtag : (d.modSite n f).jtag = d.jtag := rfl
@[simp] theorem modSite_pwr : (d.modSite n f).pwr = d.pwr := rfl
@[simp] theorem modSite_mgt : (d.modSite n f).mgt = d.mgt := rfl
@[simp] theorem modSite_msixTab : (d.modSite n f).msixTab = d.msixTab := rfl
@[simp] theorem modSite_rings : (d.modSite n f).rings = d.rings := rfl
@[simp] theorem modSite_devErr : (d.modSite n f).devErr = d.devErr := rfl
@[simp] theorem modSite_free : (d.modSite n f).free = d.free := rfl
end

section
variable (d : Dev) (c : Nat) (f : Cq → Cq)
@[simp] theorem modCq_bt : (d.modCq c f).bt = d.bt := rfl
@[simp] theorem modCq_fwp : (d.modCq c f).fwp = d.fwp := rfl
@[simp] theorem modCq_chans : (d.modCq c f).chans = d.chans := rfl
@[simp] theorem modCq_reqs : (d.modCq c f).reqs = d.reqs := rfl
@[simp] theorem modCq_dones : (d.modCq c f).dones = d.dones := rfl
@[simp] theorem modCq_msix : (d.modCq c f).msix = d.msix := rfl
@[simp] theorem modCq_plans : (d.modCq c f).plans = d.plans := rfl
@[simp] theorem modCq_lastHandle : (d.modCq c f).lastHandle = d.lastHandle := rfl
@[simp] theorem modCq_siteOf : (d.modCq c f).siteOf = d.siteOf := rfl
@[simp] theorem modCq_mapTs : (d.modCq c f).mapTs = d.mapTs := rfl
@[simp] theorem modCq_epoch : (d.modCq c f).epoch = d.epoch := rfl
@[simp] theorem modCq_mem : (d.modCq c f).mem = d.mem := rfl
@[simp] theorem modCq_shared : (d.modCq c f).shared = d.shared := rfl
@[simp] theorem modCq_stks : (d.modCq c f).stks = d.stks := rfl
@[simp] theorem modCq_dscs : (d.modCq c f).dscs = d.dscs := rfl
@[simp] theorem modCq_sites : (d.modCq c f).sites = d.sites := rfl
@[simp] theorem modCq_rampStep : (d.modCq c f).rampStep = d.rampStep := rfl
@[simp] theorem modCq_rampBeat : (d.modCq c f).rampBeat = d.rampBeat := rfl
@[simp] theorem modCq_fenceFall : (d.modCq c f).fenceFall = d.fenceFall := rfl
@[simp] theorem modCq_wipes : (d.modCq c f).wipes = d.wipes := rfl
@[simp] theorem modCq_deliveries : (d.modCq c f).deliveries = d.deliveries := rfl
@[simp] theorem modCq_lnk : (d.modCq c f).lnk = d.lnk := rfl
@[simp] theorem modCq_col : (d.modCq c f).col = d.col := rfl
@[simp] theorem modCq_slv : (d.modCq c f).slv = d.slv := rfl
@[simp] theorem modCq_solves : (d.modCq c f).solves = d.solves := rfl
@[simp] theorem modCq_sec : (d.modCq c f).sec = d.sec := rfl
@[simp] theorem modCq_health : (d.modCq c f).health = d.health := rfl
@[simp] theorem modCq_stm : (d.modCq c f).stm = d.stm := rfl
@[simp] theorem modCq_trc : (d.modCq c f).trc = d.trc := rfl
@[simp] theorem modCq_jtag : (d.modCq c f).jtag = d.jtag := rfl
@[simp] theorem modCq_pwr : (d.modCq c f).pwr = d.pwr := rfl
@[simp] theorem modCq_mgt : (d.modCq c f).mgt = d.mgt := rfl
@[simp] theorem modCq_msixTab : (d.modCq c f).msixTab = d.msixTab := rfl
@[simp] theorem modCq_rings : (d.modCq c f).rings = d.rings := rfl
@[simp] theorem modCq_devErr : (d.modCq c f).devErr = d.devErr := rfl
@[simp] theorem modCq_free : (d.modCq c f).free = d.free := rfl
end

section
variable (d : Dev) (c : Nat) (f : CqRegs → CqRegs)
@[simp] theorem modRegs_bt : (d.modRegs c f).bt = d.bt := rfl
@[simp] theorem modRegs_fwp : (d.modRegs c f).fwp = d.fwp := rfl
@[simp] theorem modRegs_chans : (d.modRegs c f).chans = d.chans := rfl
@[simp] theorem modRegs_reqs : (d.modRegs c f).reqs = d.reqs := rfl
@[simp] theorem modRegs_dones : (d.modRegs c f).dones = d.dones := rfl
@[simp] theorem modRegs_msix : (d.modRegs c f).msix = d.msix := rfl
@[simp] theorem modRegs_plans : (d.modRegs c f).plans = d.plans := rfl
@[simp] theorem modRegs_lastHandle : (d.modRegs c f).lastHandle = d.lastHandle := rfl
@[simp] theorem modRegs_siteOf : (d.modRegs c f).siteOf = d.siteOf := rfl
@[simp] theorem modRegs_mapTs : (d.modRegs c f).mapTs = d.mapTs := rfl
@[simp] theorem modRegs_epoch : (d.modRegs c f).epoch = d.epoch := rfl
@[simp] theorem modRegs_mem : (d.modRegs c f).mem = d.mem := rfl
@[simp] theorem modRegs_shared : (d.modRegs c f).shared = d.shared := rfl
@[simp] theorem modRegs_stks : (d.modRegs c f).stks = d.stks := rfl
@[simp] theorem modRegs_dscs : (d.modRegs c f).dscs = d.dscs := rfl
@[simp] theorem modRegs_sites : (d.modRegs c f).sites = d.sites := rfl
@[simp] theorem modRegs_rampStep : (d.modRegs c f).rampStep = d.rampStep := rfl
@[simp] theorem modRegs_rampBeat : (d.modRegs c f).rampBeat = d.rampBeat := rfl
@[simp] theorem modRegs_fenceFall : (d.modRegs c f).fenceFall = d.fenceFall := rfl
@[simp] theorem modRegs_wipes : (d.modRegs c f).wipes = d.wipes := rfl
@[simp] theorem modRegs_deliveries : (d.modRegs c f).deliveries = d.deliveries := rfl
@[simp] theorem modRegs_lnk : (d.modRegs c f).lnk = d.lnk := rfl
@[simp] theorem modRegs_col : (d.modRegs c f).col = d.col := rfl
@[simp] theorem modRegs_slv : (d.modRegs c f).slv = d.slv := rfl
@[simp] theorem modRegs_solves : (d.modRegs c f).solves = d.solves := rfl
@[simp] theorem modRegs_sec : (d.modRegs c f).sec = d.sec := rfl
@[simp] theorem modRegs_health : (d.modRegs c f).health = d.health := rfl
@[simp] theorem modRegs_stm : (d.modRegs c f).stm = d.stm := rfl
@[simp] theorem modRegs_trc : (d.modRegs c f).trc = d.trc := rfl
@[simp] theorem modRegs_jtag : (d.modRegs c f).jtag = d.jtag := rfl
@[simp] theorem modRegs_pwr : (d.modRegs c f).pwr = d.pwr := rfl
@[simp] theorem modRegs_mgt : (d.modRegs c f).mgt = d.mgt := rfl
@[simp] theorem modRegs_msixTab : (d.modRegs c f).msixTab = d.msixTab := rfl
@[simp] theorem modRegs_rings : (d.modRegs c f).rings = d.rings := rfl
@[simp] theorem modRegs_devErr : (d.modRegs c f).devErr = d.devErr := rfl
@[simp] theorem modRegs_free : (d.modRegs c f).free = d.free := rfl
end

section
variable (d : Dev) (c : Nat) (f : Chan → Chan)
@[simp] theorem modChan_bt : (d.modChan c f).bt = d.bt := rfl
@[simp] theorem modChan_fwp : (d.modChan c f).fwp = d.fwp := rfl
@[simp] theorem modChan_reqs : (d.modChan c f).reqs = d.reqs := rfl
@[simp] theorem modChan_dones : (d.modChan c f).dones = d.dones := rfl
@[simp] theorem modChan_msix : (d.modChan c f).msix = d.msix := rfl
@[simp] theorem modChan_plans : (d.modChan c f).plans = d.plans := rfl
@[simp] theorem modChan_lastHandle : (d.modChan c f).lastHandle = d.lastHandle := rfl
@[simp] theorem modChan_siteOf : (d.modChan c f).siteOf = d.siteOf := rfl
@[simp] theorem modChan_mapTs : (d.modChan c f).mapTs = d.mapTs := rfl
@[simp] theorem modChan_epoch : (d.modChan c f).epoch = d.epoch := rfl
@[simp] theorem modChan_cqs : (d.modChan c f).cqs = d.cqs := rfl
@[simp] theorem modChan_mem : (d.modChan c f).mem = d.mem := rfl
@[simp] theorem modChan_shared : (d.modChan c f).shared = d.shared := rfl
@[simp] theorem modChan_stks : (d.modChan c f).stks = d.stks := rfl
@[simp] theorem modChan_dscs : (d.modChan c f).dscs = d.dscs := rfl
@[simp] theorem modChan_sites : (d.modChan c f).sites = d.sites := rfl
@[simp] theorem modChan_rampStep : (d.modChan c f).rampStep = d.rampStep := rfl
@[simp] theorem modChan_rampBeat : (d.modChan c f).rampBeat = d.rampBeat := rfl
@[simp] theorem modChan_fenceFall : (d.modChan c f).fenceFall = d.fenceFall := rfl
@[simp] theorem modChan_wipes : (d.modChan c f).wipes = d.wipes := rfl
@[simp] theorem modChan_deliveries : (d.modChan c f).deliveries = d.deliveries := rfl
@[simp] theorem modChan_lnk : (d.modChan c f).lnk = d.lnk := rfl
@[simp] theorem modChan_col : (d.modChan c f).col = d.col := rfl
@[simp] theorem modChan_slv : (d.modChan c f).slv = d.slv := rfl
@[simp] theorem modChan_solves : (d.modChan c f).solves = d.solves := rfl
@[simp] theorem modChan_sec : (d.modChan c f).sec = d.sec := rfl
@[simp] theorem modChan_health : (d.modChan c f).health = d.health := rfl
@[simp] theorem modChan_stm : (d.modChan c f).stm = d.stm := rfl
@[simp] theorem modChan_trc : (d.modChan c f).trc = d.trc := rfl
@[simp] theorem modChan_jtag : (d.modChan c f).jtag = d.jtag := rfl
@[simp] theorem modChan_pwr : (d.modChan c f).pwr = d.pwr := rfl
@[simp] theorem modChan_mgt : (d.modChan c f).mgt = d.mgt := rfl
@[simp] theorem modChan_msixTab : (d.modChan c f).msixTab = d.msixTab := rfl
@[simp] theorem modChan_rings : (d.modChan c f).rings = d.rings := rfl
@[simp] theorem modChan_devErr : (d.modChan c f).devErr = d.devErr := rfl
@[simp] theorem modChan_free : (d.modChan c f).free = d.free := rfl
end

section
variable (d : Dev) (n : Nat) (f : Stk → Stk)
@[simp] theorem modStk_bt : (d.modStk n f).bt = d.bt := rfl
@[simp] theorem modStk_fwp : (d.modStk n f).fwp = d.fwp := rfl
@[simp] theorem modStk_chans : (d.modStk n f).chans = d.chans := rfl
@[simp] theorem modStk_reqs : (d.modStk n f).reqs = d.reqs := rfl
@[simp] theorem modStk_dones : (d.modStk n f).dones = d.dones := rfl
@[simp] theorem modStk_msix : (d.modStk n f).msix = d.msix := rfl
@[simp] theorem modStk_plans : (d.modStk n f).plans = d.plans := rfl
@[simp] theorem modStk_lastHandle : (d.modStk n f).lastHandle = d.lastHandle := rfl
@[simp] theorem modStk_siteOf : (d.modStk n f).siteOf = d.siteOf := rfl
@[simp] theorem modStk_mapTs : (d.modStk n f).mapTs = d.mapTs := rfl
@[simp] theorem modStk_epoch : (d.modStk n f).epoch = d.epoch := rfl
@[simp] theorem modStk_cqs : (d.modStk n f).cqs = d.cqs := rfl
@[simp] theorem modStk_mem : (d.modStk n f).mem = d.mem := rfl
@[simp] theorem modStk_shared : (d.modStk n f).shared = d.shared := rfl
@[simp] theorem modStk_dscs : (d.modStk n f).dscs = d.dscs := rfl
@[simp] theorem modStk_sites : (d.modStk n f).sites = d.sites := rfl
@[simp] theorem modStk_rampStep : (d.modStk n f).rampStep = d.rampStep := rfl
@[simp] theorem modStk_rampBeat : (d.modStk n f).rampBeat = d.rampBeat := rfl
@[simp] theorem modStk_fenceFall : (d.modStk n f).fenceFall = d.fenceFall := rfl
@[simp] theorem modStk_wipes : (d.modStk n f).wipes = d.wipes := rfl
@[simp] theorem modStk_deliveries : (d.modStk n f).deliveries = d.deliveries := rfl
@[simp] theorem modStk_lnk : (d.modStk n f).lnk = d.lnk := rfl
@[simp] theorem modStk_col : (d.modStk n f).col = d.col := rfl
@[simp] theorem modStk_slv : (d.modStk n f).slv = d.slv := rfl
@[simp] theorem modStk_solves : (d.modStk n f).solves = d.solves := rfl
@[simp] theorem modStk_sec : (d.modStk n f).sec = d.sec := rfl
@[simp] theorem modStk_health : (d.modStk n f).health = d.health := rfl
@[simp] theorem modStk_stm : (d.modStk n f).stm = d.stm := rfl
@[simp] theorem modStk_trc : (d.modStk n f).trc = d.trc := rfl
@[simp] theorem modStk_jtag : (d.modStk n f).jtag = d.jtag := rfl
@[simp] theorem modStk_pwr : (d.modStk n f).pwr = d.pwr := rfl
@[simp] theorem modStk_mgt : (d.modStk n f).mgt = d.mgt := rfl
@[simp] theorem modStk_msixTab : (d.modStk n f).msixTab = d.msixTab := rfl
@[simp] theorem modStk_rings : (d.modStk n f).rings = d.rings := rfl
@[simp] theorem modStk_devErr : (d.modStk n f).devErr = d.devErr := rfl
@[simp] theorem modStk_free : (d.modStk n f).free = d.free := rfl
end

section
variable (d : Dev) (n : Nat) (f : Dsc → Dsc)
@[simp] theorem modDsc_bt : (d.modDsc n f).bt = d.bt := rfl
@[simp] theorem modDsc_fwp : (d.modDsc n f).fwp = d.fwp := rfl
@[simp] theorem modDsc_chans : (d.modDsc n f).chans = d.chans := rfl
@[simp] theorem modDsc_reqs : (d.modDsc n f).reqs = d.reqs := rfl
@[simp] theorem modDsc_dones : (d.modDsc n f).dones = d.dones := rfl
@[simp] theorem modDsc_msix : (d.modDsc n f).msix = d.msix := rfl
@[simp] theorem modDsc_plans : (d.modDsc n f).plans = d.plans := rfl
@[simp] theorem modDsc_lastHandle : (d.modDsc n f).lastHandle = d.lastHandle := rfl
@[simp] theorem modDsc_siteOf : (d.modDsc n f).siteOf = d.siteOf := rfl
@[simp] theorem modDsc_mapTs : (d.modDsc n f).mapTs = d.mapTs := rfl
@[simp] theorem modDsc_epoch : (d.modDsc n f).epoch = d.epoch := rfl
@[simp] theorem modDsc_cqs : (d.modDsc n f).cqs = d.cqs := rfl
@[simp] theorem modDsc_mem : (d.modDsc n f).mem = d.mem := rfl
@[simp] theorem modDsc_shared : (d.modDsc n f).shared = d.shared := rfl
@[simp] theorem modDsc_stks : (d.modDsc n f).stks = d.stks := rfl
@[simp] theorem modDsc_sites : (d.modDsc n f).sites = d.sites := rfl
@[simp] theorem modDsc_rampStep : (d.modDsc n f).rampStep = d.rampStep := rfl
@[simp] theorem modDsc_rampBeat : (d.modDsc n f).rampBeat = d.rampBeat := rfl
@[simp] theorem modDsc_fenceFall : (d.modDsc n f).fenceFall = d.fenceFall := rfl
@[simp] theorem modDsc_wipes : (d.modDsc n f).wipes = d.wipes := rfl
@[simp] theorem modDsc_deliveries : (d.modDsc n f).deliveries = d.deliveries := rfl
@[simp] theorem modDsc_lnk : (d.modDsc n f).lnk = d.lnk := rfl
@[simp] theorem modDsc_col : (d.modDsc n f).col = d.col := rfl
@[simp] theorem modDsc_slv : (d.modDsc n f).slv = d.slv := rfl
@[simp] theorem modDsc_solves : (d.modDsc n f).solves = d.solves := rfl
@[simp] theorem modDsc_sec : (d.modDsc n f).sec = d.sec := rfl
@[simp] theorem modDsc_health : (d.modDsc n f).health = d.health := rfl
@[simp] theorem modDsc_stm : (d.modDsc n f).stm = d.stm := rfl
@[simp] theorem modDsc_trc : (d.modDsc n f).trc = d.trc := rfl
@[simp] theorem modDsc_jtag : (d.modDsc n f).jtag = d.jtag := rfl
@[simp] theorem modDsc_pwr : (d.modDsc n f).pwr = d.pwr := rfl
@[simp] theorem modDsc_mgt : (d.modDsc n f).mgt = d.mgt := rfl
@[simp] theorem modDsc_msixTab : (d.modDsc n f).msixTab = d.msixTab := rfl
@[simp] theorem modDsc_rings : (d.modDsc n f).rings = d.rings := rfl
@[simp] theorem modDsc_devErr : (d.modDsc n f).devErr = d.devErr := rfl
@[simp] theorem modDsc_free : (d.modDsc n f).free = d.free := rfl
end

section
variable (d : Dev) (i : Nat) (f : Fwp → Fwp)
@[simp] theorem modFw_bt : (d.modFw i f).bt = d.bt := rfl
@[simp] theorem modFw_chans : (d.modFw i f).chans = d.chans := rfl
@[simp] theorem modFw_reqs : (d.modFw i f).reqs = d.reqs := rfl
@[simp] theorem modFw_dones : (d.modFw i f).dones = d.dones := rfl
@[simp] theorem modFw_msix : (d.modFw i f).msix = d.msix := rfl
@[simp] theorem modFw_plans : (d.modFw i f).plans = d.plans := rfl
@[simp] theorem modFw_lastHandle : (d.modFw i f).lastHandle = d.lastHandle := rfl
@[simp] theorem modFw_siteOf : (d.modFw i f).siteOf = d.siteOf := rfl
@[simp] theorem modFw_mapTs : (d.modFw i f).mapTs = d.mapTs := rfl
@[simp] theorem modFw_epoch : (d.modFw i f).epoch = d.epoch := rfl
@[simp] theorem modFw_cqs : (d.modFw i f).cqs = d.cqs := rfl
@[simp] theorem modFw_mem : (d.modFw i f).mem = d.mem := rfl
@[simp] theorem modFw_shared : (d.modFw i f).shared = d.shared := rfl
@[simp] theorem modFw_stks : (d.modFw i f).stks = d.stks := rfl
@[simp] theorem modFw_dscs : (d.modFw i f).dscs = d.dscs := rfl
@[simp] theorem modFw_sites : (d.modFw i f).sites = d.sites := rfl
@[simp] theorem modFw_rampStep : (d.modFw i f).rampStep = d.rampStep := rfl
@[simp] theorem modFw_rampBeat : (d.modFw i f).rampBeat = d.rampBeat := rfl
@[simp] theorem modFw_fenceFall : (d.modFw i f).fenceFall = d.fenceFall := rfl
@[simp] theorem modFw_wipes : (d.modFw i f).wipes = d.wipes := rfl
@[simp] theorem modFw_deliveries : (d.modFw i f).deliveries = d.deliveries := rfl
@[simp] theorem modFw_lnk : (d.modFw i f).lnk = d.lnk := rfl
@[simp] theorem modFw_col : (d.modFw i f).col = d.col := rfl
@[simp] theorem modFw_slv : (d.modFw i f).slv = d.slv := rfl
@[simp] theorem modFw_solves : (d.modFw i f).solves = d.solves := rfl
@[simp] theorem modFw_sec : (d.modFw i f).sec = d.sec := rfl
@[simp] theorem modFw_health : (d.modFw i f).health = d.health := rfl
@[simp] theorem modFw_stm : (d.modFw i f).stm = d.stm := rfl
@[simp] theorem modFw_trc : (d.modFw i f).trc = d.trc := rfl
@[simp] theorem modFw_jtag : (d.modFw i f).jtag = d.jtag := rfl
@[simp] theorem modFw_pwr : (d.modFw i f).pwr = d.pwr := rfl
@[simp] theorem modFw_mgt : (d.modFw i f).mgt = d.mgt := rfl
@[simp] theorem modFw_msixTab : (d.modFw i f).msixTab = d.msixTab := rfl
@[simp] theorem modFw_rings : (d.modFw i f).rings = d.rings := rfl
@[simp] theorem modFw_devErr : (d.modFw i f).devErr = d.devErr := rfl
@[simp] theorem modFw_free : (d.modFw i f).free = d.free := rfl
end

section
variable (d : Dev) (i : Nat) (f : StmPort → StmPort)
@[simp] theorem modStmPort_bt : (d.modStmPort i f).bt = d.bt := rfl
@[simp] theorem modStmPort_fwp : (d.modStmPort i f).fwp = d.fwp := rfl
@[simp] theorem modStmPort_chans : (d.modStmPort i f).chans = d.chans := rfl
@[simp] theorem modStmPort_reqs : (d.modStmPort i f).reqs = d.reqs := rfl
@[simp] theorem modStmPort_dones : (d.modStmPort i f).dones = d.dones := rfl
@[simp] theorem modStmPort_msix : (d.modStmPort i f).msix = d.msix := rfl
@[simp] theorem modStmPort_plans : (d.modStmPort i f).plans = d.plans := rfl
@[simp] theorem modStmPort_lastHandle : (d.modStmPort i f).lastHandle = d.lastHandle := rfl
@[simp] theorem modStmPort_siteOf : (d.modStmPort i f).siteOf = d.siteOf := rfl
@[simp] theorem modStmPort_mapTs : (d.modStmPort i f).mapTs = d.mapTs := rfl
@[simp] theorem modStmPort_epoch : (d.modStmPort i f).epoch = d.epoch := rfl
@[simp] theorem modStmPort_cqs : (d.modStmPort i f).cqs = d.cqs := rfl
@[simp] theorem modStmPort_mem : (d.modStmPort i f).mem = d.mem := rfl
@[simp] theorem modStmPort_shared : (d.modStmPort i f).shared = d.shared := rfl
@[simp] theorem modStmPort_stks : (d.modStmPort i f).stks = d.stks := rfl
@[simp] theorem modStmPort_dscs : (d.modStmPort i f).dscs = d.dscs := rfl
@[simp] theorem modStmPort_sites : (d.modStmPort i f).sites = d.sites := rfl
@[simp] theorem modStmPort_rampStep : (d.modStmPort i f).rampStep = d.rampStep := rfl
@[simp] theorem modStmPort_rampBeat : (d.modStmPort i f).rampBeat = d.rampBeat := rfl
@[simp] theorem modStmPort_fenceFall : (d.modStmPort i f).fenceFall = d.fenceFall := rfl
@[simp] theorem modStmPort_wipes : (d.modStmPort i f).wipes = d.wipes := rfl
@[simp] theorem modStmPort_deliveries : (d.modStmPort i f).deliveries = d.deliveries := rfl
@[simp] theorem modStmPort_lnk : (d.modStmPort i f).lnk = d.lnk := rfl
@[simp] theorem modStmPort_col : (d.modStmPort i f).col = d.col := rfl
@[simp] theorem modStmPort_slv : (d.modStmPort i f).slv = d.slv := rfl
@[simp] theorem modStmPort_solves : (d.modStmPort i f).solves = d.solves := rfl
@[simp] theorem modStmPort_sec : (d.modStmPort i f).sec = d.sec := rfl
@[simp] theorem modStmPort_health : (d.modStmPort i f).health = d.health := rfl
@[simp] theorem modStmPort_trc : (d.modStmPort i f).trc = d.trc := rfl
@[simp] theorem modStmPort_jtag : (d.modStmPort i f).jtag = d.jtag := rfl
@[simp] theorem modStmPort_pwr : (d.modStmPort i f).pwr = d.pwr := rfl
@[simp] theorem modStmPort_mgt : (d.modStmPort i f).mgt = d.mgt := rfl
@[simp] theorem modStmPort_msixTab : (d.modStmPort i f).msixTab = d.msixTab := rfl
@[simp] theorem modStmPort_rings : (d.modStmPort i f).rings = d.rings := rfl
@[simp] theorem modStmPort_devErr : (d.modStmPort i f).devErr = d.devErr := rfl
@[simp] theorem modStmPort_free : (d.modStmPort i f).free = d.free := rfl
end

section
variable (d : Dev) (n : Nat) (x : SiteState)
@[simp] theorem setSiteState_bt : (d.setSiteState n x).bt = d.bt := rfl
@[simp] theorem setSiteState_fwp : (d.setSiteState n x).fwp = d.fwp := rfl
@[simp] theorem setSiteState_chans : (d.setSiteState n x).chans = d.chans := rfl
@[simp] theorem setSiteState_reqs : (d.setSiteState n x).reqs = d.reqs := rfl
@[simp] theorem setSiteState_dones : (d.setSiteState n x).dones = d.dones := rfl
@[simp] theorem setSiteState_msix : (d.setSiteState n x).msix = d.msix := rfl
@[simp] theorem setSiteState_plans : (d.setSiteState n x).plans = d.plans := rfl
@[simp] theorem setSiteState_lastHandle : (d.setSiteState n x).lastHandle = d.lastHandle := rfl
@[simp] theorem setSiteState_siteOf : (d.setSiteState n x).siteOf = d.siteOf := rfl
@[simp] theorem setSiteState_mapTs : (d.setSiteState n x).mapTs = d.mapTs := rfl
@[simp] theorem setSiteState_epoch : (d.setSiteState n x).epoch = d.epoch := rfl
@[simp] theorem setSiteState_cqs : (d.setSiteState n x).cqs = d.cqs := rfl
@[simp] theorem setSiteState_mem : (d.setSiteState n x).mem = d.mem := rfl
@[simp] theorem setSiteState_shared : (d.setSiteState n x).shared = d.shared := rfl
@[simp] theorem setSiteState_stks : (d.setSiteState n x).stks = d.stks := rfl
@[simp] theorem setSiteState_dscs : (d.setSiteState n x).dscs = d.dscs := rfl
@[simp] theorem setSiteState_sites : (d.setSiteState n x).sites = d.sites := rfl
@[simp] theorem setSiteState_rampStep : (d.setSiteState n x).rampStep = d.rampStep := rfl
@[simp] theorem setSiteState_rampBeat : (d.setSiteState n x).rampBeat = d.rampBeat := rfl
@[simp] theorem setSiteState_fenceFall : (d.setSiteState n x).fenceFall = d.fenceFall := rfl
@[simp] theorem setSiteState_wipes : (d.setSiteState n x).wipes = d.wipes := rfl
@[simp] theorem setSiteState_deliveries : (d.setSiteState n x).deliveries = d.deliveries := rfl
@[simp] theorem setSiteState_lnk : (d.setSiteState n x).lnk = d.lnk := rfl
@[simp] theorem setSiteState_col : (d.setSiteState n x).col = d.col := rfl
@[simp] theorem setSiteState_slv : (d.setSiteState n x).slv = d.slv := rfl
@[simp] theorem setSiteState_solves : (d.setSiteState n x).solves = d.solves := rfl
@[simp] theorem setSiteState_sec : (d.setSiteState n x).sec = d.sec := rfl
@[simp] theorem setSiteState_stm : (d.setSiteState n x).stm = d.stm := rfl
@[simp] theorem setSiteState_trc : (d.setSiteState n x).trc = d.trc := rfl
@[simp] theorem setSiteState_jtag : (d.setSiteState n x).jtag = d.jtag := rfl
@[simp] theorem setSiteState_pwr : (d.setSiteState n x).pwr = d.pwr := rfl
@[simp] theorem setSiteState_mgt : (d.setSiteState n x).mgt = d.mgt := rfl
@[simp] theorem setSiteState_msixTab : (d.setSiteState n x).msixTab = d.msixTab := rfl
@[simp] theorem setSiteState_rings : (d.setSiteState n x).rings = d.rings := rfl
@[simp] theorem setSiteState_devErr : (d.setSiteState n x).devErr = d.devErr := rfl
@[simp] theorem setSiteState_free : (d.setSiteState n x).free = d.free := rfl
end

section
variable (d : Dev) (h : BitVec 16) (f : Plan → Plan)
@[simp] theorem modPlan_bt : (d.modPlan h f).bt = d.bt := rfl
@[simp] theorem modPlan_fwp : (d.modPlan h f).fwp = d.fwp := rfl
@[simp] theorem modPlan_chans : (d.modPlan h f).chans = d.chans := rfl
@[simp] theorem modPlan_reqs : (d.modPlan h f).reqs = d.reqs := rfl
@[simp] theorem modPlan_dones : (d.modPlan h f).dones = d.dones := rfl
@[simp] theorem modPlan_msix : (d.modPlan h f).msix = d.msix := rfl
@[simp] theorem modPlan_lastHandle : (d.modPlan h f).lastHandle = d.lastHandle := rfl
@[simp] theorem modPlan_siteOf : (d.modPlan h f).siteOf = d.siteOf := rfl
@[simp] theorem modPlan_mapTs : (d.modPlan h f).mapTs = d.mapTs := rfl
@[simp] theorem modPlan_epoch : (d.modPlan h f).epoch = d.epoch := rfl
@[simp] theorem modPlan_cqs : (d.modPlan h f).cqs = d.cqs := rfl
@[simp] theorem modPlan_mem : (d.modPlan h f).mem = d.mem := rfl
@[simp] theorem modPlan_shared : (d.modPlan h f).shared = d.shared := rfl
@[simp] theorem modPlan_stks : (d.modPlan h f).stks = d.stks := rfl
@[simp] theorem modPlan_dscs : (d.modPlan h f).dscs = d.dscs := rfl
@[simp] theorem modPlan_sites : (d.modPlan h f).sites = d.sites := rfl
@[simp] theorem modPlan_rampStep : (d.modPlan h f).rampStep = d.rampStep := rfl
@[simp] theorem modPlan_rampBeat : (d.modPlan h f).rampBeat = d.rampBeat := rfl
@[simp] theorem modPlan_fenceFall : (d.modPlan h f).fenceFall = d.fenceFall := rfl
@[simp] theorem modPlan_wipes : (d.modPlan h f).wipes = d.wipes := rfl
@[simp] theorem modPlan_deliveries : (d.modPlan h f).deliveries = d.deliveries := rfl
@[simp] theorem modPlan_lnk : (d.modPlan h f).lnk = d.lnk := rfl
@[simp] theorem modPlan_col : (d.modPlan h f).col = d.col := rfl
@[simp] theorem modPlan_slv : (d.modPlan h f).slv = d.slv := rfl
@[simp] theorem modPlan_solves : (d.modPlan h f).solves = d.solves := rfl
@[simp] theorem modPlan_sec : (d.modPlan h f).sec = d.sec := rfl
@[simp] theorem modPlan_health : (d.modPlan h f).health = d.health := rfl
@[simp] theorem modPlan_stm : (d.modPlan h f).stm = d.stm := rfl
@[simp] theorem modPlan_trc : (d.modPlan h f).trc = d.trc := rfl
@[simp] theorem modPlan_jtag : (d.modPlan h f).jtag = d.jtag := rfl
@[simp] theorem modPlan_pwr : (d.modPlan h f).pwr = d.pwr := rfl
@[simp] theorem modPlan_mgt : (d.modPlan h f).mgt = d.mgt := rfl
@[simp] theorem modPlan_msixTab : (d.modPlan h f).msixTab = d.msixTab := rfl
@[simp] theorem modPlan_rings : (d.modPlan h f).rings = d.rings := rfl
@[simp] theorem modPlan_devErr : (d.modPlan h f).devErr = d.devErr := rfl
@[simp] theorem modPlan_free : (d.modPlan h f).free = d.free := rfl
end

section
variable (d : Dev) (i : Nat) (f : Port → Port)
@[simp] theorem modPort_bt : (d.modPort i f).bt = d.bt := rfl
@[simp] theorem modPort_fwp : (d.modPort i f).fwp = d.fwp := rfl
@[simp] theorem modPort_chans : (d.modPort i f).chans = d.chans := rfl
@[simp] theorem modPort_reqs : (d.modPort i f).reqs = d.reqs := rfl
@[simp] theorem modPort_dones : (d.modPort i f).dones = d.dones := rfl
@[simp] theorem modPort_msix : (d.modPort i f).msix = d.msix := rfl
@[simp] theorem modPort_plans : (d.modPort i f).plans = d.plans := rfl
@[simp] theorem modPort_lastHandle : (d.modPort i f).lastHandle = d.lastHandle := rfl
@[simp] theorem modPort_siteOf : (d.modPort i f).siteOf = d.siteOf := rfl
@[simp] theorem modPort_mapTs : (d.modPort i f).mapTs = d.mapTs := rfl
@[simp] theorem modPort_epoch : (d.modPort i f).epoch = d.epoch := rfl
@[simp] theorem modPort_cqs : (d.modPort i f).cqs = d.cqs := rfl
@[simp] theorem modPort_mem : (d.modPort i f).mem = d.mem := rfl
@[simp] theorem modPort_shared : (d.modPort i f).shared = d.shared := rfl
@[simp] theorem modPort_stks : (d.modPort i f).stks = d.stks := rfl
@[simp] theorem modPort_dscs : (d.modPort i f).dscs = d.dscs := rfl
@[simp] theorem modPort_sites : (d.modPort i f).sites = d.sites := rfl
@[simp] theorem modPort_rampStep : (d.modPort i f).rampStep = d.rampStep := rfl
@[simp] theorem modPort_rampBeat : (d.modPort i f).rampBeat = d.rampBeat := rfl
@[simp] theorem modPort_fenceFall : (d.modPort i f).fenceFall = d.fenceFall := rfl
@[simp] theorem modPort_wipes : (d.modPort i f).wipes = d.wipes := rfl
@[simp] theorem modPort_deliveries : (d.modPort i f).deliveries = d.deliveries := rfl
@[simp] theorem modPort_col : (d.modPort i f).col = d.col := rfl
@[simp] theorem modPort_slv : (d.modPort i f).slv = d.slv := rfl
@[simp] theorem modPort_solves : (d.modPort i f).solves = d.solves := rfl
@[simp] theorem modPort_sec : (d.modPort i f).sec = d.sec := rfl
@[simp] theorem modPort_health : (d.modPort i f).health = d.health := rfl
@[simp] theorem modPort_stm : (d.modPort i f).stm = d.stm := rfl
@[simp] theorem modPort_trc : (d.modPort i f).trc = d.trc := rfl
@[simp] theorem modPort_jtag : (d.modPort i f).jtag = d.jtag := rfl
@[simp] theorem modPort_pwr : (d.modPort i f).pwr = d.pwr := rfl
@[simp] theorem modPort_mgt : (d.modPort i f).mgt = d.mgt := rfl
@[simp] theorem modPort_msixTab : (d.modPort i f).msixTab = d.msixTab := rfl
@[simp] theorem modPort_rings : (d.modPort i f).rings = d.rings := rfl
@[simp] theorem modPort_devErr : (d.modPort i f).devErr = d.devErr := rfl
@[simp] theorem modPort_free : (d.modPort i f).free = d.free := rfl
end

section
variable (d : Dev) (k : Nat) (x : DomState)
@[simp] theorem setDom_bt : (d.setDom k x).bt = d.bt := rfl
@[simp] theorem setDom_fwp : (d.setDom k x).fwp = d.fwp := rfl
@[simp] theorem setDom_chans : (d.setDom k x).chans = d.chans := rfl
@[simp] theorem setDom_reqs : (d.setDom k x).reqs = d.reqs := rfl
@[simp] theorem setDom_dones : (d.setDom k x).dones = d.dones := rfl
@[simp] theorem setDom_msix : (d.setDom k x).msix = d.msix := rfl
@[simp] theorem setDom_plans : (d.setDom k x).plans = d.plans := rfl
@[simp] theorem setDom_lastHandle : (d.setDom k x).lastHandle = d.lastHandle := rfl
@[simp] theorem setDom_siteOf : (d.setDom k x).siteOf = d.siteOf := rfl
@[simp] theorem setDom_mapTs : (d.setDom k x).mapTs = d.mapTs := rfl
@[simp] theorem setDom_epoch : (d.setDom k x).epoch = d.epoch := rfl
@[simp] theorem setDom_cqs : (d.setDom k x).cqs = d.cqs := rfl
@[simp] theorem setDom_mem : (d.setDom k x).mem = d.mem := rfl
@[simp] theorem setDom_shared : (d.setDom k x).shared = d.shared := rfl
@[simp] theorem setDom_stks : (d.setDom k x).stks = d.stks := rfl
@[simp] theorem setDom_dscs : (d.setDom k x).dscs = d.dscs := rfl
@[simp] theorem setDom_sites : (d.setDom k x).sites = d.sites := rfl
@[simp] theorem setDom_rampStep : (d.setDom k x).rampStep = d.rampStep := rfl
@[simp] theorem setDom_rampBeat : (d.setDom k x).rampBeat = d.rampBeat := rfl
@[simp] theorem setDom_fenceFall : (d.setDom k x).fenceFall = d.fenceFall := rfl
@[simp] theorem setDom_wipes : (d.setDom k x).wipes = d.wipes := rfl
@[simp] theorem setDom_deliveries : (d.setDom k x).deliveries = d.deliveries := rfl
@[simp] theorem setDom_lnk : (d.setDom k x).lnk = d.lnk := rfl
@[simp] theorem setDom_col : (d.setDom k x).col = d.col := rfl
@[simp] theorem setDom_slv : (d.setDom k x).slv = d.slv := rfl
@[simp] theorem setDom_solves : (d.setDom k x).solves = d.solves := rfl
@[simp] theorem setDom_sec : (d.setDom k x).sec = d.sec := rfl
@[simp] theorem setDom_health : (d.setDom k x).health = d.health := rfl
@[simp] theorem setDom_stm : (d.setDom k x).stm = d.stm := rfl
@[simp] theorem setDom_trc : (d.setDom k x).trc = d.trc := rfl
@[simp] theorem setDom_jtag : (d.setDom k x).jtag = d.jtag := rfl
@[simp] theorem setDom_mgt : (d.setDom k x).mgt = d.mgt := rfl
@[simp] theorem setDom_msixTab : (d.setDom k x).msixTab = d.msixTab := rfl
@[simp] theorem setDom_rings : (d.setDom k x).rings = d.rings := rfl
@[simp] theorem setDom_devErr : (d.setDom k x).devErr = d.devErr := rfl
@[simp] theorem setDom_free : (d.setDom k x).free = d.free := rfl
end

section
variable (d : Dev) (f : Health → Health)
@[simp] theorem modHealth_bt : (d.modHealth f).bt = d.bt := rfl
@[simp] theorem modHealth_fwp : (d.modHealth f).fwp = d.fwp := rfl
@[simp] theorem modHealth_chans : (d.modHealth f).chans = d.chans := rfl
@[simp] theorem modHealth_reqs : (d.modHealth f).reqs = d.reqs := rfl
@[simp] theorem modHealth_dones : (d.modHealth f).dones = d.dones := rfl
@[simp] theorem modHealth_msix : (d.modHealth f).msix = d.msix := rfl
@[simp] theorem modHealth_plans : (d.modHealth f).plans = d.plans := rfl
@[simp] theorem modHealth_lastHandle : (d.modHealth f).lastHandle = d.lastHandle := rfl
@[simp] theorem modHealth_siteOf : (d.modHealth f).siteOf = d.siteOf := rfl
@[simp] theorem modHealth_mapTs : (d.modHealth f).mapTs = d.mapTs := rfl
@[simp] theorem modHealth_epoch : (d.modHealth f).epoch = d.epoch := rfl
@[simp] theorem modHealth_cqs : (d.modHealth f).cqs = d.cqs := rfl
@[simp] theorem modHealth_mem : (d.modHealth f).mem = d.mem := rfl
@[simp] theorem modHealth_shared : (d.modHealth f).shared = d.shared := rfl
@[simp] theorem modHealth_stks : (d.modHealth f).stks = d.stks := rfl
@[simp] theorem modHealth_dscs : (d.modHealth f).dscs = d.dscs := rfl
@[simp] theorem modHealth_sites : (d.modHealth f).sites = d.sites := rfl
@[simp] theorem modHealth_rampStep : (d.modHealth f).rampStep = d.rampStep := rfl
@[simp] theorem modHealth_rampBeat : (d.modHealth f).rampBeat = d.rampBeat := rfl
@[simp] theorem modHealth_fenceFall : (d.modHealth f).fenceFall = d.fenceFall := rfl
@[simp] theorem modHealth_wipes : (d.modHealth f).wipes = d.wipes := rfl
@[simp] theorem modHealth_deliveries : (d.modHealth f).deliveries = d.deliveries := rfl
@[simp] theorem modHealth_lnk : (d.modHealth f).lnk = d.lnk := rfl
@[simp] theorem modHealth_col : (d.modHealth f).col = d.col := rfl
@[simp] theorem modHealth_slv : (d.modHealth f).slv = d.slv := rfl
@[simp] theorem modHealth_solves : (d.modHealth f).solves = d.solves := rfl
@[simp] theorem modHealth_sec : (d.modHealth f).sec = d.sec := rfl
@[simp] theorem modHealth_stm : (d.modHealth f).stm = d.stm := rfl
@[simp] theorem modHealth_trc : (d.modHealth f).trc = d.trc := rfl
@[simp] theorem modHealth_jtag : (d.modHealth f).jtag = d.jtag := rfl
@[simp] theorem modHealth_pwr : (d.modHealth f).pwr = d.pwr := rfl
@[simp] theorem modHealth_mgt : (d.modHealth f).mgt = d.mgt := rfl
@[simp] theorem modHealth_msixTab : (d.modHealth f).msixTab = d.msixTab := rfl
@[simp] theorem modHealth_rings : (d.modHealth f).rings = d.rings := rfl
@[simp] theorem modHealth_devErr : (d.modHealth f).devErr = d.devErr := rfl
@[simp] theorem modHealth_free : (d.modHealth f).free = d.free := rfl
end

section
variable (d : Dev) (f : Bt → Bt)
@[simp] theorem modBt_fwp : (d.modBt f).fwp = d.fwp := rfl
@[simp] theorem modBt_chans : (d.modBt f).chans = d.chans := rfl
@[simp] theorem modBt_reqs : (d.modBt f).reqs = d.reqs := rfl
@[simp] theorem modBt_dones : (d.modBt f).dones = d.dones := rfl
@[simp] theorem modBt_msix : (d.modBt f).msix = d.msix := rfl
@[simp] theorem modBt_plans : (d.modBt f).plans = d.plans := rfl
@[simp] theorem modBt_lastHandle : (d.modBt f).lastHandle = d.lastHandle := rfl
@[simp] theorem modBt_siteOf : (d.modBt f).siteOf = d.siteOf := rfl
@[simp] theorem modBt_mapTs : (d.modBt f).mapTs = d.mapTs := rfl
@[simp] theorem modBt_epoch : (d.modBt f).epoch = d.epoch := rfl
@[simp] theorem modBt_cqs : (d.modBt f).cqs = d.cqs := rfl
@[simp] theorem modBt_mem : (d.modBt f).mem = d.mem := rfl
@[simp] theorem modBt_shared : (d.modBt f).shared = d.shared := rfl
@[simp] theorem modBt_stks : (d.modBt f).stks = d.stks := rfl
@[simp] theorem modBt_dscs : (d.modBt f).dscs = d.dscs := rfl
@[simp] theorem modBt_sites : (d.modBt f).sites = d.sites := rfl
@[simp] theorem modBt_rampStep : (d.modBt f).rampStep = d.rampStep := rfl
@[simp] theorem modBt_rampBeat : (d.modBt f).rampBeat = d.rampBeat := rfl
@[simp] theorem modBt_fenceFall : (d.modBt f).fenceFall = d.fenceFall := rfl
@[simp] theorem modBt_wipes : (d.modBt f).wipes = d.wipes := rfl
@[simp] theorem modBt_deliveries : (d.modBt f).deliveries = d.deliveries := rfl
@[simp] theorem modBt_lnk : (d.modBt f).lnk = d.lnk := rfl
@[simp] theorem modBt_col : (d.modBt f).col = d.col := rfl
@[simp] theorem modBt_slv : (d.modBt f).slv = d.slv := rfl
@[simp] theorem modBt_solves : (d.modBt f).solves = d.solves := rfl
@[simp] theorem modBt_sec : (d.modBt f).sec = d.sec := rfl
@[simp] theorem modBt_health : (d.modBt f).health = d.health := rfl
@[simp] theorem modBt_stm : (d.modBt f).stm = d.stm := rfl
@[simp] theorem modBt_trc : (d.modBt f).trc = d.trc := rfl
@[simp] theorem modBt_jtag : (d.modBt f).jtag = d.jtag := rfl
@[simp] theorem modBt_pwr : (d.modBt f).pwr = d.pwr := rfl
@[simp] theorem modBt_mgt : (d.modBt f).mgt = d.mgt := rfl
@[simp] theorem modBt_msixTab : (d.modBt f).msixTab = d.msixTab := rfl
@[simp] theorem modBt_rings : (d.modBt f).rings = d.rings := rfl
@[simp] theorem modBt_devErr : (d.modBt f).devErr = d.devErr := rfl
@[simp] theorem modBt_free : (d.modBt f).free = d.free := rfl
end

section
variable (d : Dev) (f : Mgt → Mgt)
@[simp] theorem modMgt_bt : (d.modMgt f).bt = d.bt := rfl
@[simp] theorem modMgt_fwp : (d.modMgt f).fwp = d.fwp := rfl
@[simp] theorem modMgt_chans : (d.modMgt f).chans = d.chans := rfl
@[simp] theorem modMgt_reqs : (d.modMgt f).reqs = d.reqs := rfl
@[simp] theorem modMgt_dones : (d.modMgt f).dones = d.dones := rfl
@[simp] theorem modMgt_msix : (d.modMgt f).msix = d.msix := rfl
@[simp] theorem modMgt_plans : (d.modMgt f).plans = d.plans := rfl
@[simp] theorem modMgt_lastHandle : (d.modMgt f).lastHandle = d.lastHandle := rfl
@[simp] theorem modMgt_siteOf : (d.modMgt f).siteOf = d.siteOf := rfl
@[simp] theorem modMgt_mapTs : (d.modMgt f).mapTs = d.mapTs := rfl
@[simp] theorem modMgt_epoch : (d.modMgt f).epoch = d.epoch := rfl
@[simp] theorem modMgt_cqs : (d.modMgt f).cqs = d.cqs := rfl
@[simp] theorem modMgt_mem : (d.modMgt f).mem = d.mem := rfl
@[simp] theorem modMgt_shared : (d.modMgt f).shared = d.shared := rfl
@[simp] theorem modMgt_stks : (d.modMgt f).stks = d.stks := rfl
@[simp] theorem modMgt_dscs : (d.modMgt f).dscs = d.dscs := rfl
@[simp] theorem modMgt_sites : (d.modMgt f).sites = d.sites := rfl
@[simp] theorem modMgt_rampStep : (d.modMgt f).rampStep = d.rampStep := rfl
@[simp] theorem modMgt_rampBeat : (d.modMgt f).rampBeat = d.rampBeat := rfl
@[simp] theorem modMgt_fenceFall : (d.modMgt f).fenceFall = d.fenceFall := rfl
@[simp] theorem modMgt_wipes : (d.modMgt f).wipes = d.wipes := rfl
@[simp] theorem modMgt_deliveries : (d.modMgt f).deliveries = d.deliveries := rfl
@[simp] theorem modMgt_lnk : (d.modMgt f).lnk = d.lnk := rfl
@[simp] theorem modMgt_col : (d.modMgt f).col = d.col := rfl
@[simp] theorem modMgt_slv : (d.modMgt f).slv = d.slv := rfl
@[simp] theorem modMgt_solves : (d.modMgt f).solves = d.solves := rfl
@[simp] theorem modMgt_sec : (d.modMgt f).sec = d.sec := rfl
@[simp] theorem modMgt_health : (d.modMgt f).health = d.health := rfl
@[simp] theorem modMgt_stm : (d.modMgt f).stm = d.stm := rfl
@[simp] theorem modMgt_trc : (d.modMgt f).trc = d.trc := rfl
@[simp] theorem modMgt_jtag : (d.modMgt f).jtag = d.jtag := rfl
@[simp] theorem modMgt_pwr : (d.modMgt f).pwr = d.pwr := rfl
@[simp] theorem modMgt_msixTab : (d.modMgt f).msixTab = d.msixTab := rfl
@[simp] theorem modMgt_rings : (d.modMgt f).rings = d.rings := rfl
@[simp] theorem modMgt_devErr : (d.modMgt f).devErr = d.devErr := rfl
@[simp] theorem modMgt_free : (d.modMgt f).free = d.free := rfl
end

section
variable (d : Dev) (e : Nat) (f : Slv → Slv)
@[simp] theorem modSlv_bt : (d.modSlv e f).bt = d.bt := rfl
@[simp] theorem modSlv_fwp : (d.modSlv e f).fwp = d.fwp := rfl
@[simp] theorem modSlv_chans : (d.modSlv e f).chans = d.chans := rfl
@[simp] theorem modSlv_reqs : (d.modSlv e f).reqs = d.reqs := rfl
@[simp] theorem modSlv_dones : (d.modSlv e f).dones = d.dones := rfl
@[simp] theorem modSlv_msix : (d.modSlv e f).msix = d.msix := rfl
@[simp] theorem modSlv_plans : (d.modSlv e f).plans = d.plans := rfl
@[simp] theorem modSlv_lastHandle : (d.modSlv e f).lastHandle = d.lastHandle := rfl
@[simp] theorem modSlv_siteOf : (d.modSlv e f).siteOf = d.siteOf := rfl
@[simp] theorem modSlv_mapTs : (d.modSlv e f).mapTs = d.mapTs := rfl
@[simp] theorem modSlv_epoch : (d.modSlv e f).epoch = d.epoch := rfl
@[simp] theorem modSlv_cqs : (d.modSlv e f).cqs = d.cqs := rfl
@[simp] theorem modSlv_mem : (d.modSlv e f).mem = d.mem := rfl
@[simp] theorem modSlv_shared : (d.modSlv e f).shared = d.shared := rfl
@[simp] theorem modSlv_stks : (d.modSlv e f).stks = d.stks := rfl
@[simp] theorem modSlv_dscs : (d.modSlv e f).dscs = d.dscs := rfl
@[simp] theorem modSlv_sites : (d.modSlv e f).sites = d.sites := rfl
@[simp] theorem modSlv_rampStep : (d.modSlv e f).rampStep = d.rampStep := rfl
@[simp] theorem modSlv_rampBeat : (d.modSlv e f).rampBeat = d.rampBeat := rfl
@[simp] theorem modSlv_fenceFall : (d.modSlv e f).fenceFall = d.fenceFall := rfl
@[simp] theorem modSlv_wipes : (d.modSlv e f).wipes = d.wipes := rfl
@[simp] theorem modSlv_deliveries : (d.modSlv e f).deliveries = d.deliveries := rfl
@[simp] theorem modSlv_lnk : (d.modSlv e f).lnk = d.lnk := rfl
@[simp] theorem modSlv_col : (d.modSlv e f).col = d.col := rfl
@[simp] theorem modSlv_solves : (d.modSlv e f).solves = d.solves := rfl
@[simp] theorem modSlv_sec : (d.modSlv e f).sec = d.sec := rfl
@[simp] theorem modSlv_health : (d.modSlv e f).health = d.health := rfl
@[simp] theorem modSlv_stm : (d.modSlv e f).stm = d.stm := rfl
@[simp] theorem modSlv_trc : (d.modSlv e f).trc = d.trc := rfl
@[simp] theorem modSlv_jtag : (d.modSlv e f).jtag = d.jtag := rfl
@[simp] theorem modSlv_pwr : (d.modSlv e f).pwr = d.pwr := rfl
@[simp] theorem modSlv_mgt : (d.modSlv e f).mgt = d.mgt := rfl
@[simp] theorem modSlv_msixTab : (d.modSlv e f).msixTab = d.msixTab := rfl
@[simp] theorem modSlv_rings : (d.modSlv e f).rings = d.rings := rfl
@[simp] theorem modSlv_devErr : (d.modSlv e f).devErr = d.devErr := rfl
@[simp] theorem modSlv_free : (d.modSlv e f).free = d.free := rfl
end

section
variable (d : Dev) (k : SolveKey) (f : SolveJob → SolveJob)
@[simp] theorem modSolve_bt : (d.modSolve k f).bt = d.bt := rfl
@[simp] theorem modSolve_fwp : (d.modSolve k f).fwp = d.fwp := rfl
@[simp] theorem modSolve_chans : (d.modSolve k f).chans = d.chans := rfl
@[simp] theorem modSolve_reqs : (d.modSolve k f).reqs = d.reqs := rfl
@[simp] theorem modSolve_dones : (d.modSolve k f).dones = d.dones := rfl
@[simp] theorem modSolve_msix : (d.modSolve k f).msix = d.msix := rfl
@[simp] theorem modSolve_plans : (d.modSolve k f).plans = d.plans := rfl
@[simp] theorem modSolve_lastHandle : (d.modSolve k f).lastHandle = d.lastHandle := rfl
@[simp] theorem modSolve_siteOf : (d.modSolve k f).siteOf = d.siteOf := rfl
@[simp] theorem modSolve_mapTs : (d.modSolve k f).mapTs = d.mapTs := rfl
@[simp] theorem modSolve_epoch : (d.modSolve k f).epoch = d.epoch := rfl
@[simp] theorem modSolve_cqs : (d.modSolve k f).cqs = d.cqs := rfl
@[simp] theorem modSolve_mem : (d.modSolve k f).mem = d.mem := rfl
@[simp] theorem modSolve_shared : (d.modSolve k f).shared = d.shared := rfl
@[simp] theorem modSolve_stks : (d.modSolve k f).stks = d.stks := rfl
@[simp] theorem modSolve_dscs : (d.modSolve k f).dscs = d.dscs := rfl
@[simp] theorem modSolve_sites : (d.modSolve k f).sites = d.sites := rfl
@[simp] theorem modSolve_rampStep : (d.modSolve k f).rampStep = d.rampStep := rfl
@[simp] theorem modSolve_rampBeat : (d.modSolve k f).rampBeat = d.rampBeat := rfl
@[simp] theorem modSolve_fenceFall : (d.modSolve k f).fenceFall = d.fenceFall := rfl
@[simp] theorem modSolve_wipes : (d.modSolve k f).wipes = d.wipes := rfl
@[simp] theorem modSolve_deliveries : (d.modSolve k f).deliveries = d.deliveries := rfl
@[simp] theorem modSolve_lnk : (d.modSolve k f).lnk = d.lnk := rfl
@[simp] theorem modSolve_col : (d.modSolve k f).col = d.col := rfl
@[simp] theorem modSolve_slv : (d.modSolve k f).slv = d.slv := rfl
@[simp] theorem modSolve_sec : (d.modSolve k f).sec = d.sec := rfl
@[simp] theorem modSolve_health : (d.modSolve k f).health = d.health := rfl
@[simp] theorem modSolve_stm : (d.modSolve k f).stm = d.stm := rfl
@[simp] theorem modSolve_trc : (d.modSolve k f).trc = d.trc := rfl
@[simp] theorem modSolve_jtag : (d.modSolve k f).jtag = d.jtag := rfl
@[simp] theorem modSolve_pwr : (d.modSolve k f).pwr = d.pwr := rfl
@[simp] theorem modSolve_mgt : (d.modSolve k f).mgt = d.mgt := rfl
@[simp] theorem modSolve_msixTab : (d.modSolve k f).msixTab = d.msixTab := rfl
@[simp] theorem modSolve_rings : (d.modSolve k f).rings = d.rings := rfl
@[simp] theorem modSolve_devErr : (d.modSolve k f).devErr = d.devErr := rfl
@[simp] theorem modSolve_free : (d.modSolve k f).free = d.free := rfl
end

section
variable (d : Dev) (i : Nat) (f : SendJob → SendJob)
@[simp] theorem modSend_bt : (d.modSend i f).bt = d.bt := rfl
@[simp] theorem modSend_fwp : (d.modSend i f).fwp = d.fwp := rfl
@[simp] theorem modSend_chans : (d.modSend i f).chans = d.chans := rfl
@[simp] theorem modSend_reqs : (d.modSend i f).reqs = d.reqs := rfl
@[simp] theorem modSend_dones : (d.modSend i f).dones = d.dones := rfl
@[simp] theorem modSend_msix : (d.modSend i f).msix = d.msix := rfl
@[simp] theorem modSend_plans : (d.modSend i f).plans = d.plans := rfl
@[simp] theorem modSend_lastHandle : (d.modSend i f).lastHandle = d.lastHandle := rfl
@[simp] theorem modSend_siteOf : (d.modSend i f).siteOf = d.siteOf := rfl
@[simp] theorem modSend_mapTs : (d.modSend i f).mapTs = d.mapTs := rfl
@[simp] theorem modSend_epoch : (d.modSend i f).epoch = d.epoch := rfl
@[simp] theorem modSend_cqs : (d.modSend i f).cqs = d.cqs := rfl
@[simp] theorem modSend_mem : (d.modSend i f).mem = d.mem := rfl
@[simp] theorem modSend_shared : (d.modSend i f).shared = d.shared := rfl
@[simp] theorem modSend_stks : (d.modSend i f).stks = d.stks := rfl
@[simp] theorem modSend_dscs : (d.modSend i f).dscs = d.dscs := rfl
@[simp] theorem modSend_sites : (d.modSend i f).sites = d.sites := rfl
@[simp] theorem modSend_rampStep : (d.modSend i f).rampStep = d.rampStep := rfl
@[simp] theorem modSend_rampBeat : (d.modSend i f).rampBeat = d.rampBeat := rfl
@[simp] theorem modSend_fenceFall : (d.modSend i f).fenceFall = d.fenceFall := rfl
@[simp] theorem modSend_wipes : (d.modSend i f).wipes = d.wipes := rfl
@[simp] theorem modSend_deliveries : (d.modSend i f).deliveries = d.deliveries := rfl
@[simp] theorem modSend_col : (d.modSend i f).col = d.col := rfl
@[simp] theorem modSend_slv : (d.modSend i f).slv = d.slv := rfl
@[simp] theorem modSend_solves : (d.modSend i f).solves = d.solves := rfl
@[simp] theorem modSend_sec : (d.modSend i f).sec = d.sec := rfl
@[simp] theorem modSend_health : (d.modSend i f).health = d.health := rfl
@[simp] theorem modSend_stm : (d.modSend i f).stm = d.stm := rfl
@[simp] theorem modSend_trc : (d.modSend i f).trc = d.trc := rfl
@[simp] theorem modSend_jtag : (d.modSend i f).jtag = d.jtag := rfl
@[simp] theorem modSend_pwr : (d.modSend i f).pwr = d.pwr := rfl
@[simp] theorem modSend_mgt : (d.modSend i f).mgt = d.mgt := rfl
@[simp] theorem modSend_msixTab : (d.modSend i f).msixTab = d.msixTab := rfl
@[simp] theorem modSend_rings : (d.modSend i f).rings = d.rings := rfl
@[simp] theorem modSend_devErr : (d.modSend i f).devErr = d.devErr := rfl
@[simp] theorem modSend_free : (d.modSend i f).free = d.free := rfl
end

section
variable (d : Dev) (i : Nat) (f : CollJob → CollJob)
@[simp] theorem modColl_bt : (d.modColl i f).bt = d.bt := rfl
@[simp] theorem modColl_fwp : (d.modColl i f).fwp = d.fwp := rfl
@[simp] theorem modColl_chans : (d.modColl i f).chans = d.chans := rfl
@[simp] theorem modColl_reqs : (d.modColl i f).reqs = d.reqs := rfl
@[simp] theorem modColl_dones : (d.modColl i f).dones = d.dones := rfl
@[simp] theorem modColl_msix : (d.modColl i f).msix = d.msix := rfl
@[simp] theorem modColl_plans : (d.modColl i f).plans = d.plans := rfl
@[simp] theorem modColl_lastHandle : (d.modColl i f).lastHandle = d.lastHandle := rfl
@[simp] theorem modColl_siteOf : (d.modColl i f).siteOf = d.siteOf := rfl
@[simp] theorem modColl_mapTs : (d.modColl i f).mapTs = d.mapTs := rfl
@[simp] theorem modColl_epoch : (d.modColl i f).epoch = d.epoch := rfl
@[simp] theorem modColl_cqs : (d.modColl i f).cqs = d.cqs := rfl
@[simp] theorem modColl_mem : (d.modColl i f).mem = d.mem := rfl
@[simp] theorem modColl_shared : (d.modColl i f).shared = d.shared := rfl
@[simp] theorem modColl_stks : (d.modColl i f).stks = d.stks := rfl
@[simp] theorem modColl_dscs : (d.modColl i f).dscs = d.dscs := rfl
@[simp] theorem modColl_sites : (d.modColl i f).sites = d.sites := rfl
@[simp] theorem modColl_rampStep : (d.modColl i f).rampStep = d.rampStep := rfl
@[simp] theorem modColl_rampBeat : (d.modColl i f).rampBeat = d.rampBeat := rfl
@[simp] theorem modColl_fenceFall : (d.modColl i f).fenceFall = d.fenceFall := rfl
@[simp] theorem modColl_wipes : (d.modColl i f).wipes = d.wipes := rfl
@[simp] theorem modColl_deliveries : (d.modColl i f).deliveries = d.deliveries := rfl
@[simp] theorem modColl_lnk : (d.modColl i f).lnk = d.lnk := rfl
@[simp] theorem modColl_slv : (d.modColl i f).slv = d.slv := rfl
@[simp] theorem modColl_solves : (d.modColl i f).solves = d.solves := rfl
@[simp] theorem modColl_sec : (d.modColl i f).sec = d.sec := rfl
@[simp] theorem modColl_health : (d.modColl i f).health = d.health := rfl
@[simp] theorem modColl_stm : (d.modColl i f).stm = d.stm := rfl
@[simp] theorem modColl_trc : (d.modColl i f).trc = d.trc := rfl
@[simp] theorem modColl_jtag : (d.modColl i f).jtag = d.jtag := rfl
@[simp] theorem modColl_pwr : (d.modColl i f).pwr = d.pwr := rfl
@[simp] theorem modColl_mgt : (d.modColl i f).mgt = d.mgt := rfl
@[simp] theorem modColl_msixTab : (d.modColl i f).msixTab = d.msixTab := rfl
@[simp] theorem modColl_rings : (d.modColl i f).rings = d.rings := rfl
@[simp] theorem modColl_devErr : (d.modColl i f).devErr = d.devErr := rfl
@[simp] theorem modColl_free : (d.modColl i f).free = d.free := rfl
end

section
variable (d : Dev) (n : Nat) (f : Qnt → Qnt)
@[simp] theorem modQnt_bt : (d.modQnt n f).bt = d.bt := rfl
@[simp] theorem modQnt_fwp : (d.modQnt n f).fwp = d.fwp := rfl
@[simp] theorem modQnt_chans : (d.modQnt n f).chans = d.chans := rfl
@[simp] theorem modQnt_reqs : (d.modQnt n f).reqs = d.reqs := rfl
@[simp] theorem modQnt_dones : (d.modQnt n f).dones = d.dones := rfl
@[simp] theorem modQnt_msix : (d.modQnt n f).msix = d.msix := rfl
@[simp] theorem modQnt_plans : (d.modQnt n f).plans = d.plans := rfl
@[simp] theorem modQnt_lastHandle : (d.modQnt n f).lastHandle = d.lastHandle := rfl
@[simp] theorem modQnt_siteOf : (d.modQnt n f).siteOf = d.siteOf := rfl
@[simp] theorem modQnt_mapTs : (d.modQnt n f).mapTs = d.mapTs := rfl
@[simp] theorem modQnt_epoch : (d.modQnt n f).epoch = d.epoch := rfl
@[simp] theorem modQnt_cqs : (d.modQnt n f).cqs = d.cqs := rfl
@[simp] theorem modQnt_mem : (d.modQnt n f).mem = d.mem := rfl
@[simp] theorem modQnt_shared : (d.modQnt n f).shared = d.shared := rfl
@[simp] theorem modQnt_stks : (d.modQnt n f).stks = d.stks := rfl
@[simp] theorem modQnt_dscs : (d.modQnt n f).dscs = d.dscs := rfl
@[simp] theorem modQnt_rampStep : (d.modQnt n f).rampStep = d.rampStep := rfl
@[simp] theorem modQnt_rampBeat : (d.modQnt n f).rampBeat = d.rampBeat := rfl
@[simp] theorem modQnt_fenceFall : (d.modQnt n f).fenceFall = d.fenceFall := rfl
@[simp] theorem modQnt_wipes : (d.modQnt n f).wipes = d.wipes := rfl
@[simp] theorem modQnt_deliveries : (d.modQnt n f).deliveries = d.deliveries := rfl
@[simp] theorem modQnt_lnk : (d.modQnt n f).lnk = d.lnk := rfl
@[simp] theorem modQnt_col : (d.modQnt n f).col = d.col := rfl
@[simp] theorem modQnt_slv : (d.modQnt n f).slv = d.slv := rfl
@[simp] theorem modQnt_solves : (d.modQnt n f).solves = d.solves := rfl
@[simp] theorem modQnt_sec : (d.modQnt n f).sec = d.sec := rfl
@[simp] theorem modQnt_health : (d.modQnt n f).health = d.health := rfl
@[simp] theorem modQnt_stm : (d.modQnt n f).stm = d.stm := rfl
@[simp] theorem modQnt_trc : (d.modQnt n f).trc = d.trc := rfl
@[simp] theorem modQnt_jtag : (d.modQnt n f).jtag = d.jtag := rfl
@[simp] theorem modQnt_pwr : (d.modQnt n f).pwr = d.pwr := rfl
@[simp] theorem modQnt_mgt : (d.modQnt n f).mgt = d.mgt := rfl
@[simp] theorem modQnt_msixTab : (d.modQnt n f).msixTab = d.msixTab := rfl
@[simp] theorem modQnt_rings : (d.modQnt n f).rings = d.rings := rfl
@[simp] theorem modQnt_devErr : (d.modQnt n f).devErr = d.devErr := rfl
@[simp] theorem modQnt_free : (d.modQnt n f).free = d.free := rfl
end

section
variable (d : Dev) (n : Nat) (f : Lbk → Lbk)
@[simp] theorem modLbk_bt : (d.modLbk n f).bt = d.bt := rfl
@[simp] theorem modLbk_fwp : (d.modLbk n f).fwp = d.fwp := rfl
@[simp] theorem modLbk_chans : (d.modLbk n f).chans = d.chans := rfl
@[simp] theorem modLbk_reqs : (d.modLbk n f).reqs = d.reqs := rfl
@[simp] theorem modLbk_dones : (d.modLbk n f).dones = d.dones := rfl
@[simp] theorem modLbk_msix : (d.modLbk n f).msix = d.msix := rfl
@[simp] theorem modLbk_plans : (d.modLbk n f).plans = d.plans := rfl
@[simp] theorem modLbk_lastHandle : (d.modLbk n f).lastHandle = d.lastHandle := rfl
@[simp] theorem modLbk_siteOf : (d.modLbk n f).siteOf = d.siteOf := rfl
@[simp] theorem modLbk_mapTs : (d.modLbk n f).mapTs = d.mapTs := rfl
@[simp] theorem modLbk_epoch : (d.modLbk n f).epoch = d.epoch := rfl
@[simp] theorem modLbk_cqs : (d.modLbk n f).cqs = d.cqs := rfl
@[simp] theorem modLbk_mem : (d.modLbk n f).mem = d.mem := rfl
@[simp] theorem modLbk_shared : (d.modLbk n f).shared = d.shared := rfl
@[simp] theorem modLbk_stks : (d.modLbk n f).stks = d.stks := rfl
@[simp] theorem modLbk_dscs : (d.modLbk n f).dscs = d.dscs := rfl
@[simp] theorem modLbk_rampStep : (d.modLbk n f).rampStep = d.rampStep := rfl
@[simp] theorem modLbk_rampBeat : (d.modLbk n f).rampBeat = d.rampBeat := rfl
@[simp] theorem modLbk_fenceFall : (d.modLbk n f).fenceFall = d.fenceFall := rfl
@[simp] theorem modLbk_wipes : (d.modLbk n f).wipes = d.wipes := rfl
@[simp] theorem modLbk_deliveries : (d.modLbk n f).deliveries = d.deliveries := rfl
@[simp] theorem modLbk_lnk : (d.modLbk n f).lnk = d.lnk := rfl
@[simp] theorem modLbk_col : (d.modLbk n f).col = d.col := rfl
@[simp] theorem modLbk_slv : (d.modLbk n f).slv = d.slv := rfl
@[simp] theorem modLbk_solves : (d.modLbk n f).solves = d.solves := rfl
@[simp] theorem modLbk_sec : (d.modLbk n f).sec = d.sec := rfl
@[simp] theorem modLbk_health : (d.modLbk n f).health = d.health := rfl
@[simp] theorem modLbk_stm : (d.modLbk n f).stm = d.stm := rfl
@[simp] theorem modLbk_trc : (d.modLbk n f).trc = d.trc := rfl
@[simp] theorem modLbk_jtag : (d.modLbk n f).jtag = d.jtag := rfl
@[simp] theorem modLbk_pwr : (d.modLbk n f).pwr = d.pwr := rfl
@[simp] theorem modLbk_mgt : (d.modLbk n f).mgt = d.mgt := rfl
@[simp] theorem modLbk_msixTab : (d.modLbk n f).msixTab = d.msixTab := rfl
@[simp] theorem modLbk_rings : (d.modLbk n f).rings = d.rings := rfl
@[simp] theorem modLbk_devErr : (d.modLbk n f).devErr = d.devErr := rfl
@[simp] theorem modLbk_free : (d.modLbk n f).free = d.free := rfl
end

section
variable (d : Dev) (n : Nat) (f : Acc → Acc)
@[simp] theorem modAcc_bt : (d.modAcc n f).bt = d.bt := rfl
@[simp] theorem modAcc_fwp : (d.modAcc n f).fwp = d.fwp := rfl
@[simp] theorem modAcc_chans : (d.modAcc n f).chans = d.chans := rfl
@[simp] theorem modAcc_reqs : (d.modAcc n f).reqs = d.reqs := rfl
@[simp] theorem modAcc_dones : (d.modAcc n f).dones = d.dones := rfl
@[simp] theorem modAcc_msix : (d.modAcc n f).msix = d.msix := rfl
@[simp] theorem modAcc_plans : (d.modAcc n f).plans = d.plans := rfl
@[simp] theorem modAcc_lastHandle : (d.modAcc n f).lastHandle = d.lastHandle := rfl
@[simp] theorem modAcc_siteOf : (d.modAcc n f).siteOf = d.siteOf := rfl
@[simp] theorem modAcc_mapTs : (d.modAcc n f).mapTs = d.mapTs := rfl
@[simp] theorem modAcc_epoch : (d.modAcc n f).epoch = d.epoch := rfl
@[simp] theorem modAcc_cqs : (d.modAcc n f).cqs = d.cqs := rfl
@[simp] theorem modAcc_mem : (d.modAcc n f).mem = d.mem := rfl
@[simp] theorem modAcc_shared : (d.modAcc n f).shared = d.shared := rfl
@[simp] theorem modAcc_stks : (d.modAcc n f).stks = d.stks := rfl
@[simp] theorem modAcc_dscs : (d.modAcc n f).dscs = d.dscs := rfl
@[simp] theorem modAcc_rampStep : (d.modAcc n f).rampStep = d.rampStep := rfl
@[simp] theorem modAcc_rampBeat : (d.modAcc n f).rampBeat = d.rampBeat := rfl
@[simp] theorem modAcc_fenceFall : (d.modAcc n f).fenceFall = d.fenceFall := rfl
@[simp] theorem modAcc_wipes : (d.modAcc n f).wipes = d.wipes := rfl
@[simp] theorem modAcc_deliveries : (d.modAcc n f).deliveries = d.deliveries := rfl
@[simp] theorem modAcc_lnk : (d.modAcc n f).lnk = d.lnk := rfl
@[simp] theorem modAcc_col : (d.modAcc n f).col = d.col := rfl
@[simp] theorem modAcc_slv : (d.modAcc n f).slv = d.slv := rfl
@[simp] theorem modAcc_solves : (d.modAcc n f).solves = d.solves := rfl
@[simp] theorem modAcc_sec : (d.modAcc n f).sec = d.sec := rfl
@[simp] theorem modAcc_health : (d.modAcc n f).health = d.health := rfl
@[simp] theorem modAcc_stm : (d.modAcc n f).stm = d.stm := rfl
@[simp] theorem modAcc_trc : (d.modAcc n f).trc = d.trc := rfl
@[simp] theorem modAcc_jtag : (d.modAcc n f).jtag = d.jtag := rfl
@[simp] theorem modAcc_pwr : (d.modAcc n f).pwr = d.pwr := rfl
@[simp] theorem modAcc_mgt : (d.modAcc n f).mgt = d.mgt := rfl
@[simp] theorem modAcc_msixTab : (d.modAcc n f).msixTab = d.msixTab := rfl
@[simp] theorem modAcc_rings : (d.modAcc n f).rings = d.rings := rfl
@[simp] theorem modAcc_devErr : (d.modAcc n f).devErr = d.devErr := rfl
@[simp] theorem modAcc_free : (d.modAcc n f).free = d.free := rfl
end

section
variable (d : Dev) (n : Nat) (f : Mvp → Mvp)
@[simp] theorem modMvp_bt : (d.modMvp n f).bt = d.bt := rfl
@[simp] theorem modMvp_fwp : (d.modMvp n f).fwp = d.fwp := rfl
@[simp] theorem modMvp_chans : (d.modMvp n f).chans = d.chans := rfl
@[simp] theorem modMvp_reqs : (d.modMvp n f).reqs = d.reqs := rfl
@[simp] theorem modMvp_dones : (d.modMvp n f).dones = d.dones := rfl
@[simp] theorem modMvp_msix : (d.modMvp n f).msix = d.msix := rfl
@[simp] theorem modMvp_plans : (d.modMvp n f).plans = d.plans := rfl
@[simp] theorem modMvp_lastHandle : (d.modMvp n f).lastHandle = d.lastHandle := rfl
@[simp] theorem modMvp_siteOf : (d.modMvp n f).siteOf = d.siteOf := rfl
@[simp] theorem modMvp_mapTs : (d.modMvp n f).mapTs = d.mapTs := rfl
@[simp] theorem modMvp_epoch : (d.modMvp n f).epoch = d.epoch := rfl
@[simp] theorem modMvp_cqs : (d.modMvp n f).cqs = d.cqs := rfl
@[simp] theorem modMvp_mem : (d.modMvp n f).mem = d.mem := rfl
@[simp] theorem modMvp_shared : (d.modMvp n f).shared = d.shared := rfl
@[simp] theorem modMvp_stks : (d.modMvp n f).stks = d.stks := rfl
@[simp] theorem modMvp_dscs : (d.modMvp n f).dscs = d.dscs := rfl
@[simp] theorem modMvp_rampStep : (d.modMvp n f).rampStep = d.rampStep := rfl
@[simp] theorem modMvp_rampBeat : (d.modMvp n f).rampBeat = d.rampBeat := rfl
@[simp] theorem modMvp_fenceFall : (d.modMvp n f).fenceFall = d.fenceFall := rfl
@[simp] theorem modMvp_wipes : (d.modMvp n f).wipes = d.wipes := rfl
@[simp] theorem modMvp_deliveries : (d.modMvp n f).deliveries = d.deliveries := rfl
@[simp] theorem modMvp_lnk : (d.modMvp n f).lnk = d.lnk := rfl
@[simp] theorem modMvp_col : (d.modMvp n f).col = d.col := rfl
@[simp] theorem modMvp_slv : (d.modMvp n f).slv = d.slv := rfl
@[simp] theorem modMvp_solves : (d.modMvp n f).solves = d.solves := rfl
@[simp] theorem modMvp_sec : (d.modMvp n f).sec = d.sec := rfl
@[simp] theorem modMvp_health : (d.modMvp n f).health = d.health := rfl
@[simp] theorem modMvp_stm : (d.modMvp n f).stm = d.stm := rfl
@[simp] theorem modMvp_trc : (d.modMvp n f).trc = d.trc := rfl
@[simp] theorem modMvp_jtag : (d.modMvp n f).jtag = d.jtag := rfl
@[simp] theorem modMvp_pwr : (d.modMvp n f).pwr = d.pwr := rfl
@[simp] theorem modMvp_mgt : (d.modMvp n f).mgt = d.mgt := rfl
@[simp] theorem modMvp_msixTab : (d.modMvp n f).msixTab = d.msixTab := rfl
@[simp] theorem modMvp_rings : (d.modMvp n f).rings = d.rings := rfl
@[simp] theorem modMvp_devErr : (d.modMvp n f).devErr = d.devErr := rfl
@[simp] theorem modMvp_free : (d.modMvp n f).free = d.free := rfl
end

section
variable (d : Dev) (n : Nat) (f : Ccr → Ccr)
@[simp] theorem modCcr_bt : (d.modCcr n f).bt = d.bt := rfl
@[simp] theorem modCcr_fwp : (d.modCcr n f).fwp = d.fwp := rfl
@[simp] theorem modCcr_chans : (d.modCcr n f).chans = d.chans := rfl
@[simp] theorem modCcr_reqs : (d.modCcr n f).reqs = d.reqs := rfl
@[simp] theorem modCcr_dones : (d.modCcr n f).dones = d.dones := rfl
@[simp] theorem modCcr_msix : (d.modCcr n f).msix = d.msix := rfl
@[simp] theorem modCcr_plans : (d.modCcr n f).plans = d.plans := rfl
@[simp] theorem modCcr_lastHandle : (d.modCcr n f).lastHandle = d.lastHandle := rfl
@[simp] theorem modCcr_siteOf : (d.modCcr n f).siteOf = d.siteOf := rfl
@[simp] theorem modCcr_mapTs : (d.modCcr n f).mapTs = d.mapTs := rfl
@[simp] theorem modCcr_epoch : (d.modCcr n f).epoch = d.epoch := rfl
@[simp] theorem modCcr_cqs : (d.modCcr n f).cqs = d.cqs := rfl
@[simp] theorem modCcr_mem : (d.modCcr n f).mem = d.mem := rfl
@[simp] theorem modCcr_shared : (d.modCcr n f).shared = d.shared := rfl
@[simp] theorem modCcr_stks : (d.modCcr n f).stks = d.stks := rfl
@[simp] theorem modCcr_dscs : (d.modCcr n f).dscs = d.dscs := rfl
@[simp] theorem modCcr_rampStep : (d.modCcr n f).rampStep = d.rampStep := rfl
@[simp] theorem modCcr_rampBeat : (d.modCcr n f).rampBeat = d.rampBeat := rfl
@[simp] theorem modCcr_fenceFall : (d.modCcr n f).fenceFall = d.fenceFall := rfl
@[simp] theorem modCcr_wipes : (d.modCcr n f).wipes = d.wipes := rfl
@[simp] theorem modCcr_deliveries : (d.modCcr n f).deliveries = d.deliveries := rfl
@[simp] theorem modCcr_lnk : (d.modCcr n f).lnk = d.lnk := rfl
@[simp] theorem modCcr_col : (d.modCcr n f).col = d.col := rfl
@[simp] theorem modCcr_slv : (d.modCcr n f).slv = d.slv := rfl
@[simp] theorem modCcr_solves : (d.modCcr n f).solves = d.solves := rfl
@[simp] theorem modCcr_sec : (d.modCcr n f).sec = d.sec := rfl
@[simp] theorem modCcr_health : (d.modCcr n f).health = d.health := rfl
@[simp] theorem modCcr_stm : (d.modCcr n f).stm = d.stm := rfl
@[simp] theorem modCcr_trc : (d.modCcr n f).trc = d.trc := rfl
@[simp] theorem modCcr_jtag : (d.modCcr n f).jtag = d.jtag := rfl
@[simp] theorem modCcr_pwr : (d.modCcr n f).pwr = d.pwr := rfl
@[simp] theorem modCcr_mgt : (d.modCcr n f).mgt = d.mgt := rfl
@[simp] theorem modCcr_msixTab : (d.modCcr n f).msixTab = d.msixTab := rfl
@[simp] theorem modCcr_rings : (d.modCcr n f).rings = d.rings := rfl
@[simp] theorem modCcr_devErr : (d.modCcr n f).devErr = d.devErr := rfl
@[simp] theorem modCcr_free : (d.modCcr n f).free = d.free := rfl
end

section
variable (d : Dev) (n t : Nat) (f : Thread → Thread)
@[simp] theorem modThread_bt : (d.modThread n t f).bt = d.bt := rfl
@[simp] theorem modThread_fwp : (d.modThread n t f).fwp = d.fwp := rfl
@[simp] theorem modThread_chans : (d.modThread n t f).chans = d.chans := rfl
@[simp] theorem modThread_reqs : (d.modThread n t f).reqs = d.reqs := rfl
@[simp] theorem modThread_dones : (d.modThread n t f).dones = d.dones := rfl
@[simp] theorem modThread_msix : (d.modThread n t f).msix = d.msix := rfl
@[simp] theorem modThread_plans : (d.modThread n t f).plans = d.plans := rfl
@[simp] theorem modThread_lastHandle : (d.modThread n t f).lastHandle = d.lastHandle := rfl
@[simp] theorem modThread_siteOf : (d.modThread n t f).siteOf = d.siteOf := rfl
@[simp] theorem modThread_mapTs : (d.modThread n t f).mapTs = d.mapTs := rfl
@[simp] theorem modThread_epoch : (d.modThread n t f).epoch = d.epoch := rfl
@[simp] theorem modThread_cqs : (d.modThread n t f).cqs = d.cqs := rfl
@[simp] theorem modThread_mem : (d.modThread n t f).mem = d.mem := rfl
@[simp] theorem modThread_shared : (d.modThread n t f).shared = d.shared := rfl
@[simp] theorem modThread_stks : (d.modThread n t f).stks = d.stks := rfl
@[simp] theorem modThread_dscs : (d.modThread n t f).dscs = d.dscs := rfl
@[simp] theorem modThread_rampStep : (d.modThread n t f).rampStep = d.rampStep := rfl
@[simp] theorem modThread_rampBeat : (d.modThread n t f).rampBeat = d.rampBeat := rfl
@[simp] theorem modThread_fenceFall : (d.modThread n t f).fenceFall = d.fenceFall := rfl
@[simp] theorem modThread_wipes : (d.modThread n t f).wipes = d.wipes := rfl
@[simp] theorem modThread_deliveries : (d.modThread n t f).deliveries = d.deliveries := rfl
@[simp] theorem modThread_lnk : (d.modThread n t f).lnk = d.lnk := rfl
@[simp] theorem modThread_col : (d.modThread n t f).col = d.col := rfl
@[simp] theorem modThread_slv : (d.modThread n t f).slv = d.slv := rfl
@[simp] theorem modThread_solves : (d.modThread n t f).solves = d.solves := rfl
@[simp] theorem modThread_sec : (d.modThread n t f).sec = d.sec := rfl
@[simp] theorem modThread_health : (d.modThread n t f).health = d.health := rfl
@[simp] theorem modThread_stm : (d.modThread n t f).stm = d.stm := rfl
@[simp] theorem modThread_trc : (d.modThread n t f).trc = d.trc := rfl
@[simp] theorem modThread_jtag : (d.modThread n t f).jtag = d.jtag := rfl
@[simp] theorem modThread_pwr : (d.modThread n t f).pwr = d.pwr := rfl
@[simp] theorem modThread_mgt : (d.modThread n t f).mgt = d.mgt := rfl
@[simp] theorem modThread_msixTab : (d.modThread n t f).msixTab = d.msixTab := rfl
@[simp] theorem modThread_rings : (d.modThread n t f).rings = d.rings := rfl
@[simp] theorem modThread_devErr : (d.modThread n t f).devErr = d.devErr := rfl
@[simp] theorem modThread_free : (d.modThread n t f).free = d.free := rfl
end

section
variable (d : Dev) (n f : Nat)
@[simp] theorem setFlag_bt : (d.setFlag n f).bt = d.bt := rfl
@[simp] theorem setFlag_fwp : (d.setFlag n f).fwp = d.fwp := rfl
@[simp] theorem setFlag_chans : (d.setFlag n f).chans = d.chans := rfl
@[simp] theorem setFlag_reqs : (d.setFlag n f).reqs = d.reqs := rfl
@[simp] theorem setFlag_dones : (d.setFlag n f).dones = d.dones := rfl
@[simp] theorem setFlag_msix : (d.setFlag n f).msix = d.msix := rfl
@[simp] theorem setFlag_plans : (d.setFlag n f).plans = d.plans := rfl
@[simp] theorem setFlag_lastHandle : (d.setFlag n f).lastHandle = d.lastHandle := rfl
@[simp] theorem setFlag_siteOf : (d.setFlag n f).siteOf = d.siteOf := rfl
@[simp] theorem setFlag_mapTs : (d.setFlag n f).mapTs = d.mapTs := rfl
@[simp] theorem setFlag_epoch : (d.setFlag n f).epoch = d.epoch := rfl
@[simp] theorem setFlag_cqs : (d.setFlag n f).cqs = d.cqs := rfl
@[simp] theorem setFlag_mem : (d.setFlag n f).mem = d.mem := rfl
@[simp] theorem setFlag_shared : (d.setFlag n f).shared = d.shared := rfl
@[simp] theorem setFlag_stks : (d.setFlag n f).stks = d.stks := rfl
@[simp] theorem setFlag_dscs : (d.setFlag n f).dscs = d.dscs := rfl
@[simp] theorem setFlag_rampStep : (d.setFlag n f).rampStep = d.rampStep := rfl
@[simp] theorem setFlag_rampBeat : (d.setFlag n f).rampBeat = d.rampBeat := rfl
@[simp] theorem setFlag_fenceFall : (d.setFlag n f).fenceFall = d.fenceFall := rfl
@[simp] theorem setFlag_wipes : (d.setFlag n f).wipes = d.wipes := rfl
@[simp] theorem setFlag_deliveries : (d.setFlag n f).deliveries = d.deliveries := rfl
@[simp] theorem setFlag_lnk : (d.setFlag n f).lnk = d.lnk := rfl
@[simp] theorem setFlag_col : (d.setFlag n f).col = d.col := rfl
@[simp] theorem setFlag_slv : (d.setFlag n f).slv = d.slv := rfl
@[simp] theorem setFlag_solves : (d.setFlag n f).solves = d.solves := rfl
@[simp] theorem setFlag_sec : (d.setFlag n f).sec = d.sec := rfl
@[simp] theorem setFlag_health : (d.setFlag n f).health = d.health := rfl
@[simp] theorem setFlag_stm : (d.setFlag n f).stm = d.stm := rfl
@[simp] theorem setFlag_trc : (d.setFlag n f).trc = d.trc := rfl
@[simp] theorem setFlag_jtag : (d.setFlag n f).jtag = d.jtag := rfl
@[simp] theorem setFlag_pwr : (d.setFlag n f).pwr = d.pwr := rfl
@[simp] theorem setFlag_mgt : (d.setFlag n f).mgt = d.mgt := rfl
@[simp] theorem setFlag_msixTab : (d.setFlag n f).msixTab = d.msixTab := rfl
@[simp] theorem setFlag_rings : (d.setFlag n f).rings = d.rings := rfl
@[simp] theorem setFlag_devErr : (d.setFlag n f).devErr = d.devErr := rfl
@[simp] theorem setFlag_free : (d.setFlag n f).free = d.free := rfl
end

section
variable (d : Dev) (n f : Nat)
@[simp] theorem clearFlag_bt : (d.clearFlag n f).bt = d.bt := rfl
@[simp] theorem clearFlag_fwp : (d.clearFlag n f).fwp = d.fwp := rfl
@[simp] theorem clearFlag_chans : (d.clearFlag n f).chans = d.chans := rfl
@[simp] theorem clearFlag_reqs : (d.clearFlag n f).reqs = d.reqs := rfl
@[simp] theorem clearFlag_dones : (d.clearFlag n f).dones = d.dones := rfl
@[simp] theorem clearFlag_msix : (d.clearFlag n f).msix = d.msix := rfl
@[simp] theorem clearFlag_plans : (d.clearFlag n f).plans = d.plans := rfl
@[simp] theorem clearFlag_lastHandle : (d.clearFlag n f).lastHandle = d.lastHandle := rfl
@[simp] theorem clearFlag_siteOf : (d.clearFlag n f).siteOf = d.siteOf := rfl
@[simp] theorem clearFlag_mapTs : (d.clearFlag n f).mapTs = d.mapTs := rfl
@[simp] theorem clearFlag_epoch : (d.clearFlag n f).epoch = d.epoch := rfl
@[simp] theorem clearFlag_cqs : (d.clearFlag n f).cqs = d.cqs := rfl
@[simp] theorem clearFlag_mem : (d.clearFlag n f).mem = d.mem := rfl
@[simp] theorem clearFlag_shared : (d.clearFlag n f).shared = d.shared := rfl
@[simp] theorem clearFlag_stks : (d.clearFlag n f).stks = d.stks := rfl
@[simp] theorem clearFlag_dscs : (d.clearFlag n f).dscs = d.dscs := rfl
@[simp] theorem clearFlag_rampStep : (d.clearFlag n f).rampStep = d.rampStep := rfl
@[simp] theorem clearFlag_rampBeat : (d.clearFlag n f).rampBeat = d.rampBeat := rfl
@[simp] theorem clearFlag_fenceFall : (d.clearFlag n f).fenceFall = d.fenceFall := rfl
@[simp] theorem clearFlag_wipes : (d.clearFlag n f).wipes = d.wipes := rfl
@[simp] theorem clearFlag_deliveries : (d.clearFlag n f).deliveries = d.deliveries := rfl
@[simp] theorem clearFlag_lnk : (d.clearFlag n f).lnk = d.lnk := rfl
@[simp] theorem clearFlag_col : (d.clearFlag n f).col = d.col := rfl
@[simp] theorem clearFlag_slv : (d.clearFlag n f).slv = d.slv := rfl
@[simp] theorem clearFlag_solves : (d.clearFlag n f).solves = d.solves := rfl
@[simp] theorem clearFlag_sec : (d.clearFlag n f).sec = d.sec := rfl
@[simp] theorem clearFlag_health : (d.clearFlag n f).health = d.health := rfl
@[simp] theorem clearFlag_stm : (d.clearFlag n f).stm = d.stm := rfl
@[simp] theorem clearFlag_trc : (d.clearFlag n f).trc = d.trc := rfl
@[simp] theorem clearFlag_jtag : (d.clearFlag n f).jtag = d.jtag := rfl
@[simp] theorem clearFlag_pwr : (d.clearFlag n f).pwr = d.pwr := rfl
@[simp] theorem clearFlag_mgt : (d.clearFlag n f).mgt = d.mgt := rfl
@[simp] theorem clearFlag_msixTab : (d.clearFlag n f).msixTab = d.msixTab := rfl
@[simp] theorem clearFlag_rings : (d.clearFlag n f).rings = d.rings := rfl
@[simp] theorem clearFlag_devErr : (d.clearFlag n f).devErr = d.devErr := rfl
@[simp] theorem clearFlag_free : (d.clearFlag n f).free = d.free := rfl
end

section
variable (d : Dev) (i : Nat)
@[simp] theorem setBtEvent_fwp : (d.setBtEvent i).fwp = d.fwp := rfl
@[simp] theorem setBtEvent_chans : (d.setBtEvent i).chans = d.chans := rfl
@[simp] theorem setBtEvent_reqs : (d.setBtEvent i).reqs = d.reqs := rfl
@[simp] theorem setBtEvent_dones : (d.setBtEvent i).dones = d.dones := rfl
@[simp] theorem setBtEvent_msix : (d.setBtEvent i).msix = d.msix := rfl
@[simp] theorem setBtEvent_plans : (d.setBtEvent i).plans = d.plans := rfl
@[simp] theorem setBtEvent_lastHandle : (d.setBtEvent i).lastHandle = d.lastHandle := rfl
@[simp] theorem setBtEvent_siteOf : (d.setBtEvent i).siteOf = d.siteOf := rfl
@[simp] theorem setBtEvent_mapTs : (d.setBtEvent i).mapTs = d.mapTs := rfl
@[simp] theorem setBtEvent_epoch : (d.setBtEvent i).epoch = d.epoch := rfl
@[simp] theorem setBtEvent_cqs : (d.setBtEvent i).cqs = d.cqs := rfl
@[simp] theorem setBtEvent_mem : (d.setBtEvent i).mem = d.mem := rfl
@[simp] theorem setBtEvent_shared : (d.setBtEvent i).shared = d.shared := rfl
@[simp] theorem setBtEvent_stks : (d.setBtEvent i).stks = d.stks := rfl
@[simp] theorem setBtEvent_dscs : (d.setBtEvent i).dscs = d.dscs := rfl
@[simp] theorem setBtEvent_sites : (d.setBtEvent i).sites = d.sites := rfl
@[simp] theorem setBtEvent_rampStep : (d.setBtEvent i).rampStep = d.rampStep := rfl
@[simp] theorem setBtEvent_rampBeat : (d.setBtEvent i).rampBeat = d.rampBeat := rfl
@[simp] theorem setBtEvent_fenceFall : (d.setBtEvent i).fenceFall = d.fenceFall := rfl
@[simp] theorem setBtEvent_wipes : (d.setBtEvent i).wipes = d.wipes := rfl
@[simp] theorem setBtEvent_deliveries : (d.setBtEvent i).deliveries = d.deliveries := rfl
@[simp] theorem setBtEvent_lnk : (d.setBtEvent i).lnk = d.lnk := rfl
@[simp] theorem setBtEvent_col : (d.setBtEvent i).col = d.col := rfl
@[simp] theorem setBtEvent_slv : (d.setBtEvent i).slv = d.slv := rfl
@[simp] theorem setBtEvent_solves : (d.setBtEvent i).solves = d.solves := rfl
@[simp] theorem setBtEvent_sec : (d.setBtEvent i).sec = d.sec := rfl
@[simp] theorem setBtEvent_health : (d.setBtEvent i).health = d.health := rfl
@[simp] theorem setBtEvent_stm : (d.setBtEvent i).stm = d.stm := rfl
@[simp] theorem setBtEvent_trc : (d.setBtEvent i).trc = d.trc := rfl
@[simp] theorem setBtEvent_jtag : (d.setBtEvent i).jtag = d.jtag := rfl
@[simp] theorem setBtEvent_pwr : (d.setBtEvent i).pwr = d.pwr := rfl
@[simp] theorem setBtEvent_mgt : (d.setBtEvent i).mgt = d.mgt := rfl
@[simp] theorem setBtEvent_msixTab : (d.setBtEvent i).msixTab = d.msixTab := rfl
@[simp] theorem setBtEvent_rings : (d.setBtEvent i).rings = d.rings := rfl
@[simp] theorem setBtEvent_devErr : (d.setBtEvent i).devErr = d.devErr := rfl
@[simp] theorem setBtEvent_free : (d.setBtEvent i).free = d.free := rfl
end

section
variable (d : Dev) (i : Nat)
@[simp] theorem setHltEvent_bt : (d.setHltEvent i).bt = d.bt := rfl
@[simp] theorem setHltEvent_fwp : (d.setHltEvent i).fwp = d.fwp := rfl
@[simp] theorem setHltEvent_chans : (d.setHltEvent i).chans = d.chans := rfl
@[simp] theorem setHltEvent_reqs : (d.setHltEvent i).reqs = d.reqs := rfl
@[simp] theorem setHltEvent_dones : (d.setHltEvent i).dones = d.dones := rfl
@[simp] theorem setHltEvent_msix : (d.setHltEvent i).msix = d.msix := rfl
@[simp] theorem setHltEvent_plans : (d.setHltEvent i).plans = d.plans := rfl
@[simp] theorem setHltEvent_lastHandle : (d.setHltEvent i).lastHandle = d.lastHandle := rfl
@[simp] theorem setHltEvent_siteOf : (d.setHltEvent i).siteOf = d.siteOf := rfl
@[simp] theorem setHltEvent_mapTs : (d.setHltEvent i).mapTs = d.mapTs := rfl
@[simp] theorem setHltEvent_epoch : (d.setHltEvent i).epoch = d.epoch := rfl
@[simp] theorem setHltEvent_cqs : (d.setHltEvent i).cqs = d.cqs := rfl
@[simp] theorem setHltEvent_mem : (d.setHltEvent i).mem = d.mem := rfl
@[simp] theorem setHltEvent_shared : (d.setHltEvent i).shared = d.shared := rfl
@[simp] theorem setHltEvent_stks : (d.setHltEvent i).stks = d.stks := rfl
@[simp] theorem setHltEvent_dscs : (d.setHltEvent i).dscs = d.dscs := rfl
@[simp] theorem setHltEvent_sites : (d.setHltEvent i).sites = d.sites := rfl
@[simp] theorem setHltEvent_rampStep : (d.setHltEvent i).rampStep = d.rampStep := rfl
@[simp] theorem setHltEvent_rampBeat : (d.setHltEvent i).rampBeat = d.rampBeat := rfl
@[simp] theorem setHltEvent_fenceFall : (d.setHltEvent i).fenceFall = d.fenceFall := rfl
@[simp] theorem setHltEvent_wipes : (d.setHltEvent i).wipes = d.wipes := rfl
@[simp] theorem setHltEvent_deliveries : (d.setHltEvent i).deliveries = d.deliveries := rfl
@[simp] theorem setHltEvent_lnk : (d.setHltEvent i).lnk = d.lnk := rfl
@[simp] theorem setHltEvent_col : (d.setHltEvent i).col = d.col := rfl
@[simp] theorem setHltEvent_slv : (d.setHltEvent i).slv = d.slv := rfl
@[simp] theorem setHltEvent_solves : (d.setHltEvent i).solves = d.solves := rfl
@[simp] theorem setHltEvent_sec : (d.setHltEvent i).sec = d.sec := rfl
@[simp] theorem setHltEvent_stm : (d.setHltEvent i).stm = d.stm := rfl
@[simp] theorem setHltEvent_trc : (d.setHltEvent i).trc = d.trc := rfl
@[simp] theorem setHltEvent_jtag : (d.setHltEvent i).jtag = d.jtag := rfl
@[simp] theorem setHltEvent_pwr : (d.setHltEvent i).pwr = d.pwr := rfl
@[simp] theorem setHltEvent_mgt : (d.setHltEvent i).mgt = d.mgt := rfl
@[simp] theorem setHltEvent_msixTab : (d.setHltEvent i).msixTab = d.msixTab := rfl
@[simp] theorem setHltEvent_rings : (d.setHltEvent i).rings = d.rings := rfl
@[simp] theorem setHltEvent_devErr : (d.setHltEvent i).devErr = d.devErr := rfl
@[simp] theorem setHltEvent_free : (d.setHltEvent i).free = d.free := rfl
end

section
variable (d : Dev) (i : Nat)
@[simp] theorem setLnkEvent_bt : (d.setLnkEvent i).bt = d.bt := rfl
@[simp] theorem setLnkEvent_fwp : (d.setLnkEvent i).fwp = d.fwp := rfl
@[simp] theorem setLnkEvent_chans : (d.setLnkEvent i).chans = d.chans := rfl
@[simp] theorem setLnkEvent_reqs : (d.setLnkEvent i).reqs = d.reqs := rfl
@[simp] theorem setLnkEvent_dones : (d.setLnkEvent i).dones = d.dones := rfl
@[simp] theorem setLnkEvent_msix : (d.setLnkEvent i).msix = d.msix := rfl
@[simp] theorem setLnkEvent_plans : (d.setLnkEvent i).plans = d.plans := rfl
@[simp] theorem setLnkEvent_lastHandle : (d.setLnkEvent i).lastHandle = d.lastHandle := rfl
@[simp] theorem setLnkEvent_siteOf : (d.setLnkEvent i).siteOf = d.siteOf := rfl
@[simp] theorem setLnkEvent_mapTs : (d.setLnkEvent i).mapTs = d.mapTs := rfl
@[simp] theorem setLnkEvent_epoch : (d.setLnkEvent i).epoch = d.epoch := rfl
@[simp] theorem setLnkEvent_cqs : (d.setLnkEvent i).cqs = d.cqs := rfl
@[simp] theorem setLnkEvent_mem : (d.setLnkEvent i).mem = d.mem := rfl
@[simp] theorem setLnkEvent_shared : (d.setLnkEvent i).shared = d.shared := rfl
@[simp] theorem setLnkEvent_stks : (d.setLnkEvent i).stks = d.stks := rfl
@[simp] theorem setLnkEvent_dscs : (d.setLnkEvent i).dscs = d.dscs := rfl
@[simp] theorem setLnkEvent_sites : (d.setLnkEvent i).sites = d.sites := rfl
@[simp] theorem setLnkEvent_rampStep : (d.setLnkEvent i).rampStep = d.rampStep := rfl
@[simp] theorem setLnkEvent_rampBeat : (d.setLnkEvent i).rampBeat = d.rampBeat := rfl
@[simp] theorem setLnkEvent_fenceFall : (d.setLnkEvent i).fenceFall = d.fenceFall := rfl
@[simp] theorem setLnkEvent_wipes : (d.setLnkEvent i).wipes = d.wipes := rfl
@[simp] theorem setLnkEvent_deliveries : (d.setLnkEvent i).deliveries = d.deliveries := rfl
@[simp] theorem setLnkEvent_col : (d.setLnkEvent i).col = d.col := rfl
@[simp] theorem setLnkEvent_slv : (d.setLnkEvent i).slv = d.slv := rfl
@[simp] theorem setLnkEvent_solves : (d.setLnkEvent i).solves = d.solves := rfl
@[simp] theorem setLnkEvent_sec : (d.setLnkEvent i).sec = d.sec := rfl
@[simp] theorem setLnkEvent_health : (d.setLnkEvent i).health = d.health := rfl
@[simp] theorem setLnkEvent_stm : (d.setLnkEvent i).stm = d.stm := rfl
@[simp] theorem setLnkEvent_trc : (d.setLnkEvent i).trc = d.trc := rfl
@[simp] theorem setLnkEvent_jtag : (d.setLnkEvent i).jtag = d.jtag := rfl
@[simp] theorem setLnkEvent_pwr : (d.setLnkEvent i).pwr = d.pwr := rfl
@[simp] theorem setLnkEvent_mgt : (d.setLnkEvent i).mgt = d.mgt := rfl
@[simp] theorem setLnkEvent_msixTab : (d.setLnkEvent i).msixTab = d.msixTab := rfl
@[simp] theorem setLnkEvent_rings : (d.setLnkEvent i).rings = d.rings := rfl
@[simp] theorem setLnkEvent_devErr : (d.setLnkEvent i).devErr = d.devErr := rfl
@[simp] theorem setLnkEvent_free : (d.setLnkEvent i).free = d.free := rfl
end

section
variable (d : Dev) (i : Nat)
@[simp] theorem setColEvent_bt : (d.setColEvent i).bt = d.bt := rfl
@[simp] theorem setColEvent_fwp : (d.setColEvent i).fwp = d.fwp := rfl
@[simp] theorem setColEvent_chans : (d.setColEvent i).chans = d.chans := rfl
@[simp] theorem setColEvent_reqs : (d.setColEvent i).reqs = d.reqs := rfl
@[simp] theorem setColEvent_dones : (d.setColEvent i).dones = d.dones := rfl
@[simp] theorem setColEvent_msix : (d.setColEvent i).msix = d.msix := rfl
@[simp] theorem setColEvent_plans : (d.setColEvent i).plans = d.plans := rfl
@[simp] theorem setColEvent_lastHandle : (d.setColEvent i).lastHandle = d.lastHandle := rfl
@[simp] theorem setColEvent_siteOf : (d.setColEvent i).siteOf = d.siteOf := rfl
@[simp] theorem setColEvent_mapTs : (d.setColEvent i).mapTs = d.mapTs := rfl
@[simp] theorem setColEvent_epoch : (d.setColEvent i).epoch = d.epoch := rfl
@[simp] theorem setColEvent_cqs : (d.setColEvent i).cqs = d.cqs := rfl
@[simp] theorem setColEvent_mem : (d.setColEvent i).mem = d.mem := rfl
@[simp] theorem setColEvent_shared : (d.setColEvent i).shared = d.shared := rfl
@[simp] theorem setColEvent_stks : (d.setColEvent i).stks = d.stks := rfl
@[simp] theorem setColEvent_dscs : (d.setColEvent i).dscs = d.dscs := rfl
@[simp] theorem setColEvent_sites : (d.setColEvent i).sites = d.sites := rfl
@[simp] theorem setColEvent_rampStep : (d.setColEvent i).rampStep = d.rampStep := rfl
@[simp] theorem setColEvent_rampBeat : (d.setColEvent i).rampBeat = d.rampBeat := rfl
@[simp] theorem setColEvent_fenceFall : (d.setColEvent i).fenceFall = d.fenceFall := rfl
@[simp] theorem setColEvent_wipes : (d.setColEvent i).wipes = d.wipes := rfl
@[simp] theorem setColEvent_deliveries : (d.setColEvent i).deliveries = d.deliveries := rfl
@[simp] theorem setColEvent_lnk : (d.setColEvent i).lnk = d.lnk := rfl
@[simp] theorem setColEvent_slv : (d.setColEvent i).slv = d.slv := rfl
@[simp] theorem setColEvent_solves : (d.setColEvent i).solves = d.solves := rfl
@[simp] theorem setColEvent_sec : (d.setColEvent i).sec = d.sec := rfl
@[simp] theorem setColEvent_health : (d.setColEvent i).health = d.health := rfl
@[simp] theorem setColEvent_stm : (d.setColEvent i).stm = d.stm := rfl
@[simp] theorem setColEvent_trc : (d.setColEvent i).trc = d.trc := rfl
@[simp] theorem setColEvent_jtag : (d.setColEvent i).jtag = d.jtag := rfl
@[simp] theorem setColEvent_pwr : (d.setColEvent i).pwr = d.pwr := rfl
@[simp] theorem setColEvent_mgt : (d.setColEvent i).mgt = d.mgt := rfl
@[simp] theorem setColEvent_msixTab : (d.setColEvent i).msixTab = d.msixTab := rfl
@[simp] theorem setColEvent_rings : (d.setColEvent i).rings = d.rings := rfl
@[simp] theorem setColEvent_devErr : (d.setColEvent i).devErr = d.devErr := rfl
@[simp] theorem setColEvent_free : (d.setColEvent i).free = d.free := rfl
end

section
variable (d : Dev) (i : Nat)
@[simp] theorem setDevErr_bt : (d.setDevErr i).bt = d.bt := rfl
@[simp] theorem setDevErr_fwp : (d.setDevErr i).fwp = d.fwp := rfl
@[simp] theorem setDevErr_chans : (d.setDevErr i).chans = d.chans := rfl
@[simp] theorem setDevErr_reqs : (d.setDevErr i).reqs = d.reqs := rfl
@[simp] theorem setDevErr_dones : (d.setDevErr i).dones = d.dones := rfl
@[simp] theorem setDevErr_msix : (d.setDevErr i).msix = d.msix := rfl
@[simp] theorem setDevErr_plans : (d.setDevErr i).plans = d.plans := rfl
@[simp] theorem setDevErr_lastHandle : (d.setDevErr i).lastHandle = d.lastHandle := rfl
@[simp] theorem setDevErr_siteOf : (d.setDevErr i).siteOf = d.siteOf := rfl
@[simp] theorem setDevErr_mapTs : (d.setDevErr i).mapTs = d.mapTs := rfl
@[simp] theorem setDevErr_epoch : (d.setDevErr i).epoch = d.epoch := rfl
@[simp] theorem setDevErr_cqs : (d.setDevErr i).cqs = d.cqs := rfl
@[simp] theorem setDevErr_mem : (d.setDevErr i).mem = d.mem := rfl
@[simp] theorem setDevErr_shared : (d.setDevErr i).shared = d.shared := rfl
@[simp] theorem setDevErr_stks : (d.setDevErr i).stks = d.stks := rfl
@[simp] theorem setDevErr_dscs : (d.setDevErr i).dscs = d.dscs := rfl
@[simp] theorem setDevErr_sites : (d.setDevErr i).sites = d.sites := rfl
@[simp] theorem setDevErr_rampStep : (d.setDevErr i).rampStep = d.rampStep := rfl
@[simp] theorem setDevErr_rampBeat : (d.setDevErr i).rampBeat = d.rampBeat := rfl
@[simp] theorem setDevErr_fenceFall : (d.setDevErr i).fenceFall = d.fenceFall := rfl
@[simp] theorem setDevErr_wipes : (d.setDevErr i).wipes = d.wipes := rfl
@[simp] theorem setDevErr_deliveries : (d.setDevErr i).deliveries = d.deliveries := rfl
@[simp] theorem setDevErr_lnk : (d.setDevErr i).lnk = d.lnk := rfl
@[simp] theorem setDevErr_col : (d.setDevErr i).col = d.col := rfl
@[simp] theorem setDevErr_slv : (d.setDevErr i).slv = d.slv := rfl
@[simp] theorem setDevErr_solves : (d.setDevErr i).solves = d.solves := rfl
@[simp] theorem setDevErr_sec : (d.setDevErr i).sec = d.sec := rfl
@[simp] theorem setDevErr_health : (d.setDevErr i).health = d.health := rfl
@[simp] theorem setDevErr_stm : (d.setDevErr i).stm = d.stm := rfl
@[simp] theorem setDevErr_trc : (d.setDevErr i).trc = d.trc := rfl
@[simp] theorem setDevErr_jtag : (d.setDevErr i).jtag = d.jtag := rfl
@[simp] theorem setDevErr_pwr : (d.setDevErr i).pwr = d.pwr := rfl
@[simp] theorem setDevErr_mgt : (d.setDevErr i).mgt = d.mgt := rfl
@[simp] theorem setDevErr_msixTab : (d.setDevErr i).msixTab = d.msixTab := rfl
@[simp] theorem setDevErr_rings : (d.setDevErr i).rings = d.rings := rfl
@[simp] theorem setDevErr_free : (d.setDevErr i).free = d.free := rfl
end

section
variable (d : Dev) (c : Nat)
@[simp] theorem haltQueue_bt : (d.haltQueue c).bt = d.bt := rfl
@[simp] theorem haltQueue_fwp : (d.haltQueue c).fwp = d.fwp := rfl
@[simp] theorem haltQueue_chans : (d.haltQueue c).chans = d.chans := rfl
@[simp] theorem haltQueue_reqs : (d.haltQueue c).reqs = d.reqs := rfl
@[simp] theorem haltQueue_dones : (d.haltQueue c).dones = d.dones := rfl
@[simp] theorem haltQueue_msix : (d.haltQueue c).msix = d.msix := rfl
@[simp] theorem haltQueue_plans : (d.haltQueue c).plans = d.plans := rfl
@[simp] theorem haltQueue_lastHandle : (d.haltQueue c).lastHandle = d.lastHandle := rfl
@[simp] theorem haltQueue_siteOf : (d.haltQueue c).siteOf = d.siteOf := rfl
@[simp] theorem haltQueue_mapTs : (d.haltQueue c).mapTs = d.mapTs := rfl
@[simp] theorem haltQueue_epoch : (d.haltQueue c).epoch = d.epoch := rfl
@[simp] theorem haltQueue_mem : (d.haltQueue c).mem = d.mem := rfl
@[simp] theorem haltQueue_shared : (d.haltQueue c).shared = d.shared := rfl
@[simp] theorem haltQueue_stks : (d.haltQueue c).stks = d.stks := rfl
@[simp] theorem haltQueue_dscs : (d.haltQueue c).dscs = d.dscs := rfl
@[simp] theorem haltQueue_sites : (d.haltQueue c).sites = d.sites := rfl
@[simp] theorem haltQueue_rampStep : (d.haltQueue c).rampStep = d.rampStep := rfl
@[simp] theorem haltQueue_rampBeat : (d.haltQueue c).rampBeat = d.rampBeat := rfl
@[simp] theorem haltQueue_fenceFall : (d.haltQueue c).fenceFall = d.fenceFall := rfl
@[simp] theorem haltQueue_wipes : (d.haltQueue c).wipes = d.wipes := rfl
@[simp] theorem haltQueue_deliveries : (d.haltQueue c).deliveries = d.deliveries := rfl
@[simp] theorem haltQueue_lnk : (d.haltQueue c).lnk = d.lnk := rfl
@[simp] theorem haltQueue_col : (d.haltQueue c).col = d.col := rfl
@[simp] theorem haltQueue_slv : (d.haltQueue c).slv = d.slv := rfl
@[simp] theorem haltQueue_solves : (d.haltQueue c).solves = d.solves := rfl
@[simp] theorem haltQueue_sec : (d.haltQueue c).sec = d.sec := rfl
@[simp] theorem haltQueue_health : (d.haltQueue c).health = d.health := rfl
@[simp] theorem haltQueue_stm : (d.haltQueue c).stm = d.stm := rfl
@[simp] theorem haltQueue_trc : (d.haltQueue c).trc = d.trc := rfl
@[simp] theorem haltQueue_jtag : (d.haltQueue c).jtag = d.jtag := rfl
@[simp] theorem haltQueue_pwr : (d.haltQueue c).pwr = d.pwr := rfl
@[simp] theorem haltQueue_mgt : (d.haltQueue c).mgt = d.mgt := rfl
@[simp] theorem haltQueue_msixTab : (d.haltQueue c).msixTab = d.msixTab := rfl
@[simp] theorem haltQueue_rings : (d.haltQueue c).rings = d.rings := rfl
@[simp] theorem haltQueue_devErr : (d.haltQueue c).devErr = d.devErr := rfl
@[simp] theorem haltQueue_free : (d.haltQueue c).free = d.free := rfl
end

/-! ### Bits that a write of 1 clears (R14, R16) -/

@[simp] theorem sticky_raise_val {w : Nat} (s : Sticky w) (b : BitVec w) : (s.raise b).val = s.val ||| b := rfl
@[simp] theorem sticky_settle_val {w : Nat} (s : Sticky w) : s.settle.val = s.val := rfl
@[simp] theorem sticky_clear_fresh {w : Nat} (s : Sticky w) (b : BitVec w) : (s.clear b).fresh = s.fresh := rfl

/-- A bit that an event has set in this cycle survives the write that would clear it (R16). -/
theorem sticky_raise_clear {w : Nat} (s : Sticky w) (b v : BitVec w) : ((s.raise b).clear v).val &&& b = b := by
  ext i
  simp only [Sticky.raise, Sticky.clear, BitVec.getElem_and, BitVec.getElem_or, BitVec.getElem_not]
  cases b[i] <;> simp

/-- Once the cycle of its events is over, a write of 1 clears a bit (R14). -/
@[simp] theorem sticky_settle_clear {w : Nat} (s : Sticky w) (v : BitVec w) : (s.settle.clear v).val = s.val &&& ~~~v := by
  simp [Sticky.settle, Sticky.clear]

end Sys2Proof.Machine
end

