-- ==== Sys2Proof/WellFormed.lean ====
section
/-! DEFINITION. Which commands are well formed: the operands that a type alone does not bound stay within the window, the register
or the part they speak of.  A command that is not well formed is none that the hardware could meet. -/

namespace Sys2Proof

open Sys2Proof.Machine

/-- Some bytes, all of them inside a window of `size` bytes. -/
def spanOk (off len size : Nat) : Bool := decide (0 < len) && decide (off + len ≤ size)

/-- No value stands twice in the list. -/
def allDistinct {α : Type} [BEq α] : List α → Bool
  | [] => true
  | a :: r => !r.contains a && allDistinct r

/-- A flit's TYPE is 4 bits wide and its DATA at most 240 bytes, which hold at most 60 values (R313; log entry 24). -/
def flitOk (f : Flit) : Bool :=
  decide (f.type < 16) &&
  (match f.body with
   | .data bs => decide (bs.length ≤ 240)
   | .contribution _ _ _ _ _ vals bs => decide (vals.length ≤ 60) && decide (bs.length ≤ 240)
   | .result _ _ _ _ bs => decide (bs.length ≤ 240)
   | .portNotice p => decide (p < 24)
   | _ => true)

/-- The bad lanes that training found are distinct lanes, of each direction (R315). -/
def trainOk (t : TrainIn) : Bool := allDistinct t.badLanes && allDistinct t.txLanes

/-- The faulty lanes that a test found are distinct (R379). -/
def testOk : TestResult → Bool
  | .lanes ls => !ls.isEmpty && allDistinct ls
  | _ => true

/-- An instrument's dump of scratch stays inside the populated scratch (R277, R399). -/
def ijtagOk : IjtagOp → Bool
  | .scratch _ off len => decide (0 < len.val) && decide (off.val + len.val ≤ 8388608)
  | _ => true

/-- A write by a bus names some bytes, all inside its page, window or table; VF Enable is one bit of configuration space (R458). -/
def regTargetOk (t : RegTarget) (n : Nat) : Bool :=
  match t with
  | .space _ off => 1 ≤ n && decide (off.toNat + n ≤ 2 ^ 32)
  | .page _ _ off => 1 ≤ n && decide (off.val + n ≤ 0x4000)
  | .queue _ _ off => 1 ≤ n && decide (off.val + n ≤ 0x20000)
  | .msixTable _ off => 1 ≤ n && decide (off.val + n ≤ 4096)
  | .vfEnable => n == 0

/-- The well-formed commands. -/
def Instr.wf : Instr → Bool
  | .beatInQualify => true
  | .beatInDisqualify => true
  | .pllLock => true
  | .beatMarkerSend => true
  | .beatMarkerReceive _ => true
  | .counterStep => true
  | .slewEnd => true
  | .holdoverEntry => true
  | .holdoverPause => true
  | .claimReceive => true
  | .electionSettle => true
  | .processorWatchdogExpiry _ => true
  | .processorRestartDone _ => true
  | .requestWindowWrite _ _ off data => spanOk off.val data.length 0x1000
  | .doorbellRing _ _ => true
  | .requestCopyDone _ => true
  | .requestCheck => true
  | .requestDispatch => true
  | .responsePlace => true
  | .responsePop _ _ => true
  | .channelReset _ _ => true
  | .channelResetDone _ => true
  | .eventLossSummary => true
  | .deviceInfo => true
  | .sessionOpen => true
  | .sessionClose => true
  | .planAdmit => true
  | .planArm => true
  | .planPause => true
  | .planResume => true
  | .planRetire => true
  | .planStatus => true
  | .recipeSelect => true
  | .debugResume => true
  | .fence => true
  | .unfence => true
  | .fenceOverride => true
  | .testRun => true
  | .testConfig => true
  | .craterRead => true
  | .logRead _ => true
  | .telemetry => true
  | .coreMap => true
  | .tenancyCreate => true
  | .tenancyDestroy => true
  | .sharedRegion => true
  | .wipePolicy => true
  | .lifecycleChange => true
  | .fwUpdate => true
  | .keyProvision => true
  | .linkStatus => true
  | .planStart _ => true
  | .chunkRelease _ => true
  | .chunkCommit _ => true
  | .flagDelivery => true
  | .promiseDeadline _ => true
  | .resumeBeatReached _ => true
  | .retireChunkDiscard _ => true
  | .slotInputDeadline _ _ => true
  | .switchBeat _ => true
  | .commandSlotWrite _ _ off data => spanOk off.val data.length 0x10000
  | .cqTailWrite _ _ _ => true
  | .commandFetch _ _ => true
  | .breakFire _ => true
  | .nop _ => true
  | .dummy _ => true
  | .waitb _ => true
  | .waitbExpiry _ => true
  | .qfence _ => true
  | .evsend _ => true
  | .evwait _ => true
  | .wload _ _ => true
  | .wswap _ => true
  | .mma _ _ => true
  | .mmv _ _ => true
  | .elem _ _ => true
  | .drain _ _ => true
  | .quant _ _ => true
  | .deq _ => true
  | .stats _ => true
  | .copy _ => true
  | .atom _ => true
  | .coll _ => true
  | .send _ => true
  | .recv _ => true
  | .solve _ => true
  | .vent _ => true
  | .mark _ => true
  | .commandComplete _ _ => true
  | .grantHoldExpiry _ => true
  | .rampGovernorBeat => true
  | .alu _ _ _ => true
  | .addi _ _ _ => true
  | .andi _ _ _ => true
  | .ori _ _ _ => true
  | .xori _ _ _ => true
  | .slti _ _ _ => true
  | .shifti _ _ _ => true
  | .insh _ _ _ => true
  | .ld _ _ _ => true
  | .lw _ _ _ => true
  | .lwu _ _ _ => true
  | .lh _ _ _ => true
  | .lhu _ _ _ => true
  | .lb _ _ _ => true
  | .lbu _ _ _ => true
  | .sd _ _ _ => true
  | .sw _ _ _ => true
  | .sh _ _ _ => true
  | .sb _ _ _ => true
  | .beq _ _ _ => true
  | .bne _ _ _ => true
  | .blt _ _ _ => true
  | .bge _ _ _ => true
  | .bltu _ _ _ => true
  | .bgeu _ _ _ => true
  | .jal _ _ _ => true
  | .jr _ _ _ => true
  | .pusha _ _ _ => true
  | .setf _ _ _ => true
  | .clrf _ _ _ => true
  | .waitf _ _ _ => true
  | .sendf _ _ _ => true
  | .getc _ _ _ => true
  | .sync _ _ _ => true
  | .psync _ _ _ => true
  | .halt _ _ _ => true
  | .ccrNop _ _ _ => true
  | .storeBufferDrain _ => true
  | .ccrDeadlock _ => true
  | .patrolScrub _ _ => true
  | .softRepair _ => true
  | .memoryWipe _ bad => allDistinct bad
  | .fuseSpareRow _ _ _ _ _ => true
  | .fuseSpareBank _ _ _ _ _ => true
  | .rawRead _ _ _ _ _ => true
  | .matrixFinish _ _ => true
  | .solverPublish => true
  | .flitReceive _ _ _ _ ce f => ce.all (fun l => decide (l < 9)) && flitOk f
  | .laneFail _ _ _ => true
  | .laneNotice _ => true
  | .nakReceive _ => true
  | .replayTimeout _ => true
  | .portFail _ => true
  | .portNotice _ => true
  | .directionReroute _ => true
  | .trainingDone found => found.length == 24 && found.all trainOk
  | .portRetrain _ t => trainOk t
  | .sendRequest => true
  | .sendRequestRetry => true
  | .recvData => true
  | .recvTimeout => true
  | .collContribution _ _ => true
  | .collResult => true
  | .engineMoveDone _ => true
  | .collTimeout => true
  | .streamFrameReceive _ frame => !frame.isEmpty
  | .slotRecord _ => true
  | .loadRecord _ => true
  | .readReq _ => true
  | .recordSend _ => true
  | .divertPop _ => true
  | .ethertypeWrite _ _ => true
  | .streamPortUp _ => true
  | .siteRecovery _ => true
  | .spareInService _ _ => true
  | .stateLoadDone _ => true
  | .inPlaceRecompute _ _ => true
  | .progressStop _ _ => true
  | .watchdogOverrun _ => true
  | .commandWatchdogExpiry _ => true
  | .spareWarm _ _ => true
  | .craterTableSave => true
  | .fencedSiteTest _ => true
  | .testDone _ result => testOk result
  | .testDue _ => true
  | .overdueSwap _ => true
  | .healRequest => true
  | .healServe => true
  | .healData => true
  | .healTimeout => true
  | .stackLost _ => true
  | .traceFlush => true
  | .traceLostRecord => true
  | .traceCtrlWrite _ _ => true
  | .idcode => true
  | .samplePreload _ => true
  | .extest => true
  | .clamp => true
  | .highz => true
  | .ijtagSel => true
  | .bypass _ => true
  | .ijtagAccess a => ijtagOk a
  | .newChal _ => true
  | .submit _ => true
  | .lock _ => true
  | .vfEnableClear => true
  | .coldReset _ => true
  | .warmReset level x => (level || x.flash.isEmpty) && x.flash.all (fun w => decide (w.2.length ≤ 0x1000000))
  | .pcieReset => true
  | .pcieEndpointUp => true
  | .functionLevelReset _ => true
  | .firmwareAuth bad => allDistinct bad
  | .cfgDone _ => true
  | .vinRise => true
  | .vinOutOfRange _ => true
  | .vinUndervoltage => true
  | .vinOvervoltage => true
  | .powerDieFault _ => true
  | .vauxLoss => true
  | .thermtrip => true
  | .domainPowerUp _ _ => true
  | .domainPowerDown _ _ => true
  | .domainRampDone k => k.ok || decide (k.dom.val < 80)
  | .domainRampTimeout _ => true
  | .status cmd _ => !([0x10, 0x11, 0x12, 0x20, 0x21, 0x22, 0x23, 0x30, 0x31] : List Nat).contains cmd.toNat
  | .regRead _ _ => true
  | .regWrite _ _ _ => true
  | .mgtAccessDone => true
  | .dataRead _ => true
  | .ch7Write _ n data _ => data.length == n.toNat
  | .ch7Ring _ => true
  | .ch7Read _ _ _ => true
  | .ch7Pop _ => true
  | .latchRead _ => true
  | .latchPop _ => true
  | .registerWrite t data => regTargetOk t data.length
  | .pauseBeatReached _ => true
  | .sendGrant => true
  | .sendAcknowledged => true
  | .flitBoundary _ => true
  | .streamPortDown _ => true
  | .tapReset => true
  | .sensorSample s => s.dies.length == 64 && s.pds.length == 4

end Sys2Proof
end

