-- ==== Sys2Proof/Tests/Slice0.lean ====
section
/-! SUPPORT. Tests: small machines that meet the hypotheses of the statements, ill-formed commands that the checks refuse, and single
steps whose outcome the spec gives. -/

namespace Sys2Proof.Machine

set_option linter.unusedVariables false
set_option maxRecDepth 100000

/-- The device with its control part up and the clock locked. -/
def wDev : Dev := { pwr := { ctlUp := true, vinOk := true, pdOk := 0xF, phase := .ready, ready := true }, bt := { locked := true, everLocked := true } }
def wUp : State := ⟨wDev, []⟩
/-- The machine with its beat timebase changed. -/
def wBt (f : Bt → Bt) : State := ⟨{ wDev with bt := f wDev.bt }, []⟩
def wLastCycle : State := wBt (fun b => { b with cyc := 149, beat := BitVec.allOnes 52 })
def wQualified : State := wBt (fun b => { b with beatInQualified := true })
def wUnlocked : State := ⟨{ wDev with pwr := { wDev.pwr with phase := .reset }, bt := {} }, []⟩
/-- The machine with a list of ports up. -/
def wPorts (ps : List Nat) (s : State) : State :=
  { s with dev := ps.foldl (fun (d : Dev) p => d.modPort p (fun q => { q with state := .up })) s.dev }
def wMaster : State := wPorts [0, 5] (wBt (fun b => { b with elect := .master, beat := 64 }))
def wMark : Marker := { ts := 0x1000, hop := 2, interval := 64, arrived := 0x2000 }
def wMarker : State := wPorts [7, 8] (wBt (fun b => { b with elect := .follower, settled := true, markerIn := b.markerIn.set 7 (some wMark) }))
def wCounted : State := ⟨{ wMarker.dev with bt := { wMarker.dev.bt with countValid := true } }, []⟩
def wFarOff : State := wBt (fun b => { b with elect := .follower, stepBy := some 0xFFFFFFFFFFF00000, beat := 1000 })
def wSlewing : State := wBt (fun b => { b with slewing := true, slewRest := -409599 })
def wNoMarker : State := wBt (fun b => { b with elect := .follower, settled := true, everSettled := true, beat := 192 })
def wLongHoldover : State := wBt (fun b => { b with holdover := true, holdoverBeats := 100000 })
def wOtherUid : BitVec 128 := ownUid + 1
theorem test_other_uid : wOtherUid ≠ ownUid := by
  unfold wOtherUid
  intro h
  have := congrArg BitVec.toNat h
  rw [BitVec.toNat_add] at this
  have := ownUid.isLt
  simp at *
def wLowClaim : Claim := ⟨5, wOtherUid⟩
def wClaimFlit : Flit := { type := 4, body := .claim wLowClaim }
/-- A device that claims, with one flit from port 3 in its inbox. -/
def wClaims (f : Flit) : State :=
  let s := wBt (fun b => { b with elect := .claiming, claims := true })
  let d := { s.dev with bt := { s.dev.bt with lowest := some s.dev.ownClaim }, lnk := { s.dev.lnk with inbox := [(3, f)] } }
  ⟨d, []⟩
def wClaiming : State := wClaims wClaimFlit
def wTwinClaim : Claim := ⟨wUp.dev.ownKey, wOtherUid⟩
def wTwinFlit : Flit := { type := 4, body := .claim wTwinClaim }
def wTwin : State := wClaims wTwinFlit
def wWinner : State := ⟨{ wDev with pwr := { wDev.pwr with phase := .elect }, bt := { wDev.bt with elect := .claiming, claims := true, beat := 1024 } }, []⟩
def wLoser : State := wBt (fun b => { b with elect := .claiming, lowest := some wLowClaim, beat := 1024 })

/-- The machine with its power block changed. -/
def wPwr (f : Pwr → Pwr) : State := ⟨{ wDev with pwr := f wDev.pwr }, []⟩
def wNoVin : State := wPwr (fun p => { p with vinOk := false, pdOk := 0, ctlUp := false, phase := .halted })
def wRamp : State := wPwr (fun p => { p with ramps := [(165, 3, 0)], doms := p.doms.set 165 .ramping })
def wRampNoHlp : State := wPwr (fun p => { p with ramps := [(79, 3, 0)], doms := p.doms.set 79 .ramping })
def wRampLong : State := { wRamp with dev := { wRamp.dev with bt := { wRamp.dev.bt with beat := 800 } } }
def wPcie : State := ⟨{ wDev with pwr := { wDev.pwr with pcieUp := true, perstHigh := true }, sec := { wDev.sec with vfEnable := true } }, []⟩
def wOffSolver : State := wPwr (fun p => { p with pcieUp := true, doms := (List.replicate 171 DomState.on).set 165 .off })
def wOnSolver : State := wPwr (fun p => { p with pcieUp := true, doms := List.replicate 171 .on })
def wSample : Sample := { dies := [300, 412, 412], pds := [(250, 9000)], vinMv := 48000, pkgMw := 900000 }
def wHotSample : Sample := { dies := [300, 1150], pds := [(250, 9000)], vinMv := 48000, pkgMw := 900000 }
def wNoVaux : State := wPwr (fun p => { p with vauxOk := false, ctlUp := false, pdOk := 0 })
def wPowered : State := wPwr (fun p => { p with ctlUp := false, phase := .halted })
def wInReset : State := wPwr (fun p => { p with sysRst := true })
def wAuth : State := wPwr (fun p => { p with phase := .auth })
def wBadBanks : State := { wAuth with dev := { wAuth.dev with sec := { wAuth.dev.sec with key0Revoked := true } } }
def wWaitCfg : State := wPwr (fun p => { p with phase := .waitCfg, pcieUp := true, doms := List.replicate 171 .on })
/-- The machine with its five processors running. -/
def wFw : Dev := { wDev with fwp := List.replicate 5 { state := .running } }
def wRuns : State := ⟨wFw, []⟩
def wTraining : State := ⟨({ wFw with pwr := { wFw.pwr with phase := .links, doms := List.replicate 171 .on } }).modPort 6 (fun q => { q with state := .training }), []⟩
def wRestarting : State := ⟨wFw.modFw 0 (fun f => { f with state := .restarting }), []⟩

/-- The machine with the PCIe endpoint up, VF Enable set, its processors running and the boot at its end. -/
def wHost : Dev := { wFw with pwr := { wFw.pwr with pcieUp := true, doms := List.replicate 171 .on }, sec := { wFw.sec with vfEnable := true } }
def wChan (c : Nat) (f : Chan → Chan) : State := ⟨wHost.modChan c f, []⟩
/-- The bytes of a request. -/
def wMessage (op : Nat) (p : List Byte) : List Byte :=
  [1, if ((msgRow op).map (·.critical)).getD false then 1 else 0] ++ bytesLE 2 op ++ bytesLE 2 p.length ++ List.replicate 26 0 ++ p
def wReq (op chan : Nat) (p : List Byte) : Req := { chan := chan, msg := wMessage op p, place := .owner }
/-- A machine with one request at its owner. -/
def wAsk (op chan : Nat) (p : List Byte) (d : Dev) : State := ⟨{ d with reqs := [wReq op chan p] }, []⟩
def wInfo : List Byte := wMessage 0x0100 []
def wInfoReq : Req := { chan := 0, msg := wInfo }
def wCopied : State := wChan 0 (fun x => { x with copied := [wInfo] })
def wCopiedBad : State := wChan 0 (fun x => { x with copied := [[2]] })
def wKept : List Byte := responseBytes wInfo 0 (some (resultPayload 0 [])) none
def wCopiedDup : State := wChan 0 (fun x => { x with copied := [wInfo], lastSeq := 0, keptDigest := some (sha256 (withStatus wInfo 0)), keptResp := some wKept })
def wAtHp : State := ⟨{ wHost with reqs := [wInfoReq] }, []⟩
def wDone : Done := { chan := 0, msg := wInfo, status := 0, payload := some (resultPayload 0 []) }
def wDue : State := ⟨{ wHost with dones := [wDone] }, []⟩

def wCopiedSoon : State :=
  ⟨{ wHost.modChan 0 (fun x => { x with copied := [wInfo], lastSeq := 0, keptDigest := some (sha256 (withStatus wInfo 0)) }) with dones := [wDone] }, []⟩

def wGroup : GroupEnt := ⟨0, [[], [0]]⟩
/-- A plan of two steps with handle 1 and one group, based on beat 3,000. -/
def wPlan (st : PlanState) : Plan :=
  { handle := 1, func := 0, imageAddr := 0, imageLen := 64, state := st, base := 3000, cores := [0], homes := [0]
    chunkStates := [.waiting, .waiting]
    img := { steps := [⟨0, 900⟩, ⟨1000, 1900⟩], nCores := 1, groups := [wGroup]
             chunks := [⟨0, 0, 160, 0, [], 0, 1⟩, ⟨1, 0, 160, 0, [], 1, 1⟩], nodes := [[.chunk 0, .chunk 1]] } }
/-- The host's machine with the plan, on core 0 and site 0, at a beat of its first step. -/
def wPlanDev (st : PlanState) : Dev :=
  { wHost with plans := [wPlan st], siteOf := wHost.siteOf.set 0 0, bt := { wHost.bt with countValid := true, elect := .master, settled := true, beat := 3000 } }
def wPlanAsk (op : Nat) (st : PlanState) (p : List Byte) : State := wAsk op 0 p (wPlanDev st)
def wHandlePayload : List Byte := bytesLE 8 1
def wBeatPayload : List Byte := bytesLE 8 1 ++ bytesLE 8 9000
def wSelectPayload : List Byte := bytesLE 2 1 ++ bytesLE 2 1 ++ bytesLE 4 0 ++ bytesLE 8 4000 ++ [0, 0, 1, 0]
def wAdmitPayload : List Byte := bytesLE 8 0x1000 ++ bytesLE 4 400 ++ bytesLE 4 0

/-- The bytes of a plan image of one step, one core and no command; its digest was computed outside Lean. -/
def wImage : List Byte :=
  [80, 76, 65, 78, 1, 0, 0, 0, 144, 1, 0, 0, 1, 0, 0, 0] ++
  [1, 0, 0, 0, 0, 0, 0, 0, 0, 0, 0, 0, 0, 0, 0, 0] ++
  [7, 0, 0, 0, 0, 0, 0, 0, 0, 0, 0, 0, 0, 0, 0, 0] ++
  [51, 79, 74, 45, 134, 93, 248, 152, 152, 13, 110, 128, 44, 21, 208, 78] ++
  [154, 228, 88, 83, 211, 108, 28, 210, 91, 105, 234, 40, 157, 44, 94, 137] ++
  [203, 133, 199, 186, 216, 60, 184, 221, 224, 92, 237, 239, 231, 139, 153, 65] ++
  [1, 0, 0, 0, 0, 1, 0, 0, 16, 0, 0, 0, 0, 0, 0, 0] ++
  [2, 0, 0, 0, 0, 1, 0, 0, 0, 0, 0, 0, 0, 0, 0, 0] ++
  [3, 0, 0, 0, 0, 1, 0, 0, 0, 0, 0, 0, 0, 0, 0, 0] ++
  [4, 0, 0, 0, 0, 1, 0, 0, 0, 0, 0, 0, 0, 0, 0, 0] ++
  [5, 0, 0, 0, 16, 1, 0, 0, 64, 0, 0, 0, 0, 0, 0, 0] ++
  [6, 0, 0, 0, 0, 1, 0, 0, 0, 0, 0, 0, 0, 0, 0, 0] ++
  [7, 0, 0, 0, 80, 1, 0, 0, 64, 0, 0, 0, 0, 0, 0, 0] ++
  [8, 0, 0, 0, 0, 1, 0, 0, 0, 0, 0, 0, 0, 0, 0, 0] ++
  [9, 0, 0, 0, 0, 1, 0, 0, 0, 0, 0, 0, 0, 0, 0, 0] ++
  [10, 0, 0, 0, 0, 1, 0, 0, 0, 0, 0, 0, 0, 0, 0, 0] ++
  [0, 0, 0, 0, 0, 0, 0, 0, 232, 3, 0, 0, 0, 0, 0, 0] ++
  [1, 0, 0, 0, 0, 0, 0, 0, 0, 0, 0, 0, 0, 0, 0, 0] ++
  [0, 0, 0, 0, 0, 0, 0, 0, 64, 0, 0, 0, 0, 0, 0, 0] ++
  [0, 0, 0, 0, 0, 0, 0, 0, 0, 0, 0, 0, 0, 0, 0, 0] ++
  [0, 0, 0, 0, 0, 0, 0, 0, 0, 0, 0, 0, 0, 0, 0, 0] ++
  [1, 0, 0, 0, 1, 0, 0, 0, 2, 0, 255, 127, 0, 0, 0, 0] ++
  [0, 0, 0, 0, 0, 0, 0, 0, 0, 0, 0, 0, 0, 0, 0, 0] ++
  [0, 0, 16, 0, 0, 0, 0, 0, 0, 0, 16, 0, 0, 0, 0, 0] ++
  [0, 0, 0, 0, 0, 0, 0, 0, 0, 0, 16, 0, 0, 0, 0, 0]
def wImg : PlanImg :=
  { steps := [⟨0, 1000⟩], nodes := [[]], nCores := 1, seed := 7
    layout := { ranges := [⟨0x100000, 0x100000⟩], hists := [⟨0, 0, 0x100000⟩], healPeer := 0x7FFF } }
def wImageDev : Dev := { wHost with mem := { bytes := memPutAll [] 0x1000 wImage } }

/-- Site 7 fenced, and its test passed since. -/
def wTested : Dev :=
  (wHost.setSiteState 7 .fenced).modHealth (fun h => { h with
    testedSince := h.testedSince.set 7 (some true), crater := [⟨0x1007, 3, 0, 1, 5⟩] })
def wLogged : Dev := wHost.modHealth (fun h => { h with bankA := [{}, { cls := 2 }], bankB := [{}, { cls := 2 }], logNext := 2 })

def wSwap : Recovery := { site := 79, core := none, cause := .swap, fail := 79 }
def wSwapping : Dev := (wHost.setSiteState 79 .recovering).modHealth (fun h => { h with recoveries := [wSwap] })
def wSwapIn : Recovery := { wSwap with phase := .inService, spare := some 3 }
def wSwapped : Dev := (wSwapping.setSiteState 3 .recovering).modHealth (fun h => { h with recoveries := [wSwapIn] })

def wHost1 : State := ⟨wHost, []⟩
def wLocked : Dev := { wHost with sec := { wHost.sec with debug := false, lcFuses := [(true, true), (true, true), (false, false)] } }
def wTenancyPayload : List Byte := [4, 1, 1, 0, 0, 0, 0, 0] ++ bytesLE 8 0x10000000 ++ bytesLE 8 0x10000000
def wTenanted : Dev := { wLocked with sec := { wLocked.sec with tenancies := wLocked.sec.tenancies.set 3 (some ⟨[⟨0, 0x10000000⟩], [71], []⟩) } }
def wRegionPayload : List Byte := [7, 1, 31, 0, 0, 0, 0, 0] ++ bytesLE 8 0x20000000 ++ bytesLE 8 0x10000000
def wWithdrawPayload : List Byte := [7, 2] ++ List.replicate 22 0
def wNamed : Dev := { wHost with shared := wHost.shared.set 7 (some ⟨0x20000000, 0x10000000, 31⟩) }
def wSession : Dev := wHost.modChan 0 (fun c => { c with session := some { number := 1, key := List.replicate 32 0 } })
def wKeyPayload : List Byte := [0, 0, 0, 0, 0, 0, 0, 0] ++ List.replicate 32 1
def wKeyMasked : List Byte := (List.replicate 32 1).zipWith (· ^^^ ·) (hkdfExpand (List.replicate 32 0) (ascii "KEYMASK" ++ [0]))
def wKeyReq : Req := { wReq 0x0412 0 wKeyPayload with key := some (List.replicate 32 0) }

/-- A running plan whose core 0, on site 0, runs its first chunk; one thread has the registers and stands at `scratchBase 0`. -/
def wChunkRun : RunChunk := { handle := 1, idx := 0, release := 3000, execAtStart := 0, flagCopy := 0 }
def wInsPlan : Plan :=
  let p := wPlan .running
  { p with chunkStates := [.running 3000, .waiting], img := { p.img with layout := { ranges := [⟨0x100000, 0x100000⟩] }, seed := 99 } }
def wInsCtx : Ctx := ⟨0, wChunkRun, wInsPlan, 0, 0⟩
def wRegs (rs : List (Nat × BitVec 64)) : List (BitVec 64) := rs.foldl (fun l r => l.set r.1 r.2) (List.replicate 32 0)
def wInsThread (rs : List (Nat × BitVec 64)) : Thread :=
  { regs := wRegs rs, pc := BitVec.ofNat 64 (scratchBase 0), state := .running, started := true, retired := 4 }
def wInsDev (w : BitVec 32) (rs : List (Nat × BitVec 64)) : Dev :=
  let d := { wPlanDev .running with plans := [wInsPlan], mem := { bytes := memPutAll [(0x10000A, 0xFE)] (scratchBase 0) (bytesLE 4 w.toNat) } }
  ((d.setSiteState 0 .inService).modCq 0 (fun q => { q with run := some wChunkRun })).modCcr 0 (fun cc => { cc with
    textBase := BitVec.ofNat 48 (scratchBase 0), threads := cc.threads.set 0 (wInsThread rs) })
def wIns (w : BitVec 32) (rs : List (Nat × BitVec 64)) : State := ⟨wInsDev w rs, []⟩
def wLoadRegs : List (Nat × BitVec 64) := [(3, 0x1122334455667788), (4, 0x100010)]
def wDscRegs : List (Nat × BitVec 64) := [(4, 0x1000000000)]
def wStore : StoreEnt := { addr := 0x100010, data := [1, 2, 3, 4, 5, 6, 7, 0xF8], thread := 0, pc := 8 }
def wStores (l : List StoreEnt) (s : State) : State := ⟨s.dev.modCcr 0 (fun cc => { cc with stores := l }), []⟩
def wBuffered (s : State) : State := wStores [wStore] s
/-- The same while a wipe holds the store's bytes. -/
def wBufferedWipe (s : State) : State := ⟨{ (wBuffered s).dev with wipes := [⟨.create 0, [⟨0x100000, 0x1000⟩]⟩] }, []⟩
def wFullBuffer (s : State) : State := wStores (List.replicate 8 wStore) s
def wFlagged (s : State) : State := ⟨s.dev.modCcr 0 (fun cc => { cc with flags := 0x21 }), []⟩
/-- The same with a plan of two cores. -/
def wInsPlan2 : Plan := { wInsPlan with cores := [0, 1], homes := [0, 0], img := { wInsPlan.img with nCores := 2 } }
def wInsCtx2 : Ctx := { wInsCtx with p := wInsPlan2 }
def wIns2 (w : BitVec 32) (rs : List (Nat × BitVec 64)) : State := ⟨{ wInsDev w rs with plans := [wInsPlan2] }, []⟩
def wDesc : Desc := { base := [0x200, 0, 0, 0, 0, 0], strideIn := [64, 0, 0, 0, 0, 0], strideOut := [0, 0, 0, 0, 0, 0], nIn := 4, nOut := 1, k := 1 }
def wDescBytes : List Byte := bytesLE 8 0x200 ++ List.replicate 40 0 ++ bytesLE 4 64 ++ List.replicate 44 0 ++ bytesLE 4 4 ++ bytesLE 4 1 ++ [1] ++ List.replicate 23 0
def wDescribed (s : State) : State := ⟨{ s.dev with mem := { s.dev.mem with bytes := memPutAll s.dev.mem.bytes 0x100010 wDescBytes } }, []⟩
def wDeadRun : RunChunk := { wChunkRun with deadlock := 64 }
def wDeadlocked : State := ⟨(wInsDev 0xCC000005 []).modCq 0 (fun q => { q with run := some wDeadRun }), []⟩
def wDeadCtx : Ctx := { wInsCtx with rc := wDeadRun }

/-- A command of 64 bytes with its index, FLAGS and the fields from byte 8 on. -/
def wCommand (op idx flags : Nat) (body : List Byte) : List Byte :=
  [BitVec.ofNat 8 op, BitVec.ofNat 8 flags, 0, 15] ++ bytesLE 4 idx ++ (body ++ List.replicate 56 0).take 56
def wNopCmd : List Byte := wCommand 0 0 0x80 []
/-- The running chunk's next command. -/
def wCmd (bs : List Byte) : State := ⟨(wInsDev 0 []).modCq 0 (fun q => { q with fetched := [⟨0, bs, none⟩] }), []⟩
def wCmd2 (bs : List Byte) : State := ⟨{ (wCmd bs).dev with plans := [wInsPlan2] }, []⟩
def wPublished : State := ⟨(wInsDev 0 []).modCq 0 (fun q => { q with entries := [wNopCmd], regs := { q.regs with tail := 1 } }), []⟩
def wMistagged : State := ⟨(wInsDev 0 []).modCq 0 (fun q => { q with entries := [wCommand 0 7 0 []], regs := { q.regs with tail := 1 } }), []⟩
def wWaiting : State := ⟨(wInsDev 0 []).modCq 0 (fun q => { q with wait := .beat 2900 100 }), []⟩
/-- An INT32 atomic region of the plan. -/
def wAtomPlan : Plan := { wInsPlan with img := { wInsPlan.img with layout := { wInsPlan.img.layout with regions := [⟨0x100000, 64, 1, 2, 0⟩] } } }
def wAtomCtx : Ctx := { wInsCtx with p := wAtomPlan }
def wAtomCmd : List Byte :=
  wCommand 0x21 0 0 (bytesLE 8 0x100004 ++ [0, 2, 3, 0] ++ bytesLE 4 0 ++ bytesLE 8 0x2000001000)
def wAtomic (bs : List Byte) : State := ⟨{ (wCmd bs).dev with plans := [wAtomPlan] }, []⟩
def wSendCmd : List Byte := wCommand 0x31 0 0 (bytesLE 2 0x1000 ++ bytesLE 2 9 ++ bytesLE 4 0 ++ bytesLE 8 0x100000 ++ bytesLE 4 100)
def wRecvCmd : List Byte := wCommand 0x32 0 0 (bytesLE 2 0x1000 ++ bytesLE 2 9 ++ bytesLE 4 0 ++ bytesLE 8 0x100000 ++ bytesLE 4 100 ++ bytesLE 4 500)
def wCollCmd : List Byte :=
  wCommand 0x30 0 0 (bytesLE 2 0x1000 ++ [2, 0, 1, 1, 0, 0] ++ bytesLE 8 0x100000 ++ bytesLE 8 0x140000 ++ bytesLE 8 64 ++ bytesLE 4 0 ++ bytesLE 4 500)
def wSolveCmd : List Byte :=
  wCommand 0x40 0 0 ([1, 0] ++ bytesLE 2 4 ++ bytesLE 2 1 ++ bytesLE 2 0 ++ bytesLE 8 0x100000 ++ bytesLE 8 0x110000 ++ bytesLE 8 500 ++ bytesLE 8 0x100400)
/-- The device at coordinate 0 of a system of two. -/
def wMesh (s : State) : State := ⟨{ s.dev with lnk := { s.dev.lnk with xyz := 0, coordUsed := 0, wSize := 2 } }, []⟩
def wVentCmd : List Byte := wCommand 0x50 0 0 (bytesLE 2 4 ++ bytesLE 2 0 ++ bytesLE 4 6000)
def wVentPlan : Plan := { wInsPlan with img := { wInsPlan.img with vents := [⟨0, 0, 0, 6000, 0⟩], nodes := [[.vent 0]] }, ventStates := [.waiting] }
def wVent (g : BitVec 3) : State :=
  ⟨({ (wInsDev 0 []) with plans := [wVentPlan] }.modCq 0 (fun q => { q with run := none, fetched := [⟨0, wVentCmd, none⟩] })).modLbk 0 (fun l => { l with grant := g }), []⟩
def wFlight : Flight := { idx := 0, bytes := wCommand 0x20 0 0 [], ended := true }
def wFlying : State := ⟨(wInsDev 0 []).modCq 0 (fun q => { q with flights := [wFlight], next := 1 }), []⟩
def wEarly : State := ⟨(wInsDev 0 []).modCq 0 (fun q => { q with fetched := [⟨0, wCommand 0x7F 0 0 [], some (0x0100, 0)⟩] }), []⟩
/-- The next command is skipped by VMASK while one of its own unit is in flight. -/
def wSkippedCmd : List Byte := (wCommand 0x20 1 0x80 []).set 3 2
def wSkipPlan : Plan := { wInsPlan with img := { wInsPlan.img with chunks := [⟨0, 0, 160, 0, [], 0, 2⟩, ⟨1, 0, 160, 0, [], 2, 1⟩] } }
def wSkipCtx : Ctx := { wInsCtx with p := wSkipPlan }
def wSkipped : State := ⟨({ wInsDev 0 [] with plans := [wSkipPlan] }).modCq 0 (fun q => { q with flights := [{ wFlight with ended := false }], next := 1, fetched := [⟨1, wSkippedCmd, none⟩] }), []⟩
def wBreak : State := ⟨(wInsDev 0 []).modCq 0 (fun q => { q with brkDue := true, regs := { q.regs with brkCountEn := true } }), []⟩
def wHolding : State := ⟨wDev.modLbk 3 (fun l => { l with holding := true, hold := 0, grant := 2 }), []⟩
def wDemands : State := ⟨(List.range 80).foldl (fun (d : Dev) i => d.modLbk i (fun l => { l with demand := i % 5, grant := BitVec.ofNat 3 ((i * 3) % 5) })) wDev, []⟩

/-- Addresses of the scratch of site 0. -/
def wS (o : Nat) : List Byte := bytesLE 8 (0x2000000000 + o)
def wLoadCmd : List Byte := wCommand 0x10 0 0 (wS 0x1000 ++ bytesLE 8 0 ++ [9, 1] ++ bytesLE 2 2 ++ bytesLE 2 32 ++ bytesLE 2 0 ++ bytesLE 4 64)
def wMmaBytes (mode : Byte) : List Byte :=
  wCommand 0x12 0 0 (wS 0x2000 ++ bytesLE 8 0 ++ [9, 1, mode, 0xFF] ++ bytesLE 2 5 ++ bytesLE 2 2 ++ bytesLE 2 7 ++ [0, 0] ++ bytesLE 8 0 ++ bytesLE 4 64)
def wMmaCmd : List Byte := wMmaBytes 0
def wMmaAcc : List Byte := wMmaBytes 1
def wReadySet : WSet :=
  { st := .ready, load := { fmt := 9, gCode := 1, lanes := 1, depth := 32, stride := 64 }, codes := [List.replicate 32 0x3F80], colSums := (setSums 9 32 32 [List.replicate 32 0x3F80]).1, laneSums := (setSums 9 32 32 [List.replicate 32 0x3F80]).2 }
def wMma (bs : List Byte) : State := ⟨(wCmd bs).dev.modLbk 0 (fun l => { l with set0 := wReadySet, grant := 4 }), []⟩
def wClash (bs : List Byte) : State := ⟨(wMma bs).dev.modAcc 0 (fun a => { a with rows := [(6, zeroRow 8)] }), []⟩
def wDrainCmd : List Byte :=
  wCommand 0x15 0 0 (wS 0x4000 ++ bytesLE 8 0 ++ bytesLE 8 0 ++ [9, 1, 0, 4] ++ bytesLE 2 0 ++ bytesLE 2 2 ++ bytesLE 2 0 ++ [0, 0xFF] ++ wS 0x8000 ++ bytesLE 4 0x3F800000)
def wMmvCmd : List Byte :=
  wCommand 0x13 0 0 (bytesLE 8 0x100000 ++ wS 0x1000 ++ wS 0x2000 ++ [1, 1] ++ bytesLE 2 0 ++ [0xFF, 0] ++ bytesLE 2 2 ++ bytesLE 4 32)
def wElemCmd : List Byte :=
  wCommand 0x14 0 0 (wS 0x1000 ++ wS 0x2000 ++ wS 0x3000 ++ [6, 0, 0xFF, 0] ++ bytesLE 4 600 ++ bytesLE 4 0)
def wGranted (bs : List Byte) : State := ⟨(wCmd bs).dev.modLbk 0 (fun l => { l with grant := 4 }), []⟩
def wQuantCmd : List Byte :=
  wCommand 0x16 0 0 (wS 0x1000 ++ wS 0x2000 ++ wS 0x3000 ++ [9, 1, 1, 0, 0, 0xFF] ++ bytesLE 2 0 ++ bytesLE 4 64 ++ bytesLE 8 0 ++ bytesLE 4 0 ++ bytesLE 2 0xFFFF)
def wDeqCmd : List Byte :=
  wCommand 0x17 0 0 (wS 0x1000 ++ wS 0x2000 ++ wS 0x3000 ++ [1, 9, 1, 0, 0xFF, 0, 0, 0] ++ bytesLE 4 64)
def wStatsCmd : List Byte := wCommand 0x18 0 0 (wS 0x1000 ++ wS 0x2000 ++ [9, 0, 0xFF, 1] ++ bytesLE 4 4)
def wStatsBad : List Byte := wCommand 0x18 0 0 (wS 0x1000 ++ wS 0x1000 ++ [9, 0, 0xFF, 1] ++ bytesLE 4 4)

def wDataFlit : Flit := { type := 1, dest := 0xFFF, body := .data [1, 2] }
def wMarkFlit : Flit := { type := 3, body := .marker wMark }
/-- The machine with one port up and changed. -/
def wPortOf (p : Nat) (f : Port → Port) : State := ⟨(wPorts [p] wRuns).dev.modPort p f, []⟩
def wInboxed (p : Nat) (f : Flit) (s : State) : State := ⟨{ s.dev with lnk := { s.dev.lnk with inbox := [(p, f)] } }, []⟩
def wNakFlit : Flit := { type := 2, body := .nak 4 }
def wNaked : State :=
  wInboxed 8 wNakFlit (wPortOf 8 (fun q => { q with replay := [{ wDataFlit with seq := 3 }, { wDataFlit with seq := 4 }, { wDataFlit with seq := 5 }] }))
def wLaneFlit : Flit := { type := 2, body := .laneNotice 4 }
def wLaneNoted : State := wInboxed 8 wLaneFlit (wPorts [8] wRuns)
def wLaneNotedTwice : State := wInboxed 8 wLaneFlit (wPortOf 8 (fun q => { q with spareLane := 2 }))
def wNoticeFlit : Flit := { type := 2, body := .portNotice 16 }
def wPortNoted : State := wInboxed 8 wNoticeFlit (wPorts [8, 19] wRuns)
def wLostDir : State := ⟨{ wFw with lnk := { wFw.lnk with lostDirs := [(0, none)], waiting := [wDataFlit] } }, []⟩
def wTrainIn : TrainIn := { signal := true, badLanes := [], locked := true, nbr := 0x1000, dir := 1, rank := 0, roundTrip := 8192 }
def wFailedPort : State :=
  ⟨(wMesh ⟨{ wHost with bt := { wHost.bt with beat := 10000000 } }, []⟩).dev.modPort 0 (fun q => { q with state := .failed, crcErr := 3 }), []⟩
/-- A system of two, this device at 0, with port 0 up towards the other. -/
def wPair (f : Lnk → Lnk) : State := let s := wPorts [0] (wMesh wRuns); ⟨{ s.dev with lnk := f s.dev.lnk }, []⟩
def wRecvJob : RecvJob := { core := 0, handle := 1, idx := 0, tag := 0, peer := 0x1000, channel := 9, dst := 0x100000, bytes := 100, timeout := 500 }
def wAskFlit : Flit := { type := 4, src := 0x1000, channel := 9, body := .sendReq 100 }
def wAsked : State := wPair (fun l => { l with inbox := [(0, wAskFlit)], recvs := [wRecvJob] })
def wAskedEarly : State := wPair (fun l => { l with inbox := [(0, wAskFlit)] })
def wSendJob (st : SendState) : SendJob :=
  { core := 0, handle := 1, idx := 0, tag := 0, peer := 0x1000, channel := 9, src := 0x100000, bytes := 100, state := st }
def wSending (st : SendState) : State := wPair (fun l => { l with sends := [wSendJob st] })
def wGrantFlit : Flit := { type := 4, src := 0x1000, channel := 9, body := .grant 100 }
def wGrantedSend : State := wPair (fun l => { l with inbox := [(0, wGrantFlit)], sends := [wSendJob .requested] })
def wGrantedTwo : State := wPair (fun l => { l with inbox := [(0, wGrantFlit)], sends := [wSendJob .requested, wSendJob .ready, wSendJob .ready] })
def wDoneFlit : Flit := { type := 4, src := 0x1000, channel := 9, body := .sendDone }
def wDoneSend : State := wPair (fun l => { l with inbox := [(0, wDoneFlit)], sends := [wSendJob .sent] })
def wBulkFlit : Flit := { type := 1, src := 0x1000, channel := 9, body := .data [1, 2, 3] }
def wReceiving : State := wPair (fun l => { l with inbox := [(0, wBulkFlit)], recvs := [{ wRecvJob with match? := some 100 }] })
def wLateRecv : State := wPair (fun l => { l with recvs := [{ wRecvJob with count := 500 }] })

def wCollParams : CollParams := { op := 0, red := 0, srcFmt := 10, dstFmt := 10, wire := 1, bytes := 4, anchor := 0, size := 2 }
/-- A posted sum over two devices; this device is its root. -/
def wCollJob : CollJob :=
  { core := 0, handle := 1, idx := 0, tag := 3, group := 0x1000, posted := true, params := wCollParams, rank := 0, src := 0x100000, dst := 0x200000, timeout := 500 }
def wCol (f : Col → Col) (inbox : List (Nat × Flit)) : State :=
  let s := wPair (fun l => { l with inbox := inbox })
  ⟨{ s.dev with col := f s.dev.col }, []⟩
def wContribFlit : Flit :=
  { type := 1, src := 0x1000, channel := 0x1000, body := .contribution 0 0 wCollParams 0 1 [.f32 0x3F800000] [] }
def wContributed : State :=
  wCol (fun c => { c with jobs := [wCollJob], engines := c.engines.set 2 { inService := false } }) [(0, wContribFlit)]
/-- This device as the other member, which has posted. -/
def wLeafJob : CollJob := { wCollJob with rank := 1, vals := [.f32 0x40000000] }
def wLeaf : State := wCol (fun c => { c with jobs := [wLeafJob] }) []
/-- The root with its child's contribution, whose sum an adder has in hand. -/
def wAddJob : CollJob :=
  { wCollJob with vals := [.f32 0x40000000], contribs := [{ level := 0, rank := 1, total := 1, flags := 0, vals := [.f32 0x3F800000], bytes := [] }] }
def wAdding (r : Option (Nat × Nat × Nat)) : State := wCol (fun c => { c with jobs := [wAddJob], engines := c.engines.set 2 { retried := r } }) []
def wLeafPassed : CollJob := { wLeafJob with passed := true, params := { wCollParams with op := 2, bytes := 32 } }
def wResultFlit : Flit := { type := 1, src := 0x1000, channel := 0x1000, body := .result 0 0 64 0 (List.replicate 32 7) }
def wResulted : State := wCol (fun c => { c with jobs := [wLeafPassed] }) [(0, wResultFlit)]
def wMoving : State := wCol (fun c => { c with engines := c.engines.set 3 { inService := false, moving := some 5 } }) []
def wLateColl : State := wCol (fun c => { c with jobs := [{ wCollJob with count := 500 }] }) []
/-- The host's machine with stream port 1 in a link state and with a receive buffer. -/
def wPort2 (link : BitVec 2) (buf : List BufEnt) : State :=
  ⟨({ wHost with stm := { wHost.stm with etype := 0x88B5 } }).modStmPort 1 (fun p => { p with link := link, buf := buf }), []⟩
/-- A record header: stream, slot, kind, SEQ, step, LENGTH, ADDR. -/
def wHdr (sid slot kind seq step len addr : Nat) : List Byte :=
  bytesLE 2 sid ++ bytesLE 2 slot ++ [BitVec.ofNat 8 kind, 0, 0, 0] ++ bytesLE 4 seq ++ bytesLE 4 step ++ bytesLE 8 len ++ bytesLE 8 0 ++ bytesLE 8 addr ++ bytesLE 8 0
def wSlotEnt : BufEnt := { header := wHdr 7 2 0 5 0 3 0, claim := some (1, 0), off := 0, data := [1, 2, 3], last := true }
def wSlotPlanIn (st : SlotState) (ps : PlanState) : Plan :=
  let p := wPlan ps
  { p with img := { p.img with slots := [⟨0, 2, 7, 100, 400, 0x180000⟩] }, slotStates := [st] }
def wSlotPlan : Plan := wSlotPlanIn (.claimed 1 7 5) .running
def wSlotDev (p : Plan) (beat : BitVec 52) (s : State) : State := ⟨{ s.dev with plans := [p], bt := { s.dev.bt with beat := beat } }, []⟩
def wSlotBuf : State := wSlotDev wSlotPlan 3399 (wPort2 2 [wSlotEnt])
def wSlotWait : Plan := wSlotPlanIn .waiting .running
def wSlotLate : State := wSlotDev wSlotWait 3400 (wPort2 2 [])
def wLoadEnt : BufEnt := { header := wHdr 7 0 1 5 0 3 0x180000, off := 0, data := [1, 2, 3], last := true }
/-- The last part of a LOAD whose first part has left the buffer. -/
def wLoadParts : State :=
  let e := { wLoadEnt with off := 2, data := [9] }
  ⟨(wPort2 2 [wLoadEnt]).dev.modStmPort 1 (fun p => { p with loads := [{ e with last := false }] }), []⟩
def wDeniedEnt : BufEnt := { header := wHdr 7 0 1 5 0 3 0x4000000000, off := 0, data := [1, 2, 3], last := true }
def wReadEnt : BufEnt := { header := wHdr 7 0 4 5 0 4 0x180000, off := 0, data := [], last := true }
def wOutRec : OutRec := { func := 0, kind := 2, streamId := 5, bytes := wHdr 5 0 2 0 0 2 0 ++ [8, 9] }
def wOutbound : State := let s := wPort2 2 []; ⟨{ s.dev with stm := { s.dev.stm with outq := [wOutRec] } }, []⟩
def wTrainPort : State := wPort2 1 []
def wAllUp : State := ⟨{ wHost with stm := { wHost.stm with ports := List.replicate 4 { link := 2 } } }, []⟩
/-- A fragment, and the frame that carries it to the host's machine. -/
def wFrag (sid flags seq off : Nat) (data : List Byte) : List Byte :=
  bytesLE 2 sid ++ [BitVec.ofNat 8 flags, 0] ++ bytesLE 4 seq ++ bytesLE 4 off ++ bytesLE 2 data.length ++ [0, 0] ++ data
def wFrame (b : List Byte) : List Byte :=
  let c : List Byte := List.replicate 12 0xFF ++ [0x88, 0xB5] ++ b
  c ++ bytesLE 4 (crc32 c).toNat
def wFragLoad : List Byte := wFrag 7 3 5 0 (wHdr 7 0 1 5 0 3 0x180000 ++ [1, 2, 3])
def wFrameLoad : List Byte := wFrame wFragLoad
def wFragSlot : List Byte := wFrag 7 3 5 0 (wHdr 7 2 0 5 0 3 0 ++ [1, 2, 3])
def wFrameSlot : List Byte := wFrame wFragSlot
def wFragNext : List Byte := wFrag 7 0 5 51 [9, 9]
def wFrameNext : List Byte := wFrame wFragNext
def wOpenRec : OpenRec := { streamId := 7, seq := 5, header := wHdr 7 0 1 5 0 9 0x180000, next := 51 }
def wOpened : State := ⟨(wPort2 2 []).dev.modStmPort 1 (fun p => { p with opened := [wOpenRec] }), []⟩

def wPlanned (p : Plan) : State := ⟨{ wPlanDev .running with plans := [p] }, []⟩
/-- A plan at its START_BEAT while a step of the counter waits. -/
def wStartInStep : State := ⟨{ wPlanDev .armed with bt := { (wPlanDev .armed).bt with stepBy := some 5 } }, []⟩
def wPlanLate : Plan := { wPlan .running with base := 2000 }
def wLatePlan : State := wPlanned wPlanLate
def wHalfDone : Plan := { wPlan .paused with resumeBeat := some 2900, chunkStates := [.committed 3000, .waiting] }
def wHeldPlan : State :=
  ⟨(wPlanned { wPlan .debugHeld with resumeBeat := some 2900 }).dev.modRegs 0 (fun r => { r with frozen := true }), []⟩
/-- The running plan with a selection of group 0 from its first step on. -/
def wSwitch (v : Nat) : Plan :=
  let p := wPlan .running
  { p with selects := [⟨0, 0, v, 7⟩], img := { p.img with layout := { p.img.layout with hists := [⟨0, 1, 0x140000⟩] } } }
def wSwitching : State := let s := wPlanned (wSwitch 1); ⟨{ s.dev with mem := { bytes := [(0x140001, 9)] } }, []⟩
def wDueChunk (f : List Fetched) : State :=
  ⟨((wPlanDev .running).setSiteState 0 .inService).modCq 0 (fun q => { q with fetched := f, pend := [(5, 6)] }), []⟩
def wReadyRun : RunChunk := { handle := 1, idx := 0, release := 3000, execAtStart := 0, flagCopy := 0 }
/-- The running chunk with its command completed and its threads halted, two bytes pending. -/
def wReady : State :=
  ⟨((wInsDev 0 []).modCq 0 (fun q => { q with next := 1, pend := [(0x100009, 5), (0x10000A, 0)] })).modCcr 0 (fun cc => { cc with
    threads := List.replicate 8 {}, sigExp := 0 }), []⟩
def wReadyCtx : Ctx := wInsCtx
def wMismatch : State := ⟨wReady.dev.modCcr 0 (fun cc => { cc with sigExp := 1 }), []⟩
def wRetirePlan : Plan := { wInsPlan with retiring := some 2990 }
def wRetiring : State :=
  let d := wReady.dev
  ⟨{ d with plans := [wRetirePlan], bt := { d.bt with beat := 3300 } }, []⟩
def wDelivery (e : HeldFlag) : State := ⟨{ wInsDev 0 [] with deliveries := [e] }, []⟩
def wTwice : State :=
  ⟨{ (wInsDev 0 []).modCcr 0 (fun cc => { cc with flags := 0x20 }) with deliveries := [{ core := 0, flag := 5, tag := 3, unit := 0x1001, isEvsend := true }] }, []⟩

def wScrub : State := ⟨{ wDev with bt := { wDev.bt with beat := 0x4000 } }, []⟩
def wWeak : State :=
  ⟨({ wFw with bt := { wFw.bt with beat := 5 } }).modStk 3 (fun t => { t with weakRows := List.replicate 4 (7, 5) }), []⟩
def wWiping : State :=
  ⟨{ wFw with pwr := { wFw.pwr with phase := .wipe }, mem := { bytes := [(0x40, 1), (0x80000040, 2)], poison := [0x2000001] } }, []⟩
/-- The host's machine in MANUFACTURE, stack 2 with a bank of the upper die without spare rows, and its spare banks used there. -/
def wMaking : State :=
  ⟨({ wHost with sec := { wHost.sec with lcFuses := List.replicate 3 (false, false) } }).modStk 2 (fun t => { t with fusedRows := [(134, 64)], spareBanksHi := 8 }), []⟩
def wJobReq (op : Nat) (p : List Byte) : Req := { chan := 0, msg := wMessage op p, place := .executing }
/-- A machine with one wipe under way in stack 1, for a request that is executing. -/
def wJob (w : WipeFor) (op : Nat) (p : List Byte) : State :=
  ⟨{ wHost with wipes := [⟨w, [⟨0x80000000, 0x100⟩]⟩], reqs := [wJobReq op p], mem := { bytes := [(0x80000040, 2)] }
                sec := { wHost.sec with releasing := [3], tenancies := wHost.sec.tenancies.set 2 (some { ranges := [⟨0x80000000, 0x100⟩], cores := [] }) } }, []⟩
def wMatRes : MatRes := { codes := [0x3F800000, 0, 0, 0x3F800000] }
def wSolveJob : SolveJob :=
  { core := 0, handle := 1, idx := 0, tag := 7, step := 0, kind := 1, n := 2, batch := 1, src := 0x100000, dst := 0x110000
    deadlineOff := 0, rangeAddr := 0x100400, submitted := true, range := List.replicate 32 0xFF, room := 64, inputs := [(false, [])], mats := [{ engine := some 2 }] }
def wSolver (j : SolveJob) : State :=
  let d := wPlanDev .running
  ⟨{ d with solves := [j], slv := d.slv.set 2 { queue := [(⟨0, 1, 0⟩, 0)] } }, []⟩
def wSolving : State := wSolver wSolveJob
def wSolved : SolveJob := { wSolveJob with mats := [{ engine := some 2, result := some wMatRes }] }
def wUnsolved : SolveJob := wSolveJob

def wRec (ph : RecPhase) : Recovery :=
  { site := 0, core := some 0, cause := .check, phase := ph, fail := 0, spare := if ph == .detected then none else some 3 }
/-- The running plan's site 0 in a recovery, site 3 in a state. -/
def wRecovering (r : Recovery) (st : SiteState) : State :=
  let d := ((wReady.dev.setSiteState 0 .recovering).setSiteState 3 st)
  ⟨{ d with health := { d.health with recoveries := [r] }, mem := { bytes := [(0x2000000002, 9)] } }, []⟩
def wNoSpare : State :=
  let s := wRecovering (wRec .detected) .fenced
  ⟨{ s.dev with health := { s.dev.health with siteStates := (List.replicate 80 SiteState.fenced).set 0 .recovering } }, []⟩
/-- A swap of site 0 for its test, no held site being left. -/
def wSwapRec : Recovery := { wRec .detected with cause := .swap }
def wNoSwap : State := let d := wNoSpare.dev; ⟨{ d with health := { d.health with recoveries := [wSwapRec] } }, []⟩
def wMovedPlan : Plan := { wInsPlan with pastSites := [[]] }
def wMovedOn : State :=
  let d := (wRecovering (wRec .inService) .recovering).dev.modCq 0 (fun q => { q with run := none })
  ⟨{ d with plans := [wMovedPlan] }, []⟩
def wInPlaceRec : Recovery := { site := 0, core := some 0, spare := some 0, cause := .inPlace, phase := .inService, fail := 0 }
def wInPlace : State := let d := wReady.dev; ⟨{ d with health := { d.health with recoveries := [wInPlaceRec] } }, []⟩
def wTwiceRun : RunChunk := { wChunkRun with inPlace := 1 }
def wTwiceInPlace : State := ⟨wReady.dev.modCq 0 (fun q => { q with run := some wTwiceRun }), []⟩
def wTwiceCtx : Ctx := { wInsCtx with rc := wTwiceRun }
def wOverdue (st : SiteState) : State :=
  let d := (wReady.dev).modCq 0 (fun q => { q with run := none, pend := [] })
  ⟨{ d with bt := { d.bt with beat := 36000000001 }, health := { d.health with siteStates := (List.replicate 80 st).set 0 .inService } }, []⟩
def wStuckFlight : Flight := { idx := 0, bytes := wMmaCmd, ended := false, idle := 32 }
def wStuckUnit : State := ⟨(wInsDev 0 []).modCq 0 (fun q => { q with flights := [wStuckFlight] }), []⟩
def wStuckNum : Fin 9 := 1
def wDogRun (k hits : Nat) : RunChunk := { wChunkRun with wdog := k, wdogHits := hits }
def wDog (k hits : Nat) : State := ⟨(wInsDev 0 []).modCq 0 (fun q => { q with run := some (wDogRun k hits) }), []⟩
def wDogCtx (k hits : Nat) : Ctx := { wInsCtx with rc := wDogRun k hits }
def wDirty : State := ⟨{ wHost with health := { wHost.health with craterDirty := true, crater := [⟨0x1007, 1, 0, 1, 5⟩] } }, []⟩
def wTestRun (prior : Option SiteState) : TestRun := { site := 8, id := 1, start := some 1000, prior := prior }
def wTest (prior : Option SiteState) : State :=
  let d := wHost.setSiteState 8 .underTest
  ⟨{ d with bt := { d.bt with beat := 23000 }, health := { d.health with tests := [wTestRun prior] } }, []⟩
def wServingTest : State := ⟨(wTest none).dev.setSiteState 8 .inService, []⟩
/-- A shared region, number 2, read by the running plan. -/
def wShared : SharedRegion := ⟨0x100000, 0x100000, 0⟩
def wSharedPlan : Plan := { wInsPlan with img := { wInsPlan.img with layout := { wInsPlan.img.layout with sharedRead := 4 } } }
def wSharing (hs : List Heal) (inbox : List (Nat × Flit)) (poison : List Nat) (beat : BitVec 52) : State :=
  let s := wPair (fun l => { l with inbox := inbox })
  let d := s.dev
  ⟨{ d with
     health := { d.health with heals := hs, sharedPeer := 0x1000 }, shared := d.shared.set 2 (some wShared), plans := [wSharedPlan]
     mem := { bytes := [(0x100003, 5)], poison := poison }, bt := { d.bt with beat := beat } }, []⟩
def wHealAsk : State := wSharing [{ word := 0x4000 }] [] [0x4000] 9
def wHealReqFlit : Flit := { type := 4, src := 0x1000, body := .healReq 0x4000 2 0x100000 }
def wHealIn (f : Flit) (poison : List Nat) : State := wSharing [] [(0, f)] poison 9
def wHealAnsFlit : Flit := { type := 4, src := 0x1000, body := .healAns 0x4000 (some (List.replicate 64 7)) }
def wHealed : State := wSharing [{ word := 0x4000, asked := some 0 }] [(0, wHealAnsFlit)] [0x4000] 9
def wHealLate : State := wSharing [{ word := 0x4000, asked := some 0 }] [] [0x4000] 30000001
def wPoisonedStack (n : Nat) : State := ⟨(wInsDev 0 []).modStk 0 (fun t => { t with poisonBeats := List.replicate n 3000 }), []⟩

def wHostSt : State := ⟨wHost, []⟩
def wStageEnt : StageEnt := ⟨0x20, none, 0, List.replicate 32 6, 0⟩
def wStaged : State :=
  let s := wPort2 2 []
  ⟨{ s.dev with trc := { s.dev.trc with staged := [wStageEnt] }, bt := { s.dev.bt with beat := 100000 } }, []⟩
def wLost : State := ⟨{ wHost with trc := { wHost.trc with lostRun := some (3, 0x1000, 0x5000) } }, []⟩
def wTracing : State := ⟨{ wHost with trc := { wHost.trc with en := true } }, []⟩
def wNetwork : State := ⟨{ wHost with jtag := { wHost.jtag with ir := 0x10 }, sec := { wHost.sec with debug := true } }, []⟩
def wNetworkRun : State := ⟨{ wInsDev 0 [] with jtag := wNetwork.dev.jtag, sec := wNetwork.dev.sec }, []⟩
def wAccess (a : MgtAccess) : State := ⟨{ wFw with mgt := { wFw.mgt with access := some a } }, []⟩
def wAnswered : State := wChan 7 (fun x => { x with responses := [[1, 2, 3]], outstanding := 1 })
def wLatchRec : Rec := { cls := 5 }
def wLatched : State := ⟨wFw.modHealth (fun h => { h with latch := [wLatchRec] }), []⟩
def wFlaggedErr : State := ⟨{ wHost with devErr := { val := 7 } }, []⟩

/-! ### Ill-formed commands, each refused by the check that it breaks, beside the nearest well-formed one -/

theorem test_smoke_request_window :
    (Instr.requestWindowWrite 0 0 4095 [1]).wf = true ∧ (Instr.requestWindowWrite 0 0 4095 [1, 2]).wf = false ∧
    (Instr.requestWindowWrite 0 0 0 []).wf = false := by decide

theorem test_smoke_command_slot :
    (Instr.commandSlotWrite 0 0 65535 [1]).wf = true ∧ (Instr.commandSlotWrite 0 0 65535 [1, 2]).wf = false := by decide

theorem test_smoke_wipe : (Instr.memoryWipe 0 [3, 4]).wf = true ∧ (Instr.memoryWipe 0 [3, 3]).wf = false := by decide

theorem test_smoke_flit :
    (Instr.flitReceive 0 true true true [8] { type := 15, body := .data [1] }).wf = true ∧
    (Instr.flitReceive 0 true true true [9] { type := 15, body := .data [1] }).wf = false ∧
    (Instr.flitReceive 0 true true true [] { type := 16, body := .idle }).wf = false ∧
    (Instr.flitReceive 0 true true true [] { type := 1, body := .data (List.replicate 241 0) }).wf = false ∧
    (Instr.flitReceive 0 true true true [] { type := 4, body := .portNotice 24 }).wf = false ∧
    (Instr.flitReceive 0 true true true []
      { type := 3, body := .contribution 0 0 ⟨0, 0, 0, 0, 0, 0, 0, 0⟩ 0 61 (List.replicate 61 (.f32 0)) [] }).wf = false ∧
    (Instr.flitReceive 0 true true true [] { type := 3, body := .result 0 0 300 0 (List.replicate 241 0) }).wf = false := by decide

theorem test_smoke_training :
    (Instr.trainingDone (List.replicate 23 ⟨true, [], true, 0, 0, 0, 0, 0, 0, 0, []⟩)).wf = false ∧
    (Instr.trainingDone (List.replicate 24 ⟨true, [], true, 0, 0, 0, 0, 0, 0, 0, []⟩)).wf = true ∧
    (Instr.portRetrain 0 ⟨true, [2, 2], true, 0, 0, 0, 0, 0, 0, 0, []⟩).wf = false ∧
    (Instr.portRetrain 0 ⟨true, [2], true, 0, 0, 0, 0, 0, 0, 0, [4, 4]⟩).wf = false := by decide

theorem test_smoke_stream_frame : (Instr.streamFrameReceive 0 []).wf = false ∧ (Instr.streamFrameReceive 0 [1]).wf = true := by decide

theorem test_smoke_test_result :
    (Instr.testDone 0 (.lanes [])).wf = false ∧ (Instr.testDone 0 (.lanes [5, 5])).wf = false ∧ (Instr.testDone 0 (.lanes [5])).wf = true := by
  decide

theorem test_smoke_instrument :
    (Instr.ijtagAccess (.scratch 0 8388607 2)).wf = false ∧ (Instr.ijtagAccess (.scratch 0 8388607 1)).wf = true ∧
    (Instr.ijtagAccess (.scratch 0 0 0)).wf = false := by decide

theorem test_smoke_firmware : (Instr.firmwareAuth [1, 1]).wf = false ∧ (Instr.firmwareAuth [0, 1]).wf = true := by decide

theorem test_smoke_register_write :
    (Instr.registerWrite (.space false 0xFFFFFFFF) [1, 2]).wf = false ∧ (Instr.registerWrite (.page 0 0 0x3FFF) [1, 2]).wf = false ∧
    (Instr.registerWrite (.queue 0 0 0x1FFFF) [1, 2]).wf = false ∧ (Instr.registerWrite (.msixTable 0 4095) [1, 2]).wf = false ∧
    (Instr.registerWrite .vfEnable [1]).wf = false ∧ (Instr.registerWrite .vfEnable []).wf = true := by decide

theorem test_smoke_channel_seven : (Instr.ch7Write 0 2 [1] 40).wf = false ∧ (Instr.ch7Write 0 1 [1] 40).wf = true := by decide

theorem test_smoke_status : (Instr.status 0x10 8).wf = false ∧ (Instr.status 0x7F 8).wf = true ∧ (Instr.status 0 8).wf = true := by decide

theorem test_smoke_reset :
    (Instr.warmReset false ⟨⟨0, 0, 0⟩, [(false, [1])]⟩).wf = false ∧ (Instr.warmReset true ⟨⟨0, 0, 0⟩, [(false, [1])]⟩).wf = true ∧
    (Instr.domainRampDone ⟨80, false⟩).wf = false ∧ (Instr.domainRampDone ⟨79, false⟩).wf = true := by decide

theorem test_smoke_sample :
    (Instr.sensorSample ⟨List.replicate 63 0, List.replicate 4 (0, 0), 0, 0⟩).wf = false ∧
    (Instr.sensorSample ⟨List.replicate 64 0, List.replicate 4 (0, 0), 0, 0⟩).wf = true := by decide

/-! ### Values that the spec states -/

/-- The fraction of a beat is floor(4096 c / 150) in core cycle c (R43); the last cycle shows 4068. -/
theorem test_last_cycle_fraction :
    Dev.now { bt := { beat := 2, cyc := 149 } } = 2 * 4096 + 4068 := by decide

/-- A counter that saturates stays at its largest value (files 02 and 25). -/
theorem test_saturation : satInc (0xFFFFFFFF : BitVec 32) = 0xFFFFFFFF ∧ satAdd (0xFFFFFFF0 : BitVec 32) 14 = 0xFFFFFFFE := by decide

/-- Words are stored with the least significant byte first (R16). -/
theorem test_little_endian : bytesLE 4 0x0A0B0C0D = [0x0D, 0x0C, 0x0B, 0x0A] ∧ leNat [0x0D, 0x0C, 0x0B, 0x0A] = 0x0A0B0C0D := by decide

/-- A step from reset with nothing placed leaves the machine as it is: no clock runs before the control part is up (R41, R438). -/
theorem test_reset_idle : step State.reset = .next State.reset := by rfl

/-- A step takes the front command and leaves the rest of the queue in its order. -/
theorem test_queue_order :
    ∃ t, step { State.reset with pending := [.vinRise, .vauxLoss, .vinRise] } = .next t ∧ t.pending = [.vauxLoss, .vinRise] ∧
      t.dev.pwr.vinOk = true := ⟨_, rfl, by rfl, by rfl⟩

theorem test_idle_clock :
    (wUp.dev.pwr.ctlUp = true ∧ wUp.dev.bt.locked = true ∧ wUp.dev.bt.cyc.val ≠ 149) ∧
    (wLastCycle.dev.pwr.ctlUp = true ∧ wLastCycle.dev.bt.locked = true ∧ wLastCycle.dev.bt.cyc.val = 149 ∧
      wLastCycle.dev.bt.beat + 1 = 0) ∧
    (State.reset.pending = [] ∧ State.reset.dev.pwr.ctlUp = false) := by decide

/-- The hypotheses of `Obligations.BeatInputAndLockComplete` hold together, clause by clause. -/
theorem test_hypotheses_BeatInputAndLockComplete :
    ((fun (s : State) => s.dev.pwr.ctlUp = true ∧ s.dev.pwr.sysRst = false ∧ s.dev.bt.beatInEn = true ∧ s.dev.bt.beatInQualified = false) wUp) ∧
    ((fun (s : State) => s.dev.bt.beatInQualified = true) wQualified) ∧
    ((fun (s : State) => s.dev.pwr.ctlUp = true ∧ s.dev.pwr.sysRst = false ∧ s.dev.bt.locked = false ∧ s.dev.pwr.phase = .reset) wUnlocked) := by
  refine ⟨?_, ?_, ?_⟩ <;> decide

/-- The hypotheses of `Obligations.MarkersSteerTheFollower` hold together, clause by clause. -/
theorem test_hypotheses_MarkersSteerTheFollower :
    ((fun (s : State) => s.dev.bt.elect = .master ∧ s.dev.bt.markInterval.toNat ≤ s.dev.since s.dev.bt.markSentBeat) wMaster) ∧
    ((fun (s : State) (port : Fin 24) (m : Marker) => s.dev.bt.markerIn.getD port.val none = some m ∧ s.dev.bt.linkMarkEn = true ∧ s.dev.bt.locked = true ∧ s.dev.bt.elect = .follower ∧ (s.dev.port port.val).state = .up ∧ s.dev.bt.portHop = List.replicate 24 none ∧ s.dev.bt.countValid = false) wMarker 7 wMark) ∧
    ((fun (s : State) (port : Fin 24) (m : Marker) => s.dev.bt.markerIn.getD port.val none = some m ∧ s.dev.bt.linkMarkEn = true ∧ s.dev.bt.locked = true ∧ s.dev.bt.elect = .follower ∧ s.dev.bt.settled = true ∧ (s.dev.port port.val).state = .up ∧ s.dev.bt.portHop = List.replicate 24 none ∧ s.dev.bt.countValid = true ∧ s.dev.bt.holdover = false ∧ s.dev.bt.stepBy = none) wCounted 7 wMark) ∧
    ((fun (s : State) (off : BitVec 64) => s.dev.bt.stepBy = some off ∧ (∀ p ∈ s.dev.plans, p.state ≠ .running)) wFarOff 0xFFFFFFFFFFF00000) ∧
    ((fun (s : State) => s.dev.bt.slewing = true ∧ s.dev.bt.slewRest.natAbs < 409600) wSlewing) := by
  refine ⟨?_, ?_, ?_, ?_, ?_⟩ <;> decide

/-- The hypotheses of `Obligations.HoldoverPausesPlans` hold together, clause by clause. -/
theorem test_hypotheses_HoldoverPausesPlans :
    ((fun (s : State) => s.dev.bt.elect = .follower ∧ s.dev.bt.conflict = false ∧ s.dev.bt.holdover = false ∧ 3 * s.dev.bt.followInterval.toNat ≤ s.dev.since s.dev.bt.lastMarkBeat) wNoMarker) ∧
    ((fun (s : State) => s.dev.bt.holdover = true ∧ 100000 ≤ s.dev.bt.holdoverBeats.toNat) wLongHoldover) := by
  refine ⟨?_, ?_⟩ <;> decide

/-- The hypotheses of `Obligations.ElectionTakesTheLowestKey` hold together, clause by clause. -/
theorem test_hypotheses_ElectionTakesTheLowestKey :
    ((fun (s : State) (p : Nat) (f : Flit) (rest : List (Nat × Flit)) (c l : Claim) => s.dev.lnk.inbox = (p, f) :: rest ∧ f.body = .claim c ∧ c.origin ≠ ownUid ∧ c.key.toNat < s.dev.ownKey.toNat ∧ s.dev.bt.elect = .claiming ∧ s.dev.bt.settled = false ∧ s.dev.bt.lowest = some l ∧ c.key.toNat < l.key.toNat) wClaiming 3 wClaimFlit [] wLowClaim wClaiming.dev.ownClaim) ∧
    ((fun (s : State) (p : Nat) (f : Flit) (rest : List (Nat × Flit)) (c : Claim) => s.dev.lnk.inbox = (p, f) :: rest ∧ f.body = .claim c ∧ c.origin ≠ ownUid ∧ c.key = s.dev.ownKey ∧ s.dev.bt.conflict = false) wTwin 3 wTwinFlit [] wTwinClaim) ∧
    ((fun (s : State) => s.dev.bt.settled = false ∧ s.dev.bt.elect = .claiming ∧ 1024 ≤ s.dev.since s.dev.bt.claimBeat ∧ s.dev.bt.claims = true ∧ s.dev.pwr.phase = .elect) wWinner) ∧
    ((fun (s : State) (l : Claim) => s.dev.bt.settled = false ∧ s.dev.bt.elect = .claiming ∧ 1024 ≤ s.dev.since s.dev.bt.claimBeat ∧ s.dev.bt.claims = false ∧ s.dev.bt.conflict = false ∧ s.dev.bt.lowest = some l) wLoser wLowClaim) := by
  exact ⟨⟨rfl, rfl, test_other_uid, by decide, rfl, rfl, rfl, by decide⟩, ⟨rfl, rfl, test_other_uid, rfl, rfl⟩, by decide, ⟨rfl, rfl, by decide, rfl, rfl, rfl⟩⟩

/-- The hypotheses of `Obligations.SuppliesStartAndStopTheDevice` hold together, clause by clause. -/
theorem test_hypotheses_SuppliesStartAndStopTheDevice :
    ((fun (s : State) => s.dev.pwr.vinOk = false ∧ s.dev.pwr.vauxOk = true ∧ s.dev.pwr.mustFall = false) wNoVin) ∧
    ((fun (s : State) (high : Bool) => s.dev.pwr.vinOk = true ∧ s.dev.pwr.ctlUp = true ∧ s.dev.pwr.sysRst = false ∧ s.dev.pwr.events.val = 0) wUp true) ∧
    ((fun (s : State) => s.dev.pwr.vinOk = true ∧ s.dev.pwr.pdOk ≠ 0 ∧ s.dev.health.latch.length < 16) wUp) ∧
    ((fun (s : State) => s.dev.pwr.vinOk = true ∧ s.dev.pwr.pdOk ≠ 0 ∧ s.dev.health.latch.length < 16) wUp) ∧
    ((fun (s : State) (die : Fin 4) => s.dev.pwr.pdOk.getLsbD die.val = true ∧ s.dev.health.latch.length < 16) wUp 3) ∧
    ((fun (s : State) => s.dev.pwr.vauxOk = true) wUp) ∧
    ((fun (s : State) => s.dev.pwr.vauxOk = true ∧ s.dev.pwr.thermtrip = false ∧ s.dev.health.latch.length < 16) wUp) := by
  refine ⟨?_, ?_, ?_, ?_, ?_, ?_, ?_⟩ <;> decide

/-- The hypotheses of `Obligations.DomainsRampAndSensorsReport` hold together, clause by clause. -/
theorem test_hypotheses_DomainsRampAndSensorsReport :
    ((fun (s : State) (k : Fin 171) (cause : Nat) (b : BitVec 52) => s.dev.pwr.ramps = [(k.val, cause, b)] ∧ s.dev.pwr.waitDown = [] ∧ s.dev.pwr.doms.length = 171) wRamp 165 3 0) ∧
    ((fun (s : State) (k : Fin 171) => s.dev.pwr.ramps.any (fun e => e.1 == k.val) = true ∧ k.val < 80 ∧ s.dev.runs 2 = false) wRampNoHlp 79) ∧
    ((fun (s : State) (k : Fin 171) (cause : Nat) (b : BitVec 52) => s.dev.pwr.ramps = [(k.val, cause, b)] ∧ 800 ≤ s.dev.since b) wRampLong 165 3 0) ∧
    ((fun (s : State) (path : RegPath) (k : BitVec 8) => s.dev.pathOpen path = true ∧ 165 ≤ k.toNat ∧ k.toNat < 169 ∧ (s.dev.slv.getD (k.toNat - 165) {}).inService = true ∧ s.dev.dom k.toNat = .off ∧ s.dev.pwr.ctlUp = true ∧ s.dev.pwr.waitUp = []) wOffSolver .pf0 165) ∧
    ((fun (s : State) (path : RegPath) (k : BitVec 8) => s.dev.pathOpen path = true ∧ 165 ≤ k.toNat ∧ k.toNat < 169 ∧ s.dev.anyArmed = false ∧ s.dev.dom k.toNat = .on ∧ s.dev.pwr.ctlUp = true ∧ s.dev.pwr.doms.length = 171) wOnSolver .spi 168) ∧
    ((fun (s : State) (path : RegPath) (k : BitVec 8) => s.dev.pathOpen path = true ∧ s.dev.pwr.ctlUp = true ∧ 169 ≤ k.toNat) wOnSolver .jtag 169) ∧
    ((fun (s : State) (x : Sample) => s.dev.pwr.vauxOk = true ∧ s.dev.pwr.thermtrip = false ∧ x.dies.any (fun t => decide ((1150 : Int) ≤ t.toInt)) = true ∧ s.dev.health.latch.length < 16) wUp wHotSample) ∧
    ((fun (s : State) (x : Sample) => s.dev.pwr.vauxOk = true ∧ s.dev.pwr.ctlUp = true ∧ s.dev.pwr.sysRst = false ∧ x.dies.any (fun t => decide ((1150 : Int) ≤ t.toInt)) = false) wUp wSample) := by
  refine ⟨?_, ?_, ?_, ?_, ?_, ?_, ?_, ?_⟩ <;> decide

/-- The hypotheses of `Obligations.ResetsClearAndKeep` hold together, clause by clause. -/
theorem test_hypotheses_ResetsClearAndKeep :
    ((fun (s : State) (x : StrapSamples) => s.dev.pwr.vauxOk = false) wNoVaux ⟨0x35, 0x35, 0⟩) ∧
    ((fun (s : State) => s.dev.pwr.ctlUp = false ∧ s.dev.pwr.vauxOk = true ∧ s.dev.pwr.vinOk = true ∧ s.dev.pwr.pdOk = 0xF) wPowered) ∧
    ((fun (s : State) (x : StrapSamples) (fl : List (Bool × List Byte)) => s.dev.pwr.vauxOk = true ∧ s.dev.pwr.sysRst = false ∧ s.dev.pwr.ctlUp = true) wUp ⟨0, 0, 0⟩ []) ∧
    ((fun (s : State) (x : StrapSamples) (fl : List (Bool × List Byte)) => s.dev.pwr.vauxOk = true ∧ s.dev.pwr.sysRst = true ∧ s.dev.pwr.again = false) wInReset ⟨0x7F, 0x70, 0⟩ [(true, [])]) ∧
    ((fun (s : State) => s.dev.pwr.ctlUp = true ∧ s.dev.pwr.sysRst = false) wUp) ∧
    ((fun (s : State) => s.dev.pwr.ctlUp = true ∧ s.dev.pwr.sysRst = false) wUp) ∧
    ((fun (s : State) (func : Fin 5) => s.dev.pwr.pcieUp = true ∧ s.dev.chans.length = 8) wPcie 4) ∧
    ((fun (s : State) => s.dev.pwr.pcieUp = true ∧ s.dev.sec.vfEnable = true) wPcie) := by
  refine ⟨?_, ?_, ?_, ?_, ?_, ?_, ?_, ?_⟩ <;> decide

/-- The hypotheses of `Obligations.BootComesFromTheFlash` hold together, clause by clause. -/
theorem test_hypotheses_BootComesFromTheFlash :
    ((fun (s : State) => s.dev.pwr.phase = .auth ∧ s.dev.pwr.ctlUp = true ∧ s.dev.pwr.sysRst = false ∧ s.dev.sec.passes (if s.dev.sec.bootBank then s.dev.sec.bank1 else s.dev.sec.bank0) = true) wAuth) ∧
    ((fun (s : State) (bad : List (Fin 8)) => s.dev.pwr.phase = .auth ∧ s.dev.pwr.ctlUp = true ∧ s.dev.pwr.sysRst = false ∧ s.dev.sec.passes s.dev.sec.bank0 = false ∧ s.dev.sec.passes s.dev.sec.bank1 = false ∧ s.dev.health.latch.length < 16 ∧ s.dev.fwp.length = 5) wBadBanks [0]) ∧
    ((fun (s : State) (path : RegPath) => s.dev.pathOpen path = true ∧ s.dev.pwr.phase = .waitCfg ∧ s.dev.pwr.ctlUp = true) wWaitCfg .pf0) ∧
    ((fun (s : State) (found : List TrainIn) => s.dev.pwr.phase = .links ∧ s.dev.runs 4 = true ∧ s.dev.bt.conflict = false ∧ (∀ p : Fin 24, (s.dev.port p.val).state = .training → s.dev.domUp (128 + p.val) = true)) wTraining []) ∧
    ((fun (s : State) (i : Fin 5) => s.dev.runs i.val = true ∧ i.val ≠ 3) wRuns 4) ∧
    ((fun (s : State) => s.dev.runs 3 = true) wRuns) ∧
    ((fun (s : State) (i : Fin 5) => (s.dev.fw i.val).state = .restarting) wRestarting 0) := by
  refine ⟨?_, ?_, ?_, ?_, ?_, ?_, ?_⟩ <;> decide

/-- The hypotheses of `Obligations.MailboxTakesAndCopiesRequests` hold together, clause by clause. -/
theorem test_hypotheses_MailboxTakesAndCopiesRequests :
    ((fun (s : State) (func : Fin 5) (ch : Fin 8) (off : Fin 4096) (data : List Byte) => s.dev.canUse func.val ch.val = true ∧ (s.dev.chan ch.val).winFree = true) wPcie 0 6 4095 [1]) ∧
    ((fun (s : State) (func : Fin 5) (ch : Fin 8) => s.dev.canUse func.val ch.val = true ∧ ch.val ≠ 5 ∧ (s.dev.chan ch.val).resetBusy = false ∧ (s.dev.chan ch.val).winFree = true ∧ (s.dev.chan ch.val).outstanding < 64) (wChan 2 (fun x => { x with outstanding := 63 })) 2 2) ∧
    ((fun (s : State) (func : Fin 5) (ch : Fin 8) => s.dev.canUse func.val ch.val = true ∧ ch.val ≠ 5 ∧ (s.dev.chan ch.val).resetBusy = false ∧ (s.dev.chan ch.val).winFree = true ∧ 64 ≤ (s.dev.chan ch.val).outstanding) (wChan 2 (fun x => { x with outstanding := 64 })) 2 2) ∧
    ((fun (s : State) (ch : Fin 8) => (s.dev.chan ch.val).winFree = false) (wChan 4 (fun x => { x with winFree := false })) 4) ∧
    ((fun (s : State) (func : Fin 5) (ch : Fin 8) => s.dev.canUse func.val ch.val = true ∧ ch.val < s.dev.chans.length) wPcie 0 5) ∧
    ((fun (s : State) (ch : Fin 8) => (s.dev.chan ch.val).resetBusy = true ∧ (∀ r ∈ s.dev.reqs, r.chan = ch.val → r.discard = false) ∧ (∀ r ∈ s.dev.dones, r.chan = ch.val → r.discard = false)) (wChan 7 (fun x => { x with resetBusy := true })) 7) := by
  refine ⟨?_, ?_, ?_, ?_, ?_, ?_⟩ <;> decide

/-- The hypotheses of `Obligations.RequestsAreCheckedAndAnswered` hold together, clause by clause. -/
theorem test_hypotheses_RequestsAreCheckedAndAnswered :
    ((fun (s : State) (c : Fin 8) (m : List Byte) (rest : List (List Byte)) => s.dev.runs 0 = true ∧ (mCritical m && (!s.dev.runs 3 || !s.dev.ringRoom 0 3)) = false ∧ (s.dev.chan c.val).copied = m :: rest ∧ (∀ x : Fin 8, x ≠ c → (s.dev.chan x.val).copied = []) ∧ s.dev.verdict c.val m = .accept) wCopied 0 wInfo []) ∧
    ((fun (s : State) (c : Fin 8) (m : List Byte) (rest : List (List Byte)) (st : Nat) => s.dev.runs 0 = true ∧ (mCritical m && (!s.dev.runs 3 || !s.dev.ringRoom 0 3)) = false ∧ (s.dev.chan c.val).copied = m :: rest ∧ (∀ x : Fin 8, x ≠ c → (s.dev.chan x.val).copied = []) ∧ s.dev.verdict c.val m = .reject st) wCopiedBad 0 [2] [] sBadField) ∧
    ((fun (s : State) (c : Fin 8) (m k : List Byte) (rest : List (List Byte)) => s.dev.runs 0 = true ∧ (mCritical m && (!s.dev.runs 3 || !s.dev.ringRoom 0 3)) = false ∧ (s.dev.chan c.val).copied = m :: rest ∧ (∀ x : Fin 8, x ≠ c → (s.dev.chan x.val).copied = []) ∧ s.dev.verdict c.val m = .duplicate ∧ (s.dev.chan c.val).keptResp = some k) wCopiedDup 0 wInfo wKept []) ∧
    ((fun (s : State) (c : Fin 8) (m : List Byte) (rest : List (List Byte)) (r : Done) => s.dev.runs 0 = true ∧ (mCritical m && (!s.dev.runs 3 || !s.dev.ringRoom 0 3)) = false ∧ (s.dev.chan c.val).copied = m :: rest ∧ (∀ x : Fin 8, x ≠ c → (s.dev.chan x.val).copied = []) ∧ s.dev.verdict c.val m = .duplicate ∧ (s.dev.chan c.val).keptResp = none ∧ r ∈ s.dev.dones ∧ r.chan = c.val ∧ r.discard = false ∧ r.payload.isSome = true ∧ sameRequest r.msg m = true) wCopiedSoon 0 wInfo [] wDone) ∧
    ((fun (s : State) (r : Req) (rest : List Req) => s.dev.runs 0 = true ∧ s.dev.reqs = r :: rest ∧ s.dev.mayPass [] r = true) wAtHp wInfoReq []) ∧
    ((fun (s : State) (r : Done) (rest : List Done) => s.dev.runs 0 = true ∧ (mCritical r.msg && r.payload.isSome && !s.dev.runs 3) = false ∧ s.dev.dones = r :: rest ∧ r.discard = false ∧ r.chan < s.dev.chans.length) wDue wDone []) ∧
    ((fun (s : State) (func : Fin 5) (ch : Fin 8) (x : List Byte) (rest : List (List Byte)) => s.dev.canUse func.val ch.val = true ∧ (s.dev.chan ch.val).responses = x :: rest ∧ (s.dev.chan ch.val).refusedNow = none) (wChan 0 (fun x => { x with responses := [[7]], outstanding := 1 })) 0 0 [7] []) ∧
    ((fun (s : State) (func : Fin 5) (ch : Fin 8) (x : List Byte) (rest : List (List Byte)) (n : BitVec 32) (e : Sticky 4) => s.dev.canUse func.val ch.val = true ∧ (s.dev.chan ch.val).responses = x :: rest ∧ (s.dev.chan ch.val).refusedNow = some (1, n, e)) (wChan 0 (fun x => { x with responses := [[7]], outstanding := 64, refused := 1, refusedNow := some (1, 0, {}) })) 0 0 [7] [] 0 {}) ∧
    ((fun (s : State) => (s.dev.chan 5).evtOverflow = true ∧ (s.dev.chan 5).responses.length < 256 ∧ (s.dev.fw 2).state = .running) (wChan 5 (fun x => { x with evtOverflow := true, lostNow := 3 }))) := by
  refine ⟨?_, ?_, ?_, ?_, ?_, ?_, ?_, ?_, ?_⟩ <;> decide

theorem test_executed_witness :
    0x0300 < 65536 ∧ ({ chan := 0, msg := wInfo, status := 0x0300, payload := some (resultPayload 0x0300 [1]) } : Done) ∈ executed wInfoReq 0x0300 [1] ∧
      wDone.chan < wUp.dev.chans.length ∧ 1 ≤ wInfo.length := by decide

theorem test_badLength_witness : (.planArm, 0x0201) ∈ chekorMessages ∧
    (fun (s : State) (r : Req) => s.dev.atOwner r.owner = some r ∧ r.op = 0x0201 ∧ r.place = .owner ∧ s.dev.runs r.owner = true ∧ s.dev.ringRoom r.owner 0 = true ∧
      lengthOk 0x0201 (mPayload r.msg) = false) (wAsk 0x0201 0 [1] wFw) (wReq 0x0201 0 [1]) := by decide

/-- The hypotheses of `Obligations.DeviceMessagesReport` hold together, clause by clause. -/
theorem test_hypotheses_DeviceMessagesReport :
    ((fun (s : State) (r : Req) => s.dev.awaits 0x0100 r) (wAsk 0x0100 0 [] wHost) (wReq 0x0100 0 [])) ∧
    ((fun (s : State) (r : Req) => s.dev.awaits 0x0307 r) (wAsk 0x0307 0 [] wHost) (wReq 0x0307 0 [])) ∧
    ((fun (s : State) (r : Req) => s.dev.awaits 0x0500 r) (wAsk 0x0500 0 [] wHost) (wReq 0x0500 0 [])) ∧
    ((fun (s : State) (r : Req) => s.dev.awaits 0x0308 r ∧ r.chan = 0) (wAsk 0x0308 0 [] wHost) (wReq 0x0308 0 [])) := by
  refine ⟨?_, ?_, ?_, ?_⟩ <;> decide

/-- The hypotheses of `Obligations.SessionsOpenAndClose` hold together, clause by clause. -/
theorem test_hypotheses_SessionsOpenAndClose :
    ((fun (s : State) (r : Req) => s.dev.awaits 0x0101 r ∧ (s.dev.sec.slotKey r.chan).isSome = true ∧ r.chan < s.dev.chans.length ∧ (s.dev.chan r.chan).numbers.length < 2 ^ 31) (wAsk 0x0101 0 (List.replicate 16 9) wHost) (wReq 0x0101 0 (List.replicate 16 9))) ∧
    ((fun (s : State) (r : Req) => s.dev.awaits 0x0101 r ∧ s.dev.sec.slotKey r.chan = none) (wAsk 0x0101 3 (List.replicate 16 9) wHost) (wReq 0x0101 3 (List.replicate 16 9))) ∧
    ((fun (s : State) (r : Req) => s.dev.awaits 0x0102 r) (wAsk 0x0102 0 [] wHost) (wReq 0x0102 0 [])) := by
  refine ⟨?_, ?_, ?_⟩ <;> decide

/-- The hypotheses of `Obligations.PlansAreAdmittedAndArmed` hold together, clause by clause. -/
theorem test_hypotheses_PlansAreAdmittedAndArmed :
    ((fun (s : State) (r : Req) (img : PlanImg) (margin : Nat) => s.dev.awaits 0x0200 r ∧ s.dev.pwr.phase = .ready ∧ fieldLE (mPayload r.msg) 8 4 ≠ 0 ∧ zeroBytes (mPayload r.msg) 12 4 = true ∧ s.dev.funcOwns r.func (fieldLE (mPayload r.msg) 0 8) (fieldLE (mPayload r.msg) 8 4) = true ∧ s.dev.sec.lcState ≠ 3 ∧ s.dev.wipeHolds (fieldLE (mPayload r.msg) 0 8) (fieldLE (mPayload r.msg) 8 4) = false ∧ (s.dev.plans.filter (fun q => q.live && q.func == r.func)).length < 2 ∧ s.dev.beatLost = false ∧ s.dev.bt.elect ≠ .conflict ∧ s.dev.admission r.func (fieldLE (mPayload r.msg) 0 8) (fieldLE (mPayload r.msg) 8 4) = .ok img margin) (wAsk 0x0200 0 wAdmitPayload wImageDev) (wReq 0x0200 0 wAdmitPayload) wImg 680) ∧
    ((fun (s : State) (r : Req) (reason n st : Nat) => s.dev.awaits 0x0200 r ∧ s.dev.pwr.phase = .ready ∧ fieldLE (mPayload r.msg) 8 4 ≠ 0 ∧ zeroBytes (mPayload r.msg) 12 4 = true ∧ s.dev.funcOwns r.func (fieldLE (mPayload r.msg) 0 8) (fieldLE (mPayload r.msg) 8 4) = true ∧ s.dev.sec.lcState ≠ 3 ∧ s.dev.wipeHolds (fieldLE (mPayload r.msg) 0 8) (fieldLE (mPayload r.msg) 8 4) = false ∧ (s.dev.plans.filter (fun q => q.live && q.func == r.func)).length < 2 ∧ s.dev.beatLost = false ∧ s.dev.bt.elect ≠ .conflict ∧ s.dev.admission r.func (fieldLE (mPayload r.msg) 0 8) (fieldLE (mPayload r.msg) 8 4) = .fail reason n st) (wAsk 0x0200 0 wAdmitPayload wHost) (wReq 0x0200 0 wAdmitPayload) 5 0 noStep) ∧
    ((fun (s : State) (r : Req) (q : Plan) => s.dev.awaits 0x0201 r ∧ s.dev.pwr.phase = .ready ∧ s.dev.planFor r (mPayload r.msg) = some q ∧ zeroBytes (mPayload r.msg) 2 6 = true ∧ beatOk r (fieldLE (mPayload r.msg) 8 8) = true ∧ q.state = .admitted ∧ q.retiring = none ∧ s.dev.bt.countValid = true ∧ s.dev.beatLost = false ∧ s.dev.bt.elect ≠ .conflict ∧ q.img.layout.ranges.any (fun r => s.dev.wipeHolds r.base r.len) = false) (wPlanAsk 0x0201 .admitted wBeatPayload) (wReq 0x0201 0 wBeatPayload) (wPlan .admitted)) := by
  refine ⟨?_, ?_, ?_⟩ <;> decide

/-- The hypotheses of `Obligations.PlansArePausedResumedRetiredAndShown` hold together, clause by clause. -/
theorem test_hypotheses_PlansArePausedResumedRetiredAndShown :
    ((fun (s : State) (r : Req) (q : Plan) => s.dev.awaits 0x0202 r ∧ s.dev.planFor r (mPayload r.msg) = some q ∧ zeroBytes (mPayload r.msg) 2 6 = true ∧ q.state = .armed ∧ q.retiring = none ∧ q.pauseAt = none) (wPlanAsk 0x0202 .armed wHandlePayload) (wReq 0x0202 0 wHandlePayload) (wPlan .armed)) ∧
    ((fun (s : State) (r : Req) (q : Plan) => s.dev.awaits 0x0202 r ∧ s.dev.planFor r (mPayload r.msg) = some q ∧ zeroBytes (mPayload r.msg) 2 6 = true ∧ q.state = .running ∧ q.retiring = none ∧ q.pauseAt = none ∧ s.dev.stepBegun q q.curStep = true ∧ q.curStep + 1 < q.nSteps) (wPlanAsk 0x0202 .running wHandlePayload) (wReq 0x0202 0 wHandlePayload) (wPlan .running)) ∧
    ((fun (s : State) (r : Req) (q : Plan) => s.dev.awaits 0x0203 r ∧ s.dev.pwr.phase = .ready ∧ s.dev.planFor r (mPayload r.msg) = some q ∧ zeroBytes (mPayload r.msg) 2 6 = true ∧ beatOk r (fieldLE (mPayload r.msg) 8 8) = true ∧ q.state = .paused ∧ q.resumeBeat = none ∧ q.retiring = none ∧ s.dev.beatLost = false) (wPlanAsk 0x0203 .paused wBeatPayload) (wReq 0x0203 0 wBeatPayload) (wPlan .paused)) ∧
    ((fun (s : State) (r : Req) (q : Plan) => s.dev.awaits 0x0207 r ∧ s.dev.planFor r (mPayload r.msg) = some q ∧ zeroBytes (mPayload r.msg) 2 6 = true ∧ beatOk r (fieldLE (mPayload r.msg) 8 8) = true ∧ q.state = .debugHeld ∧ q.resumeBeat = none ∧ q.retiring = none) (wPlanAsk 0x0207 .debugHeld wBeatPayload) (wReq 0x0207 0 wBeatPayload) (wPlan .debugHeld)) ∧
    ((fun (s : State) (r : Req) (q : Plan) => s.dev.awaits 0x0204 r ∧ s.dev.planFor r (mPayload r.msg) = some q ∧ zeroBytes (mPayload r.msg) 2 6 = true ∧ q.state ≠ .retired ∧ s.dev.sec.releasing = []) (wPlanAsk 0x0204 .armed wHandlePayload) (wReq 0x0204 0 wHandlePayload) (wPlan .armed)) ∧
    ((fun (s : State) (r : Req) (q : Plan) => s.dev.awaits 0x0205 r ∧ s.dev.planFor r (mPayload r.msg) = some q ∧ zeroBytes (mPayload r.msg) 2 6 = true) (wPlanAsk 0x0205 .running wHandlePayload) (wReq 0x0205 0 wHandlePayload) (wPlan .running)) ∧
    ((fun (s : State) (r : Req) (q : Plan) (base : BitVec 52) (n : Nat) (g : GroupEnt) => s.dev.awaits 0x0206 r ∧ s.dev.planFor r (mPayload r.msg) = some q ∧ q.state = .armed ∧ q.retiring = none ∧ r.plan0.getD (false, q.base) = (false, base) ∧ q.stepAt base (fieldLE (mPayload r.msg) 8 8) = some n ∧ fieldLE (mPayload r.msg) 2 2 = 1 ∧ 1000 ≤ beatDiff r.acceptBeat (BitVec.ofNat 52 (fieldLE (mPayload r.msg) 8 8)) ∧ zeroBytes (mPayload r.msg) 4 4 = true ∧ fieldLE (mPayload r.msg) 19 1 = 0 ∧ q.img.groups[fieldLE (mPayload r.msg) 16 2]? = some g ∧ fieldLE (mPayload r.msg) 18 1 < g.hists.length) (wPlanAsk 0x0206 .armed wSelectPayload) (wReq 0x0206 0 wSelectPayload) (wPlan .armed) 3000 1 wGroup) ∧
    ((fun (s : State) (r : Req) => s.dev.awaits 0x0205 r ∧ s.dev.planFor r (mPayload r.msg) = none) (wAsk 0x0205 0 wHandlePayload wHost) (wReq 0x0205 0 wHandlePayload)) := by
  refine ⟨?_, ?_, ?_, ?_, ?_, ?_, ?_, ?_⟩ <;> decide

/-- The hypotheses of `Obligations.FencesTakeUnitsOutOfService` hold together, clause by clause. -/
theorem test_hypotheses_FencesTakeUnitsOutOfService :
    ((fun (s : State) (r : Req) (u : BitVec 16) => s.dev.awaits 0x0300 r ∧ s.dev.pwr.phase = .ready ∧ payloadUnit (mPayload r.msg) = u ∧ unitKind u = 1 ∧ unitNum u < 80 ∧ unitNum u < s.dev.health.siteStates.length ∧ s.dev.siteState (unitNum u) = .held ∨ s.dev.siteState (unitNum u) = .warm ∧ s.dev.standsFenced u = false ∧ s.dev.health.recoveries = []) (wAsk 0x0300 0 [7, 0x10, 1, 0] wHost) (wReq 0x0300 0 [7, 0x10, 1, 0]) 0x1007) ∧
    ((fun (s : State) (r : Req) (u : BitVec 16) => s.dev.awaits 0x0300 r ∧ s.dev.pwr.phase = .ready ∧ payloadUnit (mPayload r.msg) = u ∧ unitKind u = 1 ∧ unitNum u < 80 ∧ s.dev.siteState (unitNum u) = .inService ∧ s.dev.standsFenced u = false ∧ s.dev.health.recoveries = []) (wAsk 0x0300 0 [79, 0x10, 1, 0] (wHost.setSiteState 79 .inService)) (wReq 0x0300 0 [79, 0x10, 1, 0]) 0x104F) ∧
    ((fun (s : State) (r : Req) (u : BitVec 16) (x : Recovery) => s.dev.awaits 0x0300 r ∧ s.dev.pwr.phase = .ready ∧ payloadUnit (mPayload r.msg) = u ∧ unitKind u = 1 ∧ unitNum u < 80 ∧ s.dev.standsFenced u = false ∧ s.dev.health.recoveries = [x] ∧ x.site = unitNum u ∧ x.cause = .inPlace ∨ (x.cause = .swap ∧ x.phase = .detected) ∧ x.fail = unitNum u) (wAsk 0x0300 0 [79, 0x10, 1, 0] wSwapping) (wReq 0x0300 0 [79, 0x10, 1, 0]) 0x104F wSwap) ∧
    ((fun (s : State) (r : Req) (u : BitVec 16) (x : Recovery) => s.dev.awaits 0x0300 r ∧ s.dev.pwr.phase = .ready ∧ payloadUnit (mPayload r.msg) = u ∧ unitKind u = 1 ∧ unitNum u < 80 ∧ unitNum u < s.dev.health.siteStates.length ∧ s.dev.standsFenced u = false ∧ s.dev.health.recoveries = [x] ∧ x.site = unitNum u ∧ x.cause = .swap ∧ x.phase = .inService) (wAsk 0x0300 0 [79, 0x10, 1, 0] wSwapped) (wReq 0x0300 0 [79, 0x10, 1, 0]) 0x104F wSwapIn) ∧
    ((fun (s : State) (r : Req) (u : BitVec 16) (x : Recovery) => s.dev.awaits 0x0300 r ∧ s.dev.pwr.phase = .ready ∧ payloadUnit (mPayload r.msg) = u ∧ unitKind u = 1 ∧ unitNum u < 80 ∧ unitNum u < s.dev.health.siteStates.length ∧ s.dev.standsFenced u = false ∧ s.dev.health.recoveries = [x] ∧ x.site ≠ unitNum u ∧ x.spare = some (unitNum u)) (wAsk 0x0300 0 [3, 0x10, 1, 0] wSwapped) (wReq 0x0300 0 [3, 0x10, 1, 0]) 0x1003 wSwapIn) ∧
    ((fun (s : State) (r : Req) (u : BitVec 16) => s.dev.awaits 0x0300 r ∧ s.dev.pwr.phase = .ready ∧ payloadUnit (mPayload r.msg) = u ∧ unitKind u = 4 ∧ unitNum u < 24 ∧ (s.dev.port (unitNum u)).state = .up) (wAsk 0x0300 0 [23, 0x40, 1, 0] (wHost.modPort 23 (fun q => { q with state := .up }))) (wReq 0x0300 0 [23, 0x40, 1, 0]) 0x4017) ∧
    ((fun (s : State) (r : Req) (u : BitVec 16) => s.dev.awaits 0x0300 r ∧ s.dev.pwr.phase = .ready ∧ payloadUnit (mPayload r.msg) = u ∧ unitKind u = 5 ∧ unitNum u < 16 ∧ unitNum u < s.dev.col.engines.length ∧ (s.dev.col.engines.getD (unitNum u) {}).inService = true) (wAsk 0x0300 0 [15, 0x50, 1, 0] wHost) (wReq 0x0300 0 [15, 0x50, 1, 0]) 0x500F) ∧
    ((fun (s : State) (r : Req) (u : BitVec 16) => s.dev.awaits 0x0300 r ∧ s.dev.pwr.phase = .ready ∧ payloadUnit (mPayload r.msg) = u ∧ unitKind u = 7 ∧ unitNum u < 4 ∧ unitNum u < s.dev.slv.length ∧ (s.dev.slv.getD (unitNum u) {}).inService = true) (wAsk 0x0300 0 [3, 0x70, 1, 0] wHost) (wReq 0x0300 0 [3, 0x70, 1, 0]) 0x7003) ∧
    ((fun (s : State) (r : Req) (u : BitVec 16) => s.dev.awaits 0x0300 r ∧ s.dev.pwr.phase = .ready ∧ payloadUnit (mPayload r.msg) = u ∧ fenceable u = true ∧ s.dev.standsFenced u = true) (wAsk 0x0300 0 [7, 0x10, 1, 0] (wHost.setSiteState 7 .fenced)) (wReq 0x0300 0 [7, 0x10, 1, 0]) 0x1007) ∧
    ((fun (s : State) (r : Req) (u : BitVec 16) => s.dev.awaits 0x0301 r ∧ s.dev.pwr.phase = .ready ∧ payloadUnit (mPayload r.msg) = u ∧ unitKind u = 1 ∧ unitNum u < 80 ∧ zeroBytes (mPayload r.msg) 2 2 = true ∧ s.dev.siteState (unitNum u) = .fenced ∧ s.dev.isPermanent u = false ∧ s.dev.health.testedSince.getD (unitNum u) none = some true) (wAsk 0x0301 0 [7, 0x10, 0, 0] wTested) (wReq 0x0301 0 [7, 0x10, 0, 0]) 0x1007) ∧
    ((fun (s : State) (r : Req) (u : BitVec 16) => s.dev.awaits 0x0302 r ∧ payloadUnit (mPayload r.msg) = u ∧ unitKind u = 1 ∧ unitNum u < 80 ∧ zeroBytes (mPayload r.msg) 3 1 = true ∧ fieldLE (mPayload r.msg) 2 1 = 1 ∧ s.dev.siteState (unitNum u) = .fenced ∧ s.dev.isPermanent u = false) (wAsk 0x0302 0 [7, 0x10, 1, 0] wTested) (wReq 0x0302 0 [7, 0x10, 1, 0]) 0x1007) ∧
    ((fun (s : State) (r : Req) (u : BitVec 16) => s.dev.awaits 0x0302 r ∧ payloadUnit (mPayload r.msg) = u ∧ unitKind u = 1 ∧ unitNum u < 80 ∧ zeroBytes (mPayload r.msg) 3 1 = true ∧ fieldLE (mPayload r.msg) 2 1 = 2 ∧ s.dev.siteState (unitNum u) = .fenced ∧ s.dev.isPermanent u = false) (wAsk 0x0302 0 [7, 0x10, 2, 0] wTested) (wReq 0x0302 0 [7, 0x10, 2, 0]) 0x1007) ∧
    ((fun (s : State) (r : Req) (u : BitVec 16) => s.dev.awaits 0x0302 r ∧ payloadUnit (mPayload r.msg) = u ∧ unitKind u = 1 ∧ unitNum u < 80 ∧ zeroBytes (mPayload r.msg) 3 1 = true ∧ fieldLE (mPayload r.msg) 2 1 = 3 ∧ s.dev.siteState (unitNum u) = .permanent) (wAsk 0x0302 0 [7, 0x10, 3, 0] (wHost.setSiteState 7 .permanent)) (wReq 0x0302 0 [7, 0x10, 3, 0]) 0x1007) := by
  refine ⟨?_, ?_, ?_, ?_, ?_, ?_, ?_, ?_, ?_, ?_, ?_, ?_, ?_⟩ <;> decide

/-- The hypotheses of `Obligations.TestsAndRecordsAreServed` hold together, clause by clause. -/
theorem test_hypotheses_TestsAndRecordsAreServed :
    ((fun (s : State) (r : Req) (u : BitVec 16) => s.dev.awaits 0x0303 r ∧ s.dev.pwr.phase = .ready ∧ payloadUnit (mPayload r.msg) = u ∧ unitKind u = 1 ∧ unitNum u < 80 ∧ unitNum u < s.dev.health.siteStates.length ∧ zeroBytes (mPayload r.msg) 2 2 = true ∧ s.dev.siteState (unitNum u) = .held ∨ s.dev.siteState (unitNum u) = .warm ∨ s.dev.siteState (unitNum u) = .fenced) (wAsk 0x0303 0 [0, 0x10, 0, 0] wHost) (wReq 0x0303 0 [0, 0x10, 0, 0]) 0x1000) ∧
    ((fun (s : State) (r : Req) => s.dev.awaits 0x0304 r ∧ 1 ≤ fieldLE (mPayload r.msg) 0 1 ∧ fieldLE (mPayload r.msg) 0 1 ≤ 24 ∧ zeroBytes (mPayload r.msg) 1 3 = true) (wAsk 0x0304 0 [24, 0, 0, 0] wHost) (wReq 0x0304 0 [24, 0, 0, 0])) ∧
    ((fun (s : State) (r : Req) => s.dev.awaits 0x0305 r ∧ fieldLE (mPayload r.msg) 1 1 ≤ 124 ∧ zeroBytes (mPayload r.msg) 2 2 = true) (wAsk 0x0305 0 [0, 124, 0, 0] wTested) (wReq 0x0305 0 [0, 124, 0, 0])) ∧
    ((fun (s : State) (r : Req) => s.dev.awaits 0x0306 r ∧ r.chan = 0 ∧ s.dev.health.logState ≠ 2 ∧ s.dev.health.bankAOk = true ∧ fieldLE (mPayload r.msg) 4 2 ≤ 63 ∧ zeroBytes (mPayload r.msg) 6 2 = true) (wAsk 0x0306 0 [0, 0, 0, 0, 63, 0, 0, 0] wLogged) (wReq 0x0306 0 [0, 0, 0, 0, 63, 0, 0, 0])) := by
  refine ⟨?_, ?_, ?_, ?_⟩ <;> decide

/-- The hypotheses of `Obligations.TenanciesAreMadeAndReleased` hold together, clause by clause. -/
theorem test_hypotheses_TenanciesAreMadeAndReleased :
    ((fun (s : State) (r : Req) (gs : List RangeEnt) => s.dev.awaits 0x0400 r ∧ s.dev.pwr.phase = .ready ∧ 1 ≤ fieldLE (mPayload r.msg) 0 1 ∧ fieldLE (mPayload r.msg) 0 1 ≤ 4 ∧ 1 ≤ fieldLE (mPayload r.msg) 1 1 ∧ fieldLE (mPayload r.msg) 1 1 ≤ 8 ∧ 1 ≤ fieldLE (mPayload r.msg) 2 1 ∧ fieldLE (mPayload r.msg) 2 1 ≤ 72 ∧ zeroBytes (mPayload r.msg) 3 5 = true ∧ gs = (List.range (fieldLE (mPayload r.msg) 1 1)).map (fun i => ⟨fieldLE (mPayload r.msg) (8 + 16 * i) 8, fieldLE (mPayload r.msg) (16 + 16 * i) 8⟩) ∧ gs.all rangeOk = true ∧ disjoint gs = true ∧ gs.any (fun g => s.dev.meetsShared g.base g.len || s.dev.rangeUsed g) = false ∧ s.dev.sec.lcState ≠ 3 ∧ s.dev.tenancyExists (fieldLE (mPayload r.msg) 0 1) = false ∧ s.dev.sec.debug = false ∧ s.dev.sec.vfEnable = true ∧ fieldLE (mPayload r.msg) 2 1 ≤ (s.dev.freeCores 0).length) (wAsk 0x0400 0 wTenancyPayload wLocked) (wReq 0x0400 0 wTenancyPayload) [⟨0x10000000, 0x10000000⟩]) ∧
    ((fun (s : State) (r : Req) (n : Nat) (g : Tenancy) => s.dev.awaits 0x0401 r ∧ fieldLE (mPayload r.msg) 0 1 = n ∧ 1 ≤ n ∧ n ≤ 4 ∧ zeroBytes (mPayload r.msg) 1 3 = true ∧ s.dev.sec.tenancies.getD (n - 1) none = some g ∧ stackParts g.ranges ≠ [] ∧ s.dev.plans = [] ∧ s.dev.sec.releasing = [] ∧ s.dev.wipes = [] ∧ s.dev.reqs = [r] ∧ r.chan = 0) (wAsk 0x0401 0 [4, 0, 0, 0] wTenanted) (wReq 0x0401 0 [4, 0, 0, 0]) 4 ⟨[⟨0, 0x10000000⟩], [71], []⟩) ∧
    ((fun (s : State) (r : Req) => s.dev.awaits 0x0402 r ∧ fieldLE (mPayload r.msg) 0 1 ≤ 7 ∧ fieldLE (mPayload r.msg) 2 1 ≤ 31 ∧ zeroBytes (mPayload r.msg) 3 5 = true ∧ fieldLE (mPayload r.msg) 1 1 = 1 ∧ rangeOk ⟨fieldLE (mPayload r.msg) 8 8, fieldLE (mPayload r.msg) 16 8⟩ = true ∧ s.dev.sec.lcState ≠ 3 ∧ s.dev.shared.getD (fieldLE (mPayload r.msg) 0 1) none = none ∧ s.dev.sec.tenancies.any (fun o => match o with | some t => t.ranges.any (fun q => meets (fieldLE (mPayload r.msg) 8 8) (fieldLE (mPayload r.msg) 16 8) q.base q.len) | none => false) = false ∧ s.dev.meetsShared (fieldLE (mPayload r.msg) 8 8) (fieldLE (mPayload r.msg) 16 8) = false) (wAsk 0x0402 0 wRegionPayload wHost) (wReq 0x0402 0 wRegionPayload)) ∧
    ((fun (s : State) (r : Req) => s.dev.awaits 0x0402 r ∧ fieldLE (mPayload r.msg) 0 1 ≤ 7 ∧ fieldLE (mPayload r.msg) 2 1 ≤ 31 ∧ zeroBytes (mPayload r.msg) 3 5 = true ∧ fieldLE (mPayload r.msg) 1 1 = 2 ∧ s.dev.sec.lcState ≠ 3 ∧ s.dev.shared.getD (fieldLE (mPayload r.msg) 0 1) none ≠ none ∧ s.dev.regionRead (fieldLE (mPayload r.msg) 0 1) = false) (wAsk 0x0402 0 wWithdrawPayload wNamed) (wReq 0x0402 0 wWithdrawPayload)) ∧
    ((fun (s : State) (r : Req) => s.dev.awaits 0x0403 r ∧ fieldLE (mPayload r.msg) 0 1 ≤ 1 ∧ fieldLE (mPayload r.msg) 1 1 ≤ 1 ∧ zeroBytes (mPayload r.msg) 2 2 = true) (wAsk 0x0403 0 [0, 1, 0, 0] wHost) (wReq 0x0403 0 [0, 1, 0, 0])) := by
  refine ⟨?_, ?_, ?_, ?_, ?_⟩ <;> decide

theorem test_key_area_witness : areaIdx 7 = some 2 ∧ 2 < ({} : Sec).keyArea.length ∧ (List.replicate 32 (1 : Byte)).length = 32 := by decide

/-- The hypotheses of `Obligations.LifeCycleKeysAndDebug` hold together, clause by clause. -/
theorem test_hypotheses_LifeCycleKeysAndDebug :
    ((fun (s : State) (r : Req) => s.dev.awaits 0x0410 r ∧ zeroBytes (mPayload r.msg) 1 3 = true ∧ fieldLE (mPayload r.msg) 0 1 = s.dev.sec.lcState.toNat + 1 ∧ fieldLE (mPayload r.msg) 0 1 ≤ 3 ∧ (∀ p ∈ s.dev.plans, p.holdsLifecycle = false) ∧ s.dev.sec.tenancies = List.replicate 4 none) (wAsk 0x0410 0 [1, 0, 0, 0] wHost) (wReq 0x0410 0 [1, 0, 0, 0])) ∧
    ((fun (s : State) (r : Req) => s.dev.awaits 0x0410 r ∧ zeroBytes (mPayload r.msg) 1 3 = true ∧ fieldLE (mPayload r.msg) 0 1 ≠ s.dev.sec.lcState.toNat + 1) (wAsk 0x0410 0 [2, 0, 0, 0] wHost) (wReq 0x0410 0 [2, 0, 0, 0])) ∧
    ((fun (s : State) (r : Req) (img : List Byte) => s.dev.awaits 0x0411 r ∧ fieldLE (mPayload r.msg) 8 4 ≠ 0 ∧ fieldLE (mPayload r.msg) 8 4 ≤ 0x1000000 ∧ fieldLE (mPayload r.msg) 0 8 + fieldLE (mPayload r.msg) 8 4 ≤ stackEnd ∧ zeroBytes (mPayload r.msg) 12 4 = true ∧ s.dev.mem.poisoned? (fieldLE (mPayload r.msg) 0 8) (fieldLE (mPayload r.msg) 8 4) = none ∧ img = memBytes s.dev.mem.bytes (fieldLE (mPayload r.msg) 0 8) (fieldLE (mPayload r.msg) 8 4)) (wAsk 0x0411 0 wAdmitPayload wHost) (wReq 0x0411 0 wAdmitPayload) (List.replicate 400 0)) ∧
    ((fun (s : State) (r : Req) (k key : List Byte) => s.dev.awaits 0x0412 r ∧ keySlot (fieldLE (mPayload r.msg) 0 1) = true ∧ zeroBytes (mPayload r.msg) 1 7 = true ∧ s.dev.mayProvision (fieldLE (mPayload r.msg) 0 1) = true ∧ r.key = some k ∧ key = (((mPayload r.msg).drop 8).take 32).zipWith (· ^^^ ·) (hkdfExpand k (ascii "KEYMASK" ++ [BitVec.ofNat 8 (fieldLE (mPayload r.msg) 0 1)]))) ⟨{ wSession with reqs := [wKeyReq] }, []⟩ wKeyReq (List.replicate 32 0) wKeyMasked) ∧
    ((fun (s : State) (path : RegPath) => s.dev.pathOpen path = true ∧ s.dev.pwr.ctlUp = true) wHost1 .spi) ∧
    ((fun (s : State) (path : RegPath) => s.dev.pathOpen path = true ∧ s.dev.pwr.ctlUp = true) wHost1 .pf0) ∧
    ((fun (s : State) (path : RegPath) => s.dev.pathOpen path = true ∧ s.dev.pwr.ctlUp = true) wHost1 .jtag) := by
  refine ⟨?_, ?_, ?_, ?_, ?_, ?_, ?_⟩ <;> decide

/-- The hypotheses of `Obligations.RegisterInstructionsWriteRd` hold together, clause by clause. -/
theorem test_hypotheses_RegisterInstructionsWriteRd :
    ((fun (s : State) (c : Fin 72) (t : Fin 8) (x : Ctx) (th : Thread) (base : Nat) (w : BitVec 32) => s.dev.atIns c.val t.val 0x01 x th base w) (wIns 0x04611007 [(1, 0x8000000000000005), (2, 3), (3, 0x1111222233334444)]) 0 0 (wInsCtx) (wInsThread [(1, 0x8000000000000005), (2, 3), (3, 0x1111222233334444)]) (scratchBase 0) 0x04611007) ∧
    ((fun (s : State) (c : Fin 72) (t : Fin 8) (x : Ctx) (th : Thread) (base : Nat) (w : BitVec 32) => s.dev.atIns c.val t.val 0x02 x th base w) (wIns 0x0861FFFF [(1, 0x8000000000000005), (2, 3), (3, 0x1111222233334444)]) 0 0 (wInsCtx) (wInsThread [(1, 0x8000000000000005), (2, 3), (3, 0x1111222233334444)]) (scratchBase 0) 0x0861FFFF) ∧
    ((fun (s : State) (c : Fin 72) (t : Fin 8) (x : Ctx) (th : Thread) (base : Nat) (w : BitVec 32) => s.dev.atIns c.val t.val 0x03 x th base w) (wIns 0x0C61FFFF [(1, 0x8000000000000005), (2, 3), (3, 0x1111222233334444)]) 0 0 (wInsCtx) (wInsThread [(1, 0x8000000000000005), (2, 3), (3, 0x1111222233334444)]) (scratchBase 0) 0x0C61FFFF) ∧
    ((fun (s : State) (c : Fin 72) (t : Fin 8) (x : Ctx) (th : Thread) (base : Nat) (w : BitVec 32) => s.dev.atIns c.val t.val 0x04 x th base w) (wIns 0x1061FFFF [(1, 0x8000000000000005), (2, 3), (3, 0x1111222233334444)]) 0 0 (wInsCtx) (wInsThread [(1, 0x8000000000000005), (2, 3), (3, 0x1111222233334444)]) (scratchBase 0) 0x1061FFFF) ∧
    ((fun (s : State) (c : Fin 72) (t : Fin 8) (x : Ctx) (th : Thread) (base : Nat) (w : BitVec 32) => s.dev.atIns c.val t.val 0x05 x th base w) (wIns 0x1461FFFF [(1, 0x8000000000000005), (2, 3), (3, 0x1111222233334444)]) 0 0 (wInsCtx) (wInsThread [(1, 0x8000000000000005), (2, 3), (3, 0x1111222233334444)]) (scratchBase 0) 0x1461FFFF) ∧
    ((fun (s : State) (c : Fin 72) (t : Fin 8) (x : Ctx) (th : Thread) (base : Nat) (w : BitVec 32) => s.dev.atIns c.val t.val 0x06 x th base w) (wIns 0x1861FFFF [(1, 0x8000000000000005), (2, 3), (3, 0x1111222233334444)]) 0 0 (wInsCtx) (wInsThread [(1, 0x8000000000000005), (2, 3), (3, 0x1111222233334444)]) (scratchBase 0) 0x1861FFFF) ∧
    ((fun (s : State) (c : Fin 72) (t : Fin 8) (x : Ctx) (th : Thread) (base : Nat) (w : BitVec 32) => s.dev.atIns c.val t.val 0x07 x th base w) (wIns 0x1C610081 [(1, 0x8000000000000005), (2, 3), (3, 0x1111222233334444)]) 0 0 (wInsCtx) (wInsThread [(1, 0x8000000000000005), (2, 3), (3, 0x1111222233334444)]) (scratchBase 0) 0x1C610081) ∧
    ((fun (s : State) (c : Fin 72) (t : Fin 8) (x : Ctx) (th : Thread) (base : Nat) (w : BitVec 32) => s.dev.atIns c.val t.val 0x08 x th base w) (wIns 0x2062ABCD [(1, 0x8000000000000005), (2, 3), (3, 0x1111222233334444)]) 0 0 (wInsCtx) (wInsThread [(1, 0x8000000000000005), (2, 3), (3, 0x1111222233334444)]) (scratchBase 0) 0x2062ABCD) ∧
    ((fun (s : State) (c : Fin 72) (t : Fin 8) (x : Ctx) (th : Thread) (base : Nat) (w : BitVec 32) => s.dev.atIns c.val t.val 0x35 x th base w) (wIns 0xD4600006 [(1, 0x8000000000000005), (2, 3), (3, 0x1111222233334444)]) 0 0 (wInsCtx) (wInsThread [(1, 0x8000000000000005), (2, 3), (3, 0x1111222233334444)]) (scratchBase 0) 0xD4600006) := by
  refine ⟨?_, ?_, ?_, ?_, ?_, ?_, ?_, ?_, ?_⟩ <;> decide

/-- The hypotheses of `Obligations.BranchesMoveThePc` hold together, clause by clause. -/
theorem test_hypotheses_BranchesMoveThePc :
    ((fun (s : State) (c : Fin 72) (t : Fin 8) (x : Ctx) (th : Thread) (base : Nat) (w : BitVec 32) => s.dev.atIns c.val t.val 0x20 x th base w) (wIns 0x8041FFFE [(1, 0x8000000000000005), (2, 3), (3, 0x1111222233334444)]) 0 0 (wInsCtx) (wInsThread [(1, 0x8000000000000005), (2, 3), (3, 0x1111222233334444)]) (scratchBase 0) 0x8041FFFE) ∧
    ((fun (s : State) (c : Fin 72) (t : Fin 8) (x : Ctx) (th : Thread) (base : Nat) (w : BitVec 32) => s.dev.atIns c.val t.val 0x21 x th base w) (wIns 0x8441FFFE [(1, 0x8000000000000005), (2, 3), (3, 0x1111222233334444)]) 0 0 (wInsCtx) (wInsThread [(1, 0x8000000000000005), (2, 3), (3, 0x1111222233334444)]) (scratchBase 0) 0x8441FFFE) ∧
    ((fun (s : State) (c : Fin 72) (t : Fin 8) (x : Ctx) (th : Thread) (base : Nat) (w : BitVec 32) => s.dev.atIns c.val t.val 0x22 x th base w) (wIns 0x8841FFFE [(1, 0x8000000000000005), (2, 3), (3, 0x1111222233334444)]) 0 0 (wInsCtx) (wInsThread [(1, 0x8000000000000005), (2, 3), (3, 0x1111222233334444)]) (scratchBase 0) 0x8841FFFE) ∧
    ((fun (s : State) (c : Fin 72) (t : Fin 8) (x : Ctx) (th : Thread) (base : Nat) (w : BitVec 32) => s.dev.atIns c.val t.val 0x23 x th base w) (wIns 0x8C41FFFE [(1, 0x8000000000000005), (2, 3), (3, 0x1111222233334444)]) 0 0 (wInsCtx) (wInsThread [(1, 0x8000000000000005), (2, 3), (3, 0x1111222233334444)]) (scratchBase 0) 0x8C41FFFE) ∧
    ((fun (s : State) (c : Fin 72) (t : Fin 8) (x : Ctx) (th : Thread) (base : Nat) (w : BitVec 32) => s.dev.atIns c.val t.val 0x24 x th base w) (wIns 0x9041FFFE [(1, 0x8000000000000005), (2, 3), (3, 0x1111222233334444)]) 0 0 (wInsCtx) (wInsThread [(1, 0x8000000000000005), (2, 3), (3, 0x1111222233334444)]) (scratchBase 0) 0x9041FFFE) ∧
    ((fun (s : State) (c : Fin 72) (t : Fin 8) (x : Ctx) (th : Thread) (base : Nat) (w : BitVec 32) => s.dev.atIns c.val t.val 0x25 x th base w) (wIns 0x9441FFFE [(1, 0x8000000000000005), (2, 3), (3, 0x1111222233334444)]) 0 0 (wInsCtx) (wInsThread [(1, 0x8000000000000005), (2, 3), (3, 0x1111222233334444)]) (scratchBase 0) 0x9441FFFE) ∧
    ((fun (s : State) (c : Fin 72) (t : Fin 8) (x : Ctx) (th : Thread) (base : Nat) (w : BitVec 32) => s.dev.atIns c.val t.val 0x28 x th base w) (wIns 0xA3FFFFFF [(1, 0x8000000000000005), (2, 3), (3, 0x1111222233334444)]) 0 0 (wInsCtx) (wInsThread [(1, 0x8000000000000005), (2, 3), (3, 0x1111222233334444)]) (scratchBase 0) 0xA3FFFFFF) ∧
    ((fun (s : State) (c : Fin 72) (t : Fin 8) (x : Ctx) (th : Thread) (base : Nat) (w : BitVec 32) => s.dev.atIns c.val t.val 0x29 x th base w) (wIns 0xA4210008 [(1, 0x8000000000000005), (2, 3), (3, 0x1111222233334444)]) 0 0 (wInsCtx) (wInsThread [(1, 0x8000000000000005), (2, 3), (3, 0x1111222233334444)]) (scratchBase 0) 0xA4210008) ∧
    ((fun (s : State) (c : Fin 72) (t : Fin 8) (x : Ctx) (th : Thread) (base : Nat) (w : BitVec 32) => s.dev.atIns c.val t.val 0x3B x th base w) (wIns 0xEC000000 []) 0 0 (wInsCtx) (wInsThread []) (scratchBase 0) 0xEC000000) := by
  refine ⟨?_, ?_, ?_, ?_, ?_, ?_, ?_, ?_, ?_⟩ <;> decide

/-- The hypotheses of `Obligations.LoadsReadOwnStoresOrMemory` hold together, clause by clause. -/
theorem test_hypotheses_LoadsReadOwnStoresOrMemory :
    ((fun (s : State) (c : Fin 72) (t : Fin 8) (x : Ctx) (th : Thread) (base : Nat) (w : BitVec 32) => s.dev.atIns c.val t.val 0x10 x th base w ∧ s.dev.loads x t.val (th.ea x w).toNat 8) (wIns 0x4064FFF8 wLoadRegs) 0 0 (wInsCtx) (wInsThread wLoadRegs) (scratchBase 0) 0x4064FFF8) ∧
    ((fun (s : State) (c : Fin 72) (t : Fin 8) (x : Ctx) (th : Thread) (base : Nat) (w : BitVec 32) => s.dev.atIns c.val t.val 0x11 x th base w ∧ s.dev.loads x t.val (th.ea x w).toNat 4) (wIns 0x4464FFF8 wLoadRegs) 0 0 (wInsCtx) (wInsThread wLoadRegs) (scratchBase 0) 0x4464FFF8) ∧
    ((fun (s : State) (c : Fin 72) (t : Fin 8) (x : Ctx) (th : Thread) (base : Nat) (w : BitVec 32) => s.dev.atIns c.val t.val 0x12 x th base w ∧ s.dev.loads x t.val (th.ea x w).toNat 4) (wIns 0x4864FFF8 wLoadRegs) 0 0 (wInsCtx) (wInsThread wLoadRegs) (scratchBase 0) 0x4864FFF8) ∧
    ((fun (s : State) (c : Fin 72) (t : Fin 8) (x : Ctx) (th : Thread) (base : Nat) (w : BitVec 32) => s.dev.atIns c.val t.val 0x13 x th base w ∧ s.dev.loads x t.val (th.ea x w).toNat 2) (wIns 0x4C64FFF8 wLoadRegs) 0 0 (wInsCtx) (wInsThread wLoadRegs) (scratchBase 0) 0x4C64FFF8) ∧
    ((fun (s : State) (c : Fin 72) (t : Fin 8) (x : Ctx) (th : Thread) (base : Nat) (w : BitVec 32) => s.dev.atIns c.val t.val 0x14 x th base w ∧ s.dev.loads x t.val (th.ea x w).toNat 2) (wIns 0x5064FFF8 wLoadRegs) 0 0 (wInsCtx) (wInsThread wLoadRegs) (scratchBase 0) 0x5064FFF8) ∧
    ((fun (s : State) (c : Fin 72) (t : Fin 8) (x : Ctx) (th : Thread) (base : Nat) (w : BitVec 32) => s.dev.atIns c.val t.val 0x15 x th base w ∧ s.dev.loads x t.val (th.ea x w).toNat 1) (wIns 0x5464FFF8 wLoadRegs) 0 0 (wInsCtx) (wInsThread wLoadRegs) (scratchBase 0) 0x5464FFF8) ∧
    ((fun (s : State) (c : Fin 72) (t : Fin 8) (x : Ctx) (th : Thread) (base : Nat) (w : BitVec 32) => s.dev.atIns c.val t.val 0x16 x th base w ∧ s.dev.loads x t.val (th.ea x w).toNat 1) (wIns 0x5864FFF8 wLoadRegs) 0 0 (wInsCtx) (wInsThread wLoadRegs) (scratchBase 0) 0x5864FFF8) ∧
    ((fun (s : State) (c : Fin 72) (t : Fin 8) (x : Ctx) (th : Thread) (base : Nat) (w : BitVec 32) (e : StoreEnt) => s.dev.atIns c.val t.val 0x10 x th base w ∧ (th.ea x w).toNat < 2 ^ 48 ∧ (th.ea x w).toNat % 8 = 0 ∧ s.dev.canRead x.p x.site (th.ea x w).toNat 8 = true ∧ youngestStore (s.dev.site x.site).ccr.stores t.val (th.ea x w).toNat 8 = some e ∧ e.addr = (th.ea x w).toNat ∧ e.data.length = 8) (wBuffered <| wIns 0x40640000 wLoadRegs) 0 0 (wInsCtx) (wInsThread wLoadRegs) (scratchBase 0) 0x40640000 wStore) ∧
    ((fun (s : State) (c : Fin 72) (t : Fin 8) (x : Ctx) (th : Thread) (base : Nat) (w : BitVec 32) => s.dev.atIns c.val t.val 0x10 x th base w ∧ (th.ea x w).toNat % 8 ≠ 0) (wIns 0x40640004 wLoadRegs) 0 0 (wInsCtx) (wInsThread wLoadRegs) (scratchBase 0) 0x40640004) := by
  refine ⟨?_, ?_, ?_, ?_, ?_, ?_, ?_, ?_, ?_⟩ <;> decide

/-- The hypotheses of `Obligations.StoresGoThroughTheBuffer` hold together, clause by clause. -/
theorem test_hypotheses_StoresGoThroughTheBuffer :
    ((fun (s : State) (c : Fin 72) (t : Fin 8) (x : Ctx) (th : Thread) (base : Nat) (w : BitVec 32) => s.dev.atIns c.val t.val 0x18 x th base w ∧ (th.ea x w).toNat < 2 ^ 48 ∧ (th.ea x w).toNat % 8 = 0 ∧ s.dev.canWrite x.p x.core x.site (th.ea x w).toNat 8 = true ∧ pendOk (cellSetAll (drained (s.dev.cq x.c).pend (s.dev.site x.site).ccr.stores) (th.ea x w).toNat (bytesLE 8 (th.reg (insRd w)).toNat)) = true ∧ (s.dev.site x.site).ccr.stores.length < 8) (wIns 0x60640010 wLoadRegs) 0 0 (wInsCtx) (wInsThread wLoadRegs) (scratchBase 0) 0x60640010) ∧
    ((fun (s : State) (c : Fin 72) (t : Fin 8) (x : Ctx) (th : Thread) (base : Nat) (w : BitVec 32) => s.dev.atIns c.val t.val 0x19 x th base w ∧ (th.ea x w).toNat < 2 ^ 48 ∧ (th.ea x w).toNat % 4 = 0 ∧ s.dev.canWrite x.p x.core x.site (th.ea x w).toNat 4 = true ∧ pendOk (cellSetAll (drained (s.dev.cq x.c).pend (s.dev.site x.site).ccr.stores) (th.ea x w).toNat (bytesLE 4 (th.reg (insRd w)).toNat)) = true ∧ (s.dev.site x.site).ccr.stores.length < 8) (wIns 0x64640010 wLoadRegs) 0 0 (wInsCtx) (wInsThread wLoadRegs) (scratchBase 0) 0x64640010) ∧
    ((fun (s : State) (c : Fin 72) (t : Fin 8) (x : Ctx) (th : Thread) (base : Nat) (w : BitVec 32) => s.dev.atIns c.val t.val 0x1A x th base w ∧ (th.ea x w).toNat < 2 ^ 48 ∧ (th.ea x w).toNat % 2 = 0 ∧ s.dev.canWrite x.p x.core x.site (th.ea x w).toNat 2 = true ∧ pendOk (cellSetAll (drained (s.dev.cq x.c).pend (s.dev.site x.site).ccr.stores) (th.ea x w).toNat (bytesLE 2 (th.reg (insRd w)).toNat)) = true ∧ (s.dev.site x.site).ccr.stores.length < 8) (wIns 0x68640010 wLoadRegs) 0 0 (wInsCtx) (wInsThread wLoadRegs) (scratchBase 0) 0x68640010) ∧
    ((fun (s : State) (c : Fin 72) (t : Fin 8) (x : Ctx) (th : Thread) (base : Nat) (w : BitVec 32) => s.dev.atIns c.val t.val 0x1B x th base w ∧ (th.ea x w).toNat < 2 ^ 48 ∧ (th.ea x w).toNat % 1 = 0 ∧ s.dev.canWrite x.p x.core x.site (th.ea x w).toNat 1 = true ∧ pendOk (cellSetAll (drained (s.dev.cq x.c).pend (s.dev.site x.site).ccr.stores) (th.ea x w).toNat (bytesLE 1 (th.reg (insRd w)).toNat)) = true ∧ (s.dev.site x.site).ccr.stores.length < 8) (wIns 0x6C640010 wLoadRegs) 0 0 (wInsCtx) (wInsThread wLoadRegs) (scratchBase 0) 0x6C640010) ∧
    ((fun (s : State) (c : Fin 72) (t : Fin 8) (x : Ctx) (th : Thread) (base : Nat) (w : BitVec 32) => s.dev.atIns c.val t.val 0x18 x th base w ∧ (th.ea x w).toNat < 2 ^ 48 ∧ (th.ea x w).toNat % 8 = 0 ∧ s.dev.canWrite x.p x.core x.site (th.ea x w).toNat 8 = true ∧ pendOk (cellSetAll (drained (s.dev.cq x.c).pend (s.dev.site x.site).ccr.stores) (th.ea x w).toNat (bytesLE 8 (th.reg (insRd w)).toNat)) = true ∧ 8 ≤ (s.dev.site x.site).ccr.stores.length) (wFullBuffer <| wIns 0x60640000 wLoadRegs) 0 0 (wInsCtx) (wInsThread wLoadRegs) (scratchBase 0) 0x60640000) ∧
    ((fun (s : State) (c : Fin 72) (t : Fin 8) (x : Ctx) (th : Thread) (base : Nat) (w : BitVec 32) => s.dev.atIns c.val t.val 0x18 x th base w ∧ (th.ea x w).toNat < 2 ^ 48 ∧ (th.ea x w).toNat % 8 = 0 ∧ s.dev.canWrite x.p x.core x.site (th.ea x w).toNat 8 = false ∧ s.dev.canRead x.p x.site (th.ea x w).toNat 8 = true ∧ inside (th.ea x w).toNat 8 (scratchBase x.site) 0x1000000 = false) (wIns 0x60640000 wDscRegs) 0 0 (wInsCtx) (wInsThread wDscRegs) (scratchBase 0) 0x60640000) ∧
    ((fun (s : State) (c : Fin 72) (x : Ctx) (e : StoreEnt) (rest : List StoreEnt) => s.dev.ctx? c.val = some x ∧ (s.dev.site x.site).ccr.stores = e :: rest ∧ s.dev.wipeHolds e.addr e.data.length = false ∧ s.dev.waysFree c.val e.addr e.data.length = true ∧ writePoison s.dev.mem (s.dev.cq c.val).pend e.addr e.data.length = none ∧ pendOk (cellSetAll (s.dev.cq c.val).pend e.addr e.data) = true) (wBuffered <| wIns 0 []) 0 wInsCtx wStore []) ∧
    ((fun (s : State) (c : Fin 72) (x : Ctx) (e : StoreEnt) (rest : List StoreEnt) => s.dev.ctx? c.val = some x ∧ (s.dev.site x.site).ccr.stores = e :: rest ∧ s.dev.wipeHolds e.addr e.data.length = true) (wBufferedWipe <| wIns 0 []) 0 wInsCtx wStore []) := by
  refine ⟨?_, ?_, ?_, ?_, ?_, ?_, ?_, ?_⟩ <;> decide

/-- The hypotheses of `Obligations.FlagsStreamsAndSyncs` hold together, clause by clause. -/
theorem test_hypotheses_FlagsStreamsAndSyncs :
    ((fun (s : State) (c : Fin 72) (t : Fin 8) (x : Ctx) (th : Thread) (base : Nat) (w : BitVec 32) => s.dev.atIns c.val t.val 0x31 x th base w ∧ s.dev.buffered x.site t.val = false) (wIns 0xC400003F []) 0 0 (wInsCtx) (wInsThread []) (scratchBase 0) 0xC400003F) ∧
    ((fun (s : State) (c : Fin 72) (t : Fin 8) (x : Ctx) (th : Thread) (base : Nat) (w : BitVec 32) => s.dev.atIns c.val t.val 0x32 x th base w) (wFlagged <| wIns 0xC8000005 []) 0 0 (wInsCtx) (wInsThread []) (scratchBase 0) 0xC8000005) ∧
    ((fun (s : State) (c : Fin 72) (t : Fin 8) (x : Ctx) (th : Thread) (base : Nat) (w : BitVec 32) => s.dev.atIns c.val t.val 0x33 x th base w ∧ s.dev.flagUp x.site ((insImm w).toNat % 64) = true ∧ s.dev.evwaitOn x.c ((insImm w).toNat % 64) = false ∧ ((∀ u, u < t.val → s.dev.waitsOn x.c u ((insImm w).toNat % 64) = false))) (wFlagged <| wIns 0xCC000005 []) 0 0 (wInsCtx) (wInsThread []) (scratchBase 0) 0xCC000005) ∧
    ((fun (s : State) (c : Fin 72) (t : Fin 8) (x : Ctx) (th : Thread) (base : Nat) (w : BitVec 32) => s.dev.atIns c.val t.val 0x33 x th base w ∧ s.dev.flagUp x.site ((insImm w).toNat % 64) = false) (wIns 0xCC000005 []) 0 0 (wInsCtx) (wInsThread []) (scratchBase 0) 0xCC000005) ∧
    ((fun (s : State) (c : Fin 72) (t : Fin 8) (x : Ctx) (th : Thread) (base : Nat) (w : BitVec 32) => s.dev.atIns c.val t.val 0x34 x th base w ∧ s.dev.buffered x.site t.val = false ∧ th.reg (insRs1 w) ≠ BitVec.ofNat 64 x.core ∧ (th.reg (insRs1 w)).toNat < x.p.img.nCores ∧ x.core < 72) (wIns2 0xD0010009 [(1, 1)]) 0 0 wInsCtx2 (wInsThread [(1, 1)]) (scratchBase 0) 0xD0010009) ∧
    ((fun (s : State) (c : Fin 72) (t : Fin 8) (x : Ctx) (th : Thread) (base : Nat) (w : BitVec 32) (q : Desc) => s.dev.atIns c.val t.val 0x30 x th base w ∧ (th.ea x w).toNat < 2 ^ 48 ∧ (th.ea x w).toNat % 8 = 0 ∧ s.dev.canRead x.p x.site (th.ea x w).toNat 128 = true ∧ youngestStore (s.dev.site x.site).ccr.stores t.val (th.ea x w).toNat 128 = none ∧ ((s.dev.site x.site).ccr.streams.getD t.val {}).held < 4 ∧ s.dev.wipeHolds (th.ea x w).toNat 128 = false ∧ readPoison s.dev.mem (s.dev.cq x.c).pend (th.ea x w).toNat 128 = none ∧ parseDesc (s.dev.view x.c (th.ea x w).toNat 128) = some q) (wDescribed <| wIns 0xC0040000 wLoadRegs) 0 0 (wInsCtx) (wInsThread wLoadRegs) (scratchBase 0) 0xC0040000 wDesc) ∧
    ((fun (s : State) (c : Fin 72) (t : Fin 8) (x : Ctx) (th : Thread) (base : Nat) (w : BitVec 32) => s.dev.atIns c.val t.val 0x38 x th base w ∧ s.dev.buffered x.site t.val = false) (wIns 0xE0000000 []) 0 0 (wInsCtx) (wInsThread []) (scratchBase 0) 0xE0000000) ∧
    ((fun (s : State) (c : Fin 72) (t : Fin 8) (x : Ctx) (th : Thread) (base : Nat) (w : BitVec 32) => s.dev.atIns c.val t.val 0x38 x th base w ∧ s.dev.buffered x.site t.val = true) (wBuffered <| wIns 0xE0000000 []) 0 0 (wInsCtx) (wInsThread []) (scratchBase 0) 0xE0000000) ∧
    ((fun (s : State) (c : Fin 72) (t : Fin 8) (x : Ctx) (th : Thread) (base : Nat) (w : BitVec 32) => s.dev.atIns c.val t.val 0x39 x th base w ∧ s.dev.buffered x.site t.val = false) (wIns 0xE4000000 []) 0 0 (wInsCtx) (wInsThread []) (scratchBase 0) 0xE4000000) ∧
    ((fun (s : State) (c : Fin 72) (t : Fin 8) (x : Ctx) (th : Thread) (base : Nat) (w : BitVec 32) => s.dev.atIns c.val t.val 0x3A x th base w ∧ s.dev.buffered x.site t.val = false) (wIns 0xE8000000 []) 0 0 (wInsCtx) (wInsThread []) (scratchBase 0) 0xE8000000) ∧
    ((fun (s : State) (c : Fin 72) (x : Ctx) => s.dev.ctx? c.val = some x ∧ s.dev.deadlocked c.val = true ∧ 64 ≤ x.rc.deadlock) wDeadlocked 0 wDeadCtx) := by
  refine ⟨?_, ?_, ?_, ?_, ?_, ?_, ?_, ?_, ?_, ?_, ?_⟩ <;> decide

/-- The hypotheses of `Obligations.CommandsArePublishedAndFetched` hold together, clause by clause. -/
theorem test_hypotheses_CommandsArePublishedAndFetched :
    ((fun (s : State) (func : Fin 5) (win : Fin 72) (off : Fin 65536) (data : List Byte) (k : Nat) => s.dev.queueOf func.val win.val = some k ∧ s.dev.owned k = true ∧ off.val + data.length ≤ 65536 ∧ (∀ i : Fin 1024, (s.dev.cq k).regs.slotBusy i.val = false)) (wIns 0 []) 0 0 128 [1, 0, 2] 0) ∧
    ((fun (s : State) (func : Fin 5) (win : Fin 72) (off : Fin 65536) (data : List Byte) (k : Nat) => s.dev.queueOf func.val win.val = some k ∧ s.dev.owned k = false) (wIns 0 []) 0 3 128 [1, 0, 2] 3) ∧
    ((fun (s : State) (func : Fin 5) (win : Fin 72) (off : Fin 65536) (b : Byte) (k : Nat) => s.dev.queueOf func.val win.val = some k ∧ s.dev.owned k = true ∧ (s.dev.cq k).regs.slotBusy (off.val / 64) = true) wPublished 0 0 3 7 0) ∧
    ((fun (s : State) (func : Fin 5) (win : Fin 72) (val : BitVec 64) (k : Nat) => s.dev.queueOf func.val win.val = some k ∧ s.dev.owned k = true ∧ s.dev.pwr.pcieUp = true ∧ (val.setWidth 32 - (s.dev.cq k).regs.tail).toNat ≤ (s.dev.cq k).regs.credit) (wIns 0 []) 0 0 2 0) ∧
    ((fun (s : State) (func : Fin 5) (win : Fin 72) (val : BitVec 64) (k : Nat) => s.dev.queueOf func.val win.val = some k ∧ s.dev.owned k = true ∧ s.dev.pwr.pcieUp = true ∧ (s.dev.cq k).regs.credit < (val.setWidth 32 - (s.dev.cq k).regs.tail).toNat) (wIns 0 []) 0 0 0xFFFFFFFF 0) ∧
    ((fun (s : State) (c : Fin 72) (p : Plan) (bs : List Byte) => s.dev.planOf c.val = some p ∧ s.dev.siteOf.getD c.val 0xFF < 80 ∧ (s.dev.cq c.val).regs.halted = false ∧ (s.dev.cq c.val).entries[((s.dev.cq c.val).regs.head - (s.dev.cq c.val).regs.retire).toNat]? = some bs ∧ (cmdTag bs).toNat % 2 ^ 20 = (s.dev.cq c.val).regs.head.toNat % 2 ^ 20) wPublished 0 wInsPlan wNopCmd) ∧
    ((fun (s : State) (c : Fin 72) (p : Plan) (bs : List Byte) => s.dev.planOf c.val = some p ∧ s.dev.siteOf.getD c.val 0xFF < 80 ∧ (s.dev.cq c.val).regs.halted = false ∧ (s.dev.cq c.val).entries[((s.dev.cq c.val).regs.head - (s.dev.cq c.val).regs.retire).toNat]? = some bs) wPublished 0 wInsPlan wNopCmd) ∧
    ((fun (s : State) (c : Fin 72) (p : Plan) (bs : List Byte) => s.dev.planOf c.val = some p ∧ s.dev.siteOf.getD c.val 0xFF < 80 ∧ (s.dev.cq c.val).regs.halted = false ∧ (s.dev.cq c.val).entries[((s.dev.cq c.val).regs.head - (s.dev.cq c.val).regs.retire).toNat]? = some bs ∧ (cmdTag bs).toNat % 2 ^ 20 ≠ (s.dev.cq c.val).regs.head.toNat % 2 ^ 20) wMistagged 0 wInsPlan (wCommand 0 7 0 [])) := by
  refine ⟨?_, ?_, ?_, ?_, ?_, ?_, ?_, ?_⟩ <;> decide

/-- The hypotheses of `Obligations.SequencerCommandsComplete` hold together, clause by clause. -/
theorem test_hypotheses_SequencerCommandsComplete :
    ((fun (s : State) (c : Fin 72) (x : Ctx) (f : Fetched) => s.dev.issues c.val 0x00 x f) (wCmd wNopCmd) 0 wInsCtx ⟨0, wNopCmd, none⟩) ∧
    ((fun (s : State) (c : Fin 72) (x : Ctx) (f : Fetched) => s.dev.issues c.val 0x03 x f) (wCmd (wCommand 3 0 0x80 [])) 0 wInsCtx ⟨0, (wCommand 3 0 0x80 []), none⟩) ∧
    ((fun (s : State) (c : Fin 72) (x : Ctx) (f : Fetched) => s.dev.issues c.val 0x60 x f) (wCmd (wCommand 0x60 0 0 [7, 0])) 0 wInsCtx ⟨0, (wCommand 0x60 0 0 [7, 0]), none⟩) ∧
    ((fun (s : State) (c : Fin 72) (x : Ctx) (f : Fetched) => s.dev.issues c.val 0x02 x f) (wCmd (wCommand 2 0 0 [100])) 0 wInsCtx ⟨0, (wCommand 2 0 0 [100]), none⟩) ∧
    ((fun (s : State) (c : Fin 72) (b : BitVec 52) (off : Nat) => (s.dev.cq c.val).wait = .beat b off ∧ s.dev.offReached b off = true) wWaiting 0 2900 100) ∧
    ((fun (s : State) (c : Fin 72) (x : Ctx) (f : Fetched) => s.dev.issues c.val 0x04 x f ∧ x.site < s.dev.sites.length ∧ fld f.bytes 8 1 = 0xFF ∨ fld f.bytes 8 1 = x.core) (wCmd (wCommand 4 0 0 [0xFF, 12])) 0 wInsCtx ⟨0, (wCommand 4 0 0 [0xFF, 12]), none⟩) ∧
    ((fun (s : State) (c : Fin 72) (x : Ctx) (f : Fetched) => s.dev.issues c.val 0x04 x f ∧ fld f.bytes 8 1 ≠ 0xFF ∧ fld f.bytes 8 1 ≠ x.core) (wCmd2 (wCommand 4 0 0 [1, 12])) 0 wInsCtx2 ⟨0, wCommand 4 0 0 [1, 12], none⟩) ∧
    ((fun (s : State) (c : Fin 72) (x : Ctx) (f : Fetched) => s.dev.issues c.val 0x05 x f ∧ s.dev.flagUp x.site (fld f.bytes 8 1) = true) (wFlagged <| wCmd (wCommand 5 0 0 [5])) 0 wInsCtx ⟨0, (wCommand 5 0 0 [5]), none⟩) ∧
    ((fun (s : State) (c : Fin 72) (x : Ctx) (f : Fetched) => s.dev.issues c.val 0x05 x f ∧ s.dev.flagUp x.site (fld f.bytes 8 1) = false) (wFlagged <| wCmd (wCommand 5 0 0 [6])) 0 wInsCtx ⟨0, (wCommand 5 0 0 [6]), none⟩) := by
  refine ⟨?_, ?_, ?_, ?_, ?_, ?_, ?_, ?_, ?_⟩ <;> decide

/-- The hypotheses of `Obligations.MoverCommandsStayPending` hold together, clause by clause. -/
theorem test_hypotheses_MoverCommandsStayPending :
    ((fun (s : State) (c : Fin 72) (x : Ctx) (f : Fetched) => s.dev.issues c.val 0x20 x f ∧ x.mayRead s.dev (fld (x.resolve f.bytes) 8 8) (fld (x.resolve f.bytes) 24 4) = true ∧ s.dev.canWrite x.p x.core x.site (fld (x.resolve f.bytes) 16 8) (fld (x.resolve f.bytes) 24 4) = true ∧ s.dev.mem.poisoned? (fld (x.resolve f.bytes) 8 8) (fld (x.resolve f.bytes) 24 4) = none ∧ s.dev.mem.poisoned? (fld (x.resolve f.bytes) 16 8) (fld (x.resolve f.bytes) 24 4) = none ∧ s.dev.wipeHolds (fld (x.resolve f.bytes) 8 8) (fld (x.resolve f.bytes) 24 4) = false ∧ s.dev.wipeHolds (fld (x.resolve f.bytes) 16 8) (fld (x.resolve f.bytes) 24 4) = false ∧ s.dev.waysFree c.val (fld (x.resolve f.bytes) 16 8) (min (fld (x.resolve f.bytes) 24 4) 0x200000) = true ∧ (∀ k, k ≤ fld (x.resolve f.bytes) 24 4 → pendOk (cellSetAll (s.dev.cq c.val).pend (fld (x.resolve f.bytes) 16 8) ((s.dev.view c.val (fld (x.resolve f.bytes) 8 8) (fld (x.resolve f.bytes) 24 4)).take k)) = true)) (wCmd (wCommand 0x20 0 0 [0, 0, 0x10, 0, 0, 0, 0, 0, 0, 0, 0x10, 0, 0x20, 0, 0, 0, 12])) 0 wInsCtx ⟨0, (wCommand 0x20 0 0 [0, 0, 0x10, 0, 0, 0, 0, 0, 0, 0, 0x10, 0, 0x20, 0, 0, 0, 12]), none⟩) ∧
    ((fun (s : State) (c : Fin 72) (x : Ctx) (f : Fetched) => s.dev.issues c.val 0x20 x f ∧ x.mayRead s.dev (fld (x.resolve f.bytes) 8 8) (fld (x.resolve f.bytes) 24 4) = true ∧ s.dev.canWrite x.p x.core x.site (fld (x.resolve f.bytes) 16 8) (fld (x.resolve f.bytes) 24 4) = false) (wCmd (wCommand 0x20 0 0 [0, 0, 0x10, 0, 0, 0, 0, 0, 0, 0, 0x40, 0, 0, 0, 0, 0, 12])) 0 wInsCtx ⟨0, (wCommand 0x20 0 0 [0, 0, 0x10, 0, 0, 0, 0, 0, 0, 0, 0x40, 0, 0, 0, 0, 0, 12]), none⟩) ∧
    ((fun (s : State) (c : Fin 72) (x : Ctx) (f : Fetched) => s.dev.issues c.val 0x21 x f ∧ fld (x.resolve f.bytes) 16 1 ≠ 5 ∧ atomOk (fld (x.resolve f.bytes) 16 1) (fld (x.resolve f.bytes) 17 1) = true ∧ fld (x.resolve f.bytes) 8 8 % atomBytes (fld (x.resolve f.bytes) 17 1) = 0 ∧ (x.p.img.layout.atomicAt (fld (x.resolve f.bytes) 8 8) (fld (x.resolve f.bytes) 18 2 * atomBytes (fld (x.resolve f.bytes) 17 1)) (fld (x.resolve f.bytes) 17 1)).isSome = true ∧ x.inOwn (fld (x.resolve f.bytes) 24 8) (fld (x.resolve f.bytes) 18 2 * atomBytes (fld (x.resolve f.bytes) 17 1)) = true ∧ 1 ≤ x.p.maxOf 2 ∧ (s.dev.cq c.val).log.length + fld (x.resolve f.bytes) 18 2 ≤ 16384 ∧ s.dev.wipeHolds (fld (x.resolve f.bytes) 24 8) (fld (x.resolve f.bytes) 18 2 * atomBytes (fld (x.resolve f.bytes) 17 1)) = false ∧ readPoison s.dev.mem (s.dev.cq c.val).pend (fld (x.resolve f.bytes) 24 8) (fld (x.resolve f.bytes) 18 2 * atomBytes (fld (x.resolve f.bytes) 17 1)) = none ∧ pendOk (s.dev.cq c.val).pend = true) (wAtomic wAtomCmd) 0 wAtomCtx ⟨0, wAtomCmd, none⟩) := by
  refine ⟨?_, ?_, ?_⟩ <;> decide

/-- The hypotheses of `Obligations.TransfersAreHeldToTheCommit` hold together, clause by clause. -/
theorem test_hypotheses_TransfersAreHeldToTheCommit :
    ((fun (s : State) (c : Fin 72) (x : Ctx) (f : Fetched) => s.dev.issues c.val 0x31 x f ∧ s.dev.lnk.sends.length < 256 ∧ (s.dev.lnk.sends.filter (fun j => j.handle == x.p.handle)).length < x.p.maxOf 4 ∧ s.dev.peerOk (fld (x.resolve f.bytes) 8 2) = true ∧ x.p.stackRead (fld (x.resolve f.bytes) 16 8) (fld (x.resolve f.bytes) 24 4) = true) (wMesh <| wCmd wSendCmd) 0 wInsCtx ⟨0, wSendCmd, none⟩) ∧
    ((fun (s : State) (c : Fin 72) (x : Ctx) (f : Fetched) => s.dev.issues c.val 0x31 x f ∧ s.dev.lnk.sends.length < 256 ∧ (s.dev.lnk.sends.filter (fun j => j.handle == x.p.handle)).length < x.p.maxOf 4 ∧ s.dev.peerOk (fld (x.resolve f.bytes) 8 2) = false) (wCmd wSendCmd) 0 wInsCtx ⟨0, wSendCmd, none⟩) ∧
    ((fun (s : State) (c : Fin 72) (x : Ctx) (f : Fetched) => s.dev.issues c.val 0x32 x f ∧ (s.dev.lnk.recvs.filter s.dev.recvOpen).length < 256 ∧ ((s.dev.lnk.recvs.filter s.dev.recvOpen).filter (fun j => j.handle == x.p.handle)).length < x.p.maxOf 5 ∧ s.dev.peerOk (fld (x.resolve f.bytes) 8 2) = true ∧ s.dev.stackWrite x.p (fld (x.resolve f.bytes) 16 8) (fld (x.resolve f.bytes) 24 4) = true ∧ (∀ j ∈ s.dev.lnk.recvs, ¬ (j.core = c.val ∧ j.handle = x.p.handle ∧ j.idx = f.idx)) ∧ (∀ r ∈ s.dev.lnk.requests, ¬ (r.peer = BitVec.ofNat 15 (fld (x.resolve f.bytes) 8 2) ∧ r.channel = BitVec.ofNat 16 (fld (x.resolve f.bytes) 10 2)))) (wMesh <| wCmd wRecvCmd) 0 wInsCtx ⟨0, wRecvCmd, none⟩) ∧
    ((fun (s : State) (c : Fin 72) (x : Ctx) (f : Fetched) (sh : List (Nat × Nat)) => s.dev.issues c.val 0x30 x f ∧ (s.dev.col.jobs.filter (fun j => !j.completed)).length < 32 ∧ (s.dev.col.jobs.filter (fun j => j.handle == x.p.handle && !j.completed)).length < x.p.maxOf 3 ∧ bitsOf (fld (x.resolve f.bytes) 8 2) 15 12 ≠ 0 ∧ s.dev.lnk.shapes s.dev.coord (fld (x.resolve f.bytes) 8 2) = some sh ∧ collBad s.dev x.p (x.resolve f.bytes) (collParams (x.resolve f.bytes) (groupSize sh)) (rankOf sh) = none) (wMesh <| wCmd wCollCmd) 0 wInsCtx ⟨0, wCollCmd, none⟩ [(0, 2), (0, 1), (0, 1), (0, 1)]) ∧
    ((fun (s : State) (c : Fin 72) (x : Ctx) (f : Fetched) (room : Nat) => s.dev.issues c.val 0x40 x f ∧ (s.dev.slv.filter (·.inService)).length = 4 ∧ s.dev.solves.length < 64 ∧ (s.dev.solves.filter (fun j => j.handle == x.p.handle)).length < x.p.maxOf 6 ∧ solveOk x (x.resolve f.bytes) = true ∧ s.dev.resultBytes (fld (x.resolve f.bytes) 8 1) (fld (x.resolve f.bytes) 10 2) (fld (x.resolve f.bytes) 12 2) (fld (x.resolve f.bytes) 16 8) = room ∧ room ≤ 16 * 2 ^ 20 ∧ fld (x.resolve f.bytes) 24 8 % 4096 = 0 ∧ s.dev.stackWrite x.p (fld (x.resolve f.bytes) 24 8) (4096 + room) = true ∧ fld f.bytes 16 8 % 64 = 0 ∧ s.dev.privateRead x.p (fld (x.resolve f.bytes) 16 8) (fld (x.resolve f.bytes) 12 2 * solveItem (fld (x.resolve f.bytes) 8 1) (fld (x.resolve f.bytes) 10 2)) = true ∧ fld (x.resolve f.bytes) 40 8 % 64 = 0 ∧ s.dev.privateRead x.p (fld (x.resolve f.bytes) 40 8) 32 = true) (wCmd wSolveCmd) 0 wInsCtx ⟨0, wSolveCmd, none⟩ 64) := by
  refine ⟨?_, ?_, ?_, ?_, ?_⟩ <;> decide

/-- The hypotheses of `Obligations.VentsBreaksAndCompletions` hold together, clause by clause. -/
theorem test_hypotheses_VentsBreaksAndCompletions :
    ((fun (s : State) (c : Fin 72) (p : Plan) (site i : Nat) (f : Fetched) => s.dev.ventCmd? c.val = some (p, site, f) ∧ (p.ventsOf (p.planCore c.val))[(s.dev.cq c.val).vents]? = some i ∧ p.earlyOf (p.vent i).step f = none ∧ p.nextNode (p.planCore c.val) = some (.vent i) ∧ s.dev.offReached p.base (p.stepOff (p.vent i).step + (p.vent i).ventOff) = true ∧ 4 ≤ (s.dev.site site).lbk.grant.toNat ∧ fld f.bytes 12 4 = (p.vent i).len) (wVent 4) 0 wVentPlan 0 0 ⟨0, wVentCmd, none⟩) ∧
    ((fun (s : State) (c : Fin 72) (p : Plan) (site i : Nat) (f : Fetched) => s.dev.ventCmd? c.val = some (p, site, f) ∧ (p.ventsOf (p.planCore c.val))[(s.dev.cq c.val).vents]? = some i ∧ p.earlyOf (p.vent i).step f = none ∧ p.nextNode (p.planCore c.val) = some (.vent i) ∧ s.dev.offReached p.base (p.stepOff (p.vent i).step + (p.vent i).ventOff) = true ∧ (s.dev.site site).lbk.grant.toNat < 4) (wVent 3) 0 wVentPlan 0 0 ⟨0, wVentCmd, none⟩) ∧
    ((fun (s : State) (c : Fin 72) (idx : Nat) (x : Ctx) (g : Flight) => (s.dev.cq c.val).vent = none ∧ s.dev.ctx? c.val = some x ∧ s.dev.endedFlight? c.val idx = some g) wFlying 0 0 wInsCtx wFlight) ∧
    ((fun (s : State) (c : Fin 72) (idx : Nat) (x : Ctx) (f : Fetched) (st : BitVec 16) (cf : BitVec 8) => (s.dev.cq c.val).vent = none ∧ s.dev.ctx? c.val = some x ∧ s.dev.endedFlight? c.val idx = none ∧ s.dev.nextCmd? x = some f ∧ f.idx = idx ∧ s.dev.unitFree c.val f.bytes = true ∧ f.early = some (st, cf)) wEarly 0 0 wInsCtx ⟨0, wCommand 0x7F 0 0 [], some (0x0100, 0)⟩ 0x0100 0) ∧
    ((fun (s : State) (c : Fin 72) (idx : Nat) (x : Ctx) (f : Fetched) => (s.dev.cq c.val).vent = none ∧ s.dev.ctx? c.val = some x ∧ s.dev.endedFlight? c.val idx = none ∧ s.dev.nextCmd? x = some f ∧ f.idx = idx ∧ f.early = none ∧ x.p.skips x.chunk.step f.bytes = true) wSkipped 0 1 wSkipCtx ⟨1, wSkippedCmd, none⟩) ∧
    ((fun (s : State) (c : Fin 72) (p : Plan) => s.dev.planOf c.val = some p ∧ (s.dev.cq c.val).regs.frozen = false ∧ (s.dev.cq c.val).regs.halted = false ∧ (s.dev.cq c.val).regs.brkCountEn = true ∧ (s.dev.cq c.val).brkDue = true ∧ p.state = .running) wBreak 0 wInsPlan) ∧
    ((fun (s : State) (site : Fin 80) => (s.dev.site site.val).lbk.holding = true ∧ (s.dev.site site.val).lbk.hold = 0) wHolding 3) := by
  refine ⟨?_, ?_, ?_, ?_, ?_, ?_, ?_⟩ <;> decide

/-- The hypotheses of `Obligations.RampGovernorStaysInItsAllowance` hold together, clause by clause. -/
theorem test_hypotheses_RampGovernorStaysInItsAllowance :
    ((fun (s : State) => (∀ i : Fin 80, (s.dev.site i.val).lbk.request ≤ 4)) wDemands) := by
  decide

/-- The hypotheses of `Obligations.StationarySetsAndDummies` hold together, clause by clause. -/
theorem test_hypotheses_StationarySetsAndDummies :
    ((fun (s : State) (c : Fin 72) (x : Ctx) (f : Fetched) => s.dev.issues c.val 0x10 x f ∧ x.site < s.dev.sites.length ∧ wloadOk (loadSrcOf (x.resolve f.bytes)) = true ∧ (∀ r ∈ wloadRanges (loadSrcOf (x.resolve f.bytes)), x.mayRead s.dev r.1 r.2 = true) ∧ pendOk (s.dev.cq c.val).pend = true ∧ s.dev.clean (wloadRanges (loadSrcOf (x.resolve f.bytes)))) (wCmd wLoadCmd) 0 wInsCtx ⟨0, wLoadCmd, none⟩) ∧
    ((fun (s : State) (c : Fin 72) (x : Ctx) (f : Fetched) => s.dev.issues c.val 0x10 x f ∧ x.site < s.dev.sites.length ∧ s.dev.sound x.site) (wCmd wLoadCmd) 0 wInsCtx ⟨0, wLoadCmd, none⟩) ∧
    ((fun (s : State) (c : Fin 72) (x : Ctx) (f : Fetched) => s.dev.issues c.val 0x11 x f ∧ x.site < s.dev.sites.length) (wCmd (wCommand 0x11 0 0 [])) 0 wInsCtx ⟨0, (wCommand 0x11 0 0 []), none⟩) ∧
    ((fun (s : State) (c : Fin 72) (x : Ctx) (f : Fetched) => s.dev.issues c.val 0x01 x f ∧ x.site < s.dev.sites.length) (wCmd (wCommand 1 0 0 [100, 0, 0, 0, 3])) 0 wInsCtx ⟨0, (wCommand 1 0 0 [100, 0, 0, 0, 3]), none⟩) := by
  refine ⟨?_, ?_, ?_, ?_⟩ <;> decide

/-- The hypotheses of `Obligations.MmaAddsIntoItsRows` hold together, clause by clause. -/
theorem test_hypotheses_MmaAddsIntoItsRows :
    ((fun (s : State) (c : Fin 72) (x : Ctx) (f : Fetched) => s.dev.issues c.val 0x12 x f ∧ astream? (x.resolve f.bytes) = none ∧ (s.dev.site x.site).lbk.activeSet.summed ∧ fld (x.resolve f.bytes) 26 1 ≤ 1 ∧ (s.dev.site x.site).lbk.activeSet.st = .ready ∧ mmaOk (s.dev.site x.site).lbk.activeSet (x.resolve f.bytes) = true ∧ anchorClash (s.dev.site x.site).acc (x.resolve f.bytes) = false ∧ (s.dev.site x.site).lbk.grant ≠ 0 ∧ (∀ r < fld (x.resolve f.bytes) 30 2, ∀ g ∈ mmaRanges (s.dev.site x.site).lbk.activeSet (x.resolve f.bytes) r [], x.mayRead s.dev g.1 g.2 = true) ∧ (∀ r < fld (x.resolve f.bytes) 30 2, s.dev.clean (mmaRanges (s.dev.site x.site).lbk.activeSet (x.resolve f.bytes) r [])) ∧ pendOk (s.dev.cq c.val).pend = true) (wMma wMmaCmd) 0 wInsCtx ⟨0, wMmaCmd, none⟩) ∧
    ((fun (s : State) (c : Fin 72) (x : Ctx) (f : Fetched) => s.dev.issues c.val 0x12 x f ∧ mmaOk (s.dev.site x.site).lbk.activeSet (x.resolve f.bytes) = true ∧ anchorClash (s.dev.site x.site).acc (x.resolve f.bytes) = true) (wClash wMmaAcc) 0 wInsCtx ⟨0, wMmaAcc, none⟩) ∧
    ((fun (s : State) (c : Fin 72) (x : Ctx) (f : Fetched) => s.dev.issues c.val 0x12 x f ∧ x.site < s.dev.sites.length ∧ s.dev.sound x.site) (wMma wMmaCmd) 0 wInsCtx ⟨0, wMmaCmd, none⟩) ∧
    ((fun (s : State) (c : Fin 72) (x : Ctx) (f : Fetched) => s.dev.issues c.val 0x12 x f ∧ x.site < s.dev.sites.length ∧ s.dev.sound x.site) (wMma wMmaCmd) 0 wInsCtx ⟨0, wMmaCmd, none⟩) := by
  refine ⟨?_, ?_, ?_, ?_⟩ <;> decide

theorem test_accumulator_cases :
    ((({} : AccEnt).st = .normal ∧ -2 ^ 103 ≤ ({} : AccEnt).n.toInt + 5 ∧ ({} : AccEnt).n.toInt + 5 < 2 ^ 103) ∧
    (({ n := BitVec.ofInt 104 (2 ^ 103 - 1) } : AccEnt).st = .normal ∧ 2 ^ 103 ≤ ({ n := BitVec.ofInt 104 (2 ^ 103 - 1) } : AccEnt).n.toInt + 1) ∧
    ({ n := BitVec.ofInt 104 (-2 ^ 103) } : AccEnt).n.toInt + (-1) < -2 ^ 103 ∧ ({ st := .sat } : AccEnt).st ≠ .normal) := by decide

/-- The hypotheses of `Obligations.OutputAndMatrixVectorCommandsComplete` hold together, clause by clause. -/
theorem test_hypotheses_OutputAndMatrixVectorCommandsComplete :
    ((fun (s : State) (c : Fin 72) (x : Ctx) (f : Fetched) => s.dev.issues c.val 0x15 x f ∧ x.site < s.dev.sites.length ∧ astream? (x.resolve f.bytes) = none ∧ 1 ≤ (drainCmd (x.resolve f.bytes)).fmt ∧ (drainCmd (x.resolve f.bytes)).fmt ≤ 10 ∧ (drainCmd (x.resolve f.bytes)).ok = true ∧ (drainCmd (x.resolve f.bytes)).overlaps (x.resolve f.bytes) = false ∧ (∀ r ∈ (drainCmd (x.resolve f.bytes)).reads (x.resolve f.bytes), x.inOwn r.1 r.2 = true) ∧ (∀ r ∈ (drainCmd (x.resolve f.bytes)).writes (x.resolve f.bytes), x.outOk r.1 r.2) ∧ s.dev.clean ((drainCmd (x.resolve f.bytes)).reads (x.resolve f.bytes) ++ (drainCmd (x.resolve f.bytes)).writes (x.resolve f.bytes)) ∧ s.dev.room c.val (((drainCmd (x.resolve f.bytes)).writes (x.resolve f.bytes)).map (·.2)).sum) (wCmd wDrainCmd) 0 wInsCtx ⟨0, wDrainCmd, none⟩) ∧
    ((fun (s : State) (c : Fin 72) (x : Ctx) (f : Fetched) => s.dev.issues c.val 0x13 x f ∧ x.site < s.dev.sites.length ∧ astream? (x.resolve f.bytes) = none ∧ (mmvCmd (x.resolve f.bytes)).ok = true ∧ inOwnStack x (fld (x.resolve f.bytes) 8 8) (fld (x.resolve f.bytes) 38 2 * ((mmvCmd (x.resolve f.bytes)).elemBytes + (mmvCmd (x.resolve f.bytes)).recsBytes)) = true ∧ x.mayRead s.dev (fld (x.resolve f.bytes) 8 8) (fld (x.resolve f.bytes) 38 2 * ((mmvCmd (x.resolve f.bytes)).elemBytes + (mmvCmd (x.resolve f.bytes)).recsBytes)) = true ∧ (∀ r < fld (x.resolve f.bytes) 38 2, x.mayRead s.dev (fld (x.resolve f.bytes) 8 8 + r * (mmvCmd (x.resolve f.bytes)).elemBytes) (mmvCmd (x.resolve f.bytes)).elemBytes = true ∧ x.mayRead s.dev (fld (x.resolve f.bytes) 8 8 + fld (x.resolve f.bytes) 38 2 * (mmvCmd (x.resolve f.bytes)).elemBytes + r * (mmvCmd (x.resolve f.bytes)).recsBytes) (mmvCmd (x.resolve f.bytes)).recsBytes = true) ∧ x.inOwn (fld (x.resolve f.bytes) 16 8) (2 * fld (x.resolve f.bytes) 40 4) = true ∧ x.outOk (fld (x.resolve f.bytes) 24 8) (4 * fld (x.resolve f.bytes) 38 2) ∧ meets (fld (x.resolve f.bytes) 16 8) (2 * fld (x.resolve f.bytes) 40 4) (fld (x.resolve f.bytes) 24 8) (4 * fld (x.resolve f.bytes) 38 2) = false ∧ s.dev.clean [(fld (x.resolve f.bytes) 8 8, fld (x.resolve f.bytes) 38 2 * ((mmvCmd (x.resolve f.bytes)).elemBytes + (mmvCmd (x.resolve f.bytes)).recsBytes)), (fld (x.resolve f.bytes) 16 8, 2 * fld (x.resolve f.bytes) 40 4), (fld (x.resolve f.bytes) 24 8, 4 * fld (x.resolve f.bytes) 38 2)] ∧ s.dev.room c.val (4 * fld (x.resolve f.bytes) 38 2)) (wCmd wMmvCmd) 0 wInsCtx ⟨0, wMmvCmd, none⟩) ∧
    ((fun (s : State) (c : Fin 72) (x : Ctx) (f : Fetched) => s.dev.issues c.val 0x13 x f ∧ x.site < s.dev.sites.length ∧ s.dev.sound x.site) (wCmd wMmvCmd) 0 wInsCtx ⟨0, wMmvCmd, none⟩) ∧
    ((fun (s : State) (c : Fin 72) (x : Ctx) (f : Fetched) => s.dev.issues c.val 0x14 x f ∧ astream? (x.resolve f.bytes) = none ∧ (s.dev.site x.site).lbk.grant ≠ 0 ∧ (∀ a ∈ fld (x.resolve f.bytes) 8 8 :: (if elemUsesSrc1 (fld (x.resolve f.bytes) 32 1) then [fld (x.resolve f.bytes) 16 8] else []), x.inOwn a (fld (x.resolve f.bytes) 36 4 * (elemCmd (x.resolve f.bytes)).w) = true ∧ (elemCmd (x.resolve f.bytes)).overlap a (fld (x.resolve f.bytes) 24 8) = false ∧ s.dev.clean [(a, fld (x.resolve f.bytes) 36 4 * (elemCmd (x.resolve f.bytes)).w)]) ∧ x.outOk (fld (x.resolve f.bytes) 24 8) (fld (x.resolve f.bytes) 36 4 * (elemCmd (x.resolve f.bytes)).wo) ∧ s.dev.clean [(fld (x.resolve f.bytes) 24 8, fld (x.resolve f.bytes) 36 4 * (elemCmd (x.resolve f.bytes)).wo)] ∧ s.dev.room c.val (fld (x.resolve f.bytes) 36 4 * (elemCmd (x.resolve f.bytes)).wo)) (wGranted wElemCmd) 0 wInsCtx ⟨0, wElemCmd, none⟩) ∧
    ((fun (s : State) (c : Fin 72) (x : Ctx) (f : Fetched) => s.dev.issues c.val 0x14 x f ∧ x.site < s.dev.sites.length ∧ s.dev.sound x.site) (wCmd wElemCmd) 0 wInsCtx ⟨0, wElemCmd, none⟩) := by
  refine ⟨?_, ?_, ?_, ?_, ?_⟩ <;> decide

/-- The hypotheses of `Obligations.QuantiserCommandsComplete` hold together, clause by clause. -/
theorem test_hypotheses_QuantiserCommandsComplete :
    ((fun (s : State) (c : Fin 72) (x : Ctx) (f : Fetched) => s.dev.issues c.val 0x16 x f ∧ x.site < s.dev.sites.length ∧ astream? (x.resolve f.bytes) = none ∧ quantOk (s.dev.site x.site).qnt.histN.toNat (x.resolve f.bytes) = true ∧ anyOverlap (quantRanges (x.resolve f.bytes) (fld (x.resolve f.bytes) 40 4) [fld (x.resolve f.bytes) 8 8, fld (x.resolve f.bytes) 16 8, fld (x.resolve f.bytes) 24 8, fld (x.resolve f.bytes) 44 8]) = false ∧ x.inOwn (fld (x.resolve f.bytes) 8 8) (fld (x.resolve f.bytes) 40 4 * wideBytes (fld (x.resolve f.bytes) 32 1)) = true ∧ (∀ r ∈ (quantRanges (x.resolve f.bytes) (fld (x.resolve f.bytes) 40 4) [fld (x.resolve f.bytes) 8 8, fld (x.resolve f.bytes) 16 8, fld (x.resolve f.bytes) 24 8, fld (x.resolve f.bytes) 44 8]).tail, x.outOk r.1 r.2) ∧ s.dev.clean (quantRanges (x.resolve f.bytes) (fld (x.resolve f.bytes) 40 4) [fld (x.resolve f.bytes) 8 8, fld (x.resolve f.bytes) 16 8, fld (x.resolve f.bytes) 24 8, fld (x.resolve f.bytes) 44 8]) ∧ (fld (x.resolve f.bytes) 56 2 ≠ 0xFFFF → s.dev.clean [((s.dev.site x.site).qnt.histBase.toNat + 512 * fld (x.resolve f.bytes) 56 2, 512)]) ∧ s.dev.room c.val (((quantRanges (x.resolve f.bytes) (fld (x.resolve f.bytes) 40 4) [fld (x.resolve f.bytes) 8 8, fld (x.resolve f.bytes) 16 8, fld (x.resolve f.bytes) 24 8, fld (x.resolve f.bytes) 44 8]).tail).map (·.2)).sum) (wCmd wQuantCmd) 0 wInsCtx ⟨0, wQuantCmd, none⟩) ∧
    ((fun (s : State) (c : Fin 72) (x : Ctx) (f : Fetched) => s.dev.issues c.val 0x16 x f ∧ s.dev.sound x.site) (wCmd wQuantCmd) 0 wInsCtx ⟨0, wQuantCmd, none⟩) ∧
    ((fun (s : State) (c : Fin 72) (x : Ctx) (f : Fetched) => s.dev.issues c.val 0x17 x f ∧ astream? (x.resolve f.bytes) = none ∧ fld (x.resolve f.bytes) 32 1 ≤ 8 ∧ 9 ≤ fld (x.resolve f.bytes) 33 1 ∧ fld (x.resolve f.bytes) 33 1 ≤ 10 ∧ countOk (fld (x.resolve f.bytes) 40 4) (groupOf (fld (x.resolve f.bytes) 34 1)) (fld (x.resolve f.bytes) 35 1) = true ∧ anyOverlap (deqRanges (x.resolve f.bytes) (fld (x.resolve f.bytes) 40 4) [fld (x.resolve f.bytes) 8 8, fld (x.resolve f.bytes) 16 8, fld (x.resolve f.bytes) 24 8]) = false ∧ (∀ r ∈ (deqRanges (x.resolve f.bytes) (fld (x.resolve f.bytes) 40 4) [fld (x.resolve f.bytes) 8 8, fld (x.resolve f.bytes) 16 8, fld (x.resolve f.bytes) 24 8]).take 2, x.inOwn r.1 r.2 = true) ∧ x.outOk (fld (x.resolve f.bytes) 24 8) (fld (x.resolve f.bytes) 40 4 * wideBytes (fld (x.resolve f.bytes) 33 1)) ∧ s.dev.clean (deqRanges (x.resolve f.bytes) (fld (x.resolve f.bytes) 40 4) [fld (x.resolve f.bytes) 8 8, fld (x.resolve f.bytes) 16 8, fld (x.resolve f.bytes) 24 8]) ∧ s.dev.room c.val (fld (x.resolve f.bytes) 40 4 * wideBytes (fld (x.resolve f.bytes) 33 1))) (wCmd wDeqCmd) 0 wInsCtx ⟨0, wDeqCmd, none⟩) ∧
    ((fun (s : State) (c : Fin 72) (x : Ctx) (f : Fetched) => s.dev.issues c.val 0x18 x f ∧ astream? (x.resolve f.bytes) = none ∧ (!isBlock (fld (x.resolve f.bytes) 24 1) || fld (x.resolve f.bytes) 28 4 % groupOf (fld (x.resolve f.bytes) 27 1) == 0) = true ∧ anyOverlap [(fld (x.resolve f.bytes) 8 8, statsBytes (x.resolve f.bytes)), (fld (x.resolve f.bytes) 16 8, 16)] = false ∧ x.inOwn (fld (x.resolve f.bytes) 8 8) (statsBytes (x.resolve f.bytes)) = true ∧ x.outOk (fld (x.resolve f.bytes) 16 8) 16 ∧ s.dev.clean [(fld (x.resolve f.bytes) 8 8, statsBytes (x.resolve f.bytes)), (fld (x.resolve f.bytes) 16 8, 16)] ∧ s.dev.room c.val 16) (wCmd wStatsCmd) 0 wInsCtx ⟨0, wStatsCmd, none⟩) ∧
    ((fun (s : State) (c : Fin 72) (x : Ctx) (f : Fetched) => s.dev.issues c.val 0x18 x f ∧ astream? (x.resolve f.bytes) = none ∧ anyOverlap [(fld (x.resolve f.bytes) 8 8, statsBytes (x.resolve f.bytes)), (fld (x.resolve f.bytes) 16 8, 16)] = true) (wCmd wStatsBad) 0 wInsCtx ⟨0, wStatsBad, none⟩) := by
  refine ⟨?_, ?_, ?_, ?_, ?_⟩ <;> decide

/-- The hypotheses of `Obligations.FlitsAreTakenOrRefused` hold together, clause by clause. -/
theorem test_hypotheses_FlitsAreTakenOrRefused :
    ((fun (s : State) (port : Fin 24) (f : Flit) (bs : List Byte) => (s.dev.port port.val).state = .up ∧ (s.dev.port port.val).codewordGood true = true ∧ f.type = 1 ∧ f.seq = (s.dev.port port.val).rxNext ∧ f.dest = s.dev.coord ∧ f.body = .data bs) (wPorts [0, 8] wRuns) 8 wDataFlit [1, 2]) ∧
    ((fun (s : State) (port : Fin 24) (delimOk crcOk : Bool) (f : Flit) => (s.dev.port port.val).state = .up ∧ (s.dev.port port.val).codewordGood false = false ∧ (s.dev.port port.val).nakAt = none) (wPorts [0, 8] wRuns) 8 true false wDataFlit) ∧
    ((fun (s : State) (port : Fin 24) (f : Flit) (m : Marker) => (s.dev.port port.val).state = .up ∧ (s.dev.port port.val).markTx = some f ∧ f.body = .marker m) (wPortOf 8 (fun q => { q with markTx := some wMarkFlit })) 8 wMarkFlit wMark) ∧
    ((fun (s : State) (port : Fin 24) (f : Flit) (rest : List Flit) => (s.dev.port port.val).state = .up ∧ (s.dev.port port.val).markTx = none ∧ (s.dev.port port.val).linkTx = [] ∧ (s.dev.port port.val).resend = [] ∧ (s.dev.port port.val).ctlTx = [] ∧ (s.dev.port port.val).bulkTx = f :: rest ∧ f.type = 1 ∧ 0 < (s.dev.port port.val).credits.getD (b2n f.vc) 0 ∧ (s.dev.port port.val).replay.length < 2048 ∧ s.dev.since (s.dev.port port.val).ackAt = 0) (wPortOf 8 (fun q => { q with bulkTx := [wDataFlit], txSeq := 9 })) 8 wDataFlit []) ∧
    ((fun (s : State) (port : Fin 24) (f : Flit) => (s.dev.port port.val).state = .up ∧ (s.dev.port port.val).markTx = none ∧ (s.dev.port port.val).linkTx = [] ∧ (s.dev.port port.val).resend = [] ∧ (s.dev.port port.val).ctlTx = [] ∧ (s.dev.port port.val).bulkTx = [f] ∧ f.type = 1 ∧ (s.dev.port port.val).credits.getD (b2n f.vc) 0 = 0 ∧ s.dev.since (s.dev.port port.val).ackAt = 0) (wPortOf 8 (fun q => { q with bulkTx := [wDataFlit], credits := [0, 0, 0, 0] })) 8 wDataFlit) ∧
    ((fun (s : State) (port : Fin 24) => (s.dev.port port.val).state = .up ∧ (s.dev.port port.val).markTx = none ∧ (s.dev.port port.val).linkTx = [] ∧ (s.dev.port port.val).replay.length < 2048 ∧ 1 ≤ s.dev.since (s.dev.port port.val).ackAt) (wPortOf 8 (fun q => { q with freed := [3, 0, 1, 0], ackAt := -1 })) 8) ∧
    ((fun (s : State) (port : Fin 24) (f : Flit) => (s.dev.port port.val).state = .up ∧ (s.dev.port port.val).codewordGood true = true ∧ f.type = 2 ∧ f.seq = (s.dev.port port.val).rxNext ∧ f.body = .ack) (wPorts [0, 8] wRuns) 8 { type := 2, body := .ack, seq := ((wPorts [0, 8] wRuns).dev.port 8).rxNext, credit := [5, 0, 0, 1] }) ∧
    ((fun (s : State) (port : Fin 24) => (s.dev.port port.val).state = .up ∧ (s.dev.port port.val).markTx = none ∧ (s.dev.port port.val).linkTx = [] ∧ (s.dev.port port.val).resend = [] ∧ (s.dev.port port.val).ctlTx = [] ∧ (s.dev.port port.val).bulkTx = [] ∧ s.dev.since (s.dev.port port.val).ackAt = 0) (wPorts [8] wRuns) 8) := by
  refine ⟨?_, ?_, ?_, ?_, ?_, ?_, ?_, ?_⟩ <;> decide

/-- The hypotheses of `Obligations.ReplayLanesAndFailover` hold together, clause by clause. -/
theorem test_hypotheses_ReplayLanesAndFailover :
    ((fun (s : State) (port : Fin 24) (f : Flit) (q : BitVec 16) (rest : List (Nat × Flit)) => s.dev.lnk.inbox = (port.val, f) :: rest ∧ f.body = .nak q ∧ (s.dev.port port.val).state = .up ∧ (s.dev.port port.val).replay.any (fun g => g.seq == q) = true ∧ (s.dev.port port.val).resentAt = none) wNaked 8 wNakFlit 4 []) ∧
    ((fun (s : State) (port : Fin 24) (b : BitVec 52) => (s.dev.port port.val).resentAt = some b ∧ (s.dev.port port.val).state = .up ∧ 16 < s.dev.since b ∧ (s.dev.port port.val).failures < 4) (wPortOf 8 (fun q => { q with resentAt := some (-20) })) 8 (-20)) ∧
    ((fun (s : State) (port : Fin 24) (lane : Fin 9) => (s.dev.port port.val).state = .up ∧ (s.dev.port port.val).laneLost = false ∧ lane.val < 8) (wPorts [8] wRuns) 8 3) ∧
    ((fun (s : State) (port : Fin 24) (ce : List Nat) (f : Flit) (l : BitVec 4) => (s.dev.port port.val).state = .up ∧ (s.dev.port port.val).codewordGood true = true ∧ (s.dev.port port.val).laneWait = some l ∧ f.mark = true ∧ f.type = 0 ∧ f.body = .idle) (wPortOf 8 (fun q => { q with laneWait := some 3 })) 8 [1] { type := 0, body := .idle, mark := true } 3) ∧
    ((fun (s : State) (port : Fin 24) (f : Flit) => (s.dev.port port.val).state = .up ∧ (s.dev.port port.val).markTx = some f ∧ (s.dev.port port.val).laneMark = true) (wPortOf 8 (fun q => { q with markTx := some wMarkFlit, laneMark := true, spareTx := 5 })) 8 wMarkFlit) ∧
    ((fun (s : State) (port : Fin 24) (lane : Fin 9) => (s.dev.port port.val).state = .up ∧ (s.dev.port port.val).laneLost = true ∧ ¬ (lane.val = 8 ∧ (s.dev.port port.val).spareLane = 0xE) ∧ (s.dev.port port.val).spareLane ≠ BitVec.ofNat 4 lane.val ∧ (s.dev.port port.val).laneWait ≠ some (BitVec.ofNat 4 lane.val)) (wPortOf 8 (fun q => { q with spareLane := 2 })) 8 3) ∧
    ((fun (s : State) (port : Fin 24) (f : Flit) (l : BitVec 4) (rest : List (Nat × Flit)) => s.dev.lnk.inbox = (port.val, f) :: rest ∧ f.body = .laneNotice l ∧ (s.dev.port port.val).state = .up ∧ (s.dev.port port.val).laneLost = false ∨ (s.dev.port port.val).spareTx = l) wLaneNoted 8 wLaneFlit 4 []) ∧
    ((fun (s : State) (port : Fin 24) (f : Flit) (l : BitVec 4) (rest : List (Nat × Flit)) => s.dev.lnk.inbox = (port.val, f) :: rest ∧ f.body = .laneNotice l ∧ (s.dev.port port.val).state = .up ∧ (s.dev.port port.val).laneLost = true ∧ (s.dev.port port.val).spareTx ≠ l) wLaneNotedTwice 8 wLaneFlit 4 []) ∧
    ((fun (s : State) (port : Fin 24) => (s.dev.port port.val).state = .up ∧ 4 ≤ (s.dev.port port.val).failures ∨ 4 ≤ (s.dev.port port.val).rxFails) (wPortOf 8 (fun q => { q with failures := 4, bulkTx := [wDataFlit] })) 8) ∧
    ((fun (s : State) (port : Fin 24) (f : Flit) (n : Nat) (rest : List (Nat × Flit)) => s.dev.lnk.inbox = (port.val, f) :: rest ∧ f.body = .portNotice n ∧ (s.dev.port (partnerPort n)).state = .up) wPortNoted 8 wNoticeFlit 16 []) ∧
    ((fun (s : State) (dir : Fin 8) => s.dev.runs 4 = true ∧ s.dev.lnk.lostDirs.contains (dir.val, none) = true) wLostDir 0) ∧
    ((fun (s : State) (dir : Fin 8) => s.dev.runs 4 = true ∧ s.dev.lnk.lostDirs.all (fun x => x.1 != dir.val) = true) wLostDir 3) ∧
    ((fun (s : State) (port : Fin 24) (t : TrainIn) => s.dev.runs 4 = true ∧ s.dev.domUp (128 + port.val) = true ∧ s.dev.lnk.retrainEn = true ∧ (s.dev.port port.val).state = .failed ∧ s.dev.crater? (unitId 4 port.val) = none ∧ 10000000 ≤ s.dev.since (s.dev.port port.val).trainAt ∧ s.dev.axisSize (axisOf (dirOf port.val)) ≠ 1) wFailedPort 0 wTrainIn) := by
  refine ⟨?_, ?_, ?_, ?_, ?_, ?_, ?_, ?_, ?_, ?_, ?_, ?_, ?_⟩ <;> decide

/-- The hypotheses of `Obligations.SendsMatchReceivesAndTransfer` hold together, clause by clause. -/
theorem test_hypotheses_SendsMatchReceivesAndTransfer :
    ((fun (s : State) (p : Nat) (f : Flit) (rest : List (Nat × Flit)) (n : Nat) (j : RecvJob) (js : List RecvJob) => s.dev.lnk.inbox = (p, f) :: rest ∧ f.body = .sendReq n ∧ s.dev.lnk.recvs = j :: js ∧ j.match? = none ∧ j.peer = f.src ∧ j.channel = f.channel ∧ s.dev.reaches f.src = true) wAsked 0 wAskFlit [] 100 wRecvJob []) ∧
    ((fun (s : State) (p : Nat) (f : Flit) (rest : List (Nat × Flit)) (n : Nat) => s.dev.lnk.inbox = (p, f) :: rest ∧ f.body = .sendReq n ∧ s.dev.lnk.recvs = [] ∧ s.dev.lnk.requests.length < 256) wAskedEarly 0 wAskFlit [] 100) ∧
    ((fun (s : State) (j : SendJob) (js : List SendJob) (b : BitVec 52) => s.dev.lnk.sends = j :: js ∧ j.state = .refused b ∧ 16 ≤ s.dev.since b ∧ s.dev.reaches j.peer = true) (wSending (.refused (-20))) (wSendJob (.refused (-20))) [] (-20)) ∧
    ((fun (s : State) (p : Nat) (f : Flit) (rest : List (Nat × Flit)) (n : Nat) (j : SendJob) (js : List SendJob) => s.dev.lnk.inbox = (p, f) :: rest ∧ f.body = .grant n ∧ s.dev.lnk.sends = j :: js ∧ j.state = .requested ∧ j.peer = f.src ∧ j.channel = f.channel ∧ js.all (fun k => k.peer != j.peer || k.channel != j.channel) = true) wGrantedSend 0 wGrantFlit [] 100 (wSendJob .requested) []) ∧
    ((fun (s : State) (p : Nat) (f : Flit) (rest : List (Nat × Flit)) (n : Nat) (j k : SendJob) (ks : List SendJob) => s.dev.lnk.inbox = (p, f) :: rest ∧ f.body = .grant n ∧ s.dev.lnk.sends = j :: k :: ks ∧ j.state = .requested ∧ j.peer = f.src ∧ j.channel = f.channel ∧ k.peer = j.peer ∧ k.channel = j.channel ∧ (k :: ks).all (fun i => i.state == .ready) = true) wGrantedTwo 0 wGrantFlit [] 100 (wSendJob .requested) (wSendJob .ready) [wSendJob .ready]) ∧
    ((fun (s : State) (p : Nat) (f : Flit) (rest : List (Nat × Flit)) (j : SendJob) (js : List SendJob) => s.dev.lnk.inbox = (p, f) :: rest ∧ f.body = .sendDone ∧ s.dev.lnk.sends = j :: js ∧ j.state = .sent ∧ j.peer = f.src ∧ j.channel = f.channel) wDoneSend 0 wDoneFlit [] (wSendJob .sent) []) ∧
    ((fun (s : State) (p : Nat) (f : Flit) (rest : List (Nat × Flit)) (bs : List Byte) (j : RecvJob) (js : List RecvJob) (n : Nat) => s.dev.lnk.inbox = (p, f) :: rest ∧ f.body = .data bs ∧ s.dev.lnk.recvs = j :: js ∧ j.match? = some n ∧ j.peer = f.src ∧ j.channel = f.channel ∧ s.dev.lnk.excess = [] ∧ j.got + bs.length < min n j.bytes) wReceiving 0 wBulkFlit [] [1, 2, 3] { wRecvJob with match? := some 100 } [] 100) ∧
    ((fun (s : State) (j : RecvJob) (js : List RecvJob) => s.dev.lnk.recvs = j :: js ∧ j.arrived = false ∧ j.timeout ≤ j.count ∧ j.expired = false ∧ j.core < s.dev.cqs.length) wLateRecv { wRecvJob with count := 500 } []) := by
  refine ⟨?_, ?_, ?_, ?_, ?_, ?_, ?_, ?_⟩ <;> decide

/-- The hypotheses of `Obligations.CollectivesAddUpAndDown` hold together, clause by clause. -/
theorem test_hypotheses_CollectivesAddUpAndDown :
    ((fun (s : State) (e : Fin 16) (p n lv tot : Nat) (f : Flit) (rest : List (Nat × Flit)) (fl : BitVec 4) (vals : List Wire) (bs : List Byte) (j : CollJob) (js : List CollJob) => s.dev.lnk.inbox = (p, f) :: rest ∧ f.body = .contribution n lv j.params fl tot vals bs ∧ s.dev.col.jobs = j :: js ∧ j.posted = true ∧ j.fresh = false ∧ j.group = f.channel.toNat ∧ j.seq = n ∧ (s.dev.col.engines.getD e.val {}).inService = false) wContributed 2 0 0 0 1 wContribFlit [] 0 [.f32 0x3F800000] [] wCollJob []) ∧
    ((fun (s : State) (e : Fin 16) (j : CollJob) (step : Nat × Nat × Nat) => s.dev.takeInbox s.dev.isContribution = none ∧ (s.dev.col.engines.getD e.val {}).inService = true ∧ s.dev.col.jobs.find? (fun j => j.canStep) = some j ∧ j.adds = some step ∧ (s.dev.col.engines.getD e.val {}).retried ≠ some step ∧ e.val < s.dev.col.engines.length) (wAdding none) 2 wAddJob (0x1000, 0, 0)) ∧
    ((fun (s : State) (e : Fin 16) (j : CollJob) (step : Nat × Nat × Nat) => s.dev.takeInbox s.dev.isContribution = none ∧ (s.dev.col.engines.getD e.val {}).inService = true ∧ s.dev.col.jobs.find? (fun j => j.canStep) = some j ∧ j.adds = some step ∧ (s.dev.col.engines.getD e.val {}).retried = some step ∧ e.val < s.dev.col.engines.length) (wAdding (some (0x1000, 0, 0))) 2 wAddJob (0x1000, 0, 0)) ∧
    ((fun (s : State) (e : Fin 16) (m : Bool) (j : CollJob) (js : List CollJob) => s.dev.takeInbox s.dev.isContribution = none ∧ (s.dev.col.engines.getD e.val {}).inService = true ∧ m = false ∨ j.adds = none ∧ s.dev.col.jobs = j :: js ∧ j.posted = true ∧ j.fresh = false ∧ j.passed = false ∧ j.completed = false ∧ j.level = topLevel j.params.size j.rank ∧ j.rank ≠ 0) wLeaf 2 true wLeafJob []) ∧
    ((fun (s : State) (p n tot off : Nat) (f : Flit) (rest : List (Nat × Flit)) (fl : BitVec 4) (bs : List Byte) (j : CollJob) (js : List CollJob) => s.dev.lnk.inbox = (p, f) :: rest ∧ f.body = .result n fl tot off bs ∧ s.dev.col.jobs = j :: js ∧ j.posted = true ∧ j.fresh = false ∧ j.group = f.channel.toNat ∧ j.seq = n ∧ s.dev.engineUp = true ∧ s.dev.mem.wf = true ∧ s.dev.mem.poison = []) wResulted 0 0 64 0 wResultFlit [] 0 (List.replicate 32 7) wLeafPassed []) ∧
    ((fun (s : State) (e : Fin 16) => (s.dev.col.engines.getD e.val {}).moving ≠ none) wMoving 3) ∧
    ((fun (s : State) (j : CollJob) (js : List CollJob) => s.dev.col.jobs = j :: js ∧ j.posted = true ∧ j.completed = false ∧ j.timeout ≤ j.count ∧ j.expired = false ∧ j.core < s.dev.cqs.length) wLateColl { wCollJob with count := 500 } []) := by
  refine ⟨?_, ?_, ?_, ?_, ?_, ?_, ?_⟩ <;> decide

/-- The hypotheses of `Obligations.StreamFramesAndRecords` hold together, clause by clause. -/
theorem test_hypotheses_StreamFramesAndRecords :
    ((fun (s : State) (port : Fin 4) (frame : List Byte) => (s.dev.stmPort port.val).link = 2 ∧ (parseFrame frame).isNone = true) (wPort2 2 []) 1 [1, 2, 3]) ∧
    ((fun (s : State) (port : Fin 4) (frame b data h : List Byte) (n sid seq : Nat) (last : Bool) => s.dev.takesFrame port.val frame b = true ∧ n = fld b 12 2 ∧ n ≤ 1952 ∧ data = (b.drop 16).take n ∧ data.length = n ∧ sid = fld b 0 2 ∧ seq = fld b 4 4 ∧ last = bitOf (fld b 2 1) 1 ∧ fld b 2 1 % 2 = 1 ∧ fld b 8 4 = 0 ∧ 48 ≤ n ∧ ((s.dev.stmPort port.val).opened.all (fun r => !r.isKey sid seq)) = true ∧ (s.dev.stmPort port.val).open < 16 ∧ h = data.take 48 ∧ inboundOk h = true ∧ hdrStream h = sid ∧ hdrSeq h = seq ∧ hdrKind h ≠ 0 ∧ n ≤ recordLen h ∧ (last = true → n = recordLen h)) (wPort2 2 []) 1 wFrameLoad (wFragLoad) (wFragLoad.drop 16) (wHdr 7 0 1 5 0 3 0x180000) 51 7 5 true) ∧
    ((fun (s : State) (port : Fin 4) (frame b data h : List Byte) (n sid seq : Nat) (last : Bool) (p : Plan) (i : Nat) => s.dev.takesFrame port.val frame b = true ∧ n = fld b 12 2 ∧ n ≤ 1952 ∧ data = (b.drop 16).take n ∧ data.length = n ∧ sid = fld b 0 2 ∧ seq = fld b 4 4 ∧ last = bitOf (fld b 2 1) 1 ∧ fld b 2 1 % 2 = 1 ∧ fld b 8 4 = 0 ∧ 48 ≤ n ∧ ((s.dev.stmPort port.val).opened.all (fun r => !r.isKey sid seq)) = true ∧ (s.dev.stmPort port.val).open < 16 ∧ h = data.take 48 ∧ inboundOk h = true ∧ hdrStream h = sid ∧ hdrSeq h = seq ∧ hdrKind h = 0 ∧ n ≤ recordLen h ∧ (last = true → n = recordLen h) ∧ s.dev.matchSlot (s.dev.portOwner port.val) h = some (p, i) ∧ s.dev.plan? p.handle = some p ∧ i < p.slotStates.length ∧ p.slotState i = .waiting ∧ s.dev.slotOpen p i = true ∧ hdrLen h ≤ (p.slotEnt i).bytes) (wSlotDev wSlotWait 3399 (wPort2 2 [])) 1 wFrameSlot wFragSlot (wFragSlot.drop 16) (wHdr 7 2 0 5 0 3 0) 51 7 5 true wSlotWait 0) ∧
    ((fun (s : State) (port : Fin 4) (frame b data : List Byte) (n sid seq : Nat) (last : Bool) (r : OpenRec) => s.dev.takesFrame port.val frame b = true ∧ n = fld b 12 2 ∧ n ≤ 1952 ∧ data = (b.drop 16).take n ∧ data.length = n ∧ sid = fld b 0 2 ∧ seq = fld b 4 4 ∧ last = bitOf (fld b 2 1) 1 ∧ fld b 2 1 % 2 = 0 ∧ (s.dev.stmPort port.val).opened.find? (fun r => r.isKey sid seq) = some r ∧ r.dead = false ∧ fld b 8 4 = r.next ∧ 48 ≤ r.next ∧ r.next + n ≤ recordLen r.header ∧ (last = true → r.next + n = recordLen r.header) ∧ 0 < n) wOpened 1 wFrameNext wFragNext [9, 9] 2 7 5 false wOpenRec) ∧
    ((fun (s : State) (port : Fin 4) (e : BufEnt) (rest : List BufEnt) (h : BitVec 16) (i : Nat) (q : Plan) => (s.dev.stmPort port.val).buf = e :: rest ∧ hdrKind e.header = 0 ∧ e.last = true ∧ e.claim = some (h, i) ∧ s.dev.plan? h = some q ∧ q.slotState i = .claimed port.val (hdrStream e.header) (hdrSeq e.header) ∧ s.dev.slotOpen q i = true ∧ s.dev.wipeHolds (q.slotEnt i).dest (64 + e.off + e.data.length) = false ∧ s.dev.mem.wf = true ∧ s.dev.mem.poison = [] ∧ i < q.slotStates.length) wSlotBuf 1 wSlotEnt [] 1 0 wSlotPlan) ∧
    ((fun (s : State) (h : BitVec 16) (i : Fin 65536) (q : Plan) => s.dev.plan? h = some q ∧ i.val < q.img.slots.length ∧ i.val < q.slotStates.length ∧ q.retiring = none ∧ q.state = .running ∧ q.slotState i.val = .waiting ∧ s.dev.slotOpen q i.val = false ∧ s.dev.mem.wf = true ∧ s.dev.mem.poison = []) wSlotLate 1 0 wSlotWait) ∧
    ((fun (s : State) (port : Fin 4) (e : BufEnt) (rest : List BufEnt) => (s.dev.stmPort port.val).buf = e :: rest ∧ hdrKind e.header = 1 ∧ e.last = false) (wPort2 2 [{ wLoadEnt with last := false }]) 1 { wLoadEnt with last := false } []) ∧
    ((fun (s : State) (port : Fin 4) (e : BufEnt) (rest : List BufEnt) => (s.dev.stmPort port.val).buf = e :: rest ∧ hdrKind e.header = 1 ∧ e.last = true ∧ s.dev.denied (s.dev.portOwner port.val) (hdrAddr e.header) (hdrLen e.header) false = false) wLoadParts 1 wLoadEnt []) ∧
    ((fun (s : State) (port : Fin 4) (e : BufEnt) (rest : List BufEnt) => (s.dev.stmPort port.val).buf = e :: rest ∧ hdrKind e.header = 1 ∧ e.last = true ∧ s.dev.denied (s.dev.portOwner port.val) (hdrAddr e.header) (hdrLen e.header) false = false ∧ s.dev.mem.wf = true ∧ s.dev.mem.poison = []) (wPort2 2 [wLoadEnt]) 1 wLoadEnt []) ∧
    ((fun (s : State) (port : Fin 4) (e : BufEnt) (rest : List BufEnt) => (s.dev.stmPort port.val).buf = e :: rest ∧ hdrKind e.header = 1 ∧ e.last = true ∧ s.dev.denied (s.dev.portOwner port.val) (hdrAddr e.header) (hdrLen e.header) false = true ∧ s.dev.stm.divert.length < 64) (wPort2 2 [wDeniedEnt]) 1 wDeniedEnt []) ∧
    ((fun (s : State) (port : Fin 4) (e : BufEnt) (rest : List BufEnt) => (s.dev.stmPort port.val).buf = e :: rest ∧ hdrKind e.header = 4 ∧ s.dev.denied (s.dev.portOwner port.val) (hdrAddr e.header) (hdrLen e.header) true = false ∧ s.dev.mem.poison = [] ∧ s.dev.stm.hasRoom (48 + hdrLen e.header) = true ∨ s.dev.stm.outq = []) (wPort2 2 [wReadEnt]) 1 wReadEnt []) ∧
    ((fun (s : State) (port : Fin 4) (r : OutRec) (i : Nat) => (s.dev.stmPort port.val).link = 2 ∧ (s.dev.stmPort port.val).paused = false ∧ s.dev.outFor port.val 2 = some (r, i)) wOutbound 1 wOutRec 0) ∧
    ((fun (s : State) (port : Fin 4) => (s.dev.stmPort port.val).link = 1 ∧ (s.dev.stmPort port.val).en = true ∧ s.dev.stm.etype ≠ 0 ∧ s.dev.domUp (160 + port.val) = true) wTrainPort 1) ∧
    ((fun (s : State) (port : Fin 4) => (s.dev.stmPort port.val).link = 2) (wPort2 2 []) 1) ∧
    ((fun (s : State) (path : RegPath) => s.dev.pathOpen path = true ∧ s.dev.blockUp .stmCommon = true) wOutbound .pf0) ∧
    ((fun (s : State) (path : RegPath) (v : BitVec 16) => s.dev.pathOpen path = true ∧ s.dev.blockUp .stmCommon = true ∧ 0x600 ≤ v.toNat ∧ v ≠ 0x8100 ∧ v ≠ 0x8808 ∧ (∀ q : Fin 4, (s.dev.stmPort q.val).link ≠ 0)) wAllUp .pf0 0x88B5) := by
  refine ⟨?_, ?_, ?_, ?_, ?_, ?_, ?_, ?_, ?_, ?_, ?_, ?_, ?_, ?_, ?_, ?_⟩ <;> decide

/-- The hypotheses of `Obligations.TimelinesRunOnTheirBeats` hold together, clause by clause. -/
theorem test_hypotheses_TimelinesRunOnTheirBeats :
    ((fun (s : State) (h : BitVec 16) (q : Plan) => s.dev.plan? h = some q ∧ s.dev.sequencing = true ∧ q.state = .armed ∧ q.retiring = none ∧ s.dev.reached q.base = true ∧ q.pauseAt = none ∧ q.stopping = none ∧ q.stepDone q.curStep = false ∧ s.dev.bt.stepBy = none) ⟨wPlanDev .armed, []⟩ 1 (wPlan .armed)) ∧
    ((fun (s : State) (h : BitVec 16) (q : Plan) => s.dev.plan? h = some q ∧ s.dev.sequencing = true ∧ q.state = .armed ∧ q.retiring = none ∧ s.dev.reached q.base = true ∧ q.pauseAt = none ∧ q.stepDone q.curStep = false ∧ s.dev.bt.stepBy.isSome = true ∧ q.cores.all (fun k => (s.dev.cq k).run.isNone) = true) wStartInStep 1 (wPlan .armed)) ∧
    ((fun (s : State) (h : BitVec 16) (q : Plan) => s.dev.plan? h = some q ∧ s.dev.sequencing = true ∧ q.state = .armed ∧ q.retiring = none ∧ s.dev.reached q.base = true ∧ q.pauseAt ≠ none) (wPlanned { wPlan .armed with pauseAt := some (0, 3000) }) 1 ({ wPlan .armed with pauseAt := some (0, 3000) })) ∧
    ((fun (s : State) (h : BitVec 16) (q : Plan) => s.dev.plan? h = some q ∧ s.dev.sequencing = true ∧ q.state = .armed ∧ s.dev.reached q.base = false) (wPlanned { wPlan .armed with base := 3001 }) 1 ({ wPlan .armed with base := 3001 })) ∧
    ((fun (s : State) (h : BitVec 16) (q : Plan) (b : Nat × BitVec 52) => s.dev.plan? h = some q ∧ s.dev.sequencing = true ∧ q.state = .running ∧ q.stopping = none ∧ q.pauseAt = some b ∧ b.1 ≤ q.curStep ∧ s.dev.stepBegun q q.curStep = true) (wPlanned { wPlan .running with pauseAt := some (0, 3000) }) 1 ({ wPlan .running with pauseAt := some (0, 3000) }) (0, 3000)) ∧
    ((fun (s : State) (h : BitVec 16) (q : Plan) (n : Nat) => s.dev.plan? h = some q ∧ s.dev.sequencing = true ∧ q.state = .running ∧ q.retiring = none ∧ q.promiseNext = some n ∧ s.dev.promisePast q n = true ∧ q.stepDone n = false ∧ s.dev.logs) wLatePlan 1 wPlanLate 0) ∧
    ((fun (s : State) (h : BitVec 16) (q : Plan) (n : Nat) => s.dev.plan? h = some q ∧ q.promiseNext = some n ∧ s.dev.promisePast q n = false) (wPlanned (wPlan .running)) 1 (wPlan .running) 0) ∧
    ((fun (s : State) (h : BitVec 16) (q : Plan) (b : BitVec 52) => s.dev.plan? h = some q ∧ s.dev.sequencing = true ∧ q.state = .paused ∧ q.retiring = none ∧ q.resumeBeat = some b ∧ s.dev.reached b = true ∧ q.pauseAt = none ∧ q.stopping = none ∧ q.curStep < q.nSteps ∧ q.stepDone q.curStep = false ∧ s.dev.bt.stepBy = none) (wPlanned { wPlan .paused with resumeBeat := some 2900, curStep := 1 }) 1 ({ wPlan .paused with resumeBeat := some 2900, curStep := 1 }) 2900) ∧
    ((fun (s : State) (h : BitVec 16) (q : Plan) (b : BitVec 52) => s.dev.plan? h = some q ∧ s.dev.sequencing = true ∧ q.state = .paused ∧ q.retiring = none ∧ q.resumeBeat = some b ∧ s.dev.reached b = true ∧ q.pauseAt = none ∧ q.stopping = none ∧ q.stopAfter = none ∧ q.curStep + 1 < q.nSteps ∧ q.stepDone q.curStep = true ∧ q.stepDone (q.curStep + 1) = false ∧ s.dev.bt.stepBy = none) (wPlanned wHalfDone) 1 wHalfDone 2900) ∧
    ((fun (s : State) (h : BitVec 16) (q : Plan) (b : BitVec 52) => s.dev.plan? h = some q ∧ s.dev.sequencing = true ∧ q.state = .debugHeld ∧ q.retiring = none ∧ q.resumeBeat = some b ∧ s.dev.reached b = true ∧ q.pauseAt = none ∧ q.stopping = none ∧ q.curStep < q.nSteps ∧ q.stepDone q.curStep = false ∧ (∀ k ∈ q.cores, k < s.dev.cqs.length) ∧ s.dev.bt.stepBy = none) wHeldPlan 1 ({ wPlan .debugHeld with resumeBeat := some 2900 }) 2900) ∧
    ((fun (s : State) (h : BitVec 16) (q : Plan) (x : Select) => s.dev.plan? h = some q ∧ s.dev.sequencing = true ∧ q.state = .running ∧ q.retiring = none ∧ q.selects.find? (fun x => !q.switched.contains x.step && s.dev.stepBegun q x.step && q.keepsStart x.step) = some x ∧ q.changedGroups x.step = []) (wPlanned (wSwitch 0)) 1 (wSwitch 0) ⟨0, 0, 0, 7⟩) ∧
    ((fun (s : State) (h : BitVec 16) (q : Plan) (x : Select) (k r : Nat) (g : HistEnt) => s.dev.plan? h = some q ∧ s.dev.sequencing = true ∧ q.state = .running ∧ q.retiring = none ∧ q.selects.find? (fun x => !q.switched.contains x.step && s.dev.stepBegun q x.step && q.keepsStart x.step) = some x ∧ q.changedGroups x.step ≠ [] ∧ s.dev.logs ∧ q.img.layout.hists.find? (fun g => g.core == k) = some g ∧ r ∈ q.resetRecords x.step ∧ r < g.n ∧ k < q.img.nCores ∧ q.earlierDone k x.step = true ∧ s.dev.mem.wf = true) wSwitching 1 (wSwitch 1) ⟨0, 0, 1, 7⟩ 0 0 ⟨0, 1, 0x140000⟩) := by
  refine ⟨?_, ?_, ?_, ?_, ?_, ?_, ?_, ?_, ?_, ?_, ?_, ?_⟩ <;> decide

/-- The hypotheses of `Obligations.ChunksAreReleasedAndCommitted` hold together, clause by clause. -/
theorem test_hypotheses_ChunksAreReleasedAndCommitted :
    ((fun (s : State) (c : Fin 72) (p : Plan) (site i : Nat) => s.dev.dueChunk? c.val = some (p, site, i) ∧ (s.dev.cq c.val).fetched ≠ [] ∧ site < s.dev.sites.length ∧ c.val < s.dev.cqs.length ∧ i < p.chunkStates.length ∧ s.dev.plan? p.handle = some p ∧ s.dev.mem.wf = true) (wDueChunk [⟨0, wNopCmd, none⟩]) 0 (wPlan .running) 0 0) ∧
    ((fun (s : State) (c : Fin 72) (p : Plan) (site i : Nat) => s.dev.dueChunk? c.val = some (p, site, i) ∧ (s.dev.cq c.val).fetched = [] ∧ (s.dev.cq c.val).regs.underrunNow = false ∧ c.val < s.dev.cqs.length) (wDueChunk []) 0 (wPlan .running) 0 0) ∧
    ((fun (s : State) (c : Fin 72) (x : Ctx) => s.dev.ctx? c.val = some x ∧ s.dev.chunkReady x = true ∧ x.p.retiring = none ∧ (s.dev.site x.site).ccr.signature = (s.dev.site x.site).ccr.sigExp ∧ s.dev.mem.wf = true ∧ s.dev.mem.poison = [] ∧ (s.dev.cq c.val).log = [] ∧ (s.dev.site x.site).qnt.work = [] ∧ x.p.resets = [] ∧ (∀ k ∈ s.dev.plans, k.img.layout.regions = [] ∧ k.retiring = none) ∧ (s.dev.cq c.val).pend.Pairwise (fun a b => a.1 < b.1) ∧ c.val < s.dev.cqs.length) wReady 0 wReadyCtx) ∧
    ((fun (s : State) (c : Fin 72) (x : Ctx) (a : Nat) => s.dev.ctx? c.val = some x ∧ s.dev.chunkReady x = true ∧ x.p.retiring = none ∧ (s.dev.site x.site).ccr.signature = (s.dev.site x.site).ccr.sigExp ∧ s.dev.mem.wf = true ∧ s.dev.mem.poison = [] ∧ (s.dev.cq c.val).log = [] ∧ (s.dev.site x.site).qnt.work = [] ∧ x.p.resets = [] ∧ (∀ k ∈ s.dev.plans, k.img.layout.regions = [] ∧ k.retiring = none) ∧ (s.dev.cq c.val).pend.all (fun e => e.1 != a) = true) wReady 0 wReadyCtx 0x10000B) ∧
    ((fun (s : State) (c : Fin 72) (x : Ctx) => s.dev.ctx? c.val = some x ∧ s.dev.chunkReady x = true ∧ x.p.retiring = none ∧ (s.dev.site x.site).ccr.signature ≠ (s.dev.site x.site).ccr.sigExp ∧ x.rc.sigMiss = 0 ∧ s.dev.sound x.site ∧ x.site < s.dev.sites.length ∧ x.site < s.dev.health.siteStates.length) wMismatch 0 wReadyCtx) ∧
    ((fun (s : State) (c : Fin 72) (p : Plan) (rc : RunChunk) => s.dev.planOf c.val = some p ∧ s.dev.plan? p.handle = some p ∧ (s.dev.cq c.val).run = some rc ∧ p.retiring ≠ none ∧ s.dev.retireOver p rc = true ∧ rc.idx < p.chunkStates.length) wRetiring 0 wRetirePlan wChunkRun) ∧
    ((fun (s : State) (e : HeldFlag) (rest : List HeldFlag) => s.dev.deliveries = e :: rest ∧ e.isEvsend = false ∧ e.flag < 64 ∧ s.dev.siteOf.getD e.core 0xFF < 80 ∧ s.dev.siteOf.getD e.core 0xFF < s.dev.sites.length) (wDelivery { core := 0, flag := 63, tag := 0 }) { core := 0, flag := 63, tag := 0 } []) ∧
    ((fun (s : State) (e : HeldFlag) (rest : List HeldFlag) => s.dev.deliveries = e :: rest ∧ e.isEvsend = true ∧ s.dev.siteOf.getD e.core 0xFF < 80 ∧ s.dev.flagSet (s.dev.siteOf.getD e.core 0xFF) e.flag = true ∧ s.dev.logs) wTwice { core := 0, flag := 5, tag := 3, unit := 0x1001, isEvsend := true } []) := by
  refine ⟨?_, ?_, ?_, ?_, ?_, ?_, ?_, ?_⟩ <;> decide

/-- The hypotheses of `Obligations.StacksAreScrubbedRepairedAndWiped` hold together, clause by clause. -/
theorem test_hypotheses_StacksAreScrubbedRepairedAndWiped :
    ((fun (s : State) (s16 : Fin 16) (found : EccFind) => (s.dev.stk s16.val).scrubActive = true ∧ (s.dev.stk s16.val).lost = false ∧ (s.dev.stk s16.val).interval.toNat ≤ s.dev.since (s.dev.stk s16.val).scrubBeat ∧ s16.val < s.dev.stks.length ∧ s.dev.wipeHolds (64 * (s16.val * (stackSize / 64) + (s.dev.stk s16.val).offset.toNat / 64)) 64 = false ∧ found = .clean ∨ s.dev.mem.poison.contains (s16.val * (stackSize / 64) + (s.dev.stk s16.val).offset.toNat / 64) = true) wScrub 15 .clean) ∧
    ((fun (s : State) (s16 : Fin 16) => (s.dev.stk s16.val).scrubActive = true ∧ (s.dev.stk s16.val).lost = false ∧ (s.dev.stk s16.val).interval.toNat ≤ s.dev.since (s.dev.stk s16.val).scrubBeat ∧ s16.val < s.dev.stks.length ∧ s.dev.wipeHolds (64 * (s16.val * (stackSize / 64) + (s.dev.stk s16.val).offset.toNat / 64)) 64 = false ∧ s.dev.mem.poison.contains (s16.val * (stackSize / 64) + (s.dev.stk s16.val).offset.toNat / 64) = false) wScrub 15) ∧
    ((fun (s : State) (s16 : Fin 16) => (s.dev.stk s16.val).scrubActive = true ∧ (s.dev.stk s16.val).lost = false ∧ (s.dev.stk s16.val).interval.toNat ≤ s.dev.since (s.dev.stk s16.val).scrubBeat ∧ s16.val < s.dev.stks.length ∧ s.dev.wipeHolds (64 * (s16.val * (stackSize / 64) + (s.dev.stk s16.val).offset.toNat / 64)) 64 = false ∧ s.dev.mem.poison.contains (s16.val * (stackSize / 64) + (s.dev.stk s16.val).offset.toNat / 64) = false ∧ s.dev.sharedWord (s16.val * (stackSize / 64) + (s.dev.stk s16.val).offset.toNat / 64) = none ∧ s.dev.logs) wScrub 15) ∧
    ((fun (s : State) (s16 : Fin 16) (e : Nat × BitVec 52) => (s.dev.stk s16.val).weakRows.find? (fun e => 4 ≤ s.dev.rowHits s16.val e.1) = some e ∧ s.dev.anyArmed = false ∧ s.dev.runs 2 = true ∧ (s.dev.stk s16.val).rowsUsed (e.1 / 1024) < 64 ∧ s16.val < s.dev.stks.length) wWeak 3 (7, 5)) ∧
    ((fun (s : State) (s16 : Fin 16) => s.dev.anyArmed = true ∨ s.dev.runs 2 = false) ⟨wPlanDev .armed, []⟩ 3) ∧
    ((fun (s : State) (s16 : Fin 16) (bad : List (BitVec 25)) (a : Nat) => s.dev.pwr.phase = .wipe ∧ s.dev.pwr.wiped.getD s16.val false = false ∧ s.dev.mem.wf = true ∧ s16.val * stackSize ≤ a ∧ a < (s16.val + 1) * stackSize ∧ s.dev.pwr.wiped.length = 16) wWiping 1 [] 0x80000040) ∧
    ((fun (s : State) (s16 : Fin 16) (bad : List (BitVec 25)) (a : Nat) => s.dev.pwr.phase = .wipe ∧ s.dev.pwr.wiped.getD s16.val false = false ∧ s.dev.mem.wf = true ∧ a < stackEnd ∧ a < s16.val * stackSize ∨ (s16.val + 1) * stackSize ≤ a) wWiping 1 [] 0x40) ∧
    ((fun (s : State) (s16 : Fin 16) (n a : Nat) (ps : List RangeEnt) (r : Req) => s.dev.pwr.phase ≠ .wipe ∧ s.dev.wipes = [⟨.create n, ps⟩] ∧ ps.all (fun q => stackOfAddr q.base == s16.val) = true ∧ ps.any (fun q => decide (q.base ≤ a) && decide (a < q.base + q.len)) = true ∧ s.dev.mem.wf = true ∧ s.dev.reqs.find? (fun r => r.op == 0x0400 && r.place == .executing) = some r) (wJob (.create 3) 0x0400 []) 1 3 0x80000040 [⟨0x80000000, 0x100⟩] (wJobReq 0x0400 [])) ∧
    ((fun (s : State) (s16 : Fin 16) (n a : Nat) (ps : List RangeEnt) (r : Req) => s.dev.pwr.phase ≠ .wipe ∧ s.dev.wipes = [⟨.release n, ps⟩] ∧ ps.all (fun q => stackOfAddr q.base == s16.val) = true ∧ ps.any (fun q => decide (q.base ≤ a) && decide (a < q.base + q.len)) = true ∧ s.dev.mem.wf = true ∧ s.dev.reqs.find? (fun r => r.op == 0x0401 && r.place == .executing && fieldLE (mPayload r.msg) 0 1 == n) = some r) (wJob (.release 3) 0x0401 [3]) 1 3 0x80000040 [⟨0x80000000, 0x100⟩] (wJobReq 0x0401 [3])) ∧
    ((fun (s : State) (s16 : Fin 16) (t : BitVec 2) (a : Nat) (ps : List RangeEnt) (r : Req) => s.dev.pwr.phase ≠ .wipe ∧ s.dev.wipes = [⟨.lifecycle t, ps⟩] ∧ ps.all (fun q => stackOfAddr q.base == s16.val) = true ∧ ps.any (fun q => decide (q.base ≤ a) && decide (a < q.base + q.len)) = true ∧ s.dev.mem.wf = true ∧ s.dev.sec.lcFuses.length = 3 ∧ s.dev.sec.lcState.toNat < t.toNat ∧ s.dev.reqs.find? (fun r => r.op == 0x0410 && r.place == .executing) = some r) (wJob (.lifecycle 3) 0x0410 []) 1 3 0x80000040 [⟨0x80000000, 0x100⟩] (wJobReq 0x0410 [])) ∧
    ((fun (s : State) (s16 : Fin 16) (bad : List (BitVec 25)) => s.dev.pwr.phase ≠ .wipe ∧ s.dev.wipes = []) wRuns 1 [5]) ∧
    ((fun (s : State) (path : RegPath) (s16 : Fin 16) (die : Fin 2) (bank : Fin 128) (row : Fin 1024) => s.dev.pathOpen path = true ∧ path ≠ .spi ∧ s.dev.blockUp (.stk s16.val) = true ∧ s.dev.repairOpen path = true ∧ s16.val < s.dev.stks.length ∧ (s.dev.stk s16.val).rowsUsed (128 * die.val + bank.val) < 64) wMaking .pf0 2 1 5 9) ∧
    ((fun (s : State) (path : RegPath) (s16 : Fin 16) (die : Fin 2) (bank : Fin 128) (row : Fin 1024) => s.dev.pathOpen path = true ∧ path ≠ .spi ∧ s.dev.blockUp (.stk s16.val) = true ∧ s.dev.repairOpen path = true ∧ s16.val < s.dev.stks.length ∧ 64 ≤ (s.dev.stk s16.val).rowsUsed (128 * die.val + bank.val)) wMaking .pf0 2 1 6 9) ∧
    ((fun (s : State) (path : RegPath) (s16 : Fin 16) (die : Fin 2) (bank : Fin 128) (row : Fin 1024) => s.dev.pathOpen path = true ∧ path ≠ .spi ∧ s.dev.blockUp (.stk s16.val) = true ∧ s.dev.repairOpen path = true ∧ s16.val < s.dev.stks.length ∧ die = 0 ∧ (s.dev.stk s16.val).spareBanksLo.toNat < 8) wMaking .pf0 2 0 5 9) ∧
    ((fun (s : State) (path : RegPath) (s16 : Fin 16) (die : Fin 2) (bank : Fin 128) (row : Fin 1024) => s.dev.pathOpen path = true ∧ path ≠ .spi ∧ s.dev.blockUp (.stk s16.val) = true ∧ s.dev.repairOpen path = true ∧ s16.val < s.dev.stks.length ∧ die = 1 ∧ 8 ≤ (s.dev.stk s16.val).spareBanksHi.toNat) wMaking .pf0 2 1 5 9) ∧
    ((fun (s : State) (path : RegPath) (s16 : Fin 16) (die : Fin 2) (bank : Fin 128) (row : Fin 1024) => s.dev.pathOpen path = true ∧ path ≠ .spi ∧ s.dev.blockUp (.stk s16.val) = true ∧ s.dev.repairOpen path = true ∧ s16.val < s.dev.stks.length) wMaking .pf0 2 1 5 9) := by
  refine ⟨?_, ?_, ?_, ?_, ?_, ?_, ?_, ?_, ?_, ?_, ?_, ?_, ?_, ?_, ?_, ?_⟩ <;> decide

/-- The hypotheses of `Obligations.SolverMatricesFinishAndPublish` hold together, clause by clause. -/
theorem test_hypotheses_SolverMatricesFinishAndPublish :
    ((fun (s : State) (e : Fin 4) (key : SolveKey) (i : Nat) (rest : List (SolveKey × Nat)) (j : SolveJob) => (s.dev.slv.getD e.val {}).queue = (key, i) :: rest ∧ s.dev.solves.find? (fun k => k.key == key) = some j ∧ e.val < s.dev.slv.length ∧ i < j.mats.length) wSolving 2 ⟨0, 1, 0⟩ 0 [] wSolveJob) ∧
    ((fun (s : State) (e : Fin 4) (key : SolveKey) (i : Nat) (rest : List (SolveKey × Nat)) (j : SolveJob) => (s.dev.slv.getD e.val {}).queue = (key, i) :: rest ∧ s.dev.solves.find? (fun k => k.key == key) = some j ∧ j.mismatch.contains e.val = false ∧ e.val < s.dev.slv.length ∧ s.dev.logs) wSolving 2 ⟨0, 1, 0⟩ 0 [] wSolveJob) ∧
    ((fun (s : State) (e : Fin 4) (key : SolveKey) (i : Nat) (rest : List (SolveKey × Nat)) (j : SolveJob) => (s.dev.slv.getD e.val {}).queue = (key, i) :: rest ∧ s.dev.solves.find? (fun k => k.key == key) = some j ∧ j.mismatch.contains e.val = true ∧ e.val < s.dev.slv.length ∧ s.dev.logs) (wSolver { wSolveJob with mismatch := [2] }) 2 ⟨0, 1, 0⟩ 0 [] ({ wSolveJob with mismatch := [2] })) ∧
    ((fun (s : State) (j : SolveJob) (p : Plan) => s.dev.solves.find? s.dev.solveDue = some j ∧ s.dev.plan? j.handle = some p ∧ s.dev.mem.wf = true ∧ s.dev.mem.poison = [] ∧ (∀ k ∈ s.dev.plans, k.img.layout.regions = []) ∧ j.finished.length = j.batch ∧ j.batch ≤ 252 ∧ 4 * (j.finished.map (·.codes.length)).sum ≤ j.room) (wSolver wSolved) wSolved (wPlan .running)) ∧
    ((fun (s : State) (j : SolveJob) (p : Plan) => s.dev.solves.find? s.dev.solveDue = some j ∧ s.dev.plan? j.handle = some p ∧ s.dev.mem.wf = true ∧ s.dev.mem.poison = [] ∧ (∀ k ∈ s.dev.plans, k.img.layout.regions = []) ∧ j.finished.length ≠ j.batch ∧ s.dev.byteAt j.dst ≠ 1 ∧ s.dev.byteAt j.dst ≠ 2 ∧ s.dev.logs) (wSolver wUnsolved) wUnsolved (wPlan .running)) ∧
    ((fun (s : State) => s.dev.solves.find? s.dev.solveDue = none) wRuns) := by
  refine ⟨?_, ?_, ?_, ?_, ?_, ?_⟩ <;> decide

/-- The hypotheses of `Obligations.SitesAreRecoveredOntoSpares` hold together, clause by clause. -/
theorem test_hypotheses_SitesAreRecoveredOntoSpares :
    ((fun (s : State) (site : Fin 80) (r : Recovery) (c sp : Nat) (cold : Bool) => s.dev.health.recoveries.find? (fun x => x.site == site.val && x.phase == .detected) = some r ∧ s.dev.runs 2 = true ∧ r.core = some c ∧ r.fail = site.val ∧ r.cause ≠ .swap ∧ s.dev.siteState site.val = .recovering ∧ (s.dev.planOf c).isSome = true ∧ s.dev.chooseSpare (site.val / 5) = some (sp, cold) ∧ s.dev.health.siteStates.length = 80 ∧ site.val < s.dev.sites.length) (wRecovering (wRec .detected) .warm) 0 (wRec .detected) 0 3 false) ∧
    ((fun (s : State) (site : Fin 80) (r : Recovery) (c a : Nat) => s.dev.health.recoveries.find? (fun x => x.site == site.val && x.phase == .detected) = some r ∧ s.dev.runs 2 = true ∧ r.core = some c ∧ r.fail = site.val ∧ r.cause ≠ .swap ∧ s.dev.siteState site.val = .recovering ∧ (s.dev.planOf c).isSome = true ∧ s.dev.chooseSpare (site.val / 5) = none ∧ c < s.dev.siteOf.length ∧ s.dev.logs ∧ s.dev.mem.wf = true ∧ scratchBase site.val ≤ a ∧ a < scratchBase site.val + scratchSize ∧ s.dev.health.siteStates.length = 80 ∧ site.val < s.dev.sites.length) wNoSpare 0 (wRec .detected) 0 0x2000000002) ∧
    ((fun (s : State) (site : Fin 80) (r : Recovery) (c : Nat) => s.dev.health.recoveries.find? (fun x => x.site == site.val && x.phase == .detected) = some r ∧ s.dev.runs 2 = true ∧ r.core = some c ∧ r.fail = site.val ∧ r.cause = .swap ∧ (s.dev.planOf c).isSome = true ∧ s.dev.chooseSpare (site.val / 5) = none ∧ s.dev.health.siteStates.length = 80) wNoSwap 0 wSwapRec 0) ∧
    ((fun (s : State) (site : Fin 80) => s.dev.health.recoveries.find? (fun x => x.site == site.val && x.phase == .detected) = none) wRuns 5) ∧
    ((fun (s : State) (site : Fin 80) (ok : Bool) (r : Recovery) (c sp : Nat) => s.dev.health.recoveries.find? (fun x => x.site == site.val && x.phase == .fenced) = some r ∧ r.core = some c ∧ r.spare = some sp ∧ s.dev.domUp sp = true ∧ (r.cold = false ∨ ok = true) ∧ (s.dev.planOf c).isSome = true ∧ c < s.dev.siteOf.length) (wRecovering (wRec .fenced) .recovering) 0 true (wRec .fenced) 0 3) ∧
    ((fun (s : State) (site : Fin 80) (r : Recovery) (c sp : Nat) => s.dev.health.recoveries.find? (fun x => x.site == site.val && x.phase == .fenced) = some r ∧ r.core = some c ∧ r.spare = some sp ∧ s.dev.domUp sp = true ∧ r.cold = true) (wRecovering { wRec .fenced with cold := true } .recovering) 0 ({ wRec .fenced with cold := true }) 0 3) ∧
    ((fun (s : State) (site : Fin 80) (r : Recovery) (c sp a : Nat) (p : Plan) (rc : RunChunk) => s.dev.health.recoveries.find? (fun x => x.site == site.val && x.phase == .inService) = some r ∧ r.core = some c ∧ r.spare = some sp ∧ s.dev.planOf c = some p ∧ (s.dev.cq c).run = some rc ∧ p.img.texts = [] ∧ sp ≠ site.val ∧ r.cause ≠ .swap ∧ r.cause ≠ .inPlace ∧ s.dev.mem.wf = true ∧ a < scratchSize ∧ c < s.dev.cqs.length ∧ sp < s.dev.health.siteStates.length) (wRecovering (wRec .inService) .recovering) 0 (wRec .inService) 0 3 2 wInsPlan wChunkRun) ∧
    ((fun (s : State) (site : Fin 80) (r : Recovery) (c sp : Nat) (p : Plan) => s.dev.health.recoveries.find? (fun x => x.site == site.val && x.phase == .inService) = some r ∧ r.core = some c ∧ r.spare = some sp ∧ s.dev.planOf c = some p ∧ s.dev.plan? p.handle = some p ∧ (s.dev.cq c).run = none ∧ p.planCore c < p.pastSites.length ∧ sp ≠ site.val ∧ r.cause ≠ .swap ∧ r.cause ≠ .inPlace) wMovedOn 0 (wRec .inService) 0 3 wMovedPlan) ∧
    ((fun (s : State) (site : Fin 80) (r : Recovery) (c sp : Nat) (p : Plan) (rc : RunChunk) => s.dev.health.recoveries.find? (fun x => x.site == site.val && x.phase == .inService) = some r ∧ r.core = some c ∧ r.spare = some sp ∧ r.cause = .inPlace ∧ s.dev.planOf c = some p ∧ (s.dev.cq c).run = some rc ∧ p.img.texts = [] ∧ c < s.dev.cqs.length) wInPlace 0 wInPlaceRec 0 0 wInsPlan wChunkRun) ∧
    ((fun (s : State) (c : Fin 72) (addr : Fin 34359738368) (x : Ctx) => s.dev.ctx? c.val = some x ∧ (s.dev.cq c.val).pend.any (fun e => decide (addr.val / 128 * 128 ≤ e.1) && decide (e.1 < addr.val / 128 * 128 + 128)) = true ∧ x.rc.inPlace = 0 ∧ c.val < s.dev.cqs.length) wReady 0 0x100040 wReadyCtx) ∧
    ((fun (s : State) (c : Fin 72) (addr : Fin 34359738368) (x : Ctx) => s.dev.ctx? c.val = some x ∧ (s.dev.cq c.val).pend.any (fun e => decide (addr.val / 128 * 128 ≤ e.1) && decide (e.1 < addr.val / 128 * 128 + 128)) = true ∧ x.rc.inPlace ≠ 0 ∧ s.dev.sound x.site ∧ x.site < s.dev.health.siteStates.length) wTwiceInPlace 0 0x100040 wTwiceCtx) ∧
    ((fun (s : State) (c : Fin 72) (site : Fin 80) (p : Plan) => s.dev.planOf c.val = some p ∧ s.dev.siteOf.getD c.val 0xFF = site.val ∧ s.dev.siteState site.val = .inService ∧ s.dev.testIsDue site.val (hourBeats + 1) = true ∧ (s.dev.cq c.val).run = none ∧ (s.dev.cq c.val).vent = none ∧ (s.dev.chooseSpare (site.val / 5)).isSome = true ∧ p.faultStep ≠ some p.curStep ∧ s.dev.health.siteStates.length = 80) (wOverdue .held) 0 0 wInsPlan) ∧
    ((fun (s : State) (c : Fin 72) (site : Fin 80) (p : Plan) => s.dev.planOf c.val = some p ∧ s.dev.siteOf.getD c.val 0xFF = site.val ∧ s.dev.siteState site.val = .inService ∧ s.dev.testIsDue site.val (hourBeats + 1) = true ∧ (s.dev.cq c.val).run = none ∧ (s.dev.cq c.val).vent = none ∧ s.dev.chooseSpare (site.val / 5) = none ∧ s.dev.health.overdueNoted.getD site.val none = none ∧ s.dev.logs) (wOverdue .fenced) 0 0 wInsPlan) := by
  refine ⟨?_, ?_, ?_, ?_, ?_, ?_, ?_, ?_, ?_, ?_, ?_, ?_, ?_⟩ <;> decide

/-- The hypotheses of `Obligations.MonitorsAndTestsOfSites` hold together, clause by clause. -/
theorem test_hypotheses_MonitorsAndTestsOfSites :
    ((fun (s : State) (c : Fin 72) (u : Fin 9) (x : Ctx) (f : Flight) => s.dev.ctx? c.val = some x ∧ (s.dev.cq c.val).flights.find? (fun f => !f.ended && 32 ≤ f.idle && unitOf (cmdOp f.bytes) == u.val) = some f ∧ s.dev.sound x.site ∧ x.site < s.dev.health.siteStates.length) wStuckUnit 0 wStuckNum wInsCtx wStuckFlight) ∧
    ((fun (s : State) (c : Fin 72) (u : Fin 9) (x : Ctx) => s.dev.ctx? c.val = some x ∧ (s.dev.cq c.val).flights.find? (fun f => !f.ended && 32 ≤ f.idle && unitOf (cmdOp f.bytes) == u.val) = none) wReady 0 2 wReadyCtx) ∧
    ((fun (s : State) (c : Fin 72) (x : Ctx) => s.dev.ctx? c.val = some x ∧ x.rc.wdogNoted = false ∧ x.chunk.wc ≤ x.rc.wdog ∧ s.dev.logs) (wDog 160 0) 0 (wDogCtx 160 0)) ∧
    ((fun (s : State) (c : Fin 72) (x : Ctx) => s.dev.ctx? c.val = some x ∧ x.rc.wdog < x.chunk.wc ∨ x.rc.wdogNoted = true) (wDog 159 0) 0 (wDogCtx 159 0)) ∧
    ((fun (s : State) (c : Fin 72) (x : Ctx) => s.dev.ctx? c.val = some x ∧ x.chunk.wc + s.dev.health.wdogGrace.toNat ≤ x.rc.wdog ∧ (s.dev.cq c.val).regs.halted = false ∧ x.rc.progFault = false ∧ x.rc.wdogHits = 0 ∧ s.dev.sound x.site ∧ x.site < s.dev.health.siteStates.length) (wDog 10160 0) 0 (wDogCtx 10160 0)) ∧
    ((fun (s : State) (c : Fin 72) (x : Ctx) => s.dev.ctx? c.val = some x ∧ x.chunk.wc + s.dev.health.wdogGrace.toNat ≤ x.rc.wdog ∧ (s.dev.cq c.val).regs.halted = false ∧ x.rc.progFault = false ∧ x.rc.wdogHits ≠ 0 ∧ s.dev.logs) (wDog 10160 1) 0 (wDogCtx 10160 1)) ∧
    ((fun (s : State) (site : Fin 80) (a : Nat) => s.dev.anyArmed = true ∧ s.dev.runs 2 = true ∧ s.dev.firmwareUp = true ∧ (∀ k : Fin 5, s.dev.siteState (5 * (site.val / 5) + k.val) ≠ .warm) ∧ (∀ k : Fin 5, s.dev.siteState (5 * (site.val / 5) + k.val) ≠ .held ∨ site.val ≤ 5 * (site.val / 5) + k.val) ∧ s.dev.siteState site.val = .held ∧ s.dev.domUp site.val = true ∧ s.dev.mem.wf = true ∧ scratchBase site.val ≤ a ∧ a < scratchBase site.val + scratchSize ∧ s.dev.health.siteStates.length = 80) ⟨wPlanDev .armed, []⟩ 5 0x2005000000) ∧
    ((fun (s : State) (site : Fin 80) => s.dev.anyArmed = true ∧ s.dev.runs 2 = true ∧ s.dev.firmwareUp = true ∧ (∀ k : Fin 5, s.dev.siteState (5 * (site.val / 5) + k.val) ≠ .warm) ∧ (∀ k : Fin 5, s.dev.siteState (5 * (site.val / 5) + k.val) ≠ .held ∨ site.val ≤ 5 * (site.val / 5) + k.val) ∧ s.dev.siteState site.val = .held ∧ s.dev.domUp site.val = true ∧ s.dev.health.siteStates.length = 80) ⟨wPlanDev .armed, []⟩ 5) ∧
    ((fun (s : State) (site : Fin 80) (ok : Bool) => s.dev.anyArmed = false) wRuns 5 true) ∧
    ((fun (s : State) => s.dev.health.craterDirty = true ∧ s.dev.runs 2 = true) wDirty) ∧
    ((fun (s : State) (site : Fin 80) => s.dev.siteState site.val = .fenced ∧ s.dev.health.testedSince.getD site.val none = none ∧ s.dev.runs 2 = true ∧ s.dev.health.recoveries.all (fun r => r.site != site.val && r.fail != site.val) = true ∧ s.dev.health.siteStates.length = 80) ⟨wHost.setSiteState 7 .fenced, []⟩ 7) ∧
    ((fun (s : State) (site : Fin 80) => s.dev.testIsDue site.val 0 = true ∧ s.dev.runs 2 = true ∧ s.dev.firmwareUp = true ∧ s.dev.siteState site.val = .held ∨ s.dev.siteState site.val = .warm ∧ s.dev.health.siteStates.length = 80) ⟨wHost, []⟩ 9) ∧
    ((fun (s : State) (site : Fin 80) => s.dev.testIsDue site.val 0 = true ∧ s.dev.runs 2 = true ∧ s.dev.firmwareUp = true ∧ s.dev.siteState site.val = .inService ∧ site.val < s.dev.health.overdue.length) ⟨wHost.setSiteState 9 .inService, []⟩ 9) ∧
    ((fun (s : State) (site : Fin 80) (t : TestRun) (b : BitVec 52) => s.dev.health.tests.find? (fun t => t.site == site.val) = some t ∧ t.start = some b ∧ testLen t.id ≤ s.dev.since b ∧ t.prior = some .held ∧ s.dev.logs ∧ s.dev.health.siteStates.length = 80 ∧ site.val < s.dev.sites.length) (wTest (some .held)) 8 (wTestRun (some .held)) 1000) ∧
    ((fun (s : State) (site : Fin 80) (lane : Fin 513) (t : TestRun) (b : BitVec 52) (k : Nat) => s.dev.health.tests.find? (fun t => t.site == site.val) = some t ∧ t.start = some b ∧ testLen t.id ≤ s.dev.since b ∧ t.prior = some .held ∧ s.dev.logs ∧ (s.dev.site site.val).lbk.spareMap.findIdx? (fun e => !e.getLsbD 15) = some k ∧ s.dev.health.siteStates.length = 80 ∧ site.val < s.dev.sites.length) (wTest (some .held)) 8 512 (wTestRun (some .held)) 1000 0) ∧
    ((fun (s : State) (site : Fin 80) (t : TestRun) (b : BitVec 52) => s.dev.health.tests.find? (fun t => t.site == site.val) = some t ∧ t.start = some b ∧ testLen t.id ≤ s.dev.since b ∧ t.prior = some .held ∧ s.dev.health.siteStates.length = 80 ∧ site.val < s.dev.sites.length) (wTest (some .held)) 8 (wTestRun (some .held)) 1000) ∧
    ((fun (s : State) (site : Fin 80) (t : TestRun) (b : BitVec 52) => s.dev.health.tests.find? (fun t => t.site == site.val) = some t ∧ t.start = some b ∧ testLen t.id ≤ s.dev.since b ∧ t.prior = none ∧ s.dev.siteState site.val = .inService ∧ s.dev.health.siteStates.length = 80 ∧ site.val < s.dev.sites.length) wServingTest 8 (wTestRun none) 1000) := by
  refine ⟨?_, ?_, ?_, ?_, ?_, ?_, ?_, ?_, ?_, ?_, ?_, ?_, ?_, ?_, ?_, ?_, ?_⟩ <;> decide

/-- The hypotheses of `Obligations.HealsAndLosses` hold together, clause by clause. -/
theorem test_hypotheses_HealsAndLosses :
    ((fun (s : State) (x : Heal) (rest : List Heal) (n : Nat) (g : SharedRegion) => s.dev.health.heals = x :: rest ∧ x.asked = none ∧ s.dev.runs 2 = true ∧ s.dev.sharedWord x.word = some n ∧ s.dev.shared.getD n none = some g ∧ s.dev.health.sharedPeer ≠ 0x7FFF ∧ s.dev.reaches s.dev.health.sharedPeer = true) wHealAsk { word := 0x4000 } [] 2 wShared) ∧
    ((fun (s : State) (p w n base : Nat) (f : Flit) (rest : List (Nat × Flit)) (g : SharedRegion) => s.dev.lnk.inbox = (p, f) :: rest ∧ f.body = .healReq w n base ∧ s.dev.shared.getD n none = some g ∧ g.base = base ∧ meets (64 * w) 64 g.base g.len = true ∧ s.dev.mem.poison.contains w = false ∧ s.dev.wipeHolds (64 * w) 64 = false ∧ s.dev.reaches f.src = true) (wHealIn wHealReqFlit []) 0 0x4000 2 0x100000 wHealReqFlit [] wShared) ∧
    ((fun (s : State) (p w n base : Nat) (f : Flit) (rest : List (Nat × Flit)) => s.dev.lnk.inbox = (p, f) :: rest ∧ f.body = .healReq w n base ∧ s.dev.mem.poison.contains w = true ∨ s.dev.shared.getD n none = none ∧ s.dev.wipeHolds (64 * w) 64 = false ∧ s.dev.reaches f.src = true) (wHealIn wHealReqFlit [0x4000]) 0 0x4000 2 0x100000 wHealReqFlit []) ∧
    ((fun (s : State) (p : Nat) (f : Flit) (fs : List (Nat × Flit)) (x : Heal) (rest : List Heal) (bs : List Byte) => s.dev.lnk.inbox = (p, f) :: fs ∧ f.body = .healAns x.word (some bs) ∧ s.dev.health.heals = x :: rest ∧ x.asked ≠ none ∧ bs.length = 64 ∧ s.dev.mem.poison.contains x.word = true ∧ s.dev.wipeHolds (64 * x.word) 64 = false ∧ s.dev.mem.wf = true ∧ s.dev.logs) wHealed 0 wHealAnsFlit [] { word := 0x4000, asked := some 0 } [] (List.replicate 64 7)) ∧
    ((fun (s : State) (x : Heal) (rest : List Heal) (b : BitVec 52) (n : Nat) => s.dev.health.heals = x :: rest ∧ x.asked = some b ∧ 30000000 < s.dev.since b ∧ s.dev.sharedWord x.word = some n ∧ s.dev.logs) wHealLate { word := 0x4000, asked := some 0 } [] 0 2) ∧
    ((fun (s : State) (x : Heal) (rest : List Heal) (b : BitVec 52) => s.dev.health.heals = x :: rest ∧ x.asked = some b ∧ s.dev.since b ≤ 30000000) wHealed { word := 0x4000, asked := some 0 } [] 0) ∧
    ((fun (s : State) (k : Fin 16) => (s.dev.stk k.val).lost = false ∧ 16 < ((s.dev.stk k.val).poisonBeats.filter (fun b => s.dev.since b < 1000)).length ∧ k.val < s.dev.stks.length ∧ s.dev.logs) (wPoisonedStack 17) 0) ∧
    ((fun (s : State) (k : Fin 16) => ((s.dev.stk k.val).poisonBeats.filter (fun b => s.dev.since b < 1000)).length ≤ 16) (wPoisonedStack 16) 0) ∧
    ((fun (s : State) (k : Fin 16) => s.dev.isFenced (unitId 3 k.val) = false ∧ s.dev.crater? (unitId 3 k.val) = none ∧ s.dev.health.siteStates.length = 80 ∧ k.val < s.dev.stks.length ∧ s.dev.logs) ⟨wInsDev 0 [], []⟩ 2) ∧
    ((fun (s : State) (k : Fin 80) => (s.dev.health.recoveries.find? (fun r => r.site == k.val && r.cause != .inPlace)).isSome = true ∧ k.val < s.dev.health.siteStates.length ∧ s.dev.logs) (wRecovering (wRec .detected) .warm) 0) := by
  refine ⟨?_, ?_, ?_, ?_, ?_, ?_, ?_, ?_, ?_, ?_⟩ <;> decide

/-- The hypotheses of `Obligations.TraceFlushesLosesAndSwitchesOff` hold together, clause by clause. -/
theorem test_hypotheses_TraceFlushesLosesAndSwitchesOff :
    ((fun (s : State) (e : StageEnt) (rest : List StageEnt) => s.dev.trc.staged = e :: rest ∧ s.dev.trc.flushBeats.toNat ≤ s.dev.since e.beat ∧ s.dev.trc.downDue = false ∧ s.dev.dom 170 = .on ∧ (s.dev.upPorts (if e.plan.isSome then e.func else 0)).isEmpty = false ∧ s.dev.stm.hasRoom (48 + (s.dev.trc.staged.map (fun g => g.bytes.length)).sum) = true) wStaged wStageEnt []) ∧
    ((fun (s : State) => s.dev.trc.staged.all (fun e => decide (s.dev.since e.beat < s.dev.trc.flushBeats.toNat)) = true ∧ s.dev.trc.downDue = false) wRuns) ∧
    ((fun (s : State) (n : Nat) (a z : BitVec 64) => s.dev.trc.lostRun = some (n, a, z) ∧ s.dev.trc.used < 16384 ∧ s.dev.trc.downDue = false) wLost 3 0x1000 0x5000) ∧
    ((fun (s : State) (path : RegPath) (v : BitVec 64) => s.dev.pathOpen path = true ∧ s.dev.pwr.ctlUp = true ∧ v.getLsbD 0 = true) wOnSolver .pf0 0x3E7010005) ∧
    ((fun (s : State) (path : RegPath) (v : BitVec 64) => s.dev.pathOpen path = true ∧ s.dev.pwr.ctlUp = true ∧ v.getLsbD 0 = false ∧ v.getLsbD 1 = false ∧ v.getLsbD 3 = false ∧ s.dev.trc.en = true ∧ s.dev.trc.staged = [] ∧ s.dev.trc.lostRun = none ∧ s.dev.dom 170 = .on) wTracing .pf0 0) := by
  refine ⟨?_, ?_, ?_, ?_, ?_⟩ <;> decide

/-- The hypotheses of `Obligations.TapInstructionsSelect` hold together, clause by clause. -/
theorem test_hypotheses_TapInstructionsSelect :
    ((fun (s : State) => s.dev.pwr.vauxOk = true) wRuns) ∧
    ((fun (s : State) => s.dev.pwr.vauxOk = true) wRuns) ∧
    ((fun (s : State) (bits : List Bool) => s.dev.pwr.vauxOk = true) wRuns [true]) ∧
    ((fun (s : State) => s.dev.pwr.vauxOk = true) wInReset) ∧
    ((fun (s : State) => s.dev.pwr.vauxOk = true) wInReset) ∧
    ((fun (s : State) => s.dev.pwr.vauxOk = true) wInReset) ∧
    ((fun (s : State) => s.dev.pwr.vauxOk = true) wRuns) ∧
    ((fun (s : State) (code : BitVec 8) (tdi : List Bool) => s.dev.pwr.vauxOk = true) wInReset 0x03 [true]) ∧
    ((fun (s : State) (off : BitVec 32) (b : Block) => s.dev.pwr.vauxOk = true ∧ s.dev.tapActs = 0x10 ∧ off.toNat % 8 = 0 ∧ blockOf off.toNat = some b ∧ s.dev.blockUp b = true) wNetwork 0 .dev) ∧
    ((fun (s : State) (n : Fin 80) (off : Fin 8388608) (len : Fin 4097) => s.dev.pwr.vauxOk = true ∧ s.dev.tapActs = 0x10 ∧ s.dev.siteStopped n.val = true ∧ s.dev.domUp n.val = true) wNetwork 5 2 8) ∧
    ((fun (s : State) (n : Fin 80) (off : Fin 8388608) (len : Fin 4097) => s.dev.pwr.vauxOk = true ∧ s.dev.tapActs = 0x10 ∧ s.dev.siteStopped n.val = false) wNetworkRun 0 2 8) ∧
    ((fun (s : State) (a : IjtagOp) => s.dev.tapActs ≠ 0x10) wRuns (.threads 3)) := by
  refine ⟨?_, ?_, ?_, ?_, ?_, ?_, ?_, ?_, ?_, ?_, ?_, ?_⟩ <;> decide

/-- The hypotheses of `Obligations.DiscardedFramesChangeNothing` hold together, clause by clause. -/
theorem test_hypotheses_DiscardedFramesChangeNothing :
    ((fun (s : State) (cmd : BitVec 8) (edges : Nat) => s.dev.pwr.vauxOk = true ∧ spiLength cmd 0 = none) wRuns 0x7F 8) ∧
    ((fun (s : State) (edges : Nat) => s.dev.pwr.vauxOk = true ∧ edges ≠ 8 * (1)) wRuns 7) ∧
    ((fun (s : State) (addr : BitVec 48) (edges : Nat) => s.dev.pwr.vauxOk = true ∧ edges ≠ 8 * (7)) wRuns 0xF000000000 48) ∧
    ((fun (s : State) (addr : BitVec 48) (data : BitVec 64) (edges : Nat) => s.dev.pwr.vauxOk = true ∧ edges ≠ 8 * (15)) wRuns 0xF000000008 1 121) ∧
    ((fun (s : State) (edges : Nat) => s.dev.pwr.vauxOk = true ∧ edges ≠ 8 * (9)) wRuns 80) ∧
    ((fun (s : State) (off n : BitVec 16) (data : List Byte) (edges : Nat) => s.dev.pwr.vauxOk = true ∧ edges ≠ 8 * (5 + n.toNat)) wRuns 0 4 [1, 2, 3, 4] 64) ∧
    ((fun (s : State) (edges : Nat) => s.dev.pwr.vauxOk = true ∧ edges ≠ 8 * (1)) wRuns 16) ∧
    ((fun (s : State) (off n : BitVec 16) (edges : Nat) => s.dev.pwr.vauxOk = true ∧ edges ≠ 8 * (5 + n.toNat)) wRuns 0 4 64) ∧
    ((fun (s : State) (edges : Nat) => s.dev.pwr.vauxOk = true ∧ edges ≠ 8 * (1)) wRuns 9) ∧
    ((fun (s : State) (edges : Nat) => s.dev.pwr.vauxOk = true ∧ edges ≠ 8 * (65)) wRuns 8) ∧
    ((fun (s : State) (edges : Nat) => s.dev.pwr.vauxOk = true ∧ edges ≠ 8 * (1)) wRuns 0) := by
  refine ⟨?_, ?_, ?_, ?_, ?_, ?_, ?_, ?_, ?_, ?_, ?_⟩ <;> decide

/-- The hypotheses of `Obligations.FramesOfTheRightLengthAct` hold together, clause by clause. -/
theorem test_hypotheses_FramesOfTheRightLengthAct :
    ((fun (s : State) (edges : Nat) => s.dev.pwr.vauxOk = true ∧ edges = 8) wRuns 8) ∧
    ((fun (s : State) (addr : BitVec 48) (edges : Nat) => s.dev.pwr.vauxOk = true ∧ edges = 56 ∧ s.dev.mgt.access = none ∧ s.dev.mgtOk addr.toNat = true) wRuns 0xF000000000 56) ∧
    ((fun (s : State) (addr : BitVec 48) (edges : Nat) => s.dev.pwr.vauxOk = true ∧ edges = 56 ∧ s.dev.mgt.access ≠ none ∨ s.dev.mgtOk addr.toNat = false) wRuns 0xF000000004 56) ∧
    ((fun (s : State) (addr : BitVec 48) (data : BitVec 64) (edges : Nat) => s.dev.pwr.vauxOk = true ∧ edges = 120 ∧ s.dev.mgt.access = none ∧ s.dev.mgtOk addr.toNat = true) wRuns 0xF000000008 1 120) ∧
    ((fun (s : State) (addr : BitVec 48) (data : BitVec 64) (edges : Nat) => s.dev.pwr.vauxOk = true ∧ edges = 120 ∧ s.dev.mgt.access ≠ none ∨ s.dev.mgtOk addr.toNat = false) wRuns 0xEFFFFFFFF8 1 120) ∧
    ((fun (s : State) (a : Nat) (b : Block) => s.dev.mgt.access = some (.read a) ∧ s.dev.mgtOk a = true ∧ blockOf (a - spaceBase) = some b) (wAccess (.read 0xF000000000)) 0xF000000000 .dev) ∧
    ((fun (s : State) (a : Nat) (v : BitVec 64) => s.dev.mgt.access = some (.write a v) ∧ s.dev.mgtOk a = true ∧ a = spaceBase + 8) (wAccess (.write 0xF000000008 5)) 0xF000000008 5) ∧
    ((fun (s : State) => s.dev.mgt.access = none) wRuns) ∧
    ((fun (s : State) (edges : Nat) => s.dev.pwr.vauxOk = true ∧ edges = 72) wRuns 72) ∧
    ((fun (s : State) (off n : BitVec 16) (data : List Byte) (edges : Nat) => s.dev.pwr.vauxOk = true ∧ edges = 8 * (5 + n.toNat) ∧ windowFrameOk off n = true ∧ n ≠ 0 ∧ data.length = n.toNat ∧ s.dev.pwr.ctlUp = true ∧ (s.dev.chan 7).winFree = true ∧ 7 < s.dev.chans.length ∧ (s.dev.chan 7).window.length = 4096) wRuns 4094 2 [8, 9] 56) ∧
    ((fun (s : State) (off n : BitVec 16) (data : List Byte) (edges : Nat) => s.dev.pwr.vauxOk = true ∧ edges = 8 * (5 + n.toNat) ∧ windowFrameOk off n = false ∨ s.dev.pwr.ctlUp = false) wRuns 4094 3 [8, 9, 7] 64) ∧
    ((fun (s : State) (edges : Nat) => s.dev.pwr.vauxOk = true ∧ edges = 8 ∧ s.dev.pwr.ctlUp = true ∧ (s.dev.chan 7).winFree = true ∧ (s.dev.chan 7).resetBusy = false ∧ (s.dev.chan 7).outstanding < 64 ∧ 7 < s.dev.chans.length) wRuns 8) ∧
    ((fun (s : State) (edges : Nat) => s.dev.pwr.vauxOk = true ∧ edges = 8 ∧ s.dev.pwr.ctlUp = true ∧ (s.dev.chan 7).winFree = true ∧ (s.dev.chan 7).resetBusy = false ∧ 64 ≤ (s.dev.chan 7).outstanding ∧ 7 < s.dev.chans.length) (wChan 7 (fun x => { x with outstanding := 64 })) 8) ∧
    ((fun (s : State) (off n : BitVec 16) (edges : Nat) => s.dev.pwr.vauxOk = true ∧ edges = 8 * (5 + n.toNat) ∧ windowFrameOk off n = true ∧ s.dev.pwr.ctlUp = true) wAnswered 0 3 64) ∧
    ((fun (s : State) (edges : Nat) (m : List Byte) (rest : List (List Byte)) => s.dev.pwr.vauxOk = true ∧ edges = 8 ∧ s.dev.pwr.ctlUp = true ∧ (s.dev.chan 7).responses = m :: rest) wAnswered 8 [1, 2, 3] []) ∧
    ((fun (s : State) (edges : Nat) (r : Rec) (rest : List Rec) => s.dev.pwr.vauxOk = true ∧ edges = 520 ∧ s.dev.health.latch = r :: rest) wLatched 520 wLatchRec []) ∧
    ((fun (s : State) (edges : Nat) (r : Rec) (rest : List Rec) => s.dev.pwr.vauxOk = true ∧ edges = 8 ∧ s.dev.health.latch = r :: rest ∧ s.dev.health.latchNow ≤ rest.length) wLatched 8 wLatchRec []) ∧
    ((fun (s : State) (edges : Nat) => s.dev.pwr.vauxOk = true ∧ edges = 8 ∧ s.dev.health.latch.length ≤ s.dev.health.latchNow) wRuns 8) := by
  refine ⟨?_, ?_, ?_, ?_, ?_, ?_, ?_, ?_, ?_, ?_, ?_, ?_, ?_, ?_, ?_, ?_, ?_, ?_⟩ <;> decide

/-- The hypotheses of `Obligations.RegisterWritesFollowTheirCodes` hold together, clause by clause. -/
theorem test_hypotheses_RegisterWritesFollowTheirCodes :
    ((fun (s : State) (jtag : Bool) (off : BitVec 32) (data : List Byte) => s.dev.pathOpen (if jtag then .jtag else .pf0) = true ∧ off.toNat = 0x8 ∧ data.length = 8 ∧ s.dev.pwr.ctlUp = true) wFlaggedErr false 8 [5, 0, 0, 0, 0, 0, 0, 0]) ∧
    ((fun (s : State) (jtag : Bool) (off : BitVec 32) (data : List Byte) => s.dev.pathOpen (if jtag then .jtag else .pf0) = true ∧ off.toNat = 0x0 ∧ data.length = 8 ∧ s.dev.pwr.ctlUp = true) wHostSt false 0 [5, 0, 0, 0, 0, 0, 0, 0]) ∧
    ((fun (s : State) (jtag : Bool) (off : BitVec 32) (data : List Byte) => s.dev.pathOpen (if jtag then .jtag else .pf0) = true ∧ off.toNat = 0x5010 ∧ data.length = 8 ∧ s.dev.pwr.ctlUp = true) wHostSt false 0x5010 [1, 2, 3, 4, 0, 0, 0, 0]) ∧
    ((fun (s : State) (jtag : Bool) (off : BitVec 32) (data : List Byte) (n : Fin 80) => s.dev.pathOpen (if jtag then .jtag else .pf0) = true ∧ off.toNat = 0x100028 + 0x10000 * n.val ∧ data.length = 8 ∧ s.dev.blockUp (.lbk n.val) = true) wHostSt false 0x5F0028 [5, 0, 0, 0, 0, 0, 0, 0] 79) ∧
    ((fun (s : State) (jtag : Bool) (off : BitVec 32) (data : List Byte) (b : Block) => s.dev.pathOpen (if jtag then .jtag else .pf0) = true ∧ 1 ≤ data.length ∧ off.toNat % 8 + data.length ≤ 8 ∧ data.length < 8 ∧ blockOf (off.toNat / 8 * 8) = some b ∧ s.dev.blockUp b = true ∧ s.dev.pwr.ctlUp = true) wHostSt false 0x500C [1, 2, 3, 4] .trc) ∧
    ((fun (s : State) (jtag : Bool) (off : BitVec 32) (data : List Byte) => s.dev.pathOpen (if jtag then .jtag else .pf0) = true ∧ off.toNat % 8 = 0 ∧ data.length = 8 ∧ blockOf off.toNat = none ∧ s.dev.pwr.ctlUp = true) wHostSt false 0xC000 [1, 2, 3, 4, 5, 6, 7, 8]) ∧
    ((fun (s : State) (jtag : Bool) (off : BitVec 32) (data : List Byte) (b : Block) => s.dev.pathOpen (if jtag then .jtag else .pf0) = true ∧ off.toNat % 8 = 0 ∧ data.length = 8 ∧ blockOf off.toNat = some b ∧ s.dev.blockUp b = false ∧ s.dev.pwr.ctlUp = true) wOffSolver false 0x70008 [1, 2, 3, 4, 5, 6, 7, 8] (.slv 0)) ∧
    ((fun (s : State) (jtag : Bool) (off : BitVec 32) (data : List Byte) => s.dev.pathOpen (if jtag then .jtag else .pf0) = false) wRuns false 0x8 [255, 0, 0, 0, 0, 0, 0, 0]) ∧
    ((fun (s : State) (data : List Byte) => s.dev.pwr.pcieUp = true) wHostSt []) ∧
    ((fun (s : State) (f : Fin 5) (off : Fin 4096) (data : List Byte) => s.dev.funcUp f.val = true ∧ off.val + data.length ≤ 4096 ∧ (s.dev.msixTab.getD f.val []) = [] ∧ f.val < s.dev.msixTab.length) wHostSt 0 4092 [1, 2, 3, 4]) ∧
    ((fun (s : State) (f : Fin 5) (ch : Fin 8) (off : Fin 0x4000) (data : List Byte) => s.dev.canUse f.val ch.val = true ∧ 0x2000 ≤ off.val ∧ off.val % 8 + data.length < 8 ∧ 1 ≤ data.length) wHostSt 0 0 0x2000 [1, 2]) ∧
    ((fun (s : State) (f : Fin 5) (q : Fin 72) (off : Fin 0x20000) (data : List Byte) => s.dev.funcUp f.val = true ∧ (s.dev.queueOf f.val q.val).isSome = true ∧ 0x11000 ≤ off.val ∧ off.val < 0x11080 ∧ off.val % 8 + data.length < 8 ∧ 1 ≤ data.length) ⟨wPlanDev .armed, []⟩ 0 0 0x11000 [1, 2]) := by
  refine ⟨?_, ?_, ?_, ?_, ?_, ?_, ?_, ?_, ?_, ?_, ?_, ?_⟩ <;> decide

/-- The hypotheses of `Obligations.BusyWindowsAndDoorbellsAreIgnored` hold together, clause by clause. -/
theorem test_hypotheses_BusyWindowsAndDoorbellsAreIgnored :
    ((fun (s : State) (func : Fin 5) (ch : Fin 8) (off : Fin 4096) (data : List Byte) => s.dev.canUse func.val ch.val = true ∧ (s.dev.chan ch.val).winFree = false) (wChan 2 (fun x => { x with winFree := false })) 2 2 0 [1]) ∧
    ((fun (s : State) (func : Fin 5) (ch : Fin 8) => s.dev.canUse func.val ch.val = true ∧ (s.dev.chan ch.val).winFree = false) (wChan 2 (fun x => { x with winFree := false })) 2 2) ∧
    ((fun (s : State) (off n : BitVec 16) (data : List Byte) (edges : Nat) => s.dev.pwr.vauxOk = true ∧ edges = 8 * (5 + n.toNat) ∧ windowFrameOk off n = true ∧ n ≠ 0 ∧ s.dev.pwr.ctlUp = true ∧ (s.dev.chan 7).winFree = false) (wChan 7 (fun x => { x with winFree := false })) 0 1 [9] 48) ∧
    ((fun (s : State) (edges : Nat) => s.dev.pwr.vauxOk = true ∧ edges = 8 ∧ s.dev.pwr.ctlUp = true ∧ (s.dev.chan 7).winFree = false) (wChan 7 (fun x => { x with winFree := false })) 8) := by
  refine ⟨?_, ?_, ?_, ?_⟩ <;> decide

theorem test_reset_memory_canonical : State.reset.dev.mem.wf = true ∧ wReady.dev.mem.wf = true := by decide

theorem test_reset_sized : State.reset.dev.sized = true ∧ wReady.dev.sized = true := by decide

theorem test_other_commands : (∀ (k : Fin 2) (bad : Fin 8), Instr.pcieReset ≠ .memoryWipe (k.castLE (by decide)) [bad.val]) ∧
    ((wJob (.create 3) 0x0400 []).dev.wipes.all (fun j => !j.wipesSites) = true) ∧ (∀ bad : Fin 8, Instr.pcieReset ≠ .firmwareAuth [bad]) := by decide

end Sys2Proof.Machine
end

section
/-! SUPPORT. The sizes of the register banks: one lemma per operation, `<operation>_sizes`, says that it keeps the size of every bank, so
that every step does. -/

namespace Sys2Proof.Machine

/-! ### The sizes of a machine's banks -/

/-- The sizes of the banks that `Dev.sized` speaks of, in its order. -/
def Dev.sizes (d : Dev) : List Nat :=
  [d.fwp.length, d.chans.length, d.siteOf.length, d.cqs.length, d.shared.length, d.stks.length, d.dscs.length, d.sites.length,
    d.lnk.ports.length, d.col.engines.length, d.slv.length, d.stm.ports.length, d.pwr.doms.length, d.msixTab.length,
    d.health.siteStates.length, d.health.overdue.length, d.health.lastPass.length, d.health.testedSince.length]

/-- The sizes that the spec gives (R17, R19, R62, R113, R432). -/
def bankSizes : List Nat := [5, 8, 72, 72, 8, 16, 16, 80, 24, 16, 4, 4, 171, 5, 80, 80, 80, 80]

theorem sized_iff_sizes (d : Dev) : d.sized = true ↔ d.sizes = bankSizes := by
  simp [Dev.sized, Dev.sizes, bankSizes, and_assoc]

/-- An operation that keeps the sizes of all banks keeps them whole. -/
theorem sized_of_sizes {d e : Dev} (h : e.sizes = d.sizes) (hd : d.sized = true) : e.sized = true := by
  rw [sized_iff_sizes] at hd ⊢
  exact h.trans hd

/-- The parts of the machine that hold a bank. -/
def bankParts : List Part :=
  [.fwp, .chans, .siteOf, .cqs, .shared, .stks, .dscs, .sites, .lnk, .col, .slv, .stm, .pwr, .msixTab, .health]

/-- An operation that touches no bank keeps their sizes. -/
theorem sizes_of_only {m : List Part} {d e : Dev} (h : Only m d e) (hm : bankParts.all (fun p => !m.contains p) = true) :
    e.sizes = d.sizes := by
  have same : ∀ p ∈ bankParts, Same d e p := fun p hp => h.same p (by simpa using List.all_eq_true.mp hm p hp)
  simp only [bankParts, List.mem_cons, List.not_mem_nil, or_false, forall_eq_or_imp, forall_eq, Same] at same
  obtain ⟨h1, h2, h3, h4, h5, h6, h7, h8, h9, h10, h11, h12, h13, h14, h15⟩ := same
  simp only [Dev.sizes, h1, h2, h3, h4, h5, h6, h7, h8, h9, h10, h11, h12, h13, h14, h15]

/-! ### Choices, loops and updates of one field -/

@[simp] theorem sizes_ite (c : Prop) [Decidable c] (d e : Dev) : (if c then d else e).sizes = if c then d.sizes else e.sizes := apply_ite ..

theorem sizes_of_ite {c : Prop} [Decidable c] {d e f : Dev} (hd : d.sizes = f.sizes) (he : e.sizes = f.sizes) :
    (if c then d else e).sizes = f.sizes := by split <;> assumption

@[simp] theorem sizes_ite_fst {α : Type} (c : Prop) [Decidable c] (x y : Dev × α) :
    (if c then x else y).1.sizes = if c then x.1.sizes else y.1.sizes := apply_ite (fun z : Dev × α => z.1.sizes) ..

/-- The machine of a pair that an equation names. -/
theorem sizes_fst {α : Type} {x : Dev × α} {e : Dev} {a : α} (h : x = (e, a)) : e.sizes = x.1.sizes := by rw [h]

theorem sizes_snd {α : Type} {x : α × Dev} {e : Dev} {a : α} (h : x = (a, e)) : e.sizes = x.2.sizes := by rw [h]

@[simp] theorem sizes_foldl {α : Type} {f : Dev → α → Dev} (h : ∀ d a, (f d a).sizes = d.sizes) (l : List α) (d : Dev) :
    (l.foldl f d).sizes = d.sizes := by
  induction l generalizing d with
  | nil => rfl
  | cons a l ih => exact (ih _).trans (h d a)

section
variable (d : Dev)

/-- The fields that hold no bank may take any value. -/
@[simp] theorem sizes_with (bt reqs dones rings msix plans lastHandle mapTs epoch mem rampStep rampBeat fenceFall deliveries solves wipes sec
    trc jtag mgt devErr free) :
    Dev.sizes { d with bt, reqs, dones, rings, msix, plans, lastHandle, mapTs, epoch, mem, rampStep, rampBeat, fenceFall, deliveries
                       solves, wipes, sec, trc, jtag, mgt, devErr, free } = d.sizes := rfl
@[simp] theorem sizes_with_fwp {v : List Fwp} (h : v.length = d.fwp.length) : Dev.sizes { d with fwp := v } = d.sizes := by
  simp [Dev.sizes, h]
@[simp] theorem sizes_with_chans {v : List Chan} (h : v.length = d.chans.length) : Dev.sizes { d with chans := v } = d.sizes := by
  simp [Dev.sizes, h]
@[simp] theorem sizes_with_siteOf (mapTs) {v : List Nat} (h : v.length = d.siteOf.length) :
    Dev.sizes { d with siteOf := v, mapTs } = d.sizes := by
  simp [Dev.sizes, h]
/-- A core's entry of the site map. -/
theorem setSiteOf_sizes (c v : Nat) (t : BitVec 64) : Dev.sizes { d with siteOf := d.siteOf.set c v, mapTs := t } = d.sizes :=
  sizes_with_siteOf d t (by simp)
@[simp] theorem sizes_with_cqs {v : List Cq} (h : v.length = d.cqs.length) : Dev.sizes { d with cqs := v } = d.sizes := by
  simp [Dev.sizes, h]
@[simp] theorem sizes_with_shared {v : List (Option SharedRegion)} (h : v.length = d.shared.length) :
    Dev.sizes { d with shared := v } = d.sizes := by
  simp [Dev.sizes, h]
@[simp] theorem sizes_with_stks {v : List Stk} (h : v.length = d.stks.length) : Dev.sizes { d with stks := v } = d.sizes := by
  simp [Dev.sizes, h]
@[simp] theorem sizes_with_dscs {v : List Dsc} (h : v.length = d.dscs.length) : Dev.sizes { d with dscs := v } = d.sizes := by
  simp [Dev.sizes, h]
@[simp] theorem sizes_with_sites (rampBeat) {v : List Site} (h : v.length = d.sites.length) :
    Dev.sizes { d with sites := v, rampBeat } = d.sizes := by
  simp [Dev.sizes, h]
@[simp] theorem sizes_with_slv (solves) {v : List Slv} (h : v.length = d.slv.length) : Dev.sizes { d with slv := v, solves } = d.sizes := by
  simp [Dev.sizes, h]
@[simp] theorem sizes_with_lnk {v : Lnk} (h : v.ports.length = d.lnk.ports.length) : Dev.sizes { d with lnk := v } = d.sizes := by
  simp [Dev.sizes, h]
@[simp] theorem sizes_with_col (deliveries) {v : Col} (h : v.engines.length = d.col.engines.length) :
    Dev.sizes { d with col := v, deliveries } = d.sizes := by
  simp [Dev.sizes, h]
@[simp] theorem sizes_with_stm (mapTs trc) {v : Stm} (h : v.ports.length = d.stm.ports.length) :
    Dev.sizes { d with stm := v, mapTs, trc } = d.sizes := by
  simp [Dev.sizes, h]
@[simp] theorem sizes_with_pwr (sec mgt) {v : Pwr} (h : v.doms.length = d.pwr.doms.length) : Dev.sizes { d with pwr := v, sec, mgt } = d.sizes := by
  simp [Dev.sizes, h]
@[simp] theorem sizes_with_msixTab (msix) {v : List (List Host.Cell)} (h : v.length = d.msixTab.length) :
    Dev.sizes { d with msixTab := v, msix } = d.sizes := by
  simp [Dev.sizes, h]
@[simp] theorem sizes_with_health (plans) {v : Health} (h1 : v.siteStates.length = d.health.siteStates.length)
    (h2 : v.overdue.length = d.health.overdue.length) (h3 : v.lastPass.length = d.health.lastPass.length)
    (h4 : v.testedSince.length = d.health.testedSince.length) : Dev.sizes { d with health := v, plans } = d.sizes := by
  simp [Dev.sizes, h1, h2, h3, h4]
end

/-! ### State accessors, lines and interrupts -/

@[simp] theorem modSite_sizes (d : Dev) (n : Nat) (f : Site → Site) : (d.modSite n f).sizes = d.sizes := by
  simp [Dev.modSite]

@[simp] theorem modCq_sizes (d : Dev) (c : Nat) (f : Cq → Cq) : (d.modCq c f).sizes = d.sizes := by
  simp [Dev.modCq]

@[simp] theorem modRegs_sizes (d : Dev) (c : Nat) (f : CqRegs → CqRegs) : (d.modRegs c f).sizes = d.sizes := by
  simp [Dev.modRegs]

@[simp] theorem modChan_sizes (d : Dev) (c : Nat) (f : Chan → Chan) : (d.modChan c f).sizes = d.sizes := by
  simp [Dev.modChan]

@[simp] theorem modStk_sizes (d : Dev) (s : Nat) (f : Stk → Stk) : (d.modStk s f).sizes = d.sizes := by
  simp [Dev.modStk]

@[simp] theorem modDsc_sizes (d : Dev) (s : Nat) (f : Dsc → Dsc) : (d.modDsc s f).sizes = d.sizes := by
  simp [Dev.modDsc]

@[simp] theorem modFw_sizes (d : Dev) (i : Nat) (f : Fwp → Fwp) : (d.modFw i f).sizes = d.sizes := by
  simp [Dev.modFw]

@[simp] theorem modStmPort_sizes (d : Dev) (i : Nat) (f : StmPort → StmPort) : (d.modStmPort i f).sizes = d.sizes := by
  simp [Dev.modStmPort]

@[simp] theorem setSiteState_sizes (d : Dev) (n : Nat) (x : SiteState) : (d.setSiteState n x).sizes = d.sizes := by
  simp [Dev.setSiteState]

@[simp] theorem modPlan_sizes (d : Dev) (h : BitVec 16) (f : Plan → Plan) :
    (d.modPlan h f).sizes = d.sizes := sizes_of_only (modPlan_only ..) rfl

@[simp] theorem draw_sizes (d : Dev) : d.draw.2.sizes = d.sizes := sizes_of_only (draw_only ..) rfl

@[simp] theorem countPoison_sizes (d : Dev) (a : Nat) : (d.countPoison a).sizes = d.sizes := by
  simp [Dev.countPoison]

@[simp] theorem roomFor_sizes (d : Dev) (l : Nat) : (d.roomFor l).sizes = d.sizes := by
  simp [Dev.roomFor]

@[simp] theorem countLine_sizes (d : Dev) (hit : Bool) (l : Nat) : (d.countLine hit l).sizes = d.sizes := by
  simp [Dev.countLine]

@[simp] theorem readLine_sizes (d : Dev) (own : List Nat) (l : Nat) : (d.readLine own l).sizes = d.sizes := by
  simp [Dev.readLine]

@[simp] theorem writeLine_sizes (d : Dev) (own : List Nat) (l : Nat) : (d.writeLine own l).sizes = d.sizes := by
  simp [Dev.writeLine]

@[simp] theorem commitLine_sizes (d : Dev) (l : Nat) : (d.commitLine l).sizes = d.sizes := by
  simp [Dev.commitLine]

@[simp] theorem readLines_sizes (d : Dev) (c a n : Nat) : (d.readLines c a n).sizes = d.sizes := by
  simp [Dev.readLines]

@[simp] theorem writeLines_sizes (d : Dev) (c a n : Nat) : (d.writeLines c a n).sizes = d.sizes := by
  simp [Dev.writeLines]

@[simp] theorem deliverLines_sizes (d : Dev) (a n : Nat) : (d.deliverLines a n).sizes = d.sizes := by
  simp [Dev.deliverLines]

@[simp] theorem dropLines_sizes (d : Dev) (a n : Nat) : (d.dropLines a n).sizes = d.sizes := by
  simp [Dev.dropLines]

@[simp] theorem waitWay_sizes (d : Dev) (a : Nat) : (d.waitWay a).sizes = d.sizes := by
  simp [Dev.waitWay]

@[simp] theorem sendMsix_sizes (d : Dev) (func : Nat) (vec : BitVec 8) :
    (d.sendMsix func vec).sizes = d.sizes := sizes_of_only (sendMsix_only ..) rfl

@[simp] theorem releaseMsix_sizes (d : Dev) (func : Nat) : (d.releaseMsix func).sizes = d.sizes := sizes_of_only (releaseMsix_only ..) rfl

@[simp] theorem chanMsix_sizes (d : Dev) (c : Nat) : (d.chanMsix c).sizes = d.sizes := sizes_of_only (chanMsix_only ..) rfl

@[simp] theorem queueResp_sizes (d : Dev) (c : Nat) (bs : List Byte) : (d.queueResp c bs).sizes = d.sizes := by
  simp [Dev.queueResp]

/-! ### Records -/

@[simp] theorem pushOut_sizes (d : Dev) (r : OutRec) : (d.pushOut r).sizes = d.sizes := by
  simp [Dev.pushOut]

@[simp] theorem closeStream_sizes (d : Dev) (plan : Option (BitVec 16)) (sid : BitVec 16) : (d.closeStream plan sid).sizes = d.sizes := by
  simp [Dev.closeStream]

@[simp] theorem closeWhere_sizes (which : StageEnt → Bool) (n : Nat) (d : Dev) : (Dev.closeWhere which n d).sizes = d.sizes := by
  induction n generalizing d with
  | zero => rfl
  | succ n ih =>
    unfold Dev.closeWhere
    split
    · rfl
    · simp [ih]

@[simp] theorem stageLost_sizes (d : Dev) : d.stageLost.sizes = d.sizes := sizes_of_only (stageLost_only ..) rfl

@[simp] theorem stage_sizes (d : Dev) (sid : BitVec 16) (plan : Option (BitVec 16)) (func : Nat) (bs : List Byte) :
    (d.stage sid plan func bs).sizes = d.sizes := by
  simp [Dev.stage]

@[simp] theorem stagePlan_sizes (d : Dev) (h : BitVec 16) (func : Nat) (sid : Option (BitVec 16)) (bs : List Byte) :
    (d.stagePlan h func sid bs).sizes = d.sizes := by
  unfold Dev.stagePlan
  split <;> simp

@[simp] theorem stageAll_sizes (d : Dev) (h : BitVec 16) (func : Nat) (l : List (Option (BitVec 16) × Bool × List Byte)) :
    (d.stageAll h func l).sizes = d.sizes := by
  simp [Dev.stageAll]

@[simp] theorem stageDomain_sizes (d : Dev) (code dom cause : Nat) : (d.stageDomain code dom cause).sizes = d.sizes := by
  simp [Dev.stageDomain]

@[simp] theorem latchPush_sizes (d : Dev) (r : Rec) : (d.latchPush r).sizes = d.sizes := by
  simp [Dev.latchPush]

@[simp] theorem queueEvent_sizes (d : Dev) (r : Rec) : (d.queueEvent r).sizes = d.sizes := by
  simp [Dev.queueEvent]

@[simp] theorem postEvent_sizes (d : Dev) (r : Rec) : (d.postEvent r).sizes = d.sizes := by
  simp [Dev.postEvent]

@[simp] theorem logRecord_sizes (d : Dev) (r : Rec) : (d.logRecord r).sizes = d.sizes := by
  simp [Dev.logRecord]

@[simp] theorem takeRecord_sizes (d : Dev) (r : Rec) : (d.takeRecord r).sizes = d.sizes := by
  simp [Dev.takeRecord]

@[simp] theorem takeHeld_sizes (d : Dev) : d.takeHeld.sizes = d.sizes := by
  simp [Dev.takeHeld]

@[simp] theorem writeRecord_sizes (d : Dev) (r : Rec) : (d.writeRecord r).sizes = d.sizes := by
  simp [Dev.writeRecord]

@[simp] theorem setHltEvent_sizes (d : Dev) (i : Nat) : (d.setHltEvent i).sizes = d.sizes := by
  simp [Dev.setHltEvent]

@[simp] theorem haltQueue_sizes (d : Dev) (c : Nat) : (d.haltQueue c).sizes = d.sizes := by
  simp [Dev.haltQueue]

@[simp] theorem haltPlan_sizes (d : Dev) (p : Plan) : (d.haltPlan p).sizes = d.sizes := by
  simp [Dev.haltPlan]

/-! ### Operands -/

@[simp] theorem unitLines_sizes (d : Dev) (c : Nat) (reads : List (Nat × Nat)) (writes : List (Nat × List Byte)) :
    (d.unitLines c reads writes).sizes = d.sizes := by
  simp [Dev.unitLines]

@[simp] theorem unitWrite_sizes (d : Dev) (c : Nat) (reads : List (Nat × Nat)) (writes : List (Nat × List Byte)) :
    (d.unitWrite c reads writes).1.sizes = d.sizes := by
  unfold Dev.unitWrite
  dsimp only
  repeat' split
  all_goals simp

/-! ### Issue -/

@[simp] theorem takeHead_sizes (d : Dev) (x : Ctx) (f : Fetched) : (d.takeHead x f).sizes = d.sizes := by
  simp [Dev.takeHead]

theorem issue_q_sizes {d e : Dev} {c op : Nat} {x : Ctx} {fl : Flight} (h : d.issue? c op = some (x, fl, e)) : e.sizes = d.sizes := by
  unfold Dev.issue? at h
  split at h
  · cases h
  · split at h
    · cases h; rfl
    · split at h
      · cases h
      · split at h
        · cases h; simp
        · cases h

@[simp] theorem putFlight_sizes (d : Dev) (c : Nat) (fl : Flight) : (d.putFlight c fl).sizes = d.sizes := by
  simp [Dev.putFlight]

@[simp] theorem badRecord_sizes (d : Dev) (x : Ctx) (bs : List Byte) (status : BitVec 16) (addr : Option Nat) :
    (d.badRecord x bs status addr).sizes = d.sizes := by
  simp [Dev.badRecord]

@[simp] theorem restartDeadlock_sizes (d : Dev) (c : Nat) : (d.restartDeadlock c).sizes = d.sizes := by
  simp [Dev.restartDeadlock]

@[simp] theorem complete_sizes (d : Dev) (x : Ctx) (bs : List Byte) (status : BitVec 16) (cflags : BitVec 8) (addr : Option Nat) :
    (d.complete x bs status cflags addr).sizes = d.sizes := by
  simp [Dev.complete]

@[simp] theorem completeNow_sizes (d : Dev) (x : Ctx) (fl : Flight) : (d.completeNow x fl).sizes = d.sizes := by
  simp [Dev.completeNow]

@[simp] theorem modCcr_sizes (d : Dev) (n : Nat) (f : Ccr → Ccr) : (d.modCcr n f).sizes = d.sizes := by
  simp [Dev.modCcr]

theorem takeTuple_sizes {d e : Dev} {site n : Nat} {tag : BitVec 32} {s : List Nat} (h : d.takeTuple site n tag = some (s, e)) :
    e.sizes = d.sizes := by
  unfold Dev.takeTuple at h
  split at h
  · cases h
  · cases h; simp

/-- A command's units keep the sizes if its work on one unit does. -/
theorem unitLoop_sizes {f : Dev → Flight → Nat → List Nat → Dev × Flight × UnitEnd} (hf : ∀ d fl n s, (f d fl n s).1.sizes = d.sizes)
    (x : Ctx) (k n : Nat) (d : Dev) (fl : Flight) : (unitLoop x k f n d fl).1.sizes = d.sizes := by
  induction n generalizing d fl with
  | zero => rfl
  | succ n ih =>
    unfold unitLoop
    dsimp only
    split
    · split
      next h => rw [ih, sizes_fst h, hf]
      next h => rw [sizes_fst h, hf]
      next h => rw [sizes_fst h, hf]
      next h => rw [sizes_fst h, hf]
      next => rfl
    · split
      · rfl
      next ht =>
        have hd := takeTuple_sizes ht
        split
        · split
          next h => rw [ih, sizes_fst h, hf, restartDeadlock_sizes, hd]
          next h => rw [sizes_fst h, hf, restartDeadlock_sizes, hd]
          next h => rw [sizes_fst h, hf, restartDeadlock_sizes, hd]
          next h => rw [sizes_fst h, hf, restartDeadlock_sizes, hd]
          next => rfl
        · simp [hd]

@[simp] theorem countFault_sizes (d : Dev) (core : Option Nat) : (d.countFault core).2.sizes = d.sizes := by
  unfold Dev.countFault
  repeat' split
  all_goals simp

@[simp] theorem siteFault_sizes (d : Dev) (site : Nat) (cause : RecCause) (source err : Nat) (tag : BitVec 32) :
    (d.siteFault site cause source err tag).sizes = d.sizes := by
  unfold Dev.siteFault
  split <;> simp

/-! ### Crater -/

@[simp] theorem enterCrater_sizes (d : Dev) (u : BitVec 16) (host : Option (BitVec 8)) : (d.enterCrater u host).2.sizes = d.sizes := by
  simp [Dev.enterCrater]

@[simp] theorem modCrater_sizes (d : Dev) (u : BitVec 16) (f : Crater → Crater) : (d.modCrater u f).sizes = d.sizes := by
  simp [Dev.modCrater]

@[simp] theorem leaveCrater_sizes (d : Dev) (u : BitVec 16) : (d.leaveCrater u).sizes = d.sizes := by
  simp [Dev.leaveCrater]

@[simp] theorem countDeviceFault_sizes (d : Dev) : d.countDeviceFault.2.sizes = d.sizes := by
  unfold Dev.countDeviceFault
  dsimp only
  repeat' split
  all_goals simp

/-! ### Domains -/

@[simp] theorem setDom_sizes (d : Dev) (k : Nat) (s : DomState) : (d.setDom k s).sizes = d.sizes := by
  simp [Dev.setDom]

@[simp] theorem serveRamps_sizes (n : Nat) (d : Dev) : (Dev.serveRamps n d).sizes = d.sizes := by
  induction n generalizing d with
  | zero => rfl
  | succ n ih =>
    unfold Dev.serveRamps
    split
    · rfl
    · split
      · rfl
      · simp [ih]

@[simp] theorem powerUp_sizes (d : Dev) (k cause : Nat) : (d.powerUp k cause).sizes = d.sizes := by
  simp [Dev.powerUp]

@[simp] theorem discharge_sizes (d : Dev) (k : Nat) : (d.discharge k).sizes = d.sizes := by
  simp [Dev.discharge]

@[simp] theorem powerOff_sizes (d : Dev) (k cause : Nat) : (d.powerOff k cause).sizes = d.sizes := by
  simp [Dev.powerOff]

@[simp] theorem endDowns_sizes (d : Dev) : d.endDowns.sizes = d.sizes := by
  have hlen : ∀ (l : List (Nat × BitVec 52)) (ds : List DomState), (l.foldl (fun l e => l.set e.1 .off) ds).length = ds.length := by
    intro l
    induction l <;> simp_all
  simp [Dev.endDowns, hlen]

@[simp] theorem powerDown_sizes (d : Dev) (k cause : Nat) : (d.powerDown k cause).sizes = d.sizes := by
  unfold Dev.powerDown
  dsimp only
  repeat' split
  all_goals simp

@[simp] theorem releaseDomains_sizes (d : Dev) : d.releaseDomains.sizes = d.sizes := by
  simp [Dev.releaseDomains]

/-! ### Lane -/

@[simp] theorem modLbk_sizes (d : Dev) (n : Nat) (f : Lbk → Lbk) : (d.modLbk n f).sizes = d.sizes := by
  simp [Dev.modLbk]

@[simp] theorem modAcc_sizes (d : Dev) (n : Nat) (f : Acc → Acc) : (d.modAcc n f).sizes = d.sizes := by
  simp [Dev.modAcc]

@[simp] theorem updateDemand_sizes (d : Dev) (c site : Nat) : (d.updateDemand c site).sizes = d.sizes := by
  simp [Dev.updateDemand]

@[simp] theorem laneFault_sizes (d : Dev) (site bit : Nat) (tag : BitVec 32) : (d.laneFault site bit tag).sizes = d.sizes := by
  simp [Dev.laneFault]

@[simp] theorem wloadUnit_sizes (d : Dev) (x : Ctx) (fl : Flight) (flt : Bool) : (wloadUnit d x fl flt).sizes = d.sizes := by
  unfold wloadUnit
  dsimp only
  split
  · simp
  · split
    · simp
    · split
      · simp
      · split
        all_goals next h => simp [sizes_fst h]

@[simp] theorem wload_sizes (c : Fin 72) (flt : Bool) (d : Dev) : (wload c flt d).sizes = d.sizes := by
  unfold wload
  split
  · rfl
  · next h => simp [issue_q_sizes h]

@[simp] theorem wswap_sizes (c : Fin 72) (d : Dev) : (wswap c d).sizes = d.sizes := by
  unfold wswap
  split
  · rfl
  · next h => simp [issue_q_sizes h]

@[simp] theorem mmaUnit_sizes (x : Ctx) (d : Dev) (fl : Flight) (r : Nat) (slots : List Nat) :
    (mmaUnit x d fl r slots).1.sizes = d.sizes := by
  unfold mmaUnit
  dsimp only
  split
  · rfl
  · split
    all_goals next h => simp [sizes_fst h]

@[simp] theorem arrayStalls_sizes (d : Dev) (site : Nat) : (d.arrayStalls site).sizes = d.sizes := by
  simp [Dev.arrayStalls]

@[simp] theorem mmaStalls_sizes (d : Dev) (site : Nat) (fl : Flight) : (d.mmaStalls site fl).sizes = d.sizes := by
  simp [Dev.mmaStalls]

@[simp] theorem mmaRun_sizes (d : Dev) (x : Ctx) (fl : Flight) (flt : Option MmaFault) : (mmaRun d x fl flt).sizes = d.sizes := by
  unfold mmaRun
  dsimp only
  split
  · simp
  · simp
  · split
    · simp
    · split
      · simp
      · split
        · simp
        · simp [unitLoop_sizes (mmaUnit_sizes x)]

@[simp] theorem mma_sizes (c : Fin 72) (flt : Option MmaFault) (d : Dev) : (mma c flt d).sizes = d.sizes := by
  unfold mma
  split
  · rfl
  · next h => simp [issue_q_sizes h]

@[simp] theorem dummy_sizes (c : Fin 72) (d : Dev) : (dummy c d).sizes = d.sizes := by
  unfold dummy
  split
  · rfl
  · next h => simp [issue_q_sizes h]

/-! ### Quant -/

@[simp] theorem modQnt_sizes (d : Dev) (n : Nat) (f : Qnt → Qnt) : (d.modQnt n f).sizes = d.sizes := by
  simp [Dev.modQnt]

@[simp] theorem quantUnit_sizes (x : Ctx) (d : Dev) (fl : Flight) (u : Nat) (slots : List Nat) :
    (quantUnit x d fl u slots).1.sizes = d.sizes := by
  unfold quantUnit
  dsimp only
  split
  · rfl
  · split
    all_goals next h => simp [sizes_fst h]

@[simp] theorem quantStall_sizes (d : Dev) (site : Nat) : (d.quantStall site).sizes = d.sizes := by
  simp [Dev.quantStall]

@[simp] theorem pathFault_sizes (d : Dev) (site : Nat) (tag : BitVec 32) : (d.pathFault site tag).sizes = d.sizes := by
  simp [Dev.pathFault]

@[simp] theorem quantRun_sizes (d : Dev) (x : Ctx) (fl : Flight) (flt : Bool) : (quantRun d x fl flt).sizes = d.sizes := by
  unfold quantRun
  extract_lets bs st hist n own rs
  split
  · simp
  · split
    · simp
    · split
      · simp
      · split
        · simp
        · split
          · simp
          · split
            · simp
            · simp +zetaDelta [unitLoop_sizes (quantUnit_sizes x)]

@[simp] theorem quant_sizes (c : Fin 72) (flt : Bool) (d : Dev) : (quant c flt d).sizes = d.sizes := by
  unfold quant
  split
  · rfl
  · next h => simp [issue_q_sizes h]

@[simp] theorem deqUnit_sizes (x : Ctx) (d : Dev) (fl : Flight) (u : Nat) (slots : List Nat) :
    (deqUnit x d fl u slots).1.sizes = d.sizes := by
  unfold deqUnit
  dsimp only
  split
  · rfl
  · split
    all_goals next h => simp [sizes_fst h]

@[simp] theorem deq_sizes (c : Fin 72) (d : Dev) : (deq c d).sizes = d.sizes := by
  unfold deq
  split
  · rfl
  next x fl e h =>
    extract_lets bs
    split
    · simp [issue_q_sizes h]
    · split
      · simp [issue_q_sizes h]
      · simp [unitLoop_sizes (deqUnit_sizes x), issue_q_sizes h]

@[simp] theorem statsUnit_sizes (x : Ctx) (d : Dev) (fl : Flight) (_u : Nat) (slots : List Nat) :
    (statsUnit x d fl _u slots).1.sizes = d.sizes := by
  unfold statsUnit
  dsimp only
  split
  · rfl
  · split
    all_goals next h => simp [sizes_fst h]

@[simp] theorem stats_sizes (c : Fin 72) (d : Dev) : (stats c d).sizes = d.sizes := by
  unfold stats
  split
  · rfl
  next x fl e h =>
    extract_lets bs
    split
    · simp [issue_q_sizes h]
    · split
      · simp [issue_q_sizes h]
      · simp [unitLoop_sizes (statsUnit_sizes x), issue_q_sizes h]

/-! ### Output -/

@[simp] theorem drainUnit_sizes (x : Ctx) (d : Dev) (fl : Flight) (i : Nat) (slots : List Nat) :
    (drainUnit x d fl i slots).1.sizes = d.sizes := by
  unfold drainUnit
  extract_lets bs c as a first rRes rBias rNorm outs
  split
  · rfl
  · split
    all_goals next h => simp [sizes_fst h]

@[simp] theorem normBack_sizes (x : Ctx) (d : Dev) (fl : Flight) : (normBack x d fl).1.sizes = d.sizes := by
  unfold normBack
  dsimp only
  split
  · split
    all_goals next h => simp [sizes_fst h]
  · rfl

@[simp] theorem drainRun_sizes (d : Dev) (x : Ctx) (fl : Flight) (flt : Bool) : (drainRun d x fl flt).sizes = d.sizes := by
  unfold drainRun
  dsimp only
  split
  · simp
  · split
    · simp
    · split
      · simp
      · simp [unitLoop_sizes (drainUnit_sizes x)]

@[simp] theorem drain_sizes (c : Fin 72) (flt : Bool) (d : Dev) : (drain c flt d).sizes = d.sizes := by
  unfold drain
  split
  · rfl
  · next h => simp [issue_q_sizes h]

/-! ### Mvp -/

@[simp] theorem modMvp_sizes (d : Dev) (n : Nat) (f : Mvp → Mvp) : (d.modMvp n f).sizes = d.sizes := by
  simp [Dev.modMvp]

@[simp] theorem mvpFault_sizes (d : Dev) (site bit : Nat) (tag : BitVec 32) : (d.mvpFault site bit tag).sizes = d.sizes := by
  simp [Dev.mvpFault]

@[simp] theorem mmvUnit_sizes (x : Ctx) (d : Dev) (fl : Flight) (r : Nat) (slots : List Nat) :
    (mmvUnit x d fl r slots).1.sizes = d.sizes := by
  unfold mmvUnit
  extract_lets bs c as a rX
  split
  · rfl
  · split
    · rfl
    · split
      · rfl
      · split
        · simp
        · split
          split
          split
          all_goals next h => simp [sizes_fst h]

@[simp] theorem mmvRun_sizes (d : Dev) (x : Ctx) (fl : Flight) (flt : Bool) : (mmvRun d x fl flt).sizes = d.sizes := by
  unfold mmvRun
  dsimp only
  split
  · simp
  · split
    · simp
    · split
      · simp
      · split
        · simp
        · simp [unitLoop_sizes (mmvUnit_sizes x)]

@[simp] theorem mmv_sizes (c : Fin 72) (flt : Bool) (d : Dev) : (mmv c flt d).sizes = d.sizes := by
  unfold mmv
  split
  · rfl
  · next h => simp [issue_q_sizes h]

@[simp] theorem elemUnit_sizes (x : Ctx) (d : Dev) (fl : Flight) (p : Nat) (slots : List Nat) :
    (elemUnit x d fl p slots).1.sizes = d.sizes := by
  unfold elemUnit
  dsimp only
  split
  · rfl
  · split
    all_goals next h => simp [sizes_fst h]

@[simp] theorem elemRun_sizes (d : Dev) (x : Ctx) (fl : Flight) (flt : Bool) : (elemRun d x fl flt).sizes = d.sizes := by
  unfold elemRun
  extract_lets
  split
  · simp +zetaDelta
  · split
    · simp +zetaDelta
    · split
      · simp +zetaDelta
      · simp +zetaDelta [unitLoop_sizes (elemUnit_sizes x)]

@[simp] theorem elem_sizes (c : Fin 72) (flt : Bool) (d : Dev) : (elem c flt d).sizes = d.sizes := by
  unfold elem
  split
  · rfl
  · next h => simp [issue_q_sizes h]

/-! ### Route -/

@[simp] theorem modPort_sizes (d : Dev) (i : Nat) (f : Port → Port) : (d.modPort i f).sizes = d.sizes := by
  simp [Dev.modPort]

@[simp] theorem freePlace_sizes (d : Dev) (f : Flit) : (d.freePlace f).sizes = d.sizes := by
  unfold Dev.freePlace
  split <;> simp

@[simp] theorem routeFlit_sizes (d : Dev) (from? : Option Nat) (f : Flit) : (d.routeFlit from? f).sizes = d.sizes := by
  unfold Dev.routeFlit
  dsimp only
  repeat' split
  all_goals simp

@[simp] theorem sendControl_sizes (d : Dev) (dest : BitVec 15) (channel : BitVec 16) (b : Body) :
    (d.sendControl dest channel b).sizes = d.sizes := by
  simp [Dev.sendControl]

@[simp] theorem sendBulk_sizes (d : Dev) (dest : BitVec 15) (channel : BitVec 16) (bodies : List Body) :
    (d.sendBulk dest channel bodies).sizes = d.sizes := by
  simp [Dev.sendBulk]

@[simp] theorem linkControl_sizes (d : Dev) (p : Nat) (b : Body) : (d.linkControl p b).sizes = d.sizes := by
  simp [Dev.linkControl]

/-! ### Queue -/

@[simp] theorem commandSlotWrite_sizes (func : Fin 5) (win : Fin 72) (off : Fin 65536) (data : List Byte) (d : Dev) :
    (commandSlotWrite func win off data d).sizes = d.sizes := by
  unfold commandSlotWrite
  split <;> simp

@[simp] theorem cqTailWrite_sizes (func : Fin 5) (win : Fin 72) (val : BitVec 64) (d : Dev) :
    (cqTailWrite func win val d).sizes = d.sizes := by
  unfold cqTailWrite
  split <;> simp

@[simp] theorem freeTo_sizes (d : Dev) (c k : Nat) : (d.freeTo c k).sizes = d.sizes := by
  simp [Dev.freeTo]

@[simp] theorem fetchHalt_sizes (d : Dev) (c die : Nat) (tag : BitVec 32) (detail : List (Nat × List Byte)) :
    (d.fetchHalt c die tag detail).sizes = d.sizes := by
  simp [Dev.fetchHalt]

@[simp] theorem commandFetch_sizes (c : Fin 72) (parity : Parity) (d : Dev) : (commandFetch c parity d).sizes = d.sizes := by
  unfold commandFetch
  dsimp only
  repeat' split
  all_goals simp

@[simp] theorem nop_sizes (c : Fin 72) (d : Dev) : (nop c d).sizes = d.sizes := by
  unfold nop
  split
  · rfl
  · next h => simp [issue_q_sizes h]

@[simp] theorem waitb_sizes (c : Fin 72) (d : Dev) : (waitb c d).sizes = d.sizes := by
  unfold waitb
  split
  · rfl
  · next h => simp [issue_q_sizes h]

@[simp] theorem waitbExpiry_sizes (c : Fin 72) (d : Dev) : (waitbExpiry c d).sizes = d.sizes := by
  unfold waitbExpiry
  split <;> simp

@[simp] theorem qfence_sizes (c : Fin 72) (d : Dev) : (qfence c d).sizes = d.sizes := by
  unfold qfence
  split
  · rfl
  · next h => simp [issue_q_sizes h]

@[simp] theorem setFlag_sizes (d : Dev) (site f : Nat) : (d.setFlag site f).sizes = d.sizes := by
  simp [Dev.setFlag]

@[simp] theorem clearFlag_sizes (d : Dev) (site f : Nat) : (d.clearFlag site f).sizes = d.sizes := by
  simp [Dev.clearFlag]

@[simp] theorem eventTwice_sizes (d : Dev) (tag : BitVec 32) (unit : BitVec 16) (flag target : Nat) :
    (d.eventTwice tag unit flag target).sizes = d.sizes := by
  simp [Dev.eventTwice]

@[simp] theorem evsend_sizes (c : Fin 72) (d : Dev) : (evsend c d).sizes = d.sizes := by
  unfold evsend
  split
  · rfl
  · next h => simp [issue_q_sizes h]

@[simp] theorem evwait_sizes (c : Fin 72) (d : Dev) : (evwait c d).sizes = d.sizes := by
  unfold evwait
  split
  · rfl
  · next h => simp [issue_q_sizes h]

@[simp] theorem mark_sizes (c : Fin 72) (d : Dev) : (mark c d).sizes = d.sizes := by
  unfold mark
  split
  · rfl
  · next h => simp [issue_q_sizes h]

@[simp] theorem copyUnits_sizes (x : Ctx) (src dst n : Nat) (data : List Byte) (fuel i : Nat) (d : Dev) (fl : Flight) :
    (copyUnits x src dst n data fuel i d fl).1.sizes = d.sizes := by
  induction fuel generalizing i d fl with
  | zero => rfl
  | succ fuel ih =>
    unfold copyUnits
    dsimp only
    split
    all_goals next h => simp [sizes_fst h, ih]

@[simp] theorem copy_sizes (c : Fin 72) (d : Dev) : (copy c d).sizes = d.sizes := by
  unfold copy
  split
  · rfl
  · next h => simp [issue_q_sizes h]

@[simp] theorem atom_sizes (c : Fin 72) (d : Dev) : (atom c d).sizes = d.sizes := by
  unfold atom
  split
  · rfl
  next h =>
    extract_lets
    split
    · rfl
    · split
      · simp +zetaDelta [issue_q_sizes h]
      · split
        · simp +zetaDelta [issue_q_sizes h]
        · split
          · simp +zetaDelta [issue_q_sizes h]
          · split
            all_goals next hw => simp +zetaDelta [sizes_fst hw, issue_q_sizes h]

@[simp] theorem coll_sizes (c : Fin 72) (d : Dev) : (coll c d).sizes = d.sizes := by
  unfold coll
  split
  · rfl
  next h =>
    dsimp only
    split
    · rfl
    · repeat' split
      all_goals simp [issue_q_sizes h]

@[simp] theorem send_sizes (c : Fin 72) (d : Dev) : (send c d).sizes = d.sizes := by
  unfold send
  split
  · rfl
  · next h => simp [issue_q_sizes h]

@[simp] theorem finishRecv_sizes (d : Dev) (j : RecvJob) : (d.finishRecv j).sizes = d.sizes := by
  simp [Dev.finishRecv]

@[simp] theorem recv_sizes (c : Fin 72) (d : Dev) : (recv c d).sizes = d.sizes := by
  unfold recv
  split
  · rfl
  next h =>
    dsimp only
    split
    · simp [issue_q_sizes h]
    · simp [issue_q_sizes h]

@[simp] theorem solve_sizes (c : Fin 72) (d : Dev) : (solve c d).sizes = d.sizes := by
  unfold solve
  split
  · rfl
  · next h => simp [issue_q_sizes h]

@[simp] theorem vent_sizes (c : Fin 72) (d : Dev) : (vent c d).sizes = d.sizes := by
  unfold vent
  split
  · rfl
  · dsimp only
    split
    · rfl
    · split
      · rfl
      · split
        · simp
        · split
          · simp [Dev.sizes, Dev.modPlan, Dev.modCq, Dev.modLbk, Dev.modSite]
          · simp

@[simp] theorem afterUnit_sizes (d : Dev) (x : Ctx) (f : Flight) : (d.afterUnit x f).sizes = d.sizes := by
  simp [Dev.afterUnit]

@[simp] theorem completeVent_sizes (d : Dev) (p : Plan) (c i : Nat) (f : Flight) : (d.completeVent p c i f).sizes = d.sizes := by
  simp [Dev.completeVent]

@[simp] theorem skipVent_sizes (d : Dev) (p : Plan) (c site : Nat) (f : Fetched) : (d.skipVent p c site f).sizes = d.sizes := by
  unfold Dev.skipVent
  dsimp only
  repeat' split
  all_goals simp

@[simp] theorem commandComplete_sizes (c : Fin 72) (idx : Nat) (d : Dev) : (commandComplete c idx d).sizes = d.sizes := by
  unfold commandComplete
  repeat' split
  all_goals simp

@[simp] theorem debugHold_sizes (d : Dev) (p : Plan) : (d.debugHold p).sizes = d.sizes := by
  simp [Dev.debugHold]

@[simp] theorem breakFire_sizes (c : Fin 72) (d : Dev) : (breakFire c d).sizes = d.sizes := by
  unfold breakFire
  split <;> simp

@[simp] theorem grantHoldExpiry_sizes (site : Fin 80) (d : Dev) : (grantHoldExpiry site d).sizes = d.sizes := by
  simp [grantHoldExpiry]

theorem rampPass_length (up : Bool) (order : List Nat) (n : Nat) (ss : List Site) : (rampPass up order n ss).2.length = ss.length := by
  induction order generalizing n ss with
  | nil => rfl
  | cons i r ih =>
    cases n with
    | zero => rfl
    | succ n =>
      simp [rampPass, apply_ite Prod.snd, apply_ite List.length, ih]

theorem rampPasses_length (up : Bool) (order : List Nat) (k n : Nat) (ss : List Site) :
    (rampPasses up order k n ss).length = ss.length := by
  induction k generalizing n ss with
  | zero => rfl
  | succ k ih => simp [rampPasses, ih, rampPass_length]

@[simp] theorem rampGovernorBeat_sizes (d : Dev) : (rampGovernorBeat d).sizes = d.sizes := by
  simp [rampGovernorBeat, rampPasses_length]

/-! ### Solver -/

@[simp] theorem modSlv_sizes (d : Dev) (e : Nat) (f : Slv → Slv) : (d.modSlv e f).sizes = d.sizes := by
  simp [Dev.modSlv]

@[simp] theorem modSolve_sizes (d : Dev) (key : SolveKey) (f : SolveJob → SolveJob) :
    (d.modSolve key f).sizes = d.sizes := sizes_of_only (modSolve_only ..) rfl

@[simp] theorem dealAll_sizes (d : Dev) : d.dealAll.sizes = d.sizes := by
  refine sizes_foldl (fun d j => sizes_of_ite (sizes_foldl (fun d m => sizes_of_ite rfl ?_) _ d) rfl) _ d
  split <;> simp

@[simp] theorem unseed_sizes (d : Dev) (a n : Nat) : (d.unseed a n).sizes = d.sizes := sizes_of_only (unseed_only ..) rfl

@[simp] theorem deliver_sizes (d : Dev) (a : Nat) (bs : List Byte) (tag : BitVec 32) (unit : BitVec 16) (source : Nat) :
    (d.deliver a bs tag unit source).2.sizes = d.sizes := by
  simp [Dev.deliver]

@[simp] theorem dropSolve_sizes (d : Dev) (j : SolveJob) : (d.dropSolve j).sizes = d.sizes := by
  simp [Dev.dropSolve]

@[simp] theorem markStale_sizes (d : Dev) (j : SolveJob) : (d.markStale j).sizes = d.sizes := by
  simp [Dev.markStale]

@[simp] theorem orderFresh_sizes (d : Dev) : d.orderFresh.sizes = d.sizes := by
  simp [Dev.orderFresh]

@[simp] theorem submitSolves_sizes (d : Dev) (p : Plan) (c : Nat) : (d.submitSolves p c).sizes = d.sizes := by
  simp [Dev.submitSolves]

@[simp] theorem slvFenceQueue_sizes (d : Dev) (e : Nat) : (d.slvFenceQueue e).sizes = d.sizes := by
  simp [Dev.slvFenceQueue]

@[simp] theorem fenceSolver_sizes (d : Dev) (e : Nat) (host : Option HostFence) (tag : BitVec 32) :
    (d.fenceSolver e host tag).sizes = d.sizes := by
  simp [Dev.fenceSolver]

@[simp] theorem matrixFinish_sizes (e : Fin 4) (mismatch : Bool) (d : Dev) : (matrixFinish e mismatch d).sizes = d.sizes := by
  unfold matrixFinish
  dsimp only
  repeat' split
  all_goals simp

@[simp] theorem publishFresh_sizes (d : Dev) (j : SolveJob) (deadline : BitVec 52) : (d.publishFresh j deadline).sizes = d.sizes := by
  simp [Dev.publishFresh]

@[simp] theorem solverPublish_sizes (d : Dev) : (solverPublish d).sizes = d.sizes := by
  unfold solverPublish
  repeat' split
  all_goals simp

/-! ### Links -/

@[simp] theorem setLnkEvent_sizes (d : Dev) (i : Nat) : (d.setLnkEvent i).sizes = d.sizes := by
  simp [Dev.setLnkEvent]

@[simp] theorem settleOwned_sizes (d : Dev) : d.settleOwned.sizes = d.sizes := by
  simp [Dev.settleOwned]

@[simp] theorem flitBad_sizes (d : Dev) (p : Nat) : (d.flitBad p).sizes = d.sizes := by
  unfold Dev.flitBad
  dsimp only
  repeat' split
  all_goals simp

@[simp] theorem modSend_sizes (d : Dev) (i : Nat) (f : SendJob → SendJob) : (d.modSend i f).sizes = d.sizes := by
  simp [Dev.modSend]

@[simp] theorem takeFlit_sizes (d : Dev) (p : Nat) (f : Flit) : (d.takeFlit p f).sizes = d.sizes := by
  unfold Dev.takeFlit
  dsimp only
  repeat' split
  all_goals simp

@[simp] theorem flitReceive_sizes (port : Fin 24) (decoded delimOk crcOk : Bool) (ce : List Nat) (f : Flit) (d : Dev) :
    (flitReceive port decoded delimOk crcOk ce f d).sizes = d.sizes := by
  simp [flitReceive]

theorem takeInbox_sizes {d e : Dev} {pick : Nat × Flit → Bool} {x : Nat × Flit} (h : d.takeInbox pick = some (x, e)) :
    e.sizes = d.sizes := by
  obtain ⟨y, -, hy⟩ := Option.map_eq_some_iff.mp h
  cases hy
  simp

@[simp] theorem resendAll_sizes (d : Dev) (p : Nat) : (d.resendAll p).sizes = d.sizes := by
  simp [Dev.resendAll]

@[simp] theorem attemptFailed_sizes (d : Dev) (p : Nat) : (d.attemptFailed p).sizes = d.sizes := by
  simp [Dev.attemptFailed]

@[simp] theorem nakReceive_sizes (port : Fin 24) (d : Dev) : (nakReceive port d).sizes = d.sizes := by
  unfold nakReceive
  split
  · rfl
  next h =>
    split
    · simp [takeInbox_sizes h]
    · exact takeInbox_sizes h

@[simp] theorem replayTimeout_sizes (port : Fin 24) (d : Dev) : (replayTimeout port d).sizes = d.sizes := by
  unfold replayTimeout
  split <;> simp

@[simp] theorem moveFlit_sizes (d : Dev) (p : Nat) (f : Flit) : (d.moveFlit p f).sizes = d.sizes := by
  unfold Dev.moveFlit
  split <;> simp

@[simp] theorem directionLost_sizes (d : Dev) (dir : Nat) (unit : BitVec 16) : (d.directionLost dir unit).sizes = d.sizes := by
  simp [Dev.directionLost]

@[simp] theorem emptyBuffer_sizes (d : Dev) (p : Nat) : (d.emptyBuffer p).sizes = d.sizes := by
  simp [Dev.emptyBuffer]

@[simp] theorem endOwned_sizes (d : Dev) (dir : Nat) : (d.endOwned dir).sizes = d.sizes := by
  simp [Dev.endOwned]

@[simp] theorem failPort_sizes (d : Dev) (p : Nat) (target : PortState) (host : Option HostFence) :
    (d.failPort p target host).sizes = d.sizes := by
  unfold Dev.failPort
  dsimp only
  rw [settleOwned_sizes, endOwned_sizes, directionLost_sizes, sizes_foldl (fun d f => moveFlit_sizes d p f),
    sizes_foldl (fun d o => linkControl_sizes d o _), sizes_with, modPort_sizes, setLnkEvent_sizes, writeRecord_sizes,
    enterCrater_sizes, countDeviceFault_sizes, draw_sizes, emptyBuffer_sizes]

@[simp] theorem portFail_sizes (port : Fin 24) (d : Dev) : (portFail port d).sizes = d.sizes := by
  simp [portFail]

@[simp] theorem portNotice_sizes (port : Fin 24) (d : Dev) : (portNotice port d).sizes = d.sizes := by
  unfold portNotice
  split
  · rfl
  next h =>
    split
    · simp [takeInbox_sizes h]
    · exact takeInbox_sizes h

@[simp] theorem directionReroute_sizes (dir : Fin 8) (d : Dev) : (directionReroute dir d).sizes = d.sizes := by
  simp [directionReroute]

@[simp] theorem laneRecord_sizes (d : Dev) (p lane : Nat) : (d.laneRecord p lane).sizes = d.sizes := by
  simp [Dev.laneRecord]

@[simp] theorem laneFail_sizes (port : Fin 24) (lane : Fin 9) (lostLock : Bool) (d : Dev) :
    (laneFail port lane lostLock d).sizes = d.sizes := by
  simp [laneFail]

@[simp] theorem laneNotice_sizes (port : Fin 24) (d : Dev) : (laneNotice port d).sizes = d.sizes := by
  unfold laneNotice
  split
  · rfl
  next h =>
    split
    · simp [takeInbox_sizes h]
    · exact takeInbox_sizes h

@[simp] theorem flitBoundary_sizes (port : Fin 24) (d : Dev) : (flitBoundary port d).sizes = d.sizes := by
  unfold flitBoundary
  dsimp only
  repeat' split
  all_goals simp

@[simp] theorem requestNext_sizes (d : Dev) (peer : BitVec 15) (channel : BitVec 16) : (d.requestNext peer channel).sizes = d.sizes := by
  unfold Dev.requestNext
  dsimp only
  repeat' split
  all_goals simp

@[simp] theorem postSends_sizes (d : Dev) (p : Plan) (c : Nat) : (d.postSends p c).sizes = d.sizes := by
  simp [Dev.postSends]

@[simp] theorem sendRequest_sizes (d : Dev) : (sendRequest d).sizes = d.sizes := by
  unfold sendRequest
  split
  · rfl
  next h =>
    split
    · split
      all_goals simp [takeInbox_sizes h]
    · exact takeInbox_sizes h

@[simp] theorem sendRequestRetry_sizes (d : Dev) : (sendRequestRetry d).sizes = d.sizes := by
  unfold sendRequestRetry
  repeat' split
  all_goals simp

@[simp] theorem readOut_sizes (d : Dev) (a n : Nat) : (d.readOut a n).2.sizes = d.sizes := by
  unfold Dev.readOut
  split <;> simp

@[simp] theorem sendGrant_sizes (d : Dev) : (sendGrant d).sizes = d.sizes := by
  unfold sendGrant
  split
  · rfl
  next h =>
    split
    · exact takeInbox_sizes h
    · split
      · exact takeInbox_sizes h
      · simp [takeInbox_sizes h]

@[simp] theorem sendAcknowledged_sizes (d : Dev) : (sendAcknowledged d).sizes = d.sizes := by
  unfold sendAcknowledged
  split
  · rfl
  next h =>
    split
    · exact takeInbox_sizes h
    · simp [takeInbox_sizes h]

@[simp] theorem takeExcess_sizes (d : Dev) (src : BitVec 15) (channel : BitVec 16) (left n : Nat) :
    (d.takeExcess src channel left n).sizes = d.sizes := by
  simp [Dev.takeExcess]

@[simp] theorem recvArrived_sizes (d : Dev) (i : Nat) : (d.recvArrived i).sizes = d.sizes := by
  unfold Dev.recvArrived
  split <;> simp

@[simp] theorem recvData_sizes (d : Dev) : (recvData d).sizes = d.sizes := by
  unfold recvData
  split
  · rfl
  next h =>
    split
    · split
      · simp [takeInbox_sizes h]
      · split
        · exact takeInbox_sizes h
        · simp [takeInbox_sizes h]
    · exact takeInbox_sizes h

@[simp] theorem recvTimeout_sizes (d : Dev) : (recvTimeout d).sizes = d.sizes := by
  unfold recvTimeout
  split <;> simp

@[simp] theorem trainPort_sizes (d : Dev) (p : Nat) (t : TrainIn) : (d.trainPort p t).sizes = d.sizes := by
  simp [Dev.trainPort]

@[simp] theorem directionBack_sizes (d : Dev) (dir : Nat) : (d.directionBack dir).sizes = d.sizes := by
  simp [Dev.directionBack]

@[simp] theorem portRetrain_sizes (port : Fin 24) (t : TrainIn) (d : Dev) : (portRetrain port t d).sizes = d.sizes := by
  simp [portRetrain]

/-! ### Collective -/

@[simp] theorem modColl_sizes (d : Dev) (i : Nat) (f : CollJob → CollJob) : (d.modColl i f).sizes = d.sizes := by
  simp [Dev.modColl]

@[simp] theorem setColEvent_sizes (d : Dev) (i : Nat) : (d.setColEvent i).sizes = d.sizes := by
  simp [Dev.setColEvent]

@[simp] theorem modEngine_sizes (d : Dev) (e : Nat) (f : Engine → Engine) : (d.modEngine e f).sizes = d.sizes := by
  simp [Dev.modEngine]

@[simp] theorem sendColl_sizes (d : Dev) (j : CollJob) (rank : Nat) (bodies : List Body) :
    (d.sendColl j rank bodies).sizes = d.sizes := by
  simp [Dev.sendColl]

@[simp] theorem sendUp_sizes (d : Dev) (j : CollJob) (level : Nat) : (d.sendUp j level).sizes = d.sizes := by
  simp [Dev.sendUp]

@[simp] theorem sendDown_sizes (d : Dev) (j : CollJob) (flags : BitVec 4) (off : Nat) (bs : List Byte) :
    (d.sendDown j flags off bs).sizes = d.sizes := by
  simp [Dev.sendDown]

@[simp] theorem completeColl_sizes (d : Dev) (i : Nat) (flags : BitVec 4) : (d.completeColl i flags).sizes = d.sizes := by
  unfold Dev.completeColl
  split <;> simp

@[simp] theorem sweepColl_sizes (d : Dev) : d.sweepColl.sizes = d.sizes := by
  simp [Dev.sweepColl]

@[simp] theorem takeResult_sizes (d : Dev) (i : Nat) (flags : BitVec 4) (off : Nat) (bs : List Byte) :
    (d.takeResult i flags off bs).sizes = d.sizes := by
  unfold Dev.takeResult
  split <;> simp

@[simp] theorem finishRoot_sizes (d : Dev) (i : Nat) : (d.finishRoot i).sizes = d.sizes := by
  unfold Dev.finishRoot
  split <;> simp

@[simp] theorem passOn_sizes (d : Dev) (i : Nat) : (d.passOn i).sizes = d.sizes := by
  unfold Dev.passOn
  split <;> simp

@[simp] theorem advance_sizes (e : Option Nat) (i n : Nat) (d : Dev) : (Dev.advance e i n d).sizes = d.sizes := by
  induction n generalizing d with
  | zero => rfl
  | succ n ih =>
    unfold Dev.advance
    split
    · rfl
    · split
      · rfl
      · split
        · simp
        · split
          · rfl
          · rw [ih]
            cases e <;> simp

@[simp] theorem postColl_sizes (d : Dev) (i : Nat) : (d.postColl i).sizes = d.sizes := by
  unfold Dev.postColl
  split <;> simp

@[simp] theorem postColls_sizes (d : Dev) (p : Plan) (c : Nat) : (d.postColls p c).sizes = d.sizes := by
  simp [Dev.postColls]

@[simp] theorem sequenceColl_sizes (d : Dev) (i : Nat) : (d.sequenceColl i).sizes = d.sizes := by
  unfold Dev.sequenceColl
  split <;> simp

@[simp] theorem settlePosts_sizes (d : Dev) : d.settlePosts.sizes = d.sizes := by
  simp [Dev.settlePosts]

@[simp] theorem abortColl_sizes (d : Dev) (i : Nat) (source : Option Nat) : (d.abortColl i source).sizes = d.sizes := by
  unfold Dev.abortColl
  split <;> simp

@[simp] theorem takeContribution_sizes (d : Dev) : d.takeContribution.sizes = d.sizes := by
  unfold Dev.takeContribution
  split
  · rfl
  next h =>
    split
    · split
      · exact takeInbox_sizes h
      · split
        · exact takeInbox_sizes h
        · simp [takeInbox_sizes h]
    · exact takeInbox_sizes h

@[simp] theorem fenceEngine_sizes (d : Dev) (e : Nat) (host : Option HostFence) : (d.fenceEngine e host).sizes = d.sizes := by
  simp [Dev.fenceEngine]

@[simp] theorem stepMismatch_sizes (d : Dev) (e : Nat) (step : Nat × Nat × Nat) : (d.stepMismatch e step).sizes = d.sizes := by
  simp [Dev.stepMismatch]

@[simp] theorem collContribution_sizes (e : Fin 16) (mismatch : Bool) (d : Dev) : (collContribution e mismatch d).sizes = d.sizes := by
  unfold collContribution
  dsimp only
  repeat' split
  all_goals simp

@[simp] theorem collResult_sizes (d : Dev) : (collResult d).sizes = d.sizes := by
  unfold collResult
  split
  · rfl
  next h =>
    split
    · split
      · exact takeInbox_sizes h
      · simp [takeInbox_sizes h]
    · split
      · exact takeInbox_sizes h
      · split
        · exact takeInbox_sizes h
        · simp [takeInbox_sizes h]
    · exact takeInbox_sizes h

@[simp] theorem engineMoveDone_sizes (e : Fin 16) (d : Dev) : (engineMoveDone e d).sizes = d.sizes := by
  simp [engineMoveDone]

@[simp] theorem collTimeout_sizes (d : Dev) : (collTimeout d).sizes = d.sizes := by
  unfold collTimeout
  repeat' split
  all_goals simp

/-! ### Mailbox -/

@[simp] theorem chanErr_sizes (d : Dev) (c bit : Nat) : (d.chanErr c bit).sizes = d.sizes := by
  simp [Dev.chanErr]

@[simp] theorem windowWrite_sizes (d : Dev) (c off : Nat) (data : List Byte) : (d.windowWrite c off data).sizes = d.sizes := by
  simp [Dev.windowWrite]

@[simp] theorem requestWindowWrite_sizes (func : Fin 5) (ch : Fin 8) (off : Fin 4096) (data : List Byte) (d : Dev) :
    (requestWindowWrite func ch off data d).sizes = d.sizes := by
  simp [requestWindowWrite]

@[simp] theorem ring_sizes (d : Dev) (c : Nat) : (d.ring c).sizes = d.sizes := by
  simp [Dev.ring]

@[simp] theorem doorbellRing_sizes (func : Fin 5) (ch : Fin 8) (d : Dev) : (doorbellRing func ch d).sizes = d.sizes := by
  simp [doorbellRing]

@[simp] theorem requestCopyDone_sizes (ch : Fin 8) (d : Dev) : (requestCopyDone ch d).sizes = d.sizes := by
  simp [requestCopyDone]

@[simp] theorem pushDone_sizes (d : Dev) (r : Done) : (d.pushDone r).sizes = d.sizes := sizes_of_only (pushDone_only ..) rfl

@[simp] theorem takeDuplicate_sizes (d : Dev) (c : Nat) (m : List Byte) :
    (d.takeDuplicate c m).sizes = d.sizes := sizes_of_only (takeDuplicate_only ..) rfl

@[simp] theorem requestCheck_sizes (d : Dev) : (requestCheck d).sizes = d.sizes := by
  unfold requestCheck
  split
  · rfl
  · split
    · rfl
    · split
      · rfl
      · dsimp only
        split
        · rfl
        · split
          · simp
          · simp
          · simp [Dev.sizes, Dev.modChan]

@[simp] theorem requestDispatch_sizes (d : Dev) : (requestDispatch d).sizes = d.sizes := sizes_of_only (requestDispatch_only ..) rfl

@[simp] theorem finishReq_sizes (d : Dev) (r : Req) (result : Nat) (fields : List Byte) (ends : Bool) :
    (d.finishReq r result fields ends).sizes = d.sizes := by
  simp [Dev.finishReq]

@[simp] theorem rejectReq_sizes (d : Dev) (r : Req) (status : Nat) : (d.rejectReq r status).sizes = d.sizes := by
  simp [Dev.rejectReq]

/-- Serving a request keeps the sizes if the message's own effect does. -/
theorem serve_sizes {f : Dev → Req → List Byte → Dev × Reply} (hf : ∀ d r p, (f d r p).1.sizes = d.sizes) (d : Dev) (op : Nat) :
    (d.serve op f).sizes = d.sizes := by
  unfold Dev.serve
  split
  · rfl
  · split
    · rfl
    next r _ =>
      have hr := hf d r (mPayload r.msg)
      split
      · rfl
      · split
        · simp
        · split
          · simp
          · split
            · rfl
            · simp
            next h => simp [sizes_fst h, hr]
            next h => simp [sizes_fst h, hr]

@[simp] theorem endSessions_sizes (d : Dev) : d.endSessions.sizes = d.sizes := by
  simp [Dev.endSessions]

@[simp] theorem placeAll_sizes (d : Dev) (r : Done) (p : Option (List Byte)) : (d.placeAll r p).sizes = d.sizes := by
  simp [Dev.placeAll]

@[simp] theorem responsePlace_sizes (d : Dev) : (responsePlace d).sizes = d.sizes := by
  unfold responsePlace
  split <;> simp

@[simp] theorem pop_sizes (d : Dev) (c : Nat) : (d.pop c).sizes = d.sizes := by
  unfold Dev.pop
  split <;> simp

@[simp] theorem responsePop_sizes (func : Fin 5) (ch : Fin 8) (d : Dev) : (responsePop func ch d).sizes = d.sizes := by
  simp [responsePop]

@[simp] theorem resetChan_sizes (d : Dev) (c : Nat) : (d.resetChan c).sizes = d.sizes := by
  simp [Dev.resetChan]

@[simp] theorem channelReset_sizes (func : Fin 5) (ch : Fin 8) (d : Dev) : (channelReset func ch d).sizes = d.sizes := by
  simp [channelReset]

@[simp] theorem channelResetDone_sizes (ch : Fin 8) (d : Dev) : (channelResetDone ch d).sizes = d.sizes := by
  simp [channelResetDone]

@[simp] theorem eventLossSummary_sizes (d : Dev) : (eventLossSummary d).sizes = d.sizes := by
  simp [eventLossSummary]

/-! ### Memory -/

@[simp] theorem healUnavailable_sizes (d : Dev) (w : Nat) : (d.healUnavailable w).sizes = d.sizes := by
  unfold Dev.healUnavailable
  split <;> simp

@[simp] theorem queueHeal_sizes (d : Dev) (w : Nat) : (d.queueHeal w).sizes = d.sizes := by
  simp [Dev.queueHeal]

@[simp] theorem correctWord_sizes (d : Dev) (w : Nat) : (d.correctWord w).sizes = d.sizes := by
  simp [Dev.correctWord]

@[simp] theorem poisonWord_sizes (d : Dev) (w : Nat) : (d.poisonWord w).sizes = d.sizes := by
  simp [Dev.poisonWord]

@[simp] theorem poisonLine_sizes (d : Dev) (w : Nat) : (d.poisonLine w).sizes = d.sizes := by
  simp [Dev.poisonLine]

@[simp] theorem lineLost_sizes (d : Dev) (x : DscLine) : (d.lineLost x).sizes = d.sizes := by
  simp [Dev.lineLost]

@[simp] theorem poisonScratch_sizes (d : Dev) (k : Nat) : (d.poisonScratch k).sizes = d.sizes := sizes_of_only (poisonScratch_only ..) rfl

@[simp] theorem readFinding_sizes (d : Dev) (kind k : Nat) : (d.readFinding kind k).sizes = d.sizes := by
  unfold Dev.readFinding
  dsimp only
  repeat' split
  all_goals simp

@[simp] theorem readErrors_sizes (d : Dev) : d.readErrors.sizes = d.sizes := by
  unfold Dev.readErrors
  dsimp only
  repeat' split
  all_goals simp

@[simp] theorem patrolScrub_sizes (s : Fin 16) (found : EccFind) (d : Dev) : (patrolScrub s found d).sizes = d.sizes := by
  unfold patrolScrub
  split <;> simp

@[simp] theorem softRepair_sizes (s : Fin 16) (d : Dev) : (softRepair s d).sizes = d.sizes := by
  unfold softRepair
  split
  · rfl
  · split
    · rfl
    · dsimp only
      split
      · simp
      · simp [Dev.sizes, Dev.modStk]

@[simp] theorem writeRepair_sizes (d : Dev) (s : Nat) (v : BitVec 64) : (d.writeRepair s v).sizes = d.sizes := by
  unfold Dev.writeRepair
  dsimp only
  repeat' split
  all_goals simp

@[simp] theorem wipeRange_sizes (d : Dev) (a n : Nat) : (d.wipeRange a n).sizes = d.sizes := by
  have h := dropLines_sizes d a n
  simp_all [Dev.wipeRange, Dev.sizes]

@[simp] theorem wipeFailed_sizes (d : Dev) (w : Nat) : (d.wipeFailed w).sizes = d.sizes := by
  simp [Dev.wipeFailed]

@[simp] theorem settleWipeBusy_sizes (d : Dev) : d.settleWipeBusy.sizes = d.sizes := by
  simp [Dev.settleWipeBusy, Dev.sizes]

@[simp] theorem beginWipe_sizes (d : Dev) (purpose : WipeFor) (rs : List RangeEnt) : (d.beginWipe purpose rs).sizes = d.sizes := by
  simp [Dev.beginWipe]

@[simp] theorem wipeSite_sizes (d : Dev) (n : Nat) : (d.wipeSite n).sizes = d.sizes := by
  simp [Dev.wipeSite]

@[simp] theorem siteReset_sizes (d : Dev) (n : Nat) : (d.siteReset n).sizes = d.sizes := by
  simp [Dev.siteReset]

@[simp] theorem wipeStack_sizes (d : Dev) (s : Nat) (parts : List RangeEnt) (sites : Bool) (bad : List (BitVec 25)) :
    (d.wipeStack s parts sites bad).sizes = d.sizes := by
  simp [Dev.wipeStack]

@[simp] theorem bootWipe_sizes (d : Dev) (s : Nat) (bad : List (BitVec 25)) : (d.bootWipe s bad).sizes = d.sizes := by
  simp [Dev.bootWipe]

@[simp] theorem jobWipe_sizes (d : Dev) (s : Nat) (bad : List (BitVec 25)) : (d.jobWipe s bad).sizes = d.sizes := by
  simp [Dev.jobWipe]

/-! ### Release -/

@[simp] theorem coolHeld_sizes (d : Dev) (die : Nat) : (d.coolHeld die).sizes = d.sizes := by
  unfold Dev.coolHeld
  dsimp only
  repeat' split
  all_goals simp

@[simp] theorem powerHeld_sizes (d : Dev) (s : Nat) : (d.powerHeld s).sizes = d.sizes := by
  unfold Dev.powerHeld
  split <;> simp

@[simp] theorem settleHeld_sizes (d : Dev) : d.settleHeld.sizes = d.sizes := by
  simp [Dev.settleHeld]

@[simp] theorem discardReqs_sizes (d : Dev) (c : Nat) : (d.discardReqs c).sizes = d.sizes := sizes_of_only (discardReqs_only ..) rfl

@[simp] theorem endRequest_sizes (d : Dev) (op : Nat) : (d.endRequest op).sizes = d.sizes := sizes_of_only (endRequest_only ..) rfl

@[simp] theorem endRelease_sizes (d : Dev) (n : Nat) : (d.endRelease n).sizes = d.sizes := sizes_of_only (endRelease_only ..) rfl

@[simp] theorem endLifecycle_sizes (d : Dev) (target : BitVec 2) : (d.endLifecycle target).sizes = d.sizes := by
  unfold Dev.endLifecycle
  dsimp only
  repeat' split
  all_goals simp

@[simp] theorem endWipe_sizes (d : Dev) (j : WipeJob) : (d.endWipe j).sizes = d.sizes := by
  unfold Dev.endWipe
  split <;> simp

@[simp] theorem settleWipes_sizes (d : Dev) : d.settleWipes.sizes = d.sizes := by
  simp [Dev.settleWipes]

@[simp] theorem wipeOwned_sizes (d : Dev) (t : Tenancy) : (d.wipeOwned t).sizes = d.sizes := by
  simp only [Dev.wipeOwned, sizes_foldl, wipeSite_sizes, modCq_sizes, implies_true]

@[simp] theorem finishRelease_sizes (d : Dev) (n : Nat) : (d.finishRelease n).sizes = d.sizes := by
  simp only [Dev.finishRelease, sizes_ite, endRelease_sizes, beginWipe_sizes, sizes_with, modChan_sizes, resetChan_sizes, ite_self]
  split <;> simp

@[simp] theorem settleReleases_sizes (d : Dev) : d.settleReleases.sizes = d.sizes := by
  simp [Dev.settleReleases]

@[simp] theorem memoryWipe_sizes (s : Fin 16) (bad : List (BitVec 25)) (d : Dev) : (memoryWipe s bad d).sizes = d.sizes := by
  simp [memoryWipe]

/-! ### Plans -/

@[simp] theorem sendExport_sizes (d : Dev) (p : Plan) (i : Nat) (bs : List Byte) (ts : BitVec 64) :
    (d.sendExport p i bs ts).sizes = d.sizes := by
  unfold Dev.sendExport
  split <;> simp

@[simp] theorem missStep_sizes (d : Dev) (p : Plan) (s : Nat) : (d.missStep p s).sizes = d.sizes := by
  simp [Dev.missStep]

@[simp] theorem missAll_sizes (h : BitVec 16) (n : Nat) (d : Dev) : (Dev.missAll h n d).sizes = d.sizes := by
  induction n generalizing d with
  | zero => rfl
  | succ n ih =>
    unfold Dev.missAll
    split
    · rfl
    · split
      · rfl
      · simp [ih]

@[simp] theorem finishStep_sizes (d : Dev) (p : Plan) : (d.finishStep p).sizes = d.sizes := sizes_of_only (finishStep_only ..) rfl

@[simp] theorem pausePlan_sizes (d : Dev) (p : Plan) (cause : BitVec 16) (begun : Nat) :
    (d.pausePlan p cause begun).sizes = d.sizes := sizes_of_only (pausePlan_only ..) rfl

@[simp] theorem settlePause_sizes (d : Dev) (h : BitVec 16) : (d.settlePause h).sizes = d.sizes := sizes_of_only (settlePause_only ..) rfl

@[simp] theorem settleSteps_sizes (h : BitVec 16) (n : Nat) (d : Dev) : (Dev.settleSteps h n d).sizes = d.sizes := by
  induction n generalizing d with
  | zero => rfl
  | succ n ih =>
    unfold Dev.settleSteps
    split
    · rfl
    · simp [ih]

@[simp] theorem settlePlan_sizes (d : Dev) (h : BitVec 16) : (d.settlePlan h).sizes = d.sizes := by
  unfold Dev.settlePlan
  split <;> simp

@[simp] theorem pauseForStep_sizes (d : Dev) (h : BitVec 16) :
    (d.pauseForStep h).sizes = d.sizes := sizes_of_only (pauseForStep_only ..) rfl

@[simp] theorem planStart_sizes (h : BitVec 16) (d : Dev) : (planStart h d).sizes = d.sizes := by
  unfold planStart
  split <;> simp

@[simp] theorem pauseBeatReached_sizes (h : BitVec 16) (d : Dev) : (pauseBeatReached h d).sizes = d.sizes := by
  simp [pauseBeatReached]

@[simp] theorem promiseDeadline_sizes (h : BitVec 16) (d : Dev) : (promiseDeadline h d).sizes = d.sizes := by
  unfold promiseDeadline
  repeat' split
  all_goals simp

@[simp] theorem stageResumed_sizes (d : Dev) (p : Plan) (b : BitVec 52) : (d.stageResumed p b).sizes = d.sizes := by
  simp [Dev.stageResumed]

@[simp] theorem skipSteps_sizes (h : BitVec 16) (k n : Nat) (d : Dev) :
    (Dev.skipSteps h k n d).sizes = d.sizes := sizes_of_only (skipSteps_only ..) rfl

@[simp] theorem unfreeze_sizes (d : Dev) (c : Nat) : (d.unfreeze c).sizes = d.sizes := by
  simp [Dev.unfreeze]

@[simp] theorem resumeRecovery_sizes (d : Dev) (c : Nat) : (d.resumeRecovery c).sizes = d.sizes := by
  simp [Dev.resumeRecovery, Dev.sizes, Dev.modCq]

@[simp] theorem rebase_sizes (d : Dev) (p : Plan) (b : BitVec 52) : (d.rebase p b).sizes = d.sizes := sizes_of_only (rebase_only ..) rfl

@[simp] theorem resumeBeatReached_sizes (h : BitVec 16) (d : Dev) : (resumeBeatReached h d).sizes = d.sizes := by
  unfold resumeBeatReached
  repeat' split
  all_goals simp

@[simp] theorem zeroRecords_sizes (d : Dev) (p : Plan) (core : Nat) (records : List Nat) :
    (d.zeroRecords p core records).sizes = d.sizes := sizes_of_only (zeroRecords_only ..) rfl

@[simp] theorem settleResets_sizes (d : Dev) (h : BitVec 16) :
    (d.settleResets h).sizes = d.sizes := sizes_of_only (settleResets_only ..) rfl

@[simp] theorem switchBeat_sizes (h : BitVec 16) (d : Dev) : (switchBeat h d).sizes = d.sizes := by
  unfold switchBeat
  dsimp only
  repeat' split
  all_goals simp

@[simp] theorem readySite_sizes (d : Dev) (p : Plan) (core site idx : Nat) : (d.readySite p core site idx).sizes = d.sizes := by
  simp [Dev.readySite]

@[simp] theorem chunkRelease_sizes (c : Fin 72) (d : Dev) : (chunkRelease c d).sizes = d.sizes := by
  unfold chunkRelease
  split <;> simp

@[simp] theorem commitAtom_sizes (d : Dev) (p : Plan) (c : Nat) (site : Nat) (e : AtomEnt) :
    (d.commitAtom p c site e).sizes = d.sizes := by
  unfold Dev.commitAtom
  split <;> simp

@[simp] theorem commitPend_sizes (d : Dev) (c : Nat) : (d.commitPend c).sizes = d.sizes := by
  simp [Dev.commitPend]

@[simp] theorem commitRecords_sizes (d : Dev) (site : Nat) : (d.commitRecords site).sizes = d.sizes := by
  simp [Dev.commitRecords]

@[simp] theorem noteExports_sizes (d : Dev) (p : Plan) (c : Nat) (records : List (Nat × Nat)) :
    (d.noteExports p c records).sizes = d.sizes := by
  refine sizes_foldl (fun d i => ?_) _ d
  split <;> simp

@[simp] theorem sendDue_sizes (d : Dev) (h : BitVec 16) : (d.sendDue h).sizes = d.sizes := by
  unfold Dev.sendDue
  split <;> simp

@[simp] theorem streamsLeft_sizes (d : Dev) (site : Nat) : (d.streamsLeft site).sizes = d.sizes := by
  simp [Dev.streamsLeft]

@[simp] theorem recoveryRecord_sizes (d : Dev) (v : Recovery) (idx : Option Nat) (now : BitVec 52) :
    (d.recoveryRecord v idx now).sizes = d.sizes := by
  simp [Dev.recoveryRecord]

@[simp] theorem recomputeDone_sizes (d : Dev) (c : Nat) (idx : Nat) : (d.recomputeDone c idx).sizes = d.sizes := by
  simp [Dev.recomputeDone]

@[simp] theorem abandonTrace_sizes (d : Dev) (c : Nat) (h : BitVec 16) : (d.abandonTrace c h).sizes = d.sizes := by
  simp [Dev.abandonTrace]

/-- The jobs that a chunk has not yet posted may go. -/
theorem sizes_with_jobs (d : Dev) {l : Lnk} {c : Col} (solves : List SolveJob) (hl : l.ports = d.lnk.ports)
    (hc : c.engines = d.col.engines) : Dev.sizes { d with lnk := l, col := c, solves } = d.sizes := by
  simp [Dev.sizes, hl, hc]

@[simp] theorem dropHeld_sizes (d : Dev) (c : Nat) : (d.dropHeld c).sizes = d.sizes := by
  simp only [Dev.dropHeld, updateDemand_sizes, modCq_sizes, sizes_with_jobs, abandonTrace_sizes]

@[simp] theorem programFault_sizes (d : Dev) (c site bit code thread pc : Nat) (detail : List (Nat × List Byte)) :
    (d.programFault c site bit code thread pc detail).sizes = d.sizes := by
  simp [Dev.programFault]

@[simp] theorem compareSig_sizes (d : Dev) (x : Ctx) : (d.compareSig x).2.sizes = d.sizes := by
  unfold Dev.compareSig
  dsimp only
  repeat' split
  all_goals simp

@[simp] theorem releaseSite_sizes (d : Dev) (c : Nat) : (d.releaseSite c).sizes = d.sizes := by
  simp [Dev.releaseSite]

@[simp] theorem dropRecvs_sizes (d : Dev) (h : BitVec 16) : (d.dropRecvs h).sizes = d.sizes := by
  simp [Dev.dropRecvs]

@[simp] theorem dropSends_sizes (d : Dev) (h : BitVec 16) : (d.dropSends h).sizes = d.sizes := by
  simp [Dev.dropSends]

@[simp] theorem noteSites_sizes (d : Dev) (p : Plan) : (d.noteSites p).sizes = d.sizes := by
  simp [Dev.noteSites]

/-- What a plan that retires leaves in the parts that know of it. -/
theorem sizes_with_retired (d : Dev) (plans : List Plan) (deliveries : List HeldFlag) {c : Col} {h : Health} (hc : c.engines = d.col.engines)
    (h1 : h.siteStates = d.health.siteStates) (h2 : h.overdue = d.health.overdue) (h3 : h.lastPass = d.health.lastPass)
    (h4 : h.testedSince = d.health.testedSince) : Dev.sizes { d with col := c, deliveries, health := h, plans } = d.sizes := by
  simp only [Dev.sizes, hc, h1, h2, h3, h4]

@[simp] theorem releasePlan_sizes (d : Dev) (p : Plan) : (d.releasePlan p).sizes = d.sizes := by
  refine (sizes_with_retired _ _ _ rfl rfl rfl rfl rfl).trans ?_
  simp only [sizes_ite, beginWipe_sizes, dropSends_sizes, dropRecvs_sizes, sizes_foldl, dropSolve_sizes, modCq_sizes,
    releaseSite_sizes, noteSites_sizes, implies_true, ite_self]

@[simp] theorem discardChunk_sizes (d : Dev) (p : Plan) (c : Nat) : (d.discardChunk p c).sizes = d.sizes := by
  unfold Dev.discardChunk
  split <;> simp

@[simp] theorem settleRetire_sizes (d : Dev) (h : BitVec 16) : (d.settleRetire h).sizes = d.sizes := by
  unfold Dev.settleRetire
  dsimp only
  repeat' split
  all_goals simp

@[simp] theorem beginRetire_sizes (d : Dev) (p : Plan) : (d.beginRetire p).sizes = d.sizes := by
  simp [Dev.beginRetire]

@[simp] theorem retireAll_sizes (d : Dev) (func : Nat) : (d.retireAll func).sizes = d.sizes := by
  simp [Dev.retireAll]

@[simp] theorem askRetire_sizes (d : Dev) (func : Nat) : (d.askRetire func).sizes = d.sizes := by
  simp [Dev.askRetire]

@[simp] theorem serveRings_sizes (d : Dev) : d.serveRings.sizes = d.sizes := by
  simp [Dev.serveRings]

@[simp] theorem beginRelease_sizes (d : Dev) (n : Nat) : (d.beginRelease n).sizes = d.sizes := by
  simp [Dev.beginRelease]

@[simp] theorem retireChunkDiscard_sizes (c : Fin 72) (d : Dev) : (retireChunkDiscard c d).sizes = d.sizes := by
  unfold retireChunkDiscard
  split <;> simp

@[simp] theorem commit_sizes (d : Dev) (x : Ctx) : (d.commit x).sizes = d.sizes := by
  simp [Dev.commit]

@[simp] theorem chunkCommit_sizes (c : Fin 72) (d : Dev) : (chunkCommit c d).sizes = d.sizes := by
  unfold chunkCommit
  split
  · rfl
  · split
    · rfl
    · split
      next h => simp [sizes_snd h]
      next h => simp [sizes_snd h]

@[simp] theorem flagDelivery_sizes (d : Dev) : (flagDelivery d).sizes = d.sizes := by
  unfold flagDelivery
  split <;> simp

/-! ### Ccr -/

@[simp] theorem modThread_sizes (d : Dev) (site t : Nat) (f : Thread → Thread) : (d.modThread site t f).sizes = d.sizes := by
  simp [Dev.modThread]

@[simp] theorem CcrCx_retired_sizes (k : CcrCx) (d : Dev) (f : Thread → Thread) : (CcrCx.retired k d f).sizes = d.sizes := by
  simp [CcrCx.retired]

@[simp] theorem stopThread_sizes (d : Dev) (site t : Nat) : (d.stopThread site t).sizes = d.sizes := by
  simp [Dev.stopThread]

@[simp] theorem ccrPoison_sizes (d : Dev) (c site t a : Nat) : (d.ccrPoison c site t a).sizes = d.sizes := by
  simp [Dev.ccrPoison]

@[simp] theorem threadFault_sizes (d : Dev) (c site t bit code pc : Nat) : (d.threadFault c site t bit code pc).sizes = d.sizes := by
  simp [Dev.threadFault]

theorem settle_sizes (k : CcrCx) (r : CcrRes) (h : (r.after k.d).sizes = k.d.sizes) : (k.settle r).sizes = k.d.sizes := by
  cases r with
  | retire => simpa [CcrCx.settle, CcrRes.after] using h
  | _ => simp [CcrCx.settle]

@[simp] theorem ccrCheckFault_sizes (d : Dev) (c site : Nat) (bits : BitVec 9) : (d.ccrCheckFault c site bits).sizes = d.sizes := by
  simp [Dev.ccrCheckFault]

/-- An instruction of a control core keeps the sizes if its own effect does. -/
theorem ccrStep_sizes {op : Nat} {sem : CcrCx → CcrRes} (h : ∀ k, ((sem k).after k.d).sizes = k.d.sizes) (c : Fin 72) (t : Fin 8)
    (chk : CcrCheck) (d : Dev) : (ccrStep op sem c t chk d).sizes = d.sizes := by
  have hk : ∀ k : CcrCx, (k.settle (sem k)).sizes = k.d.sizes := fun k => settle_sizes k _ (h k)
  unfold ccrStep
  split
  · rfl
  · simp
  · split
    · simp
    · split
      · rfl
      · cases chk <;> simp [hk]

@[simp] theorem alu_sizes (c : Fin 72) (t : Fin 8) (chk : CcrCheck) (d : Dev) : (alu c t chk d).sizes = d.sizes :=
  ccrStep_sizes (fun _ => rfl) c t chk d

@[simp] theorem addi_sizes (c : Fin 72) (t : Fin 8) (chk : CcrCheck) (d : Dev) : (addi c t chk d).sizes = d.sizes :=
  ccrStep_sizes (fun _ => rfl) c t chk d

@[simp] theorem andi_sizes (c : Fin 72) (t : Fin 8) (chk : CcrCheck) (d : Dev) : (andi c t chk d).sizes = d.sizes :=
  ccrStep_sizes (fun _ => rfl) c t chk d

@[simp] theorem ori_sizes (c : Fin 72) (t : Fin 8) (chk : CcrCheck) (d : Dev) : (ori c t chk d).sizes = d.sizes :=
  ccrStep_sizes (fun _ => rfl) c t chk d

@[simp] theorem xori_sizes (c : Fin 72) (t : Fin 8) (chk : CcrCheck) (d : Dev) : (xori c t chk d).sizes = d.sizes :=
  ccrStep_sizes (fun _ => rfl) c t chk d

@[simp] theorem slti_sizes (c : Fin 72) (t : Fin 8) (chk : CcrCheck) (d : Dev) : (slti c t chk d).sizes = d.sizes :=
  ccrStep_sizes (fun _ => rfl) c t chk d

@[simp] theorem shifti_sizes (c : Fin 72) (t : Fin 8) (chk : CcrCheck) (d : Dev) : (shifti c t chk d).sizes = d.sizes :=
  ccrStep_sizes (fun _ => rfl) c t chk d

@[simp] theorem insh_sizes (c : Fin 72) (t : Fin 8) (chk : CcrCheck) (d : Dev) : (insh c t chk d).sizes = d.sizes :=
  ccrStep_sizes (fun _ => rfl) c t chk d

theorem load_sizes (k : CcrCx) (n : Nat) (signed : Bool) : ((k.load n signed).after k.d).sizes = k.d.sizes := by
  unfold CcrCx.load
  dsimp only
  split
  · rfl
  · split
    · split
      · rfl
      · rfl
    · split
      · rfl
      · split
        · rfl
        · simp [CcrRes.after]

@[simp] theorem ld_sizes (c : Fin 72) (t : Fin 8) (chk : CcrCheck) (d : Dev) : (ld c t chk d).sizes = d.sizes :=
  ccrStep_sizes (fun k => load_sizes k 8 false) c t chk d

@[simp] theorem lw_sizes (c : Fin 72) (t : Fin 8) (chk : CcrCheck) (d : Dev) : (lw c t chk d).sizes = d.sizes :=
  ccrStep_sizes (fun k => load_sizes k 4 true) c t chk d

@[simp] theorem lwu_sizes (c : Fin 72) (t : Fin 8) (chk : CcrCheck) (d : Dev) : (lwu c t chk d).sizes = d.sizes :=
  ccrStep_sizes (fun k => load_sizes k 4 false) c t chk d

@[simp] theorem lh_sizes (c : Fin 72) (t : Fin 8) (chk : CcrCheck) (d : Dev) : (lh c t chk d).sizes = d.sizes :=
  ccrStep_sizes (fun k => load_sizes k 2 true) c t chk d

@[simp] theorem lhu_sizes (c : Fin 72) (t : Fin 8) (chk : CcrCheck) (d : Dev) : (lhu c t chk d).sizes = d.sizes :=
  ccrStep_sizes (fun k => load_sizes k 2 false) c t chk d

@[simp] theorem lb_sizes (c : Fin 72) (t : Fin 8) (chk : CcrCheck) (d : Dev) : (lb c t chk d).sizes = d.sizes :=
  ccrStep_sizes (fun k => load_sizes k 1 true) c t chk d

@[simp] theorem lbu_sizes (c : Fin 72) (t : Fin 8) (chk : CcrCheck) (d : Dev) : (lbu c t chk d).sizes = d.sizes :=
  ccrStep_sizes (fun k => load_sizes k 1 false) c t chk d

theorem store_sizes (k : CcrCx) (n : Nat) : ((k.store n).after k.d).sizes = k.d.sizes := by
  unfold CcrCx.store CcrCx.plain
  dsimp only
  repeat' split
  all_goals simp [CcrRes.after, ccrAddr, ccrProtWrite]

@[simp] theorem sd_sizes (c : Fin 72) (t : Fin 8) (chk : CcrCheck) (d : Dev) : (sd c t chk d).sizes = d.sizes :=
  ccrStep_sizes (fun k => store_sizes k 8) c t chk d

@[simp] theorem sw_sizes (c : Fin 72) (t : Fin 8) (chk : CcrCheck) (d : Dev) : (sw c t chk d).sizes = d.sizes :=
  ccrStep_sizes (fun k => store_sizes k 4) c t chk d

@[simp] theorem sh_sizes (c : Fin 72) (t : Fin 8) (chk : CcrCheck) (d : Dev) : (sh c t chk d).sizes = d.sizes :=
  ccrStep_sizes (fun k => store_sizes k 2) c t chk d

@[simp] theorem sb_sizes (c : Fin 72) (t : Fin 8) (chk : CcrCheck) (d : Dev) : (sb c t chk d).sizes = d.sizes :=
  ccrStep_sizes (fun k => store_sizes k 1) c t chk d

@[simp] theorem storeBufferDrain_sizes (c : Fin 72) (d : Dev) : (storeBufferDrain c d).sizes = d.sizes := by
  unfold storeBufferDrain
  dsimp only
  repeat' split
  all_goals simp

@[simp] theorem beq_sizes (c : Fin 72) (t : Fin 8) (chk : CcrCheck) (d : Dev) : (beq c t chk d).sizes = d.sizes :=
  ccrStep_sizes (fun _ => rfl) c t chk d

@[simp] theorem bne_sizes (c : Fin 72) (t : Fin 8) (chk : CcrCheck) (d : Dev) : (bne c t chk d).sizes = d.sizes :=
  ccrStep_sizes (fun _ => rfl) c t chk d

@[simp] theorem blt_sizes (c : Fin 72) (t : Fin 8) (chk : CcrCheck) (d : Dev) : (blt c t chk d).sizes = d.sizes :=
  ccrStep_sizes (fun _ => rfl) c t chk d

@[simp] theorem bge_sizes (c : Fin 72) (t : Fin 8) (chk : CcrCheck) (d : Dev) : (bge c t chk d).sizes = d.sizes :=
  ccrStep_sizes (fun _ => rfl) c t chk d

@[simp] theorem bltu_sizes (c : Fin 72) (t : Fin 8) (chk : CcrCheck) (d : Dev) : (bltu c t chk d).sizes = d.sizes :=
  ccrStep_sizes (fun _ => rfl) c t chk d

@[simp] theorem bgeu_sizes (c : Fin 72) (t : Fin 8) (chk : CcrCheck) (d : Dev) : (bgeu c t chk d).sizes = d.sizes :=
  ccrStep_sizes (fun _ => rfl) c t chk d

@[simp] theorem jal_sizes (c : Fin 72) (t : Fin 8) (chk : CcrCheck) (d : Dev) : (jal c t chk d).sizes = d.sizes :=
  ccrStep_sizes (fun _ => rfl) c t chk d

@[simp] theorem jr_sizes (c : Fin 72) (t : Fin 8) (chk : CcrCheck) (d : Dev) : (jr c t chk d).sizes = d.sizes :=
  ccrStep_sizes (fun _ => rfl) c t chk d

theorem pusha_after_sizes (k : CcrCx) : (k.pusha.after k.d).sizes = k.d.sizes := by
  unfold CcrCx.pusha CcrCx.plain
  dsimp only
  repeat' split
  all_goals simp [CcrRes.after, ccrAddr, ccrDesc]

@[simp] theorem pusha_sizes (c : Fin 72) (t : Fin 8) (chk : CcrCheck) (d : Dev) : (pusha c t chk d).sizes = d.sizes :=
  ccrStep_sizes pusha_after_sizes c t chk d

theorem setFlag_after_sizes (k : CcrCx) (folded : List (BitVec 64)) : ((k.setFlag folded).after k.d).sizes = k.d.sizes := by
  unfold CcrCx.setFlag CcrCx.plain
  split <;> simp [CcrRes.after]

@[simp] theorem setf_sizes (c : Fin 72) (t : Fin 8) (chk : CcrCheck) (d : Dev) : (setf c t chk d).sizes = d.sizes :=
  ccrStep_sizes (fun k => setFlag_after_sizes k []) c t chk d

@[simp] theorem clrf_sizes (c : Fin 72) (t : Fin 8) (chk : CcrCheck) (d : Dev) : (clrf c t chk d).sizes = d.sizes :=
  ccrStep_sizes (fun k => by simp [CcrCx.plain, CcrRes.after]) c t chk d

@[simp] theorem waitf_sizes (c : Fin 72) (t : Fin 8) (chk : CcrCheck) (d : Dev) : (waitf c t chk d).sizes = d.sizes := by
  refine ccrStep_sizes (fun k => ?_) c t chk d
  split <;> simp [CcrCx.plain, CcrRes.after]

@[simp] theorem sendf_sizes (c : Fin 72) (t : Fin 8) (chk : CcrCheck) (d : Dev) : (sendf c t chk d).sizes = d.sizes := by
  refine ccrStep_sizes (fun k => ?_) c t chk d
  dsimp only
  split
  · rfl
  · split
    · exact setFlag_after_sizes k _
    · split <;> simp [CcrCx.plain, CcrRes.after]

@[simp] theorem getc_sizes (c : Fin 72) (t : Fin 8) (chk : CcrCheck) (d : Dev) : (getc c t chk d).sizes = d.sizes :=
  ccrStep_sizes (fun _ => rfl) c t chk d

@[simp] theorem sync_sizes (c : Fin 72) (t : Fin 8) (chk : CcrCheck) (d : Dev) : (sync c t chk d).sizes = d.sizes := by
  refine ccrStep_sizes (fun k => ?_) c t chk d
  split <;> simp [CcrCx.plain, CcrRes.after]

@[simp] theorem psync_sizes (c : Fin 72) (t : Fin 8) (chk : CcrCheck) (d : Dev) : (psync c t chk d).sizes = d.sizes := by
  refine ccrStep_sizes (fun k => ?_) c t chk d
  split <;> simp [CcrCx.plain, CcrRes.after]

@[simp] theorem halt_sizes (c : Fin 72) (t : Fin 8) (chk : CcrCheck) (d : Dev) : (halt c t chk d).sizes = d.sizes := by
  refine ccrStep_sizes (fun k => ?_) c t chk d
  split <;> simp [CcrRes.after]

@[simp] theorem ccrNop_sizes (c : Fin 72) (t : Fin 8) (chk : CcrCheck) (d : Dev) : (ccrNop c t chk d).sizes = d.sizes :=
  ccrStep_sizes (fun _ => rfl) c t chk d

@[simp] theorem ccrDeadlock_sizes (c : Fin 72) (d : Dev) : (ccrDeadlock c d).sizes = d.sizes := by
  unfold ccrDeadlock
  split <;> simp

/-! ### Stream -/

@[simp] theorem settlePfc_sizes (d : Dev) (q : Nat) : (d.settlePfc q).sizes = d.sizes := by
  simp [Dev.settlePfc]

@[simp] theorem dropFrame_sizes (d : Dev) (q : Nat) : (d.dropFrame q).sizes = d.sizes := by
  simp [Dev.dropFrame]

@[simp] theorem takePfc_sizes (d : Dev) (q : Nat) (body : List Byte) : (d.takePfc q body).sizes = d.sizes := by
  simp [Dev.takePfc]

@[simp] theorem divertRec_sizes (d : Dev) (q : Nat) (header : List Byte) (cause : Nat) :
    (d.divertRec q header cause).sizes = d.sizes := by
  simp [Dev.divertRec]

@[simp] theorem popDivert_sizes (d : Dev) : d.popDivert.sizes = d.sizes := by
  simp [Dev.popDivert]

@[simp] theorem setSlot_sizes (d : Dev) (h : BitVec 16) (i : Nat) (s : SlotState) :
    (d.setSlot h i s).sizes = d.sizes := sizes_of_only (setSlot_only ..) rfl

@[simp] theorem releaseClaim_sizes (d : Dev) (q : Nat) (r : OpenRec) :
    (d.releaseClaim q r).sizes = d.sizes := sizes_of_only (releaseClaim_only ..) rfl

@[simp] theorem modOpened_sizes (d : Dev) (q : Nat) (f : List OpenRec → List OpenRec) : (d.modOpened q f).sizes = d.sizes := by
  simp [Dev.modOpened]

@[simp] theorem killRec_sizes (d : Dev) (q sid seq : Nat) (last : Bool) : (d.killRec q sid seq last).sizes = d.sizes := by
  simp [Dev.killRec]

@[simp] theorem yieldClaim_sizes (d : Dev) (q sid seq : Nat) : (d.yieldClaim q sid seq).sizes = d.sizes := by
  simp [Dev.yieldClaim]

@[simp] theorem claimSlot_sizes (d : Dev) (q : Nat) (h : List Byte) : (d.claimSlot q h).2.sizes = d.sizes := by
  unfold Dev.claimSlot
  dsimp only
  repeat' split
  all_goals simp

@[simp] theorem fragFail_sizes (d : Dev) (q sid seq : Nat) (last : Bool) : (d.fragFail q sid seq last).sizes = d.sizes := by
  unfold Dev.fragFail
  split <;> simp

@[simp] theorem takeFragment_sizes (d : Dev) (q : Nat) (r : OpenRec) (off : Nat) (data : List Byte) (last : Bool) :
    (d.takeFragment q r off data last).sizes = d.sizes := by
  simp [Dev.takeFragment]

@[simp] theorem fragment_sizes (d : Dev) (q : Nat) (body : List Byte) : (d.fragment q body).sizes = d.sizes := by
  unfold Dev.fragment
  extract_lets sid first last seq off n data cur h e go
  have hgo : ∀ (d : Dev) claim, (go d claim).sizes = d.sizes := fun d claim => by simp [go]
  refine sizes_of_ite (by simp) (sizes_of_ite ?_ ?_)
  · refine sizes_of_ite (by simp) (sizes_of_ite (by simp [e]) (sizes_of_ite (by simp [e]) (sizes_of_ite (by simp [e]) (sizes_of_ite ?_ ?_))))
    · split
      next hc => simp [e, hgo, sizes_snd hc]
      next hc => simp [e, sizes_snd hc]
    · simp [e, hgo]
  · clear_value cur
    split <;> simp

@[simp] theorem streamFrameReceive_sizes (port : Fin 4) (frame : List Byte) (d : Dev) :
    (streamFrameReceive port frame d).sizes = d.sizes := by
  unfold streamFrameReceive
  split <;> simp

theorem takeBuf_q_sizes {d e : Dev} {q kind : Nat} {b : BufEnt} (h : d.takeBuf? q kind = some (b, e)) : e.sizes = d.sizes := by
  unfold Dev.takeBuf? at h
  split at h
  · split at h
    · cases h
      simp
    · cases h
  · cases h

@[simp] theorem slotRecord_sizes (port : Fin 4) (d : Dev) : (slotRecord port d).sizes = d.sizes := by
  unfold slotRecord
  dsimp only
  split
  · rfl
  next h =>
    split
    · exact takeBuf_q_sizes h
    · split
      · simp [takeBuf_q_sizes h]
      · simp [takeBuf_q_sizes h]

@[simp] theorem loadRecord_sizes (port : Fin 4) (d : Dev) : (loadRecord port d).sizes = d.sizes := by
  unfold loadRecord
  dsimp only
  split
  · rfl
  next h => simp [takeBuf_q_sizes h]

@[simp] theorem readReq_sizes (port : Fin 4) (d : Dev) : (readReq port d).sizes = d.sizes := by
  unfold readReq
  dsimp only
  split
  · rfl
  next h => simp [takeBuf_q_sizes h]

@[simp] theorem slotInputDeadline_sizes (h : BitVec 16) (i : Fin 65536) (d : Dev) : (slotInputDeadline h i d).sizes = d.sizes := by
  unfold slotInputDeadline
  split <;> simp

@[simp] theorem recordSend_sizes (port : Fin 4) (d : Dev) : (recordSend port d).sizes = d.sizes := by
  unfold recordSend
  dsimp only
  repeat' split
  all_goals simp

@[simp] theorem portIdle_sizes (d : Dev) (q : Nat) : (d.portIdle q).sizes = d.sizes := by
  simp [Dev.portIdle]

@[simp] theorem portTrain_sizes (d : Dev) (q : Nat) : (d.portTrain q).sizes = d.sizes := by
  simp [Dev.portTrain]

@[simp] theorem setEthertype_sizes (d : Dev) (v : BitVec 16) : (d.setEthertype v).sizes = d.sizes := by
  simp [Dev.setEthertype]

@[simp] theorem setPortEn_sizes (d : Dev) (q : Nat) (en : Bool) : (d.setPortEn q en).sizes = d.sizes := by
  simp [Dev.setPortEn]

@[simp] theorem streamPortUp_sizes (port : Fin 4) (d : Dev) : (streamPortUp port d).sizes = d.sizes := by
  simp [streamPortUp]

@[simp] theorem streamPortDown_sizes (port : Fin 4) (d : Dev) : (streamPortDown port d).sizes = d.sizes := by
  simp [streamPortDown]

/-! ### Trace -/

@[simp] theorem settleTrace_sizes (d : Dev) : d.settleTrace.sizes = d.sizes := by
  simp [Dev.settleTrace]

@[simp] theorem traceFlush_sizes (d : Dev) : (traceFlush d).sizes = d.sizes := by
  simp [traceFlush]

@[simp] theorem traceLostRecord_sizes (d : Dev) : (traceLostRecord d).sizes = d.sizes := by
  simp [traceLostRecord]

@[simp] theorem writeTrcCtrl_sizes (d : Dev) (v : BitVec 64) : (d.writeTrcCtrl v).sizes = d.sizes := by
  simp [Dev.writeTrcCtrl]

/-! ### Health -/

@[simp] theorem modHealth_sizes {f : Health → Health} (h1 : ∀ h, (f h).siteStates.length = h.siteStates.length)
    (h2 : ∀ h, (f h).overdue.length = h.overdue.length) (h3 : ∀ h, (f h).lastPass.length = h.lastPass.length)
    (h4 : ∀ h, (f h).testedSince.length = h.testedSince.length) (d : Dev) : (d.modHealth f).sizes = d.sizes := by
  simp [Dev.modHealth, h1, h2, h3, h4]

@[simp] theorem fenceSite_sizes (d : Dev) (n source : Nat) (fault : Option Bool) (tag : BitVec 32) (host : Option HostFence) :
    (d.fenceSite n source fault tag host).sizes = d.sizes := by
  simp [Dev.fenceSite]

@[simp] theorem configSite_sizes (d : Dev) (p : Plan) (core site : Nat) : (d.configSite p core site).sizes = d.sizes := by
  simp [Dev.configSite]

@[simp] theorem copyText_sizes (d : Dev) (p : Plan) (core site : Nat) :
    (d.copyText p core site).sizes = d.sizes := sizes_of_only (copyText_only ..) rfl

@[simp] theorem moveScratch_sizes (d : Dev) (old new : Nat) : (d.moveScratch old new).sizes = d.sizes := by
  simp [Dev.moveScratch]

@[simp] theorem restoreSets_sizes (d : Dev) (old new : Nat) (active : Bool) (s0 s1 : Option (LoadSrc × BitVec 32)) :
    (d.restoreSets old new active s0 s1).sizes = d.sizes := by
  simp [Dev.restoreSets]

@[simp] theorem restartChunk_sizes (d : Dev) (p : Plan) (c old new : Nat) (rc : RunChunk) :
    (d.restartChunk p c old new rc).sizes = d.sizes := by
  simp [Dev.restartChunk]

@[simp] theorem dropRecovery_sizes (d : Dev) (site : Nat) : (d.dropRecovery site).sizes = d.sizes := by
  simp [Dev.dropRecovery]

@[simp] theorem modRecovery_sizes (d : Dev) (site : Nat) (f : Recovery → Recovery) : (d.modRecovery site f).sizes = d.sizes := by
  simp [Dev.modRecovery]

@[simp] theorem answerFence_sizes (d : Dev) (r : Recovery) (result : Nat) :
    (d.answerFence r result).sizes = d.sizes := sizes_of_only (answerFence_only ..) rfl

@[simp] theorem freeSpare_sizes (d : Dev) (s : Nat) : (d.freeSpare s).sizes = d.sizes := by
  simp [Dev.freeSpare]

@[simp] theorem noSwap_sizes (d : Dev) (n : Nat) : (d.noSwap n).sizes = d.sizes := by
  simp [Dev.noSwap]

@[simp] theorem noSpare_sizes (d : Dev) (r : Recovery) (c : Nat) : (d.noSpare r c).sizes = d.sizes := by
  unfold Dev.noSpare
  split
  · dsimp only
    split <;> simp
  · simp only [answerFence_sizes, writeRecord_sizes, setSiteOf_sizes, setHltEvent_sizes, powerDown_sizes, siteReset_sizes,
      dropRecovery_sizes]

@[simp] theorem siteRecovery_sizes (site : Fin 80) (d : Dev) : (siteRecovery site d).sizes = d.sizes := by
  unfold siteRecovery
  dsimp only
  repeat' split
  all_goals simp

@[simp] theorem spareInService_sizes (site : Fin 80) (ok : Bool) (d : Dev) : (spareInService site ok d).sizes = d.sizes := by
  unfold spareInService
  dsimp only
  split
  · rfl
  · split
    · split
      · rfl
      · split
        · simp
        · simp only [answerFence_sizes, modRecovery_sizes, sizes_ite, setSiteOf_sizes, ite_self, setDom_sizes, siteReset_sizes]
    · rfl

@[simp] theorem beginTest_sizes (d : Dev) (n id : Nat) : (d.beginTest n id).sizes = d.sizes := by
  simp [Dev.beginTest]

@[simp] theorem recomputeHere_sizes (d : Dev) (r : Recovery) (c n : Nat) : (d.recomputeHere r c n).sizes = d.sizes := by
  unfold Dev.recomputeHere
  split <;> simp

@[simp] theorem stateLoadDone_sizes (site : Fin 80) (d : Dev) : (stateLoadDone site d).sizes = d.sizes := by
  unfold stateLoadDone
  dsimp only
  repeat' split
  all_goals simp

@[simp] theorem inPlaceRecompute_sizes (c : Fin 72) (addr : Fin 34359738368) (d : Dev) : (inPlaceRecompute c addr d).sizes = d.sizes := by
  unfold inPlaceRecompute
  split <;> simp

@[simp] theorem progressStop_sizes (c : Fin 72) (unit : Fin 9) (d : Dev) : (progressStop c unit d).sizes = d.sizes := by
  unfold progressStop
  repeat' split
  all_goals simp

@[simp] theorem watchdogOverrun_sizes (c : Fin 72) (d : Dev) : (watchdogOverrun c d).sizes = d.sizes := by
  unfold watchdogOverrun
  split <;> simp

@[simp] theorem commandWatchdogExpiry_sizes (c : Fin 72) (d : Dev) : (commandWatchdogExpiry c d).sizes = d.sizes := by
  unfold commandWatchdogExpiry
  split <;> simp

@[simp] theorem spareWarm_sizes (site : Fin 80) (ok : Bool) (d : Dev) : (spareWarm site ok d).sizes = d.sizes := by
  simp [spareWarm]

@[simp] theorem craterTableSave_sizes (d : Dev) : (craterTableSave d).sizes = d.sizes := by
  simp [craterTableSave]

@[simp] theorem fencedSiteTest_sizes (site : Fin 80) (d : Dev) : (fencedSiteTest site d).sizes = d.sizes := by
  simp [fencedSiteTest]

@[simp] theorem returnSite_sizes (d : Dev) (n : Nat) : (d.returnSite n).sizes = d.sizes := by
  simp [Dev.returnSite]

@[simp] theorem restSite_sizes (d : Dev) (n : Nat) : (d.restSite n).sizes = d.sizes := by
  simp [Dev.restSite]

@[simp] theorem answerTest_sizes (d : Dev) (n : Nat) (failed : Bool) (remapped : Nat) :
    (d.answerTest n failed remapped).sizes = d.sizes := sizes_of_only (answerTest_only ..) rfl

@[simp] theorem warmAgain_sizes (d : Dev) (n : Nat) : (d.warmAgain n).sizes = d.sizes := by
  simp [Dev.warmAgain]

@[simp] theorem testPassed_sizes (d : Dev) (t : TestRun) (remapped : Bool) : (d.testPassed t remapped).sizes = d.sizes := by
  unfold Dev.testPassed
  dsimp only
  split <;> simp [apply_ite List.length]

@[simp] theorem testFailed_sizes (d : Dev) (t : TestRun) : (d.testFailed t).sizes = d.sizes := by
  unfold Dev.testFailed
  split <;> simp

@[simp] theorem testDone_sizes (site : Fin 80) (result : TestResult) (d : Dev) : (testDone site result d).sizes = d.sizes := by
  unfold testDone
  dsimp only
  repeat' split
  all_goals simp

@[simp] theorem testDue_sizes (site : Fin 80) (d : Dev) : (testDue site d).sizes = d.sizes := by
  unfold testDue
  dsimp only
  repeat' split
  all_goals simp

@[simp] theorem overdueSwap_sizes (c : Fin 72) (d : Dev) : (overdueSwap c d).sizes = d.sizes := by
  unfold overdueSwap
  dsimp only
  repeat' split
  all_goals simp

@[simp] theorem modHeal_sizes (d : Dev) (f : List Heal → List Heal) : (d.modHeal f).sizes = d.sizes := by
  simp [Dev.modHeal]

@[simp] theorem healRequest_sizes (d : Dev) : (healRequest d).sizes = d.sizes := by
  unfold healRequest
  repeat' split
  all_goals simp

@[simp] theorem healServe_sizes (d : Dev) : (healServe d).sizes = d.sizes := by
  unfold healServe
  dsimp only
  split
  · rfl
  next h =>
    split
    · simp [takeInbox_sizes h]
    · exact takeInbox_sizes h

@[simp] theorem healData_sizes (d : Dev) : (healData d).sizes = d.sizes := by
  unfold healData
  dsimp only
  split
  · rfl
  next h =>
    split
    · split
      · exact takeInbox_sizes h
      · split
        · rfl
        · split
          all_goals simp [takeInbox_sizes h]
    · exact takeInbox_sizes h

@[simp] theorem healTimeout_sizes (d : Dev) : (healTimeout d).sizes = d.sizes := by
  unfold healTimeout
  repeat' split
  all_goals simp

@[simp] theorem haltFor_sizes (d : Dev) (hit : List Plan) (unit : BitVec 16) : (d.haltFor hit unit).sizes = d.sizes := by
  simp [Dev.haltFor]

@[simp] theorem fenceUnit_sizes (d : Dev) (u : BitVec 16) (source code : Nat) : (d.fenceUnit u source code).sizes = d.sizes := by
  simp [Dev.fenceUnit]

@[simp] theorem loseStack_sizes (d : Dev) (s : Nat) : (d.loseStack s).sizes = d.sizes := by
  simp [Dev.loseStack]

@[simp] theorem dropSpare_sizes (d : Dev) (r : Recovery) : (d.dropSpare r).sizes = d.sizes := by
  unfold Dev.dropSpare
  repeat' split
  all_goals simp

@[simp] theorem loseSite_sizes (d : Dev) (n : Nat) : (d.loseSite n).sizes = d.sizes := by
  unfold Dev.loseSite
  dsimp only
  repeat' split
  all_goals simp

@[simp] theorem stackLost_sizes (u : LostUnit) (d : Dev) : (stackLost u d).sizes = d.sizes := by
  unfold stackLost
  repeat' split
  all_goals simp

/-! ### Reset -/

@[simp] theorem fenceByCrater_sizes (d : Dev) : d.fenceByCrater.sizes = d.sizes := by
  simp [Dev.fenceByCrater, Dev.sizes]

@[simp] theorem driveBeat_sizes (d : Dev) : d.driveBeat.sizes = d.sizes := sizes_of_only (driveBeat_only ..) rfl

@[simp] theorem takeStraps_sizes (d : Dev) (s : StrapSamples) : (d.takeStraps s).sizes = d.sizes := by
  simp [Dev.takeStraps, Dev.sizes]

@[simp] theorem powerBoot_sizes (d : Dev) : d.powerBoot.sizes = d.sizes := by
  simp [Dev.powerBoot]

@[simp] theorem chanFlr_sizes (d : Dev) (c : Nat) : (d.chanFlr c).sizes = d.sizes := by
  simp only [Dev.chanFlr, modChan_sizes, resetChan_sizes]

@[simp] theorem queueFlr_sizes (d : Dev) (func : Nat) : (d.queueFlr func).sizes = d.sizes := by
  simp only [Dev.queueFlr, sizes_foldl, modCq_sizes, implies_true]

@[simp] theorem flr_sizes (d : Dev) (func : Nat) : (d.flr func).sizes = d.sizes := by
  simp [Dev.flr]

@[simp] theorem functionLevelReset_sizes (func : Fin 5) (d : Dev) : (functionLevelReset func d).sizes = d.sizes := by
  simp [functionLevelReset]

@[simp] theorem pcieReset_sizes (d : Dev) : (pcieReset d).sizes = d.sizes := by
  simp [pcieReset]

@[simp] theorem pcieEndpointUp_sizes (d : Dev) : (pcieEndpointUp d).sizes = d.sizes := by
  simp [pcieEndpointUp]

@[simp] theorem vfEnableClear_sizes (d : Dev) : (vfEnableClear d).sizes = d.sizes := by
  simp [vfEnableClear]

/-! ### Power -/

@[simp] theorem setPwrEvent_sizes (d : Dev) (i : Nat) : (d.setPwrEvent i).sizes = d.sizes := by
  simp [Dev.setPwrEvent]

@[simp] theorem gateHalted_sizes (d : Dev) : d.gateHalted.sizes = d.sizes := by
  simp [Dev.gateHalted]

@[simp] theorem haltDevice_sizes (d : Dev) : d.haltDevice.sizes = d.sizes := by
  rw [Dev.haltDevice, gateHalted_sizes]
  simp [Dev.sizes]

@[simp] theorem vinRise_sizes (d : Dev) : (vinRise d).sizes = d.sizes := by
  simp [vinRise]

@[simp] theorem vinOutOfRange_sizes (high : Bool) (d : Dev) : (vinOutOfRange high d).sizes = d.sizes := by
  simp [vinOutOfRange]

@[simp] theorem domainReq_sizes (d : Dev) (k : Nat) (on : Bool) : (d.domainReq k on).sizes = d.sizes := by
  simp [Dev.domainReq]

@[simp] theorem fenceDead_sizes (d : Dev) (u : BitVec 16) : (d.fenceDead u).sizes = d.sizes := by
  unfold Dev.fenceDead
  split <;> simp

@[simp] theorem selfTestFailed_sizes (d : Dev) (n : Nat) : (d.selfTestFailed n).sizes = d.sizes := by
  unfold Dev.selfTestFailed
  split <;> simp

@[simp] theorem fenceDeads_sizes (d : Dev) : d.fenceDeads.sizes = d.sizes := by
  simp [Dev.fenceDeads]

@[simp] theorem domainRampTimeout_sizes (k : Fin 171) (d : Dev) : (domainRampTimeout k d).sizes = d.sizes := by
  unfold domainRampTimeout
  split <;> simp

@[simp] theorem domainRampDone_sizes (k : Fin 171) (ok : Bool) (d : Dev) : (domainRampDone k ok d).sizes = d.sizes := by
  unfold domainRampDone
  dsimp only
  repeat' split
  all_goals simp

@[simp] theorem settleDomains_sizes (d : Dev) : d.settleDomains.sizes = d.sizes := by
  simp [Dev.settleDomains]

@[simp] theorem keyFails_sizes (d : Dev) (slot : Nat) : (d.keyFails slot).sizes = d.sizes := by
  simp [Dev.keyFails]

@[simp] theorem firmwareAuth_sizes (bad : List (Fin 8)) (d : Dev) : (firmwareAuth bad d).sizes = d.sizes := by
  unfold firmwareAuth
  split
  · rfl
  · extract_lets
    split
    · simp
    · rw [fenceDeads_sizes, takeHeld_sizes, sizes_foldl keyFails_sizes]
      simp +zetaDelta [Dev.sizes]

@[simp] theorem startLinks_sizes (d : Dev) : d.startLinks.sizes = d.sizes := by
  unfold Dev.startLinks
  split
  · rfl
  · rw [sizes_foldl (fun d p => by simp)]
    simp [Dev.sizes]

/-! ### Beat -/

@[simp] theorem modBt_sizes (d : Dev) (f : Bt → Bt) : (d.modBt f).sizes = d.sizes := sizes_of_only (modBt_only ..) rfl

@[simp] theorem setBtEvent_sizes (d : Dev) (i : Nat) : (d.setBtEvent i).sizes = d.sizes := sizes_of_only (setBtEvent_only ..) rfl

@[simp] theorem chooseSrc_sizes (d : Dev) : d.chooseSrc.sizes = d.sizes := sizes_of_only (chooseSrc_only ..) rfl

@[simp] theorem beatInQualify_sizes (d : Dev) : (beatInQualify d).sizes = d.sizes := sizes_of_only (beatInQualify_only ..) rfl

@[simp] theorem unqualify_sizes (d : Dev) : d.unqualify.sizes = d.sizes := sizes_of_only (unqualify_only ..) rfl

@[simp] theorem beatInDisqualify_sizes (d : Dev) : (beatInDisqualify d).sizes = d.sizes := sizes_of_only (beatInDisqualify_only ..) rfl

@[simp] theorem pllLock_sizes (d : Dev) : (pllLock d).sizes = d.sizes := by
  simp only [pllLock, sizes_ite, powerBoot_sizes, sizes_with_pwr, modBt_sizes, ite_self]

@[simp] theorem setTs_sizes (d : Dev) (v : BitVec 64) : (d.setTs v).sizes = d.sizes := sizes_of_only (setTs_only ..) rfl

@[simp] theorem sendMarkers_sizes (d : Dev) (ports : List Nat) (m : Marker) : (d.sendMarkers ports m).sizes = d.sizes := by
  simp [Dev.sendMarkers]

@[simp] theorem beatMarkerSend_sizes (d : Dev) : (beatMarkerSend d).sizes = d.sizes := by
  simp [beatMarkerSend]

@[simp] theorem stopPlans_sizes (d : Dev) (cause : BitVec 16) : (d.stopPlans cause).sizes = d.sizes := by
  simp [Dev.stopPlans]

@[simp] theorem regained_sizes (d : Dev) (off : Int) : (d.regained off).sizes = d.sizes := by
  simp [Dev.regained]

@[simp] theorem takeMarker_sizes (d : Dev) (p : Nat) (m : Marker) : (d.takeMarker p m).sizes = d.sizes := by
  simp [Dev.takeMarker]

@[simp] theorem adopt_sizes (d : Dev) : d.adopt.sizes = d.sizes := by
  simp only [Dev.adopt, sizes_ite, sizes_with_pwr, modBt_sizes, setBtEvent_sizes, ite_self]

@[simp] theorem beatMarkerReceive_sizes (port : Fin 24) (d : Dev) : (beatMarkerReceive port d).sizes = d.sizes := by
  unfold beatMarkerReceive
  dsimp only
  repeat' split
  all_goals simp

@[simp] theorem counterStep_sizes (d : Dev) : (counterStep d).sizes = d.sizes := by
  unfold counterStep
  split <;> simp

@[simp] theorem slewEnd_sizes (d : Dev) : (slewEnd d).sizes = d.sizes := sizes_of_only (slewEnd_only ..) rfl

@[simp] theorem sendClaim_sizes (d : Dev) (ports : List Nat) (c : Claim) : (d.sendClaim ports c).sizes = d.sizes := by
  simp [Dev.sendClaim]

@[simp] theorem startElection_sizes (d : Dev) : d.startElection.sizes = d.sizes := by
  simp [Dev.startElection]

@[simp] theorem keyConflict_sizes (d : Dev) (other : BitVec 128) : (d.keyConflict other).sizes = d.sizes := by
  simp [Dev.keyConflict]

@[simp] theorem claimReceive_sizes (d : Dev) : (claimReceive d).sizes = d.sizes := by
  unfold claimReceive
  split
  · rfl
  next h =>
    split
    · simp [takeInbox_sizes h]
    · exact takeInbox_sizes h

@[simp] theorem electionSettle_sizes (d : Dev) : (electionSettle d).sizes = d.sizes := by
  unfold electionSettle
  dsimp only
  repeat' split
  all_goals simp

@[simp] theorem holdoverEntry_sizes (d : Dev) : (holdoverEntry d).sizes = d.sizes := by
  simp [holdoverEntry]

@[simp] theorem holdoverPause_sizes (d : Dev) : (holdoverPause d).sizes = d.sizes := by
  simp [holdoverPause]

@[simp] theorem trainingDone_sizes (found : List TrainIn) (d : Dev) : (trainingDone found d).sizes = d.sizes := by
  simp [trainingDone]

@[simp] theorem processorWatchdogExpiry_sizes (i : Fin 5) (d : Dev) : (processorWatchdogExpiry i d).sizes = d.sizes := by
  unfold processorWatchdogExpiry
  repeat' split
  all_goals simp

@[simp] theorem processorRestartDone_sizes (i : Fin 5) (d : Dev) : (processorRestartDone i d).sizes = d.sizes := by
  simp only [processorRestartDone, sizes_ite, serveRings_sizes, sizes_foldl, finishReq_sizes, implies_true, sizes_with, modFw_sizes,
    fenceDeads_sizes, takeHeld_sizes, ite_self]

/-! ### Chekor -/

@[simp] theorem deviceInfo_sizes (d : Dev) : (deviceInfo d).sizes = d.sizes :=
  serve_sizes (fun _ _ _ => rfl) d _

@[simp] theorem telemetry_sizes (d : Dev) : (telemetry d).sizes = d.sizes :=
  serve_sizes (fun _ _ _ => rfl) d _

@[simp] theorem linkStatus_sizes (d : Dev) : (linkStatus d).sizes = d.sizes :=
  serve_sizes (fun _ _ _ => rfl) d _

@[simp] theorem coreMap_sizes (d : Dev) : (coreMap d).sizes = d.sizes :=
  serve_sizes (fun _ _ _ => rfl) d _

@[simp] theorem sessionOpen_sizes (d : Dev) : (sessionOpen d).sizes = d.sizes := by
  refine serve_sizes (fun d r p => ?_) d _
  dsimp only
  repeat' split
  all_goals simp

@[simp] theorem sessionClose_sizes (d : Dev) : (sessionClose d).sizes = d.sizes := by
  refine serve_sizes (fun d r p => ?_) d _
  simp

@[simp] theorem admitPlan_sizes (d : Dev) (func addr len : Nat) (img : PlanImg) : (d.admitPlan func addr len img).1.sizes = d.sizes := by
  unfold Dev.admitPlan
  dsimp only
  rw [sizes_with, sizes_foldl]
  intro d c
  simp only [Dev.sizes, Dev.modCq, List.length_modify, List.length_set]

@[simp] theorem planAdmit_sizes (d : Dev) : (planAdmit d).sizes = d.sizes := by
  refine serve_sizes (fun d r p => ?_) d _
  dsimp only
  repeat' split
  all_goals simp

@[simp] theorem armCore_sizes (d : Dev) (p : Plan) (i : Nat) : (d.armCore p i).sizes = d.sizes := by
  simp [Dev.armCore]

@[simp] theorem armCounters_sizes (d : Dev) : d.armCounters.sizes = d.sizes := by
  simp [Dev.armCounters, Dev.sizes]

@[simp] theorem loadTables_sizes (d : Dev) : d.loadTables.sizes = d.sizes := sizes_of_only (loadTables_only ..) rfl

@[simp] theorem armPlan_sizes (d : Dev) (p : Plan) (start : Nat) : (d.armPlan p start).sizes = d.sizes := by
  unfold Dev.armPlan
  dsimp only
  rw [settleHeld_sizes, modPlan_sizes, sizes_foldl (fun d e => by simp)]
  refine (sizes_with_stm _ _ _ rfl).trans ?_
  rw [loadTables_sizes, armCounters_sizes, sizes_foldl (fun d i => armCore_sizes d p i), sizes_with]

@[simp] theorem planArm_sizes (d : Dev) : (planArm d).sizes = d.sizes := by
  refine serve_sizes (fun d r p => ?_) d _
  repeat' split
  all_goals simp

@[simp] theorem planPause_sizes (d : Dev) : (planPause d).sizes = d.sizes := by
  refine serve_sizes (fun d r p => ?_) d _
  repeat' split
  all_goals simp

@[simp] theorem planResume_sizes (d : Dev) : (planResume d).sizes = d.sizes := by
  refine serve_sizes (fun d r p => ?_) d _
  repeat' split
  all_goals simp

@[simp] theorem debugResume_sizes (d : Dev) : (debugResume d).sizes = d.sizes := by
  refine serve_sizes (fun d r p => ?_) d _
  repeat' split
  all_goals simp

@[simp] theorem planRetire_sizes (d : Dev) : (planRetire d).sizes = d.sizes := by
  refine serve_sizes (fun d r p => ?_) d _
  split
  · rfl
  · split
    · rfl
    · split
      · rfl
      · extract_lets e
        split <;> simp [e]

@[simp] theorem planStatus_sizes (d : Dev) : (planStatus d).sizes = d.sizes := by
  refine serve_sizes (fun d r p => ?_) d _
  repeat' split
  all_goals simp

@[simp] theorem selectOne_sizes (d : Dev) (h : BitVec 16) (s : Nat) (tag : BitVec 32) (group variant : Nat) :
    (d.selectOne h s tag group variant).sizes = d.sizes := by
  unfold Dev.selectOne
  dsimp only
  repeat' split
  all_goals simp

@[simp] theorem recipeSelect_sizes (d : Dev) : (recipeSelect d).sizes = d.sizes := by
  refine serve_sizes (fun d r p => ?_) d _
  dsimp only
  repeat' split
  all_goals simp

/-! ### Fences -/

@[simp] theorem fenceIdle_sizes (d : Dev) (n : Nat) (host : HostFence) : (d.fenceIdle n host).sizes = d.sizes := by
  simp [Dev.fenceIdle]

@[simp] theorem fenceSpare_sizes (d : Dev) (n : Nat) (r : Recovery) (host : HostFence) : (d.fenceSpare n r host).sizes = d.sizes := by
  simp [Dev.fenceSpare]

@[simp] theorem fenceMoving_sizes (d : Dev) (n : Nat) (r : Recovery) (host : HostFence) : (d.fenceMoving n r host).1.sizes = d.sizes := by
  simp [Dev.fenceMoving]

@[simp] theorem fence_sizes (d : Dev) : (fence d).sizes = d.sizes := by
  refine serve_sizes (fun d r p => ?_) d _
  dsimp only
  repeat' split
  all_goals simp

@[simp] theorem powerReturned_sizes (d : Dev) (n : Nat) : (d.powerReturned n).sizes = d.sizes := by
  simp [Dev.powerReturned]

@[simp] theorem unfence_sizes (d : Dev) : (unfence d).sizes = d.sizes := by
  refine serve_sizes (fun d r p => ?_) d _
  simp

@[simp] theorem returnUnit_sizes (d : Dev) (u : BitVec 16) : (d.returnUnit u).sizes = d.sizes := by
  unfold Dev.returnUnit
  split <;> simp

@[simp] theorem markUnit_sizes (d : Dev) (u : BitVec 16) (perm : Bool) : (d.markUnit u perm).sizes = d.sizes := by
  simp [Dev.markUnit]

@[simp] theorem fenceOverride_sizes (d : Dev) : (fenceOverride d).sizes = d.sizes := by
  refine serve_sizes (fun d r p => ?_) d _
  repeat' split
  all_goals simp

@[simp] theorem testRun_sizes (d : Dev) : (testRun d).sizes = d.sizes := by
  refine serve_sizes (fun d r p => ?_) d _
  dsimp only
  repeat' split
  all_goals simp

@[simp] theorem testConfig_sizes (d : Dev) : (testConfig d).sizes = d.sizes := by
  refine serve_sizes (fun d r p => ?_) d _
  simp

@[simp] theorem craterRead_sizes (d : Dev) : (craterRead d).sizes = d.sizes := by
  refine serve_sizes (fun d r p => ?_) d _
  simp

@[simp] theorem loseBank_sizes (d : Dev) (bankB : Bool) : (d.loseBank bankB).sizes = d.sizes := by
  unfold Dev.loseBank
  dsimp only
  repeat' split
  all_goals simp

@[simp] theorem logRead_sizes (ecc : LogEcc) (d : Dev) : (logRead ecc d).sizes = d.sizes := by
  refine serve_sizes (fun d r p => ?_) d _
  repeat' split
  all_goals simp

/-! ### Tenancy -/

@[simp] theorem tenancyCreate_sizes (d : Dev) : (tenancyCreate d).sizes = d.sizes := by
  refine serve_sizes (fun d r p => ?_) d _
  repeat' split
  all_goals simp

@[simp] theorem tenancyDestroy_sizes (d : Dev) : (tenancyDestroy d).sizes = d.sizes := by
  refine serve_sizes (fun d r p => ?_) d _
  simp

@[simp] theorem sharedRegion_sizes (d : Dev) : (sharedRegion d).sizes = d.sizes := by
  refine serve_sizes (fun d r p => ?_) d _
  repeat' split
  all_goals simp

@[simp] theorem wipePolicy_sizes (d : Dev) : (wipePolicy d).sizes = d.sizes := by
  refine serve_sizes (fun d r p => ?_) d _
  repeat' split
  all_goals simp

@[simp] theorem lifecycleChange_sizes (d : Dev) : (lifecycleChange d).sizes = d.sizes := by
  refine serve_sizes (fun d r p => ?_) d _
  repeat' split
  all_goals simp

@[simp] theorem keyProvision_sizes (d : Dev) : (keyProvision d).sizes = d.sizes := by
  refine serve_sizes (fun d r p => ?_) d _
  repeat' split
  all_goals simp

@[simp] theorem fwUpdate_sizes (d : Dev) : (fwUpdate d).sizes = d.sizes := by
  refine serve_sizes (fun d r p => ?_) d _
  dsimp only
  repeat' split
  all_goals simp

@[simp] theorem drawChallenge_sizes (d : Dev) : d.drawChallenge.sizes = d.sizes := sizes_of_only (drawChallenge_only ..) rfl

@[simp] theorem submitResponse_sizes (d : Dev) : d.submitResponse.sizes = d.sizes := sizes_of_only (submitResponse_only ..) rfl

@[simp] theorem lockDebug_sizes (d : Dev) : d.lockDebug.sizes = d.sizes := sizes_of_only (lockDebug_only ..) rfl

/-! ### Regs -/

@[simp] theorem writeBt_sizes (d : Dev) (o : Nat) (v : BitVec 64) : (d.writeBt o v).sizes = d.sizes := sizes_of_only (writeBt_only ..) rfl

@[simp] theorem writePwr_sizes (d : Dev) (o : Nat) (v : BitVec 64) : (d.writePwr o v).sizes = d.sizes := by
  unfold Dev.writePwr
  split <;> simp

@[simp] theorem writeHlt_sizes (d : Dev) (o : Nat) (v : BitVec 64) : (d.writeHlt o v).sizes = d.sizes := by
  unfold Dev.writeHlt
  split <;> simp

@[simp] theorem writeDbg_sizes (d : Dev) (v : BitVec 64) : (d.writeDbg v).sizes = d.sizes := sizes_of_only (writeDbg_only ..) rfl

@[simp] theorem writeSec_sizes (d : Dev) (o : Nat) (v : BitVec 64) :
    (d.writeSec o v).sizes = d.sizes := sizes_of_only (writeSec_only ..) rfl

@[simp] theorem writeMgt_sizes (d : Dev) (o : Nat) (v : BitVec 64) :
    (d.writeMgt o v).sizes = d.sizes := sizes_of_only (writeMgt_only ..) rfl

@[simp] theorem writeLnk_sizes (d : Dev) (o : Nat) (v : BitVec 64) : (d.writeLnk o v).sizes = d.sizes := by
  unfold Dev.writeLnk
  split <;> simp

@[simp] theorem writeStm_sizes (d : Dev) (o : Nat) (v : BitVec 64) : (d.writeStm o v).sizes = d.sizes := by
  unfold Dev.writeStm
  split <;> simp

@[simp] theorem writeStk_sizes (d : Dev) (path : RegPath) (s o : Nat) (v : BitVec 64) : (d.writeStk path s o v).sizes = d.sizes := by
  unfold Dev.writeStk
  split <;> simp

@[simp] theorem writeReg_sizes (d : Dev) (path : RegPath) (b : Block) (o : Nat) (v : BitVec 64) :
    (d.writeReg path b o v).sizes = d.sizes := by
  unfold Dev.writeReg
  repeat' split
  all_goals simp

@[simp] theorem setDevErr_sizes (d : Dev) (i : Nat) : (d.setDevErr i).sizes = d.sizes := sizes_of_only (setDevErr_only ..) rfl

@[simp] theorem spaceWrite_sizes (d : Dev) (path : RegPath) (off : Nat) (whole : Bool) (v : BitVec 64) :
    (d.spaceWrite path off whole v).sizes = d.sizes := by
  unfold Dev.spaceWrite
  repeat' split
  all_goals simp

@[simp] theorem spaceRead_sizes (d : Dev) (path : RegPath) (off : Nat) :
    (d.spaceRead path off).2.sizes = d.sizes := sizes_of_only (spaceRead_only ..) rfl

@[simp] theorem bar4Read_sizes (d : Dev) (func off : Nat) :
    (d.bar4Read func off).2.sizes = d.sizes := sizes_of_only (bar4Read_only ..) rfl

@[simp] theorem writeMbx_sizes (d : Dev) (c o : Nat) (v : BitVec 64) : (d.writeMbx c o v).sizes = d.sizes := by
  unfold Dev.writeMbx
  split <;> simp

@[simp] theorem writeCq_sizes (d : Dev) (func : Fin 5) (w : Fin 72) (o : Nat) (v : BitVec 64) :
    (d.writeCq func w o v).sizes = d.sizes := by
  unfold Dev.writeCq
  repeat' split
  all_goals simp

/-! ### Access -/

@[simp] theorem pathWrite_sizes (d : Dev) (path : RegPath) (off : Nat) (v : BitVec 64) : (d.pathWrite path off v).sizes = d.sizes := by
  unfold Dev.pathWrite
  repeat' split
  all_goals simp

@[simp] theorem divertPop_sizes (path : RegPath) (d : Dev) : (divertPop path d).sizes = d.sizes := by
  simp [divertPop]

@[simp] theorem ethertypeWrite_sizes (path : RegPath) (v : BitVec 16) (d : Dev) : (ethertypeWrite path v d).sizes = d.sizes := by
  simp [ethertypeWrite]

@[simp] theorem traceCtrlWrite_sizes (path : RegPath) (v : BitVec 64) (d : Dev) : (traceCtrlWrite path v d).sizes = d.sizes := by
  simp [traceCtrlWrite]

@[simp] theorem cfgDone_sizes (path : RegPath) (d : Dev) : (cfgDone path d).sizes = d.sizes := by
  simp [cfgDone]

@[simp] theorem domainPowerUp_sizes (path : RegPath) (k : BitVec 8) (d : Dev) : (domainPowerUp path k d).sizes = d.sizes := by
  simp [domainPowerUp]

@[simp] theorem domainPowerDown_sizes (path : RegPath) (k : BitVec 8) (d : Dev) : (domainPowerDown path k d).sizes = d.sizes := by
  simp [domainPowerDown]

@[simp] theorem newChal_sizes (path : RegPath) (d : Dev) : (newChal path d).sizes = d.sizes := by
  simp [newChal]

@[simp] theorem submit_sizes (path : RegPath) (d : Dev) : (submit path d).sizes = d.sizes := by
  simp [submit]

@[simp] theorem lock_sizes (path : RegPath) (d : Dev) : (lock path d).sizes = d.sizes := by
  simp [lock]

@[simp] theorem fuseSpareRow_sizes (path : RegPath) (s : Fin 16) (die : Fin 2) (bank : Fin 128) (row : Fin 1024) (d : Dev) :
    (fuseSpareRow path s die bank row d).sizes = d.sizes := by
  simp [fuseSpareRow]

@[simp] theorem fuseSpareBank_sizes (path : RegPath) (s : Fin 16) (die : Fin 2) (bank : Fin 128) (row : Fin 1024) (d : Dev) :
    (fuseSpareBank path s die bank row d).sizes = d.sizes := by
  simp [fuseSpareBank]

@[simp] theorem rawRead_sizes (path : RegPath) (s : Fin 16) (die : Fin 2) (bank : Fin 128) (row : Fin 1024) (d : Dev) :
    (rawRead path s die bank row d).sizes = d.sizes := by
  simp [rawRead]

@[simp] theorem pageWrite_sizes (d : Dev) (func c off : Nat) (whole : Bool) (v : BitVec 64) :
    (d.pageWrite func c off whole v).sizes = d.sizes := by
  simp [Dev.pageWrite]

@[simp] theorem queueWrite_sizes (d : Dev) (func : Fin 5) (w : Fin 72) (off : Nat) (whole : Bool) (v : BitVec 64) :
    (d.queueWrite func w off whole v).sizes = d.sizes := by
  simp [Dev.queueWrite]

@[simp] theorem registerWrite_sizes (t : RegTarget) (data : List Byte) (d : Dev) : (registerWrite t data d).sizes = d.sizes := by
  unfold registerWrite
  split <;> simp

/-! ### Mgt -/

@[simp] theorem modMgt_sizes (d : Dev) (f : Mgt → Mgt) : (d.modMgt f).sizes = d.sizes := sizes_of_only (modMgt_only ..) rfl

@[simp] theorem accErr_sizes (d : Dev) : d.accErr.sizes = d.sizes := sizes_of_only (accErr_only ..) rfl

theorem frame_sizes {act : Dev → Dev} (h : ∀ d, (act d).sizes = d.sizes) (d : Dev) (edges : Nat) (cmd : BitVec 8) (n : Nat)
    (miso : List Byte) : (d.frame edges cmd n miso act).sizes = d.sizes := by
  simp [Dev.frame, h]

@[simp] theorem status_sizes (cmd : BitVec 8) (edges : Nat) (d : Dev) :
    (status cmd edges d).sizes = d.sizes := sizes_of_only (status_only ..) rfl

@[simp] theorem regRead_sizes (addr : BitVec 48) (edges : Nat) (d : Dev) :
    (regRead addr edges d).sizes = d.sizes := sizes_of_only (regRead_only ..) rfl

@[simp] theorem regWrite_sizes (addr : BitVec 48) (data : BitVec 64) (edges : Nat) (d : Dev) :
    (regWrite addr data edges d).sizes = d.sizes := sizes_of_only (regWrite_only ..) rfl

@[simp] theorem mgtAccessDone_sizes (d : Dev) : (mgtAccessDone d).sizes = d.sizes := by
  unfold mgtAccessDone
  split
  · rfl
  · extract_lets e v
    split
    · simp [e]
    · simp [e]
  · extract_lets e
    split
    · simp only [e, pathWrite_sizes, modMgt_sizes]
    · simp [e]

@[simp] theorem dataRead_sizes (edges : Nat) (d : Dev) : (dataRead edges d).sizes = d.sizes := sizes_of_only (dataRead_only ..) rfl

theorem channel7_sizes {f : Dev → Dev} (h : ∀ d, (f d).sizes = d.sizes) (d : Dev) : (d.channel7 f).sizes = d.sizes := by
  simp [Dev.channel7, h]

@[simp] theorem ch7Write_sizes (off n : BitVec 16) (data : List Byte) (edges : Nat) (d : Dev) :
    (ch7Write off n data edges d).sizes = d.sizes := by
  unfold ch7Write
  refine frame_sizes (fun d => ?_) d edges _ _ _
  split
  · simp
  · exact channel7_sizes (fun d => by simp) d

@[simp] theorem ch7Ring_sizes (edges : Nat) (d : Dev) : (ch7Ring edges d).sizes = d.sizes := by
  unfold ch7Ring
  refine frame_sizes (fun d => channel7_sizes (fun d => ?_) d) d edges _ _ _
  simp

@[simp] theorem ch7Read_sizes (off n : BitVec 16) (edges : Nat) (d : Dev) :
    (ch7Read off n edges d).sizes = d.sizes := sizes_of_only (ch7Read_only ..) rfl

@[simp] theorem ch7Pop_sizes (edges : Nat) (d : Dev) : (ch7Pop edges d).sizes = d.sizes :=
  frame_sizes (fun d => channel7_sizes (fun d => pop_sizes d 7) d) d edges _ _ _

@[simp] theorem latchRead_sizes (edges : Nat) (d : Dev) : (latchRead edges d).sizes = d.sizes := sizes_of_only (latchRead_only ..) rfl

theorem popLatch_keeps (h : Health) : h.popLatch.siteStates = h.siteStates ∧ h.popLatch.overdue = h.overdue ∧
    h.popLatch.lastPass = h.lastPass ∧ h.popLatch.testedSince = h.testedSince := by
  unfold Health.popLatch
  split <;> simp

@[simp] theorem latchPop_sizes (edges : Nat) (d : Dev) : (latchPop edges d).sizes = d.sizes := by
  unfold latchPop
  refine frame_sizes (fun d => ?_) d edges _ _ _
  simp [popLatch_keeps]

/-! ### Jtag -/

@[simp] theorem tap_sizes (d : Dev) (f : Jtag → Jtag) : (d.tap f).sizes = d.sizes := sizes_of_only (tap_only ..) rfl

@[simp] theorem idcode_sizes (d : Dev) : (idcode d).sizes = d.sizes := sizes_of_only (idcode_only ..) rfl

@[simp] theorem samplePreload_sizes (bits : List Bool) (d : Dev) :
    (samplePreload bits d).sizes = d.sizes := sizes_of_only (samplePreload_only ..) rfl

@[simp] theorem extest_sizes (d : Dev) : (extest d).sizes = d.sizes := sizes_of_only (extest_only ..) rfl

@[simp] theorem clamp_sizes (d : Dev) : (clamp d).sizes = d.sizes := sizes_of_only (clamp_only ..) rfl

@[simp] theorem highz_sizes (d : Dev) : (highz d).sizes = d.sizes := sizes_of_only (highz_only ..) rfl

@[simp] theorem ijtagSel_sizes (d : Dev) : (ijtagSel d).sizes = d.sizes := sizes_of_only (ijtagSel_only ..) rfl

@[simp] theorem bypass_sizes (code : BitVec 8) (tdi : List Bool) (d : Dev) :
    (bypass code tdi d).sizes = d.sizes := sizes_of_only (bypass_only ..) rfl

@[simp] theorem tapReset_sizes (d : Dev) : (tapReset d).sizes = d.sizes := sizes_of_only (tapReset_only ..) rfl

@[simp] theorem ijtagData_sizes (d : Dev) (bs : List Byte) : (d.ijtagData bs).sizes = d.sizes := sizes_of_only (ijtagData_only ..) rfl

@[simp] theorem siteRead_sizes (d : Dev) (n : Nat) (bs : List Byte) :
    (d.siteRead n bs).sizes = d.sizes := sizes_of_only (siteRead_only ..) rfl

@[simp] theorem ijtagAccess_sizes (a : IjtagOp) (d : Dev) : (ijtagAccess a d).sizes = d.sizes := by
  unfold ijtagAccess
  repeat' split
  all_goals simp

/-! ### Tick -/

@[simp] theorem tickTimers_sizes (d : Dev) : d.tickTimers.sizes = d.sizes := by
  simp [Dev.tickTimers, Dev.sizes]

@[simp] theorem startTests_sizes (d : Dev) : d.startTests.sizes = d.sizes := by
  simp [Dev.startTests]

@[simp] theorem tickSites_sizes (d : Dev) : d.tickSites.sizes = d.sizes := by
  simp [Dev.tickSites]

@[simp] theorem settleBits_sizes (d : Dev) : d.settleBits.sizes = d.sizes := by
  simp [Dev.settleBits, Dev.sizes]

/-- What a beat moves in the queues and in the ports. -/
theorem sizes_with_ports (d : Dev) {q : List Cq} {l : Lnk} {s : Stm} (hq : q.length = d.cqs.length)
    (hl : l.ports.length = d.lnk.ports.length) (hs : s.ports.length = d.stm.ports.length) :
    Dev.sizes { d with cqs := q, lnk := l, stm := s } = d.sizes := by
  simp only [Dev.sizes, hq, hl, hs]

@[simp] theorem tickBeat_sizes (d : Dev) : d.tickBeat.sizes = d.sizes := by
  unfold Dev.tickBeat
  dsimp only
  rw [settleOwned_sizes, gateHalted_sizes, startTests_sizes, serveRamps_sizes, settleDomains_sizes, releaseDomains_sizes,
    endDowns_sizes, sizes_ite, sizes_foldl settlePlan_sizes, ite_self, tickTimers_sizes, sizes_with_ports, modBt_sizes]
  all_goals simp

@[simp] theorem cycle_sizes (d : Dev) : d.cycle.sizes = d.sizes := by
  simp [Dev.cycle]

@[simp] theorem tick_sizes (d : Dev) : d.tick.sizes = d.sizes := by
  simp [Dev.tick]

/-! ### Resets -/

theorem afterReset_sized {d : Dev} (h : d.sized = true) (warm standbyLost : Bool) : (d.afterReset warm standbyLost).sized = true := by
  rw [sized_iff_sizes] at h ⊢
  simp only [Dev.sizes, bankSizes, List.cons.injEq, and_true] at h
  obtain ⟨hfwp, -, -, -, -, hstks, -, hsites, -, hengines, hslv, -, hdoms, -, hstates, -, -, htested⟩ := h
  have hchans : chansReset.length = 8 := rfl
  cases warm with
  | false =>
    simp only [Dev.sizes, bankSizes, Dev.afterReset, Pwr.afterReset, Health.afterCold, hchans, hstks, hsites, List.length_map,
      List.length_zipIdx, List.length_replicate, List.length_range, Bool.false_eq_true, if_false]
  | true =>
    simp only [Dev.sizes, bankSizes, Dev.afterReset, Pwr.afterReset, Pwr.domsAfterWarm, Health.afterWarm, hchans, hfwp, hstks, hsites,
      hengines, hslv, hdoms, hstates, htested, List.length_map, List.length_zipIdx, List.length_replicate, if_true]

theorem resetDevice_sized {d : Dev} (h : d.sized = true) (warm standbyLost : Bool) : (d.resetDevice warm standbyLost).sized = true :=
  sized_of_sizes (fenceByCrater_sizes _) (afterReset_sized h warm standbyLost)

theorem coldReset_sized (cause : ColdCause) {d : Dev} (h : d.sized = true) : (coldReset cause d).sized = true := by
  cases cause with
  | vaux s =>
    simp only [coldReset]
    split
    · exact h
    · have he := sized_of_sizes (takeStraps_sizes _ s) (resetDevice_sized h false true)
      exact sized_of_sizes (sizes_with_pwr _ _ _ rfl) he
  | control =>
    simp only [coldReset]
    split
    · exact h
    · have he := resetDevice_sized h false false
      exact sized_of_sizes ((driveBeat_sizes _).trans (sizes_with_pwr _ _ _ rfl)) he

theorem warmReset_sized (level : Bool) (straps : StrapSamples) (flash) {d : Dev} (h : d.sized = true) :
    (warmReset level straps flash d).sized = true := by
  unfold warmReset
  split
  · exact h
  · split
    · split
      · exact sized_of_sizes (sizes_with_pwr _ _ _ rfl) (resetDevice_sized h true false)
      · exact sized_of_sizes (sizes_with_pwr _ _ _ rfl) h
    · refine sized_of_sizes ?_ h
      simp only [sizes_ite, powerBoot_sizes, sizes_with_pwr, driveBeat_sizes, takeStraps_sizes, ite_self]

/-- The updates of a loss of power, whose channels may change with the standby part's fields. -/
theorem sizes_with_standby (d : Dev) (mgt trc) {v : List Chan} {p : Pwr} (hc : v.length = d.chans.length)
    (hp : p.doms.length = d.pwr.doms.length) : Dev.sizes { d with mgt, chans := v, trc, pwr := p } = d.sizes := by
  simp [Dev.sizes, hc, hp]

theorem powerLoss_sized {d : Dev} (h : d.sized = true) (code : Nat) : (d.powerLoss code).sized = true := by
  have he := resetDevice_sized (sized_of_sizes (latchPush_sizes d (d.mkRec 5 0 code 0)) h) false false
  exact sized_of_sizes (sizes_with_standby _ _ _ (List.length_set ..) rfl) he

theorem vinUndervoltage_sized {d : Dev} (h : d.sized = true) : (vinUndervoltage d).sized = true := by
  unfold vinUndervoltage
  split
  · exact h
  · refine sized_of_sizes (sizes_with_pwr _ _ _ rfl) ?_
    split
    · exact h
    · exact powerLoss_sized h _

theorem vinOvervoltage_sized {d : Dev} (h : d.sized = true) : (vinOvervoltage d).sized = true := by
  unfold vinOvervoltage
  split
  · exact h
  · exact sized_of_sizes (sizes_with_pwr _ _ _ rfl) (powerLoss_sized h _)

theorem powerDieFault_sized (die : Fin 4) {d : Dev} (h : d.sized = true) : (powerDieFault die d).sized = true := by
  unfold powerDieFault
  split
  · exact h
  · exact sized_of_sizes (sizes_with_pwr _ _ _ rfl) (powerLoss_sized h _)

theorem vauxLoss_sized {d : Dev} (h : d.sized = true) : (vauxLoss d).sized = true := by
  unfold vauxLoss
  split
  · exact h
  · exact sized_of_sizes (sizes_with_pwr _ _ _ rfl) (resetDevice_sized h false true)

theorem thermtrip_sized {d : Dev} (h : d.sized = true) : (thermtrip d).sized = true := by
  unfold thermtrip
  split
  · exact h
  · exact sized_of_sizes (sizes_with_pwr _ _ _ rfl) (powerLoss_sized h _)

theorem sensorSample_sized (s : Sample) {d : Dev} (h : d.sized = true) : (sensorSample s d).sized = true := by
  unfold sensorSample
  split
  · exact h
  · split
    · exact thermtrip_sized h
    · refine sized_of_sizes ?_ h
      simp only [sizes_ite, setPwrEvent_sizes, sizes_with_pwr, sizes_with, ite_self]

/-! ### Every command and every step -/

theorem sized_of_run {f : Dev → Dev} (hf : ∀ d, d.sized = true → (f d).sized = true) {s t : State} (hs : s.dev.sized = true)
    (h : run f s = .next t) : t.dev.sized = true := by
  cases h
  exact hf _ hs

/-- A command that resets the device or takes its power keeps the sizes only where every bank is whole; any other keeps them whatever
they are. -/
theorem exec_keeps_sized (c : Instr) {s t : State} (hs : s.dev.sized = true) (h : exec c s = .next t) : t.dev.sized = true := by
  cases c with
  | coldReset k => exact sized_of_run (fun _ => coldReset_sized k) hs h
  | warmReset l x => exact sized_of_run (fun _ => warmReset_sized l x.1 x.2) hs h
  | vinUndervoltage => exact sized_of_run (fun _ => vinUndervoltage_sized) hs h
  | vinOvervoltage => exact sized_of_run (fun _ => vinOvervoltage_sized) hs h
  | powerDieFault die => exact sized_of_run (fun _ => powerDieFault_sized die) hs h
  | vauxLoss => exact sized_of_run (fun _ => vauxLoss_sized) hs h
  | thermtrip => exact sized_of_run (fun _ => thermtrip_sized) hs h
  | sensorSample k => exact sized_of_run (fun _ => sensorSample_sized k) hs h
  | _ => exact sized_of_sizes (keeps_of_run (view := Dev.sizes) (fun _ => rfl) (fun d => by simp) s t h) hs

/-- Settles O59: an idle step is a tick, any other executes a command. -/
theorem everyStepKeepsTheBanksWhole : Obligations.EveryStepKeepsTheBanksWhole := by
  unfold Obligations.EveryStepKeepsTheBanksWhole
  intro s t hs h
  unfold step at h
  split at h
  next hp => exact sized_of_run (fun d => sized_of_sizes (tick_sizes d)) hs h
  next c rest hp => exact exec_keeps_sized c (s := { s with pending := rest }) hs h

end Sys2Proof.Machine
end

section
/-! SUPPORT. The state right after cold reset: in a bank of equal registers every entry is the default one. -/

namespace Sys2Proof.Machine

theorem reset_sized : State.reset.dev.sized = true := by
  have hchans : chansReset.length = 8 := rfl
  rw [sized_iff_sizes]
  simp only [Dev.sizes, bankSizes, State.reset, hchans, List.length_replicate]

theorem reset_chan (c : Fin 8) : let x := State.reset.dev.chan c.val
    x.winFree = true ∧ x.lastSeq = 0xFFFFFFFF ∧ x.outstanding = 0 ∧ x.err = {} ∧ x.session = none ∧
    x.msixVec = ([0, 0, 0, 0, 0, 5, 6, 0] : List (BitVec 8)).getD c.val 0 ∧ x.msixEn = decide (c.val ≠ 7) := by
  decide +revert

theorem reset_cq (c : Nat) : State.reset.dev.cq c = {} := List.getElem?_getD_replicate_default_eq _ _ _
theorem reset_site (n : Nat) : State.reset.dev.site n = {} := List.getElem?_getD_replicate_default_eq _ _ _
theorem reset_siteState (n : Nat) : State.reset.dev.siteState n = .held := List.getElem?_getD_replicate_default_eq _ _ _
theorem reset_stk (k : Nat) : State.reset.dev.stk k = {} := List.getElem?_getD_replicate_default_eq _ _ _
theorem reset_dsc (k : Nat) : State.reset.dev.dsc k = {} := List.getElem?_getD_replicate_default_eq _ _ _
theorem reset_port (p : Nat) : State.reset.dev.port p = {} := List.getElem?_getD_replicate_default_eq _ _ _
theorem reset_engine (e : Nat) : State.reset.dev.col.engines.getD e {} = {} := List.getElem?_getD_replicate_default_eq _ _ _
theorem reset_slv (e : Nat) : State.reset.dev.slv.getD e {} = {} := List.getElem?_getD_replicate_default_eq _ _ _
theorem reset_stmPort (q : Nat) : State.reset.dev.stmPort q = {} := List.getElem?_getD_replicate_default_eq _ _ _
theorem reset_dom (k : Nat) : State.reset.dev.dom k = .off := List.getElem?_getD_replicate_default_eq _ _ _

/-- Settles O57: each bank by the lemma above, each single register by its default. -/
theorem resetLeavesTheStatedValues : Obligations.ResetLeavesTheStatedValues := by
  unfold Obligations.ResetLeavesTheStatedValues
  refine ⟨rfl, ⟨reset_mem_wf, reset_sized⟩, rfl, rfl, ?_⟩
  simp only [reset_cq, reset_site, reset_siteState, reset_stk, reset_dsc, reset_port, reset_engine, reset_slv, reset_stmPort, reset_dom]
  refine ⟨?_, reset_chan, ?_⟩
  · simp only [State.reset, and_self]
  · simp only [State.reset, and_self, implies_true]
end Sys2Proof.Machine
end

section
/-! SUPPORT. Reads of several bytes at once: `memBytes` byte by byte. -/

namespace Sys2Proof.Machine

theorem cellAt_cons_ne {k a : Nat} {b : Byte} {r : List Host.Cell} (h : k < a) : cellAt ((k, b) :: r) a = cellAt r a := by
  rw [cellAt, if_neg (by omega), if_neg (by omega)]

/-- The cells below an address have no part in what stands from it on. -/
theorem cellAt_dropWhile (m : List Host.Cell) {a x : Nat} (h : a ≤ x) :
    cellAt (m.dropWhile (fun c => decide (c.1 < a))) x = cellAt m x := by
  induction m with
  | nil => rfl
  | cons c r ih =>
    by_cases hc : c.1 < a
    · rw [List.dropWhile_cons_of_pos (by simpa using hc), ih, cellAt_cons_ne (by omega)]
    · rw [List.dropWhile_cons_of_neg (by simpa using hc)]

theorem le_of_mem_dropWhile {m : List Host.Cell} (hm : m.Pairwise (fun a b => a.1 < b.1)) {a : Nat} {c : Host.Cell}
    (hc : c ∈ m.dropWhile (fun c => decide (c.1 < a))) : a ≤ c.1 := by
  induction m with
  | nil => cases hc
  | cons e r ih =>
    obtain ⟨he, hr⟩ := List.pairwise_cons.1 hm
    by_cases h : e.1 < a
    · rw [List.dropWhile_cons_of_pos (by simpa using h)] at hc
      exact ih hr hc
    · rw [List.dropWhile_cons_of_neg (by simpa using h)] at hc
      rcases List.mem_cons.1 hc with rfl | hc
      · omega
      · have := he c hc
        omega

theorem map_range_from_succ {α : Type} (f : Nat → α) (a n : Nat) :
    (List.range (n + 1)).map (fun i => f (a + i)) = f a :: (List.range n).map (fun i => f (a + 1 + i)) := by
  rw [List.range_succ_eq_map, List.map_cons, List.map_map]
  exact congrArg _ (List.map_congr_left fun i _ => congrArg f (by omega))

/-- What rising cells from `a` on name at each address is what each address holds. -/
theorem spanFrom_eq_map {l : List Host.Cell} (hl : l.Pairwise (fun a b => a.1 < b.1)) {a : Nat} (n : Nat) (ha : ∀ c ∈ l, a ≤ c.1) :
    spanFrom l a n = (List.range n).map (fun i => cellAt l (a + i)) := by
  induction n generalizing l a with
  | zero => cases l <;> rfl
  | succ n ih =>
    rw [map_range_from_succ]
    cases l with
    | nil => rw [spanFrom, ih List.Pairwise.nil (by simp)]; rfl
    | cons c r =>
      obtain ⟨hc, hr⟩ := List.pairwise_cons.1 hl
      have hac := ha c (List.mem_cons_self ..)
      by_cases h : c.1 = a
      · have tail : ∀ i, cellAt (c :: r) (a + 1 + i) = cellAt r (a + 1 + i) := fun i => cellAt_cons_ne (by omega)
        rw [spanFrom, if_pos h, ih hr (fun e he => by have := hc e he; omega), cellAt, if_pos h]
        simp only [tail]
      · rw [spanFrom, if_neg h, ih hl, cellAt, if_neg h, if_pos (by omega)]
        intro e he
        rcases List.mem_cons.1 he with rfl | he
        · omega
        · have := hc e he
          omega

theorem memBytes_eq_map {m : List Host.Cell} (hm : cellsWf m = true) (a n : Nat) :
    memBytes m a n = (List.range n).map (fun i => memByte m (a + i)) := by
  obtain ⟨hr, -⟩ := (cellsWf_iff_canon m).1 hm
  unfold memBytes cellSpan
  rw [spanFrom_eq_map (hr.sublist (List.dropWhile_sublist _)) n (fun c => le_of_mem_dropWhile hr), List.map_map]
  refine List.map_congr_left fun i _ => ?_
  rw [Function.comp_apply, cellAt_dropWhile m (by omega), memByte]

/-- A read of the bytes just written gives them. -/
theorem memBytes_memPutAll {m : List Host.Cell} (hm : cellsWf m = true) (a : Nat) (bs : List Byte) :
    memBytes (memPutAll m a bs) a bs.length = bs := by
  rw [memBytes_eq_map (memPutAll_keeps_wf a bs hm)]
  refine List.ext_getElem (by simp) fun i _ hi => ?_
  rw [List.getElem_map, List.getElem_range, memByte_memPutAll hm hi]

end Sys2Proof.Machine
end

section
/-! SUPPORT. Writes of registers: the words that a write touches, what becomes of a word of the control space, and what BAR0 and BAR2 read
as. -/

namespace Sys2Proof.Machine

/-! ### The words of a write (R458) -/

theorem wordParts_nil (fuel off : Nat) : wordParts fuel off [] = [] := by cases fuel <;> rfl

/-- A write that stays within one aligned word touches that word alone. -/
theorem wordParts_within {off : Nat} {data : List Byte} (h : 1 ≤ data.length) (hw : off % 8 + data.length ≤ 8) :
    wordParts data.length off data =
      [(off / 8 * 8, off % 8 == 0 && decide (8 ≤ data.length), BitVec.ofNat 64 (leNat (data.take 8)))] := by
  cases data with
  | nil => cases h
  | cons b bs =>
    have hdrop : (b :: bs).drop (8 - off % 8) = [] := List.drop_eq_nil_of_le (by omega)
    simp only [List.length_cons, wordParts, List.isEmpty_cons, Bool.false_eq_true, if_false, hdrop, wordParts_nil]

theorem wordParts_whole {off : Nat} {data : List Byte} (ho : off % 8 = 0) (h : data.length = 8) :
    wordParts data.length off data = [(off, true, BitVec.ofNat 64 (leNat data))] := by
  rw [wordParts_within (by omega) (by omega), List.take_of_length_le h.le]
  simp [ho, h, Nat.div_mul_cancel (Nat.dvd_of_mod_eq_zero ho)]

theorem wordParts_narrow {off : Nat} {data : List Byte} (h : 1 ≤ data.length) (hw : off % 8 + data.length ≤ 8) (hn : data.length < 8) :
    wordParts data.length off data = [(off / 8 * 8, false, BitVec.ofNat 64 (leNat (data.take 8)))] := by
  rw [wordParts_within h hw, decide_eq_false (by omega), Bool.and_false]

/-! ### A field of a written word -/

theorem ofNat_wf (v : BitVec 64) {hi lo w : Nat} (h : hi + 1 - lo = w) : BitVec.ofNat w (wf v hi lo) = v.extractLsb' lo w := by
  rw [wf, bitsOf, h, ← BitVec.toNat_ofNat, BitVec.ofNat_toNat, BitVec.setWidth_eq]
  rfl

/-! ### A word of the control space (R457 to R460) -/

section
variable {d : Dev} {path : RegPath} (hp : d.pathOpen path = true) (off : Nat) (whole : Bool) (v : BitVec 64)
include hp

theorem spaceWrite_unmapped {off : Nat} (hb : blockOf off = none) (hu : d.pwr.ctlUp = true) :
    d.spaceWrite path off whole v = d.setDevErr 0 := by
  simp [Dev.spaceWrite, hp, hb, hu]

theorem spaceWrite_unpowered {off : Nat} {b : Block} (hb : blockOf off = some b) (hd : d.blockUp b = false) (hu : d.pwr.ctlUp = true) :
    d.spaceWrite path off whole v = d.setDevErr 2 := by
  simp [Dev.spaceWrite, hp, hb, hd, hu]

theorem spaceWrite_narrow {off : Nat} {b : Block} (hb : blockOf off = some b) (hd : d.blockUp b = true) (hu : d.pwr.ctlUp = true) :
    d.spaceWrite path off false v = d.setDevErr 1 := by
  simp [Dev.spaceWrite, hp, hb, hd, hu]

theorem spaceWrite_whole {off : Nat} {b : Block} (hb : blockOf off = some b) (hd : d.blockUp b = true) :
    d.spaceWrite path off true v = d.writeReg path b (off % 0x1000) v := by
  simp [Dev.spaceWrite, hp, hb, hd]

end

theorem spaceWrite_closed {d : Dev} {path : RegPath} (hp : d.pathOpen path = false) (off : Nat) (whole : Bool) (v : BitVec 64) :
    d.spaceWrite path off whole v = d := by
  simp [Dev.spaceWrite, hp]

/-- An always-on block answers while the control part runs (R433, R459). -/
theorem blockUp_of_domain_none {d : Dev} {b : Block} (hm : b ≠ .mgt) (hb : b.domain = none) (hu : d.pwr.ctlUp = true) :
    d.blockUp b = true := by
  simp [Dev.blockUp, hm, hb, hu]

theorem blockOf_checkErr (n : Fin 80) : blockOf (0x100028 + 0x10000 * n.val) = some (.lbk n.val) := by
  obtain ⟨n, hn⟩ := n
  have hk : (0x100028 + 0x10000 * n) / 0x1000 = 0x100 + 16 * n := by omega
  have hlow : ∀ m ≤ 0x100, ¬ 0x100 + 16 * n < m := by omega
  have hhigh : 0x100 + 16 * n < 0x600 := by omega
  simp [blockOf, hk, hlow, hhigh]

/-! ### A write of the control space -/

section
variable (jtag : Bool) {off : BitVec 32} {data : List Byte} (d : Dev)

theorem registerWrite_space_whole (ho : off.toNat % 8 = 0) (hl : data.length = 8) :
    registerWrite (.space jtag off) data d =
      d.spaceWrite (if jtag then .jtag else .pf0) off.toNat true (BitVec.ofNat 64 (leNat data)) := by
  rw [registerWrite, wordParts_whole ho hl]
  rfl

theorem registerWrite_space_narrow (h : 1 ≤ data.length) (hw : off.toNat % 8 + data.length ≤ 8) (hn : data.length < 8) :
    registerWrite (.space jtag off) data d =
      d.spaceWrite (if jtag then .jtag else .pf0) (off.toNat / 8 * 8) false (BitVec.ofNat 64 (leNat (data.take 8))) := by
  rw [registerWrite, wordParts_narrow h hw hn]
  rfl

theorem registerWrite_space_closed (off : BitVec 32) (data : List Byte) (hp : d.pathOpen (if jtag then .jtag else .pf0) = false) :
    registerWrite (.space jtag off) data d = d := by
  rw [registerWrite]
  induction wordParts data.length off.toNat data with
  | nil => rfl
  | cons w ws ih => rw [List.foldl_cons, spaceWrite_closed hp, ih]

/-- A whole word at the offset of a register of a block that answers. -/
theorem registerWrite_reg {b : Block} {o : Nat} (hp : d.pathOpen (if jtag then .jtag else .pf0) = true) (ho : off.toNat = o)
    (h8 : o % 8 = 0) (hl : data.length = 8) (hb : blockOf o = some b) (hd : d.blockUp b = true) :
    registerWrite (.space jtag off) data d =
      d.writeReg (if jtag then .jtag else .pf0) b (o % 0x1000) (BitVec.ofNat 64 (leNat data)) := by
  subst ho
  rw [registerWrite_space_whole _ _ h8 hl, spaceWrite_whole hp _ hb hd]
end

/-! ### Mailbox pages, queue windows and MSI-X tables (R63, R125, R455) -/

theorem registerWrite_page_narrow {f : Fin 5} {ch : Fin 8} {off : Fin 0x4000} {data : List Byte} {d : Dev} (hc : d.canUse f.val ch.val = true)
    (ho : 0x2000 ≤ off.val) (hw : off.val % 8 + data.length < 8) (h : 1 ≤ data.length) :
    registerWrite (.page f ch off) data d = d.setDevErr 1 := by
  have hn : data.length < 8 := by omega
  have hlow : ¬ off.val < 0x1000 := by omega
  have hoff : ¬ off.val / 8 * 8 < 0x2000 := by omega
  simp only [registerWrite, if_neg hlow, wordParts_narrow h (Nat.le_of_lt hw) hn, List.foldl_cons, List.foldl_nil]
  simp [Dev.pageWrite, hc, hoff]

theorem registerWrite_queue_narrow {f : Fin 5} {q : Fin 72} {off : Fin 0x20000} {data : List Byte} {d : Dev} (hf : d.funcUp f.val = true)
    (hq : (d.queueOf f.val q.val).isSome = true) (h1 : 0x11000 ≤ off.val) (h2 : off.val < 0x11080)
    (hw : off.val % 8 + data.length < 8) (h : 1 ≤ data.length) :
    registerWrite (.queue f q off) data d = d.setDevErr 1 := by
  have hn : data.length < 8 := by omega
  have hlow : ¬ off.val / 8 * 8 < 0x11000 := by omega
  have hhigh : ¬ 0x11080 ≤ off.val / 8 * 8 := by omega
  have hsome : d.queueOf f.val q.val ≠ none := Option.isSome_iff_ne_none.1 hq
  simp only [registerWrite, wordParts_narrow h (Nat.le_of_lt hw) hn, List.foldl_cons, List.foldl_nil]
  simp [Dev.queueWrite, hf, hlow, hhigh, hsome]

/-- Held messages are sent, none is lost and none is added. -/
theorem releaseMsix_msix_length (d : Dev) (func : Nat) : (d.releaseMsix func).msix.length = d.msix.length := by
  simp only [Dev.releaseMsix, List.length_append, List.length_map]
  exact (Nat.add_comm ..).trans (List.length_eq_length_filter_add _).symm

theorem registerWrite_msixTable {f : Fin 5} {off : Fin 4096} {data : List Byte} {d : Dev} (hf : d.funcUp f.val = true)
    (hl : off.val + data.length ≤ 4096) :
    registerWrite (.msixTable f off) data d =
      Dev.releaseMsix { d with msixTab := d.msixTab.modify f.val (fun m => memPutAll m off.val data) } f.val := by
  simp only [registerWrite, hf, if_true, List.take_of_length_le (show data.length ≤ 4096 - off.val by omega)]

/-- A table with nothing written yet reads the bytes of its first write. -/
theorem msixTab_reads_written {l : List (List Host.Cell)} {f : Nat} (h : f < l.length) (he : l.getD f [] = []) (off : Nat) (data : List Byte) :
    memBytes ((l.modify f (fun m => memPutAll m off data)).getD f []) off data.length = data := by
  have hnew : (l.modify f (fun m => memPutAll m off data)).getD f [] = memPutAll [] off data := by
    simp only [List.getD_eq_getElem?_getD, List.getElem?_eq_getElem h, Option.getD_some] at he
    simp [h, he]
  rw [hnew, memBytes_memPutAll rfl]

/-! ### What BAR0 and BAR2 read as -/

section
variable (d : Dev) {func off : Nat}

theorem bar0Read_of_down (off : Nat) (h : d.funcUp func = false) : d.bar0Read func off = 0 := by
  simp [Dev.bar0Read, h]

/-- The request window of a page reads 0. -/
theorem pageRead_requestWindow (c : Nat) {o : Nat} (h : o < 0x1000) : d.pageRead c o = 0 := by
  rw [Dev.pageRead, if_neg (by simp; omega), if_neg (by simp; omega)]

/-- Channel 7 has no response window in its page. -/
theorem pageRead_window7 {o : Nat} (h : o < 0x2000) : d.pageRead 7 o = 0 := by
  unfold Dev.pageRead
  split
  · rfl
  · rw [if_neg (by simp; omega)]

theorem bar0Read_pf_page (h : off < 0x20000) (hu : d.funcUp 0 = true) : d.bar0Read 0 off =
    if off / 0x4000 = 0 ∨ off / 0x4000 = 5 ∨ off / 0x4000 = 6 ∨ off / 0x4000 = 7 then d.pageRead (off / 0x4000) (off % 0x4000) else 0 := by
  have ht : ¬ 0x20000 ≤ off := by omega
  have hp : ¬ 0x30000 ≤ off := by omega
  simp [Dev.bar0Read, hu, ht, hp, or_assoc]

theorem bar0Read_pf_zero (h : off < 0x20000)
    (hz : off % 0x4000 < 0x1000 ∨ (0x4000 ≤ off ∧ off < 0x14000) ∨ (0x1C000 ≤ off ∧ off < 0x1E000)) : d.bar0Read 0 off = 0 := by
  cases hu : d.funcUp 0 with
  | false => exact bar0Read_of_down d off hu
  | true =>
    rw [bar0Read_pf_page d h hu]
    rcases hz with hw | hc | h7
    · rw [pageRead_requestWindow d _ hw, ite_self]
    · rw [if_neg (by omega)]
    · have hc : off / 0x4000 = 7 := by omega
      rw [hc, pageRead_window7 d (by omega), ite_self]

theorem bar0Read_vf_zero (hf : 0 < func) (hz : off < 0x1000 ∨ (0x4000 ≤ off ∧ off < 0x8000) ∨ (0x9000 ≤ off ∧ off < 0xC000)) :
    d.bar0Read func off = 0 := by
  have ht : ¬ (0x8000 ≤ off ∧ off < 0x9000) := by omega
  have hp : ¬ (0xC000 ≤ off ∧ off < 0xC020) := by omega
  have hw : off < 0x4000 → d.pageRead func off = 0 := fun h => pageRead_requestWindow d func (by omega)
  simp only [Dev.bar0Read]
  simpa [hf.ne', ht, hp] using fun _ => hw

theorem bar0Read_msixTable (hu : d.funcUp func = true) (h : off < 0x1000) :
    d.bar0Read func ((if func = 0 then 0x20000 else 0x8000) + off) = d.msixTable func off := by
  simp [Dev.bar0Read, hu, h]

theorem bar2Read_zero (h : d.queueOf func (off / 0x20000) = none ∨ off % 0x20000 < 0x10000 ∨ 0x11080 ≤ off % 0x20000) :
    d.bar2Read func off = 0 := by
  unfold Dev.bar2Read
  split
  · rfl
  next c hq =>
    have ho : off % 0x20000 < 0x10000 ∨ 0x11080 ≤ off % 0x20000 := h.resolve_left (by simp [hq])
    split
    · rfl
    · rw [if_neg (by simp; omega), if_neg (by simp; omega)]

theorem bar2Read_reg {c : Nat} (hq : d.queueOf func (off / 0x20000) = some c) (hu : d.funcUp func = true) (h1 : 0x11000 ≤ off % 0x20000)
    (h2 : off % 0x20000 < 0x11080) : d.bar2Read func off = d.readCq c (off % 0x20000 - 0x11000) := by
  have hr : ¬ off % 0x20000 < 0x11000 := by omega
  simp [Dev.bar2Read, hq, hu, h1, h2, hr]
end

/-! ### The obligation -/

theorem completes_registerWrite {t : RegTarget} {data : List Byte} {s : State} {P : Dev → Prop} (h : P (registerWrite t data s.dev)) :
    Completes (.registerWrite t data) s P := completes_of_run rfl h

/-- Settles O55: a write is cut into words, each of which follows the rule for its block, page or window. -/
theorem registerWritesFollowTheirCodes : Obligations.RegisterWritesFollowTheirCodes := by
  unfold Obligations.RegisterWritesFollowTheirCodes
  refine ⟨?devErr, ?readOnly, ?streamIds, ?checkErr, ?narrow, ?unmapped, ?unpowered, ?closed, ?vfEnable, ?msixTable, ?page, ?queue, ?sticky,
    fun d func off => bar0Read_of_down d off, fun d off => bar0Read_pf_zero d, fun d func off => bar0Read_vf_zero d,
    fun d func off => bar0Read_msixTable d, fun d func off => bar2Read_zero d, fun d func off c => bar2Read_reg d⟩
  case devErr =>
    intro s jtag off data hp ho hl hu
    exact completes_registerWrite (registerWrite_reg jtag s.dev hp ho rfl hl rfl (blockUp_of_domain_none (by decide) rfl hu))
  case readOnly =>
    intro s jtag off data hp ho hl hu
    exact completes_registerWrite (registerWrite_reg jtag s.dev hp ho rfl hl rfl (blockUp_of_domain_none (by decide) rfl hu))
  case streamIds =>
    intro s jtag off data hp ho hl hu
    apply completes_registerWrite
    rw [registerWrite_reg jtag s.dev hp ho rfl hl rfl (blockUp_of_domain_none (by decide) rfl hu)]
    exact ⟨ofNat_wf _ rfl, ofNat_wf _ rfl, rfl⟩
  case checkErr =>
    intro s jtag off data n hp ho hl hb
    apply completes_registerWrite
    rw [registerWrite_reg jtag s.dev hp ho (by omega) hl (blockOf_checkErr n) hb, show (0x100028 + 0x10000 * n.val) % 0x1000 = 0x28 by omega]
    rfl
  case narrow =>
    intro s jtag off data b hp h1 hw hn hb hd hu
    exact completes_registerWrite ((registerWrite_space_narrow jtag s.dev h1 hw hn).trans (spaceWrite_narrow hp _ hb hd hu))
  case unmapped =>
    intro s jtag off data hp ho hl hb hu
    exact completes_registerWrite ((registerWrite_space_whole jtag s.dev ho hl).trans (spaceWrite_unmapped hp _ _ hb hu))
  case unpowered =>
    intro s jtag off data b hp ho hl hb hd hu
    exact completes_registerWrite ((registerWrite_space_whole jtag s.dev ho hl).trans (spaceWrite_unpowered hp _ _ hb hd hu))
  case closed =>
    intro s jtag off data hp
    exact completes_registerWrite (registerWrite_space_closed jtag s.dev off data hp)
  case vfEnable =>
    intro s data hp
    exact completes_registerWrite (if_pos hp)
  case msixTable =>
    intro s f off data hf hl he hlen
    apply completes_registerWrite
    rw [registerWrite_msixTable hf hl]
    exact ⟨msixTab_reads_written hlen he off.val data, rfl, releaseMsix_msix_length ..⟩
  case page =>
    intro s f ch off data hc ho hw h1
    exact completes_registerWrite (registerWrite_page_narrow hc ho hw h1)
  case queue =>
    intro s f q off data hf hq h1 h2 hw hl
    exact completes_registerWrite (registerWrite_queue_narrow hf hq h1 h2 hw hl)
  case sticky =>
    exact fun w x m => ⟨rfl, rfl, sticky_raise_clear x m m, sticky_settle_clear x m⟩

end Sys2Proof.Machine
end

section
/-! SUPPORT. What the operations of other units leave of the timebase, and the effect of the timebase's own shared operations. -/

namespace Sys2Proof.Machine

/-! ### Parts that an operation leaves as they were -/

@[simp] theorem writeRecord_bt (d : Dev) (r : Rec) : (d.writeRecord r).bt = d.bt := (writeRecord_only d r).same .bt rfl
@[simp] theorem writeRecord_pwr (d : Dev) (r : Rec) : (d.writeRecord r).pwr = d.pwr := (writeRecord_only d r).same .pwr rfl
@[simp] theorem writeRecord_lnk (d : Dev) (r : Rec) : (d.writeRecord r).lnk = d.lnk := (writeRecord_only d r).same .lnk rfl
@[simp] theorem writeRecord_plans (d : Dev) (r : Rec) : (d.writeRecord r).plans = d.plans := (writeRecord_only d r).same .plans rfl
@[simp] theorem stopPlans_bt (d : Dev) (cause : BitVec 16) : (d.stopPlans cause).bt = d.bt := (stopPlans_only d cause).same .bt rfl
@[simp] theorem powerBoot_bt (d : Dev) : d.powerBoot.bt = d.bt := (powerBoot_only d).same .bt rfl
@[simp] theorem settlePosts_bt (d : Dev) : d.settlePosts.bt = d.bt := (settlePosts_only d).same .bt rfl
@[simp] theorem settlePosts_pwr (d : Dev) : d.settlePosts.pwr = d.pwr := (settlePosts_only d).same .pwr rfl
@[simp] theorem tickSites_bt (d : Dev) : d.tickSites.bt = d.bt := (tickSites_only d).same .bt rfl
@[simp] theorem readErrors_bt (d : Dev) : d.readErrors.bt = d.bt := (readErrors_only d).same .bt rfl
@[simp] theorem tickTimers_bt (d : Dev) : d.tickTimers.bt = d.bt := (tickTimers_only d).same .bt rfl
@[simp] theorem serveRamps_bt (n : Nat) (d : Dev) : (Dev.serveRamps n d).bt = d.bt := (serveRamps_only n d).same .bt rfl
@[simp] theorem endDowns_bt (d : Dev) : d.endDowns.bt = d.bt := (endDowns_only d).same .bt rfl
@[simp] theorem releaseDomains_bt (d : Dev) : d.releaseDomains.bt = d.bt := (releaseDomains_only d).same .bt rfl
@[simp] theorem settleDomains_bt (d : Dev) : d.settleDomains.bt = d.bt := (settleDomains_only d).same .bt rfl
@[simp] theorem startTests_bt (d : Dev) : d.startTests.bt = d.bt := (startTests_only d).same .bt rfl
@[simp] theorem gateHalted_bt (d : Dev) : d.gateHalted.bt = d.bt := (gateHalted_only d).same .bt rfl
@[simp] theorem settleOwned_bt (d : Dev) : d.settleOwned.bt = d.bt := (settleOwned_only d).same .bt rfl
@[simp] theorem sendMarkers_bt (d : Dev) (ports : List Nat) (m : Marker) : (d.sendMarkers ports m).bt = d.bt :=
  (sendMarkers_only d ports m).same .bt rfl
@[simp] theorem sendClaim_bt (d : Dev) (ports : List Nat) (c : Claim) : (d.sendClaim ports c).bt = d.bt :=
  (sendClaim_only d ports c).same .bt rfl
@[simp] theorem chooseSrc_pwr (d : Dev) : d.chooseSrc.pwr = d.pwr := (chooseSrc_only d).same .pwr rfl
@[simp] theorem chooseSrc_lnk (d : Dev) : d.chooseSrc.lnk = d.lnk := (chooseSrc_only d).same .lnk rfl
@[simp] theorem adopt_lnk (d : Dev) : d.adopt.lnk = d.lnk := (adopt_only d).same .lnk rfl
@[simp] theorem regained_lnk (d : Dev) (off : Int) : (d.regained off).lnk = d.lnk := (regained_only d off).same .lnk rfl
@[simp] theorem settlePlans_bt (l : List (BitVec 16)) (d : Dev) : (l.foldl Dev.settlePlan d).bt = d.bt :=
  (Only.foldl settlePlan_only l (Only.refl _ d)).same .bt rfl

/-! ### Events and the source of the beat -/

@[simp] theorem setBtEvent_bt (d : Dev) (i : Nat) :
    (d.setBtEvent i).bt = { d.bt with events := d.bt.events.raise (BitVec.ofNat 6 (2 ^ i)) } := rfl

/-- An event raised shows in its register. -/
theorem getLsbD_raise {w : Nat} (s : Sticky w) (i : Nat) (h : i < w) : (s.raise (BitVec.ofNat w (2 ^ i))).val.getLsbD i = true := by
  rw [sticky_raise_val, BitVec.getLsbD_or, BitVec.getLsbD_ofNat, Nat.testBit_two_pow_self]
  simp [h]

/-- ACTIVE_SRC is the source of the role, and SRC_CHANGE is set where that is another one (R35). -/
@[simp] theorem chooseSrc_bt (d : Dev) : d.chooseSrc.bt =
    { d.bt with
      activeSrc := d.bt.source
      events := if d.bt.source = d.bt.activeSrc then d.bt.events else d.bt.events.raise (BitVec.ofNat 6 (2 ^ 2)) } := by
  simp only [Dev.chooseSrc]
  split
  next h => rw [h]
  next => rfl

end Sys2Proof.Machine
end

section
/-! SUPPORT. The clock: what a cycle makes of the beat counter, and what TS64 shows (R41, R43). -/

namespace Sys2Proof.Machine

/-! ### TS64 -/

/-- The last cycle of a beat shows the fraction 4,068. -/
theorem fracOf_le {c : Nat} (h : c < 150) : fracOf c ≤ 4068 := by
  unfold fracOf
  omega

theorem fracOf_step (c : Nat) : fracOf (c + 1) - fracOf c = 27 ∨ fracOf (c + 1) - fracOf c = 28 := by
  unfold fracOf
  omega

theorem tsOf_toNat (b : BitVec 52) {c : Nat} (h : c < 150) : (tsOf b c).toNat = b.toNat * 4096 + fracOf c := by
  have := fracOf_le h
  rw [tsOf, BitVec.toNat_ofNat, Nat.mod_eq_of_lt (by omega)]

/-- Bits 63:12 of a TS64 are the beat. -/
theorem tsOf_beat (b : BitVec 52) {c : Nat} (h : c < 150) : (tsOf b c).extractLsb' 12 52 = b := by
  have := fracOf_le h
  apply BitVec.eq_of_toNat_eq
  rw [BitVec.extractLsb'_toNat, tsOf_toNat b h, Nat.shiftRight_eq_div_pow]
  omega

/-- Bits 11:0 of a TS64 are the fraction. -/
theorem tsOf_frac (b : BitVec 52) {c : Nat} (h : c < 150) : ((tsOf b c).extractLsb' 0 12).toNat = fracOf c := by
  have := fracOf_le h
  rw [BitVec.extractLsb'_toNat, tsOf_toNat b h, Nat.shiftRight_zero]
  omega

/-! ### A cycle -/

/-- What a beat's end makes of the timebase: holdover counts on, and the phase error is slewed (R39, R45, R49). -/
@[simp] theorem tickBeat_bt (d : Dev) : d.tickBeat.bt =
    ({ d.bt with holdoverBeats := if d.bt.holdover then satInc d.bt.holdoverBeats else d.bt.holdoverBeats }).slew := by
  simp only [Dev.tickBeat, settleOwned_bt, gateHalted_bt, startTests_bt, serveRamps_bt, settleDomains_bt, releaseDomains_bt, endDowns_bt]
  split <;> simp only [settlePlans_bt, tickTimers_bt, modBt_bt]

section
variable {d : Dev}

/-- No clock runs while the control part is down or the PLL is not locked. -/
theorem cycle_of_stopped (h : d.pwr.ctlUp = false ∨ d.bt.locked = false) : d.cycle = d := by
  have hc : (!d.pwr.ctlUp || !d.bt.locked) = true := by simpa using h
  rw [Dev.cycle, if_pos hc]

variable (hu : d.pwr.ctlUp = true) (hl : d.bt.locked = true)
include hu hl

theorem cycle_bt_within (hc : d.bt.cyc.val ≠ 149) : d.cycle.bt = { d.bt with cyc := d.bt.cyc + 1 } := by
  simp [Dev.cycle, hu, hl, hc]

theorem cycle_bt_last (hc : d.bt.cyc.val = 149) : d.cycle.bt =
    ({ d.bt with
      cyc := 0, beat := d.bt.beat + 1
      holdoverBeats := if d.bt.holdover then satInc d.bt.holdoverBeats else d.bt.holdoverBeats }).slew := by
  simp [Dev.cycle, hu, hl, hc]
end

/-- The end of a cycle settles the events of the timebase and leaves the rest of it. -/
@[simp] theorem settleBits_bt (d : Dev) : d.settleBits.bt = { d.bt with events := d.bt.events.settle } := rfl

theorem step_idle {s : State} (h : s.pending = []) : step s = .next { s with dev := s.dev.tick } := by
  simp [step, h]

section
variable {d : Dev} (hu : d.pwr.ctlUp = true) (hl : d.bt.locked = true)
include hu hl

/-- Within a beat an idle step counts the cycle. -/
theorem tick_within (hc : d.bt.cyc.val ≠ 149) : d.tick.bt.cyc.val = d.bt.cyc.val + 1 ∧ d.tick.bt.beat = d.bt.beat := by
  rw [Dev.tick, settleBits_bt, cycle_bt_within (by simpa using hu) (by simpa using hl) (by simpa using hc), settlePosts_bt]
  refine ⟨?_, rfl⟩
  have := d.bt.cyc.isLt
  simp only [Fin.val_add, Fin.val_one]
  omega

/-- After its last cycle an idle step begins the next beat. -/
theorem tick_last (hc : d.bt.cyc.val = 149) : d.tick.bt.cyc.val = 0 ∧ d.tick.bt.beat = d.bt.beat + 1 := by
  rw [Dev.tick, settleBits_bt, cycle_bt_last (by simpa using hu) (by simpa using hl) (by simpa using hc), settlePosts_bt]
  exact ⟨rfl, rfl⟩
end

theorem tick_of_stopped {d : Dev} (h : d.pwr.ctlUp = false ∨ d.bt.locked = false) : d.tick = d.settlePosts.settleBits := by
  rw [Dev.tick, cycle_of_stopped (by simpa using h)]

/-- Settles O2: an idle step is a tick, whose cycle alone moves the counter, and a TS64 holds beat and fraction apart. -/
theorem idleStepsCountTheClockThatStampsShow : Obligations.IdleStepsCountTheClockThatStampsShow := by
  unfold Obligations.IdleStepsCountTheClockThatStampsShow
  refine ⟨?settles, ?within, ?last, ?stopped, ?shows, fun c => fracOf_le c.isLt, fun c => fracOf_step c.val, by decide⟩
  case settles =>
    exact fun s h => ⟨_, step_idle h, h, rfl, rfl⟩
  case within =>
    exact fun s h hu hl hc => ⟨_, step_idle h, tick_within hu hl hc⟩
  case last =>
    exact fun s h hu hl hc => ⟨_, step_idle h, tick_last hu hl hc⟩
  case stopped =>
    intro s h hs
    rw [step_idle h, tick_of_stopped hs]
  case shows =>
    exact fun d => ⟨tsOf_beat _ d.bt.cyc.isLt, tsOf_frac _ d.bt.cyc.isLt⟩

end Sys2Proof.Machine
end

section
/-! SUPPORT. The beat input and the first lock (R36, R37, R41, R42). -/

namespace Sys2Proof.Machine

@[simp] theorem powerUp_phase (d : Dev) (k cause : Nat) : (d.powerUp k cause).pwr.phase = d.pwr.phase := by
  unfold Dev.powerUp
  split <;> rfl

theorem powerUps_phase (cause : Nat) (l : List Nat) (d : Dev) :
    (l.foldl (fun (d : Dev) k => d.powerUp k cause) d).pwr.phase = d.pwr.phase := by
  induction l generalizing d with
  | nil => rfl
  | cons k l ih => rw [List.foldl_cons, ih, powerUp_phase]

/-- The boot's requests for power leave the phase to its own steps. -/
@[simp] theorem powerBoot_phase (d : Dev) : d.powerBoot.pwr.phase = d.pwr.phase := powerUps_phase causeOther _ d

section
variable {d : Dev}

/-- BEAT_IN with 256 good periods drives BEAT_OUT. -/
theorem beatInQualify_bt (hu : d.pwr.ctlUp = true) (hr : d.pwr.sysRst = false) (he : d.bt.beatInEn = true) (hq : d.bt.beatInQualified = false) :
    (beatInQualify d).bt.beatInQualified = true ∧ (beatInQualify d).bt.beatOut = .repeatIn := by
  simp [beatInQualify, hu, hr, he, hq]

theorem unqualify_bt (hq : d.bt.beatInQualified = true) : d.unqualify.bt.beatInQualified = false ∧ d.unqualify.bt.beatOut = .own := by
  simp [Dev.unqualify, hq]

/-- The first lock after a reset starts the counter and takes the boot on. -/
theorem pllLock_of_reset (hu : d.pwr.ctlUp = true) (hr : d.pwr.sysRst = false) (hl : d.bt.locked = false) (hp : d.pwr.phase = .reset) :
    (pllLock d).pwr.phase = .auth ∧
    (pllLock d).bt = { d.bt with
      locked := true, everLocked := true, beat := 0, cyc := 0
      beatOut := if d.bt.beatInQualified then .repeatIn else .own } := by
  simp [pllLock, hu, hr, hl, hp]
end

/-- Settles O3: each command by what it makes of the timebase. -/
theorem beatInputAndLockComplete : Obligations.BeatInputAndLockComplete := by
  unfold Obligations.BeatInputAndLockComplete
  refine ⟨?qualify, ?disqualify, ?lock⟩
  case qualify =>
    exact fun s hu hr he hq => completes_of_run rfl (beatInQualify_bt hu hr he hq)
  case disqualify =>
    exact fun s hq => completes_of_run rfl (unqualify_bt hq)
  case lock =>
    intro s hu hr hl hp
    obtain ⟨hphase, hbt⟩ := pllLock_of_reset hu hr hl hp
    apply completes_of_run rfl
    rw [hbt]
    exact ⟨rfl, rfl, rfl, rfl, rfl, hphase⟩

end Sys2Proof.Machine
end

section
/-! SUPPORT. Markers: what a port holds after they are sent, the upstream port, and what a marker taken makes of the timebase (R38, R39, R49). -/

namespace Sys2Proof.Machine

/-! ### Markers on the ports -/

/-- A port that is up is one of the device's ports. -/
theorem port_up_lt {d : Dev} {p : Nat} (h : (d.port p).state = .up) : p < d.lnk.ports.length := by
  by_contra hp
  simp [Dev.port, List.getD, Nat.le_of_not_lt hp] at h

theorem mem_otherUp {d : Dev} {p : Nat} {q? : Option Nat} :
    p ∈ d.otherUp q? ↔ p < 24 ∧ (d.port p).state = .up ∧ q? ≠ some p := by
  simp [Dev.otherUp]

/-- What waits in the marker class of a port. -/
def Dev.markBody (d : Dev) (p : Nat) : Option Body := (d.port p).markTx.map (·.body)

/-- A marker put on a port waits there, whatever waited before. -/
theorem markBody_modPort_enqueue (d : Dev) {p : Nat} (hp : p < d.lnk.ports.length) (f : Port → Flit) (h3 : ∀ q, (f q).type = 3) :
    (d.modPort p (fun q => q.enqueue (f q))).markBody p = some (f (d.port p)).body := by
  simp [Dev.markBody, port_modPort_same d _ hp, Port.enqueue, h3]

section
variable (m : Marker) {p : Nat}

theorem markBody_sendMarkers_of_sent (ports : List Nat) {d : Dev} (hp : p < d.lnk.ports.length) (h : d.markBody p = some (.marker m)) :
    (d.sendMarkers ports m).markBody p = some (.marker m) := by
  induction ports generalizing d with
  | nil => exact h
  | cons n ports ih =>
    refine ih (d := d.modPort n _) (by simpa using hp) ?_
    by_cases hn : n = p
    · subst hn
      rw [markBody_modPort_enqueue d hp _ (fun _ => rfl)]
    · rw [Dev.markBody, port_modPort_other d _ hn]
      exact h

/-- The marker waits on every port that it is sent on. -/
theorem markBody_sendMarkers {ports : List Nat} {d : Dev} (hp : p < d.lnk.ports.length) (h : p ∈ ports) :
    (d.sendMarkers ports m).markBody p = some (.marker m) := by
  induction ports generalizing d with
  | nil => cases h
  | cons n ports ih =>
    by_cases hn : n = p
    · subst hn
      refine markBody_sendMarkers_of_sent (d := d.modPort n _) m ports (by simpa using hp) ?_
      rw [markBody_modPort_enqueue d hp _ (fun _ => rfl)]
    · exact ih (d := d.modPort n _) (by simpa using hp) ((List.mem_cons.1 h).resolve_left (Ne.symm hn))

/-- A marker sent on the ports that are up, but for one, waits on each of them. -/
theorem markBody_sendMarkers_otherUp {d e : Dev} {q? : Option Nat} (he : e.lnk = d.lnk) (p24 : p < 24) (hup : (d.port p).state = .up) (hq : q? ≠ some p) :
    (e.sendMarkers (e.otherUp q?) m).markBody p = some (.marker m) := by
  have hup' : (e.port p).state = .up := by rw [Dev.port, he]; exact hup
  exact markBody_sendMarkers m (port_up_lt hup') (mem_otherUp.2 ⟨p24, hup', hq⟩)
end

/-- What waits on the ports depends on the links alone. -/
theorem markBody_congr {d e : Dev} (h : e.lnk = d.lnk) (p : Nat) : e.markBody p = d.markBody p := by
  rw [Dev.markBody, Dev.port, h]; rfl

/-! ### The upstream port -/

/-- A fold that only one element moves, and that keeps what it has moved to, ends there. -/
theorem foldl_sole {α : Type} {f : Option α → Nat → Option α} {p : Nat} {a : α} (hnew : f none p = some a) (hkeep : f (some a) p = some a)
    (hother : ∀ acc q, q ≠ p → f acc q = acc) {l : List Nat} (h : p ∈ l) : l.foldl f none = some a := by
  have hstays : ∀ l : List Nat, l.foldl f (some a) = some a := by
    intro l
    induction l with
    | nil => rfl
    | cons q l ih =>
      by_cases hq : q = p
      · rw [List.foldl_cons, hq, hkeep, ih]
      · rw [List.foldl_cons, hother _ q hq, ih]
  induction l with
  | nil => cases h
  | cons q l ih =>
    by_cases hq : q = p
    · rw [List.foldl_cons, hq, hnew, hstays]
    · rw [List.foldl_cons, hother _ q hq, ih ((List.mem_cons.1 h).resolve_left (Ne.symm hq))]

/-- The only port that has heard a marker, being up, is the upstream port. -/
theorem bestPort_of_sole {d : Dev} {p : Nat} {h : BitVec 8} (p24 : p < 24) (hup : (d.port p).state = .up)
    (hhop : d.bt.portHop = (List.replicate 24 none).set p (some h)) : d.bestPort = some p := by
  have hself : d.bt.portHop.getD p none = some h := by simp [hhop, List.getD, p24]
  have hothers : ∀ q, q ≠ p → d.bt.portHop.getD q none = none := by
    intro q hq
    rw [hhop, List.getD_eq_getElem?_getD, List.getElem?_set_ne hq.symm]
    exact List.getElem?_getD_replicate_default_eq _ _ _
  refine congrArg (Option.map (·.1)) (foldl_sole (p := p) (a := (p, h.toNat)) ?_ ?_ ?_ (List.mem_range.2 p24))
  · dsimp only
    rw [hself]
    simp [hup]
  · dsimp only
    rw [hself]
    simp [hup]
  · intro acc q hq
    rw [hothers q hq]

/-! ### A marker heard -/

/-- The end of the boot's election leaves the timebase. -/
theorem readyAtElect_bt (d : Dev) :
    (if d.pwr.phase == .elect then { d with pwr := { d.pwr with phase := .ready, ready := true } } else d).bt = d.bt := by
  split <;> rfl

section
variable (d : Dev)

theorem adopt_of_settled (h : d.bt.settled = true) : d.adopt = d := by simp [Dev.adopt, h]

/-- Adopting a master changes the election alone. -/
theorem adopt_bt : d.adopt.bt =
    { d.bt with
      elect := d.adopt.bt.elect, settled := d.adopt.bt.settled, everSettled := d.adopt.bt.everSettled, claims := d.adopt.bt.claims
      masterKey := d.adopt.bt.masterKey, events := d.adopt.bt.events } := by
  simp only [Dev.adopt]
  split
  · rfl
  · simp only [readyAtElect_bt]
    split <;> rfl

@[simp] theorem adopt_now : d.adopt.now = d.now := by rw [Dev.now, adopt_bt]; rfl
@[simp] theorem adopt_markerIn : d.adopt.bt.markerIn = d.bt.markerIn := by rw [adopt_bt]
@[simp] theorem adopt_portHop : d.adopt.bt.portHop = d.bt.portHop := by rw [adopt_bt]
@[simp] theorem adopt_countValid : d.adopt.bt.countValid = d.bt.countValid := by rw [adopt_bt]

theorem follows_of_settled {b : Bt} (hs : b.settled = true) (he : b.elect = if b.conflict then .conflict else .follower) : b.follows = true := by
  cases hc : b.conflict <;> simp [Bt.follows, hs, he, hc]

/-- A follower follows the master that it adopts, in CONFLICT too (R53, R54). -/
theorem adopt_follows (h : d.bt.elect = .follower) : d.adopt.bt.follows = true := by
  simp only [Dev.adopt]
  split
  · simp [Bt.follows, h]
  · simp only [readyAtElect_bt]
    exact follows_of_settled rfl rfl

/-- What the return of markers after a holdover makes of the timebase: slewed out or, above 16 beats, a step that waits (R49). -/
theorem regained_bt (off : Int) : (d.regained off).bt =
    { d.bt with
      holdover := false, slewing := !decide (16 * 4096 < off.natAbs)
      slewRest := if 16 * 4096 < off.natAbs then 0 else slewOf off
      stepBy := if 16 * 4096 < off.natAbs then some (BitVec.ofInt 64 off) else none
      events := d.bt.events.raise (BitVec.ofNat 6 (2 ^ 1)) } := by
  simp only [Dev.regained]
  split <;> simp [*]

/-- A device that has taken a marker out of a port's buffer and noted its hop count and time (R38, R45). -/
def Dev.hear (p : Nat) (m : Marker) : Dev :=
  (d.modBt (fun b => { b with markerIn := b.markerIn.set p none })).adopt.modBt
    (fun b => { b with portHop := b.portHop.set p (some m.hop), lastMarkTs := m.ts, lastMarkBeat := b.beat })

@[simp] theorem hear_lnk (p : Nat) (m : Marker) : (d.hear p m).lnk = d.lnk := by simp [Dev.hear]
@[simp] theorem hear_port (p : Nat) (m : Marker) (q : Nat) : (d.hear p m).port q = d.port q := by simp [Dev.port]
@[simp] theorem hear_now (p : Nat) (m : Marker) : (d.hear p m).now = d.now :=
  adopt_now (d.modBt (fun b => { b with markerIn := b.markerIn.set p none }))
theorem hear_markerIn (p : Nat) (m : Marker) : (d.hear p m).bt.markerIn = d.bt.markerIn.set p none := by simp [Dev.hear]
theorem hear_portHop (p : Nat) (m : Marker) : (d.hear p m).bt.portHop = d.bt.portHop.set p (some m.hop) := by simp [Dev.hear]
theorem hear_lastMarkTs (p : Nat) (m : Marker) : (d.hear p m).bt.lastMarkTs = m.ts := rfl
theorem hear_countValid (p : Nat) (m : Marker) : (d.hear p m).bt.countValid = d.bt.countValid := by simp [Dev.hear]

/-- In a settled election nothing is adopted. -/
theorem hear_bt_of_settled {d : Dev} (h : d.bt.settled = true) (p : Nat) (m : Marker) : (d.hear p m).bt =
    { d.bt with
      markerIn := d.bt.markerIn.set p none, portHop := d.bt.portHop.set p (some m.hop), lastMarkTs := m.ts, lastMarkBeat := d.bt.beat } := by
  rw [Dev.hear, adopt_of_settled _ (by exact h)]
  rfl
end

/-- A follower takes the marker of the only port that has heard one. -/
theorem beatMarkerReceive_sole {d : Dev} {port : Fin 24} {m : Marker} (hm : d.bt.markerIn.getD port.val none = some m)
    (hen : d.bt.linkMarkEn = true) (hl : d.bt.locked = true) (hf : d.bt.elect = .follower) (hup : (d.port port.val).state = .up)
    (hhop : d.bt.portHop = List.replicate 24 none) : beatMarkerReceive port d = (d.hear port.val m).takeMarker port.val m := by
  have hbest : (d.hear port.val m).bestPort = some port.val :=
    bestPort_of_sole port.isLt (by rw [hear_port]; exact hup) (by rw [hear_portHop, hhop])
  have hfollows := adopt_follows (d.modBt (fun b => { b with markerIn := b.markerIn.set port.val none })) hf
  have hgate : (!d.bt.linkMarkEn || d.bt.elect == .master || (d.port port.val).state != .up || !d.bt.locked) = false := by
    simp [hen, hl, hf, hup]
  simp only [beatMarkerReceive, hm]
  exact (if_neg (ne_true_of_eq_false hgate)).trans ((if_neg (by rw [hfollows]; decide)).trans (if_pos hbest))

/-! ### A marker taken -/

section
variable (d : Dev) (p : Nat) (m : Marker)

/-- The first marker gives the count, and the device adopts it (R42). -/
theorem takeMarker_first (h : d.bt.countValid = false) : let b := (d.takeMarker p m).bt
    b.markerIn = d.bt.markerIn ∧ b.portHop = d.bt.portHop ∧ b.upstreamPort = BitVec.ofNat 5 p ∧ b.countValid = true ∧
    b.lastMarkTs = d.bt.lastMarkTs ∧
    b.beat = (d.now - (m.arrived - (m.ts + (d.port p).delayTs.setWidth 64))).extractLsb' 12 52 := by
  simp only [Dev.takeMarker, chooseSrc_bt, sendMarkers_bt, modBt_bt, h, Bool.not_false, if_true, BitVec.ofInt_toInt]
  split
  · simp [Dev.setTs, regained_bt, Dev.now]
  · simp [Dev.setTs, Dev.now]

/-- A later marker steers the phase (R39). -/
theorem takeMarker_later (h : d.bt.countValid = true) (hh : d.bt.holdover = false) (hs : d.bt.stepBy = none) : let b := (d.takeMarker p m).bt
    b.beat = d.bt.beat ∧ b.offset = offsetReg (m.arrived - (m.ts + (d.port p).delayTs.setWidth 64)).toInt ∧
    b.slewRest = 10000 * (m.arrived - (m.ts + (d.port p).delayTs.setWidth 64)).toInt := by
  simp [Dev.takeMarker, h, hh, hs, slewOf]

/-- A marker taken goes on to the other ports that are up, one hop further (R38). -/
theorem markBody_takeMarker {q : Nat} (q24 : q < 24) (hq : q ≠ p) (hup : (d.port q).state = .up) :
    (d.takeMarker p m).markBody q = some (.marker { m with hop := m.hop + 1 }) := by
  simp only [Dev.takeMarker]
  rw [markBody_congr (chooseSrc_lnk _)]
  refine markBody_sendMarkers_otherUp (d := d) _ ?_ q24 hup (by simpa using hq.symm)
  split
  · split <;> simp [Dev.setTs]
  · split
    · simp
    · split <;> simp
end

/-! ### The commands -/

/-- The master's marker waits on every port that is up (R38). -/
theorem beatMarkerSend_of_due {d : Dev} (he : d.bt.elect = .master) (hi : d.bt.markInterval.toNat ≤ d.since d.bt.markSentBeat) :
    (beatMarkerSend d).bt.markSentBeat = d.bt.beat ∧ ∀ p : Fin 24, (d.port p.val).state = .up →
      (beatMarkerSend d).markBody p.val = some (.marker { ts := d.now, hop := 0, interval := d.bt.markInterval.setWidth 16 }) := by
  have hdue : (d.bt.elect == .master && decide (d.bt.markInterval.toNat ≤ d.since d.bt.markSentBeat)) = true := by simp [he, hi]
  rw [beatMarkerSend, if_pos hdue]
  refine ⟨rfl, fun p hup => ?_⟩
  rw [markBody_congr (modBt_lnk _ _)]
  exact markBody_sendMarkers_otherUp _ rfl p.isLt hup nofun

/-- With no plan running, the step takes the offset out of the count (R49). -/
theorem counterStep_bt {d : Dev} {off : BitVec 64} (hs : d.bt.stepBy = some off) (hp : ∀ p ∈ d.plans, p.state ≠ .running) : let b := (counterStep d).bt
    b.beat = (d.now - off).extractLsb' 12 52 ∧ b.stepBy = none ∧ b.slewRest = 0 ∧
    b.events = d.bt.events.raise (BitVec.ofNat 6 (2 ^ 5)) := by
  have hidle : d.plans.any (fun p => p.state == .running) = false := by simpa using hp
  simp only [counterStep, hs, hidle]
  simp [Dev.setTs]

theorem slewEnd_of_small {d : Dev} (hs : d.bt.slewing = true) (hr : d.bt.slewRest.natAbs < 409600) :
    slewEnd d = { d with bt := { d.bt with slewing := false } } := by
  rw [slewEnd, if_pos (by simp [hs, hr])]
  rfl

/-- Settles O4: sending, taking and forwarding by what waits on the ports, steering by what a marker taken makes of the timebase. -/
theorem markersSteerTheFollower : Obligations.MarkersSteerTheFollower := by
  unfold Obligations.MarkersSteerTheFollower
  refine ⟨?send, ?first, ?later, ?step, ?slew⟩
  case send =>
    exact fun s he hi => completes_of_run rfl (beatMarkerSend_of_due he hi)
  case first =>
    intro s port m hm hen hl hf hup hhop hc
    apply completes_of_run rfl
    rw [beatMarkerReceive_sole hm hen hl hf hup hhop]
    obtain ⟨hin, hhops, hport, hvalid, hts, hbeat⟩ :=
      takeMarker_first (s.dev.hear port.val m) port.val m ((hear_countValid ..).trans hc)
    refine ⟨?_, ?_, hport, hvalid, hts, ?_, fun p hp hpup => ?_⟩
    · rw [hin, hear_markerIn]
    · rw [hhops, hear_portHop]
    · rw [hbeat, hear_now, hear_port]
    · exact markBody_takeMarker _ _ m p.isLt (fun h => hp (Fin.ext h)) (by rw [hear_port]; exact hpup)
  case later =>
    intro s port m hm hen hl hf hset hup hhop hc hh hs
    apply completes_of_run rfl
    rw [beatMarkerReceive_sole hm hen hl hf hup hhop]
    have hbt := hear_bt_of_settled hset port.val m
    obtain ⟨hbeat, hoff, hrest⟩ := takeMarker_later (s.dev.hear port.val m) port.val m (by rw [hbt]; exact hc) (by rw [hbt]; exact hh)
      (by rw [hbt]; exact hs)
    refine ⟨?_, ?_, ?_⟩
    · rw [hbeat, hbt]
    · rw [hoff, hear_port]
    · rw [hrest, hear_port]
  case step =>
    intro s off hs hp
    obtain ⟨hbeat, hstep, hrest, hev⟩ := counterStep_bt hs hp
    apply completes_of_run rfl
    exact ⟨hbeat, hstep, hrest, hev ▸ getLsbD_raise _ 5 (by decide)⟩
  case slew =>
    exact fun s hs hr => completes_of_run rfl (slewEnd_of_small hs hr)

end Sys2Proof.Machine
end

section
/-! SUPPORT. Holdover: the stop of the running plans, which every plan keeps until it no longer runs, and the election that a follower
starts (R45, R46, R51). -/

namespace Sys2Proof.Machine

/-! ### Plans that stop -/

/-- A plan that runs is told to stop. -/
def Plan.Stops (p : Plan) : Prop := p.state = .running → p.stopping ≠ none

/-- Every plan that runs is told to stop. -/
def Dev.AllStop (d : Dev) : Prop := ∀ p ∈ d.plans, p.Stops

/-- A plan that does not run has nothing to stop. -/
theorem stops_of_not_running {p : Plan} (h : p.state ≠ .running) : p.Stops := fun hr => absurd hr h

theorem allStop_congr {d e : Dev} (h : e.plans = d.plans) (hd : d.AllStop) : e.AllStop := by
  rw [Dev.AllStop, h]
  exact hd

theorem allStop_modPlan {d : Dev} (hd : d.AllStop) (h : BitVec 16) {f : Plan → Plan} (hf : ∀ p : Plan, p.Stops → (f p).Stops) :
    (d.modPlan h f).AllStop := by
  intro q hq
  obtain ⟨p, hp, rfl⟩ := List.mem_map.1 hq
  split
  · exact hf p (hd p hp)
  · exact hd p hp

theorem allStop_missStep {d : Dev} (hd : d.AllStop) (p : Plan) (s : Nat) : (d.missStep p s).AllStop :=
  allStop_congr (writeRecord_plans _ _) (allStop_modPlan hd p.handle fun _ h => h)

/-- The end of a step keeps the stop, or is the plan's end. -/
theorem allStop_finishStep {d : Dev} (hd : d.AllStop) (p : Plan) : (d.finishStep p).AllStop := by
  refine allStop_modPlan hd p.handle fun q hq hr => ?_
  by_cases hlast : (q.curStep + 1 == q.nSteps) = true
  · exact absurd hr (by cases hs : q.state <;> simp [hlast])
  · have hrun : q.state = .running := by simpa [hlast] using hr
    by_cases hafter : q.stopAfter = some q.curStep
    · simp [hlast, hafter]
    · simpa [hlast, hafter] using hq hrun

theorem allStop_pausePlan {d : Dev} (hd : d.AllStop) (p : Plan) (cause : BitVec 16) (begun : Nat) : (d.pausePlan p cause begun).AllStop :=
  allStop_modPlan hd p.handle fun _ _ => stops_of_not_running nofun

theorem allStop_settlePause {d : Dev} (hd : d.AllStop) (h : BitVec 16) : (d.settlePause h).AllStop := by
  unfold Dev.settlePause
  split
  · exact hd
  next p _ =>
    split
    · exact hd
    · split
      · split
        · exact hd
        · refine allStop_pausePlan ?_ p _ _
          split
          · exact allStop_modPlan hd h fun _ hq => hq
          · exact hd
      · split
        · exact allStop_pausePlan hd p 0 p.curStep
        · exact hd

theorem allStop_settleSteps (h : BitVec 16) (n : Nat) {d : Dev} (hd : d.AllStop) : (Dev.settleSteps h n d).AllStop := by
  induction n generalizing d with
  | zero => exact hd
  | succ n ih =>
    unfold Dev.settleSteps
    split
    · exact hd
    next p _ =>
      split
      · refine ih (allStop_settlePause (allStop_finishStep ?_ p) h)
        split
        · exact allStop_missStep hd p p.curStep
        · exact hd
      · exact hd

theorem allStop_settlePlan {d : Dev} (hd : d.AllStop) (h : BitVec 16) : (d.settlePlan h).AllStop := by
  unfold Dev.settlePlan
  split
  · exact hd
  · exact allStop_settlePause (allStop_settleSteps h _ hd) h

theorem allStop_settlePlans (l : List (BitVec 16)) {d : Dev} (hd : d.AllStop) : (l.foldl Dev.settlePlan d).AllStop := by
  induction l generalizing d with
  | nil => exact hd
  | cons h l ih => exact ih (allStop_settlePlan hd h)

/-- Once the plans are stopped, each that still runs is told to stop (R46). -/
theorem allStop_stopPlans (d : Dev) (cause : BitVec 16) : (d.stopPlans cause).AllStop := by
  refine allStop_settlePlans _ fun q hq => ?_
  obtain ⟨p, -, rfl⟩ := List.mem_map.1 hq
  intro hr
  split
  · simp
  next hc =>
    rw [if_neg hc] at hr
    simpa [hr] using hc

/-! ### Elections -/

/-- What a device's own claim is made of. -/
theorem ownClaim_congr {d e : Dev} (hs : e.bt.serial = d.bt.serial) (hp : e.pwr = d.pwr) (hl : e.lnk = d.lnk) : e.ownClaim = d.ownClaim := by
  rw [Dev.ownClaim, Dev.ownKey, Dev.keyCoord, Dev.coord, hs, hp, hl]
  rfl

/-- A device without a conflict claims in an election that starts. -/
theorem startElection_bt {d : Dev} (h : d.bt.conflict = false) : d.startElection.bt =
    { d.bt with elect := .claiming, settled := false, claims := true, lowest := some d.ownClaim, claimBeat := d.bt.beat } := by
  simp [Dev.startElection, h]

/-- Three intervals without a marker (R45, R51). -/
theorem holdoverEntry_bt {d : Dev} (hf : d.bt.elect = .follower) (hc : d.bt.conflict = false) (hh : d.bt.holdover = false)
    (hs : 3 * d.bt.followInterval.toNat ≤ d.since d.bt.lastMarkBeat) : let b := (holdoverEntry d).bt
    b.holdover = true ∧ b.holdoverBeats = 0 ∧ b.upstreamPort = 0x1F ∧ b.events.val.getLsbD 0 = true ∧
    b.elect = .claiming ∧ b.lowest = some d.ownClaim := by
  have hgate : (!d.bt.follows || d.bt.holdover || decide (d.since d.bt.lastMarkBeat < 3 * d.bt.followInterval.toNat)) = false := by
    simp [Bt.follows, hf, hh, hs]
  rw [holdoverEntry, if_neg (ne_true_of_eq_false hgate), startElection_bt]
  · rw [writeRecord_bt, setBtEvent_bt, chooseSrc_bt, modBt_bt]
    exact ⟨rfl, rfl, rfl, getLsbD_raise _ 0 (by decide), rfl, congrArg some (ownClaim_congr (by simp) (by simp) (by simp))⟩
  · simp [hc]

/-- Settles O5: the entry step by step, the pause because every plan keeps its stop while it runs. -/
theorem holdoverPausesPlans : Obligations.HoldoverPausesPlans := by
  unfold Obligations.HoldoverPausesPlans
  refine ⟨?entry, ?pause⟩
  case entry =>
    exact fun s hf hc hh hs => completes_of_run rfl (holdoverEntry_bt hf hc hh hs)
  case pause =>
    intro s hh hb
    apply completes_of_run rfl
    rw [holdoverPause, if_pos (by simpa [hh] using hb)]
    exact allStop_stopPlans s.dev 0x0700

end Sys2Proof.Machine
end

section
/-! SUPPORT. The election: a claim taken out of the receive buffers, the lowest claim, a key conflict, and the settlement (R51 to R54). -/

namespace Sys2Proof.Machine

/-! ### Claims -/

@[simp] theorem freePlace_bt (d : Dev) (f : Flit) : (d.freePlace f).bt = d.bt := (freePlace_only d f).same .bt rfl
@[simp] theorem freePlace_pwr (d : Dev) (f : Flit) : (d.freePlace f).pwr = d.pwr := (freePlace_only d f).same .pwr rfl

/-- A place that is freed is a port's own. -/
theorem freePlace_lnk (d : Dev) (f : Flit) : (d.freePlace f).lnk = { d.lnk with ports := (d.freePlace f).lnk.ports } := by
  unfold Dev.freePlace
  split <;> rfl

/-- Claims sent change the ports alone. -/
theorem sendClaim_lnk (d : Dev) (ports : List Nat) (c : Claim) : (d.sendClaim ports c).lnk = { d.lnk with ports := (d.sendClaim ports c).lnk.ports } := by
  unfold Dev.sendClaim
  induction ports generalizing d with
  | nil => rfl
  | cons n ports ih => rw [List.foldl_cons, ih]; rfl

/-- The machine once the first flit that waits is taken. -/
def Dev.dequeue (d : Dev) (f : Flit) (rest : List (Nat × Flit)) : Dev := { d with lnk := { d.lnk with inbox := rest } }.freePlace f

theorem takeInbox_head {d : Dev} {pick : Nat × Flit → Bool} {x : Nat × Flit} {rest : List (Nat × Flit)} (hi : d.lnk.inbox = x :: rest)
    (hx : pick x = true) : d.takeInbox pick = some (x, d.dequeue x.2 rest) := by
  simp [Dev.takeInbox, takeFirst, hi, hx, Dev.dequeue]

section
variable (d : Dev) (f : Flit) (rest : List (Nat × Flit))

@[simp] theorem dequeue_bt : (d.dequeue f rest).bt = d.bt := freePlace_bt ..
@[simp] theorem dequeue_inbox : (d.dequeue f rest).lnk.inbox = rest := by rw [Dev.dequeue, freePlace_lnk]
theorem dequeue_coord : (d.dequeue f rest).coord = d.coord := by rw [Dev.coord, Dev.dequeue, freePlace_lnk]; rfl

@[simp] theorem dequeue_ownKey : (d.dequeue f rest).ownKey = d.ownKey := by
  rw [Dev.ownKey, Dev.keyCoord, dequeue_coord, dequeue_bt, Dev.dequeue, freePlace_pwr]
  rfl
end

section
variable {d : Dev} {p : Nat} {f : Flit} {rest : List (Nat × Flit)} {c : Claim} (hi : d.lnk.inbox = (p, f) :: rest) (hb : f.body = .claim c)
  (ho : c.origin ≠ ownUid)
include hi hb ho

/-- An equal key of another device is a conflict (R53). -/
theorem claimReceive_equal (hk : c.key = d.ownKey) : claimReceive d = (d.dequeue f rest).keyConflict c.origin := by
  rw [claimReceive, takeInbox_head hi]
  · simp [hb, ho, hk]
  · simp [hb]

/-- A claim below the lowest seen is the lowest, and goes on (R51). -/
theorem claimReceive_lower {l : Claim} (hk : c.key.toNat < d.ownKey.toNat) (he : d.bt.elect = .claiming) (hs : d.bt.settled = false)
    (hl : d.bt.lowest = some l) (hlow : c.key.toNat < l.key.toNat) : claimReceive d =
      ((d.dequeue f rest).modBt (fun b => { b with lowest := some c, claimBeat := b.beat, claims := false })).sendClaim
        ((d.dequeue f rest).otherUp (some p)) c := by
  have hne : c.key ≠ d.ownKey := fun h => by simp [h] at hk
  rw [claimReceive, takeInbox_head hi]
  · simp [hb, ho, hne, he, hs, hl, hlow, Nat.not_lt_of_gt hk]
  · simp [hb]
end

/-- A device that finds a conflict claims no more and shows it (R53). -/
theorem keyConflict_bt {d : Dev} (h : d.bt.conflict = false) (other : BitVec 128) : let b := (d.keyConflict other).bt
    b.elect = .conflict ∧ b.conflict = true ∧ b.claims = false ∧ b.events.val.getLsbD 4 = true := by
  rw [Dev.keyConflict, if_neg (ne_true_of_eq_false h), writeRecord_bt]
  exact ⟨rfl, rfl, rfl, getLsbD_raise _ 4 (by decide)⟩

/-! ### The settlement -/

section
variable {d : Dev} (hs : d.bt.settled = false) (he : d.bt.elect = .claiming) (hw : 1024 ≤ d.since d.bt.claimBeat)
include hs he hw

theorem election_due : (d.bt.settled || d.bt.elect == .idle || decide (d.since d.bt.claimBeat < 1024)) = false := by
  simp [hs, he, hw]

/-- The holder of the lowest key is the master (R51), and the first election of a boot ends it (R442). -/
theorem electionSettle_master (hc : d.bt.claims = true) (hp : d.pwr.phase = .elect) : let e := electionSettle d
    e.bt.elect = .master ∧ e.bt.countValid = true ∧ e.bt.upstreamPort = 0x1F ∧ e.bt.settled = true ∧
    e.pwr.phase = .ready ∧ e.pwr.ready = true := by
  rw [electionSettle, if_neg (ne_true_of_eq_false (election_due hs he hw))]
  cases d.bt.everSettled <;> simp [hc, hp]

/-- The others follow the holder of the lowest claim (R51). -/
theorem electionSettle_follower {l : Claim} (hc : d.bt.claims = false) (hn : d.bt.conflict = false) (hl : d.bt.lowest = some l) :
    let b := (electionSettle d).bt
    b.elect = .follower ∧ b.masterKey = l.key ∧ b.settled = true := by
  rw [electionSettle, if_neg (ne_true_of_eq_false (election_due hs he hw))]
  simp only [readyAtElect_bt]
  cases d.bt.everSettled <;> simp [hc, hn, hl]
end

/-- Settles O6: the claim that waits is taken first, and each command by what it makes of the timebase. -/
theorem electionTakesTheLowestKey : Obligations.ElectionTakesTheLowestKey := by
  unfold Obligations.ElectionTakesTheLowestKey
  refine ⟨?lower, ?equal, ?master, ?follower⟩
  case lower =>
    intro s p f rest c l hi hb ho hk he hs hl hlow
    apply completes_of_run rfl
    rw [claimReceive_lower hi hb ho hk he hs hl hlow]
    rw [sendClaim_bt, modBt_bt, dequeue_bt, sendClaim_lnk]
    exact ⟨rfl, rfl, rfl, dequeue_inbox s.dev f rest⟩
  case equal =>
    intro s p f rest c hi hb ho hk hn
    apply completes_of_run rfl
    rw [claimReceive_equal hi hb ho hk]
    exact keyConflict_bt (by rw [dequeue_bt]; exact hn) c.origin
  case master =>
    exact fun s hs he hw hc hp => completes_of_run rfl (electionSettle_master hs he hw hc hp)
  case follower =>
    exact fun s l hs he hw hc hn hl => completes_of_run rfl (electionSettle_follower hs he hw hc hn hl)

end Sys2Proof.Machine
end

section
/-! SUPPORT. Mailbox channels: what a channel holds after the operations that others share, and what each command on the way of a request
and of its response makes of the machine (R59, R63 to R69, R73 to R77, R104, R452). -/

namespace Sys2Proof.Machine

/-! ### A channel after an operation -/

/-- A channel that differs in some field from one after reset stands in the table. -/
theorem lt_of_chan_ne {α : Type} (view : Chan → α) {d : Dev} {c : Nat} (h : view (d.chan c) ≠ view {}) : c < d.chans.length := by
  by_contra hc
  exact h (congrArg view (List.getD_eq_default _ _ (Nat.le_of_not_lt hc)))

theorem lt_of_responses_cons {d : Dev} {c : Nat} {x : List Byte} {rest : List (List Byte)} (h : (d.chan c).responses = x :: rest) :
    c < d.chans.length := lt_of_chan_ne (·.responses) (by simp [h])

theorem chan_of_chans {d e : Dev} (h : e.chans = d.chans) (c : Nat) : e.chan c = d.chan c := by
  rw [Dev.chan, h, Dev.chan]

/-- What an update of a channel does not touch is as it was, in that channel and in the others. -/
theorem chan_modChan_view {α : Type} (view : Chan → α) {f : Chan → Chan} (hf : ∀ x, view (f x) = view x) (d : Dev) (c k : Nat) :
    view ((d.modChan c f).chan k) = view (d.chan k) := by
  by_cases h : c = k
  · subst h
    by_cases hc : c < d.chans.length
    · rw [chan_modChan_same d f hc, hf]
    · rw [Dev.modChan, List.modify_eq_self (Nat.le_of_not_lt hc)]
  · rw [chan_modChan_other d f h]

@[simp] theorem chanMsix_chans (d : Dev) (c : Nat) : (d.chanMsix c).chans = d.chans := (chanMsix_only d c).same .chans rfl
@[simp] theorem logRecord_chans (d : Dev) (r : Rec) : (d.logRecord r).chans = d.chans := (logRecord_only d r).same .chans rfl

section
variable (d : Dev) {c : Nat} (h : c < d.chans.length)
include h

theorem queueResp_chan (bs : List Byte) :
    (d.queueResp c bs).chan c = { d.chan c with responses := (d.chan c).responses ++ [bs] } := by
  simp only [Dev.queueResp]
  split
  · rw [chan_of_chans (chanMsix_chans ..), chan_modChan_same d _ h]
  · rw [chan_modChan_same d _ h]

theorem queueResp_chans_lt (bs : List Byte) : c < (d.queueResp c bs).chans.length := by
  simp only [Dev.queueResp]
  split <;> simpa using h

/-- Responses queued one after the other stand at the end of the queue in their order. -/
theorem foldl_queueResp_responses {α : Type} (f : α → List Byte) (l : List α) :
    ((l.foldl (fun (d : Dev) m => d.queueResp c (f m)) d).chan c).responses = (d.chan c).responses ++ l.map f := by
  induction l generalizing d with
  | nil => simp
  | cons m l ih => simp [ih _ (queueResp_chans_lt d h _), queueResp_chan d h]
end

/-- A response and those of its exact repeats stand at the end of the queue. -/
theorem placeAll_responses (d : Dev) (r : Done) (p : Option (List Byte)) (h : r.chan < d.chans.length) :
    ((d.placeAll r p).chan r.chan).responses = (d.chan r.chan).responses ++
      responseBytes r.msg r.status.toNat p r.key ::
        r.dups.map (fun m => responseBytes m (if p.isSome then sOkDuplicate else r.status.toNat) p r.key) := by
  rw [Dev.placeAll, foldl_queueResp_responses _ (queueResp_chans_lt d h _), queueResp_chan d h]
  simp

@[simp] theorem placeAll_dones (d : Dev) (r : Done) (p : Option (List Byte)) : (d.placeAll r p).dones = d.dones :=
  (placeAll_only d r p).same .dones rfl

@[simp] theorem pushDone_chan (d : Dev) (r : Done) (c : Nat) : (d.pushDone r).chan c = d.chan c := rfl

/-- The end of the sessions leaves the rest of each channel. -/
@[simp] theorem endSessions_chan (d : Dev) (c : Nat) : d.endSessions.chan c = { d.chan c with session := none } := by
  simp only [Dev.endSessions, Dev.chan, List.getD_eq_getElem?_getD, List.getElem?_map]
  cases d.chans[c]? <;> rfl

@[simp] theorem endSessions_length (d : Dev) : d.endSessions.chans.length = d.chans.length := List.length_map ..

/-! ### The window and the doorbell (R63 to R66) -/

section
variable {d : Dev} {c : Nat}

theorem windowWrite_free (h : (d.chan c).winFree = true) (off : Nat) (data : List Byte) : d.windowWrite c off data =
    d.modChan c (fun x => { x with window := (x.window.take off ++ data ++ x.window.drop (off + data.length)).take 4096 }) := if_pos h

theorem windowWrite_busy (h : (d.chan c).winFree = false) (off : Nat) (data : List Byte) :
    d.windowWrite c off data = d.modChan c (fun x => { x with err := x.err.raise 1 }) := if_neg (ne_true_of_eq_false h)

/-- A doorbell at a busy window is ignored (R65). -/
theorem ring_busy (h : (d.chan c).winFree = false) : d.ring c = d.modChan c (fun x => { x with err := x.err.raise 2 }) := by
  simp only [Dev.ring, h, Bool.not_false, Bool.or_true, if_true]
  rfl

section
variable (h5 : c ≠ 5) (hr : (d.chan c).resetBusy = false) (hw : (d.chan c).winFree = true)
include h5 hr hw

theorem ring_taken (ho : (d.chan c).outstanding < 64) :
    d.ring c = d.modChan c (fun x => { x with winFree := false, outstanding := x.outstanding + 1 }) := by
  simp [Dev.ring, h5, hr, hw, Nat.not_le_of_lt ho]

/-- A doorbell at 64 outstanding requests is refused and counted (R66). -/
theorem ring_full (ho : 64 ≤ (d.chan c).outstanding) : let x := (d.ring c).chan c
    x.refused = satInc (d.chan c).refused ∧ x.winFree = true ∧ x.outstanding = (d.chan c).outstanding ∧ x.err.val.getLsbD 2 = true := by
  have hc : c < d.chans.length := lt_of_chan_ne (·.outstanding) (Nat.ne_of_gt (Nat.lt_of_lt_of_le (by decide) ho))
  simp only [Dev.ring, h5, hr, hw, ho, Dev.chanErr, decide_false, Bool.not_true, Bool.or_self, Bool.false_eq_true, if_false, if_true]
  rw [chan_modChan_same _ _ (by rwa [modChan_length]), chan_modChan_same _ _ hc]
  exact ⟨rfl, hw, rfl, getLsbD_raise _ 2 (by decide)⟩
end

/-- The end of a copy frees the window and queues the message (R64). -/
theorem requestCopyDone_chan {c : Fin 8} (h : (d.chan c.val).winFree = false) : (requestCopyDone c d).chan c.val = { d.chan c.val with
    winFree := true, copied := (d.chan c.val).copied ++ [(d.chan c.val).window.take (mBytes (d.chan c.val).window)] } := by
  rw [requestCopyDone, if_neg (ne_true_of_eq_false h), chan_modChan_same _ _ (lt_of_chan_ne (·.winFree) (by simp [h]))]
end

/-! ### Channel 7's frames (R447, R452) -/

/-- A frame of the length of its command acts, and what it leaves of the management port's own state is the port's (R447). -/
theorem frame_acts {d e : Dev} {edges n len : Nat} {cmd : BitVec 8} {miso : List Byte} {act : Dev → Dev} (hv : d.pwr.vauxOk = true)
    (hl : spiLength cmd n = some len) (he : edges = 8 * len)
    (hact : ∀ m : Mgt, ∃ m' : Mgt, act { d with mgt := m } = { e with mgt := m' }) :
    ∃ m' : Mgt, d.frame edges cmd n miso act = { e with mgt := m' } := by
  simp only [Dev.frame, hv, hl, he, Bool.not_true, Bool.false_eq_true, if_false, Option.any_some, beq_self_eq_true, if_true]
  exact hact _

section
variable {d : Dev} (hv : d.pwr.vauxOk = true) (hu : d.pwr.ctlUp = true) (hw : (d.chan 7).winFree = false)
include hv hu hw

theorem ch7Write_busy {off n : BitVec 16} (hn : n ≠ 0) (hf : windowFrameOk off n = true) {edges : Nat} (he : edges = 8 * (5 + n.toNat))
    (data : List Byte) :
    ∃ m : Mgt, ch7Write off n data edges d = { d.modChan 7 (fun x => { x with err := x.err.raise 1 }) with mgt := m } := by
  refine frame_acts hv (show spiLength 0x20 n.toNat = some (5 + n.toNat) from rfl) he fun m => ⟨m, ?_⟩
  simp only [Dev.channel7, hf, hu, hn, Bool.not_true, Bool.false_eq_true, if_false, if_true]
  exact windowWrite_busy (d := { d with mgt := m }) hw _ _

/-- The doorbell that a busy window leaves aside is also an access refused (R448). -/
theorem ch7Ring_busy {edges : Nat} (he : edges = 8) :
    ∃ m : Mgt, ch7Ring edges d = { d.modChan 7 (fun x => { x with err := x.err.raise 2 }) with mgt := m } := by
  refine frame_acts hv (show spiLength 0x21 0 = some 1 from rfl) he fun m => ⟨{ m with accErr := true }, ?_⟩
  have hbusy : (Dev.chan { d with mgt := m } 7).winFree = false := hw
  simp only [Dev.channel7, hu, ring_busy hbusy, hbusy, Bool.not_false, Bool.or_true, Bool.true_or, if_true]
  rfl
end

/-- Settles O56: a busy window and its doorbell each raise their bit alone, through whichever port they come. -/
theorem busyWindowsAndDoorbellsAreIgnored : Obligations.BusyWindowsAndDoorbellsAreIgnored := by
  unfold Obligations.BusyWindowsAndDoorbellsAreIgnored
  refine ⟨?window, ?doorbell, ?ch7Window, ?ch7Doorbell⟩
  case window =>
    intro s func ch off data hu hw
    exact completes_of_run rfl ((if_pos hu).trans (windowWrite_busy hw _ _))
  case doorbell =>
    intro s func ch hu hw
    exact completes_of_run rfl ((if_pos hu).trans (ring_busy hw))
  case ch7Window =>
    intro s off n data edges hv he hf hn hu hw
    obtain ⟨m, hm⟩ := ch7Write_busy hv hu hw hn hf he data
    apply completes_of_run rfl
    rw [hm]
  case ch7Doorbell =>
    intro s edges hv he hu hw
    obtain ⟨m, hm⟩ := ch7Ring_busy hv hu hw he
    apply completes_of_run rfl
    rw [hm]

/-! ### Channel reset (R77) -/

/-- A reset channel holds no request and no response, and its session ends where a dropped response would have ended it (R102). -/
theorem resetChan_chan {d : Dev} {c : Nat} (h : c < d.chans.length) : let x := (d.resetChan c).chan c
    x.copied = [] ∧ x.responses = [] ∧ x.lastSeq = 0xFFFFFFFF ∧ x.resetBusy = true ∧
    x.session = if d.dones.any (fun r => r.chan == c && r.ends) then none else (d.chan c).session := by
  simp only [Dev.resetChan]
  split
  · rw [chan_modChan_same _ _ (by simpa using h)]
    exact ⟨rfl, rfl, rfl, rfl, congrArg Chan.session (endSessions_chan d c)⟩
  · rw [chan_modChan_same _ _ (by exact h)]
    exact ⟨rfl, rfl, rfl, rfl, rfl⟩

/-- The responses of a reset channel that are due are dropped. -/
theorem resetChan_dones (d : Dev) (c : Nat) : (d.resetChan c).dones = d.dones.filter (fun r => r.chan != c) := by
  unfold Dev.resetChan
  split <;> rfl

theorem channelResetDone_resetBusy {d : Dev} {c : Fin 8} (hb : (d.chan c.val).resetBusy = true)
    (hr : ∀ r ∈ d.reqs, r.chan = c.val → r.discard = false) (hd : ∀ r ∈ d.dones, r.chan = c.val → r.discard = false) :
    ((channelResetDone c d).chan c.val).resetBusy = false := by
  have hreqs : d.reqs.any (fun r => r.chan == c.val && r.discard) = false := by simpa using hr
  have hdones : d.dones.any (fun r => r.chan == c.val && r.discard) = false := by simpa using hd
  simp only [channelResetDone, hb, hreqs, hdones, Bool.not_false, Bool.and_self, if_true]
  rw [chan_modChan_same _ _ (lt_of_chan_ne (·.resetBusy) (by simp [hb]))]

/-- Settles O11: each command by what it makes of its channel. -/
theorem mailboxTakesAndCopiesRequests : Obligations.MailboxTakesAndCopiesRequests := by
  unfold Obligations.MailboxTakesAndCopiesRequests
  refine ⟨?window, ?taken, ?full, ?copied, ?reset, ?resetDone⟩
  case window =>
    intro s func ch off data hu hw
    exact completes_of_run rfl ((if_pos hu).trans (windowWrite_free hw _ _))
  case taken =>
    intro s func ch hu h5 hr hw ho
    exact completes_of_run rfl ((if_pos hu).trans (ring_taken h5 hr hw ho))
  case full =>
    intro s func ch hu h5 hr hw ho
    apply completes_of_run rfl
    rw [doorbellRing, if_pos hu]
    exact ring_full h5 hr hw ho
  case copied =>
    intro s ch hw
    apply completes_of_run rfl
    rw [requestCopyDone_chan hw]
    exact ⟨rfl, rfl⟩
  case reset =>
    intro s func ch hu hc
    obtain ⟨hcopied, hresp, hseq, hbusy, hsession⟩ := resetChan_chan hc
    apply completes_of_run rfl
    rw [channelReset, if_pos hu]
    refine ⟨hcopied, hresp, hseq, hbusy, hsession, fun r hr => ?_⟩
    rw [resetChan_dones] at hr
    simpa using (List.mem_filter.1 hr).2
  case resetDone =>
    exact fun s ch hb hr hd => completes_of_run rfl (channelResetDone_resetBusy hb hr hd)

end Sys2Proof.Machine
end

section
/-! SUPPORT. The life of a request: its checks, its way to its owner, and its response (R59, R67, R69, R73, R74, R76, R104). -/

namespace Sys2Proof.Machine

/-! ### The request that HP takes (R59, R74) -/

/-- The only channel with a copied request is the next one, wherever the rotating order begins. -/
theorem nextCopied_of_only {d : Dev} {c : Fin 8} (hc : (d.chan c.val).copied ≠ [])
    (ho : ∀ x : Fin 8, x ≠ c → (d.chan x.val).copied = []) : d.nextCopied = some c.val := by
  have hcp : (!(d.chan c.val).copied.isEmpty) = true := by simpa using hc
  have hmem : c.val ∈ (List.range 8).map (fun i => (d.beatN + i) % 8) :=
    List.mem_map.2 ⟨(c.val + 8 - d.beatN % 8) % 8, List.mem_range.2 (by omega), by omega⟩
  unfold Dev.nextCopied
  cases hf : ((List.range 8).map (fun i => (d.beatN + i) % 8)).find? (fun c => !(d.chan c).copied.isEmpty) with
  | none => exact absurd hcp (List.find?_eq_none.1 hf _ hmem)
  | some x =>
    obtain ⟨i, -, hx⟩ := List.mem_map.1 (List.mem_of_find?_eq_some hf)
    have hxp := List.find?_some hf
    by_contra hne
    have hempty := ho ⟨x, by omega⟩ (fun h => hne (by rw [← h]))
    simp [hempty] at hxp

/-- The machine once HP has taken the first copied request of a channel. -/
abbrev Dev.taken (d : Dev) (c : Nat) (rest : List (List Byte)) : Dev := d.modChan c (fun x => { x with copied := rest })

section
variable {d : Dev} {c : Nat} (hc : c < d.chans.length) (m : List Byte) (rest : List (List Byte))
include hc

theorem taken_chan : (d.taken c rest).chan c = { d.chan c with copied := rest } := chan_modChan_same _ _ hc

theorem taken_modChan_chan (f : Chan → Chan) : ((d.taken c rest).modChan c f).chan c = f { d.chan c with copied := rest } :=
  (chan_modChan_same _ _ (by simpa using hc)).trans (congrArg f (taken_chan hc rest))

/-- The checks do not look at the requests that wait. -/
theorem taken_verdict : (d.taken c rest).verdict c m = d.verdict c m := by
  simp only [Dev.verdict, Dev.keyedOk, taken_chan hc]
  rfl
end

/-- A repeat of a request whose response is kept gets that response again (R104). -/
theorem takeDuplicate_kept {d : Dev} {c : Nat} {k : List Byte} (hk : (d.chan c).keptResp = some k) (m : List Byte) :
    d.takeDuplicate c m =
    d.pushDone { chan := c, msg := m, status := BitVec.ofNat 16 sOkDuplicate, payload := some (mPayload k), key := d.chanKey c } := by
  simp only [Dev.takeDuplicate, hk]

/-- A repeat of a request whose response is still to be placed waits behind that response (R104). -/
theorem takeDuplicate_waiting {d : Dev} {c : Nat} {m : List Byte} (hk : (d.chan c).keptResp = none) {r : Done} (hr : r ∈ d.dones)
    (hchan : r.chan = c) (hd : r.discard = false) (hp : r.payload.isSome = true) (hs : sameRequest r.msg m = true) :
    let e := d.takeDuplicate c m
    e.chans = d.chans ∧ e.dones.length = d.dones.length ∧ e.reqs.length = d.reqs.length ∧ { r with dups := r.dups ++ [m] } ∈ e.dones := by
  simp only [Dev.takeDuplicate, hk, List.length_map, true_and]
  exact List.mem_map.2 ⟨r, hr, if_pos (by simp [hchan, hd, hp, hs])⟩

section
variable {d : Dev} {c : Fin 8} {m : List Byte} {rest : List (List Byte)} (hrun : d.runs 0 = true)
  (hwait : (mCritical m && (!d.runs 3 || !d.ringRoom 0 3)) = false) (hm : (d.chan c.val).copied = m :: rest)
  (honly : ∀ x : Fin 8, x ≠ c → (d.chan x.val).copied = [])

include hm in
theorem lt_of_copied : c.val < d.chans.length := lt_of_chan_ne (·.copied) (by simp [hm])

include hrun hwait hm honly

theorem requestCheck_reject {st : Nat} (hv : d.verdict c.val m = .reject st) : requestCheck d =
    (d.taken c.val rest).pushDone { chan := c.val, msg := m, status := BitVec.ofNat 16 st, payload := none } := by
  simp [requestCheck, hrun, nextCopied_of_only (by simp [hm]) honly, hm, hwait, (taken_verdict (lt_of_copied hm) m rest).trans hv]

theorem requestCheck_duplicate (hv : d.verdict c.val m = .duplicate) :
    requestCheck d = (d.taken c.val rest).takeDuplicate c.val m := by
  simp [requestCheck, hrun, nextCopied_of_only (by simp [hm]) honly, hm, hwait, (taken_verdict (lt_of_copied hm) m rest).trans hv]

/-- An accepted request is its channel's last one and waits behind the others (R74). -/
theorem requestCheck_accept (hv : d.verdict c.val m = .accept) : let e := requestCheck d
    (e.chan c.val).lastSeq = mSeq m ∧ (e.chan c.val).copied = rest ∧ e.dones = d.dones ∧
    ∃ r : Req, r.chan = c.val ∧ r.msg = m ∧ e.reqs = d.reqs ++ [r] := by
  have hc := lt_of_copied hm
  simp only [requestCheck, hrun, nextCopied_of_only (show (d.chan c.val).copied ≠ [] by simp [hm]) honly, hm, hwait,
    (taken_verdict hc m rest).trans hv, Bool.not_true, Bool.false_eq_true, if_false]
  exact ⟨congrArg Chan.lastSeq (taken_modChan_chan hc rest _), congrArg Chan.copied (taken_modChan_chan hc rest _), rfl, _, rfl, rfl, rfl⟩
end

/-! ### Responses placed (R67, R73) -/

/-- HP keeps the response of an executed request for its repeats: with the channel, and with the requests that would give it back (R104). -/
def Dev.keepAnswer (d : Dev) (r : Done) : Dev :=
  let bs := responseBytes r.msg r.status.toNat (d.payloadNow r) r.key
  let dig := sha256 (withStatus r.msg 0)
  let first := r.payload.isSome && r.status.toNat != sOkDuplicate
  let d := if first then { d with reqs := d.reqs.map (fun q => q.keepPrev r.chan dig bs) } else d
  if first && (d.chan r.chan).keptDigest == some dig then d.modChan r.chan (fun x => { x with keptResp := some bs }) else d

theorem keepAnswer_dones (d : Dev) (r : Done) : (d.keepAnswer r).dones = d.dones := by
  simp only [Dev.keepAnswer]
  repeat' split
  all_goals rfl

theorem keepAnswer_length (d : Dev) (r : Done) : (d.keepAnswer r).chans.length = d.chans.length := by
  simp only [Dev.keepAnswer]
  repeat' split
  all_goals simp only [modChan_length]

theorem keepAnswer_responses (d : Dev) (r : Done) : ((d.keepAnswer r).chan r.chan).responses = (d.chan r.chan).responses := by
  simp only [Dev.keepAnswer]
  repeat' split
  · exact chan_modChan_view Chan.responses (by intro; rfl) ..
  · rfl
  · exact chan_modChan_view Chan.responses (by intro; rfl) ..
  · rfl

section
variable {d : Dev} {r : Done} {rest : List Done} (hrun : d.runs 0 = true) (hscp : (mCritical r.msg && r.payload.isSome && !d.runs 3) = false)
  (hd : d.dones = r :: rest) (hdisc : r.discard = false)
include hrun hscp hd hdisc

theorem responsePlace_of_due : responsePlace d =
    let e := (Dev.keepAnswer { d with dones := rest } r).placeAll r (d.payloadNow r)
    if r.ends then e.endSessions else e := by
  simp only [responsePlace, hd, hrun, hscp, hdisc, Bool.not_true, Bool.or_self, Bool.false_eq_true, if_false]
  rfl

theorem responsePlace_dones : (responsePlace d).dones = rest := by
  rw [responsePlace_of_due hrun hscp hd hdisc]
  have hplaced := (placeAll_dones (Dev.keepAnswer { d with dones := rest } r) r (d.payloadNow r)).trans (keepAnswer_dones _ r)
  split <;> exact hplaced

theorem responsePlace_responses (hc : r.chan < d.chans.length) :
    ((responsePlace d).chan r.chan).responses = (d.chan r.chan).responses ++
      responseBytes r.msg r.status.toNat (d.payloadNow r) r.key :: r.dups.map (fun m =>
        responseBytes m (if (d.payloadNow r).isSome then sOkDuplicate else r.status.toNat) (d.payloadNow r) r.key) := by
  have hplaced := placeAll_responses (Dev.keepAnswer { d with dones := rest } r) r (d.payloadNow r)
    (Nat.lt_of_lt_of_eq hc (keepAnswer_length { d with dones := rest } r).symm)
  rw [keepAnswer_responses] at hplaced
  rw [responsePlace_of_due hrun hscp hd hdisc]
  split
  · rw [endSessions_chan]
    exact hplaced
  · exact hplaced
end

/-! ### Responses popped (R66, R67) -/

theorem undoRefusal_of_none {x : Chan} (h : x.refusedNow = none) : x.undoRefusal = x := by
  simp only [Chan.undoRefusal, h]

theorem undoRefusal_of_some {x : Chan} {k : Nat} {n : BitVec 32} {e : Sticky 4} (h : x.refusedNow = some (k, n, e)) : let y := x.undoRefusal
    y.responses = x.responses ∧ y.outstanding = x.outstanding + 1 ∧ y.refused = n ∧ y.winFree = false := by
  simp only [Chan.undoRefusal, h, and_self]

theorem pop_chan {d : Dev} {c : Nat} {x : List Byte} {rest : List (List Byte)} (h : (d.chan c).responses = x :: rest) :
    (d.pop c).chan c = Chan.undoRefusal { d.chan c with responses := rest, outstanding := (d.chan c).outstanding - 1 } := by
  simp only [Dev.pop, h]
  split
  · rw [chan_modChan_same _ _ (lt_of_responses_cons h)]
  · rw [chan_of_chans (chanMsix_chans ..), chan_modChan_same _ _ (lt_of_responses_cons h)]

theorem responsePop_chan {d : Dev} {func : Fin 5} {ch : Fin 8} {x : List Byte} {rest : List (List Byte)}
    (hu : d.canUse func.val ch.val = true) (h : (d.chan ch.val).responses = x :: rest) :
    (responsePop func ch d).chan ch.val =
      Chan.undoRefusal { d.chan ch.val with responses := rest, outstanding := (d.chan ch.val).outstanding - 1 } := by
  rw [responsePop, if_pos hu, pop_chan h]

/-! ### The summary of lost events (R76) -/

theorem eventLossSummary_chan {d : Dev} (ho : (d.chan 5).evtOverflow = true) (hl : (d.chan 5).responses.length < 256)
    (hf : (d.fw 2).state = .running) : let x := (eventLossSummary d).chan 5
    x.evtOverflow = false ∧ x.lostNow = 0 ∧ x.responses.length = (d.chan 5).responses.length + 1 := by
  have h5 : 5 < d.chans.length := lt_of_chan_ne (·.evtOverflow) (by simp [ho])
  have hup : d.hlpDown = false := by rw [Dev.hlpDown, hf]; rfl
  simp only [eventLossSummary, ho, hl, hup, decide_true, Bool.not_false, Bool.and_self, if_true]
  generalize d.oneCopy _ = r
  have hlog : 5 < (d.logRecord r).chans.length := by rwa [logRecord_chans]
  have hq := queueResp_chans_lt (d.logRecord r) hlog (eventMessage ((d.logRecord r).chan 5).evtSeq r)
  rw [Dev.queueEvent, chan_modChan_same _ _ (by rwa [modChan_length]), chan_modChan_same _ _ hq, queueResp_chan _ hlog,
    chan_of_chans (logRecord_chans ..)]
  exact ⟨rfl, rfl, List.length_append⟩

/-- Settles O12: the request that HP takes and the verdict on it, and each later command by what it makes of the request's channel. -/
theorem requestsAreCheckedAndAnswered : Obligations.RequestsAreCheckedAndAnswered := by
  unfold Obligations.RequestsAreCheckedAndAnswered
  refine ⟨?accept, ?reject, ?duplicate, ?waiting, ?dispatch, ?place, ?pop, ?popRefused, ?summary⟩
  case accept =>
    intro s c m rest hrun hwait hm honly hv
    obtain ⟨hseq, hcopied, hdones, r, hchan, hmsg, hreqs⟩ := requestCheck_accept hrun hwait hm honly hv
    refine completes_of_run rfl ⟨hseq, hcopied, hdones, ?_⟩
    rw [hreqs, List.map_append, List.map_singleton, hchan, hmsg]
  case reject =>
    intro s c m rest st hrun hwait hm honly hv
    apply completes_of_run rfl
    rw [requestCheck_reject hrun hwait hm honly hv, pushDone_chan, taken_chan (lt_of_copied hm)]
    exact ⟨rfl, rfl, rfl, rfl⟩
  case duplicate =>
    intro s c m k rest hrun hwait hm honly hv hk
    have hc := lt_of_copied hm
    have hkept : ((s.dev.taken c.val rest).chan c.val).keptResp = some k := by rw [taken_chan hc, hk]
    have hkey : (s.dev.taken c.val rest).chanKey c.val = s.dev.chanKey c.val := by rw [Dev.chanKey, taken_chan hc, Dev.chanKey]
    apply completes_of_run rfl
    rw [requestCheck_duplicate hrun hwait hm honly hv, takeDuplicate_kept hkept, pushDone_chan, taken_chan hc, hkey]
    exact ⟨rfl, rfl, rfl⟩
  case waiting =>
    intro s c m rest r hrun hwait hm honly hv hk hr hchan hd hp hs
    have hc := lt_of_copied hm
    have hnone : ((s.dev.taken c.val rest).chan c.val).keptResp = none := by rw [taken_chan hc, hk]
    obtain ⟨hchans, hdones, hreqs, hmem⟩ := takeDuplicate_waiting hnone hr hchan hd hp hs
    apply completes_of_run rfl
    rw [requestCheck_duplicate hrun hwait hm honly hv, chan_of_chans hchans, taken_chan hc]
    exact ⟨rfl, hdones, hreqs, hmem⟩
  case dispatch =>
    intro s r rest hrun hreqs hmay
    apply completes_of_run rfl
    rw [requestDispatch, if_pos hrun, hreqs, passFirst, if_pos hmay]
  case place =>
    intro s r rest hrun hscp hd hdisc hc
    exact completes_of_run rfl ⟨responsePlace_dones hrun hscp hd hdisc, responsePlace_responses hrun hscp hd hdisc hc⟩
  case pop =>
    intro s func ch x rest hu hr hn
    apply completes_of_run rfl
    rw [responsePop_chan hu hr, undoRefusal_of_none]
    · exact ⟨rfl, rfl⟩
    · exact hn
  case popRefused =>
    intro s func ch x rest n e hu hr hn
    apply completes_of_run rfl
    rw [responsePop_chan hu hr]
    exact undoRefusal_of_some hn
  case summary =>
    exact fun s ho hl hf => completes_of_run rfl (eventLossSummary_chan ho hl hf)

end Sys2Proof.Machine
end

section
/-! SUPPORT. A switch without a changed group (R245), and the machine on which the statement about it fails. -/

namespace Sys2Proof.Machine

/-- What a completed command's effect on the machine meets. -/
theorem of_completes {c : Instr} {s : State} {f : Dev → Dev} {P : Dev → Prop} (h : exec c s = run f s) (hc : Completes c s P) :
    P (f s.dev) := by
  obtain ⟨t, ht, -, hp⟩ := hc
  rw [h, run_eq] at ht
  cases ht
  exact hp

/-- Two updates of a handle's plans agree where they agree on each plan of that handle, not on the one that it names alone. -/
theorem modPlan_eq_iff (d : Dev) (h : BitVec 16) (f g : Plan → Plan) :
    d.modPlan h f = d.modPlan h g ↔ ∀ p ∈ d.plans, p.handle = h → f p = g p := by
  constructor
  · intro heq p hp hh
    simpa [hh] using List.map_inj_left.1 (congrArg Dev.plans heq) p hp
  · intro hfg
    have hmap : d.plans.map (fun p => if p.handle == h then f p else p) = d.plans.map (fun p => if p.handle == h then g p else p) :=
      List.map_congr_left fun p hp => ite_congr rfl (fun hh => hfg p hp (eq_of_beq hh)) fun _ => rfl
    rw [Dev.modPlan, Dev.modPlan, hmap]

section
variable {d : Dev} {h : BitVec 16} {q : Plan} {x : Select} (hq : d.plan? h = some q) (hs : d.sequencing = true)
  (hr : q.state = .running) (ht : q.retiring = none)
  (hx : q.selects.find? (fun x => !q.switched.contains x.step && d.stepBegun q x.step && q.keepsStart x.step) = some x)
  (hg : q.changedGroups x.step = [])
include hq hs hr ht hx hg

/-- The switch is noted in every plan of the handle, behind the switches that this plan has noted. -/
theorem switchBeat_of_no_change : switchBeat h d = d.modPlan h (fun p => { p with switched := p.switched ++ [x.step] }) := by
  simp only [switchBeat, hq, hx]
  simp [hs, hr, ht, hg]

/-- The plan that the handle names speaks for all plans of the handle only if they have noted the same switches. -/
theorem switchBeat_notes_iff : switchBeat h d = d.modPlan h (fun p => { p with switched := q.switched ++ [x.step] }) ↔
    ∀ p ∈ d.plans, p.handle = h → p.switched = q.switched := by
  rw [switchBeat_of_no_change hq hs hr ht hx hg, modPlan_eq_iff]
  simp only [Plan.mk.injEq, List.append_cancel_right_eq, and_true, true_and]
end

/-- A running plan of handle 1 whose one step has begun, with a selection at that step's start and the switches that it has noted. -/
def switchingPlan (noted : List Nat) : Plan :=
  { handle := 1, func := 0, img := { steps := [⟨0, 900⟩] }, cores := [], imageAddr := 0, imageLen := 0, state := .running
    selects := [⟨0, 0, 0, 7⟩], switched := noted }

/-- Two plans of one handle that have noted different switches. -/
def sharedHandle : State := ⟨{ pwr := { phase := .ready }, plans := [switchingPlan [], switchingPlan [1]] }, []⟩

/-- Refutes O44: the clause on a switch without a changed group sets SWITCHED of every plan of the handle from the plan that the handle
names. The model adds the step to each plan's own list, and no hypothesis makes the handle name one plan alone; `sharedHandle` has two
plans of handle 1, the second with a switch that the first has not noted. -/
theorem not_timelinesRunOnTheirBeats : ¬ Obligations.TimelinesRunOnTheirBeats := by
  unfold Obligations.TimelinesRunOnTheirBeats
  rintro ⟨-, -, -, -, -, -, -, -, -, -, hnoted, -⟩
  have hx : (switchingPlan []).selects.find? (fun x => !(switchingPlan []).switched.contains x.step &&
      sharedHandle.dev.stepBegun (switchingPlan []) x.step && (switchingPlan []).keepsStart x.step) = some ⟨0, 0, 0, 7⟩ := by decide
  have hclause := of_completes rfl (hnoted sharedHandle 1 (switchingPlan []) ⟨0, 0, 0, 7⟩ rfl rfl rfl rfl hx rfl)
  have hsame := (switchBeat_notes_iff rfl rfl rfl rfl hx rfl).1 hclause (switchingPlan [1]) (List.mem_cons_of_mem _ List.mem_cons_self) rfl
  exact absurd hsame (by decide)

end Sys2Proof.Machine
end

section
/-! SUPPORT. Command queues: what a queue holds after an operation on it, and the issue and the completion of a command that
completes as it issues (R134 to R145). -/

namespace Sys2Proof.Machine

/-! ### A queue after an operation -/

/-- A queue that differs in some field from one after reset stands in the table. -/
theorem lt_of_cq_ne {α : Type} (view : Cq → α) {d : Dev} {c : Nat} (h : view (d.cq c) ≠ view {}) : c < d.cqs.length := by
  by_contra hc
  exact h (congrArg view (List.getD_eq_default _ _ (Nat.le_of_not_lt hc)))

theorem cq_of_cqs {d e : Dev} (h : e.cqs = d.cqs) (c : Nat) : e.cq c = d.cq c := by
  rw [Dev.cq, h, Dev.cq]

theorem modCq_absent {d : Dev} {c : Nat} (h : d.cqs.length ≤ c) (f : Cq → Cq) : d.modCq c f = d := by
  rw [Dev.modCq, List.modify_eq_self h]

/-- What an update of a queue does not touch is as it was, in that queue and in the others. -/
theorem cq_modCq_view {α : Type} (view : Cq → α) {f : Cq → Cq} (hf : ∀ q, view (f q) = view q) (d : Dev) (c k : Nat) :
    view ((d.modCq c f).cq k) = view (d.cq k) := by
  by_cases h : c = k
  · subst h
    by_cases hc : c < d.cqs.length
    · rw [cq_modCq_same d f hc, hf]
    · rw [modCq_absent (Nat.le_of_not_lt hc)]
  · rw [cq_modCq_other d f h]

/-- Two updates of a queue agree where they agree on what the queue holds. -/
theorem modCq_congr {d : Dev} {c : Nat} {f g : Cq → Cq} (h : f (d.cq c) = g (d.cq c)) : d.modCq c f = d.modCq c g := by
  have hcqs : d.cqs.modify c f = d.cqs.modify c g := by
    refine List.ext_getElem? fun i => ?_
    simp only [List.getElem?_modify]
    split
    next hi =>
      subst hi
      cases hq : d.cqs[c]? with
      | none => rfl
      | some q =>
        rw [Dev.cq, List.getD_eq_getElem?_getD, hq] at h
        exact congrArg some h
    next => rfl
  rw [Dev.modCq, hcqs, Dev.modCq]

@[simp] theorem modCq_modCq (d : Dev) (c : Nat) (f g : Cq → Cq) : (d.modCq c f).modCq c g = d.modCq c (g ∘ f) :=
  congrArg (fun l => { d with cqs := l }) (List.modify_modify_eq f g c d.cqs)

@[simp] theorem writeRecord_cqs (d : Dev) (r : Rec) : (d.writeRecord r).cqs = d.cqs := (writeRecord_only d r).same .cqs rfl
@[simp] theorem writeRecord_mem (d : Dev) (r : Rec) : (d.writeRecord r).mem = d.mem := (writeRecord_only d r).same .mem rfl

/-! ### The issue of a command (R137, R139) -/

/-- A command as its unit takes it up. -/
def Ctx.flightOf (x : Ctx) (f : Fetched) : Flight := { idx := f.idx, bytes := x.resolve f.bytes }

/-- The machine after the issue of the next command. -/
def Dev.issued (d : Dev) (c : Nat) (x : Ctx) (f : Fetched) : Dev :=
  (d.takeHead x f).modCq c (fun q => { q with flights := q.flights ++ [x.flightOf f] })

/-- A core that runs a chunk: its context names it, and its queue stands in the table. -/
theorem ctx?_core {d : Dev} {c : Nat} {x : Ctx} (h : d.ctx? c = some x) : x.c = c ∧ c < d.cqs.length := by
  unfold Dev.ctx? at h
  split at h
  · cases h
  next hrun =>
    refine ⟨?_, lt_of_cq_ne (·.run) (by simp [hrun])⟩
    split at h
    · cases h
    · dsimp only at h
      split at h
      · cases h; rfl
      · cases h

/-- A command that may issue does. -/
theorem issue?_of_issues {d : Dev} {c op : Nat} {x : Ctx} {f : Fetched} (h : d.issues c op x f) :
    d.issue? c op = some (x, x.flightOf f, d.issued c x f) := by
  obtain ⟨hx, hf, hearly, hop, horder, hend⟩ := h
  have hfree : (d.cq c).flights.find? (fun g => cmdOp g.bytes == op && !g.ended) = none := by
    refine List.find?_eq_none.2 fun g hg => ?_
    rcases Bool.or_eq_true _ _ ▸ List.all_eq_true.1 hend g hg with hne | hended
    · simp [bne_iff_ne.1 hne]
    · simp [hended]
  simp only [Dev.issue?, hx, hfree, hf, hearly, hop, horder]
  simp [Ctx.flightOf, Dev.issued]

/-- The counting of an underrun changes registers alone. -/
theorem underrun_eq (q : Cq) : ∃ r : CqRegs, q.underrun = { q with regs := r } ∧ r.exec = q.regs.exec := by
  unfold Cq.underrun
  split
  · exact ⟨q.regs, rfl, rfl⟩
  · exact ⟨_, rfl, rfl⟩

/-- What an issue makes of its queue: the command stands in flight, and the rest that commands work on is as it was. -/
structure Cq.Issued (q q' : Cq) (x : Ctx) (f : Fetched) : Prop where
  exec : q'.regs.exec = q.regs.exec
  fetched : q'.fetched = q.fetched.tail
  next : q'.next = f.idx + 1
  flights : q'.flights = q.flights ++ [x.flightOf f]
  cpls : q'.cpls = q.cpls
  wait : q'.wait = q.wait
  heldFlags : q'.heldFlags = q.heldFlags
  pend : q'.pend = q.pend
  log : q'.log = q.log

theorem issued_eq_modCq {d : Dev} {c : Nat} {x : Ctx} (hx : x.c = c) (f : Fetched) :
    ∃ g : Cq → Cq, d.issued c x f = d.modCq c g ∧ ∀ q : Cq, q.Issued (g q) x f := by
  subst hx
  rw [Dev.issued, Dev.takeHead, modCq_modCq]
  refine ⟨_, rfl, fun q => ?_⟩
  simp only [Function.comp_apply]
  split
  · obtain ⟨r, hr, hexec⟩ := underrun_eq { q with
      fetched := q.fetched.tail, next := f.idx + 1, frozenAt := if q.frozenAt == some f.idx then none else q.frozenAt }
    rw [hr]
    exact ⟨hexec, rfl, rfl, rfl, rfl, rfl, rfl, rfl, rfl⟩
  · exact ⟨rfl, rfl, rfl, rfl, rfl, rfl, rfl, rfl, rfl⟩

/-! ### Completion at issue (R140, R142, R145) -/

/-- A queue after a completion with STATUS OK and no CFLAGS; `ts` is the time and `tr` the trace records of the command. -/
def Cq.completed (q : Cq) (bs : List Byte) (ts : BitVec 64) (tr : List (Option (BitVec 16) × Bool × List Byte)) : Cq :=
  { q with
    regs := { q.regs with exec := q.regs.exec + 1 }
    brkDue := q.brkDue || (q.regs.brkCountEn && q.regs.exec + 1 == q.regs.brkCount)
    cpls := q.cpls ++ (if bitOf (cmdFlags bs) 7 then [⟨ts, cmdTag bs, 0, 0⟩] else [])
    trace := q.trace ++ tr
    lastTag := cmdTag bs
    run := q.run.map (fun r => { r with deadlock := 0 }) }

/-- A completion with STATUS OK writes no record and changes its own queue alone. -/
theorem complete_ok (d : Dev) (x : Ctx) (bs : List Byte) :
    ∃ tr, d.complete x bs stOk 0 none = d.modCq x.c (fun q => q.completed bs d.now tr) := by
  refine ⟨d.commandTrace x bs stOk 0 ((d.cq x.c).regs.exec + 1), ?_⟩
  have hbad : d.badRecord x bs stOk none = d := if_pos (by simp)
  simp only [Dev.complete, hbad, Dev.restartDeadlock, modCq_modCq]
  refine modCq_congr ?_
  cases hb : bitOf (cmdFlags bs) 7 <;> simp [Cq.completed, hb, stOk]

/-- A command that completes as it issues leaves the flights. -/
theorem completeNow_flightOf (d : Dev) (x : Ctx) (f : Fetched) : ∃ tr, d.completeNow x (x.flightOf f) = d.modCq x.c (fun q =>
    { q with flights := q.flights.filter (fun g => g.idx != f.idx) }.completed (x.resolve f.bytes) d.now tr) := by
  obtain ⟨tr, htr⟩ := complete_ok (d.modCq x.c (fun q => { q with flights := q.flights.filter (fun g => g.idx != f.idx) })) x
    (x.resolve f.bytes)
  exact ⟨tr, htr.trans (modCq_modCq ..)⟩

/-- An opcode without an address field: its commands stand in flight as they were fetched. -/
theorem resolve_of_no_addr (x : Ctx) {bs : List Byte} (h : addrOffs (cmdOp bs) = []) : x.resolve bs = bs := by
  rw [Ctx.resolve, h]
  exact ite_self _

@[simp] theorem completeNow_mem (d : Dev) (x : Ctx) (fl : Flight) : (d.completeNow x fl).mem = d.mem :=
  (completeNow_only d x fl).same .mem rfl
@[simp] theorem completeNow_sites (d : Dev) (x : Ctx) (fl : Flight) : (d.completeNow x fl).sites = d.sites :=
  (completeNow_only d x fl).same .sites rfl

/-- From `d` to `e`, core `c` has taken its next command `f`, which has still to complete, and holds these events; the other queues and
the clock stand. -/
structure Dev.Taken (d e : Dev) (c : Nat) (f : Fetched) (held : List HeldFlag) : Prop where
  present : c < e.cqs.length
  bt : e.bt = d.bt
  exec : (e.cq c).regs.exec = (d.cq c).regs.exec
  fetched : (e.cq c).fetched = (d.cq c).fetched.tail
  next : (e.cq c).next = f.idx + 1
  cpls : (e.cq c).cpls = (d.cq c).cpls
  heldFlags : (e.cq c).heldFlags = held
  others : d.sameOthers e c

/-- A command taken stays so in what touches no queue. -/
theorem Dev.Taken.of_cqs {d e e' : Dev} {c : Nat} {f : Fetched} {held : List HeldFlag} (h : d.Taken e c f held) (hcqs : e'.cqs = e.cqs)
    (hbt : e'.bt = e.bt) : d.Taken e' c f held := by
  have hcq := cq_of_cqs hcqs
  exact ⟨hcqs ▸ h.present, hbt.trans h.bt, hcq c ▸ h.exec, hcq c ▸ h.fetched, hcq c ▸ h.next, hcq c ▸ h.cpls, hcq c ▸ h.heldFlags,
    fun k hk => (hcq k).trans (h.others k hk)⟩

/-- A command taken stays so in an update of its queue that leaves the counts and what was fetched. -/
theorem Dev.Taken.modCq {d e : Dev} {c : Nat} {f : Fetched} {held : List HeldFlag} (h : d.Taken e c f held) {g : Cq → Cq}
    (hg : ∀ q, (g q).regs.exec = q.regs.exec ∧ (g q).fetched = q.fetched ∧ (g q).next = q.next ∧ (g q).cpls = q.cpls) :
    d.Taken (e.modCq c g) c f (g (e.cq c)).heldFlags := by
  have hq := cq_modCq_same e g h.present
  obtain ⟨hexec, hfetched, hnext, hcpls⟩ := hg (e.cq c)
  exact ⟨by simpa using h.present, h.bt, by rw [hq, hexec, h.exec], by rw [hq, hfetched, h.fetched], by rw [hq, hnext, h.next],
    by rw [hq, hcpls, h.cpls], by rw [hq], fun k hk => (cq_modCq_other e g (Ne.symm hk)).trans (h.others k hk)⟩

/-- Its completion makes it a completed command. -/
theorem Dev.Taken.completes {d e : Dev} {c : Nat} {x : Ctx} {f : Fetched} {held : List HeldFlag} (h : d.Taken e c f held) (hx : x.c = c)
    (ha : addrOffs (cmdOp f.bytes) = []) : let d' := e.completeNow x (x.flightOf f)
    d.completes d' c f ∧ d.sameOthers d' c ∧ (d'.cq c).heldFlags = held := by
  subst hx
  obtain ⟨tr, htr⟩ := completeNow_flightOf e x f
  have hnow : e.now = d.now := by rw [Dev.now, h.bt, Dev.now]
  rw [htr, resolve_of_no_addr x ha, hnow]
  refine ⟨?_, fun k hk => (cq_modCq_other e _ (Ne.symm hk)).trans (h.others k hk), ?_⟩
  · rw [Dev.completes, cq_modCq_same e _ h.present]
    exact ⟨congrArg (· + 1) h.exec, h.fetched, h.next, rfl, congrArg (· ++ _) h.cpls⟩
  · rw [cq_modCq_same e _ h.present]
    exact h.heldFlags

/-- A command that may issue is taken. -/
theorem issued_taken {d : Dev} {c op : Nat} {x : Ctx} {f : Fetched} (h : d.issues c op x f) :
    d.Taken (d.issued c x f) c f (d.cq c).heldFlags := by
  obtain ⟨hx, hc⟩ := ctx?_core h.1
  obtain ⟨g, hg, hiss⟩ := issued_eq_modCq (d := d) hx f
  have hq := cq_modCq_same d g hc
  have hi := hiss (d.cq c)
  rw [hg]
  exact ⟨by simpa using hc, rfl, by rw [hq, hi.exec], by rw [hq, hi.fetched], by rw [hq, hi.next], by rw [hq, hi.cpls],
    by rw [hq, hi.heldFlags], fun k hk => cq_modCq_other d g (Ne.symm hk)⟩

end Sys2Proof.Machine
end

section
/-! SUPPORT. The sequencer's commands (R134, R139, R141, R145, R388). -/

namespace Sys2Proof.Machine

/-! ### A command taken -/

section
variable {d : Dev} {c op : Nat} {x : Ctx} {f : Fetched} (h : d.issues c op x f)
include h

/-- A command that completes as it issues is an update of its queue that leaves what it waits for. -/
theorem issue_completeNow_eq : ∃ g : Cq → Cq, (d.issued c x f).completeNow x (x.flightOf f) = d.modCq c g ∧
    ∀ q, (g q).wait = q.wait := by
  obtain ⟨hx, -⟩ := ctx?_core h.1
  obtain ⟨g, hg, hiss⟩ := issued_eq_modCq (d := d) hx f
  obtain ⟨tr, htr⟩ := completeNow_flightOf (d.issued c x f) x f
  rw [htr, hg, hx, modCq_modCq]
  exact ⟨_, rfl, fun q => (hiss q).wait⟩

/-- A command without an address field that completes as it issues does nothing else. -/
theorem issue_completeNow (ha : addrOffs op = []) : let e := (d.issued c x f).completeNow x (x.flightOf f)
    d.completes e c f ∧ e = { d with cqs := e.cqs } ∧ d.sameOthers e c := by
  have ⟨hx, _, _, hop, _⟩ := h
  obtain ⟨hdone, hothers, -⟩ := (issued_taken h).completes (ctx?_core hx).1 (hop ▸ ha)
  obtain ⟨g, hg, -⟩ := issue_completeNow_eq h
  exact ⟨hdone, by rw [hg]; rfl, hothers⟩
end

/-! ### NOP, QFENCE and MARK (R134, R139, R388) -/

/-- The next command of opcode `op` completes as it issues, and nothing else happens. -/
def Dev.completeNext (d : Dev) (c op : Nat) : Dev :=
  match d.issue? c op with
  | none => d
  | some (x, fl, d) => d.completeNow x fl

theorem nop_eq_completeNext (c : Fin 72) (d : Dev) : nop c d = d.completeNext c.val 0x00 := rfl
theorem qfence_eq_completeNext (c : Fin 72) (d : Dev) : qfence c d = d.completeNext c.val 0x03 := rfl
theorem mark_eq_completeNext (c : Fin 72) (d : Dev) : mark c d = d.completeNext c.val 0x60 := rfl

theorem completeNext_completes {d : Dev} {c op : Nat} {x : Ctx} {f : Fetched} (h : d.issues c op x f) (ha : addrOffs op = []) :
    let d' := d.completeNext c op
    d.completes d' c f ∧ d' = { d with cqs := d'.cqs } ∧ d.sameOthers d' c := by
  simp only [Dev.completeNext, issue?_of_issues h]
  exact issue_completeNow h ha

/-! ### WAITB (R139) -/

section
variable {d : Dev} {c : Fin 72} {x : Ctx} {f : Fetched} (h : d.issues c.val 0x02 x f)
include h

theorem waitb_eq : waitb c d =
    let off := x.p.stepOff x.chunk.step + fld f.bytes 8 8
    let e := (d.issued c.val x f).completeNow x (x.flightOf f)
    if d.offReached x.p.base off then e else e.modCq c.val (fun q => { q with wait := .beat x.p.base off }) := by
  have ⟨_, _, _, hop, _⟩ := h
  have hissue : d.issue? c.val opWaitb = _ := issue?_of_issues h
  have hbytes : (x.flightOf f).bytes = f.bytes := resolve_of_no_addr x (by rw [hop]; rfl)
  obtain ⟨g, hg, -⟩ := issue_completeNow_eq h
  have hage : ∀ off, ((d.issued c.val x f).completeNow x (x.flightOf f)).offReached x.p.base off = d.offReached x.p.base off := by
    intro off; rw [hg]; rfl
  simp only [waitb, hissue, hbytes, hage]
  rfl

theorem waitb_completes : let d' := waitb c d
    d.completes d' c.val f ∧ d' = { d with cqs := d'.cqs } ∧ d.sameOthers d' c.val ∧
    (d'.cq c.val).wait = if d.offReached x.p.base (x.p.stepOff x.chunk.step + fld f.bytes 8 8) then (d.cq c.val).wait
      else .beat x.p.base (x.p.stepOff x.chunk.step + fld f.bytes 8 8) := by
  obtain ⟨hdone, hframe, hothers⟩ := issue_completeNow h rfl
  obtain ⟨g, hg, hkeep⟩ := issue_completeNow_eq h
  have hpresent : c.val < ((d.issued c.val x f).completeNow x (x.flightOf f)).cqs.length := by
    rw [hg, modCq_length]
    exact (ctx?_core h.1).2
  simp only [waitb_eq h]
  split
  next hr =>
    exact ⟨hdone, hframe, hothers, by rw [hg, cq_modCq_view (·.wait) hkeep]⟩
  next hr =>
    refine ⟨?_, by rw [hg]; rfl, fun k hk => (cq_modCq_other _ _ (Ne.symm hk)).trans (hothers k hk), by rw [cq_modCq_same _ _ hpresent]⟩
    rw [Dev.completes, cq_modCq_same _ _ hpresent]
    exact hdone
end

/-! ### Flags of a site (R141) -/

theorem getLsbD_flagBit (f k : Nat) : (BitVec.ofNat 64 (2 ^ f)).getLsbD k = (decide (k < 64) && decide (f = k)) := by
  rw [BitVec.getLsbD_ofNat, Nat.testBit_two_pow]

theorem flagSet_setFlag (d : Dev) {site : Nat} (h : site < d.sites.length) (f : Nat) :
    (d.setFlag site f).flagSet site f = decide (f < 64) := by
  rw [Dev.flagSet, Dev.setFlag, Dev.modCcr, site_modSite_same d _ h, Ccr.flagsNow]
  by_cases hf : f < 64
  · simp only [BitVec.getLsbD_or, getLsbD_flagBit, hf, decide_true, Bool.and_self, Bool.or_true]
  · rw [BitVec.getLsbD_of_ge _ _ (Nat.le_of_not_lt hf), decide_eq_false hf]

/-- A flag that is up stands in the table of the sites. -/
theorem lt_of_flagUp {d : Dev} {site f : Nat} (h : d.flagUp site f = true) : site < d.sites.length ∧ f < 64 := by
  constructor
  · by_contra hs
    rw [Dev.flagUp, Dev.site, List.getD_eq_default _ _ (Nat.le_of_not_lt hs)] at h
    simp at h
  · by_contra hf
    rw [Dev.flagUp, BitVec.getLsbD_of_ge _ _ (Nat.le_of_not_lt hf)] at h
    cases h

/-- A flag cleared is down, every other one is as it was, and those set in the present cycle stand. -/
theorem clearFlag_flags (d : Dev) {site : Nat} (h : site < d.sites.length) (f : Nat) :
    (d.clearFlag site f).flagUp site f = false ∧
    (∀ k, k ≠ f → (d.clearFlag site f).flagUp site k = d.flagUp site k) ∧
    ((d.clearFlag site f).site site).ccr.flagsSet = (d.site site).ccr.flagsSet := by
  have hup : ∀ k, (d.clearFlag site f).flagUp site k = (d.flagUp site k && (decide (k < 64) && !decide (f = k))) := by
    intro k
    rw [Dev.flagUp, Dev.clearFlag, Dev.modCcr, site_modSite_same d _ h, BitVec.getLsbD_and, BitVec.getLsbD_not, getLsbD_flagBit, Dev.flagUp]
    cases decide (k < 64) <;> rfl
  refine ⟨by simp [hup], fun k hk => ?_, by rw [Dev.clearFlag, Dev.modCcr, site_modSite_same d _ h]⟩
  rw [hup, decide_eq_false (Ne.symm hk), Bool.not_false, Bool.and_true, Bool.and_eq_left_iff_imp]
  exact fun hk => decide_eq_true (lt_of_flagUp hk).2

theorem site_of_sites {d e : Dev} (h : e.sites = d.sites) (n : Nat) : e.site n = d.site n := by
  rw [Dev.site, h, Dev.site]

/-! ### EVSEND and EVWAIT (R139, R141) -/

/-- What is noted of an event sent to a flag that is already set. -/
def Dev.notedTwice (d : Dev) (x : Ctx) (f : Fetched) : Dev :=
  if d.flagSet x.site (fld f.bytes 9 1) then d.eventTwice (cmdTag f.bytes) (siteUnit x.site) (fld f.bytes 9 1) x.core else d

theorem notedTwice_only (d : Dev) (x : Ctx) (f : Fetched) : Only [.chans, .msix, .health, .stm, .trc] d (d.notedTwice x f) :=
  Only.ite (eventTwice_only ..) (Only.refl _ _)

section
variable {d : Dev} {c : Fin 72} {x : Ctx} {f : Fetched}

section
variable (h : d.issues c.val 0x04 x f)
include h

/-- The own core's EVSEND, before it completes. -/
theorem evsend_own (ht : fld f.bytes 8 1 = 0xFF ∨ fld f.bytes 8 1 = x.core) : evsend c d =
    ((((d.issued c.val x f).notedTwice x f).setFlag x.site (fld f.bytes 9 1)).restartDeadlock c.val).completeNow x (x.flightOf f) := by
  have ⟨_, _, _, hop, _⟩ := h
  have hissue : d.issue? c.val opEvsend = _ := issue?_of_issues h
  have hbytes : (x.flightOf f).bytes = f.bytes := resolve_of_no_addr x (by rw [hop]; rfl)
  simp only [evsend, hissue, hbytes]
  exact if_pos (by simpa using ht)

/-- An EVSEND to another core holds the event. -/
theorem evsend_other (ht : ¬ (fld f.bytes 8 1 = 0xFF ∨ fld f.bytes 8 1 = x.core)) : evsend c d =
    ((d.issued c.val x f).modCq c.val (fun q => { q with heldFlags := q.heldFlags ++
      [⟨x.p.devCore (fld f.bytes 8 1), fld f.bytes 9 1, cmdTag f.bytes, fld f.bytes 8 1, siteUnit x.site, true⟩] })).completeNow x
        (x.flightOf f) := by
  have ⟨_, _, _, hop, _⟩ := h
  have hissue : d.issue? c.val opEvsend = _ := issue?_of_issues h
  have hbytes : (x.flightOf f).bytes = f.bytes := resolve_of_no_addr x (by rw [hop]; rfl)
  simp only [evsend, hissue, hbytes]
  exact if_neg (by simpa using ht)

theorem evsend_own_completes (hs : x.site < d.sites.length) (ht : fld f.bytes 8 1 = 0xFF ∨ fld f.bytes 8 1 = x.core) :
    let d' := evsend c d
    d.completes d' c.val f ∧ d'.flagSet x.site (fld f.bytes 9 1) = decide (fld f.bytes 9 1 < 64) ∧ d'.mem = d.mem ∧
      d.sameOthers d' c.val ∧ (d'.cq c.val).heldFlags = (d.cq c.val).heldFlags := by
  have ⟨hx, _, _, hop, _⟩ := h
  have hnoted := notedTwice_only (d.issued c.val x f) x f
  have hcqs : (((d.issued c.val x f).notedTwice x f).setFlag x.site (fld f.bytes 9 1)).cqs = (d.issued c.val x f).cqs :=
    hnoted.same .cqs rfl
  have hsites : ((d.issued c.val x f).notedTwice x f).sites = d.sites := hnoted.same .sites rfl
  have hmem : ((d.issued c.val x f).notedTwice x f).mem = d.mem := hnoted.same .mem rfl
  have htaken := ((issued_taken h).of_cqs hcqs (hnoted.same .bt rfl)).modCq
    (g := fun q => { q with run := q.run.map (fun r => { r with deadlock := 0 }) }) fun q => ⟨rfl, rfl, rfl, rfl⟩
  obtain ⟨hdone, hothers, hheld⟩ := htaken.completes (ctx?_core hx).1 (by rw [hop]; rfl)
  rw [evsend_own h ht]
  refine ⟨hdone, ?_, (completeNow_mem ..).trans hmem, hothers, hheld.trans ?_⟩
  · rw [Dev.flagSet, site_of_sites (completeNow_sites ..), ← Dev.flagSet]
    exact flagSet_setFlag _ (by rw [hsites]; exact hs) _
  · exact ((issued_taken h).of_cqs hcqs (hnoted.same .bt rfl)).heldFlags

theorem evsend_other_completes (ht : ¬ (fld f.bytes 8 1 = 0xFF ∨ fld f.bytes 8 1 = x.core)) :
    let d' := evsend c d
    d.completes d' c.val f ∧ d' = { d with cqs := d'.cqs } ∧ d.sameOthers d' c.val ∧
      (d'.cq c.val).heldFlags = (d.cq c.val).heldFlags ++
        [⟨x.p.devCore (fld f.bytes 8 1), fld f.bytes 9 1, cmdTag f.bytes, fld f.bytes 8 1, siteUnit x.site, true⟩] := by
  have ⟨hx, _, _, hop, _⟩ := h
  have htaken := (issued_taken h).modCq (g := fun q => { q with heldFlags := q.heldFlags ++
    [⟨x.p.devCore (fld f.bytes 8 1), fld f.bytes 9 1, cmdTag f.bytes, fld f.bytes 8 1, siteUnit x.site, true⟩] })
    fun q => ⟨rfl, rfl, rfl, rfl⟩
  obtain ⟨hdone, hothers, hheld⟩ := htaken.completes (ctx?_core hx).1 (by rw [hop]; rfl)
  rw [evsend_other h ht]
  refine ⟨hdone, ?_, hothers, hheld.trans (congrArg (· ++ _) (issued_taken h).heldFlags)⟩
  obtain ⟨tr, htr⟩ := completeNow_flightOf ((d.issued c.val x f).modCq c.val (fun q => { q with heldFlags := q.heldFlags ++
    [⟨x.p.devCore (fld f.bytes 8 1), fld f.bytes 9 1, cmdTag f.bytes, fld f.bytes 8 1, siteUnit x.site, true⟩] })) x f
  rw [htr]
  rfl
end

section
variable (h : d.issues c.val 0x05 x f)
include h

/-- EVWAIT asks for its flag before it is taken. -/
theorem evwait_eq : evwait c d =
    if d.flagUp x.site (fld f.bytes 8 1) then ((d.issued c.val x f).clearFlag x.site (fld f.bytes 8 1)).completeNow x (x.flightOf f)
    else d := by
  have ⟨_, _, _, hop, _⟩ := h
  have hissue : d.issue? c.val opEvwait = _ := issue?_of_issues h
  have hbytes : (x.flightOf f).bytes = f.bytes := resolve_of_no_addr x (by rw [hop]; rfl)
  simp only [evwait, hissue, hbytes]
  rfl

theorem evwait_up (hup : d.flagUp x.site (fld f.bytes 8 1) = true) : let d' := evwait c d
    d.completes d' c.val f ∧ d'.flagUp x.site (fld f.bytes 8 1) = false ∧
      (∀ k : Fin 64, k.val ≠ fld f.bytes 8 1 → d'.flagUp x.site k.val = d.flagUp x.site k.val) ∧
      (d'.site x.site).ccr.flagsSet = (d.site x.site).ccr.flagsSet ∧ d'.mem = d.mem ∧ d.sameOthers d' c.val := by
  have ⟨hx, _, _, hop, _⟩ := h
  have htaken := (issued_taken h).of_cqs (e' := (d.issued c.val x f).clearFlag x.site (fld f.bytes 8 1)) rfl rfl
  obtain ⟨hdone, hothers, -⟩ := htaken.completes (ctx?_core hx).1 (by rw [hop]; rfl)
  obtain ⟨hdown, hkeep, hset⟩ := clearFlag_flags (d.issued c.val x f) (lt_of_flagUp hup).1 (fld f.bytes 8 1)
  have hsite := site_of_sites (completeNow_sites ((d.issued c.val x f).clearFlag x.site (fld f.bytes 8 1)) x (x.flightOf f)) x.site
  rw [evwait_eq h, if_pos hup]
  refine ⟨hdone, ?_, fun k hk => ?_, by rw [hsite]; exact hset, completeNow_mem .., hothers⟩
  · rw [Dev.flagUp, hsite]; exact hdown
  · rw [Dev.flagUp, hsite]; exact hkeep k.val hk
end
end

/-- Settles O29: a command that completes as it issues is one update of its queue, and the flags are those of its site. -/
theorem sequencerCommandsComplete : Obligations.SequencerCommandsComplete := by
  unfold Obligations.SequencerCommandsComplete
  refine ⟨?nop, ?qfence, ?mark, ?waitb, ?expiry, ?evsendOwn, ?evsendOther, ?evwaitUp, ?evwaitDown⟩
  case nop =>
    exact fun s c x f h => completes_of_run rfl (by rw [nop_eq_completeNext]; exact completeNext_completes h rfl)
  case qfence =>
    exact fun s c x f h => completes_of_run rfl (by rw [qfence_eq_completeNext]; exact completeNext_completes h rfl)
  case mark =>
    exact fun s c x f h => completes_of_run rfl (by rw [mark_eq_completeNext]; exact completeNext_completes h rfl)
  case waitb =>
    exact fun s c x f h => completes_of_run rfl (waitb_completes h)
  case expiry =>
    intro s c b off hw hr
    refine completes_of_run rfl ?_
    simp only [waitbExpiry, hw, hr, if_true]
  case evsendOwn =>
    exact fun s c x f h hs ht => completes_of_run rfl (evsend_own_completes h hs ht)
  case evsendOther =>
    exact fun s c x f h hff hcore => completes_of_run rfl (evsend_other_completes h (not_or.2 ⟨hff, hcore⟩))
  case evwaitUp =>
    exact fun s c x f h hup => completes_of_run rfl (evwait_up h hup)
  case evwaitDown =>
    intro s c x f h hdown
    exact completes_of_run rfl ((evwait_eq h).trans (if_neg (by simp [hdown])))

end Sys2Proof.Machine
end

section
/-! SUPPORT. Slots, TAIL and fetch (R125 to R128, R137, R138). -/

namespace Sys2Proof.Machine

/-! ### Slots (R126 to R128) -/

/-- Consecutive cells make one run. -/
theorem runsOf_cellsFrom (a : Nat) (b : Byte) (bs : List Byte) : runsOf (cellsFrom a (b :: bs)) = [(a, b :: bs)] := by
  induction bs generalizing a b with
  | nil => rfl
  | cons b' bs ih =>
    rw [cellsFrom, runsOf, ih (a + 1) b']
    exact if_pos rfl

theorem memPutCells_cellsFrom (m : List Host.Cell) (a : Nat) (bs : List Byte) :
    memPutCells m (cellsFrom a bs) = if bs = [] then m else memPutAll m a bs := by
  cases bs with
  | nil => rfl
  | cons b bs => rw [memPutCells, runsOf_cellsFrom, if_neg (List.cons_ne_nil b bs)]; rfl

/-- Bytes into free slots are written, and no bit is raised. -/
theorem slotBytes_free {q : Cq} {o : Nat} {bs : List Byte} (ho : o + bs.length ≤ 65536)
    (hfree : ∀ i : Fin 1024, q.regs.slotBusy i.val = false) :
    slotBytes q o bs = { q with slots := if bs = [] then q.slots else memPutAll q.slots o bs } := by
  have hall : (cellsFrom o bs).filter (fun c => !q.regs.slotBusy (c.1 / 64)) = cellsFrom o bs := by
    refine List.filter_eq_self.2 fun c hc => ?_
    have hlt := (mem_cellsFrom hc).2
    rw [hfree ⟨c.1 / 64, by omega⟩, Bool.not_false]
  simp only [slotBytes, hall, if_true, memPutCells_cellsFrom]

/-- A byte into a busy slot is dropped and raises SLOT_BUSY (R128). -/
theorem slotBytes_busy {q : Cq} {o : Nat} (hbusy : q.regs.slotBusy (o / 64) = true) (b : Byte) :
    slotBytes q o [b] = { q with regs := { q.regs with err := q.regs.err.raise 2 } } := by
  simp [slotBytes, cellsFrom, hbusy, memPutCells, runsOf]

/-- A queue without published entries, as is one outside the table, holds no busy slot. -/
theorem lt_of_slotBusy {d : Dev} {k i : Nat} (hbusy : (d.cq k).regs.slotBusy i = true) : k < d.cqs.length :=
  lt_of_cq_ne (·.regs.slotBusy i) (by rw [hbusy]; simp [CqRegs.slotBusy, CqRegs.held])

section
variable {d : Dev} {func : Fin 5} {win : Fin 72} {k : Nat} (hk : d.queueOf func.val win.val = some k)
include hk

theorem commandSlotWrite_owned (howned : d.owned k = true) {off : Fin 65536} {data : List Byte} (hoff : off.val + data.length ≤ 65536) :
    commandSlotWrite func win off data d = d.modCq k (fun q => slotBytes q off.val data) := by
  simp only [commandSlotWrite, hk, howned, hoff, decide_true, Bool.and_self, if_true]

theorem commandSlotWrite_unowned (howned : d.owned k = false) (off : Fin 65536) (data : List Byte) :
    commandSlotWrite func win off data d = d := by
  simp [commandSlotWrite, hk, howned]

/-! ### TAIL (R127, R128) -/

theorem cqTailWrite_owned (howned : d.owned k = true) (hup : d.pwr.pcieUp = true) (val : BitVec 64) :
    cqTailWrite func win val d = d.modCq k (fun q => q.writeTail (val.setWidth 32)) := by
  simp [cqTailWrite, hk, howned, hup]
end

theorem writeTail_within {q : Cq} {v : BitVec 32} (h : (v - q.regs.tail).toNat ≤ q.regs.credit) : q.writeTail v = q.publish v :=
  if_neg (Nat.not_lt.2 h)

theorem writeTail_beyond {q : Cq} {v : BitVec 32} (h : q.regs.credit < (v - q.regs.tail).toNat) : q.writeTail v =
    { q with
      regs := { q.regs with err := q.regs.err.raise 1 }
      tailNow := some (match q.tailNow with | some t => (t.1 ++ [v], t.2) | none => ([v], q.regs.err)) } :=
  if_pos h

/-! ### Fetch (R137, R138) -/

/-- A queue with an entry to fetch stands in the table. -/
theorem lt_of_entry {d : Dev} {c i : Nat} {bs : List Byte} (h : (d.cq c).entries[i]? = some bs) : c < d.cqs.length :=
  lt_of_cq_ne (·.entries) (by rintro h0; rw [show (d.cq c).entries = [] from h0] at h; cases h)

/-- A halt at fetch stops the queue, and what was fetched and memory are as they were. -/
theorem fetchHalt_halts {d : Dev} {c : Nat} (hc : c < d.cqs.length) (die : Nat) (tag : BitVec 32) (detail : List (Nat × List Byte)) :
    let d' := d.fetchHalt c die tag detail
    (d'.cq c).regs.halted = true ∧ (d'.cq c).fetched = (d.cq c).fetched ∧ d'.mem = d.mem := by
  have hq : ∀ r, ((d.haltQueue c).writeRecord r).cq c = { d.cq c with regs := { (d.cq c).regs with halted := true } } := fun r =>
    (cq_of_cqs (writeRecord_cqs ..) c).trans (cq_modCq_same d _ hc)
  exact ⟨congrArg (·.regs.halted) (hq _), congrArg (·.fetched) (hq _), writeRecord_mem ..⟩

section
variable {d : Dev} {c : Fin 72} {p : Plan} {bs : List Byte} (hp : d.planOf c.val = some p) (hsite : d.siteOf.getD c.val 0xFF < 80)
  (hrun : (d.cq c.val).regs.halted = false)
  (he : (d.cq c.val).entries[((d.cq c.val).regs.head - (d.cq c.val).regs.retire).toNat]? = some bs)
include hp hsite hrun he

/-- An entry of the index that the queue expects is fetched with the outcome of checks 3 and 4. -/
theorem commandFetch_expected (htag : (cmdTag bs).toNat % 2 ^ 20 = (d.cq c.val).regs.head.toNat % 2 ^ 20) :
    commandFetch c .good d = d.modCq c.val (fun q => { q with
      fetched := q.fetched ++ [⟨q.regs.head.toNat, bs, fetchEarly p.img.nCores (d.isRoot bs) bs⟩]
      regs := { q.regs with head := q.regs.head + 1, underrunNow := false } }) := by
  simp only [commandFetch, hp, he, hrun, Nat.not_le.2 hsite, htag, decide_false, Bool.or_self, Bool.false_eq_true, if_false, reduceCtorEq,
    ne_eq, not_true_eq_false]
  exact modCq_congr rfl

/-- Any other one halts the queue (check 2). -/
theorem commandFetch_unexpected (htag : (cmdTag bs).toNat % 2 ^ 20 ≠ (d.cq c.val).regs.head.toNat % 2 ^ 20) :
    ∃ detail, commandFetch c .good d = d.fetchHalt c.val (d.siteOf.getD c.val 0xFF / 5) (cmdTag bs) detail := by
  refine ⟨[(32, [2]), (36, bytesLE 4 ((d.cq c.val).regs.head.toNat % 2 ^ 20)), (40, bytesLE 4 (cmdTag bs).toNat)], ?_⟩
  simp only [commandFetch, hp, he, hrun, Nat.not_le.2 hsite, decide_false, Bool.or_self, Bool.false_eq_true, if_false, reduceCtorEq]
  exact if_pos htag

/-- So do parity errors in both copies (check 1). -/
theorem commandFetch_bothBad : commandFetch c .bothBad d =
    d.fetchHalt c.val (d.siteOf.getD c.val 0xFF / 5) 0xFFFFFFFF [(32, [1])] := by
  simp only [commandFetch, hp, he, hrun, Nat.not_le.2 hsite, decide_false, Bool.or_self, Bool.false_eq_true, if_false]
end

/-- Settles O28: each write and each fetch is one update of the queue that it names, and a halt leaves what was fetched. -/
theorem commandsArePublishedAndFetched : Obligations.CommandsArePublishedAndFetched := by
  unfold Obligations.CommandsArePublishedAndFetched
  refine ⟨?free, ?unowned, ?busy, ?within, ?beyond, ?expected, ?bothBad, ?unexpected⟩
  case free =>
    intro s func win off data k hk howned hoff hfree
    refine completes_of_run rfl ?_
    rw [commandSlotWrite_owned hk howned hoff]
    exact modCq_congr (slotBytes_free hoff hfree)
  case unowned =>
    exact fun s func win off data k hk howned => completes_of_run rfl (commandSlotWrite_unowned hk howned off data)
  case busy =>
    intro s func win off b k hk howned hbusy
    refine completes_of_run rfl ?_
    have hoff : off.val + [b].length ≤ 65536 := off.isLt
    rw [commandSlotWrite_owned hk howned hoff, cq_modCq_same _ _ (lt_of_slotBusy hbusy), slotBytes_busy hbusy]
    exact ⟨getLsbD_raise _ 1 (by decide), rfl, rfl⟩
  case within =>
    intro s func win val k hk howned hup hcredit
    refine completes_of_run rfl ?_
    rw [cqTailWrite_owned hk howned hup]
    exact modCq_congr (writeTail_within hcredit)
  case beyond =>
    intro s func win val k hk howned hup hcredit
    refine completes_of_run rfl ?_
    rw [cqTailWrite_owned hk howned hup]
    exact modCq_congr (writeTail_beyond hcredit)
  case expected =>
    exact fun s c p bs hp hsite hrun he htag => completes_of_run rfl (commandFetch_expected hp hsite hrun he htag)
  case bothBad =>
    intro s c p bs hp hsite hrun he
    refine completes_of_run rfl ?_
    rw [commandFetch_bothBad hp hsite hrun he]
    exact fetchHalt_halts (lt_of_entry he) ..
  case unexpected =>
    intro s c p bs hp hsite hrun he htag
    refine completes_of_run rfl ?_
    obtain ⟨detail, hhalt⟩ := commandFetch_unexpected hp hsite hrun he htag
    rw [hhalt]
    exact fetchHalt_halts (lt_of_entry he) ..

end Sys2Proof.Machine
end

section
/-! SUPPORT. The mover: COPY and ATOM (R134 to R136, R285 to R287). -/

namespace Sys2Proof.Machine

/-! ### Overlays written piece by piece -/

theorem cellsFrom_append (a : Nat) (bs cs : List Byte) : cellsFrom a (bs ++ cs) = cellsFrom a bs ++ cellsFrom (a + bs.length) cs := by
  induction bs generalizing a with
  | nil => rfl
  | cons b bs ih => simp [cellsFrom, ih, Nat.add_assoc, Nat.add_comm 1]

/-- Below its end, a write leaves the cells before its start and its own. -/
theorem cellSetAll_below (m : List Host.Cell) (a : Nat) (bs : List Byte) :
    (cellSetAll m a bs).filter (fun c => decide (c.1 < a + bs.length)) = m.filter (fun c => decide (c.1 < a)) ++ cellsFrom a bs := by
  have hlow : (m.filter (fun c => decide (c.1 < a))).filter (fun c => decide (c.1 < a + bs.length)) =
      m.filter (fun c => decide (c.1 < a)) :=
    List.filter_eq_self.2 fun c hc => decide_eq_true (Nat.lt_add_right _ (of_decide_eq_true (List.mem_filter.1 hc).2))
  have hown : (cellsFrom a bs).filter (fun c => decide (c.1 < a + bs.length)) = cellsFrom a bs :=
    List.filter_eq_self.2 fun c hc => decide_eq_true (mem_cellsFrom hc).2
  have hhigh : (m.filter (fun c => decide (a + bs.length ≤ c.1))).filter (fun c => decide (c.1 < a + bs.length)) = [] :=
    List.filter_eq_nil_iff.2 fun c hc => by simpa using (List.mem_filter.1 hc).2
  rw [cellSetAll, splice, List.filter_append, List.filter_append, hlow, hown, hhigh, List.append_nil]

/-- Behind its end, a write leaves the cells that stood there. -/
theorem cellSetAll_above (m : List Host.Cell) {a x : Nat} {bs : List Byte} (hx : a + bs.length ≤ x) :
    (cellSetAll m a bs).filter (fun c => decide (x ≤ c.1)) = m.filter (fun c => decide (x ≤ c.1)) := by
  have hlow : (m.filter (fun c => decide (c.1 < a))).filter (fun c => decide (x ≤ c.1)) = [] :=
    List.filter_eq_nil_iff.2 fun c hc => by
      have := of_decide_eq_true (List.mem_filter.1 hc).2
      simp only [decide_eq_true_eq]
      omega
  have hown : (cellsFrom a bs).filter (fun c => decide (x ≤ c.1)) = [] :=
    List.filter_eq_nil_iff.2 fun c hc => by
      have := (mem_cellsFrom hc).2
      simp only [decide_eq_true_eq]
      omega
  have hhigh : (m.filter (fun c => decide (a + bs.length ≤ c.1))).filter (fun c => decide (x ≤ c.1)) =
      m.filter (fun c => decide (x ≤ c.1)) := by
    rw [List.filter_filter]
    refine List.filter_congr fun c _ => ?_
    rw [Bool.and_eq_left_iff_imp]
    exact fun hc => decide_eq_true (hx.trans (of_decide_eq_true hc))
  rw [cellSetAll, splice, List.filter_append, List.filter_append, hlow, hown, hhigh, List.append_nil, List.nil_append]

/-- Two writes one behind the other are one write. -/
theorem cellSetAll_append (m : List Host.Cell) (a : Nat) (bs cs : List Byte) :
    cellSetAll (cellSetAll m a bs) (a + bs.length) cs = cellSetAll m a (bs ++ cs) := by
  rw [cellSetAll, splice, cellSetAll_below, cellSetAll_above m (Nat.le_add_right ..), cellSetAll, splice, cellsFrom_append,
    List.length_append, ← Nat.add_assoc, ← List.append_assoc]

@[simp] theorem cellSpan_length (m : List Host.Cell) (a n : Nat) : (cellSpan m a n).length = n := by
  rw [cellSpan]
  generalize m.dropWhile (fun c => decide (c.1 < a)) = l
  induction n generalizing l a with
  | zero => cases l <;> rfl
  | succ n ih =>
    cases l with
    | nil => rw [spanFrom, List.length_cons, ih]
    | cons e r => rw [spanFrom]; split <;> rw [List.length_cons, ih]

/-- A view holds as many bytes as were asked for. -/
@[simp] theorem view_length (d : Dev) (c a n : Nat) : (d.view c a n).length = n := by
  simp [Dev.view, viewBytes, memBytes]

/-! ### A unit of work that nothing stops -/

theorem meets_of_part {a n b m e len : Nat} (hb : a ≤ b) (hm : b + m ≤ a + n) (h : meets b m e len = true) : meets a n e len = true := by
  simp only [meets, Bool.and_eq_true, decide_eq_true_eq] at h ⊢
  omega

theorem wipeHolds_of_part {d : Dev} {a n b m : Nat} (hb : a ≤ b) (hm : b + m ≤ a + n) (h : d.wipeHolds b m = true) :
    d.wipeHolds a n = true := by
  simp only [Dev.wipeHolds, Bool.or_eq_true, Bool.and_eq_true, List.any_eq_true] at h ⊢
  rcases h with ⟨hphase, s, hs, hmeets, hwiped⟩ | ⟨j, hj, r, hr, hmeets⟩
  · exact Or.inl ⟨hphase, s, hs, meets_of_part hb hm hmeets, hwiped⟩
  · exact Or.inr ⟨j, hj, r, hr, meets_of_part hb hm hmeets⟩

theorem poisoned?_part {m : Mem} {a n b k : Nat} (h : m.poisoned? a n = none) (hb : a ≤ b) (hk : b + k ≤ a + n) :
    m.poisoned? b k = none := by
  refine List.find?_eq_none.2 fun w hw => ?_
  have := List.find?_eq_none.1 h w hw
  simp only [Bool.and_eq_true, decide_eq_true_eq, not_and] at this ⊢
  omega

/-- A part of a clean range is clean. -/
theorem clean_part {d : Dev} {a n b m : Nat} (h : d.clean [(a, n)]) (hb : a ≤ b) (hm : b + m ≤ a + n) : d.clean [(b, m)] := by
  obtain ⟨hpoison, hwipe⟩ := h (a, n) List.mem_cons_self
  refine List.forall_mem_singleton.2 ⟨poisoned?_part hpoison hb hm, ?_⟩
  rw [Bool.eq_false_iff] at hwipe ⊢
  exact fun hpart => hwipe (wipeHolds_of_part hb hm hpart)

/-- A unit of work starts no wipe and ends none. -/
theorem wipeHolds_of_only {d e : Dev} (h : Only [.cqs, .stks, .dscs] d e) (a n : Nat) : e.wipeHolds a n = d.wipeHolds a n := by
  have hpwr : e.pwr = d.pwr := h.same .pwr rfl
  have hwipes : e.wipes = d.wipes := h.same .wipes rfl
  rw [Dev.wipeHolds, hpwr, hwipes, Dev.wipeHolds]

theorem clean_of_only {d e : Dev} (h : Only [.cqs, .stks, .dscs] d e) {rs : List (Nat × Nat)} (hrs : d.clean rs) : e.clean rs := by
  have hmem : e.mem = d.mem := h.same .mem rfl
  intro r hr
  rw [hmem, wipeHolds_of_only h]
  exact hrs r hr

/-- Memory that holds no poison in a range stops neither a read nor a write of it. -/
theorem readPoison_of_clean {m : Mem} {a n : Nat} (h : m.poisoned? a n = none) (pend : List Host.Cell) : readPoison m pend a n = none := by
  refine List.find?_eq_none.2 fun w hw => ?_
  have := List.find?_eq_none.1 h w hw
  simp only [Bool.and_eq_true] at this ⊢
  exact fun hall => this hall.1

theorem writePoison_of_clean {m : Mem} {a n : Nat} (h : m.poisoned? a n = none) (pend : List Host.Cell) : writePoison m pend a n = none := by
  refine List.find?_eq_none.2 fun w hw => ?_
  have := List.find?_eq_none.1 h w hw
  simp only [Bool.and_eq_true] at this ⊢
  exact fun hall => this hall.1.1

/-- A unit of work that no wipe holds, that meets no poison and stays within the pending lines is done: its bytes are pending. -/
theorem unitWrite_done {d : Dev} {c : Nat} {reads : List (Nat × Nat)} {writes : List (Nat × List Byte)}
    (hheld : d.unitHeld reads writes = false) (hr : ∀ r ∈ reads, readPoison d.mem (d.cq c).pend r.1 r.2 = none)
    (hw : ∀ w ∈ writes, writePoison d.mem (d.cq c).pend w.1 w.2.length = none)
    (hpend : pendOk (writes.foldl (fun p w => cellSetAll p w.1 w.2) (d.cq c).pend) = true) :
    ∃ e, d.unitWrite c reads writes = (e, .done) ∧ Only [.cqs, .stks, .dscs] d e ∧
      e.cqs = (d.modCq c (fun q => { q with pend := writes.foldl (fun p w => cellSetAll p w.1 w.2) q.pend })).cqs := by
  have hreads : reads.findSome? (fun r => readPoison d.mem (d.cq c).pend r.1 r.2) = none := List.findSome?_eq_none_iff.2 hr
  have hwrites : writes.findSome? (fun r => writePoison d.mem (d.cq c).pend r.1 r.2.length) = none := List.findSome?_eq_none_iff.2 hw
  have hdone : d.unitWrite c reads writes = ((d.unitLines c reads writes).modCq c (fun q =>
      { q with pend := writes.foldl (fun p w => cellSetAll p w.1 w.2) (d.cq c).pend }), .done) := by
    simp only [Dev.unitWrite, hheld, hreads, hwrites, hpend, Bool.false_eq_true, if_false, if_true]
  refine ⟨_, hdone, ?_, ?_⟩
  · exact Only.fst hdone (unitWrite_only ..)
  · have hcqs : (d.unitLines c reads writes).cqs = d.cqs := (unitLines_only ..).same .cqs rfl
    rw [modCq_congr (d := d.unitLines c reads writes) (g := fun q =>
      { q with pend := writes.foldl (fun p w => cellSetAll p w.1 w.2) q.pend }) (by rw [cq_of_cqs hcqs]), modCq_cqs, hcqs, modCq_cqs]

/-! ### The pieces of a COPY -/

section
variable {x : Ctx} {src dst n : Nat} {data : List Byte} (hn : data.length = n)
include hn

/-- The next piece of a COPY that nothing stops. -/
theorem copyUnits_step (fuel i : Nat) {d : Dev} (fl : Flight) (hi : i * 512 ≤ n) (hsrc : d.clean [(src, n)]) (hdst : d.clean [(dst, n)])
    (hpend : pendOk (cellSetAll (d.cq x.c).pend (dst + i * 512) ((data.drop (i * 512)).take (min 512 (n - i * 512)))) = true) :
    ∃ e, copyUnits x src dst n data (fuel + 1) i d fl = copyUnits x src dst n data fuel (i + 1) e fl ∧
      Only [.cqs, .stks, .dscs] d e ∧ e.cqs = (d.modCq x.c (fun q =>
        { q with pend := cellSetAll q.pend (dst + i * 512) ((data.drop (i * 512)).take (min 512 (n - i * 512))) })).cqs := by
  have hlen : ((data.drop (i * 512)).take (min 512 (n - i * 512))).length = min 512 (n - i * 512) := by
    rw [List.length_take, List.length_drop, hn]; omega
  obtain ⟨hsp, hsw⟩ := clean_part hsrc (b := src + i * 512) (m := min 512 (n - i * 512)) (by omega) (by omega) _ List.mem_cons_self
  obtain ⟨hdp, hdw⟩ := clean_part hdst (b := dst + i * 512) (m := min 512 (n - i * 512)) (by omega) (by omega) _ List.mem_cons_self
  obtain ⟨e, hdone, honly, hcqs⟩ := unitWrite_done (d := d) (c := x.c) (reads := [(src + i * 512, min 512 (n - i * 512))])
    (writes := [(dst + i * 512, (data.drop (i * 512)).take (min 512 (n - i * 512)))])
    (by simp [Dev.unitHeld, hlen, hsw, hdw]) (List.forall_mem_singleton.2 (readPoison_of_clean hsp _))
    (List.forall_mem_singleton.2 (by rw [hlen]; exact writePoison_of_clean hdp _)) hpend
  refine ⟨e, ?_, honly, hcqs⟩
  simp only [copyUnits, copyPiece, hdone]

/-- The pieces that are left of a COPY that nothing stops: their bytes are pending. -/
theorem copyUnits_done (fuel i : Nat) {d : Dev} (fl : Flight) (hmore : (i + fuel) * 512 < n) (hlast : n ≤ (i + fuel + 1) * 512)
    (hc : x.c < d.cqs.length) (hsrc : d.clean [(src, n)]) (hdst : d.clean [(dst, n)])
    (hpend : ∀ k, pendOk (cellSetAll (d.cq x.c).pend (dst + i * 512) ((data.drop (i * 512)).take k)) = true) :
    ∃ e, copyUnits x src dst n data (fuel + 1) i d fl = (e, fl.done) ∧
      e.cqs = (d.modCq x.c (fun q => { q with pend := cellSetAll q.pend (dst + i * 512) (data.drop (i * 512)) })).cqs := by
  induction fuel generalizing i d with
  | zero =>
    obtain ⟨e, hstep, -, hcqs⟩ := copyUnits_step hn 0 i fl (by omega) hsrc hdst (hpend _)
    rw [List.take_of_length_le (by rw [List.length_drop, hn]; omega)] at hcqs
    exact ⟨e, hstep, hcqs⟩
  | succ fuel ih =>
    obtain ⟨d', hstep, honly, hcqs⟩ := copyUnits_step hn (fuel + 1) i fl (by omega) hsrc hdst (hpend _)
    rw [show min 512 (n - i * 512) = 512 by omega] at hcqs
    have hidx : i + 1 + fuel = i + (fuel + 1) := by omega
    have hsucc : (i + 1) * 512 = i * 512 + 512 := Nat.succ_mul i 512
    have hlen : ((data.drop (i * 512)).take 512).length = 512 := by
      rw [List.length_take, List.length_drop, hn]; omega
    have hjoin : ∀ (p : List Host.Cell) (rest : List Byte),
        cellSetAll (cellSetAll p (dst + i * 512) ((data.drop (i * 512)).take 512)) (dst + (i * 512 + 512)) rest =
          cellSetAll p (dst + i * 512) ((data.drop (i * 512)).take 512 ++ rest) := by
      intro p rest
      rw [← cellSetAll_append, hlen, Nat.add_assoc]
    have hpend' : (d'.cq x.c).pend = cellSetAll (d.cq x.c).pend (dst + i * 512) ((data.drop (i * 512)).take 512) := by
      rw [cq_of_cqs hcqs, cq_modCq_same d _ hc]
    obtain ⟨e, hdone, hecqs⟩ := ih (i + 1) (d := d') (hidx ▸ hmore) (hidx ▸ hlast) (by rw [hcqs, modCq_length]; exact hc)
      (clean_of_only honly hsrc) (clean_of_only honly hdst)
      (fun k => by rw [hpend', hsucc, hjoin, ← List.drop_drop, ← List.take_add]; exact hpend _)
    refine ⟨e, hstep.trans hdone, ?_⟩
    rw [hecqs, modCq_cqs, hcqs, ← modCq_cqs, modCq_modCq]
    refine congrArg Dev.cqs (congrArg (d.modCq x.c) (funext fun q => ?_))
    simp only [Function.comp_apply, hsucc, hjoin, ← List.drop_drop, List.take_append_drop]
end

/-! ### A command of the mover at its end -/

/-- An update of one element that leaves what each element gives. -/
theorem flatMap_modify {α β : Type} {g : α → List β} {f : α → α} (hf : ∀ a, g (f a) = g a) (l : List α) (n : Nat) :
    (l.modify n f).flatMap g = l.flatMap g := by
  induction l generalizing n with
  | nil => simp
  | cons a l ih => cases n <;> simp [hf, ih]

section
variable {d : Dev} {c op : Nat} {x : Ctx} {f : Fetched} (h : d.issues c op x f)
include h

theorem issued_only : Only [.cqs, .stks, .dscs] d (d.issued c x f) :=
  Only.step (issue_q_only (issue?_of_issues h)) rfl (Only.refl _ d)

theorem issued_pend (k : Nat) : ((d.issued c x f).cq k).pend = (d.cq k).pend := by
  obtain ⟨g, hg, hiss⟩ := issued_eq_modCq (d := d) (ctx?_core h.1).1 f
  rw [hg, cq_modCq_view (·.pend) fun q => (hiss q).pend]

theorem issued_log (k : Nat) : ((d.issued c x f).cq k).log = (d.cq k).log := by
  obtain ⟨g, hg, hiss⟩ := issued_eq_modCq (d := d) (ctx?_core h.1).1 f
  rw [hg, cq_modCq_view (·.log) fun q => (hiss q).log]

theorem issued_flight : x.flightOf f ∈ ((d.issued c x f).cq c).flights := by
  obtain ⟨hx, hc⟩ := ctx?_core h.1
  obtain ⟨g, hg, hiss⟩ := issued_eq_modCq (d := d) hx f
  rw [hg, cq_modCq_same d g hc, (hiss _).flights]
  exact List.mem_append_right _ List.mem_cons_self

theorem issued_view (k a n : Nat) : (d.issued c x f).view k a n = d.view k a n := by
  have hmem : (d.issued c x f).mem = d.mem := (issued_only h).same .mem rfl
  rw [Dev.view, issued_pend h, hmem, Dev.view]

theorem issued_waysFree (k a n : Nat) : (d.issued c x f).waysFree k a n = d.waysFree k a n := by
  obtain ⟨g, hg, hiss⟩ := issued_eq_modCq (d := d) (ctx?_core h.1).1 f
  have hlines : (d.issued c x f).linesPending = d.linesPending := by
    rw [hg]
    exact flatMap_modify (g := fun q : Cq => pendLines q.pend) (fun q => congrArg pendLines (hiss q).pend) d.cqs c
  rw [Dev.waysFree, hlines, issued_pend h, Dev.waysFree]

theorem issued_mayRead (a n : Nat) : x.mayRead (d.issued c x f) a n = x.mayRead d a n := by
  obtain ⟨g, hg, -⟩ := issued_eq_modCq (d := d) (ctx?_core h.1).1 f
  rw [hg]; rfl

theorem issued_canWrite (p : Plan) (core site a n : Nat) : (d.issued c x f).canWrite p core site a n = d.canWrite p core site a n := by
  obtain ⟨g, hg, -⟩ := issued_eq_modCq (d := d) (ctx?_core h.1).1 f
  rw [hg]; rfl
end

/-- A command whose work is done waits to complete with its STATUS; `g` is what it has made of its queue since its issue. -/
theorem putFlight_ended {d e : Dev} {c op : Nat} {x : Ctx} {f : Fetched} (h : d.issues c op x f) {g : Cq → Cq}
    (he : e.cqs = ((d.issued c x f).modCq c g).cqs) (hg : ∀ q, (g q).flights = q.flights) {fl : Flight} (hidx : fl.idx = f.idx)
    (hend : fl.ended = true) : let d' := e.putFlight c fl
    (∃ l, d'.cq c = { g ((d.issued c x f).cq c) with flights := l }) ∧ d'.worked c f.idx fl.status = true ∧ d.sameOthers d' c := by
  have htaken := issued_taken h
  have hc : c < e.cqs.length := by rw [he, modCq_length]; exact htaken.present
  have hq : e.cq c = g ((d.issued c x f).cq c) := (cq_of_cqs he c).trans (cq_modCq_same _ g htaken.present)
  have hflight : x.flightOf f ∈ (e.cq c).flights := by rw [hq, hg]; exact issued_flight h
  refine ⟨⟨_, by rw [Dev.putFlight, cq_modCq_same e _ hc, hq]⟩, ?_, fun k hk => ?_⟩
  · rw [Dev.worked, Dev.putFlight, cq_modCq_same e _ hc, List.any_map, List.any_eq_true]
    exact ⟨x.flightOf f, hflight, by simp [Ctx.flightOf, hidx, hend]⟩
  · rw [Dev.putFlight, cq_modCq_other e _ (Ne.symm hk), cq_of_cqs he, cq_modCq_other _ g (Ne.symm hk)]
    exact htaken.others k hk

/-! ### COPY (R134 to R136, R285) -/

section
variable {d : Dev} {c : Fin 72} {x : Ctx} {f : Fetched} (h : d.issues c.val 0x20 x f) {src dst n : Nat}
  (hs : fld (x.resolve f.bytes) 8 8 = src) (hd : fld (x.resolve f.bytes) 16 8 = dst) (hn : fld (x.resolve f.bytes) 24 4 = n)
  (hread : x.mayRead d src n = true)
include h hs hd hn hread

/-- A COPY to a destination that the plan may not write. -/
theorem copy_refused (hwrite : d.canWrite x.p x.core x.site dst n = false) :
    copy c d = (d.issued c.val x f).putFlight c.val ((x.flightOf f).bad (some dst)) := by
  have hissue : d.issue? c.val opCopy = _ := issue?_of_issues h
  have hbytes : (x.flightOf f).bytes = x.resolve f.bytes := rfl
  simp only [copy, hissue, addrFld, hbytes, hs, hd, hn, issued_mayRead h, issued_canWrite h, hread, hwrite]
  rfl

section
variable (hwrite : d.canWrite x.p x.core x.site dst n = true) (hways : d.waysFree c.val dst (min n 0x200000) = true)
include hwrite hways

/-- A COPY that has its ways and whose pieces all come through. -/
theorem copy_of_units {e : Dev} (hunits : copyUnits x src dst n (d.view c.val src n) ((n + copyPiece - 1) / copyPiece) 0
    (d.issued c.val x f) (x.flightOf f) = (e, (x.flightOf f).done)) : copy c d = e.putFlight c.val (x.flightOf f).done := by
  have hissue : d.issue? c.val opCopy = _ := issue?_of_issues h
  have hbytes : (x.flightOf f).bytes = x.resolve f.bytes := rfl
  simp only [copy, hissue, addrFld, hbytes, hs, hd, hn, issued_mayRead h, issued_canWrite h, issued_waysFree h, issued_view h, hread,
    hwrite, hways, hunits]
  rfl

/-- A COPY that nothing stops ends with all its bytes pending. -/
theorem copy_moves (hsrc : d.clean [(src, n)]) (hdst : d.clean [(dst, n)])
    (hpend : ∀ k, k ≤ n → pendOk (cellSetAll (d.cq c.val).pend dst ((d.view c.val src n).take k)) = true) :
    ∃ e : Dev, copy c d = e.putFlight c.val (x.flightOf f).done ∧ e.cqs = ((d.issued c.val x f).modCq c.val (fun q =>
      { q with pend := if n = 0 then q.pend else cellSetAll q.pend dst (d.view c.val src n) })).cqs := by
  have hx := (ctx?_core h.1).1
  have honly := issued_only h
  by_cases h0 : n = 0
  · refine ⟨d.issued c.val x f, copy_of_units h hs hd hn hread hwrite hways (by rw [h0]; rfl), ?_⟩
    simp only [h0, if_true, modCq_cqs]
    exact (List.modify_id ..).symm
  · have hpieces : (n + copyPiece - 1) / copyPiece = (n - 1) / 512 + 1 := by rw [copyPiece]; omega
    obtain ⟨e, hunits, hcqs⟩ := copyUnits_done (x := x) (src := src) (dst := dst) (view_length d c.val src n) ((n - 1) / 512) 0
      (d := d.issued c.val x f) (x.flightOf f) (by omega) (by omega) (hx ▸ (issued_taken h).present) (clean_of_only honly hsrc)
      (clean_of_only honly hdst) fun k => by
        rw [issued_pend h, hx, Nat.zero_mul, Nat.add_zero, List.drop_zero, List.take_eq_take_min]
        exact hpend _ (by rw [view_length]; exact Nat.min_le_right ..)
    refine ⟨e, copy_of_units h hs hd hn hread hwrite hways (hpieces ▸ hunits), ?_⟩
    simpa only [h0, if_false, hx, Nat.zero_mul, Nat.add_zero, List.drop_zero] using hcqs
end
end

/-! ### ATOM (R286, R287) -/

/-- No command of its unit is in flight when a command of another kind than MMA issues (R139). -/
theorem unit_idle_of_orderOk {flights : List Flight} {bs : List Byte} (h : orderOk flights bs = true) (hop : cmdOp bs ≠ opMma) :
    ∀ g ∈ flights, unitOf (cmdOp g.bytes) ≠ unitOf (cmdOp bs) := by
  intro g hg
  simp only [orderOk, Bool.and_eq_true, List.all_eq_true] at h
  obtain ⟨⟨⟨hunit, -⟩, -⟩, -⟩ := h.1 g hg
  simpa [hop] using hunit

/-- The entries that an ATOM logs, one for each element (R287). -/
def atomEntries (bs data : List Byte) (idx : Nat) : List AtomEnt :=
  (List.range (fld bs 18 2)).map (fun i =>
    { op := fld bs 16 1, dtype := fld bs 17 1, addr := fld bs 8 8 + i * atomBytes (fld bs 17 1)
      operand := fieldLE data (i * atomBytes (fld bs 17 1)) (atomBytes (fld bs 17 1))
      compare := BitVec.ofNat 64 (fld bs 32 8), swap := BitVec.ofNat 64 (fld bs 40 8), ret := fld bs 24 8, cmd := idx })

section
variable {d : Dev} {c : Fin 72} {x : Ctx} {f : Fetched} (h : d.issues c.val 0x21 x f) {bs : List Byte} (hbs : x.resolve f.bytes = bs)
  {addr w src len : Nat} (haddr : fld bs 8 8 = addr) (hw : atomBytes (fld bs 17 1) = w) (hsrc : fld bs 24 8 = src)
  (hlen : fld bs 18 2 * w = len)

include h hbs haddr hw hsrc hlen

/-- An ATOM on elements of a fitting region, other than CAS, logs them. -/
theorem atom_logs (hcas : fld bs 16 1 ≠ 5) (hok : atomOk (fld bs 16 1) (fld bs 17 1) = true) (halign : addr % w = 0)
    (hregion : (x.p.img.layout.atomicAt addr len (fld bs 17 1)).isSome = true) (hown : x.inOwn src len = true)
    (hmax : 1 ≤ x.p.maxOf 2) (hroom : (d.cq c.val).log.length + fld bs 18 2 ≤ 16384) (hwipe : d.wipeHolds src len = false)
    (hpoison : readPoison d.mem (d.cq c.val).pend src len = none) (hpend : pendOk (d.cq c.val).pend = true) :
    ∃ (e : Dev) (data : List Byte), atom c d = e.putFlight c.val (x.flightOf f).done ∧
      e.cqs = ((d.issued c.val x f).modCq c.val (fun q => { q with log := q.log ++ atomEntries bs data f.idx })).cqs := by
  have ⟨hx, _, _, hop, horder, _⟩ := h
  have hissue : d.issue? c.val opAtom = _ := issue?_of_issues h
  have hbytes : (x.flightOf f).bytes = bs := hbs
  have honly := issued_only h
  have hmem : (d.issued c.val x f).mem = d.mem := honly.same .mem rfl
  have hidle : (d.cq c.val).flights.filter (fun g => cmdOp g.bytes == opAtom && g.idx != (x.flightOf f).idx) = [] := by
    refine List.filter_eq_nil_iff.2 fun g hg => ?_
    have hunit := unit_idle_of_orderOk horder (by rw [hop]; decide) g hg
    rw [Bool.and_eq_true, beq_iff_eq]
    exact fun hatom => hunit (by rw [hop, hatom.1]; rfl)
  have hheld : (d.issued c.val x f).unitHeld [(src, len)] [] = false := by
    simp only [Dev.unitHeld, List.any_cons, List.any_nil, Bool.or_false, wipeHolds_of_only honly, hwipe]
  obtain ⟨e, hdone, -, hcqs⟩ := unitWrite_done (c := c.val) (writes := []) hheld
    (List.forall_mem_singleton.2 (by rw [hmem, issued_pend h]; exact hpoison)) (by simp) (by rw [List.foldl_nil, issued_pend h]; exact hpend)
  refine ⟨e.modCq c.val (fun q => { q with log := q.log ++ atomEntries bs (e.view c.val src len) f.idx }), e.view c.val src len, ?_,
    congrArg (List.modify · c.val _) (hcqs.trans (List.modify_id ..))⟩
  have hbelow : ¬ min 64 (x.p.maxOf 2) ≤ ([] : List Flight).length := by rw [List.length_nil]; omega
  have hregion' : (x.p.img.layout.atomicAt addr len (fld bs 17 1)).isNone = false := by rw [← Option.not_isSome, hregion]; rfl
  simp only [atom, hissue, hidle, if_neg hbelow, hbytes, addrFld, haddr, hw, hsrc, hlen, hcas, hok, halign, hregion', hown, hdone,
    issued_log h, Nat.not_lt.2 hroom, atomEntries, decide_false, Bool.false_and, bne_self_eq_false, Bool.not_true, Bool.or_self,
    Bool.false_eq_true, if_false]
  rfl
end

/-- Settles O30: the pieces of a COPY are one write of the chunk's pending bytes, and an ATOM adds its entries to the log; both are
updates of the command's own queue. -/
theorem moverCommandsStayPending : Obligations.MoverCommandsStayPending := by
  unfold Obligations.MoverCommandsStayPending
  refine ⟨?copy, ?refused, ?atom⟩
  case copy =>
    intro s c x f h hread hwrite hsrcp hdstp hsrcw hdstw hways hpend
    obtain ⟨e, hcopy, hcqs⟩ := copy_moves h rfl rfl rfl hread hwrite hways (List.forall_mem_singleton.2 ⟨hsrcp, hsrcw⟩)
      (List.forall_mem_singleton.2 ⟨hdstp, hdstw⟩) hpend
    obtain ⟨⟨l, hq⟩, hworked, hothers⟩ := putFlight_ended h hcqs (fun _ => rfl) (fl := (x.flightOf f).done) rfl rfl
    have hmem : (copy c s.dev).mem = s.dev.mem := (copy_only ..).same .mem rfl
    refine completes_of_run rfl ⟨?_, hcopy ▸ hworked, hmem, hcopy ▸ hothers⟩
    rw [hcopy, hq, issued_pend h]
  case refused =>
    intro s c x f h hread hwrite
    have hcopy := copy_refused h rfl rfl rfl hread hwrite
    obtain ⟨⟨l, hq⟩, hworked, hothers⟩ := putFlight_ended h (g := id) (List.modify_id ..).symm (fun _ => rfl)
      (fl := (x.flightOf f).bad (some (fld (x.resolve f.bytes) 16 8))) rfl rfl
    have hmem : (copy c s.dev).mem = s.dev.mem := (copy_only ..).same .mem rfl
    refine completes_of_run rfl ⟨?_, hcopy ▸ hworked, hmem, hcopy ▸ hothers⟩
    rw [hcopy, hq]
    exact issued_pend h c.val
  case atom =>
    intro s c x f h hcas hok halign hregion hown hmax hroom hwipe hpoison hpend
    obtain ⟨e, data, hatom, hcqs⟩ := atom_logs h rfl rfl rfl rfl rfl hcas hok halign hregion hown hmax hroom hwipe hpoison hpend
    obtain ⟨⟨l, hq⟩, hworked, hothers⟩ := putFlight_ended h hcqs (fun _ => rfl) (fl := (x.flightOf f).done) rfl rfl
    have hmem : (atom c s.dev).mem = s.dev.mem := (atom_only ..).same .mem rfl
    have hlog : ((atom c s.dev).cq c.val).log = (s.dev.cq c.val).log ++ atomEntries (x.resolve f.bytes) data f.idx := by
      rw [hatom, hq, issued_log h]
    refine completes_of_run rfl ⟨?_, ?_, hatom ▸ hworked, hmem, hatom ▸ hothers⟩
    · rw [hlog, List.take_left]
    · rw [hlog, List.drop_left, atomEntries, List.map_map]
      rfl

end Sys2Proof.Machine
end

section
/-! SUPPORT. The ramp governor (R167, R168): what a move of a grant by one quarter keeps, and what the moves of one beat add up to. -/

namespace Sys2Proof.Machine

/-! ### Grants that move towards what their sites ask -/

/-- `t` is `s` with a grant that lies between the grant of `s` and the level that `s` asks. -/
structure Site.Toward (s t : Site) : Prop where
  eq : t = { s with lbk := { s.lbk with grant := t.lbk.grant } }
  low : min s.lbk.grant.toNat s.lbk.request ≤ t.lbk.grant.toNat
  high : t.lbk.grant.toNat ≤ max s.lbk.grant.toNat s.lbk.request

theorem Site.Toward.refl (s : Site) : s.Toward s := ⟨rfl, Nat.min_le_left .., Nat.le_max_left ..⟩

/-- A move towards what a site asks leaves what it asks, a held grant included. -/
theorem Site.Toward.request {s t : Site} (h : s.Toward t) : t.lbk.request = s.lbk.request := by
  obtain ⟨heq, hlow, hhigh⟩ := h
  rw [heq]
  cases hh : s.lbk.holding with
  | false => simp only [Lbk.request, hh, Bool.false_eq_true, if_false]
  | true =>
    simp only [Lbk.request, hh, if_true] at hlow hhigh ⊢
    omega

theorem Site.Toward.trans {s t u : Site} (h : s.Toward t) (k : t.Toward u) : s.Toward u := by
  have hreq := h.request
  have hlow := h.low
  have hhigh := h.high
  have klow := k.low
  have khigh := k.high
  refine ⟨?_, by omega, by omega⟩
  calc u = { t with lbk := { t.lbk with grant := u.lbk.grant } } := k.eq
    _ = { s with lbk := { s.lbk with grant := u.lbk.grant } } := by rw [h.eq]

/-- The governor may move a grant up, or down. -/
def Lbk.wants (up : Bool) (l : Lbk) : Bool := if up then decide (l.grant.toNat < l.request) else decide (l.request < l.grant.toNat)

/-- A site whose grant has moved by one quarter. -/
def Site.nudged (up : Bool) (s : Site) : Site :=
  { s with lbk := { s.lbk with grant := if up then s.lbk.grant + 1 else s.lbk.grant - 1 } }

theorem nudged_up_grant {s : Site} (h : s.lbk.wants true = true) (hreq : s.lbk.request ≤ 4) :
    (s.nudged true).lbk.grant.toNat = s.lbk.grant.toNat + 1 := by
  have hlt : s.lbk.grant.toNat < s.lbk.request := of_decide_eq_true h
  change (s.lbk.grant + 1).toNat = _
  rw [BitVec.toNat_add_of_lt (by simp; omega)]
  rfl

theorem nudged_down_grant {s : Site} (h : s.lbk.wants false = true) :
    (s.nudged false).lbk.grant.toNat + 1 = s.lbk.grant.toNat := by
  have hlt : s.lbk.request < s.lbk.grant.toNat := of_decide_eq_true h
  change (s.lbk.grant - 1).toNat + 1 = _
  rw [BitVec.toNat_sub_of_le (by simp [BitVec.le_def]; omega)]
  simp
  omega

theorem toward_nudged {up : Bool} {s : Site} (h : s.lbk.wants up = true) (hreq : s.lbk.request ≤ 4) : s.Toward (s.nudged up) := by
  cases up with
  | true =>
    have hgrant := nudged_up_grant h hreq
    have hlt : s.lbk.grant.toNat < s.lbk.request := of_decide_eq_true h
    exact ⟨rfl, by omega, by omega⟩
  | false =>
    have hgrant := nudged_down_grant h
    have hlt : s.lbk.request < s.lbk.grant.toNat := of_decide_eq_true h
    exact ⟨rfl, by omega, by omega⟩

/-- A site that the governor moves stands in the table. -/
theorem getD_modify_nudged {ss : List Site} {up : Bool} {i : Nat} (h : (ss.getD i {}).lbk.wants up = true) (j : Nat) :
    (ss.modify i (Site.nudged up)).getD j {} = if j = i then (ss.getD i {}).nudged up else ss.getD j {} := by
  have hi : i < ss.length := by
    by_contra hout
    rw [List.getD_eq_default _ _ (Nat.le_of_not_lt hout)] at h
    cases up <;> cases h
  split
  next hj => rw [hj, getD_modify_same _ _ _ _ hi]
  next hj => rw [getD_modify_other _ _ _ (Ne.symm hj)]

/-! ### Quarters risen over the 80 sites -/

/-- The quarters by which grants of the second table stand above those of the first. -/
def risen (ss ts : List Site) : Nat :=
  ((List.range 80).map (fun i => (ts.getD i {}).lbk.grant.toNat - (ss.getD i {}).lbk.grant.toNat)).sum

theorem risen_self (ss : List Site) : risen ss ss = 0 := by simp [risen]

/-- A sum of which one term grows by at most 1. -/
theorem sum_range_le_succ {f g : Nat → Nat} {i : Nat} (hi : g i ≤ f i + 1) (hother : ∀ j, j ≠ i → g j ≤ f j) (n : Nat) :
    ((List.range n).map g).sum ≤ ((List.range n).map f).sum + 1 := by
  have key : ((List.range n).map g).sum ≤ ((List.range n).map f).sum + if i < n then 1 else 0 := by
    induction n with
    | zero => simp
    | succ n ih =>
      simp only [List.range_succ, List.map_append, List.sum_append, List.map_cons, List.map_nil, List.sum_cons, List.sum_nil]
      by_cases hn : n = i
      · subst hn
        simp at ih ⊢
        omega
      · have := hother n hn
        split at ih <;> split <;> omega
  split at key <;> omega

theorem risen_le_succ {ss ss' ts ts' : List Site} {i : Nat}
    (hi : (ts'.getD i {}).lbk.grant.toNat - (ss'.getD i {}).lbk.grant.toNat ≤
      (ts.getD i {}).lbk.grant.toNat - (ss.getD i {}).lbk.grant.toNat + 1)
    (hother : ∀ j, j ≠ i → ts'.getD j {} = ts.getD j {} ∧ ss'.getD j {} = ss.getD j {}) : risen ss' ts' ≤ risen ss ts + 1 :=
  sum_range_le_succ hi (fun j hj => by rw [(hother j hj).1, (hother j hj).2]) 80

theorem risen_le {ss ss' ts ts' : List Site}
    (h : ∀ i, (ts'.getD i {}).lbk.grant.toNat - (ss'.getD i {}).lbk.grant.toNat ≤
      (ts.getD i {}).lbk.grant.toNat - (ss.getD i {}).lbk.grant.toNat) : risen ss' ts' ≤ risen ss ts :=
  List.sum_le_sum fun i _ => h i

/-! ### The deal of one beat -/

/-- What holds during the deal of a beat that began with the sites `ss` and the allowances `up` and `down`, of which `n` and `m` are
left: every grant has moved towards what its site asks, by the quarters that the allowances have lost. -/
structure Dealt (ss : List Site) (up down n m : Nat) (ts : List Site) : Prop where
  toward : ∀ i, i < 80 → (ss.getD i {}).Toward (ts.getD i {})
  rises : risen ss ts + n ≤ up
  falls : risen ts ss + m ≤ down

theorem Dealt.start (ss : List Site) (up down : Nat) : Dealt ss up down up down ss :=
  ⟨fun _ _ => .refl _, by simp [risen_self], by simp [risen_self]⟩

section
variable {ss ts : List Site} {up down n m : Nat} {i : Nat} (hi : i < 80) (hreq : (ss.getD i {}).lbk.request ≤ 4)
include hi hreq

theorem Dealt.nudged_toward {b : Bool} (h : Dealt ss up down n m ts) (hwants : (ts.getD i {}).lbk.wants b = true) (j : Nat) (hj : j < 80) :
    (ss.getD j {}).Toward ((ts.modify i (Site.nudged b)).getD j {}) := by
  rw [getD_modify_nudged hwants]
  split
  next hji =>
    have ht := h.toward i hi
    subst hji
    exact ht.trans (toward_nudged hwants (ht.request ▸ hreq))
  next => exact h.toward j hj

/-- A rise takes one quarter of the allowance for rises. -/
theorem Dealt.rise (h : Dealt ss up down (n + 1) m ts) (hwants : (ts.getD i {}).lbk.wants true = true) :
    Dealt ss up down n m (ts.modify i (Site.nudged true)) := by
  have hgrant := nudged_up_grant hwants ((h.toward i hi).request ▸ hreq)
  have hsite := getD_modify_nudged hwants
  have hrises : risen ss (ts.modify i (Site.nudged true)) ≤ risen ss ts + 1 :=
    risen_le_succ (i := i) (by rw [hsite, if_pos rfl]; omega) fun j hj => ⟨by rw [hsite, if_neg hj], rfl⟩
  have hfalls : risen (ts.modify i (Site.nudged true)) ss ≤ risen ts ss := risen_le fun j => by
    rw [hsite]
    split
    next hj => rw [hj]; omega
    next => rfl
  exact ⟨h.nudged_toward hi hreq hwants, by have := h.rises; omega, by have := h.falls; omega⟩

/-- A fall takes one quarter of the allowance for falls. -/
theorem Dealt.fall (h : Dealt ss up down n (m + 1) ts) (hwants : (ts.getD i {}).lbk.wants false = true) :
    Dealt ss up down n m (ts.modify i (Site.nudged false)) := by
  have hgrant := nudged_down_grant hwants
  have hsite := getD_modify_nudged hwants
  have hfalls : risen (ts.modify i (Site.nudged false)) ss ≤ risen ts ss + 1 :=
    risen_le_succ (i := i) (by rw [hsite, if_pos rfl]; omega) fun j hj => ⟨rfl, by rw [hsite, if_neg hj]⟩
  have hrises : risen ss (ts.modify i (Site.nudged false)) ≤ risen ss ts := risen_le fun j => by
    rw [hsite]
    split
    next hj => rw [hj]; omega
    next => rfl
  exact ⟨h.nudged_toward hi hreq hwants, by have := h.rises; omega, by have := h.falls; omega⟩
end

/-! ### Passes -/

theorem rampPass_cons (up : Bool) (i : Nat) (order : List Nat) (n : Nat) (ss : List Site) :
    rampPass up (i :: order) (n + 1) ss =
      if (ss.getD i {}).lbk.wants up then rampPass up order n (ss.modify i (Site.nudged up)) else rampPass up order (n + 1) ss := rfl

section
variable {P : Nat → List Site → Prop} {up : Bool}

/-- What every move of a grant keeps, a pass over the sites keeps. -/
theorem rampPass_induction {order : List Nat} (hmove : ∀ n ts i, i ∈ order → (ts.getD i {}).lbk.wants up = true → P (n + 1) ts →
    P n (ts.modify i (Site.nudged up))) {n : Nat} {ts : List Site} (h : P n ts) :
    P (rampPass up order n ts).1 (rampPass up order n ts).2 := by
  induction order generalizing n ts with
  | nil => exact h
  | cons i order ih =>
    have hmove' := fun n ts j hj => hmove n ts j (List.mem_cons_of_mem i hj)
    cases n with
    | zero => exact h
    | succ n =>
      rw [rampPass_cons]
      split
      next hwants => exact ih hmove' (hmove n ts i List.mem_cons_self hwants h)
      next => exact ih hmove' h

theorem rampPasses_induction {order : List Nat} (hmove : ∀ n ts i, i ∈ order → (ts.getD i {}).lbk.wants up = true → P (n + 1) ts →
    P n (ts.modify i (Site.nudged up))) (k : Nat) {n : Nat} {ts : List Site} (h : P n ts) : ∃ m, P m (rampPasses up order k n ts) := by
  induction k generalizing n ts with
  | zero => exact ⟨n, h⟩
  | succ k ih => exact ih (rampPass_induction hmove h)
end

/-- The governor's passes over any order of the sites, first for rises and then for falls. -/
theorem rampPasses_dealt {ss : List Site} (hreq : ∀ i, i < 80 → (ss.getD i {}).lbk.request ≤ 4) {order : List Nat}
    (horder : ∀ i ∈ order, i < 80) (k up down : Nat) :
    ∃ n m, Dealt ss up down n m (rampPasses false order k down (rampPasses true order k up ss)) := by
  obtain ⟨n, hrises⟩ := rampPasses_induction (P := fun n ts => Dealt ss up down n down ts)
    (fun _ _ i hi hwants h => h.rise (horder i hi) (hreq i (horder i hi)) hwants) k (.start ss up down)
  exact ⟨n, rampPasses_induction (P := fun m ts => Dealt ss up down n m ts)
    (fun _ _ i hi hwants h => h.fall (horder i hi) (hreq i (horder i hi)) hwants) k hrises⟩

/-- Settles O33: every move of the deal is one quarter towards what its site asks and is paid from its allowance. -/
theorem rampGovernorStaysInItsAllowance : Obligations.RampGovernorStaysInItsAllowance := by
  unfold Obligations.RampGovernorStaysInItsAllowance
  intro s hreq
  refine completes_of_run rfl ?_
  by_cases hbeat : s.dev.rampBeat = some s.dev.bt.beat
  · have hsame : rampGovernorBeat s.dev = s.dev := if_pos hbeat
    rw [hsame]
    exact ⟨fun i => ⟨Nat.min_le_left .., Nat.le_max_left ..⟩, by simp, by simp, fun _ => rfl, by rw [← hbeat], fun _ => rfl⟩
  · obtain ⟨n, m, htoward, hrises, hfalls⟩ := rampPasses_dealt (ss := s.dev.sites) (fun i hi => hreq ⟨i, hi⟩)
      (order := (List.range 80).map (fun i => (s.dev.beatN % 80 + i) % 80))
      (fun i hi => by obtain ⟨j, -, rfl⟩ := List.mem_map.1 hi; exact Nat.mod_lt _ (by decide)) 4 s.dev.rampStep.toNat
      (s.dev.rampStep.toNat - if s.dev.fenceFall.1 = s.dev.bt.beat then s.dev.fenceFall.2 else 0)
    rw [rampGovernorBeat, if_neg hbeat]
    exact ⟨fun i => ⟨(htoward i.val i.isLt).low, (htoward i.val i.isLt).high⟩, (Nat.le_add_right ..).trans hrises,
      (Nat.le_add_right ..).trans hfalls, fun i => (htoward i.val i.isLt).eq, rfl, fun h => absurd h hbeat⟩

end Sys2Proof.Machine
end

section
/-! SUPPORT. Core sites: what a site holds after an operation on the lane block, the reads of a unit of work, the units of a command that
nothing stops, and check faults (R157 to R166). -/

namespace Sys2Proof.Machine

/-! ### A site after an operation -/

/-- A site that differs in some field from one after reset stands in the table. -/
theorem lt_of_site_ne {α : Type} (view : Site → α) {d : Dev} {n : Nat} (h : view (d.site n) ≠ view {}) : n < d.sites.length := by
  by_contra hn
  exact h (congrArg view (List.getD_eq_default _ _ (Nat.le_of_not_lt hn)))

/-- What an update of a site does not touch is as it was, in that site and in the others. -/
theorem site_modSite_view {α : Type} (view : Site → α) {f : Site → Site} (hf : ∀ s, view (f s) = view s) (d : Dev) (n k : Nat) :
    view ((d.modSite n f).site k) = view (d.site k) := by
  by_cases h : n = k
  · subst h
    by_cases hn : n < d.sites.length
    · rw [site_modSite_same d f hn, hf]
    · rw [Dev.modSite, List.modify_eq_self (Nat.le_of_not_lt hn)]
  · rw [site_modSite_other d f h]

theorem lbk_modLbk_same (d : Dev) {n : Nat} (f : Lbk → Lbk) (h : n < d.sites.length) :
    (d.modLbk n f).site n = { d.site n with lbk := f (d.site n).lbk } :=
  site_modSite_same d _ h

theorem acc_modAcc_same (d : Dev) {n : Nat} (f : Acc → Acc) (h : n < d.sites.length) :
    (d.modAcc n f).site n = { d.site n with acc := f (d.site n).acc } :=
  site_modSite_same d _ h

@[simp] theorem putFlight_site (d : Dev) (c : Nat) (fl : Flight) (n : Nat) : (d.putFlight c fl).site n = d.site n := rfl
@[simp] theorem updateDemand_cq (d : Dev) (c n k : Nat) : (d.updateDemand c n).cq k = d.cq k := rfl

/-! ### The issue of a command leaves the sites -/

section
variable {d : Dev} {c op : Nat} {x : Ctx} {f : Fetched} (h : d.issues c op x f)
include h

theorem issued_sites : (d.issued c x f).sites = d.sites := (issued_only h).same .sites rfl
theorem issued_site (n : Nat) : (d.issued c x f).site n = d.site n := site_of_sites (issued_sites h) n
theorem issued_health : (d.issued c x f).health = d.health := (issued_only h).same .health rfl
end

/-! ### The demand of the array (R166) -/

@[simp] theorem setDemand_demand (l : Lbk) (q : Nat) : (l.setDemand q).demand = q := by
  unfold Lbk.setDemand; split
  · rfl
  · split <;> rfl

/-- A change of demand changes the demand and the hold alone. -/
theorem setDemand_eq (l : Lbk) (q : Nat) : ∃ b h, l.setDemand q = { l with demand := q, holding := b, hold := h } := by
  unfold Lbk.setDemand; split
  · exact ⟨_, _, rfl⟩
  · split <;> exact ⟨_, _, rfl⟩

/-- A view of a lane block that shows neither its demand nor its hold. -/
theorem updateDemand_lbk_view {α : Type} (view : Lbk → α) (hview : ∀ l q b h, view { l with demand := q, holding := b, hold := h } = view l)
    (d : Dev) (c n k : Nat) : view ((d.updateDemand c n).site k).lbk = view (d.site k).lbk :=
  site_modSite_view (fun s => view s.lbk) (fun s => by
    obtain ⟨b, h, hset⟩ := setDemand_eq s.lbk (demandOf (d.cq c).flights)
    exact (congrArg view hset).trans (hview ..)) d n k

@[simp] theorem updateDemand_acc (d : Dev) (c n k : Nat) : ((d.updateDemand c n).site k).acc = (d.site k).acc :=
  site_modSite_view (·.acc) (f := fun s => { s with lbk := s.lbk.setDemand (demandOf (d.cq c).flights) }) (fun _ => rfl) d n k
@[simp] theorem updateDemand_health (d : Dev) (c n : Nat) : (d.updateDemand c n).health = d.health := rfl
@[simp] theorem updateDemand_length (d : Dev) (c n : Nat) : (d.updateDemand c n).sites.length = d.sites.length := modLbk_length d n _
@[simp] theorem updateDemand_activeSet (d : Dev) (c n k : Nat) :
    ((d.updateDemand c n).site k).lbk.activeSet = (d.site k).lbk.activeSet :=
  updateDemand_lbk_view (·.activeSet) (fun _ _ _ _ => rfl) d c n k
@[simp] theorem updateDemand_grant (d : Dev) (c n k : Nat) : ((d.updateDemand c n).site k).lbk.grant = (d.site k).lbk.grant :=
  updateDemand_lbk_view (·.grant) (fun _ _ _ _ => rfl) d c n k

/-! ### The reads of a unit of work -/

theorem clean_of_same {d e : Dev} (hmem : e.mem = d.mem) (hpwr : e.pwr = d.pwr) (hwipes : e.wipes = d.wipes) {rs : List (Nat × Nat)}
    (h : d.clean rs) : e.clean rs := by
  intro r hr
  rw [hmem, Dev.wipeHolds, hpwr, hwipes]
  exact h r hr

theorem mayRead_of_shared {d e : Dev} (h : e.shared = d.shared) (x : Ctx) (a n : Nat) : x.mayRead e a n = x.mayRead d a n := by
  simp only [Ctx.mayRead, Dev.canRead, Dev.sharedAt, h]

/-- No range of a list is refused. -/
theorem find?_mayRead_none {x : Ctx} {d : Dev} {rs : List (Nat × Nat)} (h : ∀ r ∈ rs, x.mayRead d r.1 r.2 = true) :
    rs.find? (fun r => !x.mayRead d r.1 r.2) = none :=
  List.find?_eq_none.2 fun r hr => by simp [h r hr]

/-- A unit of work that only reads, from clean ranges, leaves the queues. -/
theorem unitWrite_reads {d : Dev} {c : Nat} {rs : List (Nat × Nat)} (hclean : d.clean rs) (hpend : pendOk (d.cq c).pend = true) :
    ∃ e, d.unitWrite c rs [] = (e, .done) ∧ Only [.cqs, .stks, .dscs] d e ∧ e.cqs = d.cqs := by
  have hheld : d.unitHeld rs [] = false := by
    rw [Dev.unitHeld, List.any_nil, Bool.or_false, List.any_eq_false]
    exact fun r hr => by simp [(hclean r hr).2]
  obtain ⟨e, hdone, honly, hcqs⟩ := unitWrite_done hheld (fun r hr => readPoison_of_clean (hclean r hr).1 _) (by simp) hpend
  exact ⟨e, hdone, honly, hcqs.trans (List.modify_id ..)⟩

/-! ### The units of a command that nothing stops -/

/-- A flight whose next unit begins. -/
def Flight.begun (fl : Flight) (slots : List Nat) : Flight := if fl.units = 0 then { fl with first := slots } else fl

theorem begun_eq (fl : Flight) (slots : List Nat) : ∃ l, fl.begun slots = { fl with first := l } := by
  unfold Flight.begun; split
  · exact ⟨_, rfl⟩
  · exact ⟨fl.first, rfl⟩

/-- From one flight to another, a unit of the command has been done: what it has summed and its CFLAGS may have changed. -/
def Flight.UnitDone (fl fl' : Flight) : Prop := ∃ l s g, fl' = { fl with first := l, sums := s, cflags := g }

/-- What every unit of a command without an address stream keeps, and with which none stops, holds when the command has done them all. -/
theorem unitLoop_done {P : Nat → Dev → Prop} {f : Dev → Flight → Nat → List Nat → Dev × Flight × UnitEnd} {total : Nat} {bs : List Byte}
    (hstream : astream? bs = none)
    (hunit : ∀ r d fl, r < total → P r d → fl.bytes = bs →
      ∃ (e : Dev) (fl' : Flight), f d fl r [] = (e, fl', .done) ∧ P (r + 1) e ∧ fl.UnitDone fl')
    (x : Ctx) (k n : Nat) {d : Dev} {fl : Flight} (hn : fl.units + n = total) (h : P fl.units d) (hbytes : fl.bytes = bs) :
    ∃ (e : Dev) (fl' : Flight), unitLoop x k f n d fl = (e, fl'.done) ∧ P total e ∧ fl'.idx = fl.idx ∧ fl'.status = fl.status := by
  induction n generalizing d fl with
  | zero => exact ⟨d, fl, rfl, hn ▸ h, rfl, rfl⟩
  | succ n ih =>
    obtain ⟨l, hl⟩ := begun_eq fl []
    obtain ⟨e, fl', hf, he, l', s, g, hfl'⟩ := hunit fl.units d (fl.begun []) (by omega) h (by rw [hl, hbytes])
    rw [hl] at hfl'
    obtain ⟨e', fl'', hloop, hP, hidx, hstatus⟩ := ih (d := e) (fl := { fl' with units := fl'.units + 1 })
      (by rw [hfl']; dsimp only; omega) (by rw [hfl']; exact he) (by rw [hfl']; exact hbytes)
    refine ⟨e', fl'', ?_, hP, hidx.trans (by rw [hfl']), hstatus.trans (by rw [hfl'])⟩
    have hbegun : f d (fl.begun []) (fl.begun []).units [] = (e, fl', .done) := by
      rw [show (fl.begun []).units = fl.units by rw [hl], hf]
    unfold Flight.begun at hbegun
    subst hbytes
    simp only [unitLoop, hstream, hbegun, hloop]

/-! ### Check faults (R164, R369, R371) -/

theorem countFault_health (d : Dev) (core : Option Nat) : (d.countFault core).2.health.siteStates = d.health.siteStates ∧
    (d.countFault core).2.health.recoveries = d.health.recoveries := by
  unfold Dev.countFault
  split
  · exact ⟨rfl, rfl⟩
  · split
    · exact ⟨rfl, rfl⟩
    · split <;> exact ⟨rfl, rfl⟩

/-- A fault of a site that no recovery concerns begins one. -/
theorem siteFault_recovers {d : Dev} {site : Nat} (hsound : d.sound site) (hsite : site < d.health.siteStates.length) (cause : RecCause)
    (source err : Nat) (tag : BitVec 32) : (d.siteFault site cause source err tag).siteState site = .recovering := by
  have hspare : d.health.recoveries.find? (fun r => r.spare == some site && r.site != site) = none :=
    List.find?_eq_none.2 fun r hr => by simp [(hsound r hr).2]
  have hrec : d.health.recoveries.any (fun r => r.site == site) = false :=
    List.any_eq_false.2 fun r hr => by simp [(hsound r hr).1]
  have hstates := (countFault_health d (d.coreOf site)).1
  simp only [Dev.siteFault, hspare, hrec, Bool.false_eq_true, if_false]
  exact siteState_setSiteState_same (d.countFault (d.coreOf site)).2 .recovering (hstates ▸ hsite)

theorem siteFault_site (d : Dev) (n : Nat) (cause : RecCause) (source err : Nat) (tag : BitVec 32) (k : Nat) :
    (d.siteFault n cause source err tag).site k = d.site k :=
  site_of_sites ((siteFault_only ..).same .sites rfl) k

/-- A core that runs a chunk: its site is in service. -/
theorem ctx?_inService {d : Dev} {c : Nat} {x : Ctx} (h : d.ctx? c = some x) : d.siteState x.site = .inService := by
  unfold Dev.ctx? at h
  split at h
  · cases h
  · split at h
    · cases h
    · dsimp only at h
      split at h
      next hon =>
        cases h
        simp only [Bool.and_eq_true, beq_iff_eq] at hon
        exact hon.1.1.2
      · cases h

/-- A site in service has its state in the table. -/
theorem siteStates_of_inService {d : Dev} {n : Nat} (h : d.siteState n = .inService) : n < d.health.siteStates.length := by
  by_contra hn
  rw [Dev.siteState, List.getD_eq_default _ _ (Nat.le_of_not_lt hn)] at h
  cases h

/-- A check fault of a lane block sets its bit of LBK_CHECK_ERR and begins a recovery of the site. -/
theorem laneFault_reports {d : Dev} {site : Nat} (hsite : site < d.sites.length) (hservice : d.siteState site = .inService)
    (hsound : d.sound site) (bit : Fin 3) (tag : BitVec 32) : let d' := d.laneFault site bit.val tag
    (d'.site site).lbk.checkErr.val.getLsbD bit.val = true ∧ d'.siteState site = .recovering := by
  have hstates := siteStates_of_inService hservice
  refine ⟨?_, by rw [Dev.laneFault]; exact siteFault_recovers (d := d.modLbk site _) hsound hstates ..⟩
  have hbit : (BitVec.ofNat 3 (2 ^ bit.val)).getLsbD bit.val = true := by revert bit; decide
  rw [Dev.laneFault, siteFault_site, lbk_modLbk_same d _ hsite, Sticky.raise, BitVec.getLsbD_or, hbit, Bool.or_true]

/-- A check fault of a command in flight, with what the command has made of the array's demand. -/
theorem laneFault_of_issues {d : Dev} {c op : Nat} {x : Ctx} {f : Fetched} (h : d.issues c op x f) (hsite : x.site < d.sites.length)
    (hsound : d.sound x.site) {e : Dev} (hlength : e.sites.length = d.sites.length) (hhealth : e.health = d.health) (bit : Fin 3)
    (tag : BitVec 32) : let d' := e.laneFault x.site bit.val tag
    (d'.site x.site).lbk.checkErr.val.getLsbD bit.val = true ∧ d'.siteState x.site = .recovering :=
  laneFault_reports (hlength ▸ hsite) (by rw [Dev.siteState, hhealth]; exact ctx?_inService h.1)
    (by rw [Dev.sound, hhealth]; exact hsound) bit tag

end Sys2Proof.Machine
end

section
/-! SUPPORT. Stationary sets and DUMMY (R154 to R156, R162, R166). -/

namespace Sys2Proof.Machine

/-! ### Elements read from memory -/

theorem groupOf_even (g : Nat) : groupOf g % 2 = 0 := by
  unfold groupOf; split <;> rfl

theorem length_flatMap_pairs {α β : Type} (u v : α → β) (l : List α) : (l.flatMap (fun a => [u a, v a])).length = 2 * l.length := by
  induction l with
  | nil => rfl
  | cons a l ih => simp [ih]; omega

/-- As many elements are unpacked as were asked for; elements of 4 bits fill whole bytes where their number is even. -/
theorem unpackElems_length {fmt n : Nat} {bs : List Byte} (hbs : bs.length = elemBytes fmt n) (hn : fmtBits fmt = 4 → n % 2 = 0) :
    (unpackElems fmt n bs).length = n := by
  unfold unpackElems
  unfold elemBytes at hbs
  split
  next hbits =>
    rw [hbits] at hbs
    have := hn hbits
    rw [List.length_take, length_flatMap_pairs, hbs]
    omega
  next => simp
  next hbits =>
    rw [hbits] at hbs
    simp only [List.length_map, List.length_take, hbs]
    omega
  next => simp
  next => simp

/-! ### WLOAD (R154, R155, R162) -/

/-- A depth that R154 allows fills whole bytes. -/
theorem wloadOk_even {ls : LoadSrc} (h : wloadOk ls = true) (hbits : fmtBits ls.fmt = 4) : ls.depth % 2 = 0 := by
  simp only [wloadOk, Bool.and_eq_true, beq_iff_eq] at h
  have hgroup : laneGroup ls.fmt ls.gCode = groupOf ls.gCode := if_neg fun h9 => by rw [h9] at hbits; cases hbits
  have hdvd : 2 ∣ ls.depth := (Nat.dvd_of_mod_eq_zero (groupOf_even ls.gCode)).trans (Nat.dvd_of_mod_eq_zero (hgroup ▸ h.2))
  exact Nat.mod_eq_zero_of_dvd hdvd

/-- A set as a WLOAD leaves it holds the sums of its codes. -/
theorem loadedSet_summed (st : SetState) (tag : BitVec 32) {ls : LoadSrc} (hok : wloadOk ls = true) {data : Nat → Nat → List Byte}
    (hdata : ∀ a n, (data a n).length = n) : (loadedSet st tag ls data).summed := by
  refine ⟨rfl, fun l hl => ?_⟩
  obtain ⟨j, -, rfl⟩ := List.mem_map.1 hl
  exact unpackElems_length (hdata ..) (wloadOk_even hok)

/-- A lane block after the load of its inactive set. -/
def Lbk.loaded (l : Lbk) (w : WSet) (stall : BitVec 32) : Lbk := { l.setInactive w with stallWload := stall }

@[simp] theorem loaded_inactiveSet (l : Lbk) (w : WSet) (stall : BitVec 32) : (l.loaded w stall).inactiveSet = w := by
  cases h : l.active <;> simp [Lbk.loaded, Lbk.setInactive, Lbk.inactiveSet, h]

@[simp] theorem loaded_activeSet (l : Lbk) (w : WSet) (stall : BitVec 32) : (l.loaded w stall).activeSet = l.activeSet := by
  cases h : l.active <;> simp [Lbk.loaded, Lbk.setInactive, Lbk.activeSet, h]

/-- The machine after the load of a site's inactive set, which takes a time that the spec leaves open. -/
def Dev.loadSet (d : Dev) (site : Nat) (w : WSet) : Dev :=
  d.draw.2.modLbk site (fun l => l.loaded w (satAdd l.stallWload (Config.cycles 0 d.free)))

theorem loadSet_lbk {d : Dev} {site : Nat} (h : site < d.sites.length) (w : WSet) : ((d.loadSet site w).site site).lbk =
    (d.site site).lbk.loaded w (satAdd (d.site site).lbk.stallWload (Config.cycles 0 d.free)) :=
  congrArg Site.lbk (lbk_modLbk_same d.draw.2 _ h)

section
variable {d : Dev} {c : Fin 72} {x : Ctx} {f : Fetched} (h : d.issues c.val 0x10 x f)
include h

/-- A WLOAD that nothing stops loads the inactive set from the bytes that its chunk sees. -/
theorem wload_loads {ls : LoadSrc} (hls : loadSrcOf (x.resolve f.bytes) = ls) (hok : wloadOk ls = true)
    (hread : ∀ r ∈ wloadRanges ls, x.mayRead d r.1 r.2 = true) (hpend : pendOk (d.cq c.val).pend = true)
    (hclean : d.clean (wloadRanges ls)) : ∃ (e : Dev) (data : Nat → Nat → List Byte), e.cqs = (d.issued c.val x f).cqs ∧ e.sites = d.sites ∧
      wload c false d = (e.loadSet x.site (loadedSet .loading (cmdTag (x.resolve f.bytes)) ls data)).putFlight c.val
        (x.flightOf f).done := by
  have hissue : d.issue? c.val opWload = _ := issue?_of_issues h
  have hbytes : (x.flightOf f).bytes = x.resolve f.bytes := rfl
  have hx := (ctx?_core h.1).1
  have honly := issued_only h
  have hfind := find?_mayRead_none (d := d.issued c.val x f) fun r hr => (issued_mayRead h r.1 r.2).trans (hread r hr)
  obtain ⟨e, hdone, he, hcqs⟩ := unitWrite_reads (clean_of_only honly hclean) (by rw [issued_pend h]; exact hpend)
  have hsums := WSet.sumsOk_of_summed (loadedSet_summed .loading (cmdTag (x.resolve f.bytes)) hok (view_length e c.val))
  refine ⟨e, e.view c.val, hcqs, (Only.step he rfl honly).same .sites rfl, ?_⟩
  simp only [wload, hissue, wloadUnit, hbytes, hls, hok, hx, hfind, hdone, hsums, Dev.draw, Bool.false_eq_true, Bool.not_true, if_false]
  rfl

/-- A WLOAD whose load-sum check an error in the hardware makes fail. -/
theorem wload_fault : wload c true d = (d.issued c.val x f).laneFault x.site 1 (cmdTag (x.resolve f.bytes)) := by
  have hissue : d.issue? c.val opWload = _ := issue?_of_issues h
  simp only [wload, hissue, wloadUnit, if_true]
  rfl
end

/-! ### WSWAP (R156) -/

/-- A lane block whose sets have exchanged their roles. -/
def Lbk.swapped (l : Lbk) (stall : BitVec 32) : Lbk := { l with active := !l.active, stallSwap := stall }

/-- The machine after the exchange of a site's sets, which takes a time that the spec leaves open. -/
def Dev.swapSets (d : Dev) (site : Nat) : Dev :=
  d.draw.2.modLbk site (fun l => l.swapped (satAdd l.stallSwap (Config.cycles 1 d.free)))

theorem swapSets_site {d : Dev} {site : Nat} (h : site < d.sites.length) : (d.swapSets site).site site =
    { d.site site with lbk := (d.site site).lbk.swapped (satAdd (d.site site).lbk.stallSwap (Config.cycles 1 d.free)) } :=
  lbk_modLbk_same d.draw.2 _ h

theorem wswap_completes {d : Dev} {c : Fin 72} {x : Ctx} {f : Fetched} (h : d.issues c.val 0x11 x f) :
    wswap c d = ((d.issued c.val x f).swapSets x.site).completeNow x (x.flightOf f) := by
  have hissue : d.issue? c.val opWswap = _ := issue?_of_issues h
  simp only [wswap, hissue]
  rfl

/-! ### DUMMY (R166) -/

/-- The array's demand is at least the DENSITY of a DUMMY in flight. -/
theorem density_le_demandOf {flights : List Flight} {g : Flight} (hg : g ∈ flights) (hop : cmdOp g.bytes = 0x01) :
    fld g.bytes 12 1 ≤ demandOf flights := by
  rw [demandOf, List.foldl_eq_foldr]
  refine List.le_max_of_le' 0 (List.mem_map_of_mem hg) (Nat.le_of_eq ?_)
  rw [hop]
  rfl

/-- A flight put back after its issue stands among the flights. -/
theorem putFlight_stands {d : Dev} {c op : Nat} {x : Ctx} {f : Fetched} (h : d.issues c op x f) {fl : Flight} (hidx : fl.idx = f.idx) :
    ∃ g ∈ (((d.issued c x f).putFlight c fl).cq c).flights, g.bytes = fl.bytes := by
  rw [Dev.putFlight, cq_modCq_same _ _ (issued_taken h).present]
  refine ⟨_, List.mem_map_of_mem (issued_flight h), ?_⟩
  rw [if_pos (by rw [hidx]; exact beq_self_eq_true f.idx)]

/-- A DUMMY ends at once, and the array's demand follows it. -/
theorem dummy_draws {d : Dev} {c : Fin 72} {x : Ctx} {f : Fetched} (h : d.issues c.val 0x01 x f) :
    dummy c d = ((d.issued c.val x f).putFlight c.val (x.flightOf f).done).updateDemand c.val x.site := by
  have hissue : d.issue? c.val opDummy = _ := issue?_of_issues h
  simp only [dummy, hissue, (ctx?_core h.1).1]

/-- Settles O34: the check sums that a WLOAD forms pass their own check, and WSWAP and DUMMY change the lane block alone. -/
theorem stationarySetsAndDummies : Obligations.StationarySetsAndDummies := by
  unfold Obligations.StationarySetsAndDummies
  refine ⟨?wload, ?fault, ?wswap, ?dummy⟩
  case wload =>
    intro s c x f h hsite hok hread hpend hclean
    obtain ⟨e, data, hcqs, hsites, hload⟩ := wload_loads h rfl hok hread hpend hclean
    obtain ⟨-, hworked, hothers⟩ := putFlight_ended h (e := e.loadSet x.site _) (g := id) (hcqs.trans (List.modify_id ..).symm)
      (fun _ => rfl) (fl := (x.flightOf f).done) rfl rfl
    have hmem : (wload c false s.dev).mem = s.dev.mem := (wload_only ..).same .mem rfl
    refine completes_of_run rfl ?_
    rw [hload] at hmem ⊢
    rw [putFlight_site, loadSet_lbk (hsites ▸ hsite), site_of_sites hsites, loaded_inactiveSet, loaded_activeSet]
    exact ⟨rfl, rfl, rfl, rfl, rfl, hworked, hmem, hothers⟩
  case fault =>
    intro s c x f h hsite hsound
    obtain ⟨hbit, hstate⟩ := laneFault_of_issues h hsite hsound (congrArg List.length (issued_sites h)) (issued_health h) 1
      (cmdTag (x.resolve f.bytes))
    have hmem : (wload c true s.dev).mem = s.dev.mem := (wload_only ..).same .mem rfl
    refine completes_of_run rfl ?_
    rw [wload_fault h] at hmem ⊢
    exact ⟨hbit, hstate, hmem⟩
  case wswap =>
    intro s c x f h hsite
    obtain ⟨hdone, hothers, -⟩ := ((issued_taken h).of_cqs (e' := (s.dev.issued c.val x f).swapSets x.site) rfl rfl).completes
      (ctx?_core h.1).1 (by rw [h.2.2.2.1]; rfl)
    have hmem : (wswap c s.dev).mem = s.dev.mem := (wswap_only ..).same .mem rfl
    have hsite' := swapSets_site ((issued_sites h).symm ▸ hsite : x.site < (s.dev.issued c.val x f).sites.length)
    refine completes_of_run rfl ?_
    rw [wswap_completes h] at hmem ⊢
    rw [site_of_sites (completeNow_sites ..), hsite', issued_site h]
    exact ⟨rfl, rfl, rfl, rfl, hdone, hmem, hothers⟩
  case dummy =>
    intro s c x f h hsite
    obtain ⟨-, hworked, hothers⟩ := putFlight_ended h (e := s.dev.issued c.val x f) (g := id) (List.modify_id ..).symm (fun _ => rfl)
      (fl := (x.flightOf f).done) rfl rfl
    have hmem : (dummy c s.dev).mem = s.dev.mem := (dummy_only ..).same .mem rfl
    have hdemand : ((dummy c s.dev).site x.site).lbk.demand = demandOf ((dummy c s.dev).cq c.val).flights := by
      rw [dummy_draws h, Dev.updateDemand, lbk_modLbk_same _ _ ((issued_sites h).symm ▸ hsite)]
      exact setDemand_demand ..
    have hdensity : fld f.bytes 12 1 ≤ demandOf ((dummy c s.dev).cq c.val).flights := by
      obtain ⟨g, hg, hbytes⟩ := putFlight_stands h (fl := (x.flightOf f).done) rfl
      have hresolve : g.bytes = f.bytes := hbytes.trans (resolve_of_no_addr x (by rw [h.2.2.2.1]; rfl))
      rw [dummy_draws h, updateDemand_cq, ← hresolve]
      exact density_le_demandOf hg (hresolve ▸ h.2.2.2.1)
    refine completes_of_run rfl ⟨hdemand, hdemand ▸ hdensity, ?_⟩
    rw [dummy_draws h] at hmem ⊢
    exact ⟨hworked, hmem, hothers, by rw [updateDemand_acc, putFlight_site, issued_site h]⟩

end Sys2Proof.Machine
end

section
/-! SUPPORT. MMA: its rows one by one, its checks at issue, and its check faults (R151, R157, R163, R164, R213, R217). -/

namespace Sys2Proof.Machine

/-! ### The table of rows -/

theorem find?_rowSet_same (rows : List (Nat × AccRow)) (i : Nat) (row : AccRow) :
    (rowSet rows i row).find? (fun e => e.1 == i) = some (i, row) := by
  induction rows with
  | nil => simp [rowSet]
  | cons e rows ih =>
    rw [rowSet]
    split
    · simp
    next hne =>
      split
      · simp
      · rw [List.find?_cons_of_neg (by simpa using hne), ih]

theorem find?_rowSet_other (rows : List (Nat × AccRow)) {i k : Nat} (h : k ≠ i) (row : AccRow) :
    (rowSet rows i row).find? (fun e => e.1 == k) = rows.find? (fun e => e.1 == k) := by
  have hik : i ≠ k := h.symm
  induction rows with
  | nil => simp [rowSet, hik]
  | cons e rows ih =>
    rw [rowSet]
    split
    next he => simp [he, hik]
    next =>
      split
      · simp [hik]
      · rw [List.find?_cons, List.find?_cons, ih]

/-- An accumulator with one row set. -/
theorem row?_of_rowSet_same {a b : Acc} {i : Nat} {row : AccRow} (h : b.rows = rowSet a.rows i row) : b.row? i = some row := by
  rw [Acc.row?, h, find?_rowSet_same]; rfl

theorem row?_of_rowSet_other {a b : Acc} {i k : Nat} {row : AccRow} (h : b.rows = rowSet a.rows i row) (hk : k ≠ i) :
    b.row? k = a.row? k := by
  rw [Acc.row?, h, find?_rowSet_other _ hk, Acc.row?]

theorem mmaRow_anchor (a : Int) (row : AccRow) (w : WSet) (ops : List (Option (Dy × List Dy))) (outs : List Outlier) (bad : Bool)
    (map : List (BitVec 16)) (draw : Nat) : (mmaRow a row w ops outs bad map draw).1.anchor = row.anchor := rfl

/-! ### One row (R157, R163, R164, R213, R217) -/

/-- Every rescale of the side path passes its residue check (R164). -/
theorem sideResidues_true (w : WSet) (outs : List Outlier) : sideResidues w outs = true := by
  refine List.all_eq_true.2 fun j _ => List.all_eq_true.2 fun o _ => ?_
  split
  · exact residueOk_mul _ _
  · rfl

/-- The accumulator row as row `r` of an MMA finds it: anew, or with what it holds (R213, R217). -/
def startRow (acc : Acc) (bs : List Byte) (r : Nat) : AccRow :=
  let zero := zeroRow (BitVec.ofNat 16 (fld bs 32 2))
  if fld bs 26 1 = 0 then zero else (acc.row? (fld bs 28 2 + r)).getD zero

/-- Where no anchor clashes, it has the anchor of the command; `now` is the accumulator once earlier rows have entered. -/
theorem startRow_anchor {acc now : Acc} {bs : List Byte} {r : Nat} (hmode : fld bs 26 1 ≤ 1) (hclash : anchorClash acc bs = false)
    (hr : r < fld bs 30 2) (hrow : now.row? (fld bs 28 2 + r) = acc.row? (fld bs 28 2 + r)) :
    (startRow now bs r).anchor = BitVec.ofNat 16 (fld bs 32 2) := by
  unfold startRow
  split
  · rfl
  next hne =>
    have haccum : fld bs 26 1 = 1 := by omega
    simp only [anchorClash, haccum, beq_self_eq_true, Bool.true_and, List.any_eq_false, List.mem_range] at hclash
    have hsame := hclash r hr
    rw [hrow]
    cases hold : acc.row? (fld bs 28 2 + r) with
    | none => rfl
    | some old => simpa [hold] using hsame

/-- Against a READY set, the set that the rows of an MMA meet is that one. -/
theorem ite_ready {w : WSet} (h : w.st = .ready) : (if w.st == .ready then w else {}) = w := if_pos (by rw [h]; rfl)

/-- What an MMA makes of its site when a row enters: the accumulator row `i` and counters. -/
def Site.RowEntered (s s' : Site) (i : Nat) (row : AccRow) : Prop := s'.lbk = s.lbk ∧ s'.acc.rows = rowSet s.acc.rows i row

/-- A row of an MMA that nothing stops enters its accumulator row. -/
theorem mmaUnit_adds {x : Ctx} {d : Dev} {fl : Flight} {r : Nat} (hready : (d.site x.site).lbk.activeSet.st = .ready)
    (hsummed : (d.site x.site).lbk.activeSet.summed)
    (hread : ∀ g ∈ mmaRanges (d.site x.site).lbk.activeSet fl.bytes r [], x.mayRead d g.1 g.2 = true)
    (hclean : d.clean (mmaRanges (d.site x.site).lbk.activeSet fl.bytes r [])) (hpend : pendOk (d.cq x.c).pend = true) :
    ∃ (e : Dev) (fl' : Flight) (row : AccRow), mmaUnit x d fl r [] = (e, fl', .done) ∧ fl.UnitDone fl' ∧
      Only [.cqs, .stks, .dscs, .sites, .free] d e ∧ e.cqs = d.cqs ∧
      (d.site x.site).RowEntered (e.site x.site) (fld fl.bytes 28 2 + r) row ∧
      row.anchor = (startRow (d.site x.site).acc fl.bytes r).anchor := by
  have hsite : x.site < d.sites.length := lt_of_site_ne (fun s => s.lbk.activeSet.st) (by rw [hready]; decide)
  have hfind := find?_mayRead_none hread
  obtain ⟨u, hdone, honly, hcqs⟩ := unitWrite_reads hclean hpend
  have husites : u.sites = d.sites := honly.same .sites rfl
  have husite : u.site x.site = d.site x.site := site_of_sites husites _
  have hunit : ∃ (g : Site → Site) (fl' : Flight) (row : AccRow), mmaUnit x d fl r [] = (u.draw.2.modSite x.site g, fl', .done) ∧
      fl.UnitDone fl' ∧ (∀ s : Site, s.RowEntered (g s) (fld fl.bytes 28 2 + r) row) ∧
      row.anchor = (startRow (d.site x.site).acc fl.bytes r).anchor := by
    unfold mmaUnit
    simp only [ite_ready hready, hfind, hdone, rowCheck_of_summed hsummed, rowResidues_true, sideResidues_true, Bool.and_self, Bool.not_true,
      Bool.false_eq_true, if_false, husite]
    exact ⟨_, _, _, rfl, ⟨fl.first, _, _, rfl⟩, fun _ => ⟨rfl, rfl⟩, mmaRow_anchor ..⟩
  obtain ⟨g, fl', row, hmma, hfl, hg, hanchor⟩ := hunit
  refine ⟨_, fl', row, hmma, hfl, ?_, hcqs, ?_, hanchor⟩
  · exact Only.step (modSite_only ..) rfl (Only.step (draw_only u) rfl (Only.step honly rfl (Only.refl _ d)))
  · rw [site_modSite_same _ g (husites ▸ hsite), ← husite]
    exact hg _

/-! ### All rows -/

/-- An MMA with the bytes `bs` meets a READY set with its sums, no other anchor, and rows that it may read and that are clean: nothing
stops its rows. -/
structure MmaRuns (d : Dev) (x : Ctx) (bs : List Byte) : Prop where
  ready : (d.site x.site).lbk.activeSet.st = .ready
  summed : (d.site x.site).lbk.activeSet.summed
  mode : fld bs 26 1 ≤ 1
  noClash : anchorClash (d.site x.site).acc bs = false
  read : ∀ r < fld bs 30 2, ∀ g ∈ mmaRanges (d.site x.site).lbk.activeSet bs r [], x.mayRead d g.1 g.2 = true
  clean : ∀ r < fld bs 30 2, d.clean (mmaRanges (d.site x.site).lbk.activeSet bs r [])
  pend : pendOk (d.cq x.c).pend = true

/-- From `d` to `e`, the first `r` rows of an MMA with the bytes `bs` have entered their accumulator rows. -/
structure MmaEntered (x : Ctx) (bs : List Byte) (d : Dev) (r : Nat) (e : Dev) : Prop where
  only : Only [.cqs, .stks, .dscs, .sites, .free] d e
  cqs : e.cqs = d.cqs
  lbk : (e.site x.site).lbk = (d.site x.site).lbk
  anchors : ∀ k < r, ((e.site x.site).acc.row? (fld bs 28 2 + k)).map (·.anchor) = some (BitVec.ofNat 16 (fld bs 32 2))
  others : ∀ k, k < fld bs 28 2 ∨ fld bs 28 2 + r ≤ k → (e.site x.site).acc.row? k = (d.site x.site).acc.row? k

theorem MmaEntered.start (x : Ctx) (bs : List Byte) (d : Dev) : MmaEntered x bs d 0 d :=
  ⟨.refl _ d, rfl, rfl, fun _ hk => absurd hk (Nat.not_lt_zero _), fun _ _ => rfl⟩

/-- The next row of an MMA that nothing stops. -/
theorem MmaEntered.next {x : Ctx} {bs : List Byte} {d e : Dev} {r : Nat} {fl : Flight} (hruns : MmaRuns d x bs) (hr : r < fld bs 30 2)
    (h : MmaEntered x bs d r e) (hbytes : fl.bytes = bs) :
    ∃ (e' : Dev) (fl' : Flight), mmaUnit x e fl r [] = (e', fl', .done) ∧ MmaEntered x bs d (r + 1) e' ∧ fl.UnitDone fl' := by
  subst hbytes
  have hmem : e.mem = d.mem := h.only.same .mem rfl
  have hpwr : e.pwr = d.pwr := h.only.same .pwr rfl
  have hwipes : e.wipes = d.wipes := h.only.same .wipes rfl
  have hshared : e.shared = d.shared := h.only.same .shared rfl
  obtain ⟨e', fl', row, hmma, hfl, honly, hcqs, ⟨hlbk, hrows⟩, hanchor⟩ := mmaUnit_adds (x := x) (d := e) (fl := fl) (r := r)
    (by rw [h.lbk]; exact hruns.ready) (by rw [h.lbk]; exact hruns.summed)
    (fun g hg => by rw [mayRead_of_shared hshared]; exact hruns.read r hr g (h.lbk ▸ hg))
    (by rw [h.lbk]; exact clean_of_same hmem hpwr hwipes (hruns.clean r hr)) (by rw [cq_of_cqs h.cqs]; exact hruns.pend)
  rw [startRow_anchor hruns.mode hruns.noClash hr (h.others _ (Or.inr (Nat.le_refl _)))] at hanchor
  refine ⟨e', fl', hmma, ⟨Only.step honly rfl h.only, hcqs.trans h.cqs, hlbk.trans h.lbk, fun k hk => ?_, fun k hk => ?_⟩, hfl⟩
  · by_cases hkr : k = r
    · rw [hkr, row?_of_rowSet_same hrows, Option.map_some, hanchor]
    · rw [row?_of_rowSet_other hrows (by omega)]
      exact h.anchors k (by omega)
  · rw [row?_of_rowSet_other hrows (by omega)]
    exact h.others k (by omega)

/-- The rows of an MMA that nothing stops. -/
theorem mma_rows_entered {x : Ctx} {bs : List Byte} {d : Dev} {fl : Flight} (hruns : MmaRuns d x bs) (hstream : astream? bs = none)
    (hbytes : fl.bytes = bs) (hunits : fl.units = 0) : ∃ (e : Dev) (fl' : Flight), unitLoop x 3 (mmaUnit x) (fld bs 30 2) d fl = (e, fl'.done) ∧
      MmaEntered x bs d (fld bs 30 2) e ∧ fl'.idx = fl.idx ∧ fl'.status = fl.status :=
  unitLoop_done (P := MmaEntered x bs d) hstream (fun _ _ _ hr h hb => h.next hruns hr hb) x 3 _ (by omega)
    (hunits ▸ MmaEntered.start x bs d) hbytes

/-! ### The command -/

@[simp] theorem mmaStalls_acc (d : Dev) (n : Nat) (fl : Flight) (k : Nat) : ((d.mmaStalls n fl).site k).acc = (d.site k).acc := by
  unfold Dev.mmaStalls
  exact (site_modSite_view (·.acc) (by intro; rfl) (d.arrayStalls n) n k).trans (site_modSite_view (·.acc) (by intro; rfl) d.draw.2 n k)

/-- The bit of LBK_CHECK_ERR that a failed check of an MMA sets (R163, R164). -/
def MmaFault.bit : MmaFault → Fin 3
  | .row => 0
  | .residue => 2

section
variable {d : Dev} {c : Fin 72} {x : Ctx} {f : Fetched} (h : d.issues c.val 0x12 x f)
include h

/-- An MMA that issues runs on the machine whose array's demand follows it. -/
theorem mma_runs (flt : Option MmaFault) : mma c flt d = mmaRun (d.issued c.val x f) x (x.flightOf f) flt := by
  have hissue : d.issue? c.val opMma = _ := issue?_of_issues h
  simp only [mma, hissue]

/-- What an MMA needs to run holds still once it has issued. -/
theorem MmaRuns.issued (hruns : MmaRuns d x (x.resolve f.bytes)) :
    MmaRuns ((d.issued c.val x f).updateDemand c.val x.site) x (x.resolve f.bytes) := by
  obtain ⟨hready, hsummed, hmode, hclash, hread, hclean, hpend⟩ := hruns
  have hset : (((d.issued c.val x f).updateDemand c.val x.site).site x.site).lbk.activeSet = (d.site x.site).lbk.activeSet := by
    rw [updateDemand_activeSet, issued_site h]
  refine ⟨hset ▸ hready, hset ▸ hsummed, hmode, ?_, fun r hr g hg => ?_, fun r hr => ?_, ?_⟩
  · rw [updateDemand_acc, issued_site h]; exact hclash
  · rw [hset] at hg
    exact (issued_mayRead h g.1 g.2).trans (hread r hr g hg)
  · rw [hset]
    exact clean_of_only (issued_only h) (hclean r hr)
  · rw [updateDemand_cq, issued_pend h]; exact hpend

/-- An MMA that nothing stops ends with all its rows entered. -/
theorem mma_enters (hruns : MmaRuns d x (x.resolve f.bytes)) (hstream : astream? (x.resolve f.bytes) = none)
    (hok : mmaOk (d.site x.site).lbk.activeSet (x.resolve f.bytes) = true) (hgrant : (d.site x.site).lbk.grant ≠ 0) :
    ∃ (e : Dev) (fl : Flight), mma c none d = (e.mmaStalls x.site fl.done).putFlight c.val fl.done ∧
      MmaEntered x (x.resolve f.bytes) ((d.issued c.val x f).updateDemand c.val x.site) (fld (x.resolve f.bytes) 30 2) e ∧
      fl.idx = f.idx ∧ fl.status = 0 := by
  have hbytes : (x.flightOf f).bytes = x.resolve f.bytes := rfl
  have hunits : (x.flightOf f).units = 0 := rfl
  have hruns' := hruns.issued h
  obtain ⟨e, fl, hloop, hentered, hidx, hstatus⟩ := mma_rows_entered hruns' hstream hbytes hunits
  refine ⟨e, fl, ?_, hentered, hidx, hstatus⟩
  obtain ⟨hready, -, -, hclash, hread, -, -⟩ := hruns'
  have hfind := find?_mayRead_none (x := x) (d := (d.issued c.val x f).updateDemand c.val x.site)
    (rs := (List.range (fld (x.resolve f.bytes) 30 2)).flatMap
      (fun r => mmaRanges (((d.issued c.val x f).updateDemand c.val x.site).site x.site).lbk.activeSet (x.resolve f.bytes) r []))
    (fun g hg => by
      obtain ⟨r, hr, hg⟩ := List.mem_flatMap.1 hg
      exact hread r (List.mem_range.1 hr) g hg)
  have hgrant' : (((d.issued c.val x f).updateDemand c.val x.site).site x.site).lbk.grant ≠ 0 := by
    rw [updateDemand_grant, issued_site h]; exact hgrant
  have hok' : mmaOk (((d.issued c.val x f).updateDemand c.val x.site).site x.site).lbk.activeSet (x.resolve f.bytes) = true := by
    rw [updateDemand_activeSet, issued_site h]; exact hok
  rw [mma_runs h, mmaRun]
  simp only [hbytes, hunits, (ctx?_core h.1).1, hok', hclash, ite_ready hready, hstream, Option.isNone_none, hfind, hgrant', hloop,
    Nat.sub_zero, Bool.not_true, Bool.and_false, Bool.false_eq_true, if_true, if_false, decide_true]

/-- An MMA that meets a row of another anchor. -/
theorem mma_clashes (hok : mmaOk (d.site x.site).lbk.activeSet (x.resolve f.bytes) = true)
    (hclash : anchorClash (d.site x.site).acc (x.resolve f.bytes) = true) :
    mma c none d = (((d.issued c.val x f).updateDemand c.val x.site).modAcc x.site
      (fun a => { a with anchorErr := satInc a.anchorErr })).putFlight c.val ((x.flightOf f).bad none) := by
  have hbytes : (x.flightOf f).bytes = x.resolve f.bytes := rfl
  have hunits : (x.flightOf f).units = 0 := rfl
  rw [mma_runs h, mmaRun]
  simp only [hbytes, hunits, (ctx?_core h.1).1, updateDemand_activeSet, updateDemand_acc, issued_site h, hok, hclash, Bool.not_true,
    Bool.and_false, Bool.and_true, Bool.false_eq_true, if_true, if_false, decide_true]

/-- A check fault of an MMA sets the bit of its check and begins a recovery of the site. -/
theorem mma_fault_reports (flt : MmaFault) (hsite : x.site < d.sites.length) (hsound : d.sound x.site) : let d' := mma c (some flt) d
    (d'.site x.site).lbk.checkErr.val.getLsbD flt.bit.val = true ∧ d'.siteState x.site = .recovering ∧ d'.mem = d.mem := by
  have hmma : mma c (some flt) d =
      ((d.issued c.val x f).updateDemand c.val x.site).laneFault x.site flt.bit.val (cmdTag (x.resolve f.bytes)) := by
    rw [mma_runs h, ← (ctx?_core h.1).1]
    cases flt <;> rfl
  obtain ⟨hbit, hstate⟩ := laneFault_of_issues h hsite hsound (e := (d.issued c.val x f).updateDemand c.val x.site)
    ((updateDemand_length ..).trans (congrArg List.length (issued_sites h))) ((updateDemand_health ..).trans (issued_health h)) flt.bit
    (cmdTag (x.resolve f.bytes))
  exact ⟨hmma ▸ hbit, hmma ▸ hstate, (mma_only c (some flt) d).same .mem rfl⟩
end

/-- An accumulator with a row of another anchor is that of a site in the table. -/
theorem lt_of_anchorClash {d : Dev} {n : Nat} {bs : List Byte} (h : anchorClash (d.site n).acc bs = true) : n < d.sites.length :=
  lt_of_site_ne (fun s => anchorClash s.acc bs) (by
    rw [h]
    simp [anchorClash, Acc.row?])

/-- Settles O35: each row of an MMA that nothing stops enters its accumulator row, whose anchor is the command's, and no other. -/
theorem mmaAddsIntoItsRows : Obligations.MmaAddsIntoItsRows := by
  unfold Obligations.MmaAddsIntoItsRows
  refine ⟨?adds, ?clash, ?row, ?residue⟩
  case adds =>
    intro s c x f h hstream hsummed hmode hready hok hclash hgrant hread hclean hpend
    have hruns : MmaRuns s.dev x (x.resolve f.bytes) :=
      ⟨hready, hsummed, hmode, hclash, hread, hclean, (ctx?_core h.1).1.symm ▸ hpend⟩
    obtain ⟨e, fl, hmma, hentered, hidx, hstatus⟩ := mma_enters h hruns hstream hok hgrant
    obtain ⟨⟨l, hq⟩, hworked, hothers⟩ := putFlight_ended h (e := e.mmaStalls x.site fl.done) (g := id)
      (hentered.cqs.trans (List.modify_id ..).symm) (fun _ => rfl) (fl := fl.done) hidx rfl
    have hmem : (mma c none s.dev).mem = s.dev.mem := (mma_only ..).same .mem rfl
    refine completes_of_run rfl ?_
    rw [hmma] at hmem ⊢
    rw [putFlight_site, mmaStalls_acc]
    refine ⟨hentered.anchors, fun k _ hk => ?_, hstatus ▸ hworked, ?_, hmem, hothers⟩
    · rw [hentered.others k hk, updateDemand_acc, issued_site h]
    · rw [hq]; exact issued_pend h c.val
  case clash =>
    intro s c x f h hok hclash
    obtain ⟨-, hworked, hothers⟩ := putFlight_ended h (e := ((s.dev.issued c.val x f).updateDemand c.val x.site).modAcc x.site _) (g := id)
      (List.modify_id ..).symm (fun _ => rfl) (fl := (x.flightOf f).bad none) rfl rfl
    have hmem : (mma c none s.dev).mem = s.dev.mem := (mma_only ..).same .mem rfl
    have hsite : x.site < ((s.dev.issued c.val x f).updateDemand c.val x.site).sites.length := by
      rw [updateDemand_length, issued_sites h]; exact lt_of_anchorClash hclash
    refine completes_of_run rfl ?_
    rw [mma_clashes h hok hclash] at hmem ⊢
    rw [putFlight_site, acc_modAcc_same _ _ hsite, updateDemand_acc, issued_site h]
    exact ⟨rfl, rfl, hworked, hmem, hothers⟩
  case row => exact fun _ _ _ _ h hsite hsound => completes_of_run rfl (mma_fault_reports h .row hsite hsound)
  case residue => exact fun _ _ _ _ h hsite hsound => completes_of_run rfl (mma_fault_reports h .residue hsite hsound)

end Sys2Proof.Machine
end

section
/-! SUPPORT. The codes that a unit of a QUANT writes (R171, R190), and the machine on which the statement about QUANT fails. -/

namespace Sys2Proof.Machine

/-! ### The codes of a unit -/

/-- Chunks cut from a list that is long enough for them: their elements are those of its head. -/
theorem length_flatMap_chunksOf {α β : Type} {n m : Nat} {f : List α → List β} (hf : ∀ l, l.length = n → (f l).length = m) (k : Nat)
    {l : List α} (hl : k * n ≤ l.length) : ((chunksOf n k l).flatMap f).length = k * m := by
  induction k generalizing l with
  | zero => simp [chunksOf]
  | succ k ih =>
    rw [Nat.succ_mul] at hl
    rw [chunksOf, List.flatMap_cons, List.length_append, hf _ (by rw [List.length_take]; omega), ih (by rw [List.length_drop]; omega),
      Nat.succ_mul, Nat.add_comm]

theorem length_rotate (seed : BitVec 64) (rot : Nat) (xs : List Dy) : (rotate seed rot xs).length = rotSize rot := by
  simp [rotate]

theorem length_quantGroup_codes (q : QMode) (e0 : Nat) (xs : List Dy) : (quantGroup q e0 xs).codes.length = xs.length := by
  simp [quantGroup]

/-- Groups have a code for each value, whatever place the codes are drawn for. -/
theorem length_zipIdx_codes (q : QMode) (e0 : Nat) (ls : List (List Dy)) :
    ((ls.zipIdx.map (fun p => quantGroup q (e0 + p.2 * q.g) p.1)).flatMap (·.codes)).length = (ls.flatMap (fun l => l)).length := by
  have hfst : (fun p : List Dy × Nat => (quantGroup q (e0 + p.2 * q.g) p.1).codes.length) = List.length ∘ Prod.fst :=
    funext fun p => length_quantGroup_codes ..
  rw [List.flatMap_map, List.length_flatMap, List.length_flatMap, hfst, ← List.map_map, List.zipIdx_map_fst]

/-- A unit of whole groups and whole rotation blocks is converted to as many codes as it has inputs. -/
theorem length_quantUnitGroups_codes {q : QMode} {vs : List Val} (hg : q.g ∣ vs.length) (hrot : q.rot ≠ 0 → rotSize q.rot ∣ vs.length)
    (e0 : Nat) : ((quantUnitGroups q e0 vs).flatMap (·.codes)).length = vs.length := by
  have hgroups := Nat.div_mul_cancel hg
  unfold quantUnitGroups
  split
  · rw [length_zipIdx_codes, length_flatMap_chunksOf (m := q.g) (fun _ h => h)]
    · exact hgroups
    · split
      · rw [List.length_map, hgroups]
      next hne =>
        rw [length_flatMap_chunksOf (fun _ _ => length_rotate ..) _ (by rw [Nat.div_mul_cancel (by simpa using hrot hne)]), List.length_map,
          Nat.div_mul_cancel (hrot hne), hgroups]
  · simpa [List.flatMap_replicate, invalidGroup] using hgroups

/-! ### What they occupy -/

/-- The codes of a format without a width are packed into 4 bytes each, though `elemBytes` gives them none. -/
theorem length_packElems_of_no_width {fmt : Nat} (h : fmtBits fmt = 0) (cs : List Nat) : (packElems fmt cs).length = 4 * cs.length := by
  simp only [packElems, h]
  induction cs with
  | nil => rfl
  | cons c cs ih => rw [List.flatMap_cons, List.length_append, ih, List.length_cons, Nat.mul_succ, Nat.add_comm]; rfl

/-- The writes of a unit of work that is done are pending. -/
theorem pend_of_unitWrite_done {d e : Dev} {c : Nat} {reads : List (Nat × Nat)} {writes : List (Nat × List Byte)}
    (h : d.unitWrite c reads writes = (e, .done)) (hc : c < d.cqs.length) :
    (e.cq c).pend = writes.foldl (fun p w => cellSetAll p w.1 w.2) (d.cq c).pend := by
  unfold Dev.unitWrite at h
  split at h
  · cases h
  · dsimp only at h
    split at h
    · cases h
    · split at h
      · cases h
      · split at h
        · cases h
          rw [cq_modCq_same]
          rwa [(unitLines_only ..).same .cqs rfl]
        · cases h

/-- A unit of a QUANT of BF16 inputs that is done has its codes pending, before its scale records and its side stream. -/
theorem quantUnit_pend {x : Ctx} {d e : Dev} {fl fl' : Flight} {u n : Nat} (h : quantUnit x d fl u [] = (e, fl', .done))
    (hc : x.c < d.cqs.length) (hin : fld fl.bytes 32 1 = 9) (hn : unitElems (groupOf (fld fl.bytes 34 1)) (fld fl.bytes 36 1) = n)
    (hg : groupOf (fld fl.bytes 34 1) ∣ n) (hrot : fld fl.bytes 36 1 ≠ 0 → rotSize (fld fl.bytes 36 1) ∣ n) :
    ∃ (codes : List Nat) (a : Nat) (ws : List (Nat × List Byte)), codes.length = n ∧ (e.cq x.c).pend =
      ws.foldl (fun p w => cellSetAll p w.1 w.2) (cellSetAll (d.cq x.c).pend a (packElems (fld fl.bytes 33 1) codes)) := by
  unfold quantUnit at h
  dsimp only at h
  split at h
  · cases h
  · split at h
    next hdone =>
      cases h
      refine ⟨_, _, _, ?_, pend_of_unitWrite_done hdone hc⟩
      have hlen : ∀ bs, (unpackElems (fld fl.bytes 32 1) n bs).length = n := by
        intro bs
        rw [hin]
        simp [unpackElems, fmtBits]
      subst hn
      rw [length_quantUnitGroups_codes] <;> rw [List.length_map]
      · exact hlen _
      · exact (hlen _).symm ▸ hg
      · exact fun hne => (hlen _).symm ▸ hrot hne
    next hne _ =>
      cases h
      exact (hne rfl).elim

/-- Pending bytes stay pending, and written ones become so. -/
theorem cellSetAll_ne_nil {m : List Host.Cell} {bs : List Byte} (h : m ≠ [] ∨ bs ≠ []) (a : Nat) : cellSetAll m a bs ≠ [] := by
  by_cases hbs : bs = []
  · obtain ⟨e, he⟩ := List.exists_mem_of_ne_nil m (h.resolve_right (not_not_intro hbs))
    subst hbs
    refine List.ne_nil_of_mem (a := e) ?_
    rcases Nat.lt_or_ge e.1 a with hlt | hge <;> simp [cellSetAll, splice, *]
  · obtain ⟨b, bs, rfl⟩ := List.exists_cons_of_ne_nil hbs
    exact List.ne_nil_of_mem (a := (a, b)) (by simp [cellSetAll, splice, cellsFrom])

theorem foldl_cellSetAll_ne_nil {m : List Host.Cell} (h : m ≠ []) (ws : List (Nat × List Byte)) :
    ws.foldl (fun p w => cellSetAll p w.1 w.2) m ≠ [] := by
  induction ws generalizing m with
  | nil => exact h
  | cons w ws ih => exact ih (cellSetAll_ne_nil (Or.inl h) w.1)

/-- A unit of a QUANT to a format code without a width, once done, has bytes pending, where its element range has none. -/
theorem quantUnit_pends_of_no_width {x : Ctx} {d e : Dev} {fl fl' : Flight} {u n : Nat} (h : quantUnit x d fl u [] = (e, fl', .done))
    (hc : x.c < d.cqs.length) (hin : fld fl.bytes 32 1 = 9) (hn : unitElems (groupOf (fld fl.bytes 34 1)) (fld fl.bytes 36 1) = n)
    (hg : groupOf (fld fl.bytes 34 1) ∣ n) (hrot : fld fl.bytes 36 1 ≠ 0 → rotSize (fld fl.bytes 36 1) ∣ n)
    (hwidth : fmtBits (fld fl.bytes 33 1) = 0) (hpos : 0 < n) : (e.cq x.c).pend ≠ [] := by
  obtain ⟨codes, a, ws, hcodes, hpend⟩ := quantUnit_pend h hc hin hn hg hrot
  have hlen := length_packElems_of_no_width hwidth codes
  rw [hpend]
  refine foldl_cellSetAll_ne_nil (cellSetAll_ne_nil (Or.inr (List.ne_nil_of_length_pos ?_)) a) ws
  omega

/-! ### A QUANT of one unit -/

@[simp] theorem quantStall_cq (d : Dev) (n k : Nat) : (d.quantStall n).cq k = d.cq k := rfl

theorem putFlight_pend (d : Dev) (c : Nat) (fl : Flight) (k : Nat) : ((d.putFlight c fl).cq k).pend = (d.cq k).pend :=
  cq_modCq_view (·.pend) (by intro; rfl) d c k

section
variable {d : Dev} {c : Fin 72} {x : Ctx} {f : Fetched} (h : d.issues c.val 0x16 x f) {bs : List Byte} (hbs : x.resolve f.bytes = bs)
include h hbs

/-- A QUANT without history that its own checks let through runs its units. -/
theorem quant_runs_units {as : List Nat} (has : [addrFld bs 8, addrFld bs 16, addrFld bs 24, addrFld bs 44] = as)
    (hok : quantOk (d.site x.site).qnt.histN.toNat bs = true) (hstream : astream? bs = none) (hhist : fld bs 56 2 = 0xFFFF)
    (hoverlap : anyOverlap (quantRanges bs (fld bs 40 4) as) = false)
    (hscratch : scratchOk (d.issued c.val x f) x 1 (quantRanges bs (fld bs 40 4) as) = none) {n : Nat}
    (hn : fld bs 40 4 / unitElems (groupOf (fld bs 34 1)) (fld bs 36 1) = n) {e : Dev} {fl : Flight}
    (hloop : unitLoop x 4 (quantUnit x) n (d.issued c.val x f) (x.flightOf f) = (e, fl)) :
    quant c false d = (e.quantStall x.site).putFlight c.val fl := by
  have hissue : d.issue? c.val opQuant = _ := issue?_of_issues h
  have hbytes : (x.flightOf f).bytes = bs := hbs
  have hunits : (x.flightOf f).units = 0 := rfl
  simp only [quant, hissue, quantRun, hbytes, hunits, issued_site h, hok, hstream, hhist, has, hoverlap, hscratch, hn, hloop, (ctx?_core h.1).1,
    Option.isNone_none, bne_self_eq_false, Nat.sub_zero, Bool.not_true, Bool.and_false, Bool.false_and, Bool.false_eq_true, if_true, if_false,
    decide_true]
end

/-- A command of one unit of work, which is done. -/
theorem unitLoop_one {f : Dev → Flight → Nat → List Nat → Dev × Flight × UnitEnd} {d e : Dev} {fl fl' : Flight}
    (hstream : astream? fl.bytes = none) (hunits : fl.units = 0) (hfirst : fl.first = []) (h : f d fl 0 [] = (e, fl', .done)) (x : Ctx)
    (k : Nat) : ∃ fl'', unitLoop x k f 1 d fl = (e, fl'') := by
  obtain ⟨idx, bytes, status, cflags, units, first, sums, badAddr, ended, idle⟩ := fl
  dsimp only at hstream hunits hfirst
  subst hunits hfirst
  simp only [unitLoop, hstream, if_true, h]
  exact ⟨_, rfl⟩

/-! ### The machine -/

/-- A QUANT of 32 BF16 inputs without rotation and history. Its output format is code 0, which names no format (R135, R144). -/
def formatlessQuant : List Byte :=
  [0x16, 0, 0, 0xF] ++ bytesLE 4 0 ++ bytesLE 8 (scratchBase 0 + 0x1000) ++ bytesLE 8 (scratchBase 0 + 0x2000) ++
    bytesLE 8 (scratchBase 0 + 0x3000) ++ [9, 0, 1, 0, 0, 0xFF] ++ bytesLE 2 0 ++ bytesLE 4 32 ++ bytesLE 12 0 ++ bytesLE 2 0xFFFF ++
    List.replicate 6 0

/-- A plan whose one chunk has one command. -/
def oneCommandPlan : Plan :=
  { handle := 1, func := 0, img := { steps := [⟨0, 900⟩], chunks := [⟨0, 0, 0, 0, [], 0, 1⟩], nCores := 1 }, cores := [0], imageAddr := 0
    imageLen := 0, state := .running }

def oneCommandRun : RunChunk := { handle := 1, idx := 0, release := 0, execAtStart := 0, flagCopy := 0 }

/-- Core 0 runs the chunk on site 0, and the QUANT is its next command, which no fetch check has ended. -/
def formatlessQuantNext : State :=
  ⟨{ pwr := { phase := .ready }, plans := [oneCommandPlan], siteOf := [0]
     cqs := [{ run := some oneCommandRun, fetched := [⟨0, formatlessQuant, none⟩] }], sites := [{}]
     health := { siteStates := [.inService] } }, []⟩

def formatlessQuantCtx : Ctx := ⟨0, oneCommandRun, oneCommandPlan, 0, 0⟩

theorem formatlessQuant_issues : formatlessQuantNext.dev.issues 0 0x16 formatlessQuantCtx ⟨0, formatlessQuant, none⟩ := by decide

/-- The QUANT leaves pending bytes. -/
theorem formatlessQuant_pends : ((quant 0 false formatlessQuantNext.dev).cq 0).pend ≠ [] := by
  obtain ⟨e, fl, hunit⟩ : ∃ e fl, quantUnit formatlessQuantCtx
      (formatlessQuantNext.dev.issued 0 formatlessQuantCtx ⟨0, formatlessQuant, none⟩)
      (formatlessQuantCtx.flightOf ⟨0, formatlessQuant, none⟩) 0 [] = (e, fl, .done) :=
    ⟨_, _, Prod.ext rfl (Prod.ext rfl (by decide))⟩
  have hpend := quantUnit_pends_of_no_width hunit (by decide) (by decide) rfl (by decide) (by decide) (by decide) (by decide)
  obtain ⟨fl', hloop⟩ := unitLoop_one (by decide) rfl rfl hunit formatlessQuantCtx 4
  have hquant := quant_runs_units (c := 0) formatlessQuant_issues rfl rfl (by decide) (by decide) (by decide) (by decide) (by decide)
    (by decide) hloop
  rw [hquant, putFlight_pend, quantStall_cq]
  exact hpend

/-- Refutes O38: the clause on QUANT bounds the output format from above alone. Code 0 names no format, so its element range is empty, but
the model packs each code into 4 bytes, which are pending outside every output range. Check 4 of R137 ends such a command with BAD_FIELD at
its fetch (R144); no hypothesis says that the check has judged the command, and in `formatlessQuantNext` it has not. -/
theorem not_quantiserCommandsComplete : ¬ Obligations.QuantiserCommandsComplete := by
  unfold Obligations.QuantiserCommandsComplete
  rintro ⟨hquant, -⟩
  obtain ⟨-, ⟨hpend, -⟩, -⟩ := of_completes rfl (hquant formatlessQuantNext 0 formatlessQuantCtx ⟨0, formatlessQuant, none⟩
    formatlessQuant_issues (by decide) (by decide) (by decide) (by decide) (by decide) (by decide) (by decide) (by decide) (by decide))
  obtain ⟨e, he⟩ := List.exists_mem_of_ne_nil _ formatlessQuant_pends
  have hempty : ∀ r ∈ (quantRanges formatlessQuant 32 [scratchBase 0 + 0x1000, scratchBase 0 + 0x2000, scratchBase 0 + 0x3000, 0]).tail,
    r.2 = 0 := by decide
  exact List.not_mem_nil (hpend e he fun r hr hin => by
    have := hempty r hr
    omega)

end Sys2Proof.Machine
end

section
/-! SUPPORT. The accumulator's arithmetic: rounding to nearest, the window of an anchor, and the additions to an entry (R211, R212, R214). -/

namespace Sys2Proof.Machine

/-! ### Rounding (R212) -/

/-- Of the quotients of a power of two, the rounded one is a nearest, and the even one where two are. -/
theorem shiftRne_nearest (m s : Nat) : 2 * ((shiftRne m s : Int) * 2 ^ s - m).natAbs ≤ 2 ^ s ∧
    (2 * ((shiftRne m s : Int) * 2 ^ s - m).natAbs = 2 ^ s → shiftRne m s % 2 = 0) := by
  cases s with
  | zero => simp [shiftRne]
  | succ s =>
    have hhalf : 2 ^ (s + 1) = 2 * 2 ^ s := by rw [Nat.pow_succ, Nat.mul_comm]
    have hm := Nat.div_add_mod m (2 ^ (s + 1))
    have hr := Nat.mod_lt m (Nat.two_pow_pos (s + 1))
    have hmul : ((m / 2 ^ (s + 1) : Nat) : Int) * 2 ^ (s + 1) = (2 ^ (s + 1) * (m / 2 ^ (s + 1)) : Nat) := by
      push_cast; ring
    have hpow : ((2 : Int) ^ (s + 1)) = ((2 ^ (s + 1) : Nat) : Int) := by push_cast; rfl
    simp only [shiftRne, Nat.shiftRight_eq_div_pow, Nat.add_one_ne_zero, if_false, Nat.add_sub_cancel]
    split
    next hup =>
      simp only [Bool.or_eq_true, Bool.and_eq_true, decide_eq_true_eq, beq_iff_eq] at hup
      push_cast only [Nat.cast_add, Nat.cast_one]
      rw [Int.add_mul, hmul, Int.one_mul, hpow]
      omega
    next hdown =>
      simp only [Bool.or_eq_true, Bool.and_eq_true, decide_eq_true_eq, beq_iff_eq] at hdown
      rw [hmul]
      omega

/-- A whole number as a multiple of `2 ^ k`: its magnitude is rounded and its sign kept. -/
theorem multRneInt_whole (m : Int) (k : Nat) :
    (⟨m, 0⟩ : Dy).multRneInt k = if m < 0 then -(shiftRne m.natAbs k : Int) else shiftRne m.natAbs k := by
  have hmag : (⟨m, 0⟩ : Dy).multRne k = shiftRne m.natAbs k := by
    cases k with
    | zero => simp [Dy.multRne, shiftRne]
    | succ k =>
      rw [Dy.multRne, if_neg (by dsimp only; omega)]
      simp
  rw [Dy.multRneInt, hmag]

theorem multRneInt_nearest (m : Int) (k : Nat) : 2 * ((⟨m, 0⟩ : Dy).multRneInt k * 2 ^ k - m).natAbs ≤ 2 ^ k ∧
    (2 * ((⟨m, 0⟩ : Dy).multRneInt k * 2 ^ k - m).natAbs = 2 ^ k → (⟨m, 0⟩ : Dy).multRneInt k % 2 = 0) := by
  obtain ⟨hnear, heven⟩ := shiftRne_nearest m.natAbs k
  have hdist : ((⟨m, 0⟩ : Dy).multRneInt k * 2 ^ k - m).natAbs = ((shiftRne m.natAbs k : Int) * 2 ^ k - m.natAbs).natAbs := by
    rw [multRneInt_whole]
    split
    next hneg =>
      rw [← Int.natAbs_neg, show (m.natAbs : Int) = -m by omega]
      congr 1
      ring
    next hpos => rw [show (m.natAbs : Int) = m by omega]
  rw [hdist]
  refine ⟨hnear, fun htie => ?_⟩
  have := heven htie
  rw [multRneInt_whole]
  split <;> omega

/-- The window of every anchor is that of the 104-bit integers. -/
theorem windowRound_range (a : Int) (p : Dy) : -2 ^ 103 ≤ (windowRound a p).1 ∧ (windowRound a p).1 < 2 ^ 103 := by
  simp only [windowRound]
  split
  · omega
  · split <;> omega

/-! ### Additions to an entry (R211, R214) -/

theorem accAdd_in_range {e : AccEnt} {c : Int} (h : e.st = .normal) (hlo : -2 ^ 103 ≤ e.n.toInt + c) (hhi : e.n.toInt + c < 2 ^ 103) :
    (accAdd e false c).1 = { n := BitVec.ofInt 104 (e.n.toInt + c), st := .normal } := by
  simp only [accAdd, h, Bool.false_eq_true, if_false, if_neg (Int.not_lt.2 hlo), if_neg (Int.not_le.2 hhi)]

theorem accAdd_above {e : AccEnt} {c : Int} (h : e.st = .normal) (hhi : 2 ^ 103 ≤ e.n.toInt + c) :
    (accAdd e false c).1 = { n := BitVec.ofInt 104 (2 ^ 103 - 1), st := .sat } := by
  have hlo : ¬ e.n.toInt + c < -2 ^ 103 := by omega
  simp only [accAdd, h, Bool.false_eq_true, if_false, if_neg hlo, if_pos hhi]

theorem accAdd_below {e : AccEnt} {c : Int} (h : e.st = .normal) (hlo : e.n.toInt + c < -2 ^ 103) :
    (accAdd e false c).1 = { n := BitVec.ofInt 104 (-2 ^ 103), st := .sat } := by
  simp only [accAdd, h, Bool.false_eq_true, if_false, if_pos hlo]

/-- A SAT or INV entry takes no valid contribution. -/
theorem accAdd_stays {e : AccEnt} (h : e.st ≠ .normal) (c : Int) : (accAdd e false c).1 = e := by
  cases hst : e.st with
  | normal => exact absurd hst h
  | sat => simp [accAdd, hst]
  | inv => simp [accAdd, hst]

/-- What becomes of a NORMAL entry depends on the exact sum alone. -/
theorem accAdd_of_sum {e e' : AccEnt} {c c' : Int} (h : e.st = .normal) (h' : e'.st = .normal) (hsum : e.n.toInt + c = e'.n.toInt + c') :
    accAdd e false c = accAdd e' false c' := by
  simp only [accAdd, h, h', hsum]

/-- An entry holds every number of the range. -/
theorem toInt_ofInt_104 {t : Int} (hlo : -2 ^ 103 ≤ t) (hhi : t < 2 ^ 103) : (BitVec.ofInt 104 t).toInt = t :=
  BitVec.toInt_ofInt_eq_self (by decide) hlo hhi

/-- Settles O36: an addition clamps the exact sum, and of two contributions that each leave the entry in range the second meets the same
sum in either order. -/
theorem accumulatorEntriesSaturateAndStay : Obligations.AccumulatorEntriesSaturateAndStay := by
  unfold Obligations.AccumulatorEntriesSaturateAndStay
  refine ⟨?exact, ?above, ?below, fun _ c h => accAdd_stays h c, fun _ _ => rfl, windowRound_range, multRneInt_nearest, ?order⟩
  case exact =>
    intro e c h hlo hhi
    rw [accAdd_in_range h hlo hhi]
    exact ⟨toInt_ofInt_104 hlo hhi, rfl⟩
  case above =>
    intro e c h hhi
    rw [accAdd_above h hhi]
    exact ⟨toInt_ofInt_104 (by decide) (by decide), rfl⟩
  case below =>
    intro e c h hlo
    rw [accAdd_below h hlo]
    exact ⟨toInt_ofInt_104 (by decide) (by decide), rfl⟩
  case order =>
    intro e c c' h hlo hhi hlo' hhi'
    rw [accAdd_in_range h hlo hhi, accAdd_in_range h hlo' hhi']
    refine congrArg Prod.fst (accAdd_of_sum rfl rfl ?_)
    rw [toInt_ofInt_104 hlo hhi, toInt_ofInt_104 hlo' hhi', Int.add_right_comm]

end Sys2Proof.Machine
end

section
/-! SUPPORT. Units of work that write: ranges within the ranges of their command, the bytes pending after them, and the counters of their
site (R218, R229, R238, R285, R368). -/

namespace Sys2Proof.Machine

/-! ### Ranges -/

/-- A range of bytes, by its address and length, lies in another. -/
abbrev PartOf (r s : Nat × Nat) : Prop := s.1 ≤ r.1 ∧ r.1 + r.2 ≤ s.1 + s.2

theorem inOwn_part {x : Ctx} {r s : Nat × Nat} (h : x.inOwn s.1 s.2 = true) (hr : PartOf r s) : x.inOwn r.1 r.2 = true := by
  obtain ⟨hlo, hhi⟩ := hr
  simp only [Ctx.inOwn, Bool.and_eq_true, Bool.not_eq_true', inScratch, inside, decide_eq_true_eq] at h ⊢
  obtain ⟨⟨hbase, hend⟩, htext⟩ := h
  refine ⟨⟨by omega, by omega⟩, ?_⟩
  simp only [Plan.inText, Bool.and_eq_false_iff] at htext ⊢
  refine htext.imp_right fun hno => ?_
  rw [Bool.eq_false_iff] at hno ⊢
  exact fun hmeets => hno (meets_of_part hlo hhi hmeets)

theorem inOwn_of_outOk {x : Ctx} {a n : Nat} (h : x.outOk a n) : x.inOwn a n = true := by
  rw [Ctx.inOwn, h.1, h.2]; rfl

/-- Ranges of the site's own scratch without main text pass the checks of a command. -/
theorem scratchOk_none {x : Ctx} {rs : List (Nat × Nat)} (h : ∀ r ∈ rs, x.inOwn r.1 r.2 = true) (d : Dev) (k : Nat) :
    scratchOk d x k rs = none := by
  rw [scratchOk, Option.map_eq_none_iff, List.find?_eq_none]
  intro r hr
  have hown := h r.1 (List.fst_mem_of_mem_zipIdx hr)
  have hwrite : d.canWrite x.p x.core x.site r.1.1 r.1.2 = true := by
    rw [Dev.canWrite, show (inside r.1.1 r.1.2 (scratchBase x.site) scratchSize && !x.p.inText x.core x.site r.1.1 r.1.2) = true from hown,
      Bool.or_true, Bool.true_or]
  simp [hown, hwrite]

/-- Of `n` slices of `k` bytes, each ends before the last does. -/
theorem slice_le {i n : Nat} (h : i < n) (k : Nat) : i * k + k ≤ n * k := by
  rw [← Nat.succ_mul]; exact Nat.mul_le_mul_right k h

/-- Every range of a list lies in some range of another. -/
abbrev PartsOf (ps rs : List (Nat × Nat)) : Prop := ∀ p ∈ ps, ∃ r ∈ rs, PartOf p r

theorem PartsOf.append {ps qs rs : List (Nat × Nat)} (hp : PartsOf ps rs) (hq : PartsOf qs rs) : PartsOf (ps ++ qs) rs :=
  List.forall_mem_append.2 ⟨hp, hq⟩

theorem PartsOf.left {ps rs : List (Nat × Nat)} (h : PartsOf ps rs) (ss : List (Nat × Nat)) : PartsOf ps (rs ++ ss) := by
  intro p hp
  obtain ⟨r, hr, hpart⟩ := h p hp
  exact ⟨r, List.mem_append_left _ hr, hpart⟩

theorem PartsOf.right {ps rs : List (Nat × Nat)} (h : PartsOf ps rs) (ss : List (Nat × Nat)) : PartsOf ps (ss ++ rs) := by
  intro p hp
  obtain ⟨r, hr, hpart⟩ := h p hp
  exact ⟨r, List.mem_append_right _ hr, hpart⟩

theorem PartsOf.one {p r : Nat × Nat} {rs : List (Nat × Nat)} (hr : r ∈ rs) (h : PartOf p r) : PartsOf [p] rs :=
  List.forall_mem_singleton.2 ⟨r, hr, h⟩

theorem inOwn_parts {x : Ctx} {rs ps : List (Nat × Nat)} (h : ∀ r ∈ rs, x.inOwn r.1 r.2 = true) (hps : PartsOf ps rs) :
    ∀ p ∈ ps, x.inOwn p.1 p.2 = true := by
  intro p hp
  obtain ⟨r, hr, hpart⟩ := hps p hp
  exact inOwn_part (h r hr) hpart

/-- Ranges that lie in clean ones are clean. -/
theorem clean_parts {d : Dev} {rs ps : List (Nat × Nat)} (h : d.clean rs) (hps : PartsOf ps rs) : d.clean ps := by
  intro p hp
  obtain ⟨r, hr, hlo, hhi⟩ := hps p hp
  exact clean_part (a := r.1) (n := r.2) (List.forall_mem_singleton.2 (h r hr)) hlo hhi _ List.mem_cons_self

/-! ### The pending bytes -/

theorem countLines_le_length (size lo hi : Nat) (pend : List Host.Cell) (last : Option Nat) :
    countLines size lo hi pend last ≤ pend.length := by
  induction pend generalizing last with
  | nil => exact Nat.le_refl 0
  | cons e pend ih =>
    rw [countLines, List.length_cons]
    split
    · exact Nat.le_succ_of_le (ih _)
    · split
      · exact Nat.le_succ_of_le (ih _)
      · exact Nat.succ_le_succ (ih _)

theorem pendOk_of_length {pend : List Host.Cell} (h : pend.length ≤ 16384) : pendOk pend = true := by
  rw [pendOk, Bool.and_eq_true]
  exact ⟨decide_eq_true ((countLines_le_length ..).trans h), decide_eq_true ((countLines_le_length ..).trans (h.trans (by decide)))⟩

theorem length_cellsFrom (a : Nat) (bs : List Byte) : (cellsFrom a bs).length = bs.length := by
  induction bs generalizing a with
  | nil => rfl
  | cons b bs ih => rw [cellsFrom, List.length_cons, ih, List.length_cons]

theorem length_cellSetAll_le (m : List Host.Cell) (a : Nat) (bs : List Byte) : (cellSetAll m a bs).length ≤ m.length + bs.length := by
  have hapart : (m.filter (fun c => decide (a + bs.length ≤ c.1))).length ≤ (m.filter (fun c => !decide (c.1 < a))).length :=
    (List.monotone_filter_right m fun c hc => by simp at hc ⊢; omega).length_le
  have hsplit := m.length_eq_length_filter_add (fun c => decide (c.1 < a))
  rw [cellSetAll, splice, List.length_append, List.length_append, length_cellsFrom]
  omega

/-- A cell outside the bytes of a write is pending after it where it was before. -/
theorem mem_cellSetAll_outside {e : Host.Cell} {a : Nat} {bs : List Byte} (h : ¬ (a ≤ e.1 ∧ e.1 < a + bs.length)) (m : List Host.Cell) :
    e ∈ cellSetAll m a bs ↔ e ∈ m := by
  have hown : e ∉ cellsFrom a bs := fun he => h (mem_cellsFrom he)
  simp only [cellSetAll, splice, List.mem_append, List.mem_filter, decide_eq_true_eq, hown, or_false]
  constructor
  · rintro (he | he) <;> exact he.1
  · intro he
    rcases Nat.lt_or_ge e.1 a with hlt | hge
    · exact Or.inl ⟨he, hlt⟩
    · exact Or.inr ⟨he, by omega⟩

/-- Writes, each at the address of a range and no longer than it. -/
abbrev Fit (ws : List (Nat × List Byte)) (outs : List (Nat × Nat)) : Prop :=
  List.Forall₂ (fun w r => w.1 = r.1 ∧ w.2.length ≤ r.2) ws outs

/-- Two overlays agree outside the ranges `rs`. -/
def SameOutside (rs : List (Nat × Nat)) (p q : List Host.Cell) : Prop :=
  ∀ e : Host.Cell, (∀ r ∈ rs, ¬ (r.1 ≤ e.1 ∧ e.1 < r.1 + r.2)) → (e ∈ q ↔ e ∈ p)

theorem foldl_cellSetAll_fit {ws : List (Nat × List Byte)} {outs rs : List (Nat × Nat)} (hfit : Fit ws outs)
    (houts : PartsOf outs rs) (m : List Host.Cell) :
    (ws.foldl (fun p w => cellSetAll p w.1 w.2) m).length ≤ m.length + (outs.map (·.2)).sum ∧
      SameOutside rs m (ws.foldl (fun p w => cellSetAll p w.1 w.2) m) := by
  induction hfit generalizing m with
  | nil => exact ⟨Nat.le_refl _, fun _ _ => Iff.rfl⟩
  | @cons w o ws outs hw _ ih =>
    obtain ⟨haddr, hlen⟩ := hw
    obtain ⟨hlength, houtside⟩ := ih (fun o ho => houts o (List.mem_cons_of_mem _ ho)) (cellSetAll m w.1 w.2)
    refine ⟨?_, fun e he => (houtside e he).trans (mem_cellSetAll_outside ?_ m)⟩
    · have := length_cellSetAll_le m w.1 w.2
      rw [List.foldl_cons, List.map_cons, List.sum_cons]
      omega
    · obtain ⟨r, hr, hlo, hhi⟩ := houts o List.mem_cons_self
      have := he r hr
      omega

/-- From `d` to `e`, units of work of core `c`'s command have written at most `n` bytes, in the ranges `rs` alone. -/
structure UnitsWrote (d : Dev) (c : Nat) (rs : List (Nat × Nat)) (n : Nat) (e : Dev) : Prop where
  only : Only [.cqs, .stks, .dscs, .sites] d e
  queue : ∃ p, e.cqs = (d.modCq c (fun q => { q with pend := p })).cqs ∧ p.length ≤ (d.cq c).pend.length + n ∧
    SameOutside rs (d.cq c).pend p

theorem UnitsWrote.start (d : Dev) (c : Nat) (rs : List (Nat × Nat)) : UnitsWrote d c rs 0 d := by
  refine ⟨.refl _ d, (d.cq c).pend, ?_, Nat.le_refl _, fun _ _ => Iff.rfl⟩
  have hsame : d.modCq c (fun q => { q with pend := (d.cq c).pend }) = d.modCq c id := modCq_congr rfl
  rw [hsame]
  exact (List.modify_id ..).symm

theorem UnitsWrote.of_sites {d e e' : Dev} {c : Nat} {rs : List (Nat × Nat)} {n : Nat} (h : UnitsWrote d c rs n e)
    (honly : Only [.sites] e e') : UnitsWrote d c rs n e' :=
  ⟨Only.step honly rfl h.only, by rw [show e'.cqs = e.cqs from honly.same .cqs rfl]; exact h.queue⟩

/-- A unit of work with clean ranges and room for the bytes that it may write is done. -/
theorem UnitsWrote.write {d e : Dev} {c n : Nat} {rs reads outs : List (Nat × Nat)} {ws : List (Nat × List Byte)}
    (h : UnitsWrote d c rs n e) (hc : c < d.cqs.length) (hreads : d.clean reads) (hrs : d.clean rs) (hfit : Fit ws outs)
    (houts : PartsOf outs rs) (hroom : d.room c (n + (outs.map (·.2)).sum)) :
    ∃ e', e.unitWrite c reads ws = (e', .done) ∧ UnitsWrote d c rs (n + (outs.map (·.2)).sum) e' ∧ e'.sites = e.sites := by
  obtain ⟨honly, p, hcqs, hlen, hout⟩ := h
  have hpend : (e.cq c).pend = p := by rw [cq_of_cqs hcqs, cq_modCq_same d _ hc]
  have hmem : e.mem = d.mem := honly.same .mem rfl
  have hpwr : e.pwr = d.pwr := honly.same .pwr rfl
  have hwipes : e.wipes = d.wipes := honly.same .wipes rfl
  have hreads' : e.clean reads := clean_of_same hmem hpwr hwipes hreads
  have hws : e.clean (ws.map (fun w => (w.1, w.2.length))) := by
    refine clean_parts (clean_of_same hmem hpwr hwipes hrs) fun r hr => ?_
    obtain ⟨w, hw, rfl⟩ := List.mem_map.1 hr
    obtain ⟨i, hi, rfl⟩ := List.mem_iff_getElem.1 hw
    have hi' : i < outs.length := hfit.length_eq ▸ hi
    obtain ⟨haddr, hle⟩ := hfit.get hi hi'
    obtain ⟨r, hr, hlo, hhi⟩ := houts outs[i] (List.getElem_mem hi')
    simp only [List.get_eq_getElem] at haddr hle
    exact ⟨r, hr, by dsimp only; omega, by dsimp only; omega⟩
  have hheld : e.unitHeld reads ws = false := by
    rw [Dev.unitHeld, Bool.or_eq_false_iff, List.any_eq_false, List.any_eq_false]
    exact ⟨fun r hr => by simp [(hreads' r hr).2], fun w hw => by simp [(hws _ (List.mem_map_of_mem hw)).2]⟩
  obtain ⟨hlen', hout'⟩ := foldl_cellSetAll_fit hfit houts p
  obtain ⟨e', hdone, honly', hcqs'⟩ := unitWrite_done (c := c) hheld (fun r hr => readPoison_of_clean (hreads' r hr).1 _)
    (fun w hw => writePoison_of_clean (hws _ (List.mem_map_of_mem hw)).1 _)
    (pendOk_of_length (by rw [hpend]; exact hlen'.trans (by omega)))
  refine ⟨e', hdone, ⟨Only.step honly' rfl honly, _, ?_, hlen'.trans (by omega), fun c hc => (hout' c hc).trans (hout c hc)⟩,
    honly'.same .sites rfl⟩
  rw [hcqs', modCq_cqs, hcqs, modCq_cqs, List.modify_modify_eq, modCq_cqs]
  rfl

/-- A command whose units are done ends with what they have written, and waits to complete. -/
theorem UnitsWrote.ended {d i e e' : Dev} {c op : Nat} {x : Ctx} {f : Fetched} {rs : List (Nat × Nat)} {n : Nat} (h : d.issues c op x f)
    (hi : i.cqs = (d.issued c x f).cqs) (hw : UnitsWrote i c rs n e) (hcqs : e'.cqs = e.cqs) {fl : Flight} (hidx : fl.idx = f.idx)
    (hend : fl.ended = true) : let d' := e'.putFlight c fl
    d.writesOnly d' c rs ∧ d'.worked c f.idx fl.status = true ∧ d.sameOthers d' c := by
  obtain ⟨-, p, hq, -, hout⟩ := hw
  have hq' := hcqs.trans (hq.trans (congrArg (List.modify · c _) hi))
  obtain ⟨⟨l, hl⟩, hworked, hothers⟩ := putFlight_ended h hq' (fun _ => rfl) hidx hend
  refine ⟨?_, hworked, hothers⟩
  rw [cq_of_cqs hi, issued_pend h] at hout
  rw [Dev.writesOnly, hl]
  exact ⟨fun e he hr => (hout e hr).1 he, fun e he hr => (hout e hr).2 he⟩

theorem UnitsWrote.room_more {d e : Dev} {c n m : Nat} {rs : List (Nat × Nat)} (h : UnitsWrote d c rs n e) (hle : n ≤ m) :
    UnitsWrote d c rs m e := by
  obtain ⟨honly, p, hcqs, hlen, hout⟩ := h
  exact ⟨honly, p, hcqs, hlen.trans (Nat.add_le_add_left hle _), hout⟩

/-! ### Counters of a site -/

theorem satAdd_zero {w : Nat} (v : BitVec w) : satAdd v 0 = v := by
  rw [satAdd, if_pos (by simpa using v.isLt)]
  simp

theorem satAdd_satAdd {w : Nat} (v : BitVec w) (m n : Nat) : satAdd (satAdd v m) n = satAdd v (m + n) := by
  unfold satAdd
  by_cases hm : v.toNat + m < 2 ^ w
  · rw [if_pos hm, BitVec.toNat_ofNat, Nat.mod_eq_of_lt hm, Nat.add_assoc]
  · have hpow := Nat.two_pow_pos w
    rw [if_neg hm, if_neg (show ¬ v.toNat + (m + n) < 2 ^ w by omega), BitVec.toNat_allOnes]
    split
    next hlt =>
      rw [show n = 0 by omega, Nat.add_zero, ← BitVec.toNat_allOnes, BitVec.ofNat_toNat, BitVec.setWidth_eq]
    next => rfl

/-- From `d` to `e`, a counter of a site has counted `n` more. -/
structure Counted (site : Nat) (cnt : Site → BitVec 48) (d : Dev) (n : Nat) (e : Dev) : Prop where
  length : e.sites.length = d.sites.length
  count : cnt (e.site site) = satAdd (cnt (d.site site)) n

theorem Counted.start (site : Nat) (cnt : Site → BitVec 48) (d : Dev) : Counted site cnt d 0 d := ⟨rfl, (satAdd_zero _).symm⟩

theorem Counted.more {site : Nat} {cnt : Site → BitVec 48} {d e e' : Dev} {n k : Nat} {g : Site → Site} (h : Counted site cnt d n e)
    (hsite : site < d.sites.length) (hsites : e'.sites = e.sites) (hg : ∀ s, cnt (g s) = satAdd (cnt s) k) :
    Counted site cnt d (n + k) (e'.modSite site g) := by
  have hlen : site < e'.sites.length := by rw [hsites, h.length]; exact hsite
  refine ⟨by rw [modSite_length, hsites, h.length], ?_⟩
  rw [site_modSite_same e' g hlen, hg, site_of_sites hsites, h.count, satAdd_satAdd]

/-- What follows the counting leaves the counter. -/
theorem Counted.rest {site : Nat} {cnt : Site → BitVec 48} {d e e' : Dev} {n : Nat} {g : Site → Site} (h : Counted site cnt d n e)
    (hcnt : cnt (e'.site site) = cnt (e.site site)) (hg : ∀ s, cnt (g s) = cnt s) :
    cnt ((e'.modSite site g).site site) = satAdd (cnt (d.site site)) n := by
  rw [site_modSite_view cnt hg, hcnt, h.count]

/-! ### Commands that have issued -/

section
variable {d : Dev} {c op : Nat} {x : Ctx} {f : Fetched} (h : d.issues c op x f)
include h

theorem issued_room {n : Nat} (hroom : d.room c n) : (d.issued c x f).room x.c n := by
  rw [Dev.room, (ctx?_core h.1).1, issued_pend h]; exact hroom

theorem issued_core_lt : x.c < (d.issued c x f).cqs.length := by
  rw [(ctx?_core h.1).1]; exact (issued_taken h).present

theorem issued_site_lt (hsite : x.site < d.sites.length) : x.site < (d.issued c x f).sites.length := by
  rw [issued_sites h]; exact hsite
end

/-- A command keeps its bytes through units that keep them. -/
theorem unitLoop_bytes {f : Dev → Flight → Nat → List Nat → Dev × Flight × UnitEnd}
    (hf : ∀ d fl n s, (f d fl n s).2.1.bytes = fl.bytes) (x : Ctx) (k n : Nat) (d : Dev) (fl : Flight) :
    (unitLoop x k f n d fl).2.bytes = fl.bytes := by
  induction n generalizing d fl with
  | zero => rfl
  | succ n ih =>
    have hunit (e : Dev) (g : Flight) (slots : List Nat) (hg : g.bytes = fl.bytes) :
        (match f e g g.units slots with
          | (d, fl, .done) => unitLoop x k f n d { fl with units := fl.units + 1 }
          | (d, fl, .bad a) => (d, fl.bad (some a))
          | (d, fl, .poisoned a) => (d, fl.poison a)
          | (d, fl, .fault) => (d, fl)
          | (_, _, .wait) => (d, fl)).2.bytes = fl.bytes := by
      have hkeep := (hf e g g.units slots).trans hg
      split
      next hend => rw [hend] at hkeep; exact (ih ..).trans hkeep
      next hend => rw [hend] at hkeep; exact hkeep
      next hend => rw [hend] at hkeep; exact hkeep
      next hend => rw [hend] at hkeep; exact hkeep
      next => rfl
    have hbegun (slots : List Nat) : (if fl.units = 0 then { fl with first := slots } else fl).bytes = fl.bytes := by split <;> rfl
    rw [unitLoop]
    dsimp only
    split
    · exact hunit d _ [] (hbegun [])
    · split
      · rfl
      · split
        · exact hunit _ _ _ (hbegun _)
        · rfl

end Sys2Proof.Machine
end

section
/-! SUPPORT. ELEM and MMV: their pieces and rows one by one, their effect, and their check faults (R228 to R232, R235 to R240). -/

namespace Sys2Proof.Machine

/-! ### Check faults (R164, R235, R240) -/

theorem mvp_modMvp_same (d : Dev) {n : Nat} (f : Mvp → Mvp) (h : n < d.sites.length) :
    (d.modMvp n f).site n = { d.site n with mvp := f (d.site n).mvp } :=
  site_modSite_same d _ h

@[simp] theorem modLbk_mvp (d : Dev) (n : Nat) (f : Lbk → Lbk) (k : Nat) : ((d.modLbk n f).site k).mvp = (d.site k).mvp :=
  site_modSite_view (·.mvp) (by intro; rfl) d n k

/-- A check fault of the MVP block sets its bit of MVP_CHECK_ERR and begins a recovery of the site. -/
theorem mvpFault_reports {d : Dev} {site : Nat} (hsite : site < d.sites.length) (hservice : d.siteState site = .inService)
    (hsound : d.sound site) (bit : Fin 2) (tag : BitVec 32) : let d' := d.mvpFault site bit.val tag
    (d'.site site).mvp.checkErr.val.getLsbD bit.val = true ∧ d'.siteState site = .recovering := by
  have hstates := siteStates_of_inService hservice
  refine ⟨?_, by rw [Dev.mvpFault]; exact siteFault_recovers (d := (d.modMvp site _).modLbk site _) hsound hstates ..⟩
  have hbit : (BitVec.ofNat 2 (2 ^ bit.val)).getLsbD bit.val = true := by revert bit; decide
  rw [Dev.mvpFault, siteFault_site, modLbk_mvp, mvp_modMvp_same d _ hsite, Sticky.raise, BitVec.getLsbD_or, hbit, Bool.or_true]

/-- A check fault of a command in flight, with what the command has made of the array's demand. -/
theorem mvpFault_of_issues {d : Dev} {c op : Nat} {x : Ctx} {f : Fetched} (h : d.issues c op x f) (hsite : x.site < d.sites.length)
    (hsound : d.sound x.site) {e : Dev} (hlength : e.sites.length = d.sites.length) (hhealth : e.health = d.health) (bit : Fin 2)
    (tag : BitVec 32) : let d' := e.mvpFault x.site bit.val tag
    (d'.site x.site).mvp.checkErr.val.getLsbD bit.val = true ∧ d'.siteState x.site = .recovering :=
  mvpFault_reports (hlength ▸ hsite) (by rw [Dev.siteState, hhealth]; exact ctx?_inService h.1)
    (by rw [Dev.sound, hhealth]; exact hsound) bit tag

/-! ### Bytes of wide values (R171) -/

theorem length_bytesLE (n v : Nat) : (bytesLE n v).length = n := by
  induction n generalizing v with
  | zero => rfl
  | succ n ih => rw [bytesLE, List.length_cons, ih]

theorem length_flatMap_bytesLE (k : Nat) (cs : List Nat) : (cs.flatMap (bytesLE k ·)).length = cs.length * k := by
  simp [List.length_flatMap, length_bytesLE]

/-- Values of a wide format occupy its bytes each. -/
theorem length_packElems_wide {fmt : Nat} (h : fmt = 9 ∨ fmt = 10) (cs : List Nat) :
    (packElems fmt cs).length = cs.length * wideBytes fmt := by
  rcases h with rfl | rfl <;> exact length_flatMap_bytesLE _ cs

theorem ElemCmd.inFmt_wide (c : ElemCmd) : c.inFmt = 9 ∨ c.inFmt = 10 := by
  unfold ElemCmd.inFmt; split
  · exact Or.inr rfl
  · exact Or.inl rfl

theorem ElemCmd.outFmt_wide (c : ElemCmd) : c.outFmt = 9 ∨ c.outFmt = 10 := by
  have := c.inFmt_wide
  unfold ElemCmd.outFmt; split <;> omega

theorem length_unpackElems_wide {fmt : Nat} (h : fmt = 9 ∨ fmt = 10) (n : Nat) (bs : List Byte) : (unpackElems fmt n bs).length = n := by
  rcases h with rfl | rfl <;> simp [unpackElems, fmtBits]

/-! ### ELEM -/

/-- Elements in piece `p` of an ELEM (R267). -/
def ElemCmd.piece (c : ElemCmd) (p : Nat) : Nat := min 512 (c.count - 512 * p)

/-- The sources that an ELEM uses. -/
def elemSrcs (bs : List Byte) : List Nat := addrFld bs 8 :: (if elemUsesSrc1 (elemCmd bs).op then [addrFld bs 16] else [])

/-- The ranges of an ELEM: those that it reads, and its results. -/
def elemReads (bs : List Byte) : List (Nat × Nat) := (elemSrcs bs).map (fun a => (a, (elemCmd bs).count * (elemCmd bs).w))
def elemDst (bs : List Byte) : Nat × Nat := (addrFld bs 24, (elemCmd bs).count * (elemCmd bs).wo)

/-- What an ELEM with the bytes `bs` needs so that nothing stops it: its ranges in the site's own scratch and
clean, and room for its results. -/
structure ElemRuns (d : Dev) (x : Ctx) (bs : List Byte) : Prop where
  core : x.c < d.cqs.length
  site : x.site < d.sites.length
  own : ∀ r ∈ elemReads bs ++ [elemDst bs], x.inOwn r.1 r.2 = true
  clean : d.clean (elemReads bs ++ [elemDst bs])
  room : d.room x.c (elemDst bs).2

/-- From `d` to `e`, the first `p` pieces of an ELEM have been written and counted. -/
structure ElemDone (x : Ctx) (bs : List Byte) (d : Dev) (p : Nat) (e : Dev) : Prop where
  wrote : UnitsWrote d x.c [elemDst bs] (min (512 * p) (elemCmd bs).count * (elemCmd bs).wo) e
  counted : Counted x.site (·.mvp.elemCnt) d (min (512 * p) (elemCmd bs).count) e

theorem ElemDone.start (x : Ctx) (bs : List Byte) (d : Dev) : ElemDone x bs d 0 d := by
  refine ⟨?_, ?_⟩
  · rw [Nat.mul_zero, Nat.zero_min, Nat.zero_mul]
    exact .start ..
  · rw [Nat.mul_zero, Nat.zero_min]
    exact .start ..

/-- The ranges of piece `p`: those that it reads, and its results. -/
def elemPieceReads (bs : List Byte) (p : Nat) : List (Nat × Nat) :=
  (elemSrcs bs).map (fun a => (a + 512 * p * (elemCmd bs).w, (elemCmd bs).piece p * (elemCmd bs).w))
def elemPieceDst (bs : List Byte) (p : Nat) : Nat × Nat :=
  (addrFld bs 24 + 512 * p * (elemCmd bs).wo, (elemCmd bs).piece p * (elemCmd bs).wo)

theorem piece_part {c : ElemCmd} {p : Nat} (hp : 512 * p ≤ c.count) (a w : Nat) :
    PartOf (a + 512 * p * w, c.piece p * w) (a, c.count * w) := by
  have hle : (512 * p + c.piece p) * w ≤ c.count * w := Nat.mul_le_mul_right w (by unfold ElemCmd.piece; omega)
  rw [Nat.add_mul] at hle
  exact ⟨Nat.le_add_right .., by dsimp only; omega⟩

theorem elemPieceReads_parts {bs : List Byte} {p : Nat} (hp : 512 * p ≤ (elemCmd bs).count) :
    PartsOf (elemPieceReads bs p) (elemReads bs) :=
  List.forall_mem_map.2 fun a ha => ⟨_, List.mem_map_of_mem ha, piece_part hp a _⟩

theorem elemPieceDst_parts {bs : List Byte} {p : Nat} (hp : 512 * p ≤ (elemCmd bs).count) : PartsOf [elemPieceDst bs p] [elemDst bs] :=
  .one List.mem_cons_self (piece_part hp _ _)

/-- A piece of an ELEM whose bytes can be written is done. -/
theorem elemUnit_done {x : Ctx} {d : Dev} {fl : Flight} {p : Nat} {Q : Dev → Prop}
    (hown : ∀ r ∈ elemPieceReads fl.bytes p ++ [elemPieceDst fl.bytes p], x.inOwn r.1 r.2 = true)
    (hwrite : ∀ ws, Fit ws [elemPieceDst fl.bytes p] → ∃ e, d.unitWrite x.c (elemPieceReads fl.bytes p) ws = (e, .done) ∧ Q e) :
    ∃ (e : Dev) (g : Site → Site) (fl' : Flight), elemUnit x d fl p [] = (e.modSite x.site g, fl', .done) ∧ Q e ∧
      (∀ s, (g s).mvp.elemCnt = satAdd s.mvp.elemCnt ((elemCmd fl.bytes).piece p)) ∧ fl.UnitDone fl' := by
  have hscratch := scratchOk_none hown d
  choose e hdone hq using hwrite
  simp only [elemPieceReads, elemSrcs, elemPieceDst, ElemCmd.piece, apply_ite (List.map _), List.map_cons, List.map_nil] at hscratch hdone
  unfold elemUnit
  simp only [List.isEmpty_nil, if_true, List.getD_cons_zero, List.getD_cons_succ, hscratch]
  rw [hdone]
  · exact ⟨_, _, _, rfl, hq _ _, fun _ => rfl, fl.first, fl.sums, _, rfl⟩
  · refine List.Forall₂.cons ⟨rfl, ?_⟩ .nil
    rw [length_packElems_wide (elemCmd fl.bytes).outFmt_wide, List.length_map, List.length_map, List.length_zipIdx,
      length_unpackElems_wide (elemCmd fl.bytes).inFmt_wide]
    exact Nat.le_refl _

/-- The next piece of an ELEM that nothing stops. -/
theorem ElemDone.next {x : Ctx} {bs : List Byte} {d e : Dev} {p : Nat} {fl : Flight} (hruns : ElemRuns d x bs)
    (hp : p < ((elemCmd bs).count + 511) / 512) (h : ElemDone x bs d p e) (hbytes : fl.bytes = bs) :
    ∃ (e' : Dev) (fl' : Flight), elemUnit x e fl p [] = (e', fl', .done) ∧ ElemDone x bs d (p + 1) e' ∧ fl.UnitDone fl' := by
  subst hbytes
  obtain ⟨hcore, hsite, hown, hclean, hroom⟩ := hruns
  have hp' : 512 * p ≤ (elemCmd fl.bytes).count := by omega
  have hsum : min (512 * p) (elemCmd fl.bytes).count + (elemCmd fl.bytes).piece p = min (512 * (p + 1)) (elemCmd fl.bytes).count := by
    unfold ElemCmd.piece; omega
  have hbytes : min (512 * p) (elemCmd fl.bytes).count * (elemCmd fl.bytes).wo + ([elemPieceDst fl.bytes p].map (·.2)).sum =
      min (512 * (p + 1)) (elemCmd fl.bytes).count * (elemCmd fl.bytes).wo := by
    rw [List.map_singleton, List.sum_singleton, ← hsum, Nat.add_mul]; rfl
  have hroom' : d.room x.c (min (512 * (p + 1)) (elemCmd fl.bytes).count * (elemCmd fl.bytes).wo) :=
    (Nat.add_le_add_left (Nat.mul_le_mul_right _ (Nat.min_le_right ..)) _).trans hroom
  have hreads := (elemPieceReads_parts hp').left [elemDst fl.bytes]
  have hdst := elemPieceDst_parts hp'
  obtain ⟨e', g, fl', hunit, ⟨hwrote, hsites⟩, hcnt, hfl⟩ := elemUnit_done (x := x) (d := e) (fl := fl) (p := p)
    (Q := fun e' => UnitsWrote d x.c [elemDst fl.bytes] (min (512 * (p + 1)) (elemCmd fl.bytes).count * (elemCmd fl.bytes).wo) e' ∧
      e'.sites = e.sites)
    (inOwn_parts hown (hreads.append (hdst.right _))) fun ws hws => by
      rw [← hbytes] at hroom' ⊢
      exact h.wrote.write hcore (clean_parts hclean hreads) (fun r hr => hclean r (List.mem_append_right _ hr)) hws hdst hroom'
  refine ⟨_, fl', hunit, ⟨hwrote.of_sites (Only.step (modSite_only ..) rfl (.refl ..)), ?_⟩, hfl⟩
  rw [← hsum]
  exact h.counted.more hsite hsites hcnt

@[simp] theorem arrayStalls_mvp (d : Dev) (n k : Nat) : ((d.arrayStalls n).site k).mvp = (d.site k).mvp :=
  site_modSite_view (·.mvp) (by intro; rfl) d.draw.2 n k

section
variable {d : Dev} {c : Fin 72} {x : Ctx} {f : Fetched} (h : d.issues c.val 0x14 x f)
include h

/-- An ELEM that issues runs on the machine whose array's demand follows it. -/
theorem elem_runs (flt : Bool) : elem c flt d = elemRun (d.issued c.val x f) x (x.flightOf f) flt := by
  have hissue : d.issue? c.val opElem = _ := issue?_of_issues h
  simp only [elem, hissue]

/-- An ELEM that nothing stops ends with all its pieces written. -/
theorem elem_writes {bs : List Byte} (hbs : x.resolve f.bytes = bs) (hstream : astream? bs = none) (hgrant : (d.site x.site).lbk.grant ≠ 0)
    (hapart : ∀ a ∈ elemSrcs bs, (elemCmd bs).overlap a (addrFld bs 24) = false)
    (hruns : ElemRuns ((d.issued c.val x f).updateDemand c.val x.site) x bs) :
    ∃ (e : Dev) (fl : Flight) (g : Mvp → Mvp),
      elem c false d = ((e.draw.2.arrayStalls x.site).modMvp x.site g).putFlight c.val fl.done ∧ (∀ m, (g m).elemCnt = m.elemCnt) ∧
      ElemDone x bs ((d.issued c.val x f).updateDemand c.val x.site) (((elemCmd bs).count + 511) / 512) e ∧
      fl.idx = f.idx ∧ fl.status = 0 := by
  have hbytes : (x.flightOf f).bytes = bs := hbs
  have hunits : (x.flightOf f).units = 0 := rfl
  obtain ⟨e, fl, hloop, hdone, hidx, hstatus⟩ := unitLoop_done
    (P := ElemDone x bs ((d.issued c.val x f).updateDemand c.val x.site)) (fl := x.flightOf f) hstream
    (fun _ _ _ hr hP hb => hP.next hruns hr hb) x 3 (((elemCmd bs).count + 511) / 512) (Nat.zero_add _) (ElemDone.start ..) hbytes
  have hscratch := scratchOk_none hruns.own ((d.issued c.val x f).updateDemand c.val x.site)
  have hover : (elemSrcs bs).any (fun s => (elemCmd bs).overlap s (addrFld bs 24)) = false :=
    List.any_eq_false.2 fun a ha => by simp [hapart a ha]
  have hgrant' : (((d.issued c.val x f).updateDemand c.val x.site).site x.site).lbk.grant ≠ 0 := by
    rw [updateDemand_grant, issued_site h]; exact hgrant
  unfold elemReads elemSrcs elemDst at hscratch
  unfold elemSrcs at hover
  rw [elem_runs h, elemRun]
  simp only [hbytes, hunits, (ctx?_core h.1).1, hstream, hover, hscratch, hgrant', hloop, Option.isNone_none, Nat.sub_zero, Bool.and_false,
    Bool.and_true, Bool.false_eq_true, if_true, if_false, decide_true]
  exact ⟨e, fl, _, rfl, fun _ => rfl, hdone, hidx, hstatus⟩
end

section
variable {d : Dev} {c : Fin 72} {x : Ctx} {f : Fetched} {bs : List Byte} (hbs : x.resolve f.bytes = bs) (hstream : astream? bs = none)
include hbs hstream

/-- What an ELEM that nothing stops has counted and written when it has done its work. -/
theorem elem_effect (h : d.issues c.val 0x14 x f) (hgrant : (d.site x.site).lbk.grant ≠ 0)
    (hapart : ∀ a ∈ elemSrcs bs, (elemCmd bs).overlap a (addrFld bs 24) = false)
    (hruns : ElemRuns ((d.issued c.val x f).updateDemand c.val x.site) x bs) : let d' := elem c false d
    (d'.site x.site).mvp.elemCnt = satAdd (d.site x.site).mvp.elemCnt (elemCmd bs).count ∧
    d.writesOnly d' c.val [elemDst bs] ∧ d'.worked c.val f.idx 0 = true ∧ d.sameOthers d' c.val := by
  obtain ⟨e, fl, g, helem, hg, ⟨hwrote, hcounted⟩, hidx, hstatus⟩ := elem_writes h hbs hstream hgrant hapart hruns
  rw [(ctx?_core h.1).1] at hwrote
  obtain ⟨hwrites, hworked, hothers⟩ := UnitsWrote.ended h (i := (d.issued c.val x f).updateDemand c.val x.site) rfl hwrote
    (e' := (e.draw.2.arrayStalls x.site).modMvp x.site g) rfl (fl := fl.done) hidx rfl
  have hcount := hcounted.rest (e' := e.draw.2.arrayStalls x.site) (g := fun s => { s with mvp := g s.mvp })
    (congrArg (·.elemCnt) (arrayStalls_mvp ..)) fun _ => hg _
  have hmvp : (((d.issued c.val x f).updateDemand c.val x.site).site x.site).mvp = (d.site x.site).mvp := by
    rw [Dev.updateDemand, modLbk_mvp, issued_site h]
  rw [hmvp, show min (512 * (((elemCmd bs).count + 511) / 512)) (elemCmd bs).count = (elemCmd bs).count by omega] at hcount
  rw [helem]
  exact ⟨hcount, hwrites, hstatus ▸ hworked, hothers⟩
end

/-! ### MMV -/

theorem inOwnStack_part {x : Ctx} {r s : Nat × Nat} (h : inOwnStack x s.1 s.2 = true) (hr : PartOf r s) : inOwnStack x r.1 r.2 = true := by
  obtain ⟨hlo, hhi⟩ := hr
  simp only [inOwnStack, inside, Bool.and_eq_true, decide_eq_true_eq] at h ⊢
  omega

/-- The ranges of an MMV: its matrix, its vector and its results. -/
def mmvMatrix (bs : List Byte) : Nat × Nat := (addrFld bs 8, (mmvCmd bs).rows * ((mmvCmd bs).elemBytes + (mmvCmd bs).recsBytes))
def mmvVec (bs : List Byte) : Nat × Nat := (addrFld bs 16, 2 * (mmvCmd bs).cols)
def mmvDst (bs : List Byte) : Nat × Nat := (addrFld bs 24, 4 * (mmvCmd bs).rows)

/-- The ranges of row `r`: its elements, its scale records and its result. -/
def mmvElems (bs : List Byte) (r : Nat) : Nat × Nat := (addrFld bs 8 + r * (mmvCmd bs).elemBytes, (mmvCmd bs).elemBytes)
def mmvRecs (bs : List Byte) (r : Nat) : Nat × Nat :=
  (addrFld bs 8 + (mmvCmd bs).rows * (mmvCmd bs).elemBytes + r * (mmvCmd bs).recsBytes, (mmvCmd bs).recsBytes)
def mmvOutAt (bs : List Byte) (r : Nat) : Nat × Nat := (addrFld bs 24 + 4 * r, 4)

theorem mmvElems_part (bs : List Byte) {r : Nat} (h : r < (mmvCmd bs).rows) : PartOf (mmvElems bs r) (mmvMatrix bs) := by
  have := slice_le h (mmvCmd bs).elemBytes
  exact ⟨Nat.le_add_right .., by dsimp only [mmvElems, mmvMatrix]; rw [Nat.mul_add]; omega⟩

theorem mmvRecs_part (bs : List Byte) {r : Nat} (h : r < (mmvCmd bs).rows) : PartOf (mmvRecs bs r) (mmvMatrix bs) := by
  have := slice_le h (mmvCmd bs).recsBytes
  exact ⟨by dsimp only [mmvRecs, mmvMatrix]; omega, by dsimp only [mmvRecs, mmvMatrix]; rw [Nat.mul_add]; omega⟩

theorem mmvOutAt_parts (bs : List Byte) {r : Nat} (h : r < (mmvCmd bs).rows) : PartsOf [mmvOutAt bs r] [mmvDst bs] :=
  .one List.mem_cons_self ⟨Nat.le_add_right .., by dsimp only [mmvOutAt, mmvDst]; omega⟩

/-- What an MMV with the bytes `bs` needs so that nothing stops it: a matrix in the core's own stack that it may read, its
other ranges in the site's own scratch, all of them clean, and room for its results. -/
structure MmvRuns (d : Dev) (x : Ctx) (bs : List Byte) : Prop where
  core : x.c < d.cqs.length
  site : x.site < d.sites.length
  stack : inOwnStack x (mmvMatrix bs).1 (mmvMatrix bs).2 = true
  read : ∀ r < (mmvCmd bs).rows, x.mayRead d (mmvElems bs r).1 (mmvElems bs r).2 = true ∧
    x.mayRead d (mmvRecs bs r).1 (mmvRecs bs r).2 = true
  own : ∀ r ∈ [mmvVec bs, mmvDst bs], x.inOwn r.1 r.2 = true
  clean : d.clean [mmvMatrix bs, mmvVec bs, mmvDst bs]
  room : d.room x.c (mmvDst bs).2

/-- From `d` to `e`, the first `r` rows of an MMV have been written and counted. -/
structure MmvDone (x : Ctx) (bs : List Byte) (d : Dev) (r : Nat) (e : Dev) : Prop where
  wrote : UnitsWrote d x.c [mmvDst bs] (4 * r) e
  counted : Counted x.site (·.mvp.macCnt) d (r * (mmvCmd bs).cols) e

theorem MmvDone.start (x : Ctx) (bs : List Byte) (d : Dev) : MmvDone x bs d 0 d :=
  ⟨.start .., by rw [Nat.zero_mul]; exact .start ..⟩

/-- What row `r` reads: the vector with the first row, its elements and its scale records. -/
def mmvReads (bs : List Byte) (r : Nat) : List (Nat × Nat) := (if r = 0 then [mmvVec bs] else []) ++ [mmvElems bs r, mmvRecs bs r]

theorem mmvReads_parts (bs : List Byte) {r : Nat} (h : r < (mmvCmd bs).rows) :
    PartsOf (mmvReads bs r) [mmvMatrix bs, mmvVec bs, mmvDst bs] := by
  refine .append (fun g hg => ?_) (List.forall_mem_cons.2 ⟨⟨_, List.mem_cons_self, mmvElems_part bs h⟩,
    PartsOf.one List.mem_cons_self (mmvRecs_part bs h)⟩)
  rw [List.mem_ite_nil_right, List.mem_singleton] at hg
  exact ⟨_, List.mem_cons_of_mem _ List.mem_cons_self, by rw [hg.2]; exact ⟨Nat.le_refl _, Nat.le_refl _⟩⟩

/-- A row of an MMV whose result can be written is done. -/
theorem mmvUnit_done {x : Ctx} {d : Dev} {fl : Flight} {r : Nat} {Q : Dev → Prop}
    (hstack : ∀ g ∈ [mmvElems fl.bytes r, mmvRecs fl.bytes r], inOwnStack x g.1 g.2 = true ∧ x.mayRead d g.1 g.2 = true)
    (hown : ∀ g ∈ [mmvVec fl.bytes, mmvOutAt fl.bytes r], x.inOwn g.1 g.2 = true)
    (hwrite : ∀ ws, Fit ws [mmvOutAt fl.bytes r] → ∃ e, d.unitWrite x.c (mmvReads fl.bytes r) ws = (e, .done) ∧ Q e) :
    ∃ (e : Dev) (g : Site → Site) (fl' : Flight), mmvUnit x d fl r [] = (e.modSite x.site g, fl', .done) ∧ Q e ∧
      (∀ s, (g s).mvp.macCnt = satAdd s.mvp.macCnt (mmvCmd fl.bytes).cols) ∧ fl.UnitDone fl' := by
  obtain ⟨helems, helems'⟩ := hstack _ List.mem_cons_self
  obtain ⟨hrecs, hrecs'⟩ := hstack _ (List.mem_cons_of_mem _ List.mem_cons_self)
  have hscratch := scratchOk_none (rs := (if r = 0 then [mmvVec fl.bytes] else []) ++ [mmvOutAt fl.bytes r])
    (x := x) (fun g hg => hown g (by
      split at hg
      · exact hg
      · exact List.mem_cons_of_mem _ hg)) d
  choose e hdone hq using hwrite
  unfold mmvReads mmvElems mmvRecs mmvVec mmvOutAt at hdone
  unfold mmvVec mmvOutAt at hscratch
  unfold mmvElems at helems helems'
  unfold mmvRecs at hrecs hrecs'
  unfold mmvUnit
  simp only [List.isEmpty_nil, if_true, List.getD_cons_zero, List.getD_cons_succ, hscratch, helems, helems', hrecs, hrecs', mmvResidues_true,
    Bool.not_true, Bool.or_self, Bool.false_eq_true, if_false]
  rw [hdone]
  · exact ⟨_, _, _, rfl, hq _ _, fun _ => rfl, fl.first, fl.sums, _, rfl⟩
  · exact .cons ⟨rfl, Nat.le_of_eq (length_bytesLE ..)⟩ .nil

/-- The next row of an MMV that nothing stops. -/
theorem MmvDone.next {x : Ctx} {bs : List Byte} {d e : Dev} {r : Nat} {fl : Flight} (hruns : MmvRuns d x bs) (hr : r < (mmvCmd bs).rows)
    (h : MmvDone x bs d r e) (hbytes : fl.bytes = bs) :
    ∃ (e' : Dev) (fl' : Flight), mmvUnit x e fl r [] = (e', fl', .done) ∧ MmvDone x bs d (r + 1) e' ∧ fl.UnitDone fl' := by
  subst hbytes
  obtain ⟨hcore, hsite, hstack, hread, hown, hclean, hroom⟩ := hruns
  have hshared : e.shared = d.shared := h.wrote.only.same .shared rfl
  obtain ⟨hreadElems, hreadRecs⟩ := hread r hr
  have hout := mmvOutAt_parts fl.bytes hr
  have helems := mmvElems_part fl.bytes hr
  have hrecs := mmvRecs_part fl.bytes hr
  obtain ⟨e', g, fl', hunit, ⟨hwrote, hsites⟩, hcnt, hfl⟩ := mmvUnit_done (x := x) (d := e) (fl := fl) (r := r)
    (Q := fun e' => UnitsWrote d x.c [mmvDst fl.bytes] (4 * (r + 1)) e' ∧ e'.sites = e.sites)
    (List.forall_mem_cons.2 ⟨⟨inOwnStack_part hstack helems, (mayRead_of_shared hshared ..).trans hreadElems⟩,
      List.forall_mem_singleton.2 ⟨inOwnStack_part hstack hrecs, (mayRead_of_shared hshared ..).trans hreadRecs⟩⟩)
    (List.forall_mem_cons.2 ⟨hown _ List.mem_cons_self, inOwn_parts hown (hout.right [mmvVec fl.bytes])⟩)
    (fun ws hws => h.wrote.write hcore (clean_parts hclean (mmvReads_parts fl.bytes hr))
      (fun g hg => hclean g (List.mem_append_right [mmvMatrix fl.bytes, mmvVec fl.bytes] hg)) hws hout
      ((Nat.add_le_add_left (show 4 * (r + 1) ≤ 4 * (mmvCmd fl.bytes).rows by omega) _).trans hroom))
  refine ⟨_, fl', hunit, ⟨hwrote.of_sites (Only.step (modSite_only ..) rfl (.refl ..)), ?_⟩, hfl⟩
  rw [Nat.succ_mul]
  exact h.counted.more hsite hsites hcnt

/-- An MMV that nothing stops ends with all its rows written. -/
theorem mmv_writes {d : Dev} {c : Fin 72} {x : Ctx} {f : Fetched} (h : d.issues c.val 0x13 x f) {bs : List Byte}
    (hbs : x.resolve f.bytes = bs) (hstream : astream? bs = none) (hok : (mmvCmd bs).ok = true)
    (hapart : anyOverlap [mmvVec bs, mmvDst bs] = false) (hread : x.mayRead d (mmvMatrix bs).1 (mmvMatrix bs).2 = true)
    (hruns : MmvRuns (d.issued c.val x f) x bs) :
    ∃ (e : Dev) (fl : Flight) (g : Mvp → Mvp), mmv c false d = (e.draw.2.modMvp x.site g).putFlight c.val fl.done ∧
      (∀ m, (g m).macCnt = m.macCnt) ∧ MmvDone x bs (d.issued c.val x f) (mmvCmd bs).rows e ∧ fl.idx = f.idx ∧ fl.status = 0 := by
  have hissue : d.issue? c.val opMmv = _ := issue?_of_issues h
  have hbytes : (x.flightOf f).bytes = bs := hbs
  have hunits : (x.flightOf f).units = 0 := rfl
  obtain ⟨e, fl, hloop, hdone, hidx, hstatus⟩ := unitLoop_done (P := MmvDone x bs (d.issued c.val x f)) (fl := x.flightOf f) hstream
    (fun _ _ _ hr hP hb => hP.next hruns hr hb) x 4 (mmvCmd bs).rows (Nat.zero_add _) (MmvDone.start ..) hbytes
  have hscratch := scratchOk_none hruns.own (d.issued c.val x f)
  have hread' := (issued_mayRead h ..).trans hread
  have hstack := hruns.stack
  unfold mmvVec mmvDst at hscratch hapart
  unfold mmvMatrix at hread' hstack
  simp only [mmv, hissue, mmvRun, hbytes, hunits, (ctx?_core h.1).1, hstream, hok, hapart, hscratch, hread', hstack, hloop,
    Option.isNone_none, Nat.sub_zero, Bool.not_true, Bool.and_false, Bool.and_self, Bool.or_self, Bool.false_eq_true, if_true, if_false,
    decide_true]
  exact ⟨e, fl, _, rfl, fun _ => rfl, hdone, hidx, hstatus⟩

section
variable {d : Dev} {c : Fin 72} {x : Ctx} {f : Fetched} {bs : List Byte} (hbs : x.resolve f.bytes = bs) (hstream : astream? bs = none)
include hbs hstream

/-- What an MMV that nothing stops has counted and written when it has done its work. -/
theorem mmv_effect (h : d.issues c.val 0x13 x f) (hok : (mmvCmd bs).ok = true) (hapart : anyOverlap [mmvVec bs, mmvDst bs] = false)
    (hread : x.mayRead d (mmvMatrix bs).1 (mmvMatrix bs).2 = true) (hruns : MmvRuns (d.issued c.val x f) x bs) : let d' := mmv c false d
    (d'.site x.site).mvp.macCnt = satAdd (d.site x.site).mvp.macCnt ((mmvCmd bs).rows * (mmvCmd bs).cols) ∧
    d.writesOnly d' c.val [mmvDst bs] ∧ d'.worked c.val f.idx 0 = true ∧ d.sameOthers d' c.val := by
  obtain ⟨e, fl, g, hmmv, hg, ⟨hwrote, hcounted⟩, hidx, hstatus⟩ := mmv_writes h hbs hstream hok hapart hread hruns
  rw [(ctx?_core h.1).1] at hwrote
  obtain ⟨hwrites, hworked, hothers⟩ := UnitsWrote.ended h rfl hwrote (e' := e.draw.2.modMvp x.site g) rfl (fl := fl.done) hidx rfl
  have hcount := hcounted.rest (e' := e.draw.2) (g := fun s => { s with mvp := g s.mvp }) rfl fun _ => hg _
  rw [issued_site h] at hcount
  rw [hmmv]
  exact ⟨hcount, hwrites, hstatus ▸ hworked, hothers⟩
end

section
variable {d : Dev} {c : Fin 72} {x : Ctx} {f : Fetched} (hsite : x.site < d.sites.length) (hsound : d.sound x.site)
include hsite hsound

theorem mmv_fault_reports (h : d.issues c.val 0x13 x f) : let d' := mmv c true d
    (d'.site x.site).mvp.checkErr.val.getLsbD 0 = true ∧ d'.siteState x.site = .recovering := by
  have hissue : d.issue? c.val opMmv = _ := issue?_of_issues h
  have hmmv : mmv c true d = (d.issued c.val x f).mvpFault x.site 0 (cmdTag (x.resolve f.bytes)) := by
    simp only [mmv, hissue, mmvRun, if_true]
    rfl
  rw [hmmv]
  exact mvpFault_of_issues h hsite hsound (congrArg List.length (issued_sites h)) (issued_health h) 0 _

theorem elem_fault_reports (h : d.issues c.val 0x14 x f) : let d' := elem c true d
    (d'.site x.site).mvp.checkErr.val.getLsbD 1 = true ∧ d'.siteState x.site = .recovering := by
  have helem : elem c true d = ((d.issued c.val x f).updateDemand c.val x.site).mvpFault x.site 1 (cmdTag (x.resolve f.bytes)) := by
    rw [elem_runs h, ← (ctx?_core h.1).1]
    rfl
  rw [helem]
  exact mvpFault_of_issues h hsite hsound ((updateDemand_length ..).trans (congrArg List.length (issued_sites h)))
    ((updateDemand_health ..).trans (issued_health h)) 1 _
end

end Sys2Proof.Machine
end

section
/-! SUPPORT. DRAIN: the bytes of an output row, its rows one by one, its norm record, and its effect (R218 to R226). -/

namespace Sys2Proof.Machine

/-! ### The bytes of an output row (R171, R219) -/

theorem length_pack4 (cs : List Nat) : (pack4 cs).length = (cs.length + 1) / 2 := by
  fun_induction pack4 cs with
  | case1 => rfl
  | case2 a => simp
  | case3 a b r ih => simp only [List.length_cons, ih]; omega

theorem length_pack6 (cs : List Nat) : (pack6 cs).length = 3 * ((cs.length + 3) / 4) := by
  fun_induction pack6 cs with
  | case1 a b c d r ih => simp only [List.length_append, length_bytesLE, List.length_cons, ih]; omega
  | case2 => rfl
  | case3 l hfour hnil =>
    have hlen : 0 < l.length ∧ l.length < 4 := by
      rcases l with _ | ⟨a, _ | ⟨b, _ | ⟨c, _ | ⟨d, r⟩⟩⟩⟩
      · exact absurd rfl hnil
      · simp
      · simp
      · simp
      · exact absurd rfl (hfour a b c d r)
    rw [length_bytesLE]
    omega

/-- At most `n` elements of a format of R170, with `n` in whole fours, occupy no more than the bytes of `n`. -/
theorem length_packElems_le {fmt n : Nat} {cs : List Nat} (hfmt : 1 ≤ fmt ∧ fmt ≤ 10) (hcs : cs.length ≤ n) (hn : n % 4 = 0) :
    (packElems fmt cs).length ≤ elemBytes fmt n := by
  have hbits : fmtBits fmt = 4 ∨ fmtBits fmt = 6 ∨ fmtBits fmt = 8 ∨ fmtBits fmt = 16 ∨ fmtBits fmt = 32 := by
    obtain ⟨hlo, hhi⟩ := hfmt
    interval_cases fmt <;> decide
  unfold packElems elemBytes
  rcases hbits with h | h | h | h | h <;> simp only [h, length_pack4, length_pack6, List.length_map, length_flatMap_bytesLE] <;> omega

theorem length_flatMap_le {α β : Type} {gs : List α} {f : α → List β} {m : Nat} (h : ∀ g ∈ gs, (f g).length ≤ m) :
    (gs.flatMap f).length ≤ gs.length * m := by
  rw [List.length_flatMap, ← List.length_map (f := fun g => (f g).length), ← smul_eq_mul]
  exact List.sum_le_card_nsmul _ _ (by simpa using h)

@[simp] theorem length_chunksOf {α : Type} (n k : Nat) (l : List α) : (chunksOf n k l).length = k := by
  induction k generalizing l with
  | zero => rfl
  | succ k ih => rw [chunksOf, List.length_cons, ih]

theorem length_le_of_mem_chunksOf {α : Type} {n k : Nat} {l g : List α} (h : g ∈ chunksOf n k l) : g.length ≤ n := by
  induction k generalizing l with
  | zero => cases h
  | succ k ih =>
    rw [chunksOf, List.mem_cons] at h
    rcases h with rfl | h
    · exact List.length_take_le ..
    · exact ih h

theorem length_writeBlock (fmt : Nat) (vs : List Val) : (writeBlock fmt vs).1.length = vs.length := by
  unfold writeBlock
  split
  · dsimp only
    split
    · simp
    · simp
  · simp

/-- The groups of a row make no more codes than the row has columns, when no group makes more than its own. -/
theorem length_groups_le {α : Type} {g : Nat} {f : List α → List Nat} (hf : ∀ l, l.length ≤ g → (f l).length ≤ g) (l : List α) :
    ((chunksOf g (512 / g) l).flatMap f).length ≤ 512 := by
  have hle := length_flatMap_le (f := f) (fun c hc => hf c (length_le_of_mem_chunksOf (l := l) (k := 512 / g) hc))
  rw [length_chunksOf] at hle
  exact hle.trans (Nat.div_mul_le_self ..)

/-- A row that occupies no more than the bytes of its elements and scale records (R219). -/
structure DrainRow.Fits (o : DrainRow) (c : DrainCmd) : Prop where
  elems : o.elems.length ≤ c.elemBytes
  recs : isBlock c.fmt = true → o.recs.length ≤ c.recsBytes

theorem length_recordBytes (fmt r : Nat) : (recordBytes fmt r).length = recBytes fmt := length_bytesLE ..

/-- A scale record for each group. -/
theorem length_records_le {α : Type} {c : DrainCmd} (hblock : isBlock c.fmt = true) {gs : List α} (hgs : gs.length = 512 / c.g)
    (f : α → Nat) : (gs.flatMap (fun g => recordBytes c.fmt (f g))).length ≤ c.recsBytes := by
  rw [DrainCmd.recsBytes, if_pos hblock, ← hgs]
  exact length_flatMap_le fun g _ => Nat.le_of_eq (length_recordBytes ..)

theorem floatRow_fits {c : DrainCmd} (hfmt : 1 ≤ c.fmt ∧ c.fmt ≤ 10) {row : AccRow} (hrow : row.ents.length ≤ 512)
    (bias res : List Val) : (floatRow c row bias res).Fits c := by
  unfold floatRow
  split
  next hwide =>
    refine ⟨length_packElems_le hfmt (by simpa using hrow) rfl, fun hblock => ?_⟩
    simp only [isBlock, Bool.and_eq_true, decide_eq_true_eq] at hblock
    omega
  next hnarrow =>
    refine ⟨length_packElems_le hfmt ?_ rfl, fun hblock => length_records_le hblock (by simp) _⟩
    rw [List.flatMap_map]
    exact length_groups_le (fun l hl => (length_writeBlock ..).trans_le hl) _

theorem length_of_mapM {α β : Type} {f : α → Option β} {l : List α} {ys : List β} (h : l.mapM f = some ys) :
    ys.length = l.length := by
  induction l generalizing ys with
  | nil =>
    rw [List.mapM_nil] at h
    cases h
    rfl
  | cons a l ih =>
    rw [List.mapM_cons] at h
    obtain ⟨y, -, hy⟩ := Option.bind_eq_some_iff.1 h
    obtain ⟨zs, hzs, hcons⟩ := Option.bind_eq_some_iff.1 hy
    cases hcons
    rw [List.length_cons, ih hzs, List.length_cons]

theorem intRow_fits {c : DrainCmd} (hfmt : 1 ≤ c.fmt ∧ c.fmt ≤ 10) (row : AccRow) (bias : List Int) : (intRow c row bias).Fits c := by
  unfold intRow
  refine ⟨length_packElems_le hfmt ?_ rfl, fun hblock => length_records_le hblock (by simp) _⟩
  rw [List.flatMap_map]
  refine length_groups_le (fun l hl => ?_) _
  split
  next zs hzs =>
    rw [List.length_map, length_of_mapM hzs, List.length_map]
    exact hl
  next => simp

/-- A row's 512 columns (R211). -/
theorem length_drainRow_ents (d : Dev) (site r : Nat) : (d.drainRow site r).ents.length ≤ 512 := by
  unfold Dev.drainRow
  dsimp only
  split
  · simp
  · exact List.length_take_le ..

theorem length_rowStats (vs : List Val) : (rowStats vs).1.length = 32 := by
  unfold rowStats
  split <;> simp [length_bytesLE]

/-! ### One row of a DRAIN -/

/-- The ranges that row `i` of a DRAIN reads: its residual, and with the first row the bias and the norm record. -/
def drainReads (bs : List Byte) (i : Nat) : List (Nat × Nat) :=
  (if (drainCmd bs).res then [(((drainCmd bs).slots bs i).getD 2 0, (drainCmd bs).resBytes)] else []) ++
  (if i = 0 && (drainCmd bs).bias then [(((drainCmd bs).slots bs i).getD 4 0, 2048)] else []) ++
  (if i = 0 && (drainCmd bs).norm then [(((drainCmd bs).slots bs i).getD 5 0, 16)] else [])

/-- The ranges that it writes: its elements, its scale records and its statistics record. -/
def drainOuts (bs : List Byte) (i : Nat) : List (Nat × Nat) :=
  (((drainCmd bs).slots bs i).getD 0 0, (drainCmd bs).elemBytes) ::
  (if isBlock (drainCmd bs).fmt then [(((drainCmd bs).slots bs i).getD 1 0, (drainCmd bs).recsBytes)] else []) ++
  (if (drainCmd bs).stat then [(((drainCmd bs).slots bs i).getD 3 0, 32)] else [])

/-- A row's bytes fit its ranges. -/
theorem DrainRow.Fits.fit {bs st : List Byte} {o : DrainRow} (h : o.Fits (drainCmd bs)) (i : Nat)
    (hst : (drainCmd bs).stat = true → st.length ≤ 32) :
    Fit ((((drainCmd bs).slots bs i).getD 0 0, o.elems) ::
      (if isBlock (drainCmd bs).fmt then [(((drainCmd bs).slots bs i).getD 1 0, o.recs)] else []) ++
      (if (drainCmd bs).stat then [(((drainCmd bs).slots bs i).getD 3 0, st)] else [])) (drainOuts bs i) := by
  refine List.rel_append (.cons ⟨rfl, h.elems⟩ ?_) ?_
  · split
    next hblock => exact .cons ⟨rfl, h.recs hblock⟩ .nil
    next => exact .nil
  · split
    next hstat => exact .cons ⟨rfl, hst hstat⟩ .nil
    next => exact .nil

/-- A row of a DRAIN whose bytes can be written is done. -/
theorem drainUnit_done {x : Ctx} {d : Dev} {fl : Flight} {i : Nat} {Q : Dev → Prop}
    (hfmt : 1 ≤ (drainCmd fl.bytes).fmt ∧ (drainCmd fl.bytes).fmt ≤ 10)
    (hown : ∀ r ∈ drainReads fl.bytes i ++ drainOuts fl.bytes i, x.inOwn r.1 r.2 = true)
    (hwrite : ∀ ws, Fit ws (drainOuts fl.bytes i) → ∃ e, d.unitWrite x.c (drainReads fl.bytes i) ws = (e, .done) ∧ Q e) :
    ∃ (e : Dev) (g : Site → Site) (fl' : Flight), drainUnit x d fl i [] = (e.modSite x.site g, fl', .done) ∧ Q e ∧
      (∀ s, (g s).acc.drainRows = satAdd s.acc.drainRows 1 ∧ (g s).acc.rows = s.acc.rows) ∧ fl.UnitDone fl' := by
  have hscratch := scratchOk_none hown d
  choose e hdone hq using hwrite
  have hrow := length_drainRow_ents d x.site ((drainCmd fl.bytes).base + i)
  have hfits (bias : List Int) (vals res : List Val) : (if isInt (drainCmd fl.bytes).fmt
      then intRow (drainCmd fl.bytes) (d.drainRow x.site ((drainCmd fl.bytes).base + i)) bias
      else floatRow (drainCmd fl.bytes) (d.drainRow x.site ((drainCmd fl.bytes).base + i)) vals res).Fits (drainCmd fl.bytes) := by
    split
    · exact intRow_fits hfmt _ _
    · exact floatRow_fits hfmt hrow _ _
  unfold drainReads at hdone hscratch
  unfold drainOuts at hscratch
  unfold drainUnit
  simp only [List.isEmpty_nil, if_true, hscratch]
  rw [hdone]
  · exact ⟨_, _, _, rfl, hq _ _, fun _ => ⟨rfl, rfl⟩, fl.first, _, _, rfl⟩
  · refine (hfits _ _ _).fit i fun hstat => ?_
    rw [hstat, Bool.true_or, if_pos rfl]
    exact Nat.le_of_eq (length_rowStats _)

/-! ### The slots of a row (R267) -/

section
variable (c : DrainCmd) (bs : List Byte) (i : Nat)
theorem slots_elems : (c.slots bs i).getD 0 0 = addrFld bs 8 + i * c.elemBytes := rfl
theorem slots_recs : (c.slots bs i).getD 1 0 = addrFld bs 8 + c.rows * c.elemBytes + i * c.recsBytes := rfl
theorem slots_res : (c.slots bs i).getD 2 0 = addrFld bs 24 + i * c.resBytes := rfl
theorem slots_stats : (c.slots bs i).getD 3 0 = addrFld bs 44 + 32 * i := rfl
theorem slots_norm : (c.slots bs i).getD 5 0 = if c.stat then addrFld bs 44 + 32 * c.rows else addrFld bs 44 := rfl
end

/-- The statistics and norm records of a DRAIN. -/
def drainStats (bs : List Byte) : Nat × Nat :=
  (addrFld bs 44, (if (drainCmd bs).stat then 32 * (drainCmd bs).rows else 0) + (if (drainCmd bs).norm then 16 else 0))

/-- The norm record of a DRAIN. -/
def drainNorm (bs : List Byte) : Nat × Nat := (((drainCmd bs).slots bs 0).getD 5 0, 16)

theorem drainStats_mem {bs : List Byte} (h : (drainCmd bs).stat = true ∨ (drainCmd bs).norm = true) :
    drainStats bs ∈ (drainCmd bs).writes bs := by
  rw [DrainCmd.writes, if_pos (by simpa using h)]
  exact List.mem_cons_of_mem _ List.mem_cons_self

theorem drainNorm_part {bs : List Byte} (h : (drainCmd bs).norm = true) : PartOf (drainNorm bs) (drainStats bs) := by
  rw [drainNorm, drainStats, slots_norm, if_pos h]
  split
  · exact ⟨Nat.le_add_right .., Nat.le_of_eq (Nat.add_assoc ..)⟩
  · exact ⟨Nat.le_refl _, Nat.le_of_eq (by rw [Nat.zero_add])⟩

theorem drainOuts_parts {bs : List Byte} {i : Nat} (hi : i < (drainCmd bs).rows) : PartsOf (drainOuts bs i) ((drainCmd bs).writes bs) := by
  intro o ho
  have helems := slice_le hi (drainCmd bs).elemBytes
  have hrecs := slice_le hi (drainCmd bs).recsBytes
  have hsum := Nat.mul_add (drainCmd bs).rows (drainCmd bs).elemBytes (drainCmd bs).recsBytes
  rw [drainOuts, List.mem_append, List.mem_cons] at ho
  rcases ho with (rfl | ho) | ho
  · refine ⟨_, List.mem_cons_self, ?_⟩
    rw [slots_elems]
    exact ⟨Nat.le_add_right .., by dsimp only; omega⟩
  · split at ho
    next =>
      refine ⟨_, List.mem_cons_self, ?_⟩
      rw [List.mem_singleton.1 ho, slots_recs]
      constructor <;> dsimp only <;> omega
    next => cases ho
  · split at ho
    next hstat =>
      refine ⟨_, drainStats_mem (Or.inl hstat), ?_⟩
      rw [List.mem_singleton.1 ho, slots_stats, drainStats, if_pos hstat]
      exact ⟨Nat.le_add_right .., by dsimp only; omega⟩
    next => cases ho

theorem drainReads_parts {bs : List Byte} {i : Nat} (hi : i < (drainCmd bs).rows) :
    PartsOf (drainReads bs i) ((drainCmd bs).reads bs ++ (drainCmd bs).writes bs) := by
  intro o ho
  simp only [drainReads, List.mem_append, List.mem_ite_nil_right, List.mem_singleton, Bool.and_eq_true, decide_eq_true_eq] at ho
  rcases ho with (⟨hres, rfl⟩ | ⟨⟨-, hbias⟩, rfl⟩) | ⟨⟨rfl, hnorm⟩, rfl⟩
  · have := slice_le hi (drainCmd bs).resBytes
    refine ⟨(addrFld bs 24, (drainCmd bs).rows * (drainCmd bs).resBytes), by simp [DrainCmd.reads, hres], ?_⟩
    rw [slots_res]
    exact ⟨Nat.le_add_right .., by dsimp only; omega⟩
  · refine ⟨(addrFld bs 16, 2048), ?_, Nat.le_refl _, Nat.le_refl _⟩
    simp [DrainCmd.reads, hbias]
  · exact ⟨_, List.mem_append_right _ (drainStats_mem (Or.inr hnorm)), drainNorm_part hnorm⟩

/-- Bytes that a row of a DRAIN writes at most, and those that its norm record takes. -/
def DrainCmd.rowBytes (c : DrainCmd) : Nat := c.elemBytes + c.recsBytes + (if c.stat then 32 else 0)
def DrainCmd.normBytes (c : DrainCmd) : Nat := if c.norm then 16 else 0

theorem sum_drainOuts (bs : List Byte) (i : Nat) : ((drainOuts bs i).map (·.2)).sum = (drainCmd bs).rowBytes := by
  have hrecs : ((if isBlock (drainCmd bs).fmt then [(((drainCmd bs).slots bs i).getD 1 0, (drainCmd bs).recsBytes)] else []).map
      (·.2)).sum = (drainCmd bs).recsBytes := by
    unfold DrainCmd.recsBytes
    cases isBlock (drainCmd bs).fmt <;> rfl
  have hstat : ((if (drainCmd bs).stat then [(((drainCmd bs).slots bs i).getD 3 0, 32)] else []).map (·.2)).sum =
      if (drainCmd bs).stat then 32 else 0 := by
    cases (drainCmd bs).stat <;> rfl
  rw [drainOuts, List.map_append, List.sum_append, List.map_cons, List.sum_cons, hrecs, hstat, DrainCmd.rowBytes]

theorem sum_drainWrites (bs : List Byte) : (((drainCmd bs).writes bs).map (·.2)).sum =
    (drainCmd bs).rows * (drainCmd bs).rowBytes + (drainCmd bs).normBytes := by
  have hstats : ((if (drainCmd bs).stat || (drainCmd bs).norm then [drainStats bs] else []).map (·.2)).sum = (drainStats bs).2 := by
    unfold drainStats
    cases (drainCmd bs).stat <;> cases (drainCmd bs).norm <;> rfl
  have hrow : (if (drainCmd bs).stat then 32 * (drainCmd bs).rows else 0) = (drainCmd bs).rows * (if (drainCmd bs).stat then 32 else 0) := by
    cases (drainCmd bs).stat
    · rfl
    · exact Nat.mul_comm ..
  rw [DrainCmd.writes, List.map_cons, List.sum_cons]
  refine (congrArg (_ + ·) hstats).trans ?_
  dsimp only [drainStats]
  rw [hrow, DrainCmd.rowBytes, Nat.mul_add _ (_ + _), Nat.add_assoc]
  rfl

/-- What a DRAIN with the bytes `bs` needs so that nothing stops it: its ranges in the site's own scratch and
clean, and room for its outputs. -/
structure DrainRuns (d : Dev) (x : Ctx) (bs : List Byte) : Prop where
  core : x.c < d.cqs.length
  site : x.site < d.sites.length
  fmt : 1 ≤ (drainCmd bs).fmt ∧ (drainCmd bs).fmt ≤ 10
  own : ∀ r ∈ (drainCmd bs).reads bs ++ (drainCmd bs).writes bs, x.inOwn r.1 r.2 = true
  clean : d.clean ((drainCmd bs).reads bs ++ (drainCmd bs).writes bs)
  room : d.room x.c ((drainCmd bs).rows * (drainCmd bs).rowBytes + (drainCmd bs).normBytes)

theorem DrainRuns.cleanWrites {d : Dev} {x : Ctx} {bs : List Byte} (h : DrainRuns d x bs) : d.clean ((drainCmd bs).writes bs) :=
  fun r hr => h.clean r (List.mem_append_right _ hr)

/-- From `d` to `e`, the first `r` rows of a DRAIN have been written and counted, and the accumulator rows stand. -/
structure DrainDone (x : Ctx) (bs : List Byte) (d : Dev) (r : Nat) (e : Dev) : Prop where
  wrote : UnitsWrote d x.c ((drainCmd bs).writes bs) (r * (drainCmd bs).rowBytes) e
  counted : Counted x.site (·.acc.drainRows) d r e
  rows : (e.site x.site).acc.rows = (d.site x.site).acc.rows

theorem DrainDone.start (x : Ctx) (bs : List Byte) (d : Dev) : DrainDone x bs d 0 d :=
  ⟨by rw [Nat.zero_mul]; exact .start .., .start .., rfl⟩

/-- The next row of a DRAIN that nothing stops. -/
theorem DrainDone.next {x : Ctx} {bs : List Byte} {d e : Dev} {r : Nat} {fl : Flight} (hruns : DrainRuns d x bs)
    (hr : r < (drainCmd bs).rows) (h : DrainDone x bs d r e) (hbytes : fl.bytes = bs) :
    ∃ (e' : Dev) (fl' : Flight), drainUnit x e fl r [] = (e', fl', .done) ∧ DrainDone x bs d (r + 1) e' ∧ fl.UnitDone fl' := by
  subst hbytes
  have hsum : (r + 1) * (drainCmd fl.bytes).rowBytes = r * (drainCmd fl.bytes).rowBytes + ((drainOuts fl.bytes r).map (·.2)).sum := by
    rw [sum_drainOuts, Nat.succ_mul]
  have hreads := drainReads_parts hr
  have houts := drainOuts_parts hr
  have hroom : d.room x.c ((r + 1) * (drainCmd fl.bytes).rowBytes) :=
    (Nat.add_le_add_left ((Nat.mul_le_mul_right _ hr).trans (Nat.le_add_right ..)) _).trans hruns.room
  obtain ⟨e', g, fl', hunit, ⟨hwrote, hsites⟩, hg, hfl⟩ := drainUnit_done (x := x) (d := e) (fl := fl) (i := r)
    (Q := fun e' =>
      UnitsWrote d x.c ((drainCmd fl.bytes).writes fl.bytes) ((r + 1) * (drainCmd fl.bytes).rowBytes) e' ∧ e'.sites = e.sites)
    hruns.fmt (inOwn_parts hruns.own (hreads.append (houts.right _))) fun ws hws => by
      rw [hsum] at hroom ⊢
      exact h.wrote.write hruns.core (clean_parts hruns.clean hreads) hruns.cleanWrites hws houts hroom
  refine ⟨_, fl', hunit, ⟨hwrote.of_sites (Only.step (modSite_only ..) rfl (.refl ..)), ?_, ?_⟩, hfl⟩
  · exact h.counted.more hruns.site hsites fun s => (hg s).1
  · rw [site_modSite_view (·.acc.rows) fun s => (hg s).2, site_of_sites hsites, h.rows]

/-! ### The norm record (R226) -/

/-- The norm record of a DRAIN that nothing stops is written back, and the flight is as it was. -/
theorem normBack_done {x : Ctx} {d e : Dev} {fl : Flight} {n : Nat} (hstream : astream? fl.bytes = none) (hruns : DrainRuns d x fl.bytes)
    (h : UnitsWrote d x.c ((drainCmd fl.bytes).writes fl.bytes) n e) (hroom : d.room x.c (n + (drainCmd fl.bytes).normBytes)) :
    ∃ e', normBack x e fl = (e', fl) ∧
      UnitsWrote d x.c ((drainCmd fl.bytes).writes fl.bytes) (n + (drainCmd fl.bytes).normBytes) e' ∧ e'.sites = e.sites := by
  have hwrite : (drainCmd fl.bytes).norm = true → ∀ bytes : List Byte, bytes.length ≤ 16 → ∃ e',
      e.unitWrite x.c [] [((drainNorm fl.bytes).1, bytes)] = (e', .done) ∧
      UnitsWrote d x.c ((drainCmd fl.bytes).writes fl.bytes) (n + (drainCmd fl.bytes).normBytes) e' ∧ e'.sites = e.sites := by
    intro hnorm bytes hlen
    have hbytes : (drainCmd fl.bytes).normBytes = 16 := if_pos hnorm
    rw [hbytes] at hroom ⊢
    exact h.write hruns.core (reads := []) (by simp) hruns.cleanWrites (outs := [drainNorm fl.bytes]) (.cons ⟨rfl, hlen⟩ .nil)
      (.one (drainStats_mem (Or.inr hnorm)) (drainNorm_part hnorm)) hroom
  unfold normBack
  simp only [hstream, Option.isNone_none, if_true]
  split
  next hback =>
    simp only [Bool.and_eq_true] at hback
    obtain ⟨e', hdone, hwrote, hsites⟩ := hwrite hback.1.1
      (bytesLE 8 (fl.sums.getD 0 0).toNat ++ bytesLE 8 (fl.sums.getD 1 0).toNat) (by simp [length_bytesLE])
    unfold drainNorm at hdone
    rw [hdone]
    exact ⟨e', rfl, hwrote, hsites⟩
  next => exact ⟨e, rfl, h.room_more (Nat.le_add_right ..), rfl⟩

theorem drainUnit_bytes (x : Ctx) (d : Dev) (fl : Flight) (i : Nat) (slots : List Nat) :
    (drainUnit x d fl i slots).2.1.bytes = fl.bytes := by
  unfold drainUnit
  dsimp only
  split
  · rfl
  · split <;> rfl

/-- A DRAIN that nothing stops ends with all its rows and its norm record written. -/
theorem drain_writes {d : Dev} {c : Fin 72} {x : Ctx} {f : Fetched} (h : d.issues c.val 0x15 x f) {bs : List Byte}
    (hbs : x.resolve f.bytes = bs) (hstream : astream? bs = none) (hok : (drainCmd bs).ok = true)
    (hapart : (drainCmd bs).overlaps bs = false) (hruns : DrainRuns (d.issued c.val x f) x bs) :
    ∃ (e e' : Dev) (fl : Flight) (g : Acc → Acc), drain c false d = (e'.draw.2.modAcc x.site g).putFlight c.val fl.done ∧
      (∀ a, (g a).drainRows = a.drainRows ∧ (g a).rows = a.rows) ∧ DrainDone x bs (d.issued c.val x f) (drainCmd bs).rows e ∧
      UnitsWrote (d.issued c.val x f) c.val ((drainCmd bs).writes bs)
        ((drainCmd bs).rows * (drainCmd bs).rowBytes + (drainCmd bs).normBytes) e' ∧
      e'.sites = e.sites ∧ fl.idx = f.idx ∧ fl.status = 0 := by
  have hissue : d.issue? c.val opDrain = _ := issue?_of_issues h
  have hbytes : (x.flightOf f).bytes = bs := hbs
  have hunits : (x.flightOf f).units = 0 := rfl
  obtain ⟨e, fl, hloop, hdone, hidx, hstatus⟩ := unitLoop_done (P := DrainDone x bs (d.issued c.val x f)) (fl := x.flightOf f) hstream
    (fun _ _ _ hr hP hb => hP.next hruns hr hb) x 6 (drainCmd bs).rows (Nat.zero_add _) (DrainDone.start ..) hbytes
  have hflbytes : fl.done.bytes = bs := by
    have hkeep := unitLoop_bytes (drainUnit_bytes x) x 6 (drainCmd bs).rows (d.issued c.val x f) (x.flightOf f)
    rw [hloop, hbytes] at hkeep
    exact hkeep
  obtain ⟨e', hback, hwrote, hsites⟩ := normBack_done (fl := fl.done) (hflbytes.symm ▸ hstream) (hflbytes.symm ▸ hruns)
    (hflbytes.symm ▸ hdone.wrote) (hflbytes.symm ▸ hruns.room)
  rw [hflbytes, (ctx?_core h.1).1] at hwrote
  have hscratch := scratchOk_none hruns.own (d.issued c.val x f)
  simp only [drain, hissue, drainRun, hbytes, hunits, (ctx?_core h.1).1, hstream, hok, hapart, hscratch, hloop, hback, Option.isNone_none,
    Nat.sub_zero, Bool.not_true, Bool.and_false, Bool.and_self, Bool.or_self, Bool.false_eq_true, if_true, if_false, decide_true]
  exact ⟨e, e', fl, _, rfl, fun _ => ⟨rfl, rfl⟩, hdone, hwrote, hsites, hidx, hstatus⟩

section
variable {d : Dev} {c : Fin 72} {x : Ctx} {f : Fetched} {bs : List Byte} (hbs : x.resolve f.bytes = bs) (hstream : astream? bs = none)
include hbs hstream

/-- What a DRAIN that nothing stops has counted and written when it has done its work. -/
theorem drain_effect (h : d.issues c.val 0x15 x f) (hok : (drainCmd bs).ok = true) (hapart : (drainCmd bs).overlaps bs = false)
    (hruns : DrainRuns (d.issued c.val x f) x bs) : let d' := drain c false d
    (d'.site x.site).acc.drainRows = satAdd (d.site x.site).acc.drainRows (drainCmd bs).rows ∧
    (d'.site x.site).acc.rows = (d.site x.site).acc.rows ∧ d.writesOnly d' c.val ((drainCmd bs).writes bs) ∧
    d'.worked c.val f.idx 0 = true ∧ d.sameOthers d' c.val := by
  obtain ⟨e, e', fl, g, hdrain, hg, hdone, hwrote, hsites, hidx, hstatus⟩ := drain_writes h hbs hstream hok hapart hruns
  obtain ⟨hwrites, hworked, hothers⟩ := UnitsWrote.ended h rfl hwrote (e' := e'.draw.2.modAcc x.site g) rfl (fl := fl.done) hidx rfl
  have hsite : e'.site x.site = e.site x.site := site_of_sites hsites _
  have hcount := hdone.counted.rest (e' := e'.draw.2) (g := fun s => { s with acc := g s.acc }) (congrArg (·.acc.drainRows) hsite)
    fun _ => (hg _).1
  have hrows : ((e'.draw.2.modAcc x.site g).site x.site).acc.rows = (e'.site x.site).acc.rows :=
    site_modSite_view (fun s => s.acc.rows) (fun _ => (hg _).2) e'.draw.2 ..
  rw [hsite, hdone.rows, issued_site h] at hrows
  rw [issued_site h] at hcount
  rw [hdrain]
  exact ⟨hcount, hrows, hwrites, hstatus ▸ hworked, hothers⟩
end

/-- Settles O37: each unit of work of the three commands finds its ranges within those of the command, so that it is done, and writes and
counts its part. -/
theorem outputAndMatrixVectorCommandsComplete : Obligations.OutputAndMatrixVectorCommandsComplete := by
  unfold Obligations.OutputAndMatrixVectorCommandsComplete
  refine ⟨?drain, ?mmv, ?mmvFault, ?elem, ?elemFault⟩
  case drain =>
    intro s c x f h hsite hstream hlo hhi hok hapart hreads hwrites hclean hroom
    rw [sum_drainWrites] at hroom
    have hown : ∀ r ∈ (drainCmd (x.resolve f.bytes)).reads _ ++ (drainCmd (x.resolve f.bytes)).writes _, x.inOwn r.1 r.2 = true :=
      List.forall_mem_append.2 ⟨hreads, fun r hr => inOwn_of_outOk (hwrites r hr)⟩
    have hmem : (drain c false s.dev).mem = s.dev.mem := (drain_only ..).same .mem rfl
    obtain ⟨hcount, hrows, honly, hworked, hothers⟩ := drain_effect rfl hstream h hok hapart
      ⟨issued_core_lt h, issued_site_lt h hsite, ⟨hlo, hhi⟩, hown, clean_of_only (issued_only h) hclean, issued_room h hroom⟩
    exact completes_of_run rfl ⟨hcount, hrows, honly, hworked, hmem, hothers⟩
  case mmv =>
    intro s c x f h hsite hstream hok hstack hread hreadRows hvec hout hapart hclean hroom
    have hmeets : anyOverlap [mmvVec (x.resolve f.bytes), mmvDst (x.resolve f.bytes)] = false := by
      simp only [anyOverlap, List.any_cons, List.any_nil, Bool.or_false]
      exact hapart
    have hown : ∀ r ∈ [mmvVec (x.resolve f.bytes), mmvDst (x.resolve f.bytes)], x.inOwn r.1 r.2 = true :=
      List.forall_mem_cons.2 ⟨hvec, List.forall_mem_singleton.2 (inOwn_of_outOk hout)⟩
    have hmem : (mmv c false s.dev).mem = s.dev.mem := (mmv_only ..).same .mem rfl
    obtain ⟨hcount, honly, hworked, hothers⟩ := mmv_effect rfl hstream h hok hmeets hread
      ⟨issued_core_lt h, issued_site_lt h hsite, hstack, fun r hr => by rw [issued_mayRead h, issued_mayRead h]; exact hreadRows r hr,
        hown, clean_of_only (issued_only h) hclean, issued_room h hroom⟩
    exact completes_of_run rfl ⟨hcount, honly, hworked, hmem, hothers⟩
  case mmvFault =>
    intro s c x f h hsite hsound
    obtain ⟨hbit, hstate⟩ := mmv_fault_reports hsite hsound h
    exact completes_of_run rfl ⟨hbit, hstate, (mmv_only c true s.dev).same .mem rfl⟩
  case elem =>
    intro s c x f h hstream hgrant hsrcs hout hclean hroom
    have hsite : x.site < s.dev.sites.length := lt_of_site_ne (·.lbk.grant) hgrant
    have hown : ∀ r ∈ elemReads (x.resolve f.bytes) ++ [elemDst (x.resolve f.bytes)], x.inOwn r.1 r.2 = true :=
      List.forall_mem_append.2 ⟨List.forall_mem_map.2 fun a ha => (hsrcs a ha).1, List.forall_mem_singleton.2 (inOwn_of_outOk hout)⟩
    have hcleanAll : s.dev.clean (elemReads (x.resolve f.bytes) ++ [elemDst (x.resolve f.bytes)]) :=
      List.forall_mem_append.2 ⟨List.forall_mem_map.2 fun a ha => (hsrcs a ha).2.2 _ List.mem_cons_self, hclean⟩
    have hmem : (elem c false s.dev).mem = s.dev.mem := (elem_only ..).same .mem rfl
    obtain ⟨hcount, honly, hworked, hothers⟩ := elem_effect rfl hstream h hgrant (fun a ha => (hsrcs a ha).2.1)
      ⟨issued_core_lt h, by rw [updateDemand_length]; exact issued_site_lt h hsite, hown, clean_of_only (issued_only h) hcleanAll,
        issued_room h hroom⟩
    exact completes_of_run rfl ⟨hcount, honly, hworked, hmem, hothers⟩
  case elemFault =>
    intro s c x f h hsite hsound
    obtain ⟨hbit, hstate⟩ := elem_fault_reports hsite hsound h
    exact completes_of_run rfl ⟨hbit, hstate, (elem_only c true s.dev).same .mem rfl⟩

end Sys2Proof.Machine
end

section
/-! SUPPORT. Control cores: the thread that stands before an instruction, and the machine after one that retires (R256, R269). -/

namespace Sys2Proof.Machine

/-! ### The control core of a site after an operation -/

theorem ccr_modCcr_same (d : Dev) {n : Nat} (f : Ccr → Ccr) (h : n < d.sites.length) : ((d.modCcr n f).site n).ccr = f (d.site n).ccr := by
  rw [Dev.modCcr, site_modSite_same d _ h]

/-- What an update of a control core does not touch is as it was, in that core and in the others. -/
theorem ccr_modCcr_view {α : Type} (view : Ccr → α) {f : Ccr → Ccr} (hf : ∀ cc, view (f cc) = view cc) (d : Dev) (n k : Nat) :
    view ((d.modCcr n f).site k).ccr = view (d.site k).ccr :=
  site_modSite_view (fun s => view s.ccr) (fun s => hf s.ccr) d n k

/-- Two updates of one element of a list agree where they agree on that element. -/
theorem modify_congr_getD {α : Type} {l : List α} {n : Nat} {f g : α → α} (a : α) (h : f (l.getD n a) = g (l.getD n a)) :
    l.modify n f = l.modify n g := by
  refine List.ext_getElem? fun i => ?_
  simp only [List.getElem?_modify]
  split
  next hi =>
    subst hi
    cases hb : l[n]? with
    | none => rfl
    | some b =>
      rw [List.getD_eq_getElem?_getD, hb] at h
      exact congrArg some h
  next => rfl

theorem modify_eq_const {α : Type} (l : List α) (n : Nat) (f : α → α) (a : α) : l.modify n f = l.modify n (fun _ => f (l.getD n a)) :=
  modify_congr_getD a rfl

/-- Two updates of a control core agree where they agree on what the core holds. -/
theorem modCcr_congr {d : Dev} {n : Nat} {f g : Ccr → Ccr} (h : f (d.site n).ccr = g (d.site n).ccr) : d.modCcr n f = d.modCcr n g :=
  congrArg (fun l => { d with sites := l }) (modify_congr_getD {} (congrArg (fun cc => { d.site n with ccr := cc }) h))

@[simp] theorem modCcr_modCcr (d : Dev) (n : Nat) (f g : Ccr → Ccr) : (d.modCcr n f).modCcr n g = d.modCcr n (g ∘ f) :=
  congrArg (fun l => { d with sites := l }) (List.modify_modify_eq _ _ n d.sites)

/-! ### The thread before an instruction -/

theorem threadAt_of_sites {d e : Dev} (h : e.sites = d.sites) (site t : Nat) : e.threadAt site t = d.threadAt site t := by
  rw [Dev.threadAt, site_of_sites h, Dev.threadAt]

/-- An update of a control core that leaves its threads. -/
theorem threadAt_modCcr {f : Ccr → Ccr} (hf : ∀ cc, (f cc).threads = cc.threads) (d : Dev) (n site t : Nat) :
    (d.modCcr n f).threadAt site t = d.threadAt site t :=
  congrArg (·.getD t {}) (ccr_modCcr_view (·.threads) hf d n site)

/-- A thread that has started stands in the tables. -/
theorem lt_of_started {d : Dev} {site t : Nat} (h : (d.threadAt site t).started = true) :
    site < d.sites.length ∧ t < (d.site site).ccr.threads.length := by
  constructor
  · have hreset : ({} : Site).ccr.threads.getD t {} = {} := List.getElem?_getD_replicate_default_eq _ _ _
    refine lt_of_site_ne (fun s => (s.ccr.threads.getD t {}).started) fun hs => ?_
    have hidle : ((d.site site).ccr.threads.getD t {}).started = false := hs.trans (congrArg Thread.started hreset)
    rw [Dev.threadAt, hidle] at h
    cases h
  · by_contra ht
    rw [Dev.threadAt, List.getD_eq_default _ _ (Nat.le_of_not_lt ht)] at h
    cases h

theorem threadAt_modThread {d : Dev} {site t : Nat} (hsite : site < d.sites.length) (ht : t < (d.site site).ccr.threads.length)
    (f : Thread → Thread) : (d.modThread site t f).threadAt site t = f (d.threadAt site t) := by
  rw [Dev.threadAt, Dev.modThread, ccr_modCcr_same d _ hsite]
  exact getD_modify_same _ _ _ _ ht

theorem modThread_threads {d : Dev} {site : Nat} (hsite : site < d.sites.length) (t : Nat) (f : Thread → Thread) :
    ((d.modThread site t f).site site).ccr.threads.length = (d.site site).ccr.threads.length := by
  rw [Dev.modThread, ccr_modCcr_same d _ hsite, List.length_modify]

section
variable {d : Dev} {c t op : Nat} {x : Ctx} {th : Thread} {base : Nat} {w : BitVec 32} (h : d.atIns c t op x th base w)
include h

/-- A thread before an instruction is one of its core's, started and running. -/
theorem atIns_thread : d.threadAt x.site t = th ∧ th.started = true ∧ th.state = .running := by
  obtain ⟨hcx, -, -⟩ := h
  unfold Dev.ccrCx? at hcx
  split at hcx
  · cases hcx
  next =>
    dsimp only at hcx
    split at hcx
    next hrun =>
      simp only [Option.some.injEq, Prod.mk.injEq] at hcx
      obtain ⟨rfl, rfl, -, -⟩ := hcx
      obtain ⟨hstarted, hstate⟩ := Bool.and_eq_true_iff.1 hrun
      exact ⟨rfl, hstarted, eq_of_beq hstate⟩
    next => cases hcx

theorem atIns_threadAt : d.threadAt x.site t = th := (atIns_thread h).1

theorem atIns_lt : x.site < d.sites.length ∧ t < (d.site x.site).ccr.threads.length := by
  obtain ⟨hth, hstarted, -⟩ := atIns_thread h
  exact lt_of_started (hth ▸ hstarted)

end

/-- What the instruction before a thread sees. -/
abbrev Dev.insCx (d : Dev) (t : Nat) (x : Ctx) (th : Thread) (base : Nat) (w : BitVec 32) : CcrCx := ⟨d, x, t, th, base, w⟩

/-- The commanded instruction, before which the thread stands, has its outcome. -/
theorem ccrStep_of_atIns {d : Dev} {c : Fin 72} {t : Fin 8} {op : Nat} {x : Ctx} {th : Thread} {base : Nat} {w : BitVec 32}
    (h : d.atIns c.val t.val op x th base w) (sem : CcrCx → CcrRes) :
    ccrStep op sem c t .none d = (d.insCx t.val x th base w).settle (sem (d.insCx t.val x th base w)) := by
  obtain ⟨hcx, hlegal, hop⟩ := h
  simp [ccrStep, hcx, hlegal, hop]

/-! ### An instruction that retires (R269) -/

/-- A thread after an instruction that retires: the instruction's word and then `folded` are folded into its CRC. -/
def Thread.afterIns (th : Thread) (base : Nat) (w : BitVec 32) (rd : Nat) (v npc : BitVec 64) (folded : List (BitVec 64)) : Thread :=
  { ((({ th with retired := th.retired + 1 }.fold [(th.pc - BitVec.ofNat 64 base) <<< 32 ||| w.setWidth 64]).fold folded).setReg rd v) with
    pc := npc }

theorem afterIns_eq (th : Thread) (base : Nat) (w : BitVec 32) (rd : Nat) (v npc : BitVec 64) (folded : List (BitVec 64)) :
    th.afterIns base w rd v npc folded = { th with
      regs := if rd = 0 then th.regs else th.regs.set rd v
      pc := npc, retired := th.retired + 1
      crc := (((th.pc - BitVec.ofNat 64 base) <<< 32 ||| w.setWidth 64) :: folded).foldl crc64Word th.crc } := by
  rw [Thread.afterIns, Thread.setReg]
  split <;> rfl

/-- A thread of a site replaced, with what its instruction counts. -/
def Dev.putThread (d : Dev) (site t : Nat) (th : Thread) : Dev :=
  d.modCcr site (fun cc => { cc with retired := satInc cc.retired, threads := cc.threads.modify t (fun _ => th) })

theorem threadAt_putThread {d : Dev} {site t : Nat} (hsite : site < d.sites.length) (ht : t < (d.site site).ccr.threads.length) (th : Thread) :
    (d.putThread site t th).threadAt site t = th := by
  rw [Dev.threadAt, Dev.putThread, ccr_modCcr_same d _ hsite]
  exact getD_modify_same _ _ _ _ ht

/-- What the retirement of an instruction makes of its thread and of the count of its core. -/
theorem retired_eq (k : CcrCx) (e : Dev) (f : Thread → Thread) : k.retired e f = e.putThread k.x.site k.t
    (f ({ e.threadAt k.x.site k.t with retired := (e.threadAt k.x.site k.t).retired + 1 }.fold
      [(k.th.pc - BitVec.ofNat 64 k.base) <<< 32 ||| k.w.setWidth 64])) := by
  simp only [CcrCx.retired, Dev.modThread, modCcr_modCcr, Dev.putThread]
  refine modCcr_congr ?_
  rw [Function.comp_apply, modify_eq_const _ _ _ ({} : Thread)]
  rfl

/-- The outcome of an instruction that retires. -/
theorem settle_retire (k : CcrCx) {e : Dev} (he : e.threadAt k.x.site k.t = k.th) (rd : Nat) (v npc : BitVec 64) (folded : List (BitVec 64)) :
    k.settle (.retire e rd v npc folded) = e.putThread k.x.site k.t (k.th.afterIns k.base k.w rd v npc folded) := by
  rw [CcrCx.settle, retired_eq, he]
  rfl

/-- A thread before an instruction that retires has retired it. -/
theorem retires_putThread {d e : Dev} {c t op : Nat} {x : Ctx} {th : Thread} {base : Nat} {w : BitVec 32} (h : d.atIns c t op x th base w)
    (he : e.threadAt x.site t = th) (rd : Nat) (v npc : BitVec 64) (folded : List (BitVec 64)) :
    e.retires (e.putThread x.site t (th.afterIns base w rd v npc folded)) x t th base w rd v npc folded := by
  obtain ⟨-, hstarted, hstate⟩ := atIns_thread h
  obtain ⟨hsite, ht⟩ := lt_of_started (he ▸ hstarted)
  have hput := threadAt_putThread hsite ht (th.afterIns base w rd v npc folded)
  unfold Dev.retires
  rw [hput, afterIns_eq]
  exact ⟨rfl, rfl, hstate, hstarted, rfl, rfl, rfl, rfl⟩

section
variable {ins : Instr} {s : State} {c : Fin 72} {t : Fin 8} {op : Nat} {sem : CcrCx → CcrRes} {x : Ctx} {th : Thread} {base : Nat}
  {w : BitVec 32} (hexec : exec ins s = run (ccrStep op sem c t .none) s) (h : s.dev.atIns c.val t.val op x th base w)
  {rd : Nat} {v npc : BitVec 64} {folded : List (BitVec 64)}
include hexec h

/-- A command of an instruction whose outcome is that it retires completes with the instruction retired. -/
theorem completes_retires {e : Dev} (hsem : sem (s.dev.insCx t.val x th base w) = .retire e rd v npc folded)
    (he : e.threadAt x.site t.val = th) : Completes ins s fun d => e.retires d x t.val th base w rd v npc folded := by
  refine completes_of_run hexec ?_
  rw [ccrStep_of_atIns h, hsem, settle_retire _ he]
  exact retires_putThread h he rd v npc folded

/-- The same for an instruction without an effect on the machine but for its thread. -/
theorem completes_retires_alone (hsem : sem (s.dev.insCx t.val x th base w) = .retire s.dev rd v npc folded) :
    Completes ins s fun d => s.dev.retires d x t.val th base w rd v npc folded :=
  completes_retires hexec h hsem (atIns_threadAt h)

/-- A command of an instruction that cannot act yet leaves the machine as it was. -/
theorem completes_block (hsem : sem (s.dev.insCx t.val x th base w) = .block) : Completes ins s fun d => d = s.dev :=
  completes_of_run hexec (by rw [ccrStep_of_atIns h, hsem]; rfl)

end

end Sys2Proof.Machine
end


section
/-! SUPPORT. Register instructions, branches and jumps of a control core (R256 to R258). -/

namespace Sys2Proof.Machine

/-! ### Values -/

/-- A comparison that a signed compare decides. -/
theorem slt_ite {α : Type} (a b : BitVec 64) (x y : α) : (if a.slt b then x else y) = if a.toInt < b.toInt then x else y := by
  simp only [BitVec.slt_iff_toInt_lt]

/-- The results of ALU's functions, in their order (R256, R257). -/
def aluResults (a b c : BitVec 64) : List (BitVec 64) :=
  [a + b, a - b, a &&& b, a ||| b, a ^^^ b, a <<< (b.toNat % 64), a >>> (b.toNat % 64), a.sshiftRight (b.toNat % 64), a * b,
    ((a.setWidth 128 * b.setWidth 128).extractLsb' 64 64), (if a.slt b then 1 else 0), (if a.ult b then 1 else 0),
    (if a.slt b then a else b), (if b.slt a then a else b), (if c ≠ 0 then a else b),
    BitVec.ofNat 64 (fp32.write (fp64.decode a.toNat)).1, BitVec.ofNat 64 (fp64.write (fp32.decode (a.toNat % 2 ^ 32))).1,
    BitVec.ofNat 64 (f64AddF a.toNat b.toNat).1, BitVec.ofNat 64 (f64MulF a.toNat b.toNat).1,
    BitVec.ofNat 64 (fp64.round (Dy.ofInt a.toInt)).1]

/-- The upper half of a product. -/
theorem mulHigh_eq (a b : BitVec 64) : BitVec.ofNat 64 (a.toNat * b.toNat / 2 ^ 64) = (a.setWidth 128 * b.setWidth 128).extractLsb' 64 64 := by
  have hlt : a.toNat * b.toNat < 2 ^ 128 := by
    calc a.toNat * b.toNat < 2 ^ 64 * 2 ^ 64 := Nat.mul_lt_mul'' a.isLt b.isLt
      _ = 2 ^ 128 := by norm_num
  have ha : a.toNat % 2 ^ 128 = a.toNat := Nat.mod_eq_of_lt (a.isLt.trans (by norm_num))
  have hb : b.toNat % 2 ^ 128 = b.toNat := Nat.mod_eq_of_lt (b.isLt.trans (by norm_num))
  apply BitVec.eq_of_toNat_eq
  rw [BitVec.extractLsb'_toNat, BitVec.toNat_mul, BitVec.toNat_setWidth, BitVec.toNat_setWidth, ha, hb, Nat.mod_eq_of_lt hlt,
    BitVec.toNat_ofNat, Nat.shiftRight_eq_div_pow]

/-- The smaller of two, whichever is named where they are equal. -/
theorem sltMin_eq (a b : BitVec 64) : (if b.slt a then b else a) = if a.slt b then a else b := by
  rw [slt_ite, slt_ite]
  rcases lt_trichotomy a.toInt b.toInt with h | h | h
  · rw [if_neg h.not_gt, if_pos h]
  · rw [if_neg h.ge.not_gt, if_neg h.le.not_gt, BitVec.eq_of_toInt_eq h]
  · rw [if_pos h, if_neg h.not_gt]

/-- The larger of two, whichever is named where they are equal. -/
theorem sltMax_eq (a b : BitVec 64) : (if a.slt b then b else a) = if b.slt a then a else b := by
  rw [slt_ite, slt_ite]
  rcases lt_trichotomy a.toInt b.toInt with h | h | h
  · rw [if_pos h, if_neg h.not_gt]
  · rw [if_neg h.ge.not_gt, if_neg h.le.not_gt, BitVec.eq_of_toInt_eq h]
  · rw [if_neg h.not_gt, if_pos h]

theorem ccrAlu_eq {fn : Nat} (h : fn < 20) (a b c : BitVec 64) : ccrAlu fn a b c = (aluResults a b c).getD fn 0 := by
  match fn, h with
  | 9, _ => exact mulHigh_eq a b
  | 12, _ => exact sltMin_eq a b
  | 13, _ => exact sltMax_eq a b
  | 14, _ => exact if_congr (by simp) rfl rfl
  | 0, _ | 1, _ | 2, _ | 3, _ | 4, _ | 5, _ | 6, _ | 7, _ | 8, _ | 10, _ | 11, _ | 15, _ | 16, _ | 17, _ | 18, _ | 19, _ => rfl
  | _ + 20, h => omega

/-- INSH replaces one of the four halves of 16 bits and keeps the other three. -/
theorem insertHalf_extract (v : BitVec 64) (h : BitVec 16) (k j : Fin 4) :
    (insertHalf v k.val h).extractLsb' (16 * j.val) 16 = if j = k then h else v.extractLsb' (16 * j.val) 16 := by
  have hmask : (0xFFFF : BitVec 64) = (BitVec.allOnes 16).setWidth 64 := by decide
  ext i hi
  have hj := j.isLt
  rw [BitVec.getElem_extractLsb', insertHalf, hmask, BitVec.getLsbD_or, BitVec.getLsbD_and, BitVec.getLsbD_not, BitVec.getLsbD_shiftLeft,
    BitVec.getLsbD_shiftLeft, BitVec.getLsbD_setWidth, BitVec.getLsbD_setWidth, BitVec.getLsbD_allOnes]
  have hin : 16 * j.val + i < 64 := by omega
  split
  next hjk =>
    subst hjk
    have hat : 16 * j.val + i - 16 * j.val = i := by omega
    have hge : ¬ 16 * j.val + i < 16 * j.val := by omega
    have hlt : i < 64 := by omega
    simp [hat, hin, hi, hge, hlt]
  next hjk =>
    have hne : j.val ≠ k.val := fun e => hjk (Fin.ext e)
    rw [BitVec.getElem_extractLsb']
    rcases Nat.lt_or_gt_of_ne hne with hlow | hhigh
    · have hlt : 16 * j.val + i < 16 * k.val := by omega
      simp [hin, hlt]
    · have hge : ¬ 16 * j.val + i < 16 * k.val := by omega
      have hout : ¬ 16 * j.val + i - 16 * k.val < 16 := by omega
      simp [hin, hge, hout, BitVec.getLsbD_of_ge h _ (Nat.le_of_not_lt hout)]

/-! ### Legal encodings (R256) -/

section
variable {d : Dev} {c t : Nat} {x : Ctx} {th : Thread} {base : Nat} {w : BitVec 32}

theorem fn_lt_of_alu (h : d.atIns c t 0x01 x th base w) : insFn w < 20 := by
  obtain ⟨-, hlegal, hop⟩ := h
  simp only [insLegal, hop, if_true, Bool.and_eq_true, decide_eq_true_eq] at hlegal
  exact hlegal.1.1

theorem kind_ne_of_shifti (h : d.atIns c t 0x07 x th base w) : bitsOf (insImm w).toNat 7 6 ≠ 3 := by
  obtain ⟨-, hlegal, hop⟩ := h
  have hfields : (insImm w).toNat < 0x100 ∧ bitsOf (insImm w).toNat 7 6 ≠ 3 := by simpa [insLegal, hop] using hlegal
  exact hfields.2

theorem half_of_insh (h : d.atIns c t 0x08 x th base w) : insBits w 17 16 = insRs1 w := by
  obtain ⟨-, hlegal, hop⟩ := h
  have hzero : insBits w 20 18 = 0 := by simpa [insLegal, hop] using hlegal
  simp only [insBits, insRs1, bitsOf] at hzero ⊢
  omega

theorem imm_lt_of_getc (h : d.atIns c t 0x35 x th base w) : (insImm w).toNat < 8 := by
  obtain ⟨-, hlegal, hop⟩ := h
  have hfields : insRs1 w = 0 ∧ (insImm w).toNat < 8 := by simpa [insLegal, hop] using hlegal
  exact hfields.2

end

/-- SHIFTI's shift, which imm16[7:6] names (R256). -/
theorem ccrShift_eq {w : BitVec 32} (h : bitsOf (insImm w).toNat 7 6 ≠ 3) (a : BitVec 64) (n : Nat) :
    ccrShift (bitsOf (insImm w).toNat 7 6) a n =
      ([a <<< n, a >>> n, a.sshiftRight n] : List (BitVec 64)).getD ((insImm w).extractLsb' 6 2).toNat 0 := by
  have hkind : bitsOf (insImm w).toNat 7 6 = ((insImm w).extractLsb' 6 2).toNat := (BitVec.extractLsb'_toNat ..).symm
  have hlt : ((insImm w).extractLsb' 6 2).toNat < 4 := BitVec.isLt _
  rw [hkind] at h ⊢
  match ((insImm w).extractLsb' 6 2).toNat, h, hlt with
  | 0, _, _ | 1, _, _ | 2, _, _ => rfl
  | 3, h, _ => exact absurd rfl h
  | _ + 4, _, h => omega

/-- A context value (R258). -/
theorem context_eq (k : CcrCx) {i : Nat} (h : i < 8) : k.context i = ([BitVec.ofNat 64 k.t, BitVec.ofNat 64 k.x.core,
    BitVec.ofNat 64 k.x.chunk.step, BitVec.ofNat 64 k.x.rc.idx, k.x.p.img.seed, k.d.keyCoord.setWidth 64, BitVec.ofNat 64 (scratchBase k.x.site),
    BitVec.ofNat 64 k.base] : List (BitVec 64)).getD i 0 := by
  match i, h with
  | 0, _ | 1, _ | 2, _ | 3, _ | 4, _ | 5, _ | 6, _ | 7, _ => rfl
  | _ + 8, h => omega

/-- Settles O23: the value of each instruction is that of its entry in the table of ALU's functions, of SHIFTI's kinds or of the context
values, and `completes_retires_alone` has the frame. -/
theorem registerInstructionsWriteRd : Obligations.RegisterInstructionsWriteRd := by
  unfold Obligations.RegisterInstructionsWriteRd
  refine ⟨?alu, ?addi, ?andi, ?ori, ?xori, ?slti, ?shifti, ?insh, insertHalf_extract, ?getc⟩
  case alu =>
    exact fun s c t x th base w h => completes_retires_alone rfl h
      (congrArg (CcrCx.write _) (ccrAlu_eq (fn_lt_of_alu h) (th.reg (insRs1 w)) (th.reg (insRs2 w)) (th.reg (insRs3 w))))
  case addi => exact fun s c t x th base w h => completes_retires_alone rfl h rfl
  case andi => exact fun s c t x th base w h => completes_retires_alone rfl h rfl
  case ori => exact fun s c t x th base w h => completes_retires_alone rfl h rfl
  case xori => exact fun s c t x th base w h => completes_retires_alone rfl h rfl
  case slti =>
    intro s c t x th base w h
    have hcompare := slt_ite (th.reg (insRs1 w)) (insSimm w) (1 : BitVec 64) 0
    rw [insSimm, BitVec.toInt_signExtend_of_le (by decide)] at hcompare
    exact completes_retires_alone rfl h (congrArg (CcrCx.write _) hcompare)
  case shifti =>
    exact fun s c t x th base w h => completes_retires_alone rfl h
      (congrArg (CcrCx.write _) (ccrShift_eq (kind_ne_of_shifti h) _ _))
  case insh =>
    intro s c t x th base w h
    exact completes_retires_alone rfl h (congrArg (fun n => CcrCx.write _ (insertHalf _ n _)) (half_of_insh h))
  case getc => exact fun s c t x th base w h => completes_retires_alone rfl h (congrArg (CcrCx.write _) (context_eq _ (imm_lt_of_getc h)))

/-! ### Branches and jumps (R256) -/

theorem not_slt_iff (a b : BitVec 64) : (!a.slt b) = true ↔ b.toInt ≤ a.toInt := by
  rw [Bool.not_eq_true', ← Bool.not_eq_true, BitVec.slt_iff_toInt_lt, Int.not_lt]

theorem not_ult_iff (a b : BitVec 64) : (!a.ult b) = true ↔ b.toNat ≤ a.toNat := by
  rw [Bool.not_eq_true', ← Bool.not_eq_true, BitVec.ult_iff_toNat_lt, Nat.not_lt]

/-- A command of a branch completes with the branch retired. -/
theorem completes_branch {ins : Instr} {s : State} {c : Fin 72} {t : Fin 8} {op : Nat} {taken : CcrCx → Bool} {x : Ctx} {th : Thread}
    {base : Nat} {w : BitVec 32} {P : Prop} [Decidable P]
    (hexec : exec ins s = run (ccrStep op (fun k => k.branch (taken k)) c t .none) s) (h : s.dev.atIns c.val t.val op x th base w)
    (htaken : taken (s.dev.insCx t.val x th base w) = true ↔ P) :
    Completes ins s fun d => s.dev.retires d x t.val th base w 0 0 (if P then th.pc + 4 * insSimm w else th.pc + 4) [] :=
  completes_retires_alone hexec h (congrArg (CcrRes.retire s.dev 0 0 · []) (if_congr htaken rfl rfl))

/-- Settles O24: each comparison of the model decides the relation of the statement. -/
theorem branchesMoveThePc : Obligations.BranchesMoveThePc := by
  unfold Obligations.BranchesMoveThePc
  refine ⟨?beq, ?bne, ?blt, ?bge, ?bltu, ?bgeu, ?jal, ?jr, ?nop⟩
  case beq => exact fun s c t x th base w h => completes_branch rfl h beq_iff_eq
  case bne => exact fun s c t x th base w h => completes_branch rfl h bne_iff_ne
  case blt => exact fun s c t x th base w h => completes_branch rfl h BitVec.slt_iff_toInt_lt
  case bge => exact fun s c t x th base w h => completes_branch rfl h (not_slt_iff _ _)
  case bltu => exact fun s c t x th base w h => completes_branch rfl h BitVec.ult_iff_toNat_lt
  case bgeu => exact fun s c t x th base w h => completes_branch rfl h (not_ult_iff _ _)
  case jal => exact fun s c t x th base w h => completes_retires_alone rfl h rfl
  case jr => exact fun s c t x th base w h => completes_retires_alone rfl h rfl
  case nop => exact fun s c t x th base w h => completes_retires_alone rfl h rfl

end Sys2Proof.Machine
end

section
/-! SUPPORT. Program faults of a control core (R275). -/

namespace Sys2Proof.Machine

@[simp] theorem writeRecord_sites (d : Dev) (r : Rec) : (d.writeRecord r).sites = d.sites := (writeRecord_only d r).same .sites rfl

@[simp] theorem programFault_mem (d : Dev) (c site bit code thread pc : Nat) (detail : List (Nat × List Byte)) :
    (d.programFault c site bit code thread pc detail).mem = d.mem :=
  (programFault_only d c site bit code thread pc detail).same .mem rfl

/-- A program fault sets its bit of CCR_ERR and leaves the threads of the core. -/
theorem programFault_ccr {d : Dev} {site bit : Nat} (hsite : site < d.sites.length) (hbit : bit < 9) (c code thread pc : Nat)
    (detail : List (Nat × List Byte)) : let cc := ((d.programFault c site bit code thread pc detail).site site).ccr
    cc.err.val.getLsbD bit = true ∧ cc.threads = (d.site site).ccr.threads := by
  rw [Dev.programFault, site_of_sites (writeRecord_sites ..), site_of_sites (modCq_sites ..), ccr_modCcr_same d _ hsite]
  exact ⟨getLsbD_raise _ _ hbit, rfl⟩

/-- A program fault stops its thread, which keeps its registers. -/
theorem threadFault_stops {d : Dev} {site t bit : Nat} (hsite : site < d.sites.length) (ht : t < (d.site site).ccr.threads.length)
    (hbit : bit < 9) (c code pc : Nat) : let e := d.threadFault c site t bit code pc
    e.threadAt site t = { d.threadAt site t with state := .stopped } ∧ (e.site site).ccr.err.val.getLsbD bit = true ∧ e.mem = d.mem := by
  have hlt : site < (d.stopThread site t).sites.length := by rw [Dev.stopThread, modThread_length]; exact hsite
  obtain ⟨herr, hthreads⟩ := programFault_ccr hlt hbit c code t pc []
  refine ⟨?_, herr, programFault_mem ..⟩
  rw [Dev.threadFault, Dev.threadAt, hthreads]
  exact threadAt_modThread hsite ht _

/-- A command of an instruction whose outcome is a program fault. -/
theorem completes_fault {ins : Instr} {s : State} {c : Fin 72} {t : Fin 8} {op : Nat} {sem : CcrCx → CcrRes} {x : Ctx} {th : Thread}
    {base : Nat} {w : BitVec 32} {bit code : Nat} (hexec : exec ins s = run (ccrStep op sem c t .none) s)
    (h : s.dev.atIns c.val t.val op x th base w) (hsem : sem (s.dev.insCx t.val x th base w) = .fault bit code) (hbit : bit < 9) :
    Completes ins s fun d => (d.threadAt x.site t.val).state = .stopped ∧ (d.threadAt x.site t.val).regs = th.regs ∧
      (d.site x.site).ccr.err.val.getLsbD bit = true ∧ d.mem = s.dev.mem := by
  refine completes_of_run hexec ?_
  obtain ⟨hsite, ht⟩ := atIns_lt h
  obtain ⟨hthread, herr, hmem⟩ := threadFault_stops hsite ht hbit x.c code th.pc.toNat
  rw [ccrStep_of_atIns h, hsem, CcrCx.settle, hthread, atIns_threadAt h]
  exact ⟨rfl, rfl, herr, hmem⟩

end Sys2Proof.Machine
end

section
/-! SUPPORT. Loads of a control core (R260, R262). -/

namespace Sys2Proof.Machine

/-- What a load of `n` bytes writes. -/
def loadValue (n : Nat) (signed : Bool) (bs : List Byte) : BitVec 64 :=
  if signed then (BitVec.ofNat (8 * n) (leNat bs)).signExtend 64 else BitVec.ofNat 64 (leNat bs)

theorem leNat_lt (bs : List Byte) : leNat bs < 2 ^ (8 * bs.length) := by
  induction bs with
  | nil => decide
  | cons b bs ih =>
    have hb : b.toNat < 256 := b.isLt
    have hpow : 2 ^ (8 * (bs.length + 1)) = 256 * 2 ^ (8 * bs.length) := by rw [Nat.mul_add, Nat.pow_add, Nat.mul_comm]
    rw [List.length_cons, hpow, leNat]
    omega

/-- The value of `n` bytes that an unsigned load writes is that of their `n` bytes zero-extended. -/
theorem loadValue_unsigned {n : Nat} {bs : List Byte} (hbs : bs.length = n) :
    loadValue n false bs = (BitVec.ofNat (8 * n) (leNat bs)).setWidth 64 := by
  have hlt : leNat bs < 2 ^ (8 * n) := hbs ▸ leNat_lt bs
  apply BitVec.eq_of_toNat_eq
  rw [BitVec.toNat_setWidth, BitVec.toNat_ofNat, Nat.mod_eq_of_lt hlt]
  rfl

theorem loadOk_iff (k : CcrCx) (n al : Nat) : k.loadOk n al = true ↔
    k.mem.toNat < 2 ^ 48 ∧ k.mem.toNat % al = 0 ∧ k.d.canRead k.x.p k.x.site k.mem.toNat n = true := by
  simp [CcrCx.loadOk, and_assoc]

section
variable {k : CcrCx} {n : Nat} (signed : Bool)

/-- A load from an address that it may not use. -/
theorem load_denied (h : k.loadOk n n = false) : k.load n signed = ccrAddr := by
  simp [CcrCx.load, h]

variable (h : k.loadOk n n = true)
include h

/-- A load that its thread's youngest overlapping store holds whole takes its bytes from it (R262). -/
theorem load_forwarded {e : StoreEnt} (hstore : youngestStore k.ccr.stores k.t k.mem.toNat n = some e)
    (hin : inside k.mem.toNat n e.addr e.data.length = true) :
    k.load n signed = .retire k.d (insRd k.w) (loadValue n signed ((e.data.drop (k.mem.toNat - e.addr)).take n)) k.pc4
      [normAddr k.x.site k.mem] := by
  simp [CcrCx.load, h, hstore, hin, loadValue]

/-- A load without an own store reads what its chunk sees of memory (R262). -/
theorem load_read (hstore : youngestStore k.ccr.stores k.t k.mem.toNat n = none) (hwipe : k.d.wipeHolds k.mem.toNat n = false)
    (hpoison : readPoison k.d.mem (k.d.cq k.x.c).pend k.mem.toNat n = none) :
    k.load n signed = .retire (k.d.readLines k.x.c k.mem.toNat n) (insRd k.w) (loadValue n signed (k.d.view k.x.c k.mem.toNat n)) k.pc4
      [normAddr k.x.site k.mem] := by
  simp [CcrCx.load, h, hstore, hwipe, hpoison, loadValue]

end

theorem threadAt_readLines (d : Dev) (c a n site t : Nat) : (d.readLines c a n).threadAt site t = d.threadAt site t :=
  threadAt_of_sites ((readLines_only d c a n).same .sites rfl) site t

/-- A command of a load that memory serves. -/
theorem completes_load {ins : Instr} {s : State} {c : Fin 72} {t : Fin 8} {op n : Nat} {signed : Bool} {x : Ctx} {th : Thread} {base : Nat}
    {w : BitVec 32} {v : BitVec 64} (hexec : exec ins s = run (ccrStep op (fun k => k.load n signed) c t .none) s)
    (h : s.dev.atIns c.val t.val op x th base w) (hloads : s.dev.loads x t.val (th.ea x w).toNat n)
    (hv : loadValue n signed (s.dev.view x.c (th.ea x w).toNat n) = v) :
    Completes ins s fun d => (s.dev.readLines x.c (th.ea x w).toNat n).retires d x t.val th base w (insRd w) v (th.pc + 4)
      [normAddr x.site (th.ea x w)] := by
  obtain ⟨hlt, hal, hread, hstore, hwipe, hpoison⟩ := hloads
  subst hv
  exact completes_retires hexec h (load_read signed ((loadOk_iff _ n n).2 ⟨hlt, hal, hread⟩) hstore hwipe hpoison)
    ((threadAt_readLines ..).trans (atIns_threadAt h))

/-- Settles O25: a load of every width is `completes_load` with its value, the forwarded one `load_forwarded`, and a misaligned address is
none that a load may use. -/
theorem loadsReadOwnStoresOrMemory : Obligations.LoadsReadOwnStoresOrMemory := by
  unfold Obligations.LoadsReadOwnStoresOrMemory
  refine ⟨?ld, ?lw, ?lwu, ?lh, ?lhu, ?lb, ?lbu, ?forwarded, ?misaligned⟩
  case ld => exact fun s c t x th base w h hl => completes_load rfl h hl (loadValue_unsigned (view_length ..))
  case lw => exact fun s c t x th base w h hl => completes_load rfl h hl rfl
  case lwu => exact fun s c t x th base w h hl => completes_load rfl h hl (loadValue_unsigned (view_length ..))
  case lh => exact fun s c t x th base w h hl => completes_load rfl h hl rfl
  case lhu => exact fun s c t x th base w h hl => completes_load rfl h hl (loadValue_unsigned (view_length ..))
  case lb => exact fun s c t x th base w h hl => completes_load rfl h hl rfl
  case lbu => exact fun s c t x th base w h hl => completes_load rfl h hl (loadValue_unsigned (view_length ..))
  case forwarded =>
    intro s c t x th base w e h hlt hal hread hstore haddr hlen
    have hin : inside (th.ea x w).toNat 8 e.addr e.data.length = true := by simp [inside, haddr, hlen]
    have hbytes : (e.data.drop ((th.ea x w).toNat - e.addr)).take 8 = e.data := by
      rw [haddr, Nat.sub_self, List.drop_zero, List.take_of_length_le (Nat.le_of_eq hlen)]
    have hload := load_forwarded (k := s.dev.insCx t.val x th base w) false ((loadOk_iff _ 8 8).2 ⟨hlt, hal, hread⟩) hstore hin
    exact completes_retires_alone rfl h (hload.trans (congrArg (fun bs => CcrRes.retire _ _ (loadValue 8 false bs) _ _) hbytes))
  case misaligned =>
    intro s c t x th base w h hal
    have hdenied : (s.dev.insCx t.val x th base w).loadOk 8 8 = false :=
      Bool.eq_false_iff.2 fun hok => hal ((loadOk_iff _ 8 8).1 hok).2.1
    exact completes_fault rfl h (load_denied false hdenied) (by decide)

end Sys2Proof.Machine
end

section
/-! SUPPORT. Stores of a control core and its store buffer (R260, R261). -/

namespace Sys2Proof.Machine

/-- The store buffer's entry of a store of `n` bytes. -/
def CcrCx.entry (k : CcrCx) (n : Nat) : StoreEnt :=
  { addr := k.mem.toNat, data := bytesLE n k.rd.toNat, thread := k.t, pc := k.th.pc.toNat }

/-- What a load may read outside its own scratch no store may write (R260). -/
theorem protected_of_outside {k : CcrCx} {a n : Nat} (hread : k.d.canRead k.x.p k.x.site a n = true)
    (hout : inside a n (scratchBase k.x.site) 0x1000000 = false) : k.protected a n = true := by
  simp [CcrCx.protected, hread, hout]

section
variable {k : CcrCx} {n : Nat} (hlt : k.mem.toNat < 2 ^ 48) (hal : k.mem.toNat % n = 0)
include hlt hal

/-- A store to an address that its thread may only read (R260). -/
theorem store_protected (hwrite : k.d.canWrite k.x.p k.x.core k.x.site k.mem.toNat n = false)
    (hprotected : k.protected k.mem.toNat n = true) : k.store n = ccrProtWrite := by
  simp [-Nat.reducePow, CcrCx.store, hlt.not_ge, hal, hwrite, hprotected]

variable (hwrite : k.d.canWrite k.x.p k.x.core k.x.site k.mem.toNat n = true)
  (hpend : pendOk (cellSetAll (drained (k.d.cq k.x.c).pend k.ccr.stores) k.mem.toNat (bytesLE n k.rd.toNat)) = true)
include hwrite hpend

/-- A store waits while the buffer is full (R261). -/
theorem store_full (hfull : 8 ≤ k.ccr.stores.length) : k.store n = .block := by
  simp [-Nat.reducePow, CcrCx.store, hlt.not_ge, hal, hwrite, hpend, hfull]

/-- A store enters the buffer behind those that wait in it (R261). -/
theorem store_buffered (hroom : k.ccr.stores.length < 8) : k.store n =
    k.plain (k.d.modCcr k.x.site (fun cc => { cc with stores := cc.stores ++ [k.entry n] })) [normAddr k.x.site k.mem] := by
  simp [-Nat.reducePow, CcrCx.store, hlt.not_ge, hal, hwrite, hpend, hroom.not_ge, CcrCx.entry]

end

/-- A command of a store that the buffer takes. -/
theorem completes_store {ins : Instr} {s : State} {c : Fin 72} {t : Fin 8} {op n : Nat} {x : Ctx} {th : Thread} {base : Nat} {w : BitVec 32}
    (hexec : exec ins s = run (ccrStep op (fun k => k.store n) c t .none) s) (h : s.dev.atIns c.val t.val op x th base w)
    (hlt : (th.ea x w).toNat < 2 ^ 48) (hal : (th.ea x w).toNat % n = 0)
    (hwrite : s.dev.canWrite x.p x.core x.site (th.ea x w).toNat n = true)
    (hpend : pendOk (cellSetAll (drained (s.dev.cq x.c).pend (s.dev.site x.site).ccr.stores) (th.ea x w).toNat
      (bytesLE n (th.reg (insRd w)).toNat)) = true)
    (hroom : (s.dev.site x.site).ccr.stores.length < 8) :
    Completes ins s fun d => (s.dev.modCcr x.site (fun cc => { cc with stores :=
      cc.stores ++ [⟨(th.ea x w).toNat, bytesLE n (th.reg (insRd w)).toNat, t.val, th.pc.toNat⟩] })).retires d x t.val th base w 0 0 (th.pc + 4)
      [normAddr x.site (th.ea x w)] := by
  refine completes_retires hexec h (store_buffered (k := s.dev.insCx t.val x th base w) hlt hal hwrite hpend hroom) ?_
  rw [threadAt_modCcr, atIns_threadAt h]
  exact fun _ => rfl

/-! ### Draining -/

section
variable {d : Dev} {c : Fin 72} {x : Ctx} {e : StoreEnt} {rest : List StoreEnt} (hctx : d.ctx? c.val = some x)
  (hstores : (d.site x.site).ccr.stores = e :: rest)
include hctx hstores

/-- The oldest store waits while a wipe holds its bytes (R290). -/
theorem storeBufferDrain_held (hwipe : d.wipeHolds e.addr e.data.length = true) : storeBufferDrain c d = d := by
  simp [storeBufferDrain, hctx, hstores, hwipe]

/-- The oldest store becomes pending (R261, R285). -/
theorem storeBufferDrain_pends (hwipe : d.wipeHolds e.addr e.data.length = false) (hways : d.waysFree c.val e.addr e.data.length = true)
    (hpoison : writePoison d.mem (d.cq c.val).pend e.addr e.data.length = none)
    (hpend : pendOk (cellSetAll (d.cq c.val).pend e.addr e.data) = true) :
    storeBufferDrain c d = ((d.modCcr x.site (fun cc => { cc with stores := rest })).writeLines c.val e.addr e.data.length).modCq c.val
      (fun q => { q with pend := cellSetAll (d.cq c.val).pend e.addr e.data }) := by
  have hcq : (d.modCcr x.site (fun cc => { cc with stores := rest })).cq c.val = d.cq c.val := rfl
  simp [storeBufferDrain, hctx, hstores, hwipe, hways, hcq, hpoison, hpend]

end

/-- Settles O26: the four widths are `completes_store`; a full buffer and a protected address are outcomes of the same store, and
the drain makes the oldest entry pending. -/
theorem storesGoThroughTheBuffer : Obligations.StoresGoThroughTheBuffer := by
  unfold Obligations.StoresGoThroughTheBuffer
  refine ⟨?sd, ?sw, ?sh, ?sb, ?full, ?readOnly, ?pends, ?held⟩
  case sd => exact fun s c t x th base w h => completes_store rfl h
  case sw => exact fun s c t x th base w h => completes_store rfl h
  case sh => exact fun s c t x th base w h => completes_store rfl h
  case sb => exact fun s c t x th base w h => completes_store rfl h
  case full =>
    intro s c t x th base w h hlt hal hwrite hpend hfull
    exact completes_block rfl h (store_full (k := s.dev.insCx t.val x th base w) hlt hal hwrite hpend hfull)
  case readOnly =>
    intro s c t x th base w h hlt hal hwrite hread hout
    have hfault := store_protected (k := s.dev.insCx t.val x th base w) hlt hal hwrite (protected_of_outside hread hout)
    obtain ⟨u, hu, hp, hstate, -, herr, hmem⟩ := completes_fault (ins := .sd c t .none) (bit := 2) rfl h hfault (by decide)
    exact ⟨u, hu, hp, hstate, herr, hmem⟩
  case pends =>
    exact fun s c x e rest hctx hstores hwipe hways hpoison hpend =>
      completes_of_run rfl (storeBufferDrain_pends hctx hstores hwipe hways hpoison hpend)
  case held => exact fun s c x e rest hctx hstores hwipe => completes_of_run rfl (storeBufferDrain_held hctx hstores hwipe)

end Sys2Proof.Machine
end

section
/-! SUPPORT. Flags, address streams, draining and the deadlock of a control core (R256, R261, R263, R264, R266, R268). -/

namespace Sys2Proof.Machine

/-- What completes with more completes with less. -/
theorem Completes.mono {c : Instr} {s : State} {P Q : Dev → Prop} (h : Completes c s P) (hpq : ∀ d, P d → Q d) : Completes c s Q := by
  obtain ⟨t, ht, hpending, hp⟩ := h
  exact ⟨t, ht, hpending, hpq _ hp⟩

/-- What a site and memory hold after an instruction that retires, but for the thread. -/
theorem retires_rest {α : Type} {e d : Dev} {x : Ctx} {t : Nat} {th : Thread} {base : Nat} {w : BitVec 32} {rd : Nat} {v npc : BitVec 64}
    {folded : List (BitVec 64)} (h : e.retires d x t th base w rd v npc folded) (view : Ccr → α)
    (hview : ∀ cc r ths, view { cc with retired := r, threads := ths } = view cc) (n : Nat) :
    view (d.site n).ccr = view (e.site n).ccr ∧ d.mem = e.mem := by
  obtain ⟨-, -, -, -, -, -, -, hd⟩ := h
  rw [hd]
  exact ⟨ccr_modCcr_view view (fun cc => hview cc _ _) e x.site n, rfl⟩

/-! ### Flags (R264) -/

theorem flagBit_eq_twoPow (f : Nat) : BitVec.ofNat 64 (2 ^ f) = BitVec.twoPow 64 f := by
  apply BitVec.eq_of_toNat_eq
  rw [BitVec.toNat_ofNat, BitVec.toNat_twoPow]

theorem flagsNow_setFlag {d : Dev} {site : Nat} (h : site < d.sites.length) (f : Nat) :
    ((d.setFlag site f).site site).ccr.flagsNow = (d.site site).ccr.flagsNow ||| BitVec.twoPow 64 f := by
  rw [Dev.setFlag, ccr_modCcr_same d _ h, Ccr.flagsNow, Ccr.flagsNow, flagBit_eq_twoPow, BitVec.or_assoc]

theorem clearFlag_eq (d : Dev) (site f : Nat) :
    d.clearFlag site f = d.modCcr site (fun cc => { cc with flags := cc.flags &&& ~~~(BitVec.twoPow 64 f) }) := by
  rw [Dev.clearFlag, flagBit_eq_twoPow]

theorem threadAt_setFlag (d : Dev) (n f site t : Nat) : (d.setFlag n f).threadAt site t = d.threadAt site t := by
  rw [Dev.setFlag, threadAt_modCcr]
  exact fun _ => rfl

theorem threadAt_clearFlag (d : Dev) (n f site t : Nat) : (d.clearFlag n f).threadAt site t = d.threadAt site t := by
  rw [Dev.clearFlag, threadAt_modCcr]
  exact fun _ => rfl

/-- An instruction that clears a flag and retires. -/
theorem completes_clearFlag {ins : Instr} {s : State} {c : Fin 72} {t : Fin 8} {op : Nat} {sem : CcrCx → CcrRes} {x : Ctx} {th : Thread}
    {base : Nat} {w : BitVec 32} (hexec : exec ins s = run (ccrStep op sem c t .none) s) (h : s.dev.atIns c.val t.val op x th base w)
    (hsem : sem (s.dev.insCx t.val x th base w) =
      (s.dev.insCx t.val x th base w).plain (s.dev.clearFlag x.site ((insImm w).toNat % 64)) []) :
    Completes ins s fun d => (s.dev.modCcr x.site (fun cc => { cc with
      flags := cc.flags &&& ~~~(BitVec.twoPow 64 ((insImm w).toNat % 64)) })).retires d x t.val th base w 0 0 (th.pc + 4) [] := by
  rw [← clearFlag_eq]
  exact completes_retires hexec h hsem ((threadAt_clearFlag ..).trans (atIns_threadAt h))

theorem setFlag_drained {k : CcrCx} (hdrained : k.undrained = false) (folded : List (BitVec 64)) :
    k.setFlag folded = k.plain ((k.d.setFlag k.x.site k.flag).restartDeadlock k.x.c) folded := by
  simp [CcrCx.setFlag, hdrained]

/-! ### PUSHA (R266) -/

/-- A good descriptor is queued on the thread's own stream (R266). -/
theorem pusha_queues {k : CcrCx} {q : Desc} (hok : k.loadOk 128 8 = true) (hstore : youngestStore k.ccr.stores k.t k.mem.toNat 128 = none)
    (hheld : (k.ccr.streams.getD k.t {}).held < 4) (hwipe : k.d.wipeHolds k.mem.toNat 128 = false)
    (hpoison : readPoison k.d.mem (k.d.cq k.x.c).pend k.mem.toNat 128 = none)
    (hdesc : parseDesc (k.d.view k.x.c k.mem.toNat 128) = some q) :
    k.pusha = k.plain ((k.d.readLines k.x.c k.mem.toNat 128).modCcr k.x.site (fun cc => { cc with
      streams := cc.streams.set k.t { k.ccr.streams.getD k.t {} with queue := dropEmpty (k.ccr.streams.getD k.t {}).queue ++ [q] } }))
      (k.descWords (k.d.view k.x.c k.mem.toNat 128)) := by
  simp only [CcrCx.pusha, hok, hstore, hheld.not_ge, hwipe, hpoison, hdesc, Bool.not_true, Option.isSome_none, decide_false, Bool.or_false,
    if_false, Bool.false_eq_true]

/-! ### Deadlock (R268) -/

/-- A core whose threads are deadlocked stands in the table. -/
theorem lt_of_deadlocked {d : Dev} {c : Nat} {x : Ctx} (hctx : d.ctx? c = some x) (h : d.deadlocked c = true) : x.site < d.sites.length := by
  refine lt_of_site_ne (fun s => s.ccr.threads.zipIdx.filter (fun y => y.1.started && y.1.state != ThreadState.idle)) fun hnone => ?_
  have hreset : ({} : Site).ccr.threads.zipIdx.filter (fun y => y.1.started && y.1.state != ThreadState.idle) = [] := by decide
  simp [Dev.deadlocked, hctx, hnone.trans hreset] at h

theorem ccrDeadlock_faults {d : Dev} {c : Fin 72} {x : Ctx} (hctx : d.ctx? c.val = some x) (hdead : d.deadlocked c.val = true)
    (hbeats : 64 ≤ x.rc.deadlock) : ∃ pc detail, ccrDeadlock c d = d.programFault c.val x.site 4 0x1104 0 pc detail := by
  simp only [ccrDeadlock, hctx, hdead, hbeats, decide_true, Bool.and_self, if_true]
  exact ⟨_, _, rfl⟩

/-! ### The obligation -/

/-- SETF of a thread whose stores have drained (R264). -/
theorem completes_setf {s : State} {c : Fin 72} {t : Fin 8} {x : Ctx} {th : Thread} {base : Nat} {w : BitVec 32}
    (h : s.dev.atIns c.val t.val 0x31 x th base w) (hdrained : s.dev.buffered x.site t.val = false) :
    Completes (.setf c t .none) s fun d => ((s.dev.setFlag x.site ((insImm w).toNat % 64)).restartDeadlock x.c).retires d x t.val th base w 0 0
      (th.pc + 4) [] :=
  completes_retires rfl h (setFlag_drained (k := s.dev.insCx t.val x th base w) hdrained [])
    ((threadAt_setFlag ..).trans (atIns_threadAt h))

/-- WAITF on a flag that is set takes it where nothing that comes before waits for it (R264). -/
theorem completes_waitf {s : State} {c : Fin 72} {t : Fin 8} {x : Ctx} {th : Thread} {base : Nat} {w : BitVec 32}
    (h : s.dev.atIns c.val t.val 0x33 x th base w) (hup : s.dev.flagUp x.site ((insImm w).toNat % 64) = true)
    (hqueue : s.dev.evwaitOn x.c ((insImm w).toNat % 64) = false)
    (hlower : ∀ u, u < t.val → s.dev.waitsOn x.c u ((insImm w).toNat % 64) = false) :
    Completes (.waitf c t .none) s fun d => (s.dev.modCcr x.site (fun cc => { cc with
      flags := cc.flags &&& ~~~(BitVec.twoPow 64 ((insImm w).toNat % 64)) })).retires d x t.val th base w 0 0 (th.pc + 4) [] := by
  have hnone : (List.range t.val).any (fun u => s.dev.waitsOn x.c u ((insImm w).toNat % 64)) = false :=
    List.any_eq_false.2 fun u hu => Bool.not_eq_true _ ▸ hlower u (List.mem_range.1 hu)
  refine completes_clearFlag rfl h (if_neg ?_)
  simp [CcrCx.flag, hup, hqueue, hnone]

/-- SENDF to another core of the plan holds its event to the commit (R264). -/
theorem completes_sendf {s : State} {c : Fin 72} {t : Fin 8} {x : Ctx} {th : Thread} {base : Nat} {w : BitVec 32}
    (h : s.dev.atIns c.val t.val 0x34 x th base w) (hdrained : s.dev.buffered x.site t.val = false)
    (hother : th.reg (insRs1 w) ≠ BitVec.ofNat 64 x.core) (hcore : (th.reg (insRs1 w)).toNat < x.p.img.nCores) :
    Completes (.sendf c t .none) s fun d => (s.dev.modCq x.c (fun q => { q with heldFlags := q.heldFlags ++
      [⟨x.p.devCore (th.reg (insRs1 w)).toNat, (insImm w).toNat % 64, q.nextTag, (th.reg (insRs1 w)).toNat, siteUnit x.site, false⟩] })).retires
      d x t.val th base w 0 0 (th.pc + 4) [th.reg (insRs1 w)] := by
  have hne : (th.reg (insRs1 w)).toNat ≠ x.core := fun heq => hother (by rw [← heq, BitVec.ofNat_toNat, BitVec.setWidth_eq])
  have hundrained : (s.dev.insCx t.val x th base w).undrained = false := hdrained
  have hth : s.dev.threadAt x.site t.val = th := atIns_threadAt h
  rw [modCq_congr (g := fun q => { q with heldFlags := q.heldFlags ++ [{
    core := x.p.devCore (th.reg (insRs1 w)).toNat, flag := (insImm w).toNat % 64, tag := (s.dev.cq x.c).nextTag
    target := (th.reg (insRs1 w)).toNat, unit := siteUnit x.site }] }) rfl]
  refine completes_retires rfl h ?_ hth
  simp only [CcrCx.rs1, hcore.not_ge, hne, hundrained, if_false, Bool.false_eq_true]
  rfl

/-- PUSHA of a good descriptor (R266). -/
theorem completes_pusha {s : State} {c : Fin 72} {t : Fin 8} {x : Ctx} {th : Thread} {base : Nat} {w : BitVec 32} {q : Desc}
    (h : s.dev.atIns c.val t.val 0x30 x th base w)
    (hok : (th.ea x w).toNat < 2 ^ 48 ∧ (th.ea x w).toNat % 8 = 0 ∧ s.dev.canRead x.p x.site (th.ea x w).toNat 128 = true)
    (hstore : youngestStore (s.dev.site x.site).ccr.stores t.val (th.ea x w).toNat 128 = none)
    (hheld : ((s.dev.site x.site).ccr.streams.getD t.val {}).held < 4) (hwipe : s.dev.wipeHolds (th.ea x w).toNat 128 = false)
    (hpoison : readPoison s.dev.mem (s.dev.cq x.c).pend (th.ea x w).toNat 128 = none)
    (hdesc : parseDesc (s.dev.view x.c (th.ea x w).toNat 128) = some q) :
    Completes (.pusha c t .none) s fun d => (d.threadAt x.site t.val).pc = th.pc + 4 ∧ (d.threadAt x.site t.val).regs = th.regs ∧
      d.mem = s.dev.mem ∧ (d.site x.site).ccr.streams = (s.dev.site x.site).ccr.streams.set t.val
        { (s.dev.site x.site).ccr.streams.getD t.val {} with
          queue := dropEmpty ((s.dev.site x.site).ccr.streams.getD t.val {}).queue ++ [q] } := by
  have hqueues := pusha_queues (k := s.dev.insCx t.val x th base w) ((loadOk_iff _ 128 8).2 hok) hstore hheld hwipe hpoison hdesc
  have hlines := (readLines_only s.dev x.c (th.ea x w).toNat 128).same
  have hsite : x.site < (s.dev.readLines x.c (th.ea x w).toNat 128).sites.length := by rw [hlines .sites rfl]; exact (atIns_lt h).1
  refine (completes_retires rfl h hqueues ?thread).mono fun d hd => ?_
  case thread =>
    rw [threadAt_modCcr, threadAt_readLines, atIns_threadAt h]
    exact fun _ => rfl
  obtain ⟨hstreams, hmem⟩ := retires_rest hd Ccr.streams (fun _ _ _ => rfl) x.site
  have hset := hstreams.trans (congrArg Ccr.streams (ccr_modCcr_same _ _ hsite))
  obtain ⟨hregs, hpc, -⟩ := hd
  exact ⟨hpc, hregs, hmem.trans (hlines .mem rfl),
    hset.trans (congrArg (fun y : Site => y.ccr.streams.set t.val _) (site_of_sites (hlines .sites rfl) x.site))⟩

/-- PSYNC of a thread whose stores have drained takes the window as its chunk sees it (R263). -/
theorem completes_psync {s : State} {c : Fin 72} {t : Fin 8} {x : Ctx} {th : Thread} {base : Nat} {w : BitVec 32}
    (h : s.dev.atIns c.val t.val 0x39 x th base w) (hdrained : s.dev.buffered x.site t.val = false) :
    Completes (.psync c t .none) s fun d => (d.threadAt x.site t.val).view = s.dev.view x.c (base + 0xF000) 4096 ∧
      (d.threadAt x.site t.val).pc = th.pc + 4 ∧ (d.threadAt x.site t.val).regs = th.regs ∧ d.mem = s.dev.mem := by
  refine completes_of_run rfl ?_
  obtain ⟨hsite, ht⟩ := atIns_lt h
  have hundrained : (s.dev.insCx t.val x th base w).undrained = false := hdrained
  have hthread := threadAt_modThread hsite ht (fun u => { u with view := s.dev.view x.c (base + 0xF000) 4096 })
  rw [psync, ccrStep_of_atIns h, if_neg (by simp [hundrained]), CcrCx.plain, CcrCx.settle, retired_eq]
  rw [threadAt_putThread (by rw [modThread_length]; exact hsite) (by rw [modThread_threads hsite]; exact ht), hthread, atIns_threadAt h]
  exact ⟨rfl, rfl, rfl, rfl⟩

/-- HALT of a thread whose stores have drained ends it. -/
theorem completes_halt {s : State} {c : Fin 72} {t : Fin 8} {x : Ctx} {th : Thread} {base : Nat} {w : BitVec 32}
    (h : s.dev.atIns c.val t.val 0x3A x th base w) (hdrained : s.dev.buffered x.site t.val = false) :
    Completes (.halt c t .none) s fun d => (d.threadAt x.site t.val).state = .idle ∧ (d.threadAt x.site t.val).started = true ∧
      (d.threadAt x.site t.val).regs = th.regs ∧ d.mem = s.dev.mem := by
  refine completes_of_run rfl ?_
  obtain ⟨hsite, ht⟩ := atIns_lt h
  obtain ⟨hth, hstarted, -⟩ := atIns_thread h
  have hundrained : (s.dev.insCx t.val x th base w).undrained = false := hdrained
  rw [halt, ccrStep_of_atIns h, if_neg (by simp [hundrained]), CcrCx.settle, retired_eq, threadAt_putThread hsite ht, hth]
  exact ⟨rfl, hstarted, rfl, rfl⟩

/-- Settles O27: each instruction is its outcome of the model, with `completes_retires`, `completes_block` and `programFault_ccr` for what
the outcome makes of the machine. -/
theorem flagsStreamsAndSyncs : Obligations.FlagsStreamsAndSyncs := by
  unfold Obligations.FlagsStreamsAndSyncs
  refine ⟨?setf, ?clrf, ?waitfUp, ?waitfDown, ?sendf, ?pusha, ?sync, ?syncWaits, ?psync, ?halt, ?deadlock⟩
  case setf =>
    intro s c t x th base w h hdrained
    have hsite := (atIns_lt h).1
    have hnow := flagsNow_setFlag hsite ((insImm w).toNat % 64)
    refine (completes_setf h hdrained).mono fun d hd => ?_
    obtain ⟨hflags, hmem⟩ := retires_rest hd Ccr.flagsNow (fun _ _ _ => rfl) x.site
    have hset : d.flagSet x.site ((insImm w).toNat % 64) = true := by
      rw [Dev.flagSet, hflags]
      exact (flagSet_setFlag s.dev hsite _).trans (decide_eq_true (Nat.mod_lt _ (by decide)))
    obtain ⟨hregs, hpc, -⟩ := hd
    exact ⟨hset, hpc, hregs, hflags.trans hnow, hmem⟩
  case clrf => exact fun s c t x th base w h => completes_clearFlag rfl h rfl
  case waitfUp => exact fun s c t x th base w h hup hqueue hlower => completes_waitf h hup hqueue hlower
  case waitfDown =>
    intro s c t x th base w h hdown
    exact completes_block (ins := .waitf c t .none) rfl h (if_pos (by simp [CcrCx.flag, hdown]))
  case sendf => exact fun s c t x th base w h hdrained hother hcore _ => completes_sendf h hdrained hother hcore
  case pusha => exact fun s c t x th base w q h hlt hal hread => completes_pusha h ⟨hlt, hal, hread⟩
  case sync =>
    intro s c t x th base w h hdrained
    exact completes_retires_alone rfl h (if_neg (Bool.eq_false_iff.1 hdrained))
  case syncWaits => exact fun s c t x th base w h hbuffered => completes_block (ins := .sync c t .none) rfl h (if_pos hbuffered)
  case psync => exact fun s c t x th base w h hdrained => completes_psync h hdrained
  case halt => exact fun s c t x th base w h hdrained => completes_halt h hdrained
  case deadlock =>
    intro s c x hctx hdead hbeats
    obtain ⟨pc, detail, hfault⟩ := ccrDeadlock_faults hctx hdead hbeats
    obtain ⟨herr, hthreads⟩ := programFault_ccr (lt_of_deadlocked hctx hdead) (by decide : 4 < 9) c.val 0x1104 0 pc detail
    refine completes_of_run rfl ?_
    rw [hfault]
    exact ⟨herr, hthreads, programFault_mem ..⟩

end Sys2Proof.Machine
end

section
/-! SUPPORT. The commit of a chunk with a SOLVE whose deadline has passed (R255, R293, R304), and the machine on which the statement about
commits fails. -/

namespace Sys2Proof.Machine

/-- A SOLVE of the chunk's one command, held to the commit; its deadline is the beat on which its step starts (R293, R302). -/
def heldSolve : SolveJob :=
  { core := 0, handle := 1, idx := 0, tag := 7, step := 0, kind := 1, n := 2, batch := 1, src := 0x100000, dst := 0x110000
    deadlineOff := 0, rangeAddr := 0x100400 }

/-- Core 0 has done its chunk's one command, the SOLVE; nothing is pending, memory is empty, and the deadline passed five beats ago. -/
def lateSolve : State :=
  ⟨{ pwr := { phase := .ready }, plans := [oneCommandPlan], siteOf := [0], cqs := [{ run := some oneCommandRun, next := 1 }], sites := [{}]
     health := { siteStates := [.inService] }, bt := { beat := 5 }, solves := [heldSolve] }, []⟩

def lateSolveCtx : Ctx := ⟨0, oneCommandRun, oneCommandPlan, 0, 0⟩

/-- The commit submits the SOLVE, and its slot, which was never published, is marked MISSING (R304). -/
theorem lateSolve_marks : (chunkCommit 0 lateSolve.dev).byteAt 0x110000 = 3 := by decide

/-- Refutes O45: the clause on the bytes that a commit leaves as they were names the pending bytes alone. The commit also submits the
chunk's SOLVEs, and one whose deadline has passed marks its slot in committed memory at once (R293, R304); no hypothesis shuts such a SOLVE
out. In `lateSolve` nothing is pending, and the byte at its DST becomes the STATE 3, MISSING. -/
theorem not_chunksAreReleasedAndCommitted : ¬ Obligations.ChunksAreReleasedAndCommitted := by
  unfold Obligations.ChunksAreReleasedAndCommitted
  rintro ⟨-, -, -, hothers, -⟩
  have hkept := of_completes rfl (hothers lateSolve 0 lateSolveCtx 0x110000 (by decide) (by decide) rfl (by decide) rfl rfl rfl rfl rfl
    (by decide) rfl)
  exact absurd (lateSolve_marks.symm.trans hkept) (by decide)

end Sys2Proof.Machine
end

section
/-! SUPPORT. Operations that leave the addressed memory as it was, each by its frame. -/

namespace Sys2Proof.Machine

@[simp] theorem draw_mem (d : Dev) : d.draw.2.mem = d.mem := (draw_only ..).same .mem rfl
@[simp] theorem countPoison_mem (d : Dev) (a : Nat) : (d.countPoison a).mem = d.mem := (countPoison_only ..).same .mem rfl
@[simp] theorem commitLine_mem (d : Dev) (l : Nat) : (d.commitLine l).mem = d.mem := (commitLine_only ..).same .mem rfl
@[simp] theorem deliverLines_mem (d : Dev) (a n : Nat) : (d.deliverLines a n).mem = d.mem := (deliverLines_only ..).same .mem rfl
@[simp] theorem dropLines_mem (d : Dev) (a n : Nat) : (d.dropLines a n).mem = d.mem := (dropLines_only ..).same .mem rfl
@[simp] theorem stageAll_mem (d : Dev) (h : BitVec 16) (func : Nat) (l : List (Option (BitVec 16) × Bool × List Byte)) :
    (d.stageAll h func l).mem = d.mem := (stageAll_only ..).same .mem rfl
@[simp] theorem stageDomain_mem (d : Dev) (code dom cause : Nat) : (d.stageDomain code dom cause).mem = d.mem :=
  (stageDomain_only ..).same .mem rfl
@[simp] theorem latchPush_mem (d : Dev) (r : Rec) : (d.latchPush r).mem = d.mem := (latchPush_only ..).same .mem rfl
@[simp] theorem takeHeld_mem (d : Dev) : d.takeHeld.mem = d.mem := (takeHeld_only ..).same .mem rfl
@[simp] theorem countFault_mem (d : Dev) (core : Option Nat) : (d.countFault core).2.mem = d.mem := (countFault_only ..).same .mem rfl
@[simp] theorem siteFault_mem (d : Dev) (site : Nat) (cause : RecCause) (source err : Nat) (tag : BitVec 32) :
    (d.siteFault site cause source err tag).mem = d.mem := (siteFault_only ..).same .mem rfl
@[simp] theorem modCrater_mem (d : Dev) (u : BitVec 16) (f : Crater → Crater) : (d.modCrater u f).mem = d.mem :=
  (modCrater_only ..).same .mem rfl
@[simp] theorem leaveCrater_mem (d : Dev) (u : BitVec 16) : (d.leaveCrater u).mem = d.mem := (leaveCrater_only ..).same .mem rfl
@[simp] theorem powerUp_mem (d : Dev) (k cause : Nat) : (d.powerUp k cause).mem = d.mem := (powerUp_only ..).same .mem rfl
@[simp] theorem powerOff_mem (d : Dev) (k cause : Nat) : (d.powerOff k cause).mem = d.mem := (powerOff_only ..).same .mem rfl
@[simp] theorem powerDown_mem (d : Dev) (k cause : Nat) : (d.powerDown k cause).mem = d.mem := (powerDown_only ..).same .mem rfl
@[simp] theorem freeTo_mem (d : Dev) (c k : Nat) : (d.freeTo c k).mem = d.mem := (freeTo_only ..).same .mem rfl
@[simp] theorem dealAll_mem (d : Dev) : d.dealAll.mem = d.mem := (dealAll_only ..).same .mem rfl
@[simp] theorem dropSolve_mem (d : Dev) (j : SolveJob) : (d.dropSolve j).mem = d.mem := (dropSolve_only ..).same .mem rfl
@[simp] theorem orderFresh_mem (d : Dev) : d.orderFresh.mem = d.mem := (orderFresh_only ..).same .mem rfl
@[simp] theorem fenceSolver_mem (d : Dev) (e : Nat) (host : Option HostFence) (tag : BitVec 32) : (d.fenceSolver e host tag).mem = d.mem :=
  (fenceSolver_only ..).same .mem rfl
@[simp] theorem failPort_mem (d : Dev) (p : Nat) (target : PortState) (host : Option HostFence) : (d.failPort p target host).mem = d.mem :=
  (failPort_only ..).same .mem rfl
@[simp] theorem postSends_mem (d : Dev) (p : Plan) (c : Nat) : (d.postSends p c).mem = d.mem := (postSends_only ..).same .mem rfl
@[simp] theorem modEngine_mem (d : Dev) (e : Nat) (f : Engine → Engine) : (d.modEngine e f).mem = d.mem :=
  (modEngine_only ..).same .mem rfl
@[simp] theorem sendUp_mem (d : Dev) (j : CollJob) (level : Nat) : (d.sendUp j level).mem = d.mem := (sendUp_only ..).same .mem rfl
@[simp] theorem sendDown_mem (d : Dev) (j : CollJob) (flags : BitVec 4) (off : Nat) (bs : List Byte) :
    (d.sendDown j flags off bs).mem = d.mem := (sendDown_only ..).same .mem rfl
@[simp] theorem completeColl_mem (d : Dev) (i : Nat) (flags : BitVec 4) : (d.completeColl i flags).mem = d.mem :=
  (completeColl_only ..).same .mem rfl
@[simp] theorem sweepColl_mem (d : Dev) : d.sweepColl.mem = d.mem := (sweepColl_only ..).same .mem rfl
@[simp] theorem postColls_mem (d : Dev) (p : Plan) (c : Nat) : (d.postColls p c).mem = d.mem := (postColls_only ..).same .mem rfl
@[simp] theorem abortColl_mem (d : Dev) (i : Nat) (source : Option Nat) : (d.abortColl i source).mem = d.mem :=
  (abortColl_only ..).same .mem rfl
@[simp] theorem takeContribution_mem (d : Dev) : d.takeContribution.mem = d.mem := (takeContribution_only ..).same .mem rfl
@[simp] theorem fenceEngine_mem (d : Dev) (e : Nat) (host : Option HostFence) : (d.fenceEngine e host).mem = d.mem :=
  (fenceEngine_only ..).same .mem rfl
@[simp] theorem stepMismatch_mem (d : Dev) (e : Nat) (step : Nat × Nat × Nat) : (d.stepMismatch e step).mem = d.mem :=
  (stepMismatch_only ..).same .mem rfl
@[simp] theorem finishReq_mem (d : Dev) (r : Req) (result : Nat) (fields : List Byte) (ends : Bool) :
    (d.finishReq r result fields ends).mem = d.mem := (finishReq_only d r result fields ends).same .mem rfl
@[simp] theorem resetChan_mem (d : Dev) (c : Nat) : (d.resetChan c).mem = d.mem := (resetChan_only ..).same .mem rfl
@[simp] theorem healUnavailable_mem (d : Dev) (w : Nat) : (d.healUnavailable w).mem = d.mem := (healUnavailable_only ..).same .mem rfl
@[simp] theorem queueHeal_mem (d : Dev) (w : Nat) : (d.queueHeal w).mem = d.mem := (queueHeal_only ..).same .mem rfl
@[simp] theorem correctWord_mem (d : Dev) (w : Nat) : (d.correctWord w).mem = d.mem := (correctWord_only ..).same .mem rfl
@[simp] theorem settleWipeBusy_mem (d : Dev) : d.settleWipeBusy.mem = d.mem := (settleWipeBusy_only ..).same .mem rfl
@[simp] theorem beginWipe_mem (d : Dev) (purpose : WipeFor) (rs : List RangeEnt) : (d.beginWipe purpose rs).mem = d.mem :=
  (beginWipe_only ..).same .mem rfl
@[simp] theorem powerHeld_mem (d : Dev) (s : Nat) : (d.powerHeld s).mem = d.mem := (powerHeld_only ..).same .mem rfl
@[simp] theorem discardReqs_mem (d : Dev) (c : Nat) : (d.discardReqs c).mem = d.mem := (discardReqs_only ..).same .mem rfl
@[simp] theorem endRelease_mem (d : Dev) (n : Nat) : (d.endRelease n).mem = d.mem := (endRelease_only ..).same .mem rfl
@[simp] theorem settleWipes_mem (d : Dev) : d.settleWipes.mem = d.mem := (settleWipes_only ..).same .mem rfl
@[simp] theorem missAll_mem (h : BitVec 16) (n : Nat) (d : Dev) : (Dev.missAll h n d).mem = d.mem := (missAll_only ..).same .mem rfl
@[simp] theorem settlePlan_mem (d : Dev) (h : BitVec 16) : (d.settlePlan h).mem = d.mem := (settlePlan_only ..).same .mem rfl
@[simp] theorem noteExports_mem (d : Dev) (p : Plan) (c : Nat) (records : List (Nat × Nat)) : (d.noteExports p c records).mem = d.mem :=
  (noteExports_only ..).same .mem rfl
@[simp] theorem sendDue_mem (d : Dev) (h : BitVec 16) : (d.sendDue h).mem = d.mem := (sendDue_only ..).same .mem rfl
@[simp] theorem streamsLeft_mem (d : Dev) (site : Nat) : (d.streamsLeft site).mem = d.mem := (streamsLeft_only ..).same .mem rfl
@[simp] theorem recoveryRecord_mem (d : Dev) (v : Recovery) (idx : Option Nat) (now : BitVec 52) :
    (d.recoveryRecord v idx now).mem = d.mem := (recoveryRecord_only ..).same .mem rfl
@[simp] theorem recomputeDone_mem (d : Dev) (c : Nat) (idx : Nat) : (d.recomputeDone c idx).mem = d.mem :=
  (recomputeDone_only ..).same .mem rfl
@[simp] theorem dropHeld_mem (d : Dev) (c : Nat) : (d.dropHeld c).mem = d.mem := (dropHeld_only ..).same .mem rfl
@[simp] theorem compareSig_mem (d : Dev) (x : Ctx) : (d.compareSig x).2.mem = d.mem := (compareSig_only ..).same .mem rfl
@[simp] theorem releasePlan_mem (d : Dev) (p : Plan) : (d.releasePlan p).mem = d.mem := (releasePlan_only ..).same .mem rfl
@[simp] theorem discardChunk_mem (d : Dev) (p : Plan) (c : Nat) : (d.discardChunk p c).mem = d.mem :=
  (discardChunk_only ..).same .mem rfl
@[simp] theorem divertRec_mem (d : Dev) (q : Nat) (header : List Byte) (cause : Nat) : (d.divertRec q header cause).mem = d.mem :=
  (divertRec_only ..).same .mem rfl
@[simp] theorem setSlot_mem (d : Dev) (h : BitVec 16) (i : Nat) (s : SlotState) : (d.setSlot h i s).mem = d.mem :=
  (setSlot_only ..).same .mem rfl
@[simp] theorem fenceSite_mem (d : Dev) (n source : Nat) (fault : Option Bool) (tag : BitVec 32) (host : Option HostFence) :
    (d.fenceSite n source fault tag host).mem = d.mem := (fenceSite_only ..).same .mem rfl
@[simp] theorem configSite_mem (d : Dev) (p : Plan) (core site : Nat) : (d.configSite p core site).mem = d.mem :=
  (configSite_only ..).same .mem rfl
@[simp] theorem restoreSets_mem (d : Dev) (old new : Nat) (active : Bool) (s0 s1 : Option (LoadSrc × BitVec 32)) :
    (d.restoreSets old new active s0 s1).mem = d.mem := (restoreSets_only ..).same .mem rfl
@[simp] theorem dropRecovery_mem (d : Dev) (site : Nat) : (d.dropRecovery site).mem = d.mem := (dropRecovery_only ..).same .mem rfl
@[simp] theorem modRecovery_mem (d : Dev) (site : Nat) (f : Recovery → Recovery) : (d.modRecovery site f).mem = d.mem :=
  (modRecovery_only ..).same .mem rfl
@[simp] theorem answerFence_mem (d : Dev) (r : Recovery) (result : Nat) : (d.answerFence r result).mem = d.mem :=
  (answerFence_only ..).same .mem rfl
@[simp] theorem noSwap_mem (d : Dev) (n : Nat) : (d.noSwap n).mem = d.mem := (noSwap_only ..).same .mem rfl
@[simp] theorem restSite_mem (d : Dev) (n : Nat) : (d.restSite n).mem = d.mem := (restSite_only ..).same .mem rfl
@[simp] theorem answerTest_mem (d : Dev) (n : Nat) (failed : Bool) (remapped : Nat) : (d.answerTest n failed remapped).mem = d.mem :=
  (answerTest_only ..).same .mem rfl
@[simp] theorem warmAgain_mem (d : Dev) (n : Nat) : (d.warmAgain n).mem = d.mem := (warmAgain_only ..).same .mem rfl
@[simp] theorem testFailed_mem (d : Dev) (t : TestRun) : (d.testFailed t).mem = d.mem := (testFailed_only ..).same .mem rfl
@[simp] theorem modHeal_mem (d : Dev) (f : List Heal → List Heal) : (d.modHeal f).mem = d.mem := (modHeal_only ..).same .mem rfl
@[simp] theorem haltFor_mem (d : Dev) (hit : List Plan) (unit : BitVec 16) : (d.haltFor hit unit).mem = d.mem :=
  (haltFor_only ..).same .mem rfl
@[simp] theorem fenceUnit_mem (d : Dev) (u : BitVec 16) (source code : Nat) : (d.fenceUnit u source code).mem = d.mem :=
  (fenceUnit_only ..).same .mem rfl
@[simp] theorem loseStack_mem (d : Dev) (s : Nat) : (d.loseStack s).mem = d.mem := (loseStack_only ..).same .mem rfl
@[simp] theorem driveBeat_mem (d : Dev) : d.driveBeat.mem = d.mem := (driveBeat_only ..).same .mem rfl
@[simp] theorem takeStraps_mem (d : Dev) (s : StrapSamples) : (d.takeStraps s).mem = d.mem := (takeStraps_only ..).same .mem rfl
@[simp] theorem powerBoot_mem (d : Dev) : d.powerBoot.mem = d.mem := (powerBoot_only ..).same .mem rfl
@[simp] theorem chanFlr_mem (d : Dev) (c : Nat) : (d.chanFlr c).mem = d.mem := (chanFlr_only ..).same .mem rfl
@[simp] theorem queueFlr_mem (d : Dev) (func : Nat) : (d.queueFlr func).mem = d.mem := (queueFlr_only ..).same .mem rfl
@[simp] theorem setPwrEvent_mem (d : Dev) (i : Nat) : (d.setPwrEvent i).mem = d.mem := (setPwrEvent_only ..).same .mem rfl
@[simp] theorem fenceDeads_mem (d : Dev) : d.fenceDeads.mem = d.mem := (fenceDeads_only ..).same .mem rfl
@[simp] theorem armCounters_mem (d : Dev) : d.armCounters.mem = d.mem := (armCounters_only ..).same .mem rfl
@[simp] theorem fenceMoving_mem (d : Dev) (n : Nat) (r : Recovery) (host : HostFence) : (d.fenceMoving n r host).1.mem = d.mem :=
  (fenceMoving_only ..).same .mem rfl
@[simp] theorem powerReturned_mem (d : Dev) (n : Nat) : (d.powerReturned n).mem = d.mem := (powerReturned_only ..).same .mem rfl
@[simp] theorem markUnit_mem (d : Dev) (u : BitVec 16) (perm : Bool) : (d.markUnit u perm).mem = d.mem :=
  (markUnit_only ..).same .mem rfl
@[simp] theorem tickSites_mem (d : Dev) : d.tickSites.mem = d.mem := (tickSites_only ..).same .mem rfl
@[simp] theorem settleBits_mem (d : Dev) : d.settleBits.mem = d.mem := (settleBits_only ..).same .mem rfl
@[simp] theorem tickBeat_mem (d : Dev) : d.tickBeat.mem = d.mem := (tickBeat_only ..).same .mem rfl

end Sys2Proof.Machine
end

section
/-! SUPPORT. The canonical form of the addressed memory (log entry 3): one lemma per operation, `<operation>_memWf`, says that an operation
which can change memory keeps its form, so that every step does. -/

namespace Sys2Proof.Machine

/-! ### Choices, loops and updates of other parts -/

theorem memWf_of_only {m : List Part} {d e : Dev} (h : Only m d e) (hm : m.contains .mem = false) (hd : d.mem.wf = true) :
    e.mem.wf = true := by
  have hmem : e.mem = d.mem := h.same .mem hm
  rwa [hmem]

@[simp] theorem memWf_ite {c : Prop} [Decidable c] {d e : Dev} (hd : d.mem.wf = true) (he : e.mem.wf = true) :
    (if c then d else e).mem.wf = true := by split <;> assumption

@[simp] theorem memWf_foldl {α : Type} {f : Dev → α → Dev} (hf : ∀ d a, d.mem.wf = true → (f d a).mem.wf = true) (l : List α)
    {d : Dev} (h : d.mem.wf = true) : (l.foldl f d).mem.wf = true := by
  induction l generalizing d with
  | nil => exact h
  | cons a l ih => exact ih (hf d a h)

@[simp] theorem mem_foldl {α : Type} {f : Dev → α → Dev} (hf : ∀ d a, (f d a).mem = d.mem) (l : List α) (d : Dev) :
    (l.foldl f d).mem = d.mem := by
  induction l generalizing d with
  | nil => rfl
  | cons a l ih => exact (ih _).trans (hf d a)

/-- A loop over the listed bytes. -/
theorem cellsWf_foldl {α : Type} {f : List Host.Cell → α → List Host.Cell}
    (hf : ∀ m a, cellsWf m = true → cellsWf (f m a) = true) (l : List α) {m : List Host.Cell} (h : cellsWf m = true) :
    cellsWf (l.foldl f m) = true := by
  induction l generalizing m with
  | nil => exact h
  | cons a l ih => exact ih (hf m a h)

/-- Poison has no part in the canonical form. -/
@[simp] theorem memWf_mk (b : List Host.Cell) (p : List Nat) : Mem.wf ⟨b, p⟩ = cellsWf b := rfl

/-! ### Writes of committed memory -/

theorem layoutUnseed_cellsWf (l : Layout) {m : List Host.Cell} (a n : Nat) (hm : cellsWf m = true) :
    cellsWf (l.unseed m a n) = true := by
  refine cellsWf_foldl (fun m r hm => ?_) _ hm
  dsimp only
  split
  · exact hm
  · exact cellsWf_foldl (fun m i hm => memZero_keeps_wf _ _ hm) _ hm

/-- An atomic operation writes its element, its shadow entry and its return slot. -/
theorem applyAtom_cellsWf (p : Plan) {m : List Host.Cell} (e : AtomEnt) (hm : cellsWf m = true) : cellsWf (applyAtom p m e).1 = true := by
  unfold applyAtom
  dsimp only
  repeat' split
  all_goals simp [hm, memPutAll_keeps_wf, memZero_keeps_wf]

section
variable {d : Dev} (h : d.mem.wf = true)
include h

/-- The listed bytes of a canonical memory. -/
theorem cellsWf_of_memWf : cellsWf d.mem.bytes = true := h

/-! ### Deliveries and the solver -/

@[simp] theorem unseed_memWf (a n : Nat) : (d.unseed a n).mem.wf = true := by
  refine cellsWf_foldl (fun m p hm => ?_) _ h
  split
  · exact layoutUnseed_cellsWf p.img.layout a n hm
  · exact hm

@[simp] theorem deliver_memWf (a : Nat) (bs : List Byte) (tag : BitVec 32) (unit : BitVec 16) (source : Nat) :
    (d.deliver a bs tag unit source).2.mem.wf = true := by
  have hm := deliver_keeps_wf a bs h
  refine memWf_foldl (fun d w hd => by simp [hd]) _ (unseed_memWf ?_ ..)
  rwa [deliverLines_mem]

@[simp] theorem markStale_memWf (j : SolveJob) : (d.markStale j).mem.wf = true := by
  rw [Dev.markStale, writeRecord_mem]
  refine memWf_foldl (fun d e hd => ?_) _ (deliver_memWf h ..)
  exact hd

@[simp] theorem submitSolves_memWf (p : Plan) (c : Nat) : (d.submitSolves p c).mem.wf = true := by
  simp only [Dev.submitSolves, dealAll_mem, orderFresh_mem]
  refine memWf_foldl (fun d j hd => ?_) _ h
  simp [hd]

@[simp] theorem publishFresh_memWf (j : SolveJob) (deadline : BitVec 52) : (d.publishFresh j deadline).mem.wf = true :=
  deliver_memWf (deliver_memWf (deliver_memWf h ..) ..) ..

theorem solverPublish_memWf : (solverPublish d).mem.wf = true := by
  unfold solverPublish
  repeat' split
  all_goals simp [h]

/-! ### Collectives -/

@[simp] theorem takeResult_memWf (i : Nat) (flags : BitVec 4) (off : Nat) (bs : List Byte) :
    (d.takeResult i flags off bs).mem.wf = true := by
  unfold Dev.takeResult
  split <;> simp [h]

@[simp] theorem finishRoot_memWf (i : Nat) : (d.finishRoot i).mem.wf = true := by
  unfold Dev.finishRoot
  split <;> simp [h]

@[simp] theorem passOn_memWf (i : Nat) : (d.passOn i).mem.wf = true := by
  unfold Dev.passOn
  split <;> simp [h]

@[simp] theorem advance_memWf (e : Option Nat) (i fuel : Nat) : (Dev.advance e i fuel d).mem.wf = true := by
  induction fuel generalizing d with
  | zero => exact h
  | succ fuel ih =>
    unfold Dev.advance
    dsimp only
    repeat' split
    all_goals simp [h, ih]

@[simp] theorem sequenceColl_memWf (i : Nat) : (d.sequenceColl i).mem.wf = true := by
  unfold Dev.sequenceColl
  split <;> simp [h]

@[simp] theorem settlePosts_memWf : d.settlePosts.mem.wf = true := by
  refine memWf_ite h ?_
  rw [sweepColl_mem]
  exact memWf_foldl (fun d i hd => sequenceColl_memWf hd i) _ h

theorem collContribution_memWf (e : Fin 16) (mismatch : Bool) : (collContribution e mismatch d).mem.wf = true := by
  unfold collContribution
  dsimp only
  repeat' split
  all_goals simp [h]

theorem collResult_memWf : (collResult d).mem.wf = true := by
  unfold collResult
  split
  · exact h
  next hin =>
    have he := memWf_of_only (takeInbox_only hin) rfl h
    repeat' split
    all_goals simp [he]

/-! ### The stacks -/

@[simp] theorem poisonWord_memWf (w : Nat) : (d.poisonWord w).mem.wf = true := by
  simp [Dev.poisonWord, cellsWf_of_memWf h]

@[simp] theorem poisonLine_memWf (w : Nat) : (d.poisonLine w).mem.wf = true :=
  memWf_foldl (fun _ k hd => memWf_ite hd (poisonWord_memWf hd k)) _ h

@[simp] theorem lineLost_memWf (x : DscLine) : (d.lineLost x).mem.wf = true := by
  simp [Dev.lineLost, h]

@[simp] theorem readFinding_memWf (kind k : Nat) : (d.readFinding kind k).mem.wf = true := by
  unfold Dev.readFinding
  dsimp only
  repeat' split
  all_goals simp [h, cellsWf_of_memWf h, Dev.poisonScratch]

@[simp] theorem readErrors_memWf : d.readErrors.mem.wf = true := by
  unfold Dev.readErrors
  dsimp only
  repeat' split
  all_goals simp [h]

theorem patrolScrub_memWf (s : Fin 16) (found : EccFind) : (patrolScrub s found d).mem.wf = true := by
  unfold patrolScrub
  dsimp only
  repeat' split
  all_goals simp [h]

@[simp] theorem wipeRange_memWf (a n : Nat) : (d.wipeRange a n).mem.wf = true := by
  simp [Dev.wipeRange, memZero_keeps_wf _ _ (cellsWf_of_memWf h)]

@[simp] theorem wipeFailed_memWf (w : Nat) : (d.wipeFailed w).mem.wf = true := by
  simp [Dev.wipeFailed, cellsWf_of_memWf h]

@[simp] theorem wipeSite_memWf (n : Nat) : (d.wipeSite n).mem.wf = true := by
  simp [Dev.wipeSite, h]

@[simp] theorem siteReset_memWf (n : Nat) : (d.siteReset n).mem.wf = true := by
  simp [Dev.siteReset, h]

@[simp] theorem wipeStack_memWf (s : Nat) (parts : List RangeEnt) (sites : Bool) (bad : List (BitVec 25)) :
    (d.wipeStack s parts sites bad).mem.wf = true := by
  have hparts := memWf_foldl (fun d (r : RangeEnt) hd => wipeRange_memWf hd r.base r.len) parts h
  have hsites := memWf_ite (c := sites) (memWf_foldl (fun d p hd => wipeSite_memWf hd (5 * s + p)) (List.range 5) hparts) hparts
  exact memWf_ite (memWf_foldl (fun d b hd => memWf_ite (wipeFailed_memWf hd _) hd) bad hsites) hsites

@[simp] theorem bootWipe_memWf (s : Nat) (bad : List (BitVec 25)) : (d.bootWipe s bad).mem.wf = true := by
  simp only [Dev.bootWipe, settleWipeBusy_mem]
  exact wipeStack_memWf h ..

@[simp] theorem jobWipe_memWf (s : Nat) (bad : List (BitVec 25)) : (d.jobWipe s bad).mem.wf = true := by
  refine memWf_ite h ?_
  rw [settleWipeBusy_mem]
  exact wipeStack_memWf h ..

theorem memoryWipe_memWf (s : Fin 16) (bad : List (BitVec 25)) : (memoryWipe s bad d).mem.wf = true := by
  refine memWf_ite (memWf_ite h (bootWipe_memWf h s bad)) ?_
  rw [settleWipes_mem]
  exact jobWipe_memWf h s bad

/-! ### Held sites and tenancies -/

@[simp] theorem coolHeld_memWf (die : Nat) : (d.coolHeld die).mem.wf = true := by
  unfold Dev.coolHeld
  dsimp only
  repeat' split
  all_goals simp [h]

@[simp] theorem settleHeld_memWf : d.settleHeld.mem.wf = true :=
  memWf_ite (memWf_foldl (fun _ die hd => coolHeld_memWf hd die) _ h) (memWf_foldl (fun d s hd => by simp [hd]) _ h)

@[simp] theorem wipeOwned_memWf (t : Tenancy) : (d.wipeOwned t).mem.wf = true := by
  refine memWf_foldl (fun _ s hd => wipeSite_memWf hd s) _ (memWf_foldl (fun d c hd => ?_) _ h)
  exact hd

@[simp] theorem finishRelease_memWf (n : Nat) : (d.finishRelease n).mem.wf = true := by
  unfold Dev.finishRelease
  dsimp only
  repeat' split
  all_goals simp [h]

@[simp] theorem settleReleases_memWf : d.settleReleases.mem.wf = true :=
  memWf_foldl (fun _ n hd => finishRelease_memWf hd n) _ h

/-! ### Plans -/

@[simp] theorem zeroRecords_memWf (p : Plan) (core : Nat) (records : List Nat) : (d.zeroRecords p core records).mem.wf = true := by
  unfold Dev.zeroRecords
  split
  · exact h
  · exact cellsWf_foldl (fun m r hm => memZero_keeps_wf _ _ hm) _ h

@[simp] theorem settleResets_memWf (k : BitVec 16) : (d.settleResets k).mem.wf = true := by
  unfold Dev.settleResets
  split
  · exact h
  · exact memWf_foldl (fun _ r hd => zeroRecords_memWf hd _ r.1 r.2.2) _ h

theorem switchBeat_memWf (k : BitVec 16) : (switchBeat k d).mem.wf = true := by
  unfold switchBeat
  dsimp only
  repeat' split
  all_goals simp [h]

@[simp] theorem readySite_memWf (p : Plan) (core site idx : Nat) : (d.readySite p core site idx).mem.wf = true := by
  have hput := memPutAll_keeps_wf (p.textBase core site + 0xF000) (d.patchWindow p core) (cellsWf_of_memWf h)
  simp only [Dev.readySite, modSite_mem, memWf_mk]
  split <;> assumption

theorem chunkRelease_memWf (c : Fin 72) : (chunkRelease c d).mem.wf = true := by
  unfold chunkRelease
  split <;> simp [h]

@[simp] theorem commitAtom_memWf (p : Plan) (c site : Nat) (e : AtomEnt) : (d.commitAtom p c site e).mem.wf = true := by
  unfold Dev.commitAtom
  split
  · simp [h]
  · simp [applyAtom_cellsWf p e (cellsWf_of_memWf h)]

@[simp] theorem commitPend_memWf (c : Nat) : (d.commitPend c).mem.wf = true := by
  refine memWf_foldl (fun _ e hd => memWf_ite (unseed_memWf hd e.1 1) hd) _ (memWf_foldl (fun d l hd => by simp [hd]) _ ?_)
  exact memPutCells_keeps_wf _ h

@[simp] theorem commitRecords_memWf (site : Nat) : (d.commitRecords site).mem.wf = true :=
  cellsWf_foldl (fun _ _ hm => memPutAll_keeps_wf _ _ hm) _ h

@[simp] theorem settleRetire_memWf (k : BitVec 16) : (d.settleRetire k).mem.wf = true := by
  unfold Dev.settleRetire
  dsimp only
  repeat' split
  all_goals simp [h]

@[simp] theorem beginRetire_memWf (p : Plan) : (d.beginRetire p).mem.wf = true := by
  refine settleRetire_memWf ?_ _
  refine memWf_foldl (fun d c hd => by simp [hd]) _ ?_
  exact h

@[simp] theorem retireAll_memWf (func : Nat) : (d.retireAll func).mem.wf = true := memWf_foldl (fun _ p hd => beginRetire_memWf hd p) _ h

@[simp] theorem askRetire_memWf (func : Nat) : (d.askRetire func).mem.wf = true := by
  simp [Dev.askRetire, h]

@[simp] theorem serveRings_memWf : d.serveRings.mem.wf = true :=
  settleReleases_memWf (memWf_foldl (fun _ r hd => retireAll_memWf hd r.tenancy) _ h)

@[simp] theorem beginRelease_memWf (n : Nat) : (d.beginRelease n).mem.wf = true := by
  refine memWf_ite h (settleReleases_memWf (askRetire_memWf ?_ n))
  rw [discardReqs_mem]
  exact memWf_ite h h

theorem retireChunkDiscard_memWf (c : Fin 72) : (retireChunkDiscard c d).mem.wf = true := by
  unfold retireChunkDiscard
  split <;> simp [h]

@[simp] theorem commit_memWf (x : Ctx) : (d.commit x).mem.wf = true := by
  have hmiss : (Dev.missAll x.p.handle x.p.nSteps d).mem.wf = true := by rwa [missAll_mem]
  have hpend := commitRecords_memWf (commitPend_memWf hmiss x.c) x.site
  have hatoms := fun l => memWf_foldl (fun _ e hd => commitAtom_memWf hd x.p x.c x.site e) l hpend
  refine settleRetire_memWf ?_ _
  simp only [settlePlan_mem, sendDue_mem]
  refine settleResets_memWf ?_ _
  simp only [modPlan_mem, modCcr_mem, freeTo_mem, modCq_mem, recomputeDone_mem, streamsLeft_mem, stageAll_mem]
  refine submitSolves_memWf ?_ _ _
  simp only [postColls_mem, postSends_mem, noteExports_mem]
  exact hatoms _

theorem chunkCommit_memWf (c : Fin 72) : (chunkCommit c d).mem.wf = true := by
  have hsig : ∀ x, (d.compareSig x).2.mem.wf = true := by simp [h]
  unfold chunkCommit
  split
  · exact h
  next x _ =>
    split
    · exact h
    · split
      next hx => simpa [hx] using hsig x
      next hx => exact commit_memWf (by simpa [hx] using hsig x) x

/-! ### The stream port -/

theorem slotRecord_memWf (port : Fin 4) : (slotRecord port d).mem.wf = true := by
  unfold slotRecord
  dsimp only
  split
  · exact h
  next htake =>
    have he := memWf_of_only (takeBuf_q_only htake) rfl h
    repeat' split
    all_goals simp [h, he]

theorem loadRecord_memWf (port : Fin 4) : (loadRecord port d).mem.wf = true := by
  unfold loadRecord
  dsimp only
  split
  · exact h
  next htake =>
    have he := memWf_of_only (takeBuf_q_only htake) rfl h
    repeat' split
    · exact he
    · simp [he]
    · exact memWf_foldl (fun _ x hd => deliver_memWf hd ..) _ he

theorem slotInputDeadline_memWf (k : BitVec 16) (i : Fin 65536) : (slotInputDeadline k i d).mem.wf = true := by
  unfold slotInputDeadline
  dsimp only
  repeat' split
  all_goals simp [h]

/-! ### Sites -/

@[simp] theorem copyText_memWf (p : Plan) (core site : Nat) : (d.copyText p core site).mem.wf = true :=
  memPutAll_keeps_wf _ _ h

@[simp] theorem moveScratch_memWf (old new : Nat) : (d.moveScratch old new).mem.wf = true :=
  memPutCells_keeps_wf _ (wipeRange_memWf h _ _)

@[simp] theorem restartChunk_memWf (p : Plan) (c old new : Nat) (rc : RunChunk) : (d.restartChunk p c old new rc).mem.wf = true := by
  simp [Dev.restartChunk, h]

@[simp] theorem freeSpare_memWf (s : Nat) : (d.freeSpare s).mem.wf = true := by
  simp [Dev.freeSpare, h]

@[simp] theorem noSpare_memWf (r : Recovery) (c : Nat) : (d.noSpare r c).mem.wf = true := by
  unfold Dev.noSpare
  dsimp only
  repeat' split
  all_goals simp [h]

theorem siteRecovery_memWf (site : Fin 80) : (siteRecovery site d).mem.wf = true := by
  unfold siteRecovery
  dsimp only
  repeat' split
  all_goals simp [h]

theorem spareInService_memWf (site : Fin 80) (ok : Bool) : (spareInService site ok d).mem.wf = true := by
  unfold spareInService
  dsimp only
  repeat' split
  all_goals simp [h]

@[simp] theorem beginTest_memWf (n id : Nat) : (d.beginTest n id).mem.wf = true := by
  simp [Dev.beginTest, h]

@[simp] theorem recomputeHere_memWf (r : Recovery) (c n : Nat) : (d.recomputeHere r c n).mem.wf = true := by
  unfold Dev.recomputeHere
  split <;> simp [h]

/-- What a spare takes over from the site before it: the scratch, the configuration and the program. -/
theorem takeOver_memWf (p : Plan) (core old new : Nat) :
    (((d.moveScratch old new).configSite p core new).copyText p core new).mem.wf = true := by
  simp [h]

theorem stateLoadDone_memWf (site : Fin 80) : (stateLoadDone site d).mem.wf = true := by
  unfold stateLoadDone
  extract_lets +onlyGivenNames n
  split
  · exact h
  · split
    · extract_lets +onlyGivenNames r dropped old again loaded idle
      have hdropped : dropped.mem.wf = true := by rwa [dropRecovery_mem]
      have hloaded : loaded.mem.wf = true := by
        simp only [loaded]
        split
        · exact freeSpare_memWf hdropped _
        · split
          · rw [modHealth_mem]
            refine restartChunk_memWf ?_ ..
            rw [setSiteState_mem]
            exact takeOver_memWf (by rwa [modPlan_mem]) ..
          · split
            all_goals
              simp only [writeRecord_mem, recoveryRecord_mem, modCcr_mem, restoreSets_mem, setSiteState_mem]
              exact takeOver_memWf (by rwa [modPlan_mem]) ..
      have hidle : idle.mem.wf = true := siteReset_memWf hloaded n
      refine memWf_ite (recomputeHere_memWf hdropped ..) (memWf_ite hidle (memWf_ite ?_ ?_))
      · exact beginTest_memWf (by rwa [setSiteState_mem]) ..
      · rwa [powerDown_mem]
    · exact h

theorem spareWarm_memWf (site : Fin 80) (ok : Bool) : (spareWarm site ok d).mem.wf = true := by
  unfold spareWarm
  dsimp only
  repeat' split
  all_goals simp [h]

theorem fencedSiteTest_memWf (site : Fin 80) : (fencedSiteTest site d).mem.wf = true := by
  simp [fencedSiteTest, h]

@[simp] theorem returnSite_memWf (n : Nat) : (d.returnSite n).mem.wf = true := by
  simp [Dev.returnSite, h]

@[simp] theorem testPassed_memWf (t : TestRun) (remapped : Bool) : (d.testPassed t remapped).mem.wf = true := by
  unfold Dev.testPassed
  dsimp only
  repeat' split
  all_goals simp [h]

theorem testDone_memWf (site : Fin 80) (result : TestResult) : (testDone site result d).mem.wf = true := by
  unfold testDone
  dsimp only
  repeat' split
  all_goals simp [h]

theorem testDue_memWf (site : Fin 80) : (testDue site d).mem.wf = true := by
  unfold testDue
  dsimp only
  repeat' split
  all_goals simp [h]

theorem healData_memWf : (healData d).mem.wf = true := by
  unfold healData
  dsimp only
  split
  · exact h
  next hin =>
    have he := memWf_of_only (takeInbox_only hin) rfl h
    repeat' split
    all_goals simp [h, he, memPutAll_keeps_wf, cellsWf_of_memWf he]

@[simp] theorem dropSpare_memWf (r : Recovery) : (d.dropSpare r).mem.wf = true := by
  unfold Dev.dropSpare
  dsimp only
  repeat' split
  all_goals simp [h]

@[simp] theorem loseSite_memWf (n : Nat) : (d.loseSite n).mem.wf = true := by
  unfold Dev.loseSite
  dsimp only
  split <;> simp [h]

theorem stackLost_memWf (u : LostUnit) : (stackLost u d).mem.wf = true := by
  unfold stackLost
  dsimp only
  repeat' split
  all_goals simp [h]
  all_goals exact memWf_foldl (fun _ i hd => loseSite_memWf hd _) _ (by simp [h])

/-! ### Resets and power -/

@[simp] theorem flr_memWf (func : Nat) : (d.flr func).mem.wf = true := by
  simp [Dev.flr, h]

theorem functionLevelReset_memWf (func : Fin 5) : (functionLevelReset func d).mem.wf = true := by
  simp [functionLevelReset, h]

theorem pcieReset_memWf : (pcieReset d).mem.wf = true := memWf_ite h (memWf_foldl (fun _ n hd => flr_memWf hd n) _ h)

theorem vfEnableClear_memWf : (vfEnableClear d).mem.wf = true := memWf_ite (memWf_foldl (fun _ n hd => beginRelease_memWf hd n) _ h) h

theorem domainRampDone_memWf (k : Fin 171) (ok : Bool) : (domainRampDone k ok d).mem.wf = true := by
  unfold domainRampDone
  dsimp only
  repeat' split
  all_goals simp [h]

theorem processorRestartDone_memWf (i : Fin 5) : (processorRestartDone i d).mem.wf = true := by
  unfold processorRestartDone
  dsimp only
  repeat' split
  all_goals simp [h]

/-- A warm reset keeps the memory, a cold one empties it (R291, R440). -/
@[simp] theorem resetDevice_memWf (warm standbyLost : Bool) : (d.resetDevice warm standbyLost).mem.wf = true := by
  cases warm with
  | false => rfl
  | true => exact h

theorem coldReset_memWf (cause : ColdCause) : (coldReset cause d).mem.wf = true := by
  cases cause <;> simp [coldReset, h]

theorem warmReset_memWf (level : Bool) (straps : StrapSamples) (flash : List (Bool × List Byte)) :
    (warmReset level straps flash d).mem.wf = true := by
  unfold warmReset
  dsimp only
  repeat' split
  all_goals simp [h]

@[simp] theorem powerLoss_memWf (code : Nat) : (d.powerLoss code).mem.wf = true := by
  simp [Dev.powerLoss, h]

theorem vinUndervoltage_memWf : (vinUndervoltage d).mem.wf = true := memWf_ite h (memWf_ite h (powerLoss_memWf h _))

theorem vinOvervoltage_memWf : (vinOvervoltage d).mem.wf = true := by
  simp [vinOvervoltage, h]

theorem powerDieFault_memWf (die : Fin 4) : (powerDieFault die d).mem.wf = true := by
  simp [powerDieFault, h]

theorem vauxLoss_memWf : (vauxLoss d).mem.wf = true := by
  simp [vauxLoss, h]

@[simp] theorem thermtrip_memWf : (thermtrip d).mem.wf = true := by
  simp [thermtrip, h]

theorem sensorSample_memWf (s : Sample) : (sensorSample s d).mem.wf = true := by
  unfold sensorSample
  dsimp only
  repeat' split
  all_goals simp [h]

/-! ### Requests -/

/-- Serving a request keeps the canonical form if the message's own effect does. -/
theorem serve_memWf (op : Nat) {f : Dev → Req → List Byte → Dev × Reply} (hf : ∀ r p, (f d r p).1.mem.wf = true) :
    (d.serve op f).mem.wf = true := by
  have hreply : ∀ {r p e a}, f d r p = (e, a) → e.mem.wf = true := fun {r p e a} he => by simpa [he] using hf r p
  unfold Dev.serve
  repeat' split
  case h_3 he => rw [finishReq_mem]; exact hreply he
  case h_4 he =>
    have hgoing := hreply he
    exact hgoing
  all_goals exact h

@[simp] theorem armCore_memWf (p : Plan) (i : Nat) : (d.armCore p i).mem.wf = true := by
  have hzero := fun l => zeroRecords_memWf h p i l
  refine memWf_ite (hzero _) (copyText_memWf ?_ ..)
  simp only [configSite_mem, modSite_mem]
  refine memWf_ite ?_ ?_
  · simp [hzero]
  · rw [powerUp_mem]
    refine siteReset_memWf ?_ _
    simp [hzero]

@[simp] theorem loadTables_memWf : d.loadTables.mem.wf = true :=
  cellsWf_foldl (fun _ _ hm => memPutAll_keeps_wf _ _ (memZero_keeps_wf _ _ hm)) _ h

@[simp] theorem armPlan_memWf (p : Plan) (start : Nat) : (d.armPlan p start).mem.wf = true := by
  unfold Dev.armPlan
  extract_lets e armed homes tables mine stm trc noted powered
  have harmed : armed.mem.wf = true := memWf_foldl (fun _ i hd => armCore_memWf hd p i) _ h
  have htables : tables.mem.wf = true := loadTables_memWf (by rwa [armCounters_mem])
  have hpowered : powered.mem.wf = true := memWf_foldl (fun d e hd => memWf_ite (by rwa [powerUp_mem]) hd) _ htables
  refine settleHeld_memWf ?_
  rwa [modPlan_mem]

theorem planArm_memWf : (planArm d).mem.wf = true := by
  refine serve_memWf h _ fun r p => ?_
  dsimp only
  repeat' split
  all_goals simp [h]

theorem planRetire_memWf : (planRetire d).mem.wf = true := by
  refine serve_memWf h _ fun r p => ?_
  dsimp only
  repeat' split
  all_goals simp [h]

theorem fence_memWf : (fence d).mem.wf = true := by
  refine serve_memWf h _ fun r p => ?_
  dsimp only
  repeat' split
  all_goals simp [h, Dev.fenceIdle, Dev.fenceSpare]

theorem unfence_memWf : (unfence d).mem.wf = true := by
  refine serve_memWf h _ fun r p => ?_
  dsimp only
  repeat' split
  all_goals simp [h]

@[simp] theorem returnUnit_memWf (u : BitVec 16) : (d.returnUnit u).mem.wf = true := by
  unfold Dev.returnUnit
  split <;> simp [h]

theorem fenceOverride_memWf : (fenceOverride d).mem.wf = true := by
  refine serve_memWf h _ fun r p => ?_
  dsimp only
  repeat' split
  all_goals simp [h]

theorem testRun_memWf : (testRun d).mem.wf = true := by
  refine serve_memWf h _ fun r p => ?_
  dsimp only
  repeat' split
  all_goals simp [h]

theorem tenancyDestroy_memWf : (tenancyDestroy d).mem.wf = true := by
  refine serve_memWf h _ fun r p => ?_
  dsimp only
  repeat' split
  all_goals simp [h]

theorem lifecycleChange_memWf : (lifecycleChange d).mem.wf = true := by
  have hrelease := fun l => memWf_foldl (fun _ n hd => beginRelease_memWf hd n) l h
  refine serve_memWf h _ fun r p => ?_
  dsimp only
  repeat' split
  · exact h
  · exact h
  · exact h
  · rw [beginWipe_mem]
    exact hrelease _

/-! ### Tick -/

@[simp] theorem cycle_memWf : d.cycle.mem.wf = true := by
  have hread : d.tickSites.readErrors.mem.wf = true := readErrors_memWf (by rwa [tickSites_mem])
  unfold Dev.cycle
  dsimp only
  repeat' split
  all_goals simp [h, hread]

theorem tick_memWf : d.tick.mem.wf = true := by
  simp [Dev.tick, h]

end

/-! ### Every command and every step -/

/-- A command whose operation keeps the canonical form. -/
theorem memWf_of_run {f : Dev → Dev} (hf : ∀ {d}, d.mem.wf = true → (f d).mem.wf = true) {s t : State} (hs : s.dev.mem.wf = true)
    (h : run f s = .next t) : t.dev.mem.wf = true := by
  cases h
  exact hf hs

/-- A command whose operation leaves memory as it was. -/
theorem memWf_of_run_only {m : List Part} {f : Dev → Dev} (hf : ∀ d, Only m d (f d)) (hm : m.contains .mem = false) {s t : State}
    (hs : s.dev.mem.wf = true) (h : run f s = .next t) : t.dev.mem.wf = true :=
  memWf_of_run (fun hd => memWf_of_only (hf _) hm hd) hs h

/-- Each command by its operation: one that can change memory by the lemma above on it, any other by its frame. -/
theorem exec_keeps_memWf (c : Instr) {s t : State} (hs : s.dev.mem.wf = true) (hstep : exec c s = .next t) : t.dev.mem.wf = true := by
  cases c with
  | beatInQualify => exact memWf_of_run_only beatInQualify_only rfl hs hstep
  | beatInDisqualify => exact memWf_of_run_only beatInDisqualify_only rfl hs hstep
  | pllLock => exact memWf_of_run_only pllLock_only rfl hs hstep
  | beatMarkerSend => exact memWf_of_run_only beatMarkerSend_only rfl hs hstep
  | beatMarkerReceive port => exact memWf_of_run_only (beatMarkerReceive_only port) rfl hs hstep
  | counterStep => exact memWf_of_run_only counterStep_only rfl hs hstep
  | slewEnd => exact memWf_of_run_only slewEnd_only rfl hs hstep
  | holdoverEntry => exact memWf_of_run_only holdoverEntry_only rfl hs hstep
  | holdoverPause => exact memWf_of_run_only holdoverPause_only rfl hs hstep
  | claimReceive => exact memWf_of_run_only claimReceive_only rfl hs hstep
  | electionSettle => exact memWf_of_run_only electionSettle_only rfl hs hstep
  | processorWatchdogExpiry k => exact memWf_of_run_only (processorWatchdogExpiry_only k) rfl hs hstep
  | processorRestartDone k => exact memWf_of_run (fun hd => processorRestartDone_memWf hd k) hs hstep
  | requestWindowWrite func ch off data => exact memWf_of_run_only (requestWindowWrite_only func ch off data) rfl hs hstep
  | doorbellRing func ch => exact memWf_of_run_only (doorbellRing_only func ch) rfl hs hstep
  | requestCopyDone ch => exact memWf_of_run_only (requestCopyDone_only ch) rfl hs hstep
  | requestCheck => exact memWf_of_run_only requestCheck_only rfl hs hstep
  | requestDispatch => exact memWf_of_run_only requestDispatch_only rfl hs hstep
  | responsePlace => exact memWf_of_run_only responsePlace_only rfl hs hstep
  | responsePop func ch => exact memWf_of_run_only (responsePop_only func ch) rfl hs hstep
  | channelReset func ch => exact memWf_of_run_only (channelReset_only func ch) rfl hs hstep
  | channelResetDone ch => exact memWf_of_run_only (channelResetDone_only ch) rfl hs hstep
  | eventLossSummary => exact memWf_of_run_only eventLossSummary_only rfl hs hstep
  | deviceInfo => exact memWf_of_run_only deviceInfo_only rfl hs hstep
  | sessionOpen => exact memWf_of_run_only sessionOpen_only rfl hs hstep
  | sessionClose => exact memWf_of_run_only sessionClose_only rfl hs hstep
  | planAdmit => exact memWf_of_run_only planAdmit_only rfl hs hstep
  | planArm => exact memWf_of_run planArm_memWf hs hstep
  | planPause => exact memWf_of_run_only planPause_only rfl hs hstep
  | planResume => exact memWf_of_run_only planResume_only rfl hs hstep
  | planRetire => exact memWf_of_run planRetire_memWf hs hstep
  | planStatus => exact memWf_of_run_only planStatus_only rfl hs hstep
  | recipeSelect => exact memWf_of_run_only recipeSelect_only rfl hs hstep
  | debugResume => exact memWf_of_run_only debugResume_only rfl hs hstep
  | fence => exact memWf_of_run fence_memWf hs hstep
  | unfence => exact memWf_of_run unfence_memWf hs hstep
  | fenceOverride => exact memWf_of_run fenceOverride_memWf hs hstep
  | testRun => exact memWf_of_run testRun_memWf hs hstep
  | testConfig => exact memWf_of_run_only testConfig_only rfl hs hstep
  | craterRead => exact memWf_of_run_only craterRead_only rfl hs hstep
  | logRead ecc => exact memWf_of_run_only (logRead_only ecc) rfl hs hstep
  | telemetry => exact memWf_of_run_only telemetry_only rfl hs hstep
  | coreMap => exact memWf_of_run_only coreMap_only rfl hs hstep
  | tenancyCreate => exact memWf_of_run_only tenancyCreate_only rfl hs hstep
  | tenancyDestroy => exact memWf_of_run tenancyDestroy_memWf hs hstep
  | sharedRegion => exact memWf_of_run_only sharedRegion_only rfl hs hstep
  | wipePolicy => exact memWf_of_run_only wipePolicy_only rfl hs hstep
  | lifecycleChange => exact memWf_of_run lifecycleChange_memWf hs hstep
  | fwUpdate => exact memWf_of_run_only fwUpdate_only rfl hs hstep
  | keyProvision => exact memWf_of_run_only keyProvision_only rfl hs hstep
  | linkStatus => exact memWf_of_run_only linkStatus_only rfl hs hstep
  | planStart h => exact memWf_of_run_only (planStart_only h) rfl hs hstep
  | chunkRelease c => exact memWf_of_run (fun hd => chunkRelease_memWf hd c) hs hstep
  | chunkCommit c => exact memWf_of_run (fun hd => chunkCommit_memWf hd c) hs hstep
  | flagDelivery => exact memWf_of_run_only flagDelivery_only rfl hs hstep
  | promiseDeadline h => exact memWf_of_run_only (promiseDeadline_only h) rfl hs hstep
  | resumeBeatReached h => exact memWf_of_run_only (resumeBeatReached_only h) rfl hs hstep
  | retireChunkDiscard c => exact memWf_of_run (fun hd => retireChunkDiscard_memWf hd c) hs hstep
  | slotInputDeadline h k => exact memWf_of_run (fun hd => slotInputDeadline_memWf hd h k) hs hstep
  | switchBeat h => exact memWf_of_run (fun hd => switchBeat_memWf hd h) hs hstep
  | commandSlotWrite func win off data => exact memWf_of_run_only (commandSlotWrite_only func win off data) rfl hs hstep
  | cqTailWrite func win val => exact memWf_of_run_only (cqTailWrite_only func win val) rfl hs hstep
  | commandFetch c parity => exact memWf_of_run_only (commandFetch_only c parity) rfl hs hstep
  | breakFire c => exact memWf_of_run_only (breakFire_only c) rfl hs hstep
  | nop c => exact memWf_of_run_only (nop_only c) rfl hs hstep
  | dummy c => exact memWf_of_run_only (dummy_only c) rfl hs hstep
  | waitb c => exact memWf_of_run_only (waitb_only c) rfl hs hstep
  | waitbExpiry c => exact memWf_of_run_only (waitbExpiry_only c) rfl hs hstep
  | qfence c => exact memWf_of_run_only (qfence_only c) rfl hs hstep
  | evsend c => exact memWf_of_run_only (evsend_only c) rfl hs hstep
  | evwait c => exact memWf_of_run_only (evwait_only c) rfl hs hstep
  | wload c flt => exact memWf_of_run_only (wload_only c flt) rfl hs hstep
  | wswap c => exact memWf_of_run_only (wswap_only c) rfl hs hstep
  | mma c flt => exact memWf_of_run_only (mma_only c flt) rfl hs hstep
  | mmv c flt => exact memWf_of_run_only (mmv_only c flt) rfl hs hstep
  | elem c flt => exact memWf_of_run_only (elem_only c flt) rfl hs hstep
  | drain c flt => exact memWf_of_run_only (drain_only c flt) rfl hs hstep
  | quant c flt => exact memWf_of_run_only (quant_only c flt) rfl hs hstep
  | deq c => exact memWf_of_run_only (deq_only c) rfl hs hstep
  | stats c => exact memWf_of_run_only (stats_only c) rfl hs hstep
  | copy c => exact memWf_of_run_only (copy_only c) rfl hs hstep
  | atom c => exact memWf_of_run_only (atom_only c) rfl hs hstep
  | coll c => exact memWf_of_run_only (coll_only c) rfl hs hstep
  | send c => exact memWf_of_run_only (send_only c) rfl hs hstep
  | recv c => exact memWf_of_run_only (recv_only c) rfl hs hstep
  | solve c => exact memWf_of_run_only (solve_only c) rfl hs hstep
  | vent c => exact memWf_of_run_only (vent_only c) rfl hs hstep
  | mark c => exact memWf_of_run_only (mark_only c) rfl hs hstep
  | commandComplete c idx => exact memWf_of_run_only (commandComplete_only c idx) rfl hs hstep
  | grantHoldExpiry site => exact memWf_of_run_only (grantHoldExpiry_only site) rfl hs hstep
  | rampGovernorBeat => exact memWf_of_run_only rampGovernorBeat_only rfl hs hstep
  | alu c t chk => exact memWf_of_run_only (alu_only c t chk) rfl hs hstep
  | addi c t chk => exact memWf_of_run_only (addi_only c t chk) rfl hs hstep
  | andi c t chk => exact memWf_of_run_only (andi_only c t chk) rfl hs hstep
  | ori c t chk => exact memWf_of_run_only (ori_only c t chk) rfl hs hstep
  | xori c t chk => exact memWf_of_run_only (xori_only c t chk) rfl hs hstep
  | slti c t chk => exact memWf_of_run_only (slti_only c t chk) rfl hs hstep
  | shifti c t chk => exact memWf_of_run_only (shifti_only c t chk) rfl hs hstep
  | insh c t chk => exact memWf_of_run_only (insh_only c t chk) rfl hs hstep
  | ld c t chk => exact memWf_of_run_only (ld_only c t chk) rfl hs hstep
  | lw c t chk => exact memWf_of_run_only (lw_only c t chk) rfl hs hstep
  | lwu c t chk => exact memWf_of_run_only (lwu_only c t chk) rfl hs hstep
  | lh c t chk => exact memWf_of_run_only (lh_only c t chk) rfl hs hstep
  | lhu c t chk => exact memWf_of_run_only (lhu_only c t chk) rfl hs hstep
  | lb c t chk => exact memWf_of_run_only (lb_only c t chk) rfl hs hstep
  | lbu c t chk => exact memWf_of_run_only (lbu_only c t chk) rfl hs hstep
  | sd c t chk => exact memWf_of_run_only (sd_only c t chk) rfl hs hstep
  | sw c t chk => exact memWf_of_run_only (sw_only c t chk) rfl hs hstep
  | sh c t chk => exact memWf_of_run_only (sh_only c t chk) rfl hs hstep
  | sb c t chk => exact memWf_of_run_only (sb_only c t chk) rfl hs hstep
  | beq c t chk => exact memWf_of_run_only (beq_only c t chk) rfl hs hstep
  | bne c t chk => exact memWf_of_run_only (bne_only c t chk) rfl hs hstep
  | blt c t chk => exact memWf_of_run_only (blt_only c t chk) rfl hs hstep
  | bge c t chk => exact memWf_of_run_only (bge_only c t chk) rfl hs hstep
  | bltu c t chk => exact memWf_of_run_only (bltu_only c t chk) rfl hs hstep
  | bgeu c t chk => exact memWf_of_run_only (bgeu_only c t chk) rfl hs hstep
  | jal c t chk => exact memWf_of_run_only (jal_only c t chk) rfl hs hstep
  | jr c t chk => exact memWf_of_run_only (jr_only c t chk) rfl hs hstep
  | pusha c t chk => exact memWf_of_run_only (pusha_only c t chk) rfl hs hstep
  | setf c t chk => exact memWf_of_run_only (setf_only c t chk) rfl hs hstep
  | clrf c t chk => exact memWf_of_run_only (clrf_only c t chk) rfl hs hstep
  | waitf c t chk => exact memWf_of_run_only (waitf_only c t chk) rfl hs hstep
  | sendf c t chk => exact memWf_of_run_only (sendf_only c t chk) rfl hs hstep
  | getc c t chk => exact memWf_of_run_only (getc_only c t chk) rfl hs hstep
  | sync c t chk => exact memWf_of_run_only (sync_only c t chk) rfl hs hstep
  | psync c t chk => exact memWf_of_run_only (psync_only c t chk) rfl hs hstep
  | halt c t chk => exact memWf_of_run_only (halt_only c t chk) rfl hs hstep
  | ccrNop c t chk => exact memWf_of_run_only (ccrNop_only c t chk) rfl hs hstep
  | storeBufferDrain c => exact memWf_of_run_only (storeBufferDrain_only c) rfl hs hstep
  | ccrDeadlock c => exact memWf_of_run_only (ccrDeadlock_only c) rfl hs hstep
  | patrolScrub k found => exact memWf_of_run (fun hd => patrolScrub_memWf hd k found) hs hstep
  | softRepair k => exact memWf_of_run_only (softRepair_only k) rfl hs hstep
  | memoryWipe k bad => exact memWf_of_run (fun hd => memoryWipe_memWf hd k bad) hs hstep
  | fuseSpareRow path k die bank row => exact memWf_of_run_only (fuseSpareRow_only path k die bank row) rfl hs hstep
  | fuseSpareBank path k die bank row => exact memWf_of_run_only (fuseSpareBank_only path k die bank row) rfl hs hstep
  | rawRead path k die bank row => exact memWf_of_run_only (rawRead_only path k die bank row) rfl hs hstep
  | matrixFinish e mismatch => exact memWf_of_run_only (matrixFinish_only e mismatch) rfl hs hstep
  | solverPublish => exact memWf_of_run solverPublish_memWf hs hstep
  | flitReceive port decoded delimOk crcOk ce f => exact memWf_of_run_only (flitReceive_only port decoded delimOk crcOk ce f) rfl hs hstep
  | laneFail port lane lostLock => exact memWf_of_run_only (laneFail_only port lane lostLock) rfl hs hstep
  | laneNotice port => exact memWf_of_run_only (laneNotice_only port) rfl hs hstep
  | nakReceive port => exact memWf_of_run_only (nakReceive_only port) rfl hs hstep
  | replayTimeout port => exact memWf_of_run_only (replayTimeout_only port) rfl hs hstep
  | portFail port => exact memWf_of_run_only (portFail_only port) rfl hs hstep
  | portNotice port => exact memWf_of_run_only (portNotice_only port) rfl hs hstep
  | directionReroute dir => exact memWf_of_run_only (directionReroute_only dir) rfl hs hstep
  | trainingDone found => exact memWf_of_run_only (trainingDone_only found) rfl hs hstep
  | portRetrain port t => exact memWf_of_run_only (portRetrain_only port t) rfl hs hstep
  | sendRequest => exact memWf_of_run_only sendRequest_only rfl hs hstep
  | sendRequestRetry => exact memWf_of_run_only sendRequestRetry_only rfl hs hstep
  | recvData => exact memWf_of_run_only recvData_only rfl hs hstep
  | recvTimeout => exact memWf_of_run_only recvTimeout_only rfl hs hstep
  | collContribution e mismatch => exact memWf_of_run (fun hd => collContribution_memWf hd e mismatch) hs hstep
  | collResult => exact memWf_of_run collResult_memWf hs hstep
  | engineMoveDone e => exact memWf_of_run_only (engineMoveDone_only e) rfl hs hstep
  | collTimeout => exact memWf_of_run_only collTimeout_only rfl hs hstep
  | streamFrameReceive port frame => exact memWf_of_run_only (streamFrameReceive_only port frame) rfl hs hstep
  | slotRecord port => exact memWf_of_run (fun hd => slotRecord_memWf hd port) hs hstep
  | loadRecord port => exact memWf_of_run (fun hd => loadRecord_memWf hd port) hs hstep
  | readReq port => exact memWf_of_run_only (readReq_only port) rfl hs hstep
  | recordSend port => exact memWf_of_run_only (recordSend_only port) rfl hs hstep
  | divertPop path => exact memWf_of_run_only (divertPop_only path) rfl hs hstep
  | ethertypeWrite path v => exact memWf_of_run_only (ethertypeWrite_only path v) rfl hs hstep
  | streamPortUp port => exact memWf_of_run_only (streamPortUp_only port) rfl hs hstep
  | siteRecovery site => exact memWf_of_run (fun hd => siteRecovery_memWf hd site) hs hstep
  | spareInService site ok => exact memWf_of_run (fun hd => spareInService_memWf hd site ok) hs hstep
  | stateLoadDone site => exact memWf_of_run (fun hd => stateLoadDone_memWf hd site) hs hstep
  | inPlaceRecompute c addr => exact memWf_of_run_only (inPlaceRecompute_only c addr) rfl hs hstep
  | progressStop c unit => exact memWf_of_run_only (progressStop_only c unit) rfl hs hstep
  | watchdogOverrun c => exact memWf_of_run_only (watchdogOverrun_only c) rfl hs hstep
  | commandWatchdogExpiry c => exact memWf_of_run_only (commandWatchdogExpiry_only c) rfl hs hstep
  | spareWarm site ok => exact memWf_of_run (fun hd => spareWarm_memWf hd site ok) hs hstep
  | craterTableSave => exact memWf_of_run_only craterTableSave_only rfl hs hstep
  | fencedSiteTest site => exact memWf_of_run (fun hd => fencedSiteTest_memWf hd site) hs hstep
  | testDone site result => exact memWf_of_run (fun hd => testDone_memWf hd site result) hs hstep
  | testDue site => exact memWf_of_run (fun hd => testDue_memWf hd site) hs hstep
  | overdueSwap c => exact memWf_of_run_only (overdueSwap_only c) rfl hs hstep
  | healRequest => exact memWf_of_run_only healRequest_only rfl hs hstep
  | healServe => exact memWf_of_run_only healServe_only rfl hs hstep
  | healData => exact memWf_of_run healData_memWf hs hstep
  | healTimeout => exact memWf_of_run_only healTimeout_only rfl hs hstep
  | stackLost u => exact memWf_of_run (fun hd => stackLost_memWf hd u) hs hstep
  | traceFlush => exact memWf_of_run_only traceFlush_only rfl hs hstep
  | traceLostRecord => exact memWf_of_run_only traceLostRecord_only rfl hs hstep
  | traceCtrlWrite path v => exact memWf_of_run_only (traceCtrlWrite_only path v) rfl hs hstep
  | idcode => exact memWf_of_run_only idcode_only rfl hs hstep
  | samplePreload bits => exact memWf_of_run_only (samplePreload_only bits) rfl hs hstep
  | extest => exact memWf_of_run_only extest_only rfl hs hstep
  | clamp => exact memWf_of_run_only clamp_only rfl hs hstep
  | highz => exact memWf_of_run_only highz_only rfl hs hstep
  | ijtagSel => exact memWf_of_run_only ijtagSel_only rfl hs hstep
  | bypass code => exact memWf_of_run_only (bypass_only code.code code.tdi) rfl hs hstep
  | ijtagAccess a => exact memWf_of_run_only (ijtagAccess_only a) rfl hs hstep
  | newChal path => exact memWf_of_run_only (newChal_only path) rfl hs hstep
  | submit path => exact memWf_of_run_only (submit_only path) rfl hs hstep
  | lock path => exact memWf_of_run_only (lock_only path) rfl hs hstep
  | vfEnableClear => exact memWf_of_run vfEnableClear_memWf hs hstep
  | coldReset cause => exact memWf_of_run (fun hd => coldReset_memWf hd cause) hs hstep
  | warmReset level straps => exact memWf_of_run (fun hd => warmReset_memWf hd level straps.straps straps.flash) hs hstep
  | pcieReset => exact memWf_of_run pcieReset_memWf hs hstep
  | pcieEndpointUp => exact memWf_of_run_only pcieEndpointUp_only rfl hs hstep
  | functionLevelReset func => exact memWf_of_run (fun hd => functionLevelReset_memWf hd func) hs hstep
  | firmwareAuth bad => exact memWf_of_run_only (firmwareAuth_only bad) rfl hs hstep
  | cfgDone path => exact memWf_of_run_only (cfgDone_only path) rfl hs hstep
  | vinRise => exact memWf_of_run_only vinRise_only rfl hs hstep
  | vinOutOfRange high => exact memWf_of_run_only (vinOutOfRange_only high) rfl hs hstep
  | vinUndervoltage => exact memWf_of_run vinUndervoltage_memWf hs hstep
  | vinOvervoltage => exact memWf_of_run vinOvervoltage_memWf hs hstep
  | powerDieFault die => exact memWf_of_run (fun hd => powerDieFault_memWf hd die) hs hstep
  | vauxLoss => exact memWf_of_run vauxLoss_memWf hs hstep
  | thermtrip => exact memWf_of_run thermtrip_memWf hs hstep
  | domainPowerUp path k => exact memWf_of_run_only (domainPowerUp_only path k) rfl hs hstep
  | domainPowerDown path k => exact memWf_of_run_only (domainPowerDown_only path k) rfl hs hstep
  | domainRampDone k => exact memWf_of_run (fun hd => domainRampDone_memWf hd k.dom k.ok) hs hstep
  | domainRampTimeout k => exact memWf_of_run_only (domainRampTimeout_only k) rfl hs hstep
  | status cmd edges => exact memWf_of_run_only (status_only cmd edges) rfl hs hstep
  | regRead addr edges => exact memWf_of_run_only (regRead_only addr edges) rfl hs hstep
  | regWrite addr data edges => exact memWf_of_run_only (regWrite_only addr data edges) rfl hs hstep
  | mgtAccessDone => exact memWf_of_run_only mgtAccessDone_only rfl hs hstep
  | dataRead edges => exact memWf_of_run_only (dataRead_only edges) rfl hs hstep
  | ch7Write off n data edges => exact memWf_of_run_only (ch7Write_only off n data edges) rfl hs hstep
  | ch7Ring edges => exact memWf_of_run_only (ch7Ring_only edges) rfl hs hstep
  | ch7Read off n edges => exact memWf_of_run_only (ch7Read_only off n edges) rfl hs hstep
  | ch7Pop edges => exact memWf_of_run_only (ch7Pop_only edges) rfl hs hstep
  | latchRead edges => exact memWf_of_run_only (latchRead_only edges) rfl hs hstep
  | latchPop edges => exact memWf_of_run_only (latchPop_only edges) rfl hs hstep
  | registerWrite t data => exact memWf_of_run_only (registerWrite_only t data) rfl hs hstep
  | pauseBeatReached h => exact memWf_of_run_only (pauseBeatReached_only h) rfl hs hstep
  | sendGrant => exact memWf_of_run_only sendGrant_only rfl hs hstep
  | sendAcknowledged => exact memWf_of_run_only sendAcknowledged_only rfl hs hstep
  | flitBoundary port => exact memWf_of_run_only (flitBoundary_only port) rfl hs hstep
  | streamPortDown port => exact memWf_of_run_only (streamPortDown_only port) rfl hs hstep
  | tapReset => exact memWf_of_run_only tapReset_only rfl hs hstep
  | sensorSample k => exact memWf_of_run (fun hd => sensorSample_memWf hd k) hs hstep

/-- Settles O58: an idle step is a tick, any other executes a command. -/
theorem everyStepKeepsMemoryCanonical : Obligations.EveryStepKeepsMemoryCanonical := by
  unfold Obligations.EveryStepKeepsMemoryCanonical
  intro s t hs h
  unfold step at h
  split at h
  next hp => exact memWf_of_run tick_memWf hs h
  next c rest hp => exact exec_keeps_memWf c (s := { s with pending := rest }) hs h

end Sys2Proof.Machine
end

section
/-! SUPPORT. The record that HLP writes, as the first bank of the log holds it (R385). -/

namespace Sys2Proof.Machine

/-- A bank's last record is the one put into it. -/
theorem getLast?_bankPush (b : List Rec) (r : Rec) : (bankPush b r).getLast? = some r := by
  have hdrop : b.length + 1 - 4096 < (b ++ [r]).length := by
    simp only [List.length_append, List.length_singleton]
    omega
  rw [bankPush, List.getLast?_drop, if_neg (by omega), List.getLast?_concat]

/-- What follows the record into the log leaves the banks. -/
theorem logRecord_bankA {d : Dev} (h : d.health.bankAOk = true) (r : Rec) :
    (d.logRecord r).health.bankA = bankPush d.health.bankA r := by
  unfold Dev.logRecord
  extract_lets h0 e
  have he : e.health.bankA = bankPush d.health.bankA r := if_pos h
  split
  · rw [(stage_only ..).same .health rfl, he]
  · exact he

/-- A record that HLP writes while the log takes it is the newest of the first bank, under its class, CODE and UNIT_ID. -/
theorem writeRecord_logged {d : Dev} (h : d.logs) (r : Rec) : (d.writeRecord r).logged r.cls r.code r.unit := by
  obtain ⟨hup, hlog, hbank⟩ := h
  have hone : ((d.oneCopy r).cls, (d.oneCopy r).code, (d.oneCopy r).unit) = (r.cls, r.code, r.unit) := by
    unfold Dev.oneCopy
    split <;> rfl
  have hlatch : ∀ (e : Dev) (x : Rec), (e.latchPush x).health.bankA = e.health.bankA := fun e x => by
    unfold Dev.latchPush
    split <;> rfl
  have hpost : ∀ (e : Dev) (x : Rec), (e.postEvent x).health = e.health := fun e x => (postEvent_only e x).same .health rfl
  have htaken : (d.takeRecord r).health.bankA = bankPush d.health.bankA (d.oneCopy r) := by
    simp only [Dev.takeRecord, hlog, decide_false, Bool.false_and, Bool.false_eq_true, if_false]
    repeat' split
    all_goals simp only [hpost, hlatch, logRecord_bankA hbank]
  rw [Dev.writeRecord, if_neg (by simp [hup]), Dev.logged, htaken, getLast?_bankPush]
  exact congrArg some hone

end Sys2Proof.Machine
end

section
/-! SUPPORT. Patrol scrub and soft repairs: a codeword corrected or poisoned, and the step to the next one (R279 to R282). -/

namespace Sys2Proof.Machine

/-- The codeword that patrol scrub reads next in a stack (R281). -/
def Dev.scrubWord (d : Dev) (s : Nat) : Nat := s * (stackSize / 64) + (d.stk s).offset.toNat / 64

/-- The codeword read and, by what its code finds, written back; a poisoned one is skipped (R279 to R281). -/
def Dev.scrubRead (d : Dev) (w : Nat) (found : EccFind) : Dev :=
  if d.mem.poison.contains w then d
  else match found with
    | .clean => d
    | .corrected => d.correctWord w
    | .uncorrectable => d.poisonWord w

/-- A stack's block once patrol scrub has read a codeword on a beat. -/
def Stk.scrubStep (t : Stk) (b : BitVec 52) : Stk :=
  { t with scrubBeat := b, offset := t.offset + 64, passes := if t.offset + 64 = 0 then satInc t.passes else t.passes }

/-- Patrol scrub reads at its interval, where the stack is in service and no wipe holds the codeword. -/
structure Dev.ScrubDue (d : Dev) (s : Nat) : Prop where
  active : (d.stk s).scrubActive = true
  inService : (d.stk s).lost = false
  interval : (d.stk s).interval.toNat ≤ d.since (d.stk s).scrubBeat
  free : d.wipeHolds (64 * d.scrubWord s) 64 = false

theorem patrolScrub_eq {d : Dev} {s : Fin 16} (h : d.ScrubDue s.val) (found : EccFind) :
    patrolScrub s found d =
      (d.scrubRead (d.scrubWord s.val) found).modStk s.val (fun t => t.scrubStep (d.scrubRead (d.scrubWord s.val) found).bt.beat) := by
  have hdue : (!(d.stk s.val).scrubActive || (d.stk s.val).lost ||
      decide (d.since (d.stk s.val).scrubBeat < (d.stk s.val).interval.toNat) || d.wipeHolds (64 * d.scrubWord s.val) 64) = false := by
    simp [h.active, h.inService, h.interval, h.free]
  exact if_neg (Bool.eq_false_iff.1 hdue)

/-- The codeword lies in its own stack. -/
theorem stackOfAddr_scrubWord (d : Dev) (s : Fin 16) : stackOfAddr (64 * d.scrubWord s.val) = s.val := by
  have hoff := (d.stk s.val).offset.isLt
  have hs := s.isLt
  have hlt : 64 * d.scrubWord s.val < stackEnd := by
    simp only [Dev.scrubWord, stackEnd, stackSize]
    omega
  rw [stackOfAddr, if_pos hlt, Dev.scrubWord, stackSize]
  omega

theorem contains_insertNat (l : List Nat) (x : Nat) : (insertNat l x).contains x = true := by
  induction l with
  | nil => simp [insertNat]
  | cons y l ih =>
    rw [insertNat]
    split
    next hxy => simp [hxy]
    · split
      · simp
      · simpa using Or.inr (by simpa using ih)

/-- A codeword of no shared region has no heal. -/
theorem queueHeal_of_unshared {d : Dev} {w : Nat} (h : d.sharedWord w = none) : d.queueHeal w = d := by
  simp [Dev.queueHeal, h]

@[simp] theorem writeRecord_stks (d : Dev) (r : Rec) : (d.writeRecord r).stks = d.stks := (writeRecord_only d r).same .stks rfl

theorem stk_of_stks {d e : Dev} (h : e.stks = d.stks) (s : Nat) : e.stk s = d.stk s := by
  simp [Dev.stk, h]

/-- A corrected codeword is counted in its stack, with its place and its row (R279, R282). -/
theorem stk_correctWord {d : Dev} {w s : Nat} (hw : stackOfAddr (64 * w) = s) (hs : s < d.stks.length) :
    (d.correctWord w).stk s = { (d.stk s).lastErr 1 (64 * w % stackSize) with
      ceCnt := satInc (d.stk s).ceCnt, weakRows := (d.stk s).weakRows ++ [(rowKey (64 * w % stackSize), d.bt.beat)] } := by
  rw [Dev.correctWord, stk_of_stks (writeRecord_stks ..), hw, stk_modStk_same _ _ hs]

/-- An uncorrectable codeword is poisoned, counted in its stack and recorded (R279). -/
theorem poisonWord_unshared {d : Dev} {w s : Nat} (hw : stackOfAddr (64 * w) = s) (hs : s < d.stks.length) (hshared : d.sharedWord w = none)
    (hlogs : d.logs) :
    ((d.poisonWord w).stk s).ueCnt = satInc (d.stk s).ueCnt ∧ ((d.poisonWord w).stk s).offset = (d.stk s).offset ∧
    (d.poisonWord w).mem = { d.mem with poison := insertNat d.mem.poison w } ∧ (d.poisonWord w).logged 4 0x1201 (sramUnit (64 * w)) := by
  unfold Dev.poisonWord
  extract_lets off m e marked
  have hstk : marked.stk s = { (d.stk s).lastErr 2 off with
      ueCnt := satInc (d.stk s).ueCnt
      poisonBeats := (d.stk s).poisonBeats.filter (fun b => (d.bt.beat - b).toNat < 1000) ++ [d.bt.beat] } := by
    simp only [marked, hw]
    exact stk_modStk_same e _ hs
  have hkept : (marked.writeRecord ((marked.mkRec 4 2 0x1201 (sramUnit (64 * w))).withAddr (64 * w))).sharedWord w = none := by
    have hregions := (writeRecord_only marked ((marked.mkRec 4 2 0x1201 (sramUnit (64 * w))).withAddr (64 * w))).same .shared rfl
    rw [Dev.sharedWord, hregions]
    exact hshared
  rw [queueHeal_of_unshared hkept, stk_of_stks (writeRecord_stks ..), writeRecord_mem, hstk]
  have hrec := writeRecord_logged (d := marked) hlogs ((marked.mkRec 4 2 0x1201 (sramUnit (64 * w))).withAddr (64 * w))
  exact ⟨rfl, rfl, rfl, hrec⟩

/-! ### Soft repairs (R282) -/

theorem softRepair_off {d : Dev} (s : Fin 16) (h : d.anyArmed = true ∨ d.runs 2 = false) : softRepair s d = d := by
  unfold softRepair
  split
  · rfl
  · exact if_pos (by simpa using h)

/-- A row that falls due takes a spare row of its bank, and its corrected codewords are forgotten. -/
theorem softRepair_eq {d : Dev} {s : Fin 16} {e : Nat × BitVec 52}
    (hrow : (d.stk s.val).weakRows.find? (fun e => 4 ≤ d.rowHits s.val e.1) = some e) (harmed : d.anyArmed = false)
    (hruns : d.runs 2 = true) (hfree : (d.stk s.val).rowsUsed (e.1 / 1024) < 64) :
    softRepair s d = { d.modStk s.val (fun t => { t with
      weakRows := t.weakRows.filter (fun x => x.1 != e.1)
      rowRepairs := satInc t.rowRepairs
      softRows := addRow t.softRows (e.1 / 1024) }) with
        health := { d.health with craterDirty := true } } := by
  unfold softRepair
  simp only [hrow, harmed, hruns, Nat.not_le.2 hfree, Bool.not_true, Bool.or_false, Bool.false_eq_true, if_false]

end Sys2Proof.Machine
end

section
/-! SUPPORT. The wipes (R291): what each reads afterwards, what it leaves alone, and the boot's wipe of a stack. -/

namespace Sys2Proof.Machine

/-! ### One range -/

/-- A wipe leaves every byte outside its span alone. -/
theorem memByte_memZero_ne {m : List Host.Cell} {a n x : Nat} (h : cellsWf m = true) (hx : x < a ∨ a + n ≤ x) :
    memByte (memZero m a n) x = memByte m x := by
  have hz := (cellsWf_iff_canon _).1 (memZero_keeps_wf a n h)
  refine memByte_of_mem_iff ((cellsWf_iff_canon _).1 h) hz fun v => ?_
  simp [memZero, List.mem_filter, hx]

theorem byteAt_of_mem {d e : Dev} (h : e.mem = d.mem) (a : Nat) : e.byteAt a = d.byteAt a := by
  simp [Dev.byteAt, h]

theorem byteAt_wipeRange {d : Dev} (h : d.mem.wf = true) (b n a : Nat) :
    (d.wipeRange b n).byteAt a = if b ≤ a ∧ a < b + n then 0 else d.byteAt a := by
  have hbytes : (d.wipeRange b n).mem.bytes = memZero d.mem.bytes b n := by simp [Dev.wipeRange]
  rw [Dev.byteAt, hbytes]
  split
  next hin => exact memByte_memZero h hin.1 hin.2
  next hout => exact memByte_memZero_ne h (by omega)

theorem mem_poison_wipeRange {d : Dev} {b n w : Nat} :
    w ∈ (d.wipeRange b n).mem.poison ↔ w ∈ d.mem.poison ∧ ¬(b ≤ 64 * w ∧ 64 * w + 64 ≤ b + n) := by
  simp only [Dev.wipeRange, dropLines_mem, List.mem_filter, Bool.not_eq_true', Bool.and_eq_false_iff, decide_eq_false_iff_not, not_and_or]

/-- The scratch of a site lies above the stacks, and a byte that reads 0 stays so. -/
theorem byteAt_wipeSite {d : Dev} (h : d.mem.wf = true) {a : Nat} (ha : a < stackEnd ∨ d.byteAt a = 0) (n : Nat) :
    (d.wipeSite n).byteAt a = d.byteAt a := by
  have hbase : stackEnd ≤ scratchBase n := by
    simp only [stackEnd, scratchBase]
    omega
  unfold Dev.wipeSite
  refine (byteAt_wipeRange ?_ ..).trans ?_
  · exact h
  · split
    next hin => exact (ha.resolve_left (by omega)).symm
    next => rfl

theorem not_mem_poison_wipeSite {d : Dev} {w : Nat} (h : w ∉ d.mem.poison) (n : Nat) : w ∉ (d.wipeSite n).mem.poison := fun hw =>
  h (mem_poison_wipeRange.1 hw).1

/-- A codeword that fails holds the bytes that it held. -/
theorem byteAt_wipeFailed (d : Dev) (w a : Nat) : (d.wipeFailed w).byteAt a = d.byteAt a := by
  simp [Dev.byteAt, Dev.wipeFailed]

/-! ### One stack -/

/-- The ranges that a stack's wipe covers. -/
def covers (ps : List RangeEnt) (a : Nat) : Bool := ps.any (fun q => decide (q.base ≤ a) && decide (a < q.base + q.len))

/-- The ranges of a stack wiped one after another. -/
def Dev.wipeParts (d : Dev) (ps : List RangeEnt) : Dev := ps.foldl (fun (d : Dev) r => d.wipeRange r.base r.len) d

/-- The accumulators and the scratch of a die's sites, where the wipe takes them. -/
def Dev.wipeSites (d : Dev) (s : Nat) (sites : Bool) : Dev :=
  if sites then (List.range 5).foldl (fun (d : Dev) p => d.wipeSite (5 * s + p)) d else d

theorem wipeParts_memWf {d : Dev} (h : d.mem.wf = true) (ps : List RangeEnt) : (d.wipeParts ps).mem.wf = true :=
  memWf_foldl (fun _ (r : RangeEnt) hd => wipeRange_memWf hd r.base r.len) ps h

theorem byteAt_wipeParts {d : Dev} (h : d.mem.wf = true) (ps : List RangeEnt) (a : Nat) :
    (d.wipeParts ps).byteAt a = if covers ps a then 0 else d.byteAt a := by
  induction ps generalizing d with
  | nil => rfl
  | cons q ps ih =>
    rw [Dev.wipeParts, List.foldl_cons, ← Dev.wipeParts, ih (wipeRange_memWf h ..), byteAt_wipeRange h]
    have hcons : covers (q :: ps) a = true ↔ (q.base ≤ a ∧ a < q.base + q.len) ∨ covers ps a = true := by simp [covers]
    by_cases hps : covers ps a = true
    · rw [if_pos hps, if_pos (hcons.2 (.inr hps))]
    · rw [if_neg hps]
      exact if_congr (by simp [hcons, hps]) rfl rfl

/-- A memory of canonical form with a given byte at an address. -/
def HoldsAt (a : Nat) (v : Byte) (d : Dev) : Prop := d.mem.wf = true ∧ d.byteAt a = v

theorem holdsAt_wipeSites {d : Dev} {a : Nat} {v : Byte} (ha : a < stackEnd ∨ v = 0) (h : HoldsAt a v d) (s : Nat) (sites : Bool) :
    HoldsAt a v (d.wipeSites s sites) := by
  unfold Dev.wipeSites
  split
  · exact List.foldlRecOn _ _ h fun e ⟨hwf, hv⟩ p _ =>
      ⟨wipeSite_memWf hwf _, (byteAt_wipeSite hwf (ha.imp_right hv.trans) _).trans hv⟩
  · exact h

/-- A stack's wipe reads 0 in its ranges and leaves the other bytes of the stacks, whatever codewords fail. -/
theorem byteAt_wipeStack {d : Dev} (h : d.mem.wf = true) {a : Nat} (s : Nat) {ps : List RangeEnt} (ha : a < stackEnd ∨ covers ps a = true)
    (sites : Bool) (bad : List (BitVec 25)) : (d.wipeStack s ps sites bad).byteAt a = if covers ps a then 0 else d.byteAt a := by
  have hsites := (holdsAt_wipeSites (ha.imp_right fun hc => if_pos hc) ⟨wipeParts_memWf h ps, byteAt_wipeParts h ps a⟩ s sites).2
  unfold Dev.wipeStack
  extract_lets _ e
  have he : e.byteAt a = if covers ps a then 0 else d.byteAt a := hsites
  split
  · refine List.foldlRecOn (motive := fun e : Dev => e.byteAt a = if covers ps a then 0 else d.byteAt a) bad _ he fun x hx b _ => ?_
    dsimp only
    split
    · exact (byteAt_wipeFailed ..).trans hx
    · exact hx
  · exact he

/-- A stack's wipe in which no codeword fails is that of its ranges and of its sites. -/
theorem wipeStack_nil (d : Dev) (s : Nat) (ps : List RangeEnt) (sites : Bool) :
    d.wipeStack s ps sites [] = (d.wipeParts ps).wipeSites s sites := by
  simp [Dev.wipeStack, Dev.wipeParts, Dev.wipeSites]

theorem wipeStack_nil_only (d : Dev) (s : Nat) (ps : List RangeEnt) (sites : Bool) :
    Only [.cqs, .mem, .dscs, .sites] d (d.wipeStack s ps sites []) := by
  have hparts : Only [.cqs, .mem, .dscs, .sites] d (d.wipeParts ps) :=
    Only.foldl (fun _ _ => Only.step (wipeRange_only ..) rfl (Only.refl ..)) ps (Only.refl ..)
  rw [wipeStack_nil, Dev.wipeSites]
  exact Only.ite (Only.foldl (fun _ _ => wipeSite_only ..) _ hparts) hparts

/-- A codeword of the wiped stack holds no poison where none fails. -/
theorem not_mem_poison_wipeStack (d : Dev) {s b n w : Nat} (hb : b ≤ 64 * w) (hn : 64 * w + 64 ≤ b + n) (sites : Bool) :
    w ∉ (d.wipeStack s [⟨b, n⟩] sites []).mem.poison := by
  have hpart : w ∉ (d.wipeParts [⟨b, n⟩]).mem.poison := fun hw => (mem_poison_wipeRange.1 hw).2 ⟨hb, hn⟩
  rw [wipeStack_nil, Dev.wipeSites]
  split
  · exact List.foldlRecOn (motive := fun e : Dev => w ∉ e.mem.poison) _ _ hpart fun e he p _ => not_mem_poison_wipeSite he _
  · exact hpart

/-! ### The boot's wipe -/

/-- The range that the boot wipes in a stack. -/
def stackPart (s : Nat) : RangeEnt := ⟨stackSize * s, stackSize⟩

theorem bootWipe_mem (d : Dev) (s : Nat) (bad : List (BitVec 25)) :
    (d.bootWipe s bad).mem = (d.wipeStack s [stackPart s] true bad).mem := by
  simp [Dev.bootWipe, stackPart]

theorem bootWipe_pwr (d : Dev) (s : Nat) (bad : List (BitVec 25)) :
    (d.bootWipe s bad).pwr =
      { d.pwr with wiped := d.pwr.wiped.set s true, phase := if (d.pwr.wiped.set s true).all id then .waitCfg else .wipe } := by
  have hpwr : (d.wipeStack s [stackPart s] true bad).pwr = d.pwr := (wipeStack_only ..).same .pwr rfl
  rw [Dev.bootWipe, (settleWipeBusy_only _).same .pwr rfl, ← stackPart, hpwr]

theorem byteAt_bootWipe {d : Dev} (h : d.mem.wf = true) {a : Nat} (ha : a < stackEnd) (s : Nat) (bad : List (BitVec 25)) :
    (d.bootWipe s bad).byteAt a = if s * stackSize ≤ a ∧ a < (s + 1) * stackSize then 0 else d.byteAt a := by
  have hcover : covers [stackPart s] a = true ↔ s * stackSize ≤ a ∧ a < (s + 1) * stackSize := by
    simp only [covers, stackPart, List.any_cons, List.any_nil, Bool.or_false, Bool.and_eq_true, decide_eq_true_eq]
    rw [Nat.mul_comm stackSize s, Nat.add_mul, Nat.one_mul]
  rw [byteAt_of_mem (bootWipe_mem ..), byteAt_wipeStack h s (.inl ha)]
  exact if_congr hcover rfl rfl

/-- The boot's wipe leaves no poison in a stack where no codeword fails. -/
theorem not_mem_poison_bootWipe (d : Dev) {s a : Nat} (hlo : s * stackSize ≤ a) (hhi : a < (s + 1) * stackSize) :
    a / 64 ∉ (d.bootWipe s []).mem.poison := by
  simp only [stackSize] at hlo hhi
  rw [bootWipe_mem]
  refine not_mem_poison_wipeStack d ?_ ?_ true <;> simp only [stackSize] <;> omega

theorem memoryWipe_boot {d : Dev} {s : Fin 16} (hphase : d.pwr.phase = .wipe) (hw : d.pwr.wiped.getD s.val false = false)
    (bad : List (BitVec 25)) : memoryWipe s bad d = d.bootWipe s.val bad := by
  simp only [memoryWipe, hphase, hw, beq_self_eq_true, if_true, Bool.false_eq_true, if_false]

/-! ### The last part of a wipe under way -/

theorem memoryWipe_idle {d : Dev} (s : Fin 16) (bad : List (BitVec 25)) (hphase : d.pwr.phase ≠ .wipe) (hw : d.wipes = []) :
    memoryWipe s bad d = d := by
  have hjob : d.jobWipe s.val bad = d := by simp [Dev.jobWipe, hw]
  simp only [memoryWipe, beq_iff_eq, if_neg hphase, hjob, Dev.settleWipes, hw]
  exact congrArg (fun l => { d with wipes := l }) hw.symm

/-- A wipe whose last ranges lie in one stack, once they are wiped: no wipe is left. -/
def Dev.lastPart (d : Dev) (s : Nat) (j : WipeJob) : Dev :=
  { ({ d.wipeStack s j.parts j.wipesSites [] with wipes := [⟨j.purpose, []⟩] }).settleWipeBusy with wipes := [] }

theorem lastPart_only (d : Dev) (s : Nat) (j : WipeJob) : Only [.cqs, .mem, .stks, .dscs, .sites, .wipes] d (d.lastPart s j) := by
  have hset : ∀ (x : Dev) (l : List WipeJob), Only [.wipes] x { x with wipes := l } := fun x l =>
    ⟨fun p hp => by cases p with | wipes => cases hp | _ => rfl⟩
  have hwiped := Only.step (wipeStack_nil_only d s j.parts j.wipesSites) rfl (Only.refl [.cqs, .mem, .stks, .dscs, .sites, .wipes] d)
  exact Only.step (hset ..) rfl (Only.step (settleWipeBusy_only _) rfl (Only.step (hset ..) rfl hwiped))

theorem byteAt_lastPart {d : Dev} (h : d.mem.wf = true) {a : Nat} (s : Nat) {j : WipeJob} (ha : covers j.parts a = true) :
    (d.lastPart s j).byteAt a = 0 := by
  have hmem : (d.lastPart s j).mem = (d.wipeStack s j.parts j.wipesSites []).mem := settleWipeBusy_mem _
  rw [byteAt_of_mem hmem, byteAt_wipeStack h s (.inr ha), if_pos ha]

/-- Where a wipe is the only one under way and all that is left of it lies in one stack, the wipe of the stack ends it (log entry 54). -/
theorem memoryWipe_last {d : Dev} {s : Fin 16} {p : WipeFor} {ps : List RangeEnt} (hphase : d.pwr.phase ≠ .wipe) (hw : d.wipes = [⟨p, ps⟩])
    (hmine : ps.all (fun q => stackOfAddr q.base == s.val) = true) (hne : ps ≠ []) :
    memoryWipe s [] d = (d.lastPart s.val ⟨p, ps⟩).endWipe ⟨p, []⟩ := by
  have hall : ps.filter (fun q => stackOfAddr q.base == s.val) = ps := List.filter_eq_self.2 (List.all_eq_true.1 hmine)
  have hnone : ps.filter (fun q => !(stackOfAddr q.base == s.val)) = [] :=
    List.filter_eq_nil_iff.2 fun q hq => by simp [List.all_eq_true.1 hmine q hq]
  have hany : ps.any (fun q => stackOfAddr q.base == s.val) = true := by
    obtain ⟨q, qs, rfl⟩ := List.exists_cons_of_ne_nil hne
    simp [List.all_eq_true.1 hmine q (by simp)]
  have hjob : d.jobWipe s.val [] =
      ({ d.wipeStack s.val ps (WipeJob.mk p ps).wipesSites [] with wipes := [⟨p, []⟩] }).settleWipeBusy := by
    have hkept : (d.wipeStack s.val ps (WipeJob.mk p ps).wipesSites []).wipes = [⟨p, ps⟩] := by
      rw [← hw]
      exact (wipeStack_nil_only ..).same .wipes rfl
    simp [Dev.jobWipe, hw, hall, hnone, hany, hne, hkept]
  have hwipes : (d.jobWipe s.val []).wipes = [⟨p, []⟩] := by
    rw [hjob]
    rfl
  simp only [memoryWipe, beq_iff_eq, if_neg hphase, Dev.settleWipes, hwipes]
  rw [hjob]
  rfl

end Sys2Proof.Machine
end

section
/-! SUPPORT. The end of a wipe: the request that waits for it is answered, and a life-cycle change is entered (R98, R99, R102, R405). -/

namespace Sys2Proof.Machine

theorem finishReq_dones (d : Dev) (r : Req) (result : Nat) (fields : List Byte) :
    (d.finishReq r result fields).dones = d.dones ++ executed r result fields := rfl

/-- The response with which the sessions end (R102). -/
theorem finishReq_dones_ends (d : Dev) (r : Req) (result : Nat) (fields : List Byte) :
    (d.finishReq r result fields true).dones = d.dones ++ (executed r result fields).map (fun x => { x with ends := true }) := rfl

/-- The wipe of a creation ends with the response of the request that waits for it. -/
theorem endWipe_create {d : Dev} {r : Req} (h : d.reqs.find? (fun r => r.op == 0x0400 && r.place == .executing) = some r) (n : Nat)
    (ps : List RangeEnt) : d.endWipe ⟨.create n, ps⟩ = d.finishReq r sOk [] := by
  simp only [Dev.endWipe, Dev.endRequest, h]

/-- The machine as the release of a tenancy leaves it, before its response (R82, R99). -/
def Dev.released (d : Dev) (n : Nat) : Dev :=
  { d with
    sec := { d.sec with
      tenancies := d.sec.tenancies.set (n - 1) none
      releasing := d.sec.releasing.filter (fun (k : Nat) => k != n) }
    plans := d.plans.filter (fun (p : Plan) => p.func != n) }

theorem endWipe_release {d : Dev} {n : Nat} {r : Req}
    (h : d.reqs.find? (fun r => r.op == 0x0401 && r.place == .executing && fieldLE (mPayload r.msg) 0 1 == n) = some r)
    (ps : List RangeEnt) : d.endWipe ⟨.release n, ps⟩ = (d.released n).finishReq r sOk [] := by
  simp only [Dev.endWipe, Dev.endRelease, h, Dev.released]

theorem released_tenancy (d : Dev) (n : Nat) : (d.released n).sec.tenancies.getD (n - 1) none = none := by
  simp only [Dev.released, List.getD_eq_getElem?_getD, List.getElem?_set_self']
  cases d.sec.tenancies[n - 1]? <;> rfl

theorem released_releasing (d : Dev) (n : Nat) : (d.released n).sec.releasing.contains n = false := by
  simp [Dev.released]

/-- The machine as a life-cycle change leaves it, before its response (R392, R405). -/
def Dev.entered (d : Dev) (t : BitVec 2) : Dev := { d with sec := d.sec.enter t, trc := { d.trc with staged := [], lostRun := none } }

theorem endWipe_lifecycle {d : Dev} {t : BitVec 2} {r : Req} (h : d.reqs.find? (fun r => r.op == 0x0410 && r.place == .executing) = some r)
    (ps : List RangeEnt) : d.endWipe ⟨.lifecycle t, ps⟩ = (d.entered t).finishReq r sOk [] true := by
  simp only [Dev.endWipe, Dev.endLifecycle, h, Dev.entered]

/-- LC_STATE by the three pairs of fuses. -/
theorem lcState_eq {s : Sec} {f0 f1 f2 : Bool × Bool} (h : s.lcFuses = [f0, f1, f2]) :
    s.lcState = if f2.1 || f2.2 then 3 else if f1.1 || f1.2 then 2 else if f0.1 || f0.2 then 1 else 0 := by
  simp [Sec.lcState, h]

/-- Once both fuses of a higher state are blown the device is in that state (R405). -/
theorem lcState_enter {s : Sec} {t : BitVec 2} (hlen : s.lcFuses.length = 3) (ht : s.lcState.toNat < t.toNat) :
    (s.enter t).lcState = t := by
  obtain ⟨f0, f1, f2, hf⟩ := List.length_eq_three.1 hlen
  rw [lcState_eq hf] at ht
  have hset : (s.enter t).lcFuses = [f0, f1, f2].set (t.toNat - 1) (true, true) := by rw [← hf]; rfl
  have hcases : ∀ t : BitVec 2, t = 0 ∨ t = 1 ∨ t = 2 ∨ t = 3 := by decide
  rcases hcases t with rfl | rfl | rfl | rfl
  · simp at ht
  · rw [lcState_eq hset]
    revert ht
    repeat' split
    all_goals simp_all
  · rw [lcState_eq hset]
    revert ht
    repeat' split
    all_goals simp_all
  · rw [lcState_eq hset]
    rfl

end Sys2Proof.Machine
end

section
/-! SUPPORT. STK_REPAIR (R282): where it lies, what its fields say, and what each of its operations does to a stack's block. -/

namespace Sys2Proof.Machine

/-! ### The register -/

theorem blockOf_repairOff (s : Fin 16) : blockOf (repairOff s) = some (.stk s.val) := by
  obtain ⟨s, hs⟩ := s
  have hk : repairOff ⟨s, hs⟩ / 0x1000 = 0x10 + s := by
    simp only [repairOff]
    omega
  have hlow : ¬ 0x10 + s < 12 := by omega
  have hin : 0x10 ≤ 0x10 + s ∧ 0x10 + s < 0x20 := by omega
  simp [blockOf, hk, hlow, hin]

theorem pathWrite_repair {d : Dev} {path : RegPath} {s : Fin 16} (hp : d.pathOpen path = true) (hspi : path ≠ .spi)
    (hup : d.blockUp (.stk s.val) = true) (ho : d.repairOpen path = true) (v : BitVec 64) :
    d.pathWrite path (repairOff s) v = d.writeRepair s.val v := by
  have hoff : repairOff s % 0x1000 = 0x38 := by
    simp only [repairOff]
    omega
  rw [Dev.pathWrite, if_neg hspi, spaceWrite_whole hp v (blockOf_repairOff s) hup, hoff]
  exact if_pos ho

/-! ### Its fields -/

section
variable {op : Nat} (hop : op < 8) (die : Fin 2) (bank : Fin 128) (row : Fin 1024)

theorem toNat_repairValue (h : op < 8) :
    (repairValue op die bank row).toNat = 2 ^ 63 + op * 2 ^ 60 + die.val * 2 ^ 48 + bank.val * 2 ^ 40 + row.val * 2 ^ 30 := by
  rw [repairValue, BitVec.toNat_ofNat]
  omega

include hop

theorem repairValue_op : bitsOf (repairValue op die bank row).toNat 62 60 = op := by
  rw [toNat_repairValue die bank row hop, bitsOf, Nat.shiftRight_eq_div_pow]
  omega

theorem repairValue_die : bitsOf (repairValue op die bank row).toNat 48 48 = die.val := by
  rw [toNat_repairValue die bank row hop, bitsOf, Nat.shiftRight_eq_div_pow]
  omega

theorem repairValue_bank : bitsOf (repairValue op die bank row).toNat 46 40 = bank.val := by
  rw [toNat_repairValue die bank row hop, bitsOf, Nat.shiftRight_eq_div_pow]
  omega

theorem repairValue_row : bitsOf (repairValue op die bank row).toNat 39 30 = row.val := by
  rw [toNat_repairValue die bank row hop, bitsOf, Nat.shiftRight_eq_div_pow]
  omega

theorem repairValue_go : (repairValue op die bank row).getLsbD 63 = true := by
  rw [BitVec.getLsbD, toNat_repairValue die bank row hop, Nat.testBit_eq_decide_div_mod_eq]
  simp only [decide_eq_true_eq]
  omega

end

/-! ### A stack's block -/

theorem modStk_modStk (d : Dev) (s : Nat) (f g : Stk → Stk) : (d.modStk s f).modStk s g = d.modStk s (fun t => g (f t)) := by
  simp only [Dev.modStk, List.modify_modify_eq]
  rfl

/-- An update of a stack's block puts one block in its place. -/
theorem modStk_eq_put (d : Dev) (s : Nat) (f : Stk → Stk) : d.modStk s f = d.modStk s (fun _ => f (d.stk s)) := by
  have hstks : d.stks.modify s f = d.stks.modify s (fun _ => f (d.stk s)) := by
    refine List.ext_getElem? fun i => ?_
    rw [List.getElem?_modify, List.getElem?_modify]
    split
    next hi =>
      subst hi
      cases hd : d.stks[s]? <;> simp [Dev.stk, hd]
    next => rfl
  rw [Dev.modStk, hstks, Dev.modStk]

/-- The fields that a write of STK_REPAIR leaves in the block. -/
def Stk.named (t : Stk) (op : Nat) (die : Fin 2) (bank : Fin 128) (row : Fin 1024) : Stk :=
  { t with repOp := BitVec.ofNat 3 op, repDie := BitVec.ofNat 1 die, repBank := BitVec.ofNat 7 bank, repRow := BitVec.ofNat 10 row }

/-- A spare row of a bank is fused, or none is left (R282). -/
def Stk.takeRow (t : Stk) (bank : Nat) : Stk :=
  if 64 ≤ t.rowsUsed bank then { t with repData := 2 } else { t with repData := 1, fusedRows := addRow t.fusedRows bank }

/-- A spare bank of a die is taken, or none is left (R282). -/
def Stk.takeBank (t : Stk) (die : Nat) : Stk :=
  if die = 0 then
    (if t.spareBanksLo.toNat < 8 then { t with repData := 1, spareBanksLo := t.spareBanksLo + 1 } else { t with repData := 2 })
  else if t.spareBanksHi.toNat < 8 then { t with repData := 1, spareBanksHi := t.spareBanksHi + 1 }
  else { t with repData := 2 }

section
variable (d : Dev) (s : Nat) (die : Fin 2) (bank : Fin 128) (row : Fin 1024)

theorem writeRepair_row : d.writeRepair s (repairValue 1 die bank row) =
    d.modStk s (fun t => (t.named 1 die bank row).takeRow (128 * die.val + bank.val)) := by
  simp only [Dev.writeRepair, repairValue_op (show 1 < 8 by omega), repairValue_die (show 1 < 8 by omega),
    repairValue_bank (show 1 < 8 by omega), repairValue_row (show 1 < 8 by omega), repairValue_go (show 1 < 8 by omega), Bool.not_true,
    Bool.false_eq_true, if_false, modStk_modStk]
  rfl

theorem writeRepair_bank : d.writeRepair s (repairValue 2 die bank row) =
    d.modStk s (fun t => (t.named 2 die bank row).takeBank die.val) := by
  simp only [Dev.writeRepair, repairValue_op (show 2 < 8 by omega), repairValue_die (show 2 < 8 by omega),
    repairValue_bank (show 2 < 8 by omega), repairValue_row (show 2 < 8 by omega), repairValue_go (show 2 < 8 by omega), Bool.not_true,
    Bool.false_eq_true, if_false, modStk_modStk]
  rfl

/-- The codeword that a raw read gives is open: it is drawn. -/
theorem writeRepair_raw : d.writeRepair s (repairValue 3 die bank row) =
    { d.modStk s (fun t => { t.named 3 die bank row with repData := Config.rawWord d.free }) with free := d.free + 1 } := by
  simp only [Dev.writeRepair, repairValue_op (show 3 < 8 by omega), repairValue_die (show 3 < 8 by omega),
    repairValue_bank (show 3 < 8 by omega), repairValue_row (show 3 < 8 by omega), repairValue_go (show 3 < 8 by omega), Bool.not_true,
    Bool.false_eq_true, if_false]
  exact congrArg (fun e : Dev => { e with free := d.free + 1 }) (modStk_modStk ..)

end

/-- The spare rows that a table has for a bank. -/
def rowsOf (l : List (Nat × Nat)) (bank : Nat) : Nat := ((l.find? (fun e => e.1 == bank)).map (·.2)).getD 0

theorem rowsUsed_eq (t : Stk) (bank : Nat) : t.rowsUsed bank = rowsOf t.fusedRows bank + rowsOf t.softRows bank := rfl

theorem rowsOf_addRow (l : List (Nat × Nat)) (bank : Nat) : rowsOf (addRow l bank) bank = rowsOf l bank + 1 := by
  induction l with
  | nil => simp [addRow, rowsOf]
  | cons e l ih =>
    obtain ⟨k, n⟩ := e
    by_cases hk : k = bank
    · simp [addRow, rowsOf, hk]
    · simpa [addRow, rowsOf, hk] using ih

theorem takeRow_free {t : Stk} {bank : Nat} (h : t.rowsUsed bank < 64) :
    t.takeRow bank = { t with repData := 1, fusedRows := addRow t.fusedRows bank } := if_neg (Nat.not_le.2 h)

theorem takeRow_full {t : Stk} {bank : Nat} (h : 64 ≤ t.rowsUsed bank) : t.takeRow bank = { t with repData := 2 } := if_pos h

theorem takeBank_lo {t : Stk} (h : t.spareBanksLo.toNat < 8) :
    t.takeBank 0 = { t with repData := 1, spareBanksLo := t.spareBanksLo + 1 } := (if_pos rfl).trans (if_pos h)

theorem takeBank_hi_full {t : Stk} (h : 8 ≤ t.spareBanksHi.toNat) : t.takeBank 1 = { t with repData := 2 } :=
  (if_neg (by decide)).trans (if_neg (Nat.not_lt.2 h))

/-! ### The commands -/

section
variable {d : Dev} {path : RegPath} {s : Fin 16} (hp : d.pathOpen path = true) (hspi : path ≠ .spi) (hup : d.blockUp (.stk s.val) = true)
  (ho : d.repairOpen path = true) (die : Fin 2) (bank : Fin 128) (row : Fin 1024)
include hp hspi hup ho

theorem fuseSpareRow_eq_put : fuseSpareRow path s die bank row d =
    d.modStk s.val (fun _ => ((d.stk s.val).named 1 die bank row).takeRow (128 * die.val + bank.val)) := by
  rw [fuseSpareRow, pathWrite_repair hp hspi hup ho, writeRepair_row, modStk_eq_put]

theorem fuseSpareBank_eq_put : fuseSpareBank path s die bank row d =
    d.modStk s.val (fun _ => ((d.stk s.val).named 2 die bank row).takeBank die.val) := by
  rw [fuseSpareBank, pathWrite_repair hp hspi hup ho, writeRepair_bank, modStk_eq_put]

theorem rawRead_eq_put : rawRead path s die bank row d =
    { d.modStk s.val (fun _ => { (d.stk s.val).named 3 die bank row with repData := Config.rawWord d.free }) with free := d.free + 1 } := by
  rw [rawRead, pathWrite_repair hp hspi hup ho, writeRepair_raw, modStk_eq_put]

end

/-- A block put in a stack's place is the stack's block. -/
theorem stk_of_put {d e : Dev} {s : Nat} {t : Stk} (h : e = d.modStk s (fun _ => t)) (hs : s < d.stks.length) : e.stk s = t := by
  rw [h, stk_modStk_same _ _ hs]

end Sys2Proof.Machine
end

section
/-! PROOF. Scrub, repair and wipe of the stacks (R279 to R282, R291): the clauses of O46, one lemma per command and outcome. -/

namespace Sys2Proof.Machine

/-! ### Patrol scrub -/

theorem stks_length_of_sizes {d e : Dev} (h : e.sizes = d.sizes) : e.stks.length = d.stks.length :=
  Option.some.inj (congrArg (fun l => l[5]?) h)

/-- A clean or a poisoned codeword moves the offset on and nothing else. -/
theorem patrolScrub_skip {d : Dev} {s : Fin 16} {found : EccFind} (h : d.ScrubDue s.val)
    (hskip : found = .clean ∨ d.mem.poison.contains (d.scrubWord s.val) = true) :
    patrolScrub s found d = d.modStk s.val (fun t => t.scrubStep d.bt.beat) := by
  have hread : d.scrubRead (d.scrubWord s.val) found = d := by
    unfold Dev.scrubRead
    split
    · rfl
    next hclean =>
      obtain rfl := hskip.resolve_right hclean
      rfl
  rw [patrolScrub_eq h, hread]

/-- A correctable codeword is counted and memory stays (R279). -/
theorem patrolScrub_corrected {d : Dev} {s : Fin 16} (h : d.ScrubDue s.val) (hs : s.val < d.stks.length)
    (hclean : d.mem.poison.contains (d.scrubWord s.val) = false) :
    ∃ b, (patrolScrub s .corrected d).stk s.val = ({ (d.stk s.val).lastErr 1 (64 * d.scrubWord s.val % stackSize) with
        ceCnt := satInc (d.stk s.val).ceCnt
        weakRows := (d.stk s.val).weakRows ++ [(rowKey (64 * d.scrubWord s.val % stackSize), d.bt.beat)] } : Stk).scrubStep b ∧
      (patrolScrub s .corrected d).mem = d.mem := by
  have hread : d.scrubRead (d.scrubWord s.val) .corrected = d.correctWord (d.scrubWord s.val) := if_neg (Bool.eq_false_iff.1 hclean)
  have hlen : s.val < (d.correctWord (d.scrubWord s.val)).stks.length := by rwa [stks_length_of_sizes (correctWord_sizes ..)]
  refine ⟨(d.correctWord (d.scrubWord s.val)).bt.beat, ?_, ?_⟩
  · rw [patrolScrub_eq h, hread, stk_modStk_same _ _ hlen, stk_correctWord (stackOfAddr_scrubWord d s) hs]
  · rw [patrolScrub_eq h, hread, modStk_mem, correctWord_mem]

theorem patrolScrub_uncorrectable {d : Dev} {s : Fin 16} (h : d.ScrubDue s.val) (hs : s.val < d.stks.length)
    (hclean : d.mem.poison.contains (d.scrubWord s.val) = false) (hshared : d.sharedWord (d.scrubWord s.val) = none) (hlogs : d.logs) :
    ((patrolScrub s .uncorrectable d).stk s.val).ueCnt = satInc (d.stk s.val).ueCnt ∧
    (patrolScrub s .uncorrectable d).mem.poison.contains (d.scrubWord s.val) = true ∧
    (patrolScrub s .uncorrectable d).mem.bytes = d.mem.bytes ∧
    (patrolScrub s .uncorrectable d).logged 4 0x1201 (sramUnit (64 * d.scrubWord s.val)) ∧
    ((patrolScrub s .uncorrectable d).stk s.val).offset = (d.stk s.val).offset + 64 := by
  have hread : d.scrubRead (d.scrubWord s.val) .uncorrectable = d.poisonWord (d.scrubWord s.val) := if_neg (Bool.eq_false_iff.1 hclean)
  have hlen : s.val < (d.poisonWord (d.scrubWord s.val)).stks.length := by rwa [stks_length_of_sizes (poisonWord_sizes ..)]
  obtain ⟨hcount, hoffset, hmem, hrec⟩ := poisonWord_unshared (stackOfAddr_scrubWord d s) hs hshared hlogs
  rw [patrolScrub_eq h, hread, stk_modStk_same _ _ hlen, modStk_mem, hmem]
  exact ⟨hcount, contains_insertNat .., rfl, hrec, congrArg (· + 64) hoffset⟩

/-! ### The last part of a wipe -/

theorem covers_ne_nil {ps : List RangeEnt} {a : Nat} (h : covers ps a = true) : ps ≠ [] := by
  rintro rfl
  cases h

theorem byteAt_endWipe (d : Dev) (j : WipeJob) (a : Nat) : (d.endWipe j).byteAt a = d.byteAt a :=
  byteAt_of_mem ((endWipe_only d j).same .mem rfl) a

/-- The last part of any wipe reads 0 and leaves no wipe. -/
theorem memoryWipe_last_reads {d : Dev} {s : Fin 16} {p : WipeFor} {ps : List RangeEnt} {a : Nat} (hphase : d.pwr.phase ≠ .wipe)
    (hw : d.wipes = [⟨p, ps⟩]) (hmine : ps.all (fun q => stackOfAddr q.base == s.val) = true) (ha : covers ps a = true)
    (hwf : d.mem.wf = true) : (memoryWipe s [] d).byteAt a = 0 ∧ (memoryWipe s [] d).wipes = [] := by
  rw [memoryWipe_last hphase hw hmine (covers_ne_nil ha)]
  exact ⟨(byteAt_endWipe ..).trans (byteAt_lastPart hwf s.val ha), (endWipe_only ..).same .wipes rfl⟩

section
variable {d : Dev} {s : Fin 16} {ps : List RangeEnt} {r : Req} (hphase : d.pwr.phase ≠ .wipe)
  (hmine : ps.all (fun q => stackOfAddr q.base == s.val) = true) (hne : ps ≠ [])
include hphase hmine hne

theorem memoryWipe_create {n : Nat} (hw : d.wipes = [⟨.create n, ps⟩])
    (h : d.reqs.find? (fun r => r.op == 0x0400 && r.place == .executing) = some r) :
    memoryWipe s [] d = (d.lastPart s.val ⟨.create n, ps⟩).finishReq r sOk [] := by
  have hreqs : (d.lastPart s.val ⟨.create n, ps⟩).reqs = d.reqs := (lastPart_only ..).same .reqs rfl
  rw [memoryWipe_last hphase hw hmine hne, endWipe_create (by rwa [hreqs])]

theorem memoryWipe_release {n : Nat} (hw : d.wipes = [⟨.release n, ps⟩])
    (h : d.reqs.find? (fun r => r.op == 0x0401 && r.place == .executing && fieldLE (mPayload r.msg) 0 1 == n) = some r) :
    memoryWipe s [] d = ((d.lastPart s.val ⟨.release n, ps⟩).released n).finishReq r sOk [] := by
  have hreqs : (d.lastPart s.val ⟨.release n, ps⟩).reqs = d.reqs := (lastPart_only ..).same .reqs rfl
  rw [memoryWipe_last hphase hw hmine hne, endWipe_release (by rwa [hreqs])]

theorem memoryWipe_lifecycle {t : BitVec 2} (hw : d.wipes = [⟨.lifecycle t, ps⟩])
    (h : d.reqs.find? (fun r => r.op == 0x0410 && r.place == .executing) = some r) :
    memoryWipe s [] d = ((d.lastPart s.val ⟨.lifecycle t, ps⟩).entered t).finishReq r sOk [] true := by
  have hreqs : (d.lastPart s.val ⟨.lifecycle t, ps⟩).reqs = d.reqs := (lastPart_only ..).same .reqs rfl
  rw [memoryWipe_last hphase hw hmine hne, endWipe_lifecycle (by rwa [hreqs])]

end

/-! ### The obligation -/

/-- Settles O46: scrub by what its codeword holds, soft repair, the boot's wipe, the end of a wipe by its purpose, and STK_REPAIR by its
operation. -/
theorem stacksAreScrubbedRepairedAndWiped : Obligations.StacksAreScrubbedRepairedAndWiped := by
  unfold Obligations.StacksAreScrubbedRepairedAndWiped
  refine ⟨?_, ?_, ?_, ?_, ?_, ?_, ?_, ?_, ?_, ?_, ?_, ?_, ?_, ?_, ?_, ?_⟩
  case refine_1 =>
    intro s s16 found hact hlost hint _ hfree hskip
    exact completes_of_run rfl (patrolScrub_skip ⟨hact, hlost, hint, hfree⟩ hskip)
  case refine_2 =>
    intro s s16 hact hlost hint hs hfree hclean
    obtain ⟨b, hstk, hmem⟩ := patrolScrub_corrected ⟨hact, hlost, hint, hfree⟩ hs hclean
    refine completes_of_run rfl ?_
    rw [hstk]
    exact ⟨rfl, rfl, rfl, rfl, rfl, hmem⟩
  case refine_3 =>
    intro s s16 hact hlost hint hs hfree hclean hshared hlogs
    exact completes_of_run rfl (patrolScrub_uncorrectable ⟨hact, hlost, hint, hfree⟩ hs hclean hshared hlogs)
  case refine_4 =>
    intro s s16 e hrow harmed hruns hfree hs
    refine completes_of_run rfl ?_
    have hstk : (softRepair s16 s.dev).stk s16.val = _ := (congrArg (fun d => d.stk s16.val) (softRepair_eq hrow harmed hruns hfree)).trans
      (stk_modStk_same _ _ hs)
    rw [hstk, softRepair_eq hrow harmed hruns hfree]
    exact ⟨rfl, rfl, rfl, rfl⟩
  case refine_5 =>
    intro s s16 hoff
    exact completes_of_run rfl (softRepair_off s16 hoff)
  case refine_6 =>
    intro s s16 bad a hphase hw hwf hlo hhi hlen
    have hend : a < stackEnd := by
      have hs := s16.isLt
      simp only [stackEnd, stackSize] at *
      omega
    refine completes_of_run rfl ?_
    rw [memoryWipe_boot hphase hw, byteAt_bootWipe hwf hend, if_pos ⟨hlo, hhi⟩, bootWipe_pwr]
    refine ⟨rfl, ?_, ?_, ?_⟩
    · simp [hlen]
    · dsimp only
      split
      · exact .inr rfl
      · exact .inl rfl
    · rintro rfl
      simpa using not_mem_poison_bootWipe s.dev hlo hhi
  case refine_7 =>
    intro s s16 bad a hphase hw hwf hend hout
    refine completes_of_run rfl ?_
    rw [memoryWipe_boot hphase hw, byteAt_bootWipe hwf hend, if_neg (by omega)]
  case refine_8 =>
    intro s s16 n a ps r hphase hw hmine ha hwf hreq
    obtain ⟨hbyte, hwipes⟩ := memoryWipe_last_reads hphase hw hmine ha hwf
    have hkept := lastPart_only s.dev s16.val ⟨.create n, ps⟩
    refine completes_of_run rfl ⟨hbyte, hwipes, ?_⟩
    rw [memoryWipe_create hphase hmine (covers_ne_nil ha) hw hreq, finishReq_dones, hkept.same .dones rfl]
  case refine_9 =>
    intro s s16 n a ps r hphase hw hmine ha hwf hreq
    obtain ⟨hbyte, hwipes⟩ := memoryWipe_last_reads hphase hw hmine ha hwf
    have hkept := lastPart_only s.dev s16.val ⟨.release n, ps⟩
    refine completes_of_run rfl ⟨hbyte, hwipes, ?_⟩
    rw [memoryWipe_release hphase hmine (covers_ne_nil ha) hw hreq]
    refine ⟨released_tenancy .., released_releasing .., ?_, ?_⟩
    · exact congrArg (List.filter _) (hkept.same .plans rfl)
    · exact congrArg (· ++ executed r sOk []) (hkept.same .dones rfl)
  case refine_10 =>
    intro s s16 t a ps r hphase hw hmine ha hwf hlen ht hreq
    obtain ⟨hbyte, hwipes⟩ := memoryWipe_last_reads hphase hw hmine ha hwf
    have hkept := lastPart_only s.dev s16.val ⟨.lifecycle t, ps⟩
    have hend := memoryWipe_lifecycle hphase hmine (covers_ne_nil ha) hw hreq
    have hsec : (memoryWipe s16 [] s.dev).sec = s.dev.sec.enter t := by
      rw [hend]
      exact congrArg (fun c : Sec => c.enter t) (hkept.same .sec rfl)
    refine completes_of_run rfl ⟨hbyte, hwipes, ?_⟩
    rw [hsec, hend]
    refine ⟨lcState_enter hlen ht, rfl, hkept.same .chans rfl, rfl, fun h3 => if_pos h3, ?_⟩
    rw [finishReq_dones_ends]
    exact congrArg (· ++ _) (hkept.same .dones rfl)
  case refine_11 =>
    intro s s16 bad hphase hw
    refine completes_of_run rfl ?_
    rw [memoryWipe_idle s16 bad hphase hw]
    exact ⟨rfl, rfl, rfl⟩
  case refine_12 =>
    intro s path s16 die bank row hp hspi hup ho hs hfree
    have hput := fuseSpareRow_eq_put hp hspi hup ho die bank row
    rw [takeRow_free (t := (s.dev.stk s16.val).named 1 die bank row) hfree] at hput
    refine completes_of_run rfl ?_
    rw [stk_of_put hput hs, rowsUsed_eq, rowsUsed_eq, Nat.add_right_comm]
    exact ⟨rfl, congrArg (· + _) (rowsOf_addRow ..), rfl, hput⟩
  case refine_13 =>
    intro s path s16 die bank row hp hspi hup ho hs hfull
    have hput := fuseSpareRow_eq_put hp hspi hup ho die bank row
    rw [takeRow_full (t := (s.dev.stk s16.val).named 1 die bank row) hfull] at hput
    refine completes_of_run rfl ?_
    rw [stk_of_put hput hs]
    exact ⟨rfl, rfl, rfl⟩
  case refine_14 =>
    rintro s path s16 _ bank row hp hspi hup ho hs rfl hfree
    have hput := fuseSpareBank_eq_put hp hspi hup ho 0 bank row
    rw [Fin.val_zero, takeBank_lo (t := (s.dev.stk s16.val).named 2 0 bank row) hfree] at hput
    refine completes_of_run rfl ?_
    rw [stk_of_put hput hs]
    exact ⟨rfl, rfl, rfl⟩
  case refine_15 =>
    rintro s path s16 _ bank row hp hspi hup ho hs rfl hfull
    have hput := fuseSpareBank_eq_put hp hspi hup ho 1 bank row
    rw [Fin.val_one, takeBank_hi_full (t := (s.dev.stk s16.val).named 2 1 bank row) hfull] at hput
    refine completes_of_run rfl ?_
    rw [stk_of_put hput hs]
    exact ⟨rfl, rfl, rfl⟩
  case refine_16 =>
    intro s path s16 die bank row hp hspi hup ho hs
    have hput := rawRead_eq_put hp hspi hup ho die bank row
    have hstk := (congrArg (fun d => d.stk s16.val) hput).trans (stk_modStk_same _ _ hs)
    refine completes_of_run rfl ?_
    rw [hstk]
    exact ⟨rfl, rfl, rfl, hput⟩

end Sys2Proof.Machine
end

section
/-! SUPPORT. The fuses (R399, R403, R405): one lemma per operation that can change the security state, `<operation>_fuses`, says that it
leaves what is blown into fuses as it was. -/

namespace Sys2Proof.Machine

/-- What a security state holds in fuses. -/
def Sec.fuses (s : Sec) : Fuses := ⟨s.lcState, s.minEpoch, s.key0Revoked⟩

theorem fuses_of_only {m : List Part} {d e : Dev} (h : Only m d e) (hm : m.contains .sec = false) : e.sec.fuses = d.sec.fuses :=
  congrArg Sec.fuses (h.same .sec hm)

/-- What every step of a fold leaves as it was, the fold leaves. -/
theorem view_foldl {α β : Type} (view : Dev → β) {f : Dev → α → Dev} (hf : ∀ d a, view (f d a) = view d) (l : List α) (d : Dev) :
    view (l.foldl f d) = view d := by
  induction l generalizing d with
  | nil => rfl
  | cons a l ih => exact (ih _).trans (hf d a)

@[simp] theorem fuses_foldl {α : Type} {f : Dev → α → Dev} (hf : ∀ d a, (f d a).sec.fuses = d.sec.fuses) (l : List α) (d : Dev) :
    (l.foldl f d).sec.fuses = d.sec.fuses := view_foldl (fun d => d.sec.fuses) hf l d

/-! ### Operations that leave the security state as it was -/

@[simp] theorem finishReq_sec (d : Dev) (r : Req) (result : Nat) (fields : List Byte) (ends : Bool) :
    (d.finishReq r result fields ends).sec = d.sec :=
    (finishReq_only d r result fields ends).same .sec rfl
@[simp] theorem rejectReq_sec (d : Dev) (r : Req) (status : Nat) : (d.rejectReq r status).sec = d.sec := (rejectReq_only ..).same .sec rfl
@[simp] theorem resetChan_sec (d : Dev) (c : Nat) : (d.resetChan c).sec = d.sec := (resetChan_only ..).same .sec rfl
@[simp] theorem discardReqs_sec (d : Dev) (c : Nat) : (d.discardReqs c).sec = d.sec := (discardReqs_only ..).same .sec rfl
@[simp] theorem wipeOwned_sec (d : Dev) (t : Tenancy) : (d.wipeOwned t).sec = d.sec := (wipeOwned_only ..).same .sec rfl
@[simp] theorem beginWipe_sec (d : Dev) (purpose : WipeFor) (rs : List RangeEnt) : (d.beginWipe purpose rs).sec = d.sec :=
    (beginWipe_only ..).same .sec rfl
@[simp] theorem releaseSite_sec (d : Dev) (c : Nat) : (d.releaseSite c).sec = d.sec := (releaseSite_only ..).same .sec rfl
@[simp] theorem dropSolve_sec (d : Dev) (j : SolveJob) : (d.dropSolve j).sec = d.sec := (dropSolve_only ..).same .sec rfl
@[simp] theorem dropRecvs_sec (d : Dev) (h : BitVec 16) : (d.dropRecvs h).sec = d.sec := (dropRecvs_only ..).same .sec rfl
@[simp] theorem dropSends_sec (d : Dev) (h : BitVec 16) : (d.dropSends h).sec = d.sec := (dropSends_only ..).same .sec rfl
@[simp] theorem settleHeld_sec (d : Dev) : d.settleHeld.sec = d.sec := (settleHeld_only ..).same .sec rfl
@[simp] theorem discardChunk_sec (d : Dev) (p : Plan) (c : Nat) : (d.discardChunk p c).sec = d.sec := (discardChunk_only ..).same .sec rfl
@[simp] theorem missAll_sec (h : BitVec 16) (n : Nat) (d : Dev) : (Dev.missAll h n d).sec = d.sec := (missAll_only ..).same .sec rfl
@[simp] theorem commitPend_sec (d : Dev) (c : Nat) : (d.commitPend c).sec = d.sec := (commitPend_only ..).same .sec rfl
@[simp] theorem commitRecords_sec (d : Dev) (site : Nat) : (d.commitRecords site).sec = d.sec := (commitRecords_only ..).same .sec rfl
@[simp] theorem commitAtom_sec (d : Dev) (p : Plan) (c site : Nat) (e : AtomEnt) : (d.commitAtom p c site e).sec = d.sec :=
    (commitAtom_only ..).same .sec rfl
@[simp] theorem noteExports_sec (d : Dev) (p : Plan) (c : Nat) (records : List (Nat × Nat)) : (d.noteExports p c records).sec = d.sec :=
    (noteExports_only ..).same .sec rfl
@[simp] theorem postSends_sec (d : Dev) (p : Plan) (c : Nat) : (d.postSends p c).sec = d.sec := (postSends_only ..).same .sec rfl
@[simp] theorem postColls_sec (d : Dev) (p : Plan) (c : Nat) : (d.postColls p c).sec = d.sec := (postColls_only ..).same .sec rfl
@[simp] theorem submitSolves_sec (d : Dev) (p : Plan) (c : Nat) : (d.submitSolves p c).sec = d.sec := (submitSolves_only ..).same .sec rfl
@[simp] theorem stageAll_sec (d : Dev) (h : BitVec 16) (func : Nat) (l : List (Option (BitVec 16) × Bool × List Byte)) :
    (d.stageAll h func l).sec = d.sec :=
    (stageAll_only ..).same .sec rfl
@[simp] theorem streamsLeft_sec (d : Dev) (site : Nat) : (d.streamsLeft site).sec = d.sec := (streamsLeft_only ..).same .sec rfl
@[simp] theorem recomputeDone_sec (d : Dev) (c idx : Nat) : (d.recomputeDone c idx).sec = d.sec := (recomputeDone_only ..).same .sec rfl
@[simp] theorem freeTo_sec (d : Dev) (c k : Nat) : (d.freeTo c k).sec = d.sec := (freeTo_only ..).same .sec rfl
@[simp] theorem settleResets_sec (d : Dev) (h : BitVec 16) : (d.settleResets h).sec = d.sec := (settleResets_only ..).same .sec rfl
@[simp] theorem sendDue_sec (d : Dev) (h : BitVec 16) : (d.sendDue h).sec = d.sec := (sendDue_only ..).same .sec rfl
@[simp] theorem settlePlan_sec (d : Dev) (h : BitVec 16) : (d.settlePlan h).sec = d.sec := (settlePlan_only ..).same .sec rfl
@[simp] theorem compareSig_sec (d : Dev) (x : Ctx) : (d.compareSig x).2.sec = d.sec := (compareSig_only ..).same .sec rfl
@[simp] theorem chanFlr_sec (d : Dev) (c : Nat) : (d.chanFlr c).sec = d.sec := (chanFlr_only ..).same .sec rfl
@[simp] theorem queueFlr_sec (d : Dev) (func : Nat) : (d.queueFlr func).sec = d.sec := (queueFlr_only ..).same .sec rfl
@[simp] theorem takeHeld_sec (d : Dev) : d.takeHeld.sec = d.sec := (takeHeld_only ..).same .sec rfl
@[simp] theorem fenceDeads_sec (d : Dev) : d.fenceDeads.sec = d.sec := (fenceDeads_only ..).same .sec rfl
@[simp] theorem writeRecord_sec (d : Dev) (r : Rec) : (d.writeRecord r).sec = d.sec := (writeRecord_only ..).same .sec rfl
@[simp] theorem latchPush_sec (d : Dev) (r : Rec) : (d.latchPush r).sec = d.sec := (latchPush_only ..).same .sec rfl
@[simp] theorem haltDevice_sec (d : Dev) : d.haltDevice.sec = d.sec := (haltDevice_only ..).same .sec rfl
@[simp] theorem fenceByCrater_sec (d : Dev) : d.fenceByCrater.sec = d.sec := (fenceByCrater_only ..).same .sec rfl
@[simp] theorem driveBeat_sec (d : Dev) : d.driveBeat.sec = d.sec := (driveBeat_only ..).same .sec rfl
@[simp] theorem takeStraps_sec (d : Dev) (s : StrapSamples) : (d.takeStraps s).sec = d.sec := (takeStraps_only ..).same .sec rfl
@[simp] theorem powerBoot_sec (d : Dev) : d.powerBoot.sec = d.sec := (powerBoot_only ..).same .sec rfl
@[simp] theorem setPwrEvent_sec (d : Dev) (i : Nat) : (d.setPwrEvent i).sec = d.sec := (setPwrEvent_only ..).same .sec rfl
@[simp] theorem writeBt_sec (d : Dev) (o : Nat) (v : BitVec 64) : (d.writeBt o v).sec = d.sec := (writeBt_only ..).same .sec rfl
@[simp] theorem writePwr_sec (d : Dev) (o : Nat) (v : BitVec 64) : (d.writePwr o v).sec = d.sec := (writePwr_only ..).same .sec rfl
@[simp] theorem writeHlt_sec (d : Dev) (o : Nat) (v : BitVec 64) : (d.writeHlt o v).sec = d.sec := (writeHlt_only ..).same .sec rfl
@[simp] theorem writeTrcCtrl_sec (d : Dev) (v : BitVec 64) : (d.writeTrcCtrl v).sec = d.sec := (writeTrcCtrl_only ..).same .sec rfl
@[simp] theorem writeMgt_sec (d : Dev) (o : Nat) (v : BitVec 64) : (d.writeMgt o v).sec = d.sec := (writeMgt_only ..).same .sec rfl
@[simp] theorem writeLnk_sec (d : Dev) (o : Nat) (v : BitVec 64) : (d.writeLnk o v).sec = d.sec := (writeLnk_only ..).same .sec rfl
@[simp] theorem writeStm_sec (d : Dev) (o : Nat) (v : BitVec 64) : (d.writeStm o v).sec = d.sec := (writeStm_only ..).same .sec rfl
@[simp] theorem writeStk_sec (d : Dev) (path : RegPath) (s o : Nat) (v : BitVec 64) : (d.writeStk path s o v).sec = d.sec :=
    (writeStk_only ..).same .sec rfl
@[simp] theorem setPortEn_sec (d : Dev) (q : Nat) (en : Bool) : (d.setPortEn q en).sec = d.sec := (setPortEn_only ..).same .sec rfl
@[simp] theorem cqTailWrite_sec (func : Fin 5) (win : Fin 72) (val : BitVec 64) (d : Dev) : (cqTailWrite func win val d).sec = d.sec :=
    (cqTailWrite_only ..).same .sec rfl
@[simp] theorem pageWrite_sec (d : Dev) (func c off : Nat) (whole : Bool) (v : BitVec 64) : (d.pageWrite func c off whole v).sec = d.sec :=
    (pageWrite_only ..).same .sec rfl
@[simp] theorem windowWrite_sec (d : Dev) (c off : Nat) (data : List Byte) : (d.windowWrite c off data).sec = d.sec :=
    (windowWrite_only ..).same .sec rfl
@[simp] theorem releaseMsix_sec (d : Dev) (func : Nat) : (d.releaseMsix func).sec = d.sec := (releaseMsix_only ..).same .sec rfl
@[simp] theorem accErr_sec (d : Dev) : d.accErr.sec = d.sec := (accErr_only ..).same .sec rfl
@[simp] theorem spaceRead_sec (d : Dev) (path : RegPath) (off : Nat) : (d.spaceRead path off).2.sec = d.sec :=
    (spaceRead_only ..).same .sec rfl
@[simp] theorem ijtagData_sec (d : Dev) (bs : List Byte) : (d.ijtagData bs).sec = d.sec := (ijtagData_only ..).same .sec rfl
@[simp] theorem siteRead_sec (d : Dev) (n : Nat) (bs : List Byte) : (d.siteRead n bs).sec = d.sec := (siteRead_only ..).same .sec rfl
@[simp] theorem draw_sec (d : Dev) : d.draw.2.sec = d.sec := (draw_only ..).same .sec rfl
@[simp] theorem jobWipe_sec (d : Dev) (s : Nat) (bad : List (BitVec 25)) : (d.jobWipe s bad).sec = d.sec := (jobWipe_only ..).same .sec rfl
@[simp] theorem bootWipe_sec (d : Dev) (s : Nat) (bad : List (BitVec 25)) : (d.bootWipe s bad).sec = d.sec :=
    (bootWipe_only ..).same .sec rfl
@[simp] theorem endRequest_sec (d : Dev) (op : Nat) : (d.endRequest op).sec = d.sec := (endRequest_only ..).same .sec rfl
@[simp] theorem endSessions_sec (d : Dev) : d.endSessions.sec = d.sec := (endSessions_only ..).same .sec rfl

/-! ### Changes of the security state that blow no fuse -/

section
variable (d : Dev) (s : Sec)

@[simp] theorem putKey_fuses (k : Nat) (key : List Byte) : (s.putKey k key).fuses = s.fuses := by
  unfold Sec.putKey
  dsimp only
  split <;> rfl

@[simp] theorem sec_afterReset_fuses (warm : Bool) : (s.afterReset warm).fuses = s.fuses := rfl

@[simp] theorem writeBank_fuses (w : Bool × List Byte) : (s.writeBank w).fuses = s.fuses := by
  unfold Sec.writeBank
  dsimp only
  split <;> rfl

@[simp] theorem writeBanks_fuses (l : List (Bool × List Byte)) : (l.foldl Sec.writeBank s).fuses = s.fuses := by
  induction l generalizing s with
  | nil => rfl
  | cons w l ih => exact (ih _).trans (writeBank_fuses s w)

/-! ### Releases and retirements (R87, R99, R409) -/

/-- What a release of a tenancy leaves of a security state: all but the tenancies and the key slots. -/
def Sec.lasting (s : Sec) : Sec := { s with slots := [], tenancies := [], releasing := [] }

theorem fuses_of_lasting {s x : Sec} (h : s.lasting = x.lasting) : s.fuses = x.fuses :=
  (congrArg Sec.fuses h : s.lasting.fuses = x.lasting.fuses)

@[simp] theorem lasting_foldl {α : Type} {f : Dev → α → Dev} (hf : ∀ d a, (f d a).sec.lasting = d.sec.lasting) (l : List α) (d : Dev) :
    (l.foldl f d).sec.lasting = d.sec.lasting := view_foldl (fun d => d.sec.lasting) hf l d

@[simp] theorem endRelease_lasting (n : Nat) : (d.endRelease n).sec.lasting = d.sec.lasting := by
  unfold Dev.endRelease
  dsimp only
  split
  · rfl
  · rw [finishReq_sec]
    rfl

@[simp] theorem finishRelease_lasting (n : Nat) : (d.finishRelease n).sec.lasting = d.sec.lasting := by
  unfold Dev.finishRelease
  extract_lets ranges owned ended sec trc cleared
  have howned : owned.sec = d.sec := by
    unfold owned
    split <;> simp
  have hcleared : cleared.sec.lasting = d.sec.lasting := by
    rw [← howned, ← resetChan_sec owned n]
    rfl
  split <;> simp [hcleared]

@[simp] theorem settleReleases_lasting : d.settleReleases.sec.lasting = d.sec.lasting := lasting_foldl finishRelease_lasting _ d

@[simp] theorem noteSites_lasting (p : Plan) : (d.noteSites p).sec.lasting = d.sec.lasting := by
  unfold Dev.noteSites
  dsimp only
  split <;> rfl

@[simp] theorem releasePlan_lasting (p : Plan) : (d.releasePlan p).sec.lasting = d.sec.lasting := by
  unfold Dev.releasePlan
  extract_lets d₁ d₂ d₃ d₄ d₅
  have h₂ : d₂.sec.lasting = d.sec.lasting :=
    (lasting_foldl (f := fun e c => (e.releaseSite c).modCq c (fun _ => {})) (fun e c => congrArg Sec.lasting (releaseSite_sec e c))
      p.cores d₁).trans (noteSites_lasting d p)
  have h₃ : d₃.sec.lasting = d.sec.lasting := by simp [d₃, h₂]
  change d₅.sec.lasting = d.sec.lasting
  unfold d₅ d₄
  split <;> simp [h₃]

@[simp] theorem settleRetire_lasting (h : BitVec 16) : (d.settleRetire h).sec.lasting = d.sec.lasting := by
  unfold Dev.settleRetire
  dsimp only
  repeat' split
  all_goals simp

@[simp] theorem beginRetire_lasting (p : Plan) : (d.beginRetire p).sec.lasting = d.sec.lasting := by
  refine (settleRetire_lasting _ _).trans (lasting_foldl (fun e c => ?_) _ _)
  split <;> simp

@[simp] theorem retireAll_lasting (func : Nat) : (d.retireAll func).sec.lasting = d.sec.lasting := lasting_foldl beginRetire_lasting _ d

@[simp] theorem askRetire_lasting (func : Nat) : (d.askRetire func).sec.lasting = d.sec.lasting := by
  unfold Dev.askRetire
  repeat' split
  all_goals simp

@[simp] theorem serveRings_lasting : d.serveRings.sec.lasting = d.sec.lasting := by
  simp [Dev.serveRings]

@[simp] theorem beginRelease_lasting (n : Nat) : (d.beginRelease n).sec.lasting = d.sec.lasting := by
  unfold Dev.beginRelease
  dsimp only
  repeat' split
  · rfl
  · simp
  · simp only [settleReleases_lasting, askRetire_lasting, discardReqs_sec]
    rfl

@[simp] theorem flr_lasting (func : Nat) : (d.flr func).sec.lasting = d.sec.lasting := by
  have hchans : ∀ (l : List Nat) (e : Dev), (l.foldl Dev.chanFlr e).sec.lasting = e.sec.lasting :=
    lasting_foldl fun e c => by rw [chanFlr_sec]
  unfold Dev.flr
  dsimp only
  split
  · rw [askRetire_lasting, hchans, queueFlr_sec]
  · rw [chanFlr_sec, beginRelease_lasting, queueFlr_sec]

@[simp] theorem endRelease_fuses (n : Nat) : (d.endRelease n).sec.fuses = d.sec.fuses := fuses_of_lasting (endRelease_lasting d n)
@[simp] theorem settleRetire_fuses (h : BitVec 16) : (d.settleRetire h).sec.fuses = d.sec.fuses := fuses_of_lasting (settleRetire_lasting d h)
@[simp] theorem beginRetire_fuses (p : Plan) : (d.beginRetire p).sec.fuses = d.sec.fuses := fuses_of_lasting (beginRetire_lasting d p)
@[simp] theorem serveRings_fuses : d.serveRings.sec.fuses = d.sec.fuses := fuses_of_lasting (serveRings_lasting d)
@[simp] theorem beginRelease_fuses (n : Nat) : (d.beginRelease n).sec.fuses = d.sec.fuses := fuses_of_lasting (beginRelease_lasting d n)
@[simp] theorem flr_fuses (func : Nat) : (d.flr func).sec.fuses = d.sec.fuses := fuses_of_lasting (flr_lasting d func)

theorem retireChunkDiscard_fuses (c : Fin 72) : (retireChunkDiscard c d).sec.fuses = d.sec.fuses := by
  unfold retireChunkDiscard
  repeat' split
  all_goals simp

/-! ### Commits (R255) -/

@[simp] theorem commit_fuses (x : Ctx) : (d.commit x).sec.fuses = d.sec.fuses := by
  have hatoms : ∀ (e : Dev) (l : List AtomEnt), (l.foldl (fun (d : Dev) a => d.commitAtom x.p x.c x.site a) e).sec.fuses = e.sec.fuses :=
    fun e l => fuses_foldl (fun e a => by rw [commitAtom_sec]) l e
  unfold Dev.commit
  dsimp only
  simp only [settleRetire_fuses, settlePlan_sec, sendDue_sec, settleResets_sec, modPlan_sec, modCcr_sec, freeTo_sec, modCq_sec,
    recomputeDone_sec, streamsLeft_sec, stageAll_sec, submitSolves_sec, postColls_sec, postSends_sec, noteExports_sec, hatoms,
    commitRecords_sec, commitPend_sec, missAll_sec]

theorem chunkCommit_fuses (c : Fin 72) : (chunkCommit c d).sec.fuses = d.sec.fuses := by
  have hsig : ∀ {x b e}, d.compareSig x = (b, e) → e.sec = d.sec := fun {x b e} h => by rw [← compareSig_sec d x, h]
  unfold chunkCommit
  repeat' split
  · rfl
  · rfl
  next h => rw [hsig h]
  next h => rw [commit_fuses, hsig h]

/-! ### Resets and power -/

theorem functionLevelReset_fuses (func : Fin 5) : (functionLevelReset func d).sec.fuses = d.sec.fuses := by
  unfold functionLevelReset
  split <;> simp

theorem pcieReset_fuses : (pcieReset d).sec.fuses = d.sec.fuses := by
  unfold pcieReset
  dsimp only
  split
  · rfl
  · exact fuses_foldl flr_fuses _ _

theorem vfEnableClear_fuses : (vfEnableClear d).sec.fuses = d.sec.fuses := by
  unfold vfEnableClear
  split
  · exact fuses_foldl beginRelease_fuses _ _
  · rfl

theorem processorRestartDone_fuses (i : Fin 5) : (processorRestartDone i d).sec.fuses = d.sec.fuses := by
  unfold processorRestartDone
  dsimp only
  repeat' split
  all_goals simp

/-- The fuses stay over every reset (R440). -/
@[simp] theorem resetDevice_fuses (warm standbyLost : Bool) : (d.resetDevice warm standbyLost).sec.fuses = d.sec.fuses := by
  simp only [Dev.resetDevice, fenceByCrater_sec]
  rfl

theorem coldReset_fuses (cause : ColdCause) : (coldReset cause d).sec.fuses = d.sec.fuses := by
  unfold coldReset
  repeat' split
  all_goals simp

theorem warmReset_fuses (level : Bool) (straps : StrapSamples) (flash : List (Bool × List Byte)) :
    (warmReset level straps flash d).sec.fuses = d.sec.fuses := by
  unfold warmReset
  dsimp only
  repeat' split
  all_goals simp

@[simp] theorem powerLoss_fuses (code : Nat) : (d.powerLoss code).sec.fuses = d.sec.fuses := by
  simp [Dev.powerLoss]

theorem vinUndervoltage_fuses : (vinUndervoltage d).sec.fuses = d.sec.fuses := by
  unfold vinUndervoltage
  dsimp only
  repeat' split
  all_goals simp

theorem vinOvervoltage_fuses : (vinOvervoltage d).sec.fuses = d.sec.fuses := by
  unfold vinOvervoltage
  split <;> simp

theorem powerDieFault_fuses (die : Fin 4) : (powerDieFault die d).sec.fuses = d.sec.fuses := by
  unfold powerDieFault
  split <;> simp

theorem vauxLoss_fuses : (vauxLoss d).sec.fuses = d.sec.fuses := by
  unfold vauxLoss
  split <;> simp

@[simp] theorem thermtrip_fuses : (thermtrip d).sec.fuses = d.sec.fuses := by
  unfold thermtrip
  split <;> simp

theorem sensorSample_fuses (x : Sample) : (sensorSample x d).sec.fuses = d.sec.fuses := by
  unfold sensorSample
  dsimp only
  repeat' split
  all_goals simp

/-! ### Registers -/

@[simp] theorem writeSec_fuses (o : Nat) (v : BitVec 64) : (d.writeSec o v).sec.fuses = d.sec.fuses := by
  have hdraw : d.drawChallenge.sec.fuses = d.sec.fuses := rfl
  have hsubmit : ∀ e : Dev, e.submitResponse.sec.fuses = e.sec.fuses := fun e => by
    unfold Dev.submitResponse
    split <;> rfl
  have hlock : ∀ e : Dev, e.lockDebug.sec.fuses = e.sec.fuses := fun e => rfl
  unfold Dev.writeSec
  split
  · unfold Dev.writeDbg
    dsimp only
    repeat' split
    all_goals simp [hdraw, hsubmit, hlock]
  all_goals rfl

@[simp] theorem writeReg_fuses (path : RegPath) (b : Block) (o : Nat) (v : BitVec 64) :
    (d.writeReg path b o v).sec.fuses = d.sec.fuses := by
  unfold Dev.writeReg
  dsimp only
  repeat' split
  all_goals simp

@[simp] theorem spaceWrite_fuses (path : RegPath) (off : Nat) (whole : Bool) (v : BitVec 64) :
    (d.spaceWrite path off whole v).sec.fuses = d.sec.fuses := by
  unfold Dev.spaceWrite
  repeat' split
  all_goals simp

@[simp] theorem pathWrite_fuses (path : RegPath) (off : Nat) (v : BitVec 64) : (d.pathWrite path off v).sec.fuses = d.sec.fuses := by
  unfold Dev.pathWrite
  repeat' split
  all_goals simp

@[simp] theorem queueWrite_fuses (func : Fin 5) (w : Fin 72) (off : Nat) (whole : Bool) (v : BitVec 64) :
    (d.queueWrite func w off whole v).sec.fuses = d.sec.fuses := by
  unfold Dev.queueWrite Dev.writeCq
  repeat' split
  all_goals simp

theorem registerWrite_fuses (t : RegTarget) (data : List Byte) : (registerWrite t data d).sec.fuses = d.sec.fuses := by
  unfold registerWrite
  repeat' split
  all_goals simp
  all_goals rfl

theorem mgtAccessDone_fuses : (mgtAccessDone d).sec.fuses = d.sec.fuses := by
  unfold mgtAccessDone
  dsimp only
  repeat' split
  all_goals simp

theorem ijtagAccess_fuses (a : IjtagOp) : (ijtagAccess a d).sec.fuses = d.sec.fuses := by
  unfold ijtagAccess
  dsimp only
  repeat' split
  all_goals simp

/-! ### Requests -/

/-- Serving a request blows no fuse if the message's own effect blows none. -/
theorem serve_fuses (op : Nat) {f : Dev → Req → List Byte → Dev × Reply} (hf : ∀ r p, (f d r p).1.sec.fuses = d.sec.fuses) :
    (d.serve op f).sec.fuses = d.sec.fuses := by
  have hreply : ∀ {r p e a}, f d r p = (e, a) → e.sec.fuses = d.sec.fuses := fun {r p e a} he => by simpa [he] using hf r p
  unfold Dev.serve
  repeat' split
  case h_3 he => rw [finishReq_sec]; exact hreply he
  case h_4 he =>
    have hgoing := hreply he
    exact hgoing
  all_goals simp

theorem planRetire_fuses : (planRetire d).sec.fuses = d.sec.fuses := by
  refine serve_fuses d _ fun r p => ?_
  dsimp only
  repeat' split
  all_goals simp

theorem tenancyCreate_fuses : (tenancyCreate d).sec.fuses = d.sec.fuses := by
  refine serve_fuses d _ fun r p => ?_
  dsimp only
  repeat' split
  all_goals simp
  all_goals rfl

theorem tenancyDestroy_fuses : (tenancyDestroy d).sec.fuses = d.sec.fuses := by
  refine serve_fuses d _ fun r p => ?_
  dsimp only
  repeat' split
  all_goals simp

theorem wipePolicy_fuses : (wipePolicy d).sec.fuses = d.sec.fuses := by
  refine serve_fuses d _ fun r p => ?_
  dsimp only
  split <;> rfl

theorem lifecycleChange_fuses : (lifecycleChange d).sec.fuses = d.sec.fuses := by
  refine serve_fuses d _ fun r p => ?_
  dsimp only
  repeat' split
  · rfl
  · rfl
  · rfl
  · rw [beginWipe_sec]
    exact fuses_foldl beginRelease_fuses _ _

theorem keyProvision_fuses : (keyProvision d).sec.fuses = d.sec.fuses := by
  refine serve_fuses d _ fun r p => ?_
  dsimp only
  repeat' split
  all_goals simp

theorem fwUpdate_fuses : (fwUpdate d).sec.fuses = d.sec.fuses := by
  refine serve_fuses d _ fun r p => ?_
  dsimp only
  repeat' split
  all_goals rfl

end
end Sys2Proof.Machine
end

section
/-! PROOF. The commands that blow fuses, and every other command and step (R399, R403, R405): O60. -/

namespace Sys2Proof.Machine

/-- What no life-cycle change blows: the minimum epoch and the revocation of key 0. -/
def Sec.epochAndKey (s : Sec) : BitVec 8 × Bool := (s.minEpoch, s.key0Revoked)

theorem epochAndKey_of_fuses {s x : Sec} (h : s.fuses = x.fuses) : s.epochAndKey = x.epochAndKey :=
  congrArg (fun f : Fuses => (f.minEpoch, f.key0Revoked)) h

section
variable (d : Dev)

/-! ### The end of a wipe (R405) -/

theorem endLifecycle_epochAndKey (target : BitVec 2) : (d.endLifecycle target).sec.epochAndKey = d.sec.epochAndKey := by
  unfold Dev.endLifecycle
  dsimp only
  split
  · rw [endSessions_sec]
    rfl
  · rw [finishReq_sec]
    rfl

/-- Only the wipe of a life-cycle change ends with a fuse blown. -/
theorem endWipe_fuses {j : WipeJob} (hj : j.wipesSites = false) : (d.endWipe j).sec.fuses = d.sec.fuses := by
  unfold Dev.endWipe
  split
  · rw [endRequest_sec]
  · exact endRelease_fuses ..
  next t ht => simp [WipeJob.wipesSites, ht] at hj
  · rfl

theorem endWipe_epochAndKey (j : WipeJob) : (d.endWipe j).sec.epochAndKey = d.sec.epochAndKey := by
  unfold Dev.endWipe
  split
  · rw [endRequest_sec]
  · exact epochAndKey_of_fuses (endRelease_fuses ..)
  · exact endLifecycle_epochAndKey ..
  · rfl

theorem endWipes_fuses {l : List WipeJob} (hl : ∀ j ∈ l, j.wipesSites = false) : (l.foldl Dev.endWipe d).sec.fuses = d.sec.fuses := by
  induction l generalizing d with
  | nil => rfl
  | cons j l ih =>
    rw [List.forall_mem_cons] at hl
    exact (ih _ hl.2).trans (endWipe_fuses d hl.1)

theorem endWipes_epochAndKey (l : List WipeJob) : (l.foldl Dev.endWipe d).sec.epochAndKey = d.sec.epochAndKey := by
  induction l generalizing d with
  | nil => rfl
  | cons j l ih => exact (ih _).trans (endWipe_epochAndKey d j)

/-- A stack wiped leaves what the wipes are for. -/
theorem jobWipe_wipesSites (s : Nat) (bad : List (BitVec 25)) (h : ∀ j ∈ d.wipes, j.wipesSites = false) :
    ∀ j ∈ (d.jobWipe s bad).wipes, j.wipesSites = false := by
  have hbusy : ∀ e : Dev, e.settleWipeBusy.wipes = e.wipes := fun e => (settleWipeBusy_only e).same .wipes rfl
  unfold Dev.jobWipe
  dsimp only
  split
  · exact h
  · rw [hbusy]
    simp only [List.mem_map]
    rintro _ ⟨j, hj, rfl⟩
    rw [(wipeStack_only ..).same .wipes rfl] at hj
    exact h j hj

theorem memoryWipe_fuses (s : Fin 16) (bad : List (BitVec 25)) (h : d.wipes.all (fun j => !j.wipesSites) = true) :
    (memoryWipe s bad d).sec.fuses = d.sec.fuses := by
  have hjobs := jobWipe_wipesSites d s.val bad (by simpa using h)
  unfold memoryWipe
  repeat' split
  · rfl
  · rw [bootWipe_sec]
  · refine (endWipes_fuses _ fun j hj => hjobs j (List.mem_of_mem_filter hj)).trans ?_
    exact congrArg Sec.fuses (jobWipe_sec ..)

theorem memoryWipe_epochAndKey (s : Fin 16) (bad : List (BitVec 25)) : (memoryWipe s bad d).sec.epochAndKey = d.sec.epochAndKey := by
  unfold memoryWipe
  repeat' split
  · rfl
  · rw [bootWipe_sec]
  · exact (endWipes_epochAndKey _ _).trans (congrArg Sec.epochAndKey (jobWipe_sec ..))

/-! ### The boot (R400, R403) -/

@[simp] theorem keyFails_fuses (slot : Nat) : (d.keyFails slot).sec.fuses = d.sec.fuses := by
  unfold Dev.keyFails
  split
  · rw [writeRecord_sec]
    rfl
  · rfl

/-- The boot raises MIN_EPOCH or leaves it, and no other fuse. -/
theorem firmwareAuth_fuses (bad : List (Fin 8)) :
    ∃ e : BitVec 8, d.sec.minEpoch.toNat ≤ e.toNat ∧ (firmwareAuth bad d).sec.fuses = { d.sec.fuses with minEpoch := e } := by
  unfold firmwareAuth
  extract_lets s first other b epoch
  split
  · exact ⟨_, le_rfl, rfl⟩
  split
  · refine ⟨_, le_rfl, ?_⟩
    rw [haltDevice_sec, latchPush_sec]
    rfl
  · refine ⟨if s.minEpoch.toNat < epoch.toNat then epoch else s.minEpoch, ?_, ?_⟩
    · split
      next h => exact h.le
      next => exact le_rfl
    · rw [fenceDeads_sec, takeHeld_sec]
      exact fuses_foldl keyFails_fuses _ _

end

/-! ### Every command and every step -/

/-- A command whose operation leaves the security state as it was. -/
theorem keepsFuses_of_only {m : List Part} {c : Instr} {f : Dev → Dev} (hrun : ∀ s, exec c s = run f s) (hf : ∀ d, Only m d (f d))
    (hm : m.contains .sec = false) : Keeps c (fun d => d.sec.fuses) :=
  keeps_of_run hrun fun d => fuses_of_only (hf d) hm

/-- Each command but the two that blow fuses by its operation: one that can change the security state by the lemma above on it, any other
by its frame. -/
theorem exec_keeps_fuses (c : Instr) (hwipe : ∀ k bad, c ≠ .memoryWipe k bad) (hauth : ∀ bad, c ≠ .firmwareAuth bad) :
    Keeps c (fun d => d.sec.fuses) := by
  cases c with
  | beatInQualify => exact keepsFuses_of_only (fun _ => rfl) beatInQualify_only rfl
  | beatInDisqualify => exact keepsFuses_of_only (fun _ => rfl) beatInDisqualify_only rfl
  | pllLock => exact keepsFuses_of_only (fun _ => rfl) pllLock_only rfl
  | beatMarkerSend => exact keepsFuses_of_only (fun _ => rfl) beatMarkerSend_only rfl
  | beatMarkerReceive port => exact keepsFuses_of_only (fun _ => rfl) (beatMarkerReceive_only port) rfl
  | counterStep => exact keepsFuses_of_only (fun _ => rfl) counterStep_only rfl
  | slewEnd => exact keepsFuses_of_only (fun _ => rfl) slewEnd_only rfl
  | holdoverEntry => exact keepsFuses_of_only (fun _ => rfl) holdoverEntry_only rfl
  | holdoverPause => exact keepsFuses_of_only (fun _ => rfl) holdoverPause_only rfl
  | claimReceive => exact keepsFuses_of_only (fun _ => rfl) claimReceive_only rfl
  | electionSettle => exact keepsFuses_of_only (fun _ => rfl) electionSettle_only rfl
  | processorWatchdogExpiry k => exact keepsFuses_of_only (fun _ => rfl) (processorWatchdogExpiry_only k) rfl
  | processorRestartDone k => exact keeps_of_run (fun _ => rfl) fun _ => processorRestartDone_fuses ..
  | requestWindowWrite func ch off data => exact keepsFuses_of_only (fun _ => rfl) (requestWindowWrite_only func ch off data) rfl
  | doorbellRing func ch => exact keepsFuses_of_only (fun _ => rfl) (doorbellRing_only func ch) rfl
  | requestCopyDone ch => exact keepsFuses_of_only (fun _ => rfl) (requestCopyDone_only ch) rfl
  | requestCheck => exact keepsFuses_of_only (fun _ => rfl) requestCheck_only rfl
  | requestDispatch => exact keepsFuses_of_only (fun _ => rfl) requestDispatch_only rfl
  | responsePlace => exact keepsFuses_of_only (fun _ => rfl) responsePlace_only rfl
  | responsePop func ch => exact keepsFuses_of_only (fun _ => rfl) (responsePop_only func ch) rfl
  | channelReset func ch => exact keepsFuses_of_only (fun _ => rfl) (channelReset_only func ch) rfl
  | channelResetDone ch => exact keepsFuses_of_only (fun _ => rfl) (channelResetDone_only ch) rfl
  | eventLossSummary => exact keepsFuses_of_only (fun _ => rfl) eventLossSummary_only rfl
  | deviceInfo => exact keepsFuses_of_only (fun _ => rfl) deviceInfo_only rfl
  | sessionOpen => exact keepsFuses_of_only (fun _ => rfl) sessionOpen_only rfl
  | sessionClose => exact keepsFuses_of_only (fun _ => rfl) sessionClose_only rfl
  | planAdmit => exact keepsFuses_of_only (fun _ => rfl) planAdmit_only rfl
  | planArm => exact keepsFuses_of_only (fun _ => rfl) planArm_only rfl
  | planPause => exact keepsFuses_of_only (fun _ => rfl) planPause_only rfl
  | planResume => exact keepsFuses_of_only (fun _ => rfl) planResume_only rfl
  | planRetire => exact keeps_of_run (fun _ => rfl) fun _ => planRetire_fuses ..
  | planStatus => exact keepsFuses_of_only (fun _ => rfl) planStatus_only rfl
  | recipeSelect => exact keepsFuses_of_only (fun _ => rfl) recipeSelect_only rfl
  | debugResume => exact keepsFuses_of_only (fun _ => rfl) debugResume_only rfl
  | fence => exact keepsFuses_of_only (fun _ => rfl) fence_only rfl
  | unfence => exact keepsFuses_of_only (fun _ => rfl) unfence_only rfl
  | fenceOverride => exact keepsFuses_of_only (fun _ => rfl) fenceOverride_only rfl
  | testRun => exact keepsFuses_of_only (fun _ => rfl) testRun_only rfl
  | testConfig => exact keepsFuses_of_only (fun _ => rfl) testConfig_only rfl
  | craterRead => exact keepsFuses_of_only (fun _ => rfl) craterRead_only rfl
  | logRead ecc => exact keepsFuses_of_only (fun _ => rfl) (logRead_only ecc) rfl
  | telemetry => exact keepsFuses_of_only (fun _ => rfl) telemetry_only rfl
  | coreMap => exact keepsFuses_of_only (fun _ => rfl) coreMap_only rfl
  | tenancyCreate => exact keeps_of_run (fun _ => rfl) fun _ => tenancyCreate_fuses ..
  | tenancyDestroy => exact keeps_of_run (fun _ => rfl) fun _ => tenancyDestroy_fuses ..
  | sharedRegion => exact keepsFuses_of_only (fun _ => rfl) sharedRegion_only rfl
  | wipePolicy => exact keeps_of_run (fun _ => rfl) fun _ => wipePolicy_fuses ..
  | lifecycleChange => exact keeps_of_run (fun _ => rfl) fun _ => lifecycleChange_fuses ..
  | fwUpdate => exact keeps_of_run (fun _ => rfl) fun _ => fwUpdate_fuses ..
  | keyProvision => exact keeps_of_run (fun _ => rfl) fun _ => keyProvision_fuses ..
  | linkStatus => exact keepsFuses_of_only (fun _ => rfl) linkStatus_only rfl
  | planStart h => exact keepsFuses_of_only (fun _ => rfl) (planStart_only h) rfl
  | chunkRelease c => exact keepsFuses_of_only (fun _ => rfl) (chunkRelease_only c) rfl
  | chunkCommit c => exact keeps_of_run (fun _ => rfl) fun _ => chunkCommit_fuses ..
  | flagDelivery => exact keepsFuses_of_only (fun _ => rfl) flagDelivery_only rfl
  | promiseDeadline h => exact keepsFuses_of_only (fun _ => rfl) (promiseDeadline_only h) rfl
  | resumeBeatReached h => exact keepsFuses_of_only (fun _ => rfl) (resumeBeatReached_only h) rfl
  | retireChunkDiscard c => exact keeps_of_run (fun _ => rfl) fun _ => retireChunkDiscard_fuses ..
  | slotInputDeadline h k => exact keepsFuses_of_only (fun _ => rfl) (slotInputDeadline_only h k) rfl
  | switchBeat h => exact keepsFuses_of_only (fun _ => rfl) (switchBeat_only h) rfl
  | commandSlotWrite func win off data => exact keepsFuses_of_only (fun _ => rfl) (commandSlotWrite_only func win off data) rfl
  | cqTailWrite func win val => exact keepsFuses_of_only (fun _ => rfl) (cqTailWrite_only func win val) rfl
  | commandFetch c parity => exact keepsFuses_of_only (fun _ => rfl) (commandFetch_only c parity) rfl
  | breakFire c => exact keepsFuses_of_only (fun _ => rfl) (breakFire_only c) rfl
  | nop c => exact keepsFuses_of_only (fun _ => rfl) (nop_only c) rfl
  | dummy c => exact keepsFuses_of_only (fun _ => rfl) (dummy_only c) rfl
  | waitb c => exact keepsFuses_of_only (fun _ => rfl) (waitb_only c) rfl
  | waitbExpiry c => exact keepsFuses_of_only (fun _ => rfl) (waitbExpiry_only c) rfl
  | qfence c => exact keepsFuses_of_only (fun _ => rfl) (qfence_only c) rfl
  | evsend c => exact keepsFuses_of_only (fun _ => rfl) (evsend_only c) rfl
  | evwait c => exact keepsFuses_of_only (fun _ => rfl) (evwait_only c) rfl
  | wload c flt => exact keepsFuses_of_only (fun _ => rfl) (wload_only c flt) rfl
  | wswap c => exact keepsFuses_of_only (fun _ => rfl) (wswap_only c) rfl
  | mma c flt => exact keepsFuses_of_only (fun _ => rfl) (mma_only c flt) rfl
  | mmv c flt => exact keepsFuses_of_only (fun _ => rfl) (mmv_only c flt) rfl
  | elem c flt => exact keepsFuses_of_only (fun _ => rfl) (elem_only c flt) rfl
  | drain c flt => exact keepsFuses_of_only (fun _ => rfl) (drain_only c flt) rfl
  | quant c flt => exact keepsFuses_of_only (fun _ => rfl) (quant_only c flt) rfl
  | deq c => exact keepsFuses_of_only (fun _ => rfl) (deq_only c) rfl
  | stats c => exact keepsFuses_of_only (fun _ => rfl) (stats_only c) rfl
  | copy c => exact keepsFuses_of_only (fun _ => rfl) (copy_only c) rfl
  | atom c => exact keepsFuses_of_only (fun _ => rfl) (atom_only c) rfl
  | coll c => exact keepsFuses_of_only (fun _ => rfl) (coll_only c) rfl
  | send c => exact keepsFuses_of_only (fun _ => rfl) (send_only c) rfl
  | recv c => exact keepsFuses_of_only (fun _ => rfl) (recv_only c) rfl
  | solve c => exact keepsFuses_of_only (fun _ => rfl) (solve_only c) rfl
  | vent c => exact keepsFuses_of_only (fun _ => rfl) (vent_only c) rfl
  | mark c => exact keepsFuses_of_only (fun _ => rfl) (mark_only c) rfl
  | commandComplete c idx => exact keepsFuses_of_only (fun _ => rfl) (commandComplete_only c idx) rfl
  | grantHoldExpiry site => exact keepsFuses_of_only (fun _ => rfl) (grantHoldExpiry_only site) rfl
  | rampGovernorBeat => exact keepsFuses_of_only (fun _ => rfl) rampGovernorBeat_only rfl
  | alu c t chk => exact keepsFuses_of_only (fun _ => rfl) (alu_only c t chk) rfl
  | addi c t chk => exact keepsFuses_of_only (fun _ => rfl) (addi_only c t chk) rfl
  | andi c t chk => exact keepsFuses_of_only (fun _ => rfl) (andi_only c t chk) rfl
  | ori c t chk => exact keepsFuses_of_only (fun _ => rfl) (ori_only c t chk) rfl
  | xori c t chk => exact keepsFuses_of_only (fun _ => rfl) (xori_only c t chk) rfl
  | slti c t chk => exact keepsFuses_of_only (fun _ => rfl) (slti_only c t chk) rfl
  | shifti c t chk => exact keepsFuses_of_only (fun _ => rfl) (shifti_only c t chk) rfl
  | insh c t chk => exact keepsFuses_of_only (fun _ => rfl) (insh_only c t chk) rfl
  | ld c t chk => exact keepsFuses_of_only (fun _ => rfl) (ld_only c t chk) rfl
  | lw c t chk => exact keepsFuses_of_only (fun _ => rfl) (lw_only c t chk) rfl
  | lwu c t chk => exact keepsFuses_of_only (fun _ => rfl) (lwu_only c t chk) rfl
  | lh c t chk => exact keepsFuses_of_only (fun _ => rfl) (lh_only c t chk) rfl
  | lhu c t chk => exact keepsFuses_of_only (fun _ => rfl) (lhu_only c t chk) rfl
  | lb c t chk => exact keepsFuses_of_only (fun _ => rfl) (lb_only c t chk) rfl
  | lbu c t chk => exact keepsFuses_of_only (fun _ => rfl) (lbu_only c t chk) rfl
  | sd c t chk => exact keepsFuses_of_only (fun _ => rfl) (sd_only c t chk) rfl
  | sw c t chk => exact keepsFuses_of_only (fun _ => rfl) (sw_only c t chk) rfl
  | sh c t chk => exact keepsFuses_of_only (fun _ => rfl) (sh_only c t chk) rfl
  | sb c t chk => exact keepsFuses_of_only (fun _ => rfl) (sb_only c t chk) rfl
  | beq c t chk => exact keepsFuses_of_only (fun _ => rfl) (beq_only c t chk) rfl
  | bne c t chk => exact keepsFuses_of_only (fun _ => rfl) (bne_only c t chk) rfl
  | blt c t chk => exact keepsFuses_of_only (fun _ => rfl) (blt_only c t chk) rfl
  | bge c t chk => exact keepsFuses_of_only (fun _ => rfl) (bge_only c t chk) rfl
  | bltu c t chk => exact keepsFuses_of_only (fun _ => rfl) (bltu_only c t chk) rfl
  | bgeu c t chk => exact keepsFuses_of_only (fun _ => rfl) (bgeu_only c t chk) rfl
  | jal c t chk => exact keepsFuses_of_only (fun _ => rfl) (jal_only c t chk) rfl
  | jr c t chk => exact keepsFuses_of_only (fun _ => rfl) (jr_only c t chk) rfl
  | pusha c t chk => exact keepsFuses_of_only (fun _ => rfl) (pusha_only c t chk) rfl
  | setf c t chk => exact keepsFuses_of_only (fun _ => rfl) (setf_only c t chk) rfl
  | clrf c t chk => exact keepsFuses_of_only (fun _ => rfl) (clrf_only c t chk) rfl
  | waitf c t chk => exact keepsFuses_of_only (fun _ => rfl) (waitf_only c t chk) rfl
  | sendf c t chk => exact keepsFuses_of_only (fun _ => rfl) (sendf_only c t chk) rfl
  | getc c t chk => exact keepsFuses_of_only (fun _ => rfl) (getc_only c t chk) rfl
  | sync c t chk => exact keepsFuses_of_only (fun _ => rfl) (sync_only c t chk) rfl
  | psync c t chk => exact keepsFuses_of_only (fun _ => rfl) (psync_only c t chk) rfl
  | halt c t chk => exact keepsFuses_of_only (fun _ => rfl) (halt_only c t chk) rfl
  | ccrNop c t chk => exact keepsFuses_of_only (fun _ => rfl) (ccrNop_only c t chk) rfl
  | storeBufferDrain c => exact keepsFuses_of_only (fun _ => rfl) (storeBufferDrain_only c) rfl
  | ccrDeadlock c => exact keepsFuses_of_only (fun _ => rfl) (ccrDeadlock_only c) rfl
  | patrolScrub k found => exact keepsFuses_of_only (fun _ => rfl) (patrolScrub_only k found) rfl
  | softRepair k => exact keepsFuses_of_only (fun _ => rfl) (softRepair_only k) rfl
  | memoryWipe k bad => exact absurd rfl (hwipe k bad)
  | fuseSpareRow path k die bank row => exact keeps_of_run (fun _ => rfl) fun _ => pathWrite_fuses ..
  | fuseSpareBank path k die bank row => exact keeps_of_run (fun _ => rfl) fun _ => pathWrite_fuses ..
  | rawRead path k die bank row => exact keeps_of_run (fun _ => rfl) fun _ => pathWrite_fuses ..
  | matrixFinish e mismatch => exact keepsFuses_of_only (fun _ => rfl) (matrixFinish_only e mismatch) rfl
  | solverPublish => exact keepsFuses_of_only (fun _ => rfl) solverPublish_only rfl
  | flitReceive port decoded delimOk crcOk ce f =>
    exact keepsFuses_of_only (fun _ => rfl) (flitReceive_only port decoded delimOk crcOk ce f) rfl
  | laneFail port lane lostLock => exact keepsFuses_of_only (fun _ => rfl) (laneFail_only port lane lostLock) rfl
  | laneNotice port => exact keepsFuses_of_only (fun _ => rfl) (laneNotice_only port) rfl
  | nakReceive port => exact keepsFuses_of_only (fun _ => rfl) (nakReceive_only port) rfl
  | replayTimeout port => exact keepsFuses_of_only (fun _ => rfl) (replayTimeout_only port) rfl
  | portFail port => exact keepsFuses_of_only (fun _ => rfl) (portFail_only port) rfl
  | portNotice port => exact keepsFuses_of_only (fun _ => rfl) (portNotice_only port) rfl
  | directionReroute dir => exact keepsFuses_of_only (fun _ => rfl) (directionReroute_only dir) rfl
  | trainingDone found => exact keepsFuses_of_only (fun _ => rfl) (trainingDone_only found) rfl
  | portRetrain port t => exact keepsFuses_of_only (fun _ => rfl) (portRetrain_only port t) rfl
  | sendRequest => exact keepsFuses_of_only (fun _ => rfl) sendRequest_only rfl
  | sendRequestRetry => exact keepsFuses_of_only (fun _ => rfl) sendRequestRetry_only rfl
  | recvData => exact keepsFuses_of_only (fun _ => rfl) recvData_only rfl
  | recvTimeout => exact keepsFuses_of_only (fun _ => rfl) recvTimeout_only rfl
  | collContribution e mismatch => exact keepsFuses_of_only (fun _ => rfl) (collContribution_only e mismatch) rfl
  | collResult => exact keepsFuses_of_only (fun _ => rfl) collResult_only rfl
  | engineMoveDone e => exact keepsFuses_of_only (fun _ => rfl) (engineMoveDone_only e) rfl
  | collTimeout => exact keepsFuses_of_only (fun _ => rfl) collTimeout_only rfl
  | streamFrameReceive port frame => exact keepsFuses_of_only (fun _ => rfl) (streamFrameReceive_only port frame) rfl
  | slotRecord port => exact keepsFuses_of_only (fun _ => rfl) (slotRecord_only port) rfl
  | loadRecord port => exact keepsFuses_of_only (fun _ => rfl) (loadRecord_only port) rfl
  | readReq port => exact keepsFuses_of_only (fun _ => rfl) (readReq_only port) rfl
  | recordSend port => exact keepsFuses_of_only (fun _ => rfl) (recordSend_only port) rfl
  | divertPop path => exact keeps_of_run (fun _ => rfl) fun _ => pathWrite_fuses ..
  | ethertypeWrite path v => exact keeps_of_run (fun _ => rfl) fun _ => pathWrite_fuses ..
  | streamPortUp port => exact keepsFuses_of_only (fun _ => rfl) (streamPortUp_only port) rfl
  | siteRecovery site => exact keepsFuses_of_only (fun _ => rfl) (siteRecovery_only site) rfl
  | spareInService site ok => exact keepsFuses_of_only (fun _ => rfl) (spareInService_only site ok) rfl
  | stateLoadDone site => exact keepsFuses_of_only (fun _ => rfl) (stateLoadDone_only site) rfl
  | inPlaceRecompute c addr => exact keepsFuses_of_only (fun _ => rfl) (inPlaceRecompute_only c addr) rfl
  | progressStop c unit => exact keepsFuses_of_only (fun _ => rfl) (progressStop_only c unit) rfl
  | watchdogOverrun c => exact keepsFuses_of_only (fun _ => rfl) (watchdogOverrun_only c) rfl
  | commandWatchdogExpiry c => exact keepsFuses_of_only (fun _ => rfl) (commandWatchdogExpiry_only c) rfl
  | spareWarm site ok => exact keepsFuses_of_only (fun _ => rfl) (spareWarm_only site ok) rfl
  | craterTableSave => exact keepsFuses_of_only (fun _ => rfl) craterTableSave_only rfl
  | fencedSiteTest site => exact keepsFuses_of_only (fun _ => rfl) (fencedSiteTest_only site) rfl
  | testDone site result => exact keepsFuses_of_only (fun _ => rfl) (testDone_only site result) rfl
  | testDue site => exact keepsFuses_of_only (fun _ => rfl) (testDue_only site) rfl
  | overdueSwap c => exact keepsFuses_of_only (fun _ => rfl) (overdueSwap_only c) rfl
  | healRequest => exact keepsFuses_of_only (fun _ => rfl) healRequest_only rfl
  | healServe => exact keepsFuses_of_only (fun _ => rfl) healServe_only rfl
  | healData => exact keepsFuses_of_only (fun _ => rfl) healData_only rfl
  | healTimeout => exact keepsFuses_of_only (fun _ => rfl) healTimeout_only rfl
  | stackLost u => exact keepsFuses_of_only (fun _ => rfl) (stackLost_only u) rfl
  | traceFlush => exact keepsFuses_of_only (fun _ => rfl) traceFlush_only rfl
  | traceLostRecord => exact keepsFuses_of_only (fun _ => rfl) traceLostRecord_only rfl
  | traceCtrlWrite path v => exact keeps_of_run (fun _ => rfl) fun _ => pathWrite_fuses ..
  | idcode => exact keepsFuses_of_only (fun _ => rfl) idcode_only rfl
  | samplePreload bits => exact keepsFuses_of_only (fun _ => rfl) (samplePreload_only bits) rfl
  | extest => exact keepsFuses_of_only (fun _ => rfl) extest_only rfl
  | clamp => exact keepsFuses_of_only (fun _ => rfl) clamp_only rfl
  | highz => exact keepsFuses_of_only (fun _ => rfl) highz_only rfl
  | ijtagSel => exact keepsFuses_of_only (fun _ => rfl) ijtagSel_only rfl
  | bypass code => exact keepsFuses_of_only (fun _ => rfl) (bypass_only code.code code.tdi) rfl
  | ijtagAccess a => exact keeps_of_run (fun _ => rfl) fun _ => ijtagAccess_fuses ..
  | newChal path => exact keeps_of_run (fun _ => rfl) fun _ => pathWrite_fuses ..
  | submit path => exact keeps_of_run (fun _ => rfl) fun _ => pathWrite_fuses ..
  | lock path => exact keeps_of_run (fun _ => rfl) fun _ => pathWrite_fuses ..
  | vfEnableClear => exact keeps_of_run (fun _ => rfl) fun _ => vfEnableClear_fuses ..
  | coldReset cause => exact keeps_of_run (fun _ => rfl) fun _ => coldReset_fuses ..
  | warmReset level straps => exact keeps_of_run (fun _ => rfl) fun _ => warmReset_fuses ..
  | pcieReset => exact keeps_of_run (fun _ => rfl) fun _ => pcieReset_fuses ..
  | pcieEndpointUp => exact keepsFuses_of_only (fun _ => rfl) pcieEndpointUp_only rfl
  | functionLevelReset func => exact keeps_of_run (fun _ => rfl) fun _ => functionLevelReset_fuses ..
  | firmwareAuth bad => exact absurd rfl (hauth bad)
  | cfgDone path => exact keeps_of_run (fun _ => rfl) fun _ => pathWrite_fuses ..
  | vinRise => exact keepsFuses_of_only (fun _ => rfl) vinRise_only rfl
  | vinOutOfRange high => exact keepsFuses_of_only (fun _ => rfl) (vinOutOfRange_only high) rfl
  | vinUndervoltage => exact keeps_of_run (fun _ => rfl) fun _ => vinUndervoltage_fuses ..
  | vinOvervoltage => exact keeps_of_run (fun _ => rfl) fun _ => vinOvervoltage_fuses ..
  | powerDieFault die => exact keeps_of_run (fun _ => rfl) fun _ => powerDieFault_fuses ..
  | vauxLoss => exact keeps_of_run (fun _ => rfl) fun _ => vauxLoss_fuses ..
  | thermtrip => exact keeps_of_run (fun _ => rfl) fun _ => thermtrip_fuses ..
  | domainPowerUp path k => exact keeps_of_run (fun _ => rfl) fun _ => pathWrite_fuses ..
  | domainPowerDown path k => exact keeps_of_run (fun _ => rfl) fun _ => pathWrite_fuses ..
  | domainRampDone k => exact keepsFuses_of_only (fun _ => rfl) (domainRampDone_only k.dom k.ok) rfl
  | domainRampTimeout k => exact keepsFuses_of_only (fun _ => rfl) (domainRampTimeout_only k) rfl
  | status cmd edges => exact keepsFuses_of_only (fun _ => rfl) (status_only cmd edges) rfl
  | regRead addr edges => exact keepsFuses_of_only (fun _ => rfl) (regRead_only addr edges) rfl
  | regWrite addr data edges => exact keepsFuses_of_only (fun _ => rfl) (regWrite_only addr data edges) rfl
  | mgtAccessDone => exact keeps_of_run (fun _ => rfl) fun _ => mgtAccessDone_fuses ..
  | dataRead edges => exact keepsFuses_of_only (fun _ => rfl) (dataRead_only edges) rfl
  | ch7Write off n data edges => exact keepsFuses_of_only (fun _ => rfl) (ch7Write_only off n data edges) rfl
  | ch7Ring edges => exact keepsFuses_of_only (fun _ => rfl) (ch7Ring_only edges) rfl
  | ch7Read off n edges => exact keepsFuses_of_only (fun _ => rfl) (ch7Read_only off n edges) rfl
  | ch7Pop edges => exact keepsFuses_of_only (fun _ => rfl) (ch7Pop_only edges) rfl
  | latchRead edges => exact keepsFuses_of_only (fun _ => rfl) (latchRead_only edges) rfl
  | latchPop edges => exact keepsFuses_of_only (fun _ => rfl) (latchPop_only edges) rfl
  | registerWrite t data => exact keeps_of_run (fun _ => rfl) fun _ => registerWrite_fuses ..
  | pauseBeatReached h => exact keepsFuses_of_only (fun _ => rfl) (pauseBeatReached_only h) rfl
  | sendGrant => exact keepsFuses_of_only (fun _ => rfl) sendGrant_only rfl
  | sendAcknowledged => exact keepsFuses_of_only (fun _ => rfl) sendAcknowledged_only rfl
  | flitBoundary port => exact keepsFuses_of_only (fun _ => rfl) (flitBoundary_only port) rfl
  | streamPortDown port => exact keepsFuses_of_only (fun _ => rfl) (streamPortDown_only port) rfl
  | tapReset => exact keepsFuses_of_only (fun _ => rfl) tapReset_only rfl
  | sensorSample k => exact keeps_of_run (fun _ => rfl) fun _ => sensorSample_fuses ..

/-- Every command leaves the revocation of key 0, and all but the boot the minimum epoch, which the boot does not lower. -/
theorem exec_minEpoch (c : Instr) {s t : State} (h : exec c s = .next t) :
    s.dev.sec.minEpoch.toNat ≤ t.dev.sec.minEpoch.toNat ∧ t.dev.sec.key0Revoked = s.dev.sec.key0Revoked ∧
      ((∀ bad, c ≠ .firmwareAuth bad) → t.dev.sec.minEpoch = s.dev.sec.minEpoch) := by
  by_cases hauth : ∃ bad, c = .firmwareAuth bad
  · obtain ⟨bad, rfl⟩ := hauth
    cases h
    obtain ⟨e, hle, he⟩ := firmwareAuth_fuses s.dev bad
    refine ⟨?_, congrArg Fuses.key0Revoked he, fun hne => absurd rfl (hne bad)⟩
    rwa [show (firmwareAuth bad s.dev).sec.minEpoch = e from congrArg Fuses.minEpoch he]
  · have hkept : t.dev.sec.epochAndKey = s.dev.sec.epochAndKey := by
      by_cases hwipe : ∃ k bad, c = .memoryWipe k bad
      · obtain ⟨k, bad, rfl⟩ := hwipe
        cases h
        exact memoryWipe_epochAndKey s.dev k bad
      · push Not at hauth hwipe
        exact epochAndKey_of_fuses (exec_keeps_fuses c hwipe hauth s t h)
    obtain ⟨hepoch, hkey⟩ := Prod.mk.inj hkept
    exact ⟨by rw [hepoch], hkey, fun _ => hepoch⟩

/-- Every command but MEMORY_WIPE leaves the life-cycle state. -/
theorem exec_keeps_lcState (c : Instr) (hwipe : ∀ k bad, c ≠ .memoryWipe k bad) : Keeps c (fun d => d.sec.lcState) := by
  intro s t h
  by_cases hauth : ∃ bad, c = .firmwareAuth bad
  · obtain ⟨bad, rfl⟩ := hauth
    cases h
    obtain ⟨e, -, he⟩ := firmwareAuth_fuses s.dev bad
    exact congrArg Fuses.lcState he
  · push Not at hauth
    exact congrArg Fuses.lcState (exec_keeps_fuses c hwipe hauth s t h)

/-- Settles O60: MEMORY_WIPE ends a life-cycle change, FIRMWARE_AUTH raises the minimum epoch, and no other command blows a fuse. -/
theorem fusesChangeOnlyByTheirCommands : Obligations.FusesChangeOnlyByTheirCommands := by
  unfold Obligations.FusesChangeOnlyByTheirCommands
  refine ⟨exec_keeps_lcState, ?_, ?_, ?_, ?_, ?_⟩
  · intro k bad s t hjobs h
    cases h
    exact congrArg Fuses.lcState (memoryWipe_fuses s.dev k bad hjobs)
  · exact fun c hc s t h => (exec_minEpoch c h).2.2 hc
  · exact fun c s t h => (exec_minEpoch c h).1
  · exact fun c s t h => (exec_minEpoch c h).2.1
  · intro s t hidle h
    simp only [step, hidle] at h
    cases h
    exact fuses_of_only (tick_only s.dev) rfl

end Sys2Proof.Machine
end

section
/-! PROOF. Management frames that are discarded (R447 to R449): O53. -/

namespace Sys2Proof.Machine

/-- FRAME_ERR is bit 7 of the status byte (R448). -/
theorem statusByte_of_frameErr {d : Dev} (h : d.mgt.frameErr = true) : d.statusByte.getLsbD 7 = true := by
  have hb : ∀ b : Bool, b2n b ≤ 1 := by decide
  simp only [Dev.statusByte, h, BitVec.getLsbD_ofNat]
  have h1 := hb d.mgt.access.isSome
  have h2 := hb d.mgt.dataValid
  have h3 := hb d.alertL
  have h4 := hb d.latchFault
  have h5 := hb (d.pwr.ctlUp && d.respValid 7)
  have h6 := hb d.mgt.accErr
  have h7 := hb d.pwr.ready
  simp only [Nat.testBit_eq_decide_div_mod_eq]
  simp [show b2n true = 1 from rfl]
  omega

/-- From `d` to `e` a frame has been counted, shown and nothing else (R448, R449). -/
def Dev.discardsFrame (d e : Dev) : Prop :=
  e = { d with mgt := { d.mgt with
    status := d.statusByte, miso := e.mgt.miso, spiErr := satInc d.mgt.spiErr, frameErr := true, accErr := e.mgt.accErr } } ∧
  e.statusByte.getLsbD 7 = true

/-- A frame whose length is not exact, or whose command byte is not listed, is counted and shown, whatever it would do (R449). -/
theorem frame_discarded {d : Dev} (hv : d.pwr.vauxOk = true) {edges n : Nat} {cmd : BitVec 8}
    (hl : ∀ len, spiLength cmd n = some len → edges ≠ 8 * len) (miso : List Byte) (act : Dev → Dev) :
    d.discardsFrame (d.frame edges cmd n miso act) := by
  have hno : (spiLength cmd n).any (fun n => edges == 8 * n) = false := by
    cases h : spiLength cmd n with
    | none => rfl
    | some len => simpa using hl len h
  unfold Dev.discardsFrame Dev.frame
  simp only [hv, hno, Bool.not_true, Bool.false_eq_true, if_false]
  exact ⟨rfl, statusByte_of_frameErr rfl⟩

/-- A frame of a listed command is discarded at every other count of rising edges. -/
theorem frame_discarded_of_length {d : Dev} (hv : d.pwr.vauxOk = true) {edges n len : Nat} {cmd : BitVec 8} (hl : spiLength cmd n = some len)
    (he : edges ≠ 8 * len) (miso : List Byte) (act : Dev → Dev) :
    d.discardsFrame (d.frame edges cmd n miso act) :=
  frame_discarded hv (fun _ h => by rwa [← Option.some.inj (hl.symm.trans h)]) miso act

/-- Settles O53: each command's frame at the length that the table of R447 gives it. -/
theorem discardedFramesChangeNothing : Obligations.DiscardedFramesChangeNothing := by
  unfold Obligations.DiscardedFramesChangeNothing
  refine ⟨?unlisted, ?status, ?regRead, ?regWrite, ?dataRead, ?ch7Write, ?ch7Ring, ?ch7Read, ?ch7Pop, ?latchRead, ?latchPop⟩
  case unlisted =>
    intro s cmd edges hv hl
    exact completes_of_run rfl (frame_discarded hv (fun len h => by rw [hl] at h; cases h) _ _)
  case status => exact fun s edges hv he => completes_of_run rfl (frame_discarded_of_length hv rfl he _ _)
  case regRead => exact fun s addr edges hv he => completes_of_run rfl (frame_discarded_of_length hv rfl he _ _)
  case regWrite => exact fun s addr data edges hv he => completes_of_run rfl (frame_discarded_of_length hv rfl he _ _)
  case dataRead => exact fun s edges hv he => completes_of_run rfl (frame_discarded_of_length hv rfl he _ _)
  case ch7Write => exact fun s off n data edges hv he => completes_of_run rfl (frame_discarded_of_length hv rfl he _ _)
  case ch7Ring => exact fun s edges hv he => completes_of_run rfl (frame_discarded_of_length hv rfl he _ _)
  case ch7Read =>
    intro s off n edges hv he
    refine completes_of_run rfl (show s.dev.discardsFrame (ch7Read off n edges s.dev) from ?_)
    unfold ch7Read
    exact frame_discarded_of_length hv rfl he _ _
  case ch7Pop => exact fun s edges hv he => completes_of_run rfl (frame_discarded_of_length hv rfl he _ _)
  case latchRead => exact fun s edges hv he => completes_of_run rfl (frame_discarded_of_length hv rfl he _ _)
  case latchPop => exact fun s edges hv he => completes_of_run rfl (frame_discarded_of_length hv rfl he _ _)

end Sys2Proof.Machine
end

section
/-! SUPPORT. A pop of channel 7 in the cycle of a doorbell refused at 64 outstanding requests (R66, R452), and the machine on which the
statement about frames of the right length fails. -/

namespace Sys2Proof.Machine

/-- What a pop makes of its channel rests on no other channel and on nothing of the management port. -/
theorem ch7Pop_chan {d : Dev} (hv : d.pwr.vauxOk = true) (hu : d.pwr.ctlUp = true) {x : List Byte} {rest : List (List Byte)}
    (h : (d.chan 7).responses = x :: rest) :
    (ch7Pop 8 d).chan 7 = Chan.undoRefusal { d.chan 7 with responses := rest, outstanding := (d.chan 7).outstanding - 1 } := by
  simp only [ch7Pop, Dev.frame, Dev.channel7, hv, Bool.not_true, Bool.false_eq_true, if_false, modMgt_pwr, hu, if_true]
  exact pop_chan (d := d.modMgt _) h

/-- Channel 7 with 64 outstanding requests, one response, and a doorbell refused in the present cycle. -/
def refusingChannel : Chan := { responses := [[]], outstanding := 64, refused := 1, refusedNow := some (1, 0, {}) }

/-- The machine with that channel. -/
def refusedInCycle : State := ⟨{ pwr := { ctlUp := true }, chans := List.replicate 7 {} ++ [refusingChannel] }, []⟩

/-- Refutes O54: the clause on CH7_POP lowers the outstanding requests by one. The pop takes effect before a doorbell refused at FULL in the
same cycle, which is accepted after all (R66), and no hypothesis shuts such a doorbell out: in `refusedInCycle` 64 requests are outstanding
before the pop and after it. -/
theorem not_framesOfTheRightLengthAct : ¬ Obligations.FramesOfTheRightLengthAct := by
  unfold Obligations.FramesOfTheRightLengthAct
  rintro ⟨-, -, -, -, -, -, -, -, -, -, -, -, -, -, hpop, -⟩
  have hchan : refusedInCycle.dev.chan 7 = refusingChannel := rfl
  obtain ⟨-, -, -, hout⟩ := of_completes rfl (hpop refusedInCycle 8 [] [] rfl rfl rfl rfl)
  have hundone := undoRefusal_of_some (x := { refusingChannel with responses := [], outstanding := 63 }) (k := 1) (n := 0) (e := {}) rfl
  rw [ch7Pop_chan rfl rfl (x := []) (rest := []) rfl, hchan] at hout
  exact absurd (hundone.2.1.symm.trans hout) (by decide)

end Sys2Proof.Machine
end

section
/-! PROOF. The first step's law, and the TAP with the network that it selects (R397, R398): O1 and O52. -/

namespace Sys2Proof.Machine

/-- Settles O1: a step's own definition, one command at a time. -/
theorem stepRunsTheFrontCommand : Obligations.StepRunsTheFrontCommand := by
  unfold Obligations.StepRunsTheFrontCommand
  intros
  rfl

/-- The number that the little-endian bytes of a number spell. -/
theorem leNat_bytesLE (n v : Nat) : leNat (bytesLE n v) = v % 256 ^ n := by
  induction n generalizing v with
  | zero => simp [bytesLE, leNat, Nat.mod_one]
  | succ n ih =>
    rw [bytesLE, leNat, ih, BitVec.toNat_ofNat, show 256 ^ (n + 1) = 2 ^ 8 * 256 ^ n from Nat.pow_succ', Nat.mod_mul]
    rfl

theorem leNat_bytesLE_word (v : BitVec 64) : leNat (bytesLE 8 v.toNat) = v.toNat := by
  rw [leNat_bytesLE]
  exact Nat.mod_eq_of_lt v.isLt

section
variable {d : Dev}

theorem tap_eq (hv : d.pwr.vauxOk = true) (f : Jtag → Jtag) : d.tap f = { d with jtag := f d.jtag } := if_pos hv

/-! ### What an instruction in force does (R397) -/

/-- EXTEST, CLAMP and HIGHZ. -/
theorem tapActs_pins (h : d.jtag.ir = 0x03 ∨ d.jtag.ir = 0x04 ∨ d.jtag.ir = 0x05) :
    d.tapActs = if d.pwr.sysRst then d.jtag.ir else 0xFF := by
  unfold Dev.tapActs
  rcases h with h | h | h <;> simp [h]

theorem tapActs_network (h : d.jtag.ir = 0x10) : d.tapActs = if d.sec.debug then 0x10 else 0xFF := by
  simp [Dev.tapActs, h]

theorem debug_of_network (h : d.tapActs = 0x10) : d.sec.debug = true := by
  by_contra hd
  simp only [Dev.tapActs, hd] at h
  repeat' split at h
  all_goals simp_all

/-- BYPASS takes the place of a listed code by one that no instruction has. -/
theorem tapActs_bypass {code : BitVec 8} (h : d.jtag.ir = if (1 ≤ code.toNat && code.toNat ≤ 5) || code = 0x10 then 0xFF else code) :
    d.tapActs = 0xFF := by
  have hother : ∀ k : BitVec 8, 1 ≤ k.toNat ∧ k.toNat ≤ 5 ∨ k = 0x10 → k ≠ 0xFF → d.jtag.ir ≠ k := by
    rintro k hk hff rfl
    split at h
    · exact hff h
    next hc => exact hc (by rw [← h]; simpa using hk)
  simp [Dev.tapActs, hother 1#8 (by decide) (by decide), hother 2#8 (by decide) (by decide), hother 3#8 (by decide) (by decide),
    hother 4#8 (by decide) (by decide), hother 5#8 (by decide) (by decide), hother 16#8 (by decide) (by decide)]

/-! ### Instruments (R398) -/

theorem spaceRead_eq {path : RegPath} {off : Nat} {b : Block} (hp : d.pathOpen path = true) (hb : blockOf off = some b)
    (hu : d.blockUp b = true) : d.spaceRead path off = (d.readReg path b (off % 0x1000), d) := by
  simp [Dev.spaceRead, hp, hb, hu]

variable (hv : d.pwr.vauxOk = true) (hn : d.tapActs = 0x10)
include hv hn

theorem ijtagAccess_regRead {off : BitVec 32} {b : Block} (ho : off.toNat % 8 = 0) (hb : blockOf off.toNat = some b)
    (hu : d.blockUp b = true) :
    ijtagAccess (.regRead off) d = d.ijtagData (bytesLE 8 (d.readReg .jtag b (off.toNat % 0x1000)).toNat) := by
  have hopen : d.pathOpen .jtag = true := by simp [Dev.pathOpen, debug_of_network hn, hv]
  simp [ijtagAccess, hv, hn, Nat.div_mul_cancel (Nat.dvd_of_mod_eq_zero ho), spaceRead_eq hopen hb hu]

theorem ijtagAccess_scratch (n : Fin 80) (off : Fin 8388608) (len : Fin 4097) : ijtagAccess (.scratch n off len) d =
    d.siteRead n.val (viewBytes (d.sitePend n.val) d.mem.bytes (scratchBase n.val + off.val) len.val) := by
  simp [ijtagAccess, hv, hn]
end

/-- Settles O52: each instruction by what it writes into the TAP, and the instruments by the site that they read. -/
theorem tapInstructionsSelect : Obligations.TapInstructionsSelect := by
  unfold Obligations.TapInstructionsSelect
  refine ⟨?idcode, ?tapReset, ?samplePreload, ?extest, ?clamp, ?highz, ?ijtagSel, ?bypass, ?regRead, ?stopped, ?running, ?unselected⟩
  case idcode =>
    intro s hv
    refine completes_of_run rfl ?_
    rw [idcode, tap_eq hv]
    exact ⟨rfl, rfl, rfl, by simp [leNat_bytesLE]⟩
  case tapReset => exact fun s hv => completes_of_run rfl (tap_eq hv _)
  case samplePreload =>
    intro s bits hv
    refine completes_of_run rfl ?_
    unfold samplePreload
    dsimp only
    rw [tap_eq (d := s.dev.draw.2) hv]
    exact ⟨rfl, rfl, rfl, rfl⟩
  case extest =>
    intro s hv
    refine completes_of_run rfl ?_
    rw [extest, tap_eq hv]
    exact ⟨rfl, tapActs_pins (.inl rfl)⟩
  case clamp =>
    intro s hv
    refine completes_of_run rfl ?_
    rw [clamp, tap_eq hv]
    exact ⟨rfl, tapActs_pins (.inr (.inl rfl))⟩
  case highz =>
    intro s hv
    refine completes_of_run rfl ?_
    rw [highz, tap_eq hv]
    exact ⟨rfl, tapActs_pins (.inr (.inr rfl))⟩
  case ijtagSel =>
    intro s hv
    refine completes_of_run rfl ?_
    rw [ijtagSel, tap_eq hv]
    exact ⟨rfl, tapActs_network rfl⟩
  case bypass =>
    intro s code tdi hv
    refine completes_of_run rfl ?_
    rw [bypass, tap_eq hv]
    exact ⟨rfl, tapActs_bypass rfl, rfl, rfl⟩
  case regRead =>
    intro s off b hv hn ho hb hu
    refine completes_of_run rfl ?_
    rw [ijtagAccess_regRead hv hn ho hb hu]
    exact ⟨rfl, leNat_bytesLE_word _⟩
  case stopped =>
    intro s n off len hv hn hs hu
    refine completes_of_run rfl ?_
    simp only [ijtagAccess_scratch hv hn, Dev.siteRead, hs, hu, Bool.not_true, Bool.false_eq_true, if_false, if_true]
    exact ⟨rfl, rfl, rfl⟩
  case running =>
    intro s n off len hv hn hs
    refine completes_of_run rfl ?_
    simp only [ijtagAccess_scratch hv hn, Dev.siteRead, hs, Bool.not_false, if_true]
    exact ⟨rfl, rfl, rfl⟩
  case unselected =>
    intro s a hn
    exact completes_of_run rfl (if_pos (by rw [bne_iff_ne.2 hn, Bool.or_true]))

end Sys2Proof.Machine
end

section
/-! SUPPORT. A register of the control space written by a path (R450, R457 to R460), and one power domain after a write of its state. -/

namespace Sys2Proof.Machine

section
variable {d : Dev} {path : RegPath} (hp : d.pathOpen path = true)
include hp

/-- A block that answers takes the write of a path that is open. -/
theorem pathWrite_reg {off : Nat} {b : Block} (hb : blockOf off = some b) (hu : d.blockUp b = true) (v : BitVec 64) :
    d.pathWrite path off v = d.writeReg path b (off % 0x1000) v := by
  unfold Dev.pathWrite
  split
  next hspi => simp [hb, hu, hspi]
  next => exact spaceWrite_whole hp v hb hu
end

theorem lt_of_dom_ne_off {d : Dev} {k : Nat} (h : d.dom k ≠ .off) : k < d.pwr.doms.length := by
  by_contra hk
  exact h (List.getD_eq_default _ _ (Nat.le_of_not_lt hk))

/-- A domain whose rail is discharged ramps down. -/
theorem dom_discharge {d : Dev} {k : Nat} (h : k < d.pwr.doms.length) : (d.discharge k).dom k = .ramping :=
  dom_setDom_same d _ h

end Sys2Proof.Machine
end

section
/-! PROOF. Trace records sent, LOST records and TRC_CTRL (R390, R392 to R394): O51. -/

namespace Sys2Proof.Machine

theorem settleTrace_of_not_due {d : Dev} (h : d.trc.downDue = false) : d.settleTrace = d := by
  simp [Dev.settleTrace, h]

theorem length_recordHeader (sid slot kind seq step len : Nat) (ts : BitVec 64) (addr : Nat) :
    (recordHeader sid slot kind seq step len ts addr).length = 48 := by
  simp [recordHeader, length_bytesLE]

/-! ### A stream's open record closed (R392) -/

/-- The payload of a record is a part of what is staged. -/
theorem takePayload_sublist (limit : Nat) (l : List StageEnt) (n : Nat) : (takePayload limit l n).Sublist l := by
  induction l generalizing n with
  | nil => exact List.Sublist.slnil
  | cons e l ih =>
    unfold takePayload
    split
    · exact (ih _).cons_cons e
    · exact List.nil_sublist _

theorem takePayload_cons_zero (limit : Nat) (e : StageEnt) (l : List StageEnt) :
    takePayload limit (e :: l) 0 = e :: takePayload limit l (0 + e.bytes.length) := by
  simp [takePayload]

/-- The record in which the oldest staged entry leaves. -/
def Dev.traceRec (d : Dev) (e : StageEnt) (payload : List Byte) : OutRec :=
  let func := if e.plan.isSome then e.func else 0
  { func := func, kind := 3, streamId := e.sid.toNat
    bytes := recordHeader e.sid.toNat 0 3 (nextSeq d.trc.seqs ((e.plan.map (·.toNat)).getD 0) e.sid.toNat).1 0 payload.length d.now 0 ++
      payload }

section
variable {d : Dev} {e : StageEnt} {rest : List StageEnt} (hs : d.trc.staged = e :: rest) (hon : d.dom 170 = .on)
  (hport : (d.upPorts (if e.plan.isSome then e.func else 0)).isEmpty = false)
  (hroom : d.stm.hasRoom (48 + (d.trc.staged.map (fun g => g.bytes.length)).sum) = true)
include hs hon hport hroom

/-- The stream of the oldest staged entry is sent in one record that begins with this entry. -/
theorem closeStream_oldest : ∃ (tail : List Byte) (staged : List StageEnt) (seqs : List (Nat × Nat × Nat)),
    d.closeStream e.plan e.sid = { d with
      trc := { d.trc with staged := staged, sent := d.trc.sent + 1, seqs := seqs }
      stm := { d.stm with outq := d.stm.outq ++ [d.traceRec e (e.bytes ++ tail)] } } := by
  have hof : e.isOf e.plan e.sid = true := by simp [StageEnt.isOf]
  have hes : d.trc.staged.filter (fun g => g.isOf e.plan e.sid) = e :: rest.filter (fun g => g.isOf e.plan e.sid) := by
    simp [hs, hof]
  have hfit : ∀ l : List StageEnt, (e :: l).Sublist d.trc.staged →
      d.stm.hasRoom (48 + (e.bytes ++ l.flatMap (·.bytes)).length) = true := by
    intro l hl
    have hle := (hl.map (fun g => g.bytes.length)).sum_le_sum (fun _ _ => Nat.zero_le _)
    simp only [Stm.hasRoom, decide_eq_true_eq] at hroom ⊢
    simp only [List.map_cons, List.sum_cons] at hle
    simp only [List.length_append, List.length_flatMap]
    omega
  have hdom : (d.pwr.doms.getD 170 .off != .on) = false := by simpa [Dev.dom] using hon
  simp only [Dev.closeStream, hes, takePayload_cons_zero, List.flatMap_cons, List.isEmpty_cons, List.head?_cons, Option.map_some,
    Option.getD_some, hdom, hport, Bool.or_false, Bool.false_or]
  rw [hfit _ ?_]
  · exact ⟨_, _, _, rfl⟩
  · rw [← takePayload_cons_zero, ← hes]
    exact (takePayload_sublist _ _ _).trans List.filter_sublist

/-- TRACE_FLUSH sends the stream of an entry that has reached FLUSH_BEATS. -/
theorem traceFlush_oldest (hold : d.trc.flushBeats.toNat ≤ d.since e.beat) (hdue : d.trc.downDue = false) :
    traceFlush d = d.closeStream e.plan e.sid := by
  obtain ⟨tail, staged, seqs, hclose⟩ := closeStream_oldest hs hon hport hroom
  have hlonger : ((d.closeStream e.plan e.sid).stm.outq.length != d.stm.outq.length) = true := by simp [hclose]
  have hfind : d.trc.staged.find? (fun g => (d.trc.downDue || decide (d.trc.flushBeats.toNat ≤ d.since g.beat)) &&
      (d.closeStream g.plan g.sid).stm.outq.length != d.stm.outq.length) = some e := by
    rw [hs]
    exact List.find?_cons_of_pos (by simp [hold, hlonger])
  simp only [traceFlush, Dev.closeWhere, hfind]
  exact settleTrace_of_not_due (by rw [hclose]; exact hdue)
end

/-- With no entry old enough nothing is sent. -/
theorem traceFlush_young {d : Dev} (h : d.trc.staged.all (fun e => decide (d.since e.beat < d.trc.flushBeats.toNat)) = true)
    (hdue : d.trc.downDue = false) : traceFlush d = d := by
  have hfind : d.trc.staged.find? (fun g => (d.trc.downDue || decide (d.trc.flushBeats.toNat ≤ d.since g.beat)) &&
      (d.closeStream g.plan g.sid).stm.outq.length != d.stm.outq.length) = none := by
    simp only [List.all_eq_true, decide_eq_true_eq] at h
    rw [List.find?_eq_none]
    intro e he
    simp [hdue, Nat.not_le_of_lt (h e he)]
  simp only [traceFlush, Dev.closeWhere, hfind]
  exact settleTrace_of_not_due hdue

/-! ### TRC_CTRL (R394) -/

/-- TRC_CTRL as a write leaves its fields. -/
def Trc.ctrl (t : Trc) (v : BitVec 64) : Trc := { t with
  flushBeats := if 1000 ≤ bitsOf v.toNat 39 24 then BitVec.ofNat 16 (bitsOf v.toNat 39 24) else t.flushBeats
  recKib := if bitsOf v.toNat 19 16 = 0 then t.recKib else BitVec.ofNat 4 (bitsOf v.toNat 19 16)
  domainEn := bitOf v.toNat 3, abandoned := bitOf v.toNat 2, healthEn := bitOf v.toNat 1, en := bitOf v.toNat 0 }

theorem traceCtrlWrite_eq {d : Dev} {path : RegPath} (hp : d.pathOpen path = true) (hu : d.pwr.ctlUp = true) (v : BitVec 64) :
    traceCtrlWrite path v d = d.writeTrcCtrl v :=
  pathWrite_reg hp (b := .trc) (by decide) (blockUp_of_domain_none (by decide) rfl hu) v

/-- EN written 1 ends a switch-off and asks for the trace domain. -/
theorem writeTrcCtrl_on (d : Dev) {v : BitVec 64} (h : v.getLsbD 0 = true) :
    d.writeTrcCtrl v = ({ d with trc := { d.trc.ctrl v with downDue := false } }).powerUp 170 causeHost := by
  have hnow : (bitOf v.toNat 0 || bitOf v.toNat 1) = true := by rw [show bitOf v.toNat 0 = true from h, Bool.true_or]
  unfold Dev.writeTrcCtrl
  exact if_pos hnow

/-- Switched off with nothing staged, the trace unit gives up its domain at once. -/
theorem writeTrcCtrl_off {d : Dev} {v : BitVec 64} (h0 : v.getLsbD 0 = false) (h1 : v.getLsbD 1 = false) (he : d.trc.en = true)
    (hs : d.trc.staged = []) (hl : d.trc.lostRun = none) :
    d.writeTrcCtrl v = ({ d with trc := { d.trc.ctrl v with downDue := false } }).powerDown 170 causeHost := by
  have hnow : (bitOf v.toNat 0 || bitOf v.toNat 1) = false := by
    rw [show bitOf v.toNat 0 = false from h0, show bitOf v.toNat 1 = false from h1, Bool.or_false]
  simp only [Dev.writeTrcCtrl, hnow, he, hs, Bool.true_or, Bool.false_eq_true, if_false, if_true, List.length_nil, Dev.closeWhere]
  simp [Dev.settleTrace, hs, hl, Trc.ctrl]

/-- A domain that is on, with DOMAIN_EN 0, is discharged and leaves no record. -/
theorem powerDown_on {d : Dev} {k : Nat} (cause : Nat) (hon : d.dom k = .on) (hen : d.trc.domainEn = false) : d.powerDown k cause =
    ({ d with pwr := { d.pwr with waitUp := d.pwr.waitUp.filter (fun (x : Nat × Nat) => x.1 != k) } }).discharge k := by
  have hdom : ∀ p : Pwr, p.doms = d.pwr.doms → Dev.dom { d with pwr := p } k = .on := fun p hp => by rw [Dev.dom, hp]; exact hon
  simp [Dev.powerDown, hdom, Dev.powerOff, Dev.stageDomain, hen]

/-- Settles O51: a stream sent with its oldest entry, the LOST record at the end of staging, and TRC_CTRL's two ways. -/
theorem traceFlushesLosesAndSwitchesOff : Obligations.TraceFlushesLosesAndSwitchesOff := by
  unfold Obligations.TraceFlushesLosesAndSwitchesOff
  refine ⟨?sent, ?young, ?lost, ?switchedOn, ?switchedOff⟩
  case sent =>
    intro s e rest hs hold hdue hon hport hroom
    refine completes_of_run rfl ?_
    obtain ⟨tail, staged, seqs, hclose⟩ := closeStream_oldest hs hon hport hroom
    rw [traceFlush_oldest hs hon hport hroom hold hdue, hclose]
    refine ⟨rfl, by simp, ?_, rfl⟩
    simp [Dev.traceRec, List.drop_left' (length_recordHeader ..)]
  case young => exact fun s h hdue => completes_of_run rfl (traceFlush_young h hdue)
  case lost =>
    intro s n a z hl hu hdue
    refine completes_of_run rfl ?_
    simp only [traceLostRecord, hl, Option.isSome_some, if_true, Dev.stageLost, Nat.not_le_of_lt hu, if_false]
    exact settleTrace_of_not_due hdue
  case switchedOn =>
    intro s path v hp hu h0
    refine completes_of_run rfl ?_
    have hon := (traceCtrlWrite_eq hp hu v).trans (writeTrcCtrl_on s.dev h0)
    have hkept := powerUp_only { s.dev with trc := { s.dev.trc.ctrl v with downDue := false } } 170 causeHost
    rw [hon, show (Dev.powerUp _ _ _).trc = _ from hkept.same .trc rfl, show (Dev.powerUp _ _ _).mem = _ from hkept.same .mem rfl]
    exact ⟨h0, rfl, rfl, rfl, rfl, rfl, rfl, rfl⟩
  case switchedOff =>
    intro s path v hp hu h0 h1 h3 he hs hl hon
    refine completes_of_run rfl ?_
    have hoff := powerDown_on (d := { s.dev with trc := { s.dev.trc.ctrl v with downDue := false } }) causeHost hon h3
    rw [traceCtrlWrite_eq hp hu v, writeTrcCtrl_off h0 h1 he hs hl, hoff]
    refine ⟨h0, h1, dom_discharge (lt_of_dom_ne_off (d := s.dev) (by simp [hon])), ?_⟩
    simp [Dev.goesDown, Dev.discharge]

end Sys2Proof.Machine
end

section
/-! SUPPORT. The supplies and the halts that they bring: what a power loss keeps (R415, R430, R433), and events of the power block (R454). -/

namespace Sys2Proof.Machine

/-! ### A power loss -/

/-- A record put into a latch with room stands last in it (R386). -/
theorem latchPush_latch {d : Dev} (h : d.health.latch.length < 16) (r : Rec) : (d.latchPush r).health.latch = d.health.latch ++ [r] := by
  simp [Dev.latchPush, h]

/-- The reset of everything but the standby part keeps the latch. -/
theorem resetDevice_latch (d : Dev) : (d.resetDevice false false).health.latch = d.health.latch := by
  rw [Dev.resetDevice, (fenceByCrater_only _).same .health rfl]
  rfl

section
variable (d : Dev) (code : Nat)

@[simp] theorem powerLoss_phase : (d.powerLoss code).pwr.phase = .halted := rfl
@[simp] theorem powerLoss_pdOk : (d.powerLoss code).pwr.pdOk = 0 := rfl
@[simp] theorem powerLoss_ctlUp : (d.powerLoss code).pwr.ctlUp = false := rfl

@[simp] theorem powerLoss_mgt : (d.powerLoss code).mgt = d.mgt := (latchPush_only d _).same .mgt rfl

@[simp] theorem powerLoss_plans : (d.powerLoss code).plans = [] :=
  (fenceByCrater_only ((d.latchPush (d.mkRec 5 0 code 0)).afterReset false false)).same .plans rfl

@[simp] theorem powerLoss_jtag : (d.powerLoss code).jtag = d.jtag :=
  Eq.trans ((fenceByCrater_only ((d.latchPush (d.mkRec 5 0 code 0)).afterReset false false)).same .jtag rfl)
    ((latchPush_only d (d.mkRec 5 0 code 0)).same .jtag rfl)

/-- The newest record of the latch is the one of CLASS 5 that says why (R430). -/
theorem powerLoss_code (h : d.health.latch.length < 16) :
    (d.powerLoss code).health.latch.getLast?.map (·.code) = some (BitVec.ofNat 16 code) := by
  have hlatch : (d.powerLoss code).health.latch = (d.latchPush (d.mkRec 5 0 code 0)).health.latch := resetDevice_latch _
  rw [hlatch, latchPush_latch h, List.getLast?_concat]
  rfl
end

/-! ### What the switching of domains leaves of the power block -/

/-- All of the power block but its domains and what waits for them. -/
def Pwr.unswitched (p : Pwr) : Pwr := { p with doms := [], waitUp := [], waitDown := [], downs := [], deadDoms := [], badSites := [] }

theorem events_of_unswitched {p q : Pwr} (h : p.unswitched = q.unswitched) : p.events = q.events := (congrArg Pwr.events h :)
theorem phase_of_unswitched {p q : Pwr} (h : p.unswitched = q.unswitched) : p.phase = q.phase := (congrArg Pwr.phase h :)
theorem cfgDone_of_unswitched {p q : Pwr} (h : p.unswitched = q.unswitched) : p.cfgDone = q.cfgDone := (congrArg Pwr.cfgDone h :)
theorem pins_of_unswitched {p q : Pwr} (h : p.unswitched = q.unswitched) :
    p.perstHigh = q.perstHigh ∧ p.pcieUp = q.pcieUp ∧ p.lastReset = q.lastReset :=
  ⟨(congrArg Pwr.perstHigh h :), (congrArg Pwr.pcieUp h :), (congrArg Pwr.lastReset h :)⟩

section
variable (d : Dev)

@[simp] theorem setPwrEvent_doms (i : Nat) : (d.setPwrEvent i).pwr.doms = d.pwr.doms := rfl

@[simp] theorem stageDomain_pwr (code dom cause : Nat) : (d.stageDomain code dom cause).pwr = d.pwr := (stageDomain_only ..).same .pwr rfl

theorem powerOff_pwr (k cause : Nat) : (d.powerOff k cause).pwr =
    { d.pwr with doms := d.pwr.doms.set k .ramping, downs := d.pwr.downs ++ [(k, d.bt.beat)] } := by
  have hbt : (d.stageDomain 0x2010 k cause).bt = d.bt := (stageDomain_only ..).same .bt rfl
  simp only [Dev.powerOff, Dev.discharge, stageDomain_pwr, hbt]

@[simp] theorem unswitched_foldl {α : Type} {f : Dev → α → Dev} (hf : ∀ d a, (f d a).pwr.unswitched = d.pwr.unswitched) (l : List α) (d : Dev) :
    (l.foldl f d).pwr.unswitched = d.pwr.unswitched := view_foldl (fun d => d.pwr.unswitched) hf l d

@[simp] theorem setDom_unswitched (k : Nat) (x : DomState) : (d.setDom k x).pwr.unswitched = d.pwr.unswitched := rfl

@[simp] theorem powerUp_unswitched (k cause : Nat) : (d.powerUp k cause).pwr.unswitched = d.pwr.unswitched := by
  unfold Dev.powerUp
  split <;> rfl

@[simp] theorem powerDown_unswitched (k cause : Nat) : (d.powerDown k cause).pwr.unswitched = d.pwr.unswitched := by
  unfold Dev.powerDown
  dsimp only
  repeat' split
  · rfl
  · rfl
  · rfl
  · rw [powerOff_pwr]
    rfl

theorem selfTestFailed_unswitched (n : Nat) : (d.selfTestFailed n).pwr.unswitched = d.pwr.unswitched := by
  have hfence : (d.fenceSite n 10 none 0xFFFFFFFF none).pwr = d.pwr := (fenceSite_only ..).same .pwr rfl
  unfold Dev.selfTestFailed
  split
  · rw [powerDown_unswitched, hfence]
  · rw [powerDown_unswitched, hfence]
  · rw [(testFailed_only ..).same .pwr rfl]
  · rfl

/-- The fences of dead units switch domains alone. -/
theorem fenceDeads_unswitched : d.fenceDeads.pwr.unswitched = d.pwr.unswitched := by
  have hdead : ∀ (e : Dev) (u : BitVec 16), (e.fenceDead u).pwr = e.pwr := fun e u => (fenceDead_only e u).same .pwr rfl
  unfold Dev.fenceDeads
  dsimp only
  rw [unswitched_foldl selfTestFailed_unswitched, view_foldl (·.pwr) fun e k => view_foldl (·.pwr) hdead (domainUnits k) e]
  rfl

end

end Sys2Proof.Machine
end

section
/-! PROOF. Supplies (R415, R428 to R431, R454): O7. -/

namespace Sys2Proof.Machine

/-- Settles O7: each supply event by what it makes of the power block, and a loss of power by what it keeps. -/
theorem suppliesStartAndStopTheDevice : Obligations.SuppliesStartAndStopTheDevice := by
  unfold Obligations.SuppliesStartAndStopTheDevice
  refine ⟨?rise, ?band, ?under, ?above, ?fault, ?vaux, ?trip⟩
  case rise =>
    intro s hin haux hfall
    refine completes_of_run rfl ?_
    simp [vinRise, hin, haux, hfall]
  case band =>
    intro s high hin hup hrst hev
    refine completes_of_run rfl ?_
    rw [vinOutOfRange, if_pos (by simp [hin, hup, hrst])]
    cases high <;> simp [Dev.setPwrEvent, Sticky.raise, hev]
  case under =>
    intro s hin hpd hlatch
    refine completes_of_run rfl ?_
    rw [vinUndervoltage, if_neg (by simp [hin]), if_neg hpd]
    exact ⟨rfl, rfl, rfl, rfl, rfl, powerLoss_code _ _ hlatch, powerLoss_plans s.dev 0x1A00, powerLoss_mgt .., powerLoss_jtag ..⟩
  case above =>
    intro s hin hpd hlatch
    refine completes_of_run rfl ?_
    rw [vinOvervoltage, if_neg (by simpa [hin] using hpd)]
    exact ⟨rfl, rfl, rfl, rfl, powerLoss_code _ _ hlatch, powerLoss_mgt ..⟩
  case fault =>
    intro s die hpd hlatch
    refine completes_of_run rfl ?_
    rw [powerDieFault, if_neg (by simp [hpd])]
    exact ⟨rfl, rfl, rfl, powerLoss_code _ _ hlatch, powerLoss_mgt ..⟩
  case vaux =>
    intro s haux
    refine completes_of_run rfl ?_
    rw [vauxLoss, if_neg (by simp [haux])]
    exact ⟨rfl, rfl, rfl, rfl, congrArg Health.latch ((fenceByCrater_only (s.dev.afterReset false true)).same .health rfl)⟩
  case trip =>
    intro s haux htrip hlatch
    refine completes_of_run rfl ?_
    rw [thermtrip, if_neg (by simp [haux, htrip])]
    exact ⟨rfl, rfl, rfl, rfl, powerLoss_code _ _ hlatch⟩

end Sys2Proof.Machine
end

section
/-! PROOF. Power domains and the sensors (R431, R434, R436, R454): O8. -/

namespace Sys2Proof.Machine

@[simp] theorem stageDomain_fwp (d : Dev) (code dom cause : Nat) : (d.stageDomain code dom cause).fwp = d.fwp :=
  (stageDomain_only ..).same .fwp rfl
@[simp] theorem siteReset_pwr (d : Dev) (n : Nat) : (d.siteReset n).pwr = d.pwr := (siteReset_only ..).same .pwr rfl
@[simp] theorem siteReset_fwp (d : Dev) (n : Nat) : (d.siteReset n).fwp = d.fwp := (siteReset_only ..).same .fwp rfl
@[simp] theorem powerOff_fwp (d : Dev) (k cause : Nat) : (d.powerOff k cause).fwp = d.fwp := (powerOff_only ..).same .fwp rfl

theorem runs_of_fwp {d e : Dev} (h : e.fwp = d.fwp) (i : Nat) : e.runs i = d.runs i := by
  simp only [Dev.runs, Dev.fw, h]

/-! ### Ramps (R434) -/

/-- A domain in regulation, with its record. -/
def Dev.rampUp (d : Dev) (k cause : Nat) : Dev :=
  (Dev.setDom { d with pwr := { d.pwr with ramps := d.pwr.ramps.filter (fun (x : Nat × Nat × BitVec 52) => x.1 != k) } } k
    .gated).stageDomain 0x2011 k cause

/-- A site that no plan uses is reset as its domain comes up. -/
def Dev.resetAtRamp (d : Dev) (k : Nat) : Dev := if k < 80 && d.siteState k != .inService then d.siteReset k else d

/-- The power-down that waited for the end of the ramp. -/
def Dev.downAfterRamp (d : Dev) (k : Nat) : Dev :=
  match d.pwr.waitDown.find? (fun w => w.1 == k) with
  | some w => ({ d with pwr := { d.pwr with waitDown := d.pwr.waitDown.filter (fun (x : Nat × Nat) => x.1 != k) } }).powerOff k w.2
  | none => d

section
variable (d : Dev) (k : Nat)

@[simp] theorem resetAtRamp_pwr : (d.resetAtRamp k).pwr = d.pwr := by
  unfold Dev.resetAtRamp
  split <;> simp

@[simp] theorem resetAtRamp_fwp : (d.resetAtRamp k).fwp = d.fwp := by
  unfold Dev.resetAtRamp
  split <;> simp

@[simp] theorem downAfterRamp_fwp : (d.downAfterRamp k).fwp = d.fwp := by
  unfold Dev.downAfterRamp
  split <;> simp

@[simp] theorem downAfterRamp_badSites : (d.downAfterRamp k).pwr.badSites = d.pwr.badSites := by
  unfold Dev.downAfterRamp
  split
  · rw [powerOff_pwr]
  · rfl

theorem downAfterRamp_none (h : d.pwr.waitDown = []) : d.downAfterRamp k = d := by
  simp [Dev.downAfterRamp, h]
end

theorem domainRampDone_eq {d : Dev} {k : Fin 171} {e : Nat × Nat × BitVec 52} (h : d.pwr.ramps.find? (fun e => e.1 == k.val) = some e)
    (ok : Bool) : domainRampDone k ok d =
      let up := ((d.rampUp k.val e.2.1).resetAtRamp k.val).downAfterRamp k.val
      if ok || 80 ≤ k.val then up
      else
        let noted : Dev := { up with pwr := { up.pwr with badSites := up.pwr.badSites ++ [k.val] } }
        if noted.runs 2 then noted.fenceDeads else noted := by
  unfold domainRampDone
  rw [h]
  rfl

/-- A ramp that ends with no power-down waiting leaves its domain GATED. -/
theorem domainRampDone_up {d : Dev} {k : Fin 171} {cause : Nat} {b : BitVec 52} (hr : d.pwr.ramps = [(k.val, cause, b)])
    (hw : d.pwr.waitDown = []) : (domainRampDone k true d).pwr = { d.pwr with ramps := [], doms := d.pwr.doms.set k.val .gated } := by
  have hfind : d.pwr.ramps.find? (fun e => e.1 == k.val) = some (k.val, cause, b) := by simp [hr]
  rw [domainRampDone_eq hfind]
  simp only [Bool.true_or, if_true]
  rw [downAfterRamp_none _ _ (by simp [Dev.rampUp, Dev.setDom, hw])]
  simp [Dev.rampUp, Dev.setDom, hr]

/-- A site whose self-test fails is noted while HLP cannot fence it (R435). -/
theorem domainRampDone_bad {d : Dev} {k : Fin 171} (hr : d.pwr.ramps.any (fun e => e.1 == k.val) = true) (hk : k.val < 80)
    (hf : d.runs 2 = false) : (domainRampDone k false d).pwr.badSites = d.pwr.badSites ++ [k.val] := by
  obtain ⟨e, hfind⟩ := Option.isSome_iff_exists.1 (List.find?_isSome.2 (List.any_eq_true.1 hr))
  rw [domainRampDone_eq hfind]
  dsimp only
  rw [if_neg (by simpa using hk), if_neg]
  · simp [Dev.rampUp, Dev.setDom]
  · rw [runs_of_fwp (d := d) (by simp [Dev.rampUp, Dev.setDom]), hf]
    exact Bool.false_ne_true

/-- A ramp of 800 beats has failed (R434). -/
theorem domainRampTimeout_event {d : Dev} {k : Fin 171} {cause : Nat} {b : BitVec 52} (hr : d.pwr.ramps = [(k.val, cause, b)])
    (hb : 800 ≤ d.since b) : (domainRampTimeout k d).pwr.events.val.getLsbD 4 = true := by
  have hfind : d.pwr.ramps.find? (fun e => e.1 == k.val) = some (k.val, cause, b) := by simp [hr]
  unfold domainRampTimeout
  rw [hfind]
  dsimp only
  rw [if_neg (Nat.not_lt.2 hb)]
  split
  · rw [events_of_unswitched (fenceDeads_unswitched _)]
    exact getLsbD_raise d.pwr.events 4 (by decide)
  · exact getLsbD_raise d.pwr.events 4 (by decide)

/-! ### PWR_DOMAIN_REQ (R434, R436) -/

/-- The value that requests the switching of a domain. -/
def domainReqValue (on : Bool) (k : BitVec 8) : BitVec 64 := BitVec.ofNat 64 (2 ^ 63 + 256 * b2n on + k.toNat)

theorem domainReqValue_fields (on : Bool) (k : BitVec 8) : (domainReqValue on k).getLsbD 63 = true ∧
    (domainReqValue on k).getLsbD 8 = on ∧ Sys2Proof.Machine.wf (domainReqValue on k) 7 0 = k.toNat := by
  have hk := k.isLt
  have hval : (domainReqValue on k).toNat = 2 ^ 63 + 256 * b2n on + k.toNat := by
    rw [domainReqValue, BitVec.toNat_ofNat]
    cases on <;> simp [b2n] <;> omega
  simp only [BitVec.getLsbD, Sys2Proof.Machine.wf, bitsOf, hval, Nat.testBit_eq_decide_div_mod_eq, Nat.shiftRight_zero]
  cases on <;> simp [b2n] <;> omega

/-- The request that PWR_DOMAIN_REQ shows. -/
def Dev.requested (d : Dev) (on : Bool) (k : BitVec 8) : Dev :=
  { d with pwr := { d.pwr with reqOn := on, reqDomain := BitVec.ofNat 8 k.toNat } }

/-- A write of PWR_DOMAIN_REQ with GO shows the request and serves it. -/
theorem pathWrite_domainReq {d : Dev} {path : RegPath} (hp : d.pathOpen path = true) (hu : d.pwr.ctlUp = true) (on : Bool) (k : BitVec 8) :
    d.pathWrite path 0x3080 (domainReqValue on k) = (d.requested on k).domainReq k.toNat on := by
  obtain ⟨hgo, hon, hdom⟩ := domainReqValue_fields on k
  rw [pathWrite_reg hp (b := .pwr) (by decide) (blockUp_of_domain_none (by decide) rfl hu)]
  simp only [Dev.writeReg, Dev.writePwr, hgo, hon, hdom, if_true, Dev.requested]

/-- The requests for a solver engine's domain that R436 allows, and none for a domain past the last. -/
theorem domainReqOk_solver {d : Dev} {k : Nat} (hlo : 165 ≤ k) (hhi : k < 169) (on : Bool) :
    d.domainReqOk k on = if on then (d.slv.getD (k - 165) {}).inService else !d.anyArmed := by
  unfold Dev.domainReqOk
  rw [if_neg (by simp; omega), if_pos (by simp; omega)]

theorem domainReqOk_past {d : Dev} {k : Nat} (hk : 169 ≤ k) (on : Bool) : d.domainReqOk k on = false := by
  unfold Dev.domainReqOk
  rw [if_neg (by simp; omega), if_neg (by simp; omega)]

/-- An allowed request for a domain that is off waits for its ramp. -/
theorem domainReq_on {d : Dev} {k : Nat} (hok : d.domainReqOk k true = true) (hoff : d.dom k = .off) (hw : d.pwr.waitUp = []) :
    d.domainReq k true = { d with pwr := { d.pwr with waitUp := [(k, causeHost)] } } := by
  simp [Dev.domainReq, hok, Dev.powerUp, hoff, hw]

/-- An allowed request for a domain that is on discharges it. -/
theorem domainReq_off {d : Dev} {k : Nat} (hok : d.domainReqOk k false = true) (hon : d.dom k = .on) : (d.domainReq k false).pwr =
    { d.pwr with
      waitUp := d.pwr.waitUp.filter (fun (x : Nat × Nat) => x.1 != k)
      doms := d.pwr.doms.set k .ramping, downs := d.pwr.downs ++ [(k, d.bt.beat)] } := by
  have hdom : ∀ p : Pwr, p.doms = d.pwr.doms → Dev.dom { d with pwr := p } k = .on := fun p hp => by rw [Dev.dom, hp]; exact hon
  simp only [Dev.domainReq, hok, Bool.not_true, Bool.false_eq_true, if_false, Dev.powerDown, hdom, powerOff_pwr]

/-! ### The sensors (R454) -/

/-- A sample without a trip shows the hottest die, and with the control part up and out of reset the power dies. -/
theorem sensorSample_shows {d : Dev} {x : Sample} (haux : d.pwr.vauxOk = true) (hu : d.pwr.ctlUp = true) (hrst : d.pwr.sysRst = false)
    (hcool : x.dies.any (fun t => decide ((1150 : Int) ≤ t.toInt)) = false) : let e := sensorSample x d
    (e.mgt.hotDie = BitVec.ofNat 8 (hottest x.dies).1 ∧ e.mgt.tempNow = tempNow (hottest x.dies).2) ∧
    e.pwr.pds = x.pds ∧ e.pwr.sampleTs = d.now ∧ e.pwr.hotTemp = (hottest x.dies).2 := by
  dsimp only
  rw [sensorSample, if_neg (by simp [haux]), if_neg (by simp [hcool])]
  dsimp only
  rw [if_neg (by simp [hu, hrst])]
  repeat' split
  all_goals exact ⟨⟨rfl, rfl⟩, rfl, rfl, rfl⟩

/-- Settles O8: the ends of a ramp, the requests that switch a domain, and the sensors below and at the trip. -/
theorem domainsRampAndSensorsReport : Obligations.DomainsRampAndSensorsReport := by
  unfold Obligations.DomainsRampAndSensorsReport
  refine ⟨?up, ?bad, ?timeout, ?on, ?off, ?refused, ?trip, ?sample⟩
  case up =>
    intro s k cause b hr hw hlen
    refine completes_of_run rfl ?_
    simp only [Dev.dom, domainRampDone_up hr hw]
    refine ⟨?_, by simp⟩
    simp [hlen]
  case bad => exact fun s k hr hk hf => completes_of_run rfl (domainRampDone_bad hr hk hf)
  case timeout => exact fun s k cause b hr hb => completes_of_run rfl (domainRampTimeout_event hr hb)
  case on =>
    intro s path k hp hlo hhi hin hoff hu hw
    refine completes_of_run rfl ?_
    have hreq : domainPowerUp path k s.dev = _ := pathWrite_domainReq hp hu true k
    rw [hreq, domainReq_on (d := s.dev.requested true k) ((domainReqOk_solver hlo hhi true).trans hin) hoff hw]
    exact ⟨rfl, rfl⟩
  case off =>
    intro s path k hp hlo hhi harm hon hu hlen
    refine completes_of_run rfl ?_
    have hreq : domainPowerDown path k s.dev = _ := pathWrite_domainReq hp hu false k
    have hok : (!s.dev.anyArmed) = true := by rw [harm, Bool.not_false]
    rw [hreq, Dev.dom, domainReq_off (d := s.dev.requested false k) ((domainReqOk_solver hlo hhi false).trans hok) hon]
    exact ⟨dom_setDom_same s.dev .ramping (by omega), rfl⟩
  case refused =>
    intro s path k hp hu hk
    refine completes_of_run rfl ?_
    have hreq : domainPowerDown path k s.dev = _ := pathWrite_domainReq hp hu false k
    rw [hreq, Dev.domainReq, if_pos (by rw [domainReqOk_past hk, Bool.not_false])]
    exact ⟨getLsbD_raise s.dev.pwr.events 5 (by decide), rfl⟩
  case trip =>
    intro s x haux htrip hhot hlatch
    refine completes_of_run rfl ?_
    rw [sensorSample, if_neg (by simp [haux]), if_pos (by simp [hhot, htrip]), thermtrip, if_neg (by simp [haux, htrip])]
    exact ⟨rfl, rfl, powerLoss_code _ _ hlatch⟩
  case sample =>
    intro s x haux hu hrst hcool
    obtain ⟨⟨hdie, htemp⟩, hpds⟩ := sensorSample_shows haux hu hrst hcool
    exact completes_of_run rfl ⟨hdie, htemp, hpds⟩

end Sys2Proof.Machine
end

section
/-! SUPPORT. What a function-level reset leaves: the power block but for its domains, and the channels that it has reset (R409, R440). -/

namespace Sys2Proof.Machine

/-- The channel has no session and has seen no request (R84, R440). -/
def Chan.fresh (c : Chan) : Prop := c.session = none ∧ c.lastSeq = 0xFFFFFFFF

section
variable (d : Dev)

@[simp] theorem coolHeld_unswitched (die : Nat) : (d.coolHeld die).pwr.unswitched = d.pwr.unswitched := by
  unfold Dev.coolHeld
  dsimp only
  rw [unswitched_foldl fun e s => powerDown_unswitched ..]
  split
  · rfl
  · split
    · rfl
    · simp only [setDom_unswitched, setSiteState_pwr, siteReset_pwr]
      rfl

@[simp] theorem powerHeld_unswitched (s : Nat) : (d.powerHeld s).pwr.unswitched = d.pwr.unswitched := by
  unfold Dev.powerHeld
  repeat' split
  · rfl
  · rw [powerUp_unswitched]
  · rfl
  · rfl

@[simp] theorem settleHeld_unswitched : d.settleHeld.pwr.unswitched = d.pwr.unswitched := by
  unfold Dev.settleHeld
  split <;> simp

@[simp] theorem settleReleases_pwr : d.settleReleases.pwr = d.pwr := (settleReleases_only _).same .pwr rfl
@[simp] theorem releasePlan_pwr (p : Plan) : (d.releasePlan p).pwr = d.pwr := (releasePlan_only ..).same .pwr rfl
@[simp] theorem discardChunk_pwr (p : Plan) (c : Nat) : (d.discardChunk p c).pwr = d.pwr := (discardChunk_only ..).same .pwr rfl
@[simp] theorem discardReqs_pwr (c : Nat) : (d.discardReqs c).pwr = d.pwr := (discardReqs_only ..).same .pwr rfl
@[simp] theorem finishReq_pwr (r : Req) (result : Nat) (fields : List Byte) (ends : Bool) : (d.finishReq r result fields ends).pwr = d.pwr :=
  (finishReq_only d r result fields ends).same .pwr rfl

@[simp] theorem settleRetire_unswitched (h : BitVec 16) : (d.settleRetire h).pwr.unswitched = d.pwr.unswitched := by
  unfold Dev.settleRetire
  dsimp only
  repeat' split
  all_goals simp

@[simp] theorem beginRetire_unswitched (p : Plan) : (d.beginRetire p).pwr.unswitched = d.pwr.unswitched := by
  refine (settleRetire_unswitched _ _).trans (unswitched_foldl (fun e c => ?_) _ _)
  split <;> simp

@[simp] theorem askRetire_unswitched (func : Nat) : (d.askRetire func).pwr.unswitched = d.pwr.unswitched := by
  unfold Dev.askRetire
  repeat' split
  · exact unswitched_foldl beginRetire_unswitched _ d
  · rfl
  · rfl

@[simp] theorem beginRelease_unswitched (n : Nat) : (d.beginRelease n).pwr.unswitched = d.pwr.unswitched := by
  unfold Dev.beginRelease
  dsimp only
  split
  · rfl
  · simp only [settleReleases_pwr, askRetire_unswitched, discardReqs_pwr]
    split <;> rfl

/-- A function-level reset leaves the power block but for the domains of sites that no plan holds any more. -/
theorem flr_unswitched (func : Nat) : (d.flr func).pwr.unswitched = d.pwr.unswitched := by
  have hchan : ∀ (e : Dev) (c : Nat), (e.chanFlr c).pwr = e.pwr := fun e c => (chanFlr_only ..).same .pwr rfl
  have hqueue : ∀ e : Dev, (e.queueFlr func).pwr = e.pwr := fun e => (queueFlr_only ..).same .pwr rfl
  unfold Dev.flr
  dsimp only
  split
  · rw [askRetire_unswitched, view_foldl (·.pwr) hchan, hqueue]
  · rw [hchan, beginRelease_unswitched, hqueue]

/-! ### Channels -/

theorem chans_length_of_sizes {d e : Dev} (h : e.sizes = d.sizes) : e.chans.length = d.chans.length := by
  simp only [Dev.sizes, List.cons.injEq] at h
  exact h.2.1

theorem modChan_fresh {f : Chan → Chan} (hf : ∀ x : Chan, x.fresh → (f x).fresh) (c : Nat) {k : Nat} (h : (d.chan k).fresh) :
    ((d.modChan c f).chan k).fresh := by
  by_cases hk : c = k
  · subst hk
    by_cases hc : c < d.chans.length
    · rw [chan_modChan_same _ _ hc]
      exact hf _ h
    · rw [Dev.chan, Dev.modChan, List.modify_eq_self (Nat.le_of_not_lt hc)]
      exact h
  · rw [chan_modChan_other _ _ hk]
    exact h

theorem chanFlr_fresh {c : Nat} (hc : c < d.chans.length) : ((d.chanFlr c).chan c).fresh := by
  obtain ⟨-, -, hseq, -, -⟩ := resetChan_chan hc
  rw [Dev.chanFlr, chan_modChan_same _ _ (by rwa [chans_length_of_sizes (resetChan_sizes d c)])]
  exact ⟨rfl, hseq⟩

theorem resetChan_fresh (c : Nat) {k : Nat} (h : (d.chan k).fresh) : ((d.resetChan c).chan k).fresh := by
  unfold Dev.resetChan
  dsimp only
  refine modChan_fresh _ (fun _ hx => by exact ⟨hx.1, rfl⟩) c ?_
  split
  · have hk := endSessions_chan d k
    exact ⟨congrArg Chan.session hk, (congrArg Chan.lastSeq hk).trans h.2⟩
  · exact h

theorem chanFlr_keeps_fresh (c : Nat) {k : Nat} (h : (d.chan k).fresh) : ((d.chanFlr c).chan k).fresh :=
  modChan_fresh _ (fun _ hx => by exact ⟨rfl, hx.2⟩) c (resetChan_fresh d c h)

theorem finishRelease_fresh (n : Nat) {k : Nat} (h : (d.chan k).fresh) : ((d.finishRelease n).chan k).fresh := by
  have hreset : ∀ e : Dev, e.chans = d.chans → (((e.resetChan n).modChan n (fun c => { c with session := none })).chan k).fresh :=
    fun e he => modChan_fresh _ (fun _ hx => by exact ⟨rfl, hx.2⟩) n (resetChan_fresh e n (chan_of_chans he k ▸ h))
  have howned : (match d.sec.tenancies.getD (n - 1) none with | some t => d.wipeOwned t | none => d).chans = d.chans := by
    split
    · exact (wipeOwned_only ..).same .chans rfl
    · rfl
  unfold Dev.finishRelease
  dsimp only
  split
  · rw [chan_of_chans ((endRelease_only ..).same .chans rfl)]
    exact hreset _ howned
  · rw [chan_of_chans ((beginWipe_only ..).same .chans rfl)]
    exact hreset _ howned

theorem fresh_foldl {α : Type} {f : Dev → α → Dev} {k : Nat} (hf : ∀ (d : Dev) a, (d.chan k).fresh → ((f d a).chan k).fresh) (l : List α)
    {d : Dev} (h : (d.chan k).fresh) : ((l.foldl f d).chan k).fresh := by
  induction l generalizing d with
  | nil => exact h
  | cons a l ih => exact ih (hf d a h)

theorem settleReleases_fresh {k : Nat} (h : (d.chan k).fresh) : (d.settleReleases.chan k).fresh :=
  fresh_foldl (fun e n => finishRelease_fresh e n) _ h

theorem settleRetire_fresh (r : BitVec 16) {k : Nat} (h : (d.chan k).fresh) : ((d.settleRetire r).chan k).fresh := by
  have hplan : ∀ p, (d.releasePlan p).chans = d.chans := fun p => (releasePlan_only ..).same .chans rfl
  have hheld : ∀ e : Dev, e.settleHeld.chans = e.chans := fun e => (settleHeld_only _).same .chans rfl
  have hreq : ∀ (e : Dev) r, (e.finishReq r sOk []).chans = e.chans := fun e r => (finishReq_only ..).same .chans rfl
  unfold Dev.settleRetire
  dsimp only
  repeat' split
  · exact h
  · exact h
  · refine settleReleases_fresh _ ?_
    rwa [chan_of_chans (hheld _), chan_of_chans (hplan _)]
  · refine settleReleases_fresh _ ?_
    rwa [chan_of_chans (hheld _), chan_of_chans (hreq _ _), chan_of_chans (hplan _)]

theorem beginRetire_fresh (p : Plan) {k : Nat} (h : (d.chan k).fresh) : ((d.beginRetire p).chan k).fresh := by
  refine settleRetire_fresh _ _ (fresh_foldl (fun e c he => ?_) p.cores (by exact h))
  split
  · rwa [chan_of_chans ((discardChunk_only ..).same .chans rfl)]
  · exact he

theorem askRetire_fresh (func : Nat) {k : Nat} (h : (d.chan k).fresh) : ((d.askRetire func).chan k).fresh := by
  unfold Dev.askRetire
  repeat' split
  · exact fresh_foldl (fun e p => beginRetire_fresh e p) _ h
  · exact h
  · exact h

/-- A function-level reset leaves the function's channel without its session. -/
theorem flr_fresh {func : Nat} (hc : func < d.chans.length) : ((d.flr func).chan func).fresh := by
  have hqueue : ∀ e : Dev, (e.queueFlr func).chans = e.chans := fun e => (queueFlr_only ..).same .chans rfl
  unfold Dev.flr
  dsimp only
  split
  next h0 =>
    subst h0
    refine askRetire_fresh _ _ ?_
    rw [List.foldl_cons]
    refine fresh_foldl (fun e c he => chanFlr_keeps_fresh e c he) _ (chanFlr_fresh _ ?_)
    rwa [hqueue]
  · refine chanFlr_fresh _ ?_
    rwa [chans_length_of_sizes (beginRelease_sizes _ _), hqueue]

theorem flr_msixTab (func : Nat) : (d.flr func).msixTab = d.msixTab.set func [] := by
  have hqueue : ∀ e : Dev, (e.queueFlr func).msixTab = e.msixTab := fun e => (queueFlr_only ..).same .msixTab rfl
  have hchan : ∀ (e : Dev) (c : Nat), (e.chanFlr c).msixTab = e.msixTab := fun e c => (chanFlr_only ..).same .msixTab rfl
  unfold Dev.flr
  dsimp only
  split
  · rw [(askRetire_only ..).same .msixTab rfl, view_foldl (·.msixTab) hchan, hqueue]
  · rw [hchan, (beginRelease_only ..).same .msixTab rfl, hqueue]
end

end Sys2Proof.Machine
end

section
/-! PROOF. Resets (R409, R423, R429, R439 to R441, R444): O9. -/

namespace Sys2Proof.Machine

section
variable (d : Dev)

theorem driveBeat_pwr : d.driveBeat.pwr = d.pwr := (driveBeat_only d).same .pwr rfl
theorem driveBeat_plans : d.driveBeat.plans = d.plans := (driveBeat_only d).same .plans rfl
theorem driveBeat_health : d.driveBeat.health = d.health := (driveBeat_only d).same .health rfl
end

/-- BEAT_OUT is the device's own once the control part is up and out of reset (R37). -/
theorem driveBeat_own {d : Dev} (hu : d.pwr.ctlUp = true) (hrst : d.pwr.sysRst = false) : d.driveBeat.bt.beatOut = .own := by
  rw [Dev.driveBeat, if_pos (by simp [hu, hrst])]

theorem vfEnable_of_lasting {s x : Sec} (h : s.lasting = x.lasting) : s.vfEnable = x.vfEnable := (congrArg Sec.vfEnable h :)

/-- PCI_PERST_L low, before the functions are reset (R439). -/
def Dev.pcieLow (d : Dev) : Dev :=
  { d with pwr := { d.pwr with perstHigh := false, pcieUp := false, lastReset := 3 }, sec := { d.sec with vfEnable := false } }

theorem pcieReset_eq {d : Dev} (hu : d.pwr.ctlUp = true) (hrst : d.pwr.sysRst = false) :
    pcieReset d = (List.range 5).foldl Dev.flr d.pcieLow := by
  rw [pcieReset, if_neg (by simp [hu, hrst])]
  rfl

/-- Settles O9: a reset by what `resetDevice` starts afresh and keeps, and a function's by what its tenancy's release leaves. -/
theorem resetsClearAndKeep : Obligations.ResetsClearAndKeep := by
  unfold Obligations.ResetsClearAndKeep
  refine ⟨?vaux, ?control, ?fall, ?rise, ?pcie, ?up, ?flr, ?vf⟩
  case vaux =>
    intro s x h
    refine completes_of_run rfl ?_
    rw [coldReset, if_neg (by simp [h])]
    exact ⟨rfl, rfl, rfl, rfl, rfl, rfl, rfl⟩
  case control =>
    intro s hu haux hin hpd
    refine completes_of_run rfl ?_
    rw [coldReset, if_neg (by simp [hu, haux, hin, hpd])]
    refine ⟨congrArg Pwr.ctlUp (driveBeat_pwr _), congrArg Pwr.phase (driveBeat_pwr _), congrArg Pwr.lastReset (driveBeat_pwr _), ?_,
      congrArg Mem.bytes (driveBeat_mem _), driveBeat_plans _, (congrArg Health.latch (driveBeat_health _)).trans (resetDevice_latch s.dev), ?_,
      congrArg Sec.failCount (driveBeat_sec _)⟩
    · exact fun hrst => driveBeat_own rfl hrst
    · exact (congrArg Sec.lcState (driveBeat_sec _)).trans (congrArg Fuses.lcState (resetDevice_fuses s.dev false false))
  case fall =>
    intro s x fl haux hrst hu
    refine completes_of_run rfl ?_
    rw [warmReset, if_neg (by simp [haux, hrst]), if_pos (by rfl), if_pos hu]
    refine ⟨rfl, rfl, rfl, rfl, rfl, rfl, rfl, rfl, rfl, ?_⟩
    intro i
    fin_cases i <;> rfl
  case rise =>
    intro s x fl haux hrst hagain
    refine completes_of_run rfl ?_
    rw [warmReset, if_neg (by simp [haux, hrst]), if_neg (by decide)]
    dsimp only
    have hcold : ((s.dev.takeStraps x).pwr.again && (s.dev.takeStraps x).pwr.ctlUp) = false := by
      simp [Dev.takeStraps, hagain]
    rw [if_neg (by rw [hcold]; exact Bool.false_ne_true)]
    exact ⟨congrArg Pwr.sysRst (driveBeat_pwr _), congrArg Pwr.pos (driveBeat_pwr _), congrArg Pwr.priority (driveBeat_pwr _),
      (congrArg Pwr.phase (driveBeat_pwr _)).trans rfl, driveBeat_sec _⟩
  case pcie =>
    intro s hu hrst
    refine completes_of_run rfl ?_
    obtain ⟨hperst, hup, hlast⟩ := pins_of_unswitched (unswitched_foldl flr_unswitched (List.range 5) s.dev.pcieLow)
    rw [pcieReset_eq hu hrst]
    exact ⟨hperst, hup, hlast, vfEnable_of_lasting (lasting_foldl flr_lasting (List.range 5) s.dev.pcieLow)⟩
  case up =>
    intro s hu hrst
    refine completes_of_run rfl ?_
    rw [pcieEndpointUp, if_pos (by simp [hu, hrst])]
    exact ⟨rfl, rfl⟩
  case flr =>
    intro s func hpcie hlen
    refine completes_of_run rfl ?_
    rw [functionLevelReset, if_pos hpcie]
    exact ⟨flr_msixTab _ _, flr_fresh s.dev (by omega)⟩
  case vf =>
    intro s hpcie hvf
    refine completes_of_run rfl ?_
    rw [vfEnableClear, if_pos (by simp [hpcie, hvf])]
    have hsec := lasting_foldl beginRelease_lasting [1, 2, 3, 4] { s.dev with sec := { s.dev.sec with vfEnable := false } }
    exact vfEnable_of_lasting hsec

end Sys2Proof.Machine
end

section
/-! PROOF. The boot and the firmware processors (R61, R327, R403, R442, R443): O10. -/

namespace Sys2Proof.Machine

/-! ### The firmware processors -/

theorem fw_of_fwp {d e : Dev} (h : e.fwp = d.fwp) (i : Nat) : e.fw i = d.fw i := by rw [Dev.fw, h, Dev.fw]

/-- A processor that is not as after reset stands in the table. -/
theorem fw_lt_of_state {d : Dev} {i : Nat} (h : (d.fw i).state ≠ .held) : i < d.fwp.length := by
  by_contra hi
  exact h (congrArg Fwp.state (List.getD_eq_default _ _ (Nat.le_of_not_lt hi)))

theorem state_of_runs {d : Dev} {i : Nat} (h : d.runs i = true) : (d.fw i).state = .running := by
  simp only [Dev.runs, Bool.and_eq_true, beq_iff_eq] at h
  exact h.1

theorem lt_of_runs {d : Dev} {i : Nat} (h : d.runs i = true) : i < d.fwp.length := fw_lt_of_state (by simp [state_of_runs h])

section
variable (d : Dev)

@[simp] theorem writeRecord_fwp (r : Rec) : (d.writeRecord r).fwp = d.fwp := (writeRecord_only d r).same .fwp rfl
@[simp] theorem haltDevice_fwp : d.haltDevice.fwp = d.fwp := (haltDevice_only d).same .fwp rfl
@[simp] theorem latchPush_fwp (r : Rec) : (d.latchPush r).fwp = d.fwp := (latchPush_only d r).same .fwp rfl

theorem haltDevice_halted : d.haltDevice.pwr.phase = .halted ∧ d.haltDevice.pwr.ready = false := by
  simp only [Dev.haltDevice, Dev.gateHalted]
  split <;> exact ⟨rfl, rfl⟩
end

/-- A processor that runs again after the watchdog of HP, BSP, HLP or LKP (R61). -/
theorem processorWatchdogExpiry_fwp {d : Dev} {i : Fin 5} (h : d.runs i.val = true) (hi : i.val ≠ 3) : (processorWatchdogExpiry i d).fwp =
    (d.modFw i.val (fun f => { f with state := .restarting, restarts := satInc f.restarts })).fwp := by
  have hsettle : ∀ (e : Dev) (x : BitVec 16), (e.settlePlan x).fwp = e.fwp := fun e x => (settlePlan_only e x).same .fwp rfl
  have hstop : ∀ (e : Dev) (c : BitVec 16), (e.stopPlans c).fwp = e.fwp := fun e c => (stopPlans_only e c).same .fwp rfl
  unfold processorWatchdogExpiry
  rw [if_neg (by simp [h])]
  dsimp only
  rw [if_neg hi]
  split
  · rw [view_foldl (·.fwp) hsettle]
    simp
  · rw [hstop]
    simp
  · simp

/-- The device halts with SCP (R61). -/
theorem processorWatchdogExpiry_scp {d : Dev} (h : d.runs 3 = true) : processorWatchdogExpiry 3 d =
    ((d.modFw 3 (fun f => { f with state := .halted })).writeRecord (d.mkRec 5 0 0x0900 (unitId 8 3))).haltDevice := by
  unfold processorWatchdogExpiry
  exact if_neg (by simp [h])

theorem processorRestartDone_fwp {d : Dev} {i : Fin 5} (h : (d.fw i.val).state = .restarting) :
    (processorRestartDone i d).fwp = (d.modFw i.val (fun f => { f with state := .running })).fwp := by
  have hreq : ∀ (e : Dev) (r : Req), (e.finishReq r sInternal []).fwp = e.fwp := fun e r => (finishReq_only ..).same .fwp rfl
  unfold processorRestartDone
  rw [if_neg (by simp [h])]
  dsimp only
  repeat' split
  · exact (serveRings_only _).same .fwp rfl
  · exact view_foldl (·.fwp) hreq _ _
  · exact Eq.trans ((fenceDeads_only _).same .fwp rfl) ((takeHeld_only _).same .fwp rfl)
  · rfl

/-! ### FIRMWARE_AUTH (R291, R403, R442) -/

/-- A bank runs: the processors run its image, MIN_EPOCH rises to its epoch, and the wipe of every stack begins. -/
def Dev.bootBankRuns (d : Dev) (b : Bank) (bank : Bool) : Dev :=
  let epoch := b.version.extractLsb' 16 8
  { d with
    sec := { d.sec with activeBank := bank, minEpoch := if d.sec.minEpoch.toNat < epoch.toNat then epoch else d.sec.minEpoch }
    fwp := d.fwp.map (fun (f : Fwp) => { f with state := .running, version := b.version })
    stks := d.stks.map (fun (t : Stk) => { t with wipeBusy := true })
    dscs := d.dscs.map (fun (t : Dsc) => { t with wipeBusy := true })
    pwr := { d.pwr with phase := .wipe, wiped := List.replicate 16 false } }

/-- The ROM halts the device, for neither bank passes. -/
def Dev.bootFails (d : Dev) : Dev :=
  ({ d with fwp := d.fwp.modify 3 (fun (f : Fwp) => { f with state := .halted }) }.latchPush (d.mkRec 5 0 0x1801 (unitId 8 3))).haltDevice

section
variable {d : Dev} (hphase : d.pwr.phase = .auth) (hu : d.pwr.ctlUp = true) (hrst : d.pwr.sysRst = false)
include hphase hu hrst

theorem firmwareAuth_first (hpass : d.sec.passes (if d.sec.bootBank then d.sec.bank1 else d.sec.bank0) = true) : ∃ l : List Nat,
    firmwareAuth [] d =
      (l.foldl Dev.keyFails (d.bootBankRuns (if d.sec.bootBank then d.sec.bank1 else d.sec.bank0) d.sec.bootBank)).takeHeld.fenceDeads := by
  unfold firmwareAuth
  rw [if_neg (by simp [hphase, hu, hrst])]
  dsimp only
  rw [if_neg (by simp [hpass]), hpass]
  exact ⟨_, rfl⟩

theorem firmwareAuth_neither (h0 : d.sec.passes d.sec.bank0 = false) (h1 : d.sec.passes d.sec.bank1 = false) (bad : List (Fin 8)) :
    firmwareAuth bad d = d.bootFails := by
  unfold firmwareAuth
  rw [if_neg (by simp [hphase, hu, hrst])]
  dsimp only
  rw [if_pos (by cases d.sec.bootBank <;> simp [h0, h1])]
  rfl
end

section
variable (d : Dev) (l : List Nat)

/-- What the keys that fail their check and the records and fences due to HLP leave. -/
theorem afterBoot_keeps : let e := (l.foldl Dev.keyFails d).takeHeld.fenceDeads
    e.pwr.phase = d.pwr.phase ∧ e.fwp = d.fwp ∧ e.stks = d.stks ∧ e.sec.lasting = d.sec.lasting := by
  have hkey : ∀ (e : Dev) (k : Nat), (e.keyFails k).sec.lasting = e.sec.lasting := by
    intro e k
    unfold Dev.keyFails
    split
    · rw [writeRecord_sec]
      rfl
    · rfl
  have hkeys := Only.foldl keyFails_only l (Only.refl _ d)
  have hheld := takeHeld_only (l.foldl Dev.keyFails d)
  have hdead := fenceDeads_only (l.foldl Dev.keyFails d).takeHeld
  refine ⟨?_, ?_, ?_, ?_⟩
  · rw [phase_of_unswitched (fenceDeads_unswitched _), hheld.same .pwr rfl, hkeys.same .pwr rfl]
  · rw [hdead.same .fwp rfl, hheld.same .fwp rfl, hkeys.same .fwp rfl]
  · rw [hdead.same .stks rfl, hheld.same .stks rfl, hkeys.same .stks rfl]
  · rw [fenceDeads_sec, takeHeld_sec, lasting_foldl hkey]
end

theorem le_epoch (e : BitVec 8) (m : BitVec 8) : m.toNat ≤ (if m.toNat < e.toNat then e else m).toNat := by
  split
  next h => exact h.le
  next => exact le_rfl

theorem activeBank_of_lasting {s x : Sec} (h : s.lasting = x.lasting) : s.activeBank = x.activeBank := (congrArg Sec.activeBank h :)
theorem minEpoch_of_lasting {s x : Sec} (h : s.lasting = x.lasting) : s.minEpoch = x.minEpoch := (congrArg Sec.minEpoch h :)

/-! ### CFG_DONE (R443) -/

/-- The configuration stands (R443). -/
def Dev.configured (d : Dev) : Dev :=
  { d with
    pwr := { d.pwr with cfgDone := true, phase := .links }
    lnk := { d.lnk with coordUsed := BitVec.ofNat 15 (d.lnk.w.toNat * 4096 + d.lnk.xyz.toNat) } }

theorem startLinks_eq {d : Dev} (h : d.pwr.phase = .waitCfg) : d.startLinks = (List.range 24).foldl (fun (d : Dev) p =>
    if (d.port p).state == .fenced || d.axisSize (axisOf (dirOf p)) = 1 then d
    else (d.modPort p (fun q => { q with state := .training })).powerUp (128 + p) causeOther) d.configured := by
  unfold Dev.startLinks
  exact if_neg (by simp [h])

theorem startLinks_links {d : Dev} (h : d.pwr.phase = .waitCfg) : d.startLinks.pwr.phase = .links ∧ d.startLinks.pwr.cfgDone = true := by
  have hport : ∀ (e : Dev) (p : Nat), (if (e.port p).state == .fenced || e.axisSize (axisOf (dirOf p)) = 1 then e
      else (e.modPort p (fun q => { q with state := .training })).powerUp (128 + p) causeOther).pwr.unswitched = e.pwr.unswitched := by
    intro e p
    split
    · rfl
    · rw [powerUp_unswitched, modPort_pwr]
  have hpwr := unswitched_foldl hport (List.range 24) d.configured
  rw [startLinks_eq h]
  exact ⟨phase_of_unswitched hpwr, cfgDone_of_unswitched hpwr⟩

/-! ### TRAINING_DONE (R326, R327, R442) -/

/-- The port does not train. -/
def Dev.trained (d : Dev) (p : Nat) : Prop := (d.port p).state ≠ .training

theorem trained_of_ports {d e : Dev} (h : e.lnk.ports = d.lnk.ports) {p : Nat} (hd : d.trained p) : e.trained p := by
  rwa [Dev.trained, Dev.port, h]

theorem enqueue_state (q : Port) (f : Flit) : (q.enqueue f).state = q.state := by
  unfold Port.enqueue
  split <;> rfl

section
variable {d : Dev} {p : Nat}

/-- An update of a port that does not make it train. -/
theorem modPort_trained {f : Port → Port} (hf : ∀ q : Port, q.state ≠ .training → (f q).state ≠ .training) (n : Nat) (h : d.trained p) :
    (d.modPort n f).trained p := by
  by_cases hn : n = p
  · subst hn
    by_cases hl : n < d.lnk.ports.length
    · rw [Dev.trained, port_modPort_same _ _ hl]
      exact hf _ h
    · exact trained_of_ports (List.modify_eq_self (Nat.le_of_not_lt hl)) h
  · rw [Dev.trained, port_modPort_other _ _ hn]
    exact h

/-- A port that is given a state does not train, wherever it stands. -/
theorem modPort_const_trained {q : Port} (hq : q.state ≠ .training) (d : Dev) (p : Nat) : (d.modPort p (fun _ => q)).trained p := by
  by_cases hl : p < d.lnk.ports.length
  · rw [Dev.trained, port_modPort_same _ _ hl]
    exact hq
  · refine trained_of_ports (List.modify_eq_self (Nat.le_of_not_lt hl)) ?_
    rw [Dev.trained, Dev.port, List.getD_eq_default _ _ (Nat.le_of_not_lt hl)]
    decide

theorem trainResult_ne (d : Dev) (p : Nat) (t : TrainIn) : d.trainResult p t ≠ .training := by
  unfold Dev.trainResult
  dsimp only
  repeat' split
  all_goals decide

/-- The record of a miswired port leaves the ports. -/
theorem recordMiswired_ports (bad : Bool) (unit : BitVec 16) (d : Dev) :
    (if bad then
      let d := d.setLnkEvent 4
      if d.lnk.inDims d.coord then d.writeRecord (d.mkRec 3 5 0x1405 unit) else d
    else d).lnk.ports = d.lnk.ports := by
  dsimp only
  repeat' split
  · rw [writeRecord_lnk]
    rfl
  · rfl
  · rfl

/-- A port after its training is a port that does not train (R327). -/
theorem trainPort_ports (d : Dev) (p : Nat) (t : TrainIn) :
    ∃ q : Port, q.state ≠ .training ∧ (d.trainPort p t).lnk.ports = (d.modPort p (fun _ => q)).lnk.ports := by
  unfold Dev.trainPort
  split
  · exact ⟨{}, by decide, rfl⟩
  · refine ⟨?port, ?state, ?ports⟩
    case ports => exact recordMiswired_ports ..
    case state => exact trainResult_ne d p t

theorem trainPort_trained (t : TrainIn) (n : Nat) (h : d.trained p) : (d.trainPort n t).trained p := by
  obtain ⟨q, hq, hports⟩ := trainPort_ports d n t
  exact trained_of_ports hports (modPort_trained (fun _ _ => hq) n h)

theorem trainPort_trained_same (d : Dev) (p : Nat) (t : TrainIn) : (d.trainPort p t).trained p := by
  obtain ⟨q, hq, hports⟩ := trainPort_ports d p t
  exact trained_of_ports hports (modPort_const_trained hq d p)

/-- Every port trained in turn, none trains. -/
theorem trainPorts_trained (t : Nat → TrainIn) (l : List Nat) (h : p ∈ l ∨ d.trained p) :
    (l.foldl (fun (d : Dev) n => d.trainPort n (t n)) d).trained p := by
  induction l generalizing d with
  | nil => exact h.resolve_left List.not_mem_nil
  | cons n l ih =>
    refine ih ?_
    rcases h with hmem | hd
    · rcases List.mem_cons.1 hmem with rfl | hl
      · exact .inr (trainPort_trained_same d p (t p))
      · exact .inl hl
    · exact .inr (trainPort_trained (t n) n hd)

theorem directionLost_ports (d : Dev) (dir : Nat) (unit : BitVec 16) : (d.directionLost dir unit).lnk.ports = d.lnk.ports := by
  unfold Dev.directionLost
  split
  · rw [writeRecord_lnk]
    rfl
  · rfl

theorem startElection_trained (h : d.trained p) : d.startElection.trained p := by
  have hsend : ∀ (l : List Nat) (c : Claim) {e : Dev}, e.trained p → (e.sendClaim l c).trained p := by
    intro l c
    induction l with
    | nil => exact id
    | cons n l ih => exact fun he => ih (modPort_trained (fun q hq => by rwa [enqueue_state]) n he)
  unfold Dev.startElection
  dsimp only
  split
  · exact hsend _ _ h
  · exact h

end

/-- The training of every port that trains. -/
def Dev.trainPorts (d : Dev) (found : List TrainIn) : Dev :=
  ((List.range 24).filter (fun p => (d.port p).state == .training)).foldl (fun (d : Dev) p => d.trainPort p (found.getD p deadTrain)) d

theorem trainPorts_trains (d : Dev) (found : List TrainIn) (p : Fin 24) : (d.trainPorts found).trained p.val := by
  refine trainPorts_trained (fun p => found.getD p deadTrain) _ ?_
  by_cases h : (d.port p.val).state = .training
  · exact .inl (List.mem_filter.2 ⟨List.mem_range.2 p.isLt, by simp [h]⟩)
  · exact .inr h

/-- The training of the ports and the directions that it has lost, before the election. -/
def Dev.trainAll (d : Dev) (found : List TrainIn) : Dev :=
  (List.range 8).foldl (fun (d : Dev) dir =>
    if d.axisSize (axisOf dir) = 1 then d else d.directionLost dir (unitId 4 ((portsOf dir).getD 0 0))) (d.trainPorts found)

theorem trainAll_bt (d : Dev) (found : List TrainIn) : (d.trainAll found).bt = d.bt := by
  have hlost : ∀ (e : Dev) (dir : Nat), (if e.axisSize (axisOf dir) = 1 then e else
      e.directionLost dir (unitId 4 ((portsOf dir).getD 0 0))).bt = e.bt := by
    intro e dir
    split
    · rfl
    · exact (directionLost_only ..).same .bt rfl
  rw [Dev.trainAll, view_foldl (·.bt) hlost, Dev.trainPorts]
  exact view_foldl (·.bt) (fun e p => (trainPort_only ..).same .bt rfl) _ d

theorem trainAll_trained (d : Dev) (found : List TrainIn) (p : Fin 24) : (d.trainAll found).trained p.val := by
  have hlost : ∀ (e : Dev) (dir : Nat), (if e.axisSize (axisOf dir) = 1 then e else
      e.directionLost dir (unitId 4 ((portsOf dir).getD 0 0))).lnk.ports = e.lnk.ports := by
    intro e dir
    split
    · rfl
    · exact directionLost_ports ..
  have hports : (d.trainAll found).lnk.ports = (d.trainPorts found).lnk.ports := by
    rw [Dev.trainAll, view_foldl (·.lnk.ports) hlost]
  exact trained_of_ports hports (trainPorts_trains d found p)

def Dev.electing (d : Dev) : Dev := { d with pwr := { d.pwr with phase := .elect } }

theorem electing_bt (d : Dev) : d.electing.bt = d.bt := rfl
theorem electing_trained {d : Dev} {p : Nat} (h : d.trained p) : d.electing.trained p := h

theorem trainingDone_eq {d : Dev} {found : List TrainIn} (hphase : d.pwr.phase = .links) (hrun : d.runs 4 = true)
    (hup : ∀ p : Fin 24, (d.port p.val).state = .training → d.domUp (128 + p.val) = true) :
    trainingDone found d = (d.trainAll found).electing.startElection := by
  have hports : ((List.range 24).filter (fun p => (d.port p).state == .training)).any (fun p => !d.domUp (128 + p)) = false := by
    simp only [List.any_eq_false, List.mem_filter, List.mem_range, beq_iff_eq, Bool.not_eq_true, Bool.not_eq_false']
    exact fun p hp => hup ⟨p, hp.1⟩ hp.2
  unfold trainingDone Dev.trainAll Dev.trainPorts Dev.electing
  exact if_neg (by rw [hports]; simp [hphase, hrun])

/-- Settles O10: what the ROM finds, what a processor's watchdog and restart make of it, and the ports that training leaves. -/
theorem bootComesFromTheFlash : Obligations.BootComesFromTheFlash := by
  unfold Obligations.BootComesFromTheFlash
  refine ⟨?auth, ?fails, ?cfg, ?training, ?expiry, ?scp, ?restart⟩
  case auth =>
    intro s hphase hu hrst hpass
    refine completes_of_run rfl ?_
    obtain ⟨l, hl⟩ := firmwareAuth_first hphase hu hrst hpass
    rw [hl]
    obtain ⟨hph, hfwp, hstks, hsec⟩ := afterBoot_keeps (s.dev.bootBankRuns
      (if s.dev.sec.bootBank then s.dev.sec.bank1 else s.dev.sec.bank0) s.dev.sec.bootBank) l
    rw [hph, hfwp, hstks]
    refine ⟨rfl, ?_, ?_, ?_, activeBank_of_lasting hsec⟩
    · intro f hf
      obtain ⟨g, -, rfl⟩ := List.mem_map.1 hf
      rfl
    · intro k hk
      obtain ⟨g, -, rfl⟩ := List.mem_map.1 hk
      rfl
    · rw [minEpoch_of_lasting hsec]
      exact le_epoch ..
  case fails =>
    intro s bad hphase hu hrst h0 h1 hlatch hlen
    refine completes_of_run rfl ?_
    rw [firmwareAuth_neither hphase hu hrst h0 h1]
    refine ⟨haltDevice_halted _ |>.1, ?_, ?_, ?_⟩
    · rw [Dev.bootFails, (haltDevice_only _).same .health rfl, latchPush_latch (by exact hlatch), List.getLast?_concat]
      rfl
    · rw [Dev.bootFails, haltDevice_sec, latchPush_sec]
    · rw [Dev.bootFails, fw_of_fwp (haltDevice_fwp _), fw_of_fwp (latchPush_fwp _ _)]
      exact congrArg Fwp.state (fw_modFw_same s.dev (fun f => { f with state := .halted }) (by omega))
  case cfg =>
    intro s path hp hphase hu
    refine completes_of_run rfl ?_
    have hreq : cfgDone path s.dev = s.dev.startLinks := by
      rw [cfgDone, pathWrite_reg hp (b := .pwr) (by decide) (blockUp_of_domain_none (by decide) rfl hu)]
      rfl
    rw [hreq]
    exact startLinks_links hphase
  case training =>
    intro s found hphase hrun hconflict hup
    refine completes_of_run rfl ?_
    rw [trainingDone_eq hphase hrun hup]
    have hports : ∀ p : Fin 24, (s.dev.trainAll found).electing.startElection.trained p.val := fun p =>
      startElection_trained (electing_trained (trainAll_trained s.dev found p))
    refine ⟨?_, ?_, hports⟩
    · rw [(startElection_only _).same .pwr rfl, Dev.electing]
    · rw [startElection_bt (by rw [electing_bt, trainAll_bt]; exact hconflict)]
  case expiry =>
    intro s i hrun hi
    refine completes_of_run rfl ?_
    rw [fw_of_fwp (processorWatchdogExpiry_fwp hrun hi), fw_modFw_same _ _ (lt_of_runs hrun)]
    exact ⟨rfl, rfl⟩
  case scp =>
    intro s hrun
    refine completes_of_run rfl ?_
    rw [processorWatchdogExpiry_scp hrun]
    refine ⟨?_, haltDevice_halted _⟩
    rw [fw_of_fwp (haltDevice_fwp _), fw_of_fwp (writeRecord_fwp _ _), fw_modFw_same _ _ (lt_of_runs hrun)]
  case restart =>
    intro s i h
    refine completes_of_run rfl ?_
    rw [fw_of_fwp (processorRestartDone_fwp h), fw_modFw_same _ _ (fw_lt_of_state (by simp [h]))]

end Sys2Proof.Machine
end

section
/-! PROOF. Life cycle, keys, firmware images and the debug lock (R102, R103, R401, R405, R406): O22. -/

namespace Sys2Proof.Machine

/-! ### Requests that their owner serves (R60, R74) -/

/-- The end of a reply of an owner to a request that it serves. -/
def Dev.reply (d : Dev) (r : Req) : Dev × Reply → Dev
  | (_, .wait) => d
  | (_, .reject s) => d.rejectReq r s
  | (d, .done res fields) => d.finishReq r res fields
  | (d, .going) => { d with reqs := d.reqs.map (fun q => if q == r then { r with place := .executing } else q) }

/-- The request that an owner awaits, of an opcode that READY is not needed for, is served by the message's own rules. -/
theorem serve_of_awaits {d : Dev} {op : Nat} {r : Req} (h : d.awaits op r) (hop : (msgRow op).isSome = true) (hready : needsReady op = false)
    (f : Dev → Req → List Byte → Dev × Reply) : d.serve op f = d.reply r (f d r (mPayload r.msg)) := by
  obtain ⟨hat, hr, hplace, hruns, hring, hlen⟩ := h
  obtain ⟨row, hrow⟩ := Option.isSome_iff_exists.1 hop
  have howner : r.owner = row.owner := by rw [Req.owner, hr, hrow]; rfl
  rw [howner] at hat hruns hring
  unfold Dev.serve
  rw [hrow]
  dsimp only
  rw [hat]
  dsimp only
  rw [if_neg (by simp [hr, hplace, hruns, hring]), if_neg (by simp [hlen]), if_neg (by simp [hready])]
  unfold Dev.reply
  rfl

/-! ### LIFECYCLE_CHANGE (R405) -/

/-- With no tenancy there is none to release. -/
theorem beginRelease_none {d : Dev} (h : d.sec.tenancies = List.replicate 4 none) : [1, 2, 3, 4].foldl Dev.beginRelease d = d := by
  have hnone : ∀ n, d.tenancyExists n = false := fun n => by
    rw [Dev.tenancyExists, h, List.getD_eq_getElem?_getD, List.getElem?_replicate]
    split <;> simp
  simp [Dev.beginRelease, hnone]

section
variable {d : Dev} {r : Req} (h : d.awaits 0x0410 r) (hzero : zeroBytes (mPayload r.msg) 1 3 = true)
include h hzero

theorem lifecycleChange_next (hnext : fieldLE (mPayload r.msg) 0 1 = d.sec.lcState.toNat + 1) (hlast : fieldLE (mPayload r.msg) 0 1 ≤ 3)
    (hplans : ∀ p ∈ d.plans, p.holdsLifecycle = false) (hten : d.sec.tenancies = List.replicate 4 none) : lifecycleChange d =
      d.reply r (d.beginWipe (.lifecycle (BitVec.ofNat 2 (fieldLE (mPayload r.msg) 0 1))) [⟨0, stackEnd⟩], .going) := by
  rw [lifecycleChange, serve_of_awaits h rfl rfl]
  dsimp only
  rw [if_neg (by simp [hzero]), if_neg (by simp [hnext] at hlast ⊢; omega), if_neg (by simpa using hplans), beginRelease_none hten]

theorem lifecycleChange_denied (hnext : fieldLE (mPayload r.msg) 0 1 ≠ d.sec.lcState.toNat + 1) :
    lifecycleChange d = d.rejectReq r sLifecycleDenied := by
  rw [lifecycleChange, serve_of_awaits h rfl rfl]
  dsimp only
  rw [if_neg (by simp [hzero]), if_pos (by simp [hnext])]
  rfl
end

/-! ### Key slots (R400, R401) -/

theorem shaRound_length {w : Nat} (e0 e1 : BitVec w → BitVec w) {h : List (BitVec w)} (hl : h.length = 8) (k x : BitVec w) :
    (shaRound e0 e1 h k x).length = 8 := by
  unfold shaRound
  split
  · rfl
  · exact hl

theorem shaBlock_length {w : Nat} (s0 s1 e0 e1 : BitVec w → BitVec w) (ks : List (BitVec w)) {h : List (BitVec w)} (hl : h.length = 8)
    (block : List Byte) : (shaBlock s0 s1 e0 e1 ks h block).length = 8 := by
  have hround : ∀ (l : List (BitVec w × BitVec w)) (h : List (BitVec w)), h.length = 8 →
      (l.foldl (fun h p => shaRound e0 e1 h p.1 p.2) h).length = 8 := by
    intro l
    induction l with
    | nil => exact fun _ hl => hl
    | cons p l ih => exact fun h hl => ih _ (shaRound_length e0 e1 hl p.1 p.2)
  simp only [shaBlock, List.length_zipWith, hround _ h hl, hl, min_self]

/-- A digest has 32 bytes (FIPS 180-4). -/
theorem sha256_length (m : List Byte) : (sha256 m).length = 32 := by
  have hblocks : ∀ (s0 s1 e0 e1 : BitVec 32 → BitVec 32) (ks : List (BitVec 32)) (l : List (List Byte)) (h : List (BitVec 32)), h.length = 8 →
      (l.foldl (shaBlock s0 s1 e0 e1 ks) h).length = 8 := by
    intro s0 s1 e0 e1 ks l
    induction l with
    | nil => exact fun _ hl => hl
    | cons b l ih => exact fun h hl => ih _ (shaBlock_length s0 s1 e0 e1 ks hl b)
  have hwords : ∀ l : List (BitVec 32), (l.flatMap (fun w => bytesBE 4 w.toNat)).length = 4 * l.length := by
    intro l
    induction l with
    | nil => rfl
    | cons w l ih =>
      rw [List.flatMap_cons, List.length_append, ih, bytesBE, List.length_reverse, length_bytesLE, List.length_cons]
      omega
  rw [sha256, hwords, hblocks]
  rfl

theorem hkdfExpand_length (prk info : List Byte) : (hkdfExpand prk info).length = 32 := sha256_length _

/-- Masking twice gives the bytes back. -/
theorem zipWith_xor_twice {l m : List Byte} (h : l.length ≤ m.length) : (l.zipWith (· ^^^ ·) m).zipWith (· ^^^ ·) m = l := by
  induction l generalizing m with
  | nil => rfl
  | cons a l ih =>
    cases m with
    | nil => simp at h
    | cons b m =>
      simp only [List.zipWith_cons_cons, BitVec.xor_assoc, BitVec.xor_self, BitVec.xor_zero]
      rw [ih (by simpa using h)]

theorem wrapKey_twice (k n : Nat) {key : List Byte} (h : key.length = 32) : wrapKey k n (wrapKey k n key) = key :=
  zipWith_xor_twice (by rw [hkdfExpand_length, h])

theorem putKey_slots (x : Sec) (k : Nat) (key : List Byte) : (x.putKey k key).slots = x.slots.set k (.key key) := by
  unfold Sec.putKey
  dsimp only
  split <;> rfl

/-- What the flash holds for a stored slot is the key that was put there. -/
theorem putKey_read (x : Sec) {k i : Nat} {key : List Byte} (ha : areaIdx k = some i) (hi : i < x.keyArea.length) (hk : key.length = 32) :
    ((x.putKey k key).keyArea.getD i .erased).read k = .key key ∧ ((x.putKey k key).keyArea.getD i .erased).fails = false := by
  have harea : (x.putKey k key).keyArea.getD i .erased =
      .held (x.keyWrites.getD i 0 + 1) (wrapKey k (x.keyWrites.getD i 0 + 1) key) (wrapMac (wrapKey k (x.keyWrites.getD i 0 + 1) key)) := by
    simp only [Sec.putKey, ha]
    rw [List.getD_eq_getElem?_getD, List.getElem?_set_self hi]
    rfl
  rw [harea]
  simp [StoredKey.read, StoredKey.fails, wrapKey_twice k _ hk]

/-! ### SEC_DBG_CTRL (R406) -/

theorem pathWrite_dbg {d : Dev} {path : RegPath} (hp : d.pathOpen path = true) (hu : d.pwr.ctlUp = true) (v : BitVec 64) :
    d.pathWrite path 0x6018 v = d.writeDbg v := by
  rw [pathWrite_reg hp (b := .sec) (by decide) (blockUp_of_domain_none (by decide) rfl hu)]
  rfl

/-- A SUBMIT uses up the challenge and unlocks DEBUG exactly where SCP accepts it. -/
theorem submitResponse_sec (d : Dev) : let e := d.submitResponse
    e.sec.chal = none ∧ e.sec.debug = d.submitOk ∧
    (d.submitOk = false → e.sec.failCount.toNat = if d.sec.failCount.toNat < 8 then d.sec.failCount.toNat + 1 else d.sec.failCount.toNat) := by
  unfold Dev.submitResponse
  dsimp only
  split
  next h => exact ⟨rfl, h.symm, fun hno => absurd h (by simp [hno])⟩
  next h =>
    refine ⟨rfl, (Bool.eq_false_of_not_eq_true h).symm, fun _ => ?_⟩
    dsimp only
    split
    next hlt =>
      rw [BitVec.toNat_add]
      simp
      omega
    next => rfl

/-! ### FW_UPDATE (R103, R404) -/

/-- The bank of an image. -/
def Bank.of (img : List Byte) : Bank :=
  { version := BitVec.ofNat 24 (Config.fwField img 1), keyIndex := Config.fwField img 3, image := some img }

/-- The inactive bank holds an image and is the boot bank. -/
def Sec.stored (s : Sec) (img : List Byte) : Sec :=
  { (if s.activeBank then { s with bank0 := Bank.of img } else { s with bank1 := Bank.of img }) with
    bootBank := !s.activeBank, bootVersion := (Bank.of img).version }

/-- An image that verifies and is not too old. -/
def Sec.takes (s : Sec) (img : List Byte) : Prop :=
  s.verifies img = true ∧ s.minEpoch.toNat ≤ ((BitVec.ofNat 24 (Config.fwField img 1)).extractLsb' 16 8).toNat

section
variable {d : Dev} {r : Req} (h : d.awaits 0x0411 r) (hn : fieldLE (mPayload r.msg) 8 4 ≠ 0) (hmax : fieldLE (mPayload r.msg) 8 4 ≤ 0x1000000)
  (hend : fieldLE (mPayload r.msg) 0 8 + fieldLE (mPayload r.msg) 8 4 ≤ stackEnd) (hzero : zeroBytes (mPayload r.msg) 12 4 = true)
  (hpois : d.mem.poisoned? (fieldLE (mPayload r.msg) 0 8) (fieldLE (mPayload r.msg) 8 4) = none)
include h hn hmax hend hzero hpois

theorem fwUpdate_eq {img : List Byte} (himg : img = memBytes d.mem.bytes (fieldLE (mPayload r.msg) 0 8) (fieldLE (mPayload r.msg) 8 4)) :
    fwUpdate d = d.reply r (
      if !d.sec.verifies img then (d, .reject sAuthFail)
      else if (((BitVec.ofNat 24 (Config.fwField img 1)).extractLsb' 16 8).toNat < d.sec.minEpoch.toNat) then (d, .reject sBadState)
      else ({ d with sec := d.sec.stored img }, .done sOk [])) := by
  rw [fwUpdate, serve_of_awaits h rfl rfl]
  dsimp only
  rw [if_neg (by simp [hn, hzero]; omega), hpois, himg]
  rfl

theorem fwUpdate_taken {img : List Byte} (himg : img = memBytes d.mem.bytes (fieldLE (mPayload r.msg) 0 8) (fieldLE (mPayload r.msg) 8 4))
    (ht : d.sec.takes img) : fwUpdate d = Dev.finishReq { d with sec := d.sec.stored img } r sOk [] := by
  obtain ⟨hver, hepoch⟩ := ht
  rw [fwUpdate_eq h hn hmax hend hzero hpois himg, if_neg (by simp [hver]), if_neg (by omega)]
  rfl

theorem fwUpdate_refused {img : List Byte} (himg : img = memBytes d.mem.bytes (fieldLE (mPayload r.msg) 0 8) (fieldLE (mPayload r.msg) 8 4))
    (ht : ¬ d.sec.takes img) : (fwUpdate d).sec = d.sec := by
  rw [fwUpdate_eq h hn hmax hend hzero hpois himg]
  split
  · exact rejectReq_sec d r sAuthFail
  next hver =>
    rw [if_pos]
    · exact rejectReq_sec d r sBadState
    · by_contra hepoch
      exact ht ⟨by simpa using hver, by omega⟩
end

/-- What KEY_PROVISION stores: the masked key of the payload, unmasked under the session's key (R101). -/
theorem keyProvision_eq {d : Dev} {r : Req} {k key : List Byte} (h : d.awaits 0x0412 r) (hslot : keySlot (fieldLE (mPayload r.msg) 0 1) = true)
    (hzero : zeroBytes (mPayload r.msg) 1 7 = true) (hmay : d.mayProvision (fieldLE (mPayload r.msg) 0 1) = true) (hk : r.key = some k)
    (hkey : key = (((mPayload r.msg).drop 8).take 32).zipWith (· ^^^ ·)
      (hkdfExpand k (ascii "KEYMASK" ++ [BitVec.ofNat 8 (fieldLE (mPayload r.msg) 0 1)]))) :
    keyProvision d = d.reply r (if key.all (· == 0) then (d, .reject sBadField)
      else ({ d with sec := d.sec.putKey (fieldLE (mPayload r.msg) 0 1) key }, .done sOk [])) := by
  rw [keyProvision, serve_of_awaits h rfl rfl]
  dsimp only
  rw [if_neg (by simp [hslot, hzero]), if_neg (by simp [hmay]), hk, hkey]

/-- Settles O22: each message by the reply of its rules, and SEC_DBG_CTRL by what it makes of the security state. -/
theorem lifeCycleKeysAndDebug : Obligations.LifeCycleKeysAndDebug := by
  unfold Obligations.LifeCycleKeysAndDebug
  refine ⟨?next, ?denied, ?update, ?provision, ?newChal, ?submit, ?lock, ?read⟩
  case next =>
    intro s r h hzero hnext hlast hplans hten
    refine completes_of_run rfl ?_
    rw [lifecycleChange_next h hzero hnext hlast hplans hten]
    exact ⟨rfl, rfl, rfl⟩
  case denied =>
    intro s r h hzero hnext
    refine completes_of_run rfl ?_
    rw [lifecycleChange_denied h hzero hnext]
    exact ⟨rfl, rejectReq_sec .., (rejectReq_only ..).same .mem rfl⟩
  case update =>
    intro s r img h hn hmax hend hzero hpois himg
    refine completes_of_run rfl ?_
    split
    next ht =>
      rw [fwUpdate_taken h hn hmax hend hzero hpois himg ht, finishReq_sec]
      refine ⟨finishReq_dones .., rfl, ?_⟩
      cases hb : s.dev.sec.activeBank <;> simp [Sec.stored, Bank.of, hb]
    next ht => exact fwUpdate_refused h hn hmax hend hzero hpois himg ht
  case provision =>
    intro s r k key h hslot hzero hmay hk hkey
    refine completes_of_run rfl ?_
    rw [keyProvision_eq h hslot hzero hmay hk hkey]
    split
    · exact ⟨rfl, rejectReq_sec ..⟩
    · refine ⟨finishReq_dones .., ?_, (finishReq_sec _ _ _ _ _)⟩
      exact (congrArg Sec.slots (finishReq_sec ..)).trans (putKey_slots ..)
  case newChal =>
    intro s path hp hu
    refine completes_of_run rfl ?_
    rw [newChal, pathWrite_dbg hp hu]
    exact ⟨congrArg some (length_bytesLE ..), rfl⟩
  case submit =>
    intro s path hp hu
    refine completes_of_run rfl ?_
    rw [submit, pathWrite_dbg hp hu]
    exact submitResponse_sec s.dev
  case lock =>
    intro s path hp hu
    refine completes_of_run rfl ?_
    rw [lock, pathWrite_dbg hp hu]
    rfl
  case read => exact fun x k i key ha hi hk => putKey_read x ha hi hk

end Sys2Proof.Machine
end

section
/-! SUPPORT. Deliveries to committed memory that meet no poison and no shadow entry (R280, R285, R288). -/

namespace Sys2Proof.Machine

/-- Memory with bytes written from an address on. -/
def memWrite (m : List Host.Cell) (a : Nat) (bs : List Byte) : List Host.Cell := memPutCells m (cellsFrom a bs)

section
variable {m : List Host.Cell} (hm : cellsWf m = true) (a : Nat) (bs : List Byte)
include hm

theorem memWrite_wf : cellsWf (memWrite m a bs) = true := memPutCells_keeps_wf _ hm

theorem memBytes_memWrite : memBytes (memWrite m a bs) a bs.length = bs := by
  rw [memWrite, memPutCells_cellsFrom]
  split
  next h => rw [h]; rfl
  next => exact memBytes_memPutAll hm a bs

theorem memByte_memWrite {i : Nat} (hi : i < bs.length) : memByte (memWrite m a bs) (a + i) = bs[i] := by
  rw [memWrite, memPutCells_cellsFrom, if_neg (by rintro rfl; simp at hi), memByte_memPutAll hm hi]

theorem memByte_memWrite_ne {x : Nat} (hx : x < a ∨ a + bs.length ≤ x) : memByte (memWrite m a bs) x = memByte m x := by
  rw [memWrite, memPutCells_cellsFrom]
  split
  · rfl
  · exact memByte_memPutAll_ne hm hx

/-- Bytes written beside a range leave it. -/
theorem memBytes_memWrite_apart {x n : Nat} (h : x + n ≤ a ∨ a + bs.length ≤ x) : memBytes (memWrite m a bs) x n = memBytes m x n := by
  rw [memBytes_eq_map (memWrite_wf hm a bs), memBytes_eq_map hm]
  refine List.map_congr_left fun i hi => memByte_memWrite_ne hm a bs ?_
  have := List.mem_range.1 hi
  omega
end

/-- Without poison a delivery writes all of its bytes. -/
theorem mem_deliver_clean {m : Mem} (h : m.poison = []) (a : Nat) (bs : List Byte) : m.deliver a bs = (⟨memWrite m.bytes a bs, []⟩, []) := by
  simp [Mem.deliver, h, memWrite]

/-- No plan has a region with shadow entries. -/
def Dev.shadowless (d : Dev) : Prop := ∀ p ∈ d.plans, p.img.layout.regions = []

theorem unseed_shadowless {d : Dev} (h : d.shadowless) (a n : Nat) : d.unseed a n = d := by
  have hplans : ∀ (l : List Plan), (∀ p ∈ l, p.img.layout.regions = []) → ∀ m : List Host.Cell,
      l.foldl (fun m p => if p.live then p.img.layout.unseed m a n else m) m = m := by
    intro l
    induction l with
    | nil => exact fun _ _ => rfl
    | cons p l ih =>
      intro hl m
      have hp : p.img.layout.unseed m a n = m := by
        rw [Layout.unseed, hl p List.mem_cons_self]
        rfl
      rw [List.foldl_cons, hp, ite_self]
      exact ih (fun q hq => hl q (List.mem_cons_of_mem _ hq)) m
  rw [Dev.unseed, hplans d.plans h]

section
variable {d : Dev} (hp : d.mem.poison = []) (hs : d.shadowless) (a : Nat) (bs : List Byte) (tag : BitVec 32) (unit : BitVec 16) (source : Nat)
include hp hs

/-- A delivery without poison and shadow entries writes its bytes and commits their lines. -/
theorem deliver_clean : (d.deliver a bs tag unit source).2 =
    Dev.deliverLines { d with mem := ⟨memWrite d.mem.bytes a bs, []⟩ } a bs.length := by
  have hlines : (Dev.deliverLines { d with mem := ⟨memWrite d.mem.bytes a bs, []⟩ } a bs.length).shadowless := by
    rw [Dev.shadowless, (deliverLines_only ..).same .plans rfl]
    exact hs
  unfold Dev.deliver
  rw [mem_deliver_clean hp]
  dsimp only
  rw [unseed_shadowless hlines]
  rfl

theorem deliver_clean_mem : (d.deliver a bs tag unit source).2.mem = ⟨memWrite d.mem.bytes a bs, []⟩ := by
  rw [deliver_clean hp hs, (deliverLines_only ..).same .mem rfl]

theorem deliver_clean_health : (d.deliver a bs tag unit source).2.health = d.health := by
  rw [deliver_clean hp hs, (deliverLines_only ..).same .health rfl]
end

theorem deliver_shadowless {d : Dev} (hs : d.shadowless) (a : Nat) (bs : List Byte) (tag : BitVec 32) (unit : BitVec 16) (source : Nat) :
    (d.deliver a bs tag unit source).2.shadowless := by
  rw [Dev.shadowless, (deliver_only ..).same .plans rfl]
  exact hs

theorem logs_of_health {d e : Dev} (hf : e.fwp = d.fwp) (hs : e.health.logState = d.health.logState)
    (hb : e.health.bankAOk = d.health.bankAOk) (h : d.logs) : e.logs := by
  obtain ⟨hup, hstate, hbank⟩ := h
  refine ⟨?_, hs ▸ hstate, hb ▸ hbank⟩
  rw [Dev.hlpDown, fw_of_fwp hf]
  exact hup

/-- The record that HLP writes is the newest one, by whatever its fields are. -/
theorem writeRecord_logged_as {d : Dev} (h : d.logs) {r : Rec} {cls : BitVec 8} {code unit : BitVec 16}
    (hr : (r.cls, r.code, r.unit) = (cls, code, unit)) : (d.writeRecord r).logged cls code unit :=
  (writeRecord_logged h r).trans (congrArg some hr)

theorem countDeviceFault_logs {d : Dev} (h : d.logs) : d.countDeviceFault.2.logs := by
  refine logs_of_health ((countDeviceFault_only d).same .fwp rfl) ?_ ?_ h
  all_goals
    unfold Dev.countDeviceFault
    dsimp only
    split <;> rfl

theorem enterCrater_logs {d : Dev} (h : d.logs) (u : BitVec 16) (host : Option (BitVec 8)) : (d.enterCrater u host).2.logs := by
  refine logs_of_health ((enterCrater_only d u host).same .fwp rfl) ?_ ?_ h
  all_goals
    unfold Dev.enterCrater Dev.draw
    dsimp only
    split <;> rfl

end Sys2Proof.Machine
end

section
/-! SUPPORT. The solver: dealing matrices leaves the jobs but for the engines they are dealt to, and an engine out of service gets none (R295). -/

namespace Sys2Proof.Machine

/-- Matrix `i` of a job dealt to an engine. -/
def Dev.dealTo (d : Dev) (key : SolveKey) (i e : Nat) : Dev :=
  (d.modSlv e (fun s => { s with queue := s.queue ++ [(key, i)] })).modSolve key
    (fun j => { j with mats := j.mats.modify i (fun x => { x with engine := some e }) })

/-- What holds of a device, and is kept by each matrix dealt, holds once all are dealt. -/
theorem dealAll_induct {P : Dev → Prop} (hdeal : ∀ (d : Dev) key i e, d.slvEngine key = some e → P d → P (d.dealTo key i e)) {d : Dev} (h : P d) :
    P d.dealAll := by
  refine List.foldlRecOn (motive := P) _ _ h fun d hd j _ => ?_
  split
  · refine List.foldlRecOn (motive := P) _ _ hd fun d hd m _ => ?_
    split
    · exact hd
    · split
      · exact hd
      next he => exact hdeal d j.key m.2 _ he hd
  · exact hd

/-- A matrix goes to an engine in service. -/
theorem slvEngine_inService {d : Dev} {key : SolveKey} {e : Nat} (h : d.slvEngine key = some e) : (d.slv.getD e {}).inService = true := by
  refine List.foldlRecOn (motive := fun acc => ∀ b, acc = some b → (d.slv.getD b {}).inService = true) _ _
    (fun _ hnone => by cases hnone) (fun acc hacc b _ => ?_) e h
  split
  next ht =>
    have hb : (d.slv.getD b {}).inService = true := by
      simp only [Slv.takes, Bool.and_eq_true] at ht
      exact ht.1
    split
    · exact fun c hc => by cases hc; exact hb
    · split
      · exact fun c hc => by cases hc; exact hb
      · exact hacc
  next => exact hacc

/-! ### Engines -/

section
variable (d : Dev)

theorem slv_modSlv_same {e : Nat} (f : Slv → Slv) (h : e < d.slv.length) : (d.modSlv e f).slv.getD e {} = f (d.slv.getD e {}) :=
  getD_modify_same _ _ _ _ h

theorem slv_modSlv_view {α : Type} (view : Slv → α) {f : Slv → Slv} (hf : ∀ s, view (f s) = view s) (e n : Nat) :
    view ((d.modSlv e f).slv.getD n {}) = view (d.slv.getD n {}) := by
  simp only [Dev.modSlv, List.getD_eq_getElem?_getD, List.getElem?_modify]
  cases d.slv[n]? with
  | none => rfl
  | some s =>
    simp only [Option.getD_some]
    split
    · exact hf s
    · rfl
theorem slv_modSlv_other {e n : Nat} (f : Slv → Slv) (h : e ≠ n) : (d.modSlv e f).slv.getD n {} = d.slv.getD n {} := by
  simp [Dev.modSlv, List.getD_eq_getElem?_getD, h]

/-- All that an engine shows but its queue is as it was before the matrices were dealt. -/
theorem dealAll_slv {α : Type} (view : Slv → α) (hview : ∀ s q, view { s with queue := q } = view s) (n : Nat) :
    view (d.dealAll.slv.getD n {}) = view (d.slv.getD n {}) :=
  dealAll_induct (P := fun x => view (x.slv.getD n {}) = view (d.slv.getD n {}))
    (fun x _ _ e _ hx => (slv_modSlv_view x view (fun s => hview s _) e n).trans hx) rfl

/-- An engine out of service with an empty queue stays so. -/
theorem dealAll_fenced {n : Nat} (h : (d.slv.getD n {}).inService = false ∧ (d.slv.getD n {}).queue = []) :
    (d.dealAll.slv.getD n {}).inService = false ∧ (d.dealAll.slv.getD n {}).queue = [] := by
  refine dealAll_induct (P := fun x => (x.slv.getD n {}).inService = false ∧ (x.slv.getD n {}).queue = []) (fun x key i e he hx => ?_) h
  have hne : e ≠ n := by
    rintro rfl
    have hup := slvEngine_inService he
    rw [hx.1] at hup
    cases hup
  rw [Dev.dealTo, modSolve_slv, slv_modSlv_other x _ hne]
  exact hx

/-! ### Jobs -/

/-- The job of a key. -/
def Dev.solveOf (d : Dev) (key : SolveKey) : Option SolveJob := d.solves.find? (fun k => k.key == key)

theorem solveOf_modSolve (k key : SolveKey) {f : SolveJob → SolveJob} (hf : ∀ j, (f j).key = j.key) :
    (d.modSolve k f).solveOf key = (d.solveOf key).map (fun j => if j.key == k then f j else j) := by
  have hkey : ((fun j : SolveJob => j.key == key) ∘ fun j => if j.key == k then f j else j) = fun j => j.key == key := by
    funext j
    simp only [Function.comp_apply]
    split
    · rw [hf]
    · rfl
  rw [Dev.solveOf, Dev.modSolve, List.find?_map, hkey]
  rfl

theorem key_of_solveOf {key : SolveKey} {j : SolveJob} (h : d.solveOf key = some j) : j.key = key := by
  simpa using List.find?_some h

/-- The result of matrix `i` of a job. -/
def SolveJob.resultOf (j : SolveJob) (i : Nat) : Option MatRes := j.mats[i]?.bind (·.result)

/-- Dealing leaves the results. -/
theorem dealAll_resultOf (key : SolveKey) (n : Nat) : (d.dealAll.solveOf key).bind (·.resultOf n) = (d.solveOf key).bind (·.resultOf n) := by
  refine dealAll_induct (P := fun x => (x.solveOf key).bind (·.resultOf n) = (d.solveOf key).bind (·.resultOf n)) (fun x k i e _ hx => ?_) rfl
  rw [Dev.dealTo, solveOf_modSolve]
  · rw [← hx, Dev.solveOf, modSlv_solves, ← Dev.solveOf]
    cases x.solveOf key with
    | none => rfl
    | some j =>
      simp only [Option.map_some, Option.bind_some]
      split
      · simp only [SolveJob.resultOf, List.getElem?_modify]
        cases j.mats[n]? with
        | none => rfl
        | some m =>
          simp only [Option.bind_some]
          split <;> rfl
      · rfl
  · exact fun _ => rfl

/-- Dealing adds and removes no job. -/
theorem dealAll_keys : d.dealAll.solves.map SolveJob.key = d.solves.map SolveJob.key := by
  refine dealAll_induct (P := fun x => x.solves.map SolveJob.key = d.solves.map SolveJob.key) (fun x k i e _ hx => ?_) rfl
  rw [← hx, Dev.dealTo, Dev.modSolve, List.map_map]
  refine List.map_congr_left fun j _ => ?_
  simp only [Function.comp_apply]
  split <;> rfl

/-- A job taken away is not among the jobs. -/
theorem dropSolve_gone (j : SolveJob) : ((d.dropSolve j).dealAll).solves.all (fun k => k.key != j.key) = true := by
  have hkeys : ∀ k ∈ (d.dropSolve j).dealAll.solves.map SolveJob.key, k ≠ j.key := by
    rw [dealAll_keys]
    intro k hk
    obtain ⟨i, hi, rfl⟩ := List.mem_map.1 hk
    simpa using (List.mem_filter.1 hi).2
  simp only [List.all_eq_true, bne_iff_ne]
  exact fun k hk => hkeys k.key (List.mem_map_of_mem hk)

@[simp] theorem dealAll_health : d.dealAll.health = d.health := (dealAll_only d).same .health rfl
end

end Sys2Proof.Machine
end

section
/-! PROOF. The solver's engines and publications (R295, R302 to R304, R306): O47. -/

namespace Sys2Proof.Machine

/-! ### MATRIX_FINISH (R295, R306) -/

/-- The result of matrix `i` of a job (R299). -/
def SolveJob.solved (j : SolveJob) (i : Nat) : MatRes := solveMatrix j.kind j.n j.range (j.inputs.getD i (false, []))

/-- An engine at the end of matrix `i` of a job. -/
def Slv.finishes (s : Slv) (rest : List (SolveKey × Nat)) (j : SolveJob) (i : Nat) : Slv :=
  { s with
    queue := rest, jobs := satInc s.jobs, busy := satAdd s.busy (j.cyclesOf i)
    flags := s.flags.raise ((j.solved i).flags.setWidth 8 &&& 0x1F) }

/-- A job with the result of matrix `i`. -/
def SolveJob.keeps (j : SolveJob) (i : Nat) (r : MatRes) : SolveJob :=
  { j with mats := j.mats.modify i (fun m => { m with result := some r }) }

/-- The engine has worked on the job. -/
def Dev.workedOn (d : Dev) (key : SolveKey) (e : Nat) : Dev := d.modSolve key (fun j => { j with worked := insertNat j.worked e })

/-- An engine that has worked on a job has a residue mismatch in it. -/
def Dev.mismatchOf (d : Dev) (key : SolveKey) (e : Nat) : Dev :=
  (d.workedOn key e).modSlv e (fun s => { s with flags := s.flags.raise 0x80, checkCnt := satInc s.checkCnt })

theorem mismatchOf_logs {d : Dev} (h : d.logs) (key : SolveKey) (e : Nat) : (d.mismatchOf key e).logs := h

/-- Matrix `i` of a job at its end, before others are dealt. -/
def Dev.matrixDone (d : Dev) (key : SolveKey) (e : Nat) (rest : List (SolveKey × Nat)) (j : SolveJob) (i : Nat) : Dev :=
  ((d.workedOn key e).modSlv e (fun s => s.finishes rest j i)).modSolve key (fun k => k.keeps i (j.solved i))

/-- The first mismatch of an engine in a job, before its record. -/
def Dev.mismatchNoted (d : Dev) (key : SolveKey) (e : Nat) : Dev :=
  (d.mismatchOf key e).modSolve key (fun k => { k with mismatch := e :: k.mismatch })

theorem mismatchNoted_logs {d : Dev} {key : SolveKey} {e : Nat} (h : d.logs) : (d.mismatchNoted key e).logs := h

section
variable {d : Dev} {e : Fin 4} {key : SolveKey} {i : Nat} {rest : List (SolveKey × Nat)} {j : SolveJob}
  (hq : (d.slv.getD e.val {}).queue = (key, i) :: rest) (hj : d.solveOf key = some j)

section
include hq hj

theorem matrixFinish_good : matrixFinish e false d = (d.matrixDone key e.val rest j i).dealAll := by
  have hfind : d.solves.find? (fun k => k.key == key) = some j := hj
  simp only [matrixFinish, hq, hfind, key_of_solveOf d hj, Bool.false_eq_true, if_false]
  rfl

theorem matrixFinish_first (hm : j.mismatch.contains e.val = false) : ∃ r : Rec, (r.cls, r.code, r.unit) = (1, 0x1301, unitId 7 e.val) ∧
    matrixFinish e true d = (d.mismatchNoted key e.val).writeRecord r := by
  have hfind : d.solves.find? (fun k => k.key == key) = some j := hj
  simp only [matrixFinish, hq, hfind, key_of_solveOf d hj, hm, Bool.false_eq_true, if_true, if_false]
  exact ⟨_, rfl, rfl⟩

theorem matrixFinish_second (hm : j.mismatch.contains e.val = true) :
    matrixFinish e true d = (d.mismatchOf key e.val).fenceSolver e.val none j.tag := by
  have hfind : d.solves.find? (fun k => k.key == key) = some j := hj
  simp only [matrixFinish, hq, hfind, key_of_solveOf d hj, hm, if_true]
  rfl
end

theorem matrixDone_slv (hlen : e.val < d.slv.length) :
    (d.matrixDone key e.val rest j i).slv.getD e.val {} = (d.slv.getD e.val {}).finishes rest j i :=
  slv_modSlv_same (d.workedOn key e.val) _ hlen

theorem mismatchNoted_slv (hlen : e.val < d.slv.length) : (d.mismatchNoted key e.val).slv.getD e.val {} =
    { d.slv.getD e.val {} with flags := (d.slv.getD e.val {}).flags.raise 0x80, checkCnt := satInc (d.slv.getD e.val {}).checkCnt } :=
  slv_modSlv_same (d.workedOn key e.val) _ hlen

include hj

theorem workedOn_solveOf (n : Nat) : (d.workedOn key n).solveOf key = some { j with worked := insertNat j.worked n } := by
  rw [Dev.workedOn, solveOf_modSolve]
  · rw [hj, Option.map_some, if_pos (by simp [key_of_solveOf d hj])]
  · exact fun _ => rfl

theorem matrixDone_resultOf (hi : i < j.mats.length) :
    ((d.matrixDone key e.val rest j i).solveOf key).bind (·.resultOf i) = some (j.solved i) := by
  have hbase : ((d.workedOn key e.val).modSlv e.val (fun s => s.finishes rest j i)).solveOf key = _ := workedOn_solveOf hj e.val
  rw [Dev.matrixDone, solveOf_modSolve, hbase]
  · rw [Option.map_some, if_pos (by simpa [SolveJob.key] using key_of_solveOf d hj)]
    simp [SolveJob.keeps, SolveJob.resultOf, hi]
  · exact fun _ => rfl

theorem mismatchNoted_mismatch (n : Nat) : ((d.mismatchNoted key n).solveOf key).map (·.mismatch) = some (n :: j.mismatch) := by
  have hbase : (d.mismatchOf key n).solveOf key = _ := workedOn_solveOf hj n
  rw [Dev.mismatchNoted, solveOf_modSolve, hbase]
  · rw [Option.map_some, if_pos (by simpa [SolveJob.key] using key_of_solveOf d hj)]
    rfl
  · exact fun _ => rfl
end

/-- The fence of an engine before its record: counted, in the crater table, its matrices dealt again. -/
def Dev.solverOut (d : Dev) (e : Nat) : Dev := (d.countDeviceFault.2.enterCrater (unitId 7 e) none).2.slvFenceQueue e

theorem fenceSolver_eq (d : Dev) (e : Nat) (tag : BitVec 32) : ∃ r : Rec, (r.cls, r.code, r.unit) = (3, 0x1302, unitId 7 e) ∧
    d.fenceSolver e none tag = (d.solverOut e).writeRecord r := by
  refine ⟨_, ?_, rfl⟩
  split <;> rfl

theorem fenceSolver_logged {d : Dev} (h : d.logs) (e : Nat) (tag : BitVec 32) : (d.fenceSolver e none tag).logged 3 0x1302 (unitId 7 e) := by
  obtain ⟨r, hr, heq⟩ := fenceSolver_eq d e tag
  have hlogs : (d.solverOut e).logs := by
    have hcrater := enterCrater_logs (countDeviceFault_logs h) (unitId 7 e) none
    have hqueue := slvFenceQueue_only (d.countDeviceFault.2.enterCrater (unitId 7 e) none).2 e
    exact logs_of_health (hqueue.same .fwp rfl) (congrArg Health.logState (hqueue.same .health rfl))
      (congrArg Health.bankAOk (hqueue.same .health rfl)) hcrater
  rw [heq]
  exact writeRecord_logged_as hlogs hr

/-- A fenced engine is out of service and has no matrix (R306). -/
theorem fenceSolver_slv {d : Dev} {e : Nat} (he : e < d.slv.length) (tag : BitVec 32) :
    ((d.fenceSolver e none tag).slv.getD e {}).inService = false ∧ ((d.fenceSolver e none tag).slv.getD e {}).queue = [] := by
  obtain ⟨r, -, heq⟩ := fenceSolver_eq d e tag
  have hslv : (d.fenceSolver e none tag).slv = (d.solverOut e).slv := by rw [heq, (writeRecord_only ..).same .slv rfl]
  have hlen : e < (d.countDeviceFault.2.enterCrater (unitId 7 e) none).2.slv.length := by
    rwa [(enterCrater_only ..).same .slv rfl, (countDeviceFault_only _).same .slv rfl]
  rw [hslv]
  unfold Dev.solverOut Dev.slvFenceQueue
  refine dealAll_fenced _ ?_
  rw [slv_modSlv_same _ _ (by exact hlen)]
  exact ⟨rfl, rfl⟩

/-! ### SOLVER_PUBLISH (R302 to R304) -/

theorem statusEntry_length (r : MatRes) : (statusEntry r).length = 16 := by
  simp [statusEntry, length_bytesLE]

theorem statusEntries_length (l : List MatRes) : (l.flatMap statusEntry).length = 16 * l.length := by
  induction l with
  | nil => rfl
  | cons r l ih =>
    rw [List.flatMap_cons, List.length_append, ih, statusEntry_length, List.length_cons]
    omega

theorem freshHeader_length (d : Dev) (j : SolveJob) (b : BitVec 52) : (freshHeader d j b).length = 64 := by
  simp [freshHeader, length_bytesLE]

/-- The bytes of the results. -/
def resultBytes (l : List MatRes) : List Byte := l.flatMap (fun r => r.codes.flatMap (bytesLE 4))

theorem resultBytes_length (l : List MatRes) : (resultBytes l).length = 4 * (l.map (·.codes.length)).sum := by
  have hcodes : ∀ c : List Nat, (c.flatMap (bytesLE 4)).length = 4 * c.length := by
    intro c
    induction c with
    | nil => rfl
    | cons x c ih =>
      rw [List.flatMap_cons, List.length_append, ih, length_bytesLE, List.length_cons]
      omega
  induction l with
  | nil => rfl
  | cons r l ih =>
    rw [resultBytes, List.flatMap_cons, List.length_append, ← resultBytes, ih, hcodes, List.map_cons, List.sum_cons]
    omega

/-- The memory of a FRESH slot: the results, the status entries and, last, the header (R302, R303). -/
def freshSlot (m : List Host.Cell) (dst : Nat) (results status header : List Byte) : List Host.Cell :=
  memWrite (memWrite (memWrite m (dst + 4096) results) (dst + 64) status) dst header

theorem freshSlot_reads {m : List Host.Cell} (hm : cellsWf m = true) (dst : Nat) (results : List Byte) {status header : List Byte}
    (hs : status.length ≤ 4032) (hh : header.length = 64) : let f := freshSlot m dst results status header
    memBytes f dst 64 = header ∧ memBytes f (dst + 64) status.length = status ∧ memBytes f (dst + 4096) results.length = results := by
  have h1 := memWrite_wf hm (dst + 4096) results
  have h2 := memWrite_wf h1 (dst + 64) status
  refine ⟨?_, ?_, ?_⟩
  · have hread := memBytes_memWrite h2 dst header
    rwa [hh] at hread
  · rw [freshSlot, memBytes_memWrite_apart h2 _ _ (by omega)]
    exact memBytes_memWrite h1 _ status
  · rw [freshSlot, memBytes_memWrite_apart h2 _ _ (by omega), memBytes_memWrite_apart h1 _ _ (by omega)]
    exact memBytes_memWrite hm _ results

section
variable {d : Dev} {j : SolveJob} {p : Plan} (hj : d.solves.find? d.solveDue = some j) (hp : d.plan? j.handle = some p)
  (hpois : d.mem.poison = []) (hs : d.shadowless)

include hj hp in
theorem solverPublish_eq : solverPublish d =
    ((if j.finished.length = j.batch then d.publishFresh j (j.deadline p) else d.markStale j).dropSolve j).dealAll := by
  simp only [solverPublish, hj, hp]

include hpois hs in
theorem publishFresh_mem (b : BitVec 52) (hroom : 4 * (j.finished.map (·.codes.length)).sum ≤ j.room) : (d.publishFresh j b).mem.bytes =
    freshSlot d.mem.bytes j.dst (resultBytes j.finished) (j.finished.flatMap statusEntry) (freshHeader d j b) := by
  have hbody : (resultBytes j.finished).take j.room = resultBytes j.finished :=
    List.take_of_length_le (by rw [resultBytes_length]; exact hroom)
  have hm1 := deliver_clean_mem hpois hs (j.dst + 4096) (resultBytes j.finished) j.tag 0 7
  have hs1 := deliver_shadowless hs (j.dst + 4096) (resultBytes j.finished) j.tag 0 7
  have he1 : (d.deliver (j.dst + 4096) (resultBytes j.finished) j.tag 0 7).2.epoch = d.epoch := (deliver_only ..).same .epoch rfl
  unfold Dev.publishFresh
  dsimp only
  rw [← resultBytes, hbody]
  generalize (d.deliver (j.dst + 4096) (resultBytes j.finished) j.tag 0 7).2 = d1 at *
  have hp1 : d1.mem.poison = [] := by rw [hm1]
  have hm2 := deliver_clean_mem hp1 hs1 (j.dst + 64) (j.finished.flatMap statusEntry) j.tag 0 7
  have hs2 := deliver_shadowless hs1 (j.dst + 64) (j.finished.flatMap statusEntry) j.tag 0 7
  have he2 : (d1.deliver (j.dst + 64) (j.finished.flatMap statusEntry) j.tag 0 7).2.epoch = d1.epoch := (deliver_only ..).same .epoch rfl
  generalize (d1.deliver (j.dst + 64) (j.finished.flatMap statusEntry) j.tag 0 7).2 = d2 at *
  have hp2 : d2.mem.poison = [] := by rw [hm2]
  have hhead : freshHeader d2 j b = freshHeader d j b := by rw [freshHeader, he2, he1]; rfl
  rw [deliver_clean_mem hp2 hs2, hhead, hm2, hm1]
  rfl
end

/-- The header that MISSING writes. -/
def SolveJob.missingHeader (j : SolveJob) : List Byte :=
  [3, BitVec.ofNat 8 j.kind] ++ bytesLE 2 j.n ++ bytesLE 2 j.batch ++ bytesLE 2 1 ++ List.replicate 56 0

/-- The slot written MISSING, and the engines that worked on the job with their flags and counts. -/
def Dev.markedMissing (d : Dev) (j : SolveJob) : Dev :=
  let e := (d.deliver j.dst j.missingHeader j.tag 0 7).2
  (e.slvWorked j).foldl (fun d n => d.modSlv n (fun s => { s with flags := s.flags.raise 0x40, stale := satInc s.stale })) e

/-- The first byte of a read. -/
theorem fld_memBytes_first {m : List Host.Cell} (hm : cellsWf m = true) (a n : Nat) : fld (memBytes m a (n + 1)) 0 1 = (memByte m a).toNat := by
  rw [memBytes_eq_map hm, List.range_succ_eq_map]
  simp [fld, fieldLE, leNat]

/-- A slot that is neither FRESH nor STALE is marked MISSING (R304). -/
theorem markStale_missing {d : Dev} (j : SolveJob) (hwf : d.mem.wf = true) (h1 : d.byteAt j.dst ≠ 1) (h2 : d.byteAt j.dst ≠ 2) : ∃ r : Rec,
    (r.cls, r.code, r.unit) = (4, 0x1303, 0) ∧ d.markStale j = (d.markedMissing j).writeRecord r := by
  have hne : ∀ b : Byte, b ≠ 1 → b ≠ 2 → (decide (b.toNat = 1) || decide (b.toNat = 2)) = false := by
    intro b hb1 hb2
    have h1 : b.toNat ≠ 1 := fun h => hb1 (BitVec.eq_of_toNat_eq h)
    have h2 : b.toNat ≠ 2 := fun h => hb2 (BitVec.eq_of_toNat_eq h)
    simp [h1, h2]
  have hst := hne _ h1 h2
  rw [Dev.byteAt, ← fld_memBytes_first (show cellsWf d.mem.bytes = true from hwf) j.dst 63] at hst
  unfold Dev.markStale
  simp only [hst, Bool.false_and, Bool.false_eq_true, if_false]
  exact ⟨_, rfl, rfl⟩

theorem markedMissing_marks (d : Dev) (j : SolveJob) : Only [.slv] (d.deliver j.dst j.missingHeader j.tag 0 7).2 (d.markedMissing j) :=
  Only.foldl (fun _ _ => modSlv_only ..) _ (Only.refl _ _)

theorem markedMissing_health {d : Dev} (hp : d.mem.poison = []) (hs : d.shadowless) (j : SolveJob) : (d.markedMissing j).health = d.health :=
  Eq.trans ((markedMissing_marks d j).same .health rfl) (deliver_clean_health hp hs ..)

theorem markedMissing_mem {d : Dev} (hp : d.mem.poison = []) (hs : d.shadowless) (j : SolveJob) :
    (d.markedMissing j).mem = ⟨memWrite d.mem.bytes j.dst j.missingHeader, []⟩ :=
  Eq.trans ((markedMissing_marks d j).same .mem rfl) (deliver_clean_mem hp hs ..)

theorem markedMissing_fwp (d : Dev) (j : SolveJob) : (d.markedMissing j).fwp = d.fwp :=
  Eq.trans ((markedMissing_marks d j).same .fwp rfl) ((deliver_only ..).same .fwp rfl)

/-- Settles O47: the end of a matrix by what it leaves the engine, and a publication by the slot's memory. -/
theorem solverMatricesFinishAndPublish : Obligations.SolverMatricesFinishAndPublish := by
  unfold Obligations.SolverMatricesFinishAndPublish
  refine ⟨?good, ?first, ?second, ?fresh, ?missing, ?none⟩
  case good =>
    intro s e key i rest j hq hj hlen hi
    refine completes_of_run rfl ?_
    rw [matrixFinish_good hq hj]
    have hslv := matrixDone_slv (key := key) (i := i) (rest := rest) (j := j) hlen
    have hres := (dealAll_resultOf (s.dev.matrixDone key e.val rest j i) key i).trans (matrixDone_resultOf hj hi)
    refine ⟨(dealAll_slv _ (·.jobs) (fun _ _ => rfl) e.val).trans (congrArg Slv.jobs hslv),
      (dealAll_slv _ (·.busy) (fun _ _ => rfl) e.val).trans (congrArg Slv.busy hslv), dealAll_mem _, ?_⟩
    rw [Option.bind_assoc]
    exact hres
  case first =>
    intro s e key i rest j hq hj hm hlen hlogs
    refine completes_of_run rfl ?_
    obtain ⟨r, hr, heq⟩ := matrixFinish_first hq hj hm
    rw [heq, (writeRecord_only ..).same .slv rfl, mismatchNoted_slv hlen, (writeRecord_only ..).same .solves rfl]
    exact ⟨rfl, rfl, rfl, writeRecord_logged_as (mismatchNoted_logs hlogs) hr, writeRecord_mem .., mismatchNoted_mismatch hj e.val⟩
  case second =>
    intro s e key i rest j hq hj hm hlen hlogs
    refine completes_of_run rfl ?_
    rw [matrixFinish_second hq hj hm]
    have hlen' : e.val < (s.dev.mismatchOf key e.val).slv.length := by simpa [Dev.mismatchOf, Dev.workedOn, Dev.modSlv] using hlen
    obtain ⟨hout, hempty⟩ := fenceSolver_slv hlen' j.tag
    exact ⟨hout, hempty, fenceSolver_logged (mismatchOf_logs hlogs key e.val) e.val j.tag, fenceSolver_mem ..⟩
  case fresh =>
    intro s j p hj hp hwf hpois hs hfin hbatch hroom
    refine completes_of_run rfl ?_
    rw [solverPublish_eq hj hp, if_pos hfin, dealAll_mem]
    have hmem := publishFresh_mem hpois hs (j.deadline p) hroom
    have hlen : (j.finished.flatMap statusEntry).length = 16 * j.batch := by rw [statusEntries_length, hfin]
    obtain ⟨hhead, hstatus, hres⟩ := freshSlot_reads (show cellsWf s.dev.mem.bytes = true from hwf) j.dst (resultBytes j.finished)
      (status := j.finished.flatMap statusEntry) (header := freshHeader s.dev j (j.deadline p)) (by omega) (freshHeader_length ..)
    rw [← hmem] at hhead hstatus hres
    exact ⟨hhead, hlen ▸ hstatus, hres, dropSolve_gone _ j⟩
  case missing =>
    intro s j p hj hp hwf hpois hs hfin h1 h2 hlogs
    refine completes_of_run rfl ?_
    obtain ⟨r, hr, hmark⟩ := markStale_missing j hwf h1 h2
    rw [solverPublish_eq hj hp, if_neg hfin, hmark]
    have hmissing : (s.dev.markedMissing j).logs := by
      have hhealth := markedMissing_health hpois hs j
      exact logs_of_health (markedMissing_fwp ..) (congrArg Health.logState hhealth) (congrArg Health.bankAOk hhealth) hlogs
    have hbytes : ∀ (k : Nat) (hk : k < j.missingHeader.length),
        ((((s.dev.markedMissing j).writeRecord r).dropSolve j).dealAll).byteAt (j.dst + k) = j.missingHeader[k] := by
      intro k hk
      have hmem : ((((s.dev.markedMissing j).writeRecord r).dropSolve j).dealAll).mem = (s.dev.markedMissing j).mem := by
        rw [dealAll_mem, dropSolve_mem, writeRecord_mem]
      rw [Dev.byteAt, hmem, markedMissing_mem hpois hs j]
      exact memByte_memWrite hwf j.dst j.missingHeader hk
    refine ⟨hbytes 0 ?_, hbytes 1 ?_, ?_, dropSolve_gone _ j⟩
    · simp [SolveJob.missingHeader]
    · simp [SolveJob.missingHeader]
    · have hrec := writeRecord_logged_as hmissing hr
      rw [Dev.logged, dealAll_health]
      exact hrec
  case none =>
    intro s hj
    refine completes_of_run rfl ?_
    simp only [solverPublish, hj]

end Sys2Proof.Machine
end

section
/-! PROOF. SEND, RECV, COLL and SOLVE at issue (R293, R294, R329, R336, R337): O31. -/

namespace Sys2Proof.Machine

section
variable {d : Dev} {c : Fin 72} {x : Ctx} {f : Fetched}

/-- A job added at issue: the command's work ends with its flight's STATUS, memory and the other queues stay. -/
theorem addedAtIssue {op : Nat} (h : d.issues c.val op x f) {e : Dev} (he : Only [.lnk, .col, .solves] (d.issued c.val x f) e) (fl : Flight)
    (hidx : fl.idx = f.idx) (hend : fl.ended = true) : let d' := e.putFlight c.val fl
    d'.worked c.val f.idx fl.status = true ∧ d'.mem = d.mem ∧ d.sameOthers d' c.val := by
  have hcqs : e.cqs = ((d.issued c.val x f).modCq c.val id).cqs := by
    rw [he.same .cqs rfl, modCq_cqs, List.modify_id]
  obtain ⟨-, hworked, hothers⟩ := putFlight_ended h hcqs (fun _ => rfl) hidx hend
  exact ⟨hworked, Eq.trans (he.same .mem rfl) ((issued_only h).same .mem rfl), hothers⟩

/-- The same of a command whose work goes on. -/
theorem addedAtIssue_open {op : Nat} (h : d.issues c.val op x f) {e : Dev} (he : Only [.lnk, .col, .solves] (d.issued c.val x f) e) (fl : Flight) :
    let d' := e.putFlight c.val fl
    d'.mem = d.mem ∧ d.sameOthers d' c.val := by
  refine ⟨Eq.trans (he.same .mem rfl) ((issued_only h).same .mem rfl), fun k hk => ?_⟩
  rw [Dev.putFlight, cq_modCq_other e _ (Ne.symm hk), cq_of_cqs (he.same .cqs rfl)]
  exact (issued_taken h).others k hk

end

section
variable (d : Dev)

theorem withLnk_only (l : Lnk) : Only [.lnk, .col, .solves] d { d with lnk := l } := ⟨fun p hp => by cases p <;> first | rfl | cases hp⟩
theorem withCol_only (l : Col) : Only [.lnk, .col, .solves] d { d with col := l } := ⟨fun p hp => by cases p <;> first | rfl | cases hp⟩
theorem withSolves_only (l : List SolveJob) : Only [.lnk, .col, .solves] d { d with solves := l } :=
  ⟨fun p hp => by cases p <;> first | rfl | cases hp⟩
end

section
variable {d : Dev} {c : Fin 72} {x : Ctx} {f : Fetched}

theorem issued_lnk {op : Nat} (h : d.issues c.val op x f) : (d.issued c.val x f).lnk = d.lnk := (issued_only h).same .lnk rfl
theorem issued_col {op : Nat} (h : d.issues c.val op x f) : (d.issued c.val x f).col = d.col := (issued_only h).same .col rfl
theorem issued_solves {op : Nat} (h : d.issues c.val op x f) : (d.issued c.val x f).solves = d.solves := (issued_only h).same .solves rfl

/-! ### SEND (R329) -/

/-- The job of a SEND. -/
def Ctx.sendJob (x : Ctx) (c : Nat) (idx : Nat) (bs : List Byte) : SendJob :=
  ⟨c, x.p.handle, idx, cmdTag bs, BitVec.ofNat 15 (fld bs 8 2), BitVec.ofNat 16 (fld bs 10 2), fld bs 16 8, fld bs 24 4, .held⟩

section
variable (h : d.issues c.val 0x31 x f) (hdev : d.lnk.sends.length < 256)
  (hplan : (d.lnk.sends.filter (fun j => j.handle == x.p.handle)).length < x.p.maxOf 4)
include h hdev hplan

theorem send_held (hpeer : d.peerOk (fld (x.resolve f.bytes) 8 2) = true)
    (hread : x.p.stackRead (fld (x.resolve f.bytes) 16 8) (fld (x.resolve f.bytes) 24 4) = true) : send c d =
      Dev.putFlight { d.issued c.val x f with
        lnk := { d.lnk with sends := d.lnk.sends ++ [x.sendJob c.val f.idx (x.resolve f.bytes)] } } c.val (x.flightOf f).done := by
  have hissue : d.issue? c.val opSend = _ := issue?_of_issues h
  have hbytes : (x.flightOf f).bytes = x.resolve f.bytes := rfl
  have hroom : (decide (256 ≤ d.lnk.sends.length) || decide (x.p.maxOf 4 ≤ (d.lnk.sends.filter (fun j => j.handle == x.p.handle)).length)) = false := by
    simp [hdev, hplan]
  simp only [send, hissue, hbytes, addrFld, hpeer, hread, hroom, issued_lnk h, Bool.not_true, Bool.false_eq_true, if_false]
  rfl

theorem send_refused (hpeer : d.peerOk (fld (x.resolve f.bytes) 8 2) = false) :
    send c d = (d.issued c.val x f).putFlight c.val ((x.flightOf f).bad none) := by
  have hissue : d.issue? c.val opSend = _ := issue?_of_issues h
  have hbytes : (x.flightOf f).bytes = x.resolve f.bytes := rfl
  have hroom : (decide (256 ≤ d.lnk.sends.length) || decide (x.p.maxOf 4 ≤ (d.lnk.sends.filter (fun j => j.handle == x.p.handle)).length)) = false := by
    simp [hdev, hplan]
  simp only [send, hissue, hbytes, hpeer, hroom, Bool.not_false, Bool.false_eq_true, if_true, if_false]
end

/-! ### RECV (R329, R330) -/

/-- The job of a RECV. -/
def Ctx.recvJob (x : Ctx) (c : Nat) (idx : Nat) (bs : List Byte) : RecvJob :=
  { core := c, handle := x.p.handle, idx := idx, tag := cmdTag bs, peer := BitVec.ofNat 15 (fld bs 8 2), channel := BitVec.ofNat 16 (fld bs 10 2)
    dst := fld bs 16 8, bytes := fld bs 24 4, timeout := fld bs 28 4 }

theorem recv_posted (h : d.issues c.val 0x32 x f) (hdev : (d.lnk.recvs.filter d.recvOpen).length < 256)
    (hplan : ((d.lnk.recvs.filter d.recvOpen).filter (fun j => j.handle == x.p.handle)).length < x.p.maxOf 5)
    (hpeer : d.peerOk (fld (x.resolve f.bytes) 8 2) = true)
    (hwrite : d.stackWrite x.p (fld (x.resolve f.bytes) 16 8) (fld (x.resolve f.bytes) 24 4) = true)
    (hnew : ∀ j ∈ d.lnk.recvs, ¬ (j.core = c.val ∧ j.handle = x.p.handle ∧ j.idx = f.idx))
    (hnone : ∀ r ∈ d.lnk.requests, ¬ (r.peer = BitVec.ofNat 15 (fld (x.resolve f.bytes) 8 2) ∧
      r.channel = BitVec.ofNat 16 (fld (x.resolve f.bytes) 10 2))) : recv c d =
      Dev.putFlight { d.issued c.val x f with
        lnk := { d.lnk with recvs := d.lnk.recvs ++ [x.recvJob c.val f.idx (x.resolve f.bytes)] } } c.val (x.flightOf f) := by
  have hissue : d.issue? c.val opRecv = _ := issue?_of_issues h
  have hbytes : (x.flightOf f).bytes = x.resolve f.bytes := rfl
  have hidx : (x.flightOf f).idx = f.idx := rfl
  have hkept : d.lnk.recvs.find? (fun j => j.core == c.val && j.handle == x.p.handle && j.idx == f.idx) = none :=
    List.find?_eq_none.2 fun j hj => by simpa [and_assoc] using hnew j hj
  have hhit : d.lnk.requests.find? (fun r => r.peer == BitVec.ofNat 15 (fld (x.resolve f.bytes) 8 2) &&
      r.channel == BitVec.ofNat 16 (fld (x.resolve f.bytes) 10 2)) = none :=
    List.find?_eq_none.2 fun r hr => by simpa using hnone r hr
  have hroom : (decide (256 ≤ (d.lnk.recvs.filter d.recvOpen).length) ||
      decide (x.p.maxOf 5 ≤ ((d.lnk.recvs.filter d.recvOpen).filter (fun j => j.handle == x.p.handle)).length)) = false := by
    simp only [Bool.or_eq_false_iff, decide_eq_false_iff_not, Nat.not_le]
    exact ⟨hdev, hplan⟩
  simp only [recv, hissue, hbytes, hidx, addrFld, hkept, hhit, hpeer, hwrite, hroom, issued_lnk h, Bool.not_true, Bool.false_eq_true, if_false,
    Option.isSome_none]
  rfl

/-! ### COLL (R336, R337) -/

/-- The job of a COLL. -/
def Ctx.collJob (x : Ctx) (c : Nat) (idx : Nat) (bs : List Byte) (sh : List (Nat × Nat)) : CollJob :=
  { core := c, handle := x.p.handle, idx := idx, tag := cmdTag bs, group := fld bs 8 2, params := collParams bs (groupSize sh)
    rank := rankOf sh, src := fld bs 16 8, dst := fld bs 24 8, timeout := fld bs 44 4 }

theorem coll_held {sh : List (Nat × Nat)} (h : d.issues c.val 0x30 x f) (hdev : (d.col.jobs.filter (fun j => !j.completed)).length < 32)
    (hplan : (d.col.jobs.filter (fun j => j.handle == x.p.handle && !j.completed)).length < x.p.maxOf 3)
    (hgroup : bitsOf (fld (x.resolve f.bytes) 8 2) 15 12 ≠ 0) (hshape : d.lnk.shapes d.coord (fld (x.resolve f.bytes) 8 2) = some sh)
    (hok : collBad d x.p (x.resolve f.bytes) (collParams (x.resolve f.bytes) (groupSize sh)) (rankOf sh) = none) : coll c d =
      Dev.putFlight { d.issued c.val x f with
        col := { d.col with jobs := d.col.jobs ++ [x.collJob c.val f.idx (x.resolve f.bytes) sh] } } c.val (x.flightOf f).done := by
  have hissue : d.issue? c.val opColl = _ := issue?_of_issues h
  have hbytes : (x.flightOf f).bytes = x.resolve f.bytes := rfl
  have hroom : (decide (32 ≤ (d.col.jobs.filter (fun j => !j.completed)).length) ||
      decide (x.p.maxOf 3 ≤ (d.col.jobs.filter (fun j => j.handle == x.p.handle && !j.completed)).length)) = false := by
    simp only [Bool.or_eq_false_iff, decide_eq_false_iff_not, Nat.not_le]
    exact ⟨hdev, hplan⟩
  simp only [coll, hissue, hbytes, hgroup, hshape, hok, hroom, issued_col h, Bool.false_eq_true, if_false]
  rfl

/-! ### SOLVE (R293, R294) -/

/-- The job of a SOLVE. -/
def Ctx.solveJob (x : Ctx) (c : Nat) (idx : Nat) (bs : List Byte) (room : Nat) : SolveJob :=
  { core := c, handle := x.p.handle, idx := idx, tag := cmdTag bs, step := x.chunk.step, kind := fld bs 8 1, n := fld bs 10 2
    batch := fld bs 12 2, src := fld bs 16 8, dst := fld bs 24 8, deadlineOff := fld bs 32 8, rangeAddr := fld bs 40 8, room := room }

/-- The rules that a SOLVE's fields and ranges obey (R294). -/
structure SolveFits (d : Dev) (x : Ctx) (bs : List Byte) (room : Nat) : Prop where
  fields : solveOk x bs = true
  bytes : d.resultBytes (fld bs 8 1) (fld bs 10 2) (fld bs 12 2) (fld bs 16 8) = room
  small : room ≤ 16 * 2 ^ 20
  dstAligned : fld bs 24 8 % 4096 = 0
  dst : d.stackWrite x.p (fld bs 24 8) (4096 + room) = true
  srcAligned : fld bs 16 8 % 64 = 0
  src : d.privateRead x.p (fld bs 16 8) (fld bs 12 2 * solveItem (fld bs 8 1) (fld bs 10 2)) = true
  rangeAligned : fld bs 40 8 % 64 = 0
  range : d.privateRead x.p (fld bs 40 8) 32 = true

theorem solve_held {room : Nat} (h : d.issues c.val 0x40 x f) (hlive : (d.slv.filter (·.inService)).length = 4) (hdev : d.solves.length < 64)
    (hplan : (d.solves.filter (fun j => j.handle == x.p.handle)).length < x.p.maxOf 6) (hfits : SolveFits d x (x.resolve f.bytes) room) :
    solve c d = Dev.putFlight { d.issued c.val x f with
      solves := d.solves ++ [x.solveJob c.val f.idx (x.resolve f.bytes) room] } c.val (x.flightOf f).done := by
  obtain ⟨hok, hbytesOf, hsmall, hdstAl, hdst, hsrcAl, hsrc, hrangeAl, hrange⟩ := hfits
  have hissue : d.issue? c.val opSolve = _ := issue?_of_issues h
  have hbytes : (x.flightOf f).bytes = x.resolve f.bytes := rfl
  have hroom : (decide ((if (d.slv.filter (·.inService)).length = 0 then 64 else min 64 (16 * (d.slv.filter (·.inService)).length)) ≤
      d.solves.length) || decide (x.p.maxOf 6 ≤ (d.solves.filter (fun j => j.handle == x.p.handle)).length)) = false := by
    simp [hlive, hdev, hplan]
  have hlarge : decide (16 * 2 ^ 20 < room) = false := decide_eq_false (Nat.not_lt.2 hsmall)
  simp only [solve, hissue, hbytes, addrFld, hok, hbytesOf, hlarge, hdstAl, hdst, hsrcAl, hsrc, hrangeAl, hrange, hroom, issued_solves h, Bool.not_true,
    bne_self_eq_false, Bool.or_self, Bool.false_eq_true, if_false]
  rfl
end

/-- Settles O31: each command adds its job to the list of its kind, and its flight ends or, of a RECV, goes on. -/
theorem transfersAreHeldToTheCommit : Obligations.TransfersAreHeldToTheCommit := by
  unfold Obligations.TransfersAreHeldToTheCommit
  refine ⟨?send, ?self, ?recv, ?coll, ?solve⟩
  case send =>
    intro s c x f h hdev hplan hpeer hread
    refine completes_of_run rfl ?_
    rw [send_held h hdev hplan hpeer hread]
    exact ⟨rfl, addedAtIssue h (withLnk_only ..) _ rfl rfl⟩
  case self =>
    intro s c x f h hdev hplan hpeer
    refine completes_of_run rfl ?_
    rw [send_refused h hdev hplan hpeer]
    obtain ⟨hworked, hmem, hothers⟩ := addedAtIssue h (Only.refl _ _) ((x.flightOf f).bad none) rfl rfl
    have hlnk : ((s.dev.issued c.val x f).putFlight c.val ((x.flightOf f).bad none)).lnk = (s.dev.issued c.val x f).lnk := rfl
    exact ⟨hworked, hlnk.trans (issued_lnk h), hmem, hothers⟩
  case recv =>
    intro s c x f h hdev hplan hpeer hwrite hnew hnone
    refine completes_of_run rfl ?_
    rw [recv_posted h hdev hplan hpeer hwrite hnew hnone]
    exact ⟨rfl, addedAtIssue_open h (withLnk_only ..) _⟩
  case coll =>
    intro s c x f sh h hdev hplan hgroup hshape hok
    refine completes_of_run rfl ?_
    rw [coll_held h hdev hplan hgroup hshape hok]
    exact ⟨rfl, addedAtIssue h (withCol_only ..) _ rfl rfl⟩
  case solve =>
    intro s c x f room h hlive hdev hplan hok hbytes hsmall hdstAl hdst hsrcAl hsrc hrangeAl hrange
    refine completes_of_run rfl ?_
    have hbs : x.resolve f.bytes = f.bytes := resolve_of_no_addr x (by rw [h.2.2.2.1]; rfl)
    rw [solve_held h hlive hdev hplan ⟨hok, hbytes, hsmall, hdstAl, hdst, by rwa [hbs], hsrc, hrangeAl, hrange⟩]
    exact ⟨rfl, addedAtIssue h (withSolves_only ..) _ rfl rfl⟩

end Sys2Proof.Machine
end

section
/-! PROOF. VENT, completion, breaks and the held grant (R140, R145, R148, R166, R167, R377, R378): O32. -/

namespace Sys2Proof.Machine

/-! ### Completion (R140, R142, R145) -/

/-- A queue after a completion; `ts` is the time and `tr` the trace records of the command. -/
def Cq.ends (q : Cq) (bs : List Byte) (status : BitVec 16) (cflags : BitVec 8) (ts : BitVec 64)
    (tr : List (Option (BitVec 16) × Bool × List Byte)) : Cq :=
  { q with
    regs := { q.regs with exec := q.regs.exec + 1 }
    brkDue := q.brkDue || (q.regs.brkCountEn && q.regs.exec + 1 == q.regs.brkCount)
    cpls := q.cpls ++ (if bitOf (cmdFlags bs) 7 ∨ status ≠ 0 ∨ cflags.getLsbD 1 then [⟨ts, cmdTag bs, status, cflags⟩] else [])
    trace := q.trace ++ tr
    lastTag := cmdTag bs
    run := q.run.map (fun r => { r with deadlock := 0 }) }

/-- A completion changes its own queue alone. -/
theorem complete_cqs (d : Dev) (x : Ctx) (bs : List Byte) (status : BitVec 16) (cflags : BitVec 8) (addr : Option Nat) :
    ∃ tr, (d.complete x bs status cflags addr).cqs = (d.modCq x.c (fun q => q.ends bs status cflags d.now tr)).cqs := by
  refine ⟨d.commandTrace x bs status cflags ((d.cq x.c).regs.exec + 1), ?_⟩
  have hbad : (d.badRecord x bs status addr).cqs = d.cqs := (badRecord_only ..).same .cqs rfl
  simp only [Dev.complete, Dev.restartDeadlock, modCq_modCq, modCq_cqs, hbad]
  rw [← modCq_cqs, ← modCq_cqs]
  refine congrArg Dev.cqs (modCq_congr ?_)
  simp only [Function.comp_apply, Cq.ends]
  by_cases hdue : bitOf (cmdFlags bs) 7 ∨ status ≠ 0 ∨ cflags.getLsbD 1
  · have hent : (bitOf (cmdFlags bs) 7 || status != stOk || cflags.getLsbD 1) = true := by
      simpa [stOk, or_assoc] using hdue
    rw [if_pos hdue, if_pos hent]
  · have hent : ¬ (bitOf (cmdFlags bs) 7 || status != stOk || cflags.getLsbD 1) = true := by
      simpa [stOk, or_assoc] using hdue
    rw [if_neg hdue, if_neg hent, List.append_nil]

/-- The queue of a core after a completion, and the others. -/
theorem complete_cq {d : Dev} {x : Ctx} (hx : x.c < d.cqs.length) (bs : List Byte) (status : BitVec 16) (cflags : BitVec 8) (addr : Option Nat) :
    (∃ tr, (d.complete x bs status cflags addr).cq x.c = (d.cq x.c).ends bs status cflags d.now tr) ∧
    d.sameOthers (d.complete x bs status cflags addr) x.c := by
  obtain ⟨tr, htr⟩ := complete_cqs d x bs status cflags addr
  refine ⟨⟨tr, ?_⟩, fun k hk => ?_⟩
  · rw [cq_of_cqs htr, cq_modCq_same _ _ hx]
  · rw [cq_of_cqs htr, cq_modCq_other _ _ (Ne.symm hk)]

/-- A flight of core `c` that completes. -/
def Dev.flightEnded (d : Dev) (c : Nat) (x : Ctx) (idx : Nat) (g : Flight) : Dev :=
  let e := (d.modCq c (fun q => { q with flights := q.flights.filter (fun g => g.idx != idx) })).complete x g.bytes g.status g.cflags g.badAddr
  (e.afterUnit x g).updateDemand c x.site

section
variable {d : Dev} {c : Fin 72} {x : Ctx} (hvent : (d.cq c.val).vent = none) (hctx : d.ctx? c.val = some x)
include hvent hctx

theorem commandComplete_flight {idx : Nat} {g : Flight} (hg : d.endedFlight? c.val idx = some g) :
    commandComplete c idx d = d.flightEnded c.val x idx g := by
  simp only [commandComplete, hvent, hctx, hg]
  rfl

theorem commandComplete_early {idx : Nat} {f : Fetched} {st : BitVec 16} {cf : BitVec 8} (hnone : d.endedFlight? c.val idx = none)
    (hnext : d.nextCmd? x = some f) (hidx : f.idx = idx) (hearly : x.p.earlyOf x.chunk.step f = some (st, cf))
    (hfree : cf = cfSkipped ∨ d.unitFree c.val f.bytes = true) :
    commandComplete c idx d = (d.takeHead x f).complete x f.bytes st cf (d.wideAddr f.bytes st) := by
  simp only [commandComplete, hvent, hctx, hnone, hnext, hearly]
  exact if_pos (by simpa [hidx] using hfree)
end

/-- A flight that ends leaves the flights and completes in its queue. -/
theorem flightEnded_keeps {d : Dev} {x : Ctx} (hx : x.c < d.cqs.length) (idx : Nat) (g : Flight) : let e := d.flightEnded x.c x idx g
    (∃ tr, e.cq x.c = Cq.ends { d.cq x.c with flights := (d.cq x.c).flights.filter (fun g => g.idx != idx) } g.bytes g.status g.cflags d.now tr) ∧
    d.sameOthers e x.c ∧ e.mem = d.mem := by
  have hlen : x.c < (d.modCq x.c (fun q => { q with flights := q.flights.filter (fun g => g.idx != idx) })).cqs.length := by simpa using hx
  obtain ⟨⟨tr, htr⟩, hothers⟩ := complete_cq hlen g.bytes g.status g.cflags g.badAddr
  simp only [Dev.flightEnded]
  refine ⟨⟨tr, ?_⟩, fun k hk => ?_, ?_⟩
  · rw [updateDemand_cq, cq_of_cqs ((afterUnit_only ..).same .cqs rfl), htr, cq_modCq_same _ _ hx]
    rfl
  · rw [updateDemand_cq, cq_of_cqs ((afterUnit_only ..).same .cqs rfl), hothers k hk, cq_modCq_other _ _ (Ne.symm hk)]
  · rw [(updateDemand_only ..).same .mem rfl, (afterUnit_only ..).same .mem rfl, (complete_only ..).same .mem rfl, modCq_mem]

/-- What the taking of the next command leaves of its queue. -/
theorem takeHead_cq {d : Dev} {x : Ctx} (hx : x.c < d.cqs.length) (f : Fetched) : let q := (d.takeHead x f).cq x.c
    q.fetched = (d.cq x.c).fetched.tail ∧ q.flights = (d.cq x.c).flights ∧ q.cpls = (d.cq x.c).cpls ∧ q.regs.exec = (d.cq x.c).regs.exec := by
  have hunder : ∀ q : Cq, q.underrun.fetched = q.fetched ∧ q.underrun.flights = q.flights ∧ q.underrun.cpls = q.cpls ∧
      q.underrun.regs.exec = q.regs.exec := by
    intro q
    unfold Cq.underrun
    split <;> exact ⟨rfl, rfl, rfl, rfl⟩
  rw [Dev.takeHead, cq_modCq_same _ _ hx]
  dsimp only
  split
  · exact hunder _
  · exact ⟨rfl, rfl, rfl, rfl⟩

/-- A command that ends with its taking: taken, counted and with its entry (R140, R142, R145, R247). -/
theorem takenAndEnded {d : Dev} {x : Ctx} (hx : x.c < d.cqs.length) (f : Fetched) (st : BitVec 16) (cf : BitVec 8) (addr : Option Nat) :
    let e := (d.takeHead x f).complete x f.bytes st cf addr
    (e.cq x.c).regs.exec = (d.cq x.c).regs.exec + 1 ∧ (e.cq x.c).fetched = (d.cq x.c).fetched.tail ∧
    (e.cq x.c).flights = (d.cq x.c).flights ∧
    (e.cq x.c).cpls = (d.cq x.c).cpls ++ (if bitOf (cmdFlags f.bytes) 7 ∨ st ≠ 0 ∨ cf.getLsbD 1 then [⟨d.now, cmdTag f.bytes, st, cf⟩] else []) ∧
    e.mem = d.mem := by
  obtain ⟨⟨tr, htr⟩, -⟩ := complete_cq (d := d.takeHead x f) (by simpa [Dev.takeHead] using hx) f.bytes st cf addr
  obtain ⟨hfetched, hflights, hcpls, hexec⟩ := takeHead_cq hx f
  have hmem : ((d.takeHead x f).complete x f.bytes st cf addr).mem = d.mem := (complete_only ..).same .mem rfl
  dsimp only
  rw [htr]
  refine ⟨?_, hfetched, hflights, ?_, hmem⟩
  · rw [← hexec]
    rfl
  · rw [← hcpls]
    rfl

/-! ### VENT (R166, R378) -/

theorem modLbk_congr {d : Dev} {n : Nat} {f g : Lbk → Lbk} (h : f (d.site n).lbk = g (d.site n).lbk) : d.modLbk n f = d.modLbk n g := by
  have hsites : d.sites.modify n (fun s => { s with lbk := f s.lbk }) = d.sites.modify n (fun s => { s with lbk := g s.lbk }) :=
    modify_congr_getD (a := {}) (by rw [← Dev.site, h])
  rw [Dev.modLbk, Dev.modSite, hsites]
  rfl

/-- The core of a VENT that is next has its queue and its plan. -/
theorem ventCmd?_core {d : Dev} {c : Nat} {p : Plan} {site : Nat} {f : Fetched} (h : d.ventCmd? c = some (p, site, f)) : c < d.cqs.length := by
  refine lt_of_cq_ne (·.fetched) fun hnil => ?_
  have hempty : (d.cq c).fetched = [] := hnil
  cases hp : d.planOf c <;> simp [Dev.ventCmd?, hp, hempty] at h

/-- A queue in the window of vent-table entry `i`. -/
def Cq.ventOpened (q : Cq) (i : Nat) (f : Fetched) : Cq :=
  { q with
    fetched := q.fetched.tail, next := f.idx + 1, flights := [{ idx := f.idx, bytes := f.bytes, status := stOk }], frozenAt := none
    vents := q.vents + 1, vent := some (i, true) }

/-- A core's vent window is open and the site's test runs. -/
def Dev.ventOpened (d : Dev) (c : Nat) (p : Plan) (site i : Nat) (f : Fetched) : Dev :=
  let e := ((d.modLbk site (fun l => l.setDemand 4)).modCq c (fun q => { q.ventOpened i f with vents := (d.cq c).vents + 1 })).modPlan p.handle
    (fun p => { p with ventStates := p.ventStates.set i (.running d.bt.beat) })
  { e with health := { e.health with tests := e.health.tests ++ [{ site := site, id := fld f.bytes 8 2, start := some d.bt.beat }] } }

section
variable {d : Dev} {c : Fin 72} {p : Plan} {site i : Nat} {f : Fetched} (h : d.ventCmd? c.val = some (p, site, f))
  (hi : (p.ventsOf (p.planCore c.val))[(d.cq c.val).vents]? = some i) (hearly : p.earlyOf (p.vent i).step f = none)
  (hnode : p.nextNode (p.planCore c.val) = some (.vent i))
  (hoff : d.offReached p.base (p.stepOff (p.vent i).step + (p.vent i).ventOff) = true)
include h hi hearly hnode hoff

/-- A VENT opens its window and starts its test. -/
theorem vent_opens (hgrant : 4 ≤ (d.site site).lbk.grant.toNat) (hlen : fld f.bytes 12 4 = (p.vent i).len) :
    vent c d = d.ventOpened c.val p site i f := by
  simp only [vent, h, hi, hearly, hnode, hoff, hlen, Nat.not_lt.2 hgrant, Option.isSome_none, Bool.false_and, bne_self_eq_false,
    Bool.not_true, Bool.or_self, Bool.false_eq_true, if_false, if_true, decide_true]
  rfl

/-- A VENT without its grant raises the demand. -/
theorem vent_waits (hgrant : (d.site site).lbk.grant.toNat < 4) : vent c d = d.modLbk site (fun l => l.setDemand 4) := by
  simp only [vent, h, hi, hearly, hnode, hoff, hgrant, Option.isSome_none, Bool.false_and, bne_self_eq_false, Bool.not_true, Bool.or_self,
    Bool.false_eq_true, if_false, if_true]
end

/-! ### Breaks (R121, R148) -/

/-- The plan of a handle that an update has touched. -/
theorem plan?_modPlan {d : Dev} {p : Plan} (hp : p ∈ d.plans) {f : Plan → Plan} (hf : ∀ q, (f q).handle = q.handle) :
    ∃ q, (d.modPlan p.handle f).plan? p.handle = some (f q) := by
  have hkey : (fun q : Plan => q.handle == p.handle) ∘ (fun q => if q.handle == p.handle then f q else q) = fun q => q.handle == p.handle := by
    funext q
    simp only [Function.comp_apply]
    split
    · rw [hf]
    · rfl
  obtain ⟨q, hq⟩ := Option.isSome_iff_exists.1 (List.find?_isSome (p := fun q : Plan => q.handle == p.handle).2 ⟨p, hp, beq_self_eq_true p.handle⟩)
  refine ⟨q, ?_⟩
  rw [Dev.plan?, Dev.modPlan, List.find?_map, hkey, hq, Option.map_some, if_pos (List.find?_some hq)]

/-- A queue frozen by its count comparator. -/
def Cq.broken (q : Cq) : Cq :=
  { q with frozenAt := some q.next, brkDue := false, regs := { q.regs with frozen := true, brkHit := true, brkCountEn := false } }

/-- A break on the count freezes the queue and holds its plan. -/
theorem breakFire_count {d : Dev} {c : Fin 72} {p : Plan} (hp : d.planOf c.val = some p) (hhalt : (d.cq c.val).regs.halted = false)
    (hen : (d.cq c.val).regs.brkCountEn = true) (hdue : (d.cq c.val).brkDue = true) (hrun : p.state = .running) :
    breakFire c d = (d.modCq c.val Cq.broken).debugHold p := by
  have hcount : ∀ q : Cq, (q.regs.brkCountEn && !true) = false := fun q => by simp
  simp only [breakFire, hp, hen, hdue, hhalt, hrun, Bool.and_self, Bool.true_or, Bool.not_true, Bool.and_false, Bool.or_self,
    beq_self_eq_true, Bool.false_eq_true, if_false]
  rfl

/-- A running plan is debug-held, with the cause of a break. -/
theorem debugHold_held {d : Dev} {p : Plan} (hp : p ∈ d.plans) (hrun : p.state = .running) :
    ((d.debugHold p).plan? p.handle).map (fun q => (q.state, q.holdCause)) = some (.debugHeld, 0x0302) := by
  obtain ⟨q, hq⟩ := plan?_modPlan hp (f := fun q => { q with
    state := .debugHeld, holdCause := 0x0302, resumeBeat := none, begun := d.begunSteps q }) (fun _ => rfl)
  rw [Dev.plan?, Dev.debugHold, if_pos (by simp [hrun]), (closeWhere_only ..).same .plans rfl, writeRecord_plans]
  exact congrArg (Option.map (fun q => (q.state, q.holdCause))) hq

theorem debugHold_keeps (d : Dev) (p : Plan) : (d.debugHold p).cqs = d.cqs ∧ (d.debugHold p).mem = d.mem := by
  unfold Dev.debugHold
  split
  · exact ⟨Eq.trans ((closeWhere_only ..).same .cqs rfl) (writeRecord_cqs ..), Eq.trans ((closeWhere_only ..).same .mem rfl) (writeRecord_mem ..)⟩
  · exact ⟨rfl, rfl⟩

theorem planOf_mem {d : Dev} {c : Nat} {p : Plan} (h : d.planOf c = some p) : p ∈ d.plans := List.mem_of_find?_eq_some h

/-- Settles O32: VENT and the completions by what they make of the queue, a break by its queue and its plan. -/
theorem ventsBreaksAndCompletions : Obligations.VentsBreaksAndCompletions := by
  unfold Obligations.VentsBreaksAndCompletions
  refine ⟨?opens, ?waits, ?flight, ?early, ?skipped, ?fires, ?expiry⟩
  case opens =>
    intro s c p site i f h hi hearly hnode hoff hgrant hlen
    refine completes_of_run rfl ?_
    rw [vent_opens h hi hearly hnode hoff hgrant hlen]
    have hcq := cq_modCq_same s.dev (fun q => { q.ventOpened i f with vents := (s.dev.cq c.val).vents + 1 }) (ventCmd?_core h)
    refine ⟨congrArg Cq.vent hcq, congrArg Cq.fetched hcq, rfl, rfl, fun k hk => ?_⟩
    exact cq_modCq_other s.dev _ (Ne.symm hk)
  case waits =>
    intro s c p site i f h hi hearly hnode hoff hgrant
    refine completes_of_run rfl ?_
    rw [vent_waits h hi hearly hnode hoff hgrant]
    exact modLbk_congr (by rw [Lbk.setDemand, if_pos (by omega)])
  case flight =>
    intro s c idx x g hvent hctx hg
    refine completes_of_run rfl ?_
    rw [commandComplete_flight hvent hctx hg]
    obtain ⟨hxc, hlt⟩ := ctx?_core hctx
    obtain ⟨⟨tr, htr⟩, hothers, hmem⟩ := flightEnded_keeps (hxc ▸ hlt) idx g
    rw [hxc] at htr hothers hmem
    rw [htr, hmem]
    exact ⟨rfl, rfl, rfl, rfl, hothers⟩
  case early =>
    intro s c idx x f st cf hvent hctx hnone hnext hidx hfree hearly
    refine completes_of_run rfl ?_
    have hends : x.p.earlyOf x.chunk.step f = some (st, cf) := by rw [Plan.earlyOf, hearly]
    obtain ⟨hxc, hlt⟩ := ctx?_core hctx
    rw [commandComplete_early hvent hctx hnone hnext hidx hends (.inr hfree)]
    obtain ⟨hexec, hfetched, -, hcpls, hmem⟩ := takenAndEnded (hxc ▸ hlt) f st cf (s.dev.wideAddr f.bytes st)
    rw [hxc] at hexec hfetched hcpls
    exact ⟨hexec, hfetched, hcpls, hmem⟩
  case skipped =>
    intro s c idx x f hvent hctx hnone hnext hidx hearly hskip
    refine completes_of_run rfl ?_
    have hends : x.p.earlyOf x.chunk.step f = some (stOk, cfSkipped) := by rw [Plan.earlyOf, hearly]; exact if_pos hskip
    obtain ⟨hxc, hlt⟩ := ctx?_core hctx
    rw [commandComplete_early hvent hctx hnone hnext hidx hends (.inl rfl)]
    obtain ⟨hexec, hfetched, hflights, hcpls, hmem⟩ := takenAndEnded (hxc ▸ hlt) f stOk cfSkipped (s.dev.wideAddr f.bytes stOk)
    rw [hxc] at hexec hfetched hflights hcpls
    refine ⟨hexec, hfetched, hflights, hcpls.trans ?_, hmem⟩
    simp [stOk, cfSkipped]
  case fires =>
    intro s c p hp hfrozen hhalt hen hdue hrun
    refine completes_of_run rfl ?_
    have hlt : c.val < s.dev.cqs.length := lt_of_cq_ne (·.regs.brkCountEn) (by rw [hen]; decide)
    obtain ⟨hcqs, hmem⟩ := debugHold_keeps (s.dev.modCq c.val Cq.broken) p
    rw [breakFire_count hp hhalt hen hdue hrun, cq_of_cqs hcqs, cq_modCq_same _ _ hlt, hmem]
    exact ⟨rfl, rfl, rfl, debugHold_held (d := s.dev.modCq c.val Cq.broken) (planOf_mem hp) hrun, rfl⟩
  case expiry =>
    intro s site hhold hzero
    refine completes_of_run rfl ?_
    rw [grantHoldExpiry, if_pos (by simp [hhold, hzero])]

end Sys2Proof.Machine
end

section
/-! SUPPORT. What a health record leaves of the health state, what a loss of sites keeps, and the routes of control messages
(R320, R324, R325, R374, R385). -/

namespace Sys2Proof.Machine

/-! ### Health records -/

/-- A health state without its records: the banks and the fault latch. -/
def Health.unlogged (h : Health) : Health :=
  { h with bankA := [], bankB := [], logNext := 0, latch := [], latchNow := 0, latchMissed := [], latchLost := 0 }

theorem latchPush_unlogged (d : Dev) (r : Rec) : (d.latchPush r).health.unlogged = d.health.unlogged := by
  unfold Dev.latchPush
  split <;> rfl

theorem logRecord_unlogged (d : Dev) (r : Rec) : (d.logRecord r).health.unlogged = d.health.unlogged := by
  have hstage : ∀ (e : Dev) sid p f bs, (e.stage sid p f bs).health = e.health := fun e sid p f bs => (stage_only e sid p f bs).same .health rfl
  unfold Dev.logRecord
  dsimp only
  split
  · rw [hstage]
    rfl
  · rfl

theorem takeRecord_unlogged (d : Dev) (r : Rec) : (d.takeRecord r).health.unlogged = d.health.unlogged := by
  have hpost : ∀ (e : Dev) (x : Rec), (e.postEvent x).health = e.health := fun e x => (postEvent_only e x).same .health rfl
  unfold Dev.takeRecord
  dsimp only
  repeat' split
  all_goals simp only [hpost, latchPush_unlogged, logRecord_unlogged]

theorem writeRecord_unlogged (d : Dev) (r : Rec) : (d.writeRecord r).health.unlogged = d.health.unlogged := by
  unfold Dev.writeRecord
  split
  · exact latchPush_unlogged ..
  · exact takeRecord_unlogged ..

@[simp] theorem writeRecord_heals (d : Dev) (r : Rec) : (d.writeRecord r).health.heals = d.health.heals :=
  (congrArg Health.heals (writeRecord_unlogged d r) :)
@[simp] theorem writeRecord_recoveries (d : Dev) (r : Rec) : (d.writeRecord r).health.recoveries = d.health.recoveries :=
  (congrArg Health.recoveries (writeRecord_unlogged d r) :)
@[simp] theorem writeRecord_siteStates (d : Dev) (r : Rec) : (d.writeRecord r).health.siteStates = d.health.siteStates :=
  (congrArg Health.siteStates (writeRecord_unlogged d r) :)

theorem writeRecord_logs {d : Dev} (h : d.logs) (r : Rec) : (d.writeRecord r).logs :=
  logs_of_health (writeRecord_fwp ..) (congrArg Health.logState (writeRecord_unlogged d r) :)
    (congrArg Health.bankAOk (writeRecord_unlogged d r) :) h

theorem siteState_of_states {d e : Dev} (h : e.health.siteStates = d.health.siteStates) (n : Nat) : e.siteState n = d.siteState n :=
  congrArg (·.getD n .held) h

/-! ### Routes of control messages -/

theorem upOf_of_states {d e : Dev} (h : ∀ p, (e.port p).state = (d.port p).state) (dir : Nat) : e.upOf dir = d.upOf dir := by
  simp only [Dev.upOf, h]

theorem freePlace_state (d : Dev) (f : Flit) (p : Nat) : ((d.freePlace f).port p).state = (d.port p).state := by
  unfold Dev.freePlace
  split
  case h_2 => rfl
  case h_1 q k _ =>
    by_cases hp : q = p
    · subst hp
      by_cases hlen : q < d.lnk.ports.length
      · rw [port_modPort_same d _ hlen]
      · rw [Dev.port, Dev.port, Dev.modPort, List.modify_eq_self (by omega)]
    · rw [port_modPort_other d _ hp]

theorem dequeue_state (d : Dev) (f : Flit) (rest : List (Nat × Flit)) (p : Nat) : ((d.dequeue f rest).port p).state = (d.port p).state :=
  freePlace_state ..

theorem dequeue_routeDir (d : Dev) (f : Flit) (rest : List (Nat × Flit)) (dest : BitVec 15) :
    (d.dequeue f rest).routeDir dest = d.routeDir dest := by
  unfold Dev.dequeue Dev.freePlace
  split <;> rfl

@[simp] theorem dequeue_reaches (d : Dev) (f : Flit) (rest : List (Nat × Flit)) (dest : BitVec 15) :
    (d.dequeue f rest).reaches dest = d.reaches dest := by
  simp only [Dev.reaches, dequeue_routeDir, upOf_of_states (dequeue_state d f rest)]

theorem lt_of_port_up {d : Dev} {p : Nat} (h : (d.port p).state = .up) : p < d.lnk.ports.length := by
  by_contra hp
  rw [Dev.port, List.getD_eq_default _ _ (by omega)] at h
  exact absurd h (by decide)

/-- A detour leads into a direction that has a port up, too (R326). -/
theorem upOf_outDir_ne {d : Dev} {dir : Nat} (h : d.upOf dir ≠ []) (from? : Option Nat) (dest : BitVec 15) : d.upOf (d.outDir from? dir dest) ≠ [] := by
  unfold Dev.outDir
  dsimp only
  split
  case h_2 => exact h
  case h_1 n _ =>
    by_cases hlen : (d.detourDirs from?).length = 0
    · rw [List.eq_nil_of_length_eq_zero hlen]
      exact h
    · have hlt : Config.detour n (d.detourDirs from?).length dest % (d.detourDirs from?).length < (d.detourDirs from?).length :=
        Nat.mod_lt _ (by omega)
      rw [List.getD_eq_getElem _ _ hlt]
      have hboth := (List.mem_filter.mp (List.getElem_mem hlt)).2
      simp only [Bool.and_eq_true, Bool.not_eq_true', List.isEmpty_eq_false_iff] at hboth
      exact hboth.1

/-- A direction with a port up has one for every flow (R325). -/
theorem flowPort_up {d : Dev} {dir : Nat} (h : d.upOf dir ≠ []) (f : Flit) : ∃ p, d.flowPort dir f = some p ∧ (d.port p).state = .up := by
  have hlen : (d.upOf dir).length ≠ 0 := fun h0 => h (List.eq_nil_of_length_eq_zero h0)
  have hlt := Nat.mod_lt ((f.src.setWidth 16 ^^^ f.dest.setWidth 16) ^^^ f.channel).toNat (Nat.pos_of_ne_zero hlen)
  have hup := (List.mem_filter.mp (List.getElem_mem hlt)).2
  refine ⟨_, ?_, beq_iff_eq.mp hup⟩
  rw [Dev.flowPort, if_neg hlen, List.getElem?_eq_getElem hlt]

theorem heldPort_up {d : Dev} {f : Flit} {p : Nat} (h : d.heldPort f = some p) : (d.port p).state = .up := by
  have := List.find?_some h
  simp only [Bool.and_eq_true, beq_iff_eq] at this
  exact this.1

/-- The port that a new packet of a flow leaves by is up. -/
theorem leaving_up {d : Dev} {dir : Nat} (h : d.upOf dir ≠ []) (from? : Option Nat) (f : Flit) :
    ∃ p, (d.heldPort f <|> d.flowPort (d.outDir from? dir f.dest) f) = some p ∧ (d.port p).state = .up := by
  cases hheld : d.heldPort f with
  | some p => exact ⟨p, rfl, heldPort_up hheld⟩
  | none => exact flowPort_up (upOf_outDir_ne h from? f.dest) f

/-- A new packet whose direction has a port up goes behind its class on a port that is up. -/
theorem routeFlit_leaves {d : Dev} {f : Flit} {dir : Nat} (hdir : d.routeDir f.dest = some dir) (hup : d.upOf dir ≠ []) (hfirst : f.first = true)
    (from? : Option Nat) : ∃ p, p < d.lnk.ports.length ∧ (d.port p).state = .up ∧ (d.routeFlit from? f).coord = d.coord ∧
      ∃ vc, (d.routeFlit from? f).lnk.ports = d.lnk.ports.modify p (fun q => q.enqueue { f with vc := vc }) := by
  obtain ⟨p, hp, hstate⟩ := leaving_up hup from? f
  refine ⟨p, lt_of_port_up hstate, hstate, ?_⟩
  have hkept : ∀ o : Option Nat, ((o.filter (fun p => !f.first && (d.port p).state == .up) <|> d.heldPort f) <|>
      d.flowPort (d.outDir from? dir f.dest) f) = some p := fun o => by
    cases o <;> simpa [Option.filter, hfirst] using hp
  unfold Dev.routeFlit
  simp only [hdir, hkept]
  exact ⟨rfl, _, rfl⟩

/-- A control message to a device that is reached is put last in the control class of a port that is up. -/
theorem sendControl_controlOut {d : Dev} {dest : BitVec 15} (h : d.reaches dest = true) (channel : BitVec 16) (b : Body) :
    (d.sendControl dest channel b).controlOut dest channel b = true := by
  unfold Dev.reaches at h
  split at h
  case h_2 => exact absurd h (by simp)
  case h_1 dir hdir =>
  have hup : d.upOf dir ≠ [] := by simpa using h
  obtain ⟨p, hlt, -, hcoord, vc, hports⟩ := routeFlit_leaves (d := d)
    (f := { type := 4, dest := dest, src := d.coord, channel := channel, body := b }) hdir hup rfl none
  rw [Dev.controlOut, Dev.sendControl, hcoord, hports]
  refine List.any_eq_true.mpr ⟨_, List.mem_iff_getElem.mpr ⟨p, by simpa using hlt, rfl⟩, ?_⟩
  simp [Port.enqueue]

theorem sendControl_inbox (d : Dev) (dest : BitVec 15) (channel : BitVec 16) (b : Body) :
    (d.sendControl dest channel b).lnk.inbox = d.lnk.inbox := by
  have hfree : ∀ (e : Dev) (f : Flit), (e.freePlace f).lnk.inbox = e.lnk.inbox := fun e f => by
    unfold Dev.freePlace
    split <;> rfl
  unfold Dev.sendControl Dev.routeFlit
  split
  · exact hfree ..
  · dsimp only
    split <;> rfl

/-! ### Plans halted for a loss (R383, R384) -/

/-- What one element of a list establishes and no element undoes holds after a fold over the list. -/
theorem foldl_establishes {α : Type} {f : Dev → α → Dev} {I P : Dev → Prop} {a : α} (hI : ∀ d b, I d → I (f d b)) (hP : ∀ d b, P d → P (f d b))
    (hset : ∀ d, I d → P (f d a)) {l : List α} (ha : a ∈ l) {d : Dev} (h : I d) : P (l.foldl f d) := by
  induction l generalizing d with
  | nil => exact absurd ha List.not_mem_nil
  | cons b l ih =>
    rw [List.foldl_cons]
    by_cases hab : a ∈ l
    · exact ih hab (hI d b h)
    · obtain rfl : a = b := (List.mem_cons.mp ha).resolve_right hab
      exact List.foldlRecOn l f (motive := P) (hset d h) fun d hd b _ => hP d b hd

/-- The queue of a core is halted. -/
def Dev.haltedAt (c : Nat) (d : Dev) : Prop := (d.cq c).regs.halted = true

theorem haltQueue_haltedAt {d : Dev} {c : Nat} (h : c < d.cqs.length) : (d.haltQueue c).haltedAt c := by
  rw [Dev.haltedAt, Dev.haltQueue, Dev.modRegs, cq_modCq_same _ _ h]

theorem haltQueue_keeps_halted {d : Dev} {c : Nat} (k : Nat) (h : d.haltedAt c) : (d.haltQueue k).haltedAt c := by
  by_cases hkc : k = c
  · subst hkc
    by_cases hlen : k < d.cqs.length
    · exact haltQueue_haltedAt hlen
    · rwa [Dev.haltedAt, Dev.haltQueue, Dev.modRegs, Dev.modCq, Dev.cq, List.modify_eq_self (by omega)]
  · rwa [Dev.haltedAt, Dev.haltQueue, Dev.modRegs, cq_modCq_other _ _ hkc]

theorem haltPlan_length (d : Dev) (p : Plan) : (d.haltPlan p).cqs.length = d.cqs.length :=
  view_foldl (·.cqs.length) haltQueue_length p.cores d

/-- Plans halted, with no chunk of theirs to come. -/
def Dev.haltPlans (d : Dev) (hit : List Plan) : Dev :=
  hit.foldl (fun (d : Dev) p => (d.haltPlan p).modPlan p.handle (fun p => { p with dead := true })) d

theorem haltPlans_only (d : Dev) (hit : List Plan) : Only [.plans, .cqs] d (d.haltPlans hit) :=
  Only.foldl (fun e p => Only.step (modPlan_only _ _ _) (by decide) (Only.step (haltPlan_only e p) (by decide) (Only.refl _ e))) hit (Only.refl _ d)

theorem haltPlans_haltedAt {d : Dev} {hit : List Plan} {p : Plan} (hp : p ∈ hit) {c : Nat} (hc : c ∈ p.cores) (hlen : c < d.cqs.length) :
    (d.haltPlans hit).haltedAt c := by
  refine foldl_establishes (I := fun e => c < e.cqs.length) (fun e k h => ?_) (fun e k h => ?_) (fun e h => ?_) hp hlen
  · exact lt_of_lt_of_eq h (haltPlan_length e k).symm
  · exact List.foldlRecOn k.cores Dev.haltQueue (motive := Dev.haltedAt c) h fun _ hd k _ => haltQueue_keeps_halted k hd
  · exact foldl_establishes (I := fun e => c < e.cqs.length) (fun e k h => lt_of_lt_of_eq h (haltQueue_length e k).symm)
      (fun _ k h => haltQueue_keeps_halted k h) (fun _ h => haltQueue_haltedAt h) hc h

theorem haltFor_eq (d : Dev) (hit : List Plan) (unit : BitVec 16) :
    d.haltFor hit unit = ((d.haltPlans hit).setHltEvent 10).writeRecord ((d.haltPlans hit).mkRec 4 2 0x170E unit) := rfl

theorem haltPlans_logs {d : Dev} (h : d.logs) (hit : List Plan) : (d.haltPlans hit).logs := by
  have hhealth : (d.haltPlans hit).health = d.health := (haltPlans_only d hit).same .health rfl
  exact logs_of_health ((haltPlans_only d hit).same .fwp rfl) (by rw [hhealth]) (by rw [hhealth]) h

theorem setHltEvent_logs {d : Dev} (h : d.logs) (i : Nat) : (d.setHltEvent i).logs := h

theorem haltFor_logged {d : Dev} (h : d.logs) (hit : List Plan) (unit : BitVec 16) : (d.haltFor hit unit).logged 4 0x170E unit := by
  rw [haltFor_eq]
  exact writeRecord_logged_as (setHltEvent_logs (haltPlans_logs h hit) 10) rfl

theorem haltPlans_health (d : Dev) (hit : List Plan) : (d.haltPlans hit).health = d.health := (haltPlans_only d hit).same .health rfl

theorem haltFor_halted {d : Dev} {hit : List Plan} {p : Plan} (hp : p ∈ hit) {c : Nat} (hc : c ∈ p.cores) (hlen : c < d.cqs.length)
    (unit : BitVec 16) : ((d.haltFor hit unit).cq c).regs.halted = true := by
  rw [haltFor_eq, cq_of_cqs (writeRecord_cqs ..)]
  exact haltPlans_haltedAt hp hc hlen

theorem haltFor_siteState (d : Dev) (hit : List Plan) (unit : BitVec 16) (n : Nat) : (d.haltFor hit unit).siteState n = d.siteState n := by
  refine siteState_of_states ?_ n
  rw [haltFor_eq, writeRecord_siteStates]
  rw [Dev.setHltEvent, haltPlans_health]

theorem haltFor_recoveries (d : Dev) (hit : List Plan) (unit : BitVec 16) : (d.haltFor hit unit).health.recoveries = d.health.recoveries := by
  rw [haltFor_eq, writeRecord_recoveries]
  rw [Dev.setHltEvent, haltPlans_health]

/-! ### What the loss of a site keeps -/

/-- Of the health state `e` has other states of sites at most, and the sites that `d` has lost are lost. -/
def Dev.keepsLost (d e : Dev) : Prop :=
  e.health.recoveries = d.health.recoveries ∧ (d.logs → e.logs) ∧ e.health.siteStates.length = d.health.siteStates.length ∧
  ∀ n, d.siteState n = .lost → e.siteState n = .lost

theorem Dev.keepsLost.trans {d e f : Dev} (h : d.keepsLost e) (k : e.keepsLost f) : d.keepsLost f := by
  obtain ⟨hr, hl, hs, hn⟩ := h
  obtain ⟨kr, kl, ks, kn⟩ := k
  exact ⟨kr.trans hr, kl ∘ hl, ks.trans hs, fun n h => kn n (hn n h)⟩

theorem keepsLost_of_health {d e : Dev} (hf : e.fwp = d.fwp) (h : e.health = d.health) : d.keepsLost e :=
  ⟨congrArg Health.recoveries h, logs_of_health hf (congrArg Health.logState h) (congrArg Health.bankAOk h), by rw [h],
    fun n hn => (siteState_of_states (congrArg Health.siteStates h) n).trans hn⟩

theorem keepsLost_of_only {m : List Part} {d e : Dev} (h : Only m d e) (hm : m.contains .health = false) (hf : m.contains .fwp = false) : d.keepsLost e :=
  keepsLost_of_health (h.same .fwp hf) (h.same .health hm)

theorem keepsLost_foldl {α : Type} {f : Dev → α → Dev} (hf : ∀ (d : Dev) a, d.keepsLost (f d a)) (l : List α) (d : Dev) : d.keepsLost (l.foldl f d) :=
  List.foldlRecOn l f (motive := d.keepsLost) (keepsLost_of_health rfl rfl) fun _ h a _ => h.trans (hf _ a)

theorem setSiteState_keepsLost {d : Dev} {s : Nat} (x : SiteState) (h : d.siteState s ≠ .lost) : d.keepsLost (d.setSiteState s x) := by
  refine ⟨rfl, id, setSiteState_length .., fun n hn => ?_⟩
  by_cases hs : s = n
  · exact absurd (hs ▸ hn) h
  · rwa [siteState_setSiteState_other d x hs]

theorem powerHeld_keepsLost (d : Dev) (s : Nat) : d.keepsLost (d.powerHeld s) := by
  unfold Dev.powerHeld
  split
  · split
    · exact keepsLost_of_health rfl rfl
    · exact keepsLost_of_only (powerUp_only ..) rfl rfl
  next hwarm => exact setSiteState_keepsLost .held (by rw [hwarm]; decide)
  · exact keepsLost_of_health rfl rfl

theorem held_of_heldUp {d : Dev} {die s : Nat} (h : s ∈ d.heldUp die) : d.siteState s = .held := by
  simpa using (List.mem_filter.mp (List.mem_filter.mp h).1).2

/-- A held site that becomes warm was not lost. -/
theorem warmed_keepsLost {d : Dev} {s : Nat} (h : d.siteState s = .held) : d.keepsLost (((d.siteReset s).setSiteState s .warm).setDom s .gated) := by
  have hreset : (d.siteReset s).siteState s ≠ .lost := by
    rw [siteState_of_states (congrArg Health.siteStates ((siteReset_only d s).same .health rfl)), h]
    decide
  exact ((keepsLost_of_only (siteReset_only d s) rfl rfl).trans (setSiteState_keepsLost .warm hreset)).trans (keepsLost_of_health rfl rfl)

theorem coolHeld_keepsLost (d : Dev) (die : Nat) : d.keepsLost (d.coolHeld die) := by
  have hdown : ∀ e : Dev, e.keepsLost ((e.heldOf die).foldl (fun (d : Dev) s => d.powerDown s causeIdle) e) := fun e =>
    keepsLost_foldl (fun d s => keepsLost_of_only (powerDown_only d s causeIdle) rfl rfl) _ e
  unfold Dev.coolHeld
  refine Dev.keepsLost.trans ?_ (hdown _)
  split
  · exact keepsLost_of_health rfl rfl
  split
  · exact keepsLost_of_health rfl rfl
  next hup =>
    have hpos : 0 < (d.heldUp die).length := List.length_pos_iff.mpr hup
    have hlt := Nat.mod_lt (Config.mapPick d.free (d.heldUp die).length) hpos
    have hmem := List.getElem_mem hlt
    rw [← List.getD_eq_getElem _ 0 hlt] at hmem
    exact (keepsLost_of_health rfl rfl : d.keepsLost d.draw.2).trans (warmed_keepsLost (d := d.draw.2) (held_of_heldUp hmem))

theorem freeSpare_keepsLost {d : Dev} {s : Nat} (h : d.siteState s ≠ .lost) : d.keepsLost (d.freeSpare s) := by
  unfold Dev.freeSpare
  refine (setSiteState_keepsLost .held h).trans ?_
  dsimp only
  split
  · exact coolHeld_keepsLost ..
  · exact powerHeld_keepsLost ..

theorem dropSpare_keepsLost (d : Dev) (r : Recovery) : d.keepsLost (d.dropSpare r) := by
  unfold Dev.dropSpare
  split
  case h_2 => exact keepsLost_of_health rfl rfl
  case h_1 s _ =>
    have hmap : d.keepsLost (if r.phase == .inService then
        (match d.coreOf s with | some c => { d with siteOf := d.siteOf.set c 0xFE, mapTs := d.now } | none => d) else d) := by
      repeat' split
      all_goals exact keepsLost_of_health rfl rfl
    have hfree : ∀ e : Dev, e.keepsLost (if s != r.site && e.siteState s == .recovering then e.freeSpare s else e) := fun e => by
      split
      next h =>
        simp only [Bool.and_eq_true, beq_iff_eq] at h
        exact freeSpare_keepsLost (by rw [h.2]; decide)
      next => exact keepsLost_of_health rfl rfl
    exact hmap.trans (hfree _)

theorem enterCrater_states (d : Dev) (u : BitVec 16) (host : Option (BitVec 8)) :
    (d.enterCrater u host).2.health.siteStates = d.health.siteStates ∧ (d.enterCrater u host).2.health.recoveries = d.health.recoveries := by
  unfold Dev.enterCrater Dev.draw
  dsimp only
  split <;> exact ⟨rfl, rfl⟩

section
variable (d : Dev) (n source : Nat) (fault : Option Bool) (tag : BitVec 32) (host : Option HostFence)

/-- The grant of a site counted against the fall of the beat (R168). -/
def Dev.grantFell : Dev :=
  { d with fenceFall := (d.bt.beat, (if d.fenceFall.1 = d.bt.beat then d.fenceFall.2 else 0) + (d.site n).lbk.grant.toNat) }

/-- Whether a site that is fenced is permanent, and the machine once the crater table holds it. -/
def Dev.cratered : Bool × Dev :=
  (d.grantFell n).enterCrater (siteUnit n) (host.map (fun r => r.1.setWidth 8))

/-- A site taken out of service by its fence: its state, its tests and its grant. -/
def Dev.withdrawn (x : SiteState) : Dev :=
  ((d.setSiteState n x).modHealth (fun h => { h with testedSince := h.testedSince.set n none })).modSite n
    (fun s => { s with lbk := { s.lbk with grant := 0, demand := 0, holding := false } })

/-- The record of a fence has CLASS 3 and CODE 0x1701. -/
theorem fenceSite_eq : ∃ x r, (x = .permanent ∨ x = .fenced) ∧ (r.cls, r.code, r.unit) = (3, 0x1701, siteUnit n) ∧
    d.fenceSite n source fault tag host = ((d.cratered n host).2.withdrawn n x).writeRecord r := by
  refine ⟨if (d.cratered n host).1 then .permanent else .fenced, _, ?_, ?_, rfl⟩
  · cases (d.cratered n host).1
    · exact .inr rfl
    · exact .inl rfl
  · cases host <;> cases fault <;> by_cases htag : tag = 0xFFFFFFFF <;> simp only [htag, if_true, if_false] <;> rfl

theorem cratered_states : (d.cratered n host).2.health.siteStates = d.health.siteStates := (enterCrater_states ..).1
theorem cratered_recoveries : (d.cratered n host).2.health.recoveries = d.health.recoveries := (enterCrater_states ..).2
theorem grantFell_logs {d : Dev} (h : d.logs) : (d.grantFell n).logs := logs_of_health rfl rfl rfl h
theorem cratered_logs {d : Dev} (h : d.logs) : (d.cratered n host).2.logs := by
  generalize hg : d.grantFell n = g
  have hl : g.logs := hg ▸ grantFell_logs n h
  rw [Dev.cratered, hg]
  exact enterCrater_logs hl ..
theorem withdrawn_states (x : SiteState) : (d.withdrawn n x).health.siteStates = d.health.siteStates.set n x := rfl
theorem withdrawn_recoveries (x : SiteState) : (d.withdrawn n x).health.recoveries = d.health.recoveries := rfl
theorem withdrawn_logs {d : Dev} (h : d.logs) (x : SiteState) : (d.withdrawn n x).logs := h

/-- A fence of a site changes the state of that site alone. -/
theorem fenceSite_states : ∃ x, (x = .permanent ∨ x = .fenced) ∧
    (d.fenceSite n source fault tag host).health.siteStates = d.health.siteStates.set n x := by
  obtain ⟨x, r, hx, -, heq⟩ := fenceSite_eq d n source fault tag host
  rw [heq, writeRecord_siteStates, withdrawn_states, cratered_states]
  exact ⟨x, hx, rfl⟩

theorem fenceSite_recoveries : (d.fenceSite n source fault tag host).health.recoveries = d.health.recoveries := by
  obtain ⟨x, r, -, -, heq⟩ := fenceSite_eq d n source fault tag host
  rw [heq, writeRecord_recoveries, withdrawn_recoveries, cratered_recoveries]

theorem fenceSite_logs {d : Dev} (h : d.logs) : (d.fenceSite n source fault tag host).logs := by
  obtain ⟨x, r, -, -, heq⟩ := fenceSite_eq d n source fault tag host
  rw [heq]
  exact writeRecord_logs (withdrawn_logs n (cratered_logs n host h) x) r

end

/-! ### The loss of a site (R371, R384) -/

section
variable (d : Dev) (n : Nat)

/-- A site that is lost, its test given up, and fenced where it did not stand fenced already. -/
def Dev.fencedOut : Dev :=
  let e := d.modHealth (fun (h : Health) => { h with tests := h.tests.filter (fun (t : TestRun) => t.site != n) })
  if d.isFenced (siteUnit n) || d.health.tests.any (fun (t : TestRun) => t.site == n && (t.prior == some .fenced || t.prior == some .permanent)) then e
  else e.fenceSite n 2 none 0xFFFFFFFF none

/-- A recovery that had chosen a lost site as its spare goes back to its decision. -/
def Recovery.spareLost (n : Nat) (r : Recovery) : Recovery :=
  if r.spare == some n && r.site != n then { r with spare := none, phase := .detected, fail := n, failSource := 2, failFirst := none } else r

/-- A site out of service and lost, with its own recovery still to end. -/
def Dev.siteGone : Dev :=
  (((d.fencedOut n).setSiteState n .lost).powerDown n causeFence).modHealth (fun h => { h with recoveries := h.recoveries.map (Recovery.spareLost n) })

theorem loseSite_eq : d.loseSite n = match (d.siteGone n).health.recoveries.find? (fun r => r.site == n) with
    | some r => (((d.siteGone n).dropRecovery n).dropSpare r).answerFence r sOk
    | none => d.siteGone n := rfl

theorem fencedOut_states : (∃ x, (d.fencedOut n).health.siteStates = d.health.siteStates.set n x) ∨
    (d.fencedOut n).health.siteStates = d.health.siteStates := by
  unfold Dev.fencedOut
  dsimp only
  split
  · exact .inr rfl
  · obtain ⟨x, -, hx⟩ := fenceSite_states (d.modHealth (fun h => { h with tests := h.tests.filter (fun (t : TestRun) => t.site != n) })) n 2
      none 0xFFFFFFFF none
    exact .inl ⟨x, hx⟩

theorem fencedOut_recoveries : (d.fencedOut n).health.recoveries = d.health.recoveries := by
  unfold Dev.fencedOut
  dsimp only
  split
  · rfl
  · exact fenceSite_recoveries ..

theorem fencedOut_logs {d : Dev} (h : d.logs) : (d.fencedOut n).logs := by
  have htests : (d.modHealth (fun h => { h with tests := h.tests.filter (fun (t : TestRun) => t.site != n) })).logs := h
  unfold Dev.fencedOut
  dsimp only
  split
  · exact htests
  · exact fenceSite_logs n 2 none 0xFFFFFFFF none htests

/-- The states of the sites once one is lost. -/
theorem siteGone_states : (d.siteGone n).health.siteStates = d.health.siteStates.set n .lost := by
  have hdown := congrArg Health.siteStates ((powerDown_only ((d.fencedOut n).setSiteState n .lost) n causeFence).same .health rfl)
  refine Eq.trans hdown ?_
  rw [setSiteState_health]
  obtain ⟨x, hx⟩ | hx := fencedOut_states d n
  · exact (congrArg (List.set · n .lost) hx).trans (List.set_set ..)
  · exact congrArg (List.set · n .lost) hx

theorem siteGone_recoveries : (d.siteGone n).health.recoveries = d.health.recoveries.map (Recovery.spareLost n) := by
  have hdown := congrArg Health.recoveries ((powerDown_only ((d.fencedOut n).setSiteState n .lost) n causeFence).same .health rfl)
  exact congrArg (List.map (Recovery.spareLost n)) (hdown.trans (fencedOut_recoveries d n))

theorem siteGone_logs {d : Dev} (h : d.logs) : (d.siteGone n).logs := by
  have hdown := powerDown_only ((d.fencedOut n).setSiteState n .lost) n causeFence
  exact logs_of_health (hdown.same .fwp rfl) (congrArg Health.logState (hdown.same .health rfl) :)
    (congrArg Health.bankAOk (hdown.same .health rfl) :) (fencedOut_logs n h)

theorem siteGone_lost {d : Dev} {n : Nat} (hlen : n < d.health.siteStates.length) : (d.siteGone n).siteState n = .lost := by
  rw [siteState_of_states (e := d.siteGone n) (d := d.setSiteState n .lost) (siteGone_states d n)]
  exact siteState_setSiteState_same d .lost hlen

theorem lt_of_siteState_lost {d : Dev} {m : Nat} (h : d.siteState m = .lost) : m < d.health.siteStates.length := by
  by_contra hm
  rw [Dev.siteState, List.getD_eq_default _ _ (by omega)] at h
  exact absurd h (by decide)

theorem siteGone_keeps_lost {d : Dev} {m : Nat} (h : d.siteState m = .lost) : (d.siteGone n).siteState m = .lost := by
  by_cases hm : n = m
  · exact hm ▸ siteGone_lost (hm ▸ lt_of_siteState_lost h)
  · rw [siteState_of_states (e := d.siteGone n) (d := d.setSiteState n .lost) (siteGone_states d n), siteState_setSiteState_other d .lost hm]
    exact h

theorem dropRecovery_logs {d : Dev} (h : d.logs) : (d.dropRecovery n).logs := logs_of_health rfl rfl rfl h

/-- The end of the recovery of a lost site. -/
theorem recoveryEnded_keepsLost (e : Dev) (r : Recovery) :
    (e.dropRecovery n).keepsLost (((e.dropRecovery n).dropSpare r).answerFence r sOk) :=
  (dropSpare_keepsLost ..).trans (keepsLost_of_only (answerFence_only ..) rfl rfl)

/-- What the loss of a site has lost, the end of its recovery leaves lost. -/
theorem loseSite_of_gone {d : Dev} {m : Nat} (h : (d.siteGone n).siteState m = .lost) : (d.loseSite n).siteState m = .lost := by
  rw [loseSite_eq]
  split
  · obtain ⟨-, -, -, hlost⟩ := recoveryEnded_keepsLost n (d.siteGone n) ‹_›
    exact hlost m h
  · exact h

theorem loseSite_lost {d : Dev} {n : Nat} (hlen : n < d.health.siteStates.length) : (d.loseSite n).siteState n = .lost :=
  loseSite_of_gone n (siteGone_lost hlen)

theorem loseSite_keeps_lost {d : Dev} {m : Nat} (h : d.siteState m = .lost) : (d.loseSite n).siteState m = .lost :=
  loseSite_of_gone n (siteGone_keeps_lost n h)

theorem loseSite_length : (d.loseSite n).health.siteStates.length = d.health.siteStates.length := by
  have hgone : (d.siteGone n).health.siteStates.length = d.health.siteStates.length := by rw [siteGone_states, List.length_set]
  rw [loseSite_eq]
  split
  · obtain ⟨-, -, hlength, -⟩ := recoveryEnded_keepsLost n (d.siteGone n) ‹_›
    exact hlength.trans hgone
  · exact hgone

theorem loseSite_logs {d : Dev} (h : d.logs) : (d.loseSite n).logs := by
  rw [loseSite_eq]
  split
  · obtain ⟨-, hlogs, -, -⟩ := recoveryEnded_keepsLost n (d.siteGone n) ‹_›
    exact hlogs (dropRecovery_logs n (siteGone_logs n h))
  · exact siteGone_logs n h

/-- No recovery of a lost site is left. -/
theorem loseSite_recoveries : (d.loseSite n).health.recoveries.all (fun r => r.site != n) = true := by
  rw [loseSite_eq]
  split
  next r _ =>
    obtain ⟨hrec, -, -, -⟩ := recoveryEnded_keepsLost n (d.siteGone n) r
    rw [hrec]
    exact List.all_eq_true.mpr fun x hx => (List.mem_filter.mp hx).2
  next hnone =>
    exact List.all_eq_true.mpr fun x hx => by simpa using List.find?_eq_none.mp hnone x hx

/-- Where no site recovers, the loss of one leaves all memory as it was, and none recovers then. -/
theorem loseSite_mem {d : Dev} (h : d.health.recoveries = []) : (d.loseSite n).mem = d.mem ∧ (d.loseSite n).health.recoveries = [] := by
  have hrec : (d.siteGone n).health.recoveries = [] := by rw [siteGone_recoveries, h, List.map_nil]
  rw [loseSite_eq, hrec]
  have hmem : (d.fencedOut n).mem = d.mem := by
    unfold Dev.fencedOut
    dsimp only
    split
    · rfl
    · exact fenceSite_mem ..
  exact ⟨(powerDown_mem ..).trans hmem, hrec⟩

end

/-! ### Dies and stacks out of service (R374, R384, R434) -/

/-- A domain that goes down is not on. -/
theorem powerDown_not_on (d : Dev) (k cause : Nat) : (d.powerDown k cause).dom k ≠ .on := by
  unfold Dev.powerDown
  dsimp only
  split
  next hoff => exact fun h => absurd (hoff.symm.trans h) (by decide)
  next hramp =>
    split
    all_goals exact fun h => absurd (hramp.symm.trans h) (by decide)
  next hoff _ =>
    rw [Dev.dom, powerOff_pwr]
    intro h
    by_cases hlen : k < d.pwr.doms.length
    · simp [List.getD, hlen] at h
    · simp [List.getD, hlen] at h

/-- No other domain is on then that was not. -/
theorem powerDown_other {d : Dev} {j : Nat} (h : d.dom j ≠ .on) (k cause : Nat) : (d.powerDown k cause).dom j ≠ .on := by
  by_cases hj : k = j
  · exact hj ▸ powerDown_not_on d k cause
  · unfold Dev.powerDown
    dsimp only
    repeat' split
    · exact h
    · exact h
    · exact h
    · rw [Dev.dom, powerOff_pwr]
      simpa [Dev.dom, List.getD, hj] using h

theorem fenceUnit_logs {d : Dev} (h : d.logs) (u : BitVec 16) (source code : Nat) : (d.fenceUnit u source code).logs :=
  writeRecord_logs (enterCrater_logs h u none) _

theorem fenceUnit_states (d : Dev) (u : BitVec 16) (source code : Nat) :
    (d.fenceUnit u source code).health.siteStates = d.health.siteStates := by
  rw [Dev.fenceUnit, writeRecord_siteStates]
  exact (enterCrater_states ..).1

/-- The two dies of a lost stack are down. -/
theorem loseStack_down (d : Dev) (k : Nat) : (d.loseStack k).dom (96 + 2 * k) ≠ .on ∧ (d.loseStack k).dom (97 + 2 * k) ≠ .on :=
  ⟨powerDown_other (powerDown_not_on _ _ _) _ _, powerDown_not_on _ _ _⟩

theorem loseStack_lost {d : Dev} {k : Nat} (h : k < d.stks.length) : ((d.loseStack k).stk k).lost = true := by
  have hdown : ∀ (e : Dev) j c, (e.powerDown j c).stks = e.stks := fun e j c => (powerDown_only e j c).same .stks rfl
  have hfence : ∀ (e : Dev) u a b, (e.fenceUnit u a b).stks = e.stks := fun e u a b => (fenceUnit_only e u a b).same .stks rfl
  rw [Dev.stk, Dev.loseStack, hdown, hdown, hfence, hfence]
  exact congrArg Stk.lost (stk_modStk_same d _ h)

theorem loseStack_states (d : Dev) (k : Nat) : (d.loseStack k).health.siteStates = d.health.siteStates := by
  have hdown : ∀ (e : Dev) j c, (e.powerDown j c).health = e.health := fun e j c => (powerDown_only e j c).same .health rfl
  rw [Dev.loseStack, hdown, hdown, fenceUnit_states, fenceUnit_states]
  rfl

theorem powerDown_logs {d : Dev} (h : d.logs) (k cause : Nat) : (d.powerDown k cause).logs := by
  have hhealth := (powerDown_only d k cause).same .health rfl
  exact logs_of_health ((powerDown_only d k cause).same .fwp rfl) (congrArg Health.logState hhealth) (congrArg Health.bankAOk hhealth) h

theorem loseStack_logs {d : Dev} (h : d.logs) (k : Nat) : (d.loseStack k).logs := by
  have hstk : (d.modStk k (fun t => { t with lost := true })).logs := h
  exact powerDown_logs (powerDown_logs (fenceUnit_logs (fenceUnit_logs hstk ..) ..) ..) ..

theorem fenceUnit_recoveries (d : Dev) (u : BitVec 16) (source code : Nat) :
    (d.fenceUnit u source code).health.recoveries = d.health.recoveries := by
  rw [Dev.fenceUnit, writeRecord_recoveries]
  exact (enterCrater_states ..).2

theorem loseStack_recoveries (d : Dev) (k : Nat) : (d.loseStack k).health.recoveries = d.health.recoveries := by
  have hdown : ∀ (e : Dev) j c, (e.powerDown j c).health = e.health := fun e j c => (powerDown_only e j c).same .health rfl
  rw [Dev.loseStack, hdown, hdown, fenceUnit_recoveries, fenceUnit_recoveries]
  rfl

/-- The five sites of a compute die lost. -/
def Dev.loseSites (d : Dev) (k : Nat) : Dev := (List.range 5).foldl (fun (d : Dev) i => d.loseSite (5 * k + i)) d

theorem loseSites_lost {d : Dev} {k : Nat} (h : 5 * k + 5 ≤ d.health.siteStates.length) {i : Nat} (hi : i < 5) :
    (d.loseSites k).siteState (5 * k + i) = .lost :=
  foldl_establishes (I := fun e => 5 * k + 5 ≤ e.health.siteStates.length) (P := fun e => e.siteState (5 * k + i) = .lost)
    (fun e b he => le_of_le_of_eq he (loseSite_length e (5 * k + b)).symm) (fun _ b he => loseSite_keeps_lost (5 * k + b) he)
    (fun _ he => loseSite_lost (by omega)) (List.mem_range.mpr hi) h

theorem loseSites_logs {d : Dev} (h : d.logs) (k : Nat) : (d.loseSites k).logs :=
  List.foldlRecOn (List.range 5) _ (motive := Dev.logs) h fun _ hd i _ => loseSite_logs (5 * k + i) hd

theorem loseSites_mem {d : Dev} (h : d.health.recoveries = []) (k : Nat) : (d.loseSites k).mem = d.mem := by
  have hall : (d.loseSites k).mem = d.mem ∧ (d.loseSites k).health.recoveries = [] := by
    refine List.foldlRecOn (List.range 5) _ (motive := fun e : Dev => e.mem = d.mem ∧ e.health.recoveries = []) ⟨rfl, h⟩ fun e he i _ => ?_
    obtain ⟨hmem, hrec⟩ := loseSite_mem (5 * k + i) he.2
    exact ⟨hmem.trans he.1, hrec⟩
  exact hall.1

end Sys2Proof.Machine
end

section
/-! PROOF. Heals and lost units (R382 to R384): O50. -/

namespace Sys2Proof.Machine

/-! ### Heals (R382, R383) -/

theorem dequeue_only (d : Dev) (f : Flit) (rest : List (Nat × Flit)) : Only [.lnk] d (d.dequeue f rest) := by
  have hinbox : Only [.lnk] d { d with lnk := { d.lnk with inbox := rest } } := ⟨fun p hp => by cases p <;> first | rfl | cases hp⟩
  exact Only.step (freePlace_only _ f) (by decide) hinbox

theorem dequeue_shared (d : Dev) (f : Flit) (rest : List (Nat × Flit)) : (d.dequeue f rest).shared = d.shared :=
  (dequeue_only ..).same .shared rfl
theorem dequeue_health (d : Dev) (f : Flit) (rest : List (Nat × Flit)) : (d.dequeue f rest).health = d.health :=
  (dequeue_only ..).same .health rfl
theorem dequeue_fwp (d : Dev) (f : Flit) (rest : List (Nat × Flit)) : (d.dequeue f rest).fwp = d.fwp :=
  (dequeue_only ..).same .fwp rfl

@[simp] theorem dequeue_mem (d : Dev) (f : Flit) (rest : List (Nat × Flit)) : (d.dequeue f rest).mem = d.mem := (dequeue_only ..).same .mem rfl

theorem healUnavailable_eq {d : Dev} {w n : Nat} (h : d.sharedWord w = some n) : ∃ hit, (∀ p, p ∈ hit ↔ p ∈ d.plans ∧ p.live = true ∧
      p.img.layout.sharedRead.getLsbD n = true) ∧
    d.healUnavailable w = ((d.haltPlans hit).setHltEvent 7).writeRecord (((d.haltPlans hit).mkRec 4 2 0x0601 (sramUnit (64 * w))).withAddr (64 * w)) := by
  refine ⟨d.plans.filter (fun p => p.live && p.img.layout.sharedRead.getLsbD n), fun p => ?_, ?_⟩
  · simp
  · simp only [Dev.healUnavailable, h]
    rfl

section
variable {d : Dev} {x : Heal} {rest : List Heal} (hheals : d.health.heals = x :: rest)
include hheals

/-- A heal that is asked for goes to the peer with its region and BASE. -/
theorem healRequest_asks {n : Nat} {g : SharedRegion} (hasked : x.asked = none) (hrun : d.runs 2 = true) (hword : d.sharedWord x.word = some n)
    (hregion : d.shared.getD n none = some g) (hpeer : d.health.sharedPeer ≠ 0x7FFF) :
    healRequest d = (d.modHeal (fun _ => { x with asked := some d.bt.beat } :: rest)).sendControl d.health.sharedPeer 0 (.healReq x.word n g.base) := by
  have hnot : ¬ (x.asked.isSome || !d.runs 2) = true := by simp [hasked, hrun]
  simp only [healRequest, hheals, if_neg hnot, hword, if_neg hpeer, hregion, Dev.modHeal, Dev.modHealth]

theorem healTimeout_waits {b : BitVec 52} (hasked : x.asked = some b) (h : d.since b ≤ 30000000) : healTimeout d = d := by
  simp only [healTimeout, hheals, hasked, if_neg (Nat.not_lt.mpr h)]

theorem healTimeout_ends {b : BitVec 52} (hasked : x.asked = some b) (h : 30000000 < d.since b) :
    healTimeout d = (d.modHeal (fun _ => rest)).healUnavailable x.word := by
  simp only [healTimeout, hheals, hasked, if_pos h]

end

/-- The machine once the answer `bs` to the first heal is written. -/
def Dev.healed (d : Dev) (w : Nat) (rest : List Heal) (bs : List Byte) : Dev :=
  { d with
    health := { d.health with heals := rest }
    mem := { bytes := memPutAll d.mem.bytes (64 * w) bs, poison := d.mem.poison.filter (fun (x : Nat) => x != w) } }

theorem healed_mem (d : Dev) (w : Nat) (rest : List Heal) (bs : List Byte) : (d.healed w rest bs).mem =
    ⟨memPutAll d.mem.bytes (64 * w) bs, d.mem.poison.filter (fun (x : Nat) => x != w)⟩ := rfl

/-- A codeword that a peer's request may have: of its region, and clean here. -/
def Dev.healable (d : Dev) (w n base : Nat) : Bool :=
  match d.shared.getD n none with
  | some g => g.base == base && meets (64 * w) 64 g.base g.len && !d.mem.poison.contains w
  | none => false

section
variable {d : Dev} {p : Nat} {f : Flit} {rest : List (Nat × Flit)} (hinbox : d.lnk.inbox = (p, f) :: rest)
include hinbox

theorem healServe_answers {w n base : Nat} (hbody : f.body = .healReq w n base) (hwipe : d.wipeHolds (64 * w) 64 = false) :
    healServe d = (d.dequeue f rest).sendControl f.src 0 (.healAns w (if d.healable w n base then some (memBytes d.mem.bytes (64 * w) 64) else none)) := by
  rw [healServe, takeInbox_head hinbox]
  · simp only [hbody, hwipe, Bool.false_eq_true, if_false, dequeue_shared, dequeue_mem]
    rfl
  · simp [hbody]

theorem healData_heals {x : Heal} {hs : List Heal} {bs : List Byte} (hbody : f.body = .healAns x.word (some bs)) (hheals : d.health.heals = x :: hs)
    (hasked : x.asked ≠ none) (hpoison : d.mem.poison.contains x.word = true) (hwipe : d.wipeHolds (64 * x.word) 64 = false) :
    ∃ r : Rec, (r.cls, r.code, r.unit) = (1, 0x170B, sramUnit (64 * x.word)) ∧
      healData d = (((d.dequeue f rest).healed x.word hs bs).setHltEvent 6).writeRecord r := by
  have hnot : ¬ (x.asked.isNone || x.word != x.word) = true := by
    cases h : x.asked with
    | none => exact absurd h hasked
    | some b => simp
  have hheals' : (d.dequeue f rest).health.heals = x :: hs := by rw [dequeue_health, hheals]
  have hpoison' : ((d.dequeue f rest).modHeal (fun _ => hs)).mem.poison.contains x.word = true := by
    rw [← hpoison, ← dequeue_mem d f rest]
    rfl
  refine ⟨((d.dequeue f rest).mkRec 1 2 0x170B (sramUnit (64 * x.word))).withAddr (64 * x.word), rfl, ?_⟩
  rw [healData, takeInbox_head hinbox]
  · simp only [hbody, hheals', if_neg hnot, hwipe, Bool.false_eq_true, if_false, if_pos hpoison']
    rfl
  · simp [hbody]

end

/-! ### Lost units (R384) -/

theorem cqs_length_of_sizes {d e : Dev} (h : e.sizes = d.sizes) : e.cqs.length = d.cqs.length := by
  simp only [Dev.sizes, List.cons.injEq] at h
  obtain ⟨-, -, -, hcqs, -⟩ := h
  exact hcqs

section
variable {d : Dev}

theorem stackLost_few {k : Fin 16} (h : ((d.stk k.val).poisonBeats.filter (fun b => d.since b < 1000)).length ≤ 16) : stackLost (.stack k) d = d := by
  simp only [stackLost, h, decide_true, Bool.or_true, if_true]

theorem stackLost_stack {k : Fin 16} (hlost : (d.stk k.val).lost = false)
    (h : 16 < ((d.stk k.val).poisonBeats.filter (fun b => d.since b < 1000)).length) :
    stackLost (.stack k) d = (d.loseStack k.val).haltFor ((d.plans.filter Plan.live).filter (fun p => d.usesStack p k.val)) (unitId 2 (2 * k.val)) := by
  simp only [stackLost, hlost, Bool.false_or, decide_eq_true_eq, if_neg (Nat.not_le.mpr h)]

/-- The machine once a compute die is lost, before its plans are halted. -/
def Dev.loseDie (d : Dev) (k : Nat) : Dev :=
  ((((if (d.stk k).lost then d else d.loseStack k).loseSites k).fenceUnit (unitId 3 k) 2 0x1701).powerDown (80 + k) causeFence)

theorem stackLost_die {k : Fin 16} (hfenced : d.isFenced (unitId 3 k.val) = false) (hcrater : d.crater? (unitId 3 k.val) = none) :
    ∃ hit, stackLost (.die k) d = (d.loseDie k.val).haltFor hit (unitId 3 k.val) := by
  simp only [stackLost, hfenced, hcrater, Bool.false_or, Option.isSome_none, Bool.false_eq_true, if_false]
  exact ⟨_, rfl⟩

theorem stackLost_site {k : Fin 80} (h : (d.health.recoveries.find? (fun r => r.site == k.val && r.cause != .inPlace)).isSome = true) :
    stackLost (.site k) d = (d.loseSite k.val).haltFor ((d.plans.filter Plan.live).filter (fun p => d.usesSite p (fun m => m == k.val))) (siteUnit k.val) := by
  obtain ⟨r, hr⟩ := Option.isSome_iff_exists.mp h
  simp only [stackLost, hr]

theorem loseDie_start (k : Nat) : (if (d.stk k).lost then d else d.loseStack k).health.siteStates = d.health.siteStates ∧
    (if (d.stk k).lost then d else d.loseStack k).health.recoveries = d.health.recoveries ∧
    (if (d.stk k).lost then d else d.loseStack k).mem = d.mem := by
  split
  · exact ⟨rfl, rfl, rfl⟩
  · exact ⟨loseStack_states d k, loseStack_recoveries d k, loseStack_mem d k⟩

theorem loseDie_sites {k i : Nat} (hk : k < 16) (hi : i < 5) (hlen : d.health.siteStates.length = 80) : (d.loseDie k).siteState (5 * k + i) = .lost := by
  obtain ⟨hstates, -, -⟩ := loseDie_start (d := d) k
  have hdown := congrArg Health.siteStates ((powerDown_only (((if (d.stk k).lost then d else d.loseStack k).loseSites k).fenceUnit (unitId 3 k) 2 0x1701)
    (80 + k) causeFence).same .health rfl)
  rw [siteState_of_states (e := d.loseDie k) (hdown.trans (fenceUnit_states ..))]
  exact loseSites_lost (by rw [hstates]; omega) hi

theorem loseDie_stack {k : Nat} (h : k < d.stks.length) : ((d.loseDie k).stk k).lost = true := by
  have hsites : ∀ e : Dev, (e.loseSites k).stks = e.stks := view_foldl (·.stks) (fun e i => (loseSite_only e (5 * k + i)).same .stks rfl) _
  have hfence : ∀ (e : Dev) u a b, (e.fenceUnit u a b).stks = e.stks := fun e u a b => (fenceUnit_only e u a b).same .stks rfl
  have hdown : ∀ (e : Dev) j c, (e.powerDown j c).stks = e.stks := fun e j c => (powerDown_only e j c).same .stks rfl
  rw [Dev.stk, Dev.loseDie, hdown, hfence, hsites]
  split
  next hlost => exact hlost
  next => exact loseStack_lost h

theorem loseDie_logs (h : d.logs) (k : Nat) : (d.loseDie k).logs := by
  refine powerDown_logs (fenceUnit_logs (loseSites_logs ?_ k) ..) ..
  split
  · exact h
  · exact loseStack_logs h k

theorem loseDie_mem (h : d.health.recoveries = []) (k : Nat) : (d.loseDie k).mem = d.mem := by
  obtain ⟨-, hrec, hmem⟩ := loseDie_start (d := d) k
  have hfence : ∀ (e : Dev) u a b, (e.fenceUnit u a b).mem = e.mem := fun e u a b => (fenceUnit_only e u a b).same .mem rfl
  rw [Dev.loseDie, powerDown_mem, hfence, loseSites_mem (hrec.trans h), hmem]

end

/-- Settles O50: heals are messages to the peer and back, and a lost unit is fenced before its plans are halted. -/
theorem healsAndLosses : Obligations.HealsAndLosses := by
  unfold Obligations.HealsAndLosses
  refine ⟨?request, ?serve, ?refuse, ?data, ?late, ?waits, ?stack, ?few, ?die, ?site⟩
  case request =>
    intro s x rest n g hheals hasked hrun hword hregion hpeer hreach
    refine completes_of_run rfl ?_
    rw [healRequest_asks hheals hasked hrun hword hregion hpeer]
    refine ⟨sendControl_controlOut (d := s.dev.modHeal _) hreach _ _, ?_, (sendControl_only ..).same .mem rfl⟩
    exact congrArg Health.heals ((sendControl_only (s.dev.modHeal _) s.dev.health.sharedPeer 0 _).same .health rfl)
  case serve =>
    intro s p w n base f rest g hinbox hbody hregion hbase hmeets hpoison hwipe hreach
    refine completes_of_run rfl ?_
    subst hbase
    have hok : s.dev.healable w n g.base = true := by
      simp only [Dev.healable, hregion, BEq.rfl, hmeets, hpoison, Bool.not_false, Bool.and_self]
    rw [healServe_answers hinbox hbody hwipe, hok, if_pos rfl]
    refine ⟨sendControl_controlOut (by rwa [dequeue_reaches]) _ _, ?_, ?_⟩
    · rw [sendControl_inbox, dequeue_inbox]
    · exact Eq.trans ((sendControl_only ..).same .mem rfl) (dequeue_mem ..)
  case refuse =>
    intro s p w n base f rest hinbox hbody hbad hwipe hreach
    refine completes_of_run rfl ?_
    have hnot : s.dev.healable w n base = false := by
      unfold Dev.healable
      obtain hp | hnone := hbad
      · split
        · simp only [hp, Bool.not_true, Bool.and_false]
        · rfl
      · rw [hnone]
    rw [healServe_answers hinbox hbody hwipe, hnot, if_neg Bool.false_ne_true]
    refine ⟨sendControl_controlOut (by rwa [dequeue_reaches]) _ _, ?_, ?_⟩
    · rw [sendControl_inbox, dequeue_inbox]
    · exact Eq.trans ((sendControl_only ..).same .mem rfl) (dequeue_mem ..)
  case data =>
    intro s p f fs x rest bs hinbox hbody hheals hasked hlen hpoison hwipe hwf hlogs
    refine completes_of_run rfl ?_
    obtain ⟨r, hr, heq⟩ := healData_heals hinbox hbody hheals hasked hpoison hwipe
    have hlogs' : (((s.dev.dequeue f fs).healed x.word rest bs).setHltEvent 6).logs := by
      refine logs_of_health (dequeue_fwp s.dev f fs) ?_ ?_ hlogs
      · exact (congrArg Health.logState (dequeue_health s.dev f fs) :)
      · exact (congrArg Health.bankAOk (dequeue_health s.dev f fs) :)
    rw [heq, writeRecord_mem]
    refine ⟨?_, ?_, writeRecord_heals .., writeRecord_logged_as hlogs' hr⟩
    · have hbytes := memBytes_memPutAll hwf (64 * x.word) bs
      rw [hlen] at hbytes
      rwa [Dev.setHltEvent, healed_mem, dequeue_mem]
    · rw [Dev.setHltEvent, healed_mem, dequeue_mem]
  case late =>
    intro s x rest b n hheals hasked hsince hword hlogs
    refine completes_of_run rfl ?_
    obtain ⟨hit, hmem, heq⟩ := healUnavailable_eq (d := s.dev.modHeal (fun _ => rest)) hword
    have hleft : (s.dev.modHeal (fun _ => rest)).logs := hlogs
    have hlogs' := setHltEvent_logs (haltPlans_logs hleft hit) 7
    rw [healTimeout_ends hheals hasked hsince, heq]
    refine ⟨?_, writeRecord_logged_as hlogs' rfl, ?_, fun p hp hlive hread c hc hlen => ?_⟩
    · rw [writeRecord_heals, Dev.setHltEvent, haltPlans_health]
      rfl
    · rw [writeRecord_mem]
      exact Eq.trans ((haltPlans_only ..).same .mem rfl) rfl
    · rw [cq_of_cqs (writeRecord_cqs ..)]
      exact haltPlans_haltedAt ((hmem p).mpr ⟨hp, hlive, hread⟩) hc hlen
  case waits =>
    intro s x rest b hheals hasked hsince
    exact completes_of_run rfl (healTimeout_waits hheals hasked hsince)
  case stack =>
    intro s k hlost hmany hlen hlogs
    refine completes_of_run rfl ?_
    have hstk : ∀ (e : Dev) hit u j, (e.haltFor hit u).stk j = e.stk j := fun e hit u j => congrArg (·.getD j {}) ((haltFor_only e hit u).same .stks rfl)
    have hdom : ∀ (e : Dev) hit u j, (e.haltFor hit u).dom j = e.dom j := fun e hit u j =>
      congrArg (fun p : Pwr => p.doms.getD j .off) ((haltFor_only e hit u).same .pwr rfl)
    obtain ⟨hlow, hhigh⟩ := loseStack_down s.dev k.val
    have hcqs : (s.dev.loseStack k.val).cqs = s.dev.cqs := (loseStack_only ..).same .cqs rfl
    rw [stackLost_stack hlost hmany]
    refine ⟨?_, ?_, ?_, haltFor_logged (loseStack_logs hlogs k.val) .., fun p hp hlive huse c hc hlen => ?_⟩
    · rw [hstk]
      exact loseStack_lost hlen
    · rwa [hdom]
    · rwa [hdom]
    · exact haltFor_halted (by simp [hp, hlive, huse]) hc (by rwa [hcqs]) _
  case few =>
    intro s k hfew
    exact completes_of_run rfl (stackLost_few hfew)
  case die =>
    intro s k hfenced hcrater hsites hlen hlogs
    refine completes_of_run rfl ?_
    obtain ⟨hit, heq⟩ := stackLost_die hfenced hcrater
    have hdom := congrArg (fun p : Pwr => p.doms.getD (80 + k.val) .off) ((haltFor_only (s.dev.loseDie k.val) hit (unitId 3 k.val)).same .pwr rfl)
    have hstk := congrArg (·.getD k.val ({} : Stk)) ((haltFor_only (s.dev.loseDie k.val) hit (unitId 3 k.val)).same .stks rfl)
    rw [heq]
    refine ⟨fun i => ?_, ?_, haltFor_logged (loseDie_logs hlogs k.val) .., ?_, fun hnone => ?_⟩
    · rw [haltFor_siteState]
      exact loseDie_sites k.isLt i.isLt hsites
    · exact (congrArg Stk.lost hstk).trans (loseDie_stack hlen)
    · exact fun h => powerDown_not_on _ _ _ (hdom.symm.trans h)
    · rw [haltFor_mem, loseDie_mem hnone]
  case site =>
    intro s k hrec hlen hlogs
    refine completes_of_run rfl ?_
    have hcqs : (s.dev.loseSite k.val).cqs.length = s.dev.cqs.length := cqs_length_of_sizes (loseSite_sizes ..)
    rw [stackLost_site hrec]
    refine ⟨?_, ?_, haltFor_logged (loseSite_logs k.val hlogs) .., fun p hp hlive huse c hc hlen => ?_⟩
    · rw [haltFor_siteState]
      exact loseSite_lost hlen
    · rw [haltFor_recoveries]
      exact loseSite_recoveries ..
    · exact haltFor_halted (by simp [hp, hlive, huse]) hc (by rwa [hcqs]) _

end Sys2Proof.Machine
end

section
/-! PROOF. Monitors, spares and tests of sites (R370, R373 to R381): O49. -/

namespace Sys2Proof.Machine

/-! ### Faults of sites (R369, R373) -/

/-- The recovery that a fault of a site begins is the newest one. -/
theorem siteFault_recovery {d : Dev} {site : Nat} (hsound : d.sound site) (cause : RecCause) (source err : Nat) (tag : BitVec 32) :
    ((d.siteFault site cause source err tag).health.recoveries.getLast?).map (fun y => (y.site, y.err)) = some (site, BitVec.ofNat 16 err) := by
  have hspare : d.health.recoveries.find? (fun r => r.spare == some site && r.site != site) = none :=
    List.find?_eq_none.2 fun r hr => by simp [(hsound r hr).2]
  have hrec : d.health.recoveries.any (fun r => r.site == site) = false :=
    List.any_eq_false.2 fun r hr => by simp [(hsound r hr).1]
  simp only [Dev.siteFault, hspare, hrec, Bool.false_eq_true, if_false, List.getLast?_concat, Option.map_some]

/-- A fault of a site keeps the events that have been noted. -/
theorem siteFault_event {d : Dev} {i : Nat} (h : d.health.events.val.getLsbD i = true) (site : Nat) (cause : RecCause) (source err : Nat)
    (tag : BitVec 32) : (d.siteFault site cause source err tag).health.events.val.getLsbD i = true := by
  have hcount : ∀ core, (d.countFault core).2.health.events.val.getLsbD i = true := fun core => by
    unfold Dev.countFault
    split
    · exact h
    · split
      · exact h
      · split
        · simp [Dev.setHltEvent, Sticky.raise, h]
        · exact h
  unfold Dev.siteFault
  split
  · exact hcount _
  · split
    · exact h
    · exact hcount _

theorem ctx?_run {d : Dev} {c : Nat} {x : Ctx} (h : d.ctx? c = some x) : (d.cq c).run = some x.rc := by
  unfold Dev.ctx? at h
  split at h
  · cases h
  next rc hrun =>
    split at h
    · cases h
    · dsimp only at h
      split at h
      · cases h
        exact hrun
      · cases h

/-! ### The watchdog (R373) -/

/-- The chunk of a core with its overrun noted. -/
def Dev.overrunNoted (d : Dev) (c : Nat) : Dev := d.modCq c (fun q => { q with run := q.run.map (fun r => { r with wdogNoted := true }) })

section
variable {d : Dev} {c : Fin 72} {x : Ctx} (hctx : d.ctx? c.val = some x)
include hctx

theorem progressStop_faults {u : Fin 9} {f : Flight}
    (hf : (d.cq c.val).flights.find? (fun f => !f.ended && 32 ≤ f.idle && unitOf (cmdOp f.bytes) == u.val) = some f) :
    progressStop c u d = d.siteFault x.site .check 9 u.val (cmdTag f.bytes) := by
  simp only [progressStop, hctx, hf]

theorem progressStop_none {u : Fin 9}
    (hf : (d.cq c.val).flights.find? (fun f => !f.ended && 32 ≤ f.idle && unitOf (cmdOp f.bytes) == u.val) = none) : progressStop c u d = d := by
  simp only [progressStop, hctx, hf]

/-- The record of a chunk that has reached WC_BEATS, once. -/
theorem watchdogOverrun_notes (hnoted : x.rc.wdogNoted = false) (hwc : x.chunk.wc ≤ x.rc.wdog) : ∃ r : Rec,
    (r.cls, r.code, r.unit) = (0, 0x1704, siteUnit x.site) ∧ watchdogOverrun c d = (d.overrunNoted c.val).writeRecord r := by
  have hnot : ¬ (x.rc.wdogNoted || decide (x.rc.wdog < x.chunk.wc)) = true := by simp [hnoted, hwc]
  refine ⟨((d.overrunNoted c.val).mkRec 0 9 0x1704 (siteUnit x.site)).withTag ((d.overrunNoted c.val).cq c.val).nextTag (some x.p.func), rfl, ?_⟩
  simp only [watchdogOverrun, hctx, if_neg hnot]
  rfl

theorem watchdogOverrun_idle (h : x.rc.wdog < x.chunk.wc ∨ x.rc.wdogNoted = true) : watchdogOverrun c d = d := by
  simp only [watchdogOverrun, hctx]
  rw [if_pos]
  simpa [or_comm] using h

/-- The watchdog counts an expiry of the chunk and notes its event. -/
def Dev.watchdogHit (d : Dev) (c : Nat) : Dev :=
  (d.setHltEvent 5).modCq c (fun q => { q with run := q.run.map (fun r => { r with wdogHits := r.wdogHits + 1 }) })

section
variable (hwc : x.chunk.wc + d.health.wdogGrace.toNat ≤ x.rc.wdog) (hhalted : (d.cq c.val).regs.halted = false) (hprog : x.rc.progFault = false)
include hwc hhalted hprog

theorem commandWatchdogExpiry_first (hhits : x.rc.wdogHits = 0) :
    commandWatchdogExpiry c d = (d.watchdogHit c.val).siteFault x.site .watchdog 9 0 (d.cq c.val).nextTag := by
  have hnot : ¬ (decide (x.rc.wdog < x.chunk.wc + d.health.wdogGrace.toNat) || (d.cq c.val).regs.halted || x.rc.progFault) = true := by
    simp [hhalted, hprog, hwc]
  simp only [commandWatchdogExpiry, hctx, if_neg hnot, if_pos hhits]
  rfl

theorem commandWatchdogExpiry_second (hhits : x.rc.wdogHits ≠ 0) : ∃ r : Rec, (r.cls, r.code, r.unit) = (4, 0x1705, siteUnit x.site) ∧
    commandWatchdogExpiry c d = ((d.watchdogHit c.val).haltQueue c.val).writeRecord r := by
  have hnot : ¬ (decide (x.rc.wdog < x.chunk.wc + d.health.wdogGrace.toNat) || (d.cq c.val).regs.halted || x.rc.progFault) = true := by
    simp [hhalted, hprog, hwc]
  refine ⟨((d.watchdogHit c.val).mkRec 4 9 0x1705 (siteUnit x.site)).withTag (d.cq c.val).nextTag (some x.p.func), rfl, ?_⟩
  simp only [commandWatchdogExpiry, hctx, if_neg hnot, if_neg hhits]
  rfl

end

end

/-! ### Spares (R436, R439) -/

theorem spareWarm_unarmed {d : Dev} (h : d.anyArmed = false) (site : Fin 80) (ok : Bool) : spareWarm site ok d = d := by
  simp [spareWarm, h]

/-- The lowest held site of a die without a warm one is the one to warm. -/
theorem spareWarm_serves {d : Dev} {site : Fin 80} (harmed : d.anyArmed = true) (hrun : d.runs 2 = true) (hfw : d.firmwareUp = true)
    (hwarm : ∀ k : Fin 5, d.siteState (5 * (site.val / 5) + k.val) ≠ .warm)
    (hlow : ∀ k : Fin 5, d.siteState (5 * (site.val / 5) + k.val) ≠ .held ∨ site.val ≤ 5 * (site.val / 5) + k.val)
    (hheld : d.siteState site.val = .held) (hup : d.domUp site.val = true) (ok : Bool) : spareWarm site ok d =
      if ok then (d.siteReset site.val).setSiteState site.val .warm else (d.fenceSite site.val 10 none 0xFFFFFFFF none).powerDown site.val causeFence := by
  have hnone : ((List.range 5).map (fun p => 5 * (site.val / 5) + p)).any (fun s => d.siteState s == .warm) = false := by
    rw [List.any_map]
    exact List.any_eq_false.mpr fun k hk => by simpa using hwarm ⟨k, List.mem_range.mp hk⟩
  have hsite : 5 * (site.val / 5) + site.val % 5 = site.val := by omega
  have hfirst : ((List.range 5).map (fun p => 5 * (site.val / 5) + p)).find? (fun s => d.siteState s == .held) = some site.val := by
    have hfind : (List.range 5).find? ((fun s => d.siteState s == .held) ∘ fun p => 5 * (site.val / 5) + p) = some (site.val % 5) := by
      refine List.find?_range_eq_some.mpr ⟨?_, List.mem_range.mpr (Nat.mod_lt _ (by omega)), fun j hj => ?_⟩
      · simp [hsite, hheld]
      · have := hlow ⟨j, by omega⟩
        simpa using this.resolve_right (by simp only; omega)
    rw [List.find?_map, hfind, Option.map_some, hsite]
  simp only [spareWarm, harmed, hrun, hfw, hnone, hfirst, hup, Bool.not_true, Bool.or_false, bne_self_eq_false, Bool.false_eq_true, if_false]

theorem siteReset_bytes (d : Dev) (n : Nat) : (d.siteReset n).mem.bytes = memZero d.mem.bytes (scratchBase n) 0x1000000 := by
  simp [Dev.siteReset, Dev.wipeRange]

theorem siteReset_health (d : Dev) (n : Nat) : (d.siteReset n).health = d.health := (siteReset_only ..).same .health rfl

theorem siteReset_byteAt {d : Dev} (h : d.mem.wf = true) {n a : Nat} (hlo : scratchBase n ≤ a) (hhi : a < scratchBase n + scratchSize) :
    (d.siteReset n).byteAt a = 0 := by
  have hin : scratchBase n ≤ a ∧ a < scratchBase n + 0x1000000 := ⟨hlo, by simp only [scratchSize] at hhi; omega⟩
  rw [Dev.siteReset, byteAt_wipeRange (by exact h), if_pos hin]

/-- A fenced site that is powered down is fenced or permanent. -/
theorem fencedDown_state {d : Dev} {n : Nat} (hlen : n < d.health.siteStates.length) (source : Nat) (tag : BitVec 32) :
    (d.fenceSite n source none tag none).siteState n = .fenced ∨ (d.fenceSite n source none tag none).siteState n = .permanent := by
  obtain ⟨x, hx, hstates⟩ := fenceSite_states d n source none tag none
  rw [Dev.siteState, hstates, List.getD_eq_getElem _ _ (by simpa using hlen), List.getElem_set_self]
  exact hx.symm

/-! ### Tests (R376 to R380) -/

/-- The machine once a test begins on a site, before its domain is powered. -/
def Dev.underTest (d : Dev) (n id : Nat) : Dev :=
  ((d.siteReset n).setSiteState n .underTest).modHealth (fun h => { h with
    tests := h.tests ++ [{ site := n, id := id, start := if d.domUp n then some d.bt.beat else none, prior := some (d.siteState n) }] })

theorem beginTest_powers (d : Dev) (n id : Nat) : Only [.pwr] (d.underTest n id) (d.beginTest n id) := by
  have hbt : (d.siteReset n).bt = d.bt := (siteReset_only ..).same .bt rfl
  have heq : d.beginTest n id = if d.domUp n then (d.underTest n id).setDom n .on else (d.underTest n id).powerUp n causeTest := by
    simp only [Dev.beginTest, Dev.underTest, Dev.modHealth, Dev.setSiteState, hbt]
  rw [heq]
  split
  · exact setDom_only ..
  · exact powerUp_only ..

theorem beginTest_begins {d : Dev} {n : Nat} (hlen : n < d.health.siteStates.length) (id : Nat) : (d.beginTest n id).siteState n = .underTest ∧
    ((d.beginTest n id).health.tests.getLast?).map (fun t => (t.site, t.id, t.prior)) = some (n, id, some (d.siteState n)) ∧
    (d.beginTest n id).mem.bytes = memZero d.mem.bytes (scratchBase n) 0x1000000 := by
  have hhealth : (d.beginTest n id).health = (d.underTest n id).health := (beginTest_powers d n id).same .health rfl
  have hmem : (d.beginTest n id).mem = (d.siteReset n).mem := (beginTest_powers d n id).same .mem rfl
  refine ⟨?_, ?_, ?_⟩
  · rw [siteState_of_states (congrArg Health.siteStates hhealth)]
    exact siteState_setSiteState_same (d.siteReset n) .underTest (by rwa [siteReset_health])
  · rw [hhealth, Dev.underTest, Dev.modHealth, List.getLast?_concat]
    rfl
  · rw [hmem, siteReset_bytes]

/-- The machine when a test has run its length: both sets empty and every row zero (R376). -/
def Dev.testCleared (d : Dev) (n : Nat) : Dev :=
  (d.modHealth (fun h => { h with tests := h.tests.filter (fun (x : TestRun) => x.site != n) })).modSite n
    (fun s => { s with lbk := { s.lbk with set0 := {}, set1 := {} }, acc := { s.acc with rows := [] } })

theorem testCleared_site {d : Dev} {n : Nat} (h : n < d.sites.length) : ((d.testCleared n).site n).acc.rows = [] ∧
    ((d.testCleared n).site n).lbk.set0 = {} ∧ ((d.testCleared n).site n).lbk.set1 = {} ∧
    ((d.testCleared n).site n).lbk.spareMap = (d.site n).lbk.spareMap := by
  have hsite := site_modSite_same (d.modHealth (fun h => { h with tests := h.tests.filter (fun (x : TestRun) => x.site != n) }))
    (fun s => { s with lbk := { s.lbk with set0 := {}, set1 := {} }, acc := { s.acc with rows := [] } }) h
  rw [Dev.testCleared, hsite]
  exact ⟨rfl, rfl, rfl, rfl⟩

/-- A failed lane mapped to its spare (R379). -/
def Dev.laneMapped (d : Dev) (n : Nat) (m : List (BitVec 16)) : Dev :=
  (d.modSite n (fun s => { s with lbk := { s.lbk with spareMap := m } })).modHealth (fun h => { h with craterDirty := true })

theorem testCleared_sites (d : Dev) (n : Nat) : (d.testCleared n).sites.length = d.sites.length := by
  rw [Dev.testCleared, Dev.modSite, List.length_modify]
  rfl

theorem laneMapped_logs {d : Dev} (h : d.logs) (n : Nat) (m : List (BitVec 16)) : (d.laneMapped n m).logs := h

theorem laneMapped_spareMap {d : Dev} {n : Nat} (h : n < d.sites.length) (m : List (BitVec 16)) : ((d.laneMapped n m).site n).lbk.spareMap = m :=
  congrArg (·.lbk.spareMap) (site_modSite_same d (fun s => { s with lbk := { s.lbk with spareMap := m } }) h)

section
variable {d : Dev} {site : Fin 80} {t : TestRun} {b : BitVec 52} (ht : d.health.tests.find? (fun t => t.site == site.val) = some t)
  (hstart : t.start = some b) (hlen : testLen t.id ≤ d.since b)
include ht hstart hlen

theorem testDone_passes (hprior : t.prior = some .held) : testDone site .pass d =
    (((d.testCleared site.val).testPassed t false).answerTest site.val false 0).restSite site.val := by
  simp only [testDone, ht, hstart, if_neg (Nat.not_lt.mpr hlen), hprior, Option.isSome_some, if_true]
  rfl

theorem testDone_maps {lane : Fin 513} {k : Nat} (hsite : site.val < d.sites.length) (hprior : t.prior = some .held)
    (hk : (d.site site.val).lbk.spareMap.findIdx? (fun e => !e.getLsbD 15) = some k) : testDone site (.lanes [lane]) d =
    (((((d.testCleared site.val).laneMapped site.val ((d.site site.val).lbk.spareMap.set k (BitVec.ofNat 16 (0x8000 + lane.val)))).testPassed t true).answerTest
      site.val false 1).restSite site.val) := by
  have hmap : ((d.testCleared site.val).site site.val).lbk.spareMap = (d.site site.val).lbk.spareMap := by
    obtain ⟨-, -, -, hspare⟩ := testCleared_site hsite
    exact hspare
  have hremap : remapLanes ((d.testCleared site.val).site site.val).lbk.spareMap [lane] =
      some ((d.site site.val).lbk.spareMap.set k (BitVec.ofNat 16 (0x8000 + lane.val))) := by
    simp only [hmap, remapLanes, hk]
  unfold Dev.testCleared at hremap
  simp only [testDone, ht, hstart, if_neg (Nat.not_lt.mpr hlen), hprior, hremap]
  rfl

theorem testDone_fails : testDone site .fail d = (if t.prior.isSome then
    (((d.testCleared site.val).testFailed t).answerTest site.val true 0).restSite site.val
    else ((d.testCleared site.val).testFailed t).answerTest site.val true 0) := by
  simp only [testDone, ht, hstart, if_neg (Nat.not_lt.mpr hlen)]
  rfl

end

/-- The pass of a test noted before its record: HLT_OVERDUE and the interval of test 1 begin anew (R380). -/
def Dev.passNoted (d : Dev) (t : TestRun) : Dev :=
  d.modHealth (fun h => { h with
    lastPass := if t.id = 1 then h.lastPass.set t.site (some d.bt.beat) else h.lastPass
    overdue := if t.id = 1 then h.overdue.set t.site false else h.overdue
    overdueNoted := if t.id = 1 then h.overdueNoted.set t.site none else h.overdueNoted })

theorem ofTest_kind (d : Dev) (n : Nat) (r : Rec) : ((d.ofTest n r).cls, (d.ofTest n r).code, (d.ofTest n r).unit) = (r.cls, r.code, r.unit) := by
  unfold Dev.ofTest
  split <;> rfl

/-- A held site that passes a test is held again, with the record of the pass. -/
theorem testPassed_held {t : TestRun} (hprior : t.prior = some .held) (d : Dev) (remapped : Bool) : ∃ r : Rec,
    (r.cls, r.code, r.unit) = (if remapped then 1 else 0, if remapped then 0x1707 else 0x1706, siteUnit t.site) ∧
    d.testPassed t remapped = ((d.passNoted t).writeRecord r).setSiteState t.site .held := by
  refine ⟨(d.passNoted t).ofTest t.site ((d.passNoted t).mkRec (if remapped then 1 else 0) 10 (if remapped then 0x1707 else 0x1706) (siteUnit t.site)), ?_, ?_⟩
  · rw [ofTest_kind]
    cases remapped <;> rfl
  · unfold Dev.testPassed
    simp only [hprior]
    rfl

/-- The answer to a TEST_RUN and the rest of the site change no health state, no site and no memory. -/
theorem rested_only (d : Dev) (n : Nat) (failed : Bool) (k : Nat) : Only [.reqs, .dones, .stm, .trc, .pwr] d ((d.answerTest n failed k).restSite n) :=
  Only.step (restSite_only ..) (by decide) (Only.step (answerTest_only ..) (by decide) (Only.refl _ d))

section
variable {d : Dev} {t : TestRun} (hprior : t.prior = some .held) (hlen : t.site < d.health.siteStates.length)
include hprior hlen

/-- How a test that a held site passes ends. -/
theorem held_passes (hlogs : d.logs) (remapped : Bool) (k : Nat) : let e := ((d.testPassed t remapped).answerTest t.site false k).restSite t.site
    e.siteState t.site = .held ∧
    e.logged (if remapped then 1 else 0) (if remapped then 0x1707 else 0x1706) (siteUnit t.site) ∧
    e.sites = d.sites ∧ e.mem = d.mem ∧ e.health.tests = d.health.tests := by
  obtain ⟨r, hr, heq⟩ := testPassed_held hprior d remapped
  have hnoted : (d.passNoted t).logs := hlogs
  have hlogged := writeRecord_logged_as hnoted hr
  have hstates : ((d.passNoted t).writeRecord r).health.siteStates = d.health.siteStates := writeRecord_siteStates ..
  have hsites : ((d.passNoted t).writeRecord r).sites = d.sites := writeRecord_sites ..
  have hmem : ((d.passNoted t).writeRecord r).mem = d.mem := writeRecord_mem ..
  have htests : ((d.passNoted t).writeRecord r).health.tests = d.health.tests := (congrArg Health.tests (writeRecord_unlogged (d.passNoted t) r) :)
  rw [heq]
  generalize (d.passNoted t).writeRecord r = f at *
  have hrest := rested_only (f.setSiteState t.site .held) t.site false k
  have hhealth := hrest.same .health rfl
  refine ⟨?_, ?_, Eq.trans (hrest.same .sites rfl) hsites, Eq.trans (hrest.same .mem rfl) hmem, Eq.trans (congrArg Health.tests hhealth) htests⟩
  · rw [siteState_of_states (congrArg Health.siteStates hhealth)]
    exact siteState_setSiteState_same f .held (by rwa [hstates])
  · exact (congrArg (fun h : Health => h.bankA.getLast?.map (fun r => (r.cls, r.code, r.unit))) hhealth).trans hlogged

/-- A held site that fails a test is fenced. -/
theorem held_fails : let e := ((d.testFailed t).answerTest t.site true 0).restSite t.site
    (e.siteState t.site = .fenced ∨ e.siteState t.site = .permanent) ∧ e.health.events.val.getLsbD 3 = true ∧ e.mem = d.mem := by
  have hfails : ∃ tag, d.testFailed t = (d.fenceSite t.site 10 none tag none).setHltEvent 3 := by
    simp only [Dev.testFailed, hprior]
    exact ⟨_, rfl⟩
  obtain ⟨tag, heq⟩ := hfails
  have hstate := fencedDown_state hlen 10 tag
  have hmem := fenceSite_mem d t.site 10 none tag none
  rw [heq]
  generalize d.fenceSite t.site 10 none tag none = f at *
  have hrest := rested_only (f.setHltEvent 3) t.site true 0
  have hhealth := hrest.same .health rfl
  refine ⟨?_, ?_, Eq.trans (hrest.same .mem rfl) hmem⟩
  · rwa [siteState_of_states (congrArg Health.siteStates hhealth)]
  · exact (congrArg (fun h : Health => h.events.val.getLsbD 3) hhealth).trans (getLsbD_raise f.health.events 3 (by omega))

end

/-- A site in service that fails a test is recovered from. -/
theorem served_fails {d : Dev} {t : TestRun} (hprior : t.prior = none) (hserve : d.siteState t.site = .inService) :
    let e := (d.testFailed t).answerTest t.site true 0
    e.siteState t.site = .recovering ∧ (e.health.recoveries.getLast?).map (fun x => (x.site, x.cause)) = some (t.site, .test) ∧ e.mem = d.mem := by
  have hnot : ¬ (d.siteState t.site != .inService) = true := by simp [hserve]
  have hanswer := answerTest_only (d.testFailed t) t.site true 0
  have hhealth := hanswer.same .health rfl
  have hrecoveries : ((d.testFailed t).health.recoveries.getLast?).map (fun x => (x.site, x.cause)) = some (t.site, .test) := by
    simp only [Dev.testFailed, hprior, if_neg hnot, Dev.modHealth, List.getLast?_concat, Option.map_some]
  have hstate : (d.testFailed t).siteState t.site = .recovering := by
    simp only [Dev.testFailed, hprior, if_neg hnot]
    exact siteState_setSiteState_same d .recovering (siteStates_of_inService hserve)
  refine ⟨?_, ?_, Eq.trans (hanswer.same .mem rfl) (testFailed_mem ..)⟩
  · rw [siteState_of_states (congrArg Health.siteStates hhealth), hstate]
  · rw [hhealth, hrecoveries]

/-- Settles O49: the monitors begin recoveries, spares are warmed by a reset, and a test begins and ends by its result. -/
theorem monitorsAndTestsOfSites : Obligations.MonitorsAndTestsOfSites := by
  unfold Obligations.MonitorsAndTestsOfSites
  refine ⟨?progress, ?noProgress, ?overrun, ?noOverrun, ?expiry, ?second, ?warm, ?warmFails, ?unarmed, ?save, ?fenced, ?due, ?overdue,
    ?pass, ?lanes, ?fail, ?serving⟩
  case progress =>
    intro s c u x f hctx hf hsound hsite
    refine completes_of_run rfl ?_
    rw [progressStop_faults hctx hf]
    exact ⟨siteFault_recovers hsound hsite .., siteFault_mem .., (siteFault_only ..).same .cqs rfl, siteFault_recovery hsound ..⟩
  case noProgress =>
    intro s c u x hctx hf
    exact completes_of_run rfl (progressStop_none hctx hf)
  case overrun =>
    intro s c x hctx hnoted hwc hlogs
    refine completes_of_run rfl ?_
    obtain ⟨r, hr, heq⟩ := watchdogOverrun_notes hctx hnoted hwc
    have hnow : (s.dev.overrunNoted c.val).logs := hlogs
    rw [heq]
    refine ⟨writeRecord_logged_as hnow hr, ?_, writeRecord_mem ..⟩
    rw [cq_of_cqs (writeRecord_cqs ..), Dev.overrunNoted, cq_modCq_same _ _ (ctx?_core hctx).2, ctx?_run hctx]
    rfl
  case noOverrun =>
    intro s c x hctx h
    exact completes_of_run rfl (watchdogOverrun_idle hctx h)
  case expiry =>
    intro s c x hctx hwc hhalted hprog hhits hsound hsite
    refine completes_of_run rfl ?_
    rw [commandWatchdogExpiry_first hctx hwc hhalted hprog hhits]
    have hsound' : (s.dev.watchdogHit c.val).sound x.site := hsound
    refine ⟨siteFault_recovers hsound' hsite .., siteFault_event ?_ .., Eq.trans (siteFault_mem ..) rfl⟩
    exact getLsbD_raise _ 5 (by omega)
  case second =>
    intro s c x hctx hwc hhalted hprog hhits hlogs
    refine completes_of_run rfl ?_
    obtain ⟨r, hr, heq⟩ := commandWatchdogExpiry_second hctx hwc hhalted hprog hhits
    have hhit : (s.dev.watchdogHit c.val).logs := hlogs
    have hlogs' : ((s.dev.watchdogHit c.val).haltQueue c.val).logs :=
      logs_of_health (haltQueue_fwp ..) (by rw [haltQueue_health]) (by rw [haltQueue_health]) hhit
    have hcqs : c.val < (s.dev.watchdogHit c.val).cqs.length := by
      rw [Dev.watchdogHit, Dev.modCq, List.length_modify]
      exact (ctx?_core hctx).2
    rw [heq]
    refine ⟨?_, writeRecord_logged_as hlogs' hr, ?_, ?_⟩
    · rw [cq_of_cqs (writeRecord_cqs ..)]
      exact haltQueue_haltedAt hcqs
    · rw [siteState_of_states (writeRecord_siteStates ..), siteState_of_states (congrArg Health.siteStates (haltQueue_health ..))]
      exact Eq.trans (b := s.dev.siteState x.site) rfl (ctx?_inService hctx)
    · rw [writeRecord_mem, haltQueue_mem]
      rfl
  case warm =>
    intro s site a harmed hrun hfw hwarm hlow hheld hup hwf hlo hhi hlen
    refine completes_of_run rfl ?_
    rw [spareWarm_serves harmed hrun hfw hwarm hlow hheld hup, if_pos rfl]
    refine ⟨siteState_setSiteState_same _ .warm ?_, siteReset_byteAt hwf hlo hhi, ?_⟩
    rotate_left
    · rw [setSiteState_health, siteReset_health]
    rw [siteReset_health]
    omega
  case warmFails =>
    intro s site harmed hrun hfw hwarm hlow hheld hup hlen
    refine completes_of_run rfl ?_
    rw [spareWarm_serves harmed hrun hfw hwarm hlow hheld hup, if_neg Bool.false_ne_true]
    refine ⟨?_, ?_⟩
    · rw [siteState_of_states (congrArg Health.siteStates ((powerDown_only ..).same .health rfl))]
      exact fencedDown_state (by omega) 10 _
    · rw [powerDown_mem, fenceSite_mem]
  case unarmed =>
    intro s site ok h
    exact completes_of_run rfl (spareWarm_unarmed h site ok)
  case save =>
    intro s hdirty hrun
    refine completes_of_run rfl ?_
    simp only [craterTableSave, hdirty, hrun, Bool.and_self, if_true, Dev.modHealth]
    exact ⟨trivial, trivial, trivial, trivial⟩
  case fenced =>
    intro s site hfenced htested hrun hrec hlen
    refine completes_of_run rfl ?_
    have hnone : s.dev.health.recoveries.any (fun r => r.site == site.val || r.fail == site.val) = false :=
      List.any_eq_false.mpr fun r hr => by simpa using List.all_eq_true.mp hrec r hr
    have hbegins := beginTest_begins (d := s.dev) (n := site.val) (by omega) 1
    rw [hfenced] at hbegins
    simpa only [fencedSiteTest, hfenced, htested, hrun, hnone, BEq.rfl, Option.isSome_none, Bool.not_false, Bool.and_self, if_true] using hbegins
  case due =>
    intro s site hdue hrun hfw hstate hlen
    refine completes_of_run rfl ?_
    have hbegins := beginTest_begins (d := s.dev) (n := site.val) (by omega) 1
    have heq : testDue site s.dev = s.dev.beginTest site.val 1 := by
      obtain h | h := hstate <;> simp [testDue, hdue, hrun, hfw, h]
    rwa [heq]
  case overdue =>
    intro s site hdue hrun hfw hstate hlen
    refine completes_of_run rfl ?_
    have heq : testDue site s.dev = s.dev.modHealth (fun h => { h with overdue := h.overdue.set site.val true }) := by
      simp [testDue, hdue, hrun, hfw, hstate]
    rw [heq]
    exact ⟨by simp [Dev.modHealth, List.getD, hlen], rfl⟩
  case pass =>
    intro s site t b ht hstart hlong hprior hlogs hlen hsites
    refine completes_of_run rfl ?_
    have hsite : t.site = site.val := by simpa using List.find?_some ht
    obtain ⟨hrows, hset0, hset1, -⟩ := testCleared_site hsites
    have hcleared : (s.dev.testCleared site.val).logs := hlogs
    obtain ⟨hstate, hlogged, hkept, hmem, htests⟩ := held_passes (d := s.dev.testCleared site.val) hprior (by rw [hsite]; exact lt_of_lt_of_eq site.isLt hlen.symm) hcleared false 0
    rw [testDone_passes ht hstart hlong hprior]
    rw [hsite] at hstate hlogged hkept hmem htests
    have hsame := congrArg (fun l : List Site => l.getD site.val {}) hkept
    refine ⟨hstate, hlogged, ?_, ?_, ?_, hmem, ?_⟩
    · exact (congrArg (·.acc.rows) hsame).trans hrows
    · exact (congrArg (·.lbk.set0) hsame).trans hset0
    · exact (congrArg (·.lbk.set1) hsame).trans hset1
    · rw [htests]
      exact List.all_eq_true.mpr fun x hx => (List.mem_filter.mp hx).2
  case lanes =>
    intro s site lane t b k ht hstart hlong hprior hlogs hk hlen hsites
    refine completes_of_run rfl ?_
    have hsite : t.site = site.val := by simpa using List.find?_some ht
    have hcleared : (s.dev.testCleared site.val).logs := hlogs
    have hmapped := laneMapped_logs hcleared site.val ((s.dev.site site.val).lbk.spareMap.set k (BitVec.ofNat 16 (0x8000 + lane.val)))
    have hspare := laneMapped_spareMap (d := s.dev.testCleared site.val) (n := site.val) (by rwa [testCleared_sites])
      ((s.dev.site site.val).lbk.spareMap.set k (BitVec.ofNat 16 (0x8000 + lane.val)))
    obtain ⟨hstate, hlogged, hkept, -, -⟩ := held_passes hprior (by rw [hsite]; exact lt_of_lt_of_eq site.isLt hlen.symm) hmapped true 1
    rw [testDone_maps ht hstart hlong hsites hprior hk]
    rw [hsite] at hstate hlogged hkept
    exact ⟨(congrArg (fun l : List Site => (l.getD site.val {}).lbk.spareMap) hkept).trans hspare, hlogged, hstate⟩
  case fail =>
    intro s site t b ht hstart hlong hprior hlen hsites
    refine completes_of_run rfl ?_
    have hsite : t.site = site.val := by simpa using List.find?_some ht
    have hfails := held_fails (d := s.dev.testCleared site.val) hprior (by rw [hsite]; exact lt_of_lt_of_eq site.isLt hlen.symm)
    rw [testDone_fails ht hstart hlong, if_pos (by rw [hprior]; rfl)]
    rwa [hsite] at hfails
  case serving =>
    intro s site t b ht hstart hlong hprior hserve hlen hsites
    refine completes_of_run rfl ?_
    have hsite : t.site = site.val := by simpa using List.find?_some ht
    have hfails := served_fails (d := s.dev.testCleared site.val) hprior (by rw [hsite]; exact hserve)
    rw [testDone_fails ht hstart hlong, if_neg (by simp [hprior])]
    rwa [hsite] at hfails

end Sys2Proof.Machine
end

section
/-! PROOF. Recovery of sites and chunks (R369 to R372, R381): O48. -/

namespace Sys2Proof.Machine

/-! ### The choice of the spare (R370) -/

theorem nearest_mem {die : Nat} {l : List Nat} {s : Nat} (h : nearest die l = some s) : s ∈ l := by
  have hgen : ∀ (l : List Nat) (acc : Option Nat), l.foldl (fun acc s => match acc with
      | none => some s
      | some t => if nearer die s t then some s else some t) acc = some s → acc = some s ∨ s ∈ l := by
    intro l
    induction l with
    | nil => exact fun acc h => .inl h
    | cons a l ih =>
      intro acc h
      obtain h | h := ih _ h
      · cases acc with
        | none => exact .inr (by simp_all)
        | some t =>
          dsimp only at h
          split at h
          · exact .inr (by simp_all)
          · exact .inl h
      · exact .inr (List.mem_cons_of_mem a h)
  exact (hgen l none h).resolve_left (by simp)

theorem chooseSpare_idle {d : Dev} {die s : Nat} {cold : Bool} (h : d.chooseSpare die = some (s, cold)) :
    s < 80 ∧ (d.siteState s = .warm ∨ d.siteState s = .held) := by
  unfold Dev.chooseSpare at h
  split at h
  next t hwarm =>
    obtain ⟨rfl, -⟩ := Prod.mk.inj (Option.some.inj h)
    have := nearest_mem hwarm
    simp only [Dev.sitesIn, List.mem_filter, List.mem_range, beq_iff_eq] at this
    exact ⟨this.1, .inl this.2⟩
  next =>
    obtain ⟨t, hheld, ht⟩ := Option.map_eq_some_iff.mp h
    obtain ⟨rfl, -⟩ := Prod.mk.inj ht
    have := nearest_mem hheld
    simp only [Dev.sitesIn, List.mem_filter, List.mem_range, beq_iff_eq] at this
    exact ⟨this.1, .inr this.2⟩

theorem chooseSpare_of_idle {d e : Dev} (h : ∀ s, (e.siteState s = .warm ↔ d.siteState s = .warm) ∧ (e.siteState s = .held ↔ d.siteState s = .held))
    (die : Nat) : e.chooseSpare die = d.chooseSpare die := by
  have hin : e.sitesIn .warm = d.sitesIn .warm ∧ e.sitesIn .held = d.sitesIn .held := by
    constructor
    · exact List.filter_congr fun s _ => by simp only [beq_eq_beq, (h s).1]
    · exact List.filter_congr fun s _ => by simp only [beq_eq_beq, (h s).2]
  rw [Dev.chooseSpare, Dev.chooseSpare, hin.1, hin.2]

/-! ### HLP's decision (R369, R370) -/

theorem isFenced_site (d : Dev) {n : Nat} (h : n < 80) :
    d.isFenced (siteUnit n) = (d.siteState n == .fenced || d.siteState n == .permanent || d.siteState n == .lost) := by
  have hkind : unitKind (siteUnit n) = 1 ∧ unitNum (siteUnit n) = n := by
    have hn : (siteUnit n).toNat = 4096 + n := by
      simp only [siteUnit, unitId, BitVec.toNat_ofNat]
      omega
    simp only [unitKind, unitNum, bitsOf, hn]
    omega
  obtain ⟨h1, h2⟩ := hkind
  simp only [Dev.isFenced, h1, h2]

/-- A chunk's effects dropped where its core runs one (R285, R287). -/
def Dev.runDropped (d : Dev) (c : Nat) : Dev := if (d.cq c).run.isSome then d.dropHeld c else d

theorem runDropped_only (d : Dev) (c : Nat) : Only [.cqs, .sites, .lnk, .col, .solves, .stm, .trc] d (d.runDropped c) := by
  unfold Dev.runDropped
  split
  · exact dropHeld_only d c
  · exact Only.refl _ d

/-- The machine once HLP has fenced a failed site, where no swap asked for the recovery and it did not stand fenced. -/
def Dev.siteDecided (d : Dev) (r : Recovery) (c n : Nat) : Dev :=
  if r.cause == .swap || (d.runDropped c).isFenced (siteUnit n) then d.runDropped c
  else (d.runDropped c).fenceSite n r.failSource.toNat r.failFirst r.tag (((d.runDropped c).fenceReq? n).map Req.hostFence)

/-- The machine once a spare is chosen for a site. -/
def Dev.spareChosen (d : Dev) (n sp : Nat) (cold : Bool) : Dev :=
  ((d.setSiteState sp .recovering).powerUp sp causeFence).modRecovery n
    (fun x => { x with spare := some sp, cold := cold, phase := .fenced, t1 := ((d.setSiteState sp .recovering).powerUp sp causeFence).bt.beat })

theorem siteDecided_only (d : Dev) (r : Recovery) (c n : Nat) :
    Only [.chans, .msix, .cqs, .sites, .fenceFall, .lnk, .col, .solves, .health, .stm, .trc, .free] d (d.siteDecided r c n) := by
  unfold Dev.siteDecided
  split
  · exact Only.step (runDropped_only d c) (by decide) (Only.refl _ d)
  · exact Only.step (fenceSite_only ..) (by decide) (Only.step (runDropped_only d c) (by decide) (Only.refl _ d))

section
variable {d : Dev} {site : Fin 80} {r : Recovery} {c : Nat}
  (hr : d.health.recoveries.find? (fun x => x.site == site.val && x.phase == .detected) = some r)
  (hrun : d.runs 2 = true) (hcore : r.core = some c) (hfail : r.fail = site.val) (hplan : (d.planOf c).isSome = true)
include hr hrun hcore hfail hplan

/-- HLP's decision on a failed site whose core belongs to a plan. -/
theorem siteRecovery_decides : siteRecovery site d = ((d.siteDecided r c site.val).chooseSpare (site.val / 5)).elim
    ((d.siteDecided r c site.val).noSpare r c) (fun x => (d.siteDecided r c site.val).spareChosen site.val x.1 x.2) := by
  have hnot : ¬ (!d.runs 2) = true := by simp [hrun]
  have hdrop : (if (d.cq c).run.isSome = true then d.dropHeld c else d) = d.runDropped c := rfl
  have hdecided : (if (r.cause == .swap || (d.runDropped c).isFenced (siteUnit site.val)) = true then d.runDropped c
      else (d.runDropped c).fenceSite site.val r.failSource.toNat r.failFirst r.tag (((d.runDropped c).fenceReq? site.val).map Req.hostFence)) =
    d.siteDecided r c site.val := rfl
  have hplans : ((d.siteDecided r c site.val).planOf c).isNone = false := by
    have hsame : (d.siteDecided r c site.val).plans = d.plans := (siteDecided_only ..).same .plans rfl
    rw [Dev.planOf, hsame]
    exact Option.isNone_eq_false_iff.mpr hplan
  simp only [siteRecovery, hr, if_neg hnot, hcore, hfail, BEq.rfl, Bool.and_true, if_true, hdrop, hdecided, hplans, Bool.false_eq_true, if_false]
  cases (d.siteDecided r c site.val).chooseSpare (site.val / 5) <;> rfl

end

section
variable {d : Dev} {r : Recovery} {n : Nat} (c : Nat)

theorem runDropped_siteState (d : Dev) (c m : Nat) : (d.runDropped c).siteState m = d.siteState m :=
  siteState_of_states (congrArg Health.siteStates ((runDropped_only d c).same .health rfl)) m

/-- A swap fences no site. -/
theorem siteDecided_swap (h : r.cause = .swap) : d.siteDecided r c n = d.runDropped c := by
  rw [Dev.siteDecided, if_pos (by simp [h])]

section
variable (hcause : r.cause ≠ .swap) (hn : n < 80) (hstate : d.siteState n = .recovering)
include hcause hn hstate

/-- A recovering site is fenced by the decision. -/
theorem siteDecided_fences : ∃ host, d.siteDecided r c n = (d.runDropped c).fenceSite n r.failSource.toNat r.failFirst r.tag host := by
  refine ⟨_, if_neg ?_⟩
  rw [isFenced_site _ hn, runDropped_siteState, hstate]
  simp [hcause]

theorem siteDecided_states : ∃ x, (x = .permanent ∨ x = .fenced) ∧ (d.siteDecided r c n).health.siteStates = d.health.siteStates.set n x := by
  obtain ⟨host, heq⟩ := siteDecided_fences c hcause hn hstate
  obtain ⟨x, hx, hstates⟩ := fenceSite_states (d.runDropped c) n r.failSource.toNat r.failFirst r.tag host
  rw [heq, hstates, (runDropped_only d c).same .health rfl]
  exact ⟨x, hx, rfl⟩

/-- A fence leaves the spares as they were. -/
theorem siteDecided_chooses (hlen : n < d.health.siteStates.length) (die : Nat) : (d.siteDecided r c n).chooseSpare die = d.chooseSpare die := by
  obtain ⟨x, hx, hstates⟩ := siteDecided_states c hcause hn hstate
  refine chooseSpare_of_idle (fun s => ?_) die
  rw [siteState_of_states (e := d.siteDecided r c n) (d := d.setSiteState n x) hstates]
  by_cases hs : n = s
  · rw [← hs, siteState_setSiteState_same d x hlen, hstate]
    obtain rfl | rfl := hx <;> decide
  · rw [siteState_setSiteState_other d x hs]
    exact ⟨Iff.rfl, Iff.rfl⟩

end

end

theorem siteDecided_recoveries (d : Dev) (r : Recovery) (c n : Nat) : (d.siteDecided r c n).health.recoveries = d.health.recoveries := by
  have hdrop : (d.runDropped c).health = d.health := (runDropped_only d c).same .health rfl
  unfold Dev.siteDecided
  split
  · rw [hdrop]
  · rw [fenceSite_recoveries, hdrop]

theorem siteDecided_logs {d : Dev} (h : d.logs) (r : Recovery) (c n : Nat) : (d.siteDecided r c n).logs := by
  have hdrop : (d.runDropped c).health = d.health := (runDropped_only d c).same .health rfl
  have hlogs : (d.runDropped c).logs := logs_of_health ((runDropped_only d c).same .fwp rfl) (by rw [hdrop]) (by rw [hdrop]) h
  unfold Dev.siteDecided
  split
  · exact hlogs
  · exact fenceSite_logs _ _ _ _ _ hlogs

/-! ### A spare chosen (R370) -/

/-- The recoveries of a site changed: the first of them is the one that was first. -/
theorem find_modRecovery (d : Dev) (n : Nat) {f : Recovery → Recovery} (hf : ∀ x, (f x).site = x.site) :
    (d.modRecovery n f).health.recoveries.find? (fun x => x.site == n) = (d.health.recoveries.find? (fun x => x.site == n)).map f := by
  have hsite : ((fun x : Recovery => x.site == n) ∘ fun r : Recovery => if r.site == n then f r else r) = fun x : Recovery => x.site == n := by
    funext x
    simp only [Function.comp_apply]
    split
    · rw [hf]
    · rfl
  rw [Dev.modRecovery, Dev.modHealth, List.find?_map, hsite]
  cases hx : d.health.recoveries.find? (fun x => x.site == n) with
  | none => rfl
  | some x =>
    have := List.find?_some hx
    rw [Option.map_some, Option.map_some, if_pos this]

theorem find_site_of_find {l : List Recovery} {n : Nat} {p : Recovery → Bool} {r : Recovery}
    (h : l.find? (fun x => x.site == n && p x) = some r) : ∃ x, l.find? (fun x => x.site == n) = some x := by
  have hr := List.find?_some h
  simp only [Bool.and_eq_true] at hr
  exact Option.isSome_iff_exists.mp (List.find?_isSome.mpr ⟨r, List.mem_of_find?_eq_some h, hr.1⟩)

theorem site_of_find {l : List Recovery} {n : Nat} {p : Recovery → Bool} {r : Recovery} (h : l.find? (fun x => x.site == n && p x) = some r) :
    r.site = n := by
  have hr := List.find?_some h
  simp only [Bool.and_eq_true, beq_iff_eq] at hr
  exact hr.1

theorem dropRecovery_all (d : Dev) (n : Nat) : (d.dropRecovery n).health.recoveries.all (fun x => x.site != n) = true :=
  List.all_eq_true.mpr fun _ hx => (List.mem_filter.mp hx).2

theorem spareChosen_powers (d : Dev) (n sp : Nat) (cold : Bool) : Only [.health, .pwr] d (d.spareChosen n sp cold) := by
  have hset : Only [.health, .pwr] d (d.setSiteState sp .recovering) := Only.step (setSiteState_only d sp .recovering) (by decide) (Only.refl _ d)
  have hup := Only.step (powerUp_only (d.setSiteState sp .recovering) sp causeFence) (by decide) hset
  rw [Dev.spareChosen, Dev.modRecovery]
  exact Only.step (modHealth_only _ _) (by decide) hup

theorem spareChosen_states (d : Dev) (n sp : Nat) (cold : Bool) :
    (d.spareChosen n sp cold).health.siteStates = (d.setSiteState sp .recovering).health.siteStates :=
  (congrArg Health.siteStates ((powerUp_only (d.setSiteState sp .recovering) sp causeFence).same .health rfl) :)

theorem spareChosen_recovery (d : Dev) (n sp : Nat) (cold : Bool) :
    ((d.spareChosen n sp cold).health.recoveries.find? (fun x => x.site == n)).map (fun x => (x.spare, x.cold, x.phase)) =
      (d.health.recoveries.find? (fun x => x.site == n)).map (fun _ => (some sp, cold, RecPhase.fenced)) := by
  have hhealth : ((d.setSiteState sp .recovering).powerUp sp causeFence).health = (d.setSiteState sp .recovering).health :=
    (powerUp_only ..).same .health rfl
  rw [Dev.spareChosen, find_modRecovery, hhealth, Option.map_map]
  · rfl
  · exact fun _ => rfl

/-! ### No spare (R32, R381) -/

/-- A failed site off and its recovery ended. -/
def Dev.siteOff (d : Dev) (n : Nat) : Dev := (((d.dropRecovery n).siteReset n).powerDown n causeFence).setHltEvent 1

/-- The machine once a core is left without a site. -/
def Dev.siteless (d : Dev) (n c : Nat) : Dev := { d.siteOff n with siteOf := (d.siteOff n).siteOf.set c 0xFE, mapTs := (d.siteOff n).now }

/-- The record of a core left without a site. -/
theorem noSpare_leaves {r : Recovery} (h : r.cause ≠ .swap) (d : Dev) (c : Nat) : ∃ x : Rec, (x.cls, x.code, x.unit) = (4, 0x1702, siteUnit r.fail) ∧
    d.noSpare r c = ((d.siteless r.site c).writeRecord x).answerFence r sNoSpare := by
  have hnot : ¬ (r.cause == .swap) = true := by simpa using h
  refine ⟨if (r.failSource = 11 && r.tag != 0xFFFFFFFF) = true
    then (((d.siteless r.site c).mkRec 4 r.failSource.toNat 0x1702 (siteUnit r.fail)).faultOf r.failFirst).withTag r.tag
    else ((d.siteless r.site c).mkRec 4 r.failSource.toNat 0x1702 (siteUnit r.fail)).faultOf r.failFirst, ?_, ?_⟩
  · cases r.failFirst <;> split <;> rfl
  · rw [Dev.noSpare, if_neg hnot]
    rfl

theorem siteOff_health (d : Dev) (n : Nat) : (d.siteOff n).health = ((d.dropRecovery n).setHltEvent 1).health := by
  have hsame : (((d.dropRecovery n).siteReset n).powerDown n causeFence).health = (d.dropRecovery n).health :=
    Eq.trans ((powerDown_only ..).same .health rfl) (siteReset_health ..)
  rw [Dev.siteOff, Dev.setHltEvent, hsame]
  rfl

theorem siteless_health (d : Dev) (n c : Nat) : (d.siteless n c).health = ((d.dropRecovery n).setHltEvent 1).health := siteOff_health d n

theorem siteless_logs {d : Dev} (h : d.logs) (n c : Nat) : (d.siteless n c).logs := by
  have hfwp : (d.siteless n c).fwp = d.fwp :=
    Eq.trans (b := ((d.dropRecovery n).siteReset n).fwp) ((powerDown_only ..).same .fwp rfl) (siteReset_fwp ..)
  exact logs_of_health hfwp (congrArg Health.logState (siteless_health d n c) :) (congrArg Health.bankAOk (siteless_health d n c) :) h

theorem siteless_siteOf {d : Dev} {c : Nat} (h : c < d.siteOf.length) (n : Nat) : (d.siteless n c).siteOf.getD c 0xFF = 0xFE := by
  have hof : (d.siteOff n).siteOf = d.siteOf :=
    Eq.trans (b := ((d.dropRecovery n).siteReset n).siteOf) ((powerDown_only ..).same .siteOf rfl) ((siteReset_only ..).same .siteOf rfl)
  rw [Dev.siteless, hof]
  simp [List.getD, h]

theorem siteless_byteAt {d : Dev} (hwf : d.mem.wf = true) {n a : Nat} (hlo : scratchBase n ≤ a) (hhi : a < scratchBase n + scratchSize) (c : Nat) :
    (d.siteless n c).byteAt a = 0 := by
  have hmem : (d.siteless n c).mem = ((d.dropRecovery n).siteReset n).mem := powerDown_mem ..
  rw [Dev.byteAt, hmem]
  exact siteReset_byteAt (d := d.dropRecovery n) hwf hlo hhi

/-- A swap that finds no held site noted (R381). -/
def Dev.swapNoted (d : Dev) (n : Nat) : Dev :=
  (d.setHltEvent 4).modHealth (fun h => { h with overdueNoted := h.overdueNoted.set n (some d.bt.beat) })

theorem noSwap_notes {d : Dev} {n : Nat} (h : d.health.overdueNoted.getD n none = none) :
    d.noSwap n = (d.swapNoted n).writeRecord ((d.swapNoted n).mkRec 1 10 0x1709 (siteUnit n)) := by
  rw [Dev.noSwap, h, if_neg Bool.false_ne_true]
  rfl

theorem noSwap_states (d : Dev) (n : Nat) : (d.noSwap n).health.siteStates = d.health.siteStates ∧ (d.noSwap n).health.recoveries = d.health.recoveries := by
  have hcases : d.noSwap n = d ∨ d.noSwap n = (d.swapNoted n).writeRecord ((d.swapNoted n).mkRec 1 10 0x1709 (siteUnit n)) := ite_eq_or_eq ..
  obtain h | h := hcases
  · rw [h]
    exact ⟨rfl, rfl⟩
  · rw [h, writeRecord_siteStates, writeRecord_recoveries]
    exact ⟨rfl, rfl⟩

/-- A swap that is not made: the site runs on, and no recovery of it is left. -/
theorem noSpare_swap {r : Recovery} (h : r.cause = .swap) (d : Dev) (c : Nat) : ∃ e : Dev, d.noSpare r c = e.noSwap r.site ∧
    Only [.plans, .health] d e ∧ e.health = ((d.dropRecovery r.site).setSiteState r.site .inService).health := by
  have hstart : Only [.plans, .health] d ((d.dropRecovery r.site).setSiteState r.site .inService) :=
    Only.step (setSiteState_only _ _ _) (by decide) (Only.step (dropRecovery_only _ _) (by decide) (Only.refl _ d))
  rw [Dev.noSpare, if_pos (by simp [h])]
  cases hplan : ((d.dropRecovery r.site).setSiteState r.site .inService).planOf c with
  | none =>
    refine ⟨_, ?_, hstart, rfl⟩
    simp only [hplan]
  | some p =>
    refine ⟨_, ?_, Only.step (modPlan_only _ p.handle (fun p => if p.faultStep = some p.curStep then { p with faultStep := none } else p)) (by decide) hstart, rfl⟩
    simp only [hplan]

end Sys2Proof.Machine
end

section
/-! SUPPORT. Cells written into memory one by one (R369): what each address reads then. -/

namespace Sys2Proof.Machine

/-- The byte that the last of some cells gives an address. -/
def lastAt : List Host.Cell → Nat → Option Byte
  | [], _ => none
  | (k, b) :: r, x => (lastAt r x).or (if k = x then some b else none)

theorem mem_of_lastAt {l : List Host.Cell} {x : Nat} {b : Byte} (h : lastAt l x = some b) : (x, b) ∈ l := by
  induction l with
  | nil => cases h
  | cons c r ih =>
    obtain ⟨k, v⟩ := c
    rw [lastAt, Option.or_eq_some_iff] at h
    obtain h | ⟨-, h⟩ := h
    · exact List.mem_cons_of_mem _ (ih h)
    · split at h
      next hk =>
        cases h
        exact hk ▸ List.mem_cons_self
      next => cases h

theorem not_mem_of_lastAt {l : List Host.Cell} {x : Nat} (h : lastAt l x = none) (b : Byte) : (x, b) ∉ l := by
  induction l with
  | nil => exact List.not_mem_nil
  | cons c r ih =>
    obtain ⟨k, v⟩ := c
    rw [lastAt, Option.or_eq_none_iff] at h
    obtain ⟨hr, hk⟩ := h
    rw [List.mem_cons, not_or]
    refine ⟨fun heq => ?_, ih hr⟩
    cases heq
    simp at hk

/-- Bytes written in one go are written from the first one on. -/
theorem memPutAll_cons (m : List Host.Cell) (k : Nat) (b : Byte) (bs : List Byte) :
    memPutAll m k (b :: bs) = memPutAll (memPutAll m k [b]) (k + 1) bs := by
  have hlow : m.filter (fun c => decide (c.1 < k + 1) && decide (c.1 < k)) = m.filter (fun c => decide (c.1 < k)) :=
    List.filter_congr fun c _ => by grind
  have hnone : m.filter (fun c => decide (c.1 < k + 1) && decide (k + 1 ≤ c.1)) = [] := List.filter_eq_nil_iff.mpr fun c _ => by grind
  have hnone' : m.filter (fun c => decide (k + 1 + bs.length ≤ c.1) && decide (c.1 < k)) = [] := List.filter_eq_nil_iff.mpr fun c _ => by grind
  have hhigh : m.filter (fun c => decide (k + 1 + bs.length ≤ c.1) && decide (k + 1 ≤ c.1)) = m.filter (fun c => decide (k + (bs.length + 1) ≤ c.1)) :=
    List.filter_congr fun c _ => by grind
  simp only [memPutAll, splice, cellsFrom, List.length_cons, List.length_nil, Nat.zero_add, List.filter_append, List.filter_filter, hlow, hnone, hnone',
    hhigh]
  by_cases hb : b = 0#8
  · simp [hb]
  · have hlt : k < k + 1 + bs.length := by omega
    simp [hb, hlt]

theorem memByte_memPutCells {m : List Host.Cell} (hm : cellsWf m = true) (cells : List Host.Cell) (x : Nat) :
    memByte (memPutCells m cells) x = (lastAt cells x).getD (memByte m x) := by
  unfold memPutCells
  induction cells generalizing m with
  | nil => rfl
  | cons c r ih =>
    obtain ⟨k, b⟩ := c
    have hone : memByte (memPutAll m k [b]) x = (if k = x then some b else none).getD (memByte m x) := by
      split
      next hk => exact hk ▸ memByte_memPutAll (i := 0) hm (by simp)
      next hk => exact memByte_memPutAll_ne hm (by simp; omega)
    have hnext := ih (memPutAll_keeps_wf k [b] hm)
    have hlast : (lastAt ((k, b) :: r) x).getD (memByte m x) = (lastAt r x).getD (memByte (memPutAll m k [b]) x) := by
      rw [lastAt, hone]
      cases lastAt r x <;> rfl
    rw [hlast, ← hnext, runsOf]
    split
    next a bs t ht =>
      split
      next ha => rw [ht, List.foldl_cons, List.foldl_cons, ha, memPutAll_cons]
      next => rw [ht]; rfl
    next ht => rw [ht]; rfl

/-- The cells of one site's committed scratch at their addresses in another's. -/
def Dev.scratchCells (d : Dev) (old new : Nat) : List Host.Cell :=
  (d.mem.bytes.filter (fun c => decide (scratchBase old ≤ c.1) && decide (c.1 < scratchSize + scratchBase old))).map
    (fun c => (c.1 - scratchBase old + scratchBase new, c.2))

theorem mem_scratchCells {d : Dev} {old new a : Nat} (ha : a < scratchSize) {v : Byte} :
    (scratchBase new + a, v) ∈ d.scratchCells old new ↔ (scratchBase old + a, v) ∈ d.mem.bytes := by
  simp only [Dev.scratchCells, List.mem_map, List.mem_filter, Bool.and_eq_true, decide_eq_true_eq, Prod.mk.injEq]
  constructor
  · rintro ⟨⟨k, w⟩, ⟨hmem, hlo, hhi⟩, haddr, rfl⟩
    obtain rfl : k = scratchBase old + a := by omega
    exact hmem
  · intro h
    exact ⟨_, ⟨h, by omega, by omega⟩, by omega, rfl⟩

theorem moveScratch_byteAt {d : Dev} (hwf : d.mem.wf = true) (old new : Nat) {a : Nat} (ha : a < scratchSize) :
    (d.moveScratch old new).byteAt (scratchBase new + a) = d.byteAt (scratchBase old + a) := by
  have hcanon := (cellsWf_iff_canon _).mp hwf
  have hzero : memByte (memZero d.mem.bytes (scratchBase new) scratchSize) (scratchBase new + a) = 0 :=
    memByte_memZero hwf (by omega) (by omega)
  have hmem : (d.moveScratch old new).mem.bytes = memPutCells (memZero d.mem.bytes (scratchBase new) scratchSize) (d.scratchCells old new) := rfl
  rw [Dev.byteAt, hmem, memByte_memPutCells (memZero_keeps_wf _ _ hwf), hzero, Dev.byteAt]
  refine ((memByte_eq hcanon).mpr ?_).symm
  cases hlast : lastAt (d.scratchCells old new) (scratchBase new + a) with
  | some b => exact .inl ((mem_scratchCells ha).mp (mem_of_lastAt hlast))
  | none => exact .inr ⟨rfl, fun v hv => not_mem_of_lastAt hlast v ((mem_scratchCells ha).mpr hv)⟩

/-! ### A chunk begun again (R369, R372) -/

section
variable {d : Dev} {c : Nat}

theorem dropHeld_cqs (hlen : c < d.cqs.length) : ((d.dropHeld c).cq c).pend = [] ∧ (d.dropHeld c).cqs.length = d.cqs.length := by
  have htrace : (d.abandonTrace c (((d.cq c).run.map (·.handle)).getD 0)).cqs = d.cqs := (abandonTrace_only ..).same .cqs rfl
  refine ⟨?_, cqs_length_of_sizes (dropHeld_sizes d c)⟩
  unfold Dev.dropHeld
  dsimp only
  rw [updateDemand_cq, cq_modCq_same _ _ (by rwa [htrace])]

/-- A chunk that starts again runs under the next number of its attempts, and holds nothing. -/
theorem restartChunk_cq (hlen : c < d.cqs.length) (p : Plan) (old new : Nat) (rc : RunChunk) :
    ((d.restartChunk p c old new rc).cq c).pend = [] ∧
    ((d.restartChunk p c old new rc).cq c).run.map (fun x => (x.idx, x.attempt, x.inPlace)) = some (rc.idx, rc.attempt + 1, rc.inPlace) := by
  obtain ⟨hpend, hlength⟩ := dropHeld_cqs hlen
  have hready : ((((d.dropHeld c).readySite p (p.planCore c) new rc.idx).restoreSets old new rc.snapActive rc.snap0 rc.snap1).modCcr new
      (fun cc => { cc with flags := rc.flagCopy, flagsSet := 0 })).cqs = (d.dropHeld c).cqs :=
    Eq.trans ((modCcr_only ..).same .cqs rfl) (Eq.trans ((restoreSets_only ..).same .cqs rfl) ((readySite_only ..).same .cqs rfl))
  unfold Dev.restartChunk
  dsimp only
  rw [cq_modCq_same _ _ (by rw [hready, hlength]; exact hlen), cq_of_cqs hready]
  exact ⟨hpend, rfl⟩

/-- Without a program text it leaves memory as it was. -/
theorem restartChunk_mem {p : Plan} (htexts : p.img.texts = []) (c old new : Nat) (rc : RunChunk) : (d.restartChunk p c old new rc).mem = d.mem := by
  have hready : ∀ (e : Dev) core site idx, (e.readySite p core site idx).mem = e.mem := fun e core site idx => by
    simp only [Dev.readySite, htexts, List.any_nil, Bool.false_eq_true, if_false]
    rfl
  have hccr : ∀ (e : Dev) n f, (e.modCcr n f).mem = e.mem := fun e n f => (modCcr_only e n f).same .mem rfl
  simp only [Dev.restartChunk, modCq_mem, hccr, restoreSets_mem, hready, dropHeld_mem]

end

/-- A queue without what it holds of a range that is wiped (R291). -/
def Cq.unwiped (a n : Nat) (q : Cq) : Cq :=
  { q with
    pend := q.pend.filter (fun e => !(decide (a ≤ e.1) && decide (e.1 < a + n)))
    log := q.log.filter (fun e => !(decide (a ≤ e.addr) && decide (e.addr < a + n))) }

/-- A site wiped leaves the run of every core, and what holds nothing holds nothing. -/
theorem siteReset_cq (d : Dev) (n c : Nat) : ((d.siteReset n).cq c).run = (d.cq c).run ∧ ((d.cq c).pend = [] → ((d.siteReset n).cq c).pend = []) := by
  have hcqs : (d.siteReset n).cqs = d.cqs.map (Cq.unwiped (scratchBase n) 0x1000000) := rfl
  have hcq : (d.siteReset n).cq c = (d.cq c).unwiped (scratchBase n) 0x1000000 := by
    rw [Dev.cq, hcqs]
    exact List.getD_map (l := d.cqs) (d := {}) (Cq.unwiped (scratchBase n) 0x1000000)
  rw [hcq]
  refine ⟨rfl, fun h => ?_⟩
  rw [Cq.unwiped, h]
  rfl

/-- A site left by its core: wiped and down, where it is not lost. -/
def Dev.siteLeft (d : Dev) (n : Nat) : Dev := if (d.siteReset n).siteState n == .lost then d.siteReset n else (d.siteReset n).powerDown n causeFence

theorem siteLeft_powers (d : Dev) (n : Nat) : Only [.stm, .trc, .pwr] (d.siteReset n) (d.siteLeft n) := by
  unfold Dev.siteLeft
  split
  · exact Only.refl _ _
  · exact powerDown_only ..

theorem siteLeft_health (d : Dev) (n : Nat) : (d.siteLeft n).health = d.health :=
  Eq.trans ((siteLeft_powers d n).same .health rfl) (siteReset_health d n)

theorem siteLeft_plans (d : Dev) (n : Nat) : (d.siteLeft n).plans = d.plans :=
  Eq.trans ((siteLeft_powers d n).same .plans rfl) ((siteReset_only d n).same .plans rfl)

theorem siteLeft_cq (d : Dev) (n c : Nat) : ((d.siteLeft n).cq c).run = (d.cq c).run ∧ ((d.cq c).pend = [] → ((d.siteLeft n).cq c).pend = []) := by
  rw [cq_of_cqs ((siteLeft_powers d n).same .cqs rfl)]
  exact siteReset_cq d n c

/-- The scratch of a site that is left reads 0, that of another site as it did. -/
theorem siteLeft_byteAt {d : Dev} (hwf : d.mem.wf = true) {n a : Nat} (ha : a < scratchSize) : (d.siteLeft n).byteAt (scratchBase n + a) = 0 ∧
    ∀ k, k ≠ n → (d.siteLeft n).byteAt (scratchBase k + a) = d.byteAt (scratchBase k + a) := by
  have hmem : (d.siteLeft n).mem = (d.siteReset n).mem := (siteLeft_powers d n).same .mem rfl
  refine ⟨?_, fun k hk => ?_⟩
  · rw [Dev.byteAt, hmem]
    exact siteReset_byteAt hwf (by omega) (by omega)
  · rw [Dev.byteAt, hmem, Dev.byteAt, siteReset_bytes]
    refine memByte_memZero_ne hwf ?_
    simp only [scratchBase, scratchSize] at *
    omega

/-- A spare in the place of a failed site: the site is one of the core's past sites, and its scratch is the spare's. -/
def Dev.takenOver (d : Dev) (p : Plan) (c n sp : Nat) : Dev :=
  ((((d.modPlan p.handle (fun q => { q with pastSites := q.pastSites.modify (q.planCore c) (fun (l : List Nat) => l ++ [n]) })).moveScratch n sp).configSite
    p (p.planCore c) sp).copyText p (p.planCore c) sp).setSiteState sp .inService

/-- A recompute of a core noted until its chunk commits. -/
def Dev.recomputing (d : Dev) (again : Recompute) : Dev := d.modHealth (fun (h : Health) => { h with recomputes := h.recomputes ++ [again] })

theorem recomputing_only (d : Dev) (again : Recompute) : Only [.health] d (d.recomputing again) := modHealth_only ..
theorem recomputing_states (d : Dev) (again : Recompute) : (d.recomputing again).health.siteStates = d.health.siteStates := rfl
theorem recomputing_recoveries (d : Dev) (again : Recompute) : (d.recomputing again).health.recoveries = d.health.recoveries := rfl

theorem moveScratch_cq (d : Dev) (old new c : Nat) : (d.moveScratch old new).cq c = (d.cq c).unwiped (scratchBase new) scratchSize := by
  have hcqs : (d.moveScratch old new).cqs = d.cqs.map (Cq.unwiped (scratchBase new) scratchSize) := rfl
  rw [Dev.cq, hcqs]
  exact List.getD_map (l := d.cqs) (d := {}) (Cq.unwiped (scratchBase new) scratchSize)

/-- A plan's core `c` with a site among its past sites. -/
def Dev.sitePast (d : Dev) (h : BitVec 16) (c n : Nat) : Dev :=
  d.modPlan h (fun q => { q with pastSites := q.pastSites.modify (q.planCore c) (fun (l : List Nat) => l ++ [n]) })

/-- A change of the plans of a handle changes the one that the handle names. -/
theorem plan?_modPlan_of {d : Dev} {h : BitVec 16} {p : Plan} (hp : d.plan? h = some p) {f : Plan → Plan} (hf : ∀ q, (f q).handle = q.handle) :
    (d.modPlan h f).plan? h = some (f p) := by
  have hkey : (fun q : Plan => q.handle == h) ∘ (fun q => if q.handle == h then f q else q) = fun q => q.handle == h := by
    funext q
    simp only [Function.comp_apply]
    split
    · rw [hf]
    · rfl
  have hhandle := List.find?_some hp
  rw [Dev.plan?] at hp
  rw [Dev.plan?, Dev.modPlan, List.find?_map, hkey, hp, Option.map_some, if_pos hhandle]

theorem takenOver_eq (d : Dev) (p : Plan) (c n sp : Nat) : d.takenOver p c n sp =
    ((((d.sitePast p.handle c n).moveScratch n sp).configSite p (p.planCore c) sp).copyText p (p.planCore c) sp).setSiteState sp .inService := rfl

theorem takenOver_memWf {d : Dev} (hwf : d.mem.wf = true) (p : Plan) (c n sp : Nat) : (d.takenOver p c n sp).mem.wf = true :=
  takeOver_memWf (d := d.sitePast p.handle c n) hwf p (p.planCore c) n sp

theorem takenOver_after (d : Dev) (p : Plan) (c n sp : Nat) :
    Only [.mem, .sites, .health] ((d.sitePast p.handle c n).moveScratch n sp) (d.takenOver p c n sp) :=
  Only.step (setSiteState_only ..) (by decide) (Only.step (copyText_only ..) (by decide) (Only.step (configSite_only ..) (by decide) (Only.refl _ _)))

theorem takenOver_run (d : Dev) (p : Plan) (c n sp k : Nat) : ((d.takenOver p c n sp).cq k).run = (d.cq k).run := by
  rw [cq_of_cqs ((takenOver_after d p c n sp).same .cqs rfl), moveScratch_cq]
  rfl

theorem takenOver_length (d : Dev) (p : Plan) (c n sp : Nat) : (d.takenOver p c n sp).cqs.length = d.cqs.length := by
  have hcqs : ((d.sitePast p.handle c n).moveScratch n sp).cqs.length = d.cqs.length := cqs_length_of_sizes (moveScratch_sizes ..)
  rw [(takenOver_after d p c n sp).same .cqs rfl, hcqs]

theorem takenOver_health (d : Dev) (p : Plan) (c n sp : Nat) : (d.takenOver p c n sp).health = (d.setSiteState sp .inService).health := by
  have hsame : ((((d.sitePast p.handle c n).moveScratch n sp).configSite p (p.planCore c) sp).copyText p (p.planCore c) sp).health = d.health :=
    Eq.trans ((copyText_only _ p (p.planCore c) sp).same .health rfl) (Eq.trans ((configSite_only _ p (p.planCore c) sp).same .health rfl)
      ((moveScratch_only (d.sitePast p.handle c n) n sp).same .health rfl))
  rw [takenOver_eq, setSiteState_health, setSiteState_health, hsame]

/-- Without a program text the scratch of the failed site stands in the spare's. -/
theorem takenOver_byteAt {d : Dev} (hwf : d.mem.wf = true) {p : Plan} (htexts : p.img.texts = []) (c n sp : Nat) {a : Nat} (ha : a < scratchSize) :
    (d.takenOver p c n sp).byteAt (scratchBase sp + a) = d.byteAt (scratchBase n + a) := by
  have hpast : (d.sitePast p.handle c n).mem.wf = true := hwf
  have hmoved := moveScratch_byteAt hpast n sp ha
  have htext : ((d.sitePast p.handle c n).moveScratch n sp).textBytes p (p.planCore c) = [] := by simp [Dev.textBytes, htexts]
  have hmem : (d.takenOver p c n sp).mem.bytes = memPutAll ((d.sitePast p.handle c n).moveScratch n sp).mem.bytes (p.textBase (p.planCore c) sp) [] := by
    rw [← htext]
    rfl
  rw [Dev.byteAt, hmem, memByte_memPutAll_ne (moveScratch_memWf hpast n sp) (by simp; omega)]
  exact hmoved

section
variable {d : Dev} {site : Fin 80} {r : Recovery} {c sp : Nat} {p : Plan}
  (hr : d.health.recoveries.find? (fun x => x.site == site.val && x.phase == .inService) = some r) (hcore : r.core = some c)
  (hspare : r.spare = some sp) (hplan : d.planOf c = some p)
include hr hcore hspare hplan

theorem stateLoadDone_chunk {rc : RunChunk} (hrun : (d.cq c).run = some rc) (hswap : r.cause ≠ .swap) (hplace : r.cause ≠ .inPlace) :
    stateLoadDone site d = ((((d.dropRecovery site.val).takenOver p c site.val sp).restartChunk p c site.val sp { rc with afterResume := r.late }).recomputing
      { core := c, rcv := { r with t3 := d.bt.beat } }).siteLeft site.val := by
  have hplan' : (d.dropRecovery site.val).planOf c = some p := hplan
  have hrun' := (takenOver_run (d.dropRecovery site.val) p c site.val sp c).trans hrun
  have hs : ¬ (r.cause == .swap) = true := by simpa using hswap
  have hp : ¬ (r.cause == .inPlace) = true := by simpa using hplace
  unfold Dev.takenOver at hrun'
  simp only [stateLoadDone, hr, hcore, hspare, hplan', if_neg hs, if_neg hp, hrun']
  rfl

theorem stateLoadDone_idle (hrun : (d.cq c).run = none) (hswap : r.cause ≠ .swap) (hplace : r.cause ≠ .inPlace) : ∃ e : Dev,
    Only [.chans, .msix, .cqs, .mem, .sites, .health, .stm, .trc] ((d.dropRecovery site.val).takenOver p c site.val sp) e ∧
    stateLoadDone site d = e.siteLeft site.val := by
  have hplan' : (d.dropRecovery site.val).planOf c = some p := hplan
  have hrun' := (takenOver_run (d.dropRecovery site.val) p c site.val sp c).trans hrun
  have hs : ¬ (r.cause == .swap) = true := by simpa using hswap
  have hp : ¬ (r.cause == .inPlace) = true := by simpa using hplace
  unfold Dev.takenOver at hrun'
  simp only [stateLoadDone, hr, hcore, hspare, hplan', if_neg hs, if_neg hp, hrun']
  refine ⟨_, ?_, rfl⟩
  refine Only.step (recoveryRecord_only ..) (by decide) (Only.step (modCcr_only ..) (by decide) (Only.step (restoreSets_only ..) (by decide) (Only.refl _ _)))

theorem stateLoadDone_here {rc : RunChunk} (hrun : (d.cq c).run = some rc) (hplace : r.cause = .inPlace) :
    stateLoadDone site d = ((d.dropRecovery site.val).restartChunk p c site.val site.val
      { rc with inPlace := rc.inPlace + 1, afterResume := r.late }).recomputing { core := c, rcv := { r with t3 := d.bt.beat } } := by
  have hplan' : (d.dropRecovery site.val).planOf c = some p := hplan
  have hrun' : ((d.dropRecovery site.val).cq c).run = some rc := hrun
  simp only [stateLoadDone, hr, hcore, hspare, hplace, BEq.rfl, if_true, Dev.recomputeHere, hplan', hrun']
  rfl

end

/-! ### The spare in service (R369, R370, R435) -/

/-- A core served by its spare, whose reset is released. -/
def Dev.servedBy (d : Dev) (c sp : Nat) : Dev :=
  { (d.siteReset sp).setDom sp .on with
    siteOf := ((d.siteReset sp).setDom sp .on).siteOf.set c sp
    mapTs := ((d.siteReset sp).setDom sp .on).now }

theorem servedBy_health (d : Dev) (c sp : Nat) : (d.servedBy c sp).health = d.health := siteReset_health d sp
theorem servedBy_siteOf (d : Dev) (c sp : Nat) : (d.servedBy c sp).siteOf = d.siteOf.set c sp :=
  congrArg (List.set · c sp) ((siteReset_only d sp).same .siteOf rfl)
theorem servedBy_bytes (d : Dev) (c sp : Nat) : (d.servedBy c sp).mem.bytes = memZero d.mem.bytes (scratchBase sp) 0x1000000 := siteReset_bytes d sp
theorem modRecovery_siteOf (d : Dev) (n : Nat) (f : Recovery → Recovery) : (d.modRecovery n f).siteOf = d.siteOf := rfl

section
variable {d : Dev} {site : Fin 80} {r : Recovery} {c sp : Nat}
  (hr : d.health.recoveries.find? (fun x => x.site == site.val && x.phase == .fenced) = some r) (hcore : r.core = some c)
  (hspare : r.spare = some sp) (hup : d.domUp sp = true)
include hr hcore hspare hup

theorem spareInService_serves {ok : Bool} (hok : r.cold = false ∨ ok = true) (hplan : (d.planOf c).isSome = true) : spareInService site ok d =
    ((d.servedBy c sp).modRecovery site.val (fun x => { x with phase := .inService, t2 := (d.servedBy c sp).bt.beat })).answerFence r sOk := by
  have hplans : (((d.siteReset sp).setDom sp .on).planOf c).isSome = true := by
    have hsame : ((d.siteReset sp).setDom sp .on).plans = d.plans :=
      Eq.trans ((setDom_only ..).same .plans rfl) ((siteReset_only d sp).same .plans rfl)
    rw [Dev.planOf, hsame]
    exact hplan
  have hnot : ¬ (r.cold && !ok) = true := by
    obtain h | h := hok <;> simp [h]
  simp only [spareInService, hr, hcore, hspare, hup, Bool.not_true, Bool.false_eq_true, if_false, if_neg hnot, hplans, if_true]
  rfl

theorem spareInService_fails (hcold : r.cold = true) : spareInService site false d =
    d.modRecovery site.val (fun x => { x with spare := none, phase := .detected, fail := sp, failSource := 10, failFirst := none }) := by
  simp only [spareInService, hr, hcore, hspare, hup, hcold, Bool.not_true, Bool.not_false, Bool.and_self, Bool.false_eq_true, if_false, if_true]

end

/-! ### Recomputes in place (R279, R372) -/

section
variable {d : Dev} {c : Fin 72} {addr : Fin 34359738368} {x : Ctx} (hctx : d.ctx? c.val = some x)
  (hpend : (d.cq c.val).pend.any (fun e => decide (addr.val / 128 * 128 ≤ e.1) && decide (e.1 < addr.val / 128 * 128 + 128)) = true)
include hctx hpend

/-- The error of the line counted at its stack. -/
def Dev.lineBad (d : Dev) (addr : Nat) : Dev := d.modDsc (stackOfAddr (addr / 128 * 128)) (fun s => { s with eccUe := satInc s.eccUe })

/-- The line counted and what the chunk holds discarded. -/
def Dev.lineDropped (d : Dev) (c addr : Nat) : Dev := ((d.lineBad addr).countFault (some c)).2.dropHeld c

theorem inPlaceRecompute_begins (hfirst : x.rc.inPlace = 0) : ∃ v : Recovery, (v.site, v.core, v.cause, v.phase) = (x.site, some c.val, .inPlace, .inService) ∧
    inPlaceRecompute c addr d = (d.lineDropped c.val addr.val).modHealth (fun h => { h with recoveries := h.recoveries ++ [v] }) := by
  let first := ((d.lineBad addr.val).countFault (some c.val)).1
  let beat := (d.lineDropped c.val addr.val).bt.beat
  refine ⟨{ site := x.site, core := some c.val, spare := some x.site, cause := .inPlace, phase := .inService, source := 2
            tag := ((d.lineBad addr.val).cq c.val).nextTag, first := first, fail := x.site, failFirst := some first, t0 := beat, t1 := beat, t2 := beat }, rfl, ?_⟩
  simp only [inPlaceRecompute, hctx, hpend, Bool.not_true, Bool.false_eq_true, if_false, hfirst, bne_self_eq_false]
  rfl

theorem inPlaceRecompute_faults (hagain : x.rc.inPlace ≠ 0) : ∃ tag, inPlaceRecompute c addr d = (d.lineBad addr.val).siteFault x.site .check 2 0 tag := by
  have hne : (x.rc.inPlace != 0) = true := by simpa using hagain
  refine ⟨((d.lineBad addr.val).cq c.val).nextTag, ?_⟩
  simp only [inPlaceRecompute, hctx, hpend, Bool.not_true, Bool.false_eq_true, if_false, hne, if_true]
  rfl

end

/-! ### Overdue tests (R381) -/

section
variable {d : Dev} {c : Fin 72} {site : Fin 80} {p : Plan} (hplan : d.planOf c.val = some p) (hof : d.siteOf.getD c.val 0xFF = site.val)
  (hserve : d.siteState site.val = .inService) (hdue : d.testIsDue site.val (hourBeats + 1) = true) (hrun : (d.cq c.val).run = none)
  (hvent : (d.cq c.val).vent = none)
include hplan hof hserve hdue hrun hvent

theorem overdueSwap_waits (hspare : d.chooseSpare (site.val / 5) = none) : overdueSwap c d = d.noSwap site.val := by
  have hlt : ¬ 80 ≤ site.val := by omega
  simp only [overdueSwap, hplan, hof, hserve, hdue, hrun, hvent, hspare, hlt, bne_self_eq_false, decide_false, Bool.not_true, Option.isSome_none,
    Bool.or_self, Bool.false_eq_true, if_false]

theorem overdueSwap_swaps (hspare : (d.chooseSpare (site.val / 5)).isSome = true) (hfault : p.faultStep ≠ some p.curStep) :
    ∃ v : Recovery, (v.site, v.core, v.cause) = (site.val, some c.val, .swap) ∧ overdueSwap c d =
      ((d.modPlan p.handle (fun p => { p with faultStep := some p.curStep })).setSiteState site.val .recovering).modHealth
        (fun h => { h with recoveries := h.recoveries ++ [v] }) := by
  have hlt : ¬ 80 ≤ site.val := by omega
  obtain ⟨sp, hsp⟩ := Option.isSome_iff_exists.mp hspare
  refine ⟨{ site := site.val, core := some c.val, cause := .swap, source := 10, fail := site.val, failSource := 10, t0 := d.bt.beat }, rfl, ?_⟩
  simp only [overdueSwap, hplan, hof, hserve, hdue, hrun, hvent, hsp, hlt, bne_self_eq_false, decide_false, Bool.not_true, Option.isSome_none,
    Bool.or_self, Bool.false_eq_true, if_false, if_neg hfault]
  rfl

end

/-- Settles O48: HLP's decision, the spare in service, and the chunk begun again on it or on its own site. -/
theorem sitesAreRecoveredOntoSpares : Obligations.SitesAreRecoveredOntoSpares := by
  unfold Obligations.SitesAreRecoveredOntoSpares
  refine ⟨?spares, ?without, ?noSwap, ?none, ?serves, ?cold, ?chunk, ?idle, ?here, ?inPlace, ?again, ?swaps, ?waits⟩
  case spares =>
    intro s site r c sp cold hr hrun hcore hfail hcause hstate hplan hspare hlen hsites
    refine completes_of_run rfl ?_
    have hsite : site.val < s.dev.health.siteStates.length := by omega
    obtain ⟨x, hx, hstates⟩ := siteDecided_states (r := r) c hcause site.isLt hstate
    obtain ⟨hsp, hidle⟩ := chooseSpare_idle hspare
    have hne : sp ≠ site.val := by
      rintro rfl
      rw [hstate] at hidle
      simp at hidle
    obtain ⟨y, hy⟩ := find_site_of_find hr
    rw [siteRecovery_decides hr hrun hcore hfail hplan, siteDecided_chooses c hcause site.isLt hstate hsite, hspare, Option.elim_some]
    have hpowers := spareChosen_powers (s.dev.siteDecided r c site.val) site.val sp cold
    have hdecided := siteDecided_only s.dev r c site.val
    refine ⟨?_, ?_, Eq.trans (hpowers.same .siteOf rfl) (hdecided.same .siteOf rfl), Eq.trans (hpowers.same .mem rfl) (hdecided.same .mem rfl), ?_⟩
    · rw [siteState_of_states (spareChosen_states ..), siteState_setSiteState_other _ _ hne,
        siteState_of_states (e := s.dev.siteDecided r c site.val) (d := s.dev.setSiteState site.val x) hstates, siteState_setSiteState_same _ _ hsite]
      exact hx.symm
    · rw [siteState_of_states (spareChosen_states ..), siteState_setSiteState_same _ _ (by rw [hstates, List.length_set]; omega)]
    · rw [spareChosen_recovery, siteDecided_recoveries, hy]
      rfl
  case without =>
    intro s site r c a hr hrun hcore hfail hcause hstate hplan hspare hc hlogs hwf hlo hhi hlen hsites
    refine completes_of_run rfl ?_
    have hsite : site.val < s.dev.health.siteStates.length := by omega
    obtain ⟨x, hx, hstates⟩ := siteDecided_states (r := r) c hcause site.isLt hstate
    have hrsite := site_of_find hr
    obtain ⟨v, hv, heq⟩ := noSpare_leaves hcause (s.dev.siteDecided r c site.val) c
    have hdecided := siteDecided_only s.dev r c site.val
    have hwf' : (s.dev.siteDecided r c site.val).mem.wf = true := by rw [hdecided.same .mem rfl]; exact hwf
    have hc' : c < (s.dev.siteDecided r c site.val).siteOf.length := by rw [hdecided.same .siteOf rfl]; exact hc
    rw [siteRecovery_decides hr hrun hcore hfail hplan, siteDecided_chooses c hcause site.isLt hstate hsite, hspare, Option.elim_none, heq, hrsite]
    have hanswer := answerFence_only (((s.dev.siteDecided r c site.val).siteless site.val c).writeRecord v) r sNoSpare
    have hhealth := hanswer.same .health rfl
    refine ⟨?_, ?_, ?_, ?_, ?_⟩
    · rw [siteState_of_states (congrArg Health.siteStates hhealth), siteState_of_states (writeRecord_siteStates ..),
        siteState_of_states (e := (s.dev.siteDecided r c site.val).siteless site.val c) (d := s.dev.setSiteState site.val x)
          ((congrArg Health.siteStates (siteless_health ..)).trans hstates), siteState_setSiteState_same _ _ hsite]
      exact hx.symm
    · have hof := siteless_siteOf hc' site.val
      rwa [← (writeRecord_only _ v).same .siteOf rfl, ← hanswer.same .siteOf rfl] at hof
    · have hlogged := writeRecord_logged_as (siteless_logs (siteDecided_logs hlogs r c site.val) site.val c) hv
      rw [hfail] at hlogged
      exact (congrArg (fun h : Health => h.bankA.getLast?.map (fun r => (r.cls, r.code, r.unit))) hhealth).trans hlogged
    · have hbyte := siteless_byteAt hwf' hlo hhi c
      have hmem : ((((s.dev.siteDecided r c site.val).siteless site.val c).writeRecord v).answerFence r sNoSpare).mem =
          ((s.dev.siteDecided r c site.val).siteless site.val c).mem := Eq.trans (answerFence_mem ..) (writeRecord_mem ..)
      rwa [Dev.byteAt, hmem]
    · rw [hhealth, writeRecord_recoveries, siteless_health]
      exact dropRecovery_all ..
  case noSwap =>
    intro s site r c hr hrun hcore hfail hcause hplan hspare hlen
    refine completes_of_run rfl ?_
    have hrsite := site_of_find hr
    have hchoose : (s.dev.runDropped c).chooseSpare (site.val / 5) = none := by
      rw [chooseSpare_of_idle (d := s.dev) (fun n => by rw [runDropped_siteState]; exact ⟨Iff.rfl, Iff.rfl⟩), hspare]
    obtain ⟨e, heq, honly, hhealth⟩ := noSpare_swap hcause (s.dev.runDropped c) c
    rw [siteRecovery_decides hr hrun hcore hfail hplan, siteDecided_swap c hcause, hchoose, Option.elim_none, heq, hrsite]
    rw [hrsite] at hhealth
    obtain ⟨hstates, hrecoveries⟩ := noSwap_states e site.val
    have hdropped := (runDropped_only s.dev c).same .health rfl
    refine ⟨?_, ?_, ?_, ?_⟩
    · rw [siteState_of_states hstates, siteState_of_states (congrArg Health.siteStates hhealth)]
      refine siteState_setSiteState_same ((s.dev.runDropped c).dropRecovery site.val) .inService ?_
      exact lt_of_lt_of_eq site.isLt ((congrArg (fun h : Health => h.siteStates.length) hdropped).trans hlen).symm
    · exact Eq.trans ((noSwap_only ..).same .siteOf rfl) (Eq.trans (honly.same .siteOf rfl) ((runDropped_only ..).same .siteOf rfl))
    · exact Eq.trans (noSwap_mem ..) (Eq.trans (honly.same .mem rfl) ((runDropped_only ..).same .mem rfl))
    · rw [hrecoveries, hhealth]
      exact dropRecovery_all ..
  case none =>
    intro s site hr
    refine completes_of_run rfl ?_
    simp only [siteRecovery, hr]
  case serves =>
    intro s site ok r c sp hr hcore hspare hup hok hplan hc
    refine completes_of_run rfl ?_
    obtain ⟨y, hy⟩ := find_site_of_find hr
    rw [spareInService_serves hr hcore hspare hup hok hplan]
    refine ⟨?_, ?_, ?_⟩
    · rw [(answerFence_only ..).same .siteOf rfl, modRecovery_siteOf, servedBy_siteOf]
      simp [List.getD, hc]
    · rw [answerFence_mem, modRecovery_mem, servedBy_bytes]
    · rw [(answerFence_only ..).same .health rfl, find_modRecovery, servedBy_health, hy]
      · rfl
      · exact fun _ => rfl
  case cold =>
    intro s site r c sp hr hcore hspare hup hcold
    refine completes_of_run rfl ?_
    obtain ⟨y, hy⟩ := find_site_of_find hr
    rw [spareInService_fails hr hcore hspare hup hcold]
    refine ⟨rfl, rfl, ?_⟩
    rw [find_modRecovery, hy]
    · rfl
    · exact fun _ => rfl
  case chunk =>
    intro s site r c sp a p rc hr hcore hspare hplan hrun htexts hne hswap hplace hwf ha hc hsp
    refine completes_of_run rfl ?_
    rw [stateLoadDone_chunk hr hcore hspare hplan hrun hswap hplace]
    have htaken := takenOver_byteAt (d := s.dev.dropRecovery site.val) hwf htexts c site.val sp ha
    have hhealth := takenOver_health (s.dev.dropRecovery site.val) p c site.val sp
    have hwf' := takenOver_memWf (d := s.dev.dropRecovery site.val) hwf p c site.val sp
    have hlen : c < ((s.dev.dropRecovery site.val).takenOver p c site.val sp).cqs.length := by
      rw [takenOver_length]
      exact hc
    generalize (s.dev.dropRecovery site.val).takenOver p c site.val sp = e at *
    obtain ⟨hpend, hchunk⟩ := restartChunk_cq hlen p site.val sp { rc with afterResume := r.late }
    have hmem := restartChunk_mem (d := e) htexts c site.val sp { rc with afterResume := r.late }
    have hrestart := restartChunk_only e p c site.val sp { rc with afterResume := r.late }
    generalize e.restartChunk p c site.val sp { rc with afterResume := r.late } = f at *
    have hnoted := recomputing_only f { core := c, rcv := { r with t3 := s.dev.bt.beat } }
    have hfmem : (f.recomputing { core := c, rcv := { r with t3 := s.dev.bt.beat } }).mem = e.mem := Eq.trans (hnoted.same .mem rfl) hmem
    obtain ⟨hzero, hother⟩ := siteLeft_byteAt (d := f.recomputing { core := c, rcv := { r with t3 := s.dev.bt.beat } }) (by rwa [hfmem]) (n := site.val) ha
    obtain ⟨hrun', hpend'⟩ := siteLeft_cq (f.recomputing { core := c, rcv := { r with t3 := s.dev.bt.beat } }) site.val c
    have hfhealth := hrestart.same .health rfl
    refine ⟨?_, hzero, ?_, ?_, hpend' (by rwa [cq_of_cqs (hnoted.same .cqs rfl)]), ?_⟩
    · rw [hother sp hne, Dev.byteAt, hfmem]
      exact htaken
    · rw [siteState_of_states (congrArg Health.siteStates (siteLeft_health ..)), siteState_of_states (recomputing_states ..),
        siteState_of_states (congrArg Health.siteStates (Eq.trans hfhealth hhealth))]
      exact siteState_setSiteState_same (s.dev.dropRecovery site.val) .inService hsp
    · rw [hrun', cq_of_cqs (hnoted.same .cqs rfl)]
      simpa using congrArg (Option.map (fun y : Nat × Nat × Nat => (y.1, y.2.1))) hchunk
    · rw [siteLeft_health, recomputing_recoveries, hfhealth, hhealth, setSiteState_health]
      exact dropRecovery_all ..
  case idle =>
    intro s site r c sp p hr hcore hspare hplan hhandle hrun hpast hne hswap hplace
    refine completes_of_run rfl ?_
    obtain ⟨e, hafter, heq⟩ := stateLoadDone_idle hr hcore hspare hplan hrun hswap hplace
    have hplans : (e.siteLeft site.val).plans = ((s.dev.dropRecovery site.val).sitePast p.handle c site.val).plans :=
      Eq.trans (siteLeft_plans ..) (Eq.trans (hafter.same .plans rfl) (Eq.trans ((takenOver_after ..).same .plans rfl) ((moveScratch_only ..).same .plans rfl)))
    have hfound : (e.siteLeft site.val).plan? p.handle = ((s.dev.dropRecovery site.val).sitePast p.handle c site.val).plan? p.handle := by
      rw [Dev.plan?, hplans]
      rfl
    rw [heq, hfound, Dev.sitePast, plan?_modPlan_of (d := s.dev.dropRecovery site.val) hhandle]
    · simp [List.getD, List.getElem?_eq_getElem hpast]
    · exact fun _ => rfl
  case here =>
    intro s site r c sp p rc hr hcore hspare hplace hplan hrun htexts hc
    refine completes_of_run rfl ?_
    rw [stateLoadDone_here hr hcore hspare hplan hrun hplace]
    obtain ⟨hpend, hchunk⟩ := restartChunk_cq (d := s.dev.dropRecovery site.val) hc p site.val site.val
      { rc with inPlace := rc.inPlace + 1, afterResume := r.late }
    have hmem := restartChunk_mem (d := s.dev.dropRecovery site.val) htexts c site.val site.val { rc with inPlace := rc.inPlace + 1, afterResume := r.late }
    have hrestart := restartChunk_only (s.dev.dropRecovery site.val) p c site.val site.val { rc with inPlace := rc.inPlace + 1, afterResume := r.late }
    generalize (s.dev.dropRecovery site.val).restartChunk p c site.val site.val { rc with inPlace := rc.inPlace + 1, afterResume := r.late } = e at *
    have hhealth := hrestart.same .health rfl
    have hnoted := recomputing_only e { core := c, rcv := { r with t3 := s.dev.bt.beat } }
    rw [cq_of_cqs (hnoted.same .cqs rfl), recomputing_states, recomputing_recoveries, hhealth]
    exact ⟨hchunk, hpend, Eq.trans (hnoted.same .mem rfl) hmem, Eq.trans (hnoted.same .siteOf rfl) (hrestart.same .siteOf rfl), rfl, dropRecovery_all ..⟩
  case inPlace =>
    intro s c addr x hctx hpend hfirst hc
    refine completes_of_run rfl ?_
    obtain ⟨v, hv, heq⟩ := inPlaceRecompute_begins hctx hpend hfirst
    have hcount := countFault_only (s.dev.lineBad addr.val) (some c.val)
    have hdrop := dropHeld_only ((s.dev.lineBad addr.val).countFault (some c.val)).2 c.val
    have hlen : c.val < ((s.dev.lineBad addr.val).countFault (some c.val)).2.cqs.length := by
      rw [hcount.same .cqs rfl]
      exact hc
    rw [heq]
    refine ⟨(dropHeld_cqs hlen).1, ?_, ?_, Eq.trans (dropHeld_mem ..) (countFault_mem ..), ?_, ?_⟩
    · rw [Dev.modHealth, List.getLast?_concat]
      exact congrArg some hv
    · simp [Dev.ownedNow, Dev.modHealth]
    · exact Eq.trans (hdrop.same .siteOf rfl) (hcount.same .siteOf rfl)
    · have hstates : (s.dev.lineDropped c.val addr.val).health.siteStates = s.dev.health.siteStates :=
        (congrArg Health.siteStates (hdrop.same .health rfl)).trans (countFault_health ..).1
      exact (siteState_of_states hstates x.site).trans (ctx?_inService hctx)
  case again =>
    intro s c addr x hctx hpend hagain hsound hsite
    refine completes_of_run rfl ?_
    obtain ⟨tag, heq⟩ := inPlaceRecompute_faults hctx hpend hagain
    rw [heq]
    exact ⟨siteFault_recovers (d := s.dev.lineBad addr.val) hsound hsite .., siteFault_mem ..⟩
  case swaps =>
    intro s c site p hplan hof hserve hdue hrun hvent hspare hfault hlen
    refine completes_of_run rfl ?_
    obtain ⟨v, hv, heq⟩ := overdueSwap_swaps hplan hof hserve hdue hrun hvent hspare hfault
    rw [heq]
    refine ⟨siteState_setSiteState_same (s.dev.modPlan p.handle _) .recovering (lt_of_lt_of_eq site.isLt hlen.symm), rfl, ?_⟩
    rw [Dev.modHealth, List.getLast?_concat]
    exact congrArg some hv
  case waits =>
    intro s c site p hplan hof hserve hdue hrun hvent hspare hnoted hlogs
    refine completes_of_run rfl ?_
    have hlogs' : (s.dev.swapNoted site.val).logs := hlogs
    rw [overdueSwap_waits hplan hof hserve hdue hrun hvent hspare, noSwap_notes hnoted]
    refine ⟨?_, writeRecord_logged_as hlogs' rfl, writeRecord_plans .., writeRecord_mem ..⟩
    rw [siteState_of_states (writeRecord_siteStates ..)]
    exact hserve

end Sys2Proof.Machine
end

section
/-! PROOF. Receiving and sending one flit (R313, R314, R316, R320, R321, R324, R332): O39. -/

namespace Sys2Proof.Machine

/-! ### Ports -/

theorem modPort_modPort (d : Dev) (p : Nat) (f g : Port → Port) : (d.modPort p f).modPort p g = d.modPort p (g ∘ f) := by
  simp only [Dev.modPort, List.modify_modify_eq]

theorem modPort_congr {d : Dev} {p : Nat} {f g : Port → Port} (h : f (d.port p) = g (d.port p)) : d.modPort p f = d.modPort p g := by
  rw [Dev.modPort, Dev.modPort, modify_congr_getD {} h]

/-- OWNED settled over all ports changes that field of a port alone; a port whose NAK waits, or one that has resent, is OWNED. -/
theorem settleOwned_port {d : Dev} {p : Nat} (h : p < d.lnk.ports.length) : ∃ o, d.settleOwned.port p = { d.port p with owned := o } ∧
    ((d.port p).nakAt.isSome = true → o = true) ∧ ((d.port p).resentAt.isSome = true → o = true) := by
  refine ⟨(d.port p).nakAt.isSome || (d.port p).resentAt.isSome || d.movedFrom p ||
    (match (d.port p).failUntil with | some b => !d.reached b | none => false), ?_, fun hnak => by simp [hnak], fun hresent => by simp [hresent]⟩
  have hq : d.lnk.ports[p]? = some (d.port p) := by rw [Dev.port, List.getD_eq_getElem _ _ h, List.getElem?_eq_getElem h]
  have hzip : (d.lnk.ports.zipIdx)[p]? = some (d.port p, p) := by simp [List.getElem?_zipIdx, hq]
  rw [Dev.port, List.getD_eq_getElem?_getD, Dev.settleOwned, List.getElem?_map, hzip]
  rfl

theorem settleOwned_inbox (d : Dev) : d.settleOwned.lnk.inbox = d.lnk.inbox := rfl

/-- A freed place changes what a port owes its partner alone. -/
theorem freePlace_port (d : Dev) (f : Flit) (p : Nat) : ∃ fr, (d.freePlace f).port p = { d.port p with freed := fr } := by
  unfold Dev.freePlace
  split
  case h_2 => exact ⟨_, rfl⟩
  case h_1 q k _ =>
    by_cases hp : q = p
    · subst hp
      by_cases hlen : q < d.lnk.ports.length
      · exact ⟨_, port_modPort_same d _ hlen⟩
      · refine ⟨(d.port q).freed, ?_⟩
        rw [Dev.port, Dev.port, Dev.modPort, List.modify_eq_self (by omega)]
    · exact ⟨(d.port p).freed, port_modPort_other d _ hp⟩

/-- A flit that leaves stands last on the lanes, with its type, its SEQ, its body and its credits. -/
theorem stampLast_sent {q old : Port} {f : Flit} (h : q.sent = old.sent ++ [f]) : ∃ spare mark,
    (q.stampLast old).sent.getLast? = some { f with spare := spare, mark := mark } := by
  refine ⟨old.spareCarries, old.laneMark, ?_⟩
  rw [Port.stampLast, h, List.take_left, List.drop_left, List.map_singleton, List.getLast?_concat]

theorem stampLast_keeps (q old : Port) : (q.stampLast old).credits = q.credits ∧ (q.stampLast old).bulkTx = q.bulkTx ∧ (q.stampLast old).txSeq = q.txSeq ∧
    (q.stampLast old).replay = q.replay ∧ (q.stampLast old).freed = q.freed ∧ (q.stampLast old).ackAt = q.ackAt := ⟨rfl, rfl, rfl, rfl, rfl, rfl⟩

/-- A sequenced flit as it goes out: under the next SEQ, link control with the places freed. -/
def Port.sequenced (q : Port) (f : Flit) : Flit :=
  { f with seq := q.txSeq, ack := q.rxNext - 1, via := none, credit := if f.type = 2 then q.freed else [] }

theorem sendNew_fields (q : Port) (f : Flit) : (q.sendNew f).txSeq = q.txSeq + 1 ∧ (q.sendNew f).replay = q.replay ++ [q.sequenced f] ∧
    (q.sendNew f).sent = q.sent ++ [q.sequenced f] ∧ (q.sendNew f).freed = (if f.type = 2 then List.replicate 4 0 else q.freed) := ⟨rfl, rfl, rfl, rfl⟩

/-- What a sequenced flit that leaves changes at its port. -/
theorem sends_sequenced {q r : Port} {f : Flit} (hsent : r.sent = q.sent) : ((r.sendNew f).stampLast q).txSeq = r.txSeq + 1 ∧
    ((r.sendNew f).stampLast q).sent.getLast?.map (fun g : Flit => (g.type, g.seq, g.body, g.credit)) =
      some (f.type, r.txSeq, f.body, if f.type = 2 then r.freed else []) ∧
    ((r.sendNew f).stampLast q).replay.getLast?.map (·.seq) = some r.txSeq := by
  obtain ⟨hseq, hreplay, hlast, -⟩ := sendNew_fields r f
  obtain ⟨spare, mark, hstamp⟩ := stampLast_sent (q := r.sendNew f) (old := q) (f := r.sequenced f) (by rw [hlast, hsent])
  obtain ⟨-, -, htx, hkept, -, -⟩ := stampLast_keeps (r.sendNew f) q
  refine ⟨htx.trans hseq, ?_, ?_⟩
  · rw [hstamp]
    rfl
  · rw [hkept, hreplay, List.getLast?_concat]
    rfl

/-! ### Receiving (R314, R316) -/

/-- A flit counted with the codeword that begins under it. -/
def Port.counts (q : Port) (decoded bad : Bool) : Port :=
  { q.takeCodeword decoded [] with crcErr := if bad then satInc q.crcErr else q.crcErr }

/-- A good flit counted at its port, with its acknowledgement. -/
def Port.accepts (q : Port) (f : Flit) : Port := (({ q with flitsRx := satInc q.flitsRx }).takeMark f).acked f.ack

/-- The port after a good flit in order. -/
def Port.takes (q : Port) (f : Flit) : Port :=
  ({ (q.counts true false).accepts f with rxNext := ((q.counts true false).accepts f).rxNext + 1, nakAt := none, rxFails := 0 }).refill f.credit

/-- The port after a flit that does not decode where no NAK waits. -/
def Dev.refused (d : Dev) (q : Port) : Port :=
  { (q.counts false false).enqueue { type := 2, dest := (q.counts false false).nbr, src := d.coord, body := .nak q.rxNext } with
    nakAt := some d.now, rxFails := 0 }

theorem takeCodeword_fecUe (q : Port) : (q.takeCodeword false []).fecUe = if q.rxPos.val = 0 ∨ q.rxPos.val = 2 then satInc q.fecUe else q.fecUe := by
  by_cases h : q.rxPos.val = 0 ∨ q.rxPos.val = 2
  · rw [if_pos h, Port.takeCodeword, if_pos (by simpa using h)]
    rfl
  · rw [if_neg h, Port.takeCodeword, if_neg (by simpa using h)]

theorem takeCodeword_keeps (q : Port) (decoded : Bool) (ce : List Nat) : (q.takeCodeword decoded ce).rxNext = q.rxNext ∧
    (q.takeCodeword decoded ce).flitsRx = q.flitsRx ∧ (q.takeCodeword decoded ce).nakAt = q.nakAt ∧ (q.takeCodeword decoded ce).linkTx = q.linkTx ∧
    (q.takeCodeword decoded ce).credits = q.credits ∧ (q.takeCodeword decoded ce).state = q.state := by
  unfold Port.takeCodeword
  dsimp only
  split <;> exact ⟨rfl, rfl, rfl, rfl, rfl, rfl⟩

theorem refused_fields (d : Dev) (q : Port) : (d.refused q).rxNext = q.rxNext ∧
    (d.refused q).fecUe = (if q.rxPos.val = 0 ∨ q.rxPos.val = 2 then satInc q.fecUe else q.fecUe) ∧ (d.refused q).nakAt = some d.now ∧
    (d.refused q).linkTx.getLast?.map (·.body) = some (.nak q.rxNext) := by
  obtain ⟨hnext, -, -, -, -, -⟩ := takeCodeword_keeps q false []
  refine ⟨hnext, takeCodeword_fecUe q, rfl, ?_⟩
  simp [Dev.refused, Port.enqueue]

theorem takeMark_keeps (q : Port) (f : Flit) : (q.takeMark f).rxNext = q.rxNext ∧ (q.takeMark f).flitsRx = q.flitsRx ∧
    (q.takeMark f).credits = q.credits := by
  unfold Port.takeMark
  split <;> exact ⟨rfl, rfl, rfl⟩

theorem accepts_keeps (q : Port) (f : Flit) : (q.accepts f).rxNext = q.rxNext ∧ (q.accepts f).flitsRx = satInc q.flitsRx ∧
    (q.accepts f).credits = q.credits := takeMark_keeps { q with flitsRx := satInc q.flitsRx } f

theorem takes_fields (q : Port) (f : Flit) : (q.takes f).rxNext = q.rxNext + 1 ∧ (q.takes f).flitsRx = satInc q.flitsRx ∧ (q.takes f).nakAt = none ∧
    (q.takes f).credits = (q.credits.zipIdx).map (fun x => x.1 + f.credit.getD x.2 0) := by
  obtain ⟨hnext, hrx, -, -, hcredits, -⟩ := takeCodeword_keeps q true []
  obtain ⟨hnext', hrx', hcredits'⟩ := accepts_keeps (q.counts true false) f
  refine ⟨?_, ?_, rfl, ?_⟩
  · exact congrArg (· + 1) (hnext'.trans hnext)
  · exact hrx'.trans (congrArg satInc hrx)
  · exact congrArg (fun c : List Nat => (c.zipIdx).map (fun x => x.1 + f.credit.getD x.2 0)) (hcredits'.trans hcredits)

section
variable {d : Dev} {port : Fin 24} {f : Flit} (hup : (d.port port.val).state = .up)
include hup

/-- A good flit in order is taken. -/
theorem flitReceive_takes (hgood : (d.port port.val).codewordGood true = true) (htype : f.type = 1 ∨ f.type = 2)
    (hseq : f.seq = (d.port port.val).rxNext) :
    flitReceive port true true true [] f d = ((d.modPort port.val (·.takes f)).takeFlit port.val f).settleOwned := by
  have hlt := lt_of_port_up hup
  have hnext : (((d.modPort port.val (·.counts true false)).modPort port.val (·.accepts f)).port port.val).rxNext = (d.port port.val).rxNext := by
    rw [modPort_modPort, port_modPort_same d _ hlt]
    exact (accepts_keeps _ f).1.trans (takeCodeword_keeps ..).1
  have hsequenced : (f.type == 1 || f.type == 2 || f.type == 4) = true ∧ f.type ≤ 5 := by
    obtain h | h := htype <;> simp [h]
  obtain ⟨hsequenced, hle⟩ := hsequenced
  have htakes : ((d.modPort port.val (·.counts true false)).modPort port.val (·.accepts f)).modPort port.val
      (fun q => ({ q with rxNext := q.rxNext + 1, nakAt := none, rxFails := 0 }).refill f.credit) = d.modPort port.val (·.takes f) := by
    rw [modPort_modPort, modPort_modPort]
    rfl
  unfold flitReceive
  rw [if_neg (by simp [hup]), hgood]
  refine (if_neg (by simp [hle])).trans ((if_neg (by simp [hsequenced])).trans ((if_pos (hseq.trans hnext.symm)).trans ?_))
  exact congrArg (fun e : Dev => (e.takeFlit port.val f).settleOwned) htakes

/-- A flit whose codeword does not decode brings a NAK where none waits. -/
theorem flitReceive_refuses {delimOk crcOk : Bool} (hbad : (d.port port.val).codewordGood false = false) (hnak : (d.port port.val).nakAt = none) :
    flitReceive port false delimOk crcOk [] f d =
      (d.modPort port.val (d.refused ·)).settleOwned := by
  have hlt := lt_of_port_up hup
  have hnak' : ((d.modPort port.val (·.counts false false)).port port.val).nakAt = none := by
    rw [port_modPort_same d _ hlt]
    exact (takeCodeword_keeps ..).2.2.1.trans hnak
  have hbadFlit : (d.modPort port.val (·.counts false false)).flitBad port.val = d.modPort port.val (d.refused ·) := by
    simp only [Dev.flitBad, hnak', Dev.linkControl, modPort_modPort]
    refine modPort_congr ?_
    have hnext : ((d.modPort port.val (·.counts false false)).port port.val).rxNext = (d.port port.val).rxNext := by
      rw [port_modPort_same d _ hlt]
      exact (takeCodeword_keeps ..).1
    rw [hnext]
    rfl
  unfold flitReceive
  rw [if_neg (by simp [hup]), hbad]
  exact (if_pos (by simp)).trans (congrArg Dev.settleOwned hbadFlit)

end

/-- A sequenced flit that is taken goes to the inbox, with its place in the receive buffer, or is link control for the credits alone. -/
theorem takeFlit_data {d : Dev} {p : Nat} {f : Flit} {bs : List Byte} (htype : f.type = 1) (hdest : f.dest = d.coord) (hbody : f.body = .data bs) :
    d.takeFlit p f = { d with lnk := { d.lnk with inbox := d.lnk.inbox ++ [(p, { f with via := some (p, b2n f.vc) })] } } := by
  have hplace : f.place = some (b2n f.vc) := by simp [Flit.place, htype]
  simp only [Dev.takeFlit, hbody, hdest, hplace, Option.map_some, BEq.rfl, Bool.or_true, if_true]

theorem takeFlit_ack {d : Dev} {p : Nat} {f : Flit} (hbody : f.body = .ack) : d.takeFlit p f = d := by
  simp only [Dev.takeFlit, hbody]

/-! ### Sending (R320, R321) -/

/-- A port after it has sent a flit by `g`. -/
def Dev.sends (d : Dev) (p : Nat) (g : Port → Port) : Dev := d.modPort p (fun q => (g q).stampLast q)

theorem sends_port {d : Dev} {p : Nat} (h : p < d.lnk.ports.length) (g : Port → Port) : (d.sends p g).port p = (g (d.port p)).stampLast (d.port p) :=
  port_modPort_same d _ h

section
variable {d : Dev} {port : Fin 24} {f : Flit} (hup : (d.port port.val).state = .up)
include hup

theorem flitBoundary_marker {m : Marker} (hmark : (d.port port.val).markTx = some f) (hbody : f.body = .marker m) : flitBoundary port d =
    d.sends port.val (fun q => { q with markTx := none, sent := q.sent ++ [{ f with body := .marker { m with ts := d.now }, ack := q.rxNext - 1 }] }) := by
  simp only [flitBoundary, hup, bne_self_eq_false, Bool.false_eq_true, if_false, hmark, hbody]
  rfl

variable (hmark : (d.port port.val).markTx = none) (hlink : (d.port port.val).linkTx = [])
include hmark hlink

theorem flitBoundary_acks (hroom : (d.port port.val).replay.length < 2048) (hdue : 1 ≤ d.since (d.port port.val).ackAt) : flitBoundary port d =
    d.sends port.val (fun q => ({ q with ackAt := d.bt.beat }).sendNew { type := 2, dest := q.nbr, src := d.coord, body := .ack }) := by
  have hready : (decide ((d.port port.val).replay.length < 2048) && decide (1 ≤ d.since (d.port port.val).ackAt)) = true := by simp [hroom, hdue]
  simp only [flitBoundary, hup, bne_self_eq_false, Bool.false_eq_true, if_false, hmark, hlink, hready, if_true]
  rfl

variable (hresend : (d.port port.val).resend = []) (hctl : (d.port port.val).ctlTx = []) (hnow : d.since (d.port port.val).ackAt = 0)
include hresend hctl hnow

theorem flitBoundary_bulk {rest : List Flit} (hbulk : (d.port port.val).bulkTx = f :: rest) (htype : f.type = 1)
    (hcredit : 0 < (d.port port.val).credits.getD (b2n f.vc) 0) (hroom : (d.port port.val).replay.length < 2048) : flitBoundary port d =
    (d.sends port.val (fun q => ({ q with bulkTx := rest }).sendData f)).freePlace f := by
  have hready : decide (1 ≤ d.since (d.port port.val).ackAt) = false := by simp [hnow]
  have hplace : f.place = some (b2n f.vc) := by simp [Flit.place, htype]
  simp only [flitBoundary, hup, bne_self_eq_false, Bool.false_eq_true, if_false, hmark, hlink, hready, Bool.and_false, hresend, hctl, hbulk, hroom, decide_true, if_true,
    Port.firstReady, hplace, hcredit]
  rfl

theorem flitBoundary_idle (hnone : (d.port port.val).firstReady (d.port port.val).bulkTx = none) : ∃ n, flitBoundary port d =
    d.draw.2.sends port.val (fun q => { q with sent := q.sent ++ [{ type := 0, seq := n, ack := q.rxNext - 1, body := .idle }] }) := by
  have hready : decide (1 ≤ d.since (d.port port.val).ackAt) = false := by simp [hnow]
  refine ⟨Config.idleSeq d.free, ?_⟩
  simp only [flitBoundary, hup, bne_self_eq_false, Bool.false_eq_true, if_false, hmark, hlink, hready, Bool.and_false, hresend, hctl, hnone, Port.firstReady, ite_self]
  rfl

end

theorem sendData_bulk {q : Port} {f : Flit} (htype : f.type = 1) (rest : List Flit) :
    ({ q with bulkTx := rest }).sendData f = ({ q with bulkTx := rest, credits := q.credits.modify (b2n f.vc) (· - 1) }).sendNew f := by
  have hplace : f.place = some (b2n f.vc) := by simp [Flit.place, htype]
  simp only [Port.sendData, hplace]

/-- What an idle flit that leaves changes at its port. -/
theorem sends_idle {q : Port} {f : Flit} (htype : f.type = 0) (hbody : f.body = .idle) :
    (({ q with sent := q.sent ++ [f] }).stampLast q).sent.getLast?.map (fun g : Flit => (g.type, g.body)) = some (0, .idle) := by
  obtain ⟨spare, mark, hsent⟩ := stampLast_sent (q := { q with sent := q.sent ++ [f] }) (old := q) (f := f) rfl
  rw [hsent, ← htype, ← hbody]
  rfl

/-! ### On the lanes (R312, R313) -/

theorem head_eq (f : Flit) (k : Nat) : ∃ h : List Byte, h.length = 12 ∧ f.head k = h ++ (f.data k ++ List.replicate (240 - (f.data k).length) 0) := by
  refine ⟨[BitVec.ofNat 8 (f.type * 16 + b2n f.vc * 8 + b2n f.first * 4 + b2n f.last * 2), BitVec.ofNat 8 (f.data k).length] ++
    bytesLE 2 f.seq.toNat ++ bytesLE 2 f.ack.toNat ++ bytesLE 2 f.dest.toNat ++ bytesLE 2 f.src.toNat ++ bytesLE 2 f.channel.toNat, ?_, ?_⟩
  · simp [length_bytesLE]
  · simp [Flit.head]

section
variable {f : Flit} {k : Nat} (h : (f.data k).length ≤ 240)
include h

theorem head_length : (f.head k).length = 252 := by
  obtain ⟨pre, hlen, heq⟩ := head_eq f k
  rw [heq]
  simp only [List.length_append, List.length_replicate, hlen]
  omega

theorem wire_parts : (f.wire k).length = 257 ∧ (f.wire k).take 1 = [0xA5] ∧
    (f.wire k).drop 253 = bytesLE 4 (crc32 (((f.wire k).drop 1).take 252)).toNat ∧ ((f.wire k).drop 13).take (f.data k).length = f.data k := by
  have hhead := head_length h
  obtain ⟨pre, hlen, heq⟩ := head_eq f k
  have hinner : ((f.wire k).drop 1).take 252 = f.head k := by
    rw [Flit.wire, List.append_assoc, List.singleton_append, List.drop_one, List.tail_cons, ← hhead, List.take_left]
  refine ⟨?_, rfl, ?_, ?_⟩
  · simp [Flit.wire, hhead, length_bytesLE]
  · rw [hinner, Flit.wire]
    exact List.drop_left' (by simp [hhead])
  · have hwire : f.wire k = (([0xA5] ++ pre) ++ f.data k) ++ (List.replicate (240 - (f.data k).length) 0 ++ bytesLE 4 (crc32 (f.head k)).toNat) := by
      simp [Flit.wire, heq]
    have hpre : ([0xA5] ++ pre : List Byte).length = 13 := by simp [hlen]
    rw [hwire, List.append_assoc _ (f.data k), List.drop_left' hpre, List.take_left]

end

/-- Settles O39: what one flit changes at the port that takes it or sends it. -/
theorem flitsAreTakenOrRefused : Obligations.FlitsAreTakenOrRefused := by
  unfold Obligations.FlitsAreTakenOrRefused
  refine ⟨?data, ?bad, ?marker, ?bulk, ?waits, ?acks, ?ack, ?idle, ?wire⟩
  case data =>
    intro s port f bs hup hgood htype hseq hdest hbody
    refine completes_of_run rfl ?_
    have hlt := lt_of_port_up hup
    obtain ⟨hnext, hrx, hnak, -⟩ := takes_fields (s.dev.port port.val) f
    have htaken := takeFlit_data (d := s.dev.modPort port.val (·.takes f)) (p := port.val) htype hdest hbody
    obtain ⟨o, hport, -⟩ := settleOwned_port (d := (s.dev.modPort port.val (·.takes f)).takeFlit port.val f) (p := port.val)
      (by rw [htaken]; simpa [Dev.modPort] using hlt)
    have hsame : ((s.dev.modPort port.val (·.takes f)).takeFlit port.val f).port port.val = (s.dev.port port.val).takes f := by
      rw [htaken]
      exact port_modPort_same s.dev _ hlt
    rw [flitReceive_takes hup hgood (.inl htype) hseq, hport, hsame, settleOwned_inbox]
    refine ⟨?_, hnext, hrx, hnak, ?_⟩
    · rw [htaken]
      rfl
    · exact Eq.trans ((settleOwned_only ..).same .mem rfl) ((takeFlit_only ..).same .mem rfl)
  case bad =>
    intro s port delimOk crcOk f hup hbad hnak
    refine completes_of_run rfl ?_
    have hlt := lt_of_port_up hup
    obtain ⟨hnext, hue, hnakAt, hlink⟩ := refused_fields s.dev (s.dev.port port.val)
    rw [flitReceive_refuses hup hbad hnak]
    obtain ⟨o, hport, howned, -⟩ := settleOwned_port (d := s.dev.modPort port.val (s.dev.refused ·)) (p := port.val) (by simpa [Dev.modPort] using hlt)
    rw [port_modPort_same s.dev _ hlt] at hport howned
    rw [hport, settleOwned_inbox]
    exact ⟨rfl, hnext, hue, hnakAt, hlink, howned (by rw [hnakAt]; rfl), (settleOwned_only _).same .mem rfl⟩
  case marker =>
    intro s port f m hup hmark hbody
    refine completes_of_run rfl ?_
    have hlt := lt_of_port_up hup
    rw [flitBoundary_marker hup hmark hbody, sends_port hlt]
    obtain ⟨spare, mark, hsent⟩ := stampLast_sent (q := { s.dev.port port.val with
      markTx := none, sent := (s.dev.port port.val).sent ++ [{ f with body := .marker { m with ts := s.dev.now }, ack := (s.dev.port port.val).rxNext - 1 }] }) rfl
    rw [hsent]
    exact ⟨rfl, rfl, rfl, rfl⟩
  case bulk =>
    intro s port f rest hup hmark hlink hresend hctl hbulk htype hcredit hroom hnow
    refine completes_of_run rfl ?_
    have hlt := lt_of_port_up hup
    rw [flitBoundary_bulk hup hmark hlink hresend hctl hnow hbulk htype hcredit hroom]
    obtain ⟨fr, hport⟩ := freePlace_port (s.dev.sends port.val (fun q => ({ q with bulkTx := rest }).sendData f)) f port.val
    rw [sends_port hlt, sendData_bulk htype] at hport
    rw [hport]
    generalize hq : s.dev.port port.val = q
    obtain ⟨hseq, hsent, hreplay⟩ := sends_sequenced (q := q) (r := { q with bulkTx := rest, credits := q.credits.modify (b2n f.vc) (· - 1) }) (f := f) rfl
    exact ⟨rfl, rfl, hseq, by simpa using congrArg (Option.map (fun g : Nat × BitVec 16 × Body × List Nat => g.2.1)) hsent, hreplay,
      by simpa using congrArg (Option.map (fun g : Nat × BitVec 16 × Body × List Nat => g.2.2.1)) hsent⟩
  case waits =>
    intro s port f hup hmark hlink hresend hctl hbulk htype hcredit hnow
    refine completes_of_run rfl ?_
    have hlt := lt_of_port_up hup
    have hnone : (s.dev.port port.val).firstReady (s.dev.port port.val).bulkTx = none := by
      have hplace : f.place = some (b2n f.vc) := by simp [Flit.place, htype]
      simp only [hbulk, Port.firstReady, hplace, hcredit, Nat.lt_irrefl, decide_false, Bool.false_eq_true, if_false, Option.map_none]
    obtain ⟨n, heq⟩ := flitBoundary_idle hup hmark hlink hresend hctl hnow hnone
    rw [heq, sends_port (d := s.dev.draw.2) hlt]
    have hsent := sends_idle (q := s.dev.port port.val) (f := { type := 0, seq := n, ack := (s.dev.port port.val).rxNext - 1, body := .idle }) rfl rfl
    exact ⟨hbulk, rfl, rfl, hsent⟩
  case acks =>
    intro s port hup hmark hlink hroom hdue
    refine completes_of_run rfl ?_
    have hlt := lt_of_port_up hup
    rw [flitBoundary_acks hup hmark hlink hroom hdue, sends_port hlt]
    generalize s.dev.port port.val = q
    obtain ⟨-, hsent, -⟩ := sends_sequenced (q := q) (r := { q with ackAt := s.dev.bt.beat })
      (f := { type := 2, dest := q.nbr, src := s.dev.coord, body := .ack }) rfl
    exact ⟨by simpa using congrArg (Option.map (fun g : Nat × BitVec 16 × Body × List Nat => (g.1, g.2.2.1, g.2.2.2))) hsent, rfl, rfl⟩
  case ack =>
    intro s port f hup hgood htype hseq hbody
    refine completes_of_run rfl ?_
    have hlt := lt_of_port_up hup
    obtain ⟨hnext, -, -, hcredits⟩ := takes_fields (s.dev.port port.val) f
    obtain ⟨o, hport, -⟩ := settleOwned_port (d := s.dev.modPort port.val (·.takes f)) (p := port.val) (by simpa [Dev.modPort] using hlt)
    rw [flitReceive_takes hup hgood (.inr htype) hseq, takeFlit_ack hbody, hport, port_modPort_same s.dev _ hlt]
    exact ⟨hcredits, hnext, rfl⟩
  case idle =>
    intro s port hup hmark hlink hresend hctl hbulk hnow
    refine completes_of_run rfl ?_
    have hlt := lt_of_port_up hup
    have hnone : (s.dev.port port.val).firstReady (s.dev.port port.val).bulkTx = none := by simp [hbulk, Port.firstReady]
    obtain ⟨n, heq⟩ := flitBoundary_idle hup hmark hlink hresend hctl hnow hnone
    rw [heq, sends_port (d := s.dev.draw.2) hlt]
    have hsent := sends_idle (q := s.dev.port port.val) (f := { type := 0, seq := n, ack := (s.dev.port port.val).rxNext - 1, body := .idle }) rfl rfl
    exact ⟨hsent, rfl, rfl⟩
  case wire =>
    exact fun f k h => wire_parts h

end Sys2Proof.Machine
end

section
/-! PROOF. Replay, the spare lane, failover, rerouting and retraining (R315 to R317, R326 to R328): O40. -/

namespace Sys2Proof.Machine

/-! ### A routed flit and the ports -/

theorem lt_of_port_state {d : Dev} {p : Nat} (h : (d.port p).state ≠ .disabled) : p < d.lnk.ports.length := by
  by_contra hp
  rw [Dev.port, List.getD_eq_default _ _ (by omega)] at h
  exact h rfl

theorem lt_modPort {d : Dev} {p : Nat} (h : p < d.lnk.ports.length) (o : Nat) (f : Port → Port) : p < (d.modPort o f).lnk.ports.length := by
  simpa [Dev.modPort] using h

theorem port_of_ports {d e : Dev} (h : e.lnk.ports = d.lnk.ports) (p : Nat) : e.port p = d.port p := congrArg (·.getD p {}) h

theorem ports_length_of_sizes {d e : Dev} (h : e.sizes = d.sizes) : e.lnk.ports.length = d.lnk.ports.length :=
  Option.some.inj (congrArg (fun l => l[8]?) h)

theorem setLnkEvent_ports (d : Dev) (i : Nat) : (d.setLnkEvent i).lnk.ports = d.lnk.ports := rfl

theorem dequeue_port (d : Dev) (f : Flit) (rest : List (Nat × Flit)) (p : Nat) : ∃ fr, (d.dequeue f rest).port p = { d.port p with freed := fr } :=
  freePlace_port _ f p

theorem upOf_up {d : Dev} {dir p : Nat} (h : p ∈ d.upOf dir) : (d.port p).state = .up := beq_iff_eq.mp (List.mem_filter.mp h).2

theorem flowPort_is_up {d : Dev} {dir p : Nat} {f : Flit} (h : d.flowPort dir f = some p) : (d.port p).state = .up :=
  upOf_up (List.mem_of_getElem? h)

/-- A routed flit goes behind its class on a port that is up, or it waits, or it frees its place. -/
theorem routeFlit_ports (d : Dev) (from? : Option Nat) (f : Flit) : (d.routeFlit from? f).lnk.ports = (d.freePlace f).lnk.ports ∨
    (d.routeFlit from? f).lnk.ports = d.lnk.ports ∨
    ∃ o g, (d.port o).state = .up ∧ (d.routeFlit from? f).lnk.ports = (d.modPort o (·.enqueue g)).lnk.ports := by
  unfold Dev.routeFlit
  split
  case h_1 => exact .inl rfl
  case h_2 dir0 _ =>
    dsimp only
    split
    case h_1 => exact .inr (.inl rfl)
    case h_2 o hheld =>
      refine .inr (.inr ⟨o, _, ?_, rfl⟩)
      rw [Option.orElse_eq_some] at hheld
      obtain hheld | ⟨-, hflow⟩ := hheld
      · rw [Option.orElse_eq_some] at hheld
        obtain hkept | ⟨-, hheld⟩ := hheld
        · simp only [Option.filter_eq_some_iff, Bool.and_eq_true, beq_iff_eq] at hkept
          exact hkept.2.2
        · exact heldPort_up hheld
      · exact flowPort_is_up hflow

/-- A port that is not up keeps all but its freed places. -/
theorem routeFlit_down {d : Dev} {p : Nat} (h : (d.port p).state ≠ .up) (from? : Option Nat) (f : Flit) :
    ∃ fr, (d.routeFlit from? f).port p = { d.port p with freed := fr } := by
  obtain hfree | hsame | ⟨o, g, hup, henq⟩ := routeFlit_ports d from? f
  · rw [port_of_ports hfree]
    exact freePlace_port d f p
  · exact ⟨_, port_of_ports hsame p⟩
  · refine ⟨(d.port p).freed, ?_⟩
    rw [port_of_ports henq]
    exact port_modPort_other d _ (fun heq => h (heq ▸ hup))

/-- What training sets at a port and no flit changes. -/
def Port.tally (q : Port) : PortState × BitVec 48 × Nat := (q.state, q.crcErr, q.failures)

theorem enqueue_tally (q : Port) (f : Flit) : (q.enqueue f).tally = q.tally := by
  unfold Port.enqueue
  split <;> rfl

theorem modPort_tally (d : Dev) (o : Nat) {g : Port → Port} (hg : ∀ q, (g q).tally = q.tally) (p : Nat) :
    ((d.modPort o g).port p).tally = (d.port p).tally := by
  by_cases hp : o = p
  · subst hp
    by_cases hlen : o < d.lnk.ports.length
    · rw [port_modPort_same d _ hlen, hg]
    · rw [Dev.port, Dev.port, Dev.modPort, List.modify_eq_self (by omega)]
  · rw [port_modPort_other d _ hp]

theorem routeFlit_tally (d : Dev) (from? : Option Nat) (f : Flit) (p : Nat) : ((d.routeFlit from? f).port p).tally = (d.port p).tally := by
  obtain hfree | hsame | ⟨o, g, -, henq⟩ := routeFlit_ports d from? f
  · obtain ⟨fr, hport⟩ := freePlace_port d f p
    rw [port_of_ports hfree, hport]
    rfl
  · rw [port_of_ports hsame]
  · rw [port_of_ports henq, modPort_tally d o (enqueue_tally · g)]

theorem freePlace_lost (d : Dev) (f : Flit) : (d.freePlace f).lnk.lostDirs = d.lnk.lostDirs ∧ (d.freePlace f).lnk.events = d.lnk.events := by
  unfold Dev.freePlace
  split <;> exact ⟨rfl, rfl⟩

theorem routeFlit_lost (d : Dev) (from? : Option Nat) (f : Flit) : (d.routeFlit from? f).lnk.lostDirs = d.lnk.lostDirs ∧
    (d.routeFlit from? f).lnk.events = d.lnk.events := by
  unfold Dev.routeFlit
  split
  case h_1 => exact freePlace_lost d f
  case h_2 =>
    dsimp only
    split <;> exact ⟨rfl, rfl⟩

/-! ### Failover (R317) -/

/-- A port that holds nothing for its partner any more, under LNK_EVENTS bit 2. -/
def Dev.stopped (d : Dev) (p : Nat) (st : PortState) : Prop := (d.port p).state = st ∧ (d.port p).replay = [] ∧ (d.port p).bulkTx = [] ∧ (d.port p).ctlTx = [] ∧
  d.lnk.events.val.getLsbD 2 = true

theorem raise_keeps {w : Nat} {s : Sticky w} {i : Nat} (h : s.val.getLsbD i = true) (bits : BitVec w) : (s.raise bits).val.getLsbD i = true := by
  rw [sticky_raise_val, BitVec.getLsbD_or, h, Bool.true_or]

section
variable {d : Dev} {p : Nat} {st : PortState} (h : d.stopped p st)
include h

theorem stopped_of_port {e : Dev} {fr : List Nat} (hport : e.port p = { d.port p with freed := fr }) (hev : e.lnk.events = d.lnk.events) : e.stopped p st := by
  rw [Dev.stopped, hport, hev]
  exact h

theorem stopped_of_lnk {e : Dev} (hlnk : e.lnk = d.lnk) : e.stopped p st := by
  rw [Dev.stopped, Dev.port, hlnk]
  exact h

theorem setLnkEvent_stopped (i : Nat) : (d.setLnkEvent i).stopped p st := by
  obtain ⟨hst, hreplay, hbulk, hctl, hev⟩ := h
  exact ⟨hst, hreplay, hbulk, hctl, raise_keeps hev _⟩

theorem directionLost_stopped (dir : Nat) (unit : BitVec 16) : (d.directionLost dir unit).stopped p st := by
  unfold Dev.directionLost
  split
  case isFalse => exact h
  case isTrue =>
    exact stopped_of_lnk (setLnkEvent_stopped (d := { d with lnk := { d.lnk with lostDirs := d.lnk.lostDirs ++ [(dir, none)] } }) h 3)
      (writeRecord_lnk ..)

theorem modPort_stopped {o : Nat} {g : Port → Port} (hg : o ≠ p ∨ ∀ q : Port,
    (g q).state = q.state ∧ (g q).replay = q.replay ∧ (g q).bulkTx = q.bulkTx ∧ (g q).ctlTx = q.ctlTx) :
    (d.modPort o g).stopped p st := by
  by_cases hp : o = p
  · obtain hne | hkeeps := hg
    · exact absurd hp hne
    · subst hp
      by_cases hlen : o < d.lnk.ports.length
      · obtain ⟨hst, hreplay, hbulk, hctl, hev⟩ := h
        obtain ⟨kst, kreplay, kbulk, kctl⟩ := hkeeps (d.port o)
        rw [Dev.stopped, port_modPort_same d _ hlen]
        exact ⟨kst.trans hst, kreplay.trans hreplay, kbulk.trans hbulk, kctl.trans hctl, hev⟩
      · exact stopped_of_lnk h (by rw [Dev.modPort, List.modify_eq_self (by omega)])
  · exact stopped_of_port h (fr := (d.port p).freed) (port_modPort_other d _ hp) rfl

theorem endOwned_stopped (dir : Nat) : (d.endOwned dir).stopped p st := by
  unfold Dev.endOwned
  split
  case isFalse => exact h
  case isTrue => exact List.foldlRecOn (motive := (Dev.stopped · p st)) _ _ h (fun _ hd _ _ => modPort_stopped hd (.inr fun _ => ⟨rfl, rfl, rfl, rfl⟩))

theorem settleOwned_stopped (hlt : p < d.settleOwned.lnk.ports.length) : d.settleOwned.stopped p st := by
  obtain ⟨o, hport, -, -⟩ := settleOwned_port (lt_of_lt_of_eq hlt (ports_length_of_sizes (settleOwned_sizes d)))
  rw [Dev.stopped, hport]
  exact h

variable (hst : st ≠ .up)
include hst

theorem linkControls_stopped (dir : Nat) (b : Body) : ((d.upOf dir).foldl (fun (d : Dev) o => d.linkControl o b) d).stopped p st :=
  List.foldlRecOn (motive := (Dev.stopped · p st)) _ _ h (fun _ hd _ ho =>
    modPort_stopped hd (.inl fun heq => hst (h.1.symm.trans (heq ▸ upOf_up ho))))

theorem moveFlit_stopped (o : Nat) (f : Flit) : (d.moveFlit o f).stopped p st := by
  have hroute : (d.routeFlit (some o) f).stopped p st := by
    obtain ⟨fr, hport⟩ := routeFlit_down (fun hup => hst (h.1.symm.trans hup)) (some o) f
    exact stopped_of_port h hport (routeFlit_lost d (some o) f).2
  unfold Dev.moveFlit
  split
  case h_1 x r _ hups => exact modPort_stopped h (.inl fun heq => hst (h.1.symm.trans (heq ▸ upOf_up (hups ▸ List.mem_cons_self))))
  case h_2 => exact h
  case h_3 => exact hroute

end

/-- Failover leaves the port with nothing to send, in the state it was to have. -/
theorem failPort_stopped {d : Dev} {p : Nat} {target : PortState} (hlt : p < d.lnk.ports.length) (ht : target ≠ .up) (host : Option HostFence) :
    (d.failPort p target host).stopped p target := by
  have hout := lt_of_lt_of_eq hlt (ports_length_of_sizes (failPort_sizes d p target host)).symm
  unfold Dev.failPort at hout ⊢
  dsimp only at hout ⊢
  have hlen : p < ((d.emptyBuffer p).draw.2.countDeviceFault.2.enterCrater (unitId 4 p) (host.map (fun r => r.1.setWidth 8))).2.lnk.ports.length :=
    lt_of_lt_of_eq hlt (ports_length_of_sizes (by rw [enterCrater_sizes, countDeviceFault_sizes, draw_sizes, emptyBuffer_sizes])).symm
  generalize ((d.emptyBuffer p).draw.2.countDeviceFault.2.enterCrater (unitId 4 p) (host.map (fun r => r.1.setWidth 8))).2 = e at hlen hout ⊢
  refine settleOwned_stopped (endOwned_stopped (directionLost_stopped (List.foldlRecOn (motive := (Dev.stopped · p target)) _ _
    (linkControls_stopped ?base ht _ _) (fun _ hd f _ => moveFlit_stopped hd ht p f)) _ _) _) ?lt
  case base =>
    refine stopped_of_lnk (d := Dev.modPort _ p _) ?_ rfl
    rw [Dev.stopped, port_modPort_same]
    · exact ⟨rfl, rfl, rfl, rfl, getLsbD_raise _ 2 (by decide)⟩
    · rw [setLnkEvent_ports, writeRecord_lnk]
      exact hlen
  case lt => exact hout

/-! ### Replay (R316) -/

section
variable {d : Dev} {port : Fin 24} {f : Flit} {rest : List (Nat × Flit)} (hin : d.lnk.inbox = (port.val, f) :: rest)
include hin

/-- A NAK of a flit that has not been resent makes the port resend from it. -/
theorem nakReceive_resends {q : BitVec 16} (hbody : f.body = .nak q) (hup : (d.port port.val).state = .up)
    (hknown : (d.port port.val).replay.any (fun g => g.seq == q) = true) (hfirst : (d.port port.val).resentAt = none) :
    nakReceive port d = (((d.dequeue f rest).modPort port.val
      (fun r => { r with replay := r.replay.dropWhile (fun g => g.seq != q) })).resendAll port.val).settleOwned := by
  obtain ⟨fr, hport⟩ := dequeue_port d f rest port.val
  have hskip : (((d.dequeue f rest).port port.val).state != .up || !((d.dequeue f rest).port port.val).replay.any (fun g => g.seq == q)) = false := by
    rw [hport]
    simp [hup, hknown]
  have hagain : (((d.dequeue f rest).port port.val).resentAt.isSome && (((d.dequeue f rest).port port.val).replay.head?.map (·.seq)) == some q) = false := by
    rw [hport]
    simp [hfirst]
  unfold nakReceive
  rw [takeInbox_head hin (by simp [hbody])]
  simp only [hbody, hskip, hagain, Bool.false_eq_true, if_false]

/-- A notice of a lane of the partner where none of the port has failed before (R315). -/
theorem laneNotice_eq {l : BitVec 4} (hbody : f.body = .laneNotice l) (hup : (d.port port.val).state = .up) : laneNotice port d =
    if !(d.port port.val).laneLost || (d.port port.val).spareTx = l then
      (d.dequeue f rest).modPort port.val (fun q => { q with spareTx := l, laneMark := true })
    else (d.dequeue f rest).failPort port.val .failed none := by
  obtain ⟨fr, hport⟩ := dequeue_port d f rest port.val
  unfold laneNotice
  rw [takeInbox_head hin (by simp [hbody])]
  simp only [hbody, hport, hup, bne_self_eq_false, Bool.false_eq_true, if_false]
  rfl

theorem portNotice_fails {n : Nat} (hbody : f.body = .portNotice n) (hup : (d.port (partnerPort n)).state = .up) : portNotice port d =
    (d.dequeue f rest).failPort (partnerPort n) .failed none := by
  unfold portNotice
  rw [takeInbox_head hin (by simp [hbody])]
  simp only [hbody, dequeue_state, hup, BEq.rfl, if_true]

end

/-- A failed attempt is counted, and another may start (R316). -/
theorem attemptFailed_port {d : Dev} {p : Nat} (hlt : p < d.lnk.ports.length) : ∃ rs again n,
    (d.attemptFailed p).port p = { d.port p with
      failures := (d.port p).failures + 1, replayFailed := satInc (d.port p).replayFailed, resend := rs, resentAt := again, replays := n } := by
  unfold Dev.attemptFailed
  dsimp only
  have hport : ((d.modPort p (fun q => { q with failures := q.failures + 1, replayFailed := satInc q.replayFailed })).setLnkEvent 1).port p =
      { d.port p with failures := (d.port p).failures + 1, replayFailed := satInc (d.port p).replayFailed } := port_modPort_same d _ hlt
  have hlen : p < ((d.modPort p (fun q => { q with failures := q.failures + 1, replayFailed := satInc q.replayFailed })).setLnkEvent 1).lnk.ports.length :=
    lt_modPort hlt p _
  split
  case isTrue => exact ⟨_, _, _, (port_modPort_same _ _ hlen).trans (by rw [hport])⟩
  case isFalse => exact ⟨_, _, _, hport⟩

theorem attemptFailed_event (d : Dev) (p : Nat) : (d.attemptFailed p).lnk.events.val.getLsbD 1 = true := by
  unfold Dev.attemptFailed
  dsimp only
  split <;> exact getLsbD_raise _ 1 (by decide)

/-! ### The spare lane (R315) -/

/-- A further failed lane of a port fails it. -/
theorem laneFail_fails {d : Dev} {port : Fin 24} {lane : Fin 9} (hup : (d.port port.val).state = .up) (hlost : (d.port port.val).laneLost = true)
    (hspare : ¬ (lane.val = 8 ∧ (d.port port.val).spareLane = 0xE)) (hcarried : (d.port port.val).spareLane ≠ BitVec.ofNat 4 lane.val)
    (hwait : (d.port port.val).laneWait ≠ some (BitVec.ofNat 4 lane.val)) : laneFail port lane true d = d.failPort port.val .failed none := by
  unfold laneFail
  exact (if_neg (by simpa [hup, hcarried, hwait] using hspare)).trans (if_pos hlost)

theorem not_laneLost {q : Port} (h : q.laneLost = false) : q.spareLane = 0xF ∧ q.laneWait = none := by
  simp only [Port.laneLost, Bool.or_eq_false_iff, bne_eq_false_iff_eq, Option.isSome_eq_false_iff, Option.isNone_iff_eq_none] at h
  exact h.1

/-- The first failed data lane waits for its switch, and the partner gets a notice. -/
theorem laneFail_notices {d : Dev} {port : Fin 24} {lane : Fin 9} (hup : (d.port port.val).state = .up) (hlost : (d.port port.val).laneLost = false)
    (hdata : lane.val < 8) : laneFail port lane true d = ((((d.linkControl port.val (.laneNotice (BitVec.ofNat 4 lane.val))).modPort port.val (fun q =>
      { q with laneWait := some (BitVec.ofNat 4 lane.val) })).setLnkEvent 0).laneRecord port.val lane.val) := by
  obtain ⟨hspare, hwait⟩ := not_laneLost hlost
  have hne : ¬ 15#4 = BitVec.ofNat 4 lane.val := by
    intro heq
    have := congrArg BitVec.toNat heq
    rw [BitVec.toNat_ofNat, Nat.mod_eq_of_lt (by omega)] at this
    simp at this
    omega
  unfold laneFail
  exact (if_neg (by simp [hup, hspare, hwait, hne])).trans ((if_neg (by simp [hlost])).trans (if_neg (by omega)))

/-- What the receiver changes at its port under an idle flit. -/
def Port.idles (q : Port) (ce : List Nat) (f : Flit) : Port := ({ q.takeCodeword true ce with crcErr := q.crcErr } : Port).accepts f

theorem takeCodeword_laneWait (q : Port) (decoded : Bool) (ce : List Nat) : (q.takeCodeword decoded ce).laneWait = q.laneWait := by
  unfold Port.takeCodeword
  dsimp only
  split <;> rfl

theorem takeMark_switches {q : Port} {f : Flit} {l : BitVec 4} (hwait : q.laneWait = some l) (hmark : f.mark = true) :
    q.takeMark f = { q with spareLane := l, laneWait := none } := by
  simp only [Port.takeMark, hmark, hwait]

theorem idles_switches {q : Port} {ce : List Nat} {f : Flit} {l : BitVec 4} (hwait : q.laneWait = some l) (hmark : f.mark = true) :
    (q.idles ce f).spareLane = l ∧ (q.idles ce f).laneWait = none ∧ (q.idles ce f).rxNext = q.rxNext := by
  have hwait' : ({ q.takeCodeword true ce with crcErr := q.crcErr, flitsRx := satInc (q.takeCodeword true ce).flitsRx } : Port).laneWait = some l :=
    (takeCodeword_laneWait q true ce).trans hwait
  rw [Port.idles, Port.accepts, takeMark_switches hwait' hmark]
  exact ⟨rfl, rfl, (takeCodeword_keeps q true ce).1⟩

theorem flitReceive_idles {d : Dev} {port : Fin 24} {f : Flit} {ce : List Nat} (hup : (d.port port.val).state = .up)
    (hgood : (d.port port.val).codewordGood true = true) (htype : f.type = 0) (hbody : f.body = .idle) :
    flitReceive port true true true ce f d = (d.modPort port.val (·.idles ce f)).settleOwned := by
  unfold flitReceive
  rw [if_neg (by simp [hup]), hgood]
  refine (if_neg (by simp [htype])).trans ((if_pos (by simp [htype])).trans ?_)
  simp only [Dev.takeFlit, hbody, modPort_modPort]
  rfl

/-- A flit that leaves stands on the lanes with what the spare carried and the mark of a switch. -/
theorem stampLast_marked {q old : Port} {f : Flit} (h : q.sent = old.sent ++ [f]) :
    (q.stampLast old).sent.getLast?.map (fun g => (g.mark, g.spare)) = some (old.laneMark, old.spareCarries) := by
  rw [Port.stampLast, h, List.take_left, List.drop_left, List.map_singleton, List.getLast?_concat]
  rfl

/-- A waiting marker is the next flit, whatever it tells. -/
theorem flitBoundary_waiting {d : Dev} {port : Fin 24} {f : Flit} (hup : (d.port port.val).state = .up) (hmark : (d.port port.val).markTx = some f) :
    ∃ g : Flit, flitBoundary port d = d.sends port.val (fun q => { q with markTx := none, sent := q.sent ++ [{ g with ack := q.rxNext - 1 }] }) := by
  simp only [flitBoundary, hup, bne_self_eq_false, Bool.false_eq_true, if_false, hmark]
  exact ⟨_, rfl⟩

/-! ### Rerouting and retraining (R326, R328) -/

theorem routeFlits_lost (g : Dev → Flit → Option Nat) (l : List Flit) (d : Dev) :
    (l.foldl (fun (d : Dev) f => d.routeFlit (g d f) f) d).lnk.lostDirs = d.lnk.lostDirs :=
  List.foldlRecOn (motive := fun e => e.lnk.lostDirs = d.lnk.lostDirs) _ _ rfl (fun e he f _ => (routeFlit_lost e (g e f) f).1.trans he)

theorem routeFlits_tally (g : Dev → Flit → Option Nat) (l : List Flit) (d : Dev) (p : Nat) :
    ((l.foldl (fun (d : Dev) f => d.routeFlit (g d f) f) d).port p).tally = (d.port p).tally :=
  List.foldlRecOn (motive := fun e => (e.port p).tally = (d.port p).tally) _ _ rfl (fun e he f _ => (routeFlit_tally e (g e f) f p).trans he)

theorem directionBack_tally (d : Dev) (dir p : Nat) : ((d.directionBack dir).port p).tally = (d.port p).tally := by
  unfold Dev.directionBack
  split
  case isTrue => rfl
  case isFalse => exact routeFlits_tally Dev.axisPort _ _ p

/-- The record of a miswired port changes no port (R327). -/
theorem port_miswired (d : Dev) (b : Bool) (u : BitVec 16) (p : Nat) : (if b then
      (if (d.setLnkEvent 4).lnk.inDims (d.setLnkEvent 4).coord then (d.setLnkEvent 4).writeRecord ((d.setLnkEvent 4).mkRec 3 5 0x1405 u) else d.setLnkEvent 4)
    else d).port p = d.port p := by
  split
  case isFalse => rfl
  case isTrue =>
    split
    case isTrue => exact port_of_ports (congrArg Lnk.ports (writeRecord_lnk ..)) p
    case isFalse => rfl

/-- A trained port has the state that its training ends with, its counters cleared. -/
theorem trainPort_tally {d : Dev} {p : Nat} (hlt : p < d.lnk.ports.length) (haxis : d.axisSize (axisOf (dirOf p)) ≠ 1) (t : TrainIn) :
    ((d.trainPort p t).port p).tally = (d.trainResult p t, 0, 0) := by
  unfold Dev.trainPort
  rw [if_neg haxis]
  dsimp only
  rw [port_miswired, port_modPort_same d _ hlt]
  rfl

/-- LKP's detour of a lost direction (R326). -/
def rerouted (n k : Nat) (x : Nat × Option Nat) : Nat × Option Nat := if x.1 == n then (x.1, some k) else x

theorem rerouted_fst (n k : Nat) (x : Nat × Option Nat) : (rerouted n k x).1 = x.1 := by
  unfold rerouted
  split <;> rfl

theorem rerouted_of_eq {n : Nat} (k : Nat) {x : Nat × Option Nat} (h : x.1 = n) : rerouted n k x = (n, some k) := by
  rw [rerouted, if_pos (by simpa using h), h]

theorem rerouted_lost {l : List (Nat × Option Nat)} {n : Nat} (h : l.contains (n, none) = true) (k : Nat) :
    (l.map (rerouted n k)).any (fun x => x.1 == n && x.2.isSome) = true ∧ (l.map (rerouted n k)).contains (n, none) = false ∧
    (l.map (rerouted n k)).map (·.1) = l.map (·.1) := by
  refine ⟨?_, ?_, ?_⟩
  · refine List.any_eq_true.mpr ⟨(n, some k), List.mem_map.mpr ⟨(n, none), by simpa using h, rerouted_of_eq k rfl⟩, by simp⟩
  · simp only [List.contains_eq_mem, List.mem_map, decide_eq_false_iff_not, not_exists, not_and]
    intro x _ hx
    have hfst : x.1 = n := (rerouted_fst n k x).symm.trans (congrArg Prod.fst hx)
    rw [rerouted_of_eq k hfst] at hx
    simp at hx
  · rw [List.map_map]
    exact List.map_congr_left (fun x _ => rerouted_fst n k x)

/-- Settles O40: what each event of a port's replay, lanes and failover leaves at the port. -/
theorem replayLanesAndFailover : Obligations.ReplayLanesAndFailover := by
  unfold Obligations.ReplayLanesAndFailover
  refine ⟨?nak, ?timeout, ?lane, ?marked, ?mark, ?second, ?notice, ?secondNotice, ?fail, ?partner, ?reroute, ?detour, ?retrain⟩
  case nak =>
    intro s port f q rest hin hbody hup hknown hfirst
    refine completes_of_run rfl ?_
    rw [nakReceive_resends hin hbody hup hknown hfirst, Dev.resendAll, modPort_modPort]
    obtain ⟨fr, hport⟩ := dequeue_port s.dev f rest port.val
    have hlt : port.val < (s.dev.dequeue f rest).lnk.ports.length := lt_of_port_state (by rw [hport, hup]; decide)
    obtain ⟨o, hsettled, -, howned⟩ := settleOwned_port (lt_modPort hlt port.val _)
    rw [port_modPort_same _ _ hlt, hport] at hsettled howned
    rw [settleOwned_inbox, hsettled]
    exact ⟨rfl, rfl, congrArg some (congrArg Bt.beat (dequeue_bt ..)), rfl, dequeue_inbox .., howned rfl⟩
  case timeout =>
    intro s port b hres hup hlate hfew
    refine completes_of_run rfl ?_
    have hlt := lt_of_port_up hup
    have heq : replayTimeout port s.dev = (s.dev.attemptFailed port.val).settleOwned := by
      unfold replayTimeout
      rw [hres]
      exact if_pos (by simp [hup, hlate, hfew])
    obtain ⟨rs, again, n, hport⟩ := attemptFailed_port hlt
    obtain ⟨o, hsettled, -, -⟩ := settleOwned_port (d := s.dev.attemptFailed port.val) (p := port.val)
      (lt_of_lt_of_eq hlt (ports_length_of_sizes (attemptFailed_sizes ..)).symm)
    rw [heq, hsettled, hport]
    exact ⟨rfl, rfl, attemptFailed_event .., hup⟩
  case lane =>
    intro s port lane hup hlost hdata
    refine completes_of_run rfl ?_
    have hlt := lt_of_port_up hup
    rw [laneFail_notices hup hlost hdata, Dev.laneRecord, writeRecord_lnk, Dev.linkControl, modPort_modPort,
      port_of_ports (congrArg Lnk.ports (writeRecord_lnk ..)), port_of_ports (setLnkEvent_ports ..), port_modPort_same s.dev _ hlt]
    exact ⟨rfl, (not_laneLost hlost).1, hup, getLsbD_raise _ 0 (by decide), by simp [Port.enqueue]⟩
  case marked =>
    intro s port ce f l hup hgood hwait hmark htype hbody
    refine completes_of_run rfl ?_
    have hlt := lt_of_port_up hup
    rw [flitReceive_idles hup hgood htype hbody]
    obtain ⟨o, hsettled, -, -⟩ := settleOwned_port (lt_modPort hlt port.val (·.idles ce f))
    rw [hsettled, port_modPort_same s.dev _ hlt, settleOwned_inbox]
    obtain ⟨hspare, hnone, hnext⟩ := idles_switches hwait hmark (ce := ce)
    exact ⟨hspare, hnone, hnext, rfl⟩
  case mark =>
    intro s port f hup hmark hlane
    refine completes_of_run rfl ?_
    have hlt := lt_of_port_up hup
    obtain ⟨g, heq⟩ := flitBoundary_waiting hup hmark
    rw [heq, sends_port hlt, stampLast_marked rfl, hlane]
    exact ⟨rfl, rfl⟩
  case second =>
    intro s port lane hup hlost hspare hcarried hwait
    refine completes_of_run rfl ?_
    rw [laneFail_fails hup hlost hspare hcarried hwait]
    exact (failPort_stopped (lt_of_port_up hup) (by decide) none).1
  case notice =>
    intro s port f l rest hin hbody hup hfirst
    refine completes_of_run rfl ?_
    rw [laneNotice_eq hin hbody hup, if_pos (by simpa using hfirst)]
    obtain ⟨fr, hport⟩ := dequeue_port s.dev f rest port.val
    have hlt : port.val < (s.dev.dequeue f rest).lnk.ports.length := lt_of_port_state (by rw [hport, hup]; decide)
    rw [port_modPort_same _ _ hlt, hport]
    exact ⟨rfl, rfl, rfl, hup⟩
  case secondNotice =>
    intro s port f l rest hin hbody hup hlost hother
    refine completes_of_run rfl ?_
    rw [laneNotice_eq hin hbody hup, if_neg (by simp [hlost, hother])]
    exact (failPort_stopped (lt_of_port_state (by rw [dequeue_state, hup]; decide)) (by decide) none).1
  case fail =>
    intro s port hup hfails
    refine completes_of_run rfl ?_
    have heq : portFail port s.dev = s.dev.failPort port.val .failed none := if_pos (by simpa [hup] using hfails)
    rw [heq]
    obtain ⟨hst, hreplay, hbulk, hctl, hev⟩ := failPort_stopped (lt_of_port_up hup) (target := .failed) (by decide) none
    exact ⟨hst, hreplay, hbulk, hctl, hev, failPort_mem ..⟩
  case partner =>
    intro s port f n rest hin hbody hup
    refine completes_of_run rfl ?_
    rw [portNotice_fails hin hbody hup]
    obtain ⟨hst, -, -, -, hev⟩ := failPort_stopped (d := s.dev.dequeue f rest) (target := .failed)
      (lt_of_port_state (by rw [dequeue_state, hup]; decide)) (by decide) none
    exact ⟨hst, hev⟩
  case reroute =>
    intro s dir hrun hlost
    refine completes_of_run rfl ?_
    have hany : s.dev.lnk.lostDirs.any (fun x => x.1 == dir.val) = true :=
      List.any_eq_true.mpr ⟨(dir.val, none), by simpa using hlost, by simp⟩
    have heq : (directionReroute dir s.dev).lnk.lostDirs = s.dev.lnk.lostDirs.map (rerouted dir.val s.dev.free) := by
      unfold directionReroute
      rw [if_neg (by simp [hrun]), if_neg (by simp [hany]), if_pos hlost]
      exact routeFlits_lost Dev.axisPort _ _
    rw [heq]
    exact rerouted_lost hlost s.dev.free
  case detour =>
    intro s dir hrun hkept
    refine completes_of_run rfl ?_
    have heq : directionReroute dir s.dev = { s.dev.draw.2 with lnk := { s.dev.lnk with detour := some s.dev.free } } := by
      unfold directionReroute
      rw [if_neg (by simp [hrun]), if_pos (by simpa [List.any_eq_false] using hkept)]
      rfl
    rw [heq]
    exact ⟨rfl, rfl, rfl, rfl⟩
  case retrain =>
    intro s port t hrun hdom hen hfailed hcrater hlate haxis
    refine completes_of_run rfl ?_
    have hlt : port.val < s.dev.lnk.ports.length := lt_of_port_state (by rw [hfailed]; decide)
    have heq : portRetrain port t s.dev = (s.dev.trainPort port.val t).directionBack (dirOf port.val) := by
      unfold portRetrain
      exact if_pos (by simp [hrun, hdom, hen, hfailed, hcrater, hlate])
    have htally := (directionBack_tally (s.dev.trainPort port.val t) (dirOf port.val) port.val).trans (trainPort_tally hlt haxis t)
    simp only [Port.tally, Prod.mk.injEq] at htally
    rw [heq]
    exact htally

end Sys2Proof.Machine
end

section
/-! PROOF. SEND and RECV: request, match, grant, data, acknowledgement, retry and timeout (R329 to R332): O41. -/

namespace Sys2Proof.Machine

/-! ### The transfers under routing -/

/-- The transfers of the device, which routing leaves. -/
def Lnk.transfers (l : Lnk) : List RecvJob × List SendJob × List ReqEnt × List (BitVec 15 × BitVec 16 × Nat) × List (Nat × Flit) :=
  (l.recvs, l.sends, l.requests, l.excess, l.inbox)

theorem transfers_iff {k l : Lnk} : k.transfers = l.transfers ↔
    k.recvs = l.recvs ∧ k.sends = l.sends ∧ k.requests = l.requests ∧ k.excess = l.excess ∧ k.inbox = l.inbox := by
  simp only [Lnk.transfers, Prod.mk.injEq]

theorem freePlace_transfers (d : Dev) (f : Flit) : (d.freePlace f).lnk.transfers = d.lnk.transfers := by
  unfold Dev.freePlace
  split <;> rfl

theorem routeFlit_transfers (d : Dev) (from? : Option Nat) (f : Flit) : (d.routeFlit from? f).lnk.transfers = d.lnk.transfers := by
  unfold Dev.routeFlit
  split
  case h_1 => exact freePlace_transfers d f
  case h_2 =>
    dsimp only
    split <;> rfl

theorem sendControl_transfers (d : Dev) (dest : BitVec 15) (channel : BitVec 16) (b : Body) :
    (d.sendControl dest channel b).lnk.transfers = d.lnk.transfers := routeFlit_transfers ..

theorem sendBulk_transfers (d : Dev) (dest : BitVec 15) (channel : BitVec 16) (bodies : List Body) :
    (d.sendBulk dest channel bodies).lnk.transfers = d.lnk.transfers :=
  List.foldlRecOn (motive := fun e => e.lnk.transfers = d.lnk.transfers) _ _ rfl (fun e he _ _ => (routeFlit_transfers e none _).trans he)

theorem dequeue_transfers (d : Dev) (f : Flit) (rest : List (Nat × Flit)) : (d.dequeue f rest).lnk.transfers = { d.lnk with inbox := rest }.transfers :=
  freePlace_transfers _ f

/-- What a flit taken from the inbox leaves of the transfers. -/
theorem dequeue_fields (d : Dev) (f : Flit) (rest : List (Nat × Flit)) : (d.dequeue f rest).lnk.recvs = d.lnk.recvs ∧
    (d.dequeue f rest).lnk.sends = d.lnk.sends ∧ (d.dequeue f rest).lnk.requests = d.lnk.requests ∧ (d.dequeue f rest).lnk.excess = d.lnk.excess ∧
    (d.dequeue f rest).lnk.inbox = rest := transfers_iff.mp (dequeue_transfers d f rest)

/-- A flit taken from the inbox and a change of the transfers. -/
theorem dequeue_eq (d : Dev) (f : Flit) (rest : List (Nat × Flit)) : d.dequeue f rest =
    { d.freePlace f with lnk := { (d.freePlace f).lnk with inbox := rest } } := by
  unfold Dev.dequeue Dev.freePlace
  split <;> rfl

/-! ### SENDs in issue order (R329, R332) -/

/-- A SEND to this peer on this channel. -/
def SendJob.goesTo (j : SendJob) (peer : BitVec 15) (channel : BitVec 16) : Bool := j.peer == peer && j.channel == channel

/-- Where no SEND of a channel is ready, none makes its request. -/
theorem requestNext_none {d : Dev} {peer : BitVec 15} {channel : BitVec 16}
    (h : ∀ j ∈ d.lnk.sends, j.goesTo peer channel = true → j.state ≠ .ready) : d.requestNext peer channel = d := by
  have hnone : d.lnk.sends.findIdx? (fun j => (j.peer == peer && j.channel == channel) && j.state == .ready) = none := by
    rw [List.findIdx?_eq_none_iff]
    intro j hj
    have := h j hj
    simp only [SendJob.goesTo] at this
    simpa using this
  unfold Dev.requestNext
  simp only [hnone]
  split
  case h_1 hsome => cases hsome
  case h_2 => rfl

/-- The first ready SEND of a channel makes its request where no other waits for its grant. -/
theorem requestNext_second {d : Dev} {j k : SendJob} {ks : List SendJob} (hsends : d.lnk.sends = j :: k :: ks) (hj : j.state = .sent)
    (hready : (k :: ks).all (fun i => i.state == .ready) = true) : (d.requestNext k.peer k.channel).lnk.sends = j :: { k with state := .requested } :: ks := by
  have hall : ∀ i ∈ k :: ks, i.state = .ready := fun i hi => beq_iff_eq.mp (List.all_eq_true.mp hready i hi)
  have hk := hall k List.mem_cons_self
  have hfirst : (j :: k :: ks).findIdx? (fun i => (i.peer == k.peer && i.channel == k.channel) && i.state == .ready) = some 1 := by
    simp [List.findIdx?_cons, hj, hk]
  unfold Dev.requestNext
  dsimp only
  rw [hsends, hfirst, List.any_eq_false.mpr ?quiet]
  case quiet =>
    intro i hi
    obtain rfl | hi := List.mem_cons.mp hi
    · simp [hj]
    · simp [hall i hi]
  refine (transfers_iff.mp (sendControl_transfers ..)).2.1.trans ?_
  rw [modSend_lnk]
  simp [hsends]

/-! ### The steps of a transfer -/

/-- The machine with other posted RECVs. -/
def Dev.withRecvs (d : Dev) (rs : List RecvJob) : Dev := { d with lnk := { d.lnk with recvs := rs } }

theorem withRecvs_reaches (d : Dev) (rs : List RecvJob) (dest : BitVec 15) : (d.withRecvs rs).reaches dest = d.reaches dest := rfl

theorem withRecvs_transfers (d : Dev) (rs : List RecvJob) : (d.withRecvs rs).lnk.recvs = rs ∧ (d.withRecvs rs).lnk.inbox = d.lnk.inbox := ⟨rfl, rfl⟩

section
variable {d : Dev} {p : Nat} {f : Flit} {rest : List (Nat × Flit)} (hin : d.lnk.inbox = (p, f) :: rest)
include hin

/-- A request of a peer meets the first RECV that waits for it. -/
theorem sendRequest_matches {n : Nat} {j : RecvJob} {js : List RecvJob} (hbody : f.body = .sendReq n) (hrecvs : d.lnk.recvs = j :: js)
    (hopen : j.match? = none) (hpeer : j.peer = f.src) (hchannel : j.channel = f.channel) : sendRequest d =
    ((d.dequeue f rest).withRecvs ({ j with match? := some n } :: js)).sendControl f.src f.channel (.grant j.bytes) := by
  obtain ⟨hkept, -, -, -, -⟩ := dequeue_fields d f rest
  have hfirst : (j :: js).findIdx? (fun (j : RecvJob) => j.match?.isNone && j.peer == f.src && j.channel == f.channel) = some 0 := by
    simp [List.findIdx?_cons, hopen, hpeer, hchannel]
  unfold sendRequest
  rw [takeInbox_head hin (by simp [hbody])]
  simp only [hbody, hkept, hrecvs, hfirst, List.modify_zero_cons, List.getElem?_cons_zero, Option.map_some, Option.getD_some]
  rfl

theorem sendRequest_waits {n : Nat} (hbody : f.body = .sendReq n) (hrecvs : d.lnk.recvs = []) (hroom : d.lnk.requests.length < 256) : sendRequest d =
    { d.dequeue f rest with lnk := { (d.dequeue f rest).lnk with requests := d.lnk.requests ++ [⟨f.src, f.channel, n⟩] } } := by
  obtain ⟨hkept, -, hreqs, -, -⟩ := dequeue_fields d f rest
  unfold sendRequest
  rw [takeInbox_head hin (by simp [hbody])]
  simp only [hbody, hkept, hrecvs, List.findIdx?_nil, hreqs, hroom, if_true]

/-- A grant makes its SEND read SRC and transmit it; the next one of its channel follows. -/
theorem sendGrant_sends {n : Nat} {j : SendJob} {js : List SendJob} (hbody : f.body = .grant n) (hsends : d.lnk.sends = j :: js)
    (hstate : j.state = .requested) (hpeer : j.peer = f.src) (hchannel : j.channel = f.channel) : ∃ e : Dev,
    sendGrant d = e.requestNext j.peer j.channel ∧ e.lnk.sends = { j with state := .sent } :: js ∧ e.lnk.inbox = rest := by
  obtain ⟨-, hkept, -, -, hrest⟩ := dequeue_fields d f rest
  have hfirst : (j :: js).findIdx? (fun (j : SendJob) => j.state == .requested && j.peer == f.src && j.channel == f.channel) = some 0 := by
    simp [List.findIdx?_cons, hstate, hpeer, hchannel]
  have hlnk : ((d.dequeue f rest).readOut j.src j.bytes).2.lnk = (d.dequeue f rest).lnk := (readOut_only ..).same .lnk rfl
  refine ⟨((((d.dequeue f rest).readOut j.src j.bytes).2.modSend 0 (fun j => { j with state := .sent })).sendBulk j.peer j.channel
    ((cutFlits (j.bytes / 240 + 1) ((d.dequeue f rest).readOut j.src j.bytes).1).map .data)), ?_, ?_, ?_⟩
  · unfold sendGrant
    rw [takeInbox_head hin (by simp [hbody])]
    simp only [hkept, hsends, hfirst, List.getElem?_cons_zero]
  · rw [(transfers_iff.mp (sendBulk_transfers ..)).2.1, modSend_lnk, hlnk]
    simp [hkept, hsends]
  · rw [(transfers_iff.mp (sendBulk_transfers ..)).2.2.2.2, modSend_lnk, hlnk]
    exact hrest

theorem sendAcknowledged_ends {j : SendJob} {js : List SendJob} (hbody : f.body = .sendDone) (hsends : d.lnk.sends = j :: js)
    (hstate : j.state = .sent) (hpeer : j.peer = f.src) (hchannel : j.channel = f.channel) : sendAcknowledged d =
    { d.dequeue f rest with lnk := { (d.dequeue f rest).lnk with sends := js } } := by
  obtain ⟨-, hkept, -, -, -⟩ := dequeue_fields d f rest
  have hfirst : (j :: js).findIdx? (fun (j : SendJob) => j.state == .sent && j.peer == f.src && j.channel == f.channel) = some 0 := by
    simp [List.findIdx?_cons, hstate, hpeer, hchannel]
  unfold sendAcknowledged
  rw [takeInbox_head hin (by simp [hbody])]
  simp only [hkept, hsends, hfirst, List.eraseIdx_cons_zero]

/-- A RECV once more of its data has come. -/
def RecvJob.gains (j : RecvJob) (m : Mem) (bs : List Byte) : RecvJob :=
  { j with got := j.got + bs.length, lines := cellSetCells j.lines (recvCells m j bs) }

/-- Data short of the last joins its RECV. -/
theorem recvData_gains {bs : List Byte} {j : RecvJob} {js : List RecvJob} {n : Nat} (hbody : f.body = .data bs) (hrecvs : d.lnk.recvs = j :: js)
    (hmatch : j.match? = some n) (hpeer : j.peer = f.src) (hchannel : j.channel = f.channel) (hexcess : d.lnk.excess = [])
    (hshort : j.got + bs.length < min n j.bytes) : recvData d =
    { d.dequeue f rest with lnk := { (d.dequeue f rest).lnk with recvs := j.gains (d.dequeue f rest).mem bs :: js } } := by
  obtain ⟨hkept, -, -, hnone, -⟩ := dequeue_fields d f rest
  have harrived : j.arrived = false := by
    simp only [RecvJob.arrived, hmatch, decide_eq_false_iff_not]
    omega
  have hfirst : (j :: js).findIdx? (fun (j : RecvJob) => j.match?.isSome && !j.arrived && j.peer == f.src && j.channel == f.channel) = some 0 := by
    simp [List.findIdx?_cons, hmatch, harrived, hpeer, hchannel]
  have hmore : (j.gains (d.dequeue f rest).mem bs).arrived = false := by
    simp only [RecvJob.gains, RecvJob.arrived, hmatch, decide_eq_false_iff_not]
    omega
  unfold recvData
  rw [takeInbox_head hin (by simp [hbody])]
  simp only [hbody, hkept, hnone, hexcess, hrecvs, List.find?_nil, hfirst, List.modify_zero_cons, List.getElem?_cons_zero, Option.map_some, Option.getD_some]
  exact if_neg (fun h => absurd (hmore.symm.trans h) (by decide))

end

/-- A request refused long enough ago is made again. -/
theorem sendRequestRetry_asks {d : Dev} {j : SendJob} {js : List SendJob} {b : BitVec 52} (hsends : d.lnk.sends = j :: js) (hstate : j.state = .refused b)
    (hdue : 16 ≤ d.since b) : sendRequestRetry d = (d.modSend 0 (fun j => { j with state := .requested })).sendControl j.peer j.channel (.sendReq j.bytes) := by
  unfold sendRequestRetry
  simp [hsends, List.findIdx?_cons, hstate, hdue]

theorem modSend_reaches (d : Dev) (i : Nat) (g : SendJob → SendJob) (dest : BitVec 15) : (d.modSend i g).reaches dest = d.reaches dest := rfl

/-- A RECV once its timeout is reported. -/
def RecvJob.expiresWith (j k : RecvJob) : RecvJob := if k.core == j.core && k.idx == j.idx then { k with expired := true } else k

/-- A RECV whose timer has run out halts its queue. -/
theorem recvTimeout_expires {d : Dev} {j : RecvJob} {js : List RecvJob} (hrecvs : d.lnk.recvs = j :: js) (harrived : j.arrived = false)
    (hdue : j.timeout ≤ j.count) (hexpired : j.expired = false) : ∃ r, recvTimeout d =
      (((d.withRecvs (d.lnk.recvs.map j.expiresWith)).haltQueue j.core).setLnkEvent 5).writeRecord r := by
  have hfirst : d.lnk.recvs.find? (fun j => !j.arrived && decide (j.timeout ≤ j.count) && !j.expired) = some j := by
    simp [hrecvs, harrived, hdue, hexpired]
  unfold recvTimeout
  rw [hfirst]
  exact ⟨_, rfl⟩

/-- Settles O41: what each message of a SEND and a RECV changes. -/
theorem sendsMatchReceivesAndTransfer : Obligations.SendsMatchReceivesAndTransfer := by
  unfold Obligations.SendsMatchReceivesAndTransfer
  refine ⟨?matched, ?waits, ?retry, ?granted, ?next, ?acknowledged, ?data, ?timeout⟩
  case matched =>
    intro s p f rest n j js hin hbody hrecvs hopen hpeer hchannel hreach
    refine completes_of_run rfl ?_
    have hmem : (sendRequest s.dev).mem = s.dev.mem := (sendRequest_only s.dev).same .mem rfl
    obtain ⟨-, -, -, -, hrest⟩ := dequeue_fields s.dev f rest
    rw [hmem, sendRequest_matches hin hbody hrecvs hopen hpeer hchannel]
    obtain ⟨hrecvs', -, -, -, hinbox⟩ := transfers_iff.mp (sendControl_transfers ((s.dev.dequeue f rest).withRecvs ({ j with match? := some n } :: js))
      f.src f.channel (.grant j.bytes))
    rw [hrecvs', hinbox, (withRecvs_transfers ..).1, (withRecvs_transfers ..).2]
    exact ⟨rfl, rfl, sendControl_controlOut ((withRecvs_reaches ..).trans ((dequeue_reaches ..).trans hreach)) f.channel _, hrest, rfl⟩
  case waits =>
    intro s p f rest n hin hbody hrecvs hroom
    refine completes_of_run rfl ?_
    rw [sendRequest_waits hin hbody hrecvs hroom, dequeue_eq]
  case retry =>
    intro s j js b hsends hstate hdue hreach
    refine completes_of_run rfl ?_
    rw [sendRequestRetry_asks hsends hstate hdue]
    refine ⟨(transfers_iff.mp (sendControl_transfers ..)).2.1.trans ?_, sendControl_controlOut ((modSend_reaches ..).trans hreach) j.channel _⟩
    rw [modSend_lnk]
    simp [hsends]
  case granted =>
    intro s p f rest n j js hin hbody hsends hstate hpeer hchannel hothers
    refine completes_of_run rfl ?_
    have hmem : (sendGrant s.dev).mem = s.dev.mem := (sendGrant_only s.dev).same .mem rfl
    obtain ⟨e, heq, hsent, hinbox⟩ := sendGrant_sends hin hbody hsends hstate hpeer hchannel
    have hnone : e.requestNext j.peer j.channel = e := requestNext_none (by
      rw [hsent]
      intro i hi
      obtain rfl | hi := List.mem_cons.mp hi
      · exact fun _ => SendState.noConfusion
      · have := List.all_eq_true.mp hothers i hi
        simp [SendJob.goesTo] at this ⊢
        tauto)
    rw [hmem, heq, hnone]
    exact ⟨hsent, hinbox, rfl⟩
  case next =>
    intro s p f rest n j k ks hin hbody hsends hstate hpeer hchannel hkpeer hkchannel hready
    refine completes_of_run rfl ?_
    have hmem : (sendGrant s.dev).mem = s.dev.mem := (sendGrant_only s.dev).same .mem rfl
    obtain ⟨e, heq, hsent, -⟩ := sendGrant_sends hin hbody hsends hstate hpeer hchannel
    have hsame : e.requestNext j.peer j.channel = e.requestNext k.peer k.channel := by rw [hkpeer, hkchannel]
    rw [hmem, heq, hsame]
    exact ⟨requestNext_second hsent rfl hready, rfl⟩
  case acknowledged =>
    intro s p f rest j js hin hbody hsends hstate hpeer hchannel
    refine completes_of_run rfl ?_
    rw [sendAcknowledged_ends hin hbody hsends hstate hpeer hchannel, dequeue_eq]
  case data =>
    intro s p f rest bs j js n hin hbody hrecvs hmatch hpeer hchannel hexcess hshort
    refine completes_of_run rfl ?_
    obtain ⟨-, -, -, -, hrest⟩ := dequeue_fields s.dev f rest
    rw [recvData_gains hin hbody hrecvs hmatch hpeer hchannel hexcess hshort]
    exact ⟨rfl, rfl, hrest, (dequeue_only ..).same .cqs rfl, dequeue_mem ..⟩
  case timeout =>
    intro s j js hrecvs harrived hdue hexpired hcore
    refine completes_of_run rfl ?_
    have hmem : (recvTimeout s.dev).mem = s.dev.mem := (recvTimeout_only s.dev).same .mem rfl
    obtain ⟨r, heq⟩ := recvTimeout_expires hrecvs harrived hdue hexpired
    rw [hmem, heq, writeRecord_lnk, cq_of_cqs (writeRecord_cqs ..), cq_of_cqs (setLnkEvent_cqs ..)]
    exact ⟨haltQueue_haltedAt (d := s.dev.withRecvs _) hcore, getLsbD_raise _ 5 (by decide), rfl, rfl⟩

end Sys2Proof.Machine
end

section
/-! SUPPORT. A collective's result delivered over the shadow entries of an atomic region (R288, R338), and the machine on which the statement
about collectives fails. -/

namespace Sys2Proof.Machine

/-- A plan with an atomic region of one FP32 element at address 0 whose shadow entry lies from there on, too. -/
def shadowedPlan : Plan :=
  { handle := 1, func := 0, cores := [], imageAddr := 0, imageLen := 0
    img := { layout := { regions := [{ base := 0, len := 4, kind := 1, dtype := 0, shadow := 0 }] } } }

/-- A posted broadcast of 128 bytes to address 0, of the group's one member. -/
def receivingJob : CollJob :=
  { core := 0, handle := 1, idx := 0, tag := 0, group := 0, posted := true, rank := 0, src := 0, dst := 0, timeout := 0
    params := { op := 3, red := 0, srcFmt := 0, dstFmt := 0, wire := 0, bytes := 128, anchor := 0, size := 1 } }

/-- The first 56 of its result bytes. -/
def resultFlit : Flit := { type := 1, body := .result 0 0 128 0 (List.replicate 56 1) }

/-- The machine with that plan and that collective, once the result has come in. -/
def resultOnShadow : State := ⟨{ plans := [shadowedPlan], col := { jobs := [receivingJob] }, lnk := { inbox := [(0, resultFlit)] } }, []⟩

/-- The delivery unseeds the element's shadow entry: its eight bytes from 48 on read 0. -/
theorem resultOnShadow_unseeds : memBytes (collResult resultOnShadow.dev).mem.bytes 0 56 = List.replicate 48 1 ++ List.replicate 8 0 := by decide

/-- Refutes O42: the clause on result bytes says that DST then holds them all. A delivery unseeds the shadow entries of the elements that it
writes (R288), and no hypothesis keeps those entries out of the bytes delivered: in `resultOnShadow` eight of 56 bytes read 0 after it. -/
theorem not_collectivesAddUpAndDown : ¬ Obligations.CollectivesAddUpAndDown := by
  unfold Obligations.CollectivesAddUpAndDown
  rintro ⟨-, -, -, -, hresult, -⟩
  obtain ⟨hbytes, -⟩ := of_completes rfl (hresult resultOnShadow 0 0 128 0 resultFlit [] 0 (List.replicate 56 1) receivingJob []
    rfl rfl rfl rfl rfl rfl rfl rfl rfl rfl)
  have htaken : (List.replicate 56 (1 : Byte)).take (receivingJob.params.dstLen - 0) = List.replicate 56 1 := by decide
  rw [htaken] at hbytes
  exact absurd (resultOnShadow_unseeds.symm.trans hbytes) (by decide)

end Sys2Proof.Machine
end

section
/-! SUPPORT. A slot's own record delivered over the shadow entries of an atomic region (R288, R356), and the machine on which the statement
about stream frames and records fails. -/

namespace Sys2Proof.Machine

/-- A running plan whose slot at address 0 a record has claimed, with an atomic region of one FP32 element in the slot's payload whose shadow
entry lies there, too. -/
def shadowedSlotPlan : Plan :=
  { handle := 1, func := 0, cores := [], imageAddr := 0, imageLen := 0, state := .running, slotStates := [.claimed 0 0 0]
    img := { steps := [⟨0, 0⟩], slots := [⟨0, 0, 0, 64, 1, 0⟩]
             layout := { regions := [{ base := 64, len := 4, kind := 1, dtype := 0, shadow := 64 }] } } }

/-- The last payload of that record: 56 bytes that are 1. -/
def shadowedPayload : BufEnt := { header := List.replicate 48 0, claim := some (1, 0), off := 0, data := List.replicate 56 1, last := true }

/-- The machine with that plan, and the payload in the receive buffer of port 0. -/
def payloadOnShadow : State :=
  ⟨{ plans := [shadowedSlotPlan], stm := { ports := { link := 2, buf := [shadowedPayload] } :: List.replicate 3 {} } }, []⟩

/-- The delivery unseeds the element's shadow entry: its eight bytes from 112 on read 0. -/
theorem payloadOnShadow_unseeds : memBytes (slotRecord 0 payloadOnShadow.dev).mem.bytes 64 56 = List.replicate 48 1 ++ List.replicate 8 0 := by
  decide

/-- Refutes O43: the clause on a slot's own record says that the slot then holds its payload. A delivery unseeds the shadow entries of the elements
that it writes (R288), and no hypothesis keeps those entries out of the slot: in `payloadOnShadow` eight of 56 bytes read 0 after it. -/
theorem not_streamFramesAndRecords : ¬ Obligations.StreamFramesAndRecords := by
  unfold Obligations.StreamFramesAndRecords
  rintro ⟨-, -, -, -, hslot, -⟩
  obtain ⟨hbytes, -⟩ := of_completes rfl (hslot payloadOnShadow 0 shadowedPayload [] 1 0 shadowedSlotPlan
    rfl rfl rfl rfl rfl rfl rfl rfl rfl rfl (by decide))
  exact absurd (payloadOnShadow_unseeds.symm.trans hbytes) (by decide)

end Sys2Proof.Machine
end
